-- ==== Sys2Proof/Word.lean ====
section
/-! DEFINITION. The word types of the model, and the shapes of its plain data. -/

namespace Sys2Proof

/-- A byte. -/
abbrev Byte := BitVec 8

/-- A sparse table: keys strictly rising. What an unlisted key reads as stands where the table is declared. -/
abbrev Tbl (α : Type) := List (Nat × α)

/-- What host memory answers to the DMA reads of one command: pieces of address and bytes. A read that no piece
covers is answered with a completer abort. -/
abbrev HostImage := List (Nat × List Byte)

/-- A work identifier with what the host memory that its command reads holds. -/
structure HostWork where
  /-- the work identifier -/
  wid : BitVec 64
  /-- host memory -/
  image : HostImage
deriving DecidableEq, Repr

end Sys2Proof
end

