-- ==== Sys2Proof/Syntax.lean ====
section
/-! DEFINITION. The commands of the block: one constructor for each row of spec/opcode_table.json, in its order.
A slot command's row carries its WORK_ID (R56): its other operands are in the payload that the work journal saved
when the command was accepted (R417). `hm` is what the DMA reads of host memory that the command makes return.
An event's row carries what the outside sends with it. -/

namespace Sys2Proof

/-- Where an instruction executes: a logical team, one of its cores, and the code offset of the instruction. -/
structure Site where
  /-- logical team -/
  team : Nat
  /-- core, 0 to 15 -/
  core : Nat
  /-- code offset -/
  pc : BitVec 32
deriving DecidableEq, Repr

/-- The FP32 results of one projection of one token: given as they are, or as R252 forms them for a token bound to an
adapter: the exact sums W·x of the outputs as EP64 records (R98), the BF16 codes of x, and where the matrices A and B
of this projection start in the adapter's image. -/
inductive Proj where
  | plain (ys : List (BitVec 32))
  | adapted (wx : List (List Byte)) (x : List (BitVec 16)) (aOff bOff : Nat)
deriving DecidableEq, Repr

/-- What the forward pass of one item of a work list gives (R257): the logits row of the sampled position; for each
position of the item and each MoE layer the router scores; for each position and each layer the FP32 key and value
outputs of the heads, and the queries of each key-value head's group as they are fed to the score product (R269). An
empty list stands for results that the kernel's own stores have left in memory. -/
structure Forward where
  /-- the logits row -/
  logits : Proj
  /-- router scores: position, MoE layer, expert -/
  scores : List (List Proj)
  /-- keys: position, layer, head-major elements -/
  keys : List (List Proj)
  /-- values: position, layer, head-major elements -/
  values : List (List Proj)
  /-- queries, FP32: position, layer, key-value head, query head of the group, elements -/
  queries : List (List (List (List (List (BitVec 32)))))
deriving DecidableEq, Repr

/-- What the leader of a loop tells a member over the Traces, and a member its leader (R264, R345, R347, R360): the
loop starts on the member, a work list, the drain, the resume, the loop's end; and that a part's loop task is saved. -/
inductive LoopNews where
  | start (leader : BitVec 16) (kernel teams : Nat) (mask : List Nat) (berths seqLimit budget chunk : Nat)
  | list (bytes : List Byte)
  | drain
  | resume (mask : List Nat)
  | stop (forced : Bool)
  | saved (part : BitVec 16)
deriving DecidableEq, Repr

/-- A message of the Traces (R372, Table 11-3). -/
structure Msg where
  /-- destination part -/
  dest : BitVec 16
  /-- source part -/
  src : BitVec 16
  /-- MTAG -/
  mtag : BitVec 16
  /-- KIND, 0 to 6 -/
  kind : Nat
  /-- detoured through an intermediate part on VC 3 (R386) -/
  fwd : Bool
  /-- RESEND -/
  resend : Bool
  /-- ROUND -/
  round : Nat
  /-- GROUP, or the window number -/
  group : BitVec 32
  /-- SEQ, or the window message number -/
  seq : Nat
  /-- OFFSET -/
  off : Nat
  /-- LENGTH -/
  len : Nat
  /-- CHUNK -/
  chunk : Nat
  /-- SRC_RANK -/
  rank : Nat
  /-- status that an abort carries -/
  status : BitVec 16
  /-- SHAPE -/
  shape : BitVec 64
  /-- MEMBERS digest of a first grant (R396) -/
  members : Option (BitVec 64)
  /-- a done of a window message -/
  window : Bool
  /-- data -/
  data : List Byte
  /-- poisoned 256 B lines of the data, from the poison map flits -/
  poison : List Nat
  /-- FSEQ of its head flit -/
  fseq : Nat
  /-- its flits' CRCs are correct -/
  crc : Bool
  /-- a reserved TYPE, KIND or field is nonzero -/
  reserved : Bool
deriving DecidableEq, Repr

/-- Element formats of engine tiles and of vector operands (R81, R108): MX formats, per-tensor formats, results. -/
inductive ElemFmt where
  | mxfp4
  | mxfp6e2m3
  | mxfp6e3m2
  | mxe4m3
  | mxe5m2
  | mxint8
  | e4m3
  | e5m2
  | int8
  | bf16
  | fp16
  | fp32
  | int32
  | ep16
deriving DecidableEq, Repr

/-- How a vector register is read: 32 lanes of FP32, or 64 elements of 16 bits packed two to a lane (R16). -/
inductive Lanes where
  | f32
  | bf16
  | fp16
deriving DecidableEq, Repr

/-- The rounding of an instruction or descriptor (R101 to R104). -/
structure Rnd where
  /-- RMODE -/
  mode : Nat
  /-- SAT -/
  sat : Bool
  /-- the task's 64-bit rounding seed, the key of stochastic rounding (R104). DESIGN CHOICE (log entry 147): no command
  and no register of the spec carries the seed, so each instruction brings it -/
  seed : BitVec 64
  /-- stream identifier of the output tensor -/
  stream : BitVec 32
  /-- logical index of the first element -/
  index : Nat
deriving DecidableEq, Repr

/-- A device that a scan of the parking tier's port finds (R239). -/
structure CxlFound where
  /-- port -/
  port : Nat
  /-- serial number -/
  serial : BitVec 64
  /-- GiB -/
  capacity : Nat
  /-- the link trained at 32 GT/s in 68-byte flit mode -/
  slow : Bool
deriving DecidableEq, Repr

/-- The overflow area of one tile of exact partials (R111). -/
structure OverArea where
  /-- address of the overflow buffer, in any tier -/
  buffer : Nat
  /-- the tile's number t in its partial buffer -/
  tile : Nat
  /-- tiles of the partial buffer -/
  tiles : Nat
deriving DecidableEq, Repr

/-- A tile of exact partials that a product merges into its accumulators (R96 to R99, R111). -/
structure PartialTile where
  /-- Basin address of the EP16 tile -/
  tile : Nat
  /-- its overflow area, none where not named -/
  records : Option OverArea
deriving DecidableEq, Repr

/-- The final rounding of a product (R94, R95, R110, R111). -/
structure Finish where
  /-- output format -/
  fmt : ElemFmt
  /-- rounding -/
  rnd : Rnd
  /-- elements from one output row to the next in the logical index -/
  stride : Nat
  /-- Basin address of the bias vector, 32 FP32 values -/
  bias : Option Nat
  /-- per-column scale exponents, none where not named -/
  scales : List Int
  /-- Basin address of the output tile -/
  out : Nat
  /-- first row of the block in its tile -/
  row : Nat
  /-- first column of the block in its tile -/
  col : Nat
  /-- overflow area of the output tile of exact partials -/
  overflow : Option OverArea
deriving DecidableEq, Repr

/-- A picture as the H.265 decoding process reconstructs it (R444), with the coding tree units that it could not. -/
structure Pic where
  /-- luma width after the conformance window -/
  width : Nat
  /-- luma height after the conformance window -/
  height : Nat
  /-- bit depth, 8 or 10 -/
  depth : Nat
  /-- profile: 1 Main, 2 Main 10, anything else a profile that the part does not support -/
  profile : Nat
  /-- general_level_idc -/
  level : Nat
  /-- PicOrderCntVal -/
  poc : Int
  /-- luma samples in raster order -/
  y : List (BitVec 16)
  /-- Cb samples -/
  cb : List (BitVec 16)
  /-- Cr samples -/
  cr : List (BitVec 16)
  /-- coding tree block size -/
  ctb : Nat
  /-- coding tree units of slice segments that are concealed, in raster order (R448) -/
  lost : List Nat
  /-- a decoded picture hash was present and differs -/
  mismatch : Bool
deriving DecidableEq, Repr

/-- What a Frame Quay pipe has done when it ends (R444, R449, R457). -/
structure Coded where
  /-- decode: tiles of IN that were read -/
  tiles : Nat
  /-- decode: pictures skipped because no IRAP picture came before them -/
  skipped : Nat
  /-- decode: the picture, none when the bytes read held no complete one -/
  pic : Option Pic
  /-- decode: numbers of the pictures that leave the decoded picture buffer now, in output order (Annex C.5.2) -/
  outs : List Nat
  /-- decode: TYPE, 0 IDR, 1 other I, 2 P, 3 B -/
  kind : Nat
  /-- encode: the input picture's bytes, where it lies in host memory -/
  src : List Byte
  /-- encode: host memory delivered them poisoned -/
  srcBad : Bool
deriving DecidableEq, Repr

/-- One array step of a product descriptor (R86 to R95, R108, R110). -/
structure Product where
  /-- format of the left operand -/
  fa : ElemFmt
  /-- format of the right operand -/
  fb : ElemFmt
  /-- Basin address of the left tile -/
  a : Nat
  /-- first row of the band in the left tile -/
  aRow : Nat
  /-- first element of the step along K in the left tile -/
  aK : Nat
  /-- Basin address of the right tile -/
  b : Nat
  /-- first row of the band in the right tile -/
  bRow : Nat
  /-- first element of the step along K in the right tile -/
  bK : Nat
  /-- tensor scale code of the left operand, where its format is per-tensor -/
  ea : BitVec 8
  /-- tensor scale code of the right operand -/
  eb : BitVec 8
  /-- reduction length K of the product -/
  k : Nat
  /-- elements of this step that belong to the product; the rest are padded with zero products -/
  n : Nat
  /-- tiles of exact partials that this step merges in (R99) -/
  merge : List PartialTile
  /-- the final rounding, where this step ends the product -/
  fin : Option Finish
deriving DecidableEq, Repr

/-- Vector lane operations (R113, R115). -/
inductive VecOp where
  | add
  | sub
  | mul
  | fma
  | div
  | sqrt
  | max
  | min
  | cvt (src dst : ElemFmt) (srcScale dstScale : BitVec 8)
deriving DecidableEq, Repr

/-- Vector reductions (R114). -/
inductive RedOp where
  | sum
  | max
  | min
deriving DecidableEq, Repr

/-- An exact partial in memory: an EP16 entry, and the EP64 record that holds it where it is WIDE (R96, R98, R111). -/
structure ExPart where
  /-- Basin address of the 16-byte entry -/
  entry : Nat
  /-- Basin address of the 64-byte record, none where not named -/
  record : Option Nat
deriving DecidableEq, Repr

/-- What an exact reduction does with its core's register (R116). -/
structure ExCtl where
  /-- the register starts at zero -/
  clear : Bool
  /-- registers of other cores of the task, team and core, merged in -/
  merge : List (Nat × Nat)
  /-- exact partials in memory that are merged in -/
  parts : List ExPart
  /-- the exact partial that the register is written to -/
  out : Option ExPart
  /-- the final rounding and the scalar register that receives it -/
  fin : Option (Rnd × Nat)
deriving DecidableEq, Repr

/-- A register, or a place in the core's window. -/
inductive Place where
  | s (i : Nat)
  | m (i : Nat)
  | v (i : Nat)
  | scratch (off : Nat)
deriving DecidableEq, Repr

/-- The unit that an engine fault reset stops (Table 6-10). -/
inductive EngineUnit where
  /-- the fill or drain engine, or PCIe engine, of a STREAM_BIND or NVW_PROGRAM -/
  | bind (w : BitVec 64)
  /-- the Trace port or collective engine that serves a collective command -/
  | coll (w : BitVec 64)
  /-- the Trace port that serves a TRACE_SEND -/
  | send (w : BitVec 64)
  /-- the CXL controller of a port -/
  | cxl (dev : Nat)
  /-- the Frame Quay -/
  | quay
deriving DecidableEq, Repr

/-- What an MCTP message of the management controller asks (R74, R471, R472, R521). -/
inductive MctpAsk where
  /-- data of Iluvo's -/
  | iluvo
  /-- what Kryto answers by itself -/
  | kryto
  /-- a power cap, W -/
  | cap (w : Nat)
  /-- a report of the board rails' power, mW -/
  | boardPower (mw : Nat)
deriving DecidableEq, Repr

/-- What an SPDM request asks (R60, R490, R501). -/
inductive SpdmReq where
  /-- the exchange that establishes a secured session -/
  | setup
  /-- the owner key, 48 bytes -/
  | installOwner (key : List Byte)
  /-- another owner key, with the exchange's transcript and the HMAC over it -/
  | replaceOwner (key transcript tag : List Byte)
  /-- the measurement record -/
  | measurements
  /-- private access to the test access port -/
  | unlockTap
  /-- any other request -/
  | other
deriving DecidableEq, Repr

/-- A reference input (Table 16-8). -/
inductive RefClk where
  | pcie
  | aux
  | trace0
  | trace1
  | xtal
deriving DecidableEq, Repr

/-- A command: what the host, a pin, a peer or one of the part's own engines does next. -/
inductive Instr where
  /-- REGISTER_WRITE (R47): Host write to a BAR0 register field that has no behaviour of its own (SQ_BASE, CQ_BASE, INT_MASK, MSIX_VECTOR, reserved offsets) sets or ignores the value. -/
  | registerWrite (fn off : Nat) (v : BitVec 32)
  /-- INT_STATUS_WRITE (R47): Host W1C write to INT_STATUS clears the ring interrupt bits written as 1. -/
  | intStatusWrite (fn : Nat) (v : BitVec 32)
  /-- VIOLATIONS_READ (R47): Host read of the read-clear VIOLATIONS register returns the count of host protocol violations and clears it. -/
  | violationsRead (fn : Nat)
  /-- REGISTER_64_LOW_WORD_READ (R47): Read of the low word of a 64-bit register such as TIME_NOW latches its high word for the next read. -/
  | register64LowWordRead (fn off : Nat)
  /-- BAR0_ACCESS_BEFORE_LIVE (R72): A BAR0 read before the window is live completes as an unsupported request and a BAR0 write is dropped, with no count and no register change. -/
  | bar0AccessBeforeLive (fn off : Nat) (wr : Bool) (v : BitVec 32)
  /-- ENABLE_WRITE (R52): Write of a ring's ENABLE settles its completions, and a write of 1 also resets SQ_HEAD, the doorbell values and the phase and clears QUARANTINED. -/
  | enableWrite (ring : Nat) (v : BitVec 32)
  /-- SQ_TAIL (R53): Host writes the SQ_TAIL doorbell, exposing new command slots on the ring or committing a violation. -/
  | sqTail (ring : Nat) (v : BitVec 32)
  /-- CQ_HEAD (R52): Host writes the CQ_HEAD doorbell, consuming completion entries, freeing fetch credits and letting held completions be written. -/
  | cqHead (ring : Nat) (v : BitVec 32)
  /-- SLOT_FETCH (R53): Harbourmaster, in round-robin order, starts the DMA fetch of the next exposed slot of a ring that has a free fetch credit. -/
  | slotFetch
  /-- SLOT_ARRIVAL (R54): A fetched slot, with any indirect payload, arrives, and its header is checked, journaled and accepted or rejected. -/
  | slotArrival (ring : Nat) (slot : Option (List Byte)) (payload : Option (List Byte))
  /-- FUNCTION_LEVEL_RESET (R69): A function-level reset of a VF stops fetching on its rings, fails undispatched work and host-data transfers, and stores outcome records. -/
  | functionLevelReset (fn : Nat)
  /-- PF_FUNCTION_LEVEL_RESET (R70): A function-level reset of the PF acts on the management session and also resets VF 1 to VF 8. -/
  | pfFunctionLevelReset
  /-- SESSION_LOCKOUT_END (R62): The 60 s session lockout on a function expires, and PART_STATE.LOCKED clears. -/
  | sessionLockoutEnd (fn : Nat)
  /-- CONTROL_READY (R74): Iluvo finishes booting, PART_STATE reads CONTROL_READY, and opcodes 0x00xx and 0x0Axx are accepted. -/
  | controlReady
  /-- PART_READY (R72): HBM4 training completes, PART_STATE reads READY or DEGRADED, and every opcode is accepted. -/
  | partReady
  /-- PART_IDENTIFY (R77): Basic pre-session command returns the part identifier, state and enabled team count. -/
  | partIdentify (w : BitVec 64)
  /-- PART_IDENTIFY_EXPERT (R77): Expert pre-session command also writes a 256-byte record of revision, spares and mapped-out channels. -/
  | partIdentifyExpert (w : BitVec 64)
  /-- SESSION_CHALLENGE (R61): Pre-session command writes a 32-byte nonce and returns its handle. -/
  | sessionChallenge (w : BitVec 64)
  /-- SESSION_CHALLENGE_EXPERT (R61): Expert challenge that also returns the remaining lockout budget. -/
  | sessionChallengeExpert (w : BitVec 64)
  /-- SESSION_OPEN (R61): Pre-session command checks the HMAC tag against the nonce and key and opens the session on all 32 rings. -/
  | sessionOpen (w : BitVec 64)
  /-- SESSION_OPEN_EXPERT (R61): Opens the session only on the rings of a ring mask that includes ring 0. -/
  | sessionOpenExpert (w : BitVec 64)
  /-- SESSION_CLOSE (R65): Closes the session after every earlier accepted command has completed. -/
  | sessionClose (w : BitVec 64)
  /-- SESSION_CLOSE_EXPERT (R65): With ABORT set, withdraws undispatched commands with ST_SESSION_CLOSED before closing. -/
  | sessionCloseExpert (w : BitVec 64)
  /-- CMD_CANCEL (R75): Cancels a target command by work identifier, decided at the dispatch point under Table 2-9. -/
  | cmdCancel (w : BitVec 64)
  /-- CMD_CANCEL_EXPERT (R75): Cancel that also returns the target's SEQ and global ring number. -/
  | cmdCancelExpert (w : BitVec 64)
  /-- WORK_QUERY (R69): Writes up to 1,024 pending outcomes to a buffer and removes them from the store. -/
  | workQuery (w : BitVec 64)
  /-- WORK_QUERY_EXPERT (R69): Returns the pending outcomes of one ring of the calling function. -/
  | workQueryExpert (w : BitVec 64)
  /-- NOP (R77): Completes at once with RESULT equal to LENGTH. -/
  | nop (w : BitVec 64)
  /-- NOP_EXPERT (R77): Completes no earlier than a given delay. -/
  | nopExpert (w : BitVec 64)
  /-- PADDOCK_CREATE (R66): Creates a paddock with a team allotment and an HBM quota, taking the defaults for the other parameters. -/
  | paddockCreate (w : BitVec 64)
  /-- PADDOCK_CREATE_EXPERT (R79): Creates a paddock from the full 64-byte paddock record. -/
  | paddockCreateExpert (w : BitVec 64)
  /-- PADDOCK_MODIFY (R68): Changes a paddock's teams and HBM quota, growing at once or shrinking as released teams leave. -/
  | paddockModify (w : BitVec 64)
  /-- PADDOCK_MODIFY_EXPERT (R79): Modifies any paddock parameter, leaving all-ones fields unchanged. -/
  | paddockModifyExpert (w : BitVec 64)
  /-- PADDOCK_DESTROY (R68): Closes the session, stops the paddock's work, cancels its entries and releases its allocations, teams and key. -/
  | paddockDestroy (w : BitVec 64)
  /-- PADDOCK_DESTROY_EXPERT (R68): Destroy that completes only after the paddock's memory has been zeroed. -/
  | paddockDestroyExpert (w : BitVec 64)
  /-- PADDOCK_QUERY (R77): Writes the caller's paddock record, or the records of all paddocks on the management session. -/
  | paddockQuery (w : BitVec 64)
  /-- PADDOCK_QUERY_EXPERT (R77): Writes the record of one named paddock. -/
  | paddockQueryExpert (w : BitVec 64)
  /-- PADDOCK_KEY_SET (R78): Unwraps and installs a paddock's tenant key, effective at its next SESSION_OPEN. -/
  | paddockKeySet (w : BitVec 64)
  /-- PADDOCK_KEY_SET_EXPERT (R78): Key set that requires a key-generation counter above the stored one. -/
  | paddockKeySetExpert (w : BitVec 64)
  /-- ARRAY_STEP (R86): A team array step multiplies L element pairs per DPU and adds the exact terms to the 384-bit accumulators. -/
  | arrayStep (k : Site) (p : Product)
  /-- QMX (R106): Vector instruction that quantises 32 FP32 or BF16 values to one MX block with its E8M0 scale. -/
  | qmx (k : Site) (f : ElemFmt) (ln : Lanes) (hi : Bool) (r : Rnd) (vs vd sd : Nat)
  /-- VECTOR_ARITHMETIC (R113): A vector lane operation (add, multiply, fma, divide, sqrt, conversion) correctly rounded under RMODE. -/
  | vectorArithmetic (k : Site) (op : VecOp) (ln : Lanes) (r : Rnd) (vd va vb vc : Nat)
  /-- VECTOR_REDUCTION (R114): A vector sum, maximum or minimum over logical indices by the fixed pairwise tree. -/
  | vectorReduction (k : Site) (op : RedOp) (ln : Lanes) (r : Rnd) (src : List (Nat × Nat × Nat)) (n sd : Nat) (saved : Option Nat)
  /-- EXSUM (R116): Exact sum of inputs in the 384-bit register, rounded once. -/
  | exsum (k : Site) (ln : Lanes) (va : List Nat) (n : Nat) (ex : ExCtl)
  /-- EXSUMSQ (R116): Exact sum of squares of inputs, rounded once. -/
  | exsumsq (k : Site) (ln : Lanes) (va : List Nat) (n : Nat) (ex : ExCtl)
  /-- EXDOT (R116): Exact dot product of two vectors, rounded once. -/
  | exdot (k : Site) (ln : Lanes) (va vb : List Nat) (n : Nat) (ex : ExCtl)
  /-- EXP (R118): Computes exp by the reference procedure. -/
  | exp (k : Site) (ln : Lanes) (vd va : Nat)
  /-- EXPM1 (R118): Computes expm1 by the reference procedure. -/
  | expm1 (k : Site) (ln : Lanes) (vd va : Nat)
  /-- LOG (R119): Computes log by the reference procedure. -/
  | log (k : Site) (ln : Lanes) (vd va : Nat)
  /-- TANH (R120): Computes tanh by the reference procedure. -/
  | tanh (k : Site) (ln : Lanes) (vd va : Nat)
  /-- SIGMOID (R120): Computes sigmoid by the reference procedure. -/
  | sigmoid (k : Site) (ln : Lanes) (vd va : Nat)
  /-- SILU (R120): Computes silu by the reference procedure. -/
  | silu (k : Site) (ln : Lanes) (vd va : Nat)
  /-- LFRAND (R139): Advances the lane's native generator once and returns the new word. -/
  | lfrand (k : Site) (vd : Nat)
  /-- LFSEED (R139): Seeds the lane's native generator from a CB4x32-10 block in domain 15. -/
  | lfseed (k : Site) (ss : Nat)
  /-- CBRAND (R129): Computes one CB4x32-10 block from a key and a counter. -/
  | cbrand (k : Site) (vd sk vc : Nat)
  /-- CBUNIF (R134): Computes four uniforms from one CB4x32-10 block. -/
  | cbunif (k : Site) (vd sk vc : Nat)
  /-- CBNORM (R135): Computes four normal deviates from one CB4x32-10 block. -/
  | cbnorm (k : Site) (vd sk vc : Nat)
  /-- TBNORM (R136): Computes one normal deviate from a word by table interpolation. -/
  | tbnorm (k : Site) (vd vw off : Nat)
  /-- PPOT (R310): Computes the clipped surrogate term and its derivative per lane. -/
  | ppot (k : Site) (l dl lpNew lpOld a elo ehi : Nat)
  /-- TISW (R310): Computes the capped importance weight per lane. -/
  | tisw (k : Site) (vd lpA lpB cap : Nat)
  /-- KLT (R310): Computes the KL term of the given kind and its derivative per lane. -/
  | klt (k : Site) (vk vdk lpNew lpRef kind : Nat)
  /-- LPCMP (R296): Compares recomputed and recorded log-probabilities and updates LP_CHECKED and LP_MISMATCH. -/
  | lpcmp (k : Site) (lp rec ver learnVer seqs poss n : Nat)
  /-- BASIN_LOAD (R192): A core load from the Basin, which poisons its destination when any line read is poisoned. -/
  | basinLoad (k : Site) (dst : Place) (ra off n : Nat) (ecc : List (Nat × Bool))
  /-- BASIN_STORE (R192): A core store to the Basin, which writes poisoned lines from poisoned sources. -/
  | basinStore (k : Site) (src : Place) (ra off n : Nat)
  /-- TRAP (R165): A TRAP instruction raises a kernel-class team exception carrying its operand. -/
  | trap (k : Site) (v : BitVec 16)
  /-- SRD (R184): Team requests a burst of N tiles from a stream as consumer, releasing its previous burst. -/
  | srd (k : Site) (rh rc rn rs rx : Nat)
  /-- SREL (R186): Team releases its held burst on a stream. -/
  | srel (k : Site) (rh rc rs : Nat)
  /-- SWR (R183): Team commits one tile to a stream as producer, waiting on ring credit. -/
  | swr (k : Site) (rh ro rs : Nat)
  /-- SCLOSE (R182): Producer closes a stream. -/
  | sclose (k : Site) (rh rs : Nat)
  /-- SABORT (R185): Aborts an OPEN stream and fixes its poison limit. -/
  | sabort (k : Site) (rh rs : Nat)
  /-- BARV (R194): The team arrives once at a barrier after all 16 cores execute BARV. -/
  | barv (k : Site) (rb rs : Nat)
  /-- BWAIT (R188): Team waits until the barrier phase in which it last arrived completes. -/
  | bwait (k : Site) (rb rs : Nat)
  /-- TEAM_AT_PREEMPTION_POINT (R158): A team reaches a marked point or a wait after a pre-emption request, and the last team to arrive suspends the task resident or saved. -/
  | teamAtPreemptionPoint (team : Nat) (point : Option Nat)
  /-- FORCED_STOP (R158): The task's grace time expires and the team stops at the next array step boundary. -/
  | forcedStop (team : Nat)
  /-- SAVE_COMPLETE (R161): The live state of a pre-empted task has been written to its save area, and its teams are released. -/
  | saveComplete (w : BitVec 64)
  /-- RESTORE_COMPLETE (R162): A saved task's state has been restored on its placed teams, and it runs again. -/
  | restoreComplete (w : BitVec 64)
  /-- TASK_PLACEMENT (R154): Iluvo places a waiting task on free teams of the allotment, choosing its context number and windows. -/
  | taskPlacement (w : BitVec 64)
  /-- PLACEMENT_WAIT_LIMIT (R155): The earliest waiting task reaches 10 ms of waiting, and no later task of its class may pass it. -/
  | placementWaitLimit (pad : Nat)
  /-- TASK_END (R157): The task's last team ends, and the task becomes DONE once its stores have committed, its launch completing and its contexts reseeded. -/
  | taskEnd (w : BitVec 64) (rank : Nat)
  /-- TEAM_EXCEPTION (R166): A team raises an exception cause, stops at its step boundary, and Iluvo stops the task's teams and fails it. -/
  | teamException (k : Site) (cause addr : Nat) (more : List (Nat × Nat × Nat × Nat)) (dirty : List (BitVec 64))
  /-- TIME_LIMIT (R165): A task's running time reaches TIME_LIMIT and raises cause 0x08. -/
  | timeLimit (w : BitVec 64) (rank core : Nat)
  /-- ARRAY_ACK (R165): A slice has not acknowledged an array step within 100 µs, which raises a hardware-class exception. -/
  | arrayAck (k : Site) (dirty : List (BitVec 64))
  /-- KERNEL_LOAD (R152): Checks a kernel image and copies its code into the Basin quarters of the allotment. -/
  | kernelLoad (w : BitVec 64) (hm : HostImage)
  /-- KERNEL_LOAD_EXPERT (R152): Kernel load with copies in the quarters of a mask. -/
  | kernelLoadExpert (w : BitVec 64) (hm : HostImage)
  /-- KERNEL_UNLOAD (R170): Unloads a kernel not in use by any task. -/
  | kernelUnload (w : BitVec 64)
  /-- KERNEL_UNLOAD_EXPERT (R170): Unload that with WAIT completes after the last user task ends. -/
  | kernelUnloadExpert (w : BitVec 64)
  /-- TASK_LAUNCH (R171): Launches a task of a loaded kernel, and completes when the task reaches a final state. -/
  | taskLaunch (w : BitVec 64) (hm : HostImage)
  /-- TASK_LAUNCH_EXPERT (R154): Launch with team mask, context, class, grace, time limit, save tier and exception buffer. -/
  | taskLaunchExpert (w : BitVec 64) (hm : HostImage)
  /-- TASK_ABORT (R169): Aborts a task under Table 5-10. -/
  | taskAbort (w : BitVec 64)
  /-- TASK_ABORT_EXPERT (R169): Abort with a logged reason. -/
  | taskAbortExpert (w : BitVec 64)
  /-- TASK_PREEMPT (R157): Pre-empts a running task to a resident or saved suspension. -/
  | taskPreempt (w : BitVec 64)
  /-- TASK_PREEMPT_EXPERT (R158): Pre-emption with FORCE or SAVE. -/
  | taskPreemptExpert (w : BitVec 64)
  /-- TASK_RESUME (R164): Resumes a suspended task. -/
  | taskResume (w : BitVec 64)
  /-- TASK_RESUME_EXPERT (R164): Resume on the teams of a mask. -/
  | taskResumeExpert (w : BitVec 64)
  /-- TASK_QUERY (R170): Writes a task's record and its exception records. -/
  | taskQuery (w : BitVec 64)
  /-- TASK_QUERY_EXPERT (R170): Writes one record per non-final task of the paddock. -/
  | taskQueryExpert (w : BitVec 64)
  /-- TEAM_QUERY (R170): Writes the state of each team of the allotment. -/
  | teamQuery (w : BitVec 64)
  /-- TEAM_QUERY_EXPERT (R170): Writes team state for the teams of a mask. -/
  | teamQueryExpert (w : BitVec 64)
  /-- RNG_FILL (R143): Fills a destination with CB4x32-10 words, uniforms or normals. -/
  | rngFill (w : BitVec 64)
  /-- RNG_FILL_EXPERT (R143): Fill with a SUBJECT and a table address. -/
  | rngFillExpert (w : BitVec 64) (hm : HostImage)
  /-- RNG_CHECK (R144): Runs the known-answer test on the reference copy and on each idle team of the allotment. -/
  | rngCheck (w : BitVec 64) (bad : Option Nat)
  /-- RNG_CHECK_EXPERT (R144): Known-answer test on the teams of a mask. -/
  | rngCheckExpert (w : BitVec 64) (bad : Option Nat)
  /-- RNG_LANE_STATE (R145): Reads the 512 bytes of native generator state of one context of one core. -/
  | rngLaneState (w : BitVec 64)
  /-- RNG_LANE_STATE_EXPERT (R145): Reads or, with WRITE, writes a context's native generator state. -/
  | rngLaneStateExpert (w : BitVec 64) (hm : HostImage)
  /-- TILE_COMMIT (R178): The last beat of a burst to a tile lands, and the tile commits atomically. -/
  | tileCommit (h t : Nat)
  /-- BURST_DELIVERY (R184): A waiting consumer burst becomes satisfiable, or its stream closes or aborts, and it is delivered with its status word. -/
  | burstDelivery (h c : Nat)
  /-- POISON_TILE_COMMIT (R185): After an abort, the part commits a missing tile as poisoned zeros once its slot is free. -/
  | poisonTileCommit (h : Nat)
  /-- BIND_TRANSFER_END (R207): An engine bound by STREAM_BIND ends its transfer, completes the bind and arrives at its done barrier. -/
  | bindTransferEnd (w : BitVec 64)
  /-- BASIN_SCRUB (R180): Scrub reads and rewrites a Basin line in an idle bank access. -/
  | basinScrub (q outcome : Nat)
  /-- TRANSACTION_TAG_GRANT (R199): A waiting tier request obtains a transaction tag and is issued. -/
  | transactionTagGrant (w : BitVec 64) (tile line : Nat)
  /-- TIER_READ_RESPONSE (R198): Read data of a 256 B line arrives from HBM4, NVW or the parking tier and lands in the Basin, corrected or poisoned. -/
  | tierReadResponse (tag : Nat) (errs : List Nat)
  /-- TIER_WRITE_ACK (R198): A tier acknowledges a line write and its tag is freed. -/
  | tierWriteAck (tag : Nat)
  /-- TIER_REQUEST_TIMEOUT (R200): An HBM4 or NVW request unanswered after 100 µs is timed out, its read poisoned or its write reported as a fault. -/
  | tierRequestTimeout (tag : Nat)
  /-- ENGINE_FAULT_RESET (R202): Iluvo resets a faulty engine, aborting its streams and failing its work with ST_MASTER_RESET. -/
  | engineFaultReset (u : EngineUnit)
  /-- UNCOMMITTED_TILE_DISCARD (R204): Tiles still uncommitted 50 µs after a warm reset are discarded whole. -/
  | uncommittedTileDiscard
  /-- STREAM_OPEN (R206): Opens a stream ring over a Basin allocation. -/
  | streamOpen (w : BitVec 64)
  /-- STREAM_OPEN_EXPERT (R206): Stream open with an end barrier and flags. -/
  | streamOpenExpert (w : BitVec 64)
  /-- STREAM_BIND (R207): Binds an engine as producer or consumer of a stream and starts its transfer. -/
  | streamBind (w : BitVec 64)
  /-- STREAM_BIND_EXPERT (R207): Bind with burst, stride, done barrier and KEEP_OPEN. -/
  | streamBindExpert (w : BitVec 64)
  /-- STREAM_CLOSE (R206): Host closes a stream that has no bound producer. -/
  | streamClose (w : BitVec 64)
  /-- STREAM_CLOSE_EXPERT (R206): Close that with WAIT completes when every consumer has received END. -/
  | streamCloseExpert (w : BitVec 64)
  /-- STREAM_ABORT (R185): Host aborts an OPEN stream. -/
  | streamAbort (w : BitVec 64)
  /-- STREAM_ABORT_EXPERT (R185): Abort with a logged reason. -/
  | streamAbortExpert (w : BitVec 64)
  /-- STREAM_QUERY (R208): Writes a stream's 64-byte record. -/
  | streamQuery (w : BitVec 64)
  /-- STREAM_QUERY_EXPERT (R208): Writes one record per stream of the paddock. -/
  | streamQueryExpert (w : BitVec 64)
  /-- STREAM_FREE (R182): Frees an ended stream. -/
  | streamFree (w : BitVec 64)
  /-- STREAM_FREE_EXPERT (R182): With FORCE, frees a stream in any state, completing waiting bursts at once. -/
  | streamFreeExpert (w : BitVec 64)
  /-- STREAM_REARM (R186): Returns an ended stream to OPEN at index 0. -/
  | streamRearm (w : BitVec 64)
  /-- STREAM_REARM_EXPERT (R186): Rearm with a new EXPECTED. -/
  | streamRearmExpert (w : BitVec 64)
  /-- BARRIER_CREATE (R194): Creates a barrier with EXPECT. -/
  | barrierCreate (w : BitVec 64)
  /-- BARRIER_CREATE_EXPERT (R196): Creates a barrier with drain streams and AUTO_REARM. -/
  | barrierCreateExpert (w : BitVec 64)
  /-- BARRIER_ARRIVE (R194): Host arrives at a barrier. -/
  | barrierArrive (w : BitVec 64)
  /-- BARRIER_ARRIVE_EXPERT (R194): Host arrival that with WAIT completes when its phase completes. -/
  | barrierArriveExpert (w : BitVec 64)
  /-- BARRIER_DESTROY (R197): Frees an idle barrier. -/
  | barrierDestroy (w : BitVec 64)
  /-- BARRIER_DESTROY_EXPERT (R197): With FORCE, releases the waiters as FAILED and frees the barrier. -/
  | barrierDestroyExpert (w : BitVec 64)
  /-- BASIN_QUERY (R206): Writes per-quarter Basin use, ECC counts and the caller's tag use. -/
  | basinQuery (w : BitVec 64)
  /-- BASIN_QUERY_EXPERT (R206): Writes the record with per-bank counts. -/
  | basinQueryExpert (w : BitVec 64)
  /-- MEM_ALLOC (R215): Allocates pages in a tier, charged to a quota and zeroed. -/
  | memAlloc (w : BitVec 64)
  /-- MEM_ALLOC_EXPERT (R210): Allocation naming an owner, a die and MOORED. -/
  | memAllocExpert (w : BitVec 64)
  /-- MEM_FREE (R245): Frees an allocation not in use. -/
  | memFree (w : BitVec 64)
  /-- MEM_FREE_EXPERT (R245): Free that with WAIT completes after the last user releases it. -/
  | memFreeExpert (w : BitVec 64)
  /-- MEM_QUERY (R245): Writes quotas, use and free pages per tier. -/
  | memQuery (w : BitVec 64)
  /-- MEM_QUERY_EXPERT (R245): Memory query for a paddock, with per-channel state on the management session. -/
  | memQueryExpert (w : BitVec 64)
  /-- MEM_FILL (R245): Writes zeros in place. -/
  | memFill (w : BitVec 64)
  /-- MEM_FILL_EXPERT (R245): Writes a repeated 64-bit pattern in place. -/
  | memFillExpert (w : BitVec 64)
  /-- MEM_MAPOUT (R227): Maps out an HBM4 channel and migrates its frames. -/
  | memMapout (w : BitVec 64)
  /-- MEM_MAPOUT_EXPERT (R228): Map-out with NO_MIGRATE, writing every line poisoned. -/
  | memMapoutExpert (w : BitVec 64)
  /-- NVW_PROGRAM (R232): Programs tiles into an NVW region from a host or HBM4 source. -/
  | nvwProgram (w : BitVec 64)
  /-- NVW_PROGRAM_EXPERT (R232): Program from a stream, with VERIFY selectable. -/
  | nvwProgramExpert (w : BitVec 64)
  /-- NVW_SEAL (R235): Computes and records the SHA-384 digest of a fully programmed region and seals it. -/
  | nvwSeal (w : BitVec 64)
  /-- NVW_SEAL_EXPERT (R235): Seal checked against an expected digest. -/
  | nvwSealExpert (w : BitVec 64) (hm : HostImage)
  /-- NVW_ERASE (R245): Erases a region back to ERASED. -/
  | nvwErase (w : BitVec 64)
  /-- NVW_ERASE_EXPERT (R245): Erase that with RELEASE also frees the region. -/
  | nvwEraseExpert (w : BitVec 64)
  /-- NVW_GRANT (R236): Grants a paddock read access to a sealed shared region. -/
  | nvwGrant (w : BitVec 64)
  /-- NVW_GRANT_EXPERT (R236): Grant or, with REVOKE, revocation. -/
  | nvwGrantExpert (w : BitVec 64)
  /-- NVW_QUERY (R245): Writes a region's record. -/
  | nvwQuery (w : BitVec 64)
  /-- NVW_QUERY_EXPERT (R245): Writes per-stack wear and retention records. -/
  | nvwQueryExpert (w : BitVec 64)
  /-- PARK_QUERY (R245): Writes per-device parking-tier records. -/
  | parkQuery (w : BitVec 64)
  /-- PARK_QUERY_EXPERT (R245): Also returns the devices' event records read over CXL.io. -/
  | parkQueryExpert (w : BitVec 64) (evs : List Byte)
  /-- PARK_CONTROL (R241): Rescans the CXL port, or takes a device offline. -/
  | parkControl (w : BitVec 64) (found : List CxlFound)
  /-- PARK_CONTROL_EXPERT (R239): Parking control with a bifurcation change that retrains the port. -/
  | parkControlExpert (w : BitVec 64) (found : List CxlFound)
  /-- MEM_TELEMETRY (R226): Writes per-stack memory counters from shadow copies. -/
  | memTelemetry (w : BitVec 64)
  /-- MEM_TELEMETRY_EXPERT (R226): Writes per-channel counters for the stacks in a mask. -/
  | memTelemetryExpert (w : BitVec 64)
  /-- HBM_REFRESH (R226): A refresh falls due on a channel and is issued ahead of all traffic. -/
  | hbmRefresh (c : Nat)
  /-- CALIBRATION_DUE (R226): A channel's calibration falls due by its 256 ms period or a temperature move of 8 °C, and runs when the channel is idle. -/
  | calibrationDue (c : Nat) (idle ok : Bool)
  /-- FORCED_CALIBRATION (R225): A calibration postponed 32 ms is forced, stalling its channel at most 2 µs. -/
  | forcedCalibration (c : Nat) (ok : Bool)
  /-- PATROL_SCRUB (R226): Patrol scrub reads and rewrites an HBM4 sector in an idle slot. -/
  | patrolScrub (c symbols line : Nat)
  /-- SCRUB_AGE (R226): The oldest unscrubbed sector passes 7 days of age, and an event is logged. -/
  | scrubAge (c : Nat)
  /-- CORRECTED_WRITEBACK (R220): A corrected HBM4 sector is written back at the channel's next idle slot. -/
  | correctedWriteback (c : Nat)
  /-- CHANNEL_MAPOUT_DECISION (R227): A channel crosses an error or calibration threshold, and Iluvo starts its map-out. -/
  | channelMapoutDecision (c : Nat)
  /-- MAPOUT_FRAME_SWITCH (R228): A frame's copy completes and requests are switched to its substitute frame. -/
  | mapoutFrameSwitch (c : Nat) (bad : List Nat) (lines : Nat)
  /-- MAPOUT_RETRY (R227): Frames are freed, and Iluvo retries a map-out that lacked substitute frames. -/
  | mapoutRetry (c : Nat)
  /-- NVW_TILE_PROGRAMMED (R232): An NVW tile finishes programming and verification, and PROGRAMMED advances, or its block is retired and the tile reprogrammed. -/
  | nvwTileProgrammed (w : BitVec 64) (ok : Bool)
  /-- NVW_PATROL (R238): Patrol reads a programmed block within its 30-day period and starts a relocation if needed. -/
  | nvwPatrol (stack block : Nat) (relocate : Bool)
  /-- NVW_RELOCATION_SWITCH (R238): A relocated block's copy completes and the block map switches in one step. -/
  | nvwRelocationSwitch (stack block : Nat)
  /-- CXL_DRS (R239): A CXL DRS response carrying read data arrives from an expander. -/
  | cxlDrs (dev tag : Nat) (poison : Bool) (viol : Nat)
  /-- CXL_NDR (R239): A CXL NDR completion for a write arrives from an expander. -/
  | cxlNdr (dev tag viol : Nat)
  /-- CXL_REQUEST_TIMEOUT (R240): A CXL.mem request unanswered after 1 ms is timed out, its read poisoned or its write failed. -/
  | cxlRequestTimeout (tag : Nat)
  /-- CXL_LINK_DOWN (R241): A CXL link goes down after three retrain attempts, or a fatal CXL.io error occurs, and the device goes offline. -/
  | cxlLinkDown (dev : Nat)
  /-- GEN_MODEL_REGISTER (R247): Registers a model from its 512-byte descriptor. -/
  | genModelRegister (w : BitVec 64) (hm : HostImage)
  /-- GEN_MODEL_REGISTER_EXPERT (R247): Registration naming the model number and the owner paddock. -/
  | genModelRegisterExpert (w : BitVec 64) (hm : HostImage)
  /-- GEN_MODEL_RELEASE (R249): Releases a model that is not in use. -/
  | genModelRelease (w : BitVec 64)
  /-- GEN_MODEL_RELEASE_EXPERT (R249): Release that waits until the model is unused. -/
  | genModelReleaseExpert (w : BitVec 64)
  /-- GEN_ADAPTER_LOAD (R251): Makes a BF16 low-rank adapter resident. -/
  | genAdapterLoad (w : BitVec 64)
  /-- GEN_ADAPTER_LOAD_EXPERT (R251): Adapter load in a chosen format. -/
  | genAdapterLoadExpert (w : BitVec 64)
  /-- GEN_ADAPTER_UNLOAD (R251): Unloads an adapter that no live entry names. -/
  | genAdapterUnload (w : BitVec 64)
  /-- GEN_ADAPTER_UNLOAD_EXPERT (R251): Unload that waits until the adapter is unused. -/
  | genAdapterUnloadExpert (w : BitVec 64)
  /-- GEN_RING_CREATE (R273): Creates a rollout ring. -/
  | genRingCreate (w : BitVec 64)
  /-- GEN_RING_CREATE_EXPERT (R273): Creates a rollout ring with a low-water event. -/
  | genRingCreateExpert (w : BitVec 64)
  /-- GEN_RING_ADVANCE (R276): Moves a ring's READ_INDEX. -/
  | genRingAdvance (w : BitVec 64)
  /-- GEN_RING_ADVANCE_EXPERT (R276): Advance that also waits for WRITE_INDEX to reach a value. -/
  | genRingAdvanceExpert (w : BitVec 64)
  /-- GEN_LOOP_START (R257): Launches a model's generation loop with default parameters. -/
  | genLoopStart (w : BitVec 64)
  /-- GEN_LOOP_START_EXPERT (R258): Loop start with team mask, members and loop parameters. -/
  | genLoopStartExpert (w : BitVec 64)
  /-- GEN_LOOP_STOP (R289): Stops a loop after its running step's results apply. -/
  | genLoopStop (w : BitVec 64)
  /-- GEN_LOOP_STOP_EXPERT (R289): With FORCE, aborts the step task without applying its results. -/
  | genLoopStopExpert (w : BitVec 64)
  /-- GEN_ADMIT (R290): Admits a sequence into a Manifest entry. -/
  | genAdmit (w : BitVec 64) (hm : HostImage)
  /-- GEN_ADMIT_EXPERT (R290): Admission with every Manifest field given. -/
  | genAdmitExpert (w : BitVec 64) (hm : HostImage)
  /-- GEN_CANCEL (R281): Cancels a sequence at the next step boundary. -/
  | genCancel (w : BitVec 64)
  /-- GEN_CANCEL_EXPERT (R281): Cancel with a logged reason. -/
  | genCancelExpert (w : BitVec 64)
  /-- GEN_PARK (R282): Moves a sequence to HELD with a time to live. -/
  | genPark (w : BitVec 64)
  /-- GEN_PARK_EXPERT (R282): Park with PARK_NOW, moving the berths to the parking tier. -/
  | genParkExpert (w : BitVec 64)
  /-- GEN_RESUME (R284): Appends tokens and resumes a HELD or PARKED sequence. -/
  | genResume (w : BitVec 64) (hm : HostImage)
  /-- GEN_RESUME_EXPERT (R284): Resume that also raises MAX_NEW. -/
  | genResumeExpert (w : BitVec 64) (hm : HostImage)
  /-- GEN_QUERY (R253): Writes a sequence's Manifest entry. -/
  | genQuery (w : BitVec 64)
  /-- GEN_QUERY_EXPERT (R253): Writes the entries matching a model and a state mask. -/
  | genQueryExpert (w : BitVec 64)
  /-- GEN_RELEASE (R275): Frees a terminal entry. -/
  | genRelease (w : BitVec 64)
  /-- GEN_RELEASE_EXPERT (R275): Frees a terminal entry and, with FREE_BUF, its sequence buffer. -/
  | genReleaseExpert (w : BitVec 64)
  /-- GEN_LOOP_QUERY (R290): Writes a loop's statistics record. -/
  | genLoopQuery (w : BitVec 64)
  /-- GEN_LOOP_QUERY_EXPERT (R290): Writes one record per running loop of the paddock. -/
  | genLoopQueryExpert (w : BitVec 64)
  /-- STEP_BOUNDARY (R259): SAMPLE_DONE phase n completes, and the builder applies results, commands and expiries, then builds and publishes list n + 1. -/
  | stepBoundary (model : Nat) (fwd : List Forward)
  /-- AUTO_PARK (R286): A candidate skipped for berths at 8 consecutive boundaries makes the builder auto-park one DECODE entry. -/
  | autoPark (model : Nat)
  /-- AUTO_RESUME (R284): Free berths come to exceed an auto-parked entry's need, and the builder resumes it. -/
  | autoResume (entry : Nat)
  /-- SEQUENCE_EXPIRY (R285): A HELD or PARKED entry's deadline passes, and it becomes EXPIRED with a terminal record. -/
  | sequenceExpiry (entry : Nat)
  /-- EVICTION_COMPLETE (R283): An eviction's last commit lands, BERTH_MAP is rewritten with slots and the entry becomes PARKED, or a failed copy leaves it HELD. -/
  | evictionComplete (entry : Nat) (ok : Bool)
  /-- BERTH_FETCH_COMPLETE (R284): A RESUMING entry's berths are fetched back, and it moves to PREFILL or DECODE at the next boundary. -/
  | berthFetchComplete (entry : Nat)
  /-- LIST_FORWARD_ARRIVAL (R264): A member part receives a forwarded work list, applies its grants and arrives at its LIST_READY. -/
  | listForwardArrival (model : Nat) (news : LoopNews)
  /-- LEARN_SET_REGISTER (R313): Registers a parameter set from a table of group descriptors. -/
  | learnSetRegister (w : BitVec 64) (hm : HostImage)
  /-- LEARN_SET_REGISTER_EXPERT (R313): Registration with STEP0. -/
  | learnSetRegisterExpert (w : BitVec 64) (hm : HostImage)
  /-- LEARN_SET_RELEASE (R332): Releases a set that has no user. -/
  | learnSetRelease (w : BitVec 64)
  /-- LEARN_SET_RELEASE_EXPERT (R332): Release that waits for the last user. -/
  | learnSetReleaseExpert (w : BitVec 64)
  /-- LEARN_EXCHANGE (R305): Runs the bucket pass and exchanges 8-bit gradient blocks to their owners, who sum them into G8. -/
  | learnExchange (w : HostWork)
  /-- LEARN_EXCHANGE_EXPERT (R305): Exchange with its own timeout. -/
  | learnExchangeExpert (w : HostWork)
  /-- EXCHANGE_COMPLETE (R307): A member's exchange finishes its bucket pass, acknowledgements and G8 commits, and its square sum merges into the norm accumulator. -/
  | exchangeComplete (w : BitVec 64)
  /-- LEARN_NORM (R308): Reduces the set's exact norm across the norm group and fixes gmul. -/
  | learnNorm (w : BitVec 64)
  /-- LEARN_NORM_EXPERT (R309): With RESET, clears the accumulators and returns the set to ACCUMULATING. -/
  | learnNormExpert (w : BitVec 64)
  /-- NORM_COMPLETE (R308): The norm reduction finishes, and the set becomes NORMED with norm and gmul. -/
  | normComplete (w : BitVec 64)
  /-- LEARN_SWEEP (R326): Starts the update units' sweep over every span of the set. -/
  | learnSweep (w : BitVec 64)
  /-- LEARN_SWEEP_EXPERT (R326): Sweep with a given SEED, or RESUME of an interrupted sweep. -/
  | learnSweepExpert (w : BitVec 64)
  /-- UPDATE_SPAN_DONE (R321): A span's writes are acknowledged and its moored bytes accepted, and the unit's progress word advances. -/
  | updateSpanDone (w : BitVec 64) (group span : Nat)
  /-- SWEEP_COMPLETE (R321): The mooring engine acknowledges the last contribution, the sweep completes, STEP advances and the set returns to ACCUMULATING. -/
  | sweepComplete (w : BitVec 64)
  /-- UNIT_FAULT (R423): An update unit's datapath parity error resets the unit and interrupts the sweep, and a second fault within 24 hours retires it. -/
  | unitFault (u : Nat)
  /-- UNIT_SPAN_TIMEOUT (R412): A span unanswered for 100 µs is treated as an update-unit fault. -/
  | unitSpanTimeout (w : BitVec 64) (group span : Nat)
  /-- STASH_RESTORE (R423): Iluvo restores the mixed spans and factors of an interrupted sweep from the stash. -/
  | stashRestore (set : Nat)
  /-- LEARN_MICRO_LOAD (R322): Checks and loads a micro-program. -/
  | learnMicroLoad (w : BitVec 64) (hm : HostImage)
  /-- LEARN_MICRO_LOAD_EXPERT (R322): Load that also runs the program on a 32-record test buffer. -/
  | learnMicroLoadExpert (w : BitVec 64) (hm : HostImage)
  /-- LEARN_MICRO_UNLOAD (R332): Unloads a micro-program that no group names. -/
  | learnMicroUnload (w : BitVec 64)
  /-- LEARN_MICRO_UNLOAD_EXPERT (R332): Unload that waits until no set names the program. -/
  | learnMicroUnloadExpert (w : BitVec 64)
  /-- LEARN_ROUTE_CHECK (R295): Checks rollout records' routing digests against ROUTES up to the first mismatch. -/
  | learnRouteCheck (w : BitVec 64) (hm : HostImage)
  /-- LEARN_ROUTE_CHECK_EXPERT (R295): With ALL, checks every record and counts the mismatches. -/
  | learnRouteCheckExpert (w : BitVec 64) (hm : HostImage)
  /-- LEARN_QUERY (R332): Writes a set's state record. -/
  | learnQuery (w : BitVec 64)
  /-- LEARN_QUERY_EXPERT (R332): Writes the paddock's learning counters. -/
  | learnQueryExpert (w : BitVec 64)
  /-- REIN_LAYOUT_REGISTER (R336): Checks and registers a layout descriptor with its slot regions. -/
  | reinLayoutRegister (w : BitVec 64) (hm : HostImage)
  /-- REIN_LAYOUT_REGISTER_EXPERT (R336): Registration with a given slot table address. -/
  | reinLayoutRegisterExpert (w : BitVec 64) (hm : HostImage)
  /-- REIN_LAYOUT_RELEASE (R366): Releases a layout that no slot or permute uses. -/
  | reinLayoutRelease (w : BitVec 64)
  /-- REIN_LAYOUT_RELEASE_EXPERT (R366): Release that waits until the layout is unused. -/
  | reinLayoutReleaseExpert (w : BitVec 64)
  /-- REIN_DRAIN (R345): Drains a model's loop at the next step boundary, releasing berths. -/
  | reinDrain (w : BitVec 64)
  /-- REIN_DRAIN_EXPERT (R346): Drain with KEEP, leaving berths in place. -/
  | reinDrainExpert (w : BitVec 64)
  /-- REIN_PERMUTE (R349): Collectively moves a copy's blocks from a source layout slot to a destination layout slot. -/
  | reinPermute (w : BitVec 64) (held : Bool)
  /-- REIN_PERMUTE_EXPERT (R353): Permute of a layer range, with destination override, timeout and staging. -/
  | reinPermuteExpert (w : BitVec 64) (held : Bool)
  /-- PERMUTE_COMPLETE (R354): A member's permute has all its bytes acknowledged, and the destination slot becomes HELD, POISONED or EMPTY. -/
  | permuteComplete (w : BitVec 64)
  /-- REIN_REMOUNT (R362): Commits a new version from the standby slot at the next step boundary. -/
  | reinRemount (w : BitVec 64) (ready : Bool)
  /-- REIN_REMOUNT_EXPERT (R362): Remount that waits, up to a timeout, for the slot to reach HELD. -/
  | reinRemountExpert (w : BitVec 64) (ready : Bool)
  /-- REMOUNT_OLD_SLOT_RELEASE (R363): Every loop part reports the last old-version step complete, the old slot becomes HELD and the remount completes. -/
  | remountOldSlotRelease (model : Nat)
  /-- REIN_RESUME (R360): Activates a slot, returns drained entries and resumes the loop under a version. -/
  | reinResume (w : BitVec 64) (ready : Bool)
  /-- REIN_RESUME_EXPERT (R360): Resume placing the loop task on the teams of a mask. -/
  | reinResumeExpert (w : BitVec 64) (ready : Bool)
  /-- REIN_QUERY (R367): Writes a layout's slot states and last permute figures. -/
  | reinQuery (w : BitVec 64)
  /-- REIN_QUERY_EXPERT (R367): Writes a model's turn state and slot figures. -/
  | reinQueryExpert (w : BitVec 64)
  /-- TRACE_GROUP_CREATE (R388): Defines a collective group and reserves its resources. -/
  | traceGroupCreate (w : BitVec 64) (hm : HostImage)
  /-- TRACE_GROUP_CREATE_EXPERT (R388): Group creation with staging, operations, merge windows, timeout and chunk size. -/
  | traceGroupCreateExpert (w : BitVec 64) (hm : HostImage)
  /-- TRACE_GROUP_DESTROY (R409): Destroys a group, cancelling or aborting its pending operations. -/
  | traceGroupDestroy (w : BitVec 64)
  /-- TRACE_GROUP_DESTROY_EXPERT (R409): Destroy that waits for the pending operations. -/
  | traceGroupDestroyExpert (w : BitVec 64)
  /-- TRACE_COLL (R390): Starts a collective operation from descriptor bytes 0 to 63. -/
  | traceColl (w : BitVec 64)
  /-- TRACE_COLL_EXPERT (R390): Starts a collective operation from the whole 128-byte descriptor. -/
  | traceCollExpert (w : BitVec 64) (hm : HostImage)
  /-- TRACE_COLL_CANCEL (R405): Aborts a collective operation on every member. -/
  | traceCollCancel (w : BitVec 64)
  /-- TRACE_COLL_CANCEL_EXPERT (R405): Collective cancel with a logged reason. -/
  | traceCollCancelExpert (w : BitVec 64)
  /-- TRACE_WINDOW_REGISTER (R402): Registers a receive window. -/
  | traceWindowRegister (w : BitVec 64)
  /-- TRACE_WINDOW_REGISTER_EXPERT (R402): With RELEASE, releases a receive window. -/
  | traceWindowRegisterExpert (w : BitVec 64)
  /-- TRACE_SEND (R402): Sends a message into a window slot on a peer. -/
  | traceSend (w : BitVec 64) (hm : HostImage)
  /-- TRACE_SEND_EXPERT (R402): Send with its own timeout. -/
  | traceSendExpert (w : BitVec 64) (hm : HostImage)
  /-- TRACE_RECV (R403): Completes when a message has committed in a window slot. -/
  | traceRecv (w : BitVec 64)
  /-- TRACE_RECV_EXPERT (R403): Releases a window slot for reuse. -/
  | traceRecvExpert (w : BitVec 64)
  /-- TRACE_MSG_CANCEL (R404): Withdraws a send whose first flit has not been granted a port. -/
  | traceMsgCancel (w : BitVec 64)
  /-- TRACE_MSG_CANCEL_EXPERT (R404): Expert message cancel. -/
  | traceMsgCancelExpert (w : BitVec 64)
  /-- TRACE_PORT_QUERY (R410): Writes per-port state and counters. -/
  | tracePortQuery (w : BitVec 64)
  /-- TRACE_PORT_QUERY_EXPERT (R410): Writes port records with per-lane FEC histograms. -/
  | tracePortQueryExpert (w : BitVec 64)
  /-- TRACE_PORT_CONTROL (R379): Requests a retrain or a steward swap on a port. -/
  | tracePortControl (w : BitVec 64)
  /-- TRACE_PORT_CONTROL_EXPERT (R375): Management disable, enable, admission or width change of a port. -/
  | tracePortControlExpert (w : BitVec 64)
  /-- TRACE_TIME_QUERY (R410): Writes time-synchronisation state. -/
  | traceTimeQuery (w : BitVec 64)
  /-- TRACE_TIME_CONFIG (R383): Names the pod time root and its backups. -/
  | traceTimeConfig (w : BitVec 64)
  /-- TRACE_GROUP_QUERY (R410): Writes a group's record. -/
  | traceGroupQuery (w : BitVec 64)
  /-- TRACE_GROUP_QUERY_EXPERT (R410): Writes one record per group of the paddock. -/
  | traceGroupQueryExpert (w : BitVec 64)
  /-- CHUNK (R392): A chunk message arrives in a granted staging slot and is merged or written to its destination, answered with DONE. -/
  | chunk (p : Nat) (m : Msg)
  /-- GRANT (R394): A grant message arrives and releases the sender's chunks for that slot. -/
  | grant (p : Nat) (m : Msg)
  /-- DONE (R387): A done message arrives and acknowledges a message's delivery. -/
  | done (p : Nat) (m : Msg)
  /-- ABORT (R397): An abort message for a (GROUP, SEQ) pair arrives and completes or records the operation with the carried status. -/
  | abort (p : Nat) (m : Msg)
  /-- WINDOW_MESSAGE (R403): A window message arrives and commits in its slot, or is refused. -/
  | windowMessage (p : Nat) (m : Msg)
  /-- DISPATCH_KEYS (R399): Dispatch keys arrive at an owner, which keeps items by key order once all members' keys are in and returns accept bitmaps. -/
  | dispatchKeys (p : Nat) (m : Msg)
  /-- DISPATCH_ACCEPT (R399): An accept bitmap arrives, and the source sends only its accepted items and reports its drops. -/
  | dispatchAccept (p : Nat) (m : Msg)
  /-- FORWARDED (R386): A detoured message arrives at an intermediate part and is passed on through the forwarding area. -/
  | forwarded (p : Nat) (m : Msg)
  /-- GRANT_ISSUE (R394): A staging slot is free for a dispatched operation, and a grant is sent to the next rank with chunks pending. -/
  | grantIssue (group seq : Nat)
  /-- GRANT_REISSUE (R394): A refused grant is granted again 1 ms later. -/
  | grantReissue (group seq rank : Nat)
  /-- CREDIT_RECORD (R373): A control record carrying running credit counts arrives. -/
  | creditRecord (p c1 c2 c3 : Nat)
  /-- CREDIT_RECORD_TIMER (R373): 1 µs passes with credit outstanding, and a credit record is sent. -/
  | creditRecordTimer (p : Nat)
  /-- ACKSEQ (R374): An acknowledgement arrives and frees the acknowledged flits from the retry buffer. -/
  | ackseq (p seq : Nat)
  /-- ACK_TIMER (R374): 64 flits or 1 µs pass, and an acknowledgement is sent. -/
  | ackTimer (p : Nat)
  /-- RETRY (R374): A RETRY record arrives and the sender replays from the named FSEQ, retraining at the eighth without progress. -/
  | retry (p seq : Nat)
  /-- REFUSE (R376): A REFUSE record arrives, returning credits; the message is kept for resend. -/
  | refuse (p : Nat) (mtag : BitVec 16) (reason : Nat)
  /-- REFUSE_RESEND (R376): 1 ms after a REFUSE, the sender sends the message again. -/
  | refuseResend (mtag : BitVec 16)
  /-- SYNC (R384): A SYNC from the time parent arrives and is stamped t2, and DELAY_REQ follows. -/
  | sync (p : Nat) (t1 : BitVec 64) (corr : Int)
  /-- DELAY_REQ (R384): A child's DELAY_REQ arrives at the parent, which stamps t4 and returns it. -/
  | delayReq (p : Nat) (t3 : BitVec 64)
  /-- DELAY_RESP (R384): The returned t4 arrives, and the child computes and filters its offset and slews its time base. -/
  | delayResp (p : Nat) (t4 : BitVec 64)
  /-- SYNC_TIMER (R384): The parent's 256-per-second exchange timer sends SYNC. -/
  | syncTimer (p : Nat)
  /-- TIME_PARENT_LOSS (R385): The time parent is lost, the part holds over and chooses a new parent. -/
  | timeParentLoss
  /-- STEWARD_SWAP_REQUEST (R382): A steward swap request arrives, and is granted or settled by part identifier. -/
  | stewardSwapRequest (p : Nat)
  /-- STEWARD_SWAP_GRANT (R381): A swap grant arrives, and the requester becomes steward. -/
  | stewardSwapGrant (p : Nat)
  /-- RETRAIN_REQUEST (R379): A RETRAIN request from the other end arrives at the steward. -/
  | retrainRequest (p : Nat) (command : Option Nat)
  /-- IDENTITY_EXCHANGE (R375): The ends exchange identity, the port becomes LINKED and the steward is fixed. -/
  | identityExchange (p : Nat) (id : BitVec 16) (peerPort : Nat) (isSwitch : Bool)
  /-- TRAINING_START (R72): A port's staggered training start falls due, or 1 s in DOWN passes, and the port enters TRAINING. -/
  | trainingStart (p : Nat)
  /-- TRAINING_TIMEOUT (R375): A port not linked 150 ms after training starts returns to DOWN. -/
  | trainingTimeout (p : Nat)
  /-- LINK_ADMISSION (R377): Iluvo admits a LINKED port once its conditions hold, or logs the refusal. -/
  | linkAdmission (p : Nat)
  /-- LOSS_OF_LOCK (R375): A port loses signal or FEC lock, and after 1 ms goes DOWN. -/
  | lossOfLock (p : Nat)
  /-- LANE_ERROR_THRESHOLD (R379): A lane exceeds 4,096 uncorrectable codewords in 1 s, and the steward retrains. -/
  | laneErrorThreshold (p lane : Nat)
  /-- RETRAIN_COMPLETE (R380): A retrain ends, and the port is ADMITTED at its width or DOWN after three failures. -/
  | retrainComplete (p : Nat) (ok : Bool)
  /-- FULL_WIDTH_ATTEMPT (R379): Every 60 s at reduced width, the steward attempts full width. -/
  | fullWidthAttempt (p : Nat)
  /-- ROUTE_LOSS (R398): A member's route has been lacking for 100 ms, and its operations fail with ST_MEMBER_LOST. -/
  | routeLoss (part : BitVec 16) (cells : List (Nat × Nat × Nat))
  /-- DETOUR_SELECT (R386): A port goes DOWN or QUARANTINED and traffic takes a detour, resending unacknowledged messages. -/
  | detourSelect (p : Nat) (known : List (BitVec 16 × BitVec 16))
  /-- COLLECTIVE_TIMEOUT (R397): An operation not complete within its TIMEOUT completes with ST_COLLECTIVE_TIMEOUT and aborts are sent. -/
  | collectiveTimeout (group seq : Nat)
  /-- SEND_TIMEOUT (R402): A send that finds no route within its timeout completes with ST_PEER_UNREACHABLE. -/
  | sendTimeout (w : BitVec 64)
  /-- RESIL_MOOR_CREATE (R426): Creates a mooring group on every member and spare. -/
  | resilMoorCreate (w : BitVec 64) (hm : HostImage) (others : Option (Bool × Nat))
  /-- RESIL_MOOR_CREATE_EXPERT (R426): Creation with spare list, AUTO_REPLACE, timeout and parity area. -/
  | resilMoorCreateExpert (w : BitVec 64) (hm : HostImage) (others : Option (Bool × Nat))
  /-- RESIL_MOOR_REFRESH (R430): Refreshes parity for dirty cells and commits an epoch. -/
  | resilMoorRefresh (w : BitVec 64)
  /-- RESIL_MOOR_REFRESH_EXPERT (R430): With FULL, treats every cell as dirty. -/
  | resilMoorRefreshExpert (w : BitVec 64)
  /-- RESIL_MOOR_REPLACE (R433): Rebuilds a lost member onto a spare. -/
  | resilMoorReplace (w : BitVec 64) (joined : Bool)
  /-- RESIL_MOOR_REPLACE_EXPERT (R433): Replacement with a timeout. -/
  | resilMoorReplaceExpert (w : BitVec 64) (joined : Bool)
  /-- RESIL_MOOR_SHRINK (R435): Decodes a lost member's cells onto survivors and re-encodes with K − 1. -/
  | resilMoorShrink (w : BitVec 64) (cells : Nat) (shares : List (Nat × List (Nat × List Byte × List Nat)))
  /-- RESIL_MOOR_SHRINK_EXPERT (R435): Shrink with a timeout. -/
  | resilMoorShrinkExpert (w : BitVec 64) (cells : Nat) (shares : List (Nat × List (Nat × List Byte × List Nat)))
  /-- RESIL_MOOR_REPAIR (R436): Repairs poisoned moored lines by decoding. -/
  | resilMoorRepair (w : BitVec 64) (shares : List (Nat × List (Nat × List Byte × List Nat)))
  /-- RESIL_MOOR_REPAIR_EXPERT (R436): Repairs the spans that a set's last sweep skipped. -/
  | resilMoorRepairExpert (w : BitVec 64) (shares : List (Nat × List (Nat × List Byte × List Nat)))
  /-- RESIL_MOOR_QUERY (R438): Writes a mooring group's record. -/
  | resilMoorQuery (w : BitVec 64)
  /-- RESIL_MOOR_QUERY_EXPERT (R438): Writes a mooring group's record with its lost-cell entries. -/
  | resilMoorQueryExpert (w : BitVec 64)
  /-- RESIL_MOOR_DESTROY (R438): Frees the parity area and ends protection. -/
  | resilMoorDestroy (w : BitVec 64)
  /-- RESIL_MOOR_DESTROY_EXPERT (R438): Destroy that waits for a refresh in progress. -/
  | resilMoorDestroyExpert (w : BitVec 64)
  /-- RESIL_WAIT (R438): Completes when a fault event of the paddock is logged. -/
  | resilWait (w : BitVec 64)
  /-- RESIL_WAIT_EXPERT (R438): Waits for the event types of a mask. -/
  | resilWaitExpert (w : BitVec 64)
  /-- RESIL_JOURNAL_QUERY (R438): Writes the journal summary record. -/
  | resilJournalQuery (w : BitVec 64)
  /-- RESIL_JOURNAL_QUERY_EXPERT (R438): Writes the journal records of one ring. -/
  | resilJournalQueryExpert (w : BitVec 64)
  /-- RESIL_TEAM_RETIRE (R414): Retires a physical team and substitutes a spare. -/
  | resilTeamRetire (w : BitVec 64)
  /-- RESIL_TEAM_RETIRE_EXPERT (R414): Retire that with WAIT_TASK fences the team after its running task ends. -/
  | resilTeamRetireExpert (w : BitVec 64)
  /-- RESIL_WARM_RESET (R419): Starts a warm reset and completes as a stored outcome. -/
  | resilWarmReset (w : BitVec 64)
  /-- RESIL_WARM_RESET_EXPERT (R419): Warm reset with a logged reason. -/
  | resilWarmResetExpert (w : BitVec 64)
  /-- STRIPE_PARITY_COMPUTE (R430): A collector holding all K data cells of a stripe computes its parity and sends it to the holders. -/
  | stripeParityCompute (moor stripe : Nat) (cells : List (Nat × List Byte × List Nat))
  /-- STRIPE_COMMIT (R430): Every holder acknowledges its parity, and the stripe commits, the epoch committing with its last stripe. -/
  | stripeCommit (moor stripe : Nat) (parity : Option (List Byte × List Nat)) (last : Bool)
  /-- AUTO_REPLACE_START (R433): The lowest-ranked survivor starts the rebuild within 50 ms of a loss under AUTO_REPLACE. -/
  | autoReplaceStart (moor : Nat)
  /-- REBUILD_COMPLETE (R433): The spare acknowledges its last rebuilt cell, and the replace completes on every member. -/
  | rebuildComplete (moor : Nat) (lost spare : BitVec 16) (epoch : Nat) (shares : List (Nat × List (Nat × List Byte × List Nat)))
  /-- SHRINK_COMPLETE (R435): The re-encoding refresh of a shrink commits, and the group is ACTIVE. -/
  | shrinkComplete (moor : Nat)
  /-- POISON_LINE_REPAIR (R436): Iluvo requests the decoding repair of a poisoned line that HBM4 reported in a moored cell. -/
  | poisonLineRepair (line : Nat) (shares : List (Nat × List (Nat × List Byte × List Nat)))
  /-- TEAM_SUBSTITUTION (R414): A failed team is fenced, and a spare is brought up, tested and mapped to the logical number. -/
  | teamSubstitution
  /-- CONTROL_CORE_FAULT (R412): A control-core lockstep mismatch starts a warm reset on three cores, or a second fault sets FAILED. -/
  | controlCoreFault
  /-- HEARTBEAT_MISSING (R412): A control core's or Kryto's heartbeat is missing for 100 ms. -/
  | heartbeatMissing (kryto : Bool)
  /-- WARM_RESET (R419): A warm reset stops masters, closes sessions, keeps the Basin and puts HBM4 in self-refresh. -/
  | warmReset
  /-- JOURNAL_SETTLEMENT (R421): After a warm reset, Iluvo settles each journal record by state and class and sends aborts to peers. -/
  | journalSettlement
  /-- QUAY_SESSION_OPEN (R442): Opens a decode or encode session from descriptor bytes 0 to 63. -/
  | quaySessionOpen (w : BitVec 64)
  /-- QUAY_SESSION_OPEN_EXPERT (R442): Opens a session from the whole 128-byte descriptor. -/
  | quaySessionOpenExpert (w : BitVec 64)
  /-- QUAY_SESSION_CLOSE (R443): Closes a session after its pending pictures, padding and committing the last tile. -/
  | quaySessionClose (w : BitVec 64)
  /-- QUAY_SESSION_CLOSE_EXPERT (R458): With ABORT, cancels every pending commit and closes. -/
  | quaySessionCloseExpert (w : BitVec 64)
  /-- QUAY_FRAME_COMMIT (R455): Places a frame descriptor in PENDING, completing at its latch. -/
  | quayFrameCommit (w : BitVec 64) (hm : HostImage)
  /-- QUAY_FRAME_COMMIT_EXPERT (R455): Commit not latched before picture NOT_BEFORE. -/
  | quayFrameCommitExpert (w : BitVec 64) (hm : HostImage)
  /-- QUAY_RING_ADVANCE (R456): Moves the frame record ring's READ_INDEX. -/
  | quayRingAdvance (w : BitVec 64)
  /-- QUAY_RING_ADVANCE_EXPERT (R456): Advance that also waits for WRITE_INDEX to reach a value. -/
  | quayRingAdvanceExpert (w : BitVec 64)
  /-- QUAY_QUERY (R459): Writes a session's record. -/
  | quayQuery (w : BitVec 64)
  /-- QUAY_QUERY_EXPERT (R459): Writes one record per session of the paddock. -/
  | quayQueryExpert (w : BitVec 64)
  /-- FRAME_START (R455): A pipe takes a waiting session's picture, latches PENDING into ACTIVE and begins CTU row 0. -/
  | frameStart (session : Nat)
  /-- PICTURE_CODED (R457): A pipe finishes a picture, and its output tiles and frame record are committed in order. -/
  | pictureCoded (session : Nat) (r : Coded)
  /-- PWR_CAP_SET (R475): Sets the package power cap. -/
  | pwrCapSet (w : BitVec 64)
  /-- PWR_CAP_SET_EXPERT (R475): Cap set with NO_EXCURSION. -/
  | pwrCapSetExpert (w : BitVec 64)
  /-- PWR_TEAM_VOLT (R469): Fixes a team's regulator voltage. -/
  | pwrTeamVolt (w : BitVec 64)
  /-- PWR_TEAM_VOLT_EXPERT (R468): Returns a team to AUTO. -/
  | pwrTeamVoltExpert (w : BitVec 64)
  /-- PWR_RAIL_SET (R469): Sets an AVSBus rail's voltage. -/
  | pwrRailSet (w : BitVec 64)
  /-- PWR_RAIL_SET_EXPERT (R470): Rail set with a transition rate. -/
  | pwrRailSetExpert (w : BitVec 64)
  /-- PWR_RATE_LIMIT (R465): Sets the caller's paddock rate limit. -/
  | pwrRateLimit (w : BitVec 64)
  /-- PWR_RATE_LIMIT_EXPERT (R465): Sets any paddock's rate limit from the management session. -/
  | pwrRateLimitExpert (w : BitVec 64)
  /-- PWR_TELEMETRY (R483): Writes the power telemetry record. -/
  | pwrTelemetry (w : BitVec 64)
  /-- PWR_TELEMETRY_EXPERT (R483): Writes the telemetry record with per-team entries. -/
  | pwrTelemetryExpert (w : BitVec 64)
  /-- PWR_CEILING_QUERY (R466): Writes a team's ceiling record. -/
  | pwrCeilingQuery (w : BitVec 64)
  /-- PWR_CEILING_QUERY_EXPERT (R466): Writes the test and present ceiling records of every physical team. -/
  | pwrCeilingQueryExpert (w : BitVec 64)
  /-- PWR_THERMAL_QUERY (R486): Writes every thermal sensor reading and the throttle state. -/
  | pwrThermalQuery (w : BitVec 64)
  /-- PWR_THERMAL_QUERY_EXPERT (R480): Writes the thermal readings and sets the team throttle point. -/
  | pwrThermalQueryExpert (w : BitVec 64)
  /-- CAP_LOOP_PERIOD (R473): At each 100 µs period end, the cap loop computes P100 and adjusts the part-wide target rate. -/
  | capLoopPeriod
  /-- EXCURSION_DURATION_LIMIT (R474): An excursion reaches 10 ms, and every pacer is clamped to half. -/
  | excursionDurationLimit
  /-- REGULATOR_TARGET_REACHED (R470): A team regulator or AVSBus rail reaches its target, and its voltage command completes. -/
  | regulatorTargetReached (rail : Bool) (k : Nat)
  /-- TEAM_CURRENT_SAMPLE (R471): The 10 µs team regulator current measurement. -/
  | teamCurrentSample (currents : List (Nat × Nat))
  /-- RAIL_CURRENT_READ (R462): The 100 µs AVSBus current read of each rail. -/
  | railCurrentRead (rail current : Nat)
  /-- AVSBUS_RESPONSE (R462): An AVSBus frame response arrives from a regulator. -/
  | avsbusResponse (rail viol : Nat) (volt : Option Nat)
  /-- AVSBUS_NO_RESPONSE (R484): A regulator gives no response within the frame, and the frame is retried. -/
  | avsbusNoResponse (rail : Nat)
  /-- DROOP_SLOW (R476): A team regulator output falls more than 30 mV below target, and the event is counted. -/
  | droopSlow (team : Nat)
  /-- HOLD_ENTER (R476): A team supply falls below 0.590 V, and the team holds its handshakes. -/
  | holdEnter (team : Nat)
  /-- HOLD_RELEASE (R476): The supply stays at or above 0.600 V for 200 ns, and the team releases its hold. -/
  | holdRelease (team : Nat)
  /-- SUPPLY_HOLD (R477): A hold lasts 100 µs, or holds total 1 ms in 100 ms, and the team raises SUPPLY_HOLD. -/
  | supplyHold (team : Nat)
  /-- RAIL_FAULT (R478): Four teams hold for 20 µs, or the regulator reports a fault, and a rail fault is declared and the target resent. -/
  | railFault (rail : Nat) (reported : Bool)
  /-- RAIL_FAULT_TIMEOUT (R478): Teams still in HOLD 10 ms after a rail fault have their tasks stopped and go out of service. -/
  | railFaultTimeout (rail : Nat)
  /-- RAIL_RESTORED (R478): The rail holds its target within ±10 mV for 100 ms, and its teams return to service. -/
  | railRestored (rail : Nat)
  /-- THERMAL_SENSOR_SAMPLE (R479): A thermal sensor sample starts or releases HBM4 and NVW throttles and feeds calibration. -/
  | thermalSensorSample (kind k : Nat) (temp : Int)
  /-- THROTTLE_PERIOD (R480): At each throttle period, a hot team's pacer limit is lowered by 5 %, or a cooled team's raised by 5 %. -/
  | throttlePeriod (team : Nat)
  /-- THERMAL_CLAMP (R479): A sensor at 108 °C for 100 µs clamps every pacer to half until all read 100 °C or less. -/
  | thermalClamp
  /-- THERMAL_TRIP (R481): A trip threshold is met, THERMTRIP_N is asserted, masters stop and the regulators drop. -/
  | thermalTrip
  /-- REPLICA_READ (R467): Once per second, Iluvo reads each team's replica path delay. -/
  | replicaRead (team slow : Nat)
  /-- AGEING_CHECK (R467): Every 24 powered hours, Iluvo lowers a team's ceiling record for slowdown, or retires the team. -/
  | ageingCheck (team : Nat)
  /-- SELF_TEST_RUN (R489): Runs a Farrier test on one index of a domain. -/
  | selfTestRun (w : BitVec 64)
  /-- SELF_TEST_RUN_EXPERT (R490): Runs a Farrier test over a range of indices with REPAIR and SEED. -/
  | selfTestRunExpert (w : BitVec 64)
  /-- SELF_TEST_STOP (R505): Stops a test run, marking untested indices ABORTED. -/
  | selfTestStop (w : BitVec 64)
  /-- SELF_TEST_STOP_EXPERT (R505): Test stop with a logged reason. -/
  | selfTestStopExpert (w : BitVec 64)
  /-- SELF_TEST_QUERY (R505): Writes the last record of every index. -/
  | selfTestQuery (w : BitVec 64)
  /-- SELF_TEST_QUERY_EXPERT (R505): Writes one domain's records and repairs. -/
  | selfTestQueryExpert (w : BitVec 64)
  /-- SELF_CHANNEL_RESTORE (R500): Tests a mapped-out channel and returns it to service if it passes. -/
  | selfChannelRestore (w : BitVec 64)
  /-- SELF_CHANNEL_RESTORE_EXPERT (R500): Channel restore with soft repair only. -/
  | selfChannelRestoreExpert (w : BitVec 64)
  /-- SELF_MARGIN_HBM (R499): Margins an HBM4 channel's read and write eye. -/
  | selfMarginHbm (w : BitVec 64)
  /-- SELF_MARGIN_HBM_EXPERT (R499): HBM margining in the selected directions. -/
  | selfMarginHbmExpert (w : BitVec 64)
  /-- SELF_MARGIN_LANE (R498): Margins the part's own receivers on a port. -/
  | selfMarginLane (w : BitVec 64)
  /-- SELF_MARGIN_LANE_EXPERT (R498): Lane margining for a lane mask and an error ratio. -/
  | selfMarginLaneExpert (w : BitVec 64)
  /-- SELF_MARGIN_TEAM (R499): Measures a team's guard above its ceiling. -/
  | selfMarginTeam (w : BitVec 64)
  /-- SELF_MARGIN_TEAM_EXPERT (R499): Team margining at a given voltage. -/
  | selfMarginTeamExpert (w : BitVec 64)
  /-- SELF_PART_ID_SET (R505): Installs the part identifier for the next cold reset. -/
  | selfPartIdSet (w : BitVec 64)
  /-- SELF_PART_ID_SET_EXPERT (R505): With CHANGE, replaces an installed identifier. -/
  | selfPartIdSetExpert (w : BitVec 64)
  /-- TEST_INDEX_COMPLETE (R492): Farrier finishes testing an index and writes its record, repairing and retesting once if needed. -/
  | testIndexComplete (w : BitVec 64) (index : Nat) (sig : BitVec 64) (errors : Bool) (repairs ceiling dur : Nat)
  /-- FIELD_TEST_START (R495): Within 1 s of a failed team's read-out, or each 24 powered hours for a spare, Farrier starts a field test. -/
  | fieldTestStart (phys : Nat)
  /-- LANE_MARGINING_AT_RECEIVER (R498): The host's PCIe Lane Margining at the Receiver request is answered with the independent sampler. -/
  | laneMarginingAtReceiver (lane : Nat) (on : Bool)
  /-- TAP_RESET (R501): TRST_N, or five TCK cycles with TMS high, resets the test access port. -/
  | tapReset
  /-- IDCODE (R501): Selects the identification register. -/
  | idcode
  /-- SAMPLE_PRELOAD (R501): Samples the pins or preloads the boundary register. -/
  | samplePreload (pins : List Bool) (preload : Option (List Bool))
  /-- EXTEST (R501): Drives and captures the pins from the boundary register. -/
  | extest (pins : List Bool)
  /-- EXTEST_PULSE (R501): IEEE 1149.6 pulse test on AC-coupled lanes. -/
  | extestPulse (pins : List Bool)
  /-- EXTEST_TRAIN (R501): IEEE 1149.6 train test on AC-coupled lanes. -/
  | extestTrain (pins : List Bool)
  /-- CLAMP (R501): Holds the pins at the preloaded values and selects BYPASS. -/
  | clamp
  /-- HIGHZ (R501): Places the outputs in high impedance and selects BYPASS. -/
  | highz
  /-- BYPASS (R501): Selects the one-bit bypass register. -/
  | bypass
  /-- PWR_OK_ASSERT (R513): PWR_OK is recognised asserted, the straps are read and CXL_PERST_N is held. -/
  | pwrOkAssert (addr1 addr0 : Bool)
  /-- PWR_OK_DEASSERT (R518): PWR_OK is recognised deasserted, masters stop and all volatile state is lost. -/
  | pwrOkDeassert
  /-- COLD_RESET (R514): SYS_RST_N is recognised asserted while PWR_OK is asserted, and a cold reset starts. -/
  | coldReset
  /-- SYS_RST_N_DEASSERT (R514): SYS_RST_N is recognised deasserted, time zero falls, and boot and cold-reset self-test begin. -/
  | sysRstNDeassert (pass : Bool)
  /-- WARM_RST_N_ASSERT (R515): WARM_RST_N is recognised asserted, starting a warm reset or being ignored and logged. -/
  | warmRstNAssert
  /-- PERST_N_ASSERT (R516): PERST_N is recognised asserted, and the PCIe link goes down, acting on sessions as a PF reset. -/
  | perstNAssert
  /-- PERST_N_DEASSERT (R516): PERST_N is recognised deasserted, and the PCIe link trains again. -/
  | perstNDeassert
  /-- CXL_PERST_N_RELEASE (R517): 100 ms after SYS_RST_N deassertion, the part deasserts CXL_PERST_N to the expanders. -/
  | cxlPerstNRelease
  /-- REFERENCE_CLOCK_LOSS (R525): Loss of a reference clock or of the crystal is detected, with the action that Table R525 gives for it. -/
  | referenceClockLoss (clk : RefClk)
  /-- REFERENCE_CLOCK_RETURN (R525): A lost PCIe or Trace reference clock returns and its links train again. -/
  | referenceClockReturn (clk : RefClk)
  /-- BOARD_RAIL_FAULT (R511): A board rail stays outside its tolerance for 20 µs, and the part acts as on PWR_OK deassertion and records it. -/
  | boardRailFault (rail : Nat)
  /-- MCTP_MESSAGE (R521): An MCTP message arrives over SMBus or PCIe and is answered by Kryto, or discarded as a violation. -/
  | mctpMessage (ep addr viol : Nat) (pcie : Bool) (ask : MctpAsk)
  /-- SPDM_REQUEST (R60): An SPDM request arrives, including owner-key installation or replacement and measurement reads. -/
  | spdmRequest (ep addr viol : Nat) (req : SpdmReq)
  /-- EVENT_ACKNOWLEDGE (R520): The management controller acknowledges an alerting event, and ALERT_N is released when none remains. -/
  | eventAcknowledge (ep addr entry : Nat)
  /-- EVENT_LOG_READ (R537): The management controller reads the event log through Kryto from an entry number. -/
  | eventLogRead (ep entry count : Nat)
  /-- SMBUS_ALERT_RESPONSE (R520): A read of the SMBus Alert Response Address is answered with the part's own address. -/
  | smbusAlertResponse
  /-- MCTP_QUARANTINE_EXPIRY (R535): An endpoint's 10 s quarantine ends. -/
  | mctpQuarantineExpiry (ep : Nat)
  /-- NOP_DELAY_EXPIRY (R77): The delay of an expert NOP runs out and the NOP completes. -/
  | nopDelayExpiry (w : BitVec 64)
  /-- REMOUNT_WAIT_TIMEOUT (R362): An expert REIN_REMOUNT with WAIT whose standby slot has not reached HELD within its timeout completes with ST_REIN_STATE. -/
  | remountWaitTimeout (w : BitVec 64)
  /-- BAR0_WINDOW_LIVE (R72): Up to 120 ms after reset the BAR0 window goes live, PART_STATE reads BOOT, configuration requests stop receiving RRS, and doorbells are answered under R73. -/
  | bar0WindowLive
  /-- PCIE_LINK_UP (R72): The PCIe link finishes training, enumeration can proceed, and Kryto begins answering MCTP over PCIe vendor-defined messages. -/
  | pcieLinkUp
  /-- WARM_RST_N_DEASSERT (R515): WARM_RST_N is recognised deasserted, which re-arms the pin so that a later assertion can start another warm reset. -/
  | warmRstNDeassert
  /-- ZEROING_COMPLETE (R215): The in-place zeroing of an allocation, a MEM_FILL or a destroyed paddock's memory ends, and the waiting command completes or the pages become reusable. -/
  | zeroingComplete (w : BitVec 64)
  /-- NVW_ERASE_COMPLETE (R230): The erase of an NVW region's blocks finishes, the region returns to ERASED and NVW_ERASE completes. -/
  | nvwEraseComplete (w : BitVec 64) (fails : List (Nat × Nat))
  /-- NVW_SEAL_DIGEST_COMPLETE (R235): NVW_SEAL finishes reading the region at 100 GB/s per stack, records the digest, and the region becomes SEALED or stays PROGRAMMING on a mismatch. -/
  | nvwSealDigestComplete (w : BitVec 64)
  /-- MAPOUT_POISON_COMPLETE (R228): A NO_MIGRATE map-out finishes writing every line of the channel poisoned, and MEM_MAPOUT completes. -/
  | mapoutPoisonComplete (c : Nat)
  /-- SPARE_MAPPING_SWITCH (R415): The spare reaches its ceiling and passes its known-answer test, the logical team's mapping switches, and the team becomes free for placement. -/
  | spareMappingSwitch (team : Nat) (pass : Bool)
  /-- MARGINING_COMPLETE (R497): A margining sweep of a lane, an HBM4 channel or a team finishes, its record is written, an HBM4 channel is retrained and any team ceiling is lowered. -/
  | marginingComplete (w : BitVec 64) (vals : List Nat)
  /-- PCIE_READ_COMPLETION (R191): A PCIe completion arrives for a host read made by a PCIe engine (stream bind, NVW program), landing its data in the Basin, or the tile is poisoned on a poisoned completion, completer abort or unsupported request. -/
  | pcieReadCompletion (w : BitVec 64) (tile : Nat) (data : Option (List Byte))
  /-- PCIE_COMPLETION_TIMEOUT (R191): A host read by a PCIe engine receives no completion within the PCIe completion timeout, and its tile commits with zeros and every line poisoned. -/
  | pcieCompletionTimeout (w : BitVec 64) (tile : Nat)
deriving DecidableEq, Repr

end Sys2Proof
end

