-- ==== Sys2Proof/Machine/State.lean ====
section
/-! DEFINITION. The machine's state: every register, memory, queue, counter, mode and pin that the spec
gives the Ghevigon 960, as plain data, and the machine right after a cold reset. Tables are sparse lists
(`Tbl`) in one canonical form; what an unlisted key reads as stands at each field. -/

namespace Sys2Proof.Machine

open Sys2Proof

/-- Why the machine stops. The spec gives every row an effect, so no meaning raises one. -/
inductive Fault where
  /-- Raised by no meaning. Safe: a run that stopped here would prove nothing about the part. -/
  | unreachable
deriving DecidableEq, Repr

/-- What the model does not run. -/
inductive Refusal where
  /-- Raised by an arm of exec whose row has no meaning yet, with the row's mnemonic. Safe: the run stops. -/
  | notModelled (mnemonic : String)
deriving DecidableEq, Repr

/-- the STATE field of PART_STATE (R47 Table 2-2). -/
inductive PartState where
  | boot
  | controlReady
  | ready
  | degraded
  | warmReset
  | failed
deriving DecidableEq, Repr

/-- the memory tiers (R210 Table 7-1). -/
inductive Tier where
  | hbm
  | basin
  | nvw
  | park
deriving DecidableEq, Repr

/-- states of an NVW region (R230 Table 7-6). -/
inductive NvwState where
  | erased
  | programming
  | sealed
  | detached
deriving DecidableEq, Repr

/-- task states (R157 Table 5-5). -/
inductive TaskState where
  | queued
  | running
  | suspResident
  | suspSaved
  | done
  | failed
  | aborted
deriving DecidableEq, Repr

/-- stream states (R182 Table 6-4). -/
inductive StreamState where
  | opened
  | closed
  | aborted
deriving DecidableEq, Repr

/-- sequence states (R255 Table 8-3). -/
inductive SeqState where
  | free
  | prefill
  | decode
  | held
  | parked
  | resuming
  | finished
  | cancelled
  | expired
  | failed
deriving DecidableEq, Repr

/-- parameter set states (R325 Table 9-7). -/
inductive SetState where
  | accumulating
  | normed
  | sweeping
  | interrupted
deriving DecidableEq, Repr

/-- layout slot states (R340 Table 10-4). -/
inductive SlotState where
  | empty
  | filling
  | held
  | active
  | poisoned
deriving DecidableEq, Repr

/-- turn states of a model (R344 Table 10-8). -/
inductive TurnState where
  | generating
  | draining
  | drained
deriving DecidableEq, Repr

/-- Trace port states (R375 Table 11-4). -/
inductive PortState where
  | down
  | training
  | linked
  | admitted
  | retraining
  | quarantined
  | disabled
deriving DecidableEq, Repr

/-- mooring group states (R426 Table 12-7). -/
inductive MoorState where
  | active
  | degraded
  | rebuilding
  | shrinking
  | lost
deriving DecidableEq, Repr

/-- journal record states (R417 Table 12-3). -/
inductive JState where
  | accepted
  | dispatched
  | done
deriving DecidableEq, Repr

/-- what a physical team is: mapped to a logical team, a spare, fenced after a failure, being brought up, retired (R414, R416, R495). -/
inductive PhysState where
  | mapped
  | spare
  | failed
  | bringUp
  | retired
deriving DecidableEq, Repr

/-- Levels of the sideband pins (true is high). -/
structure Pins where
  /-- recognised level of PWR_OK (R513) -/
  pwrOk : Bool
  /-- recognised level of SYS_RST_N (R514) -/
  sysRstN : Bool
  /-- recognised level of WARM_RST_N (R515) -/
  warmRstN : Bool
  /-- recognised level of PERST_N (R516) -/
  perstN : Bool
  /-- output CXL_PERST_N, low until 100 ms after time zero (R517) -/
  cxlPerstN : Bool
  /-- output THERMTRIP_N, deasserted (high) until a trip (R519) -/
  thermtripN : Bool
  /-- output ALERT_N, low while an alerting event is unacknowledged (R520) -/
  alertN : Bool
  /-- SMBus address 0x60 + 2 x SMB_ADDR1 + SMB_ADDR0 as strapped (R521) -/
  smbAddr : BitVec 7
  /-- level of strap SMB_ADDR1, read when PWR_OK is recognised (R521) -/
  smbAddr1 : Bool
  /-- level of strap SMB_ADDR0 (R521) -/
  smbAddr0 : Bool
  /-- SerDes transmitters run (R481, R514, R518) -/
  txOn : Bool
deriving DecidableEq, Repr

/-- Pins at reset. -/
def Pins.reset : Pins :=
  { pwrOk := true,
    sysRstN := true,
    warmRstN := true,
    perstN := true,
    cxlPerstN := false,
    thermtripN := true,
    alertN := true,
    smbAddr := 0x60#7,
    smbAddr1 := false,
    smbAddr0 := false,
    txOn := true }

/-- The Harbourmaster's part-wide control state. -/
structure PartCtl where
  /-- PART_STATE.STATE [3:0], 0x1 BOOT (R47) -/
  pstate : PartState
  /-- PART_STATE.PART_ID in effect (R41, R47) -/
  partId : BitVec 16
  /-- Iluvo's estimate, made at CONTROL_READY, of the milliseconds from then until READY; RETRY_AFTER counts it down
  (R47, R74) -/
  retryAfter : BitVec 32
  /-- time base at time zero of Table 2-8, ns (R514) -/
  timeZero : Nat
  /-- BAR0 window is live (R72) -/
  bar0Live : Bool
  /-- configuration requests no longer get RRS (R72) -/
  crsDone : Bool
  /-- PCIe link is up (R72, R516) -/
  pcieUp : Bool
  /-- Kryto answers MCTP over PCIe VDM (R72) -/
  krytoPcie : Bool
  /-- HBM4 training has completed (R72) -/
  hbmTrained : Bool
  /-- control cores in lockstep service (R412, R413) -/
  cores : Nat
  /-- time base at the start of the last warm reset (R420) -/
  warmStart : Nat
  /-- WORK_ID of the RESIL_WARM_RESET that started the reset in progress (R421) -/
  warmByCmd : Option (BitVec 64)
  /-- the journal has been settled after the last warm reset (R421) -/
  settled : Bool
  /-- fetch serial at the start of the last warm reset: earlier records are settled (R421) -/
  warmSer : Nat
  /-- operations that the warm reset ended, whose aborts are not sent: group, SEQ (R421) -/
  abortsDue : List (Nat × Nat)
  /-- time base at the last CONTROL_READY (R438) -/
  controlAt : Nat
  /-- duration of the last settlement, ns (R438) -/
  settleNs : Nat
  /-- warm resets since cold reset (R421, R540) -/
  warmResets : BitVec 32
  /-- spare substitutions (R438, R540) -/
  substitutions : BitVec 32
  /-- rebuilds (R438, R540) -/
  rebuilds : BitVec 32
  /-- lost mooring cells (R438, R540) -/
  lostCells : BitVec 32
  /-- function that the round robin of slot fetches serves next (R53) -/
  rrFn : Nat
  /-- per function, the ring that the round robin serves next (unlisted: 0) (R53) -/
  rrRing : Tbl Nat
  /-- PCIE_REFCLK present (R525) -/
  refPcie : Bool
  /-- AUX_REFCLK present (R525) -/
  refAux : Bool
  /-- TRACE_REFCLK0 present (R525) -/
  refTrace0 : Bool
  /-- TRACE_REFCLK1 present (R525) -/
  refTrace1 : Bool
  /-- crystal present (R525) -/
  refXtal : Bool
  /-- the time base runs from AUX_REFCLK (R525) -/
  timeFromAux : Bool
  /-- every master is stopped (R481, R514, R518, R525) -/
  mastersStopped : Bool
deriving DecidableEq, Repr

/-- PartCtl at reset. -/
def PartCtl.reset : PartCtl :=
  { pstate := .boot,
    partId := 0xFFFF#16,
    retryAfter := 0#32,
    timeZero := 0,
    bar0Live := false,
    crsDone := false,
    pcieUp := false,
    krytoPcie := false,
    hbmTrained := false,
    cores := 4,
    warmStart := 0,
    warmByCmd := none,
    settled := true,
    warmSer := 0,
    abortsDue := [],
    controlAt := 0,
    settleNs := 0,
    warmResets := 0#32,
    substitutions := 0#32,
    rebuilds := 0#32,
    lostCells := 0#32,
    rrFn := 0,
    rrRing := [],
    refPcie := true,
    refAux := true,
    refTrace0 := true,
    refTrace1 := true,
    refXtal := true,
    timeFromAux := false,
    mastersStopped := false }

/-- One issued session nonce. -/
structure Nonce where
  /-- nonce handle (R61) -/
  handle : BitVec 32
  /-- 32 bytes from Kryto's entropy (R61) -/
  value : List (BitVec 8)
  /-- time base at issue (R61) -/
  issued : Nat
deriving DecidableEq, Repr

/-- An open session. -/
structure Session where
  /-- [31:28] function, [27:0] opening count (R63) -/
  id : BitVec 32
  /-- rings that accept session commands (R61) -/
  mask : BitVec 32
  /-- nonce under which it was opened (R78) -/
  nonce : List (BitVec 8)
  /-- commands accepted in the session: WORK_ID, OPCODE, SEQ (R75) -/
  took : List (BitVec 64 × BitVec 16 × BitVec 32)
deriving DecidableEq, Repr

/-- A stored outcome (R69), read with WORK_QUERY. -/
structure Outcome where
  /-- global ring number (R69) -/
  ring : Nat
  /-- fetch serial, which gives ring order (R424) -/
  ser : Nat
  /-- WORK_ID (R69) -/
  wid : BitVec 64
  /-- SEQ (R69) -/
  seq : BitVec 32
  /-- STATUS (R69) -/
  status : BitVec 16
  /-- OPCODE (R69) -/
  opcode : BitVec 16
  /-- RESULT (R69) -/
  result : BitVec 64
  /-- DETAIL (R69) -/
  detail : BitVec 32
  /-- REPLAYED (R424) -/
  replayed : Bool
deriving DecidableEq, Repr

/-- One PCIe function: 0 the PF, 1 to 8 the VFs. -/
structure Fn where
  /-- INT_STATUS, W1C (R47) -/
  intStatus : BitVec 32
  /-- INT_MASK (no Reset column given) (R47) -/
  intMask : BitVec 32
  /-- VIOLATIONS, read-clear (R47) -/
  violations : BitVec 32
  /-- high word latched by the last low-word read (R47) -/
  hiLatch : BitVec 32
  /-- open session; PART_STATE.SESSION_OPEN is its presence (R64) -/
  session : Option Session
  /-- session openings counted (R63, R542) -/
  openings : BitVec 28
  /-- end of the lockout; PART_STATE.LOCKED is its presence (R62) -/
  lockedUntil : Option Nat
  /-- times of failed SESSION_OPENs (R62) -/
  failures : List Nat
  /-- nonces not used (R61) -/
  nonces : List Nonce
  /-- the second of the time base that openCnt counts (R542) -/
  openSec : Nat
  /-- SESSION_OPENs completed in that second (R542) -/
  openCnt : Nat
  /-- the outcome store of this function (R69) -/
  outcomes : List Outcome
  /-- fetch serial at its last function-level reset: a command fetched earlier was accepted before it (R61) -/
  resetSer : Nat
deriving DecidableEq, Repr

/-- Fn at reset. -/
def Fn.reset : Fn :=
  { intStatus := 0#32,
    intMask := 0#32,
    violations := 0#32,
    hiLatch := 0#32,
    session := none,
    openings := 0#28,
    lockedUntil := none,
    failures := [],
    nonces := [],
    openSec := 0,
    openCnt := 0,
    outcomes := [],
    resetSer := 0 }

/-- A fetched slot whose completion is neither written nor stored, or an answer. -/
structure RItem where
  /-- fetch serial (R51) -/
  ser : Nat
  /-- the slot's bytes have arrived (R53) -/
  arrived : Bool
  /-- WORK_ID (R50) -/
  wid : BitVec 64
  /-- SEQ (R50) -/
  seq : BitVec 32
  /-- OPCODE (R50) -/
  opcode : BitVec 16
  /-- SQ_HEAD after the fetch (R50) -/
  sqHead : BitVec 8
  /-- passed the header checks (R54) -/
  accepted : Bool
  /-- ENABLE was written since the fetch: the outcome is stored, not written (R52) -/
  settledOut : Bool
  /-- the outcome is known (R57) -/
  fin : Bool
  /-- STATUS (R50) -/
  status : BitVec 16
  /-- RESULT (R50) -/
  result : BitVec 64
  /-- DETAIL (R50) -/
  detail : BitVec 32
  /-- HW_WRITTEN (R50) -/
  hw : Bool
  /-- REPLAYED (R50) -/
  replayed : Bool
deriving DecidableEq, Repr

/-- One mailbox ring, 0 to 287. -/
structure Ring where
  /-- SQ_BASE (R47 Table 2-3) -/
  sqBase : BitVec 64
  /-- CQ_BASE (R47 Table 2-3) -/
  cqBase : BitVec 64
  /-- ENABLE (R47 Table 2-3) -/
  enable : Bool
  /-- MSIX_VECTOR (R47 Table 2-3) -/
  msix : BitVec 11
  /-- SQ_TAIL doorbell value (R47 Table 2-3) -/
  sqTail : BitVec 8
  /-- CQ_HEAD doorbell value (R47 Table 2-3) -/
  cqHead : BitVec 8
  /-- SQ_HEAD (R47 Table 2-3) -/
  sqHead : BitVec 8
  /-- QUARANTINED (R47 Table 2-3) -/
  quarantined : Bool
  /-- CQ_FULL (R47 Table 2-3) -/
  cqFull : Bool
  /-- RING_VIOLATIONS, saturating (R47 Table 2-3) -/
  violations : BitVec 16
  /-- PHASE of the pass being written (R50) -/
  phase : Bool
  /-- index of the next completion entry (R50) -/
  cqTail : BitVec 8
  /-- entries written and not consumed (R52) -/
  written : Nat
  /-- fetch credits held, at most 256 (R52) -/
  credits : Nat
  /-- fetched and not yet written, in fetch order (R51) -/
  fifo : List RItem
  /-- expected sequence number (R55) -/
  expectSeq : BitVec 32
  /-- last accepted WORK_ID[54:0] (R56) -/
  lastWid : BitVec 55
  /-- times of the violations of the last second (R76) -/
  violTimes : List Nat
deriving DecidableEq, Repr

/-- Ring at reset. -/
def Ring.reset : Ring :=
  { sqBase := 0#64,
    cqBase := 0#64,
    enable := false,
    msix := 0#11,
    sqTail := 0#8,
    cqHead := 0#8,
    sqHead := 0#8,
    quarantined := false,
    cqFull := false,
    violations := 0#16,
    phase := true,
    cqTail := 0#8,
    written := 0,
    credits := 0,
    fifo := [],
    expectSeq := 0#32,
    lastWid := 0#55,
    violTimes := [] }

/-- A work journal record (R417) with the saved slot payload. -/
structure JRec where
  /-- WORK_ID (R417) -/
  wid : BitVec 64
  /-- SEQ (R417) -/
  seq : BitVec 32
  /-- OPCODE (R417) -/
  opcode : BitVec 16
  /-- RING (R417) -/
  ring : Nat
  /-- fetch serial (R424) -/
  ser : Nat
  /-- STATE (R417) -/
  state : JState
  /-- SESSION (R417) -/
  session : BitVec 32
  /-- FENCE of the slot (R58) -/
  fence : Bool
  /-- a byte beyond LENGTH (or, when indirect, any of slot bytes 32 to 127) is nonzero (R10, R49) -/
  resv : Bool
  /-- saved payload (R417) -/
  payload : List (BitVec 8)
  /-- PROGRESS (R417) -/
  progress : BitVec 64
  /-- RESULT when DONE (R417) -/
  result : BitVec 64
  /-- DETAIL when DONE (R417) -/
  detail : BitVec 32
  /-- STATUS when DONE (R417) -/
  status : BitVec 16
  /-- FLAGS.REPLAYED (R417) -/
  replayed : Bool
  /-- ACCEPT_TIME (R417) -/
  acceptTime : BitVec 64
  /-- SLOT_REF (R417) -/
  slotRef : BitVec 64
deriving DecidableEq, Repr

/-- An event log entry (R536). -/
structure Event where
  /-- ENTRY (R536) -/
  entry : BitVec 64
  /-- TIME (R536) -/
  time : BitVec 64
  /-- TYPE (R536) -/
  typ : BitVec 16
  /-- FLAGS.ALERTING (R536) -/
  alerting : Bool
  /-- FLAGS.ACKNOWLEDGED (R536) -/
  acked : Bool
  /-- PADDOCK, 0xFF for the part (R536) -/
  paddock : BitVec 8
  /-- STATUS (R536) -/
  status : BitVec 16
  /-- SOURCE (R536) -/
  source : BitVec 16
  /-- WORK_ID (R536) -/
  wid : BitVec 64
  /-- DETAIL bytes named by the rule (R536) -/
  detail : List (BitVec 8)
deriving DecidableEq, Repr

/-- The part-wide event log. -/
structure EventLog where
  /-- retained entries, oldest first, at most 65,536 (R536) -/
  entries : List Event
  /-- next ENTRY number (R536) -/
  next : BitVec 64
  /-- lost-entry count, saturating (R538) -/
  lost : BitVec 32
  /-- the second that rateCnt counts (R538) -/
  rateSec : Nat
  /-- events entered in that second (R538) -/
  rateCnt : Nat
deriving DecidableEq, Repr

/-- EventLog at reset. -/
def EventLog.reset : EventLog :=
  { entries := [],
    next := 0#64,
    lost := 0#32,
    rateSec := 0,
    rateCnt := 0 }

/-- Kryto's record of one MCTP endpoint. -/
structure MctpEnd where
  /-- violations counted (R534) -/
  violations : Nat
  /-- violation times of the last second (R534) -/
  times : List Nat
  /-- end of its quarantine (R535) -/
  quarUntil : Option Nat
  /-- an SPDM session is established (R60) -/
  spdm : Bool
deriving DecidableEq, Repr

/-- MctpEnd at reset. -/
def MctpEnd.reset : MctpEnd :=
  { violations := 0,
    times := [],
    quarUntil := none,
    spdm := false }

/-- A ceiling record (Table 14-2) ; LOGICAL and GRADE follow from the mapping and the ceilings. -/
structure CeilRec where
  /-- FLAGS.AGED (R466) -/
  aged : Bool
  /-- AGE_HOURS (R466) -/
  ageHours : BitVec 16
  /-- CEIL_70 (R466) -/
  ceil70 : List (BitVec 16)
  /-- CEIL_100 (R466) -/
  ceil100 : List (BitVec 16)
deriving DecidableEq, Repr

/-- The management and security complex (its non-volatile store survives a cold reset). -/
structure Kryto where
  /-- owner key, 48 bytes; the slot is empty until installed (R60) -/
  ownerKey : Option (List (BitVec 8))
  /-- tenant key per paddock (R60) -/
  tenantKeys : Tbl (List (BitVec 8))
  /-- key-generation counter per paddock (unlisted 0) (R77) -/
  keyGen : Tbl (BitVec 32)
  /-- identifier installed for the next cold reset (R505) -/
  partIdNv : Option (BitVec 16)
  /-- HBM4 channels recorded as mapped out (R228) -/
  mappedOut : List Nat
  /-- physical teams recorded as retired (R495) -/
  retiredTeams : List Nat
  /-- board rails recorded after a fault, entered at the next boot (R511) -/
  boardRail : List Nat
  /-- a trip is recorded for the next boot (R481) -/
  tripped : Bool
  /-- present ceiling record per physical team (unlisted: as at test, Config.ceiling) (R466) -/
  ceilNow : Tbl CeilRec
  /-- powered hours per physical team at its last ageing check (R467) -/
  powered : Tbl Nat
  /-- repairs recorded: domain, index, rows (R491) -/
  repairs : List (Nat × Nat × Nat)
  /-- measurement record: sealed shared digests by region, 0 for the self-test combined signature (R235, R490) -/
  measures : Tbl (List (BitVec 8))
  /-- MCTP endpoints (unlisted: none seen) (R534) -/
  endpoints : Tbl MctpEnd
  /-- private TAP access unlocked over SPDM (R501) -/
  jtagUnlocked : Bool
  /-- board rail power the management controller reported, mW (R471) -/
  boardPower : Option Nat
  /-- Kryto's self-check has failed (R412) -/
  failed : Bool
  /-- the system key of the present power-on, 512 bits; no command reads it (R223) -/
  systemKey : BitVec 512
deriving DecidableEq, Repr

/-- Kryto at reset. -/
def Kryto.reset : Kryto :=
  { ownerKey := none,
    tenantKeys := [],
    keyGen := [],
    partIdNv := none,
    mappedOut := [],
    retiredTeams := [],
    boardRail := [],
    tripped := false,
    ceilNow := [],
    powered := [],
    repairs := [],
    measures := [],
    endpoints := [],
    jtagUnlocked := false,
    boardPower := none,
    failed := false,
    systemKey := 0#512 }

/-- A team exception record (Table 5-9). -/
structure ExcRec where
  /-- WORK_ID (R168) -/
  wid : BitVec 64
  /-- TIME (R168) -/
  time : BitVec 64
  /-- PC (R168) -/
  pc : BitVec 32
  /-- CAUSE (R168) -/
  cause : BitVec 8
  /-- CORE (R168) -/
  core : BitVec 8
  /-- CONTEXT (R168) -/
  ctx : BitVec 8
  /-- TEAM (R168) -/
  team : BitVec 16
  /-- LAST_PP (R168) -/
  lastPp : BitVec 16
  /-- ADDRESS (R168) -/
  address : BitVec 32
deriving DecidableEq, Repr

/-- A paddock and its parameters (Table 2-7). -/
structure Paddock where
  /-- logical teams of the allotment, rising (R66) -/
  teams : List Nat
  /-- teams a shrink has released that have not left (R68) -/
  leaving : List Nat
  /-- HBM_QUOTA, GiB (R79) -/
  hbmQuota : Nat
  /-- BASIN_QUOTA, MiB (R79) -/
  basinQuota : Nat
  /-- NVW_QUOTA, 64 MiB blocks (R79) -/
  nvwQuota : Nat
  /-- PARK_QUOTA, GiB (R79) -/
  parkQuota : Nat
  /-- MANIFEST_QUOTA, entries (R79) -/
  manifestQuota : Nat
  /-- TRACE_SHARE, % (R79) -/
  traceShare : Nat
  /-- QUAY_SHARE, % (R79) -/
  quayShare : Nat
  /-- MODELS (R79) -/
  models : Nat
  /-- ADAPTERS (R79) -/
  adapters : Nat
  /-- ERROR_BUDGET (R79) -/
  errorBudget : Nat
  /-- AES-256-XTS key, generated at creation inside Kryto (R66, R222) -/
  xtsKey : BitVec 512
  /-- a SESSION_OPEN has re-attached its private NVW regions (R237) -/
  attached : Bool
  /-- PWR_RATE_LIMIT, M steps/s (R465) -/
  rateLimit : Option Nat
  /-- the last 64 exception records (R168) -/
  excs : List ExcRec
  /-- LP_CHECKED (R296) -/
  lpChecked : BitVec 64
  /-- LP_MISMATCH (R296) -/
  lpMismatch : BitVec 64
  /-- mismatches logged in this session, at most 64 (R296) -/
  lpLogged : Nat
  /-- STAT_MISMATCH (R299) -/
  statMismatch : BitVec 64
  /-- sweeps applied (R332) -/
  sweeps : BitVec 64
  /-- sweeps skipped as non-finite (R332) -/
  sweepsNonfinite : BitVec 64
  /-- decode pipe time taken, in luma samples for each hundredth of QUAY_SHARE (R441) -/
  decodePass : Nat
  /-- encode pipe time taken, in the same (R441) -/
  encodePass : Nat
deriving DecidableEq, Repr

/-- Paddock at reset. -/
def Paddock.reset : Paddock :=
  { teams := [],
    leaving := [],
    hbmQuota := 0,
    basinQuota := 0,
    nvwQuota := 0,
    parkQuota := 0,
    manifestQuota := 0,
    traceShare := 0,
    quayShare := 0,
    models := 2,
    adapters := 256,
    errorBudget := 64,
    xtsKey := 0#512,
    attached := false,
    rateLimit := none,
    excs := [],
    lpChecked := 0#64,
    lpMismatch := 0#64,
    lpLogged := 0,
    statMismatch := 0#64,
    sweeps := 0#64,
    sweepsNonfinite := 0#64,
    decodePass := 0,
    encodePass := 0 }

/-- An exact accumulator (R89), the value an EP64 record holds. -/
structure Acc where
  /-- the register, least significant bit 2^-190 (R89) -/
  reg : BitVec 384
  /-- POS_INF (R89) -/
  posInf : Bool
  /-- NEG_INF (R89) -/
  negInf : Bool
  /-- NAN (R89) -/
  nan : Bool
  /-- drop count, saturating (R89) -/
  drops : BitVec 32
deriving DecidableEq, Repr

/-- Acc at reset. -/
def Acc.reset : Acc :=
  { reg := 0#384,
    posInf := false,
    negInf := false,
    nan := false,
    drops := 0#32 }

/-- One hardware context of one core (Table 5-1). -/
structure Ctx where
  /-- program counter, an offset in the code (R147) -/
  pc : BitVec 32
  /-- status (R147) -/
  status : BitVec 64
  /-- loop counters (R147) -/
  loops : List (BitVec 64)
  /-- last pre-emption point passed, 0xFFFF for none (R147, R168) -/
  lastPp : BitVec 16
  /-- native generator per lane (unlisted: the state of seed 0) (R139, R145) -/
  gen : Tbl (BitVec 128)
  /-- s0 to s31 (unlisted 0) (R147) -/
  sregs : Tbl (BitVec 64)
  /-- m0 to m7 (unlisted 0) (R147) -/
  mregs : Tbl (BitVec 64)
  /-- v0 to v31, key 32 x register + lane (unlisted 0) (R147) -/
  vregs : Tbl (BitVec 32)
  /-- poisoned registers: 0 to 31 s, 32 to 39 m, 40 to 71 v (R192) -/
  poison : List Nat
  /-- stream positions: tiles delivered to the core's task by stream handle (R147) -/
  positions : Tbl Nat
  /-- barrier state: barriers for which this context has executed BARV in the present arrival (R147, R188, R194) -/
  barved : List Nat
  /-- the 384-bit exact register of the exact reductions (R116), kept with the context's control state (log entry
  148) -/
  exact : Acc
  /-- poison bit of the exact register (R192) -/
  exPoison : Bool
deriving DecidableEq, Repr

/-- Ctx at reset. -/
def Ctx.reset : Ctx :=
  { pc := 0#32,
    status := 0#64,
    loops := [],
    lastPp := 0xFFFF#16,
    gen := [],
    sregs := [],
    mregs := [],
    vregs := [],
    poison := [],
    positions := [],
    barved := [],
    exact := Acc.reset,
    exPoison := false }

/-- What a core holds beside its contexts. -/
structure Core where
  /-- poison bit of the core's DPU accumulators (R192) -/
  accPoison : Bool
deriving DecidableEq, Repr

/-- Core at reset. -/
def Core.reset : Core :=
  { accPoison := false }

/-- What a team's context number holds. -/
structure TeamCtx where
  /-- the task (R154) -/
  wid : BitVec 64
  /-- window offset, units of 4 KiB (R160) -/
  offset : Nat
  /-- window size, units of 4 KiB (R160) -/
  window : Nat
  /-- live scratchpad bytes while suspended, units of 256 B (R151, R160) -/
  live : Nat
  /-- a product was open when the context left the array at a wait or forced stop (R158) -/
  product : Bool
  /-- the accumulators of that product, part of the suspension's live set (R158, R164; log entry 149) -/
  accs : Tbl Acc
  /-- the cores whose accumulators of that product are poisoned (R192) -/
  accPoison : List Nat
deriving DecidableEq, Repr

/-- One logical team. -/
structure Team where
  /-- physical team; none reads as the initial mapping (R18) -/
  phys : Option Nat
  /-- in service (R416) -/
  inService : Bool
  /-- being replaced: not free for placement (R415) -/
  replacing : Bool
  /-- active context (R148) -/
  active : Option Nat
  /-- contexts held (R154) -/
  ctxs : Tbl TeamCtx
  /-- ACC_DROPS, saturating (R112) -/
  accDrops : BitVec 64
  /-- ACC_INF, saturating (R112) -/
  accInf : BitVec 64
  /-- ACC_NAN, saturating (R112) -/
  accNan : BitVec 64
  /-- a product is open on the array (R158) -/
  product : Bool
  /-- array steps completed (R20) -/
  stepNo : Nat
  /-- DPU accumulators, key 32 x row + column (unlisted zero) (R89) -/
  accs : Tbl Acc
  /-- the RESIL_TEAM_RETIRE that waits on this substitution (R414) -/
  substFor : Option (BitVec 64)
deriving DecidableEq, Repr

/-- Team at reset. -/
def Team.reset : Team :=
  { phys := none,
    inService := true,
    replacing := false,
    active := none,
    ctxs := [],
    accDrops := 0#64,
    accInf := 0#64,
    accNan := 0#64,
    product := false,
    stepNo := 0,
    accs := [],
    substFor := none }

/-- One physical team. -/
structure PhysTeam where
  /-- none reads as the initial map: the lowest 80 of a die mapped, the rest spares (R414) -/
  state : Option PhysState
  /-- logical team it is being brought up for (R415) -/
  bringFor : Option Nat
  /-- times of hardware-class faults after a return (R495) -/
  failTimes : List Nat
  /-- returned from field self-test (R495) -/
  returned : Bool
  /-- a field test is due from this time (R495) -/
  fieldDue : Option Nat
  /-- time of its last field test (R495) -/
  lastTest : Nat
deriving DecidableEq, Repr

/-- PhysTeam at reset. -/
def PhysTeam.reset : PhysTeam :=
  { state := none,
    bringFor := none,
    failTimes := [],
    returned := false,
    fieldDue := none,
    lastTest := 0 }

/-- A pre-emption point (Table 5-3). -/
structure PpEntry where
  /-- PC_OFFSET (R151) -/
  pc : BitVec 32
  /-- VLIVE (R151) -/
  vlive : BitVec 32
  /-- SLIVE (R151) -/
  slive : BitVec 32
  /-- SCRATCH_LIVE (R151) -/
  scratch : Nat
  /-- MLIVE (R151) -/
  mlive : BitVec 8
deriving DecidableEq, Repr

/-- A loaded kernel. -/
structure Kernel where
  /-- owner (R152) -/
  paddock : Nat
  /-- TEAMS_MIN (R150) -/
  teamsMin : Nat
  /-- TEAMS_MAX (R150) -/
  teamsMax : Nat
  /-- WINDOW (R150) -/
  window : Nat
  /-- NATIVE_RNG (R150) -/
  nativeRng : Bool
  /-- ARRAY (R150) -/
  array : Bool
  /-- PP_MAX_STEPS (R150) -/
  ppMaxSteps : Nat
  /-- ENTRY (R150) -/
  entry : BitVec 32
  /-- ARGS_LENGTH (R150) -/
  argsLength : Nat
  /-- CODE_LENGTH (R150) -/
  codeLength : Nat
  /-- pre-emption point table (R151) -/
  pps : List PpEntry
  /-- quarters that hold a copy of the code (R152) -/
  quarters : List Nat
  /-- Basin addresses of the copies (R152) -/
  code : List Nat
  /-- an unload waits (R170) -/
  unloading : Bool
deriving DecidableEq, Repr

/-- The saved state of one core of a saved task. -/
structure CoreSave where
  /-- team rank (R161) -/
  rank : Nat
  /-- core (R161) -/
  core : Nat
  /-- the saved control state: every field of the context but its generators and registers, whose 192 bytes have no
  layout in the spec (R161; log entry 37) -/
  ctl : Ctx
  /-- a product was open: the record holds the core's accumulators (R161) -/
  product : Bool
  /-- poison bit of the accumulators (R192) -/
  accPoison : Bool
deriving DecidableEq, Repr

/-- A pre-emption requested and not finished. -/
structure Preempt where
  /-- forced (R170) -/
  force : Bool
  /-- the suspension shall be saved (R170) -/
  save : Bool
  /-- time the request was made (R158) -/
  since : Nat
  /-- commands that complete with the suspension (R169) -/
  waiters : List (BitVec 64)
deriving DecidableEq, Repr

/-- what an end of a stream is bound to (R189). -/
inductive End where
  | task (wid : BitVec 64) (rank : Nat)
  | engine (wid : BitVec 64)
  | quay (handle : Nat)
  | coll (wid : BitVec 64)
deriving DecidableEq, Repr

/-- A burst or a commit that waits. -/
structure Burst where
  /-- consumer index; 0xFFFF a producer's commit (R184) -/
  consumer : Nat
  /-- tiles asked for (R184) -/
  n : Nat
  /-- the end that waits (R188) -/
  who : End
  /-- scalar register that receives the status word (R187) -/
  rs : Nat
  /-- scalar register that receives the first index (R187) -/
  rx : Nat
  /-- scratchpad offset of a waiting SWR (R188) -/
  off : Nat
deriving DecidableEq, Repr

/-- The last arrival of a party at a barrier. -/
structure BarArr where
  /-- task (R188) -/
  task : BitVec 64
  /-- rank (R188) -/
  rank : Nat
  /-- phase in which it arrived (R188) -/
  phase : Nat
deriving DecidableEq, Repr

/-- A task (R153). -/
structure Task where
  /-- owner (R153) -/
  paddock : Nat
  /-- kernel handle (R153) -/
  kernel : Nat
  /-- TEAMS (R153) -/
  teamsN : Nat
  /-- state (R157) -/
  state : TaskState
  /-- logical teams in rank order (R153) -/
  teams : List Nat
  /-- context number (R154) -/
  ctx : Nat
  /-- Basin address of the task's copy of the argument block, 0 none (R153) -/
  argBuf : Nat
  /-- the argument block that the launch named, 0 none (R245) -/
  argSrc : Nat
  /-- team mask of the launch (R154) -/
  mask : Option (List Nat)
  /-- context asked for (R170) -/
  wantCtx : Option Nat
  /-- CLASS (R156) -/
  urgent : Bool
  /-- GRACE, us (R158) -/
  grace : Nat
  /-- TIME_LIMIT, ms, 0 none (R170) -/
  timeLimit : Nat
  /-- address of the save area (R161) -/
  saveArea : Nat
  /-- tier of the save area (R161) -/
  saveTier : Tier
  /-- exception buffer, 0 none (R168) -/
  excBuf : BitVec 64
  /-- time it began to wait (R155) -/
  queuedAt : Nat
  /-- time its last run ended (R154) -/
  stoppedAt : Nat
  /-- dispatch order (R155) -/
  order : Nat
  /-- placement order (R156) -/
  placedAt : Nat
  /-- running time before the present run (R164) -/
  ranNs : Nat
  /-- start of the present run (R164) -/
  runSince : Nat
  /-- pre-emptions (R170) -/
  preempts : Nat
  /-- pending pre-emption (R158) -/
  preempt : Option Preempt
  /-- ranks that have stopped at a point (R158) -/
  arrived : List Nat
  /-- of those, the ranks stopped at a wait or forced stop (R158) -/
  atWait : List Nat
  /-- rank and index of the marked point it stopped at (R151) -/
  pps : Tbl Nat
  /-- ranks whose stream has ended (R157) -/
  ended : List Nat
  /-- a save is being written (R161) -/
  saving : Bool
  /-- a restore is being read (R162) -/
  restoring : Bool
  /-- live state in the save area (R161) -/
  saved : List CoreSave
  /-- resumes ahead of waiting NORMAL tasks (R156) -/
  victim : Bool
  /-- suspended by TASK_PREEMPT: only TASK_RESUME resumes it (R171) -/
  held : Bool
  /-- TASK_RESUME that waits (R170) -/
  resumeBy : Option (BitVec 64)
  /-- poisoned lines stored (R193) -/
  poisonStores : Nat
  /-- ACC_DROPS of teams already released (R170) -/
  drops : BitVec 64
  /-- ACC_INF of teams already released (R170) -/
  infs : BitVec 64
  /-- ACC_NAN of teams already released (R170) -/
  nans : BitVec 64
  /-- exception records of the task (R168) -/
  excs : List ExcRec
  /-- stream reads (and waiting tile writes) withdrawn at a stop: rank, handle, burst (R158) -/
  withdrawn : List (Nat × Nat × Burst)
  /-- barrier waits withdrawn at a stop: barrier, arrival, register (R158) -/
  withdrawnBars : List (Nat × BarArr × Nat)
  /-- Basin buffers of the task (R153) -/
  bufs : List Nat
  /-- teams a TASK_RESUME asked for (R170) -/
  resumeMask : Option (List Nat)
  /-- the model whose generation loop it runs (R257) -/
  loopModel : Option Nat
deriving DecidableEq, Repr

/-- One consumer of a stream. -/
structure Consumer where
  /-- READ_c (R181) -/
  read : Nat
  /-- tiles of the held burst (R186) -/
  held : Nat
  /-- ring slots of a burst held since before a rearm (R186) -/
  keep : List Nat
  /-- has received END (R184) -/
  endSeen : Bool
  /-- its end was stopped by a master reset (R202) -/
  stopped : Bool
deriving DecidableEq, Repr

/-- Consumer at reset. -/
def Consumer.reset : Consumer :=
  { read := 0,
    held := 0,
    keep := [],
    endSeen := false,
    stopped := false }

/-- A stream (R181). -/
structure Stream where
  /-- owner (R181) -/
  paddock : Nat
  /-- buffer address as named (R181) -/
  buf : Nat
  /-- DEPTH (R181) -/
  depth : Nat
  /-- CONSUMERS (R181) -/
  nCons : Nat
  /-- EXPECTED, 0 unbounded (R181) -/
  expected : Nat
  /-- state (R182) -/
  state : StreamState
  /-- COMMITTED (R183) -/
  committed : Nat
  /-- tiles committed beyond COMMITTED (R183) -/
  early : List Nat
  /-- P, 0 when not aborted (R185) -/
  poisonLimit : Nat
  /-- poisoned tiles delivered, saturating at 2^32 - 1 (R208) -/
  poisonTiles : Nat
  /-- producer end (R189) -/
  producer : Option End
  /-- bound consumer ends (R189) -/
  consEnd : Tbl End
  /-- consumers (unlisted: Consumer.reset) (R181) -/
  cons : Tbl Consumer
  /-- bursts and commits waiting (R184) -/
  waiting : List Burst
  /-- end barrier, 0 none (R206) -/
  endBarrier : Nat
  /-- the end arrival has been made (R206) -/
  endDone : Bool
  /-- FLAGS[0]: log an event at each END (R206) -/
  logEnd : Bool
deriving DecidableEq, Repr

/-- A barrier (R194). -/
structure Barrier where
  /-- owner (R194) -/
  paddock : Nat
  /-- EXPECT (R194) -/
  expect : Nat
  /-- phase number (R194) -/
  phase : Nat
  /-- arrivals of the phase, at most EXPECT (R194) -/
  count : Nat
  /-- arrivals that count toward the next phase (R196) -/
  next : Nat
  /-- drain streams (R196) -/
  drains : List Nat
  /-- AUTO_REARM (R196) -/
  autoRearm : Bool
  /-- last arrival of each team (R188) -/
  arrs : List BarArr
  /-- teams in BWAIT, the phase they wait for and the register for the status word (R188) -/
  waitTasks : List (BarArr × Nat)
  /-- BARRIER_ARRIVE commands with WAIT, and their phase (R206) -/
  waitCmds : List (BitVec 64 × Nat)
deriving DecidableEq, Repr

/-- An engine bound by STREAM_BIND (R207), or NVW_PROGRAM's stream source. -/
structure Bind where
  /-- command (R207) -/
  wid : BitVec 64
  /-- owner (R207) -/
  paddock : Nat
  /-- function, for a PCIe engine (R207) -/
  fn : Nat
  /-- stream (R207) -/
  handle : Nat
  /-- none for a producer bind (R207) -/
  consumer : Option Nat
  /-- first address (R207) -/
  addr : Nat
  /-- the calling function's PCIe engine (R207) -/
  host : Bool
  /-- TILES (R207) -/
  tiles : Nat
  /-- BURST (R207) -/
  burst : Nat
  /-- STRIDE, bytes (R207) -/
  stride : Nat
  /-- done barrier, 0 none (R207) -/
  done : Nat
  /-- KEEP_OPEN (R207) -/
  keepOpen : Bool
  /-- stream index of the bind's first tile (R207) -/
  base : Nat
  /-- lines of tiles issued: tile, line (R198) -/
  issued : List (Nat × Nat)
  /-- lines landed (read) or acknowledged (written): tile, line, poison, data (R198) -/
  landed : List (Nat × Nat × Bool × List (BitVec 8))
  /-- tiles of the bind committed or written (R207) -/
  doneTiles : List Nat
  /-- tiles moved (R207) -/
  moved : Nat
  /-- poisoned tiles moved (R207) -/
  poisoned : Nat
  /-- a poisoned line reached a tier or the host (R207) -/
  poisonOut : Bool
  /-- tiles of the burst held by a consumer bind (R207) -/
  took : Nat
  /-- END received (R207) -/
  gotEnd : Bool
  /-- status of a fault of the bind, 0 none (R201) -/
  failStatus : BitVec 16
deriving DecidableEq, Repr

/-- A request in flight under a transaction tag. -/
structure TagReq where
  /-- tag (R198) -/
  tag : Nat
  /-- pool the tag came from: 0 to 11 HBM4, 12 to 15 NVW, 16 parking, 17 shared (R198) -/
  pool : Nat
  /-- paddock (R199) -/
  paddock : Nat
  /-- the bind that asked (R198) -/
  wid : BitVec 64
  /-- tile of the bind (R198) -/
  tile : Nat
  /-- line of the tile (R198) -/
  line : Nat
  /-- a write (R198) -/
  write : Bool
  /-- a parking-tier request, of 64 B beats (R240) -/
  park : Bool
  /-- parking-tier device, by port (R239) -/
  dev : Nat
  /-- time of issue (R200) -/
  issuedAt : Nat
  /-- its master was reset: a response is discarded (R202) -/
  dropped : Bool
deriving DecidableEq, Repr

/-- The Basin's own counts. -/
structure BasinCtl where
  /-- corrected ECC count per bank, key 64 x quarter + bank (unlisted 0) (R206) -/
  eccCorrected : Tbl (BitVec 64)
  /-- uncorrectable ECC count per bank (unlisted 0) (R206) -/
  eccUncorrectable : Tbl (BitVec 64)
  /-- poisoned lines created per quarter (unlisted 0) (R206) -/
  poisonMade : Tbl (BitVec 64)
  /-- next line the scrub reads per quarter (unlisted 0) (R180) -/
  scrubPos : Tbl Nat
  /-- requests in flight (R198) -/
  tags : List TagReq
  /-- bound engines (R207) -/
  binds : List Bind
  /-- stream handles given out, none of them twice (R182) -/
  streamsMade : List Nat
  /-- barrier handles given out, none of them twice (R197) -/
  barriersMade : List Nat
deriving DecidableEq, Repr

/-- BasinCtl at reset. -/
def BasinCtl.reset : BasinCtl :=
  { eccCorrected := [],
    eccUncorrectable := [],
    poisonMade := [],
    scrubPos := [],
    tags := [],
    binds := [],
    streamsMade := [],
    barriersMade := [] }

/-- An allocation (R210), keyed by the address that names it. -/
structure Alloc where
  /-- 0 to 7, 15 shared (R211) -/
  owner : Nat
  /-- tier (R210) -/
  tier : Tier
  /-- NEAR (R210) -/
  near : Bool
  /-- die or quarter of a near allocation; first quarter of a global Basin one (R210) -/
  die : Nat
  /-- bytes, whole pages (R214) -/
  len : Nat
  /-- PERSIST (R210) -/
  persist : Bool
  /-- MOORED (R210) -/
  moored : Bool
  /-- made by Iluvo for another command (code copy, save area, list buffer ...) (R245) -/
  sys : Bool
  /-- parking-tier devices its pages lie on (R239) -/
  dev : List Nat
  /-- parking-tier ranges of it that are lost (R241) -/
  lost : List Nat
  /-- HBM4: frame index and number of each page in its band; NVW: stack and physical block; parking tier: range and pages (R216, R238, R239) -/
  pages : List (Nat × Nat)
  /-- NVW region state (R230) -/
  nvw : NvwState
  /-- PROGRAMMED, tiles (R230) -/
  programmed : Nat
  /-- lowest tile of a torn block after an interrupted program (R234) -/
  torn : Option Nat
  /-- sealed digest, empty when not sealed (R235) -/
  digest : List (BitVec 8)
  /-- paddocks granted read access (R236) -/
  grants : List Nat
  /-- tenant key under which a private region was written (R237) -/
  keyTag : List (BitVec 8)
deriving DecidableEq, Repr

/-- One HBM4 channel. -/
structure Chan where
  /-- mapped out (R227) -/
  mapped : Bool
  /-- a map-out in progress (0: Iluvo's own) (R228) -/
  migrating : Option (BitVec 64)
  /-- NO_MIGRATE (R228) -/
  noMigrate : Bool
  /-- frames switched (R228) -/
  switched : Nat
  /-- lines written poisoned (R228) -/
  linesPoisoned : Nat
  /-- a map-out lacked substitute frames (R227) -/
  degraded : Bool
  /-- times of corrected sectors of the last hour (R227) -/
  corrTimes : List Nat
  /-- times of uncorrectable sectors of the last 24 hours (R227) -/
  uncTimes : List Nat
  /-- calibrations failed in succession (R227) -/
  calFails : Nat
  /-- time of the last calibration (R226) -/
  calLast : Nat
  /-- stack temperature at the last calibration, 1/16 degC (R226) -/
  calTemp : Int
  /-- time a calibration fell due (R225) -/
  calDue : Option Nat
  /-- refreshes issued (R245) -/
  refreshes : BitVec 64
  /-- forced calibrations (R245) -/
  forcedCals : BitVec 64
  /-- corrected reads (R245) -/
  corrected : BitVec 64
  /-- uncorrectable reads (R245) -/
  uncorrectable : BitVec 64
  /-- poison reads (R245) -/
  poisonReads : BitVec 64
  /-- corrected sectors awaiting write-back (R220) -/
  writeback : List Nat
  /-- next sector of the patrol scrub (R226) -/
  scrubPos : Nat
  /-- time each sector was last scrubbed (unlisted 0) (R226) -/
  scrubbed : Tbl Nat
  /-- SCRUB_AGE logged for this age (R226) -/
  scrubLogged : Bool
  /-- sectors outside every allocation that hold the poison encoding, byte positions in the channel (R220) -/
  badSectors : List Nat
deriving DecidableEq, Repr

/-- Chan at reset. -/
def Chan.reset : Chan :=
  { mapped := false,
    migrating := none,
    noMigrate := false,
    switched := 0,
    linesPoisoned := 0,
    degraded := false,
    corrTimes := [],
    uncTimes := [],
    calFails := 0,
    calLast := 0,
    calTemp := 0,
    calDue := none,
    refreshes := 0#64,
    forcedCals := 0#64,
    corrected := 0#64,
    uncorrectable := 0#64,
    poisonReads := 0#64,
    writeback := [],
    scrubPos := 0,
    scrubbed := [],
    scrubLogged := false,
    badSectors := [] }

/-- Memory being zeroed or filled in place for a command. -/
structure Zeroing where
  /-- command (R215) -/
  wid : BitVec 64
  /-- first address (R215) -/
  addr : Nat
  /-- bytes (R215) -/
  len : Nat
  /-- pattern of a MEM_FILL, none for an allocation (R245) -/
  pattern : Option (BitVec 64)
deriving DecidableEq, Repr

/-- The HBM4 tier. -/
structure Hbm where
  /-- channels 0 to 383 (unlisted: Chan.reset) (R216) -/
  chans : Tbl Chan
  /-- assigned frame indices: 0 global, 1 near, 2 system reserve (R216) -/
  bandUse : Tbl Nat
  /-- pages in use per near band, key 4 x frame index + die (R216) -/
  nearUse : Tbl Nat
  /-- pages in use per global band (R216) -/
  globUse : Tbl Nat
  /-- substitute frame of a frame, keys and values 1,024 x channel + frame (R227) -/
  subst : Tbl Nat
  /-- stacks whose map-out reserve is used (R218) -/
  reserveUsed : List Nat
  /-- 32-byte units read per channel (R245, R540) -/
  bytesRead : Tbl (BitVec 64)
  /-- 32-byte units written per channel (R540) -/
  bytesWritten : Tbl (BitVec 64)
  /-- stack temperature, 1/16 degC (unlisted 0) (R479) -/
  temp : Tbl Int
  /-- stacks held to half rate (R479) -/
  throttled : List Nat
  /-- zeroing and filling in progress (R215) -/
  zeroing : List Zeroing
deriving DecidableEq, Repr

/-- Hbm at reset. -/
def Hbm.reset : Hbm :=
  { chans := [],
    bandUse := [],
    nearUse := [],
    globUse := [],
    subst := [],
    reserveUsed := [],
    bytesRead := [],
    bytesWritten := [],
    temp := [],
    throttled := [],
    zeroing := [] }

/-- One NVW stack. -/
structure NvwStack where
  /-- spare blocks (R230) -/
  spare : Nat
  /-- retired physical blocks (R238) -/
  retired : List Nat
  /-- blocks of capacity (R238) -/
  capacity : Nat
  /-- cycles per physical block (unlisted 0) (R238) -/
  cycles : Tbl (BitVec 16)
  /-- time of the last patrol read per block (unlisted 0) (R238) -/
  patrol : Tbl Nat
  /-- logical blocks being relocated (R238) -/
  reloc : List Nat
  /-- accumulated temperature-time, 1/16 degC x us (R238) -/
  retention : Nat
  /-- time of the last temperature sample, us (R238) -/
  sampledAt : Nat
  /-- programs, erases and relocation deferred above 90 degC (R479) -/
  deferred : Bool
  /-- codewords failed (R540) -/
  codewordFails : BitVec 64
deriving DecidableEq, Repr

/-- NvwStack at reset. -/
def NvwStack.reset : NvwStack :=
  { spare := 256,
    retired := [],
    capacity := 8192,
    cycles := [],
    patrol := [],
    reloc := [],
    retention := 0,
    sampledAt := 0,
    deferred := false,
    codewordFails := 0#64 }

/-- An NVW_PROGRAM in progress. -/
structure NvwProg where
  /-- command (R232) -/
  wid : BitVec 64
  /-- region address (R232) -/
  region : Nat
  /-- source address (R232) -/
  src : Nat
  /-- source stream, 0 none (R232) -/
  stream : Nat
  /-- consumer index bound (R232) -/
  consumer : Nat
  /-- tiles to program (R232) -/
  tiles : Nat
  /-- first tile (R232) -/
  start : Nat
  /-- VERIFY (R232) -/
  verify : Bool
  /-- tiles reprogrammed after verify (R232) -/
  reprog : Nat
  /-- tiles in the staging ring: tile, poisoned, bytes (R232) -/
  staged : List (Nat × Bool × List (BitVec 8))
deriving DecidableEq, Repr

/-- One CXL expander, by port. -/
structure CxlDev where
  /-- serial number (R242) -/
  serial : BitVec 64
  /-- GiB (R239) -/
  capacity : Nat
  /-- in service (R241) -/
  inService : Bool
  /-- taken offline (R241) -/
  offline : Bool
  /-- interleave set (R239) -/
  iset : Nat
  /-- trained at 32 GT/s in 68-byte flit mode (R239) -/
  slow : Bool
  /-- GiB of its capacity in an interleave set lost with another device (R241) -/
  spent : Nat
  /-- violations of the last second (R242) -/
  violTimes : List Nat
  /-- violations counted (R242) -/
  violations : Nat
  /-- timeouts of the last second (R241) -/
  toTimes : List Nat
  /-- timeouts counted (R245) -/
  timeouts : Nat
deriving DecidableEq, Repr

/-- The parking tier's port. -/
structure Cxl where
  /-- bifurcation: 0 x16, 1 2 x x8, 2 4 x x4 (R239) -/
  bifur : Nat
  /-- expanders present, by port (R239) -/
  devs : Tbl CxlDev
  /-- next interleave set number (R239) -/
  nextSet : Nat
deriving DecidableEq, Repr

/-- Cxl at reset. -/
def Cxl.reset : Cxl :=
  { bifur := 0,
    devs := [],
    nextSet := 0 }

/-- A registered model (Table 8-1). -/
structure Model where
  /-- owner (R247) -/
  paddock : Nat
  /-- WEIGHTS (R247) -/
  weights : BitVec 64
  /-- WEIGHTS_LENGTH (R247) -/
  weightsLen : Nat
  /-- BERTH_POOL (R247) -/
  pool : BitVec 64
  /-- BERTH_COUNT (R247) -/
  berthCount : Nat
  /-- VOCAB (R247) -/
  vocab : Nat
  /-- LAYERS (R247) -/
  layers : Nat
  /-- MOE_LAYERS (R247) -/
  moe : Nat
  /-- KV_HEADS (R247) -/
  kvHeads : Nat
  /-- HEAD_DIM (R247) -/
  headDim : Nat
  /-- KFMT (R247) -/
  kfmt : Nat
  /-- VFMT (R247) -/
  vfmt : Nat
  /-- TOPK (R247) -/
  topk : Nat
  /-- FLAGS.INVARIANT (R247) -/
  invariant : Bool
  /-- EXPERTS (R247) -/
  experts : Nat
  /-- current policy version (R262) -/
  version : BitVec 32
  /-- CAPACITY (R247) -/
  capacity : Nat
  /-- PARK_AREA (R247) -/
  parkArea : BitVec 64
  /-- PARK_SLOTS (R247) -/
  parkSlots : Nat
  /-- FAR (R247) -/
  far : BitVec 16
  /-- NEAR (R247) -/
  near : BitVec 8
  /-- SINK (R247) -/
  sink : BitVec 8
  /-- VSCALE (R247) -/
  vscale : List (BitVec 8)
  /-- turn state; none without a loop (R344) -/
  turn : Option TurnState
  /-- drain list: Manifest entries (R345) -/
  drain : List Nat
  /-- pending REIN_DRAIN and KEEP (R345) -/
  drainBy : Option (BitVec 64 × Bool)
  /-- pending REIN_REMOUNT, its version, applied (R362) -/
  remount : Option (BitVec 64 × BitVec 32 × Bool)
  /-- first step under the new version (R363) -/
  remountStep : Nat
  /-- old slot that a built step may still reference (R363) -/
  remountOld : Option Nat
  /-- remounts applied (R367) -/
  remounts : Nat
  /-- duration of the last drain (R367) -/
  drainNs : Nat
  /-- duration of the last resume (R367) -/
  resumeNs : Nat
  /-- start of the pending drain (R367) -/
  drainFrom : Nat
deriving DecidableEq, Repr

/-- A resident adapter. -/
structure Adapter where
  /-- owner (R251) -/
  paddock : Nat
  /-- model (R251) -/
  model : Nat
  /-- rank (R251) -/
  rank : Nat
  /-- 0 BF16, 1 MXFP8 E4M3 (R251) -/
  fmt : Nat
  /-- image (R251) -/
  addr : BitVec 64
deriving DecidableEq, Repr

/-- A rollout ring (R273). -/
structure RRing where
  /-- owner (R273) -/
  paddock : Nat
  /-- function, for a host ring (R273) -/
  fn : Nat
  /-- buffer (R273) -/
  addr : BitVec 64
  /-- a host buffer (R273) -/
  host : Bool
  /-- RECORDS (R273) -/
  records : Nat
  /-- WRITE_INDEX (R273) -/
  write : Nat
  /-- READ_INDEX (R273) -/
  read : Nat
  /-- LOW_WATER, 0 none (R290) -/
  lowWater : Nat
  /-- room stood below LOW_WATER at the last look (R290) -/
  below : Bool
  /-- records not yet written (no session is open, or no room): entry, its serial, record (R288) -/
  held : List (Nat × BitVec 64 × List (BitVec 8))
deriving DecidableEq, Repr

/-- A Manifest entry (Table 8-2). -/
structure Entry where
  /-- SEQ_ID (R253) -/
  seqId : BitVec 32
  /-- STATE (R253) -/
  state : SeqState
  /-- PADDOCK (R253) -/
  paddock : Nat
  /-- MODEL (R253) -/
  model : Nat
  /-- ADAPTER (R253) -/
  adapter : BitVec 16
  /-- SEED (R253) -/
  seed : BitVec 64
  /-- ADMIT_WORK_ID (R253) -/
  admitWid : BitVec 64
  /-- ADMIT_SERIAL (R253) -/
  admitSerial : BitVec 64
  /-- KNOWN (R253) -/
  known : Nat
  /-- FILLED (R253) -/
  filled : Nat
  /-- GENERATED (R253) -/
  generated : Nat
  /-- MAX_NEW (R253) -/
  maxNew : Nat
  /-- CTX_LIMIT (R253) -/
  ctxLimit : Nat
  /-- INV_TEMP (R253) -/
  invTemp : BitVec 32
  /-- TOP_P (R253) -/
  topP : BitVec 32
  /-- TOP_K (R253) -/
  topK : BitVec 32
  /-- STOP (R253) -/
  stop : List (BitVec 32)
  /-- SEQ_BUF (R253) -/
  seqBuf : BitVec 64
  /-- FAR (R253) -/
  far : BitVec 16
  /-- NEAR (R253) -/
  near : BitVec 8
  /-- SINK (R253) -/
  sink : BitVec 8
  /-- RING (R253) -/
  ring : BitVec 16
  /-- PRIORITY (R253) -/
  priority : Nat
  /-- FLAGS.AUTO_RELEASE (R253) -/
  autoRelease : Bool
  /-- FLAGS.PARK_NOW (R253) -/
  parkNow : Bool
  /-- FLAGS.AUTO_PARKED (R253) -/
  autoParked : Bool
  /-- FLAGS.EVICTING (R253) -/
  evicting : Bool
  /-- FLAGS.STOP_PARKS (R253) -/
  stopParks : Bool
  /-- VERSION (R253) -/
  version : BitVec 32
  /-- ADMIT_TIME (R253) -/
  admitTime : BitVec 64
  /-- DEADLINE (R253) -/
  deadline : BitVec 64
  /-- STATE_TIME (R253) -/
  stateTime : BitVec 64
  /-- END_STATUS (R253) -/
  endStatus : BitVec 16
  /-- SKIPS, saturating (R253) -/
  skips : BitVec 16
  /-- consecutive boundaries skipped for want of berths (R286) -/
  berthSkips : Nat
  /-- STEPS, saturating (R253) -/
  steps : BitVec 32
  /-- LAST_WORK_ID (R253) -/
  lastWid : BitVec 64
  /-- USER (R253) -/
  user : List (BitVec 8)
  /-- PARK_TTL (R253) -/
  parkTtl : BitVec 32
  /-- logical berth and berth number, rising (R256) -/
  map : List (Nat × Nat)
  /-- logical berth and parking slot, rising (R256) -/
  slots : List (Nat × Nat)
  /-- index of its terminal record (R275) -/
  termIdx : Option Nat
deriving DecidableEq, Repr

/-- A work list item (Table 8-5). -/
structure Item where
  /-- ENTRY (R261) -/
  entry : Nat
  /-- SEQ_ID (R261) -/
  seqId : BitVec 32
  /-- FIRST (R261) -/
  first : Nat
  /-- COUNT (R261) -/
  count : Nat
  /-- SAMPLE (R261) -/
  sample : Bool
  /-- ADMIT_SERIAL of the entry when built (R261) -/
  serial : BitVec 64
  /-- RING of the entry, where a record is promised (R276) -/
  ring : Nat
deriving DecidableEq, Repr

/-- A generation or rein command awaiting a step boundary. -/
structure SeqCmd where
  /-- command (R259) -/
  wid : BitVec 64
  /-- 1 cancel, 2 park, 3 resume, 4 release, 5 drain, 6 remount (R259) -/
  kind : Nat
  /-- model (R259) -/
  model : Nat
  /-- Manifest entry, for a command on a sequence (R259) -/
  entry : Nat
  /-- its ADMIT_SERIAL at dispatch (R259) -/
  serial : BitVec 64
  /-- TTL, MAX_NEW or VERSION (R259) -/
  arg : BitVec 64
  /-- PARK_NOW, FREE_BUF or KEEP (R259) -/
  flag : Bool
  /-- time of dispatch (R285) -/
  atNs : Nat
  /-- appended tokens (R284) -/
  tokens : List (BitVec 32)
deriving DecidableEq, Repr

/-- What the attention of one key-value head reads for one query (R269): every position at or below the query's in the
berths selected for it. -/
structure FarRead where
  /-- Manifest entry -/
  entry : Nat
  /-- position of the query -/
  pos : Nat
  /-- layer -/
  layer : Nat
  /-- key-value head -/
  head : Nat
  /-- positions that the attention covers, in increasing order -/
  positions : List Nat
deriving DecidableEq, Repr

/-- A generation loop (R257), keyed by model. -/
structure Loop where
  /-- GEN_LOOP_START (R257) -/
  wid : BitVec 64
  /-- owner (R257) -/
  paddock : Nat
  /-- step kernel (R257) -/
  kernel : Nat
  /-- this part is the leader (R264) -/
  leader : Bool
  /-- member parts (R264) -/
  members : List (BitVec 16)
  /-- SEQ_LIMIT (R258) -/
  seqLimit : Nat
  /-- TOKEN_BUDGET (R258) -/
  tokenBudget : Nat
  /-- PREFILL_CHUNK (R258) -/
  prefillChunk : Nat
  /-- list buffers (R258) -/
  listBuf : Nat
  /-- Iluvo allocated them (R258) -/
  listOwn : Bool
  /-- LIST_READY barrier (R257) -/
  ready : Nat
  /-- SAMPLE_DONE barrier (R257) -/
  sampleDone : Nat
  /-- step number of the list built last (R257) -/
  step : Nat
  /-- items of that list (R261) -/
  items : List Item
  /-- a list is out: the kernel runs its step (R257) -/
  listed : Bool
  /-- version of that list (R262) -/
  version : BitVec 32
  /-- grants of that list: entry, logical berth, berth (R261) -/
  grants : List (Nat × Nat × Nat)
  /-- GEN_LOOP_STOP commands waiting (R289) -/
  stopping : List (BitVec 64)
  /-- members whose loop task is saved in the present drain (R345) -/
  savedBy : List (BitVec 16)
  /-- what the queries of the step read of the berths (R269) -/
  reads : List FarRead
  /-- dispatch rounds of the step, by MoE layer (R280) -/
  rounds : List Nat
  /-- steps run (R290) -/
  stepsRun : Nat
  /-- items (R290) -/
  itemsRun : Nat
  /-- tokens (R290) -/
  tokensRun : Nat
  /-- dropped items (R290) -/
  dropped : Nat
  /-- spilled items (R290) -/
  spilled : Nat
  /-- skips (R290) -/
  skipped : Nat
  /-- auto-parks (R290) -/
  autoParks : Nat
  /-- evictions (R290) -/
  evictions : Nat
deriving DecidableEq, Repr

/-- Generation state. -/
structure Gen where
  /-- registered models 0 to 15 (R247) -/
  models : Tbl Model
  /-- adapters 0 to 4,095 (R251) -/
  adapters : Tbl Adapter
  /-- rollout rings by handle (R273) -/
  rings : Tbl RRing
  /-- running loops by model (R257) -/
  loops : Tbl Loop
  /-- non-FREE entries 0 to 131,071 (R253) -/
  manifest : Tbl Entry
  /-- admissions on the part (R253) -/
  admitSerial : BitVec 64
  /-- commands awaiting their application, dispatch order (R259) -/
  cmds : List SeqCmd
  /-- CTX_LIMIT under which a sequence buffer was last admitted, by address (R256) -/
  bufCtx : Tbl Nat
deriving DecidableEq, Repr

/-- Gen at reset. -/
def Gen.reset : Gen :=
  { models := [],
    adapters := [],
    rings := [],
    loops := [],
    manifest := [],
    admitSerial := 0#64,
    cmds := [],
    bufCtx := [] }

/-- A group descriptor of a parameter set (Table 9-2). -/
structure PGroup where
  /-- PARAM (R313) -/
  param : Nat
  /-- M1 (R313) -/
  m1 : Nat
  /-- M2 (R313) -/
  m2 : Nat
  /-- RF (R313) -/
  rf : Nat
  /-- CF (R313) -/
  cf : Nat
  /-- G8 (R313) -/
  g8 : Nat
  /-- COPY (R313) -/
  copy : Nat
  /-- BASE (R313) -/
  base : Nat
  /-- ELEMENTS (R313) -/
  elements : Nat
  /-- ROWS (R313) -/
  rows : Nat
  /-- COLS (R313) -/
  cols : Nat
  /-- RULE (R313) -/
  rule : Nat
  /-- M1FMT (R313) -/
  m1fmt : Nat
  /-- M2FMT (R313) -/
  m2fmt : Nat
  /-- COPYFMT (R313) -/
  copyfmt : Nat
  /-- FLAGS.COPY_SR (R313) -/
  copySr : Bool
  /-- MICRO (R313) -/
  micro : Nat
  /-- STREAM (R313) -/
  stream : BitVec 32
  /-- SUBJECT (R313) -/
  subject : BitVec 28
  /-- LR (R313) -/
  lr : BitVec 32
  /-- WD (R313) -/
  wd : BitVec 32
  /-- B1 (R313) -/
  b1 : BitVec 32
  /-- B2 (R313) -/
  b2 : BitVec 32
  /-- EPS (R313) -/
  eps : BitVec 32
deriving DecidableEq, Repr

/-- What a completed bucket adds to its set (R306). -/
structure Bucket where
  /-- square sum -/
  sq : Acc
  /-- row sums of squares, key 2^24 x group + row -/
  rows : Tbl Acc
  /-- column sums of squares, key 2^16 x group + column -/
  cols : Tbl Acc
deriving DecidableEq, Repr

/-- A parameter set. -/
structure LSet where
  /-- owner (R313) -/
  paddock : Nat
  /-- groups (R313) -/
  groups : List PGroup
  /-- norm group (R313) -/
  normGroup : BitVec 32
  /-- STEP (R317) -/
  step : Nat
  /-- state (R325) -/
  state : SetState
  /-- sums of completed buckets since the last norm (R306) -/
  buckets : Tbl Bucket
  /-- row accumulators, key 2^24 x group + row (R306) -/
  rowAcc : Tbl Acc
  /-- column accumulators, key 2^16 x group + column (R306) -/
  colAcc : Tbl Acc
  /-- norm (R308) -/
  norm : BitVec 32
  /-- gmul (R308) -/
  gmul : BitVec 32
  /-- NONFINITE (R308) -/
  nonfinite : Bool
  /-- SEED of the sweep (R324) -/
  seed : BitVec 64
  /-- LR_MUL of the sweep (R317) -/
  lrMul : BitVec 32
  /-- inv_rmean per FACTORED group (R319) -/
  inv : Tbl (BitVec 32)
  /-- the sweep's command (R326) -/
  sweepBy : BitVec 64
  /-- spans whose writes have been acknowledged, from which the progress word of each unit follows: group, span (R321) -/
  spansDone : List (Nat × Nat)
  /-- elements updated (R326) -/
  updated : Nat
  /-- spans skipped (R327) -/
  skipped : Nat
  /-- spans skipped: group, span (R327) -/
  skipList : List (Nat × Nat)
  /-- mixed spans restored from the stash (R328) -/
  restored : Bool
  /-- every span is done, and the sweep's moored cells have gone out (R321, R430) -/
  emitted : Bool
  /-- stashed old bytes: group, span (none for its factors), address and bytes of each range (R423) -/
  stash : List (Nat × Option Nat × List (Nat × List (BitVec 8)))
  /-- buckets completed (R332) -/
  bucketsDone : Nat
  /-- blocks sent with scale 0xFF (R332) -/
  naBlocks : Nat
deriving DecidableEq, Repr

/-- A loaded micro-program. -/
structure Micro where
  /-- owner (R322) -/
  paddock : Nat
  /-- instruction words (R322) -/
  code : List (BitVec 32)
  /-- sixteen constants (R322) -/
  consts : List (BitVec 32)
deriving DecidableEq, Repr

/-- An exchange or norm in progress on this member ; its transport is the operation of the same command. -/
structure Exch where
  /-- command (R305) -/
  wid : BitVec 64
  /-- a LEARN_NORM (R308) -/
  norm : Bool
  /-- set (R305) -/
  set : Nat
  /-- BUCKET (R305) -/
  bucket : Nat
  /-- DEST_GROUP (R305) -/
  destGroup : Nat
  /-- E (R305) -/
  e : Nat
  /-- DEST_ELEMENT (R305) -/
  destElem : Nat
  /-- quantised blocks in staging: 32 codes and a scale code each (R303) -/
  stage : List (BitVec 8)
  /-- ROUT: the function where it is a host buffer, and the address (R303) -/
  routTo : Option Nat × Nat
  /-- the residuals that the pass writes to ROUT (R303) -/
  residuals : List (BitVec 8)
  /-- the pass has written ROUT, every member having joined (R304) -/
  begun : Bool
  /-- row sums of squares of the own shard in a FACTORED group (R306) -/
  rows : Tbl Acc
  /-- column sums of squares of the own shard in a FACTORED group (R306) -/
  cols : Tbl Acc
  /-- the record that a norm sends, fixed once the exchanges before it have ended (R308, R309) -/
  record : List (BitVec 8)
  /-- blocks sent with scale 0xFF (R307) -/
  na : Nat
  /-- square sum of the own shard (R306) -/
  sq : Acc
  /-- staged blocks drawn from a poisoned line (R393) -/
  bad : List Nat
  /-- poisoned G8 and ROUT lines written (R393) -/
  poisoned : Nat
  /-- GSCALE (R308) -/
  gscale : BitVec 32
  /-- MAX_NORM (R308) -/
  maxNorm : BitVec 32
  /-- exchanges of the set that a norm waits for (R309) -/
  after : List (BitVec 64)
deriving DecidableEq, Repr

/-- One update unit. -/
structure UUnit where
  /-- times of faults within 24 hours (R423) -/
  faults : List Nat
  /-- retired (R423) -/
  retired : Bool
deriving DecidableEq, Repr

/-- UUnit at reset. -/
def UUnit.reset : UUnit :=
  { faults := [],
    retired := false }

/-- Learning state. -/
structure Learn where
  /-- parameter sets by handle (R313) -/
  sets : Tbl LSet
  /-- micro-programs by handle (R322) -/
  micros : Tbl Micro
  /-- exchanges and norms in progress (R305) -/
  exchs : List Exch
  /-- update units 0 to 11 (unlisted: UUnit.reset) (R423) -/
  units : Tbl UUnit
deriving DecidableEq, Repr

/-- Learn at reset. -/
def Learn.reset : Learn :=
  { sets := [],
    micros := [],
    exchs := [],
    units := [] }

/-- A tensor of a layout (Table 10-2). -/
structure Tensor where
  /-- TENSOR_ID (R334) -/
  id : BitVec 32
  /-- LAYER (R334) -/
  layer : Nat
  /-- ROWS (R334) -/
  rows : Nat
  /-- COLS (R334) -/
  cols : Nat
deriving DecidableEq, Repr

/-- A piece of a layout (Table 10-3). -/
structure Piece where
  /-- TENSOR (R334) -/
  tensor : Nat
  /-- PART (R334) -/
  part : Nat
  /-- ARRANGE (R334) -/
  tiles : Bool
  /-- FIRST, or ROW0 (R334) -/
  a0 : Nat
  /-- ROWS (R334) -/
  a1 : Nat
  /-- COUNT, or COL0 (R334) -/
  b0 : Nat
  /-- COLS (R334) -/
  b1 : Nat
  /-- OFFSET (R334) -/
  offset : Nat
deriving DecidableEq, Repr

/-- A layout slot on this part. -/
structure Slot where
  /-- region address, 0 none (R338) -/
  region : BitVec 64
  /-- state (R340) -/
  state : SlotState
  /-- version held (R340) -/
  version : BitVec 32
deriving DecidableEq, Repr

/-- Slot at reset. -/
def Slot.reset : Slot :=
  { region := 0#64,
    state := .empty,
    version := 0#32 }

/-- A registered layout. -/
structure Layout where
  /-- owner (R336) -/
  paddock : Nat
  /-- KIND (R334) -/
  kind : Nat
  /-- FORMAT (R334) -/
  format : Nat
  /-- REPLICAS (R334) -/
  replicas : Nat
  /-- part table (R334) -/
  parts : List (BitVec 16)
  /-- tensor table (R334) -/
  tensors : List Tensor
  /-- piece table (R334) -/
  pieces : List Piece
  /-- DIGEST (R334) -/
  digest : List (BitVec 8)
  /-- slot 0 (R338) -/
  slot0 : Slot
  /-- slot 1 (R338) -/
  slot1 : Slot
  /-- bound model (R338) -/
  model : Option Nat
  /-- Basin address of the slot table (R339) -/
  table : Nat
  /-- Iluvo allocated it (R367) -/
  tableOwn : Bool
  /-- bytes sent by the last permute (R367) -/
  sent : Nat
  /-- bytes received by the last permute (R367) -/
  recvd : Nat
  /-- duration of the last permute (R367) -/
  durNs : Nat
deriving DecidableEq, Repr

/-- What a REIN_PERMUTE asks for. -/
structure PermInfo where
  /-- source layout (R349) -/
  src : Nat
  /-- source slot (R349) -/
  srcSlot : Nat
  /-- destination layout (R349) -/
  dst : Nat
  /-- destination slot (R349) -/
  dstSlot : Nat
  /-- VERSION (R349) -/
  version : BitVec 32
  /-- SET, 0 none (R357) -/
  set : Nat
  /-- FIRST_LAYER (R353) -/
  first : Nat
  /-- LAST_LAYER (R353) -/
  last : Nat
  /-- DEST_OVERRIDE, 0 none (R353) -/
  destOver : Nat
  /-- staging allocation, 0 the system buffer (R352) -/
  staging : Nat
  /-- has not begun: it waits until every member has joined, or for its set's sweep (R349, R357) -/
  waiting : Bool
  /-- poisoned blocks received (R354) -/
  poison : Nat
deriving DecidableEq, Repr

/-- Rein-change state. -/
structure Rein where
  /-- layouts by handle (R336) -/
  layouts : Tbl Layout
deriving DecidableEq, Repr

/-- Rein at reset. -/
def Rein.reset : Rein :=
  { layouts := [] }

/-- A transaction flit in a retry buffer. -/
structure Flit where
  /-- FSEQ (R374) -/
  fseq : BitVec 12
  /-- virtual channel (R373) -/
  vc : Nat
  /-- MTAG (R372) -/
  mtag : BitVec 16
deriving DecidableEq, Repr

/-- One Trace port. -/
structure Port where
  /-- state (R375) -/
  state : PortState
  /-- active lanes (R371) -/
  width : Nat
  /-- lanes found faulty (R379) -/
  lanesBad : List Nat
  /-- peer part identifier (R375) -/
  peer : Option (BitVec 16)
  /-- peer port number (R375) -/
  peerPort : Nat
  /-- the peer is a Trace switch (R375) -/
  peerSwitch : Bool
  /-- this end is the steward (R381) -/
  steward : Bool
  /-- own swap request outstanding (0: Iluvo's own) (R382) -/
  swapBy : Option (BitVec 64)
  /-- commands that complete with the retrain (R380) -/
  retrainBy : List (BitVec 64)
  /-- failed attempts of the retrain (R375) -/
  retrainTries : Nat
  /-- width the retrain tries (R379) -/
  retrainWidth : Nat
  /-- time it entered DOWN (R375) -/
  downAt : Nat
  /-- time training started (R375) -/
  trainAt : Nat
  /-- a training has started since cold reset (R72) -/
  trained : Bool
  /-- time of the last change to or attempt from reduced width (R379) -/
  reducedAt : Nat
  /-- next FSEQ to send (R374) -/
  txSeq : BitVec 12
  /-- next FSEQ expected (R374) -/
  rxSeq : BitVec 12
  /-- flits not acknowledged, oldest first, at most 1,024 (R374) -/
  retryBuf : List Flit
  /-- per VC, flits of the message being sent that wait for credit or for room in the retry buffer (R373, R374) -/
  txRest : Tbl (List Flit)
  /-- flits served per VC while another VC of the port requested (R406) -/
  served : Tbl Nat
  /-- flits received since the last acknowledgement (R374) -/
  unacked : Nat
  /-- time of the last acknowledgement sent (R374) -/
  ackAt : Nat
  /-- FSEQ of the last RETRY received (R374) -/
  retryName : Option (BitVec 12)
  /-- RETRY records that named it without progress (R374) -/
  retryCount : Nat
  /-- discarding until the expected FSEQ arrives (R374) -/
  rxDiscard : Bool
  /-- running credit count granted to the peer per VC (unlisted: 256, 1,024, 512) (R373) -/
  credGranted : Tbl (BitVec 32)
  /-- flits received per VC (R373) -/
  credUsedRx : Tbl (BitVec 32)
  /-- running credit count the peer granted per VC (R373) -/
  credPeer : Tbl (BitVec 32)
  /-- flits sent per VC (R373) -/
  credUsedTx : Tbl (BitVec 32)
  /-- time of the last credit record sent (R373) -/
  credAt : Nat
  /-- violations of the last second (R407) -/
  violTimes : List Nat
  /-- violations counted (R410) -/
  violations : Nat
  /-- retries (R410) -/
  retries : Nat
  /-- uncorrectable codewords per lane (R370) -/
  fecBad : Tbl Nat
  /-- corrected symbols per lane (R540) -/
  fecSym : Tbl (BitVec 64)
  /-- 32-byte units sent (R540) -/
  bytesTx : BitVec 64
  /-- 32-byte units received (R540) -/
  bytesRx : BitVec 64
deriving DecidableEq, Repr

/-- Port at reset. -/
def Port.reset : Port :=
  { state := .down,
    width := 4,
    lanesBad := [],
    peer := none,
    peerPort := 0,
    peerSwitch := false,
    steward := false,
    swapBy := none,
    retrainBy := [],
    retrainTries := 0,
    retrainWidth := 4,
    downAt := 0,
    trainAt := 0,
    trained := false,
    reducedAt := 0,
    txSeq := 0#12,
    rxSeq := 0#12,
    retryBuf := [],
    txRest := [],
    served := [],
    unacked := 0,
    ackAt := 0,
    retryName := none,
    retryCount := 0,
    rxDiscard := false,
    credGranted := [],
    credUsedRx := [],
    credPeer := [],
    credUsedTx := [],
    credAt := 0,
    violTimes := [],
    violations := 0,
    retries := 0,
    fecBad := [],
    fecSym := [],
    bytesTx := 0#64,
    bytesRx := 0#64 }

/-- Time synchronisation. -/
structure TimeSync where
  /-- configured pod root, 0xFFFF none (R383) -/
  root : BitVec 16
  /-- its backups (R383) -/
  backups : List (BitVec 16)
  /-- time parent and the port toward it (R383) -/
  parent : Option (BitVec 16 × Nat)
  /-- t1 of the exchange (R384) -/
  t1 : BitVec 64
  /-- t2 of the exchange (R384) -/
  t2 : BitVec 64
  /-- t3 of the exchange (R384) -/
  t3 : BitVec 64
  /-- CORRECTION of the exchange (R384) -/
  corr : Int
  /-- greatest t1 received (R407) -/
  lastT1 : BitVec 64
  /-- greatest t4 received (R407) -/
  lastT4 : BitVec 64
  /-- the last 16 offsets (R384) -/
  offsets : List Int
  /-- filtered delay (R410) -/
  delay : Int
  /-- stepped at the first lock since cold reset (R384) -/
  stepped : Bool
  /-- offset left to slew, ns (R384) -/
  slew : Int
  /-- nanoseconds of time base since the last slew of 1 ns (R384) -/
  slewFrac : Nat
  /-- start of holdover (R385) -/
  holdover : Option Nat
  /-- time of the last SYNC sent per port (R384) -/
  lastSync : Tbl Nat
deriving DecidableEq, Repr

/-- TimeSync at reset. -/
def TimeSync.reset : TimeSync :=
  { root := 0xFFFF#16,
    backups := [],
    parent := none,
    t1 := 0#64,
    t2 := 0#64,
    t3 := 0#64,
    corr := 0,
    lastT1 := 0#64,
    lastT4 := 0#64,
    offsets := [],
    delay := 0,
    stepped := false,
    slew := 0,
    slewFrac := 0,
    holdover := none,
    lastSync := [] }

/-- What a DISPATCH leaves for its COMBINE. -/
structure Dispatched where
  /-- its SEQ (R401) -/
  seq : Nat
  /-- its item array (R401) -/
  src : Nat
  /-- its expert areas (R401) -/
  dst : Nat
  /-- ITEM_BYTES (R390) -/
  itemBytes : Nat
  /-- ROUND (R401) -/
  round : Nat
  /-- items kept at own experts: source rank, index among its keys to this owner, byte offset of the slot (R399) -/
  kept : List (Nat × Nat × Nat)
  /-- own items kept: owner rank, index among the keys to it, ITEM (R399) -/
  went : List (Nat × Nat × Nat)
deriving DecidableEq, Repr

/-- A collective group. -/
structure TGroup where
  /-- owner, none for a system group (R388) -/
  paddock : Option Nat
  /-- members in rank order (R388) -/
  members : List (BitVec 16)
  /-- own rank (R388) -/
  rank : Nat
  /-- staging allocation (R388) -/
  staging : Nat
  /-- its bytes (R388) -/
  stagingLen : Nat
  /-- Iluvo allocated it (R410) -/
  stagingOwn : Bool
  /-- OPS (R388) -/
  ops : Nat
  /-- MERGE (R388) -/
  merge : Nat
  /-- TIMEOUT, ms (R388) -/
  timeout : Nat
  /-- CHUNK, bytes (R388) -/
  chunk : Nat
  /-- last SEQ issued (R396) -/
  issued : Nat
  /-- greatest SEQ completed (R396) -/
  completed : Nat
  /-- aborted pairs recorded, at most 1,024: SEQ, status, detail (R397) -/
  aborted : List (Nat × BitVec 16 × BitVec 32)
  /-- ranks that have been sent a grant with the MEMBERS digest (R396) -/
  greeted : List Nat
  /-- DISPATCHes completed (R401) -/
  dispatched : List Dispatched
deriving DecidableEq, Repr

/-- A chunk held for a merge or a destination tile. -/
structure Contrib where
  /-- sender (R392) -/
  rank : Nat
  /-- CHUNK (R392) -/
  chunk : Nat
  /-- OFFSET (R392) -/
  off : Nat
  /-- data (R392) -/
  data : List (BitVec 8)
  /-- its poisoned 256 B lines (R393) -/
  poison : List Nat
deriving DecidableEq, Repr

/-- A collective operation dispatched on this member. -/
structure Coll where
  /-- command (R390) -/
  wid : BitVec 64
  /-- owner (R390) -/
  paddock : Nat
  /-- GROUP (R390) -/
  group : BitVec 32
  /-- SEQ (R396) -/
  seq : Nat
  /-- SHAPE (R389) -/
  shape : BitVec 64
  /-- KIND: 0 to 7 of Table 11-8, 8 a permute, 9 a bucket's exchange, 10 a norm (R390) -/
  kind : Nat
  /-- REDOP (R390) -/
  redop : Nat
  /-- IN_FMT (R390) -/
  inFmt : Nat
  /-- OUT_FMT (R390) -/
  outFmt : Nat
  /-- COUNT (R390) -/
  count : Nat
  /-- SRC (R390) -/
  src : Nat
  /-- DST (R390) -/
  dst : Nat
  /-- ROOT (R390) -/
  root : Nat
  /-- RMODE (R390) -/
  rmode : Nat
  /-- SAT (R390) -/
  sat : Bool
  /-- SRC_STREAM (R395) -/
  srcStream : Bool
  /-- DST_STREAM (R395) -/
  dstStream : Bool
  /-- CONSUMER (R395) -/
  consumer : Nat
  /-- CAPACITY (R390) -/
  capacity : Nat
  /-- AUX (R390) -/
  aux : Nat
  /-- ITEM_BYTES (R390) -/
  itemBytes : Nat
  /-- ROUND (R390) -/
  round : Nat
  /-- REPORT (R390) -/
  report : Nat
  /-- STREAM_ID (R390) -/
  streamId : BitVec 32
  /-- SR_SEED (R390) -/
  srSeed : BitVec 64
  /-- DST_AUX (R390) -/
  dstAux : Nat
  /-- owner rank per expert, empty for expert mod N (R390) -/
  expertMap : List Nat
  /-- EXPERTS (R390) -/
  experts : Nat
  /-- time of dispatch (R397) -/
  started : Nat
  /-- time of the timeout (R397) -/
  deadline : Nat
  /-- rank granted last (R394) -/
  last : Nat
  /-- staging slots held by grants: rank, chunk, offset in STAGING, bytes (R394) -/
  inSlots : List (Nat × Nat × Nat × Nat)
  /-- grants that hold a staging slot: rank, chunk (R394) -/
  grantsOut : List (Nat × Nat)
  /-- grants received and not used: rank, chunk (R394) -/
  grantsIn : List (Nat × Nat)
  /-- chunks sent: rank, chunk (R392) -/
  sent : List (Nat × Nat)
  /-- chunks acknowledged: rank, chunk (R387) -/
  done : List (Nat × Nat)
  /-- members known to have dispatched the operation with the same SHAPE (R304, R349, R396) -/
  joined : List Nat
  /-- chunks accepted: rank, chunk; the own rank's are local (R387) -/
  seen : List (Nat × Nat)
  /-- contributions held for merges (R392) -/
  contrib : List Contrib
  /-- windows merged and written, by their first element (R392) -/
  merged : List Nat
  /-- destination bytes that wait for their stream tile (R395) -/
  land : List Contrib
  /-- destination tiles committed (R395) -/
  tiles : Nat
  /-- bytes received (R410) -/
  bytesIn : Nat
  /-- poisoned destination lines written, by number (R393) -/
  poisonLines : List Nat
  /-- own dispatch keys, read at dispatch (R399) -/
  ownKeys : List (BitVec 8)
  /-- dispatch keys received: rank, keys (R399) -/
  keys : List (Nat × List (BitVec 8))
  /-- accept bitmaps received: rank, bits (R399) -/
  accepts : List (Nat × List Bool)
  /-- the accept bitmaps have been returned (R399) -/
  replied : Bool
  /-- grants refused: rank, chunk, time to grant again (R394) -/
  reissue : List (Nat × Nat × Nat)
  /-- the permute (R349) -/
  perm : Option PermInfo
deriving DecidableEq, Repr

/-- A receive window. -/
structure Window where
  /-- owner (R402) -/
  paddock : Nat
  /-- SLOTS (R402) -/
  slots : Nat
  /-- SLOT_BYTES (R402) -/
  slotBytes : Nat
  /-- admitted group, 0 any part (R402) -/
  group : BitVec 32
  /-- buffer (R402) -/
  addr : Nat
  /-- committed messages not received: slot, length, sender, number (R403) -/
  full : List (Nat × Nat × BitVec 16 × Nat)
  /-- slots received and not released (R403) -/
  busy : List Nat
  /-- TRACE_RECVs that wait, oldest first (R403) -/
  recvs : List (BitVec 64)
deriving DecidableEq, Repr

/-- A TRACE_SEND in progress. -/
structure Send where
  /-- command (R402) -/
  wid : BitVec 64
  /-- owner (R402) -/
  paddock : Nat
  /-- destination part (R402) -/
  dest : BitVec 16
  /-- window (R402) -/
  window : Nat
  /-- message number, once its head flit has been granted (R403) -/
  number : Option Nat
  /-- timeout (R402) -/
  deadline : Nat
deriving DecidableEq, Repr

/-- A message that waits to be sent. -/
structure TMsg where
  /-- message (R372) -/
  msg : Msg
  /-- its TRACE_SEND, else 0 (R402) -/
  wid : BitVec 64
  /-- paddock whose share it uses, 15 for system traffic (R406) -/
  pad : Nat
  /-- time to send it again after a REFUSE (R376) -/
  notBefore : Nat
deriving DecidableEq, Repr

/-- A message sent and kept. -/
structure TSent where
  /-- message (R376, R387) -/
  msg : Msg
  /-- its TRACE_SEND, else 0 (R402) -/
  wid : BitVec 64
  /-- paddock (R406) -/
  pad : Nat
  /-- port (R387) -/
  port : Nat
deriving DecidableEq, Repr

/-- The Traces. -/
structure Trace where
  /-- ports 0 to 15 (unlisted: Port.reset) (R369) -/
  ports : Tbl Port
  /-- time synchronisation (R383) -/
  time : TimeSync
  /-- groups by identifier (R388) -/
  groups : Tbl TGroup
  /-- operations in progress (R390) -/
  colls : List Coll
  /-- receive windows by number (R402) -/
  windows : Tbl Window
  /-- sends in progress (R402) -/
  sends : List Send
  /-- messages that wait to be sent, oldest first (R406) -/
  queue : List TMsg
  /-- messages sent and kept (R376, R387) -/
  sent : List TSent
  /-- next message number per destination and window, key 65,536 x part + window (R403) -/
  sendNo : Tbl Nat
  /-- next message number to deliver, key 65,536 x sender + window (R403) -/
  nextNo : Tbl Nat
  /-- message numbers accepted: 65,536 x sender + window, number (R387) -/
  seenNo : List (Nat × Nat)
  /-- message numbers refused for good, which delivery passes over: 65,536 x sender + window, number (R402, R403) -/
  voidNo : List (Nat × Nat)
  /-- VC 2 flits served per paddock, 15 for system traffic (R406) -/
  padFlits : Tbl Nat
  /-- per operation or send, its place among the messages served (R406) -/
  turns : Tbl Nat
  /-- next MTAG (R372) -/
  nextTag : BitVec 16
  /-- per destination, the port that the round robin used last (unlisted: 15) (R386) -/
  rr : Tbl Nat
  /-- grants held before their operation (R394) -/
  early : List Msg
  /-- time from which a part has had no route (R386) -/
  lostRoute : Tbl Nat
  /-- direct links of board group members that this part has learned: intermediate, destination (R386) -/
  boardPeers : List (BitVec 16 × BitVec 16)
deriving DecidableEq, Repr

/-- Trace at reset. -/
def Trace.reset : Trace :=
  { ports := [],
    time := TimeSync.reset,
    groups := [],
    colls := [],
    windows := [],
    sends := [],
    queue := [],
    sent := [],
    sendNo := [],
    nextNo := [],
    seenNo := [],
    voidNo := [],
    padFlits := [],
    turns := [],
    nextTag := 0#16,
    rr := [],
    early := [],
    lostRoute := [],
    boardPeers := [] }

/-- A mooring group. -/
structure Moor where
  /-- owner (R426) -/
  paddock : Nat
  /-- K (R426) -/
  k : Nat
  /-- M (R426) -/
  m : Nat
  /-- members in rank order (R426) -/
  members : List (BitVec 16)
  /-- spares (R426) -/
  spares : List (BitVec 16)
  /-- own rank, none for a spare (R426) -/
  rank : Option Nat
  /-- AUTO_REPLACE (R426) -/
  auto : Bool
  /-- timeout, ms (R426) -/
  timeout : Nat
  /-- C, cells (R427) -/
  c : Nat
  /-- parity area, 0 none (R427) -/
  parity : Nat
  /-- Iluvo allocated it (R427) -/
  parityOwn : Bool
  /-- protected allocations in address order (R427) -/
  space : List Nat
  /-- state (R426) -/
  state : MoorState
  /-- epoch counter: the epoch that writes now belong to (R430) -/
  epoch : Nat
  /-- COMMITTED_EPOCH (R430) -/
  committedEpoch : Nat
  /-- own data cells written since the last refresh began (R430) -/
  dirty : List Nat
  /-- own data cells sent in a refresh whose stripe has not committed (R430) -/
  flight : List Nat
  /-- epochs that are being refreshed, oldest first, with the command (R430) -/
  refreshes : List (Nat × Option (BitVec 64))
  /-- members lost (R426) -/
  lost : List (BitVec 16)
  /-- time of the last loss (R433) -/
  lostAt : Nat
  /-- lost cells: cell, member, epoch lag (R438) -/
  lostCells : List (Nat × BitVec 16 × Nat)
  /-- replace commands in progress (R433) -/
  rebuildBy : List (BitVec 64)
  /-- lost part and spare (R433) -/
  rebuildFor : Option (BitVec 16 × BitVec 16)
  /-- shrink commands in progress (R435) -/
  shrinkBy : List (BitVec 64)
  /-- time of the bound of Table 12-8 (R439) -/
  bound : Nat
  /-- time of the timeout of what is in progress (R426, R437, R438) -/
  deadline : Nat
  /-- duration of the last refresh (R438) -/
  refreshNs : Nat
  /-- duration of the last rebuild (R438) -/
  rebuildNs : Nat
  /-- start of the refresh or rebuild (R438) -/
  startedAt : Nat
deriving DecidableEq, Repr

/-- A frame descriptor (Table 13-4). -/
structure FrameDesc where
  /-- SRC (R455) -/
  src : BitVec 64
  /-- PTS (R455) -/
  pts : BitVec 64
  /-- FORCE_IDR (R455) -/
  forceIdr : Bool
  /-- FLUSH (R455) -/
  flush : Bool
  /-- QP_OFFSET (R455) -/
  qpOffset : Int
  /-- region entries (R455) -/
  regions : List (List (BitVec 8))
  /-- CROP (R455) -/
  crop : Nat × Nat × Nat × Nat
  /-- DOWNSCALE (R455) -/
  down : Nat
deriving DecidableEq, Repr

/-- A frame commit recorded and not latched. -/
structure Commit where
  /-- command (R455) -/
  wid : BitVec 64
  /-- descriptor (R455) -/
  desc : FrameDesc
  /-- NOT_BEFORE (R459) -/
  notBefore : Nat
deriving DecidableEq, Repr

/-- A decoded picture that waits for its output. -/
structure QPic where
  /-- picture number (R456) -/
  num : Nat
  /-- descriptor latched at the start of its decoding (R444) -/
  desc : FrameDesc
  /-- luma width after the conformance window (R444) -/
  width : Nat
  /-- luma height (R444) -/
  height : Nat
  /-- bit depth (R445) -/
  depth : Nat
  /-- TYPE (R456) -/
  kind : Nat
  /-- PicOrderCntVal (R456) -/
  poc : Int
  /-- luma samples in raster order (R444) -/
  y : List (BitVec 16)
  /-- Cb samples (R444) -/
  cb : List (BitVec 16)
  /-- Cr samples (R444) -/
  cr : List (BitVec 16)
  /-- CONCEALED (R448) -/
  concealed : Bool
  /-- POISON (R448) -/
  poison : Bool
  /-- HASH_MISMATCH (R456) -/
  mismatch : Bool
deriving DecidableEq, Repr

/-- A Frame Quay session. -/
structure Quay where
  /-- owner (R442) -/
  paddock : Nat
  /-- function (R442) -/
  fn : Nat
  /-- KIND (R442) -/
  encode : Bool
  /-- PROFILE (R442) -/
  profile : Nat
  /-- LEVEL (R442) -/
  level : Nat
  /-- TIER (R442) -/
  tier : Nat
  /-- WIDTH (R442) -/
  width : Nat
  /-- HEIGHT (R442) -/
  height : Nat
  /-- FPS_NUM (R442) -/
  fpsNum : Nat
  /-- FPS_DEN (R442) -/
  fpsDen : Nat
  /-- IN (R442) -/
  inS : Nat
  /-- IN_CONSUMER (R442) -/
  inCons : Nat
  /-- OUT (R442) -/
  outS : Nat
  /-- RECORDS_COUNT (R442) -/
  records : Nat
  /-- RECORDS (R442) -/
  recAddr : BitVec 64
  /-- the record ring lies in host memory (R442) -/
  recHost : Bool
  /-- WRITE_INDEX of its record ring (R456) -/
  write : Nat
  /-- READ_INDEX (R456) -/
  read : Nat
  /-- OUT_MODE (R442) -/
  outMode : Nat
  /-- PATCH (R442) -/
  patch : Nat
  /-- MATRIX (R442) -/
  matrix : Nat
  /-- RC_MODE (R442) -/
  rc : Nat
  /-- BITRATE (R442) -/
  bitrate : Nat
  /-- CPB_SIZE (R442) -/
  cpb : Nat
  /-- IDR_PERIOD (R442) -/
  idr : Nat
  /-- REFS (R442) -/
  refs : Nat
  /-- CTB (R442) -/
  ctb : Nat
  /-- QP_INIT (R442) -/
  qpInit : Nat
  /-- SAO (R442) -/
  sao : Bool
  /-- HASH (R442) -/
  hash : Bool
  /-- MEAN (R442) -/
  mean : List (BitVec 32)
  /-- ISTD (R442) -/
  istd : List (BitVec 32)
  /-- INT8_SCALE (R442) -/
  int8Scale : BitVec 8
  /-- QP_MIN (R442) -/
  qpMin : Nat
  /-- QP_MAX (R442) -/
  qpMax : Nat
  /-- DPB address (R442) -/
  dpb : Nat
  /-- Iluvo allocated it (R442) -/
  dpbOwn : Bool
  /-- ACTIVE descriptor register (R455) -/
  active : Option FrameDesc
  /-- PENDING descriptor register (R455) -/
  pend : Option Commit
  /-- encode commits that wait for PENDING (R455) -/
  queue : List Commit
  /-- pictures started (R455) -/
  started : Nat
  /-- place of its last start among those of its paddock's sessions (R441) -/
  turn : Nat
  /-- frame descriptors of the pictures coded (R452) -/
  frames : List FrameDesc
  /-- bit counts of the pictures coded (R452) -/
  bits : List Nat
  /-- luma samples of the reference pictures that coding holds, the latest first (R450) -/
  refsY : List (List Nat)
  /-- pictures coded since the last IDR picture, it counted (R442) -/
  sinceIdr : Nat
  /-- picture on a pipe and the descriptor latched for it (R441) -/
  coding : Option (Nat × FrameDesc)
  /-- pictures decoded and not yet in output order (R444) -/
  latched : List QPic
  /-- pictures in output order whose tiles or record are not all written (R443, R456) -/
  outq : List QPic
  /-- tiles of the first of them that are committed (R443) -/
  outTile : Nat
  /-- encode records that wait for their bytes' tiles to commit: byte index of the end, record (R456) -/
  recs : List (Nat × List (BitVec 8))
  /-- pictures output or coded (R456) -/
  outNo : Nat
  /-- byte index (encode) or tile index (decode) in OUT (R456) -/
  outPos : Nat
  /-- encoded bytes of the tile being filled (R443) -/
  tail : List (BitVec 8)
  /-- CPB fullness, in bits x 10 x FPS_NUM (R453, R459) -/
  cpbFull : Int
  /-- concealed pictures (R459) -/
  concealed : Nat
  /-- emergency pictures (R459) -/
  emergency : Nat
  /-- filler pictures (R459) -/
  filler : Nat
  /-- pictures without a decodable IRAP (R448) -/
  noIrap : Nat
  /-- previous output picture (R448) -/
  prev : Option QPic
  /-- picture at which ACTIVE was latched (R459) -/
  activeNo : Nat
  /-- QUAY_SESSION_CLOSE in progress (R443) -/
  closing : Option (BitVec 64)
  /-- end status of a session that writes what is left before it ends (R443, R456) -/
  ending : Option (BitVec 16)
  /-- end status once ended (R456) -/
  ended : Option (BitVec 16)
  /-- QUAY_RING_ADVANCEs that wait for WRITE_INDEX (R459) -/
  advWait : List (BitVec 64 × Nat)
deriving DecidableEq, Repr

/-- A regulator: a team's or an AVSBus rail's. -/
structure Reg where
  /-- target, mV (R463) -/
  target : Nat
  /-- output at the last command, uV (R469) -/
  out : Nat
  /-- time of that output (R469) -/
  since : Nat
  /-- command that waits for the target (R469) -/
  cmd : Option (BitVec 64)
  /-- FIXED (teams) (R468) -/
  fixed : Bool
  /-- slew, uV per us (R470) -/
  rate : Nat
deriving DecidableEq, Repr

/-- Power state of one physical team. -/
structure TeamPwr where
  /-- regulator, none: 750 mV and AUTO (R463) -/
  reg : Option Reg
  /-- start of the hold in progress (R476) -/
  hold : Option Nat
  /-- holds of the last 100 ms: start, length (R477) -/
  holds : List (Nat × Nat)
  /-- pacer limit of the throttle, in percent steps of 5 (R480) -/
  throttle : Nat
  /-- sensor, 1/16 degC (R479) -/
  temp : Int
  /-- last measured current, mA (R471) -/
  current : Nat
  /-- replica slowdown read, in 0.01 % (R467) -/
  replica : Nat
  /-- time of the last throttle step (R480) -/
  lastStep : Nat
  /-- time of the last ageing check (R467) -/
  ageAt : Nat
deriving DecidableEq, Repr

/-- TeamPwr at reset. -/
def TeamPwr.reset : TeamPwr :=
  { reg := none,
    hold := none,
    holds := [],
    throttle := 100,
    temp := 0,
    current := 0,
    replica := 0,
    lastStep := 0,
    ageAt := 0 }

/-- An AVSBus rail. -/
structure Rail where
  /-- regulator, none: nominal (R461) -/
  reg : Option Reg
  /-- last current, mA (R462) -/
  current : Nat
  /-- last temperature (R479) -/
  temp : Int
  /-- time a rail fault was declared (R478) -/
  fault : Option Nat
  /-- its teams are out of service (R478) -/
  out : Bool
  /-- violations of the last second (R484) -/
  violTimes : List Nat
  /-- quarantined until cold reset (R484) -/
  quarantined : Bool
  /-- retries of the present frame (R484) -/
  retries : Nat
  /-- command and value of the last frame sent (R484) -/
  last : Option (Nat × Nat)
deriving DecidableEq, Repr

/-- Rail at reset. -/
def Rail.reset : Rail :=
  { reg := none,
    current := 0,
    temp := 0,
    fault := none,
    out := false,
    violTimes := [],
    quarantined := false,
    retries := 0,
    last := none }

/-- The power controller. -/
structure Power where
  /-- CAP, W (R472) -/
  cap : Nat
  /-- cap recorded and not in effect: W, command, NO_EXCURSION (R472) -/
  capNext : Option (Nat × Option (BitVec 64) × Bool)
  /-- PWR_CAP_SET in effect and not complete (R475) -/
  capCmd : Option (BitVec 64)
  /-- NO_EXCURSION in force (R486) -/
  noExc : Bool
  /-- part-wide target rate, steps/s (R464, R473) -/
  target : Nat
  /-- P100 of the last period, mW (R471) -/
  p100 : Nat
  /-- P100 of the periods of the last second, newest first (R474) -/
  hist : List Nat
  /-- time base at the last period end (R473, R483) -/
  periodAt : Nat
  /-- team power samples of the period, summed, uW (R471) -/
  acc : Nat
  /-- samples in it (R471) -/
  accN : Nat
  /-- start of the excursion in progress (R474) -/
  excStart : Option Nat
  /-- start of the previous excursion (R474) -/
  excLast : Option Nat
  /-- excursion clamp in force (R474) -/
  clamp : Bool
  /-- thermal clamp in force (R479) -/
  thermClamp : Bool
  /-- time since which a sensor reads 108 degC or more (R479) -/
  hotSince : Option Nat
  /-- time since which a sensor reads 115 degC or more (R479) -/
  tripSince : Option Nat
  /-- a trip is in force until PWR_OK deasserts (R481) -/
  trip : Bool
  /-- throttle point, degC (R480) -/
  throttlePoint : Nat
  /-- per physical team (unlisted: TeamPwr.reset) (R463) -/
  teams : Tbl TeamPwr
  /-- AVSBus rails in the order of Table 14-1 (unlisted: Rail.reset) (R461) -/
  rails : Tbl Rail
  /-- Basin die sensors 0 to 15 and I/O die sensors 16 to 23, 1/16 degC (R479) -/
  dieTemps : Tbl Int
  /-- NVW stack sensors, 1/16 degC (R479) -/
  nvwTemps : Tbl Int
  /-- ENERGY, mJ (R483) -/
  energy : BitVec 64
  /-- energy below 1 mJ, in mW x 100 us (R483) -/
  energyFrac : Nat
  /-- COUNTS 0 to 7 (unlisted 0) (R483) -/
  counts : Tbl (BitVec 32)
deriving DecidableEq, Repr

/-- Power at reset. -/
def Power.reset : Power :=
  { cap := 1800,
    capNext := none,
    capCmd := none,
    noExc := false,
    target := 1600000000,
    p100 := 0,
    hist := [],
    periodAt := 0,
    acc := 0,
    accN := 0,
    excStart := none,
    excLast := none,
    clamp := false,
    thermClamp := false,
    hotSince := none,
    tripSince := none,
    trip := false,
    throttlePoint := 100,
    teams := [],
    rails := [],
    dieTemps := [],
    nvwTemps := [],
    energy := 0#64,
    energyFrac := 0,
    counts := [] }

/-- A self-test record (Table 15-2). -/
structure TestRec where
  /-- RESULT (R492) -/
  result : BitVec 8
  /-- SIGNATURE (R492) -/
  signature : BitVec 64
  /-- EXPECTED (R492) -/
  expected : BitVec 64
  /-- REPAIRS (R492) -/
  repairs : BitVec 16
  /-- CEILING (R492) -/
  ceiling : BitVec 16
  /-- DURATION (R492) -/
  duration : BitVec 32
deriving DecidableEq, Repr

/-- A Farrier run. -/
structure TestRun where
  /-- command, 0 for a field test (R489) -/
  wid : BitVec 64
  /-- domain (R488) -/
  domain : Nat
  /-- first index (R505) -/
  first : Nat
  /-- indices not tested (R505) -/
  left : List Nat
  /-- indices tested (R505) -/
  done : List Nat
  /-- REPAIR (R491) -/
  repair : Bool
  /-- SEED (R489) -/
  seed : BitVec 64
  /-- buffer (R505) -/
  buf : BitVec 64
  /-- basic form (R505) -/
  basic : Bool
  /-- channel a SELF_CHANNEL_RESTORE tests (R500) -/
  restore : Option Nat
  /-- NO_PPR: only soft repair, which nothing records (R505) -/
  soft : Bool
  /-- indices failed (R505) -/
  failed : Nat
deriving DecidableEq, Repr

/-- A margining sweep in progress. -/
structure Margin where
  /-- command (R497) -/
  wid : BitVec 64
  /-- 0 HBM4 channel, 1 lanes, 2 team (R497) -/
  kind : Nat
  /-- channel, interface and port, or team (R497) -/
  index : Nat
  /-- buffer (R505) -/
  buf : BitVec 64
  /-- lane mask, or directions (R505) -/
  lanes : BitVec 16
  /-- team voltage, 0 its own (R505) -/
  volt : Nat
deriving DecidableEq, Repr

/-- The self-test and repair engine. -/
structure Farrier where
  /-- runs in progress (R489) -/
  runs : List TestRun
  /-- last record per index, key 1,024 x domain + index (R505) -/
  records : Tbl TestRec
  /-- margining sweeps in progress (R497) -/
  margins : List Margin
  /-- lanes the host margins: port, lane (R504) -/
  hostMargin : List (Nat × Nat)
deriving DecidableEq, Repr

/-- Farrier at reset. -/
def Farrier.reset : Farrier :=
  { runs := [],
    records := [],
    margins := [],
    hostMargin := [] }

/-- The test access port. -/
structure Tap where
  /-- instruction register (IEEE 1149.1: IDCODE after reset) (R501) -/
  ir : BitVec 8
  /-- boundary register (unlisted cells 0) (R502) -/
  boundary : List Bool
  /-- pins captured (R501) -/
  sampled : List Bool
  /-- the pins are driven from the boundary register (R501) -/
  driving : Bool
  /-- outputs in high impedance (R501) -/
  hiz : Bool
  /-- a cold reset is needed before functional use (R502) -/
  needCold : Bool
  /-- IEEE 1149.6 test signal on AC-coupled lanes (R501) -/
  pulse : Bool
deriving DecidableEq, Repr

/-- Tap at reset. -/
def Tap.reset : Tap :=
  { ir := 0x01#8,
    boundary := [],
    sampled := [],
    driving := false,
    hiz := false,
    needCold := false,
    pulse := false }

/-- A posted write to host memory. -/
structure HostWrite where
  /-- function (R46) -/
  fn : Nat
  /-- address (R46) -/
  addr : BitVec 64
  /-- data (R46) -/
  bytes : List (BitVec 8)
  /-- sent as a poisoned request (R193) -/
  poisoned : Bool
deriving DecidableEq, Repr

/-- A DMA read of host memory that the part asks for in the fetch of a command. -/
structure HostRead where
  /-- function (R46) -/
  fn : Nat
  /-- address: of the slot, SQ_BASE + 128 x its index, or of an indirect payload (R46, R49) -/
  addr : BitVec 64
  /-- bytes (R46, R73) -/
  len : Nat
deriving DecidableEq, Repr

/-- A completion entry written (Table 2-5). -/
structure CqWrite where
  /-- global ring number (R50) -/
  ring : Nat
  /-- entry index (R50) -/
  index : BitVec 8
  /-- host address, CQ_BASE + 32 x the index (R46) -/
  addr : BitVec 64
  /-- WORK_ID (R50) -/
  wid : BitVec 64
  /-- SEQ (R50) -/
  seq : BitVec 32
  /-- STATUS (R50) -/
  status : BitVec 16
  /-- OPCODE (R50) -/
  opcode : BitVec 16
  /-- RESULT (R50) -/
  result : BitVec 64
  /-- DETAIL (R50) -/
  detail : BitVec 32
  /-- SQ_HEAD (R50) -/
  sqHead : BitVec 8
  /-- PHASE (R50) -/
  phase : Bool
  /-- REPLAYED (R50) -/
  replayed : Bool
  /-- HW_WRITTEN (R50) -/
  hw : Bool
deriving DecidableEq, Repr

/-- the records of control flits (R373, R374, R376, R375, R379, R381, R384). -/
inductive CtlRec where
  | credits (vc1 : Nat) (vc2 : Nat) (vc3 : Nat)
  | ack (seq : Nat)
  | retry (seq : Nat)
  | refuse (mtag : BitVec 16) (reason : Nat)
  | sync (t1 : BitVec 64)
  | delayReq (t3 : BitVec 64)
  | delayResp (t4 : BitVec 64)
  | identity (part : BitVec 16) (port : Nat)
  | retrainRequest
  | retrain (width : Nat)
  | swapRequest
  | swapGrant
deriving DecidableEq, Repr

/-- A message or control record handed to a Trace port. -/
structure TraceOut where
  /-- port (R372) -/
  port : Nat
  /-- message, none for a control flit (R372) -/
  msg : Option Msg
  /-- control record (R372) -/
  ctl : Option CtlRec
deriving DecidableEq, Repr

/-- A mooring cell that this part has sent. -/
structure MoorCell where
  /-- receiver (R430) -/
  dest : BitVec 16
  /-- mooring group (R430) -/
  moor : Nat
  /-- stripe, q x n + j (R430) -/
  stripe : Nat
  /-- data index k as k, parity i as K + i (R430) -/
  share : Nat
  /-- bytes (R430) -/
  data : List (BitVec 8)
  /-- its poisoned lines, 0 to 255 (R430) -/
  poison : List Nat
deriving DecidableEq, Repr

/-- What the part has sent out, newest last. -/
structure Out where
  /-- completion entries written; the posted write of each stands in `host` as its 32 bytes (R50) -/
  cq : List CqWrite
  /-- DMA reads asked for in the fetch of commands (R46, R49) -/
  reads : List HostRead
  /-- MSI-X interrupts raised: function, vector (R47) -/
  msix : List (Nat × BitVec 11)
  /-- posted writes to host memory (R46) -/
  host : List HostWrite
  /-- messages and records sent on the Traces (R372) -/
  trace : List TraceOut
  /-- work lists and the other loop messages sent over the Traces: part, model, message (R264, R345) -/
  lists : List (BitVec 16 × Nat × LoopNews)
  /-- mooring cells sent (R430) -/
  moorCells : List MoorCell
  /-- MCTP answers sent: endpoint, bytes (R521) -/
  mctp : List (Nat × List (BitVec 8))
  /-- bytes answered on the SMBus (R520) -/
  smbus : List (BitVec 8)
  /-- values returned to BAR0 reads (R47) -/
  mmio : List (BitVec 64)
  /-- AVSBus write frames: rail; 0 target voltage, 1 transition rate, 2 status clear; value in mV or mV/ms (R462) -/
  avs : List (Nat × Nat × Nat)
deriving DecidableEq, Repr

/-- Out at reset. -/
def Out.reset : Out :=
  { cq := [],
    reads := [],
    msix := [],
    host := [],
    trace := [],
    lists := [],
    moorCells := [],
    mctp := [],
    smbus := [],
    mmio := [],
    avs := [] }

/-- why a dispatched command has not completed, where no other state says it (R57). -/
inductive WaitKind where
  | nop (due : Nat)
  | close (fn : Nat) (session : BitVec 32)
  | shrink (paddock : Nat)
  | destroyZero (paddock : Nat)
  | unload (kernel : Nat)
  | memFree (addr : Nat)
  | streamEnd (handle : Nat)
  | modelFree (model : Nat)
  | adapterFree (handle : Nat)
  | setFree (handle : Nat)
  | microFree (handle : Nat)
  | normReset (set : Nat) (after : List (BitVec 64))
  | layoutFree (handle : Nat)
  | groupFree (group : Nat)
  | moorFree (moor : Nat)
  | ringAdv (handle : Nat) (goal : Nat)
  | resilEvent (paddock : Nat) (mask : BitVec 32) (buf : BitVec 64)
  | remountSlot (model : Nat) (version : BitVec 32) (due : Nat)
  | teamTask (phys : Nat)
  | erase (addr : Nat) (release : Bool)
  | seal (addr : Nat) (buf : BitVec 64) (expect : List (BitVec 8))
deriving DecidableEq, Repr

/-- A dispatched command that waits. -/
structure Wait where
  /-- command (R57) -/
  wid : BitVec 64
  /-- what it waits for (R57) -/
  kind : WaitKind
deriving DecidableEq, Repr

/-- The whole machine. -/
structure State where
  /-- commands waiting, first in first out (prompt) -/
  pending : List Instr
  /-- time base, ns (R30) -/
  now : BitVec 64
  /-- the model's own counter of free values drawn (log 2) -/
  free : Nat
  /-- pins (R509) -/
  pins : Pins
  /-- part control (R47) -/
  part : PartCtl
  /-- functions 0 to 8 (unlisted: Fn.reset) (R45) -/
  fns : Tbl Fn
  /-- rings 0 to 287 (unlisted: Ring.reset) (R45) -/
  rings : Tbl Ring
  /-- fetches made (R51) -/
  ser : Nat
  /-- work journal, in acceptance order (R417) -/
  journal : List JRec
  /-- commands accepted (R417) -/
  accepts : Nat
  /-- dispatched commands that wait (R57) -/
  waits : List Wait
  /-- event log (R536) -/
  log : EventLog
  /-- Kryto (R60) -/
  kryto : Kryto
  /-- paddocks that exist, 0 to 7 (R66) -/
  paddocks : Tbl Paddock
  /-- logical teams 0 to 319 (unlisted: Team.reset) (R18) -/
  teams : Tbl Team
  /-- physical teams 0 to 335 (unlisted: PhysTeam.reset) (R17) -/
  phys : Tbl PhysTeam
  /-- cores, key 16 x team + core (unlisted: Core.reset) (R16) -/
  cores : Tbl Core
  /-- contexts, key 4 x (16 x team + core) + context (unlisted: Ctx.reset) (R147) -/
  ctxs : Tbl Ctx
  /-- scratchpads, key 131,072 x (16 x physical team + core) + offset (unlisted: 0) (R16) -/
  scratch : List Host.Cell
  /-- loaded kernels by handle (R152) -/
  kernels : Tbl Kernel
  /-- task table in dispatch order (R153) -/
  tasks : List (BitVec 64 × Task)
  /-- Basin (direct address) and tier memory (tier address) bytes (unlisted: 0) (R173, R211) -/
  mem : List Host.Cell
  /-- poisoned 256 B lines, address / 256, rising (R191, R221) -/
  poison : List Nat
  /-- Basin counts, tags and engines (R198) -/
  basin : BasinCtl
  /-- streams by handle (R181) -/
  streams : Tbl Stream
  /-- barriers by handle (R194) -/
  barriers : Tbl Barrier
  /-- allocations by address (R210) -/
  allocs : Tbl Alloc
  /-- HBM4 (R216) -/
  hbm : Hbm
  /-- NVW stacks 0 to 3 (unlisted: NvwStack.reset) (R230) -/
  nvw : Tbl NvwStack
  /-- programs in progress (R232) -/
  nvwProgs : List NvwProg
  /-- parking tier (R239) -/
  cxl : Cxl
  /-- generation (R247) -/
  gen : Gen
  /-- learning (R313) -/
  learn : Learn
  /-- rein change (R336) -/
  rein : Rein
  /-- Traces (R369) -/
  trace : Trace
  /-- mooring groups by identifier (R426) -/
  moors : Tbl Moor
  /-- Frame Quay sessions by handle (R442) -/
  quays : Tbl Quay
  /-- power (R461) -/
  power : Power
  /-- self-test (R489) -/
  farrier : Farrier
  /-- test access port (R501) -/
  tap : Tap
  /-- outputs (R46) -/
  out : Out
deriving DecidableEq, Repr

/-- The machine right after a cold reset: PART_STATE reads BOOT (R47, R514), no pool holds anything. Every value
the spec does not give stands in log entries 1 to 8. -/
def State.reset : State :=
  { pending := [],
    now := 0#64,
    free := 0,
    pins := Pins.reset,
    part := PartCtl.reset,
    fns := [],
    rings := [],
    ser := 0,
    journal := [],
    accepts := 0,
    waits := [],
    log := EventLog.reset,
    kryto := Kryto.reset,
    paddocks := [],
    teams := [],
    phys := [],
    cores := [],
    ctxs := [],
    scratch := [],
    kernels := [],
    tasks := [],
    mem := [],
    poison := [],
    basin := BasinCtl.reset,
    streams := [],
    barriers := [],
    allocs := [],
    hbm := Hbm.reset,
    nvw := [],
    nvwProgs := [],
    cxl := Cxl.reset,
    gen := Gen.reset,
    learn := Learn.reset,
    rein := Rein.reset,
    trace := Trace.reset,
    moors := [],
    quays := [],
    power := Power.reset,
    farrier := Farrier.reset,
    tap := Tap.reset,
    out := Out.reset }

end Sys2Proof.Machine
end

