-- ==== Sys2Proof/Machine/Table.lean ====
section
/-! DEFINITION. The operations on sparse tables, on byte strings and on sorted lists of numbers. A table holds its
keys strictly rising; `tput` and `tdel` keep that form. -/

namespace Sys2Proof

/-- The value at a key. -/
def tget {α : Type} : Tbl α → Nat → Option α
  | [], _ => none
  | (k', v) :: t, k => if k' = k then some v else tget t k

/-- The value at a key, where an unlisted key reads as `d`. -/
def tgetD {α : Type} (d : α) (t : Tbl α) (k : Nat) : α := (tget t k).getD d

/-- Lists a value at a key, in the key's place. -/
def tput {α : Type} : Tbl α → Nat → α → Tbl α
  | [], k, v => [(k, v)]
  | (k', v') :: t, k, v =>
    if k < k' then (k, v) :: (k', v') :: t
    else if k = k' then (k, v) :: t
    else (k', v') :: tput t k v

/-- Takes a key off the table. -/
def tdel {α : Type} (t : Tbl α) (k : Nat) : Tbl α := t.filter fun e => e.1 != k

/-- Writes a value in a table whose unlisted keys read as `d`: writing `d` takes the key off. -/
def tputD {α : Type} [DecidableEq α] (d : α) (t : Tbl α) (k : Nat) (v : α) : Tbl α :=
  if v = d then tdel t k else tput t k v

/-- Whether a key is listed. -/
def thas {α : Type} (t : Tbl α) (k : Nat) : Bool := (tget t k).isSome

/-- Changes a listed value; an unlisted key stays unlisted. -/
def tmod {α : Type} (t : Tbl α) (k : Nat) (f : α → α) : Tbl α :=
  t.map fun e => if e.1 = k then (e.1, f e.2) else e

/-- Whether the keys are strictly rising. -/
def tsorted {α : Type} : Tbl α → Bool
  | [] => true
  | [_] => true
  | a :: b :: t => a.1 < b.1 && tsorted (b :: t)

/-- The least of the numbers 1, 2, ... that a predicate does not hold of, among the first `n`. -/
def leastFree (used : Nat → Bool) (lo : Nat) : Nat → Option Nat
  | 0 => none
  | n + 1 => if used lo then leastFree used (lo + 1) n else some lo

/-- A number put into a strictly rising list. -/
def insNat (x : Nat) : List Nat → List Nat
  | [] => [x]
  | y :: ys => if x < y then x :: y :: ys else if x = y then y :: ys else y :: insNat x ys

/-- Whether a list of numbers is strictly rising. -/
def rising : List Nat → Bool
  | [] => true
  | [_] => true
  | a :: b :: t => a < b && rising (b :: t)

/-- A list with later repeats dropped. -/
def dedupNat (l : List Nat) : List Nat := l.foldl (fun acc k => if acc.contains k then acc else acc ++ [k]) []

/-- A value put before the first greater one, by a key. -/
def insOn {α : Type} (f : α → Nat) (x : α) : List α → List α
  | [] => [x]
  | y :: ys => if f x < f y then x :: y :: ys else y :: insOn f x ys

/-- A list sorted by a key, equal keys in their order. -/
def sortOn {α : Type} (f : α → Nat) (l : List α) : List α := l.foldl (fun acc x => insOn f x acc) []

/-- The sum of a list of numbers. -/
def sumNat (l : List Nat) : Nat := l.foldl (· + ·) 0

/-- The number a byte string spells, least significant byte first (R9). -/
def leNat : List Byte → Nat
  | [] => 0
  | b :: bs => b.toNat + 256 * leNat bs

/-- The `k` bytes of a number, least significant first (R9). -/
def leBytes : Nat → Nat → List Byte
  | 0, _ => []
  | k + 1, n => BitVec.ofNat 8 n :: leBytes k (n / 256)

/-- The `n` bytes at an offset of a byte string, bytes beyond its end reading 0. -/
def slice (p : List Byte) (off n : Nat) : List Byte :=
  let q := (p.drop off).take n
  q ++ List.replicate (n - q.length) 0#8

/-- An unsigned field of `n` bytes at an offset (R9). -/
def fld (p : List Byte) (off n : Nat) : Nat := leNat (slice p off n)

/-- Adds without passing the greatest value of the width (a saturating counter, R11). -/
def satAdd (w : Nat) (x : BitVec w) (n : Nat) : BitVec w :=
  if x.toNat + n < 2 ^ w then x + BitVec.ofNat w n else BitVec.allOnes w

/-- The bits of a mask of byte string form, as the rising list of the numbers of its set bits. -/
def maskBits (m : List Byte) : List Nat :=
  (List.range (8 * m.length)).filter fun i => ((m[i / 8]?).getD 0#8).getLsbD (i % 8)

/-- Whether bit `i` of a number is set. -/
def bitAt (n i : Nat) : Bool := n / 2 ^ i % 2 = 1

end Sys2Proof
end

