-- ==== Sys2Proof/Machine/Float.lean ====
section
/-! DEFINITION. The number formats (R81 to R85), rounding (R101 to R105), FP32 arithmetic (R113 to R115), the exact
accumulator (R89 to R100) and the reference procedures of the transcendental functions (R117 to R122). Values are
exact: a finite value is a signed integer mantissa times a power of two. -/

namespace Sys2Proof.Machine

open Sys2Proof

/-! ### Formats -/

/-- The floating-point formats (Table 3-1). -/
inductive Fmt where
  | e2m1
  | e2m3
  | e3m2
  | e4m3
  | e5m2
  | fp16
  | bf16
  | fp32
deriving DecidableEq, Repr

/-- Mantissa bits (Table 3-2). -/
def Fmt.mb : Fmt → Nat
  | .e2m1 => 1
  | .e2m3 => 3
  | .e3m2 => 2
  | .e4m3 => 3
  | .e5m2 => 2
  | .fp16 => 10
  | .bf16 => 7
  | .fp32 => 23

/-- Exponent bits (Table 3-2). -/
def Fmt.eb : Fmt → Nat
  | .e2m1 => 2
  | .e2m3 => 2
  | .e3m2 => 3
  | .e4m3 => 4
  | .e5m2 => 5
  | .fp16 => 5
  | .bf16 => 8
  | .fp32 => 8

/-- Exponent bias (Table 3-2). -/
def Fmt.bias : Fmt → Int
  | .e2m1 => 1
  | .e2m3 => 1
  | .e3m2 => 3
  | .e4m3 => 7
  | .e5m2 => 15
  | .fp16 => 15
  | .bf16 => 127
  | .fp32 => 127

/-- Bits of a code. -/
def Fmt.width (f : Fmt) : Nat := 1 + f.eb + f.mb

/-- Whether the format has infinities (Table 3-1). -/
def Fmt.hasInf : Fmt → Bool
  | .e5m2 => true
  | .fp16 => true
  | .bf16 => true
  | .fp32 => true
  | _ => false

/-- The code of the largest finite value, sign clear (Table 3-1). -/
def Fmt.maxCode : Fmt → Nat
  | .e2m1 => 7
  | .e2m3 => 31
  | .e3m2 => 31
  | .e4m3 => 0x7E
  | .e5m2 => 0x7B
  | .fp16 => 0x7BFF
  | .bf16 => 0x7F7F
  | .fp32 => 0x7F7FFFFF

/-- The canonical NaN (R85); formats with no NaN code have none. -/
def Fmt.nanCode : Fmt → Nat
  | .e4m3 => 0x7F
  | .e5m2 => 0x7F
  | .fp16 => 0x7E00
  | .bf16 => 0x7FC0
  | .fp32 => 0x7FC00000
  | _ => 0

/-- A value: NaN, an infinity, or a signed mantissa times a power of two. -/
inductive FVal where
  | nan
  | inf (neg : Bool)
  | fin (neg : Bool) (mant : Nat) (exp : Int)
deriving DecidableEq, Repr

/-- Zero of a sign. -/
abbrev FVal.zero (neg : Bool) : FVal := .fin neg 0 0

/-- The value of a code (R82, R84). -/
def Fmt.decode (f : Fmt) (c : Nat) : FVal :=
  let m := c % 2 ^ f.mb
  let e := c / 2 ^ f.mb % 2 ^ f.eb
  let s := bitAt c (f.eb + f.mb)
  if f.hasInf && e = 2 ^ f.eb - 1 then (if m = 0 then .inf s else .nan)
  else if f = .e4m3 && e = 15 && m = 7 then .nan
  else if e = 0 then .fin s m (1 - f.bias - f.mb)
  else .fin s (m + 2 ^ f.mb) (e - f.bias - f.mb)

/-- The value of an MXINT8 or INT8 code (R82): two's complement, times 2^-6 for MXINT8. -/
def int8Val (mx : Bool) (c : Nat) : FVal :=
  let n := c % 256
  let e : Int := if mx then -6 else 0
  if n < 128 then .fin false n e else .fin true (256 - n) e

/-! ### Rounding -/

/-- The rounding modes (Table 3-7). -/
inductive RMode where
  | rne
  | rtz
  | rdn
  | rup
  | sr
deriving DecidableEq, Repr

/-- The mode of an RMODE field; 5 to 7 are reserved (R101). -/
def RMode.of : Nat → Option RMode
  | 0 => some .rne
  | 1 => some .rtz
  | 2 => some .rdn
  | 3 => some .rup
  | 4 => some .sr
  | _ => none

/-- Whether a magnitude of `k` units and `rem / 2^d` of a unit rounds away from zero; `u` is the random integer of
R103. -/
def roundAway (mode : RMode) (neg : Bool) (k rem d u : Nat) : Bool :=
  match mode with
  | .rne => 2 ^ d < 2 * rem || (2 ^ d = 2 * rem && k % 2 = 1)
  | .rtz => false
  | .rdn => neg && rem != 0
  | .rup => !neg && rem != 0
  | .sr => u < rem * 2 ^ 24 / 2 ^ d

/-- A magnitude `mant * 2^exp` in units of `2^q`: whole units, remainder and the bits it has. -/
def toUnits (mant : Nat) (exp q : Int) : Nat × Nat × Nat :=
  if q ≤ exp then (mant * 2 ^ (exp - q).toNat, 0, 0)
  else
    let d := (q - exp).toNat
    (mant / 2 ^ d, mant % 2 ^ d, d)

/-- A magnitude rounded to an integer number of units of `2^q`. -/
def roundUnits (mode : RMode) (neg : Bool) (mant : Nat) (exp q : Int) (u : Nat) : Nat :=
  let t := toUnits mant exp q
  if roundAway mode neg t.1 t.2.1 t.2.2 u then t.1 + 1 else t.1

/-- The unit in the last place that a nonzero magnitude has in a format. -/
def Fmt.quantum (f : Fmt) (mant : Nat) (exp : Int) : Int := max ((mant.log2 : Int) + exp) (1 - f.bias) - f.mb

/-- The sign bit of a format, where it is set. -/
def Fmt.signBit (f : Fmt) (neg : Bool) : Nat := if neg then 2 ^ (f.eb + f.mb) else 0

/-- An infinite result (R102): infinity where the format has it; in E4M3 NaN, or the largest finite value with SAT. -/
def Fmt.infCode (f : Fmt) (sat neg : Bool) : Nat :=
  if f.hasInf then f.signBit neg + (2 ^ f.eb - 1) * 2 ^ f.mb
  else if f = .e4m3 && !sat then f.nanCode
  else f.signBit neg + f.maxCode

/-- A finite overflow (Table 3-8). -/
def Fmt.overflow (f : Fmt) (mode : RMode) (sat neg : Bool) : Nat :=
  let big := f.signBit neg + f.maxCode
  if sat then big
  else
    match mode with
    | .rne => f.infCode false neg
    | .sr => f.infCode false neg
    | .rtz => big
    | .rdn => if neg then f.infCode false neg else big
    | .rup => if neg then big else f.infCode false neg

/-- A value rounded once to a format (R101 to R103). Zero keeps its sign. -/
def Fmt.round (f : Fmt) (mode : RMode) (sat : Bool) (u : Nat) : FVal → Nat
  | .nan => f.nanCode
  | .inf neg => f.infCode sat neg
  | .fin neg mant exp =>
    if mant = 0 then f.signBit neg
    else
      let q := f.quantum mant exp
      let k := roundUnits mode neg mant exp q u
      let code := (q - (1 - f.bias - f.mb)).toNat * 2 ^ f.mb + k
      if f.maxCode < code then f.overflow mode sat neg else f.signBit neg + code

/-- INT32 output (R105). -/
def roundInt32 (mode : RMode) (u : Nat) : FVal → BitVec 32
  | .nan => 0x80000000#32
  | .inf neg => if neg then 0x80000000#32 else 0x7FFFFFFF#32
  | .fin neg mant exp =>
    let k : Int := roundUnits mode neg mant exp 0 u
    let v := if neg then -k else k
    BitVec.ofInt 32 (max (-2147483648) (min 2147483647 v))

/-! ### Exact arithmetic on values -/

/-- The signed integer of a finite value in units of `2^q`, for `q` at most its exponent. -/
def FVal.units (neg : Bool) (mant : Nat) (exp q : Int) : Int :=
  let m : Int := mant * 2 ^ (exp - q).toNat
  if neg then -m else m

/-- The value of an integer times `2^q`; zero takes the sign given. -/
def FVal.ofUnits (zneg : Bool) (n : Int) (q : Int) : FVal :=
  if n = 0 then .zero zneg else .fin (n < 0) n.natAbs q

/-- The negated value. -/
def FVal.neg : FVal → FVal
  | .nan => .nan
  | .inf s => .inf (!s)
  | .fin s m e => .fin (!s) m e

/-- The exact sum under IEEE 754: an exact zero of unlike signs is +0, or -0 under RDN. -/
def FVal.add (mode : RMode) : FVal → FVal → FVal
  | .nan, _ => .nan
  | _, .nan => .nan
  | .inf a, .inf b => if a = b then .inf a else .nan
  | .inf a, _ => .inf a
  | _, .inf b => .inf b
  | .fin a m e, .fin b n f =>
    if m = 0 && n = 0 then .zero (if a = b then a else mode = .rdn)
    else
      let q := min e f
      .ofUnits (mode = .rdn) (FVal.units a m e q + FVal.units b n f q) q

/-- The exact product. -/
def FVal.mul : FVal → FVal → FVal
  | .nan, _ => .nan
  | _, .nan => .nan
  | .inf a, .inf b => .inf (a != b)
  | .inf a, .fin b m _ => if m = 0 then .nan else .inf (a != b)
  | .fin a m _, .inf b => if m = 0 then .nan else .inf (a != b)
  | .fin a m e, .fin b n f => .fin (a != b) (m * n) (e + f)

/-- The quotient, exact or with a sticky last bit below any format's rounding point. -/
def FVal.div : FVal → FVal → FVal
  | .nan, _ => .nan
  | _, .nan => .nan
  | .inf _, .inf _ => .nan
  | .inf a, .fin b _ _ => .inf (a != b)
  | .fin a _ _, .inf b => .zero (a != b)
  | .fin a m e, .fin b n f =>
    if n = 0 then (if m = 0 then .nan else .inf (a != b))
    else if m = 0 then .zero (a != b)
    else
      let s := n.log2 + 64
      let k := m * 2 ^ s
      .fin (a != b) (2 * (k / n) + (if k % n = 0 then 0 else 1)) (e - f - s - 1)

/-- The integer square root, from the bit `i - 1` of the root downward. -/
def isqrtGo (n : Nat) : Nat → Nat → Nat
  | 0, r => r
  | i + 1, r => if (r + 2 ^ i) * (r + 2 ^ i) ≤ n then isqrtGo n i (r + 2 ^ i) else isqrtGo n i r

/-- The integer square root. -/
def isqrt (n : Nat) : Nat := isqrtGo n (n.log2 / 2 + 1) 0

/-- The square root, exact or with a sticky last bit below any format's rounding point. -/
def FVal.sqrt : FVal → FVal
  | .nan => .nan
  | .inf s => if s then .nan else .inf false
  | .fin s m e =>
    if m = 0 then .zero s
    else if s then .nan
    else
      let e' := if e % 2 = 0 then e else e - 1
      let m' := (if e % 2 = 0 then m else 2 * m) * 2 ^ 128
      let r := isqrt m'
      .fin false (2 * r + (if r * r = m' then 0 else 1)) (e' / 2 - 65)

/-! ### FP32 (R113) -/

/-- An FP32 value as its bits. -/
abbrev F32 := BitVec 32

/-- The value of FP32 bits. -/
def fv (a : F32) : FVal := Fmt.fp32.decode a.toNat

/-- A value rounded once to FP32; `sat` is the SAT bit of R102. -/
def toF32 (mode : RMode) (v : FVal) (sat : Bool := false) : F32 := BitVec.ofNat 32 (Fmt.fp32.round mode sat 0 v)

/-- FP32 addition. -/
def fadd (mode : RMode) (a b : F32) (sat : Bool := false) : F32 :=
  toF32 mode (FVal.add mode (fv a) (fv b)) sat
/-- FP32 subtraction. -/
def fsub (mode : RMode) (a b : F32) (sat : Bool := false) : F32 :=
  toF32 mode (FVal.add mode (fv a) (fv b).neg) sat
/-- FP32 multiplication. -/
def fmul (mode : RMode) (a b : F32) (sat : Bool := false) : F32 :=
  toF32 mode ((fv a).mul (fv b)) sat
/-- FP32 fused multiply-add, one rounding. -/
def ffma (mode : RMode) (a b c : F32) (sat : Bool := false) : F32 :=
  toF32 mode (FVal.add mode ((fv a).mul (fv b)) (fv c)) sat
/-- FP32 division. -/
def fdiv (mode : RMode) (a b : F32) (sat : Bool := false) : F32 :=
  toF32 mode ((fv a).div (fv b)) sat
/-- FP32 square root. -/
def fsqrt (mode : RMode) (a : F32) (sat : Bool := false) : F32 :=
  toF32 mode (fv a).sqrt sat
/-- FP32 negation. -/
def fneg (a : F32) : F32 := a ^^^ 0x80000000#32

/-- Whether the bits are a NaN. -/
def isNan (a : F32) : Bool := fv a = .nan

/-- An order key of a value that is not NaN: its exact value in units of 2^-149, with +0 above -0 (R115). -/
def fkey (a : F32) : Int :=
  match fv a with
  | .nan => 0
  | .inf s => if s then -(2 ^ 400) else 2 ^ 400
  | .fin s m e => if m = 0 then (if s then -1 else 0) else 2 * FVal.units s m e (-149)

/-- Less than, false with a NaN; zeros compare equal. -/
def flt (a b : F32) : Bool :=
  !isNan a && !isNan b &&
  (let z := fun (x : F32) => if x &&& 0x7FFFFFFF#32 = 0#32 then 0#32 else x
   fkey (z a) < fkey (z b))

/-- Maximum (R115). -/
def fmax (a b : F32) : F32 := if isNan a || isNan b then 0x7FC00000#32 else if fkey a < fkey b then b else a
/-- Minimum (R115). -/
def fmin (a b : F32) : F32 := if isNan a || isNan b then 0x7FC00000#32 else if fkey b < fkey a then b else a

/-- A BF16 value widened exactly. -/
def wide (b : BitVec 16) : F32 := b.zeroExtend 32 <<< 16
/-- An FP32 result rounded once to BF16. -/
def toBf16 (mode : RMode) (a : F32) (sat : Bool := false) : BitVec 16 :=
  BitVec.ofNat 16 (Fmt.bf16.round mode sat 0 (fv a))

/-- An integer as FP32. -/
def fOfInt (mode : RMode) (n : Int) : F32 := toF32 mode (FVal.ofUnits false n 0)

/-! ### The reference procedures (R117 to R122) -/

/-- 1.0 -/
abbrev fOne : F32 := 0x3F800000#32
/-- L2E -/
abbrev cL2e : F32 := 0x3FB8AA3B#32
/-- LN2_HI -/
abbrev cLn2Hi : F32 := 0x3F317200#32
/-- LN2_LO -/
abbrev cLn2Lo : F32 := 0x35BFBE8E#32
/-- E2 -/
abbrev cE2 : F32 := 0x3F000000#32
/-- E3 -/
abbrev cE3 : F32 := 0x3E2AAAAB#32
/-- E4 -/
abbrev cE4 : F32 := 0x3D2AAAAB#32
/-- E5 -/
abbrev cE5 : F32 := 0x3C088889#32
/-- E6 -/
abbrev cE6 : F32 := 0x3AB60B61#32
/-- E7 -/
abbrev cE7 : F32 := 0x39500D01#32
/-- L3 -/
abbrev cL3 : F32 := 0x3EAAAAAB#32
/-- L5 -/
abbrev cL5 : F32 := 0x3E4CCCCD#32
/-- L7 -/
abbrev cL7 : F32 := 0x3E124925#32
/-- L9 -/
abbrev cL9 : F32 := 0x3DE38E39#32
/-- The bits of SQRT_HALF as a mantissa of 24 bits: 0xB504F3 times 2^-24. -/
abbrev sqrtHalfMant : Nat := 0xB504F3

/-- fma under RNE. -/
def fma (a b c : F32) : F32 := ffma .rne a b c

/-- A finite value rounded to an integer, ties to even (R117). -/
def roundEven (a : F32) : Int :=
  match fv a with
  | .fin s m e =>
    let k : Int := roundUnits .rne s m e 0 0
    if s then -k else k
  | _ => 0

/-- The exact value p times 2^n rounded once (R117). -/
def fscale (p : F32) (n : Int) : F32 :=
  match fv p with
  | .fin s m e => toF32 .rne (.fin s m (e + n))
  | v => toF32 .rne v

/-- reduce_exp (R118). -/
def reduceExp (x0 : F32) : Int × F32 × F32 :=
  let x := fmin (fmax x0 0xC2D00000#32) 0x42B20000#32
  let n := roundEven (fmul .rne x cL2e)
  let nf := fOfInt .rne (-n)
  let r := fma nf cLn2Lo (fma nf cLn2Hi x)
  let p := fma (fma (fma (fma (fma cE7 r cE6) r cE5) r cE4) r cE3) r cE2
  (n, r, p)

/-- exp (R118). -/
def fexp (x : F32) : F32 :=
  if isNan x then 0x7FC00000#32
  else
    let (n, r, p) := reduceExp x
    fscale (fma (fma p r fOne) r fOne) n

/-- expm1 (R118). -/
def fexpm1 (x : F32) : F32 :=
  if isNan x then 0x7FC00000#32
  else if x &&& 0x7FFFFFFF#32 = 0#32 then x
  else
    let (n, r, p) := reduceExp x
    let q := fma (fmul .rne p r) r r
    if n = 0 then q
    else
      let one : FVal := .fin false 1 0
      let v := FVal.add .rne one (fv q)
      let w := match v with
        | .fin s m e => FVal.fin s m (e + n)
        | u => u
      toF32 .rne (FVal.add .rne w one.neg)

/-- log (R119). -/
def flog (x : F32) : F32 :=
  match fv x with
  | .nan => 0x7FC00000#32
  | .inf s => if s then 0x7FC00000#32 else 0x7F800000#32
  | .fin s m e =>
    if m = 0 then 0xFF800000#32
    else if s then 0x7FC00000#32
    else
      -- m normalised to 24 bits has value in [1/2, 1); split keeps it at or above SQRT_HALF
      let l := m.log2
      let m24 := m * 2 ^ (23 - l)
      let e24 : Int := e + l + 1
      let below : Bool := m24 < sqrtHalfMant
      let ex : Int := if below then e24 - 1 else e24
      let mv := toF32 .rne (.fin false m24 (if below then -23 else -24))
      let f := fsub .rne mv fOne
      let sq := fdiv .rne f (fadd .rne f 0x40000000#32)
      let z := fmul .rne sq sq
      let q := fma (fma (fma z cL9 cL7) z cL5) z cL3
      let u := fadd .rne sq sq
      let w := fma u (fmul .rne z q) u
      let ef := fOfInt .rne ex
      fma ef cLn2Hi (fma ef cLn2Lo w)

/-- tanh (R120). -/
def ftanh (x : F32) : F32 :=
  if isNan x then 0x7FC00000#32
  else
    let a := x &&& 0x7FFFFFFF#32
    let t := if !flt a 0x41100000#32 then fOne
      else
        let g := fexpm1 (fadd .rne a a)
        fdiv .rne g (fadd .rne g 0x40000000#32)
    (t &&& 0x7FFFFFFF#32) ||| (x &&& 0x80000000#32)

/-- sigmoid (R120). -/
def fsigmoid (x : F32) : F32 :=
  if isNan x then 0x7FC00000#32 else fdiv .rne fOne (fadd .rne fOne (fexp (fneg x)))

/-- silu (R120). -/
def fsilu (x : F32) : F32 := fmul .rne x (fsigmoid x)

/-! ### The exact accumulator (R89 to R95) -/

/-- Adds one exact term (R90 to R93): dropped or truncated below the window and counted, infinite at 2^129. -/
def Acc.addTerm (a : Acc) : FVal → Acc
  | .nan => { a with nan := true }
  | .inf s => if s then { a with negInf := true } else { a with posInf := true }
  | .fin s m e =>
    if m = 0 then a
    else if 129 ≤ (m.log2 : Int) + e then (if s then { a with negInf := true } else { a with posInf := true })
    else
      let t := toUnits m e (-190)
      let v : Int := if s then -(t.1 : Int) else t.1
      { a with reg := a.reg + BitVec.ofInt 384 v
               drops := if t.2.1 = 0 then a.drops else satAdd 32 a.drops 1 }

/-- The exact value in the register. -/
def Acc.value (a : Acc) : FVal := FVal.ofUnits false a.reg.toInt (-190)

/-- The merge of exact partials (R99). -/
def Acc.merge (a b : Acc) : Acc :=
  { reg := a.reg + b.reg, posInf := a.posInf || b.posInf, negInf := a.negInf || b.negInf, nan := a.nan || b.nan,
    drops := satAdd 32 a.drops b.drops.toNat }

/-- Which row of Table 3-4 a result came from, for the counters of R112: 0 finite, 1 infinite, 2 NaN. -/
def FVal.kind : FVal → Nat
  | .nan => 2
  | .inf _ => 1
  | _ => 0

/-- The final resolution before conversion (R94, R95): scale exponent, bias, and the sign of a zero. DESIGN CHOICE (log
entry 152): Table 3-4 has no row for a bias that is a NaN or an infinity; here S is then that NaN or infinity, and R112
counts it as such. -/
def Acc.resolve (a : Acc) (mode : RMode) (x : Int) (bias : FVal) : FVal :=
  if a.nan || (a.posInf && a.negInf) then .nan
  else if a.posInf then .inf false
  else if a.negInf then .inf true
  else
    let p := match a.value with
      | .fin s m e => FVal.fin s m (e + x)
      | v => v
    match FVal.add .rne p bias with
    | .fin s m e =>
      if m = 0 then .zero (mode = .rdn)
      else if 129 ≤ (m.log2 : Int) + e then .inf s
      else .fin s m e
    | v => v

/-- The 64 bytes of an EP64 record (Table 3-6). -/
def Acc.ep64 (a : Acc) : List Byte :=
  leBytes 64 (a.reg.toNat + (if a.posInf then 2 ^ 384 else 0) + (if a.negInf then 2 ^ 385 else 0) +
    (if a.nan then 2 ^ 386 else 0) + a.drops.toNat * 2 ^ 416)

/-- The accumulator that an EP64 record holds; reserved bits are ignored (R98). -/
def Acc.ofEp64 (bs : List Byte) : Acc :=
  let n := leNat (slice bs 0 64)
  { reg := BitVec.ofNat 384 n, posInf := bitAt n 384, negInf := bitAt n 385, nan := bitAt n 386,
    drops := BitVec.ofNat 32 (n / 2 ^ 416) }

/-- The number of low zero bits of a nonzero number, at most `fuel`. -/
def ctzGo : Nat → Nat → Nat
  | 0, _ => 0
  | k + 1, n => if n % 2 = 1 then 0 else 1 + ctzGo k (n / 2)

/-- The window position of the least significant nonzero bit of a register. -/
def Acc.lsb (a : Acc) : Nat := ctzGo 384 a.reg.toNat

/-- The significand of the EP16 encoding: the register without its low zeros (R97). -/
def Acc.sig (a : Acc) : Int := if a.reg = 0#384 then 0 else a.reg.toInt / 2 ^ a.lsb

/-- Whether an accumulator is written WIDE (R97). -/
def Acc.isWide (a : Acc) : Bool :=
  let flagged := a.posInf || a.negInf || a.nan
  524287 < a.drops.toNat || (!flagged && !(-(2 ^ 95) ≤ a.sig && a.sig < 2 ^ 95))

/-- The 16 bytes of an EP16 entry (Table 3-5, R97). -/
def Acc.ep16 (a : Acc) : List Byte :=
  if a.isWide then leBytes 16 (2 ^ 108)
  else
    let flagged := a.posInf || a.negInf || a.nan
    let zero := flagged || a.reg = 0#384
    leBytes 16 ((if zero then 0 else (BitVec.ofInt 96 a.sig).toNat + a.lsb * 2 ^ 96) +
      (if a.posInf then 2 ^ 105 else 0) + (if a.negInf then 2 ^ 106 else 0) + (if a.nan then 2 ^ 107 else 0) +
      a.drops.toNat * 2 ^ 109)

/-- Whether an EP16 entry has WIDE set. -/
def ep16Wide (bs : List Byte) : Bool := bitAt (leNat (slice bs 0 16)) 108

/-- The accumulator of an EP16 entry that is not WIDE (Table 3-5). -/
def Acc.ofEp16 (bs : List Byte) : Acc :=
  let n := leNat (slice bs 0 16)
  let sig := (BitVec.ofNat 96 n).toInt
  let pos := n / 2 ^ 96 % 512
  { reg := BitVec.ofInt 384 (sig * 2 ^ pos), posInf := bitAt n 105, negInf := bitAt n 106, nan := bitAt n 107,
    drops := BitVec.ofNat 32 (n / 2 ^ 109) }

/-! ### MX blocks (R106) -/

/-- The element formats that QMX writes. -/
inductive MxFmt where
  | fp (f : Fmt)
  | int8
deriving DecidableEq, Repr

/-- emax of R106. -/
def MxFmt.emax : MxFmt → Int
  | .fp .e2m1 => 2
  | .fp .e2m3 => 2
  | .fp .e3m2 => 4
  | .fp .e4m3 => 8
  | .fp .e5m2 => 15
  | .fp _ => 0
  | .int8 => 0

/-- The weight of the most significant bit of a finite nonzero value. -/
def FVal.topBit : FVal → Option Int
  | .fin _ m e => if m = 0 then none else some ((m.log2 : Int) + e)
  | _ => none

/-- The scale code of a block (R106 steps 1 and 2): none for a block with a NaN. -/
def mxScale (f : MxFmt) (vs : List FVal) : Option Nat :=
  if vs.contains .nan then none
  else
    let top := vs.foldl (fun (acc : Option Int) v =>
      match v.topBit, acc with
      | some t, some b => some (max t b)
      | some t, none => some t
      | none, b => b) none
    some (match top with
      | none => 0
      | some t => (max 0 (min 254 (t - f.emax + 127))).toNat)

/-- One element of a block under a scale code (R106 steps 3 and 4). -/
def mxElem (f : MxFmt) (mode : RMode) (x u : Nat) (v : FVal) : Nat :=
  let d := match v with
    | .fin s m e => FVal.fin s m (e - ((x : Int) - 127))
    | w => w
  match f with
  | .fp g =>
    match d with
    | .inf s => g.signBit s + g.maxCode
    | .fin s m e => g.round mode true u (.fin s m e)
    | .nan => 0
  | .int8 =>
    match d with
    | .inf s => if s then 0x81 else 0x7F
    | .nan => 0
    | .fin s m e =>
      let k := min 127 (roundUnits mode s m e (-6) u)
      if s then (256 - k) % 256 else k

/-- QMX over a block (R106): the scale code and the element codes; `us` are the random integers of R104. -/
def qmx (f : MxFmt) (mode : RMode) (us : List Nat) (vs : List FVal) : Nat × List Nat :=
  match mxScale f vs with
  | none => (0xFF, vs.map fun _ => 0)
  | some x => (x, (vs.zip us).map fun e => mxElem f mode x e.2 e.1)

/-! ### Reductions (R114) -/

/-- One level of the pairwise tree. -/
def pairLevel (op : F32 → F32 → F32) : List F32 → List F32
  | a :: b :: t => op a b :: pairLevel op t
  | l => l

/-- The tree, at most `fuel` levels. -/
def reduceGo (op : F32 → F32 → F32) : Nat → List F32 → List F32
  | 0, l => l
  | n + 1, l => if l.length ≤ 1 then l else reduceGo op n (pairLevel op l)

/-- The reduction of R114 with its identity for no elements. -/
def reduceTree (op : F32 → F32 → F32) (identity : F32) (l : List F32) : F32 :=
  match reduceGo op l.length l with
  | [] => identity
  | x :: _ => x

end Sys2Proof.Machine
end

