-- ==== Sys2Proof/Config.lean ====
section
/-! DEFINITION. What the spec leaves open, as constants with no body: nothing can be proved of a value of them.
Log entry 2. -/

namespace Sys2Proof

/-- The n-th value that the spec leaves to the part: an entropy draw, an undefined field, an estimate, a choice
among free handles or places. Free value, log entry 2. -/
opaque Config.freeWord : Nat → BitVec 64

/-- Present ceiling (steps at the reference point, in M steps/s) that the test floor recorded for a physical team
at one of the voltages of Table 14-2: the arguments are the team, 70 or 100 for the temperature, and the place in
the table (R466). Free value, log entry 2. -/
opaque Config.ceiling : Nat → Nat → Nat → BitVec 16

/-- The ceiling, in M steps/s, of a team above 100 degC, which Table 14-2's interpolation does not reach: the arguments
are the 70 and 100 degC columns, the voltage in mV and the temperature in 1/16 degC (R466). Free value, log entry 2. -/
opaque Config.hotCeiling : List (BitVec 16) → List (BitVec 16) → Nat → Int → BitVec 16

/-- The fraction of an NVW stack's retention life that an accumulated temperature-time, in 1/16 degC x us, makes (R238,
NVW_QUERY); the spec gives no scale. Free value, log entry 2. -/
opaque Config.retention : Nat → BitVec 64

/-- The event type under which a REFUSED answer of a stream or barrier instruction is logged: Table 6-5 logs it, and the
event table has no row for it. Free value, log entry 27. -/
opaque Config.refusedEvent : BitVec 16

/-- What an HBM4 sector's check data make of an error over more than two of its symbols, by the number of symbols: the code
corrects one and detects two (R219). Free value, log entry 157. -/
opaque Config.beyondCode : Nat → Nat

/-- One 4 x 4 block of the reference that the coarse motion search looks at: the spec downscales by 4 and names no filter
(R450). Free value, log entry 166. -/
opaque Config.downscale : List Nat → Nat

/-- The fixed integer table of lambda over QP (R450). Free value, log entry 166. -/
opaque Config.lambda : Nat → Nat

/-- The bits that a vector difference is estimated at, by its horizontal and vertical component (R450). Free value, log
entry 166. -/
opaque Config.mvdBits : Int → Int → Nat

/-- A partition that the encode pipe evaluates against a reference picture (R450); positions are in luma samples, vectors
in quarter samples. -/
structure Partition where
  /-- left -/
  x : Nat
  /-- top -/
  y : Nat
  /-- width -/
  w : Nat
  /-- height -/
  h : Nat
  /-- reference picture, 0 the latest -/
  ref : Nat
  /-- predictor that the vector difference is taken from -/
  pred : Int × Int
  /-- the position that a half, a merge candidate or a predictor names; none: a 2Nx2N partition, searched from the zero
  vector -/
  named : Option (Int × Int)
  /-- QP that its cost is taken at -/
  qp : Nat
deriving DecidableEq, Repr

/-- The QP that rate control decides for a picture, from all it may use: the session descriptor, the frame descriptors,
the picture's samples and the bit counts of the pictures already coded (R452). Free value, log entry 167. -/
opaque Config.pictureQp : List (List Nat) → Int

/-- The change of a quantisation group within its picture, from the same and the bit counts of the picture's coding tree
units already coded (R452). Free value, log entry 167. -/
opaque Config.groupChange : List (List Nat) → List Nat → Nat → Int

/-- Whether a picture that is no IDR picture is coded as an I picture, from the same (R449). Free value, log entry 167. -/
opaque Config.codedIntra : List (List Nat) → Bool

/-- Side of a quantisation group where no region is present, by the same (R451). Free value, log entry 167. -/
opaque Config.groupSide : List (List Nat) → Nat

/-- The NAL units and fields that firmware writes before a picture's slice data: Table 13-3's parameter sets, SEI and
slice segment header (R449). Free value, log entry 167. -/
opaque Config.unitHeader : List (List Nat) → List Byte

/-- What firmware writes after a picture's slice data: the decoded picture hash's SEI, from the picture's slice data
(R449). Free value, log entry 167. -/
opaque Config.unitTrailer : List (List Nat) → List Byte → List Byte

/-- The bits of one coding tree unit: from what rate control sees, the unit's index, the QPs of its quantisation groups,
the bits of the units before it, and what the motion search answers for each partition that the pipe evaluates (R449,
R450). Free value, log entry 167. -/
opaque Config.unitBits : List (List Nat) → Nat → List Nat → List Bool → (Partition → Int × Int) → List Bool

/-- The bits of one coding tree unit in emergency form (R453). Free value, log entry 167. -/
opaque Config.emergencyBits : List (List Nat) → Nat → Bool → List Bool → List Bool

/-- The luma samples that a coded picture reconstructs to, from its references' samples and its bytes: the H.265 decoding
process (R444, R450). Free value, log entry 122. -/
opaque Config.reconstruct : List (List Nat) → List Byte → List Nat

/-- The signature that Kryto holds for a Farrier domain at SEED 0 (R489). Free value, log entry 2. -/
opaque Config.signature : Nat → BitVec 64

/-- Freold's JEP106 identity in the identification register, which the spec does not give (R501, log entry 173). -/
opaque Config.jep106 : BitVec 11

end Sys2Proof
end

