-- ==== Sys2Proof/Machine/Status.lean ====
section
/-! DEFINITION. The status codes of Table 17-1 (R532) and the event types of Table 17-6 (R539). -/

namespace Sys2Proof.Machine

/-- ST_OK (R532). -/
abbrev stOk : BitVec 16 := 0x0000#16
/-- ST_NOT_READY (R532). -/
abbrev stNotReady : BitVec 16 := 0x0101#16
/-- ST_REMOUNT_BUSY (R532). -/
abbrev stRemountBusy : BitVec 16 := 0x0102#16
/-- ST_PEER_UNREACHABLE (R532). -/
abbrev stPeerUnreachable : BitVec 16 := 0x0103#16
/-- ST_ROLE_CONFLICT (R532). -/
abbrev stRoleConflict : BitVec 16 := 0x0104#16
/-- ST_RECOVERING (R532). -/
abbrev stRecovering : BitVec 16 := 0x0105#16
/-- ST_DESC_REPLACED (R532). -/
abbrev stDescReplaced : BitVec 16 := 0x0106#16
/-- ST_SUPERSEDED (R532). -/
abbrev stSuperseded : BitVec 16 := 0x0107#16
/-- ST_BAD_OPCODE (R532). -/
abbrev stBadOpcode : BitVec 16 := 0x0201#16
/-- ST_BAD_PARAM (R532). -/
abbrev stBadParam : BitVec 16 := 0x0202#16
/-- ST_BAD_RESERVED (R532). -/
abbrev stBadReserved : BitVec 16 := 0x0203#16
/-- ST_SEQ_GAP (R532). -/
abbrev stSeqGap : BitVec 16 := 0x0204#16
/-- ST_SEQ_DUPLICATE (R532). -/
abbrev stSeqDuplicate : BitVec 16 := 0x0205#16
/-- ST_BAD_WORK_ID (R532). -/
abbrev stBadWorkId : BitVec 16 := 0x0206#16
/-- ST_BAD_LEVEL (R532). -/
abbrev stBadLevel : BitVec 16 := 0x0207#16
/-- ST_BAD_LENGTH (R532). -/
abbrev stBadLength : BitVec 16 := 0x0208#16
/-- ST_BAD_SESSION (R532). -/
abbrev stBadSession : BitVec 16 := 0x0209#16
/-- ST_UNKNOWN_WORK (R532). -/
abbrev stUnknownWork : BitVec 16 := 0x020A#16
/-- ST_BAD_TARGET (R532). -/
abbrev stBadTarget : BitVec 16 := 0x020B#16
/-- ST_CANCEL_LATE (R532). -/
abbrev stCancelLate : BitVec 16 := 0x020C#16
/-- ST_SESSION_EXISTS (R532). -/
abbrev stSessionExists : BitVec 16 := 0x020D#16
/-- ST_PADDOCK_EXISTS (R532). -/
abbrev stPaddockExists : BitVec 16 := 0x020E#16
/-- ST_CONTEXT_RUNNING (R532). -/
abbrev stContextRunning : BitVec 16 := 0x020F#16
/-- ST_BAD_IMAGE (R532). -/
abbrev stBadImage : BitVec 16 := 0x0210#16
/-- ST_BAD_HANDLE (R532). -/
abbrev stBadHandle : BitVec 16 := 0x0211#16
/-- ST_KERNEL_IN_USE (R532). -/
abbrev stKernelInUse : BitVec 16 := 0x0212#16
/-- ST_TEAMS_EXCEED (R532). -/
abbrev stTeamsExceed : BitVec 16 := 0x0213#16
/-- ST_TASK_STATE (R532). -/
abbrev stTaskState : BitVec 16 := 0x0214#16
/-- ST_BAD_STREAM (R532). -/
abbrev stBadStream : BitVec 16 := 0x0215#16
/-- ST_STREAM_STATE (R532). -/
abbrev stStreamState : BitVec 16 := 0x0216#16
/-- ST_BARRIER_STATE (R532). -/
abbrev stBarrierState : BitVec 16 := 0x0217#16
/-- ST_BAD_BARRIER (R532). -/
abbrev stBadBarrier : BitVec 16 := 0x0218#16
/-- ST_BAD_ALLOC (R532). -/
abbrev stBadAlloc : BitVec 16 := 0x0219#16
/-- ST_NVW_STATE (R532). -/
abbrev stNvwState : BitVec 16 := 0x021A#16
/-- ST_ALLOC_IN_USE (R532). -/
abbrev stAllocInUse : BitVec 16 := 0x021B#16
/-- ST_SEQ_EXISTS (R532). -/
abbrev stSeqExists : BitVec 16 := 0x021C#16
/-- ST_SEQ_UNKNOWN (R532). -/
abbrev stSeqUnknown : BitVec 16 := 0x021D#16
/-- ST_SEQ_STATE (R532). -/
abbrev stSeqState : BitVec 16 := 0x021E#16
/-- ST_BAD_MODEL (R532). -/
abbrev stBadModel : BitVec 16 := 0x021F#16
/-- ST_MODEL_IN_USE (R532). -/
abbrev stModelInUse : BitVec 16 := 0x0220#16
/-- ST_ADAPTER_IN_USE (R532). -/
abbrev stAdapterInUse : BitVec 16 := 0x0221#16
/-- ST_BAD_PARAMSET (R532). -/
abbrev stBadParamset : BitVec 16 := 0x0222#16
/-- ST_BAD_MICRO (R532). -/
abbrev stBadMicro : BitVec 16 := 0x0223#16
/-- ST_SWEEP_STATE (R532). -/
abbrev stSweepState : BitVec 16 := 0x0224#16
/-- ST_SET_IN_USE (R532). -/
abbrev stSetInUse : BitVec 16 := 0x0225#16
/-- ST_BAD_LAYOUT (R532). -/
abbrev stBadLayout : BitVec 16 := 0x0226#16
/-- ST_REIN_STATE (R532). -/
abbrev stReinState : BitVec 16 := 0x0227#16
/-- ST_BAD_VERSION (R532). -/
abbrev stBadVersion : BitVec 16 := 0x0228#16
/-- ST_BAD_GROUP (R532). -/
abbrev stBadGroup : BitVec 16 := 0x0229#16
/-- ST_PORT_STATE (R532). -/
abbrev stPortState : BitVec 16 := 0x022A#16
/-- ST_BAD_WINDOW (R532). -/
abbrev stBadWindow : BitVec 16 := 0x022B#16
/-- ST_MOOR_STATE (R532). -/
abbrev stMoorState : BitVec 16 := 0x022C#16
/-- ST_BAD_MOOR (R532). -/
abbrev stBadMoor : BitVec 16 := 0x022D#16
/-- ST_QUAY_STATE (R532). -/
abbrev stQuayState : BitVec 16 := 0x022E#16
/-- ST_IN_SERVICE (R532). -/
abbrev stInService : BitVec 16 := 0x022F#16
/-- ST_QUOTA (R532). -/
abbrev stQuota : BitVec 16 := 0x0301#16
/-- ST_KERNEL_LIMIT (R532). -/
abbrev stKernelLimit : BitVec 16 := 0x0302#16
/-- ST_STREAM_LIMIT (R532). -/
abbrev stStreamLimit : BitVec 16 := 0x0303#16
/-- ST_BARRIER_LIMIT (R532). -/
abbrev stBarrierLimit : BitVec 16 := 0x0304#16
/-- ST_TIER_FULL (R532). -/
abbrev stTierFull : BitVec 16 := 0x0305#16
/-- ST_PARK_UNAVAILABLE (R532). -/
abbrev stParkUnavailable : BitVec 16 := 0x0306#16
/-- ST_MANIFEST_FULL (R532). -/
abbrev stManifestFull : BitVec 16 := 0x0307#16
/-- ST_MODEL_LIMIT (R532). -/
abbrev stModelLimit : BitVec 16 := 0x0308#16
/-- ST_ADAPTER_LIMIT (R532). -/
abbrev stAdapterLimit : BitVec 16 := 0x0309#16
/-- ST_SET_LIMIT (R532). -/
abbrev stSetLimit : BitVec 16 := 0x030A#16
/-- ST_LAYOUT_LIMIT (R532). -/
abbrev stLayoutLimit : BitVec 16 := 0x030B#16
/-- ST_GROUP_LIMIT (R532). -/
abbrev stGroupLimit : BitVec 16 := 0x030C#16
/-- ST_NO_SPARE (R532). -/
abbrev stNoSpare : BitVec 16 := 0x030D#16
/-- ST_QUAY_LIMIT (R532). -/
abbrev stQuayLimit : BitVec 16 := 0x030E#16
/-- ST_CANCELLED (R532). -/
abbrev stCancelled : BitVec 16 := 0x0401#16
/-- ST_FUNCTION_RESET (R532). -/
abbrev stFunctionReset : BitVec 16 := 0x0402#16
/-- ST_SESSION_CLOSED (R532). -/
abbrev stSessionClosed : BitVec 16 := 0x0403#16
/-- ST_RNG_FAULT (R532). -/
abbrev stRngFault : BitVec 16 := 0x0404#16
/-- ST_TEAM_EXCEPTION (R532). -/
abbrev stTeamException : BitVec 16 := 0x0405#16
/-- ST_TASK_ABORTED (R532). -/
abbrev stTaskAborted : BitVec 16 := 0x0406#16
/-- ST_TIME_LIMIT (R532). -/
abbrev stTimeLimit : BitVec 16 := 0x0407#16
/-- ST_TEAM_HW_FAULT (R532). -/
abbrev stTeamHwFault : BitVec 16 := 0x0408#16
/-- ST_DATA_POISONED (R532). -/
abbrev stDataPoisoned : BitVec 16 := 0x0409#16
/-- ST_STREAM_ABORTED (R532). -/
abbrev stStreamAborted : BitVec 16 := 0x040A#16
/-- ST_MASTER_RESET (R532). -/
abbrev stMasterReset : BitVec 16 := 0x040B#16
/-- ST_NVW_POISON_REFUSED (R532). -/
abbrev stNvwPoisonRefused : BitVec 16 := 0x040C#16
/-- ST_MEM_WRITE_FAULT (R532). -/
abbrev stMemWriteFault : BitVec 16 := 0x040D#16
/-- ST_PARK_LOST (R532). -/
abbrev stParkLost : BitVec 16 := 0x040E#16
/-- ST_SEQ_EXPIRED (R532). -/
abbrev stSeqExpired : BitVec 16 := 0x040F#16
/-- ST_BAD_LOGITS (R532). -/
abbrev stBadLogits : BitVec 16 := 0x0410#16
/-- ST_NONFINITE_GRAD (R532). -/
abbrev stNonfiniteGrad : BitVec 16 := 0x0411#16
/-- ST_ROUTE_DIGEST (R532). -/
abbrev stRouteDigest : BitVec 16 := 0x0412#16
/-- ST_SWEEP_INTERRUPTED (R532). -/
abbrev stSweepInterrupted : BitVec 16 := 0x0413#16
/-- ST_PERMUTE_FAILED (R532). -/
abbrev stPermuteFailed : BitVec 16 := 0x0414#16
/-- ST_COLLECTIVE_TIMEOUT (R532). -/
abbrev stCollectiveTimeout : BitVec 16 := 0x0415#16
/-- ST_MEMBER_LOST (R532). -/
abbrev stMemberLost : BitVec 16 := 0x0416#16
/-- ST_WARM_RESET (R532). -/
abbrev stWarmReset : BitVec 16 := 0x0417#16
/-- ST_MOORING_LOST (R532). -/
abbrev stMooringLost : BitVec 16 := 0x0418#16
/-- ST_REBUILD_FAILED (R532). -/
abbrev stRebuildFailed : BitVec 16 := 0x0419#16
/-- ST_QUAY_STREAM (R532). -/
abbrev stQuayStream : BitVec 16 := 0x041A#16
/-- ST_RAIL_FAULT (R532). -/
abbrev stRailFault : BitVec 16 := 0x041B#16
/-- ST_SELFTEST_FAIL (R532). -/
abbrev stSelftestFail : BitVec 16 := 0x041C#16
/-- ST_AUTH_FAILED (R532). -/
abbrev stAuthFailed : BitVec 16 := 0x0501#16
/-- ST_AUTH_LOCKED (R532). -/
abbrev stAuthLocked : BitVec 16 := 0x0502#16
/-- ST_NOT_PERMITTED (R532). -/
abbrev stNotPermitted : BitVec 16 := 0x0503#16
/-- ST_NONCE_EXPIRED (R532). -/
abbrev stNonceExpired : BitVec 16 := 0x0504#16
/-- ST_IMAGE_DIGEST (R532). -/
abbrev stImageDigest : BitVec 16 := 0x0505#16
/-- ST_HOST_PROTOCOL (R532). -/
abbrev stHostProtocol : BitVec 16 := 0x0601#16
/-- ST_CXL_PROTOCOL (R532). -/
abbrev stCxlProtocol : BitVec 16 := 0x0602#16
/-- ST_TRACE_PROTOCOL (R532). -/
abbrev stTraceProtocol : BitVec 16 := 0x0603#16
/-- ST_AVS_PROTOCOL (R532). -/
abbrev stAvsProtocol : BitVec 16 := 0x0604#16
/-- ST_MCTP_PROTOCOL (R532). -/
abbrev stMctpProtocol : BitVec 16 := 0x0605#16

/-- Event type AUTH_FAILURE (R539); alerting: No. -/
abbrev evAuthFailure : BitVec 16 := 0x0001#16
/-- Event type AUTH_LOCKOUT (R539); alerting: Yes. -/
abbrev evAuthLockout : BitVec 16 := 0x0002#16
/-- Event type HOST_VIOLATION (R539); alerting: No. -/
abbrev evHostViolation : BitVec 16 := 0x0003#16
/-- Event type RING_QUARANTINED (R539); alerting: Yes. -/
abbrev evRingQuarantined : BitVec 16 := 0x0004#16
/-- Event type FUNCTION_RESET (R539); alerting: No. -/
abbrev evFunctionReset : BitVec 16 := 0x0005#16
/-- Event type RESET_IGNORED (R539); alerting: No. -/
abbrev evResetIgnored : BitVec 16 := 0x0006#16
/-- Event type COMMAND_REASON (R539); alerting: No. -/
abbrev evCommandReason : BitVec 16 := 0x0007#16
/-- Event type MCTP_VIOLATION (R539); alerting: No. -/
abbrev evMctpViolation : BitVec 16 := 0x0008#16
/-- Event type MCTP_QUARANTINE (R539); alerting: Yes. -/
abbrev evMctpQuarantine : BitVec 16 := 0x0009#16
/-- Event type PART_STATE (R539); alerting: For DEGRADED and FAILED. -/
abbrev evPartState : BitVec 16 := 0x000A#16
/-- Event type MEM_UNCORRECTABLE (R539); alerting: No. -/
abbrev evMemUncorrectable : BitVec 16 := 0x0101#16
/-- Event type CHANNEL_DEGRADED (R539); alerting: Yes. -/
abbrev evChannelDegraded : BitVec 16 := 0x0102#16
/-- Event type CHANNEL_MAPPED_OUT (R539); alerting: Yes. -/
abbrev evChannelMappedOut : BitVec 16 := 0x0103#16
/-- Event type SCRUB_AGE (R539); alerting: No. -/
abbrev evScrubAge : BitVec 16 := 0x0104#16
/-- Event type NVW_CODEWORD_FAIL (R539); alerting: No. -/
abbrev evNvwCodewordFail : BitVec 16 := 0x0105#16
/-- Event type NVW_BLOCK_RETIRED (R539); alerting: When spares are exhausted. -/
abbrev evNvwBlockRetired : BitVec 16 := 0x0106#16
/-- Event type CXL_OFFLINE (R539); alerting: Yes. -/
abbrev evCxlOffline : BitVec 16 := 0x0107#16
/-- Event type CXL_VIOLATION (R539); alerting: No. -/
abbrev evCxlViolation : BitVec 16 := 0x0108#16
/-- Event type TEAM_EXCEPTION (R539); alerting: For hardware-class causes. -/
abbrev evTeamException : BitVec 16 := 0x0201#16
/-- Event type SECURITY_BOUNDS (R539); alerting: Yes. -/
abbrev evSecurityBounds : BitVec 16 := 0x0202#16
/-- Event type RING_LOW_WATER (R539); alerting: No. -/
abbrev evRingLowWater : BitVec 16 := 0x0301#16
/-- Event type LP_MISMATCH (R539); alerting: No. -/
abbrev evLpMismatch : BitVec 16 := 0x0401#16
/-- Event type UNIT_FAULT (R539); alerting: Yes. -/
abbrev evUnitFault : BitVec 16 := 0x0402#16
/-- Event type PORT_CHANGE (R539); alerting: No. -/
abbrev evPortChange : BitVec 16 := 0x0601#16
/-- Event type PORT_NOT_ADMITTED (R539); alerting: No. -/
abbrev evPortNotAdmitted : BitVec 16 := 0x0602#16
/-- Event type PORT_QUARANTINED (R539); alerting: Yes. -/
abbrev evPortQuarantined : BitVec 16 := 0x0603#16
/-- Event type TRACE_VIOLATION (R539); alerting: No. -/
abbrev evTraceViolation : BitVec 16 := 0x0604#16
/-- Event type TIME_PARENT (R539); alerting: No. -/
abbrev evTimeParent : BitVec 16 := 0x0605#16
/-- Event type MEMBER_LOST (R539); alerting: Yes. -/
abbrev evMemberLost : BitVec 16 := 0x0606#16
/-- Event type TEAM_SUBSTITUTED (R539); alerting: No. -/
abbrev evTeamSubstituted : BitVec 16 := 0x0701#16
/-- Event type TEAM_OUT_OF_SERVICE (R539); alerting: Yes. -/
abbrev evTeamOutOfService : BitVec 16 := 0x0702#16
/-- Event type WARM_RESET (R539); alerting: Yes. -/
abbrev evWarmReset : BitVec 16 := 0x0703#16
/-- Event type MOOR_STATE (R539); alerting: For DEGRADED and LOST. -/
abbrev evMoorState : BitVec 16 := 0x0704#16
/-- Event type LINES_LOST (R539); alerting: Yes. -/
abbrev evLinesLost : BitVec 16 := 0x0705#16
/-- Event type QUAY_SESSION_END (R539); alerting: No. -/
abbrev evQuaySessionEnd : BitVec 16 := 0x0801#16
/-- Event type EXCURSION_CLAMP (R539); alerting: No. -/
abbrev evExcursionClamp : BitVec 16 := 0x0901#16
/-- Event type THERMAL_THROTTLE (R539); alerting: No. -/
abbrev evThermalThrottle : BitVec 16 := 0x0902#16
/-- Event type RAIL_FAULT (R539); alerting: Yes. -/
abbrev evRailFault : BitVec 16 := 0x0903#16
/-- Event type AVS_VIOLATION (R539); alerting: No. -/
abbrev evAvsViolation : BitVec 16 := 0x0904#16
/-- Event type AVS_QUARANTINE (R539); alerting: Yes. -/
abbrev evAvsQuarantine : BitVec 16 := 0x0905#16
/-- Event type CEILING_LOWERED (R539); alerting: No. -/
abbrev evCeilingLowered : BitVec 16 := 0x0906#16
/-- Event type CAP_CHANGED (R539); alerting: No. -/
abbrev evCapChanged : BitVec 16 := 0x0907#16
/-- Event type REFCLK_LOSS (R539); alerting: Yes. -/
abbrev evRefclkLoss : BitVec 16 := 0x0908#16
/-- Event type BOARD_RAIL_FAULT (R539); alerting: Yes. -/
abbrev evBoardRailFault : BitVec 16 := 0x0909#16
/-- Event type THERMAL_TRIP (R539); alerting: Yes. -/
abbrev evThermalTrip : BitVec 16 := 0x090A#16
/-- Event type SELFTEST_FAIL (R539); alerting: Yes. -/
abbrev evSelftestFail : BitVec 16 := 0x0A01#16
/-- Event type TEAM_RETIRED (R539); alerting: Yes. -/
abbrev evTeamRetired : BitVec 16 := 0x0A02#16
/-- Event type RNG_FAULT (R539); alerting: Yes. -/
abbrev evRngFault : BitVec 16 := 0x0B01#16
/-- Event type BASIN_UNCORRECTABLE (R539); alerting: No. -/
abbrev evBasinUncorrectable : BitVec 16 := 0x0C01#16
/-- Event type STREAM_END (R539); alerting: No. -/
abbrev evStreamEnd : BitVec 16 := 0x0C02#16

/-- The event types that alert whatever they carry (Table 17-6, R539). -/
def alertingTypes : List (BitVec 16) :=
  [0x0002#16, 0x0004#16, 0x0009#16, 0x0102#16, 0x0103#16, 0x0107#16, 0x0202#16, 0x0402#16, 0x0603#16, 0x0606#16, 0x0702#16, 0x0703#16, 0x0705#16, 0x0903#16, 0x0905#16, 0x0908#16, 0x0909#16, 0x090A#16, 0x0A01#16, 0x0A02#16, 0x0B01#16]

end Sys2Proof.Machine
end

