-- ==== Sys2Proof/Machine/Flags.lean ====
section
/-! DEFINITION. The status and flag words that the part computes: PART_STATE and IDENT (R47), the conditions of
DEGRADED (R413), the alerting flag of an event (R539). -/

namespace Sys2Proof.Machine

open Sys2Proof

/-- The code of PART_STATE.STATE (Table 2-2). -/
def PartState.code : PartState → Nat
  | .boot => 1
  | .controlReady => 2
  | .ready => 3
  | .degraded => 4
  | .warmReset => 5
  | .failed => 6

/-- Whether Iluvo runs: it fetches, checks and dispatches commands (R54, R413). -/
def PartState.running : PartState → Bool
  | .controlReady => true
  | .ready => true
  | .degraded => true
  | _ => false

/-- Whether every opcode is accepted (R72, R413). -/
def PartState.full : PartState → Bool
  | .ready => true
  | .degraded => true
  | _ => false

/-- The time base in nanoseconds (R30). -/
def State.t (s : State) : Nat := s.now.toNat

/-- The time base moves on to a time that an event brings with it, and never back (log entry 3). -/
def State.reach (s : State) (t : Nat) : State := if s.t < t then { s with now := BitVec.ofNat 64 t } else s

/-- The n-th function, 0 the PF. -/
def State.fn (s : State) (f : Nat) : Fn := tgetD Fn.reset s.fns f

/-- Ring `r` (R45). -/
def State.ring (s : State) (r : Nat) : Ring := tgetD Ring.reset s.rings r

/-- A logical team (R18). -/
def State.team (s : State) (l : Nat) : Team := tgetD Team.reset s.teams l

/-- An NVW stack. -/
def State.nvwStack (s : State) (k : Nat) : NvwStack := tgetD NvwStack.reset s.nvw k

/-- The physical team of a logical team: its mapping, or the initial one (log entry 6). -/
def State.physOf (s : State) (l : Nat) : Nat := ((s.team l).phys).getD (84 * (l / 80) + l % 80)

/-- The die of a logical team: its physical team's, which a substitute on another die changes (R18, R414). -/
def State.dieOf (s : State) (l : Nat) : Nat := s.physOf l / 84

/-- A physical team's record. -/
def State.physTeam (s : State) (p : Nat) : PhysTeam := tgetD PhysTeam.reset s.phys p

/-- What a physical team is now. -/
def State.physState (s : State) (p : Nat) : PhysState :=
  match (s.physTeam p).state with
  | some x => x
  | none => if p % 84 < 80 then .mapped else .spare

/-- An AVSBus rail (Table 14-1). -/
def State.rail (s : State) (r : Nat) : Rail := tgetD Rail.reset s.power.rails r

/-- Whether the VIN_TEAM rail of a physical team, which feeds 42 of them (R17), has its teams out of service (R478). -/
def State.railOut (s : State) (p : Nat) : Bool := (s.rail (p / 42)).out

/-- Whether a logical team is in service and not being replaced (R415, R416, R478). -/
def State.teamUp (s : State) (l : Nat) : Bool :=
  (s.team l).inService && !(s.team l).replacing && !s.railOut (s.physOf l)

/-- The logical teams in service (R416, R478). -/
def State.teamsInService (s : State) : Nat :=
  ((List.range 320).filter fun l => (s.team l).inService && !s.railOut (s.physOf l)).length

/-- Whether a condition of DEGRADED holds (R413, R423, R478, R484). -/
def State.degradedNow (s : State) : Bool :=
  s.teams.any (fun e => !e.2.inService) || !s.hbm.reserveUsed.isEmpty ||
  s.nvw.any (fun e => e.2.spare = 0) || s.part.cores < 4 || s.learn.units.any (fun e => e.2.retired) ||
  s.power.rails.any fun e => e.2.out || e.2.quarantined

/-- PART_STATE as a function reads it (Table 2-2). -/
def State.partStateWord (s : State) (f : Nat) : BitVec 32 :=
  BitVec.ofNat 32 (s.part.pstate.code + (if (s.fn f).session.isSome then 16 else 0) +
    (if (s.fn f).lockedUntil.isSome then 32 else 0) + 65536 * s.part.partId.toNat)

/-- Iluvo's estimate of the milliseconds until READY: what it estimated at CONTROL_READY, less what has passed since, and
at least 1; once READY, 0 (R47, R74). -/
def State.retryMs (s : State) : Nat :=
  if s.part.pstate = .controlReady then max 1 (s.part.retryAfter.toNat - (s.t - s.part.controlAt) / 1000000) else 0

/-- IDENT as a function reads it (Table 2-2). -/
def identWord (f : Nat) : BitVec 32 := BitVec.ofNat 32 (0x0960 + 65536 * f + 0x100000 * 32)

/-- READY or DEGRADED follows the conditions of R413 while either is read. -/
def State.refreshDegraded (s : State) : State :=
  if s.part.pstate.full then
    { s with part := { s.part with pstate := if s.degradedNow then .degraded else .ready } }
  else s

/-- Whether an event of this type alerts, where its type alone decides (Table 17-6). -/
def evAlerts (ty : BitVec 16) : Bool := alertingTypes.contains ty

end Sys2Proof.Machine
end

