-- ==== Sys2Proof/Machine/Operands.lean ====
section
/-! DEFINITION. The opcodes of the part, from the command tables of the chapters (R5, R49, R54, R77, R143, R170,
R206, R245, R290, R332, R366, R410, R438, R459, R486, R505): the payload length, whether the opcode is pre-session,
whether it is marked management, and which payload bits are reserved. -/

namespace Sys2Proof.Machine

/-- What the command tables say of one opcode. -/
structure OpInfo where
  /-- opcode (R5) -/
  op : Nat
  /-- least payload length (R49) -/
  lo : Nat
  /-- greatest payload length (R49) -/
  hi : Nat
  /-- marked pre-session (R77) -/
  pre : Bool
  /-- permitted only on the management session (R63) -/
  mgmt : Bool
  /-- reserved payload bits: byte offset and mask, those of a descriptor or FLAGS word in the payload among them
  (R10, Tables 7-1, 11-7 and 13-2) -/
  rsv : List (Nat × Nat)
deriving DecidableEq, Repr

/-- Opcodes 0x00xx. -/
def opcodes00 : List OpInfo := [
  ⟨0x0001, 0, 0, true, false, []⟩,
  ⟨0x0002, 8, 8, true, false, []⟩,
  ⟨0x0003, 56, 56, true, false, []⟩,
  ⟨0x0004, 0, 0, false, false, []⟩,
  ⟨0x0005, 8, 8, false, false, []⟩,
  ⟨0x0006, 8, 8, false, false, []⟩,
  ⟨0x0007, 0, 96, false, false, []⟩,
  ⟨0x0010, 12, 12, false, true, []⟩,
  ⟨0x0011, 12, 12, false, true, []⟩,
  ⟨0x0012, 4, 4, false, true, []⟩,
  ⟨0x0013, 8, 8, false, false, []⟩,
  ⟨0x0014, 60, 60, false, true, []⟩,
  ⟨0x0081, 8, 8, true, false, []⟩,
  ⟨0x0082, 8, 8, true, false, []⟩,
  ⟨0x0083, 60, 60, true, false, []⟩,
  ⟨0x0084, 4, 4, false, false, [(0, 254), (1, 255), (2, 255), (3, 255)]⟩,
  ⟨0x0085, 16, 16, false, false, [(8, 255), (9, 255), (10, 255), (11, 255), (12, 255), (13, 255), (14, 255), (15, 255)]⟩,
  ⟨0x0086, 16, 16, false, false, [(12, 255), (13, 255), (14, 255), (15, 255)]⟩,
  ⟨0x0087, 8, 8, false, false, []⟩,
  ⟨0x0090, 64, 64, false, true, [(40, 255), (41, 255), (42, 255), (43, 255), (44, 255), (45, 255), (46, 255), (47, 255), (48, 255), (49, 255), (50, 255), (51, 255), (52, 255), (53, 255), (54, 255), (55, 255), (56, 255), (57, 255), (58, 255), (59, 255), (60, 255), (61, 255), (62, 255), (63, 255)]⟩,
  ⟨0x0091, 64, 64, false, true, [(40, 255), (41, 255), (42, 255), (43, 255), (44, 255), (45, 255), (46, 255), (47, 255), (48, 255), (49, 255), (50, 255), (51, 255), (52, 255), (53, 255), (54, 255), (55, 255), (56, 255), (57, 255), (58, 255), (59, 255), (60, 255), (61, 255), (62, 255), (63, 255)]⟩,
  ⟨0x0092, 8, 8, false, true, [(4, 254), (5, 255), (6, 255), (7, 255)]⟩,
  ⟨0x0093, 12, 12, false, false, []⟩,
  ⟨0x0094, 64, 64, false, true, []⟩]

/-- Opcodes 0x01xx. -/
def opcodes01 : List OpInfo := [
  ⟨0x0101, 12, 12, false, false, [(0, 116), (1, 255), (2, 255), (3, 255)]⟩,
  ⟨0x0102, 8, 8, false, false, []⟩,
  ⟨0x0103, 8, 8, false, false, []⟩,
  ⟨0x0104, 16, 16, false, false, []⟩,
  ⟨0x0105, 4, 4, false, true, []⟩,
  ⟨0x0106, 24, 24, false, false, []⟩,
  ⟨0x0107, 16, 16, false, false, []⟩,
  ⟨0x0108, 8, 8, false, false, []⟩,
  ⟨0x0109, 12, 12, false, true, []⟩,
  ⟨0x010A, 16, 16, false, false, []⟩,
  ⟨0x010B, 8, 8, false, false, []⟩,
  ⟨0x010C, 8, 8, false, true, []⟩,
  ⟨0x010D, 8, 8, false, false, []⟩,
  ⟨0x0181, 24, 24, false, false, [(0, 4), (1, 254), (2, 255), (3, 255), (16, 255), (17, 255), (18, 255), (19, 255), (20, 255), (21, 255), (22, 255), (23, 255)]⟩,
  ⟨0x0182, 16, 16, false, false, [(8, 254), (9, 255), (10, 255), (11, 255), (12, 255), (13, 255), (14, 255), (15, 255)]⟩,
  ⟨0x0183, 16, 16, false, false, [(12, 254), (13, 255), (14, 255), (15, 255)]⟩,
  ⟨0x0184, 24, 24, false, false, []⟩,
  ⟨0x0185, 8, 8, false, true, [(4, 254), (5, 255), (6, 255), (7, 255)]⟩,
  ⟨0x0186, 32, 32, false, false, [(28, 254), (29, 255), (30, 255), (31, 255)]⟩,
  ⟨0x0187, 24, 24, false, false, []⟩,
  ⟨0x0188, 16, 16, false, false, [(8, 254), (9, 255), (10, 255), (11, 255), (12, 255), (13, 255), (14, 255), (15, 255)]⟩,
  ⟨0x0189, 16, 16, false, true, [(12, 254), (13, 255), (14, 255), (15, 255)]⟩,
  ⟨0x018A, 16, 16, false, false, [(12, 255), (13, 255), (14, 255), (15, 255)]⟩,
  ⟨0x018B, 16, 16, false, false, []⟩,
  ⟨0x018C, 12, 12, false, true, []⟩,
  ⟨0x018D, 16, 16, false, false, [(12, 255), (13, 255), (14, 255), (15, 255)]⟩]

/-- Opcodes 0x02xx. -/
def opcodes02 : List OpInfo := [
  ⟨0x0201, 12, 12, false, false, []⟩,
  ⟨0x0202, 4, 4, false, false, []⟩,
  ⟨0x0203, 16, 16, false, false, [(6, 255), (7, 255)]⟩,
  ⟨0x0204, 8, 8, false, false, []⟩,
  ⟨0x0205, 8, 8, false, false, []⟩,
  ⟨0x0206, 8, 8, false, false, []⟩,
  ⟨0x0207, 16, 16, false, false, []⟩,
  ⟨0x0208, 8, 8, false, false, []⟩,
  ⟨0x0281, 16, 16, false, false, [(12, 240), (13, 255), (14, 255), (15, 255)]⟩,
  ⟨0x0282, 8, 8, false, false, [(4, 254), (5, 255), (6, 255), (7, 255)]⟩,
  ⟨0x0283, 88, 88, false, false, [(6, 255), (7, 255), (58, 255), (59, 255), (80, 255), (81, 255), (82, 255), (83, 255), (84, 255), (85, 255), (86, 255), (87, 255)]⟩,
  ⟨0x0284, 16, 16, false, false, [(12, 255), (13, 255), (14, 255), (15, 255)]⟩,
  ⟨0x0285, 16, 16, false, false, [(8, 252), (9, 255), (10, 255), (11, 255), (12, 255), (13, 255), (14, 255), (15, 255)]⟩,
  ⟨0x0286, 48, 48, false, false, []⟩,
  ⟨0x0287, 24, 24, false, false, [(12, 255), (13, 255), (14, 255), (15, 255), (16, 255), (17, 255), (18, 255), (19, 255), (20, 255), (21, 255), (22, 255), (23, 255)]⟩,
  ⟨0x0288, 48, 48, false, false, []⟩]

/-- Opcodes 0x03xx. -/
def opcodes03 : List OpInfo := [
  ⟨0x0301, 8, 8, false, false, []⟩,
  ⟨0x0302, 4, 4, false, false, []⟩,
  ⟨0x0303, 16, 16, false, false, []⟩,
  ⟨0x0304, 4, 4, false, false, []⟩,
  ⟨0x0305, 12, 12, false, false, []⟩,
  ⟨0x0306, 12, 12, false, false, []⟩,
  ⟨0x0307, 16, 16, false, false, [(12, 255), (13, 255), (14, 255), (15, 255)]⟩,
  ⟨0x0308, 4, 4, false, false, []⟩,
  ⟨0x0309, 40, 40, false, false, []⟩,
  ⟨0x030A, 4, 4, false, false, []⟩,
  ⟨0x030B, 8, 8, false, false, []⟩,
  ⟨0x030C, 16, 16, false, false, []⟩,
  ⟨0x030D, 12, 12, false, false, []⟩,
  ⟨0x030E, 4, 4, false, false, []⟩,
  ⟨0x030F, 12, 12, false, false, []⟩,
  ⟨0x0381, 16, 16, false, false, []⟩,
  ⟨0x0382, 8, 8, false, false, [(4, 254), (5, 255), (6, 255), (7, 255)]⟩,
  ⟨0x0383, 24, 24, false, false, [(20, 255), (21, 255), (22, 255), (23, 255)]⟩,
  ⟨0x0384, 8, 8, false, false, [(4, 254), (5, 255), (6, 255), (7, 255)]⟩,
  ⟨0x0385, 16, 16, false, false, []⟩,
  ⟨0x0386, 20, 20, false, false, []⟩,
  ⟨0x0387, 96, 96, false, false, [(12, 255), (13, 255), (14, 255), (15, 255), (70, 255), (71, 255), (92, 255), (93, 255), (94, 255), (95, 255)]⟩,
  ⟨0x0388, 8, 8, false, false, [(4, 254), (5, 255), (6, 255), (7, 255)]⟩,
  ⟨0x0389, 128, 128, false, false, [(42, 255), (43, 255), (73, 224), (74, 255), (75, 255), (124, 255), (125, 255), (126, 255), (127, 255)]⟩,
  ⟨0x038A, 8, 8, false, false, []⟩,
  ⟨0x038B, 12, 12, false, false, [(8, 254), (9, 255), (10, 255), (11, 255)]⟩,
  ⟨0x038C, 24, 24, false, false, [(20, 255), (21, 255), (22, 255), (23, 255)]⟩,
  ⟨0x038D, 24, 24, false, false, [(20, 255), (21, 255), (22, 255), (23, 255)]⟩,
  ⟨0x038E, 8, 8, false, false, [(4, 254), (5, 255), (6, 255), (7, 255)]⟩,
  ⟨0x038F, 8, 8, false, false, []⟩]

/-- Opcodes 0x04xx. -/
def opcodes04 : List OpInfo := [
  ⟨0x0401, 16, 16, false, false, []⟩,
  ⟨0x0402, 4, 4, false, false, []⟩,
  ⟨0x0403, 56, 56, false, false, []⟩,
  ⟨0x0404, 12, 12, false, false, []⟩,
  ⟨0x0405, 8, 8, false, false, []⟩,
  ⟨0x0406, 8, 8, false, false, []⟩,
  ⟨0x0407, 4, 4, false, false, []⟩,
  ⟨0x0408, 24, 24, false, false, []⟩,
  ⟨0x0409, 12, 12, false, false, []⟩,
  ⟨0x0481, 32, 32, false, false, [(24, 255), (25, 255), (26, 255), (27, 255), (28, 255), (29, 255), (30, 255), (31, 255)]⟩,
  ⟨0x0482, 8, 8, false, false, [(4, 254), (5, 255), (6, 255), (7, 255)]⟩,
  ⟨0x0483, 64, 64, false, false, [(60, 255), (61, 255), (62, 255), (63, 255)]⟩,
  ⟨0x0484, 16, 16, false, false, [(12, 254), (13, 255), (14, 255), (15, 255)]⟩,
  ⟨0x0485, 24, 24, false, false, [(16, 254), (17, 255), (18, 255), (19, 255), (20, 255), (21, 255), (22, 255), (23, 255)]⟩,
  ⟨0x0486, 24, 24, false, false, []⟩,
  ⟨0x0487, 8, 8, false, false, [(4, 254), (5, 255), (6, 255), (7, 255)]⟩,
  ⟨0x0488, 32, 32, false, false, [(24, 254), (25, 255), (26, 255), (27, 255), (28, 255), (29, 255), (30, 255), (31, 255)]⟩,
  ⟨0x0489, 16, 16, false, false, [(8, 255), (9, 255), (10, 255), (11, 255), (12, 255), (13, 255), (14, 255), (15, 255)]⟩]

/-- Opcodes 0x05xx. -/
def opcodes05 : List OpInfo := [
  ⟨0x0501, 28, 28, false, false, []⟩,
  ⟨0x0502, 4, 4, false, false, []⟩,
  ⟨0x0503, 4, 4, false, false, []⟩,
  ⟨0x0504, 32, 32, false, false, [(28, 255), (29, 255), (30, 255), (31, 255)]⟩,
  ⟨0x0505, 8, 8, false, false, []⟩,
  ⟨0x0506, 8, 8, false, false, []⟩,
  ⟨0x0507, 12, 12, false, false, []⟩,
  ⟨0x0581, 40, 40, false, false, [(36, 255), (37, 255), (38, 255), (39, 255)]⟩,
  ⟨0x0582, 8, 8, false, false, [(4, 254), (5, 255), (6, 255), (7, 255)]⟩,
  ⟨0x0583, 8, 8, false, false, [(4, 254), (5, 255), (6, 255), (7, 255)]⟩,
  ⟨0x0584, 56, 56, false, false, [(28, 255), (29, 255), (30, 255), (31, 255)]⟩,
  ⟨0x0585, 16, 16, false, false, [(8, 254), (9, 255), (10, 255), (11, 255)]⟩,
  ⟨0x0586, 48, 48, false, false, []⟩,
  ⟨0x0587, 12, 12, false, false, []⟩]

/-- Opcodes 0x06xx. -/
def opcodes06 : List OpInfo := [
  ⟨0x0601, 16, 16, false, false, []⟩,
  ⟨0x0602, 4, 4, false, false, []⟩,
  ⟨0x0603, 64, 64, false, false, [(34, 240), (35, 248)]⟩,
  ⟨0x0604, 12, 12, false, false, []⟩,
  ⟨0x0605, 24, 24, false, false, []⟩,
  ⟨0x0606, 24, 24, false, false, [(2, 255), (3, 255), (12, 255), (13, 255), (14, 255), (15, 255)]⟩,
  ⟨0x0607, 4, 4, false, false, []⟩,
  ⟨0x0608, 8, 8, false, false, []⟩,
  ⟨0x0609, 8, 8, false, false, []⟩,
  ⟨0x060A, 8, 8, false, false, []⟩,
  ⟨0x060B, 8, 8, false, false, []⟩,
  ⟨0x060C, 12, 12, false, false, []⟩,
  ⟨0x0681, 48, 48, false, false, [(44, 255), (45, 255), (46, 255), (47, 255)]⟩,
  ⟨0x0682, 8, 8, false, false, [(4, 254), (5, 255), (6, 255), (7, 255)]⟩,
  ⟨0x0683, 128, 128, false, false, [(34, 240), (35, 248), (108, 255), (109, 255), (110, 255), (111, 255), (112, 255), (113, 255), (114, 255), (115, 255), (116, 255), (117, 255), (118, 255), (119, 255), (120, 255), (121, 255), (122, 255), (123, 255), (124, 255), (125, 255), (126, 255), (127, 255)]⟩,
  ⟨0x0684, 16, 16, false, false, []⟩,
  ⟨0x0685, 8, 8, false, false, [(4, 254), (5, 255), (6, 255), (7, 255)]⟩,
  ⟨0x0686, 32, 32, false, false, [(2, 255), (3, 255), (12, 255), (13, 255), (14, 255), (15, 255), (28, 255), (29, 255), (30, 255), (31, 255)]⟩,
  ⟨0x0687, 8, 8, false, false, []⟩,
  ⟨0x0688, 16, 16, false, false, [(8, 255), (9, 255), (10, 255), (11, 255), (12, 255), (13, 255), (14, 255), (15, 255)]⟩,
  ⟨0x0689, 16, 16, false, false, [(12, 255), (13, 255), (14, 255), (15, 255)]⟩,
  ⟨0x068A, 8, 8, false, true, []⟩,
  ⟨0x068B, 16, 16, false, true, [(8, 255), (9, 255), (10, 255), (11, 255), (12, 255), (13, 255), (14, 255), (15, 255)]⟩,
  ⟨0x068C, 16, 16, false, false, [(12, 255), (13, 255), (14, 255), (15, 255)]⟩]

/-- Opcodes 0x07xx. -/
def opcodes07 : List OpInfo := [
  ⟨0x0701, 24, 24, false, false, [(20, 255), (21, 255), (22, 255), (23, 255)]⟩,
  ⟨0x0702, 4, 4, false, false, []⟩,
  ⟨0x0703, 8, 8, false, false, []⟩,
  ⟨0x0704, 16, 16, false, false, [(6, 255), (7, 255)]⟩,
  ⟨0x0705, 4, 4, false, false, []⟩,
  ⟨0x0706, 12, 12, false, false, []⟩,
  ⟨0x0707, 4, 4, false, false, []⟩,
  ⟨0x0708, 8, 8, false, false, []⟩,
  ⟨0x0709, 8, 8, false, false, []⟩,
  ⟨0x070A, 4, 4, false, true, []⟩,
  ⟨0x070B, 0, 0, false, true, []⟩,
  ⟨0x0781, 48, 48, false, false, [(20, 255), (21, 255), (22, 255), (23, 255), (32, 254), (33, 255), (34, 255), (35, 255)]⟩,
  ⟨0x0782, 8, 8, false, false, [(4, 254), (5, 255), (6, 255), (7, 255)]⟩,
  ⟨0x0783, 12, 12, false, false, []⟩,
  ⟨0x0784, 20, 20, false, false, [(6, 255), (7, 255)]⟩,
  ⟨0x0785, 8, 8, false, false, []⟩,
  ⟨0x0786, 24, 24, false, false, [(16, 255), (17, 255), (18, 255), (19, 255), (20, 255), (21, 255), (22, 255), (23, 255)]⟩,
  ⟨0x0787, 8, 8, false, false, [(4, 254), (5, 255), (6, 255), (7, 255)]⟩,
  ⟨0x0788, 16, 16, false, false, [(12, 255), (13, 255), (14, 255), (15, 255)]⟩,
  ⟨0x0789, 16, 16, false, false, [(10, 255), (11, 255), (12, 255), (13, 255), (14, 255), (15, 255)]⟩,
  ⟨0x078A, 8, 8, false, true, [(4, 254), (5, 255), (6, 255), (7, 255)]⟩,
  ⟨0x078B, 4, 4, false, true, []⟩]

/-- Opcodes 0x08xx. -/
def opcodes08 : List OpInfo := [
  ⟨0x0801, 64, 64, false, false, [(22, 255), (23, 255), (59, 252), (60, 255), (61, 255), (62, 255), (63, 255)]⟩,
  ⟨0x0802, 4, 4, false, false, []⟩,
  ⟨0x0803, 16, 16, false, false, [(4, 255), (5, 255), (6, 255), (7, 255)]⟩,
  ⟨0x0804, 12, 12, false, false, []⟩,
  ⟨0x0805, 12, 12, false, false, []⟩,
  ⟨0x0881, 128, 128, false, false, [(22, 255), (23, 255), (59, 252), (60, 255), (61, 255), (62, 255), (63, 255), (91, 255), (92, 255), (93, 255), (94, 255), (95, 255), (104, 255), (105, 255), (106, 255), (107, 255), (108, 255), (109, 255), (110, 255), (111, 255), (112, 255), (113, 255), (114, 255), (115, 255), (116, 255), (117, 255), (118, 255), (119, 255), (120, 255), (121, 255), (122, 255), (123, 255), (124, 255), (125, 255), (126, 255), (127, 255)]⟩,
  ⟨0x0882, 8, 8, false, false, [(4, 254), (5, 255), (6, 255), (7, 255)]⟩,
  ⟨0x0883, 24, 24, false, false, [(4, 255), (5, 255), (6, 255), (7, 255)]⟩,
  ⟨0x0884, 20, 20, false, false, []⟩,
  ⟨0x0885, 16, 16, false, false, [(12, 255), (13, 255), (14, 255), (15, 255)]⟩]

/-- Opcodes 0x09xx. -/
def opcodes09 : List OpInfo := [
  ⟨0x0901, 4, 4, false, true, []⟩,
  ⟨0x0902, 4, 4, false, false, []⟩,
  ⟨0x0903, 8, 8, false, true, []⟩,
  ⟨0x0904, 4, 4, false, false, []⟩,
  ⟨0x0905, 8, 8, false, false, []⟩,
  ⟨0x0906, 12, 12, false, false, []⟩,
  ⟨0x0907, 8, 8, false, false, []⟩,
  ⟨0x0981, 8, 8, false, true, [(4, 254), (5, 255), (6, 255), (7, 255)]⟩,
  ⟨0x0982, 8, 8, false, false, [(4, 254), (5, 255), (6, 255), (7, 255)]⟩,
  ⟨0x0983, 12, 12, false, true, []⟩,
  ⟨0x0984, 8, 8, false, true, []⟩,
  ⟨0x0985, 16, 16, false, false, [(8, 254), (9, 255), (10, 255), (11, 255), (12, 255), (13, 255), (14, 255), (15, 255)]⟩,
  ⟨0x0986, 8, 8, false, true, []⟩,
  ⟨0x0987, 12, 12, false, true, []⟩]

/-- Opcodes 0x0Axx. -/
def opcodes0A : List OpInfo := [
  ⟨0x0A01, 16, 16, false, true, []⟩,
  ⟨0x0A02, 8, 8, false, true, []⟩,
  ⟨0x0A03, 8, 8, false, true, []⟩,
  ⟨0x0A04, 4, 4, false, true, []⟩,
  ⟨0x0A05, 12, 12, false, true, []⟩,
  ⟨0x0A06, 12, 12, false, true, [(2, 255), (3, 255)]⟩,
  ⟨0x0A07, 12, 12, false, true, []⟩,
  ⟨0x0A08, 4, 4, false, true, [(2, 255), (3, 255)]⟩,
  ⟨0x0A81, 32, 32, false, true, [(12, 254), (13, 255), (14, 255), (15, 255)]⟩,
  ⟨0x0A82, 16, 16, false, true, [(12, 255), (13, 255), (14, 255), (15, 255)]⟩,
  ⟨0x0A83, 16, 16, false, true, [(12, 255), (13, 255), (14, 255), (15, 255)]⟩,
  ⟨0x0A84, 8, 8, false, true, [(4, 254), (5, 255), (6, 255), (7, 255)]⟩,
  ⟨0x0A85, 16, 16, false, true, [(12, 252), (13, 255), (14, 255), (15, 255)]⟩,
  ⟨0x0A86, 16, 16, false, true, [(2, 255), (3, 255)]⟩,
  ⟨0x0A87, 16, 16, false, true, []⟩,
  ⟨0x0A88, 8, 8, false, true, [(2, 255), (3, 255), (4, 254), (5, 255), (6, 255), (7, 255)]⟩]

/-- Opcodes 0x0Bxx. -/
def opcodes0B : List OpInfo := [
  ⟨0x0B01, 40, 40, false, false, []⟩,
  ⟨0x0B02, 0, 0, false, false, []⟩,
  ⟨0x0B03, 12, 12, false, false, []⟩,
  ⟨0x0B81, 56, 56, false, false, [(52, 255), (53, 255), (54, 255), (55, 255)]⟩,
  ⟨0x0B82, 48, 48, false, false, [(40, 255), (41, 255), (42, 255), (43, 255), (44, 255), (45, 255), (46, 255), (47, 255)]⟩,
  ⟨0x0B83, 16, 16, false, false, [(12, 254), (13, 255), (14, 255), (15, 255)]⟩]

/-- Opcodes 0x0Cxx. -/
def opcodes0C : List OpInfo := [
  ⟨0x0C01, 24, 24, false, false, []⟩,
  ⟨0x0C02, 24, 24, false, false, []⟩,
  ⟨0x0C03, 4, 4, false, false, []⟩,
  ⟨0x0C04, 4, 4, false, false, []⟩,
  ⟨0x0C05, 12, 12, false, false, []⟩,
  ⟨0x0C06, 4, 4, false, false, []⟩,
  ⟨0x0C07, 4, 4, false, false, []⟩,
  ⟨0x0C08, 4, 4, false, false, []⟩,
  ⟨0x0C09, 4, 4, false, false, []⟩,
  ⟨0x0C0A, 4, 4, false, false, []⟩,
  ⟨0x0C0B, 8, 8, false, false, []⟩,
  ⟨0x0C81, 40, 40, false, false, [(28, 254), (29, 255), (30, 255), (31, 255), (32, 255), (33, 255), (34, 255), (35, 255), (36, 255), (37, 255), (38, 255), (39, 255)]⟩,
  ⟨0x0C82, 48, 48, false, false, [(40, 254), (41, 255), (42, 255), (43, 255), (44, 255), (45, 255), (46, 255), (47, 255)]⟩,
  ⟨0x0C83, 8, 8, false, false, [(4, 254), (5, 255), (6, 255), (7, 255)]⟩,
  ⟨0x0C84, 8, 8, false, false, []⟩,
  ⟨0x0C85, 16, 16, false, false, [(12, 255), (13, 255), (14, 255), (15, 255)]⟩,
  ⟨0x0C86, 8, 8, false, false, [(4, 254), (5, 255), (6, 255), (7, 255)]⟩,
  ⟨0x0C87, 12, 12, false, false, []⟩,
  ⟨0x0C88, 72, 72, false, false, [(4, 254), (5, 255), (6, 255), (7, 255)]⟩,
  ⟨0x0C89, 8, 8, false, false, [(4, 254), (5, 255), (6, 255), (7, 255)]⟩,
  ⟨0x0C8A, 8, 8, false, false, [(4, 254), (5, 255), (6, 255), (7, 255)]⟩,
  ⟨0x0C8B, 16, 16, false, false, [(8, 254), (9, 255), (10, 255), (11, 255), (12, 255), (13, 255), (14, 255), (15, 255)]⟩]

/-- Every defined opcode. -/
def opcodes : List OpInfo :=
  opcodes00 ++ opcodes01 ++ opcodes02 ++ opcodes03 ++ opcodes04 ++ opcodes05 ++ opcodes06 ++ opcodes07 ++ opcodes08 ++ opcodes09 ++ opcodes0A ++ opcodes0B ++ opcodes0C

/-- What the tables say of an opcode, none where it is not defined (R6). -/
def opInfo (op : Nat) : Option OpInfo := opcodes.find? fun i => i.op == op

/-- Whether every reserved payload bit is 0 (R10). -/
def rsvClear (i : OpInfo) (p : List Byte) : Bool :=
  i.rsv.all fun e => ((p[e.1]?).getD 0#8).toNat &&& e.2 = 0

/-- The layout of an engine tile (Table 3-9). -/
structure TileLay where
  /-- rows of the tile -/
  rows : Nat
  /-- elements along K in a row -/
  k : Nat
  /-- element bytes per row -/
  rowBytes : Nat
  /-- where the scale region starts; 0 for a format without one -/
  scaleAt : Nat
  /-- block scales per row -/
  scales : Nat
deriving DecidableEq, Repr

/-- The engine tile layout of a format (R108). -/
def tileLay : ElemFmt → TileLay
  | .mxfp4 => ⟨96, 320, 160, 15360, 10⟩
  | .mxfp6e2m3 => ⟨96, 192, 144, 13824, 6⟩
  | .mxfp6e3m2 => ⟨96, 192, 144, 13824, 6⟩
  | .mxe4m3 => ⟨96, 160, 160, 15360, 5⟩
  | .mxe5m2 => ⟨96, 160, 160, 15360, 5⟩
  | .mxint8 => ⟨96, 160, 160, 15360, 5⟩
  | .e4m3 => ⟨128, 128, 128, 0, 0⟩
  | .e5m2 => ⟨128, 128, 128, 0, 0⟩
  | .int8 => ⟨128, 128, 128, 0, 0⟩
  | .bf16 => ⟨64, 128, 256, 0, 0⟩
  | .fp16 => ⟨64, 128, 256, 0, 0⟩
  | .fp32 => ⟨64, 64, 256, 0, 0⟩
  | .int32 => ⟨64, 64, 256, 0, 0⟩
  | .ep16 => ⟨32, 32, 512, 0, 0⟩

end Sys2Proof.Machine
end

