-- ==== Sys2Proof/Machine/Ops.lean ====
section
/-! DEFINITION. The shared operations: free values, rings and completions (R50 to R52), the journal (R417, R418),
the event log (R536 to R539), host violations (R76), memory by bytes and lines (R173, R191, R211), the resolution of
addresses (R212, R213), and the dispatch and completion of a command (R57, R58). -/

namespace Sys2Proof.Machine

open Sys2Proof

/-! ### Free values -/

/-- A free value, and the state with the counter advanced (log entry 2). -/
def State.draw (s : State) : BitVec 64 × State := (Config.freeWord s.free, { s with free := s.free + 1 })

/-- `n` free bytes. -/
def State.drawBytes (s : State) (n : Nat) : List Byte × State :=
  ((List.range n).map fun i => (Config.freeWord (s.free + i)).truncate 8, { s with free := s.free + n })

/-- A number in `lo .. lo + n - 1` that is not in use, free among them: a free value where it fits, else the least
(log entry 10). -/
def State.pick (s : State) (used : Nat → Bool) (lo n : Nat) : Option Nat × State :=
  let (v, s') := s.draw
  let k := lo + v.toNat % (max n 1)
  if n ≠ 0 && !used k then (some k, s') else (leastFree used lo n, s')

/-! ### Accessors -/

/-- Writes a function's state. -/
def State.setFn (s : State) (f : Nat) (v : Fn) : State := { s with fns := tputD Fn.reset s.fns f v }

/-- Changes a function's state. -/
def State.modFn (s : State) (f : Nat) (g : Fn → Fn) : State := s.setFn f (g (s.fn f))

/-- Writes a ring's state. -/
def State.setRing (s : State) (r : Nat) (v : Ring) : State := { s with rings := tputD Ring.reset s.rings r v }

/-- Changes a ring's state. -/
def State.modRing (s : State) (r : Nat) (g : Ring → Ring) : State := s.setRing r (g (s.ring r))

/-- Writes a logical team's state. -/
def State.setTeam (s : State) (l : Nat) (v : Team) : State := { s with teams := tputD Team.reset s.teams l v }

/-- Changes a logical team's state. -/
def State.modTeam (s : State) (l : Nat) (g : Team → Team) : State := s.setTeam l (g (s.team l))

/-- Changes a paddock that exists. -/
def State.modPaddock (s : State) (p : Nat) (g : Paddock → Paddock) : State :=
  { s with paddocks := tmod s.paddocks p g }

/-- The function of a global ring number (R45). -/
def ringFn (r : Nat) : Nat := if r < 256 then r / 32 + 1 else 0

/-- The number of a ring within its function (R45). -/
def ringK (r : Nat) : Nat := r % 32

/-- The global number of ring `k` of a function (R45). -/
def ringOf (f k : Nat) : Nat := if f = 0 then 256 + k else 32 * (f - 1) + k

/-- The paddock number of an event of a function: 0 to 7, or 0xFF (R536). -/
def padByte (f : Nat) : BitVec 8 := if f = 0 then 0xFF#8 else BitVec.ofNat 8 (f - 1)

/-- Milliseconds in nanoseconds. -/
abbrev msNs : Nat := 1000000

/-- Seconds in nanoseconds. -/
abbrev secNs : Nat := 1000000000

/-! ### Completions (R50 to R52) -/

/-- The stored outcome of a finished slot (R69). -/
def RItem.outcome (r : Nat) (i : RItem) : Outcome :=
  { ring := r, ser := i.ser, wid := i.wid, seq := i.seq, status := i.status, opcode := i.opcode,
    result := i.result, detail := i.detail, replayed := i.replayed }

/-- An outcome put into the store, which is kept in ring order: by ring, then by fetch (R71, R424). -/
def insOutcome (o : Outcome) : List Outcome → List Outcome
  | [] => [o]
  | p :: ps => if o.ring < p.ring || (o.ring = p.ring && o.ser < p.ser) then o :: p :: ps else p :: insOutcome o ps

/-- Finished slots of a settled ring go to the outcome store (R52, R69). -/
def State.storeSettled (s : State) (r : Nat) : State :=
  let done := (s.ring r).fifo.filter fun i => i.settledOut && i.fin
  if done.isEmpty then s
  else
    (s.modRing r fun g => { g with fifo := g.fifo.filter fun i => !(i.settledOut && i.fin) }).modFn (ringFn r)
      fun f => { f with outcomes := done.foldl (fun os i => insOutcome (i.outcome r) os) f.outcomes }

/-- The host address of a completion entry: CQ_BASE + 32 x its index (R46). -/
def Ring.cqAddr (g : Ring) : BitVec 64 := g.cqBase + BitVec.ofNat 64 (32 * g.cqTail.toNat)

/-- The 32 bytes of the layout of Table 2-5. -/
def completionBytes (wid : BitVec 64) (seq : BitVec 32) (status opcode : BitVec 16) (result : BitVec 64)
    (detail : BitVec 32) (sqHead : BitVec 8) (phase replayed hw : Bool) : List Byte :=
  leBytes 8 wid.toNat ++ leBytes 4 seq.toNat ++ leBytes 2 status.toNat ++ leBytes 2 opcode.toNat ++
  leBytes 8 result.toNat ++ leBytes 4 detail.toNat ++
  [sqHead, BitVec.ofNat 8 ((if phase then 1 else 0) + (if replayed then 2 else 0) + (if hw then 4 else 0)), 0#8, 0#8]

/-- The bytes of a completion entry (Table 2-5). -/
def CqWrite.encode (e : CqWrite) : List Byte :=
  completionBytes e.wid e.seq e.status e.opcode e.result e.detail e.sqHead e.phase e.replayed e.hw

/-- The posted write of a completion entry to its place in the completion ring (R46, R50). -/
def CqWrite.post (e : CqWrite) : HostWrite :=
  { fn := ringFn e.ring, addr := e.addr, bytes := e.encode, poisoned := false }

/-- Writes one completion entry: the 32-byte entry in one posted write, INT_STATUS and the interrupt (R46, R47, R50), and
frees the journal record (R418). -/
def State.writeCq (s : State) (r : Nat) (i : RItem) : State :=
  let g := s.ring r
  let f := ringFn r
  let e : CqWrite :=
    { ring := r, index := g.cqTail, addr := g.cqAddr, wid := i.wid, seq := i.seq, status := i.status, opcode := i.opcode,
      result := i.result, detail := i.detail, sqHead := i.sqHead, phase := g.phase, replayed := i.replayed,
      hw := i.hw }
  let bit : BitVec 32 := 1#32 <<< ringK r
  let irq := (s.fn f).intMask &&& bit = 0#32
  let s := s.setRing r
    { g with cqTail := g.cqTail + 1#8, phase := if g.cqTail = 255#8 then !g.phase else g.phase,
             written := g.written + 1, fifo := g.fifo.filter fun j => j.ser != i.ser }
  let s := s.modFn f fun n => { n with intStatus := n.intStatus ||| bit }
  { s with
    journal := s.journal.filter fun j => !(j.ring = r && j.ser = i.ser)
    out := { s.out with cq := s.out.cq ++ [e], host := s.out.host ++ [e.post],
                        msix := if irq then s.out.msix ++ [(f, g.msix)] else s.out.msix } }

/-- Writes the finished completions of a ring in fetch order while the completion ring has room (R51, R52). -/
def State.writeLoop (r : Nat) : List RItem → State → State
  | [], s => s.modRing r fun g => { g with cqFull := false }
  | i :: rest, s =>
    if i.settledOut then State.writeLoop r rest s
    else if !i.fin then s.modRing r fun g => { g with cqFull := false }
    else if 256 ≤ (s.ring r).written then s.modRing r fun g => { g with cqFull := true }
    else State.writeLoop r rest (s.writeCq r i)

/-- Brings a ring up to date after a slot of it has finished or entries were consumed. -/
def State.flush (s : State) (r : Nat) : State :=
  let s1 := s.storeSettled r
  State.writeLoop r (s1.ring r).fifo s1

/-- Gives a fetched slot its outcome (R57). -/
def State.finishItem (s : State) (r ser : Nat) (st : BitVec 16) (res : BitVec 64) (det : BitVec 32) (hw : Bool) :
    State :=
  (s.modRing r fun g =>
    { g with fifo := g.fifo.map fun i =>
        if i.ser = ser then { i with arrived := true, fin := true, status := st, result := res, detail := det, hw := hw }
        else i }).flush r

/-- The journal record of a command that is not done. -/
def State.jrec (s : State) (w : BitVec 64) : Option JRec := s.journal.find? fun j => j.wid = w && j.state != .done

/-- DETAIL of a 0x01xx status is a retry-after of at least 1 ms (R50). -/
def fixDetail (st : BitVec 16) (det : BitVec 32) : BitVec 32 :=
  if st.extractLsb' 8 8 = 0x01#8 && det = 0#32 then 1#32 else det

/-- Completes an accepted command: its record becomes DONE with its outcome (R418), then its completion is written
or stored in ring order (R51, R52). A command already done keeps its outcome (R57). -/
def State.complete (s : State) (w : BitVec 64) (st : BitVec 16) (res : BitVec 64 := 0#64) (det : BitVec 32 := 0#32) :
    State :=
  match s.jrec w with
  | none => s
  | some j =>
    let d := fixDetail st det
    let s : State := { s with
      journal := s.journal.map fun (q : JRec) =>
        if q.wid = w && q.state != .done then { q with state := .done, status := st, result := res, detail := d } else q
      waits := s.waits.filter fun x => x.wid != w }
    let s := s.modRing j.ring fun g =>
      { g with fifo := g.fifo.map fun i => if i.ser = j.ser then { i with replayed := j.replayed } else i }
    s.finishItem j.ring j.ser st res d false

/-- Completes each command of a list with one status. -/
def State.completeAll (s : State) (ws : List (BitVec 64)) (st : BitVec 16) : State :=
  ws.foldl (fun s w => s.complete w st) s

/-- Records progress of a dispatched command (R417, R418). -/
def State.progress (s : State) (w : BitVec 64) (p : BitVec 64) : State :=
  { s with journal := s.journal.map fun q => if q.wid = w then { q with progress := p } else q }

/-- Leaves a command waiting. -/
def State.wait (s : State) (w : BitVec 64) (k : WaitKind) : State :=
  { s with waits := s.waits ++ [{ wid := w, kind := k }] }

/-! ### The memory that the part addresses (R173, R191, R211) -/

/-- The direct address of a Basin address in either view (R173). -/
def basinDirect (a : Nat) : Nat :=
  if a < 0x80000000 then a
  else
    let b := a - 0x80000000
    let j := b / 16384
    (j % 4) * 0x20000000 + (j / 4) * 16384 + b % 16384

/-- The interleaved address of a direct Basin address (R173). -/
def basinInterleaved (a : Nat) : Nat :=
  0x80000000 + (4 * (a % 0x20000000 / 16384) + a / 0x20000000) * 16384 + a % 16384

/-- The address that keys memory: Basin addresses in the direct view, tier addresses as they are. -/
def memKey (a : Nat) : Nat := if a < 0x100000000 then basinDirect a else a

/-- An address seen in an allocation's own view (R176). -/
def viewIn (a : Nat) (name : Nat) : Nat :=
  if a < 0x100000000 then (if name < 0x80000000 then basinDirect a else basinInterleaved (basinDirect a)) else a

/-- Whether an address lies inside an allocation. -/
def inAlloc (a : Nat) (name : Nat) (l : Alloc) : Bool :=
  (a < 0x100000000) = (name < 0x100000000) && name ≤ viewIn a name && viewIn a name < name + l.len

/-- The allocation that holds an address. -/
def State.allocAt (s : State) (a : Nat) : Option (Nat × Alloc) := s.allocs.find? fun e => inAlloc a e.1 e.2

/-- The entry of a page list of the parking tier that holds page `i` (R239). -/
def walkPages : List (Nat × Nat) → Nat → Option (Nat × Nat)
  | [], _ => none
  | (f, k) :: t, i => if i < k then some (f, i) else walkPages t (i - k)

/-- The parking-tier range of a byte of an allocation (R239). -/
def Alloc.rangeOf (l : Alloc) (off : Nat) : Nat := ((walkPages l.pages (off / 0x200000)).map (·.1)).getD 0

/-- Whether a byte of the parking tier is lost with its device: its reads deliver poison, its writes are discarded
(R241). -/
def State.parkLost (s : State) (a : Nat) : Bool :=
  a / 2 ^ 52 = 0xFA3 &&
  match s.allocAt a with
  | some (name, l) => l.tier = .park && l.lost.contains (l.rangeOf (a - name))
  | none => false

/-- Whether any page that `n` bytes touch is lost (R241). -/
def State.rangeLost (s : State) (a n : Nat) : Bool :=
  a / 2 ^ 52 = 0xFA3 && n != 0 && (List.range (n / 0x200000 + 2)).any fun i => s.parkLost (min (a + i * 0x200000) (a + n - 1))

/-- One byte of memory; a byte nothing has written reads 0 (log entry 9). -/
def State.byte (s : State) (a : Nat) : Byte := tgetD 0#8 s.mem (memKey a)

/-- Writes one byte of memory in the canonical form; a write to a lost page is discarded (R241). -/
def State.setByte (s : State) (a : Nat) (b : Byte) : State :=
  { s with mem := if s.parkLost a then s.mem else tputD 0#8 s.mem (memKey a) b }

/-- `n` bytes from an address. -/
def State.bytes (s : State) (a n : Nat) : List Byte := (List.range n).map fun i => s.byte (a + i)

/-- Whether any Basin line, or any sector of a tier, that `n` bytes touch is poisoned or lost (R191, R220, R241). -/
def State.poisoned (s : State) (a n : Nat) : Bool :=
  ((List.range n).any fun i => s.poison.contains (memKey (a + i) / 64)) || s.rangeLost a n

/-- Sets the poison encoding of one 64-byte sector of a tier, named by an address in it (R220, R221). -/
def State.poisonSector (s : State) (a : Nat) : State := { s with poison := insNat (memKey a / 64) s.poison }

/-- Sets the poison marker of a line, named by an address in it: all four sectors of a tier's line (R221); one that was
clear in the Basin counts as a poisoned line created in its quarter (R191, R206). -/
def State.poisonLine (s : State) (a : Nat) : State :=
  let k := memKey a
  { s with
    poison := (List.range 4).foldl (fun l i => insNat (k / 256 * 4 + i) l) s.poison
    basin := if 0x80000000 ≤ k || s.poison.contains (k / 256 * 4) then s.basin
      else { s.basin with
        poisonMade := tput s.basin.poisonMade (k / 0x20000000) (tgetD 0#64 s.basin.poisonMade (k / 0x20000000) + 1#64) } }

/-- Clears the poison marker of a line. -/
def State.clearLine (s : State) (a : Nat) : State :=
  { s with poison := s.poison.filter fun l => l / 4 != memKey a / 256 }

/-- Clears the poison encoding of a sector of a tier (R221). -/
def State.clearSector (s : State) (a : Nat) : State :=
  { s with poison := s.poison.filter fun l => l != memKey a / 64 }

/-- The addresses of the lines that `n` bytes from `a` touch. -/
def lineAddrs (a n : Nat) : List Nat :=
  if n = 0 then [] else (List.range ((a % 256 + n + 255) / 256)).map fun i => (a / 256 + i) * 256

/-- The addresses of the lines that `n` bytes from `a` cover whole. -/
def wholeLines (a n : Nat) : List Nat := (lineAddrs a n).filter fun l => a ≤ l && l + 256 ≤ a + n

/-- The addresses of the 64-byte sectors that `n` bytes from `a` cover whole (R221). -/
def wholeSectors (a n : Nat) : List Nat :=
  (List.range (n / 64)).map (fun i => (a + 63) / 64 * 64 + 64 * i) |>.filter fun l => l + 64 ≤ a + n

/-- Writes bytes without touching poison. -/
def State.putBytes (s : State) (a : Nat) : List Byte → State
  | [] => s
  | b :: bs => (s.setByte a b).putBytes (a + 1) bs

/-- Bytes of a mooring cell (R427). -/
abbrev cellBytes : Nat := 65536

/-- The cells of a mooring group's own moored space that `n` bytes touch are dirty (R427, R430). -/
def Moor.mark (m : Moor) (allocs : Tbl Alloc) (a n : Nat) : Moor :=
  (m.space.foldl (fun (acc : Nat × Moor) key =>
    let len := ((tget allocs key).map (·.len)).getD 0
    let m' := if key ≤ a && a < key + len then
        let lo := (acc.1 + (a - key)) / cellBytes
        let hi := (acc.1 + (a - key) + (n - 1)) / cellBytes
        { acc.2 with dirty := (List.range (hi - lo + 1)).foldl (fun l i => insNat (lo + i) l) acc.2.dirty }
      else acc.2
    (acc.1 + len, m')) (0, m)).2

/-- Every write to a moored cell, by any master, marks it dirty (R430). -/
def State.markDirty (s : State) (a n : Nat) : State :=
  if s.moors.isEmpty || n = 0 then s
  else { s with moors := s.moors.map fun e => (e.1, e.2.mark s.allocs a n) }

/-- A store of unpoisoned bytes: a Basin line, or a sector of a tier, that is written whole loses its poison (R180,
R221). -/
def State.store (s : State) (a : Nat) (bs : List Byte) : State :=
  let s := (s.putBytes a bs).markDirty a bs.length
  if a < 0x100000000 then (wholeLines a bs.length).foldl (fun s l => s.clearLine l) s
  else (wholeSectors a bs.length).foldl (fun s l => s.clearSector l) s

/-- A store of poisoned bytes: every line it writes is poisoned (R192, R193). -/
def State.storePoisoned (s : State) (a : Nat) (bs : List Byte) : State :=
  (lineAddrs a bs.length).foldl (fun s l => s.poisonLine l) ((s.putBytes a bs).markDirty a bs.length)

/-- A store that is poisoned or not. -/
def State.storeP (s : State) (p : Bool) (a : Nat) (bs : List Byte) : State :=
  if p then s.storePoisoned a bs else s.store a bs

/-- A range cut into units: offset and length of each. -/
def cuts (off len unit : Nat) : List (Nat × Nat) :=
  (List.range ((len + unit - 1) / (max unit 1))).map fun i => (off + i * unit, min unit (len - i * unit))

/-- Stores data that came with the numbers of its poisoned 256-byte lines. -/
def State.storeLines (s : State) (a : Nat) (bs : List Byte) (poison : List Nat) : State :=
  ((cuts 0 bs.length 256).zip (List.range bs.length)).foldl (fun s x =>
    s.storeP (poison.contains x.2) (a + x.1.1) (slice bs x.1.1 x.1.2)) s

/-- Bytes with the numbers of their poisoned 256-byte lines. -/
def State.readLines (s : State) (a n : Nat) : List Byte × List Nat :=
  (s.bytes a n, (List.range ((n + 255) / 256)).filter fun l => s.poisoned (a + 256 * l) (min 256 (n - 256 * l)))

/-- Copies `n` bytes line by line, each destination line poisoned exactly when a source line it reads is (R191,
R193). -/
def State.copy (s : State) (src dst n : Nat) : State :=
  (lineAddrs dst n).foldl (fun s' l =>
    let lo := max l dst
    let k := min (l + 256) (dst + n) - lo
    s'.storeP (s.poisoned (src + (lo - dst)) k) lo (s.bytes (src + (lo - dst)) k)) s

/-! ### System areas of the Basin (R36, R37, R42, R175; places: log entry 156) -/

/-- The area through which an engine carries data between two units: 1 MiB. -/
abbrev areaTransit : Nat := 0x82000000
/-- The permute's system staging: 64 MiB (R352). -/
abbrev areaPermute : Nat := 0x84000000
/-- The forwarding area for detoured messages: 32 MiB (R386). -/
abbrev areaForward : Nat := 0x88000000
/-- The mooring's staging: 32 MiB (R42, R321). -/
abbrev areaMoor : Nat := 0x8A000000

/-- Carries `n` bytes from one unit to another through the Basin, a tile at a time (R36): they land in the transit area
and leave from it, each line with its poison. -/
def State.carry (s : State) (src dst n : Nat) : State :=
  (cuts 0 n 16384).foldl (fun s x =>
    let a := areaTransit + (dst + x.1) % 256
    (s.copy (src + x.1) a x.2).copy a (dst + x.1) x.2) s

/-- Lands data in a Basin area and gives back what stands there: bytes that leave the area do so as the area holds them
(R36). Data beyond the area's length pass by. -/
def State.landIn (s : State) (a len : Nat) (bs : List Byte) (poison : List Nat) : State × List Byte × List Nat :=
  let n := min len bs.length
  let s := s.storeLines a (bs.take n) poison
  let r := s.readLines a n
  (s, r.1 ++ bs.drop n, r.2 ++ poison.filter fun l => n ≤ 256 * l)

/-- Zeroes a range of memory keys and clears its poison, as an allocation's first contents (R214, R215). -/
def State.zeroKeys (s : State) (lo n : Nat) : State :=
  { s with
    mem := s.mem.filter fun c => !(lo ≤ c.1 && c.1 < lo + n)
    poison := s.poison.filter fun l => !(lo ≤ l * 64 && l * 64 < lo + n) }

/-- A scratchpad byte (R16): physical team, core, offset. -/
def scratchKey (team core off : Nat) : Nat := 131072 * (16 * team + core) + off

/-! ### Allocations and the resolution of addresses (R210 to R213) -/

/-- Where data of a command lies. -/
inductive Loc where
  /-- a host address of a function -/
  | host (addr : Nat)
  /-- a Basin or tier address, in the allocation that `id` names -/
  | part (addr id : Nat)
deriving DecidableEq, Repr

/-- A command at dispatch. -/
structure Cmd where
  /-- WORK_ID -/
  w : BitVec 64
  /-- opcode -/
  op : Nat
  /-- global ring number -/
  ring : Nat
  /-- function, 0 the PF -/
  fn : Nat
  /-- LENGTH -/
  len : Nat
  /-- payload -/
  p : List Byte
  /-- what its DMA reads of host memory return -/
  hm : HostImage
deriving DecidableEq, Repr

/-- The caller's paddock; the management session belongs to none, which reads as 15. -/
def Cmd.pad (c : Cmd) : Nat := if c.fn = 0 then 15 else c.fn - 1

/-- Whether the management session sent it (R63). -/
def Cmd.mgmt (c : Cmd) : Bool := c.fn = 0

/-- A payload field of one byte. -/
def Cmd.u8 (c : Cmd) (o : Nat) : Nat := fld c.p o 1
/-- A payload field of two bytes. -/
def Cmd.u16 (c : Cmd) (o : Nat) : Nat := fld c.p o 2
/-- A payload field of four bytes. -/
def Cmd.u32 (c : Cmd) (o : Nat) : Nat := fld c.p o 4
/-- A payload field of eight bytes. -/
def Cmd.u64 (c : Cmd) (o : Nat) : Nat := fld c.p o 8
/-- Whether bit 0 of the byte at an offset is set. -/
def Cmd.flag (c : Cmd) (o : Nat) : Bool := bitAt (fld c.p o 1) 0

/-- How a command ends that does not take its effect. -/
structure Err where
  /-- STATUS -/
  st : BitVec 16
  /-- RESULT -/
  res : BitVec 64
  /-- DETAIL -/
  det : BitVec 32
deriving DecidableEq, Repr

/-- The command ends with a status. -/
def fail {α : Type} (st : BitVec 16) (det : Nat := 0) (res : Nat := 0) : Except Err α :=
  .error { st := st, res := BitVec.ofNat 64 res, det := BitVec.ofNat 32 det }

/-- A check: the command ends with the status where it does not hold. -/
def need (ok : Bool) (st : BitVec 16) : Except Err Unit := if ok then .ok () else fail st

/-- A value that must be there. -/
def want {α : Type} (v : Option α) (st : BitVec 16) : Except Err α :=
  match v with
  | some a => .ok a
  | none => fail st

/-- Whether `n` bytes from an address lie inside an allocation: each page-aligned step and the last byte. -/
def rangeIn (a n : Nat) (e : Nat × Alloc) : Bool :=
  inAlloc a e.1 e.2 && (n = 0 || inAlloc (a + n - 1) e.1 e.2) &&
  (List.range (n / 16384 + 1)).all fun i => n = 0 || inAlloc (min (a + i * 16384) (a + n - 1)) e.1 e.2

/-- Whether an allocation may be read by a caller (R213, R236). -/
def mayRead (pad : Nat) (l : Alloc) : Bool :=
  l.owner = pad && pad ≠ 15 || (l.owner = 15 && (pad = 15 || l.grants.contains pad))

/-- Resolves an address field of a command over `n` bytes (R212, R213). The task and random-number commands name host
and Basin addresses only (R142, R170). A range with a lost page of the parking tier fails the command (R241). Reading NVW needs a sealed region (R230); nothing but NVW_PROGRAM writes NVW. -/
def State.resolve (s : State) (c : Cmd) (a n : Nat) (write : Bool) : Except Err Loc :=
  if a / 2 ^ 56 = 0xFA then
    if c.op / 256 = 0x02 || c.op / 256 = 0x0B then fail stNotPermitted
    else match s.allocAt a with
    | none => fail stNotPermitted
    | some e =>
      if !rangeIn a n e || e.2.sys || !(if write then e.2.owner = c.pad && c.pad ≠ 15 else mayRead c.pad e.2) then
        fail stNotPermitted
      else if e.2.tier = .nvw && (write || e.2.nvw ≠ .sealed) then fail (if write then stNotPermitted else stNvwState)
      else if s.rangeLost a n then fail stParkLost
      else .ok (.part a e.1)
  else
    match s.allocAt a with
    | some e =>
      if e.2.owner = c.pad && c.pad ≠ 15 then
        if rangeIn a n e && !e.2.sys then .ok (.part a e.1) else fail stNotPermitted
      else .ok (.host a)
    | none => .ok (.host a)

/-- A field that takes an address of the part only: an allocation of the caller's paddock in one of the tiers named,
over `n` bytes (R173, R213). -/
def State.ownRange (s : State) (c : Cmd) (a n : Nat) (tiers : List Tier) : Except Err (Nat × Alloc) :=
  match s.allocAt a with
  | none => fail stNotPermitted
  | some e =>
    if e.2.owner = c.pad && c.pad ≠ 15 && rangeIn a n e && tiers.contains e.2.tier && !e.2.sys then .ok e
    else fail stNotPermitted

/-- A DMA read of host memory: the piece that covers it, none for a completer abort (log entry 5). -/
def hostRead (hm : HostImage) (a n : Nat) : Option (List Byte) :=
  match hm.find? fun e => e.1 ≤ a && a + n ≤ e.1 + e.2.length with
  | none => if n = 0 then some [] else none
  | some e => some (slice e.2 (a - e.1) n)

/-- Reads `n` bytes where an address resolves to, with whether a poisoned line was read. A failed host read is
poisoned zeros, as for any tile that a PCIe engine reads (R191). -/
def State.readLoc (s : State) (c : Cmd) (l : Loc) (n : Nat) : List Byte × Bool :=
  match l with
  | .host a =>
    match hostRead c.hm a n with
    | some bs => (bs, false)
    | none => (List.replicate n 0#8, true)
  | .part a _ => (s.bytes a n, s.poisoned a n)

/-- Appends a posted write to host memory. -/
def State.hostWrite (s : State) (fn a : Nat) (bs : List Byte) (p : Bool) : State :=
  { s with out := { s.out with host := s.out.host ++
      [{ fn := fn, addr := BitVec.ofNat 64 a, bytes := bs, poisoned := p }] } }

/-- Writes bytes where an address resolves to. -/
def State.writeLoc (s : State) (fn : Nat) (l : Loc) (bs : List Byte) (p : Bool) : State :=
  match l with
  | .host a => s.hostWrite fn a bs p
  | .part a _ => s.storeP p a bs

/-- Reads `n` bytes that a command's field names. -/
def State.readBuf (s : State) (c : Cmd) (a n : Nat) : Except Err (List Byte × Bool) := do
  let l ← s.resolve c a n false
  .ok (s.readLoc c l n)

/-- Writes a response to the buffer that a command's field names. -/
def State.writeBuf (s : State) (c : Cmd) (a : Nat) (bs : List Byte) : Except Err State := do
  let l ← s.resolve c a bs.length true
  .ok (s.writeLoc c.fn l bs false)

/-! ### The event log (R536 to R539) -/

/-- The 64 bytes of a log entry (Table 17-5). -/
def Event.encode (e : Event) : List Byte :=
  leBytes 8 e.entry.toNat ++ leBytes 8 e.time.toNat ++ leBytes 2 e.typ.toNat ++
  [BitVec.ofNat 8 ((if e.alerting then 1 else 0) + (if e.acked then 2 else 0)), e.paddock] ++
  leBytes 2 e.status.toNat ++ leBytes 2 e.source.toNat ++ leBytes 8 e.wid.toNat ++ slice e.detail 0 32

/-- Whether an event is one that a RESIL_WAIT of a paddock waits for (R438): its paddock's, of a type whose bit the
mask holds. -/
def waitHears (pad : Nat) (mask : BitVec 32) (bitOf : BitVec 16 → Option Nat) (e : Event) : Bool :=
  (pad = 15 || e.paddock.toNat = pad) &&
  match bitOf e.typ with
  | some b => mask.getLsbD b
  | none => false

/-- The bit of RESIL_WAIT's event type mask for a type: the high byte of the type (R438). -/
def waitBit (ty : BitVec 16) : Option Nat := some (ty.toNat / 256)

/-- Wakes the RESIL_WAITs that an entered event concerns: the entry is written to each one's buffer (R438). -/
def State.wakeWaits (s : State) (e : Event) : State :=
  s.waits.foldl (fun s x =>
    match x.kind with
    | .resilEvent pad mask buf =>
      if waitHears pad mask waitBit e then
        let fn := if pad = 15 then 0 else pad + 1
        let s := match s.allocAt buf.toNat with
          | some a => if a.2.owner = pad then s.store buf.toNat e.encode else s.hostWrite fn buf.toNat e.encode false
          | none => s.hostWrite fn buf.toNat e.encode false
        s.complete x.wid stOk
      else s
    | _ => s) s

/-- Enters an event: at most 250,000 a second (R538), the oldest of 65,536 overwritten (R536), ALERT_N asserted by
an alerting type (R520, R539). -/
def State.logWith (s : State) (ty : BitVec 16) (alert : Bool) (pad : BitVec 8) (st src : BitVec 16) (w : BitVec 64)
    (det : List Byte) : State :=
  let sec := s.t / secNs
  let cnt := if s.log.rateSec = sec then s.log.rateCnt else 0
  if 250000 ≤ cnt then
    { s with log := { s.log with rateSec := sec, rateCnt := cnt, lost := satAdd 32 s.log.lost 1 } }
  else
    let e : Event := { entry := s.log.next, time := s.now, typ := ty, alerting := alert, acked := false,
                       paddock := pad, status := st, source := src, wid := w, detail := det }
    let es := s.log.entries ++ [e]
    let s := { s with
      log := { s.log with entries := if 65536 < es.length then es.drop 1 else es, next := s.log.next + 1#64,
                          rateSec := sec, rateCnt := cnt + 1 }
      pins := { s.pins with alertN := s.pins.alertN && !alert } }
    s.wakeWaits e

/-- Enters an event whose type decides whether it alerts. -/
def State.logEv (s : State) (ty : BitVec 16) (pad : BitVec 8 := 0xFF#8) (st : BitVec 16 := 0#16)
    (src : Nat := 0xFFFF) (w : BitVec 64 := 0#64) (det : List Byte := []) : State :=
  s.logWith ty (evAlerts ty) pad st (BitVec.ofNat 16 src) w det

/-- Logs the reason that an expert command gives (R539, COMMAND_REASON). -/
def State.reason (s : State) (c : Cmd) (r : Nat) : State :=
  s.logEv evCommandReason (padByte c.fn) 0#16 0xFFFF c.w (leBytes 4 r)

/-- Moves PART_STATE between READY and DEGRADED with the conditions of R413, logging DEGRADED. -/
def State.checkDegraded (s : State) : State :=
  let s' := s.refreshDegraded
  if s'.part.pstate = s.part.pstate then s
  else s'.logWith evPartState (s'.part.pstate = .degraded) 0xFF#8 0#16 0xFFFF#16 0#64
    (leBytes 1 s'.part.pstate.code)

/-! ### Host violations (R76) -/

/-- The violations a ring tolerates in 1 s (R76). -/
def State.errorBudget (s : State) (f : Nat) : Nat :=
  if f = 0 then 64 else ((tget s.paddocks (f - 1)).map (·.errorBudget)).getD 64

/-- Counts and logs a violation and quarantines the ring past its budget (R76, Table 2-10). -/
def State.countViolation (s : State) (r n : Nat) : State :=
  let f := ringFn r
  let recent := s.t :: (s.ring r).violTimes.filter fun u => s.t < u + secNs
  let s := s.modFn f fun x => { x with violations := x.violations + 1#32 }
  let quar := s.errorBudget f < recent.length && !(s.ring r).quarantined
  let s := s.modRing r fun g =>
    { g with violations := satAdd 16 g.violations 1, violTimes := recent, quarantined := g.quarantined || quar }
  let s := s.logEv evHostViolation (padByte f) stHostProtocol (f * 256 + ringK r) 0#64 (leBytes 4 n)
  if quar then s.logEv evRingQuarantined (padByte f) stHostProtocol (f * 256 + ringK r) else s

/-- Puts the answer of a violation into the ring's order, where a credit is free (R76). -/
def State.answerViolation (s : State) (r n : Nat) : State :=
  let g := s.ring r
  if 256 ≤ g.credits then s
  else
    let i : RItem :=
      { ser := s.ser, arrived := true, wid := 0#64, seq := 0#32, opcode := 0#16, sqHead := g.sqHead,
        accepted := false, settledOut := false, fin := true, status := stHostProtocol, result := 0#64,
        detail := BitVec.ofNat 32 n, hw := true, replayed := false }
    ({ (s.setRing r { g with fifo := g.fifo ++ [i], credits := g.credits + 1 }) with ser := s.ser + 1 }).flush r

/-! ### Dispatch (R57, R58) -/

/-- The accepted command of an opcode that Iluvo may dispatch now: every earlier command of its ring has been
dispatched, and with FENCE has completed (R58); after a warm reset the journal is settled before a command accepted
earlier is dispatched again (R421). -/
def State.startable (s : State) (op : Nat) (w : BitVec 64) : Option JRec :=
  if !s.part.pstate.running || s.part.mastersStopped then none
  else
    match s.journal.find? fun j => j.wid = w && j.state = .accepted && j.opcode.toNat = op with
    | none => none
    | some j =>
      if !s.part.settled && j.ser < s.part.warmSer then none
      else if s.journal.any fun q => q.ring = j.ring && q.ser < j.ser &&
          (q.state = .accepted || (j.fence && q.state != .done)) then none
      else some j

/-- The command of a journal record. -/
def JRec.cmd (j : JRec) (hm : HostImage) : Cmd :=
  { w := j.wid, op := j.opcode.toNat, ring := j.ring, fn := ringFn j.ring, len := j.payload.length, p := j.payload,
    hm := hm }

/-- Writes DISPATCHED before any effect (R418). -/
def State.markDispatched (s : State) (w : BitVec 64) : State :=
  { s with journal := s.journal.map fun q =>
      if q.wid = w && q.state = .accepted then { q with state := .dispatched } else q }

/-- The checks that every payload has (R10, R49). -/
def payloadOk (j : JRec) : Bool :=
  !j.resv && (match opInfo j.opcode.toNat with | some i => rsvClear i j.payload | none => true)

/-- What a command's body leaves: its state, or its failing status with nothing else changed (R57). -/
def State.ended (s : State) (w : BitVec 64) (r : Except Err State) : State :=
  match r with
  | .ok s' => s'
  | .error e => s.complete w e.st e.res e.det

/-- The dispatch of a command: where the record may start, it becomes DISPATCHED and the body runs; otherwise
nothing changes (log entry 4). -/
def State.dispatch (s : State) (op : Nat) (w : BitVec 64) (hm : HostImage) (body : Cmd → State → Except Err State) :
    State :=
  match s.startable op w with
  | none => s
  | some j =>
    let s1 := s.markDispatched w
    if !payloadOk j then s1.complete w stBadReserved
    else s1.ended w (body (j.cmd hm) s1)

/-- A command's success. -/
def State.ok (s : State) (c : Cmd) (res : Nat := 0) (det : Nat := 0) : State :=
  s.complete c.w stOk (BitVec.ofNat 64 res) (BitVec.ofNat 32 det)

end Sys2Proof.Machine
end

