-- ==== Sys2Proof/Machine/MemOps.lean ====
section
/-! DEFINITION. Allocation and release of memory in the tiers (R210 to R218, R230, R236 to R241): pages, quotas,
bands, NVW blocks and parking ranges. -/

namespace Sys2Proof.Machine

open Sys2Proof

/-- The page of a kind of allocation (Table 7-3). -/
def pageSize : Tier → Bool → Nat
  | .hbm, _ => 0x200000
  | .basin, _ => 0x4000
  | .nvw, true => 0x4000000
  | .nvw, false => 0x10000000
  | .park, _ => 0x200000

/-- A length rounded up to whole pages (R214). -/
def roundUp (n k : Nat) : Nat := (n + k - 1) / k * k

/-- The code of a tier in a tier address (Table 7-2). -/
def tierCode : Tier → Nat
  | .hbm => 0
  | .basin => 1
  | .nvw => 2
  | .park => 3

/-- The first byte of an owner's space of a tier (Table 7-2). -/
def tierBase (tier : Tier) (owner : Nat) : Nat := 0xFA * 2 ^ 56 + tierCode tier * 2 ^ 52 + owner * 2 ^ 48

/-- The die of the most teams of an allotment, the lowest number winning a tie (R176, R210). -/
def State.homeDie (s : State) (pad : Nat) : Nat :=
  let ts := ((tget s.paddocks pad).map (·.teams)).getD []
  let cnt := fun d => (ts.filter fun l => s.dieOf l = d).length
  (List.range 4).foldl (fun best d => if cnt best < cnt d then d else best) 0

/-- Bytes of a tier that a paddock's allocations hold. -/
def State.useOf (s : State) (pad : Nat) (tier : Tier) : Nat :=
  sumNat ((s.allocs.filter fun e => e.2.owner = pad && e.2.tier = tier && e.2.nvw != .detached).map (·.2.len))

/-- A paddock's quota of a tier, in bytes (Table 2-13). -/
def Paddock.quota (p : Paddock) : Tier → Nat
  | .hbm => p.hbmQuota * 2 ^ 30
  | .basin => p.basinQuota * 2 ^ 20
  | .nvw => p.nvwQuota * 2 ^ 26
  | .park => p.parkQuota * 2 ^ 30

/-- Whether an allocation of `len` bytes stays within its owner's quota (R215). Shared regions count against none
(R236). -/
def State.withinQuota (s : State) (owner : Nat) (tier : Tier) (len : Nat) : Bool :=
  match tget s.paddocks owner with
  | none => true
  | some p => s.useOf owner tier + len ≤ p.quota tier

/-! ### HBM4 bands (R216, R218) -/

/-- The use of frame index `f`: 0 a global band, 1 near bands, 2 system reserve, 3 unassigned. The reserve begins as
the first 32 indices (2 GiB on each stack), the next ten and 256 pages of the next (8 GiB) (R218, log entry 12). -/
def Hbm.bandOf (h : Hbm) (f : Nat) : Nat :=
  match tget h.bandUse f with
  | some k => k
  | none => if f < 42 then 2 else if f = 42 then 0 else 3

/-- Pages taken of a global band. -/
def Hbm.globTaken (h : Hbm) (f : Nat) : Nat :=
  match tget h.globUse f with
  | some k => k
  | none => if f = 42 then 256 else 0

/-- Pages taken of near band (f, d). -/
def Hbm.nearTaken (h : Hbm) (f d : Nat) : Nat := tgetD 0 h.nearUse (4 * f + d)

/-- Free pages that a frame index can give to an allocation: global, or near on die `d`. -/
def Hbm.freeIn (h : Hbm) (near : Bool) (d f : Nat) : Nat :=
  match h.bandOf f with
  | 0 => if near then 0 else 384 - h.globTaken f
  | 1 => if near then 96 - h.nearTaken f d else 0
  | 3 => if near then 96 else 384
  | _ => 0

/-- The frame indices an allocation takes pages of: assigned bands first, then unassigned ones, lowest first. -/
def Hbm.plan (h : Hbm) (near : Bool) (d pages : Nat) : Option (List (Nat × Nat)) :=
  let order := (List.range 1024).filter (fun f => h.bandOf f < 2) ++ (List.range 1024).filter fun f => h.bandOf f = 3
  let r := order.foldl (fun (acc : Nat × List (Nat × Nat)) f =>
    let k := min acc.1 (h.freeIn near d f)
    if k = 0 then acc else (acc.1 - k, acc.2 ++ [(f, k)])) (pages, [])
  if r.1 = 0 then some r.2 else none

/-- Whether Farrier has an index of a domain under test or being margined (R488, R499): domain 0 teams, 2 channels. -/
def State.underTest (s : State) (domain i : Nat) : Bool :=
  s.farrier.runs.any (fun r => r.domain = domain && r.left.contains i) ||
  s.farrier.margins.any fun m => m.index = i && ((domain = 0 && m.kind = 2) || (domain = 2 && m.kind = 0))

/-- Whether the pages that an allocation could take lie on a channel under test (R504). -/
def State.hbmHeld (s : State) (near : Bool) (d : Nat) : Bool :=
  (List.range 384).any fun c => s.underTest 2 c && !(tgetD Chan.reset s.hbm.chans c).mapped && (!near || c / 96 = d)

/-- The numbers of free pages of a band, with the band's frame index: page p holds granules 4,096p to 4,096p + 4,095
(R217). -/
def State.bandPages (s : State) (near : Bool) (d f k : Nat) : List (Nat × Nat) :=
  let used := (s.allocs.filter fun e => e.2.tier = .hbm && e.2.near = near && (!near || e.2.die = d)).flatMap fun e =>
    (e.2.pages.filter fun q => q.1 = f).map (·.2)
  (((List.range (if near then 96 else 384)).filter fun p =>
    (near || f != 42 || 256 ≤ p) && !used.contains p).take k).map fun p => (f, p)

/-- Takes planned pages. -/
def Hbm.take (h : Hbm) (near : Bool) (d : Nat) (ps : List (Nat × Nat)) : Hbm :=
  ps.foldl (fun h e =>
    if near then
      { h with nearUse := tput h.nearUse (4 * e.1 + d) (h.nearTaken e.1 d + e.2), bandUse := tput h.bandUse e.1 1 }
    else { h with globUse := tput h.globUse e.1 (h.globTaken e.1 + e.2), bandUse := tput h.bandUse e.1 0 }) h

/-- Gives pages back; an index whose pages are all free is unassigned again (R216). -/
def Hbm.give (h : Hbm) (near : Bool) (d : Nat) (ps : List (Nat × Nat)) : Hbm :=
  ps.foldl (fun h e =>
    let h := if near then { h with nearUse := tput h.nearUse (4 * e.1 + d) (h.nearTaken e.1 d - e.2) }
             else { h with globUse := tput h.globUse e.1 (h.globTaken e.1 - e.2) }
    let empty := if near then (List.range 4).all fun q => h.nearTaken e.1 q = 0 else h.globTaken e.1 = 0
    if empty then { h with bandUse := tput h.bandUse e.1 3 } else h) h

/-- The channel and byte offset in its frame of granule `g` of a band (R217, before redirect). -/
def hbmPlace (near : Bool) (d g : Nat) : Nat × Nat :=
  let m := if near then 96 else 384
  let row := g / m
  let sl := (g + 13 * row) % m
  let c := if near then 32 * (3 * d + sl % 3) + sl / 3 else 32 * (sl % 12) + sl / 12
  (c, row * 512)

/-- The frame that serves frame `f` of channel `c` (R217, R227): its substitute, and where the substitute's channel is
mapped out in its turn, that frame's own substitute. -/
def Hbm.redirectN (h : Hbm) : Nat → Nat → Nat → Nat × Nat
  | 0, c, f => (c, f)
  | n + 1, c, f =>
    match tget h.subst (1024 * c + f) with
    | some k =>
      if f < (tgetD Chan.reset h.chans c).switched && k != 1024 * c + f then h.redirectN n (k / 1024) (k % 1024) else (c, f)
    | none => (c, f)

/-- redirect of R217: a chain is no longer than the channels are many. -/
def Hbm.redirect (h : Hbm) (c f : Nat) : Nat × Nat := h.redirectN 384 c f

/-- HBM4 capacity in service less the system reserve, in GiB (R218). -/
def Hbm.poolGiB (h : Hbm) : Nat :=
  768 - 2 * (h.chans.filter fun e => e.2.mapped).length - (8 + 2 * (12 - h.reserveUsed.length))

/-! ### NVW blocks (R230, R238) -/

/-- The physical blocks of a stack that allocations hold. -/
def State.nvwUsed (s : State) (k : Nat) : List Nat :=
  (s.allocs.filter fun e => e.2.tier = .nvw).flatMap fun e => (e.2.pages.filter fun q => q.1 = k).map (·.2)

/-- The cycles of a block. -/
def NvwStack.cyc (n : NvwStack) (b : Nat) : Nat := (tgetD 0#16 n.cycles b).toNat

/-- The free blocks of a stack, least worn first (R238). -/
def State.nvwFree (s : State) (k : Nat) : List Nat :=
  let n := s.nvwStack k
  let used := s.nvwUsed k
  let all := (List.range 8448).filter fun b => !used.contains b && !n.retired.contains b
  (sortOn n.cyc all).take (n.capacity - used.length)

/-- The least worn block of a stack that no allocation holds and that is not retired, the spares among them (R238). -/
def State.nvwSpare (s : State) (k : Nat) : Option Nat :=
  let used := s.nvwUsed k
  (sortOn (s.nvwStack k).cyc ((List.range 8448).filter fun b =>
    !used.contains b && !(s.nvwStack k).retired.contains b))[0]?

/-- The blocks of a new region: `n` pages, each one block on its die's stack or one on each stack. -/
def State.nvwPlan (s : State) (near : Bool) (d n : Nat) : Option (List (Nat × Nat)) :=
  let stks := if near then [d] else [0, 1, 2, 3]
  if stks.all fun k => n ≤ (s.nvwFree k).length then
    some (stks.flatMap fun k => ((s.nvwFree k).take n).map fun b => (k, b))
  else none

/-- Counts one cycle on each block of a list; a block that reaches 10,000 is retired and replaced by a spare, or the
stack shrinks (R238). The blocks retired are returned. -/
def State.cycleBlocks (s : State) (ps : List (Nat × Nat)) : State × List (Nat × Nat) :=
  ps.foldl (fun acc e =>
    let (s, gone) := acc
    let n := s.nvwStack e.1
    let c := n.cyc e.2 + 1
    let n := { n with cycles := tput n.cycles e.2 (BitVec.ofNat 16 c) }
    if 10000 ≤ c then
      let n := { n with retired := insNat e.2 n.retired,
                        spare := n.spare - 1,
                        capacity := if n.spare = 0 then n.capacity - 1 else n.capacity }
      let s := { s with nvw := tputD NvwStack.reset s.nvw e.1 n }
      (s.logWith evNvwBlockRetired (n.spare = 0) 0xFF#8 0#16 (BitVec.ofNat 16 e.1) 0#64 (leBytes 4 e.2), gone ++ [e])
    else ({ s with nvw := tputD NvwStack.reset s.nvw e.1 n }, gone)) (s, [])

/-! ### The parking tier (R239, R241) -/

/-- The ranges that the devices in service give: the interleave sets' common parts, then each remainder: key,
devices, pages. A set that has lost a device gives remainders only (R241). -/
def Cxl.allRanges (x : Cxl) : List (Nat × List Nat × Nat) :=
  let live := x.devs.filter fun e => e.2.inService
  let sets := dedupNat (live.map (·.2.iset))
  sets.flatMap fun k =>
    let ms := live.filter fun e => e.2.iset = k
    let spent := ms.foldl (fun m e => max m e.2.spent) 0
    let low := if spent = 0 then ms.foldl (fun m e => min m e.2.capacity) (2 ^ 20) else spent
    (if spent = 0 then [(8 * k, ms.map (·.1), low * ms.length * 512)] else []) ++
      (ms.filter fun e => low < e.2.capacity).map fun e => (8 * k + 1 + e.1, [e.1], (e.2.capacity - low) * 512)

/-- The ranges in use: at most 4 TiB in order; capacity beyond is not mapped (R239). -/
def Cxl.ranges (x : Cxl) : List (Nat × List Nat × Nat) :=
  (x.allRanges.foldl (fun (acc : Nat × List (Nat × List Nat × Nat)) e =>
    (acc.1 - e.2.2, acc.2 ++ [(e.1, e.2.1, min acc.1 e.2.2)])) (4096 * 512, [])).2

/-- Pages of a range that allocations hold. -/
def State.rangeUsed (s : State) (key : Nat) : Nat :=
  sumNat ((s.allocs.filter fun e => e.2.tier = .park).flatMap fun e =>
    (e.2.pages.filter fun q => q.1 = key).map (·.2))

/-- Parking-tier capacity present, in GiB, at most 4 TiB (R239). -/
def Cxl.presentGiB (x : Cxl) : Nat :=
  min 4096 (sumNat ((x.devs.filter fun e => e.2.inService).map (·.2.capacity)))

/-- The pages of a parking allocation, from the ranges in order, and the devices they lie on. -/
def State.parkPlan (s : State) (pages : Nat) : Option (List (Nat × Nat) × List Nat) :=
  let r := s.cxl.ranges.foldl (fun (acc : Nat × List (Nat × Nat) × List Nat) e =>
    let k := min acc.1 (e.2.2 - s.rangeUsed e.1)
    if k = 0 then acc else (acc.1 - k, acc.2.1 ++ [(e.1, k)], e.2.1.foldl (fun l d => insNat d l) acc.2.2)) (pages, [], [])
  if r.1 = 0 then some r.2 else none

/-! ### Places (R214, R176) -/

/-- The tiles, as tile numbers of one quarter, that an allocation holds there: first and one past the last. -/
def tilesIn (q : Nat) (e : Nat × Alloc) : Nat × Nat :=
  if e.2.tier != .basin then (0, 0)
  else if e.1 < 0x80000000 then
    if e.1 / 0x20000000 = q then (e.1 % 0x20000000 / 16384, e.1 % 0x20000000 / 16384 + e.2.len / 16384) else (0, 0)
  else
    let j0 := (e.1 - 0x80000000) / 16384
    let j1 := j0 + e.2.len / 16384
    ((j0 + 3 - q) / 4, (j1 + 3 - q) / 4)

/-- Whether `n` tiles of a quarter from tile `t` lie in the paddock pool and in no allocation (R175, R214). -/
def State.tilesFree (s : State) (q t n : Nat) : Bool :=
  4096 ≤ t && t + n ≤ 32768 &&
  s.allocs.all fun e => let r := tilesIn q e; r.2 ≤ r.1 || r.2 ≤ t || t + n ≤ r.1

/-- Whether `n` interleaved tiles from tile `j` are free. -/
def State.interFree (s : State) (j n : Nat) : Bool :=
  (List.range 4).all fun q =>
    let a := (j + 3 - q) / 4
    let b := (j + n + 3 - q) / 4
    b ≤ a || s.tilesFree q a (b - a)

/-- The first of some places that will do. -/
def firstFit (ok : Nat → Bool) (cands : List Nat) : Option Nat := cands.find? ok

/-- The Basin address of a new allocation: a free value where it fits, else the first place that does
(log entry 10). -/
def State.basinPlace (s : State) (near : Bool) (q len : Nat) : Option Nat × State :=
  let n := len / 16384
  let (v, s') := s.draw
  if near then
    let ends := s.allocs.map fun e => (tilesIn q e).2
    let c := firstFit (fun t => s.tilesFree q t n) ((4096 + v.toNat % 28672) :: 4096 :: ends)
    (c.map fun t => q * 0x20000000 + t * 16384, s')
  else
    let ends := s.allocs.flatMap fun e => (List.range 4).map fun k =>
      let r := tilesIn k e
      if r.2 ≤ r.1 then 16384 else 4 * (r.2 - 1) + k + 1
    let c := firstFit (fun j => s.interFree j n) ((16384 + v.toNat % 114688) :: 16384 :: 16385 :: 16386 :: 16387 :: ends)
    (c.map fun j => 0x80000000 + j * 16384, s')

/-- Whether `len` bytes of an owner's space from `a` hold no live allocation. -/
def State.spaceFree (s : State) (a len : Nat) : Bool :=
  s.allocs.all fun e => e.1 + e.2.len ≤ a || a + len ≤ e.1

/-- The tier address of a new allocation: a free value where it fits, else the first place that does
(log entry 10). -/
def State.tierPlace (s : State) (tier : Tier) (owner page len : Nat) : Option Nat × State :=
  let base := tierBase tier owner
  let lim := base + 2 ^ 48
  let (v, s') := s.draw
  let ends := (s.allocs.filter fun e => base ≤ e.1 && e.1 < lim).map fun e => roundUp (e.1 + e.2.len - base) page + base
  (firstFit (fun a => a + len ≤ lim && s.spaceFree a len) ((base + v.toNat % (2 ^ 48 / page) * page) :: base :: ends), s')

/-! ### Allocation and release -/

/-- A request for memory. -/
structure AllocReq where
  /-- owner: 0 to 7, or 15 shared -/
  owner : Nat
  /-- tier -/
  tier : Tier
  /-- NEAR -/
  near : Bool
  /-- die or quarter of a near allocation -/
  die : Nat
  /-- bytes asked for -/
  len : Nat
  /-- PERSIST -/
  persist : Bool
  /-- MOORED -/
  moored : Bool
  /-- made by Iluvo for another command -/
  sys : Bool
deriving DecidableEq, Repr

/-- Takes free pages for a request within the quota, for the parking tier where a device is in service (R215). -/
def State.allocTier (s : State) (r : AllocReq) (page len pages : Nat) (l : Alloc) : Except Err (Nat × State) :=
  match r.tier with
  | .basin =>
    match s.basinPlace r.near r.die len with
    | (none, _) => fail stTierFull
    | (some a, s') => .ok (a, { s' with allocs := tput s'.allocs a l })
  | .hbm =>
    match (if s.hbmHeld r.near r.die then none else s.hbm.plan r.near r.die pages) with
    | none => fail stTierFull
    | some ps =>
      match s.tierPlace .hbm r.owner page len with
      | (none, _) => fail stTierFull
      | (some a, s') =>
        let l' := { l with pages := ps.flatMap fun e => s.bandPages r.near r.die e.1 e.2 }
        .ok (a, { s' with allocs := tput s'.allocs a l', hbm := s'.hbm.take r.near r.die ps })
  | .nvw =>
    match s.nvwPlan r.near r.die pages with
    | none => fail stTierFull
    | some ps =>
      match s.tierPlace .nvw r.owner page len with
      | (none, _) => fail stTierFull
      | (some a, s') => .ok (a, { s' with allocs := tput s'.allocs a { l with pages := ps } })
  | .park =>
    if s.cxl.devs.all fun e => !e.2.inService then fail stParkUnavailable
    else
      match s.parkPlan pages with
      | none => fail stTierFull
      | some (ps, ds) =>
        match s.tierPlace .park r.owner page len with
        | (none, _) => fail stTierFull
        | (some a, s') => .ok (a, { s' with allocs := tput s'.allocs a { l with pages := ps, dev := ds } })

/-- Allocates: quota first, then for the parking tier a device in service, then free pages (R215). The contents are
zeros, or for NVW erased and not readable (Table 7-3). -/
def State.allocate (s : State) (r : AllocReq) : Except Err (Nat × State) :=
  let page := pageSize r.tier r.near
  let len := roundUp r.len page
  if !s.withinQuota r.owner r.tier len then fail stQuota
  else s.allocTier r page len (len / page)
    { owner := r.owner, tier := r.tier, near := r.near, die := r.die, len := len, persist := r.persist,
      moored := r.moored, sys := r.sys, dev := [], lost := [], nvw := .erased, programmed := 0, torn := none,
      pages := [], digest := [], grants := [], keyTag := [] }

/-- Forgets the bytes and poison of an allocation's range. -/
def State.wipe (s : State) (a : Nat) (l : Alloc) : State :=
  { s with
    mem := s.mem.filter fun c => !inAlloc c.1 a l
    poison := s.poison.filter fun k => !inAlloc (k * 64) a l }

/-- Releases an allocation: its pages return, its contents are zeroed or erased before reuse (R214, R238, R245), and Kryto
measures the region no longer (R235). -/
def State.release (s : State) (a : Nat) : State :=
  match tget s.allocs a with
  | none => s
  | some l =>
    let s := { (s.wipe a l) with allocs := tdel s.allocs a }
    match l.tier with
    | .hbm => { s with hbm := s.hbm.give l.near l.die (l.pages.map fun e => (e.1, 1)) }
    | .nvw =>
      let s : State := { s with kryto := { s.kryto with measures := tdel s.kryto.measures a } }
      if l.programmed = 0 then s else (s.cycleBlocks l.pages).1
    | _ => s

/-- Releases each allocation of a list. -/
def State.releaseAll (s : State) (as : List Nat) : State := as.foldl (fun s a => s.release a) s

/-- Whether an allocation is in use: named by a dispatched bind, an NVW_PROGRAM, a task's argument block or a grant,
holding the ring of a stream, or protected by a mooring group (R236, R245, R427). -/
def State.allocInUse (s : State) (a : Nat) (l : Alloc) : Bool :=
  s.basin.binds.any (fun b => !b.host && inAlloc b.addr a l) ||
  s.nvwProgs.any (fun p => p.region = a || (p.stream = 0 && inAlloc p.src a l)) ||
  s.tasks.any (fun e => (match e.2.state with | .done => false | .failed => false | .aborted => false | _ => true) &&
    inAlloc e.2.argSrc a l) ||
  !l.grants.isEmpty ||
  s.streams.any (fun e => inAlloc e.2.buf a l) ||
  s.moors.any fun e => e.2.space.contains a

end Sys2Proof.Machine
end

