-- ==== Sys2Proof/Machine/BasinOps.lean ====
section
/-! DEFINITION. Streams, barriers and bound engines (R181 to R208): the ring credit, the delivery of bursts, aborts
and rearms, arrivals and phases, and the end of a bind. -/

namespace Sys2Proof.Machine

open Sys2Proof

/-! ### Registers of a task's teams -/

/-- The key of a context of a core of a logical team. -/
def ctxKey (team core ctx : Nat) : Nat := 4 * (16 * team + core) + ctx

/-- A context (Table 5-1). -/
def State.ctx (s : State) (k : Nat) : Ctx := tgetD Ctx.reset s.ctxs k

/-- Writes a context. -/
def State.setCtx (s : State) (k : Nat) (v : Ctx) : State := { s with ctxs := tputD Ctx.reset s.ctxs k v }

/-- Changes a context. -/
def State.modCtx (s : State) (k : Nat) (f : Ctx → Ctx) : State := s.setCtx k (f (s.ctx k))

/-- A task by its launch's WORK_ID. -/
def State.task (s : State) (w : BitVec 64) : Option Task := (s.tasks.find? fun e => e.1 = w).map (·.2)

/-- Changes a task. -/
def State.modTask (s : State) (w : BitVec 64) (f : Task → Task) : State :=
  { s with tasks := s.tasks.map fun e => if e.1 = w then (e.1, f e.2) else e }

/-- Writes a scalar register of every core of one team of a task, from unpoisoned sources (R187, log entry 13). -/
def State.setTeamReg (s : State) (w : BitVec 64) (rank reg : Nat) (v : BitVec 64) : State :=
  match s.task w with
  | none => s
  | some t =>
    match t.teams[rank]? with
    | none => s
    | some l => (List.range 16).foldl (fun s c =>
        s.modCtx (ctxKey l c t.ctx) fun x =>
          { x with sregs := tputD 0#64 x.sregs reg v, poison := x.poison.filter fun p => p != reg }) s

/-- The result word of an instruction on streams and barriers: written to a scalar register of every core of the
team (R187, log entry 13). -/
def State.answer (s : State) (w : BitVec 64) (rank reg : Nat) (v : BitVec 64) : State :=
  if reg < 32 then s.setTeamReg w rank reg v else s

/-- The status word of Table 6-5. -/
def statusWord (count : Nat) (fin aborted poison refused failed : Bool) : BitVec 64 :=
  BitVec.ofNat 64 (count + (if fin then 2 ^ 16 else 0) + (if aborted then 2 ^ 17 else 0) +
    (if poison then 2 ^ 18 else 0) + (if refused then 2 ^ 19 else 0) + (if failed then 2 ^ 20 else 0))

/-- The status word of a stream or barrier instruction that did nothing (Table 6-5). -/
def refusedWord : BitVec 64 := statusWord 0 false false false true false

/-- Answers REFUSED and logs it (Table 6-5). The spec gives the event no type: it is a free value (log entry 27). -/
def State.refuse (s : State) (w : BitVec 64) (rank reg : Nat) : State :=
  let p := ((s.task w).map (·.paddock)).getD 0xFF
  let l := ((s.task w).bind fun t => t.teams[rank]?).getD 0xFFFF
  (s.answer w rank reg refusedWord).logEv Config.refusedEvent (BitVec.ofNat 8 p) 0#16 l w

/-! ### Streams -/

/-- The tile of engine size (R181). -/
abbrev tileBytes : Nat := 16384

/-- A consumer of a stream. -/
def Stream.con (st : Stream) (c : Nat) : Consumer := tgetD Consumer.reset st.cons c

/-- A consumer that holds no slot any longer (R186). -/
def Consumer.release (c : Consumer) : Consumer := { c with held := 0, keep := [] }

/-- Writes a consumer. -/
def Stream.setCon (st : Stream) (c : Nat) (v : Consumer) : Stream :=
  { st with cons := tputD Consumer.reset st.cons c v }

/-- Writes a stream. -/
def State.setStream (s : State) (h : Nat) (v : Stream) : State := { s with streams := tput s.streams h v }

/-- Changes a stream that exists. -/
def State.modStream (s : State) (h : Nat) (f : Stream → Stream) : State := { s with streams := tmod s.streams h f }

/-- The address of tile `t` of a stream's ring (R181). -/
def Stream.slotAddr (st : Stream) (t : Nat) : Nat := st.buf + t % st.depth * tileBytes

/-- Whether the producer may commit tile `t`: every consumer has released the tile that its slot held (R183, R186).
A consumer stopped by a master reset holds nothing. -/
def Stream.credit (st : Stream) (t : Nat) : Bool :=
  (List.range st.nCons).all fun c => (st.con c).stopped ||
    (t < (st.con c).read - (st.con c).held + st.depth && !(st.con c).keep.contains (t % st.depth))

/-- COMMITTED after tile `t` has committed: the longest run from 0 (R183). -/
def Stream.commitTile (st : Stream) (t : Nat) : Stream :=
  let early := insNat t st.early
  let rec run : Nat → Nat → List Nat → Nat × List Nat
    | 0, n, l => (n, l)
    | k + 1, n, l => if l.contains n then run k (n + 1) (l.filter (· != n)) else (n, l)
  let r := run early.length st.committed early
  { st with committed := r.1, early := r.2 }

/-- Whether a commit is discarded: the stream is not OPEN, or the tile lies at or beyond EXPECTED (R183). -/
def Stream.refuses (st : Stream) (t : Nat) : Bool := st.state != .opened || (st.expected != 0 && st.expected ≤ t)

/-- Where a burst's count ends: P once aborted, else COMMITTED (R184, R185). -/
def Stream.limit (st : Stream) : Nat := if st.state = .aborted then st.poisonLimit else st.committed

/-- The tiles that a burst of `n` by consumer `c` delivers now, none while it waits (R184, R185). -/
def Stream.ready (st : Stream) (c n : Nat) : Option Nat :=
  let r := (st.con c).read
  match st.state with
  | .opened => if n ≤ st.committed - r then some n else none
  | _ =>
    let k := min n (st.limit - r)
    if r + k ≤ st.committed || k = 0 then some k else none

/-- The poisoned tiles among `k` tiles of a stream from index `t`. -/
def State.poisonTiles (s : State) (st : Stream) (t k : Nat) : Nat :=
  ((List.range k).filter fun i => s.poisoned (st.slotAddr (t + i)) tileBytes).length

/-! ### Barriers (R194 to R197) -/

/-- Whether a stream has ended for a drain: CLOSED or ABORTED, every consumer with END (R196). A freed stream holds
no phase. -/
def State.drained (s : State) (h : Nat) : Bool :=
  match tget s.streams h with
  | none => true
  | some st => st.state != .opened && (List.range st.nCons).all fun c => (st.con c).endSeen || (st.con c).stopped

/-- A consumer after a rearm: READ_c is 0, and the slots of its latest burst stay held (R186). -/
def Consumer.rearm (c : Consumer) (depth : Nat) : Consumer :=
  { Consumer.reset with keep := c.keep ++ (List.range c.held).map fun i => (c.read - c.held + i) % max 1 depth }

/-- A stream returned to OPEN at index 0, its buffer, its bound ends and the slots that consumers hold kept (R186). -/
def Stream.rearm (st : Stream) : Stream :=
  { st with state := .opened, committed := 0, early := [], poisonLimit := 0, endDone := false,
            cons := (st.cons.map fun e => (e.1, e.2.rearm st.depth)).filter fun e => e.2 != Consumer.reset }

/-- Completes phases of a barrier while its arrivals and drains allow (R194, R196): waiting teams receive their
status word, waiting commands complete. -/
def State.barrierTry (h : Nat) : Nat → State → State
  | 0, s => s
  | k + 1, s =>
    match tget s.barriers h with
    | none => s
    | some b =>
      if b.count < b.expect || !(b.drains.all fun d => s.drained d) then s
      else
        let s := if b.autoRearm then b.drains.foldl (fun s d => s.modStream d Stream.rearm) s else s
        let cnt := min b.next b.expect
        let b' : Barrier := { b with phase := b.phase + 1, count := cnt, next := b.next - cnt,
                                     waitTasks := b.waitTasks.filter (fun x => x.1.phase != b.phase),
                                     waitCmds := b.waitCmds.filter (fun x => x.2 != b.phase) }
        let s : State := { s with barriers := tput s.barriers h b' }
        let s := (b.waitTasks.filter fun x => x.1.phase = b.phase).foldl
          (fun s x => s.setTeamReg x.1.task x.1.rank x.2 (statusWord 0 false false false false false)) s
        let s := (b.waitCmds.filter fun x => x.2 = b.phase).foldl
          (fun s x => s.complete x.1 stOk (BitVec.ofNat 64 b.phase)) s
        State.barrierTry h k s

/-- The phase in which an arrival made now counts (R194, R196). -/
def Barrier.arrivalPhase (b : Barrier) : Nat :=
  if b.count < b.expect then b.phase else b.phase + 1 + b.next / b.expect

/-- One arrival at a barrier; a handle that no longer exists is ignored (R194, R196). -/
def State.arrive (s : State) (h : Nat) : State :=
  match tget s.barriers h with
  | none => s
  | some b =>
    let b' := if b.count < b.expect then { b with count := b.count + 1 } else { b with next := b.next + 1 }
    State.barrierTry h (b'.next + 2) { s with barriers := tput s.barriers h b' }

/-- Barriers that drain a stream look again after it ended or was freed (R196). -/
def State.drainChanged (s : State) (h : Nat) : State :=
  (s.barriers.filter fun e => e.2.drains.contains h).foldl
    (fun s e => State.barrierTry e.1 (e.2.next + 2) s) s

/-- After a consumer's END: the END is logged if asked, the end barrier is reached when every consumer has END
(R186, R206), and drain barriers look again. -/
def State.endChanged (s : State) (h : Nat) : State :=
  match tget s.streams h with
  | none => s
  | some st =>
    let all := (List.range st.nCons).all fun c => (st.con c).endSeen || (st.con c).stopped
    if all && st.state != .opened then
      let s := s.completeAll ((s.waits.filter fun x => x.kind = .streamEnd h).map (·.wid)) stOk
      let s := if st.endBarrier != 0 && !st.endDone then
          (s.modStream h fun x => { x with endDone := true }).arrive st.endBarrier else s
      s.drainChanged h
    else s

/-- Delivers a burst: READ_c advances, the tiles are held, END and POISON are worked out (R184, R185, R187). Gives
the count, the first index, END, ABORTED and POISON. -/
def State.deliver (s : State) (h c n : Nat) : State × Option (Nat × Nat × Bool × Bool × Bool) :=
  match tget s.streams h with
  | none => (s, none)
  | some st =>
    match st.ready c n with
    | none => (s, none)
    | some k =>
      let con := st.con c
      let fin := st.state != .opened && con.read + k = st.limit
      let pt := s.poisonTiles st con.read k
      let st' := { (st.setCon c { con with read := con.read + k, held := k, endSeen := con.endSeen || fin }) with
                     poisonTiles := min (st.poisonTiles + pt) (2 ^ 32 - 1) }
      let s := s.setStream h st'
      let s := if fin && !con.endSeen then
          let s := if st.logEnd then
              s.logEv evStreamEnd (BitVec.ofNat 8 st.paddock) 0#16 0xFFFF 0#64 (leBytes 4 h) else s
          s.endChanged h
        else s
      (s, some (k, con.read, fin, st.state = .aborted, pt != 0))

/-- Fixes the poison limit of an OPEN stream and aborts it (R182, R185). -/
def State.abortStream (s : State) (h : Nat) : State :=
  match tget s.streams h with
  | none => s
  | some st =>
    if st.state != .opened then s
    else
      let p := if st.expected != 0 then st.expected
        else st.waiting.foldl (fun m b =>
          if b.consumer = 0xFFFF then m else max m ((st.con b.consumer).read + b.n)) st.committed
      let s := (st.waiting.filter fun b => b.consumer = 0xFFFF).foldl (fun s b =>
        match b.who with
        | .task w rank => s.refuse w rank b.rs
        | _ => s) s
      (s.setStream h { st with state := .aborted, poisonLimit := p,
                               waiting := st.waiting.filter fun b => b.consumer != 0xFFFF }).endChanged h

/-- Closes an OPEN stream (R182). -/
def State.closeStream (s : State) (h : Nat) : State :=
  (s.modStream h fun st => if st.state = .opened then { st with state := .closed } else st).endChanged h

/-- Whether a stream has ended for STREAM_FREE and rearm: CLOSED or ABORTED, END at every consumer (R182, R186). -/
def Stream.ended (st : Stream) : Bool :=
  st.state != .opened && (List.range st.nCons).all fun c => (st.con c).endSeen || (st.con c).stopped

/-- Frees a stream: every burst still waiting completes with COUNT 0, END and ABORTED, and the stream leaves every
barrier's drain list (R182, R196). -/
def State.freeStream (s : State) (h : Nat) : State :=
  match tget s.streams h with
  | none => s
  | some st =>
    let drains := s.barriers.filter fun e => e.2.drains.contains h
    let s := { s with streams := tdel s.streams h
                      barriers := s.barriers.map fun e => (e.1, { e.2 with drains := e.2.drains.filter (· != h) }) }
    let s := st.waiting.foldl (fun s b =>
      match b.who with
      | .task w rank => s.answer w rank b.rs (statusWord 0 true true false false false)
      | .engine w => { s with basin := { s.basin with binds := s.basin.binds.map fun x =>
          if x.wid = w then { x with gotEnd := true } else x } }
      | _ => s) s
    drains.foldl (fun s e => State.barrierTry e.1 (e.2.next + 2) s) s

/-- The master at an end is reset: an OPEN stream is aborted, a consumer end counts as having END, the end is no
longer bound (R202). -/
def State.resetEnd (s : State) (isEnd : End → Bool) : State :=
  s.streams.foldl (fun s e =>
    let st := e.2
    let cs := st.consEnd.filter fun x => isEnd x.2
    let prod := match st.producer with | some p => isEnd p | none => false
    if cs.isEmpty && !prod then s
    else
      let s := s.modStream e.1 fun x =>
        { cs.foldl (fun x c => x.setCon c.1 { (x.con c.1).release with stopped := true }) x with
            waiting := x.waiting.filter fun b => !isEnd b.who
            consEnd := x.consEnd.filter fun y => !isEnd y.2
            producer := if prod then none else x.producer }
      (s.abortStream e.1).endChanged e.1) s

/-! ### Bound engines (R207) -/

/-- Changes a bind. -/
def State.modBind (s : State) (w : BitVec 64) (f : Bind → Bind) : State :=
  { s with basin := { s.basin with binds := s.basin.binds.map fun b => if b.wid = w then f b else b } }

/-- The bind of a command. -/
def State.bindOf (s : State) (w : BitVec 64) : Option Bind := s.basin.binds.find? fun b => b.wid = w

/-- The memory or host address of a bind's tile and line (R207). -/
def Bind.lineAddr (b : Bind) (tile line : Nat) : Nat :=
  b.addr + tile * (if b.stride = 0 then tileBytes else b.stride) + line * 256

/-- Takes a bind off its stream. -/
def State.unbind (s : State) (b : Bind) : State :=
  let s := s.modStream b.handle fun st =>
    { st with producer := if b.consumer.isNone then none else st.producer
              consEnd := match b.consumer with | some c => tdel st.consEnd c | none => st.consEnd
              waiting := st.waiting.filter fun x => x.who != .engine b.wid }
  { s with basin := { s.basin with binds := s.basin.binds.filter fun x => x.wid != b.wid } }

/-- Ends a bind with the first status of R207's list that applies, and makes its done arrival where that status
allows one. A producer that ends well closes its stream unless KEEP_OPEN is set. -/
def State.endBind (s : State) (b : Bind) : State :=
  let aborted : Bool := match tget s.streams b.handle with | some st => st.state = .aborted | none => true
  let st := if b.failStatus != 0#16 then b.failStatus
    else if aborted then stStreamAborted
    else if b.poisonOut then stDataPoisoned
    else stOk
  let s := s.unbind b
  let s := if b.consumer.isNone && !b.keepOpen && b.failStatus = 0#16 then s.closeStream b.handle else s
  let s := if b.done != 0 && b.failStatus = 0#16 then s.arrive b.done else s
  s.complete b.wid st (BitVec.ofNat 64 b.moved) (BitVec.ofNat 32 b.poisoned)

/-- Resets a bound engine: its requests in flight are dropped, its stream aborted, its command failed with the
status given (R201, R202). -/
def State.resetBind (s : State) (w : BitVec 64) (st : BitVec 16) : State :=
  match s.bindOf w with
  | none => s
  | some b =>
    let s : State := { s with basin := { s.basin with tags := s.basin.tags.map fun (t : TagReq) =>
      if t.wid = w then { t with dropped := true } else t } }
    let s := s.resetEnd (fun e => e = .engine w)
    ({ s with basin := { s.basin with binds := s.basin.binds.filter fun x => x.wid != w } }).complete w st
      (BitVec.ofNat 64 b.moved) (BitVec.ofNat 32 b.poisoned)

/-- The tiles that an NVW_PROGRAM has programmed. -/
def State.progDone (s : State) (p : NvwProg) : Nat := ((tget s.allocs p.region).map (·.programmed)).getD 0 - p.start

/-- Ends an NVW_PROGRAM: RESULT counts the tiles programmed, DETAIL those programmed again (R232). -/
def State.endProg (s : State) (p : NvwProg) (st : BitVec 16) : State :=
  let n := s.progDone p
  let s : State := { s with nvwProgs := s.nvwProgs.filter fun x => x.wid != p.wid }
  let s := if p.stream = 0 then s else s.modStream p.stream fun x =>
    { (x.setCon p.consumer (x.con p.consumer).release) with consEnd := tdel x.consEnd p.consumer }
  s.complete p.wid st (BitVec.ofNat 64 n) (BitVec.ofNat 32 p.reprog)

/-- Resets the engine of an NVW_PROGRAM: its source stream is aborted, the end counts as having END, and the command
fails with the status given (R201, R202). -/
def State.resetProg (s : State) (p : NvwProg) (st : BitVec 16) : State :=
  (s.resetEnd fun e => e = .engine p.wid).endProg p st

/-- Commits a tile of a producer's transfer in its slot, line by line, each line's poison with it (R178, R183). -/
def State.commitSlot (s : State) (h t : Nat) (lines : List (Bool × List Byte)) : State :=
  match tget s.streams h with
  | none => s
  | some st =>
    let a := st.slotAddr t
    let s := (lines.zip (List.range lines.length)).foldl
      (fun s e => s.storeP e.1.1 (a + e.2 * 256) e.1.2) s
    s.setStream h (st.commitTile t)

/-- Destroys a barrier: its waiters are released with FAILED set, a waiting command with ST_BAD_BARRIER (R197,
log entry 17). -/
def State.destroyBarrier (s : State) (h : Nat) (b : Barrier) : State :=
  let s : State := { s with barriers := tdel s.barriers h }
  let s := b.waitTasks.foldl (fun s x => s.setTeamReg x.1.task x.1.rank x.2
    (statusWord 0 false false false false true)) s
  s.completeAll (b.waitCmds.map (·.1)) stBadBarrier

end Sys2Proof.Machine
end

