-- ==== Sys2Proof/Machine/Rng.lean ====
section
/-! DEFINITION. The random-number generators and transforms (R129 to R136, R139): CB4x32-10, uniforms, the normal
transform, the table transform and the native generator. -/

namespace Sys2Proof.Machine

open Sys2Proof

/-- The state of one round: four words and two key words. -/
abbrev CbState := BitVec 32 × BitVec 32 × BitVec 32 × BitVec 32 × BitVec 32 × BitVec 32

/-- One round of CB4x32-10 (R129). -/
def cbRound (s : CbState) : CbState :=
  let (x0, x1, x2, x3, k0, k1) := s
  let x0 := x0 + (x1 ^^^ k0)
  let x3 := x3 ^^^ x0.rotateLeft 7
  let x2 := x2 * 0xB5C34E19#32
  let x2 := x2 ^^^ (x2 >>> 15)
  let x1 := x1 + (x2 ^^^ k1)
  let x0 := x0 ^^^ x1.rotateLeft 13
  let x3 := x3 * 0x9E6D27A3#32
  let x3 := x3 ^^^ (x3 >>> 16)
  (x1, x2, x3, x0, k0 + 0x6A1FC0D3#32, k1.rotateLeft 11 + 0x5B903E27#32)

/-- Rounds. -/
def cbRounds : Nat → CbState → CbState
  | 0, s => s
  | n + 1, s => cbRounds n (cbRound s)

/-- CB4x32-10: the block of a key and a counter (R129). -/
def cb4 (key : BitVec 64) (ctr : BitVec 128) : List (BitVec 32) :=
  let (x0, x1, x2, x3, k0, k1) := cbRounds 10
    (ctr.extractLsb' 0 32, ctr.extractLsb' 32 32, ctr.extractLsb' 64 32, ctr.extractLsb' 96 32,
     key.extractLsb' 0 32, key.extractLsb' 32 32)
  [x0 + k1, x1 ^^^ k0, x2 + k0, x3 ^^^ k1]

/-- The counter of a domain, subject, stream and index (Table 4-3). -/
def cbCounter (domain : BitVec 4) (subject : BitVec 28) (stream : BitVec 32) (index : BitVec 64) : BitVec 128 :=
  domain ++ subject ++ stream ++ index

/-- The random integer of stochastic rounding: the low 24 bits of the first word (R104). -/
def srInt (seed : BitVec 64) (stream : BitVec 32) (index : Nat) : Nat :=
  (((cb4 seed (cbCounter 1 0 stream (BitVec.ofNat 64 index)))[0]?).getD 0#32).toNat % 2 ^ 24

/-- The uniform value of a word, exact in FP32 (R134). -/
def uniform (w : BitVec 32) : F32 := toF32 .rne (.fin false (2 * (w >>> 9).toNat + 1) (-24))

/-- cos and sin of 2 pi u (R135). -/
def cs2pi (u : F32) : F32 × F32 :=
  let q := roundEven (fmul .rne u 0x40800000#32)
  let f := fsub .rne u (fmul .rne (fOfInt .rne q) 0x3E800000#32)
  let x := fmul .rne f 0x40C90FDB#32
  let z := fmul .rne x x
  let p := fma (fma (fma z 0x37D00D01#32 (fneg cE6)) z cE4) z (fneg cE2)
  let c := fma p z fOne
  let p := fma (fma (fma z 0x3638EF1D#32 (fneg cE7)) z cE5) z (fneg cE3)
  let s := fma (fmul .rne p z) x x
  match q % 4 with
  | 0 => (c, s)
  | 1 => (fneg s, c)
  | 2 => (fneg c, fneg s)
  | _ => (s, fneg c)

/-- One pair of normal deviates from two uniforms (R135). -/
def normalPair (u v : F32) : List F32 :=
  let r := fsqrt .rne (fmul .rne 0xC0000000#32 (flog u))
  let cs := cs2pi v
  [fmul .rne r cs.1, fmul .rne r cs.2]

/-- The normal transform of a block (R135). -/
def normal4 (b : List (BitVec 32)) : List F32 :=
  match b.map uniform with
  | [a, b, c, d] => normalPair a b ++ normalPair c d
  | _ => []

/-- A normal deviate by table (R136). -/
def tbNormal (tab : Nat → F32) (w : BitVec 32) : F32 :=
  let i := (w >>> 20).toNat
  let f := toF32 .rne (.fin false (w &&& 0xFFFFF#32).toNat (-20))
  fma f (fsub .rne (tab (i + 1)) (tab i)) (tab i)

/-- The square root of 2 pi, times 2^200. -/
def sqrt2pi : Nat := 0x281b263fec4e0b2caf9483f5ce459dc5f19f3ea6416000b50dc

/-- The integral of exp(-t^2/2) from 0 to x, both times 2^200, by its series. -/
def gaussSeries (x : Nat) : Nat → Nat → Nat → Int → Int
  | 0, _, _, acc => acc
  | n + 1, k, term, acc =>
    let t : Int := term / (2 * k + 1)
    gaussSeries x n (k + 1) (term * (x * x / 2 ^ 200) / 2 ^ 200 / (2 * (k + 1))) (if k % 2 = 0 then acc + t else acc - t)

/-- Whether the point halfway between FP32 code c and the next lies below the quantile of (i + 1/2)/4097, i above
the middle. -/
def belowQuantile (i c : Nat) : Bool :=
  match Fmt.fp32.decode c with
  | .fin _ m e =>
    let x := (toUnits (2 * m + 1) (e - 1) (-200)).1
    x < 2 ^ 203 && gaussSeries x 160 0 x 0 < (((2 * i + 1 - 4097) * sqrt2pi / 8194 : Nat) : Int)
  | _ => false

/-- The least FP32 code not below the quantile, by its bits from the top. -/
def quantileGo (i : Nat) : Nat → Nat → Nat
  | 0, c => c
  | b + 1, c => if belowQuantile i (c + 2 ^ b - 1) then quantileGo i b (c + 2 ^ b) else quantileGo i b c

/-- The default table: the FP32 value nearest the standard normal quantile at (i + 0.5)/4097 (R136). -/
def normTable (i : Nat) : F32 :=
  if i = 2048 then 0#32
  else if 2048 < i then BitVec.ofNat 32 (quantileGo i 31 0)
  else BitVec.ofNat 32 (quantileGo (4096 - i) 31 0) ||| 0x80000000#32

/-! ### Native generators (R139) -/

/-- A state that is not all zeros (R139). -/
def natFix (s : BitVec 128) : BitVec 128 := if s = 0#128 then 1#128 else s

/-- The state that LFSEED sets (R139): the block in domain 15, with the context as subject and the lane as index. -/
def natSeed (seed : BitVec 64) (ctx lane : Nat) : BitVec 128 :=
  match cb4 seed (cbCounter 15 (BitVec.ofNat 28 ctx) 0 (BitVec.ofNat 64 lane)) with
  | [a, b, c, d] => natFix (d ++ c ++ b ++ a)
  | _ => 1#128

/-- LFRAND: the next state and the new word s[3] (R139). -/
def natNext (s : BitVec 128) : BitVec 128 × BitVec 32 :=
  let s0 := s.extractLsb' 0 32
  let s3 := s.extractLsb' 96 32
  let t := s0 ^^^ (s0 <<< 11)
  let n := s3 ^^^ (s3 >>> 19) ^^^ t ^^^ (t >>> 8)
  (n ++ s.extractLsb' 32 96, n)

/-- The logical lane index (R139). -/
def laneIndex (team core lane : Nat) : Nat := (team * 16 + core) * 32 + lane

end Sys2Proof.Machine
end

