-- ==== Sys2Proof/Machine/TaskOps.lean ====
section
/-! DEFINITION. Tasks (R153 to R168): placement and windows, suspension, saving and restoring, the end of a task,
exceptions, and the failure and substitution of teams (R414 to R416). -/

namespace Sys2Proof.Machine

open Sys2Proof

/-- Whether a state is final (Table 5-5). -/
def TaskState.final : TaskState → Bool
  | .done => true
  | .failed => true
  | .aborted => true
  | _ => false

/-- The teams of a paddock's allotment. -/
def State.allotment (s : State) (p : Nat) : List Nat := ((tget s.paddocks p).map (·.teams)).getD []

/-- The running task of a team, by its active context. -/
def State.running (s : State) (l : Nat) : Option (BitVec 64) :=
  match (s.team l).active with
  | none => none
  | some c => (tget (s.team l).ctxs c).map (·.wid)

/-- Whether a team is in service, not being replaced, and has no active context (R154, R415). -/
def State.teamIdle (s : State) (l : Nat) : Bool := s.teamUp l && (s.team l).active.isNone

/-- Whether a team is free for a task: idle, with a context number free (R154). -/
def State.teamFree (s : State) (l : Nat) : Bool := s.teamIdle l && (s.team l).ctxs.length < 4

/-- Clears a context of a team: registers at 0, the native generators of seed 0 (R145, R153). -/
def State.clearCtx (s : State) (l c : Nat) : State :=
  { s with ctxs := s.ctxs.filter fun e => !((List.range 16).any fun k => e.1 = ctxKey l k c) }

/-! ### Placement (R154 to R156) -/

/-- The teams that placement chooses among those that `free` admits, none while they are not free; a mask is held to
the present allotment (R154, R163). -/
def State.chooseTeams (s : State) (p n : Nat) (mask : Option (List Nat)) (free : Nat → Bool) : Option (List Nat) :=
  match mask with
  | some m => if m.all fun l => free l && (s.allotment p).contains l then some m else none
  | none =>
    let free := (s.allotment p).filter free
    let die := (List.range 4).find? fun d => n ≤ (free.filter fun l => s.dieOf l = d).length
    match die with
    | some d => some ((free.filter fun l => s.dieOf l = d).take n)
    | none => if n ≤ free.length then some (free.take n) else none

/-- The free teams that suspended victims have left (R156). -/
def State.victimTeams (s : State) (p : Nat) : List Nat :=
  (s.tasks.filter fun e => e.2.paddock = p && e.2.victim &&
    (e.2.state = .suspResident || e.2.state = .suspSaved)).flatMap fun e => e.2.teams

/-- The teams that an URGENT task takes: where it needs victims' teams, free teams first, then theirs, each
lowest-numbered first (R156). A victim's idle team counts though its four contexts are held: placement then frees one by
a conversion (R154, R159). -/
def State.chooseUrgent (s : State) (p n : Nat) (mask : Option (List Nat)) : Option (List Nat) :=
  let vt := s.victimTeams p
  let usable := fun (l : Nat) => s.teamFree l || (vt.contains l && s.teamIdle l)
  let free := (s.allotment p).filter usable
  let plain := free.filter fun l => !vt.contains l
  if mask.isSome then s.chooseTeams p n mask usable
  else if n ≤ plain.length || free.length < n then s.chooseTeams p n none s.teamFree
  else some (sortOn id ((plain ++ (free.filter fun l => vt.contains l)).take n))

/-- The lowest context number free on every one of some teams (R154). -/
def State.freeCtx (s : State) (ts : List Nat) (want : Option Nat) : Option Nat :=
  (match want with | some c => [c] | none => [0, 1, 2, 3]).find? fun c => ts.all fun l => !thas (s.team l).ctxs c

/-- Whether a window of `w` units at an offset overlaps another context's window on a team, in full or only in its
live bytes (R160). -/
def Team.clash (t : Team) (off w : Nat) (liveOnly : Bool) : Bool :=
  t.ctxs.any fun e =>
    let hi := if liveOnly then e.2.offset * 4096 + min (e.2.live * 256) (e.2.window * 4096)
              else (e.2.offset + e.2.window) * 4096
    e.2.offset * 4096 < (off + w) * 4096 && off * 4096 < hi && e.2.offset * 4096 < hi

/-- The lowest window offset that overlaps no window, else the lowest that overlaps only dead bytes (R160). -/
def State.windowAt (s : State) (ts : List Nat) (w : Nat) : Option Nat :=
  let offs := List.range (33 - w)
  match offs.find? fun o => ts.all fun l => !(s.team l).clash o w false with
  | some o => some o
  | none => offs.find? fun o => ts.all fun l => !(s.team l).clash o w true

/-- Whether a task waits for teams: queued, or suspended and to be resumed (R155, R156, R164). -/
def Task.awaits (t : Task) : Bool :=
  match t.state with
  | .queued => true
  | .suspResident => (t.victim || t.resumeBy.isSome) && !t.saving
  | .suspSaved => (t.victim || t.resumeBy.isSome) && !t.restoring
  | _ => false

/-- The teams that a task which waits for placement would take now (R154, R156, R170). -/
def State.teamsFor (s : State) (t : Task) : Option (List Nat) :=
  let mask := match t.resumeMask with | some m => some m | none => t.mask
  if t.urgent then s.chooseUrgent t.paddock t.teamsN mask else s.chooseTeams t.paddock t.teamsN mask s.teamFree

/-- Whether a waiting task would find its teams now. -/
def State.fits (s : State) (w : BitVec 64) (t : Task) : Bool :=
  match t.state with
  | .suspResident => t.teams.all fun l => (s.team l).active.isNone && s.teamUp l &&
      (match tget (s.team l).ctxs t.ctx with | some x => x.wid = w | none => false)
  | _ => (s.teamsFor t).isSome

/-- The order of a paddock's waiting tasks: URGENT first, then resumed victims, then NORMAL ones by dispatch
(R155, R156). -/
def Task.rank (t : Task) : Nat :=
  (if t.urgent then 0 else if t.victim then 1 else 2) * 2 ^ 64 + t.order

/-- Whether placing a task now keeps the order of R155 and R156: no waiting task of its paddock that comes before it
would fit, and no earlier one of its class has waited 10 ms. -/
def State.mayPlace (s : State) (w : BitVec 64) (t : Task) : Bool :=
  s.tasks.all fun e =>
    !(e.2.paddock = t.paddock && e.1 != w && e.2.awaits && e.2.rank < t.rank) ||
    (!s.fits e.1 e.2 && !(e.2.urgent = t.urgent && e.2.queuedAt + 10 * msNs ≤ s.t))

/-- The live units of the window of a rank while a task stands at its points: SCRATCH_LIVE of its marked point, or the
whole window (R151, R158). -/
def Task.liveUnits (t : Task) (k : Kernel) (rank : Nat) : Nat :=
  match tget t.pps rank with
  | some i => ((k.pps[i]?).map (·.scratch)).getD (k.window * 16)
  | none => k.window * 16

/-! ### Registers at start, save and restore (R153, R161 to R164) -/

/-- The registers of one core's context at a task's start (R153). -/
def startCtx (arg rank core n team ctx : Nat) (entry : BitVec 32) : Ctx :=
  { Ctx.reset with
    pc := entry
    gen := (List.range 32).map fun j => (j, natSeed 0 ctx (laneIndex team core j))
    sregs := [(1, BitVec.ofNat 64 arg), (2, BitVec.ofNat 64 rank), (3, BitVec.ofNat 64 core), (4, BitVec.ofNat 64 n)].filter
      fun e => e.2 != 0#64 }

/-- Occupies teams with a task's context. -/
def State.occupy (s : State) (w : BitVec 64) (ts : List Nat) (c off win : Nat) : State :=
  ts.foldl (fun s l => s.modTeam l fun t =>
    { t with active := some c
             ctxs := tput t.ctxs c { wid := w, offset := off, window := win, live := win * 16, product := false,
                                     accs := [], accPoison := [] }
             accDrops := 0#64, accInf := 0#64, accNan := 0#64 }) s

/-- Puts the counters of a task's teams into the task and clears them (R112, R170). -/
def State.gather (s : State) (w : BitVec 64) (t : Task) : State :=
  let add := fun (f : Team → BitVec 64) (a : BitVec 64) => t.teams.foldl (fun a l => satAdd 64 a (f (s.team l)).toNat) a
  let s' := s.modTask w fun x => { x with drops := add (·.accDrops) t.drops, infs := add (·.accInf) t.infs,
                                          nans := add (·.accNan) t.nans }
  t.teams.foldl (fun s l => s.modTeam l fun x => { x with accDrops := 0#64, accInf := 0#64, accNan := 0#64 }) s'

/-- Empties a team's array: no product open, every accumulator zero and clean. -/
def State.emptyArray (s : State) (l : Nat) : State :=
  (List.range 16).foldl (fun s c => { s with cores := tputD Core.reset s.cores (16 * l + c) Core.reset })
    (s.modTeam l fun m => { m with product := false, accs := [] })

/-- The context leaves the array at a suspension: an open product's accumulators go with it (R158, R164). -/
def State.shelve (s : State) (l c : Nat) : State :=
  let m := s.team l
  if m.active != some c then s
  else
    let bad := (List.range 16).filter fun k => (tgetD Core.reset s.cores (16 * l + k)).accPoison
    (s.modTeam l fun m => { m with active := none, ctxs := tmod m.ctxs c fun x =>
      { x with product := m.product, accs := m.accs, accPoison := bad } }).emptyArray l

/-- The context owns the array again, with the accumulators that it left with (R148, R164). -/
def State.unshelve (s : State) (l c : Nat) : State :=
  match tget (s.team l).ctxs c with
  | none => s
  | some x =>
    (List.range 16).foldl (fun s k =>
      { s with cores := tputD Core.reset s.cores (16 * l + k) { accPoison := x.accPoison.contains k } })
      (s.modTeam l fun m => { m with active := some c, product := x.product, accs := x.accs,
                                     ctxs := tmod m.ctxs c fun y => { y with product := false, accs := [], accPoison := [] } })

/-- Frees a task's contexts and windows on its teams, and reseeds the contexts (R145, R166). -/
def State.vacate (s : State) (w : BitVec 64) (t : Task) : State :=
  t.teams.foldl (fun s l =>
    match tget (s.team l).ctxs t.ctx with
    | none => s
    | some x =>
      if x.wid = w then
        let s := if (s.team l).active = some t.ctx then s.emptyArray l else s
        (s.modTeam l fun m => { m with active := if m.active = some t.ctx then none else m.active,
                                       ctxs := tdel m.ctxs t.ctx }).clearCtx l t.ctx
      else s) s

/-! ### The save record (R161, Table 5-6) -/

/-- Address of the save record of a core. -/
def Task.record (t : Task) (k : Kernel) (rank core : Nat) : Nat :=
  t.saveArea + (16 * rank + core) * (9216 + k.window * 4096)

/-- Writes the live fields of a core's record to the save area: the 192 control bytes, which have no layout, as free
bytes; the generators; the live registers; the accumulators of an open product; the live window bytes. -/
def State.writeSave (s : State) (t : Task) (k : Kernel) (x : TeamCtx) (rank l core : Nat) : State :=
  let a := t.record k rank core
  let c := s.ctx (ctxKey l core t.ctx)
  let live := fun (f : PpEntry → Bool) => match (tget t.pps rank).bind fun i => k.pps[i]? with
    | some e => f e
    | none => true
  let (ctl, s) := s.drawBytes 192
  let s := s.store a ctl
  let s := s.store (a + 192) ((List.range 32).flatMap fun j =>
    leBytes 16 ((tget c.gen j).getD (natSeed 0 t.ctx (laneIndex l core j))).toNat)
  let s := (List.range 32).foldl (fun s i =>
    if live (·.slive.getLsbD i) then s.store (a + 704 + 8 * i) (leBytes 8 (tgetD 0#64 c.sregs i).toNat) else s) s
  let s := (List.range 8).foldl (fun s i =>
    if live (·.mlive.getLsbD i) then s.store (a + 960 + 8 * i) (leBytes 8 (tgetD 0#64 c.mregs i).toNat) else s) s
  let s := (List.range 32).foldl (fun s i =>
    if live (·.vlive.getLsbD i) then
      s.store (a + 1024 + 128 * i) ((List.range 32).flatMap fun j => leBytes 4 (tgetD 0#32 c.vregs (32 * i + j)).toNat)
    else s) s
  let s := if (tget t.pps rank).isNone && x.product then
      s.store (a + 5120) ((List.range 64).flatMap fun d => (tgetD Acc.reset x.accs (64 * core + d)).ep64)
    else s
  s.store (a + 9216) ((List.range (t.liveUnits k rank * 256)).map fun i =>
    tgetD 0#8 s.scratch (scratchKey (s.physOf l) core (x.offset * 4096 + i)))

/-- What a save keeps beside the record's bytes: the control state and the poison bits. -/
def State.saveCore (s : State) (t : Task) (x : TeamCtx) (rank l core : Nat) : CoreSave :=
  { rank := rank, core := core,
    ctl := { s.ctx (ctxKey l core t.ctx) with gen := [], sregs := [], mregs := [], vregs := [] },
    product := (tget t.pps rank).isNone && x.product, accPoison := x.accPoison.contains core }

/-- Saves every core of a task: the records in rank and core order (R161). -/
def State.saveTask (s : State) (t : Task) (k : Kernel) : List CoreSave × State :=
  (((List.range t.teams.length).zip t.teams).flatMap fun e => (List.range 16).map fun c => (e, c)).foldl
    (fun acc e =>
      let x := tgetD { wid := 0#64, offset := 0, window := k.window, live := 0, product := false, accs := [],
                       accPoison := [] : TeamCtx } (acc.2.team e.1.2).ctxs t.ctx
      (acc.1 ++ [acc.2.saveCore t x e.1.1 e.1.2 e.2], acc.2.writeSave t k x e.1.1 e.1.2 e.2)) ([], s)

/-- Gives every dead register of a context a free value (R151, R164): the entry's live sets decide. -/
def State.scramble (s : State) (key : Nat) (e : PpEntry) : State :=
  let n := s.free
  let word := fun (i : Nat) => Config.freeWord (n + i)
  let s1 := s.modCtx key fun x =>
    { x with
      sregs := (List.range 32).foldl (fun r i =>
        if e.slive.getLsbD i then r else tputD 0#64 r i (word i)) x.sregs
      mregs := (List.range 8).foldl (fun r i =>
        if e.mlive.getLsbD i then r else tputD 0#64 r i (word (32 + i))) x.mregs
      vregs := (List.range 1024).foldl (fun r i =>
        if e.vlive.getLsbD (i / 32) then r else tputD 0#32 r i ((word (40 + i)).truncate 32)) x.vregs }
  { s1 with free := n + 1064 }

/-- Gives `n` scratchpad bytes from a key free values (R164). -/
def State.scrambleScratch (s : State) (lo n : Nat) : State :=
  let block := (List.range n).filterMap fun i =>
    let b : Byte := (Config.freeWord (s.free + i)).truncate 8
    if b = 0#8 then none else some (lo + i, b)
  { s with free := s.free + n
           scratch := (s.scratch.filter fun c => c.1 < lo) ++ block ++ s.scratch.filter fun c => lo + n ≤ c.1 }

/-- Gives the dead state of a task that resumes from marked points free values: the registers outside each live set
and the window bytes beyond SCRATCH_LIVE (R164). -/
def State.scrambleTask (s : State) (t : Task) (k : Kernel) : State :=
  t.pps.foldl (fun s p =>
    match t.teams[p.1]?, k.pps[p.2]? with
    | some l, some e =>
      let off := ((tget (s.team l).ctxs t.ctx).map (·.offset)).getD 0
      (List.range 16).foldl (fun s c =>
        (s.scramble (ctxKey l c t.ctx) e).scrambleScratch (scratchKey (s.physOf l) c (off * 4096 + e.scratch * 256))
          (k.window * 4096 - e.scratch * 256)) s
    | _, _ => s) s

/-- The context that a core's record gives back: its control state, and the generators and registers of the record's
bytes; a register read from a poisoned line is poisoned (R161, R192). -/
def State.readSave (s : State) (a : Nat) (ctl : Ctx) : Ctx :=
  let word := fun (o n : Nat) => leNat (s.bytes (a + o) n)
  let bad := ((List.range 32).filter fun i => s.poisoned (a + 704 + 8 * i) 8) ++
    ((List.range 8).filter fun i => s.poisoned (a + 960 + 8 * i) 8).map (32 + ·) ++
    ((List.range 32).filter fun i => s.poisoned (a + 1024 + 128 * i) 128).map (40 + ·)
  { ctl with
    gen := (List.range 32).map fun j => (j, BitVec.ofNat 128 (word (192 + 16 * j) 16))
    sregs := (List.range 32).foldl (fun r i => tputD 0#64 r i (BitVec.ofNat 64 (word (704 + 8 * i) 8))) []
    mregs := (List.range 8).foldl (fun r i => tputD 0#64 r i (BitVec.ofNat 64 (word (960 + 8 * i) 8))) []
    vregs := (List.range 1024).foldl (fun r i => tputD 0#32 r i (BitVec.ofNat 32 (word (1024 + 4 * i) 4))) []
    poison := bad.foldl (fun l r => insNat r l) ctl.poison }

/-- Gives one core its saved state back from its record, at the window's new offset (R160, R161, R164). -/
def State.restoreCore (s : State) (t : Task) (k : Kernel) (off : Nat) (cs : CoreSave) : State :=
  match t.teams[cs.rank]? with
  | none => s
  | some l =>
    let a := t.record k cs.rank cs.core
    let live := s.bytes (a + 9216) (t.liveUnits k cs.rank * 256)
    let s : State := { s.setCtx (ctxKey l cs.core t.ctx) (s.readSave a cs.ctl) with
      scratch := (live.zip (List.range live.length)).foldl
        (fun m e => tputD 0#8 m (scratchKey (s.physOf l) cs.core (off * 4096 + e.2)) e.1) s.scratch }
    if !cs.product then s
    else
      let accs := (List.range 64).map fun d => (64 * cs.core + d, Acc.ofEp64 (s.bytes (a + 5120 + 64 * d) 64))
      let p := cs.accPoison || s.poisoned (a + 5120) 4096
      { s.modTeam l fun m =>
          { m with product := true, accs := accs.foldl (fun t e => tputD Acc.reset t e.1 e.2) m.accs } with
        cores := tputD Core.reset s.cores (16 * l + cs.core) { accPoison := p } }

/-- Reissues what was withdrawn at a stop (R158, R164): reads and writes wait at their streams again, barrier waits
at their barriers, unless their phase has completed meanwhile. -/
def State.reissue (s : State) (w : BitVec 64) (t : Task) : State :=
  let s := t.withdrawn.foldl (fun s e =>
    let (rank, h, b) := e
    if thas s.streams h then s.modStream h fun st => { st with waiting := st.waiting ++ [b] }
    else s.refuse w rank b.rs) s
  let s := t.withdrawnBars.foldl (fun s e =>
    let (h, a, rs) := e
    match tget s.barriers h with
    | none => s.refuse w a.rank rs
    | some b =>
      if a.phase < b.phase then s.setTeamReg w a.rank rs (statusWord 0 false false false false false)
      else { s with barriers := tput s.barriers h { b with waitTasks := b.waitTasks ++ [(a, rs)] } }) s
  s.modTask w fun x => { x with withdrawn := [], withdrawnBars := [] }

/-- Withdraws what a rank waits for at streams and barriers (R158). -/
def State.withdraw (s : State) (w : BitVec 64) (rank : Nat) : State :=
  let mine := fun (b : Burst) => b.who = .task w rank
  let here := fun (x : BarArr × Nat) => x.1.task = w && x.1.rank = rank
  let bursts := s.streams.flatMap fun e => (e.2.waiting.filter mine).map fun b => (rank, e.1, b)
  let bars := s.barriers.flatMap fun e => (e.2.waitTasks.filter here).map fun x => (e.1, x.1, x.2)
  let s : State := { s with
    streams := s.streams.map fun e => (e.1, { e.2 with waiting := e.2.waiting.filter fun b => !mine b })
    barriers := s.barriers.map fun e => (e.1, { e.2 with waitTasks := e.2.waitTasks.filter fun x => !here x }) }
  s.modTask w fun x => { x with withdrawn := x.withdrawn ++ bursts, withdrawnBars := x.withdrawnBars ++ bars }

/-! ### Pre-emption (R156 to R159) -/

/-- Requests a pre-emption of a running task; a second request joins the first (Table 5-10). -/
def State.requestPreempt (s : State) (w : BitVec 64) (force save : Bool) (waiter : Option (BitVec 64)) : State :=
  s.modTask w fun t =>
    match t.state with
    | .running =>
      match t.preempt with
      | some p => { t with preempt := some { p with force := p.force || force, save := p.save || save,
                                                    waiters := p.waiters ++ waiter.toList } }
      | none => { t with preempt := some { force := force, save := save, since := s.t, waiters := waiter.toList } }
    | .suspResident =>
      match t.preempt with
      | some p => { t with preempt := some { p with waiters := p.waiters ++ waiter.toList } }
      | none => t
    | _ => t

/-- For the URGENT task at the head of a paddock's queue that lacks free teams: pre-empts running NORMAL tasks, most
recently placed first, once the free teams and theirs number TEAMS (R156). -/
def State.urgentCheck (s : State) (p : Nat) : State :=
  let waiting := s.tasks.filter fun e => e.2.paddock = p && e.2.urgent && e.2.awaits && !s.fits e.1 e.2
  match (sortOn (fun (e : BitVec 64 × Task) => e.2.order) waiting)[0]? with
  | none => s
  | some e =>
    let ok := fun (l : Nat) => match e.2.mask with | some m => m.contains l | none => true
    let vt := s.victimTeams p
    let free := ((s.allotment p).filter fun l => (s.teamFree l || (vt.contains l && s.teamIdle l)) && ok l).length
    let running := s.tasks.filter fun v => v.2.paddock = p && !v.2.urgent && v.2.state = .running
    let order := (sortOn (fun (v : BitVec 64 × Task) => v.2.placedAt) running).reverse
    let teamsOf := fun (v : BitVec 64 × Task) => (v.2.teams.filter ok).length
    let total := free + sumNat (order.map teamsOf)
    if total < e.2.teamsN then s
    else
      let chosen := (order.foldl (fun (acc : Nat × List (BitVec 64)) v =>
        if e.2.teamsN ≤ acc.1 then acc else (acc.1 + teamsOf v, acc.2 ++ [v.1])) (free, [])).2
      chosen.foldl (fun s v => (s.requestPreempt v false false none).modTask v fun t =>
        if t.held then t else { t with victim := true }) s

/-- Whether every team of a task has stopped or ended. -/
def Task.allStopped (t : Task) : Bool := (List.range t.teamsN).all fun r => t.arrived.contains r || t.ended.contains r

/-- The running time of a task (R164). -/
def Task.ran (t : Task) (now : Nat) : Nat := t.ranNs + (if t.state = .running then now - t.runSince else 0)

/-! ### The end of a task -/

/-- The launch's RESULT (Table 5-11). -/
def Task.result (t : Task) : BitVec 64 :=
  BitVec.ofNat 64 (min t.drops.toNat (2 ^ 32 - 1) + min t.preempts 0xFFFF * 2 ^ 32 + ((t.teams[0]?).getD 0) * 2 ^ 48)

/-- The launch's DETAIL on ST_OK (Table 5-11). -/
def Task.okDetail (t : Task) : BitVec 32 :=
  BitVec.ofNat 32 (min t.infs.toNat 0xFFFF + min t.nans.toNat 0xFFFF * 2 ^ 16)

/-- Releases what a task holds: contexts, windows, its save area and argument buffer, its ends of streams, its place
at barriers. -/
def State.releaseTask (s : State) (w : BitVec 64) (t : Task) (stopped : Bool) : State :=
  let mine := fun (e : End) => match e with | .task x _ => x = w | _ => false
  let s := if stopped then s.resetEnd mine
    else { s with streams := s.streams.map fun e => (e.1, { e.2 with
      producer := (match e.2.producer with | some p => if mine p then none else some p | none => none)
      consEnd := e.2.consEnd.filter (fun x => !mine x.2)
      waiting := e.2.waiting.filter (fun b => !mine b.who) }) }
  let s : State := { s with barriers := s.barriers.map fun e => (e.1, { e.2 with
    waitTasks := e.2.waitTasks.filter (fun x => x.1.task != w)
    arrs := e.2.arrs.filter (fun x => x.task != w) }) }
  let s := s.vacate w t
  let s := s.releaseAll t.bufs
  if t.saveArea = 0 then s else s.release t.saveArea

/-- Takes a task to a final state and completes its launch (R157, R166, R171). Commands that waited for its
suspension or its resume complete as Table 5-10 gives. -/
def State.finishTask (s : State) (w : BitVec 64) (fin : TaskState) (st : BitVec 16) (det : BitVec 32) : State :=
  match s.task w with
  | none => s
  | some t0 =>
    if t0.state.final then s
    else
      let s := if t0.state = .running then s.gather w t0 else s
      let t := (s.task w).getD t0
      let s := s.releaseTask w t (fin != .done)
      let s := s.modTask w fun x => { x with state := fin, preempt := none, arrived := [], atWait := [], saving := false,
                                             restoring := false, saved := [], saveArea := 0, bufs := [],
                                             resumeBy := none, ranNs := t.ran s.t }
      let bad := t.poisonStores != 0 && st = stOk
      let pst := if bad then stDataPoisoned else st
      let pdet := if bad then BitVec.ofNat 32 (min t.poisonStores (2 ^ 32 - 1))
        else if fin = .done then t.okDetail else det
      let res := match t.loopModel with
        | some m => BitVec.ofNat 64 (((tget s.gen.loops m).map (·.stepsRun)).getD 0)
        | none => t.result
      let s := s.complete w pst res pdet
      let s := match t.preempt with
        | some p => s.completeAll p.waiters stCancelLate
        | none => s
      let s := match t.resumeBy with
        | some r => s.complete r stTaskState
        | none => s
      s.urgentCheck t.paddock

/-- The suspension of a task whose last team has stopped: saved where the request asks for it, else resident with its
teams released to the paddock (R158, R159). Waiting commands complete at a resident suspension; a save completes
them at its end. A task that no longer fits its paddock's allotment ends instead (R163). -/
def State.suspend (s : State) (w : BitVec 64) (t : Task) (p : Preempt) : State :=
  if (s.allotment t.paddock).length < t.teamsN then s.finishTask w .failed stTeamsExceed 0#32
  else
    let kern := tget s.kernels t.kernel
    let s := ((List.range t.teams.length).zip t.teams).foldl (fun s e => (s.shelve e.2 t.ctx).modTeam e.2 fun m =>
      { m with ctxs := tmod m.ctxs t.ctx fun x =>
                 { x with live := match kern with | some k => t.liveUnits k e.1 | none => x.live } }) s
    let s := s.gather w t
    if p.save then
      s.modTask w fun x => { x with state := .suspResident, saving := true, ranNs := t.ran s.t,
                                    preempts := x.preempts + 1, queuedAt := s.t, stoppedAt := s.t }
    else
      let s := s.modTask w fun x => { x with state := .suspResident, preempt := none, arrived := [], atWait := [],
                                             ranNs := t.ran s.t, preempts := x.preempts + 1, queuedAt := s.t, stoppedAt := s.t }
      (s.completeAll p.waiters stOk).urgentCheck t.paddock

/-! ### Failed teams (R167, R414, R416) -/

/-- Writes a physical team's record. -/
def State.modPhys (s : State) (p : Nat) (f : PhysTeam → PhysTeam) : State :=
  { s with phys := tputD PhysTeam.reset s.phys p (f (s.physTeam p)) }

/-- The spares, in order of physical number. -/
def State.spares (s : State) : List Nat := (List.range 336).filter fun p => s.physState p = .spare

/-- The substitute for a failed physical team: the lowest spare of its die, else of the die with the most spares
(R414). -/
def State.substitute (s : State) (p : Nat) : Option Nat :=
  let sp := s.spares
  match sp.find? fun q => q / 84 = p / 84 with
  | some q => some q
  | none =>
    let cnt := fun d => (sp.filter fun q => q / 84 = d).length
    let best := (List.range 4).foldl (fun b d => if cnt b < cnt d then d else b) 0
    sp.find? fun q => q / 84 = best

/-- A restore that a task's team cannot finish is given up: its new contexts are freed, and the task stays saved and
waits for teams again (R163, R167). -/
def State.dropRestore (s : State) (w : BitVec 64) (t : Task) : State :=
  (s.vacate w t).modTask w fun x => { x with restoring := false, teams := [] }

/-- A resident suspension on a failed team: read out clean it becomes saved, else its task fails. A saved task that was
being restored there is placed again (R167). -/
def State.readOut (s : State) (l : Nat) (dirty : List (BitVec 64)) : State :=
  (s.team l).ctxs.foldl (fun s e =>
    match s.task e.2.wid with
    | none => s
    | some t =>
      if t.state = .suspSaved && t.restoring then s.dropRestore e.2.wid t
      else if t.state != .suspResident then s
      else if dirty.contains e.2.wid then s.finishTask e.2.wid .failed stTeamHwFault 0#32
      else
        let (saved, s) := match tget s.kernels t.kernel with | some k => s.saveTask t k | none => ([], s)
        let s := s.vacate e.2.wid t
        let s := match t.preempt with | some p => s.completeAll p.waiters stOk | none => s
        s.modTask e.2.wid fun x => { x with state := .suspSaved, saved := saved, saving := false,
                                            preempt := none, arrived := [], teams := [] }) s

/-- A physical team is retired for good: Kryto records it, and it never returns to service (R467, R495). -/
def State.retirePhys (s : State) (p : Nat) : State :=
  let s := s.modPhys p fun x => { x with state := some .retired, fieldDue := none, bringFor := none }
  let s : State := { s with kryto := { s.kryto with retiredTeams := insNat p s.kryto.retiredTeams } }
  s.logEv evTeamRetired 0xFF#8 0#16 p

/-- A logical team's physical team fails: a returned team's second hardware-class fault within 30 days retires it
(R495). It is fenced, its resident suspensions are read out, and the logical team
awaits a substitute (R167, R414, R415). -/
def State.failTeam (s : State) (l : Nat) (dirty : List (BitVec 64)) : State :=
  if (s.team l).replacing || !(s.team l).inService then s
  else
    let p := s.physOf l
    let ph := s.physTeam p
    let recent := ph.failTimes.filter fun u => s.t < u + 2592000 * secNs
    let again := ph.returned && !recent.isEmpty
    let s := s.readOut l dirty
    let s := s.modPhys p fun x => { x with state := some .failed, fieldDue := some s.t, failTimes := s.t :: recent }
    let s := if again then s.retirePhys p else s
    (s.emptyArray l).modTeam l fun t => { t with replacing := true, active := none, ctxs := [] }

/-! ### Exceptions (R165 to R168) -/

/-- Whether a cause is of the hardware class (Table 5-8). -/
def hwCause (cause : Nat) : Bool := 0x10 ≤ cause

/-- The 32 bytes of an exception record (Table 5-9). -/
def ExcRec.encode (e : ExcRec) : List Byte :=
  leBytes 8 e.wid.toNat ++ leBytes 8 e.time.toNat ++ leBytes 4 e.pc.toNat ++ [e.cause, e.core, e.ctx, 0#8] ++
  leBytes 2 e.team.toNat ++ leBytes 2 e.lastPp.toNat ++ leBytes 4 e.address.toNat

/-- The record of an exception of a task's team. -/
def State.excRec (s : State) (w : BitVec 64) (t : Task) (rank core cause : Nat) (addr : Nat) : ExcRec :=
  let l := (t.teams[rank]?).getD 0
  let x := s.ctx (ctxKey l core t.ctx)
  { wid := w, time := s.now, pc := x.pc, cause := BitVec.ofNat 8 cause, core := BitVec.ofNat 8 core,
    ctx := BitVec.ofNat 8 t.ctx, team := BitVec.ofNat 16 l, lastPp := x.lastPp, address := BitVec.ofNat 32 addr }

/-- Records an exception: the event log, the exception buffer, and the paddock's last 64 (R168). -/
def State.recordExc (s : State) (t : Task) (e : ExcRec) : State :=
  let s := s.logWith evTeamException (hwCause e.cause.toNat) (BitVec.ofNat 8 t.paddock) 0#16 e.team e.wid e.encode
  let s := if e.cause = 0x03#8 then s.logEv evSecurityBounds (BitVec.ofNat 8 t.paddock) 0#16 e.team.toNat e.wid e.encode
    else s
  let n := ((s.task e.wid).map (·.excs.length)).getD 0
  let s := s.modPaddock t.paddock fun p =>
    { p with excs := (p.excs ++ [e]).drop (p.excs.length + 1 - 64) }
  let s := s.modTask e.wid fun x => { x with excs := x.excs ++ [e] }
  if t.excBuf = 0#64 then s
  else
    let a := t.excBuf.toNat + 32 * n
    match s.allocAt a with
    | some l => if l.2.owner = t.paddock then s.store a e.encode else s.hostWrite (t.paddock + 1) a e.encode false
    | none => s.hostWrite (t.paddock + 1) a e.encode false

/-- DETAIL of a launch that an exception ended (R166). -/
def excDetail (e : ExcRec) : BitVec 32 :=
  BitVec.ofNat 32 (e.cause.toNat + e.team.toNat % 512 * 2 ^ 8 + e.core.toNat % 16 * 2 ^ 17 + e.ctx.toNat % 4 * 2 ^ 21)

/-- A team of a running task raises a cause; the teams that raise their own before they are stopped add their
records; the task fails, and after a hardware-class cause the team fails too (R165 to R167). `more` holds rank,
core, cause and address of the further exceptions. -/
def State.raise (s : State) (w : BitVec 64) (rank core cause addr : Nat)
    (more : List (Nat × Nat × Nat × Nat) := []) (dirty : List (BitVec 64) := []) : State :=
  match s.task w with
  | none => s
  | some t =>
    if (t.state != .running && !t.saving) || t.teams.length ≤ rank then s
    else
      let first := s.excRec w t rank core cause addr
      let s := s.recordExc t first
      let s := more.foldl (fun s m => s.recordExc t (s.excRec w t m.1 m.2.1 m.2.2.1 m.2.2.2)) s
      let hw := ((rank, cause) :: more.map fun m => (m.1, m.2.2.1)).filter fun e => hwCause e.2
      let st := if hwCause cause then stTeamHwFault else if cause = 0x08 then stTimeLimit else stTeamException
      let s := s.finishTask w .failed st (excDetail first)
      hw.foldl (fun s e => match t.teams[e.1]? with | some l => s.failTeam l dirty | none => s) s

/-- Whether a work identifier is one that the caller's session took (R75, R170). -/
def State.ofSession (s : State) (c : Cmd) (w : BitVec 64) : Bool :=
  match (s.fn c.fn).session with
  | some x => x.took.any fun e => e.1 = w
  | none => false

/-- A task of the caller's session (R170). -/
def State.taskOf (s : State) (c : Cmd) (w : BitVec 64) : Except Err Task :=
  match s.task w with
  | some t => if s.ofSession c w then .ok t else fail stUnknownWork
  | none => fail stUnknownWork

/-- The active task of a team, its rank there and its context. -/
def State.activeOn (s : State) (l : Nat) : Option (BitVec 64 × Task × Nat) :=
  match s.running l with
  | none => none
  | some w =>
    match s.task w with
    | none => none
    | some t => if t.state = .running then some (w, t, t.teams.idxOf l) else none

/-- The logical team that a physical team serves. -/
def State.logicalOf (s : State) (p : Nat) : Option Nat := (List.range 320).find? fun l =>
  s.physOf l = p && s.physState p = .mapped

/-- Fences a physical team for RESIL_TEAM_RETIRE: its task fails, its suspensions are read out, a spare will take its
logical number (R412, R414). -/
def State.retireTeam (s : State) (w : BitVec 64) (l : Nat) : State :=
  let s := match s.activeOn l with
    | some (x, _, rank) => s.raise x rank 0 0x10 0
    | none => s
  (s.failTeam l []).modTeam l fun t => { t with substFor := some w }

/-- A FIXED team that has left its paddock's allotment returns to AUTO (R468). -/
def State.autoTeams (s : State) : State :=
  let kept := fun (p : Nat) => match s.logicalOf p with
    | some l => s.paddocks.any fun (e : Nat × Paddock) => e.2.teams.contains l || e.2.leaving.contains l
    | none => false
  let fixed := fun (x : TeamPwr) => match x.reg with | some g => g.fixed | none => false
  if !s.power.teams.any (fun (e : Nat × TeamPwr) => fixed e.2) then s
  else { s with power := { s.power with teams := s.power.teams.map fun (e : Nat × TeamPwr) =>
    (e.1, if fixed e.2 && !kept e.1 then { e.2 with reg := e.2.reg.map fun g => { g with fixed := false } } else e.2) } }

end Sys2Proof.Machine
end

