-- ==== Sys2Proof/Machine/Mailbox.lean ====
section
/-! DEFINITION. The register window, the doorbells, the fetch of slots and the acceptance of commands (R45 to R58,
R72 to R76), and the reset of a function (R48, R69, R70). -/

namespace Sys2Proof.Machine

open Sys2Proof

/-! ### Registers of BAR0 (R47) -/

/-- The low word of a 64-bit value. -/
def lowWord (v : BitVec 64) : BitVec 32 := v.truncate 32

/-- The high word of a 64-bit value. -/
def highWord (v : BitVec 64) : BitVec 32 := (v >>> 32).truncate 32

/-- A word of a 64-bit value replaced. -/
def putWord (v : BitVec 64) (hi : Bool) (w : BitVec 32) : BitVec 64 :=
  if hi then (w ++ lowWord v) else (highWord v ++ w)

/-- Answers a register read. -/
def State.readOutWord (s : State) (v : BitVec 32) : State :=
  { s with out := { s.out with mmio := s.out.mmio ++ [v.zeroExtend 64] } }

/-- Reads a 64-bit register low word first: the low word latches the high word, the high word's read answers what
was latched. -/
def State.read64 (s : State) (f : Nat) (hi : Bool) (v : BitVec 64) : State :=
  if hi then s.readOutWord (s.fn f).hiLatch
  else (s.modFn f fun x => { x with hiLatch := highWord v }).readOutWord (lowWord v)

/-- DETAIL of a hardware answer while Iluvo does not run (R73, R419): the hint that counts down from 1,200 ms in
BOOT, in WARM_RESET a free value of at least 10 that CONTROL_READY's 400 ms bound, all ones in FAILED. -/
def State.hwHint (s : State) : Nat × State :=
  match s.part.pstate with
  | .boot => (max 10 (1200 - (s.t - s.part.timeZero) / msNs), s)
  | .failed => (0xFFFFFFFF, s)
  | _ =>
    let (v, s') := s.draw
    let left := 400 - min 400 ((s.t - s.part.warmStart) / msNs)
    (max 10 (v.toNat % (left + 1)), s')

/-- RETRY_AFTER (Table 2-1): Iluvo's estimate while it runs, else the hint of the hardware answers. -/
def State.retryWord (s : State) : Nat × State := if s.part.pstate.running then (s.retryMs, s) else s.hwHint

/-- A read of an aligned offset of a function's window (Tables 2-1 to 2-3); reserved offsets and write-only fields
read 0. -/
def State.bar0Read (s : State) (f off : Nat) : State :=
  if off = 0x0 then s.readOutWord (identWord f)
  else if off = 0x4 then s.readOutWord (s.partStateWord f)
  else if off = 0x8 then s.retryWord.2.readOutWord (BitVec.ofNat 32 s.retryWord.1)
  else if off = 0x10 then s.read64 f false s.now
  else if off = 0x14 then s.read64 f true s.now
  else if off = 0x18 then s.readOutWord (s.fn f).intStatus
  else if off = 0x1C then s.readOutWord (s.fn f).intMask
  else if off = 0x20 then (s.modFn f fun x => { x with violations := 0#32 }).readOutWord (s.fn f).violations
  else if 0x1000 ≤ off && off < 0x1800 then
    let g := s.ring (ringOf f ((off - 0x1000) / 64))
    let o := (off - 0x1000) % 64
    if o = 0x00 then s.read64 f false g.sqBase
    else if o = 0x04 then s.read64 f true g.sqBase
    else if o = 0x08 then s.read64 f false g.cqBase
    else if o = 0x0C then s.read64 f true g.cqBase
    else if o = 0x10 then s.readOutWord (BitVec.ofNat 32 ((if g.enable then 1 else 0) + 2 * g.msix.toNat))
    else if o = 0x1C then s.readOutWord (g.sqHead.zeroExtend 32)
    else if o = 0x20 then s.readOutWord (BitVec.ofNat 32 ((if g.quarantined then 1 else 0) +
      (if g.cqFull then 2 else 0) + 65536 * g.violations.toNat))
    else s.readOutWord 0#32
  else s.readOutWord 0#32

/-- Settles a ring (R52): entries written count as consumed, and the outcomes of everything fetched before are
stored instead of written. -/
def State.settleRing (s : State) (r : Nat) : State :=
  (s.modRing r fun g =>
    { g with credits := g.credits - g.written, written := 0, cqFull := false,
             fifo := g.fifo.map fun i => { i with settledOut := true } }).storeSettled r

/-- Counts a host violation and answers it where the ring can carry the answer (R76). -/
def State.violate (s : State) (r n : Nat) (answer : Bool) : State :=
  let s := s.countViolation r n
  if answer then s.answerViolation r n else s

/-- A write of ENABLE (R47, R52, Table 2-10). A write of 1 that is violation 4 settles the ring and leaves it disabled;
that it resets none of the other fields, which an enabling write of 1 resets, is the model's choice (log entry 29). -/
def State.enableRing (s : State) (r : Nat) (on : Bool) : State :=
  let s := s.settleRing r
  if !on then s.modRing r fun g => { g with enable := false }
  else if (s.ring r).sqBase = 0#64 || (s.ring r).cqBase = 0#64 then
    (s.modRing r fun g => { g with enable := false }).violate r 4 false
  else
    s.modRing r fun g =>
      { g with enable := true, sqHead := 0#8, sqTail := 0#8, cqHead := 0#8, cqTail := 0#8, phase := true,
               quarantined := false, violations := 0#16 }

/-- A write of the SQ_TAIL doorbell (R53, R76). -/
def State.ringSqTail (s : State) (r : Nat) (v : BitVec 32) : State :=
  if !(s.ring r).enable then s.violate r 3 false
  else if v.toNat / 256 ≠ 0 then s.violate r 1 true
  else s.modRing r fun g => { g with sqTail := v.truncate 8 }

/-- A write of the CQ_HEAD doorbell (R52, R76). -/
def State.ringCqHead (s : State) (r : Nat) (v : BitVec 32) : State :=
  let g := s.ring r
  let n := ((v.truncate 8 : BitVec 8) - g.cqHead).toNat
  if !g.enable then s.violate r 3 false
  else if v.toNat / 256 ≠ 0 then s.violate r 1 true
  else if g.written < n then s.violate r 2 true
  else (s.setRing r { g with cqHead := v.truncate 8, written := g.written - n, credits := g.credits - n }).flush r

/-- A write of an aligned offset of a function's window (Tables 2-1 to 2-3); read-only and reserved offsets ignore
it, and so do reserved bits (R10). -/
def State.bar0Write (s : State) (f off : Nat) (v : BitVec 32) : State :=
  if off = 0x18 then s.modFn f fun x => { x with intStatus := x.intStatus &&& ~~~v }
  else if off = 0x1C then s.modFn f fun x => { x with intMask := v }
  else if 0x1000 ≤ off && off < 0x1800 then
    let r := ringOf f ((off - 0x1000) / 64)
    let o := (off - 0x1000) % 64
    let page : BitVec 32 := v &&& 0xFFFFF000#32
    if o = 0x00 then s.modRing r fun g => { g with sqBase := putWord g.sqBase false page }
    else if o = 0x04 then s.modRing r fun g => { g with sqBase := putWord g.sqBase true v }
    else if o = 0x08 then s.modRing r fun g => { g with cqBase := putWord g.cqBase false page }
    else if o = 0x0C then s.modRing r fun g => { g with cqBase := putWord g.cqBase true v }
    else if o = 0x10 then (s.enableRing r (v.getLsbD 0)).modRing r fun g => { g with msix := v.extractLsb' 1 11 }
    else if o = 0x14 then s.ringSqTail r v
    else if o = 0x18 then s.ringCqHead r v
    else s
  else s

/-- An access of BAR0: until the window is live a read is answered as an unsupported request, which the host
observes as all ones, and a write is dropped (R72). A number that names no function reaches nothing. -/
def State.bar0 (s : State) (f off : Nat) (write : Option (BitVec 32)) : State :=
  if 8 < f || off % 4 ≠ 0 || !s.part.bar0Live then
    match write with
    | some _ => s
    | none => s.readOutWord 0xFFFFFFFF#32
  else
    match write with
    | some v => s.bar0Write f off v
    | none => s.bar0Read f off

/-! ### Fetch and acceptance (R53 to R56, R73) -/

/-- Whether a slot of a ring may be fetched (R52, R53). -/
def State.fetchable (s : State) (r : Nat) : Bool :=
  let g := s.ring r
  g.enable && !g.quarantined && g.sqHead != g.sqTail && g.credits < 256

/-- The ring whose turn it is: first across functions that have a fetchable slot, then across the rings of the
function (R53). -/
def State.nextFetch (s : State) : Option Nat :=
  let fs := (List.range 9).map fun i => (s.part.rrFn + i) % 9
  match fs.find? fun f => (List.range 32).any fun k => s.fetchable (ringOf f k) with
  | none => none
  | some f =>
    (((List.range 32).map fun k => ringOf f ((tgetD 0 s.part.rrRing f + k) % 32)).find? fun r => s.fetchable r)

/-- The read of a slot: SQ_BASE + 128 x SQ_HEAD, of which hardware fetches the first 32 bytes while it answers the slots
itself (R46, R73). -/
def Ring.slotRead (g : Ring) (f : Nat) (whole : Bool) : HostRead :=
  { fn := f, addr := g.sqBase + BitVec.ofNat 64 (128 * g.sqHead.toNat), len := if whole then 128 else 32 }

/-- Records a read of host memory. -/
def State.readHost (s : State) (q : HostRead) : State := { s with out := { s.out with reads := s.out.reads ++ [q] } }

/-- Starts the fetch of the next slot of a ring (R46, R52, R53). -/
def State.fetch (s : State) (r : Nat) : State :=
  let g := s.ring r
  let i : RItem :=
    { ser := s.ser, arrived := false, wid := 0#64, seq := 0#32, opcode := 0#16, sqHead := g.sqHead + 1#8,
      accepted := false, settledOut := false, fin := false, status := 0#16, result := 0#64, detail := 0#32,
      hw := false, replayed := false }
  let s := s.setRing r { g with sqHead := g.sqHead + 1#8, credits := g.credits + 1, fifo := g.fifo ++ [i] }
  ({ s with ser := s.ser + 1,
            part := { s.part with rrFn := (ringFn r + 1) % 9,
                                  rrRing := tputD 0 s.part.rrRing (ringFn r) ((ringK r + 1) % 32) } } : State).readHost
    (g.slotRead (ringFn r) s.part.pstate.running)

/-- Whether PART_STATE permits an opcode (R74). -/
def State.permits (s : State) (op : Nat) : Bool :=
  s.part.pstate.full || op / 256 = 0x00 || op / 256 = 0x0A

/-- Whether an opcode is SESSION_OPEN. -/
def isSessionOpen (op : Nat) : Bool := op = 0x0003 || op = 0x0083

/-- The SESSION_OPENs that a function has completed in the present second (R542). -/
def State.opensNow (s : State) (f : Nat) : Nat :=
  if (s.fn f).openSec = s.t / secNs then (s.fn f).openCnt else 0

/-- The fields of a slot header (Table 2-4). -/
structure Slot0 where
  /-- OPCODE -/
  op : Nat
  /-- LEVEL -/
  level : Bool
  /-- INDIRECT -/
  indirect : Bool
  /-- a reserved header field is not 0 -/
  resv : Bool
  /-- FENCE -/
  fence : Bool
  /-- SESSION -/
  session : BitVec 32
  /-- SEQ -/
  seq : BitVec 32
  /-- LENGTH -/
  len : Nat
  /-- WORK_ID -/
  wid : BitVec 64
  /-- PAYLOAD_ADDR -/
  addr : Nat
deriving DecidableEq, Repr

/-- Reads a slot header. -/
def slotHeader (b : List Byte) : Slot0 :=
  let b2 := fld b 2 1
  let b3 := fld b 3 1
  { op := fld b 0 2, level := bitAt b2 0, indirect := bitAt b2 1, fence := bitAt b3 0,
    resv := b2 / 4 ≠ 0 || b3 / 2 ≠ 0 || (!bitAt b2 1 && fld b 24 8 ≠ 0),
    session := BitVec.ofNat 32 (fld b 4 4), seq := BitVec.ofNat 32 (fld b 8 4), len := fld b 12 4,
    wid := BitVec.ofNat 64 (fld b 16 8), addr := fld b 24 8 }

/-- The session check of Table 2-6: the open session on one of its rings, or 0 for a pre-session opcode on
ring 0. -/
def State.sessionOk (s : State) (r : Nat) (h : Slot0) (info : OpInfo) : Bool :=
  if h.session = 0#32 then info.pre && ringK r = 0
  else
    match (s.fn (ringFn r)).session with
    | none => false
    | some x => x.id = h.session && x.mask.getLsbD (ringK r)

/-- The first header check of Table 2-6 that fails: its status and DETAIL. -/
def State.headerCheck (s : State) (r : Nat) (h : Slot0) : Option (BitVec 16 × Nat) :=
  match opInfo h.op with
  | none => some (stBadOpcode, 0)
  | some info =>
    if !s.permits h.op then some (stNotReady, s.retryMs)
    else if isSessionOpen h.op && 100 ≤ s.opensNow (ringFn r) then
      some (stNotReady, (secNs - s.t % secNs + msNs - 1) / msNs)
    else if h.level != bitAt h.op 7 then some (stBadLevel, 0)
    else if h.resv then some (stBadReserved, 0)
    else if h.len < info.lo || info.hi < h.len || (!h.indirect && 96 < h.len) || 65536 < h.len ||
        (h.indirect && h.addr % 8 ≠ 0) then some (stBadLength, 0)
    else if !s.sessionOk r h info then some (stBadSession, 0)
    else if info.mgmt && ringFn r ≠ 0 then some (stNotPermitted, 0)
    else if h.session ≠ 0#32 && h.seq ≠ (s.ring r).expectSeq then
      let d := ((s.ring r).expectSeq - h.seq).toNat
      some (if d < 2 ^ 31 then stSeqDuplicate else stSeqGap, 0)
    else if h.wid.toNat / 2 ^ 55 ≠ r || h.wid.toNat % 2 ^ 55 ≤ (s.ring r).lastWid.toNat then some (stBadWorkId, 0)
    else none

/-- Changes the item of a fetch. -/
def State.modItem (s : State) (r ser : Nat) (f : RItem → RItem) : State :=
  s.modRing r fun g => { g with fifo := g.fifo.map fun i => if i.ser = ser then f i else i }

/-- Accepts a command: the journal record with its saved payload, the ring's expected number and last work
identifier (R55, R56, R417, R418). -/
def State.accept (s : State) (r ser : Nat) (h : Slot0) (payload : List Byte) (resv : Bool) : State :=
  let (ref, s) := s.draw
  let j : JRec :=
    { wid := h.wid, seq := h.seq, opcode := BitVec.ofNat 16 h.op, ring := r, ser := ser, state := .accepted,
      session := h.session, fence := h.fence, resv := resv, payload := payload, progress := 0#64, result := 0#64,
      detail := 0#32, status := 0#16, replayed := false, acceptTime := s.now, slotRef := ref }
  let s := s.modRing r fun g =>
    { g with lastWid := h.wid.truncate 55, expectSeq := if h.session = 0#32 then g.expectSeq else g.expectSeq + 1#32 }
  let s := s.modItem r ser fun i => { i with accepted := true }
  let s := if h.session = 0#32 then s else s.modFn (ringFn r) fun x =>
    { x with session := x.session.map fun q => { q with took := q.took ++ [(h.wid, BitVec.ofNat 16 h.op, h.seq)] } }
  { s with journal := s.journal ++ [j], accepts := s.accepts + 1 }

/-- A fetched slot arrives (R54): `slot` none is a fetch that failed with a completer abort or an unsupported
request, and so is `payload` none for a command that carries it indirectly. -/
def State.arriveSlot (s : State) (r : Nat) (slot : Option (List Byte)) (payload : Option (List Byte)) : State :=
  match (s.ring r).fifo.find? fun i => !i.arrived with
  | none => s
  | some i =>
    match slot with
    | none => (s.countViolation r 5).finishItem r i.ser stHostProtocol 0#64 5#32 true
    | some b =>
      let h := slotHeader b
      let s := s.modItem r i.ser fun x =>
        { x with arrived := true, wid := h.wid, seq := h.seq, opcode := BitVec.ofNat 16 h.op }
      if !s.part.pstate.running then
        let (d, s) := s.hwHint
        s.finishItem r i.ser stNotReady 0#64 (BitVec.ofNat 32 d) true
      else
        match s.headerCheck r h with
        | some e => s.finishItem r i.ser e.1 0#64 (fixDetail e.1 (BitVec.ofNat 32 e.2)) false
        | none =>
          if h.indirect then
            let s := s.readHost { fn := ringFn r, addr := BitVec.ofNat 64 h.addr, len := h.len }
            match payload with
            | none =>
              let s := s.modItem r i.ser fun x => { x with wid := 0#64, seq := 0#32, opcode := 0#16 }
              (s.countViolation r 5).finishItem r i.ser stHostProtocol 0#64 5#32 true
            | some p => s.accept r i.ser h (slice p 0 h.len) ((slice b 32 96).any fun x => x != 0#8)
          else s.accept r i.ser h (slice b 32 h.len) ((slice b (32 + h.len) (96 - h.len)).any fun x => x != 0#8)

/-! ### Resets of functions (R48, R69, R70) -/

/-- The accepted commands of some functions that have not been dispatched, in fetch order. -/
def State.undispatched (s : State) (ok : JRec → Bool) : List JRec :=
  sortOn (fun (j : JRec) => j.ser) (s.journal.filter fun j => j.state = .accepted && ok j)

/-- Returns a ring's fields to their reset values and settles it; the outstanding fetches are kept, but for a slot
fetch in flight, which is discarded (R48, R52, R69). -/
def State.resetRing (s : State) (r : Nat) : State :=
  let s := s.modRing r fun g =>
    { g with credits := g.credits - (g.fifo.filter fun i => !i.arrived).length, fifo := g.fifo.filter fun i => i.arrived }
  (s.settleRing r).modRing r fun g =>
    { Ring.reset with credits := g.credits, fifo := g.fifo, expectSeq := g.expectSeq, lastWid := g.lastWid }

/-- Whether an address of a command of a paddock leads to host memory. -/
def State.isHost (s : State) (pad : Nat) (a : Nat) : Bool :=
  match s.allocAt a with
  | some l => l.2.owner != pad
  | none => a / 2 ^ 56 != 0xFA

/-- Whether a command that has not completed came through a function. -/
def State.ofFn (s : State) (f : Nat) (w : BitVec 64) : Bool :=
  match s.jrec w with
  | some j => ringFn j.ring = f
  | none => false

/-- The programs of a function whose source is host memory, which its PCIe engine moves to the Basin (R69 step 3,
R232). -/
def State.hostPrograms (s : State) (f : Nat) : List NvwProg :=
  s.nvwProgs.filter fun q => q.stream = 0 && s.ofFn f q.wid && s.isHost (if f = 0 then 15 else f - 1) q.src

/-- The dispatched commands of a function that still move data to or from host memory, but for the bound engines and the
programs: waits with a response buffer there, test runs and margins with one (R69 step 3). -/
def State.hostMovers (s : State) (f : Nat) : List (BitVec 64) :=
  let pad := if f = 0 then 15 else f - 1
  (s.waits.filter fun x => match x.kind with
    | .resilEvent p _ buf => p = pad && s.isHost pad buf.toNat
    | .seal _ buf _ => s.ofFn f x.wid && s.isHost pad buf.toNat
    | _ => false).map (·.wid) ++
  (if f = 0 then (s.farrier.runs.filter fun x => x.buf != 0#64 && s.isHost pad x.buf.toNat).map (·.wid) ++
    (s.farrier.margins.filter fun x => s.isHost pad x.buf.toNat).map (·.wid) else [])

/-- A function-level reset of one function (R48, R69). -/
def State.resetFn (s : State) (f : Nat) : State :=
  let rings := (List.range 32).map (ringOf f)
  let s := rings.foldl (fun s r => s.resetRing r) s
  let s := s.modFn f fun x =>
    { x with intStatus := 0#32, intMask := 0#32, violations := 0#32, hiLatch := 0#32, session := none,
             resetSer := s.ser }
  let s := (s.undispatched fun j => ringFn j.ring = f).foldl (fun s j => s.complete j.wid stFunctionReset) s
  let s := (s.basin.binds.filter fun b => b.host && b.fn = f).foldl (fun s b => s.resetBind b.wid stFunctionReset) s
  let s := (s.hostPrograms f).foldl (fun s q => s.resetProg q stFunctionReset) s
  let s := s.completeAll (s.hostMovers f) stFunctionReset
  let pad := f - 1
  let s := if f = 0 then s else
    { s with tasks := s.tasks.map fun e =>
        if e.2.paddock = pad && s.isHost pad e.2.excBuf.toNat then (e.1, { e.2 with excBuf := 0#64 }) else e }
  s.logEv evFunctionReset (padByte f) 0#16 (f * 256)

/-- A function-level reset of the PF, which also resets VF 1 to VF 8 (R70). -/
def State.resetPf (s : State) : State := (List.range 9).foldl (fun s f => s.resetFn f) s

end Sys2Proof.Machine
end

