-- ==== Sys2Proof/Machine/TierOps.lean ====
section
/-! DEFINITION. Where the lines of an allocation lie in the tiers (R217, R230, R239), what their reads and errors
count (R220, R227, R231), transaction tags (R198 to R200), and the loss of a parking-tier device (R241, R242). -/

namespace Sys2Proof.Machine

open Sys2Proof

/-! ### Places (R217, R230, R239, log entry 12) -/

/-- The channel, frame and byte offset that serve a byte of an HBM4 allocation (R217). -/
def State.hbmSpot (s : State) (a : Nat) : Option (Nat × Nat × Nat) :=
  match s.allocAt a with
  | none => none
  | some (name, l) =>
    if l.tier != .hbm then none
    else
      l.pages[(a - name) / 0x200000]?.map fun e =>
        let p := hbmPlace l.near l.die (e.2 * 4096 + (a - name) % 0x200000 / 512)
        let r := s.hbm.redirect p.1 e.1
        (r.1, r.2, p.2)

/-- The NVW stack of a byte of a region (R230). -/
def nvwStackOf (l : Alloc) (off : Nat) : Nat := if l.near then l.die else off / 16384 % 4

/-- The device that holds a byte of a parking-tier allocation: its range's own device, or the one whose turn it is
in the interleave (R239). -/
def State.parkDev (s : State) (l : Alloc) (off : Nat) : Nat :=
  let key := l.rangeOf off
  if key % 8 != 0 then key % 8 - 1
  else
    let ms := s.cxl.devs.filter fun e => e.2.iset = key / 8
    match ms[off / 256 % (max 1 ms.length)]? with
    | some e => e.1
    | none => 0

/-! ### Channels (R220, R225 to R227) -/

/-- A channel. -/
def Hbm.chan (h : Hbm) (c : Nat) : Chan := tgetD Chan.reset h.chans c

/-- Changes a channel. -/
def State.modChan (s : State) (c : Nat) (f : Chan → Chan) : State :=
  { s with hbm := { s.hbm with chans := tputD Chan.reset s.hbm.chans c (f (s.hbm.chan c)) } }

/-- Changes an NVW stack. -/
def State.modNvw (s : State) (k : Nat) (f : NvwStack → NvwStack) : State :=
  { s with nvw := tputD NvwStack.reset s.nvw k (f (s.nvwStack k)) }

/-- Counts 32-byte units read from or written to a channel (R245, R540). -/
def State.countHbm (s : State) (c n : Nat) (write : Bool) : State :=
  let h := s.hbm
  if write then { s with hbm := { h with bytesWritten := tput h.bytesWritten c (tgetD 0#64 h.bytesWritten c + BitVec.ofNat 64 n) } }
  else { s with hbm := { h with bytesRead := tput h.bytesRead c (tgetD 0#64 h.bytesRead c + BitVec.ofNat 64 n) } }

/-- What the check data of a sector make of an error over `symbols` of its 16-bit symbols (R219): 0 no error, 1 an error
in one symbol, corrected, 2 in two, detected. What the code makes of more is not stated: a free value (log entry 157). -/
def sectorCode (symbols : Nat) : Nat := if symbols ≤ 2 then symbols else Config.beyondCode symbols % 3

/-- A read of a sector of a channel (R219, R220): a corrected error is counted and awaits its write-back; an
uncorrectable one is counted and logged, and the sector gets the poison encoding: that at address `a`, or one outside
every allocation. -/
def State.sectorRead (s : State) (c frame row symbols : Nat) (a : Option Nat) : State :=
  match sectorCode symbols with
  | 0 => s
  | 1 => s.modChan c fun x =>
      { x with corrected := x.corrected + 1#64, writeback := x.writeback ++ [frame * 0x200000 + row],
               corrTimes := s.t :: x.corrTimes.filter fun u => s.t < u + 3600 * secNs }
  | _ =>
    let s := s.modChan c fun x =>
      { x with uncorrectable := x.uncorrectable + 1#64,
               uncTimes := s.t :: x.uncTimes.filter fun u => s.t < u + 86400 * secNs }
    let s := match a with
      | some x => s.poisonSector x
      | none => s.modChan c fun x => { x with badSectors := insNat (frame * 0x200000 + row) x.badSectors }
    s.logEv evMemUncorrectable 0xFF#8 0#16 c 0#64 (leBytes 4 frame ++ leBytes 4 row)

/-- The four sectors of an HBM4 line are read: those that hold the poison encoding count as poison reads, the others by
their errors; whether any is delivered poisoned (R219 to R221). -/
def State.lineRead (s : State) (c f row a : Nat) (errs : List Nat) : State × Bool :=
  (List.range 4).foldl (fun acc i =>
    let x := a + 64 * i
    if acc.1.poisoned x 64 then (acc.1.modChan c fun y => { y with poisonReads := y.poisonReads + 1#64 }, true)
    else
      let k := (errs[i]?).getD 0
      (acc.1.sectorRead c f (row + x % 512) k (some x), acc.2 || sectorCode k = 2)) (s, false)

/-- A read of one line of a tier into the Basin: its bytes and whether they arrive poisoned (R191, R220, R221, R231,
R241). `errs` are the failing symbols of each sector of an HBM4 line; for NVW and the parking tier 2 is a codeword that
fails, or a line with the Poison bit. -/
def State.tierRead (s : State) (a : Nat) (errs : List Nat) : State × List Byte × Bool :=
  let was := s.poisoned a 256
  let bad := errs.any fun k => 2 ≤ k
  match s.allocAt a with
  | none => (s, s.bytes a 256, true)
  | some (name, l) =>
    match l.tier with
    | .hbm =>
      match s.hbmSpot a with
      | none => (s, s.bytes a 256, true)
      | some (c, f, row) =>
        let r := (s.countHbm c 8 false).lineRead c f row a errs
        (r.1, r.1.bytes a 256, r.2)
    | .nvw =>
      if bad then
        let k := nvwStackOf l (a - name)
        ((s.modNvw k fun n => { n with codewordFails := n.codewordFails + 1#64 }).logEv evNvwCodewordFail 0xFF#8 0#16 k
          0#64 (leBytes 8 (a - name)), s.bytes a 256, true)
      else (s, s.bytes a 256, false)
    | .park => (s, s.bytes a 256, was || bad)
    | .basin => (s, s.bytes a 256, was)

/-- A write of one line to a tier (R193, R221); a write to a lost page is discarded (R241). -/
def State.tierWrite (s : State) (a : Nat) (bs : List Byte) (p : Bool) : State :=
  if s.parkLost a then s
  else
    let s := match s.hbmSpot a with | some e => s.countHbm e.1 8 true | none => s
    s.storeP p a bs

/-! ### Transaction tags (R198, R199) -/

/-- The pool of a tier address (Table 6-9): 0 to 11 HBM4 stacks, 12 to 15 NVW stacks, 16 the parking tier. -/
def State.tagPool (s : State) (a : Nat) : Nat :=
  match s.allocAt a with
  | none => 17
  | some (name, l) =>
    match l.tier with
    | .hbm => ((s.hbmSpot a).map fun e => e.1 / 32).getD 0
    | .nvw => 12 + nvwStackOf l (a - name)
    | .park => 16
    | .basin => 17

/-- The tags of a pool that paddocks may hold (Table 6-9): 1,024 of the shared pool are the part's own. -/
def poolSize (k : Nat) : Nat := if k < 12 then 8192 else if k < 16 then 24576 else if k = 16 then 16384 else 48128

/-- Tags of a pool in use. -/
def State.poolUsed (s : State) (k : Nat) : Nat := (s.basin.tags.filter fun t => t.pool = k).length

/-- The tags of a pool that a paddock is assured while its requests wait: floor(pool size x TEAMS / 320) (R199). -/
def State.assured (s : State) (k p : Nat) : Nat :=
  poolSize k * (((tget s.paddocks p).map (·.teams.length)).getD 0) / 320

/-- Tags of a pool that a paddock holds. -/
def State.poolUsedBy (s : State) (k p : Nat) : Nat := (s.basin.tags.filter fun t => t.pool = k && t.paddock = p).length

/-- Whether a bind has a line that could be issued now and has no tag, to or from a place whose tags come from a pool or,
where that pool is exhausted, from the shared one (R198, R199). -/
def State.bindWaits (s : State) (b : Bind) (k : Nat) : Bool :=
  match tget s.streams b.handle with
  | none => false
  | some st =>
    !b.host && (List.range 4096).any fun i =>
      let tile := match b.consumer with | none => st.committed - b.base + i | some _ => b.moved + i
      let due := match b.consumer with
        | none => tile < b.tiles && st.state = .opened && st.credit (b.base + tile)
        | some _ => tile < b.moved + b.took
      due && !b.doneTiles.contains tile && (List.range 64).any fun line =>
        let own := s.tagPool (b.lineAddr tile line)
        (own = k || (k = 17 && poolSize own ≤ s.poolUsed own)) &&
        !b.issued.contains (tile, line) && !b.landed.any fun e => e.1 = tile && e.2.1 = line

/-- Whether a paddock may take a tag of a pool: one is free, and where the paddock has its assured number, no other
paddock whose requests wait there lacks its own (R199). -/
def State.tagFor (s : State) (k p : Nat) : Bool :=
  s.poolUsed k < poolSize k &&
  (s.poolUsedBy k p < s.assured k p ||
    s.paddocks.all fun e => e.1 = p || s.assured k e.1 ≤ s.poolUsedBy k e.1 ||
      !s.basin.binds.any fun b => b.paddock = e.1 && s.bindWaits b k)

/-- A tag for a request of a paddock: from its own pool, the shared one where that is exhausted, else none: the request
waits (R198, R199). -/
def State.takeTag (s : State) (a p : Nat) (mk : Nat → Nat → TagReq) : Option State :=
  let own := s.tagPool a
  let pool := if s.poolUsed own < poolSize own then (if s.tagFor own p then some own else none)
    else if s.tagFor 17 p then some 17 else none
  match pool with
  | none => none
  | some k =>
    match s.pick (fun n => s.basin.tags.any fun t => t.tag = n) 0 262144 with
    | (none, _) => none
    | (some n, s') => some { s' with basin := { s'.basin with tags := s'.basin.tags ++ [mk n k] } }

/-- Frees a tag. -/
def State.freeTag (s : State) (n : Nat) : State :=
  { s with basin := { s.basin with tags := s.basin.tags.filter fun t => t.tag != n } }

/-- The request that holds a tag. -/
def State.tagOf (s : State) (n : Nat) : Option TagReq := s.basin.tags.find? fun t => t.tag = n

/-- A line of a bind has landed in the Basin or has been written. -/
def State.lineLanded (s : State) (w : BitVec 64) (tile line : Nat) (p : Bool) (bs : List Byte) : State :=
  s.modBind w fun b => { b with issued := b.issued.filter fun e => e != (tile, line),
                                landed := b.landed ++ [(tile, line, p, bs)] }

/-! ### CXL devices (R239 to R242) -/

/-- Changes a device. -/
def State.modDev (s : State) (d : Nat) (f : CxlDev → CxlDev) : State :=
  { s with cxl := { s.cxl with devs := tmod s.cxl.devs d f } }

/-- Forms the interleave sets of devices that come into service together, in increasing port order (R239). -/
def formSets : List (Nat × CxlDev) → Nat → List (Nat × CxlDev) × Nat
  | a :: b :: c :: d :: t, n => 
    let r := formSets t (n + 1)
    ([a, b, c, d].map (fun e => (e.1, { e.2 with iset := n })) ++ r.1, r.2)
  | a :: b :: t, n =>
    let r := formSets t (n + 1)
    ([a, b].map (fun e => (e.1, { e.2 with iset := n })) ++ r.1, r.2)
  | [a], n => ([(a.1, { a.2 with iset := n })], n + 1)
  | [], n => ([], n)

/-- Devices come into service: as sets at the first enumeration, each as its own range at a later rescan (R239,
R241). -/
def State.bringDevs (s : State) (ds : List (Nat × CxlDev)) (asSets : Bool) : State :=
  let ds := ds.map fun e => (e.1, { e.2 with inService := true, offline := false, spent := 0 })
  let r := if asSets then formSets ds s.cxl.nextSet
    else ds.foldl (fun (acc : List (Nat × CxlDev) × Nat) e => (acc.1 ++ [(e.1, { e.2 with iset := acc.2 })], acc.2 + 1))
      ([], s.cxl.nextSet)
  { s with cxl := { s.cxl with devs := r.1.foldl (fun t e => tput t e.1 e.2) s.cxl.devs, nextSet := r.2 } }

/-- The ranges that lie on a device. -/
def Cxl.keysOf (x : Cxl) (d : Nat) : List Nat :=
  match tget x.devs d with
  | some e => [8 * e.iset, 8 * e.iset + 1 + d]
  | none => []

/-- A device leaves service: the pages of its ranges and of its interleave set are lost, requests to it are dropped,
and what the other devices of the set gave to it stays out of use (R241, log entry 16). -/
def State.loseDev (s : State) (d : Nat) : State :=
  match tget s.cxl.devs d with
  | none => s
  | some e =>
    if !e.inService then s
    else
      let keys := s.cxl.keysOf d
      let mark := fun (l : Alloc) =>
        if l.tier = .park then
          { l with lost := (l.pages.filter fun q => keys.contains q.1).foldl (fun a q => insNat q.1 a) l.lost }
        else l
      let s : State := { s with allocs := s.allocs.map fun x => (x.1, mark x.2) }
      let set := s.cxl.devs.filter fun x => x.2.inService && x.2.iset = e.iset
      let low := set.foldl (fun m x => min m x.2.capacity) e.capacity
      let s : State := { s with cxl := { s.cxl with
        devs := s.cxl.devs.map fun x =>
          if x.1 = d then (x.1, { x.2 with inService := false, offline := true })
          else if x.2.iset = e.iset && x.2.inService && x.2.spent = 0 then (x.1, { x.2 with spent := low }) else x } }
      let s : State := { s with basin := { s.basin with tags := s.basin.tags.map fun (t : TagReq) =>
        if t.park && t.dev = d then { t with dropped := true } else t } }
      let s := s.logEv evCxlOffline 0xFF#8 0#16 d 0#64 (leBytes 8 e.serial.toNat)
      let hit := s.basin.binds.filter fun b => !b.host && (List.range (b.tiles + 1)).any fun i =>
        s.parkLost (b.lineAddr (min i (b.tiles - 1)) 0)
      hit.foldl (fun s b => s.resetBind b.wid stParkLost) s

end Sys2Proof.Machine
end

