-- ==== Sys2Proof/Machine/LearnOps.lean ====
section
/-! DEFINITION. Learning (R301 to R324): gradient blocks and the bucket pass, the owner's exact sums, the norm, the menu
of rules, compute copies, and micro-programs. -/

namespace Sys2Proof.Machine

open Sys2Proof

/-! ### Gradient blocks (R301, R303) -/

/-- The FP32 value at an address. -/
def State.f32At (s : State) (a : Nat) : F32 := BitVec.ofNat 32 (leNat (s.bytes a 4))

/-- The BF16 value at an address. -/
def State.bf16At (s : State) (a : Nat) : BitVec 16 := BitVec.ofNat 16 (leNat (s.bytes a 2))

/-- Whether an FP32 value is a NaN or infinite. -/
def notFinite (a : F32) : Bool :=
  match fv a with
  | .fin _ _ _ => false
  | _ => true

/-- The exact value of an MXFP8 E4M3 code under a scale code; scale 0xFF is NaN (R301, R305). -/
def g8Value (code scale : Nat) : FVal :=
  if scale = 0xFF then .nan
  else match Fmt.e4m3.decode code with
    | .fin s m e => .fin s m (e + ((scale : Int) - 127))
    | v => v

/-- The 32 codes and the scale code of a block of FP32 values: QMX under RNE, or scale 0xFF with codes 0 for a block
that holds a NaN or an infinity (R303, R305). -/
def g8Block (vs : List F32) : List Nat × Nat :=
  if vs.any notFinite then (vs.map fun _ => 0, 0xFF)
  else
    let r := qmx (.fp .e4m3) .rne (vs.map fun _ => 0) (vs.map fv)
    (r.2, r.1)

/-- The residual of an element: the exact difference of value and dequantised code, rounded once to BF16. -/
def residual (v : F32) (code scale : Nat) : BitVec 16 :=
  if scale = 0xFF then 0#16
  else BitVec.ofNat 16 (Fmt.bf16.round .rne false 0 (FVal.add .rne (fv v) (g8Value code scale).neg))

/-- The bucket pass over one block (R303): the 33 bytes staged and the 64 bytes of ROUT. -/
def passBlock (gacc : List F32) (rin : List (BitVec 16)) : List Byte × List Byte :=
  let vs := (gacc.zip rin).map fun e => fadd .rne e.1 (wide e.2)
  let q := g8Block vs
  (q.1.map (BitVec.ofNat 8) ++ [BitVec.ofNat 8 q.2],
   (vs.zip q.1).flatMap fun e => leBytes 2 (residual e.1 e.2 q.2).toNat)

/-- The bucket pass over E elements from the bytes of GACC and RIN: the staged blocks, and the bytes of ROUT (R303). -/
def bucketPass (e : Nat) (gacc rin : List Byte) : List Byte × List Byte :=
  let r := (List.range (e / 32)).map fun b =>
    passBlock ((List.range 32).map fun i => BitVec.ofNat 32 (fld gacc (4 * (32 * b + i)) 4))
      ((List.range 32).map fun i => BitVec.ofNat 16 (fld rin (2 * (32 * b + i)) 2))
  (r.flatMap (·.1), r.flatMap (·.2))

/-- Whether bytes where an address resolves to are poisoned; host memory says so of a whole read only. -/
def State.locPoisoned (s : State) (l : Loc) (off n : Nat) (whole : Bool) : Bool :=
  match l with
  | .host _ => whole
  | .part a _ => s.poisoned (a + off) n

/-- Writes ROUT: the residuals of the bucket pass, poisoned where what they were drawn from was (R193, R303). -/
def State.writeRout (s : State) (x : Exch) : State :=
  match x.routTo with
  | (some fn, a) => s.hostWrite fn a x.residuals (!x.bad.isEmpty)
  | (none, a) => x.bad.foldl (fun s b => s.poisonLine (a + 64 * b)) (s.store a x.residuals)

/-! ### The owner's sums (R305, R306) -/

/-- The exact sum of the contributions of one element, rounded once to FP32. -/
def sumElem (vs : List FVal) : F32 := toF32 .rne ((vs.foldl Acc.addTerm Acc.reset).resolve .rne 0 (.zero false))

/-- The values of the 33 staged bytes of a block. -/
def stagedValues (bs : List Byte) : List FVal := (List.range 32).map fun i => g8Value (fld bs i 1) (fld bs 32 1)

/-- A reduced block: its codes and scale code from the members' staged blocks. -/
def reduceBlock (cs : List (List Byte)) : List Nat × Nat :=
  let vals := cs.map stagedValues
  g8Block ((List.range 32).map fun i => sumElem (vals.map fun v => (v[i]?).getD (.zero false)))

/-- Changes a parameter set. -/
def State.modSet (s : State) (h : Nat) (f : LSet → LSet) : State :=
  { s with learn := { s.learn with sets := tmod s.learn.sets h f } }

/-- Changes an exchange. -/
def State.modExch (s : State) (w : BitVec 64) (f : Exch → Exch) : State :=
  { s with learn := { s.learn with exchs := s.learn.exchs.map fun x => if x.wid = w then f x else x } }

/-- The address of a code and of a block's scale in a group's G8 (R301). -/
def PGroup.g8At (g : PGroup) (e : Nat) : Nat × Nat := (g.g8 + e, g.g8 + roundUp g.elements 256 + e / 32)

/-- Writes a reduced block at an element of a group's G8, and adds its exact squares to the bucket's own sums: the
square sum and, for a FACTORED group, those of its rows and columns. They reach the set when the exchange completes: an
exchange that fails contributes nothing (R305, R306). -/
def State.writeG8 (s : State) (x : Exch) (gi : Nat) (g : PGroup) (e : Nat) (q : List Nat × Nat) (bad : Bool) : State :=
  let s := (s.storeP bad (g.g8At e).1 (q.1.map (BitVec.ofNat 8))).storeP bad (g.g8At e).2 [BitVec.ofNat 8 q.2]
  let sq := q.1.map fun c => let v := g8Value c q.2; v.mul v
  let s := s.modExch x.wid fun y => { y with sq := sq.foldl Acc.addTerm y.sq, poisoned := y.poisoned + if bad then 2 else 0 }
  if g.rule = 4 then
    (sq.zip (List.range 32)).foldl (fun s t =>
      let r := 2 ^ 24 * gi + (e + t.2) / g.cols
      let c := 2 ^ 16 * gi + (e + t.2) % g.cols
      s.modExch x.wid fun y => { y with
        rows := tputD Acc.reset y.rows r ((tgetD Acc.reset y.rows r).addTerm t.1)
        cols := tputD Acc.reset y.cols c ((tgetD Acc.reset y.cols c).addTerm t.1) }) s
  else s

/-- Clears a set's accumulators and returns it to ACCUMULATING (R309, R422). -/
def LSet.abandon (l : LSet) : LSet :=
  { l with state := .accumulating, buckets := [], rowAcc := [], colAcc := [], nonfinite := false, bucketsDone := 0, naBlocks := 0 }

/-- Merges the entries of one table of accumulators into another (R99). -/
def mergeTbl (a b : Tbl Acc) : Tbl Acc := b.foldl (fun t e => tputD Acc.reset t e.1 ((tgetD Acc.reset t e.1).merge e.2)) a

/-- A set whose norm is fixed: the sums of its buckets are cleared, and those of rows and columns stay for the sweep
(R306, R308, R319). -/
def LSet.closeBuckets (l : LSet) : LSet :=
  { l with
    rowAcc := l.buckets.foldl (fun t b => mergeTbl t b.2.rows) l.rowAcc
    colAcc := l.buckets.foldl (fun t b => mergeTbl t b.2.cols) l.colAcc
    buckets := [] }

/-! ### The norm (R308) -/

/-- The norm and the gradient multiplier of a merged accumulator; the flag says NONFINITE. -/
def normOf (a : Acc) (gscale maxNorm : F32) : F32 × F32 × Bool :=
  let ss := toF32 .rne (a.resolve .rne 0 (.zero false))
  let n := fmul .rne (fsqrt .rne ss) gscale
  if notFinite n then (n, 0#32, true)
  else if fv maxNorm = .fin false 0 0 || fv maxNorm = .fin true 0 0 || flt n maxNorm ||
      (!isNan maxNorm && fkey n = fkey maxNorm) then
    (n, gscale, false)
  else (n, fmul .rne gscale (fdiv .rne maxNorm n), false)

/-! ### The menu (R317, R318) -/

/-- pow_t of R317, over the bits of t from the lowest. -/
def powGo : Nat → Nat → F32 → F32 → F32
  | 0, _, r, _ => r
  | n + 1, t, r, x => if t = 0 then r else powGo n (t / 2) (if t % 2 = 1 then fmul .rne r x else r) (fmul .rne x x)

/-- The constants of a group in a sweep (R317). -/
structure Consts where
  /-- lr -/
  lr : F32
  /-- wd -/
  wd : F32
  /-- lrwd -/
  lrwd : F32
  /-- b1 -/
  b1 : F32
  /-- b2 -/
  b2 : F32
  /-- 1 - b1 -/
  ob1 : F32
  /-- 1 - b2 -/
  ob2 : F32
  /-- c1 -/
  c1 : F32
  /-- c2 -/
  c2 : F32
  /-- eps -/
  eps : F32
  /-- gmul -/
  gmul : F32
  /-- t -/
  t : Nat
deriving DecidableEq, Repr

/-- The constants of a group. -/
def LSet.consts (l : LSet) (g : PGroup) : Consts :=
  let t := l.step + 1
  let lr := fmul .rne g.lr l.lrMul
  let corr := fun (b : F32) => fdiv .rne fOne (fsub .rne fOne (powGo 64 t fOne b))
  { lr := lr, wd := g.wd, lrwd := fmul .rne lr g.wd, b1 := g.b1, b2 := g.b2, ob1 := fsub .rne fOne g.b1,
    ob2 := fsub .rne fOne g.b2, c1 := corr g.b1, c2 := corr g.b2, eps := g.eps, gmul := l.gmul, t := t }

/-- sign(x) of R318; a NaN is neither positive nor negative. -/
def fsign (x : F32) : F32 :=
  if isNan x then 0#32 else if flt 0#32 x then fOne else if flt x 0#32 then fneg fOne else 0#32

/-- What a rule reads of an element. -/
structure Elem where
  /-- g -/
  g : F32
  /-- master -/
  p : F32
  /-- first moment -/
  m : F32
  /-- second moment -/
  v : F32
  /-- row factor -/
  rf : F32
  /-- column factor -/
  cf : F32
  /-- inv_rmean of the group -/
  inv : F32
  /-- logical index in the tensor -/
  index : Nat
deriving DecidableEq, Repr

/-- p after decay and a step along u. -/
def Consts.step (c : Consts) (p u : F32) : F32 := fma (fneg c.lr) u (fma (fneg c.lrwd) p p)

/-- Rules 0 to 6 (R318): the new master, first and second moment. -/
def menu (rule m1fmt : Nat) (c : Consts) (x : Elem) : F32 × F32 × F32 :=
  match rule with
  | 0 => (c.step x.p x.g, x.m, x.v)
  | 1 => let m := fma c.b1 x.m x.g; (c.step x.p m, m, x.v)
  | 2 => let m := fma c.b1 x.m x.g; (c.step x.p (fma c.b1 m x.g), m, x.v)
  | 3 =>
    let m := fma c.b1 x.m (fmul .rne c.ob1 x.g)
    let v := fma c.b2 x.v (fmul .rne c.ob2 (fmul .rne x.g x.g))
    let d := fdiv .rne (fmul .rne m c.c1) (fadd .rne (fsqrt .rne (fmul .rne v c.c2)) c.eps)
    (c.step x.p d, m, v)
  | 4 =>
    let v := fmul .rne (fmul .rne x.rf x.cf) x.inv
    let u := fdiv .rne x.g (fadd .rne (fsqrt .rne (fmul .rne v c.c2)) c.eps)
    if m1fmt = 0 then (c.step x.p u, x.m, x.v)
    else let m := fma c.b1 x.m (fmul .rne c.ob1 u); (c.step x.p (fmul .rne m c.c1), m, x.v)
  | 5 =>
    let d := fma c.b1 x.m (fmul .rne c.ob1 x.g)
    let m := fma c.b2 x.m (fmul .rne c.ob2 x.g)
    (c.step x.p (fsign d), m, x.v)
  | _ => let m := fma c.b1 x.m (fmul .rne c.ob1 x.g); (c.step x.p (fsign m), m, x.v)

/-! ### Micro-programs (R322 to R324) -/

/-- A field of an instruction word (Table 9-5). -/
def microFld (w : BitVec 32) (lo n : Nat) : Nat := w.toNat / 2 ^ lo % 2 ^ n

/-- Operations of Table 9-6 that exist. -/
def microOps : List Nat := [0x00, 0x01, 0x02, 0x03, 0x04, 0x08, 0x09, 0x0A, 0x0B, 0x0C, 0x0D, 0x0E, 0x0F, 0x10, 0x11,
  0x12, 0x13, 0x14, 0x15, 0x16, 0x17]

/-- Whether the selectors of an instruction exist. -/
def selectorOk (w : BitVec 32) : Bool :=
  match microFld w 0 6 with
  | 0x01 => [0, 1, 2, 3, 5, 6].contains (microFld w 10 4)
  | 0x02 => 1 ≤ microFld w 6 4 && microFld w 6 4 ≤ 4
  | 0x03 => microFld w 10 4 ≤ 8
  | 0x16 => microFld w 10 4 ≤ 3
  | 0x17 => microFld w 10 4 ≤ 3
  | _ => true

/-- The checks of R322, in order. -/
def microOk (img : List Byte) : Bool :=
  let n := fld img 4 2
  let code := (List.range n).map fun i => BitVec.ofNat 32 (fld img (64 + 4 * i) 4)
  let stores := (code.filter fun w => microFld w 0 6 = 0x02).map fun w => microFld w 6 4
  fld img 0 4 = 0x314D5647 && 1 ≤ n && n ≤ 64 && (slice img 6 58).all (fun b => b = 0#8) &&
  code.all (fun w => microFld w 22 10 = 0) && code.all (fun w => microOps.contains (microFld w 0 6) && selectorOk w) &&
  stores.eraseDups.length = stores.length &&
  (microFld (code.getLastD 0#32) 0 6 = 0 || code.length = n)

/-- What a micro-program leaves: its registers and the arrays it stored to. -/
structure MicroSt where
  /-- f0 to f15 -/
  f : Tbl F32
  /-- stores: array and value -/
  stores : List (Nat × F32)
  /-- END was reached -/
  ended : Bool
deriving DecidableEq, Repr

/-- The block of the counter generator of an element (R324). -/
def microBlock (seed : BitVec 64) (g : PGroup) (index : Nat) : List (BitVec 32) :=
  cb4 seed (cbCounter 4 g.subject g.stream (BitVec.ofNat 64 index))

/-- One instruction (Table 9-6). -/
def microStep (c : Consts) (g : PGroup) (consts : List (BitVec 32)) (seed : BitVec 64) (x : Elem) (s : MicroSt)
    (w : BitVec 32) : MicroSt :=
  if s.ended then s
  else
    let d := microFld w 6 4
    let a := microFld w 10 4
    let f := fun (k : Nat) => tgetD 0#32 s.f k
    let fa := f a
    let fb := f (microFld w 14 4)
    let fc := f (microFld w 18 4)
    let put := fun (v : F32) => { s with f := tputD 0#32 s.f d v }
    match microFld w 0 6 with
    | 0x00 => { s with ended := true }
    | 0x01 => put (match a with | 0 => x.g | 1 => x.p | 2 => x.m | 3 => x.v | 5 => x.rf | _ => x.cf)
    | 0x02 => { s with stores := s.stores ++ [(d, fa)] }
    | 0x03 => put (match a with
      | 0 => c.lr | 1 => c.wd | 2 => c.b1 | 3 => c.b2 | 4 => c.eps | 5 => c.c1 | 6 => c.c2 | 7 => c.gmul
      | _ => fOfInt .rne c.t)
    | 0x04 => put ((consts[a]?).getD 0#32)
    | 0x08 => put (fadd .rne fa fb)
    | 0x09 => put (fsub .rne fa fb)
    | 0x0A => put (fmul .rne fa fb)
    | 0x0B => put (fdiv .rne fa fb)
    | 0x0C => put (fma fa fb fc)
    | 0x0D => put (fsqrt .rne fa)
    | 0x0E => put (fmin fa fb)
    | 0x0F => put (fmax fa fb)
    | 0x10 => put (if isNan fa then 0x7FC00000#32 else fa &&& 0x7FFFFFFF#32)
    | 0x11 => put (if isNan fa then 0x7FC00000#32 else fneg fa)
    | 0x12 => put (fsign fa)
    | 0x13 => put (if !isNan fa && !flt fa 0#32 then fb else fc)
    | 0x14 => put (fexp fa)
    | 0x15 => put (flog fa)
    | 0x16 => put (uniform (((microBlock seed g x.index)[a]?).getD 0#32))
    | _ => put (((normal4 (microBlock seed g x.index))[a]?).getD 0#32)

/-- A micro-program on one element. -/
def runMicro (m : Micro) (c : Consts) (g : PGroup) (seed : BitVec 64) (x : Elem) : List (Nat × F32) :=
  (m.code.foldl (microStep c g m.consts seed x) { f := [], stores := [], ended := false }).stores

/-! ### One element and its copy (R318, R320) -/

/-- What an element's rule stores: PARAM, M1, M2, COPY, each where it is stored. -/
structure Stored where
  /-- PARAM -/
  p : Option F32
  /-- M1 -/
  m : Option F32
  /-- M2 -/
  v : Option F32
  /-- COPY -/
  copy : Option F32
deriving DecidableEq, Repr

/-- A rule on one element. -/
def State.applyRule (s : State) (l : LSet) (g : PGroup) (c : Consts) (x : Elem) : Stored :=
  if g.rule = 7 then
    match tget s.learn.micros g.micro with
    | none => { p := none, m := none, v := none, copy := none }
    | some m =>
      let st := runMicro m c g l.seed x
      let get := fun (k : Nat) => (st.find? fun e => e.1 = k).map (·.2)
      { p := get 1, m := get 2, v := get 3, copy := get 4 }
  else
    let r := menu g.rule g.m1fmt c x
    { p := some r.1, m := if g.m1fmt = 0 then none else some r.2.1, v := if g.m2fmt = 0 then none else some r.2.2,
      copy := if g.copyfmt = 0 then none else some r.1 }

/-- The MX format of a copy. -/
def copyMx : Nat → MxFmt
  | 1 => .fp .e2m1
  | 2 => .fp .e2m3
  | 3 => .fp .e3m2
  | 4 => .fp .e4m3
  | _ => .fp .e5m2

/-- Bits of a copy's element code. -/
def copyBits : Nat → Nat
  | 1 => 4
  | 2 => 6
  | 3 => 6
  | 6 => 16
  | _ => 8

/-- Codes packed low bits first (R109). -/
def packBits (bits : Nat) (cs : List Nat) : List Byte :=
  leBytes (cs.length * bits / 8) (cs.foldr (fun c acc => c % 2 ^ bits + 2 ^ bits * acc) 0)

/-- A block of a compute copy: packed codes, and the scale code of an MX format (R320). -/
def copyOf (l : LSet) (g : PGroup) (first : Nat) (ps : List F32) : List Byte × Option Nat :=
  let mode : RMode := if g.copySr then .sr else .rne
  let us := (List.range ps.length).map fun i => if g.copySr then srInt l.seed g.stream (first + i) else 0
  if g.copyfmt = 6 then
    ((ps.zip us).flatMap fun e => leBytes 2 (Fmt.bf16.round mode false e.2 (fv e.1)), none)
  else
    let q := qmx (copyMx g.copyfmt) mode us (ps.map fv)
    (packBits (copyBits g.copyfmt) q.2, some q.1)

/-! ### Spans (R315, R321, R327) -/

/-- Bytes of a moment's format. -/
def momBytes (f : Nat) : Nat := if f = 1 then 2 else if f = 2 then 4 else 0

/-- A moment read with exact widening. -/
def State.momAt (s : State) (f a e : Nat) : F32 :=
  if f = 1 then wide (s.bf16At (a + 2 * e)) else if f = 2 then s.f32At (a + 4 * e) else 0#32

/-- A moment's bytes in its format, rounded under RNE. -/
def momBytesOf (f : Nat) (v : F32) : List Byte := if f = 1 then leBytes 2 (toBf16 .rne v).toNat else leBytes 4 v.toNat

/-- Elements of a span. -/
def PGroup.spanLen (g : PGroup) (k : Nat) : Nat := min 128 (g.elements - 128 * k)

/-- Spans of a group. -/
def PGroup.spans (g : PGroup) : Nat := (g.elements + 127) / 128

/-- The instructions of a program that run: those before END (R323). -/
def Micro.body (m : Micro) : List (BitVec 32) := m.code.takeWhile fun w => microFld w 0 6 != 0

/-- The operands that a program loads, by LD's selector (Table 9-6). -/
def Micro.loads (m : Micro) : List Nat := (m.body.filter fun w => microFld w 0 6 = 0x01).map fun w => microFld w 10 4

/-- The arrays that a program stores to, by ST's selector (Table 9-6). -/
def Micro.stores (m : Micro) : List Nat := (m.body.filter fun w => microFld w 0 6 = 0x02).map fun w => microFld w 6 4

/-- The operands that a group's rule reads, as LD numbers them: for MICRO those that its program loads (Table 9-3). -/
def State.loadsOf (s : State) (g : PGroup) : List Nat :=
  if g.rule = 7 then ((tget s.learn.micros g.micro).map Micro.loads).getD []
  else [0, 1] ++ (if g.m1fmt = 0 then [] else [2]) ++ (if g.m2fmt = 0 then [] else [3]) ++ if g.rule = 4 then [5, 6] else []

/-- The arrays that a group's rule writes, as ST numbers them: for MICRO those that its program stores to (Table
9-3). -/
def State.storesOf (s : State) (g : PGroup) : List Nat :=
  if g.rule = 7 then ((tget s.learn.micros g.micro).map Micro.stores).getD []
  else [1] ++ (if g.m1fmt = 0 then [] else [2]) ++ (if g.m2fmt = 0 then [] else [3]) ++ if g.copyfmt = 0 then [] else [4]

/-- The ranges that a span reads (R327, Table 9-3). -/
def State.spanReads (s : State) (g : PGroup) (k : Nat) : List (Nat × Nat) :=
  let e := 128 * k
  let n := g.spanLen k
  (s.loadsOf g).flatMap fun a =>
    match a with
    | 0 => [((g.g8At e).1, n), ((g.g8At e).2, (n + 31) / 32)]
    | 1 => [(g.param + 4 * e, 4 * n)]
    | 2 => [(g.m1 + momBytes g.m1fmt * e, momBytes g.m1fmt * n)]
    | 3 => [(g.m2 + momBytes g.m2fmt * e, momBytes g.m2fmt * n)]
    | 5 => [(g.rf + 4 * (e / g.cols), 4 * ((e + n - 1) / g.cols - e / g.cols + 1))]
    | _ => (List.range n).map fun i => (g.cf + 4 * ((e + i) % g.cols), 4)

/-- An element of a group as a rule reads it. -/
def State.elemAt (s : State) (l : LSet) (gi : Nat) (g : PGroup) (e : Nat) : Elem :=
  { g := fmul .rne l.gmul (toF32 .rne (g8Value (s.byte (g.g8At e).1).toNat (s.byte (g.g8At e).2).toNat)),
    p := s.f32At (g.param + 4 * e), m := s.momAt g.m1fmt g.m1 e, v := s.momAt g.m2fmt g.m2 e,
    rf := if g.rows = 0 then 0#32 else s.f32At (g.rf + 4 * (e / g.cols)),
    cf := if g.rows = 0 then 0#32 else s.f32At (g.cf + 4 * (e % g.cols)),
    inv := tgetD 0#32 l.inv gi, index := g.base + e }

/-- Writes one block of a span's copy. -/
def State.storeCopy (s : State) (l : LSet) (g : PGroup) (e : Nat) (ps : List F32) : State :=
  let r := copyOf l g (g.base + e) ps
  let s := s.store (g.copy + e * copyBits g.copyfmt / 8) r.1
  match r.2 with
  | some x => s.store (g.copy + roundUp (g.elements * copyBits g.copyfmt / 8) 256 + e / 32) [BitVec.ofNat 8 x]
  | none => s

/-- Whether a span reads a poisoned line (R327). -/
def State.spanPoisoned (s : State) (g : PGroup) (k : Nat) : Bool := (s.spanReads g k).any fun r => s.poisoned r.1 r.2

/-- Processes a span: every element's rule on its state before the sweep, then the stores (R318, R320). -/
def State.updateSpan (s : State) (l : LSet) (gi : Nat) (g : PGroup) (k : Nat) : State :=
  let c := l.consts g
  let es := (List.range (g.spanLen k)).map fun i => (128 * k + i, s.applyRule l g c (s.elemAt l gi g (128 * k + i)))
  let s := es.foldl (fun s x =>
    let s := match x.2.p with | some v => s.store (g.param + 4 * x.1) (leBytes 4 v.toNat) | none => s
    let s := match x.2.m with | some v => s.store (g.m1 + momBytes g.m1fmt * x.1) (momBytesOf g.m1fmt v) | none => s
    match x.2.v with | some v => s.store (g.m2 + momBytes g.m2fmt * x.1) (momBytesOf g.m2fmt v) | none => s) s
  (List.range ((g.spanLen k + 31) / 32)).foldl (fun s b =>
    let ps := ((es.drop (32 * b)).take 32).filterMap fun x => x.2.copy
    if ps.length = 32 then s.storeCopy l g (128 * k + 32 * b) ps else s) s

/-- The ranges of a span in every array that the unit writes (R321, R423). -/
def State.spanWrites (s : State) (g : PGroup) (k : Nat) : List (Nat × Nat) :=
  let e := 128 * k
  let n := g.spanLen k
  let b := copyBits g.copyfmt
  (s.storesOf g).flatMap fun a =>
    match a with
    | 1 => [(g.param + 4 * e, 4 * n)]
    | 2 => [(g.m1 + momBytes g.m1fmt * e, momBytes g.m1fmt * n)]
    | 3 => [(g.m2 + momBytes g.m2fmt * e, momBytes g.m2fmt * n)]
    | _ => (g.copy + e * b / 8, n * b / 8) ::
        if g.copyfmt = 6 then [] else [(g.copy + roundUp (g.elements * b / 8) 256 + e / 32, (n + 31) / 32)]

/-- The bytes that a unit has written to MOORED arrays of a span pass into the mooring's staging in the Basin (R37,
R321). -/
def State.stageMoored (s : State) (g : PGroup) (k : Nat) : State :=
  (s.spanWrites g k).foldl (fun s r =>
    if (s.allocAt r.1).any fun a => a.2.moored then
      (s.landIn (areaMoor + 0x200000 * (k % 16)) 0x200000 (s.bytes r.1 r.2) []).1
    else s) s

/-- A store that keeps the poison of the lines it writes: what was computed from a poisoned line stays poisoned (R191). -/
def State.storeKeep (s : State) (a : Nat) (bs : List Byte) : State :=
  (lineAddrs a bs.length).foldl (fun s l =>
    let lo := max l a
    let k := min (l + 256) (a + bs.length) - lo
    s.storeP (s.poisoned lo k) lo (slice bs (lo - a) k)) s

/-- The factor update of a FACTORED group at the start of a sweep (R319): RF and CF are rewritten, and inv_rmean is
kept. -/
def State.factorUpdate (s : State) (h : Nat) (l : LSet) (gi : Nat) (g : PGroup) : State :=
  if g.rule != 4 then s
  else
    let c := l.consts g
    let gg := fmul .rne l.gmul l.gmul
    let acc := fun (t : Tbl Acc) (k : Nat) => toF32 .rne ((tgetD Acc.reset t k).resolve .rne 0 (.zero false))
    let upd := fun (old x n : F32) => fma c.b2 old (fmul .rne c.ob2 (fdiv .rne x n))
    let rows := (List.range g.rows).map fun i =>
      upd (s.f32At (g.rf + 4 * i)) (fmul .rne (acc l.rowAcc (2 ^ 24 * gi + i)) gg) (fOfInt .rne g.cols)
    let cols := (List.range g.cols).map fun j =>
      upd (s.f32At (g.cf + 4 * j)) (fmul .rne (acc l.colAcc (2 ^ 16 * gi + j)) gg) (fOfInt .rne g.rows)
    let s := (s.storeKeep g.rf (rows.flatMap fun v => leBytes 4 v.toNat)).storeKeep g.cf
      (cols.flatMap fun v => leBytes 4 v.toNat)
    let rsum := toF32 .rne ((rows.foldl (fun a v => Acc.addTerm a (fv v)) Acc.reset).resolve .rne 0 (.zero false))
    let inv := if rsum = 0#32 || rsum = 0x80000000#32 then 0#32 else fdiv .rne (fOfInt .rne g.rows) rsum
    s.modSet h fun x => { x with inv := tput x.inv gi inv }

/-- An update unit. -/
def State.unit (s : State) (u : Nat) : UUnit := tgetD UUnit.reset s.learn.units u

/-- The stack that holds the 512 B granule of a span's PARAM (R315). -/
def State.stackOf (s : State) (g : PGroup) (k : Nat) : Nat :=
  match s.hbmSpot (g.param + 512 * k) with
  | some x => x.1 / 32
  | none => 0

/-- The unit that serves a stack: its own, or where units are retired the next of its die, or the stack of the next die
(R423). -/
def State.serving : Nat → State → Nat → Nat
  | 0, _, st => st
  | fuel + 1, s, st =>
    let d := st / 3
    match [st, 3 * d + (st + 1) % 3, 3 * d + (st + 2) % 3].find? fun u => !(s.unit u).retired with
    | some u => u
    | none => State.serving fuel s (3 * ((d + 1) % 4))

/-- The update unit of a span (R315, R423). -/
def State.unitOf (s : State) (g : PGroup) (k : Nat) : Nat := State.serving 4 s (s.stackOf g k)

/-- The spans of a unit in a set, in its order: group and span (R315). -/
def State.unitSpans (s : State) (l : LSet) (u : Nat) : List (Nat × Nat) :=
  (l.groups.zip (List.range l.groups.length)).flatMap fun g =>
    ((List.range g.1.spans).filter fun k => s.unitOf g.1 k = u).map fun k => (g.2, k)

/-- The progress word of a unit: its spans done before the first that is not (R321). -/
def State.progressOf (s : State) (l : LSet) (u : Nat) : Nat := ((s.unitSpans l u).takeWhile fun x => l.spansDone.contains x).length

end Sys2Proof.Machine
end

