-- ==== Sys2Proof/Machine/Crypto.lean ====
section
/-! DEFINITION. The cryptographic functions that the spec names: SHA-384, HMAC-SHA-384 (R61, R78, R224, R235), the
AES-256 key unwrap of RFC 3394 (R78), from FIPS 180-4 and FIPS 197. -/

namespace Sys2Proof.Machine

open Sys2Proof

/-- Round constants 0 to 7 of SHA-512. -/
def shaK0 : List (BitVec 64) :=
  [0x428a2f98d728ae22#64, 0x7137449123ef65cd#64, 0xb5c0fbcfec4d3b2f#64, 0xe9b5dba58189dbbc#64,
   0x3956c25bf348b538#64, 0x59f111f1b605d019#64, 0x923f82a4af194f9b#64, 0xab1c5ed5da6d8118#64]

/-- Round constants 8 to 15 of SHA-512. -/
def shaK1 : List (BitVec 64) :=
  [0xd807aa98a3030242#64, 0x12835b0145706fbe#64, 0x243185be4ee4b28c#64, 0x550c7dc3d5ffb4e2#64,
   0x72be5d74f27b896f#64, 0x80deb1fe3b1696b1#64, 0x9bdc06a725c71235#64, 0xc19bf174cf692694#64]

/-- Round constants 16 to 23 of SHA-512. -/
def shaK2 : List (BitVec 64) :=
  [0xe49b69c19ef14ad2#64, 0xefbe4786384f25e3#64, 0x0fc19dc68b8cd5b5#64, 0x240ca1cc77ac9c65#64,
   0x2de92c6f592b0275#64, 0x4a7484aa6ea6e483#64, 0x5cb0a9dcbd41fbd4#64, 0x76f988da831153b5#64]

/-- Round constants 24 to 31 of SHA-512. -/
def shaK3 : List (BitVec 64) :=
  [0x983e5152ee66dfab#64, 0xa831c66d2db43210#64, 0xb00327c898fb213f#64, 0xbf597fc7beef0ee4#64,
   0xc6e00bf33da88fc2#64, 0xd5a79147930aa725#64, 0x06ca6351e003826f#64, 0x142929670a0e6e70#64]

/-- Round constants 32 to 39 of SHA-512. -/
def shaK4 : List (BitVec 64) :=
  [0x27b70a8546d22ffc#64, 0x2e1b21385c26c926#64, 0x4d2c6dfc5ac42aed#64, 0x53380d139d95b3df#64,
   0x650a73548baf63de#64, 0x766a0abb3c77b2a8#64, 0x81c2c92e47edaee6#64, 0x92722c851482353b#64]

/-- Round constants 40 to 47 of SHA-512. -/
def shaK5 : List (BitVec 64) :=
  [0xa2bfe8a14cf10364#64, 0xa81a664bbc423001#64, 0xc24b8b70d0f89791#64, 0xc76c51a30654be30#64,
   0xd192e819d6ef5218#64, 0xd69906245565a910#64, 0xf40e35855771202a#64, 0x106aa07032bbd1b8#64]

/-- Round constants 48 to 55 of SHA-512. -/
def shaK6 : List (BitVec 64) :=
  [0x19a4c116b8d2d0c8#64, 0x1e376c085141ab53#64, 0x2748774cdf8eeb99#64, 0x34b0bcb5e19b48a8#64,
   0x391c0cb3c5c95a63#64, 0x4ed8aa4ae3418acb#64, 0x5b9cca4f7763e373#64, 0x682e6ff3d6b2b8a3#64]

/-- Round constants 56 to 63 of SHA-512. -/
def shaK7 : List (BitVec 64) :=
  [0x748f82ee5defb2fc#64, 0x78a5636f43172f60#64, 0x84c87814a1f0ab72#64, 0x8cc702081a6439ec#64,
   0x90befffa23631e28#64, 0xa4506cebde82bde9#64, 0xbef9a3f7b2c67915#64, 0xc67178f2e372532b#64]

/-- Round constants 64 to 71 of SHA-512. -/
def shaK8 : List (BitVec 64) :=
  [0xca273eceea26619c#64, 0xd186b8c721c0c207#64, 0xeada7dd6cde0eb1e#64, 0xf57d4f7fee6ed178#64,
   0x06f067aa72176fba#64, 0x0a637dc5a2c898a6#64, 0x113f9804bef90dae#64, 0x1b710b35131c471b#64]

/-- Round constants 72 to 79 of SHA-512. -/
def shaK9 : List (BitVec 64) :=
  [0x28db77f523047d84#64, 0x32caab7b40c72493#64, 0x3c9ebe0a15c9bebc#64, 0x431d67c49c100d4c#64,
   0x4cc5d4becb3e42b6#64, 0x597f299cfc657e2a#64, 0x5fcb6fab3ad6faec#64, 0x6c44198c4a475817#64]

/-- The round constants of SHA-512. -/
def shaK : List (BitVec 64) :=
  shaK0 ++ shaK1 ++ shaK2 ++ shaK3 ++ shaK4 ++ shaK5 ++ shaK6 ++ shaK7 ++ shaK8 ++ shaK9

/-- The initial hash value of SHA-384. -/
def shaIv : List (BitVec 64) :=
  [0xcbbb9d5dc1059ed8#64, 0x629a292a367cd507#64, 0x9159015a3070dd17#64, 0x152fecd8f70e5939#64,
   0x67332667ffc00b31#64, 0x8eb44a8768581511#64, 0xdb0c2e0d64f98fa7#64, 0x47b5481dbefa4fa4#64]

/-- A 64-bit word from eight bytes, most significant first. -/
def beWord (bs : List Byte) : BitVec 64 := bs.foldl (fun a b => (a <<< 8) ||| b.zeroExtend 64) 0#64

/-- The eight bytes of a word, most significant first. -/
def beBytes (w : BitVec 64) : List Byte := (List.range 8).map fun i => (w >>> (8 * (7 - i))).truncate 8

/-- A string cut into pieces of `k`. -/
def chunks {α : Type} (k : Nat) : Nat → List α → List (List α)
  | 0, _ => []
  | n + 1, l => if l.isEmpty then [] else l.take k :: chunks k n (l.drop k)

/-- The message padded to whole blocks of 128 bytes. -/
def shaPad (m : List Byte) : List Byte :=
  let z := (239 - m.length % 128) % 128
  m ++ 0x80#8 :: List.replicate z 0#8 ++ (leBytes 16 (8 * m.length)).reverse

/-- The next word of the message schedule, kept newest first. -/
def shaNext (w : List (BitVec 64)) : BitVec 64 :=
  let at' := fun i => (w[i]?).getD 0#64
  let x := at' 14
  let y := at' 1
  let s0 := x.rotateRight 1 ^^^ x.rotateRight 8 ^^^ (x >>> 7)
  let s1 := y.rotateRight 19 ^^^ y.rotateRight 61 ^^^ (y >>> 6)
  s1 + at' 6 + s0 + at' 15

/-- The message schedule, oldest first. -/
def shaSched : Nat → List (BitVec 64) → List (BitVec 64)
  | 0, w => w.reverse
  | n + 1, w => shaSched n (shaNext w :: w)

/-- One round over the eight working variables. -/
def shaRound (v : List (BitVec 64)) (kw : BitVec 64 × BitVec 64) : List (BitVec 64) :=
  match v with
  | [a, b, c, d, e, f, g, h] =>
    let t1 := h + (e.rotateRight 14 ^^^ e.rotateRight 18 ^^^ e.rotateRight 41) +
      ((e &&& f) ^^^ (~~~e &&& g)) + kw.1 + kw.2
    let t2 := (a.rotateRight 28 ^^^ a.rotateRight 34 ^^^ a.rotateRight 39) + ((a &&& b) ^^^ (a &&& c) ^^^ (b &&& c))
    [t1 + t2, a, b, c, d + t1, e, f, g]
  | _ => v

/-- One block. -/
def shaBlock (h : List (BitVec 64)) (blk : List Byte) : List (BitVec 64) :=
  let w0 := (chunks 8 16 blk).map beWord
  let w := shaSched 64 w0.reverse
  List.zipWith (· + ·) h ((shaK.zip w).foldl shaRound h)

/-- SHA-384. -/
def sha384 (m : List Byte) : List Byte :=
  let p := shaPad m
  let h := (chunks 128 (p.length / 128) p).foldl shaBlock shaIv
  (h.flatMap beBytes).take 48

/-- HMAC-SHA-384. -/
def hmac384 (key m : List Byte) : List Byte :=
  let k0 := if key.length > 128 then sha384 key else key
  let k := k0 ++ List.replicate (128 - k0.length) 0#8
  sha384 (k.map (· ^^^ 0x5c#8) ++ sha384 (k.map (· ^^^ 0x36#8) ++ m))

/-- The bytes of a name in ASCII. -/
def ascii (t : String) : List Byte := t.toList.map fun c => BitVec.ofNat 8 c.toNat

/-! ### AES-256 (FIPS 197) -/

/-- Multiplication by x in GF(2^8). -/
def xtime (b : Byte) : Byte := (b <<< 1) ^^^ (if b.msb then 0x1b#8 else 0#8)

/-- Multiplication in GF(2^8), over the low `n` bits of the second factor. -/
def gmul (a : Byte) : Nat → Byte → Byte
  | 0, _ => 0#8
  | n + 1, b => (if b.getLsbD 0 then a else 0#8) ^^^ gmul (xtime a) n (b >>> 1)

/-- A power in GF(2^8). -/
def gpow (a : Byte) : Nat → Byte
  | 0 => 1#8
  | n + 1 => gmul a 8 (gpow a n)

/-- The AES S-box: the inverse in GF(2^8) and the affine map. -/
def sbox (a : Byte) : Byte :=
  let b := gpow a 254
  b ^^^ b.rotateLeft 1 ^^^ b.rotateLeft 2 ^^^ b.rotateLeft 3 ^^^ b.rotateLeft 4 ^^^ 0x63#8

/-- The inverse S-box. -/
def invSbox (a : Byte) : Byte :=
  let b := a.rotateLeft 1 ^^^ a.rotateLeft 3 ^^^ a.rotateLeft 6 ^^^ 0x05#8
  gpow b 254

/-- The next word of the AES-256 key schedule, kept newest first; `i` is its number. -/
def aesNext (i : Nat) (w : List (List Byte)) : List Byte :=
  let prev := (w[0]?).getD []
  let back := (w[7]?).getD []
  let t := if i % 8 = 0 then
      match (prev.drop 1 ++ prev.take 1).map sbox with
      | x :: r => (x ^^^ gpow 2#8 (i / 8 - 1)) :: r
      | [] => []
    else if i % 8 = 4 then prev.map sbox else prev
  List.zipWith (· ^^^ ·) back t

/-- The key schedule, oldest word first. -/
def aesExpand : Nat → Nat → List (List Byte) → List (List Byte)
  | 0, _, w => w.reverse
  | n + 1, i, w => aesExpand n (i + 1) (aesNext i w :: w)

/-- The fifteen round keys of AES-256. -/
def aesKeys (key : List Byte) : List (List Byte) :=
  (chunks 4 15 (aesExpand 52 8 (chunks 4 8 key).reverse)).map fun r => r.flatten

/-- One column of InvMixColumns. -/
def invMix (c : List Byte) : List Byte :=
  match c with
  | [a, b, d, e] =>
    let m := fun (x y z w : Byte) => gmul x 8 0x0e#8 ^^^ gmul y 8 0x0b#8 ^^^ gmul z 8 0x0d#8 ^^^ gmul w 8 0x09#8
    [m a b d e, m b d e a, m d e a b, m e a b d]
  | _ => c

/-- InvShiftRows and InvSubBytes. -/
def invShiftSub (s : List Byte) : List Byte :=
  (List.range 16).map fun i => invSbox ((s[(i + 16 - 4 * (i % 4)) % 16]?).getD 0#8)

/-- The inverse cipher over the round keys, last first. -/
def aesDecRounds : List (List Byte) → List Byte → List Byte
  | [], s => s
  | [k], s => List.zipWith (· ^^^ ·) (invShiftSub s) k
  | k :: ks, s =>
    let t := List.zipWith (· ^^^ ·) (invShiftSub s) k
    aesDecRounds ks ((chunks 4 4 t).flatMap invMix)

/-- AES-256 decryption of one block. -/
def aesDec (key blk : List Byte) : List Byte :=
  match (aesKeys key).reverse with
  | [] => blk
  | k :: ks => aesDecRounds ks (List.zipWith (· ^^^ ·) blk k)

/-- One step of the unwrap: counter `t`, block `i` of the register. -/
def unwrapStep (key : List Byte) (a : List Byte) (r : List (List Byte)) (t i : Nat) : List Byte × List (List Byte) :=
  let x := List.zipWith (· ^^^ ·) a (leBytes 8 t).reverse
  let b := aesDec key (x ++ (r[i]?).getD [])
  (b.take 8, r.set i (b.drop 8))

/-- AES key unwrap (RFC 3394) of 56 bytes: the 48-byte key, none where the integrity value is wrong. -/
def keyUnwrap (key wrapped : List Byte) : Option (List Byte) :=
  let cs := chunks 8 7 wrapped
  let steps := (List.range 36).map fun k => (36 - k, (35 - k) % 6)
  let r := steps.foldl (fun (acc : List Byte × List (List Byte)) e => unwrapStep key acc.1 acc.2 e.1 e.2)
    ((cs[0]?).getD [], cs.drop 1)
  if r.1 = List.replicate 8 0xA6#8 then some r.2.flatten else none

end Sys2Proof.Machine
end

