-- ==== Sys2Proof/Machine/Sampler.lean ====
section
/-! DEFINITION. What a step kernel computes from the results of its forward pass: the choice and dispatch of experts
(R278 to R280), routing words and digests (R277), the sampler (R271, R272), the codes and summaries of berths (R267,
R268), and the selection of berths for far context (R269). -/

namespace Sys2Proof.Machine

open Sys2Proof

/-! ### Experts (R277 to R280) -/

/-- The order of router scores and of bounds: a NaN ranks below every value, -infinity among them (R269, R278). -/
def scoreKey (a : F32) : Int := if isNan a then -(2 ^ 500) else fkey a

/-- Puts an index before the first one of a lower score; equal scores keep the order of their indices. -/
def insScore (row : List F32) (i : Nat) : List Nat → List Nat
  | [] => [i]
  | j :: js =>
    if scoreKey ((row[j]?).getD 0#32) < scoreKey ((row[i]?).getD 0#32) then i :: j :: js else j :: insScore row i js

/-- Indices of a row in order of score, ties to the lower index (R278). -/
def byScore (row : List F32) : List Nat := (List.range row.length).foldl (fun l i => insScore row i l) []

/-- A token's experts in slot rank order (R278). -/
def topExperts (row : List F32) (k : Nat) : List Nat := (byScore row).take k

/-- An item of a dispatch round: expert, slot rank, SEQ_ID, position. -/
structure Seek where
  /-- expert -/
  expert : Nat
  /-- slot rank -/
  rank : Nat
  /-- SEQ_ID -/
  seq : Nat
  /-- position -/
  pos : Nat
deriving DecidableEq, Repr

/-- The order in which a round keeps items: slot rank, SEQ_ID, position (R279). -/
def Seek.order (x : Seek) : Nat := x.rank * 2 ^ 64 + x.seq * 2 ^ 32 + x.pos

/-- The dispatch round that carries an item, from 0: each round takes the first CAPACITY items of an expert that remain
(R279, R280). Without INVARIANT there is round 0 alone, and an item of a later one is dropped. -/
def Seek.round (all : List Seek) (cap : Nat) (x : Seek) : Nat :=
  (all.filter fun y => y.expert = x.expert && y.order < x.order).length / max cap 1

/-- The rounds that a layer's items need: ⌈largest item count at any expert ÷ CAPACITY⌉ (R280). -/
def roundsOf (all : List Seek) (cap : Nat) : Nat := all.foldl (fun m x => max m (x.round all cap + 1)) 0

/-- The routing word of an item (R277): a dropped item has bit 15 set. -/
def routeWord (expert : Nat) (dropped : Bool) : BitVec 16 := BitVec.ofNat 16 (expert % 2 ^ 15 + if dropped then 2 ^ 15 else 0)

/-- The digest of a record's routing words (R277). -/
def routeDigest (ws : List (BitVec 16)) : BitVec 64 :=
  (ws.zip (List.range ws.length)).foldl (fun h e =>
    let b := cb4 h (cbCounter 0 0 (e.1.zeroExtend 32) (BitVec.ofNat 64 e.2))
    ((b[1]?).getD 0#32) ++ ((b[0]?).getD 0#32)) 0#64

/-! ### The sampler (R271, R272) -/

/-- A nonnegative finite FP32 value in units of 2^-149. -/
def f32Units (a : F32) : Nat :=
  match fv a with
  | .fin false m e => m * 2 ^ (e + 149).toNat
  | _ => 0

/-- The exact sum of nonnegative values, in units of 2^-149. -/
def unitSum (l : List Nat) : Nat := sumNat l

/-- The shortest prefix whose sum times 2^sh reaches a goal (R271 step 5). -/
def nucleus (es : Nat → Nat) (sh goal : Nat) : List Nat → Nat → List Nat
  | [], _ => []
  | t :: ts, acc =>
    let acc' := acc + es t
    if goal ≤ acc' * 2 ^ sh then [t] else t :: nucleus es sh goal ts acc'

/-- The first token whose exact running sum times 2^24 exceeds a goal (R271 step 7). -/
def drawFrom (es : Nat → Nat) (goal : Nat) : List Nat → Nat → Nat
  | [], _ => 0
  | [t], _ => t
  | t :: ts, acc => if goal < (acc + es t) * 2 ^ 24 then t else drawFrom es goal ts (acc + es t)

/-- What the sampler writes for an item. -/
structure Sampled where
  /-- TOKEN -/
  token : Nat
  /-- LOGPROB -/
  logprob : F32
  /-- TRUNCATED -/
  truncated : Bool
  /-- GREEDY -/
  greedy : Bool
  /-- whether the row is bad (R272) -/
  bad : Bool
deriving DecidableEq, Repr

/-- Samples one token from a logits row (R271, R272). A row whose exponentials are NaN is a bad row too. -/
def sampleRow (row : List F32) (invTemp topP : F32) (topK : Nat) (seed : BitVec 64) (seq : BitVec 32) (pos : Nat) :
    Sampled :=
  let none0 : Sampled := { token := 0, logprob := 0#32, truncated := false, greedy := false, bad := true }
  if row.any fun l => isNan l || l = 0x7F800000#32 then none0
  else
    let greedy := invTemp &&& 0x7FFFFFFF#32 = 0#32
    let z := row.map fun l => fmul .rne l (if greedy then 0x3F800000#32 else invTemp)
    let m := reduceTree fmax 0xFF800000#32 z
    let e := z.map fun x => fexp (fsub .rne x m)
    if e.any isNan || e.all fun x => f32Units x = 0 then none0
    else
      let us := e.map f32Units
      let es := fun (t : Nat) => (us[t]?).getD 0
      let order := byScore z
      let k1 := if topK = 0 then order else order.take topK
      let k2 := match fv topP with
        | .fin false pm pe =>
          if topP = 0x3F800000#32 then k1 else nucleus es (-pe).toNat (pm * unitSum (k1.map es)) k1 0
        | _ => k1
      let trunc := k2.length < row.length
      let w0 := ((cb4 seed (cbCounter 2 0 seq (BitVec.ofNat 64 pos)))[0]?).getD 0#32
      let kept := (List.range row.length).filter fun t => k2.contains t
      let t := if greedy then (order[0]?).getD 0
        else drawFrom es ((2 * (w0 >>> 9).toNat + 1) * unitSum (kept.map es)) kept 0
      let zs := e.foldl (fun a x => a.addTerm (fv x)) Acc.reset
      let total := toF32 .rne (zs.resolve .rne 0 (.zero false))
      let lp := fsub .rne (fsub .rne ((z[t]?).getD 0#32) m) (flog total)
      { token := t, logprob := lp, truncated := trunc, greedy := greedy, bad := false }

/-- The 32 bytes of an output entry (Table 8-6). -/
def outEntry (token : Nat) (lp : F32) (digest : BitVec 64) (trunc dropped spilled greedy bad : Bool) (st : BitVec 16) :
    List Byte :=
  leBytes 4 token ++ leBytes 4 lp.toNat ++ leBytes 8 digest.toNat ++
  leBytes 4 ((if trunc then 4 else 0) + (if dropped then 8 else 0) + (if spilled then 16 else 0) + if greedy then 64 else 0) ++
  leBytes 2 (if bad then st.toNat else 0) ++ List.replicate 10 0#8

/-! ### Berth codes (R248, R266 to R268) -/

/-- Element bytes of the key plane, in quarters (R248). -/
def keyQuarters : Nat → Nat
  | 0 => 8
  | 1 => 4
  | 2 => 3
  | _ => 2

/-- The element format of a key plane; BF16 for KFMT 0. -/
def keyFmt : Nat → Fmt
  | 0 => .bf16
  | 1 => .e4m3
  | 2 => .e2m3
  | _ => .e2m1

/-- Codes of a width packed least significant bits first (R109), as bytes. -/
def packCodes (bits : Nat) (cs : List Nat) : List Byte :=
  leBytes ((bits * cs.length + 7) / 8) (cs.foldr (fun c acc => c % 2 ^ bits + 2 ^ bits * acc) 0)

/-- The codes of a width that bytes hold (R109). -/
def unpackCodes (bits n : Nat) (bs : List Byte) : List Nat :=
  (List.range n).map fun i => leNat bs / 2 ^ (bits * i) % 2 ^ bits

/-- A list cut into blocks of `k`. -/
def blocksOf {α : Type} (k : Nat) (l : List α) : List (List α) :=
  (List.range ((l.length + k - 1) / max 1 k)).map fun i => (l.drop (k * i)).take k

/-- The scale codes and element codes of one position's keys of a layer (R267): blocks of 32 along d. -/
def keyCodes (kfmt : Nat) (ks : List F32) : List Nat × List Nat :=
  if kfmt = 0 then ([], ks.map fun k => (toBf16 .rne k).toNat)
  else
    let qs := (blocksOf 32 ks).map fun b => qmx (.fp (keyFmt kfmt)) .rne (List.replicate 32 0) (b.map fv)
    (qs.map (·.1), qs.flatMap (·.2))

/-- The codes of one position's values of a layer (R267). -/
def valueCodes (vfmt : Nat) (vscale : BitVec 8) (vs : List F32) : List Nat :=
  if vfmt = 0 then vs.map fun v => (toBf16 .rne v).toNat
  else vs.map fun v =>
    let d := match fv v with
      | .fin s m e => FVal.fin s m (e - ((vscale.toNat : Int) - 127))
      | w => w
    Fmt.e4m3.round .rne true 0 d

/-- The exact value of a key code under its block's scale code. -/
def keyValue (kfmt scale code : Nat) : FVal :=
  if kfmt = 0 then Fmt.bf16.decode code
  else if scale = 0xFF then .nan
  else
    match (keyFmt kfmt).decode code with
    | .fin s m e => .fin s m (e + ((scale : Int) - 127))
    | v => v

/-- The order of exact values: a finite value as its units of 2^-400, so that comparisons are of integers. -/
def exactKey : FVal → Int
  | .fin s m e => if s then -((m * 2 ^ (e + 400).toNat : Nat) : Int) else ((m * 2 ^ (e + 400).toNat : Nat) : Int)
  | .inf s => if s then -(2 ^ 1200) else 2 ^ 1200
  | .nan => 0

/-- The greatest of some values, or with `low` the least; a NaN among them gives NaN. -/
def extreme (low : Bool) (l : List FVal) : FVal :=
  match l with
  | [] => .zero false
  | x :: xs =>
    if l.contains .nan then .nan
    else xs.foldl (fun b v => if (if low then exactKey v < exactKey b else exactKey b < exactKey v) then v else b) x

/-! ### Far context (R269) -/

/-- The bound of a berth for one query head: the exact sum of the products, rounded once (R269). -/
def headBound (q hi lo : List F32) : F32 :=
  let terms := (q.zip (hi.zip lo)).map fun e => (fv e.1).mul (fv (if e.1.msb && e.1 != 0x80000000#32 then e.2.2 else e.2.1))
  toF32 .rne (terms.foldl (FVal.add .rne) (.zero false))

/-- The berth's bound, the greatest over the query heads of the group; a NaN ranks below every number. -/
def groupBound (bs : List F32) : Int :=
  if bs.any isNan then -(2 ^ 500) else bs.foldl (fun m b => max m (fkey b)) (-(2 ^ 500))

/-- The logical berths that a query at a position reads (R269): `bound` gives the bounds of the middle berths. -/
def selectBerths (pos far near sink : Nat) (bound : Nat → Int) : List Nat :=
  let c := pos / 128
  let fixed := fun (b : Nat) => b < min sink (c + 1) || c + 1 - min near (c + 1) ≤ b
  let mid := (List.range c).filter fun b => !fixed b
  let best := if far = 0xFFFF || mid.length ≤ far then mid
    else ((mid.foldl (fun l b => (l.takeWhile fun x => bound b ≤ bound x) ++ [b] ++
      l.dropWhile fun x => bound b ≤ bound x) []).take far)
  (List.range (c + 1)).filter fun b => fixed b || best.contains b

/-- The positions that the attention covers: every one at or below the query's in the selected berths, in increasing
order (R269). -/
def farPositions (pos : Nat) (berths : List Nat) : List Nat :=
  berths.flatMap fun b => (List.range (min 128 (pos + 1 - 128 * b))).map fun i => 128 * b + i

/-! ### Adapted projections (R252) -/

/-- The exact sum of products of two rows (R90 to R93). -/
def exactDot (xs ys : List FVal) : Acc := (xs.zip ys).foldl (fun a e => a.addTerm (e.1.mul e.2)) Acc.reset

/-- u = A·x, each element rounded once to BF16 under RNE (R252). -/
def adapterInner (a : List (List FVal)) (x : List (BitVec 16)) : List FVal :=
  let xs := x.map fun c => Fmt.bf16.decode c.toNat
  a.map fun row => Fmt.bf16.decode (Fmt.bf16.round .rne false 0 ((exactDot row xs).resolve .rne 0 (.zero false)))

/-- y = round(exact(W·x) + exact(B·u)): the two exact sums merge under R99 before the one rounding, RNE to FP32 (R252).
Without an adapter there is no B, and the first sum alone is rounded. -/
def adaptedRow (wx : List Acc) (b : List (List FVal)) (u : List FVal) : List F32 :=
  (wx.zip (List.range wx.length)).map fun w =>
    toF32 .rne ((w.1.merge (exactDot ((b[w.2]?).getD []) u)).resolve .rne 0 (.zero false))

end Sys2Proof.Machine
end

