-- ==== Sys2Proof/Machine/GenOps.lean ====
section
/-! DEFINITION. Generation (R247 to R289): models and berths, Manifest entries and their states, rollout rings and
records, parking and fetching, and the application of the generation commands. -/

namespace Sys2Proof.Machine

open Sys2Proof

/-! ### Models (R248, R256) -/

/-- A length rounded up to a multiple of 256 (R248). -/
def a256 (n : Nat) : Nat := roundUp n 256

/-- Bytes of the key plane of a slice. -/
def Model.keyPlane (m : Model) : Nat := a256 (32 * m.kvHeads * m.headDim * keyQuarters m.kfmt)

/-- Bytes of the key-scale plane: 0 for BF16 keys. -/
def Model.scalePlane (m : Model) : Nat := if m.kfmt = 0 then 0 else a256 (4 * m.kvHeads * m.headDim)

/-- Bytes of the value plane. -/
def Model.valuePlane (m : Model) : Nat := a256 (128 * m.kvHeads * m.headDim * if m.vfmt = 0 then 2 else 1)

/-- SLICE (R248). -/
def Model.slice (m : Model) : Nat := m.keyPlane + m.scalePlane + m.valuePlane + a256 (4 * m.kvHeads * m.headDim)

/-- BERTH_BYTES (R248). -/
def Model.berthBytes (m : Model) : Nat := m.layers * m.slice

/-- ROUTE_BYTES (R256). -/
def Model.routeBytes (m : Model) : Nat := 32 * ((m.moe * m.topk * 2 + 31) / 32)

/-- Offset of TOKENS in a sequence buffer (R256). -/
def tokOff (ctx : Nat) : Nat := a256 (4 * ((ctx + 127) / 128))

/-- Offset of ROUTES in a sequence buffer (R256). -/
def routeOff (ctx : Nat) : Nat := tokOff ctx + a256 (4 * ctx)

/-- Length of a sequence buffer (R256). -/
def Model.bufLen (m : Model) (ctx : Nat) : Nat := routeOff ctx + ctx * m.routeBytes

/-- Changes a model. -/
def State.modModel (s : State) (m : Nat) (f : Model → Model) : State :=
  { s with gen := { s.gen with models := tmod s.gen.models m f } }

/-- The code of a state (Table 8-3). -/
def SeqState.code : SeqState → Nat
  | .free => 0
  | .prefill => 1
  | .decode => 2
  | .held => 3
  | .parked => 4
  | .resuming => 5
  | .finished => 6
  | .cancelled => 7
  | .expired => 8
  | .failed => 9

/-- Berths held, in HBM4 or parked. -/
def Entry.berths (e : Entry) : Nat := max e.map.length e.slots.length

/-- The 256 bytes of a Manifest entry (Table 8-2). -/
def Entry.encode (e : Entry) : List Byte :=
  leBytes 4 e.seqId.toNat ++ leBytes 1 e.state.code ++ leBytes 1 (e.paddock + 16 * e.model) ++
  leBytes 2 e.adapter.toNat ++ leBytes 8 e.seed.toNat ++ leBytes 8 e.admitWid.toNat ++ leBytes 8 e.admitSerial.toNat ++
  leBytes 4 e.known ++ leBytes 4 e.filled ++ leBytes 4 e.generated ++ leBytes 4 e.maxNew ++ leBytes 4 e.ctxLimit ++
  leBytes 4 e.invTemp.toNat ++ leBytes 4 e.topP.toNat ++ leBytes 4 e.topK.toNat ++
  ((List.range 4).flatMap fun i => leBytes 4 ((e.stop[i]?).getD 0xFFFFFFFF#32).toNat) ++
  leBytes 8 e.seqBuf.toNat ++ leBytes 4 e.berths ++ leBytes 2 e.far.toNat ++ leBytes 1 e.near.toNat ++
  leBytes 1 e.sink.toNat ++ leBytes 2 e.ring.toNat ++ leBytes 1 e.priority ++
  leBytes 1 ((if e.autoRelease then 1 else 0) + (if e.parkNow then 2 else 0) + (if e.autoParked then 4 else 0) +
    (if e.evicting then 8 else 0) + if e.stopParks then 16 else 0) ++
  leBytes 4 e.version.toNat ++ leBytes 8 e.admitTime.toNat ++ leBytes 8 e.deadline.toNat ++ leBytes 8 e.stateTime.toNat ++
  leBytes 2 e.endStatus.toNat ++ leBytes 2 e.skips.toNat ++ leBytes 4 e.steps.toNat ++ leBytes 8 e.lastWid.toNat ++
  slice e.user 0 32 ++ leBytes 4 e.parkTtl.toNat ++ List.replicate 76 0#8

/-- Where Manifest entry `e` lies: quarter ⌊e / 32,768⌋ of the Basin, at offset (e mod 32,768) × 256 of the quarter's
Manifest slice, which the quarter begins with (R175, R253). -/
def manifestAddr (e : Nat) : Nat := e / 32768 * 0x20000000 + e % 32768 * 256

/-- Writes an entry's 256 bytes into the Manifest; a FREE entry's are zeros (R24, R253). -/
def State.writeManifest (s : State) (e : Nat) : State :=
  s.store (manifestAddr e) (match tget s.gen.manifest e with
    | some x => x.encode
    | none => List.replicate 256 0#8)

/-- Changes an entry, and its bytes in the Manifest. -/
def State.modEntry (s : State) (e : Nat) (f : Entry → Entry) : State :=
  ({ s with gen := { s.gen with manifest := tmod s.gen.manifest e f } } : State).writeManifest e

/-- Changes a loop. -/
def State.modLoop (s : State) (m : Nat) (f : Loop → Loop) : State :=
  { s with gen := { s.gen with loops := tmod s.gen.loops m f } }

/-- The entries of a model, by index. -/
def State.entriesOf (s : State) (m : Nat) : List (Nat × Entry) := s.gen.manifest.filter fun e => e.2.model = m

/-- Whether a state is terminal (Table 8-3). -/
def SeqState.terminal : SeqState → Bool
  | .finished => true
  | .cancelled => true
  | .expired => true
  | .failed => true
  | _ => false

/-- PREFILL or DECODE by the counts (R255). -/
def Entry.byCounts (e : Entry) : SeqState := if 2 ≤ e.known - e.filled then .prefill else .decode

/-- Whether a loop of the model is running: a drained model counts as having none (R344). -/
def State.looping (s : State) (m : Nat) : Bool :=
  thas s.gen.loops m && ((tget s.gen.models m).bind (·.turn)) != some .drained

/-- Whether a function has a session open on a paddock (R69). -/
def State.sessionOn (s : State) (pad : Nat) : Bool := (s.fn (pad + 1)).session.isSome

/-- Moves an entry to a state, stamping STATE_TIME (R253). -/
def State.setSeq (s : State) (e : Nat) (st : SeqState) : State :=
  s.modEntry e fun x => { x with state := st, stateTime := s.now }

/-- A write into a paddock's own HBM4 allocation; where that is gone, nothing is written. -/
def State.padStore (s : State) (pad a : Nat) (bs : List Byte) : State :=
  match s.allocAt a with
  | some l => if l.2.owner = pad && rangeIn a bs.length l then s.store a bs else s
  | none => s

/-! ### Berths and slots (R265, R283) -/

/-- Berths of a model's pool that entries hold. -/
def State.berthsUsed (s : State) (m : Nat) : List Nat := (s.entriesOf m).flatMap fun e => e.2.map.map (·.2)

/-- Parking slots of a model that entries hold. -/
def State.slotsUsed (s : State) (m : Nat) : List Nat := (s.entriesOf m).flatMap fun e => e.2.slots.map (·.2)

/-- Free berths of a model. -/
def State.berthsFree (s : State) (m : Nat) : Nat :=
  ((tget s.gen.models m).map (·.berthCount)).getD 0 - (s.berthsUsed m).length

/-- Parking slots of a model. -/
def Model.slotCount (m : Model) : Nat := if m.parkArea = 0#64 then 0 else m.parkSlots

/-- Free parking slots of a model. -/
def State.slotsFree (s : State) (m : Nat) : Nat :=
  ((tget s.gen.models m).map (·.slotCount)).getD 0 - (s.slotsUsed m).length

/-- The `k` lowest numbers that a list does not hold. -/
def lowestFree (used : List Nat) : Nat → Nat → List Nat
  | 0, _ => []
  | k + 1, lo =>
    match leastFree (fun n => used.contains n) lo (used.length + 1) with
    | some n => n :: lowestFree used k (n + 1)
    | none => []

/-- Writes a word of BERTH_MAP (R256). -/
def State.mapWord (s : State) (e : Entry) (i word : Nat) : State := s.padStore e.paddock (e.seqBuf.toNat + 4 * i) (leBytes 4 word)

/-- Clears an entry's BERTH_MAP (R345, R422). -/
def State.clearMap (s : State) (e : Entry) : State :=
  s.padStore e.paddock e.seqBuf.toNat (List.replicate (4 * ((e.ctxLimit + 127) / 128)) 0#8)

/-- The address of a berth. -/
def Model.berthAddr (m : Model) (b : Nat) : Nat := m.pool.toNat + b * m.berthBytes

/-- The address of a parking slot. -/
def Model.slotAddr (m : Model) (k : Nat) : Nat := m.parkArea.toNat + k * m.berthBytes

/-- Whether a parking slot lies on a lost page (R241). -/
def State.slotLost (s : State) (m : Model) (k : Nat) : Bool :=
  (List.range (m.berthBytes / 0x200000 + 2)).any fun i =>
    s.parkLost (min (m.slotAddr k + i * 0x200000) (m.slotAddr k + m.berthBytes - 1))

/-- Counts an eviction of a loop (R290). -/
def State.countEvict (s : State) (m : Nat) : State := s.modLoop m fun l => { l with evictions := l.evictions + 1 }

/-- Begins the eviction of a HELD entry: the lowest free slots, EVICTING set (R283). Without a parking area or enough
slots the entry stays as it is. -/
def State.startEvict (s : State) (i : Nat) : State :=
  match tget s.gen.manifest i with
  | none => s
  | some e =>
    match tget s.gen.models e.model with
    | none => s
    | some m =>
      if e.state != .held || e.evicting || m.parkArea = 0#64 || s.slotsFree e.model < e.map.length then s
      else
        let free := lowestFree (s.slotsUsed e.model) e.map.length 0
        (s.modEntry i fun x => { x with evicting := true, slots := (x.map.map (·.1)).zip free }).countEvict e.model

/-- Abandons an eviction (R284, R289): its slots are free again, the berths stay. -/
def Entry.stopEvict (e : Entry) : Entry := if e.evicting then { e with evicting := false, slots := [] } else e

/-- Whether a RESUMING entry waits for berths. -/
def Entry.wantsFetch (e : Entry) : Bool := e.state = .resuming && e.map.isEmpty && !e.slots.isEmpty

/-- Takes the lowest free berths for a RESUMING entry and begins its fetch (R284). -/
def State.startFetch (s : State) (i : Nat) : State :=
  match tget s.gen.manifest i with
  | none => s
  | some e =>
    if !e.wantsFetch || s.berthsFree e.model < e.slots.length then s
    else
      let free := lowestFree (s.berthsUsed e.model) e.slots.length 0
      s.modEntry i fun x => { x with map := (x.slots.map (·.1)).zip free }

/-- Entries longest in their state first, ADMIT_SERIAL breaking a tie (R283). -/
def longestFirst (es : List (Nat × Entry)) : List (Nat × Entry) :=
  sortOn (fun (e : Nat × Entry) => e.2.stateTime.toNat * 2 ^ 64 + e.2.admitSerial.toNat) es

/-- Starts evictions of HELD entries, longest held first, until they free `short` berths (R283). -/
def State.evictFor (s : State) (m short : Nat) : State :=
  let held := (s.entriesOf m).filter fun e => e.2.state = .held && !e.2.map.isEmpty
  let coming := sumNat ((held.filter fun e => e.2.evicting).map fun e => e.2.map.length)
  let order := longestFirst (held.filter fun e => !e.2.evicting)
  (order.foldl (fun (acc : State × Nat) e =>
    if short ≤ acc.2 then acc
    else
      let s' := acc.1.startEvict e.1
      if ((tget s'.gen.manifest e.1).map (·.evicting)).getD false then (s', acc.2 + e.2.map.length) else (s', acc.2))
    (s, coming)).1

/-- Gives RESUMING entries of a model their berths ahead of every candidate, in the order they began to wait, evicting
for those that lack them (R284); and begins the evictions that PARK_NOW asks for, longest held first (R283). -/
def State.serveFetches (s : State) (m : Nat) : State :=
  let now := (s.entriesOf m).filter fun e => e.2.state = .held && e.2.parkNow && !e.2.evicting
  let s := (longestFirst now).foldl (fun s e => s.startEvict e.1) s
  let waits := longestFirst ((s.entriesOf m).filter fun e => e.2.wantsFetch)
  let s := waits.foldl (fun s e => s.startFetch e.1) s
  let short := sumNat (((s.entriesOf m).filter fun e => e.2.wantsFetch).map fun e => e.2.slots.length)
  if short = 0 then s else s.evictFor m (short - s.berthsFree m)

/-! ### Rollout rings (R273, R276, R288) -/

/-- Records promised to a ring: the sampling items of lists whose results have not been applied, and the records held
(R276). -/
def State.promised (s : State) (r : Nat) : Nat :=
  sumNat (s.gen.loops.map fun l => (l.2.items.filter fun i => l.2.listed && i.sample && i.ring = r).length) +
  ((tget s.gen.rings r).map (·.held.length)).getD 0

/-- The room of a ring (R276). -/
def State.room (s : State) (r : Nat) : Nat :=
  match tget s.gen.rings r with
  | some g => g.records - (g.write + s.promised r - g.read)
  | none => 0

/-- Changes a rollout ring. -/
def State.modRRing (s : State) (r : Nat) (f : RRing → RRing) : State :=
  { s with gen := { s.gen with rings := tmod s.gen.rings r f } }

/-- Writes bytes of a ring's buffer. -/
def State.ringStore (s : State) (g : RRing) (off : Nat) (bs : List Byte) : State :=
  if g.host then s.hostWrite g.fn (g.addr.toNat + off) bs false else s.padStore g.paddock (g.addr.toNat + off) bs

/-- Logs that a ring's room fell below LOW_WATER (Table 8-11). -/
def State.watchRoom (s : State) (r : Nat) : State :=
  match tget s.gen.rings r with
  | none => s
  | some g =>
    let low := s.room r < g.lowWater
    let s := if low && !g.below then s.logEv evRingLowWater (BitVec.ofNat 8 g.paddock) 0#16 0xFFFF 0#64 (leBytes 4 r) else s
    s.modRRing r fun g => { g with below := low }

/-- Writes the records held for a ring, in order, while it has room and, for a host ring, a session is open (R273,
R276, R288). -/
def State.flushGo (r : Nat) : Nat → State → State
  | 0, s => s
  | n + 1, s =>
    match tget s.gen.rings r with
    | none => s
    | some g =>
      match g.held with
      | [] => s
      | (i, serial, bs) :: rest =>
        if (g.host && !s.sessionOn g.paddock) || g.records ≤ g.write - g.read then s
        else
          let s := s.ringStore g (256 + g.write % g.records * 32) bs
          let s := s.modRRing r fun g => { g with held := rest, write := g.write + 1 }
          let s := if bitAt (fld bs 28 4) 5 then
              s.modEntry i fun e => if e.admitSerial = serial then { e with termIdx := some g.write } else e
            else s
          State.flushGo r n s

/-- Brings a ring up to date: held records written, then WRITE_INDEX (R273). -/
def State.flushRing (s : State) (r : Nat) : State :=
  match tget s.gen.rings r with
  | none => s
  | some g =>
    let s := State.flushGo r g.held.length s
    match tget s.gen.rings r with
    | none => s
    | some h => if h.write = g.write then s else (s.ringStore h 0 (leBytes 8 h.write)).watchRoom r

/-- Brings every ring up to date. -/
def State.flushRings (s : State) : State := s.gen.rings.foldl (fun s e => s.flushRing e.1) s

/-- The 32 bytes of a rollout record (Table 8-9). -/
def recordBytes (token : Nat) (lp : BitVec 32) (ver : BitVec 32) (pos : Nat) (digest : BitVec 64) (seq : BitVec 32)
    (flags : Nat) : List Byte :=
  leBytes 4 token ++ leBytes 4 lp.toNat ++ leBytes 4 ver.toNat ++ leBytes 4 pos ++ leBytes 8 digest.toNat ++
  leBytes 4 seq.toNat ++ leBytes 4 flags

/-- Hands a record of an entry to its ring; a record that must wait there takes room as well (R276). -/
def State.writeRecord (s : State) (i : Nat) (e : Entry) (bs : List Byte) : State :=
  let r := e.ring.toNat
  ((s.modRRing r fun g => { g with held := g.held ++ [(i, e.admitSerial, bs)] }).flushRing r).watchRoom r

/-! ### Terminal states, release (R255, R274, R275) -/

/-- Takes an entry off its model's drain list (R347). -/
def State.undrain (s : State) (i : Nat) (e : Entry) : State :=
  s.modModel e.model fun m => { m with drain := m.drain.filter fun x => x != i }

/-- Takes an entry to a terminal state: its berths and slots are free, and a terminal record closes it (R255, R274). -/
def State.terminate (s : State) (i : Nat) (st : SeqState) (status : BitVec 16) (record : Bool := true) : State :=
  match tget s.gen.manifest i with
  | none => s
  | some e =>
    if e.state.terminal then s
    else
      let s := s.modEntry i fun x =>
        { x with state := st, stateTime := s.now, endStatus := status, map := [], slots := [], evicting := false }
      let s := s.undrain i e
      if record then
        s.writeRecord i e (recordBytes status.toNat 0#32 e.version e.known e.seqBuf e.seqId 32)
      else s

/-- Frees an entry: it is FREE, which the table does not list (R275). -/
def State.freeEntry (s : State) (i : Nat) : State :=
  ({ s with gen := { s.gen with manifest := tdel s.gen.manifest i } } : State).writeManifest i

/-- Whether an entry returns to FREE by itself: terminal, AUTO_RELEASE, its terminal record below READ_INDEX (R275). -/
def State.autoFree (s : State) (e : Entry) : Bool :=
  e.autoRelease && e.state.terminal &&
  match e.termIdx, tget s.gen.rings e.ring.toNat with
  | some k, some g => k < g.read
  | _, _ => false

/-- Applies the automatic releases of a model (R275). -/
def State.autoRelease (s : State) (m : Nat) : State :=
  ((s.entriesOf m).filter fun e => s.autoFree e.2).foldl (fun s e => s.freeEntry e.1) s

/-! ### Expiry (R285) -/

/-- Whether an entry expires at a time: HELD or PARKED, its deadline passed, not in the drain list (R285, R347), no
resume or cancel dispatched before the deadline still to be applied. -/
def State.expires (s : State) (i : Nat) (e : Entry) (t : Nat) : Bool :=
  (e.state = .held || e.state = .parked) && e.deadline != 0#64 && e.deadline.toNat < t &&
  !(((tget s.gen.models e.model).map (·.drain)).getD []).contains i &&
  !s.gen.cmds.any fun c => c.entry = i && c.serial = e.admitSerial && (c.kind = 1 || c.kind = 3) && c.atNs < e.deadline.toNat

/-- Expires the entries of a model whose deadlines have passed (R285). -/
def State.expireAll (s : State) (m : Nat) : State :=
  (s.entriesOf m).foldl (fun s e => if s.expires e.1 e.2 s.t then s.terminate e.1 .expired stSeqExpired else s) s

/-! ### The commands on a sequence (R281, R282, R284, R290) -/

/-- GEN_CANCEL applied (R281). -/
def State.applyCancel (s : State) (c : SeqCmd) (i : Nat) (e : Entry) : State :=
  let g := BitVec.ofNat 64 e.generated
  if e.state.terminal then s.complete c.wid stCancelLate g
  else (s.terminate i .cancelled stCancelled).complete c.wid stOk g

/-- GEN_PARK applied (R282). A HELD entry only gets its new deadline. -/
def State.applyPark (s : State) (c : SeqCmd) (i : Nat) (e : Entry) : State :=
  let due : BitVec 64 := if c.arg = 0#64 then 0#64 else s.now + c.arg * 1000000#64
  match e.state with
  | .held => ((s.modEntry i fun x => { x with deadline := due }).undrain i e).complete c.wid stOk
  | .prefill =>
    (((s.modEntry i fun x => { x with deadline := due, parkNow := c.flag }).setSeq i .held).complete c.wid stOk)
  | .decode =>
    (((s.modEntry i fun x => { x with deadline := due, parkNow := c.flag }).setSeq i .held).complete c.wid stOk)
  | _ => s.complete c.wid stSeqState

/-- Writes tokens from a position on (R256). -/
def State.putTokens (s : State) (e : Entry) (pos : Nat) (ts : List (BitVec 32)) : State :=
  s.padStore e.paddock (e.seqBuf.toNat + tokOff e.ctxLimit + 4 * pos) (ts.flatMap fun t => leBytes 4 t.toNat)

/-- A HELD entry returns to PREFILL or DECODE, its eviction abandoned; a PARKED one becomes RESUMING (R284). -/
def State.wake (s : State) (i : Nat) (e : Entry) : State :=
  let s := (s.modEntry i fun x => { x.stopEvict with parkNow := false, autoParked := false }).undrain i e
  match e.state with
  | .held => s.setSeq i e.byCounts
  | .parked => s.setSeq i .resuming
  | _ => s

/-- GEN_RESUME applied (R284). -/
def State.applyResume (s : State) (c : SeqCmd) (i : Nat) (e : Entry) : State :=
  if e.state != .held && e.state != .parked then s.complete c.wid stSeqState
  else if e.ctxLimit < e.known + c.tokens.length || (c.arg != 0#64 && c.arg.toNat < e.generated) then
    s.complete c.wid stBadParam
  else
    let s := s.putTokens e e.known c.tokens
    let s := s.modEntry i fun x => { x with known := x.known + c.tokens.length,
                                            maxNew := if c.arg = 0#64 then x.maxNew else c.arg.toNat }
    match tget s.gen.manifest i with
    | none => s
    | some x => (s.wake i x).complete c.wid stOk

/-- GEN_RELEASE applied (R275): FREE_BUF also frees the sequence buffer. -/
def State.applyRelease (s : State) (c : SeqCmd) (i : Nat) (e : Entry) : State :=
  if !e.state.terminal then s.complete c.wid stSeqState
  else
    let s := s.freeEntry i
    let s := if c.flag then
        match s.allocAt e.seqBuf.toNat with
        | some l => if l.2.owner = e.paddock then s.release l.1 else s
        | none => s
      else s
    s.complete c.wid stOk

/-- Applies one command on a sequence. An entry whose deadline passed before the resume or cancel was dispatched
expires first (R285). -/
def State.applySeq (s : State) (c : SeqCmd) : State :=
  match tget s.gen.manifest c.entry with
  | none => s.complete c.wid stSeqUnknown
  | some e0 =>
    if e0.admitSerial != c.serial then s.complete c.wid stSeqUnknown
    else
      let late := (c.kind = 1 || c.kind = 3) && e0.deadline.toNat ≤ c.atNs && s.expires c.entry e0 s.t
      let s := if late then s.terminate c.entry .expired stSeqExpired else s
      let s := s.modEntry c.entry fun x => { x with lastWid := c.wid }
      match tget s.gen.manifest c.entry with
      | none => s
      | some e =>
        match c.kind with
        | 1 => s.applyCancel c c.entry e
        | 2 => s.applyPark c c.entry e
        | 3 => s.applyResume c c.entry e
        | _ => s.applyRelease c c.entry e

/-- A RESUMING entry whose fetch is complete moves to PREFILL or DECODE, or to HELD where a drain found it fetching
(R284, R346). -/
def State.fetched (s : State) (m : Nat) : State :=
  let drain := ((tget s.gen.models m).map (·.drain)).getD []
  ((s.entriesOf m).filter fun e => e.2.state = .resuming && e.2.slots.isEmpty).foldl
    (fun s e => s.setSeq e.1 (if drain.contains e.1 then .held else e.2.byCounts)) s

/-! ### Parking losses (R241, R287) -/

/-- After pages of the parking tier were lost: PARKED and RESUMING entries whose slots were lost fail, evictions into
lost slots stop (R287). -/
def State.parkLosses (s : State) : State :=
  s.gen.manifest.foldl (fun s e =>
    match tget s.gen.models e.2.model with
    | none => s
    | some m =>
      if !e.2.slots.any fun x => s.slotLost m x.2 then s
      else if e.2.state = .parked || e.2.state = .resuming then s.terminate e.1 .failed stParkLost
      else s.modEntry e.1 Entry.stopEvict) s

/-- A device goes offline, with all that follows (R241, R287). -/
def State.offline (s : State) (d : Nat) : State := (s.loseDev d).parkLosses

end Sys2Proof.Machine
end

