-- ==== Sys2Proof/Machine/LoopOps.lean ====
section
/-! DEFINITION. Generation loops (R257 to R264, R279 to R286, R289) and their rein change and remount (R338 to R347,
R360 to R363): the work list, the step boundary, drains, and the end of a loop. -/

namespace Sys2Proof.Machine

open Sys2Proof

/-! ### Layout slots (R339, R340) -/

/-- The layout bound to a model. -/
def State.layoutOf (s : State) (m : Nat) : Option (Nat × Layout) := s.rein.layouts.find? fun e => e.2.model = some m

/-- A slot of a layout. -/
def Layout.slot (l : Layout) (k : Nat) : Slot := if k = 0 then l.slot0 else l.slot1

/-- The code of a slot state (Table 10-4). -/
def SlotState.code : SlotState → Nat
  | .empty => 0
  | .filling => 1
  | .held => 2
  | .active => 3
  | .poisoned => 4

/-- Changes a slot of a layout. -/
def State.modSlot (s : State) (h k : Nat) (f : Slot → Slot) : State :=
  { s with rein := { s.rein with layouts := tmod s.rein.layouts h fun l =>
      if k = 0 then { l with slot0 := f l.slot0 } else { l with slot1 := f l.slot1 } } }

/-- Writes an entry of a model's slot table (R339). -/
def State.writeSlot (s : State) (h k : Nat) : State :=
  match tget s.rein.layouts h with
  | none => s
  | some l =>
    if l.model.isNone || l.table = 0 then s
    else s.store (l.table + 16 * k) (leBytes 4 (l.slot k).version.toNat ++ leBytes 1 (l.slot k).state.code ++
      List.replicate 3 0#8 ++ leBytes 8 (l.slot k).region.toNat)

/-- The ACTIVE slot of a layout. -/
def Layout.active (l : Layout) : Option Nat := [0, 1].find? fun k => (l.slot k).state = .active

/-- Makes a slot ACTIVE under a version, the model's policy version from now on (R360, R363). -/
def State.activate (s : State) (m h k : Nat) : State :=
  match tget s.rein.layouts h with
  | none => s
  | some l =>
    let s := (s.modSlot h k fun x => { x with state := .active }).writeSlot h k
    s.modModel m fun x => { x with version := (l.slot k).version }

/-- The old slot of a remount becomes HELD, and the command completes (R363). -/
def State.endRemount (s : State) (m : Nat) : State :=
  match tget s.gen.models m, s.layoutOf m with
  | some md, some (h, _) =>
    match md.remount with
    | some (w, _, true) =>
      let s := match md.remountOld with
        | some k => (s.modSlot h k fun x => { x with state := .held }).writeSlot h k
        | none => s
      let s := s.modModel m fun x => { x with remount := none, remountOld := none, remounts := x.remounts + 1 }
      s.complete w stOk (BitVec.ofNat 64 md.remountStep)
    | _ => s
  | _, _ => s

/-- A remount applied at a boundary (R363): `next` is the number of the list built next. -/
def State.applyRemount (s : State) (m next : Nat) (c : SeqCmd) : State :=
  match s.layoutOf m with
  | none => (s.modModel m fun x => { x with remount := none }).complete c.wid stReinState
  | some (h, l) =>
    match [0, 1].find? fun k => (l.slot k).state = .held && (l.slot k).version = c.arg.truncate 32 with
    | none => (s.modModel m fun x => { x with remount := none }).complete c.wid stReinState
    | some k =>
      let s := s.activate m h k
      s.modModel m fun x => { x with remount := some (c.wid, c.arg.truncate 32, true), remountStep := next,
                                     remountOld := l.active }

/-- A member follows the version of the list that its leader stamped: the slot that holds it becomes ACTIVE, and the one
that the steps before it read becomes HELD (R340, R360, R363). -/
def State.followVersion (s : State) (m : Nat) (v : BitVec 32) : State :=
  match s.layoutOf m with
  | none => s
  | some (h, l) =>
    match [0, 1].find? fun k => (l.slot k).state = .held && (l.slot k).version = v with
    | none => s
    | some k =>
      if l.active.any fun a => (l.slot a).version = v then s
      else
        let s := match l.active with
          | some a => (s.modSlot h a fun x => { x with state := .held }).writeSlot h a
          | none => s
        s.activate m h k

/-! ### The drain (R345, R346) -/

/-- One entry at a drain: its state and counts after it, and the berths it frees. -/
def Entry.drain (e : Entry) (keep : Bool) (now : BitVec 64) : Entry × Nat :=
  let toHeld := fun (x : Entry) => { x with state := .held, stateTime := now }
  let e1 := if e.state = .prefill || e.state = .decode then toHeld e else e
  if keep || e.state.terminal then (e1, 0)
  else
    let e2 := if e.state = .parked || e.state = .resuming then toHeld e1 else e1
    ({ e2 with map := [], slots := [], evicting := false, filled := 0 }, e.map.length)

/-- Whether an entry joins the drain list: it was in PREFILL or DECODE, or in RESUMING (R345, R346). -/
def Entry.drains (e : Entry) : Bool := e.state = .prefill || e.state = .decode || e.state = .resuming

/-- The leader tells every member of a loop (R264). DESIGN CHOICE (log entry 161): the messages that pass between the
parts of a loop are handed out whole. -/
def State.tellMembers (s : State) (m : Nat) (l : Loop) (n : LoopNews) : State :=
  if l.leader then { s with out := { s.out with lists := s.out.lists ++ l.members.map fun d => (d, m, n) } } else s

/-- Stops a loop's task for a drain: its suspension is saved, and nothing but REIN_RESUME resumes it (R345). -/
def State.stopLoopTask (s : State) (w : BitVec 64) : State :=
  let s := s.requestPreempt w false true none
  s.modTask w fun t => { t with held := true, victim := false, saving := t.saving || t.state = .suspResident }

/-- A loop's task may run again, placed on the teams of a mask where one is given (R360). -/
def State.freeLoopTask (s : State) (w : BitVec 64) (mask : List Nat) : State :=
  s.modTask w fun t => { t with held := false, victim := true, resumeMask := if mask.isEmpty then none else some mask }

/-- REIN_DRAIN applied at a boundary (R345). The command completes when the loop task is saved. -/
def State.applyDrain (s : State) (m : Nat) (l : Loop) (c : SeqCmd) : State :=
  let keep := c.flag
  let es := s.entriesOf m
  let moved := es.filter fun e => e.2.state = .prefill || e.2.state = .decode || (!keep && e.2.state = .resuming)
  let freed := sumNat (es.map fun e => (e.2.drain keep s.now).2)
  let s := es.foldl (fun s e =>
    let s := s.modEntry e.1 fun x => (x.drain keep s.now).1
    if keep || e.2.state.terminal || e.2.berths = 0 then s
    else s.clearMap e.2) s
  let s := s.modModel m fun x => { x with drain := (es.filter fun e => e.2.drains).map (·.1) }
  let s := s.progress c.wid (BitVec.ofNat 64 (moved.length + freed * 2 ^ 32))
  let s := (s.modLoop m fun x => { x with savedBy := [] }).tellMembers m l .drain
  s.stopLoopTask l.wid

/-! ### Stores of the forward pass (R257, R266 to R268, R277) -/

/-- What the forward pass of an item gives, its adapted projections formed. -/
structure Rows where
  /-- the logits row -/
  logits : List F32
  /-- router scores: position, MoE layer, expert -/
  scores : List (List (List F32))
  /-- keys: position, layer, elements -/
  keys : List (List (List F32))
  /-- values: position, layer, elements -/
  values : List (List (List F32))
  /-- queries: position, layer, key-value head, query head, elements -/
  queries : List (List (List (List (List F32))))

/-- A row of a matrix of an adapter's image, `rows` by `k`, at `off`. DESIGN CHOICE (log entry 159): the elements lie
row by row; in MXFP8 the codes of the whole matrix come first, then its E8M0 scales, one for each 32 elements along a
row. -/
def State.adapterRow (s : State) (a : Adapter) (off rows k r : Nat) : List FVal :=
  let base := a.addr.toNat + off
  (List.range k).map fun i =>
    let e := r * k + i
    if a.fmt = 0 then Fmt.bf16.decode (leNat (s.bytes (base + 2 * e) 2))
    else keyValue 1 (s.byte (base + rows * k + e / 32)).toNat (s.byte (base + e)).toNat

/-- The results of one projection for a token of an adapter, or of none (R252). -/
def State.projRow (s : State) (ad : Option Adapter) : Proj → List F32
  | .plain ys => ys
  | .adapted wx x aOff bOff =>
    let ws := wx.map Acc.ofEp64
    match ad with
    | none => adaptedRow ws [] []
    | some a =>
      let u := adapterInner ((List.range a.rank).map fun r => s.adapterRow a aOff a.rank x.length r) x
      adaptedRow ws ((List.range ws.length).map fun o => s.adapterRow a bOff ws.length a.rank o) u

/-- The results of an item's forward pass. -/
def State.rowsOf (s : State) (ad : Option Adapter) (f : Forward) : Rows :=
  { logits := s.projRow ad f.logits, scores := f.scores.map fun p => p.map (s.projRow ad),
    keys := f.keys.map fun p => p.map (s.projRow ad), values := f.values.map fun p => p.map (s.projRow ad),
    queries := f.queries }

/-- The adapter of an item's entry. -/
def State.adapterOf (s : State) (it : Item) : Option Adapter :=
  (tget s.gen.manifest it.entry).bind fun e => tget s.gen.adapters e.adapter.toNat

/-- The dispatch items of a list: each position, layer and slot rank (R278). -/
def seeksOf (m : Model) (its : List (Item × Rows)) (layer : Nat) : List Seek :=
  its.flatMap fun e => ((List.range e.1.count).zip e.2.scores).flatMap fun p =>
    let top := topExperts ((p.2[layer]?).getD []) m.topk
    (top.zip (List.range top.length)).map fun x =>
      { expert := x.1, rank := x.2, seq := e.1.seqId.toNat, pos := e.1.first + p.1 }

/-- The routing words of a position, and whether any of its items was dropped or served by a further round (R277 to
R280). -/
def wordsOf (m : Model) (seeks : List (List Seek)) (seq pos : Nat) : List (BitVec 16) × Bool × Bool :=
  let flat := seeks.flatMap fun all =>
    (all.filter fun x => x.seq = seq && x.pos = pos).map fun x => (x.expert, decide (x.round all m.capacity ≠ 0))
  (flat.map fun e => routeWord e.1 (e.2 && !m.invariant),
   !m.invariant && flat.any (fun e => e.2), m.invariant && flat.any fun e => e.2)

/-- The bytes of a slice that hold token slot `t`'s keys of a layer: codes, scale codes. -/
def Model.keyAt (m : Model) (berth layer t : Nat) : Nat × Nat :=
  let base := m.berthAddr berth + layer * m.slice
  (base + t * m.kvHeads * m.headDim * keyQuarters m.kfmt / 4, base + m.keyPlane + t * (m.kvHeads * m.headDim / 32))

/-- The exact key values of a token slot, read back from its codes. -/
def State.keyValues (s : State) (m : Model) (berth layer t : Nat) : List FVal :=
  let n := m.kvHeads * m.headDim
  let a := m.keyAt berth layer t
  let codes := unpackCodes (2 * keyQuarters m.kfmt) n (s.bytes a.1 (n * keyQuarters m.kfmt / 4))
  (codes.zip (List.range n)).map fun e => keyValue m.kfmt (s.byte (a.2 + e.2 / 32)).toNat e.1

/-- Writes the summary of a full slice: HI rounded up, LO rounded down (R268). -/
def State.writeSummary (s : State) (m : Model) (berth layer : Nat) : State :=
  let n := m.kvHeads * m.headDim
  let all := (List.range 128).map fun t => s.keyValues m berth layer t
  let col := fun (i : Nat) => all.map fun r => (r[i]?).getD (.zero false)
  let hi := (List.range n).flatMap fun i => leBytes 2 (Fmt.bf16.round .rup false 0 (extreme false (col i)))
  let lo := (List.range n).flatMap fun i => leBytes 2 (Fmt.bf16.round .rdn false 0 (extreme true (col i)))
  s.padStore m.paddock (m.berthAddr berth + layer * m.slice + m.keyPlane + m.scalePlane + m.valuePlane) (hi ++ lo)

/-- Appends the key and value of one position in one layer (R266, R267), with the summary of a berth that it fills. -/
def State.appendKv (s : State) (m : Model) (berth layer pos : Nat) (ks vs : List F32) : State :=
  let t := pos % 128
  let n := m.kvHeads * m.headDim
  let a := m.keyAt berth layer t
  let kc := keyCodes m.kfmt ks
  let s := s.padStore m.paddock a.1 (packCodes (2 * keyQuarters m.kfmt) kc.2)
  let s := if m.kfmt = 0 then s else s.padStore m.paddock a.2 (kc.1.map fun x => BitVec.ofNat 8 x)
  let vb := if m.vfmt = 0 then 2 else 1
  let va := m.berthAddr berth + layer * m.slice + m.keyPlane + m.scalePlane + t * n * vb
  let s := s.padStore m.paddock va ((valueCodes m.vfmt ((m.vscale[layer]?).getD 0#8) vs).flatMap fun c => leBytes vb c)
  if t = 127 then s.writeSummary m berth layer else s

/-- Every append of an item: `berth` gives the berth of a logical berth. -/
def State.appendItem (s : State) (m : Model) (berth : Nat → Option Nat) (first count : Nat) (f : Rows) : State :=
  ((List.range count).zip (f.keys.zip f.values)).foldl (fun s p =>
    let pos := first + p.1
    match berth (pos / 128) with
    | none => s
    | some b => ((List.range m.layers).zip (p.2.1.zip p.2.2)).foldl (fun s x => s.appendKv m b x.1 pos x.2.1 x.2.2) s) s

/-- The summary of a berth's slice for one key-value head: HI and LO by element, as FP32 (R266, R268). -/
def State.summaryOf (s : State) (m : Model) (berth layer h : Nat) : List F32 × List F32 :=
  let base := m.berthAddr berth + layer * m.slice + m.keyPlane + m.scalePlane + m.valuePlane
  let at_ := fun (i : Nat) => toF32 .rne (Fmt.bf16.decode (leNat (s.bytes (base + 2 * i) 2)))
  let els := (List.range m.headDim).map fun d => h * m.headDim + d
  (els.map at_, els.map fun i => at_ (m.kvHeads * m.headDim + i))

/-- What the attention of one key-value head reads for the queries `qs` of its group at a position (R269). A logical
berth without a berth has no summary, and its bound is a NaN. -/
def State.farRead (s : State) (m : Model) (e : Entry) (layer h pos : Nat) (qs : List (List F32)) : List Nat :=
  farPositions pos (selectBerths pos e.far.toNat e.near.toNat e.sink.toNat fun b =>
    match tget e.map b with
    | none => -(2 ^ 500)
    | some k => groupBound (qs.map fun q => let u := s.summaryOf m k layer h; headBound q u.1 u.2))

/-- What the attention of an item's positions reads, each position making its own selection (R269). -/
def State.readsOf (s : State) (m : Model) (i : Nat) (e : Entry) (it : Item) (f : Rows) : List FarRead :=
  ((List.range it.count).zip f.queries).flatMap fun p =>
    ((List.range m.layers).zip p.2).flatMap fun y =>
      ((List.range m.kvHeads).zip y.2).map fun g =>
        { entry := i, pos := it.first + p.1, layer := y.1, head := g.1,
          positions := s.farRead m e y.1 g.1 (it.first + p.1) g.2 }

/-- The address of the output entry of an item (R261): after the room of SEQ_LIMIT items and their grants. -/
def Loop.outAddr (l : Loop) (i : Nat) : Nat :=
  l.listBuf + l.step % 2 * (256 + 64 * l.seqLimit + 16 * l.seqLimit * 513 + 32 * l.seqLimit) + 256 + 64 * l.seqLimit +
  16 * l.seqLimit * 513 + 32 * i

/-- Bytes of one list buffer (R261). -/
def listBytes (seqLimit : Nat) : Nat := 256 + 64 * seqLimit + 16 * seqLimit * 513 + 32 * seqLimit

/-- What the kernel stores for one item of the list: keys and values, routing records, the output entry (R257). -/
def State.storeItem (s : State) (mi : Nat) (m : Model) (l : Loop) (seeks : List (List Seek)) (i : Nat) (it : Item)
    (f : Rows) : State :=
  match tget s.gen.manifest it.entry with
  | none => s
  | some e =>
    let s := s.appendItem m (fun k => tget e.map k) it.first it.count f
    let s := s.modLoop mi fun x => { x with reads := x.reads ++ s.readsOf m it.entry e it f }
    let s := (List.range (min it.count f.scores.length)).foldl (fun s j =>
      let w := wordsOf m seeks it.seqId.toNat (it.first + j)
      if m.routeBytes = 0 then s
      else s.padStore e.paddock (e.seqBuf.toNat + routeOff e.ctxLimit + (it.first + j) * m.routeBytes)
        (slice (w.1.flatMap fun x => leBytes 2 x.toNat) 0 m.routeBytes)) s
    let last := wordsOf m seeks it.seqId.toNat (it.first + it.count - 1)
    let r : Sampled := if it.sample then
        sampleRow f.logits e.invTemp e.topP e.topK.toNat e.seed e.seqId (it.first + it.count)
      else { token := 0, logprob := 0#32, truncated := false, greedy := false, bad := false }
    s.store (l.outAddr i) (outEntry r.token r.logprob (routeDigest last.1) r.truncated last.2.1 last.2.2 r.greedy r.bad
      stBadLogits)

/-- What the kernel stores for the list where the results of the forward pass are given. -/
def State.storeForward (s : State) (mi : Nat) (m : Model) (l : Loop) (fwd : List Forward) : State :=
  let its := (l.items.zip fwd).map fun e => (e.1, s.rowsOf (s.adapterOf e.1) e.2)
  let seeks := (List.range m.moe).map fun layer => seeksOf m its layer
  let s := s.modLoop mi fun x =>
    { x with rounds := seeks.map fun all => if m.invariant then roundsOf all m.capacity else min 1 all.length }
  ((List.range its.length).zip its).foldl (fun s e => s.storeItem mi m l seeks e.1 e.2.1 e.2.2) s

/-- What a member's kernel stores for a list: the keys and values of its own heads, in the berths that its copies of
the BERTH_MAPs name (R264). Sampling, records and entries are the leader's. -/
def State.storeMember (s : State) (m : Model) (list : List Byte) (fwd : List Forward) : State :=
  ((List.range (fld list 12 4)).zip fwd).foldl (fun s x =>
    let o := 256 + 64 * x.1
    let buf := fld list (o + 40) 8
    let berth := fun (k : Nat) =>
      let w := leNat (s.bytes (buf + 4 * k) 4)
      if w < 2 ^ 31 then some w else none
    s.appendItem m berth (fld list (o + 16) 4) (fld list (o + 20) 4)
      (s.rowsOf (tget s.gen.adapters (fld list (o + 26) 2)) x.2)) s

/-! ### Results (R260) -/

/-- The record flags that an output entry carries (Table 8-6). -/
def outFlags (n : Nat) : Nat := n &&& 0x5C

/-- Applies the sampled token of an item: its place in TOKENS, the counts, the record, the state (R260, R274). -/
def State.applyToken (s : State) (l : Loop) (i : Nat) (e : Entry) (out : List Byte) : State :=
  let tok := fld out 0 4
  let s := if e.known < e.ctxLimit then s.putTokens e e.known [BitVec.ofNat 32 tok] else s
  let s := s.modEntry i fun x => { x with known := x.known + 1, generated := x.generated + 1 }
  let known := e.known + 1
  let stop := e.stop.any fun t => t != 0xFFFFFFFF#32 && t.toNat = tok
  let full := e.maxNew ≤ e.generated + 1 || e.ctxLimit ≤ known
  let park := stop && e.stopParks && !full
  let fin := full || (stop && !park)
  let fl := (if stop then 1 else 0) + (if fin then 2 else 0) + (if park then 128 else 0) + outFlags (fld out 16 4)
  let s := s.writeRecord i e (recordBytes tok (BitVec.ofNat 32 (fld out 4 4)) l.version (known - 1)
    (BitVec.ofNat 64 (fld out 8 8)) e.seqId fl)
  if fin then s.terminate i .finished stOk
  else if park then
    (s.modEntry i fun x => { x with deadline := if e.parkTtl = 0#32 then 0#64
                                                else s.now + e.parkTtl.zeroExtend 64 * 1000000#64 }).setSeq i .held
  else s

/-- Applies one item's result to its entry (R260, R272). -/
def State.applyItem (s : State) (l : Loop) (n : Nat) (it : Item) : State :=
  match tget s.gen.manifest it.entry with
  | none => s
  | some e0 =>
    if e0.admitSerial != it.serial || (e0.state != .prefill && e0.state != .decode) then s
    else
      let out := s.bytes (l.outAddr n) 32
      let s := s.modEntry it.entry fun x => { x with filled := it.first + it.count, version := l.version,
                                                     steps := satAdd 32 x.steps 1 }
      let st := BitVec.ofNat 16 (fld out 20 2)
      let s := if !it.sample then s
        else if st != 0#16 then s.terminate it.entry .failed st
        else
          match tget s.gen.manifest it.entry with
          | some e => s.applyToken l it.entry e out
          | none => s
      match tget s.gen.manifest it.entry with
      | some e => if (e.state = .prefill || e.state = .decode) && e.state != e.byCounts then s.setSeq it.entry e.byCounts else s
      | none => s

/-- Dropped dispatch items of a list item: the routing words of its positions that have bit 15 set (R277, R279). -/
def State.droppedOf (s : State) (m : Model) (it : Item) : Nat :=
  match tget s.gen.manifest it.entry with
  | none => 0
  | some e => sumNat ((List.range it.count).map fun j =>
      let a := e.seqBuf.toNat + routeOff e.ctxLimit + (it.first + j) * m.routeBytes
      ((List.range (m.moe * m.topk)).filter fun w => bitAt (leNat (s.bytes (a + 2 * w) 2)) 15).length)

/-- Applies the results of the list, in item order, and counts the step (R259, R290). Dropped items are dispatch items
(R279); spilled ones are the list's items whose output entry has SPILLED (log entry 160). -/
def State.applyResults (s : State) (m : Nat) (md : Model) (l : Loop) : State :=
  let idx := (List.range l.items.length).zip l.items
  let dropped := sumNat (l.items.map fun it => s.droppedOf md it)
  let spilled := (idx.filter fun e => bitAt (fld (s.bytes (l.outAddr e.1) 32) 16 4) 4).length
  let s := s.modLoop m fun x => { x with listed := false }
  let s := idx.foldl (fun s e => s.applyItem l e.1 e.2) s
  s.modLoop m fun x => { x with items := [], grants := [], stepsRun := x.stepsRun + 1,
                                itemsRun := x.itemsRun + l.items.length,
                                tokensRun := x.tokensRun + sumNat (l.items.map (·.count)),
                                dropped := x.dropped + dropped, spilled := x.spilled + spilled }

/-! ### The builder (R260) -/

/-- What the builder has formed so far. -/
structure Build where
  /-- the state -/
  st : State
  /-- items -/
  items : List Item
  /-- grants: entry, logical berth, berth -/
  grants : List (Nat × Nat × Nat)
  /-- positions -/
  tokens : Nat
  /-- berths that skipped candidates lack -/
  short : Nat
  /-- candidates skipped for want of berths -/
  wanting : List Nat

/-- Skips a candidate. -/
def Build.skip (b : Build) (m i : Nat) : Build :=
  { b with st := (b.st.modEntry i fun e => { e with skips := satAdd 16 e.skips 1 }).modLoop m fun l =>
      { l with skipped := l.skipped + 1 } }

/-- One candidate (R260). -/
def Build.consider (m : Nat) (l : Loop) (b : Build) (i : Nat) (e : Entry) : Build :=
  if b.items.length = l.seqLimit || b.tokens = l.tokenBudget then b.skip m i
  else
    let n := if e.state = .decode then 1 else min (min l.prefillChunk (e.known - e.filled)) (l.tokenBudget - b.tokens)
    let sample := e.filled + n = e.known
    let mine := (b.items.filter fun x => x.sample && x.ring = e.ring.toNat).length
    if sample && b.st.room e.ring.toNat < 2 + mine then b.skip m i
    else
      let lo := e.filled / 128
      let hi := (e.filled + n - 1) / 128
      let need := ((List.range (hi + 1 - lo)).map fun k => lo + k).filter fun k => !thas e.map k
      if b.st.berthsFree m < need.length then
        { (b.skip m i) with short := b.short + need.length, wanting := b.wanting ++ [i] }
      else
        let got := need.zip (lowestFree (b.st.berthsUsed m) need.length 0)
        let s := b.st.modEntry i fun x => { x with skips := 0#16, map := got.foldl (fun t g => tput t g.1 g.2) x.map }
        { b with st := got.foldl (fun s g => s.mapWord e g.1 g.2) s,
                 grants := b.grants ++ got.map (fun g => (i, g.1, g.2)),
                 tokens := b.tokens + n,
                 items := b.items ++ [{ entry := i, seqId := e.seqId, first := e.filled, count := n, sample := sample,
                                        serial := e.admitSerial, ring := e.ring.toNat }] }

/-- The candidates of a build in their order (R260): priority, decode before prefill, ADMIT_SERIAL. -/
def State.candidates (s : State) (m : Nat) : List (Nat × Entry) :=
  let cs := (s.entriesOf m).filter fun e => (e.2.state = .prefill || e.2.state = .decode) && s.sessionOn e.2.paddock
  let pr := fun (e : Entry) => if 64 ≤ e.skips.toNat then 4 else e.priority
  sortOn (fun (e : Nat × Entry) => ((4 - pr e.2) * 2 + if e.2.state = .decode then 0 else 1) * 2 ^ 64 +
    e.2.admitSerial.toNat) cs

/-- The bytes of a work list (Tables 8-4 and 8-5). -/
def State.listBytesOf (s : State) (m : Nat) (md : Model) (n : Nat) (items : List Item) (grants : List (Nat × Nat × Nat)) :
    List Byte :=
  leBytes 8 n ++ leBytes 4 md.version.toNat ++ leBytes 4 items.length ++ leBytes 4 (sumNat (items.map (·.count))) ++
  leBytes 4 grants.length ++ leBytes 8 s.t ++ leBytes 1 (m + if md.invariant then 16 else 0) ++ List.replicate 223 0#8 ++
  (items.flatMap fun it =>
    match tget s.gen.manifest it.entry with
    | none => List.replicate 64 0#8
    | some e =>
      leBytes 4 it.entry ++ leBytes 4 it.seqId.toNat ++ leBytes 8 e.seed.toNat ++ leBytes 4 it.first ++
      leBytes 4 it.count ++ leBytes 2 (if it.sample then 1 else 0) ++ leBytes 2 e.adapter.toNat ++
      leBytes 4 e.invTemp.toNat ++ leBytes 4 e.topP.toNat ++ leBytes 4 e.topK.toNat ++ leBytes 8 e.seqBuf.toNat ++
      leBytes 2 e.far.toNat ++ leBytes 1 e.near.toNat ++ leBytes 1 e.sink.toNat ++ List.replicate 12 0#8) ++
  grants.flatMap fun g => leBytes 4 g.1 ++ leBytes 4 g.2.1 ++ leBytes 4 g.2.2 ++ leBytes 4 0

/-- Builds work list `n`, writes it into its buffer, forwards it to the members and arrives at LIST_READY (R257, R260,
R264). -/
def State.build (s : State) (m n : Nat) : State :=
  let s := s.serveFetches m
  match tget s.gen.loops m, tget s.gen.models m with
  | some l, some md =>
    let b0 : Build := { st := s, items := [], grants := [], tokens := 0, short := 0, wanting := [] }
    let b := (s.candidates m).foldl (fun b e => Build.consider m l b e.1 e.2) b0
    let s := b.st
    let s := (s.entriesOf m).foldl (fun s e => s.modEntry e.1 fun x =>
      { x with berthSkips := if b.wanting.contains e.1 then x.berthSkips + 1 else 0 }) s
    let s := if b.short = 0 then s else s.evictFor m (b.short - s.berthsFree m)
    let bytes := s.listBytesOf m md n b.items b.grants
    let s := s.store (l.listBuf + n % 2 * listBytes l.seqLimit) bytes
    let s := s.modLoop m fun x => { x with step := n, items := b.items, grants := b.grants, listed := true,
                                           version := md.version, reads := [], rounds := [] }
    let s := ((b.items.filter (·.sample)).map (·.ring)).eraseDups.foldl (fun s r => s.watchRoom r) s
    (s.tellMembers m l (.list bytes)).arrive l.ready
  | _, _ => s

/-! ### Commands at a boundary, and without a loop (R259) -/

/-- Applies one command of a model: `next` is the number of the list built next. -/
def State.applyCmd (s : State) (m next : Nat) (c : SeqCmd) : State :=
  match c.kind with
  | 5 =>
    match tget s.gen.loops m with
    | some l => s.applyDrain m l c
    | none => (s.modModel m fun x => { x with turn := none, drainBy := none }).complete c.wid stReinState
  | 6 => s.applyRemount m next c
  | _ => s.applySeq c

/-- Applies, in dispatch order, every command of a model that waits; a remount goes before a drain of the same boundary
(R259, R366). -/
def State.applyCmds (s : State) (m next : Nat) : State :=
  let mine := s.gen.cmds.filter fun c => c.model = m
  let order := (mine.filter fun c => c.kind = 6) ++ mine.filter fun c => c.kind != 6
  let s : State := { s with gen := { s.gen with cmds := s.gen.cmds.filter fun c => c.model != m } }
  order.foldl (fun s c => s.applyCmd m next c) s

/-- What Iluvo does for a model that has no running loop (R259, R275, R284). -/
def State.genIdle (s : State) (m : Nat) : State :=
  if s.looping m then s
  else
    let s := (s.applyCmds m 0).autoRelease m
    (s.fetched m).serveFetches m

/-- A command of a model waits for its boundary; without a running loop it is applied at once (R259). -/
def State.queueCmd (s : State) (c : SeqCmd) : State :=
  ({ s with gen := { s.gen with cmds := s.gen.cmds ++ [c] } } : State).genIdle c.model

/-! ### The end of a loop (R257, R258, R289, R347) -/

/-- Returns the grants of a list whose results are not applied (Table 8-10). -/
def State.returnGrants (s : State) (l : Loop) : State :=
  l.grants.foldl (fun s g => s.modEntry g.1 fun e =>
    if tget e.map g.2.1 = some g.2.2 then { e with map := tdel e.map g.2.1 } else e) s

/-- Removes a barrier that still exists. -/
def State.dropBarrier (s : State) (h : Nat) : State :=
  match tget s.barriers h with
  | some b => s.destroyBarrier h b
  | none => s

/-- Ends a model's loop: its launch completes, its task ends, its barriers and list buffers are freed, and the model
has no turn state; commands that waited for a boundary are applied, and the members' parts of the loop end too (R257,
R258, R264, R347, R366). A task that the end cuts short is aborted (R157, R289). -/
def State.endLoop (s : State) (m : Nat) (st : BitVec 16) (fin : TaskState := if st = stOk then .done else .aborted) :
    State :=
  match tget s.gen.loops m with
  | none => s
  | some l =>
    let s := s.tellMembers m l (.stop (fin != .done))
    let s := if l.listed then s.returnGrants l else s
    let s := s.complete l.wid st (BitVec.ofNat 64 l.stepsRun)
    let s := s.finishTask l.wid fin (if fin = .aborted && st = stOk then stTaskAborted else st) 0#32
    let s := (s.dropBarrier l.ready).dropBarrier l.sampleDone
    let s := if l.listOwn then s.release l.listBuf else s
    let drainer := (tget s.gen.models m).bind (·.drainBy)
    let s : State := { s with gen := { s.gen with loops := tdel s.gen.loops m } }
    let s := s.modModel m fun x => { x with turn := none, drain := [], drainBy := none }
    let s := match drainer with | some d => s.complete d.1 stReinState | none => s
    let s := s.completeAll l.stopping stOk
    (s.genIdle m).endRemount m

/-- Whether the loop may still read its weights (R250). -/
def State.weightsOk (s : State) (m : Model) : Bool :=
  match s.allocAt m.weights.toNat with
  | some e => mayRead m.paddock e.2
  | none => false

/-! ### The step boundary (R259) -/

/-- Whether the kernel's step has ended: its arrival at SAMPLE_DONE has been made, or its task runs and makes it
now. -/
def State.stepEnds (s : State) (l : Loop) : Bool :=
  l.listed &&
  ((match tget s.barriers l.sampleDone with | some b => l.step < b.phase | none => false) ||
   (match s.task l.wid with | some t => t.state = .running | none => false))

/-- The kernel's arrival at SAMPLE_DONE for the step, where it has not been made yet (R257). -/
def State.sampleArrive (s : State) (l : Loop) : State :=
  match tget s.barriers l.sampleDone with
  | some b => if b.phase ≤ l.step then s.arrive l.sampleDone else s
  | none => s

/-- The end of a step on a member: its kernel's stores and its arrival (R264). A stop that waits ends the member's
part of the loop. -/
def State.memberStep (s : State) (m : Nat) (md : Model) (l : Loop) (fwd : List Forward) : State :=
  let at_ := l.listBuf + l.step % 2 * listBytes l.seqLimit
  let s := if fwd.isEmpty then s else s.storeMember md (s.bytes at_ (256 + 64 * l.seqLimit)) fwd
  let s := (s.sampleArrive l).modLoop m fun x => { x with listed := false, stepsRun := x.stepsRun + 1 }
  if l.stopping.isEmpty then s else s.endLoop m stOk

/-- The step boundary of a model's loop: the kernel's stores and its arrival, the results and their records, the
commands in dispatch order, expiries, then the next list (R257, R259). -/
def State.boundary (s : State) (m : Nat) (fwd : List Forward) : State :=
  match tget s.gen.loops m, tget s.gen.models m with
  | some l, some md =>
    if !s.stepEnds l then s
    else if !l.leader then s.memberStep m md l fwd
    else
      let s := if fwd.isEmpty then s else s.storeForward m md l fwd
      let s := (s.sampleArrive l).applyResults m md l
      let s := (s.applyCmds m (l.step + 1)).autoRelease m
      let s := (s.fetched m).expireAll m
      let turn := (tget s.gen.models m).bind (·.turn)
      if turn = some .draining then s
      else if !l.stopping.isEmpty then s.endLoop m stOk
      else if !s.weightsOk md then s.endLoop m stNotPermitted
      else s.build m (l.step + 1)
  | _, _ => s

/-! ### What follows at once -/

/-- A drain whose loop tasks are saved completes: the model is DRAINED (R344, R345). The leader waits for its members;
a member reports to its leader. A stop that waited ends the loop, its suspended task aborted (R347). -/
def State.drainDone (s : State) (m : Nat) : State :=
  match tget s.gen.loops m, tget s.gen.models m with
  | some l, some md =>
    match s.task l.wid with
    | some t =>
      if md.turn != some .draining || l.listed || t.state != .suspSaved || t.saving ||
         (l.leader && !l.members.all fun d => l.savedBy.contains d) then s
      else
        let s := match md.drainBy with
          | some d => s.complete d.1 stOk (((s.jrec d.1).map fun (j : JRec) => j.progress).getD 0#64)
          | none => s
        let s := s.modModel m fun x => { x with turn := some .drained, drainBy := none, drainNs := s.t - x.drainFrom }
        let s : State := if l.leader then s else
          { s with out := { s.out with lists := s.out.lists ++ l.members.map fun d => (d, m, .saved s.part.partId) } }
        if l.stopping.isEmpty then s.genIdle m else s.endLoop m stOk .aborted
    | none => s
  | _, _ => s

/-- Loops whose task has ended of itself end too; drains that are done complete. -/
def State.sweepLoops (s : State) : State :=
  s.gen.loops.foldl (fun s e =>
    match s.task e.2.wid with
    | some t => if t.state.final then s.endLoop e.1 stTaskAborted else s.drainDone e.1
    | none => s) s

/-- Whether a model may be released: no running loop, no entry (R249). -/
def State.modelUnused (s : State) (m : Nat) : Bool := !thas s.gen.loops m && (s.entriesOf m).isEmpty

/-- A slot that generation no longer reads. -/
def Slot.idle (x : Slot) : Slot := if x.state = .active then { x with state := .held } else x

/-- Releases a model, its adapters with it. -/
def State.dropModel (s : State) (m : Nat) : State :=
  { s with gen := { s.gen with models := tdel s.gen.models m, adapters := s.gen.adapters.filter fun a => a.2.model != m }
           rein := { s.rein with layouts := s.rein.layouts.map fun l =>
             (l.1, if l.2.model = some m then
               { l.2 with model := none, slot0 := l.2.slot0.idle, slot1 := l.2.slot1.idle } else l.2) } }

/-- Whether a non-terminal entry names an adapter (R251). -/
def State.adapterUsed (s : State) (h : Nat) : Bool :=
  s.gen.manifest.any fun e => e.2.adapter.toNat = h && !e.2.state.terminal

/-- Whether a slot of a model's layout that is not ACTIVE holds a version as HELD; `bad` looks for POISONED. -/
def State.standby (s : State) (m : Nat) (v : BitVec 32) (bad : Bool) : Bool :=
  match s.layoutOf m with
  | some (_, l) => [0, 1].any fun k => (l.slot k).version = v && (l.slot k).state = (if bad then .poisoned else .held)
  | none => false

/-- The waits of generation and rein-change commands (R249, R251, R276, R362). -/
def State.tryGen (s : State) (x : Wait) : State :=
  match x.kind with
  | .modelFree m =>
    if !thas s.gen.models m then s.complete x.wid stBadParam
    else if s.modelUnused m then (s.dropModel m).complete x.wid stOk else s
  | .adapterFree h =>
    if !thas s.gen.adapters h then s.complete x.wid stBadHandle
    else if s.adapterUsed h then s
    else ({ s with gen := { s.gen with adapters := tdel s.gen.adapters h } } : State).complete x.wid stOk
  | .ringAdv h goal =>
    match tget s.gen.rings h with
    | none => s.complete x.wid stBadHandle
    | some g => if goal ≤ g.write then s.complete x.wid stOk else s
  | .remountSlot m v due =>
    if due ≤ s.t && !s.standby m v false then
      (s.modModel m fun y => { y with remount := none }).complete x.wid stReinState
    else if s.standby m v true then (s.modModel m fun y => { y with remount := none }).complete x.wid stDataPoisoned
    else if s.standby m v false then
      let s : State := { s with waits := s.waits.filter fun y => y.wid != x.wid }
      s.queueCmd { wid := x.wid, kind := 6, model := m, entry := 0, serial := 0#64,
                   arg := v.zeroExtend 64, flag := false, atNs := s.t, tokens := [] }
    else s
  | _ => s

end Sys2Proof.Machine
end

