-- ==== Sys2Proof/Machine/TraceOps.lean ====
section
/-! DEFINITION. The Traces below the collectives (R369 to R387, R406, R407): flits, credits and retry, routes, the
sending and receiving of messages, and peer violations. -/

namespace Sys2Proof.Machine

open Sys2Proof

end Sys2Proof.Machine

namespace Sys2Proof

open Sys2Proof.Machine

/-! ### Flits (R372) -/

/-- One step of CRC-32C over a bit, reflected. -/
def crcBit (c : BitVec 32) : BitVec 32 := if c.getLsbD 0 then (c >>> 1) ^^^ 0x82F63B78#32 else c >>> 1

/-- CRC-32C of bytes (polynomial 0x1EDC6F41). -/
def crc32c (bs : List Byte) : BitVec 32 :=
  bs.foldl (fun c b => (List.range 8).foldl (fun c _ => crcBit c) (c ^^^ b.zeroExtend 32)) 0xFFFFFFFF#32 ^^^ 0xFFFFFFFF#32

/-- The virtual channel of a message (R373). -/
def Msg.vc (m : Msg) : Nat := if m.fwd then 3 else if m.kind = 0 || m.kind = 4 then 2 else 1

/-- Poison map flits of a message: 1,920 lines each (R372). -/
def Msg.mapFlits (m : Msg) : Nat := if m.poison.isEmpty then 0 else ((m.data.length + 255) / 256 + 1919) / 1920

/-- Data flits after the head: 192 bytes of data in the head, 240 in each further flit. -/
def Msg.dataFlits (m : Msg) : Nat := (m.data.length - 192 + 239) / 240

/-- Flits of a message. -/
def Msg.flits (m : Msg) : Nat := 1 + m.dataFlits + m.mapFlits

/-- The 48 bytes of the message header (Table 11-3). -/
def Msg.header (m : Msg) : List Byte :=
  leBytes 1 (if m.fwd then 7 else m.kind) ++ leBytes 1 ((if m.poison.isEmpty then 0 else 1) + if m.resend then 2 else 0) ++
  leBytes 2 m.round ++ leBytes 4 m.group.toNat ++ leBytes 8 m.seq ++ leBytes 8 m.off ++ leBytes 4 m.len ++
  leBytes 4 m.chunk ++ leBytes 2 m.rank ++ leBytes 1 0 ++ leBytes 1 m.status.toNat ++ leBytes 8 m.shape.toNat ++ leBytes 4 0

/-- A flit of 256 bytes (Table 11-2): TYPE, the flit's place in its message, and its payload. -/
def Msg.flit (m : Msg) (typ k : Nat) (payload : List Byte) (ack : Option Nat) : List Byte :=
  let last := k + 1 = m.flits
  let head := leBytes 8 (typ + m.vc * 16 + (if last then 64 else 0) + m.dest.toNat * 2 ^ 8 + m.src.toNat * 2 ^ 24 +
    (if last then (payload.length + 15) / 16 else 0) * 2 ^ 40 + m.mtag.toNat * 2 ^ 48)
  let body := head ++ slice payload 0 240 ++
    leBytes 4 ((m.fseq + k) % 4096 + (match ack with | some a => a % 4096 * 2 ^ 12 + 2 ^ 24 | none => 0))
  body ++ leBytes 4 (crc32c body).toNat

/-- The flits of a message: the head, the data, the poison map. -/
def Msg.encode (m : Msg) (ack : Option Nat) : List (List Byte) :=
  let lines := (m.data.length + 255) / 256
  m.flit 1 0 (m.header ++ m.data.take 192) ack ::
    (((List.range m.dataFlits).map fun i => m.flit 2 (1 + i) (((m.data.drop (192 + 240 * i)).take 240)) ack) ++
     (List.range m.mapFlits).map fun i => m.flit 3 (1 + m.dataFlits + i)
       (leBytes 240 (sumNat ((List.range (min 1920 (lines - 1920 * i))).map fun b =>
         if m.poison.contains (1920 * i + b) then 2 ^ b else 0))) ack)

end Sys2Proof

namespace Sys2Proof.Machine

open Sys2Proof

/-! ### Ports -/

/-- A port. -/
def State.port (s : State) (p : Nat) : Port := tgetD Port.reset s.trace.ports p

/-- Changes a port. -/
def State.modPort (s : State) (p : Nat) (f : Port → Port) : State :=
  { s with trace := { s.trace with ports := tputD Port.reset s.trace.ports p (f (s.port p)) } }

/-- Whether the link layer of a port is up (Table 11-4). -/
def Port.up (q : Port) : Bool := q.state = .linked || q.state = .admitted || q.state = .quarantined

/-- Sends a control record on a port. -/
def State.ctl (s : State) (p : Nat) (r : CtlRec) : State :=
  { (s.modPort p fun q => { q with bytesTx := q.bytesTx + 8#64 }) with
      out := { s.out with trace := s.out.trace ++ [{ port := p, msg := none, ctl := some r }] } }

/-- Credits of a channel granted before any record (R373). -/
def baseCredit (vc : Nat) : BitVec 32 := if vc = 1 then 256#32 else if vc = 2 then 1024#32 else 512#32

/-- The running count that a table holds for a channel. -/
def creditOf (t : Tbl (BitVec 32)) (vc : Nat) : BitVec 32 := tgetD (baseCredit vc) t vc

/-- The running count of flits that a table holds for a channel. -/
def usedOf (t : Tbl (BitVec 32)) (vc : Nat) : BitVec 32 := tgetD 0#32 t vc

/-- Flits of a channel that may go now: the credit left, and the room of the retry buffer (R373, R374). -/
def Port.room (q : Port) (vc : Nat) : Nat :=
  min (creditOf q.credPeer vc - usedOf q.credUsedTx vc).toInt.toNat (1024 - q.retryBuf.length)

/-- Flits of a channel's message that have not gone yet. -/
def Port.rest (q : Port) (vc : Nat) : List Flit := tgetD [] q.txRest vc

/-- Whether a head flit of a channel may be sent: the channel's last message has gone whole, since the flits of a message
are contiguous on it, a credit is left, and the retry buffer has room (R372 to R374). -/
def Port.maySend (q : Port) (vc : Nat) : Bool := (q.rest vc).isEmpty && 0 < q.room vc

/-- Sends the flits of a channel's message as far as credit and the retry buffer allow: they are numbered, kept for retry
and use their credit (R373, R374). -/
def Port.pushFlits (q : Port) (vc : Nat) : Port :=
  let rest := q.rest vc
  let k := min rest.length (q.room vc)
  let out := ((rest.take k).zip (List.range k)).map fun e => { e.1 with fseq := q.txSeq + BitVec.ofNat 12 e.2 }
  { q with
    txSeq := q.txSeq + BitVec.ofNat 12 k, retryBuf := q.retryBuf ++ out
    txRest := tputD [] q.txRest vc (rest.drop k)
    credUsedTx := tputD 0#32 q.credUsedTx vc (usedOf q.credUsedTx vc + BitVec.ofNat 32 k)
    bytesTx := q.bytesTx + BitVec.ofNat 64 (8 * k) }

/-! ### Routes (R386) -/

/-- ADMITTED direct ports to a part, in port order. -/
def State.directPorts (s : State) (d : BitVec 16) : List Nat :=
  (List.range 16).filter fun p => (s.port p).state = .admitted && !(s.port p).peerSwitch && (s.port p).peer = some d

/-- ADMITTED switch ports, in port order. -/
def State.switchPorts (s : State) : List Nat :=
  (List.range 16).filter fun p => (s.port p).state = .admitted && (s.port p).peerSwitch

/-- The intermediate part of a detour: the lowest identifier with ADMITTED ports to both. -/
def State.detourVia (s : State) (d : BitVec 16) : Option (BitVec 16) :=
  (s.trace.boardPeers.filter fun e => e.2 = d && !(s.directPorts e.1).isEmpty).foldl (fun acc e =>
    match acc with
    | some x => if e.1.toNat < x.toNat then some e.1 else some x
    | none => some e.1) none

/-- The ports toward a part, and whether they are a detour. -/
def State.routePorts (s : State) (d : BitVec 16) : List Nat × Bool :=
  if !(s.directPorts d).isEmpty then (s.directPorts d, false)
  else if !s.switchPorts.isEmpty then (s.switchPorts, false)
  else match s.detourVia d with
    | some x => (s.directPorts x, true)
    | none => ([], false)

/-- Whether a part has a route. -/
def State.routed (s : State) (d : BitVec 16) : Bool := !(s.routePorts d).1.isEmpty

/-- The ports of a list in rotation, after one used last. -/
def rotate (ps : List Nat) (last : Nat) : List Nat := ps.filter (fun p => last < p) ++ ps.filter fun p => p ≤ last

/-! ### Messages -/

/-- The operation of a group and a sequence number. -/
def State.coll (s : State) (g : BitVec 32) (seq : Nat) : Option Coll :=
  s.trace.colls.find? fun c => c.group = g && c.seq = seq

/-- A message of this part. -/
def State.newMsg (s : State) (dest : BitVec 16) (kind : Nat) (group : BitVec 32) (seq : Nat) : Msg :=
  { dest := dest, src := s.part.partId, mtag := 0#16, kind := kind, fwd := false, resend := false, round := 0,
    group := group, seq := seq, off := 0, len := 0, chunk := 0, rank := 0, status := 0#16, shape := 0#64,
    members := none, window := false, data := [], poison := [], fseq := 0, crc := true, reserved := false }

/-- Puts a message into the queue of those that wait to be sent. -/
def State.enqueue (s : State) (m : Msg) (wid : BitVec 64 := 0#64) (pad : Nat := 15) : State :=
  { s with trace := { s.trace with queue := s.trace.queue ++ [{ msg := m, wid := wid, pad := pad, notBefore := 0 }] } }

/-- The key of a part and a window. -/
def winKey (p : BitVec 16) (w : Nat) : Nat := 65536 * p.toNat + w

/-- Gives a window message its number when its head flit is granted (R402, R403). -/
def State.numberMsg (s : State) (x : TMsg) : State × Msg :=
  if x.msg.kind != 4 || x.wid = 0#64 then (s, x.msg)
  else
    let k := winKey x.msg.dest x.msg.group.toNat
    match (s.trace.sends.find? fun e => e.wid = x.wid).bind (·.number) with
    | some n => (s, { x.msg with seq := n })
    | none =>
      let n := tgetD 0 s.trace.sendNo k
      ({ s with trace := { s.trace with
          sendNo := tputD 0 s.trace.sendNo k (n + 1)
          sends := s.trace.sends.map fun e => if e.wid = x.wid then { e with number := some n } else e } },
       { x.msg with seq := n })

/-- What a message serves, for the round robin of its paddock: its TRACE_SEND, or its operation (R406). -/
def TMsg.source (x : TMsg) : Nat :=
  if x.wid = 0#64 then x.msg.group.toNat * 2 ^ 64 + x.msg.seq else 2 ^ 128 + x.wid.toNat

/-- Grants a message a port: it goes whole, its flits as credit and the retry buffer allow (R372 to R374). -/
def State.sendOn (s : State) (p : Nat) (fwd : Bool) (x : TMsg) : State :=
  let (s, m0) := s.numberMsg x
  let q := s.port p
  let m := { m0 with mtag := s.trace.nextTag, fwd := m0.fwd || fwd, fseq := q.txSeq.toNat }
  let fl : List Flit := List.replicate m.flits { fseq := q.txSeq, vc := m.vc, mtag := m.mtag }
  let s := s.modPort p fun q => ({ q with txRest := tputD [] q.txRest m.vc fl }).pushFlits m.vc
  { s with
    out := { s.out with trace := s.out.trace ++ [{ port := p, msg := some m, ctl := none }] }
    trace := { s.trace with
      nextTag := s.trace.nextTag + 1#16
      rr := tputD 15 s.trace.rr m.dest.toNat p
      sent := s.trace.sent ++ [{ msg := m, wid := x.wid, pad := x.pad, port := p }] } }

/-- The port on which a queued message may go now, and whether by a detour: its time has come, a route exists and a port
toward its part may send. -/
def State.portFor (s : State) (x : TMsg) : Option (Nat × Bool) :=
  if s.t < x.notBefore then none
  else
    let (ps, fwd) := s.routePorts x.msg.dest
    let vc := if fwd || x.msg.fwd then 3 else x.msg.vc
    ((rotate ps (tgetD 15 s.trace.rr x.msg.dest.toNat)).find? fun p => (s.port p).maySend vc).map fun p => (p, fwd)

/-- Whether a message still serves something here: its operation or send is pending, or it serves another's. -/
def State.msgLive (s : State) (m : Msg) (wid : BitVec 64) : Bool :=
  if m.src != s.part.partId then true
  else if m.kind = 4 then s.trace.sends.any fun e => e.wid = wid
  else if m.kind = 2 || m.kind = 3 then true
  else (s.coll m.group m.seq).isSome

/-- Whether a message that was sent is still kept (R376, R387): until its DONE, the end of its operation, or, where it
asks for none, the acknowledgement of its flits. -/
def State.keepSent (s : State) (x : TSent) : Bool :=
  s.msgLive x.msg x.wid &&
  (match x.msg.kind with
   | 0 => x.msg.src != s.part.partId || match s.coll x.msg.group x.msg.seq with
      | some c => !c.done.any fun d => d.2 = x.msg.chunk &&
          (((tget s.trace.groups x.msg.group.toNat).bind fun g => g.members[d.1]?) = some x.msg.dest)
      | none => false
   | _ => true) &&
  (if x.msg.kind = 2 || x.msg.kind = 3 || x.msg.src != s.part.partId then
     ((s.port x.port).retryBuf ++ (s.port x.port).rest x.msg.vc).any fun f => f.mtag = x.msg.mtag
   else true)

/-! ### Port arbitration (R406, log entry 172) -/

/-- A message that may go: its place in the queue, the message, its port, whether by a detour. -/
structure Ready where
  /-- place in the queue -/
  at_ : Nat
  /-- message -/
  msg : TMsg
  /-- port -/
  port : Nat
  /-- detoured -/
  fwd : Bool
deriving DecidableEq, Repr

/-- The virtual channel on which a ready message goes. -/
def Ready.vc (r : Ready) : Nat := if r.fwd then 3 else r.msg.msg.vc

/-- The messages of the queue that may go now. -/
def State.readyMsgs (s : State) : List Ready :=
  ((s.trace.queue.zip (List.range s.trace.queue.length)).filterMap fun e =>
    (s.portFor e.1).map fun p => { at_ := e.2, msg := e.1, port := p.1, fwd := p.2 })

/-- The order of the channels: VC 1, then VC 3, then VC 2. -/
def vcOrder (vc : Nat) : Nat := if vc = 1 then 0 else if vc = 3 then 1 else 2

/-- Whether a ready message's class has had its share while others request: VC 1 an eighth of the port, VC 3 a quarter,
system traffic a sixteenth of VC 2. -/
def State.hadShare (s : State) (rs : List Ready) (r : Ready) : Bool :=
  let t := (s.port r.port).served
  let all := sumNat (t.map (·.2))
  let mine := tgetD 0 t r.vc
  let others := rs.any fun x => x.port = r.port && x.vc != r.vc
  match r.vc with
  | 1 => others && all < 8 * mine
  | 3 => others && all < 4 * mine
  | _ => r.msg.pad = 15 && (rs.any fun x => x.port = r.port && x.vc = 2 && x.msg.pad != 15) &&
      sumNat (s.trace.padFlits.map (·.2)) < 16 * tgetD 0 s.trace.padFlits 15

/-- TRACE_SHARE of a paddock; system traffic counts as 1. -/
def State.traceWeight (s : State) (pad : Nat) : Nat := max 1 (((tget s.paddocks pad).map (·.traceShare)).getD 1)

/-- What decides among ready messages, the lowest first: a class that has had its share goes after the others; then the
channel; on VC 2 the paddock that has sent least for its share; within it the operation or send served longest ago; then
the place in the queue. -/
def State.arbKey (s : State) (rs : List Ready) (r : Ready) : List Nat :=
  [if s.hadShare rs r then 1 else 0, vcOrder r.vc,
    if r.vc = 2 && r.msg.pad != 15 then tgetD 0 s.trace.padFlits r.msg.pad * 100 / s.traceWeight r.msg.pad else 0,
    tgetD 0 s.trace.turns r.msg.source, r.at_]

/-- Whether a list comes before another in lexicographic order. -/
def lexBefore : List Nat → List Nat → Bool
  | a :: s, b :: t => a < b || (a = b && lexBefore s t)
  | [], _ :: _ => true
  | _, [] => false

/-- The ready message that goes next. -/
def State.arbitrate (s : State) : Option Ready :=
  let rs := s.readyMsgs
  match rs with
  | [] => none
  | r :: t => some (t.foldl (fun a x => if lexBefore (s.arbKey rs x) (s.arbKey rs a) then x else a) r)

/-- Counts a message against the shares of its port's channels and of VC 2's paddocks; a paddock with nothing to send
keeps no claim on what it leaves idle. -/
def State.countServed (s : State) (r : Ready) : State :=
  let rs := s.readyMsgs
  let n := r.msg.msg.flits
  let contended := rs.any fun x => x.port = r.port && x.vc != r.vc
  let s := s.modPort r.port fun q => { q with
    served := if contended then tputD 0 q.served r.vc (tgetD 0 q.served r.vc + n) else [] }
  let turn := 1 + s.trace.turns.foldl (fun a e => max a e.2) 0
  let live := s.trace.queue.map TMsg.source
  let pass := (tgetD 0 s.trace.padFlits r.msg.pad) * 100 / s.traceWeight r.msg.pad
  let asks := fun (p : Nat) => rs.any fun x => x.vc = 2 && x.msg.pad = p
  let flits := if r.vc != 2 then s.trace.padFlits
    else tputD 0 (s.trace.padFlits.map fun e =>
      (e.1, if asks e.1 || e.1 = 15 then e.2 else max e.2 (pass * s.traceWeight e.1 / 100))) r.msg.pad
        (tgetD 0 s.trace.padFlits r.msg.pad + n)
  { s with trace := { s.trace with
      turns := tput (s.trace.turns.filter fun e => live.contains e.1) r.msg.source turn, padFlits := flits } }

/-- Sends queued messages while one may go, in the order of arbitration. -/
def State.sendReady : Nat → State → State
  | 0, s => s
  | n + 1, s =>
    match s.arbitrate with
    | none => s
    | some r =>
      let s := s.countServed r
      let s : State := { s with trace := { s.trace with queue := s.trace.queue.eraseIdx r.at_ } }
      State.sendReady n (s.sendOn r.port r.fwd r.msg)

/-- Sends on what is left of messages that have their port (R373, R374). -/
def State.pushPorts (s : State) : State :=
  (List.range 16).foldl (fun s p =>
    if (s.port p).state = .admitted && !(s.port p).txRest.isEmpty then
      s.modPort p fun q => ((q.pushFlits 1).pushFlits 3).pushFlits 2
    else s) s

/-- Sends what may be sent, in the order of arbitration, and drops what no longer serves anything. -/
def State.pumpTrace (s : State) : State :=
  let s := s.pushPorts
  let live := s.trace.queue.filter fun x => s.msgLive x.msg x.wid
  let kept := s.trace.sent.filter fun x => s.keepSent x
  let s : State := { s with trace := { s.trace with queue := live, sent := kept } }
  State.sendReady live.length s

/-! ### Lost routes (R386, R398) -/

/-- The parts that this part has dealings with. -/
def State.partners (s : State) : List (BitVec 16) :=
  (s.trace.groups.flatMap fun g => g.2.members) ++ (s.trace.sends.map (·.dest)) ++ s.moors.flatMap fun m => m.2.members ++ m.2.spares

/-- Records the parts whose route is lacking, from when, and forgets those that have one again. -/
def State.noteRoutes (s : State) : State :=
  let ps := (s.partners.filter fun p => p != s.part.partId).eraseDups
  { s with trace := { s.trace with lostRoute := ps.foldl (fun t p =>
      if s.routed p then tdel t p.toNat else if thas t p.toNat then t else tput t p.toNat s.t) s.trace.lostRoute } }

/-! ### Violations (R407) -/

/-- A change of a port's state or width is logged (R375, R379). -/
def State.logPort (s : State) (p : Nat) : State := s.logEv evPortChange 0xFF#8 0#16 p

/-- Quarantines a port (R407). -/
def State.quarantinePort (s : State) (p : Nat) : State :=
  if (s.port p).state = .linked || (s.port p).state = .admitted then
    ((s.modPort p fun q => { q with state := .quarantined }).logEv evPortQuarantined 0xFF#8 stTraceProtocol p).noteRoutes
  else s

/-- Counts and logs a peer violation; more than 256 within 1 s quarantine the port (R407, Table 11-10). -/
def State.portViolation (s : State) (p n : Nat) : State :=
  let recent := s.t :: (s.port p).violTimes.filter fun u => s.t < u + secNs
  let s := s.modPort p fun q => { q with violations := q.violations + 1, violTimes := recent }
  let s := s.logEv evTraceViolation 0xFF#8 stTraceProtocol p 0#64
    (leBytes 4 n ++ leBytes 2 (((s.port p).peer.getD 0xFFFF#16).toNat))
  if 256 < recent.length then s.quarantinePort p else s

/-! ### Receiving (R373, R374, R376, R407) -/

/-- Reasons of a REFUSE record. -/
abbrev rfNotReady : Nat := 1
/-- The port is quarantined. -/
abbrev rfQuarantined : Nat := 2
/-- A protocol violation. -/
abbrev rfProtocol : Nat := 3
/-- A grant for a group that the receiver does not know. -/
abbrev rfGroup : Nat := 4
/-- A window that does not take the message. -/
abbrev rfWindow : Nat := 5

/-- A message arrives on a port: the link layer's checks, the refusals of a port that is not ADMITTED, the checks of
Table 11-10, then what the message does. -/
def State.receive (s : State) (p : Nat) (m : Msg) (act : State → State) : State :=
  let q := s.port p
  if !q.up then s
  else if !m.crc || m.fseq != q.rxSeq.toNat then
    if q.rxDiscard then s else (s.modPort p fun q => { q with rxDiscard := true }).ctl p (.retry q.rxSeq.toNat)
  else
    let n := m.flits
    let beyond := (creditOf q.credGranted m.vc - usedOf q.credUsedRx m.vc).toInt ≤ 0
    let s := s.modPort p fun q => { q with
      rxSeq := q.rxSeq + BitVec.ofNat 12 n, rxDiscard := false, unacked := q.unacked + n,
      bytesRx := q.bytesRx + BitVec.ofNat 64 (8 * n),
      credUsedRx := tputD 0#32 q.credUsedRx m.vc (usedOf q.credUsedRx m.vc + BitVec.ofNat 32 n),
      credGranted := tputD (baseCredit m.vc) q.credGranted m.vc (creditOf q.credGranted m.vc + BitVec.ofNat 32 n) }
    if beyond then s.portViolation p 1
    else if q.state = .linked || s.part.pstate = .warmReset then s.ctl p (.refuse m.mtag rfNotReady)
    else if q.state = .quarantined then s.ctl p (.refuse m.mtag rfQuarantined)
    else if m.reserved || 6 < m.kind then s.portViolation p 2
    else if !q.peerSwitch && !m.fwd && q.peer != some m.src then s.portViolation p 5
    else act s

/-- Hands a detoured message on through the forwarding area, or takes it where this part is its destination (R36,
R386). -/
def State.passOn (s : State) (m : Msg) (act : State → State) : State :=
  if m.dest = s.part.partId then act s
  else if (s.directPorts m.dest).isEmpty then s
  else
    let (s, data, bad) := s.landIn (areaForward + 0x400000 * (m.mtag.toNat % 8)) 0x400000 m.data m.poison
    s.enqueue { m with data := data, poison := bad }

/-! ### Digests (R388, R389) -/

/-- The chained digest of R277 over 32-bit words. -/
def chainDigest (ws : List (BitVec 32)) : BitVec 64 :=
  (ws.zip (List.range ws.length)).foldl (fun h e =>
    let b := cb4 h (cbCounter 0 0 e.1 (BitVec.ofNat 64 e.2))
    ((b[1]?).getD 0#32) ++ ((b[0]?).getD 0#32)) 0#64

/-- The MEMBERS digest of a group (R389). -/
def membersDigest (g : BitVec 32) (ms : List (BitVec 16)) : BitVec 64 := chainDigest (g :: ms.map fun m => m.zeroExtend 32)

/-- The 32-bit words of bytes. -/
def wordsOfBytes (bs : List Byte) : List (BitVec 32) :=
  (List.range (bs.length / 4)).map fun i => BitVec.ofNat 32 (fld bs (4 * i) 4)

/-- The SHAPE of a descriptor (R389): bytes 0 to 63 with the addresses and handles taken as zero. -/
def shapeOf (d : List Byte) : BitVec 64 :=
  chainDigest (wordsOfBytes (slice d 0 16 ++ List.replicate 16 0#8 ++ slice d 32 8 ++ List.replicate 8 0#8 ++ slice d 48 8 ++
    List.replicate 8 0#8))

end Sys2Proof.Machine
end

