-- ==== Sys2Proof/Machine/ReinOps.lean ====
section
/-! DEFINITION. Layouts (R334 to R341): the descriptor, its checks, where each block of a copy lies; and the blocks that
a permute moves from one member to another (R351 to R355). -/

namespace Sys2Proof.Machine

open Sys2Proof

/-! ### Copy formats (Table 9-2) -/

/-- The element format of a COPYFMT code. -/
def copyElem : Nat → ElemFmt
  | 1 => .mxfp4
  | 2 => .mxfp6e2m3
  | 3 => .mxfp6e3m2
  | 4 => .mxe4m3
  | 5 => .mxe5m2
  | _ => .bf16

/-- Code bytes of a block of 32 elements. -/
def copyBlock : Nat → Nat
  | 1 => 16
  | 2 => 24
  | 3 => 24
  | 4 => 32
  | 5 => 32
  | _ => 64

/-- Scale bytes of a block. -/
def copyScale (f : Nat) : Nat := if f = 6 then 0 else 1

/-! ### Pieces (R335) -/

/-- Tiles of a piece along K. -/
def Piece.tileCols (p : Piece) (f : Nat) : Nat := (p.b1 + (tileLay (copyElem f)).k - 1) / (tileLay (copyElem f)).k

/-- Bytes that a piece takes in its region. -/
def Piece.bytes (p : Piece) (f : Nat) : Nat :=
  if p.tiles then (p.a1 + (tileLay (copyElem f)).rows - 1) / (tileLay (copyElem f)).rows * p.tileCols f * 16384
  else if f = 6 then 2 * p.b0
  else roundUp (p.b0 / 32 * copyBlock f) 256 + p.b0 / 32

/-- Whether a piece holds block `b` of its tensor, of COLS elements to a row. -/
def Piece.holds (p : Piece) (cols b : Nat) : Bool :=
  if p.tiles then
    p.a0 ≤ 32 * b / cols && 32 * b / cols < p.a0 + p.a1 && p.b0 ≤ 32 * b % cols && 32 * b % cols < p.b0 + p.b1
  else p.a0 ≤ 32 * b && 32 * b < p.a0 + p.b0

/-- Where a piece holds a block: the offsets of its codes and of its scale in the region. -/
def Piece.spot (p : Piece) (f cols b : Nat) : Nat × Nat :=
  if p.tiles then
    let l := tileLay (copyElem f)
    let r := 32 * b / cols - p.a0
    let c := 32 * b % cols - p.b0
    let base := p.offset + (r / l.rows * p.tileCols f + c / l.k) * 16384
    (base + r % l.rows * l.rowBytes + c % l.k / 32 * copyBlock f, base + l.scaleAt + r % l.rows * l.scales + c % l.k / 32)
  else
    let i := b - p.a0 / 32
    (p.offset + i * copyBlock f, p.offset + roundUp (p.b0 / 32 * copyBlock f) 256 + i)

/-- The blocks of a piece. -/
def Piece.blocks (p : Piece) (cols : Nat) : List Nat :=
  if p.tiles then
    (List.range p.a1).flatMap fun r => (List.range (p.b1 / 32)).map fun c => ((p.a0 + r) * cols + p.b0) / 32 + c
  else (List.range (p.b0 / 32)).map fun i => p.a0 / 32 + i

/-! ### The descriptor (R334) -/

/-- A layout as its descriptor gives it. -/
def layoutDesc (d : List Byte) (pad : Nat) : Layout :=
  let nParts := fld d 8 4
  let nTens := fld d 12 4
  let nPieces := fld d 16 4
  let dest := fld d 48 8
  let po := fld d 56 8
  { paddock := pad, kind := fld d 4 1, format := fld d 5 1, replicas := fld d 6 2,
    parts := (List.range nParts).map fun i => BitVec.ofNat 16 (fld d (fld d 32 8 + 2 * i) 2),
    tensors := (List.range nTens).map fun i =>
      { id := BitVec.ofNat 32 (fld d (dest + 32 * i) 4), layer := fld d (dest + 32 * i + 4) 2,
        rows := fld d (dest + 32 * i + 8) 4, cols := fld d (dest + 32 * i + 12) 4 },
    pieces := (List.range nPieces).map fun i =>
      let o := po + 32 * i
      let t : Bool := fld d (o + 6) 1 = 1
      { tensor := fld d o 4, part := fld d (o + 4) 2, tiles := t,
        a0 := if t then fld d (o + 8) 4 else fld d (o + 8) 8, a1 := if t then fld d (o + 12) 4 else 0,
        b0 := if t then fld d (o + 16) 4 else fld d (o + 16) 8, b1 := if t then fld d (o + 20) 4 else 0,
        offset := fld d (o + 24) 8 },
    digest := slice d 64 48, slot0 := Slot.reset, slot1 := Slot.reset, model := none, table := 0, tableOwn := false,
    sent := 0, recvd := 0, durNs := 0 }

/-- Whether bytes are all 0. -/
def zeros (bs : List Byte) : Bool := bs.all fun b => b = 0#8

/-- The first check of R336: MAGIC, ranges and reserved fields. -/
def layoutRanges (d : List Byte) (l : Layout) : Bool :=
  let stages := fld d 22 2
  let layers := fld d 20 2
  let stage := fun (i : Nat) => fld d (fld d 40 8 + 2 * i) 2
  let tens := fld d 48 8
  let pcs := fld d 56 8
  fld d 0 4 = 0x314C5647 && l.kind ≤ 3 && 1 ≤ l.format && l.format ≤ 6 && 1 ≤ l.replicas && l.replicas ≤ 2048 &&
  (l.kind != 1 || l.replicas = 1) && 1 ≤ l.parts.length && l.parts.length ≤ 16384 && l.parts.length % l.replicas = 0 &&
  1 ≤ l.tensors.length && l.tensors.length ≤ 1048576 && 1 ≤ l.pieces.length && l.pieces.length ≤ 4194304 &&
  1 ≤ layers && layers ≤ 256 && 1 ≤ stages && stages ≤ 64 && zeros (slice d 112 144) &&
  l.parts.eraseDups.length = l.parts.length && stage 0 = 0 &&
  ((List.range stages).all fun i => stage i < layers && (i = 0 || stage (i - 1) < stage i)) &&
  (l.tensors.all fun t => (t.layer < layers || t.layer = 0xFFFF) && 1 ≤ t.rows && t.rows ≤ 16777216 && 32 ≤ t.cols &&
    t.cols ≤ 1048576 && t.cols % 32 = 0) &&
  ((List.range l.tensors.length).all fun i => zeros (slice d (tens + 32 * i + 6) 2) && zeros (slice d (tens + 32 * i + 16) 16)) &&
  (l.pieces.all fun p => p.tensor < l.tensors.length && p.part < l.parts.length && p.b0 % 32 = 0 &&
    (if p.tiles then p.b1 % 32 = 0 && p.offset % 16384 = 0 else p.a0 % 32 = 0 && p.offset % 256 = 0)) &&
  (List.range l.pieces.length).all fun i => fld d (pcs + 32 * i + 6) 1 ≤ 1 && fld d (pcs + 32 * i + 7) 1 = 0

/-- The tensor of a piece. -/
def Layout.tensorOf (l : Layout) (p : Piece) : Tensor := (l.tensors[p.tensor]?).getD { id := 0#32, layer := 0, rows := 0, cols := 32 }

/-- Whether a piece lies inside its tensor. -/
def Layout.inside (l : Layout) (p : Piece) : Bool :=
  let t := l.tensorOf p
  if p.tiles then p.a0 + p.a1 ≤ t.rows && p.b0 + p.b1 ≤ t.cols else p.a0 + p.b0 ≤ t.rows * t.cols

/-- The replica of a part index (R334). -/
def Layout.replicaOf (l : Layout) (i : Nat) : Nat := i / (l.parts.length / l.replicas)

/-- Coverage (R337). -/
def Layout.covers (l : Layout) : Bool :=
  (List.range l.tensors.length).all fun ti =>
    let t := (l.tensors[ti]?).getD { id := 0#32, layer := 0, rows := 0, cols := 32 }
    let mine := l.pieces.filter fun p => p.tensor = ti
    (List.range (t.rows * t.cols / 32)).all fun b =>
      let hs := mine.filter fun p => p.holds t.cols b
      match l.kind with
      | 1 => hs.length = 1
      | 3 => 1 ≤ hs.length
      | _ => (List.range l.replicas).all fun r => (hs.filter fun p => l.replicaOf p.part = r).length = 1

/-- Whether no two pieces of one part overlap in their region. -/
def Layout.disjoint (l : Layout) : Bool :=
  (List.range l.pieces.length).all fun i => (List.range i).all fun j =>
    match l.pieces[i]?, l.pieces[j]? with
    | some p, some q => p.part != q.part || p.offset + p.bytes l.format ≤ q.offset || q.offset + q.bytes l.format ≤ p.offset
    | _, _ => true

/-- The pieces of a part. -/
def Layout.piecesOf (l : Layout) (part : BitVec 16) : List Piece := l.pieces.filter fun p => l.parts[p.part]? = some part

/-- Bytes of the region that a part's pieces take. -/
def Layout.extent (l : Layout) (part : BitVec 16) : Nat :=
  (l.piecesOf part).foldl (fun m p => max m (p.offset + p.bytes l.format)) 0

/-! ### What a permute moves (R351 to R353) -/

/-- One block to move: where it goes in the destination region, and where it lies in the sender's source region. -/
structure Move where
  /-- destination offsets of codes and scale -/
  dest : Nat × Nat
  /-- source offsets of codes and scale -/
  src : Nat × Nat
deriving DecidableEq, Repr

/-- Whether a tensor moves under a layer range (R353). -/
def Tensor.moves (t : Tensor) (first last : Nat) : Bool :=
  if t.layer = 0xFFFF then first = 0 && last = 0xFFFF else first ≤ t.layer && t.layer ≤ last

/-- The source piece from which a block is sent: of its h holding parts, the one at (tensor + block) mod h (R351). -/
def Layout.sender (l : Layout) (ti cols b : Nat) : Option Piece :=
  let hs := l.pieces.filter fun p => p.tensor = ti && p.holds cols b
  let parts := sortOn id (hs.map (·.part)).eraseDups
  match parts[(ti + b) % (max parts.length 1)]? with
  | some k => hs.find? fun p => p.part = k
  | none => none

/-- The blocks that part `from_` sends to part `to_`, in increasing destination offset. -/
def movesOf (ls ld : Layout) (first last : Nat) (from_ to_ : BitVec 16) : List Move :=
  let all := (ld.piecesOf to_).flatMap fun p =>
    let t := ld.tensorOf p
    if !t.moves first last then []
    else (p.blocks t.cols).filterMap fun b =>
      match ls.sender p.tensor t.cols b with
      | some q => if ls.parts[q.part]? = some from_ then
          some { dest := p.spot ld.format t.cols b, src := q.spot ls.format t.cols b : Move } else none
      | none => none
  sortOn (fun m => m.dest.1) all

/-- One run of a block in the destination's arrangement: its codes, or its scale (R335). -/
structure Seg where
  /-- the block -/
  move : Move
  /-- its scale -/
  scale : Bool
deriving DecidableEq, Repr

/-- Destination offset of a run. -/
def Seg.to_ (g : Seg) : Nat := if g.scale then g.move.dest.2 else g.move.dest.1

/-- Bytes of a run. -/
def Seg.len (g : Seg) (f : Nat) : Nat := if g.scale then copyScale f else copyBlock f

/-- The runs of blocks, in increasing destination offset (R352). -/
def segsOf (f : Nat) (ms : List Move) : List Seg :=
  sortOn Seg.to_ (ms.flatMap fun m =>
    { move := m, scale := false } :: if copyScale f = 0 then [] else [{ move := m, scale := true }])

/-- Runs packed into chunks of at most 1 MiB in their order (R352, log entry 165): the chunks formed, and the bytes of
the last. -/
def packSegs (f : Nat) (gs : List Seg) : List (List Seg) :=
  (gs.foldl (fun (acc : List (List Seg) × Nat) g =>
    match acc.1.getLast? with
    | some c => if acc.2 + g.len f ≤ 0x100000 then (acc.1.dropLast ++ [c ++ [g]], acc.2 + g.len f) else (acc.1 ++ [[g]], g.len f)
    | none => ([[g]], g.len f)) ([], 0)).1

/-- The least offset among a range's pieces on a part (R353). -/
def Layout.leastOffset (l : Layout) (part : BitVec 16) (first last : Nat) : Nat :=
  let os := ((l.piecesOf part).filter fun p => (l.tensorOf p).moves first last).map (·.offset)
  os.foldl min (os.headD 0)

/-- Bytes from the least offset of a range's pieces on a part to the end of the last of them (R350, R353). -/
def Layout.span (l : Layout) (part : BitVec 16) (first last : Nat) : Nat :=
  ((l.piecesOf part).filter fun p => (l.tensorOf p).moves first last).foldl
    (fun m p => max m (p.offset + p.bytes l.format)) 0 - l.leastOffset part first last

/-- The places of a range's pieces as a permute begins: every poison there is cleared, since every block arrives anew,
and engine tiles are zero-filled, since their padding stays 0 (R335, R342, R354). -/
def State.clearPieces (s : State) (l : Layout) (base : Nat) (first last : Nat) : State :=
  ((l.piecesOf s.part.partId).filter fun p => (l.tensorOf p).moves first last).foldl
    (fun s p =>
      let lo := base + p.offset
      if p.tiles then s.zeroKeys lo (p.bytes l.format)
      else { s with poison := s.poison.filter fun k => !(lo ≤ k * 64 && k * 64 < lo + p.bytes l.format) }) s

/-- Bytes of a run read at the source, and whether any line of its block is poisoned (R355). -/
def State.readSeg (s : State) (f base : Nat) (g : Seg) : List Byte × Bool :=
  let m := g.move
  (s.bytes (base + if g.scale then m.src.2 else m.src.1) (g.len f),
   s.poisoned (base + m.src.1) (copyBlock f) || s.poisoned (base + m.src.2) (copyScale f))

/-- Writes the runs of a chunk at their destinations, those of poisoned blocks poisoned (R354, R355). `poison` numbers
the chunk's poisoned runs. -/
def State.writeSegs (s : State) (f base : Nat) (gs : List Seg) (data : List Byte) (poison : List Nat) : State :=
  ((gs.zip (List.range gs.length)).foldl (fun (acc : State × Nat) g =>
    (acc.1.storeP (poison.contains g.2) (base + g.1.to_) (slice data acc.2 (g.1.len f)), acc.2 + g.1.len f)) (s, 0)).1

end Sys2Proof.Machine
end

