-- ==== Sys2Proof/Machine/CollOps.lean ====
section
/-! DEFINITION. Collective operations on one member (R388 to R401), with the transport of permutes (R349 to R356),
exchanges and norms (R304 to R308): what each member sends to each other, grants, merges, streams, and the end of an
operation. -/

namespace Sys2Proof.Machine

open Sys2Proof

/-! ### The shape of an operation -/

/-- Changes an operation. -/
def State.modColl (s : State) (w : BitVec 64) (f : Coll → Coll) : State :=
  { s with trace := { s.trace with colls := s.trace.colls.map fun c => if c.wid = w then f c else c } }

/-- The operation of a command. -/
def State.collOf (s : State) (w : BitVec 64) : Option Coll := s.trace.colls.find? fun c => c.wid = w

/-- Changes a group. -/
def State.modGroup (s : State) (g : BitVec 32) (f : TGroup → TGroup) : State :=
  { s with trace := { s.trace with groups := tmod s.trace.groups g.toNat f } }

/-- Bytes of an element of a format of Table 11-7. -/
def fmtBytes (f : Nat) : Nat := if f = 0 then 4 else if f = 3 then 16 else if f = 4 then 1 else 2

/-- The floating-point format of a format code. -/
def fmtCode (f : Nat) : Fmt := if f = 0 then .fp32 else if f = 1 then .bf16 else .fp16

/-- B of Table 11-8, in source bytes. -/
def Coll.inBytes (c : Coll) : Nat := c.count * fmtBytes c.inFmt

/-- B of Table 11-8, in destination bytes. -/
def Coll.outBytes (c : Coll) : Nat := c.count * fmtBytes c.outFmt

/-- Whether an operation runs recursive doubling (Table 11-8). -/
def Coll.doubling (c : Coll) : Bool := c.kind = 0 || (c.kind = 4 && c.inBytes ≤ 4096)

/-- Whether its chunks are contributions to merge windows. -/
def Coll.reduces (c : Coll) : Bool := c.kind = 3 || (c.kind = 4 && !c.doubling) || c.kind = 9

/-- Elements of a merge window (R392). -/
abbrev mergeElems : Nat := 4096

/-- One transfer from a member to a member. -/
structure Xfer where
  /-- CHUNK -/
  chunk : Nat
  /-- OFFSET in the destination -/
  off : Nat
  /-- elements, for a contribution; else bytes -/
  n : Nat
  /-- source byte offset -/
  src : Nat
deriving DecidableEq, Repr

/-- The greatest power of two at most `n`. -/
def pow2Below (n : Nat) : Nat := 2 ^ n.log2

/-- The rounds in which rank `r` sends to rank `d` in recursive doubling (R391): 0 folds, 1 + k exchanges across bit k,
1 + log2 unfolds. -/
def dblSends (n r d : Nat) : List Nat :=
  let p := pow2Below n
  if p ≤ r then (if d + p = r then [0] else [])
  else if p ≤ d then (if r + p = d then [1 + p.log2] else [])
  else ((List.range p.log2).filter fun k => r ^^^ 2 ^ k = d).map (1 + ·)

/-- The elements of the range of rank `k` when `count` elements are divided in `n` equal ranges. -/
def rangeElems (count n k : Nat) : Nat × Nat :=
  let q := (count + n - 1) / n
  (min count (k * q), min count ((k + 1) * q) - min count (k * q))

/-- The part of a broadcast that a member other than the root gathers to the others: `n - 1` ranges of whole lines. -/
def scatterRange (b n root k : Nat) : Nat × Nat :=
  let q := roundUp ((b + n - 2) / (n - 1)) 256
  let j := if k < root then k else k - 1
  (min b (j * q), min b ((j + 1) * q) - min b (j * q))

/-- The windows of a range of elements as contributions, with the source offset of each. -/
def windowsOf (e0 n outEb srcOff inEb : Nat) : List Xfer :=
  ((cuts 0 n mergeElems).zip (List.range n)).map fun w =>
    { chunk := w.2, off := (e0 + w.1.1) * outEb, n := w.1.2, src := srcOff + w.1.1 * inEb }

/-- Plain chunks of a range. -/
def chunksOf (first off len src unit : Nat) : List Xfer :=
  ((cuts 0 len unit).zip (List.range (len + 1))).map fun w =>
    { chunk := first + w.2, off := off + w.1.1, n := w.1.2, src := src + w.1.1 }

/-- What rank `r` sends to rank `d`, the own rank included, for the operations whose transfers the descriptor fixes. -/
def Coll.fixed (c : Coll) (n unit r d : Nat) : List Xfer :=
  let ib := fmtBytes c.inFmt
  let ob := fmtBytes c.outFmt
  let b := c.inBytes
  if c.doubling then
    (if r = d then [] else (dblSends n r d).map fun k => { chunk := k, off := 0, n := c.count, src := 0 })
  else match c.kind with
    | 1 =>
      if r = c.root && (d = r || b ≤ 65536) then chunksOf 0 0 b 0 unit
      else if b ≤ 65536 || d = c.root then []
      else if r = c.root then
        let x := scatterRange b n c.root d
        chunksOf 0 x.1 x.2 x.1 unit
      else if r = d then []
      else
        let x := scatterRange b n c.root r
        chunksOf 0 x.1 x.2 x.1 unit
    | 2 => chunksOf 0 (r * b) b 0 unit
    | 3 => windowsOf 0 c.count ob (d * b) ib
    | 4 =>
      let x := rangeElems c.count n d
      let ws := windowsOf x.1 x.2 ob (x.1 * ib) ib
      let y := rangeElems c.count n r
      ws ++ (if r = d then [] else chunksOf ws.length (y.1 * ob) (y.2 * ob) (y.1 * ob) unit)
    | 5 => chunksOf 0 (r * b) b (d * b) unit
    | 9 => windowsOf 0 (c.count / n) 1 (d * (c.count / n)) 1
    | 10 => if r = d then [] else [{ chunk := 0, off := 0, n := 72, src := 0 }]
    | _ => []

/-! ### Dispatch (R399, R400) -/

/-- The owner rank of an expert. -/
def Coll.owner (c : Coll) (n e : Nat) : Nat := if c.expertMap.isEmpty then e % n else (c.expertMap[e]?).getD 0

/-- The keys of an array. -/
def keysOf (bs : List Byte) : List (List Byte) := (List.range (bs.length / 16)).map fun i => slice bs (16 * i) 16

/-- The keys that this member sends to a rank, with their items. -/
def Coll.keysTo (c : Coll) (n d : Nat) : List (List Byte) := (keysOf c.ownKeys).filter fun k => c.owner n (fld k 0 2 % 32768) = d

/-- The order of keys: slot rank, SEQ_ID, position. -/
def keyOrder (k : List Byte) : Nat := fld k 2 1 * 2 ^ 64 + fld k 4 4 * 2 ^ 32 + fld k 8 4

/-- The local experts of a rank, in increasing number. -/
def Coll.experts_ (c : Coll) (n me : Nat) : List Nat := (List.range c.experts).filter fun e => c.owner n e = me

/-- Every item that seeks an expert of this member: source rank, index among its keys, key; in the order of keys. -/
def Coll.seekers (c : Coll) (e : Nat) : List (Nat × Nat × List Byte) :=
  let all := c.keys.flatMap fun x => ((keysOf x.2).zip (List.range x.2.length)).map fun k => (x.1, k.2, k.1)
  sortOn (fun k => keyOrder k.2.2) (all.filter fun k => fld k.2.2 0 2 % 32768 = e)

/-- The items kept at this member: source rank, index among its keys, slot offset, key (R399). -/
def Coll.keptItems (c : Coll) (n me : Nat) : List (Nat × Nat × Nat × List Byte) :=
  ((c.experts_ n me).zip (List.range c.experts)).flatMap fun e =>
    (((c.seekers e.1).take c.capacity).zip (List.range c.capacity)).map fun k =>
      (k.1.1, k.1.2.1, (e.2 * c.capacity + k.2) * c.itemBytes, k.1.2.2)

/-- The accept bitmap for a source (R399). -/
def Coll.acceptFor (c : Coll) (n me r : Nat) : List Bool :=
  let kept := c.keptItems n me
  (List.range (((c.keys.find? fun x => x.1 = r).map fun x => x.2.length / 16).getD 0)).map fun i =>
    kept.any fun k => k.1 = r && k.2.1 = i

/-- The DISPATCH that a COMBINE reverses (R401). -/
def TGroup.dispatchOf (g : TGroup) (seq round : Nat) : Option Dispatched :=
  g.dispatched.find? fun d => d.seq = seq && d.round = round

/-! ### What goes out and what comes in -/

/-- The base of a layout slot's region. -/
def State.slotBase (s : State) (h k : Nat) : Nat :=
  match tget s.rein.layouts h with
  | some l => (l.slot k).region.toNat
  | none => 0

/-- The blocks that a permute moves between two members. -/
def State.permMoves (s : State) (p : PermInfo) (from_ to_ : BitVec 16) : List Move :=
  match tget s.rein.layouts p.src, tget s.rein.layouts p.dst with
  | some a, some b => movesOf a b p.first p.last from_ to_
  | _, _ => []

/-- The copy format of a permute. -/
def State.permFmt (s : State) (p : PermInfo) : Nat := ((tget s.rein.layouts p.dst).map (·.format)).getD 6

/-- The runs of each chunk of a permute between two members (R352). -/
def State.permChunks (s : State) (p : PermInfo) (from_ to_ : BitVec 16) : List (List Seg) :=
  packSegs (s.permFmt p) (segsOf (s.permFmt p) (s.permMoves p from_ to_))

/-- A permute's chunks between two members: each at the destination offset of its first run. -/
def State.permXfers (s : State) (p : PermInfo) (from_ to_ : BitVec 16) : List Xfer :=
  let cs := s.permChunks p from_ to_
  (cs.zip (List.range cs.length)).map fun w =>
    { chunk := w.2, off := ((w.1[0]?).map Seg.to_).getD 0, n := sumNat (w.1.map fun g => g.len (s.permFmt p)), src := 0 }

/-- What this member sends to rank `d`. -/
def State.outX (s : State) (c : Coll) (g : TGroup) (d : Nat) : List Xfer :=
  let n := g.members.length
  match c.kind with
  | 6 =>
    match c.accepts.find? fun a => a.1 = d with
    | none => []
    | some a => (((c.keysTo n d).zip (List.range c.count)).filter fun k => (a.2[k.2]?).getD false).map fun k =>
        { chunk := k.2, off := k.2 * c.itemBytes, n := c.itemBytes, src := fld k.1 12 4 * c.itemBytes }
  | 7 =>
    match g.dispatchOf c.aux c.round with
    | none => []
    | some q => (q.kept.filter fun k => k.1 = d).map fun k =>
        { chunk := k.2.1, off := k.2.1 * c.itemBytes, n := c.itemBytes, src := k.2.2 }
  | 8 =>
    match c.perm, g.members[d]? with
    | some p, some m => s.permXfers p s.part.partId m
    | _, _ => []
  | _ => c.fixed n g.chunk g.rank d

/-- What this member receives from rank `k`. -/
def State.inX (s : State) (c : Coll) (g : TGroup) (k : Nat) : List Xfer :=
  let n := g.members.length
  match c.kind with
  | 6 =>
    if c.keys.length < n then []
    else ((c.keptItems n g.rank).filter fun x => x.1 = k).map fun x =>
      { chunk := x.2.1, off := x.2.1 * c.itemBytes, n := c.itemBytes, src := 0 }
  | 7 =>
    match g.dispatchOf c.aux c.round with
    | none => []
    | some q => (q.went.filter fun x => x.1 = k).map fun x =>
        { chunk := x.2.1, off := x.2.1 * c.itemBytes, n := c.itemBytes, src := 0 }
  | 8 =>
    match c.perm, g.members[k]? with
    | some p, some m => s.permXfers p m s.part.partId
    | _, _ => []
  | _ => c.fixed n g.chunk k g.rank

/-- The other ranks in rotation, starting with the rank after one. -/
def ranksAfter (n r : Nat) : List Nat := (List.range n).map (fun i => (r + 1 + i) % n) |>.filter (· != r)

/-- The windows of this member's own range: destination offset and elements of each. -/
def State.ownWindows (_ : State) (c : Coll) (g : TGroup) : List (Nat × Nat) :=
  if !c.reduces then []
  else (((c.fixed g.members.length g.chunk g.rank g.rank)).map fun x => (x.off, x.n))

/-! ### The data of a chunk -/

/-- Bytes that a range of an operation's source gives: from memory, or from the tiles of its stream (R395). -/
def State.srcBytes (s : State) (c : Coll) (off n : Nat) : List Byte × List Nat :=
  if c.srcStream then
    match tget s.streams c.src with
    | none => ([], [])
    | some st =>
      let m := min n (st.limit * tileBytes - off)
      let at_ := fun (i : Nat) => st.slotAddr ((off + i) / tileBytes) + (off + i) % tileBytes
      ((List.range m).map fun i => s.byte (at_ i),
       (List.range ((m + 255) / 256)).filter fun l => (List.range (min 256 (m - 256 * l))).any fun i =>
         s.poisoned (at_ (256 * l + i)) 1)
  else
    s.readLines (c.src + off) n

/-- Destination bytes that a member has and hands on: from memory, or as they landed for a stream. -/
def State.dstBytes (s : State) (c : Coll) (off n : Nat) : List Byte × List Nat :=
  if c.dstStream then
    let at_ := fun (i : Nat) => match c.land.find? fun x => x.off ≤ i && i < x.off + x.data.length with
      | some x => ((x.data[i - x.off]?).getD 0#8, x.poison.contains ((i - x.off) / 256))
      | none => (0#8, false)
    ((List.range n).map fun i => (at_ (off + i)).1,
     (List.range ((n + 255) / 256)).filter fun l => (List.range (min 256 (n - 256 * l))).any fun i => (at_ (off + 256 * l + i)).2)
  else
    s.readLines (c.dst + off) n

/-- Whether the source bytes of a range are there (R395). -/
def State.srcReady (s : State) (c : Coll) (off n : Nat) : Bool :=
  !c.srcStream || n = 0 ||
  match tget s.streams c.src with
  | none => true
  | some st => off + n ≤ st.committed * tileBytes || (st.state != .opened && st.limit ≤ st.committed)

/-- The accumulator of one element of a format; a WIDE entry takes its record from `wide_`. -/
def elemAcc (f : Nat) (bs wide_ : List Byte) : Acc :=
  if f = 3 then (if ep16Wide bs then Acc.ofEp64 wide_ else Acc.ofEp16 bs)
  else Acc.reset.addTerm ((fmtCode f).decode (leNat bs))

/-- Accumulators of the elements of a contribution: the entries, then the records of its WIDE entries in order. -/
def accsOf (f n : Nat) (data : List Byte) : List Acc :=
  let eb := fmtBytes f
  let go := (List.range n).foldl (fun (acc : List Acc × Nat) i =>
    let e := slice data (i * eb) eb
    if f = 3 && ep16Wide e then (acc.1 ++ [elemAcc f e (slice data (n * eb + 64 * acc.2) 64)], acc.2 + 1)
    else (acc.1 ++ [elemAcc f e []], acc.2)) ([], 0)
  go.1

/-- The bytes of EP16 entries with the records of the WIDE ones after them. -/
def ep16Data (as : List Acc) : List Byte := (as.flatMap Acc.ep16) ++ (as.filter Acc.isWide).flatMap Acc.ep64

/-- MAX or MIN of two values of a format (R115). -/
def pickElem (f redop : Nat) (a b : Nat) : Nat :=
  let w := fun (x : Nat) => if f = 0 then BitVec.ofNat 32 x else BitVec.ofNat 32 (Fmt.fp32.round .rne false 0 ((fmtCode f).decode x))
  let r := if redop = 2 then fmax (w a) (w b) else fmin (w a) (w b)
  if f = 0 then r.toNat else (fmtCode f).round .rne false 0 (fv r)

/-- MAX or MIN over contributions, element by element. -/
def pickData (f redop n : Nat) (ds : List (List Byte)) : List Byte :=
  let eb := fmtBytes f
  (List.range n).flatMap fun i =>
    match ds.map fun d => leNat (slice d (i * eb) eb) with
    | [] => List.replicate eb 0#8
    | x :: xs => leBytes eb (xs.foldl (pickElem f redop) x)

/-- EP16 entries with the records of the WIDE ones after them, from the overflow area `aux` (R111); other formats as they
are. -/
def State.withWides (s : State) (f aux off n : Nat) (r : List Byte × List Nat) : List Byte × List Nat :=
  if f = 3 then
    let wides := (List.range (n / 16)).filter fun i => ep16Wide (slice r.1 (i * 16) 16)
    (r.1 ++ wides.flatMap fun i => s.bytes (aux + 64 * (off / 16 + i)) 64,
     r.2 ++ (if wides.any fun i => s.poisoned (aux + 64 * (off / 16 + i)) 64 then [0] else []))
  else r

/-- The elements of a source range as a contribution carries them: WIDE records of EP16 entries follow (R111). -/
def State.contribBytes (s : State) (c : Coll) (off n : Nat) : List Byte × List Nat :=
  let b := n * fmtBytes c.inFmt
  s.withWides c.inFmt c.aux off b (s.srcBytes c off b)

/-- The partial of recursive doubling before round `k` is sent: the own contribution and those received (R391, R392). -/
def State.partialData (s : State) (c : Coll) (k : Nat) : List Byte × List Nat :=
  let own := s.contribBytes c 0 c.count
  let ins := c.contrib.filter fun x => x.chunk < k
  let bad := !(own.2.isEmpty && ins.all fun x => x.poison.isEmpty)
  let data :=
    if c.kind = 0 then []
    else if c.redop = 1 then
      let all := accsOf c.inFmt c.count own.1 :: ins.map fun x => accsOf 3 c.count x.data
      ep16Data ((List.range c.count).map fun i => (all.map fun l => (l[i]?).getD Acc.reset).foldl Acc.merge Acc.reset)
    else pickData c.inFmt c.redop c.count (own.1 :: ins.map (·.data))
  (data, if bad then List.range ((data.length + 255) / 256) else [])

/-- The rounds of recursive doubling that a rank waits for before round `k`: from rank, round. -/
def dblNeeds (n me k : Nat) : List (Nat × Nat) :=
  (List.range n).flatMap fun r => if r = me then [] else ((dblSends n r me).filter (· < k)).map fun c => (r, c)

/-- Whether a chunk's data are there. -/
def State.dataReady (s : State) (c : Coll) (g : TGroup) (d : Nat) (x : Xfer) : Bool :=
  let n := g.members.length
  if c.doubling then (dblNeeds n g.rank x.chunk).all (fun q => c.seen.contains q) && s.srcReady c 0 c.inBytes
  else match c.kind with
    | 1 =>
      if g.rank = c.root then s.srcReady c x.src x.n
      else (c.fixed n g.chunk c.root g.rank).all fun y => c.seen.contains (c.root, y.chunk)
    | 4 =>
      let phase1 := (windowsOf 0 (rangeElems c.count n d).2 1 0 1).length
      if x.chunk < phase1 then s.srcReady c x.src (x.n * fmtBytes c.inFmt)
      else (s.ownWindows c g).all fun w => c.merged.contains w.1
    | 3 => s.srcReady c x.src (x.n * fmtBytes c.inFmt)
    | 8 => match c.perm with | some p => !p.waiting | none => false
    | 9 => ((s.learn.exchs.find? fun e => e.wid = c.wid).map fun e => e.begun).getD false
    | 10 => ((s.learn.exchs.find? fun e => e.wid = c.wid).map fun e => !e.record.isEmpty).getD false
    | _ => s.srcReady c x.src x.n

/-- The norm record of a member as its set stands: its accumulator, GSCALE and MAX_NORM (R308). -/
def State.normRecord (s : State) (e : Exch) : List Byte :=
  let acc := match tget s.learn.sets e.set with
    | some l => l.buckets.foldl (fun (a : Acc) (b : Nat × Bucket) => a.merge b.2.sq) Acc.reset
    | none => Acc.reset
  acc.ep64 ++ leBytes 4 e.gscale.toNat ++ leBytes 4 e.maxNorm.toNat

/-- The data of a chunk, with its poisoned lines; for a permute its poisoned runs. -/
def State.chunkData (s : State) (c : Coll) (g : TGroup) (d : Nat) (x : Xfer) : List Byte × List Nat :=
  if c.doubling then s.partialData c x.chunk
  else match c.kind with
    | 3 => s.contribBytes c x.src x.n
    | 4 =>
      if x.chunk < (windowsOf 0 (rangeElems c.count g.members.length d).2 1 0 1).length then s.contribBytes c x.src x.n
      else s.withWides c.outFmt c.dstAux x.src x.n (s.dstBytes c x.src x.n)
    | 1 => if g.rank = c.root then s.withWides c.inFmt c.aux x.src x.n (s.srcBytes c x.src x.n)
      else s.withWides c.inFmt c.dstAux x.src x.n (s.dstBytes c x.src x.n)
    | 8 =>
      match c.perm, g.members[d]? with
      | some p, some m =>
        let f := s.permFmt p
        let rs := (((s.permChunks p s.part.partId m)[x.chunk]?).getD []).map fun g => s.readSeg f (s.slotBase p.src p.srcSlot) g
        (rs.flatMap (·.1), (List.range rs.length).filter fun i => ((rs[i]?).map (·.2)).getD false)
      | _, _ => ([], [])
    | 9 =>
      match s.learn.exchs.find? fun e => e.wid = c.wid with
      | some e => ((e.stage.drop (x.src / 32 * 33)).take (x.n / 32 * 33),
          (e.bad.filter fun b => x.src / 32 ≤ b && b < (x.src + x.n) / 32).map fun b => b - x.src / 32)
      | none => ([], [])
    | 10 =>
      match s.learn.exchs.find? fun e => e.wid = c.wid with
      | some e => (e.record, [])
      | none => ([], [])
    | 6 => s.srcBytes c x.src x.n
    | 7 => s.srcBytes c x.src x.n
    | _ => s.withWides c.inFmt c.aux x.src x.n (s.srcBytes c x.src x.n)

/-! ### What arrives (R392, R393, R395) -/

/-- Lands destination bytes: in memory, or held for their stream tile. Poisoned lines are written poisoned and
counted. -/
def State.landBytes (s : State) (w : BitVec 64) (off : Nat) (bs : List Byte) (poison : List Nat) : State :=
  match s.collOf w with
  | none => s
  | some c =>
    if c.dstStream then
      s.modColl w fun c => { c with land := c.land ++ [{ rank := 0, chunk := 0, off := off, data := bs, poison := poison }] }
    else
      let s := s.storeLines (c.dst + off) bs poison
      s.modColl w fun c => { c with poisonLines := poison.foldl (fun l i => insNat ((c.dst + off + 256 * i) / 256) l) c.poisonLines }

/-- Lands entries with the WIDE records that follow them: those go to the overflow area of the destination (R111). -/
def State.landEntries (s : State) (w : BitVec 64) (f off n : Nat) (bs : List Byte) (poison : List Nat) : State :=
  let s1 := s.landBytes w off (bs.take n) poison
  match s1.collOf w with
  | none => s1
  | some c =>
    if f != 3 then s1
    else
      let wides := (List.range (n / 16)).filter fun i => ep16Wide (slice bs (i * 16) 16)
      (wides.zip (List.range wides.length)).foldl (fun s i =>
        s.store (c.dstAux + 64 * (off / 16 + i.1)) (slice bs (n + 64 * i.2) 64)) s1

/-- The result bytes of a merged window of a reduction (R392). -/
def Coll.resultBytes (c : Coll) (first n : Nat) (ds : List (List Byte)) : List Byte × List (Nat × Acc) :=
  if c.redop = 1 then
    let all := ds.map fun d => accsOf c.inFmt n d
    let as := (List.range n).map fun i => (all.map fun l => (l[i]?).getD Acc.reset).foldl Acc.merge Acc.reset
    let mode := (RMode.of c.rmode).getD .rne
    if c.outFmt = 3 then
      (as.flatMap Acc.ep16, ((as.zip (List.range n)).filter fun a => a.1.isWide).map fun a => (first + a.2, a.1))
    else
      ((as.zip (List.range n)).flatMap fun a =>
        let u := if c.rmode = 4 then srInt c.srSeed c.streamId (first + a.2) else 0
        leBytes (fmtBytes c.outFmt) ((fmtCode c.outFmt).round mode c.sat u (a.1.resolve mode 0 (.zero false))), [])
  else (pickData c.inFmt c.redop n ds, [])

/-- The lines of a result that a poisoned contribution reaches, from the lines of the contributions. -/
def poisonOut (inEb outEb n : Nat) (lines : List Nat) : List Nat :=
  (List.range ((n * outEb + 255) / 256)).filter fun l =>
    (List.range n).any fun e => e * outEb / 256 ≤ l && l ≤ (e * outEb + outEb - 1) / 256 &&
      lines.any fun k => e * inEb / 256 ≤ k && k ≤ (e * inEb + inEb - 1) / 256

/-- Merges a window whose contributions are all in, rounds it once and writes it (R392, R393, R305). -/
def State.mergeWindow (s : State) (w : BitVec 64) (g : TGroup) (win : Nat × Nat) : State :=
  match s.collOf w with
  | none => s
  | some c =>
    let ins := c.contrib.filter fun x => x.off = win.1
    if ins.length < g.members.length || c.merged.contains win.1 then s
    else
      let s := s.modColl w fun c => { c with merged := insNat win.1 c.merged, contrib := c.contrib.filter fun x => x.off != win.1 }
      if c.kind = 9 then
        match s.learn.exchs.find? fun e => e.wid = w with
        | none => s
        | some e =>
          match (tget s.learn.sets e.set).bind fun l => l.groups[e.destGroup]? with
          | none => s
          | some pg => (List.range (win.2 / 32)).foldl (fun s b =>
              s.writeG8 e e.destGroup pg (e.destElem + win.1 + 32 * b) (reduceBlock (ins.map fun x => slice x.data (33 * b) 33))
                (ins.any fun x => x.poison.contains b)) s
      else
        let first := win.1 / fmtBytes c.outFmt + (if c.kind = 3 then g.rank * c.count else 0)
        let r := c.resultBytes first win.2 (ins.map (·.data))
        let bad := poisonOut (fmtBytes c.inFmt) (fmtBytes c.outFmt) win.2 (ins.flatMap (·.poison))
        let s := s.landBytes w win.1 r.1 bad
        r.2.foldl (fun s a => s.store (c.dstAux + 64 * (a.1 - (if c.kind = 3 then g.rank * c.count else 0))) a.2.ep64) s

/-- Takes a chunk from a rank, the own rank's included: where it goes is the operation's (R392, R399, R354). -/
def State.takeChunk (s : State) (w : BitVec 64) (g : TGroup) (k : Nat) (x : Xfer) (data : List Byte) (poison : List Nat) :
    State :=
  match s.collOf w with
  | none => s
  | some c =>
    let n := g.members.length
    let s := s.modColl w fun c => { c with
      seen := c.seen ++ [(k, x.chunk)], grantsOut := c.grantsOut.filter (fun q => q != (k, x.chunk)),
      inSlots := c.inSlots.filter (fun q => (q.1, q.2.1) != (k, x.chunk)),
      bytesIn := c.bytesIn + (if k = g.rank then 0 else data.length) }
    let hold := fun (s : State) => s.modColl w fun c => { c with
      contrib := c.contrib ++ [{ rank := k, chunk := x.chunk, off := x.off, data := data, poison := poison }] }
    if c.doubling || c.kind = 10 then hold s
    else if c.kind = 3 || c.kind = 9 then (hold s).mergeWindow w g (x.off, x.n)
    else if c.kind = 4 then
      if (s.ownWindows c g).any (fun v => v.1 = x.off) && x.chunk < (s.ownWindows c g).length then
        (hold s).mergeWindow w g (x.off, x.n)
      else s.landEntries w c.outFmt x.off x.n data poison
    else match c.kind with
      | 6 =>
        match (c.keptItems n g.rank).find? fun y => y.1 = k && y.2.1 = x.chunk with
        | some y => s.landBytes w y.2.2.1 data poison
        | none => s
      | 7 =>
        match (g.dispatchOf c.aux c.round).bind fun q => (q.went.find? fun y => y.1 = k && y.2.1 = x.chunk).map fun y => (q, y) with
        | some (q, y) =>
          let s := s.storeLines (q.src + y.2.2 * c.itemBytes) data poison
          let lines := poison.foldl (fun l i => insNat ((q.src + y.2.2 * c.itemBytes + 256 * i) / 256) l) c.poisonLines
          s.modColl w fun c => { c with poisonLines := lines }
        | none => s
      | 8 =>
        match c.perm, g.members[k]? with
        | some p, some m =>
          let f := s.permFmt p
          let least := match tget s.rein.layouts p.dst with
            | some l => l.leastOffset s.part.partId p.first p.last
            | none => 0
          let base := if p.destOver = 0 then s.slotBase p.dst p.dstSlot else p.destOver - least
          let gs := ((s.permChunks p m s.part.partId)[x.chunk]?).getD []
          let s := s.writeSegs f base gs data poison
          let blocks := (poison.filter fun i => ((gs[i]?).map fun g => !g.scale).getD false).length
          s.modColl w fun c => { c with perm := c.perm.map fun p => { p with poison := p.poison + blocks } }
        | _, _ => s
      | _ => s.landEntries w c.inFmt x.off x.n data poison

/-! ### Streams of an operation (R395) -/

/-- Bytes that an operation's destination takes on a member. -/
def Coll.destLen (c : Coll) (n : Nat) : Nat :=
  match c.kind with
  | 1 => c.inBytes
  | 2 => n * c.inBytes
  | 3 => c.outBytes
  | 4 => c.outBytes
  | 5 => n * c.inBytes
  | _ => 0

/-- Commits the destination tiles that are complete, in index order, while the ring has credit. A commit to a stream
that was freed is refused: the tile is discarded (R182). -/
def State.commitDest : Nat → BitVec 64 → Nat → State → State
  | 0, _, _, s => s
  | fuel + 1, w, total, s =>
    match s.collOf w with
    | none => s
    | some c =>
      let lo := c.tiles * tileBytes
      let len := min tileBytes (total - lo)
      let got := c.land.filter fun x => x.off < lo + len && lo < x.off + x.data.length
      let have_ := sumNat (got.map fun x => min (x.off + x.data.length) (lo + len) - max x.off lo)
      if total ≤ lo || have_ < len then s
      else match tget s.streams c.dst with
      | none => State.commitDest fuel w total (s.modColl w fun c => { c with tiles := c.tiles + 1 })
      | some st =>
        if !st.credit st.committed then s
        else
          let byteAt := fun (i : Nat) => match got.find? fun x => x.off ≤ i && i < x.off + x.data.length with
            | some x => ((x.data[i - x.off]?).getD 0#8, x.poison.contains ((i - x.off) / 256))
            | none => (0#8, false)
          let lines := (List.range 64).map fun l =>
            let bs := (List.range 256).map fun i => if 256 * l + i < len then byteAt (lo + 256 * l + i) else (0#8, false)
            (bs.any (·.2), bs.map (·.1))
          let bad := (lines.filter (·.1)).length
          let s := if st.refuses st.committed then s else s.commitSlot c.dst st.committed lines
          let s := s.modColl w fun c => { c with
            tiles := c.tiles + 1
            poisonLines := (List.range bad).foldl (fun l i => insNat (64 * (lo / tileBytes) + i) l) c.poisonLines }
          State.commitDest fuel w total s

/-- Releases the source tiles that no unsent chunk needs any more. -/
def State.releaseSource (s : State) (w : BitVec 64) (g : TGroup) : State :=
  match s.collOf w with
  | none => s
  | some c =>
    if !c.srcStream then s
    else
      let n := g.members.length
      let left := (List.range n).flatMap fun d => (s.outX c g d).filter fun x =>
        !(c.sent.contains (d, x.chunk) || (d = g.rank && c.seen.contains (d, x.chunk)))
      match tget s.streams c.src with
      | none => s
      | some st =>
        let first := (left.map fun x => x.src / tileBytes).foldl min st.limit
        s.modStream c.src fun st => st.setCon c.consumer { (st.con c.consumer).release with
          read := max (st.con c.consumer).read (min first st.committed) }

/-! ### The end of an operation (R397, R340, R354 to R356) -/

/-- Sends an abort of an operation to every other member (R397). -/
def State.sendAborts (s : State) (g : TGroup) (grp : BitVec 32) (seq : Nat) (st : BitVec 16) : State :=
  (g.members.filter fun m => m != s.part.partId).foldl (fun s m =>
    s.enqueue { s.newMsg m 3 grp seq with status := st, rank := g.rank }) s

/-- A permute's failure: its destination slot is EMPTY, and a remount that waits on it fails (R340, R356, R366). -/
def State.failPermute (s : State) (p : PermInfo) : State :=
  if p.destOver != 0 || p.waiting then s
  else
    let s := (s.modSlot p.dst p.dstSlot fun x => if x.state = .filling then { x with state := .empty, version := 0#32 } else x).writeSlot
      p.dst p.dstSlot
    match (tget s.rein.layouts p.dst).bind (·.model) with
    | none => s
    | some m =>
      s.waits.foldl (fun s x =>
        match x.kind with
        | .remountSlot k v _ =>
          if k = m && v = p.version then (s.modModel m fun y => { y with remount := none }).complete x.wid stReinState else s
        | _ => s) s

/-- Takes an operation off its streams and its group, and completes its command. -/
def State.endColl (s : State) (w : BitVec 64) (st : BitVec 16) (res det : Nat) : State :=
  match s.collOf w with
  | none => s
  | some c =>
    let good := st = stOk || st = stDataPoisoned
    let s := if st = stMasterReset then s.resetEnd fun e => e = .coll w else s
    let s := if c.srcStream then s.modStream c.src fun x => { x with consEnd := tdel x.consEnd c.consumer } else s
    let s := if c.dstStream then
        (if good then (s.modStream c.dst fun x => { x with producer := none }).closeStream c.dst
         else s.resetEnd fun e => e = .coll w)
      else s
    let s := s.modGroup c.group fun g => { g with completed := max g.completed c.seq }
    let s : State := { s with trace := { s.trace with colls := s.trace.colls.filter fun x => x.wid != w }
                              learn := { s.learn with exchs := s.learn.exchs.filter fun x => x.wid != w } }
    s.complete w st (BitVec.ofNat 64 res) (BitVec.ofNat 32 (min det (2 ^ 32 - 1)))

/-- Ends an operation that fails here, with the effects of its kind; a permute gives a lost member its own code. -/
def State.failColl (s : State) (c : Coll) (st : BitVec 16) (det : Nat) : State :=
  match c.perm with
  | some p => (s.failPermute p).endColl c.wid (if st = stMemberLost then stPermuteFailed else st) 0 det
  | none => s.endColl c.wid st 0 det

/-- Fails an operation on every member (R396, R397). -/
def State.abortColl (s : State) (c : Coll) (st : BitVec 16) (det : Nat := 0) : State :=
  match tget s.trace.groups c.group.toNat with
  | none => s.failColl c st det
  | some g => (s.sendAborts g c.group c.seq st).failColl c st det

/-- The report of a DISPATCH's dropped items (R400): their keys in order. -/
def Coll.dropped (c : Coll) (n : Nat) : List (List Byte) :=
  sortOn keyOrder ((List.range n).flatMap fun d =>
    let bits := ((c.accepts.find? fun a => a.1 = d).map (·.2)).getD []
    (((c.keysTo n d).zip (List.range c.count)).filter fun k => !(bits[k.2]?).getD false).map (·.1))

/-- A 16-byte report record (R400). -/
def dropRecord (round : Nat) (k : List Byte) : List Byte :=
  slice k 12 4 ++ leBytes 2 (fld k 0 2 % 32768) ++ leBytes 2 round ++ slice k 4 4 ++ leBytes 3 (fld k 8 4) ++ slice k 2 1

/-- The successful end of a DISPATCH: the report, and what its COMBINE needs (R400, R401). -/
def State.endDispatch (s : State) (c : Coll) (g : TGroup) : State :=
  let n := g.members.length
  let drops := c.dropped n
  let s := s.store c.report (drops.flatMap (dropRecord c.round))
  let mine := c.keptItems n g.rank
  let seeks := (c.experts_ n g.rank).map fun e => (c.seekers e).length
  let ownDrops := sumNat seeks - mine.length
  let d : Dispatched :=
    { seq := c.seq, src := c.src, dst := c.dst, itemBytes := c.itemBytes, round := c.round,
      kept := mine.map fun x => (x.1, x.2.1, x.2.2.1),
      went := (List.range n).flatMap fun o => ((s.outX c g o).map fun x => (o, x.chunk, x.src / c.itemBytes)) }
  let s := s.modGroup c.group fun g => { g with dispatched := g.dispatched ++ [d] }
  let bad := c.poisonLines.length
  if bad = 0 then s.endColl c.wid stOk (drops.length + ownDrops * 2 ^ 32) (seeks.foldl max 0)
  else s.endColl c.wid stDataPoisoned (drops.length + ownDrops * 2 ^ 32) bad

/-- Whether every other member is known to have dispatched a permute or an exchange with the same SHAPE; nothing of
either is written before (R304, R349). -/
def Coll.agreed (c : Coll) (n me : Nat) : Bool :=
  (c.kind != 8 && c.kind != 9) || (List.range n).all fun r => r = me || c.joined.contains r

/-- Whether every chunk of an operation has been sent and acknowledged, and every chunk received (R307, R354, R392). -/
def State.collMoved (s : State) (c : Coll) (g : TGroup) : Bool :=
  let n := g.members.length
  c.agreed n g.rank && (ranksAfter n g.rank).all (fun r => (s.outX c g r).all (fun x => c.done.contains (r, x.chunk)) &&
    (s.inX c g r).all fun x => c.seen.contains (r, x.chunk)) &&
  (s.outX c g g.rank).all (fun x => c.seen.contains (g.rank, x.chunk)) &&
  (s.ownWindows c g).all fun v => c.merged.contains v.1

/-- Completes an operation of Table 11-8 that has ended on this member. -/
def State.tryEndColl (s : State) (w : BitVec 64) : State :=
  match s.collOf w with
  | none => s
  | some c =>
    match tget s.trace.groups c.group.toNat with
    | none => s
    | some g =>
      let n := g.members.length
      if 8 ≤ c.kind || !s.collMoved c g then s
      else if c.kind = 6 then
        if c.replied && (List.range n).all (fun r => c.accepts.any fun a => a.1 = r) then s.endDispatch c g else s
      else
        let s := if c.kind = 4 && c.doubling && c.merged.isEmpty then
            let unfold_ := c.contrib.find? fun x => pow2Below n ≤ g.rank && x.chunk = 1 + (pow2Below n).log2
            let d := match unfold_ with
              | some x => (x.data, x.poison)
              | none => s.partialData c (2 + (pow2Below n).log2)
            let r := if c.redop = 1 then Coll.resultBytes { c with inFmt := 3 } 0 c.count [d.1] else (d.1, [])
            let s := s.landBytes w 0 r.1 (if d.2.isEmpty then [] else List.range ((r.1.length + 255) / 256))
            (r.2.foldl (fun s a => s.store (c.dstAux + 64 * a.1) a.2.ep64) s).modColl w fun c => { c with merged := [0] }
          else s
        let s := if c.dstStream then State.commitDest (c.destLen n / tileBytes + 1) w (c.destLen n) s else s
        match s.collOf w with
        | none => s
        | some c' =>
          if c.dstStream && c'.tiles * tileBytes < c.destLen n then s
          else
            let bad := c'.poisonLines.length
            s.endColl w (if bad = 0 then stOk else stDataPoisoned) c'.bytesIn bad

/-! ### Moving on -/

/-- The own transfers whose data are there. -/
def State.localMoves (s : State) (w : BitVec 64) (g : TGroup) : State :=
  match s.collOf w with
  | none => s
  | some c => ((s.outX c g g.rank).filter fun x => !c.seen.contains (g.rank, x.chunk)).foldl (fun s x =>
      match s.collOf w with
      | none => s
      | some c =>
        if !s.dataReady c g g.rank x then s
        else
          let d := s.chunkData c g g.rank x
          s.takeChunk w g g.rank x d.1 d.2) s

/-- The Basin area from which a chunk leaves for the ports, and its length: of a permute the next MiB of its staging, else
the transit area (R36, R352). -/
def Coll.outArea (c : Coll) (s : State) (x : Xfer) : Nat × Nat :=
  match c.perm with
  | some p =>
    let (a, len) := if p.staging = 0 then (areaPermute, 0x4000000)
      else (p.staging, match s.allocAt p.staging with | some e => e.1 + e.2.len - p.staging | none => 0x1000000)
    let k := len / 0x100000
    (a + 0x100000 * (x.chunk % max 1 k), 0x100000)
  | none => (areaTransit, 0x100000)

/-- Hands granted chunks whose data are there to the ports, in rotation (R391, R394). -/
def State.sendChunks (s : State) (w : BitVec 64) (g : TGroup) : State :=
  match s.collOf w with
  | none => s
  | some c => (ranksAfter g.members.length g.rank).foldl (fun s d =>
      ((s.outX c g d).filter fun x => c.grantsIn.contains (d, x.chunk) && !c.sent.contains (d, x.chunk)).foldl (fun s x =>
        match s.collOf w, g.members[d]? with
        | some c, some dest =>
          if !s.dataReady c g d x then s
          else
            let r0 := s.chunkData c g d x
            let out := c.outArea s x
            let (s, data, bad) := s.landIn out.1 out.2 r0.1 r0.2
            let r := (data, bad)
            let m := { s.newMsg dest 0 c.group c.seq with
              round := c.round, off := x.off, len := r.1.length, chunk := x.chunk, rank := g.rank, shape := c.shape,
              data := r.1, poison := r.2 }
            (s.enqueue m 0#64 c.paddock).modColl w fun c => { c with
              sent := c.sent ++ [(d, x.chunk)], grantsIn := c.grantsIn.filter fun q => q != (d, x.chunk) }
        | _, _ => s) s) s

/-- Once every member's keys are in, returns the accept bitmaps and clears the expert areas (R399). -/
def State.replyKeys (s : State) (w : BitVec 64) (g : TGroup) : State :=
  match s.collOf w with
  | none => s
  | some c =>
    let n := g.members.length
    if c.kind != 6 || c.replied || c.keys.length < n then s
    else
      let kept := c.keptItems n g.rank
      let slots := (c.experts_ n g.rank).length * c.capacity
      let s := s.store c.dst (List.replicate (slots * c.itemBytes) 0#8)
      let s := s.store c.dstAux (List.replicate (16 * slots) 0#8)
      let s := kept.foldl (fun s k => s.store (c.dstAux + 16 * (k.2.2.1 / (max c.itemBytes 1))) k.2.2.2) s
      let s := (ranksAfter n g.rank).foldl (fun s r =>
        match g.members[r]? with
        | none => s
        | some m =>
          let bits := c.acceptFor n g.rank r
          let bytes := leBytes ((bits.length + 7) / 8)
            (sumNat ((bits.zip (List.range bits.length)).map fun b => if b.1 then 2 ^ b.2 else 0))
          s.enqueue { s.newMsg m 6 c.group c.seq with round := c.round, rank := g.rank, shape := c.shape, data := bytes,
                                                      len := bytes.length }) s
      s.modColl w fun x => { x with replied := true, accepts := x.accepts ++ [(g.rank, c.acceptFor n g.rank g.rank)] }

/-- A permute that begins to write: its destination slot is FILLING (R340, R354). -/
def State.beginPermute (s : State) (p : PermInfo) : State :=
  match tget s.rein.layouts p.dst with
  | none => s
  | some l =>
    if p.destOver != 0 then s.clearPieces l (p.destOver - l.leastOffset s.part.partId p.first p.last) p.first p.last
    else
      let s := (s.modSlot p.dst p.dstSlot fun x => { x with state := .filling, version := p.version }).writeSlot p.dst p.dstSlot
      s.clearPieces l (l.slot p.dstSlot).region.toNat p.first p.last

/-- Why a permute cannot take its set's copy now: it waits while the set is SWEEPING, and fails when the set is
INTERRUPTED or holds spans that its last sweep skipped and that still read a poisoned line (R327, R357). -/
def State.setHolds (s : State) (set : Nat) : Option Bool :=
  match tget s.learn.sets set with
  | none => none
  | some l => if l.state = .sweeping then some true else if l.state = .interrupted || (l.skipList.any fun x => match l.groups[x.1]? with
    | some g => s.spanPoisoned g x.2
    | none => false) then some false else none

/-- Whether two regions of this part share a byte (R350). -/
def regionsMeet (a la b lb : Nat) : Bool := a < b + lb && b < a + la

/-- Why a permute ends before it moves anything: a status that every member completes with (R349, R350, R357). -/
def State.permFault (s : State) (g : TGroup) (ls ld : Layout) (p : PermInfo) : Option (BitVec 16) :=
  let me := s.part.partId
  let a := ls.slot p.srcSlot
  let b := ld.slot p.dstSlot
  let union := g.members.all (fun m => ls.parts.contains m || ld.parts.contains m) &&
    (ls.parts ++ ld.parts).all (fun m => g.members.contains m) && ls.format = ld.format && ls.tensors = ld.tensors
  let to_ := if p.destOver = 0 then (b.region.toNat, ld.extent me) else (p.destOver, ld.span me p.first p.last)
  if !union then some stBadLayout
  else if p.destOver = 0 && (b.state = .filling || b.state = .active) then some stReinState
  else if ls.kind != 1 && !((a.state = .held || a.state = .active) && a.version = p.version) then some stReinState
  else if a.region = 0#64 || (p.destOver = 0 && b.region = 0#64) then some stReinState
  else if regionsMeet a.region.toNat (ls.extent me) to_.1 to_.2 then some stBadLayout
  else if s.setHolds p.set = some false then some stReinState
  else none

/-- A permute begins once every member has joined it with the same values and its set is not SWEEPING, or it fails
(R340, R349, R357): its slots may have changed while it waited. -/
def State.wakePermute (s : State) (w : BitVec 64) : State :=
  match s.collOf w with
  | none => s
  | some c =>
    match c.perm, tget s.trace.groups c.group.toNat with
    | some p, some g =>
      if !p.waiting || !c.agreed g.members.length g.rank || s.setHolds p.set = some true then s
      else match tget s.rein.layouts p.src, tget s.rein.layouts p.dst with
        | some ls, some ld =>
          match s.permFault g ls ld p with
          | some st => s.abortColl c st
          | none => (s.modColl w fun c => { c with perm := some { p with waiting := false } }).beginPermute p
        | _, _ => s
    | _, _ => s

/-- An exchange whose members have joined writes ROUT, and a norm whose earlier exchanges have ended fixes its record
(R304, R308, R309). -/
def State.beginExch (s : State) (w : BitVec 64) : State :=
  match s.collOf w, s.learn.exchs.find? fun e => e.wid = w with
  | some c, some e =>
    match tget s.trace.groups c.group.toNat with
    | none => s
    | some g =>
      if e.norm then
        if !e.record.isEmpty || e.after.any (fun v => s.learn.exchs.any fun x => x.wid = v) then s
        else s.modExch w fun x => { x with record := s.normRecord e }
      else if e.begun || !c.agreed g.members.length g.rank then s
      else (s.writeRout e).modExch w fun x => { x with begun := true }
  | _, _ => s

/-- Moves an operation on as far as its data, grants and streams allow. -/
def State.pumpColl (s0 : State) (w : BitVec 64) : State :=
  let s := (s0.wakePermute w).beginExch w
  match s.collOf w with
  | none => s
  | some c =>
    match tget s.trace.groups c.group.toNat with
    | none => s
    | some g =>
      let s := ((((s.replyKeys w g).localMoves w g).sendChunks w g).releaseSource w g)
      let s := if c.dstStream && !c.doubling then
          State.commitDest (c.destLen g.members.length / tileBytes + 1) w (c.destLen g.members.length) s
        else s
      s.tryEndColl w

/-- Moves every operation on, then the messages, and notes the routes that are lacking. -/
def State.pumpAll (s : State) : State :=
  if s.part.mastersStopped ||
    s.trace.colls.isEmpty && s.trace.queue.isEmpty && s.trace.sent.isEmpty && s.trace.groups.isEmpty && s.trace.sends.isEmpty &&
    s.moors.isEmpty
  then s
  else ((s.trace.colls.map (·.wid)).foldl (fun s w => s.pumpColl w) s).pumpTrace.noteRoutes

/-! ### Grants (R394) -/

/-- Staging slots of a group in use. -/
def State.slotsInUse (s : State) (g : BitVec 32) : Nat :=
  sumNat ((s.trace.colls.filter fun c => c.group = g).map fun c => c.grantsOut.length)

/-- Bytes of a staging slot of an operation: CHUNK, or a merge-window slice (R394). -/
def TGroup.slotBytes (g : TGroup) (c : Coll) : Nat :=
  if c.reduces then mergeElems * (if c.kind = 9 then 1 else fmtBytes c.inFmt) else g.chunk

/-- Staging slots of a group for an operation. -/
def TGroup.slots (g : TGroup) (c : Coll) : Nat := g.stagingLen / g.slotBytes c

/-- The offset of the lowest slot of an operation in STAGING that no slot in use overlaps (R394). -/
def State.slotFor (s : State) (c : Coll) (g : TGroup) : Option Nat :=
  let b := g.slotBytes c
  let used := (s.trace.colls.filter fun x => x.group = c.group).flatMap fun x => x.inSlots.map fun q => q.2.2
  ((List.range (g.slots c)).map fun i => i * b).find? fun o => used.all fun u => u.1 + u.2 ≤ o || o + b ≤ u.1

/-- Where a granted chunk lands: address and length of its slot (R394). -/
def Coll.slotOf (c : Coll) (g : TGroup) (k chunk : Nat) : Nat × Nat :=
  match c.inSlots.find? fun q => q.1 = k && q.2.1 = chunk with
  | some q => (g.staging + q.2.2.1, q.2.2.2)
  | none => (g.staging, 0)

/-- The destination offsets of the windows that may be open now (R392). -/
def State.openWindows (s : State) (c : Coll) (g : TGroup) : List Nat :=
  (((s.ownWindows c g).map (·.1)).filter fun o => !c.merged.contains o).take g.merge

/-- The chunks of a rank that await a grant. -/
def State.pendingFrom (s : State) (c : Coll) (g : TGroup) (k : Nat) : List Xfer :=
  let n1 := (s.ownWindows c g).length
  (s.inX c g k).filter fun x => !c.seen.contains (k, x.chunk) && !c.grantsOut.contains (k, x.chunk) &&
    (!c.reduces || (c.kind = 4 && n1 ≤ x.chunk) || (s.openWindows c g).contains x.off)

/-- Sends a grant for a chunk of a rank; the first one to a rank carries the MEMBERS digest (R394, R396). -/
def State.sendGrant (s : State) (c : Coll) (g : TGroup) (k : Nat) (x : Xfer) : State :=
  match g.members[k]? with
  | none => s
  | some dest =>
    let m := { s.newMsg dest 1 c.group c.seq with
      off := x.off, len := x.n, chunk := x.chunk, rank := g.rank, shape := c.shape, round := c.round,
      members := if g.greeted.contains k then none else some (membersDigest c.group g.members) }
    let o := (s.slotFor c g).getD 0
    let s := (s.enqueue m).modColl c.wid fun c => { c with
      grantsOut := c.grantsOut ++ [(k, x.chunk)], last := k,
      inSlots := c.inSlots ++ [(k, x.chunk, o, g.slotBytes c)] }
    s.modGroup c.group fun g => { g with greeted := insNat k g.greeted }

/-- CHUNK of a joining grant, which lets no chunk move. -/
abbrev joinChunk : Nat := 2 ^ 32 - 1

/-- Tells a member that this one has dispatched an operation, with its SHAPE: a grant of no bytes. DESIGN CHOICE (log
entry 164): R304 and R349 have nothing written where members differ, and give no message that they learn it by. -/
def State.sendJoin (s : State) (c : Coll) (g : TGroup) (k : Nat) : State :=
  match g.members[k]? with
  | none => s
  | some dest =>
    let m := { s.newMsg dest 1 c.group c.seq with
      chunk := joinChunk, rank := g.rank, shape := c.shape, round := c.round
      members := if g.greeted.contains k then none else some (membersDigest c.group g.members) }
    (s.enqueue m).modGroup c.group fun g => { g with greeted := insNat k g.greeted }

/-- Tells every other member of a permute or an exchange that this one has dispatched it. -/
def State.greet (s : State) (w : BitVec 64) : State :=
  match s.collOf w with
  | none => s
  | some c =>
    match tget s.trace.groups c.group.toNat with
    | none => s
    | some g => (ranksAfter g.members.length g.rank).foldl (fun s k => s.sendJoin c g k) s

/-- Issues the next grant of an operation, where a staging slot is free (R394). -/
def State.issueGrant (s : State) (c : Coll) (g : TGroup) : State :=
  let waiting := (match c.perm with | some p => p.waiting | none => false) || !c.agreed g.members.length g.rank
  if waiting || (s.slotFor c g).isNone then s
  else
    let n := g.members.length
    let order := ((List.range n).map fun i => (c.last + 1 + i) % n).filter (· != g.rank)
    match order.find? fun k => !(s.pendingFrom c g k).isEmpty with
    | none => s
    | some k =>
      match s.pendingFrom c g k with
      | [] => s
      | x :: _ => s.sendGrant c g k x

/-- A grant arrives: the operation's chunk may go (R394, R396). -/
def State.takeGrant (s : State) (p : Nat) (m : Msg) : State :=
  match tget s.trace.groups m.group.toNat with
  | none => s.ctl p (.refuse m.mtag rfGroup)
  | some g =>
    match s.coll m.group m.seq with
    | none =>
      if m.seq ≤ g.issued || g.aborted.any (fun a => a.1 = m.seq) then s.portViolation p 9
      else { s with trace := { s.trace with early := s.trace.early ++ [m] } }
    | some c =>
      if m.members.isSome && m.members != some (membersDigest m.group g.members) then s.abortColl c stBadGroup
      else if m.shape != c.shape then s.abortColl c stBadParam
      else if m.chunk = joinChunk then
        (if g.members[m.rank]? != some m.src then s.portViolation p 9
         else s.modColl c.wid fun c => { c with joined := insNat m.rank c.joined })
      else if c.sent.contains (m.rank, m.chunk) || c.grantsIn.contains (m.rank, m.chunk) then s
      else if (c.kind != 6 && !(s.outX c g m.rank).any fun x => x.chunk = m.chunk) || g.members[m.rank]? != some m.src then
        s.portViolation p 9
      else s.modColl c.wid fun c => { c with grantsIn := c.grantsIn ++ [(m.rank, m.chunk)] }

/-- Dispatch keys arrive at an owner (R399). -/
def State.takeKeys (s : State) (p : Nat) (m : Msg) : State :=
  match tget s.trace.groups m.group.toNat with
  | none => s.portViolation p 9
  | some g =>
    match s.coll m.group m.seq with
    | none =>
      if m.seq ≤ g.issued then s.portViolation p 9 else { s with trace := { s.trace with early := s.trace.early ++ [m] } }
    | some c =>
      if m.shape != c.shape then s.abortColl c stBadParam
      else if c.kind != 6 || c.keys.any (fun x => x.1 = m.rank) then s
      else s.modColl c.wid fun c => { c with keys := c.keys ++ [(m.rank, m.data)] }

/-- Takes the messages that were held for an operation, now that it is dispatched (R394). -/
def State.takeEarly (s : State) (c : Coll) : State :=
  let mine := s.trace.early.filter fun m => m.group = c.group && m.seq = c.seq
  let s : State := { s with trace := { s.trace with early := s.trace.early.filter fun m => !(m.group = c.group && m.seq = c.seq) } }
  mine.foldl (fun s m => if m.kind = 5 then s.takeKeys 0 m else s.takeGrant 0 m) s

/-! ### Dispatch of an operation (R396, R397) -/

/-- An operation with nothing done yet. -/
def newColl (w : BitVec 64) (pad : Nat) (grp : BitVec 32) (kind now : Nat) (rank : Nat) : Coll :=
  { wid := w, paddock := pad, group := grp, seq := 0, shape := 0#64, kind := kind, redop := 0, inFmt := 4, outFmt := 4,
    count := 0, src := 0, dst := 0, root := 0, rmode := 0, sat := false, srcStream := false, dstStream := false,
    consumer := 0, capacity := 0, aux := 0, itemBytes := 0, round := 0, report := 0, streamId := 0#32, srSeed := 0#64,
    dstAux := 0, expertMap := [], experts := 0, started := now, deadline := now, last := rank, grantsOut := [],
    inSlots := [], grantsIn := [], sent := [], done := [], joined := [], seen := [], contrib := [], merged := [], land := [], tiles := 0, bytesIn := 0,
    poisonLines := [], ownKeys := [], keys := [], accepts := [], replied := false, reissue := [], perm := none }

/-- A group of a paddock. -/
def State.groupOf (s : State) (pad : Nat) (g : Nat) : Except Err TGroup :=
  match tget s.trace.groups g with
  | some x => if x.paddock = some pad then .ok x else fail stBadGroup
  | none => fail stBadGroup

/-- Gives an operation its sequence number, its deadline, and puts it in progress; a pair that was aborted before
completes with the status recorded (R396, R397). -/
def State.startColl (s : State) (c : Coll) (g : TGroup) (explicit : Option Nat) (timeout : Nat) : Except Err State := do
  let seq := explicit.getD (g.issued + 1)
  need (explicit.isNone || (g.completed < seq && (s.coll c.group seq).isNone)) stBadParam
  need ((s.trace.colls.filter fun x => x.group = c.group).length < g.ops) stGroupLimit
  let s := s.modGroup c.group fun g => { g with issued := max g.issued seq }
  let c := { c with seq := seq, deadline := s.t + (if timeout = 0 then g.timeout else timeout) * msNs }
  match g.aborted.find? fun a => a.1 = seq with
  | some a =>
    .ok ((s.modGroup c.group fun g => { g with completed := max g.completed seq }).complete c.wid a.2.1 0#64 a.2.2)
  | none =>
    let s : State := { s with trace := { s.trace with colls := s.trace.colls ++ [c] } }
    .ok (s.takeEarly c)

/-! ### Lost members (R398) -/

/-- Every uncompleted operation that involves a lost member completes (R398, R356). -/
def State.loseMember (s : State) (part : BitVec 16) : State :=
  let s := s.logEv evMemberLost 0xFF#8 stMemberLost part.toNat
  s.trace.colls.foldl (fun s c =>
    match tget s.trace.groups c.group.toNat with
    | some g => if g.members.contains part then s.failColl c stMemberLost part.toNat else s
    | none => s) s

/-! ### What is freed once nothing uses it (R332, R366, R409) -/

/-- Frees a group and its staging (R409). -/
def State.dropGroup (s : State) (k : Nat) (g : TGroup) : State :=
  let s := if g.stagingOwn then s.release g.staging else s
  { s with trace := { s.trace with groups := tdel s.trace.groups k } }

/-- Whether a layout is named by a permute. -/
def State.layoutNamed (s : State) (h : Nat) : Bool :=
  s.trace.colls.any fun c => match c.perm with | some p => p.src = h || p.dst = h | none => false

/-- Removes a layout, its slot table with it. -/
def State.dropLayout (s : State) (h : Nat) (l : Layout) : State :=
  let s := if l.tableOwn then s.release l.table else s
  { s with rein := { s.rein with layouts := tdel s.rein.layouts h } }

/-- Whether a sweep, an exchange or a norm of a set is dispatched (R331). -/
def State.setUsed (s : State) (h : Nat) (l : LSet) : Bool := l.state = .sweeping || s.learn.exchs.any fun x => x.set = h

/-- Whether a registered group names a micro-program (R331). -/
def State.microUsed (s : State) (h : Nat) : Bool := s.learn.sets.any fun l => l.2.groups.any fun g => g.rule = 7 && g.micro = h

/-- The waits of releases with WAIT. -/
def State.tryColl (s : State) (x : Wait) : State :=
  match x.kind with
  | .groupFree k =>
    match tget s.trace.groups k with
    | none => s.complete x.wid stBadGroup
    | some g => if s.trace.colls.any fun c => c.group.toNat = k then s else (s.dropGroup k g).complete x.wid stOk
  | .layoutFree h =>
    match tget s.rein.layouts h with
    | none => s.complete x.wid stBadHandle
    | some l =>
      if s.layoutNamed h || (match l.model with | some m => thas s.gen.loops m | none => false) then s
      else (s.dropLayout h l).complete x.wid stOk
  | .setFree h =>
    match tget s.learn.sets h with
    | none => s.complete x.wid stBadHandle
    | some l =>
      if s.setUsed h l then s
      else ({ s with learn := { s.learn with sets := tdel s.learn.sets h } } : State).complete x.wid stOk
  | .microFree h =>
    if !thas s.learn.micros h then s.complete x.wid stBadHandle
    else if s.microUsed h then s
    else ({ s with learn := { s.learn with micros := tdel s.learn.micros h } } : State).complete x.wid stOk
  | .normReset h after =>
    match tget s.learn.sets h with
    | none => s.complete x.wid stBadHandle
    | some l =>
      if after.any (fun v => s.learn.exchs.any fun e => e.wid = v) then s
      else if l.state = .accumulating || l.state = .normed then (s.modSet h LSet.abandon).complete x.wid stOk
      else s.complete x.wid stSweepState
  | _ => s.tryGen x

end Sys2Proof.Machine
end

