-- ==== Sys2Proof/Machine/MoorOps.lean ====
section
/-! DEFINITION. The mooring (R426 to R437): stripes, the Reed-Solomon code, refresh, loss, rebuild and repair. -/

namespace Sys2Proof.Machine

open Sys2Proof

/-! ### The code (R429) -/

/-- Product in GF(2^8) under the polynomial 0x11D. -/
def gfMul (a b : Nat) : Nat :=
  ((List.range 8).foldl (fun (acc : Nat × Nat) i =>
    (if bitAt b i then acc.1 ^^^ acc.2 else acc.1, if 128 ≤ acc.2 then (2 * acc.2) ^^^ 0x11D else 2 * acc.2)) (0, a)).1

/-- Inverse in GF(2^8): the 254th power. -/
def gfInv (a : Nat) : Nat := (List.range 254).foldl (fun acc _ => gfMul acc a) 1

/-- c(i, k) (R429). -/
def cauchy (m i k : Nat) : Nat := gfInv (i ^^^ (m + k))

/-- One share of a stripe: data index k as k, parity i as K + i; its bytes; its poisoned lines, 0 to 255 (R430). -/
abbrev Share : Type := Nat × List Byte × List Nat

/-- The lines that are poisoned in any of some shares: what is computed from them is poisoned there (R430). -/
def poisonOf (ss : List Share) : List Nat := (ss.flatMap fun x => x.2.2).eraseDups

/-- XOR of a byte list with a multiple of another. -/
def addScaled (f : Nat) (xs ys : List Nat) : List Nat := List.zipWith (fun x y => x ^^^ gfMul f y) xs ys

/-- A parity cell from the K data cells in order. -/
def parityCell (m i : Nat) (ds : List (List Byte)) : List Byte :=
  ((ds.zip (List.range ds.length)).foldl (fun acc d => addScaled (cauchy m i d.2) acc (d.1.map BitVec.toNat))
    (List.replicate cellBytes 0)).map (BitVec.ofNat 8)

/-- One column of the elimination: a row with a pivot there is scaled to 1 and taken from every other row. -/
def eliminate (rows : List (List Nat × List Nat)) (col : Nat) : List (List Nat × List Nat) :=
  let done := rows.take col
  let rest := rows.drop col
  let at_ := fun (r : List Nat × List Nat) => (r.1[col]?).getD 0
  match rest.find? fun r => at_ r != 0 with
  | none => rows
  | some p =>
    let rest := rest.erase p
    let v := gfInv (at_ p)
    let p := (p.1.map (gfMul v), p.2.map (gfMul v))
    let sub := fun (r : List Nat × List Nat) => (addScaled (at_ r) r.1 p.1, addScaled (at_ r) r.2 p.2)
    done.map sub ++ p :: rest.map sub

/-- The data cells of a stripe from K of its shares; none from fewer (R429). -/
def decodeStripe (k m : Nat) (shares : List Share) : Option (List (List Byte)) :=
  let ss := shares.take k
  if ss.length < k || (ss.map (·.1)).eraseDups.length < k then none
  else
    let rows := ss.map fun x => ((List.range k).map fun j =>
      if x.1 < k then (if x.1 = j then 1 else 0) else cauchy m (x.1 - k) j, x.2.1.map BitVec.toNat)
    some (((List.range k).foldl eliminate rows).map fun r => r.2.map (BitVec.ofNat 8))

/-! ### Stripes (R428): stripe (q, j) is numbered q x n + j -/

/-- Members of a group. -/
def Moor.n (m : Moor) : Nat := m.members.length

/-- The share that a rank has in stripe j: parity i as K + i, data index k as k. -/
def Moor.shareOf (m : Moor) (r j : Nat) : Nat :=
  let d := (r + m.n - j % m.n) % m.n
  if d < m.m then m.k + d else d - m.m

/-- Whether a rank holds parity in stripe j. -/
def Moor.holds (m : Moor) (r j : Nat) : Bool := m.k ≤ m.shareOf r j

/-- The data cell of a rank in a stripe where it is a data member. -/
def Moor.cellIn (m : Moor) (r x : Nat) : Nat :=
  (x / m.n) * m.k + ((List.range (x % m.n)).filter fun j => !m.holds r j).length

/-- The index in a holder's parity area of its parity cell of a stripe. -/
def Moor.parityIn (m : Moor) (r x : Nat) : Nat := (x / m.n) * m.m + (m.shareOf r (x % m.n) - m.k)

/-- The stripe of a rank's data cell. -/
def Moor.stripeOf (m : Moor) (r c : Nat) : Nat :=
  (c / m.k) * m.n + ((((List.range m.n).filter fun j => !m.holds r j)[c % m.k]?).getD 0)

/-- Stripes of the group. -/
def Moor.stripes (m : Moor) : Nat := m.c / m.k * m.n

/-- The collector of a stripe: holder 0. -/
def Moor.collector (m : Moor) (x : Nat) : Nat := x % m.n

/-! ### Cells (R427) -/

/-- Changes a mooring group. -/
def State.modMoor (s : State) (k : Nat) (f : Moor → Moor) : State := { s with moors := tmod s.moors k f }

/-- Bytes of a member's own moored space. -/
def State.spaceLen (s : State) (space : List Nat) : Nat := sumNat (space.map fun a => ((tget s.allocs a).map (·.len)).getD 0)

/-- The address of an own data cell; none beyond the space. -/
def State.cellAddr (s : State) (m : Moor) (c : Nat) : Option Nat :=
  (m.space.foldl (fun (acc : Nat × Option Nat) key =>
    let n := ((tget s.allocs key).map (·.len)).getD 0 / cellBytes
    (acc.1 + n, match acc.2 with
      | some a => some a
      | none => if acc.1 ≤ c && c < acc.1 + n then some (key + (c - acc.1) * cellBytes) else none)) (0, none)).2

/-- A cell at an address: its bytes and its poisoned lines. -/
def State.cellAt (s : State) (a : Nat) : List Byte × List Nat :=
  (s.bytes a cellBytes, (List.range 256).filter fun i => s.poisoned (a + 256 * i) 256)

/-- An own data cell; zeros beyond the space. -/
def State.cellData (s : State) (m : Moor) (c : Nat) : List Byte × List Nat :=
  match s.cellAddr m c with
  | some a => s.cellAt a
  | none => (List.replicate cellBytes 0#8, [])

/-- The own share of a stripe: a data cell or a parity cell. -/
def State.ownShare (s : State) (m : Moor) (r x : Nat) : Share :=
  (m.shareOf r (x % m.n),
    if m.holds r (x % m.n) then s.cellAt (m.parity + m.parityIn r x * cellBytes) else s.cellData m (m.cellIn r x))

/-- Writes a cell with its poison, without marking it dirty. -/
def State.putCellAt (s : State) (a : Nat) (bs : List Byte) (bad : List Nat) : State :=
  let s := (wholeLines a bs.length).foldl (fun s l => s.clearLine l) (s.putBytes a bs)
  bad.foldl (fun s i => s.poisonLine (a + 256 * i)) s

/-- Writes an own data cell of the committed state, which leaves it clean. -/
def State.putCell (s : State) (m : Moor) (c : Nat) (bs : List Byte) (bad : List Nat) : State :=
  match s.cellAddr m c with
  | some a => s.putCellAt a bs bad
  | none => s

/-- Writes an own parity cell. -/
def State.putParity (s : State) (m : Moor) (r x : Nat) (bs : List Byte) (bad : List Nat) : State :=
  if m.parity = 0 then s else s.putCellAt (m.parity + m.parityIn r x * cellBytes) bs bad

/-- Sends a share of a stripe to a member. -/
def State.sendCell (s : State) (k x : Nat) (to_ : Option (BitVec 16)) (sh : Share) : State :=
  match to_ with
  | some d =>
    let (s, data, bad) := s.landIn (areaMoor + 0x200000 * (x % 16)) 0x200000 sh.2.1 sh.2.2
    { s with out := { s.out with moorCells := s.out.moorCells ++
      [{ dest := d, moor := k, stripe := x, share := sh.1, data := data, poison := bad }] } }
  | none => s

/-- The cells of the own space. -/
def State.ownCells (s : State) (m : Moor) : List Nat := List.range (s.spaceLen m.space / cellBytes)

/-! ### States (R426) -/

/-- The code of a group's state. -/
def MoorState.code : MoorState → Nat
  | .active => 0
  | .degraded => 1
  | .rebuilding => 2
  | .shrinking => 3
  | .lost => 4

/-- Moves a group to a state and logs it; DEGRADED and LOST alert (Table 12-7, R539). -/
def State.enterMoor (s : State) (k : Nat) (st : MoorState) : State :=
  match tget s.moors k with
  | none => s
  | some m =>
    (s.modMoor k fun x => { x with state := st }).logWith evMoorState (st = .degraded || st = .lost)
      (BitVec.ofNat 8 m.paddock) 0#16 0xFFFF#16 0#64 (leBytes 4 k ++ leBytes 1 st.code)

/-- Ends every pending command of a group. -/
def State.endMoorCmds (s : State) (k : Nat) (st : BitVec 16) : State :=
  match tget s.moors k with
  | none => s
  | some m =>
    let ws := m.refreshes.filterMap (·.2) ++ m.rebuildBy ++ m.shrinkBy
    (s.modMoor k fun x => { x with refreshes := [], rebuildBy := [], shrinkBy := [], rebuildFor := none }).completeAll ws st

/-- A group whose state cannot be recovered (R432, R439). -/
def State.loseMoor (s : State) (k : Nat) : State := (s.enterMoor k .lost).endMoorCmds k stMooringLost

/-- Why a mooring command cannot act now, by the group's state (R438, R439). -/
def State.moorBusy (s : State) (m : Moor) : Except Err Unit :=
  match m.state with
  | .lost => fail stMooringLost
  | .rebuilding => fail stRecovering (max 1 ((m.bound - s.t + msNs - 1) / msNs))
  | .shrinking => fail stRecovering (max 1 ((m.bound - s.t + msNs - 1) / msNs))
  | _ => .ok ()

/-- Why a command cannot act while a group rebuilds or shrinks; a LOST group is no obstacle (R439). -/
def State.moorMoving (s : State) (m : Moor) : Except Err Unit := if m.state = .lost then .ok () else s.moorBusy m

/-! ### Refresh (R430) -/

/-- Begins the refresh of an epoch: the dirty cells, or all of them, go to their collectors. -/
def State.startRefresh (s : State) (k : Nat) (full : Bool) (w : Option (BitVec 64)) : State :=
  match tget s.moors k with
  | none => s
  | some m =>
    match m.rank with
    | none => s
    | some r =>
      let cells := if full then s.ownCells m else m.dirty
      let s := s.modMoor k fun x => { x with
        flight := cells.foldl (fun l c => insNat c l) x.flight, dirty := [], epoch := x.epoch + 1
        refreshes := x.refreshes ++ [(x.epoch, w)], startedAt := s.t, deadline := s.t + x.timeout * msNs }
      cells.foldl (fun s c =>
        let x := m.stripeOf r c
        s.sendCell k x (m.members[m.collector x]?) (m.shareOf r (x % m.n), s.cellData m c)) s

/-- The oldest epoch being refreshed commits: the command that waits for it completes (R430). -/
def State.commitEpoch (s : State) (k : Nat) : State :=
  match tget s.moors k with
  | none => s
  | some m =>
    match m.refreshes with
    | [] => s
    | (e, w) :: rest =>
      let s := s.modMoor k fun x => { x with refreshes := rest, committedEpoch := e, refreshNs := s.t - x.startedAt }
      match w with
      | some w => s.complete w stOk (BitVec.ofNat 64 e)
      | none => s

/-- A sweep of a paddock has completed: it is one epoch of its mooring group while that is ACTIVE (R430, R437). -/
def State.sweepEpoch (s : State) (pad : Nat) : State :=
  s.moors.foldl (fun s e => if e.2.paddock = pad && e.2.state = .active then s.startRefresh e.1 false none else s) s

/-! ### Loss, rebuild and shrink (R432 to R435) -/

/-- Raw Trace rate of the part's ADMITTED ports for a paddock, bytes per microsecond (Table 11-1). -/
def State.rawFor (s : State) (pad : Nat) : Nat :=
  max 1 (sumNat ((List.range 16).map fun p => if (s.port p).state = .admitted then 28000 * (s.port p).width else 0) *
    ((tget s.paddocks pad).map (·.traceShare)).getD 0 / 100)

/-- 1.25 x B / R in nanoseconds. -/
def State.moveNs (s : State) (pad b : Nat) : Nat := 1250 * b / s.rawFor pad

/-- Cells of one rank: data and parity. -/
def Moor.rankCells (m : Moor) : Nat := m.c + m.c / m.k * m.m

/-- A member of a group is lost (R398, R432, R437). `cells` are its cells that no epoch's cells decode: cell, epoch lag. -/
def State.moorLoses (s : State) (k : Nat) (part : BitVec 16) (cells : List (Nat × Nat)) : State :=
  match tget s.moors k with
  | none => s
  | some m =>
    let spareLost : Bool := match m.rebuildFor with | some x => x.2 = part | none => false
    if spareLost then
      let s := s.completeAll m.rebuildBy stRebuildFailed
      (s.modMoor k fun x => { x with rebuildBy := [], rebuildFor := none, spares := x.spares.erase part }).enterMoor k .degraded
    else if !m.members.contains part || m.lost.contains part then s.modMoor k fun x => { x with spares := x.spares.erase part }
    else
      let s := s.modMoor k fun x => { x with
        lost := x.lost ++ [part], lostAt := s.t, lostCells := x.lostCells ++ cells.map fun c => (c.1, part, c.2) }
      let s : State := { s with part := { s.part with lostCells := s.part.lostCells + BitVec.ofNat 32 cells.length } }
      let s := if cells.isEmpty then s else s.logEv evLinesLost (BitVec.ofNat 8 m.paddock) 0#16 0xFFFF 0#64 (leBytes 4 k)
      if m.m < m.lost.length + 1 || !cells.isEmpty then s.loseMoor k
      else match m.state with
        | .active =>
          let s := m.refreshes.foldl (fun s r => match r.2 with
            | some w => s.complete w stMemberLost 0#64 (BitVec.ofNat 32 part.toNat)
            | none => s) s
          let s := s.modMoor k fun x => { x with
            refreshes := [], dirty := x.flight.foldl (fun l c => insNat c l) x.dirty, flight := [] }
          s.enterMoor k .degraded
        | .shrinking =>
          let s := s.completeAll m.shrinkBy stRebuildFailed
          (s.modMoor k fun x => { x with shrinkBy := [] }).enterMoor k .degraded
        | _ => s

/-- The ranks that send their cells of a stripe for a lost rank: the first K that remain, data cells first (R433). -/
def Moor.senders (m : Moor) (lostRank x : Nat) : List Nat :=
  let live := (List.range m.n).filter fun r => r != lostRank && !m.lost.contains ((m.members[r]?).getD 0#16)
  (sortOn (fun r => m.shareOf r (x % m.n)) live).take m.k

/-- Begins the rebuild of a lost member on a spare: this member sends the cells that are its to send (R433, R434). -/
def State.startRebuild (s : State) (k : Nat) (lost spare : BitVec 16) (timeout : Nat) : State :=
  match tget s.moors k with
  | none => s
  | some m =>
    let lr := m.members.findIdx (· == lost)
    let s := s.modMoor k fun x => { x with
      rebuildFor := some (lost, spare), startedAt := s.t, deadline := s.t + timeout * msNs
      bound := s.t + 150 * msNs + s.moveNs m.paddock (m.k * m.rankCells * cellBytes) }
    let s := s.enterMoor k .rebuilding
    match m.rank with
    | none => s
    | some r => (List.range m.stripes).foldl (fun s x =>
        if (m.senders lr x).contains r then s.sendCell k x (some spare) (s.ownShare m r x) else s) s

/-- Writes, at a rank, the shares of stripes rebuilt from what the others sent. -/
def State.rebuildCells (s : State) (m : Moor) (r : Nat) (got : List (Nat × List Share)) : State :=
  got.foldl (fun s g =>
    match decodeStripe m.k m.m g.2 with
    | none => s
    | some ds =>
      let sh := m.shareOf r (g.1 % m.n)
      let bad := poisonOf (g.2.take m.k)
      if sh < m.k then s.putCell m (m.cellIn r g.1) ((ds[sh]?).getD []) bad
      else s.putParity m r g.1 (parityCell m.m (sh - m.k) ds) bad) s

/-- The deadline of what a group has in progress passes: its commands fail, undelivered cells are dirty again, and a
rebuild or shrink leaves the group DEGRADED (R426, R437). -/
def State.moorTimeout (s : State) (k : Nat) : State :=
  match tget s.moors k with
  | none => s
  | some m =>
    let moving : Bool := m.state = .rebuilding || m.state = .shrinking
    if m.refreshes.isEmpty && !moving then s
    else
      let s := (s.reach m.deadline).endMoorCmds k stCollectiveTimeout
      let s := s.modMoor k fun x => { x with dirty := x.flight.foldl (fun l c => insNat c l) x.dirty, flight := [] }
      if moving then s.enterMoor k .degraded else s

/-! ### Repair (R436) -/

/-- The own data cell that holds an address, with its offset in the cell. -/
def State.cellOf (s : State) (m : Moor) (a : Nat) : Option (Nat × Nat) :=
  (s.ownCells m).findSome? fun c =>
    match s.cellAddr m c with
    | some b => if b ≤ a && a < b + cellBytes then some (c, a - b) else none
    | none => none

/-- Repairs one poisoned line, a line number, from the other cells of its stripe; none where it cannot be decoded. -/
def State.repairLine (s : State) (k line : Nat) (shares : List (Nat × List Share)) : Option State :=
  match tget s.moors k with
  | none => none
  | some m =>
    match m.rank, s.cellOf m (256 * line) with
    | some r, some (c, off) =>
      let x := m.stripeOf r c
      if m.dirty.contains c || m.flight.contains c then none
      else match (shares.find? fun e => e.1 = x).bind fun e =>
          if (poisonOf (e.2.take m.k)).contains (off / 256) then none else decodeStripe m.k m.m e.2 with
        | none => none
        | some ds =>
          let bs := slice ((ds[m.shareOf r (x % m.n)]?).getD []) off 256
          if bs.length < 256 then none else some ((s.putBytes (256 * line) bs).clearLine (256 * line))
    | _, _ => none

/-- The poisoned lines of the own moored cells. -/
def State.moorPoison (s : State) (m : Moor) : List Nat := (dedupNat (s.poison.map (· / 4))).filter fun l => m.space.any fun a =>
  match tget s.allocs a with
  | some x => a ≤ 256 * l && 256 * l < a + x.len
  | none => false

/-- Repairs lines: how many were, and how many were not; the lost ones are logged (R436). -/
def State.repairLines (s : State) (k : Nat) (lines : List Nat) (shares : List (Nat × List Share)) : State × Nat × Nat :=
  let r := lines.foldl (fun (acc : State × Nat × Nat) l =>
    match acc.1.repairLine k l shares with
    | some s' => (s', acc.2.1 + 1, acc.2.2)
    | none => (acc.1, acc.2.1, acc.2.2 + 1)) (s, 0, 0)
  if r.2.2 = 0 then r
  else
    let pad := ((tget s.moors k).map (·.paddock)).getD 15
    (r.1.logEv evLinesLost (BitVec.ofNat 8 pad) 0#16 0xFFFF 0#64 (leBytes 4 k ++ leBytes 4 r.2.2), r.2)

/-- The parity area is freed and protection ends (R438). -/
def State.dropMoor (s : State) (k : Nat) (m : Moor) : State :=
  let s := if m.parityOwn then s.release m.parity else s
  { s with moors := tdel s.moors k }

/-- The wait of a destroy with WAIT. -/
def State.tryMoor (s : State) (x : Wait) : State :=
  match x.kind with
  | .moorFree k =>
    match tget s.moors k with
    | none => s.complete x.wid stBadMoor
    | some m => if m.refreshes.isEmpty then ((s.dropMoor k m).complete x.wid stOk) else s
  | _ => s.tryColl x

end Sys2Proof.Machine
end

