-- ==== Sys2Proof/Machine/QuayOps.lean ====
section
/-! DEFINITION. The Frame Quay's data path: pictures, their conversion to planes and patches, the tiles and records that
a session writes, and its end (R441 to R448, R453, R456). -/

namespace Sys2Proof.Machine

open Sys2Proof

/-! ### Levels (H.265 Annex A, log entry 30) -/

/-- MaxLumaPs of a general_level_idc, none where it is no level of the part. -/
def levelPs (idc : Nat) : Option Nat :=
  match idc with
  | 30 => some 36864
  | 60 => some 122880
  | 63 => some 245760
  | 90 => some 552960
  | 93 => some 983040
  | 120 => some 2228224
  | 123 => some 2228224
  | 150 => some 8912896
  | 153 => some 8912896
  | 156 => some 8912896
  | _ => none

/-- The greatest NAL bit rate of a level in the Main tier, bits per second. -/
def levelBr (idc : Nat) : Nat :=
  1100 * (match idc with
    | 30 => 128
    | 60 => 1500
    | 63 => 3000
    | 90 => 6000
    | 93 => 10000
    | 120 => 12000
    | 123 => 20000
    | 150 => 25000
    | 153 => 40000
    | _ => 60000)

/-- The greatest NAL CPB of a level in the Main tier, bits. -/
def levelCpb (idc : Nat) : Nat := if idc = 30 then 350 * 1100 else levelBr idc

/-- The pictures of a level's largest DPB for a picture size. -/
def levelDpb (idc ps : Nat) : Nat :=
  let m := (levelPs idc).getD 0
  if ps ≤ m / 4 then 16 else if ps ≤ m / 2 then 12 else if ps ≤ 3 * m / 4 then 8 else 6

/-- The sessions of a kind that a paddock holds, or all paddocks (none). -/
def State.quaysOf (s : State) (encode : Bool) (pad : Option Nat) : Nat :=
  (s.quays.filter fun e => e.2.encode = encode && e.2.ended.isNone &&
    (match pad with | some p => e.2.paddock = p | none => true)).length

/-- The sessions of a kind that a share in hundredths allows: of 256 decode and 64 encode sessions (R441). -/
def quayLimit (encode : Bool) (share : Nat) : Nat := share * (if encode then 64 else 256) / 100

/-- Coding tree units of an encoded picture. -/
def Quay.ctus (q : Quay) : Nat := ((q.width + q.ctb - 1) / q.ctb) * ((q.height + q.ctb - 1) / q.ctb)

/-! ### Planes and patches (R445 to R447) -/

/-- Bytes of a sample. -/
def sampleBytes (depth : Nat) : Nat := if depth = 8 then 1 else 2

/-- Bytes of the two planes of a picture in whole tiles (R445). -/
def planeBytes (w h depth : Nat) : Nat :=
  let row := roundUp (w * sampleBytes depth) 256
  roundUp (roundUp (row * h) tileBytes + row * (h / 2)) tileBytes

/-- One sample of a plane, the nearest inside it. -/
def sampleAt (l : List (BitVec 16)) (w h x y : Nat) : Nat :=
  (((l[min y (h - 1) * w + min x (w - 1)]?).getD 0#16)).toNat

/-- A plane row: its samples, padded to a multiple of 256 bytes. -/
def planeRow (depth : Nat) (l : List (BitVec 16)) : List Byte :=
  let bs := l.flatMap fun v => leBytes (sampleBytes depth) v.toNat
  bs ++ List.replicate (roundUp bs.length 256 - bs.length) 0#8

/-- Bytes in tiles of 16 KiB, the last one padded with zeros. -/
def tilesOf (bs : List Byte) : List (List Byte) :=
  (List.range ((bs.length + tileBytes - 1) / tileBytes)).map fun i => slice bs (tileBytes * i) tileBytes

/-- The tiles of a picture in PLANES mode (R445). -/
def QPic.planes (p : QPic) : List (List Byte) :=
  let luma := (List.range p.height).flatMap fun y => planeRow p.depth ((p.y.drop (y * p.width)).take p.width)
  let cw := p.width / 2
  let chroma := (List.range (p.height / 2)).flatMap fun y => planeRow p.depth
    ((List.range cw).flatMap fun x => [(p.cb[y * cw + x]?).getD 0#16, (p.cr[y * cw + x]?).getD 0#16])
  tilesOf (luma ++ List.replicate (roundUp luma.length tileBytes - luma.length) 0#8 ++ chroma)

/-- Limits to 0 to 255. -/
def clip8 (v : Int) : Nat := if v < 0 then 0 else if 255 < v then 255 else v.toNat

/-- A channel (0 R, 1 G, 2 B) of one pixel of a picture (R446). -/
def QPic.channel (p : QPic) (matrix x y ch : Nat) : Nat :=
  let b := p.depth - 8
  let s := 8 + b
  let yy : Int := sampleAt p.y p.width p.height x y - (16 * 2 ^ b : Nat)
  let u : Int := sampleAt p.cb (p.width / 2) (p.height / 2) (x / 2) (y / 2) - (128 * 2 ^ b : Nat)
  let v : Int := sampleAt p.cr (p.width / 2) (p.height / 2) (x / 2) (y / 2) - (128 * 2 ^ b : Nat)
  let (kr, kgu, kgv, kb) : Int × Int × Int × Int := if matrix = 0 then (459, 55, 136, 541) else (409, 100, 208, 516)
  let half : Int := 2 ^ (s - 1)
  let sum : Int := if ch = 0 then 298 * yy + kr * v + half
    else if ch = 1 then 298 * yy - kgu * u - kgv * v + half
    else 298 * yy + kb * u + half
  clip8 (sum >>> s)

/-- The crop rectangle: the descriptor's, or the whole picture (R446). -/
def QPic.window (p : QPic) : Nat × Nat × Nat × Nat :=
  if p.desc.crop = (0, 0, 0, 0) then (0, 0, p.width, p.height) else p.desc.crop

/-- A channel of one pixel after crop and downscale (R446). -/
def QPic.pixel (p : QPic) (matrix x y ch : Nat) : Nat :=
  let n := max 1 p.desc.down
  let (x0, y0, _, _) := p.window
  let sum := sumNat ((List.range (n * n)).map fun i => p.channel matrix (x0 + x * n + i % n) (y0 + y * n + i / n) ch)
  (sum + n * n / 2) / (n * n)

/-- The bytes of one element of a patch tensor (R447). -/
def Quay.element (q : Quay) (c ch : Nat) : List Byte :=
  if q.outMode = 1 then
    let m := (q.mean[ch]?).getD 0#32
    let d := (q.istd[ch]?).getD 0#32
    leBytes 2 (toBf16 .rne (fmul .rne (fsub .rne (fOfInt .rne c) m) d)).toNat
  else leBytes 1 ((c + 128) % 256)

/-- The tiles of a picture in a PATCH mode (R446, R447). -/
def Quay.patches (q : Quay) (p : QPic) : List (List Byte) :=
  let lay := tileLay (if q.outMode = 1 then .bf16 else .int8)
  let n := max 1 p.desc.down
  let (_, _, w, h) := p.window
  let pw := w / n / q.patch
  let rows := pw * (h / n / q.patch)
  let cols := 3 * q.patch * q.patch
  let nc := (cols + lay.k - 1) / lay.k
  let elem := fun (r c : Nat) =>
    if rows ≤ r || cols ≤ c then List.replicate (lay.rowBytes / lay.k) 0#8
    else
      let d := c / 3
      q.element (p.pixel q.matrix (r % pw * q.patch + d % q.patch) (r / pw * q.patch + d / q.patch) (c % 3)) (c % 3)
  (List.range ((rows + lay.rows - 1) / lay.rows)).flatMap fun b => (List.range nc).map fun c =>
    (List.range lay.rows).flatMap fun i => (List.range lay.k).flatMap fun j => elem (b * lay.rows + i) (c * lay.k + j)

/-- The tiles that a session writes for an output picture. -/
def Quay.tilesFor (q : Quay) (p : QPic) : List (List Byte) := if q.outMode = 0 then p.planes else q.patches p

/-! ### Concealment (R448) -/

/-- A plane with the coding tree units of a list concealed: collocated samples of the previous output picture, or
mid-level samples. -/
def conceal (l : List (BitVec 16)) (w ctb depth : Nat) (lost : List Nat) (cols : Nat)
    (prev : Option (List (BitVec 16) × Nat × Nat)) : List (BitVec 16) :=
  (l.zip (List.range l.length)).map fun e =>
    let x := e.2 % w
    let y := e.2 / w
    if !lost.contains (y / ctb * cols + x / ctb) then e.1
    else match prev with
      | some (pl, pw, ph) => if x < pw && y < ph then (pl[y * pw + x]?).getD 0#16 else BitVec.ofNat 16 (2 ^ (depth - 1))
      | none => BitVec.ofNat 16 (2 ^ (depth - 1))

/-- The picture of a session after concealment (R448). -/
def Quay.picture (q : Quay) (num : Nat) (d : FrameDesc) (p : Pic) (kind : Nat) (poison : Bool) : QPic :=
  let ctb := max 1 p.ctb
  let cols := (p.width + ctb - 1) / ctb
  let old := q.prev.bind fun x => if x.depth = p.depth then some x else none
  { num := num, desc := d, width := p.width, height := p.height, depth := p.depth, kind := kind, poc := p.poc
    y := conceal p.y (max 1 p.width) ctb p.depth p.lost cols (old.map fun x => (x.y, x.width, x.height))
    cb := conceal p.cb (max 1 (p.width / 2)) (max 1 (ctb / 2)) p.depth p.lost cols
      (old.map fun x => (x.cb, x.width / 2, x.height / 2))
    cr := conceal p.cr (max 1 (p.width / 2)) (max 1 (ctb / 2)) p.depth p.lost cols
      (old.map fun x => (x.cr, x.width / 2, x.height / 2))
    concealed := !p.lost.isEmpty, poison := poison && !p.lost.isEmpty, mismatch := p.mismatch }

/-! ### Records (R456) -/

/-- Changes a session. -/
def State.modQuay (s : State) (h : Nat) (f : Quay → Quay) : State := { s with quays := tmod s.quays h f }

/-- A 32-byte frame record (Table 13-6). -/
def frameRecord (num : Nat) (pts : Nat) (off len kind qp flags : Nat) : List Byte :=
  leBytes 8 num ++ leBytes 8 pts ++ leBytes 8 off ++ leBytes 4 len ++ leBytes 1 kind ++ leBytes 1 qp ++ leBytes 2 flags

/-- Writes where a session's record ring lies. -/
def State.quayStore (s : State) (q : Quay) (off : Nat) (bs : List Byte) : State :=
  if q.recHost then s.hostWrite q.fn (q.recAddr.toNat + off) bs false else s.padStore q.paddock (q.recAddr.toNat + off) bs

/-- Whether a session may write a record now: no host write after a function-level reset (R69). -/
def State.quayWrites (s : State) (q : Quay) : Bool := !q.recHost || (s.fn q.fn).session.isSome

/-- Writes a record, then WRITE_INDEX; the advances that wait for it complete (R456, R459). -/
def State.quayRecord (s : State) (h : Nat) (bs : List Byte) : State :=
  match tget s.quays h with
  | none => s
  | some q =>
    let s := (s.quayStore q (256 + q.write % max 1 q.records * 32) bs).quayStore q 0 (leBytes 8 (q.write + 1))
    let done := q.advWait.filter fun a => a.2 ≤ q.write + 1
    let s := s.modQuay h fun x => { x with write := x.write + 1, advWait := x.advWait.filter fun a => q.write + 1 < a.2 }
    s.completeAll (done.map (·.1)) stOk

/-! ### The end of a session (R443, R456, R458) -/

/-- Takes a session off its streams, frees its DPB, writes its terminal record and completes what waits for it. -/
def State.finishQuay (s : State) (h : Nat) (st : BitVec 16) : State :=
  match tget s.quays h with
  | none => s
  | some q =>
    if q.ended.isSome then s
    else
      let pend := (q.pend.toList ++ q.queue).map (·.wid)
      let s := s.completeAll pend (if st = stOk then stCancelled else st)
      let s := if q.encode then s else s.modStream q.inS fun x =>
        { (x.setCon q.inCons (x.con q.inCons).release) with consEnd := tdel x.consEnd q.inCons }
      let s := (s.modStream q.outS fun x => { x with producer := none }).closeStream q.outS
      let s := if q.dpbOwn then s.release q.dpb else s
      let s := if s.quayWrites q then s.quayRecord h (frameRecord q.started 0 q.outPos st.toNat 0 0 32) else s
      let advs := (((tget s.quays h).map (·.advWait)).getD []).map (·.1)
      let s := s.modQuay h fun x => { x with
        ended := some st, ending := none, pend := none, queue := [], coding := none, latched := [], outq := [], recs := [],
        tail := [], prev := none, advWait := [], closing := none, active := none }
      let s := s.completeAll advs stQuayState
      let s := s.logEv evQuaySessionEnd (BitVec.ofNat 8 q.paddock) st 0xFFFF 0#64 (leBytes 4 h)
      match q.closing with
      | some w => ({ s with quays := tdel s.quays h } : State).complete w stOk (BitVec.ofNat 64 q.outNo)
      | none => s

/-- Begins the end of a session: what is decoded leaves in output order first, and what is coded is written. -/
def State.endQuay (s : State) (h : Nat) (st : BitVec 16) : State :=
  s.modQuay h fun q =>
    if q.ended.isSome || q.ending.isSome then q
    else
      let order := sortOn (fun (p : QPic) => (p.poc + 2 ^ 31).toNat) q.latched
      { q with ending := some st, coding := none, latched := [], outq := q.outq ++ order }

/-- Stops a session at once with a status: nothing further is written to its streams (R458). -/
def State.stopQuay (s : State) (h : Nat) (st : BitVec 16) : State :=
  (s.modQuay h fun q => { q with coding := none, latched := [], outq := [], recs := [], tail := [] }).finishQuay h st

/-! ### What a session writes (R443, R456) -/

/-- One thing that a session can write now: a tile of the picture at the front, its record, a full tile of the byte
stream, the record of an access unit; or its end. None where it can do nothing. -/
def State.quayStep (s : State) (h : Nat) : Option State :=
  match tget s.quays h with
  | none => none
  | some q =>
    if q.ended.isSome then none
    else
      match tget s.streams q.outS with
      | none => some (s.stopQuay h stStreamAborted)
      | some st =>
        if st.state = .aborted then some (s.stopQuay h stStreamAborted)
        else
          let t := st.committed
          let room := st.credit t
          let put := fun (bs : List Byte) => s.commitSlot q.outS t ((List.range 64).map fun i => (false, slice bs (256 * i) 256))
          if q.encode then
            if tileBytes ≤ q.tail.length then
              if room then some ((put (q.tail.take tileBytes)).modQuay h fun x => { x with tail := x.tail.drop tileBytes })
              else none
            else
              match q.recs with
              | r :: _ =>
                if r.1 ≤ q.outPos - q.tail.length && s.quayWrites q then
                  some ((s.quayRecord h r.2).modQuay h fun x => { x with recs := x.recs.drop 1 })
                else if q.ending.isSome && !q.tail.isEmpty then
                  some (s.modQuay h fun x => { x with
                    tail := slice x.tail 0 tileBytes, outPos := x.outPos + (tileBytes - x.tail.length) })
                else none
              | [] =>
                match q.ending with
                | none => none
                | some e =>
                  if !q.tail.isEmpty then
                    some (s.modQuay h fun x => { x with
                      tail := slice x.tail 0 tileBytes, outPos := x.outPos + (tileBytes - x.tail.length) })
                  else if s.quayWrites q then some (s.finishQuay h e) else none
          else
            match q.outq with
            | p :: _ =>
              let ts := q.tilesFor p
              if q.outTile < ts.length then
                if room then
                  some ((put ((ts[q.outTile]?).getD [])).modQuay h fun x => { x with outTile := x.outTile + 1 })
                else none
              else if s.quayWrites q then
                let flags := (if p.concealed then 1 else 0) + (if p.poison then 2 else 0) + (if p.mismatch then 16 else 0)
                let r := frameRecord p.num ((p.poc + 2 ^ 64) % 2 ^ 64).toNat q.outPos ts.length p.kind 0 flags
                some ((s.quayRecord h r).modQuay h fun x => { x with
                  outq := x.outq.drop 1, outTile := 0, outNo := x.outNo + 1, outPos := x.outPos + ts.length })
              else none
            | [] =>
              match q.ending with
              | some e => if s.quayWrites q then some (s.finishQuay h e) else none
              | none =>
                -- END on IN ends the session after the last complete access unit
                if q.coding.isSome then none
                else match tget s.streams q.inS with
                  | none => some (s.endQuay h stOk)  -- a freed stream delivers END (R182)
                  | some _ =>
                    match s.deliver q.inS q.inCons 0 with
                    | (s', some (_, _, true, _, _)) => some (s'.endQuay h stOk)
                    | _ => none

/-- Writes while there is something to write. -/
def State.quayGo (h : Nat) : Nat → State → State
  | 0, s => s
  | n + 1, s => match s.quayStep h with | some s' => State.quayGo h n s' | none => s

/-- How many things a session may write at once: its tiles and records, and its end. -/
def Quay.work (q : Quay) : Nat :=
  sumNat (q.outq.map fun p => (q.tilesFor p).length + 1) + sumNat (q.latched.map fun p => (q.tilesFor p).length + 1) +
    q.tail.length / tileBytes + q.recs.length + 6

/-- Lets every session write what it can. -/
def State.flushQuays (s : State) : State := s.quays.foldl (fun s e => State.quayGo e.1 e.2.work s) s

end Sys2Proof.Machine
end

