-- ==== Sys2Proof/Machine/Settle.lean ====
section
/-! DEFINITION. The dispatched commands that wait (R57): what each waits for, and its completion as soon as that has
come about. -/

namespace Sys2Proof.Machine

open Sys2Proof

/-- Whether every command of a function accepted before one has completed (R65). -/
def State.earlierDone (s : State) (f : Nat) (w : BitVec 64) : Bool :=
  (s.journal.takeWhile fun j => j.wid != w).all fun j => ringFn j.ring != f || j.state = .done

/-- Frees a kernel's handle and its code copies (R152, R170). -/
def State.dropKernel (s : State) (h : Nat) (k : Kernel) : State :=
  { (s.releaseAll k.code) with kernels := tdel s.kernels h }

/-- Whether a task not in a final state uses a kernel (R170). -/
def State.kernelUsed (s : State) (h : Nat) : Bool := s.tasks.any fun e => e.2.kernel = h && !e.2.state.final

/-- Closes a session of a function, where it is still the one open: a later session that a function-level reset let in
stays open (R64, R65). -/
def State.closeSession (s : State) (f : Nat) (id : BitVec 32) : State :=
  s.modFn f fun n => if (n.session.map (·.id)) = some id then { n with session := none } else n

/-- Completes a wait whose condition holds, with the effect that waited. -/
def State.tryWait (s : State) (x : Wait) : State :=
  match x.kind with
  | .close f id =>
    if s.earlierDone f x.wid then
      (s.closeSession f id).complete x.wid stOk
        (((s.jrec x.wid).map (·.progress)).getD 0#64)
    else s
  | .shrink p =>
    match tget s.paddocks p with
    | some k => if k.leaving.isEmpty then s.complete x.wid stOk else s
    | none => s.complete x.wid stCancelled
  | .unload h =>
    match tget s.kernels h with
    | none => s.complete x.wid stBadHandle
    | some k => if s.kernelUsed h then s else (s.dropKernel h k).complete x.wid stOk
  | .streamEnd h =>
    match tget s.streams h with
    | none => s.complete x.wid stStreamAborted
    | some st => if st.ended then s.complete x.wid stOk else s
  | .memFree a =>
    match tget s.allocs a with
    | none => s.complete x.wid stBadAlloc
    | some l => if s.allocInUse a l then s else (s.release a).complete x.wid stOk
  | .teamTask p =>
    match s.logicalOf p with
    | none => s.complete x.wid stBadParam
    | some l =>
      if (s.running l).isSome then s
      else ({ s with waits := s.waits.filter fun y => y.wid != x.wid } : State).retireTeam x.wid l
  | _ => s.tryMoor x

/-- Begins the save of a resident suspension (R159). -/
def State.convert (s : State) (w : BitVec 64) : State :=
  match s.task w with
  | none => s
  | some t =>
    if t.state = .suspSaved && t.restoring then s.dropRestore w t
    else s.modTask w fun t => if t.state = .suspResident then { t with saving := true } else t

/-- Teams that a shrink released: their resident suspensions are converted, and a team that holds nothing leaves
(R68, R159, R163). -/
def State.leaveTeams (s : State) : State :=
  s.paddocks.foldl (fun s e =>
    if e.2.leaving.isEmpty then s
    else
      let s := e.2.leaving.foldl (fun s l => (s.team l).ctxs.foldl (fun s c => s.convert c.2.wid) s) s
      s.modPaddock e.1 fun k => { k with leaving := k.leaving.filter fun l => !(s.team l).ctxs.isEmpty }) s

/-- One look at every wait. -/
def State.settleOnce (s : State) : State := s.waits.foldl (fun s x => s.tryWait x) s

/-- Looks again until as many looks have been taken as commands wait: one completion may allow the next. -/
def State.settleGo : Nat → State → State
  | 0, s => s
  | n + 1, s => State.settleGo n s.settleOnce

/-- Everything that follows at once from a change. -/
def State.settle (s : State) : State := State.settleGo s.waits.length ((((s.leaveTeams.autoTeams).sweepLoops).flushRings.pumpAll).flushQuays)

/-- The meaning of a slot command: its dispatch, and what follows at once. -/
def run (op : Nat) (w : BitVec 64) (hm : HostImage) (s : State) (body : Cmd → State → Except Err State) :
    Host.Outcome State Fault Refusal := .next (s.dispatch op w hm body).settle

/-- The meaning of an event: its effect, and what follows at once. -/
def event (s : State) : Host.Outcome State Fault Refusal := .next s.settle

end Sys2Proof.Machine
end

