-- ==== Sys2Proof/Machine/InstrOps.lean ====
section
/-! DEFINITION. What the instructions of a running task share: where they may execute (R148, R158), registers and
their poison bits (R147, R192), lanes (R16, R113), and the Basin and scratchpad accesses with their exceptions
(R165, R173, R192). -/

namespace Sys2Proof.Machine

open Sys2Proof

/-! ### Where an instruction executes -/

/-- Whether a team of a task waits at a stream or a barrier (R188). -/
def State.atStreamWait (s : State) (w : BitVec 64) (rank : Nat) : Bool :=
  s.streams.any (fun e => e.2.waiting.any fun b => b.who = .task w rank) ||
  s.barriers.any fun e => e.2.waitTasks.any fun x => x.1.task = w && x.1.rank = rank

/-- Whether a team holds its handshakes for its supply (R32, R476). -/
def State.holds (s : State) (l : Nat) : Bool := (tgetD TeamPwr.reset s.power.teams (s.physOf l)).hold.isSome

/-- Whether the end of a stream is a team that holds: nothing is delivered to it, and its writes stay queued (R32,
R476). -/
def State.endHolds (s : State) : End → Bool
  | .task w rank => match (s.task w).bind fun t => t.teams[rank]? with
    | some l => s.holds l
    | none => false
  | _ => false

/-- The task whose instructions a team issues, and the team's rank: its active context's task, while the team has
not stopped or ended, waits for nothing, and does not hold for its supply (R148, R158, R476). -/
def State.issuing (s : State) (l : Nat) : Option (BitVec 64 × Task × Nat) :=
  match s.activeOn l with
  | none => none
  | some (w, t, r) =>
    if t.arrived.contains r || t.ended.contains r || s.atStreamWait w r ||
        s.holds l || s.part.mastersStopped then none
    else some (w, t, r)

/-- Runs an instruction on a core of a team that issues: its program counter, then its effect on the task, its rank
and the key of its context. -/
def State.onSite (s : State) (k : Site) (f : State → BitVec 64 → Task → Nat → Nat → State) : State :=
  match s.issuing k.team with
  | none => s
  | some (w, t, r) =>
    if 16 ≤ k.core then s
    else
      let key := ctxKey k.team k.core t.ctx
      f (s.modCtx key fun x => { x with pc := k.pc }) w t r key

/-! ### Registers (R147, R192) -/

/-- The poison bit number of a scalar register. -/
abbrev pS (i : Nat) : Nat := i
/-- The poison bit number of a mask register. -/
abbrev pM (i : Nat) : Nat := 32 + i
/-- The poison bit number of a vector register. -/
abbrev pV (i : Nat) : Nat := 40 + i

/-- Whether any of some registers is poisoned. -/
def Ctx.tainted (x : Ctx) (rs : List Nat) : Bool := rs.any fun r => x.poison.contains r

/-- Sets or clears a register's poison bit. -/
def Ctx.taint (x : Ctx) (r : Nat) (p : Bool) : Ctx :=
  { x with poison := if p then insNat r x.poison else x.poison.filter fun q => q != r }

/-- A scalar register. -/
def Ctx.s (x : Ctx) (i : Nat) : BitVec 64 := tgetD 0#64 x.sregs i

/-- A mask register. -/
def Ctx.m (x : Ctx) (i : Nat) : BitVec 64 := tgetD 0#64 x.mregs i

/-- The 32 lanes of a vector register. -/
def Ctx.v (x : Ctx) (i : Nat) : List (BitVec 32) := (List.range 32).map fun l => tgetD 0#32 x.vregs (32 * i + l)

/-- Writes a scalar register. -/
def Ctx.setS (x : Ctx) (i : Nat) (v : BitVec 64) (p : Bool) : Ctx :=
  { x with sregs := tputD 0#64 x.sregs i v }.taint (pS i) p

/-- Writes a mask register. -/
def Ctx.setM (x : Ctx) (i : Nat) (v : BitVec 64) (p : Bool) : Ctx :=
  { x with mregs := tputD 0#64 x.mregs i v }.taint (pM i) p

/-- Writes the lanes of a vector register. -/
def Ctx.setV (x : Ctx) (i : Nat) (vs : List (BitVec 32)) (p : Bool) : Ctx :=
  { x with vregs := (vs.zip (List.range 32)).foldl (fun r (e : BitVec 32 × Nat) => tputD 0#32 r (32 * i + e.2) e.1) x.vregs }.taint (pV i) p

/-- Whether register numbers name vector registers. -/
def vOk (rs : List Nat) : Bool := rs.all fun r => r < 32

/-- The 16-bit elements of a vector register: element 2j is the low half of lane j. -/
def Ctx.halves (x : Ctx) (i : Nat) : List (BitVec 16) :=
  (x.v i).flatMap fun (w : BitVec 32) => [w.truncate 16, (w >>> 16).truncate 16]

/-- The lanes that 16-bit elements make. -/
def pairUp : List (BitVec 16) → List (BitVec 32)
  | a :: b :: t => (b ++ a) :: pairUp t
  | _ => []

/-- The exact FP32 value of a BF16 or FP16 code. -/
def widen (ln : Lanes) (h : BitVec 16) : F32 :=
  match ln with
  | .fp16 => toF32 .rne (Fmt.fp16.decode h.toNat)
  | _ => wide h

/-- The elements of a vector register, widened exactly to FP32 (R113, R122). -/
def Ctx.elems (x : Ctx) (ln : Lanes) (i : Nat) : List F32 :=
  match ln with
  | .f32 => x.v i
  | _ => (x.halves i).map (widen ln)

/-- The elements of several registers in order. -/
def Ctx.elemsOf (x : Ctx) (ln : Lanes) (rs : List Nat) : List F32 := rs.flatMap fun r => x.elems ln r

/-- Narrows an FP32 result once to the lanes' format. -/
def narrow (ln : Lanes) (mode : RMode) (sat : Bool) (a : F32) : BitVec 16 :=
  match ln with
  | .fp16 => BitVec.ofNat 16 (Fmt.fp16.round mode sat 0 (fv a))
  | _ => toBf16 mode a sat

/-- The lanes that FP32 results make in a format. -/
def packLanes (ln : Lanes) (mode : RMode) (vs : List F32) (sat : Bool := false) : List (BitVec 32) :=
  match ln with
  | .f32 => vs
  | _ => pairUp (vs.map (narrow ln mode sat))

/-- The mode that an operation other than a narrowing conversion rounds under (R113). -/
def arithMode (m : RMode) : RMode := match m with | .sr => .rne | x => x

/-! ### Exceptions -/

/-- Raises a kernel-class exception at a site. -/
def State.trapAt (s : State) (w : BitVec 64) (rank : Nat) (k : Site) (cause addr : Nat) : State :=
  s.raise w rank k.core cause addr

/-- Runs a vector operation whose fields are defined encodings, else raises ILLEGAL_INSTRUCTION (R101, R165). -/
def State.onVec (s : State) (k : Site) (ok : Bool) (f : Ctx → Ctx) : State :=
  s.onSite k fun s w _ r key => if ok then s.modCtx key f else s.trapAt w r k 0x01 0

/-! ### The Basin and the scratchpad as a core reaches them -/

/-- Whether a task may access `n` Basin bytes at an address: a buffer of the task or an allocation of its paddock
(R165, R173). -/
def State.basinOk (s : State) (t : Task) (a n : Nat) : Bool :=
  a < 0x100000000 &&
  match s.allocAt a with
  | none => false
  | some e => e.2.tier = .basin && e.2.owner = t.paddock && rangeIn a n e && (!e.2.sys || t.bufs.contains e.1)

/-- The window of a task on a team: its first byte and its length (R160). -/
def State.window (s : State) (l : Nat) (t : Task) : Nat × Nat :=
  match tget (s.team l).ctxs t.ctx with
  | some x => (x.offset * 4096, x.window * 4096)
  | none => (0, 0)

/-- Reads scratchpad bytes at a window offset. -/
def State.scratchRead (s : State) (l core base off n : Nat) : List Byte :=
  (List.range n).map fun i => tgetD 0#8 s.scratch (scratchKey (s.physOf l) core (base + off + i))

/-- Writes scratchpad bytes at a window offset. -/
def State.scratchWrite (s : State) (l core base off : Nat) (bs : List Byte) : State :=
  let put := fun (m : List Host.Cell) (e : Byte × Nat) => tputD 0#8 m (scratchKey (s.physOf l) core (base + off + e.2)) e.1
  { s with scratch := (bs.zip (List.range bs.length)).foldl put s.scratch }

/-- A Basin read by a core or engine: single-symbol errors are corrected and counted, a line with an uncorrectable
error is poisoned in place and logged (R180). `ecc` names the lines of the read that have an error, by an address in
each, and whether it is uncorrectable. -/
def State.basinEcc (s : State) (ecc : List (Nat × Bool)) : State :=
  ecc.foldl (fun s e =>
    let a := basinDirect e.1
    let q := a / 0x20000000
    let li := a % 0x20000000 / 256
    let bank := ((li % 64) ^^^ (li / 64 % 64)) ^^^ ((li / 4096 % 64) ^^^ (li / 262144 % 8))
    let b := s.basin
    if e.2 then
      let n := tgetD 0#64 b.eccUncorrectable (64 * q + bank) + 1#64
      let s : State := { s with basin := { b with eccUncorrectable := tput b.eccUncorrectable (64 * q + bank) n } }
      (s.poisonLine a).logEv evBasinUncorrectable 0xFF#8 0#16 q 0#64 (leBytes 4 bank ++ leBytes 8 a)
    else
      let n := tgetD 0#64 b.eccCorrected (64 * q + bank) + 1#64
      { s with basin := { b with eccCorrected := tput b.eccCorrected (64 * q + bank) n } }) s

/-! ### Bursts and commits of teams (R183, R184, R188) -/

/-- Sets a task's position in a stream on every core of a team: the tiles delivered to it (R147). -/
def State.setPosition (s : State) (w : BitVec 64) (rank h n : Nat) : State :=
  match s.task w with
  | none => s
  | some t =>
    match t.teams[rank]? with
    | none => s
    | some l => (List.range 16).foldl (fun s c =>
        s.modCtx (ctxKey l c t.ctx) fun x => { x with positions := tput x.positions h n }) s

/-- Hands a delivered burst of a stream to the end that asked for it (R187). -/
def State.giveBurst (s : State) (h : Nat) (b : Burst) (r : Nat × Nat × Bool × Bool × Bool) : State :=
  match b.who with
  | .task w rank =>
    ((s.setPosition w rank h (r.2.1 + r.1)).answer w rank b.rs (statusWord r.1 r.2.2.1 r.2.2.2.1 r.2.2.2.2 false false)).answer w rank b.rx
      (BitVec.ofNat 64 r.2.1)
  | .engine w => s.modBind w fun x => { x with took := r.1, gotEnd := x.gotEnd || r.2.2.1 }
  | _ => s

/-- Requests a burst: delivered at once where it can be, else it waits (R184, R186). -/
def State.requestBurst (s : State) (h : Nat) (b : Burst) : State :=
  match s.deliver h b.consumer b.n with
  | (s', some r) => s'.giveBurst h b r
  | (_, none) => s.modStream h fun st => { st with waiting := st.waiting ++ [b] }

/-- The tile that a team commits: 1,024 bytes of each core's window, in core order (R188). -/
def State.teamTile (s : State) (l : Nat) (t : Task) (off : Nat) : List Byte :=
  (List.range 16).flatMap fun c => s.scratchRead l c (s.window l t).1 off 1024

/-- Commits a producer's next tile with its bytes (R178, R183). -/
def State.commitBytes (s : State) (h : Nat) (bs : List Byte) : State :=
  match tget s.streams h with
  | none => s
  | some st => (s.store (st.slotAddr st.committed) bs).setStream h (st.commitTile st.committed)

end Sys2Proof.Machine
end

