-- ==== Sys2Proof/Machine/Vector.lean ====
section
/-! DEFINITION. The vector instructions (R106, R113 to R120, R129 to R139, R296, R310). Each is one function of a
core's context, or of a core's exact register. -/

namespace Sys2Proof.Machine

open Sys2Proof

/-! ### QMX and conversions -/

/-- The MX element format of an engine format, none where QMX does not write it (R106). -/
def mxOf : ElemFmt → Option MxFmt
  | .mxfp4 => some (.fp .e2m1)
  | .mxfp6e2m3 => some (.fp .e2m3)
  | .mxfp6e3m2 => some (.fp .e3m2)
  | .mxe4m3 => some (.fp .e4m3)
  | .mxe5m2 => some (.fp .e5m2)
  | .mxint8 => some .int8
  | _ => none

/-- The random integers of `n` elements from the first logical index (R104); 0 under the other modes. -/
def rndInts (r : Rnd) (n : Nat) : List Nat :=
  (List.range n).map fun i => if r.mode = 4 then srInt r.seed r.stream (r.index + i) else 0

/-- Bits of an MX element. -/
def MxFmt.bits : MxFmt → Nat
  | .fp f => f.width
  | .int8 => 8

/-- The lanes of a register that hold a block's element codes packed least significant first (R109), the rest 0. -/
def packBlock (g : MxFmt) (cs : List Nat) : List (BitVec 32) :=
  let v := cs.foldr (fun c acc => c + 2 ^ g.bits * acc) 0
  (List.range 32).map fun j => BitVec.ofNat 32 (v / 2 ^ (32 * j))

/-- QMX (R106): 32 values of a register to one block, its element codes packed under R109 in the low bytes of a
register and its scale code in a scalar register (log entry 153). Of the 64 elements of a BF16 register, `hi` names the
half. -/
def execQmx (k : Site) (f : ElemFmt) (ln : Lanes) (hi : Bool) (r : Rnd) (vs vd sd : Nat) (s : State) :
    Host.Outcome State Fault Refusal :=
  event (match mxOf f, RMode.of r.mode with
    | some g, some mode =>
      s.onVec k (vOk [vs, vd] && sd < 32 && ln != .fp16) fun x =>
        let all := x.elems ln vs
        let q := qmx g mode (rndInts r 32) (((if hi && ln != .f32 then all.drop 32 else all).take 32).map fv)
        let p := x.tainted [pV vs]
        (x.setV vd (packBlock g q.2) p).setS sd (BitVec.ofNat 64 q.1) p
    | _, _ => s.onVec k false id)

/-- The value that a lane's low bits spell in a format, none for a format that conversions do not read. Of an MX format
the lane holds one element code; the scale is the conversion's (R83). -/
def laneValue (f : ElemFmt) (w : BitVec 32) : Option FVal :=
  match f with
  | .fp32 => some (fv w)
  | .bf16 => some (Fmt.bf16.decode (w.toNat % 2 ^ 16))
  | .fp16 => some (Fmt.fp16.decode (w.toNat % 2 ^ 16))
  | .e4m3 => some (Fmt.e4m3.decode (w.toNat % 256))
  | .e5m2 => some (Fmt.e5m2.decode (w.toNat % 256))
  | .int8 => some (int8Val false (w.toNat % 256))
  | .int32 => some (FVal.ofUnits false w.toInt 0)
  | .mxfp4 => some (Fmt.e2m1.decode (w.toNat % 16))
  | .mxfp6e2m3 => some (Fmt.e2m3.decode (w.toNat % 64))
  | .mxfp6e3m2 => some (Fmt.e3m2.decode (w.toNat % 64))
  | .mxe4m3 => some (Fmt.e4m3.decode (w.toNat % 256))
  | .mxe5m2 => some (Fmt.e5m2.decode (w.toNat % 256))
  | .mxint8 => some (int8Val true (w.toNat % 256))
  | .ep16 => none

/-- A value times 2^n. -/
def FVal.scaleBy (v : FVal) (n : Int) : FVal :=
  match v with
  | .fin s m e => .fin s m (e + n)
  | w => w

/-- Whether elements of a format are scaled by an E8M0 code, of their block or of their tensor (R83). -/
def hasScale : ElemFmt → Bool
  | .fp32 => false
  | .bf16 => false
  | .fp16 => false
  | .int32 => false
  | .ep16 => false
  | _ => true

/-- A source element under its scale code; the scale 0xFF makes it a NaN (R83, R93). -/
def scaled (f : ElemFmt) (scale : BitVec 8) (v : FVal) : FVal :=
  if !hasScale f then v else if scale = 0xFF#8 then .nan else v.scaleBy ((scale.toNat : Int) - 127)

/-- An INT8 result: the integer nearest under the mode, saturated (R105, R110). DESIGN CHOICE (log entry 154): the spec
gives a NaN and the infinities no INT8 code; here a NaN and minus infinity give -128 and plus infinity 127, as R105
gives INT32 its least and greatest integers. -/
def roundInt8 (mode : RMode) (u : Nat) (v : FVal) : Nat :=
  let n : Int := (roundInt32 mode u v).toInt
  let c : Int := max (-128) (min 127 n)
  (BitVec.ofInt 8 c).toNat

/-- The code of a value in a format, none for a format that conversions do not write (R102, R105, R113). -/
def laneCode (f : ElemFmt) (mode : RMode) (sat : Bool) (u : Nat) (v : FVal) : Option (BitVec 32) :=
  match f with
  | .fp32 => some (BitVec.ofNat 32 (Fmt.fp32.round mode sat u v))
  | .bf16 => some (BitVec.ofNat 32 (Fmt.bf16.round mode sat u v))
  | .fp16 => some (BitVec.ofNat 32 (Fmt.fp16.round mode sat u v))
  | .e4m3 => some (BitVec.ofNat 32 (Fmt.e4m3.round mode sat u v))
  | .e5m2 => some (BitVec.ofNat 32 (Fmt.e5m2.round mode sat u v))
  | .int8 => some (BitVec.ofNat 32 (roundInt8 mode u v))
  | .int32 => some (roundInt32 mode u v)
  | _ => none

/-- Bits of a convertible format. -/
def laneBits : ElemFmt → Nat
  | .fp32 => 32
  | .int32 => 32
  | .bf16 => 16
  | .fp16 => 16
  | .mxfp4 => 4
  | .mxfp6e2m3 => 6
  | .mxfp6e3m2 => 6
  | _ => 8

/-- A conversion of 32 lanes (R113): a scaled source takes its scale code (R83), the scale code of an INT8 result
divides the value (R110), and stochastic rounding applies to narrowing conversions only. DESIGN CHOICE (log entry 155):
the spec does not say which conversions narrow; here those to a format of fewer bits, so FP32 to INT32, BF16 to FP16,
E4M3 to E5M2 and INT8 to FP8 round under RNE. -/
def convert (r : Rnd) (mode : RMode) (src dst : ElemFmt) (srcScale dstScale : BitVec 8) (ws : List (BitVec 32)) :
    Option (List (BitVec 32)) :=
  let m := if laneBits dst < laneBits src then mode else arithMode mode
  ((ws.zip (rndInts r 32)).map fun e =>
    (laneValue src e.1).bind fun u =>
      let v := scaled src srcScale u
      laneCode dst m r.sat e.2 (if dst = .int8 then v.scaleBy (127 - (dstScale.toNat : Int)) else v)).foldr
    (fun o acc => match o, acc with | some a, some l => some (a :: l) | _, _ => none) (some [])

/-! ### Lane arithmetic (R113, R115) -/

/-- The FP32 operation of a lane operation under SAT (R102, R113); a conversion has none. -/
def laneOp (op : VecOp) (m : RMode) (sat : Bool) (a b c : F32) : Option F32 :=
  match op with
  | .add => some (fadd m a b sat)
  | .sub => some (fsub m a b sat)
  | .mul => some (fmul m a b sat)
  | .fma => some (ffma m a b c sat)
  | .div => some (fdiv m a b sat)
  | .sqrt => some (fsqrt m a sat)
  | .max => some (fmax a b)
  | .min => some (fmin a b)
  | .cvt _ _ _ _ => none

/-- The source registers that a lane operation reads. -/
def vecSources : VecOp → Nat → Nat → Nat → List Nat
  | .fma, a, b, c => [a, b, c]
  | .sqrt, a, _, _ => [a]
  | .cvt _ _ _ _, a, _, _ => [a]
  | _, a, b, _ => [a, b]

/-- Applies a lane operation over whole registers. -/
def lanesOf (op : VecOp) (m : RMode) (sat : Bool) (as bs cs : List F32) : Option (List F32) :=
  ((as.zip (bs.zip cs)).map fun e => laneOp op m sat e.1 e.2.1 e.2.2).foldr
    (fun o acc => match o, acc with | some a, some l => some (a :: l) | _, _ => none) (some [])

/-- VECTOR_ARITHMETIC (R113). A BF16 lane operation is the FP32 operation on the widened inputs, its result rounded
once to BF16 (log entry 15). -/
def execVectorArithmetic (k : Site) (op : VecOp) (ln : Lanes) (r : Rnd) (vd va vb vc : Nat) (s : State) :
    Host.Outcome State Fault Refusal :=
  event (match RMode.of r.mode with
    | none => s.onVec k false id
    | some mode =>
      let srcs := vecSources op va vb vc
      s.onSite k fun s w _ rk key =>
        let x := s.ctx key
        let m := arithMode mode
        let res := match op with
          | .cvt src dst ss ds => if ln = .f32 then convert r mode src dst ss ds (x.v va) else none
          | _ => if ln = .fp16 then none
                 else (lanesOf op m r.sat (x.elems ln va) (x.elems ln vb) (x.elems ln vc)).map fun l => packLanes ln m l r.sat
        match res with
        | some vs => if vOk (vd :: srcs) then s.setCtx key (x.setV vd vs (x.tainted (srcs.map pV)))
                     else s.trapAt w rk k 0x01 0
        | none => s.trapAt w rk k 0x01 0)

/-- The canonical NaN in place of any NaN (R85). -/
def canon (a : F32) : F32 := if isNan a then 0x7FC00000#32 else a

/-- A reduction (R114) under SAT, each step rounded to BF16 where the lanes are BF16. Its result is canonical also where
the tree has one element (R85). -/
def redRun (op : RedOp) (ln : Lanes) (m : RMode) (sat : Bool) (l : List F32) : F32 :=
  let step := fun (f : F32 → F32 → F32) (a b : F32) => if ln = .f32 then f a b else wide (toBf16 m (f a b) sat)
  canon (match op with
    | .sum => reduceTree (step fun a b => fadd m a b sat) 0#32 l
    | .max => reduceTree (step fmax) 0xFF800000#32 l
    | .min => reduceTree (step fmin) 0x7F800000#32 l)

/-- The elements of registers of several cores of a task, in logical order, and whether one is poisoned. -/
def State.gatherElems (s : State) (t : Task) (ln : Lanes) (src : List (Nat × Nat × Nat)) : List F32 × Bool :=
  let at_ := fun (e : Nat × Nat × Nat) => s.ctx (ctxKey e.1 e.2.1 t.ctx)
  (src.flatMap fun e => (at_ e).elems ln e.2.2, src.any fun e => (at_ e).tainted [pV e.2.2])

/-- VECTOR_REDUCTION (R114): the tree over the first `n` elements, FP32, or BF16 with each step rounded to BF16. A
recomputed row maximum is compared with a saved one, and a difference counted (R299). -/
def execVectorReduction (k : Site) (op : RedOp) (ln : Lanes) (r : Rnd) (src : List (Nat × Nat × Nat)) (n sd : Nat)
    (saved : Option Nat) (s : State) : Host.Outcome State Fault Refusal :=
  event (s.onSite k fun s w t rk key =>
    let ok := sd < 32 && ln != .fp16 && src.all (fun e => t.teams.contains e.1 && e.2.1 < 16 && e.2.2 < 32) &&
      (match saved with | some i => i < 32 | none => true)
    match RMode.of r.mode with
    | none => s.trapAt w rk k 0x01 0
    | some mode =>
      if !ok then s.trapAt w rk k 0x01 0
      else
        let g := s.gatherElems t ln src
        let m := arithMode mode
        let res := redRun op ln m r.sat (g.1.take n)
        let out := if ln = .f32 then res.zeroExtend 64 else (toBf16 m res).zeroExtend 64
        let s1 := match saved with
          | some i => if ((s.ctx key).s i).truncate 32 ≠ res then
              s.modPaddock t.paddock fun p => { p with statMismatch := p.statMismatch + 1#64 } else s
          | none => s
        s1.modCtx key fun x => x.setS sd out g.2)

/-! ### Exact reductions (R116) -/

/-- A core's record. -/
def State.core (s : State) (l c : Nat) : Core := tgetD Core.reset s.cores (16 * l + c)

/-- Changes a core's record. -/
def State.modCore (s : State) (l c : Nat) (f : Core → Core) : State :=
  { s with cores := tputD Core.reset s.cores (16 * l + c) (f (s.core l c)) }

/-- Counts a final rounding in the team's task counters (R112). -/
def State.countRounding (s : State) (l : Nat) (drops kind : Nat) : State :=
  s.modTeam l fun t =>
    { t with accDrops := satAdd 64 t.accDrops drops,
             accInf := if kind = 1 then satAdd 64 t.accInf 1 else t.accInf,
             accNan := if kind = 2 then satAdd 64 t.accNan 1 else t.accNan }

/-- The accumulator state of an exact partial in memory: its EP16 entry, or the EP64 record of a WIDE one; none where
that has no record (R96 to R98, R111). -/
def State.partialAt (s : State) (entry : Nat) (record : Option Nat) : Option Acc :=
  let bs := s.bytes entry 16
  if ep16Wide bs then record.map fun a => Acc.ofEp64 (s.bytes a 64) else some (Acc.ofEp16 bs)

/-- A store by a task: poisoned lines are counted toward its completion (R192, R193). -/
def State.taskStore (s : State) (w : BitVec 64) (p : Bool) (a : Nat) (bs : List Byte) : State :=
  let s := s.storeP p a bs
  if p then s.modTask w fun t => { t with poisonStores := t.poisonStores + (lineAddrs a bs.length).length } else s

/-- What stops an exact reduction on a partial in memory: an access outside the task's memory, a misaligned one, or a
WIDE entry with no record (R111, R165). -/
def State.partFault (s : State) (t : Task) (q : ExPart) (wide : Bool) : Option (Nat × Nat) :=
  let bad := fun (a n : Nat) => if !s.basinOk t a n then some (0x03, a) else if a % n ≠ 0 then some (0x06, a) else none
  match bad q.entry 16, q.record with
  | some e, _ => some e
  | none, some a => bad a 64
  | none, none => if wide then some (0x04, 0) else none

/-- The exact register after the terms and the merges of an exact reduction (R99, R116). -/
def State.exactOf (s : State) (t : Task) (ex : ExCtl) (x : Ctx) (terms : List FVal) : Acc :=
  let a := terms.foldl Acc.addTerm (if ex.clear then Acc.reset else x.exact)
  let a := ex.merge.foldl (fun a e => a.merge (s.ctx (ctxKey e.1 e.2 t.ctx)).exact) a
  ex.parts.foldl (fun a q => a.merge ((s.partialAt q.entry q.record).getD Acc.reset)) a

/-- Whether anything that entered the exact register was poisoned (R192). -/
def State.exactTaint (s : State) (t : Task) (ex : ExCtl) (x : Ctx) (regs : List Nat) : Bool :=
  x.tainted (regs.map pV) || (!ex.clear && x.exPoison) ||
  ex.merge.any (fun e => (s.ctx (ctxKey e.1 e.2 t.ctx)).exPoison) ||
  ex.parts.any fun q => s.poisoned q.entry 16 ||
    (ep16Wide (s.bytes q.entry 16) && match q.record with | some a => s.poisoned a 64 | none => false)

/-- Adds terms to a context's exact register, merges other cores' registers and partials in memory, writes the register
out as a partial, and rounds once where the instruction asks for it (R89 to R95, R99, R112, R116). -/
def State.exReduce (s : State) (k : Site) (regs : List Nat) (ok : Bool) (terms : Ctx → List FVal) (ex : ExCtl) :
    State :=
  s.onSite k fun s w t rk key =>
    let good := ok && vOk regs && ex.merge.all (fun e => t.teams.contains e.1 && e.2 < 16) &&
      (match ex.fin with | some f => f.2 < 32 && (RMode.of f.1.mode).isSome | none => true)
    if !good then s.trapAt w rk k 0x01 0
    else
      match ex.parts.findSome? fun q => s.partFault t q (ep16Wide (s.bytes q.entry 16)) with
      | some e => s.trapAt w rk k e.1 e.2
      | none =>
        let x := s.ctx key
        let reg := s.exactOf t ex x (terms x)
        let p := s.exactTaint t ex x regs
        match ex.out.bind fun q => s.partFault t q reg.isWide with
        | some e => s.trapAt w rk k e.1 e.2
        | none =>
          let s := s.modCtx key fun x => { x with exact := reg, exPoison := p }
          let s := match ex.out with
            | none => s
            | some q =>
              let s := s.taskStore w p q.entry reg.ep16
              match q.record with
              | some a => if reg.isWide then s.taskStore w p a reg.ep64 else s
              | none => s
          match ex.fin with
          | none => s
          | some (r, sd) =>
            let mode := (RMode.of r.mode).getD .rne
            let v := reg.resolve mode 0 (.zero false)
            let u := if r.mode = 4 then srInt r.seed r.stream r.index else 0
            let s := s.countRounding k.team reg.drops.toNat v.kind
            s.modCtx key fun x => ({ x with exact := Acc.reset, exPoison := false }).setS sd
              (BitVec.ofNat 64 (Fmt.fp32.round mode r.sat u v)) p

/-- EXSUM (R116): the exact sum of the first `n` elements. -/
def execExsum (k : Site) (ln : Lanes) (va : List Nat) (n : Nat) (ex : ExCtl) (s : State) :
    Host.Outcome State Fault Refusal :=
  event (s.exReduce k va (ln != .fp16) (fun x => ((x.elemsOf ln va).take n).map fv) ex)

/-- EXSUMSQ (R116): the exact sum of squares. -/
def execExsumsq (k : Site) (ln : Lanes) (va : List Nat) (n : Nat) (ex : ExCtl) (s : State) :
    Host.Outcome State Fault Refusal :=
  event (s.exReduce k va (ln != .fp16) (fun x => ((x.elemsOf ln va).take n).map fun a => (fv a).mul (fv a)) ex)

/-- EXDOT (R116): the exact sum of the products of two vectors. -/
def execExdot (k : Site) (ln : Lanes) (va vb : List Nat) (n : Nat) (ex : ExCtl) (s : State) :
    Host.Outcome State Fault Refusal :=
  event (s.exReduce k (va ++ vb) (ln != .fp16)
    (fun x => (((x.elemsOf ln va).zip (x.elemsOf ln vb)).take n).map fun e => (fv e.1).mul (fv e.2)) ex)

/-! ### Transcendental functions (R117 to R122) -/

/-- Applies an FP32 procedure to every element, its result rounded once to the input's format (R122). -/
def mapLanes (ln : Lanes) (f : F32 → F32) (vd va : Nat) (x : Ctx) : Ctx :=
  x.setV vd (packLanes ln .rne ((x.elems ln va).map f)) (x.tainted [pV va])

/-- EXP (R118). -/
def execExp (k : Site) (ln : Lanes) (vd va : Nat) (s : State) : Host.Outcome State Fault Refusal :=
  event (s.onVec k (vOk [vd, va]) (mapLanes ln fexp vd va))

/-- EXPM1 (R118). -/
def execExpm1 (k : Site) (ln : Lanes) (vd va : Nat) (s : State) : Host.Outcome State Fault Refusal :=
  event (s.onVec k (vOk [vd, va]) (mapLanes ln fexpm1 vd va))

/-- LOG (R119). -/
def execLog (k : Site) (ln : Lanes) (vd va : Nat) (s : State) : Host.Outcome State Fault Refusal :=
  event (s.onVec k (vOk [vd, va]) (mapLanes ln flog vd va))

/-- TANH (R120). -/
def execTanh (k : Site) (ln : Lanes) (vd va : Nat) (s : State) : Host.Outcome State Fault Refusal :=
  event (s.onVec k (vOk [vd, va]) (mapLanes ln ftanh vd va))

/-- SIGMOID (R120). -/
def execSigmoid (k : Site) (ln : Lanes) (vd va : Nat) (s : State) : Host.Outcome State Fault Refusal :=
  event (s.onVec k (vOk [vd, va]) (mapLanes ln fsigmoid vd va))

/-- SILU (R120). -/
def execSilu (k : Site) (ln : Lanes) (vd va : Nat) (s : State) : Host.Outcome State Fault Refusal :=
  event (s.onVec k (vOk [vd, va]) (mapLanes ln fsilu vd va))

/-! ### Random numbers (R129 to R139) -/

/-- The native state of a lane of a context; an unlisted one is that of seed 0 (R145). -/
def State.lane (s : State) (team core ctx j : Nat) : BitVec 128 :=
  (tget (s.ctx (ctxKey team core ctx)).gen j).getD (natSeed 0 ctx (laneIndex team core j))

/-- LFRAND (R139): each lane's generator advances once. -/
def execLfrand (k : Site) (vd : Nat) (s : State) : Host.Outcome State Fault Refusal :=
  event (s.onSite k fun s w t rk key =>
    if !vOk [vd] then s.trapAt w rk k 0x01 0
    else
      let next := (List.range 32).map fun j => (j, natNext (s.lane k.team k.core t.ctx j))
      s.modCtx key fun x =>
        ({ x with gen := next.foldl (fun g (e : Nat × BitVec 128 × BitVec 32) => tput g e.1 e.2.1) x.gen }).setV vd
          (next.map fun (e : Nat × BitVec 128 × BitVec 32) => e.2.2) false)

/-- LFSEED (R139): every lane is seeded from a 64-bit seed in a scalar register. -/
def execLfseed (k : Site) (ss : Nat) (s : State) : Host.Outcome State Fault Refusal :=
  event (s.onSite k fun s w t rk key =>
    if 32 ≤ ss then s.trapAt w rk k 0x01 0
    else s.modCtx key fun x =>
      { x with gen := (List.range 32).map fun j => (j, natSeed (x.s ss) t.ctx (laneIndex k.team k.core j)) })

/-- One block per lane: the key in a scalar register, the lane's counter in four vector registers, least significant
word first, and four results in four vector registers. -/
def blockLanes (out : List (BitVec 32) → List (BitVec 32)) (vd sk vc : Nat) (x : Ctx) : Ctx :=
  let word := fun (i j : Nat) => tgetD 0#32 x.vregs (32 * (vc + i) + j)
  let blocks := (List.range 32).map fun j => out (cb4 (x.s sk) (word 3 j ++ word 2 j ++ word 1 j ++ word 0 j))
  let p := x.tainted [pS sk, pV vc, pV (vc + 1), pV (vc + 2), pV (vc + 3)]
  (List.range 4).foldl (fun y i => y.setV (vd + i) (blocks.map fun b => (b[i]?).getD 0#32) p) x

/-- Whether four registers from a number exist. -/
def v4Ok (vd sk vc : Nat) : Bool := vd + 3 < 32 && sk < 32 && vc + 3 < 32

/-- CBRAND (R129). -/
def execCbrand (k : Site) (vd sk vc : Nat) (s : State) : Host.Outcome State Fault Refusal :=
  event (s.onVec k (v4Ok vd sk vc) (blockLanes id vd sk vc))

/-- CBUNIF (R134). -/
def execCbunif (k : Site) (vd sk vc : Nat) (s : State) : Host.Outcome State Fault Refusal :=
  event (s.onVec k (v4Ok vd sk vc) (blockLanes (fun b => b.map uniform) vd sk vc))

/-- CBNORM (R135). -/
def execCbnorm (k : Site) (vd sk vc : Nat) (s : State) : Host.Outcome State Fault Refusal :=
  event (s.onVec k (v4Ok vd sk vc) (blockLanes normal4 vd sk vc))

/-- TBNORM (R136): the table lies at an offset of the core's window. -/
def execTbnorm (k : Site) (vd vw off : Nat) (s : State) : Host.Outcome State Fault Refusal :=
  event (s.onSite k fun s w t rk key =>
    let win := s.window k.team t
    if !vOk [vd, vw] then s.trapAt w rk k 0x01 0
    else if off % 4 ≠ 0 then s.trapAt w rk k 0x06 off
    else if win.2 < off + 4 * 4097 then s.trapAt w rk k 0x02 off
    else
      let tab := fun (i : Nat) => BitVec.ofNat 32 (leNat (s.scratchRead k.team k.core win.1 (off + 4 * i) 4))
      s.modCtx key fun x => x.setV vd ((x.v vw).map (tbNormal tab)) (x.tainted [pV vw]))

/-! ### Learning instructions (R296, R310) -/

/-- PPOT of one lane: l and dl; a NaN in any operand gives NaN results (R310). -/
def ppotLane (lpNew lpOld a elo ehi : F32) : F32 × F32 :=
  if [lpNew, lpOld, a, elo, ehi].any isNan then (0x7FC00000#32, 0x7FC00000#32)
  else
    let d := fsub .rne lpNew lpOld
    let rho := fexp d
    let rc := fmin (fmax rho (fsub .rne fOne elo)) (fadd .rne fOne ehi)
    let u := fmul .rne rho a
    let c := fmul .rne rc a
    if !isNan u && !isNan c && !flt c u then (u, u) else (c, 0#32)

/-- TISW of one lane (R310). -/
def tiswLane (lpA lpB cap : F32) : F32 :=
  if [lpA, lpB, cap].any isNan then 0x7FC00000#32
  else
    let w := fexp (fsub .rne lpA lpB)
    if cap &&& 0x7FFFFFFF#32 = 0#32 then w else fmin w cap

/-- KLT of one lane: k and dk; a kind outside 1 to 3 gives NaN results (R310). -/
def kltLane (kind : Nat) (lpNew lpRef : F32) : F32 × F32 :=
  if isNan lpNew || isNan lpRef then (0x7FC00000#32, 0x7FC00000#32)
  else if kind = 1 then (fsub .rne lpNew lpRef, fOne)
  else if kind = 2 then
    let x := fsub .rne lpNew lpRef
    (fmul .rne 0x3F000000#32 (fmul .rne x x), x)
  else if kind = 3 then
    let y := fsub .rne lpRef lpNew
    let e := fexpm1 y
    (fsub .rne e y, if isNan e then 0x7FC00000#32 else fneg e)
  else (0x7FC00000#32, 0x7FC00000#32)

/-- PPOT (R310). -/
def execPpot (k : Site) (l dl lpNew lpOld a elo ehi : Nat) (s : State) : Host.Outcome State Fault Refusal :=
  event (s.onVec k (vOk [l, dl, lpNew, lpOld, a, elo, ehi]) fun x =>
    let r := (List.range 32).map fun j =>
      let at_ := fun (i : Nat) => tgetD 0#32 x.vregs (32 * i + j)
      ppotLane (at_ lpNew) (at_ lpOld) (at_ a) (at_ elo) (at_ ehi)
    let p := x.tainted ([lpNew, lpOld, a, elo, ehi].map pV)
    (x.setV l (r.map (·.1)) p).setV dl (r.map (·.2)) p)

/-- TISW (R310). -/
def execTisw (k : Site) (vd lpA lpB cap : Nat) (s : State) : Host.Outcome State Fault Refusal :=
  event (s.onVec k (vOk [vd, lpA, lpB, cap]) fun x =>
    x.setV vd (((x.v lpA).zip ((x.v lpB).zip (x.v cap))).map fun e => tiswLane e.1 e.2.1 e.2.2)
      (x.tainted ([lpA, lpB, cap].map pV)))

/-- KLT (R310). -/
def execKlt (k : Site) (vk vdk lpNew lpRef kind : Nat) (s : State) : Host.Outcome State Fault Refusal :=
  event (s.onVec k (vOk [vk, vdk, lpNew, lpRef]) fun x =>
    let r := ((x.v lpNew).zip (x.v lpRef)).map fun e => kltLane kind e.1 e.2
    let p := x.tainted ([lpNew, lpRef].map pV)
    (x.setV vk (r.map (·.1)) p).setV vdk (r.map (·.2)) p)

/-- LPCMP (R296): counts the tokens whose record version is the learning version, and those whose log-probabilities
differ in a bit, logging the first 64 of a session with sequence and position. -/
def execLpcmp (k : Site) (lp rec ver learnVer seqs poss n : Nat) (s : State) : Host.Outcome State Fault Refusal :=
  event (s.onSite k fun s w t rk key =>
    if !(vOk [lp, rec, ver, seqs, poss] && learnVer < 32) then s.trapAt w rk k 0x01 0
    else
      let x := s.ctx key
      let at_ := fun (i j : Nat) => tgetD 0#32 x.vregs (32 * i + j)
      ((List.range (min n 32)).filter fun j => at_ ver j = (x.s learnVer).truncate 32).foldl (fun s j =>
        let s := s.modPaddock t.paddock fun p => { p with lpChecked := p.lpChecked + 1#64 }
        if at_ lp j = at_ rec j then s
        else
          let logged := ((tget s.paddocks t.paddock).map (·.lpLogged)).getD 0
          let s := s.modPaddock t.paddock fun p =>
            { p with lpMismatch := p.lpMismatch + 1#64, lpLogged := min 64 (p.lpLogged + 1) }
          if logged < 64 then
            s.logEv evLpMismatch (BitVec.ofNat 8 t.paddock) 0#16 k.team w
              (leBytes 4 (at_ seqs j).toNat ++ leBytes 4 (at_ poss j).toNat)
          else s) s)

end Sys2Proof.Machine
end

