-- ==== Sys2Proof/Machine/Array.lean ====
section
/-! DEFINITION. The team array (R86 to R95, R108 to R112) and the accesses of a core to the Basin (R173, R192). -/

namespace Sys2Proof.Machine

open Sys2Proof

/-! ### Engine tiles (R108, R109) -/

/-- The value that an element code has in a format; a format that the array does not read has none. -/
def codeValue (f : ElemFmt) (c : Nat) : FVal :=
  match f with
  | .mxfp4 => Fmt.e2m1.decode c
  | .mxfp6e2m3 => Fmt.e2m3.decode c
  | .mxfp6e3m2 => Fmt.e3m2.decode c
  | .mxe4m3 => Fmt.e4m3.decode c
  | .mxe5m2 => Fmt.e5m2.decode c
  | .mxint8 => int8Val true c
  | .e4m3 => Fmt.e4m3.decode c
  | .e5m2 => Fmt.e5m2.decode c
  | .int8 => int8Val false c
  | .bf16 => Fmt.bf16.decode c
  | .fp16 => Fmt.fp16.decode c
  | .fp32 => Fmt.fp32.decode c
  | .int32 => .zero false
  | .ep16 => .zero false

/-- The code of element `k` of a row that begins at an address (R109). -/
def State.elemCode (s : State) (f : ElemFmt) (row k : Nat) : Nat :=
  let byte := fun (o : Nat) => (s.byte (row + o)).toNat
  match f with
  | .mxfp4 => byte (k / 2) / (if k % 2 = 0 then 1 else 16) % 16
  | .mxfp6e2m3 => (byte (k / 4 * 3) + 256 * byte (k / 4 * 3 + 1) + 65536 * byte (k / 4 * 3 + 2)) / 64 ^ (k % 4) % 64
  | .mxfp6e3m2 => (byte (k / 4 * 3) + 256 * byte (k / 4 * 3 + 1) + 65536 * byte (k / 4 * 3 + 2)) / 64 ^ (k % 4) % 64
  | .bf16 => byte (2 * k) + 256 * byte (2 * k + 1)
  | .fp16 => byte (2 * k) + 256 * byte (2 * k + 1)
  | .fp32 => leNat (s.bytes (row + 4 * k) 4)
  | .int32 => leNat (s.bytes (row + 4 * k) 4)
  | _ => byte k

/-- The scale code of an element: its block's, its tensor's, or 127 for a format without scales (R83, R108). -/
def State.scaleCode (s : State) (f : ElemFmt) (tile row k : Nat) (tensor : BitVec 8) : Nat :=
  let l := tileLay f
  if l.scales ≠ 0 then (s.byte (tile + l.scaleAt + row * l.scales + k / 32)).toNat
  else match f with
    | .e4m3 => tensor.toNat
    | .e5m2 => tensor.toNat
    | .int8 => tensor.toNat
    | _ => 127

/-! ### Operand pairs (Table 3-3) -/

/-- The class of a format as an operand: 0 MXFP4, 1 the other MX and FP8 formats, 2 integers, 3 BF16, 4 FP16. -/
def pairClass : ElemFmt → Option Nat
  | .mxfp4 => some 0
  | .mxfp6e2m3 => some 1
  | .mxfp6e3m2 => some 1
  | .mxe4m3 => some 1
  | .mxe5m2 => some 1
  | .e4m3 => some 1
  | .e5m2 => some 1
  | .int8 => some 2
  | .mxint8 => some 2
  | .bf16 => some 3
  | .fp16 => some 4
  | _ => none

/-- The DPU length of an operand pair; none for a pair that the array does not accept (R86, R87). -/
def dpuLength (a b : ElemFmt) : Option Nat :=
  match pairClass a, pairClass b with
  | some 0, some 0 => some 64
  | some 2, some 2 => some 32
  | some 3, some 3 => some 16
  | some 4, some 4 => some 16
  | some x, some y => if x ≤ 1 && y ≤ 1 then some 32 else none
  | _, _ => none

/-- Whether a format is an MX format. -/
def isMx (f : ElemFmt) : Bool := (tileLay f).scales ≠ 0

/-- Bytes of an output element; 0 for a format that the array does not write (R88). -/
def outBytes : ElemFmt → Nat
  | .fp32 => 4
  | .int32 => 4
  | .bf16 => 2
  | .fp16 => 2
  | .e4m3 => 1
  | .e5m2 => 1
  | .ep16 => 16
  | _ => 0

/-- Whether the final rounding of a product is a valid descriptor (R88, R94, R101, R110). DESIGN CHOICE (log entry 23):
the spec names no exception for a reserved RMODE in a product descriptor; here it is BAD_DESCRIPTOR (0x04), as for the
descriptor's other fields, and in a vector instruction ILLEGAL_INSTRUCTION (0x01). -/
def finishOk (p : Product) (f : Finish) : Bool :=
  let l := tileLay f.fmt
  outBytes f.fmt ≠ 0 && (f.fmt != .int32 || pairClass p.fa = some 2) && (RMode.of f.rnd.mode).isSome &&
  f.row + 32 ≤ l.rows && f.col + 32 ≤ l.k && (f.scales.isEmpty || f.scales.length = 32) &&
  f.scales.all fun x => -64 ≤ x && x ≤ 64

/-- Whether a step is a valid product descriptor (R87, R108, R110). -/
def productOk (p : Product) : Bool :=
  match dpuLength p.fa p.fb with
  | none => false
  | some len =>
    (!(isMx p.fa || isMx p.fb) || p.k % 32 = 0) && p.n ≤ len &&
    p.aRow + 32 ≤ (tileLay p.fa).rows && p.bRow + 32 ≤ (tileLay p.fb).rows &&
    p.aK + p.n ≤ (tileLay p.fa).k && p.bK + p.n ≤ (tileLay p.fb).k &&
    (match p.fin with | some f => finishOk p f | none => true)

/-! ### The step -/

/-- The values and scale codes of the step's elements of one row of an operand tile. -/
def State.operandRow (s : State) (f : ElemFmt) (tile row k0 n : Nat) (tensor : BitVec 8) : List (FVal × Nat) :=
  (List.range n).map fun i =>
    (codeValue f (s.elemCode f (tile + row * (tileLay f).rowBytes) (k0 + i)), s.scaleCode f tile row (k0 + i) tensor)

/-- A product term (R90, R93). -/
def term (a b : FVal × Nat) : FVal :=
  if a.2 = 0xFF || b.2 = 0xFF then .nan else (a.1.mul b.1).scaleBy ((a.2 : Int) + b.2 - 254)

/-- Whether the lines that a step reads of one row of an operand tile are poisoned. -/
def State.rowPoisoned (s : State) (f : ElemFmt) (tile row k0 n : Nat) : Bool :=
  let l := tileLay f
  let lo := k0 * l.rowBytes / l.k
  let hi := ((k0 + n) * l.rowBytes + l.k - 1) / l.k
  s.poisoned (tile + row * l.rowBytes + lo) (hi - lo) ||
  (l.scales ≠ 0 && s.poisoned (tile + l.scaleAt + row * l.scales + k0 / 32) ((k0 + n + 31) / 32 - k0 / 32))

/-- Adds the step's terms to the 1,024 accumulators (R86, R90 to R93). -/
def State.addStep (s : State) (l : Nat) (p : Product) : State :=
  let as := (List.range 32).map fun r => s.operandRow p.fa p.a (p.aRow + r) p.aK p.n p.ea
  let bs := (List.range 32).map fun c => s.operandRow p.fb p.b (p.bRow + c) p.bK p.n p.eb
  let old := (s.team l).accs
  let accs := ((as.zip (List.range 32)).flatMap fun a => (bs.zip (List.range 32)).map fun b =>
      (32 * a.2 + b.2, ((a.1.zip b.1).map fun e => term e.1 e.2).foldl Acc.addTerm (tgetD Acc.reset old (32 * a.2 + b.2)))).foldl
    (fun (t : Tbl Acc) e => tputD Acc.reset t e.1 e.2) old
  let bPois := (List.range 32).any fun c => s.rowPoisoned p.fb p.b (p.bRow + c) p.bK p.n
  let s' := s.modTeam l fun t => { t with accs := accs, product := true, stepNo := t.stepNo + 1 }
  (List.range 16).foldl (fun s' c =>
    if bPois || s.rowPoisoned p.fa p.a (p.aRow + 2 * c) p.aK p.n || s.rowPoisoned p.fa p.a (p.aRow + 2 * c + 1) p.aK p.n
    then s'.modCore l c fun x => { x with accPoison := true } else s') s'

/-- The record of entry `e` of a partial tile in its overflow area (R111). -/
def overRecord (o : OverArea) (e : Nat) : Nat := o.buffer + (4 * o.tile + e / 256) * 16384 + e % 256 * 64

/-- Merges tiles of exact partials into the accumulators, with their lines' poison (R96 to R99, R111, R192). -/
def State.mergePartials (s : State) (l : Nat) (ps : List PartialTile) : State :=
  ps.foldl (fun s q =>
    let rec_ := fun (e : Nat) => q.records.map fun o => overRecord o e
    let accs := (List.range 1024).foldl (fun (t : Tbl Acc) e =>
      tputD Acc.reset t e ((tgetD Acc.reset t e).merge ((s.partialAt (q.tile + 16 * e) (rec_ e)).getD Acc.reset)))
      (s.team l).accs
    let bad := fun (e : Nat) => s.poisoned (q.tile + 16 * e) 16 || (ep16Wide (s.bytes (q.tile + 16 * e) 16) &&
      match rec_ e with | some a => s.poisoned a 64 | none => false)
    (List.range 16).foldl (fun s' c =>
      if (List.range 64).any fun d => bad (64 * c + d) then s'.modCore l c fun x => { x with accPoison := true } else s')
      (s.modTeam l fun t => { t with accs := accs, product := true })) s

/-- The resolved value of an output element, its scale exponent and bias applied (R94, R95). -/
def State.outValue (s : State) (f : Finish) (mode : RMode) (a : Acc) (col : Nat) : FVal :=
  a.resolve mode ((f.scales[col]?).getD 0)
    (match f.bias with
     | some b => Fmt.fp32.decode (leNat (s.bytes (b + 4 * col) 4))
     | none => .zero false)

/-- The bytes of an output element (R88, R102, R105). -/
def State.outElem (s : State) (f : Finish) (a : Acc) (row col : Nat) : List Byte :=
  let mode := (RMode.of f.rnd.mode).getD .rne
  let u := if f.rnd.mode = 4 then srInt f.rnd.seed f.rnd.stream (f.rnd.index + row * f.stride + col) else 0
  let v := s.outValue f mode a col
  match f.fmt with
  | .fp32 => leBytes 4 (Fmt.fp32.round mode f.rnd.sat u v)
  | .bf16 => leBytes 2 (Fmt.bf16.round mode f.rnd.sat u v)
  | .fp16 => leBytes 2 (Fmt.fp16.round mode f.rnd.sat u v)
  | .e4m3 => leBytes 1 (Fmt.e4m3.round mode f.rnd.sat u v)
  | .e5m2 => leBytes 1 (Fmt.e5m2.round mode f.rnd.sat u v)
  | .int32 => leBytes 4 (roundInt32 mode u v).toNat
  | _ => a.ep16

/-- Stores the block row by row, each core's two rows with its accumulators' poison; wide entries of exact partials
go to the overflow records (R111, R192). -/
def State.storeBlock (s : State) (w : BitVec 64) (l : Nat) (f : Finish) : State :=
  let accs := (s.team l).accs
  let acc := fun (r c : Nat) => tgetD Acc.reset accs (32 * r + c)
  let bp := match f.bias with | some b => s.poisoned b 128 | none => false
  (List.range 32).foldl (fun s' r =>
    let p := bp || (s.core l (r / 2)).accPoison
    let row := (List.range 32).flatMap fun c => s.outElem f (acc r c) r c
    let s' := s'.taskStore w p (f.out + (f.row + r) * (tileLay f.fmt).rowBytes + f.col * outBytes f.fmt) row
    match f.overflow, f.fmt with
    | some o, .ep16 =>
      ((List.range 32).filter fun c => (acc r c).isWide).foldl (fun s' c =>
        let e := 32 * r + c
        s'.taskStore w p (overRecord o e) (acc r c).ep64) s'
    | _, _ => s') s

/-- The final rounding of a product: counters, stores, and the accumulators cleared (R95, R100, R112). -/
def State.finishProduct (s : State) (w : BitVec 64) (l : Nat) (f : Finish) : State :=
  let mode := (RMode.of f.rnd.mode).getD .rne
  let accs := (s.team l).accs
  let counted := if f.fmt = .ep16 then s else
    (List.range 1024).foldl (fun s' e =>
      let a := tgetD Acc.reset accs e
      s'.countRounding l a.drops.toNat (s.outValue f mode a (e % 32)).kind) s
  let s1 := counted.storeBlock w l f
  let s2 := s1.modTeam l fun t => { t with accs := [], product := false }
  (List.range 16).foldl (fun s c => s.modCore l c fun x => { x with accPoison := false }) s2

/-- Whether an overflow buffer lies in the paddock's memory, in any tier, and is 64 KiB long for each partial tile
(R111). -/
def State.overflowOk (s : State) (t : Task) (o : OverArea) : Bool :=
  o.tile < o.tiles &&
  match s.allocAt o.buffer with
  | none => false
  | some e => e.2.owner = t.paddock && !e.2.sys && rangeIn o.buffer (65536 * o.tiles) e

/-- What stops the merge of a tile of partials: an overflow buffer outside the paddock's memory, or a WIDE entry with
none named (R111, R165). -/
def State.mergeFault (s : State) (t : Task) (q : PartialTile) : Option (Nat × Nat) :=
  match q.records with
  | some o => if s.overflowOk t o then none else some (0x03, o.buffer)
  | none => if (List.range 1024).any fun e => ep16Wide (s.bytes (q.tile + 16 * e) 16) then some (0x04, 0) else none

/-- The Basin ranges that a step reads and writes: address, bytes, alignment. -/
def productRanges (p : Product) : List (Nat × Nat × Nat) :=
  [(p.a, 16384, 16384), (p.b, 16384, 16384)] ++ p.merge.map (fun q => (q.tile, 16384, 16384)) ++
  match p.fin with
  | none => []
  | some f => (f.out, 16384, 16384) :: (match f.bias with | some b => [(b, 128, 4)] | none => [])

/-- ARRAY_STEP (R86 to R95, R99, R111): one step of a product, and its final rounding where the descriptor ends it. -/
def execArrayStep (k : Site) (p : Product) (s : State) : Host.Outcome State Fault Refusal :=
  event (s.onSite k fun s w t rk _ =>
    let array := match tget s.kernels t.kernel with | some q => q.array | none => false
    if !array then s.trapAt w rk k 0x01 0
    else if !productOk p then s.trapAt w rk k 0x04 0
    else
      match (productRanges p).find? fun r => !s.basinOk t r.1 r.2.1 with
      | some r => s.trapAt w rk k 0x03 r.1
      | none =>
        match (productRanges p).find? fun r => r.1 % r.2.2 ≠ 0 with
        | some r => s.trapAt w rk k 0x06 r.1
        | none =>
          match p.merge.findSome? fun q => s.mergeFault t q with
          | some e => s.trapAt w rk k e.1 e.2
          | none =>
            let s1 := (s.addStep k.team p).mergePartials k.team p.merge
            match p.fin with
            | none => s1
            | some f =>
              let wide := f.fmt = .ep16 && (s1.team k.team).accs.any fun e => e.2.isWide
              match f.overflow with
              | none => if wide then s1.trapAt w rk k 0x04 0 else s1.finishProduct w k.team f
              | some o => if f.fmt = .ep16 && !s1.overflowOk t o then s1.trapAt w rk k 0x03 o.buffer
                          else s1.finishProduct w k.team f)

/-! ### Loads and stores (R165, R173, R180, R192) -/

/-- The bytes that an access to a place may have: 1, 2, 4 or 8 for a scalar or mask register, 128 for a vector
register, any number for the window. -/
def placeOk : Place → Nat → Bool
  | .s i, n => i < 32 && (n = 1 || n = 2 || n = 4 || n = 8)
  | .m i, n => i < 8 && (n = 1 || n = 2 || n = 4 || n = 8)
  | .v i, n => i < 32 && n = 128
  | .scratch _, n => n ≠ 0

/-- The alignment of an access (R165). -/
def placeAlign : Place → Nat → Nat
  | .scratch _, _ => 1
  | _, n => n

/-- Checks an access of a core and gives its Basin address, or the exception it raises: cause and recorded address. -/
def State.access (s : State) (k : Site) (t : Task) (key : Nat) (pl : Place) (ra off n : Nat) :
    Except (Nat × Nat) Nat :=
  let x := s.ctx key
  let a := ((x.s ra).toNat + off) % 2 ^ 64
  if !placeOk pl n || 32 ≤ ra then .error (0x01, 0)
  else if x.tainted [pS ra] then .error (0x07, a)
  else if a % placeAlign pl n ≠ 0 then .error (0x06, a)
  else if !s.basinOk t a n then .error (0x03, a)
  else
    match pl with
    | .scratch o => if (s.window k.team t).2 < o + n then .error (0x02, o) else .ok a
    | _ => .ok a

/-- BASIN_LOAD (R192): `ecc` names the lines of the read that have a Basin error, and whether it is uncorrectable. -/
def execBasinLoad (k : Site) (dst : Place) (ra off n : Nat) (ecc : List (Nat × Bool)) (s : State) :
    Host.Outcome State Fault Refusal :=
  event (s.onSite k fun s w t rk key =>
    match s.access k t key dst ra off n with
    | .error e => s.trapAt w rk k e.1 e.2
    | .ok a =>
      let s := s.basinEcc (ecc.filter fun e => (lineAddrs a n).contains (e.1 / 256 * 256))
      let bs := s.bytes a n
      let p := s.poisoned a n
      match dst with
      | .s i => s.modCtx key fun x => x.setS i (BitVec.ofNat 64 (leNat bs)) p
      | .m i => s.modCtx key fun x => x.setM i (BitVec.ofNat 64 (leNat bs)) p
      | .v i => s.modCtx key fun x => x.setV i ((List.range 32).map fun j => BitVec.ofNat 32 (fld bs (4 * j) 4)) p
      | .scratch o => s.scratchWrite k.team k.core (s.window k.team t).1 o bs)

/-- BASIN_STORE (R192). -/
def execBasinStore (k : Site) (src : Place) (ra off n : Nat) (s : State) : Host.Outcome State Fault Refusal :=
  event (s.onSite k fun s w t rk key =>
    match s.access k t key src ra off n with
    | .error e => s.trapAt w rk k e.1 e.2
    | .ok a =>
      let x := s.ctx key
      match src with
      | .s i => s.taskStore w (x.tainted [pS i]) a (leBytes n (x.s i).toNat)
      | .m i => s.taskStore w (x.tainted [pM i]) a (leBytes n (x.m i).toNat)
      | .v i => s.taskStore w (x.tainted [pV i]) a ((x.v i).flatMap fun v => leBytes 4 v.toNat)
      | .scratch o => s.taskStore w false a (s.scratchRead k.team k.core (s.window k.team t).1 o n))

/-- TRAP (R165): cause 0x05 with its operand. -/
def execTrap (k : Site) (v : BitVec 16) (s : State) : Host.Outcome State Fault Refusal :=
  event (s.onSite k fun s w _ rk _ => s.trapAt w rk k 0x05 v.toNat)

end Sys2Proof.Machine
end

