-- ==== Sys2Proof/Machine/Tasks.lean ====
section
/-! DEFINITION. Kernels and tasks: the meanings of the events and the bodies of the commands of chapter 5, and the
random-number commands (R142 to R145, R150 to R171). -/

namespace Sys2Proof.Machine

open Sys2Proof

/-! ### Pre-emption points (R158) -/

/-- A team of a task has stopped; the last to stop suspends the task (R158). -/
def State.teamStopped (s : State) (w : BitVec 64) (r : Nat) (wait : Bool) (point : Option Nat) : State :=
  let s := s.modTask w fun t => { t with
    arrived := insNat r t.arrived, atWait := if wait then insNat r t.atWait else t.atWait,
    pps := match point with | some i => tput t.pps r i | none => tdel t.pps r }
  match s.task w with
  | none => s
  | some t => match t.preempt with
    | some p => if t.allStopped then s.suspend w t p else s
    | none => s

/-- TEAM_AT_PREEMPTION_POINT (R158): a marked point by its index, or the wait at which the team stands. A marked
point reached with a product open raises PP_INVALID; with no request pending the team only passes it (R147). -/
def execTeamAtPreemptionPoint (team : Nat) (point : Option Nat) (s : State) : Host.Outcome State Fault Refusal :=
  event (match point with
    | none =>
      match s.activeOn team with
      | none => s
      | some (w, t, r) =>
        if t.preempt.isSome && !t.arrived.contains r && !t.ended.contains r && s.atStreamWait w r then
          (s.withdraw w r).teamStopped w r true none
        else s
    | some i =>
      match s.issuing team with
      | none => s
      | some (w, t, r) =>
        match (tget s.kernels t.kernel).bind fun k => k.pps[i]? with
        | none => s
        | some e =>
          let s := (List.range 16).foldl (fun s c => s.modCtx (ctxKey team c t.ctx) fun x =>
            { x with pc := e.pc, lastPp := BitVec.ofNat 16 i }) s
          if (s.team team).product then s.raise w r 0 0x09 0
          else if t.preempt.isSome then s.teamStopped w r false (some i)
          else s)

/-- FORCED_STOP (R158, R170): once the grace time has run out since the request, or at once where it was forced. -/
def execForcedStop (team : Nat) (s : State) : Host.Outcome State Fault Refusal :=
  event (match s.activeOn team with
    | none => s
    | some (w, t, r) =>
      match t.preempt with
      | none => s
      | some p =>
        if t.arrived.contains r || t.ended.contains r then s
        else ((s.reach (if p.force then s.t else p.since + t.grace * 1000)).withdraw w r).teamStopped w r true none)

/-- SAVE_COMPLETE (R158, R159, R161): the live state stands in the save area, the contexts and windows are free. -/
def execSaveComplete (w : BitVec 64) (s : State) : Host.Outcome State Fault Refusal :=
  event (match s.task w with
    | none => s
    | some t =>
      if t.state != .suspResident || !t.saving then s
      else
        let (saved, s) := match tget s.kernels t.kernel with | some k => s.saveTask t k | none => ([], s)
        let s := s.vacate w t
        let s := s.modTask w fun x => { x with state := .suspSaved, saving := false, saved := saved, preempt := none,
                                               arrived := [], atWait := [] }
        let s := match t.preempt with | some p => s.completeAll p.waiters stOk | none => s
        if (s.allotment t.paddock).length < t.teamsN then s.finishTask w .failed stTeamsExceed 0#32
        else s.urgentCheck t.paddock)

/-- The next place in the order of placements (R156). -/
def State.nextPlace (s : State) : Nat := s.tasks.foldl (fun m e => max m e.2.placedAt) 0 + 1

/-- A task runs on from a suspension (R156, R164, R170): what was withdrawn is reissued, a TASK_RESUME completes. -/
def State.runAgain (s : State) (w : BitVec 64) (t : Task) : State :=
  let s := match tget s.kernels t.kernel with | some k => s.scrambleTask t k | none => s
  let s := s.modTask w fun x => { x with state := .running, runSince := s.t, restoring := false, saved := [],
                                         victim := false, held := false, resumeBy := none, resumeMask := none,
                                         pps := [], arrived := [], atWait := [], placedAt := s.nextPlace }
  let s := s.reissue w t
  match t.resumeBy with
  | some r => s.complete r stOk
  | none => s

/-- RESTORE_COMPLETE (R161, R164): the saved state stands in the task's new contexts and windows. -/
def execRestoreComplete (w : BitVec 64) (s : State) : Host.Outcome State Fault Refusal :=
  event (match s.task w with
    | none => s
    | some t =>
      if t.state != .suspSaved || !t.restoring then s
      else
        let off := match t.teams[0]? with
          | some l => ((tget (s.team l).ctxs t.ctx).map (·.offset)).getD 0
          | none => 0
        let s := match tget s.kernels t.kernel with
          | some k => t.saved.foldl (fun (s : State) (c : CoreSave) => s.restoreCore t k off c) s
          | none => s
        s.runAgain w t)

/-! ### Placement (R154 to R160) -/

/-- The tasks whose live window bytes on some teams a window would overlap (R159, R160). -/
def State.overlapped (s : State) (ts : List Nat) (off win self : Nat) : List (BitVec 64) :=
  ts.flatMap fun l => ((s.team l).ctxs.filter fun e =>
    e.1 != self && off * 4096 < e.2.offset * 4096 + min (e.2.live * 256) (e.2.window * 4096) &&
    e.2.offset * 4096 < (off + win) * 4096).map fun e => e.2.wid

/-- Begins the conversion of the least recently run of some resident suspensions (R154, R159). -/
def State.convertOne (s : State) (ws : List (BitVec 64)) : State :=
  let cand := s.tasks.filter fun e => ws.contains e.1 && e.2.state = .suspResident
  if cand.any fun e => e.2.saving then s
  else
    match (sortOn (fun (e : BitVec 64 × Task) => e.2.stoppedAt) cand)[0]? with
    | none => s
    | some e => s.convert e.1

/-- Takes teams, a context number and a window for a task, or begins to free them (R154, R159, R160). -/
def State.placeOn (s : State) (w : BitVec 64) (t : Task) (k : Kernel) (ts : List Nat)
    (go : State → Nat → Nat → State) : State :=
  let held := fun (c : Option Nat) => ts.flatMap fun l =>
    ((s.team l).ctxs.filter fun e => match c with | some n => e.1 = n | none => true).map fun e => e.2.wid
  match s.freeCtx ts t.wantCtx with
  | none => s.convertOne (held t.wantCtx)
  | some c =>
    match s.windowAt ts k.window with
    | none => s.convertOne (held none)
    | some off => go (s.occupy w ts c off k.window) c off

/-- Starts a queued task on its teams (R153, R154). -/
def State.startTask (s : State) (w : BitVec 64) (t : Task) (k : Kernel) (ts : List Nat) (c : Nat) : State :=
  let s := ((List.range ts.length).zip ts).foldl (fun s e =>
    (List.range 16).foldl (fun s q =>
      s.setCtx (ctxKey e.2 q c) (startCtx t.argBuf e.1 q t.teamsN e.2 c k.entry)) s) s
  s.modTask w fun x => { x with state := .running, teams := ts, ctx := c, runSince := s.t, placedAt := s.nextPlace,
                                ended := [], arrived := [], pps := [] }

/-- TASK_PLACEMENT (R154 to R160): the task is placed, resumed or its restore begun, where the order of the waiting
tasks allows it and its teams are free. -/
def execTaskPlacement (w : BitVec 64) (s : State) : Host.Outcome State Fault Refusal :=
  event (match s.task w with
    | none => s
    | some t =>
      if !t.awaits || !s.part.pstate.running || !s.mayPlace w t then s
      else if !s.fits w t then (if t.urgent then s.urgentCheck t.paddock else s)
      else
        match tget s.kernels t.kernel with
        | none => s
        | some k =>
          match t.state with
          | .suspResident =>
            let off := match t.teams[0]? with
              | some l => ((tget (s.team l).ctxs t.ctx).map (·.offset)).getD 0
              | none => 0
            let rivals := s.overlapped t.teams off k.window t.ctx
            if rivals.isEmpty then
              (t.teams.foldl (fun s l => s.unshelve l t.ctx) s).runAgain w t
            else s.convertOne rivals
          | .suspSaved =>
            match s.teamsFor t with
            | none => s
            | some ts => s.placeOn w t k ts fun s c _ =>
                s.modTask w fun x => { x with restoring := true, teams := ts, ctx := c }
          | _ =>
            match s.teamsFor t with
            | none => s
            | some ts => s.placeOn w t k ts fun s c _ => s.startTask w t k ts c)

/-- PLACEMENT_WAIT_LIMIT (R155): the earliest waiting task of a paddock has waited 10 ms. -/
def execPlacementWaitLimit (pad : Nat) (s : State) : Host.Outcome State Fault Refusal :=
  event (
    let ws := s.tasks.filter fun e => e.2.paddock = pad && e.2.awaits
    match (sortOn (fun (e : BitVec 64 × Task) => e.2.queuedAt) ws)[0]? with
    | none => s
    | some e => s.reach (e.2.queuedAt + 10 * msNs))

/-! ### The end of a task and exceptions (R157, R165 to R167) -/

/-- TASK_END (R157): a rank's stream of instructions has ended; with the last one the task is done. -/
def execTaskEnd (w : BitVec 64) (rank : Nat) (s : State) : Host.Outcome State Fault Refusal :=
  event (match s.task w with
    | none => s
    | some t =>
      match t.teams[rank]? with
      | none => s
      | some l =>
        match s.issuing l with
        | none => s
        | some (w', _, _) =>
          if w' != w then s
          else
            let s := s.modTask w fun x => { x with ended := insNat rank x.ended }
            if (List.range t.teamsN).all fun r => r = rank || t.ended.contains r then s.finishTask w .done stOk 0#32
            else
              match t.preempt, s.task w with
              | some p, some t' => if t'.allStopped then s.suspend w t' p else s
              | _, _ => s)

/-- Whether a cause is one of Table 5-8 (R165). -/
def causeOk (c : Nat) : Bool := (1 ≤ c && c ≤ 9) || (0x10 ≤ c && c ≤ 0x14)

/-- The task that an exception of a team fails: the running one, or one whose save is being written there
(R169). -/
def State.exposed (s : State) (l : Nat) : Option (BitVec 64 × Task × Nat) :=
  match s.activeOn l with
  | some x => some x
  | none => ((s.team l).ctxs.filterMap fun e =>
      match s.task e.2.wid with
      | some t => if t.saving then some (e.2.wid, t, t.teams.idxOf l) else none
      | none => none)[0]?

/-- An exception of a team (R165 to R167); a hardware fault of a team without a task fails the team alone. -/
def State.teamTrap (s : State) (k : Site) (cause addr : Nat) (more : List (Nat × Nat × Nat × Nat))
    (dirty : List (BitVec 64)) : State :=
  if 320 ≤ k.team || 16 ≤ k.core || !causeOk cause then s
  else
    match s.exposed k.team with
    | none => if hwCause cause then s.failTeam k.team dirty else s
    | some (w, t, r) =>
      let ok := more.filter fun m => m.1 < t.teams.length && m.2.1 < 16 && causeOk m.2.2.1
      (s.modCtx (ctxKey k.team k.core t.ctx) fun x => { x with pc := k.pc }).raise w r k.core cause addr ok dirty

/-- TEAM_EXCEPTION (R165, R166): `more` holds the rank, core, cause and address of exceptions that other teams raise
before they are stopped, `dirty` the resident suspensions that do not read out clean from a failed team (R167). -/
def execTeamException (k : Site) (cause addr : Nat) (more : List (Nat × Nat × Nat × Nat))
    (dirty : List (BitVec 64)) (s : State) : Host.Outcome State Fault Refusal :=
  event (s.teamTrap k cause addr more dirty)

/-- TIME_LIMIT (R164 to R166): the running time of a task has reached its limit. -/
def execTimeLimit (w : BitVec 64) (rank core : Nat) (s : State) : Host.Outcome State Fault Refusal :=
  event (match s.task w with
    | none => s
    | some t =>
      if t.state != .running || t.timeLimit = 0 || 16 ≤ core then s
      else (s.reach (t.runSince + t.timeLimit * msNs - t.ranNs)).raise w rank core 0x08 0)

/-- ARRAY_ACK (R22, R165): a slice has not acknowledged an array step within 100 us. -/
def execArrayAck (k : Site) (dirty : List (BitVec 64)) (s : State) : Host.Outcome State Fault Refusal :=
  event (if (s.activeOn k.team).isSome && (s.team k.team).product then s.teamTrap k 0x12 0 [] dirty else s)

/-! ### Kernels (R150 to R152, R170) -/

/-- Reads a pre-emption point entry (Table 5-3). -/
def ppEntry (img : List Byte) (o : Nat) : PpEntry :=
  { pc := BitVec.ofNat 32 (fld img o 4), vlive := BitVec.ofNat 32 (fld img (o + 4) 4),
    slive := BitVec.ofNat 32 (fld img (o + 8) 4), scratch := fld img (o + 12) 2,
    mlive := BitVec.ofNat 8 (fld img (o + 14) 1) }

/-- Checks 1 to 5 of Table 5-4 on an image of `n` bytes: the first that fails. -/
def imageCheck (img : List Byte) (n : Nat) : Option (BitVec 16) :=
  let f := fld img
  let il := f 8 4
  let co := f 12 4
  let cl := f 16 4
  let po := f 20 4
  let pc := f 24 2
  let mn := f 26 2
  let mx := f 28 2
  let win := f 30 1
  let pps := (List.range pc).map fun i => ppEntry img (po + 16 * i)
  if n < 512 || f 0 4 ≠ 0x314B5647 || f 4 2 ≠ 0x0960 || f 6 2 ≠ 1 then some stBadImage
  else if il ≠ n || 1310720 < il || co % 256 ≠ 0 || co < 256 || cl % 256 ≠ 0 || 1048576 < cl || il < co + cl ||
      po % 16 ≠ 0 || po < 256 || pc < 1 || 4096 < pc || il < po + 16 * pc || mn < 1 || 320 < mn || mx < mn ||
      320 < mx || win < 1 || 32 < win || f 32 4 < 1 || 1048576 < f 32 4 || cl ≤ f 36 4 || 4096 < f 40 2 then
    some stBadImage
  else if f 31 1 / 4 ≠ 0 || (slice img 42 6).any (· != 0#8) || (slice img 96 160).any (· != 0#8) ||
      (List.range pc).any (fun i => f (po + 16 * i + 15) 1 ≠ 0) then some stBadReserved
  else if sha384 (slice img 256 (il - 256)) ≠ slice img 48 48 then some stImageDigest
  else if !(rising (pps.map fun e => e.pc.toNat)) || pps.any (fun e => cl ≤ e.pc.toNat || win * 16 < e.scratch) then
    some stBadImage
  else none

/-- The kernel of an image whose checks hold. -/
def kernelOf (img : List Byte) (pad : Nat) (qs code : List Nat) : Kernel :=
  let f := fld img
  { paddock := pad, teamsMin := f 26 2, teamsMax := f 28 2, window := f 30 1, nativeRng := bitAt (f 31 1) 0,
    array := bitAt (f 31 1) 1, ppMaxSteps := f 32 4, entry := BitVec.ofNat 32 (f 36 4), argsLength := f 40 2,
    codeLength := f 16 4, pps := (List.range (f 24 2)).map fun i => ppEntry img (f 20 4 + 16 * i), quarters := qs,
    code := code, unloading := false }

/-- Copies code into each quarter of a list (R152): every copy or none. -/
def State.placeCode (s : State) (pad : Nat) (code : List Byte) : List Nat → Except Err (List Nat × State)
  | [] => .ok ([], s)
  | q :: qs =>
    match s.allocate { owner := pad, tier := .basin, near := true, die := q, len := code.length, persist := false,
                       moored := false, sys := true } with
    | .error _ => fail stQuota
    | .ok (a, s1) =>
      match (s1.store a code).placeCode pad code qs with
      | .error e => .error e
      | .ok (as, s2) => .ok (a :: as, s2)

/-- KERNEL_LOAD of either level. -/
def State.kernelLoad (s : State) (c : Cmd) (qs : List Nat) : Except Err State := do
  need (!c.mgmt) stNotPermitted
  let n := c.u32 8
  let (img, _) ← s.readBuf c (c.u64 0) (min n 1310721)
  match imageCheck img n with
  | some st => fail st
  | none =>
    need ((s.kernels.filter fun e => e.2.paddock = c.pad).length < 256 && s.kernels.length < 1024) stKernelLimit
    let (code, s1) ← s.placeCode c.pad (slice img (fld img 12 4) (fld img 16 4)) qs
    let (h, s2) := s1.pick (fun k => thas s1.kernels k) 1 (2 ^ 32 - 1)
    let hd := h.getD 1
    .ok ({ s2 with kernels := tput s2.kernels hd (kernelOf img c.pad qs code) }.ok c hd)

/-- KERNEL_LOAD: a copy in every quarter that holds a team of the allotment. -/
def kernelLoadBody (c : Cmd) (s : State) : Except Err State :=
  s.kernelLoad c ((List.range 4).filter fun q => (s.allotment c.pad).any fun l => s.physOf l / 84 = q)

/-- KERNEL_LOAD, expert: copies in the quarters of the mask. -/
def kernelLoadExpertBody (c : Cmd) (s : State) : Except Err State := do
  need (c.u32 12 % 16 ≠ 0) stBadParam
  s.kernelLoad c ((List.range 4).filter fun q => bitAt (c.u32 12) q)

/-- A kernel of the caller's paddock. -/
def State.kernelOf (s : State) (c : Cmd) (h : Nat) : Except Err Kernel :=
  match tget s.kernels h with
  | some k => if k.paddock = c.pad then .ok k else fail stBadHandle
  | none => fail stBadHandle

/-- KERNEL_UNLOAD. -/
def kernelUnloadBody (c : Cmd) (s : State) : Except Err State := do
  let k ← s.kernelOf c (c.u32 0)
  need (!s.kernelUsed (c.u32 0)) stKernelInUse
  .ok ((s.dropKernel (c.u32 0) k).ok c)

/-- KERNEL_UNLOAD, expert: with WAIT it completes once the last task that uses the kernel has ended. -/
def kernelUnloadExpertBody (c : Cmd) (s : State) : Except Err State := do
  let k ← s.kernelOf c (c.u32 0)
  need (c.flag 4 || !s.kernelUsed (c.u32 0)) stKernelInUse
  if s.kernelUsed (c.u32 0) then
    .ok ({ s with kernels := tput s.kernels (c.u32 0) { k with unloading := true } }.wait c.w (.unload (c.u32 0)))
  else .ok ((s.dropKernel (c.u32 0) k).ok c)

/-! ### Launch (R153 to R155, R161, R170) -/

/-- The next place in the order of dispatch (R155). -/
def State.nextOrder (s : State) : Nat := s.tasks.foldl (fun m e => max m e.2.order) 0 + 1

/-- The parameters of a launch. -/
structure LaunchReq where
  /-- kernel handle -/
  kernel : Nat
  /-- TEAMS -/
  teams : Nat
  /-- argument block address -/
  args : Nat
  /-- team mask -/
  mask : List Nat
  /-- context, 0xFF for any -/
  ctx : Nat
  /-- CLASS -/
  cls : Nat
  /-- GRACE, us -/
  grace : Nat
  /-- TIME_LIMIT, ms -/
  limit : Nat
  /-- SAVE_TIER -/
  saveTier : Nat
  /-- exception buffer, 0 for none -/
  excBuf : Nat
deriving DecidableEq, Repr

/-- The save area of a task: the Basin first, else HBM4 where the launch allows it (R161). -/
def State.saveArea (s : State) (pad len : Nat) (basinOnly : Bool) : Except Err (Nat × Tier × State) :=
  let req := fun (t : Tier) => s.allocate { owner := pad, tier := t, near := true, die := s.homeDie pad, len := len,
                                             persist := false, moored := false, sys := true }
  match req .basin with
  | .ok (a, s') => .ok (a, .basin, s')
  | .error _ =>
    if basinOnly then fail stQuota
    else
      match req .hbm with
      | .ok (a, s') => .ok (a, .hbm, s')
      | .error _ => fail stQuota

/-- A new task's record: QUEUED (R157). -/
def newTask (pad : Nat) (q : LaunchReq) (argBuf area : Nat) (tier : Tier) (now order : Nat) : Task :=
  { paddock := pad, kernel := q.kernel, teamsN := q.teams, state := .queued, teams := [], ctx := 0,
    argBuf := argBuf, argSrc := q.args, mask := if q.mask.isEmpty then none else some q.mask,
    wantCtx := if q.ctx = 0xFF then none else some q.ctx, urgent := q.cls = 1, grace := q.grace,
    timeLimit := q.limit, saveArea := area, saveTier := tier, excBuf := BitVec.ofNat 64 q.excBuf, queuedAt := now,
    stoppedAt := 0, order := order, placedAt := 0, ranNs := 0, runSince := 0, preempts := 0, preempt := none, arrived := [],
    atWait := [], pps := [], ended := [], saving := false, restoring := false, saved := [], victim := false,
    held := false, resumeBy := none, poisonStores := 0, drops := 0#64, infs := 0#64, nans := 0#64, excs := [],
    withdrawn := [], withdrawnBars := [], bufs := if argBuf = 0 then [] else [argBuf], resumeMask := none,
    loopModel := none }

/-- TASK_LAUNCH of either level: the task is QUEUED, and its launch completes at its end (R153 to R155, R171). -/
def State.taskLaunch (s : State) (c : Cmd) (q : LaunchReq) : Except Err State := do
  need (!c.mgmt) stNotPermitted
  let k ← s.kernelOf c q.kernel
  need (!k.unloading) stBadHandle
  let teams := s.allotment c.pad
  need (k.teamsMin ≤ q.teams && q.teams ≤ k.teamsMax && q.teams ≤ teams.length) stTeamsExceed
  need (100 ≤ q.grace && q.grace ≤ 100000 && q.cls ≤ 1 && q.saveTier ≤ 1 && (q.ctx ≤ 3 || q.ctx = 0xFF)) stBadParam
  need (q.mask.isEmpty || (q.mask.length = q.teams && q.mask.all fun l => teams.contains l)) stNotPermitted
  let (args, _) ← (if k.argsLength = 0 then .ok ([], false) else s.readBuf c q.args k.argsLength)
  let _ ← (if q.excBuf = 0 then .ok (.host 0) else s.resolve c q.excBuf 32 true)
  let (buf, s1) ← (if args.isEmpty then .ok (0, s)
    else match s.allocate { owner := c.pad, tier := .basin, near := true, die := s.homeDie c.pad, len := args.length,
                            persist := false, moored := false, sys := true } with
      | .ok (a, s') => .ok (a, s'.store a args)
      | .error _ => fail stQuota)
  let (area, tier, s2) ← s1.saveArea c.pad (q.teams * 16 * (9216 + k.window * 4096)) (q.saveTier = 1)
  let t := newTask c.pad q buf area tier s.t s.nextOrder
  .ok ({ s2 with tasks := s2.tasks ++ [(c.w, t)] }.urgentCheck c.pad)

/-- TASK_LAUNCH. -/
def taskLaunchBody (c : Cmd) (s : State) : Except Err State :=
  s.taskLaunch c { kernel := c.u32 0, teams := c.u16 4, args := c.u64 8, mask := [], ctx := 0xFF, cls := 0,
                   grace := 2000, limit := 0, saveTier := 0, excBuf := 0 }

/-- TASK_LAUNCH, expert. A mask of zeros names none (log entry 14). -/
def taskLaunchExpertBody (c : Cmd) (s : State) : Except Err State :=
  s.taskLaunch c { kernel := c.u32 0, teams := c.u16 4, args := c.u64 8, mask := maskBits (slice c.p 16 40),
                   ctx := c.u8 56, cls := c.u8 57, grace := c.u32 60, limit := c.u32 64, saveTier := c.u32 68,
                   excBuf := c.u64 72 }

/-! ### Abort, pre-emption and resume (Tables 5-10 and 5-11) -/

/-- TASK_ABORT of either level. -/
def State.taskAbort (s : State) (c : Cmd) : Except Err State :=
  let w := BitVec.ofNat 64 (c.u64 0)
  match s.task w with
  | some t =>
    if !s.ofSession c w then fail stUnknownWork
    else if t.state.final then fail stCancelLate
    else .ok ((s.finishTask w .aborted stTaskAborted 0#32).ok c)
  | none =>
    match s.journal.find? fun j => j.wid = w && (j.opcode = 0x0203#16 || j.opcode = 0x0283#16) with
    | none => fail stUnknownWork
    | some j =>
      if !s.ofSession c w then fail stUnknownWork
      else if j.state = .accepted then .ok ((s.complete w stCancelled).ok c)
      else fail stCancelLate

/-- TASK_ABORT. -/
def taskAbortBody (c : Cmd) (s : State) : Except Err State := s.taskAbort c

/-- TASK_ABORT, expert: the reason is logged with the task. -/
def taskAbortExpertBody (c : Cmd) (s : State) : Except Err State :=
  (s.logEv evCommandReason (padByte c.fn) 0#16 0xFFFF (BitVec.ofNat 64 (c.u64 0)) (leBytes 4 (c.u32 8))).taskAbort c

/-- TASK_PREEMPT of either level (Table 5-10). -/
def State.taskPreempt (s : State) (c : Cmd) (force save : Bool) : Except Err State := do
  let w := BitVec.ofNat 64 (c.u64 0)
  let t ← s.taskOf c w
  need (!t.state.final) stCancelLate
  need (t.state = .running || t.preempt.isSome) stTaskState
  .ok ((s.requestPreempt w force save (some c.w)).modTask w fun x => { x with held := true, victim := false })

/-- TASK_PREEMPT. -/
def taskPreemptBody (c : Cmd) (s : State) : Except Err State := s.taskPreempt c false false

/-- TASK_PREEMPT, expert. -/
def taskPreemptExpertBody (c : Cmd) (s : State) : Except Err State :=
  s.taskPreempt c (c.flag 8) (bitAt (c.u8 8) 1)

/-- TASK_RESUME of either level: the suspended task waits for its teams (R170). -/
def State.taskResume (s : State) (c : Cmd) (mask : Option (List Nat)) : Except Err State := do
  let w := BitVec.ofNat 64 (c.u64 0)
  let t ← s.taskOf c w
  need ((t.state = .suspResident || t.state = .suspSaved) && t.resumeBy.isNone) stTaskState
  let ok := match mask with
    | none => true
    | some m => if t.state = .suspResident && !t.saving then m = t.teams
        else m.length = t.teamsN && m.all fun l => (s.allotment c.pad).contains l
  need ok stNotPermitted
  .ok (s.modTask w fun x => { x with resumeBy := some c.w, resumeMask := mask, queuedAt := s.t,
                                     order := s.nextOrder })

/-- TASK_RESUME. -/
def taskResumeBody (c : Cmd) (s : State) : Except Err State := s.taskResume c none

/-- TASK_RESUME, expert: on the teams of the mask. -/
def taskResumeExpertBody (c : Cmd) (s : State) : Except Err State := s.taskResume c (some (maskBits (slice c.p 8 40)))

/-! ### Queries (Table 5-11) -/

/-- The code of a task state (Table 5-5, in its order). -/
def TaskState.code : TaskState → Nat
  | .queued => 0
  | .running => 1
  | .suspResident => 2
  | .suspSaved => 3
  | .done => 4
  | .failed => 5
  | .aborted => 6

/-- The bytes of a team mask. -/
def teamMask (ts : List Nat) : List Byte := (List.range 40).map fun i =>
  (List.range 8).foldl (fun (a : Byte) b => if ts.contains (8 * i + b) then a ||| (1#8 <<< b) else a) 0#8

/-- The 64-byte record of a task (log entry 11). -/
def State.taskRecord (s : State) (w : BitVec 64) (t : Task) : List Byte :=
  let on := t.state = .running || t.state = .suspResident
  let c := fun (f : Team → BitVec 64) (a : BitVec 64) =>
    if t.state = .running then t.teams.foldl (fun a l => satAdd 64 a (f (s.team l)).toNat) a else a
  leBytes 8 w.toNat ++ leBytes 1 t.state.code ++ leBytes 1 (if t.urgent then 1 else 0) ++
  leBytes 1 (if on then t.ctx else 0xFF) ++ leBytes 1 (if t.saveTier = .hbm then 1 else 0) ++
  leBytes 2 t.teamsN ++ leBytes 2 (min t.preempts 0xFFFF) ++ teamMask (if on then t.teams else []) ++
  leBytes 4 (min (c (·.accDrops) t.drops).toNat (2 ^ 32 - 1)) ++
  leBytes 2 (min (c (·.accInf) t.infs).toNat 0xFFFF) ++ leBytes 2 (min (c (·.accNan) t.nans).toNat 0xFFFF)

/-- TASK_QUERY: the task's record and its exception records among the paddock's last 64. -/
def taskQueryBody (c : Cmd) (s : State) : Except Err State := do
  let w := BitVec.ofNat 64 (c.u64 0)
  let t ← s.taskOf c w
  let excs := (((tget s.paddocks c.pad).map (·.excs)).getD []).filter fun e => e.wid = w
  let s1 ← s.writeBuf c (c.u64 8) (s.taskRecord w t ++ excs.flatMap ExcRec.encode)
  .ok (s1.ok c)

/-- TASK_QUERY, expert: every task of the paddock not in a final state. -/
def taskQueryExpertBody (c : Cmd) (s : State) : Except Err State := do
  need (!c.mgmt) stNotPermitted
  let ts := (s.tasks.filter fun e => e.2.paddock = c.pad && !e.2.state.final).take (c.u32 8)
  let s1 ← s.writeBuf c (c.u64 0) (ts.flatMap fun e => s.taskRecord e.1 e.2)
  .ok (s1.ok c ts.length)

/-- The 8 bytes of a team (log entry 11): state (0 free, 1 running, 2 being replaced, 3 out of service), active
context, resident contexts, and the window offset of each context. -/
def State.teamRecord (s : State) (l : Nat) : List Byte :=
  let t := s.team l
  let st := if !t.inService then 3 else if t.replacing then 2 else if t.active.isSome then 1 else 0
  leBytes 1 st ++ leBytes 1 (t.active.getD 0xFF) ++
  leBytes 1 (sumNat (t.ctxs.map fun e => 2 ^ e.1)) ++ [0#8] ++
  (List.range 4).flatMap fun c => leBytes 1 (((tget t.ctxs c).map (·.offset)).getD 0xFF)

/-- TEAM_QUERY: every team of the allotment. -/
def teamQueryBody (c : Cmd) (s : State) : Except Err State := do
  need (!c.mgmt) stNotPermitted
  let s1 ← s.writeBuf c (c.u64 0) ((s.allotment c.pad).flatMap s.teamRecord)
  .ok (s1.ok c)

/-- TEAM_QUERY, expert: the teams of the mask. -/
def teamQueryExpertBody (c : Cmd) (s : State) : Except Err State := do
  need (!c.mgmt) stNotPermitted
  let m := maskBits (slice c.p 8 40)
  need (m.all fun l => (s.allotment c.pad).contains l) stNotPermitted
  let s1 ← s.writeBuf c (c.u64 0) (m.flatMap s.teamRecord)
  .ok (s1.ok c)

/-! ### Random numbers (R142 to R145) -/

/-- The elements of a fill (R143). -/
def fillWords (key : BitVec 64) (stream subject domain start count form : Nat) (tab : Nat → F32) :
    List (BitVec 32) :=
  ((List.range ((count + 3) / 4)).flatMap fun j =>
    let b := cb4 key (cbCounter (BitVec.ofNat 4 domain) (BitVec.ofNat 28 subject) (BitVec.ofNat 32 stream)
      (BitVec.ofNat 64 (start + j)))
    match form with
    | 0 => b
    | 1 => b.map uniform
    | 2 => normal4 b
    | _ => b.map (tbNormal tab)).take count

/-- RNG_FILL of either level. -/
def State.rngFill (s : State) (c : Cmd) (subject : Nat) (tab : Nat → F32) : Except Err State := do
  let (dom, start, count, form) := (c.u32 20, c.u64 24, c.u32 32, c.u32 36)
  need (form ≤ 3 && start + (count + 3) / 4 ≤ 2 ^ 64 && dom ≤ 15 && subject < 2 ^ 28) stBadParam
  let s1 ← s.writeBuf c (c.u64 0)
    ((fillWords (BitVec.ofNat 64 (c.u64 8)) (c.u32 16) subject dom start count form tab).flatMap
      fun w => leBytes 4 w.toNat)
  .ok (s1.ok c count)

/-- RNG_FILL. -/
def rngFillBody (c : Cmd) (s : State) : Except Err State := s.rngFill c 0 normTable

/-- RNG_FILL, expert: a subject, and a table of 4,097 FP32 values. DESIGN CHOICE (log entry 151): the table buffer is
read before the parameters are checked and whatever FORM is, so a bad table address gives ST_NOT_PERMITTED first, and
a poisoned read of it drops the poison. -/
def rngFillExpertBody (c : Cmd) (s : State) : Except Err State := do
  let a := c.u64 44
  let (tab, _) ← (if a = 0 then .ok ([], false) else s.readBuf c a (4 * 4097))
  s.rngFill c (c.u32 40) (if a = 0 then normTable else fun i => BitVec.ofNat 32 (fld tab (4 * i) 4))

/-- RNG_CHECK of either level: `bad` names the unit that the test finds at fault, the Harbourmaster 0xFFFF (R144). -/
def State.rngCheck (s : State) (c : Cmd) (ts : List Nat) (bad : Option Nat) : State :=
  let busy := fun (l : Nat) => (s.running l).isSome
  let before := match bad with
    | some b => if b = 0xFFFF then [] else ts.filter fun l => l < b
    | none => ts
  let res := (before.filter fun l => !busy l).length + (before.filter busy).length * 2 ^ 16
  match bad with
  | none => s.ok c res
  | some b =>
    if b = 0xFFFF then
      (s.logEv evRngFault (padByte c.fn) stRngFault 0xFFFF c.w).complete c.w stRngFault 0#64 0xFFFF#32
    else if ts.contains b && !busy b && (s.team b).inService && !(s.team b).replacing then
      let s := (s.logEv evRngFault (padByte c.fn) stRngFault b c.w).complete c.w stRngFault (BitVec.ofNat 64 res)
        (BitVec.ofNat 32 b)
      s.failTeam b []
    else s.ok c ((ts.filter fun l => !busy l).length + (ts.filter busy).length * 2 ^ 16)

/-- The enabled teams of an allotment (R144). -/
def State.enabledTeams (s : State) (p : Nat) : List Nat :=
  (s.allotment p).filter fun l => (s.team l).inService && !(s.team l).replacing

/-- RNG_CHECK (R144), opcode 0x0B02. -/
def execRngCheck (w : BitVec 64) (bad : Option Nat) (s : State) : Host.Outcome State Fault Refusal :=
  run 0x0B02 w [] s fun c s => .ok (s.rngCheck c (s.enabledTeams c.pad) bad)

/-- RNG_CHECK, expert (R144), opcode 0x0B82: only the teams of the mask. -/
def execRngCheckExpert (w : BitVec 64) (bad : Option Nat) (s : State) : Host.Outcome State Fault Refusal :=
  run 0x0B82 w [] s fun c s => do
    let m := maskBits (slice c.p 0 40)
    need (m.all fun l => (s.allotment c.pad).contains l) stNotPermitted
    .ok (s.rngCheck c ((s.enabledTeams c.pad).filter fun l => m.contains l) bad)

/-- The native state of a lane of a context: the seed-0 state where none was set (R145). -/
def State.laneState (s : State) (team core ctx lane : Nat) : BitVec 128 :=
  match tget (s.ctx (ctxKey team core ctx)).gen lane with
  | some v => v
  | none => natSeed 0 ctx (laneIndex team core lane)

/-- The checks of RNG_LANE_STATE (R145). A task whose resume has been dispatched counts as running. DESIGN CHOICE (log
entry 150): the spec orders the three statuses nowhere; here ST_NOT_PERMITTED comes first, then ST_BAD_PARAM, then
ST_CONTEXT_RUNNING. -/
def State.laneCheck (s : State) (c : Cmd) : Except Err Unit := do
  let l := c.u16 0
  need ((s.allotment c.pad).contains l) stNotPermitted
  need (c.u8 2 ≤ 15 && c.u8 3 ≤ 3) stBadParam
  need (match tget (s.team l).ctxs (c.u8 3) with
    | none => true
    | some x => match s.task x.wid with
      | some t => t.state != .running && t.resumeBy.isNone && !t.restoring
      | none => true) stContextRunning

/-- The read of RNG_LANE_STATE. -/
def State.laneRead (s : State) (c : Cmd) : Except Err State := do
  s.laneCheck c
  let s1 ← s.writeBuf c (c.u64 4)
    ((List.range 32).flatMap fun j => leBytes 16 (s.laneState (c.u16 0) (c.u8 2) (c.u8 3) j).toNat)
  .ok (s1.ok c)

/-- RNG_LANE_STATE. -/
def rngLaneStateBody (c : Cmd) (s : State) : Except Err State := s.laneRead c

/-- RNG_LANE_STATE, expert: with WRITE the states come from the buffer. A write before the native states of a saved
task are restored is overwritten by the restore, since its context is not held. DESIGN CHOICE (log entry 150): a
poisoned read of the WRITE buffer drops the poison, and its bytes become the states. -/
def rngLaneStateExpertBody (c : Cmd) (s : State) : Except Err State := do
  if c.flag 12 then do
    s.laneCheck c
    let (bs, _) ← s.readBuf c (c.u64 4) 512
    .ok ((s.modCtx (ctxKey (c.u16 0) (c.u8 2) (c.u8 3)) fun x =>
      { x with gen := (List.range 32).map fun j => (j, natFix (BitVec.ofNat 128 (fld bs (16 * j) 16))) }).ok c)
  else s.laneRead c

end Sys2Proof.Machine
end

