-- ==== Sys2Proof/Machine/Generation.lean ====
section
/-! DEFINITION. The generation commands (Table 8-11) and events (R257 to R289). -/

namespace Sys2Proof.Machine

open Sys2Proof

/-! ### Models (R247 to R250) -/

/-- Whether a tier address names `n` bytes of an allocation of a paddock in a tier. -/
def State.padRange (s : State) (pad a n : Nat) (tier : Tier) : Bool :=
  match s.allocAt a with
  | some e => e.2.owner = pad && e.2.tier = tier && rangeIn a n e && !e.2.sys
  | none => false

/-- A model of a descriptor (Table 8-1). -/
def modelOf (d : List Byte) (pad : Nat) : Model :=
  { paddock := pad, weights := BitVec.ofNat 64 (fld d 0 8), weightsLen := fld d 8 8, pool := BitVec.ofNat 64 (fld d 16 8),
    berthCount := fld d 24 4, vocab := fld d 28 4, layers := fld d 32 2, moe := fld d 34 2, kvHeads := fld d 36 2,
    headDim := fld d 38 2, kfmt := fld d 40 1, vfmt := fld d 41 1, topk := fld d 42 1, invariant := bitAt (fld d 43 1) 0,
    experts := fld d 44 2, version := BitVec.ofNat 32 (fld d 48 4), capacity := fld d 52 4,
    parkArea := BitVec.ofNat 64 (fld d 56 8), parkSlots := fld d 64 4, far := BitVec.ofNat 16 (fld d 68 2),
    near := BitVec.ofNat 8 (fld d 70 1), sink := BitVec.ofNat 8 (fld d 71 1), vscale := slice d 80 256, turn := none, drain := [], drainBy := none, remount := none, remountStep := 0, remountOld := none, remounts := 0,
    drainNs := 0, resumeNs := 0, drainFrom := 0 }

/-- Whether the fields of a descriptor lie in their ranges and its reserved bytes are 0 (R247). -/
def descRanges (d : List Byte) (m : Model) : Bool :=
  1 ≤ m.berthCount && m.berthCount ≤ 16777215 && 2 ≤ m.vocab && m.vocab ≤ 1048576 && 1 ≤ m.layers && m.layers ≤ 256 &&
  m.moe ≤ m.layers && 1 ≤ m.kvHeads && m.kvHeads ≤ 64 && 64 ≤ m.headDim && m.headDim ≤ 256 && m.headDim % 32 = 0 &&
  m.kfmt ≤ 3 && m.vfmt ≤ 1 && (if m.moe = 0 then m.topk = 0 else 1 ≤ m.topk && m.topk ≤ 16) && fld d 43 1 ≤ 1 &&
  1 ≤ m.experts && m.experts ≤ 32768 && 32 ≤ m.capacity && m.capacity ≤ 65536 && m.capacity % 32 = 0 &&
  (m.far.toNat ≤ 4095 || m.far = 0xFFFF#16) && 1 ≤ m.near.toNat && m.near.toNat ≤ 64 && m.sink.toNat ≤ 4 &&
  (m.vfmt = 0 || (m.vscale.take m.layers).all fun v => v != 0xFF#8) &&
  (slice d 46 2 ++ slice d 72 8 ++ slice d 384 128).all fun b => b = 0#8

/-- Whether WEIGHTS names a sealed NVW region that a paddock may read, or an HBM4 allocation of it (R247). -/
def State.weightsIn (s : State) (m : Model) : Bool :=
  match s.allocAt m.weights.toNat with
  | some e => rangeIn m.weights.toNat m.weightsLen e && !e.2.sys &&
      match e.2.tier with
      | .nvw => e.2.nvw = .sealed && mayRead m.paddock e.2
      | .hbm => e.2.owner = m.paddock
      | _ => false
  | none => false

/-- The lowest model number that is free (R247). -/
def State.freeModel (s : State) : Except Err Nat :=
  want (leastFree (fun k => thas s.gen.models k) 0 16) stModelLimit

/-- GEN_MODEL_REGISTER of either level (R247, R248). -/
def State.modelRegister (s : State) (c : Cmd) (owner wanted : Nat) : Except Err State := do
  need (thas s.paddocks owner) stNotPermitted
  let quota := ((tget s.paddocks owner).map (·.models)).getD 0
  need (s.gen.models.length < 16 && (s.gen.models.filter fun e => e.2.paddock = owner).length < quota) stModelLimit
  let (d, _) ← s.readBuf c (c.u64 0) 512
  let m := modelOf d owner
  need (descRanges d m && s.weightsIn m && s.padRange owner m.pool.toNat (m.berthCount * m.berthBytes) .hbm &&
    (m.parkArea = 0#64 || s.padRange owner m.parkArea.toNat (m.parkSlots * m.berthBytes) .park)) stBadModel
  let digest := slice d 336 48
  let sealed := match s.allocAt m.weights.toNat with
    | some e => if e.2.tier = .nvw then some e.2.digest else none
    | none => none
  need (digest.all (fun b => b = 0#8) || sealed.isNone || sealed = some digest) stImageDigest
  let n ← (if wanted = 0xFFFFFFFF then s.freeModel else if wanted < 16 && !thas s.gen.models wanted then .ok wanted
    else fail stBadParam)
  .ok ({ s with gen := { s.gen with models := tput s.gen.models n m } }.ok c n)

/-- GEN_MODEL_REGISTER. -/
def genModelRegisterBody (c : Cmd) (s : State) : Except Err State := s.modelRegister c c.pad 0xFFFFFFFF

/-- GEN_MODEL_REGISTER, expert: another owner only on the management session. -/
def genModelRegisterExpertBody (c : Cmd) (s : State) : Except Err State := do
  need (c.mgmt || c.u32 12 = c.pad) stNotPermitted
  s.modelRegister c (c.u32 12) (c.u32 8)

/-- A model of the caller's paddock. -/
def State.ownModel (s : State) (c : Cmd) (m : Nat) : Except Err Model :=
  match tget s.gen.models m with
  | some md => if md.paddock = c.pad then .ok md else fail stBadParam
  | none => fail stBadParam

/-- GEN_MODEL_RELEASE (R249). -/
def genModelReleaseBody (c : Cmd) (s : State) : Except Err State := do
  let _ ← s.ownModel c (c.u32 0)
  need (s.modelUnused (c.u32 0)) stModelInUse
  .ok ((s.dropModel (c.u32 0)).ok c)

/-- GEN_MODEL_RELEASE, expert: with WAIT it completes once the model is unused. -/
def genModelReleaseExpertBody (c : Cmd) (s : State) : Except Err State := do
  let _ ← s.ownModel c (c.u32 0)
  need (c.flag 4 || s.modelUnused (c.u32 0)) stModelInUse
  .ok (s.wait c.w (.modelFree (c.u32 0)))

/-! ### Adapters (R251) -/

/-- GEN_ADAPTER_LOAD of either level. -/
def State.adapterLoad (s : State) (c : Cmd) (fmt : Nat) : Except Err State := do
  let m ← s.ownModel c (c.u32 0)
  let rank := c.u32 4
  need (1 ≤ rank && rank ≤ 256 && fmt ≤ 1 && (fmt = 0 || rank % 32 = 0)) stBadParam
  need (s.padRange m.paddock (c.u64 8) 1 .hbm) stNotPermitted
  let quota := ((tget s.paddocks m.paddock).map (·.adapters)).getD 0
  need (s.gen.adapters.length < 4096 && (s.gen.adapters.filter fun e => e.2.paddock = m.paddock).length < quota)
    stAdapterLimit
  let h ← want (leastFree (fun k => thas s.gen.adapters k) 0 4096) stAdapterLimit
  let a : Adapter := { paddock := m.paddock, model := c.u32 0, rank := rank, fmt := fmt, addr := BitVec.ofNat 64 (c.u64 8) }
  .ok ({ s with gen := { s.gen with adapters := tput s.gen.adapters h a } }.ok c h)

/-- GEN_ADAPTER_LOAD: BF16. -/
def genAdapterLoadBody (c : Cmd) (s : State) : Except Err State := s.adapterLoad c 0

/-- GEN_ADAPTER_LOAD, expert. -/
def genAdapterLoadExpertBody (c : Cmd) (s : State) : Except Err State := s.adapterLoad c (c.u32 16)

/-- GEN_ADAPTER_UNLOAD of either level. -/
def State.adapterUnload (s : State) (c : Cmd) (wait : Bool) : Except Err State :=
  match tget s.gen.adapters (c.u32 0) with
  | none => fail stBadHandle
  | some a =>
    if a.paddock != c.pad then fail stBadHandle
    else if s.adapterUsed (c.u32 0) && !wait then fail stAdapterInUse
    else .ok (s.wait c.w (.adapterFree (c.u32 0)))

/-- GEN_ADAPTER_UNLOAD. -/
def genAdapterUnloadBody (c : Cmd) (s : State) : Except Err State := s.adapterUnload c false

/-- GEN_ADAPTER_UNLOAD, expert: with WAIT it completes once no live entry names the adapter. -/
def genAdapterUnloadExpertBody (c : Cmd) (s : State) : Except Err State := s.adapterUnload c (c.flag 4)

/-! ### Rollout rings (R273, R276) -/

/-- GEN_RING_CREATE of either level. -/
def State.ringCreate (s : State) (c : Cmd) (low : Nat) : Except Err State := do
  need (!c.mgmt) stNotPermitted
  let n := c.u32 8
  need (1024 ≤ n && n ≤ 67108864 && 2 ^ n.log2 = n) stBadParam
  let l ← s.resolve c (c.u64 0) (256 + 32 * n) true
  need (match l with
    | .host _ => true
    | .part a _ => s.padRange c.pad a (256 + 32 * n) .hbm) stBadParam
  need (s.gen.rings.length < 512 && (s.gen.rings.filter fun e => e.2.paddock = c.pad).length < 64) stQuota
  let (h, s1) := s.pick (fun k => thas s.gen.rings k) 1 65535
  let hd := h.getD 1
  let g : RRing :=
    { paddock := c.pad, fn := c.fn, addr := BitVec.ofNat 64 (c.u64 0), host := (match l with | .host _ => true | _ => false),
      records := n, write := 0, read := 0, lowWater := low, below := n < low, held := [] }
  let s2 : State := { s1 with gen := { s1.gen with rings := tput s1.gen.rings hd g } }
  .ok ((s2.ringStore g 0 (List.replicate 16 0#8)).ok c hd)

/-- GEN_RING_CREATE. -/
def genRingCreateBody (c : Cmd) (s : State) : Except Err State := s.ringCreate c 0

/-- GEN_RING_CREATE, expert: an event is logged when room falls below LOW_WATER. -/
def genRingCreateExpertBody (c : Cmd) (s : State) : Except Err State := s.ringCreate c (c.u32 12)

/-- GEN_RING_ADVANCE of either level: READ_INDEX moves, held records follow, automatic releases apply where no loop
runs (R275, R276). -/
def State.ringAdvance (s : State) (c : Cmd) : Except Err State := do
  let h := c.u32 0
  let g ← want (tget s.gen.rings h) stBadHandle
  need (g.paddock = c.pad) stBadHandle
  need (g.read ≤ c.u64 4 && c.u64 4 ≤ g.write) stBadParam
  let s := s.modRRing h fun x => { x with read := c.u64 4 }
  let s := ((s.ringStore g 8 (leBytes 8 (c.u64 4))).watchRoom h).flushRing h
  .ok (s.gen.models.foldl (fun s e => s.genIdle e.1) s)

/-- GEN_RING_ADVANCE. -/
def genRingAdvanceBody (c : Cmd) (s : State) : Except Err State := do
  let s ← s.ringAdvance c
  .ok (s.ok c)

/-- GEN_RING_ADVANCE, expert: also waits until WRITE_INDEX reaches WAIT_FOR. -/
def genRingAdvanceExpertBody (c : Cmd) (s : State) : Except Err State := do
  let s ← s.ringAdvance c
  .ok (s.wait c.w (.ringAdv (c.u32 0) (c.u64 12)))

/-! ### Loops (R257, R258, R289) -/

/-- What GEN_LOOP_START asks for (Table 8-13). -/
structure LoopReq where
  /-- team mask -/
  mask : List Nat
  /-- members -/
  members : List (BitVec 16)
  /-- SEQ_LIMIT -/
  seqLimit : Nat
  /-- TOKEN_BUDGET -/
  budget : Nat
  /-- PREFILL_CHUNK -/
  chunk : Nat
  /-- list buffers, 0 for Iluvo's own -/
  lists : Nat
deriving DecidableEq, Repr

/-- A new barrier of EXPECT 1 for a loop. -/
def State.loopBarrier (s : State) (pad : Nat) : Except Err (Nat × State) := do
  need ((s.barriers.filter fun e => e.2.paddock = pad).length < 4096 && s.barriers.length < 32768) stBarrierLimit
  let (h, s1) := s.pick (fun k => s.basin.barriersMade.contains k) 1 (2 ^ 32 - 1)
  let hd := h.getD 1
  let b : Barrier := { paddock := pad, expect := 1, phase := 0, count := 0, next := 0, drains := [], autoRearm := false,
                       arrs := [], waitTasks := [], waitCmds := [] }
  .ok (hd, { s1 with barriers := tput s1.barriers hd b
                     basin := { s1.basin with barriersMade := insNat hd s1.basin.barriersMade } })

/-- The list buffers of a loop: the caller's, in HBM4 or the Basin, or Iluvo's (R258). -/
def State.listBuffers (s : State) (pad at0 seqLimit : Nat) : Except Err (Nat × Bool × State) :=
  let n := 2 * listBytes seqLimit
  if at0 != 0 then
    if s.padRange pad at0 n .hbm || s.padRange pad at0 n .basin then .ok (at0, false, s) else fail stBadParam
  else
    match s.allocate { owner := pad, tier := .hbm, near := false, die := 0, len := n, persist := false, moored := false,
                       sys := true } with
    | .ok (a, s') => .ok (a, true, s')
    | .error _ => fail stQuota

/-- A new loop's record. -/
def newLoop (w : BitVec 64) (pad kernel : Nat) (leader : Bool) (q : LoopReq) (buf : Nat) (own : Bool) (ready done : Nat) :
    Loop :=
  { wid := w, paddock := pad, kernel := kernel, leader := leader, members := q.members, seqLimit := q.seqLimit,
    tokenBudget := q.budget, prefillChunk := q.chunk, listBuf := buf, listOwn := own, ready := ready, sampleDone := done,
    step := 0, items := [], listed := false, version := 0#32, grants := [], stopping := [], savedBy := [],
    reads := [], rounds := [],
    stepsRun := 0, itemsRun := 0, tokensRun := 0, dropped := 0, spilled := 0, skipped := 0, autoParks := 0, evictions := 0 }

/-- Makes a loop on this part, as its leader or as a member: the list buffers, the save area, the two barriers and the
kernel's task (R257, R264). -/
def State.makeLoop (s : State) (w : BitVec 64) (pad m kh : Nat) (k : Kernel) (n : Nat) (leader : Bool) (q : LoopReq) :
    Except Err State := do
  let (buf, own, s1) ← s.listBuffers pad q.lists q.seqLimit
  let (area, tier, s2) ← s1.saveArea pad (n * 16 * (9216 + k.window * 4096)) false
  let (r, s3) ← s2.loopBarrier pad
  let (d, s4) ← s3.loopBarrier pad
  let lq : LaunchReq := { kernel := kh, teams := n, args := 0, mask := q.mask, ctx := 0xFF, cls := 0, grace := 2000,
                          limit := 0, saveTier := 0, excBuf := 0 }
  let t := { newTask pad lq 0 area tier s.t s.nextOrder with loopModel := some m }
  let s5 : State := { s4 with
    tasks := (s4.tasks.filter fun e => e.1 != w) ++ [(w, t)]
    gen := { s4.gen with loops := tput s4.gen.loops m (newLoop w pad kh leader q buf own r d) } }
  .ok (s5.modModel m fun x => { x with turn := some .generating })

/-- GEN_LOOP_START of either level: the kernel's task is launched, the barriers made, and list 0 built (R257, R258,
R260). The members are other parts, each named once (Table 8-13). -/
def State.loopStart (s : State) (c : Cmd) (q : LoopReq) : Except Err State := do
  need (!c.mgmt) stNotPermitted
  let m := c.u32 0
  let md ← s.ownModel c m
  need (!thas s.gen.loops m && s.gen.loops.length < 16) stBadParam
  need (1 ≤ q.seqLimit && q.seqLimit ≤ 32768 && 1 ≤ q.budget && q.budget ≤ 524288 && 1 ≤ q.chunk && q.chunk ≤ 65536)
    stBadParam
  need (q.members.eraseDups.length = q.members.length && !q.members.contains s.part.partId) stBadParam
  let k ← s.kernelOf c (c.u32 4)
  need (!k.unloading) stBadHandle
  let teams := s.allotment c.pad
  let n := c.u32 8
  need (k.teamsMin ≤ n && n ≤ k.teamsMax && n ≤ teams.length) stTeamsExceed
  need (q.mask.isEmpty || (q.mask.length = n && q.mask.all fun l => teams.contains l)) stNotPermitted
  let s1 ← s.makeLoop c.w c.pad m (c.u32 4) k n true q
  let s2 := match s1.layoutOf m with
    | some (h, l) => (match l.active with | some k => s1.writeSlot h k | none => s1)
    | none => s1
  let s3 := match tget s2.gen.loops m with
    | some l => s2.tellMembers m l (.start s.part.partId (c.u32 4) n q.mask md.berthCount q.seqLimit q.budget q.chunk)
    | none => s2
  .ok (s3.build m 0)

/-- GEN_LOOP_START: the defaults of Table 8-13. -/
def genLoopStartBody (c : Cmd) (s : State) : Except Err State :=
  s.loopStart c { mask := [], members := [], seqLimit := 32768, budget := 65536, chunk := 8192, lists := 0 }

/-- GEN_LOOP_START, expert. -/
def genLoopStartExpertBody (c : Cmd) (s : State) : Except Err State :=
  s.loopStart c
    { mask := maskBits (slice c.p 16 40),
      members := ((List.range 7).map fun i => BitVec.ofNat 16 (c.u16 (56 + 2 * i))).filter fun p => p != 0#16,
      seqLimit := c.u32 72, budget := c.u32 76, chunk := c.u32 80, lists := c.u64 84 }

/-- GEN_LOOP_STOP of either level: a model that is DRAINED loses its loop at once, its suspended task aborted (R347);
FORCE aborts the step, and the stops that waited complete with it (R289). While the model is DRAINING, which leaves by
the drain alone (Table 10-8), either form waits for the drain (log entry 162). -/
def State.loopStop (s : State) (c : Cmd) (force : Bool) : Except Err State := do
  let m := c.u32 0
  let md ← s.ownModel c m
  let l ← want (tget s.gen.loops m) stBadParam
  let s1 := s.modLoop m fun x => { x with stopping := x.stopping ++ [c.w] }
  if md.turn = some .drained || (force && md.turn = some .generating) then .ok (s1.endLoop m stOk .aborted)
  else if md.turn = some .generating && !l.listed then .ok (s1.endLoop m stOk)
  else .ok s1

/-- GEN_LOOP_STOP. -/
def genLoopStopBody (c : Cmd) (s : State) : Except Err State := s.loopStop c false

/-- GEN_LOOP_STOP, expert. -/
def genLoopStopExpertBody (c : Cmd) (s : State) : Except Err State := s.loopStop c (c.flag 4)

/-- The 128 bytes of a loop (log entry 11): steps, items, tokens, dropped and spilled items, skips, auto-parks,
evictions, free berths and slots. -/
def State.loopRecord (s : State) (m : Nat) (l : Loop) : List Byte :=
  slice ([l.stepsRun, l.itemsRun, l.tokensRun, l.dropped, l.spilled, l.skipped, l.autoParks, l.evictions,
    s.berthsFree m, s.slotsFree m].flatMap fun v => leBytes 8 v) 0 128

/-- GEN_LOOP_QUERY. -/
def genLoopQueryBody (c : Cmd) (s : State) : Except Err State := do
  let _ ← s.ownModel c (c.u32 0)
  let l ← want (tget s.gen.loops (c.u32 0)) stBadParam
  let s1 ← s.writeBuf c (c.u64 4) (s.loopRecord (c.u32 0) l)
  .ok (s1.ok c)

/-- GEN_LOOP_QUERY, expert: one record per running loop of the paddock. -/
def genLoopQueryExpertBody (c : Cmd) (s : State) : Except Err State := do
  let ls := s.gen.loops.filter fun e => e.2.paddock = c.pad
  let s1 ← s.writeBuf c (c.u64 0) (ls.flatMap fun e => s.loopRecord e.1 e.2)
  .ok (s1.ok c)

/-! ### Admission (R253, R254, R290) -/

/-- The fields of an admission. -/
structure Admit where
  /-- ADAPTER -/
  adapter : Nat
  /-- TOP_K -/
  topK : Nat
  /-- TOP_P -/
  topP : BitVec 32
  /-- STOP -/
  stop : List (BitVec 32)
  /-- CTX_LIMIT -/
  ctx : Nat
  /-- PRIORITY -/
  prio : Nat
  /-- FLAGS -/
  flags : Nat
  /-- FAR -/
  far : Nat
  /-- NEAR -/
  near : Nat
  /-- SINK -/
  sink : Nat
  /-- PARK_TTL -/
  ttl : Nat
  /-- SEQ_BUF, 0 to allocate -/
  buf : Nat
  /-- USER -/
  user : List Byte
deriving DecidableEq, Repr

/-- Whether an FP32 code is a finite nonnegative value. -/
def fpNonneg (c : BitVec 32) : Bool :=
  match fv c with
  | .fin s m _ => !s || m = 0
  | _ => false

/-- Whether the parameters of an admission lie in their ranges (Table 8-2, R290). -/
def State.admitOk (s : State) (c : Cmd) (m : Model) (q : Admit) : Bool :=
  let plen := c.u32 12
  c.u32 0 != 0xFFFFFFFF && 1 ≤ plen && 1 ≤ q.ctx && q.ctx ≤ 4194304 && plen ≤ q.ctx &&
  (q.ctx + 127) / 128 ≤ m.berthCount && fpNonneg (BitVec.ofNat 32 (c.u32 36)) &&
  fpNonneg q.topP && q.topP.toNat ≤ 0x3F800000 && q.topP != 0#32 && q.topP != 0x80000000#32 && q.topK ≤ 65536 &&
  q.prio ≤ 3 && q.flags &&& 0x0E = 0 && (q.far ≤ 4095 || q.far = 0xFFFF) && 1 ≤ q.near && q.near ≤ 64 && q.sink ≤ 4 &&
  (q.adapter = 0xFFFF || match tget s.gen.adapters q.adapter with
    | some a => a.paddock = c.pad && a.model = c.u32 4
    | none => false)

/-- The sequence buffer of an admission: the caller's, or one that Iluvo allocates (R256). -/
def State.seqBuffer (s : State) (c : Cmd) (len buf : Nat) : Except Err (Nat × State) :=
  if buf != 0 then (if s.padRange c.pad buf len .hbm then .ok (buf, s) else fail stBadParam)
  else s.allocate { owner := c.pad, tier := .hbm, near := false, die := 0, len := len, persist := true, moored := false,
                    sys := false }

/-- GEN_ADMIT of either level: the lowest FREE entry is written in PREFILL or DECODE, its tokens in TOKENS (R253, R254,
R290). -/
def State.admitSeq (s : State) (c : Cmd) (q : Admit) : Except Err State := do
  need (!c.mgmt) stNotPermitted
  let m ← s.ownModel c (c.u32 4)
  let g ← want (tget s.gen.rings (c.u32 8)) stBadHandle
  need (g.paddock = c.pad) stBadHandle
  need (s.admitOk c m q) stBadParam
  let seq := BitVec.ofNat 32 (c.u32 0)
  let mine := s.gen.manifest.filter fun e => e.2.paddock = c.pad
  need (!mine.any fun e => e.2.seqId = seq) stSeqExists
  let quota := ((tget s.paddocks c.pad).map (·.manifestQuota)).getD 0
  need (mine.length < quota) stManifestFull
  let i ← want (leastFree (fun k => thas s.gen.manifest k) 0 131072) stManifestFull
  let plen := c.u32 12
  let (toks, _) ← s.readBuf c (c.u64 24) (4 * plen)
  let (buf, s1) ← s.seqBuffer c (m.bufLen q.ctx) q.buf
  let serial := s1.gen.admitSerial + 1#64
  let e : Entry :=
    { seqId := seq, state := if 2 ≤ plen then .prefill else .decode, paddock := c.pad, model := c.u32 4,
      adapter := BitVec.ofNat 16 q.adapter, seed := BitVec.ofNat 64 (c.u64 16), admitWid := c.w, admitSerial := serial,
      known := plen, filled := 0, generated := 0, maxNew := c.u32 32, ctxLimit := q.ctx,
      invTemp := BitVec.ofNat 32 (c.u32 36), topP := q.topP, topK := BitVec.ofNat 32 q.topK, stop := q.stop,
      seqBuf := BitVec.ofNat 64 buf, far := BitVec.ofNat 16 q.far, near := BitVec.ofNat 8 q.near,
      sink := BitVec.ofNat 8 q.sink, ring := BitVec.ofNat 16 (c.u32 8), priority := q.prio,
      autoRelease := bitAt q.flags 0, parkNow := false, autoParked := false, evicting := false,
      stopParks := bitAt q.flags 4, version := m.version, admitTime := s.now, deadline := 0#64, stateTime := s.now,
      endStatus := 0#16, skips := 0#16, berthSkips := 0, steps := 0#32, lastWid := c.w, user := q.user,
      parkTtl := BitVec.ofNat 32 q.ttl, map := [], slots := [], termIdx := none }
  let s2 := ({ s1 with gen := { s1.gen with
    manifest := tput s1.gen.manifest i e, admitSerial := serial, bufCtx := tput s1.gen.bufCtx buf q.ctx } } : State).writeManifest i
  .ok ((s2.padStore c.pad (buf + tokOff q.ctx) toks).ok c i)

/-- GEN_ADMIT: the defaults of R290. -/
def genAdmitBody (c : Cmd) (s : State) : Except Err State := do
  let m ← s.ownModel c (c.u32 4)
  s.admitSeq c { adapter := 0xFFFF, topK := 0, topP := 0x3F800000#32, stop := List.replicate 4 0xFFFFFFFF#32,
                 ctx := c.u32 12 + c.u32 32, prio := 1, flags := 1, far := m.far.toNat, near := m.near.toNat,
                 sink := m.sink.toNat, ttl := 0, buf := 0, user := [] }

/-- GEN_ADMIT, expert. -/
def genAdmitExpertBody (c : Cmd) (s : State) : Except Err State :=
  s.admitSeq c { adapter := c.u32 40, topK := c.u32 44, topP := BitVec.ofNat 32 (c.u32 48),
                 stop := (List.range 4).map fun i => BitVec.ofNat 32 (c.u32 (52 + 4 * i)), ctx := c.u32 68, prio := c.u8 72,
                 flags := c.u8 73, far := c.u16 76, near := c.u8 78, sink := c.u8 79, ttl := c.u32 80, buf := c.u64 84,
                 user := slice c.p 92 32 }

/-! ### Commands on a sequence (R254, R281 to R284, R290) -/

/-- The non-FREE entry of the caller's paddock with a SEQ_ID (R254). -/
def State.seqOf (s : State) (c : Cmd) (seq : Nat) : Except Err (Nat × Entry) :=
  want (s.gen.manifest.find? fun e => e.2.paddock = c.pad && e.2.seqId.toNat = seq) stSeqUnknown

/-- A command on a sequence waits for its boundary (R259). -/
def State.seqCmd (s : State) (c : Cmd) (kind arg : Nat) (flag : Bool) (toks : List (BitVec 32)) : Except Err State := do
  let e ← s.seqOf c (c.u32 0)
  .ok (s.queueCmd { wid := c.w, kind := kind, model := e.2.model, entry := e.1, serial := e.2.admitSerial,
                    arg := BitVec.ofNat 64 arg, flag := flag, atNs := s.t, tokens := toks })

/-- GEN_CANCEL. -/
def genCancelBody (c : Cmd) (s : State) : Except Err State := s.seqCmd c 1 0 false []

/-- GEN_CANCEL, expert: the reason is logged. -/
def genCancelExpertBody (c : Cmd) (s : State) : Except Err State := do
  let _ ← s.seqOf c (c.u32 0)
  (s.reason c (c.u32 4)).seqCmd c 1 0 false []

/-- GEN_PARK. -/
def genParkBody (c : Cmd) (s : State) : Except Err State := s.seqCmd c 2 (c.u32 4) false []

/-- GEN_PARK, expert: with PARK_NOW. -/
def genParkExpertBody (c : Cmd) (s : State) : Except Err State := s.seqCmd c 2 (c.u32 4) (c.flag 8) []

/-- GEN_RESUME of either level. -/
def State.seqResume (s : State) (c : Cmd) (maxNew : Nat) : Except Err State := do
  let _ ← s.seqOf c (c.u32 0)
  let n := c.u32 4
  need (n ≤ 65536) stBadParam
  let (bs, _) ← (if n = 0 then .ok ([], false) else s.readBuf c (c.u64 8) (4 * n))
  s.seqCmd c 3 maxNew false ((List.range n).map fun i => BitVec.ofNat 32 (fld bs (4 * i) 4))

/-- GEN_RESUME. -/
def genResumeBody (c : Cmd) (s : State) : Except Err State := s.seqResume c 0

/-- GEN_RESUME, expert: may raise MAX_NEW. -/
def genResumeExpertBody (c : Cmd) (s : State) : Except Err State := s.seqResume c (c.u32 16)

/-- GEN_RELEASE. -/
def genReleaseBody (c : Cmd) (s : State) : Except Err State := s.seqCmd c 4 0 false []

/-- GEN_RELEASE, expert: FREE_BUF also frees the sequence buffer. -/
def genReleaseExpertBody (c : Cmd) (s : State) : Except Err State := s.seqCmd c 4 0 (c.flag 4) []

/-- GEN_QUERY: the 256-byte entry. -/
def genQueryBody (c : Cmd) (s : State) : Except Err State := do
  let e ← s.seqOf c (c.u32 0)
  let s1 ← s.writeBuf c (c.u64 4) e.2.encode
  .ok (s1.ok c)

/-- GEN_QUERY, expert: the entries of a model in the states of a mask. -/
def genQueryExpertBody (c : Cmd) (s : State) : Except Err State := do
  let _ ← s.ownModel c (c.u32 8)
  let es := ((s.entriesOf (c.u32 8)).filter fun e => bitAt (c.u32 12) e.2.state.code).take (c.u32 16)
  let s1 ← s.writeBuf c (c.u64 0) (es.flatMap fun e => e.2.encode)
  .ok (s1.ok c es.length)

/-! ### Events -/

/-- STEP_BOUNDARY (R259). -/
def execStepBoundary (model : Nat) (fwd : List Forward) (s : State) : Host.Outcome State Fault Refusal :=
  event (s.boundary model fwd)

/-- Whether an entry may be auto-parked for a candidate: DECODE, outside the list that was built (R286). -/
def State.parkable (s : State) (m : Nat) (l : Loop) (cand : Nat) : List (Nat × Entry) :=
  (s.entriesOf m).filter fun e => e.2.state = .decode && e.1 != cand && !l.items.any fun i => i.entry = e.1

/-- AUTO_PARK (R286): for a candidate skipped at 8 consecutive boundaries, the DECODE entry of lowest priority and
greatest ADMIT_SERIAL is parked where the parking area has free slots. -/
def execAutoPark (model : Nat) (s : State) : Host.Outcome State Fault Refusal :=
  event (match tget s.gen.loops model, (s.candidates model).find? fun e => 8 ≤ e.2.berthSkips with
    | some l, some (cand, _) =>
      let key := fun (e : Nat × Entry) => e.2.priority * 2 ^ 64 + (2 ^ 64 - e.2.admitSerial.toNat)
      match (sortOn key (s.parkable model l cand))[0]? with
      | none => s
      | some (v, e) =>
        if s.slotsFree model = 0 || s.slotsFree model < e.map.length then s
        else
          let s := s.modEntry v fun x => { x with parkNow := true, autoParked := true, deadline := 0#64 }
          let s := (s.setSeq v .held).startEvict v
          (s.modEntry cand fun x => { x with berthSkips := 0 }).modLoop model fun x => { x with autoParks := x.autoParks + 1 }
    | _, _ => s)

/-- AUTO_RESUME (R284): free berths exceed an auto-parked entry's need; entries in ADMIT_SERIAL order. -/
def execAutoResume (entry : Nat) (s : State) : Host.Outcome State Fault Refusal :=
  event (match tget s.gen.manifest entry with
    | none => s
    | some e =>
      let first := !(s.entriesOf e.model).any fun x => x.2.autoParked && (x.2.state = .held || x.2.state = .parked) &&
        x.2.admitSerial.toNat < e.admitSerial.toNat
      if !e.autoParked || (e.state != .held && e.state != .parked) || !first || s.berthsFree e.model ≤ e.berths then s
      else (s.wake entry e).startFetch entry)

/-- SEQUENCE_EXPIRY (R285): without a running loop, at the deadline of a HELD or PARKED entry. A loop's boundaries
expire its entries themselves. -/
def execSequenceExpiry (entry : Nat) (s : State) : Host.Outcome State Fault Refusal :=
  event (match tget s.gen.manifest entry with
    | none => s
    | some e =>
      if s.looping e.model then s
      else
        let s' := s.reach (e.deadline.toNat + 1)
        if s'.expires entry e s'.t then s'.terminate entry .expired stSeqExpired else s)

/-- EVICTION_COMPLETE (R283): the last commit of an eviction, or its failure. -/
def execEvictionComplete (entry : Nat) (ok : Bool) (s : State) : Host.Outcome State Fault Refusal :=
  event (match tget s.gen.manifest entry with
    | none => s
    | some e =>
      match tget s.gen.models e.model with
      | none => s
      | some m =>
        if !e.evicting then s
        else if !ok || e.slots.any fun x => s.slotLost m x.2 then s.modEntry entry Entry.stopEvict
        else
          let s := (e.map.zip e.slots).foldl (fun s x => s.carry (m.berthAddr x.1.2) (m.slotAddr x.2.2) m.berthBytes) s
          let s := e.slots.foldl (fun s x => s.mapWord e x.1 (2 ^ 31 + x.2)) s
          (s.modEntry entry fun x => { x with map := [], evicting := false }).setSeq entry .parked)

/-- BERTH_FETCH_COMPLETE (R284): the berths of a RESUMING entry are back; it moves on at the next boundary, or at once
where no loop runs. -/
def execBerthFetchComplete (entry : Nat) (s : State) : Host.Outcome State Fault Refusal :=
  event (match tget s.gen.manifest entry with
    | none => s
    | some e =>
      match tget s.gen.models e.model with
      | none => s
      | some m =>
        if e.state != .resuming || e.slots.isEmpty || e.map.length != e.slots.length then s
        else
          let s := (e.slots.zip e.map).foldl (fun s x => s.carry (m.slotAddr x.1.2) (m.berthAddr x.2.2) m.berthBytes) s
          let s := e.map.foldl (fun s x => s.mapWord e x.1 x.2) s
          (s.modEntry entry fun x => { x with slots := [] }).genIdle e.model)

/-- The number under which a member's Iluvo holds its part of a model's loop: beyond every ring's work identifiers
(R56), since no command of this part launched it. -/
def memberWid (m : Nat) : BitVec 64 := BitVec.ofNat 64 (511 * 2 ^ 55 + m)

/-- A member's part of a loop, with the leader's kernel on this part's own teams (R264). DESIGN CHOICE (log entry 161):
without that kernel, those teams or an equal BERTH_COUNT the member makes none. -/
def State.joinLoop (s : State) (m : Nat) (md : Model) (leader : BitVec 16) (kh n : Nat) (mask : List Nat)
    (berths seqLimit budget chunk : Nat) : State :=
  match tget s.kernels kh with
  | none => s
  | some k =>
    let teams := s.allotment md.paddock
    if thas s.gen.loops m || berths != md.berthCount || k.paddock != md.paddock || n < k.teamsMin || k.teamsMax < n ||
       teams.length < n || !mask.all fun l => teams.contains l then s
    else
      match s.makeLoop (memberWid m) md.paddock m kh k n false
        { mask := mask, members := [leader], seqLimit := seqLimit, budget := budget, chunk := chunk, lists := 0 } with
      | .ok s' => s'
      | .error _ => s

/-- A member receives a work list: the slot of its version becomes ACTIVE, the grants are written into the member's own
BERTH_MAPs, and LIST_READY is reached there (R264). -/
def State.takeList (s : State) (m : Nat) (md : Model) (l : Loop) (list : List Byte) : State :=
  let n := fld list 0 8
  let items := fld list 12 4
  let bufOf := fun (e : Nat) => (List.range items).findSome? fun i =>
    if fld list (256 + 64 * i) 4 = e then some (fld list (256 + 64 * i + 40) 8) else none
  let s := s.store (l.listBuf + n % 2 * listBytes l.seqLimit) list
  let s := (List.range (fld list 20 4)).foldl (fun s i =>
    let o := 256 + 64 * items + 16 * i
    match bufOf (fld list o 4) with
    | some b => s.padStore md.paddock (b + 4 * fld list (o + 4) 4) (leBytes 4 (fld list (o + 8) 4))
    | none => s) s
  let v : BitVec 32 := BitVec.ofNat 32 (fld list 8 4)
  let s := (s.followVersion m v).modLoop m fun x => { x with step := n, version := v, listed := true }
  s.arrive l.ready

/-- What a loop message does on the part that receives it (R264, R345, R347, R360). -/
def State.takeNews (s : State) (m : Nat) (md : Model) (l : Loop) : LoopNews → State
  | .start .. => s
  | .list bytes => if l.leader then s else s.takeList m md l bytes
  | .drain =>
    if l.leader then s
    else
      let s := (s.modLoop m fun x => { x with listed := false }).modModel m fun x =>
        { x with turn := some .draining, drainFrom := s.t }
      s.stopLoopTask l.wid
  | .resume mask =>
    if l.leader then s
    else
      let s := s.modModel m fun x => { x with turn := some .generating }
      s.freeLoopTask l.wid mask
  | .stop forced => if l.leader then s else s.endLoop m stOk (if forced then .aborted else .done)
  | .saved part => if l.leader then s.modLoop m fun x => { x with savedBy := x.savedBy ++ [part] } else s

/-- LIST_FORWARD_ARRIVAL (R264): a work list, or another message of the loop, reaches this part. -/
def execListForwardArrival (model : Nat) (news : LoopNews) (s : State) : Host.Outcome State Fault Refusal :=
  event (match tget s.gen.models model, news with
    | none, _ => s
    | some md, .start leader kh n mask berths sl b ch => s.joinLoop model md leader kh n mask berths sl b ch
    | some md, n =>
      match tget s.gen.loops model with
      | some l => s.takeNews model md l n
      | none => s)

end Sys2Proof.Machine
end

