-- ==== Sys2Proof/Machine/Learn.lean ====
section
/-! DEFINITION. The learning commands and events (R292 to R333, R423). -/

namespace Sys2Proof.Machine

open Sys2Proof

/-! ### Parameter sets (R313, R314) -/

/-- A group descriptor (Table 9-2). -/
def groupOfDesc (d : List Byte) : PGroup :=
  { param := fld d 0 8, m1 := fld d 8 8, m2 := fld d 16 8, rf := fld d 24 8, cf := fld d 32 8, g8 := fld d 40 8,
    copy := fld d 48 8, base := fld d 56 8, elements := fld d 64 8, rows := fld d 72 4, cols := fld d 76 4,
    rule := fld d 80 1, m1fmt := fld d 81 1, m2fmt := fld d 82 1, copyfmt := fld d 83 1, copySr := bitAt (fld d 84 1) 0,
    micro := fld d 85 1, stream := BitVec.ofNat 32 (fld d 88 4), subject := BitVec.ofNat 28 (fld d 92 4),
    lr := BitVec.ofNat 32 (fld d 96 4), wd := BitVec.ofNat 32 (fld d 100 4), b1 := BitVec.ofNat 32 (fld d 104 4),
    b2 := BitVec.ofNat 32 (fld d 108 4), eps := BitVec.ofNat 32 (fld d 112 4) }

/-- The moment formats that a rule takes (Table 9-3). -/
def PGroup.momentsOk (g : PGroup) : Bool :=
  let one := g.m1fmt = 1 || g.m1fmt = 2
  match g.rule with
  | 0 => g.m1fmt = 0 && g.m2fmt = 0
  | 1 => one && g.m2fmt = 0
  | 2 => one && g.m2fmt = 0
  | 3 => one && (g.m2fmt = 1 || g.m2fmt = 2)
  | 4 => g.m1fmt ≤ 2 && g.m2fmt = 0
  | 5 => one && g.m2fmt = 0
  | 6 => one && g.m2fmt = 0
  | 7 => g.m1fmt ≤ 2 && g.m2fmt ≤ 2
  | _ => false

/-- Whether a group is FACTORED-shaped (R323). -/
def PGroup.factored (g : PGroup) : Bool := g.rows != 0 && g.cols != 0

/-- The bytes of a compute copy. -/
def PGroup.copyLen (g : PGroup) : Nat :=
  if g.copyfmt = 6 then 2 * g.elements else roundUp (g.elements * copyBits g.copyfmt / 8) 256 + g.elements / 32

/-- The arrays of a group: address and bytes. RF and CF are a FACTORED group's; in a MICRO group they may be 0 where its
program loads none (Tables 9-2 and 9-3). -/
def PGroup.arrays (g : PGroup) : List (Nat × Nat) :=
  [(g.param, 4 * g.elements), (g.g8, roundUp g.elements 256 + g.elements / 32)] ++
  (if g.m1fmt = 0 then [] else [(g.m1, momBytes g.m1fmt * g.elements)]) ++
  (if g.m2fmt = 0 then [] else [(g.m2, momBytes g.m2fmt * g.elements)]) ++
  (if g.factored && (g.rule = 4 || g.rf != 0) then [(g.rf, 4 * g.rows)] else []) ++
  (if g.factored && (g.rule = 4 || g.cf != 0) then [(g.cf, 4 * g.cols)] else []) ++
  if g.copyfmt = 0 then [] else [(g.copy, g.copyLen)]

/-- The rules of Table 9-2 and Table 9-3 on one descriptor, its arrays apart. -/
def State.descOk (s : State) (pad : Nat) (d : List Byte) (g : PGroup) : Bool :=
  g.rule ≤ 7 && g.momentsOk && g.copyfmt ≤ 6 && fld d 84 1 ≤ 1 && fld d 86 2 = 0 && fld d 92 4 < 2 ^ 28 &&
  fld d 116 8 = 0 && fld d 124 4 = 0 && g.base % 32 = 0 && 32 ≤ g.elements && g.elements ≤ 2 ^ 36 && g.elements % 32 = 0 &&
  (g.m1fmt != 0 || g.m1 = 0) && (g.m2fmt != 0 || g.m2 = 0) && (g.copyfmt != 0 || g.copy = 0) &&
  (if g.rule = 4 || (g.rule = 7 && g.factored) then
      1 ≤ g.rows && g.rows ≤ 2 ^ 24 && 1 ≤ g.cols && g.cols ≤ 65536 && g.rows * g.cols = g.elements
    else g.rows = 0 && g.cols = 0 && g.rf = 0 && g.cf = 0) &&
  (if g.rule = 7 then (match tget s.learn.micros g.micro with | some m => m.paddock = pad | none => false) else g.micro = 0)

/-- Whether no two groups share a byte of any array. -/
def groupsApart (gs : List PGroup) : Bool :=
  let rs := (gs.zip (List.range gs.length)).flatMap fun g => g.1.arrays.map fun r => (g.2, r)
  rs.all fun a => rs.all fun b => a.1 = b.1 || a.2.1 + a.2.2 ≤ b.2.1 || b.2.1 + b.2.2 ≤ a.2.1

/-- A group of Traces of the caller's paddock. -/
def State.learnGroup (s : State) (c : Cmd) (g : Nat) : Except Err TGroup := s.groupOf c.pad g

/-- LEARN_SET_REGISTER of either level. -/
def State.setRegister (s : State) (c : Cmd) (step0 : Nat) : Except Err State := do
  need (!c.mgmt) stNotPermitted
  let n := c.u32 8
  need (1 ≤ n && n ≤ 65536) stBadParam
  let _ ← s.learnGroup c (c.u32 12)
  let (bs, _) ← s.readBuf c (c.u64 0) (128 * n)
  let ds := (List.range n).map fun i => slice bs (128 * i) 128
  let gs := ds.map groupOfDesc
  need ((ds.zip gs).all fun x => s.descOk c.pad x.1 x.2) stBadParamset
  need (gs.all fun g => g.arrays.all fun r => match s.ownRange c r.1 r.2 [.hbm] with
    | .ok _ => true
    | .error _ => false) stBadParamset
  need (groupsApart gs) stBadParamset
  let mine := s.learn.sets.filter fun e => e.2.paddock = c.pad
  let size := fun (gs : List PGroup) => sumNat (gs.map fun g => if g.rule = 4 then g.rows + g.cols else 0)
  need (mine.length < 4 && s.learn.sets.length < 32 &&
    sumNat (s.learn.sets.map fun e => size e.2.groups) + size gs ≤ 4194304) stSetLimit
  let (h, s1) := s.pick (fun k => thas s.learn.sets k) 1 (2 ^ 32 - 1)
  let hd := h.getD 1
  let l : LSet :=
    { paddock := c.pad, groups := gs, normGroup := BitVec.ofNat 32 (c.u32 12), step := step0, state := .accumulating,
      buckets := [], rowAcc := [], colAcc := [], norm := 0#32, gmul := 0#32, nonfinite := false, seed := 0#64, lrMul := 0#32,
      inv := [], sweepBy := 0#64, spansDone := [], updated := 0, skipped := 0, skipList := [], restored := true,
      emitted := false, stash := [], bucketsDone := 0, naBlocks := 0 }
  .ok (({ s1 with learn := { s1.learn with sets := tput s1.learn.sets hd l } } : State).ok c hd)

/-- LEARN_SET_REGISTER: STEP0 is 0. -/
def learnSetRegisterBody (c : Cmd) (s : State) : Except Err State := s.setRegister c 0

/-- LEARN_SET_REGISTER, expert: STEP0. -/
def learnSetRegisterExpertBody (c : Cmd) (s : State) : Except Err State := s.setRegister c (c.u64 16)

/-- A set of the caller's paddock (R332). -/
def State.ownSet (s : State) (c : Cmd) (h : Nat) : Except Err LSet :=
  match tget s.learn.sets h with
  | some l => if l.paddock = c.pad then .ok l else fail stBadHandle
  | none => fail stBadHandle

/-- LEARN_SET_RELEASE (R331). -/
def learnSetReleaseBody (c : Cmd) (s : State) : Except Err State := do
  let h := c.u32 0
  let l ← s.ownSet c h
  need (!s.setUsed h l) stSetInUse
  .ok (({ s with learn := { s.learn with sets := tdel s.learn.sets h } } : State).ok c)

/-- LEARN_SET_RELEASE, expert: with WAIT it completes after the last user ends. -/
def learnSetReleaseExpertBody (c : Cmd) (s : State) : Except Err State := do
  let _ ← s.ownSet c (c.u32 0)
  if c.flag 4 then .ok (s.wait c.w (.setFree (c.u32 0))) else learnSetReleaseBody c s

/-! ### Exchanges (R304 to R307) -/

/-- LEARN_EXCHANGE of either level: the bucket pass reads GACC and RIN, which like ROUT resolve under R212; ROUT is
written once every member is known to agree (R303, R304). -/
def State.learnExchange (s : State) (c : Cmd) (timeout : Nat) : Except Err State := do
  let h := c.u32 0
  let l ← s.ownSet c h
  let g ← s.learnGroup c (c.u32 4)
  let n := g.members.length
  let e := c.u64 16
  let pg ← want (l.groups[c.u32 12]?) stBadParam
  need (c.u32 8 ≤ 65535 && 32 * n ≤ e && e ≤ 2 ^ 36 && e % (32 * n) = 0 && c.u64 48 % 32 = 0 &&
    c.u64 48 + e / n ≤ pg.elements) stBadParam
  need (l.state = .accumulating) stSweepState
  let gl ← s.resolve c (c.u64 24) (4 * e) false
  let rl ← s.resolve c (c.u64 32) (2 * e) false
  let ol ← s.resolve c (c.u64 40) (2 * e) true
  let shape := chainDigest [BitVec.ofNat 32 h, BitVec.ofNat 32 (c.u32 8), BitVec.ofNat 32 e, BitVec.ofNat 32 (e / 2 ^ 32)]
  let op := { newColl c.w c.pad (BitVec.ofNat 32 (c.u32 4)) 9 s.t g.rank with shape := shape, count := e }
  let s1 ← s.startColl op g none timeout
  if (s1.collOf c.w).isNone then .ok s1
  else
    let (gb, gp) := s.readLoc c gl (4 * e)
    let (rb, rp) := s.readLoc c rl (2 * e)
    let (stage, res) := bucketPass e gb rb
    let bad := (List.range (e / 32)).filter fun b => s.locPoisoned gl (128 * b) 128 gp || s.locPoisoned rl (64 * b) 64 rp
    let na := ((List.range (e / 32)).filter fun b => fld stage (33 * b + 32) 1 = 0xFF).length
    let x : Exch :=
      { wid := c.w, norm := false, set := h, bucket := c.u32 8, destGroup := c.u32 12, e := e, destElem := c.u64 48,
        stage := stage, routTo := (match ol with | .host a => (some c.fn, a) | .part a _ => (none, a)), residuals := res,
        begun := false, rows := [], cols := [], record := [],
        na := na, sq := Acc.reset, bad := bad, poisoned := bad.length, gscale := 0#32, maxNorm := 0#32, after := [] }
    .ok (({ s1 with learn := { s1.learn with exchs := s1.learn.exchs ++ [x] } } : State).greet op.wid)

/-- LEARN_EXCHANGE. -/
def learnExchangeBody (c : Cmd) (s : State) : Except Err State := s.learnExchange c 0

/-- LEARN_EXCHANGE, expert: its own timeout. -/
def learnExchangeExpertBody (c : Cmd) (s : State) : Except Err State := s.learnExchange c (c.u32 56)

/-- The operation of an exchange or a norm whose transport has ended, with its group. -/
def State.exchMoved (s : State) (w : BitVec 64) (norm : Bool) : Option (Exch × Coll × TGroup) :=
  match s.learn.exchs.find? fun x => x.wid = w && x.norm = norm, s.collOf w with
  | some e, some c =>
    match tget s.trace.groups c.group.toNat with
    | some g => if s.collMoved c g then some (e, c, g) else none
    | none => none
  | _, _ => none

/-- EXCHANGE_COMPLETE (R306, R307): the bucket's square sum takes its place in the set. -/
def execExchangeComplete (w : BitVec 64) (s : State) : Host.Outcome State Fault Refusal :=
  event (match s.exchMoved w false with
    | none => s
    | some (e, _, _) =>
      let s := s.modSet e.set fun l => { l with
        buckets := tput l.buckets e.bucket { sq := e.sq, rows := e.rows, cols := e.cols }, bucketsDone := l.bucketsDone + 1, naBlocks := l.naBlocks + e.na }
      if e.poisoned = 0 then s.endColl w stOk e.e e.na else s.endColl w stDataPoisoned e.e e.poisoned)

/-! ### The norm (R308, R309) -/

/-- LEARN_NORM. -/
def learnNormBody (c : Cmd) (s : State) : Except Err State := do
  let h := c.u32 0
  let l ← s.ownSet c h
  need (l.state = .accumulating) stSweepState
  let g ← s.learnGroup c l.normGroup.toNat
  let op := { newColl c.w c.pad l.normGroup 10 s.t g.rank with shape := chainDigest [10#32] }
  let s1 ← s.startColl op g none 0
  if (s1.collOf c.w).isNone then .ok s1
  else
    let x : Exch :=
      { wid := c.w, norm := true, set := h, bucket := 0, destGroup := 0, e := 0, destElem := 0, stage := [],
        routTo := (none, 0), residuals := [], begun := false, rows := [], cols := [], record := [], na := 0, sq := Acc.reset, bad := [], poisoned := 0, gscale := BitVec.ofNat 32 (c.u32 4), maxNorm := BitVec.ofNat 32 (c.u32 8),
        after := (s.learn.exchs.filter fun y => y.set = h && !y.norm).map (·.wid) }
    .ok { s1 with learn := { s1.learn with exchs := s1.learn.exchs ++ [x] } }

/-- LEARN_NORM, expert: with RESET the step is abandoned, once the exchanges of the set dispatched earlier have ended
(R309). -/
def learnNormExpertBody (c : Cmd) (s : State) : Except Err State := do
  let l ← s.ownSet c (c.u32 0)
  if c.flag 12 then do
    need (l.state = .accumulating || l.state = .normed) stSweepState
    .ok (s.wait c.w (.normReset (c.u32 0) ((s.learn.exchs.filter fun y => y.set = c.u32 0 && !y.norm).map (·.wid))))
  else learnNormBody c s

/-- NORM_COMPLETE (R308): every member's record is in; the norm and gmul are fixed, or the members differ. -/
def execNormComplete (w : BitVec 64) (s : State) : Host.Outcome State Fault Refusal :=
  event (match s.exchMoved w true with
    | none => s
    | some (e, c, _) =>
      let recs := e.record :: c.contrib.map (·.data)
      if !recs.all fun r => slice r 64 8 = slice e.record 64 8 then s.endColl w stBadParam 0 0
      else
        let acc := (recs.map fun r => Acc.ofEp64 (slice r 0 64)).foldl Acc.merge Acc.reset
        let r := normOf acc e.gscale e.maxNorm
        let s := s.modSet e.set fun l => { l.closeBuckets with
          state := .normed, norm := r.1, gmul := r.2.1, nonfinite := r.2.2 }
        s.endColl w stOk (r.1.toNat + r.2.1.toNat * 2 ^ 32) acc.drops.toNat)

/-! ### The sweep (R319, R325 to R328, R423) -/

/-- Whether the program of a MICRO group reads or stores an array that its descriptor gives as 0 (R323, R324). -/
def State.microBad (s : State) (g : PGroup) : Bool :=
  g.rule = 7 && match tget s.learn.micros g.micro with
    | none => true
    | some m =>
      m.loads.any (fun a => (a = 2 && g.m1fmt = 0) || (a = 3 && g.m2fmt = 0) || (a = 5 && g.rf = 0) || (a = 6 && g.cf = 0) ||
        (5 ≤ a && !g.factored)) ||
      m.stores.any fun a => (a = 2 && g.m1fmt = 0) || (a = 3 && g.m2fmt = 0) || (a = 4 && g.copyfmt = 0)

/-- Updates the factors of the FACTORED groups that have not been updated in the sweep, after stashing them (R319,
R423). -/
def State.updateFactors (s : State) (h : Nat) : State :=
  match tget s.learn.sets h with
  | none => s
  | some l => (l.groups.zip (List.range l.groups.length)).foldl (fun s g =>
      if g.1.rule != 4 || thas l.inv g.2 then s
      else
        let old := [(g.1.rf, s.bytes g.1.rf (4 * g.1.rows)), (g.1.cf, s.bytes g.1.cf (4 * g.1.cols))]
        (s.modSet h fun x => { x with stash := x.stash ++ [(g.2, none, old)] }).factorUpdate h l g.2 g.1) s

/-- Whether every span of a set is done. -/
def LSet.swept (l : LSet) : Bool :=
  (l.groups.zip (List.range l.groups.length)).all fun g => (List.range g.1.spans).all fun k => l.spansDone.contains (g.2, k)

/-- Once every span of a sweep is done, its moored cells go to their collectors: the sweep is one epoch (R321, R430). -/
def State.emitSweep (s : State) (h : Nat) : State :=
  match tget s.learn.sets h with
  | none => s
  | some l =>
    if l.state != .sweeping || l.emitted || !l.swept then s
    else (s.modSet h fun x => { x with emitted := true }).sweepEpoch l.paddock

/-- A sweep begins (R326). `seed` none is the step number. -/
def State.beginSweep (s : State) (c : Cmd) (l : LSet) (seed : Option Nat) : Except Err State := do
  let h := c.u32 0
  need (l.state = .normed) stSweepState
  if l.nonfinite then
    let s1 := (s.modSet h LSet.abandon).modPaddock c.pad fun p => { p with sweepsNonfinite := p.sweepsNonfinite + 1#64 }
    .ok (s1.complete c.w stNonfiniteGrad)
  else do
    need (!l.groups.any s.microBad) stBadParamset
    let s1 := s.modSet h fun x => { x with
      state := .sweeping, seed := BitVec.ofNat 64 (seed.getD (x.step + 1)), lrMul := BitVec.ofNat 32 (c.u32 4), inv := []
      sweepBy := c.w, spansDone := [], updated := 0, skipped := 0, skipList := [], restored := true, emitted := false
      stash := [] }
    .ok (s1.updateFactors h)

/-- LEARN_SWEEP. -/
def learnSweepBody (c : Cmd) (s : State) : Except Err State := do
  let l ← s.ownSet c (c.u32 0)
  s.beginSweep c l none

/-- LEARN_SWEEP, expert: a SEED, or RESUME of an interrupted sweep whose mixed spans have been restored. -/
def learnSweepExpertBody (c : Cmd) (s : State) : Except Err State := do
  let h := c.u32 0
  let l ← s.ownSet c h
  if c.flag 16 then do
    need (l.state = .interrupted && l.restored) stSweepState
    let s1 := s.modSet h fun x => { x with state := .sweeping, sweepBy := c.w }
    .ok ((s1.updateFactors h).emitSweep h)
  else s.beginSweep c l (some (c.u64 8))

/-- The set that a sweep command runs on. -/
def State.sweepOf (s : State) (w : BitVec 64) : Option (Nat × LSet) :=
  s.learn.sets.find? fun e => e.2.state = .sweeping && e.2.sweepBy = w

/-- The spans that a unit may have in flight: those of the 64 after its progress word that are not done (R315, R328). -/
def State.inFlight (s : State) (l : LSet) (u : Nat) : List (Nat × Nat) :=
  (((s.unitSpans l u).drop (s.progressOf l u)).take 64).filter fun x => !l.spansDone.contains x

/-- The old bytes of a span as the stash keeps them. -/
def State.stashOf (s : State) (g : PGroup) (k : Nat) : List (Nat × List Byte) :=
  (s.spanWrites g k).map fun r => (r.1, s.bytes r.1 r.2)

/-- UPDATE_SPAN_DONE (R321, R327): a span in flight is done, its moored bytes in the mooring's staging; a span that reads a poisoned line is skipped. The stash keeps
a span until its unit's progress word has passed it (R423). -/
def execUpdateSpanDone (w : BitVec 64) (group span : Nat) (s : State) : Host.Outcome State Fault Refusal :=
  event (match s.sweepOf w with
    | none => s
    | some (h, l) =>
      match l.groups[group]? with
      | none => s
      | some g =>
        let u := s.unitOf g span
        if !(s.inFlight l u).contains (group, span) then s
        else if s.spanPoisoned g span then
          (s.modSet h fun x => { x with
            spansDone := x.spansDone ++ [(group, span)], skipped := x.skipped + 1
            skipList := x.skipList ++ [(group, span)] }).emitSweep h
        else
          let done := l.spansDone ++ [(group, span)]
          let past := (s.unitSpans l u).takeWhile fun x => done.contains x
          let stash := (l.stash ++ [(group, some span, s.stashOf g span)]).filter fun e =>
            match e.2.1 with
            | some k => !past.contains (e.1, k)
            | none => true
          ((((s.updateSpan l group g span).stageMoored g span).modSet h fun x => { x with
            spansDone := done, stash := stash, updated := x.updated + g.spanLen span })).emitSweep h)

/-- SWEEP_COMPLETE (R321, R326, R327, R430): every span is done, the moored cells have gone out, and the mooring engine
acknowledges the last contribution. -/
def execSweepComplete (w : BitVec 64) (s : State) : Host.Outcome State Fault Refusal :=
  event (match s.sweepOf w with
    | none => s
    | some (h, l) =>
      if !l.emitted then s
      else
        let s := s.modSet h fun x => { x with
          state := .accumulating, step := x.step + 1, rowAcc := [], colAcc := [], stash := [], bucketsDone := 0, naBlocks := 0 }
        let s := s.modPaddock l.paddock fun p => { p with sweeps := p.sweeps + 1#64 }
        s.complete w (if l.skipped = 0 then stOk else stDataPoisoned) (BitVec.ofNat 64 l.updated)
          (BitVec.ofNat 32 (min l.skipped (2 ^ 32 - 1))))

/-- A span that was in flight at an interruption: the stash has its old bytes, and each of its lines holds the old or the
new bytes, which is a free value (R202, R328). -/
def State.mixSpan (s : State) (h gi k : Nat) : State :=
  match tget s.learn.sets h with
  | none => s
  | some l =>
    match l.groups[gi]? with
    | none => s
    | some g =>
      if s.spanPoisoned g k then s
      else
        let old := s.stashOf g k
        let s := (s.modSet h fun x => { x with stash := x.stash ++ [(gi, some k, old)] }).updateSpan l gi g k
        old.foldl (fun s r => (cuts 0 r.2.length 256).foldl (fun s x =>
          let (v, s) := s.draw
          if v.getLsbD 0 then s else s.store (r.1 + x.1) (slice r.2 x.1 x.2)) s) s

/-- A sweep becomes INTERRUPTED (R328): its done spans are those that the progress words have passed; RESULT of its
command is their number. -/
def State.interruptSweep (s : State) (h : Nat) : State :=
  match tget s.learn.sets h with
  | none => s
  | some l =>
    if l.state != .sweeping then s
    else
      let past := (List.range 12).flatMap fun u => (s.unitSpans l u).takeWhile fun x => l.spansDone.contains x
      let open_ := (List.range 12).flatMap fun u => s.inFlight l u
      let s := open_.foldl (fun s x => s.mixSpan h x.1 x.2) s
      let skips := l.skipList.filter fun x => past.contains x
      let len := fun (x : Nat × Nat) => ((l.groups[x.1]?).map fun g => g.spanLen x.2).getD 0
      let s := s.modSet h fun x => { x with
        state := .interrupted, spansDone := past, restored := false, skipList := skips, skipped := skips.length
        updated := sumNat ((past.filter fun x => !skips.contains x).map len) }
      s.progress l.sweepBy (BitVec.ofNat 64 past.length)

/-- Interrupts the sweeps of a set and reports it (R328). -/
def State.failSweep (s : State) (h : Nat) : State :=
  match tget s.learn.sets h with
  | none => s
  | some l =>
    let s := s.interruptSweep h
    s.complete l.sweepBy stSweepInterrupted (((s.jrec l.sweepBy).map (·.progress)).getD 0#64)

/-- An update unit faults: it is reset, and retired at the second fault in 24 hours (R423). -/
def State.unitFault (s : State) (u : Nat) : State :=
  let recent := s.t :: (s.unit u).faults.filter fun v => s.t < v + 86400 * secNs
  let x : UUnit := { faults := recent, retired := (s.unit u).retired || 1 < recent.length }
  let s := (s.learn.sets.filter fun e => e.2.state = .sweeping).foldl (fun s e => s.failSweep e.1) s
  let s : State := { s with learn := { s.learn with units := tputD UUnit.reset s.learn.units u x } }
  (s.logEv evUnitFault 0xFF#8 0#16 u).checkDegraded

/-- UNIT_FAULT (R412, R423). -/
def execUnitFault (u : Nat) (s : State) : Host.Outcome State Fault Refusal :=
  event (if u < 12 then s.unitFault u else s)

/-- UNIT_SPAN_TIMEOUT (R412): a span in flight unanswered for 100 µs. -/
def execUnitSpanTimeout (w : BitVec 64) (group span : Nat) (s : State) : Host.Outcome State Fault Refusal :=
  event (match s.sweepOf w with
    | none => s
    | some (_, l) =>
      match l.groups[group]? with
      | none => s
      | some g => if (s.inFlight l (s.unitOf g span)).contains (group, span) then s.unitFault (s.unitOf g span) else s)

/-- STASH_RESTORE (R423): the mixed spans, and the factors of groups with no span completed, get their old bytes back. -/
def execStashRestore (set : Nat) (s : State) : Host.Outcome State Fault Refusal :=
  event (match tget s.learn.sets set with
    | none => s
    | some l =>
      if l.state != .interrupted || l.restored then s
      else
        let back := fun (gi : Nat) => !l.spansDone.any fun x => x.1 = gi
        let s := l.stash.foldl (fun s e =>
          if e.2.1.isSome || back e.1 then e.2.2.foldl (fun s r => s.store r.1 r.2) s else s) s
        s.modSet set fun x => { x with
          restored := true, inv := x.inv.filter fun e => !back e.1
          stash := x.stash.filter fun e => e.2.1.isNone && !back e.1 })

/-! ### Micro-programs (R322 to R324) -/

/-- The test run of a program on 32 records (R332): the scalars and the counter's subject and stream, which nothing
gives, are free values; the BF16 copy takes the place of g. -/
def State.microTest (s : State) (m : Micro) (seed : BitVec 64) (bs : List Byte) : List Byte × State :=
  let (v, s) := s.drawBytes 64
  let f := fun (i : Nat) => BitVec.ofNat 32 (fld v (4 * i) 4)
  let c : Consts := { lr := f 0, wd := f 1, lrwd := f 2, b1 := f 3, b2 := f 4, ob1 := f 5, ob2 := f 6, c1 := f 7, c2 := f 8,
                      eps := f 9, gmul := f 10, t := (f 11).toNat }
  let g : PGroup := { groupOfDesc [] with stream := f 12, subject := (f 13).truncate 28 }
  ((List.range 32).flatMap fun i =>
    let x := fun (k : Nat) => BitVec.ofNat 32 (fld bs (24 * i + 4 * k) 4)
    let st := runMicro m c g seed { g := x 0, p := x 1, m := x 2, v := x 3, rf := x 4, cf := x 5, inv := 0#32, index := i }
    let get := fun (k j : Nat) => ((st.find? fun e => e.1 = k).map (·.2)).getD (x j)
    let copy := match st.find? fun e => e.1 = 4 with
      | some e => (toBf16 .rne e.2).zeroExtend 32
      | none => x 0
    [copy, get 1 1, get 2 2, get 3 3, x 4, x 5].flatMap fun w => leBytes 4 w.toNat, s)

/-- LEARN_MICRO_LOAD of either level: the checks of R322; `buf` is a test buffer, 0 for none. -/
def State.microLoad (s : State) (c : Cmd) (buf : Nat) (seed : BitVec 64) : Except Err State := do
  need (!c.mgmt) stNotPermitted
  let (img, _) ← s.readBuf c (c.u64 0) 384
  need (microOk img) stBadMicro
  need ((s.learn.micros.filter fun e => e.2.paddock = c.pad).length < 32 && s.learn.micros.length < 256) stSetLimit
  let m : Micro := { paddock := c.pad, code := (List.range (fld img 4 2)).map fun i => BitVec.ofNat 32 (fld img (64 + 4 * i) 4),
                     consts := (List.range 16).map fun i => BitVec.ofNat 32 (fld img (320 + 4 * i) 4) }
  let s1 ← (if buf = 0 then .ok s else do
    let (bs, _) ← s.readBuf c buf 768
    let r := s.microTest m seed bs
    r.2.writeBuf c buf r.1)
  let (h, s2) := s1.pick (fun k => thas s1.learn.micros k) 0 256
  let hd := h.getD 0
  .ok (({ s2 with learn := { s2.learn with micros := tput s2.learn.micros hd m } } : State).ok c hd)

/-- LEARN_MICRO_LOAD. -/
def learnMicroLoadBody (c : Cmd) (s : State) : Except Err State := s.microLoad c 0 0#64

/-- LEARN_MICRO_LOAD, expert: the program also runs on a test buffer. -/
def learnMicroLoadExpertBody (c : Cmd) (s : State) : Except Err State :=
  s.microLoad c (c.u64 8) (BitVec.ofNat 64 (c.u64 16))

/-- A micro-program of the caller's paddock. -/
def State.ownMicro (s : State) (c : Cmd) (h : Nat) : Except Err Micro :=
  match tget s.learn.micros h with
  | some m => if m.paddock = c.pad then .ok m else fail stBadHandle
  | none => fail stBadHandle

/-- LEARN_MICRO_UNLOAD (R331). -/
def learnMicroUnloadBody (c : Cmd) (s : State) : Except Err State := do
  let h := c.u32 0
  let _ ← s.ownMicro c h
  need (!s.microUsed h) stSetInUse
  .ok (({ s with learn := { s.learn with micros := tdel s.learn.micros h } } : State).ok c)

/-- LEARN_MICRO_UNLOAD, expert: with WAIT it completes after the last set that names it is released. -/
def learnMicroUnloadExpertBody (c : Cmd) (s : State) : Except Err State := do
  let _ ← s.ownMicro c (c.u32 0)
  if c.flag 4 then .ok (s.wait c.w (.microFree (c.u32 0))) else learnMicroUnloadBody c s

/-! ### Routes (R295) -/

/-- The position of a record that does not match its sequence buffer; none where it does, or has nothing to match. -/
def State.routeFault (s : State) (m : Model) (ctx buf : Nat) (r : List Byte) : Option Nat :=
  let q := fld r 12 4
  if bitAt (fld r 28 1) 5 || q = 0 then none
  else
    let ws := (List.range (m.moe * m.topk)).map fun j =>
      BitVec.ofNat 16 (leNat (s.bytes (buf + routeOff ctx + (q - 1) * m.routeBytes + 2 * j) 2))
    let d := if m.moe = 0 then 0#64 else routeDigest ws
    if q ≤ ctx && d.toNat = fld r 16 8 then none else some q

/-- LEARN_ROUTE_CHECK of either level. -/
def State.routeCheck (s : State) (c : Cmd) (all : Bool) : Except Err State := do
  let m ← (match tget s.gen.models (c.u32 0) with
    | some m => if m.paddock = c.pad then .ok m else fail stBadModel
    | none => fail stBadModel)
  let buf := c.u64 8
  let _ ← s.ownRange c buf 1 [.hbm]
  let ctx ← want (tget s.gen.bufCtx buf) stBadParam
  let n := c.u32 4
  let (bs, _) ← s.readBuf c (c.u64 16) (32 * n)
  let bad := ((List.range n).map fun i => (i, s.routeFault m ctx buf (slice bs (32 * i) 32))).filterMap fun x => x.2.map fun q => (x.1, q)
  match bad with
  | [] => .ok (s.ok c n 0xFFFFFFFF)
  | x :: _ => if all then fail stRouteDigest x.2 (n + bad.length * 2 ^ 32) else fail stRouteDigest x.2 (x.1 + 1)

/-- LEARN_ROUTE_CHECK: up to the first mismatch. -/
def learnRouteCheckBody (c : Cmd) (s : State) : Except Err State := s.routeCheck c false

/-- LEARN_ROUTE_CHECK, expert: with ALL every record. -/
def learnRouteCheckExpertBody (c : Cmd) (s : State) : Except Err State := s.routeCheck c (c.flag 24)

/-! ### Queries (R332, log entry 11) -/

/-- The code of a set's state. -/
def SetState.code : SetState → Nat
  | .accumulating => 0
  | .normed => 1
  | .sweeping => 2
  | .interrupted => 3

/-- LEARN_QUERY. -/
def learnQueryBody (c : Cmd) (s : State) : Except Err State := do
  let l ← s.ownSet c (c.u32 0)
  let s1 ← s.writeBuf c (c.u64 4) (leBytes 4 l.state.code ++ leBytes 4 0 ++ leBytes 8 l.step ++ leBytes 4 l.norm.toNat ++
    leBytes 4 l.gmul.toNat ++ leBytes 8 l.bucketsDone ++ leBytes 8 l.naBlocks ++ leBytes 8 l.skipped ++
    ((List.range 12).flatMap fun u => leBytes 4 (s.progressOf l u)) ++ leBytes 32 0)
  .ok (s1.ok c)

/-- LEARN_QUERY, expert: the paddock's counters. -/
def learnQueryExpertBody (c : Cmd) (s : State) : Except Err State := do
  let p ← want (tget s.paddocks c.pad) stNotPermitted
  let s1 ← s.writeBuf c (c.u64 0) (leBytes 8 p.lpChecked.toNat ++ leBytes 8 p.lpMismatch.toNat ++
    leBytes 8 p.statMismatch.toNat ++ leBytes 8 p.sweeps.toNat ++ leBytes 8 p.sweepsNonfinite.toNat ++ leBytes 24 0)
  .ok (s1.ok c)

end Sys2Proof.Machine
end

