-- ==== Sys2Proof/Machine/Streams.lean ====
section
/-! DEFINITION. Streams, barriers and the Basin: the meanings of the events and the bodies of the commands of
chapter 6 (R178 to R208). -/

namespace Sys2Proof.Machine

open Sys2Proof

/-! ### Commits (R178, R183, R185) -/

/-- The lines of a bind's tile that have landed, in line order. -/
def Bind.tileLines (b : Bind) (tile : Nat) : List (Bool × List Byte) :=
  (sortOn (fun (e : Nat × Nat × Bool × List Byte) => e.2.1) (b.landed.filter fun e => e.1 = tile)).map fun e => e.2.2

/-- Commits a tile of a bound producer whose lines have all landed; a commit that the stream refuses is discarded. -/
def State.commitBound (s : State) (h t : Nat) (st : Stream) (b : Bind) : State :=
  let tile := t - b.base
  let ls := b.tileLines tile
  if t < b.base || ls.length ≠ 64 || b.doneTiles.contains tile then s
  else
    let bad := ls.any fun e => e.1
    let done := fun (x : Bind) => { x with landed := x.landed.filter (fun e => e.1 != tile), doneTiles := insNat tile x.doneTiles }
    if st.refuses t then s.modBind b.wid done
    else (s.commitSlot h t ls).modBind b.wid fun x =>
      { (done x) with moved := x.moved + 1, poisoned := x.poisoned + (if bad then 1 else 0) }

/-- TILE_COMMIT (R178, R183): tile `t` of a stream commits: a team's waiting write, or a tile of the bound producer
all of whose beats have landed, where the ring has credit. -/
def execTileCommit (h t : Nat) (s : State) : Host.Outcome State Fault Refusal :=
  event (match tget s.streams h with
    | none => s
    | some st =>
      if !st.credit t then s
      else
        match st.waiting.find? fun b => b.consumer = 0xFFFF with
        | some b =>
          match b.who with
          | .task w rank =>
            match s.task w with
            | none => s
            | some k =>
              match k.teams[rank]? with
              | none => s
              | some l =>
                if t != st.committed || s.holds l then s
                else
                  let s := s.modStream h fun q => { q with waiting := q.waiting.filter fun x => x.consumer != 0xFFFF }
                  if st.refuses t then s.refuse w rank b.rs
                  else (s.commitBytes h (s.teamTile l k b.off)).answer w rank b.rs
                    (statusWord 1 false false false false false)
          | _ => s
        | none =>
          match st.producer with
          | some (.engine w) =>
            match s.bindOf w with
            | some b => s.commitBound h t st b
            | none => s
          | _ => s)

/-- The end of a consumer bind's burst (R186, R207): its slots are released, and the next burst is asked for. -/
def State.nextBurst (s : State) (b : Bind) : State :=
  let c := b.consumer.getD 0
  let moved := b.moved + b.took
  let s := s.modStream b.handle fun st => st.setCon c (st.con c).release
  let s := s.modBind b.wid fun x => { x with moved := moved, took := 0, issued := [], landed := [], doneTiles := [] }
  if b.tiles ≤ moved || b.gotEnd then s
  else s.modStream b.handle fun st => { st with waiting := st.waiting ++
    [{ consumer := c, n := min b.burst (b.tiles - moved), who := .engine b.wid, rs := 0, rx := 0, off := 0 }] }

/-- A consumer engine writes a delivered burst to the host as posted writes, poisoned lines as poisoned requests
(R193). -/
def State.hostBurst (s : State) (b : Bind) (first : Nat) : State :=
  match tget s.streams b.handle with
  | none => s
  | some st =>
    let s := (List.range b.took).foldl (fun s i =>
      (List.range 64).foldl (fun s j =>
        let a := st.slotAddr (first + i) + 256 * j
        let p := s.poisoned a 256
        (s.hostWrite b.fn (b.lineAddr (b.moved + i) j) (s.bytes a 256) p).modBind b.wid fun x =>
          { x with poisonOut := x.poisonOut || p }) s) s
    match s.bindOf b.wid with
    | some x => s.nextBurst x
    | none => s

/-- BURST_DELIVERY (R184, R185): a waiting burst that the stream can satisfy. -/
def execBurstDelivery (h c : Nat) (s : State) : Host.Outcome State Fault Refusal :=
  event (match tget s.streams h with
    | none => s
    | some st =>
      match st.waiting.find? fun b => b.consumer = c && b.consumer != 0xFFFF with
      | none => s
      | some b =>
        if s.endHolds b.who then s
        else
        match s.deliver h c b.n with
        | (_, none) => s
        | (s', some r) =>
          let s' := s'.modStream h fun q => { q with waiting := q.waiting.filter fun x => x.consumer != c }
          let s' := s'.giveBurst h b r
          match b.who with
          | .engine w =>
            let bad := s'.poisonTiles st r.2.1 r.1
            let s' := s'.modBind w fun x => { x with poisoned := x.poisoned + bad }
            match s'.bindOf w with
            | none => s'
            | some x => if x.host then s'.hostBurst x r.2.1 else if x.took = 0 then s'.nextBurst x else s'
          | _ => s')

/-- POISON_TILE_COMMIT (R185): after an abort the next missing tile commits as poisoned zeros once its slot is
free. -/
def execPoisonTileCommit (h : Nat) (s : State) : Host.Outcome State Fault Refusal :=
  event (match tget s.streams h with
    | none => s
    | some st =>
      let t := st.committed
      if st.state != .aborted || st.poisonLimit ≤ t || !st.credit t then s
      else s.commitSlot h t (List.replicate 64 (true, List.replicate 256 0#8)))

/-! ### Bound engines (R198 to R200, R207) -/

/-- BIND_TRANSFER_END (R207): a producer that has moved its tiles or whose stream has ended, a consumer that has
written its tiles or received END. Reads still outstanding are dropped. -/
def execBindTransferEnd (w : BitVec 64) (s : State) : Host.Outcome State Fault Refusal :=
  event (match s.bindOf w with
    | none => s
    | some b =>
      if s.part.mastersStopped then s else
      let opened := match tget s.streams b.handle with | some st => st.state = .opened | none => false
      let fin := match b.consumer with
        | none => b.tiles ≤ b.doneTiles.length || !opened
        | some _ => b.took = 0 && (b.tiles ≤ b.moved || b.gotEnd)
      if !fin then s
      else
        let s : State := { s with basin := { s.basin with tags := s.basin.tags.map fun (t : TagReq) =>
          if t.wid = w then { t with dropped := true } else t } }
        s.endBind b)

/-- BASIN_SCRUB (R180): the next line of a quarter is read and rewritten; the outcome is 0 no error, 1 a corrected
one, 2 an uncorrectable one. -/
def execBasinScrub (q outcome : Nat) (s : State) : Host.Outcome State Fault Refusal :=
  event (if 4 ≤ q then s
    else
      let p := tgetD 0 s.basin.scrubPos q
      let a := q * 0x20000000 + p * 256
      let s := match outcome with
        | 0 => s
        | 1 => s.basinEcc [(a, false)]
        | _ => s.basinEcc [(a, true)]
      { s with basin := { s.basin with scrubPos := tputD 0 s.basin.scrubPos q ((p + 1) % 0x200000) } })

/-- The request that a line of a bind's tile makes with a tag (R198). -/
def State.lineTag (s : State) (b : Bind) (tile line : Nat) (wr : Bool) (n k : Nat) : TagReq :=
  let a := b.lineAddr tile line
  { tag := n, pool := k, paddock := b.paddock, wid := b.wid, tile := tile, line := line, write := wr,
    park := s.tagPool a = 16,
    dev := (match s.allocAt a with | some e => if e.2.tier = .park then s.parkDev e.2 (a - e.1) else 0 | none => 0),
    issuedAt := s.t, dropped := false }

/-- TRANSACTION_TAG_GRANT (R198, R199): a line of a bind's tile obtains a tag and is issued. A read is asked for a
slot that is free; a write carries the line of a held tile to its tier. -/
def execTransactionTagGrant (w : BitVec 64) (tile line : Nat) (s : State) : Host.Outcome State Fault Refusal :=
  event (match s.bindOf w with
    | none => s
    | some b =>
      match tget s.streams b.handle with
      | none => s
      | some st =>
        let seen := b.issued.contains (tile, line) || b.landed.any (fun e => e.1 = tile && e.2.1 = line) ||
          b.doneTiles.contains tile
        if b.host || 64 ≤ line || seen || s.part.mastersStopped then s
        else
          let a := b.lineAddr tile line
          let issue := fun (s : State) => s.modBind w fun x => { x with issued := x.issued ++ [(tile, line)] }
          match b.consumer with
          | none =>
            if b.tiles ≤ tile || st.state != .opened || !st.credit (b.base + tile) then s
            else match s.takeTag a b.paddock (s.lineTag b tile line false) with | some s' => issue s' | none => s
          | some c =>
            if tile < b.moved || b.moved + b.took ≤ tile then s
            else
              match s.takeTag a b.paddock (s.lineTag b tile line true) with
              | none => s
              | some s' =>
                let src := st.slotAddr ((st.con c).read - (st.con c).held + (tile - b.moved)) + line * 256
                let p := s'.poisoned src 256
                (issue (s'.tierWrite a (s'.bytes src 256) p)).modBind w fun x => { x with poisonOut := x.poisonOut || p })

/-- A read of a bind is answered: the line lands, or is discarded after a master reset (R198, R202). -/
def State.readDone (s : State) (q : TagReq) (errs : List Nat) : State :=
  let s := s.freeTag q.tag
  if q.dropped then s
  else
    match s.bindOf q.wid with
    | none => s
    | some b =>
      let r := s.tierRead (b.lineAddr q.tile q.line) errs
      r.1.lineLanded q.wid q.tile q.line r.2.2 r.2.1

/-- A write of a bind is acknowledged; once every line of the burst is, the burst's slots are released (R186). -/
def State.writeDone (s : State) (q : TagReq) : State :=
  let s := s.freeTag q.tag
  if q.dropped then s
  else
    let s := s.lineLanded q.wid q.tile q.line false []
    match s.bindOf q.wid with
    | none => s
    | some b => if b.took != 0 && b.landed.length = 64 * b.took then s.nextBurst b else s

/-- TIER_READ_RESPONSE (R198): a line arrives from HBM4 or NVW, with the failing symbols of each of its sectors (R219) or,
from NVW, 2 where a codeword failed (R231). -/
def execTierReadResponse (tag : Nat) (errs : List Nat) (s : State) : Host.Outcome State Fault Refusal :=
  event (match s.tagOf tag with
    | none => s
    | some q => if q.write || q.park then s else s.readDone q errs)

/-- TIER_WRITE_ACK (R198). -/
def execTierWriteAck (tag : Nat) (s : State) : Host.Outcome State Fault Refusal :=
  event (match s.tagOf tag with
    | none => s
    | some q => if !q.write || q.park then s else s.writeDone q)

/-- A request that timed out: a read lands poisoned, a write fails its work item (R200, R240). -/
def State.tagTimeout (s : State) (q : TagReq) : State :=
  if q.write then
    let s := s.freeTag q.tag
    if q.dropped then s else s.resetBind q.wid stMemWriteFault
  else s.readDone q [2]

/-- TIER_REQUEST_TIMEOUT (R200): an HBM4 or NVW request unanswered after 100 us. A timed-out read does not count as
an error of its sector: it lands poisoned with whatever it read. -/
def execTierRequestTimeout (tag : Nat) (s : State) : Host.Outcome State Fault Refusal :=
  event (match s.tagOf tag with
    | none => s
    | some q =>
      if q.park then s
      else
        let s := s.reach (q.issuedAt + 100000)
        if q.write then s.tagTimeout q
        else
          let s := s.freeTag q.tag
          match s.bindOf q.wid with
          | none => s
          | some b => if q.dropped then s
            else s.lineLanded q.wid q.tile q.line true (s.bytes (b.lineAddr q.tile q.line) 256))

/-! ### Stream commands (R206, R207, R208) -/

/-- STREAM_OPEN of either level. -/
def State.streamOpen (s : State) (c : Cmd) (bar : Nat) (log : Bool) : Except Err State := do
  let (buf, depth, cons, exp) := (c.u64 0, c.u32 8, c.u32 12, c.u64 16)
  need (buf % tileBytes = 0 && 2 ≤ depth && depth ≤ 4096 && 1 ≤ cons && cons ≤ 64 && exp ≤ 2 ^ 40) stBadParam
  let _ ← s.ownRange c buf (depth * tileBytes) [.basin]
  need (bar = 0 || (match tget s.barriers bar with | some b => b.paddock = c.pad | none => false)) stBadBarrier
  need ((s.streams.filter fun e => e.2.paddock = c.pad).length < 2048 && s.streams.length < 16384) stStreamLimit
  let (h, s1) := s.pick (fun k => s.basin.streamsMade.contains k) 1 (2 ^ 32 - 1)
  let hd := h.getD 1
  let st : Stream :=
    { paddock := c.pad, buf := buf, depth := depth, nCons := cons, expected := exp, state := .opened, committed := 0,
      early := [], poisonLimit := 0, poisonTiles := 0, producer := none, consEnd := [], cons := [], waiting := [],
      endBarrier := bar, endDone := false, logEnd := log }
  .ok ({ s1 with streams := tput s1.streams hd st
                 basin := { s1.basin with streamsMade := insNat hd s1.basin.streamsMade } }.ok c hd)

/-- STREAM_OPEN. -/
def streamOpenBody (c : Cmd) (s : State) : Except Err State := s.streamOpen c 0 false

/-- STREAM_OPEN, expert: an end barrier, and an event at each END. -/
def streamOpenExpertBody (c : Cmd) (s : State) : Except Err State := s.streamOpen c (c.u32 24) (c.flag 28)

/-- A stream of the caller's paddock. -/
def State.streamOf (s : State) (c : Cmd) (h : Nat) : Except Err Stream :=
  match tget s.streams h with
  | some st => if st.paddock = c.pad then .ok st else fail stBadStream
  | none => fail stBadStream

/-- STREAM_BIND of either level (R189, R207, R231). -/
def State.streamBind (s : State) (c : Cmd) (burst0 stride done : Nat) (keep : Bool) : Except Err State := do
  let h := c.u32 0
  let e := c.u32 4
  let addr := c.u64 8
  let tiles := c.u64 16
  let st ← s.streamOf c h
  let cons := if e = 0xFFFF then none else some e
  let burst := if burst0 = 0 then min 16 (st.depth / 2) else burst0
  need ((match cons with | some k => k < st.nCons | none => true) && burst ≤ min 64 st.depth) stBadParam
  need (!(cons.isNone && st.expected != 0 && st.expected - st.committed < tiles)) stBadParam
  need (done = 0 || (match tget s.barriers done with | some b => b.paddock = c.pad | none => false)) stBadBarrier
  need (match cons with | some k => !thas st.consEnd k | none => st.producer.isNone) stStreamState
  need (cons.isSome || st.state = .opened) stStreamState
  let span := if tiles = 0 then 0 else (tiles - 1) * (if stride = 0 then tileBytes else stride) + tileBytes
  let loc ← s.resolve c addr span cons.isSome
  let host := match loc with | .host _ => true | .part _ _ => false
  need (host || 0x100000000 ≤ addr) stBadParam
  let b : Bind :=
    { wid := c.w, paddock := c.pad, fn := c.fn, handle := h, consumer := cons, addr := addr, host := host,
      tiles := tiles, burst := burst, stride := stride, done := done, keepOpen := keep, base := st.committed,
      issued := [], landed := [], doneTiles := [], moved := 0, poisoned := 0, poisonOut := false, took := 0,
      gotEnd := false, failStatus := 0#16 }
  let s1 : State := { s with basin := { s.basin with binds := s.basin.binds ++ [b] } }
  let s2 := s1.modStream h fun x => match cons with
    | some k => { x with consEnd := tput x.consEnd k (.engine c.w) }
    | none => { x with producer := some (.engine c.w) }
  .ok (if cons.isSome then s2.nextBurst b else s2)

/-- STREAM_BIND. -/
def streamBindBody (c : Cmd) (s : State) : Except Err State := s.streamBind c 0 0 0 false

/-- STREAM_BIND, expert: BURST, STRIDE, a done barrier and KEEP_OPEN. -/
def streamBindExpertBody (c : Cmd) (s : State) : Except Err State :=
  s.streamBind c (c.u32 24) (c.u64 28) (c.u32 36) (c.flag 40)

/-- STREAM_CLOSE of either level: the host closes a stream that no engine or team produces (R189, R206). -/
def State.streamClose (s : State) (c : Cmd) (wait : Bool) : Except Err State := do
  let h := c.u32 0
  let st ← s.streamOf c h
  need (st.state = .opened && st.producer.isNone) stStreamState
  let s1 := s.closeStream h
  .ok (if wait then s1.wait c.w (.streamEnd h) else s1.ok c)

/-- STREAM_CLOSE. -/
def streamCloseBody (c : Cmd) (s : State) : Except Err State := s.streamClose c false

/-- STREAM_CLOSE, expert: with WAIT it completes when every consumer has received END. -/
def streamCloseExpertBody (c : Cmd) (s : State) : Except Err State := s.streamClose c (c.flag 4)

/-- STREAM_ABORT of either level (R182, R185). -/
def State.streamAbort (s : State) (c : Cmd) : Except Err State := do
  let st ← s.streamOf c (c.u32 0)
  need (st.state = .opened) stStreamState
  .ok ((s.abortStream (c.u32 0)).ok c)

/-- STREAM_ABORT. -/
def streamAbortBody (c : Cmd) (s : State) : Except Err State := s.streamAbort c

/-- STREAM_ABORT, expert: the reason is logged. -/
def streamAbortExpertBody (c : Cmd) (s : State) : Except Err State := (s.reason c (c.u32 4)).streamAbort c

/-- The code of a stream state (Table 6-12). -/
def StreamState.code : StreamState → Nat
  | .opened => 1
  | .closed => 2
  | .aborted => 3

/-- The 64-byte record of a stream (Table 6-12). -/
def Stream.record (st : Stream) (h : Nat) : List Byte :=
  let least := (List.range st.nCons).foldl (fun m c => min m (st.con c).read) (2 ^ 64 - 1)
  let bound := (if st.producer.isSome then 1 else 0) + 2 * (min st.consEnd.length 127)
  leBytes 4 h ++ leBytes 1 st.state.code ++ leBytes 1 st.nCons ++ leBytes 2 bound ++ leBytes 8 st.buf ++
  leBytes 4 st.depth ++ leBytes 4 st.waiting.length ++ leBytes 8 st.expected ++ leBytes 8 st.committed ++
  leBytes 8 least ++ leBytes 8 st.poisonLimit ++ leBytes 4 st.poisonTiles ++ leBytes 4 0

/-- STREAM_QUERY (R208). -/
def streamQueryBody (c : Cmd) (s : State) : Except Err State := do
  let st ← s.streamOf c (c.u32 0)
  let s1 ← s.writeBuf c (c.u64 4) (st.record (c.u32 0))
  .ok (s1.ok c)

/-- STREAM_QUERY, expert: one record per stream of the paddock. -/
def streamQueryExpertBody (c : Cmd) (s : State) : Except Err State := do
  let mine := (s.streams.filter fun e => e.2.paddock = c.pad).take (c.u32 8)
  let s1 ← s.writeBuf c (c.u64 0) (mine.flatMap fun e => e.2.record e.1)
  .ok (s1.ok c mine.length)

/-- STREAM_FREE: an ended stream (R182, R206). -/
def streamFreeBody (c : Cmd) (s : State) : Except Err State := do
  let st ← s.streamOf c (c.u32 0)
  need st.ended stStreamState
  .ok ((s.freeStream (c.u32 0)).ok c)

/-- STREAM_FREE, expert: with FORCE in any state (R182). -/
def streamFreeExpertBody (c : Cmd) (s : State) : Except Err State := do
  let st ← s.streamOf c (c.u32 0)
  need (c.flag 4 || st.ended) stStreamState
  .ok ((s.freeStream (c.u32 0)).ok c)

/-- STREAM_REARM: an ended stream returns to OPEN at index 0 (R186). -/
def streamRearmBody (c : Cmd) (s : State) : Except Err State := do
  let st ← s.streamOf c (c.u32 0)
  need st.ended stStreamState
  .ok ((s.setStream (c.u32 0) st.rearm).ok c)

/-- STREAM_REARM, expert: with a new EXPECTED. -/
def streamRearmExpertBody (c : Cmd) (s : State) : Except Err State := do
  let st ← s.streamOf c (c.u32 0)
  need st.ended stStreamState
  need (c.u64 4 ≤ 2 ^ 40) stBadParam
  .ok ((s.setStream (c.u32 0) { st.rearm with expected := c.u64 4 }).ok c)

/-! ### Barrier commands (R194, R196, R197) -/

/-- BARRIER_CREATE of either level. -/
def State.barrierCreate (s : State) (c : Cmd) (drains : List Nat) (auto : Bool) : Except Err State := do
  need (!c.mgmt) stNotPermitted
  need (1 ≤ c.u32 0 && c.u32 0 ≤ 65535) stBadParam
  need (drains.all fun d => match tget s.streams d with | some st => st.paddock = c.pad | none => false) stBadStream
  need ((s.barriers.filter fun e => e.2.paddock = c.pad).length < 4096 && s.barriers.length < 32768) stBarrierLimit
  let (h, s1) := s.pick (fun k => s.basin.barriersMade.contains k) 1 (2 ^ 32 - 1)
  let hd := h.getD 1
  let b : Barrier :=
    { paddock := c.pad, expect := c.u32 0, phase := 0, count := 0, next := 0, drains := dedupNat drains,
      autoRearm := auto, arrs := [], waitTasks := [], waitCmds := [] }
  .ok ({ s1 with barriers := tput s1.barriers hd b
                 basin := { s1.basin with barriersMade := insNat hd s1.basin.barriersMade } }.ok c hd)

/-- BARRIER_CREATE. -/
def barrierCreateBody (c : Cmd) (s : State) : Except Err State := s.barrierCreate c [] false

/-- BARRIER_CREATE, expert: up to 16 drain streams, and AUTO_REARM. -/
def barrierCreateExpertBody (c : Cmd) (s : State) : Except Err State :=
  s.barrierCreate c (((List.range 16).map fun i => c.u32 (8 + 4 * i)).filter fun h => h != 0) (c.flag 4)

/-- A barrier of the caller's paddock. -/
def State.barrierOf (s : State) (c : Cmd) (h : Nat) : Except Err Barrier :=
  match tget s.barriers h with
  | some b => if b.paddock = c.pad then .ok b else fail stBadBarrier
  | none => fail stBadBarrier

/-- BARRIER_ARRIVE: RESULT is the phase in which the arrival counts. -/
def barrierArriveBody (c : Cmd) (s : State) : Except Err State := do
  let b ← s.barrierOf c (c.u32 0)
  .ok ((s.arrive (c.u32 0)).ok c b.arrivalPhase)

/-- BARRIER_ARRIVE, expert: with WAIT it completes when that phase completes. -/
def barrierArriveExpertBody (c : Cmd) (s : State) : Except Err State := do
  let b ← s.barrierOf c (c.u32 0)
  if c.flag 4 then
    let b' : Barrier := { b with waitCmds := b.waitCmds ++ [(c.w, b.arrivalPhase)] }
    .ok ({ s with barriers := tput s.barriers (c.u32 0) b' }.arrive (c.u32 0))
  else .ok ((s.arrive (c.u32 0)).ok c b.arrivalPhase)

/-- Whether a barrier has no waiters and no arrivals in its current phase (R197). -/
def Barrier.idle (b : Barrier) : Bool := b.count = 0 && b.waitTasks.isEmpty && b.waitCmds.isEmpty

/-- BARRIER_DESTROY. -/
def barrierDestroyBody (c : Cmd) (s : State) : Except Err State := do
  let b ← s.barrierOf c (c.u32 0)
  need b.idle stBarrierState
  .ok ((s.destroyBarrier (c.u32 0) b).ok c)

/-- BARRIER_DESTROY, expert: with FORCE the waiters are released. -/
def barrierDestroyExpertBody (c : Cmd) (s : State) : Except Err State := do
  let b ← s.barrierOf c (c.u32 0)
  need (c.flag 4 || b.idle) stBarrierState
  .ok ((s.destroyBarrier (c.u32 0) b).ok c)

/-! ### BASIN_QUERY (R206) -/

/-- Bytes of a quarter that allocations hold. -/
def State.quarterUse (s : State) (q : Nat) : Nat :=
  sumNat (s.allocs.map fun e => let r := tilesIn q e; (r.2 - r.1) * tileBytes)

/-- The sum of a table of counts over the banks of a quarter. -/
def bankSum (t : Tbl (BitVec 64)) (q : Nat) : Nat := sumNat ((List.range 64).map fun b => (tgetD 0#64 t (64 * q + b)).toNat)

/-- The record of BASIN_QUERY (log entry 11): per quarter, bytes allocated and free, corrected and uncorrectable
errors, poisoned lines created; then the caller's tags per pool. -/
def State.basinRecord (s : State) (pad : Nat) : List Byte :=
  slice (((List.range 4).flatMap fun q =>
    [s.quarterUse q, 448 * 2 ^ 20 - s.quarterUse q, bankSum s.basin.eccCorrected q, bankSum s.basin.eccUncorrectable q,
      (tgetD 0#64 s.basin.poisonMade q).toNat].flatMap fun v => leBytes 8 v) ++
    (List.range 18).flatMap fun k => leBytes 4 (s.basin.tags.filter fun t => t.pool = k && t.paddock = pad).length) 0 256

/-- BASIN_QUERY. -/
def basinQueryBody (c : Cmd) (s : State) : Except Err State := do
  let s1 ← s.writeBuf c (c.u64 0) (s.basinRecord c.pad)
  .ok (s1.ok c)

/-- BASIN_QUERY, expert: with DETAIL, on the management session only, the counts of each bank (log entry 11: the low
bytes of the corrected and uncorrectable counts of the 256 banks follow). -/
def basinQueryExpertBody (c : Cmd) (s : State) : Except Err State := do
  need (!c.flag 8 || c.mgmt) stNotPermitted
  let banks := if c.flag 8 then (List.range 256).flatMap fun b =>
      leBytes 2 (tgetD 0#64 s.basin.eccCorrected b).toNat ++ leBytes 1 (tgetD 0#64 s.basin.eccUncorrectable b).toNat
    else []
  let s1 ← s.writeBuf c (c.u64 0) (slice (s.basinRecord c.pad ++ banks) 0 1024)
  .ok (s1.ok c)

end Sys2Proof.Machine
end

