-- ==== Sys2Proof/Machine/Memory.lean ====
section
/-! DEFINITION. The memory tiers: the bodies of the commands and the meanings of the events of chapter 7 (R210 to
R245). -/

namespace Sys2Proof.Machine

open Sys2Proof

/-! ### Allocation (R210 to R215, R245) -/

/-- The tier of a code of FLAGS, none where it is reserved (Table 7-1). -/
def tierOf : Nat → Option Tier
  | 0 => some .hbm
  | 1 => some .basin
  | 2 => some .nvw
  | 3 => some .park
  | _ => none

/-- MEM_ALLOC of either level: the owner is given, none where the command names no valid one. -/
def State.memAlloc (s : State) (c : Cmd) (owner : Option Nat) : Except Err State := do
  let f := c.u32 0
  let len := c.u64 4
  let tier ← want (tierOf (f % 8)) stBadReserved
  let o ← want owner stBadParam
  let moored := bitAt f 8
  need (!(moored && tier != .hbm) && !(o = 15 && tier != .nvw) && len ≠ 0) stBadParam
  let near := bitAt f 3 && tier != .park
  let die := if bitAt f 6 then f / 16 % 4 else s.homeDie o
  let (a, s1) ← s.allocate { owner := o, tier := tier, near := near, die := die, len := len, persist := bitAt f 7,
                             moored := moored, sys := false }
  let size := ((tget s1.allocs a).map (·.len)).getD 0
  if tier = .hbm || tier = .park then
    .ok { s1 with hbm := { s1.hbm with zeroing := s1.hbm.zeroing ++ [⟨c.w, a, size, none⟩] } }
  else .ok (s1.ok c a)

/-- MEM_ALLOC: the caller's paddock owns it. -/
def memAllocBody (c : Cmd) (s : State) : Except Err State :=
  s.memAlloc c (if c.mgmt then none else some c.pad)

/-- MEM_ALLOC, expert: the management session may name another owner. -/
def memAllocExpertBody (c : Cmd) (s : State) : Except Err State := do
  let o := c.u32 12
  if c.mgmt then s.memAlloc c (if o = 15 || (o < 8 && thas s.paddocks o) then some o else none)
  else
    need (o = 0xFFFFFFFF || o = c.pad) stNotPermitted
    s.memAlloc c (some c.pad)

/-- Whether a caller manages an allocation: its own, or on the management session any (R213, R236). -/
def manages (c : Cmd) (l : Alloc) : Bool := !l.sys && (if c.mgmt then true else l.owner = c.pad)

/-- The allocation that a command names by its address: one that does not exist is ST_BAD_ALLOC (R245), one that the
caller may not reach ST_NOT_PERMITTED (R212). -/
def State.namedAlloc (s : State) (c : Cmd) (a : Nat) : Except Err Alloc :=
  match tget s.allocs a with
  | some l => if l.sys then fail stBadAlloc else if manages c l then .ok l else fail stNotPermitted
  | none => fail stBadAlloc

/-- MEM_FREE of either level (R245); a DETACHED region is freed on the management session only (R230, status: log
entry 56). -/
def State.memFree (s : State) (c : Cmd) (wait : Bool) : Except Err State := do
  let a := c.u64 0
  let l ← s.namedAlloc c a
  need (c.mgmt || l.nvw != .detached) stNvwState
  if s.allocInUse a l then
    if wait && l.grants.isEmpty then .ok (s.wait c.w (.memFree a)) else fail stAllocInUse
  else .ok ((s.release a).ok c)

/-- MEM_FREE. -/
def memFreeBody (c : Cmd) (s : State) : Except Err State := s.memFree c false

/-- MEM_FREE, expert: with WAIT it completes after the last user has released the allocation. -/
def memFreeExpertBody (c : Cmd) (s : State) : Except Err State := s.memFree c (c.flag 8)

/-- MEM_FILL of either level: a range of one of the caller's allocations, not in NVW. -/
def State.memFill (s : State) (c : Cmd) (pat : BitVec 64) : Except Err State := do
  need (!c.mgmt) stNotPermitted
  let (a, n) := (c.u64 0, c.u64 8)
  match s.allocAt a with
  | none => fail stBadAlloc
  | some e =>
    need (!e.2.sys) stBadAlloc
    need (e.2.owner = c.pad) stNotPermitted
    need (e.2.tier != .nvw && rangeIn a n e) stNotPermitted
    .ok { s with hbm := { s.hbm with zeroing := s.hbm.zeroing ++ [⟨c.w, a, n, some pat⟩] } }

/-- MEM_FILL: zeros. -/
def memFillBody (c : Cmd) (s : State) : Except Err State := s.memFill c 0#64

/-- MEM_FILL, expert: a 64-bit pattern, repeated. -/
def memFillExpertBody (c : Cmd) (s : State) : Except Err State := s.memFill c (BitVec.ofNat 64 (c.u64 16))

/-- The bytes that a pattern gives `n` bytes. -/
def patternBytes (pat : BitVec 64) (n : Nat) : List Byte :=
  (List.range n).map fun i => (pat >>> (8 * (i % 8))).truncate 8

/-- ZEROING_COMPLETE (R215, R245): the allocation, the fill or the destroyed paddock's memory that a command waits
for is done. A fill leaves lost pages of the parking tier alone (R241). -/
def execZeroingComplete (w : BitVec 64) (s : State) : Host.Outcome State Fault Refusal :=
  event (match s.hbm.zeroing.find? fun z => z.wid = w with
    | some z =>
      let s : State := { s with hbm := { s.hbm with zeroing := s.hbm.zeroing.filter fun y => y.wid != w } }
      match z.pattern with
      | none => s.complete w stOk (BitVec.ofNat 64 z.addr)
      | some pat =>
        let lost := (lineAddrs z.addr z.len).filter fun l => s.parkLost (max l z.addr)
        if lost.isEmpty then (s.store z.addr (patternBytes pat z.len)).complete w stOk (BitVec.ofNat 64 z.len)
        else
          let keep := (lineAddrs z.addr z.len).filter fun l => !lost.contains l
          let size := fun (l : Nat) => min (l + 256) (z.addr + z.len) - max l z.addr
          let s := keep.foldl (fun s l =>
            s.store (max l z.addr) (((patternBytes pat z.len).drop (max l z.addr - z.addr)).take (size l))) s
          s.complete w stParkLost (BitVec.ofNat 64 (sumNat (keep.map size)))
    | none =>
      if s.waits.any fun x => x.wid = w && (match x.kind with | .destroyZero _ => true | _ => false) then
        s.complete w stOk
      else s)

/-- The 256 bytes of MEM_QUERY for an owner (log entry 11): per tier in the order of Table 7-1, quota, bytes in use
and free pages; free global pages; free near pages of each die; lost parking pages. -/
def State.memRecord (s : State) (o : Nat) : List Byte :=
  let k := tget s.paddocks o
  let q := fun (t : Tier) => (k.map fun p => p.quota t).getD 0
  let free := fun (near : Bool) (d : Nat) => sumNat ((List.range 1024).map fun f => s.hbm.freeIn near d f)
  let basin := 4 * 28672 - sumNat ((List.range 4).map s.quarterUse) / tileBytes
  let nvw := sumNat ((List.range 4).map fun n => (s.nvwFree n).length)
  let park := sumNat (s.cxl.ranges.map fun e => e.2.2 - s.rangeUsed e.1)
  let lost := sumNat ((s.allocs.filter fun e => e.2.owner = o).flatMap fun e =>
    (e.2.pages.filter fun p => e.2.tier = .park && e.2.lost.contains p.1).map (·.2))
  let row := fun (t : Tier) (n : Nat) => leBytes 8 (q t) ++ leBytes 8 (s.useOf o t) ++ leBytes 8 n
  slice (row .hbm (free false 0) ++ row .basin basin ++ row .nvw nvw ++ row .park park ++ leBytes 8 (free false 0) ++
    (List.range 4).flatMap (fun d => leBytes 8 (free true d)) ++ leBytes 8 lost) 0 256

/-- MEM_QUERY. -/
def memQueryBody (c : Cmd) (s : State) : Except Err State := do
  let s1 ← s.writeBuf c (c.u64 0) (s.memRecord c.pad)
  .ok (s1.ok c)

/-- The four bytes of a channel: state (0 in service, 1 migrating, 2 mapped out, 3 degraded), substitute stack of its
first frame (0xFF none), corrected count saturating. -/
def State.chanBytes (s : State) (i : Nat) : List Byte :=
  let x := s.hbm.chan i
  let st := if x.mapped then 2 else if x.migrating.isSome then 1 else if x.degraded then 3 else 0
  leBytes 1 st ++ leBytes 1 (((tget s.hbm.subst (1024 * i)).map fun k => k / 1024 / 32).getD 0xFF) ++
  leBytes 2 (min x.corrected.toNat 0xFFFF)

/-- MEM_QUERY, expert: for a paddock, with CHANNELS the channels too. -/
def memQueryExpertBody (c : Cmd) (s : State) : Except Err State := do
  let p := c.u32 8
  need (c.mgmt || (!c.flag 12 && p = c.pad)) stNotPermitted
  need (thas s.paddocks p) stBadParam
  let s1 ← s.writeBuf c (c.u64 0)
    (s.memRecord p ++ (if c.flag 12 then (List.range 384).flatMap s.chanBytes else []))
  .ok (s1.ok c)

/-! ### Channel map-out (R225 to R229) -/

/-- The reserve frames of a stack as substitutes for the frames of a channel of it (R218, log entry 12): the channel's own
32 frames of the reserve hold nothing and stand for themselves, its other frames take those of the other channels. -/
def reserveFrames (c : Nat) : List Nat :=
  (List.range 1024).map fun f => if f < 32 then 1024 * c + f
    else 1024 * (32 * (c / 32) + (c % 32 + 1 + (f - 32) % 31) % 32) + (f - 32) / 31

/-- Free frames that may substitute, of the same stack, then of the same die, then of any (R227): first those of frame
indices from which substitutes were taken before, then those of unassigned indices. -/
def Hbm.freeFrames (h : Hbm) (c : Nat) : List Nat :=
  let us := ((List.range 1024).filter fun f => 43 ≤ f && h.bandOf f = 2) ++
    (List.range 1024).reverse.filter fun f => h.bandOf f = 3
  let taken := h.subst.map (·.2)
  let live : Nat → Bool := fun k => k != c && !(h.chan k).mapped && (h.chan k).migrating.isNone
  let group : (Nat → Bool) → List Nat := fun p => us.flatMap fun f =>
    (((List.range 384).filter fun k => p k && live k).map fun k => 1024 * k + f).filter fun e => !taken.contains e
  group (fun (k : Nat) => k / 32 = c / 32) ++ group (fun (k : Nat) => k / 32 != c / 32 && k / 96 = c / 96) ++
  group (fun (k : Nat) => k / 96 != c / 96)

/-- The substitute frames of a channel's map-out, none where fewer than 1,024 are found, and whether they are the
stack's reserve. -/
def Hbm.substitutes (h : Hbm) (c : Nat) : Option (List Nat × Bool) :=
  if !h.reserveUsed.contains (c / 32) then some (reserveFrames c, true)
  else
    let fs := (h.freeFrames c).take 1024
    if fs.length = 1024 then some (fs, false) else none

/-- Begins a map-out: substitute frames are taken for every frame of the channel; without enough of them the channel
stays in service, degraded (R227, R228). -/
def State.startMapout (s : State) (c : Nat) (by0 : BitVec 64) (noMigrate : Bool) : State :=
  match s.hbm.substitutes c with
  | none =>
    let s := (s.modChan c fun x => { x with degraded := true }).logEv evChannelDegraded 0xFF#8 stTierFull c by0
    s.complete by0 stTierFull
  | some (fs, res) =>
    let h := s.hbm
    let subst := ((List.range 1024).zip fs).foldl (fun t e => tput t (1024 * c + e.1) e.2) h.subst
    let use := if res then h.bandUse else fs.foldl (fun t k => tput t (k % 1024) 2) h.bandUse
    let s : State := { s with hbm := { h with
      subst := subst, bandUse := use, reserveUsed := if res then insNat (c / 32) h.reserveUsed else h.reserveUsed } }
    (s.modChan c fun x => { x with migrating := some by0, noMigrate := noMigrate, degraded := false, switched := 0,
                                   linesPoisoned := 0 }).checkDegraded

/-- MEM_MAPOUT of either level. A replay after a warm reset finds its map-out in progress, which resumes (R243). -/
def State.memMapout (s : State) (c : Cmd) (noMigrate : Bool) : Except Err State := do
  let k := c.u32 0
  if k < 384 && (s.hbm.chan k).migrating = some c.w then return s
  need (k < 384 && !(s.hbm.chan k).mapped && (s.hbm.chan k).migrating.isNone) stBadParam
  .ok (s.startMapout k c.w noMigrate)

/-- MEM_MAPOUT. -/
def memMapoutBody (c : Cmd) (s : State) : Except Err State := s.memMapout c false

/-- MEM_MAPOUT, expert: NO_MIGRATE. -/
def memMapoutExpertBody (c : Cmd) (s : State) : Except Err State := s.memMapout c (c.flag 4)

/-- The channel is mapped out: Kryto records it, the command completes with the lines written poisoned (R228). -/
def State.finishMapout (s : State) (c : Nat) : State :=
  let x := s.hbm.chan c
  let s := s.modChan c fun y => { y with mapped := true, migrating := none, switched := 1024, noMigrate := false }
  let s : State := { s with kryto := { s.kryto with mappedOut := insNat c s.kryto.mappedOut } }
  let s := s.logEv evChannelMappedOut 0xFF#8 0#16 c (x.migrating.getD 0#64) (leBytes 8 x.linesPoisoned)
  s.complete (x.migrating.getD 0#64) stOk (BitVec.ofNat 64 x.linesPoisoned)

/-- MAPOUT_FRAME_SWITCH (R228): the next frame's copy is complete and its requests switch. `bad` are the addresses of
the lines of allocations, and `lines` the number of all lines, that could not be read and were written poisoned. -/
def execMapoutFrameSwitch (c : Nat) (bad : List Nat) (lines : Nat) (s : State) :
    Host.Outcome State Fault Refusal :=
  event (
    let x := s.hbm.chan c
    if x.migrating.isNone || x.noMigrate || 1024 ≤ x.switched then s
    else
      let here := bad.filter fun a => match s.hbmSpot a with
        | some e => e.1 = c && e.2.1 = x.switched
        | none => false
      let s := here.foldl (fun s a => s.poisonLine a) s
      let s := s.modChan c fun y => { y with switched := y.switched + 1,
                                             linesPoisoned := y.linesPoisoned + min 8192 (max lines here.length) }
      if x.switched + 1 = 1024 then s.finishMapout c else s)

/-- The lines of HBM4 allocations that a channel holds. -/
def State.linesOn (s : State) (c : Nat) : List Nat :=
  (s.allocs.filter fun e => e.2.tier = .hbm).flatMap fun e =>
    ((List.range (e.2.len / 256)).map fun i => e.1 + 256 * i).filter fun a =>
      match s.hbmSpot a with | some p => p.1 = c | none => false

/-- MAPOUT_POISON_COMPLETE (R228): with NO_MIGRATE every line of the channel is written poisoned. -/
def execMapoutPoisonComplete (c : Nat) (s : State) : Host.Outcome State Fault Refusal :=
  event (
    let x := s.hbm.chan c
    if x.migrating.isNone || !x.noMigrate then s
    else
      let s := (s.linesOn c).foldl (fun s a => s.poisonLine a) s
      (s.modChan c fun y => { y with linesPoisoned := 1024 * 8192 }).finishMapout c)

/-- CHANNEL_MAPOUT_DECISION (R227): a threshold is crossed and Iluvo starts the map-out. -/
def execChannelMapoutDecision (c : Nat) (s : State) : Host.Outcome State Fault Refusal :=
  event (
    let x := s.hbm.chan c
    let corr := (x.corrTimes.filter fun u => s.t < u + 3600 * secNs).length
    let unc := (x.uncTimes.filter fun u => s.t < u + 86400 * secNs).length
    if 384 ≤ c || x.mapped || x.migrating.isSome || x.degraded then s
    else if 1000 < corr || 2 ≤ unc || 2 ≤ x.calFails then s.startMapout c 0#64 false
    else s)

/-- MAPOUT_RETRY (R227): frames have been freed for a map-out that lacked them. -/
def execMapoutRetry (c : Nat) (s : State) : Host.Outcome State Fault Refusal :=
  event (
    let x := s.hbm.chan c
    if x.degraded && !x.mapped && x.migrating.isNone && (s.hbm.substitutes c).isSome then s.startMapout c 0#64 false
    else s)

/-- HBM_REFRESH (R225, R226): issued ahead of everything when due. -/
def execHbmRefresh (c : Nat) (s : State) : Host.Outcome State Fault Refusal :=
  event (if c < 384 then s.modChan c fun x => { x with refreshes := x.refreshes + 1#64 } else s)

/-- A calibration of a channel has run. -/
def State.calibrated (s : State) (c : Nat) (ok forced : Bool) : State :=
  let temp := tgetD 0 s.hbm.temp (c / 32)
  s.modChan c fun x => { x with calLast := s.t, calTemp := temp, calDue := none,
                                calFails := if ok then 0 else x.calFails + 1,
                                forcedCals := if forced then x.forcedCals + 1#64 else x.forcedCals }

/-- CALIBRATION_DUE (R225, R226): 256 ms after the last, or after a move of 8 degrees; it runs at once on an idle
channel and is postponed otherwise. -/
def execCalibrationDue (c : Nat) (idle ok : Bool) (s : State) : Host.Outcome State Fault Refusal :=
  event (if 384 ≤ c then s
    else
      let x := s.hbm.chan c
      let moved := 128 ≤ (tgetD 0 s.hbm.temp (c / 32) - x.calTemp).natAbs
      let s := match x.calDue with
        | some _ => s
        | none => if moved then s else s.reach (x.calLast + 256 * msNs)
      if idle then s.calibrated c ok false
      else s.modChan c fun y => { y with calDue := some (y.calDue.getD s.t) })

/-- FORCED_CALIBRATION (R225): a calibration postponed 32 ms. -/
def execForcedCalibration (c : Nat) (ok : Bool) (s : State) : Host.Outcome State Fault Refusal :=
  event (match (s.hbm.chan c).calDue with
    | none => s
    | some d => (s.reach (d + 32 * msNs)).calibrated c ok true)

/-- PATROL_SCRUB (R219, R220, R226): the next sector of a channel is read and rewritten, with an error over `symbols` of
its symbols; `line` is an address of the granule of an allocation that holds it, where there is one. -/
def execPatrolScrub (c symbols line : Nat) (s : State) : Host.Outcome State Fault Refusal :=
  event (if 384 ≤ c || (s.hbm.chan c).mapped then s
    else
      let p := (s.hbm.chan c).scrubPos
      let frame := p / 32768
      let row := p % 32768 * 64 / 512 * 512
      let off := p * 64 % 512
      let a := match s.hbmSpot line with
        | some e => if e = (c, frame, row) then some (line / 512 * 512 + off) else none
        | none => none
      let poison := match a with
        | some x => s.poisoned x 64
        | none => (s.hbm.chan c).badSectors.contains (frame * 0x200000 + row + off)
      let s := if poison then s.modChan c fun x => { x with poisonReads := x.poisonReads + 1#64 }
        else s.sectorRead c frame (row + off) symbols a
      s.modChan c fun x => { x with scrubPos := (p + 1) % 2 ^ 25, scrubbed := tput x.scrubbed p s.t, scrubLogged := false })

/-- SCRUB_AGE (R226): the oldest unscrubbed sector of a channel passes seven days. -/
def execScrubAge (c : Nat) (s : State) : Host.Outcome State Fault Refusal :=
  event (
    let x := s.hbm.chan c
    if 384 ≤ c || x.mapped || x.scrubLogged then s
    else
      let s := s.reach (tgetD 0 x.scrubbed x.scrubPos + 604800 * secNs)
      (s.modChan c fun y => { y with scrubLogged := true }).logEv evScrubAge 0xFF#8 0#16 c)

/-- CORRECTED_WRITEBACK (R220): the oldest corrected sector is written back. -/
def execCorrectedWriteback (c : Nat) (s : State) : Host.Outcome State Fault Refusal :=
  event (s.modChan c fun x => { x with writeback := x.writeback.drop 1 })

/-! ### NVW (R230 to R238) -/

/-- Retires a block: a spare replaces it, or the stack shrinks (R238). -/
def State.retireBlock (s : State) (k b : Nat) : State :=
  let n := s.nvwStack k
  if n.retired.contains b then s
  else
    (s.modNvw k fun n => { n with retired := insNat b n.retired, spare := n.spare - 1,
                                  capacity := if n.spare = 0 then n.capacity - 1 else n.capacity,
                                  reloc := n.reloc.filter fun x => x != b }).logWith
      evNvwBlockRetired (n.spare = 0) 0xFF#8 0#16 (BitVec.ofNat 16 k) 0#64 (leBytes 4 b)

/-- Gives a region another physical block in place of one: the least worn one, a spare where the stack is fully
allocated (R238). -/
def State.swapBlock (s : State) (k b : Nat) : State :=
  match s.nvwSpare k with
  | none => s
  | some f => { s with allocs := s.allocs.map fun e =>
      (e.1, { e.2 with pages := if e.2.tier = .nvw then e.2.pages.map fun q => if q = (k, b) then (k, f) else q
                                else e.2.pages }) }

/-- Retires the blocks of a list and replaces them where regions hold them. -/
def State.replaceBlocks (s : State) (ps : List (Nat × Nat)) : State :=
  ps.foldl (fun s e => (s.retireBlock e.1 e.2).swapBlock e.1 e.2) s

/-- One erase of each block of a region: a cycle each; worn-out blocks and the blocks that failed are replaced. -/
def State.eraseBlocks (s : State) (l : Alloc) (fails : List (Nat × Nat)) : State :=
  let r := s.cycleBlocks l.pages
  let s := r.2.foldl (fun s e => s.swapBlock e.1 e.2) r.1
  s.replaceBlocks (fails.filter fun e => l.pages.contains e && !r.2.contains e)

/-- Changes an allocation. -/
def State.modAlloc (s : State) (a : Nat) (f : Alloc → Alloc) : State := { s with allocs := tmod s.allocs a f }

/-- A region that a caller manages by an address inside it: its own, or on the management session a shared one; any
other is ST_NOT_PERMITTED (R212, R213), an address in no region ST_BAD_ALLOC (R245). -/
def State.regionAt (s : State) (c : Cmd) (a : Nat) : Except Err (Nat × Alloc) :=
  match s.allocAt a with
  | none => fail stBadAlloc
  | some e =>
    if e.2.sys then fail stBadAlloc
    else if !(if c.mgmt then e.2.owner = 15 else e.2.owner = c.pad) then fail stNotPermitted
    else if e.2.tier = .nvw then .ok e else fail stBadAlloc

/-- The physical blocks of a region that hold a tile at or beyond `i` (R230, R234). -/
def Alloc.blocksFrom (l : Alloc) (i : Nat) : List (Nat × Nat) :=
  let due := fun (ps : List (Nat × Nat)) (last : Nat → Nat) =>
    ((ps.zip (List.range ps.length)).filter fun e => i ≤ last e.2).map (·.1)
  if l.near then due l.pages fun j => 4096 * j + 4095
  else (List.range 4).flatMap fun k => due (l.pages.filter fun q => q.1 = k) fun j => 16384 * j + 4 * 4095 + k

/-- Erases the torn blocks of a region before a program resumes it: every block that holds a tile at or beyond PROGRAMMED
counts a cycle, and what stood beyond PROGRAMMED is gone (R234, R238; tiles below it stay: log entry 158). -/
def State.eraseTorn (s : State) (a : Nat) (l : Alloc) : State :=
  if l.torn.isNone then s
  else
    let s := s.zeroKeys (a + l.programmed * tileBytes) (l.len - l.programmed * tileBytes)
    let r := s.cycleBlocks (l.blocksFrom l.programmed)
    (r.2.foldl (fun s e => s.swapBlock e.1 e.2) r.1).modAlloc a fun x => { x with torn := none }

/-- Whether an erase or a seal of a region is in progress. -/
def State.regionBusy (s : State) (a : Nat) : Bool :=
  s.nvwProgs.any (fun p => p.region = a) ||
  s.waits.any fun x => match x.kind with
    | .erase r _ => r = a
    | .seal r _ _ => r = a
    | _ => false

/-- NVW_PROGRAM of either level (R232). -/
def State.nvwProgram (s : State) (c : Cmd) (stream : Nat) (verify : Bool) : Except Err State := do
  let (dst, src, len) := (c.u64 0, c.u64 8, c.u64 16)
  let (a, l) ← s.regionAt c dst
  need (len ≠ 0 && len % tileBytes = 0) stBadParam
  need ((l.nvw = .erased || l.nvw = .programming) && !s.regionBusy a && dst - a = l.programmed * tileBytes) stNvwState
  need (dst - a + len ≤ l.len) stBadParam
  let key := if l.owner = 15 then [] else (tget s.kryto.tenantKeys l.owner).getD []
  let prog := fun (con : Nat) => { wid := c.w, region := a, src := src, stream := stream, consumer := con,
                                   tiles := len / tileBytes, start := l.programmed, verify := verify, reprog := 0,
                                   staged := [] : NvwProg }
  let go := fun (s : State) (con : Nat) =>
    { ((s.eraseTorn a l).modAlloc a fun x => { x with nvw := .programming, keyTag := key }) with nvwProgs := s.nvwProgs ++ [prog con] }
  if stream = 0 then
    let loc ← s.resolve c src len false
    need (match loc with | .host _ => true | .part _ id => match tget s.allocs id with
      | some x => x.tier = .hbm
      | none => false) stNotPermitted
    .ok (go s 0)
  else
    let st ← s.streamOf c stream
    let con ← want ((List.range st.nCons).find? fun k => !thas st.consEnd k) stStreamState
    .ok (go (s.setStream stream { st with consEnd := tput st.consEnd con (.engine c.w) }) con)

/-- NVW_PROGRAM, with VERIFY. -/
def nvwProgramBody (c : Cmd) (s : State) : Except Err State := s.nvwProgram c 0 true

/-- NVW_PROGRAM, expert: a stream as its source, VERIFY selectable. -/
def nvwProgramExpertBody (c : Cmd) (s : State) : Except Err State := s.nvwProgram c (c.u32 24) (c.flag 28)


/-- The source's next tile: the state after it was taken, its bytes and poison; none while it is not there, and
whether the source has ended. -/
def State.progTile (s : State) (p : NvwProg) (n : Nat) : State × Option (List Byte × Bool) × Bool :=
  if p.stream != 0 then
    match tget s.streams p.stream with
    | none => (s, none, true)
    | some st =>
      let s := s.modStream p.stream fun x => x.setCon p.consumer (x.con p.consumer).release
      match s.deliver p.stream p.consumer 1 with
      | (_, none) => (s, none, false)
      | (s', some r) =>
        if r.1 = 0 then (s', none, true)
        else (s', some (s'.bytes (st.slotAddr r.2.1) tileBytes, s'.poisoned (st.slotAddr r.2.1) tileBytes), false)
  else if 0xFA = p.src / 2 ^ 56 then
    (s, some (s.bytes (p.src + n * tileBytes) tileBytes, s.poisoned (p.src + n * tileBytes) tileBytes), false)
  else
    match p.staged.find? fun e => e.1 = n with
    | none => (s, none, false)
    | some e => ({ s with nvwProgs := s.nvwProgs.map fun x =>
        if x.wid = p.wid then { x with staged := x.staged.filter fun q => q.1 != n } else x }, some (e.2.2, e.2.1), false)

/-- The physical block that holds tile `i` of a region, and the tiles of that block below it. -/
def blockOf (l : Alloc) (i : Nat) : Option (Nat × Nat) × Nat :=
  if l.near then (l.pages[i / 4096]?, i % 4096)
  else ((l.pages.filter fun q => q.1 = i % 4)[i / 16384]?, i % 16384 / 4)

/-- NVW_TILE_PROGRAMMED (R36, R232, R233, R238): the next tile of an NVW_PROGRAM passes through the staging in the Basin,
unless a stream holds it there, and is programmed; with VERIFY a tile that
fails the comparison retires its block, whose tiles are programmed again on a spare. -/
def execNvwTileProgrammed (w : BitVec 64) (ok : Bool) (s : State) : Host.Outcome State Fault Refusal :=
  event (match s.nvwProgs.find? fun p => p.wid = w with
    | none => s
    | some p =>
      match tget s.allocs p.region with
      | none => s
      | some l =>
        let n := s.progDone p
        let i := p.start + n
        let k := nvwStackOf l (i * tileBytes)
        if (s.nvwStack k).deferred || s.part.mastersStopped then s
        else
          match s.progTile p n with
          | (s', none, fin) => if fin then s'.endProg p stOk else s'
          | (s', some (bs, bad), _) =>
            if bad then s'.endProg p stNvwPoisonRefused
            else
              let fresh := (s'.nvwProgs.find? fun x => x.wid = w).getD p
              let again := p.verify && !ok
              let blk := blockOf l i
              let s' := if again then (match blk.1 with | some b => s'.replaceBlocks [b] | none => s') else s'
              let (s', bs) := if p.stream != 0 then (s', bs) else
                let r := s'.landIn areaTransit tileBytes bs []
                (r.1, r.2.1)
              let s' := (s'.store (p.region + i * tileBytes) bs).modAlloc p.region fun x => { x with programmed := i + 1 }
              let p' : NvwProg := { fresh with reprog := fresh.reprog + (if again then blk.2 + 1 else 0) }
              let s' : State := { s' with nvwProgs := s'.nvwProgs.map fun x => if x.wid = w then p' else x }
              if n + 1 = p.tiles then s'.endProg p' stOk else s')

/-- NVW_SEAL of either level (R235): the digest is computed before NVW_SEAL_DIGEST_COMPLETE. -/
def State.nvwSeal (s : State) (c : Cmd) (expect : List Byte) : Except Err State := do
  let (a, l) ← s.regionAt c (c.u64 0)
  need (a = c.u64 0) stBadAlloc
  need (l.nvw = .programming && l.programmed * tileBytes = l.len && !s.regionBusy a) stNvwState
  let _ ← s.resolve c (c.u64 8) 48 true
  .ok (s.wait c.w (.seal a (BitVec.ofNat 64 (c.u64 8)) expect))

/-- NVW_SEAL. -/
def nvwSealBody (c : Cmd) (s : State) : Except Err State := s.nvwSeal c []

/-- NVW_SEAL, expert: against an expected digest. -/
def nvwSealExpertBody (c : Cmd) (s : State) : Except Err State := do
  let (e, _) ← s.readBuf c (c.u64 16) 48
  s.nvwSeal c e

/-- Writes bytes to a buffer that a command named earlier: one of its function's paddock, or the host's. -/
def State.lateWrite (s : State) (fn a : Nat) (bs : List Byte) : State :=
  match s.allocAt a with
  | some e => if fn != 0 && e.2.owner = fn - 1 then s.store a bs else s.hostWrite fn a bs false
  | none => s.hostWrite fn a bs false

/-- The function of a waiting command. -/
def State.fnOf (s : State) (w : BitVec 64) : Nat := ((s.jrec w).map fun j => ringFn j.ring).getD 0

/-- NVW_SEAL_DIGEST_COMPLETE (R235): the digest is recorded and the region SEALED, and Kryto measures a shared one;
a mismatch leaves it PROGRAMMING. -/
def execNvwSealDigestComplete (w : BitVec 64) (s : State) : Host.Outcome State Fault Refusal :=
  event (match s.waits.find? fun x => x.wid = w with
    | none => s
    | some x =>
      match x.kind with
      | .seal a buf expect =>
        match tget s.allocs a with
        | none => s.complete w stBadAlloc
        | some l =>
          let d := sha384 (s.bytes a l.len)
          let s := s.lateWrite (s.fnOf w) buf.toNat d
          if !expect.isEmpty && expect != d then s.complete w stImageDigest
          else
            let s := s.modAlloc a fun y => { y with nvw := .sealed, digest := d }
            let s : State := if l.owner = 15 then { s with kryto := { s.kryto with measures := tput s.kryto.measures a d } } else s
            s.complete w stOk
      | _ => s)

/-- NVW_ERASE of either level (R213, R230, R236, R245): own regions that are attached, on the management session any. -/
def State.nvwErase (s : State) (c : Cmd) (release : Bool) : Except Err State := do
  let a := c.u64 0
  let l ← s.namedAlloc c a
  need (l.tier = .nvw) stBadAlloc
  need (c.mgmt || l.nvw != .detached) stNvwState
  need (l.grants.isEmpty && !s.allocInUse a l) stAllocInUse
  need (!s.regionBusy a) stNvwState
  .ok (s.wait c.w (.erase a release))

/-- NVW_ERASE. -/
def nvwEraseBody (c : Cmd) (s : State) : Except Err State := s.nvwErase c false

/-- NVW_ERASE, expert: with RELEASE the region is freed too. -/
def nvwEraseExpertBody (c : Cmd) (s : State) : Except Err State := s.nvwErase c (c.flag 8)

/-- NVW_ERASE_COMPLETE (R230, R238): the blocks are erased, those of `fails` failed and are retired. -/
def execNvwEraseComplete (w : BitVec 64) (fails : List (Nat × Nat)) (s : State) :
    Host.Outcome State Fault Refusal :=
  event (match s.waits.find? fun x => x.wid = w with
    | none => s
    | some x =>
      match x.kind with
      | .erase a rel =>
        match tget s.allocs a with
        | none => s.complete w stBadAlloc
        | some l =>
          let s := (s.wipe a l).eraseBlocks l fails
          let s := s.modAlloc a fun y => { y with nvw := .erased, programmed := 0, torn := none, digest := [], keyTag := [] }
          let s : State := { s with kryto := { s.kryto with measures := tdel s.kryto.measures a } }
          (if rel then s.release a else s).complete w stOk
      | _ => s)

/-- NVW_GRANT of either level (R236). -/
def State.nvwGrant (s : State) (c : Cmd) (revoke : Bool) : Except Err State := do
  let (a, l) ← s.regionAt c (c.u64 0)
  need (a = c.u64 0) stBadAlloc
  let p := c.u32 8
  need (p < 8 && thas s.paddocks p) stBadParam
  need (l.nvw = .sealed) stNvwState
  .ok ((s.modAlloc a fun x => { x with grants := if revoke then x.grants.filter fun q => q != p else insNat p x.grants }).ok c)

/-- NVW_GRANT. -/
def nvwGrantBody (c : Cmd) (s : State) : Except Err State := s.nvwGrant c false

/-- NVW_GRANT, expert: REVOKE withdraws a grant. -/
def nvwGrantExpertBody (c : Cmd) (s : State) : Except Err State := s.nvwGrant c (c.flag 12)

/-- The code of a region state (Table 7-6, in its order). -/
def NvwState.code : NvwState → Nat
  | .erased => 0
  | .programming => 1
  | .sealed => 2
  | .detached => 3

/-- The 128-byte record of a region (log entry 11). -/
def State.regionRecord (s : State) (l : Alloc) : List Byte :=
  let cyc := l.pages.map fun q => (s.nvwStack q.1).cyc q.2
  slice (leBytes 8 l.nvw.code ++ leBytes 8 l.len ++ leBytes 8 l.programmed ++ slice l.digest 0 48 ++
    leBytes 8 (sumNat (l.grants.map fun p => 2 ^ p)) ++ leBytes 4 (cyc.foldl min 65535) ++ leBytes 4 (cyc.foldl max 0)) 0 128

/-- NVW_QUERY: a region of the caller, or one it has been granted; on the management session any. -/
def nvwQueryBody (c : Cmd) (s : State) : Except Err State := do
  match tget s.allocs (c.u64 0) with
  | none => fail stBadAlloc
  | some l =>
    need (l.tier = .nvw && !l.sys) stBadAlloc
    need (manages c l || l.grants.contains c.pad) stNotPermitted
    let s1 ← s.writeBuf c (c.u64 8) (s.regionRecord l)
    .ok (s1.ok c)

/-- The 256-byte record of a stack (log entry 11): free, retired and spare blocks, the age of the oldest patrol read,
the fraction of the retention life spent, and the blocks per 1,000 cycles. -/
def State.stackRecord (s : State) (k : Nat) : List Byte :=
  let n := s.nvwStack k
  let used := s.nvwUsed k
  let old := used.foldl (fun m b => min m (tgetD 0 n.patrol b)) s.t
  let hist := fun (i : Nat) => ((List.range 8448).filter fun b => n.cyc b / 1000 = i).length
  slice ([(s.nvwFree k).length, n.retired.length, n.spare, (s.t - old) / secNs, (Config.retention n.retention).toNat].flatMap (fun v => leBytes 8 v) ++
    (List.range 11).flatMap fun i => leBytes 4 (hist i)) 0 256

/-- NVW_QUERY, expert: one record per stack. -/
def nvwQueryExpertBody (c : Cmd) (s : State) : Except Err State := do
  let n := min 4 (c.u32 8)
  let s1 ← s.writeBuf c (c.u64 0) ((List.range n).flatMap s.stackRecord)
  .ok (s1.ok c n)

/-- NVW_PATROL (R238): a programmed block is read within its 30 days; one whose corrected bits exceed the retention
threshold is to be relocated. -/
def execNvwPatrol (stack block : Nat) (relocate : Bool) (s : State) : Host.Outcome State Fault Refusal :=
  event (if 4 ≤ stack || !(s.nvwUsed stack).contains block then s
    else s.modNvw stack fun n => { n with patrol := tput n.patrol block s.t,
                                          reloc := if relocate then insNat block n.reloc else n.reloc })

/-- NVW_RELOCATION_SWITCH (R238): the copy of a block is complete and the block map switches; the old block is erased
for reuse. -/
def execNvwRelocationSwitch (stack block : Nat) (s : State) : Host.Outcome State Fault Refusal :=
  event (if !(s.nvwStack stack).reloc.contains block || (s.nvwStack stack).deferred || (s.nvwSpare stack).isNone then s
    else
      let s := s.swapBlock stack block
      let s := s.modNvw stack fun n => { n with reloc := n.reloc.filter fun b => b != block }
      (s.cycleBlocks [(stack, block)]).1)

/-! ### Host reads of PCIe engines (R191) -/

/-- A host read of one tile for a STREAM_BIND or an NVW_PROGRAM is answered: with data, or with a failure that gives
zeros, every line poisoned. -/
def State.hostTile (s : State) (w : BitVec 64) (tile : Nat) (data : Option (List Byte)) : State :=
  let bad := data.isNone
  let bytes := match data with | some d => slice d 0 tileBytes | none => List.replicate tileBytes 0#8
  match s.bindOf w with
  | some b =>
    match tget s.streams b.handle with
    | none => s
    | some st =>
      if !b.host || b.consumer.isSome || b.tiles ≤ tile || st.state != .opened || !st.credit (b.base + tile) ||
          b.doneTiles.contains tile || b.landed.any (fun e => e.1 = tile) then s
      else
        let lines := (List.range 64).map fun j => (tile, j, bad, (bytes.drop (256 * j)).take 256)
        s.modBind w fun x => { x with landed := x.landed ++ lines }
  | none =>
    let progs := s.nvwProgs.map fun p =>
      if p.wid = w && p.stream = 0 && p.src / 2 ^ 56 != 0xFA && tile < p.tiles && !p.staged.any (fun e => e.1 = tile) then
        { p with staged := p.staged ++ [(tile, bad, bytes)] }
      else p
    { s with nvwProgs := progs }

/-- PCIE_READ_COMPLETION (R191). -/
def execPcieReadCompletion (w : BitVec 64) (tile : Nat) (data : Option (List Byte)) (s : State) :
    Host.Outcome State Fault Refusal := event (s.hostTile w tile data)

/-- PCIE_COMPLETION_TIMEOUT (R191). -/
def execPcieCompletionTimeout (w : BitVec 64) (tile : Nat) (s : State) : Host.Outcome State Fault Refusal :=
  event (s.hostTile w tile none)

/-! ### The parking tier (R239 to R242, R245) -/

/-- The 64 bytes of a device (log entry 11): port, width, rate, capacity in GiB, interleave set, state, violations,
timeouts. -/
def State.devRecord (s : State) (d : Nat) : List Byte :=
  match tget s.cxl.devs d with
  | none => List.replicate 64 0#8
  | some e =>
    let width := if s.cxl.bifur = 0 then 16 else if s.cxl.bifur = 1 then 8 else 4
    slice (leBytes 4 d ++ leBytes 4 width ++ leBytes 4 (if e.slow then 32 else 64) ++ leBytes 4 e.capacity ++ leBytes 4 e.iset ++
      leBytes 4 (if e.inService then 1 else if e.offline then 2 else 0) ++ leBytes 8 e.violations ++ leBytes 8 e.timeouts) 0 64

/-- The records of the devices present. -/
def State.devRecords (s : State) : List Byte := s.cxl.devs.flatMap fun e => s.devRecord e.1

/-- PARK_QUERY. -/
def parkQueryBody (c : Cmd) (s : State) : Except Err State := do
  let s1 ← s.writeBuf c (c.u64 0) s.devRecords
  .ok (s1.ok c)

/-- PARK_QUERY, expert (opcode 0x018B): `evs` are the event records that the devices answer over CXL.io. -/
def execParkQueryExpert (w : BitVec 64) (evs : List Byte) (s : State) : Host.Outcome State Fault Refusal :=
  run 0x018B w [] s fun c s => do
    let s1 ← s.writeBuf c (c.u64 0) s.devRecords
    let s2 ← s1.writeBuf c (c.u64 8) evs
    .ok (s2.ok c)

/-- A device as a scan finds it. -/
def newDev (serial : BitVec 64) (capacity : Nat) (slow : Bool) : CxlDev :=
  { serial := serial, capacity := capacity, slow := slow, inService := false, offline := false, iset := 0, spent := 0, violTimes := [],
    violations := 0, toTimes := [], timeouts := 0 }

/-- The ports that a bifurcation gives. -/
def Cxl.ports (x : Cxl) : Nat := if x.bifur = 0 then 1 else if x.bifur = 1 then 2 else 4

/-- A scan of the port: every present device that is not in service comes into service (R239, R241). -/
def State.rescan (s : State) (found : List CxlFound) : State :=
  let new := (found.filter fun e => e.port < s.cxl.ports &&
    (match tget s.cxl.devs e.port with | some d => !d.inService | none => true)).map fun e =>
      (e.port, newDev e.serial e.capacity e.slow)
  s.bringDevs (sortOn (fun (e : Nat × CxlDev) => e.1) new) (s.cxl.devs.all fun e => !e.2.inService)


end Sys2Proof.Machine
end

