-- ==== Sys2Proof/Machine/Park.lean ====
section
/-! DEFINITION. The parking tier's devices (R239 to R242), their control (R245), and the memory telemetry (R226,
R245). -/

namespace Sys2Proof.Machine

open Sys2Proof

/-! ### Responses and violations (R239, R240, R242) -/

/-- A device violation (Table 7-8): discarded, counted, logged with port and serial number; the sixteenth within a
second, or a change of capacity in service, takes the device offline (R241, R242). -/
def State.cxlViolation (s : State) (d n : Nat) : State :=
  match tget s.cxl.devs d with
  | none => s
  | some e =>
    let recent := s.t :: e.violTimes.filter fun u => s.t < u + secNs
    let s := s.modDev d fun x => { x with violTimes := recent, violations := x.violations + 1 }
    let s := s.logEv evCxlViolation 0xFF#8 stCxlProtocol d 0#64 (leBytes 4 n ++ leBytes 4 d ++ leBytes 8 e.serial.toNat)
    if n = 5 || 16 ≤ recent.length then s.offline d else s

/-- A response of a device to a tag: what Table 7-8 names is a violation, anything else is the answer of its
request. `viol` is 0, or the number of a violation that the port itself sees. -/
def State.cxlResponse (s : State) (dev tag viol : Nat) (write : Bool) (answer : TagReq → State) : State :=
  if 3 ≤ viol && viol ≤ 5 then s.cxlViolation dev viol
  else
    match s.tagOf tag with
    | none => s.cxlViolation dev 1
    | some q =>
      if !q.park || q.dev != dev then s.cxlViolation dev 1
      else if q.write != write then s.cxlViolation dev 2
      else answer q

/-- CXL_DRS: read data, poisoned or not. -/
def execCxlDrs (dev tag : Nat) (poison : Bool) (viol : Nat) (s : State) : Host.Outcome State Fault Refusal :=
  event (s.cxlResponse dev tag viol false fun q => s.readDone q (if poison then [2] else []))

/-- CXL_NDR: the completion of a write. -/
def execCxlNdr (dev tag viol : Nat) (s : State) : Host.Outcome State Fault Refusal :=
  event (s.cxlResponse dev tag viol true fun q => s.writeDone q)

/-- CXL_REQUEST_TIMEOUT (R240): 1 ms after its issue; the eighth within a second takes the device offline (R241). -/
def execCxlRequestTimeout (tag : Nat) (s : State) : Host.Outcome State Fault Refusal :=
  event (match s.tagOf tag with
    | none => s
    | some q =>
      if !q.park then s
      else
        let s := s.reach (q.issuedAt + msNs)
        let s := s.tagTimeout q
        let recent := s.t :: (((tget s.cxl.devs q.dev).map (·.toTimes)).getD []).filter fun u => s.t < u + secNs
        let s := s.modDev q.dev fun x => { x with toTimes := recent, timeouts := x.timeouts + 1 }
        if 8 ≤ recent.length then s.offline q.dev else s)

/-- CXL_LINK_DOWN (R241): a link is down after three retrain attempts, or a fatal or uncorrectable CXL.io error occurs. -/
def execCxlLinkDown (dev : Nat) (s : State) : Host.Outcome State Fault Refusal := event (s.offline dev)

/-! ### PARK_CONTROL (R239, R241, R245) -/

/-- PARK_CONTROL of either level; `found` are the devices that a scan finds: port, serial number, capacity in GiB, and
whether the link trained at 32 GT/s. -/
def State.parkControl (s : State) (c : Cmd) (bifur : Option Nat) (found : List CxlFound) :
    Except Err State := do
  let act := c.u32 4
  need (act ≤ 1) stBadParam
  let s1 ← (match bifur with
    | none => .ok s
    | some k =>
      if 2 < k then fail stBadParam
      else if k = s.cxl.bifur then .ok s
      else if s.cxl.devs.any fun e => e.2.inService then fail stBadParam
      else .ok { s with cxl := { s.cxl with bifur := k, devs := [] } })
  if act = 0 then .ok ((s1.rescan found).ok c)
  else
    match tget s1.cxl.devs (c.u32 0) with
    | none => fail stBadParam
    | some _ => .ok ((s1.offline (c.u32 0)).ok c)

/-- PARK_CONTROL (opcode 0x010C). -/
def execParkControl (w : BitVec 64) (found : List CxlFound) (s : State) :
    Host.Outcome State Fault Refusal := run 0x010C w [] s fun c s => s.parkControl c none found

/-- PARK_CONTROL, expert (opcode 0x018C): with the bifurcation. -/
def execParkControlExpert (w : BitVec 64) (found : List CxlFound) (s : State) :
    Host.Outcome State Fault Refusal := run 0x018C w [] s fun c s => s.parkControl c (some (c.u32 8)) found

/-! ### MEM_TELEMETRY (R226, R245) -/

/-- The age of a channel's oldest unscrubbed sector, in seconds: the scrub takes sectors in turn. -/
def State.scrubAge (s : State) (k : Nat) : Nat :=
  let x := s.hbm.chan k
  (s.t - tgetD 0 x.scrubbed x.scrubPos) / secNs

/-- The 64 bytes of a group of channels (log entry 11): units read and written, corrected, uncorrectable and poison
reads, refreshes, forced calibrations, temperature in 1/16 degC, scrub age in s. -/
def State.telemetryRecord (s : State) (stack : Nat) (ks : List Nat) : List Byte :=
  let sum := fun (f : Chan → BitVec 64) => sumNat (ks.map fun k => (f (s.hbm.chan k)).toNat)
  let units := fun (t : Tbl (BitVec 64)) => sumNat (ks.map fun k => (tgetD 0#64 t k).toNat) % 2 ^ 64
  leBytes 8 (units s.hbm.bytesRead) ++ leBytes 8 (units s.hbm.bytesWritten) ++
  leBytes 8 (sum (·.corrected)) ++ leBytes 8 (sum (·.uncorrectable)) ++ leBytes 8 (sum (·.poisonReads)) ++
  leBytes 8 (sum (·.refreshes)) ++ leBytes 8 (sum (·.forcedCals)) ++
  leBytes 2 (BitVec.ofInt 16 (tgetD 0 s.hbm.temp stack)).toNat ++ leBytes 2 0 ++
  leBytes 4 (ks.foldl (fun m k => max m (s.scrubAge k)) 0)

/-- The channels of a stack. -/
def stackChans (k : Nat) : List Nat := (List.range 32).map fun i => 32 * k + i

/-- MEM_TELEMETRY: one record per stack. -/
def memTelemetryBody (c : Cmd) (s : State) : Except Err State := do
  let s1 ← s.writeBuf c (c.u64 0) ((List.range 12).flatMap fun k => s.telemetryRecord k (stackChans k))
  .ok (s1.ok c)

/-- MEM_TELEMETRY, expert: one record per channel of the stacks in the mask. -/
def memTelemetryExpertBody (c : Cmd) (s : State) : Except Err State := do
  let ks := (List.range 12).filter fun k => bitAt (c.u32 8) k
  let s1 ← s.writeBuf c (c.u64 0) (ks.flatMap fun k => (stackChans k).flatMap fun i => s.telemetryRecord k [i])
  .ok (s1.ok c)

end Sys2Proof.Machine
end

