-- ==== Sys2Proof/Machine/FarrierOps.lean ====
section
/-! DEFINITION. Farrier's runs (R488 to R496): what may be tested, the records, and the end of a run. -/

namespace Sys2Proof.Machine

open Sys2Proof

/-- The number of indices of a domain (Table 15-1). -/
def domainSize (d : Nat) : Nat := ([336, 4, 384, 12, 1, 16][d]?).getD 0

/-- Whether a frame of a paddock is assigned on an HBM4 channel (R488). -/
def Hbm.inUse (h : Hbm) (c : Nat) : Bool :=
  h.globUse.any (fun (e : Nat × Nat) => e.2 != 0 && !(e.1 = 42 && e.2 = 256)) ||
  h.nearUse.any (fun (e : Nat × Nat) => e.2 != 0 && e.1 % 4 = c / 96) ||
  h.subst.any fun (e : Nat × Nat) => e.2 / 1024 = c

/-- Whether the precondition of an index holds (Table 15-1), and no test or margin has it already. -/
def State.testable (s : State) (d i : Nat) : Bool :=
  !s.underTest d i &&
  match d with
  | 0 =>
    s.physState i != .bringUp &&
    match s.logicalOf i with
    | none => true
    | some l => !(s.team l).replacing && s.paddocks.all fun (e : Nat × Paddock) => !e.2.teams.contains l && !e.2.leaving.contains l
  | 1 => s.allocs.all fun e => (tilesIn i e).1 = (tilesIn i e).2
  | 2 => ((s.hbm.chan i).mapped && (s.hbm.chan i).migrating.isNone) || !s.hbm.inUse i
  | 3 => s.learn.sets.all fun (e : Nat × LSet) =>
      !(e.2.state = .sweeping || s.learn.exchs.any fun (x : Exch) => x.set = e.1) || (s.unitSpans e.2 i).isEmpty
  | 4 => s.quays.all fun (e : Nat × Quay) => e.2.ended.isSome
  | _ => (s.port i).state = .disabled || (s.port i).state = .down

/-- The key of an index in the table of records. -/
def testKey (d i : Nat) : Nat := 1024 * d + i

/-- The record of an index that was not tested (R505). -/
def abortedRec : TestRec :=
  { result := 3#8, signature := 0#64, expected := 0#64, repairs := 0#16, ceiling := 0#16, duration := 0#32 }

/-- An index's last record; one that has never been tested reads ABORTED (log entry 11). -/
def State.testRec (s : State) (d i : Nat) : TestRec := (tget s.farrier.records (testKey d i)).getD abortedRec

/-- The 32 bytes of a self-test record (Table 15-2). -/
def State.testBytes (s : State) (d i : Nat) : List Byte :=
  let r := s.testRec d i
  [BitVec.ofNat 8 d, r.result] ++ leBytes 2 i ++ leBytes 8 r.signature.toNat ++ leBytes 8 r.expected.toNat ++
  leBytes 2 r.repairs.toNat ++ leBytes 2 r.ceiling.toNat ++ leBytes 4 r.duration.toNat ++ leBytes 4 0

/-- The combined signature of some indices (R490). -/
def State.combined (s : State) (d : Nat) (is : List Nat) : BitVec 64 :=
  chainDigest (is.flatMap fun i => [(s.testRec d i).signature.truncate 32, ((s.testRec d i).signature >>> 32).truncate 32])

/-- Every index of domains 0 to 5, in increasing domain and index. -/
def allIndices : List (Nat × Nat) := (List.range 6).flatMap fun d => (List.range (domainSize d)).map fun i => (d, i)

/-- Kryto's measurement of the combined signature, once every index has been tested (R490). -/
def State.measureTests (s : State) : State :=
  if allIndices.any fun e => !thas s.farrier.records (testKey e.1 e.2) then s
  else
    let ws := allIndices.flatMap fun e =>
      [(s.testRec e.1 e.2).signature.truncate 32, ((s.testRec e.1 e.2).signature >>> 32).truncate 32]
    { s with kryto := { s.kryto with measures := tput s.kryto.measures 0 (leBytes 8 (chainDigest ws).toNat) } }

/-- Changes the runs of a command that hold an index. -/
def State.modRun (s : State) (w : BitVec 64) (i : Nat) (f : TestRun → TestRun) : State :=
  { s with farrier := { s.farrier with
      runs := s.farrier.runs.map fun (r : TestRun) => if r.wid = w && r.left.contains i then f r else r } }

/-- Writes the record of an index. -/
def State.putRec (s : State) (d i : Nat) (r : TestRec) : State :=
  { s with farrier := { s.farrier with records := tput s.farrier.records (testKey d i) r } }

/-- Ends the run of a command: its records go to its buffer, and it completes (Table 15-7). -/
def State.endRun (s : State) (r : TestRun) (st : BitVec 16) : State :=
  let s : State := { s with farrier := { s.farrier with runs := s.farrier.runs.filter fun (x : TestRun) =>
    !(x.wid = r.wid && x.first = r.first && x.domain = r.domain) } }
  if r.wid = 0#64 then s
  else
    let is := sortOn id (r.done ++ r.left)
    let s := if r.restore.isSome then s else s.lateWrite (s.fnOf r.wid) r.buf.toNat (is.flatMap fun i => s.testBytes r.domain i)
    let s := s.measureTests
    if r.basic then s.complete r.wid st (s.testRec r.domain r.first).signature (BitVec.ofNat 32 (s.testRec r.domain r.first).result.toNat)
    else s.complete r.wid st (s.combined r.domain is) (BitVec.ofNat 32 r.failed)

/-- Stops a run: untested indices read ABORTED (R505). -/
def State.stopRun (s : State) (r : TestRun) (st : BitVec 16) : State :=
  (r.left.foldl (fun s i => s.putRec r.domain i abortedRec) s).endRun r st

/-- A substitution needs a spare under test: its test stops, its record reads ABORTED (R496). A margin of it stops as
one that the unit's service ends. -/
def State.stopSpareTest (s : State) (p : Nat) : State :=
  let s := (s.farrier.runs.filter fun (r : TestRun) => r.domain = 0 && r.left.contains p).foldl (fun s (r : TestRun) =>
    let s := s.putRec 0 p abortedRec
    let r' := { r with left := r.left.filter fun x => x != p, done := r.done ++ [p] }
    let s := s.modRun r.wid p fun _ => r'
    if r'.left.isEmpty then s.endRun r' (if r.failed = 0 then stOk else stSelftestFail) else s) s
  let ms := (s.farrier.margins.filter fun (m : Margin) => m.kind = 2 && m.index = p).map (·.wid)
  ({ s with farrier := { s.farrier with margins := s.farrier.margins.filter fun (m : Margin) => !ms.contains m.wid } } : State).completeAll
    ms stInService

end Sys2Proof.Machine
end

