-- ==== Sys2Proof/Machine/Resil.lean ====
section
/-! DEFINITION. Lost members, the mooring commands, RESIL_WAIT and the journal query, and the substitution of teams
(R398, R414 to R416, R426 to R438). -/

namespace Sys2Proof.Machine

open Sys2Proof

/-! ### Lost members (R398, R432) -/

/-- ROUTE_LOSS (R398): a member's route has been lacking for 100 ms. `cells` names the cells of it that no epoch's
cells decode: mooring group, cell, epoch lag (R432). -/
def execRouteLoss (part : BitVec 16) (cells : List (Nat × Nat × Nat)) (s : State) : Host.Outcome State Fault Refusal :=
  event (match tget s.trace.lostRoute part.toNat with
    | none => s
    | some t =>
      let s := (s.reach (t + 100 * msNs)).loseMember part
      s.moors.foldl (fun s e => s.moorLoses e.1 part ((cells.filter fun c => c.1 = e.1).map fun c => c.2)) s)

/-! ### Creation and the end of a group (R426, R427, R438) -/

/-- A mooring group of the caller's paddock (R438). -/
def State.ownMoor (s : State) (c : Cmd) : Except Err (Nat × Moor) :=
  let k := c.u32 0
  match tget s.moors k with
  | some m => if m.paddock = c.pad && !c.mgmt then .ok (k, m) else fail stBadMoor
  | none => fail stBadMoor

/-- What RESIL_MOOR_CREATE names (Table 12-10). -/
structure MoorReq where
  /-- spare list address, 0 none -/
  spares : Nat
  /-- AUTO_REPLACE -/
  auto : Bool
  /-- timeout, ms -/
  timeout : Nat
  /-- parity area address, 0 to allocate -/
  parity : Nat
deriving DecidableEq, Repr

/-- The part identifiers of a list of 16-bit numbers. -/
def partsOf (bs : List Byte) (n : Nat) : List (BitVec 16) := (List.range n).map fun i => BitVec.ofNat 16 (fld bs (2 * i) 2)

/-- The protected allocations of a paddock, rising. -/
def State.mooredOf (s : State) (pad : Nat) : List Nat :=
  sortOn id ((s.allocs.filter fun e => e.2.owner = pad && e.2.moored && e.2.tier = .hbm).map (·.1))

/-- The parity area: the one named, or one that Iluvo allocates with PERSIST (R427). -/
def State.parityArea (s : State) (c : Cmd) (len named : Nat) : Except Err (Nat × State) :=
  if len = 0 then .ok (0, s)
  else if named = 0 then s.allocate { owner := c.pad, tier := .hbm, near := false, die := 0, len := len, persist := true,
                                      moored := false, sys := true }
  else do
    need (named % 256 = 0) stBadParam
    let _ ← s.ownRange c named len [.hbm]
    .ok (named, s)

/-- RESIL_MOOR_CREATE of either level (R426, R427). `others` is what the other members and spares have issued: none, not
in time; whether their values agree, and the greatest cell count among them. -/
def State.moorCreate (s : State) (c : Cmd) (q : MoorReq) (others : Option (Bool × Nat)) : Except Err State := do
  let (k, n, dk, dm, role) := (c.u32 0, c.u16 4, c.u8 6, c.u8 7, c.u32 16)
  need (role < 2) stBadReserved
  need (k ≠ 0 && !thas s.moors k && 2 ≤ dk && dk ≤ 14 && 1 ≤ dm && dm ≤ 4 && n = dk + dm && n ≤ 18) stBadMoor
  need (!c.mgmt) stNotPermitted
  need (s.moors.all fun e => e.2.paddock != c.pad) stBadMoor
  let l ← s.readBuf c (c.u64 8) (2 * n)
  let members := partsOf l.1 n
  let sl ← if q.spares = 0 then .ok ([], false) else s.readBuf c q.spares 8
  let spares := (partsOf sl.1 (sl.1.length / 2)).filter fun p => p != 0xFFFF#16
  let me := s.part.partId
  need (members.eraseDups.length = n && (spares.eraseDups.length = spares.length)) stBadMoor
  need (if role = 0 then members.contains me && !spares.contains me else spares.contains me || members.contains me) stBadMoor
  match others with
  | none => .error { st := stCollectiveTimeout, res := 0#64, det := 0#32 }
  | some (same, most) => do
    need same stBadMoor
    let space := s.mooredOf c.pad
    let own := s.spaceLen space / cellBytes
    let cc := roundUp (max own most) dk
    let (a, s1) ← s.parityArea c (cc / dk * dm * cellBytes) q.parity
    let rank := if role = 0 then some (members.findIdx (· == me)) else none
    let m : Moor :=
      { paddock := c.pad, k := dk, m := dm, members := members, spares := spares, rank := rank, auto := q.auto,
        timeout := q.timeout, c := cc, parity := a, parityOwn := q.parity = 0 && a ≠ 0, space := space, state := .active,
        epoch := 1, committedEpoch := 0, dirty := if role = 0 then List.range own else [], flight := [], refreshes := [],
        lost := [], lostAt := 0, lostCells := [], rebuildBy := [], rebuildFor := none, shrinkBy := [], bound := 0,
        deadline := 0, refreshNs := 0, rebuildNs := 0, startedAt := 0 }
    .ok (({ s1 with moors := tput s1.moors k m } : State).noteRoutes.ok c (rank.getD 0xFFFF) cc)

/-- RESIL_MOOR_CREATE. -/
def execResilMoorCreate (w : BitVec 64) (hm : HostImage) (others : Option (Bool × Nat)) (s : State) :
    Host.Outcome State Fault Refusal :=
  run 0x0701 w hm s fun c s => s.moorCreate c { spares := 0, auto := false, timeout := 10000, parity := 0 } others

/-- RESIL_MOOR_CREATE, expert. -/
def execResilMoorCreateExpert (w : BitVec 64) (hm : HostImage) (others : Option (Bool × Nat)) (s : State) :
    Host.Outcome State Fault Refusal :=
  run 0x0781 w hm s fun c s =>
    s.moorCreate c { spares := c.u64 24, auto := c.flag 32, timeout := c.u32 36, parity := c.u64 40 } others

/-- RESIL_MOOR_DESTROY of either level (R426, R438). -/
def State.moorDestroy (s : State) (c : Cmd) (wait : Bool) : Except Err State := do
  let (k, m) ← s.ownMoor c
  s.moorMoving m
  need (m.state = .active || m.state = .lost) stMoorState
  if wait && !m.refreshes.isEmpty then .ok (s.wait c.w (.moorFree k))
  else .ok (((s.endMoorCmds k stCancelled).dropMoor k m).ok c)

/-- RESIL_MOOR_DESTROY. -/
def resilMoorDestroyBody (c : Cmd) (s : State) : Except Err State := s.moorDestroy c false

/-- RESIL_MOOR_DESTROY, expert. -/
def resilMoorDestroyExpertBody (c : Cmd) (s : State) : Except Err State := s.moorDestroy c (c.flag 4)

/-! ### Refresh (R430, R431) -/

/-- RESIL_MOOR_REFRESH of either level: it completes when its epoch commits. -/
def State.moorRefresh (s : State) (c : Cmd) (full : Bool) : Except Err State := do
  let (k, m) ← s.ownMoor c
  s.moorBusy m
  need (m.state = .active && m.rank.isSome) stMoorState
  if m.refreshes.any fun r => r.2 = some c.w then .ok s else .ok (s.startRefresh k full (some c.w))

/-- RESIL_MOOR_REFRESH. -/
def resilMoorRefreshBody (c : Cmd) (s : State) : Except Err State := s.moorRefresh c false

/-- RESIL_MOOR_REFRESH, expert: with FULL every cell counts as dirty. -/
def resilMoorRefreshExpertBody (c : Cmd) (s : State) : Except Err State := s.moorRefresh c (c.flag 4)

/-- STRIPE_PARITY_COMPUTE (R430): the collector of a stripe holds its K data cells, writes parity 0 and sends the
others. -/
def execStripeParityCompute (moor stripe : Nat) (cells : List (Nat × List Byte × List Nat)) (s : State) :
    Host.Outcome State Fault Refusal :=
  event (match tget s.moors moor with
    | none => s
    | some m =>
      let data := (List.range m.k).filterMap fun j => cells.find? fun x => x.1 = j
      if m.rank != some (m.collector stripe) || m.stripes ≤ stripe || data.length < m.k then s
      else
        let ds := data.map fun x => x.2.1
        let bad := poisonOf data
        let s := s.putParity m (m.collector stripe) stripe (parityCell m.m 0 ds) bad
        ((List.range m.m).drop 1).foldl (fun s i =>
          s.sendCell moor stripe (m.members[(stripe + i) % m.n]?) (m.k + i, parityCell m.m i ds, bad)) s)

/-- STRIPE_COMMIT (R430): a holder has its parity; on a data member the stripe's cell is delivered. With the last
stripe the epoch commits. -/
def execStripeCommit (moor stripe : Nat) (parity : Option (List Byte × List Nat)) (last : Bool) (s : State) :
    Host.Outcome State Fault Refusal :=
  event (match tget s.moors moor with
    | none => s
    | some m =>
      match m.rank with
      | none => s
      | some r =>
        if m.stripes ≤ stripe then s
        else
          let s := if m.holds r (stripe % m.n) then
              (match parity with | some p => s.putParity m r stripe (slice p.1 0 cellBytes) p.2 | none => s)
            else s.modMoor moor fun x => { x with flight := x.flight.filter fun c => m.stripeOf r c != stripe }
          let done := ((tget s.moors moor).map (·.flight.isEmpty)).getD false
          if last && done && m.state != .shrinking then s.commitEpoch moor else s)

/-! ### Rebuild (R433, R434) -/

/-- RESIL_MOOR_REPLACE of either level. `joined`: the spare has joined the group, and its moored allocations have the
lost member's lengths. -/
def State.moorReplace (s : State) (c : Cmd) (timeout : Nat) (joined : Bool) : Except Err State := do
  let (k, m) ← s.ownMoor c
  let (lost, spare) := (BitVec.ofNat 16 (c.u16 4), BitVec.ofNat 16 (c.u16 6))
  s.moorBusy m
  need (m.state = .degraded) stMoorState
  need (m.lost.contains lost) stBadParam
  need ((m.spares.contains spare || spare = lost) && joined) stNoSpare
  .ok ((s.startRebuild k lost spare timeout).modMoor k fun x => { x with rebuildBy := x.rebuildBy ++ [c.w] })

/-- RESIL_MOOR_REPLACE: the timeout is the group's. -/
def execResilMoorReplace (w : BitVec 64) (joined : Bool) (s : State) : Host.Outcome State Fault Refusal :=
  run 0x0703 w [] s fun c s => s.moorReplace c (((tget s.moors (c.u32 0)).map (·.timeout)).getD 10000) joined

/-- RESIL_MOOR_REPLACE, expert. -/
def execResilMoorReplaceExpert (w : BitVec 64) (joined : Bool) (s : State) : Host.Outcome State Fault Refusal :=
  run 0x0783 w [] s fun c s => s.moorReplace c (c.u32 8) joined

/-- AUTO_REPLACE_START (R433): a group with AUTO_REPLACE rebuilds its first lost member on its first spare. -/
def execAutoReplaceStart (moor : Nat) (s : State) : Host.Outcome State Fault Refusal :=
  event (match tget s.moors moor with
    | none => s
    | some m =>
      match m.lost, m.spares, m.rank with
      | lost :: _, spare :: _, some _ =>
        if m.auto && m.state = .degraded then s.startRebuild moor lost spare m.timeout else s
      | _, _, _ => s)

/-- REBUILD_COMPLETE (R433): the spare has acknowledged its last cell. On the spare `shares` are what it received; it
takes the lost rank. The lost member's place is the spare's on every member. -/
def execRebuildComplete (moor : Nat) (lost spare : BitVec 16) (epoch : Nat)
    (shares : List (Nat × List (Nat × List Byte × List Nat))) (s : State) : Host.Outcome State Fault Refusal :=
  event (match tget s.moors moor with
    | none => s
    | some m =>
      if !m.lost.contains lost || m.state = .lost || m.state = .shrinking then s
      else
        let lr := m.members.findIdx (· == lost)
        let me : Bool := spare = s.part.partId
        let gone := (m.lostCells.filter fun c => c.2.1 = lost).length
        let left := m.lost.erase lost
        let s := if me then s.rebuildCells m lr shares else s
        let s := s.modMoor moor fun x => { x with
          members := x.members.map fun p => if p = lost then spare else p
          spares := x.spares.erase spare, lost := left, rebuildFor := none, rebuildBy := []
          rank := if me then some lr else x.rank
          committedEpoch := if me then epoch else x.committedEpoch
          epoch := if me then epoch + 1 else x.epoch
          rebuildNs := if m.rebuildFor.isSome then s.t - x.startedAt else x.rebuildNs }
        let s : State := { s with part := { s.part with rebuilds := s.part.rebuilds + 1#32 } }
        let s := m.rebuildBy.foldl (fun s w =>
          s.complete w stOk (BitVec.ofNat 64 (m.rankCells - gone)) (BitVec.ofNat 32 gone)) s
        s.enterMoor moor (if left.isEmpty then .active else .degraded))

/-! ### Shrink (R435) -/

/-- RESIL_MOOR_SHRINK of either level. `most` is the greatest cell count of the other survivors with their orphan areas;
`shares` are the cells that decode the lost rank's cells of this survivor. -/
def State.moorShrink (s : State) (c : Cmd) (timeout most : Nat) (shares : List (Nat × List Share)) : Except Err State := do
  let (k, m) ← s.ownMoor c
  let lost := BitVec.ofNat 16 (c.u16 4)
  s.moorBusy m
  need (m.state = .degraded && 3 ≤ m.k && m.rank.isSome) stMoorState
  need (m.lost.contains lost) stBadParam
  let oa := c.u64 8
  let o ← s.ownRange c oa ((m.c + m.n - 2) / (m.n - 1) * cellBytes) [.hbm]
  need (o.2.moored && o.1 = oa && !m.space.contains oa) stBadParam
  let lr := m.members.findIdx (· == lost)
  let members := m.members.erase lost
  let rank := members.findIdx (· == s.part.partId)
  -- cells of the lost rank that other survivors need from this one, and those that this one decodes
  let s1 := (List.range m.stripes).foldl (fun s x =>
    if m.holds lr (x % m.n) then s
    else
      let owner := members[m.cellIn lr x % (m.n - 1)]?
      if (match m.rank with | some r => (m.senders lr x).contains r | none => false) && owner != some s.part.partId then
        s.sendCell k x owner (s.ownShare m (m.rank.getD 0) x)
      else s) s
  let s1 := shares.foldl (fun s g =>
    let cell := m.cellIn lr g.1
    if m.holds lr (g.1 % m.n) || cell % (m.n - 1) != rank then s
    else match decodeStripe m.k m.m g.2 with
      | none => s
      | some ds => s.putCellAt (oa + cell / (m.n - 1) * cellBytes) ((ds[m.shareOf lr (g.1 % m.n)]?).getD [])
          (poisonOf (g.2.take m.k))) s1
  let space := sortOn id (m.space ++ [oa])
  let cc := roundUp (max (s1.spaceLen space / cellBytes) most) (m.k - 1)
  let s1 := if m.parityOwn then s1.release m.parity else s1
  let (pa, s2) ← s1.parityArea c (cc / (m.k - 1) * m.m * cellBytes) 0
  let s3 := s2.modMoor k fun x => { x with
    k := m.k - 1, members := members, rank := some rank, space := space, c := cc, parity := pa, parityOwn := pa ≠ 0,
    lost := x.lost.erase lost, shrinkBy := x.shrinkBy ++ [c.w] }
  let s4 := (s3.enterMoor k .shrinking).startRefresh k true none
  let b := (s4.spaceLen space) * (m.k + m.m - 2) / (m.k - 1)
  .ok (s4.modMoor k fun x => { x with
    deadline := s.t + timeout * msNs
    bound := s.t + 150 * msNs + s.moveNs m.paddock (m.k * m.rankCells * cellBytes / (m.n - 1) + b) })

/-- RESIL_MOOR_SHRINK. -/
def execResilMoorShrink (w : BitVec 64) (cells : Nat) (shares : List (Nat × List (Nat × List Byte × List Nat)))
    (s : State) : Host.Outcome State Fault Refusal :=
  run 0x0704 w [] s fun c s => s.moorShrink c (((tget s.moors (c.u32 0)).map (·.timeout)).getD 10000) cells shares

/-- RESIL_MOOR_SHRINK, expert. -/
def execResilMoorShrinkExpert (w : BitVec 64) (cells : Nat) (shares : List (Nat × List (Nat × List Byte × List Nat)))
    (s : State) : Host.Outcome State Fault Refusal :=
  run 0x0784 w [] s fun c s => s.moorShrink c (c.u32 16) cells shares

/-- SHRINK_COMPLETE (R435): the full refresh of the new group commits. -/
def execShrinkComplete (moor : Nat) (s : State) : Host.Outcome State Fault Refusal :=
  event (match tget s.moors moor with
    | none => s
    | some m =>
      if m.state != .shrinking || !m.flight.isEmpty then s
      else
        let s := (s.commitEpoch moor).completeAll m.shrinkBy stOk
        (s.modMoor moor fun x => { x with shrinkBy := [] }).enterMoor moor (if m.lost.isEmpty then .active else .degraded))

/-! ### Repair (R436) -/

/-- RESIL_MOOR_REPAIR of either level, over some of the poisoned lines: RESULT the lines repaired, DETAIL those lost. -/
def State.moorRepair (s : State) (c : Cmd) (only : Nat → Bool) (shares : List (Nat × List Share)) : Except Err State := do
  let (k, m) ← s.ownMoor c
  s.moorMoving m
  let r := s.repairLines k ((s.moorPoison m).filter only) shares
  .ok (r.1.ok c r.2.1 r.2.2)

/-- RESIL_MOOR_REPAIR: every poisoned line of the own moored cells. -/
def execResilMoorRepair (w : BitVec 64) (shares : List (Nat × List (Nat × List Byte × List Nat))) (s : State) :
    Host.Outcome State Fault Refusal := run 0x0705 w [] s fun c s => s.moorRepair c (fun _ => true) shares

/-- RESIL_MOOR_REPAIR, expert: the lines of the spans that a set's last sweep skipped. -/
def execResilMoorRepairExpert (w : BitVec 64) (shares : List (Nat × List (Nat × List Byte × List Nat))) (s : State) :
    Host.Outcome State Fault Refusal :=
  run 0x0785 w [] s fun c s => do
    let l ← s.ownSet c (c.u32 4)
    let ranges := l.skipList.flatMap fun x => match l.groups[x.1]? with | some g => s.spanReads g x.2 | none => []
    s.moorRepair c (fun line => ranges.any fun r => 256 * line < r.1 + r.2 && r.1 < 256 * line + 256) shares

/-- POISON_LINE_REPAIR (R436): Iluvo's own request for a poisoned line of a moored cell. -/
def execPoisonLineRepair (line : Nat) (shares : List (Nat × List (Nat × List Byte × List Nat))) (s : State) :
    Host.Outcome State Fault Refusal :=
  event (match s.moors.find? fun e => (s.moorPoison e.2).contains line with
    | none => s
    | some e => if e.2.state = .rebuilding || e.2.state = .shrinking then s else (s.repairLines e.1 [line] shares).1)

/-! ### Queries and RESIL_WAIT (R438) -/

/-- The 128-byte record of a group. -/
def Moor.encode (m : Moor) : List Byte :=
  [BitVec.ofNat 8 m.state.code, BitVec.ofNat 8 m.k, BitVec.ofNat 8 m.m, BitVec.ofNat 8 m.n] ++
  leBytes 2 (m.rank.getD 0xFFFF) ++ leBytes 2 m.lost.length ++ leBytes 8 m.epoch ++ leBytes 8 m.committedEpoch ++
  leBytes 8 (m.dirty.length + m.flight.length) ++ leBytes 8 m.lostCells.length ++ leBytes 8 m.refreshNs ++
  leBytes 8 m.rebuildNs ++ leBytes 8 m.c ++ (m.members ++ List.replicate (18 - m.n) 0xFFFF#16).flatMap (fun p => leBytes 2 p.toNat) ++
  List.replicate 28 0#8

/-- RESIL_MOOR_QUERY. -/
def resilMoorQueryBody (c : Cmd) (s : State) : Except Err State := do
  let (_, m) ← s.ownMoor c
  let s ← s.writeBuf c (c.u64 4) m.encode
  .ok (s.ok c)

/-- RESIL_MOOR_QUERY, expert: with entries for the lost cells. -/
def resilMoorQueryExpertBody (c : Cmd) (s : State) : Except Err State :=
  match tget s.moors (c.u32 8) with
  | none => fail stBadMoor
  | some m => do
    need (m.paddock = c.pad && !c.mgmt) stBadMoor
    let es := m.lostCells.take (c.u32 12)
    let s ← s.writeBuf c (c.u64 0)
      (m.encode ++ es.flatMap fun e => leBytes 8 e.1 ++ leBytes 2 e.2.1.toNat ++ leBytes 6 e.2.2)
    .ok (s.ok c)

/-- RESIL_WAIT of either level. -/
def State.resilWait (s : State) (c : Cmd) (mask : BitVec 32) : Except Err State := do
  let a := c.u64 0
  let _ ← s.resolve c a 64 true
  .ok (s.wait c.w (.resilEvent c.pad mask (BitVec.ofNat 64 a)))

/-- RESIL_WAIT. -/
def resilWaitBody (c : Cmd) (s : State) : Except Err State := s.resilWait c 0xFFFFFFFF#32

/-- RESIL_WAIT, expert: for the event types in the mask. -/
def resilWaitExpertBody (c : Cmd) (s : State) : Except Err State := s.resilWait c (BitVec.ofNat 32 (c.u32 8))

/-- The class of an opcode at settlement (Table 12-5). -/
inductive JClass where
  /-- fails with ST_WARM_RESET -/
  | fail
  /-- executed again from its progress -/
  | resume
  /-- has an outcome of its own -/
  | own
deriving DecidableEq, Repr

/-- The opcodes of class RESUME, without the bit of the expert level (Table 12-5). -/
def resumeOps : List Nat :=
  [0x0010, 0x0011, 0x0012, 0x0014, 0x0102, 0x0104, 0x0105, 0x0107, 0x0108, 0x0109, 0x0201, 0x0202,
   0x0301, 0x0302, 0x0303, 0x0304, 0x0305, 0x0306, 0x0309, 0x030A, 0x030B, 0x030C, 0x030E,
   0x0401, 0x0402, 0x0406, 0x0407, 0x0501, 0x0502, 0x0601, 0x0602, 0x0605, 0x0701, 0x0702, 0x0707]

/-- An opcode without the bit of the expert level (R5). -/
def baseOp (op : Nat) : Nat := if bitAt op 7 then op - 128 else op

/-- The class of an opcode (Table 12-5). -/
def classOf (op : Nat) : JClass :=
  if resumeOps.contains (baseOp op) then .resume
  else if [0x0405, 0x0106, 0x070B].contains (baseOp op) then .own
  else .fail

/-- The code of a class in a journal record (Table 12-3). -/
def JClass.code : JClass → Nat
  | .fail => 0
  | .resume => 1
  | .own => 2

/-- The code of a record's state (Table 12-3). -/
def JState.code : JState → Nat
  | .accepted => 1
  | .dispatched => 2
  | .done => 3

/-- The 64 bytes of a journal record (Table 12-3). -/
def JRec.encode (j : JRec) : List Byte :=
  leBytes 8 j.wid.toNat ++ leBytes 4 j.seq.toNat ++ leBytes 2 j.opcode.toNat ++ leBytes 2 j.ring ++
  [BitVec.ofNat 8 j.state.code, BitVec.ofNat 8 (classOf j.opcode.toNat).code] ++ leBytes 2 0 ++ leBytes 4 j.session.toNat ++
  leBytes 8 j.progress.toNat ++ leBytes 8 j.result.toNat ++ leBytes 4 j.detail.toNat ++ leBytes 2 j.status.toNat ++
  [if j.replayed then 1#8 else 0#8, 0#8] ++ leBytes 8 j.acceptTime.toNat ++ leBytes 8 j.slotRef.toNat

/-- RESIL_JOURNAL_QUERY: the 64-byte summary. -/
def resilJournalQueryBody (c : Cmd) (s : State) : Except Err State := do
  let n := fun st => leBytes 4 (s.journal.filter fun j => j.state = st).length
  let s ← s.writeBuf c (c.u64 0) (n .accepted ++ n .dispatched ++ n .done ++ leBytes 4 0 ++
    ((List.range 9).flatMap fun f => leBytes 4 (s.fn f).outcomes.length) ++ leBytes 4 s.part.warmResets.toNat ++
    leBytes 8 s.part.settleNs)
  .ok (s.ok c)

/-- RESIL_JOURNAL_QUERY, expert: the records of one ring of the caller's functions. -/
def resilJournalQueryExpertBody (c : Cmd) (s : State) : Except Err State := do
  let r := c.u16 8
  need (r < 288 && ringFn r = c.fn) stBadParam
  let s ← s.writeBuf c (c.u64 0) ((s.journal.filter fun j => j.ring = r).flatMap JRec.encode)
  .ok (s.ok c)

/-! ### Teams retired and substituted (R414 to R416) -/

/-- RESIL_TEAM_RETIRE of either level: the failed team goes to field self-test (R414). -/
def State.teamRetire (s : State) (c : Cmd) (wait : Bool) : Except Err State := do
  let p := c.u32 0
  need (p < 336) stBadParam
  match s.physState p with
  | .spare => .ok ((s.modPhys p fun x => { x with state := some .failed, fieldDue := some s.t }).ok c 0xFFFF)
  | .mapped => do
    let l ← want (s.logicalOf p) stBadParam
    need ((s.team l).inService && !(s.team l).replacing) stBadParam
    if wait && (s.running l).isSome then .ok (s.wait c.w (.teamTask p)) else .ok (s.retireTeam c.w l)
  | _ => fail stBadParam

/-- RESIL_TEAM_RETIRE. -/
def resilTeamRetireBody (c : Cmd) (s : State) : Except Err State := s.teamRetire c false

/-- RESIL_TEAM_RETIRE, expert: with WAIT_TASK the fence waits for the end of the running task. -/
def resilTeamRetireExpertBody (c : Cmd) (s : State) : Except Err State := s.teamRetire c (c.flag 4)

/-- A logical team without a substitute goes out of service and leaves its allotment (R416). -/
def State.teamOut (s : State) (l : Nat) : State :=
  let pad := s.paddocks.find? fun e => e.2.teams.contains l
  let s := match (s.team l).substFor with | some w => s.complete w stNoSpare | none => s
  let s := s.modTeam l fun t => { t with inService := false, replacing := false, substFor := none }
  let s := s.logEv evTeamOutOfService (match pad with | some e => BitVec.ofNat 8 e.1 | none => 0xFF#8) 0#16 l
  let s := match pad with
    | none => s
    | some e =>
      let s := s.modPaddock e.1 fun k => { k with teams := k.teams.erase l, leaving := k.leaving.erase l }
      let gone : List (BitVec 64 × Task) := s.tasks.filter fun (x : BitVec 64 × Task) =>
        x.2.paddock = e.1 && (x.2.state = TaskState.suspResident || x.2.state = TaskState.suspSaved) && (s.allotment e.1).length < x.2.teamsN
      gone.foldl (fun (s : State) (x : BitVec 64 × Task) => s.finishTask x.1 .failed stTeamsExceed 0#32) s
  s.checkDegraded

/-- The logical teams that await a substitute, by the time of detection. -/
def State.replacingTeams (s : State) : List Nat :=
  sortOn (fun l => (s.physTeam (s.physOf l)).fieldDue.getD 0)
    ((List.range 320).filter fun l => (s.team l).replacing && !s.phys.any fun e => e.2.bringFor = some l)

/-- TEAM_SUBSTITUTION (R414 to R416): the failed team detected first takes its spare, which is brought up and tested;
without a spare its logical number goes out of service. -/
def execTeamSubstitution (s : State) : Host.Outcome State Fault Refusal :=
  event (match s.replacingTeams with
    | [] => s
    | l :: _ =>
      match s.substitute (s.physOf l) with
      | none => s.teamOut l
      | some q => (s.stopSpareTest q).modPhys q fun x => { x with state := some .bringUp, bringFor := some l })

/-- The end of a spare's bring-up: it takes the logical number, or fails its test (R412, R413). -/
def State.teamSwitch (s : State) (team new old : Nat) (pass : Bool) : State :=
  if !pass then s.modPhys new fun x => { x with state := some .failed, bringFor := none, fieldDue := some s.t }
  else
    let s := s.modPhys new fun x => { x with state := some .mapped, bringFor := none }
    let w := (s.team team).substFor
    let s := s.modTeam team fun t => { t with phys := some new, replacing := false, inService := true, substFor := none }
    let s : State := { s with part := { s.part with substitutions := s.part.substitutions + 1#32 } }
    let pad := s.paddocks.find? fun x => x.2.teams.contains team
    let s := s.logEv evTeamSubstituted (match pad with | some x => BitVec.ofNat 8 x.1 | none => 0xFF#8) 0#16 team 0#64
      (leBytes 2 old ++ leBytes 2 new)
    (match w with | some w => s.complete w stOk (BitVec.ofNat 64 new) | none => s).checkDegraded

/-- SPARE_MAPPING_SWITCH (R414, R415): the spare has passed its known-answer test, and the logical number passes to it;
one that fails the test fails as a team does, and the next spare is taken. -/
def execSpareMappingSwitch (team : Nat) (pass : Bool) (s : State) : Host.Outcome State Fault Refusal :=
  event (match s.phys.find? fun e => e.2.bringFor = some team with
    | none => s
    | some e =>
      let old := s.physOf team
      (s.reach ((s.physTeam old).fieldDue.getD 0 + 25 * msNs)).teamSwitch team e.1 old pass)

end Sys2Proof.Machine
end

