-- ==== Sys2Proof/Machine/Reset.lean ====
section
/-! DEFINITION. Warm resets and the settlement of the journal (R204, R243, R419 to R424), readiness (R72), and the
losses of a cold reset and of power (R205, R244, R425, R514). -/

namespace Sys2Proof.Machine

open Sys2Proof

/-! ### What a warm reset stops (R204, R419, R421, R422) -/

/-- Records in the journal what a dispatched command has done when the part stops, for the commands whose tables
define a partial count (R417, R421). -/
def State.recordProgress (s : State) : State :=
  let s := s.basin.binds.foldl (fun s (b : Bind) => s.progress b.wid (BitVec.ofNat 64 b.moved)) s
  let s := s.gen.loops.foldl (fun s (l : Nat × Loop) => s.progress l.2.wid (BitVec.ofNat 64 l.2.stepsRun)) s
  (s.learn.sets.filter fun (e : Nat × LSet) => e.2.state = .sweeping).foldl (fun s e => s.interruptSweep e.1) s

/-- The lowest tile of a region in the block that holds tile `i` (R234). -/
def blockFirst (l : Alloc) (i : Nat) : Nat := if l.near then i / 4096 * 4096 else i / 16384 * 16384 + i % 4

/-- An interrupted NVW_PROGRAM: whether the tile being programmed is torn is left to the part, a free value; the
command's progress is the resume offset that the next start gives (R234, R421). -/
def State.tearProgram (s : State) (p : NvwProg) : State :=
  match tget s.allocs p.region with
  | none => s
  | some l =>
    let (v, s) := s.draw
    let torn := if v.getLsbD 0 && l.programmed * tileBytes < l.len then some (blockFirst l l.programmed) else none
    let off := match torn with | some t => min t l.programmed | none => l.programmed
    (s.modAlloc p.region fun x => { x with torn := torn }).progress p.wid (BitVec.ofNat 64 off)

/-- Tears every program in progress. -/
def State.tearPrograms (s : State) : State :=
  ({ (s.nvwProgs.foldl (fun s p => s.tearProgram p) s) with nvwProgs := [] } : State)

/-- Runs a change with the journal put away, so that nothing it ends completes: Iluvo settles the journal later
(R421). -/
def State.quietly (s : State) (f : State → State) : State :=
  { f { s with journal := [] } with journal := s.journal }

/-- Sessions close and ring fields reset, but for the four that R48 keeps (R48, R64, R419). -/
def State.warmRings (s : State) : State :=
  let s := (List.range 9).foldl (fun s f => s.modFn f fun x => { x with session := none }) s
  (List.range 288).foldl (fun s r =>
    let g := s.ring r
    if g = Ring.reset then s
    else (s.resetRing r).modRing r fun x =>
      { x with sqBase := g.sqBase, cqBase := g.cqBase, enable := g.enable, msix := g.msix }) s

/-- The tasks, loops and generation work that a warm reset ends (R421, R422). -/
def State.warmWork (s : State) : State :=
  let s : State := { s with gen := { s.gen with cmds := [] } }
  let s := s.gen.loops.foldl (fun s (l : Nat × Loop) => s.endLoop l.1 stWarmReset) s
  let s := s.tasks.foldl (fun s (e : BitVec 64 × Task) => s.finishTask e.1 .failed stWarmReset 0#32) s
  let s : State := { s with
    gen := { s.gen with
      models := s.gen.models.map fun (m : Nat × Model) =>
        (m.1, { m.2 with turn := none, drain := [], drainBy := none, remount := none, remountOld := none })
      manifest := s.gen.manifest.map fun (e : Nat × Entry) =>
        (e.1, let x := e.2.stopEvict
              if x.state = .resuming && !x.slots.isEmpty then { x with map := [] } else x) }
    kernels := s.kernels.map fun (k : Nat × Kernel) => (k.1, { k.2 with unloading := false })
    teams := s.teams.map fun (t : Nat × Team) => (t.1, { t.2 with substFor := none }) }
  s.gen.manifest.foldl (fun s e => s.writeManifest e.1) s

/-- The exchanges, collectives, messages, moorings and Frame Quay sessions that a warm reset ends (R421, R422). -/
def State.warmTraffic (s : State) : State :=
  let due := s.trace.colls.map fun (c : Coll) => (c.group.toNat, c.seq)
  let s := s.trace.colls.foldl (fun s (c : Coll) => s.failColl c stWarmReset 0) s
  let s := s.quays.foldl (fun s (q : Nat × Quay) => s.stopQuay q.1 stWarmReset) s
  { s with
    part := { s.part with abortsDue := due }
    quays := []
    learn := { s.learn with
      exchs := []
      sets := s.learn.sets.map fun (e : Nat × LSet) =>
        (e.1, if e.2.state = .accumulating || e.2.state = .normed then e.2.abandon else e.2) }
    trace := { s.trace with
      colls := [], sends := [], queue := [], sent := [], early := []
      windows := s.trace.windows.map fun (w : Nat × Window) => (w.1, { w.2 with recvs := [] }) }
    moors := s.moors.map fun (m : Nat × Moor) =>
      (m.1, { m.2 with state := if m.2.state = .rebuilding || m.2.state = .shrinking then .degraded else m.2.state
                       rebuildBy := [], shrinkBy := [], rebuildFor := none }) }

/-- The memory, power and self-test commands that a warm reset ends (R421, R485, R504). -/
def State.warmUnits (s : State) : State :=
  let gone := (s.hbm.zeroing.filter fun (z : Zeroing) => z.pattern.isNone).map (·.addr)
  let s := s.releaseAll gone
  { s with
    hbm := { s.hbm with zeroing := [] }
    power := { s.power with
      capCmd := none
      capNext := (match s.power.capNext with | some (w, none, x) => some (w, none, x) | _ => none)
      teams := s.power.teams.map fun (t : Nat × TeamPwr) => (t.1, { t.2 with reg := t.2.reg.map fun g => { g with cmd := none } })
      rails := s.power.rails.map fun (r : Nat × Rail) => (r.1, { r.2 with reg := r.2.reg.map fun g => { g with cmd := none } }) }
    farrier := { s.farrier with runs := [], margins := [] }
    waits := [] }

/-- The start of a warm reset, where Iluvo runs (R419). -/
def State.beginWarm (s : State) : State :=
  if !s.part.pstate.running then s
  else
    let s := s.recordProgress.tearPrograms
    let s : State := { s with part := { s.part with
      pstate := .warmReset, warmStart := s.t, warmResets := s.part.warmResets + 1#32, settled := false,
      warmSer := s.ser, mastersStopped := true } }
    let s := s.logEv evWarmReset
    let s := s.warmRings
    s.quietly fun s => s.warmWork.warmTraffic.warmUnits

/-! ### What a warm reset releases (R204, R243, R422) -/

/-- Whether an address still lies in an allocation; 0 names none. -/
def State.stands (s : State) (a : Nat) : Bool := a = 0 || (s.allocAt a).isSome

/-- The addresses that a parameter set's groups name (R313). -/
def LSet.addrs (l : LSet) : List Nat :=
  l.groups.flatMap fun g => [g.param, g.m1, g.m2, g.rf, g.cf, g.g8, g.copy]

/-- Generation work whose memory was released: rings, adapters, models, and the entries of a released model (R255,
R422). An entry of a model that stays keeps its state, though its sequence buffer or its adapter be gone: R255 has no
transition for it (log entry 163). -/
def State.dropGen (s : State) : State :=
  let s : State := { s with gen := { s.gen with
    rings := s.gen.rings.filter fun (r : Nat × RRing) => r.2.host || s.stands r.2.addr.toNat
    adapters := s.gen.adapters.filter fun (a : Nat × Adapter) => s.stands a.2.addr.toNat } }
  let deadModel : Nat × Model → Bool := fun m => !s.stands m.2.weights.toNat || !s.stands m.2.pool.toNat
  let dead := (s.gen.models.filter deadModel).map (·.1)
  let s := s.gen.manifest.foldl (fun s (e : Nat × Entry) =>
    if dead.contains e.2.model then s.terminate e.1 .failed stWarmReset else s) s
  let s := dead.foldl (fun s m => s.dropModel m) s
  let lost := (s.gen.models.filter fun (m : Nat × Model) => !s.stands m.2.parkArea.toNat).map (·.1)
  let s := s.gen.manifest.foldl (fun s (e : Nat × Entry) =>
    if lost.contains e.2.model && !e.2.slots.isEmpty && !e.2.state.terminal then
      ((s.modEntry e.1 fun x => { x with map := [], slots := [], filled := 0 }).setSeq e.1 .held).clearMap e.2
    else s) s
  lost.foldl (fun s m => s.modModel m fun x => { x with parkArea := 0#64, parkSlots := 0 }) s

/-- Registrations whose memory was released: layouts, sets, windows and mooring groups (R422). -/
def State.dropRegs (s : State) : State :=
  { s with
    rein := { s.rein with
      layouts := (s.rein.layouts.filter fun (l : Nat × Layout) => s.stands l.2.table).map fun l =>
        let keep := fun (x : Slot) => if s.stands x.region.toNat then x else Slot.reset
        (l.1, { l.2 with slot0 := keep l.2.slot0, slot1 := keep l.2.slot1 }) }
    learn := { s.learn with sets := s.learn.sets.filter fun (e : Nat × LSet) => e.2.addrs.all fun a => s.stands a }
    trace := { s.trace with windows := s.trace.windows.filter fun (w : Nat × Window) => s.stands w.2.addr }
    moors := s.moors.filter fun (m : Nat × Moor) => s.stands m.2.parity && m.2.space.all fun a => thas s.allocs a }

/-- What a warm reset releases 50 us after it starts: tiles not committed, streams, barriers, and every Basin, HBM4
and parking-tier allocation without PERSIST but for the kernels' code; and with them the work that depends on them
(R204, R243, R422). -/
def State.dropVolatile (s : State) : State :=
  let code := s.kernels.flatMap fun (k : Nat × Kernel) => k.2.code
  let s : State := { s with basin := { s.basin with binds := [], tags := [] }, streams := [], barriers := [] }
  let gone := (s.allocs.filter fun (e : Nat × Alloc) => e.2.tier != .nvw && !e.2.persist && !code.contains e.1).map (·.1)
  (s.quietly fun s => s.releaseAll gone).dropGen.dropRegs

/-- UNCOMMITTED_TILE_DISCARD (R204): 50 us after a warm reset, tiles still uncommitted are discarded whole, and what the
reset does not keep is released. -/
def execUncommittedTileDiscard (s : State) : Host.Outcome State Fault Refusal :=
  event (if s.part.pstate = .warmReset then (s.reach (s.part.warmStart + 50000)).dropVolatile else s)

/-! ### Readiness (R72, R420) -/

/-- The recovery of torn NVW tiles when Iluvo starts: PROGRAMMED is reset below the lowest torn tile, and the torn blocks
stay due for an erase (R234). -/
def State.recoverTorn (s : State) : State :=
  { s with allocs := s.allocs.map fun e =>
      match e.2.torn with
      | none => e
      | some t => (e.1, { e.2 with programmed := min e.2.programmed t }) }

/-- Kryto generates the system key at a cold reset (R223): a free value. -/
def State.makeSystemKey (s : State) : State :=
  { s with
    free := s.free + 8
    kryto := { s.kryto with
      systemKey := (List.range 8).foldl (fun a i => (a <<< 64) ||| (Config.freeWord (s.free + i)).zeroExtend 512) 0#512 } }

/-- CONTROL_READY (R72, R74, R223, R420): Iluvo runs, 300 ms after a cold reset or 100 ms after the start of a warm one;
RETRY_AFTER becomes its estimate of the milliseconds until READY, a free value of at least 1. -/
def execControlReady (s : State) : Host.Outcome State Fault Refusal :=
  event (if (s.part.pstate = .boot && s.pins.pwrOk && s.pins.sysRstN && !s.power.trip) ||
      s.part.pstate = .warmReset then
      let warm := s.part.pstate = .warmReset
      let s := s.reach (if warm then s.part.warmStart + 100 * msNs else s.part.timeZero + 300 * msNs)
      let s := if warm then s.dropVolatile else s.makeSystemKey
      let (v, s1) := s.draw
      let s2 : State := { s1 with part := { s1.part with
        pstate := .controlReady, retryAfter := BitVec.ofNat 32 (max 1 (v.toNat % 2 ^ 32)), mastersStopped := false,
        controlAt := s1.t } }
      s2.recoverTorn.logWith evPartState false 0xFF#8 0#16 0xFFFF#16 0#64 (leBytes 1 2)
    else s)

/-- After a warm reset the mooring engine sends again the cells that a refresh had not delivered; the epoch commits later
(R437). -/
def State.resendMoors (s : State) : State :=
  s.moors.foldl (fun s e =>
    match e.2.rank with
    | none => s
    | some r =>
      if e.2.refreshes.isEmpty then s
      else e.2.flight.foldl (fun s c =>
        let x := e.2.stripeOf r c
        s.sendCell e.1 x (e.2.members[e.2.collector x]?) (e.2.shareOf r (x % e.2.n), s.cellData e.2 c)) s) s

/-- PART_READY (R72, R413, R420): HBM4 is trained, every opcode is accepted, and PART_STATE reads READY or DEGRADED;
1.0 s after a cold reset, 300 ms after the start of a warm one. -/
def execPartReady (s : State) : Host.Outcome State Fault Refusal :=
  event (if s.part.pstate = .controlReady then
      let s := s.reach (if s.part.warmStart ≤ s.part.timeZero then s.part.timeZero + secNs
        else s.part.warmStart + 300 * msNs)
      let s1 : State := { s with part := { s.part with pstate := .ready, retryAfter := 0#32, hbmTrained := true } }
      let s1 := if s.part.warmStart ≤ s.part.timeZero then s1 else s1.resendMoors
      let s2 := s1.refreshDegraded
      s2.logWith evPartState (s2.part.pstate = .degraded) 0xFF#8 0#16 0xFFFF#16 0#64 (leBytes 1 s2.part.pstate.code)
    else s)

/-! ### The settlement of the journal (R421, R424) -/

/-- A group whose staging a warm reset released does not survive it (R422). -/
def State.dropGroups (s : State) : State :=
  { s with trace := { s.trace with groups := s.trace.groups.filter fun (g : Nat × TGroup) => s.stands g.2.staging } }

/-- Settles one record by its state and class (Table 12-5). -/
def State.settleRec (s : State) (j : JRec) : State :=
  match j.state with
  | .done => s
  | .accepted => s.complete j.wid stWarmReset
  | .dispatched =>
    if s.part.warmByCmd = some j.wid then s.complete j.wid stOk (s.part.warmResets.zeroExtend 64)
    else
      match classOf j.opcode.toNat with
      | .resume => { s with journal := s.journal.map fun q =>
          if q.wid = j.wid && q.state = .dispatched then { q with state := .accepted, replayed := true } else q }
      | .own => s.complete j.wid (if baseOp j.opcode.toNat = 0x0405 then stSweepInterrupted else stWarmReset) j.progress
      | .fail => s.complete j.wid stWarmReset j.progress

/-- Sends the aborts of the operations that the warm reset ended (R421). -/
def State.sendDue (s : State) : State :=
  s.part.abortsDue.foldl (fun s (e : Nat × Nat) =>
    match tget s.trace.groups e.1 with
    | some g => s.sendAborts g (BitVec.ofNat 32 e.1) e.2 stWarmReset
    | none => s) s

/-- JOURNAL_SETTLEMENT (R420, R421): after CONTROL_READY, every record from before the warm reset is settled and the
aborts are sent. -/
def execJournalSettlement (s : State) : Host.Outcome State Fault Refusal :=
  event (if s.part.pstate.running && !s.part.settled then
      let s := (s.journal.filter fun j => j.ser < s.part.warmSer).foldl (fun s j => s.settleRec j) s
      let s := s.sendDue.dropGroups
      { s with part := { s.part with
          settled := true, settleNs := s.t - s.part.controlAt, warmByCmd := none, abortsDue := [] } }
    else s)

/-! ### What starts a warm reset (R412, R419) -/

/-- RESIL_WARM_RESET of either level: its record stays DISPATCHED through the reset that it starts. -/
def State.resilWarm (s : State) (c : Cmd) : State :=
  ({ s with part := { s.part with warmByCmd := some c.w } } : State).beginWarm

/-- RESIL_WARM_RESET. -/
def resilWarmResetBody (c : Cmd) (s : State) : Except Err State := .ok (s.resilWarm c)

/-- RESIL_WARM_RESET, expert: the reason is logged. -/
def resilWarmResetExpertBody (c : Cmd) (s : State) : Except Err State := .ok ((s.reason c (c.u32 0)).resilWarm c)

/-- WARM_RESET (R419): the warm reset of a cause that another row detects. -/
def execWarmReset (s : State) : Host.Outcome State Fault Refusal := event s.beginWarm

/-- PART_STATE becomes FAILED (R412, R413). -/
def State.failPart (s : State) : State :=
  if s.part.pstate = .failed then s
  else ({ s with part := { s.part with pstate := .failed } } : State).logWith evPartState true 0xFF#8 0#16 0xFFFF#16 0#64
    (leBytes 1 6)

/-- A control core fails: Iluvo continues on three after a warm reset; a second one fails the part (R412). -/
def State.coreFault (s : State) : State :=
  if s.part.cores < 4 then s.failPart
  else ({ s with part := { s.part with cores := 3 } } : State).beginWarm

/-- CONTROL_CORE_FAULT (R412): a lockstep mismatch. -/
def execControlCoreFault (s : State) : Host.Outcome State Fault Refusal := event s.coreFault

/-- HEARTBEAT_MISSING (R412): of a control core, or of Kryto, whose failure fails the part. -/
def execHeartbeatMissing (kryto : Bool) (s : State) : Host.Outcome State Fault Refusal :=
  event (if kryto then ({ s with kryto := { s.kryto with failed := true } } : State).failPart else s.coreFault)

/-! ### Cold reset and power loss (R205, R244, R425, R514, R518) -/

/-- Whether a memory key lies in one of some allocations. -/
def inAny (as : Tbl Alloc) (k : Nat) : Bool := as.any fun e => e.1 ≤ k && k < e.1 + e.2.len

/-- An NVW region through a loss of power: contents, wear and grants stay, a private region is DETACHED (R244). -/
def nvwKept (e : Nat × Alloc) : Nat × Alloc := (e.1, if e.2.owner = 15 then e.2 else { e.2 with nvw := .detached })

/-- Everything volatile is lost; the NVW regions and Kryto's non-volatile store are kept (R205, R244, R425). The time
base runs on, and what the part has sent stays sent. -/
def State.loseAll (s : State) : State :=
  let s := s.tearPrograms
  let kept := (s.allocs.filter fun (e : Nat × Alloc) => e.2.tier = .nvw).map nvwKept
  { State.reset with
    pending := s.pending, now := s.now, free := s.free, out := s.out, pins := s.pins, tap := s.tap
    kryto := { s.kryto with endpoints := [], boardPower := none, failed := false, systemKey := 0#512 }
    allocs := kept
    mem := s.mem.filter fun c => inAny kept c.1
    poison := s.poison.filter fun l => inAny kept (l * 64)
    nvw := s.nvw.map fun e => (e.1, { e.2 with deferred := false }) }

end Sys2Proof.Machine
end

