-- ==== Sys2Proof/Machine/Power.lean ====
section
/-! DEFINITION. Power, voltage and temperature (chapter 14): rails and team regulators (R461 to R470, R484), pacers and
ceilings (R465 to R468), the cap loop (R471 to R475), droop (R476 to R478), temperature (R479 to R481) and telemetry
(R483). None of it alters a value that the part computes (R482). -/

namespace Sys2Proof.Machine

open Sys2Proof

/-! ### Regulators (R461 to R463, R469, R470) -/

/-- Nominal voltage of a rail, mV (Table 14-1). -/
def railNominal (r : Nat) : Nat := if r < 8 then 810 else if r = 14 then 900 else if r = 13 then 1200 else 750

/-- The rails that the part commands over AVSBus (Table 14-1). -/
def railAvs (r : Nat) : Bool := r < 10 || r = 14

/-- The AVSBus rails in the order of Table 14-1. -/
def avsRails : List Nat := [0, 1, 2, 3, 4, 5, 6, 7, 8, 9, 14]

/-- A rail's regulator: at its nominal voltage until commanded (R464, R512). -/
def State.railReg (s : State) (r : Nat) : Reg :=
  (s.rail r).reg.getD { target := railNominal r, out := 1000 * railNominal r, since := 0, cmd := none, fixed := false,
                        rate := 1000 }

/-- Writes a rail's record. -/
def State.modRail (s : State) (r : Nat) (f : Rail → Rail) : State :=
  { s with power := { s.power with rails := tputD Rail.reset s.power.rails r (f (s.rail r)) } }

/-- A physical team's power record. -/
def State.teamPwr (s : State) (p : Nat) : TeamPwr := tgetD TeamPwr.reset s.power.teams p

/-- Writes a physical team's power record. -/
def State.modPwr (s : State) (p : Nat) (f : TeamPwr → TeamPwr) : State :=
  { s with power := { s.power with teams := tputD TeamPwr.reset s.power.teams p (f (s.teamPwr p)) } }

/-- A team's regulator: 750 mV, AUTO and 10 mV/us until commanded (R463, R464, R468). -/
def State.teamReg (s : State) (p : Nat) : Reg :=
  (s.teamPwr p).reg.getD { target := 750, out := 750000, since := 0, cmd := none, fixed := false, rate := 10000 }

/-- The output of a regulator at a time, uV: it slews from its output at the last command toward its target (R463,
R469, R470). -/
def Reg.at_ (g : Reg) (t : Nat) : Nat :=
  let d := g.rate * (t - g.since) / 1000
  if g.out ≤ 1000 * g.target then min (1000 * g.target) (g.out + d) else max (1000 * g.target) (g.out - d)

/-- The time at which a regulator's output reaches its target (Table 14-3). -/
def Reg.reachAt (g : Reg) : Nat :=
  g.since + (max (1000 * g.target) g.out - min (1000 * g.target) g.out) * 1000 / max g.rate 1

/-- Adds to a count of Table 14-5. -/
def State.countPwr (s : State) (i : Nat) : State :=
  { s with power := { s.power with counts := tputD 0#32 s.power.counts i (tgetD 0#32 s.power.counts i + 1#32) } }

/-- A command that a later one of its regulator or of the cap replaces (R469, R472). -/
def State.supersede (s : State) (cmd : Option (BitVec 64)) (res : Nat) : State :=
  match cmd with
  | none => s
  | some w => (s.complete w stSuperseded (BitVec.ofNat 64 res)).countPwr 6

/-- Sends an AVSBus write frame to a regulator (R462). -/
def State.avsSend (s : State) (r code v : Nat) : State :=
  let s := s.modRail r fun x => { x with last := some (code, v) }
  { s with out := { s.out with avs := s.out.avs ++ [(r, code, v)] } }

/-- Commands a rail: from its present output toward the new target at once (R469); `cmd` is the command that does so,
none for Iluvo's own change, which completes and supersedes nothing. -/
def State.setRail (s : State) (r v rate : Nat) (cmd : Option (BitVec 64)) (fixed : Bool) : State :=
  if (s.rail r).quarantined then s
  else
    let g := s.railReg r
    let s := if cmd.isSome then s.supersede g.cmd (g.at_ s.t / 1000) else s
    let s := if rate = g.rate then s else s.avsSend r 1 rate
    let s := s.modRail r fun x => { x with
      reg := some { target := v, out := g.at_ s.t, since := s.t, cmd := (match cmd with | some w => some w | none => g.cmd),
                    fixed := fixed, rate := rate }
      retries := 0 }
    s.avsSend r 0 v

/-- The physical teams of a VIN_TEAM rail (R17). -/
def railTeams (r : Nat) : List Nat := (List.range 42).map fun i => 42 * r + i

/-- The rail voltage that the teams of a VIN_TEAM rail need: 60 mV above the highest target, or above the highest
output while it still falls (R463). -/
def State.railNeed (s : State) (r : Nat) : Nat :=
  60 + (railTeams r).foldl (fun m p => max m (max (s.teamReg p).target (((s.teamReg p).at_ s.t + 999) / 1000))) 0

/-- Iluvo keeps each VIN_TEAM rail where its teams need it; one that PWR_RAIL_SET fixed is only raised (R463). -/
def State.followRails (s : State) : State :=
  (List.range 8).foldl (fun s r =>
    let g := s.railReg r
    let v := s.railNeed r
    if v = g.target || (s.rail r).out || (g.fixed && v < g.target + 10) then s else s.setRail r (min 910 v) g.rate none g.fixed) s

/-- Commands a team's regulator; a target above what its rail supports waits for the rail (R463, R470). -/
def State.setTeamVolt (s : State) (p v : Nat) (cmd : Option (BitVec 64)) (fixed : Bool) : State :=
  let r := p / 42
  if (s.rail r).quarantined then s
  else
    let g := s.teamReg p
    let s := if cmd.isSome then s.supersede g.cmd (g.at_ s.t / 1000) else s
    let up := (s.railReg r).target < v + 60 && !((s.railReg r).fixed && v + 50 ≤ (s.railReg r).target)
    let s := if up then s.setRail r (v + 60) (s.railReg r).rate none (s.railReg r).fixed else s
    let k := s.railReg r
    let start := if g.at_ s.t < 1000 * v && k.at_ s.t < 1000 * (v + 50) then max s.t k.reachAt else s.t
    s.modPwr p fun x => { x with
      reg := some { target := v, out := g.at_ s.t, since := start, cmd := (match cmd with | some w => some w | none => g.cmd),
                    fixed := fixed, rate := 10000 } }

/-! ### Ceilings and pacers (R465 to R468) -/

/-- The ceiling record that Freold stored at test (R466): within the bounds of R31, of grade A or B. -/
def floorRec (p : Nat) : CeilRec :=
  let lim := fun (x : BitVec 16) => BitVec.ofNat 16 (max 900 (min 2100 x.toNat))
  { aged := false, ageHours := 0#16
    ceil70 := (List.range 6).map fun i =>
      if i = 3 then BitVec.ofNat 16 (max 1600 (lim (Config.ceiling p 70 i)).toNat) else lim (Config.ceiling p 70 i)
    ceil100 := (List.range 6).map fun i => lim (Config.ceiling p 100 i) }

/-- The present ceiling record of a physical team (R466). -/
def State.ceilRec (s : State) (p : Nat) : CeilRec := (tget s.kryto.ceilNow p).getD (floorRec p)

/-- Entry `i` of a column. -/
def colAt (col : List (BitVec 16)) (i : Nat) : Nat := ((col[i]?).getD 0#16).toNat

/-- The ceiling at a voltage in mV and a temperature in 1/16 degC, M steps/s, rounded down (R466). -/
def CeilRec.ceiling (c : CeilRec) (mv : Nat) (temp : Int) : Nat :=
  let v := max 600 (min 850 mv) - 600
  let (i, f) := (v / 50, v % 50)
  let n := fun (col : List (BitVec 16)) => colAt col i * (50 - f) + colAt col (i + 1) * f
  if temp ≤ 1120 then n c.ceil70 / 50
  else if temp ≤ 1600 then
    let d := (temp - 1120).toNat
    (n c.ceil70 * (480 - d) + n c.ceil100 * d) / 24000
  else (Config.hotCeiling c.ceil70 c.ceil100 mv temp).toNat

/-- The 32 bytes of a ceiling record (Table 14-2). -/
def State.ceilBytes (s : State) (p : Nat) (c : CeilRec) : List Byte :=
  leBytes 2 p ++ leBytes 2 ((s.logicalOf p).getD 0xFFFF) ++
  [if 1750 ≤ colAt c.ceil70 3 then 0#8 else 1#8, if c.aged then 1#8 else 0#8] ++ leBytes 2 c.ageHours.toNat ++
  (c.ceil70 ++ c.ceil100).flatMap fun x => leBytes 2 x.toNat

/-- The AUTO voltage: the lowest 5 mV step at which the team's ceiling reaches the target rate, else 0.850 V (R468). -/
def State.autoVolt (s : State) (p : Nat) : Nat :=
  let c := s.ceilRec p
  let temp := (s.teamPwr p).temp
  let steps := (List.range 51).map fun i => 600 + 5 * i
  (steps.find? fun v => s.power.target ≤ 1000000 * c.ceiling v temp).getD 850

/-- Sets an AUTO team to its voltage (R468). -/
def State.retune (s : State) (p : Nat) : State :=
  let g := s.teamReg p
  if g.fixed || s.physState p = .retired then s
  else
    let v := s.autoVolt p
    if v = g.target then s else s.setTeamVolt p v none false

/-- Every AUTO team and every rail follow the target rate (R463, R468, R473). -/
def State.retuneAll (s : State) : State := ((List.range 336).foldl (fun s p => s.retune p) s).followRails

/-- The least of the limits on a team's step rate, steps/s (R464, R465). -/
def State.pacer (s : State) (p : Nat) : Nat :=
  let t := s.teamPwr p
  let lim := (s.logicalOf p).bind fun l => (s.paddocks.find? fun e => e.2.teams.contains l).bind fun e => e.2.rateLimit
  let base := min s.power.target (1000000 * (s.ceilRec p).ceiling ((s.teamReg p).at_ s.t / 1000) t.temp)
  let base := match lim with | some m => min base (1000000 * m) | none => base
  let base := if s.part.pstate.running then base else min base 1600000000
  let base := base * t.throttle / 100
  if s.power.trip then 0 else if s.power.clamp || s.power.thermClamp then base / 2 else base

/-! ### Voltage and rate commands (R463, R465, R468 to R470, R484 to R486) -/

/-- PWR_TEAM_VOLT of either level. -/
def State.teamVolt (s : State) (c : Cmd) (auto : Bool) : Except Err State := do
  let (l, v) := (c.u16 0, c.u16 2)
  need (!c.mgmt && (s.allotment c.pad).contains l) stNotPermitted
  need (auto || (600 ≤ v && v ≤ 850 && v % 5 = 0)) stBadParam
  need (!(s.team l).replacing) stTaskState
  let p := s.physOf l
  need (!(s.rail (p / 42)).quarantined) stAvsProtocol
  if auto then
    let g := s.teamReg p
    let s := s.supersede g.cmd (g.at_ s.t / 1000)
    let s := s.modPwr p fun x => { x with reg := some { g with cmd := none, fixed := false } }
    .ok ((s.retune p).followRails.ok c)
  else .ok (s.setTeamVolt p v (some c.w) true)

/-- PWR_TEAM_VOLT: FIXED at a voltage. -/
def pwrTeamVoltBody (c : Cmd) (s : State) : Except Err State := s.teamVolt c false

/-- PWR_TEAM_VOLT, expert: with AUTO the team returns to AUTO. -/
def pwrTeamVoltExpertBody (c : Cmd) (s : State) : Except Err State := s.teamVolt c (c.flag 4)

/-- Whether a voltage lies in a rail's commanded range (Table 14-1). -/
def railRange (r v : Nat) : Bool :=
  if r < 8 then 660 ≤ v && v ≤ 910 && v % 5 = 0
  else if r = 8 || r = 9 then 720 ≤ v && v ≤ 800
  else r = 14 && 880 ≤ v && v ≤ 920

/-- PWR_RAIL_SET of either level: a VIN_TEAM rail keeps 50 mV of headroom to every team (R463). -/
def State.pwrRail (s : State) (c : Cmd) (rate : Nat) : Except Err State := do
  let (r, v) := (c.u32 0, c.u32 4)
  need (railRange r v && 500 ≤ rate && rate ≤ 10000) stBadParam
  need (8 ≤ r || (railTeams r).all fun p => (s.teamReg p).target + 50 ≤ v) stBadParam
  need (!(s.rail r).quarantined) stAvsProtocol
  .ok (s.setRail r v rate (some c.w) true)

/-- PWR_RAIL_SET: at 1,000 mV/ms. -/
def pwrRailSetBody (c : Cmd) (s : State) : Except Err State := s.pwrRail c 1000

/-- PWR_RAIL_SET, expert: the transition rate. -/
def pwrRailSetExpertBody (c : Cmd) (s : State) : Except Err State := s.pwrRail c (c.u32 8)

/-- A regulator stands at its target, and the command that set it completes (R470). -/
def State.atTarget (s : State) (rail : Bool) (k : Nat) (g : Reg) : State :=
  let g' := { g with cmd := none }
  let s := if rail then s.modRail k fun x => { x with reg := some g' } else s.modPwr k fun x => { x with reg := some g' }
  match g.cmd with
  | some w => s.complete w stOk
  | none => s

/-- REGULATOR_TARGET_REACHED (R470): a team regulator, or an AVSBus rail, reaches its target; its command completes, and
rails are lowered once their teams' outputs have fallen. -/
def execRegulatorTargetReached (rail : Bool) (k : Nat) (s : State) : Host.Outcome State Fault Refusal :=
  event (
    let g := if rail then s.railReg k else s.teamReg k
    if !(if rail then railAvs k else k < 336) then s
    else
      let s1 := (s.reach g.reachAt).atTarget rail k g
      if rail || !s1.part.pstate.running then s1 else s1.followRails)

/-- Sets a paddock's rate limit (R465). -/
def State.rateLimit (s : State) (c : Cmd) (p : Nat) : Except Err State := do
  let v := c.u32 0
  need (900 ≤ v && v ≤ 2100) stBadParam
  need (thas s.paddocks p) stBadParam
  .ok ((s.modPaddock p fun k => { k with rateLimit := some v }).ok c)

/-- PWR_RATE_LIMIT: the caller's teams. -/
def pwrRateLimitBody (c : Cmd) (s : State) : Except Err State := do
  need (!c.mgmt) stNotPermitted
  s.rateLimit c c.pad

/-- PWR_RATE_LIMIT, expert: any paddock, from the management session. -/
def pwrRateLimitExpertBody (c : Cmd) (s : State) : Except Err State := do
  need c.mgmt stNotPermitted
  s.rateLimit c (c.u32 4)

/-! ### The cap (R471 to R475) -/

/-- Records a cap; it takes effect at the first period boundary, and the earlier one is superseded (R472, R485). -/
def State.recordCap (s : State) (w : Nat) (cmd : Option (BitVec 64)) (noExc : Bool) : State :=
  let earlier := match s.power.capNext with | some (_, some q, _) => some q | _ => s.power.capCmd
  let s := s.supersede earlier 0
  { s with power := { s.power with capNext := some (w, cmd, noExc), capCmd := none } }

/-- PWR_CAP_SET of either level. -/
def State.capSet (s : State) (c : Cmd) (noExc : Bool) : Except Err State := do
  need c.mgmt stNotPermitted
  need (700 ≤ c.u32 0 && c.u32 0 ≤ 1800) stBadParam
  .ok (s.recordCap (c.u32 0) (some c.w) noExc)

/-- PWR_CAP_SET. -/
def pwrCapSetBody (c : Cmd) (s : State) : Except Err State := s.capSet c false

/-- PWR_CAP_SET, expert: NO_EXCURSION. -/
def pwrCapSetExpertBody (c : Cmd) (s : State) : Except Err State := s.capSet c (c.flag 4)

/-- Power of a physical team now, uW. -/
def State.teamPower (s : State) (p : Nat) : Nat := (s.teamReg p).at_ s.t * (s.teamPwr p).current / 1000

/-- Power of all teams now, uW: a team whose current has never been read draws none. -/
def State.teamsPower (s : State) : Nat := sumNat (s.power.teams.map fun (e : Nat × TeamPwr) => s.teamPower e.1)

/-- Power of a rail, mW: VIN_TEAM as its team regulators measure it, AVSBus rails by voltage and current, VDD_NVW by its
share while the management controller has reported nothing (R471). The division of the board's power is not given. -/
def State.railPower (s : State) (r : Nat) : Nat :=
  if r < 8 then sumNat ((s.power.teams.filter fun (e : Nat × TeamPwr) => e.1 / 42 = r).map fun e => s.teamPower e.1) / 1000
  else if railAvs r then (s.railReg r).at_ s.t * (s.rail r).current / 1000000
  else if r = 13 && s.kryto.boardPower.isNone then 48000
  else (Config.freeWord (s.free + r)).toNat % 2 ^ 32

/-- The board rails' power, mW: as reported, or their shares of Table 14-1 (R471). -/
def State.boardPower (s : State) : Nat := s.kryto.boardPower.getD 408000

/-- P100 of the period that ends now, mW: the teams' average over the period (R471). -/
def State.packagePower (s : State) : Nat :=
  (if s.power.accN = 0 then s.teamsPower else s.power.acc / s.power.accN) / 1000 +
  s.railPower 8 + s.railPower 9 + s.railPower 14 + s.boardPower

/-- The cap loop's new target rate (R473). -/
def nextTarget (target capMw p : Nat) : Nat :=
  min 2100000000 (
    if capMw < p then (if 9 * p ≤ 10 * capMw then target * capMw / p else target * 9 / 10)
    else if 102 * p < 100 * capMw then (if 100 * capMw < 105 * p then target * capMw / p else target * 105 / 100)
    else target)

/-- Applies the excursion clamp: every pacer to half (R474). -/
def State.engageClamp (s : State) : State :=
  if s.power.clamp then s
  else (({ s with power := { s.power with clamp := true } } : State).countPwr 1).logEv evExcursionClamp

/-- The cap recorded takes effect (R472). -/
def State.applyCap (s : State) : State :=
  match s.power.capNext with
  | none => s
  | some (w, cmd, x) =>
    ({ s with power := { s.power with cap := w, capNext := none, capCmd := cmd, noExc := x } } : State).logEv evCapChanged
      0xFF#8 0#16 0xFFFF (cmd.getD 0#64) (leBytes 4 w)

/-- The excursion rules at a period's end (R474). -/
def State.excursion (s : State) (p : Nat) : State :=
  let w := s.power
  let excess := w.cap * 1000 < p
  let starts := excess && w.excStart.isNone
  let spaced := starts && (match w.excLast with | some u => s.t < u + 100 * msNs | none => false)
  let since := if excess then (match w.excStart with | some u => some u | none => some s.t) else none
  let long := match since with | some u => u + 10 * msNs ≤ s.t | none => false
  let peak := excess && (w.noExc || w.cap * 2200000 < p * 1800)
  let avg := w.cap * 1000 * 10000 < sumNat w.hist
  let s : State := { s with power := { w with excStart := since, excLast := if starts then some s.t else w.excLast } }
  let s := if starts then s.countPwr 0 else s
  if peak || spaced || long || avg then s.engageClamp
  else if excess then s
  else { s with power := { s.power with clamp := false } }

/-- CAP_LOOP_PERIOD (R471 to R475, R483): the end of a 100 us period, while Iluvo runs. -/
def execCapLoopPeriod (s : State) : Host.Outcome State Fault Refusal :=
  event (if !s.part.pstate.running then s
    else
      let s := (s.reach ((s.t / 100000 + 1) * 100000)).applyCap
      let p := s.packagePower
      let began := s.power.excStart
      let e := s.power.energyFrac + p
      let s : State := { s with power := { s.power with
        p100 := p, hist := (p :: s.power.hist).take 10000, periodAt := s.t, acc := 0, accN := 0,
        energy := s.power.energy + BitVec.ofNat 64 (e / 10000), energyFrac := e % 10000 } }
      let s := s.excursion p
      let s := if p ≤ s.power.cap * 1000 then
          match s.power.capCmd with
          | some w => ({ s with power := { s.power with capCmd := none } } : State).complete w stOk
              (BitVec.ofNat 64 (match began with | some u => (s.t - u) / 1000 | none => 0))
          | none => s
        else s
      let s : State := { s with power := { s.power with target := nextTarget s.power.target (s.power.cap * 1000) p } }
      s.retuneAll)

/-- EXCURSION_DURATION_LIMIT (R474): an excursion has lasted 10 ms. -/
def execExcursionDurationLimit (s : State) : Host.Outcome State Fault Refusal :=
  event (match s.power.excStart with
    | some u => if s.power.clamp then s else (s.reach (u + 10 * msNs)).engageClamp
    | none => s)

/-- TEAM_CURRENT_SAMPLE (R463, R471): the team regulators' currents, mA, each 10 us. -/
def execTeamCurrentSample (currents : List (Nat × Nat)) (s : State) : Host.Outcome State Fault Refusal :=
  event (
    let s := (currents.filter fun c => c.1 < 336).foldl (fun s c => s.modPwr c.1 fun x => { x with current := c.2 }) s
    { s with power := { s.power with acc := s.power.acc + s.teamsPower, accN := s.power.accN + 1 } })

/-! ### AVSBus (R462, R484) -/

/-- RAIL_CURRENT_READ (R462): a rail's current, mA, each 100 us. -/
def execRailCurrentRead (rail current : Nat) (s : State) : Host.Outcome State Fault Refusal :=
  event (if railAvs rail then s.modRail rail fun x => { x with current := current } else s)

/-- The AVSBus interface and the rail select of a rail (R462). -/
def avsPlace (r : Nat) : Nat × Nat := if r < 8 then (r / 4, r % 4) else if r = 14 then (3, 0) else (2, r - 8)

/-- The voltage commands of a rail, and of its teams that wait for it, end with ST_AVS_PROTOCOL (R484). -/
def State.avsFail (s : State) (r : Nat) : State :=
  let held := if r < 8 then (railTeams r).filter fun p => s.t < (s.teamReg p).since else []
  let cmds := (s.railReg r).cmd.toList ++ held.filterMap fun p => (s.teamReg p).cmd
  let s := s.modRail r fun x => { x with reg := x.reg.map fun g => { g with cmd := none } }
  let s := held.foldl (fun s p => s.modPwr p fun x => { x with reg := x.reg.map fun g => { g with cmd := none } }) s
  s.completeAll cmds stAvsProtocol

/-- An AVSBus violation of Table 14-6: counted and logged, the frame retried at most three times; 32 within 1 s
quarantine the regulator (R484). -/
def State.avsViolation (s : State) (r n : Nat) : State :=
  if !railAvs r || (s.rail r).quarantined then s
  else
    let recent := s.t :: (s.rail r).violTimes.filter fun u => s.t < u + secNs
    let (i, k) := avsPlace r
    let s := (s.countPwr 7).logEv evAvsViolation 0xFF#8 stAvsProtocol r 0#64 (leBytes 2 i ++ leBytes 2 k ++ leBytes 4 n)
    let tries := (s.rail r).retries
    let s := s.modRail r fun x => { x with violTimes := recent, retries := if n ≤ 3 && tries < 3 then tries + 1 else 0 }
    let s := if n = 4 then s.avsSend r 0 (s.railReg r).target
      else if n = 5 then s
      else if tries < 3 then
        match (s.rail r).last with
        | some f => s.avsSend r f.1 f.2
        | none => s
      else s.avsFail r
    if recent.length < 32 then s
    else
      let s := (s.avsFail r).modRail r fun x => { x with quarantined := true }
      (s.logEv evAvsQuarantine 0xFF#8 stAvsProtocol r).checkDegraded

/-- AVSBUS_RESPONSE (R462, R484): a response with the violation it shows, 0 none, and the voltage that it reads back,
which 1 ms after its slew should have ended lies within 20 mV of the target. -/
def execAvsbusResponse (rail viol : Nat) (volt : Option Nat) (s : State) : Host.Outcome State Fault Refusal :=
  event (if viol != 0 then s.avsViolation rail viol
    else
      let g := s.railReg rail
      match volt with
      | some v =>
        if railAvs rail && g.reachAt + msNs ≤ s.t && 20 < max v g.target - min v g.target then s.avsViolation rail 4
        else s.modRail rail fun x => { x with retries := 0 }
      | none => s.modRail rail fun x => { x with retries := 0 })

/-- AVSBUS_NO_RESPONSE (R484): violation 3. -/
def execAvsbusNoResponse (rail : Nat) (s : State) : Host.Outcome State Fault Refusal := event (s.avsViolation rail 3)

/-! ### Droop and rail faults (R476 to R478) -/

/-- DROOP_SLOW (R476): the event is counted. -/
def execDroopSlow (team : Nat) (s : State) : Host.Outcome State Fault Refusal :=
  event (if team < 336 then s.countPwr 3 else s)

/-- HOLD_ENTER (R476): a physical team holds its handshakes. -/
def execHoldEnter (team : Nat) (s : State) : Host.Outcome State Fault Refusal :=
  event (if team < 336 && (s.teamPwr team).hold.isNone then
      (s.modPwr team fun x => { x with hold := some s.t }).countPwr 4
    else s)

/-- The teams of a rail in HOLD. -/
def State.holding (s : State) (r : Nat) : List Nat := (railTeams r).filter fun p => (s.teamPwr p).hold.isSome

/-- HOLD_RELEASE (R476, R478): the hold ends; when every team of a rail in fault has left HOLD the fault is over. -/
def execHoldRelease (team : Nat) (s : State) : Host.Outcome State Fault Refusal :=
  event (match (s.teamPwr team).hold with
    | none => s
    | some u =>
      let s := s.modPwr team fun x => { x with
        hold := none, holds := (u, s.t - u) :: x.holds.filter fun h => s.t < h.1 + 100 * msNs }
      let r := team / 42
      if (s.rail r).fault.isSome && (s.holding r).isEmpty then s.modRail r fun x => { x with fault := none } else s)

/-- SUPPLY_HOLD (R477): a hold of 100 us, or holds that total 1 ms in 100 ms, raise the exception on the team; a rail
fault suppresses it (R478). -/
def execSupplyHold (team : Nat) (s : State) : Host.Outcome State Fault Refusal :=
  event (match (s.teamPwr team).hold with
    | none => s
    | some u =>
      if (s.rail (team / 42)).fault.isSome || (s.rail (team / 42)).out then s
      else
        let past := sumNat (((s.teamPwr team).holds.filter fun h => s.t < h.1 + 100 * msNs).map (·.2))
        let s := s.reach (u + min 100000 (msNs - past))
        match s.physState team, s.logicalOf team with
        | .mapped, some l =>
          match s.activeOn l with
          | some (w, _, rank) => s.raise w rank 0 0x13 0
          | none => s.failTeam l []
        | .spare, _ => s.modPhys team fun x => { x with state := some .failed, fieldDue := some s.t }
        | _, _ => s)

/-- RAIL_FAULT (R478): four teams of a VIN_TEAM rail in HOLD at once for 20 us, or its regulator reports it: the status
is cleared and the target sent again. On another AVSBus rail the part takes a warm reset. -/
def execRailFault (rail : Nat) (reported : Bool) (s : State) : Host.Outcome State Fault Refusal :=
  event (
    let starts := sortOn id ((s.holding rail).filterMap fun p => (s.teamPwr p).hold)
    let declared := reported || (rail < 8 && 4 ≤ starts.length)
    if !railAvs rail || !declared || (s.rail rail).fault.isSome || (s.rail rail).out then s
    else
      let s := if reported then s else s.reach ((starts[3]?).getD 0 + 20000)
      let s := (s.countPwr 5).logEv evRailFault 0xFF#8 0#16 rail
      if 8 ≤ rail then s.beginWarm
      else
        let s := s.modRail rail fun x => { x with fault := some s.t }
        if (s.rail rail).quarantined then s else (s.avsSend rail 2 0).avsSend rail 0 (s.railReg rail).target)

/-- RAIL_FAULT_TIMEOUT (R478): teams still hold 10 ms after the declaration: every task with a team on the rail is
stopped, its launch completes with ST_RAIL_FAULT, and the rail's teams go out of service without a substitute. -/
def execRailFaultTimeout (rail : Nat) (s : State) : Host.Outcome State Fault Refusal :=
  event (match (s.rail rail).fault with
    | none => s
    | some u =>
      if (s.holding rail).isEmpty then s
      else
        let s := s.reach (u + 10 * msNs)
        let hit := s.tasks.filter fun (e : BitVec 64 × Task) => !e.2.state.final && e.2.teams.any fun l => s.physOf l / 42 = rail
        let s := hit.foldl (fun s (e : BitVec 64 × Task) => s.finishTask e.1 .failed stRailFault 0#32) s
        (s.modRail rail fun x => { x with fault := none, out := true }).checkDegraded)

/-- RAIL_RESTORED (R478): the rail has held its target within 10 mV for 100 ms, and its teams return to service. -/
def execRailRestored (rail : Nat) (s : State) : Host.Outcome State Fault Refusal :=
  event (if (s.rail rail).out then (s.modRail rail fun x => { x with out := false }).checkDegraded else s)

/-! ### Temperature (R479 to R481) -/

/-- The readings of the team, Basin-die and I/O-die sensors, 1/16 degC. -/
def State.junctions (s : State) : List Int :=
  (List.range 336).map (fun p => (s.teamPwr p).temp) ++ (List.range 24).map fun k => tgetD 0 s.power.dieTemps k

/-- The greatest of some readings. -/
def maxTemp (ts : List Int) : Int := ts.foldl max (-32768)

/-- What the junction sensors start or end: the 108 degC and 115 degC intervals and the release of the clamp at
100 degC (Table 14-4). -/
def State.watchTemps (s : State) : State :=
  let j := maxTemp s.junctions
  let keep := fun (u : Option Nat) => match u with | some x => some x | none => some s.t
  { s with power := { s.power with
      hotSince := if 1728 ≤ j then keep s.power.hotSince else none
      tripSince := if 1840 ≤ j then keep s.power.tripSince else none
      thermClamp := s.power.thermClamp && 1600 < j } }

/-- THERMAL_SENSOR_SAMPLE (R479, R480): kind 0 a team, 1 a Basin-die sensor, 2 an I/O-die sensor, 3 an HBM4 stack, 4 an
NVW stack, 5 an AVSBus rail; the temperature in 1/16 degC. -/
def execThermalSensorSample (kind k : Nat) (temp : Int) (s : State) : Host.Outcome State Fault Refusal :=
  event (
    if kind = 0 && k < 336 then
      let s := (s.modPwr k fun x => { x with temp := temp }).watchTemps
      if s.power.throttlePoint * 16 ≤ temp && (s.teamReg k).fixed then
        (s.modPwr k fun x => { x with reg := x.reg.map fun g => { g with fixed := false } }).logEv evThermalThrottle 0xFF#8
          0#16 k 0#64 (leBytes 4 1)
      else s
    else if kind = 1 && k < 16 then
      ({ s with power := { s.power with dieTemps := tputD 0 s.power.dieTemps k temp } } : State).watchTemps
    else if kind = 2 && k < 8 then
      ({ s with power := { s.power with dieTemps := tputD 0 s.power.dieTemps (16 + k) temp } } : State).watchTemps
    else if kind = 3 && k < 12 then
      { s with hbm := { s.hbm with
          temp := tputD 0 s.hbm.temp k temp
          throttled := if 95 * 16 < temp then insNat k s.hbm.throttled
                       else if temp ≤ 92 * 16 then s.hbm.throttled.filter (fun x => x != k) else s.hbm.throttled } }
    else if kind = 4 && k < 4 then
      ({ s with power := { s.power with nvwTemps := tputD 0 s.power.nvwTemps k temp } } : State).modNvw k fun x =>
        { x with
          deferred := if 90 * 16 < temp then true else if temp ≤ 85 * 16 then false else x.deferred
          retention := x.retention + temp.toNat * (s.t / 1000 - x.sampledAt)
          sampledAt := s.t / 1000 }
    else if kind = 5 && railAvs k then s.modRail k fun x => { x with temp := temp }
    else s)

/-- THROTTLE_PERIOD (R480): a team at the throttle point loses 5 % of its limit each 100 us; one at 3 degC below it or
less regains 5 % each 1 ms; between the two the limit stays. -/
def execThrottlePeriod (team : Nat) (s : State) : Host.Outcome State Fault Refusal :=
  event (if 336 ≤ team then s
    else
      let x := s.teamPwr team
      if (s.power.throttlePoint : Int) * 16 ≤ x.temp then
        let s := if x.throttle = 100 then s.logEv evThermalThrottle 0xFF#8 0#16 team else s.reach (x.lastStep + 100000)
        (s.modPwr team fun y => { y with throttle := y.throttle - 5, lastStep := s.t }).countPwr 2
      else if x.temp ≤ ((s.power.throttlePoint : Int) - 3) * 16 && x.throttle < 100 then
        let s := s.reach (x.lastStep + msNs)
        s.modPwr team fun y => { y with throttle := min 100 (y.throttle + 5), lastStep := s.t }
      else s)

/-- THERMAL_CLAMP (R479): a junction sensor has read 108 degC or more for 100 us. -/
def execThermalClamp (s : State) : Host.Outcome State Fault Refusal :=
  event (match s.power.hotSince with
    | some u =>
      if s.power.thermClamp then s
      else
        let s := s.reach (u + 100000)
        ({ s with power := { s.power with thermClamp := true } } : State).countPwr 1
    | none => s)

/-- THERMAL_TRIP (R479, R481, R425): a trip threshold is met: THERMTRIP_N is asserted until PWR_OK deasserts, masters and
transmitters stop, every team regulator goes to 0.600 V, and nothing in flight completes, as on a power loss. Kryto
records the trip for the next boot. -/
def execThermalTrip (s : State) : Host.Outcome State Fault Refusal :=
  event (
    let hot := s.hbm.temp.any (fun (e : Nat × Int) => 105 * 16 ≤ e.2) || s.power.nvwTemps.any fun (e : Nat × Int) => 105 * 16 ≤ e.2
    if s.power.trip || (s.power.tripSince.isNone && !hot) then s
    else
      let s := match s.power.tripSince with | some u => if hot then s else s.reach (u + 20000) | none => s
      let regs := (List.range 336).map fun p => (p, { TeamPwr.reset with
        reg := some { s.teamReg p with target := 600, out := (s.teamReg p).at_ s.t, since := s.t, cmd := none, fixed := false } })
      let s := s.loseAll
      { s with
        pins := { s.pins with thermtripN := false, txOn := false }
        part := { s.part with mastersStopped := true }
        kryto := { s.kryto with tripped := true }
        power := { s.power with trip := true, teams := regs } })

/-! ### Ageing (R467) -/

/-- Writes back a lowered ceiling record and logs it; a team then below 1.60 G steps/s at 0.75 V and 70 degC is retired
as a hardware-class failure (R467). -/
def State.storeCeil (s : State) (p : Nat) (new : CeilRec) : State :=
  let s : State := { s with kryto := { s.kryto with ceilNow := tput s.kryto.ceilNow p new } }
  let s := s.logEv evCeilingLowered 0xFF#8 0#16 p 0#64 (leBytes 2 (colAt new.ceil70 3))
  if 1600 ≤ colAt new.ceil70 3 || s.physState p = .retired then s
  else
    let s := match s.physState p, s.logicalOf p with
      | .mapped, some l => match s.activeOn l with
        | some (w, _, rank) => s.raise w rank 0 0x10 0
        | none => s.failTeam l []
      | _, _ => s
    s.retirePhys p

/-- Lowers every entry of a team's record by a slowdown in 0.01 % plus 1 %, from a base record, and never raises one
(R467, R494). -/
def State.lowerCeil (s : State) (p slow : Nat) (base : CeilRec) : State :=
  let cur := s.ceilRec p
  let cut := fun (b c : List (BitVec 16)) => (b.zip c).map fun e =>
    BitVec.ofNat 16 (min e.2.toNat (e.1.toNat * (10000 - slow - 100) / 10000))
  let new : CeilRec := { cur with aged := true, ceil70 := cut base.ceil70 cur.ceil70, ceil100 := cut base.ceil100 cur.ceil100 }
  s.storeCeil p new

/-- REPLICA_READ (R467): a team's replica slowdown against its values at test, in 0.01 %, read each second. -/
def execReplicaRead (team slow : Nat) (s : State) : Host.Outcome State Fault Refusal :=
  event (if team < 336 then s.modPwr team fun x => { x with replica := slow } else s)

/-- The daily check of a team's replica record (R467). -/
def State.ageTeam (s : State) (team : Nat) : State :=
  let slow := (s.teamPwr team).replica
  let hours := tgetD 0 s.kryto.powered team + 24
  let s : State := { (s.modPwr team fun x => { x with ageAt := s.t }) with
    kryto := { s.kryto with powered := tput s.kryto.powered team hours } }
  if slow ≤ 50 then s
  else
    let c := s.ceilRec team
    let s : State := { s with kryto := { s.kryto with
      ceilNow := tput s.kryto.ceilNow team { c with ageHours := BitVec.ofNat 16 (min 0xFFFF (hours / 16)) } } }
    s.lowerCeil team slow (floorRec team)

/-- AGEING_CHECK (R467): each 24 hours of powered time, a slowdown above 0.5 % lowers the ceiling record. -/
def execAgeingCheck (team : Nat) (s : State) : Host.Outcome State Fault Refusal :=
  event (if 336 ≤ team then s
    else (s.reach ((s.teamPwr team).ageAt + 86400 * secNs)).ageTeam team)

/-! ### Telemetry and queries (R483, R486) -/

/-- A temperature as a 16-bit field. -/
def tempBytes (t : Int) : List Byte := leBytes 2 (BitVec.ofInt 16 t).toNat

/-- A temperature in whole degrees, one byte. -/
def degByte (t : Int) : Byte := BitVec.ofInt 8 (t / 16)

/-- The power telemetry record (Table 14-5). -/
def State.powerRecord (s : State) : List Byte :=
  let w := s.power
  let hb := (List.range 12).map fun k => tgetD 0 s.hbm.temp k
  let nv := (List.range 4).map fun k => tgetD 0 w.nvwTemps k
  let bit := fun (b : Bool) (n : Nat) => if b then n else 0
  let flags := bit w.excStart.isSome 1 + bit (w.clamp || w.thermClamp) 2 +
    bit (w.teams.any fun (e : Nat × TeamPwr) => e.2.throttle < 100) 4 + bit (!s.hbm.throttled.isEmpty) 8 +
    bit (s.nvw.any fun (e : Nat × NvwStack) => e.2.deferred) 16 +
    bit (w.rails.any fun (e : Nat × Rail) => e.2.fault.isSome || e.2.out) 32
  leBytes 8 w.periodAt ++ leBytes 4 w.p100 ++ leBytes 4 (sumNat w.hist / max 1 w.hist.length) ++ leBytes 4 w.cap ++
  leBytes 4 (w.target / 1000000) ++ leBytes 8 w.energy.toNat ++ (List.range 15).flatMap (fun r => leBytes 4 (s.railPower r)) ++
  leBytes 4 s.boardPower ++ tempBytes (maxTemp s.junctions) ++ [degByte (maxTemp hb), degByte (maxTemp nv)] ++
  leBytes 4 flags ++ (List.range 8).flatMap (fun i => leBytes 4 (tgetD 0#32 w.counts i).toNat) ++ List.replicate 120 0#8

/-- The 16 bytes of a team of the allotment (log entry 11): voltage, rate limit, current, temperature, mode and flags. -/
def State.teamPowerBytes (s : State) (l : Nat) : List Byte :=
  let p := s.physOf l
  let x := s.teamPwr p
  leBytes 2 ((s.teamReg p).at_ s.t / 1000) ++ leBytes 2 (s.pacer p / 1000000) ++ leBytes 4 x.current ++ tempBytes x.temp ++
  [if (s.teamReg p).fixed then 1#8 else 0#8, BitVec.ofNat 8 ((if x.hold.isSome then 1 else 0) + (if x.throttle < 100 then 2 else 0))] ++
  leBytes 4 0

/-- PWR_TELEMETRY of either level; the undivided board rails read free values. -/
def State.telemetry (s : State) (c : Cmd) (teams : List Nat) : Except Err State := do
  let s1 ← s.writeBuf c (c.u64 0) (s.powerRecord ++ teams.flatMap s.teamPowerBytes)
  .ok (({ s1 with free := s1.free + 15 } : State).ok c)

/-- PWR_TELEMETRY. -/
def pwrTelemetryBody (c : Cmd) (s : State) : Except Err State := s.telemetry c []

/-- PWR_TELEMETRY, expert: TEAMS adds the teams of the allotment. -/
def pwrTelemetryExpertBody (c : Cmd) (s : State) : Except Err State :=
  s.telemetry c (if c.flag 8 then s.allotment c.pad else [])

/-- PWR_CEILING_QUERY: a physical team's present record. -/
def pwrCeilingQueryBody (c : Cmd) (s : State) : Except Err State := do
  let p := c.u32 0
  need (p < 336) stBadParam
  let s ← s.writeBuf c (c.u64 4) (s.ceilBytes p (s.ceilRec p))
  .ok (s.ok c)

/-- PWR_CEILING_QUERY, expert: the test and the present record of every physical team. -/
def pwrCeilingQueryExpertBody (c : Cmd) (s : State) : Except Err State := do
  need c.mgmt stNotPermitted
  let s ← s.writeBuf c (c.u64 0) ((List.range 336).flatMap fun p => s.ceilBytes p (floorRec p) ++ s.ceilBytes p (s.ceilRec p))
  .ok (s.ok c)

/-- Every sensor of Table 14-4 in its order, then 64 bytes of throttle state (log entry 11): a bit per throttled team,
the throttle point, the clamps, the throttled stacks, the deferred NVW stacks. -/
def State.thermalRecord (s : State) : List Byte :=
  let bits := (List.range 42).map fun i => BitVec.ofNat 8 (sumNat ((List.range 8).map fun b =>
    if (s.teamPwr (8 * i + b)).throttle < 100 then 2 ^ b else 0))
  (s.junctions ++ (List.range 12).map (fun k => tgetD 0 s.hbm.temp k) ++ (List.range 4).map (fun k => tgetD 0 s.power.nvwTemps k) ++
    avsRails.map fun r => (s.rail r).temp).flatMap tempBytes ++
  bits ++ [BitVec.ofNat 8 s.power.throttlePoint, BitVec.ofNat 8 ((if s.power.clamp then 1 else 0) + (if s.power.thermClamp then 2 else 0))] ++
  leBytes 2 (sumNat (s.hbm.throttled.map fun k => 2 ^ k)) ++
  leBytes 2 (sumNat ((List.range 4).map fun k => if (s.nvwStack k).deferred then 2 ^ k else 0)) ++ List.replicate 16 0#8

/-- PWR_THERMAL_QUERY. -/
def pwrThermalQueryBody (c : Cmd) (s : State) : Except Err State := do
  let s ← s.writeBuf c (c.u64 0) s.thermalRecord
  .ok (s.ok c)

/-- PWR_THERMAL_QUERY, expert: also sets the throttle point. -/
def pwrThermalQueryExpertBody (c : Cmd) (s : State) : Except Err State := do
  need c.mgmt stNotPermitted
  need (85 ≤ c.u32 8 && c.u32 8 ≤ 100) stBadParam
  let s ← s.writeBuf c (c.u64 0) s.thermalRecord
  .ok (({ s with power := { s.power with throttlePoint := c.u32 8 } } : State).ok c)

end Sys2Proof.Machine
end

