-- ==== Sys2Proof/Machine/Motion.lean ====
section
/-! DEFINITION. The encode pipe's motion search (R450): the reference's samples at quarter-sample positions, the cost of a
position and the four stages. -/

namespace Sys2Proof.Machine

open Sys2Proof

/-! ### Samples (R450) -/

/-- A plane of luma samples. -/
structure Plane where
  /-- width -/
  w : Nat
  /-- height -/
  h : Nat
  /-- samples in raster order -/
  px : List Nat
deriving DecidableEq, Repr

/-- A sample at an integer position: outside the picture the nearest one inside, which is how H.265 pads. -/
def Plane.at (p : Plane) (x y : Int) : Nat :=
  let cx := (min (max x 0) ((p.w : Int) - 1)).toNat
  let cy := (min (max y 0) ((p.h : Int) - 1)).toNat
  (p.px[cy * p.w + cx]?).getD 0

/-- The eight coefficients of H.265's luma interpolation filter at a quarter-sample phase (log entry 168). -/
def lumaTaps (phase : Nat) : List Int :=
  match phase with
  | 0 => [0, 0, 0, 64, 0, 0, 0, 0]
  | 1 => [-1, 4, -10, 58, 17, -5, 1, 0]
  | 2 => [-1, 4, -11, 40, 40, -11, 4, -1]
  | _ => [0, 1, -5, 17, 58, -10, 4, -1]

/-- The sum of eight values under the filter of a phase. -/
def tapSum (phase : Nat) (f : Int → Int) : Int :=
  ((lumaTaps phase).zip (List.range 8)).foldl (fun a e => a + e.1 * f ((e.2 : Int) - 3)) 0

/-- A predicted sample at a position in quarter samples, clipped to the bit depth (H.265's luma sample interpolation and
default weighting, log entry 168). -/
def Plane.quarter (p : Plane) (depth : Nat) (x y : Int) : Nat :=
  let xi := x / 4
  let yi := y / 4
  let fx := (x % 4).toNat
  let fy := (y % 4).toNat
  let row : Int → Int := fun j => tapSum fx (fun i => (p.at (xi + i) (yi + j) : Int)) >>> (depth - 8)
  let v : Int :=
    if fx = 0 && fy = 0 then (p.at xi yi : Int) * 2 ^ (14 - depth)
    else if fy = 0 then row 0
    else if fx = 0 then tapSum fy (fun j => (p.at xi (yi + j) : Int)) >>> (depth - 8)
    else tapSum fy row >>> 6
  let r := if depth < 14 then (v + 2 ^ (13 - depth)) >>> (14 - depth) else v
  (min (max r 0) (2 ^ depth - 1)).toNat

/-- A plane downscaled by 4. -/
def Plane.down4 (p : Plane) : Plane :=
  let w := (p.w + 3) / 4
  let h := (p.h + 3) / 4
  { w := w, h := h
    px := (List.range (w * h)).map fun i => Config.downscale ((List.range 16).map fun j =>
      p.at ((4 * (i % w) + j % 4 : Nat) : Int) ((4 * (i / w) + j / 4 : Nat) : Int)) }

/-! ### The cost of a position (R450) -/

/-- The sign of an entry of a Hadamard matrix of side at most 8. -/
def hadSign (i j : Nat) : Int :=
  let k := i &&& j
  if (k % 2 + k / 2 % 2 + k / 4 % 2) % 2 = 0 then 1 else -1

/-- The side of the Hadamard blocks of a partition: 8, or the greatest power of two that divides both sides where those
are smaller (log entry 168). -/
def hadSide (w h : Nat) : Nat :=
  if w % 8 = 0 && h % 8 = 0 then 8 else if w % 4 = 0 && h % 4 = 0 then 4 else if w % 2 = 0 && h % 2 = 0 then 2 else 1

/-- The sum of absolute transformed differences of an n x n block of differences. -/
def satdBlock (n : Nat) (d : Nat → Nat → Int) : Nat :=
  (List.range (n * n)).foldl (fun a k =>
    a + ((List.range (n * n)).foldl (fun (t : Int) i =>
      t + hadSign (i % n) (k % n) * hadSign (i / n) (k / n) * d (i % n) (i / n)) 0).natAbs) 0

/-- The SATD of a w x h block of differences, in Hadamard blocks. -/
def satd (w h : Nat) (d : Nat → Nat → Int) : Nat :=
  let n := hadSide w h
  let cols := w / n
  (List.range (cols * (h / n))).foldl (fun a b =>
    a + satdBlock n fun x y => d (b % cols * n + x) (b / cols * n + y)) 0

/-- A position with its cost: SATD and lambda times the vector difference's bits. -/
structure Candidate where
  /-- vector, in quarter samples -/
  mv : Int × Int
  /-- cost -/
  cost : Nat
  /-- |mvd|, the sum of its components' sizes (log entry 168) -/
  size : Nat
deriving DecidableEq, Repr

/-- Whether a candidate goes before another: the lower cost, then the smaller |mvd|, the lower vertical component and the
lower horizontal component. -/
def Candidate.before (a b : Candidate) : Bool :=
  if a.cost ≠ b.cost then a.cost < b.cost
  else if a.size ≠ b.size then a.size < b.size
  else if a.mv.2 ≠ b.mv.2 then a.mv.2 < b.mv.2
  else a.mv.1 < b.mv.1

/-- A candidate from its SATD. -/
def candidateAt (p : Partition) (mv : Int × Int) (d : Nat) : Candidate :=
  let dx := mv.1 - p.pred.1
  let dy := mv.2 - p.pred.2
  { mv := mv, cost := d + Config.lambda p.qp * Config.mvdBits dx dy, size := dx.natAbs + dy.natAbs }

/-- The best `n` of a list, the best one first. -/
def bestOf : Nat → List Candidate → List Candidate
  | 0, _ => []
  | n + 1, l =>
    match l with
    | [] => []
    | c :: t =>
      let b := t.foldl (fun a x => if x.before a then x else a) c
      b :: bestOf n (l.filter fun x => x ≠ b)

/-- The best of some candidates beside one that stands. -/
def better (c : Candidate) (l : List Candidate) : Candidate := l.foldl (fun a x => if x.before a then x else a) c

/-! ### The stages (R450) -/

/-- What a search looks at: the source, the reference and the bit depth. -/
structure SearchIn where
  /-- source luma -/
  src : Plane
  /-- reference luma -/
  ref : Plane
  /-- source downscaled by 4 -/
  src4 : Plane
  /-- reference downscaled by 4 -/
  ref4 : Plane
  /-- bit depth -/
  depth : Nat
deriving DecidableEq, Repr

/-- The candidate at a vector of the full-resolution reference. -/
def SearchIn.full (g : SearchIn) (p : Partition) (mv : Int × Int) : Candidate :=
  candidateAt p mv (satd p.w p.h fun x y =>
    (g.src.at ((p.x + x : Nat) : Int) ((p.y + y : Nat) : Int) : Int) -
      (g.ref.quarter g.depth (4 * ((p.x + x : Nat) : Int) + mv.1) (4 * ((p.y + y : Nat) : Int) + mv.2) : Int))

/-- The candidate at a position of the reference downscaled by 4: one position is 16 quarter samples. -/
def SearchIn.coarse (g : SearchIn) (p : Partition) (cx cy : Int) : Candidate :=
  candidateAt p (16 * cx, 16 * cy) (satd (max 1 (p.w / 4)) (max 1 (p.h / 4)) fun x y =>
    (g.src4.at ((p.x / 4 + x : Nat) : Int) ((p.y / 4 + y : Nat) : Int) : Int) -
      (g.ref4.at (((p.x / 4 + x : Nat) : Int) + cx) (((p.y / 4 + y : Nat) : Int) + cy) : Int))

/-- The positions of a rectangle of `rx` positions either way horizontally and `ry` vertically, `step` quarter samples
apart, around a vector. -/
def around (rx ry : Nat) (step : Int) (c : Int × Int) : List (Int × Int) :=
  (List.range ((2 * rx + 1) * (2 * ry + 1))).map fun i =>
    (c.1 + step * (((i % (2 * rx + 1) : Nat) : Int) - rx), c.2 + step * (((i / (2 * rx + 1) : Nat) : Int) - ry))

/-- Stages 1 and 2: the full search of the downscaled reference within 32 positions horizontally and 16 vertically, and
the integer refinement within 4 samples of its three best. -/
def SearchIn.integerStage (g : SearchIn) (p : Partition) : Candidate :=
  let three := bestOf 3 ((around 32 16 1 (0, 0)).map fun v => g.coarse p v.1 v.2)
  let fine := three.flatMap fun c => (around 4 4 4 c.mv).map (g.full p)
  (bestOf 1 fine).headD (g.full p (0, 0))

/-- Stages 3 and 4: the eight half-sample neighbours, then the eight quarter-sample neighbours. -/
def SearchIn.fractional (g : SearchIn) (p : Partition) (c : Candidate) : Candidate :=
  let half := better c (((around 1 1 2 c.mv).filter fun v => v ≠ c.mv).map (g.full p))
  better half (((around 1 1 1 half.mv).filter fun v => v ≠ half.mv).map (g.full p))

/-- The vector of a partition: a 2Nx2N one takes all four stages, a named position only the last two. -/
def SearchIn.vector (g : SearchIn) (p : Partition) : Int × Int :=
  (g.fractional p (match p.named with
    | none => g.integerStage p
    | some v => g.full p v)).mv

end Sys2Proof.Machine
end

