-- ==== Sys2Proof/Machine/Encode.lean ====
section
/-! DEFINITION. The encode pipe: the type and the QP of a picture, its coding tree units with the emergency form, and its
access unit (R449, R451 to R454). -/

namespace Sys2Proof.Machine

open Sys2Proof

/-! ### What coding may use (R452) -/

/-- The fields of the session descriptor that an encode session codes under (Table 13-2). -/
def Quay.codeFields (q : Quay) : List Nat :=
  [q.profile, q.level, q.width, q.height, q.fpsNum, q.fpsDen, q.rc, q.bitrate, q.cpb, q.idr, q.refs, q.ctb, q.qpInit,
    if q.sao then 1 else 0, if q.hash then 1 else 0, q.qpMin, q.qpMax]

/-- The fields of a frame descriptor that coding sees (Table 13-4): not where the picture or its regions lie. -/
def FrameDesc.codeFields (d : FrameDesc) : List Nat :=
  [d.pts.toNat, if d.forceIdr then 1 else 0, if d.flush then 1 else 0, (d.qpOffset + 128).toNat] ++
    d.regions.flatMap fun r => (r.take 10).map (·.toNat)

/-- The luma plane of an input picture in the layout of R445. -/
def lumaOf (q : Quay) (bs : List Byte) : List Nat :=
  let n := if q.profile = 2 then 2 else 1
  let row := roundUp (q.width * n) 256
  let a := bs.toArray
  (List.range (q.width * q.height)).map fun i =>
    let o := i / q.width * row + i % q.width * n
    ((a[o]?).getD 0#8).toNat + (if n = 2 then (((a[o + 1]?).getD 0#8).toNat % 4) * 256 else 0)

/-- All that rate control and the coding of picture `n` may use (R452): no time, and nothing of another session. -/
def Quay.codeInput (q : Quay) (n : Nat) (d : FrameDesc) (src : List Byte) : List (List Nat) :=
  [q.codeFields, [n, q.sinceIdr]] ++ (q.frames ++ [d]).map FrameDesc.codeFields ++ [src.map (·.toNat), q.bits] ++ q.refsY

/-! ### The picture's type and its QP (R451, R452) -/

/-- Whether a picture is an IDR picture: the first, one with FORCE_IDR, and one that IDR_PERIOD makes due (R442, R455, log
entry 169). -/
def Quay.idrDue (q : Quay) (n : Nat) (d : FrameDesc) : Bool :=
  n = 0 || d.forceIdr || (q.idr ≠ 0 && q.idr ≤ q.sinceIdr)

/-- TYPE of a picture: 0 IDR, 1 other I, 2 P. -/
def Quay.codeKind (q : Quay) (n : Nat) (d : FrameDesc) (inp : List (List Nat)) : Nat :=
  if q.idrDue n d then 0 else if Config.codedIntra inp then 1 else 2

/-- The highest-numbered region that covers a sample (R451). -/
def FrameDesc.regionAt (d : FrameDesc) (x y : Nat) : Option (List Byte) :=
  d.regions.reverse.find? fun r =>
    16 * fld r 0 2 ≤ x && x < 16 * (fld r 0 2 + fld r 4 2) && 16 * fld r 2 2 ≤ y && y < 16 * (fld r 2 2 + fld r 6 2)

/-- A signed byte. -/
def signed8 (n : Nat) : Int := (BitVec.ofNat 8 n).toInt

/-- The QP of the quantisation group whose top-left sample is (x, y), from the rate-controlled QP, to which QP_OFFSET has
been applied: the highest-numbered region's offset or absolute QP, then the session's limits, then the bit depth's range
(R451, R455). -/
def Quay.groupQp (q : Quay) (d : FrameDesc) (x y : Nat) (rate : Int) : Int :=
  let base := rate + d.qpOffset
  let v : Int := match d.regionAt x y with
    | none => base
    | some r => if fld r 9 1 = 0 then base + signed8 (fld r 8 1) else (fld r 8 1 : Int)
  let v := min (max v q.qpMin) q.qpMax
  min (max v (if q.profile = 2 then -12 else 0)) 51

/-- The rate-controlled QP of a group: the constant QP, or the picture's and the group's change (R442, R452). -/
def Quay.rateQp (q : Quay) (inp : List (List Nat)) (spent : List Nat) (group : Nat) : Int :=
  if q.rc = 0 then q.qpInit else Config.pictureQp inp + Config.groupChange inp spent group

/-- Side of a quantisation group: 16 with any region present (R451), else the part's, no larger than a coding tree unit. -/
def Quay.groupSide (q : Quay) (d : FrameDesc) (inp : List (List Nat)) : Nat :=
  if !d.regions.isEmpty then 16
  else match Config.groupSide inp % 4 with
    | 0 => q.ctb
    | 1 => 32
    | 2 => 16
    | _ => 8

/-- The top-left samples of the quantisation groups of coding tree unit `i` that lie in the picture, in raster order. -/
def Quay.groupsOf (q : Quay) (side i : Nat) : List (Nat × Nat) :=
  let cols := (q.width + q.ctb - 1) / q.ctb
  let k := q.ctb / side
  ((List.range (k * k)).map fun j =>
    (i % cols * q.ctb + j % k * side, i / cols * q.ctb + j / k * side)).filter fun g => g.1 < q.width && g.2 < q.height

/-! ### Coding tree units (R450, R453, R454) -/

/-- The picture so far: its bits, the bit counts of its units, the QPs of its groups, and whether the emergency form has
begun. -/
structure UnitsDone where
  /-- bits of slice_segment_data -/
  bits : List Bool
  /-- bit counts of the units, in order -/
  spent : List Nat
  /-- QPs of the quantisation groups -/
  qps : List Int
  /-- every remaining unit is coded in emergency form -/
  emergency : Bool
deriving DecidableEq, Repr

/-- The emergency bound of a coding tree unit, in bits (R453). -/
def emergencyBound (intra : Bool) : Nat := if intra then 48 else 8

/-- Whether the bits spent on a picture and the emergency bound of its remaining units fit in the bits that will have
arrived by its removal time (R453). -/
def Quay.unitFits (q : Quay) (intra : Bool) (head spent left : Nat) : Bool :=
  q.rc = 0 || (((head + spent + emergencyBound intra * left) * (10 * q.fpsNum) : Nat) : Int) ≤ q.cpbFull

/-- Codes one coding tree unit: in emergency form from the first one whose check fails, or where the input is poisoned
(R453, R454). -/
def Quay.codeUnit (q : Quay) (d : FrameDesc) (inp : List (List Nat)) (search : Partition → Int × Int) (intra : Bool)
    (head : Nat) (a : UnitsDone) (i : Nat) : UnitsDone :=
  let groups := q.groupsOf (q.groupSide d inp) i
  let qps := groups.map fun g => q.groupQp d g.1 g.2 (q.rateQp inp a.spent (a.qps.length))
  if a.emergency || !q.unitFits intra head a.bits.length (q.ctus - i) then
    let bs := (Config.emergencyBits inp i intra a.bits).take (emergencyBound intra)
    { bits := a.bits ++ bs, spent := a.spent ++ [bs.length]
      qps := a.qps ++ (if intra then groups.map fun _ => 51 else qps), emergency := true }
  else
    let bs := Config.unitBits inp i (qps.map fun v => (v + 12).toNat) a.bits search
    { a with bits := a.bits ++ bs, spent := a.spent ++ [bs.length], qps := a.qps ++ qps }

/-- Bits as bytes, the first bit the most significant, with rbsp_slice_segment_trailing_bits (R449). -/
def trailing (bits : List Bool) : List Byte :=
  let bs := (bits ++ [true]).toArray
  (List.range ((bs.size + 7) / 8)).map fun i => (List.range 8).foldl (fun (b : Byte) j =>
    b ||| (if (bs[8 * i + j]?).getD false then 0x80#8 >>> j else 0#8)) 0#8

/-- Emulation prevention: a byte 3 before a byte below 4 that follows two zero bytes (R449, log entry 168). `z` counts the
zero bytes just written. -/
def prevent : Nat → List Byte → List Byte
  | _, [] => []
  | z, b :: t =>
    if 2 ≤ z && b < 4#8 then 3#8 :: b :: prevent (if b = 0#8 then 1 else 0) t
    else b :: prevent (if b = 0#8 then z + 1 else 0) t

/-- A coded picture. -/
structure CodedUnit where
  /-- access unit, without filler data -/
  au : List Byte
  /-- TYPE -/
  kind : Nat
  /-- QP of the record: the mean over quantisation groups, rounded down -/
  qp : Int
  /-- a unit was coded in emergency form -/
  emergency : Bool
  /-- reconstructed luma samples -/
  recon : List Nat
deriving DecidableEq, Repr

/-- The vector that the search gives for a partition: on a reference the session does not hold, the zero vector. -/
def Quay.search (q : Quay) (src : List Byte) (p : Partition) : Int × Int :=
  match q.refsY[p.ref]? with
  | none => (0, 0)
  | some r =>
    let s : Plane := { w := q.width, h := q.height, px := lumaOf q src }
    let f : Plane := { w := q.width, h := q.height, px := r }
    ({ src := s, ref := f, src4 := s.down4, ref4 := f.down4, depth := if q.profile = 2 then 10 else 8 } : SearchIn).vector p

/-- Codes a picture (R449 to R454): a function of the session descriptor, the frame descriptors, the samples and the bit
counts so far, and of whether the input is poisoned. -/
def Quay.codePicture (q : Quay) (n : Nat) (d : FrameDesc) (src : List Byte) (bad : Bool) : CodedUnit :=
  let inp := q.codeInput n d src
  let kind := q.codeKind n d inp
  let intra : Bool := kind < 2
  let head := Config.unitHeader inp
  let done := (List.range q.ctus).foldl (q.codeUnit d inp (q.search src) intra (8 * head.length))
    { bits := [], spent := [], qps := [], emergency := bad }
  let data := prevent 0 (trailing done.bits)
  { au := head ++ data ++ (if q.hash then Config.unitTrailer inp data else []), kind := kind
    qp := done.qps.foldl (· + ·) 0 / (max 1 done.qps.length : Nat), emergency := done.emergency
    recon := Config.reconstruct q.refsY (head ++ data) }

end Sys2Proof.Machine
end

