-- ==== Sys2Proof/Machine/Quay.lean ====
section
/-! DEFINITION. The Frame Quay: the bodies of its commands, the latch and the end of a picture on a pipe (R440 to
R459). -/

namespace Sys2Proof.Machine

open Sys2Proof

/-! ### Sessions (R441, R442) -/

/-- The session that a descriptor describes (Table 13-2); the basic form has bytes 0 to 63. -/
def quayOf (c : Cmd) (d : List Byte) : Quay :=
  let full := 128 ≤ d.length
  let f4 := fun o => BitVec.ofNat 32 (fld d o 4)
  { paddock := c.pad, fn := c.fn, encode := fld d 0 1 = 1, profile := fld d 1 1, level := fld d 2 1, tier := fld d 3 1
    width := fld d 4 2, height := fld d 6 2, fpsNum := fld d 8 4, fpsDen := fld d 12 4, inS := fld d 16 4
    inCons := fld d 20 2, outS := fld d 24 4, records := fld d 28 4, recAddr := BitVec.ofNat 64 (fld d 32 8)
    recHost := false, write := 0, read := 0, outMode := fld d 40 1, patch := fld d 41 1, matrix := fld d 42 1
    rc := fld d 43 1, bitrate := fld d 44 4, cpb := fld d 48 4, idr := fld d 52 4, refs := fld d 56 1, ctb := fld d 57 1
    qpInit := fld d 58 1, sao := bitAt (fld d 59 1) 0, hash := bitAt (fld d 59 1) 1
    mean := if full then [f4 64, f4 68, f4 72] else [0#32, 0#32, 0#32]
    istd := if full then [f4 76, f4 80, f4 84] else [0x3B808081#32, 0x3B808081#32, 0x3B808081#32]
    int8Scale := if full then BitVec.ofNat 8 (fld d 88 1) else 127#8
    qpMin := if full then fld d 89 1 else 0, qpMax := if full then fld d 90 1 else 51
    dpb := if full then fld d 96 8 else 0, dpbOwn := false, active := none, pend := none, queue := [], started := 0
    turn := 0, frames := [], bits := [], refsY := [], sinceIdr := 0
    coding := none, latched := [], outq := [], outTile := 0, recs := [], outNo := 0, outPos := 0, tail := []
    cpbFull := 9 * (fld d 48 4) * (fld d 8 4), concealed := 0, emergency := 0, filler := 0, noIrap := 0, prev := none
    activeNo := 0, closing := none, ending := none, ended := none, advWait := [] }


/-- Whether the fields of a session lie in their ranges (Tables 13-1 and 13-2), and for an encode session with rate
control the buffer condition of R453. -/
def Quay.inRange (q : Quay) (kind : Nat) : Bool :=
  kind < 2 && 1 ≤ q.profile && q.profile ≤ 2 && q.tier < 2 &&
  (match levelPs q.level with | some m => q.width * q.height ≤ m | none => false) &&
  [256, 512, 1024, 2048, 4096, 8192, 16384, 32768, 65536].contains q.records &&
  (if q.encode then
    q.level ≤ 153 && q.tier = 0 && 64 ≤ q.width && q.width ≤ 4096 && 64 ≤ q.height && q.height ≤ 2176 &&
    q.width % 8 = 0 && q.height % 8 = 0 && q.width * q.height ≤ 8912896 && q.fpsNum ≠ 0 && q.fpsDen ≠ 0 && q.rc < 3 &&
    (q.refs = 1 || q.refs = 2) && (q.ctb = 32 || q.ctb = 64) && q.qpInit ≤ 51 && q.qpMin ≤ q.qpMax && q.qpMax ≤ 51 &&
    (q.rc = 0 || (10000 ≤ q.bitrate && q.bitrate ≤ levelBr q.level && q.cpb ≤ levelCpb q.level &&
      q.bitrate * q.fpsDen ≤ q.cpb * q.fpsNum && (4096 + 48 * q.ctus) * q.fpsNum ≤ q.bitrate * q.fpsDen))
  else
    1 ≤ q.width && q.width ≤ 8192 && 1 ≤ q.height && q.height ≤ 8192 && q.outMode < 3 && q.matrix < 2 &&
    (q.outMode = 0 || [8, 14, 16, 32].contains q.patch))

/-- The checks of a decode session's input stream (R442). -/
def State.quaySource (s : State) (c : Cmd) (q : Quay) : Except Err Unit :=
  if q.encode then .ok () else do
    let i ← s.streamOf c q.inS
    need (q.inCons < i.nCons) stBadParam
    need (!thas i.consEnd q.inCons && q.inS ≠ q.outS) stStreamState

/-- The session's picture buffer: the caller's own range, or one that Iluvo allocates (R442). -/
def State.quayDpb (s : State) (c : Cmd) (q : Quay) (len : Nat) : Except Err (Nat × State) :=
  if q.dpb ≠ 0 then do
    let _ ← s.ownRange c q.dpb len [.hbm]
    .ok (q.dpb, s)
  else
    match s.allocate { owner := c.pad, tier := .hbm, near := false, die := 0, len := len, persist := false,
                       moored := false, sys := true } with
    | .ok r => .ok r
    | .error _ => fail stQuota

/-- QUAY_SESSION_OPEN of either level (R442, R443). -/
def State.quayOpen (s : State) (c : Cmd) : Except Err State := do
  let q := quayOf c c.p
  let k ← want (tget s.paddocks c.pad) stNotPermitted
  let most := if q.encode then 64 else 256
  need (s.quaysOf q.encode none < most && s.quaysOf q.encode (some c.pad) < quayLimit q.encode k.quayShare) stQuayLimit
  need (q.inRange (c.u8 0)) stBadParam
  let out ← s.streamOf c q.outS
  need (out.state = .opened && out.producer.isNone) stStreamState
  s.quaySource c q
  let loc ← s.resolve c q.recAddr.toNat (256 + 32 * q.records) true
  let host : Bool := match loc with | .host _ => true | .part _ _ => false
  let len := (levelDpb q.level (q.width * q.height) + 1) * planeBytes q.width q.height (if q.profile = 2 then 10 else 8)
  let (dpb, s2) ← s.quayDpb c q len
  let (h, s3) := s2.pick (fun x => thas s2.quays x) 1 (2 ^ 32 - 1)
  let hd := h.getD 1
  let s4 := s3.modStream q.outS fun st => { st with producer := some (.quay hd) }
  let s5 := if q.encode then s4 else s4.modStream q.inS fun st => { st with consEnd := tput st.consEnd q.inCons (.quay hd) }
  .ok ((({ s5 with quays := tput s5.quays hd { q with recHost := host, dpb := dpb, dpbOwn := q.dpb = 0 } } : State)).ok c hd)

/-- QUAY_SESSION_OPEN. -/
def quaySessionOpenBody (c : Cmd) (s : State) : Except Err State := s.quayOpen c

/-- QUAY_SESSION_OPEN, expert. -/
def quaySessionOpenExpertBody (c : Cmd) (s : State) : Except Err State := s.quayOpen c

/-- A session of the caller. -/
def State.ownQuay (s : State) (c : Cmd) (h : Nat) : Except Err Quay :=
  match tget s.quays h with
  | some q => if q.paddock = c.pad && !c.mgmt then .ok q else fail stBadHandle
  | none => fail stBadHandle

/-- QUAY_SESSION_CLOSE of either level (R443, Table 13-8). -/
def State.quayClose (s : State) (c : Cmd) (abort : Bool) : Except Err State := do
  let h := c.u32 0
  let q ← s.ownQuay c h
  need q.closing.isNone stQuayState
  if q.ended.isSome then .ok (({ s with quays := tdel s.quays h } : State).ok c q.outNo)
  else
    let s1 := s.modQuay h fun x => { x with closing := some c.w }
    if abort || !q.encode then
      let s2 := s1.completeAll ((q.pend.toList ++ q.queue).map (·.wid)) stCancelled
      let s3 := s2.modQuay h fun x => { x with
        pend := none, queue := [], coding := if abort then none else x.coding
        latched := if abort then [] else x.latched, outq := if abort then x.outq.take (if x.outTile = 0 then 0 else 1) else x.outq }
      .ok (if abort || q.coding.isNone then s3.endQuay h stOk else s3)
    else .ok (if q.coding.isNone && q.pend.isNone && q.queue.isEmpty then s1.endQuay h stOk else s1)

/-- QUAY_SESSION_CLOSE. -/
def quaySessionCloseBody (c : Cmd) (s : State) : Except Err State := s.quayClose c false

/-- QUAY_SESSION_CLOSE, expert: ABORT. -/
def quaySessionCloseExpertBody (c : Cmd) (s : State) : Except Err State := s.quayClose c (c.flag 4)

/-! ### Frame descriptors (R446, R451, R455) -/

/-- Whether a region entry is in range (Table 13-5). -/
def regionOk (r : List Byte) : Bool :=
  1 ≤ fld r 4 2 && 1 ≤ fld r 6 2 &&
  (match fld r 9 1 with
    | 0 => -26 ≤ signed8 (fld r 8 1) && signed8 (fld r 8 1) ≤ 25
    | 1 => fld r 8 1 ≤ 51
    | _ => false)

/-- QUAY_FRAME_COMMIT of either level: the descriptor goes into PENDING at the latch point (R455). The descriptor and its
region entries are read from separate memory, and the command's rules (R455, R459) name no status for a nonzero reserved
byte in them: that it is R10's ST_BAD_RESERVED is the model's choice (log entry 171). -/
def State.quayCommit (s : State) (c : Cmd) (notBefore : Nat) : Except Err State := do
  let h := c.u32 0
  let q ← s.ownQuay c h
  need (q.closing.isNone && q.ending.isNone && q.ended.isNone) stQuayState
  let (d, bad) ← s.readBuf c (c.u64 8) 64
  need (!bad) stDataPoisoned
  need (zeros (slice d 22 2) && zeros (slice d 41 23) && fld d 16 4 < 4) stBadReserved
  let n := fld d 21 1
  let crop := (fld d 32 2, fld d 34 2, fld d 36 2, fld d 38 2)
  let desc := fun (rs : List (List Byte)) =>
    { src := BitVec.ofNat 64 (fld d 0 8), pts := BitVec.ofNat 64 (fld d 8 8), forceIdr := bitAt (fld d 16 1) 0
      flush := bitAt (fld d 16 1) 1, qpOffset := signed8 (fld d 20 1), regions := rs, crop := crop
      down := fld d 40 1 : FrameDesc }
  if q.encode then
    need (n ≤ 16 && -12 ≤ signed8 (fld d 20 1) && signed8 (fld d 20 1) ≤ 12) stBadParam
    let (rb, rbad) ← (if n = 0 then .ok ([], false) else s.readBuf c (fld d 24 8) (16 * n))
    need (!rbad) stDataPoisoned
    let rs := (List.range n).map fun i => slice rb (16 * i) 16
    need (rs.all fun r => zeros (slice r 10 6)) stBadReserved
    need (rs.all regionOk) stBadParam
    let _ ← s.resolve c (fld d 0 8) (planeBytes q.width q.height (if q.profile = 2 then 10 else 8)) false
    let k : Commit := { wid := c.w, desc := desc rs, notBefore := notBefore }
    .ok (s.modQuay h fun x => if x.pend.isNone then { x with pend := some k } else { x with queue := x.queue ++ [k] })
  else
    let (x0, y0, w, hh) := crop
    let down := fld d 40 1
    need (fld d 0 8 = 0 && [1, 2, 4].contains down && x0 % 2 = 0 && y0 % 2 = 0 && w % 2 = 0 && hh % 2 = 0 &&
      (crop = (0, 0, 0, 0) || (1 ≤ w && 1 ≤ hh && x0 + w ≤ q.width && y0 + hh ≤ q.height))) stBadParam
    let (pw, ph) := if crop = (0, 0, 0, 0) then (q.width, q.height) else (w, hh)
    need (q.outMode = 0 || (pw % down = 0 && ph % down = 0 && pw / down % q.patch = 0 && ph / down % q.patch = 0)) stBadParam
    let s1 := match q.pend with | some k => s.complete k.wid stDescReplaced | none => s
    .ok (s1.modQuay h fun x => { x with pend := some { wid := c.w, desc := desc [], notBefore := notBefore } })

/-- QUAY_FRAME_COMMIT. -/
def quayFrameCommitBody (c : Cmd) (s : State) : Except Err State := s.quayCommit c 0

/-- QUAY_FRAME_COMMIT, expert: NOT_BEFORE. -/
def quayFrameCommitExpertBody (c : Cmd) (s : State) : Except Err State := s.quayCommit c (c.u64 16)

/-- QUAY_RING_ADVANCE of either level (R276, R456). -/
def State.quayAdvance (s : State) (c : Cmd) (goal : Nat) : Except Err State := do
  let h := c.u32 0
  let q ← s.ownQuay c h
  need (q.closing.isNone && q.ending.isNone && q.ended.isNone) stQuayState
  let r := c.u64 4
  need (q.read ≤ r && r ≤ q.write) stBadParam
  let s1 := (s.quayStore q 8 (leBytes 8 r)).modQuay h fun x => { x with read := r }
  if goal ≤ q.write then .ok (s1.ok c) else .ok (s1.modQuay h fun x => { x with advWait := x.advWait ++ [(c.w, goal)] })

/-- QUAY_RING_ADVANCE. -/
def quayRingAdvanceBody (c : Cmd) (s : State) : Except Err State := s.quayAdvance c 0

/-- QUAY_RING_ADVANCE, expert: WAIT_FOR. -/
def quayRingAdvanceExpertBody (c : Cmd) (s : State) : Except Err State := s.quayAdvance c (c.u64 12)

/-- The 128-byte record of a session. -/
def Quay.encodeRec (q : Quay) (h : Nat) : List Byte :=
  let none8 := 2 ^ 64 - 1
  leBytes 4 h ++ [if q.encode then 1#8 else 0#8,
    if q.ended.isSome then 2#8 else if q.closing.isSome || q.ending.isSome then 1#8 else 0#8] ++
  leBytes 2 (q.ended.getD 0#16).toNat ++ leBytes 8 q.started ++ leBytes 8 q.outNo ++ leBytes 4 q.concealed ++
  leBytes 4 q.emergency ++ leBytes 4 q.filler ++ leBytes 4 0 ++
  leBytes 8 (q.cpbFull / (10 * max 1 q.fpsNum)).toNat ++ leBytes 8 (if q.active.isSome then q.activeNo else none8) ++
  leBytes 8 (match q.pend with | some k => max q.started k.notBefore | none => none8) ++ leBytes 8 q.write ++
  leBytes 8 q.read ++ List.replicate 48 0#8

/-- QUAY_QUERY. -/
def quayQueryBody (c : Cmd) (s : State) : Except Err State := do
  let q ← s.ownQuay c (c.u32 0)
  let s ← s.writeBuf c (c.u64 4) (q.encodeRec (c.u32 0))
  .ok (s.ok c)

/-- QUAY_QUERY, expert: one record per session of the paddock. -/
def quayQueryExpertBody (c : Cmd) (s : State) : Except Err State := do
  let qs := (s.quays.filter fun e => e.2.paddock = c.pad && !c.mgmt).take (c.u32 8)
  let s ← s.writeBuf c (c.u64 0) (qs.flatMap fun e => e.2.encodeRec e.1)
  .ok (s.ok c qs.length)

/-! ### Pictures (R441, R444, R453, R455, R457) -/

/-- The descriptor of a decode session to which none has been committed: the whole picture. -/
def wholePicture : FrameDesc :=
  { src := 0#64, pts := 0#64, forceIdr := false, flush := false, qpOffset := 0, regions := [], crop := (0, 0, 0, 0), down := 1 }

/-- Whether a session's picture may take a pipe now: a pipe is free, OUT has credit, its ring has room for the record and
for the terminal one, and an encode session has a descriptor (R441, R443, R455, R456). -/
def State.quayReady (s : State) (q : Quay) : Bool :=
  let busy := (s.quays.filter fun e => e.2.encode = q.encode && e.2.coding.isSome).length
  let unwritten := q.latched.length + q.outq.length + q.recs.length
  let due : Bool := match q.pend with | some k => k.notBefore ≤ q.started | none => false
  q.coding.isNone && q.ending.isNone && q.ended.isNone && (q.closing.isNone || q.encode) && !s.part.mastersStopped &&
  busy < (if q.encode then 2 else 4) && q.write + unwritten + 2 ≤ q.read + q.records && (!q.encode || due) &&
  (match tget s.streams q.outS with | some st => st.credit st.committed | none => false)

/-- Pipe time of a kind that a paddock has taken (R441). -/
def Paddock.pass (k : Paddock) (encode : Bool) : Nat := if encode then k.encodePass else k.decodePass

/-- Sets it. -/
def Paddock.setPass (k : Paddock) (encode : Bool) (n : Nat) : Paddock :=
  if encode then { k with encodePass := n } else { k with decodePass := n }

/-- Whether it is a session's turn among those ready for a pipe of its kind: its paddock has taken the least pipe time
for its share, and the session is the one of its paddock that has waited longest (R441, log entry 170). -/
def State.quayTurn (s : State) (q : Quay) : Bool :=
  let taken := fun (p : Nat) => ((tget s.paddocks p).map fun k => k.pass q.encode).getD 0
  s.quays.all fun e => !(e.2.encode = q.encode && s.quayReady e.2) ||
    (if e.2.paddock = q.paddock then q.turn ≤ e.2.turn else taken q.paddock ≤ taken e.2.paddock)

/-- Gives a paddock's session a pipe: the picture's samples count against its share, and a paddock with no picture
waiting keeps no claim on the time it leaves idle (R441, log entry 170). -/
def State.takePipe (s : State) (h : Nat) (q : Quay) : State :=
  let now := ((tget s.paddocks q.paddock).map fun k => k.pass q.encode).getD 0
  let waits := fun (p : Nat) => s.quays.any fun e => e.2.paddock = p && e.2.encode = q.encode && s.quayReady e.2
  let turn := 1 + s.quays.foldl (fun a e => max a e.2.turn) 0
  ({ s with paddocks := s.paddocks.map fun e =>
      (e.1, if e.1 = q.paddock then e.2.setPass q.encode (now + q.width * q.height * 100 / max 1 e.2.quayShare)
        else if waits e.1 then e.2 else e.2.setPass q.encode (max now (e.2.pass q.encode))) } : State).modQuay h fun x =>
    { x with turn := turn }

/-- FRAME_START (R455): PENDING becomes ACTIVE at the start of CTU row 0, and its commit completes with the picture's
number; for an encode session the next waiting commit takes its place. -/
def execFrameStart (session : Nat) (s : State) : Host.Outcome State Fault Refusal :=
  event (match tget s.quays session with
    | none => s
    | some q =>
      if !s.quayReady q || !s.quayTurn q then s
      else
        let s := s.takePipe session q
        let n := q.started
        let take : Option Commit := q.pend.bind fun k => if k.notBefore ≤ n then some k else none
        let desc := match take with | some k => k.desc | none => q.active.getD wholePicture
        let s := match take with | some k => s.complete k.wid stOk (BitVec.ofNat 64 n) | none => s
        s.modQuay session fun x => { x with
          started := n + 1, coding := some (n, desc), active := if take.isSome then some desc else x.active
          activeNo := if take.isSome then n else x.activeNo
          pend := if take.isSome then x.queue[0]? else x.pend, queue := if take.isSome then x.queue.drop 1 else x.queue })

/-- Reads `n` tiles of a session's input: whether any was poisoned; none while they are not all there. -/
def State.quayRead (s : State) (q : Quay) : Nat → Option (State × Bool)
  | 0 => some (s, false)
  | n + 1 =>
    match State.quayRead s q n with
    | none => none
    | some (s, bad) =>
      match s.deliver q.inS q.inCons 1 with
      | (_, none) => none
      | (s', some r) => if r.1 = 0 then none else some (s', bad || r.2.2.2.2)

/-- A decode pipe has ended (R444, R448): the picture joins the decoded pictures, and those that leave them go out in
output order. -/
def State.decoded (s0 : State) (h : Nat) (q : Quay) (r : Coded) : State :=
  match s0.quayRead q r.tiles with
  | none => s0
  | some (s, bad) =>
    let skips := if r.pic.isSome then 0 else q.noIrap + r.skipped
    let s := s.modQuay h fun x => { x with noIrap := skips }
    if 16 ≤ skips then s.endQuay h stQuayStream
    else
      match r.pic, q.coding with
      | some p, some (n, d) =>
        if q.width < p.width || q.height < p.height || q.profile < p.profile || p.profile = 0 || q.level < p.level then
          s.endQuay h stQuayStream
        else
          let pic := q.picture n d p r.kind bad
          let all := q.latched ++ [pic]
          let outs := r.outs.filterMap fun k => all.find? fun x => x.num = k
          let s := s.modQuay h fun x => { x with
            coding := none, latched := all.filter fun y => !r.outs.contains y.num, outq := x.outq ++ outs
            prev := match outs.getLast? with | some y => some y | none => x.prev
            concealed := x.concealed + (if pic.concealed then 1 else 0) }
          if q.closing.isSome then s.endQuay h stOk else s
      | _, _ => s

/-- A filler data NAL unit of at least 7 bytes (R453, H.265 type 38). -/
def fillerNal (n : Nat) : List Byte :=
  [0#8, 0#8, 0#8, 1#8, 0x4C#8, 0x01#8] ++ List.replicate (max 7 n - 7) 0xFF#8 ++ [0x80#8]

/-- The bytes of an encode session's input picture and whether any line of them is poisoned: read where the descriptor's
address lies, as each read finds them (R454, R455). -/
def State.quaySourceBytes (s : State) (q : Quay) (d : FrameDesc) (r : Coded) : List Byte × Bool :=
  let n := planeBytes q.width q.height (if q.profile = 2 then 10 else 8)
  match s.allocAt d.src.toNat with
  | some _ => (s.bytes d.src.toNat n, s.poisoned d.src.toNat n)
  | none => (r.src.take n ++ List.replicate (n - r.src.length) 0#8, r.srcBad)

/-- An encode pipe has ended (R449, R453, R454): the picture is coded, its access unit goes into OUT, with filler data
where the CPB would exceed its size, and its record waits for its tiles. -/
def State.encoded (s : State) (h : Nat) (q : Quay) (r : Coded) : State :=
  match q.coding with
  | none => s
  | some (n, d) =>
    let src := s.quaySourceBytes q d r
    let u := q.codePicture n d src.1 src.2
    let unit : Int := 10 * q.fpsNum
    let after : Int := q.cpbFull - 8 * u.au.length * unit + 10 * q.bitrate * q.fpsDen
    let size : Int := q.cpb * unit
    let excess : Int := after - size
    let fill := if q.rc = 2 && 0 < excess then fillerNal ((excess + 8 * unit - 1) / (8 * unit)).toNat else []
    let full := if q.rc = 0 then q.cpbFull else if q.rc = 1 then min after size else after - 8 * fill.length * unit
    let au := u.au ++ fill
    let flags := (if src.2 then 2 else 0) + (if u.emergency then 4 else 0) + (if fill.isEmpty then 0 else 8)
    let bytes := q.tail ++ au
    let pad := if d.flush then roundUp bytes.length tileBytes - bytes.length else 0
    let s := s.modQuay h fun x => { x with
      coding := none, outPos := x.outPos + au.length + pad, tail := bytes ++ List.replicate pad 0#8
      recs := x.recs ++ [(x.outPos + au.length,
        frameRecord n d.pts.toNat x.outPos au.length u.kind u.qp.toNat flags)]
      frames := x.frames ++ [d], bits := x.bits ++ [8 * au.length], refsY := (u.recon :: x.refsY).take x.refs
      sinceIdr := if u.kind = 0 then 1 else x.sinceIdr + 1
      outNo := x.outNo + 1, cpbFull := full, emergency := x.emergency + (if u.emergency then 1 else 0)
      filler := x.filler + (if fill.isEmpty then 0 else 1) }
    if q.closing.isSome && q.pend.isNone && q.queue.isEmpty then s.endQuay h stOk else s

/-- PICTURE_CODED (R457). -/
def execPictureCoded (session : Nat) (r : Coded) (s : State) : Host.Outcome State Fault Refusal :=
  event (match tget s.quays session with
    | none => s
    | some q =>
      if q.ended.isSome || q.ending.isSome then s
      else if q.encode then s.encoded session q r else s.decoded session q r)

end Sys2Proof.Machine
end

