-- ==== Sys2Proof/Machine/Rein.lean ====
section
/-! DEFINITION. The rein-change commands and events (R334 to R367). -/

namespace Sys2Proof.Machine

open Sys2Proof

/-! ### Layouts (R336 to R339, R367) -/

/-- A slot region: an HBM4 allocation of the caller's paddock; slot 1 alone may be none, for an address of 0 (R338). -/
def State.slotRegion (s : State) (c : Cmd) (a : Nat) (optional : Bool) : Except Err Unit :=
  if optional && a = 0 then .ok () else do
    let _ ← s.ownRange c a 1 [.hbm]
    .ok ()

/-- Whether the pieces of this part end within a slot region. -/
def State.regionHolds (s : State) (pad a : Nat) (l : Layout) : Bool :=
  a = 0 || s.padRange pad a (l.extent s.part.partId) .hbm

/-- The slot table of a layout with a bound model: the caller's, or one that Iluvo allocates (R339, R367). -/
def State.slotTable (s : State) (c : Cmd) (bound : Bool) (a : Nat) : Except Err (Nat × Bool × State) :=
  if !bound then .ok (0, false, s)
  else if a != 0 then do
    let _ ← s.ownRange c a 32 [.basin]
    .ok (a, false, s)
  else do
    let r ← s.allocate { owner := c.pad, tier := .basin, near := false, die := 0, len := 32, persist := true,
                         moored := false, sys := false }
    .ok (r.1, true, r.2)

/-- REIN_LAYOUT_REGISTER of either level (R336). -/
def State.layoutRegister (s : State) (c : Cmd) (table : Nat) : Except Err State := do
  need (!c.mgmt) stNotPermitted
  s.slotRegion c (c.u64 8) false
  s.slotRegion c (c.u64 16) true
  let (hd, _) ← s.readBuf c (c.u64 0) 256
  let (d, _) ← s.readBuf c (c.u64 0) (max 256 (fld hd 24 8))
  let l := layoutDesc d c.pad
  need (layoutRanges d l) stBadLayout
  need (l.digest = sha384 (d.drop 256)) stImageDigest
  need (l.parts.contains s.part.partId && l.pieces.all l.inside && l.disjoint && s.regionHolds c.pad (c.u64 8) l &&
    s.regionHolds c.pad (c.u64 16) l && l.covers) stBadLayout
  need ((s.rein.layouts.filter fun e => e.2.paddock = c.pad).length < 64 && s.rein.layouts.length < 256) stLayoutLimit
  let m := c.u32 24
  let bound := m != 0xFFFFFFFF
  let ver ← (if bound then do
      let md ← s.ownModel c m
      need (l.kind = 0 && (s.layoutOf m).isNone) stBadParam
      need (md.weights.toNat = c.u64 8) stBadLayout
      .ok md.version
    else .ok 0#32)
  let (tab, own, s1) ← s.slotTable c bound table
  let (h, s2) := s1.pick (fun k => thas s1.rein.layouts k) 1 (2 ^ 32 - 1)
  let hd := h.getD 1
  let a : Slot := { region := BitVec.ofNat 64 (c.u64 8), state := if bound then .active else .empty, version := ver }
  let b : Slot := { region := BitVec.ofNat 64 (c.u64 16), state := .empty, version := 0#32 }
  let l := { l with slot0 := a, slot1 := b, model := if bound then some m else none, table := tab, tableOwn := own }
  let s3 : State := { s2 with rein := { s2.rein with layouts := tput s2.rein.layouts hd l } }
  .ok (((s3.writeSlot hd 0).writeSlot hd 1).ok c hd tab)

/-- REIN_LAYOUT_REGISTER. -/
def reinLayoutRegisterBody (c : Cmd) (s : State) : Except Err State := s.layoutRegister c 0

/-- REIN_LAYOUT_REGISTER, expert: a slot table of the caller's. -/
def reinLayoutRegisterExpertBody (c : Cmd) (s : State) : Except Err State := s.layoutRegister c (c.u64 28)

/-- A layout of the caller's paddock (R367). -/
def State.ownLayout (s : State) (c : Cmd) (h : Nat) : Except Err Layout :=
  match tget s.rein.layouts h with
  | some l => if l.paddock = c.pad then .ok l else fail stBadHandle
  | none => fail stBadHandle

/-- REIN_LAYOUT_RELEASE (R366). -/
def reinLayoutReleaseBody (c : Cmd) (s : State) : Except Err State := do
  let l ← s.ownLayout c (c.u32 0)
  need (l.active.isNone && !s.layoutNamed (c.u32 0)) stReinState
  .ok ((s.dropLayout (c.u32 0) l).ok c)

/-- REIN_LAYOUT_RELEASE, expert: with WAIT it completes after the last permute that names it and the model's loop. -/
def reinLayoutReleaseExpertBody (c : Cmd) (s : State) : Except Err State := do
  let l ← s.ownLayout c (c.u32 0)
  if c.flag 4 then .ok (s.wait c.w (.layoutFree (c.u32 0)))
  else do
    need (l.active.isNone && !s.layoutNamed (c.u32 0)) stReinState
    .ok ((s.dropLayout (c.u32 0) l).ok c)

/-! ### The drain (R344 to R346) -/

/-- REIN_DRAIN of either level: recorded now, applied at the next step boundary of the leader's loop. -/
def State.reinDrain (s : State) (c : Cmd) (keep : Bool) : Except Err State := do
  let m := c.u32 0
  let md ← s.ownModel c m
  let l ← want (tget s.gen.loops m) stReinState
  need (md.turn = some .generating && l.leader) stReinState
  let s := s.modModel m fun x => { x with turn := some .draining, drainBy := some (c.w, keep), drainFrom := s.t }
  .ok (s.queueCmd { wid := c.w, kind := 5, model := m, entry := 0, serial := 0#64, arg := 0#64, flag := keep, atNs := s.t,
                    tokens := [] })

/-- REIN_DRAIN, with RELEASE. -/
def reinDrainBody (c : Cmd) (s : State) : Except Err State := s.reinDrain c false

/-- REIN_DRAIN, expert: with KEEP berths and slots stay. -/
def reinDrainExpertBody (c : Cmd) (s : State) : Except Err State := s.reinDrain c (c.flag 4)

/-! ### The permute (R349 to R357) -/

/-- What REIN_PERMUTE's expert form adds. -/
structure PermReq where
  /-- FIRST_LAYER -/
  first : Nat
  /-- LAST_LAYER -/
  last : Nat
  /-- timeout, ms -/
  timeout : Nat
  /-- DEST_OVERRIDE -/
  destOver : Nat
  /-- staging address -/
  staging : Nat
deriving DecidableEq, Repr

/-- The digest by which members compare what they ask for (R349). -/
def permShape (ls ld : Layout) (p : PermInfo) : BitVec 64 :=
  chainDigest (wordsOfBytes ls.digest ++ wordsOfBytes ld.digest ++
    [BitVec.ofNat 32 p.srcSlot, BitVec.ofNat 32 p.dstSlot, p.version, BitVec.ofNat 32 p.first, BitVec.ofNat 32 p.last])

/-- The checks of the caller's staging and destination areas: DEST_OVERRIDE over every byte of the range (R353). -/
def State.permAreas (s : State) (c : Cmd) (q : PermReq) (ld : Layout) : Except Err Unit := do
  if q.staging != 0 then do
    let e ← s.ownRange c q.staging 0x1000000 [.basin]
    need (!e.2.near) stBadParam
  if q.destOver != 0 then do
    let _ ← s.ownRange c q.destOver (max 1 (ld.span s.part.partId q.first q.last)) [.hbm]

/-- REIN_PERMUTE of either level. `held` is what the other destination parts report: their slot is HELD with VERSION
(R350). -/
def State.reinPermute (s : State) (c : Cmd) (q : PermReq) (held : Bool) : Except Err State := do
  need (!c.mgmt) stNotPermitted
  let ls ← s.ownLayout c (c.u32 4)
  let ld ← s.ownLayout c (c.u32 12)
  need (c.u32 24 = 0 || (match tget s.learn.sets (c.u32 24) with | some l => l.paddock = c.pad | none => false)) stBadHandle
  let g ← s.groupOf c.pad (c.u32 0)
  need (c.u32 8 ≤ 1 && c.u32 16 ≤ 1 && q.first ≤ q.last) stBadParam
  s.permAreas c q ld
  let p : PermInfo :=
    { src := c.u32 4, srcSlot := c.u32 8, dst := c.u32 12, dstSlot := c.u32 16, version := BitVec.ofNat 32 (c.u32 20),
      set := c.u32 24, first := q.first, last := q.last, destOver := q.destOver, staging := q.staging,
      waiting := true, poison := 0 }
  let b := ld.slot p.dstSlot
  if q.destOver = 0 && held && b.state = .held && b.version = p.version then .ok (s.ok c)
  else do
    let op := { newColl c.w c.pad (BitVec.ofNat 32 (c.u32 0)) 8 s.t g.rank with shape := permShape ls ld p, perm := some p }
    let s1 ← s.startColl op g none q.timeout
    match s1.collOf c.w with
    | none => .ok s1
    | some x =>
      match s.permFault g ls ld p with
      | some st => .ok (s1.abortColl { x with perm := none } st)
      | none => .ok (s1.greet c.w)

/-- REIN_PERMUTE. -/
def execReinPermute (w : BitVec 64) (held : Bool) (s : State) : Host.Outcome State Fault Refusal :=
  run 0x0504 w [] s fun c s => s.reinPermute c { first := 0, last := 0xFFFF, timeout := 0, destOver := 0, staging := 0 } held

/-- REIN_PERMUTE, expert: a layer range, a timeout, DEST_OVERRIDE and a staging allocation. -/
def execReinPermuteExpert (w : BitVec 64) (held : Bool) (s : State) : Host.Outcome State Fault Refusal :=
  run 0x0584 w [] s fun c s => s.reinPermute c
    { first := c.u16 32, last := c.u16 34, timeout := c.u32 36, destOver := c.u64 40, staging := c.u64 48 } held

/-- PERMUTE_COMPLETE (R354, R355): every byte received is in HBM4, every chunk sent is acknowledged; the destination
slot is HELD with VERSION, or POISONED. -/
def execPermuteComplete (w : BitVec 64) (s : State) : Host.Outcome State Fault Refusal :=
  event (match s.collOf w with
    | none => s
    | some c =>
      match c.perm, tget s.trace.groups c.group.toNat with
      | some p, some g =>
        if p.waiting || !s.collMoved c g then s
        else
          let bad := p.poison
          let sent := sumNat ((ranksAfter g.members.length g.rank).flatMap fun d => (s.outX c g d).map fun x => x.n)
          let s := if p.destOver != 0 then s else
              (s.modSlot p.dst p.dstSlot fun x => { x with state := if bad = 0 then .held else .poisoned }).writeSlot p.dst p.dstSlot
          let note := fun (l : Layout) => { l with sent := sent, recvd := c.bytesIn, durNs := s.t - c.started }
          let s : State := { s with rein := { s.rein with layouts := tmod (tmod s.rein.layouts p.dst note) p.src note } }
          s.endColl w (if bad = 0 then stOk else stDataPoisoned) c.bytesIn bad
      | _, _ => s)

/-! ### Resume and remount (R360 to R363) -/

/-- The slot of a model's layout that holds a version as HELD or ACTIVE. -/
def State.slotWith (s : State) (m : Nat) (v : BitVec 32) : Option (Nat × Nat) :=
  match s.layoutOf m with
  | none => none
  | some (h, l) =>
    ([0, 1].find? fun k => (l.slot k).version = v && ((l.slot k).state = .held || (l.slot k).state = .active)).map fun k => (h, k)

/-- REIN_RESUME of either level (R360). `ready` is what the other parts of the loop report of their slots. -/
def State.reinResume (s : State) (c : Cmd) (mask : List Nat) (ready : Bool) : Except Err State := do
  let m := c.u32 0
  let v := BitVec.ofNat 32 (c.u32 4)
  let md ← s.ownModel c m
  need (md.turn = some .drained) stReinState
  let l ← want (tget s.gen.loops m) stReinState
  need (!s.standby m v true) stDataPoisoned
  let (h, k) ← want (s.slotWith m v) stReinState
  need ready stReinState
  let allot := s.allotment c.pad
  need (mask.all fun t => allot.contains t) stNotPermitted
  let s1 := (s.modSlot h (1 - k) Slot.idle).writeSlot h (1 - k)
  let s2 := s1.activate m h k
  let back := md.drain.filter fun i => match tget s2.gen.manifest i with | some e => e.state = .held | none => false
  let s3 := back.foldl (fun s i => match tget s.gen.manifest i with | some e => s.setSeq i e.byCounts | none => s) s2
  let s4 := s3.modModel m fun x => { x with turn := some .generating, drain := [] }
  let s5 := (s4.freeLoopTask l.wid mask).tellMembers m l (.resume mask)
  let s6 := (s5.build m (l.step + 1)).ok c back.length
  .ok (s6.modModel m fun x => { x with resumeNs := s6.t - s.t })

/-- REIN_RESUME. -/
def execReinResume (w : BitVec 64) (ready : Bool) (s : State) : Host.Outcome State Fault Refusal :=
  run 0x0506 w [] s fun c s => s.reinResume c [] ready

/-- REIN_RESUME, expert: the loop task is placed on the teams of a mask. -/
def execReinResumeExpert (w : BitVec 64) (ready : Bool) (s : State) : Host.Outcome State Fault Refusal :=
  run 0x0586 w [] s fun c s => s.reinResume c (maskBits (slice c.p 8 40)) ready

/-- REIN_REMOUNT of either level (R362). `ready` is what the other parts of the loop report of their slots. -/
def State.reinRemount (s : State) (c : Cmd) (wait : Bool) (timeout : Nat) (ready : Bool) : Except Err State := do
  let m := c.u32 0
  let v := BitVec.ofNat 32 (c.u32 4)
  let md ← s.ownModel c m
  need (md.turn = some .generating) stReinState
  need md.remount.isNone stRemountBusy
  need (match s.layoutOf m with
    | some (_, l) => (match l.active with | some k => (l.slot k).version != v | none => true)
    | none => true) stBadVersion
  need (!s.standby m v true) stDataPoisoned
  let s1 := s.modModel m fun x => { x with remount := some (c.w, v, false) }
  if s.standby m v false && ready then
    .ok (s1.queueCmd { wid := c.w, kind := 6, model := m, entry := 0, serial := 0#64, arg := v.zeroExtend 64, flag := false,
                       atNs := s.t, tokens := [] })
  else if wait then .ok (s1.wait c.w (.remountSlot m v (s.t + timeout * msNs)))
  else fail stReinState

/-- REIN_REMOUNT. -/
def execReinRemount (w : BitVec 64) (ready : Bool) (s : State) : Host.Outcome State Fault Refusal :=
  run 0x0505 w [] s fun c s => s.reinRemount c false 0 ready

/-- REIN_REMOUNT, expert: with WAIT the command waits for the slot. -/
def execReinRemountExpert (w : BitVec 64) (ready : Bool) (s : State) : Host.Outcome State Fault Refusal :=
  run 0x0585 w [] s fun c s => s.reinRemount c (c.flag 8) (c.u32 12) ready

/-- REMOUNT_OLD_SLOT_RELEASE (R363): every part has reported the end of the step that ran at the commit. -/
def execRemountOldSlotRelease (model : Nat) (s : State) : Host.Outcome State Fault Refusal := event (s.endRemount model)

/-- REMOUNT_WAIT_TIMEOUT (R362): the timeout of a waiting remount passes. -/
def execRemountWaitTimeout (w : BitVec 64) (s : State) : Host.Outcome State Fault Refusal :=
  event (match s.waits.find? fun x => x.wid = w with
    | some x =>
      match x.kind with
      | .remountSlot _ _ due => s.reach due
      | _ => s
    | none => s)

/-! ### Queries (R367, log entry 11) -/

/-- REIN_QUERY: KIND, PARTS, REPLICAS, the slots, and the last permute. -/
def reinQueryBody (c : Cmd) (s : State) : Except Err State := do
  let l ← s.ownLayout c (c.u32 0)
  let s1 ← s.writeBuf c (c.u64 4) (leBytes 4 l.kind ++ leBytes 4 l.parts.length ++ leBytes 4 l.replicas ++
    leBytes 4 l.slot0.version.toNat ++ leBytes 4 l.slot0.state.code ++ leBytes 4 l.slot1.version.toNat ++
    leBytes 4 l.slot1.state.code ++ leBytes 4 0 ++ leBytes 8 l.sent ++ leBytes 8 l.recvd ++ leBytes 8 l.durNs ++ leBytes 8 0)
  .ok (s1.ok c)

/-- The code of a turn state; 3 for no loop. -/
def turnCode : Option TurnState → Nat
  | some .generating => 0
  | some .draining => 1
  | some .drained => 2
  | none => 3

/-- REIN_QUERY, expert: the turn state, the slots, the drain list, and the remounts of a model. -/
def reinQueryExpertBody (c : Cmd) (s : State) : Except Err State := do
  let md ← s.ownModel c (c.u32 0)
  let l := (s.layoutOf (c.u32 0)).map (·.2)
  let act := ((l.bind (·.active)).getD 0)
  let sl := fun (k : Nat) => ((l.map fun l => l.slot k).getD Slot.reset)
  let s1 ← s.writeBuf c (c.u64 4) (leBytes 4 (turnCode md.turn) ++ leBytes 4 act ++ leBytes 4 (sl act).version.toNat ++
    leBytes 4 (sl (1 - act)).state.code ++ leBytes 4 (sl (1 - act)).version.toNat ++ leBytes 4 md.drain.length ++
    leBytes 8 md.remounts ++ leBytes 8 md.drainNs ++ leBytes 8 md.resumeNs ++ leBytes 16 0)
  .ok (s1.ok c)

end Sys2Proof.Machine
end

