-- ==== Sys2Proof/Machine/SelfTest.lean ====
section
/-! DEFINITION. Self-test, margining and channel restore (R488 to R505). -/

namespace Sys2Proof.Machine

open Sys2Proof

/-! ### Test runs (R488 to R494, R505) -/

/-- DETAIL of ST_NOT_READY: the estimate of the milliseconds until READY (R74). -/
def State.notReady {α : Type} (s : State) : Except Err α := fail stNotReady s.retryMs

/-- A run of a command or a field test. -/
def newRun (w : BitVec 64) (d first : Nat) (is : List Nat) (repair : Bool) (seed buf : BitVec 64) (basic : Bool) : TestRun :=
  { wid := w, domain := d, first := first, left := is, done := [], repair := repair, seed := seed, buf := buf, basic := basic,
    restore := none, soft := false, failed := 0 }

/-- SELF_TEST_RUN of either level. -/
def State.testRun (s : State) (c : Cmd) (d first count : Nat) (repair : Bool) (seed buf : Nat) (basic : Bool) :
    Except Err State := do
  need c.mgmt stNotPermitted
  need (d < 6 && 1 ≤ count && first + count ≤ domainSize d) stBadParam
  if d = 2 && !s.part.pstate.full then s.notReady
  else
    let is := (List.range count).map fun i => first + i
    need (is.all fun i => s.testable d i) stInService
    let _ ← s.resolve c buf (32 * count) true
    .ok { s with farrier := { s.farrier with
      runs := s.farrier.runs ++ [newRun c.w d first is repair (BitVec.ofNat 64 seed) (BitVec.ofNat 64 buf) basic] } }

/-- SELF_TEST_RUN: one index, with REPAIR, SEED 0. -/
def selfTestRunBody (c : Cmd) (s : State) : Except Err State := s.testRun c (c.u32 0) (c.u32 4) 1 true 0 (c.u64 8) true

/-- SELF_TEST_RUN, expert. -/
def selfTestRunExpertBody (c : Cmd) (s : State) : Except Err State :=
  s.testRun c (c.u32 0) (c.u32 4) (c.u32 8) (c.flag 12) (c.u64 16) (c.u64 24) false

/-- SELF_TEST_STOP of either level. -/
def State.testStop (s : State) (c : Cmd) : Except Err State := do
  need c.mgmt stNotPermitted
  let w : BitVec 64 := BitVec.ofNat 64 (c.u64 0)
  match s.farrier.runs.find? fun (r : TestRun) => r.wid = w && r.restore.isNone && w != 0#64 with
  | some r => .ok ((s.stopRun r stCancelled).ok c)
  | none =>
    let mine := match (s.fn c.fn).session with
      | some x => x.took.any fun e => e.1 = w && (e.2.1 = 0x0A01#16 || e.2.1 = 0x0A81#16)
      | none => false
    fail (if mine then stCancelLate else stUnknownWork)

/-- SELF_TEST_STOP. -/
def selfTestStopBody (c : Cmd) (s : State) : Except Err State := s.testStop c

/-- SELF_TEST_STOP, expert: the reason is logged. -/
def selfTestStopExpertBody (c : Cmd) (s : State) : Except Err State := (s.reason c (c.u32 8)).testStop c

/-- SELF_TEST_QUERY: the last record of every index. -/
def selfTestQueryBody (c : Cmd) (s : State) : Except Err State := do
  need c.mgmt stNotPermitted
  let s1 ← s.writeBuf c (c.u64 0) (allIndices.flatMap fun e => s.testBytes e.1 e.2)
  .ok (s1.ok c)

/-- SELF_TEST_QUERY, expert: one domain's records, then its repairs, index and rows (log entry 11). -/
def selfTestQueryExpertBody (c : Cmd) (s : State) : Except Err State := do
  need c.mgmt stNotPermitted
  let d := c.u32 8
  need (d < 6) stBadParam
  let reps := s.kryto.repairs.filter fun (e : Nat × Nat × Nat) => e.1 = d
  let s1 ← s.writeBuf c (c.u64 0) ((List.range (domainSize d)).flatMap (fun i => s.testBytes d i) ++
    reps.flatMap fun e => leBytes 4 e.2.1 ++ leBytes 4 e.2.2)
  .ok (s1.ok c)

/-- The TEAM indices under test: sixteen at once, the rest queue in increasing physical number (R494). -/
def State.teamsTested (s : State) : List Nat :=
  (sortOn id ((s.farrier.runs.filter fun (r : TestRun) => r.domain = 0).flatMap fun r => r.left)).take 16

/-- A returned team goes to the spares, and to a logical team that is out of service if there is one (R416, R495). -/
def State.returnTeam (s : State) (p : Nat) : State :=
  let s := s.modPhys p fun x => { x with state := some .spare, fieldDue := none, bringFor := none, returned := true }
  match (List.range 320).find? fun l => !(s.team l).inService && !(s.team l).replacing with
  | none => s
  | some l => s.modTeam l fun t => { t with replacing := true }

/-- What a TEAM test decides (R412, R495): a field test returns a failed team as a spare, or retires it; a team that
fails a commanded test fails. -/
def State.teamFate (s : State) (p : Nat) (field pass : Bool) : State :=
  if pass then (if field && s.physState p = .failed then s.returnTeam p else s)
  else if field then s.retirePhys p
  else
    match s.physState p with
    | .mapped => match s.logicalOf p with | some l => s.failTeam l [] | none => s
    | .spare => s.modPhys p fun x => { x with state := some .failed, fieldDue := some s.t }
    | _ => s

/-- A channel that has passed returns to service (R500): its substitute frames go back, those that are not the map-out
reserve's to the free frames of their stacks, and Kryto's record is cleared. -/
def State.restoreChannel (s : State) (ch : Nat) : State :=
  let h := s.hbm
  let back := h.subst.filter fun (e : Nat × Nat) => e.1 / 1024 = ch
  let subst := h.subst.filter fun (e : Nat × Nat) => e.1 / 1024 != ch
  let free := back.map fun e => e.2 % 1024
  let use := free.foldl (fun t f =>
    if 43 ≤ f && !(subst.any fun (e : Nat × Nat) => e.2 % 1024 = f) then tput t f 3 else t) h.bandUse
  let s : State := { s with
    hbm := { h with subst := subst, bandUse := use }
    kryto := { s.kryto with mappedOut := s.kryto.mappedOut.filter fun x => x != ch } }
  (s.modChan ch fun x => { x with mapped := false, degraded := false, switched := 0, linesPoisoned := 0, calLast := s.t }).checkDegraded

/-- The result code of a test (R489, R491, R492): at a SEED other than 0 SIGNATURE_ONLY; else it passes with Kryto's
signature and no compare error left after repair. -/
def testResult (d : Nat) (seed sig : BitVec 64) (errors : Bool) (repairs : Nat) : Nat :=
  if seed != 0#64 then 4 else if sig != Config.signature d || errors then 1 else if repairs = 0 then 0 else 2

/-- A TEAM test leaves a physical team's scratchpads undefined and Iluvo zeroes them before reuse (R488, R19): nothing
reads the team in between, since it lies outside every allotment. -/
def State.wipeScratch (s : State) (p : Nat) : State :=
  { s with scratch := s.scratch.filter fun c => !(scratchKey p 0 0 ≤ c.1 && c.1 < scratchKey (p + 1) 0 0) }

/-- TEST_INDEX_COMPLETE (R489 to R495): an index under test is done: its signature, whether compare errors remain after
repair, the rows repaired, the ceiling that a TEAM test measured, and the duration in us. -/
def execTestIndexComplete (w : BitVec 64) (index : Nat) (sig : BitVec 64) (errors : Bool) (repairs ceiling dur : Nat)
    (s : State) : Host.Outcome State Fault Refusal :=
  event (match s.farrier.runs.find? fun (r : TestRun) => r.wid = w && r.left.contains index with
    | none => s
    | some r =>
      let d := r.domain
      if d = 0 && !s.teamsTested.contains index then s
      else
        let reps := if r.repair && d ≤ 2 then repairs else 0
        let res := testResult d r.seed sig errors reps
        let rec0 : TestRec :=
          { result := BitVec.ofNat 8 res, signature := sig, expected := if r.seed = 0#64 then Config.signature d else 0#64,
            repairs := BitVec.ofNat 16 reps, ceiling := if d = 0 then BitVec.ofNat 16 ceiling else 0#16,
            duration := BitVec.ofNat 32 dur }
        let r' := { r with left := r.left.filter fun x => x != index, done := r.done ++ [index]
                           failed := if res = 1 then r.failed + 1 else r.failed }
        let s := if d = 0 then s.wipeScratch index else s
        let s := (s.putRec d index rec0).modRun w index fun _ => r'
        let s := if reps = 0 || r.soft then s else { s with kryto := { s.kryto with repairs := s.kryto.repairs ++ [(d, index, reps)] } }
        let s := if res = 1 then s.logEv evSelftestFail 0xFF#8 stSelftestFail (testKey d index) w (leBytes 4 repairs) else s
        let old := colAt (s.ceilRec index).ceil70 3
        let slow := (old - ceiling) * 10000 / max 1 old
        let s := if d = 0 && ceiling != 0 && 50 < slow then s.lowerCeil index slow (s.ceilRec index) else s
        let s := if d = 0 && res != 4 then s.teamFate index (w = 0#64) (res != 1) else s
        if !r'.left.isEmpty then s
        else
          match r.restore with
          | none => s.endRun r' (if r'.failed = 0 || r.basic then stOk else stSelftestFail)
          | some ch => if res = 1 then s.endRun r' stSelftestFail else (s.restoreChannel ch).endRun r' stOk)

/-- Begins the field test of a physical team (R413). -/
def State.beginField (s : State) (phys : Nat) : State :=
  let s := s.modPhys phys fun y => { y with lastTest := s.t }
  { s with farrier := { s.farrier with runs := s.farrier.runs ++ [newRun 0#64 0 phys [phys] true 0#64 0#64 true] } }

/-- FIELD_TEST_START (R495): of a failed team after its read-out, or of a spare each 24 hours of powered time. -/
def execFieldTestStart (phys : Nat) (s : State) : Host.Outcome State Fault Refusal :=
  event (if 336 ≤ phys || !s.part.pstate.running || s.underTest 0 phys then s
    else
      let x := s.physTeam phys
      match s.physState phys with
      | .failed => if x.fieldDue.isSome then s.beginField phys else s
      | .spare => (s.reach (x.lastTest + 86400 * secNs)).beginField phys
      | _ => s)

/-- SELF_CHANNEL_RESTORE of either level: the test that comes first (R500). -/
def State.channelRestore (s : State) (c : Cmd) (soft : Bool) : Except Err State := do
  need c.mgmt stNotPermitted
  let ch := c.u32 0
  need (ch < 384) stBadParam
  if !s.part.pstate.full then s.notReady
  else do
    need ((s.hbm.chan ch).mapped && s.testable 2 ch) stInService
    .ok { s with farrier := { s.farrier with
      runs := s.farrier.runs ++ [{ newRun c.w 2 ch [ch] true 0#64 0#64 true with restore := some ch, soft := soft }] } }

/-- SELF_CHANNEL_RESTORE. -/
def selfChannelRestoreBody (c : Cmd) (s : State) : Except Err State := s.channelRestore c false

/-- SELF_CHANNEL_RESTORE, expert: NO_PPR allows only soft repair, which nothing records. -/
def selfChannelRestoreExpertBody (c : Cmd) (s : State) : Except Err State := s.channelRestore c (c.flag 4)

/-! ### Margining (R497 to R499, R504, R505) -/

/-- Begins a margining sweep. -/
def State.startMargin (s : State) (c : Cmd) (kind index : Nat) (buf lanes volt n : Nat) : Except Err State := do
  let _ ← s.resolve c buf n true
  .ok { s with farrier := { s.farrier with margins := s.farrier.margins ++
    [{ wid := c.w, kind := kind, index := index, buf := BitVec.ofNat 64 buf, lanes := BitVec.ofNat 16 lanes, volt := volt }] } }

/-- SELF_MARGIN_HBM of either level; `dirs` has READ and WRITE. -/
def State.marginHbm (s : State) (c : Cmd) (dirs : Nat) : Except Err State := do
  need c.mgmt stNotPermitted
  need (c.u32 0 < 384 && dirs != 0) stBadParam
  if !s.part.pstate.full then s.notReady
  else do
    need (s.testable 2 (c.u32 0)) stInService
    s.startMargin c 0 (c.u32 0) (c.u64 4) dirs 0 64

/-- SELF_MARGIN_HBM. -/
def selfMarginHbmBody (c : Cmd) (s : State) : Except Err State := s.marginHbm c 3

/-- SELF_MARGIN_HBM, expert: the directions selected. -/
def selfMarginHbmExpertBody (c : Cmd) (s : State) : Except Err State := s.marginHbm c (c.u32 12 % 4)

/-- The lanes of a port of an interface: 0 Trace, 1 PCIe, 2 CXL; 0 where there is no such port (R239, R371). -/
def State.lanesOf (s : State) (iface port : Nat) : Nat :=
  if iface = 0 then (if port < 16 then 4 else 0)
  else if iface = 1 then (if port = 0 then 16 else 0)
  else if iface = 2 then (if port < 2 ^ s.cxl.bifur then 16 / 2 ^ s.cxl.bifur else 0)
  else 0

/-- The lanes that a mask names. -/
def maskLanes (m : Nat) : List Nat := (List.range 16).filter fun i => (BitVec.ofNat 16 m).getLsbD i

/-- SELF_MARGIN_LANE of either level; `mask` none names every lane. -/
def State.marginLane (s : State) (c : Cmd) (mask : Option Nat) (ratio : Nat) : Except Err State := do
  need c.mgmt stNotPermitted
  let (iface, port) := (c.u32 0 / 256, c.u32 0 % 256)
  let n := s.lanesOf iface port
  let m := mask.getD (2 ^ n - 1)
  need (n != 0 && m != 0 && m < 2 ^ n && 4 ≤ ratio && ratio ≤ 12) stBadParam
  need (iface != 1 || !(s.farrier.hostMargin.any fun (e : Nat × Nat) => (maskLanes m).contains e.2)) stInService
  s.startMargin c 1 (c.u32 0) (c.u64 4) m 0 (16 * (maskLanes m).length)

/-- SELF_MARGIN_LANE: every lane, at 10^-6. -/
def selfMarginLaneBody (c : Cmd) (s : State) : Except Err State := s.marginLane c none 6

/-- SELF_MARGIN_LANE, expert: a lane mask and the exponent of the error ratio. -/
def selfMarginLaneExpertBody (c : Cmd) (s : State) : Except Err State := s.marginLane c (some (c.u16 12)) (c.u16 14)

/-- SELF_MARGIN_TEAM of either level; voltage 0 is the team's own. -/
def State.marginTeam (s : State) (c : Cmd) (volt : Nat) : Except Err State := do
  need c.mgmt stNotPermitted
  need (c.u32 0 < 336 && (volt = 0 || (600 ≤ volt && volt ≤ 850 && volt % 5 = 0))) stBadParam
  need (s.testable 0 (c.u32 0)) stInService
  s.startMargin c 2 (c.u32 0) (c.u64 4) 0 volt 16

/-- SELF_MARGIN_TEAM. -/
def selfMarginTeamBody (c : Cmd) (s : State) : Except Err State := s.marginTeam c 0

/-- SELF_MARGIN_TEAM, expert: at a given voltage. -/
def selfMarginTeamExpertBody (c : Cmd) (s : State) : Except Err State := do
  need (c.u32 12 != 0) stBadParam
  s.marginTeam c (c.u32 12)

/-- A team whose guard falls below 3 % has its ceiling lowered until the guard is 3 % (R499): every entry by the ratio of
the new ceiling to the old, rounded down. -/
def State.guardCeil (s : State) (p old new : Nat) : State :=
  let c := s.ceilRec p
  let cut := fun (x : BitVec 16) => BitVec.ofNat 16 (x.toNat * new / max 1 old)
  s.storeCeil p { c with aged := true, ceil70 := c.ceil70.map cut, ceil100 := c.ceil100.map cut }

/-- The bytes of a margining record from the values that the sweep found (R505, log entry 11). -/
def State.marginBytes (s : State) (m : Margin) (vals : List Nat) : List Byte :=
  let v := fun i => (vals[i]?).getD 0
  if m.kind = 0 then (List.range 8).flatMap (fun i => leBytes 2 (v i)) ++ List.replicate 48 0#8
  else if m.kind = 1 then (List.range (maskLanes m.lanes.toNat).length).flatMap fun k =>
    (List.range 4).flatMap (fun i => leBytes 2 (v (5 * k + i))) ++ leBytes 4 (v (5 * k + 4)) ++ leBytes 4 0
  else
    let mv := if m.volt = 0 then (s.teamReg m.index).at_ s.t / 1000 else m.volt
    let c := (s.ceilRec m.index).ceiling mv (s.teamPwr m.index).temp
    leBytes 4 c ++ leBytes 4 (v 0) ++ leBytes 4 ((v 0 - c) * 1000 / max 1 c) ++ leBytes 4 0

/-- MARGINING_COMPLETE (R497 to R499): a sweep ends with the values that it found: eight of an HBM4 channel, five a
lane, the first failing rate of a team. -/
def execMarginingComplete (w : BitVec 64) (vals : List Nat) (s : State) : Host.Outcome State Fault Refusal :=
  event (match s.farrier.margins.find? fun (m : Margin) => m.wid = w with
    | none => s
    | some m =>
      let s := s.lateWrite (s.fnOf w) m.buf.toNat (s.marginBytes m vals)
      let s : State := { s with farrier := { s.farrier with margins := s.farrier.margins.filter fun (x : Margin) => x.wid != w } }
      let s := if m.kind = 0 then s.modChan m.index fun x => { x with calLast := s.t } else s
      let s := if m.kind = 2 then
          let mv := if m.volt = 0 then (s.teamReg m.index).at_ s.t / 1000 else m.volt
          let c := (s.ceilRec m.index).ceiling mv (s.teamPwr m.index).temp
          let f := (vals[0]?).getD 0
          if (f - c) * 100 < 3 * c then s.guardCeil m.index c (f * 100 / 103) else s
        else s
      s.complete w stOk)

/-- LANE_MARGINING_AT_RECEIVER (R498, R504): the host begins or ends the margining of a PCIe lane; a margin of the part's
own on that lane stops with ST_IN_SERVICE. -/
def execLaneMarginingAtReceiver (lane : Nat) (on : Bool) (s : State) : Host.Outcome State Fault Refusal :=
  event (if 16 ≤ lane then s
    else
      let rest := s.farrier.hostMargin.filter fun (e : Nat × Nat) => e.2 != lane
      let s : State := { s with farrier := { s.farrier with hostMargin := if on then rest ++ [(0, lane)] else rest } }
      if !on then s
      else
        let hit := (s.farrier.margins.filter fun (m : Margin) => m.kind = 1 && m.index / 256 = 1 && m.lanes.getLsbD lane).map (·.wid)
        ({ s with farrier := { s.farrier with
            margins := s.farrier.margins.filter fun (m : Margin) => !hit.contains m.wid } } : State).completeAll hit stInService)

/-! ### The part identifier (R505) -/

/-- SELF_PART_ID_SET of either level: it takes effect at the next cold reset. -/
def State.partIdSet (s : State) (c : Cmd) (change : Bool) : Except Err State := do
  need c.mgmt stNotPermitted
  let v := c.u16 0
  need (v != 0xFFFF && (change || s.kryto.partIdNv.isNone)) stBadParam
  .ok (({ s with kryto := { s.kryto with partIdNv := some (BitVec.ofNat 16 v) } } : State).ok c)

/-- SELF_PART_ID_SET. -/
def selfPartIdSetBody (c : Cmd) (s : State) : Except Err State := s.partIdSet c false

/-- SELF_PART_ID_SET, expert: with CHANGE it replaces an installed identifier. -/
def selfPartIdSetExpertBody (c : Cmd) (s : State) : Except Err State := s.partIdSet c (c.flag 4)

end Sys2Proof.Machine
end

