-- ==== Sys2Proof/Machine/Session.lean ====
section
/-! DEFINITION. Sessions, cancellation, outcomes and paddock parameters: the bodies of the session and management
commands (R60 to R68, R75, R77 to R79). -/

namespace Sys2Proof.Machine

open Sys2Proof

/-! ### Identification (R77) -/

/-- RESULT of PART_IDENTIFY. -/
def State.identity (s : State) : Nat :=
  s.part.partId.toNat + s.part.pstate.code * 2 ^ 16 + s.teamsInService % 512 * 2 ^ 20

/-- The 256-byte record of the expert PART_IDENTIFY: revision, spare teams per die, NVW spare blocks per stack,
spare HBM4 reserves, and the bitmap of mapped-out channels (log entry 11). -/
def State.identityRecord (s : State) : List Byte × State :=
  let (rev, s') := s.draw
  let spareOn := fun (d : Nat) => (s.spares.filter fun p => p / 84 = d).length
  let chan := fun (i : Nat) => (List.range 8).foldl (fun a b =>
    if (tgetD Chan.reset s.hbm.chans (8 * i + b)).mapped then a + 2 ^ b else a) 0
  (slice (leBytes 8 rev.toNat ++ (List.range 4).flatMap (fun d => leBytes 2 (spareOn d)) ++
    (List.range 4).flatMap (fun k => leBytes 2 (s.nvwStack k).spare) ++
    leBytes 8 (12 - s.hbm.reserveUsed.length) ++ (List.range 48).map (fun i => BitVec.ofNat 8 (chan i))) 0 256, s')

/-- PART_IDENTIFY. -/
def partIdentifyBody (c : Cmd) (s : State) : Except Err State := .ok (s.ok c s.identity)

/-- PART_IDENTIFY, expert. -/
def partIdentifyExpertBody (c : Cmd) (s : State) : Except Err State := do
  let (rec, s1) := s.identityRecord
  let s2 ← s1.writeBuf c (c.u64 0) rec
  .ok (s2.ok c s.identity)

/-! ### Sessions (R60 to R65, R78) -/

/-- The failed SESSION_OPENs of the last 60 s (R62). -/
def State.recentFailures (s : State) (f : Nat) : List Nat :=
  (s.fn f).failures.filter fun u => s.t < u + 60 * secNs

/-- The failed SESSION_OPENs that a function may still make before a lockout (R62). -/
def State.lockoutBudget (s : State) (f : Nat) : Nat := 5 - (s.recentFailures f).length

/-- Issues a nonce: 32 bytes of Kryto's entropy under a fresh handle (R61, R128). -/
def State.challenge (s : State) (c : Cmd) (expert : Bool) : Except Err State := do
  need ((s.fn c.fn).lockedUntil.isNone) stAuthLocked
  let live := (s.fn c.fn).nonces.filter fun n => s.t ≤ n.issued + 10 * secNs
  let (h, s1) := s.pick (fun k => (List.range 9).any fun f => (s.fn f).nonces.any fun n => n.handle.toNat = k) 1 (2 ^ 32 - 1)
  let (val, s2) := s1.drawBytes 32
  let hd := h.getD 1
  let s3 ← s2.writeBuf c (c.u64 0) val
  let s4 := s3.modFn c.fn fun x =>
    { x with nonces := live ++ [{ handle := BitVec.ofNat 32 hd, value := val, issued := s.t }] }
  .ok (s4.ok c hd (if expert then s.lockoutBudget c.fn else 0))

/-- SESSION_CHALLENGE. -/
def sessionChallengeBody (c : Cmd) (s : State) : Except Err State := s.challenge c false

/-- SESSION_CHALLENGE, expert: DETAIL is the remaining lockout budget. -/
def sessionChallengeExpertBody (c : Cmd) (s : State) : Except Err State := s.challenge c true

/-- The key of a function's sessions, while its paddock exists (R60, R61). -/
def State.sessionKey (s : State) (f : Nat) : Option (List Byte) :=
  if f = 0 then s.kryto.ownerKey
  else if thas s.paddocks (f - 1) then tget s.kryto.tenantKeys (f - 1) else none

/-- Counts a failed SESSION_OPEN; the fifth within 60 s locks the function (R62). -/
def State.authFailed (s : State) (f : Nat) : State :=
  let recent := s.t :: s.recentFailures f
  let s := s.modFn f fun x => { x with failures := recent }
  let s := s.logEv evAuthFailure (padByte f) stAuthFailed (f * 256)
  if 5 ≤ recent.length then
    (s.modFn f fun x => { x with lockedUntil := some (s.t + 60 * secNs) }).logEv evAuthLockout (padByte f)
      stAuthLocked (f * 256)
  else s

/-- The commands of a function that were accepted before its last function-level reset and still run (R61, R71). -/
def State.stillRunning (s : State) (f : Nat) : Nat :=
  (s.journal.filter fun j => ringFn j.ring = f && j.state != .done && j.ser < (s.fn f).resetSer).length

/-- A detached region returns to the state it was detached in (R230, R237). -/
def Alloc.attach (a : Alloc) : Alloc :=
  { a with nvw := if !a.digest.isEmpty then .sealed else if a.programmed = 0 then .erased else .programming }

/-- Re-attaches a paddock's private regions written under its tenant key (R237). -/
def State.attachRegions (s : State) (p : Nat) : State :=
  match tget s.paddocks p with
  | none => s
  | some k =>
    if k.attached then s
    else
      let key := (tget s.kryto.tenantKeys p).getD []
      { (s.modPaddock p fun x => { x with attached := true }) with
        allocs := s.allocs.map fun e =>
          if e.2.owner = p && e.2.tier = .nvw && e.2.nvw = .detached && e.2.keyTag = key then (e.1, e.2.attach) else e }

/-- Counts a SESSION_OPEN that completes (R542). -/
def State.countOpen (s : State) (f : Nat) : State :=
  s.modFn f fun x => { x with openSec := s.t / secNs, openCnt := s.opensNow f + 1 }

/-- Opens the session on the rings of a mask (R61, R63). -/
def State.openSession (s : State) (c : Cmd) (n : Nonce) (initSeq mask : BitVec 32) : State :=
  let f := c.fn
  let id : BitVec 32 := BitVec.ofNat 32 (f * 2 ^ 28 + (s.fn f).openings.toNat + 1)
  let stored := (s.fn f).outcomes.length
  let busy := s.stillRunning f
  let s := s.modFn f fun x =>
    { x with openings := x.openings + 1#28, session := some { id := id, mask := mask, nonce := n.value, took := [] } }
  let s := (List.range 32).foldl (fun s k => s.modRing (ringOf f k) fun g => { g with expectSeq := initSeq }) s
  let s := if f = 0 then s else (s.attachRegions (f - 1)).modPaddock (f - 1) fun k => { k with lpLogged := 0 }
  s.ok c (id.toNat + stored % 2 ^ 16 * 2 ^ 32 + busy % 2 ^ 16 * 2 ^ 48)

/-- SESSION_OPEN of either level (R61 to R64, R542). The order of its checks is the model's choice, and so is that an
opening which fails before its nonce is looked up leaves the nonce valid (log entry 33). -/
def State.sessionOpen (s0 : State) (c : Cmd) (mask : BitVec 32) : State :=
  let f := c.fn
  let s := s0.countOpen f
  if !mask.getLsbD 0 then s.complete c.w stBadParam
  else if (s.fn f).lockedUntil.isSome then s.complete c.w stAuthLocked
  else if (s.fn f).session.isSome then s.complete c.w stSessionExists
  else if (s.fn f).openings = 0xFFFFFFF#28 then s.complete c.w stQuota
  else
    let handle := BitVec.ofNat 32 (c.u32 0)
    match (s.fn f).nonces.find? fun n => n.handle = handle && s.t ≤ n.issued + 10 * secNs with
    | none => (s.authFailed f).complete c.w stNonceExpired
    | some n =>
      let s := s.modFn f fun x => { x with nonces := x.nonces.filter fun q => q.handle != handle }
      match s.sessionKey f with
      | none => (s.authFailed f).complete c.w stAuthFailed
      | some key =>
        if hmac384 key (n.value ++ [BitVec.ofNat 8 f] ++ slice c.p 4 4) = slice c.p 8 48 then
          s.openSession c n (BitVec.ofNat 32 (c.u32 4)) mask
        else (s.authFailed f).complete c.w stAuthFailed

/-- SESSION_OPEN: all 32 rings. -/
def sessionOpenBody (c : Cmd) (s : State) : Except Err State := .ok (s.sessionOpen c 0xFFFFFFFF#32)

/-- SESSION_OPEN, expert: the rings of the mask, which includes ring 0. -/
def sessionOpenExpertBody (c : Cmd) (s : State) : Except Err State :=
  .ok (s.sessionOpen c (BitVec.ofNat 32 (c.u32 56)))

/-- The wait of a SESSION_CLOSE, which names the session that it closes (R64, R65). -/
def State.awaitClose (s : State) (c : Cmd) : State :=
  s.wait c.w (.close c.fn (((s.fn c.fn).session.map (·.id)).getD 0#32))

/-- SESSION_CLOSE: waits for every command accepted earlier (R65). -/
def sessionCloseBody (c : Cmd) (s : State) : Except Err State := .ok (s.awaitClose c)

/-- The accepted commands of a function that have not been dispatched, other than one. -/
def State.withdrawable (s : State) (f : Nat) (w : BitVec 64) : List JRec :=
  s.undispatched fun j => ringFn j.ring = f && j.wid != w

/-- SESSION_CLOSE, expert: ABORT first cancels what has not been dispatched; RESULT counts what was withdrawn
(R65). -/
def sessionCloseExpertBody (c : Cmd) (s : State) : Except Err State :=
  let gone := if c.flag 0 then s.withdrawable c.fn c.w else []
  let s1 := s.completeAll (gone.map (·.wid)) stSessionClosed
  .ok ((s1.progress c.w (BitVec.ofNat 64 gone.length)).awaitClose c)

/-! ### Cancellation and outcomes (R69, R75) -/

/-- CMD_CANCEL of either level (Table 2-9). -/
def State.cmdCancel (s : State) (c : Cmd) (expert : Bool) : Except Err State :=
  let target := BitVec.ofNat 64 (c.u64 0)
  match ((s.fn c.fn).session.bind fun q => q.took.find? fun e => e.1 = target) with
  | none => fail stUnknownWork
  | some e =>
    let res := if expert then e.2.2.toNat + target.toNat / 2 ^ 55 * 2 ^ 32 else 0
    if e.2.1 = 0x0005#16 || e.2.1 = 0x0085#16 then fail stBadTarget 0 res
    else if s.journal.any fun j => j.wid = target && j.state = .accepted then
      .ok ((s.complete target stCancelled).ok c res)
    else fail stCancelLate 0 res

/-- CMD_CANCEL. -/
def cmdCancelBody (c : Cmd) (s : State) : Except Err State := s.cmdCancel c false

/-- CMD_CANCEL, expert: RESULT names the target's SEQ and ring. -/
def cmdCancelExpertBody (c : Cmd) (s : State) : Except Err State := s.cmdCancel c true

/-- The 32 bytes of an outcome in the layout of Table 2-5 (R69). -/
def Outcome.encode (o : Outcome) : List Byte :=
  completionBytes o.wid o.seq o.status o.opcode o.result o.detail 0#8 false o.replayed false

/-- Takes outcomes out of the store: their journal records and fetch credits are freed (R52, R69, R418). -/
def State.takeOutcomes (s : State) (f : Nat) (os : List Outcome) : State :=
  let gone := fun (r n : Nat) => os.any fun o => o.ring = r && o.ser = n
  let s := s.modFn f fun x => { x with outcomes := x.outcomes.filter fun o => !gone o.ring o.ser }
  let s : State := { s with journal := s.journal.filter fun j => !gone j.ring j.ser }
  os.foldl (fun s o => s.modRing o.ring fun g => { g with credits := g.credits - 1 }) s

/-- Writes pending outcomes to a buffer and removes them from the store (R69). -/
def State.workQuery (s : State) (c : Cmd) (os : List Outcome) (det : Nat) : Except Err State := do
  let s1 ← s.writeBuf c (c.u64 0) (os.flatMap Outcome.encode)
  .ok ((s1.takeOutcomes c.fn os).ok c os.length det)

/-- The pending outcomes of a function that WORK_QUERY may return: none past a command of its ring that still runs
(R424). -/
def State.readyOutcomes (s : State) (f : Nat) : List Outcome :=
  (s.fn f).outcomes.filter fun o => !(s.ring o.ring).fifo.any fun i => i.settledOut && !i.fin && i.ser < o.ser

/-- WORK_QUERY: up to 1,024 outcomes of the function. -/
def workQueryBody (c : Cmd) (s : State) : Except Err State := s.workQuery c ((s.readyOutcomes c.fn).take 1024) 0

/-- WORK_QUERY, expert: the outcomes of one ring, and its last accepted work identifier. -/
def workQueryExpertBody (c : Cmd) (s : State) : Except Err State := do
  let r := c.u16 8
  need (r < 288 && ringFn r = c.fn) stBadParam
  s.workQuery c (((s.readyOutcomes c.fn).filter fun o => o.ring = r).take (min (c.u16 10) 1024))
    ((s.ring r).lastWid.toNat % 2 ^ 32)

/-- NOP: RESULT is LENGTH. -/
def nopBody (c : Cmd) (s : State) : Except Err State := .ok (s.ok c c.len)

/-- NOP, expert: completes no earlier than a delay of at most 1,000,000 us. -/
def nopExpertBody (c : Cmd) (s : State) : Except Err State := do
  need (c.u64 0 ≤ 1000000) stBadParam
  .ok (s.wait c.w (.nop (s.t + c.u64 0 * 1000)))

/-! ### Paddock parameters (R66 to R68, R79) -/

/-- The parameters of a create or modify, none where a field has no value of its own: the all-ones value, or a field
that the basic form does not carry (Table 2-13). -/
structure PadReq where
  /-- PADDOCK -/
  pad : Nat
  /-- TEAMS -/
  teams : Option Nat
  /-- HBM_QUOTA, GiB -/
  hbm : Option Nat
  /-- TEAMS_PER_DIE -/
  perDie : Option (List Nat)
  /-- BASIN_QUOTA, MiB -/
  basin : Option Nat
  /-- NVW_QUOTA, blocks -/
  nvw : Option Nat
  /-- PARK_QUOTA, GiB -/
  park : Option Nat
  /-- MANIFEST_QUOTA -/
  manifest : Option Nat
  /-- TRACE_SHARE -/
  trace : Option Nat
  /-- QUAY_SHARE -/
  quay : Option Nat
  /-- MODELS -/
  models : Option Nat
  /-- ADAPTERS -/
  adapters : Option Nat
  /-- ERROR_BUDGET -/
  budget : Option Nat
deriving DecidableEq, Repr

/-- A field whose all-ones value means none. -/
def optField (p : List Byte) (o n : Nat) : Option Nat := if fld p o n = 2 ^ (8 * n) - 1 then none else some (fld p o n)

/-- Reads the record of Table 2-13. -/
def padRecord (c : Cmd) : PadReq :=
  { pad := c.u32 0, teams := optField c.p 4 4, hbm := optField c.p 8 4,
    perDie := (optField c.p 12 4).map fun _ => (List.range 4).map fun d => c.u8 (12 + d),
    basin := optField c.p 16 4, nvw := optField c.p 20 4, park := optField c.p 24 4, manifest := optField c.p 28 4,
    trace := optField c.p 32 1, quay := optField c.p 33 1, models := optField c.p 34 2,
    adapters := optField c.p 36 2, budget := optField c.p 38 2 }

/-- Reads the basic payload: PADDOCK, TEAMS and HBM_QUOTA. -/
def padBasic (c : Cmd) : PadReq :=
  { pad := c.u32 0, teams := some (c.u32 4), hbm := some (c.u32 8), perDie := none, basin := none, nvw := none,
    park := none, manifest := none, trace := none, quay := none, models := none, adapters := none, budget := none }

/-- Whether a field, where it has a value, lies in a range. -/
def optIn (v : Option Nat) (ok : Nat → Bool) : Bool := match v with | some x => ok x | none => true

/-- The NVW blocks that lie outside every existing paddock's regions: shared and detached ones. -/
def State.nvwOther (s : State) : Nat :=
  sumNat ((s.allocs.filter fun e => e.2.tier = .nvw && (e.2.owner = 15 || e.2.nvw = .detached)).map (·.2.pages.length))

/-- The pool limits of Table 2-7 for the quotas. -/
structure Pools where
  /-- GiB -/
  hbm : Nat
  /-- MiB -/
  basin : Nat
  /-- blocks -/
  nvw : Nat
  /-- GiB -/
  park : Nat
deriving DecidableEq, Repr

/-- The pool limits now (R66, R175, R218). -/
def State.pools (s : State) : Pools :=
  { hbm := s.hbm.poolGiB, basin := 1792,
    nvw := sumNat ((List.range 4).map fun k => (s.nvwStack k).capacity) - s.nvwOther, park := s.cxl.presentGiB }

/-- The range and grain checks of Table 2-13. `teams` is the number of teams that TEAMS_PER_DIE sums to. -/
def State.padRanges (s : State) (q : PadReq) (teams : Nat) : Bool :=
  let l := s.pools
  q.pad < 8 && 1 ≤ teams && teams ≤ 320 && optIn q.hbm (fun x => x % 2 = 0) &&
  (match q.perDie with | some ds => ds.all (fun d => d ≤ 80) && sumNat ds = teams | none => true) &&
  optIn q.basin (fun x => x ≤ l.basin) && optIn q.nvw (fun x => x ≤ l.nvw) && optIn q.park (fun x => x ≤ l.park) &&
  optIn q.manifest (fun x => x % 128 = 0 && x ≤ 131072) && optIn q.trace (fun x => x ≤ 100) &&
  optIn q.quay (fun x => x ≤ 100) && optIn q.models (fun x => x ≤ 16) && optIn q.adapters (fun x => x ≤ 4096) &&
  optIn q.budget (fun x => 1 ≤ x && x ≤ 1024)

/-- The logical teams that no allotment holds, in service (Table 2-7); one under test counts as out of service (R504). A team that a shrink has released and that has
not left is still held. -/
def State.teamsOpen (s : State) : List Nat :=
  (List.range 320).filter fun l => (s.team l).inService && !s.railOut (s.physOf l) && !s.underTest 0 (s.physOf l) &&
    s.paddocks.all fun e => !e.2.teams.contains l && !e.2.leaving.contains l

/-- Basic placement: the die with the most free teams first, lowest number first (R67). -/
def placeTeams (die : Nat → Nat) (free : List Nat) (n : Nat) : Option (List Nat) :=
  let cnt := fun d => (free.filter fun l => die l = d).length
  let order := sortOn (fun d => 320 - cnt d) [0, 1, 2, 3]
  let all := order.flatMap fun d => free.filter fun l => die l = d
  if n ≤ all.length then some (sortOn id (all.take n)) else none

/-- Expert placement: a count on each die (R67). -/
def placePerDie (die : Nat → Nat) (free : List Nat) (ds : List Nat) : Option (List Nat) :=
  let pick := (ds.zip (List.range 4)).map fun e => (e.1, (free.filter fun l => die l = e.2).take e.1)
  if pick.all fun e => e.1 ≤ e.2.length then some (pick.flatMap (·.2)) else none

/-- The Manifest entries of a paddock in use. -/
def State.padEntries (s : State) (p : Nat) : Nat := (s.gen.manifest.filter fun e => e.2.paddock = p).length

/-- The total of a parameter over all paddocks but one. -/
def State.padSum (s : State) (p : Nat) (f : Paddock → Nat) : Nat :=
  sumNat ((s.paddocks.filter fun e => e.1 != p).map fun e => f e.2)

/-- Whether a paddock's parameters keep every pool within its limit (R66). -/
def State.poolsOk (s : State) (p : Nat) (k : Paddock) : Bool :=
  let l := s.pools
  s.padSum p (·.hbmQuota) + k.hbmQuota ≤ l.hbm && s.padSum p (·.basinQuota) + k.basinQuota ≤ l.basin &&
  s.padSum p (·.nvwQuota) + k.nvwQuota ≤ l.nvw && s.padSum p (·.parkQuota) + k.parkQuota ≤ l.park &&
  s.padSum p (·.manifestQuota) + k.manifestQuota ≤ 131072 && s.padSum p (·.traceShare) + k.traceShare ≤ 100 &&
  s.padSum p (·.quayShare) + k.quayShare ≤ 100 && s.padSum p (·.models) + k.models ≤ 16 &&
  s.padSum p (·.adapters) + k.adapters ≤ 4096

/-- Creates a paddock (R66, R67, R79). -/
def State.paddockCreate (s : State) (c : Cmd) (q : PadReq) : Except Err State := do
  let n ← want q.teams stBadParam
  let hbm ← want q.hbm stBadParam
  need (s.padRanges q n) stBadParam
  need (!thas s.paddocks q.pad) stPaddockExists
  let free := s.teamsOpen
  let teams ← want (match q.perDie with | some ds => placePerDie s.dieOf free ds | none => placeTeams s.dieOf free n) stQuota
  let frac := fun (pool grain : Nat) => n * pool / 320 / grain * grain
  let k : Paddock := { Paddock.reset with
    teams := teams, hbmQuota := hbm, basinQuota := q.basin.getD (frac 1792 1), nvwQuota := q.nvw.getD 0,
    parkQuota := q.park.getD (frac s.cxl.presentGiB 1), manifestQuota := q.manifest.getD (frac 131072 128),
    traceShare := q.trace.getD (frac 100 1), quayShare := q.quay.getD 0, models := q.models.getD 2,
    adapters := q.adapters.getD 256, errorBudget := q.budget.getD 64,
    xtsKey := (List.range 8).foldl (fun a i => (a <<< 64) ||| (Config.freeWord (s.free + i)).zeroExtend 512) 0#512 }
  need (s.poolsOk q.pad k) stQuota
  let s1 : State := { s with free := s.free + 8, paddocks := tput s.paddocks q.pad k }
  .ok (s1.ok c ((teams[0]?).getD 0) n)

/-- Whether a share of the Frame Quay holds a paddock's open sessions of both kinds (R68, R441). -/
def State.quayHolds (s : State) (p share : Nat) : Bool :=
  s.quaysOf false (some p) ≤ quayLimit false share && s.quaysOf true (some p) ≤ quayLimit true share

/-- Whether the other quotas hold a paddock's present use (R68). -/
def State.quotasHold (s : State) (p : Nat) (old k : Paddock) : Bool :=
  let use := fun (t : Tier) => s.useOf p t ≤ k.quota t
  (old.hbmQuota ≤ k.hbmQuota || use .hbm) && (old.basinQuota ≤ k.basinQuota || use .basin) &&
  (old.nvwQuota ≤ k.nvwQuota || use .nvw) && (old.parkQuota ≤ k.parkQuota || use .park) &&
  (old.manifestQuota ≤ k.manifestQuota || s.padEntries p ≤ k.manifestQuota) &&
  (old.quayShare ≤ k.quayShare || s.quayHolds p k.quayShare) &&
  (old.models ≤ k.models || (s.gen.models.filter fun e => e.2.paddock = p).length ≤ k.models) &&
  (old.adapters ≤ k.adapters || (s.gen.adapters.filter fun e => e.2.paddock = p).length ≤ k.adapters)

/-- The allotment after a modify and the teams it releases: growth by the rules of R67, a shrink releases the
highest-numbered teams (R68). -/
def newTeams (die : Nat → Nat) (free old : List Nat) (n : Nat) (perDie : Option (List Nat)) : Option (List Nat × List Nat) :=
  match perDie with
  | some ds =>
    let on := fun (l : List Nat) (d : Nat) => l.filter fun x => die x = d
    let keep := (ds.zip (List.range 4)).flatMap fun e => (on old e.2).take e.1
    let need := (ds.zip (List.range 4)).map fun e => e.1 - (on old e.2).length
    (placePerDie die free need).map fun more => (sortOn id (keep ++ more), old.filter fun l => !keep.contains l)
  | none =>
    if n ≤ old.length then some (old.take n, old.drop n)
    else (placeTeams die free (n - old.length)).map fun more => (sortOn id (old ++ more), [])

/-- Asks the task running on a released team to stop and be saved (R68, R163). -/
def State.clearTeam (s : State) (l : Nat) : State :=
  match s.running l with
  | none => s
  | some w => (s.requestPreempt w false true none).modTask w fun t => if t.held then t else { t with victim := true }

/-- Modifies a paddock (R68, R79). -/
def State.paddockModify (s : State) (c : Cmd) (q : PadReq) : Except Err State := do
  let old ← want (tget s.paddocks q.pad) stBadParam
  let n := q.teams.getD old.teams.length
  need (s.padRanges q n || (q.teams.isNone && q.perDie.isNone && s.padRanges { q with teams := none } 1)) stBadParam
  let k0 : Paddock := { old with
    hbmQuota := q.hbm.getD old.hbmQuota, basinQuota := q.basin.getD old.basinQuota,
    nvwQuota := q.nvw.getD old.nvwQuota, parkQuota := q.park.getD old.parkQuota,
    manifestQuota := q.manifest.getD old.manifestQuota, traceShare := q.trace.getD old.traceShare,
    quayShare := q.quay.getD old.quayShare, models := q.models.getD old.models,
    adapters := q.adapters.getD old.adapters, errorBudget := q.budget.getD old.errorBudget }
  need (s.quotasHold q.pad old k0 && s.poolsOk q.pad k0) stQuota
  let (teams, gone) ← want (newTeams s.dieOf s.teamsOpen old.teams n q.perDie) stQuota
  let k := { k0 with teams := teams, leaving := gone.foldl (fun a l => insNat l a) old.leaving }
  let s1 := gone.foldl (fun s l => s.clearTeam l) { s with paddocks := tput s.paddocks q.pad k }
  let tooWide := s1.tasks.filter fun e =>
    e.2.paddock = q.pad && teams.length < e.2.teamsN && (e.2.state = .suspResident || e.2.state = .suspSaved)
  let s2 := tooWide.foldl (fun s e => s.finishTask e.1 .failed stTeamsExceed 0#32) s1
  .ok (s2.wait c.w (.shrink q.pad))

/-- PADDOCK_CREATE. -/
def paddockCreateBody (c : Cmd) (s : State) : Except Err State := s.paddockCreate c (padBasic c)

/-- PADDOCK_CREATE, expert. -/
def paddockCreateExpertBody (c : Cmd) (s : State) : Except Err State := s.paddockCreate c (padRecord c)

/-- PADDOCK_MODIFY. -/
def paddockModifyBody (c : Cmd) (s : State) : Except Err State := s.paddockModify c (padBasic c)

/-- PADDOCK_MODIFY, expert: an all-ones field leaves its parameter unchanged. -/
def paddockModifyExpertBody (c : Cmd) (s : State) : Except Err State := s.paddockModify c (padRecord c)

/-- The 128-byte record of a paddock: Table 2-13, then its use of HBM4, Basin, NVW and parking tier in bytes, and its
entries, models, adapters and teams that have not left (log entry 11); zeros for a paddock that does not exist. -/
def State.paddockRecord (s : State) (p : Nat) : List Byte :=
  match tget s.paddocks p with
  | none => List.replicate 128 0#8
  | some k =>
    slice (leBytes 4 p ++ leBytes 4 k.teams.length ++ leBytes 4 k.hbmQuota ++
      (List.range 4).map (fun d => BitVec.ofNat 8 (k.teams.filter fun l => s.dieOf l = d).length) ++
      leBytes 4 k.basinQuota ++ leBytes 4 k.nvwQuota ++ leBytes 4 k.parkQuota ++ leBytes 4 k.manifestQuota ++
      leBytes 1 k.traceShare ++ leBytes 1 k.quayShare ++ leBytes 2 k.models ++ leBytes 2 k.adapters ++
      leBytes 2 k.errorBudget) 0 64 ++
    [s.useOf p .hbm, s.useOf p .basin, s.useOf p .nvw, s.useOf p .park, s.padEntries p,
      (s.gen.models.filter fun e => e.2.paddock = p).length, (s.gen.adapters.filter fun e => e.2.paddock = p).length,
      k.leaving.length].flatMap fun v => leBytes 8 v

/-- PADDOCK_QUERY: the caller's own record, or on the management session all eight. -/
def paddockQueryBody (c : Cmd) (s : State) : Except Err State := do
  let recs := if c.mgmt then (List.range 8).flatMap s.paddockRecord else s.paddockRecord c.pad
  let s1 ← s.writeBuf c (c.u64 0) recs
  .ok (s1.ok c)

/-- PADDOCK_QUERY, expert: one paddock's record, another's on the management session only. -/
def paddockQueryExpertBody (c : Cmd) (s : State) : Except Err State := do
  let p := c.u32 8
  need (c.mgmt || p = c.pad) stNotPermitted
  need (thas s.paddocks p) stBadParam
  let s1 ← s.writeBuf c (c.u64 0) (s.paddockRecord p)
  .ok (s1.ok c)

/-- The tenant key that a PADDOCK_KEY_SET carries (R78). -/
def State.unwrapKey (s : State) (c : Cmd) : Option (List Byte) :=
  match s.kryto.ownerKey, (s.fn 0).session with
  | some owner, some ses => keyUnwrap ((hmac384 owner (ascii "wrap" ++ ses.nonce)).take 32) (slice c.p 4 56)
  | _, _ => none

/-- PADDOCK_KEY_SET (R60, R68, R78). -/
def paddockKeySetBody (c : Cmd) (s : State) : Except Err State := do
  let p := c.u32 0
  need (thas s.paddocks p) stBadParam
  let key ← want (s.unwrapKey c) stAuthFailed
  let s1 : State := { s with kryto := { s.kryto with tenantKeys := tput s.kryto.tenantKeys p key } }
  .ok (s1.ok c)

/-- PADDOCK_KEY_SET, expert: the key-generation counter must exceed the stored one. -/
def paddockKeySetExpertBody (c : Cmd) (s : State) : Except Err State := do
  let p := c.u32 0
  let gen : BitVec 32 := BitVec.ofNat 32 (c.u32 60)
  need (thas s.paddocks p) stBadParam
  let key ← want (s.unwrapKey c) stAuthFailed
  need ((tgetD 0#32 s.kryto.keyGen p).toNat < gen.toNat) stSeqDuplicate
  let s1 : State := { s with kryto := { s.kryto with tenantKeys := tput s.kryto.tenantKeys p key
                                                     keyGen := tputD 0#32 s.kryto.keyGen p gen } }
  .ok (s1.ok c)

end Sys2Proof.Machine
end

