-- ==== Sys2Proof/Machine/TraceLink.lean ====
section
/-! DEFINITION. Trace ports: credits, acknowledgement and retry (R373, R374), states, admission and retraining (R375 to
R380), stewards (R381, R382), time (R383 to R385), routes (R386, R398), and the port and time commands (R410). -/

namespace Sys2Proof.Machine

open Sys2Proof

/-! ### Changes of state -/

/-- Ends the commands of a port that wait for a retrain or a swap that will not come. -/
def State.failPort (s : State) (p : Nat) : State :=
  let q := s.port p
  let s := s.completeAll q.retrainBy stPortState
  let s := match q.swapBy with
    | some w => s.complete w stPortState
    | none => s
  s.modPort p fun q => { q with retrainBy := [], swapBy := none }

/-- Puts a port into a state and logs it (R375). -/
def State.enterPort (s : State) (p : Nat) (st : PortState) : State :=
  (s.modPort p fun q => { q with state := st }).logPort p

/-- A port goes DOWN (Table 11-4). -/
def State.portDown (s : State) (p : Nat) : State :=
  ((s.failPort p).modPort p fun q => { q with downAt := s.t }).enterPort p .down

/-- The widest width that avoids every faulty lane (R379). -/
def goodWidth (bad : List Nat) : Nat :=
  if bad.isEmpty then 4
  else if !(bad.contains 0 || bad.contains 1) || !(bad.contains 2 || bad.contains 3) then 2
  else 1

/-- The steward begins a retrain at a width (R379). -/
def State.startRetrain (s : State) (p width : Nat) : State :=
  let s := s.modPort p fun q => { q with retrainTries := 0, retrainWidth := width, reducedAt := s.t }
  (s.enterPort p .retraining).ctl p (.retrain width)

/-- A retrain is asked for at this end: it joins one in progress, the steward begins one, the other end sends a request
(R379, R380). -/
def State.askRetrain (s : State) (p width : Nat) : State :=
  let q := s.port p
  if q.state != .admitted then s
  else if q.steward then s.startRetrain p width
  else s.ctl p .retrainRequest

/-! ### Time parents (R383, R385) -/

/-- Whether this part takes a part as its parent, and how it is reached: the port, and whether the link is direct. -/
def State.parentPort (s : State) (d : BitVec 16) : Option (Nat × Bool) :=
  match s.directPorts d, s.switchPorts with
  | p :: _, _ => some (p, true)
  | [], p :: _ => some (p, false)
  | [], [] => none

/-- The parts learned on ADMITTED direct links. -/
def State.neighbours (s : State) : List (BitVec 16) :=
  (List.range 16).filterMap fun p => if (s.port p).state = .admitted && !(s.port p).peerSwitch then (s.port p).peer else none

/-- The parent of R383: of a configured root and its backups the first that is reachable, else the lowest part of the
direct links; none for a part that is the root. -/
def State.timeChoice (s : State) : Option (BitVec 16 × Nat × Bool) :=
  let me := s.part.partId
  let cands := if s.trace.time.root != 0xFFFF#16 then (s.trace.time.root :: s.trace.time.backups).filter (· != 0xFFFF#16)
    else match s.neighbours with
      | [] => []
      | x :: xs => [(x :: xs).foldl (fun a b => if b.toNat < a.toNat then b else a) me]
  match cands.find? fun d => d = me || (s.parentPort d).isSome with
  | none => none
  | some d => if d = me then none else (s.parentPort d).map fun q => (d, q.1, q.2)

/-- Sends a swap request on a port (R381). `w` is the command, 0 for Iluvo's own. -/
def State.askSwap (s : State) (p : Nat) (w : BitVec 64) : State :=
  (s.modPort p fun q => { q with swapBy := some w }).ctl p .swapRequest

/-- Chooses the parent again: a change is logged; a parent on a direct link on which this part is steward is asked to
swap first (R381, R383). -/
def State.chooseParent (s : State) : State :=
  let old := s.trace.time.parent
  let set := fun (s : State) (v : Option (BitVec 16 × Nat)) =>
    if v = old then s
    else
      let hold := if v.isSome then none else if old.isSome then some s.t else s.trace.time.holdover
      let tm := { s.trace.time with parent := v, holdover := hold }
      ({ s with trace := { s.trace with time := tm } } : State).logEv evTimeParent 0xFF#8 0#16
        ((v.map (·.2)).getD 0xFFFF) 0#64 (leBytes 2 ((v.map fun x => x.1.toNat).getD 0xFFFF))
  match s.timeChoice with
  | none => set s none
  | some (d, p, direct) =>
    if direct && (s.port p).steward then
      if (s.port p).swapBy.isNone then (set s none).askSwap p 0#64 else set s none
    else set s (some (d, p))

/-- The mean of the offsets held. -/
def meanInt (l : List Int) : Int := if l.isEmpty then 0 else l.foldl (· + ·) 0 / (l.length : Int)

/-- One nanosecond of the time base: while an offset is left to slew, 1 ns in 1,000 is added or left out (R384). -/
def State.tick (s : State) : State :=
  let tm := s.trace.time
  if tm.slew = 0 then { s with now := s.now + 1#64 }
  else if tm.slewFrac < 999 then
    { s with now := s.now + 1#64, trace := { s.trace with time := { tm with slewFrac := tm.slewFrac + 1 } } }
  else if 0 < tm.slew then
    { s with now := s.now + 2#64, trace := { s.trace with time := { tm with slewFrac := 0, slew := tm.slew - 1 } } }
  else { s with trace := { s.trace with time := { tm with slewFrac := 0, slew := tm.slew + 1 } } }

/-! ### Credits, acknowledgement and retry (R373, R374, R376) -/

/-- CREDIT_RECORD (R373): the running counts that the peer grants. -/
def execCreditRecord (p c1 c2 c3 : Nat) (s : State) : Host.Outcome State Fault Refusal :=
  event (if !(s.port p).up then s
    else s.modPort p fun q => { q with credPeer :=
      [(1, BitVec.ofNat 32 c1), (2, BitVec.ofNat 32 c2), (3, BitVec.ofNat 32 c3)] })

/-- CREDIT_RECORD_TIMER (R373): 1 µs passes with credit outstanding. -/
def execCreditRecordTimer (p : Nat) (s : State) : Host.Outcome State Fault Refusal :=
  event (let q := s.port p
    if !q.up then s
    else
      let s := s.reach (q.credAt + 1000)
      let g := fun (vc : Nat) => (creditOf q.credGranted vc).toNat
      (s.modPort p fun q => { q with credAt := s.t }).ctl p (.credits (g 1) (g 2) (g 3)))

/-- ACKSEQ (R374): frees the flits it covers; one that covers a flit not sent is a violation (Table 11-10). -/
def execAckseq (p seq : Nat) (s : State) : Host.Outcome State Fault Refusal :=
  event (let q := s.port p
    let n := BitVec.ofNat 12 seq
    if !q.up then s
    else if 2048 ≤ (q.txSeq - 1#12 - n).toNat then s.portViolation p 6
    else
      let left := q.retryBuf.filter fun f => 2048 ≤ (n - f.fseq).toNat
      s.modPort p fun q => { q with
        retryBuf := left
        retryName := if left.length = q.retryBuf.length then q.retryName else none
        retryCount := if left.length = q.retryBuf.length then q.retryCount else 0 })

/-- ACK_TIMER (R374): 64 flits or 1 µs after the last, an acknowledgement goes out. -/
def execAckTimer (p : Nat) (s : State) : Host.Outcome State Fault Refusal :=
  event (let q := s.port p
    if !q.up || q.unacked = 0 then s
    else
      let s := if 64 ≤ q.unacked then s else s.reach (q.ackAt + 1000)
      (s.modPort p fun q => { q with unacked := 0, ackAt := s.t }).ctl p (.ack (q.rxSeq - 1#12).toNat))

/-- RETRY (R374): the sender replays from the flit named; the eighth record of one flit without progress retrains. -/
def execRetry (p seq : Nat) (s : State) : Host.Outcome State Fault Refusal :=
  event (let q := s.port p
    let n := BitVec.ofNat 12 seq
    if !q.up then s
    else
      let cnt := if q.retryName = some n then q.retryCount + 1 else 1
      let s := s.modPort p fun q => { q with
        retryName := some n, retryCount := if cnt < 8 then cnt else 0, retries := q.retries + 1
        retryBuf := q.retryBuf.filter fun f => (f.fseq - n).toNat < 2048 }
      if cnt < 8 then s else s.askRetrain p (goodWidth q.lanesBad))

/-- REFUSE (R376, R394, R402, R407): the credits return; what the message served goes on, waits 1 ms or fails, by the
reason. -/
def execRefuse (p : Nat) (mtag : BitVec 16) (reason : Nat) (s : State) : Host.Outcome State Fault Refusal :=
  event (match s.trace.sent.find? fun x => x.port = p && x.msg.mtag = mtag with
    | none => s
    | some x =>
      let m := x.msg
      let s := s.modPort p fun q => { q with
        credPeer := tputD (baseCredit m.vc) q.credPeer m.vc (creditOf q.credPeer m.vc + BitVec.ofNat 32 m.flits) }
      let drop := fun (s : State) =>
        ({ s with trace := { s.trace with sent := s.trace.sent.filter fun y => !(y.port = p && y.msg.mtag = mtag) } } : State)
      let endSend := fun (s : State) (st : BitVec 16) =>
        ({ s with trace := { s.trace with sends := s.trace.sends.filter fun e => e.wid != x.wid } } : State).complete x.wid st
      if reason = rfNotReady || reason = rfQuarantined then
        let s := drop s
        { s with trace := { s.trace with queue := s.trace.queue ++
            [{ msg := m, wid := x.wid, pad := x.pad, notBefore := s.t + msNs }] } }
      else if reason = rfWindow then (if m.kind = 4 then endSend (drop s) stBadWindow else drop s)
      else if reason = rfGroup then
        match s.coll m.group m.seq, tget s.trace.groups m.group.toNat with
        | some c, some g =>
          match (List.range g.members.length).find? fun r => g.members[r]? = some m.dest with
          | some r => (drop s).modColl c.wid fun c => { c with reissue := c.reissue ++ [(r, m.chunk, s.t + msNs)] }
          | none => drop s
        | _, _ => drop s
      else if m.kind = 4 then endSend (drop s) stTraceProtocol
      else match s.coll m.group m.seq with
        | some c => (drop s).failColl c stTraceProtocol 0
        | none => drop s)

/-- REFUSE_RESEND (R376): 1 ms after a REFUSE the message is sent again. -/
def execRefuseResend (mtag : BitVec 16) (s : State) : Host.Outcome State Fault Refusal :=
  event (match s.trace.queue.find? fun x => x.msg.mtag = mtag && x.notBefore != 0 with
    | none => s
    | some x => s.reach x.notBefore)

/-! ### Training and admission (R72, R375 to R378) -/

/-- TRAINING_START (R72, R375): the staggered start of the first training, or 1 s in DOWN. -/
def execTrainingStart (p : Nat) (s : State) : Host.Outcome State Fault Refusal :=
  event (let q := s.port p
    if 16 ≤ p || q.state != .down || !s.pins.txOn || !(if p < 8 then s.part.refTrace0 else s.part.refTrace1) then s
    else
      let s := s.reach (if q.trained then q.downAt + secNs
        else s.part.timeZero + 200 * msNs + 2 * msNs * (s.part.partId.toNat % 16))
      (s.modPort p fun q => { q with trained := true, trainAt := s.t, width := 4, lanesBad := [] }).enterPort p .training)

/-- IDENTITY_EXCHANGE (R375, R381): the ends know each other, the port is LINKED, the link layer starts anew and the
steward of a direct link is the lower part. -/
def execIdentityExchange (p : Nat) (id : BitVec 16) (peerPort : Nat) (isSwitch : Bool) (s : State) :
    Host.Outcome State Fault Refusal :=
  event (if (s.port p).state != .training then s
    else
      let s := s.modPort p fun q => { q with
        peer := some id, peerPort := peerPort, peerSwitch := isSwitch
        steward := !isSwitch && s.part.partId.toNat < id.toNat
        txSeq := 0#12, rxSeq := 0#12, retryBuf := [], txRest := [], served := [], unacked := 0, ackAt := s.t, retryName := none, retryCount := 0
        rxDiscard := false, credGranted := [], credUsedRx := [], credPeer := [], credUsedTx := [], credAt := s.t }
      (s.enterPort p .linked).ctl p (.identity s.part.partId p))

/-- TRAINING_TIMEOUT (R375): not linked 150 ms after training started. -/
def execTrainingTimeout (p : Nat) (s : State) : Host.Outcome State Fault Refusal :=
  event (if (s.port p).state = .training then (s.reach ((s.port p).trainAt + 150 * msNs)).portDown p else s)

/-- LINK_ADMISSION (R377): the conditions hold and the port is ADMITTED, or the refusal is logged. -/
def execLinkAdmission (p : Nat) (s : State) : Host.Outcome State Fault Refusal :=
  event (let q := s.port p
    if q.state != .linked then s
    else if s.part.pstate.running && s.part.partId != 0xFFFF#16 &&
        (q.peerSwitch || (q.peer != some 0xFFFF#16 && q.peer != some s.part.partId)) then
      (s.enterPort p .admitted).chooseParent
    else s.logEv evPortNotAdmitted 0xFF#8 0#16 p)

/-- LOSS_OF_LOCK (R375): LINKED goes DOWN, ADMITTED goes DOWN after 1 ms. -/
def execLossOfLock (p : Nat) (s : State) : Host.Outcome State Fault Refusal :=
  event (match (s.port p).state with
    | .linked => s.portDown p
    | .admitted => (s.reach (s.t + msNs)).portDown p
    | _ => s)

/-! ### Retraining (R379, R380) -/

/-- LANE_ERROR_THRESHOLD (R379): a lane shows more than 4,096 uncorrectable codewords in 1 s. -/
def execLaneErrorThreshold (p lane : Nat) (s : State) : Host.Outcome State Fault Refusal :=
  event (if !(s.port p).up || 4 ≤ lane then s
    else
      let s := s.modPort p fun q => { q with
        lanesBad := insNat lane q.lanesBad, fecBad := tputD 0 q.fecBad lane (tgetD 0 q.fecBad lane + 4097) }
      s.askRetrain p (goodWidth (s.port p).lanesBad))

/-- RETRAIN_REQUEST (R379, Table 11-10): a request arrives at the steward; a retrain command with a width comes from the
steward, and from the other end is a violation. -/
def execRetrainRequest (p : Nat) (command : Option Nat) (s : State) : Host.Outcome State Fault Refusal :=
  event (let q := s.port p
    match command with
    | none => if q.steward then s.askRetrain p (goodWidth q.lanesBad) else s
    | some w =>
      if q.steward then s.portViolation p 7
      else if q.state = .admitted then
        (s.modPort p fun q => { q with retrainTries := 0, retrainWidth := w, reducedAt := s.t }).enterPort p .retraining
      else s)

/-- RETRAIN_COMPLETE (R375, R379, R380): an attempt ends. A success admits the port at its width and completes the
commands that wait; after a failure the next narrower width is tried, and the third leads to DOWN. -/
def execRetrainComplete (p : Nat) (ok : Bool) (s : State) : Host.Outcome State Fault Refusal :=
  event (let q := s.port p
    if q.state != .retraining then s
    else if ok then
      let s := s.modPort p fun q => { q with width := q.retrainWidth, retrainTries := 0, retryCount := 0, retryName := none,
                                             reducedAt := s.t, retrainBy := [] }
      (s.enterPort p .admitted).completeAll q.retrainBy stOk
    else if 2 ≤ q.retrainTries then s.portDown p
    else s.modPort p fun q => { q with retrainTries := q.retrainTries + 1, retrainWidth := if q.retrainWidth = 4 then 2 else 1 })

/-- FULL_WIDTH_ATTEMPT (R379): 60 s at reduced width. -/
def execFullWidthAttempt (p : Nat) (s : State) : Host.Outcome State Fault Refusal :=
  event (let q := s.port p
    if q.state != .admitted || !q.steward || q.width = 4 then s
    else ((s.reach (q.reducedAt + 60 * secNs)).modPort p fun q => { q with lanesBad := [] }).startRetrain p 4)

/-! ### Stewards (R381, R382) -/

/-- Grants a swap: the roles are exchanged as the grant goes out. -/
def State.grantSwap (s : State) (p : Nat) : State :=
  ((s.modPort p fun q => { q with steward := !q.steward }).ctl p .swapGrant).chooseParent

/-- STEWARD_SWAP_REQUEST (R382): granted, or settled by part identifier against an own request that is outstanding. -/
def execStewardSwapRequest (p : Nat) (s : State) : Host.Outcome State Fault Refusal :=
  event (let q := s.port p
    if q.state != .admitted || q.peerSwitch then s
    else match q.swapBy with
      | none => s.grantSwap p
      | some w =>
        if s.part.partId.toNat < (q.peer.getD 0#16).toNat then
          ((s.modPort p fun q => { q with swapBy := none }).complete w stRoleConflict).grantSwap p
        else s)

/-- STEWARD_SWAP_GRANT (R381): the roles are exchanged at the requester. -/
def execStewardSwapGrant (p : Nat) (s : State) : Host.Outcome State Fault Refusal :=
  event (let q := s.port p
    match q.swapBy with
    | none => s
    | some w =>
      ((s.modPort p fun q => { q with swapBy := none, steward := !q.steward }).complete w stOk).chooseParent)

/-! ### Time (R384, R385) -/

/-- SYNC (R384, Table 11-10): stamped t2 at arrival; DELAY_REQ follows, stamped t3. -/
def execSync (p : Nat) (t1 : BitVec 64) (corr : Int) (s : State) : Host.Outcome State Fault Refusal :=
  event (let tm := s.trace.time
    match tm.parent with
    | some (_, q) =>
      if q = p && tm.lastT1.toNat ≤ t1.toNat then
        ({ s with trace := { s.trace with time :=
            { tm with t1 := t1, t2 := s.now, t3 := s.now, corr := corr, lastT1 := t1 } } } : State).ctl p (.delayReq s.now)
      else s.portViolation p 8
    | none => s.portViolation p 8)

/-- DELAY_REQ (R384): the parent stamps t4 and returns it. -/
def execDelayReq (p : Nat) (_t3 : BitVec 64) (s : State) : Host.Outcome State Fault Refusal :=
  event (if (s.port p).state = .admitted then s.ctl p (.delayResp s.now) else s)

/-- DELAY_RESP (R384, Table 11-10): the child computes its offset and filters it over 16 exchanges; at the first lock
after cold reset it steps its time base, afterwards it only slews. -/
def execDelayResp (p : Nat) (t4 : BitVec 64) (s : State) : Host.Outcome State Fault Refusal :=
  event (let tm := s.trace.time
    match tm.parent with
    | some (_, q) =>
      if !(q = p && tm.lastT4.toNat ≤ t4.toNat) then s.portViolation p 8
      else
        let up : Int := (tm.t2.toNat : Int) - tm.t1.toNat
        let down : Int := (t4.toNat : Int) - tm.t3.toNat
        let offs := (tm.offsets ++ [(up - down) / 2 - tm.corr / 2]).drop (tm.offsets.length - 15)
        let tm := { tm with lastT4 := t4, offsets := offs, delay := (up + down) / 2, holdover := none }
        let mean := meanInt offs
        if tm.stepped then { s with trace := { s.trace with time := { tm with slew := -mean } } }
        else if offs.length < 16 then { s with trace := { s.trace with time := tm } }
        else { s with now := BitVec.ofInt 64 ((s.now.toNat : Int) - mean)
                      trace := { s.trace with time := { tm with stepped := true, offsets := [] } } }
    | none => s.portViolation p 8)

/-- SYNC_TIMER (R384): 256 times a second the parent sends SYNC, on a direct link only as its steward. -/
def execSyncTimer (p : Nat) (s : State) : Host.Outcome State Fault Refusal :=
  event (let q := s.port p
    if q.state != .admitted || !(q.steward || q.peerSwitch) then s
    else
      let s := s.reach (tgetD 0 s.trace.time.lastSync p + 3906250)
      ({ s with trace := { s.trace with time :=
          { s.trace.time with lastSync := tputD 0 s.trace.time.lastSync p s.t } } } : State).ctl p (.sync s.now))

/-- TIME_PARENT_LOSS (R385): the parent's port no longer carries traffic; the part holds over and chooses again. -/
def execTimeParentLoss (s : State) : Host.Outcome State Fault Refusal :=
  event (match s.trace.time.parent with
    | none => s
    | some (_, p) =>
      if (s.port p).state = .admitted then s
      else
        let tm := { s.trace.time with parent := none, holdover := some s.t }
        (({ s with trace := { s.trace with time := tm } } : State).logEv evTimeParent 0xFF#8 0#16 p).chooseParent)

/-! ### Routes (R386, R387, R398) -/

/-- Sends the kept messages of a port again, in full and with RESEND, on the new route (R387). -/
def State.resendFrom (s : State) (p : Nat) : State :=
  let again := s.trace.sent.filter fun x => x.port = p
  { s with trace := { s.trace with
      sent := s.trace.sent.filter fun x => x.port != p
      queue := s.trace.queue ++ again.map fun x =>
        let m := { x.msg with resend := true, fwd := x.msg.fwd && x.msg.src != s.part.partId }
        { msg := m, wid := x.wid, pad := x.pad, notBefore := 0 } } }

/-- DETOUR_SELECT (R386, R387): a port is DOWN or QUARANTINED. `known` is what the part has learned of the direct links
of its board group: intermediate part and destination. -/
def execDetourSelect (p : Nat) (known : List (BitVec 16 × BitVec 16)) (s : State) : Host.Outcome State Fault Refusal :=
  event (let s : State := { s with trace := { s.trace with boardPeers := known } }
    match (s.port p).state with
    | .admitted => s
    | .retraining => s
    | _ => s.resendFrom p)

/-! ### Port and time commands (R410; the records: log entry 11) -/

/-- The code of a port state. -/
def PortState.code : PortState → Nat
  | .down => 0
  | .training => 1
  | .linked => 2
  | .admitted => 3
  | .retraining => 4
  | .quarantined => 5
  | .disabled => 6

/-- Raw rate of a width, MB/s (Table 11-1). -/
def rawRate (width : Nat) : Nat := 28000 * width

/-- Payload rate of a width, MB/s (Table 11-1). -/
def payloadRate (width : Nat) : Nat := 24800 * width

/-- The 64-byte record of a port. -/
def State.portRecord (s : State) (p : Nat) : List Byte :=
  let q := s.port p
  leBytes 1 q.state.code ++ leBytes 1 q.width ++ leBytes 1 (if q.steward then 1 else 0) ++
  leBytes 1 (if q.peerSwitch then 1 else 0) ++ leBytes 2 ((q.peer.getD 0xFFFF#16).toNat) ++ leBytes 2 q.peerPort ++
  leBytes 4 (rawRate q.width) ++ leBytes 4 (payloadRate q.width) ++ leBytes 8 q.retries ++
  leBytes 8 (sumNat (q.fecBad.map (·.2))) ++ leBytes 8 q.violations ++ leBytes 8 q.bytesTx.toNat ++ leBytes 8 q.bytesRx.toNat ++
  leBytes 8 (BitVec.ofInt 64 (meanInt s.trace.time.offsets)).toNat

/-- TRACE_PORT_QUERY. -/
def tracePortQueryBody (c : Cmd) (s : State) : Except Err State := do
  let s1 ← s.writeBuf c (c.u64 0) ((List.range 16).flatMap s.portRecord)
  .ok (s1.ok c)

/-- The FEC of a port has corrected symbols since it was last read; how many no row tells, a free value per lane
(R370, R540). -/
def State.countFec (s : State) (p : Nat) : State :=
  (List.range 4).foldl (fun s l =>
    let (v, s) := s.draw
    s.modPort p fun q => { q with fecSym := tputD 0#64 q.fecSym l (tgetD 0#64 q.fecSym l + v) }) s

/-- TRACE_PORT_QUERY, expert: the ports of a mask, each with its lanes' corrected symbols. -/
def tracePortQueryExpertBody (c : Cmd) (s : State) : Except Err State := do
  let ps := (List.range 16).filter fun p => bitAt (c.u32 8) p
  let s := ps.foldl (fun s p => s.countFec p) s
  let s1 ← s.writeBuf c (c.u64 0) (ps.flatMap fun p => s.portRecord p ++
    (List.range 4).flatMap fun l => leBytes 8 (tgetD 0#64 (s.port p).fecSym l).toNat)
  .ok (s1.ok c ps.length)

/-- A port number of a command. -/
def Cmd.portNo (c : Cmd) : Except Err Nat := if c.u32 0 < 16 then .ok (c.u32 0) else fail stBadParam

/-- A retrain that a command asks for: it completes with the retrain (R379, R380). -/
def State.retrainCmd (s : State) (c : Cmd) (p width : Nat) : Except Err State := do
  need ((s.port p).state = .admitted || (s.port p).state = .retraining) stPortState
  .ok ((s.modPort p fun q => { q with retrainBy := q.retrainBy ++ [c.w] }).askRetrain p width)

/-- TRACE_PORT_CONTROL: RETRAIN or SWAP. -/
def tracePortControlBody (c : Cmd) (s : State) : Except Err State := do
  let p ← c.portNo
  let q := s.port p
  match c.u32 4 with
  | 0 => s.retrainCmd c p (goodWidth q.lanesBad)
  | 1 =>
    need (q.state = .admitted && !q.peerSwitch && q.swapBy.isNone) stPortState
    .ok (s.askSwap p c.w)
  | _ => fail stBadParam

/-- TRACE_PORT_CONTROL, expert: DISABLE, ENABLE, ADMIT and the two reduced widths (Table 11-4). -/
def tracePortControlExpertBody (c : Cmd) (s : State) : Except Err State := do
  let p ← c.portNo
  let q := s.port p
  match c.u32 4 with
  | 2 =>
    need (q.state = .down || q.state = .admitted) stPortState
    .ok (((s.failPort p).enterPort p .disabled).ok c)
  | 3 =>
    need (q.state = .disabled) stPortState
    .ok (((s.modPort p fun q => { q with downAt := s.t }).enterPort p .down).ok c)
  | 4 =>
    need (q.state = .quarantined) stPortState
    .ok ((((s.modPort p fun q => { q with violTimes := [] }).enterPort p .admitted).chooseParent).ok c)
  | 5 =>
    need (q.state = .admitted && q.steward) stPortState
    s.retrainCmd c p 2
  | 6 =>
    need (q.state = .admitted && q.steward) stPortState
    s.retrainCmd c p 1
  | _ => fail stBadParam

/-- TRACE_TIME_QUERY: root, backups, parent, port, hops, offset, filtered delay, holdover. -/
def traceTimeQueryBody (c : Cmd) (s : State) : Except Err State := do
  let tm := s.trace.time
  let b := fun (i : Nat) => leBytes 2 ((tm.backups[i]?).getD 0xFFFF#16).toNat
  let s1 ← s.writeBuf c (c.u64 0) (leBytes 2 tm.root.toNat ++ b 0 ++ b 1 ++ b 2 ++
    leBytes 2 ((tm.parent.map fun x => x.1.toNat).getD 0xFFFF) ++ leBytes 2 ((tm.parent.map (·.2)).getD 0xFFFF) ++
    leBytes 4 (if tm.parent.isSome then 1 else 0) ++ leBytes 8 (BitVec.ofInt 64 (meanInt tm.offsets)).toNat ++
    leBytes 8 (BitVec.ofInt 64 tm.delay).toNat ++ leBytes 8 (if tm.holdover.isSome then 1 else 0) ++
    leBytes 8 (tm.holdover.getD 0) ++ leBytes 16 0)
  .ok (s1.ok c)

/-- TRACE_TIME_CONFIG: the pod root and its backups (R383). -/
def traceTimeConfigBody (c : Cmd) (s : State) : Except Err State :=
  let id := fun (o : Nat) => BitVec.ofNat 16 (c.u16 o)
  let tm := { s.trace.time with root := id 0, backups := [id 2, id 4, id 6] }
  .ok ((({ s with trace := { s.trace with time := tm } } : State).chooseParent).ok c)

end Sys2Proof.Machine
end

