-- ==== Sys2Proof/Machine/Traces.lean ====
section
/-! DEFINITION. Groups, collective commands, windows and messages (R388 to R411), and the messages that arrive. -/

namespace Sys2Proof.Machine

open Sys2Proof

/-! ### Groups (R388, R409) -/

/-- TRACE_GROUP_CREATE of either level (Table 11-6): `mib`, `ops`, `merge`, `timeout` in ms, `kib` and the address of
STAGING, 0 to allocate. -/
def State.groupCreate (s : State) (c : Cmd) (mib ops merge timeout kib addr : Nat) : Except Err State := do
  need (!c.mgmt) stNotPermitted
  let id := c.u32 0
  let n := c.u32 4
  need (id != 0 && !thas s.trace.groups id && 2 ≤ n && n ≤ 16384) stBadGroup
  let (bs, _) ← s.readBuf c (c.u64 8) (2 * n)
  let ms := (List.range n).map fun i => BitVec.ofNat 16 (fld bs (2 * i) 2)
  need (ms.eraseDups.length = n && ms.contains s.part.partId) stBadGroup
  let chunk := kib * 1024
  let len := mib * 2 ^ 20
  need (16 ≤ kib && kib ≤ 4096 && kib % 16 = 0 && 4 * chunk ≤ len && len ≤ 2 ^ 30 && 1 ≤ ops && ops ≤ 64 && 1 ≤ merge &&
    merge ≤ 16 && 1 ≤ timeout && timeout ≤ 600000) stBadParam
  let gs := s.trace.groups
  need (gs.length < 4096 && (gs.filter fun e => e.2.paddock = some c.pad).length < 512 &&
    sumNat (gs.map (·.2.ops)) + ops ≤ 16384 && sumNat (gs.map (·.2.merge)) + merge ≤ 256) stGroupLimit
  let (at_, own, s1) ← (if addr != 0 then do
      let e ← s.ownRange c addr len [.basin]
      need (!e.2.near && gs.all fun x => addr + len ≤ x.2.staging || x.2.staging + x.2.stagingLen ≤ addr) stBadParam
      .ok (addr, false, s)
    else do
      let r ← s.allocate { owner := c.pad, tier := .basin, near := false, die := 0, len := len, persist := true,
                           moored := false, sys := false }
      .ok (r.1, true, r.2))
  let g : TGroup :=
    { paddock := some c.pad, members := ms, rank := ms.findIdx (· == s.part.partId), staging := at_, stagingLen := len,
      stagingOwn := own, ops := ops, merge := merge, timeout := timeout, chunk := chunk, issued := 0, completed := 0,
      aborted := [], greeted := [], dispatched := [] }
  let s2 : State := { s1 with trace := { s1.trace with groups := tput s1.trace.groups id g } }
  .ok (s2.ok c g.rank ((membersDigest (BitVec.ofNat 32 id) ms).toNat % 2 ^ 32))

/-- TRACE_GROUP_CREATE: the basic defaults of Table 11-6. -/
def traceGroupCreateBody (c : Cmd) (s : State) : Except Err State := s.groupCreate c 16 16 4 10000 1024 0

/-- TRACE_GROUP_CREATE, expert. -/
def traceGroupCreateExpertBody (c : Cmd) (s : State) : Except Err State :=
  s.groupCreate c (c.u32 16) (c.u32 20) (c.u32 24) (c.u32 28) (c.u32 32) (c.u64 36)

/-- Ends the operations of a group on this part with one status and on the others with another (Table 11-12). -/
def State.endGroupOps (s : State) (k : Nat) (st : BitVec 16) : State :=
  (s.trace.colls.filter fun c => c.group.toNat = k).foldl (fun s c =>
    match tget s.trace.groups k with
    | some g => (s.sendAborts g c.group c.seq stMemberLost).failColl c st 0
    | none => s) s

/-- TRACE_GROUP_DESTROY (Table 11-12). -/
def traceGroupDestroyBody (c : Cmd) (s : State) : Except Err State := do
  let k := c.u32 0
  let g ← s.groupOf c.pad k
  .ok (((s.endGroupOps k stCancelled).dropGroup k g).ok c)

/-- TRACE_GROUP_DESTROY, expert: with WAIT it completes after the pending operations. -/
def traceGroupDestroyExpertBody (c : Cmd) (s : State) : Except Err State := do
  let _ ← s.groupOf c.pad (c.u32 0)
  if c.flag 4 then .ok (s.wait c.w (.groupFree (c.u32 0))) else traceGroupDestroyBody c s

/-- The 128-byte record of a group (log entry 11). -/
def State.groupRecord (s : State) (k : Nat) (g : TGroup) : List Byte :=
  leBytes 4 k ++ leBytes 4 g.members.length ++ leBytes 4 g.rank ++
  leBytes 4 (s.trace.colls.filter fun c => c.group.toNat = k).length ++ leBytes 8 g.issued ++ leBytes 8 g.completed ++
  leBytes 4 g.aborted.length ++ leBytes 4 (s.slotsInUse (BitVec.ofNat 32 k)) ++ leBytes 8 g.stagingLen ++ leBytes 80 0

/-- TRACE_GROUP_QUERY. -/
def traceGroupQueryBody (c : Cmd) (s : State) : Except Err State := do
  let g ← s.groupOf c.pad (c.u32 0)
  let s1 ← s.writeBuf c (c.u64 4) (s.groupRecord (c.u32 0) g)
  .ok (s1.ok c)

/-- TRACE_GROUP_QUERY, expert: one record per group of the paddock. -/
def traceGroupQueryExpertBody (c : Cmd) (s : State) : Except Err State := do
  let gs := (s.trace.groups.filter fun e => e.2.paddock = some c.pad).take (c.u32 8)
  let s1 ← s.writeBuf c (c.u64 0) (gs.flatMap fun e => s.groupRecord e.1 e.2)
  .ok (s1.ok c gs.length)

/-! ### The descriptor (R390, R391) -/

/-- The operation that a descriptor asks for (Table 11-7); what only bytes 64 to 127 give is zero in the basic form. -/
def collOfDesc (d : List Byte) (w : BitVec 64) (pad now rank : Nat) : Coll :=
  let f := fld d 34 1
  let fl := fld d 35 1
  { newColl w pad (BitVec.ofNat 32 (fld d 0 4)) (fld d 4 1) now rank with
    shape := shapeOf d, redop := fld d 5 1, inFmt := fld d 6 1, outFmt := fld d 7 1, count := fld d 8 8, src := fld d 16 8,
    dst := fld d 24 8, root := fld d 32 2, rmode := f % 8, sat := bitAt f 3, srcStream := bitAt fl 0, dstStream := bitAt fl 1,
    capacity := fld d 36 4, aux := fld d 40 8, itemBytes := fld d 48 4, round := fld d 52 2, consumer := fld d 54 2,
    report := fld d 56 8, streamId := BitVec.ofNat 32 (fld d 76 4), srSeed := BitVec.ofNat 64 (fld d 80 8),
    dstAux := fld d 88 8, experts := fld d 104 4 }

/-- The fields of a descriptor that its KIND does not list are zero (R390). -/
def Coll.listed (c : Coll) (d : List Byte) : Bool :=
  let items := c.kind = 6 || c.kind = 7
  (c.kind = 3 || c.kind = 4 || c.redop = 0) &&
  (c.kind = 1 || c.root = 0) &&
  (c.kind = 6 || (c.capacity = 0 && c.report = 0 && c.experts = 0 && fld d 96 8 = 0)) &&
  (items || (c.itemBytes = 0 && c.round = 0)) &&
  (items || c.inFmt = 3 || c.aux = 0) &&
  (c.kind = 6 || c.outFmt = 3 || c.dstAux = 0) &&
  (c.srcStream || c.consumer = 0) &&
  (bitAt (fld d 35 1) 2 || fld d 64 8 = 0) &&
  (c.rmode = 4 || (c.streamId = 0#32 && c.srSeed = 0#64))

/-- The fields of a descriptor are in their ranges (R390). -/
def Coll.inRange (c : Coll) (n : Nat) : Bool :=
  c.kind ≤ 7 && c.redop ≤ 3 && c.inFmt ≤ 4 && c.outFmt ≤ 4 && c.rmode ≤ 4 &&
  (c.kind != 1 || c.root < n) &&
  (!(c.kind = 3 || c.kind = 4) || (c.redop != 0 && c.inFmt != 4 && c.outFmt != 4)) &&
  (c.redop ≤ 1 || (c.outFmt = c.inFmt && c.inFmt ≤ 2)) &&
  (!(1 ≤ c.kind && c.kind ≤ 5) || ((c.inFmt != 3 || c.aux != 0) && (c.outFmt != 3 || c.dstAux != 0))) &&
  (!(c.kind = 0 || 6 ≤ c.kind) || !(c.srcStream || c.dstStream)) &&
  (!(6 ≤ c.kind) || (256 ≤ c.itemBytes && c.itemBytes ≤ 65536 && c.itemBytes % 256 = 0)) &&
  (c.kind != 6 || (32 ≤ c.capacity && c.capacity ≤ 65536 && c.capacity % 32 = 0 && 1 ≤ c.experts && c.experts ≤ 32768))

/-- Source bytes of a member (Table 11-8). -/
def Coll.srcLen (c : Coll) (g : TGroup) : Nat :=
  let n := g.members.length
  match c.kind with
  | 1 => if g.rank = c.root then c.inBytes else 0
  | 2 => c.inBytes
  | 3 => n * c.inBytes
  | 4 => c.inBytes
  | 5 => n * c.inBytes
  | 6 => (keysOf c.ownKeys).foldl (fun m k => max m ((fld k 12 4 + 1) * c.itemBytes)) 0
  | 7 => match g.dispatchOf c.aux c.round with
    | some q => q.kept.foldl (fun m k => max m (k.2.2 + c.itemBytes)) 0
    | none => 0
  | _ => 0

/-- Checks that `n` bytes from an address lie in one Basin or HBM4 allocation of the caller. -/
def State.collRange (s : State) (c : Cmd) (a n : Nat) : Except Err Unit :=
  if n = 0 then .ok () else do
    let _ ← s.ownRange c a n [.basin, .hbm]
    .ok ()

/-- Checks the stream that an operation is to consume or produce (R189, R395). -/
def State.collStream (s : State) (c : Cmd) (h : Nat) (cons : Option Nat) : Except Err Unit := do
  let st ← s.streamOf c h
  match cons with
  | some k =>
    need (k < st.nCons) stBadParam
    need (!thas st.consEnd k) stStreamState
  | none => need (st.producer.isNone && st.state = .opened) stStreamState

/-- A key of a DISPATCH is one of Table 11-9. -/
def keyOk (experts : Nat) (k : List Byte) : Bool := fld k 0 2 < experts

/-- What DISPATCH reads at its dispatch: its keys, and the owner of each expert (R399). -/
def State.readKeys (s : State) (c : Cmd) (x : Coll) (map n : Nat) : Except Err Coll := do
  if x.kind != 6 then .ok x
  else do
    s.collRange c x.aux (16 * x.count)
    let keys := s.bytes x.aux (16 * x.count)
    need ((keysOf keys).all fun k => fld k 3 1 = 0 && fld k 0 2 < 32768) stBadReserved
    need ((keysOf keys).all (keyOk x.experts)) stBadParam
    if map = 0 then .ok { x with ownKeys := keys }
    else do
      let (bs, _) ← s.readBuf c map (2 * x.experts)
      let owners := (List.range x.experts).map fun e => fld bs (2 * e) 2
      need (owners.all fun o => o < n) stBadParam
      .ok { x with ownKeys := keys, expertMap := owners }

/-- Sends a DISPATCH's keys to their owners (R399). -/
def State.sendKeys (s : State) (c : Coll) (g : TGroup) : State :=
  let n := g.members.length
  (ranksAfter n g.rank).foldl (fun s d =>
    match g.members[d]? with
    | none => s
    | some m =>
      let data := (c.keysTo n d).flatMap id
      s.enqueue { s.newMsg m 5 c.group c.seq with round := c.round, rank := g.rank, shape := c.shape, data := data,
                                                  len := data.length } 0#64 c.paddock) s

/-- The checks of a collective's source, destination, auxiliary area and report area (R390 to R396). -/
def State.collOperands (s : State) (c : Cmd) (g : TGroup) (x : Coll) : Except Err Unit := do
  let n := g.members.length
  if x.srcStream then s.collStream c x.src (some x.consumer) else s.collRange c x.src (x.srcLen g)
  if x.dstStream then s.collStream c x.dst none
  else s.collRange c x.dst (if x.kind = 6 then (x.experts_ n g.rank).length * x.capacity * x.itemBytes else x.destLen n)
  if x.kind = 6 then do
    s.collRange c x.dstAux (16 * (x.experts_ n g.rank).length * x.capacity)
    s.collRange c x.report (16 * x.count)

/-- TRACE_COLL of either level (R390 to R396). -/
def State.traceColl (s : State) (c : Cmd) : Except Err State := do
  let g ← s.groupOf c.pad (c.u32 0)
  let n := g.members.length
  let x0 := collOfDesc c.p c.w c.pad s.t g.rank
  need (x0.inRange n && x0.listed c.p) stBadParam
  let q := if x0.kind = 7 then g.dispatchOf x0.aux x0.round else none
  need (x0.kind != 7 || (match q with | some d => d.itemBytes = x0.itemBytes | none => false)) stBadParam
  let x1 ← s.readKeys c x0 (fld c.p 96 8) n
  let x := if x1.kind = 1 && x1.root != g.rank then { x1 with srcStream := false } else x1
  s.collOperands c g x
  let s1 ← s.startColl x g (if bitAt (fld c.p 35 1) 2 then some (fld c.p 64 8) else none) (fld c.p 72 4)
  match s1.collOf c.w with
  | none => .ok s1
  | some y =>
    let s2 := if y.srcStream then s1.modStream y.src fun st => { st with consEnd := tput st.consEnd y.consumer (.coll c.w) } else s1
    let s3 := if y.dstStream then s2.modStream y.dst fun st => { st with producer := some (.coll c.w) } else s2
    if y.kind = 6 then
      .ok ((s3.modColl c.w fun z => { z with keys := z.keys ++ [(g.rank, (y.keysTo n g.rank).flatMap id)] }).sendKeys y g)
    else .ok s3

/-- TRACE_COLL. -/
def traceCollBody (c : Cmd) (s : State) : Except Err State := s.traceColl c

/-- TRACE_COLL, expert: the whole descriptor. -/
def traceCollExpertBody (c : Cmd) (s : State) : Except Err State := s.traceColl c

/-- TRACE_COLL_CANCEL of either level (R405). -/
def State.collCancel (s : State) (c : Cmd) : Except Err State := do
  let g ← s.groupOf c.pad (c.u32 0)
  match s.coll (BitVec.ofNat 32 (c.u32 0)) (c.u64 4) with
  | some x => .ok ((s.abortColl x stCancelled).ok c)
  | none => fail (if 0 < c.u64 4 && c.u64 4 ≤ g.issued then stCancelLate else stBadParam)

/-- TRACE_COLL_CANCEL. -/
def traceCollCancelBody (c : Cmd) (s : State) : Except Err State := s.collCancel c

/-- TRACE_COLL_CANCEL, expert: the reason is logged. -/
def traceCollCancelExpertBody (c : Cmd) (s : State) : Except Err State := (s.reason c (c.u32 12)).collCancel c

/-! ### Windows and messages (R402 to R404) -/

/-- A window of the caller's paddock. -/
def State.ownWindow (s : State) (c : Cmd) (k : Nat) : Except Err Window :=
  match tget s.trace.windows k with
  | some v => if v.paddock = c.pad then .ok v else fail stBadWindow
  | none => fail stBadWindow

/-- Changes a window. -/
def State.modWindow (s : State) (k : Nat) (f : Window → Window) : State :=
  { s with trace := { s.trace with windows := tmod s.trace.windows k f } }

/-- TRACE_WINDOW_REGISTER. -/
def traceWindowRegisterBody (c : Cmd) (s : State) : Except Err State := do
  need (!c.mgmt) stNotPermitted
  let k := c.u32 0
  need (1 ≤ k && k ≤ 65535 && 1 ≤ c.u32 4 && 1 ≤ c.u32 8) stBadParam
  need (!thas s.trace.windows k) stBadWindow
  if c.u32 12 != 0 then do
    let _ ← s.groupOf c.pad (c.u32 12)
  s.collRange c (c.u64 16) (c.u32 4 * c.u32 8)
  let v : Window := { paddock := c.pad, slots := c.u32 4, slotBytes := c.u32 8, group := BitVec.ofNat 32 (c.u32 12),
                      addr := c.u64 16, full := [], busy := [], recvs := [] }
  .ok (({ s with trace := { s.trace with windows := tput s.trace.windows k v } } : State).ok c)

/-- TRACE_WINDOW_REGISTER, expert: with RELEASE the window is released; receives that wait on it are cancelled. -/
def traceWindowRegisterExpertBody (c : Cmd) (s : State) : Except Err State := do
  let v ← s.ownWindow c (c.u32 0)
  if c.flag 4 then
    .ok ((({ s with trace := { s.trace with windows := tdel s.trace.windows (c.u32 0) } } : State).completeAll v.recvs
      stCancelled).ok c)
  else .ok (s.ok c)

/-- TRACE_SEND of either level (R402): the data are read at dispatch. -/
def State.traceSend (s : State) (c : Cmd) (timeout : Nat) : Except Err State := do
  need (!c.mgmt) stNotPermitted
  need (1 ≤ c.u32 4 && c.u32 4 ≤ 65535 && c.u32 8 ≤ 4194304) stBadParam
  let loc ← s.resolve c (c.u64 16) (c.u32 8) false
  let (bs, bad) := s.readLoc c loc (c.u32 8)
  let lines := match loc with
    | .host _ => if bad then List.range ((bs.length + 255) / 256) else []
    | .part a _ => (List.range ((bs.length + 255) / 256)).filter fun l => s.poisoned (a + 256 * l) (min 256 (bs.length - 256 * l))
  let dest := BitVec.ofNat 16 (c.u16 0)
  let x : Send := { wid := c.w, paddock := c.pad, dest := dest, window := c.u32 4, number := none,
                    deadline := s.t + timeout * msNs }
  let s1 : State := { s with trace := { s.trace with sends := s.trace.sends ++ [x] } }
  .ok (s1.enqueue { s1.newMsg dest 4 (BitVec.ofNat 32 (c.u32 4)) 0 with len := bs.length, data := bs, poison := lines } c.w c.pad)

/-- TRACE_SEND: a timeout of 10 s. -/
def traceSendBody (c : Cmd) (s : State) : Except Err State := s.traceSend c 10000

/-- TRACE_SEND, expert: its own timeout. -/
def traceSendExpertBody (c : Cmd) (s : State) : Except Err State := s.traceSend c (c.u32 24)

/-- The first message of a window whose number is the next one of its sender that was not refused (R403). -/
def State.deliverable (s : State) (k : Nat) (v : Window) : Option (Nat × Nat × BitVec 16 × Nat) :=
  v.full.find? fun x =>
    let first := tgetD 0 s.trace.nextNo (winKey x.2.2.1 k)
    first ≤ x.2.2.2 && (List.range (x.2.2.2 - first)).all fun i => s.trace.voidNo.contains (winKey x.2.2.1 k, first + i)

/-- Hands messages of a window to the receives that wait, in order (R403). -/
def State.handOver : Nat → Nat → State → State
  | 0, _, s => s
  | fuel + 1, k, s =>
    match tget s.trace.windows k with
    | none => s
    | some v =>
      match v.recvs, s.deliverable k v with
      | w :: rest, some x =>
        let key := winKey x.2.2.1 k
        let s := s.modWindow k fun v => { v with full := v.full.filter fun y => y.1 != x.1, busy := v.busy ++ [x.1], recvs := rest }
        let s : State := { s with trace := { s.trace with
          nextNo := tputD 0 s.trace.nextNo key (x.2.2.2 + 1)
          voidNo := s.trace.voidNo.filter fun n => !(n.1 = key && n.2 ≤ x.2.2.2) } }
        State.handOver fuel k (s.complete w stOk (BitVec.ofNat 64 (x.1 + x.2.1 * 2 ^ 32)) (BitVec.ofNat 32 x.2.2.1.toNat))
      | _, _ => s

/-- TRACE_RECV (R403). -/
def traceRecvBody (c : Cmd) (s : State) : Except Err State := do
  let _ ← s.ownWindow c (c.u32 0)
  let s1 := s.modWindow (c.u32 0) fun v => { v with recvs := v.recvs ++ [c.w] }
  .ok (State.handOver 1 (c.u32 0) s1)

/-- TRACE_RECV, expert: releases a slot (R403). -/
def traceRecvExpertBody (c : Cmd) (s : State) : Except Err State := do
  let v ← s.ownWindow c (c.u32 0)
  need (v.busy.contains (c.u32 4)) stBadParam
  .ok ((s.modWindow (c.u32 0) fun v => { v with busy := v.busy.filter (· != c.u32 4) }).ok c)

/-- TRACE_MSG_CANCEL of either level (R404). -/
def State.msgCancel (s : State) (c : Cmd) : Except Err State := do
  let w := BitVec.ofNat 64 (c.u64 0)
  match s.trace.sends.find? fun x => x.wid = w && x.paddock = c.pad with
  | none => fail (if s.journal.any fun j => j.wid = w && ringFn j.ring = c.fn && j.opcode.toNat % 128 = 6 &&
      j.opcode.toNat / 256 = 6 then stCancelLate else stUnknownWork)
  | some x =>
    if x.number.isSome then fail stCancelLate
    else
      let s1 : State := { s with trace := { s.trace with
        sends := s.trace.sends.filter fun y => y.wid != w, queue := s.trace.queue.filter fun y => y.wid != w } }
      .ok ((s1.complete w stCancelled).ok c)

/-- TRACE_MSG_CANCEL. -/
def traceMsgCancelBody (c : Cmd) (s : State) : Except Err State := s.msgCancel c

/-- TRACE_MSG_CANCEL, expert. -/
def traceMsgCancelExpertBody (c : Cmd) (s : State) : Except Err State := s.msgCancel c

/-! ### Messages that arrive -/

/-- Answers a chunk with DONE (R387). -/
def State.ackChunk (s : State) (g : TGroup) (m : Msg) : State :=
  s.enqueue { s.newMsg m.src 2 m.group m.seq with chunk := m.chunk, rank := g.rank, round := m.round }

/-- A chunk: only against a grant, within its slot, each contribution once (R387, R392, R394, R396). -/
def State.onChunk (s : State) (p : Nat) (m : Msg) : State :=
  let bad := fun (s : State) => (s.portViolation p 3).ctl p (.refuse m.mtag rfProtocol)
  match tget s.trace.groups m.group.toNat with
  | none => bad s
  | some g =>
    if g.members[m.rank]? != some m.src then bad s
    else match s.coll m.group m.seq with
      | none => if m.seq ≤ g.completed && m.resend then s.ackChunk g m else bad s
      | some c =>
        if c.seen.contains (m.rank, m.chunk) then s.ackChunk g m
        else if !c.grantsOut.contains (m.rank, m.chunk) then bad s
        else if m.shape != c.shape then s.abortColl c stBadParam
        else match (s.inX c g m.rank).find? fun x => x.chunk = m.chunk with
          | none => bad s
          | some x =>
            if x.off != m.off || m.len != m.data.length then bad s
            else
              let slot := c.slotOf g m.rank m.chunk
              let (s, data, bad) := s.landIn slot.1 slot.2 m.data m.poison
              (s.takeChunk c.wid g m.rank x data bad).ackChunk g m

/-- A done: the chunk or window message is acknowledged (R387, R402). -/
def State.onDone (s : State) (m : Msg) : State :=
  if m.window then
    match s.trace.sends.find? fun x => x.dest = m.src && x.window = m.group.toNat && x.number = some m.seq with
    | none => s
    | some x =>
      let s : State := { s with trace := { s.trace with sends := s.trace.sends.filter fun y => y.wid != x.wid } }
      s.complete x.wid stOk (BitVec.ofNat 64 m.seq)
  else
    match s.coll m.group m.seq with
    | none => s
    | some c => if c.done.contains (m.rank, m.chunk) then s else
        s.modColl c.wid fun c => { c with done := c.done ++ [(m.rank, m.chunk)] }

/-- An abort: an operation that is not complete ends with its status; one not dispatched is recorded (R397, R398). -/
def State.onAbort (s : State) (m : Msg) : State :=
  match tget s.trace.groups m.group.toNat with
  | none => s
  | some g =>
    let det := if m.status = stMemberLost then m.src.toNat else 0
    if !g.members.contains m.src then s
    else match s.coll m.group m.seq with
      | some c => s.failColl c m.status det
      | none =>
        if m.seq ≤ g.completed || 1024 ≤ g.aborted.length || g.aborted.any (fun a => a.1 = m.seq) then s
        else s.modGroup m.group fun g => { g with aborted := g.aborted ++ [(m.seq, m.status, BitVec.ofNat 32 det)] }

/-- Whether a window admits a sender (R402). -/
def State.admits (s : State) (v : Window) (p : BitVec 16) : Bool :=
  v.group = 0#32 || match tget s.trace.groups v.group.toNat with
    | some g => g.members.contains p
    | none => false

/-- Refuses a window message for good: its send ends, and delivery passes over its number (R402, R403). -/
def State.refuseWindow (s : State) (p : Nat) (m : Msg) : State :=
  ({ s with trace := { s.trace with voidNo := s.trace.voidNo ++ [(winKey m.src m.group.toNat, m.seq)] } } : State).ctl p
    (.refuse m.mtag rfWindow)

/-- A window message: refused, or committed in the next free slot and answered with DONE (R387, R402, R403). -/
def State.onWindow (s : State) (p : Nat) (m : Msg) : State :=
  let k := m.group.toNat
  let ack := fun (s : State) => s.enqueue { s.newMsg m.src 2 m.group m.seq with window := true }
  match tget s.trace.windows k with
  | none => s.refuseWindow p m
  | some v =>
    if !s.admits v m.src then (s.portViolation p 4).refuseWindow p m
    else if v.slotBytes < m.data.length then s.refuseWindow p m
    else if s.trace.seenNo.contains (winKey m.src k, m.seq) then ack s
    else match (List.range v.slots).find? fun i => !(v.busy.contains i || v.full.any fun x => x.1 = i) with
      | none => s.ctl p (.refuse m.mtag rfNotReady)
      | some slot =>
        let base := v.addr + slot * v.slotBytes
        let s := s.storeLines base m.data m.poison
        let s := s.modWindow k fun v => { v with full := v.full ++ [(slot, m.data.length, m.src, m.seq)] }
        let s : State := { s with trace := { s.trace with seenNo := s.trace.seenNo ++ [(winKey m.src k, m.seq)] } }
        State.handOver (v.full.length + 1) k (ack s)

/-- An accept bitmap (R399). -/
def State.onAccept (s : State) (p : Nat) (m : Msg) : State :=
  match s.coll m.group m.seq, tget s.trace.groups m.group.toNat with
  | some c, some g =>
    let n := (c.keysTo g.members.length m.rank).length
    if c.kind != 6 || g.members[m.rank]? != some m.src || m.data.length != (n + 7) / 8 then s.portViolation p 9
    else if c.accepts.any fun a => a.1 = m.rank then s
    else
      let bits := (List.range n).map fun i => ((m.data[i / 8]?).getD 0#8).getLsbD (i % 8)
      s.modColl c.wid fun c => { c with accepts := c.accepts ++ [(m.rank, bits)] }
  | _, _ => s.portViolation p 9

/-- What a message does by its KIND (Table 11-3). -/
def State.onMsg (s : State) (p : Nat) (m : Msg) : State :=
  match m.kind with
  | 0 => s.onChunk p m
  | 1 => s.takeGrant p m
  | 2 => s.onDone m
  | 3 => s.onAbort m
  | 4 => s.onWindow p m
  | 5 => s.takeKeys p m
  | _ => s.onAccept p m

/-- A message of a kind arrives on a port, not detoured. -/
def arrives (p : Nat) (m : Msg) (kind : Nat) (s : State) : Host.Outcome State Fault Refusal :=
  let m := { m with kind := kind, fwd := false }
  event (s.receive p m fun s => s.onMsg p m)

/-- CHUNK (R387, R392). -/
def execChunk (p : Nat) (m : Msg) (s : State) : Host.Outcome State Fault Refusal := arrives p m 0 s

/-- GRANT (R394). -/
def execGrant (p : Nat) (m : Msg) (s : State) : Host.Outcome State Fault Refusal := arrives p m 1 s

/-- DONE (R387). -/
def execDone (p : Nat) (m : Msg) (s : State) : Host.Outcome State Fault Refusal := arrives p m 2 s

/-- ABORT (R397). -/
def execAbort (p : Nat) (m : Msg) (s : State) : Host.Outcome State Fault Refusal := arrives p m 3 s

/-- WINDOW_MESSAGE (R402, R403). -/
def execWindowMessage (p : Nat) (m : Msg) (s : State) : Host.Outcome State Fault Refusal := arrives p m 4 s

/-- DISPATCH_KEYS (R399). -/
def execDispatchKeys (p : Nat) (m : Msg) (s : State) : Host.Outcome State Fault Refusal := arrives p m 5 s

/-- DISPATCH_ACCEPT (R399). -/
def execDispatchAccept (p : Nat) (m : Msg) (s : State) : Host.Outcome State Fault Refusal := arrives p m 6 s

/-- FORWARDED (R386): a detoured message is passed on, or is what its KIND says at its destination. -/
def execForwarded (p : Nat) (m : Msg) (s : State) : Host.Outcome State Fault Refusal :=
  let m := { m with fwd := true }
  event (s.receive p m fun s => s.passOn m fun s => s.onMsg p m)

/-! ### Grants and timeouts (R394, R397, R398, R402) -/

/-- GRANT_ISSUE (R394). -/
def execGrantIssue (group seq : Nat) (s : State) : Host.Outcome State Fault Refusal :=
  event (match s.coll (BitVec.ofNat 32 group) seq, tget s.trace.groups group with
    | some c, some g => s.issueGrant c g
    | _, _ => s)

/-- GRANT_REISSUE (R394): a refused grant is granted again 1 ms later. -/
def execGrantReissue (group seq rank : Nat) (s : State) : Host.Outcome State Fault Refusal :=
  event (match s.coll (BitVec.ofNat 32 group) seq, tget s.trace.groups group with
    | some c, some g =>
      match c.reissue.find? fun x => x.1 = rank with
      | none => s
      | some r =>
        let s := (s.reach r.2.2).modColl c.wid fun c => { c with
          reissue := c.reissue.erase r, grantsOut := c.grantsOut.filter (fun q => q != (r.1, r.2.1)),
          inSlots := c.inSlots.filter fun q => (q.1, q.2.1) != (r.1, r.2.1) }
        if r.2.1 = joinChunk then s.sendJoin c g rank
        else match (s.inX c g rank).find? fun x => x.chunk = r.2.1 with
        | some x => s.sendGrant c g rank x
        | none => s
    | _, _ => s)

/-- COLLECTIVE_TIMEOUT (R397): an operation's, or that of a mooring group of the number (R426, R437). -/
def execCollectiveTimeout (group seq : Nat) (s : State) : Host.Outcome State Fault Refusal :=
  event (match s.coll (BitVec.ofNat 32 group) seq with
    | some c => (s.reach c.deadline).abortColl c stCollectiveTimeout
    | none => s.moorTimeout group)

/-- SEND_TIMEOUT (R402): no route and no admitted port within the timeout. -/
def execSendTimeout (w : BitVec 64) (s : State) : Host.Outcome State Fault Refusal :=
  event (match s.trace.sends.find? fun x => x.wid = w with
    | none => s
    | some x =>
      if !s.trace.queue.any fun y => y.wid = w then s
      else
        let s := s.reach x.deadline
        let s : State := { s with trace := { s.trace with
          sends := s.trace.sends.filter fun y => y.wid != w, queue := s.trace.queue.filter fun y => y.wid != w } }
        s.complete w stPeerUnreachable)

end Sys2Proof.Machine
end

