-- ==== Sys2Proof/Machine/Teardown.lean ====
section
/-! DEFINITION. PADDOCK_DESTROY (R68, R201) and the reset of a faulty engine (R201, R202). -/

namespace Sys2Proof.Machine

open Sys2Proof

/-! ### PADDOCK_DESTROY (R68) -/

/-- Step 1: the session of the paddock closes, and what has not been dispatched completes with ST_SESSION_CLOSED. -/
def State.closeAway (s : State) (f : Nat) : State :=
  let gone := s.undispatched fun j => ringFn j.ring = f && j.session != 0#32
  (s.modFn f fun x => { x with session := none }).completeAll (gone.map (·.wid)) stSessionClosed

/-- The dispatched commands of a function that wait for something the destruction takes away; a NOP's delay and a
close run to their own outcome. -/
def State.lostWaits (s : State) (f : Nat) : List (BitVec 64) :=
  (s.waits.filter fun (x : Wait) =>
    (match s.jrec x.wid with | some j => ringFn j.ring = f | none => false) &&
    match x.kind with
    | .nop _ => false
    | .close _ _ => false
    | _ => true).map (·.wid)

/-- The generation of a paddock stops: waiting commands, loops, and every entry, cancelled without a record (R288). -/
def State.cancelGen (s : State) (p : Nat) : State :=
  let mine := (s.gen.models.filter fun (m : Nat × Model) => m.2.paddock = p).map (·.1)
  let cmds := s.gen.cmds.filter fun (c : SeqCmd) => mine.contains c.model
  let s := s.completeAll (cmds.map (·.wid)) stCancelled
  let s : State := { s with gen := { s.gen with cmds := s.gen.cmds.filter fun (c : SeqCmd) => !mine.contains c.model } }
  let s := mine.foldl (fun s m => s.endLoop m stCancelled) s
  let s := (s.gen.manifest.filter fun (e : Nat × Entry) => e.2.paddock = p).foldl
    (fun s e => (s.terminate e.1 .cancelled stCancelled false).freeEntry e.1) s
  let s := mine.foldl (fun s m => s.dropModel m) s
  { s with gen := { s.gen with
    adapters := s.gen.adapters.filter fun (a : Nat × Adapter) => a.2.paddock != p
    rings := s.gen.rings.filter fun (r : Nat × RRing) => r.2.paddock != p } }

/-- The streams of a paddock stop: its engines and programs, then its barriers, and the streams are freed. -/
def State.cancelStreams (s : State) (p : Nat) : State :=
  let mine := (s.streams.filter fun (e : Nat × Stream) => e.2.paddock = p).map (·.1)
  let s := (s.basin.binds.filter fun (b : Bind) => mine.contains b.handle).foldl
    (fun s b => s.resetBind b.wid stCancelled) s
  let s := (s.nvwProgs.filter fun (q : NvwProg) => ((tget s.allocs q.region).map (·.owner)) = some p).foldl
    (fun s q => s.endProg q stCancelled) s
  let s := (s.barriers.filter fun (e : Nat × Barrier) => e.2.paddock = p).foldl (fun s e => s.destroyBarrier e.1 e.2) s
  mine.foldl (fun s h => (s.abortStream h).freeStream h) s

/-- The learning of a paddock stops: its sweeps at span boundaries, and its sets are freed. -/
def State.cancelLearn (s : State) (p : Nat) : State :=
  let s := (s.learn.sets.filter fun (e : Nat × LSet) => e.2.paddock = p && e.2.state = .sweeping).foldl (fun s e =>
    let s := s.interruptSweep e.1
    s.complete e.2.sweepBy stCancelled (((s.jrec e.2.sweepBy).map (·.progress)).getD 0#64)) s
  { s with learn := { s.learn with
    sets := s.learn.sets.filter fun (e : Nat × LSet) => e.2.paddock != p
    micros := s.learn.micros.filter fun (e : Nat × Micro) => e.2.paddock != p } }

/-- The collectives and messages of a paddock stop; peers of its groups complete with ST_MEMBER_LOST (Table 11-12), and
its mooring groups are destroyed here (Table 12-10). -/
def State.cancelTraces (s : State) (p : Nat) : State :=
  let gs := s.trace.groups.filter fun (g : Nat × TGroup) => g.2.paddock = some p
  let s := gs.foldl (fun s g => (s.endGroupOps g.1 stCancelled).dropGroup g.1 g.2) s
  let sends := (s.trace.sends.filter fun (x : Send) => x.paddock = p).map (·.wid)
  let recvs := (s.trace.windows.filter fun (w : Nat × Window) => w.2.paddock = p).flatMap fun w => w.2.recvs
  let s := s.completeAll (sends ++ recvs) stCancelled
  let s : State := { s with trace := { s.trace with
    sends := s.trace.sends.filter fun (x : Send) => x.paddock != p
    queue := s.trace.queue.filter fun (y : TMsg) => !sends.contains y.wid
    windows := s.trace.windows.filter fun (w : Nat × Window) => w.2.paddock != p } }
  let s := (s.moors.filter fun (m : Nat × Moor) => m.2.paddock = p).foldl
    (fun s m => (s.endMoorCmds m.1 stCancelled).dropMoor m.1 m.2) s
  (s.rein.layouts.filter fun (l : Nat × Layout) => l.2.paddock = p).foldl (fun s l => s.dropLayout l.1 l.2) s

/-- Steps 2 and 3: everything that the paddock runs ends with ST_CANCELLED, and its entries are cancelled. -/
def State.cancelWork (s : State) (p : Nat) : State :=
  let s := (s.completeAll (s.lostWaits (p + 1)) stCancelled).cancelGen p
  let s := (s.tasks.filter fun (e : BitVec 64 × Task) => e.2.paddock = p).foldl
    (fun s e => s.finishTask e.1 .aborted stCancelled 0#32) s
  let s := (s.quays.filter fun (q : Nat × Quay) => q.2.paddock = p).foldl (fun s q => s.stopQuay q.1 stCancelled) s
  let s : State := { s with quays := s.quays.filter fun (q : Nat × Quay) => q.2.paddock != p }
  let s := ((s.cancelTraces p).cancelLearn p).cancelStreams p
  { s with kernels := s.kernels.filter fun (k : Nat × Kernel) => k.2.paddock != p }

/-- Step 4: every allocation is released but the private NVW regions, which stay DETACHED (R237); the XTS key and the
allotment go with the paddock, and what outcomes the function still held is discarded (R52, R69). -/
def State.releasePaddock (s : State) (p : Nat) : State :=
  let mine := (s.allocs.filter fun (e : Nat × Alloc) => e.2.owner = p && e.2.tier != .nvw).map (·.1)
  let zero := s.hbm.zeroing.filter fun (z : Zeroing) => ((s.allocAt z.addr).map (·.2.owner)) = some p
  let s : State := { s with hbm := { s.hbm with
    zeroing := s.hbm.zeroing.filter fun (z : Zeroing) => !zero.contains z } }
  let s := (s.completeAll (zero.map (·.wid)) stCancelled).releaseAll mine
  let s : State := { s with
    paddocks := tdel s.paddocks p
    allocs := s.allocs.map fun (e : Nat × Alloc) =>
      (e.1, if e.2.owner = p && e.2.tier = .nvw then { e.2 with nvw := .detached } else e.2) }
  s.takeOutcomes (p + 1) (s.fn (p + 1)).outcomes

/-- PADDOCK_DESTROY of either level (R68). A record that a warm reset replays after its paddock has gone is done. -/
def State.paddockDestroy (s : State) (c : Cmd) (zeroing : Bool) : Except Err State := do
  let p := c.u32 0
  let again := match s.jrec c.w with | some j => j.replayed | none => false
  if !thas s.paddocks p then (if again then .ok (s.ok c) else fail stBadParam)
  else
    let s1 := ((s.closeAway (p + 1)).cancelWork p).releasePaddock p
    if zeroing then .ok (s1.wait c.w (.destroyZero p)) else .ok (s1.ok c)

/-- PADDOCK_DESTROY. -/
def paddockDestroyBody (c : Cmd) (s : State) : Except Err State := s.paddockDestroy c false

/-- PADDOCK_DESTROY, expert: with bit 32 it completes after zeroing. -/
def paddockDestroyExpertBody (c : Cmd) (s : State) : Except Err State := s.paddockDestroy c (c.flag 4)

/-! ### ENGINE_FAULT_RESET (R201, R202) -/

/-- Whether a bind's transfer lies on a parking-tier device. -/
def State.bindOn (s : State) (b : Bind) (d : Nat) : Bool :=
  !b.host && match s.allocAt b.addr with
    | some e => e.2.tier = .park && e.2.dev.contains d
    | none => false

/-- The CXL controller of a device is reset: its requests in flight are dropped and its transfers fail (R202). -/
def State.resetCxl (s : State) (d : Nat) : State :=
  let s : State := { s with basin := { s.basin with tags := s.basin.tags.map fun (t : TagReq) =>
    if t.park && t.dev = d then { t with dropped := true } else t } }
  (s.basin.binds.filter fun (b : Bind) => s.bindOn b d).foldl (fun s b => s.resetBind b.wid stMasterReset) s

/-- The Trace port of a TRACE_SEND is reset: what it has not sent is discarded, and the command fails (R201, R202). -/
def State.resetSend (s : State) (w : BitVec 64) : State :=
  if !s.trace.sends.any fun (x : Send) => x.wid = w then s
  else
    ({ s with trace := { s.trace with
      sends := s.trace.sends.filter fun (x : Send) => x.wid != w
      queue := s.trace.queue.filter fun (y : TMsg) => y.wid != w } } : State).complete w stMasterReset

/-- A faulty engine is reset: its work item ends with ST_MASTER_RESET (R201, R202). -/
def State.resetEngine (s : State) (u : EngineUnit) : State :=
  match u with
  | .bind w =>
    match s.nvwProgs.find? fun (q : NvwProg) => q.wid = w with
    | some q => s.resetProg q stMasterReset
    | none => s.resetBind w stMasterReset
  | .coll w =>
    match s.collOf w with
    | some c => s.abortColl c stMasterReset
    | none => s
  | .send w => s.resetSend w
  | .cxl d => s.resetCxl d
  | .quay => s.quays.foldl (fun s (q : Nat × Quay) =>
      if q.2.ended.isSome then s else (s.resetEnd fun e => e = .quay q.1).stopQuay q.1 stMasterReset) s

/-- ENGINE_FAULT_RESET (R201, R202). -/
def execEngineFaultReset (u : EngineUnit) (s : State) : Host.Outcome State Fault Refusal := event (s.resetEngine u)

end Sys2Proof.Machine
end

