-- ==== Sys2Proof/Machine/Commands.lean ====
section
/-! DEFINITION. The meanings of the slot commands: each is dispatched under its own opcode (R49, R58) and runs its own
body, which stands with its family. -/

namespace Sys2Proof.Machine

open Sys2Proof

/-- PART_IDENTIFY (R77), opcode 0x0001. -/
def execPartIdentify (w : BitVec 64) (s : State) :
    Host.Outcome State Fault Refusal := run 0x0001 w [] s partIdentifyBody

/-- PART_IDENTIFY_EXPERT (R77), opcode 0x0081. -/
def execPartIdentifyExpert (w : BitVec 64) (s : State) :
    Host.Outcome State Fault Refusal := run 0x0081 w [] s partIdentifyExpertBody

/-- SESSION_CHALLENGE (R61), opcode 0x0002. -/
def execSessionChallenge (w : BitVec 64) (s : State) :
    Host.Outcome State Fault Refusal := run 0x0002 w [] s sessionChallengeBody

/-- SESSION_CHALLENGE_EXPERT (R61), opcode 0x0082. -/
def execSessionChallengeExpert (w : BitVec 64) (s : State) :
    Host.Outcome State Fault Refusal := run 0x0082 w [] s sessionChallengeExpertBody

/-- SESSION_OPEN (R61), opcode 0x0003. -/
def execSessionOpen (w : BitVec 64) (s : State) :
    Host.Outcome State Fault Refusal := run 0x0003 w [] s sessionOpenBody

/-- SESSION_OPEN_EXPERT (R61), opcode 0x0083. -/
def execSessionOpenExpert (w : BitVec 64) (s : State) :
    Host.Outcome State Fault Refusal := run 0x0083 w [] s sessionOpenExpertBody

/-- SESSION_CLOSE (R65), opcode 0x0004. -/
def execSessionClose (w : BitVec 64) (s : State) :
    Host.Outcome State Fault Refusal := run 0x0004 w [] s sessionCloseBody

/-- SESSION_CLOSE_EXPERT (R65), opcode 0x0084. -/
def execSessionCloseExpert (w : BitVec 64) (s : State) :
    Host.Outcome State Fault Refusal := run 0x0084 w [] s sessionCloseExpertBody

/-- CMD_CANCEL (R75), opcode 0x0005. -/
def execCmdCancel (w : BitVec 64) (s : State) :
    Host.Outcome State Fault Refusal := run 0x0005 w [] s cmdCancelBody

/-- CMD_CANCEL_EXPERT (R75), opcode 0x0085. -/
def execCmdCancelExpert (w : BitVec 64) (s : State) :
    Host.Outcome State Fault Refusal := run 0x0085 w [] s cmdCancelExpertBody

/-- WORK_QUERY (R69), opcode 0x0006. -/
def execWorkQuery (w : BitVec 64) (s : State) :
    Host.Outcome State Fault Refusal := run 0x0006 w [] s workQueryBody

/-- WORK_QUERY_EXPERT (R69), opcode 0x0086. -/
def execWorkQueryExpert (w : BitVec 64) (s : State) :
    Host.Outcome State Fault Refusal := run 0x0086 w [] s workQueryExpertBody

/-- NOP (R77), opcode 0x0007. -/
def execNop (w : BitVec 64) (s : State) :
    Host.Outcome State Fault Refusal := run 0x0007 w [] s nopBody

/-- NOP_EXPERT (R77), opcode 0x0087. -/
def execNopExpert (w : BitVec 64) (s : State) :
    Host.Outcome State Fault Refusal := run 0x0087 w [] s nopExpertBody

/-- PADDOCK_CREATE (R66), opcode 0x0010. -/
def execPaddockCreate (w : BitVec 64) (s : State) :
    Host.Outcome State Fault Refusal := run 0x0010 w [] s paddockCreateBody

/-- PADDOCK_CREATE_EXPERT (R79), opcode 0x0090. -/
def execPaddockCreateExpert (w : BitVec 64) (s : State) :
    Host.Outcome State Fault Refusal := run 0x0090 w [] s paddockCreateExpertBody

/-- PADDOCK_MODIFY (R68), opcode 0x0011. -/
def execPaddockModify (w : BitVec 64) (s : State) :
    Host.Outcome State Fault Refusal := run 0x0011 w [] s paddockModifyBody

/-- PADDOCK_MODIFY_EXPERT (R79), opcode 0x0091. -/
def execPaddockModifyExpert (w : BitVec 64) (s : State) :
    Host.Outcome State Fault Refusal := run 0x0091 w [] s paddockModifyExpertBody

/-- PADDOCK_DESTROY (R68), opcode 0x0012. -/
def execPaddockDestroy (w : BitVec 64) (s : State) :
    Host.Outcome State Fault Refusal := run 0x0012 w [] s paddockDestroyBody

/-- PADDOCK_DESTROY_EXPERT (R68), opcode 0x0092. -/
def execPaddockDestroyExpert (w : BitVec 64) (s : State) :
    Host.Outcome State Fault Refusal := run 0x0092 w [] s paddockDestroyExpertBody

/-- PADDOCK_QUERY (R77), opcode 0x0013. -/
def execPaddockQuery (w : BitVec 64) (s : State) :
    Host.Outcome State Fault Refusal := run 0x0013 w [] s paddockQueryBody

/-- PADDOCK_QUERY_EXPERT (R77), opcode 0x0093. -/
def execPaddockQueryExpert (w : BitVec 64) (s : State) :
    Host.Outcome State Fault Refusal := run 0x0093 w [] s paddockQueryExpertBody

/-- PADDOCK_KEY_SET (R78), opcode 0x0014. -/
def execPaddockKeySet (w : BitVec 64) (s : State) :
    Host.Outcome State Fault Refusal := run 0x0014 w [] s paddockKeySetBody

/-- PADDOCK_KEY_SET_EXPERT (R78), opcode 0x0094. -/
def execPaddockKeySetExpert (w : BitVec 64) (s : State) :
    Host.Outcome State Fault Refusal := run 0x0094 w [] s paddockKeySetExpertBody

/-- KERNEL_LOAD (R152), opcode 0x0201. -/
def execKernelLoad (w : BitVec 64) (hm : HostImage) (s : State) :
    Host.Outcome State Fault Refusal := run 0x0201 w hm s kernelLoadBody

/-- KERNEL_LOAD_EXPERT (R152), opcode 0x0281. -/
def execKernelLoadExpert (w : BitVec 64) (hm : HostImage) (s : State) :
    Host.Outcome State Fault Refusal := run 0x0281 w hm s kernelLoadExpertBody

/-- KERNEL_UNLOAD (R170), opcode 0x0202. -/
def execKernelUnload (w : BitVec 64) (s : State) :
    Host.Outcome State Fault Refusal := run 0x0202 w [] s kernelUnloadBody

/-- KERNEL_UNLOAD_EXPERT (R170), opcode 0x0282. -/
def execKernelUnloadExpert (w : BitVec 64) (s : State) :
    Host.Outcome State Fault Refusal := run 0x0282 w [] s kernelUnloadExpertBody

/-- TASK_LAUNCH (R171), opcode 0x0203. -/
def execTaskLaunch (w : BitVec 64) (hm : HostImage) (s : State) :
    Host.Outcome State Fault Refusal := run 0x0203 w hm s taskLaunchBody

/-- TASK_LAUNCH_EXPERT (R154), opcode 0x0283. -/
def execTaskLaunchExpert (w : BitVec 64) (hm : HostImage) (s : State) :
    Host.Outcome State Fault Refusal := run 0x0283 w hm s taskLaunchExpertBody

/-- TASK_ABORT (R169), opcode 0x0204. -/
def execTaskAbort (w : BitVec 64) (s : State) :
    Host.Outcome State Fault Refusal := run 0x0204 w [] s taskAbortBody

/-- TASK_ABORT_EXPERT (R169), opcode 0x0284. -/
def execTaskAbortExpert (w : BitVec 64) (s : State) :
    Host.Outcome State Fault Refusal := run 0x0284 w [] s taskAbortExpertBody

/-- TASK_PREEMPT (R157), opcode 0x0205. -/
def execTaskPreempt (w : BitVec 64) (s : State) :
    Host.Outcome State Fault Refusal := run 0x0205 w [] s taskPreemptBody

/-- TASK_PREEMPT_EXPERT (R158), opcode 0x0285. -/
def execTaskPreemptExpert (w : BitVec 64) (s : State) :
    Host.Outcome State Fault Refusal := run 0x0285 w [] s taskPreemptExpertBody

/-- TASK_RESUME (R164), opcode 0x0206. -/
def execTaskResume (w : BitVec 64) (s : State) :
    Host.Outcome State Fault Refusal := run 0x0206 w [] s taskResumeBody

/-- TASK_RESUME_EXPERT (R164), opcode 0x0286. -/
def execTaskResumeExpert (w : BitVec 64) (s : State) :
    Host.Outcome State Fault Refusal := run 0x0286 w [] s taskResumeExpertBody

/-- TASK_QUERY (R170), opcode 0x0207. -/
def execTaskQuery (w : BitVec 64) (s : State) :
    Host.Outcome State Fault Refusal := run 0x0207 w [] s taskQueryBody

/-- TASK_QUERY_EXPERT (R170), opcode 0x0287. -/
def execTaskQueryExpert (w : BitVec 64) (s : State) :
    Host.Outcome State Fault Refusal := run 0x0287 w [] s taskQueryExpertBody

/-- TEAM_QUERY (R170), opcode 0x0208. -/
def execTeamQuery (w : BitVec 64) (s : State) :
    Host.Outcome State Fault Refusal := run 0x0208 w [] s teamQueryBody

/-- TEAM_QUERY_EXPERT (R170), opcode 0x0288. -/
def execTeamQueryExpert (w : BitVec 64) (s : State) :
    Host.Outcome State Fault Refusal := run 0x0288 w [] s teamQueryExpertBody

/-- RNG_FILL (R143), opcode 0x0B01. -/
def execRngFill (w : BitVec 64) (s : State) :
    Host.Outcome State Fault Refusal := run 0x0B01 w [] s rngFillBody

/-- RNG_FILL_EXPERT (R143), opcode 0x0B81. -/
def execRngFillExpert (w : BitVec 64) (hm : HostImage) (s : State) :
    Host.Outcome State Fault Refusal := run 0x0B81 w hm s rngFillExpertBody

/-- RNG_LANE_STATE (R145), opcode 0x0B03. -/
def execRngLaneState (w : BitVec 64) (s : State) :
    Host.Outcome State Fault Refusal := run 0x0B03 w [] s rngLaneStateBody

/-- RNG_LANE_STATE_EXPERT (R145), opcode 0x0B83. -/
def execRngLaneStateExpert (w : BitVec 64) (hm : HostImage) (s : State) :
    Host.Outcome State Fault Refusal := run 0x0B83 w hm s rngLaneStateExpertBody

/-- STREAM_OPEN (R206), opcode 0x0C01. -/
def execStreamOpen (w : BitVec 64) (s : State) :
    Host.Outcome State Fault Refusal := run 0x0C01 w [] s streamOpenBody

/-- STREAM_OPEN_EXPERT (R206), opcode 0x0C81. -/
def execStreamOpenExpert (w : BitVec 64) (s : State) :
    Host.Outcome State Fault Refusal := run 0x0C81 w [] s streamOpenExpertBody

/-- STREAM_BIND (R207), opcode 0x0C02. -/
def execStreamBind (w : BitVec 64) (s : State) :
    Host.Outcome State Fault Refusal := run 0x0C02 w [] s streamBindBody

/-- STREAM_BIND_EXPERT (R207), opcode 0x0C82. -/
def execStreamBindExpert (w : BitVec 64) (s : State) :
    Host.Outcome State Fault Refusal := run 0x0C82 w [] s streamBindExpertBody

/-- STREAM_CLOSE (R206), opcode 0x0C03. -/
def execStreamClose (w : BitVec 64) (s : State) :
    Host.Outcome State Fault Refusal := run 0x0C03 w [] s streamCloseBody

/-- STREAM_CLOSE_EXPERT (R206), opcode 0x0C83. -/
def execStreamCloseExpert (w : BitVec 64) (s : State) :
    Host.Outcome State Fault Refusal := run 0x0C83 w [] s streamCloseExpertBody

/-- STREAM_ABORT (R185), opcode 0x0C04. -/
def execStreamAbort (w : BitVec 64) (s : State) :
    Host.Outcome State Fault Refusal := run 0x0C04 w [] s streamAbortBody

/-- STREAM_ABORT_EXPERT (R185), opcode 0x0C84. -/
def execStreamAbortExpert (w : BitVec 64) (s : State) :
    Host.Outcome State Fault Refusal := run 0x0C84 w [] s streamAbortExpertBody

/-- STREAM_QUERY (R208), opcode 0x0C05. -/
def execStreamQuery (w : BitVec 64) (s : State) :
    Host.Outcome State Fault Refusal := run 0x0C05 w [] s streamQueryBody

/-- STREAM_QUERY_EXPERT (R208), opcode 0x0C85. -/
def execStreamQueryExpert (w : BitVec 64) (s : State) :
    Host.Outcome State Fault Refusal := run 0x0C85 w [] s streamQueryExpertBody

/-- STREAM_FREE (R182), opcode 0x0C06. -/
def execStreamFree (w : BitVec 64) (s : State) :
    Host.Outcome State Fault Refusal := run 0x0C06 w [] s streamFreeBody

/-- STREAM_FREE_EXPERT (R182), opcode 0x0C86. -/
def execStreamFreeExpert (w : BitVec 64) (s : State) :
    Host.Outcome State Fault Refusal := run 0x0C86 w [] s streamFreeExpertBody

/-- STREAM_REARM (R186), opcode 0x0C07. -/
def execStreamRearm (w : BitVec 64) (s : State) :
    Host.Outcome State Fault Refusal := run 0x0C07 w [] s streamRearmBody

/-- STREAM_REARM_EXPERT (R186), opcode 0x0C87. -/
def execStreamRearmExpert (w : BitVec 64) (s : State) :
    Host.Outcome State Fault Refusal := run 0x0C87 w [] s streamRearmExpertBody

/-- BARRIER_CREATE (R194), opcode 0x0C08. -/
def execBarrierCreate (w : BitVec 64) (s : State) :
    Host.Outcome State Fault Refusal := run 0x0C08 w [] s barrierCreateBody

/-- BARRIER_CREATE_EXPERT (R196), opcode 0x0C88. -/
def execBarrierCreateExpert (w : BitVec 64) (s : State) :
    Host.Outcome State Fault Refusal := run 0x0C88 w [] s barrierCreateExpertBody

/-- BARRIER_ARRIVE (R194), opcode 0x0C09. -/
def execBarrierArrive (w : BitVec 64) (s : State) :
    Host.Outcome State Fault Refusal := run 0x0C09 w [] s barrierArriveBody

/-- BARRIER_ARRIVE_EXPERT (R194), opcode 0x0C89. -/
def execBarrierArriveExpert (w : BitVec 64) (s : State) :
    Host.Outcome State Fault Refusal := run 0x0C89 w [] s barrierArriveExpertBody

/-- BARRIER_DESTROY (R197), opcode 0x0C0A. -/
def execBarrierDestroy (w : BitVec 64) (s : State) :
    Host.Outcome State Fault Refusal := run 0x0C0A w [] s barrierDestroyBody

/-- BARRIER_DESTROY_EXPERT (R197), opcode 0x0C8A. -/
def execBarrierDestroyExpert (w : BitVec 64) (s : State) :
    Host.Outcome State Fault Refusal := run 0x0C8A w [] s barrierDestroyExpertBody

/-- BASIN_QUERY (R206), opcode 0x0C0B. -/
def execBasinQuery (w : BitVec 64) (s : State) :
    Host.Outcome State Fault Refusal := run 0x0C0B w [] s basinQueryBody

/-- BASIN_QUERY_EXPERT (R206), opcode 0x0C8B. -/
def execBasinQueryExpert (w : BitVec 64) (s : State) :
    Host.Outcome State Fault Refusal := run 0x0C8B w [] s basinQueryExpertBody

/-- MEM_ALLOC (R215), opcode 0x0101. -/
def execMemAlloc (w : BitVec 64) (s : State) :
    Host.Outcome State Fault Refusal := run 0x0101 w [] s memAllocBody

/-- MEM_ALLOC_EXPERT (R210), opcode 0x0181. -/
def execMemAllocExpert (w : BitVec 64) (s : State) :
    Host.Outcome State Fault Refusal := run 0x0181 w [] s memAllocExpertBody

/-- MEM_FREE (R245), opcode 0x0102. -/
def execMemFree (w : BitVec 64) (s : State) :
    Host.Outcome State Fault Refusal := run 0x0102 w [] s memFreeBody

/-- MEM_FREE_EXPERT (R245), opcode 0x0182. -/
def execMemFreeExpert (w : BitVec 64) (s : State) :
    Host.Outcome State Fault Refusal := run 0x0182 w [] s memFreeExpertBody

/-- MEM_QUERY (R245), opcode 0x0103. -/
def execMemQuery (w : BitVec 64) (s : State) :
    Host.Outcome State Fault Refusal := run 0x0103 w [] s memQueryBody

/-- MEM_QUERY_EXPERT (R245), opcode 0x0183. -/
def execMemQueryExpert (w : BitVec 64) (s : State) :
    Host.Outcome State Fault Refusal := run 0x0183 w [] s memQueryExpertBody

/-- MEM_FILL (R245), opcode 0x0104. -/
def execMemFill (w : BitVec 64) (s : State) :
    Host.Outcome State Fault Refusal := run 0x0104 w [] s memFillBody

/-- MEM_FILL_EXPERT (R245), opcode 0x0184. -/
def execMemFillExpert (w : BitVec 64) (s : State) :
    Host.Outcome State Fault Refusal := run 0x0184 w [] s memFillExpertBody

/-- MEM_MAPOUT (R227), opcode 0x0105. -/
def execMemMapout (w : BitVec 64) (s : State) :
    Host.Outcome State Fault Refusal := run 0x0105 w [] s memMapoutBody

/-- MEM_MAPOUT_EXPERT (R228), opcode 0x0185. -/
def execMemMapoutExpert (w : BitVec 64) (s : State) :
    Host.Outcome State Fault Refusal := run 0x0185 w [] s memMapoutExpertBody

/-- NVW_PROGRAM (R232), opcode 0x0106. -/
def execNvwProgram (w : BitVec 64) (s : State) :
    Host.Outcome State Fault Refusal := run 0x0106 w [] s nvwProgramBody

/-- NVW_PROGRAM_EXPERT (R232), opcode 0x0186. -/
def execNvwProgramExpert (w : BitVec 64) (s : State) :
    Host.Outcome State Fault Refusal := run 0x0186 w [] s nvwProgramExpertBody

/-- NVW_SEAL (R235), opcode 0x0107. -/
def execNvwSeal (w : BitVec 64) (s : State) :
    Host.Outcome State Fault Refusal := run 0x0107 w [] s nvwSealBody

/-- NVW_SEAL_EXPERT (R235), opcode 0x0187. -/
def execNvwSealExpert (w : BitVec 64) (hm : HostImage) (s : State) :
    Host.Outcome State Fault Refusal := run 0x0187 w hm s nvwSealExpertBody

/-- NVW_ERASE (R245), opcode 0x0108. -/
def execNvwErase (w : BitVec 64) (s : State) :
    Host.Outcome State Fault Refusal := run 0x0108 w [] s nvwEraseBody

/-- NVW_ERASE_EXPERT (R245), opcode 0x0188. -/
def execNvwEraseExpert (w : BitVec 64) (s : State) :
    Host.Outcome State Fault Refusal := run 0x0188 w [] s nvwEraseExpertBody

/-- NVW_GRANT (R236), opcode 0x0109. -/
def execNvwGrant (w : BitVec 64) (s : State) :
    Host.Outcome State Fault Refusal := run 0x0109 w [] s nvwGrantBody

/-- NVW_GRANT_EXPERT (R236), opcode 0x0189. -/
def execNvwGrantExpert (w : BitVec 64) (s : State) :
    Host.Outcome State Fault Refusal := run 0x0189 w [] s nvwGrantExpertBody

/-- NVW_QUERY (R245), opcode 0x010A. -/
def execNvwQuery (w : BitVec 64) (s : State) :
    Host.Outcome State Fault Refusal := run 0x010A w [] s nvwQueryBody

/-- NVW_QUERY_EXPERT (R245), opcode 0x018A. -/
def execNvwQueryExpert (w : BitVec 64) (s : State) :
    Host.Outcome State Fault Refusal := run 0x018A w [] s nvwQueryExpertBody

/-- PARK_QUERY (R245), opcode 0x010B. -/
def execParkQuery (w : BitVec 64) (s : State) :
    Host.Outcome State Fault Refusal := run 0x010B w [] s parkQueryBody

/-- MEM_TELEMETRY (R226), opcode 0x010D. -/
def execMemTelemetry (w : BitVec 64) (s : State) :
    Host.Outcome State Fault Refusal := run 0x010D w [] s memTelemetryBody

/-- MEM_TELEMETRY_EXPERT (R226), opcode 0x018D. -/
def execMemTelemetryExpert (w : BitVec 64) (s : State) :
    Host.Outcome State Fault Refusal := run 0x018D w [] s memTelemetryExpertBody

/-- GEN_MODEL_REGISTER (R247), opcode 0x0301. -/
def execGenModelRegister (w : BitVec 64) (hm : HostImage) (s : State) :
    Host.Outcome State Fault Refusal := run 0x0301 w hm s genModelRegisterBody

/-- GEN_MODEL_REGISTER_EXPERT (R247), opcode 0x0381. -/
def execGenModelRegisterExpert (w : BitVec 64) (hm : HostImage) (s : State) :
    Host.Outcome State Fault Refusal := run 0x0381 w hm s genModelRegisterExpertBody

/-- GEN_MODEL_RELEASE (R249), opcode 0x0302. -/
def execGenModelRelease (w : BitVec 64) (s : State) :
    Host.Outcome State Fault Refusal := run 0x0302 w [] s genModelReleaseBody

/-- GEN_MODEL_RELEASE_EXPERT (R249), opcode 0x0382. -/
def execGenModelReleaseExpert (w : BitVec 64) (s : State) :
    Host.Outcome State Fault Refusal := run 0x0382 w [] s genModelReleaseExpertBody

/-- GEN_ADAPTER_LOAD (R251), opcode 0x0303. -/
def execGenAdapterLoad (w : BitVec 64) (s : State) :
    Host.Outcome State Fault Refusal := run 0x0303 w [] s genAdapterLoadBody

/-- GEN_ADAPTER_LOAD_EXPERT (R251), opcode 0x0383. -/
def execGenAdapterLoadExpert (w : BitVec 64) (s : State) :
    Host.Outcome State Fault Refusal := run 0x0383 w [] s genAdapterLoadExpertBody

/-- GEN_ADAPTER_UNLOAD (R251), opcode 0x0304. -/
def execGenAdapterUnload (w : BitVec 64) (s : State) :
    Host.Outcome State Fault Refusal := run 0x0304 w [] s genAdapterUnloadBody

/-- GEN_ADAPTER_UNLOAD_EXPERT (R251), opcode 0x0384. -/
def execGenAdapterUnloadExpert (w : BitVec 64) (s : State) :
    Host.Outcome State Fault Refusal := run 0x0384 w [] s genAdapterUnloadExpertBody

/-- GEN_RING_CREATE (R273), opcode 0x0305. -/
def execGenRingCreate (w : BitVec 64) (s : State) :
    Host.Outcome State Fault Refusal := run 0x0305 w [] s genRingCreateBody

/-- GEN_RING_CREATE_EXPERT (R273), opcode 0x0385. -/
def execGenRingCreateExpert (w : BitVec 64) (s : State) :
    Host.Outcome State Fault Refusal := run 0x0385 w [] s genRingCreateExpertBody

/-- GEN_RING_ADVANCE (R276), opcode 0x0306. -/
def execGenRingAdvance (w : BitVec 64) (s : State) :
    Host.Outcome State Fault Refusal := run 0x0306 w [] s genRingAdvanceBody

/-- GEN_RING_ADVANCE_EXPERT (R276), opcode 0x0386. -/
def execGenRingAdvanceExpert (w : BitVec 64) (s : State) :
    Host.Outcome State Fault Refusal := run 0x0386 w [] s genRingAdvanceExpertBody

/-- GEN_LOOP_START (R257), opcode 0x0307. -/
def execGenLoopStart (w : BitVec 64) (s : State) :
    Host.Outcome State Fault Refusal := run 0x0307 w [] s genLoopStartBody

/-- GEN_LOOP_START_EXPERT (R258), opcode 0x0387. -/
def execGenLoopStartExpert (w : BitVec 64) (s : State) :
    Host.Outcome State Fault Refusal := run 0x0387 w [] s genLoopStartExpertBody

/-- GEN_LOOP_STOP (R289), opcode 0x0308. -/
def execGenLoopStop (w : BitVec 64) (s : State) :
    Host.Outcome State Fault Refusal := run 0x0308 w [] s genLoopStopBody

/-- GEN_LOOP_STOP_EXPERT (R289), opcode 0x0388. -/
def execGenLoopStopExpert (w : BitVec 64) (s : State) :
    Host.Outcome State Fault Refusal := run 0x0388 w [] s genLoopStopExpertBody

/-- GEN_ADMIT (R290), opcode 0x0309. -/
def execGenAdmit (w : BitVec 64) (hm : HostImage) (s : State) :
    Host.Outcome State Fault Refusal := run 0x0309 w hm s genAdmitBody

/-- GEN_ADMIT_EXPERT (R290), opcode 0x0389. -/
def execGenAdmitExpert (w : BitVec 64) (hm : HostImage) (s : State) :
    Host.Outcome State Fault Refusal := run 0x0389 w hm s genAdmitExpertBody

/-- GEN_CANCEL (R281), opcode 0x030A. -/
def execGenCancel (w : BitVec 64) (s : State) :
    Host.Outcome State Fault Refusal := run 0x030A w [] s genCancelBody

/-- GEN_CANCEL_EXPERT (R281), opcode 0x038A. -/
def execGenCancelExpert (w : BitVec 64) (s : State) :
    Host.Outcome State Fault Refusal := run 0x038A w [] s genCancelExpertBody

/-- GEN_PARK (R282), opcode 0x030B. -/
def execGenPark (w : BitVec 64) (s : State) :
    Host.Outcome State Fault Refusal := run 0x030B w [] s genParkBody

/-- GEN_PARK_EXPERT (R282), opcode 0x038B. -/
def execGenParkExpert (w : BitVec 64) (s : State) :
    Host.Outcome State Fault Refusal := run 0x038B w [] s genParkExpertBody

/-- GEN_RESUME (R284), opcode 0x030C. -/
def execGenResume (w : BitVec 64) (hm : HostImage) (s : State) :
    Host.Outcome State Fault Refusal := run 0x030C w hm s genResumeBody

/-- GEN_RESUME_EXPERT (R284), opcode 0x038C. -/
def execGenResumeExpert (w : BitVec 64) (hm : HostImage) (s : State) :
    Host.Outcome State Fault Refusal := run 0x038C w hm s genResumeExpertBody

/-- GEN_QUERY (R253), opcode 0x030D. -/
def execGenQuery (w : BitVec 64) (s : State) :
    Host.Outcome State Fault Refusal := run 0x030D w [] s genQueryBody

/-- GEN_QUERY_EXPERT (R253), opcode 0x038D. -/
def execGenQueryExpert (w : BitVec 64) (s : State) :
    Host.Outcome State Fault Refusal := run 0x038D w [] s genQueryExpertBody

/-- GEN_RELEASE (R275), opcode 0x030E. -/
def execGenRelease (w : BitVec 64) (s : State) :
    Host.Outcome State Fault Refusal := run 0x030E w [] s genReleaseBody

/-- GEN_RELEASE_EXPERT (R275), opcode 0x038E. -/
def execGenReleaseExpert (w : BitVec 64) (s : State) :
    Host.Outcome State Fault Refusal := run 0x038E w [] s genReleaseExpertBody

/-- GEN_LOOP_QUERY (R290), opcode 0x030F. -/
def execGenLoopQuery (w : BitVec 64) (s : State) :
    Host.Outcome State Fault Refusal := run 0x030F w [] s genLoopQueryBody

/-- GEN_LOOP_QUERY_EXPERT (R290), opcode 0x038F. -/
def execGenLoopQueryExpert (w : BitVec 64) (s : State) :
    Host.Outcome State Fault Refusal := run 0x038F w [] s genLoopQueryExpertBody

/-- LEARN_SET_REGISTER (R313), opcode 0x0401. -/
def execLearnSetRegister (w : BitVec 64) (hm : HostImage) (s : State) :
    Host.Outcome State Fault Refusal := run 0x0401 w hm s learnSetRegisterBody

/-- LEARN_SET_REGISTER_EXPERT (R313), opcode 0x0481. -/
def execLearnSetRegisterExpert (w : BitVec 64) (hm : HostImage) (s : State) :
    Host.Outcome State Fault Refusal := run 0x0481 w hm s learnSetRegisterExpertBody

/-- LEARN_SET_RELEASE (R332), opcode 0x0402. -/
def execLearnSetRelease (w : BitVec 64) (s : State) :
    Host.Outcome State Fault Refusal := run 0x0402 w [] s learnSetReleaseBody

/-- LEARN_SET_RELEASE_EXPERT (R332), opcode 0x0482. -/
def execLearnSetReleaseExpert (w : BitVec 64) (s : State) :
    Host.Outcome State Fault Refusal := run 0x0482 w [] s learnSetReleaseExpertBody

/-- LEARN_EXCHANGE (R305), opcode 0x0403. -/
def execLearnExchange (w : HostWork) (s : State) :
    Host.Outcome State Fault Refusal := run 0x0403 w.wid w.image s learnExchangeBody

/-- LEARN_EXCHANGE_EXPERT (R305), opcode 0x0483. -/
def execLearnExchangeExpert (w : HostWork) (s : State) :
    Host.Outcome State Fault Refusal := run 0x0483 w.wid w.image s learnExchangeExpertBody

/-- LEARN_NORM (R308), opcode 0x0404. -/
def execLearnNorm (w : BitVec 64) (s : State) :
    Host.Outcome State Fault Refusal := run 0x0404 w [] s learnNormBody

/-- LEARN_NORM_EXPERT (R309), opcode 0x0484. -/
def execLearnNormExpert (w : BitVec 64) (s : State) :
    Host.Outcome State Fault Refusal := run 0x0484 w [] s learnNormExpertBody

/-- LEARN_SWEEP (R326), opcode 0x0405. -/
def execLearnSweep (w : BitVec 64) (s : State) :
    Host.Outcome State Fault Refusal := run 0x0405 w [] s learnSweepBody

/-- LEARN_SWEEP_EXPERT (R326), opcode 0x0485. -/
def execLearnSweepExpert (w : BitVec 64) (s : State) :
    Host.Outcome State Fault Refusal := run 0x0485 w [] s learnSweepExpertBody

/-- LEARN_MICRO_LOAD (R322), opcode 0x0406. -/
def execLearnMicroLoad (w : BitVec 64) (hm : HostImage) (s : State) :
    Host.Outcome State Fault Refusal := run 0x0406 w hm s learnMicroLoadBody

/-- LEARN_MICRO_LOAD_EXPERT (R322), opcode 0x0486. -/
def execLearnMicroLoadExpert (w : BitVec 64) (hm : HostImage) (s : State) :
    Host.Outcome State Fault Refusal := run 0x0486 w hm s learnMicroLoadExpertBody

/-- LEARN_MICRO_UNLOAD (R332), opcode 0x0407. -/
def execLearnMicroUnload (w : BitVec 64) (s : State) :
    Host.Outcome State Fault Refusal := run 0x0407 w [] s learnMicroUnloadBody

/-- LEARN_MICRO_UNLOAD_EXPERT (R332), opcode 0x0487. -/
def execLearnMicroUnloadExpert (w : BitVec 64) (s : State) :
    Host.Outcome State Fault Refusal := run 0x0487 w [] s learnMicroUnloadExpertBody

/-- LEARN_ROUTE_CHECK (R295), opcode 0x0408. -/
def execLearnRouteCheck (w : BitVec 64) (hm : HostImage) (s : State) :
    Host.Outcome State Fault Refusal := run 0x0408 w hm s learnRouteCheckBody

/-- LEARN_ROUTE_CHECK_EXPERT (R295), opcode 0x0488. -/
def execLearnRouteCheckExpert (w : BitVec 64) (hm : HostImage) (s : State) :
    Host.Outcome State Fault Refusal := run 0x0488 w hm s learnRouteCheckExpertBody

/-- LEARN_QUERY (R332), opcode 0x0409. -/
def execLearnQuery (w : BitVec 64) (s : State) :
    Host.Outcome State Fault Refusal := run 0x0409 w [] s learnQueryBody

/-- LEARN_QUERY_EXPERT (R332), opcode 0x0489. -/
def execLearnQueryExpert (w : BitVec 64) (s : State) :
    Host.Outcome State Fault Refusal := run 0x0489 w [] s learnQueryExpertBody

/-- REIN_LAYOUT_REGISTER (R336), opcode 0x0501. -/
def execReinLayoutRegister (w : BitVec 64) (hm : HostImage) (s : State) :
    Host.Outcome State Fault Refusal := run 0x0501 w hm s reinLayoutRegisterBody

/-- REIN_LAYOUT_REGISTER_EXPERT (R336), opcode 0x0581. -/
def execReinLayoutRegisterExpert (w : BitVec 64) (hm : HostImage) (s : State) :
    Host.Outcome State Fault Refusal := run 0x0581 w hm s reinLayoutRegisterExpertBody

/-- REIN_LAYOUT_RELEASE (R366), opcode 0x0502. -/
def execReinLayoutRelease (w : BitVec 64) (s : State) :
    Host.Outcome State Fault Refusal := run 0x0502 w [] s reinLayoutReleaseBody

/-- REIN_LAYOUT_RELEASE_EXPERT (R366), opcode 0x0582. -/
def execReinLayoutReleaseExpert (w : BitVec 64) (s : State) :
    Host.Outcome State Fault Refusal := run 0x0582 w [] s reinLayoutReleaseExpertBody

/-- REIN_DRAIN (R345), opcode 0x0503. -/
def execReinDrain (w : BitVec 64) (s : State) :
    Host.Outcome State Fault Refusal := run 0x0503 w [] s reinDrainBody

/-- REIN_DRAIN_EXPERT (R346), opcode 0x0583. -/
def execReinDrainExpert (w : BitVec 64) (s : State) :
    Host.Outcome State Fault Refusal := run 0x0583 w [] s reinDrainExpertBody

/-- REIN_QUERY (R367), opcode 0x0507. -/
def execReinQuery (w : BitVec 64) (s : State) :
    Host.Outcome State Fault Refusal := run 0x0507 w [] s reinQueryBody

/-- REIN_QUERY_EXPERT (R367), opcode 0x0587. -/
def execReinQueryExpert (w : BitVec 64) (s : State) :
    Host.Outcome State Fault Refusal := run 0x0587 w [] s reinQueryExpertBody

/-- TRACE_GROUP_CREATE (R388), opcode 0x0601. -/
def execTraceGroupCreate (w : BitVec 64) (hm : HostImage) (s : State) :
    Host.Outcome State Fault Refusal := run 0x0601 w hm s traceGroupCreateBody

/-- TRACE_GROUP_CREATE_EXPERT (R388), opcode 0x0681. -/
def execTraceGroupCreateExpert (w : BitVec 64) (hm : HostImage) (s : State) :
    Host.Outcome State Fault Refusal := run 0x0681 w hm s traceGroupCreateExpertBody

/-- TRACE_GROUP_DESTROY (R409), opcode 0x0602. -/
def execTraceGroupDestroy (w : BitVec 64) (s : State) :
    Host.Outcome State Fault Refusal := run 0x0602 w [] s traceGroupDestroyBody

/-- TRACE_GROUP_DESTROY_EXPERT (R409), opcode 0x0682. -/
def execTraceGroupDestroyExpert (w : BitVec 64) (s : State) :
    Host.Outcome State Fault Refusal := run 0x0682 w [] s traceGroupDestroyExpertBody

/-- TRACE_COLL (R390), opcode 0x0603. -/
def execTraceColl (w : BitVec 64) (s : State) :
    Host.Outcome State Fault Refusal := run 0x0603 w [] s traceCollBody

/-- TRACE_COLL_EXPERT (R390), opcode 0x0683. -/
def execTraceCollExpert (w : BitVec 64) (hm : HostImage) (s : State) :
    Host.Outcome State Fault Refusal := run 0x0683 w hm s traceCollExpertBody

/-- TRACE_COLL_CANCEL (R405), opcode 0x0604. -/
def execTraceCollCancel (w : BitVec 64) (s : State) :
    Host.Outcome State Fault Refusal := run 0x0604 w [] s traceCollCancelBody

/-- TRACE_COLL_CANCEL_EXPERT (R405), opcode 0x0684. -/
def execTraceCollCancelExpert (w : BitVec 64) (s : State) :
    Host.Outcome State Fault Refusal := run 0x0684 w [] s traceCollCancelExpertBody

/-- TRACE_WINDOW_REGISTER (R402), opcode 0x0605. -/
def execTraceWindowRegister (w : BitVec 64) (s : State) :
    Host.Outcome State Fault Refusal := run 0x0605 w [] s traceWindowRegisterBody

/-- TRACE_WINDOW_REGISTER_EXPERT (R402), opcode 0x0685. -/
def execTraceWindowRegisterExpert (w : BitVec 64) (s : State) :
    Host.Outcome State Fault Refusal := run 0x0685 w [] s traceWindowRegisterExpertBody

/-- TRACE_SEND (R402), opcode 0x0606. -/
def execTraceSend (w : BitVec 64) (hm : HostImage) (s : State) :
    Host.Outcome State Fault Refusal := run 0x0606 w hm s traceSendBody

/-- TRACE_SEND_EXPERT (R402), opcode 0x0686. -/
def execTraceSendExpert (w : BitVec 64) (hm : HostImage) (s : State) :
    Host.Outcome State Fault Refusal := run 0x0686 w hm s traceSendExpertBody

/-- TRACE_RECV (R403), opcode 0x0607. -/
def execTraceRecv (w : BitVec 64) (s : State) :
    Host.Outcome State Fault Refusal := run 0x0607 w [] s traceRecvBody

/-- TRACE_RECV_EXPERT (R403), opcode 0x0687. -/
def execTraceRecvExpert (w : BitVec 64) (s : State) :
    Host.Outcome State Fault Refusal := run 0x0687 w [] s traceRecvExpertBody

/-- TRACE_MSG_CANCEL (R404), opcode 0x0608. -/
def execTraceMsgCancel (w : BitVec 64) (s : State) :
    Host.Outcome State Fault Refusal := run 0x0608 w [] s traceMsgCancelBody

/-- TRACE_MSG_CANCEL_EXPERT (R404), opcode 0x0688. -/
def execTraceMsgCancelExpert (w : BitVec 64) (s : State) :
    Host.Outcome State Fault Refusal := run 0x0688 w [] s traceMsgCancelExpertBody

/-- TRACE_PORT_QUERY (R410), opcode 0x0609. -/
def execTracePortQuery (w : BitVec 64) (s : State) :
    Host.Outcome State Fault Refusal := run 0x0609 w [] s tracePortQueryBody

/-- TRACE_PORT_QUERY_EXPERT (R410), opcode 0x0689. -/
def execTracePortQueryExpert (w : BitVec 64) (s : State) :
    Host.Outcome State Fault Refusal := run 0x0689 w [] s tracePortQueryExpertBody

/-- TRACE_PORT_CONTROL (R379), opcode 0x060A. -/
def execTracePortControl (w : BitVec 64) (s : State) :
    Host.Outcome State Fault Refusal := run 0x060A w [] s tracePortControlBody

/-- TRACE_PORT_CONTROL_EXPERT (R375), opcode 0x068A. -/
def execTracePortControlExpert (w : BitVec 64) (s : State) :
    Host.Outcome State Fault Refusal := run 0x068A w [] s tracePortControlExpertBody

/-- TRACE_TIME_QUERY (R410), opcode 0x060B. -/
def execTraceTimeQuery (w : BitVec 64) (s : State) :
    Host.Outcome State Fault Refusal := run 0x060B w [] s traceTimeQueryBody

/-- TRACE_TIME_CONFIG (R383), opcode 0x068B. -/
def execTraceTimeConfig (w : BitVec 64) (s : State) :
    Host.Outcome State Fault Refusal := run 0x068B w [] s traceTimeConfigBody

/-- TRACE_GROUP_QUERY (R410), opcode 0x060C. -/
def execTraceGroupQuery (w : BitVec 64) (s : State) :
    Host.Outcome State Fault Refusal := run 0x060C w [] s traceGroupQueryBody

/-- TRACE_GROUP_QUERY_EXPERT (R410), opcode 0x068C. -/
def execTraceGroupQueryExpert (w : BitVec 64) (s : State) :
    Host.Outcome State Fault Refusal := run 0x068C w [] s traceGroupQueryExpertBody

/-- RESIL_MOOR_REFRESH (R430), opcode 0x0702. -/
def execResilMoorRefresh (w : BitVec 64) (s : State) :
    Host.Outcome State Fault Refusal := run 0x0702 w [] s resilMoorRefreshBody

/-- RESIL_MOOR_REFRESH_EXPERT (R430), opcode 0x0782. -/
def execResilMoorRefreshExpert (w : BitVec 64) (s : State) :
    Host.Outcome State Fault Refusal := run 0x0782 w [] s resilMoorRefreshExpertBody

/-- RESIL_MOOR_QUERY (R438), opcode 0x0706. -/
def execResilMoorQuery (w : BitVec 64) (s : State) :
    Host.Outcome State Fault Refusal := run 0x0706 w [] s resilMoorQueryBody

/-- RESIL_MOOR_QUERY_EXPERT (R438), opcode 0x0786. -/
def execResilMoorQueryExpert (w : BitVec 64) (s : State) :
    Host.Outcome State Fault Refusal := run 0x0786 w [] s resilMoorQueryExpertBody

/-- RESIL_MOOR_DESTROY (R438), opcode 0x0707. -/
def execResilMoorDestroy (w : BitVec 64) (s : State) :
    Host.Outcome State Fault Refusal := run 0x0707 w [] s resilMoorDestroyBody

/-- RESIL_MOOR_DESTROY_EXPERT (R438), opcode 0x0787. -/
def execResilMoorDestroyExpert (w : BitVec 64) (s : State) :
    Host.Outcome State Fault Refusal := run 0x0787 w [] s resilMoorDestroyExpertBody

/-- RESIL_WAIT (R438), opcode 0x0708. -/
def execResilWait (w : BitVec 64) (s : State) :
    Host.Outcome State Fault Refusal := run 0x0708 w [] s resilWaitBody

/-- RESIL_WAIT_EXPERT (R438), opcode 0x0788. -/
def execResilWaitExpert (w : BitVec 64) (s : State) :
    Host.Outcome State Fault Refusal := run 0x0788 w [] s resilWaitExpertBody

/-- RESIL_JOURNAL_QUERY (R438), opcode 0x0709. -/
def execResilJournalQuery (w : BitVec 64) (s : State) :
    Host.Outcome State Fault Refusal := run 0x0709 w [] s resilJournalQueryBody

/-- RESIL_JOURNAL_QUERY_EXPERT (R438), opcode 0x0789. -/
def execResilJournalQueryExpert (w : BitVec 64) (s : State) :
    Host.Outcome State Fault Refusal := run 0x0789 w [] s resilJournalQueryExpertBody

/-- RESIL_TEAM_RETIRE (R414), opcode 0x070A. -/
def execResilTeamRetire (w : BitVec 64) (s : State) :
    Host.Outcome State Fault Refusal := run 0x070A w [] s resilTeamRetireBody

/-- RESIL_TEAM_RETIRE_EXPERT (R414), opcode 0x078A. -/
def execResilTeamRetireExpert (w : BitVec 64) (s : State) :
    Host.Outcome State Fault Refusal := run 0x078A w [] s resilTeamRetireExpertBody

/-- RESIL_WARM_RESET (R419), opcode 0x070B. -/
def execResilWarmReset (w : BitVec 64) (s : State) :
    Host.Outcome State Fault Refusal := run 0x070B w [] s resilWarmResetBody

/-- RESIL_WARM_RESET_EXPERT (R419), opcode 0x078B. -/
def execResilWarmResetExpert (w : BitVec 64) (s : State) :
    Host.Outcome State Fault Refusal := run 0x078B w [] s resilWarmResetExpertBody

/-- QUAY_SESSION_OPEN (R442), opcode 0x0801. -/
def execQuaySessionOpen (w : BitVec 64) (s : State) :
    Host.Outcome State Fault Refusal := run 0x0801 w [] s quaySessionOpenBody

/-- QUAY_SESSION_OPEN_EXPERT (R442), opcode 0x0881. -/
def execQuaySessionOpenExpert (w : BitVec 64) (s : State) :
    Host.Outcome State Fault Refusal := run 0x0881 w [] s quaySessionOpenExpertBody

/-- QUAY_SESSION_CLOSE (R443), opcode 0x0802. -/
def execQuaySessionClose (w : BitVec 64) (s : State) :
    Host.Outcome State Fault Refusal := run 0x0802 w [] s quaySessionCloseBody

/-- QUAY_SESSION_CLOSE_EXPERT (R458), opcode 0x0882. -/
def execQuaySessionCloseExpert (w : BitVec 64) (s : State) :
    Host.Outcome State Fault Refusal := run 0x0882 w [] s quaySessionCloseExpertBody

/-- QUAY_FRAME_COMMIT (R455), opcode 0x0803. -/
def execQuayFrameCommit (w : BitVec 64) (hm : HostImage) (s : State) :
    Host.Outcome State Fault Refusal := run 0x0803 w hm s quayFrameCommitBody

/-- QUAY_FRAME_COMMIT_EXPERT (R455), opcode 0x0883. -/
def execQuayFrameCommitExpert (w : BitVec 64) (hm : HostImage) (s : State) :
    Host.Outcome State Fault Refusal := run 0x0883 w hm s quayFrameCommitExpertBody

/-- QUAY_RING_ADVANCE (R456), opcode 0x0804. -/
def execQuayRingAdvance (w : BitVec 64) (s : State) :
    Host.Outcome State Fault Refusal := run 0x0804 w [] s quayRingAdvanceBody

/-- QUAY_RING_ADVANCE_EXPERT (R456), opcode 0x0884. -/
def execQuayRingAdvanceExpert (w : BitVec 64) (s : State) :
    Host.Outcome State Fault Refusal := run 0x0884 w [] s quayRingAdvanceExpertBody

/-- QUAY_QUERY (R459), opcode 0x0805. -/
def execQuayQuery (w : BitVec 64) (s : State) :
    Host.Outcome State Fault Refusal := run 0x0805 w [] s quayQueryBody

/-- QUAY_QUERY_EXPERT (R459), opcode 0x0885. -/
def execQuayQueryExpert (w : BitVec 64) (s : State) :
    Host.Outcome State Fault Refusal := run 0x0885 w [] s quayQueryExpertBody

/-- PWR_CAP_SET (R475), opcode 0x0901. -/
def execPwrCapSet (w : BitVec 64) (s : State) :
    Host.Outcome State Fault Refusal := run 0x0901 w [] s pwrCapSetBody

/-- PWR_CAP_SET_EXPERT (R475), opcode 0x0981. -/
def execPwrCapSetExpert (w : BitVec 64) (s : State) :
    Host.Outcome State Fault Refusal := run 0x0981 w [] s pwrCapSetExpertBody

/-- PWR_TEAM_VOLT (R469), opcode 0x0902. -/
def execPwrTeamVolt (w : BitVec 64) (s : State) :
    Host.Outcome State Fault Refusal := run 0x0902 w [] s pwrTeamVoltBody

/-- PWR_TEAM_VOLT_EXPERT (R468), opcode 0x0982. -/
def execPwrTeamVoltExpert (w : BitVec 64) (s : State) :
    Host.Outcome State Fault Refusal := run 0x0982 w [] s pwrTeamVoltExpertBody

/-- PWR_RAIL_SET (R469), opcode 0x0903. -/
def execPwrRailSet (w : BitVec 64) (s : State) :
    Host.Outcome State Fault Refusal := run 0x0903 w [] s pwrRailSetBody

/-- PWR_RAIL_SET_EXPERT (R470), opcode 0x0983. -/
def execPwrRailSetExpert (w : BitVec 64) (s : State) :
    Host.Outcome State Fault Refusal := run 0x0983 w [] s pwrRailSetExpertBody

/-- PWR_RATE_LIMIT (R465), opcode 0x0904. -/
def execPwrRateLimit (w : BitVec 64) (s : State) :
    Host.Outcome State Fault Refusal := run 0x0904 w [] s pwrRateLimitBody

/-- PWR_RATE_LIMIT_EXPERT (R465), opcode 0x0984. -/
def execPwrRateLimitExpert (w : BitVec 64) (s : State) :
    Host.Outcome State Fault Refusal := run 0x0984 w [] s pwrRateLimitExpertBody

/-- PWR_TELEMETRY (R483), opcode 0x0905. -/
def execPwrTelemetry (w : BitVec 64) (s : State) :
    Host.Outcome State Fault Refusal := run 0x0905 w [] s pwrTelemetryBody

/-- PWR_TELEMETRY_EXPERT (R483), opcode 0x0985. -/
def execPwrTelemetryExpert (w : BitVec 64) (s : State) :
    Host.Outcome State Fault Refusal := run 0x0985 w [] s pwrTelemetryExpertBody

/-- PWR_CEILING_QUERY (R466), opcode 0x0906. -/
def execPwrCeilingQuery (w : BitVec 64) (s : State) :
    Host.Outcome State Fault Refusal := run 0x0906 w [] s pwrCeilingQueryBody

/-- PWR_CEILING_QUERY_EXPERT (R466), opcode 0x0986. -/
def execPwrCeilingQueryExpert (w : BitVec 64) (s : State) :
    Host.Outcome State Fault Refusal := run 0x0986 w [] s pwrCeilingQueryExpertBody

/-- PWR_THERMAL_QUERY (R486), opcode 0x0907. -/
def execPwrThermalQuery (w : BitVec 64) (s : State) :
    Host.Outcome State Fault Refusal := run 0x0907 w [] s pwrThermalQueryBody

/-- PWR_THERMAL_QUERY_EXPERT (R480), opcode 0x0987. -/
def execPwrThermalQueryExpert (w : BitVec 64) (s : State) :
    Host.Outcome State Fault Refusal := run 0x0987 w [] s pwrThermalQueryExpertBody

/-- SELF_TEST_RUN (R489), opcode 0x0A01. -/
def execSelfTestRun (w : BitVec 64) (s : State) :
    Host.Outcome State Fault Refusal := run 0x0A01 w [] s selfTestRunBody

/-- SELF_TEST_RUN_EXPERT (R490), opcode 0x0A81. -/
def execSelfTestRunExpert (w : BitVec 64) (s : State) :
    Host.Outcome State Fault Refusal := run 0x0A81 w [] s selfTestRunExpertBody

/-- SELF_TEST_STOP (R505), opcode 0x0A02. -/
def execSelfTestStop (w : BitVec 64) (s : State) :
    Host.Outcome State Fault Refusal := run 0x0A02 w [] s selfTestStopBody

/-- SELF_TEST_STOP_EXPERT (R505), opcode 0x0A82. -/
def execSelfTestStopExpert (w : BitVec 64) (s : State) :
    Host.Outcome State Fault Refusal := run 0x0A82 w [] s selfTestStopExpertBody

/-- SELF_TEST_QUERY (R505), opcode 0x0A03. -/
def execSelfTestQuery (w : BitVec 64) (s : State) :
    Host.Outcome State Fault Refusal := run 0x0A03 w [] s selfTestQueryBody

/-- SELF_TEST_QUERY_EXPERT (R505), opcode 0x0A83. -/
def execSelfTestQueryExpert (w : BitVec 64) (s : State) :
    Host.Outcome State Fault Refusal := run 0x0A83 w [] s selfTestQueryExpertBody

/-- SELF_CHANNEL_RESTORE (R500), opcode 0x0A04. -/
def execSelfChannelRestore (w : BitVec 64) (s : State) :
    Host.Outcome State Fault Refusal := run 0x0A04 w [] s selfChannelRestoreBody

/-- SELF_CHANNEL_RESTORE_EXPERT (R500), opcode 0x0A84. -/
def execSelfChannelRestoreExpert (w : BitVec 64) (s : State) :
    Host.Outcome State Fault Refusal := run 0x0A84 w [] s selfChannelRestoreExpertBody

/-- SELF_MARGIN_HBM (R499), opcode 0x0A05. -/
def execSelfMarginHbm (w : BitVec 64) (s : State) :
    Host.Outcome State Fault Refusal := run 0x0A05 w [] s selfMarginHbmBody

/-- SELF_MARGIN_HBM_EXPERT (R499), opcode 0x0A85. -/
def execSelfMarginHbmExpert (w : BitVec 64) (s : State) :
    Host.Outcome State Fault Refusal := run 0x0A85 w [] s selfMarginHbmExpertBody

/-- SELF_MARGIN_LANE (R498), opcode 0x0A06. -/
def execSelfMarginLane (w : BitVec 64) (s : State) :
    Host.Outcome State Fault Refusal := run 0x0A06 w [] s selfMarginLaneBody

/-- SELF_MARGIN_LANE_EXPERT (R498), opcode 0x0A86. -/
def execSelfMarginLaneExpert (w : BitVec 64) (s : State) :
    Host.Outcome State Fault Refusal := run 0x0A86 w [] s selfMarginLaneExpertBody

/-- SELF_MARGIN_TEAM (R499), opcode 0x0A07. -/
def execSelfMarginTeam (w : BitVec 64) (s : State) :
    Host.Outcome State Fault Refusal := run 0x0A07 w [] s selfMarginTeamBody

/-- SELF_MARGIN_TEAM_EXPERT (R499), opcode 0x0A87. -/
def execSelfMarginTeamExpert (w : BitVec 64) (s : State) :
    Host.Outcome State Fault Refusal := run 0x0A87 w [] s selfMarginTeamExpertBody

/-- SELF_PART_ID_SET (R505), opcode 0x0A08. -/
def execSelfPartIdSet (w : BitVec 64) (s : State) :
    Host.Outcome State Fault Refusal := run 0x0A08 w [] s selfPartIdSetBody

/-- SELF_PART_ID_SET_EXPERT (R505), opcode 0x0A88. -/
def execSelfPartIdSetExpert (w : BitVec 64) (s : State) :
    Host.Outcome State Fault Refusal := run 0x0A88 w [] s selfPartIdSetExpertBody

end Sys2Proof.Machine
end

