-- ==== Sys2Proof/Machine/Control.lean ====
section
/-! DEFINITION. The register window, the rings, acceptance, function-level resets and readiness: the meanings of the
events of chapter 2 (R45 to R58, R62, R69 to R74, R76). -/

namespace Sys2Proof.Machine

open Sys2Proof

/-- REGISTER_WRITE (R47). -/
def execRegisterWrite (fn off : Nat) (v : BitVec 32) (s : State) : Host.Outcome State Fault Refusal :=
  event (s.bar0 fn off (some v))

/-- INT_STATUS_WRITE (R47): the bits written as 1 are cleared. -/
def execIntStatusWrite (fn : Nat) (v : BitVec 32) (s : State) : Host.Outcome State Fault Refusal :=
  event (s.bar0 fn 0x18 (some v))

/-- VIOLATIONS_READ (R47): the count is answered and cleared. -/
def execViolationsRead (fn : Nat) (s : State) : Host.Outcome State Fault Refusal := event (s.bar0 fn 0x20 none)

/-- REGISTER_64_LOW_WORD_READ (R47): a read of the window; the low word of a 64-bit register latches its high
word. -/
def execRegister64LowWordRead (fn off : Nat) (s : State) : Host.Outcome State Fault Refusal :=
  event (s.bar0 fn off none)

/-- BAR0_ACCESS_BEFORE_LIVE (R72). -/
def execBar0AccessBeforeLive (fn off : Nat) (wr : Bool) (v : BitVec 32) (s : State) :
    Host.Outcome State Fault Refusal :=
  event (s.bar0 fn off (if wr then some v else none))

/-- The window offset of a register of a ring. -/
def ringOff (r o : Nat) : Nat := 0x1000 + 64 * ringK r + o

/-- ENABLE_WRITE (R52): the word that holds ENABLE and MSIX_VECTOR. -/
def execEnableWrite (ring : Nat) (v : BitVec 32) (s : State) : Host.Outcome State Fault Refusal :=
  event (if ring < 288 then s.bar0 (ringFn ring) (ringOff ring 0x10) (some v) else s)

/-- SQ_TAIL (R53). -/
def execSqTail (ring : Nat) (v : BitVec 32) (s : State) : Host.Outcome State Fault Refusal :=
  event (if ring < 288 then s.bar0 (ringFn ring) (ringOff ring 0x14) (some v) else s)

/-- CQ_HEAD (R52). -/
def execCqHead (ring : Nat) (v : BitVec 32) (s : State) : Host.Outcome State Fault Refusal :=
  event (if ring < 288 then s.bar0 (ringFn ring) (ringOff ring 0x18) (some v) else s)

/-- SLOT_FETCH (R53): the next slot in round-robin order, while the part's masters run. -/
def execSlotFetch (s : State) : Host.Outcome State Fault Refusal :=
  event (if s.part.mastersStopped && s.part.pstate ≠ .warmReset && s.part.pstate ≠ .failed then s else
    match s.nextFetch with
    | none => s
    | some r => s.fetch r)

/-- SLOT_ARRIVAL (R54): the oldest slot in flight of a ring arrives. -/
def execSlotArrival (ring : Nat) (slot payload : Option (List Byte)) (s : State) :
    Host.Outcome State Fault Refusal :=
  event (if ring < 288 then s.arriveSlot ring slot payload else s)

/-- FUNCTION_LEVEL_RESET (R69): a VF's. -/
def execFunctionLevelReset (fn : Nat) (s : State) : Host.Outcome State Fault Refusal :=
  event (if 1 ≤ fn && fn ≤ 8 then s.resetFn fn else s)

/-- PF_FUNCTION_LEVEL_RESET (R70). -/
def execPfFunctionLevelReset (s : State) : Host.Outcome State Fault Refusal := event s.resetPf

/-- SESSION_LOCKOUT_END (R62). -/
def execSessionLockoutEnd (fn : Nat) (s : State) : Host.Outcome State Fault Refusal :=
  event (match (s.fn fn).lockedUntil with
    | none => s
    | some t => (s.reach t).modFn fn fun x => { x with lockedUntil := none })

end Sys2Proof.Machine
end

