-- ==== Sys2Proof/Machine/Pins.lean ====
section
/-! DEFINITION. The pins, resets and reference clocks (R511 to R525), readiness of the links (R72), and what Kryto does
for the management controller (R60, R520, R521, R534 to R537). -/

namespace Sys2Proof.Machine

open Sys2Proof

/-- Changes the pins. -/
def State.modPins (s : State) (f : Pins → Pins) : State := { s with pins := f s.pins }

/-- Changes the part's control state. -/
def State.modPart (s : State) (f : PartCtl → PartCtl) : State := { s with part := f s.part }

/-! ### Power and cold reset (R511, R513, R514, R517, R518, R522) -/

/-- The part stands in reset, its state lost: masters and transmitters stopped, CXL_PERST_N asserted. -/
def State.holdReset (s : State) : State :=
  ((s.loseAll).modPins fun p => { p with txOn := false, cxlPerstN := false }).modPart fun x =>
    { x with mastersStopped := true }

/-- PWR_OK_ASSERT (R512, R513, R517, R521): the straps are read; SYS_RST_N is held asserted through power-up. -/
def execPwrOkAssert (addr1 addr0 : Bool) (s : State) : Host.Outcome State Fault Refusal :=
  event (if s.pins.pwrOk then s
    else s.holdReset.modPins fun p =>
      { p with pwrOk := true, sysRstN := false, thermtripN := true, smbAddr1 := addr1, smbAddr0 := addr0,
               smbAddr := BitVec.ofNat 7 (0x60 + (if addr1 then 2 else 0) + (if addr0 then 1 else 0)) })

/-- PWR_OK_DEASSERT (R425, R518, R522): in any state the part loses its state; THERMTRIP_N is released. -/
def execPwrOkDeassert (s : State) : Host.Outcome State Fault Refusal :=
  event (({ s with tap := Tap.reset } : State).holdReset.modPins fun p =>
    { p with pwrOk := false, sysRstN := false, thermtripN := true, alertN := true })

/-- COLD_RESET (R514, R522): SYS_RST_N is recognised asserted; no effect while PWR_OK is deasserted or a trip is in
force. A warm reset in progress is abandoned. The internal reset lasts at least 1 ms. -/
def execColdReset (s : State) : Host.Outcome State Fault Refusal :=
  event (if !s.pins.pwrOk || s.power.trip || !s.pins.sysRstN then s
    else
      let t := s.t + msNs
      let s := ({ s with tap := { s.tap with needCold := false } } : State).holdReset
      (s.modPins fun p => { p with sysRstN := false, alertN := true }).modPart fun x => { x with timeZero := t })

/-- The logical map at a cold reset (R18): logical team 80d + i is the i-th enabled physical team of die d. A logical
team for which no enabled physical team is left is out of service. -/
def State.mapTeams (s : State) : State :=
  let dead := s.kryto.retiredTeams
  if dead.isEmpty then s
  else
    let s := dead.foldl (fun s p => s.modPhys p fun x => { x with state := some .retired }) s
    (List.range 4).foldl (fun s d =>
      let up := ((List.range 84).map fun i => 84 * d + i).filter fun p => !dead.contains p
      let s := ((List.range up.length).zip up).foldl (fun s e =>
        let s := s.modPhys e.2 fun x => { x with state := some (if e.1 < 80 then .mapped else .spare) }
        if e.1 < 80 then s.modTeam (80 * d + e.1) fun t => { t with phys := some e.2 } else s) s
      ((List.range 80).filter fun i => up.length ≤ i).foldl (fun s i =>
        s.modTeam (80 * d + i) fun t => { t with inService := false, phys := none }) s) s

/-- The channels that Kryto has recorded stay mapped out across every reset (R228): their substitutes are taken. -/
def State.mapChannels (s : State) : State :=
  s.kryto.mappedOut.foldl (fun s c =>
    match s.hbm.substitutes c with
    | none => s.modChan c fun x => { x with mapped := true }
    | some (fs, res) =>
      let h := s.hbm
      let use := if res then h.bandUse else fs.foldl (fun t k => tput t (k % 1024) 2) h.bandUse
      ({ s with hbm := { h with
          subst := ((List.range 1024).zip fs).foldl (fun t e => tput t (1024 * c + e.1) e.2) h.subst
          bandUse := use, reserveUsed := if res then insNat (c / 32) h.reserveUsed else h.reserveUsed } } : State).modChan c
        fun x => { x with mapped := true, switched := 1024 }) s

/-- The events that Kryto held in its non-volatile store are entered (R511, R536). -/
def State.bootEvents (s : State) : State :=
  let s := s.kryto.boardRail.foldl (fun s r => s.logEv evBoardRailFault 0xFF#8 0#16 r) s
  let s := if s.kryto.tripped then s.logEv evThermalTrip else s
  { s with kryto := { s.kryto with boardRail := [], tripped := false } }

/-- SYS_RST_N_DEASSERT (R493, R505, R514, R519): time zero, and boot; a memory of the Harbourmaster that fails
Farrier's test and cannot be repaired fails the part. No effect after a trip. -/
def execSysRstNDeassert (pass : Bool) (s : State) : Host.Outcome State Fault Refusal :=
  event (if !s.pins.pwrOk || s.power.trip || s.pins.sysRstN then s
    else
      let s := s.reach s.part.timeZero
      let s := (s.modPins fun p => { p with sysRstN := true, txOn := true }).modPart fun x =>
        { x with pstate := .boot, timeZero := s.t, mastersStopped := false, partId := s.kryto.partIdNv.getD 0xFFFF#16 }
      let s := s.mapTeams.mapChannels.bootEvents
      if pass then s else s.failPart)

/-- BOARD_RAIL_FAULT (R511): as on a deassertion of PWR_OK; Kryto records the rail for the next boot. -/
def execBoardRailFault (rail : Nat) (s : State) : Host.Outcome State Fault Refusal :=
  event (if railAvs rail || 15 ≤ rail || !s.pins.pwrOk then s
    else
      let s := ({ s with kryto := { s.kryto with boardRail := insNat rail s.kryto.boardRail } } : State).holdReset
      s.modPins fun p => { p with sysRstN := false, thermtripN := true, alertN := true })

/-! ### Warm reset and PERST_N (R515, R516, R522) -/

/-- WARM_RST_N_ASSERT (R515): a warm reset where Iluvo runs, else ignored and logged. -/
def execWarmRstNAssert (s : State) : Host.Outcome State Fault Refusal :=
  event (if !s.pins.warmRstN then s
    else
      let s := s.modPins fun p => { p with warmRstN := false }
      if s.part.pstate.running then s.beginWarm
      else if s.pins.sysRstN && s.pins.pwrOk then s.logEv evResetIgnored else s)

/-- WARM_RST_N_DEASSERT (R515): the pin is armed again. -/
def execWarmRstNDeassert (s : State) : Host.Outcome State Fault Refusal :=
  event (s.modPins fun p => { p with warmRstN := true })

/-- The PCIe link goes down, and no access of the window arrives any more. It acts on sessions as a function-level
reset of the PF (R70, R516, R525); during a warm reset they are closed already. -/
def State.linkDown (s : State) : State :=
  let s := s.modPart fun x => { x with pcieUp := false, krytoPcie := false, bar0Live := false }
  if s.part.pstate = .warmReset then s else s.resetPf

/-- PERST_N_ASSERT (R516, R522): no effect while PWR_OK is deasserted, no separate one while SYS_RST_N is asserted. -/
def execPerstNAssert (s : State) : Host.Outcome State Fault Refusal :=
  event (if !s.pins.perstN then s
    else
      let s := s.modPins fun p => { p with perstN := false }
      if s.pins.pwrOk && s.pins.sysRstN then s.linkDown else s)

/-- PERST_N_DEASSERT (R516): the link may train again. -/
def execPerstNDeassert (s : State) : Host.Outcome State Fault Refusal :=
  event (s.modPins fun p => { p with perstN := true })

/-- CXL_PERST_N_RELEASE (R517): 100 ms after SYS_RST_N deassertion. -/
def execCxlPerstNRelease (s : State) : Host.Outcome State Fault Refusal :=
  event (if !s.pins.pwrOk || !s.pins.sysRstN || s.pins.cxlPerstN then s
    else (s.reach (s.part.timeZero + 100 * msNs)).modPins fun p => { p with cxlPerstN := true })

/-- BAR0_WINDOW_LIVE (R72): after SYS_RST_N and PERST_N deassertion the window answers, and configuration requests
complete; a link that went down comes back after a warm reset's CONTROL_READY (R522). -/
def execBar0WindowLive (s : State) : Host.Outcome State Fault Refusal :=
  event (if s.pins.pwrOk && s.pins.sysRstN && s.pins.perstN && !s.power.trip && s.part.refPcie && s.part.pstate != .warmReset then
      s.modPart fun x => { x with bar0Live := true, crsDone := true }
    else s)

/-- PCIE_LINK_UP (R72, R516, R522): not while a warm reset runs; Kryto then answers MCTP over PCIe. -/
def execPcieLinkUp (s : State) : Host.Outcome State Fault Refusal :=
  event (if s.pins.pwrOk && s.pins.sysRstN && s.pins.perstN && s.pins.txOn && s.part.refPcie && s.part.pstate != .warmReset then
      s.modPart fun x => { x with pcieUp := true, krytoPcie := true }
    else s)

/-! ### Reference clocks (R525) -/

/-- The numbers of the reference inputs in the event log's SOURCE. -/
def refCode : RefClk → Nat
  | .pcie => 0
  | .aux => 1
  | .trace0 => 2
  | .trace1 => 3
  | .xtal => 4

/-- The eight ports of a Trace reference go DOWN. -/
def State.portsDown (s : State) (lo : Nat) : State :=
  (List.range 8).foldl (fun s i =>
    if (s.port (lo + i)).state = .down || (s.port (lo + i)).state = .disabled then s else s.portDown (lo + i)) s

/-- REFERENCE_CLOCK_LOSS (R525). -/
def execReferenceClockLoss (clk : RefClk) (s : State) : Host.Outcome State Fault Refusal :=
  event (
    let s := s.logEv evRefclkLoss 0xFF#8 0#16 (refCode clk)
    match clk with
    | .pcie => (s.modPart fun x => { x with refPcie := false }).linkDown
    | .aux => (s.modPart fun x => { x with refAux := false, mastersStopped := true }).failPart
    | .trace0 => (s.modPart fun x => { x with refTrace0 := false }).portsDown 0
    | .trace1 => (s.modPart fun x => { x with refTrace1 := false }).portsDown 8
    | .xtal => s.modPart fun x => { x with refXtal := false, timeFromAux := true })

/-- REFERENCE_CLOCK_RETURN (R525): links train again; a lost AUX_REFCLK has failed the part until a cold reset, and
after the loss of the crystal the time base stays on AUX_REFCLK until then. -/
def execReferenceClockReturn (clk : RefClk) (s : State) : Host.Outcome State Fault Refusal :=
  event (s.modPart fun x =>
    match clk with
    | .pcie => { x with refPcie := true }
    | .aux => { x with refAux := true }
    | .trace0 => { x with refTrace0 := true }
    | .trace1 => { x with refTrace1 := true }
    | .xtal => { x with refXtal := true })

/-! ### The management controller (R60, R74, R471, R472, R490, R501, R520, R521, R534 to R537) -/

/-- Kryto's record of an endpoint. -/
def State.endpoint (s : State) (ep : Nat) : MctpEnd := tgetD MctpEnd.reset s.kryto.endpoints ep

/-- Changes Kryto's record of an endpoint. -/
def State.modEnd (s : State) (ep : Nat) (f : MctpEnd → MctpEnd) : State :=
  { s with kryto := { s.kryto with endpoints := tputD MctpEnd.reset s.kryto.endpoints ep (f (s.endpoint ep)) } }

/-- Kryto answers an endpoint. -/
def State.mctp (s : State) (ep : Nat) (bs : List Byte) : State :=
  { s with out := { s.out with mctp := s.out.mctp ++ [(ep, bs)] } }

/-- An SPDM ERROR response of SPDM 1.3 with a code (log entry 11). -/
def spdmError (code : Byte) : List Byte := [0x13#8, 0x7F#8, code, 0#8]

/-- A violation of Table 17-4: counted, logged, answered, and at 64 within 1 s the endpoint quarantined for 10 s
(R534, R535). -/
def State.mctpViolation (s : State) (ep addr n : Nat) : State :=
  let recent := s.t :: (s.endpoint ep).times.filter fun u => s.t < u + secNs
  let quar := 64 ≤ recent.length
  let s := s.modEnd ep fun x => { x with
    violations := x.violations + 1, times := recent, quarUntil := if quar then some (s.t + 10 * secNs) else x.quarUntil }
  let s := s.logEv evMctpViolation 0xFF#8 stMctpProtocol ep 0#64 (leBytes 1 addr ++ leBytes 1 n)
  let s := if n = 3 then s.mctp ep (spdmError 0x04#8) else if n = 4 then s.mctp ep (spdmError 0x01#8) else s
  if quar then s.logEv evMctpQuarantine 0xFF#8 stMctpProtocol ep else s

/-- Whether Kryto hears an endpoint: powered, out of reset, sound, and the endpoint not quarantined (R72, R412, R535). -/
def State.hears (s : State) (ep : Nat) : Bool :=
  s.pins.pwrOk && s.pins.sysRstN && !s.kryto.failed && (s.endpoint ep).quarUntil.isNone

/-- The not-ready response with the hint of R73 or R74. -/
def State.mctpNotReady (s : State) (ep : Nat) : State :=
  let (d, s) := s.retryWord
  s.mctp ep (1#8 :: leBytes 4 d)

/-- MCTP_MESSAGE (R74, R471, R472, R521, R535): over SMBus, or over PCIe once its link is up. What it asks of Iluvo before
CONTROL_READY is answered not-ready. The content of an answer is left to DMTF's definitions: free bytes. -/
def execMctpMessage (ep addr viol : Nat) (pcie : Bool) (ask : MctpAsk) (s : State) : Host.Outcome State Fault Refusal :=
  event (if !s.hears ep || (pcie && !s.part.krytoPcie) then s
    else if viol = 1 || viol = 2 || viol = 5 then s.mctpViolation ep addr viol
    else
      let reply := fun (s : State) => let (bs, s) := s.drawBytes 8; s.mctp ep (0#8 :: bs)
      match ask with
      | .kryto => reply s
      | .iluvo => if s.part.pstate.running then reply s else s.mctpNotReady ep
      | .boardPower mw => ({ s with kryto := { s.kryto with boardPower := some mw } } : State).mctp ep [0#8]
      | .cap w =>
        if !s.part.pstate.full then s.mctpNotReady ep
        else if 700 ≤ w && w ≤ 1800 then (s.recordCap w none false).mctp ep [0#8]
        else s.mctp ep (2#8 :: leBytes 2 stBadParam.toNat))

/-- SPDM_REQUEST (R60, R235, R490, R501, R535): session setup; the owner key, accepted once over a secured session while
its slot is empty, and replaced only with an HMAC under the present key; the measurement record; private TAP access. -/
def execSpdmRequest (ep addr viol : Nat) (req : SpdmReq) (s : State) : Host.Outcome State Fault Refusal :=
  event (if !s.hears ep then s
    else if 1 ≤ viol && viol ≤ 5 then s.mctpViolation ep addr viol
    else
      let secured := (s.endpoint ep).spdm
      let done := fun (s : State) => let (bs, s) := s.drawBytes 8; s.mctp ep (0#8 :: bs)
      let refuse := fun (s : State) => let (bs, s) := s.drawBytes 1; s.mctp ep (spdmError ((bs[0]?).getD 0#8))
      match req with
      | .setup => done (s.modEnd ep fun x => { x with spdm := true })
      | .other => done s
      | .measurements => s.mctp ep (0#8 :: s.kryto.measures.flatMap fun (e : Nat × List Byte) => leBytes 8 e.1 ++ e.2)
      | .unlockTap =>
        if secured then done { s with kryto := { s.kryto with jtagUnlocked := true } } else s.mctpViolation ep addr 3
      | .installOwner key =>
        if !secured then s.mctpViolation ep addr 3
        else if key.length != 48 then s.mctpViolation ep addr 4
        else if s.kryto.ownerKey.isSome then refuse s
        else done { s with kryto := { s.kryto with ownerKey := some key } }
      | .replaceOwner key transcript tag =>
        if !secured then s.mctpViolation ep addr 3
        else if key.length != 48 then s.mctpViolation ep addr 4
        else
          match s.kryto.ownerKey with
          | none => refuse s
          | some k =>
            if hmac384 k transcript = tag then done { s with kryto := { s.kryto with ownerKey := some key } }
            else refuse s)

/-- ALERT_N is asserted while an alerting event stands unacknowledged (R520). -/
def State.refreshAlert (s : State) : State :=
  s.modPins fun p => { p with alertN := !(s.log.entries.any fun e => e.alerting && !e.acked) }

/-- EVENT_ACKNOWLEDGE (R520, R535): of an event that is not held, violation 6. -/
def execEventAcknowledge (ep addr entry : Nat) (s : State) : Host.Outcome State Fault Refusal :=
  event (if !s.hears ep then s
    else if s.log.entries.any fun e => e.entry.toNat = entry && !e.acked then
      ({ s with log := { s.log with entries := s.log.entries.map fun e =>
          if e.entry.toNat = entry then { e with acked := true } else e } } : State).refreshAlert
    else s.mctpViolation ep addr 6)

/-- EVENT_LOG_READ (R74, R537): from an entry number, or from the oldest retained entry, with the lost-entry count; the
log is Iluvo's, not ready before CONTROL_READY. -/
def execEventLogRead (ep entry count : Nat) (s : State) : Host.Outcome State Fault Refusal :=
  event (if !s.hears ep then s
    else if !s.part.pstate.running then s.mctpNotReady ep
    else
      let es := (s.log.entries.filter fun e => entry ≤ e.entry.toNat).take count
      s.mctp ep (0#8 :: leBytes 4 s.log.lost.toNat ++ es.flatMap fun e => e.encode))

/-- SMBUS_ALERT_RESPONSE (R520): a part that asserts ALERT_N answers with its own address. -/
def execSmbusAlertResponse (s : State) : Host.Outcome State Fault Refusal :=
  event (if s.pins.alertN || !s.pins.pwrOk then s
    else { s with out := { s.out with smbus := s.out.smbus ++ [BitVec.ofNat 8 (2 * s.pins.smbAddr.toNat)] } })

/-- MCTP_QUARANTINE_EXPIRY (R535): the 10 s have passed. -/
def execMctpQuarantineExpiry (ep : Nat) (s : State) : Host.Outcome State Fault Refusal :=
  event (match (s.endpoint ep).quarUntil with
    | none => s
    | some t => (s.reach t).modEnd ep fun x => { x with quarUntil := none })

/-- NOP_DELAY_EXPIRY (R77): an expert NOP's delay has run out. -/
def execNopDelayExpiry (w : BitVec 64) (s : State) : Host.Outcome State Fault Refusal :=
  event (match s.waits.find? fun x => x.wid = w with
    | some x =>
      match x.kind with
      | .nop due => (s.reach due).complete w stOk
      | _ => s
    | none => s)

end Sys2Proof.Machine
end

