-- ==== Sys2Proof/Machine/StreamInstr.lean ====
section
/-! DEFINITION. The stream and barrier instructions of a team (R187, R188), whose handles and counts stand in scalar
registers of the executing core. -/

namespace Sys2Proof.Machine

open Sys2Proof

/-- Runs an instruction whose operands stand in scalar registers: a register number that does not exist is an
undefined encoding, and a poisoned operand raises POISON_CONTROL (R192). -/
def State.withRegs (s : State) (k : Site) (ins outs : List Nat)
    (f : State → BitVec 64 → Task → Nat → Ctx → State) : State :=
  s.onSite k fun s w t rk key =>
    let x := s.ctx key
    if !vOk (ins ++ outs) then s.trapAt w rk k 0x01 0
    else if x.tainted (ins.map pS) then s.trapAt w rk k 0x07 0
    else f s w t rk x

/-- A stream that a task may use (R187, R189). -/
def State.taskStream (s : State) (t : Task) (h : Nat) : Option Stream :=
  match tget s.streams h with
  | some st => if st.paddock = t.paddock then some st else none
  | none => none

/-- Whether a team is, or becomes, consumer `c` of a stream (R188, R189). -/
def Stream.consumerOk (st : Stream) (c : Nat) (e : End) : Bool :=
  c < st.nCons && (match tget st.consEnd c with | some x => x = e | none => true)

/-- SRD (R184, R188): binds the team as the consumer, releases its previous burst and asks for the next. -/
def execSrd (k : Site) (rh rc rn rs rx : Nat) (s : State) : Host.Outcome State Fault Refusal :=
  event (s.withRegs k [rh, rc, rn] [rs, rx] fun s w t rk x =>
    let h := (x.s rh).toNat
    let c := (x.s rc).toNat
    let n := (x.s rn).toNat
    let e := End.task w rk
    match s.taskStream t h with
    | none => s.refuse w rk rs
    | some st =>
      if !st.consumerOk c e || n = 0 || min 64 st.depth < n then s.refuse w rk rs
      else
        let st' := { (st.setCon c (st.con c).release) with consEnd := tput st.consEnd c e }
        (s.setStream h st').requestBurst h { consumer := c, n := n, who := e, rs := rs, rx := rx, off := 0 })

/-- SREL (R186, R188): releases the held burst. -/
def execSrel (k : Site) (rh rc rs : Nat) (s : State) : Host.Outcome State Fault Refusal :=
  event (s.withRegs k [rh, rc] [rs] fun s w t rk x =>
    let h := (x.s rh).toNat
    let c := (x.s rc).toNat
    match s.taskStream t h with
    | none => s.refuse w rk rs
    | some st =>
      if tget st.consEnd c = some (.task w rk) then
        (s.setStream h (st.setCon c (st.con c).release)).answer w rk rs
          (statusWord 0 false (st.state = .aborted) false false false)
      else s.refuse w rk rs)

/-- SWR (R183, R188): binds the team as the producer and commits one tile, waiting on ring credit. -/
def execSwr (k : Site) (rh ro rs : Nat) (s : State) : Host.Outcome State Fault Refusal :=
  event (s.withRegs k [rh, ro] [rs] fun s w t rk x =>
    let h := (x.s rh).toNat
    let off := (x.s ro).toNat
    let e := End.task w rk
    if (s.window k.team t).2 < off + 1024 then s.trapAt w rk k 0x02 off
    else
      match s.taskStream t h with
      | none => s.refuse w rk rs
      | some st =>
        let mine := match st.producer with | some p => p = e | none => true
        if !mine || st.refuses st.committed then s.refuse w rk rs
        else
          let s := s.setStream h { st with producer := some e }
          if st.credit st.committed then
            (s.commitBytes h (s.teamTile k.team t off)).answer w rk rs (statusWord 1 false false false false false)
          else s.modStream h fun q => { q with waiting := q.waiting ++
            [{ consumer := 0xFFFF, n := 1, who := e, rs := rs, rx := 0, off := off }] })

/-- SCLOSE (R182): the producer closes the stream. -/
def execSclose (k : Site) (rh rs : Nat) (s : State) : Host.Outcome State Fault Refusal :=
  event (s.withRegs k [rh] [rs] fun s w t rk x =>
    let h := (x.s rh).toNat
    match s.taskStream t h with
    | none => s.refuse w rk rs
    | some st =>
      if st.state = .opened && st.producer = some (.task w rk) then
        (s.closeStream h).answer w rk rs (statusWord 0 false false false false false)
      else s.refuse w rk rs)

/-- SABORT (R182, R185): aborts an OPEN stream. -/
def execSabort (k : Site) (rh rs : Nat) (s : State) : Host.Outcome State Fault Refusal :=
  event (s.withRegs k [rh] [rs] fun s w t rk x =>
    let h := (x.s rh).toNat
    match s.taskStream t h with
    | none => s.refuse w rk rs
    | some st =>
      if st.state = .opened then (s.abortStream h).answer w rk rs (statusWord 0 false true false false false)
      else s.refuse w rk rs)

/-- A barrier that a task may use. -/
def State.taskBarrier (s : State) (t : Task) (b : Nat) : Option Barrier :=
  match tget s.barriers b with
  | some x => if x.paddock = t.paddock then some x else none
  | none => none

/-- The arrival of a team whose sixteen cores have all issued BARV on a barrier (R188). -/
def State.barvArrive (s : State) (team ctx b : Nat) (w : BitVec 64) (rk : Nat) (bar : Barrier) : State :=
  let s := (List.range 16).foldl (fun s c =>
    s.modCtx (ctxKey team c ctx) fun y => { y with barved := y.barved.filter fun q => q != b }) s
  let a : BarArr := { task := w, rank := rk, phase := bar.arrivalPhase }
  ({ s with barriers := tmod s.barriers b fun y =>
    { y with arrs := (y.arrs.filter fun q => !(q.task = w && q.rank = rk)) ++ [a] } } : State).arrive b

/-- BARV (R188, R194): once all 16 cores have executed it, the team arrives. -/
def execBarv (k : Site) (rb rs : Nat) (s : State) : Host.Outcome State Fault Refusal :=
  event (s.withRegs k [rb] [rs] fun s w t rk x =>
    let b := (x.s rb).toNat
    match s.taskBarrier t b with
    | none => s.refuse w rk rs
    | some bar =>
      let s := s.modCtx (ctxKey k.team k.core t.ctx) fun c => { c with barved := insNat b c.barved }
      if (List.range 16).all fun c => (s.ctx (ctxKey k.team c t.ctx)).barved.contains b then
        (s.barvArrive k.team t.ctx b w rk bar).answer w rk rs (statusWord 0 false false false false false)
      else s)

/-- BWAIT (R188): waits until the phase in which the team last arrived completes, or the present phase where it has
made no arrival. -/
def execBwait (k : Site) (rb rs : Nat) (s : State) : Host.Outcome State Fault Refusal :=
  event (s.withRegs k [rb] [rs] fun s w t rk x =>
    let b := (x.s rb).toNat
    match s.taskBarrier t b with
    | none => s.refuse w rk rs
    | some bar =>
      let a : BarArr := (bar.arrs.find? fun q => q.task = w && q.rank = rk).getD { task := w, rank := rk, phase := bar.phase }
      if a.phase < bar.phase then s.answer w rk rs (statusWord 0 false false false false false)
      else { s with barriers := tmod s.barriers b fun y => { y with waitTasks := y.waitTasks ++ [(a, rs)] } })

end Sys2Proof.Machine
end

