-- ==== Sys2Proof/Machine/Tap.lean ====
section
/-! DEFINITION. The test access port (R501, R502): the instruction that each public code selects, and what it does to the
pins. -/

namespace Sys2Proof.Machine

open Sys2Proof

/-- Changes the test access port. -/
def State.modTap (s : State) (f : Tap → Tap) : State := { s with tap := f s.tap }

/-- The identification register (Table 15-4): revision 0x0 of A0, part 0x0960, Freold's JEP106 identity, 1. -/
def idcode : BitVec 32 := (0x0#4 ++ 0x0960#16) ++ (Sys2Proof.Config.jep106 ++ 1#1)

/-- What the data register that the instruction selects captures, bit 0 first (Table 15-4): the identification register,
the sampled pins, or the one bypass bit, which every code outside the table, CLAMP and HIGHZ select too. -/
def Tap.captured (t : Tap) : List Bool :=
  match t.ir.toNat with
  | 1 => (List.range 32).map fun i => idcode.getLsbD i
  | 2 | 3 | 4 | 5 => t.sampled
  | _ => [false]

/-- TAP_RESET (R501): IDCODE is selected and the pins return to their functions. What has been scanned in, and the
need of a cold reset, stay. -/
def execTapReset (s : State) : Host.Outcome State Fault Refusal :=
  event (s.modTap fun t => { t with ir := 0x01#8, driving := false, hiz := false, pulse := false })

/-- IDCODE (R501). -/
def execIdcode (s : State) : Host.Outcome State Fault Refusal :=
  event (s.modTap fun t => { t with ir := 0x01#8, driving := false, hiz := false, pulse := false })

/-- SAMPLE_PRELOAD (R501): the pins are sampled, and the boundary register preloaded where data are shifted in. -/
def execSamplePreload (pins : List Bool) (preload : Option (List Bool)) (s : State) : Host.Outcome State Fault Refusal :=
  event (s.modTap fun t => { t with ir := 0x02#8, driving := false, hiz := false, pulse := false, sampled := pins,
                                    boundary := preload.getD t.boundary })

/-- EXTEST (R501, R502): the pins are driven and captured. -/
def execExtest (pins : List Bool) (s : State) : Host.Outcome State Fault Refusal :=
  event (s.modTap fun t => { t with ir := 0x03#8, driving := true, hiz := false, pulse := false, sampled := pins,
                                    needCold := true })

/-- EXTEST_PULSE (R501, R502). -/
def execExtestPulse (pins : List Bool) (s : State) : Host.Outcome State Fault Refusal :=
  event (s.modTap fun t => { t with ir := 0x04#8, driving := true, hiz := false, pulse := true, sampled := pins,
                                    needCold := true })

/-- EXTEST_TRAIN (R501, R502). -/
def execExtestTrain (pins : List Bool) (s : State) : Host.Outcome State Fault Refusal :=
  event (s.modTap fun t => { t with ir := 0x05#8, driving := true, hiz := false, pulse := true, sampled := pins,
                                    needCold := true })

/-- CLAMP (R501, R502): the pins are held at the preloaded values. -/
def execClamp (s : State) : Host.Outcome State Fault Refusal :=
  event (s.modTap fun t => { t with ir := 0x06#8, driving := true, hiz := false, pulse := false, needCold := true })

/-- HIGHZ (R501, R502). -/
def execHighz (s : State) : Host.Outcome State Fault Refusal :=
  event (s.modTap fun t => { t with ir := 0x07#8, driving := false, hiz := true, pulse := false, needCold := true })

/-- BYPASS (R501). -/
def execBypass (s : State) : Host.Outcome State Fault Refusal :=
  event (s.modTap fun t => { t with ir := 0xFF#8, driving := false, hiz := false, pulse := false })

end Sys2Proof.Machine
end

