-- ==== Sys2Proof/Machine/Dispatch.lean ====
section
/-! DEFINITION. One arm for each constructor of Instr: a direct call of its meaning. -/

namespace Sys2Proof.Machine

open Sys2Proof

def exec (i : Instr) (s : State) : Host.Outcome State Fault Refusal :=
  match i with
  | .registerWrite fn off v => Sys2Proof.Machine.execRegisterWrite fn off v s
  | .intStatusWrite fn v => Sys2Proof.Machine.execIntStatusWrite fn v s
  | .violationsRead fn => Sys2Proof.Machine.execViolationsRead fn s
  | .register64LowWordRead fn off => Sys2Proof.Machine.execRegister64LowWordRead fn off s
  | .bar0AccessBeforeLive fn off wr v => Sys2Proof.Machine.execBar0AccessBeforeLive fn off wr v s
  | .enableWrite ring v => Sys2Proof.Machine.execEnableWrite ring v s
  | .sqTail ring v => Sys2Proof.Machine.execSqTail ring v s
  | .cqHead ring v => Sys2Proof.Machine.execCqHead ring v s
  | .slotFetch => Sys2Proof.Machine.execSlotFetch s
  | .slotArrival ring slot payload => Sys2Proof.Machine.execSlotArrival ring slot payload s
  | .functionLevelReset fn => Sys2Proof.Machine.execFunctionLevelReset fn s
  | .pfFunctionLevelReset => Sys2Proof.Machine.execPfFunctionLevelReset s
  | .sessionLockoutEnd fn => Sys2Proof.Machine.execSessionLockoutEnd fn s
  | .controlReady => Sys2Proof.Machine.execControlReady s
  | .partReady => Sys2Proof.Machine.execPartReady s
  | .partIdentify w => Sys2Proof.Machine.execPartIdentify w s
  | .partIdentifyExpert w => Sys2Proof.Machine.execPartIdentifyExpert w s
  | .sessionChallenge w => Sys2Proof.Machine.execSessionChallenge w s
  | .sessionChallengeExpert w => Sys2Proof.Machine.execSessionChallengeExpert w s
  | .sessionOpen w => Sys2Proof.Machine.execSessionOpen w s
  | .sessionOpenExpert w => Sys2Proof.Machine.execSessionOpenExpert w s
  | .sessionClose w => Sys2Proof.Machine.execSessionClose w s
  | .sessionCloseExpert w => Sys2Proof.Machine.execSessionCloseExpert w s
  | .cmdCancel w => Sys2Proof.Machine.execCmdCancel w s
  | .cmdCancelExpert w => Sys2Proof.Machine.execCmdCancelExpert w s
  | .workQuery w => Sys2Proof.Machine.execWorkQuery w s
  | .workQueryExpert w => Sys2Proof.Machine.execWorkQueryExpert w s
  | .nop w => Sys2Proof.Machine.execNop w s
  | .nopExpert w => Sys2Proof.Machine.execNopExpert w s
  | .paddockCreate w => Sys2Proof.Machine.execPaddockCreate w s
  | .paddockCreateExpert w => Sys2Proof.Machine.execPaddockCreateExpert w s
  | .paddockModify w => Sys2Proof.Machine.execPaddockModify w s
  | .paddockModifyExpert w => Sys2Proof.Machine.execPaddockModifyExpert w s
  | .paddockDestroy w => Sys2Proof.Machine.execPaddockDestroy w s
  | .paddockDestroyExpert w => Sys2Proof.Machine.execPaddockDestroyExpert w s
  | .paddockQuery w => Sys2Proof.Machine.execPaddockQuery w s
  | .paddockQueryExpert w => Sys2Proof.Machine.execPaddockQueryExpert w s
  | .paddockKeySet w => Sys2Proof.Machine.execPaddockKeySet w s
  | .paddockKeySetExpert w => Sys2Proof.Machine.execPaddockKeySetExpert w s
  | .arrayStep k p => Sys2Proof.Machine.execArrayStep k p s
  | .qmx k f ln hi r vs vd sd => Sys2Proof.Machine.execQmx k f ln hi r vs vd sd s
  | .vectorArithmetic k op ln r vd va vb vc => Sys2Proof.Machine.execVectorArithmetic k op ln r vd va vb vc s
  | .vectorReduction k op ln r src n sd saved => Sys2Proof.Machine.execVectorReduction k op ln r src n sd saved s
  | .exsum k ln va n ex => Sys2Proof.Machine.execExsum k ln va n ex s
  | .exsumsq k ln va n ex => Sys2Proof.Machine.execExsumsq k ln va n ex s
  | .exdot k ln va vb n ex => Sys2Proof.Machine.execExdot k ln va vb n ex s
  | .exp k ln vd va => Sys2Proof.Machine.execExp k ln vd va s
  | .expm1 k ln vd va => Sys2Proof.Machine.execExpm1 k ln vd va s
  | .log k ln vd va => Sys2Proof.Machine.execLog k ln vd va s
  | .tanh k ln vd va => Sys2Proof.Machine.execTanh k ln vd va s
  | .sigmoid k ln vd va => Sys2Proof.Machine.execSigmoid k ln vd va s
  | .silu k ln vd va => Sys2Proof.Machine.execSilu k ln vd va s
  | .lfrand k vd => Sys2Proof.Machine.execLfrand k vd s
  | .lfseed k ss => Sys2Proof.Machine.execLfseed k ss s
  | .cbrand k vd sk vc => Sys2Proof.Machine.execCbrand k vd sk vc s
  | .cbunif k vd sk vc => Sys2Proof.Machine.execCbunif k vd sk vc s
  | .cbnorm k vd sk vc => Sys2Proof.Machine.execCbnorm k vd sk vc s
  | .tbnorm k vd vw off => Sys2Proof.Machine.execTbnorm k vd vw off s
  | .ppot k l dl lpNew lpOld a elo ehi => Sys2Proof.Machine.execPpot k l dl lpNew lpOld a elo ehi s
  | .tisw k vd lpA lpB cap => Sys2Proof.Machine.execTisw k vd lpA lpB cap s
  | .klt k vk vdk lpNew lpRef kind => Sys2Proof.Machine.execKlt k vk vdk lpNew lpRef kind s
  | .lpcmp k lp rec ver learnVer seqs poss n => Sys2Proof.Machine.execLpcmp k lp rec ver learnVer seqs poss n s
  | .basinLoad k dst ra off n ecc => Sys2Proof.Machine.execBasinLoad k dst ra off n ecc s
  | .basinStore k src ra off n => Sys2Proof.Machine.execBasinStore k src ra off n s
  | .trap k v => Sys2Proof.Machine.execTrap k v s
  | .srd k rh rc rn rs rx => Sys2Proof.Machine.execSrd k rh rc rn rs rx s
  | .srel k rh rc rs => Sys2Proof.Machine.execSrel k rh rc rs s
  | .swr k rh ro rs => Sys2Proof.Machine.execSwr k rh ro rs s
  | .sclose k rh rs => Sys2Proof.Machine.execSclose k rh rs s
  | .sabort k rh rs => Sys2Proof.Machine.execSabort k rh rs s
  | .barv k rb rs => Sys2Proof.Machine.execBarv k rb rs s
  | .bwait k rb rs => Sys2Proof.Machine.execBwait k rb rs s
  | .teamAtPreemptionPoint team point => Sys2Proof.Machine.execTeamAtPreemptionPoint team point s
  | .forcedStop team => Sys2Proof.Machine.execForcedStop team s
  | .saveComplete w => Sys2Proof.Machine.execSaveComplete w s
  | .restoreComplete w => Sys2Proof.Machine.execRestoreComplete w s
  | .taskPlacement w => Sys2Proof.Machine.execTaskPlacement w s
  | .placementWaitLimit pad => Sys2Proof.Machine.execPlacementWaitLimit pad s
  | .taskEnd w rank => Sys2Proof.Machine.execTaskEnd w rank s
  | .teamException k cause addr more dirty => Sys2Proof.Machine.execTeamException k cause addr more dirty s
  | .timeLimit w rank core => Sys2Proof.Machine.execTimeLimit w rank core s
  | .arrayAck k dirty => Sys2Proof.Machine.execArrayAck k dirty s
  | .kernelLoad w hm => Sys2Proof.Machine.execKernelLoad w hm s
  | .kernelLoadExpert w hm => Sys2Proof.Machine.execKernelLoadExpert w hm s
  | .kernelUnload w => Sys2Proof.Machine.execKernelUnload w s
  | .kernelUnloadExpert w => Sys2Proof.Machine.execKernelUnloadExpert w s
  | .taskLaunch w hm => Sys2Proof.Machine.execTaskLaunch w hm s
  | .taskLaunchExpert w hm => Sys2Proof.Machine.execTaskLaunchExpert w hm s
  | .taskAbort w => Sys2Proof.Machine.execTaskAbort w s
  | .taskAbortExpert w => Sys2Proof.Machine.execTaskAbortExpert w s
  | .taskPreempt w => Sys2Proof.Machine.execTaskPreempt w s
  | .taskPreemptExpert w => Sys2Proof.Machine.execTaskPreemptExpert w s
  | .taskResume w => Sys2Proof.Machine.execTaskResume w s
  | .taskResumeExpert w => Sys2Proof.Machine.execTaskResumeExpert w s
  | .taskQuery w => Sys2Proof.Machine.execTaskQuery w s
  | .taskQueryExpert w => Sys2Proof.Machine.execTaskQueryExpert w s
  | .teamQuery w => Sys2Proof.Machine.execTeamQuery w s
  | .teamQueryExpert w => Sys2Proof.Machine.execTeamQueryExpert w s
  | .rngFill w => Sys2Proof.Machine.execRngFill w s
  | .rngFillExpert w hm => Sys2Proof.Machine.execRngFillExpert w hm s
  | .rngCheck w bad => Sys2Proof.Machine.execRngCheck w bad s
  | .rngCheckExpert w bad => Sys2Proof.Machine.execRngCheckExpert w bad s
  | .rngLaneState w => Sys2Proof.Machine.execRngLaneState w s
  | .rngLaneStateExpert w hm => Sys2Proof.Machine.execRngLaneStateExpert w hm s
  | .tileCommit h t => Sys2Proof.Machine.execTileCommit h t s
  | .burstDelivery h c => Sys2Proof.Machine.execBurstDelivery h c s
  | .poisonTileCommit h => Sys2Proof.Machine.execPoisonTileCommit h s
  | .bindTransferEnd w => Sys2Proof.Machine.execBindTransferEnd w s
  | .basinScrub q outcome => Sys2Proof.Machine.execBasinScrub q outcome s
  | .transactionTagGrant w tile line => Sys2Proof.Machine.execTransactionTagGrant w tile line s
  | .tierReadResponse tag errs => Sys2Proof.Machine.execTierReadResponse tag errs s
  | .tierWriteAck tag => Sys2Proof.Machine.execTierWriteAck tag s
  | .tierRequestTimeout tag => Sys2Proof.Machine.execTierRequestTimeout tag s
  | .engineFaultReset u => Sys2Proof.Machine.execEngineFaultReset u s
  | .uncommittedTileDiscard => Sys2Proof.Machine.execUncommittedTileDiscard s
  | .streamOpen w => Sys2Proof.Machine.execStreamOpen w s
  | .streamOpenExpert w => Sys2Proof.Machine.execStreamOpenExpert w s
  | .streamBind w => Sys2Proof.Machine.execStreamBind w s
  | .streamBindExpert w => Sys2Proof.Machine.execStreamBindExpert w s
  | .streamClose w => Sys2Proof.Machine.execStreamClose w s
  | .streamCloseExpert w => Sys2Proof.Machine.execStreamCloseExpert w s
  | .streamAbort w => Sys2Proof.Machine.execStreamAbort w s
  | .streamAbortExpert w => Sys2Proof.Machine.execStreamAbortExpert w s
  | .streamQuery w => Sys2Proof.Machine.execStreamQuery w s
  | .streamQueryExpert w => Sys2Proof.Machine.execStreamQueryExpert w s
  | .streamFree w => Sys2Proof.Machine.execStreamFree w s
  | .streamFreeExpert w => Sys2Proof.Machine.execStreamFreeExpert w s
  | .streamRearm w => Sys2Proof.Machine.execStreamRearm w s
  | .streamRearmExpert w => Sys2Proof.Machine.execStreamRearmExpert w s
  | .barrierCreate w => Sys2Proof.Machine.execBarrierCreate w s
  | .barrierCreateExpert w => Sys2Proof.Machine.execBarrierCreateExpert w s
  | .barrierArrive w => Sys2Proof.Machine.execBarrierArrive w s
  | .barrierArriveExpert w => Sys2Proof.Machine.execBarrierArriveExpert w s
  | .barrierDestroy w => Sys2Proof.Machine.execBarrierDestroy w s
  | .barrierDestroyExpert w => Sys2Proof.Machine.execBarrierDestroyExpert w s
  | .basinQuery w => Sys2Proof.Machine.execBasinQuery w s
  | .basinQueryExpert w => Sys2Proof.Machine.execBasinQueryExpert w s
  | .memAlloc w => Sys2Proof.Machine.execMemAlloc w s
  | .memAllocExpert w => Sys2Proof.Machine.execMemAllocExpert w s
  | .memFree w => Sys2Proof.Machine.execMemFree w s
  | .memFreeExpert w => Sys2Proof.Machine.execMemFreeExpert w s
  | .memQuery w => Sys2Proof.Machine.execMemQuery w s
  | .memQueryExpert w => Sys2Proof.Machine.execMemQueryExpert w s
  | .memFill w => Sys2Proof.Machine.execMemFill w s
  | .memFillExpert w => Sys2Proof.Machine.execMemFillExpert w s
  | .memMapout w => Sys2Proof.Machine.execMemMapout w s
  | .memMapoutExpert w => Sys2Proof.Machine.execMemMapoutExpert w s
  | .nvwProgram w => Sys2Proof.Machine.execNvwProgram w s
  | .nvwProgramExpert w => Sys2Proof.Machine.execNvwProgramExpert w s
  | .nvwSeal w => Sys2Proof.Machine.execNvwSeal w s
  | .nvwSealExpert w hm => Sys2Proof.Machine.execNvwSealExpert w hm s
  | .nvwErase w => Sys2Proof.Machine.execNvwErase w s
  | .nvwEraseExpert w => Sys2Proof.Machine.execNvwEraseExpert w s
  | .nvwGrant w => Sys2Proof.Machine.execNvwGrant w s
  | .nvwGrantExpert w => Sys2Proof.Machine.execNvwGrantExpert w s
  | .nvwQuery w => Sys2Proof.Machine.execNvwQuery w s
  | .nvwQueryExpert w => Sys2Proof.Machine.execNvwQueryExpert w s
  | .parkQuery w => Sys2Proof.Machine.execParkQuery w s
  | .parkQueryExpert w evs => Sys2Proof.Machine.execParkQueryExpert w evs s
  | .parkControl w found => Sys2Proof.Machine.execParkControl w found s
  | .parkControlExpert w found => Sys2Proof.Machine.execParkControlExpert w found s
  | .memTelemetry w => Sys2Proof.Machine.execMemTelemetry w s
  | .memTelemetryExpert w => Sys2Proof.Machine.execMemTelemetryExpert w s
  | .hbmRefresh c => Sys2Proof.Machine.execHbmRefresh c s
  | .calibrationDue c idle ok => Sys2Proof.Machine.execCalibrationDue c idle ok s
  | .forcedCalibration c ok => Sys2Proof.Machine.execForcedCalibration c ok s
  | .patrolScrub c symbols line => Sys2Proof.Machine.execPatrolScrub c symbols line s
  | .scrubAge c => Sys2Proof.Machine.execScrubAge c s
  | .correctedWriteback c => Sys2Proof.Machine.execCorrectedWriteback c s
  | .channelMapoutDecision c => Sys2Proof.Machine.execChannelMapoutDecision c s
  | .mapoutFrameSwitch c bad lines => Sys2Proof.Machine.execMapoutFrameSwitch c bad lines s
  | .mapoutRetry c => Sys2Proof.Machine.execMapoutRetry c s
  | .nvwTileProgrammed w ok => Sys2Proof.Machine.execNvwTileProgrammed w ok s
  | .nvwPatrol stack block relocate => Sys2Proof.Machine.execNvwPatrol stack block relocate s
  | .nvwRelocationSwitch stack block => Sys2Proof.Machine.execNvwRelocationSwitch stack block s
  | .cxlDrs dev tag poison viol => Sys2Proof.Machine.execCxlDrs dev tag poison viol s
  | .cxlNdr dev tag viol => Sys2Proof.Machine.execCxlNdr dev tag viol s
  | .cxlRequestTimeout tag => Sys2Proof.Machine.execCxlRequestTimeout tag s
  | .cxlLinkDown dev => Sys2Proof.Machine.execCxlLinkDown dev s
  | .genModelRegister w hm => Sys2Proof.Machine.execGenModelRegister w hm s
  | .genModelRegisterExpert w hm => Sys2Proof.Machine.execGenModelRegisterExpert w hm s
  | .genModelRelease w => Sys2Proof.Machine.execGenModelRelease w s
  | .genModelReleaseExpert w => Sys2Proof.Machine.execGenModelReleaseExpert w s
  | .genAdapterLoad w => Sys2Proof.Machine.execGenAdapterLoad w s
  | .genAdapterLoadExpert w => Sys2Proof.Machine.execGenAdapterLoadExpert w s
  | .genAdapterUnload w => Sys2Proof.Machine.execGenAdapterUnload w s
  | .genAdapterUnloadExpert w => Sys2Proof.Machine.execGenAdapterUnloadExpert w s
  | .genRingCreate w => Sys2Proof.Machine.execGenRingCreate w s
  | .genRingCreateExpert w => Sys2Proof.Machine.execGenRingCreateExpert w s
  | .genRingAdvance w => Sys2Proof.Machine.execGenRingAdvance w s
  | .genRingAdvanceExpert w => Sys2Proof.Machine.execGenRingAdvanceExpert w s
  | .genLoopStart w => Sys2Proof.Machine.execGenLoopStart w s
  | .genLoopStartExpert w => Sys2Proof.Machine.execGenLoopStartExpert w s
  | .genLoopStop w => Sys2Proof.Machine.execGenLoopStop w s
  | .genLoopStopExpert w => Sys2Proof.Machine.execGenLoopStopExpert w s
  | .genAdmit w hm => Sys2Proof.Machine.execGenAdmit w hm s
  | .genAdmitExpert w hm => Sys2Proof.Machine.execGenAdmitExpert w hm s
  | .genCancel w => Sys2Proof.Machine.execGenCancel w s
  | .genCancelExpert w => Sys2Proof.Machine.execGenCancelExpert w s
  | .genPark w => Sys2Proof.Machine.execGenPark w s
  | .genParkExpert w => Sys2Proof.Machine.execGenParkExpert w s
  | .genResume w hm => Sys2Proof.Machine.execGenResume w hm s
  | .genResumeExpert w hm => Sys2Proof.Machine.execGenResumeExpert w hm s
  | .genQuery w => Sys2Proof.Machine.execGenQuery w s
  | .genQueryExpert w => Sys2Proof.Machine.execGenQueryExpert w s
  | .genRelease w => Sys2Proof.Machine.execGenRelease w s
  | .genReleaseExpert w => Sys2Proof.Machine.execGenReleaseExpert w s
  | .genLoopQuery w => Sys2Proof.Machine.execGenLoopQuery w s
  | .genLoopQueryExpert w => Sys2Proof.Machine.execGenLoopQueryExpert w s
  | .stepBoundary model fwd => Sys2Proof.Machine.execStepBoundary model fwd s
  | .autoPark model => Sys2Proof.Machine.execAutoPark model s
  | .autoResume entry => Sys2Proof.Machine.execAutoResume entry s
  | .sequenceExpiry entry => Sys2Proof.Machine.execSequenceExpiry entry s
  | .evictionComplete entry ok => Sys2Proof.Machine.execEvictionComplete entry ok s
  | .berthFetchComplete entry => Sys2Proof.Machine.execBerthFetchComplete entry s
  | .listForwardArrival model list => Sys2Proof.Machine.execListForwardArrival model list s
  | .learnSetRegister w hm => Sys2Proof.Machine.execLearnSetRegister w hm s
  | .learnSetRegisterExpert w hm => Sys2Proof.Machine.execLearnSetRegisterExpert w hm s
  | .learnSetRelease w => Sys2Proof.Machine.execLearnSetRelease w s
  | .learnSetReleaseExpert w => Sys2Proof.Machine.execLearnSetReleaseExpert w s
  | .learnExchange w => Sys2Proof.Machine.execLearnExchange w s
  | .learnExchangeExpert w => Sys2Proof.Machine.execLearnExchangeExpert w s
  | .exchangeComplete w => Sys2Proof.Machine.execExchangeComplete w s
  | .learnNorm w => Sys2Proof.Machine.execLearnNorm w s
  | .learnNormExpert w => Sys2Proof.Machine.execLearnNormExpert w s
  | .normComplete w => Sys2Proof.Machine.execNormComplete w s
  | .learnSweep w => Sys2Proof.Machine.execLearnSweep w s
  | .learnSweepExpert w => Sys2Proof.Machine.execLearnSweepExpert w s
  | .updateSpanDone w group span => Sys2Proof.Machine.execUpdateSpanDone w group span s
  | .sweepComplete w => Sys2Proof.Machine.execSweepComplete w s
  | .unitFault u => Sys2Proof.Machine.execUnitFault u s
  | .unitSpanTimeout w group span => Sys2Proof.Machine.execUnitSpanTimeout w group span s
  | .stashRestore set => Sys2Proof.Machine.execStashRestore set s
  | .learnMicroLoad w hm => Sys2Proof.Machine.execLearnMicroLoad w hm s
  | .learnMicroLoadExpert w hm => Sys2Proof.Machine.execLearnMicroLoadExpert w hm s
  | .learnMicroUnload w => Sys2Proof.Machine.execLearnMicroUnload w s
  | .learnMicroUnloadExpert w => Sys2Proof.Machine.execLearnMicroUnloadExpert w s
  | .learnRouteCheck w hm => Sys2Proof.Machine.execLearnRouteCheck w hm s
  | .learnRouteCheckExpert w hm => Sys2Proof.Machine.execLearnRouteCheckExpert w hm s
  | .learnQuery w => Sys2Proof.Machine.execLearnQuery w s
  | .learnQueryExpert w => Sys2Proof.Machine.execLearnQueryExpert w s
  | .reinLayoutRegister w hm => Sys2Proof.Machine.execReinLayoutRegister w hm s
  | .reinLayoutRegisterExpert w hm => Sys2Proof.Machine.execReinLayoutRegisterExpert w hm s
  | .reinLayoutRelease w => Sys2Proof.Machine.execReinLayoutRelease w s
  | .reinLayoutReleaseExpert w => Sys2Proof.Machine.execReinLayoutReleaseExpert w s
  | .reinDrain w => Sys2Proof.Machine.execReinDrain w s
  | .reinDrainExpert w => Sys2Proof.Machine.execReinDrainExpert w s
  | .reinPermute w held => Sys2Proof.Machine.execReinPermute w held s
  | .reinPermuteExpert w held => Sys2Proof.Machine.execReinPermuteExpert w held s
  | .permuteComplete w => Sys2Proof.Machine.execPermuteComplete w s
  | .reinRemount w ready => Sys2Proof.Machine.execReinRemount w ready s
  | .reinRemountExpert w ready => Sys2Proof.Machine.execReinRemountExpert w ready s
  | .remountOldSlotRelease model => Sys2Proof.Machine.execRemountOldSlotRelease model s
  | .reinResume w ready => Sys2Proof.Machine.execReinResume w ready s
  | .reinResumeExpert w ready => Sys2Proof.Machine.execReinResumeExpert w ready s
  | .reinQuery w => Sys2Proof.Machine.execReinQuery w s
  | .reinQueryExpert w => Sys2Proof.Machine.execReinQueryExpert w s
  | .traceGroupCreate w hm => Sys2Proof.Machine.execTraceGroupCreate w hm s
  | .traceGroupCreateExpert w hm => Sys2Proof.Machine.execTraceGroupCreateExpert w hm s
  | .traceGroupDestroy w => Sys2Proof.Machine.execTraceGroupDestroy w s
  | .traceGroupDestroyExpert w => Sys2Proof.Machine.execTraceGroupDestroyExpert w s
  | .traceColl w => Sys2Proof.Machine.execTraceColl w s
  | .traceCollExpert w hm => Sys2Proof.Machine.execTraceCollExpert w hm s
  | .traceCollCancel w => Sys2Proof.Machine.execTraceCollCancel w s
  | .traceCollCancelExpert w => Sys2Proof.Machine.execTraceCollCancelExpert w s
  | .traceWindowRegister w => Sys2Proof.Machine.execTraceWindowRegister w s
  | .traceWindowRegisterExpert w => Sys2Proof.Machine.execTraceWindowRegisterExpert w s
  | .traceSend w hm => Sys2Proof.Machine.execTraceSend w hm s
  | .traceSendExpert w hm => Sys2Proof.Machine.execTraceSendExpert w hm s
  | .traceRecv w => Sys2Proof.Machine.execTraceRecv w s
  | .traceRecvExpert w => Sys2Proof.Machine.execTraceRecvExpert w s
  | .traceMsgCancel w => Sys2Proof.Machine.execTraceMsgCancel w s
  | .traceMsgCancelExpert w => Sys2Proof.Machine.execTraceMsgCancelExpert w s
  | .tracePortQuery w => Sys2Proof.Machine.execTracePortQuery w s
  | .tracePortQueryExpert w => Sys2Proof.Machine.execTracePortQueryExpert w s
  | .tracePortControl w => Sys2Proof.Machine.execTracePortControl w s
  | .tracePortControlExpert w => Sys2Proof.Machine.execTracePortControlExpert w s
  | .traceTimeQuery w => Sys2Proof.Machine.execTraceTimeQuery w s
  | .traceTimeConfig w => Sys2Proof.Machine.execTraceTimeConfig w s
  | .traceGroupQuery w => Sys2Proof.Machine.execTraceGroupQuery w s
  | .traceGroupQueryExpert w => Sys2Proof.Machine.execTraceGroupQueryExpert w s
  | .chunk p m => Sys2Proof.Machine.execChunk p m s
  | .grant p m => Sys2Proof.Machine.execGrant p m s
  | .done p m => Sys2Proof.Machine.execDone p m s
  | .abort p m => Sys2Proof.Machine.execAbort p m s
  | .windowMessage p m => Sys2Proof.Machine.execWindowMessage p m s
  | .dispatchKeys p m => Sys2Proof.Machine.execDispatchKeys p m s
  | .dispatchAccept p m => Sys2Proof.Machine.execDispatchAccept p m s
  | .forwarded p m => Sys2Proof.Machine.execForwarded p m s
  | .grantIssue group seq => Sys2Proof.Machine.execGrantIssue group seq s
  | .grantReissue group seq rank => Sys2Proof.Machine.execGrantReissue group seq rank s
  | .creditRecord p c1 c2 c3 => Sys2Proof.Machine.execCreditRecord p c1 c2 c3 s
  | .creditRecordTimer p => Sys2Proof.Machine.execCreditRecordTimer p s
  | .ackseq p seq => Sys2Proof.Machine.execAckseq p seq s
  | .ackTimer p => Sys2Proof.Machine.execAckTimer p s
  | .retry p seq => Sys2Proof.Machine.execRetry p seq s
  | .refuse p mtag reason => Sys2Proof.Machine.execRefuse p mtag reason s
  | .refuseResend mtag => Sys2Proof.Machine.execRefuseResend mtag s
  | .sync p t1 corr => Sys2Proof.Machine.execSync p t1 corr s
  | .delayReq p t3 => Sys2Proof.Machine.execDelayReq p t3 s
  | .delayResp p t4 => Sys2Proof.Machine.execDelayResp p t4 s
  | .syncTimer p => Sys2Proof.Machine.execSyncTimer p s
  | .timeParentLoss => Sys2Proof.Machine.execTimeParentLoss s
  | .stewardSwapRequest p => Sys2Proof.Machine.execStewardSwapRequest p s
  | .stewardSwapGrant p => Sys2Proof.Machine.execStewardSwapGrant p s
  | .retrainRequest p command => Sys2Proof.Machine.execRetrainRequest p command s
  | .identityExchange p id peerPort isSwitch => Sys2Proof.Machine.execIdentityExchange p id peerPort isSwitch s
  | .trainingStart p => Sys2Proof.Machine.execTrainingStart p s
  | .trainingTimeout p => Sys2Proof.Machine.execTrainingTimeout p s
  | .linkAdmission p => Sys2Proof.Machine.execLinkAdmission p s
  | .lossOfLock p => Sys2Proof.Machine.execLossOfLock p s
  | .laneErrorThreshold p lane => Sys2Proof.Machine.execLaneErrorThreshold p lane s
  | .retrainComplete p ok => Sys2Proof.Machine.execRetrainComplete p ok s
  | .fullWidthAttempt p => Sys2Proof.Machine.execFullWidthAttempt p s
  | .routeLoss part cells => Sys2Proof.Machine.execRouteLoss part cells s
  | .detourSelect p known => Sys2Proof.Machine.execDetourSelect p known s
  | .collectiveTimeout group seq => Sys2Proof.Machine.execCollectiveTimeout group seq s
  | .sendTimeout w => Sys2Proof.Machine.execSendTimeout w s
  | .resilMoorCreate w hm others => Sys2Proof.Machine.execResilMoorCreate w hm others s
  | .resilMoorCreateExpert w hm others => Sys2Proof.Machine.execResilMoorCreateExpert w hm others s
  | .resilMoorRefresh w => Sys2Proof.Machine.execResilMoorRefresh w s
  | .resilMoorRefreshExpert w => Sys2Proof.Machine.execResilMoorRefreshExpert w s
  | .resilMoorReplace w joined => Sys2Proof.Machine.execResilMoorReplace w joined s
  | .resilMoorReplaceExpert w joined => Sys2Proof.Machine.execResilMoorReplaceExpert w joined s
  | .resilMoorShrink w cells shares => Sys2Proof.Machine.execResilMoorShrink w cells shares s
  | .resilMoorShrinkExpert w cells shares => Sys2Proof.Machine.execResilMoorShrinkExpert w cells shares s
  | .resilMoorRepair w shares => Sys2Proof.Machine.execResilMoorRepair w shares s
  | .resilMoorRepairExpert w shares => Sys2Proof.Machine.execResilMoorRepairExpert w shares s
  | .resilMoorQuery w => Sys2Proof.Machine.execResilMoorQuery w s
  | .resilMoorQueryExpert w => Sys2Proof.Machine.execResilMoorQueryExpert w s
  | .resilMoorDestroy w => Sys2Proof.Machine.execResilMoorDestroy w s
  | .resilMoorDestroyExpert w => Sys2Proof.Machine.execResilMoorDestroyExpert w s
  | .resilWait w => Sys2Proof.Machine.execResilWait w s
  | .resilWaitExpert w => Sys2Proof.Machine.execResilWaitExpert w s
  | .resilJournalQuery w => Sys2Proof.Machine.execResilJournalQuery w s
  | .resilJournalQueryExpert w => Sys2Proof.Machine.execResilJournalQueryExpert w s
  | .resilTeamRetire w => Sys2Proof.Machine.execResilTeamRetire w s
  | .resilTeamRetireExpert w => Sys2Proof.Machine.execResilTeamRetireExpert w s
  | .resilWarmReset w => Sys2Proof.Machine.execResilWarmReset w s
  | .resilWarmResetExpert w => Sys2Proof.Machine.execResilWarmResetExpert w s
  | .stripeParityCompute moor stripe cells => Sys2Proof.Machine.execStripeParityCompute moor stripe cells s
  | .stripeCommit moor stripe parity last => Sys2Proof.Machine.execStripeCommit moor stripe parity last s
  | .autoReplaceStart moor => Sys2Proof.Machine.execAutoReplaceStart moor s
  | .rebuildComplete moor lost spare epoch shares => Sys2Proof.Machine.execRebuildComplete moor lost spare epoch shares s
  | .shrinkComplete moor => Sys2Proof.Machine.execShrinkComplete moor s
  | .poisonLineRepair line shares => Sys2Proof.Machine.execPoisonLineRepair line shares s
  | .teamSubstitution => Sys2Proof.Machine.execTeamSubstitution s
  | .controlCoreFault => Sys2Proof.Machine.execControlCoreFault s
  | .heartbeatMissing kryto => Sys2Proof.Machine.execHeartbeatMissing kryto s
  | .warmReset => Sys2Proof.Machine.execWarmReset s
  | .journalSettlement => Sys2Proof.Machine.execJournalSettlement s
  | .quaySessionOpen w => Sys2Proof.Machine.execQuaySessionOpen w s
  | .quaySessionOpenExpert w => Sys2Proof.Machine.execQuaySessionOpenExpert w s
  | .quaySessionClose w => Sys2Proof.Machine.execQuaySessionClose w s
  | .quaySessionCloseExpert w => Sys2Proof.Machine.execQuaySessionCloseExpert w s
  | .quayFrameCommit w hm => Sys2Proof.Machine.execQuayFrameCommit w hm s
  | .quayFrameCommitExpert w hm => Sys2Proof.Machine.execQuayFrameCommitExpert w hm s
  | .quayRingAdvance w => Sys2Proof.Machine.execQuayRingAdvance w s
  | .quayRingAdvanceExpert w => Sys2Proof.Machine.execQuayRingAdvanceExpert w s
  | .quayQuery w => Sys2Proof.Machine.execQuayQuery w s
  | .quayQueryExpert w => Sys2Proof.Machine.execQuayQueryExpert w s
  | .frameStart session => Sys2Proof.Machine.execFrameStart session s
  | .pictureCoded session r => Sys2Proof.Machine.execPictureCoded session r s
  | .pwrCapSet w => Sys2Proof.Machine.execPwrCapSet w s
  | .pwrCapSetExpert w => Sys2Proof.Machine.execPwrCapSetExpert w s
  | .pwrTeamVolt w => Sys2Proof.Machine.execPwrTeamVolt w s
  | .pwrTeamVoltExpert w => Sys2Proof.Machine.execPwrTeamVoltExpert w s
  | .pwrRailSet w => Sys2Proof.Machine.execPwrRailSet w s
  | .pwrRailSetExpert w => Sys2Proof.Machine.execPwrRailSetExpert w s
  | .pwrRateLimit w => Sys2Proof.Machine.execPwrRateLimit w s
  | .pwrRateLimitExpert w => Sys2Proof.Machine.execPwrRateLimitExpert w s
  | .pwrTelemetry w => Sys2Proof.Machine.execPwrTelemetry w s
  | .pwrTelemetryExpert w => Sys2Proof.Machine.execPwrTelemetryExpert w s
  | .pwrCeilingQuery w => Sys2Proof.Machine.execPwrCeilingQuery w s
  | .pwrCeilingQueryExpert w => Sys2Proof.Machine.execPwrCeilingQueryExpert w s
  | .pwrThermalQuery w => Sys2Proof.Machine.execPwrThermalQuery w s
  | .pwrThermalQueryExpert w => Sys2Proof.Machine.execPwrThermalQueryExpert w s
  | .capLoopPeriod => Sys2Proof.Machine.execCapLoopPeriod s
  | .excursionDurationLimit => Sys2Proof.Machine.execExcursionDurationLimit s
  | .regulatorTargetReached rail k => Sys2Proof.Machine.execRegulatorTargetReached rail k s
  | .teamCurrentSample currents => Sys2Proof.Machine.execTeamCurrentSample currents s
  | .railCurrentRead rail current => Sys2Proof.Machine.execRailCurrentRead rail current s
  | .avsbusResponse rail viol volt => Sys2Proof.Machine.execAvsbusResponse rail viol volt s
  | .avsbusNoResponse rail => Sys2Proof.Machine.execAvsbusNoResponse rail s
  | .droopSlow team => Sys2Proof.Machine.execDroopSlow team s
  | .holdEnter team => Sys2Proof.Machine.execHoldEnter team s
  | .holdRelease team => Sys2Proof.Machine.execHoldRelease team s
  | .supplyHold team => Sys2Proof.Machine.execSupplyHold team s
  | .railFault rail reported => Sys2Proof.Machine.execRailFault rail reported s
  | .railFaultTimeout rail => Sys2Proof.Machine.execRailFaultTimeout rail s
  | .railRestored rail => Sys2Proof.Machine.execRailRestored rail s
  | .thermalSensorSample kind k temp => Sys2Proof.Machine.execThermalSensorSample kind k temp s
  | .throttlePeriod team => Sys2Proof.Machine.execThrottlePeriod team s
  | .thermalClamp => Sys2Proof.Machine.execThermalClamp s
  | .thermalTrip => Sys2Proof.Machine.execThermalTrip s
  | .replicaRead team slow => Sys2Proof.Machine.execReplicaRead team slow s
  | .ageingCheck team => Sys2Proof.Machine.execAgeingCheck team s
  | .selfTestRun w => Sys2Proof.Machine.execSelfTestRun w s
  | .selfTestRunExpert w => Sys2Proof.Machine.execSelfTestRunExpert w s
  | .selfTestStop w => Sys2Proof.Machine.execSelfTestStop w s
  | .selfTestStopExpert w => Sys2Proof.Machine.execSelfTestStopExpert w s
  | .selfTestQuery w => Sys2Proof.Machine.execSelfTestQuery w s
  | .selfTestQueryExpert w => Sys2Proof.Machine.execSelfTestQueryExpert w s
  | .selfChannelRestore w => Sys2Proof.Machine.execSelfChannelRestore w s
  | .selfChannelRestoreExpert w => Sys2Proof.Machine.execSelfChannelRestoreExpert w s
  | .selfMarginHbm w => Sys2Proof.Machine.execSelfMarginHbm w s
  | .selfMarginHbmExpert w => Sys2Proof.Machine.execSelfMarginHbmExpert w s
  | .selfMarginLane w => Sys2Proof.Machine.execSelfMarginLane w s
  | .selfMarginLaneExpert w => Sys2Proof.Machine.execSelfMarginLaneExpert w s
  | .selfMarginTeam w => Sys2Proof.Machine.execSelfMarginTeam w s
  | .selfMarginTeamExpert w => Sys2Proof.Machine.execSelfMarginTeamExpert w s
  | .selfPartIdSet w => Sys2Proof.Machine.execSelfPartIdSet w s
  | .selfPartIdSetExpert w => Sys2Proof.Machine.execSelfPartIdSetExpert w s
  | .testIndexComplete w index sig errors repairs ceiling dur => Sys2Proof.Machine.execTestIndexComplete w index sig errors repairs ceiling dur s
  | .fieldTestStart phys => Sys2Proof.Machine.execFieldTestStart phys s
  | .laneMarginingAtReceiver lane on => Sys2Proof.Machine.execLaneMarginingAtReceiver lane on s
  | .tapReset => Sys2Proof.Machine.execTapReset s
  | .idcode => Sys2Proof.Machine.execIdcode s
  | .samplePreload pins preload => Sys2Proof.Machine.execSamplePreload pins preload s
  | .extest pins => Sys2Proof.Machine.execExtest pins s
  | .extestPulse pins => Sys2Proof.Machine.execExtestPulse pins s
  | .extestTrain pins => Sys2Proof.Machine.execExtestTrain pins s
  | .clamp => Sys2Proof.Machine.execClamp s
  | .highz => Sys2Proof.Machine.execHighz s
  | .bypass => Sys2Proof.Machine.execBypass s
  | .pwrOkAssert addr1 addr0 => Sys2Proof.Machine.execPwrOkAssert addr1 addr0 s
  | .pwrOkDeassert => Sys2Proof.Machine.execPwrOkDeassert s
  | .coldReset => Sys2Proof.Machine.execColdReset s
  | .sysRstNDeassert pass => Sys2Proof.Machine.execSysRstNDeassert pass s
  | .warmRstNAssert => Sys2Proof.Machine.execWarmRstNAssert s
  | .perstNAssert => Sys2Proof.Machine.execPerstNAssert s
  | .perstNDeassert => Sys2Proof.Machine.execPerstNDeassert s
  | .cxlPerstNRelease => Sys2Proof.Machine.execCxlPerstNRelease s
  | .referenceClockLoss clk => Sys2Proof.Machine.execReferenceClockLoss clk s
  | .referenceClockReturn clk => Sys2Proof.Machine.execReferenceClockReturn clk s
  | .boardRailFault rail => Sys2Proof.Machine.execBoardRailFault rail s
  | .mctpMessage ep addr viol pcie ask => Sys2Proof.Machine.execMctpMessage ep addr viol pcie ask s
  | .spdmRequest ep addr viol req => Sys2Proof.Machine.execSpdmRequest ep addr viol req s
  | .eventAcknowledge ep addr entry => Sys2Proof.Machine.execEventAcknowledge ep addr entry s
  | .eventLogRead ep entry count => Sys2Proof.Machine.execEventLogRead ep entry count s
  | .smbusAlertResponse => Sys2Proof.Machine.execSmbusAlertResponse s
  | .mctpQuarantineExpiry ep => Sys2Proof.Machine.execMctpQuarantineExpiry ep s
  | .nopDelayExpiry w => Sys2Proof.Machine.execNopDelayExpiry w s
  | .remountWaitTimeout w => Sys2Proof.Machine.execRemountWaitTimeout w s
  | .bar0WindowLive => Sys2Proof.Machine.execBar0WindowLive s
  | .pcieLinkUp => Sys2Proof.Machine.execPcieLinkUp s
  | .warmRstNDeassert => Sys2Proof.Machine.execWarmRstNDeassert s
  | .zeroingComplete w => Sys2Proof.Machine.execZeroingComplete w s
  | .nvwEraseComplete w fails => Sys2Proof.Machine.execNvwEraseComplete w fails s
  | .nvwSealDigestComplete w => Sys2Proof.Machine.execNvwSealDigestComplete w s
  | .mapoutPoisonComplete c => Sys2Proof.Machine.execMapoutPoisonComplete c s
  | .spareMappingSwitch team pass => Sys2Proof.Machine.execSpareMappingSwitch team pass s
  | .marginingComplete w vals => Sys2Proof.Machine.execMarginingComplete w vals s
  | .pcieReadCompletion w tile data => Sys2Proof.Machine.execPcieReadCompletion w tile data s
  | .pcieCompletionTimeout w tile => Sys2Proof.Machine.execPcieCompletionTimeout w tile s

end Sys2Proof.Machine
end

