-- ==== Sys2Proof/Machine/Step.lean ====
section
/-! DEFINITION. One step: the command at the front of the queue, or 1 ns of idling (R30, R384, log entry 3). -/

namespace Sys2Proof.Machine

open Sys2Proof

/-- The step of the block: it takes the command at the front of its queue and runs it with the queue's rest; with an
empty queue it idles, and the time base moves on by 1 ns (R30). -/
def step (s : State) : Host.Outcome State Fault Refusal :=
  match s.pending with
  | [] => .next s.tick
  | c :: rest => exec c { s with pending := rest }

/-- The state with the command that a word spells at the front of its queue. -/
def State.withFetchWord (s : State) (nbits w : Nat) : State :=
  match decodeTableWord nbits w with
  | some c => { s with pending := c :: s.pending }
  | none => s

end Sys2Proof.Machine
end

