-- ==== Sys2Proof/Safety.lean ====
section
/-! DEFINITION. What a safe run is: no step of the machine faults or refuses. What every step keeps: the canonical form
of memory and of the scratchpads, the order of the poison markers, the bounds of the rings (R52) and of the event log
(R536). -/

namespace Sys2Proof.Machine

open Sys2Proof

/-- Whether a step answers a next state. -/
def goesOn (s : State) : Bool :=
  match step s with
  | .next _ => true
  | _ => false

/-- The state after `n` steps, none where a step stops. -/
def State.run : Nat → State → Option State
  | 0, s => some s
  | n + 1, s =>
    match step s with
    | .next t => State.run n t
    | _ => none

/-- A safe run of `n` steps. -/
def State.safe (n : Nat) (s : State) : Prop := (s.run n).isSome

/-- The canonical form of a sparse memory: its addresses strictly rise and no cell holds the byte that an unlisted
address reads as (log entry 9). -/
def Memory.wf (m : List Host.Cell) : Bool := tsorted m && m.all fun c => c.2 != 0#8

/-- A ring holds at most 256 entries that the host has not consumed and at most 256 fetch credits (R52). -/
def Ring.bounded (r : Ring) : Prop := r.written ≤ 256 ∧ r.credits ≤ 256

/-- What every step keeps: memory and the scratchpads stay in canonical form, the poison markers strictly rise, every
ring keeps its bounds (R52), and the event log holds at most 65,536 entries (R536). -/
def State.Inv (s : State) : Prop :=
  Memory.wf s.mem = true ∧ Memory.wf s.scratch = true ∧ rising s.poison = true ∧
  (∀ e ∈ s.rings, e.2.bounded) ∧ s.log.entries.length ≤ 65536

/-- The command that dispatch hands on for an opcode and a WORK_ID: the record is accepted and may start now (part
running, masters up, ring order and FENCE satisfied), and its payload has no reserved bit set (R10, R49, R57). -/
def State.ready (s : State) (op : Nat) (w : BitVec 64) (hm : HostImage) : Option Cmd :=
  match s.startable op w with
  | some j => if payloadOk j then some (j.cmd hm) else none
  | none => none

/-- Whether a port hands a message on to what it does: its frame is whole and in sequence, it stays within its credit,
the port is past its link's training and not quarantined, no warm reset runs, and it names a kind and a sender that the
link allows (R370, R384, Table 11-10). -/
def State.linkTakes (s : State) (p : Nat) (m : Msg) : Bool :=
  let q := s.port p
  q.up && m.crc && m.fseq = q.rxSeq.toNat && 0 < (creditOf q.credGranted m.vc - usedOf q.credUsedRx m.vc).toInt &&
    q.state != .linked && s.part.pstate != .warmReset && q.state != .quarantined && !m.reserved && m.kind ≤ 6 &&
    (q.peerSwitch || m.fwd || q.peer = some m.src)

/-- The port's counters after a message of the right sequence number: its flits are counted, acknowledged later, and
their credit is given back (R370). -/
def State.linkTaken (s : State) (p : Nat) (m : Msg) : State :=
  s.modPort p fun q => { q with
    rxSeq := q.rxSeq + BitVec.ofNat 12 m.flits, rxDiscard := false, unacked := q.unacked + m.flits,
    bytesRx := q.bytesRx + BitVec.ofNat 64 (8 * m.flits),
    credUsedRx := tputD 0#32 q.credUsedRx m.vc (usedOf q.credUsedRx m.vc + BitVec.ofNat 32 m.flits),
    credGranted := tputD (baseCredit m.vc) q.credGranted m.vc (creditOf q.credGranted m.vc + BitVec.ofNat 32 m.flits) }

/-- Nothing is left to follow at once: no command waits, no team leaves a paddock, no team keeps a fixed voltage, no
generation loop or rollout ring stands, no message or collective is under way, and no Frame Quay session is open. -/
def State.quiet (s : State) : Bool :=
  s.waits.isEmpty && s.paddocks.all (fun e => e.2.leaving.isEmpty) &&
    s.power.teams.all (fun e => match e.2.reg with | some g => !g.fixed | none => true) &&
    s.gen.loops.isEmpty && s.gen.rings.isEmpty &&
    (s.part.mastersStopped || s.trace.colls.isEmpty && s.trace.queue.isEmpty && s.trace.sent.isEmpty &&
      s.trace.groups.isEmpty && s.trace.sends.isEmpty && s.moors.isEmpty) &&
    s.quays.isEmpty

end Sys2Proof.Machine
end

