-- ==== Sys2Proof/Certificates/Slice0/Obligations.lean ====
section
/-! DEFINITION. The statements about the model. The first sections state rules of the whole machine, frames and rules of
single units. The last says, for every command, under which conditions on the state and the operands it completes, and
with which next state: the command's own effect followed by what follows at once (`State.settle`). There `z.ready op wid
hm = some c` says that the record of WORK_ID `wid` is accepted, carries the opcode, may start now and has no reserved
bit set, and that `c` is its command; `z.markDispatched wid` is the state with that record DISPATCHED. -/

open Sys2Proof Sys2Proof.Machine

/-! ### The machine -/

/-- A step of a state with a command at the front of its queue is that command's meaning on the rest of the queue. -/
def Obligations.StepRunsFrontCommand : Prop :=
  ∀ (c : Instr) (q : List Instr) (s : State), s.pending = c :: q → step s = exec c { s with pending := q }

/-- A step of a state with an empty queue lets time pass: 1 ns, or, while an offset is left to slew, 0 to 2 ns. Nothing
but the time base and its slewing changes. That a step idles so is the model's own choice (log entry 3). -/
def Obligations.EmptyQueueTicks : Prop :=
  ∀ s : State, s.pending = [] → ∃ t, step s = .next t ∧
    t = { s with now := t.now, trace := { s.trace with time := t.trace.time } } ∧
    (s.trace.time.slew = 0 → t.now = s.now + 1#64 ∧ t.trace.time = s.trace.time) ∧
    (t.now = s.now ∨ t.now = s.now + 1#64 ∨ t.now = s.now + 2#64)

/-- The state after reset meets the invariant that every step keeps. -/
def Obligations.ResetMeetsInvariant : Prop := State.reset.Inv

/-- What a cold reset leaves: PART_STATE reads BOOT, every function's interrupt and violation registers read 0, every
ring is disabled with bases, doorbells and counts 0 and phase 1, the event log and the journal are empty, no work item,
stream, barrier, allocation or session stands, and the time base reads 0 (Tables 2-1 to 2-3, R13, R30, R536). -/
def Obligations.ResetLeavesRegistersClear : Prop :=
  let s := State.reset;
  s.part.pstate = .boot ∧ s.now = 0#64 ∧ s.journal = [] ∧ s.log.entries = [] ∧ s.log.next = 0#64 ∧ s.paddocks = [] ∧
  s.tasks = [] ∧ s.streams = [] ∧ s.barriers = [] ∧ s.allocs = [] ∧ s.moors = [] ∧ s.quays = [] ∧
  (∀ f, (s.fn f).intStatus = 0#32 ∧ (s.fn f).intMask = 0#32 ∧ (s.fn f).violations = 0#32 ∧ (s.fn f).session = none) ∧
  (∀ r, (s.ring r).enable = false ∧ (s.ring r).sqBase = 0#64 ∧ (s.ring r).cqBase = 0#64 ∧ (s.ring r).sqTail = 0#8 ∧
    (s.ring r).sqHead = 0#8 ∧ (s.ring r).cqHead = 0#8 ∧ (s.ring r).phase = true ∧ (s.ring r).quarantined = false ∧
    (s.ring r).violations = 0#16 ∧ (s.ring r).lastWid = 0#55 ∧ (s.ring r).fifo = [])

/-- Every step keeps the invariant: memory and the scratchpads stay in canonical form (log entry 9), the poison markers
stay in order, no ring has more than 256 entries that the host has not consumed nor more than 256 fetch credits (R52),
and the event log holds at most 65,536 entries (R536). It holds of every state, reached by a run or not. -/
def Obligations.EveryStepKeepsInvariant : Prop :=
  ∀ s t : State, s.Inv → step s = .next t → t.Inv

/-- No command changes the queue of the commands behind it, and none draws a free value again that another has drawn. -/
def Obligations.CommandsLeaveQueueAndCounter : Prop :=
  ∀ (c : Instr) (s t : State), exec c s = .next t → t.pending = s.pending ∧ s.free ≤ t.free

/-- Every command answers a next state in every state: none faults and none is refused, and so no step stops. -/
def Obligations.EveryCommandAnswers : Prop :=
  (∀ (c : Instr) (s : State), ∃ t, exec c s = .next t) ∧ ∀ s : State, ∃ t, step s = .next t

/-- Where nothing waits, nothing follows a command's own effect. -/
def Obligations.QuietStateSettlesToItself : Prop := ∀ s : State, s.quiet → s.settle = s

/-! ### Frames -/

/-- What an access of the register window and an instruction of the test access port leave unchanged, where nothing
waits. A write of a register without behaviour of its own changes functions and rings alone, and of these only the
function named and its own rings. A read changes the latch and the counts of that function and answers. A SQ_TAIL
doorbell in range changes SQ_TAIL of its ring alone. A test access port instruction changes the port alone. -/
def Obligations.RegisterAndTestPortFrames : Prop :=
  (∀ (fn off : Nat) (v : BitVec 32) (s t : State),
    s.quiet → off < 0x1000 ∨ (off - 0x1000) % 64 < 0x10 → exec (.registerWrite fn off v) s = .next t →
    t = { s with fns := t.fns, rings := t.rings } ∧ (∀ f, f ≠ fn → t.fn f = s.fn f) ∧
      ∀ r, r < 288 → ringFn r ≠ fn → t.ring r = s.ring r) ∧
  (∀ (fn : Nat) (s t : State), s.quiet → exec (.violationsRead fn) s = .next t →
    t = { s with fns := t.fns, out := t.out } ∧ ∀ f, f ≠ fn → t.fn f = s.fn f) ∧
  (∀ (fn off : Nat) (s t : State), s.quiet → off ≠ 8 → exec (.register64LowWordRead fn off) s = .next t →
    t = { s with fns := t.fns, out := t.out } ∧ ∀ f, f ≠ fn → t.fn f = s.fn f) ∧
  (∀ (r : Nat) (v : BitVec 32) (s t : State),
    s.quiet → r < 288 → (s.ring r).enable → v.toNat < 256 → exec (.sqTail r v) s = .next t →
    t = { s with rings := t.rings } ∧ (∀ q, q ≠ r → t.ring q = s.ring q) ∧
      t.ring r = { s.ring r with sqTail := (t.ring r).sqTail }) ∧
  (∀ (c : Instr) (pins : List Bool) (pre : Option (List Bool)) (s t : State), s.quiet →
    c ∈ [.tapReset, .idcode, .samplePreload pins pre, .extest pins, .extestPulse pins, .extestTrain pins, .clamp, .highz,
      .bypass] →
    exec c s = .next t → t = { s with tap := t.tap })

/-- What a function instruction of the vector unit leaves unchanged, where nothing waits: everything but the context that
runs it; and of that context everything but its program counter, the destination register and that register's poison
bit, which is the source's (R117 to R122, R192). -/
def Obligations.VectorFunctionFrame : Prop :=
  ∀ (k : Site) (ln : Lanes) (vd va : Nat) (s : State) (w : BitVec 64) (t : Task) (rk : Nat) (c : Instr),
    s.quiet → s.issuing k.team = some (w, t, rk) → k.core < 16 → vd < 32 → va < 32 →
    c ∈ [.exp k ln vd va, .expm1 k ln vd va, .log k ln vd va, .tanh k ln vd va, .sigmoid k ln vd va, .silu k ln vd va] →
    let key := ctxKey k.team k.core t.ctx;
    ∃ u, exec c s = .next u ∧ u = { s with ctxs := u.ctxs } ∧ (∀ q, q ≠ key → u.ctx q = s.ctx q) ∧
      u.ctx key = { s.ctx key with pc := k.pc, vregs := (u.ctx key).vregs, poison := (u.ctx key).poison } ∧
      (∀ v j, v < 32 → v ≠ vd → j < 32 →
        tgetD 0#32 (u.ctx key).vregs (32 * v + j) = tgetD 0#32 (s.ctx key).vregs (32 * v + j)) ∧
      (∀ r, r ≠ pV vd → (u.ctx key).poison.contains r = (s.ctx key).poison.contains r) ∧
      (u.ctx key).poison.contains (pV vd) = (s.ctx key).poison.contains (pV va)

/-- What a Basin store of a core changes, where nothing waits: the bytes from its address and the poison of the lines
they lie in, its quarter's count of poisoned lines, its context's program counter, its task's count of poisoned stores
and the dirty cells of a mooring, and nothing else; a store from a
scalar register leaves that register's bytes, the least significant first (R9, R192, R193). -/
def Obligations.BasinStoreFrame : Prop :=
  ∀ (k : Site) (src : Place) (ra off n : Nat) (s : State) (w : BitVec 64) (t : Task) (rk a : Nat),
    s.quiet → s.issuing k.team = some (w, t, rk) → k.core < 16 →
    let key := ctxKey k.team k.core t.ctx;
    let s1 := s.modCtx key fun x => { x with pc := k.pc };
    s1.access k t key src ra off n = .ok a →
    ∃ u, exec (.basinStore k src ra off n) s = .next u ∧
      u = { s with
        mem := u.mem, poison := u.poison, ctxs := s1.ctxs, tasks := u.tasks, moors := (s.markDirty a n).moors
        basin := { s.basin with poisonMade := u.basin.poisonMade } } ∧
      (∀ b, (∀ j, j < n → memKey b ≠ memKey (a + j)) → u.byte b = s.byte b) ∧
      (∀ l, (∀ j, j < n → l / 4 ≠ memKey (a + j) / 256) → u.poison.contains l = s.poison.contains l) ∧
      (∀ i j, src = .s i → j < n → (∀ q, q < n → q ≠ j → memKey (a + q) ≠ memKey (a + j)) →
        u.byte (a + j) = (((s.ctx key).s i) >>> (8 * j)).truncate 8)

/-! ### Rules of the mailbox -/

/-- Iluvo dispatches the accepted commands of a ring in ring order, a command with FENCE only after every earlier command
of its ring has completed; a record that may not start has no effect; and how far the commands of other rings have
come does not matter (R58). -/
def Obligations.DispatchOrder : Prop :=
  (∀ (s : State) (op : Nat) (w : BitVec 64) (j : JRec), s.startable op w = some j →
    ∀ q ∈ s.journal, q.ring = j.ring → q.ser < j.ser → q.state ≠ .accepted ∧ (j.fence → q.state = .done)) ∧
  (∀ (s : State) (op : Nat) (w : BitVec 64) (hm : HostImage) (body : Cmd → State → Except Err State),
    s.startable op w = none → run op w hm s body = .next s.settle) ∧
  (∀ (s : State) (op r : Nat) (w : BitVec 64) (st : JRec → JState),
    (∀ q ∈ s.journal, q.wid = w → q.ring = r) →
    ({ s with journal := s.journal.map fun (q : JRec) => if q.ring = r then q else { q with state := st q } } : State).startable op w =
      s.startable op w)

/-- A slot whose header fails a check is not accepted: the part accepts no command, the ring's expected sequence number
and last work identifier stay, and no journal record is added (R54). -/
def Obligations.RejectedSlotLeavesNoTrace : Prop :=
  ∀ (r : Nat) (b : List Byte) (payload : Option (List Byte)) (s t : State) (i : RItem) (e : BitVec 16 × Nat),
    s.quiet → (s.ring r).fifo.find? (fun i => !i.arrived) = some i → s.part.pstate.running →
    let h := slotHeader b;
    let s1 := s.modItem r i.ser fun x =>
      { x with arrived := true, wid := h.wid, seq := h.seq, opcode := BitVec.ofNat 16 h.op };
    s1.headerCheck r h = some e → exec (.slotArrival r (some b) payload) s = .next t →
    t.accepts = s.accepts ∧ (t.ring r).expectSeq = (s.ring r).expectSeq ∧ (t.ring r).lastWid = (s.ring r).lastWid ∧
      (∀ j ∈ t.journal, j ∈ s.journal) ∧ t.tasks = s.tasks ∧ t.mem = s.mem

/-- An event is entered with the next entry number and the time base, the oldest of 65,536 entries giving way; beyond
250,000 events in a second it is counted as lost and not entered (R536, R538). -/
def Obligations.EventLogEntersEvents : Prop :=
  ∀ (s : State) (ty : BitVec 16) (alert : Bool) (pad : BitVec 8) (st src : BitVec 16) (w : BitVec 64) (det : List Byte),
    let t := s.logWith ty alert pad st src w det;
    let cnt := if s.log.rateSec = s.t / secNs then s.log.rateCnt else 0;
    (250000 ≤ cnt → t.log.entries = s.log.entries ∧ t.log.next = s.log.next ∧ t.log.lost = satAdd 32 s.log.lost 1) ∧
    (cnt < 250000 → ∃ e, e.entry = s.log.next ∧ e.time = s.now ∧ e.typ = ty ∧ e.wid = w ∧ e.detail = det ∧
      t.log.next = s.log.next + 1#64 ∧ t.log.lost = s.log.lost ∧
      t.log.entries = if s.log.entries.length < 65536 then s.log.entries ++ [e] else (s.log.entries ++ [e]).drop 1)

/-! ### Rules of the cores and of memory -/

/-- Where a core's access raises an exception and which: a place or address register that the encoding does not define
is ILLEGAL_INSTRUCTION (0x01), a poisoned address register POISON_CONTROL (0x07), an address not a multiple of the
access's alignment its alignment cause (0x06), an address outside the task's Basin bytes BASIN_BOUNDS (0x03), in this
order; each is raised on the team's task with the address, and a vector instruction with a register number or
rounding mode that is not defined raises ILLEGAL_INSTRUCTION (R101, R165, R192). -/
def Obligations.CoreAccessExceptions : Prop :=
  (∀ (k : Site) (src : Place) (ra off n : Nat) (s : State) (w : BitVec 64) (t : Task) (rk : Nat),
    s.issuing k.team = some (w, t, rk) → k.core < 16 →
    let key := ctxKey k.team k.core t.ctx;
    let s1 := s.modCtx key fun x => { x with pc := k.pc };
    let x := s1.ctx key;
    let a := ((x.s ra).toNat + off) % 2 ^ 64;
    let raised := fun cause addr => Host.Outcome.next (State.settle (s1.raise w rk k.core cause addr));
    let answer := exec (.basinStore k src ra off n) s;
    let illegal := !placeOk src n || decide (32 ≤ ra);
    let poisoned := x.tainted [pS ra];
    let odd := decide (a % placeAlign src n ≠ 0);
    (illegal → answer = raised 0x01 0) ∧ (!illegal && poisoned → answer = raised 0x07 a) ∧
    (!illegal && !poisoned && odd → answer = raised 0x06 a) ∧
    (!illegal && !poisoned && !odd && !s1.basinOk t a n → answer = raised 0x03 a)) ∧
  (∀ (k : Site) (op : VecOp) (ln : Lanes) (r : Rnd) (vd va vb vc : Nat) (s : State) (w : BitVec 64) (t : Task) (rk : Nat),
    s.issuing k.team = some (w, t, rk) → k.core < 16 →
    let s1 := s.modCtx (ctxKey k.team k.core t.ctx) fun x => { x with pc := k.pc };
    (RMode.of r.mode = none →
      exec (.vectorArithmetic k op ln r vd va vb vc) s = .next (State.settle (s1.raise w rk k.core 0x01 0))) ∧
    (¬(vd < 32 ∧ va < 32) →
      exec (.exp k ln vd va) s = .next (State.settle (s1.raise w rk k.core 0x01 0))))

/-- Every byte of the Basin has one direct address and one interleaved address, which name the same byte: tile j of the
interleaved view is the tile of quarter j mod 4 whose TILE is floor(j / 4) (R173). -/
def Obligations.BasinViewsAgree : Prop :=
  (∀ a, a < 0x80000000 → basinDirect (basinInterleaved a) = a ∧ 0x80000000 ≤ basinInterleaved a ∧
    basinInterleaved a < 0x100000000) ∧
  (∀ b, 0x80000000 ≤ b → b < 0x100000000 → basinInterleaved (basinDirect b) = b ∧ basinDirect b < 0x80000000) ∧
  (∀ j o, j < 131072 → o < 16384 →
    basinDirect (0x80000000 + 16384 * j + o) = j % 4 * 0x20000000 + 16384 * (j / 4) + o) ∧
  (∀ (s : State) (a : Nat) (v : Byte), a < 0x80000000 →
    (s.setByte a v).byte (basinInterleaved a) = v ∧ (s.setByte (basinInterleaved a) v).byte a = v ∧
    ∀ b, b < 0x80000000 → b ≠ a → (s.setByte a v).byte (basinInterleaved b) = s.byte b)

/-! ### Rules of the number units -/

/-- How a term meets the exact accumulator: a zero term is not counted and changes nothing; a finite term of magnitude
2^129 or more sets POS_INF or NEG_INF and is not added; any other is truncated toward zero at 2^-190, and a term dropped
or truncated so adds 1 to the drop count, which saturates (R91, R92). -/
def Obligations.TermsMeetTheWindow : Prop :=
  ∀ (a : Acc) (neg : Bool) (m : Nat) (e : Int),
    let v : ℚ := (m : ℚ) * (2 : ℚ) ^ e;
    let k : Int := ⌊v * (2 : ℚ) ^ (190 : Int)⌋;
    (v = 0 → a.addTerm (.fin neg m e) = a) ∧
    ((2 : ℚ) ^ (129 : Int) ≤ v →
      a.addTerm (.fin neg m e) = if neg then { a with negInf := true } else { a with posInf := true }) ∧
    (0 < v → v < (2 : ℚ) ^ (129 : Int) →
      a.addTerm (.fin neg m e) =
        { a with reg := a.reg + BitVec.ofInt 384 (if neg then -k else k)
                 drops := if (k : ℚ) = v * (2 : ℚ) ^ (190 : Int) then a.drops else satAdd 32 a.drops 1 })

/-- An exact sum depends on its terms alone: not on their order, and not on how they are divided among partial sums,
which merge to the same register, flags and drop count (R90 to R92, R97, R99, R124). -/
def Obligations.ExactSumsAreOrderFree : Prop :=
  (∀ (l₁ l₂ : List FVal), l₁.Perm l₂ → ∀ a : Acc, l₁.foldl Acc.addTerm a = l₂.foldl Acc.addTerm a) ∧
  (∀ (l₁ l₂ : List FVal) (a : Acc),
    (l₁ ++ l₂).foldl Acc.addTerm a = (l₁.foldl Acc.addTerm a).merge (l₂.foldl Acc.addTerm Acc.reset)) ∧
  (∀ a b c : Acc, a.merge b = b.merge a ∧ (a.merge b).merge c = a.merge (b.merge c))

/-- For a fixed key, CB4x32-10 is injective on 128-bit counters: two distinct counters never give the same block
(R130). -/
def Obligations.CounterBlocksDiffer : Prop :=
  ∀ (key : BitVec 64) (c d : BitVec 128), cb4 key c = cb4 key d → c = d

/-- A uniform value is (2 × (w >> 9) + 1) × 2^-24 exactly, and so it lies in 2^-24 to 1 - 2^-24 (R134). -/
def Obligations.UniformValuesAreExact : Prop :=
  ∀ w : BitVec 32, ∃ (m : Nat) (e : Int), fv (uniform w) = .fin false m e ∧
    (m : ℚ) * (2 : ℚ) ^ e = (2 * (w >>> 9).toNat + 1) * (2 : ℚ) ^ (-24 : Int) ∧
    (2 : ℚ) ^ (-24 : Int) ≤ (m : ℚ) * (2 : ℚ) ^ e ∧ (m : ℚ) * (2 : ℚ) ^ e ≤ 1 - (2 : ℚ) ^ (-24 : Int)

/-- Maximum and minimum treat +0 as greater than -0 and answer the canonical NaN when either argument is NaN; else they
answer one of their arguments, none of which lies beyond it (R115). -/
def Obligations.MaximumAndMinimum : Prop :=
  (∀ a b : F32, isNan a ∨ isNan b → fmax a b = 0x7FC00000#32 ∧ fmin a b = 0x7FC00000#32) ∧
  fmax 0#32 0x80000000#32 = 0#32 ∧ fmax 0x80000000#32 0#32 = 0#32 ∧
  fmin 0#32 0x80000000#32 = 0x80000000#32 ∧ fmin 0x80000000#32 0#32 = 0x80000000#32 ∧
  (∀ a b : F32, isNan a = false → isNan b = false →
    (fmax a b = a ∨ fmax a b = b) ∧ (fmin a b = a ∨ fmin a b = b) ∧
    fkey a ≤ fkey (fmax a b) ∧ fkey b ≤ fkey (fmax a b) ∧ fkey (fmin a b) ≤ fkey a ∧ fkey (fmin a b) ≤ fkey b)

/-! ### Completion of every command -/

/-- Register window and doorbell writes and reads have their stated effects: REGISTER_WRITE, INT_STATUS_WRITE,
VIOLATIONS_READ, REGISTER_64_LOW_WORD_READ, BAR0_ACCESS_BEFORE_LIVE, ENABLE_WRITE, SQ_TAIL, CQ_HEAD (R47, R52, R53,
R72). -/
def Obligations.RegisterWindowCommands : Prop :=
  -- REGISTER_WRITE (R47)
  (∀ (fn : Nat) (v : BitVec 32) (s : State),
    fn ≤ 8 → s.part.bar0Live →
    exec (.registerWrite fn 0x1C v) s = .next (State.settle (s.modFn fn fun x => { x with intMask := v }))) ∧
  (∀ (fn k : Nat) (v : BitVec 32) (s : State),
    fn ≤ 8 → k < 32 → s.part.bar0Live →
    let r := ringOf fn k;
    let page : BitVec 32 := v &&& 0xFFFFF000#32;
    exec (.registerWrite fn (0x1000 + 64 * k) v) s =
        .next (State.settle (s.modRing r fun g => { g with sqBase := highWord g.sqBase ++ page })) ∧
      exec (.registerWrite fn (0x1000 + 64 * k + 4) v) s =
        .next (State.settle (s.modRing r fun g => { g with sqBase := v ++ lowWord g.sqBase })) ∧
      exec (.registerWrite fn (0x1000 + 64 * k + 8) v) s =
        .next (State.settle (s.modRing r fun g => { g with cqBase := highWord g.cqBase ++ page })) ∧
      exec (.registerWrite fn (0x1000 + 64 * k + 12) v) s =
        .next (State.settle (s.modRing r fun g => { g with cqBase := v ++ lowWord g.cqBase }))) ∧
  (∀ (fn off : Nat) (v : BitVec 32) (s : State),
    off < 0x1000 → off ≠ 0x18 → off ≠ 0x1C → exec (.registerWrite fn off v) s = .next s.settle) ∧
  -- INT_STATUS_WRITE (R47)
  (∀ (fn : Nat) (v : BitVec 32) (s : State),
    fn ≤ 8 → s.part.bar0Live →
    exec (.intStatusWrite fn v) s = .next (State.settle (s.modFn fn fun x => { x with intStatus := x.intStatus &&& ~~~v }))) ∧
  -- VIOLATIONS_READ (R47)
  (∀ (fn : Nat) (s : State),
    fn ≤ 8 → s.part.bar0Live →
    exec (.violationsRead fn) s = .next (State.settle
        ((s.modFn fn fun x => { x with violations := 0#32 }).readOutWord (s.fn fn).violations))) ∧
  -- REGISTER_64_LOW_WORD_READ (R47)
  (∀ (fn : Nat) (s : State),
    fn ≤ 8 → s.part.bar0Live →
    exec (.register64LowWordRead fn 0x10) s = .next (State.settle
        ((s.modFn fn fun x => { x with hiLatch := highWord s.now }).readOutWord (lowWord s.now))) ∧
      exec (.register64LowWordRead fn 0x14) s = .next (State.settle (s.readOutWord (s.fn fn).hiLatch))) ∧
  (∀ (fn k : Nat) (s : State),
    fn ≤ 8 → k < 32 → s.part.bar0Live →
    let g := s.ring (ringOf fn k);
    exec (.register64LowWordRead fn (0x1000 + 64 * k)) s = .next (State.settle
        ((s.modFn fn fun x => { x with hiLatch := highWord g.sqBase }).readOutWord (lowWord g.sqBase))) ∧
      exec (.register64LowWordRead fn (0x1000 + 64 * k + 8)) s = .next (State.settle
        ((s.modFn fn fun x => { x with hiLatch := highWord g.cqBase }).readOutWord (lowWord g.cqBase)))) ∧
  -- BAR0_ACCESS_BEFORE_LIVE (R72)
  (∀ (fn off : Nat) (v : BitVec 32) (s : State),
    s.part.bar0Live = false →
    exec (.bar0AccessBeforeLive fn off false v) s = .next (State.settle (s.readOutWord 0xFFFFFFFF#32)) ∧
      exec (.bar0AccessBeforeLive fn off true v) s = .next s.settle) ∧
  -- ENABLE_WRITE (R52)
  (∀ (ring : Nat) (v : BitVec 32) (s : State),
    ring < 288 → s.part.bar0Live →
    v.getLsbD 0 = false →
    exec (.enableWrite ring v) s = .next (State.settle (((s.settleRing ring).modRing ring fun g => { g with enable := false }).modRing ring fun g => { g with msix := v.extractLsb' 1 11 }))) ∧
  (∀ (ring : Nat) (v : BitVec 32) (s : State),
    ring < 288 → s.part.bar0Live →
    let s1 := s.settleRing ring;
    v.getLsbD 0 → ¬((s1.ring ring).sqBase = 0#64 ∨ (s1.ring ring).cqBase = 0#64) →
    exec (.enableWrite ring v) s = .next (State.settle ((s1.modRing ring fun g =>
        { g with enable := true, sqHead := 0#8, sqTail := 0#8, cqHead := 0#8, cqTail := 0#8, phase := true, quarantined := false, violations := 0#16 }).modRing ring fun g => { g with msix := v.extractLsb' 1 11 }))) ∧
  (∀ (ring : Nat) (v : BitVec 32) (s : State),
    ring < 288 → s.part.bar0Live →
    let s1 := s.settleRing ring;
    v.getLsbD 0 → (s1.ring ring).sqBase = 0#64 ∨ (s1.ring ring).cqBase = 0#64 →
    exec (.enableWrite ring v) s = .next (State.settle (((s1.modRing ring fun g =>
        { g with enable := false }).violate ring 4 false).modRing ring fun g => { g with msix := v.extractLsb' 1 11 }))) ∧
  -- SQ_TAIL (R53)
  (∀ (ring : Nat) (v : BitVec 32) (s : State),
    ring < 288 → s.part.bar0Live →
    (s.ring ring).enable → v.toNat < 256 →
    exec (.sqTail ring v) s = .next (State.settle (s.modRing ring fun g => { g with sqTail := v.truncate 8 }))) ∧
  (∀ (ring : Nat) (v : BitVec 32) (s : State),
    ring < 288 → s.part.bar0Live →
    (s.ring ring).enable → 256 ≤ v.toNat →
    exec (.sqTail ring v) s = .next (State.settle (s.violate ring 1 true))) ∧
  (∀ (ring : Nat) (v : BitVec 32) (s : State),
    ring < 288 → s.part.bar0Live →
    (s.ring ring).enable = false →
    exec (.sqTail ring v) s = .next (State.settle (s.violate ring 3 false))) ∧
  -- CQ_HEAD (R52)
  (∀ (ring : Nat) (v : BitVec 32) (s : State),
    ring < 288 → s.part.bar0Live →
    (s.ring ring).enable → v.toNat < 256 →
    let g := s.ring ring;
    let n := ((v.truncate 8 : BitVec 8) - g.cqHead).toNat;
    n ≤ g.written →
    exec (.cqHead ring v) s = .next (State.settle
        ((s.setRing ring { g with cqHead := v.truncate 8, written := g.written - n, credits := g.credits - n }).flush ring))) ∧
  (∀ (ring : Nat) (v : BitVec 32) (s : State),
    ring < 288 → s.part.bar0Live →
    (s.ring ring).enable → v.toNat < 256 →
    let g := s.ring ring;
    g.written < ((v.truncate 8 : BitVec 8) - g.cqHead).toNat →
    exec (.cqHead ring v) s = .next (State.settle (s.violate ring 2 true))) ∧
  (∀ (ring : Nat) (v : BitVec 32) (s : State),
    ring < 288 → s.part.bar0Live →
    (s.ring ring).enable → 256 ≤ v.toNat →
    exec (.cqHead ring v) s = .next (State.settle (s.violate ring 1 true))) ∧
  (∀ (ring : Nat) (v : BitVec 32) (s : State),
    ring < 288 → s.part.bar0Live →
    (s.ring ring).enable = false →
    exec (.cqHead ring v) s = .next (State.settle (s.violate ring 3 false)))

/-- Slot fetch and arrival, function resets, part readiness and warm resets complete with their effects: SLOT_FETCH,
SLOT_ARRIVAL, FUNCTION_LEVEL_RESET, PF_FUNCTION_LEVEL_RESET, SESSION_LOCKOUT_END, CONTROL_READY, PART_READY,
RESIL_WARM_RESET, RESIL_WARM_RESET_EXPERT, CONTROL_CORE_FAULT, HEARTBEAT_MISSING, WARM_RESET, JOURNAL_SETTLEMENT,
UNCOMMITTED_TILE_DISCARD (R53, R54, R62, R69, R70, R72, R74, R204, R412, R419, R421). -/
def Obligations.FetchResetAndPartStateCommands : Prop :=
  -- SLOT_FETCH (R53)
  (∀ (s : State),
    ¬(s.part.mastersStopped && s.part.pstate ≠ .warmReset && s.part.pstate ≠ .failed) →
    ∀ r,
    s.nextFetch = some r →
    exec (.slotFetch) s = .next (State.settle (s.fetch r))) ∧
  -- SLOT_ARRIVAL (R54)
  (∀ (ring : Nat) (slot : Option (List Byte)) (payload : Option (List Byte)) (s : State),
    (ring < 288) →
    let r : Nat := ring;
    ∀ i',
    ((s.ring r).fifo.find? fun i => !i.arrived) = some i' →
    let i := i';
    slot = none →
    exec (.slotArrival ring slot payload) s = .next (State.settle
      ((s.countViolation r 5).finishItem r i.ser stHostProtocol 0#64 5#32 true))) ∧
  (∀ (ring : Nat) (slot : Option (List Byte)) (payload : Option (List Byte)) (z : State),
    let s := z;
    (ring < 288) →
    let r : Nat := ring;
    ∀ i',
    ((s.ring r).fifo.find? fun i => !i.arrived) = some i' →
    let i := i';
    ∀ b,
    slot = some b →
    let h := slotHeader b;
    let s := s.modItem r i.ser fun x =>
      { x with arrived := true, wid := h.wid, seq := h.seq, opcode := BitVec.ofNat 16 h.op };
    (!s.part.pstate.running) →
    let p1 := s.hwHint;
    let d := p1.1;
    let s := p1.2;
    exec (.slotArrival ring slot payload) z = .next (State.settle
      (s.finishItem r i.ser stNotReady 0#64 (BitVec.ofNat 32 d) true))) ∧
  (∀ (ring : Nat) (slot : Option (List Byte)) (payload : Option (List Byte)) (z : State),
    let s := z;
    (ring < 288) →
    let r : Nat := ring;
    ∀ i',
    ((s.ring r).fifo.find? fun i => !i.arrived) = some i' →
    let i := i';
    ∀ b,
    slot = some b →
    let h := slotHeader b;
    let s := s.modItem r i.ser fun x =>
      { x with arrived := true, wid := h.wid, seq := h.seq, opcode := BitVec.ofNat 16 h.op };
    (s.part.pstate.running) →
    ∀ e,
    s.headerCheck r h = some e →
    exec (.slotArrival ring slot payload) z = .next (State.settle
      (s.finishItem r i.ser e.1 0#64 (fixDetail e.1 (BitVec.ofNat 32 e.2)) false))) ∧
  (∀ (ring : Nat) (slot : Option (List Byte)) (payload : Option (List Byte)) (z : State),
    let s := z;
    (ring < 288) →
    let r : Nat := ring;
    ∀ i',
    ((s.ring r).fifo.find? fun i => !i.arrived) = some i' →
    let i := i';
    ∀ b,
    slot = some b →
    let h := slotHeader b;
    let s := s.modItem r i.ser fun x =>
      { x with arrived := true, wid := h.wid, seq := h.seq, opcode := BitVec.ofNat 16 h.op };
    (s.part.pstate.running) →
    s.headerCheck r h = none →
    (h.indirect) →
    let s := s.readHost { fn := ringFn r, addr := BitVec.ofNat 64 h.addr, len := h.len };
    payload = none →
    let s := s.modItem r i.ser fun x => { x with wid := 0#64, seq := 0#32, opcode := 0#16 };
    exec (.slotArrival ring slot payload) z = .next (State.settle
      ((s.countViolation r 5).finishItem r i.ser stHostProtocol 0#64 5#32 true))) ∧
  (∀ (ring : Nat) (slot : Option (List Byte)) (payload : Option (List Byte)) (z : State),
    let s := z;
    (ring < 288) →
    let r : Nat := ring;
    ∀ i',
    ((s.ring r).fifo.find? fun i => !i.arrived) = some i' →
    let i := i';
    ∀ b,
    slot = some b →
    let h := slotHeader b;
    let s := s.modItem r i.ser fun x =>
      { x with arrived := true, wid := h.wid, seq := h.seq, opcode := BitVec.ofNat 16 h.op };
    (s.part.pstate.running) →
    s.headerCheck r h = none →
    (h.indirect) →
    let s := s.readHost { fn := ringFn r, addr := BitVec.ofNat 64 h.addr, len := h.len };
    ∀ p,
    payload = some p →
    exec (.slotArrival ring slot payload) z = .next (State.settle
      (s.accept r i.ser h (slice p 0 h.len) ((slice b 32 96).any fun x => x != 0#8)))) ∧
  (∀ (ring : Nat) (slot : Option (List Byte)) (payload : Option (List Byte)) (z : State),
    let s := z;
    (ring < 288) →
    let r : Nat := ring;
    ∀ i',
    ((s.ring r).fifo.find? fun i => !i.arrived) = some i' →
    let i := i';
    ∀ b,
    slot = some b →
    let h := slotHeader b;
    let s := s.modItem r i.ser fun x =>
      { x with arrived := true, wid := h.wid, seq := h.seq, opcode := BitVec.ofNat 16 h.op };
    (s.part.pstate.running) →
    s.headerCheck r h = none →
    ¬(h.indirect) →
    exec (.slotArrival ring slot payload) z = .next (State.settle
      (s.accept r i.ser h (slice b 32 h.len) ((slice b (32 + h.len) (96 - h.len)).any fun x => x != 0#8)))) ∧
  -- FUNCTION_LEVEL_RESET (R69)
  (∀ (fn : Nat) (z : State),
    let s := z;
    (1 ≤ fn && fn ≤ 8) →
    let f : Nat := fn;
    let rings := (List.range 32).map (ringOf f);
    let s := rings.foldl (fun s r => s.resetRing r) s;
    let s := s.modFn f fun x =>
      { x with intStatus := 0#32, intMask := 0#32, violations := 0#32, hiLatch := 0#32, session := none,
               resetSer := s.ser };
    let s := (s.undispatched fun j => ringFn j.ring = f).foldl (fun s j => s.complete j.wid stFunctionReset) s;
    let s := (s.basin.binds.filter fun b => b.host && b.fn = f).foldl (fun s b => s.resetBind b.wid stFunctionReset) s;
    let s := (s.hostPrograms f).foldl (fun s q => s.resetProg q stFunctionReset) s;
    let s := s.completeAll (s.hostMovers f) stFunctionReset;
    let pad := f - 1;
    let s := if f = 0 then s else
      { s with tasks := s.tasks.map fun e =>
          if e.2.paddock = pad && s.isHost pad e.2.excBuf.toNat then (e.1, { e.2 with excBuf := 0#64 }) else e };
    exec (.functionLevelReset fn) z = .next (State.settle (s.logEv evFunctionReset (padByte f) 0#16 (f * 256)))) ∧
  -- PF_FUNCTION_LEVEL_RESET (R70)
  (∀ (s : State),
    exec (.pfFunctionLevelReset) s = .next (State.settle ((List.range 9).foldl (fun s f => s.resetFn f) s))) ∧
  -- SESSION_LOCKOUT_END (R62)
  (∀ (fn : Nat) (s : State),
    ∀ t,
    (s.fn fn).lockedUntil = some t →
    exec (.sessionLockoutEnd fn) s = .next (State.settle ((s.reach t).modFn fn fun x => { x with lockedUntil := none }))) ∧
  -- CONTROL_READY (R74)
  (∀ (z : State),
    let s := z;
    ((s.part.pstate = .boot && s.pins.pwrOk && s.pins.sysRstN && !s.power.trip) ||
      s.part.pstate = .warmReset) →
    let warm := s.part.pstate = .warmReset;
    let s := s.reach (if warm then s.part.warmStart + 100 * msNs else s.part.timeZero + 300 * msNs);
    let s := if warm then s.dropVolatile else s.makeSystemKey;
    let p1 := s.draw;
    let v := p1.1;
    let s1 := p1.2;
    let s2 : State := { s1 with part := { s1.part with
      pstate := .controlReady, retryAfter := BitVec.ofNat 32 (max 1 (v.toNat % 2 ^ 32)), mastersStopped := false,
      controlAt := s1.t } };
    exec (.controlReady) z = .next (State.settle
      (s2.recoverTorn.logWith evPartState false 0xFF#8 0#16 0xFFFF#16 0#64 (leBytes 1 2)))) ∧
  -- PART_READY (R72)
  (∀ (z : State),
    let s := z;
    (s.part.pstate = .controlReady) →
    let s := s.reach (if s.part.warmStart ≤ s.part.timeZero then s.part.timeZero + secNs
      else s.part.warmStart + 300 * msNs);
    let s1 : State := { s with part := { s.part with pstate := .ready, retryAfter := 0#32, hbmTrained := true } };
    let s1 := if s.part.warmStart ≤ s.part.timeZero then s1 else s1.resendMoors;
    let s2 := s1.refreshDegraded;
    exec (.partReady) z = .next (State.settle
      (s2.logWith evPartState (s2.part.pstate = .degraded) 0xFF#8 0#16 0xFFFF#16 0#64 (leBytes 1 s2.part.pstate.code)))) ∧
  -- RESIL_WARM_RESET (R419)
  (∀ (z : State) (wid : BitVec 64) (c : Cmd), z.ready 0x070B wid [] = some c →
    let s := z.markDispatched wid;
    exec (.resilWarmReset wid) z = .next (State.settle
      (({ s with part := { s.part with warmByCmd := some c.w } } : State).beginWarm))) ∧
  -- RESIL_WARM_RESET_EXPERT (R419)
  (∀ (z : State) (wid : BitVec 64) (c : Cmd), z.ready 0x078B wid [] = some c →
    let s := z.markDispatched wid;
    let s := s.reason c (c.u32 0);
    exec (.resilWarmResetExpert wid) z = .next (State.settle
      (({ s with part := { s.part with warmByCmd := some c.w } } : State).beginWarm))) ∧
  -- CONTROL_CORE_FAULT (R412)
  (∀ (s : State),
    (s.part.cores < 4) →
    exec (.controlCoreFault) s = .next (State.settle (s.failPart))) ∧
  (∀ (s : State),
    ¬(s.part.cores < 4) →
    exec (.controlCoreFault) s = .next (State.settle (({ s with part := { s.part with cores := 3 } } : State).beginWarm))) ∧
  -- HEARTBEAT_MISSING (R412)
  (∀ (kryto : Bool) (s : State),
    (kryto) →
    exec (.heartbeatMissing kryto) s = .next (State.settle
      (({ s with kryto := { s.kryto with failed := true } } : State).failPart))) ∧
  (∀ (kryto : Bool) (s : State),
    ¬(kryto) →
    exec (.heartbeatMissing kryto) s = .next (State.settle (s.coreFault))) ∧
  -- WARM_RESET (R419)
  (∀ (z : State),
    let s := z;
    (s.part.pstate.running) →
    let s := s.recordProgress.tearPrograms;
    let s : State := { s with part := { s.part with
      pstate := .warmReset, warmStart := s.t, warmResets := s.part.warmResets + 1#32, settled := false,
      warmSer := s.ser, mastersStopped := true } };
    let s := s.logEv evWarmReset;
    let s := s.warmRings;
    exec (.warmReset) z = .next (State.settle (s.quietly fun s => s.warmWork.warmTraffic.warmUnits))) ∧
  -- JOURNAL_SETTLEMENT (R421)
  (∀ (z : State),
    let s := z;
    (s.part.pstate.running && !s.part.settled) →
    let s := (s.journal.filter fun j => j.ser < s.part.warmSer).foldl (fun s j => s.settleRec j) s;
    let s := s.sendDue.dropGroups;
    exec (.journalSettlement) z = .next (State.settle
      ({ s with part := { s.part with
           settled := true, settleNs := s.t - s.part.controlAt, warmByCmd := none, abortsDue := [] } }))) ∧
  -- UNCOMMITTED_TILE_DISCARD (R204)
  (∀ (s : State),
    (s.part.pstate = .warmReset) →
    exec (.uncommittedTileDiscard) s = .next (State.settle ((s.reach (s.part.warmStart + 50000)).dropVolatile)))

/-- Identification, session, cancel, query and NOP commands complete with their effects: PART_IDENTIFY,
PART_IDENTIFY_EXPERT, SESSION_CHALLENGE, SESSION_CHALLENGE_EXPERT, SESSION_OPEN, SESSION_OPEN_EXPERT, SESSION_CLOSE,
SESSION_CLOSE_EXPERT, CMD_CANCEL, CMD_CANCEL_EXPERT, WORK_QUERY, WORK_QUERY_EXPERT, NOP, NOP_EXPERT,
NOP_DELAY_EXPIRY (R61, R65, R69, R75, R77). -/
def Obligations.SessionCommands : Prop :=
  -- PART_IDENTIFY (R77)
  (∀ (z : State) (wid : BitVec 64) (c : Cmd), z.ready 0x0001 wid [] = some c →
    let s := z.markDispatched wid;
    exec (.partIdentify wid) z = .next (State.settle (s.ok c s.identity))) ∧
  -- PART_IDENTIFY_EXPERT (R77)
  (∀ (z : State) (wid : BitVec 64) (c : Cmd), z.ready 0x0081 wid [] = some c →
    let s := z.markDispatched wid;
    let p1 := s.identityRecord;
    let record := p1.1;
    let s1 := p1.2;
    ∀ s2,
    s1.writeBuf c (c.u64 0) record = .ok s2 →
    exec (.partIdentifyExpert wid) z = .next (State.settle (s2.ok c s.identity))) ∧
  -- SESSION_CHALLENGE (R61)
  (∀ (z : State) (wid : BitVec 64) (c : Cmd), z.ready 0x0002 wid [] = some c →
    let s := z.markDispatched wid;
    let expert : Bool := false;
    ((s.fn c.fn).lockedUntil.isNone) →
    let live := (s.fn c.fn).nonces.filter fun n => s.t ≤ n.issued + 10 * secNs;
    let p1 := s.pick (fun k => (List.range 9).any fun f => (s.fn f).nonces.any fun n => n.handle.toNat = k) 1 (2 ^ 32 - 1);
    let h := p1.1;
    let s1 := p1.2;
    let p2 := s1.drawBytes 32;
    let val := p2.1;
    let s2 := p2.2;
    let hd := h.getD 1;
    ∀ s3,
    s2.writeBuf c (c.u64 0) val = .ok s3 →
    let s4 := s3.modFn c.fn fun x =>
      { x with nonces := live ++ [{ handle := BitVec.ofNat 32 hd, value := val, issued := s.t }] };
    exec (.sessionChallenge wid) z = .next (State.settle (s4.ok c hd (if expert then s.lockoutBudget c.fn else 0)))) ∧
  -- SESSION_CHALLENGE_EXPERT (R61)
  (∀ (z : State) (wid : BitVec 64) (c : Cmd), z.ready 0x0082 wid [] = some c →
    let s := z.markDispatched wid;
    let expert : Bool := true;
    ((s.fn c.fn).lockedUntil.isNone) →
    let live := (s.fn c.fn).nonces.filter fun n => s.t ≤ n.issued + 10 * secNs;
    let p1 := s.pick (fun k => (List.range 9).any fun f => (s.fn f).nonces.any fun n => n.handle.toNat = k) 1 (2 ^ 32 - 1);
    let h := p1.1;
    let s1 := p1.2;
    let p2 := s1.drawBytes 32;
    let val := p2.1;
    let s2 := p2.2;
    let hd := h.getD 1;
    ∀ s3,
    s2.writeBuf c (c.u64 0) val = .ok s3 →
    let s4 := s3.modFn c.fn fun x =>
      { x with nonces := live ++ [{ handle := BitVec.ofNat 32 hd, value := val, issued := s.t }] };
    exec (.sessionChallengeExpert wid) z = .next (State.settle (s4.ok c hd (if expert then s.lockoutBudget c.fn else 0)))) ∧
  -- SESSION_OPEN (R61)
  (∀ (z : State) (wid : BitVec 64) (c : Cmd), z.ready 0x0003 wid [] = some c →
    let s := z.markDispatched wid;
    let s0 := s;
    let mask : BitVec 32 := 0xFFFFFFFF#32;
    let f := c.fn;
    let s := s0.countOpen f;
    (mask.getLsbD 0) →
    ((s.fn f).lockedUntil.isSome) →
    exec (.sessionOpen wid) z = .next (State.settle (s.complete c.w stAuthLocked))) ∧
  (∀ (z : State) (wid : BitVec 64) (c : Cmd), z.ready 0x0003 wid [] = some c →
    let s := z.markDispatched wid;
    let s0 := s;
    let mask : BitVec 32 := 0xFFFFFFFF#32;
    let f := c.fn;
    let s := s0.countOpen f;
    (mask.getLsbD 0) →
    ¬((s.fn f).lockedUntil.isSome) →
    ((s.fn f).session.isSome) →
    exec (.sessionOpen wid) z = .next (State.settle (s.complete c.w stSessionExists))) ∧
  (∀ (z : State) (wid : BitVec 64) (c : Cmd), z.ready 0x0003 wid [] = some c →
    let s := z.markDispatched wid;
    let s0 := s;
    let mask : BitVec 32 := 0xFFFFFFFF#32;
    let f := c.fn;
    let s := s0.countOpen f;
    (mask.getLsbD 0) →
    ¬((s.fn f).lockedUntil.isSome) →
    ¬((s.fn f).session.isSome) →
    ((s.fn f).openings = 0xFFFFFFF#28) →
    exec (.sessionOpen wid) z = .next (State.settle (s.complete c.w stQuota))) ∧
  (∀ (z : State) (wid : BitVec 64) (c : Cmd), z.ready 0x0003 wid [] = some c →
    let s := z.markDispatched wid;
    let s0 := s;
    let mask : BitVec 32 := 0xFFFFFFFF#32;
    let f := c.fn;
    let s := s0.countOpen f;
    (mask.getLsbD 0) →
    ¬((s.fn f).lockedUntil.isSome) →
    ¬((s.fn f).session.isSome) →
    ¬((s.fn f).openings = 0xFFFFFFF#28) →
    let handle := BitVec.ofNat 32 (c.u32 0);
    ((s.fn f).nonces.find? fun n => n.handle = handle && s.t ≤ n.issued + 10 * secNs) = none →
    exec (.sessionOpen wid) z = .next (State.settle ((s.authFailed f).complete c.w stNonceExpired))) ∧
  (∀ (z : State) (wid : BitVec 64) (c : Cmd), z.ready 0x0003 wid [] = some c →
    let s := z.markDispatched wid;
    let s0 := s;
    let mask : BitVec 32 := 0xFFFFFFFF#32;
    let f := c.fn;
    let s := s0.countOpen f;
    (mask.getLsbD 0) →
    ¬((s.fn f).lockedUntil.isSome) →
    ¬((s.fn f).session.isSome) →
    ¬((s.fn f).openings = 0xFFFFFFF#28) →
    let handle := BitVec.ofNat 32 (c.u32 0);
    ∀ n',
    ((s.fn f).nonces.find? fun n => n.handle = handle && s.t ≤ n.issued + 10 * secNs) = some n' →
    let s := s.modFn f fun x => { x with nonces := x.nonces.filter fun q => q.handle != handle };
    s.sessionKey f = none →
    exec (.sessionOpen wid) z = .next (State.settle ((s.authFailed f).complete c.w stAuthFailed))) ∧
  (∀ (z : State) (wid : BitVec 64) (c : Cmd), z.ready 0x0003 wid [] = some c →
    let s := z.markDispatched wid;
    let s0 := s;
    let mask : BitVec 32 := 0xFFFFFFFF#32;
    let f := c.fn;
    let s := s0.countOpen f;
    (mask.getLsbD 0) →
    ¬((s.fn f).lockedUntil.isSome) →
    ¬((s.fn f).session.isSome) →
    ¬((s.fn f).openings = 0xFFFFFFF#28) →
    let handle := BitVec.ofNat 32 (c.u32 0);
    ∀ n',
    ((s.fn f).nonces.find? fun n => n.handle = handle && s.t ≤ n.issued + 10 * secNs) = some n' →
    let n := n';
    let s := s.modFn f fun x => { x with nonces := x.nonces.filter fun q => q.handle != handle };
    ∀ key,
    s.sessionKey f = some key →
    (hmac384 key (n.value ++ [BitVec.ofNat 8 f] ++ slice c.p 4 4) = slice c.p 8 48) →
    exec (.sessionOpen wid) z = .next (State.settle (s.openSession c n (BitVec.ofNat 32 (c.u32 4)) mask))) ∧
  (∀ (z : State) (wid : BitVec 64) (c : Cmd), z.ready 0x0003 wid [] = some c →
    let s := z.markDispatched wid;
    let s0 := s;
    let mask : BitVec 32 := 0xFFFFFFFF#32;
    let f := c.fn;
    let s := s0.countOpen f;
    (mask.getLsbD 0) →
    ¬((s.fn f).lockedUntil.isSome) →
    ¬((s.fn f).session.isSome) →
    ¬((s.fn f).openings = 0xFFFFFFF#28) →
    let handle := BitVec.ofNat 32 (c.u32 0);
    ∀ n',
    ((s.fn f).nonces.find? fun n => n.handle = handle && s.t ≤ n.issued + 10 * secNs) = some n' →
    let n := n';
    let s := s.modFn f fun x => { x with nonces := x.nonces.filter fun q => q.handle != handle };
    ∀ key,
    s.sessionKey f = some key →
    ¬(hmac384 key (n.value ++ [BitVec.ofNat 8 f] ++ slice c.p 4 4) = slice c.p 8 48) →
    exec (.sessionOpen wid) z = .next (State.settle ((s.authFailed f).complete c.w stAuthFailed))) ∧
  -- SESSION_OPEN_EXPERT (R61)
  (∀ (z : State) (wid : BitVec 64) (c : Cmd), z.ready 0x0083 wid [] = some c →
    let s := z.markDispatched wid;
    let s0 := s;
    let mask : BitVec 32 := BitVec.ofNat 32 (c.u32 56);
    let f := c.fn;
    let s := s0.countOpen f;
    (!mask.getLsbD 0) →
    exec (.sessionOpenExpert wid) z = .next (State.settle (s.complete c.w stBadParam))) ∧
  (∀ (z : State) (wid : BitVec 64) (c : Cmd), z.ready 0x0083 wid [] = some c →
    let s := z.markDispatched wid;
    let s0 := s;
    let mask : BitVec 32 := BitVec.ofNat 32 (c.u32 56);
    let f := c.fn;
    let s := s0.countOpen f;
    (mask.getLsbD 0) →
    ((s.fn f).lockedUntil.isSome) →
    exec (.sessionOpenExpert wid) z = .next (State.settle (s.complete c.w stAuthLocked))) ∧
  (∀ (z : State) (wid : BitVec 64) (c : Cmd), z.ready 0x0083 wid [] = some c →
    let s := z.markDispatched wid;
    let s0 := s;
    let mask : BitVec 32 := BitVec.ofNat 32 (c.u32 56);
    let f := c.fn;
    let s := s0.countOpen f;
    (mask.getLsbD 0) →
    ¬((s.fn f).lockedUntil.isSome) →
    ((s.fn f).session.isSome) →
    exec (.sessionOpenExpert wid) z = .next (State.settle (s.complete c.w stSessionExists))) ∧
  (∀ (z : State) (wid : BitVec 64) (c : Cmd), z.ready 0x0083 wid [] = some c →
    let s := z.markDispatched wid;
    let s0 := s;
    let mask : BitVec 32 := BitVec.ofNat 32 (c.u32 56);
    let f := c.fn;
    let s := s0.countOpen f;
    (mask.getLsbD 0) →
    ¬((s.fn f).lockedUntil.isSome) →
    ¬((s.fn f).session.isSome) →
    ((s.fn f).openings = 0xFFFFFFF#28) →
    exec (.sessionOpenExpert wid) z = .next (State.settle (s.complete c.w stQuota))) ∧
  (∀ (z : State) (wid : BitVec 64) (c : Cmd), z.ready 0x0083 wid [] = some c →
    let s := z.markDispatched wid;
    let s0 := s;
    let mask : BitVec 32 := BitVec.ofNat 32 (c.u32 56);
    let f := c.fn;
    let s := s0.countOpen f;
    (mask.getLsbD 0) →
    ¬((s.fn f).lockedUntil.isSome) →
    ¬((s.fn f).session.isSome) →
    ¬((s.fn f).openings = 0xFFFFFFF#28) →
    let handle := BitVec.ofNat 32 (c.u32 0);
    ((s.fn f).nonces.find? fun n => n.handle = handle && s.t ≤ n.issued + 10 * secNs) = none →
    exec (.sessionOpenExpert wid) z = .next (State.settle ((s.authFailed f).complete c.w stNonceExpired))) ∧
  (∀ (z : State) (wid : BitVec 64) (c : Cmd), z.ready 0x0083 wid [] = some c →
    let s := z.markDispatched wid;
    let s0 := s;
    let mask : BitVec 32 := BitVec.ofNat 32 (c.u32 56);
    let f := c.fn;
    let s := s0.countOpen f;
    (mask.getLsbD 0) →
    ¬((s.fn f).lockedUntil.isSome) →
    ¬((s.fn f).session.isSome) →
    ¬((s.fn f).openings = 0xFFFFFFF#28) →
    let handle := BitVec.ofNat 32 (c.u32 0);
    ∀ n',
    ((s.fn f).nonces.find? fun n => n.handle = handle && s.t ≤ n.issued + 10 * secNs) = some n' →
    let s := s.modFn f fun x => { x with nonces := x.nonces.filter fun q => q.handle != handle };
    s.sessionKey f = none →
    exec (.sessionOpenExpert wid) z = .next (State.settle ((s.authFailed f).complete c.w stAuthFailed))) ∧
  (∀ (z : State) (wid : BitVec 64) (c : Cmd), z.ready 0x0083 wid [] = some c →
    let s := z.markDispatched wid;
    let s0 := s;
    let mask : BitVec 32 := BitVec.ofNat 32 (c.u32 56);
    let f := c.fn;
    let s := s0.countOpen f;
    (mask.getLsbD 0) →
    ¬((s.fn f).lockedUntil.isSome) →
    ¬((s.fn f).session.isSome) →
    ¬((s.fn f).openings = 0xFFFFFFF#28) →
    let handle := BitVec.ofNat 32 (c.u32 0);
    ∀ n',
    ((s.fn f).nonces.find? fun n => n.handle = handle && s.t ≤ n.issued + 10 * secNs) = some n' →
    let n := n';
    let s := s.modFn f fun x => { x with nonces := x.nonces.filter fun q => q.handle != handle };
    ∀ key,
    s.sessionKey f = some key →
    (hmac384 key (n.value ++ [BitVec.ofNat 8 f] ++ slice c.p 4 4) = slice c.p 8 48) →
    exec (.sessionOpenExpert wid) z = .next (State.settle (s.openSession c n (BitVec.ofNat 32 (c.u32 4)) mask))) ∧
  (∀ (z : State) (wid : BitVec 64) (c : Cmd), z.ready 0x0083 wid [] = some c →
    let s := z.markDispatched wid;
    let s0 := s;
    let mask : BitVec 32 := BitVec.ofNat 32 (c.u32 56);
    let f := c.fn;
    let s := s0.countOpen f;
    (mask.getLsbD 0) →
    ¬((s.fn f).lockedUntil.isSome) →
    ¬((s.fn f).session.isSome) →
    ¬((s.fn f).openings = 0xFFFFFFF#28) →
    let handle := BitVec.ofNat 32 (c.u32 0);
    ∀ n',
    ((s.fn f).nonces.find? fun n => n.handle = handle && s.t ≤ n.issued + 10 * secNs) = some n' →
    let n := n';
    let s := s.modFn f fun x => { x with nonces := x.nonces.filter fun q => q.handle != handle };
    ∀ key,
    s.sessionKey f = some key →
    ¬(hmac384 key (n.value ++ [BitVec.ofNat 8 f] ++ slice c.p 4 4) = slice c.p 8 48) →
    exec (.sessionOpenExpert wid) z = .next (State.settle ((s.authFailed f).complete c.w stAuthFailed))) ∧
  -- SESSION_CLOSE (R65)
  (∀ (z : State) (wid : BitVec 64) (c : Cmd), z.ready 0x0004 wid [] = some c →
    let s := z.markDispatched wid;
    exec (.sessionClose wid) z = .next (State.settle (s.wait c.w (.close c.fn (((s.fn c.fn).session.map (·.id)).getD 0#32))))) ∧
  -- SESSION_CLOSE_EXPERT (R65)
  (∀ (z : State) (wid : BitVec 64) (c : Cmd), z.ready 0x0084 wid [] = some c →
    let s := z.markDispatched wid;
    let gone := if c.flag 0 then s.withdrawable c.fn c.w else [];
    let s1 := s.completeAll (gone.map (·.wid)) stSessionClosed;
    exec (.sessionCloseExpert wid) z = .next (State.settle
      (let u := s1.progress c.w (BitVec.ofNat 64 gone.length);
       u.wait c.w (.close c.fn (((u.fn c.fn).session.map (·.id)).getD 0#32))))) ∧
  -- CMD_CANCEL (R75)
  (∀ (z : State) (wid : BitVec 64) (c : Cmd), z.ready 0x0005 wid [] = some c →
    let s := z.markDispatched wid;
    let expert : Bool := false;
    let target := BitVec.ofNat 64 (c.u64 0);
    ∀ e',
    ((s.fn c.fn).session.bind fun q => q.took.find? fun e => e.1 = target) = some e' →
    let e := e';
    let res := if expert then e.2.2.toNat + target.toNat / 2 ^ 55 * 2 ^ 32 else 0;
    ¬(e.2.1 = 0x0005#16 || e.2.1 = 0x0085#16) →
    (s.journal.any fun j => j.wid = target && j.state = .accepted) →
    exec (.cmdCancel wid) z = .next (State.settle ((s.complete target stCancelled).ok c res))) ∧
  -- CMD_CANCEL_EXPERT (R75)
  (∀ (z : State) (wid : BitVec 64) (c : Cmd), z.ready 0x0085 wid [] = some c →
    let s := z.markDispatched wid;
    let expert : Bool := true;
    let target := BitVec.ofNat 64 (c.u64 0);
    ∀ e',
    ((s.fn c.fn).session.bind fun q => q.took.find? fun e => e.1 = target) = some e' →
    let e := e';
    let res := if expert then e.2.2.toNat + target.toNat / 2 ^ 55 * 2 ^ 32 else 0;
    ¬(e.2.1 = 0x0005#16 || e.2.1 = 0x0085#16) →
    (s.journal.any fun j => j.wid = target && j.state = .accepted) →
    exec (.cmdCancelExpert wid) z = .next (State.settle ((s.complete target stCancelled).ok c res))) ∧
  -- WORK_QUERY (R69)
  (∀ (z : State) (wid : BitVec 64) (c : Cmd), z.ready 0x0006 wid [] = some c →
    let s := z.markDispatched wid;
    let os : List Outcome := (s.readyOutcomes c.fn).take 1024;
    let det : Nat := 0;
    ∀ s1,
    s.writeBuf c (c.u64 0) (os.flatMap Outcome.encode) = .ok s1 →
    exec (.workQuery wid) z = .next (State.settle ((s1.takeOutcomes c.fn os).ok c os.length det))) ∧
  -- WORK_QUERY_EXPERT (R69)
  (∀ (z : State) (wid : BitVec 64) (c : Cmd), z.ready 0x0086 wid [] = some c →
    let s := z.markDispatched wid;
    let r := c.u16 8;
    (r < 288 && ringFn r = c.fn) →
    let os : List Outcome := ((s.readyOutcomes c.fn).filter fun o => o.ring = r).take (min (c.u16 10) 1024);
    let det : Nat := (s.ring r).lastWid.toNat % 2 ^ 32;
    ∀ s1,
    s.writeBuf c (c.u64 0) (os.flatMap Outcome.encode) = .ok s1 →
    exec (.workQueryExpert wid) z = .next (State.settle ((s1.takeOutcomes c.fn os).ok c os.length det))) ∧
  -- NOP (R77)
  (∀ (z : State) (wid : BitVec 64) (c : Cmd), z.ready 0x0007 wid [] = some c →
    let s := z.markDispatched wid;
    exec (.nop wid) z = .next (State.settle (s.ok c c.len))) ∧
  -- NOP_EXPERT (R77)
  (∀ (z : State) (wid : BitVec 64) (c : Cmd), z.ready 0x0087 wid [] = some c →
    let s := z.markDispatched wid;
    (c.u64 0 ≤ 1000000) →
    exec (.nopExpert wid) z = .next (State.settle (s.wait c.w (.nop (s.t + c.u64 0 * 1000))))) ∧
  -- NOP_DELAY_EXPIRY (R77)
  (∀ (w : BitVec 64) (s : State),
    ∀ x',
    (s.waits.find? fun x => x.wid = w) = some x' →
    let x := x';
    ∀ due,
    x.kind = .nop due →
    exec (.nopDelayExpiry w) s = .next (State.settle ((s.reach due).complete w stOk)))

/-- Paddock create, modify, destroy, query and key commands complete with their effects: PADDOCK_CREATE,
PADDOCK_CREATE_EXPERT, PADDOCK_MODIFY, PADDOCK_MODIFY_EXPERT, PADDOCK_DESTROY, PADDOCK_DESTROY_EXPERT,
PADDOCK_QUERY, PADDOCK_QUERY_EXPERT, PADDOCK_KEY_SET, PADDOCK_KEY_SET_EXPERT (R66, R68, R77, R78, R79). -/
def Obligations.PaddockCommands : Prop :=
  -- PADDOCK_CREATE (R66)
  (∀ (z : State) (wid : BitVec 64) (c : Cmd), z.ready 0x0010 wid [] = some c →
    let s := z.markDispatched wid;
    let q : PadReq := padBasic c;
    ∀ n,
    q.teams = some n →
    ∀ hbm,
    q.hbm = some hbm →
    (s.padRanges q n) →
    (!thas s.paddocks q.pad) →
    let free := s.teamsOpen;
    ∀ teams,
    (match q.perDie with | some ds => placePerDie s.dieOf free ds | none => placeTeams s.dieOf free n) = some teams →
    let frac := fun (pool grain : Nat) => n * pool / 320 / grain * grain;
    let k : Paddock := { Paddock.reset with
      teams := teams, hbmQuota := hbm, basinQuota := q.basin.getD (frac 1792 1), nvwQuota := q.nvw.getD 0,
      parkQuota := q.park.getD (frac s.cxl.presentGiB 1), manifestQuota := q.manifest.getD (frac 131072 128),
      traceShare := q.trace.getD (frac 100 1), quayShare := q.quay.getD 0, models := q.models.getD 2,
      adapters := q.adapters.getD 256, errorBudget := q.budget.getD 64,
      xtsKey := (List.range 8).foldl (fun a i => (a <<< 64) ||| (Config.freeWord (s.free + i)).zeroExtend 512) 0#512 };
    (s.poolsOk q.pad k) →
    let s1 : State := { s with free := s.free + 8, paddocks := tput s.paddocks q.pad k };
    exec (.paddockCreate wid) z = .next (State.settle (s1.ok c ((teams[0]?).getD 0) n))) ∧
  -- PADDOCK_CREATE_EXPERT (R79)
  (∀ (z : State) (wid : BitVec 64) (c : Cmd), z.ready 0x0090 wid [] = some c →
    let s := z.markDispatched wid;
    let q : PadReq := padRecord c;
    ∀ n,
    q.teams = some n →
    ∀ hbm,
    q.hbm = some hbm →
    (s.padRanges q n) →
    (!thas s.paddocks q.pad) →
    let free := s.teamsOpen;
    ∀ teams,
    (match q.perDie with | some ds => placePerDie s.dieOf free ds | none => placeTeams s.dieOf free n) = some teams →
    let frac := fun (pool grain : Nat) => n * pool / 320 / grain * grain;
    let k : Paddock := { Paddock.reset with
      teams := teams, hbmQuota := hbm, basinQuota := q.basin.getD (frac 1792 1), nvwQuota := q.nvw.getD 0,
      parkQuota := q.park.getD (frac s.cxl.presentGiB 1), manifestQuota := q.manifest.getD (frac 131072 128),
      traceShare := q.trace.getD (frac 100 1), quayShare := q.quay.getD 0, models := q.models.getD 2,
      adapters := q.adapters.getD 256, errorBudget := q.budget.getD 64,
      xtsKey := (List.range 8).foldl (fun a i => (a <<< 64) ||| (Config.freeWord (s.free + i)).zeroExtend 512) 0#512 };
    (s.poolsOk q.pad k) →
    let s1 : State := { s with free := s.free + 8, paddocks := tput s.paddocks q.pad k };
    exec (.paddockCreateExpert wid) z = .next (State.settle (s1.ok c ((teams[0]?).getD 0) n))) ∧
  -- PADDOCK_MODIFY (R68)
  (∀ (z : State) (wid : BitVec 64) (c : Cmd), z.ready 0x0011 wid [] = some c →
    let s := z.markDispatched wid;
    let q : PadReq := padBasic c;
    ∀ old,
    tget s.paddocks q.pad = some old →
    let n := q.teams.getD old.teams.length;
    (s.padRanges q n || (q.teams.isNone && q.perDie.isNone && s.padRanges { q with teams := none } 1)) →
    let k0 : Paddock := { old with
      hbmQuota := q.hbm.getD old.hbmQuota, basinQuota := q.basin.getD old.basinQuota,
      nvwQuota := q.nvw.getD old.nvwQuota, parkQuota := q.park.getD old.parkQuota,
      manifestQuota := q.manifest.getD old.manifestQuota, traceShare := q.trace.getD old.traceShare,
      quayShare := q.quay.getD old.quayShare, models := q.models.getD old.models,
      adapters := q.adapters.getD old.adapters, errorBudget := q.budget.getD old.errorBudget };
    (s.quotasHold q.pad old k0 && s.poolsOk q.pad k0) →
    ∀ teams gone,
    newTeams s.dieOf s.teamsOpen old.teams n q.perDie = some (teams, gone) →
    let k := { k0 with teams := teams, leaving := gone.foldl (fun a l => insNat l a) old.leaving };
    let s1 := gone.foldl (fun s l => s.clearTeam l) { s with paddocks := tput s.paddocks q.pad k };
    let tooWide := s1.tasks.filter fun e =>
      e.2.paddock = q.pad && teams.length < e.2.teamsN && (e.2.state = .suspResident || e.2.state = .suspSaved);
    let s2 := tooWide.foldl (fun s e => s.finishTask e.1 .failed stTeamsExceed 0#32) s1;
    exec (.paddockModify wid) z = .next (State.settle (s2.wait c.w (.shrink q.pad)))) ∧
  -- PADDOCK_MODIFY_EXPERT (R79)
  (∀ (z : State) (wid : BitVec 64) (c : Cmd), z.ready 0x0091 wid [] = some c →
    let s := z.markDispatched wid;
    let q : PadReq := padRecord c;
    ∀ old,
    tget s.paddocks q.pad = some old →
    let n := q.teams.getD old.teams.length;
    (s.padRanges q n || (q.teams.isNone && q.perDie.isNone && s.padRanges { q with teams := none } 1)) →
    let k0 : Paddock := { old with
      hbmQuota := q.hbm.getD old.hbmQuota, basinQuota := q.basin.getD old.basinQuota,
      nvwQuota := q.nvw.getD old.nvwQuota, parkQuota := q.park.getD old.parkQuota,
      manifestQuota := q.manifest.getD old.manifestQuota, traceShare := q.trace.getD old.traceShare,
      quayShare := q.quay.getD old.quayShare, models := q.models.getD old.models,
      adapters := q.adapters.getD old.adapters, errorBudget := q.budget.getD old.errorBudget };
    (s.quotasHold q.pad old k0 && s.poolsOk q.pad k0) →
    ∀ teams gone,
    newTeams s.dieOf s.teamsOpen old.teams n q.perDie = some (teams, gone) →
    let k := { k0 with teams := teams, leaving := gone.foldl (fun a l => insNat l a) old.leaving };
    let s1 := gone.foldl (fun s l => s.clearTeam l) { s with paddocks := tput s.paddocks q.pad k };
    let tooWide := s1.tasks.filter fun e =>
      e.2.paddock = q.pad && teams.length < e.2.teamsN && (e.2.state = .suspResident || e.2.state = .suspSaved);
    let s2 := tooWide.foldl (fun s e => s.finishTask e.1 .failed stTeamsExceed 0#32) s1;
    exec (.paddockModifyExpert wid) z = .next (State.settle (s2.wait c.w (.shrink q.pad)))) ∧
  -- PADDOCK_DESTROY (R68)
  (∀ (z : State) (wid : BitVec 64) (c : Cmd), z.ready 0x0012 wid [] = some c →
    let s := z.markDispatched wid;
    let p := c.u32 0;
    let again : Bool := match s.jrec c.w with | some j => j.replayed | none => false;
    (!thas s.paddocks p) →
    (again) →
    exec (.paddockDestroy wid) z = .next (State.settle (s.ok c))) ∧
  (∀ (z : State) (wid : BitVec 64) (c : Cmd), z.ready 0x0012 wid [] = some c →
    let s := z.markDispatched wid;
    let p := c.u32 0;
    (thas s.paddocks p) →
    let s1 := ((s.closeAway (p + 1)).cancelWork p).releasePaddock p;
    exec (.paddockDestroy wid) z = .next (State.settle (s1.ok c))) ∧
  -- PADDOCK_DESTROY_EXPERT (R68)
  (∀ (z : State) (wid : BitVec 64) (c : Cmd), z.ready 0x0092 wid [] = some c →
    let s := z.markDispatched wid;
    let p := c.u32 0;
    let again : Bool := match s.jrec c.w with | some j => j.replayed | none => false;
    (!thas s.paddocks p) →
    (again) →
    exec (.paddockDestroyExpert wid) z = .next (State.settle (s.ok c))) ∧
  (∀ (z : State) (wid : BitVec 64) (c : Cmd), z.ready 0x0092 wid [] = some c →
    let s := z.markDispatched wid;
    let zeroing : Bool := c.flag 4;
    let p := c.u32 0;
    (thas s.paddocks p) →
    let s1 := ((s.closeAway (p + 1)).cancelWork p).releasePaddock p;
    (zeroing) →
    exec (.paddockDestroyExpert wid) z = .next (State.settle (s1.wait c.w (.destroyZero p)))) ∧
  (∀ (z : State) (wid : BitVec 64) (c : Cmd), z.ready 0x0092 wid [] = some c →
    let s := z.markDispatched wid;
    let zeroing : Bool := c.flag 4;
    let p := c.u32 0;
    (thas s.paddocks p) →
    let s1 := ((s.closeAway (p + 1)).cancelWork p).releasePaddock p;
    ¬(zeroing) →
    exec (.paddockDestroyExpert wid) z = .next (State.settle (s1.ok c))) ∧
  -- PADDOCK_QUERY (R77)
  (∀ (z : State) (wid : BitVec 64) (c : Cmd), z.ready 0x0013 wid [] = some c →
    let s := z.markDispatched wid;
    let recs := if c.mgmt then (List.range 8).flatMap s.paddockRecord else s.paddockRecord c.pad;
    ∀ s1,
    s.writeBuf c (c.u64 0) recs = .ok s1 →
    exec (.paddockQuery wid) z = .next (State.settle (s1.ok c))) ∧
  -- PADDOCK_QUERY_EXPERT (R77)
  (∀ (z : State) (wid : BitVec 64) (c : Cmd), z.ready 0x0093 wid [] = some c →
    let s := z.markDispatched wid;
    let p := c.u32 8;
    (c.mgmt || p = c.pad) →
    (thas s.paddocks p) →
    ∀ s1,
    s.writeBuf c (c.u64 0) (s.paddockRecord p) = .ok s1 →
    exec (.paddockQueryExpert wid) z = .next (State.settle (s1.ok c))) ∧
  -- PADDOCK_KEY_SET (R78)
  (∀ (z : State) (wid : BitVec 64) (c : Cmd), z.ready 0x0014 wid [] = some c →
    let s := z.markDispatched wid;
    let p := c.u32 0;
    (thas s.paddocks p) →
    ∀ key,
    s.unwrapKey c = some key →
    let s1 : State := { s with kryto := { s.kryto with tenantKeys := tput s.kryto.tenantKeys p key } };
    exec (.paddockKeySet wid) z = .next (State.settle (s1.ok c))) ∧
  -- PADDOCK_KEY_SET_EXPERT (R78)
  (∀ (z : State) (wid : BitVec 64) (c : Cmd), z.ready 0x0094 wid [] = some c →
    let s := z.markDispatched wid;
    let p := c.u32 0;
    let gen : BitVec 32 := BitVec.ofNat 32 (c.u32 60);
    (thas s.paddocks p) →
    ∀ key,
    s.unwrapKey c = some key →
    ((tgetD 0#32 s.kryto.keyGen p).toNat < gen.toNat) →
    let s1 : State := { s with kryto := { s.kryto with tenantKeys := tput s.kryto.tenantKeys p key
                                                       keyGen := tputD 0#32 s.kryto.keyGen p gen } };
    exec (.paddockKeySetExpert wid) z = .next (State.settle (s1.ok c)))

/-- Array steps, vector arithmetic, Basin loads and stores and TRAP have their effects: ARRAY_STEP, QMX,
VECTOR_ARITHMETIC, VECTOR_REDUCTION, BASIN_LOAD, BASIN_STORE, TRAP (R86, R106, R113, R114, R165, R192). -/
def Obligations.CoreArithmeticAndBasinInstructions : Prop :=
  -- ARRAY_STEP (R86)
  (∀ (k : Site) (p : Product) (z : State),
    let s := z;
    ∀ w t rk,
    s.issuing k.team = some (w, t, rk) →
    ¬(16 ≤ k.core) →
    let key := ctxKey k.team k.core t.ctx;
    let s := s.modCtx key fun x => { x with pc := k.pc };
    let array : Bool := match tget s.kernels t.kernel with | some q => q.array | none => false;
    (array) →
    (productOk p) →
    ((productRanges p).find? fun r => !s.basinOk t r.1 r.2.1) = none →
    ((productRanges p).find? fun r => r.1 % r.2.2 ≠ 0) = none →
    (p.merge.findSome? fun q => s.mergeFault t q) = none →
    let s1 := (s.addStep k.team p).mergePartials k.team p.merge;
    p.fin = none →
    exec (.arrayStep k p) z = .next (State.settle (s1))) ∧
  (∀ (k : Site) (p : Product) (z : State),
    let s := z;
    ∀ w t rk,
    s.issuing k.team = some (w, t, rk) →
    ¬(16 ≤ k.core) →
    let key := ctxKey k.team k.core t.ctx;
    let s := s.modCtx key fun x => { x with pc := k.pc };
    let array : Bool := match tget s.kernels t.kernel with | some q => q.array | none => false;
    (array) →
    (productOk p) →
    ((productRanges p).find? fun r => !s.basinOk t r.1 r.2.1) = none →
    ((productRanges p).find? fun r => r.1 % r.2.2 ≠ 0) = none →
    (p.merge.findSome? fun q => s.mergeFault t q) = none →
    let s1 := (s.addStep k.team p).mergePartials k.team p.merge;
    ∀ f,
    p.fin = some f →
    let wide := f.fmt = .ep16 && (s1.team k.team).accs.any fun e => e.2.isWide;
    f.overflow = none →
    ¬(wide) →
    exec (.arrayStep k p) z = .next (State.settle (s1.finishProduct w k.team f))) ∧
  (∀ (k : Site) (p : Product) (z : State),
    let s := z;
    ∀ w t rk,
    s.issuing k.team = some (w, t, rk) →
    ¬(16 ≤ k.core) →
    let key := ctxKey k.team k.core t.ctx;
    let s := s.modCtx key fun x => { x with pc := k.pc };
    let array : Bool := match tget s.kernels t.kernel with | some q => q.array | none => false;
    (array) →
    (productOk p) →
    ((productRanges p).find? fun r => !s.basinOk t r.1 r.2.1) = none →
    ((productRanges p).find? fun r => r.1 % r.2.2 ≠ 0) = none →
    (p.merge.findSome? fun q => s.mergeFault t q) = none →
    let s1 := (s.addStep k.team p).mergePartials k.team p.merge;
    ∀ f,
    p.fin = some f →
    ∀ o,
    f.overflow = some o →
    ¬(f.fmt = .ep16 && !s1.overflowOk t o) →
    exec (.arrayStep k p) z = .next (State.settle (s1.finishProduct w k.team f))) ∧
  -- QMX (R106)
  (∀ (k : Site) (f : ElemFmt) (ln : Lanes) (hi : Bool) (r : Rnd) (vs : Nat) (vd : Nat) (sd : Nat) (z : State),
    let s := z;
    ∀ g,
    mxOf f = some g →
    ∀ mode,
    RMode.of r.mode = some mode →
    ∀ w t rk,
    s.issuing k.team = some (w, t, rk) →
    ¬(16 ≤ k.core) →
    let key := ctxKey k.team k.core t.ctx;
    let s := s.modCtx key fun x => { x with pc := k.pc };
    (vOk [vs, vd] && sd < 32 && ln != .fp16) →
    exec (.qmx k f ln hi r vs vd sd) z = .next (State.settle
      (s.modCtx key fun x =>
      let all := x.elems ln vs
      let q := qmx g mode (rndInts r 32) (((if hi && ln != .f32 then all.drop 32 else all).take 32).map fv)
      let p := x.tainted [pV vs]
      (x.setV vd (packBlock g q.2) p).setS sd (BitVec.ofNat 64 q.1) p))) ∧
  -- VECTOR_ARITHMETIC (R113)
  (∀ (k : Site) (op : VecOp) (ln : Lanes) (r : Rnd) (vd : Nat) (va : Nat) (vb : Nat) (vc : Nat) (z : State),
    let s := z;
    ∀ mode,
    RMode.of r.mode = some mode →
    let srcs := vecSources op va vb vc;
    ∀ w t rk,
    s.issuing k.team = some (w, t, rk) →
    ¬(16 ≤ k.core) →
    let key := ctxKey k.team k.core t.ctx;
    let s := s.modCtx key fun x => { x with pc := k.pc };
    let x := s.ctx key;
    let m := arithMode mode;
    let res := match op with
      | .cvt src dst ss ds => if ln = .f32 then convert r mode src dst ss ds (x.v va) else none
      | _ => if ln = .fp16 then none
             else (lanesOf op m r.sat (x.elems ln va) (x.elems ln vb) (x.elems ln vc)).map fun l => packLanes ln m l r.sat;
    ∀ vs,
    res = some vs →
    (vOk (vd :: srcs)) →
    exec (.vectorArithmetic k op ln r vd va vb vc) z = .next (State.settle
      (s.setCtx key (x.setV vd vs (x.tainted (srcs.map pV)))))) ∧
  -- VECTOR_REDUCTION (R114)
  (∀ (k : Site) (op : RedOp) (ln : Lanes) (r : Rnd) (src : List (Nat × Nat × Nat)) (n : Nat) (sd : Nat) (saved : Option Nat) (z : State),
    let s := z;
    ∀ w t rk,
    s.issuing k.team = some (w, t, rk) →
    ¬(16 ≤ k.core) →
    let key := ctxKey k.team k.core t.ctx;
    let s := s.modCtx key fun x => { x with pc := k.pc };
    let ok := sd < 32 && ln != .fp16 && src.all (fun e => t.teams.contains e.1 && e.2.1 < 16 && e.2.2 < 32) &&
      (match saved with | some i => i < 32 | none => true);
    ∀ mode,
    RMode.of r.mode = some mode →
    (ok) →
    let g := s.gatherElems t ln src;
    let m := arithMode mode;
    let step := fun (f : F32 → F32 → F32) (a b : F32) => if ln = .f32 then f a b else wide (toBf16 m (f a b) r.sat);
    let l := g.1.take n;
    let res := canon (match op with
      | .sum => reduceTree (step fun a b => fadd m a b r.sat) 0#32 l
      | .max => reduceTree (step fmax) 0xFF800000#32 l
      | .min => reduceTree (step fmin) 0x7F800000#32 l);
    let out := if ln = .f32 then res.zeroExtend 64 else (toBf16 m res).zeroExtend 64;
    let s1 := match saved with
      | some i => if ((s.ctx key).s i).truncate 32 ≠ res then
          s.modPaddock t.paddock fun p => { p with statMismatch := p.statMismatch + 1#64 } else s
      | none => s;
    exec (.vectorReduction k op ln r src n sd saved) z = .next (State.settle (s1.modCtx key fun x => x.setS sd out g.2))) ∧
  -- BASIN_LOAD (R192)
  (∀ (k : Site) (dst : Place) (ra : Nat) (off : Nat) (n : Nat) (ecc : List (Nat × Bool)) (z : State),
    let s := z;
    ∀ w t rk,
    s.issuing k.team = some (w, t, rk) →
    ¬(16 ≤ k.core) →
    let key := ctxKey k.team k.core t.ctx;
    let s := s.modCtx key fun x => { x with pc := k.pc };
    ∀ a,
    s.access k t key dst ra off n = .ok a →
    let s := s.basinEcc (ecc.filter fun e => (lineAddrs a n).contains (e.1 / 256 * 256));
    let bs := s.bytes a n;
    let p := s.poisoned a n;
    ∀ i,
    dst = .s i →
    exec (.basinLoad k dst ra off n ecc) z = .next (State.settle
      (s.modCtx key fun x => x.setS i (BitVec.ofNat 64 (leNat bs)) p))) ∧
  (∀ (k : Site) (dst : Place) (ra : Nat) (off : Nat) (n : Nat) (ecc : List (Nat × Bool)) (z : State),
    let s := z;
    ∀ w t rk,
    s.issuing k.team = some (w, t, rk) →
    ¬(16 ≤ k.core) →
    let key := ctxKey k.team k.core t.ctx;
    let s := s.modCtx key fun x => { x with pc := k.pc };
    ∀ a,
    s.access k t key dst ra off n = .ok a →
    let s := s.basinEcc (ecc.filter fun e => (lineAddrs a n).contains (e.1 / 256 * 256));
    let bs := s.bytes a n;
    let p := s.poisoned a n;
    ∀ i,
    dst = .m i →
    exec (.basinLoad k dst ra off n ecc) z = .next (State.settle
      (s.modCtx key fun x => x.setM i (BitVec.ofNat 64 (leNat bs)) p))) ∧
  (∀ (k : Site) (dst : Place) (ra : Nat) (off : Nat) (n : Nat) (ecc : List (Nat × Bool)) (z : State),
    let s := z;
    ∀ w t rk,
    s.issuing k.team = some (w, t, rk) →
    ¬(16 ≤ k.core) →
    let key := ctxKey k.team k.core t.ctx;
    let s := s.modCtx key fun x => { x with pc := k.pc };
    ∀ a,
    s.access k t key dst ra off n = .ok a →
    let s := s.basinEcc (ecc.filter fun e => (lineAddrs a n).contains (e.1 / 256 * 256));
    let bs := s.bytes a n;
    let p := s.poisoned a n;
    ∀ i,
    dst = .v i →
    exec (.basinLoad k dst ra off n ecc) z = .next (State.settle
      (s.modCtx key fun x => x.setV i ((List.range 32).map fun j => BitVec.ofNat 32 (fld bs (4 * j) 4)) p))) ∧
  (∀ (k : Site) (dst : Place) (ra : Nat) (off : Nat) (n : Nat) (ecc : List (Nat × Bool)) (z : State),
    let s := z;
    ∀ w t rk,
    s.issuing k.team = some (w, t, rk) →
    ¬(16 ≤ k.core) →
    let key := ctxKey k.team k.core t.ctx;
    let s := s.modCtx key fun x => { x with pc := k.pc };
    ∀ a,
    s.access k t key dst ra off n = .ok a →
    let s := s.basinEcc (ecc.filter fun e => (lineAddrs a n).contains (e.1 / 256 * 256));
    let bs := s.bytes a n;
    ∀ o,
    dst = .scratch o →
    exec (.basinLoad k dst ra off n ecc) z = .next (State.settle (s.scratchWrite k.team k.core (s.window k.team t).1 o bs))) ∧
  -- BASIN_STORE (R192)
  (∀ (k : Site) (src : Place) (ra : Nat) (off : Nat) (n : Nat) (z : State),
    let s := z;
    ∀ w t rk,
    s.issuing k.team = some (w, t, rk) →
    ¬(16 ≤ k.core) →
    let key := ctxKey k.team k.core t.ctx;
    let s := s.modCtx key fun x => { x with pc := k.pc };
    ∀ a,
    s.access k t key src ra off n = .ok a →
    let x := s.ctx key;
    ∀ i,
    src = .s i →
    exec (.basinStore k src ra off n) z = .next (State.settle (s.taskStore w (x.tainted [pS i]) a (leBytes n (x.s i).toNat)))) ∧
  (∀ (k : Site) (src : Place) (ra : Nat) (off : Nat) (n : Nat) (z : State),
    let s := z;
    ∀ w t rk,
    s.issuing k.team = some (w, t, rk) →
    ¬(16 ≤ k.core) →
    let key := ctxKey k.team k.core t.ctx;
    let s := s.modCtx key fun x => { x with pc := k.pc };
    ∀ a,
    s.access k t key src ra off n = .ok a →
    let x := s.ctx key;
    ∀ i,
    src = .m i →
    exec (.basinStore k src ra off n) z = .next (State.settle (s.taskStore w (x.tainted [pM i]) a (leBytes n (x.m i).toNat)))) ∧
  (∀ (k : Site) (src : Place) (ra : Nat) (off : Nat) (n : Nat) (z : State),
    let s := z;
    ∀ w t rk,
    s.issuing k.team = some (w, t, rk) →
    ¬(16 ≤ k.core) →
    let key := ctxKey k.team k.core t.ctx;
    let s := s.modCtx key fun x => { x with pc := k.pc };
    ∀ a,
    s.access k t key src ra off n = .ok a →
    let x := s.ctx key;
    ∀ i,
    src = .v i →
    exec (.basinStore k src ra off n) z = .next (State.settle
      (s.taskStore w (x.tainted [pV i]) a ((x.v i).flatMap fun v => leBytes 4 v.toNat)))) ∧
  (∀ (k : Site) (src : Place) (ra : Nat) (off : Nat) (n : Nat) (z : State),
    let s := z;
    ∀ w t rk,
    s.issuing k.team = some (w, t, rk) →
    ¬(16 ≤ k.core) →
    let key := ctxKey k.team k.core t.ctx;
    let s := s.modCtx key fun x => { x with pc := k.pc };
    ∀ a,
    s.access k t key src ra off n = .ok a →
    ∀ o,
    src = .scratch o →
    exec (.basinStore k src ra off n) z = .next (State.settle
      (s.taskStore w false a (s.scratchRead k.team k.core (s.window k.team t).1 o n)))) ∧
  -- TRAP (R165)
  (∀ (k : Site) (v : BitVec 16) (s : State) (w : BitVec 64) (t : Task) (rk : Nat),
    s.issuing k.team = some (w, t, rk) → ¬(16 ≤ k.core) →
    exec (.trap k v) s = .next (State.settle
        ((s.modCtx (ctxKey k.team k.core t.ctx) fun x => { x with pc := k.pc }).raise w rk k.core 0x05 v.toNat)))

/-- The exact sum instructions add to the context's exact register, merge other cores' registers and partials in memory,
write it out as a partial, and deliver its rounding: EXSUM, EXSUMSQ, EXDOT (R99, R116). -/
def Obligations.ExactSumInstructions : Prop :=
  -- EXSUM (R116)
  (∀ (k : Site) (ln : Lanes) (va : List Nat) (n : Nat) (ex : ExCtl) (z : State),
    let s := z;
    let regs : List Nat := va;
    let ok : Bool := ln != .fp16;
    let terms : Ctx → List FVal := fun x => ((x.elemsOf ln va).take n).map fv;
    ∀ w t rk,
    s.issuing k.team = some (w, t, rk) →
    ¬(16 ≤ k.core) →
    let key := ctxKey k.team k.core t.ctx;
    let s := s.modCtx key fun x => { x with pc := k.pc };
    let good := ok && vOk regs && ex.merge.all (fun e => t.teams.contains e.1 && e.2 < 16) &&
      (match ex.fin with | some f => f.2 < 32 && (RMode.of f.1.mode).isSome | none => true);
    (good) →
    (ex.parts.findSome? fun q => s.partFault t q (ep16Wide (s.bytes q.entry 16))) = none →
    let x := s.ctx key;
    let a0 := (terms x).foldl Acc.addTerm (if ex.clear then Acc.reset else x.exact);
    let a1 := ex.merge.foldl (fun a e => a.merge (s.ctx (ctxKey e.1 e.2 t.ctx)).exact) a0;
    let a := ex.parts.foldl (fun a q => a.merge ((s.partialAt q.entry q.record).getD Acc.reset)) a1;
    let p := s.exactTaint t ex x regs;
    (ex.out.bind fun q => s.partFault t q a.isWide) = none →
    let s := s.modCtx key fun x => { x with exact := a, exPoison := p };
    let s := match ex.out with
      | none => s
      | some q =>
        let s := s.taskStore w p q.entry a.ep16
        match q.record with
        | some b => if a.isWide then s.taskStore w p b a.ep64 else s
        | none => s;
    ex.fin = none →
    exec (.exsum k ln va n ex) z = .next (State.settle (s))) ∧
  (∀ (k : Site) (ln : Lanes) (va : List Nat) (n : Nat) (ex : ExCtl) (z : State),
    let s := z;
    let regs : List Nat := va;
    let ok : Bool := ln != .fp16;
    let terms : Ctx → List FVal := fun x => ((x.elemsOf ln va).take n).map fv;
    ∀ w t rk,
    s.issuing k.team = some (w, t, rk) →
    ¬(16 ≤ k.core) →
    let key := ctxKey k.team k.core t.ctx;
    let s := s.modCtx key fun x => { x with pc := k.pc };
    let good := ok && vOk regs && ex.merge.all (fun e => t.teams.contains e.1 && e.2 < 16) &&
      (match ex.fin with | some f => f.2 < 32 && (RMode.of f.1.mode).isSome | none => true);
    (good) →
    (ex.parts.findSome? fun q => s.partFault t q (ep16Wide (s.bytes q.entry 16))) = none →
    let x := s.ctx key;
    let a0 := (terms x).foldl Acc.addTerm (if ex.clear then Acc.reset else x.exact);
    let a1 := ex.merge.foldl (fun a e => a.merge (s.ctx (ctxKey e.1 e.2 t.ctx)).exact) a0;
    let a := ex.parts.foldl (fun a q => a.merge ((s.partialAt q.entry q.record).getD Acc.reset)) a1;
    let p := s.exactTaint t ex x regs;
    (ex.out.bind fun q => s.partFault t q a.isWide) = none →
    let s := s.modCtx key fun x => { x with exact := a, exPoison := p };
    let s := match ex.out with
      | none => s
      | some q =>
        let s := s.taskStore w p q.entry a.ep16
        match q.record with
        | some b => if a.isWide then s.taskStore w p b a.ep64 else s
        | none => s;
    ∀ r sd,
    ex.fin = some (r, sd) →
    let mode := (RMode.of r.mode).getD .rne;
    let v := a.resolve mode 0 (.zero false);
    let u := if r.mode = 4 then srInt r.seed r.stream r.index else 0;
    let s := s.countRounding k.team a.drops.toNat v.kind;
    exec (.exsum k ln va n ex) z = .next (State.settle
      (s.modCtx key fun x => ({ x with exact := Acc.reset, exPoison := false }).setS sd
        (BitVec.ofNat 64 (Fmt.fp32.round mode r.sat u v)) p))) ∧
  -- EXSUMSQ (R116)
  (∀ (k : Site) (ln : Lanes) (va : List Nat) (n : Nat) (ex : ExCtl) (z : State),
    let s := z;
    let regs : List Nat := va;
    let ok : Bool := ln != .fp16;
    let terms : Ctx → List FVal := fun x => ((x.elemsOf ln va).take n).map fun a => (fv a).mul (fv a);
    ∀ w t rk,
    s.issuing k.team = some (w, t, rk) →
    ¬(16 ≤ k.core) →
    let key := ctxKey k.team k.core t.ctx;
    let s := s.modCtx key fun x => { x with pc := k.pc };
    let good := ok && vOk regs && ex.merge.all (fun e => t.teams.contains e.1 && e.2 < 16) &&
      (match ex.fin with | some f => f.2 < 32 && (RMode.of f.1.mode).isSome | none => true);
    (good) →
    (ex.parts.findSome? fun q => s.partFault t q (ep16Wide (s.bytes q.entry 16))) = none →
    let x := s.ctx key;
    let a0 := (terms x).foldl Acc.addTerm (if ex.clear then Acc.reset else x.exact);
    let a1 := ex.merge.foldl (fun a e => a.merge (s.ctx (ctxKey e.1 e.2 t.ctx)).exact) a0;
    let a := ex.parts.foldl (fun a q => a.merge ((s.partialAt q.entry q.record).getD Acc.reset)) a1;
    let p := s.exactTaint t ex x regs;
    (ex.out.bind fun q => s.partFault t q a.isWide) = none →
    let s := s.modCtx key fun x => { x with exact := a, exPoison := p };
    let s := match ex.out with
      | none => s
      | some q =>
        let s := s.taskStore w p q.entry a.ep16
        match q.record with
        | some b => if a.isWide then s.taskStore w p b a.ep64 else s
        | none => s;
    ex.fin = none →
    exec (.exsumsq k ln va n ex) z = .next (State.settle (s))) ∧
  (∀ (k : Site) (ln : Lanes) (va : List Nat) (n : Nat) (ex : ExCtl) (z : State),
    let s := z;
    let regs : List Nat := va;
    let ok : Bool := ln != .fp16;
    let terms : Ctx → List FVal := fun x => ((x.elemsOf ln va).take n).map fun a => (fv a).mul (fv a);
    ∀ w t rk,
    s.issuing k.team = some (w, t, rk) →
    ¬(16 ≤ k.core) →
    let key := ctxKey k.team k.core t.ctx;
    let s := s.modCtx key fun x => { x with pc := k.pc };
    let good := ok && vOk regs && ex.merge.all (fun e => t.teams.contains e.1 && e.2 < 16) &&
      (match ex.fin with | some f => f.2 < 32 && (RMode.of f.1.mode).isSome | none => true);
    (good) →
    (ex.parts.findSome? fun q => s.partFault t q (ep16Wide (s.bytes q.entry 16))) = none →
    let x := s.ctx key;
    let a0 := (terms x).foldl Acc.addTerm (if ex.clear then Acc.reset else x.exact);
    let a1 := ex.merge.foldl (fun a e => a.merge (s.ctx (ctxKey e.1 e.2 t.ctx)).exact) a0;
    let a := ex.parts.foldl (fun a q => a.merge ((s.partialAt q.entry q.record).getD Acc.reset)) a1;
    let p := s.exactTaint t ex x regs;
    (ex.out.bind fun q => s.partFault t q a.isWide) = none →
    let s := s.modCtx key fun x => { x with exact := a, exPoison := p };
    let s := match ex.out with
      | none => s
      | some q =>
        let s := s.taskStore w p q.entry a.ep16
        match q.record with
        | some b => if a.isWide then s.taskStore w p b a.ep64 else s
        | none => s;
    ∀ r sd,
    ex.fin = some (r, sd) →
    let mode := (RMode.of r.mode).getD .rne;
    let v := a.resolve mode 0 (.zero false);
    let u := if r.mode = 4 then srInt r.seed r.stream r.index else 0;
    let s := s.countRounding k.team a.drops.toNat v.kind;
    exec (.exsumsq k ln va n ex) z = .next (State.settle
      (s.modCtx key fun x => ({ x with exact := Acc.reset, exPoison := false }).setS sd
        (BitVec.ofNat 64 (Fmt.fp32.round mode r.sat u v)) p))) ∧
  -- EXDOT (R116)
  (∀ (k : Site) (ln : Lanes) (va vb : List Nat) (n : Nat) (ex : ExCtl) (z : State),
    let s := z;
    let regs : List Nat := va ++ vb;
    let ok : Bool := ln != .fp16;
    let terms : Ctx → List FVal := fun x => (((x.elemsOf ln va).zip (x.elemsOf ln vb)).take n).map fun e => (fv e.1).mul (fv e.2);
    ∀ w t rk,
    s.issuing k.team = some (w, t, rk) →
    ¬(16 ≤ k.core) →
    let key := ctxKey k.team k.core t.ctx;
    let s := s.modCtx key fun x => { x with pc := k.pc };
    let good := ok && vOk regs && ex.merge.all (fun e => t.teams.contains e.1 && e.2 < 16) &&
      (match ex.fin with | some f => f.2 < 32 && (RMode.of f.1.mode).isSome | none => true);
    (good) →
    (ex.parts.findSome? fun q => s.partFault t q (ep16Wide (s.bytes q.entry 16))) = none →
    let x := s.ctx key;
    let a0 := (terms x).foldl Acc.addTerm (if ex.clear then Acc.reset else x.exact);
    let a1 := ex.merge.foldl (fun a e => a.merge (s.ctx (ctxKey e.1 e.2 t.ctx)).exact) a0;
    let a := ex.parts.foldl (fun a q => a.merge ((s.partialAt q.entry q.record).getD Acc.reset)) a1;
    let p := s.exactTaint t ex x regs;
    (ex.out.bind fun q => s.partFault t q a.isWide) = none →
    let s := s.modCtx key fun x => { x with exact := a, exPoison := p };
    let s := match ex.out with
      | none => s
      | some q =>
        let s := s.taskStore w p q.entry a.ep16
        match q.record with
        | some b => if a.isWide then s.taskStore w p b a.ep64 else s
        | none => s;
    ex.fin = none →
    exec (.exdot k ln va vb n ex) z = .next (State.settle (s))) ∧
  (∀ (k : Site) (ln : Lanes) (va vb : List Nat) (n : Nat) (ex : ExCtl) (z : State),
    let s := z;
    let regs : List Nat := va ++ vb;
    let ok : Bool := ln != .fp16;
    let terms : Ctx → List FVal := fun x => (((x.elemsOf ln va).zip (x.elemsOf ln vb)).take n).map fun e => (fv e.1).mul (fv e.2);
    ∀ w t rk,
    s.issuing k.team = some (w, t, rk) →
    ¬(16 ≤ k.core) →
    let key := ctxKey k.team k.core t.ctx;
    let s := s.modCtx key fun x => { x with pc := k.pc };
    let good := ok && vOk regs && ex.merge.all (fun e => t.teams.contains e.1 && e.2 < 16) &&
      (match ex.fin with | some f => f.2 < 32 && (RMode.of f.1.mode).isSome | none => true);
    (good) →
    (ex.parts.findSome? fun q => s.partFault t q (ep16Wide (s.bytes q.entry 16))) = none →
    let x := s.ctx key;
    let a0 := (terms x).foldl Acc.addTerm (if ex.clear then Acc.reset else x.exact);
    let a1 := ex.merge.foldl (fun a e => a.merge (s.ctx (ctxKey e.1 e.2 t.ctx)).exact) a0;
    let a := ex.parts.foldl (fun a q => a.merge ((s.partialAt q.entry q.record).getD Acc.reset)) a1;
    let p := s.exactTaint t ex x regs;
    (ex.out.bind fun q => s.partFault t q a.isWide) = none →
    let s := s.modCtx key fun x => { x with exact := a, exPoison := p };
    let s := match ex.out with
      | none => s
      | some q =>
        let s := s.taskStore w p q.entry a.ep16
        match q.record with
        | some b => if a.isWide then s.taskStore w p b a.ep64 else s
        | none => s;
    ∀ r sd,
    ex.fin = some (r, sd) →
    let mode := (RMode.of r.mode).getD .rne;
    let v := a.resolve mode 0 (.zero false);
    let u := if r.mode = 4 then srInt r.seed r.stream r.index else 0;
    let s := s.countRounding k.team a.drops.toNat v.kind;
    exec (.exdot k ln va vb n ex) z = .next (State.settle
      (s.modCtx key fun x => ({ x with exact := Acc.reset, exPoison := false }).setS sd
        (BitVec.ofNat 64 (Fmt.fp32.round mode r.sat u v)) p)))

/-- The function, random and permutation vector instructions write their destinations: EXP, EXPM1, LOG, TANH,
SIGMOID, SILU, LFRAND, LFSEED, CBRAND, CBUNIF, CBNORM, TBNORM, PPOT, TISW, KLT, LPCMP (R118, R119, R120, R129, R134,
R135, R136, R139, R296, R310). -/
def Obligations.VectorFunctionInstructions : Prop :=
  -- EXP (R118)
  (∀ (k : Site) (ln : Lanes) (vd : Nat) (va : Nat) (z : State),
    let s := z;
    ∀ w t rk,
    s.issuing k.team = some (w, t, rk) →
    ¬(16 ≤ k.core) →
    let key := ctxKey k.team k.core t.ctx;
    let s := s.modCtx key fun x => { x with pc := k.pc };
    (vOk [vd, va]) →
    exec (.exp k ln vd va) z = .next (State.settle (s.modCtx key (mapLanes ln fexp vd va)))) ∧
  -- EXPM1 (R118)
  (∀ (k : Site) (ln : Lanes) (vd : Nat) (va : Nat) (z : State),
    let s := z;
    ∀ w t rk,
    s.issuing k.team = some (w, t, rk) →
    ¬(16 ≤ k.core) →
    let key := ctxKey k.team k.core t.ctx;
    let s := s.modCtx key fun x => { x with pc := k.pc };
    (vOk [vd, va]) →
    exec (.expm1 k ln vd va) z = .next (State.settle (s.modCtx key (mapLanes ln fexpm1 vd va)))) ∧
  -- LOG (R119)
  (∀ (k : Site) (ln : Lanes) (vd : Nat) (va : Nat) (z : State),
    let s := z;
    ∀ w t rk,
    s.issuing k.team = some (w, t, rk) →
    ¬(16 ≤ k.core) →
    let key := ctxKey k.team k.core t.ctx;
    let s := s.modCtx key fun x => { x with pc := k.pc };
    (vOk [vd, va]) →
    exec (.log k ln vd va) z = .next (State.settle (s.modCtx key (mapLanes ln flog vd va)))) ∧
  -- TANH (R120)
  (∀ (k : Site) (ln : Lanes) (vd : Nat) (va : Nat) (z : State),
    let s := z;
    ∀ w t rk,
    s.issuing k.team = some (w, t, rk) →
    ¬(16 ≤ k.core) →
    let key := ctxKey k.team k.core t.ctx;
    let s := s.modCtx key fun x => { x with pc := k.pc };
    (vOk [vd, va]) →
    exec (.tanh k ln vd va) z = .next (State.settle (s.modCtx key (mapLanes ln ftanh vd va)))) ∧
  -- SIGMOID (R120)
  (∀ (k : Site) (ln : Lanes) (vd : Nat) (va : Nat) (z : State),
    let s := z;
    ∀ w t rk,
    s.issuing k.team = some (w, t, rk) →
    ¬(16 ≤ k.core) →
    let key := ctxKey k.team k.core t.ctx;
    let s := s.modCtx key fun x => { x with pc := k.pc };
    (vOk [vd, va]) →
    exec (.sigmoid k ln vd va) z = .next (State.settle (s.modCtx key (mapLanes ln fsigmoid vd va)))) ∧
  -- SILU (R120)
  (∀ (k : Site) (ln : Lanes) (vd : Nat) (va : Nat) (z : State),
    let s := z;
    ∀ w t rk,
    s.issuing k.team = some (w, t, rk) →
    ¬(16 ≤ k.core) →
    let key := ctxKey k.team k.core t.ctx;
    let s := s.modCtx key fun x => { x with pc := k.pc };
    (vOk [vd, va]) →
    exec (.silu k ln vd va) z = .next (State.settle (s.modCtx key (mapLanes ln fsilu vd va)))) ∧
  -- LFRAND (R139)
  (∀ (k : Site) (vd : Nat) (z : State),
    let s := z;
    ∀ w t rk,
    s.issuing k.team = some (w, t, rk) →
    ¬(16 ≤ k.core) →
    let key := ctxKey k.team k.core t.ctx;
    let s := s.modCtx key fun x => { x with pc := k.pc };
    (vOk [vd]) →
    let next := (List.range 32).map fun j => (j, natNext (s.lane k.team k.core t.ctx j));
    exec (.lfrand k vd) z = .next (State.settle
      (s.modCtx key fun x =>
         ({ x with gen := next.foldl (fun g (e : Nat × BitVec 128 × BitVec 32) => tput g e.1 e.2.1) x.gen }).setV vd
           (next.map fun (e : Nat × BitVec 128 × BitVec 32) => e.2.2) false))) ∧
  -- LFSEED (R139)
  (∀ (k : Site) (ss : Nat) (z : State),
    let s := z;
    ∀ w t rk,
    s.issuing k.team = some (w, t, rk) →
    ¬(16 ≤ k.core) →
    let key := ctxKey k.team k.core t.ctx;
    let s := s.modCtx key fun x => { x with pc := k.pc };
    ¬(32 ≤ ss) →
    exec (.lfseed k ss) z = .next (State.settle
      (s.modCtx key fun x =>
      { x with gen := (List.range 32).map fun j => (j, natSeed (x.s ss) t.ctx (laneIndex k.team k.core j)) }))) ∧
  -- CBRAND (R129)
  (∀ (k : Site) (vd : Nat) (sk : Nat) (vc : Nat) (z : State),
    let s := z;
    ∀ w t rk,
    s.issuing k.team = some (w, t, rk) →
    ¬(16 ≤ k.core) →
    let key := ctxKey k.team k.core t.ctx;
    let s := s.modCtx key fun x => { x with pc := k.pc };
    (v4Ok vd sk vc) →
    exec (.cbrand k vd sk vc) z = .next (State.settle (s.modCtx key (blockLanes id vd sk vc)))) ∧
  -- CBUNIF (R134)
  (∀ (k : Site) (vd : Nat) (sk : Nat) (vc : Nat) (z : State),
    let s := z;
    ∀ w t rk,
    s.issuing k.team = some (w, t, rk) →
    ¬(16 ≤ k.core) →
    let key := ctxKey k.team k.core t.ctx;
    let s := s.modCtx key fun x => { x with pc := k.pc };
    (v4Ok vd sk vc) →
    exec (.cbunif k vd sk vc) z = .next (State.settle (s.modCtx key (blockLanes (fun b => b.map uniform) vd sk vc)))) ∧
  -- CBNORM (R135)
  (∀ (k : Site) (vd : Nat) (sk : Nat) (vc : Nat) (z : State),
    let s := z;
    ∀ w t rk,
    s.issuing k.team = some (w, t, rk) →
    ¬(16 ≤ k.core) →
    let key := ctxKey k.team k.core t.ctx;
    let s := s.modCtx key fun x => { x with pc := k.pc };
    (v4Ok vd sk vc) →
    exec (.cbnorm k vd sk vc) z = .next (State.settle (s.modCtx key (blockLanes normal4 vd sk vc)))) ∧
  -- TBNORM (R136)
  (∀ (k : Site) (vd : Nat) (vw : Nat) (off : Nat) (z : State),
    let s := z;
    ∀ w t rk,
    s.issuing k.team = some (w, t, rk) →
    ¬(16 ≤ k.core) →
    let key := ctxKey k.team k.core t.ctx;
    let s := s.modCtx key fun x => { x with pc := k.pc };
    let win := s.window k.team t;
    (vOk [vd, vw]) →
    ¬(off % 4 ≠ 0) →
    ¬(win.2 < off + 4 * 4097) →
    let tab := fun (i : Nat) => BitVec.ofNat 32 (leNat (s.scratchRead k.team k.core win.1 (off + 4 * i) 4));
    exec (.tbnorm k vd vw off) z = .next (State.settle
      (s.modCtx key fun x => x.setV vd ((x.v vw).map (tbNormal tab)) (x.tainted [pV vw])))) ∧
  -- PPOT (R310)
  (∀ (k : Site) (l : Nat) (dl : Nat) (lpNew : Nat) (lpOld : Nat) (a : Nat) (elo : Nat) (ehi : Nat) (z : State),
    let s := z;
    ∀ w t rk,
    s.issuing k.team = some (w, t, rk) →
    ¬(16 ≤ k.core) →
    let key := ctxKey k.team k.core t.ctx;
    let s := s.modCtx key fun x => { x with pc := k.pc };
    (vOk [l, dl, lpNew, lpOld, a, elo, ehi]) →
    exec (.ppot k l dl lpNew lpOld a elo ehi) z = .next (State.settle
      (s.modCtx key fun x =>
      let r := (List.range 32).map fun j =>
        let at_ := fun (i : Nat) => tgetD 0#32 x.vregs (32 * i + j)
        ppotLane (at_ lpNew) (at_ lpOld) (at_ a) (at_ elo) (at_ ehi)
      let p := x.tainted ([lpNew, lpOld, a, elo, ehi].map pV)
      (x.setV l (r.map (·.1)) p).setV dl (r.map (·.2)) p))) ∧
  -- TISW (R310)
  (∀ (k : Site) (vd : Nat) (lpA : Nat) (lpB : Nat) (cap : Nat) (z : State),
    let s := z;
    ∀ w t rk,
    s.issuing k.team = some (w, t, rk) →
    ¬(16 ≤ k.core) →
    let key := ctxKey k.team k.core t.ctx;
    let s := s.modCtx key fun x => { x with pc := k.pc };
    (vOk [vd, lpA, lpB, cap]) →
    exec (.tisw k vd lpA lpB cap) z = .next (State.settle
      (s.modCtx key fun x =>
      x.setV vd (((x.v lpA).zip ((x.v lpB).zip (x.v cap))).map fun e => tiswLane e.1 e.2.1 e.2.2)
        (x.tainted ([lpA, lpB, cap].map pV))))) ∧
  -- KLT (R310)
  (∀ (k : Site) (vk : Nat) (vdk : Nat) (lpNew : Nat) (lpRef : Nat) (kind : Nat) (z : State),
    let s := z;
    ∀ w t rk,
    s.issuing k.team = some (w, t, rk) →
    ¬(16 ≤ k.core) →
    let key := ctxKey k.team k.core t.ctx;
    let s := s.modCtx key fun x => { x with pc := k.pc };
    (vOk [vk, vdk, lpNew, lpRef]) →
    exec (.klt k vk vdk lpNew lpRef kind) z = .next (State.settle
      (s.modCtx key fun x =>
      let r := ((x.v lpNew).zip (x.v lpRef)).map fun e => kltLane kind e.1 e.2
      let p := x.tainted ([lpNew, lpRef].map pV)
      (x.setV vk (r.map (·.1)) p).setV vdk (r.map (·.2)) p))) ∧
  -- LPCMP (R296)
  (∀ (k : Site) (lp : Nat) (record : Nat) (ver : Nat) (learnVer : Nat) (seqs : Nat) (poss : Nat) (n : Nat) (z : State),
    let s := z;
    ∀ w t rk,
    s.issuing k.team = some (w, t, rk) →
    ¬(16 ≤ k.core) →
    let key := ctxKey k.team k.core t.ctx;
    let s := s.modCtx key fun x => { x with pc := k.pc };
    ¬(!(vOk [lp, record, ver, seqs, poss] && learnVer < 32)) →
    let x := s.ctx key;
    let at_ := fun (i j : Nat) => tgetD 0#32 x.vregs (32 * i + j);
    exec (.lpcmp k lp record ver learnVer seqs poss n) z = .next (State.settle
      (((List.range (min n 32)).filter fun j => at_ ver j = (x.s learnVer).truncate 32).foldl (fun s j =>
         let s := s.modPaddock t.paddock fun p => { p with lpChecked := p.lpChecked + 1#64 }
         if at_ lp j = at_ record j then s
         else
           let logged := ((tget s.paddocks t.paddock).map (·.lpLogged)).getD 0
           let s := s.modPaddock t.paddock fun p =>
             { p with lpMismatch := p.lpMismatch + 1#64, lpLogged := min 64 (p.lpLogged + 1) }
           if logged < 64 then
             s.logEv evLpMismatch (BitVec.ofNat 8 t.paddock) 0#16 k.team w
               (leBytes 4 (at_ seqs j).toNat ++ leBytes 4 (at_ poss j).toNat)
           else s) s)))

/-- The stream and barrier instructions of a core have their effects: SRD, SREL, SWR, SCLOSE, SABORT, BARV, BWAIT
(R182, R183, R184, R185, R186, R188, R194). -/
def Obligations.StreamAndBarrierInstructions : Prop :=
  -- SRD (R184)
  (∀ (k : Site) (rh : Nat) (rc : Nat) (rn : Nat) (rs : Nat) (rx : Nat) (z : State),
    let s := z;
    ∀ w t rk,
    s.issuing k.team = some (w, t, rk) →
    ¬(16 ≤ k.core) →
    let key := ctxKey k.team k.core t.ctx;
    let s := s.modCtx key fun x => { x with pc := k.pc };
    let x := s.ctx key;
    (vOk ([rh, rc, rn] ++ [rs, rx])) →
    ¬(x.tainted ([rh, rc, rn].map pS)) →
    let h := (x.s rh).toNat;
    s.taskStream t h = none →
    exec (.srd k rh rc rn rs rx) z = .next (State.settle (s.refuse w rk rs))) ∧
  (∀ (k : Site) (rh : Nat) (rc : Nat) (rn : Nat) (rs : Nat) (rx : Nat) (z : State),
    let s := z;
    ∀ w t rk,
    s.issuing k.team = some (w, t, rk) →
    ¬(16 ≤ k.core) →
    let key := ctxKey k.team k.core t.ctx;
    let s := s.modCtx key fun x => { x with pc := k.pc };
    let x := s.ctx key;
    (vOk ([rh, rc, rn] ++ [rs, rx])) →
    ¬(x.tainted ([rh, rc, rn].map pS)) →
    let h := (x.s rh).toNat;
    let c := (x.s rc).toNat;
    let n := (x.s rn).toNat;
    let e := End.task w rk;
    ∀ st,
    s.taskStream t h = some st →
    (!st.consumerOk c e || n = 0 || min 64 st.depth < n) →
    exec (.srd k rh rc rn rs rx) z = .next (State.settle (s.refuse w rk rs))) ∧
  (∀ (k : Site) (rh : Nat) (rc : Nat) (rn : Nat) (rs : Nat) (rx : Nat) (z : State),
    let s := z;
    ∀ w t rk,
    s.issuing k.team = some (w, t, rk) →
    ¬(16 ≤ k.core) →
    let key := ctxKey k.team k.core t.ctx;
    let s := s.modCtx key fun x => { x with pc := k.pc };
    let x := s.ctx key;
    (vOk ([rh, rc, rn] ++ [rs, rx])) →
    ¬(x.tainted ([rh, rc, rn].map pS)) →
    let h := (x.s rh).toNat;
    let c := (x.s rc).toNat;
    let n := (x.s rn).toNat;
    let e := End.task w rk;
    ∀ st,
    s.taskStream t h = some st →
    ¬(!st.consumerOk c e || n = 0 || min 64 st.depth < n) →
    let st' := { (st.setCon c (st.con c).release) with consEnd := tput st.consEnd c e };
    exec (.srd k rh rc rn rs rx) z = .next (State.settle
      ((s.setStream h st').requestBurst h { consumer := c, n := n, who := e, rs := rs, rx := rx, off := 0 }))) ∧
  -- SREL (R186)
  (∀ (k : Site) (rh : Nat) (rc : Nat) (rs : Nat) (z : State),
    let s := z;
    ∀ w t rk,
    s.issuing k.team = some (w, t, rk) →
    ¬(16 ≤ k.core) →
    let key := ctxKey k.team k.core t.ctx;
    let s := s.modCtx key fun x => { x with pc := k.pc };
    let x := s.ctx key;
    (vOk ([rh, rc] ++ [rs])) →
    ¬(x.tainted ([rh, rc].map pS)) →
    let h := (x.s rh).toNat;
    s.taskStream t h = none →
    exec (.srel k rh rc rs) z = .next (State.settle (s.refuse w rk rs))) ∧
  (∀ (k : Site) (rh : Nat) (rc : Nat) (rs : Nat) (z : State),
    let s := z;
    ∀ w t rk,
    s.issuing k.team = some (w, t, rk) →
    ¬(16 ≤ k.core) →
    let key := ctxKey k.team k.core t.ctx;
    let s := s.modCtx key fun x => { x with pc := k.pc };
    let x := s.ctx key;
    (vOk ([rh, rc] ++ [rs])) →
    ¬(x.tainted ([rh, rc].map pS)) →
    let h := (x.s rh).toNat;
    let c := (x.s rc).toNat;
    ∀ st,
    s.taskStream t h = some st →
    (tget st.consEnd c = some (.task w rk)) →
    exec (.srel k rh rc rs) z = .next (State.settle
      ((s.setStream h (st.setCon c (st.con c).release)).answer w rk rs
         (statusWord 0 false (st.state = .aborted) false false false)))) ∧
  (∀ (k : Site) (rh : Nat) (rc : Nat) (rs : Nat) (z : State),
    let s := z;
    ∀ w t rk,
    s.issuing k.team = some (w, t, rk) →
    ¬(16 ≤ k.core) →
    let key := ctxKey k.team k.core t.ctx;
    let s := s.modCtx key fun x => { x with pc := k.pc };
    let x := s.ctx key;
    (vOk ([rh, rc] ++ [rs])) →
    ¬(x.tainted ([rh, rc].map pS)) →
    let h := (x.s rh).toNat;
    let c := (x.s rc).toNat;
    ∀ st,
    s.taskStream t h = some st →
    ¬(tget st.consEnd c = some (.task w rk)) →
    exec (.srel k rh rc rs) z = .next (State.settle (s.refuse w rk rs))) ∧
  -- SWR (R183)
  (∀ (k : Site) (rh : Nat) (ro : Nat) (rs : Nat) (z : State),
    let s := z;
    ∀ w t rk,
    s.issuing k.team = some (w, t, rk) →
    ¬(16 ≤ k.core) →
    let key := ctxKey k.team k.core t.ctx;
    let s := s.modCtx key fun x => { x with pc := k.pc };
    let x := s.ctx key;
    (vOk ([rh, ro] ++ [rs])) →
    ¬(x.tainted ([rh, ro].map pS)) →
    let h := (x.s rh).toNat;
    let off := (x.s ro).toNat;
    ¬((s.window k.team t).2 < off + 1024) →
    s.taskStream t h = none →
    exec (.swr k rh ro rs) z = .next (State.settle (s.refuse w rk rs))) ∧
  (∀ (k : Site) (rh : Nat) (ro : Nat) (rs : Nat) (z : State),
    let s := z;
    ∀ w t rk,
    s.issuing k.team = some (w, t, rk) →
    ¬(16 ≤ k.core) →
    let key := ctxKey k.team k.core t.ctx;
    let s := s.modCtx key fun x => { x with pc := k.pc };
    let x := s.ctx key;
    (vOk ([rh, ro] ++ [rs])) →
    ¬(x.tainted ([rh, ro].map pS)) →
    let h := (x.s rh).toNat;
    let off := (x.s ro).toNat;
    let e := End.task w rk;
    ¬((s.window k.team t).2 < off + 1024) →
    ∀ st,
    s.taskStream t h = some st →
    let mine : Bool := match st.producer with | some p => p = e | none => true;
    (!mine || st.refuses st.committed) →
    exec (.swr k rh ro rs) z = .next (State.settle (s.refuse w rk rs))) ∧
  (∀ (k : Site) (rh : Nat) (ro : Nat) (rs : Nat) (z : State),
    let s := z;
    ∀ w t rk,
    s.issuing k.team = some (w, t, rk) →
    ¬(16 ≤ k.core) →
    let key := ctxKey k.team k.core t.ctx;
    let s := s.modCtx key fun x => { x with pc := k.pc };
    let x := s.ctx key;
    (vOk ([rh, ro] ++ [rs])) →
    ¬(x.tainted ([rh, ro].map pS)) →
    let h := (x.s rh).toNat;
    let off := (x.s ro).toNat;
    let e := End.task w rk;
    ¬((s.window k.team t).2 < off + 1024) →
    ∀ st,
    s.taskStream t h = some st →
    let mine : Bool := match st.producer with | some p => p = e | none => true;
    ¬(!mine || st.refuses st.committed) →
    let s := s.setStream h { st with producer := some e };
    (st.credit st.committed) →
    exec (.swr k rh ro rs) z = .next (State.settle
      ((s.commitBytes h (s.teamTile k.team t off)).answer w rk rs (statusWord 1 false false false false false)))) ∧
  (∀ (k : Site) (rh : Nat) (ro : Nat) (rs : Nat) (z : State),
    let s := z;
    ∀ w t rk,
    s.issuing k.team = some (w, t, rk) →
    ¬(16 ≤ k.core) →
    let key := ctxKey k.team k.core t.ctx;
    let s := s.modCtx key fun x => { x with pc := k.pc };
    let x := s.ctx key;
    (vOk ([rh, ro] ++ [rs])) →
    ¬(x.tainted ([rh, ro].map pS)) →
    let h := (x.s rh).toNat;
    let off := (x.s ro).toNat;
    let e := End.task w rk;
    ¬((s.window k.team t).2 < off + 1024) →
    ∀ st,
    s.taskStream t h = some st →
    let mine : Bool := match st.producer with | some p => p = e | none => true;
    ¬(!mine || st.refuses st.committed) →
    let s := s.setStream h { st with producer := some e };
    ¬(st.credit st.committed) →
    exec (.swr k rh ro rs) z = .next (State.settle
      (s.modStream h fun q => { q with waiting := q.waiting ++
      [{ consumer := 0xFFFF, n := 1, who := e, rs := rs, rx := 0, off := off }] }))) ∧
  -- SCLOSE (R182)
  (∀ (k : Site) (rh : Nat) (rs : Nat) (z : State),
    let s := z;
    ∀ w t rk,
    s.issuing k.team = some (w, t, rk) →
    ¬(16 ≤ k.core) →
    let key := ctxKey k.team k.core t.ctx;
    let s := s.modCtx key fun x => { x with pc := k.pc };
    let x := s.ctx key;
    (vOk ([rh] ++ [rs])) →
    ¬(x.tainted ([rh].map pS)) →
    let h := (x.s rh).toNat;
    s.taskStream t h = none →
    exec (.sclose k rh rs) z = .next (State.settle (s.refuse w rk rs))) ∧
  (∀ (k : Site) (rh : Nat) (rs : Nat) (z : State),
    let s := z;
    ∀ w t rk,
    s.issuing k.team = some (w, t, rk) →
    ¬(16 ≤ k.core) →
    let key := ctxKey k.team k.core t.ctx;
    let s := s.modCtx key fun x => { x with pc := k.pc };
    let x := s.ctx key;
    (vOk ([rh] ++ [rs])) →
    ¬(x.tainted ([rh].map pS)) →
    let h := (x.s rh).toNat;
    ∀ st,
    s.taskStream t h = some st →
    (st.state = .opened && st.producer = some (.task w rk)) →
    exec (.sclose k rh rs) z = .next (State.settle
      ((s.closeStream h).answer w rk rs (statusWord 0 false false false false false)))) ∧
  (∀ (k : Site) (rh : Nat) (rs : Nat) (z : State),
    let s := z;
    ∀ w t rk,
    s.issuing k.team = some (w, t, rk) →
    ¬(16 ≤ k.core) →
    let key := ctxKey k.team k.core t.ctx;
    let s := s.modCtx key fun x => { x with pc := k.pc };
    let x := s.ctx key;
    (vOk ([rh] ++ [rs])) →
    ¬(x.tainted ([rh].map pS)) →
    let h := (x.s rh).toNat;
    ∀ st,
    s.taskStream t h = some st →
    ¬(st.state = .opened && st.producer = some (.task w rk)) →
    exec (.sclose k rh rs) z = .next (State.settle (s.refuse w rk rs))) ∧
  -- SABORT (R185)
  (∀ (k : Site) (rh : Nat) (rs : Nat) (z : State),
    let s := z;
    ∀ w t rk,
    s.issuing k.team = some (w, t, rk) →
    ¬(16 ≤ k.core) →
    let key := ctxKey k.team k.core t.ctx;
    let s := s.modCtx key fun x => { x with pc := k.pc };
    let x := s.ctx key;
    (vOk ([rh] ++ [rs])) →
    ¬(x.tainted ([rh].map pS)) →
    let h := (x.s rh).toNat;
    s.taskStream t h = none →
    exec (.sabort k rh rs) z = .next (State.settle (s.refuse w rk rs))) ∧
  (∀ (k : Site) (rh : Nat) (rs : Nat) (z : State),
    let s := z;
    ∀ w t rk,
    s.issuing k.team = some (w, t, rk) →
    ¬(16 ≤ k.core) →
    let key := ctxKey k.team k.core t.ctx;
    let s := s.modCtx key fun x => { x with pc := k.pc };
    let x := s.ctx key;
    (vOk ([rh] ++ [rs])) →
    ¬(x.tainted ([rh].map pS)) →
    let h := (x.s rh).toNat;
    ∀ st,
    s.taskStream t h = some st →
    (st.state = .opened) →
    exec (.sabort k rh rs) z = .next (State.settle
      ((s.abortStream h).answer w rk rs (statusWord 0 false true false false false)))) ∧
  (∀ (k : Site) (rh : Nat) (rs : Nat) (z : State),
    let s := z;
    ∀ w t rk,
    s.issuing k.team = some (w, t, rk) →
    ¬(16 ≤ k.core) →
    let key := ctxKey k.team k.core t.ctx;
    let s := s.modCtx key fun x => { x with pc := k.pc };
    let x := s.ctx key;
    (vOk ([rh] ++ [rs])) →
    ¬(x.tainted ([rh].map pS)) →
    let h := (x.s rh).toNat;
    ∀ st,
    s.taskStream t h = some st →
    ¬(st.state = .opened) →
    exec (.sabort k rh rs) z = .next (State.settle (s.refuse w rk rs))) ∧
  -- BARV (R194)
  (∀ (k : Site) (rb : Nat) (rs : Nat) (z : State),
    let s := z;
    ∀ w t rk,
    s.issuing k.team = some (w, t, rk) →
    ¬(16 ≤ k.core) →
    let key := ctxKey k.team k.core t.ctx;
    let s := s.modCtx key fun x => { x with pc := k.pc };
    let x := s.ctx key;
    (vOk ([rb] ++ [rs])) →
    ¬(x.tainted ([rb].map pS)) →
    let b := (x.s rb).toNat;
    s.taskBarrier t b = none →
    exec (.barv k rb rs) z = .next (State.settle (s.refuse w rk rs))) ∧
  (∀ (k : Site) (rb : Nat) (rs : Nat) (z : State),
    let s := z;
    ∀ w t rk,
    s.issuing k.team = some (w, t, rk) →
    ¬(16 ≤ k.core) →
    let key := ctxKey k.team k.core t.ctx;
    let s := s.modCtx key fun x => { x with pc := k.pc };
    let x := s.ctx key;
    (vOk ([rb] ++ [rs])) →
    ¬(x.tainted ([rb].map pS)) →
    let b := (x.s rb).toNat;
    ∀ bar,
    s.taskBarrier t b = some bar →
    let s := s.modCtx key fun c => { c with barved := insNat b c.barved };
    ((List.range 16).all fun c => (s.ctx (ctxKey k.team c t.ctx)).barved.contains b) →
    exec (.barv k rb rs) z = .next (State.settle
      ((s.barvArrive k.team t.ctx b w rk bar).answer w rk rs (statusWord 0 false false false false false)))) ∧
  (∀ (k : Site) (rb : Nat) (rs : Nat) (z : State),
    let s := z;
    ∀ w t rk,
    s.issuing k.team = some (w, t, rk) →
    ¬(16 ≤ k.core) →
    let key := ctxKey k.team k.core t.ctx;
    let s := s.modCtx key fun x => { x with pc := k.pc };
    let x := s.ctx key;
    (vOk ([rb] ++ [rs])) →
    ¬(x.tainted ([rb].map pS)) →
    let b := (x.s rb).toNat;
    ∀ bar,
    s.taskBarrier t b = some bar →
    let s := s.modCtx key fun c => { c with barved := insNat b c.barved };
    ¬((List.range 16).all fun c => (s.ctx (ctxKey k.team c t.ctx)).barved.contains b) →
    exec (.barv k rb rs) z = .next (State.settle (s))) ∧
  -- BWAIT (R188)
  (∀ (k : Site) (rb : Nat) (rs : Nat) (z : State),
    let s := z;
    ∀ w t rk,
    s.issuing k.team = some (w, t, rk) →
    ¬(16 ≤ k.core) →
    let key := ctxKey k.team k.core t.ctx;
    let s := s.modCtx key fun x => { x with pc := k.pc };
    let x := s.ctx key;
    (vOk ([rb] ++ [rs])) →
    ¬(x.tainted ([rb].map pS)) →
    let b := (x.s rb).toNat;
    s.taskBarrier t b = none →
    exec (.bwait k rb rs) z = .next (State.settle (s.refuse w rk rs))) ∧
  (∀ (k : Site) (rb : Nat) (rs : Nat) (z : State),
    let s := z;
    ∀ w t rk,
    s.issuing k.team = some (w, t, rk) →
    ¬(16 ≤ k.core) →
    let key := ctxKey k.team k.core t.ctx;
    let s := s.modCtx key fun x => { x with pc := k.pc };
    let x := s.ctx key;
    (vOk ([rb] ++ [rs])) →
    ¬(x.tainted ([rb].map pS)) →
    let b := (x.s rb).toNat;
    ∀ bar,
    s.taskBarrier t b = some bar →
    let a : BarArr := (bar.arrs.find? fun q => q.task = w && q.rank = rk).getD { task := w, rank := rk, phase := bar.phase };
    (a.phase < bar.phase) →
    exec (.bwait k rb rs) z = .next (State.settle (s.answer w rk rs (statusWord 0 false false false false false)))) ∧
  (∀ (k : Site) (rb : Nat) (rs : Nat) (z : State),
    let s := z;
    ∀ w t rk,
    s.issuing k.team = some (w, t, rk) →
    ¬(16 ≤ k.core) →
    let key := ctxKey k.team k.core t.ctx;
    let s := s.modCtx key fun x => { x with pc := k.pc };
    let x := s.ctx key;
    (vOk ([rb] ++ [rs])) →
    ¬(x.tainted ([rb].map pS)) →
    let b := (x.s rb).toNat;
    ∀ bar,
    s.taskBarrier t b = some bar →
    let a : BarArr := (bar.arrs.find? fun q => q.task = w && q.rank = rk).getD { task := w, rank := rk, phase := bar.phase };
    ¬(a.phase < bar.phase) →
    exec (.bwait k rb rs) z = .next (State.settle
      ({ s with barriers := tmod s.barriers b fun y => { y with waitTasks := y.waitTasks ++ [(a, rs)] } })))

/-- Preemption, save, restore, placement, task end and team exception events have their effects:
TEAM_AT_PREEMPTION_POINT, FORCED_STOP, SAVE_COMPLETE, RESTORE_COMPLETE, TASK_PLACEMENT, PLACEMENT_WAIT_LIMIT,
TASK_END, TEAM_EXCEPTION, TIME_LIMIT, ARRAY_ACK (R154, R155, R157, R158, R161, R162, R165, R166). -/
def Obligations.TaskEvents : Prop :=
  -- TEAM_AT_PREEMPTION_POINT (R158)
  (∀ (team : Nat) (point : Option Nat) (s : State),
    point = none →
    ∀ w t r,
    s.activeOn team = some (w, t, r) →
    (t.preempt.isSome && !t.arrived.contains r && !t.ended.contains r && s.atStreamWait w r) →
    exec (.teamAtPreemptionPoint team point) s = .next (State.settle ((s.withdraw w r).teamStopped w r true none))) ∧
  (∀ (team : Nat) (point : Option Nat) (z : State),
    let s := z;
    ∀ i,
    point = some i →
    ∀ w t r,
    s.issuing team = some (w, t, r) →
    ∀ e,
    ((tget s.kernels t.kernel).bind fun k => k.pps[i]?) = some e →
    let s := (List.range 16).foldl (fun s c => s.modCtx (ctxKey team c t.ctx) fun x =>
      { x with pc := e.pc, lastPp := BitVec.ofNat 16 i }) s;
    ((s.team team).product) →
    exec (.teamAtPreemptionPoint team point) z = .next (State.settle (s.raise w r 0 0x09 0))) ∧
  (∀ (team : Nat) (point : Option Nat) (z : State),
    let s := z;
    ∀ i,
    point = some i →
    ∀ w t r,
    s.issuing team = some (w, t, r) →
    ∀ e,
    ((tget s.kernels t.kernel).bind fun k => k.pps[i]?) = some e →
    let s := (List.range 16).foldl (fun s c => s.modCtx (ctxKey team c t.ctx) fun x =>
      { x with pc := e.pc, lastPp := BitVec.ofNat 16 i }) s;
    ¬((s.team team).product) →
    (t.preempt.isSome) →
    exec (.teamAtPreemptionPoint team point) z = .next (State.settle (s.teamStopped w r false (some i)))) ∧
  (∀ (team : Nat) (point : Option Nat) (z : State),
    let s := z;
    ∀ i,
    point = some i →
    ∀ w t r,
    s.issuing team = some (w, t, r) →
    ∀ e,
    ((tget s.kernels t.kernel).bind fun k => k.pps[i]?) = some e →
    let s := (List.range 16).foldl (fun s c => s.modCtx (ctxKey team c t.ctx) fun x =>
      { x with pc := e.pc, lastPp := BitVec.ofNat 16 i }) s;
    ¬((s.team team).product) →
    ¬(t.preempt.isSome) →
    exec (.teamAtPreemptionPoint team point) z = .next (State.settle (s))) ∧
  -- FORCED_STOP (R158)
  (∀ (team : Nat) (s : State),
    ∀ w t r,
    s.activeOn team = some (w, t, r) →
    ∀ p,
    t.preempt = some p →
    ¬(t.arrived.contains r || t.ended.contains r) →
    exec (.forcedStop team) s = .next (State.settle
      (((s.reach (if p.force then s.t else p.since + t.grace * 1000)).withdraw w r).teamStopped w r true none))) ∧
  -- SAVE_COMPLETE (R161)
  (∀ (w : BitVec 64) (z : State),
    let s := z;
    ∀ t,
    s.task w = some t →
    ¬(t.state != .suspResident || !t.saving) →
    let p1 := match tget s.kernels t.kernel with | some k => s.saveTask t k | none => ([], s);
    let saved := p1.1;
    let s := p1.2.vacate w t;
    let s := s.modTask w fun x => { x with state := .suspSaved, saving := false, saved := saved, preempt := none,
                                           arrived := [], atWait := [] };
    let s := match t.preempt with | some p => s.completeAll p.waiters stOk | none => s;
    ((s.allotment t.paddock).length < t.teamsN) →
    exec (.saveComplete w) z = .next (State.settle (s.finishTask w .failed stTeamsExceed 0#32))) ∧
  (∀ (w : BitVec 64) (z : State),
    let s := z;
    ∀ t,
    s.task w = some t →
    ¬(t.state != .suspResident || !t.saving) →
    let p1 := match tget s.kernels t.kernel with | some k => s.saveTask t k | none => ([], s);
    let saved := p1.1;
    let s := p1.2.vacate w t;
    let s := s.modTask w fun x => { x with state := .suspSaved, saving := false, saved := saved, preempt := none,
                                           arrived := [], atWait := [] };
    let s := match t.preempt with | some p => s.completeAll p.waiters stOk | none => s;
    ¬((s.allotment t.paddock).length < t.teamsN) →
    exec (.saveComplete w) z = .next (State.settle (s.urgentCheck t.paddock))) ∧
  -- RESTORE_COMPLETE (R162)
  (∀ (w : BitVec 64) (s : State),
    ∀ t,
    s.task w = some t →
    ¬(t.state != .suspSaved || !t.restoring) →
    let off := match t.teams[0]? with
      | some l => ((tget (s.team l).ctxs t.ctx).map (·.offset)).getD 0
      | none => 0;
    let s1 := match tget s.kernels t.kernel with
      | some k => t.saved.foldl (fun (s : State) (c : CoreSave) => s.restoreCore t k off c) s
      | none => s;
    exec (.restoreComplete w) s = .next (State.settle (s1.runAgain w t))) ∧
  -- TASK_PLACEMENT (R154)
  (∀ (w : BitVec 64) (s : State),
    ∀ t,
    s.task w = some t →
    ¬(!t.awaits || !s.part.pstate.running || !s.mayPlace w t) →
    (!s.fits w t) →
    (t.urgent) →
    exec (.taskPlacement w) s = .next (State.settle (s.urgentCheck t.paddock))) ∧
  (∀ (w : BitVec 64) (s : State),
    ∀ t,
    s.task w = some t →
    ¬(!t.awaits || !s.part.pstate.running || !s.mayPlace w t) →
    (s.fits w t) →
    ∀ k,
    tget s.kernels t.kernel = some k →
    t.state = .suspResident →
    let off := match t.teams[0]? with
      | some l => ((tget (s.team l).ctxs t.ctx).map (·.offset)).getD 0
      | none => 0;
    let rivals := s.overlapped t.teams off k.window t.ctx;
    (rivals.isEmpty) →
    exec (.taskPlacement w) s = .next (State.settle
      ((t.teams.foldl (fun s l => s.unshelve l t.ctx) s).runAgain w t))) ∧
  (∀ (w : BitVec 64) (s : State),
    ∀ t,
    s.task w = some t →
    ¬(!t.awaits || !s.part.pstate.running || !s.mayPlace w t) →
    (s.fits w t) →
    ∀ k,
    tget s.kernels t.kernel = some k →
    t.state = .suspResident →
    let off := match t.teams[0]? with
      | some l => ((tget (s.team l).ctxs t.ctx).map (·.offset)).getD 0
      | none => 0;
    let rivals := s.overlapped t.teams off k.window t.ctx;
    ¬(rivals.isEmpty) →
    exec (.taskPlacement w) s = .next (State.settle (s.convertOne rivals))) ∧
  (∀ (w : BitVec 64) (s : State),
    ∀ t,
    s.task w = some t →
    ¬(!t.awaits || !s.part.pstate.running || !s.mayPlace w t) →
    (s.fits w t) →
    ∀ k,
    tget s.kernels t.kernel = some k →
    t.state = .suspSaved →
    ∀ ts,
    s.teamsFor t = some ts →
    exec (.taskPlacement w) s = .next (State.settle
      (s.placeOn w t k ts fun s c _ =>
      s.modTask w fun x => { x with restoring := true, teams := ts, ctx := c }))) ∧
  (∀ (w : BitVec 64) (s : State),
    ∀ t,
    s.task w = some t →
    ¬(!t.awaits || !s.part.pstate.running || !s.mayPlace w t) →
    (s.fits w t) →
    ∀ k,
    tget s.kernels t.kernel = some k →
    t.state ≠ .suspResident →
    t.state ≠ .suspSaved →
    ∀ ts,
    s.teamsFor t = some ts →
    exec (.taskPlacement w) s = .next (State.settle (s.placeOn w t k ts fun s c _ => s.startTask w t k ts c))) ∧
  -- PLACEMENT_WAIT_LIMIT (R155)
  (∀ (pad : Nat) (s : State),
    let ws := s.tasks.filter fun e => e.2.paddock = pad && e.2.awaits;
    ∀ e',
    ((sortOn (fun (e : BitVec 64 × Task) => e.2.queuedAt) ws)[0]?) = some e' →
    let e := e';
    exec (.placementWaitLimit pad) s = .next (State.settle (s.reach (e.2.queuedAt + 10 * msNs)))) ∧
  -- TASK_END (R157)
  (∀ (w : BitVec 64) (rank : Nat) (z : State),
    let s := z;
    ∀ t,
    s.task w = some t →
    ∀ l,
    t.teams[rank]? = some l →
    ∀ w' x1 x2,
    s.issuing l = some (w', x1, x2) →
    ¬(w' != w) →
    let s := s.modTask w fun x => { x with ended := insNat rank x.ended };
    ((List.range t.teamsN).all fun r => r = rank || t.ended.contains r) →
    exec (.taskEnd w rank) z = .next (State.settle (s.finishTask w .done stOk 0#32))) ∧
  (∀ (w : BitVec 64) (rank : Nat) (z : State),
    let s := z;
    ∀ t,
    s.task w = some t →
    ∀ l,
    t.teams[rank]? = some l →
    ∀ w' x1 x2,
    s.issuing l = some (w', x1, x2) →
    ¬(w' != w) →
    let s := s.modTask w fun x => { x with ended := insNat rank x.ended };
    ¬((List.range t.teamsN).all fun r => r = rank || t.ended.contains r) →
    ∀ p,
    t.preempt = some p →
    ∀ t',
    s.task w = some t' →
    (t'.allStopped) →
    exec (.taskEnd w rank) z = .next (State.settle (s.suspend w t' p))) ∧
  (∀ (w : BitVec 64) (rank : Nat) (z : State),
    let s := z;
    ∀ t,
    s.task w = some t →
    ∀ l,
    t.teams[rank]? = some l →
    ∀ w' x1 x2,
    s.issuing l = some (w', x1, x2) →
    ¬(w' != w) →
    let s := s.modTask w fun x => { x with ended := insNat rank x.ended };
    ¬((List.range t.teamsN).all fun r => r = rank || t.ended.contains r) →
    ∀ p,
    t.preempt = some p →
    ∀ t',
    s.task w = some t' →
    ¬(t'.allStopped) →
    exec (.taskEnd w rank) z = .next (State.settle (s))) ∧
  -- TEAM_EXCEPTION (R166)
  (∀ (k : Site) (cause : Nat) (addr : Nat) (more : List (Nat × Nat × Nat × Nat)) (dirty : List (BitVec 64)) (s : State),
    ¬(320 ≤ k.team || 16 ≤ k.core || !causeOk cause) →
    s.exposed k.team = none →
    (hwCause cause) →
    exec (.teamException k cause addr more dirty) s = .next (State.settle (s.failTeam k.team dirty))) ∧
  (∀ (k : Site) (cause : Nat) (addr : Nat) (more : List (Nat × Nat × Nat × Nat)) (dirty : List (BitVec 64)) (s : State),
    ¬(320 ≤ k.team || 16 ≤ k.core || !causeOk cause) →
    ∀ w t r,
    s.exposed k.team = some (w, t, r) →
    let ok := more.filter fun m => m.1 < t.teams.length && m.2.1 < 16 && causeOk m.2.2.1;
    exec (.teamException k cause addr more dirty) s = .next (State.settle
      ((s.modCtx (ctxKey k.team k.core t.ctx) fun x => { x with pc := k.pc }).raise w r k.core cause addr ok dirty))) ∧
  -- TIME_LIMIT (R165)
  (∀ (w : BitVec 64) (rank : Nat) (core : Nat) (s : State),
    ∀ t,
    s.task w = some t →
    ¬(t.state != .running || t.timeLimit = 0 || 16 ≤ core) →
    exec (.timeLimit w rank core) s = .next (State.settle
      ((s.reach (t.runSince + t.timeLimit * msNs - t.ranNs)).raise w rank core 0x08 0))) ∧
  -- ARRAY_ACK (R165)
  (∀ (k : Site) (dirty : List (BitVec 64)) (s : State),
    ((s.activeOn k.team).isSome && (s.team k.team).product) →
    let cause : Nat := 0x12;
    ¬(320 ≤ k.team || 16 ≤ k.core || !causeOk cause) →
    s.exposed k.team = none →
    (hwCause cause) →
    exec (.arrayAck k dirty) s = .next (State.settle (s.failTeam k.team dirty))) ∧
  (∀ (k : Site) (dirty : List (BitVec 64)) (s : State),
    ((s.activeOn k.team).isSome && (s.team k.team).product) →
    let cause : Nat := 0x12;
    let addr : Nat := 0;
    let more : List (Nat × Nat × Nat × Nat) := [];
    ¬(320 ≤ k.team || 16 ≤ k.core || !causeOk cause) →
    ∀ w t r,
    s.exposed k.team = some (w, t, r) →
    let ok := more.filter fun m => m.1 < t.teams.length && m.2.1 < 16 && causeOk m.2.2.1;
    exec (.arrayAck k dirty) s = .next (State.settle
      ((s.modCtx (ctxKey k.team k.core t.ctx) fun x => { x with pc := k.pc }).raise w r k.core cause addr ok dirty)))

/-- Kernel and task commands complete with their effects: KERNEL_LOAD, KERNEL_LOAD_EXPERT, KERNEL_UNLOAD,
KERNEL_UNLOAD_EXPERT, TASK_LAUNCH, TASK_LAUNCH_EXPERT, TASK_ABORT, TASK_ABORT_EXPERT, TASK_PREEMPT,
TASK_PREEMPT_EXPERT, TASK_RESUME, TASK_RESUME_EXPERT, TASK_QUERY, TASK_QUERY_EXPERT, TEAM_QUERY, TEAM_QUERY_EXPERT
(R152, R154, R157, R158, R164, R169, R170, R171). -/
def Obligations.TaskCommands : Prop :=
  -- KERNEL_LOAD (R152)
  (∀ (z : State) (wid : BitVec 64) (hm : HostImage) (c : Cmd), z.ready 0x0201 wid hm = some c →
    let s := z.markDispatched wid;
    let qs : List Nat := (List.range 4).filter fun q => (s.allotment c.pad).any fun l => s.physOf l / 84 = q;
    (!c.mgmt) →
    let n := c.u32 8;
    ∀ img x1,
    s.readBuf c (c.u64 0) (min n 1310721) = .ok (img, x1) →
    imageCheck img n = none →
    ((s.kernels.filter fun e => e.2.paddock = c.pad).length < 256 && s.kernels.length < 1024) →
    ∀ code s1,
    s.placeCode c.pad (slice img (fld img 12 4) (fld img 16 4)) qs = .ok (code, s1) →
    let p2 := s1.pick (fun k => thas s1.kernels k) 1 (2 ^ 32 - 1);
    let h := p2.1;
    let s2 := p2.2;
    let hd := h.getD 1;
    exec (.kernelLoad wid hm) z = .next (State.settle
      ({ s2 with kernels := tput s2.kernels hd (kernelOf img c.pad qs code) }.ok c hd))) ∧
  -- KERNEL_LOAD_EXPERT (R152)
  (∀ (z : State) (wid : BitVec 64) (hm : HostImage) (c : Cmd), z.ready 0x0281 wid hm = some c →
    let s := z.markDispatched wid;
    (c.u32 12 % 16 ≠ 0) →
    let qs : List Nat := (List.range 4).filter fun q => bitAt (c.u32 12) q;
    (!c.mgmt) →
    let n := c.u32 8;
    ∀ img x1,
    s.readBuf c (c.u64 0) (min n 1310721) = .ok (img, x1) →
    imageCheck img n = none →
    ((s.kernels.filter fun e => e.2.paddock = c.pad).length < 256 && s.kernels.length < 1024) →
    ∀ code s1,
    s.placeCode c.pad (slice img (fld img 12 4) (fld img 16 4)) qs = .ok (code, s1) →
    let p2 := s1.pick (fun k => thas s1.kernels k) 1 (2 ^ 32 - 1);
    let h := p2.1;
    let s2 := p2.2;
    let hd := h.getD 1;
    exec (.kernelLoadExpert wid hm) z = .next (State.settle
      ({ s2 with kernels := tput s2.kernels hd (kernelOf img c.pad qs code) }.ok c hd))) ∧
  -- KERNEL_UNLOAD (R170)
  (∀ (z : State) (wid : BitVec 64) (c : Cmd), z.ready 0x0202 wid [] = some c →
    let s := z.markDispatched wid;
    ∀ k,
    s.kernelOf c (c.u32 0) = .ok k →
    (!s.kernelUsed (c.u32 0)) →
    exec (.kernelUnload wid) z = .next (State.settle ((s.dropKernel (c.u32 0) k).ok c))) ∧
  -- KERNEL_UNLOAD_EXPERT (R170)
  (∀ (z : State) (wid : BitVec 64) (c : Cmd), z.ready 0x0282 wid [] = some c →
    let s := z.markDispatched wid;
    ∀ k,
    s.kernelOf c (c.u32 0) = .ok k →
    (c.flag 4 || !s.kernelUsed (c.u32 0)) →
    (s.kernelUsed (c.u32 0)) →
    exec (.kernelUnloadExpert wid) z = .next (State.settle
      ({ s with kernels := tput s.kernels (c.u32 0) { k with unloading := true } }.wait c.w (.unload (c.u32 0))))) ∧
  (∀ (z : State) (wid : BitVec 64) (c : Cmd), z.ready 0x0282 wid [] = some c →
    let s := z.markDispatched wid;
    ∀ k,
    s.kernelOf c (c.u32 0) = .ok k →
    (c.flag 4 || !s.kernelUsed (c.u32 0)) →
    ¬(s.kernelUsed (c.u32 0)) →
    exec (.kernelUnloadExpert wid) z = .next (State.settle ((s.dropKernel (c.u32 0) k).ok c))) ∧
  -- TASK_LAUNCH (R171)
  (∀ (z : State) (wid : BitVec 64) (hm : HostImage) (c : Cmd), z.ready 0x0203 wid hm = some c →
    let s := z.markDispatched wid;
    let q : LaunchReq := { kernel := c.u32 0, teams := c.u16 4, args := c.u64 8, mask := [], ctx := 0xFF, cls := 0,
                                            grace := 2000, limit := 0, saveTier := 0, excBuf := 0 };
    (!c.mgmt) →
    ∀ k,
    s.kernelOf c q.kernel = .ok k →
    (!k.unloading) →
    let teams := s.allotment c.pad;
    (k.teamsMin ≤ q.teams && q.teams ≤ k.teamsMax && q.teams ≤ teams.length) →
    (100 ≤ q.grace && q.grace ≤ 100000 && q.cls ≤ 1 && q.saveTier ≤ 1 && (q.ctx ≤ 3 || q.ctx = 0xFF)) →
    (q.mask.isEmpty || (q.mask.length = q.teams && q.mask.all fun l => teams.contains l)) →
    ∀ args x1,
    (if k.argsLength = 0 then .ok ([], false) else s.readBuf c q.args k.argsLength : Except Err _) = .ok (args, x1) →
    ∀ x2,
    (if q.excBuf = 0 then .ok (.host 0) else s.resolve c q.excBuf 32 true : Except Err _) = .ok x2 →
    ∀ buf s1,
    (if args.isEmpty then .ok (0, s)
      else match s.allocate { owner := c.pad, tier := .basin, near := true, die := s.homeDie c.pad, len := args.length,
                              persist := false, moored := false, sys := true } with
        | .ok (a, s') => .ok (a, s'.store a args)
        | .error _ => fail stQuota : Except Err _) = .ok (buf, s1) →
    ∀ area tier s2,
    s1.saveArea c.pad (q.teams * 16 * (9216 + k.window * 4096)) (q.saveTier = 1) = .ok (area, tier, s2) →
    let t := newTask c.pad q buf area tier s.t s.nextOrder;
    exec (.taskLaunch wid hm) z = .next (State.settle ({ s2 with tasks := s2.tasks ++ [(c.w, t)] }.urgentCheck c.pad))) ∧
  -- TASK_LAUNCH_EXPERT (R154)
  (∀ (z : State) (wid : BitVec 64) (hm : HostImage) (c : Cmd), z.ready 0x0283 wid hm = some c →
    let s := z.markDispatched wid;
    let q : LaunchReq := { kernel := c.u32 0, teams := c.u16 4, args := c.u64 8, mask := maskBits (slice c.p 16 40),
                                            ctx := c.u8 56, cls := c.u8 57, grace := c.u32 60, limit := c.u32 64, saveTier := c.u32 68,
                                            excBuf := c.u64 72 };
    (!c.mgmt) →
    ∀ k,
    s.kernelOf c q.kernel = .ok k →
    (!k.unloading) →
    let teams := s.allotment c.pad;
    (k.teamsMin ≤ q.teams && q.teams ≤ k.teamsMax && q.teams ≤ teams.length) →
    (100 ≤ q.grace && q.grace ≤ 100000 && q.cls ≤ 1 && q.saveTier ≤ 1 && (q.ctx ≤ 3 || q.ctx = 0xFF)) →
    (q.mask.isEmpty || (q.mask.length = q.teams && q.mask.all fun l => teams.contains l)) →
    ∀ args x1,
    (if k.argsLength = 0 then .ok ([], false) else s.readBuf c q.args k.argsLength : Except Err _) = .ok (args, x1) →
    ∀ x2,
    (if q.excBuf = 0 then .ok (.host 0) else s.resolve c q.excBuf 32 true : Except Err _) = .ok x2 →
    ∀ buf s1,
    (if args.isEmpty then .ok (0, s)
      else match s.allocate { owner := c.pad, tier := .basin, near := true, die := s.homeDie c.pad, len := args.length,
                              persist := false, moored := false, sys := true } with
        | .ok (a, s') => .ok (a, s'.store a args)
        | .error _ => fail stQuota : Except Err _) = .ok (buf, s1) →
    ∀ area tier s2,
    s1.saveArea c.pad (q.teams * 16 * (9216 + k.window * 4096)) (q.saveTier = 1) = .ok (area, tier, s2) →
    let t := newTask c.pad q buf area tier s.t s.nextOrder;
    exec (.taskLaunchExpert wid hm) z = .next (State.settle ({ s2 with tasks := s2.tasks ++ [(c.w, t)] }.urgentCheck c.pad))) ∧
  -- TASK_ABORT (R169)
  (∀ (z : State) (wid : BitVec 64) (c : Cmd), z.ready 0x0204 wid [] = some c →
    let s := z.markDispatched wid;
    let w := BitVec.ofNat 64 (c.u64 0);
    ∀ t,
    s.task w = some t →
    (s.ofSession c w) →
    ¬(t.state.final) →
    exec (.taskAbort wid) z = .next (State.settle ((s.finishTask w .aborted stTaskAborted 0#32).ok c))) ∧
  (∀ (z : State) (wid : BitVec 64) (c : Cmd), z.ready 0x0204 wid [] = some c →
    let s := z.markDispatched wid;
    let w := BitVec.ofNat 64 (c.u64 0);
    s.task w = none →
    ∀ j',
    (s.journal.find? fun j => j.wid = w && (j.opcode = 0x0203#16 || j.opcode = 0x0283#16)) = some j' →
    let j := j';
    (s.ofSession c w) →
    (j.state = .accepted) →
    exec (.taskAbort wid) z = .next (State.settle ((s.complete w stCancelled).ok c))) ∧
  -- TASK_ABORT_EXPERT (R169)
  (∀ (z : State) (wid : BitVec 64) (c : Cmd), z.ready 0x0284 wid [] = some c →
    let s := z.markDispatched wid;
    let s := s.logEv evCommandReason (padByte c.fn) 0#16 0xFFFF (BitVec.ofNat 64 (c.u64 0)) (leBytes 4 (c.u32 8));
    let w := BitVec.ofNat 64 (c.u64 0);
    ∀ t,
    s.task w = some t →
    (s.ofSession c w) →
    ¬(t.state.final) →
    exec (.taskAbortExpert wid) z = .next (State.settle ((s.finishTask w .aborted stTaskAborted 0#32).ok c))) ∧
  (∀ (z : State) (wid : BitVec 64) (c : Cmd), z.ready 0x0284 wid [] = some c →
    let s := z.markDispatched wid;
    let s := s.logEv evCommandReason (padByte c.fn) 0#16 0xFFFF (BitVec.ofNat 64 (c.u64 0)) (leBytes 4 (c.u32 8));
    let w := BitVec.ofNat 64 (c.u64 0);
    s.task w = none →
    ∀ j',
    (s.journal.find? fun j => j.wid = w && (j.opcode = 0x0203#16 || j.opcode = 0x0283#16)) = some j' →
    let j := j';
    (s.ofSession c w) →
    (j.state = .accepted) →
    exec (.taskAbortExpert wid) z = .next (State.settle ((s.complete w stCancelled).ok c))) ∧
  -- TASK_PREEMPT (R157)
  (∀ (z : State) (wid : BitVec 64) (c : Cmd), z.ready 0x0205 wid [] = some c →
    let s := z.markDispatched wid;
    let force : Bool := false;
    let save : Bool := false;
    let w := BitVec.ofNat 64 (c.u64 0);
    ∀ t,
    s.taskOf c w = .ok t →
    (!t.state.final) →
    (t.state = .running) →
    exec (.taskPreempt wid) z = .next (State.settle
      ((s.requestPreempt w force save (some c.w)).modTask w fun x => { x with held := true, victim := false }))) ∧
  -- TASK_PREEMPT_EXPERT (R158)
  (∀ (z : State) (wid : BitVec 64) (c : Cmd), z.ready 0x0285 wid [] = some c →
    let s := z.markDispatched wid;
    let force : Bool := c.flag 8;
    let save : Bool := bitAt (c.u8 8) 1;
    let w := BitVec.ofNat 64 (c.u64 0);
    ∀ t,
    s.taskOf c w = .ok t →
    (!t.state.final) →
    (t.state = .running) →
    exec (.taskPreemptExpert wid) z = .next (State.settle
      ((s.requestPreempt w force save (some c.w)).modTask w fun x => { x with held := true, victim := false }))) ∧
  -- TASK_RESUME (R164)
  (∀ (z : State) (wid : BitVec 64) (c : Cmd), z.ready 0x0206 wid [] = some c →
    let s := z.markDispatched wid;
    let mask : Option (List Nat) := none;
    let w := BitVec.ofNat 64 (c.u64 0);
    ∀ t,
    s.taskOf c w = .ok t →
    ((t.state = .suspResident || t.state = .suspSaved) && t.resumeBy.isNone) →
    let ok : Bool := match mask with
             | none => true
             | some m => if t.state = .suspResident && !t.saving then m = t.teams
                 else m.length = t.teamsN && m.all fun l => (s.allotment c.pad).contains l;
    (ok) →
    exec (.taskResume wid) z = .next (State.settle
      (s.modTask w fun x => { x with resumeBy := some c.w, resumeMask := mask, queuedAt := s.t,
                                     order := s.tasks.foldl (fun m e => max m e.2.order) 0 + 1 }))) ∧
  -- TASK_RESUME_EXPERT (R164)
  (∀ (z : State) (wid : BitVec 64) (c : Cmd), z.ready 0x0286 wid [] = some c →
    let s := z.markDispatched wid;
    let mask : Option (List Nat) := some (maskBits (slice c.p 8 40));
    let w := BitVec.ofNat 64 (c.u64 0);
    ∀ t,
    s.taskOf c w = .ok t →
    ((t.state = .suspResident || t.state = .suspSaved) && t.resumeBy.isNone) →
    let ok : Bool := match mask with
             | none => true
             | some m => if t.state = .suspResident && !t.saving then m = t.teams
                 else m.length = t.teamsN && m.all fun l => (s.allotment c.pad).contains l;
    (ok) →
    exec (.taskResumeExpert wid) z = .next (State.settle
      (s.modTask w fun x => { x with resumeBy := some c.w, resumeMask := mask, queuedAt := s.t,
                                     order := s.tasks.foldl (fun m e => max m e.2.order) 0 + 1 }))) ∧
  -- TASK_QUERY (R170)
  (∀ (z : State) (wid : BitVec 64) (c : Cmd), z.ready 0x0207 wid [] = some c →
    let s := z.markDispatched wid;
    let w := BitVec.ofNat 64 (c.u64 0);
    ∀ t,
    s.taskOf c w = .ok t →
    let excs := (((tget s.paddocks c.pad).map (·.excs)).getD []).filter fun e => e.wid = w;
    ∀ s1,
    s.writeBuf c (c.u64 8) (s.taskRecord w t ++ excs.flatMap ExcRec.encode) = .ok s1 →
    exec (.taskQuery wid) z = .next (State.settle (s1.ok c))) ∧
  -- TASK_QUERY_EXPERT (R170)
  (∀ (z : State) (wid : BitVec 64) (c : Cmd), z.ready 0x0287 wid [] = some c →
    let s := z.markDispatched wid;
    (!c.mgmt) →
    let ts := (s.tasks.filter fun e => e.2.paddock = c.pad && !e.2.state.final).take (c.u32 8);
    ∀ s1,
    s.writeBuf c (c.u64 0) (ts.flatMap fun e => s.taskRecord e.1 e.2) = .ok s1 →
    exec (.taskQueryExpert wid) z = .next (State.settle (s1.ok c ts.length))) ∧
  -- TEAM_QUERY (R170)
  (∀ (z : State) (wid : BitVec 64) (c : Cmd), z.ready 0x0208 wid [] = some c →
    let s := z.markDispatched wid;
    (!c.mgmt) →
    ∀ s1,
    s.writeBuf c (c.u64 0) ((s.allotment c.pad).flatMap s.teamRecord) = .ok s1 →
    exec (.teamQuery wid) z = .next (State.settle (s1.ok c))) ∧
  -- TEAM_QUERY_EXPERT (R170)
  (∀ (z : State) (wid : BitVec 64) (c : Cmd), z.ready 0x0288 wid [] = some c →
    let s := z.markDispatched wid;
    (!c.mgmt) →
    let m := maskBits (slice c.p 8 40);
    (m.all fun l => (s.allotment c.pad).contains l) →
    ∀ s1,
    s.writeBuf c (c.u64 0) (m.flatMap s.teamRecord) = .ok s1 →
    exec (.teamQueryExpert wid) z = .next (State.settle (s1.ok c)))

/-- The random number fill, check and lane state commands complete with their effects: RNG_FILL, RNG_FILL_EXPERT,
RNG_CHECK, RNG_CHECK_EXPERT, RNG_LANE_STATE, RNG_LANE_STATE_EXPERT (R143, R144, R145). -/
def Obligations.RandomNumberCommands : Prop :=
  -- RNG_FILL (R143)
  (∀ (z : State) (wid : BitVec 64) (c : Cmd), z.ready 0x0B01 wid [] = some c →
    let s := z.markDispatched wid;
    let subject : Nat := 0;
    let tab : Nat → F32 := normTable;
    let p1 := (c.u32 20, c.u64 24, c.u32 32, c.u32 36);
    let dom := p1.1;
    let start := p1.2.1;
    let count := p1.2.2.1;
    let form := p1.2.2.2;
    (form ≤ 3 && start + (count + 3) / 4 ≤ 2 ^ 64 && dom ≤ 15 && subject < 2 ^ 28) →
    ∀ s1,
    (s.writeBuf c (c.u64 0)
      ((fillWords (BitVec.ofNat 64 (c.u64 8)) (c.u32 16) subject dom start count form tab).flatMap
        fun w => leBytes 4 w.toNat) : Except Err _) = .ok s1 →
    exec (.rngFill wid) z = .next (State.settle (s1.ok c count))) ∧
  -- RNG_FILL_EXPERT (R143)
  (∀ (z : State) (wid : BitVec 64) (hm : HostImage) (c : Cmd), z.ready 0x0B81 wid hm = some c →
    let s := z.markDispatched wid;
    let a := c.u64 44;
    ∀ tab x1,
    (if a = 0 then .ok ([], false) else s.readBuf c a (4 * 4097) : Except Err _) = .ok (tab, x1) →
    let subject : Nat := c.u32 40;
    let tab : Nat → F32 := if a = 0 then normTable else fun i => BitVec.ofNat 32 (fld tab (4 * i) 4);
    let p2 := (c.u32 20, c.u64 24, c.u32 32, c.u32 36);
    let dom := p2.1;
    let start := p2.2.1;
    let count := p2.2.2.1;
    let form := p2.2.2.2;
    (form ≤ 3 && start + (count + 3) / 4 ≤ 2 ^ 64 && dom ≤ 15 && subject < 2 ^ 28) →
    ∀ s1,
    (s.writeBuf c (c.u64 0)
      ((fillWords (BitVec.ofNat 64 (c.u64 8)) (c.u32 16) subject dom start count form tab).flatMap
        fun w => leBytes 4 w.toNat) : Except Err _) = .ok s1 →
    exec (.rngFillExpert wid hm) z = .next (State.settle (s1.ok c count))) ∧
  -- RNG_CHECK (R144)
  (∀ (z : State) (wid : BitVec 64) (bad : Option Nat) (c : Cmd), z.ready 0x0B02 wid [] = some c →
    let s := z.markDispatched wid;
    let ts : List Nat := s.enabledTeams c.pad;
    let busy := fun (l : Nat) => (s.running l).isSome;
    let before := match bad with
      | some b => if b = 0xFFFF then [] else ts.filter fun l => l < b
      | none => ts;
    let res := (before.filter fun l => !busy l).length + (before.filter busy).length * 2 ^ 16;
    bad = none →
    exec (.rngCheck wid bad) z = .next (State.settle (s.ok c res))) ∧
  (∀ (z : State) (wid : BitVec 64) (bad : Option Nat) (c : Cmd), z.ready 0x0B02 wid [] = some c →
    let s := z.markDispatched wid;
    ∀ b,
    bad = some b →
    (b = 0xFFFF) →
    exec (.rngCheck wid bad) z = .next (State.settle
      ((s.logEv evRngFault (padByte c.fn) stRngFault 0xFFFF c.w).complete c.w stRngFault 0#64 0xFFFF#32))) ∧
  (∀ (z : State) (wid : BitVec 64) (bad : Option Nat) (c : Cmd), z.ready 0x0B02 wid [] = some c →
    let s := z.markDispatched wid;
    let ts : List Nat := s.enabledTeams c.pad;
    let busy := fun (l : Nat) => (s.running l).isSome;
    let before := match bad with
      | some b => if b = 0xFFFF then [] else ts.filter fun l => l < b
      | none => ts;
    let res := (before.filter fun l => !busy l).length + (before.filter busy).length * 2 ^ 16;
    ∀ b,
    bad = some b →
    ¬(b = 0xFFFF) →
    (ts.contains b && !busy b && (s.team b).inService && !(s.team b).replacing) →
    let s := (s.logEv evRngFault (padByte c.fn) stRngFault b c.w).complete c.w stRngFault (BitVec.ofNat 64 res)
      (BitVec.ofNat 32 b);
    exec (.rngCheck wid bad) z = .next (State.settle (s.failTeam b []))) ∧
  (∀ (z : State) (wid : BitVec 64) (bad : Option Nat) (c : Cmd), z.ready 0x0B02 wid [] = some c →
    let s := z.markDispatched wid;
    let ts : List Nat := s.enabledTeams c.pad;
    let busy := fun (l : Nat) => (s.running l).isSome;
    ∀ b,
    bad = some b →
    ¬(b = 0xFFFF) →
    ¬(ts.contains b && !busy b && (s.team b).inService && !(s.team b).replacing) →
    exec (.rngCheck wid bad) z = .next (State.settle
      (s.ok c ((ts.filter fun l => !busy l).length + (ts.filter busy).length * 2 ^ 16)))) ∧
  -- RNG_CHECK_EXPERT (R144)
  (∀ (z : State) (wid : BitVec 64) (bad : Option Nat) (c : Cmd), z.ready 0x0B82 wid [] = some c →
    let s := z.markDispatched wid;
    let m := maskBits (slice c.p 0 40);
    (m.all fun l => (s.allotment c.pad).contains l) →
    let ts : List Nat := (s.enabledTeams c.pad).filter fun l => m.contains l;
    let busy := fun (l : Nat) => (s.running l).isSome;
    let before := match bad with
      | some b => if b = 0xFFFF then [] else ts.filter fun l => l < b
      | none => ts;
    let res := (before.filter fun l => !busy l).length + (before.filter busy).length * 2 ^ 16;
    bad = none →
    exec (.rngCheckExpert wid bad) z = .next (State.settle (s.ok c res))) ∧
  (∀ (z : State) (wid : BitVec 64) (bad : Option Nat) (c : Cmd), z.ready 0x0B82 wid [] = some c →
    let s := z.markDispatched wid;
    let m := maskBits (slice c.p 0 40);
    (m.all fun l => (s.allotment c.pad).contains l) →
    ∀ b,
    bad = some b →
    (b = 0xFFFF) →
    exec (.rngCheckExpert wid bad) z = .next (State.settle
      ((s.logEv evRngFault (padByte c.fn) stRngFault 0xFFFF c.w).complete c.w stRngFault 0#64 0xFFFF#32))) ∧
  (∀ (z : State) (wid : BitVec 64) (bad : Option Nat) (c : Cmd), z.ready 0x0B82 wid [] = some c →
    let s := z.markDispatched wid;
    let m := maskBits (slice c.p 0 40);
    (m.all fun l => (s.allotment c.pad).contains l) →
    let ts : List Nat := (s.enabledTeams c.pad).filter fun l => m.contains l;
    let busy := fun (l : Nat) => (s.running l).isSome;
    let before := match bad with
      | some b => if b = 0xFFFF then [] else ts.filter fun l => l < b
      | none => ts;
    let res := (before.filter fun l => !busy l).length + (before.filter busy).length * 2 ^ 16;
    ∀ b,
    bad = some b →
    ¬(b = 0xFFFF) →
    (ts.contains b && !busy b && (s.team b).inService && !(s.team b).replacing) →
    let s := (s.logEv evRngFault (padByte c.fn) stRngFault b c.w).complete c.w stRngFault (BitVec.ofNat 64 res)
      (BitVec.ofNat 32 b);
    exec (.rngCheckExpert wid bad) z = .next (State.settle (s.failTeam b []))) ∧
  (∀ (z : State) (wid : BitVec 64) (bad : Option Nat) (c : Cmd), z.ready 0x0B82 wid [] = some c →
    let s := z.markDispatched wid;
    let m := maskBits (slice c.p 0 40);
    (m.all fun l => (s.allotment c.pad).contains l) →
    let ts : List Nat := (s.enabledTeams c.pad).filter fun l => m.contains l;
    let busy := fun (l : Nat) => (s.running l).isSome;
    ∀ b,
    bad = some b →
    ¬(b = 0xFFFF) →
    ¬(ts.contains b && !busy b && (s.team b).inService && !(s.team b).replacing) →
    exec (.rngCheckExpert wid bad) z = .next (State.settle
      (s.ok c ((ts.filter fun l => !busy l).length + (ts.filter busy).length * 2 ^ 16)))) ∧
  -- RNG_LANE_STATE (R145)
  (∀ (z : State) (wid : BitVec 64) (c : Cmd), z.ready 0x0B03 wid [] = some c →
    let s := z.markDispatched wid;
    (s.laneCheck c = .ok ()) →
    ∀ s1,
    (s.writeBuf c (c.u64 4)
      ((List.range 32).flatMap fun j => leBytes 16 (s.laneState (c.u16 0) (c.u8 2) (c.u8 3) j).toNat) : Except Err _) = .ok s1 →
    exec (.rngLaneState wid) z = .next (State.settle (s1.ok c))) ∧
  -- RNG_LANE_STATE_EXPERT (R145)
  (∀ (z : State) (wid : BitVec 64) (hm : HostImage) (c : Cmd), z.ready 0x0B83 wid hm = some c →
    let s := z.markDispatched wid;
    (c.flag 12) →
    (s.laneCheck c = .ok ()) →
    ∀ bs x1,
    s.readBuf c (c.u64 4) 512 = .ok (bs, x1) →
    exec (.rngLaneStateExpert wid hm) z = .next (State.settle
      ((s.modCtx (ctxKey (c.u16 0) (c.u8 2) (c.u8 3)) fun x =>
      { x with gen := (List.range 32).map fun j => (j, natFix (BitVec.ofNat 128 (fld bs (16 * j) 16))) }).ok c))) ∧
  (∀ (z : State) (wid : BitVec 64) (hm : HostImage) (c : Cmd), z.ready 0x0B83 wid hm = some c →
    let s := z.markDispatched wid;
    ¬(c.flag 12) →
    (s.laneCheck c = .ok ()) →
    ∀ s1,
    (s.writeBuf c (c.u64 4)
      ((List.range 32).flatMap fun j => leBytes 16 (s.laneState (c.u16 0) (c.u8 2) (c.u8 3) j).toNat) : Except Err _) = .ok s1 →
    exec (.rngLaneStateExpert wid hm) z = .next (State.settle (s1.ok c)))

/-- Tile commits, deliveries, tag grants, tier responses and engine resets have their effects: TILE_COMMIT,
BURST_DELIVERY, POISON_TILE_COMMIT, BIND_TRANSFER_END, BASIN_SCRUB, TRANSACTION_TAG_GRANT, TIER_READ_RESPONSE,
TIER_WRITE_ACK, TIER_REQUEST_TIMEOUT, ENGINE_FAULT_RESET (R178, R180, R184, R185, R198, R199, R200, R202, R207). -/
def Obligations.StreamTrafficEvents : Prop :=
  -- TILE_COMMIT (R178)
  (∀ (h : Nat) (t : Nat) (z : State),
    let s := z;
    ∀ st,
    tget s.streams h = some st →
    (st.credit t) →
    ∀ b',
    (st.waiting.find? fun b => b.consumer = 0xFFFF) = some b' →
    let b := b';
    ∀ w rank,
    b.who = .task w rank →
    ∀ k,
    s.task w = some k →
    ∀ l,
    k.teams[rank]? = some l →
    ¬(t != st.committed || s.holds l) →
    let s := s.modStream h fun q => { q with waiting := q.waiting.filter fun x => x.consumer != 0xFFFF };
    (st.refuses t) →
    exec (.tileCommit h t) z = .next (State.settle (s.refuse w rank b.rs))) ∧
  (∀ (h : Nat) (t : Nat) (z : State),
    let s := z;
    ∀ st,
    tget s.streams h = some st →
    (st.credit t) →
    ∀ b',
    (st.waiting.find? fun b => b.consumer = 0xFFFF) = some b' →
    let b := b';
    ∀ w rank,
    b.who = .task w rank →
    ∀ k,
    s.task w = some k →
    ∀ l,
    k.teams[rank]? = some l →
    ¬(t != st.committed || s.holds l) →
    let s := s.modStream h fun q => { q with waiting := q.waiting.filter fun x => x.consumer != 0xFFFF };
    ¬(st.refuses t) →
    exec (.tileCommit h t) z = .next (State.settle
      ((s.commitBytes h (s.teamTile l k b.off)).answer w rank b.rs
      (statusWord 1 false false false false false)))) ∧
  (∀ (h : Nat) (t : Nat) (s : State),
    ∀ st,
    tget s.streams h = some st →
    (st.credit t) →
    (st.waiting.find? fun b => b.consumer = 0xFFFF) = none →
    ∀ w,
    st.producer = some (.engine w) →
    ∀ b,
    s.bindOf w = some b →
    exec (.tileCommit h t) s = .next (State.settle (s.commitBound h t st b))) ∧
  -- BURST_DELIVERY (R184)
  (∀ (h : Nat) (c : Nat) (s : State),
    ∀ st,
    tget s.streams h = some st →
    ∀ b',
    (st.waiting.find? fun b => b.consumer = c && b.consumer != 0xFFFF) = some b' →
    let b := b';
    ¬(s.endHolds b.who) →
    ∀ s' r,
    s.deliver h c b.n = (s', some r) →
    let s' := s'.modStream h fun q => { q with waiting := q.waiting.filter fun x => x.consumer != c };
    let s' := s'.giveBurst h b r;
    ∀ w,
    b.who = .engine w →
    let bad := s'.poisonTiles st r.2.1 r.1;
    let s' := s'.modBind w fun x => { x with poisoned := x.poisoned + bad };
    s'.bindOf w = none →
    exec (.burstDelivery h c) s = .next (State.settle (s'))) ∧
  (∀ (h : Nat) (c : Nat) (s : State),
    ∀ st,
    tget s.streams h = some st →
    ∀ b',
    (st.waiting.find? fun b => b.consumer = c && b.consumer != 0xFFFF) = some b' →
    let b := b';
    ¬(s.endHolds b.who) →
    ∀ s' r,
    s.deliver h c b.n = (s', some r) →
    let s' := s'.modStream h fun q => { q with waiting := q.waiting.filter fun x => x.consumer != c };
    let s' := s'.giveBurst h b r;
    ∀ w,
    b.who = .engine w →
    let bad := s'.poisonTiles st r.2.1 r.1;
    let s' := s'.modBind w fun x => { x with poisoned := x.poisoned + bad };
    ∀ x,
    s'.bindOf w = some x →
    (x.host) →
    exec (.burstDelivery h c) s = .next (State.settle (s'.hostBurst x r.2.1))) ∧
  (∀ (h : Nat) (c : Nat) (s : State),
    ∀ st,
    tget s.streams h = some st →
    ∀ b',
    (st.waiting.find? fun b => b.consumer = c && b.consumer != 0xFFFF) = some b' →
    let b := b';
    ¬(s.endHolds b.who) →
    ∀ s' r,
    s.deliver h c b.n = (s', some r) →
    let s' := s'.modStream h fun q => { q with waiting := q.waiting.filter fun x => x.consumer != c };
    let s' := s'.giveBurst h b r;
    ∀ w,
    b.who = .engine w →
    let bad := s'.poisonTiles st r.2.1 r.1;
    let s' := s'.modBind w fun x => { x with poisoned := x.poisoned + bad };
    ∀ x,
    s'.bindOf w = some x →
    ¬(x.host) →
    (x.took = 0) →
    exec (.burstDelivery h c) s = .next (State.settle (s'.nextBurst x))) ∧
  (∀ (h : Nat) (c : Nat) (s : State),
    ∀ st,
    tget s.streams h = some st →
    ∀ b',
    (st.waiting.find? fun b => b.consumer = c && b.consumer != 0xFFFF) = some b' →
    let b := b';
    ¬(s.endHolds b.who) →
    ∀ s' r,
    s.deliver h c b.n = (s', some r) →
    let s' := s'.modStream h fun q => { q with waiting := q.waiting.filter fun x => x.consumer != c };
    let s' := s'.giveBurst h b r;
    ∀ w,
    b.who = .engine w →
    let bad := s'.poisonTiles st r.2.1 r.1;
    let s' := s'.modBind w fun x => { x with poisoned := x.poisoned + bad };
    ∀ x,
    s'.bindOf w = some x →
    ¬(x.host) →
    ¬(x.took = 0) →
    exec (.burstDelivery h c) s = .next (State.settle (s'))) ∧
  (∀ (h : Nat) (c : Nat) (s : State),
    ∀ st,
    tget s.streams h = some st →
    ∀ b',
    (st.waiting.find? fun b => b.consumer = c && b.consumer != 0xFFFF) = some b' →
    let b := b';
    ¬(s.endHolds b.who) →
    ∀ s' r,
    s.deliver h c b.n = (s', some r) →
    let s' := s'.modStream h fun q => { q with waiting := q.waiting.filter fun x => x.consumer != c };
    let s' := s'.giveBurst h b r;
    (∀ w, b.who ≠ .engine w) →
    exec (.burstDelivery h c) s = .next (State.settle (s'))) ∧
  -- POISON_TILE_COMMIT (R185)
  (∀ (h : Nat) (s : State),
    ∀ st,
    tget s.streams h = some st →
    let t := st.committed;
    ¬(st.state != .aborted || st.poisonLimit ≤ t || !st.credit t) →
    exec (.poisonTileCommit h) s = .next (State.settle (s.commitSlot h t (List.replicate 64 (true, List.replicate 256 0#8))))) ∧
  -- BIND_TRANSFER_END (R207)
  (∀ (w : BitVec 64) (z : State),
    let s := z;
    ∀ b,
    s.bindOf w = some b →
    ¬(s.part.mastersStopped) →
    let opened : Bool := match tget s.streams b.handle with | some st => st.state = .opened | none => false;
    let fin : Bool := match b.consumer with
             | none => b.tiles ≤ b.doneTiles.length || !opened
             | some _ => b.took = 0 && (b.tiles ≤ b.moved || b.gotEnd);
    (fin) →
    let s : State := { s with basin := { s.basin with tags := s.basin.tags.map fun (t : TagReq) =>
      if t.wid = w then { t with dropped := true } else t } };
    exec (.bindTransferEnd w) z = .next (State.settle (s.endBind b))) ∧
  -- BASIN_SCRUB (R180)
  (∀ (q : Nat) (outcome : Nat) (z : State),
    let s := z;
    ¬(4 ≤ q) →
    let p := tgetD 0 s.basin.scrubPos q;
    let a := q * 0x20000000 + p * 256;
    let s := match outcome with
      | 0 => s
      | 1 => s.basinEcc [(a, false)]
      | _ => s.basinEcc [(a, true)];
    exec (.basinScrub q outcome) z = .next (State.settle
      ({ s with basin := { s.basin with scrubPos := tputD 0 s.basin.scrubPos q ((p + 1) % 0x200000) } }))) ∧
  -- TRANSACTION_TAG_GRANT (R199)
  (∀ (w : BitVec 64) (tile : Nat) (line : Nat) (s : State),
    ∀ b,
    s.bindOf w = some b →
    ∀ st,
    tget s.streams b.handle = some st →
    let seen := b.issued.contains (tile, line) || b.landed.any (fun e => e.1 = tile && e.2.1 = line) ||
      b.doneTiles.contains tile;
    ¬(b.host || 64 ≤ line || seen || s.part.mastersStopped) →
    let a := b.lineAddr tile line;
    let issue := fun (s : State) => s.modBind w fun x => { x with issued := x.issued ++ [(tile, line)] };
    b.consumer = none →
    ¬(b.tiles ≤ tile || st.state != .opened || !st.credit (b.base + tile)) →
    ∀ s',
    s.takeTag a b.paddock (s.lineTag b tile line false) = some s' →
    exec (.transactionTagGrant w tile line) s = .next (State.settle (issue s'))) ∧
  (∀ (w : BitVec 64) (tile : Nat) (line : Nat) (s : State),
    ∀ b,
    s.bindOf w = some b →
    ∀ st,
    tget s.streams b.handle = some st →
    let seen := b.issued.contains (tile, line) || b.landed.any (fun e => e.1 = tile && e.2.1 = line) ||
      b.doneTiles.contains tile;
    ¬(b.host || 64 ≤ line || seen || s.part.mastersStopped) →
    let a := b.lineAddr tile line;
    let issue := fun (s : State) => s.modBind w fun x => { x with issued := x.issued ++ [(tile, line)] };
    ∀ c,
    b.consumer = some c →
    ¬(tile < b.moved || b.moved + b.took ≤ tile) →
    ∀ s',
    s.takeTag a b.paddock (s.lineTag b tile line true) = some s' →
    let src := st.slotAddr ((st.con c).read - (st.con c).held + (tile - b.moved)) + line * 256;
    let p := s'.poisoned src 256;
    exec (.transactionTagGrant w tile line) s = .next (State.settle
      ((issue (s'.tierWrite a (s'.bytes src 256) p)).modBind w fun x => { x with poisonOut := x.poisonOut || p }))) ∧
  -- TIER_READ_RESPONSE (R198)
  (∀ (tag : Nat) (errs : List Nat) (s : State),
    ∀ q,
    s.tagOf tag = some q →
    ¬(q.write || q.park) →
    exec (.tierReadResponse tag errs) s = .next (State.settle (s.readDone q errs))) ∧
  -- TIER_WRITE_ACK (R198)
  (∀ (tag : Nat) (s : State),
    ∀ q,
    s.tagOf tag = some q →
    ¬(!q.write || q.park) →
    exec (.tierWriteAck tag) s = .next (State.settle (s.writeDone q))) ∧
  -- TIER_REQUEST_TIMEOUT (R200)
  (∀ (tag : Nat) (z : State),
    let s := z;
    ∀ q,
    s.tagOf tag = some q →
    ¬(q.park) →
    let s := s.reach (q.issuedAt + 100000);
    (q.write) →
    exec (.tierRequestTimeout tag) z = .next (State.settle (s.tagTimeout q))) ∧
  (∀ (tag : Nat) (z : State),
    let s := z;
    ∀ q,
    s.tagOf tag = some q →
    ¬(q.park) →
    let s := s.reach (q.issuedAt + 100000);
    ¬(q.write) →
    let s := s.freeTag q.tag;
    s.bindOf q.wid = none →
    exec (.tierRequestTimeout tag) z = .next (State.settle (s))) ∧
  (∀ (tag : Nat) (z : State),
    let s := z;
    ∀ q,
    s.tagOf tag = some q →
    ¬(q.park) →
    let s := s.reach (q.issuedAt + 100000);
    ¬(q.write) →
    let s := s.freeTag q.tag;
    ∀ b,
    s.bindOf q.wid = some b →
    (q.dropped) →
    exec (.tierRequestTimeout tag) z = .next (State.settle (s))) ∧
  (∀ (tag : Nat) (z : State),
    let s := z;
    ∀ q,
    s.tagOf tag = some q →
    ¬(q.park) →
    let s := s.reach (q.issuedAt + 100000);
    ¬(q.write) →
    let s := s.freeTag q.tag;
    ∀ b,
    s.bindOf q.wid = some b →
    ¬(q.dropped) →
    exec (.tierRequestTimeout tag) z = .next (State.settle
      (s.lineLanded q.wid q.tile q.line true (s.bytes (b.lineAddr q.tile q.line) 256)))) ∧
  -- ENGINE_FAULT_RESET (R202)
  (∀ (u : EngineUnit) (s : State),
    ∀ w,
    u = .bind w →
    ∀ q',
    (s.nvwProgs.find? fun (q : NvwProg) => q.wid = w) = some q' →
    let q := q';
    exec (.engineFaultReset u) s = .next (State.settle (s.resetProg q stMasterReset))) ∧
  (∀ (u : EngineUnit) (s : State),
    ∀ w,
    u = .bind w →
    (s.nvwProgs.find? fun (q : NvwProg) => q.wid = w) = none →
    exec (.engineFaultReset u) s = .next (State.settle (s.resetBind w stMasterReset))) ∧
  (∀ (u : EngineUnit) (s : State),
    ∀ w,
    u = .coll w →
    ∀ c,
    s.collOf w = some c →
    exec (.engineFaultReset u) s = .next (State.settle (s.abortColl c stMasterReset))) ∧
  (∀ (u : EngineUnit) (s : State),
    ∀ w,
    u = .send w →
    exec (.engineFaultReset u) s = .next (State.settle (s.resetSend w))) ∧
  (∀ (u : EngineUnit) (s : State),
    ∀ d,
    u = .cxl d →
    exec (.engineFaultReset u) s = .next (State.settle (s.resetCxl d))) ∧
  (∀ (u : EngineUnit) (s : State),
    u = .quay →
    exec (.engineFaultReset u) s = .next (State.settle
      (s.quays.foldl (fun s (q : Nat × Quay) =>
      if q.2.ended.isSome then s else (s.resetEnd fun e => e = .quay q.1).stopQuay q.1 stMasterReset) s)))

/-- The stream and barrier commands and BASIN_QUERY complete with their effects: STREAM_OPEN, STREAM_OPEN_EXPERT,
STREAM_BIND, STREAM_BIND_EXPERT, STREAM_CLOSE, STREAM_CLOSE_EXPERT, STREAM_ABORT, STREAM_ABORT_EXPERT, STREAM_QUERY,
STREAM_QUERY_EXPERT, STREAM_FREE, STREAM_FREE_EXPERT, STREAM_REARM, STREAM_REARM_EXPERT, BARRIER_CREATE,
BARRIER_CREATE_EXPERT, BARRIER_ARRIVE, BARRIER_ARRIVE_EXPERT, BARRIER_DESTROY, BARRIER_DESTROY_EXPERT, BASIN_QUERY,
BASIN_QUERY_EXPERT (R182, R185, R186, R194, R196, R197, R206, R207, R208). -/
def Obligations.StreamAndBarrierCommands : Prop :=
  -- STREAM_OPEN (R206)
  (∀ (z : State) (wid : BitVec 64) (c : Cmd), z.ready 0x0C01 wid [] = some c →
    let s := z.markDispatched wid;
    let bar : Nat := 0;
    let log : Bool := false;
    let p1 := (c.u64 0, c.u32 8, c.u32 12, c.u64 16);
    let buf := p1.1;
    let depth := p1.2.1;
    let cons := p1.2.2.1;
    let exp := p1.2.2.2;
    (buf % tileBytes = 0 && 2 ≤ depth && depth ≤ 4096 && 1 ≤ cons && cons ≤ 64 && exp ≤ 2 ^ 40) →
    ∀ x2,
    s.ownRange c buf (depth * tileBytes) [.basin] = .ok x2 →
    (bar = 0 || (match tget s.barriers bar with | some b => b.paddock = c.pad | none => false)) →
    ((s.streams.filter fun e => e.2.paddock = c.pad).length < 2048 && s.streams.length < 16384) →
    let p3 := s.pick (fun k => s.basin.streamsMade.contains k) 1 (2 ^ 32 - 1);
    let h := p3.1;
    let s1 := p3.2;
    let hd := h.getD 1;
    let st : Stream := { paddock := c.pad, buf := buf, depth := depth, nCons := cons, expected := exp, state := .opened, committed := 0,
                         early := [], poisonLimit := 0, poisonTiles := 0, producer := none, consEnd := [], cons := [], waiting := [],
                         endBarrier := bar, endDone := false, logEnd := log };
    exec (.streamOpen wid) z = .next (State.settle ({ s1 with streams := tput s1.streams hd st, basin := { s1.basin with streamsMade := insNat hd s1.basin.streamsMade } }.ok c hd))) ∧
  -- STREAM_OPEN_EXPERT (R206)
  (∀ (z : State) (wid : BitVec 64) (c : Cmd), z.ready 0x0C81 wid [] = some c →
    let s := z.markDispatched wid;
    let bar : Nat := c.u32 24;
    let log : Bool := c.flag 28;
    let p1 := (c.u64 0, c.u32 8, c.u32 12, c.u64 16);
    let buf := p1.1;
    let depth := p1.2.1;
    let cons := p1.2.2.1;
    let exp := p1.2.2.2;
    (buf % tileBytes = 0 && 2 ≤ depth && depth ≤ 4096 && 1 ≤ cons && cons ≤ 64 && exp ≤ 2 ^ 40) →
    ∀ x2,
    s.ownRange c buf (depth * tileBytes) [.basin] = .ok x2 →
    (bar = 0 || (match tget s.barriers bar with | some b => b.paddock = c.pad | none => false)) →
    ((s.streams.filter fun e => e.2.paddock = c.pad).length < 2048 && s.streams.length < 16384) →
    let p3 := s.pick (fun k => s.basin.streamsMade.contains k) 1 (2 ^ 32 - 1);
    let h := p3.1;
    let s1 := p3.2;
    let hd := h.getD 1;
    let st : Stream := { paddock := c.pad, buf := buf, depth := depth, nCons := cons, expected := exp, state := .opened, committed := 0,
                         early := [], poisonLimit := 0, poisonTiles := 0, producer := none, consEnd := [], cons := [], waiting := [],
                         endBarrier := bar, endDone := false, logEnd := log };
    exec (.streamOpenExpert wid) z = .next (State.settle ({ s1 with streams := tput s1.streams hd st, basin := { s1.basin with streamsMade := insNat hd s1.basin.streamsMade } }.ok c hd))) ∧
  -- STREAM_BIND (R207)
  (∀ (z : State) (wid : BitVec 64) (c : Cmd), z.ready 0x0C02 wid [] = some c →
    let s := z.markDispatched wid;
    let burst0 : Nat := 0;
    let stride : Nat := 0;
    let done : Nat := 0;
    let keep : Bool := false;
    let h := c.u32 0;
    let e := c.u32 4;
    let addr := c.u64 8;
    let tiles := c.u64 16;
    ∀ st,
    s.streamOf c h = .ok st →
    let cons := if e = 0xFFFF then none else some e;
    let burst := if burst0 = 0 then min 16 (st.depth / 2) else burst0;
    ((match cons with | some k => k < st.nCons | none => true) && burst ≤ min 64 st.depth) →
    (!(cons.isNone && st.expected != 0 && st.expected - st.committed < tiles)) →
    (done = 0 || (match tget s.barriers done with | some b => b.paddock = c.pad | none => false)) →
    ((match cons with | some k => !thas st.consEnd k | none => st.producer.isNone : Bool)) →
    (cons.isSome || st.state = .opened) →
    let span := if tiles = 0 then 0 else (tiles - 1) * (if stride = 0 then tileBytes else stride) + tileBytes;
    ∀ loc,
    s.resolve c addr span cons.isSome = .ok loc →
    let host := match loc with | .host _ => true | .part _ _ => false;
    (host || 0x100000000 ≤ addr) →
    let b : Bind := { wid := c.w, paddock := c.pad, fn := c.fn, handle := h, consumer := cons, addr := addr, host := host,
                      tiles := tiles, burst := burst, stride := stride, done := done, keepOpen := keep, base := st.committed,
                      issued := [], landed := [], doneTiles := [], moved := 0, poisoned := 0, poisonOut := false, took := 0,
                      gotEnd := false, failStatus := 0#16 };
    let s1 : State := { s with basin := { s.basin with binds := s.basin.binds ++ [b] } };
    let s2 := s1.modStream h fun x => match cons with
      | some k => { x with consEnd := tput x.consEnd k (.engine c.w) }
      | none => { x with producer := some (.engine c.w) };
    exec (.streamBind wid) z = .next (State.settle (if cons.isSome then s2.nextBurst b else s2))) ∧
  -- STREAM_BIND_EXPERT (R207)
  (∀ (z : State) (wid : BitVec 64) (c : Cmd), z.ready 0x0C82 wid [] = some c →
    let s := z.markDispatched wid;
    let burst0 : Nat := c.u32 24;
    let stride : Nat := c.u64 28;
    let done : Nat := c.u32 36;
    let keep : Bool := c.flag 40;
    let h := c.u32 0;
    let e := c.u32 4;
    let addr := c.u64 8;
    let tiles := c.u64 16;
    ∀ st,
    s.streamOf c h = .ok st →
    let cons := if e = 0xFFFF then none else some e;
    let burst := if burst0 = 0 then min 16 (st.depth / 2) else burst0;
    ((match cons with | some k => k < st.nCons | none => true) && burst ≤ min 64 st.depth) →
    (!(cons.isNone && st.expected != 0 && st.expected - st.committed < tiles)) →
    (done = 0 || (match tget s.barriers done with | some b => b.paddock = c.pad | none => false)) →
    ((match cons with | some k => !thas st.consEnd k | none => st.producer.isNone : Bool)) →
    (cons.isSome || st.state = .opened) →
    let span := if tiles = 0 then 0 else (tiles - 1) * (if stride = 0 then tileBytes else stride) + tileBytes;
    ∀ loc,
    s.resolve c addr span cons.isSome = .ok loc →
    let host := match loc with | .host _ => true | .part _ _ => false;
    (host || 0x100000000 ≤ addr) →
    let b : Bind := { wid := c.w, paddock := c.pad, fn := c.fn, handle := h, consumer := cons, addr := addr, host := host,
                      tiles := tiles, burst := burst, stride := stride, done := done, keepOpen := keep, base := st.committed,
                      issued := [], landed := [], doneTiles := [], moved := 0, poisoned := 0, poisonOut := false, took := 0,
                      gotEnd := false, failStatus := 0#16 };
    let s1 : State := { s with basin := { s.basin with binds := s.basin.binds ++ [b] } };
    let s2 := s1.modStream h fun x => match cons with
      | some k => { x with consEnd := tput x.consEnd k (.engine c.w) }
      | none => { x with producer := some (.engine c.w) };
    exec (.streamBindExpert wid) z = .next (State.settle (if cons.isSome then s2.nextBurst b else s2))) ∧
  -- STREAM_CLOSE (R206)
  (∀ (z : State) (wid : BitVec 64) (c : Cmd), z.ready 0x0C03 wid [] = some c →
    let s := z.markDispatched wid;
    let wait : Bool := false;
    let h := c.u32 0;
    ∀ st,
    s.streamOf c h = .ok st →
    (st.state = .opened && st.producer.isNone) →
    let s1 := s.closeStream h;
    exec (.streamClose wid) z = .next (State.settle (if wait then s1.wait c.w (.streamEnd h) else s1.ok c))) ∧
  -- STREAM_CLOSE_EXPERT (R206)
  (∀ (z : State) (wid : BitVec 64) (c : Cmd), z.ready 0x0C83 wid [] = some c →
    let s := z.markDispatched wid;
    let wait : Bool := c.flag 4;
    let h := c.u32 0;
    ∀ st,
    s.streamOf c h = .ok st →
    (st.state = .opened && st.producer.isNone) →
    let s1 := s.closeStream h;
    exec (.streamCloseExpert wid) z = .next (State.settle (if wait then s1.wait c.w (.streamEnd h) else s1.ok c))) ∧
  -- STREAM_ABORT (R185)
  (∀ (z : State) (wid : BitVec 64) (c : Cmd), z.ready 0x0C04 wid [] = some c →
    let s := z.markDispatched wid;
    ∀ st,
    s.streamOf c (c.u32 0) = .ok st →
    (st.state = .opened) →
    exec (.streamAbort wid) z = .next (State.settle ((s.abortStream (c.u32 0)).ok c))) ∧
  -- STREAM_ABORT_EXPERT (R185)
  (∀ (z : State) (wid : BitVec 64) (c : Cmd), z.ready 0x0C84 wid [] = some c →
    let s := z.markDispatched wid;
    let s := s.reason c (c.u32 4);
    ∀ st,
    s.streamOf c (c.u32 0) = .ok st →
    (st.state = .opened) →
    exec (.streamAbortExpert wid) z = .next (State.settle ((s.abortStream (c.u32 0)).ok c))) ∧
  -- STREAM_QUERY (R208)
  (∀ (z : State) (wid : BitVec 64) (c : Cmd), z.ready 0x0C05 wid [] = some c →
    let s := z.markDispatched wid;
    ∀ st,
    s.streamOf c (c.u32 0) = .ok st →
    ∀ s1,
    s.writeBuf c (c.u64 4) (st.record (c.u32 0)) = .ok s1 →
    exec (.streamQuery wid) z = .next (State.settle (s1.ok c))) ∧
  -- STREAM_QUERY_EXPERT (R208)
  (∀ (z : State) (wid : BitVec 64) (c : Cmd), z.ready 0x0C85 wid [] = some c →
    let s := z.markDispatched wid;
    let mine := (s.streams.filter fun e => e.2.paddock = c.pad).take (c.u32 8);
    ∀ s1,
    s.writeBuf c (c.u64 0) (mine.flatMap fun e => e.2.record e.1) = .ok s1 →
    exec (.streamQueryExpert wid) z = .next (State.settle (s1.ok c mine.length))) ∧
  -- STREAM_FREE (R182)
  (∀ (z : State) (wid : BitVec 64) (c : Cmd), z.ready 0x0C06 wid [] = some c →
    let s := z.markDispatched wid;
    ∀ st,
    s.streamOf c (c.u32 0) = .ok st →
    (st.ended) →
    exec (.streamFree wid) z = .next (State.settle ((s.freeStream (c.u32 0)).ok c))) ∧
  -- STREAM_FREE_EXPERT (R182)
  (∀ (z : State) (wid : BitVec 64) (c : Cmd), z.ready 0x0C86 wid [] = some c →
    let s := z.markDispatched wid;
    ∀ st,
    s.streamOf c (c.u32 0) = .ok st →
    (c.flag 4 || st.ended) →
    exec (.streamFreeExpert wid) z = .next (State.settle ((s.freeStream (c.u32 0)).ok c))) ∧
  -- STREAM_REARM (R186)
  (∀ (z : State) (wid : BitVec 64) (c : Cmd), z.ready 0x0C07 wid [] = some c →
    let s := z.markDispatched wid;
    ∀ st,
    s.streamOf c (c.u32 0) = .ok st →
    (st.ended) →
    exec (.streamRearm wid) z = .next (State.settle ((s.setStream (c.u32 0) st.rearm).ok c))) ∧
  -- STREAM_REARM_EXPERT (R186)
  (∀ (z : State) (wid : BitVec 64) (c : Cmd), z.ready 0x0C87 wid [] = some c →
    let s := z.markDispatched wid;
    ∀ st,
    s.streamOf c (c.u32 0) = .ok st →
    (st.ended) →
    (c.u64 4 ≤ 2 ^ 40) →
    exec (.streamRearmExpert wid) z = .next (State.settle
      ((s.setStream (c.u32 0) { st.rearm with expected := c.u64 4 }).ok c))) ∧
  -- BARRIER_CREATE (R194)
  (∀ (z : State) (wid : BitVec 64) (c : Cmd), z.ready 0x0C08 wid [] = some c →
    let s := z.markDispatched wid;
    let drains : List Nat := [];
    let auto : Bool := false;
    (!c.mgmt) →
    (1 ≤ c.u32 0 && c.u32 0 ≤ 65535) →
    (drains.all fun d => match tget s.streams d with | some st => st.paddock = c.pad | none => false) →
    ((s.barriers.filter fun e => e.2.paddock = c.pad).length < 4096 && s.barriers.length < 32768) →
    let p1 := s.pick (fun k => s.basin.barriersMade.contains k) 1 (2 ^ 32 - 1);
    let h := p1.1;
    let s1 := p1.2;
    let hd := h.getD 1;
    let b : Barrier := { paddock := c.pad, expect := c.u32 0, phase := 0, count := 0, next := 0, drains := dedupNat drains,
                         autoRearm := auto, arrs := [], waitTasks := [], waitCmds := [] };
    exec (.barrierCreate wid) z = .next (State.settle ({ s1 with barriers := tput s1.barriers hd b, basin := { s1.basin with barriersMade := insNat hd s1.basin.barriersMade } }.ok c hd))) ∧
  -- BARRIER_CREATE_EXPERT (R196)
  (∀ (z : State) (wid : BitVec 64) (c : Cmd), z.ready 0x0C88 wid [] = some c →
    let s := z.markDispatched wid;
    let drains : List Nat := ((List.range 16).map fun i => c.u32 (8 + 4 * i)).filter fun h => h != 0;
    let auto : Bool := c.flag 4;
    (!c.mgmt) →
    (1 ≤ c.u32 0 && c.u32 0 ≤ 65535) →
    (drains.all fun d => match tget s.streams d with | some st => st.paddock = c.pad | none => false) →
    ((s.barriers.filter fun e => e.2.paddock = c.pad).length < 4096 && s.barriers.length < 32768) →
    let p1 := s.pick (fun k => s.basin.barriersMade.contains k) 1 (2 ^ 32 - 1);
    let h := p1.1;
    let s1 := p1.2;
    let hd := h.getD 1;
    let b : Barrier := { paddock := c.pad, expect := c.u32 0, phase := 0, count := 0, next := 0, drains := dedupNat drains,
                         autoRearm := auto, arrs := [], waitTasks := [], waitCmds := [] };
    exec (.barrierCreateExpert wid) z = .next (State.settle ({ s1 with barriers := tput s1.barriers hd b, basin := { s1.basin with barriersMade := insNat hd s1.basin.barriersMade } }.ok c hd))) ∧
  -- BARRIER_ARRIVE (R194)
  (∀ (z : State) (wid : BitVec 64) (c : Cmd), z.ready 0x0C09 wid [] = some c →
    let s := z.markDispatched wid;
    ∀ b,
    s.barrierOf c (c.u32 0) = .ok b →
    exec (.barrierArrive wid) z = .next (State.settle ((s.arrive (c.u32 0)).ok c b.arrivalPhase))) ∧
  -- BARRIER_ARRIVE_EXPERT (R194)
  (∀ (z : State) (wid : BitVec 64) (c : Cmd), z.ready 0x0C89 wid [] = some c →
    let s := z.markDispatched wid;
    ∀ b,
    s.barrierOf c (c.u32 0) = .ok b →
    (c.flag 4) →
    let b' : Barrier := { b with waitCmds := b.waitCmds ++ [(c.w, b.arrivalPhase)] };
    exec (.barrierArriveExpert wid) z = .next (State.settle
      ({ s with barriers := tput s.barriers (c.u32 0) b' }.arrive (c.u32 0)))) ∧
  (∀ (z : State) (wid : BitVec 64) (c : Cmd), z.ready 0x0C89 wid [] = some c →
    let s := z.markDispatched wid;
    ∀ b,
    s.barrierOf c (c.u32 0) = .ok b →
    ¬(c.flag 4) →
    exec (.barrierArriveExpert wid) z = .next (State.settle ((s.arrive (c.u32 0)).ok c b.arrivalPhase))) ∧
  -- BARRIER_DESTROY (R197)
  (∀ (z : State) (wid : BitVec 64) (c : Cmd), z.ready 0x0C0A wid [] = some c →
    let s := z.markDispatched wid;
    ∀ b,
    s.barrierOf c (c.u32 0) = .ok b →
    (b.idle) →
    exec (.barrierDestroy wid) z = .next (State.settle ((s.destroyBarrier (c.u32 0) b).ok c))) ∧
  -- BARRIER_DESTROY_EXPERT (R197)
  (∀ (z : State) (wid : BitVec 64) (c : Cmd), z.ready 0x0C8A wid [] = some c →
    let s := z.markDispatched wid;
    ∀ b,
    s.barrierOf c (c.u32 0) = .ok b →
    (c.flag 4 || b.idle) →
    exec (.barrierDestroyExpert wid) z = .next (State.settle ((s.destroyBarrier (c.u32 0) b).ok c))) ∧
  -- BASIN_QUERY (R206)
  (∀ (z : State) (wid : BitVec 64) (c : Cmd), z.ready 0x0C0B wid [] = some c →
    let s := z.markDispatched wid;
    ∀ s1,
    s.writeBuf c (c.u64 0) (s.basinRecord c.pad) = .ok s1 →
    exec (.basinQuery wid) z = .next (State.settle (s1.ok c))) ∧
  -- BASIN_QUERY_EXPERT (R206)
  (∀ (z : State) (wid : BitVec 64) (c : Cmd), z.ready 0x0C8B wid [] = some c →
    let s := z.markDispatched wid;
    (!c.flag 8 || c.mgmt) →
    let banks := if c.flag 8 then (List.range 256).flatMap fun b =>
        leBytes 2 (tgetD 0#64 s.basin.eccCorrected b).toNat ++ leBytes 1 (tgetD 0#64 s.basin.eccUncorrectable b).toNat
      else [];
    ∀ s1,
    s.writeBuf c (c.u64 0) (slice (s.basinRecord c.pad ++ banks) 0 1024) = .ok s1 →
    exec (.basinQueryExpert wid) z = .next (State.settle (s1.ok c)))

/-- The allocation, fill and map-out commands complete with their effects: MEM_ALLOC, MEM_ALLOC_EXPERT, MEM_FREE,
MEM_FREE_EXPERT, MEM_QUERY, MEM_QUERY_EXPERT, MEM_FILL, MEM_FILL_EXPERT, MEM_MAPOUT, MEM_MAPOUT_EXPERT (R210, R215,
R227, R228, R245). -/
def Obligations.MemoryCommands : Prop :=
  -- MEM_ALLOC (R215)
  (∀ (z : State) (wid : BitVec 64) (c : Cmd), z.ready 0x0101 wid [] = some c →
    let s := z.markDispatched wid;
    (!(bitAt (c.u32 0) 4 || bitAt (c.u32 0) 5 || bitAt (c.u32 0) 6 || bitAt (c.u32 0) 8)) →
    let owner : Option Nat := if c.mgmt then none else some c.pad;
    let f := c.u32 0;
    let len := c.u64 4;
    ∀ tier,
    tierOf (f % 8) = some tier →
    (f / 512 = 0) →
    ∀ o,
    owner = some o →
    let moored := bitAt f 8;
    (!(moored && tier != .hbm) && !(o = 15 && tier != .nvw) && len ≠ 0) →
    let near := bitAt f 3 && tier != .park;
    let die := if bitAt f 6 then f / 16 % 4 else s.homeDie o;
    ∀ a s1,
    (s.allocate { owner := o, tier := tier, near := near, die := die, len := len, persist := bitAt f 7,
                  moored := moored, sys := false } : Except Err _) = .ok (a, s1) →
    let size := ((tget s1.allocs a).map (·.len)).getD 0;
    (tier = .hbm || tier = .park) →
    exec (.memAlloc wid) z = .next (State.settle
      ({ s1 with hbm := { s1.hbm with zeroing := s1.hbm.zeroing ++ [⟨c.w, a, size, none⟩] } }))) ∧
  (∀ (z : State) (wid : BitVec 64) (c : Cmd), z.ready 0x0101 wid [] = some c →
    let s := z.markDispatched wid;
    (!(bitAt (c.u32 0) 4 || bitAt (c.u32 0) 5 || bitAt (c.u32 0) 6 || bitAt (c.u32 0) 8)) →
    let owner : Option Nat := if c.mgmt then none else some c.pad;
    let f := c.u32 0;
    let len := c.u64 4;
    ∀ tier,
    tierOf (f % 8) = some tier →
    (f / 512 = 0) →
    ∀ o,
    owner = some o →
    let moored := bitAt f 8;
    (!(moored && tier != .hbm) && !(o = 15 && tier != .nvw) && len ≠ 0) →
    let near := bitAt f 3 && tier != .park;
    let die := if bitAt f 6 then f / 16 % 4 else s.homeDie o;
    ∀ a s1,
    (s.allocate { owner := o, tier := tier, near := near, die := die, len := len, persist := bitAt f 7,
                  moored := moored, sys := false } : Except Err _) = .ok (a, s1) →
    ¬(tier = .hbm || tier = .park) →
    exec (.memAlloc wid) z = .next (State.settle (s1.ok c a))) ∧
  -- MEM_ALLOC_EXPERT (R210)
  (∀ (z : State) (wid : BitVec 64) (c : Cmd), z.ready 0x0181 wid [] = some c →
    let s := z.markDispatched wid;
    let o := c.u32 12;
    (c.mgmt) →
    let owner : Option Nat := if o = 15 || (o < 8 && thas s.paddocks o) then some o else none;
    let f := c.u32 0;
    let len := c.u64 4;
    ∀ tier,
    tierOf (f % 8) = some tier →
    (f / 512 = 0) →
    ∀ o,
    owner = some o →
    let moored := bitAt f 8;
    (!(moored && tier != .hbm) && !(o = 15 && tier != .nvw) && len ≠ 0) →
    let near := bitAt f 3 && tier != .park;
    let die := if bitAt f 6 then f / 16 % 4 else s.homeDie o;
    ∀ a s1,
    (s.allocate { owner := o, tier := tier, near := near, die := die, len := len, persist := bitAt f 7,
                  moored := moored, sys := false } : Except Err _) = .ok (a, s1) →
    let size := ((tget s1.allocs a).map (·.len)).getD 0;
    (tier = .hbm || tier = .park) →
    exec (.memAllocExpert wid) z = .next (State.settle
      ({ s1 with hbm := { s1.hbm with zeroing := s1.hbm.zeroing ++ [⟨c.w, a, size, none⟩] } }))) ∧
  (∀ (z : State) (wid : BitVec 64) (c : Cmd), z.ready 0x0181 wid [] = some c →
    let s := z.markDispatched wid;
    let o := c.u32 12;
    (c.mgmt) →
    let owner : Option Nat := if o = 15 || (o < 8 && thas s.paddocks o) then some o else none;
    let f := c.u32 0;
    let len := c.u64 4;
    ∀ tier,
    tierOf (f % 8) = some tier →
    (f / 512 = 0) →
    ∀ o,
    owner = some o →
    let moored := bitAt f 8;
    (!(moored && tier != .hbm) && !(o = 15 && tier != .nvw) && len ≠ 0) →
    let near := bitAt f 3 && tier != .park;
    let die := if bitAt f 6 then f / 16 % 4 else s.homeDie o;
    ∀ a s1,
    (s.allocate { owner := o, tier := tier, near := near, die := die, len := len, persist := bitAt f 7,
                  moored := moored, sys := false } : Except Err _) = .ok (a, s1) →
    ¬(tier = .hbm || tier = .park) →
    exec (.memAllocExpert wid) z = .next (State.settle (s1.ok c a))) ∧
  (∀ (z : State) (wid : BitVec 64) (c : Cmd), z.ready 0x0181 wid [] = some c →
    let s := z.markDispatched wid;
    let o := c.u32 12;
    ¬(c.mgmt) →
    (o = 0xFFFFFFFF || o = c.pad) →
    let owner : Option Nat := some c.pad;
    let f := c.u32 0;
    let len := c.u64 4;
    ∀ tier,
    tierOf (f % 8) = some tier →
    (f / 512 = 0) →
    ∀ o,
    owner = some o →
    let moored := bitAt f 8;
    (!(moored && tier != .hbm) && !(o = 15 && tier != .nvw) && len ≠ 0) →
    let near := bitAt f 3 && tier != .park;
    let die := if bitAt f 6 then f / 16 % 4 else s.homeDie o;
    ∀ a s1,
    (s.allocate { owner := o, tier := tier, near := near, die := die, len := len, persist := bitAt f 7,
                  moored := moored, sys := false } : Except Err _) = .ok (a, s1) →
    let size := ((tget s1.allocs a).map (·.len)).getD 0;
    (tier = .hbm || tier = .park) →
    exec (.memAllocExpert wid) z = .next (State.settle
      ({ s1 with hbm := { s1.hbm with zeroing := s1.hbm.zeroing ++ [⟨c.w, a, size, none⟩] } }))) ∧
  (∀ (z : State) (wid : BitVec 64) (c : Cmd), z.ready 0x0181 wid [] = some c →
    let s := z.markDispatched wid;
    let o := c.u32 12;
    ¬(c.mgmt) →
    (o = 0xFFFFFFFF || o = c.pad) →
    let owner : Option Nat := some c.pad;
    let f := c.u32 0;
    let len := c.u64 4;
    ∀ tier,
    tierOf (f % 8) = some tier →
    (f / 512 = 0) →
    ∀ o,
    owner = some o →
    let moored := bitAt f 8;
    (!(moored && tier != .hbm) && !(o = 15 && tier != .nvw) && len ≠ 0) →
    let near := bitAt f 3 && tier != .park;
    let die := if bitAt f 6 then f / 16 % 4 else s.homeDie o;
    ∀ a s1,
    (s.allocate { owner := o, tier := tier, near := near, die := die, len := len, persist := bitAt f 7,
                  moored := moored, sys := false } : Except Err _) = .ok (a, s1) →
    ¬(tier = .hbm || tier = .park) →
    exec (.memAllocExpert wid) z = .next (State.settle (s1.ok c a))) ∧
  -- MEM_FREE (R245)
  (∀ (z : State) (wid : BitVec 64) (c : Cmd), z.ready 0x0102 wid [] = some c →
    let s := z.markDispatched wid;
    let a := c.u64 0;
    ∀ l,
    s.namedAlloc c a = .ok l →
    (c.mgmt || l.nvw != .detached) →
    ¬(s.allocInUse a l) →
    exec (.memFree wid) z = .next (State.settle ((s.release a).ok c))) ∧
  -- MEM_FREE_EXPERT (R245)
  (∀ (z : State) (wid : BitVec 64) (c : Cmd), z.ready 0x0182 wid [] = some c →
    let s := z.markDispatched wid;
    let wait : Bool := c.flag 8;
    let a := c.u64 0;
    ∀ l,
    s.namedAlloc c a = .ok l →
    (c.mgmt || l.nvw != .detached) →
    (s.allocInUse a l) →
    (wait && l.grants.isEmpty) →
    exec (.memFreeExpert wid) z = .next (State.settle (s.wait c.w (.memFree a)))) ∧
  (∀ (z : State) (wid : BitVec 64) (c : Cmd), z.ready 0x0182 wid [] = some c →
    let s := z.markDispatched wid;
    let a := c.u64 0;
    ∀ l,
    s.namedAlloc c a = .ok l →
    (c.mgmt || l.nvw != .detached) →
    ¬(s.allocInUse a l) →
    exec (.memFreeExpert wid) z = .next (State.settle ((s.release a).ok c))) ∧
  -- MEM_QUERY (R245)
  (∀ (z : State) (wid : BitVec 64) (c : Cmd), z.ready 0x0103 wid [] = some c →
    let s := z.markDispatched wid;
    ∀ s1,
    s.writeBuf c (c.u64 0) (s.memRecord c.pad) = .ok s1 →
    exec (.memQuery wid) z = .next (State.settle (s1.ok c))) ∧
  -- MEM_QUERY_EXPERT (R245)
  (∀ (z : State) (wid : BitVec 64) (c : Cmd), z.ready 0x0183 wid [] = some c →
    let s := z.markDispatched wid;
    let p := c.u32 8;
    (c.mgmt || (!c.flag 12 && p = c.pad)) →
    (thas s.paddocks p) →
    ∀ s1,
    (s.writeBuf c (c.u64 0)
      (s.memRecord p ++ (if c.flag 12 then (List.range 384).flatMap s.chanBytes else [])) : Except Err _) = .ok s1 →
    exec (.memQueryExpert wid) z = .next (State.settle (s1.ok c))) ∧
  -- MEM_FILL (R245)
  (∀ (z : State) (wid : BitVec 64) (c : Cmd), z.ready 0x0104 wid [] = some c →
    let s := z.markDispatched wid;
    let pat : BitVec 64 := 0#64;
    (!c.mgmt) →
    let p1 := (c.u64 0, c.u64 8);
    let a := p1.1;
    let n := p1.2;
    ∀ e,
    s.allocAt a = some e →
    (!e.2.sys) →
    (e.2.owner = c.pad) →
    (e.2.tier != .nvw && rangeIn a n e) →
    exec (.memFill wid) z = .next (State.settle
      ({ s with hbm := { s.hbm with zeroing := s.hbm.zeroing ++ [⟨c.w, a, n, some pat⟩] } }))) ∧
  -- MEM_FILL_EXPERT (R245)
  (∀ (z : State) (wid : BitVec 64) (c : Cmd), z.ready 0x0184 wid [] = some c →
    let s := z.markDispatched wid;
    let pat : BitVec 64 := BitVec.ofNat 64 (c.u64 16);
    (!c.mgmt) →
    let p1 := (c.u64 0, c.u64 8);
    let a := p1.1;
    let n := p1.2;
    ∀ e,
    s.allocAt a = some e →
    (!e.2.sys) →
    (e.2.owner = c.pad) →
    (e.2.tier != .nvw && rangeIn a n e) →
    exec (.memFillExpert wid) z = .next (State.settle
      ({ s with hbm := { s.hbm with zeroing := s.hbm.zeroing ++ [⟨c.w, a, n, some pat⟩] } }))) ∧
  -- MEM_MAPOUT (R227)
  (∀ (z : State) (wid : BitVec 64) (c : Cmd), z.ready 0x0105 wid [] = some c →
    let s := z.markDispatched wid;
    let k := c.u32 0;
    (k < 384 && (s.hbm.chan k).migrating = some c.w) →
    exec (.memMapout wid) z = .next (State.settle (s))) ∧
  (∀ (z : State) (wid : BitVec 64) (c : Cmd), z.ready 0x0105 wid [] = some c →
    let s := z.markDispatched wid;
    let noMigrate : Bool := false;
    let k := c.u32 0;
    ¬(k < 384 && (s.hbm.chan k).migrating = some c.w) →
    (k < 384 && !(s.hbm.chan k).mapped && (s.hbm.chan k).migrating.isNone) →
    exec (.memMapout wid) z = .next (State.settle (s.startMapout k c.w noMigrate))) ∧
  -- MEM_MAPOUT_EXPERT (R228)
  (∀ (z : State) (wid : BitVec 64) (c : Cmd), z.ready 0x0185 wid [] = some c →
    let s := z.markDispatched wid;
    let k := c.u32 0;
    (k < 384 && (s.hbm.chan k).migrating = some c.w) →
    exec (.memMapoutExpert wid) z = .next (State.settle (s))) ∧
  (∀ (z : State) (wid : BitVec 64) (c : Cmd), z.ready 0x0185 wid [] = some c →
    let s := z.markDispatched wid;
    let noMigrate : Bool := c.flag 4;
    let k := c.u32 0;
    ¬(k < 384 && (s.hbm.chan k).migrating = some c.w) →
    (k < 384 && !(s.hbm.chan k).mapped && (s.hbm.chan k).migrating.isNone) →
    exec (.memMapoutExpert wid) z = .next (State.settle (s.startMapout k c.w noMigrate)))

/-- The NVW commands complete with their effects: NVW_PROGRAM, NVW_PROGRAM_EXPERT, NVW_SEAL, NVW_SEAL_EXPERT,
NVW_ERASE, NVW_ERASE_EXPERT, NVW_GRANT, NVW_GRANT_EXPERT, NVW_QUERY, NVW_QUERY_EXPERT (R232, R235, R236, R245). -/
def Obligations.FlashCommands : Prop :=
  -- NVW_PROGRAM (R232)
  (∀ (z : State) (wid : BitVec 64) (c : Cmd), z.ready 0x0106 wid [] = some c →
    let s := z.markDispatched wid;
    let stream : Nat := 0;
    let verify : Bool := true;
    let p1 := (c.u64 0, c.u64 8, c.u64 16);
    let dst := p1.1;
    let src := p1.2.1;
    let len := p1.2.2;
    ∀ a l,
    s.regionAt c dst = .ok (a, l) →
    (len ≠ 0 && len % tileBytes = 0) →
    ((l.nvw = .erased || l.nvw = .programming) && !s.regionBusy a && dst - a = l.programmed * tileBytes) →
    (dst - a + len ≤ l.len) →
    let key := if l.owner = 15 then [] else (tget s.kryto.tenantKeys l.owner).getD [];
    let prog := fun (con : Nat) => { wid := c.w, region := a, src := src, stream := stream, consumer := con,
                                     tiles := len / tileBytes, start := l.programmed, verify := verify, reprog := 0,
                                     staged := [] : NvwProg };
    let go := fun (s : State) (con : Nat) =>
      { ((s.eraseTorn a l).modAlloc a fun x => { x with nvw := .programming, keyTag := key }) with nvwProgs := s.nvwProgs ++ [prog con] };
    (stream = 0) →
    ∀ loc,
    s.resolve c src len false = .ok loc →
    ((match loc with | .host _ => true | .part _ id => match tget s.allocs id with
      | some x => x.tier = .hbm
      | none => false : Bool)) →
    exec (.nvwProgram wid) z = .next (State.settle (go s 0))) ∧
  -- NVW_PROGRAM_EXPERT (R232)
  (∀ (z : State) (wid : BitVec 64) (c : Cmd), z.ready 0x0186 wid [] = some c →
    let s := z.markDispatched wid;
    let stream : Nat := c.u32 24;
    let verify : Bool := c.flag 28;
    let p1 := (c.u64 0, c.u64 8, c.u64 16);
    let dst := p1.1;
    let src := p1.2.1;
    let len := p1.2.2;
    ∀ a l,
    s.regionAt c dst = .ok (a, l) →
    (len ≠ 0 && len % tileBytes = 0) →
    ((l.nvw = .erased || l.nvw = .programming) && !s.regionBusy a && dst - a = l.programmed * tileBytes) →
    (dst - a + len ≤ l.len) →
    let key := if l.owner = 15 then [] else (tget s.kryto.tenantKeys l.owner).getD [];
    let prog := fun (con : Nat) => { wid := c.w, region := a, src := src, stream := stream, consumer := con,
                                     tiles := len / tileBytes, start := l.programmed, verify := verify, reprog := 0,
                                     staged := [] : NvwProg };
    let go := fun (s : State) (con : Nat) =>
      { ((s.eraseTorn a l).modAlloc a fun x => { x with nvw := .programming, keyTag := key }) with nvwProgs := s.nvwProgs ++ [prog con] };
    (stream = 0) →
    ∀ loc,
    s.resolve c src len false = .ok loc →
    ((match loc with | .host _ => true | .part _ id => match tget s.allocs id with
      | some x => x.tier = .hbm
      | none => false : Bool)) →
    exec (.nvwProgramExpert wid) z = .next (State.settle (go s 0))) ∧
  (∀ (z : State) (wid : BitVec 64) (c : Cmd), z.ready 0x0186 wid [] = some c →
    let s := z.markDispatched wid;
    let stream : Nat := c.u32 24;
    let verify : Bool := c.flag 28;
    let p1 := (c.u64 0, c.u64 8, c.u64 16);
    let dst := p1.1;
    let src := p1.2.1;
    let len := p1.2.2;
    ∀ a l,
    s.regionAt c dst = .ok (a, l) →
    (len ≠ 0 && len % tileBytes = 0) →
    ((l.nvw = .erased || l.nvw = .programming) && !s.regionBusy a && dst - a = l.programmed * tileBytes) →
    (dst - a + len ≤ l.len) →
    let key := if l.owner = 15 then [] else (tget s.kryto.tenantKeys l.owner).getD [];
    let prog := fun (con : Nat) => { wid := c.w, region := a, src := src, stream := stream, consumer := con,
                                     tiles := len / tileBytes, start := l.programmed, verify := verify, reprog := 0,
                                     staged := [] : NvwProg };
    let go := fun (s : State) (con : Nat) =>
      { ((s.eraseTorn a l).modAlloc a fun x => { x with nvw := .programming, keyTag := key }) with nvwProgs := s.nvwProgs ++ [prog con] };
    ¬(stream = 0) →
    ∀ st,
    s.streamOf c stream = .ok st →
    ∀ con,
    ((List.range st.nCons).find? fun k => !thas st.consEnd k) = some con →
    exec (.nvwProgramExpert wid) z = .next (State.settle
      (go (s.setStream stream { st with consEnd := tput st.consEnd con (.engine c.w) }) con))) ∧
  -- NVW_SEAL (R235)
  (∀ (z : State) (wid : BitVec 64) (c : Cmd), z.ready 0x0107 wid [] = some c →
    let s := z.markDispatched wid;
    let expect : List Byte := [];
    ∀ a l,
    s.regionAt c (c.u64 0) = .ok (a, l) →
    (a = c.u64 0) →
    (l.nvw = .programming && l.programmed * tileBytes = l.len && !s.regionBusy a) →
    ∀ x1,
    s.resolve c (c.u64 8) 48 true = .ok x1 →
    exec (.nvwSeal wid) z = .next (State.settle (s.wait c.w (.seal a (BitVec.ofNat 64 (c.u64 8)) expect)))) ∧
  -- NVW_SEAL_EXPERT (R235)
  (∀ (z : State) (wid : BitVec 64) (hm : HostImage) (c : Cmd), z.ready 0x0187 wid hm = some c →
    let s := z.markDispatched wid;
    ∀ e x1,
    s.readBuf c (c.u64 16) 48 = .ok (e, x1) →
    let expect : List Byte := e;
    ∀ a l,
    s.regionAt c (c.u64 0) = .ok (a, l) →
    (a = c.u64 0) →
    (l.nvw = .programming && l.programmed * tileBytes = l.len && !s.regionBusy a) →
    ∀ x2,
    s.resolve c (c.u64 8) 48 true = .ok x2 →
    exec (.nvwSealExpert wid hm) z = .next (State.settle (s.wait c.w (.seal a (BitVec.ofNat 64 (c.u64 8)) expect)))) ∧
  -- NVW_ERASE (R245)
  (∀ (z : State) (wid : BitVec 64) (c : Cmd), z.ready 0x0108 wid [] = some c →
    let s := z.markDispatched wid;
    let release : Bool := false;
    let a := c.u64 0;
    ∀ l,
    s.namedAlloc c a = .ok l →
    (l.tier = .nvw) →
    (c.mgmt || l.nvw != .detached) →
    (l.grants.isEmpty && !s.allocInUse a l) →
    (!s.regionBusy a) →
    exec (.nvwErase wid) z = .next (State.settle (s.wait c.w (.erase a release)))) ∧
  -- NVW_ERASE_EXPERT (R245)
  (∀ (z : State) (wid : BitVec 64) (c : Cmd), z.ready 0x0188 wid [] = some c →
    let s := z.markDispatched wid;
    let release : Bool := c.flag 8;
    let a := c.u64 0;
    ∀ l,
    s.namedAlloc c a = .ok l →
    (l.tier = .nvw) →
    (c.mgmt || l.nvw != .detached) →
    (l.grants.isEmpty && !s.allocInUse a l) →
    (!s.regionBusy a) →
    exec (.nvwEraseExpert wid) z = .next (State.settle (s.wait c.w (.erase a release)))) ∧
  -- NVW_GRANT (R236)
  (∀ (z : State) (wid : BitVec 64) (c : Cmd), z.ready 0x0109 wid [] = some c →
    let s := z.markDispatched wid;
    let revoke : Bool := false;
    ∀ a l,
    s.regionAt c (c.u64 0) = .ok (a, l) →
    (a = c.u64 0) →
    let p := c.u32 8;
    (p < 8 && thas s.paddocks p) →
    (l.nvw = .sealed) →
    exec (.nvwGrant wid) z = .next (State.settle
      ((s.modAlloc a fun x => { x with grants := if revoke then x.grants.filter fun q => q != p else insNat p x.grants }).ok c))) ∧
  -- NVW_GRANT_EXPERT (R236)
  (∀ (z : State) (wid : BitVec 64) (c : Cmd), z.ready 0x0189 wid [] = some c →
    let s := z.markDispatched wid;
    let revoke : Bool := c.flag 12;
    ∀ a l,
    s.regionAt c (c.u64 0) = .ok (a, l) →
    (a = c.u64 0) →
    let p := c.u32 8;
    (p < 8 && thas s.paddocks p) →
    (l.nvw = .sealed) →
    exec (.nvwGrantExpert wid) z = .next (State.settle
      ((s.modAlloc a fun x => { x with grants := if revoke then x.grants.filter fun q => q != p else insNat p x.grants }).ok c))) ∧
  -- NVW_QUERY (R245)
  (∀ (z : State) (wid : BitVec 64) (c : Cmd), z.ready 0x010A wid [] = some c →
    let s := z.markDispatched wid;
    ∀ l,
    tget s.allocs (c.u64 0) = some l →
    (l.tier = .nvw && !l.sys) →
    (manages c l || l.grants.contains c.pad) →
    ∀ s1,
    s.writeBuf c (c.u64 8) (s.regionRecord l) = .ok s1 →
    exec (.nvwQuery wid) z = .next (State.settle (s1.ok c))) ∧
  -- NVW_QUERY_EXPERT (R245)
  (∀ (z : State) (wid : BitVec 64) (c : Cmd), z.ready 0x018A wid [] = some c →
    let s := z.markDispatched wid;
    let n := min 4 (c.u32 8);
    ∀ s1,
    s.writeBuf c (c.u64 0) ((List.range n).flatMap s.stackRecord) = .ok s1 →
    exec (.nvwQueryExpert wid) z = .next (State.settle (s1.ok c n)))

/-- The park and telemetry commands, the CXL responses and the refresh, scrub and map-out events have their effects:
PARK_QUERY, PARK_QUERY_EXPERT, PARK_CONTROL, PARK_CONTROL_EXPERT, MEM_TELEMETRY, MEM_TELEMETRY_EXPERT, CXL_DRS,
CXL_NDR, CXL_REQUEST_TIMEOUT, CXL_LINK_DOWN, HBM_REFRESH, CALIBRATION_DUE, FORCED_CALIBRATION, PATROL_SCRUB,
SCRUB_AGE, CORRECTED_WRITEBACK, CHANNEL_MAPOUT_DECISION, MAPOUT_FRAME_SWITCH, MAPOUT_RETRY, MAPOUT_POISON_COMPLETE
(R220, R225, R226, R227, R228, R239, R240, R241, R245). -/
def Obligations.ParkAndDramCommands : Prop :=
  -- PARK_QUERY (R245)
  (∀ (z : State) (wid : BitVec 64) (c : Cmd), z.ready 0x010B wid [] = some c →
    let s := z.markDispatched wid;
    ∀ s1,
    s.writeBuf c (c.u64 0) s.devRecords = .ok s1 →
    exec (.parkQuery wid) z = .next (State.settle (s1.ok c))) ∧
  -- PARK_QUERY_EXPERT (R245)
  (∀ (z : State) (wid : BitVec 64) (evs : List Byte) (c : Cmd), z.ready 0x018B wid [] = some c →
    let s := z.markDispatched wid;
    ∀ s1,
    s.writeBuf c (c.u64 0) s.devRecords = .ok s1 →
    ∀ s2,
    s1.writeBuf c (c.u64 8) evs = .ok s2 →
    exec (.parkQueryExpert wid evs) z = .next (State.settle (s2.ok c))) ∧
  -- PARK_CONTROL (R241)
  (∀ (z : State) (wid : BitVec 64) (found : List CxlFound) (c : Cmd), z.ready 0x010C wid [] = some c →
    let s := z.markDispatched wid;
    let bifur : Option Nat := none;
    let act := c.u32 4;
    (act ≤ 1) →
    ∀ s1,
    (match bifur with
      | none => .ok s
      | some k =>
        if 2 < k then fail stBadParam
        else if k = s.cxl.bifur then .ok s
        else if s.cxl.devs.any fun e => e.2.inService then fail stBadParam
        else .ok { s with cxl := { s.cxl with bifur := k, devs := [] } } : Except Err _) = .ok s1 →
    (act = 0) →
    exec (.parkControl wid found) z = .next (State.settle ((s1.rescan found).ok c))) ∧
  (∀ (z : State) (wid : BitVec 64) (found : List CxlFound) (c : Cmd), z.ready 0x010C wid [] = some c →
    let s := z.markDispatched wid;
    let bifur : Option Nat := none;
    let act := c.u32 4;
    (act ≤ 1) →
    ∀ s1,
    (match bifur with
      | none => .ok s
      | some k =>
        if 2 < k then fail stBadParam
        else if k = s.cxl.bifur then .ok s
        else if s.cxl.devs.any fun e => e.2.inService then fail stBadParam
        else .ok { s with cxl := { s.cxl with bifur := k, devs := [] } } : Except Err _) = .ok s1 →
    ¬(act = 0) →
    ∀ x1,
    tget s1.cxl.devs (c.u32 0) = some x1 →
    exec (.parkControl wid found) z = .next (State.settle ((s1.offline (c.u32 0)).ok c))) ∧
  -- PARK_CONTROL_EXPERT (R239)
  (∀ (z : State) (wid : BitVec 64) (found : List CxlFound) (c : Cmd), z.ready 0x018C wid [] = some c →
    let s := z.markDispatched wid;
    let bifur : Option Nat := some (c.u32 8);
    let act := c.u32 4;
    (act ≤ 1) →
    ∀ s1,
    (match bifur with
      | none => .ok s
      | some k =>
        if 2 < k then fail stBadParam
        else if k = s.cxl.bifur then .ok s
        else if s.cxl.devs.any fun e => e.2.inService then fail stBadParam
        else .ok { s with cxl := { s.cxl with bifur := k, devs := [] } } : Except Err _) = .ok s1 →
    (act = 0) →
    exec (.parkControlExpert wid found) z = .next (State.settle ((s1.rescan found).ok c))) ∧
  (∀ (z : State) (wid : BitVec 64) (found : List CxlFound) (c : Cmd), z.ready 0x018C wid [] = some c →
    let s := z.markDispatched wid;
    let bifur : Option Nat := some (c.u32 8);
    let act := c.u32 4;
    (act ≤ 1) →
    ∀ s1,
    (match bifur with
      | none => .ok s
      | some k =>
        if 2 < k then fail stBadParam
        else if k = s.cxl.bifur then .ok s
        else if s.cxl.devs.any fun e => e.2.inService then fail stBadParam
        else .ok { s with cxl := { s.cxl with bifur := k, devs := [] } } : Except Err _) = .ok s1 →
    ¬(act = 0) →
    ∀ x1,
    tget s1.cxl.devs (c.u32 0) = some x1 →
    exec (.parkControlExpert wid found) z = .next (State.settle ((s1.offline (c.u32 0)).ok c))) ∧
  -- MEM_TELEMETRY (R226)
  (∀ (z : State) (wid : BitVec 64) (c : Cmd), z.ready 0x010D wid [] = some c →
    let s := z.markDispatched wid;
    ∀ s1,
    s.writeBuf c (c.u64 0) ((List.range 12).flatMap fun k => s.telemetryRecord k (stackChans k)) = .ok s1 →
    exec (.memTelemetry wid) z = .next (State.settle (s1.ok c))) ∧
  -- MEM_TELEMETRY_EXPERT (R226)
  (∀ (z : State) (wid : BitVec 64) (c : Cmd), z.ready 0x018D wid [] = some c →
    let s := z.markDispatched wid;
    let ks := (List.range 12).filter fun k => bitAt (c.u32 8) k;
    ∀ s1,
    s.writeBuf c (c.u64 0) (ks.flatMap fun k => (stackChans k).flatMap fun i => s.telemetryRecord k [i]) = .ok s1 →
    exec (.memTelemetryExpert wid) z = .next (State.settle (s1.ok c))) ∧
  -- CXL_DRS (R239)
  (∀ (dev tag : Nat) (poison : Bool) (s : State) (q : TagReq),
    s.tagOf tag = some q → q.park → q.dev = dev → q.write = false →
    exec (.cxlDrs dev tag poison 0) s = .next (State.settle (s.readDone q (if poison then [2] else [])))) ∧
  -- CXL_NDR (R239)
  (∀ (dev tag : Nat) (s : State) (q : TagReq),
    s.tagOf tag = some q → q.park → q.dev = dev → q.write →
    exec (.cxlNdr dev tag 0) s = .next (State.settle (s.writeDone q))) ∧
  -- CXL_REQUEST_TIMEOUT (R240)
  (∀ (tag : Nat) (z : State),
    let s := z;
    ∀ q,
    s.tagOf tag = some q →
    (q.park) →
    let s := s.reach (q.issuedAt + msNs);
    let s := s.tagTimeout q;
    let recent := s.t :: (((tget s.cxl.devs q.dev).map (·.toTimes)).getD []).filter fun u => s.t < u + secNs;
    let s := s.modDev q.dev fun x => { x with toTimes := recent, timeouts := x.timeouts + 1 };
    (8 ≤ recent.length) →
    exec (.cxlRequestTimeout tag) z = .next (State.settle (s.offline q.dev))) ∧
  (∀ (tag : Nat) (z : State),
    let s := z;
    ∀ q,
    s.tagOf tag = some q →
    (q.park) →
    let s := s.reach (q.issuedAt + msNs);
    let s := s.tagTimeout q;
    let recent := s.t :: (((tget s.cxl.devs q.dev).map (·.toTimes)).getD []).filter fun u => s.t < u + secNs;
    let s := s.modDev q.dev fun x => { x with toTimes := recent, timeouts := x.timeouts + 1 };
    ¬(8 ≤ recent.length) →
    exec (.cxlRequestTimeout tag) z = .next (State.settle (s))) ∧
  -- CXL_LINK_DOWN (R241)
  (∀ (dev : Nat) (s : State),
    let d : Nat := dev;
    exec (.cxlLinkDown dev) s = .next (State.settle ((s.loseDev d).parkLosses))) ∧
  -- HBM_REFRESH (R226)
  (∀ (c : Nat) (s : State),
    (c < 384) →
    exec (.hbmRefresh c) s = .next (State.settle (s.modChan c fun x => { x with refreshes := x.refreshes + 1#64 }))) ∧
  -- CALIBRATION_DUE (R226)
  (∀ (c : Nat) (idle : Bool) (ok : Bool) (z : State),
    let s := z;
    ¬(384 ≤ c) →
    let x := s.hbm.chan c;
    let moved := 128 ≤ (tgetD 0 s.hbm.temp (c / 32) - x.calTemp).natAbs;
    let s := match x.calDue with
      | some _ => s
      | none => if moved then s else s.reach (x.calLast + 256 * msNs);
    (idle) →
    exec (.calibrationDue c idle ok) z = .next (State.settle (s.calibrated c ok false))) ∧
  (∀ (c : Nat) (idle : Bool) (ok : Bool) (z : State),
    let s := z;
    ¬(384 ≤ c) →
    let x := s.hbm.chan c;
    let moved := 128 ≤ (tgetD 0 s.hbm.temp (c / 32) - x.calTemp).natAbs;
    let s := match x.calDue with
      | some _ => s
      | none => if moved then s else s.reach (x.calLast + 256 * msNs);
    ¬(idle) →
    exec (.calibrationDue c idle ok) z = .next (State.settle
      (s.modChan c fun y => { y with calDue := some (y.calDue.getD s.t) }))) ∧
  -- FORCED_CALIBRATION (R225)
  (∀ (c : Nat) (ok : Bool) (s : State),
    ∀ d,
    (s.hbm.chan c).calDue = some d →
    exec (.forcedCalibration c ok) s = .next (State.settle ((s.reach (d + 32 * msNs)).calibrated c ok true))) ∧
  -- PATROL_SCRUB (R226)
  (∀ (c : Nat) (outcome : Nat) (line : Nat) (z : State),
    let s := z;
    ¬(384 ≤ c || (s.hbm.chan c).mapped) →
    let p := (s.hbm.chan c).scrubPos;
    let frame := p / 32768;
    let row := p % 32768 * 64 / 512 * 512;
    let off := p * 64 % 512;
    let a := match s.hbmSpot line with
      | some e => if e = (c, frame, row) then some (line / 512 * 512 + off) else none
      | none => none;
    let poison := match a with
      | some x => s.poisoned x 64
      | none => (s.hbm.chan c).badSectors.contains (frame * 0x200000 + row + off);
    let s := if poison then s.modChan c fun x => { x with poisonReads := x.poisonReads + 1#64 }
      else s.sectorRead c frame (row + off) outcome a;
    exec (.patrolScrub c outcome line) z = .next (State.settle
      (s.modChan c fun x => { x with scrubPos := (p + 1) % 2 ^ 25, scrubbed := tput x.scrubbed p s.t, scrubLogged := false }))) ∧
  -- SCRUB_AGE (R226)
  (∀ (c : Nat) (z : State),
    let s := z;
    let x := s.hbm.chan c;
    ¬(384 ≤ c || x.mapped || x.scrubLogged) →
    let s := s.reach (tgetD 0 x.scrubbed x.scrubPos + 604800 * secNs);
    exec (.scrubAge c) z = .next (State.settle
      ((s.modChan c fun y => { y with scrubLogged := true }).logEv evScrubAge 0xFF#8 0#16 c))) ∧
  -- CORRECTED_WRITEBACK (R220)
  (∀ (c : Nat) (s : State),
    exec (.correctedWriteback c) s = .next (State.settle (s.modChan c fun x => { x with writeback := x.writeback.drop 1 }))) ∧
  -- CHANNEL_MAPOUT_DECISION (R227)
  (∀ (c : Nat) (s : State),
    let x := s.hbm.chan c;
    let corr := (x.corrTimes.filter fun u => s.t < u + 3600 * secNs).length;
    let unc := (x.uncTimes.filter fun u => s.t < u + 86400 * secNs).length;
    ¬(384 ≤ c || x.mapped || x.migrating.isSome || x.degraded) →
    (1000 < corr || 2 ≤ unc || 2 ≤ x.calFails) →
    exec (.channelMapoutDecision c) s = .next (State.settle (s.startMapout c 0#64 false))) ∧
  -- MAPOUT_FRAME_SWITCH (R228)
  (∀ (c : Nat) (bad : List Nat) (lines : Nat) (z : State),
    let s := z;
    let x := s.hbm.chan c;
    ¬(x.migrating.isNone || x.noMigrate || 1024 ≤ x.switched) →
    let here := bad.filter fun a => match s.hbmSpot a with
      | some e => e.1 = c && e.2.1 = x.switched
      | none => false;
    let s := here.foldl (fun s a => s.poisonLine a) s;
    let s := s.modChan c fun y => { y with switched := y.switched + 1,
                                           linesPoisoned := y.linesPoisoned + min 8192 (max lines here.length) };
    (x.switched + 1 = 1024) →
    exec (.mapoutFrameSwitch c bad lines) z = .next (State.settle (s.finishMapout c))) ∧
  (∀ (c : Nat) (bad : List Nat) (lines : Nat) (z : State),
    let s := z;
    let x := s.hbm.chan c;
    ¬(x.migrating.isNone || x.noMigrate || 1024 ≤ x.switched) →
    let here := bad.filter fun a => match s.hbmSpot a with
      | some e => e.1 = c && e.2.1 = x.switched
      | none => false;
    let s := here.foldl (fun s a => s.poisonLine a) s;
    let s := s.modChan c fun y => { y with switched := y.switched + 1,
                                           linesPoisoned := y.linesPoisoned + min 8192 (max lines here.length) };
    ¬(x.switched + 1 = 1024) →
    exec (.mapoutFrameSwitch c bad lines) z = .next (State.settle (s))) ∧
  -- MAPOUT_RETRY (R227)
  (∀ (c : Nat) (s : State),
    let x := s.hbm.chan c;
    (x.degraded && !x.mapped && x.migrating.isNone && (s.hbm.substitutes c).isSome) →
    exec (.mapoutRetry c) s = .next (State.settle (s.startMapout c 0#64 false))) ∧
  -- MAPOUT_POISON_COMPLETE (R228)
  (∀ (c : Nat) (z : State),
    let s := z;
    let x := s.hbm.chan c;
    ¬(x.migrating.isNone || !x.noMigrate) →
    let s := (s.linesOn c).foldl (fun s a => s.poisonLine a) s;
    exec (.mapoutPoisonComplete c) z = .next (State.settle
      ((s.modChan c fun y => { y with linesPoisoned := 1024 * 8192 }).finishMapout c)))

/-- NVW programming, erase and seal ends, zeroing and host transfers have their effects: NVW_TILE_PROGRAMMED,
NVW_PATROL, NVW_RELOCATION_SWITCH, ZEROING_COMPLETE, NVW_ERASE_COMPLETE, NVW_SEAL_DIGEST_COMPLETE,
PCIE_READ_COMPLETION, PCIE_COMPLETION_TIMEOUT (R191, R215, R230, R232, R235, R238). -/
def Obligations.FlashAndHostTransferEvents : Prop :=
  -- NVW_TILE_PROGRAMMED (R232)
  (∀ (w : BitVec 64) (ok : Bool) (s : State),
    ∀ p',
    (s.nvwProgs.find? fun p => p.wid = w) = some p' →
    let p := p';
    ∀ l,
    tget s.allocs p.region = some l →
    let n := s.progDone p;
    let i := p.start + n;
    let k := nvwStackOf l (i * tileBytes);
    ¬((s.nvwStack k).deferred || s.part.mastersStopped) →
    ∀ s' fin,
    s.progTile p n = (s', none, fin) →
    (fin) →
    exec (.nvwTileProgrammed w ok) s = .next (State.settle (s'.endProg p stOk))) ∧
  (∀ (w : BitVec 64) (ok : Bool) (s : State),
    ∀ p',
    (s.nvwProgs.find? fun p => p.wid = w) = some p' →
    let p := p';
    ∀ l,
    tget s.allocs p.region = some l →
    let n := s.progDone p;
    let i := p.start + n;
    let k := nvwStackOf l (i * tileBytes);
    ¬((s.nvwStack k).deferred || s.part.mastersStopped) →
    ∀ s' fin,
    s.progTile p n = (s', none, fin) →
    ¬(fin) →
    exec (.nvwTileProgrammed w ok) s = .next (State.settle (s'))) ∧
  (∀ (w : BitVec 64) (ok : Bool) (s : State),
    ∀ p',
    (s.nvwProgs.find? fun p => p.wid = w) = some p' →
    let p := p';
    ∀ l,
    tget s.allocs p.region = some l →
    let n := s.progDone p;
    let i := p.start + n;
    let k := nvwStackOf l (i * tileBytes);
    ¬((s.nvwStack k).deferred || s.part.mastersStopped) →
    ∀ s' bs bad x1,
    s.progTile p n = (s', some (bs, bad), x1) →
    (bad) →
    exec (.nvwTileProgrammed w ok) s = .next (State.settle (s'.endProg p stNvwPoisonRefused))) ∧
  (∀ (w : BitVec 64) (ok : Bool) (s : State),
    ∀ p',
    (s.nvwProgs.find? fun p => p.wid = w) = some p' →
    let p := p';
    ∀ l,
    tget s.allocs p.region = some l →
    let n := s.progDone p;
    let i := p.start + n;
    let k := nvwStackOf l (i * tileBytes);
    ¬((s.nvwStack k).deferred || s.part.mastersStopped) →
    ∀ s' bs bad x1,
    s.progTile p n = (s', some (bs, bad), x1) →
    ¬(bad) →
    let fresh := (s'.nvwProgs.find? fun x => x.wid = w).getD p;
    let again := p.verify && !ok;
    let blk := blockOf l i;
    let s' := if again then (match blk.1 with | some b => s'.replaceBlocks [b] | none => s') else s';
    let r := if p.stream != 0 then (s', bs) else
      ((s'.landIn areaTransit tileBytes bs []).1, (s'.landIn areaTransit tileBytes bs []).2.1);
    let s' := r.1;
    let bs := r.2;
    let s' := (s'.store (p.region + i * tileBytes) bs).modAlloc p.region fun x => { x with programmed := i + 1 };
    let p' : NvwProg := { fresh with reprog := fresh.reprog + (if again then blk.2 + 1 else 0) };
    let s' : State := { s' with nvwProgs := s'.nvwProgs.map fun x => if x.wid = w then p' else x };
    (n + 1 = p.tiles) →
    exec (.nvwTileProgrammed w ok) s = .next (State.settle (s'.endProg p' stOk))) ∧
  (∀ (w : BitVec 64) (ok : Bool) (s : State),
    ∀ p',
    (s.nvwProgs.find? fun p => p.wid = w) = some p' →
    let p := p';
    ∀ l,
    tget s.allocs p.region = some l →
    let n := s.progDone p;
    let i := p.start + n;
    let k := nvwStackOf l (i * tileBytes);
    ¬((s.nvwStack k).deferred || s.part.mastersStopped) →
    ∀ s' bs bad x1,
    s.progTile p n = (s', some (bs, bad), x1) →
    ¬(bad) →
    let fresh := (s'.nvwProgs.find? fun x => x.wid = w).getD p;
    let again := p.verify && !ok;
    let blk := blockOf l i;
    let s' := if again then (match blk.1 with | some b => s'.replaceBlocks [b] | none => s') else s';
    let r := if p.stream != 0 then (s', bs) else
      ((s'.landIn areaTransit tileBytes bs []).1, (s'.landIn areaTransit tileBytes bs []).2.1);
    let s' := r.1;
    let bs := r.2;
    let s' := (s'.store (p.region + i * tileBytes) bs).modAlloc p.region fun x => { x with programmed := i + 1 };
    let p' : NvwProg := { fresh with reprog := fresh.reprog + (if again then blk.2 + 1 else 0) };
    let s' : State := { s' with nvwProgs := s'.nvwProgs.map fun x => if x.wid = w then p' else x };
    ¬(n + 1 = p.tiles) →
    exec (.nvwTileProgrammed w ok) s = .next (State.settle (s'))) ∧
  -- NVW_PATROL (R238)
  (∀ (stack : Nat) (block : Nat) (relocate : Bool) (s : State),
    ¬(4 ≤ stack || !(s.nvwUsed stack).contains block) →
    exec (.nvwPatrol stack block relocate) s = .next (State.settle
      (s.modNvw stack fun n => { n with patrol := tput n.patrol block s.t,
                                        reloc := if relocate then insNat block n.reloc else n.reloc }))) ∧
  -- NVW_RELOCATION_SWITCH (R238)
  (∀ (stack : Nat) (block : Nat) (z : State),
    let s := z;
    ¬(!(s.nvwStack stack).reloc.contains block || (s.nvwStack stack).deferred || (s.nvwSpare stack).isNone) →
    let s := s.swapBlock stack block;
    let s := s.modNvw stack fun n => { n with reloc := n.reloc.filter fun b => b != block };
    exec (.nvwRelocationSwitch stack block) z = .next (State.settle ((s.cycleBlocks [(stack, block)]).1))) ∧
  -- ZEROING_COMPLETE (R215)
  (∀ (w : BitVec 64) (z0 : State),
    let s := z0;
    ∀ z',
    (s.hbm.zeroing.find? fun z => z.wid = w) = some z' →
    let z := z';
    let s : State := { s with hbm := { s.hbm with zeroing := s.hbm.zeroing.filter fun y => y.wid != w } };
    z.pattern = none →
    exec (.zeroingComplete w) z0 = .next (State.settle (s.complete w stOk (BitVec.ofNat 64 z.addr)))) ∧
  (∀ (w : BitVec 64) (z0 : State),
    let s := z0;
    ∀ z',
    (s.hbm.zeroing.find? fun z => z.wid = w) = some z' →
    let z := z';
    let s : State := { s with hbm := { s.hbm with zeroing := s.hbm.zeroing.filter fun y => y.wid != w } };
    ∀ pat,
    z.pattern = some pat →
    let lost := (lineAddrs z.addr z.len).filter fun l => s.parkLost (max l z.addr);
    (lost.isEmpty) →
    exec (.zeroingComplete w) z0 = .next (State.settle
      ((s.store z.addr (patternBytes pat z.len)).complete w stOk (BitVec.ofNat 64 z.len)))) ∧
  (∀ (w : BitVec 64) (z0 : State),
    let s := z0;
    ∀ z',
    (s.hbm.zeroing.find? fun z => z.wid = w) = some z' →
    let z := z';
    let s : State := { s with hbm := { s.hbm with zeroing := s.hbm.zeroing.filter fun y => y.wid != w } };
    ∀ pat,
    z.pattern = some pat →
    let lost := (lineAddrs z.addr z.len).filter fun l => s.parkLost (max l z.addr);
    ¬(lost.isEmpty) →
    let keep := (lineAddrs z.addr z.len).filter fun l => !lost.contains l;
    let size := fun (l : Nat) => min (l + 256) (z.addr + z.len) - max l z.addr;
    let s := keep.foldl (fun s l =>
      s.store (max l z.addr) (((patternBytes pat z.len).drop (max l z.addr - z.addr)).take (size l))) s;
    exec (.zeroingComplete w) z0 = .next (State.settle (s.complete w stParkLost (BitVec.ofNat 64 (sumNat (keep.map size)))))) ∧
  (∀ (w : BitVec 64) (s : State),
    (s.hbm.zeroing.find? fun z => z.wid = w) = none →
    (s.waits.any fun x => x.wid = w && (match x.kind with | .destroyZero _ => true | _ => false)) →
    exec (.zeroingComplete w) s = .next (State.settle (s.complete w stOk))) ∧
  -- NVW_ERASE_COMPLETE (R230)
  (∀ (w : BitVec 64) (fails : List (Nat × Nat)) (s : State),
    ∀ x',
    (s.waits.find? fun x => x.wid = w) = some x' →
    let x := x';
    ∀ a rel,
    x.kind = .erase a rel →
    tget s.allocs a = none →
    exec (.nvwEraseComplete w fails) s = .next (State.settle (s.complete w stBadAlloc))) ∧
  (∀ (w : BitVec 64) (fails : List (Nat × Nat)) (z : State),
    let s := z;
    ∀ x',
    (s.waits.find? fun x => x.wid = w) = some x' →
    let x := x';
    ∀ a rel,
    x.kind = .erase a rel →
    ∀ l,
    tget s.allocs a = some l →
    let s := (s.wipe a l).eraseBlocks l fails;
    let s := s.modAlloc a fun y => { y with nvw := .erased, programmed := 0, torn := none, digest := [], keyTag := [] };
    let s : State := { s with kryto := { s.kryto with measures := tdel s.kryto.measures a } };
    exec (.nvwEraseComplete w fails) z = .next (State.settle ((if rel then s.release a else s).complete w stOk))) ∧
  -- NVW_SEAL_DIGEST_COMPLETE (R235)
  (∀ (w : BitVec 64) (s : State),
    ∀ x',
    (s.waits.find? fun x => x.wid = w) = some x' →
    let x := x';
    ∀ a buf expect,
    x.kind = .seal a buf expect →
    tget s.allocs a = none →
    exec (.nvwSealDigestComplete w) s = .next (State.settle (s.complete w stBadAlloc))) ∧
  (∀ (w : BitVec 64) (z : State),
    let s := z;
    ∀ x',
    (s.waits.find? fun x => x.wid = w) = some x' →
    let x := x';
    ∀ a buf expect,
    x.kind = .seal a buf expect →
    ∀ l,
    tget s.allocs a = some l →
    let d := sha384 (s.bytes a l.len);
    let s := s.lateWrite (s.fnOf w) buf.toNat d;
    (!expect.isEmpty && expect != d) →
    exec (.nvwSealDigestComplete w) z = .next (State.settle (s.complete w stImageDigest))) ∧
  (∀ (w : BitVec 64) (z : State),
    let s := z;
    ∀ x',
    (s.waits.find? fun x => x.wid = w) = some x' →
    let x := x';
    ∀ a buf expect,
    x.kind = .seal a buf expect →
    ∀ l,
    tget s.allocs a = some l →
    let d := sha384 (s.bytes a l.len);
    let s := s.lateWrite (s.fnOf w) buf.toNat d;
    ¬(!expect.isEmpty && expect != d) →
    let s := s.modAlloc a fun y => { y with nvw := .sealed, digest := d };
    let s : State := if l.owner = 15 then { s with kryto := { s.kryto with measures := tput s.kryto.measures a d } } else s;
    exec (.nvwSealDigestComplete w) z = .next (State.settle (s.complete w stOk))) ∧
  -- PCIE_READ_COMPLETION (R191)
  (∀ (w : BitVec 64) (tile : Nat) (data : Option (List Byte)) (s : State),
    let bad := data.isNone;
    let bytes := match data with | some d => slice d 0 tileBytes | none => List.replicate tileBytes 0#8;
    ∀ b,
    s.bindOf w = some b →
    ∀ st,
    tget s.streams b.handle = some st →
    ¬(!b.host || b.consumer.isSome || b.tiles ≤ tile || st.state != .opened || !st.credit (b.base + tile) ||
       b.doneTiles.contains tile || b.landed.any (fun e => e.1 = tile)) →
    let lines := (List.range 64).map fun j => (tile, j, bad, (bytes.drop (256 * j)).take 256);
    exec (.pcieReadCompletion w tile data) s = .next (State.settle
      (s.modBind w fun x => { x with landed := x.landed ++ lines }))) ∧
  (∀ (w : BitVec 64) (tile : Nat) (data : Option (List Byte)) (s : State),
    let bad := data.isNone;
    let bytes := match data with | some d => slice d 0 tileBytes | none => List.replicate tileBytes 0#8;
    s.bindOf w = none →
    let progs := s.nvwProgs.map fun p =>
      if p.wid = w && p.stream = 0 && p.src / 2 ^ 56 != 0xFA && tile < p.tiles && !p.staged.any (fun e => e.1 = tile) then
        { p with staged := p.staged ++ [(tile, bad, bytes)] }
      else p;
    exec (.pcieReadCompletion w tile data) s = .next (State.settle ({ s with nvwProgs := progs }))) ∧
  -- PCIE_COMPLETION_TIMEOUT (R191)
  (∀ (w : BitVec 64) (tile : Nat) (s : State),
    let data : Option (List Byte) := none;
    let bad := data.isNone;
    let bytes := match data with | some d => slice d 0 tileBytes | none => List.replicate tileBytes 0#8;
    ∀ b,
    s.bindOf w = some b →
    ∀ st,
    tget s.streams b.handle = some st →
    ¬(!b.host || b.consumer.isSome || b.tiles ≤ tile || st.state != .opened || !st.credit (b.base + tile) ||
       b.doneTiles.contains tile || b.landed.any (fun e => e.1 = tile)) →
    let lines := (List.range 64).map fun j => (tile, j, bad, (bytes.drop (256 * j)).take 256);
    exec (.pcieCompletionTimeout w tile) s = .next (State.settle
      (s.modBind w fun x => { x with landed := x.landed ++ lines }))) ∧
  (∀ (w : BitVec 64) (tile : Nat) (s : State),
    let data : Option (List Byte) := none;
    let bad := data.isNone;
    let bytes := match data with | some d => slice d 0 tileBytes | none => List.replicate tileBytes 0#8;
    s.bindOf w = none →
    let progs := s.nvwProgs.map fun p =>
      if p.wid = w && p.stream = 0 && p.src / 2 ^ 56 != 0xFA && tile < p.tiles && !p.staged.any (fun e => e.1 = tile) then
        { p with staged := p.staged ++ [(tile, bad, bytes)] }
      else p;
    exec (.pcieCompletionTimeout w tile) s = .next (State.settle ({ s with nvwProgs := progs })))

/-- The model, adapter and rollout ring commands complete with their effects: GEN_MODEL_REGISTER,
GEN_MODEL_REGISTER_EXPERT, GEN_MODEL_RELEASE, GEN_MODEL_RELEASE_EXPERT, GEN_ADAPTER_LOAD, GEN_ADAPTER_LOAD_EXPERT,
GEN_ADAPTER_UNLOAD, GEN_ADAPTER_UNLOAD_EXPERT, GEN_RING_CREATE, GEN_RING_CREATE_EXPERT, GEN_RING_ADVANCE,
GEN_RING_ADVANCE_EXPERT (R247, R249, R251, R273, R276). -/
def Obligations.ModelAndRingCommands : Prop :=
  -- GEN_MODEL_REGISTER (R247)
  (∀ (z : State) (wid : BitVec 64) (hm : HostImage) (c : Cmd), z.ready 0x0301 wid hm = some c →
    let s := z.markDispatched wid;
    let owner : Nat := c.pad;
    let wanted : Nat := 0xFFFFFFFF;
    (thas s.paddocks owner) →
    let quota := ((tget s.paddocks owner).map (·.models)).getD 0;
    (s.gen.models.length < 16 && (s.gen.models.filter fun e => e.2.paddock = owner).length < quota) →
    ∀ d x1,
    s.readBuf c (c.u64 0) 512 = .ok (d, x1) →
    let m := modelOf d owner;
    (descRanges d m && s.weightsIn m && s.padRange owner m.pool.toNat (m.berthCount * m.berthBytes) .hbm &&
      (m.parkArea = 0#64 || s.padRange owner m.parkArea.toNat (m.parkSlots * m.berthBytes) .park)) →
    let digest := slice d 336 48;
    let sealed := match s.allocAt m.weights.toNat with
      | some e => if e.2.tier = .nvw then some e.2.digest else none
      | none => none;
    (digest.all (fun b => b = 0#8) || sealed.isNone || sealed = some digest) →
    ∀ n,
    (if wanted = 0xFFFFFFFF then s.freeModel else if wanted < 16 && !thas s.gen.models wanted then .ok wanted
      else fail stBadParam : Except Err _) = .ok n →
    exec (.genModelRegister wid hm) z = .next (State.settle
      ({ s with gen := { s.gen with models := tput s.gen.models n m } }.ok c n))) ∧
  -- GEN_MODEL_REGISTER_EXPERT (R247)
  (∀ (z : State) (wid : BitVec 64) (hm : HostImage) (c : Cmd), z.ready 0x0381 wid hm = some c →
    let s := z.markDispatched wid;
    (c.mgmt || c.u32 12 = c.pad) →
    let owner : Nat := c.u32 12;
    let wanted : Nat := c.u32 8;
    (thas s.paddocks owner) →
    let quota := ((tget s.paddocks owner).map (·.models)).getD 0;
    (s.gen.models.length < 16 && (s.gen.models.filter fun e => e.2.paddock = owner).length < quota) →
    ∀ d x1,
    s.readBuf c (c.u64 0) 512 = .ok (d, x1) →
    let m := modelOf d owner;
    (descRanges d m && s.weightsIn m && s.padRange owner m.pool.toNat (m.berthCount * m.berthBytes) .hbm &&
      (m.parkArea = 0#64 || s.padRange owner m.parkArea.toNat (m.parkSlots * m.berthBytes) .park)) →
    let digest := slice d 336 48;
    let sealed := match s.allocAt m.weights.toNat with
      | some e => if e.2.tier = .nvw then some e.2.digest else none
      | none => none;
    (digest.all (fun b => b = 0#8) || sealed.isNone || sealed = some digest) →
    ∀ n,
    (if wanted = 0xFFFFFFFF then s.freeModel else if wanted < 16 && !thas s.gen.models wanted then .ok wanted
      else fail stBadParam : Except Err _) = .ok n →
    exec (.genModelRegisterExpert wid hm) z = .next (State.settle
      ({ s with gen := { s.gen with models := tput s.gen.models n m } }.ok c n))) ∧
  -- GEN_MODEL_RELEASE (R249)
  (∀ (z : State) (wid : BitVec 64) (c : Cmd), z.ready 0x0302 wid [] = some c →
    let s := z.markDispatched wid;
    ∀ x1,
    s.ownModel c (c.u32 0) = .ok x1 →
    (s.modelUnused (c.u32 0)) →
    exec (.genModelRelease wid) z = .next (State.settle ((s.dropModel (c.u32 0)).ok c))) ∧
  -- GEN_MODEL_RELEASE_EXPERT (R249)
  (∀ (z : State) (wid : BitVec 64) (c : Cmd), z.ready 0x0382 wid [] = some c →
    let s := z.markDispatched wid;
    ∀ x1,
    s.ownModel c (c.u32 0) = .ok x1 →
    (c.flag 4 || s.modelUnused (c.u32 0)) →
    exec (.genModelReleaseExpert wid) z = .next (State.settle (s.wait c.w (.modelFree (c.u32 0))))) ∧
  -- GEN_ADAPTER_LOAD (R251)
  (∀ (z : State) (wid : BitVec 64) (c : Cmd), z.ready 0x0303 wid [] = some c →
    let s := z.markDispatched wid;
    let fmt : Nat := 0;
    ∀ m,
    s.ownModel c (c.u32 0) = .ok m →
    let rank := c.u32 4;
    (1 ≤ rank && rank ≤ 256 && fmt ≤ 1 && (fmt = 0 || rank % 32 = 0)) →
    (s.padRange m.paddock (c.u64 8) 1 .hbm) →
    let quota := ((tget s.paddocks m.paddock).map (·.adapters)).getD 0;
    (s.gen.adapters.length < 4096 && (s.gen.adapters.filter fun e => e.2.paddock = m.paddock).length < quota) →
    ∀ h,
    (leastFree (fun k => thas s.gen.adapters k) 0 4096) = some h →
    let a : Adapter := { paddock := m.paddock, model := c.u32 0, rank := rank, fmt := fmt, addr := BitVec.ofNat 64 (c.u64 8) };
    exec (.genAdapterLoad wid) z = .next (State.settle
      ({ s with gen := { s.gen with adapters := tput s.gen.adapters h a } }.ok c h))) ∧
  -- GEN_ADAPTER_LOAD_EXPERT (R251)
  (∀ (z : State) (wid : BitVec 64) (c : Cmd), z.ready 0x0383 wid [] = some c →
    let s := z.markDispatched wid;
    let fmt : Nat := c.u32 16;
    ∀ m,
    s.ownModel c (c.u32 0) = .ok m →
    let rank := c.u32 4;
    (1 ≤ rank && rank ≤ 256 && fmt ≤ 1 && (fmt = 0 || rank % 32 = 0)) →
    (s.padRange m.paddock (c.u64 8) 1 .hbm) →
    let quota := ((tget s.paddocks m.paddock).map (·.adapters)).getD 0;
    (s.gen.adapters.length < 4096 && (s.gen.adapters.filter fun e => e.2.paddock = m.paddock).length < quota) →
    ∀ h,
    (leastFree (fun k => thas s.gen.adapters k) 0 4096) = some h →
    let a : Adapter := { paddock := m.paddock, model := c.u32 0, rank := rank, fmt := fmt, addr := BitVec.ofNat 64 (c.u64 8) };
    exec (.genAdapterLoadExpert wid) z = .next (State.settle
      ({ s with gen := { s.gen with adapters := tput s.gen.adapters h a } }.ok c h))) ∧
  -- GEN_ADAPTER_UNLOAD (R251)
  (∀ (z : State) (wid : BitVec 64) (c : Cmd), z.ready 0x0304 wid [] = some c →
    let s := z.markDispatched wid;
    let wait : Bool := false;
    ∀ a,
    tget s.gen.adapters (c.u32 0) = some a →
    ¬(a.paddock != c.pad) →
    ¬(s.adapterUsed (c.u32 0) && !wait) →
    exec (.genAdapterUnload wid) z = .next (State.settle (s.wait c.w (.adapterFree (c.u32 0))))) ∧
  -- GEN_ADAPTER_UNLOAD_EXPERT (R251)
  (∀ (z : State) (wid : BitVec 64) (c : Cmd), z.ready 0x0384 wid [] = some c →
    let s := z.markDispatched wid;
    let wait : Bool := c.flag 4;
    ∀ a,
    tget s.gen.adapters (c.u32 0) = some a →
    ¬(a.paddock != c.pad) →
    ¬(s.adapterUsed (c.u32 0) && !wait) →
    exec (.genAdapterUnloadExpert wid) z = .next (State.settle (s.wait c.w (.adapterFree (c.u32 0))))) ∧
  -- GEN_RING_CREATE (R273)
  (∀ (z : State) (wid : BitVec 64) (c : Cmd), z.ready 0x0305 wid [] = some c →
    let s := z.markDispatched wid;
    let low : Nat := 0;
    (!c.mgmt) →
    let n := c.u32 8;
    (1024 ≤ n && n ≤ 67108864 && 2 ^ n.log2 = n) →
    ∀ l,
    s.resolve c (c.u64 0) (256 + 32 * n) true = .ok l →
    ((match l with
      | .host _ => true
      | .part a _ => s.padRange c.pad a (256 + 32 * n) .hbm : Bool)) →
    (s.gen.rings.length < 512 && (s.gen.rings.filter fun e => e.2.paddock = c.pad).length < 64) →
    let p1 := s.pick (fun k => thas s.gen.rings k) 1 65535;
    let h := p1.1;
    let s1 := p1.2;
    let hd := h.getD 1;
    let g : RRing := { paddock := c.pad, fn := c.fn, addr := BitVec.ofNat 64 (c.u64 0), host := (match l with | .host _ => true | _ => false),
                       records := n, write := 0, read := 0, lowWater := low, below := n < low, held := [] };
    let s2 : State := { s1 with gen := { s1.gen with rings := tput s1.gen.rings hd g } };
    exec (.genRingCreate wid) z = .next (State.settle ((s2.ringStore g 0 (List.replicate 16 0#8)).ok c hd))) ∧
  -- GEN_RING_CREATE_EXPERT (R273)
  (∀ (z : State) (wid : BitVec 64) (c : Cmd), z.ready 0x0385 wid [] = some c →
    let s := z.markDispatched wid;
    let low : Nat := c.u32 12;
    (!c.mgmt) →
    let n := c.u32 8;
    (1024 ≤ n && n ≤ 67108864 && 2 ^ n.log2 = n) →
    ∀ l,
    s.resolve c (c.u64 0) (256 + 32 * n) true = .ok l →
    ((match l with
      | .host _ => true
      | .part a _ => s.padRange c.pad a (256 + 32 * n) .hbm : Bool)) →
    (s.gen.rings.length < 512 && (s.gen.rings.filter fun e => e.2.paddock = c.pad).length < 64) →
    let p1 := s.pick (fun k => thas s.gen.rings k) 1 65535;
    let h := p1.1;
    let s1 := p1.2;
    let hd := h.getD 1;
    let g : RRing := { paddock := c.pad, fn := c.fn, addr := BitVec.ofNat 64 (c.u64 0), host := (match l with | .host _ => true | _ => false),
                       records := n, write := 0, read := 0, lowWater := low, below := n < low, held := [] };
    let s2 : State := { s1 with gen := { s1.gen with rings := tput s1.gen.rings hd g } };
    exec (.genRingCreateExpert wid) z = .next (State.settle ((s2.ringStore g 0 (List.replicate 16 0#8)).ok c hd))) ∧
  -- GEN_RING_ADVANCE (R276)
  (∀ (z : State) (wid : BitVec 64) (c : Cmd), z.ready 0x0306 wid [] = some c →
    let s := z.markDispatched wid;
    ∀ s',
    s.ringAdvance c = .ok s' →
    let s := s';
    exec (.genRingAdvance wid) z = .next (State.settle (s.ok c))) ∧
  -- GEN_RING_ADVANCE_EXPERT (R276)
  (∀ (z : State) (wid : BitVec 64) (c : Cmd), z.ready 0x0386 wid [] = some c →
    let s := z.markDispatched wid;
    ∀ s',
    s.ringAdvance c = .ok s' →
    let s := s';
    exec (.genRingAdvanceExpert wid) z = .next (State.settle (s.wait c.w (.ringAdv (c.u32 0) (c.u64 12)))))

/-- The generation loop commands and events complete with their effects: GEN_LOOP_START, GEN_LOOP_START_EXPERT,
GEN_LOOP_STOP, GEN_LOOP_STOP_EXPERT, GEN_LOOP_QUERY, GEN_LOOP_QUERY_EXPERT, STEP_BOUNDARY, AUTO_PARK, AUTO_RESUME,
SEQUENCE_EXPIRY, EVICTION_COMPLETE, BERTH_FETCH_COMPLETE, LIST_FORWARD_ARRIVAL (R257, R258, R259, R264, R283, R284,
R285, R286, R289, R290). -/
def Obligations.GenerationLoopCommands : Prop :=
  -- GEN_LOOP_START (R257)
  (∀ (z : State) (wid : BitVec 64) (c : Cmd), z.ready 0x0307 wid [] = some c →
    let s := z.markDispatched wid;
    let q : LoopReq := { mask := [], members := [], seqLimit := 32768, budget := 65536, chunk := 8192, lists := 0 };
    (!c.mgmt) →
    let m := c.u32 0;
    ∀ md,
    s.ownModel c m = .ok md →
    (!thas s.gen.loops m && s.gen.loops.length < 16) →
    (1 ≤ q.seqLimit && q.seqLimit ≤ 32768 && 1 ≤ q.budget && q.budget ≤ 524288 && 1 ≤ q.chunk && q.chunk ≤ 65536) →
    (q.members.eraseDups.length = q.members.length && !q.members.contains s.part.partId) →
    ∀ k,
    s.kernelOf c (c.u32 4) = .ok k →
    (!k.unloading) →
    let teams := s.allotment c.pad;
    let n := c.u32 8;
    (k.teamsMin ≤ n && n ≤ k.teamsMax && n ≤ teams.length) →
    (q.mask.isEmpty || (q.mask.length = n && q.mask.all fun l => teams.contains l)) →
    ∀ buf own s1,
    s.listBuffers c.pad q.lists q.seqLimit = .ok (buf, own, s1) →
    ∀ area tier s2,
    s1.saveArea c.pad (n * 16 * (9216 + k.window * 4096)) false = .ok (area, tier, s2) →
    ∀ r s3,
    s2.loopBarrier c.pad = .ok (r, s3) →
    ∀ d s4,
    s3.loopBarrier c.pad = .ok (d, s4) →
    let lq : LaunchReq := { kernel := c.u32 4, teams := n, args := 0, mask := q.mask, ctx := 0xFF, cls := 0, grace := 2000,
                            limit := 0, saveTier := 0, excBuf := 0 };
    let t := { newTask c.pad lq 0 area tier s.t s.nextOrder with loopModel := some m };
    let s5 : State := { s4 with
      tasks := (s4.tasks.filter fun e => e.1 != c.w) ++ [(c.w, t)]
      gen := { s4.gen with loops := tput s4.gen.loops m (newLoop c.w c.pad (c.u32 4) true q buf own r d) } };
    let s6 := s5.modModel m fun x => { x with turn := some .generating };
    let s7 := match s6.layoutOf m with
      | some (h, l) => (match l.active with | some k => s6.writeSlot h k | none => s6)
      | none => s6;
    let s8 := match tget s7.gen.loops m with
      | some l => s7.tellMembers m l (.start s.part.partId (c.u32 4) n q.mask md.berthCount q.seqLimit q.budget q.chunk)
      | none => s7;
    exec (.genLoopStart wid) z = .next (State.settle (s8.build m 0))) ∧
  -- GEN_LOOP_START_EXPERT (R258)
  (∀ (z : State) (wid : BitVec 64) (c : Cmd), z.ready 0x0387 wid [] = some c →
    let s := z.markDispatched wid;
    let q : LoopReq := { mask := maskBits (slice c.p 16 40),
                             members := ((List.range 7).map fun i => BitVec.ofNat 16 (c.u16 (56 + 2 * i))).filter fun p => p != 0#16,
                             seqLimit := c.u32 72, budget := c.u32 76, chunk := c.u32 80, lists := c.u64 84 };
    (!c.mgmt) →
    let m := c.u32 0;
    ∀ md,
    s.ownModel c m = .ok md →
    (!thas s.gen.loops m && s.gen.loops.length < 16) →
    (1 ≤ q.seqLimit && q.seqLimit ≤ 32768 && 1 ≤ q.budget && q.budget ≤ 524288 && 1 ≤ q.chunk && q.chunk ≤ 65536) →
    (q.members.eraseDups.length = q.members.length && !q.members.contains s.part.partId) →
    ∀ k,
    s.kernelOf c (c.u32 4) = .ok k →
    (!k.unloading) →
    let teams := s.allotment c.pad;
    let n := c.u32 8;
    (k.teamsMin ≤ n && n ≤ k.teamsMax && n ≤ teams.length) →
    (q.mask.isEmpty || (q.mask.length = n && q.mask.all fun l => teams.contains l)) →
    ∀ buf own s1,
    s.listBuffers c.pad q.lists q.seqLimit = .ok (buf, own, s1) →
    ∀ area tier s2,
    s1.saveArea c.pad (n * 16 * (9216 + k.window * 4096)) false = .ok (area, tier, s2) →
    ∀ r s3,
    s2.loopBarrier c.pad = .ok (r, s3) →
    ∀ d s4,
    s3.loopBarrier c.pad = .ok (d, s4) →
    let lq : LaunchReq := { kernel := c.u32 4, teams := n, args := 0, mask := q.mask, ctx := 0xFF, cls := 0, grace := 2000,
                            limit := 0, saveTier := 0, excBuf := 0 };
    let t := { newTask c.pad lq 0 area tier s.t s.nextOrder with loopModel := some m };
    let s5 : State := { s4 with
      tasks := (s4.tasks.filter fun e => e.1 != c.w) ++ [(c.w, t)]
      gen := { s4.gen with loops := tput s4.gen.loops m (newLoop c.w c.pad (c.u32 4) true q buf own r d) } };
    let s6 := s5.modModel m fun x => { x with turn := some .generating };
    let s7 := match s6.layoutOf m with
      | some (h, l) => (match l.active with | some k => s6.writeSlot h k | none => s6)
      | none => s6;
    let s8 := match tget s7.gen.loops m with
      | some l => s7.tellMembers m l (.start s.part.partId (c.u32 4) n q.mask md.berthCount q.seqLimit q.budget q.chunk)
      | none => s7;
    exec (.genLoopStartExpert wid) z = .next (State.settle (s8.build m 0))) ∧
  -- GEN_LOOP_STOP (R289)
  (∀ (z : State) (wid : BitVec 64) (c : Cmd), z.ready 0x0308 wid [] = some c →
    let s := z.markDispatched wid;
    let force : Bool := false;
    let m := c.u32 0;
    ∀ md,
    s.ownModel c m = .ok md →
    ∀ l,
    tget s.gen.loops m = some l →
    let s1 := s.modLoop m fun x => { x with stopping := x.stopping ++ [c.w] };
    (md.turn = some .drained || (force && md.turn = some .generating)) →
    exec (.genLoopStop wid) z = .next (State.settle (s1.endLoop m stOk .aborted))) ∧
  (∀ (z : State) (wid : BitVec 64) (c : Cmd), z.ready 0x0308 wid [] = some c →
    let s := z.markDispatched wid;
    let force : Bool := false;
    let m := c.u32 0;
    ∀ md,
    s.ownModel c m = .ok md →
    ∀ l,
    tget s.gen.loops m = some l →
    let s1 := s.modLoop m fun x => { x with stopping := x.stopping ++ [c.w] };
    ¬(md.turn = some .drained || (force && md.turn = some .generating)) →
    (md.turn = some .generating && !l.listed) →
    exec (.genLoopStop wid) z = .next (State.settle (s1.endLoop m stOk))) ∧
  (∀ (z : State) (wid : BitVec 64) (c : Cmd), z.ready 0x0308 wid [] = some c →
    let s := z.markDispatched wid;
    let force : Bool := false;
    let m := c.u32 0;
    ∀ md,
    s.ownModel c m = .ok md →
    ∀ l,
    tget s.gen.loops m = some l →
    let s1 := s.modLoop m fun x => { x with stopping := x.stopping ++ [c.w] };
    ¬(md.turn = some .drained || (force && md.turn = some .generating)) →
    ¬(md.turn = some .generating && !l.listed) →
    exec (.genLoopStop wid) z = .next (State.settle (s1))) ∧
  -- GEN_LOOP_STOP_EXPERT (R289)
  (∀ (z : State) (wid : BitVec 64) (c : Cmd), z.ready 0x0388 wid [] = some c →
    let s := z.markDispatched wid;
    let force : Bool := c.flag 4;
    let m := c.u32 0;
    ∀ md,
    s.ownModel c m = .ok md →
    ∀ l,
    tget s.gen.loops m = some l →
    let s1 := s.modLoop m fun x => { x with stopping := x.stopping ++ [c.w] };
    (md.turn = some .drained || (force && md.turn = some .generating)) →
    exec (.genLoopStopExpert wid) z = .next (State.settle (s1.endLoop m stOk .aborted))) ∧
  (∀ (z : State) (wid : BitVec 64) (c : Cmd), z.ready 0x0388 wid [] = some c →
    let s := z.markDispatched wid;
    let force : Bool := c.flag 4;
    let m := c.u32 0;
    ∀ md,
    s.ownModel c m = .ok md →
    ∀ l,
    tget s.gen.loops m = some l →
    let s1 := s.modLoop m fun x => { x with stopping := x.stopping ++ [c.w] };
    ¬(md.turn = some .drained || (force && md.turn = some .generating)) →
    (md.turn = some .generating && !l.listed) →
    exec (.genLoopStopExpert wid) z = .next (State.settle (s1.endLoop m stOk))) ∧
  (∀ (z : State) (wid : BitVec 64) (c : Cmd), z.ready 0x0388 wid [] = some c →
    let s := z.markDispatched wid;
    let force : Bool := c.flag 4;
    let m := c.u32 0;
    ∀ md,
    s.ownModel c m = .ok md →
    ∀ l,
    tget s.gen.loops m = some l →
    let s1 := s.modLoop m fun x => { x with stopping := x.stopping ++ [c.w] };
    ¬(md.turn = some .drained || (force && md.turn = some .generating)) →
    ¬(md.turn = some .generating && !l.listed) →
    exec (.genLoopStopExpert wid) z = .next (State.settle (s1))) ∧
  -- GEN_LOOP_QUERY (R290)
  (∀ (z : State) (wid : BitVec 64) (c : Cmd), z.ready 0x030F wid [] = some c →
    let s := z.markDispatched wid;
    ∀ x1,
    s.ownModel c (c.u32 0) = .ok x1 →
    ∀ l,
    tget s.gen.loops (c.u32 0) = some l →
    ∀ s1,
    s.writeBuf c (c.u64 4) (s.loopRecord (c.u32 0) l) = .ok s1 →
    exec (.genLoopQuery wid) z = .next (State.settle (s1.ok c))) ∧
  -- GEN_LOOP_QUERY_EXPERT (R290)
  (∀ (z : State) (wid : BitVec 64) (c : Cmd), z.ready 0x038F wid [] = some c →
    let s := z.markDispatched wid;
    let ls := s.gen.loops.filter fun e => e.2.paddock = c.pad;
    ∀ s1,
    s.writeBuf c (c.u64 0) (ls.flatMap fun e => s.loopRecord e.1 e.2) = .ok s1 →
    exec (.genLoopQueryExpert wid) z = .next (State.settle (s1.ok c))) ∧
  -- STEP_BOUNDARY (R259)
  (∀ (model : Nat) (fwd : List Forward) (z : State),
    let s := z;
    let m : Nat := model;
    ∀ l,
    tget s.gen.loops m = some l →
    ∀ md,
    tget s.gen.models m = some md →
    (s.stepEnds l) →
    (l.leader) →
    let s := if fwd.isEmpty then s else s.storeForward m md l fwd;
    let s := match tget s.barriers l.sampleDone with
      | some b => if b.phase ≤ l.step then s.arrive l.sampleDone else s
      | none => s;
    let s := s.applyResults m md l;
    let s := (s.applyCmds m (l.step + 1)).autoRelease m;
    let s := (s.fetched m).expireAll m;
    let turn := (tget s.gen.models m).bind (·.turn);
    (turn = some .draining) →
    exec (.stepBoundary model fwd) z = .next (State.settle (s))) ∧
  (∀ (model : Nat) (fwd : List Forward) (z : State),
    let s := z;
    let m : Nat := model;
    ∀ l,
    tget s.gen.loops m = some l →
    ∀ md,
    tget s.gen.models m = some md →
    (s.stepEnds l) →
    (l.leader) →
    let s := if fwd.isEmpty then s else s.storeForward m md l fwd;
    let s := match tget s.barriers l.sampleDone with
      | some b => if b.phase ≤ l.step then s.arrive l.sampleDone else s
      | none => s;
    let s := s.applyResults m md l;
    let s := (s.applyCmds m (l.step + 1)).autoRelease m;
    let s := (s.fetched m).expireAll m;
    let turn := (tget s.gen.models m).bind (·.turn);
    ¬(turn = some .draining) →
    ¬(l.stopping.isEmpty) →
    exec (.stepBoundary model fwd) z = .next (State.settle (s.endLoop m stOk))) ∧
  (∀ (model : Nat) (fwd : List Forward) (z : State),
    let s := z;
    let m : Nat := model;
    ∀ l,
    tget s.gen.loops m = some l →
    ∀ md,
    tget s.gen.models m = some md →
    (s.stepEnds l) →
    (l.leader) →
    let s := if fwd.isEmpty then s else s.storeForward m md l fwd;
    let s := match tget s.barriers l.sampleDone with
      | some b => if b.phase ≤ l.step then s.arrive l.sampleDone else s
      | none => s;
    let s := s.applyResults m md l;
    let s := (s.applyCmds m (l.step + 1)).autoRelease m;
    let s := (s.fetched m).expireAll m;
    let turn := (tget s.gen.models m).bind (·.turn);
    ¬(turn = some .draining) →
    (l.stopping.isEmpty) →
    (!s.weightsOk md) →
    exec (.stepBoundary model fwd) z = .next (State.settle (s.endLoop m stNotPermitted))) ∧
  (∀ (model : Nat) (fwd : List Forward) (z : State),
    let s := z;
    let m : Nat := model;
    ∀ l,
    tget s.gen.loops m = some l →
    ∀ md,
    tget s.gen.models m = some md →
    (s.stepEnds l) →
    (l.leader) →
    let s := if fwd.isEmpty then s else s.storeForward m md l fwd;
    let s := match tget s.barriers l.sampleDone with
      | some b => if b.phase ≤ l.step then s.arrive l.sampleDone else s
      | none => s;
    let s := s.applyResults m md l;
    let s := (s.applyCmds m (l.step + 1)).autoRelease m;
    let s := (s.fetched m).expireAll m;
    let turn := (tget s.gen.models m).bind (·.turn);
    ¬(turn = some .draining) →
    (l.stopping.isEmpty) →
    (s.weightsOk md) →
    exec (.stepBoundary model fwd) z = .next (State.settle (s.build m (l.step + 1)))) ∧
  (∀ (model : Nat) (fwd : List Forward) (z : State),
    let s := z;
    let m : Nat := model;
    ∀ l,
    tget s.gen.loops m = some l →
    ∀ md,
    tget s.gen.models m = some md →
    (s.stepEnds l) →
    ¬(l.leader) →
    let list := s.bytes (l.listBuf + l.step % 2 * listBytes l.seqLimit) (256 + 64 * l.seqLimit);
    let s := if fwd.isEmpty then s else s.storeMember md list fwd;
    let s := match tget s.barriers l.sampleDone with
      | some b => if b.phase ≤ l.step then s.arrive l.sampleDone else s
      | none => s;
    let s := s.modLoop m fun x => { x with listed := false, stepsRun := x.stepsRun + 1 };
    (l.stopping.isEmpty) →
    exec (.stepBoundary model fwd) z = .next (State.settle (s))) ∧
  (∀ (model : Nat) (fwd : List Forward) (z : State),
    let s := z;
    let m : Nat := model;
    ∀ l,
    tget s.gen.loops m = some l →
    ∀ md,
    tget s.gen.models m = some md →
    (s.stepEnds l) →
    ¬(l.leader) →
    let list := s.bytes (l.listBuf + l.step % 2 * listBytes l.seqLimit) (256 + 64 * l.seqLimit);
    let s := if fwd.isEmpty then s else s.storeMember md list fwd;
    let s := match tget s.barriers l.sampleDone with
      | some b => if b.phase ≤ l.step then s.arrive l.sampleDone else s
      | none => s;
    let s := s.modLoop m fun x => { x with listed := false, stepsRun := x.stepsRun + 1 };
    ¬(l.stopping.isEmpty) →
    exec (.stepBoundary model fwd) z = .next (State.settle (s.endLoop m stOk))) ∧
  -- AUTO_PARK (R286)
  (∀ (model : Nat) (z : State),
    let s := z;
    ∀ l,
    tget s.gen.loops model = some l →
    ∀ cand x1,
    ((s.candidates model).find? fun e => 8 ≤ e.2.berthSkips) = some (cand, x1) →
    let key := fun (e : Nat × Entry) => e.2.priority * 2 ^ 64 + (2 ^ 64 - e.2.admitSerial.toNat);
    ∀ v e,
    (sortOn key (s.parkable model l cand))[0]? = some (v, e) →
    ¬(s.slotsFree model = 0 || s.slotsFree model < e.map.length) →
    let s := s.modEntry v fun x => { x with parkNow := true, autoParked := true, deadline := 0#64 };
    let s := (s.setSeq v .held).startEvict v;
    exec (.autoPark model) z = .next (State.settle
      ((s.modEntry cand fun x => { x with berthSkips := 0 }).modLoop model fun x => { x with autoParks := x.autoParks + 1 }))) ∧
  -- AUTO_RESUME (R284)
  (∀ (entry : Nat) (s : State),
    ∀ e,
    tget s.gen.manifest entry = some e →
    let first := !(s.entriesOf e.model).any fun x => x.2.autoParked && (x.2.state = .held || x.2.state = .parked) &&
      x.2.admitSerial.toNat < e.admitSerial.toNat;
    ¬(!e.autoParked || (e.state != .held && e.state != .parked) || !first || s.berthsFree e.model ≤ e.berths) →
    exec (.autoResume entry) s = .next (State.settle ((s.wake entry e).startFetch entry))) ∧
  -- SEQUENCE_EXPIRY (R285)
  (∀ (entry : Nat) (s : State),
    ∀ e,
    tget s.gen.manifest entry = some e →
    ¬(s.looping e.model) →
    let s' := s.reach (e.deadline.toNat + 1);
    (s'.expires entry e s'.t) →
    exec (.sequenceExpiry entry) s = .next (State.settle (s'.terminate entry .expired stSeqExpired))) ∧
  (∀ (entry : Nat) (s : State),
    ∀ e,
    tget s.gen.manifest entry = some e →
    ¬(s.looping e.model) →
    let s' := s.reach (e.deadline.toNat + 1);
    ¬(s'.expires entry e s'.t) →
    exec (.sequenceExpiry entry) s = .next (State.settle (s))) ∧
  -- EVICTION_COMPLETE (R283)
  (∀ (entry : Nat) (ok : Bool) (s : State),
    ∀ e,
    tget s.gen.manifest entry = some e →
    ∀ m,
    tget s.gen.models e.model = some m →
    (e.evicting) →
    (!ok || e.slots.any fun x => s.slotLost m x.2) →
    exec (.evictionComplete entry ok) s = .next (State.settle (s.modEntry entry Entry.stopEvict))) ∧
  (∀ (entry : Nat) (ok : Bool) (z : State),
    let s := z;
    ∀ e,
    tget s.gen.manifest entry = some e →
    ∀ m,
    tget s.gen.models e.model = some m →
    (e.evicting) →
    ¬(!ok || e.slots.any fun x => s.slotLost m x.2) →
    let s := (e.map.zip e.slots).foldl (fun s x => s.carry (m.berthAddr x.1.2) (m.slotAddr x.2.2) m.berthBytes) s;
    let s := e.slots.foldl (fun s x => s.mapWord e x.1 (2 ^ 31 + x.2)) s;
    exec (.evictionComplete entry ok) z = .next (State.settle
      ((s.modEntry entry fun x => { x with map := [], evicting := false }).setSeq entry .parked))) ∧
  -- BERTH_FETCH_COMPLETE (R284)
  (∀ (entry : Nat) (z : State),
    let s := z;
    ∀ e,
    tget s.gen.manifest entry = some e →
    ∀ m,
    tget s.gen.models e.model = some m →
    ¬(e.state != .resuming || e.slots.isEmpty || e.map.length != e.slots.length) →
    let s := (e.slots.zip e.map).foldl (fun s x => s.carry (m.slotAddr x.1.2) (m.berthAddr x.2.2) m.berthBytes) s;
    let s := e.map.foldl (fun s x => s.mapWord e x.1 x.2) s;
    exec (.berthFetchComplete entry) z = .next (State.settle
      ((s.modEntry entry fun x => { x with slots := [] }).genIdle e.model))) ∧
  -- LIST_FORWARD_ARRIVAL (R264): the leader's forwarded step list, and the other messages between the loop's parts
  -- (log entry 161)
  (∀ (model : Nat) (list : List Byte) (z : State),
    let s := z;
    ∀ md,
    tget s.gen.models model = some md →
    ∀ l,
    tget s.gen.loops model = some l →
    ¬(l.leader) →
    let n := fld list 0 8;
    let items := fld list 12 4;
    let grants := fld list 20 4;
    let bufOf := fun (e : Nat) => (List.range items).findSome? fun i =>
      if fld list (256 + 64 * i) 4 = e then some (fld list (256 + 64 * i + 40) 8) else none;
    let s := s.store (l.listBuf + n % 2 * listBytes l.seqLimit) list;
    let s := (List.range grants).foldl (fun s i =>
      let o := 256 + 64 * items + 16 * i
      match bufOf (fld list o 4) with
      | some b => s.padStore md.paddock (b + 4 * fld list (o + 4) 4) (leBytes 4 (fld list (o + 8) 4))
      | none => s) s;
    let v : BitVec 32 := BitVec.ofNat 32 (fld list 8 4);
    let s := (s.followVersion model v).modLoop model fun x => { x with step := n, version := v, listed := true };
    exec (.listForwardArrival model (.list list)) z = .next (State.settle (s.arrive l.ready))) ∧
  (∀ (model : Nat) (leader : BitVec 16) (kh n : Nat) (mask : List Nat) (berths sl b ch : Nat) (s : State),
    ∀ md,
    tget s.gen.models model = some md →
    ∀ k,
    tget s.kernels kh = some k →
    let teams := s.allotment md.paddock;
    ¬(thas s.gen.loops model || berths != md.berthCount || k.paddock != md.paddock || n < k.teamsMin || k.teamsMax < n ||
      teams.length < n || !mask.all fun l => teams.contains l) →
    ∀ s',
    s.makeLoop (memberWid model) md.paddock model kh k n false
      { mask := mask, members := [leader], seqLimit := sl, budget := b, chunk := ch, lists := 0 } = .ok s' →
    exec (.listForwardArrival model (.start leader kh n mask berths sl b ch)) s = .next (State.settle s')) ∧
  (∀ (model : Nat) (z : State),
    let s := z;
    ∀ md,
    tget s.gen.models model = some md →
    ∀ l,
    tget s.gen.loops model = some l →
    ¬(l.leader) →
    let s := (s.modLoop model fun x => { x with listed := false }).modModel model fun x =>
      { x with turn := some .draining, drainFrom := s.t };
    exec (.listForwardArrival model .drain) z = .next (State.settle (s.stopLoopTask l.wid))) ∧
  (∀ (model : Nat) (mask : List Nat) (z : State),
    let s := z;
    ∀ md,
    tget s.gen.models model = some md →
    ∀ l,
    tget s.gen.loops model = some l →
    ¬(l.leader) →
    let s := s.modModel model fun x => { x with turn := some .generating };
    exec (.listForwardArrival model (.resume mask)) z = .next (State.settle (s.modTask l.wid fun t =>
      { t with held := false, victim := true, resumeMask := if mask.isEmpty then none else some mask }))) ∧
  (∀ (model : Nat) (forced : Bool) (s : State),
    ∀ md,
    tget s.gen.models model = some md →
    ∀ l,
    tget s.gen.loops model = some l →
    ¬(l.leader) →
    exec (.listForwardArrival model (.stop forced)) s =
      .next (State.settle (s.endLoop model stOk (if forced then .aborted else .done)))) ∧
  (∀ (model : Nat) (part : BitVec 16) (s : State),
    ∀ md,
    tget s.gen.models model = some md →
    ∀ l,
    tget s.gen.loops model = some l →
    (l.leader) →
    exec (.listForwardArrival model (.saved part)) s =
      .next (State.settle (s.modLoop model fun x => { x with savedBy := x.savedBy ++ [part] })))

/-- The sequence admission, cancel, park, resume, query and release commands complete with their effects: GEN_ADMIT,
GEN_ADMIT_EXPERT, GEN_CANCEL, GEN_CANCEL_EXPERT, GEN_PARK, GEN_PARK_EXPERT, GEN_RESUME, GEN_RESUME_EXPERT,
GEN_QUERY, GEN_QUERY_EXPERT, GEN_RELEASE, GEN_RELEASE_EXPERT (R253, R275, R281, R282, R284, R290). -/
def Obligations.SequenceCommands : Prop :=
  -- GEN_ADMIT (R290)
  (∀ (z : State) (wid : BitVec 64) (hm : HostImage) (c : Cmd), z.ready 0x0309 wid hm = some c →
    let s := z.markDispatched wid;
    ∀ m,
    s.ownModel c (c.u32 4) = .ok m →
    let q : Admit := { adapter := 0xFFFF, topK := 0, topP := 0x3F800000#32, stop := List.replicate 4 0xFFFFFFFF#32,
                                      ctx := c.u32 12 + c.u32 32, prio := 1, flags := 1, far := m.far.toNat, near := m.near.toNat,
                                      sink := m.sink.toNat, ttl := 0, buf := 0, user := [] };
    (!c.mgmt) →
    ∀ m,
    s.ownModel c (c.u32 4) = .ok m →
    ∀ g,
    tget s.gen.rings (c.u32 8) = some g →
    (g.paddock = c.pad) →
    (s.admitOk c m q) →
    let seq := BitVec.ofNat 32 (c.u32 0);
    let mine := s.gen.manifest.filter fun e => e.2.paddock = c.pad;
    (!mine.any fun e => e.2.seqId = seq) →
    let quota := ((tget s.paddocks c.pad).map (·.manifestQuota)).getD 0;
    (mine.length < quota) →
    ∀ i,
    (leastFree (fun k => thas s.gen.manifest k) 0 131072) = some i →
    let plen := c.u32 12;
    ∀ toks x1,
    s.readBuf c (c.u64 24) (4 * plen) = .ok (toks, x1) →
    ∀ buf s1,
    s.seqBuffer c (m.bufLen q.ctx) q.buf = .ok (buf, s1) →
    let serial := s1.gen.admitSerial + 1#64;
    let e : Entry := { seqId := seq, state := if 2 ≤ plen then .prefill else .decode, paddock := c.pad, model := c.u32 4,
                       adapter := BitVec.ofNat 16 q.adapter, seed := BitVec.ofNat 64 (c.u64 16), admitWid := c.w, admitSerial := serial,
                       known := plen, filled := 0, generated := 0, maxNew := c.u32 32, ctxLimit := q.ctx,
                       invTemp := BitVec.ofNat 32 (c.u32 36), topP := q.topP, topK := BitVec.ofNat 32 q.topK, stop := q.stop,
                       seqBuf := BitVec.ofNat 64 buf, far := BitVec.ofNat 16 q.far, near := BitVec.ofNat 8 q.near,
                       sink := BitVec.ofNat 8 q.sink, ring := BitVec.ofNat 16 (c.u32 8), priority := q.prio,
                       autoRelease := bitAt q.flags 0, parkNow := false, autoParked := false, evicting := false,
                       stopParks := bitAt q.flags 4, version := m.version, admitTime := s.now, deadline := 0#64, stateTime := s.now,
                       endStatus := 0#16, skips := 0#16, berthSkips := 0, steps := 0#32, lastWid := c.w, user := q.user,
                       parkTtl := BitVec.ofNat 32 q.ttl, map := [], slots := [], termIdx := none };
    let s2 := ({ s1 with gen := { s1.gen with
      manifest := tput s1.gen.manifest i e, admitSerial := serial
      bufCtx := tput s1.gen.bufCtx buf q.ctx } } : State).writeManifest i;
    exec (.genAdmit wid hm) z = .next (State.settle ((s2.padStore c.pad (buf + tokOff q.ctx) toks).ok c i))) ∧
  -- GEN_ADMIT_EXPERT (R290)
  (∀ (z : State) (wid : BitVec 64) (hm : HostImage) (c : Cmd), z.ready 0x0389 wid hm = some c →
    let s := z.markDispatched wid;
    let q : Admit := { adapter := c.u32 40, topK := c.u32 44, topP := BitVec.ofNat 32 (c.u32 48),
                                      stop := (List.range 4).map fun i => BitVec.ofNat 32 (c.u32 (52 + 4 * i)), ctx := c.u32 68, prio := c.u8 72,
                                      flags := c.u8 73, far := c.u16 76, near := c.u8 78, sink := c.u8 79, ttl := c.u32 80, buf := c.u64 84,
                                      user := slice c.p 92 32 };
    (!c.mgmt) →
    ∀ m,
    s.ownModel c (c.u32 4) = .ok m →
    ∀ g,
    tget s.gen.rings (c.u32 8) = some g →
    (g.paddock = c.pad) →
    (s.admitOk c m q) →
    let seq := BitVec.ofNat 32 (c.u32 0);
    let mine := s.gen.manifest.filter fun e => e.2.paddock = c.pad;
    (!mine.any fun e => e.2.seqId = seq) →
    let quota := ((tget s.paddocks c.pad).map (·.manifestQuota)).getD 0;
    (mine.length < quota) →
    ∀ i,
    (leastFree (fun k => thas s.gen.manifest k) 0 131072) = some i →
    let plen := c.u32 12;
    ∀ toks x1,
    s.readBuf c (c.u64 24) (4 * plen) = .ok (toks, x1) →
    ∀ buf s1,
    s.seqBuffer c (m.bufLen q.ctx) q.buf = .ok (buf, s1) →
    let serial := s1.gen.admitSerial + 1#64;
    let e : Entry := { seqId := seq, state := if 2 ≤ plen then .prefill else .decode, paddock := c.pad, model := c.u32 4,
                       adapter := BitVec.ofNat 16 q.adapter, seed := BitVec.ofNat 64 (c.u64 16), admitWid := c.w, admitSerial := serial,
                       known := plen, filled := 0, generated := 0, maxNew := c.u32 32, ctxLimit := q.ctx,
                       invTemp := BitVec.ofNat 32 (c.u32 36), topP := q.topP, topK := BitVec.ofNat 32 q.topK, stop := q.stop,
                       seqBuf := BitVec.ofNat 64 buf, far := BitVec.ofNat 16 q.far, near := BitVec.ofNat 8 q.near,
                       sink := BitVec.ofNat 8 q.sink, ring := BitVec.ofNat 16 (c.u32 8), priority := q.prio,
                       autoRelease := bitAt q.flags 0, parkNow := false, autoParked := false, evicting := false,
                       stopParks := bitAt q.flags 4, version := m.version, admitTime := s.now, deadline := 0#64, stateTime := s.now,
                       endStatus := 0#16, skips := 0#16, berthSkips := 0, steps := 0#32, lastWid := c.w, user := q.user,
                       parkTtl := BitVec.ofNat 32 q.ttl, map := [], slots := [], termIdx := none };
    let s2 := ({ s1 with gen := { s1.gen with
      manifest := tput s1.gen.manifest i e, admitSerial := serial
      bufCtx := tput s1.gen.bufCtx buf q.ctx } } : State).writeManifest i;
    exec (.genAdmitExpert wid hm) z = .next (State.settle ((s2.padStore c.pad (buf + tokOff q.ctx) toks).ok c i))) ∧
  -- GEN_CANCEL (R281)
  (∀ (z : State) (wid : BitVec 64) (c : Cmd), z.ready 0x030A wid [] = some c →
    let s := z.markDispatched wid;
    let kind : Nat := 1;
    let arg : Nat := 0;
    let flag : Bool := false;
    let toks : List (BitVec 32) := [];
    ∀ e,
    s.seqOf c (c.u32 0) = .ok e →
    exec (.genCancel wid) z = .next (State.settle
      (s.queueCmd { wid := c.w, kind := kind, model := e.2.model, entry := e.1, serial := e.2.admitSerial,
                    arg := BitVec.ofNat 64 arg, flag := flag, atNs := s.t, tokens := toks }))) ∧
  -- GEN_CANCEL_EXPERT (R281)
  (∀ (z : State) (wid : BitVec 64) (c : Cmd), z.ready 0x038A wid [] = some c →
    let s := z.markDispatched wid;
    ∀ x1,
    s.seqOf c (c.u32 0) = .ok x1 →
    let s := s.reason c (c.u32 4);
    let kind : Nat := 1;
    let arg : Nat := 0;
    let flag : Bool := false;
    let toks : List (BitVec 32) := [];
    ∀ e,
    s.seqOf c (c.u32 0) = .ok e →
    exec (.genCancelExpert wid) z = .next (State.settle
      (s.queueCmd { wid := c.w, kind := kind, model := e.2.model, entry := e.1, serial := e.2.admitSerial,
                    arg := BitVec.ofNat 64 arg, flag := flag, atNs := s.t, tokens := toks }))) ∧
  -- GEN_PARK (R282)
  (∀ (z : State) (wid : BitVec 64) (c : Cmd), z.ready 0x030B wid [] = some c →
    let s := z.markDispatched wid;
    let kind : Nat := 2;
    let arg : Nat := c.u32 4;
    let flag : Bool := false;
    let toks : List (BitVec 32) := [];
    ∀ e,
    s.seqOf c (c.u32 0) = .ok e →
    exec (.genPark wid) z = .next (State.settle
      (s.queueCmd { wid := c.w, kind := kind, model := e.2.model, entry := e.1, serial := e.2.admitSerial,
                    arg := BitVec.ofNat 64 arg, flag := flag, atNs := s.t, tokens := toks }))) ∧
  -- GEN_PARK_EXPERT (R282)
  (∀ (z : State) (wid : BitVec 64) (c : Cmd), z.ready 0x038B wid [] = some c →
    let s := z.markDispatched wid;
    let kind : Nat := 2;
    let arg : Nat := c.u32 4;
    let flag : Bool := c.flag 8;
    let toks : List (BitVec 32) := [];
    ∀ e,
    s.seqOf c (c.u32 0) = .ok e →
    exec (.genParkExpert wid) z = .next (State.settle
      (s.queueCmd { wid := c.w, kind := kind, model := e.2.model, entry := e.1, serial := e.2.admitSerial,
                    arg := BitVec.ofNat 64 arg, flag := flag, atNs := s.t, tokens := toks }))) ∧
  -- GEN_RESUME (R284)
  (∀ (z : State) (wid : BitVec 64) (hm : HostImage) (c : Cmd), z.ready 0x030C wid hm = some c →
    let s := z.markDispatched wid;
    let maxNew : Nat := 0;
    ∀ x1,
    s.seqOf c (c.u32 0) = .ok x1 →
    let n := c.u32 4;
    (n ≤ 65536) →
    ∀ bs x2,
    (if n = 0 then .ok ([], false) else s.readBuf c (c.u64 8) (4 * n) : Except Err _) = .ok (bs, x2) →
    let kind : Nat := 3;
    let arg : Nat := maxNew;
    let flag : Bool := false;
    let toks : List (BitVec 32) := (List.range n).map fun i => BitVec.ofNat 32 (fld bs (4 * i) 4);
    ∀ e,
    s.seqOf c (c.u32 0) = .ok e →
    exec (.genResume wid hm) z = .next (State.settle
      (s.queueCmd { wid := c.w, kind := kind, model := e.2.model, entry := e.1, serial := e.2.admitSerial,
                    arg := BitVec.ofNat 64 arg, flag := flag, atNs := s.t, tokens := toks }))) ∧
  -- GEN_RESUME_EXPERT (R284)
  (∀ (z : State) (wid : BitVec 64) (hm : HostImage) (c : Cmd), z.ready 0x038C wid hm = some c →
    let s := z.markDispatched wid;
    let maxNew : Nat := c.u32 16;
    ∀ x1,
    s.seqOf c (c.u32 0) = .ok x1 →
    let n := c.u32 4;
    (n ≤ 65536) →
    ∀ bs x2,
    (if n = 0 then .ok ([], false) else s.readBuf c (c.u64 8) (4 * n) : Except Err _) = .ok (bs, x2) →
    let kind : Nat := 3;
    let arg : Nat := maxNew;
    let flag : Bool := false;
    let toks : List (BitVec 32) := (List.range n).map fun i => BitVec.ofNat 32 (fld bs (4 * i) 4);
    ∀ e,
    s.seqOf c (c.u32 0) = .ok e →
    exec (.genResumeExpert wid hm) z = .next (State.settle
      (s.queueCmd { wid := c.w, kind := kind, model := e.2.model, entry := e.1, serial := e.2.admitSerial,
                    arg := BitVec.ofNat 64 arg, flag := flag, atNs := s.t, tokens := toks }))) ∧
  -- GEN_QUERY (R253)
  (∀ (z : State) (wid : BitVec 64) (c : Cmd), z.ready 0x030D wid [] = some c →
    let s := z.markDispatched wid;
    ∀ e,
    s.seqOf c (c.u32 0) = .ok e →
    ∀ s1,
    s.writeBuf c (c.u64 4) e.2.encode = .ok s1 →
    exec (.genQuery wid) z = .next (State.settle (s1.ok c))) ∧
  -- GEN_QUERY_EXPERT (R253)
  (∀ (z : State) (wid : BitVec 64) (c : Cmd), z.ready 0x038D wid [] = some c →
    let s := z.markDispatched wid;
    ∀ x1,
    s.ownModel c (c.u32 8) = .ok x1 →
    let es := ((s.entriesOf (c.u32 8)).filter fun e => bitAt (c.u32 12) e.2.state.code).take (c.u32 16);
    ∀ s1,
    s.writeBuf c (c.u64 0) (es.flatMap fun e => e.2.encode) = .ok s1 →
    exec (.genQueryExpert wid) z = .next (State.settle (s1.ok c es.length))) ∧
  -- GEN_RELEASE (R275)
  (∀ (z : State) (wid : BitVec 64) (c : Cmd), z.ready 0x030E wid [] = some c →
    let s := z.markDispatched wid;
    let kind : Nat := 4;
    let arg : Nat := 0;
    let flag : Bool := false;
    let toks : List (BitVec 32) := [];
    ∀ e,
    s.seqOf c (c.u32 0) = .ok e →
    exec (.genRelease wid) z = .next (State.settle
      (s.queueCmd { wid := c.w, kind := kind, model := e.2.model, entry := e.1, serial := e.2.admitSerial,
                    arg := BitVec.ofNat 64 arg, flag := flag, atNs := s.t, tokens := toks }))) ∧
  -- GEN_RELEASE_EXPERT (R275)
  (∀ (z : State) (wid : BitVec 64) (c : Cmd), z.ready 0x038E wid [] = some c →
    let s := z.markDispatched wid;
    let kind : Nat := 4;
    let arg : Nat := 0;
    let flag : Bool := c.flag 4;
    let toks : List (BitVec 32) := [];
    ∀ e,
    s.seqOf c (c.u32 0) = .ok e →
    exec (.genReleaseExpert wid) z = .next (State.settle
      (s.queueCmd { wid := c.w, kind := kind, model := e.2.model, entry := e.1, serial := e.2.admitSerial,
                    arg := BitVec.ofNat 64 arg, flag := flag, atNs := s.t, tokens := toks })))

/-- The parameter set and exchange commands complete with their effects: LEARN_SET_REGISTER,
LEARN_SET_REGISTER_EXPERT, LEARN_SET_RELEASE, LEARN_SET_RELEASE_EXPERT, LEARN_EXCHANGE, LEARN_EXCHANGE_EXPERT,
EXCHANGE_COMPLETE, LEARN_QUERY, LEARN_QUERY_EXPERT (R305, R307, R313, R332). -/
def Obligations.ParameterSetCommands : Prop :=
  -- LEARN_SET_REGISTER (R313)
  (∀ (z : State) (wid : BitVec 64) (hm : HostImage) (c : Cmd), z.ready 0x0401 wid hm = some c →
    let s := z.markDispatched wid;
    let step0 : Nat := 0;
    (!c.mgmt) →
    let n := c.u32 8;
    (1 ≤ n && n ≤ 65536) →
    ∀ x1,
    s.learnGroup c (c.u32 12) = .ok x1 →
    ∀ bs x2,
    s.readBuf c (c.u64 0) (128 * n) = .ok (bs, x2) →
    let ds := (List.range n).map fun i => slice bs (128 * i) 128;
    let gs := ds.map groupOfDesc;
    ((ds.zip gs).all fun x => s.descOk c.pad x.1 x.2) →
    (gs.all fun g => g.arrays.all fun r => match s.ownRange c r.1 r.2 [.hbm] with
      | .ok _ => true
      | .error _ => false) →
    (groupsApart gs) →
    let mine := s.learn.sets.filter fun e => e.2.paddock = c.pad;
    let size := fun (gs : List PGroup) => sumNat (gs.map fun g => if g.rule = 4 then g.rows + g.cols else 0);
    (mine.length < 4 && s.learn.sets.length < 32 &&
      sumNat (s.learn.sets.map fun e => size e.2.groups) + size gs ≤ 4194304) →
    let p3 := s.pick (fun k => thas s.learn.sets k) 1 (2 ^ 32 - 1);
    let h := p3.1;
    let s1 := p3.2;
    let hd := h.getD 1;
    let l : LSet := { paddock := c.pad, groups := gs, normGroup := BitVec.ofNat 32 (c.u32 12), step := step0, state := .accumulating,
                      buckets := [], rowAcc := [], colAcc := [], norm := 0#32, gmul := 0#32, nonfinite := false, seed := 0#64, lrMul := 0#32,
                      inv := [], sweepBy := 0#64, spansDone := [], updated := 0, skipped := 0, skipList := [], restored := true, stash := [],
                      emitted := false, bucketsDone := 0, naBlocks := 0 };
    exec (.learnSetRegister wid hm) z = .next (State.settle
      (({ s1 with learn := { s1.learn with sets := tput s1.learn.sets hd l } } : State).ok c hd))) ∧
  -- LEARN_SET_REGISTER_EXPERT (R313)
  (∀ (z : State) (wid : BitVec 64) (hm : HostImage) (c : Cmd), z.ready 0x0481 wid hm = some c →
    let s := z.markDispatched wid;
    let step0 : Nat := c.u64 16;
    (!c.mgmt) →
    let n := c.u32 8;
    (1 ≤ n && n ≤ 65536) →
    ∀ x1,
    s.learnGroup c (c.u32 12) = .ok x1 →
    ∀ bs x2,
    s.readBuf c (c.u64 0) (128 * n) = .ok (bs, x2) →
    let ds := (List.range n).map fun i => slice bs (128 * i) 128;
    let gs := ds.map groupOfDesc;
    ((ds.zip gs).all fun x => s.descOk c.pad x.1 x.2) →
    (gs.all fun g => g.arrays.all fun r => match s.ownRange c r.1 r.2 [.hbm] with
      | .ok _ => true
      | .error _ => false) →
    (groupsApart gs) →
    let mine := s.learn.sets.filter fun e => e.2.paddock = c.pad;
    let size := fun (gs : List PGroup) => sumNat (gs.map fun g => if g.rule = 4 then g.rows + g.cols else 0);
    (mine.length < 4 && s.learn.sets.length < 32 &&
      sumNat (s.learn.sets.map fun e => size e.2.groups) + size gs ≤ 4194304) →
    let p3 := s.pick (fun k => thas s.learn.sets k) 1 (2 ^ 32 - 1);
    let h := p3.1;
    let s1 := p3.2;
    let hd := h.getD 1;
    let l : LSet := { paddock := c.pad, groups := gs, normGroup := BitVec.ofNat 32 (c.u32 12), step := step0, state := .accumulating,
                      buckets := [], rowAcc := [], colAcc := [], norm := 0#32, gmul := 0#32, nonfinite := false, seed := 0#64, lrMul := 0#32,
                      inv := [], sweepBy := 0#64, spansDone := [], updated := 0, skipped := 0, skipList := [], restored := true, stash := [],
                      emitted := false, bucketsDone := 0, naBlocks := 0 };
    exec (.learnSetRegisterExpert wid hm) z = .next (State.settle
      (({ s1 with learn := { s1.learn with sets := tput s1.learn.sets hd l } } : State).ok c hd))) ∧
  -- LEARN_SET_RELEASE (R332)
  (∀ (z : State) (wid : BitVec 64) (c : Cmd), z.ready 0x0402 wid [] = some c →
    let s := z.markDispatched wid;
    let h := c.u32 0;
    ∀ l,
    s.ownSet c h = .ok l →
    (!s.setUsed h l) →
    exec (.learnSetRelease wid) z = .next (State.settle
      (({ s with learn := { s.learn with sets := tdel s.learn.sets h } } : State).ok c))) ∧
  -- LEARN_SET_RELEASE_EXPERT (R332)
  (∀ (z : State) (wid : BitVec 64) (c : Cmd), z.ready 0x0482 wid [] = some c →
    let s := z.markDispatched wid;
    ∀ x1,
    s.ownSet c (c.u32 0) = .ok x1 →
    (c.flag 4) →
    exec (.learnSetReleaseExpert wid) z = .next (State.settle (s.wait c.w (.setFree (c.u32 0))))) ∧
  (∀ (z : State) (wid : BitVec 64) (c : Cmd), z.ready 0x0482 wid [] = some c →
    let s := z.markDispatched wid;
    ∀ x1,
    s.ownSet c (c.u32 0) = .ok x1 →
    ¬(c.flag 4) →
    let h := c.u32 0;
    ∀ l,
    s.ownSet c h = .ok l →
    (!s.setUsed h l) →
    exec (.learnSetReleaseExpert wid) z = .next (State.settle
      (({ s with learn := { s.learn with sets := tdel s.learn.sets h } } : State).ok c))) ∧
  -- LEARN_EXCHANGE (R305)
  (∀ (z : State) (hw : HostWork) (c : Cmd), z.ready 0x0403 hw.wid hw.image = some c →
    let s := z.markDispatched hw.wid;
    let timeout : Nat := 0;
    let h := c.u32 0;
    ∀ l,
    s.ownSet c h = .ok l →
    ∀ g,
    s.learnGroup c (c.u32 4) = .ok g →
    let n := g.members.length;
    let e := c.u64 16;
    ∀ pg,
    l.groups[c.u32 12]? = some pg →
    (c.u32 8 ≤ 65535 && 32 * n ≤ e && e ≤ 2 ^ 36 && e % (32 * n) = 0 && c.u64 48 % 32 = 0 &&
      c.u64 48 + e / n ≤ pg.elements) →
    (l.state = .accumulating) →
    ∀ gl,
    s.resolve c (c.u64 24) (4 * e) false = .ok gl →
    ∀ rl,
    s.resolve c (c.u64 32) (2 * e) false = .ok rl →
    ∀ ol,
    s.resolve c (c.u64 40) (2 * e) true = .ok ol →
    let shape := chainDigest [BitVec.ofNat 32 h, BitVec.ofNat 32 (c.u32 8), BitVec.ofNat 32 e, BitVec.ofNat 32 (e / 2 ^ 32)];
    let op := { newColl c.w c.pad (BitVec.ofNat 32 (c.u32 4)) 9 s.t g.rank with shape := shape, count := e };
    ∀ s1,
    s.startColl op g none timeout = .ok s1 →
    ((s1.collOf c.w).isNone) →
    exec (.learnExchange hw) z = .next (State.settle (s1))) ∧
  (∀ (z : State) (hw : HostWork) (c : Cmd), z.ready 0x0403 hw.wid hw.image = some c →
    let s := z.markDispatched hw.wid;
    let timeout : Nat := 0;
    let h := c.u32 0;
    ∀ l,
    s.ownSet c h = .ok l →
    ∀ g,
    s.learnGroup c (c.u32 4) = .ok g →
    let n := g.members.length;
    let e := c.u64 16;
    ∀ pg,
    l.groups[c.u32 12]? = some pg →
    (c.u32 8 ≤ 65535 && 32 * n ≤ e && e ≤ 2 ^ 36 && e % (32 * n) = 0 && c.u64 48 % 32 = 0 &&
      c.u64 48 + e / n ≤ pg.elements) →
    (l.state = .accumulating) →
    ∀ gl,
    s.resolve c (c.u64 24) (4 * e) false = .ok gl →
    ∀ rl,
    s.resolve c (c.u64 32) (2 * e) false = .ok rl →
    ∀ ol,
    s.resolve c (c.u64 40) (2 * e) true = .ok ol →
    let shape := chainDigest [BitVec.ofNat 32 h, BitVec.ofNat 32 (c.u32 8), BitVec.ofNat 32 e, BitVec.ofNat 32 (e / 2 ^ 32)];
    let op := { newColl c.w c.pad (BitVec.ofNat 32 (c.u32 4)) 9 s.t g.rank with shape := shape, count := e };
    ∀ s1,
    s.startColl op g none timeout = .ok s1 →
    ¬((s1.collOf c.w).isNone) →
    let gb := s.readLoc c gl (4 * e);
    let rb := s.readLoc c rl (2 * e);
    let stage := (bucketPass e gb.1 rb.1).1;
    let bad := (List.range (e / 32)).filter fun b => s.locPoisoned gl (128 * b) 128 gb.2 || s.locPoisoned rl (64 * b) 64 rb.2;
    let na := ((List.range (e / 32)).filter fun b => fld stage (33 * b + 32) 1 = 0xFF).length;
    let x : Exch := { wid := c.w, norm := false, set := h, bucket := c.u32 8, destGroup := c.u32 12, e := e, destElem := c.u64 48,
                      stage := stage, routTo := (match ol with | .host a => (some c.fn, a) | .part a _ => (none, a)),
                      residuals := (bucketPass e gb.1 rb.1).2, begun := false, rows := [], cols := [], record := [],
                      na := na, sq := Acc.reset, bad := bad, poisoned := bad.length, gscale := 0#32, maxNorm := 0#32,
                      after := [] };
    exec (.learnExchange hw) z = .next (State.settle
      (({ s1 with learn := { s1.learn with exchs := s1.learn.exchs ++ [x] } } : State).greet op.wid))) ∧
  -- LEARN_EXCHANGE_EXPERT (R305)
  (∀ (z : State) (hw : HostWork) (c : Cmd), z.ready 0x0483 hw.wid hw.image = some c →
    let s := z.markDispatched hw.wid;
    let timeout : Nat := c.u32 56;
    let h := c.u32 0;
    ∀ l,
    s.ownSet c h = .ok l →
    ∀ g,
    s.learnGroup c (c.u32 4) = .ok g →
    let n := g.members.length;
    let e := c.u64 16;
    ∀ pg,
    l.groups[c.u32 12]? = some pg →
    (c.u32 8 ≤ 65535 && 32 * n ≤ e && e ≤ 2 ^ 36 && e % (32 * n) = 0 && c.u64 48 % 32 = 0 &&
      c.u64 48 + e / n ≤ pg.elements) →
    (l.state = .accumulating) →
    ∀ gl,
    s.resolve c (c.u64 24) (4 * e) false = .ok gl →
    ∀ rl,
    s.resolve c (c.u64 32) (2 * e) false = .ok rl →
    ∀ ol,
    s.resolve c (c.u64 40) (2 * e) true = .ok ol →
    let shape := chainDigest [BitVec.ofNat 32 h, BitVec.ofNat 32 (c.u32 8), BitVec.ofNat 32 e, BitVec.ofNat 32 (e / 2 ^ 32)];
    let op := { newColl c.w c.pad (BitVec.ofNat 32 (c.u32 4)) 9 s.t g.rank with shape := shape, count := e };
    ∀ s1,
    s.startColl op g none timeout = .ok s1 →
    ((s1.collOf c.w).isNone) →
    exec (.learnExchangeExpert hw) z = .next (State.settle (s1))) ∧
  (∀ (z : State) (hw : HostWork) (c : Cmd), z.ready 0x0483 hw.wid hw.image = some c →
    let s := z.markDispatched hw.wid;
    let timeout : Nat := c.u32 56;
    let h := c.u32 0;
    ∀ l,
    s.ownSet c h = .ok l →
    ∀ g,
    s.learnGroup c (c.u32 4) = .ok g →
    let n := g.members.length;
    let e := c.u64 16;
    ∀ pg,
    l.groups[c.u32 12]? = some pg →
    (c.u32 8 ≤ 65535 && 32 * n ≤ e && e ≤ 2 ^ 36 && e % (32 * n) = 0 && c.u64 48 % 32 = 0 &&
      c.u64 48 + e / n ≤ pg.elements) →
    (l.state = .accumulating) →
    ∀ gl,
    s.resolve c (c.u64 24) (4 * e) false = .ok gl →
    ∀ rl,
    s.resolve c (c.u64 32) (2 * e) false = .ok rl →
    ∀ ol,
    s.resolve c (c.u64 40) (2 * e) true = .ok ol →
    let shape := chainDigest [BitVec.ofNat 32 h, BitVec.ofNat 32 (c.u32 8), BitVec.ofNat 32 e, BitVec.ofNat 32 (e / 2 ^ 32)];
    let op := { newColl c.w c.pad (BitVec.ofNat 32 (c.u32 4)) 9 s.t g.rank with shape := shape, count := e };
    ∀ s1,
    s.startColl op g none timeout = .ok s1 →
    ¬((s1.collOf c.w).isNone) →
    let gb := s.readLoc c gl (4 * e);
    let rb := s.readLoc c rl (2 * e);
    let stage := (bucketPass e gb.1 rb.1).1;
    let bad := (List.range (e / 32)).filter fun b => s.locPoisoned gl (128 * b) 128 gb.2 || s.locPoisoned rl (64 * b) 64 rb.2;
    let na := ((List.range (e / 32)).filter fun b => fld stage (33 * b + 32) 1 = 0xFF).length;
    let x : Exch := { wid := c.w, norm := false, set := h, bucket := c.u32 8, destGroup := c.u32 12, e := e, destElem := c.u64 48,
                      stage := stage, routTo := (match ol with | .host a => (some c.fn, a) | .part a _ => (none, a)),
                      residuals := (bucketPass e gb.1 rb.1).2, begun := false, rows := [], cols := [], record := [],
                      na := na, sq := Acc.reset, bad := bad, poisoned := bad.length, gscale := 0#32, maxNorm := 0#32,
                      after := [] };
    exec (.learnExchangeExpert hw) z = .next (State.settle
      (({ s1 with learn := { s1.learn with exchs := s1.learn.exchs ++ [x] } } : State).greet op.wid))) ∧
  -- EXCHANGE_COMPLETE (R307)
  (∀ (w : BitVec 64) (z : State),
    let s := z;
    ∀ e x1 x2,
    s.exchMoved w false = some (e, x1, x2) →
    let s := s.modSet e.set fun l => { l with
      buckets := tput l.buckets e.bucket { sq := e.sq, rows := e.rows, cols := e.cols }, bucketsDone := l.bucketsDone + 1, naBlocks := l.naBlocks + e.na };
    (e.poisoned = 0) →
    exec (.exchangeComplete w) z = .next (State.settle (s.endColl w stOk e.e e.na))) ∧
  (∀ (w : BitVec 64) (z : State),
    let s := z;
    ∀ e x1 x2,
    s.exchMoved w false = some (e, x1, x2) →
    let s := s.modSet e.set fun l => { l with
      buckets := tput l.buckets e.bucket { sq := e.sq, rows := e.rows, cols := e.cols }, bucketsDone := l.bucketsDone + 1, naBlocks := l.naBlocks + e.na };
    ¬(e.poisoned = 0) →
    exec (.exchangeComplete w) z = .next (State.settle (s.endColl w stDataPoisoned e.e e.poisoned))) ∧
  -- LEARN_QUERY (R332)
  (∀ (z : State) (wid : BitVec 64) (c : Cmd), z.ready 0x0409 wid [] = some c →
    let s := z.markDispatched wid;
    ∀ l,
    s.ownSet c (c.u32 0) = .ok l →
    ∀ s1,
    (s.writeBuf c (c.u64 4) (leBytes 4 l.state.code ++ leBytes 4 0 ++ leBytes 8 l.step ++ leBytes 4 l.norm.toNat ++
      leBytes 4 l.gmul.toNat ++ leBytes 8 l.bucketsDone ++ leBytes 8 l.naBlocks ++ leBytes 8 l.skipped ++
      ((List.range 12).flatMap fun u => leBytes 4 (s.progressOf l u)) ++ leBytes 32 0) : Except Err _) = .ok s1 →
    exec (.learnQuery wid) z = .next (State.settle (s1.ok c))) ∧
  -- LEARN_QUERY_EXPERT (R332)
  (∀ (z : State) (wid : BitVec 64) (c : Cmd), z.ready 0x0489 wid [] = some c →
    let s := z.markDispatched wid;
    ∀ p,
    tget s.paddocks c.pad = some p →
    ∀ s1,
    (s.writeBuf c (c.u64 0) (leBytes 8 p.lpChecked.toNat ++ leBytes 8 p.lpMismatch.toNat ++
      leBytes 8 p.statMismatch.toNat ++ leBytes 8 p.sweeps.toNat ++ leBytes 8 p.sweepsNonfinite.toNat ++ leBytes 24 0) : Except Err _) = .ok s1 →
    exec (.learnQueryExpert wid) z = .next (State.settle (s1.ok c)))

/-- The norm, sweep, microprogram and route check commands and the sweep events have their effects: LEARN_NORM,
LEARN_NORM_EXPERT, NORM_COMPLETE, LEARN_SWEEP, LEARN_SWEEP_EXPERT, UPDATE_SPAN_DONE, SWEEP_COMPLETE, UNIT_FAULT,
UNIT_SPAN_TIMEOUT, STASH_RESTORE, LEARN_MICRO_LOAD, LEARN_MICRO_LOAD_EXPERT, LEARN_MICRO_UNLOAD,
LEARN_MICRO_UNLOAD_EXPERT, LEARN_ROUTE_CHECK, LEARN_ROUTE_CHECK_EXPERT (R295, R308, R309, R321, R322, R326, R332,
R412, R423). -/
def Obligations.NormSweepAndMicroprogramCommands : Prop :=
  -- LEARN_NORM (R308)
  (∀ (z : State) (wid : BitVec 64) (c : Cmd), z.ready 0x0404 wid [] = some c →
    let s := z.markDispatched wid;
    let h := c.u32 0;
    ∀ l,
    s.ownSet c h = .ok l →
    (l.state = .accumulating) →
    ∀ g,
    s.learnGroup c l.normGroup.toNat = .ok g →
    let op := { newColl c.w c.pad l.normGroup 10 s.t g.rank with shape := chainDigest [10#32] };
    ∀ s1,
    s.startColl op g none 0 = .ok s1 →
    ((s1.collOf c.w).isNone) →
    exec (.learnNorm wid) z = .next (State.settle (s1))) ∧
  (∀ (z : State) (wid : BitVec 64) (c : Cmd), z.ready 0x0404 wid [] = some c →
    let s := z.markDispatched wid;
    let h := c.u32 0;
    ∀ l,
    s.ownSet c h = .ok l →
    (l.state = .accumulating) →
    ∀ g,
    s.learnGroup c l.normGroup.toNat = .ok g →
    let op := { newColl c.w c.pad l.normGroup 10 s.t g.rank with shape := chainDigest [10#32] };
    ∀ s1,
    s.startColl op g none 0 = .ok s1 →
    ¬((s1.collOf c.w).isNone) →
    let x : Exch := { wid := c.w, norm := true, set := h, bucket := 0, destGroup := 0, e := 0, destElem := 0, stage := [],
                      routTo := (none, 0), residuals := [], begun := false, rows := [], cols := [], record := [], na := 0, sq := Acc.reset, bad := [], poisoned := 0, gscale := BitVec.ofNat 32 (c.u32 4), maxNorm := BitVec.ofNat 32 (c.u32 8),
                      after := (s.learn.exchs.filter fun y => y.set = h && !y.norm).map (·.wid) };
    exec (.learnNorm wid) z = .next (State.settle ({ s1 with learn := { s1.learn with exchs := s1.learn.exchs ++ [x] } }))) ∧
  -- LEARN_NORM_EXPERT (R309)
  (∀ (z : State) (wid : BitVec 64) (c : Cmd), z.ready 0x0484 wid [] = some c →
    let s := z.markDispatched wid;
    ∀ l,
    s.ownSet c (c.u32 0) = .ok l →
    (c.flag 12) →
    (l.state = .accumulating || l.state = .normed) →
    exec (.learnNormExpert wid) z = .next (State.settle (s.wait c.w
      (.normReset (c.u32 0) ((s.learn.exchs.filter fun y => y.set = c.u32 0 && !y.norm).map (·.wid)))))) ∧
  (∀ (z : State) (wid : BitVec 64) (c : Cmd), z.ready 0x0484 wid [] = some c →
    let s := z.markDispatched wid;
    ∀ l,
    s.ownSet c (c.u32 0) = .ok l →
    ¬(c.flag 12) →
    let h := c.u32 0;
    ∀ l,
    s.ownSet c h = .ok l →
    (l.state = .accumulating) →
    ∀ g,
    s.learnGroup c l.normGroup.toNat = .ok g →
    let op := { newColl c.w c.pad l.normGroup 10 s.t g.rank with shape := chainDigest [10#32] };
    ∀ s1,
    s.startColl op g none 0 = .ok s1 →
    ((s1.collOf c.w).isNone) →
    exec (.learnNormExpert wid) z = .next (State.settle (s1))) ∧
  (∀ (z : State) (wid : BitVec 64) (c : Cmd), z.ready 0x0484 wid [] = some c →
    let s := z.markDispatched wid;
    ∀ l,
    s.ownSet c (c.u32 0) = .ok l →
    ¬(c.flag 12) →
    let h := c.u32 0;
    ∀ l,
    s.ownSet c h = .ok l →
    (l.state = .accumulating) →
    ∀ g,
    s.learnGroup c l.normGroup.toNat = .ok g →
    let op := { newColl c.w c.pad l.normGroup 10 s.t g.rank with shape := chainDigest [10#32] };
    ∀ s1,
    s.startColl op g none 0 = .ok s1 →
    ¬((s1.collOf c.w).isNone) →
    let x : Exch := { wid := c.w, norm := true, set := h, bucket := 0, destGroup := 0, e := 0, destElem := 0, stage := [],
                      routTo := (none, 0), residuals := [], begun := false, rows := [], cols := [], record := [], na := 0, sq := Acc.reset, bad := [], poisoned := 0, gscale := BitVec.ofNat 32 (c.u32 4), maxNorm := BitVec.ofNat 32 (c.u32 8),
                      after := (s.learn.exchs.filter fun y => y.set = h && !y.norm).map (·.wid) };
    exec (.learnNormExpert wid) z = .next (State.settle
      ({ s1 with learn := { s1.learn with exchs := s1.learn.exchs ++ [x] } }))) ∧
  -- NORM_COMPLETE (R308)
  (∀ (w : BitVec 64) (s : State),
    ∀ e c x1,
    s.exchMoved w true = some (e, c, x1) →
    let recs := e.record :: c.contrib.map (·.data);
    (!recs.all fun r => slice r 64 8 = slice e.record 64 8) →
    exec (.normComplete w) s = .next (State.settle (s.endColl w stBadParam 0 0))) ∧
  (∀ (w : BitVec 64) (z : State),
    let s := z;
    ∀ e c x1,
    s.exchMoved w true = some (e, c, x1) →
    let recs := e.record :: c.contrib.map (·.data);
    ¬(!recs.all fun r => slice r 64 8 = slice e.record 64 8) →
    let acc := (recs.map fun r => Acc.ofEp64 (slice r 0 64)).foldl Acc.merge Acc.reset;
    let r := normOf acc e.gscale e.maxNorm;
    let s := s.modSet e.set fun l => { l.closeBuckets with
      state := .normed, norm := r.1, gmul := r.2.1, nonfinite := r.2.2 };
    exec (.normComplete w) z = .next (State.settle (s.endColl w stOk (r.1.toNat + r.2.1.toNat * 2 ^ 32) acc.drops.toNat))) ∧
  -- LEARN_SWEEP (R326)
  (∀ (z : State) (wid : BitVec 64) (c : Cmd), z.ready 0x0405 wid [] = some c →
    let s := z.markDispatched wid;
    ∀ l,
    s.ownSet c (c.u32 0) = .ok l →
    let h := c.u32 0;
    (l.state = .normed) →
    (l.nonfinite) →
    let s1 := (s.modSet h LSet.abandon).modPaddock c.pad fun p => { p with sweepsNonfinite := p.sweepsNonfinite + 1#64 };
    exec (.learnSweep wid) z = .next (State.settle (s1.complete c.w stNonfiniteGrad))) ∧
  (∀ (z : State) (wid : BitVec 64) (c : Cmd), z.ready 0x0405 wid [] = some c →
    let s := z.markDispatched wid;
    ∀ l,
    s.ownSet c (c.u32 0) = .ok l →
    let seed : Option Nat := none;
    let h := c.u32 0;
    (l.state = .normed) →
    ¬(l.nonfinite) →
    (!l.groups.any s.microBad) →
    let s1 := s.modSet h fun x => { x with
      state := .sweeping, seed := BitVec.ofNat 64 (seed.getD (x.step + 1)), lrMul := BitVec.ofNat 32 (c.u32 4), inv := []
      sweepBy := c.w, spansDone := [], updated := 0, skipped := 0, skipList := [], restored := true, emitted := false,
      stash := [] };
    exec (.learnSweep wid) z = .next (State.settle (s1.updateFactors h))) ∧
  -- LEARN_SWEEP_EXPERT (R326)
  (∀ (z : State) (wid : BitVec 64) (c : Cmd), z.ready 0x0485 wid [] = some c →
    let s := z.markDispatched wid;
    let h := c.u32 0;
    ∀ l,
    s.ownSet c h = .ok l →
    (c.flag 16) →
    (l.state = .interrupted && l.restored) →
    let s1 := s.modSet h fun x => { x with state := .sweeping, sweepBy := c.w };
    exec (.learnSweepExpert wid) z = .next (State.settle ((s1.updateFactors h).emitSweep h))) ∧
  (∀ (z : State) (wid : BitVec 64) (c : Cmd), z.ready 0x0485 wid [] = some c →
    let s := z.markDispatched wid;
    let h := c.u32 0;
    ∀ l,
    s.ownSet c h = .ok l →
    ¬(c.flag 16) →
    let h := c.u32 0;
    (l.state = .normed) →
    (l.nonfinite) →
    let s1 := (s.modSet h LSet.abandon).modPaddock c.pad fun p => { p with sweepsNonfinite := p.sweepsNonfinite + 1#64 };
    exec (.learnSweepExpert wid) z = .next (State.settle (s1.complete c.w stNonfiniteGrad))) ∧
  (∀ (z : State) (wid : BitVec 64) (c : Cmd), z.ready 0x0485 wid [] = some c →
    let s := z.markDispatched wid;
    let h := c.u32 0;
    ∀ l,
    s.ownSet c h = .ok l →
    ¬(c.flag 16) →
    let seed : Option Nat := some (c.u64 8);
    let h := c.u32 0;
    (l.state = .normed) →
    ¬(l.nonfinite) →
    (!l.groups.any s.microBad) →
    let s1 := s.modSet h fun x => { x with
      state := .sweeping, seed := BitVec.ofNat 64 (seed.getD (x.step + 1)), lrMul := BitVec.ofNat 32 (c.u32 4), inv := []
      sweepBy := c.w, spansDone := [], updated := 0, skipped := 0, skipList := [], restored := true, emitted := false,
      stash := [] };
    exec (.learnSweepExpert wid) z = .next (State.settle (s1.updateFactors h))) ∧
  -- UPDATE_SPAN_DONE (R321)
  (∀ (w : BitVec 64) (group : Nat) (span : Nat) (s : State),
    ∀ h l,
    s.sweepOf w = some (h, l) →
    ∀ g,
    l.groups[group]? = some g →
    let u := s.unitOf g span;
    ((s.inFlight l u).contains (group, span)) →
    (s.spanPoisoned g span) →
    exec (.updateSpanDone w group span) s = .next (State.settle
      ((s.modSet h fun x => { x with
         spansDone := x.spansDone ++ [(group, span)], skipped := x.skipped + 1
         skipList := x.skipList ++ [(group, span)] }).emitSweep h))) ∧
  (∀ (w : BitVec 64) (group : Nat) (span : Nat) (s : State),
    ∀ h l,
    s.sweepOf w = some (h, l) →
    ∀ g,
    l.groups[group]? = some g →
    let u := s.unitOf g span;
    ((s.inFlight l u).contains (group, span)) →
    ¬(s.spanPoisoned g span) →
    let done := l.spansDone ++ [(group, span)];
    let past := (s.unitSpans l u).takeWhile fun x => done.contains x;
    let stash := (l.stash ++ [(group, some span, s.stashOf g span)]).filter fun e =>
      match e.2.1 with
      | some k => !past.contains (e.1, k)
      | none => true;
    exec (.updateSpanDone w group span) s = .next (State.settle
      ((((s.updateSpan l group g span).stageMoored g span).modSet h fun x => { x with
         spansDone := done, stash := stash, updated := x.updated + g.spanLen span }).emitSweep h))) ∧
  -- SWEEP_COMPLETE (R321)
  (∀ (w : BitVec 64) (z : State),
    let s := z;
    ∀ h l,
    s.sweepOf w = some (h, l) →
    (l.emitted) →
    let s := s.modSet h fun x => { x with
      state := .accumulating, step := x.step + 1, rowAcc := [], colAcc := [], stash := [], bucketsDone := 0, naBlocks := 0 };
    let s := s.modPaddock l.paddock fun p => { p with sweeps := p.sweeps + 1#64 };
    exec (.sweepComplete w) z = .next (State.settle
      (s.complete w (if l.skipped = 0 then stOk else stDataPoisoned) (BitVec.ofNat 64 l.updated)
         (BitVec.ofNat 32 (min l.skipped (2 ^ 32 - 1)))))) ∧
  -- UNIT_FAULT (R423)
  (∀ (u : Nat) (z : State),
    let s := z;
    (u < 12) →
    let recent := s.t :: (s.unit u).faults.filter fun v => s.t < v + 86400 * secNs;
    let x : UUnit := { faults := recent, retired := (s.unit u).retired || 1 < recent.length };
    let s := (s.learn.sets.filter fun e => e.2.state = .sweeping).foldl (fun s e => s.failSweep e.1) s;
    let s : State := { s with learn := { s.learn with units := tputD UUnit.reset s.learn.units u x } };
    exec (.unitFault u) z = .next (State.settle ((s.logEv evUnitFault 0xFF#8 0#16 u).checkDegraded))) ∧
  -- UNIT_SPAN_TIMEOUT (R412)
  (∀ (w : BitVec 64) (group : Nat) (span : Nat) (s : State),
    ∀ l x1,
    s.sweepOf w = some (x1, l) →
    ∀ g,
    l.groups[group]? = some g →
    ((s.inFlight l (s.unitOf g span)).contains (group, span)) →
    exec (.unitSpanTimeout w group span) s = .next (State.settle (s.unitFault (s.unitOf g span)))) ∧
  -- STASH_RESTORE (R423)
  (∀ (set : Nat) (z : State),
    let s := z;
    ∀ l,
    tget s.learn.sets set = some l →
    ¬(l.state != .interrupted || l.restored) →
    let back := fun (gi : Nat) => !l.spansDone.any fun x => x.1 = gi;
    let s := l.stash.foldl (fun s e =>
      if e.2.1.isSome || back e.1 then e.2.2.foldl (fun s r => s.store r.1 r.2) s else s) s;
    exec (.stashRestore set) z = .next (State.settle
      (s.modSet set fun x => { x with
         restored := true, inv := x.inv.filter fun e => !back e.1
         stash := x.stash.filter fun e => e.2.1.isNone && !back e.1 }))) ∧
  -- LEARN_MICRO_LOAD (R322)
  (∀ (z : State) (wid : BitVec 64) (hm : HostImage) (c : Cmd), z.ready 0x0406 wid hm = some c →
    let s := z.markDispatched wid;
    let buf : Nat := 0;
    let seed : BitVec 64 := 0#64;
    (!c.mgmt) →
    ∀ img x1,
    s.readBuf c (c.u64 0) 384 = .ok (img, x1) →
    (microOk img) →
    ((s.learn.micros.filter fun e => e.2.paddock = c.pad).length < 32 && s.learn.micros.length < 256) →
    let m : Micro := { paddock := c.pad, code := (List.range (fld img 4 2)).map fun i => BitVec.ofNat 32 (fld img (64 + 4 * i) 4),
                       consts := (List.range 16).map fun i => BitVec.ofNat 32 (fld img (320 + 4 * i) 4) };
    ∀ s1,
    (if buf = 0 then .ok s else do
      let (bs, _) ← s.readBuf c buf 768
      let r := s.microTest m seed bs
      r.2.writeBuf c buf r.1 : Except Err _) = .ok s1 →
    let p2 := s1.pick (fun k => thas s1.learn.micros k) 0 256;
    let h := p2.1;
    let s2 := p2.2;
    let hd := h.getD 0;
    exec (.learnMicroLoad wid hm) z = .next (State.settle
      (({ s2 with learn := { s2.learn with micros := tput s2.learn.micros hd m } } : State).ok c hd))) ∧
  -- LEARN_MICRO_LOAD_EXPERT (R322)
  (∀ (z : State) (wid : BitVec 64) (hm : HostImage) (c : Cmd), z.ready 0x0486 wid hm = some c →
    let s := z.markDispatched wid;
    let buf : Nat := c.u64 8;
    let seed : BitVec 64 := BitVec.ofNat 64 (c.u64 16);
    (!c.mgmt) →
    ∀ img x1,
    s.readBuf c (c.u64 0) 384 = .ok (img, x1) →
    (microOk img) →
    ((s.learn.micros.filter fun e => e.2.paddock = c.pad).length < 32 && s.learn.micros.length < 256) →
    let m : Micro := { paddock := c.pad, code := (List.range (fld img 4 2)).map fun i => BitVec.ofNat 32 (fld img (64 + 4 * i) 4),
                       consts := (List.range 16).map fun i => BitVec.ofNat 32 (fld img (320 + 4 * i) 4) };
    ∀ s1,
    (if buf = 0 then .ok s else do
      let (bs, _) ← s.readBuf c buf 768
      let r := s.microTest m seed bs
      r.2.writeBuf c buf r.1 : Except Err _) = .ok s1 →
    let p2 := s1.pick (fun k => thas s1.learn.micros k) 0 256;
    let h := p2.1;
    let s2 := p2.2;
    let hd := h.getD 0;
    exec (.learnMicroLoadExpert wid hm) z = .next (State.settle
      (({ s2 with learn := { s2.learn with micros := tput s2.learn.micros hd m } } : State).ok c hd))) ∧
  -- LEARN_MICRO_UNLOAD (R332)
  (∀ (z : State) (wid : BitVec 64) (c : Cmd), z.ready 0x0407 wid [] = some c →
    let s := z.markDispatched wid;
    let h := c.u32 0;
    ∀ x1,
    s.ownMicro c h = .ok x1 →
    (!s.microUsed h) →
    exec (.learnMicroUnload wid) z = .next (State.settle
      (({ s with learn := { s.learn with micros := tdel s.learn.micros h } } : State).ok c))) ∧
  -- LEARN_MICRO_UNLOAD_EXPERT (R332)
  (∀ (z : State) (wid : BitVec 64) (c : Cmd), z.ready 0x0487 wid [] = some c →
    let s := z.markDispatched wid;
    ∀ x1,
    s.ownMicro c (c.u32 0) = .ok x1 →
    (c.flag 4) →
    exec (.learnMicroUnloadExpert wid) z = .next (State.settle (s.wait c.w (.microFree (c.u32 0))))) ∧
  (∀ (z : State) (wid : BitVec 64) (c : Cmd), z.ready 0x0487 wid [] = some c →
    let s := z.markDispatched wid;
    ∀ x1,
    s.ownMicro c (c.u32 0) = .ok x1 →
    ¬(c.flag 4) →
    let h := c.u32 0;
    ∀ x2,
    s.ownMicro c h = .ok x2 →
    (!s.microUsed h) →
    exec (.learnMicroUnloadExpert wid) z = .next (State.settle
      (({ s with learn := { s.learn with micros := tdel s.learn.micros h } } : State).ok c))) ∧
  -- LEARN_ROUTE_CHECK (R295)
  (∀ (z : State) (wid : BitVec 64) (hm : HostImage) (c : Cmd), z.ready 0x0408 wid hm = some c →
    let s := z.markDispatched wid;
    ∀ m',
    (match tget s.gen.models (c.u32 0) with
      | some m => if m.paddock = c.pad then .ok m else fail stBadModel
      | none => fail stBadModel : Except Err _) = .ok m' →
    let m := m';
    let buf := c.u64 8;
    ∀ x1,
    s.ownRange c buf 1 [.hbm] = .ok x1 →
    ∀ ctx,
    tget s.gen.bufCtx buf = some ctx →
    let n := c.u32 4;
    ∀ bs x2,
    s.readBuf c (c.u64 16) (32 * n) = .ok (bs, x2) →
    let bad := ((List.range n).map fun i => (i, s.routeFault m ctx buf (slice bs (32 * i) 32))).filterMap fun x => x.2.map fun q => (x.1, q);
    bad = [] →
    exec (.learnRouteCheck wid hm) z = .next (State.settle (s.ok c n 0xFFFFFFFF))) ∧
  -- LEARN_ROUTE_CHECK_EXPERT (R295)
  (∀ (z : State) (wid : BitVec 64) (hm : HostImage) (c : Cmd), z.ready 0x0488 wid hm = some c →
    let s := z.markDispatched wid;
    ∀ m',
    (match tget s.gen.models (c.u32 0) with
      | some m => if m.paddock = c.pad then .ok m else fail stBadModel
      | none => fail stBadModel : Except Err _) = .ok m' →
    let m := m';
    let buf := c.u64 8;
    ∀ x1,
    s.ownRange c buf 1 [.hbm] = .ok x1 →
    ∀ ctx,
    tget s.gen.bufCtx buf = some ctx →
    let n := c.u32 4;
    ∀ bs x2,
    s.readBuf c (c.u64 16) (32 * n) = .ok (bs, x2) →
    let bad := ((List.range n).map fun i => (i, s.routeFault m ctx buf (slice bs (32 * i) 32))).filterMap fun x => x.2.map fun q => (x.1, q);
    bad = [] →
    exec (.learnRouteCheckExpert wid hm) z = .next (State.settle (s.ok c n 0xFFFFFFFF)))

/-- The layout, drain, remount, resume and query commands of Rein complete with their effects: REIN_LAYOUT_REGISTER,
REIN_LAYOUT_REGISTER_EXPERT, REIN_LAYOUT_RELEASE, REIN_LAYOUT_RELEASE_EXPERT, REIN_DRAIN, REIN_DRAIN_EXPERT,
REIN_REMOUNT, REIN_REMOUNT_EXPERT, REMOUNT_OLD_SLOT_RELEASE, REIN_RESUME, REIN_RESUME_EXPERT, REIN_QUERY,
REIN_QUERY_EXPERT, REMOUNT_WAIT_TIMEOUT (R336, R345, R346, R360, R362, R363, R366, R367). -/
def Obligations.LayoutCommands : Prop :=
  -- REIN_LAYOUT_REGISTER (R336)
  (∀ (z : State) (wid : BitVec 64) (hm : HostImage) (c : Cmd), z.ready 0x0501 wid hm = some c →
    let s := z.markDispatched wid;
    let table : Nat := 0;
    (!c.mgmt) →
    (s.slotRegion c (c.u64 8) false = .ok ()) →
    (s.slotRegion c (c.u64 16) true = .ok ()) →
    ∀ hd x1,
    s.readBuf c (c.u64 0) 256 = .ok (hd, x1) →
    ∀ d x2,
    s.readBuf c (c.u64 0) (max 256 (fld hd 24 8)) = .ok (d, x2) →
    let l := layoutDesc d c.pad;
    (layoutRanges d l) →
    (l.digest = sha384 (d.drop 256)) →
    (l.parts.contains s.part.partId && l.pieces.all l.inside && l.disjoint && s.regionHolds c.pad (c.u64 8) l &&
      s.regionHolds c.pad (c.u64 16) l && l.covers) →
    ((s.rein.layouts.filter fun e => e.2.paddock = c.pad).length < 64 && s.rein.layouts.length < 256) →
    let m := c.u32 24;
    let bound := m != 0xFFFFFFFF;
    ∀ ver,
    (if bound then do
        let md ← s.ownModel c m
        need (l.kind = 0 && (s.layoutOf m).isNone) stBadParam
        need (md.weights.toNat = c.u64 8) stBadLayout
        .ok md.version
      else .ok 0#32 : Except Err _) = .ok ver →
    ∀ tab own s1,
    s.slotTable c bound table = .ok (tab, own, s1) →
    let p3 := s1.pick (fun k => thas s1.rein.layouts k) 1 (2 ^ 32 - 1);
    let h := p3.1;
    let s2 := p3.2;
    let hd := h.getD 1;
    let a : Slot := { region := BitVec.ofNat 64 (c.u64 8), state := if bound then .active else .empty, version := ver };
    let b : Slot := { region := BitVec.ofNat 64 (c.u64 16), state := .empty, version := 0#32 };
    let l := { l with slot0 := a, slot1 := b, model := if bound then some m else none, table := tab, tableOwn := own };
    let s3 : State := { s2 with rein := { s2.rein with layouts := tput s2.rein.layouts hd l } };
    exec (.reinLayoutRegister wid hm) z = .next (State.settle (((s3.writeSlot hd 0).writeSlot hd 1).ok c hd tab))) ∧
  -- REIN_LAYOUT_REGISTER_EXPERT (R336)
  (∀ (z : State) (wid : BitVec 64) (hm : HostImage) (c : Cmd), z.ready 0x0581 wid hm = some c →
    let s := z.markDispatched wid;
    let table : Nat := c.u64 28;
    (!c.mgmt) →
    (s.slotRegion c (c.u64 8) false = .ok ()) →
    (s.slotRegion c (c.u64 16) true = .ok ()) →
    ∀ hd x1,
    s.readBuf c (c.u64 0) 256 = .ok (hd, x1) →
    ∀ d x2,
    s.readBuf c (c.u64 0) (max 256 (fld hd 24 8)) = .ok (d, x2) →
    let l := layoutDesc d c.pad;
    (layoutRanges d l) →
    (l.digest = sha384 (d.drop 256)) →
    (l.parts.contains s.part.partId && l.pieces.all l.inside && l.disjoint && s.regionHolds c.pad (c.u64 8) l &&
      s.regionHolds c.pad (c.u64 16) l && l.covers) →
    ((s.rein.layouts.filter fun e => e.2.paddock = c.pad).length < 64 && s.rein.layouts.length < 256) →
    let m := c.u32 24;
    let bound := m != 0xFFFFFFFF;
    ∀ ver,
    (if bound then do
        let md ← s.ownModel c m
        need (l.kind = 0 && (s.layoutOf m).isNone) stBadParam
        need (md.weights.toNat = c.u64 8) stBadLayout
        .ok md.version
      else .ok 0#32 : Except Err _) = .ok ver →
    ∀ tab own s1,
    s.slotTable c bound table = .ok (tab, own, s1) →
    let p3 := s1.pick (fun k => thas s1.rein.layouts k) 1 (2 ^ 32 - 1);
    let h := p3.1;
    let s2 := p3.2;
    let hd := h.getD 1;
    let a : Slot := { region := BitVec.ofNat 64 (c.u64 8), state := if bound then .active else .empty, version := ver };
    let b : Slot := { region := BitVec.ofNat 64 (c.u64 16), state := .empty, version := 0#32 };
    let l := { l with slot0 := a, slot1 := b, model := if bound then some m else none, table := tab, tableOwn := own };
    let s3 : State := { s2 with rein := { s2.rein with layouts := tput s2.rein.layouts hd l } };
    exec (.reinLayoutRegisterExpert wid hm) z = .next (State.settle (((s3.writeSlot hd 0).writeSlot hd 1).ok c hd tab))) ∧
  -- REIN_LAYOUT_RELEASE (R366)
  (∀ (z : State) (wid : BitVec 64) (c : Cmd), z.ready 0x0502 wid [] = some c →
    let s := z.markDispatched wid;
    ∀ l,
    s.ownLayout c (c.u32 0) = .ok l →
    (l.active.isNone && !s.layoutNamed (c.u32 0)) →
    exec (.reinLayoutRelease wid) z = .next (State.settle ((s.dropLayout (c.u32 0) l).ok c))) ∧
  -- REIN_LAYOUT_RELEASE_EXPERT (R366)
  (∀ (z : State) (wid : BitVec 64) (c : Cmd), z.ready 0x0582 wid [] = some c →
    let s := z.markDispatched wid;
    ∀ l,
    s.ownLayout c (c.u32 0) = .ok l →
    (c.flag 4) →
    exec (.reinLayoutReleaseExpert wid) z = .next (State.settle (s.wait c.w (.layoutFree (c.u32 0))))) ∧
  (∀ (z : State) (wid : BitVec 64) (c : Cmd), z.ready 0x0582 wid [] = some c →
    let s := z.markDispatched wid;
    ∀ l,
    s.ownLayout c (c.u32 0) = .ok l →
    ¬(c.flag 4) →
    (l.active.isNone && !s.layoutNamed (c.u32 0)) →
    exec (.reinLayoutReleaseExpert wid) z = .next (State.settle ((s.dropLayout (c.u32 0) l).ok c))) ∧
  -- REIN_DRAIN (R345)
  (∀ (z : State) (wid : BitVec 64) (c : Cmd), z.ready 0x0503 wid [] = some c →
    let s := z.markDispatched wid;
    let keep : Bool := false;
    let m := c.u32 0;
    ∀ md,
    s.ownModel c m = .ok md →
    ∀ l,
    tget s.gen.loops m = some l →
    (md.turn = some .generating && l.leader) →
    let s := s.modModel m fun x => { x with turn := some .draining, drainBy := some (c.w, keep), drainFrom := s.t };
    exec (.reinDrain wid) z = .next (State.settle
      (s.queueCmd { wid := c.w, kind := 5, model := m, entry := 0, serial := 0#64, arg := 0#64, flag := keep, atNs := s.t,
                    tokens := [] }))) ∧
  -- REIN_DRAIN_EXPERT (R346)
  (∀ (z : State) (wid : BitVec 64) (c : Cmd), z.ready 0x0583 wid [] = some c →
    let s := z.markDispatched wid;
    let keep : Bool := c.flag 4;
    let m := c.u32 0;
    ∀ md,
    s.ownModel c m = .ok md →
    ∀ l,
    tget s.gen.loops m = some l →
    (md.turn = some .generating && l.leader) →
    let s := s.modModel m fun x => { x with turn := some .draining, drainBy := some (c.w, keep), drainFrom := s.t };
    exec (.reinDrainExpert wid) z = .next (State.settle
      (s.queueCmd { wid := c.w, kind := 5, model := m, entry := 0, serial := 0#64, arg := 0#64, flag := keep, atNs := s.t,
                    tokens := [] }))) ∧
  -- REIN_REMOUNT (R362)
  (∀ (z : State) (wid : BitVec 64) (ready : Bool) (c : Cmd), z.ready 0x0505 wid [] = some c →
    let s := z.markDispatched wid;
    let m := c.u32 0;
    let v := BitVec.ofNat 32 (c.u32 4);
    ∀ md,
    s.ownModel c m = .ok md →
    (md.turn = some .generating) →
    (md.remount.isNone) →
    ((match s.layoutOf m with
      | some (_, l) => (match l.active with | some k => (l.slot k).version != v | none => true)
      | none => true : Bool)) →
    (!s.standby m v true) →
    let s1 := s.modModel m fun x => { x with remount := some (c.w, v, false) };
    (s.standby m v false && ready) →
    exec (.reinRemount wid ready) z = .next (State.settle
      (s1.queueCmd { wid := c.w, kind := 6, model := m, entry := 0, serial := 0#64, arg := v.zeroExtend 64, flag := false,
                     atNs := s.t, tokens := [] }))) ∧
  -- REIN_REMOUNT_EXPERT (R362)
  (∀ (z : State) (wid : BitVec 64) (ready : Bool) (c : Cmd), z.ready 0x0585 wid [] = some c →
    let s := z.markDispatched wid;
    let m := c.u32 0;
    let v := BitVec.ofNat 32 (c.u32 4);
    ∀ md,
    s.ownModel c m = .ok md →
    (md.turn = some .generating) →
    (md.remount.isNone) →
    ((match s.layoutOf m with
      | some (_, l) => (match l.active with | some k => (l.slot k).version != v | none => true)
      | none => true : Bool)) →
    (!s.standby m v true) →
    let s1 := s.modModel m fun x => { x with remount := some (c.w, v, false) };
    (s.standby m v false && ready) →
    exec (.reinRemountExpert wid ready) z = .next (State.settle
      (s1.queueCmd { wid := c.w, kind := 6, model := m, entry := 0, serial := 0#64, arg := v.zeroExtend 64, flag := false,
                     atNs := s.t, tokens := [] }))) ∧
  (∀ (z : State) (wid : BitVec 64) (ready : Bool) (c : Cmd), z.ready 0x0585 wid [] = some c →
    let s := z.markDispatched wid;
    let wait : Bool := c.flag 8;
    let timeout : Nat := c.u32 12;
    let m := c.u32 0;
    let v := BitVec.ofNat 32 (c.u32 4);
    ∀ md,
    s.ownModel c m = .ok md →
    (md.turn = some .generating) →
    (md.remount.isNone) →
    ((match s.layoutOf m with
      | some (_, l) => (match l.active with | some k => (l.slot k).version != v | none => true)
      | none => true : Bool)) →
    (!s.standby m v true) →
    let s1 := s.modModel m fun x => { x with remount := some (c.w, v, false) };
    ¬(s.standby m v false && ready) →
    (wait) →
    exec (.reinRemountExpert wid ready) z = .next (State.settle (s1.wait c.w (.remountSlot m v (s.t + timeout * msNs))))) ∧
  -- REMOUNT_OLD_SLOT_RELEASE (R363)
  (∀ (model : Nat) (z : State),
    let s := z;
    let m : Nat := model;
    ∀ md,
    tget s.gen.models m = some md →
    ∀ h x1,
    s.layoutOf m = some (h, x1) →
    ∀ w x2,
    md.remount = some (w, x2, true) →
    let s := match md.remountOld with
      | some k => (s.modSlot h k fun x => { x with state := .held }).writeSlot h k
      | none => s;
    let s := s.modModel m fun x => { x with remount := none, remountOld := none, remounts := x.remounts + 1 };
    exec (.remountOldSlotRelease model) z = .next (State.settle (s.complete w stOk (BitVec.ofNat 64 md.remountStep)))) ∧
  -- REIN_RESUME (R360)
  (∀ (z : State) (wid : BitVec 64) (ready : Bool) (c : Cmd), z.ready 0x0506 wid [] = some c →
    let s := z.markDispatched wid;
    let mask : List Nat := [];
    let m := c.u32 0;
    let v := BitVec.ofNat 32 (c.u32 4);
    ∀ md,
    s.ownModel c m = .ok md →
    (md.turn = some .drained) →
    ∀ l,
    tget s.gen.loops m = some l →
    (!s.standby m v true) →
    ∀ h k,
    s.slotWith m v = some (h, k) →
    (ready) →
    let allot := s.allotment c.pad;
    (mask.all fun t => allot.contains t) →
    let s1 := (s.modSlot h (1 - k) Slot.idle).writeSlot h (1 - k);
    let s2 := s1.activate m h k;
    let back := md.drain.filter fun i => match tget s2.gen.manifest i with | some e => e.state = .held | none => false;
    let s3 := back.foldl (fun s i => match tget s.gen.manifest i with | some e => s.setSeq i e.byCounts | none => s) s2;
    let s4 := s3.modModel m fun x => { x with turn := some .generating, drain := [] };
    let s5 := (s4.modTask l.wid fun t =>
      { t with held := false, victim := true, resumeMask := if mask.isEmpty then none else some mask }).tellMembers m l (.resume mask);
    let s6 := (s5.build m (l.step + 1)).ok c back.length;
    exec (.reinResume wid ready) z = .next (State.settle (s6.modModel m fun x => { x with resumeNs := s6.t - s.t }))) ∧
  -- REIN_RESUME_EXPERT (R360)
  (∀ (z : State) (wid : BitVec 64) (ready : Bool) (c : Cmd), z.ready 0x0586 wid [] = some c →
    let s := z.markDispatched wid;
    let mask : List Nat := maskBits (slice c.p 8 40);
    let m := c.u32 0;
    let v := BitVec.ofNat 32 (c.u32 4);
    ∀ md,
    s.ownModel c m = .ok md →
    (md.turn = some .drained) →
    ∀ l,
    tget s.gen.loops m = some l →
    (!s.standby m v true) →
    ∀ h k,
    s.slotWith m v = some (h, k) →
    (ready) →
    let allot := s.allotment c.pad;
    (mask.all fun t => allot.contains t) →
    let s1 := (s.modSlot h (1 - k) Slot.idle).writeSlot h (1 - k);
    let s2 := s1.activate m h k;
    let back := md.drain.filter fun i => match tget s2.gen.manifest i with | some e => e.state = .held | none => false;
    let s3 := back.foldl (fun s i => match tget s.gen.manifest i with | some e => s.setSeq i e.byCounts | none => s) s2;
    let s4 := s3.modModel m fun x => { x with turn := some .generating, drain := [] };
    let s5 := (s4.modTask l.wid fun t =>
      { t with held := false, victim := true, resumeMask := if mask.isEmpty then none else some mask }).tellMembers m l (.resume mask);
    let s6 := (s5.build m (l.step + 1)).ok c back.length;
    exec (.reinResumeExpert wid ready) z = .next (State.settle (s6.modModel m fun x => { x with resumeNs := s6.t - s.t }))) ∧
  -- REIN_QUERY (R367)
  (∀ (z : State) (wid : BitVec 64) (c : Cmd), z.ready 0x0507 wid [] = some c →
    let s := z.markDispatched wid;
    ∀ l,
    s.ownLayout c (c.u32 0) = .ok l →
    ∀ s1,
    (s.writeBuf c (c.u64 4) (leBytes 4 l.kind ++ leBytes 4 l.parts.length ++ leBytes 4 l.replicas ++
      leBytes 4 l.slot0.version.toNat ++ leBytes 4 l.slot0.state.code ++ leBytes 4 l.slot1.version.toNat ++
      leBytes 4 l.slot1.state.code ++ leBytes 4 0 ++ leBytes 8 l.sent ++ leBytes 8 l.recvd ++ leBytes 8 l.durNs ++ leBytes 8 0) : Except Err _) = .ok s1 →
    exec (.reinQuery wid) z = .next (State.settle (s1.ok c))) ∧
  -- REIN_QUERY_EXPERT (R367)
  (∀ (z : State) (wid : BitVec 64) (c : Cmd), z.ready 0x0587 wid [] = some c →
    let s := z.markDispatched wid;
    ∀ md,
    s.ownModel c (c.u32 0) = .ok md →
    let l := (s.layoutOf (c.u32 0)).map (·.2);
    let act := ((l.bind (·.active)).getD 0);
    let sl := fun (k : Nat) => ((l.map fun l => l.slot k).getD Slot.reset);
    ∀ s1,
    (s.writeBuf c (c.u64 4) (leBytes 4 (turnCode md.turn) ++ leBytes 4 act ++ leBytes 4 (sl act).version.toNat ++
      leBytes 4 (sl (1 - act)).state.code ++ leBytes 4 (sl (1 - act)).version.toNat ++ leBytes 4 md.drain.length ++
      leBytes 8 md.remounts ++ leBytes 8 md.drainNs ++ leBytes 8 md.resumeNs ++ leBytes 16 0) : Except Err _) = .ok s1 →
    exec (.reinQueryExpert wid) z = .next (State.settle (s1.ok c))) ∧
  -- REMOUNT_WAIT_TIMEOUT (R362)
  (∀ (w : BitVec 64) (s : State),
    ∀ x',
    (s.waits.find? fun x => x.wid = w) = some x' →
    let x := x';
    ∀ due x1 x2,
    x.kind = .remountSlot x1 x2 due →
    exec (.remountWaitTimeout w) s = .next (State.settle (s.reach due)))

/-- The permutation commands and their end complete with their effects: REIN_PERMUTE, REIN_PERMUTE_EXPERT,
PERMUTE_COMPLETE (R349, R353, R354). -/
def Obligations.PermuteCommands : Prop :=
  -- REIN_PERMUTE (R349)
  (∀ (z : State) (wid : BitVec 64) (held : Bool) (c : Cmd), z.ready 0x0504 wid [] = some c →
    let s := z.markDispatched wid;
    let q : PermReq := { first := 0, last := 0xFFFF, timeout := 0, destOver := 0, staging := 0 };
    (!c.mgmt) →
    ∀ ls,
    s.ownLayout c (c.u32 4) = .ok ls →
    ∀ ld,
    s.ownLayout c (c.u32 12) = .ok ld →
    (c.u32 24 = 0 || (match tget s.learn.sets (c.u32 24) with | some l => l.paddock = c.pad | none => false)) →
    ∀ g,
    s.groupOf c.pad (c.u32 0) = .ok g →
    (c.u32 8 ≤ 1 && c.u32 16 ≤ 1 && q.first ≤ q.last) →
    (s.permAreas c q ld = .ok ()) →
    let p : PermInfo := { src := c.u32 4, srcSlot := c.u32 8, dst := c.u32 12, dstSlot := c.u32 16, version := BitVec.ofNat 32 (c.u32 20),
                          set := c.u32 24, first := q.first, last := q.last, destOver := q.destOver, staging := q.staging,
                          waiting := true, poison := 0 };
    let b := ld.slot p.dstSlot;
    (q.destOver = 0 && held && b.state = .held && b.version = p.version) →
    exec (.reinPermute wid held) z = .next (State.settle (s.ok c))) ∧
  (∀ (z : State) (wid : BitVec 64) (held : Bool) (c : Cmd), z.ready 0x0504 wid [] = some c →
    let s := z.markDispatched wid;
    let q : PermReq := { first := 0, last := 0xFFFF, timeout := 0, destOver := 0, staging := 0 };
    (!c.mgmt) →
    ∀ ls,
    s.ownLayout c (c.u32 4) = .ok ls →
    ∀ ld,
    s.ownLayout c (c.u32 12) = .ok ld →
    (c.u32 24 = 0 || (match tget s.learn.sets (c.u32 24) with | some l => l.paddock = c.pad | none => false)) →
    ∀ g,
    s.groupOf c.pad (c.u32 0) = .ok g →
    (c.u32 8 ≤ 1 && c.u32 16 ≤ 1 && q.first ≤ q.last) →
    (s.permAreas c q ld = .ok ()) →
    let p : PermInfo := { src := c.u32 4, srcSlot := c.u32 8, dst := c.u32 12, dstSlot := c.u32 16, version := BitVec.ofNat 32 (c.u32 20),
                          set := c.u32 24, first := q.first, last := q.last, destOver := q.destOver, staging := q.staging,
                          waiting := true, poison := 0 };
    let b := ld.slot p.dstSlot;
    ¬(q.destOver = 0 && held && b.state = .held && b.version = p.version) →
    let op := { newColl c.w c.pad (BitVec.ofNat 32 (c.u32 0)) 8 s.t g.rank with shape := permShape ls ld p, perm := some p };
    ∀ s1,
    s.startColl op g none q.timeout = .ok s1 →
    s1.collOf c.w = none →
    exec (.reinPermute wid held) z = .next (State.settle (s1))) ∧
  (∀ (z : State) (wid : BitVec 64) (held : Bool) (c : Cmd), z.ready 0x0504 wid [] = some c →
    let s := z.markDispatched wid;
    let q : PermReq := { first := 0, last := 0xFFFF, timeout := 0, destOver := 0, staging := 0 };
    (!c.mgmt) →
    ∀ ls,
    s.ownLayout c (c.u32 4) = .ok ls →
    ∀ ld,
    s.ownLayout c (c.u32 12) = .ok ld →
    (c.u32 24 = 0 || (match tget s.learn.sets (c.u32 24) with | some l => l.paddock = c.pad | none => false)) →
    ∀ g,
    s.groupOf c.pad (c.u32 0) = .ok g →
    (c.u32 8 ≤ 1 && c.u32 16 ≤ 1 && q.first ≤ q.last) →
    (s.permAreas c q ld = .ok ()) →
    let p : PermInfo := { src := c.u32 4, srcSlot := c.u32 8, dst := c.u32 12, dstSlot := c.u32 16, version := BitVec.ofNat 32 (c.u32 20),
                          set := c.u32 24, first := q.first, last := q.last, destOver := q.destOver, staging := q.staging,
                          waiting := true, poison := 0 };
    let b := ld.slot p.dstSlot;
    ¬(q.destOver = 0 && held && b.state = .held && b.version = p.version) →
    let op := { newColl c.w c.pad (BitVec.ofNat 32 (c.u32 0)) 8 s.t g.rank with shape := permShape ls ld p, perm := some p };
    ∀ s1,
    s.startColl op g none q.timeout = .ok s1 →
    ∀ x,
    s1.collOf c.w = some x →
    ∀ st,
    s.permFault g ls ld p = some st →
    exec (.reinPermute wid held) z = .next (State.settle (s1.abortColl { x with perm := none } st))) ∧
  (∀ (z : State) (wid : BitVec 64) (held : Bool) (c : Cmd), z.ready 0x0504 wid [] = some c →
    let s := z.markDispatched wid;
    let q : PermReq := { first := 0, last := 0xFFFF, timeout := 0, destOver := 0, staging := 0 };
    (!c.mgmt) →
    ∀ ls,
    s.ownLayout c (c.u32 4) = .ok ls →
    ∀ ld,
    s.ownLayout c (c.u32 12) = .ok ld →
    (c.u32 24 = 0 || (match tget s.learn.sets (c.u32 24) with | some l => l.paddock = c.pad | none => false)) →
    ∀ g,
    s.groupOf c.pad (c.u32 0) = .ok g →
    (c.u32 8 ≤ 1 && c.u32 16 ≤ 1 && q.first ≤ q.last) →
    (s.permAreas c q ld = .ok ()) →
    let p : PermInfo := { src := c.u32 4, srcSlot := c.u32 8, dst := c.u32 12, dstSlot := c.u32 16, version := BitVec.ofNat 32 (c.u32 20),
                          set := c.u32 24, first := q.first, last := q.last, destOver := q.destOver, staging := q.staging,
                          waiting := true, poison := 0 };
    let b := ld.slot p.dstSlot;
    ¬(q.destOver = 0 && held && b.state = .held && b.version = p.version) →
    let op := { newColl c.w c.pad (BitVec.ofNat 32 (c.u32 0)) 8 s.t g.rank with shape := permShape ls ld p, perm := some p };
    ∀ s1,
    s.startColl op g none q.timeout = .ok s1 →
    ∀ x,
    s1.collOf c.w = some x →
    s.permFault g ls ld p = none →
    exec (.reinPermute wid held) z = .next (State.settle (s1.greet c.w))) ∧
  -- REIN_PERMUTE_EXPERT (R353)
  (∀ (z : State) (wid : BitVec 64) (held : Bool) (c : Cmd), z.ready 0x0584 wid [] = some c →
    let s := z.markDispatched wid;
    let q : PermReq := { first := c.u16 32, last := c.u16 34, timeout := c.u32 36, destOver := c.u64 40, staging := c.u64 48 };
    (!c.mgmt) →
    ∀ ls,
    s.ownLayout c (c.u32 4) = .ok ls →
    ∀ ld,
    s.ownLayout c (c.u32 12) = .ok ld →
    (c.u32 24 = 0 || (match tget s.learn.sets (c.u32 24) with | some l => l.paddock = c.pad | none => false)) →
    ∀ g,
    s.groupOf c.pad (c.u32 0) = .ok g →
    (c.u32 8 ≤ 1 && c.u32 16 ≤ 1 && q.first ≤ q.last) →
    (s.permAreas c q ld = .ok ()) →
    let p : PermInfo := { src := c.u32 4, srcSlot := c.u32 8, dst := c.u32 12, dstSlot := c.u32 16, version := BitVec.ofNat 32 (c.u32 20),
                          set := c.u32 24, first := q.first, last := q.last, destOver := q.destOver, staging := q.staging,
                          waiting := true, poison := 0 };
    let b := ld.slot p.dstSlot;
    (q.destOver = 0 && held && b.state = .held && b.version = p.version) →
    exec (.reinPermuteExpert wid held) z = .next (State.settle (s.ok c))) ∧
  (∀ (z : State) (wid : BitVec 64) (held : Bool) (c : Cmd), z.ready 0x0584 wid [] = some c →
    let s := z.markDispatched wid;
    let q : PermReq := { first := c.u16 32, last := c.u16 34, timeout := c.u32 36, destOver := c.u64 40, staging := c.u64 48 };
    (!c.mgmt) →
    ∀ ls,
    s.ownLayout c (c.u32 4) = .ok ls →
    ∀ ld,
    s.ownLayout c (c.u32 12) = .ok ld →
    (c.u32 24 = 0 || (match tget s.learn.sets (c.u32 24) with | some l => l.paddock = c.pad | none => false)) →
    ∀ g,
    s.groupOf c.pad (c.u32 0) = .ok g →
    (c.u32 8 ≤ 1 && c.u32 16 ≤ 1 && q.first ≤ q.last) →
    (s.permAreas c q ld = .ok ()) →
    let p : PermInfo := { src := c.u32 4, srcSlot := c.u32 8, dst := c.u32 12, dstSlot := c.u32 16, version := BitVec.ofNat 32 (c.u32 20),
                          set := c.u32 24, first := q.first, last := q.last, destOver := q.destOver, staging := q.staging,
                          waiting := true, poison := 0 };
    let b := ld.slot p.dstSlot;
    ¬(q.destOver = 0 && held && b.state = .held && b.version = p.version) →
    let op := { newColl c.w c.pad (BitVec.ofNat 32 (c.u32 0)) 8 s.t g.rank with shape := permShape ls ld p, perm := some p };
    ∀ s1,
    s.startColl op g none q.timeout = .ok s1 →
    s1.collOf c.w = none →
    exec (.reinPermuteExpert wid held) z = .next (State.settle (s1))) ∧
  (∀ (z : State) (wid : BitVec 64) (held : Bool) (c : Cmd), z.ready 0x0584 wid [] = some c →
    let s := z.markDispatched wid;
    let q : PermReq := { first := c.u16 32, last := c.u16 34, timeout := c.u32 36, destOver := c.u64 40, staging := c.u64 48 };
    (!c.mgmt) →
    ∀ ls,
    s.ownLayout c (c.u32 4) = .ok ls →
    ∀ ld,
    s.ownLayout c (c.u32 12) = .ok ld →
    (c.u32 24 = 0 || (match tget s.learn.sets (c.u32 24) with | some l => l.paddock = c.pad | none => false)) →
    ∀ g,
    s.groupOf c.pad (c.u32 0) = .ok g →
    (c.u32 8 ≤ 1 && c.u32 16 ≤ 1 && q.first ≤ q.last) →
    (s.permAreas c q ld = .ok ()) →
    let p : PermInfo := { src := c.u32 4, srcSlot := c.u32 8, dst := c.u32 12, dstSlot := c.u32 16, version := BitVec.ofNat 32 (c.u32 20),
                          set := c.u32 24, first := q.first, last := q.last, destOver := q.destOver, staging := q.staging,
                          waiting := true, poison := 0 };
    let b := ld.slot p.dstSlot;
    ¬(q.destOver = 0 && held && b.state = .held && b.version = p.version) →
    let op := { newColl c.w c.pad (BitVec.ofNat 32 (c.u32 0)) 8 s.t g.rank with shape := permShape ls ld p, perm := some p };
    ∀ s1,
    s.startColl op g none q.timeout = .ok s1 →
    ∀ x,
    s1.collOf c.w = some x →
    ∀ st,
    s.permFault g ls ld p = some st →
    exec (.reinPermuteExpert wid held) z = .next (State.settle (s1.abortColl { x with perm := none } st))) ∧
  (∀ (z : State) (wid : BitVec 64) (held : Bool) (c : Cmd), z.ready 0x0584 wid [] = some c →
    let s := z.markDispatched wid;
    let q : PermReq := { first := c.u16 32, last := c.u16 34, timeout := c.u32 36, destOver := c.u64 40, staging := c.u64 48 };
    (!c.mgmt) →
    ∀ ls,
    s.ownLayout c (c.u32 4) = .ok ls →
    ∀ ld,
    s.ownLayout c (c.u32 12) = .ok ld →
    (c.u32 24 = 0 || (match tget s.learn.sets (c.u32 24) with | some l => l.paddock = c.pad | none => false)) →
    ∀ g,
    s.groupOf c.pad (c.u32 0) = .ok g →
    (c.u32 8 ≤ 1 && c.u32 16 ≤ 1 && q.first ≤ q.last) →
    (s.permAreas c q ld = .ok ()) →
    let p : PermInfo := { src := c.u32 4, srcSlot := c.u32 8, dst := c.u32 12, dstSlot := c.u32 16, version := BitVec.ofNat 32 (c.u32 20),
                          set := c.u32 24, first := q.first, last := q.last, destOver := q.destOver, staging := q.staging,
                          waiting := true, poison := 0 };
    let b := ld.slot p.dstSlot;
    ¬(q.destOver = 0 && held && b.state = .held && b.version = p.version) →
    let op := { newColl c.w c.pad (BitVec.ofNat 32 (c.u32 0)) 8 s.t g.rank with shape := permShape ls ld p, perm := some p };
    ∀ s1,
    s.startColl op g none q.timeout = .ok s1 →
    ∀ x,
    s1.collOf c.w = some x →
    s.permFault g ls ld p = none →
    exec (.reinPermuteExpert wid held) z = .next (State.settle (s1.greet c.w))) ∧
  -- PERMUTE_COMPLETE (R354)
  (∀ (w : BitVec 64) (z : State),
    let s := z;
    ∀ c,
    s.collOf w = some c →
    ∀ p,
    c.perm = some p →
    ∀ g,
    tget s.trace.groups c.group.toNat = some g →
    ¬(p.waiting || !s.collMoved c g) →
    let bad := p.poison;
    let sent := sumNat ((ranksAfter g.members.length g.rank).flatMap fun d => (s.outX c g d).map fun x => x.n);
    let s := if p.destOver != 0 then s else
        (s.modSlot p.dst p.dstSlot fun x => { x with state := if bad = 0 then .held else .poisoned }).writeSlot p.dst p.dstSlot;
    let note := fun (l : Layout) => { l with sent := sent, recvd := c.bytesIn, durNs := s.t - c.started };
    let s : State := { s with rein := { s.rein with layouts := tmod (tmod s.rein.layouts p.dst note) p.src note } };
    exec (.permuteComplete w) z = .next (State.settle (s.endColl w (if bad = 0 then stOk else stDataPoisoned) c.bytesIn bad)))

/-- The group and collective commands complete with their effects: TRACE_GROUP_CREATE, TRACE_GROUP_CREATE_EXPERT,
TRACE_GROUP_DESTROY, TRACE_GROUP_DESTROY_EXPERT, TRACE_COLL, TRACE_COLL_EXPERT, TRACE_COLL_CANCEL,
TRACE_COLL_CANCEL_EXPERT, TRACE_GROUP_QUERY, TRACE_GROUP_QUERY_EXPERT, COLLECTIVE_TIMEOUT (R388, R390, R397, R405,
R409, R410). -/
def Obligations.GroupAndCollectiveCommands : Prop :=
  -- TRACE_GROUP_CREATE (R388)
  (∀ (z : State) (wid : BitVec 64) (hm : HostImage) (c : Cmd), z.ready 0x0601 wid hm = some c →
    let s := z.markDispatched wid;
    let mib : Nat := 16;
    let ops : Nat := 16;
    let merge : Nat := 4;
    let timeout : Nat := 10000;
    let kib : Nat := 1024;
    let addr : Nat := 0;
    (!c.mgmt) →
    let id := c.u32 0;
    let n := c.u32 4;
    (id != 0 && !thas s.trace.groups id && 2 ≤ n && n ≤ 16384) →
    ∀ bs x1,
    s.readBuf c (c.u64 8) (2 * n) = .ok (bs, x1) →
    let ms := (List.range n).map fun i => BitVec.ofNat 16 (fld bs (2 * i) 2);
    (ms.eraseDups.length = n && ms.contains s.part.partId) →
    let chunk := kib * 1024;
    let len := mib * 2 ^ 20;
    (16 ≤ kib && kib ≤ 4096 && kib % 16 = 0 && 4 * chunk ≤ len && len ≤ 2 ^ 30 && 1 ≤ ops && ops ≤ 64 && 1 ≤ merge &&
      merge ≤ 16 && 1 ≤ timeout && timeout ≤ 600000) →
    let gs := s.trace.groups;
    (gs.length < 4096 && (gs.filter fun e => e.2.paddock = some c.pad).length < 512 &&
      sumNat (gs.map (·.2.ops)) + ops ≤ 16384 && sumNat (gs.map (·.2.merge)) + merge ≤ 256) →
    ∀ at_ own s1,
    (if addr != 0 then do
        let e ← s.ownRange c addr len [.basin]
        need (!e.2.near && gs.all fun x => addr + len ≤ x.2.staging || x.2.staging + x.2.stagingLen ≤ addr) stBadParam
        .ok (addr, false, s)
      else do
        let r ← s.allocate { owner := c.pad, tier := .basin, near := false, die := 0, len := len, persist := true,
                             moored := false, sys := false }
        .ok (r.1, true, r.2) : Except Err _) = .ok (at_, own, s1) →
    let g : TGroup := { paddock := some c.pad, members := ms, rank := ms.findIdx (· == s.part.partId), staging := at_, stagingLen := len,
                        stagingOwn := own, ops := ops, merge := merge, timeout := timeout, chunk := chunk, issued := 0, completed := 0,
                        aborted := [], greeted := [], dispatched := [] };
    let s2 : State := { s1 with trace := { s1.trace with groups := tput s1.trace.groups id g } };
    exec (.traceGroupCreate wid hm) z = .next (State.settle
      (s2.ok c g.rank ((membersDigest (BitVec.ofNat 32 id) ms).toNat % 2 ^ 32)))) ∧
  -- TRACE_GROUP_CREATE_EXPERT (R388)
  (∀ (z : State) (wid : BitVec 64) (hm : HostImage) (c : Cmd), z.ready 0x0681 wid hm = some c →
    let s := z.markDispatched wid;
    let mib : Nat := c.u32 16;
    let ops : Nat := c.u32 20;
    let merge : Nat := c.u32 24;
    let timeout : Nat := c.u32 28;
    let kib : Nat := c.u32 32;
    let addr : Nat := c.u64 36;
    (!c.mgmt) →
    let id := c.u32 0;
    let n := c.u32 4;
    (id != 0 && !thas s.trace.groups id && 2 ≤ n && n ≤ 16384) →
    ∀ bs x1,
    s.readBuf c (c.u64 8) (2 * n) = .ok (bs, x1) →
    let ms := (List.range n).map fun i => BitVec.ofNat 16 (fld bs (2 * i) 2);
    (ms.eraseDups.length = n && ms.contains s.part.partId) →
    let chunk := kib * 1024;
    let len := mib * 2 ^ 20;
    (16 ≤ kib && kib ≤ 4096 && kib % 16 = 0 && 4 * chunk ≤ len && len ≤ 2 ^ 30 && 1 ≤ ops && ops ≤ 64 && 1 ≤ merge &&
      merge ≤ 16 && 1 ≤ timeout && timeout ≤ 600000) →
    let gs := s.trace.groups;
    (gs.length < 4096 && (gs.filter fun e => e.2.paddock = some c.pad).length < 512 &&
      sumNat (gs.map (·.2.ops)) + ops ≤ 16384 && sumNat (gs.map (·.2.merge)) + merge ≤ 256) →
    ∀ at_ own s1,
    (if addr != 0 then do
        let e ← s.ownRange c addr len [.basin]
        need (!e.2.near && gs.all fun x => addr + len ≤ x.2.staging || x.2.staging + x.2.stagingLen ≤ addr) stBadParam
        .ok (addr, false, s)
      else do
        let r ← s.allocate { owner := c.pad, tier := .basin, near := false, die := 0, len := len, persist := true,
                             moored := false, sys := false }
        .ok (r.1, true, r.2) : Except Err _) = .ok (at_, own, s1) →
    let g : TGroup := { paddock := some c.pad, members := ms, rank := ms.findIdx (· == s.part.partId), staging := at_, stagingLen := len,
                        stagingOwn := own, ops := ops, merge := merge, timeout := timeout, chunk := chunk, issued := 0, completed := 0,
                        aborted := [], greeted := [], dispatched := [] };
    let s2 : State := { s1 with trace := { s1.trace with groups := tput s1.trace.groups id g } };
    exec (.traceGroupCreateExpert wid hm) z = .next (State.settle
      (s2.ok c g.rank ((membersDigest (BitVec.ofNat 32 id) ms).toNat % 2 ^ 32)))) ∧
  -- TRACE_GROUP_DESTROY (R409)
  (∀ (z : State) (wid : BitVec 64) (c : Cmd), z.ready 0x0602 wid [] = some c →
    let s := z.markDispatched wid;
    let k := c.u32 0;
    ∀ g,
    s.groupOf c.pad k = .ok g →
    exec (.traceGroupDestroy wid) z = .next (State.settle (((s.endGroupOps k stCancelled).dropGroup k g).ok c))) ∧
  -- TRACE_GROUP_DESTROY_EXPERT (R409)
  (∀ (z : State) (wid : BitVec 64) (c : Cmd), z.ready 0x0682 wid [] = some c →
    let s := z.markDispatched wid;
    ∀ x1,
    s.groupOf c.pad (c.u32 0) = .ok x1 →
    (c.flag 4) →
    exec (.traceGroupDestroyExpert wid) z = .next (State.settle (s.wait c.w (.groupFree (c.u32 0))))) ∧
  (∀ (z : State) (wid : BitVec 64) (c : Cmd), z.ready 0x0682 wid [] = some c →
    let s := z.markDispatched wid;
    ∀ x1,
    s.groupOf c.pad (c.u32 0) = .ok x1 →
    ¬(c.flag 4) →
    let k := c.u32 0;
    ∀ g,
    s.groupOf c.pad k = .ok g →
    exec (.traceGroupDestroyExpert wid) z = .next (State.settle (((s.endGroupOps k stCancelled).dropGroup k g).ok c))) ∧
  -- TRACE_COLL (R390)
  (∀ (z : State) (wid : BitVec 64) (c : Cmd), z.ready 0x0603 wid [] = some c →
    let s := z.markDispatched wid;
    ∀ g,
    s.groupOf c.pad (c.u32 0) = .ok g →
    let n := g.members.length;
    let x0 := collOfDesc c.p c.w c.pad s.t g.rank;
    (x0.inRange n && x0.listed c.p) →
    let q := if x0.kind = 7 then g.dispatchOf x0.aux x0.round else none;
    (x0.kind != 7 || (match q with | some d => d.itemBytes = x0.itemBytes | none => false)) →
    ∀ x1,
    s.readKeys c x0 (fld c.p 96 8) n = .ok x1 →
    let x := if x1.kind = 1 && x1.root != g.rank then { x1 with srcStream := false } else x1;
    (s.collOperands c g x = .ok ()) →
    ∀ s1,
    s.startColl x g (if bitAt (fld c.p 35 1) 2 then some (fld c.p 64 8) else none) (fld c.p 72 4) = .ok s1 →
    s1.collOf c.w = none →
    exec (.traceColl wid) z = .next (State.settle (s1))) ∧
  (∀ (z : State) (wid : BitVec 64) (c : Cmd), z.ready 0x0603 wid [] = some c →
    let s := z.markDispatched wid;
    ∀ g,
    s.groupOf c.pad (c.u32 0) = .ok g →
    let n := g.members.length;
    let x0 := collOfDesc c.p c.w c.pad s.t g.rank;
    (x0.inRange n && x0.listed c.p) →
    let q := if x0.kind = 7 then g.dispatchOf x0.aux x0.round else none;
    (x0.kind != 7 || (match q with | some d => d.itemBytes = x0.itemBytes | none => false)) →
    ∀ x1,
    s.readKeys c x0 (fld c.p 96 8) n = .ok x1 →
    let x := if x1.kind = 1 && x1.root != g.rank then { x1 with srcStream := false } else x1;
    (s.collOperands c g x = .ok ()) →
    ∀ s1,
    s.startColl x g (if bitAt (fld c.p 35 1) 2 then some (fld c.p 64 8) else none) (fld c.p 72 4) = .ok s1 →
    ∀ y,
    s1.collOf c.w = some y →
    let s2 := if y.srcStream then s1.modStream y.src fun st => { st with consEnd := tput st.consEnd y.consumer (.coll c.w) } else s1;
    let s3 := if y.dstStream then s2.modStream y.dst fun st => { st with producer := some (.coll c.w) } else s2;
    (y.kind = 6) →
    exec (.traceColl wid) z = .next (State.settle
      ((s3.modColl c.w fun z => { z with keys := z.keys ++ [(g.rank, (y.keysTo n g.rank).flatMap id)] }).sendKeys y g))) ∧
  (∀ (z : State) (wid : BitVec 64) (c : Cmd), z.ready 0x0603 wid [] = some c →
    let s := z.markDispatched wid;
    ∀ g,
    s.groupOf c.pad (c.u32 0) = .ok g →
    let n := g.members.length;
    let x0 := collOfDesc c.p c.w c.pad s.t g.rank;
    (x0.inRange n && x0.listed c.p) →
    let q := if x0.kind = 7 then g.dispatchOf x0.aux x0.round else none;
    (x0.kind != 7 || (match q with | some d => d.itemBytes = x0.itemBytes | none => false)) →
    ∀ x1,
    s.readKeys c x0 (fld c.p 96 8) n = .ok x1 →
    let x := if x1.kind = 1 && x1.root != g.rank then { x1 with srcStream := false } else x1;
    (s.collOperands c g x = .ok ()) →
    ∀ s1,
    s.startColl x g (if bitAt (fld c.p 35 1) 2 then some (fld c.p 64 8) else none) (fld c.p 72 4) = .ok s1 →
    ∀ y,
    s1.collOf c.w = some y →
    let s2 := if y.srcStream then s1.modStream y.src fun st => { st with consEnd := tput st.consEnd y.consumer (.coll c.w) } else s1;
    let s3 := if y.dstStream then s2.modStream y.dst fun st => { st with producer := some (.coll c.w) } else s2;
    ¬(y.kind = 6) →
    exec (.traceColl wid) z = .next (State.settle (s3))) ∧
  -- TRACE_COLL_EXPERT (R390)
  (∀ (z : State) (wid : BitVec 64) (hm : HostImage) (c : Cmd), z.ready 0x0683 wid hm = some c →
    let s := z.markDispatched wid;
    ∀ g,
    s.groupOf c.pad (c.u32 0) = .ok g →
    let n := g.members.length;
    let x0 := collOfDesc c.p c.w c.pad s.t g.rank;
    (x0.inRange n && x0.listed c.p) →
    let q := if x0.kind = 7 then g.dispatchOf x0.aux x0.round else none;
    (x0.kind != 7 || (match q with | some d => d.itemBytes = x0.itemBytes | none => false)) →
    ∀ x1,
    s.readKeys c x0 (fld c.p 96 8) n = .ok x1 →
    let x := if x1.kind = 1 && x1.root != g.rank then { x1 with srcStream := false } else x1;
    (s.collOperands c g x = .ok ()) →
    ∀ s1,
    s.startColl x g (if bitAt (fld c.p 35 1) 2 then some (fld c.p 64 8) else none) (fld c.p 72 4) = .ok s1 →
    s1.collOf c.w = none →
    exec (.traceCollExpert wid hm) z = .next (State.settle (s1))) ∧
  (∀ (z : State) (wid : BitVec 64) (hm : HostImage) (c : Cmd), z.ready 0x0683 wid hm = some c →
    let s := z.markDispatched wid;
    ∀ g,
    s.groupOf c.pad (c.u32 0) = .ok g →
    let n := g.members.length;
    let x0 := collOfDesc c.p c.w c.pad s.t g.rank;
    (x0.inRange n && x0.listed c.p) →
    let q := if x0.kind = 7 then g.dispatchOf x0.aux x0.round else none;
    (x0.kind != 7 || (match q with | some d => d.itemBytes = x0.itemBytes | none => false)) →
    ∀ x1,
    s.readKeys c x0 (fld c.p 96 8) n = .ok x1 →
    let x := if x1.kind = 1 && x1.root != g.rank then { x1 with srcStream := false } else x1;
    (s.collOperands c g x = .ok ()) →
    ∀ s1,
    s.startColl x g (if bitAt (fld c.p 35 1) 2 then some (fld c.p 64 8) else none) (fld c.p 72 4) = .ok s1 →
    ∀ y,
    s1.collOf c.w = some y →
    let s2 := if y.srcStream then s1.modStream y.src fun st => { st with consEnd := tput st.consEnd y.consumer (.coll c.w) } else s1;
    let s3 := if y.dstStream then s2.modStream y.dst fun st => { st with producer := some (.coll c.w) } else s2;
    (y.kind = 6) →
    exec (.traceCollExpert wid hm) z = .next (State.settle
      ((s3.modColl c.w fun z => { z with keys := z.keys ++ [(g.rank, (y.keysTo n g.rank).flatMap id)] }).sendKeys y g))) ∧
  (∀ (z : State) (wid : BitVec 64) (hm : HostImage) (c : Cmd), z.ready 0x0683 wid hm = some c →
    let s := z.markDispatched wid;
    ∀ g,
    s.groupOf c.pad (c.u32 0) = .ok g →
    let n := g.members.length;
    let x0 := collOfDesc c.p c.w c.pad s.t g.rank;
    (x0.inRange n && x0.listed c.p) →
    let q := if x0.kind = 7 then g.dispatchOf x0.aux x0.round else none;
    (x0.kind != 7 || (match q with | some d => d.itemBytes = x0.itemBytes | none => false)) →
    ∀ x1,
    s.readKeys c x0 (fld c.p 96 8) n = .ok x1 →
    let x := if x1.kind = 1 && x1.root != g.rank then { x1 with srcStream := false } else x1;
    (s.collOperands c g x = .ok ()) →
    ∀ s1,
    s.startColl x g (if bitAt (fld c.p 35 1) 2 then some (fld c.p 64 8) else none) (fld c.p 72 4) = .ok s1 →
    ∀ y,
    s1.collOf c.w = some y →
    let s2 := if y.srcStream then s1.modStream y.src fun st => { st with consEnd := tput st.consEnd y.consumer (.coll c.w) } else s1;
    let s3 := if y.dstStream then s2.modStream y.dst fun st => { st with producer := some (.coll c.w) } else s2;
    ¬(y.kind = 6) →
    exec (.traceCollExpert wid hm) z = .next (State.settle (s3))) ∧
  -- TRACE_COLL_CANCEL (R405)
  (∀ (z : State) (wid : BitVec 64) (c : Cmd), z.ready 0x0604 wid [] = some c →
    let s := z.markDispatched wid;
    ∀ g,
    s.groupOf c.pad (c.u32 0) = .ok g →
    ∀ x,
    s.coll (BitVec.ofNat 32 (c.u32 0)) (c.u64 4) = some x →
    exec (.traceCollCancel wid) z = .next (State.settle ((s.abortColl x stCancelled).ok c))) ∧
  -- TRACE_COLL_CANCEL_EXPERT (R405)
  (∀ (z : State) (wid : BitVec 64) (c : Cmd), z.ready 0x0684 wid [] = some c →
    let s := z.markDispatched wid;
    let s := s.reason c (c.u32 12);
    ∀ g,
    s.groupOf c.pad (c.u32 0) = .ok g →
    ∀ x,
    s.coll (BitVec.ofNat 32 (c.u32 0)) (c.u64 4) = some x →
    exec (.traceCollCancelExpert wid) z = .next (State.settle ((s.abortColl x stCancelled).ok c))) ∧
  -- TRACE_GROUP_QUERY (R410)
  (∀ (z : State) (wid : BitVec 64) (c : Cmd), z.ready 0x060C wid [] = some c →
    let s := z.markDispatched wid;
    ∀ g,
    s.groupOf c.pad (c.u32 0) = .ok g →
    ∀ s1,
    s.writeBuf c (c.u64 4) (s.groupRecord (c.u32 0) g) = .ok s1 →
    exec (.traceGroupQuery wid) z = .next (State.settle (s1.ok c))) ∧
  -- TRACE_GROUP_QUERY_EXPERT (R410)
  (∀ (z : State) (wid : BitVec 64) (c : Cmd), z.ready 0x068C wid [] = some c →
    let s := z.markDispatched wid;
    let gs := (s.trace.groups.filter fun e => e.2.paddock = some c.pad).take (c.u32 8);
    ∀ s1,
    s.writeBuf c (c.u64 0) (gs.flatMap fun e => s.groupRecord e.1 e.2) = .ok s1 →
    exec (.traceGroupQueryExpert wid) z = .next (State.settle (s1.ok c gs.length))) ∧
  -- COLLECTIVE_TIMEOUT (R397)
  (∀ (group : Nat) (seq : Nat) (s : State),
    ∀ c,
    s.coll (BitVec.ofNat 32 group) seq = some c →
    exec (.collectiveTimeout group seq) s = .next (State.settle ((s.reach c.deadline).abortColl c stCollectiveTimeout))) ∧
  (∀ (group : Nat) (seq : Nat) (s : State),
    s.coll (BitVec.ofNat 32 group) seq = none →
    exec (.collectiveTimeout group seq) s = .next (State.settle (s.moorTimeout group)))

/-- The port, time, window, send, receive and cancel commands complete with their effects: TRACE_WINDOW_REGISTER,
TRACE_WINDOW_REGISTER_EXPERT, TRACE_SEND, TRACE_SEND_EXPERT, TRACE_RECV, TRACE_RECV_EXPERT, TRACE_MSG_CANCEL,
TRACE_MSG_CANCEL_EXPERT, SEND_TIMEOUT, TRACE_PORT_QUERY, TRACE_PORT_QUERY_EXPERT, TRACE_PORT_CONTROL,
TRACE_PORT_CONTROL_EXPERT, TRACE_TIME_QUERY, TRACE_TIME_CONFIG (R375, R379, R383, R402, R403, R404, R410). -/
def Obligations.PortWindowAndMessageCommands : Prop :=
  -- TRACE_WINDOW_REGISTER (R402)
  (∀ (z : State) (wid : BitVec 64) (c : Cmd), z.ready 0x0605 wid [] = some c →
    let s := z.markDispatched wid;
    (!c.mgmt) →
    let k := c.u32 0;
    (1 ≤ k && k ≤ 65535 && 1 ≤ c.u32 4 && 1 ≤ c.u32 8) →
    (!thas s.trace.windows k) →
    ((c.u32 12 != 0) → (∃ x, s.groupOf c.pad (c.u32 12) = .ok x)) →
    (s.collRange c (c.u64 16) (c.u32 4 * c.u32 8) = .ok ()) →
    let v : Window := { paddock := c.pad, slots := c.u32 4, slotBytes := c.u32 8, group := BitVec.ofNat 32 (c.u32 12),
                        addr := c.u64 16, full := [], busy := [], recvs := [] };
    exec (.traceWindowRegister wid) z = .next (State.settle
      (({ s with trace := { s.trace with windows := tput s.trace.windows k v } } : State).ok c))) ∧
  -- TRACE_WINDOW_REGISTER_EXPERT (R402)
  (∀ (z : State) (wid : BitVec 64) (c : Cmd), z.ready 0x0685 wid [] = some c →
    let s := z.markDispatched wid;
    ∀ v,
    s.ownWindow c (c.u32 0) = .ok v →
    (c.flag 4) →
    exec (.traceWindowRegisterExpert wid) z = .next (State.settle
      ((({ s with trace := { s.trace with windows := tdel s.trace.windows (c.u32 0) } } : State).completeAll v.recvs
      stCancelled).ok c))) ∧
  (∀ (z : State) (wid : BitVec 64) (c : Cmd), z.ready 0x0685 wid [] = some c →
    let s := z.markDispatched wid;
    ∀ v,
    s.ownWindow c (c.u32 0) = .ok v →
    ¬(c.flag 4) →
    exec (.traceWindowRegisterExpert wid) z = .next (State.settle (s.ok c))) ∧
  -- TRACE_SEND (R402)
  (∀ (z : State) (wid : BitVec 64) (hm : HostImage) (c : Cmd), z.ready 0x0606 wid hm = some c →
    let s := z.markDispatched wid;
    let timeout : Nat := 10000;
    (!c.mgmt) →
    (1 ≤ c.u32 4 && c.u32 4 ≤ 65535 && c.u32 8 ≤ 4194304) →
    ∀ loc,
    s.resolve c (c.u64 16) (c.u32 8) false = .ok loc →
    let p1 := s.readLoc c loc (c.u32 8);
    let bs := p1.1;
    let bad := p1.2;
    let lines := match loc with
      | .host _ => if bad then List.range ((bs.length + 255) / 256) else []
      | .part a _ => (List.range ((bs.length + 255) / 256)).filter fun l => s.poisoned (a + 256 * l) (min 256 (bs.length - 256 * l));
    let dest := BitVec.ofNat 16 (c.u16 0);
    let x : Send := { wid := c.w, paddock := c.pad, dest := dest, window := c.u32 4, number := none,
                      deadline := s.t + timeout * msNs };
    let s1 : State := { s with trace := { s.trace with sends := s.trace.sends ++ [x] } };
    exec (.traceSend wid hm) z = .next (State.settle
      (s1.enqueue { s1.newMsg dest 4 (BitVec.ofNat 32 (c.u32 4)) 0 with len := bs.length, data := bs, poison := lines } c.w c.pad))) ∧
  -- TRACE_SEND_EXPERT (R402)
  (∀ (z : State) (wid : BitVec 64) (hm : HostImage) (c : Cmd), z.ready 0x0686 wid hm = some c →
    let s := z.markDispatched wid;
    let timeout : Nat := c.u32 24;
    (!c.mgmt) →
    (1 ≤ c.u32 4 && c.u32 4 ≤ 65535 && c.u32 8 ≤ 4194304) →
    ∀ loc,
    s.resolve c (c.u64 16) (c.u32 8) false = .ok loc →
    let p1 := s.readLoc c loc (c.u32 8);
    let bs := p1.1;
    let bad := p1.2;
    let lines := match loc with
      | .host _ => if bad then List.range ((bs.length + 255) / 256) else []
      | .part a _ => (List.range ((bs.length + 255) / 256)).filter fun l => s.poisoned (a + 256 * l) (min 256 (bs.length - 256 * l));
    let dest := BitVec.ofNat 16 (c.u16 0);
    let x : Send := { wid := c.w, paddock := c.pad, dest := dest, window := c.u32 4, number := none,
                      deadline := s.t + timeout * msNs };
    let s1 : State := { s with trace := { s.trace with sends := s.trace.sends ++ [x] } };
    exec (.traceSendExpert wid hm) z = .next (State.settle
      (s1.enqueue { s1.newMsg dest 4 (BitVec.ofNat 32 (c.u32 4)) 0 with len := bs.length, data := bs, poison := lines } c.w c.pad))) ∧
  -- TRACE_RECV (R403)
  (∀ (z : State) (wid : BitVec 64) (c : Cmd), z.ready 0x0607 wid [] = some c →
    let s := z.markDispatched wid;
    ∀ x1,
    s.ownWindow c (c.u32 0) = .ok x1 →
    let s1 := s.modWindow (c.u32 0) fun v => { v with recvs := v.recvs ++ [c.w] };
    exec (.traceRecv wid) z = .next (State.settle (State.handOver 1 (c.u32 0) s1))) ∧
  -- TRACE_RECV_EXPERT (R403)
  (∀ (z : State) (wid : BitVec 64) (c : Cmd), z.ready 0x0687 wid [] = some c →
    let s := z.markDispatched wid;
    ∀ v,
    s.ownWindow c (c.u32 0) = .ok v →
    (v.busy.contains (c.u32 4)) →
    exec (.traceRecvExpert wid) z = .next (State.settle
      ((s.modWindow (c.u32 0) fun v => { v with busy := v.busy.filter (· != c.u32 4) }).ok c))) ∧
  -- TRACE_MSG_CANCEL (R404)
  (∀ (z : State) (wid : BitVec 64) (c : Cmd), z.ready 0x0608 wid [] = some c →
    let s := z.markDispatched wid;
    let w := BitVec.ofNat 64 (c.u64 0);
    ∀ x',
    (s.trace.sends.find? fun x => x.wid = w && x.paddock = c.pad) = some x' →
    let x := x';
    ¬(x.number.isSome) →
    let s1 : State := { s with trace := { s.trace with
      sends := s.trace.sends.filter fun y => y.wid != w, queue := s.trace.queue.filter fun y => y.wid != w } };
    exec (.traceMsgCancel wid) z = .next (State.settle ((s1.complete w stCancelled).ok c))) ∧
  -- TRACE_MSG_CANCEL_EXPERT (R404)
  (∀ (z : State) (wid : BitVec 64) (c : Cmd), z.ready 0x0688 wid [] = some c →
    let s := z.markDispatched wid;
    let w := BitVec.ofNat 64 (c.u64 0);
    ∀ x',
    (s.trace.sends.find? fun x => x.wid = w && x.paddock = c.pad) = some x' →
    let x := x';
    ¬(x.number.isSome) →
    let s1 : State := { s with trace := { s.trace with
      sends := s.trace.sends.filter fun y => y.wid != w, queue := s.trace.queue.filter fun y => y.wid != w } };
    exec (.traceMsgCancelExpert wid) z = .next (State.settle ((s1.complete w stCancelled).ok c))) ∧
  -- SEND_TIMEOUT (R402)
  (∀ (w : BitVec 64) (z : State),
    let s := z;
    ∀ x',
    (s.trace.sends.find? fun x => x.wid = w) = some x' →
    let x := x';
    ¬(!s.trace.queue.any fun y => y.wid = w) →
    let s := s.reach x.deadline;
    let s : State := { s with trace := { s.trace with
      sends := s.trace.sends.filter fun y => y.wid != w, queue := s.trace.queue.filter fun y => y.wid != w } };
    exec (.sendTimeout w) z = .next (State.settle (s.complete w stPeerUnreachable))) ∧
  -- TRACE_PORT_QUERY (R410)
  (∀ (z : State) (wid : BitVec 64) (c : Cmd), z.ready 0x0609 wid [] = some c →
    let s := z.markDispatched wid;
    ∀ s1,
    s.writeBuf c (c.u64 0) ((List.range 16).flatMap s.portRecord) = .ok s1 →
    exec (.tracePortQuery wid) z = .next (State.settle (s1.ok c))) ∧
  -- TRACE_PORT_QUERY_EXPERT (R410)
  (∀ (z : State) (wid : BitVec 64) (c : Cmd), z.ready 0x0689 wid [] = some c →
    let s := z.markDispatched wid;
    let ps := (List.range 16).filter fun p => bitAt (c.u32 8) p;
    let s := ps.foldl (fun s p => s.countFec p) s;
    ∀ s1,
    (s.writeBuf c (c.u64 0) (ps.flatMap fun p => s.portRecord p ++
      (List.range 4).flatMap fun l => leBytes 8 (tgetD 0#64 (s.port p).fecSym l).toNat) : Except Err _) = .ok s1 →
    exec (.tracePortQueryExpert wid) z = .next (State.settle (s1.ok c ps.length))) ∧
  -- TRACE_PORT_CONTROL (R379)
  (∀ (z : State) (wid : BitVec 64) (c : Cmd), z.ready 0x060A wid [] = some c →
    let s := z.markDispatched wid;
    ∀ p,
    c.portNo = .ok p →
    let q := s.port p;
    c.u32 4 = 0 →
    let width : Nat := goodWidth q.lanesBad;
    ((s.port p).state = .admitted || (s.port p).state = .retraining) →
    exec (.tracePortControl wid) z = .next (State.settle
      ((s.modPort p fun q => { q with retrainBy := q.retrainBy ++ [c.w] }).askRetrain p width))) ∧
  (∀ (z : State) (wid : BitVec 64) (c : Cmd), z.ready 0x060A wid [] = some c →
    let s := z.markDispatched wid;
    ∀ p,
    c.portNo = .ok p →
    let q := s.port p;
    c.u32 4 = 1 →
    (q.state = .admitted && !q.peerSwitch && q.swapBy.isNone) →
    exec (.tracePortControl wid) z = .next (State.settle (s.askSwap p c.w))) ∧
  -- TRACE_PORT_CONTROL_EXPERT (R375)
  (∀ (z : State) (wid : BitVec 64) (c : Cmd), z.ready 0x068A wid [] = some c →
    let s := z.markDispatched wid;
    ∀ p,
    c.portNo = .ok p →
    let q := s.port p;
    c.u32 4 = 2 →
    (q.state = .down || q.state = .admitted) →
    exec (.tracePortControlExpert wid) z = .next (State.settle (((s.failPort p).enterPort p .disabled).ok c))) ∧
  (∀ (z : State) (wid : BitVec 64) (c : Cmd), z.ready 0x068A wid [] = some c →
    let s := z.markDispatched wid;
    ∀ p,
    c.portNo = .ok p →
    let q := s.port p;
    c.u32 4 = 3 →
    (q.state = .disabled) →
    exec (.tracePortControlExpert wid) z = .next (State.settle
      (((s.modPort p fun q => { q with downAt := s.t }).enterPort p .down).ok c))) ∧
  (∀ (z : State) (wid : BitVec 64) (c : Cmd), z.ready 0x068A wid [] = some c →
    let s := z.markDispatched wid;
    ∀ p,
    c.portNo = .ok p →
    let q := s.port p;
    c.u32 4 = 4 →
    (q.state = .quarantined) →
    exec (.tracePortControlExpert wid) z = .next (State.settle
      ((((s.modPort p fun q => { q with violTimes := [] }).enterPort p .admitted).chooseParent).ok c))) ∧
  (∀ (z : State) (wid : BitVec 64) (c : Cmd), z.ready 0x068A wid [] = some c →
    let s := z.markDispatched wid;
    ∀ p,
    c.portNo = .ok p →
    let q := s.port p;
    c.u32 4 = 5 →
    (q.state = .admitted && q.steward) →
    let width : Nat := 2;
    ((s.port p).state = .admitted || (s.port p).state = .retraining) →
    exec (.tracePortControlExpert wid) z = .next (State.settle
      ((s.modPort p fun q => { q with retrainBy := q.retrainBy ++ [c.w] }).askRetrain p width))) ∧
  (∀ (z : State) (wid : BitVec 64) (c : Cmd), z.ready 0x068A wid [] = some c →
    let s := z.markDispatched wid;
    ∀ p,
    c.portNo = .ok p →
    let q := s.port p;
    c.u32 4 = 6 →
    (q.state = .admitted && q.steward) →
    let width : Nat := 1;
    ((s.port p).state = .admitted || (s.port p).state = .retraining) →
    exec (.tracePortControlExpert wid) z = .next (State.settle
      ((s.modPort p fun q => { q with retrainBy := q.retrainBy ++ [c.w] }).askRetrain p width))) ∧
  -- TRACE_TIME_QUERY (R410)
  (∀ (z : State) (wid : BitVec 64) (c : Cmd), z.ready 0x060B wid [] = some c →
    let s := z.markDispatched wid;
    let tm := s.trace.time;
    let b := fun (i : Nat) => leBytes 2 ((tm.backups[i]?).getD 0xFFFF#16).toNat;
    ∀ s1,
    (s.writeBuf c (c.u64 0) (leBytes 2 tm.root.toNat ++ b 0 ++ b 1 ++ b 2 ++
      leBytes 2 ((tm.parent.map fun x => x.1.toNat).getD 0xFFFF) ++ leBytes 2 ((tm.parent.map (·.2)).getD 0xFFFF) ++
      leBytes 4 (if tm.parent.isSome then 1 else 0) ++ leBytes 8 (BitVec.ofInt 64 (meanInt tm.offsets)).toNat ++
      leBytes 8 (BitVec.ofInt 64 tm.delay).toNat ++ leBytes 8 (if tm.holdover.isSome then 1 else 0) ++
      leBytes 8 (tm.holdover.getD 0) ++ leBytes 16 0) : Except Err _) = .ok s1 →
    exec (.traceTimeQuery wid) z = .next (State.settle (s1.ok c))) ∧
  -- TRACE_TIME_CONFIG (R383)
  (∀ (z : State) (wid : BitVec 64) (c : Cmd), z.ready 0x068B wid [] = some c →
    let s := z.markDispatched wid;
    let id := fun (o : Nat) => BitVec.ofNat 16 (c.u16 o);
    let tm := { s.trace.time with root := id 0, backups := [id 2, id 4, id 6] };
    exec (.traceTimeConfig wid) z = .next (State.settle
      ((({ s with trace := { s.trace with time := tm } } : State).chooseParent).ok c)))

/-- An arriving message that its link takes has the effect of its kind: CHUNK, GRANT, DONE, ABORT, WINDOW_MESSAGE,
DISPATCH_KEYS, DISPATCH_ACCEPT, FORWARDED, GRANT_ISSUE, GRANT_REISSUE (R386, R387, R392, R394, R397, R399, R403). -/
def Obligations.ArrivingMessages : Prop :=
  -- CHUNK (R392)
  (∀ (p : Nat) (a : Msg) (z : State),
    let m : Msg := { a with kind := 0, fwd := false };
    (z.linkTakes p m) →
    let s := z.linkTaken p m;
    ∀ g,
    tget s.trace.groups m.group.toNat = some g →
    ¬(g.members[m.rank]? != some m.src) →
    s.coll m.group m.seq = none →
    (m.seq ≤ g.completed && m.resend) →
    exec (.chunk p a) z = .next (State.settle (s.ackChunk g m))) ∧
  (∀ (p : Nat) (a : Msg) (z : State),
    let m : Msg := { a with kind := 0, fwd := false };
    (z.linkTakes p m) →
    let s := z.linkTaken p m;
    ∀ g,
    tget s.trace.groups m.group.toNat = some g →
    ¬(g.members[m.rank]? != some m.src) →
    ∀ c,
    s.coll m.group m.seq = some c →
    (c.seen.contains (m.rank, m.chunk)) →
    exec (.chunk p a) z = .next (State.settle (s.ackChunk g m))) ∧
  (∀ (p : Nat) (a : Msg) (z : State),
    let m : Msg := { a with kind := 0, fwd := false };
    (z.linkTakes p m) →
    let s := z.linkTaken p m;
    ∀ g,
    tget s.trace.groups m.group.toNat = some g →
    ¬(g.members[m.rank]? != some m.src) →
    ∀ c,
    s.coll m.group m.seq = some c →
    ¬(c.seen.contains (m.rank, m.chunk)) →
    (c.grantsOut.contains (m.rank, m.chunk)) →
    ¬(m.shape != c.shape) →
    ∀ x',
    ((s.inX c g m.rank).find? fun x => x.chunk = m.chunk) = some x' →
    let x := x';
    ¬(x.off != m.off || m.len != m.data.length) →
    exec (.chunk p a) z = .next (State.settle ((s.takeChunk c.wid g m.rank x m.data m.poison).ackChunk g m))) ∧
  -- GRANT (R394)
  (∀ (p : Nat) (a : Msg) (z : State),
    let m : Msg := { a with kind := 1, fwd := false };
    (z.linkTakes p m) →
    let s := z.linkTaken p m;
    ∀ g,
    tget s.trace.groups m.group.toNat = some g →
    s.coll m.group m.seq = none →
    ¬(m.seq ≤ g.issued || g.aborted.any (fun a => a.1 = m.seq)) →
    exec (.grant p a) z = .next (State.settle ({ s with trace := { s.trace with early := s.trace.early ++ [m] } }))) ∧
  (∀ (p : Nat) (a : Msg) (z : State),
    let m : Msg := { a with kind := 1, fwd := false };
    (z.linkTakes p m) →
    let s := z.linkTaken p m;
    ∀ g,
    tget s.trace.groups m.group.toNat = some g →
    ∀ c,
    s.coll m.group m.seq = some c →
    ¬(m.members.isSome && m.members != some (membersDigest m.group g.members)) →
    ¬(m.shape != c.shape) →
    ¬(c.sent.contains (m.rank, m.chunk) || c.grantsIn.contains (m.rank, m.chunk)) →
    ¬((c.kind != 6 && !(s.outX c g m.rank).any fun x => x.chunk = m.chunk) || g.members[m.rank]? != some m.src) →
    exec (.grant p a) z = .next (State.settle
      (s.modColl c.wid fun c => { c with grantsIn := c.grantsIn ++ [(m.rank, m.chunk)] }))) ∧
  -- DONE (R387)
  (∀ (p : Nat) (a : Msg) (z : State),
    let m : Msg := { a with kind := 2, fwd := false };
    (z.linkTakes p m) →
    let s := z.linkTaken p m;
    (m.window) →
    ∀ x',
    (s.trace.sends.find? fun x => x.dest = m.src && x.window = m.group.toNat && x.number = some m.seq) = some x' →
    let x := x';
    let s : State := { s with trace := { s.trace with sends := s.trace.sends.filter fun y => y.wid != x.wid } };
    exec (.done p a) z = .next (State.settle (s.complete x.wid stOk (BitVec.ofNat 64 m.seq)))) ∧
  (∀ (p : Nat) (a : Msg) (z : State),
    let m : Msg := { a with kind := 2, fwd := false };
    (z.linkTakes p m) →
    let s := z.linkTaken p m;
    ¬(m.window) →
    ∀ c,
    s.coll m.group m.seq = some c →
    ¬(c.done.contains (m.rank, m.chunk)) →
    exec (.done p a) z = .next (State.settle (s.modColl c.wid fun c => { c with done := c.done ++ [(m.rank, m.chunk)] }))) ∧
  -- ABORT (R397)
  (∀ (p : Nat) (a : Msg) (z : State),
    let m : Msg := { a with kind := 3, fwd := false };
    (z.linkTakes p m) →
    let s := z.linkTaken p m;
    ∀ g,
    tget s.trace.groups m.group.toNat = some g →
    let det := if m.status = stMemberLost then m.src.toNat else 0;
    (g.members.contains m.src) →
    ∀ c,
    s.coll m.group m.seq = some c →
    exec (.abort p a) z = .next (State.settle (s.failColl c m.status det))) ∧
  (∀ (p : Nat) (a : Msg) (z : State),
    let m : Msg := { a with kind := 3, fwd := false };
    (z.linkTakes p m) →
    let s := z.linkTaken p m;
    ∀ g,
    tget s.trace.groups m.group.toNat = some g →
    let det := if m.status = stMemberLost then m.src.toNat else 0;
    (g.members.contains m.src) →
    s.coll m.group m.seq = none →
    ¬(m.seq ≤ g.completed || 1024 ≤ g.aborted.length || g.aborted.any (fun a => a.1 = m.seq)) →
    exec (.abort p a) z = .next (State.settle
      (s.modGroup m.group fun g => { g with aborted := g.aborted ++ [(m.seq, m.status, BitVec.ofNat 32 det)] }))) ∧
  -- WINDOW_MESSAGE (R403)
  (∀ (p : Nat) (a : Msg) (z : State),
    let m : Msg := { a with kind := 4, fwd := false };
    (z.linkTakes p m) →
    let s := z.linkTaken p m;
    let k := m.group.toNat;
    let ack := fun (s : State) => s.enqueue { s.newMsg m.src 2 m.group m.seq with window := true };
    ∀ v,
    tget s.trace.windows k = some v →
    (s.admits v m.src) →
    ¬(v.slotBytes < m.data.length) →
    (s.trace.seenNo.contains (winKey m.src k, m.seq)) →
    exec (.windowMessage p a) z = .next (State.settle (ack s))) ∧
  (∀ (p : Nat) (a : Msg) (z : State),
    let m : Msg := { a with kind := 4, fwd := false };
    (z.linkTakes p m) →
    let s := z.linkTaken p m;
    let k := m.group.toNat;
    let ack := fun (s : State) => s.enqueue { s.newMsg m.src 2 m.group m.seq with window := true };
    ∀ v,
    tget s.trace.windows k = some v →
    (s.admits v m.src) →
    ¬(v.slotBytes < m.data.length) →
    ¬(s.trace.seenNo.contains (winKey m.src k, m.seq)) →
    ∀ slot,
    ((List.range v.slots).find? fun i => !(v.busy.contains i || v.full.any fun x => x.1 = i)) = some slot →
    let base := v.addr + slot * v.slotBytes;
    let s := ((cuts 0 m.data.length 256).zip (List.range m.data.length)).foldl (fun s x =>
      s.storeP (m.poison.contains x.2) (base + x.1.1) (slice m.data x.1.1 x.1.2)) s;
    let s := s.modWindow k fun v => { v with full := v.full ++ [(slot, m.data.length, m.src, m.seq)] };
    let s : State := { s with trace := { s.trace with seenNo := s.trace.seenNo ++ [(winKey m.src k, m.seq)] } };
    exec (.windowMessage p a) z = .next (State.settle (State.handOver (v.full.length + 1) k (ack s)))) ∧
  -- DISPATCH_KEYS (R399)
  (∀ (p : Nat) (a : Msg) (z : State),
    let m : Msg := { a with kind := 5, fwd := false };
    (z.linkTakes p m) →
    let s := z.linkTaken p m;
    ∀ g,
    tget s.trace.groups m.group.toNat = some g →
    s.coll m.group m.seq = none →
    ¬(m.seq ≤ g.issued) →
    exec (.dispatchKeys p a) z = .next (State.settle ({ s with trace := { s.trace with early := s.trace.early ++ [m] } }))) ∧
  (∀ (p : Nat) (a : Msg) (z : State),
    let m : Msg := { a with kind := 5, fwd := false };
    (z.linkTakes p m) →
    let s := z.linkTaken p m;
    ∀ g,
    tget s.trace.groups m.group.toNat = some g →
    ∀ c,
    s.coll m.group m.seq = some c →
    ¬(m.shape != c.shape) →
    ¬(c.kind != 6 || c.keys.any (fun x => x.1 = m.rank)) →
    exec (.dispatchKeys p a) z = .next (State.settle
      (s.modColl c.wid fun c => { c with keys := c.keys ++ [(m.rank, m.data)] }))) ∧
  -- DISPATCH_ACCEPT (R399)
  (∀ (p : Nat) (a : Msg) (z : State),
    let m : Msg := { a with kind := 6, fwd := false };
    (z.linkTakes p m) →
    let s := z.linkTaken p m;
    ∀ c,
    s.coll m.group m.seq = some c →
    ∀ g,
    tget s.trace.groups m.group.toNat = some g →
    let n := (c.keysTo g.members.length m.rank).length;
    ¬(c.kind != 6 || g.members[m.rank]? != some m.src || m.data.length != (n + 7) / 8) →
    ¬(c.accepts.any fun a => a.1 = m.rank) →
    let bits := (List.range n).map fun i => ((m.data[i / 8]?).getD 0#8).getLsbD (i % 8);
    exec (.dispatchAccept p a) z = .next (State.settle
      (s.modColl c.wid fun c => { c with accepts := c.accepts ++ [(m.rank, bits)] }))) ∧
  -- FORWARDED (R386)
  (∀ (p : Nat) (a : Msg) (z : State),
    let m : Msg := { a with fwd := true };
    (z.linkTakes p m) →
    let s := z.linkTaken p m;
    (m.dest = s.part.partId → exec (.forwarded p a) z = .next (State.settle (s.onMsg p m))) ∧
    (m.dest ≠ s.part.partId → !(s.directPorts m.dest).isEmpty →
      let r := s.landIn (areaForward + 0x400000 * (m.mtag.toNat % 8)) 0x400000 m.data m.poison;
      exec (.forwarded p a) z = .next (State.settle (r.1.enqueue { m with data := r.2.1, poison := r.2.2 })))) ∧
  -- GRANT_ISSUE (R394)
  (∀ (group : Nat) (seq : Nat) (s : State),
    ∀ c,
    s.coll (BitVec.ofNat 32 group) seq = some c →
    ∀ g,
    tget s.trace.groups group = some g →
    exec (.grantIssue group seq) s = .next (State.settle (s.issueGrant c g))) ∧
  -- GRANT_REISSUE (R394)
  (∀ (group : Nat) (seq : Nat) (rank : Nat) (z : State),
    let s := z;
    ∀ c,
    s.coll (BitVec.ofNat 32 group) seq = some c →
    ∀ g,
    tget s.trace.groups group = some g →
    ∀ r,
    (c.reissue.find? fun x => x.1 = rank) = some r →
    let s := (s.reach r.2.2).modColl c.wid fun c => { c with
      reissue := c.reissue.erase r, grantsOut := c.grantsOut.filter (fun q => q != (r.1, r.2.1)),
      inSlots := c.inSlots.filter fun q => (q.1, q.2.1) != (r.1, r.2.1) };
    r.2.1 ≠ joinChunk →
    ∀ x',
    ((s.inX c g rank).find? fun x => x.chunk = r.2.1) = some x' →
    let x := x';
    exec (.grantReissue group seq rank) z = .next (State.settle (s.sendGrant c g rank x))) ∧
  (∀ (group : Nat) (seq : Nat) (rank : Nat) (z : State),
    let s := z;
    ∀ c,
    s.coll (BitVec.ofNat 32 group) seq = some c →
    ∀ g,
    tget s.trace.groups group = some g →
    ∀ r,
    (c.reissue.find? fun x => x.1 = rank) = some r →
    let s := (s.reach r.2.2).modColl c.wid fun c => { c with
      reissue := c.reissue.erase r, grantsOut := c.grantsOut.filter (fun q => q != (r.1, r.2.1)),
      inSlots := c.inSlots.filter fun q => (q.1, q.2.1) != (r.1, r.2.1) };
    r.2.1 = joinChunk →
    exec (.grantReissue group seq rank) z = .next (State.settle (s.sendJoin c g rank))) ∧
  (∀ (group : Nat) (seq : Nat) (rank : Nat) (z : State),
    let s := z;
    ∀ c,
    s.coll (BitVec.ofNat 32 group) seq = some c →
    ∀ g,
    tget s.trace.groups group = some g →
    ∀ r,
    (c.reissue.find? fun x => x.1 = rank) = some r →
    let s := (s.reach r.2.2).modColl c.wid fun c => { c with
      reissue := c.reissue.erase r, grantsOut := c.grantsOut.filter (fun q => q != (r.1, r.2.1)),
      inSlots := c.inSlots.filter fun q => (q.1, q.2.1) != (r.1, r.2.1) };
    r.2.1 ≠ joinChunk →
    ((s.inX c g rank).find? fun x => x.chunk = r.2.1) = none →
    exec (.grantReissue group seq rank) z = .next (State.settle (s)))

/-- Credit, acknowledge, retry, refuse, time and steward records have their effects: CREDIT_RECORD,
CREDIT_RECORD_TIMER, ACKSEQ, ACK_TIMER, RETRY, REFUSE, REFUSE_RESEND, SYNC, DELAY_REQ, DELAY_RESP, SYNC_TIMER,
TIME_PARENT_LOSS, STEWARD_SWAP_REQUEST, STEWARD_SWAP_GRANT (R373, R374, R376, R381, R382, R384, R385). -/
def Obligations.LinkControlRecords : Prop :=
  -- CREDIT_RECORD (R373)
  (∀ (p : Nat) (c1 : Nat) (c2 : Nat) (c3 : Nat) (s : State),
    ((s.port p).up) →
    exec (.creditRecord p c1 c2 c3) s = .next (State.settle
      (s.modPort p fun q => { q with credPeer :=
      [(1, BitVec.ofNat 32 c1), (2, BitVec.ofNat 32 c2), (3, BitVec.ofNat 32 c3)] }))) ∧
  -- CREDIT_RECORD_TIMER (R373)
  (∀ (p : Nat) (z : State),
    let s := z;
    let q := s.port p;
    (q.up) →
    let s := s.reach (q.credAt + 1000);
    let g := fun (vc : Nat) => (creditOf q.credGranted vc).toNat;
    exec (.creditRecordTimer p) z = .next (State.settle
      ((s.modPort p fun q => { q with credAt := s.t }).ctl p (.credits (g 1) (g 2) (g 3))))) ∧
  -- ACKSEQ (R374)
  (∀ (p : Nat) (seq : Nat) (s : State),
    let q := s.port p;
    let n := BitVec.ofNat 12 seq;
    (q.up) →
    (2048 ≤ (q.txSeq - 1#12 - n).toNat) →
    exec (.ackseq p seq) s = .next (State.settle (s.portViolation p 6))) ∧
  (∀ (p : Nat) (seq : Nat) (s : State),
    let q := s.port p;
    let n := BitVec.ofNat 12 seq;
    (q.up) →
    ¬(2048 ≤ (q.txSeq - 1#12 - n).toNat) →
    let left := q.retryBuf.filter fun f => 2048 ≤ (n - f.fseq).toNat;
    exec (.ackseq p seq) s = .next (State.settle
      (s.modPort p fun q => { q with
         retryBuf := left
         retryName := if left.length = q.retryBuf.length then q.retryName else none
         retryCount := if left.length = q.retryBuf.length then q.retryCount else 0 }))) ∧
  -- ACK_TIMER (R374)
  (∀ (p : Nat) (z : State),
    let s := z;
    let q := s.port p;
    ¬(!q.up || q.unacked = 0) →
    let s := if 64 ≤ q.unacked then s else s.reach (q.ackAt + 1000);
    exec (.ackTimer p) z = .next (State.settle
      ((s.modPort p fun q => { q with unacked := 0, ackAt := s.t }).ctl p (.ack (q.rxSeq - 1#12).toNat)))) ∧
  -- RETRY (R374)
  (∀ (p : Nat) (seq : Nat) (z : State),
    let s := z;
    let q := s.port p;
    let n := BitVec.ofNat 12 seq;
    (q.up) →
    let cnt := if q.retryName = some n then q.retryCount + 1 else 1;
    let s := s.modPort p fun q => { q with
      retryName := some n, retryCount := if cnt < 8 then cnt else 0, retries := q.retries + 1
      retryBuf := q.retryBuf.filter fun f => (f.fseq - n).toNat < 2048 };
    (cnt < 8) →
    exec (.retry p seq) z = .next (State.settle (s))) ∧
  (∀ (p : Nat) (seq : Nat) (z : State),
    let s := z;
    let q := s.port p;
    let n := BitVec.ofNat 12 seq;
    (q.up) →
    let cnt := if q.retryName = some n then q.retryCount + 1 else 1;
    let s := s.modPort p fun q => { q with
      retryName := some n, retryCount := if cnt < 8 then cnt else 0, retries := q.retries + 1
      retryBuf := q.retryBuf.filter fun f => (f.fseq - n).toNat < 2048 };
    ¬(cnt < 8) →
    exec (.retry p seq) z = .next (State.settle (s.askRetrain p (goodWidth q.lanesBad)))) ∧
  -- REFUSE (R376)
  (∀ (p : Nat) (mtag : BitVec 16) (reason : Nat) (z : State),
    let s := z;
    ∀ x',
    (s.trace.sent.find? fun x => x.port = p && x.msg.mtag = mtag) = some x' →
    let x := x';
    let m := x.msg;
    let s := s.modPort p fun q => { q with
      credPeer := tputD (baseCredit m.vc) q.credPeer m.vc (creditOf q.credPeer m.vc + BitVec.ofNat 32 m.flits) };
    let drop := fun (s : State) =>
      ({ s with trace := { s.trace with sent := s.trace.sent.filter fun y => !(y.port = p && y.msg.mtag = mtag) } } : State);
    (reason = rfNotReady || reason = rfQuarantined) →
    let s := drop s;
    exec (.refuse p mtag reason) z = .next (State.settle
      ({ s with trace := { s.trace with queue := s.trace.queue ++
           [{ msg := m, wid := x.wid, pad := x.pad, notBefore := s.t + msNs }] } }))) ∧
  (∀ (p : Nat) (mtag : BitVec 16) (reason : Nat) (z : State),
    let s := z;
    ∀ x',
    (s.trace.sent.find? fun x => x.port = p && x.msg.mtag = mtag) = some x' →
    let x := x';
    let m := x.msg;
    let s := s.modPort p fun q => { q with
      credPeer := tputD (baseCredit m.vc) q.credPeer m.vc (creditOf q.credPeer m.vc + BitVec.ofNat 32 m.flits) };
    let drop := fun (s : State) =>
      ({ s with trace := { s.trace with sent := s.trace.sent.filter fun y => !(y.port = p && y.msg.mtag = mtag) } } : State);
    let endSend := fun (s : State) (st : BitVec 16) =>
      ({ s with trace := { s.trace with sends := s.trace.sends.filter fun e => e.wid != x.wid } } : State).complete x.wid st;
    ¬(reason = rfNotReady || reason = rfQuarantined) →
    (reason = rfWindow) →
    (m.kind = 4) →
    exec (.refuse p mtag reason) z = .next (State.settle (endSend (drop s) stBadWindow))) ∧
  (∀ (p : Nat) (mtag : BitVec 16) (reason : Nat) (z : State),
    let s := z;
    ∀ x',
    (s.trace.sent.find? fun x => x.port = p && x.msg.mtag = mtag) = some x' →
    let x := x';
    let m := x.msg;
    let s := s.modPort p fun q => { q with
      credPeer := tputD (baseCredit m.vc) q.credPeer m.vc (creditOf q.credPeer m.vc + BitVec.ofNat 32 m.flits) };
    let drop := fun (s : State) =>
      ({ s with trace := { s.trace with sent := s.trace.sent.filter fun y => !(y.port = p && y.msg.mtag = mtag) } } : State);
    ¬(reason = rfNotReady || reason = rfQuarantined) →
    (reason = rfWindow) →
    ¬(m.kind = 4) →
    exec (.refuse p mtag reason) z = .next (State.settle (drop s))) ∧
  (∀ (p : Nat) (mtag : BitVec 16) (reason : Nat) (z : State),
    let s := z;
    ∀ x',
    (s.trace.sent.find? fun x => x.port = p && x.msg.mtag = mtag) = some x' →
    let x := x';
    let m := x.msg;
    let s := s.modPort p fun q => { q with
      credPeer := tputD (baseCredit m.vc) q.credPeer m.vc (creditOf q.credPeer m.vc + BitVec.ofNat 32 m.flits) };
    let drop := fun (s : State) =>
      ({ s with trace := { s.trace with sent := s.trace.sent.filter fun y => !(y.port = p && y.msg.mtag = mtag) } } : State);
    ¬(reason = rfNotReady || reason = rfQuarantined) →
    ¬(reason = rfWindow) →
    (reason = rfGroup) →
    ∀ c,
    s.coll m.group m.seq = some c →
    ∀ g,
    tget s.trace.groups m.group.toNat = some g →
    ∀ r',
    ((List.range g.members.length).find? fun r => g.members[r]? = some m.dest) = some r' →
    let r := r';
    exec (.refuse p mtag reason) z = .next (State.settle
      ((drop s).modColl c.wid fun c => { c with reissue := c.reissue ++ [(r, m.chunk, s.t + msNs)] }))) ∧
  (∀ (p : Nat) (mtag : BitVec 16) (reason : Nat) (z : State),
    let s := z;
    ∀ x',
    (s.trace.sent.find? fun x => x.port = p && x.msg.mtag = mtag) = some x' →
    let x := x';
    let m := x.msg;
    let s := s.modPort p fun q => { q with
      credPeer := tputD (baseCredit m.vc) q.credPeer m.vc (creditOf q.credPeer m.vc + BitVec.ofNat 32 m.flits) };
    let drop := fun (s : State) =>
      ({ s with trace := { s.trace with sent := s.trace.sent.filter fun y => !(y.port = p && y.msg.mtag = mtag) } } : State);
    ¬(reason = rfNotReady || reason = rfQuarantined) →
    ¬(reason = rfWindow) →
    (reason = rfGroup) →
    ∀ c,
    s.coll m.group m.seq = some c →
    ∀ g,
    tget s.trace.groups m.group.toNat = some g →
    ((List.range g.members.length).find? fun r => g.members[r]? = some m.dest) = none →
    exec (.refuse p mtag reason) z = .next (State.settle (drop s))) ∧
  (∀ (p : Nat) (mtag : BitVec 16) (reason : Nat) (z : State),
    let s := z;
    ∀ x',
    (s.trace.sent.find? fun x => x.port = p && x.msg.mtag = mtag) = some x' →
    let x := x';
    let m := x.msg;
    let s := s.modPort p fun q => { q with
      credPeer := tputD (baseCredit m.vc) q.credPeer m.vc (creditOf q.credPeer m.vc + BitVec.ofNat 32 m.flits) };
    let drop := fun (s : State) =>
      ({ s with trace := { s.trace with sent := s.trace.sent.filter fun y => !(y.port = p && y.msg.mtag = mtag) } } : State);
    let endSend := fun (s : State) (st : BitVec 16) =>
      ({ s with trace := { s.trace with sends := s.trace.sends.filter fun e => e.wid != x.wid } } : State).complete x.wid st;
    ¬(reason = rfNotReady || reason = rfQuarantined) →
    ¬(reason = rfWindow) →
    ¬(reason = rfGroup) →
    (m.kind = 4) →
    exec (.refuse p mtag reason) z = .next (State.settle (endSend (drop s) stTraceProtocol))) ∧
  (∀ (p : Nat) (mtag : BitVec 16) (reason : Nat) (z : State),
    let s := z;
    ∀ x',
    (s.trace.sent.find? fun x => x.port = p && x.msg.mtag = mtag) = some x' →
    let x := x';
    let m := x.msg;
    let s := s.modPort p fun q => { q with
      credPeer := tputD (baseCredit m.vc) q.credPeer m.vc (creditOf q.credPeer m.vc + BitVec.ofNat 32 m.flits) };
    let drop := fun (s : State) =>
      ({ s with trace := { s.trace with sent := s.trace.sent.filter fun y => !(y.port = p && y.msg.mtag = mtag) } } : State);
    ¬(reason = rfNotReady || reason = rfQuarantined) →
    ¬(reason = rfWindow) →
    ¬(reason = rfGroup) →
    ¬(m.kind = 4) →
    ∀ c,
    s.coll m.group m.seq = some c →
    exec (.refuse p mtag reason) z = .next (State.settle ((drop s).failColl c stTraceProtocol 0))) ∧
  (∀ (p : Nat) (mtag : BitVec 16) (reason : Nat) (z : State),
    let s := z;
    ∀ x',
    (s.trace.sent.find? fun x => x.port = p && x.msg.mtag = mtag) = some x' →
    let x := x';
    let m := x.msg;
    let s := s.modPort p fun q => { q with
      credPeer := tputD (baseCredit m.vc) q.credPeer m.vc (creditOf q.credPeer m.vc + BitVec.ofNat 32 m.flits) };
    let drop := fun (s : State) =>
      ({ s with trace := { s.trace with sent := s.trace.sent.filter fun y => !(y.port = p && y.msg.mtag = mtag) } } : State);
    ¬(reason = rfNotReady || reason = rfQuarantined) →
    ¬(reason = rfWindow) →
    ¬(reason = rfGroup) →
    ¬(m.kind = 4) →
    s.coll m.group m.seq = none →
    exec (.refuse p mtag reason) z = .next (State.settle (drop s))) ∧
  -- REFUSE_RESEND (R376)
  (∀ (mtag : BitVec 16) (s : State),
    ∀ x',
    (s.trace.queue.find? fun x => x.msg.mtag = mtag && x.notBefore != 0) = some x' →
    let x := x';
    exec (.refuseResend mtag) s = .next (State.settle (s.reach x.notBefore))) ∧
  -- SYNC (R384)
  (∀ (p : Nat) (t1 : BitVec 64) (corr : Int) (s : State),
    let tm := s.trace.time;
    ∀ q x1,
    tm.parent = some (x1, q) →
    (q = p && tm.lastT1.toNat ≤ t1.toNat) →
    exec (.sync p t1 corr) s = .next (State.settle
      (({ s with trace := { s.trace with time :=
           { tm with t1 := t1, t2 := s.now, t3 := s.now, corr := corr, lastT1 := t1 } } } : State).ctl p (.delayReq s.now)))) ∧
  (∀ (p : Nat) (t1 : BitVec 64) (corr : Int) (s : State),
    let tm := s.trace.time;
    ∀ q x1,
    tm.parent = some (x1, q) →
    ¬(q = p && tm.lastT1.toNat ≤ t1.toNat) →
    exec (.sync p t1 corr) s = .next (State.settle (s.portViolation p 8))) ∧
  (∀ (p : Nat) (t1 : BitVec 64) (corr : Int) (s : State),
    let tm := s.trace.time;
    tm.parent = none →
    exec (.sync p t1 corr) s = .next (State.settle (s.portViolation p 8))) ∧
  -- DELAY_REQ (R384)
  (∀ (p : Nat) (_t3 : BitVec 64) (s : State),
    ((s.port p).state = .admitted) →
    exec (.delayReq p _t3) s = .next (State.settle (s.ctl p (.delayResp s.now)))) ∧
  -- DELAY_RESP (R384)
  (∀ (p : Nat) (t4 : BitVec 64) (s : State),
    let tm := s.trace.time;
    ∀ q x1,
    tm.parent = some (x1, q) →
    (!(q = p && tm.lastT4.toNat ≤ t4.toNat)) →
    exec (.delayResp p t4) s = .next (State.settle (s.portViolation p 8))) ∧
  (∀ (p : Nat) (t4 : BitVec 64) (s : State),
    let tm := s.trace.time;
    ∀ q x1,
    tm.parent = some (x1, q) →
    ¬(!(q = p && tm.lastT4.toNat ≤ t4.toNat)) →
    let up : Int := (tm.t2.toNat : Int) - tm.t1.toNat;
    let down : Int := (t4.toNat : Int) - tm.t3.toNat;
    let offs := (tm.offsets ++ [(up - down) / 2 - tm.corr / 2]).drop (tm.offsets.length - 15);
    let tm := { tm with lastT4 := t4, offsets := offs, delay := (up + down) / 2, holdover := none };
    let mean := meanInt offs;
    (tm.stepped) →
    exec (.delayResp p t4) s = .next (State.settle ({ s with trace := { s.trace with time := { tm with slew := -mean } } }))) ∧
  (∀ (p : Nat) (t4 : BitVec 64) (s : State),
    let tm := s.trace.time;
    ∀ q x1,
    tm.parent = some (x1, q) →
    ¬(!(q = p && tm.lastT4.toNat ≤ t4.toNat)) →
    let up : Int := (tm.t2.toNat : Int) - tm.t1.toNat;
    let down : Int := (t4.toNat : Int) - tm.t3.toNat;
    let offs := (tm.offsets ++ [(up - down) / 2 - tm.corr / 2]).drop (tm.offsets.length - 15);
    let tm := { tm with lastT4 := t4, offsets := offs, delay := (up + down) / 2, holdover := none };
    ¬(tm.stepped) →
    (offs.length < 16) →
    exec (.delayResp p t4) s = .next (State.settle ({ s with trace := { s.trace with time := tm } }))) ∧
  (∀ (p : Nat) (t4 : BitVec 64) (s : State),
    let tm := s.trace.time;
    ∀ q x1,
    tm.parent = some (x1, q) →
    ¬(!(q = p && tm.lastT4.toNat ≤ t4.toNat)) →
    let up : Int := (tm.t2.toNat : Int) - tm.t1.toNat;
    let down : Int := (t4.toNat : Int) - tm.t3.toNat;
    let offs := (tm.offsets ++ [(up - down) / 2 - tm.corr / 2]).drop (tm.offsets.length - 15);
    let tm := { tm with lastT4 := t4, offsets := offs, delay := (up + down) / 2, holdover := none };
    let mean := meanInt offs;
    ¬(tm.stepped) →
    ¬(offs.length < 16) →
    exec (.delayResp p t4) s = .next (State.settle
      ({ s with now := BitVec.ofInt 64 ((s.now.toNat : Int) - mean)
                trace := { s.trace with time := { tm with stepped := true, offsets := [] } } }))) ∧
  (∀ (p : Nat) (t4 : BitVec 64) (s : State),
    let tm := s.trace.time;
    tm.parent = none →
    exec (.delayResp p t4) s = .next (State.settle (s.portViolation p 8))) ∧
  -- SYNC_TIMER (R384)
  (∀ (p : Nat) (z : State),
    let s := z;
    let q := s.port p;
    ¬(q.state != .admitted || !(q.steward || q.peerSwitch)) →
    let s := s.reach (tgetD 0 s.trace.time.lastSync p + 3906250);
    exec (.syncTimer p) z = .next (State.settle
      (({ s with trace := { s.trace with time :=
           { s.trace.time with lastSync := tputD 0 s.trace.time.lastSync p s.t } } } : State).ctl p (.sync s.now)))) ∧
  -- TIME_PARENT_LOSS (R385)
  (∀ (s : State),
    ∀ p x1,
    s.trace.time.parent = some (x1, p) →
    ¬((s.port p).state = .admitted) →
    let tm := { s.trace.time with parent := none, holdover := some s.t };
    exec (.timeParentLoss) s = .next (State.settle
      ((({ s with trace := { s.trace with time := tm } } : State).logEv evTimeParent 0xFF#8 0#16 p).chooseParent))) ∧
  -- STEWARD_SWAP_REQUEST (R382)
  (∀ (p : Nat) (s : State),
    let q := s.port p;
    ¬(q.state != .admitted || q.peerSwitch) →
    q.swapBy = none →
    exec (.stewardSwapRequest p) s = .next (State.settle (s.grantSwap p))) ∧
  (∀ (p : Nat) (s : State),
    let q := s.port p;
    ¬(q.state != .admitted || q.peerSwitch) →
    ∀ w,
    q.swapBy = some w →
    (s.part.partId.toNat < (q.peer.getD 0#16).toNat) →
    exec (.stewardSwapRequest p) s = .next (State.settle
      (((s.modPort p fun q => { q with swapBy := none }).complete w stRoleConflict).grantSwap p))) ∧
  -- STEWARD_SWAP_GRANT (R381)
  (∀ (p : Nat) (s : State),
    let q := s.port p;
    ∀ w,
    q.swapBy = some w →
    exec (.stewardSwapGrant p) s = .next (State.settle
      (((s.modPort p fun q => { q with swapBy := none, steward := !q.steward }).complete w stOk).chooseParent)))

/-- Training, admission, lock loss, retrain and route events have their effects: RETRAIN_REQUEST, IDENTITY_EXCHANGE,
TRAINING_START, TRAINING_TIMEOUT, LINK_ADMISSION, LOSS_OF_LOCK, LANE_ERROR_THRESHOLD, RETRAIN_COMPLETE,
FULL_WIDTH_ATTEMPT, DETOUR_SELECT, ROUTE_LOSS (R72, R375, R377, R379, R380, R386, R398). -/
def Obligations.LinkTrainingEvents : Prop :=
  -- RETRAIN_REQUEST (R379)
  (∀ (p : Nat) (command : Option Nat) (s : State),
    let q := s.port p;
    command = none →
    (q.steward) →
    exec (.retrainRequest p command) s = .next (State.settle (s.askRetrain p (goodWidth q.lanesBad)))) ∧
  (∀ (p : Nat) (command : Option Nat) (s : State),
    let q := s.port p;
    ∀ w,
    command = some w →
    (q.steward) →
    exec (.retrainRequest p command) s = .next (State.settle (s.portViolation p 7))) ∧
  (∀ (p : Nat) (command : Option Nat) (s : State),
    let q := s.port p;
    ∀ w,
    command = some w →
    ¬(q.steward) →
    (q.state = .admitted) →
    exec (.retrainRequest p command) s = .next (State.settle
      ((s.modPort p fun q => { q with retrainTries := 0, retrainWidth := w, reducedAt := s.t }).enterPort p .retraining))) ∧
  -- IDENTITY_EXCHANGE (R375)
  (∀ (p : Nat) (id : BitVec 16) (peerPort : Nat) (isSwitch : Bool) (z : State),
    let s := z;
    ¬((s.port p).state != .training) →
    let s := s.modPort p fun q => { q with
      peer := some id, peerPort := peerPort, peerSwitch := isSwitch
      steward := !isSwitch && s.part.partId.toNat < id.toNat
      txSeq := 0#12, rxSeq := 0#12, retryBuf := [], txRest := [], served := [], unacked := 0, ackAt := s.t,
      retryName := none, retryCount := 0
      rxDiscard := false, credGranted := [], credUsedRx := [], credPeer := [], credUsedTx := [], credAt := s.t };
    exec (.identityExchange p id peerPort isSwitch) z = .next (State.settle
      ((s.enterPort p .linked).ctl p (.identity s.part.partId p)))) ∧
  -- TRAINING_START (R72)
  (∀ (p : Nat) (z : State),
    let s := z;
    let q := s.port p;
    ¬(16 ≤ p || q.state != .down || !s.pins.txOn || !(if p < 8 then s.part.refTrace0 else s.part.refTrace1)) →
    let s := s.reach (if q.trained then q.downAt + secNs
      else s.part.timeZero + 200 * msNs + 2 * msNs * (s.part.partId.toNat % 16));
    exec (.trainingStart p) z = .next (State.settle
      ((s.modPort p fun q => { q with trained := true, trainAt := s.t, width := 4, lanesBad := [] }).enterPort p .training))) ∧
  -- TRAINING_TIMEOUT (R375)
  (∀ (p : Nat) (s : State),
    ((s.port p).state = .training) →
    exec (.trainingTimeout p) s = .next (State.settle ((s.reach ((s.port p).trainAt + 150 * msNs)).portDown p))) ∧
  -- LINK_ADMISSION (R377)
  (∀ (p : Nat) (s : State),
    let q := s.port p;
    ¬(q.state != .linked) →
    (s.part.pstate.running && s.part.partId != 0xFFFF#16 &&
      (q.peerSwitch || (q.peer != some 0xFFFF#16 && q.peer != some s.part.partId))) →
    exec (.linkAdmission p) s = .next (State.settle ((s.enterPort p .admitted).chooseParent))) ∧
  (∀ (p : Nat) (s : State),
    let q := s.port p;
    ¬(q.state != .linked) →
    ¬(s.part.pstate.running && s.part.partId != 0xFFFF#16 &&
      (q.peerSwitch || (q.peer != some 0xFFFF#16 && q.peer != some s.part.partId))) →
    exec (.linkAdmission p) s = .next (State.settle (s.logEv evPortNotAdmitted 0xFF#8 0#16 p))) ∧
  -- LOSS_OF_LOCK (R375)
  (∀ (p : Nat) (s : State),
    (s.port p).state = .linked →
    exec (.lossOfLock p) s = .next (State.settle (s.portDown p))) ∧
  (∀ (p : Nat) (s : State),
    (s.port p).state = .admitted →
    exec (.lossOfLock p) s = .next (State.settle ((s.reach (s.t + msNs)).portDown p))) ∧
  -- LANE_ERROR_THRESHOLD (R379)
  (∀ (p : Nat) (lane : Nat) (z : State),
    let s := z;
    ¬(!(s.port p).up || 4 ≤ lane) →
    let s := s.modPort p fun q => { q with
      lanesBad := insNat lane q.lanesBad, fecBad := tputD 0 q.fecBad lane (tgetD 0 q.fecBad lane + 4097) };
    exec (.laneErrorThreshold p lane) z = .next (State.settle (s.askRetrain p (goodWidth (s.port p).lanesBad)))) ∧
  -- RETRAIN_COMPLETE (R380)
  (∀ (p : Nat) (ok : Bool) (z : State),
    let s := z;
    let q := s.port p;
    ¬(q.state != .retraining) →
    (ok) →
    let s := s.modPort p fun q => { q with width := q.retrainWidth, retrainTries := 0, retryCount := 0, retryName := none,
                                           reducedAt := s.t, retrainBy := [] };
    exec (.retrainComplete p ok) z = .next (State.settle ((s.enterPort p .admitted).completeAll q.retrainBy stOk))) ∧
  (∀ (p : Nat) (ok : Bool) (s : State),
    let q := s.port p;
    ¬(q.state != .retraining) →
    ¬(ok) →
    (2 ≤ q.retrainTries) →
    exec (.retrainComplete p ok) s = .next (State.settle (s.portDown p))) ∧
  (∀ (p : Nat) (ok : Bool) (s : State),
    let q := s.port p;
    ¬(q.state != .retraining) →
    ¬(ok) →
    ¬(2 ≤ q.retrainTries) →
    exec (.retrainComplete p ok) s = .next (State.settle
      (s.modPort p fun q => { q with retrainTries := q.retrainTries + 1, retrainWidth := if q.retrainWidth = 4 then 2 else 1 }))) ∧
  -- FULL_WIDTH_ATTEMPT (R379)
  (∀ (p : Nat) (s : State),
    let q := s.port p;
    ¬(q.state != .admitted || !q.steward || q.width = 4) →
    exec (.fullWidthAttempt p) s = .next (State.settle
      (((s.reach (q.reducedAt + 60 * secNs)).modPort p fun q => { q with lanesBad := [] }).startRetrain p 4))) ∧
  -- DETOUR_SELECT (R386)
  (∀ (p : Nat) (known : List (BitVec 16 × BitVec 16)) (z : State),
    let s := z;
    let s : State := { s with trace := { s.trace with boardPeers := known } };
    (s.port p).state = .admitted →
    exec (.detourSelect p known) z = .next (State.settle (s))) ∧
  (∀ (p : Nat) (known : List (BitVec 16 × BitVec 16)) (z : State),
    let s := z;
    let s : State := { s with trace := { s.trace with boardPeers := known } };
    (s.port p).state = .retraining →
    exec (.detourSelect p known) z = .next (State.settle (s))) ∧
  (∀ (p : Nat) (known : List (BitVec 16 × BitVec 16)) (z : State),
    let s := z;
    let s : State := { s with trace := { s.trace with boardPeers := known } };
    (s.port p).state ≠ .admitted →
    (s.port p).state ≠ .retraining →
    exec (.detourSelect p known) z = .next (State.settle (s.resendFrom p))) ∧
  -- ROUTE_LOSS (R398)
  (∀ (part : BitVec 16) (cells : List (Nat × Nat × Nat)) (z : State),
    let s := z;
    ∀ t,
    tget s.trace.lostRoute part.toNat = some t →
    let s := (s.reach (t + 100 * msNs)).loseMember part;
    exec (.routeLoss part cells) z = .next (State.settle
      (s.moors.foldl (fun s e => s.moorLoses e.1 part ((cells.filter fun c => c.1 = e.1).map fun c => c.2)) s)))

/-- The mooring commands complete with their effects: RESIL_MOOR_CREATE, RESIL_MOOR_CREATE_EXPERT,
RESIL_MOOR_REFRESH, RESIL_MOOR_REFRESH_EXPERT, RESIL_MOOR_REPLACE, RESIL_MOOR_REPLACE_EXPERT, RESIL_MOOR_SHRINK,
RESIL_MOOR_SHRINK_EXPERT, RESIL_MOOR_REPAIR, RESIL_MOOR_REPAIR_EXPERT, RESIL_MOOR_QUERY, RESIL_MOOR_QUERY_EXPERT,
RESIL_MOOR_DESTROY, RESIL_MOOR_DESTROY_EXPERT (R426, R430, R433, R435, R436, R438). -/
def Obligations.MoorCommands : Prop :=
  -- RESIL_MOOR_CREATE (R426)
  (∀ (z : State) (wid : BitVec 64) (hm : HostImage) (others : Option (Bool × Nat)) (c : Cmd), z.ready 0x0701 wid hm = some c →
    let s := z.markDispatched wid;
    let q : MoorReq := { spares := 0, auto := false, timeout := 10000, parity := 0 };
    let p1 := (c.u32 0, c.u16 4, c.u8 6, c.u8 7, c.u32 16);
    let k := p1.1;
    let n := p1.2.1;
    let dk := p1.2.2.1;
    let dm := p1.2.2.2.1;
    let role := p1.2.2.2.2;
    (role < 2) →
    (k ≠ 0 && !thas s.moors k && 2 ≤ dk && dk ≤ 14 && 1 ≤ dm && dm ≤ 4 && n = dk + dm && n ≤ 18) →
    (!c.mgmt) →
    (s.moors.all fun e => e.2.paddock != c.pad) →
    ∀ l,
    s.readBuf c (c.u64 8) (2 * n) = .ok l →
    let members := partsOf l.1 n;
    ∀ sl,
    (if q.spares = 0 then .ok ([], false) else s.readBuf c q.spares 8 : Except Err _) = .ok sl →
    let spares := (partsOf sl.1 (sl.1.length / 2)).filter fun p => p != 0xFFFF#16;
    let me := s.part.partId;
    (members.eraseDups.length = n && (spares.eraseDups.length = spares.length)) →
    ((if role = 0 then members.contains me && !spares.contains me else spares.contains me || members.contains me : Bool)) →
    ∀ same most,
    others = some (same, most) →
    (same) →
    let space := s.mooredOf c.pad;
    let own := s.spaceLen space / cellBytes;
    let cc := roundUp (max own most) dk;
    ∀ a s1,
    s.parityArea c (cc / dk * dm * cellBytes) q.parity = .ok (a, s1) →
    let rank := if role = 0 then some (members.findIdx (· == me)) else none;
    let m : Moor := { paddock := c.pad, k := dk, m := dm, members := members, spares := spares, rank := rank, auto := q.auto,
                      timeout := q.timeout, c := cc, parity := a, parityOwn := q.parity = 0 && a ≠ 0, space := space, state := .active,
                      epoch := 1, committedEpoch := 0, dirty := if role = 0 then List.range own else [], flight := [], refreshes := [],
                      lost := [], lostAt := 0, lostCells := [], rebuildBy := [], rebuildFor := none, shrinkBy := [], bound := 0,
                      deadline := 0, refreshNs := 0, rebuildNs := 0, startedAt := 0 };
    exec (.resilMoorCreate wid hm others) z = .next (State.settle
      (({ s1 with moors := tput s1.moors k m } : State).noteRoutes.ok c (rank.getD 0xFFFF) cc))) ∧
  -- RESIL_MOOR_CREATE_EXPERT (R426)
  (∀ (z : State) (wid : BitVec 64) (hm : HostImage) (others : Option (Bool × Nat)) (c : Cmd), z.ready 0x0781 wid hm = some c →
    let s := z.markDispatched wid;
    let q : MoorReq := { spares := c.u64 24, auto := c.flag 32, timeout := c.u32 36, parity := c.u64 40 };
    let p1 := (c.u32 0, c.u16 4, c.u8 6, c.u8 7, c.u32 16);
    let k := p1.1;
    let n := p1.2.1;
    let dk := p1.2.2.1;
    let dm := p1.2.2.2.1;
    let role := p1.2.2.2.2;
    (role < 2) →
    (k ≠ 0 && !thas s.moors k && 2 ≤ dk && dk ≤ 14 && 1 ≤ dm && dm ≤ 4 && n = dk + dm && n ≤ 18) →
    (!c.mgmt) →
    (s.moors.all fun e => e.2.paddock != c.pad) →
    ∀ l,
    s.readBuf c (c.u64 8) (2 * n) = .ok l →
    let members := partsOf l.1 n;
    ∀ sl,
    (if q.spares = 0 then .ok ([], false) else s.readBuf c q.spares 8 : Except Err _) = .ok sl →
    let spares := (partsOf sl.1 (sl.1.length / 2)).filter fun p => p != 0xFFFF#16;
    let me := s.part.partId;
    (members.eraseDups.length = n && (spares.eraseDups.length = spares.length)) →
    ((if role = 0 then members.contains me && !spares.contains me else spares.contains me || members.contains me : Bool)) →
    ∀ same most,
    others = some (same, most) →
    (same) →
    let space := s.mooredOf c.pad;
    let own := s.spaceLen space / cellBytes;
    let cc := roundUp (max own most) dk;
    ∀ a s1,
    s.parityArea c (cc / dk * dm * cellBytes) q.parity = .ok (a, s1) →
    let rank := if role = 0 then some (members.findIdx (· == me)) else none;
    let m : Moor := { paddock := c.pad, k := dk, m := dm, members := members, spares := spares, rank := rank, auto := q.auto,
                      timeout := q.timeout, c := cc, parity := a, parityOwn := q.parity = 0 && a ≠ 0, space := space, state := .active,
                      epoch := 1, committedEpoch := 0, dirty := if role = 0 then List.range own else [], flight := [], refreshes := [],
                      lost := [], lostAt := 0, lostCells := [], rebuildBy := [], rebuildFor := none, shrinkBy := [], bound := 0,
                      deadline := 0, refreshNs := 0, rebuildNs := 0, startedAt := 0 };
    exec (.resilMoorCreateExpert wid hm others) z = .next (State.settle
      (({ s1 with moors := tput s1.moors k m } : State).noteRoutes.ok c (rank.getD 0xFFFF) cc))) ∧
  -- RESIL_MOOR_REFRESH (R430)
  (∀ (z : State) (wid : BitVec 64) (c : Cmd), z.ready 0x0702 wid [] = some c →
    let s := z.markDispatched wid;
    ∀ k m,
    s.ownMoor c = .ok (k, m) →
    (s.moorBusy m = .ok ()) →
    (m.state = .active && m.rank.isSome) →
    (m.refreshes.any fun r => r.2 = some c.w) →
    exec (.resilMoorRefresh wid) z = .next (State.settle (s))) ∧
  (∀ (z : State) (wid : BitVec 64) (c : Cmd), z.ready 0x0702 wid [] = some c →
    let s := z.markDispatched wid;
    let full : Bool := false;
    ∀ k m,
    s.ownMoor c = .ok (k, m) →
    (s.moorBusy m = .ok ()) →
    (m.state = .active && m.rank.isSome) →
    ¬(m.refreshes.any fun r => r.2 = some c.w) →
    exec (.resilMoorRefresh wid) z = .next (State.settle (s.startRefresh k full (some c.w)))) ∧
  -- RESIL_MOOR_REFRESH_EXPERT (R430)
  (∀ (z : State) (wid : BitVec 64) (c : Cmd), z.ready 0x0782 wid [] = some c →
    let s := z.markDispatched wid;
    ∀ k m,
    s.ownMoor c = .ok (k, m) →
    (s.moorBusy m = .ok ()) →
    (m.state = .active && m.rank.isSome) →
    (m.refreshes.any fun r => r.2 = some c.w) →
    exec (.resilMoorRefreshExpert wid) z = .next (State.settle (s))) ∧
  (∀ (z : State) (wid : BitVec 64) (c : Cmd), z.ready 0x0782 wid [] = some c →
    let s := z.markDispatched wid;
    let full : Bool := c.flag 4;
    ∀ k m,
    s.ownMoor c = .ok (k, m) →
    (s.moorBusy m = .ok ()) →
    (m.state = .active && m.rank.isSome) →
    ¬(m.refreshes.any fun r => r.2 = some c.w) →
    exec (.resilMoorRefreshExpert wid) z = .next (State.settle (s.startRefresh k full (some c.w)))) ∧
  -- RESIL_MOOR_REPLACE (R433)
  (∀ (z : State) (wid : BitVec 64) (joined : Bool) (c : Cmd), z.ready 0x0703 wid [] = some c →
    let s := z.markDispatched wid;
    let timeout : Nat := ((tget s.moors (c.u32 0)).map (·.timeout)).getD 10000;
    ∀ k m,
    s.ownMoor c = .ok (k, m) →
    let p1 := (BitVec.ofNat 16 (c.u16 4), BitVec.ofNat 16 (c.u16 6));
    let lost := p1.1;
    let spare := p1.2;
    (s.moorBusy m = .ok ()) →
    (m.state = .degraded) →
    (m.lost.contains lost) →
    ((m.spares.contains spare || spare = lost) && joined) →
    exec (.resilMoorReplace wid joined) z = .next (State.settle
      ((s.startRebuild k lost spare timeout).modMoor k fun x => { x with rebuildBy := x.rebuildBy ++ [c.w] }))) ∧
  -- RESIL_MOOR_REPLACE_EXPERT (R433)
  (∀ (z : State) (wid : BitVec 64) (joined : Bool) (c : Cmd), z.ready 0x0783 wid [] = some c →
    let s := z.markDispatched wid;
    let timeout : Nat := c.u32 8;
    ∀ k m,
    s.ownMoor c = .ok (k, m) →
    let p1 := (BitVec.ofNat 16 (c.u16 4), BitVec.ofNat 16 (c.u16 6));
    let lost := p1.1;
    let spare := p1.2;
    (s.moorBusy m = .ok ()) →
    (m.state = .degraded) →
    (m.lost.contains lost) →
    ((m.spares.contains spare || spare = lost) && joined) →
    exec (.resilMoorReplaceExpert wid joined) z = .next (State.settle
      ((s.startRebuild k lost spare timeout).modMoor k fun x => { x with rebuildBy := x.rebuildBy ++ [c.w] }))) ∧
  -- RESIL_MOOR_SHRINK (R435)
  (∀ (z : State) (wid : BitVec 64) (cells : Nat) (shares : List (Nat × List (Nat × List Byte × List Nat))) (c : Cmd), z.ready 0x0704 wid [] = some c →
    let s := z.markDispatched wid;
    let timeout : Nat := ((tget s.moors (c.u32 0)).map (·.timeout)).getD 10000;
    let most : Nat := cells;
    ∀ k m,
    s.ownMoor c = .ok (k, m) →
    let lost := BitVec.ofNat 16 (c.u16 4);
    (s.moorBusy m = .ok ()) →
    (m.state = .degraded && 3 ≤ m.k && m.rank.isSome) →
    (m.lost.contains lost) →
    let oa := c.u64 8;
    ∀ o,
    s.ownRange c oa ((m.c + m.n - 2) / (m.n - 1) * cellBytes) [.hbm] = .ok o →
    (o.2.moored && o.1 = oa && !m.space.contains oa) →
    let lr := m.members.findIdx (· == lost);
    let members := m.members.erase lost;
    let rank := members.findIdx (· == s.part.partId);
    let s1 := (List.range m.stripes).foldl (fun s x =>
      if m.holds lr (x % m.n) then s
      else
        let owner := members[m.cellIn lr x % (m.n - 1)]?
        if (match m.rank with | some r => (m.senders lr x).contains r | none => false) && owner != some s.part.partId then
          s.sendCell k x owner (s.ownShare m (m.rank.getD 0) x)
        else s) s;
    let s1 := shares.foldl (fun s g =>
      let cell := m.cellIn lr g.1
      if m.holds lr (g.1 % m.n) || cell % (m.n - 1) != rank then s
      else match decodeStripe m.k m.m g.2 with
        | none => s
        | some ds => s.putCellAt (oa + cell / (m.n - 1) * cellBytes) ((ds[m.shareOf lr (g.1 % m.n)]?).getD [])
            (poisonOf (g.2.take m.k))) s1;
    let space := sortOn id (m.space ++ [oa]);
    let cc := roundUp (max (s1.spaceLen space / cellBytes) most) (m.k - 1);
    let s1 := if m.parityOwn then s1.release m.parity else s1;
    ∀ pa s2,
    s1.parityArea c (cc / (m.k - 1) * m.m * cellBytes) 0 = .ok (pa, s2) →
    let s3 := s2.modMoor k fun x => { x with
      k := m.k - 1, members := members, rank := some rank, space := space, c := cc, parity := pa, parityOwn := pa ≠ 0,
      lost := x.lost.erase lost, shrinkBy := x.shrinkBy ++ [c.w] };
    let s4 := (s3.enterMoor k .shrinking).startRefresh k true none;
    let b := (s4.spaceLen space) * (m.k + m.m - 2) / (m.k - 1);
    exec (.resilMoorShrink wid cells shares) z = .next (State.settle
      (s4.modMoor k fun x => { x with
      deadline := s.t + timeout * msNs
      bound := s.t + 150 * msNs + s.moveNs m.paddock (m.k * m.rankCells * cellBytes / (m.n - 1) + b) }))) ∧
  -- RESIL_MOOR_SHRINK_EXPERT (R435)
  (∀ (z : State) (wid : BitVec 64) (cells : Nat) (shares : List (Nat × List (Nat × List Byte × List Nat))) (c : Cmd), z.ready 0x0784 wid [] = some c →
    let s := z.markDispatched wid;
    let timeout : Nat := c.u32 16;
    let most : Nat := cells;
    ∀ k m,
    s.ownMoor c = .ok (k, m) →
    let lost := BitVec.ofNat 16 (c.u16 4);
    (s.moorBusy m = .ok ()) →
    (m.state = .degraded && 3 ≤ m.k && m.rank.isSome) →
    (m.lost.contains lost) →
    let oa := c.u64 8;
    ∀ o,
    s.ownRange c oa ((m.c + m.n - 2) / (m.n - 1) * cellBytes) [.hbm] = .ok o →
    (o.2.moored && o.1 = oa && !m.space.contains oa) →
    let lr := m.members.findIdx (· == lost);
    let members := m.members.erase lost;
    let rank := members.findIdx (· == s.part.partId);
    let s1 := (List.range m.stripes).foldl (fun s x =>
      if m.holds lr (x % m.n) then s
      else
        let owner := members[m.cellIn lr x % (m.n - 1)]?
        if (match m.rank with | some r => (m.senders lr x).contains r | none => false) && owner != some s.part.partId then
          s.sendCell k x owner (s.ownShare m (m.rank.getD 0) x)
        else s) s;
    let s1 := shares.foldl (fun s g =>
      let cell := m.cellIn lr g.1
      if m.holds lr (g.1 % m.n) || cell % (m.n - 1) != rank then s
      else match decodeStripe m.k m.m g.2 with
        | none => s
        | some ds => s.putCellAt (oa + cell / (m.n - 1) * cellBytes) ((ds[m.shareOf lr (g.1 % m.n)]?).getD [])
            (poisonOf (g.2.take m.k))) s1;
    let space := sortOn id (m.space ++ [oa]);
    let cc := roundUp (max (s1.spaceLen space / cellBytes) most) (m.k - 1);
    let s1 := if m.parityOwn then s1.release m.parity else s1;
    ∀ pa s2,
    s1.parityArea c (cc / (m.k - 1) * m.m * cellBytes) 0 = .ok (pa, s2) →
    let s3 := s2.modMoor k fun x => { x with
      k := m.k - 1, members := members, rank := some rank, space := space, c := cc, parity := pa, parityOwn := pa ≠ 0,
      lost := x.lost.erase lost, shrinkBy := x.shrinkBy ++ [c.w] };
    let s4 := (s3.enterMoor k .shrinking).startRefresh k true none;
    let b := (s4.spaceLen space) * (m.k + m.m - 2) / (m.k - 1);
    exec (.resilMoorShrinkExpert wid cells shares) z = .next (State.settle
      (s4.modMoor k fun x => { x with
      deadline := s.t + timeout * msNs
      bound := s.t + 150 * msNs + s.moveNs m.paddock (m.k * m.rankCells * cellBytes / (m.n - 1) + b) }))) ∧
  -- RESIL_MOOR_REPAIR (R436)
  (∀ (z : State) (wid : BitVec 64) (shares : List (Nat × List (Nat × List Byte × List Nat))) (c : Cmd), z.ready 0x0705 wid [] = some c →
    let s := z.markDispatched wid;
    let only : Nat → Bool := fun _ => true;
    ∀ k m,
    s.ownMoor c = .ok (k, m) →
    (s.moorMoving m = .ok ()) →
    let r := s.repairLines k ((s.moorPoison m).filter only) shares;
    exec (.resilMoorRepair wid shares) z = .next (State.settle (r.1.ok c r.2.1 r.2.2))) ∧
  -- RESIL_MOOR_REPAIR_EXPERT (R436)
  (∀ (z : State) (wid : BitVec 64) (shares : List (Nat × List (Nat × List Byte × List Nat))) (c : Cmd), z.ready 0x0785 wid [] = some c →
    let s := z.markDispatched wid;
    ∀ l,
    s.ownSet c (c.u32 4) = .ok l →
    let ranges := l.skipList.flatMap fun x => match l.groups[x.1]? with | some g => s.spanReads g x.2 | none => [];
    let only : Nat → Bool := fun line => ranges.any fun r => 256 * line < r.1 + r.2 && r.1 < 256 * line + 256;
    ∀ k m,
    s.ownMoor c = .ok (k, m) →
    (s.moorMoving m = .ok ()) →
    let r := s.repairLines k ((s.moorPoison m).filter only) shares;
    exec (.resilMoorRepairExpert wid shares) z = .next (State.settle (r.1.ok c r.2.1 r.2.2))) ∧
  -- RESIL_MOOR_QUERY (R438)
  (∀ (z : State) (wid : BitVec 64) (c : Cmd), z.ready 0x0706 wid [] = some c →
    let s := z.markDispatched wid;
    ∀ m x1,
    s.ownMoor c = .ok (x1, m) →
    ∀ s',
    s.writeBuf c (c.u64 4) m.encode = .ok s' →
    let s := s';
    exec (.resilMoorQuery wid) z = .next (State.settle (s.ok c))) ∧
  -- RESIL_MOOR_QUERY_EXPERT (R438)
  (∀ (z : State) (wid : BitVec 64) (c : Cmd), z.ready 0x0786 wid [] = some c →
    let s := z.markDispatched wid;
    ∀ m,
    tget s.moors (c.u32 8) = some m →
    (m.paddock = c.pad && !c.mgmt) →
    let es := m.lostCells.take (c.u32 12);
    ∀ s',
    (s.writeBuf c (c.u64 0)
      (m.encode ++ es.flatMap fun e => leBytes 8 e.1 ++ leBytes 2 e.2.1.toNat ++ leBytes 6 e.2.2) : Except Err _) = .ok s' →
    let s := s';
    exec (.resilMoorQueryExpert wid) z = .next (State.settle (s.ok c))) ∧
  -- RESIL_MOOR_DESTROY (R438)
  (∀ (z : State) (wid : BitVec 64) (c : Cmd), z.ready 0x0707 wid [] = some c →
    let s := z.markDispatched wid;
    let wait : Bool := false;
    ∀ k m,
    s.ownMoor c = .ok (k, m) →
    (s.moorMoving m = .ok ()) →
    (m.state = .active || m.state = .lost) →
    ¬(wait && !m.refreshes.isEmpty) →
    exec (.resilMoorDestroy wid) z = .next (State.settle (((s.endMoorCmds k stCancelled).dropMoor k m).ok c))) ∧
  -- RESIL_MOOR_DESTROY_EXPERT (R438)
  (∀ (z : State) (wid : BitVec 64) (c : Cmd), z.ready 0x0787 wid [] = some c →
    let s := z.markDispatched wid;
    let wait : Bool := c.flag 4;
    ∀ k m,
    s.ownMoor c = .ok (k, m) →
    (s.moorMoving m = .ok ()) →
    (m.state = .active || m.state = .lost) →
    (wait && !m.refreshes.isEmpty) →
    exec (.resilMoorDestroyExpert wid) z = .next (State.settle (s.wait c.w (.moorFree k)))) ∧
  (∀ (z : State) (wid : BitVec 64) (c : Cmd), z.ready 0x0787 wid [] = some c →
    let s := z.markDispatched wid;
    let wait : Bool := c.flag 4;
    ∀ k m,
    s.ownMoor c = .ok (k, m) →
    (s.moorMoving m = .ok ()) →
    (m.state = .active || m.state = .lost) →
    ¬(wait && !m.refreshes.isEmpty) →
    exec (.resilMoorDestroyExpert wid) z = .next (State.settle (((s.endMoorCmds k stCancelled).dropMoor k m).ok c)))

/-- The event wait, journal, team retire commands and the stripe and spare events have their effects: RESIL_WAIT,
RESIL_WAIT_EXPERT, RESIL_JOURNAL_QUERY, RESIL_JOURNAL_QUERY_EXPERT, RESIL_TEAM_RETIRE, RESIL_TEAM_RETIRE_EXPERT,
STRIPE_PARITY_COMPUTE, STRIPE_COMMIT, AUTO_REPLACE_START, REBUILD_COMPLETE, SHRINK_COMPLETE, POISON_LINE_REPAIR,
TEAM_SUBSTITUTION, SPARE_MAPPING_SWITCH (R414, R415, R430, R433, R435, R436, R438). -/
def Obligations.ResilienceCommandsAndEvents : Prop :=
  -- RESIL_WAIT (R438)
  (∀ (z : State) (wid : BitVec 64) (c : Cmd), z.ready 0x0708 wid [] = some c →
    let s := z.markDispatched wid;
    let mask : BitVec 32 := 0xFFFFFFFF#32;
    let a := c.u64 0;
    ∀ x1,
    s.resolve c a 64 true = .ok x1 →
    exec (.resilWait wid) z = .next (State.settle (s.wait c.w (.resilEvent c.pad mask (BitVec.ofNat 64 a))))) ∧
  -- RESIL_WAIT_EXPERT (R438)
  (∀ (z : State) (wid : BitVec 64) (c : Cmd), z.ready 0x0788 wid [] = some c →
    let s := z.markDispatched wid;
    let mask : BitVec 32 := BitVec.ofNat 32 (c.u32 8);
    let a := c.u64 0;
    ∀ x1,
    s.resolve c a 64 true = .ok x1 →
    exec (.resilWaitExpert wid) z = .next (State.settle (s.wait c.w (.resilEvent c.pad mask (BitVec.ofNat 64 a))))) ∧
  -- RESIL_JOURNAL_QUERY (R438)
  (∀ (z : State) (wid : BitVec 64) (c : Cmd), z.ready 0x0709 wid [] = some c →
    let s := z.markDispatched wid;
    let n := fun st => leBytes 4 (s.journal.filter fun j => j.state = st).length;
    ∀ s',
    (s.writeBuf c (c.u64 0) (n .accepted ++ n .dispatched ++ n .done ++ leBytes 4 0 ++
      ((List.range 9).flatMap fun f => leBytes 4 (s.fn f).outcomes.length) ++ leBytes 4 s.part.warmResets.toNat ++
      leBytes 8 s.part.settleNs) : Except Err _) = .ok s' →
    let s := s';
    exec (.resilJournalQuery wid) z = .next (State.settle (s.ok c))) ∧
  -- RESIL_JOURNAL_QUERY_EXPERT (R438)
  (∀ (z : State) (wid : BitVec 64) (c : Cmd), z.ready 0x0789 wid [] = some c →
    let s := z.markDispatched wid;
    let r := c.u16 8;
    (r < 288 && ringFn r = c.fn) →
    ∀ s',
    s.writeBuf c (c.u64 0) ((s.journal.filter fun j => j.ring = r).flatMap JRec.encode) = .ok s' →
    let s := s';
    exec (.resilJournalQueryExpert wid) z = .next (State.settle (s.ok c))) ∧
  -- RESIL_TEAM_RETIRE (R414)
  (∀ (z : State) (wid : BitVec 64) (c : Cmd), z.ready 0x070A wid [] = some c →
    let s := z.markDispatched wid;
    let p := c.u32 0;
    (p < 336) →
    s.physState p = .spare →
    exec (.resilTeamRetire wid) z = .next (State.settle
      ((s.modPhys p fun x => { x with state := some .failed, fieldDue := some s.t }).ok c 0xFFFF))) ∧
  (∀ (z : State) (wid : BitVec 64) (c : Cmd), z.ready 0x070A wid [] = some c →
    let s := z.markDispatched wid;
    let wait : Bool := false;
    let p := c.u32 0;
    (p < 336) →
    s.physState p = .mapped →
    ∀ l,
    s.logicalOf p = some l →
    ((s.team l).inService && !(s.team l).replacing) →
    ¬(wait && (s.running l).isSome) →
    exec (.resilTeamRetire wid) z = .next (State.settle (s.retireTeam c.w l))) ∧
  -- RESIL_TEAM_RETIRE_EXPERT (R414)
  (∀ (z : State) (wid : BitVec 64) (c : Cmd), z.ready 0x078A wid [] = some c →
    let s := z.markDispatched wid;
    let p := c.u32 0;
    (p < 336) →
    s.physState p = .spare →
    exec (.resilTeamRetireExpert wid) z = .next (State.settle
      ((s.modPhys p fun x => { x with state := some .failed, fieldDue := some s.t }).ok c 0xFFFF))) ∧
  (∀ (z : State) (wid : BitVec 64) (c : Cmd), z.ready 0x078A wid [] = some c →
    let s := z.markDispatched wid;
    let wait : Bool := c.flag 4;
    let p := c.u32 0;
    (p < 336) →
    s.physState p = .mapped →
    ∀ l,
    s.logicalOf p = some l →
    ((s.team l).inService && !(s.team l).replacing) →
    (wait && (s.running l).isSome) →
    exec (.resilTeamRetireExpert wid) z = .next (State.settle (s.wait c.w (.teamTask p)))) ∧
  (∀ (z : State) (wid : BitVec 64) (c : Cmd), z.ready 0x078A wid [] = some c →
    let s := z.markDispatched wid;
    let wait : Bool := c.flag 4;
    let p := c.u32 0;
    (p < 336) →
    s.physState p = .mapped →
    ∀ l,
    s.logicalOf p = some l →
    ((s.team l).inService && !(s.team l).replacing) →
    ¬(wait && (s.running l).isSome) →
    exec (.resilTeamRetireExpert wid) z = .next (State.settle (s.retireTeam c.w l))) ∧
  -- STRIPE_PARITY_COMPUTE (R430)
  (∀ (moor : Nat) (stripe : Nat) (cells : List (Nat × List Byte × List Nat)) (z : State),
    let s := z;
    ∀ m,
    tget s.moors moor = some m →
    let data := (List.range m.k).filterMap fun j => cells.find? fun x => x.1 = j;
    ¬(m.rank != some (m.collector stripe) || m.stripes ≤ stripe || data.length < m.k) →
    let ds := data.map fun x => x.2.1;
    let bad := poisonOf data;
    let s := s.putParity m (m.collector stripe) stripe (parityCell m.m 0 ds) bad;
    exec (.stripeParityCompute moor stripe cells) z = .next (State.settle
      (((List.range m.m).drop 1).foldl (fun s i =>
         s.sendCell moor stripe (m.members[(stripe + i) % m.n]?) (m.k + i, parityCell m.m i ds, bad)) s))) ∧
  -- STRIPE_COMMIT (R430)
  (∀ (moor : Nat) (stripe : Nat) (parity : Option (List Byte × List Nat)) (last : Bool) (z : State),
    let s := z;
    ∀ m,
    tget s.moors moor = some m →
    ∀ r,
    m.rank = some r →
    ¬(m.stripes ≤ stripe) →
    let s := if m.holds r (stripe % m.n) then
        (match parity with | some p => s.putParity m r stripe (slice p.1 0 cellBytes) p.2 | none => s)
      else s.modMoor moor fun x => { x with flight := x.flight.filter fun c => m.stripeOf r c != stripe };
    let done := ((tget s.moors moor).map (·.flight.isEmpty)).getD false;
    (last && done && m.state != .shrinking) →
    exec (.stripeCommit moor stripe parity last) z = .next (State.settle (s.commitEpoch moor))) ∧
  (∀ (moor : Nat) (stripe : Nat) (parity : Option (List Byte × List Nat)) (last : Bool) (z : State),
    let s := z;
    ∀ m,
    tget s.moors moor = some m →
    ∀ r,
    m.rank = some r →
    ¬(m.stripes ≤ stripe) →
    let s := if m.holds r (stripe % m.n) then
        (match parity with | some p => s.putParity m r stripe (slice p.1 0 cellBytes) p.2 | none => s)
      else s.modMoor moor fun x => { x with flight := x.flight.filter fun c => m.stripeOf r c != stripe };
    let done := ((tget s.moors moor).map (·.flight.isEmpty)).getD false;
    ¬(last && done && m.state != .shrinking) →
    exec (.stripeCommit moor stripe parity last) z = .next (State.settle (s))) ∧
  -- AUTO_REPLACE_START (R433)
  (∀ (moor : Nat) (s : State),
    ∀ m,
    tget s.moors moor = some m →
    ∀ lost x1,
    m.lost = lost :: x1 →
    ∀ spare x2,
    m.spares = spare :: x2 →
    ∀ x3,
    m.rank = some x3 →
    (m.auto && m.state = .degraded) →
    exec (.autoReplaceStart moor) s = .next (State.settle (s.startRebuild moor lost spare m.timeout))) ∧
  -- REBUILD_COMPLETE (R433)
  (∀ (moor : Nat) (lost : BitVec 16) (spare : BitVec 16) (epoch : Nat) (shares : List (Nat × List (Nat × List Byte × List Nat))) (z : State),
    let s := z;
    ∀ m,
    tget s.moors moor = some m →
    ¬(!m.lost.contains lost || m.state = .lost || m.state = .shrinking) →
    let lr := m.members.findIdx (· == lost);
    let me : Bool := spare = s.part.partId;
    let gone := (m.lostCells.filter fun c => c.2.1 = lost).length;
    let left := m.lost.erase lost;
    let s := if me then s.rebuildCells m lr shares else s;
    let s := s.modMoor moor fun x => { x with
      members := x.members.map fun p => if p = lost then spare else p
      spares := x.spares.erase spare, lost := left, rebuildFor := none, rebuildBy := []
      rank := if me then some lr else x.rank
      committedEpoch := if me then epoch else x.committedEpoch
      epoch := if me then epoch + 1 else x.epoch
      rebuildNs := if m.rebuildFor.isSome then s.t - x.startedAt else x.rebuildNs };
    let s : State := { s with part := { s.part with rebuilds := s.part.rebuilds + 1#32 } };
    let s := m.rebuildBy.foldl (fun s w =>
      s.complete w stOk (BitVec.ofNat 64 (m.rankCells - gone)) (BitVec.ofNat 32 gone)) s;
    exec (.rebuildComplete moor lost spare epoch shares) z = .next (State.settle
      (s.enterMoor moor (if left.isEmpty then .active else .degraded)))) ∧
  -- SHRINK_COMPLETE (R435)
  (∀ (moor : Nat) (z : State),
    let s := z;
    ∀ m,
    tget s.moors moor = some m →
    ¬(m.state != .shrinking || !m.flight.isEmpty) →
    let s := (s.commitEpoch moor).completeAll m.shrinkBy stOk;
    exec (.shrinkComplete moor) z = .next (State.settle
      ((s.modMoor moor fun x => { x with shrinkBy := [] }).enterMoor moor (if m.lost.isEmpty then .active else .degraded)))) ∧
  -- POISON_LINE_REPAIR (R436)
  (∀ (line : Nat) (shares : List (Nat × List (Nat × List Byte × List Nat))) (s : State),
    ∀ e',
    (s.moors.find? fun e => (s.moorPoison e.2).contains line) = some e' →
    let e := e';
    ¬(e.2.state = .rebuilding || e.2.state = .shrinking) →
    exec (.poisonLineRepair line shares) s = .next (State.settle ((s.repairLines e.1 [line] shares).1))) ∧
  -- TEAM_SUBSTITUTION (R414)
  (∀ (s : State),
    ∀ l x1,
    s.replacingTeams = l :: x1 →
    s.substitute (s.physOf l) = none →
    exec (.teamSubstitution) s = .next (State.settle (s.teamOut l))) ∧
  (∀ (s : State),
    ∀ l x1,
    s.replacingTeams = l :: x1 →
    ∀ q,
    s.substitute (s.physOf l) = some q →
    exec (.teamSubstitution) s = .next (State.settle
      ((s.stopSpareTest q).modPhys q fun x => { x with state := some .bringUp, bringFor := some l }))) ∧
  -- SPARE_MAPPING_SWITCH (R415)
  (∀ (team : Nat) (pass : Bool) (s : State),
    ∀ e',
    (s.phys.find? fun e => e.2.bringFor = some team) = some e' →
    let e := e';
    let old := s.physOf team;
    exec (.spareMappingSwitch team pass) s = .next (State.settle
      ((s.reach ((s.physTeam old).fieldDue.getD 0 + 25 * msNs)).teamSwitch team e.1 old pass)))

/-- The Frame Quay commands and events have their effects: QUAY_SESSION_OPEN, QUAY_SESSION_OPEN_EXPERT,
QUAY_SESSION_CLOSE, QUAY_SESSION_CLOSE_EXPERT, QUAY_FRAME_COMMIT, QUAY_FRAME_COMMIT_EXPERT, QUAY_RING_ADVANCE,
QUAY_RING_ADVANCE_EXPERT, QUAY_QUERY, QUAY_QUERY_EXPERT, FRAME_START, PICTURE_CODED (R442, R443, R455, R456, R457,
R458, R459). -/
def Obligations.FrameQuayCommands : Prop :=
  -- QUAY_SESSION_OPEN (R442)
  (∀ (z : State) (wid : BitVec 64) (c : Cmd), z.ready 0x0801 wid [] = some c →
    let s := z.markDispatched wid;
    let q := quayOf c c.p;
    ∀ k,
    tget s.paddocks c.pad = some k →
    let most := if q.encode then 64 else 256;
    (s.quaysOf q.encode none < most && s.quaysOf q.encode (some c.pad) < quayLimit q.encode k.quayShare) →
    (q.inRange (c.u8 0)) →
    ∀ out,
    s.streamOf c q.outS = .ok out →
    (out.state = .opened && out.producer.isNone) →
    (s.quaySource c q = .ok ()) →
    ∀ loc,
    s.resolve c q.recAddr.toNat (256 + 32 * q.records) true = .ok loc →
    let host : Bool := match loc with | .host _ => true | .part _ _ => false;
    let len := (levelDpb q.level (q.width * q.height) + 1) * planeBytes q.width q.height (if q.profile = 2 then 10 else 8);
    ∀ dpb s2,
    s.quayDpb c q len = .ok (dpb, s2) →
    let p1 := s2.pick (fun x => thas s2.quays x) 1 (2 ^ 32 - 1);
    let h := p1.1;
    let s3 := p1.2;
    let hd := h.getD 1;
    let s4 := s3.modStream q.outS fun st => { st with producer := some (.quay hd) };
    let s5 := if q.encode then s4 else s4.modStream q.inS fun st => { st with consEnd := tput st.consEnd q.inCons (.quay hd) };
    exec (.quaySessionOpen wid) z = .next (State.settle
      ((({ s5 with quays := tput s5.quays hd { q with recHost := host, dpb := dpb, dpbOwn := q.dpb = 0 } } : State)).ok c hd))) ∧
  -- QUAY_SESSION_OPEN_EXPERT (R442)
  (∀ (z : State) (wid : BitVec 64) (c : Cmd), z.ready 0x0881 wid [] = some c →
    let s := z.markDispatched wid;
    let q := quayOf c c.p;
    ∀ k,
    tget s.paddocks c.pad = some k →
    let most := if q.encode then 64 else 256;
    (s.quaysOf q.encode none < most && s.quaysOf q.encode (some c.pad) < quayLimit q.encode k.quayShare) →
    (q.inRange (c.u8 0)) →
    ∀ out,
    s.streamOf c q.outS = .ok out →
    (out.state = .opened && out.producer.isNone) →
    (s.quaySource c q = .ok ()) →
    ∀ loc,
    s.resolve c q.recAddr.toNat (256 + 32 * q.records) true = .ok loc →
    let host : Bool := match loc with | .host _ => true | .part _ _ => false;
    let len := (levelDpb q.level (q.width * q.height) + 1) * planeBytes q.width q.height (if q.profile = 2 then 10 else 8);
    ∀ dpb s2,
    s.quayDpb c q len = .ok (dpb, s2) →
    let p1 := s2.pick (fun x => thas s2.quays x) 1 (2 ^ 32 - 1);
    let h := p1.1;
    let s3 := p1.2;
    let hd := h.getD 1;
    let s4 := s3.modStream q.outS fun st => { st with producer := some (.quay hd) };
    let s5 := if q.encode then s4 else s4.modStream q.inS fun st => { st with consEnd := tput st.consEnd q.inCons (.quay hd) };
    exec (.quaySessionOpenExpert wid) z = .next (State.settle
      ((({ s5 with quays := tput s5.quays hd { q with recHost := host, dpb := dpb, dpbOwn := q.dpb = 0 } } : State)).ok c hd))) ∧
  -- QUAY_SESSION_CLOSE (R443)
  (∀ (z : State) (wid : BitVec 64) (c : Cmd), z.ready 0x0802 wid [] = some c →
    let s := z.markDispatched wid;
    let h := c.u32 0;
    ∀ q,
    s.ownQuay c h = .ok q →
    (q.closing.isNone) →
    (q.ended.isSome) →
    exec (.quaySessionClose wid) z = .next (State.settle (({ s with quays := tdel s.quays h } : State).ok c q.outNo))) ∧
  (∀ (z : State) (wid : BitVec 64) (c : Cmd), z.ready 0x0802 wid [] = some c →
    let s := z.markDispatched wid;
    let abort : Bool := false;
    let h := c.u32 0;
    ∀ q,
    s.ownQuay c h = .ok q →
    (q.closing.isNone) →
    ¬(q.ended.isSome) →
    let s1 := s.modQuay h fun x => { x with closing := some c.w };
    (abort || !q.encode) →
    let s2 := s1.completeAll ((q.pend.toList ++ q.queue).map (·.wid)) stCancelled;
    let s3 := s2.modQuay h fun x => { x with
      pend := none, queue := [], coding := if abort then none else x.coding
      latched := if abort then [] else x.latched, outq := if abort then x.outq.take (if x.outTile = 0 then 0 else 1) else x.outq };
    exec (.quaySessionClose wid) z = .next (State.settle (if abort || q.coding.isNone then s3.endQuay h stOk else s3))) ∧
  (∀ (z : State) (wid : BitVec 64) (c : Cmd), z.ready 0x0802 wid [] = some c →
    let s := z.markDispatched wid;
    let abort : Bool := false;
    let h := c.u32 0;
    ∀ q,
    s.ownQuay c h = .ok q →
    (q.closing.isNone) →
    ¬(q.ended.isSome) →
    let s1 := s.modQuay h fun x => { x with closing := some c.w };
    ¬(abort || !q.encode) →
    exec (.quaySessionClose wid) z = .next (State.settle
      (if q.coding.isNone && q.pend.isNone && q.queue.isEmpty then s1.endQuay h stOk else s1))) ∧
  -- QUAY_SESSION_CLOSE_EXPERT (R458)
  (∀ (z : State) (wid : BitVec 64) (c : Cmd), z.ready 0x0882 wid [] = some c →
    let s := z.markDispatched wid;
    let h := c.u32 0;
    ∀ q,
    s.ownQuay c h = .ok q →
    (q.closing.isNone) →
    (q.ended.isSome) →
    exec (.quaySessionCloseExpert wid) z = .next (State.settle (({ s with quays := tdel s.quays h } : State).ok c q.outNo))) ∧
  (∀ (z : State) (wid : BitVec 64) (c : Cmd), z.ready 0x0882 wid [] = some c →
    let s := z.markDispatched wid;
    let abort : Bool := c.flag 4;
    let h := c.u32 0;
    ∀ q,
    s.ownQuay c h = .ok q →
    (q.closing.isNone) →
    ¬(q.ended.isSome) →
    let s1 := s.modQuay h fun x => { x with closing := some c.w };
    (abort || !q.encode) →
    let s2 := s1.completeAll ((q.pend.toList ++ q.queue).map (·.wid)) stCancelled;
    let s3 := s2.modQuay h fun x => { x with
      pend := none, queue := [], coding := if abort then none else x.coding
      latched := if abort then [] else x.latched, outq := if abort then x.outq.take (if x.outTile = 0 then 0 else 1) else x.outq };
    exec (.quaySessionCloseExpert wid) z = .next (State.settle (if abort || q.coding.isNone then s3.endQuay h stOk else s3))) ∧
  (∀ (z : State) (wid : BitVec 64) (c : Cmd), z.ready 0x0882 wid [] = some c →
    let s := z.markDispatched wid;
    let abort : Bool := c.flag 4;
    let h := c.u32 0;
    ∀ q,
    s.ownQuay c h = .ok q →
    (q.closing.isNone) →
    ¬(q.ended.isSome) →
    let s1 := s.modQuay h fun x => { x with closing := some c.w };
    ¬(abort || !q.encode) →
    exec (.quaySessionCloseExpert wid) z = .next (State.settle
      (if q.coding.isNone && q.pend.isNone && q.queue.isEmpty then s1.endQuay h stOk else s1))) ∧
  -- QUAY_FRAME_COMMIT (R455)
  (∀ (z : State) (wid : BitVec 64) (hm : HostImage) (c : Cmd), z.ready 0x0803 wid hm = some c →
    let s := z.markDispatched wid;
    let notBefore : Nat := 0;
    let h := c.u32 0;
    ∀ q,
    s.ownQuay c h = .ok q →
    (q.closing.isNone && q.ending.isNone && q.ended.isNone) →
    ∀ d bad,
    s.readBuf c (c.u64 8) 64 = .ok (d, bad) →
    (!bad) →
    (zeros (slice d 22 2) && zeros (slice d 41 23) && fld d 16 4 < 4) →
    let n := fld d 21 1;
    let crop := (fld d 32 2, fld d 34 2, fld d 36 2, fld d 38 2);
    let desc := fun (rs : List (List Byte)) =>
      { src := BitVec.ofNat 64 (fld d 0 8), pts := BitVec.ofNat 64 (fld d 8 8), forceIdr := bitAt (fld d 16 1) 0
        flush := bitAt (fld d 16 1) 1, qpOffset := signed8 (fld d 20 1), regions := rs, crop := crop
        down := fld d 40 1 : FrameDesc };
    (q.encode) →
    (n ≤ 16 && -12 ≤ signed8 (fld d 20 1) && signed8 (fld d 20 1) ≤ 12) →
    ∀ rb rbad,
    (if n = 0 then .ok ([], false) else s.readBuf c (fld d 24 8) (16 * n) : Except Err _) = .ok (rb, rbad) →
    (!rbad) →
    let rs := (List.range n).map fun i => slice rb (16 * i) 16;
    (rs.all fun r => zeros (slice r 10 6)) →
    (rs.all regionOk) →
    ∀ x1,
    s.resolve c (fld d 0 8) (planeBytes q.width q.height (if q.profile = 2 then 10 else 8)) false = .ok x1 →
    let k : Commit := { wid := c.w, desc := desc rs, notBefore := notBefore };
    exec (.quayFrameCommit wid hm) z = .next (State.settle
      (s.modQuay h fun x => if x.pend.isNone then { x with pend := some k } else { x with queue := x.queue ++ [k] }))) ∧
  (∀ (z : State) (wid : BitVec 64) (hm : HostImage) (c : Cmd), z.ready 0x0803 wid hm = some c →
    let s := z.markDispatched wid;
    let notBefore : Nat := 0;
    let h := c.u32 0;
    ∀ q,
    s.ownQuay c h = .ok q →
    (q.closing.isNone && q.ending.isNone && q.ended.isNone) →
    ∀ d bad,
    s.readBuf c (c.u64 8) 64 = .ok (d, bad) →
    (!bad) →
    (zeros (slice d 22 2) && zeros (slice d 41 23) && fld d 16 4 < 4) →
    let crop := (fld d 32 2, fld d 34 2, fld d 36 2, fld d 38 2);
    let desc := fun (rs : List (List Byte)) =>
      { src := BitVec.ofNat 64 (fld d 0 8), pts := BitVec.ofNat 64 (fld d 8 8), forceIdr := bitAt (fld d 16 1) 0
        flush := bitAt (fld d 16 1) 1, qpOffset := signed8 (fld d 20 1), regions := rs, crop := crop
        down := fld d 40 1 : FrameDesc };
    ¬(q.encode) →
    let p1 := crop;
    let x0 := p1.1;
    let y0 := p1.2.1;
    let w := p1.2.2.1;
    let hh := p1.2.2.2;
    let down := fld d 40 1;
    (fld d 0 8 = 0 && [1, 2, 4].contains down && x0 % 2 = 0 && y0 % 2 = 0 && w % 2 = 0 && hh % 2 = 0 &&
      (crop = (0, 0, 0, 0) || (1 ≤ w && 1 ≤ hh && x0 + w ≤ q.width && y0 + hh ≤ q.height))) →
    let p2 := if crop = (0, 0, 0, 0) then (q.width, q.height) else (w, hh);
    let pw := p2.1;
    let ph := p2.2;
    (q.outMode = 0 || (pw % down = 0 && ph % down = 0 && pw / down % q.patch = 0 && ph / down % q.patch = 0)) →
    let s1 := match q.pend with | some k => s.complete k.wid stDescReplaced | none => s;
    exec (.quayFrameCommit wid hm) z = .next (State.settle
      (s1.modQuay h fun x => { x with pend := some { wid := c.w, desc := desc [], notBefore := notBefore } }))) ∧
  -- QUAY_FRAME_COMMIT_EXPERT (R455)
  (∀ (z : State) (wid : BitVec 64) (hm : HostImage) (c : Cmd), z.ready 0x0883 wid hm = some c →
    let s := z.markDispatched wid;
    let notBefore : Nat := c.u64 16;
    let h := c.u32 0;
    ∀ q,
    s.ownQuay c h = .ok q →
    (q.closing.isNone && q.ending.isNone && q.ended.isNone) →
    ∀ d bad,
    s.readBuf c (c.u64 8) 64 = .ok (d, bad) →
    (!bad) →
    (zeros (slice d 22 2) && zeros (slice d 41 23) && fld d 16 4 < 4) →
    let n := fld d 21 1;
    let crop := (fld d 32 2, fld d 34 2, fld d 36 2, fld d 38 2);
    let desc := fun (rs : List (List Byte)) =>
      { src := BitVec.ofNat 64 (fld d 0 8), pts := BitVec.ofNat 64 (fld d 8 8), forceIdr := bitAt (fld d 16 1) 0
        flush := bitAt (fld d 16 1) 1, qpOffset := signed8 (fld d 20 1), regions := rs, crop := crop
        down := fld d 40 1 : FrameDesc };
    (q.encode) →
    (n ≤ 16 && -12 ≤ signed8 (fld d 20 1) && signed8 (fld d 20 1) ≤ 12) →
    ∀ rb rbad,
    (if n = 0 then .ok ([], false) else s.readBuf c (fld d 24 8) (16 * n) : Except Err _) = .ok (rb, rbad) →
    (!rbad) →
    let rs := (List.range n).map fun i => slice rb (16 * i) 16;
    (rs.all fun r => zeros (slice r 10 6)) →
    (rs.all regionOk) →
    ∀ x1,
    s.resolve c (fld d 0 8) (planeBytes q.width q.height (if q.profile = 2 then 10 else 8)) false = .ok x1 →
    let k : Commit := { wid := c.w, desc := desc rs, notBefore := notBefore };
    exec (.quayFrameCommitExpert wid hm) z = .next (State.settle
      (s.modQuay h fun x => if x.pend.isNone then { x with pend := some k } else { x with queue := x.queue ++ [k] }))) ∧
  (∀ (z : State) (wid : BitVec 64) (hm : HostImage) (c : Cmd), z.ready 0x0883 wid hm = some c →
    let s := z.markDispatched wid;
    let notBefore : Nat := c.u64 16;
    let h := c.u32 0;
    ∀ q,
    s.ownQuay c h = .ok q →
    (q.closing.isNone && q.ending.isNone && q.ended.isNone) →
    ∀ d bad,
    s.readBuf c (c.u64 8) 64 = .ok (d, bad) →
    (!bad) →
    (zeros (slice d 22 2) && zeros (slice d 41 23) && fld d 16 4 < 4) →
    let crop := (fld d 32 2, fld d 34 2, fld d 36 2, fld d 38 2);
    let desc := fun (rs : List (List Byte)) =>
      { src := BitVec.ofNat 64 (fld d 0 8), pts := BitVec.ofNat 64 (fld d 8 8), forceIdr := bitAt (fld d 16 1) 0
        flush := bitAt (fld d 16 1) 1, qpOffset := signed8 (fld d 20 1), regions := rs, crop := crop
        down := fld d 40 1 : FrameDesc };
    ¬(q.encode) →
    let p1 := crop;
    let x0 := p1.1;
    let y0 := p1.2.1;
    let w := p1.2.2.1;
    let hh := p1.2.2.2;
    let down := fld d 40 1;
    (fld d 0 8 = 0 && [1, 2, 4].contains down && x0 % 2 = 0 && y0 % 2 = 0 && w % 2 = 0 && hh % 2 = 0 &&
      (crop = (0, 0, 0, 0) || (1 ≤ w && 1 ≤ hh && x0 + w ≤ q.width && y0 + hh ≤ q.height))) →
    let p2 := if crop = (0, 0, 0, 0) then (q.width, q.height) else (w, hh);
    let pw := p2.1;
    let ph := p2.2;
    (q.outMode = 0 || (pw % down = 0 && ph % down = 0 && pw / down % q.patch = 0 && ph / down % q.patch = 0)) →
    let s1 := match q.pend with | some k => s.complete k.wid stDescReplaced | none => s;
    exec (.quayFrameCommitExpert wid hm) z = .next (State.settle
      (s1.modQuay h fun x => { x with pend := some { wid := c.w, desc := desc [], notBefore := notBefore } }))) ∧
  -- QUAY_RING_ADVANCE (R456)
  (∀ (z : State) (wid : BitVec 64) (c : Cmd), z.ready 0x0804 wid [] = some c →
    let s := z.markDispatched wid;
    let goal : Nat := 0;
    let h := c.u32 0;
    ∀ q,
    s.ownQuay c h = .ok q →
    (q.closing.isNone && q.ending.isNone && q.ended.isNone) →
    let r := c.u64 4;
    (q.read ≤ r && r ≤ q.write) →
    let s1 := (s.quayStore q 8 (leBytes 8 r)).modQuay h fun x => { x with read := r };
    (goal ≤ q.write) →
    exec (.quayRingAdvance wid) z = .next (State.settle (s1.ok c))) ∧
  -- QUAY_RING_ADVANCE_EXPERT (R456)
  (∀ (z : State) (wid : BitVec 64) (c : Cmd), z.ready 0x0884 wid [] = some c →
    let s := z.markDispatched wid;
    let goal : Nat := c.u64 12;
    let h := c.u32 0;
    ∀ q,
    s.ownQuay c h = .ok q →
    (q.closing.isNone && q.ending.isNone && q.ended.isNone) →
    let r := c.u64 4;
    (q.read ≤ r && r ≤ q.write) →
    let s1 := (s.quayStore q 8 (leBytes 8 r)).modQuay h fun x => { x with read := r };
    (goal ≤ q.write) →
    exec (.quayRingAdvanceExpert wid) z = .next (State.settle (s1.ok c))) ∧
  (∀ (z : State) (wid : BitVec 64) (c : Cmd), z.ready 0x0884 wid [] = some c →
    let s := z.markDispatched wid;
    let goal : Nat := c.u64 12;
    let h := c.u32 0;
    ∀ q,
    s.ownQuay c h = .ok q →
    (q.closing.isNone && q.ending.isNone && q.ended.isNone) →
    let r := c.u64 4;
    (q.read ≤ r && r ≤ q.write) →
    let s1 := (s.quayStore q 8 (leBytes 8 r)).modQuay h fun x => { x with read := r };
    ¬(goal ≤ q.write) →
    exec (.quayRingAdvanceExpert wid) z = .next (State.settle
      (s1.modQuay h fun x => { x with advWait := x.advWait ++ [(c.w, goal)] }))) ∧
  -- QUAY_QUERY (R459)
  (∀ (z : State) (wid : BitVec 64) (c : Cmd), z.ready 0x0805 wid [] = some c →
    let s := z.markDispatched wid;
    ∀ q,
    s.ownQuay c (c.u32 0) = .ok q →
    ∀ s',
    s.writeBuf c (c.u64 4) (q.encodeRec (c.u32 0)) = .ok s' →
    let s := s';
    exec (.quayQuery wid) z = .next (State.settle (s.ok c))) ∧
  -- QUAY_QUERY_EXPERT (R459)
  (∀ (z : State) (wid : BitVec 64) (c : Cmd), z.ready 0x0885 wid [] = some c →
    let s := z.markDispatched wid;
    let qs := (s.quays.filter fun e => e.2.paddock = c.pad && !c.mgmt).take (c.u32 8);
    ∀ s',
    s.writeBuf c (c.u64 0) (qs.flatMap fun e => e.2.encodeRec e.1) = .ok s' →
    let s := s';
    exec (.quayQueryExpert wid) z = .next (State.settle (s.ok c qs.length))) ∧
  -- FRAME_START (R455)
  (∀ (session : Nat) (z : State),
    let s := z;
    ∀ q,
    tget s.quays session = some q →
    (s.quayReady q) →
    (s.quayTurn q) →
    let s := s.takePipe session q;
    let n := q.started;
    let take : Option Commit := q.pend.bind fun k => if k.notBefore ≤ n then some k else none;
    let desc := match take with | some k => k.desc | none => q.active.getD wholePicture;
    let s := match take with | some k => s.complete k.wid stOk (BitVec.ofNat 64 n) | none => s;
    exec (.frameStart session) z = .next (State.settle
      (s.modQuay session fun x => { x with
         started := n + 1, coding := some (n, desc), active := if take.isSome then some desc else x.active
         activeNo := if take.isSome then n else x.activeNo
         pend := if take.isSome then x.queue[0]? else x.pend, queue := if take.isSome then x.queue.drop 1 else x.queue }))) ∧
  -- PICTURE_CODED (R457)
  (∀ (session : Nat) (r : Coded) (s : State),
    ∀ q,
    tget s.quays session = some q →
    ¬(q.ended.isSome || q.ending.isSome) →
    (q.encode) →
    exec (.pictureCoded session r) s = .next (State.settle (s.encoded session q r))) ∧
  (∀ (session : Nat) (r : Coded) (s : State),
    ∀ q,
    tget s.quays session = some q →
    ¬(q.ended.isSome || q.ending.isSome) →
    ¬(q.encode) →
    exec (.pictureCoded session r) s = .next (State.settle (s.decoded session q r)))

/-- The power commands complete with their effects: PWR_CAP_SET, PWR_CAP_SET_EXPERT, PWR_TEAM_VOLT,
PWR_TEAM_VOLT_EXPERT, PWR_RAIL_SET, PWR_RAIL_SET_EXPERT, PWR_RATE_LIMIT, PWR_RATE_LIMIT_EXPERT, PWR_TELEMETRY,
PWR_TELEMETRY_EXPERT, PWR_CEILING_QUERY, PWR_CEILING_QUERY_EXPERT, PWR_THERMAL_QUERY, PWR_THERMAL_QUERY_EXPERT
(R465, R466, R468, R469, R470, R475, R480, R483, R486). -/
def Obligations.PowerCommands : Prop :=
  -- PWR_CAP_SET (R475)
  (∀ (z : State) (wid : BitVec 64) (c : Cmd), z.ready 0x0901 wid [] = some c →
    let s := z.markDispatched wid;
    let noExc : Bool := false;
    (c.mgmt) →
    (700 ≤ c.u32 0 && c.u32 0 ≤ 1800) →
    exec (.pwrCapSet wid) z = .next (State.settle (s.recordCap (c.u32 0) (some c.w) noExc))) ∧
  -- PWR_CAP_SET_EXPERT (R475)
  (∀ (z : State) (wid : BitVec 64) (c : Cmd), z.ready 0x0981 wid [] = some c →
    let s := z.markDispatched wid;
    let noExc : Bool := c.flag 4;
    (c.mgmt) →
    (700 ≤ c.u32 0 && c.u32 0 ≤ 1800) →
    exec (.pwrCapSetExpert wid) z = .next (State.settle (s.recordCap (c.u32 0) (some c.w) noExc))) ∧
  -- PWR_TEAM_VOLT (R469)
  (∀ (z : State) (wid : BitVec 64) (c : Cmd), z.ready 0x0902 wid [] = some c →
    let s := z.markDispatched wid;
    let auto : Bool := false;
    let p1 := (c.u16 0, c.u16 2);
    let l := p1.1;
    let v := p1.2;
    (!c.mgmt && (s.allotment c.pad).contains l) →
    (auto || (600 ≤ v && v ≤ 850 && v % 5 = 0)) →
    (!(s.team l).replacing) →
    let p := s.physOf l;
    (!(s.rail (p / 42)).quarantined) →
    exec (.pwrTeamVolt wid) z = .next (State.settle (s.setTeamVolt p v (some c.w) true))) ∧
  -- PWR_TEAM_VOLT_EXPERT (R468)
  (∀ (z : State) (wid : BitVec 64) (c : Cmd), z.ready 0x0982 wid [] = some c →
    let s := z.markDispatched wid;
    let auto : Bool := c.flag 4;
    let p1 := (c.u16 0, c.u16 2);
    let l := p1.1;
    let v := p1.2;
    (!c.mgmt && (s.allotment c.pad).contains l) →
    (auto || (600 ≤ v && v ≤ 850 && v % 5 = 0)) →
    (!(s.team l).replacing) →
    let p := s.physOf l;
    (!(s.rail (p / 42)).quarantined) →
    (auto) →
    let g := s.teamReg p;
    let s := s.supersede g.cmd (g.at_ s.t / 1000);
    let s := s.modPwr p fun x => { x with reg := some { g with cmd := none, fixed := false } };
    exec (.pwrTeamVoltExpert wid) z = .next (State.settle ((s.retune p).followRails.ok c))) ∧
  (∀ (z : State) (wid : BitVec 64) (c : Cmd), z.ready 0x0982 wid [] = some c →
    let s := z.markDispatched wid;
    let auto : Bool := c.flag 4;
    let p1 := (c.u16 0, c.u16 2);
    let l := p1.1;
    let v := p1.2;
    (!c.mgmt && (s.allotment c.pad).contains l) →
    (auto || (600 ≤ v && v ≤ 850 && v % 5 = 0)) →
    (!(s.team l).replacing) →
    let p := s.physOf l;
    (!(s.rail (p / 42)).quarantined) →
    ¬(auto) →
    exec (.pwrTeamVoltExpert wid) z = .next (State.settle (s.setTeamVolt p v (some c.w) true))) ∧
  -- PWR_RAIL_SET (R469)
  (∀ (z : State) (wid : BitVec 64) (c : Cmd), z.ready 0x0903 wid [] = some c →
    let s := z.markDispatched wid;
    let rate : Nat := 1000;
    let p1 := (c.u32 0, c.u32 4);
    let r := p1.1;
    let v := p1.2;
    (railRange r v && 500 ≤ rate && rate ≤ 10000) →
    (8 ≤ r || (railTeams r).all fun p => (s.teamReg p).target + 50 ≤ v) →
    (!(s.rail r).quarantined) →
    exec (.pwrRailSet wid) z = .next (State.settle (s.setRail r v rate (some c.w) true))) ∧
  -- PWR_RAIL_SET_EXPERT (R470)
  (∀ (z : State) (wid : BitVec 64) (c : Cmd), z.ready 0x0983 wid [] = some c →
    let s := z.markDispatched wid;
    let rate : Nat := c.u32 8;
    let p1 := (c.u32 0, c.u32 4);
    let r := p1.1;
    let v := p1.2;
    (railRange r v && 500 ≤ rate && rate ≤ 10000) →
    (8 ≤ r || (railTeams r).all fun p => (s.teamReg p).target + 50 ≤ v) →
    (!(s.rail r).quarantined) →
    exec (.pwrRailSetExpert wid) z = .next (State.settle (s.setRail r v rate (some c.w) true))) ∧
  -- PWR_RATE_LIMIT (R465)
  (∀ (z : State) (wid : BitVec 64) (c : Cmd), z.ready 0x0904 wid [] = some c →
    let s := z.markDispatched wid;
    (!c.mgmt) →
    let p : Nat := c.pad;
    let v := c.u32 0;
    (900 ≤ v && v ≤ 2100) →
    (thas s.paddocks p) →
    exec (.pwrRateLimit wid) z = .next (State.settle ((s.modPaddock p fun k => { k with rateLimit := some v }).ok c))) ∧
  -- PWR_RATE_LIMIT_EXPERT (R465)
  (∀ (z : State) (wid : BitVec 64) (c : Cmd), z.ready 0x0984 wid [] = some c →
    let s := z.markDispatched wid;
    (c.mgmt) →
    let p : Nat := c.u32 4;
    let v := c.u32 0;
    (900 ≤ v && v ≤ 2100) →
    (thas s.paddocks p) →
    exec (.pwrRateLimitExpert wid) z = .next (State.settle ((s.modPaddock p fun k => { k with rateLimit := some v }).ok c))) ∧
  -- PWR_TELEMETRY (R483)
  (∀ (z : State) (wid : BitVec 64) (c : Cmd), z.ready 0x0905 wid [] = some c →
    let s := z.markDispatched wid;
    let teams : List Nat := [];
    ∀ s1,
    s.writeBuf c (c.u64 0) (s.powerRecord ++ teams.flatMap s.teamPowerBytes) = .ok s1 →
    exec (.pwrTelemetry wid) z = .next (State.settle (({ s1 with free := s1.free + 15 } : State).ok c))) ∧
  -- PWR_TELEMETRY_EXPERT (R483)
  (∀ (z : State) (wid : BitVec 64) (c : Cmd), z.ready 0x0985 wid [] = some c →
    let s := z.markDispatched wid;
    let teams : List Nat := if c.flag 8 then s.allotment c.pad else [];
    ∀ s1,
    s.writeBuf c (c.u64 0) (s.powerRecord ++ teams.flatMap s.teamPowerBytes) = .ok s1 →
    exec (.pwrTelemetryExpert wid) z = .next (State.settle (({ s1 with free := s1.free + 15 } : State).ok c))) ∧
  -- PWR_CEILING_QUERY (R466)
  (∀ (z : State) (wid : BitVec 64) (c : Cmd), z.ready 0x0906 wid [] = some c →
    let s := z.markDispatched wid;
    let p := c.u32 0;
    (p < 336) →
    ∀ s',
    s.writeBuf c (c.u64 4) (s.ceilBytes p (s.ceilRec p)) = .ok s' →
    let s := s';
    exec (.pwrCeilingQuery wid) z = .next (State.settle (s.ok c))) ∧
  -- PWR_CEILING_QUERY_EXPERT (R466)
  (∀ (z : State) (wid : BitVec 64) (c : Cmd), z.ready 0x0986 wid [] = some c →
    let s := z.markDispatched wid;
    (c.mgmt) →
    ∀ s',
    s.writeBuf c (c.u64 0) ((List.range 336).flatMap fun p => s.ceilBytes p (floorRec p) ++ s.ceilBytes p (s.ceilRec p)) = .ok s' →
    let s := s';
    exec (.pwrCeilingQueryExpert wid) z = .next (State.settle (s.ok c))) ∧
  -- PWR_THERMAL_QUERY (R486)
  (∀ (z : State) (wid : BitVec 64) (c : Cmd), z.ready 0x0907 wid [] = some c →
    let s := z.markDispatched wid;
    ∀ s',
    s.writeBuf c (c.u64 0) s.thermalRecord = .ok s' →
    let s := s';
    exec (.pwrThermalQuery wid) z = .next (State.settle (s.ok c))) ∧
  -- PWR_THERMAL_QUERY_EXPERT (R480)
  (∀ (z : State) (wid : BitVec 64) (c : Cmd), z.ready 0x0987 wid [] = some c →
    let s := z.markDispatched wid;
    (c.mgmt) →
    (85 ≤ c.u32 8 && c.u32 8 ≤ 100) →
    ∀ s',
    s.writeBuf c (c.u64 0) s.thermalRecord = .ok s' →
    let s := s';
    exec (.pwrThermalQueryExpert wid) z = .next (State.settle
      (({ s with power := { s.power with throttlePoint := c.u32 8 } } : State).ok c)))

/-- Cap loop, regulator, rail, droop and hold events have their effects: CAP_LOOP_PERIOD, EXCURSION_DURATION_LIMIT,
REGULATOR_TARGET_REACHED, TEAM_CURRENT_SAMPLE, RAIL_CURRENT_READ, AVSBUS_RESPONSE, AVSBUS_NO_RESPONSE, DROOP_SLOW,
HOLD_ENTER, HOLD_RELEASE, SUPPLY_HOLD (R462, R470, R471, R473, R474, R476, R477, R484). -/
def Obligations.SupplyEvents : Prop :=
  -- CAP_LOOP_PERIOD (R473)
  (∀ (z : State),
    let s := z;
    (s.part.pstate.running) →
    let s := (s.reach ((s.t / 100000 + 1) * 100000)).applyCap;
    let p := s.packagePower;
    let began := s.power.excStart;
    let e := s.power.energyFrac + p;
    let s : State := { s with power := { s.power with
      p100 := p, hist := (p :: s.power.hist).take 10000, periodAt := s.t, acc := 0, accN := 0,
      energy := s.power.energy + BitVec.ofNat 64 (e / 10000), energyFrac := e % 10000 } };
    let s := s.excursion p;
    let s := if p ≤ s.power.cap * 1000 then
        match s.power.capCmd with
        | some w => ({ s with power := { s.power with capCmd := none } } : State).complete w stOk
            (BitVec.ofNat 64 (match began with | some u => (s.t - u) / 1000 | none => 0))
        | none => s
      else s;
    let s : State := { s with power := { s.power with target := nextTarget s.power.target (s.power.cap * 1000) p } };
    exec (.capLoopPeriod) z = .next (State.settle (s.retuneAll))) ∧
  -- EXCURSION_DURATION_LIMIT (R474)
  (∀ (s : State),
    ∀ u,
    s.power.excStart = some u →
    ¬(s.power.clamp) →
    exec (.excursionDurationLimit) s = .next (State.settle ((s.reach (u + 10 * msNs)).engageClamp))) ∧
  -- REGULATOR_TARGET_REACHED (R470)
  (∀ (rail : Bool) (k : Nat) (s : State),
    let g := if rail then s.railReg k else s.teamReg k;
    ¬(!(if rail then railAvs k else k < 336)) →
    let s1 := (s.reach g.reachAt).atTarget rail k g;
    (rail || !s1.part.pstate.running) →
    exec (.regulatorTargetReached rail k) s = .next (State.settle (s1))) ∧
  (∀ (rail : Bool) (k : Nat) (s : State),
    let g := if rail then s.railReg k else s.teamReg k;
    ¬(!(if rail then railAvs k else k < 336)) →
    let s1 := (s.reach g.reachAt).atTarget rail k g;
    ¬(rail || !s1.part.pstate.running) →
    exec (.regulatorTargetReached rail k) s = .next (State.settle (s1.followRails))) ∧
  -- TEAM_CURRENT_SAMPLE (R471)
  (∀ (currents : List (Nat × Nat)) (z : State),
    let s := z;
    let s := (currents.filter fun c => c.1 < 336).foldl (fun s c => s.modPwr c.1 fun x => { x with current := c.2 }) s;
    exec (.teamCurrentSample currents) z = .next (State.settle
      ({ s with power := { s.power with acc := s.power.acc + s.teamsPower, accN := s.power.accN + 1 } }))) ∧
  -- RAIL_CURRENT_READ (R462)
  (∀ (rail : Nat) (current : Nat) (s : State),
    (railAvs rail) →
    exec (.railCurrentRead rail current) s = .next (State.settle (s.modRail rail fun x => { x with current := current }))) ∧
  -- AVSBUS_RESPONSE (R462)
  (∀ (rail : Nat) (viol : Nat) (volt : Option Nat) (s : State),
    (viol != 0) →
    exec (.avsbusResponse rail viol volt) s = .next (State.settle (s.avsViolation rail viol))) ∧
  (∀ (rail : Nat) (viol : Nat) (volt : Option Nat) (s : State),
    ¬(viol != 0) →
    let g := s.railReg rail;
    ∀ v,
    volt = some v →
    (railAvs rail && g.reachAt + msNs ≤ s.t && 20 < max v g.target - min v g.target) →
    exec (.avsbusResponse rail viol volt) s = .next (State.settle (s.avsViolation rail 4))) ∧
  (∀ (rail : Nat) (viol : Nat) (volt : Option Nat) (s : State),
    ¬(viol != 0) →
    let g := s.railReg rail;
    ∀ v,
    volt = some v →
    ¬(railAvs rail && g.reachAt + msNs ≤ s.t && 20 < max v g.target - min v g.target) →
    exec (.avsbusResponse rail viol volt) s = .next (State.settle (s.modRail rail fun x => { x with retries := 0 }))) ∧
  (∀ (rail : Nat) (viol : Nat) (volt : Option Nat) (s : State),
    ¬(viol != 0) →
    volt = none →
    exec (.avsbusResponse rail viol volt) s = .next (State.settle (s.modRail rail fun x => { x with retries := 0 }))) ∧
  -- AVSBUS_NO_RESPONSE (R484)
  (∀ (rail : Nat) (z : State),
    let s := z;
    let r : Nat := rail;
    let n : Nat := 3;
    ¬(!railAvs r || (s.rail r).quarantined) →
    let recent := s.t :: (s.rail r).violTimes.filter fun u => s.t < u + secNs;
    let p1 := avsPlace r;
    let i := p1.1;
    let k := p1.2;
    let s := (s.countPwr 7).logEv evAvsViolation 0xFF#8 stAvsProtocol r 0#64 (leBytes 2 i ++ leBytes 2 k ++ leBytes 4 n);
    let tries := (s.rail r).retries;
    let s := s.modRail r fun x => { x with violTimes := recent, retries := if n ≤ 3 && tries < 3 then tries + 1 else 0 };
    let s := if n = 4 then s.avsSend r 0 (s.railReg r).target
      else if n = 5 then s
      else if tries < 3 then
        match (s.rail r).last with
        | some f => s.avsSend r f.1 f.2
        | none => s
      else s.avsFail r;
    (recent.length < 32) →
    exec (.avsbusNoResponse rail) z = .next (State.settle (s))) ∧
  (∀ (rail : Nat) (z : State),
    let s := z;
    let r : Nat := rail;
    let n : Nat := 3;
    ¬(!railAvs r || (s.rail r).quarantined) →
    let recent := s.t :: (s.rail r).violTimes.filter fun u => s.t < u + secNs;
    let p1 := avsPlace r;
    let i := p1.1;
    let k := p1.2;
    let s := (s.countPwr 7).logEv evAvsViolation 0xFF#8 stAvsProtocol r 0#64 (leBytes 2 i ++ leBytes 2 k ++ leBytes 4 n);
    let tries := (s.rail r).retries;
    let s := s.modRail r fun x => { x with violTimes := recent, retries := if n ≤ 3 && tries < 3 then tries + 1 else 0 };
    let s := if n = 4 then s.avsSend r 0 (s.railReg r).target
      else if n = 5 then s
      else if tries < 3 then
        match (s.rail r).last with
        | some f => s.avsSend r f.1 f.2
        | none => s
      else s.avsFail r;
    ¬(recent.length < 32) →
    let s := (s.avsFail r).modRail r fun x => { x with quarantined := true };
    exec (.avsbusNoResponse rail) z = .next (State.settle ((s.logEv evAvsQuarantine 0xFF#8 stAvsProtocol r).checkDegraded))) ∧
  -- DROOP_SLOW (R476)
  (∀ (team : Nat) (s : State),
    (team < 336) →
    exec (.droopSlow team) s = .next (State.settle (s.countPwr 3))) ∧
  -- HOLD_ENTER (R476)
  (∀ (team : Nat) (s : State),
    (team < 336 && (s.teamPwr team).hold.isNone) →
    exec (.holdEnter team) s = .next (State.settle ((s.modPwr team fun x => { x with hold := some s.t }).countPwr 4))) ∧
  -- HOLD_RELEASE (R476)
  (∀ (team : Nat) (z : State),
    let s := z;
    ∀ u,
    (s.teamPwr team).hold = some u →
    let s := s.modPwr team fun x => { x with
      hold := none, holds := (u, s.t - u) :: x.holds.filter fun h => s.t < h.1 + 100 * msNs };
    let r := team / 42;
    ((s.rail r).fault.isSome && (s.holding r).isEmpty) →
    exec (.holdRelease team) z = .next (State.settle (s.modRail r fun x => { x with fault := none }))) ∧
  (∀ (team : Nat) (z : State),
    let s := z;
    ∀ u,
    (s.teamPwr team).hold = some u →
    let s := s.modPwr team fun x => { x with
      hold := none, holds := (u, s.t - u) :: x.holds.filter fun h => s.t < h.1 + 100 * msNs };
    let r := team / 42;
    ¬((s.rail r).fault.isSome && (s.holding r).isEmpty) →
    exec (.holdRelease team) z = .next (State.settle (s))) ∧
  -- SUPPLY_HOLD (R477)
  (∀ (team : Nat) (z : State),
    let s := z;
    ∀ u,
    (s.teamPwr team).hold = some u →
    ¬((s.rail (team / 42)).fault.isSome || (s.rail (team / 42)).out) →
    let past := sumNat (((s.teamPwr team).holds.filter fun h => s.t < h.1 + 100 * msNs).map (·.2));
    let s := s.reach (u + min 100000 (msNs - past));
    s.physState team = .mapped →
    ∀ l,
    s.logicalOf team = some l →
    ∀ w rank x1,
    s.activeOn l = some (w, x1, rank) →
    exec (.supplyHold team) z = .next (State.settle (s.raise w rank 0 0x13 0))) ∧
  (∀ (team : Nat) (z : State),
    let s := z;
    ∀ u,
    (s.teamPwr team).hold = some u →
    ¬((s.rail (team / 42)).fault.isSome || (s.rail (team / 42)).out) →
    let past := sumNat (((s.teamPwr team).holds.filter fun h => s.t < h.1 + 100 * msNs).map (·.2));
    let s := s.reach (u + min 100000 (msNs - past));
    s.physState team = .mapped →
    ∀ l,
    s.logicalOf team = some l →
    s.activeOn l = none →
    exec (.supplyHold team) z = .next (State.settle (s.failTeam l []))) ∧
  (∀ (team : Nat) (z : State),
    let s := z;
    ∀ u,
    (s.teamPwr team).hold = some u →
    ¬((s.rail (team / 42)).fault.isSome || (s.rail (team / 42)).out) →
    let past := sumNat (((s.teamPwr team).holds.filter fun h => s.t < h.1 + 100 * msNs).map (·.2));
    let s := s.reach (u + min 100000 (msNs - past));
    s.physState team = .spare →
    exec (.supplyHold team) z = .next (State.settle
      (s.modPhys team fun x => { x with state := some .failed, fieldDue := some s.t })))

/-- Rail faults, thermal samples, throttling and ageing events have their effects: RAIL_FAULT, RAIL_FAULT_TIMEOUT,
RAIL_RESTORED, THERMAL_SENSOR_SAMPLE, THROTTLE_PERIOD, THERMAL_CLAMP, THERMAL_TRIP, REPLICA_READ, AGEING_CHECK
(R467, R478, R479, R480, R481). -/
def Obligations.RailAndThermalEvents : Prop :=
  -- RAIL_FAULT (R478)
  (∀ (rail : Nat) (reported : Bool) (z : State),
    let s := z;
    let starts := sortOn id ((s.holding rail).filterMap fun p => (s.teamPwr p).hold);
    let declared := reported || (rail < 8 && 4 ≤ starts.length);
    ¬(!railAvs rail || !declared || (s.rail rail).fault.isSome || (s.rail rail).out) →
    let s := if reported then s else s.reach ((starts[3]?).getD 0 + 20000);
    let s := (s.countPwr 5).logEv evRailFault 0xFF#8 0#16 rail;
    (8 ≤ rail) →
    exec (.railFault rail reported) z = .next (State.settle (s.beginWarm))) ∧
  (∀ (rail : Nat) (reported : Bool) (z : State),
    let s := z;
    let starts := sortOn id ((s.holding rail).filterMap fun p => (s.teamPwr p).hold);
    let declared := reported || (rail < 8 && 4 ≤ starts.length);
    ¬(!railAvs rail || !declared || (s.rail rail).fault.isSome || (s.rail rail).out) →
    let s := if reported then s else s.reach ((starts[3]?).getD 0 + 20000);
    let s := (s.countPwr 5).logEv evRailFault 0xFF#8 0#16 rail;
    ¬(8 ≤ rail) →
    let s := s.modRail rail fun x => { x with fault := some s.t };
    ((s.rail rail).quarantined) →
    exec (.railFault rail reported) z = .next (State.settle (s))) ∧
  (∀ (rail : Nat) (reported : Bool) (z : State),
    let s := z;
    let starts := sortOn id ((s.holding rail).filterMap fun p => (s.teamPwr p).hold);
    let declared := reported || (rail < 8 && 4 ≤ starts.length);
    ¬(!railAvs rail || !declared || (s.rail rail).fault.isSome || (s.rail rail).out) →
    let s := if reported then s else s.reach ((starts[3]?).getD 0 + 20000);
    let s := (s.countPwr 5).logEv evRailFault 0xFF#8 0#16 rail;
    ¬(8 ≤ rail) →
    let s := s.modRail rail fun x => { x with fault := some s.t };
    ¬((s.rail rail).quarantined) →
    exec (.railFault rail reported) z = .next (State.settle ((s.avsSend rail 2 0).avsSend rail 0 (s.railReg rail).target))) ∧
  -- RAIL_FAULT_TIMEOUT (R478)
  (∀ (rail : Nat) (z : State),
    let s := z;
    ∀ u,
    (s.rail rail).fault = some u →
    ¬((s.holding rail).isEmpty) →
    let s := s.reach (u + 10 * msNs);
    let hit := s.tasks.filter fun (e : BitVec 64 × Task) => !e.2.state.final && e.2.teams.any fun l => s.physOf l / 42 = rail;
    let s := hit.foldl (fun s (e : BitVec 64 × Task) => s.finishTask e.1 .failed stRailFault 0#32) s;
    exec (.railFaultTimeout rail) z = .next (State.settle
      ((s.modRail rail fun x => { x with fault := none, out := true }).checkDegraded))) ∧
  -- RAIL_RESTORED (R478)
  (∀ (rail : Nat) (s : State),
    ((s.rail rail).out) →
    exec (.railRestored rail) s = .next (State.settle ((s.modRail rail fun x => { x with out := false }).checkDegraded))) ∧
  -- THERMAL_SENSOR_SAMPLE (R479)
  (∀ (kind : Nat) (k : Nat) (temp : Int) (z : State),
    let s := z;
    (kind = 0 && k < 336) →
    let s := (s.modPwr k fun x => { x with temp := temp }).watchTemps;
    (s.power.throttlePoint * 16 ≤ temp && (s.teamReg k).fixed) →
    exec (.thermalSensorSample kind k temp) z = .next (State.settle
      ((s.modPwr k fun x => { x with reg := x.reg.map fun g => { g with fixed := false } }).logEv evThermalThrottle 0xFF#8
         0#16 k 0#64 (leBytes 4 1)))) ∧
  (∀ (kind : Nat) (k : Nat) (temp : Int) (z : State),
    let s := z;
    (kind = 0 && k < 336) →
    let s := (s.modPwr k fun x => { x with temp := temp }).watchTemps;
    ¬(s.power.throttlePoint * 16 ≤ temp && (s.teamReg k).fixed) →
    exec (.thermalSensorSample kind k temp) z = .next (State.settle (s))) ∧
  (∀ (kind : Nat) (k : Nat) (temp : Int) (s : State),
    ¬(kind = 0 && k < 336) →
    (kind = 1 && k < 16) →
    exec (.thermalSensorSample kind k temp) s = .next (State.settle
      (({ s with power := { s.power with dieTemps := tputD 0 s.power.dieTemps k temp } } : State).watchTemps))) ∧
  (∀ (kind : Nat) (k : Nat) (temp : Int) (s : State),
    ¬(kind = 0 && k < 336) →
    ¬(kind = 1 && k < 16) →
    (kind = 2 && k < 8) →
    exec (.thermalSensorSample kind k temp) s = .next (State.settle
      (({ s with power := { s.power with dieTemps := tputD 0 s.power.dieTemps (16 + k) temp } } : State).watchTemps))) ∧
  (∀ (kind : Nat) (k : Nat) (temp : Int) (s : State),
    ¬(kind = 0 && k < 336) →
    ¬(kind = 1 && k < 16) →
    ¬(kind = 2 && k < 8) →
    (kind = 3 && k < 12) →
    exec (.thermalSensorSample kind k temp) s = .next (State.settle
      ({ s with hbm := { s.hbm with
           temp := tputD 0 s.hbm.temp k temp
           throttled := if 95 * 16 < temp then insNat k s.hbm.throttled
                        else if temp ≤ 92 * 16 then s.hbm.throttled.filter (fun x => x != k) else s.hbm.throttled } }))) ∧
  (∀ (kind : Nat) (k : Nat) (temp : Int) (s : State),
    ¬(kind = 0 && k < 336) →
    ¬(kind = 1 && k < 16) →
    ¬(kind = 2 && k < 8) →
    ¬(kind = 3 && k < 12) →
    (kind = 4 && k < 4) →
    exec (.thermalSensorSample kind k temp) s = .next (State.settle
      (({ s with power := { s.power with nvwTemps := tputD 0 s.power.nvwTemps k temp } } : State).modNvw k fun x =>
         { x with
           deferred := if 90 * 16 < temp then true else if temp ≤ 85 * 16 then false else x.deferred
           retention := x.retention + temp.toNat * (s.t / 1000 - x.sampledAt)
           sampledAt := s.t / 1000 }))) ∧
  (∀ (kind : Nat) (k : Nat) (temp : Int) (s : State),
    ¬(kind = 0 && k < 336) →
    ¬(kind = 1 && k < 16) →
    ¬(kind = 2 && k < 8) →
    ¬(kind = 3 && k < 12) →
    ¬(kind = 4 && k < 4) →
    (kind = 5 && railAvs k) →
    exec (.thermalSensorSample kind k temp) s = .next (State.settle (s.modRail k fun x => { x with temp := temp }))) ∧
  -- THROTTLE_PERIOD (R480)
  (∀ (team : Nat) (z : State),
    let s := z;
    ¬(336 ≤ team) →
    let x := s.teamPwr team;
    ((s.power.throttlePoint : Int) * 16 ≤ x.temp) →
    let s := if x.throttle = 100 then s.logEv evThermalThrottle 0xFF#8 0#16 team else s.reach (x.lastStep + 100000);
    exec (.throttlePeriod team) z = .next (State.settle
      ((s.modPwr team fun y => { y with throttle := y.throttle - 5, lastStep := s.t }).countPwr 2))) ∧
  (∀ (team : Nat) (z : State),
    let s := z;
    ¬(336 ≤ team) →
    let x := s.teamPwr team;
    ¬((s.power.throttlePoint : Int) * 16 ≤ x.temp) →
    (x.temp ≤ ((s.power.throttlePoint : Int) - 3) * 16 && x.throttle < 100) →
    let s := s.reach (x.lastStep + msNs);
    exec (.throttlePeriod team) z = .next (State.settle
      (s.modPwr team fun y => { y with throttle := min 100 (y.throttle + 5), lastStep := s.t }))) ∧
  -- THERMAL_CLAMP (R479)
  (∀ (z : State),
    let s := z;
    ∀ u,
    s.power.hotSince = some u →
    ¬(s.power.thermClamp) →
    let s := s.reach (u + 100000);
    exec (.thermalClamp) z = .next (State.settle
      (({ s with power := { s.power with thermClamp := true } } : State).countPwr 1))) ∧
  -- THERMAL_TRIP (R481)
  (∀ (z : State),
    let s := z;
    let hot := s.hbm.temp.any (fun (e : Nat × Int) => 105 * 16 ≤ e.2) || s.power.nvwTemps.any fun (e : Nat × Int) => 105 * 16 ≤ e.2;
    ¬(s.power.trip || (s.power.tripSince.isNone && !hot)) →
    let s := match s.power.tripSince with | some u => if hot then s else s.reach (u + 20000) | none => s;
    let regs := (List.range 336).map fun p => (p, { TeamPwr.reset with
      reg := some { s.teamReg p with target := 600, out := (s.teamReg p).at_ s.t, since := s.t, cmd := none, fixed := false } });
    let s := s.loseAll;
    exec (.thermalTrip) z = .next (State.settle
      ({ s with
         pins := { s.pins with thermtripN := false, txOn := false }
         part := { s.part with mastersStopped := true }
         kryto := { s.kryto with tripped := true }
         power := { s.power with trip := true, teams := regs } }))) ∧
  -- REPLICA_READ (R467)
  (∀ (team : Nat) (slow : Nat) (s : State),
    (team < 336) →
    exec (.replicaRead team slow) s = .next (State.settle (s.modPwr team fun x => { x with replica := slow }))) ∧
  -- AGEING_CHECK (R467)
  (∀ (team : Nat) (s : State),
    ¬(336 ≤ team) →
    exec (.ageingCheck team) s = .next (State.settle ((s.reach ((s.teamPwr team).ageAt + 86400 * secNs)).ageTeam team)))

/-- The self test and margin commands complete with their effects: SELF_TEST_RUN, SELF_TEST_RUN_EXPERT,
SELF_TEST_STOP, SELF_TEST_STOP_EXPERT, SELF_TEST_QUERY, SELF_TEST_QUERY_EXPERT, SELF_CHANNEL_RESTORE,
SELF_CHANNEL_RESTORE_EXPERT, SELF_MARGIN_HBM, SELF_MARGIN_HBM_EXPERT, SELF_MARGIN_LANE, SELF_MARGIN_LANE_EXPERT,
SELF_MARGIN_TEAM, SELF_MARGIN_TEAM_EXPERT, SELF_PART_ID_SET, SELF_PART_ID_SET_EXPERT (R489, R490, R498, R499, R500,
R505). -/
def Obligations.SelfTestCommands : Prop :=
  -- SELF_TEST_RUN (R489)
  (∀ (z : State) (wid : BitVec 64) (c : Cmd), z.ready 0x0A01 wid [] = some c →
    let s := z.markDispatched wid;
    let d : Nat := c.u32 0;
    let first : Nat := c.u32 4;
    let count : Nat := 1;
    let repair : Bool := true;
    let seed : Nat := 0;
    let buf : Nat := c.u64 8;
    let basic : Bool := true;
    (c.mgmt) →
    (d < 6 && 1 ≤ count && first + count ≤ domainSize d) →
    ¬(d = 2 && !s.part.pstate.full) →
    let is := (List.range count).map fun i => first + i;
    (is.all fun i => s.testable d i) →
    ∀ x1,
    s.resolve c buf (32 * count) true = .ok x1 →
    exec (.selfTestRun wid) z = .next (State.settle
      ({ s with farrier := { s.farrier with
      runs := s.farrier.runs ++ [newRun c.w d first is repair (BitVec.ofNat 64 seed) (BitVec.ofNat 64 buf) basic] } }))) ∧
  -- SELF_TEST_RUN_EXPERT (R490)
  (∀ (z : State) (wid : BitVec 64) (c : Cmd), z.ready 0x0A81 wid [] = some c →
    let s := z.markDispatched wid;
    let d : Nat := c.u32 0;
    let first : Nat := c.u32 4;
    let count : Nat := c.u32 8;
    let repair : Bool := c.flag 12;
    let seed : Nat := c.u64 16;
    let buf : Nat := c.u64 24;
    let basic : Bool := false;
    (c.mgmt) →
    (d < 6 && 1 ≤ count && first + count ≤ domainSize d) →
    ¬(d = 2 && !s.part.pstate.full) →
    let is := (List.range count).map fun i => first + i;
    (is.all fun i => s.testable d i) →
    ∀ x1,
    s.resolve c buf (32 * count) true = .ok x1 →
    exec (.selfTestRunExpert wid) z = .next (State.settle
      ({ s with farrier := { s.farrier with
      runs := s.farrier.runs ++ [newRun c.w d first is repair (BitVec.ofNat 64 seed) (BitVec.ofNat 64 buf) basic] } }))) ∧
  -- SELF_TEST_STOP (R505)
  (∀ (z : State) (wid : BitVec 64) (c : Cmd), z.ready 0x0A02 wid [] = some c →
    let s := z.markDispatched wid;
    (c.mgmt) →
    let w : BitVec 64 := BitVec.ofNat 64 (c.u64 0);
    ∀ r',
    (s.farrier.runs.find? fun (r : TestRun) => r.wid = w && r.restore.isNone && w != 0#64) = some r' →
    let r := r';
    exec (.selfTestStop wid) z = .next (State.settle ((s.stopRun r stCancelled).ok c))) ∧
  -- SELF_TEST_STOP_EXPERT (R505)
  (∀ (z : State) (wid : BitVec 64) (c : Cmd), z.ready 0x0A82 wid [] = some c →
    let s := z.markDispatched wid;
    let s := s.reason c (c.u32 8);
    (c.mgmt) →
    let w : BitVec 64 := BitVec.ofNat 64 (c.u64 0);
    ∀ r',
    (s.farrier.runs.find? fun (r : TestRun) => r.wid = w && r.restore.isNone && w != 0#64) = some r' →
    let r := r';
    exec (.selfTestStopExpert wid) z = .next (State.settle ((s.stopRun r stCancelled).ok c))) ∧
  -- SELF_TEST_QUERY (R505)
  (∀ (z : State) (wid : BitVec 64) (c : Cmd), z.ready 0x0A03 wid [] = some c →
    let s := z.markDispatched wid;
    (c.mgmt) →
    ∀ s1,
    s.writeBuf c (c.u64 0) (allIndices.flatMap fun e => s.testBytes e.1 e.2) = .ok s1 →
    exec (.selfTestQuery wid) z = .next (State.settle (s1.ok c))) ∧
  -- SELF_TEST_QUERY_EXPERT (R505)
  (∀ (z : State) (wid : BitVec 64) (c : Cmd), z.ready 0x0A83 wid [] = some c →
    let s := z.markDispatched wid;
    (c.mgmt) →
    let d := c.u32 8;
    (d < 6) →
    let reps := s.kryto.repairs.filter fun (e : Nat × Nat × Nat) => e.1 = d;
    ∀ s1,
    (s.writeBuf c (c.u64 0) ((List.range (domainSize d)).flatMap (fun i => s.testBytes d i) ++
      reps.flatMap fun e => leBytes 4 e.2.1 ++ leBytes 4 e.2.2) : Except Err _) = .ok s1 →
    exec (.selfTestQueryExpert wid) z = .next (State.settle (s1.ok c))) ∧
  -- SELF_CHANNEL_RESTORE (R500)
  (∀ (z : State) (wid : BitVec 64) (c : Cmd), z.ready 0x0A04 wid [] = some c →
    let s := z.markDispatched wid;
    let soft : Bool := false;
    (c.mgmt) →
    let ch := c.u32 0;
    (ch < 384) →
    (s.part.pstate.full) →
    ((s.hbm.chan ch).mapped && s.testable 2 ch) →
    exec (.selfChannelRestore wid) z = .next (State.settle
      ({ s with farrier := { s.farrier with
      runs := s.farrier.runs ++ [{ newRun c.w 2 ch [ch] true 0#64 0#64 true with restore := some ch, soft := soft }] } }))) ∧
  -- SELF_CHANNEL_RESTORE_EXPERT (R500)
  (∀ (z : State) (wid : BitVec 64) (c : Cmd), z.ready 0x0A84 wid [] = some c →
    let s := z.markDispatched wid;
    let soft : Bool := c.flag 4;
    (c.mgmt) →
    let ch := c.u32 0;
    (ch < 384) →
    (s.part.pstate.full) →
    ((s.hbm.chan ch).mapped && s.testable 2 ch) →
    exec (.selfChannelRestoreExpert wid) z = .next (State.settle
      ({ s with farrier := { s.farrier with
      runs := s.farrier.runs ++ [{ newRun c.w 2 ch [ch] true 0#64 0#64 true with restore := some ch, soft := soft }] } }))) ∧
  -- SELF_MARGIN_HBM (R499)
  (∀ (z : State) (wid : BitVec 64) (c : Cmd), z.ready 0x0A05 wid [] = some c →
    let s := z.markDispatched wid;
    let dirs : Nat := 3;
    (c.mgmt) →
    (c.u32 0 < 384 && dirs != 0) →
    (s.part.pstate.full) →
    (s.testable 2 (c.u32 0)) →
    let kind : Nat := 0;
    let index : Nat := c.u32 0;
    let buf : Nat := c.u64 4;
    let lanes : Nat := dirs;
    let volt : Nat := 0;
    let n : Nat := 64;
    ∀ x1,
    s.resolve c buf n true = .ok x1 →
    exec (.selfMarginHbm wid) z = .next (State.settle
      ({ s with farrier := { s.farrier with margins := s.farrier.margins ++
      [{ wid := c.w, kind := kind, index := index, buf := BitVec.ofNat 64 buf, lanes := BitVec.ofNat 16 lanes, volt := volt }] } }))) ∧
  -- SELF_MARGIN_HBM_EXPERT (R499)
  (∀ (z : State) (wid : BitVec 64) (c : Cmd), z.ready 0x0A85 wid [] = some c →
    let s := z.markDispatched wid;
    let dirs : Nat := c.u32 12 % 4;
    (c.mgmt) →
    (c.u32 0 < 384 && dirs != 0) →
    (s.part.pstate.full) →
    (s.testable 2 (c.u32 0)) →
    let kind : Nat := 0;
    let index : Nat := c.u32 0;
    let buf : Nat := c.u64 4;
    let lanes : Nat := dirs;
    let volt : Nat := 0;
    let n : Nat := 64;
    ∀ x1,
    s.resolve c buf n true = .ok x1 →
    exec (.selfMarginHbmExpert wid) z = .next (State.settle
      ({ s with farrier := { s.farrier with margins := s.farrier.margins ++
      [{ wid := c.w, kind := kind, index := index, buf := BitVec.ofNat 64 buf, lanes := BitVec.ofNat 16 lanes, volt := volt }] } }))) ∧
  -- SELF_MARGIN_LANE (R498)
  (∀ (z : State) (wid : BitVec 64) (c : Cmd), z.ready 0x0A06 wid [] = some c →
    let s := z.markDispatched wid;
    let mask : Option Nat := none;
    let ratio : Nat := 6;
    (c.mgmt) →
    let p1 := (c.u32 0 / 256, c.u32 0 % 256);
    let iface := p1.1;
    let port := p1.2;
    let n := s.lanesOf iface port;
    let m := mask.getD (2 ^ n - 1);
    (n != 0 && m != 0 && m < 2 ^ n && 4 ≤ ratio && ratio ≤ 12) →
    (iface != 1 || !(s.farrier.hostMargin.any fun (e : Nat × Nat) => (maskLanes m).contains e.2)) →
    let kind : Nat := 1;
    let index : Nat := c.u32 0;
    let buf : Nat := c.u64 4;
    let lanes : Nat := m;
    let volt : Nat := 0;
    let n : Nat := 16 * (maskLanes m).length;
    ∀ x2,
    s.resolve c buf n true = .ok x2 →
    exec (.selfMarginLane wid) z = .next (State.settle
      ({ s with farrier := { s.farrier with margins := s.farrier.margins ++
      [{ wid := c.w, kind := kind, index := index, buf := BitVec.ofNat 64 buf, lanes := BitVec.ofNat 16 lanes, volt := volt }] } }))) ∧
  -- SELF_MARGIN_LANE_EXPERT (R498)
  (∀ (z : State) (wid : BitVec 64) (c : Cmd), z.ready 0x0A86 wid [] = some c →
    let s := z.markDispatched wid;
    let mask : Option Nat := some (c.u16 12);
    let ratio : Nat := c.u16 14;
    (c.mgmt) →
    let p1 := (c.u32 0 / 256, c.u32 0 % 256);
    let iface := p1.1;
    let port := p1.2;
    let n := s.lanesOf iface port;
    let m := mask.getD (2 ^ n - 1);
    (n != 0 && m != 0 && m < 2 ^ n && 4 ≤ ratio && ratio ≤ 12) →
    (iface != 1 || !(s.farrier.hostMargin.any fun (e : Nat × Nat) => (maskLanes m).contains e.2)) →
    let kind : Nat := 1;
    let index : Nat := c.u32 0;
    let buf : Nat := c.u64 4;
    let lanes : Nat := m;
    let volt : Nat := 0;
    let n : Nat := 16 * (maskLanes m).length;
    ∀ x2,
    s.resolve c buf n true = .ok x2 →
    exec (.selfMarginLaneExpert wid) z = .next (State.settle
      ({ s with farrier := { s.farrier with margins := s.farrier.margins ++
      [{ wid := c.w, kind := kind, index := index, buf := BitVec.ofNat 64 buf, lanes := BitVec.ofNat 16 lanes, volt := volt }] } }))) ∧
  -- SELF_MARGIN_TEAM (R499)
  (∀ (z : State) (wid : BitVec 64) (c : Cmd), z.ready 0x0A07 wid [] = some c →
    let s := z.markDispatched wid;
    let volt : Nat := 0;
    (c.mgmt) →
    (c.u32 0 < 336 && (volt = 0 || (600 ≤ volt && volt ≤ 850 && volt % 5 = 0))) →
    (s.testable 0 (c.u32 0)) →
    let kind : Nat := 2;
    let index : Nat := c.u32 0;
    let buf : Nat := c.u64 4;
    let lanes : Nat := 0;
    let n : Nat := 16;
    ∀ x1,
    s.resolve c buf n true = .ok x1 →
    exec (.selfMarginTeam wid) z = .next (State.settle
      ({ s with farrier := { s.farrier with margins := s.farrier.margins ++
      [{ wid := c.w, kind := kind, index := index, buf := BitVec.ofNat 64 buf, lanes := BitVec.ofNat 16 lanes, volt := volt }] } }))) ∧
  -- SELF_MARGIN_TEAM_EXPERT (R499)
  (∀ (z : State) (wid : BitVec 64) (c : Cmd), z.ready 0x0A87 wid [] = some c →
    let s := z.markDispatched wid;
    (c.u32 12 != 0) →
    let volt : Nat := c.u32 12;
    (c.mgmt) →
    (c.u32 0 < 336 && (volt = 0 || (600 ≤ volt && volt ≤ 850 && volt % 5 = 0))) →
    (s.testable 0 (c.u32 0)) →
    let kind : Nat := 2;
    let index : Nat := c.u32 0;
    let buf : Nat := c.u64 4;
    let lanes : Nat := 0;
    let n : Nat := 16;
    ∀ x1,
    s.resolve c buf n true = .ok x1 →
    exec (.selfMarginTeamExpert wid) z = .next (State.settle
      ({ s with farrier := { s.farrier with margins := s.farrier.margins ++
      [{ wid := c.w, kind := kind, index := index, buf := BitVec.ofNat 64 buf, lanes := BitVec.ofNat 16 lanes, volt := volt }] } }))) ∧
  -- SELF_PART_ID_SET (R505)
  (∀ (z : State) (wid : BitVec 64) (c : Cmd), z.ready 0x0A08 wid [] = some c →
    let s := z.markDispatched wid;
    let change : Bool := false;
    (c.mgmt) →
    let v := c.u16 0;
    (v != 0xFFFF && (change || s.kryto.partIdNv.isNone)) →
    exec (.selfPartIdSet wid) z = .next (State.settle
      (({ s with kryto := { s.kryto with partIdNv := some (BitVec.ofNat 16 v) } } : State).ok c))) ∧
  -- SELF_PART_ID_SET_EXPERT (R505)
  (∀ (z : State) (wid : BitVec 64) (c : Cmd), z.ready 0x0A88 wid [] = some c →
    let s := z.markDispatched wid;
    let change : Bool := c.flag 4;
    (c.mgmt) →
    let v := c.u16 0;
    (v != 0xFFFF && (change || s.kryto.partIdNv.isNone)) →
    exec (.selfPartIdSetExpert wid) z = .next (State.settle
      (({ s with kryto := { s.kryto with partIdNv := some (BitVec.ofNat 16 v) } } : State).ok c)))

/-- Test results, field tests and margin ends have their effects: TEST_INDEX_COMPLETE, FIELD_TEST_START,
LANE_MARGINING_AT_RECEIVER, MARGINING_COMPLETE (R492, R495, R497, R498). -/
def Obligations.TestResultEvents : Prop :=
  -- TEST_INDEX_COMPLETE (R492)
  (∀ (w : BitVec 64) (index : Nat) (sig : BitVec 64) (errors : Bool) (repairs : Nat) (ceiling : Nat) (dur : Nat) (z : State),
    let s := z;
    ∀ r',
    (s.farrier.runs.find? fun (r : TestRun) => r.wid = w && r.left.contains index) = some r' →
    let r := r';
    let d := r.domain;
    ¬(d = 0 && !s.teamsTested.contains index) →
    let reps := if r.repair && d ≤ 2 then repairs else 0;
    let res := testResult d r.seed sig errors reps;
    let rec0 : TestRec := { result := BitVec.ofNat 8 res, signature := sig, expected := if r.seed = 0#64 then Config.signature d else 0#64,
                            repairs := BitVec.ofNat 16 reps, ceiling := if d = 0 then BitVec.ofNat 16 ceiling else 0#16,
                            duration := BitVec.ofNat 32 dur };
    let r' := { r with left := r.left.filter fun x => x != index, done := r.done ++ [index]
                       failed := if res = 1 then r.failed + 1 else r.failed };
    let s := if d = 0 then s.wipeScratch index else s;
    let s := (s.putRec d index rec0).modRun w index fun _ => r';
    let s := if reps = 0 || r.soft then s else { s with kryto := { s.kryto with repairs := s.kryto.repairs ++ [(d, index, reps)] } };
    let s := if res = 1 then s.logEv evSelftestFail 0xFF#8 stSelftestFail (testKey d index) w (leBytes 4 repairs) else s;
    let old := colAt (s.ceilRec index).ceil70 3;
    let slow := (old - ceiling) * 10000 / max 1 old;
    let s := if d = 0 && ceiling != 0 && 50 < slow then s.lowerCeil index slow (s.ceilRec index) else s;
    let s := if d = 0 && res != 4 then s.teamFate index (w = 0#64) (res != 1) else s;
    (!r'.left.isEmpty) →
    exec (.testIndexComplete w index sig errors repairs ceiling dur) z = .next (State.settle (s))) ∧
  (∀ (w : BitVec 64) (index : Nat) (sig : BitVec 64) (errors : Bool) (repairs : Nat) (ceiling : Nat) (dur : Nat) (z : State),
    let s := z;
    ∀ r',
    (s.farrier.runs.find? fun (r : TestRun) => r.wid = w && r.left.contains index) = some r' →
    let r := r';
    let d := r.domain;
    ¬(d = 0 && !s.teamsTested.contains index) →
    let reps := if r.repair && d ≤ 2 then repairs else 0;
    let res := testResult d r.seed sig errors reps;
    let rec0 : TestRec := { result := BitVec.ofNat 8 res, signature := sig, expected := if r.seed = 0#64 then Config.signature d else 0#64,
                            repairs := BitVec.ofNat 16 reps, ceiling := if d = 0 then BitVec.ofNat 16 ceiling else 0#16,
                            duration := BitVec.ofNat 32 dur };
    let r' := { r with left := r.left.filter fun x => x != index, done := r.done ++ [index]
                       failed := if res = 1 then r.failed + 1 else r.failed };
    let s := if d = 0 then s.wipeScratch index else s;
    let s := (s.putRec d index rec0).modRun w index fun _ => r';
    let s := if reps = 0 || r.soft then s else { s with kryto := { s.kryto with repairs := s.kryto.repairs ++ [(d, index, reps)] } };
    let s := if res = 1 then s.logEv evSelftestFail 0xFF#8 stSelftestFail (testKey d index) w (leBytes 4 repairs) else s;
    let old := colAt (s.ceilRec index).ceil70 3;
    let slow := (old - ceiling) * 10000 / max 1 old;
    let s := if d = 0 && ceiling != 0 && 50 < slow then s.lowerCeil index slow (s.ceilRec index) else s;
    let s := if d = 0 && res != 4 then s.teamFate index (w = 0#64) (res != 1) else s;
    (r'.left.isEmpty) →
    r.restore = none →
    exec (.testIndexComplete w index sig errors repairs ceiling dur) z = .next (State.settle
      (s.endRun r' (if r'.failed = 0 || r.basic then stOk else stSelftestFail)))) ∧
  (∀ (w : BitVec 64) (index : Nat) (sig : BitVec 64) (errors : Bool) (repairs : Nat) (ceiling : Nat) (dur : Nat) (z : State),
    let s := z;
    ∀ r',
    (s.farrier.runs.find? fun (r : TestRun) => r.wid = w && r.left.contains index) = some r' →
    let r := r';
    let d := r.domain;
    ¬(d = 0 && !s.teamsTested.contains index) →
    let reps := if r.repair && d ≤ 2 then repairs else 0;
    let res := testResult d r.seed sig errors reps;
    let rec0 : TestRec := { result := BitVec.ofNat 8 res, signature := sig, expected := if r.seed = 0#64 then Config.signature d else 0#64,
                            repairs := BitVec.ofNat 16 reps, ceiling := if d = 0 then BitVec.ofNat 16 ceiling else 0#16,
                            duration := BitVec.ofNat 32 dur };
    let r' := { r with left := r.left.filter fun x => x != index, done := r.done ++ [index]
                       failed := if res = 1 then r.failed + 1 else r.failed };
    let s := if d = 0 then s.wipeScratch index else s;
    let s := (s.putRec d index rec0).modRun w index fun _ => r';
    let s := if reps = 0 || r.soft then s else { s with kryto := { s.kryto with repairs := s.kryto.repairs ++ [(d, index, reps)] } };
    let s := if res = 1 then s.logEv evSelftestFail 0xFF#8 stSelftestFail (testKey d index) w (leBytes 4 repairs) else s;
    let old := colAt (s.ceilRec index).ceil70 3;
    let slow := (old - ceiling) * 10000 / max 1 old;
    let s := if d = 0 && ceiling != 0 && 50 < slow then s.lowerCeil index slow (s.ceilRec index) else s;
    let s := if d = 0 && res != 4 then s.teamFate index (w = 0#64) (res != 1) else s;
    (r'.left.isEmpty) →
    ∀ ch,
    r.restore = some ch →
    (res = 1) →
    exec (.testIndexComplete w index sig errors repairs ceiling dur) z = .next (State.settle (s.endRun r' stSelftestFail))) ∧
  (∀ (w : BitVec 64) (index : Nat) (sig : BitVec 64) (errors : Bool) (repairs : Nat) (ceiling : Nat) (dur : Nat) (z : State),
    let s := z;
    ∀ r',
    (s.farrier.runs.find? fun (r : TestRun) => r.wid = w && r.left.contains index) = some r' →
    let r := r';
    let d := r.domain;
    ¬(d = 0 && !s.teamsTested.contains index) →
    let reps := if r.repair && d ≤ 2 then repairs else 0;
    let res := testResult d r.seed sig errors reps;
    let rec0 : TestRec := { result := BitVec.ofNat 8 res, signature := sig, expected := if r.seed = 0#64 then Config.signature d else 0#64,
                            repairs := BitVec.ofNat 16 reps, ceiling := if d = 0 then BitVec.ofNat 16 ceiling else 0#16,
                            duration := BitVec.ofNat 32 dur };
    let r' := { r with left := r.left.filter fun x => x != index, done := r.done ++ [index]
                       failed := if res = 1 then r.failed + 1 else r.failed };
    let s := if d = 0 then s.wipeScratch index else s;
    let s := (s.putRec d index rec0).modRun w index fun _ => r';
    let s := if reps = 0 || r.soft then s else { s with kryto := { s.kryto with repairs := s.kryto.repairs ++ [(d, index, reps)] } };
    let s := if res = 1 then s.logEv evSelftestFail 0xFF#8 stSelftestFail (testKey d index) w (leBytes 4 repairs) else s;
    let old := colAt (s.ceilRec index).ceil70 3;
    let slow := (old - ceiling) * 10000 / max 1 old;
    let s := if d = 0 && ceiling != 0 && 50 < slow then s.lowerCeil index slow (s.ceilRec index) else s;
    let s := if d = 0 && res != 4 then s.teamFate index (w = 0#64) (res != 1) else s;
    (r'.left.isEmpty) →
    ∀ ch,
    r.restore = some ch →
    ¬(res = 1) →
    exec (.testIndexComplete w index sig errors repairs ceiling dur) z = .next (State.settle
      ((s.restoreChannel ch).endRun r' stOk))) ∧
  -- FIELD_TEST_START (R495)
  (∀ (phys : Nat) (s : State),
    ¬(336 ≤ phys || !s.part.pstate.running || s.underTest 0 phys) →
    let x := s.physTeam phys;
    s.physState phys = .failed →
    (x.fieldDue.isSome) →
    exec (.fieldTestStart phys) s = .next (State.settle (s.beginField phys))) ∧
  (∀ (phys : Nat) (s : State),
    ¬(336 ≤ phys || !s.part.pstate.running || s.underTest 0 phys) →
    let x := s.physTeam phys;
    s.physState phys = .spare →
    exec (.fieldTestStart phys) s = .next (State.settle ((s.reach (x.lastTest + 86400 * secNs)).beginField phys))) ∧
  -- LANE_MARGINING_AT_RECEIVER (R498)
  (∀ (lane : Nat) (on : Bool) (z : State),
    let s := z;
    ¬(16 ≤ lane) →
    let rest := s.farrier.hostMargin.filter fun (e : Nat × Nat) => e.2 != lane;
    let s : State := { s with farrier := { s.farrier with hostMargin := if on then rest ++ [(0, lane)] else rest } };
    (!on) →
    exec (.laneMarginingAtReceiver lane on) z = .next (State.settle (s))) ∧
  (∀ (lane : Nat) (on : Bool) (z : State),
    let s := z;
    ¬(16 ≤ lane) →
    let rest := s.farrier.hostMargin.filter fun (e : Nat × Nat) => e.2 != lane;
    let s : State := { s with farrier := { s.farrier with hostMargin := if on then rest ++ [(0, lane)] else rest } };
    (on) →
    let hit := (s.farrier.margins.filter fun (m : Margin) => m.kind = 1 && m.index / 256 = 1 && m.lanes.getLsbD lane).map (·.wid);
    exec (.laneMarginingAtReceiver lane on) z = .next (State.settle
      (({ s with farrier := { s.farrier with
           margins := s.farrier.margins.filter fun (m : Margin) => !hit.contains m.wid } } : State).completeAll hit stInService))) ∧
  -- MARGINING_COMPLETE (R497)
  (∀ (w : BitVec 64) (vals : List Nat) (z : State),
    let s := z;
    ∀ m',
    (s.farrier.margins.find? fun (m : Margin) => m.wid = w) = some m' →
    let m := m';
    let s := s.lateWrite (s.fnOf w) m.buf.toNat (s.marginBytes m vals);
    let s : State := { s with farrier := { s.farrier with margins := s.farrier.margins.filter fun (x : Margin) => x.wid != w } };
    let s := if m.kind = 0 then s.modChan m.index fun x => { x with calLast := s.t } else s;
    let s := if m.kind = 2 then
        let mv := if m.volt = 0 then (s.teamReg m.index).at_ s.t / 1000 else m.volt
        let c := (s.ceilRec m.index).ceiling mv (s.teamPwr m.index).temp
        let f := (vals[0]?).getD 0
        if (f - c) * 100 < 3 * c then s.guardCeil m.index c (f * 100 / 103) else s
      else s;
    exec (.marginingComplete w vals) z = .next (State.settle (s.complete w stOk)))

/-- The power, reset, clock and board pins and the test access port instructions have their effects: PWR_OK_ASSERT,
PWR_OK_DEASSERT, COLD_RESET, SYS_RST_N_DEASSERT, WARM_RST_N_ASSERT, WARM_RST_N_DEASSERT, PERST_N_ASSERT,
PERST_N_DEASSERT, CXL_PERST_N_RELEASE, REFERENCE_CLOCK_LOSS, REFERENCE_CLOCK_RETURN, BOARD_RAIL_FAULT,
BAR0_WINDOW_LIVE, PCIE_LINK_UP, TAP_RESET, IDCODE, SAMPLE_PRELOAD, EXTEST, EXTEST_PULSE, EXTEST_TRAIN, CLAMP, HIGHZ,
BYPASS (R72, R501, R511, R513, R514, R515, R516, R517, R518, R525). -/
def Obligations.PinAndTestPortCommands : Prop :=
  -- PWR_OK_ASSERT (R513)
  (∀ (addr1 : Bool) (addr0 : Bool) (s : State),
    ¬(s.pins.pwrOk) →
    exec (.pwrOkAssert addr1 addr0) s = .next (State.settle
      (s.holdReset.modPins fun p =>
      { p with pwrOk := true, sysRstN := false, thermtripN := true, smbAddr1 := addr1, smbAddr0 := addr0,
               smbAddr := BitVec.ofNat 7 (0x60 + (if addr1 then 2 else 0) + (if addr0 then 1 else 0)) }))) ∧
  -- PWR_OK_DEASSERT (R518)
  (∀ (s : State),
    exec (.pwrOkDeassert) s = .next (State.settle
      (({ s with tap := Tap.reset } : State).holdReset.modPins fun p =>
      { p with pwrOk := false, sysRstN := false, thermtripN := true, alertN := true }))) ∧
  -- COLD_RESET (R514)
  (∀ (z : State),
    let s := z;
    ¬(!s.pins.pwrOk || s.power.trip || !s.pins.sysRstN) →
    let t := s.t + msNs;
    let s := ({ s with tap := { s.tap with needCold := false } } : State).holdReset;
    exec (.coldReset) z = .next (State.settle
      ((s.modPins fun p => { p with sysRstN := false, alertN := true }).modPart fun x => { x with timeZero := t }))) ∧
  -- SYS_RST_N_DEASSERT (R514)
  (∀ (pass : Bool) (z : State),
    let s := z;
    ¬(!s.pins.pwrOk || s.power.trip || s.pins.sysRstN) →
    let s := s.reach s.part.timeZero;
    let s := (s.modPins fun p => { p with sysRstN := true, txOn := true }).modPart fun x =>
      { x with pstate := .boot, timeZero := s.t, mastersStopped := false, partId := s.kryto.partIdNv.getD 0xFFFF#16 };
    let s := s.mapTeams.mapChannels.bootEvents;
    (pass) →
    exec (.sysRstNDeassert pass) z = .next (State.settle (s))) ∧
  (∀ (pass : Bool) (z : State),
    let s := z;
    ¬(!s.pins.pwrOk || s.power.trip || s.pins.sysRstN) →
    let s := s.reach s.part.timeZero;
    let s := (s.modPins fun p => { p with sysRstN := true, txOn := true }).modPart fun x =>
      { x with pstate := .boot, timeZero := s.t, mastersStopped := false, partId := s.kryto.partIdNv.getD 0xFFFF#16 };
    let s := s.mapTeams.mapChannels.bootEvents;
    ¬(pass) →
    exec (.sysRstNDeassert pass) z = .next (State.settle (s.failPart))) ∧
  -- WARM_RST_N_ASSERT (R515)
  (∀ (z : State),
    let s := z;
    (s.pins.warmRstN) →
    let s := s.modPins fun p => { p with warmRstN := false };
    (s.part.pstate.running) →
    exec (.warmRstNAssert) z = .next (State.settle (s.beginWarm))) ∧
  (∀ (z : State),
    let s := z;
    (s.pins.warmRstN) →
    let s := s.modPins fun p => { p with warmRstN := false };
    ¬(s.part.pstate.running) →
    (s.pins.sysRstN && s.pins.pwrOk) →
    exec (.warmRstNAssert) z = .next (State.settle (s.logEv evResetIgnored))) ∧
  (∀ (z : State),
    let s := z;
    (s.pins.warmRstN) →
    let s := s.modPins fun p => { p with warmRstN := false };
    ¬(s.part.pstate.running) →
    ¬(s.pins.sysRstN && s.pins.pwrOk) →
    exec (.warmRstNAssert) z = .next (State.settle (s))) ∧
  -- WARM_RST_N_DEASSERT (R515)
  (∀ (s : State),
    exec (.warmRstNDeassert) s = .next (State.settle (s.modPins fun p => { p with warmRstN := true }))) ∧
  -- PERST_N_ASSERT (R516)
  (∀ (z : State),
    let s := z;
    (s.pins.perstN) →
    let s := s.modPins fun p => { p with perstN := false };
    (s.pins.pwrOk && s.pins.sysRstN) →
    exec (.perstNAssert) z = .next (State.settle (s.linkDown))) ∧
  (∀ (z : State),
    let s := z;
    (s.pins.perstN) →
    let s := s.modPins fun p => { p with perstN := false };
    ¬(s.pins.pwrOk && s.pins.sysRstN) →
    exec (.perstNAssert) z = .next (State.settle (s))) ∧
  -- PERST_N_DEASSERT (R516)
  (∀ (s : State),
    exec (.perstNDeassert) s = .next (State.settle (s.modPins fun p => { p with perstN := true }))) ∧
  -- CXL_PERST_N_RELEASE (R517)
  (∀ (s : State),
    ¬(!s.pins.pwrOk || !s.pins.sysRstN || s.pins.cxlPerstN) →
    exec (.cxlPerstNRelease) s = .next (State.settle
      ((s.reach (s.part.timeZero + 100 * msNs)).modPins fun p => { p with cxlPerstN := true }))) ∧
  -- REFERENCE_CLOCK_LOSS (R525)
  (∀ (clk : RefClk) (z : State),
    let s := z;
    let s := s.logEv evRefclkLoss 0xFF#8 0#16 (refCode clk);
    clk = .pcie →
    exec (.referenceClockLoss clk) z = .next (State.settle ((s.modPart fun x => { x with refPcie := false }).linkDown))) ∧
  (∀ (clk : RefClk) (z : State),
    let s := z;
    let s := s.logEv evRefclkLoss 0xFF#8 0#16 (refCode clk);
    clk = .aux →
    exec (.referenceClockLoss clk) z = .next (State.settle
      ((s.modPart fun x => { x with refAux := false, mastersStopped := true }).failPart))) ∧
  (∀ (clk : RefClk) (z : State),
    let s := z;
    let s := s.logEv evRefclkLoss 0xFF#8 0#16 (refCode clk);
    clk = .trace0 →
    exec (.referenceClockLoss clk) z = .next (State.settle ((s.modPart fun x => { x with refTrace0 := false }).portsDown 0))) ∧
  (∀ (clk : RefClk) (z : State),
    let s := z;
    let s := s.logEv evRefclkLoss 0xFF#8 0#16 (refCode clk);
    clk = .trace1 →
    exec (.referenceClockLoss clk) z = .next (State.settle ((s.modPart fun x => { x with refTrace1 := false }).portsDown 8))) ∧
  (∀ (clk : RefClk) (z : State),
    let s := z;
    let s := s.logEv evRefclkLoss 0xFF#8 0#16 (refCode clk);
    clk = .xtal →
    exec (.referenceClockLoss clk) z = .next (State.settle
      (s.modPart fun x => { x with refXtal := false, timeFromAux := true }))) ∧
  -- REFERENCE_CLOCK_RETURN (R525)
  (∀ (clk : RefClk) (s : State),
    exec (.referenceClockReturn clk) s = .next (State.settle
      (s.modPart fun x =>
      match clk with
      | .pcie => { x with refPcie := true }
      | .aux => { x with refAux := true }
      | .trace0 => { x with refTrace0 := true }
      | .trace1 => { x with refTrace1 := true }
      | .xtal => { x with refXtal := true }))) ∧
  -- BOARD_RAIL_FAULT (R511)
  (∀ (rail : Nat) (z : State),
    let s := z;
    ¬(railAvs rail || 15 ≤ rail || !s.pins.pwrOk) →
    let s := ({ s with kryto := { s.kryto with boardRail := insNat rail s.kryto.boardRail } } : State).holdReset;
    exec (.boardRailFault rail) z = .next (State.settle
      (s.modPins fun p => { p with sysRstN := false, thermtripN := true, alertN := true }))) ∧
  -- BAR0_WINDOW_LIVE (R72)
  (∀ (s : State),
    (s.pins.pwrOk && s.pins.sysRstN && s.pins.perstN && !s.power.trip && s.part.refPcie && s.part.pstate != .warmReset) →
    exec (.bar0WindowLive) s = .next (State.settle (s.modPart fun x => { x with bar0Live := true, crsDone := true }))) ∧
  -- PCIE_LINK_UP (R72)
  (∀ (s : State),
    (s.pins.pwrOk && s.pins.sysRstN && s.pins.perstN && s.pins.txOn && s.part.refPcie && s.part.pstate != .warmReset) →
    exec (.pcieLinkUp) s = .next (State.settle (s.modPart fun x => { x with pcieUp := true, krytoPcie := true }))) ∧
  -- TAP_RESET (R501)
  (∀ (s : State),
    exec (.tapReset) s = .next (State.settle
      (s.modTap fun t => { t with ir := 0x01#8, driving := false, hiz := false, pulse := false }))) ∧
  -- IDCODE (R501)
  (∀ (s : State),
    exec (.idcode) s = .next (State.settle
      (s.modTap fun t => { t with ir := 0x01#8, driving := false, hiz := false, pulse := false }))) ∧
  -- SAMPLE_PRELOAD (R501)
  (∀ (pins : List Bool) (preload : Option (List Bool)) (s : State),
    exec (.samplePreload pins preload) s = .next (State.settle
      (s.modTap fun t => { t with ir := 0x02#8, driving := false, hiz := false, pulse := false, sampled := pins,
                                  boundary := preload.getD t.boundary }))) ∧
  -- EXTEST (R501)
  (∀ (pins : List Bool) (s : State),
    exec (.extest pins) s = .next (State.settle
      (s.modTap fun t => { t with ir := 0x03#8, driving := true, hiz := false, pulse := false, sampled := pins,
                                  needCold := true }))) ∧
  -- EXTEST_PULSE (R501)
  (∀ (pins : List Bool) (s : State),
    exec (.extestPulse pins) s = .next (State.settle
      (s.modTap fun t => { t with ir := 0x04#8, driving := true, hiz := false, pulse := true, sampled := pins,
                                  needCold := true }))) ∧
  -- EXTEST_TRAIN (R501)
  (∀ (pins : List Bool) (s : State),
    exec (.extestTrain pins) s = .next (State.settle
      (s.modTap fun t => { t with ir := 0x05#8, driving := true, hiz := false, pulse := true, sampled := pins,
                                  needCold := true }))) ∧
  -- CLAMP (R501)
  (∀ (s : State),
    exec (.clamp) s = .next (State.settle
      (s.modTap fun t => { t with ir := 0x06#8, driving := true, hiz := false, pulse := false, needCold := true }))) ∧
  -- HIGHZ (R501)
  (∀ (s : State),
    exec (.highz) s = .next (State.settle
      (s.modTap fun t => { t with ir := 0x07#8, driving := false, hiz := true, pulse := false, needCold := true }))) ∧
  -- BYPASS (R501)
  (∀ (s : State),
    exec (.bypass) s = .next (State.settle
      (s.modTap fun t => { t with ir := 0xFF#8, driving := false, hiz := false, pulse := false })))

/-- MCTP, SPDM, SMBus and the event log have their effects: MCTP_MESSAGE, SPDM_REQUEST, EVENT_ACKNOWLEDGE,
EVENT_LOG_READ, SMBUS_ALERT_RESPONSE, MCTP_QUARANTINE_EXPIRY (R60, R520, R521, R535, R537). -/
def Obligations.SidebandCommands : Prop :=
  -- MCTP_MESSAGE (R521)
  (∀ (ep : Nat) (addr : Nat) (viol : Nat) (pcie : Bool) (ask : MctpAsk) (s : State),
    ¬(!s.hears ep || (pcie && !s.part.krytoPcie)) →
    (viol = 1 || viol = 2 || viol = 5) →
    exec (.mctpMessage ep addr viol pcie ask) s = .next (State.settle (s.mctpViolation ep addr viol))) ∧
  (∀ (ep : Nat) (addr : Nat) (viol : Nat) (pcie : Bool) (ask : MctpAsk) (s : State),
    ¬(!s.hears ep || (pcie && !s.part.krytoPcie)) →
    ¬(viol = 1 || viol = 2 || viol = 5) →
    let reply := fun (s : State) => let (bs, s) := s.drawBytes 8; s.mctp ep (0#8 :: bs);
    ask = .kryto →
    exec (.mctpMessage ep addr viol pcie ask) s = .next (State.settle (reply s))) ∧
  (∀ (ep : Nat) (addr : Nat) (viol : Nat) (pcie : Bool) (ask : MctpAsk) (s : State),
    ¬(!s.hears ep || (pcie && !s.part.krytoPcie)) →
    ¬(viol = 1 || viol = 2 || viol = 5) →
    let reply := fun (s : State) => let (bs, s) := s.drawBytes 8; s.mctp ep (0#8 :: bs);
    ask = .iluvo →
    (s.part.pstate.running) →
    exec (.mctpMessage ep addr viol pcie ask) s = .next (State.settle (reply s))) ∧
  (∀ (ep : Nat) (addr : Nat) (viol : Nat) (pcie : Bool) (ask : MctpAsk) (s : State),
    ¬(!s.hears ep || (pcie && !s.part.krytoPcie)) →
    ¬(viol = 1 || viol = 2 || viol = 5) →
    ask = .iluvo →
    ¬(s.part.pstate.running) →
    exec (.mctpMessage ep addr viol pcie ask) s = .next (State.settle (s.mctpNotReady ep))) ∧
  (∀ (ep : Nat) (addr : Nat) (viol : Nat) (pcie : Bool) (ask : MctpAsk) (s : State),
    ¬(!s.hears ep || (pcie && !s.part.krytoPcie)) →
    ¬(viol = 1 || viol = 2 || viol = 5) →
    ∀ mw,
    ask = .boardPower mw →
    exec (.mctpMessage ep addr viol pcie ask) s = .next (State.settle
      (({ s with kryto := { s.kryto with boardPower := some mw } } : State).mctp ep [0#8]))) ∧
  (∀ (ep : Nat) (addr : Nat) (viol : Nat) (pcie : Bool) (ask : MctpAsk) (s : State),
    ¬(!s.hears ep || (pcie && !s.part.krytoPcie)) →
    ¬(viol = 1 || viol = 2 || viol = 5) →
    ∀ w,
    ask = .cap w →
    (!s.part.pstate.full) →
    exec (.mctpMessage ep addr viol pcie ask) s = .next (State.settle (s.mctpNotReady ep))) ∧
  (∀ (ep : Nat) (addr : Nat) (viol : Nat) (pcie : Bool) (ask : MctpAsk) (s : State),
    ¬(!s.hears ep || (pcie && !s.part.krytoPcie)) →
    ¬(viol = 1 || viol = 2 || viol = 5) →
    ∀ w,
    ask = .cap w →
    (s.part.pstate.full) →
    (700 ≤ w && w ≤ 1800) →
    exec (.mctpMessage ep addr viol pcie ask) s = .next (State.settle ((s.recordCap w none false).mctp ep [0#8]))) ∧
  (∀ (ep : Nat) (addr : Nat) (viol : Nat) (pcie : Bool) (ask : MctpAsk) (s : State),
    ¬(!s.hears ep || (pcie && !s.part.krytoPcie)) →
    ¬(viol = 1 || viol = 2 || viol = 5) →
    ∀ w,
    ask = .cap w →
    (s.part.pstate.full) →
    ¬(700 ≤ w && w ≤ 1800) →
    exec (.mctpMessage ep addr viol pcie ask) s = .next (State.settle (s.mctp ep (2#8 :: leBytes 2 stBadParam.toNat)))) ∧
  -- SPDM_REQUEST (R60)
  (∀ (ep : Nat) (addr : Nat) (viol : Nat) (req : SpdmReq) (s : State),
    (s.hears ep) →
    (1 ≤ viol && viol ≤ 5) →
    exec (.spdmRequest ep addr viol req) s = .next (State.settle (s.mctpViolation ep addr viol))) ∧
  (∀ (ep : Nat) (addr : Nat) (viol : Nat) (req : SpdmReq) (s : State),
    (s.hears ep) →
    ¬(1 ≤ viol && viol ≤ 5) →
    let done := fun (s : State) => let (bs, s) := s.drawBytes 8; s.mctp ep (0#8 :: bs);
    req = .setup →
    exec (.spdmRequest ep addr viol req) s = .next (State.settle (done (s.modEnd ep fun x => { x with spdm := true })))) ∧
  (∀ (ep : Nat) (addr : Nat) (viol : Nat) (req : SpdmReq) (s : State),
    (s.hears ep) →
    ¬(1 ≤ viol && viol ≤ 5) →
    let done := fun (s : State) => let (bs, s) := s.drawBytes 8; s.mctp ep (0#8 :: bs);
    req = .other →
    exec (.spdmRequest ep addr viol req) s = .next (State.settle (done s))) ∧
  (∀ (ep : Nat) (addr : Nat) (viol : Nat) (req : SpdmReq) (s : State),
    (s.hears ep) →
    ¬(1 ≤ viol && viol ≤ 5) →
    req = .measurements →
    exec (.spdmRequest ep addr viol req) s = .next (State.settle
      (s.mctp ep (0#8 :: s.kryto.measures.flatMap fun (e : Nat × List Byte) => leBytes 8 e.1 ++ e.2)))) ∧
  (∀ (ep : Nat) (addr : Nat) (viol : Nat) (req : SpdmReq) (s : State),
    (s.hears ep) →
    ¬(1 ≤ viol && viol ≤ 5) →
    let secured := (s.endpoint ep).spdm;
    let done := fun (s : State) => let (bs, s) := s.drawBytes 8; s.mctp ep (0#8 :: bs);
    req = .unlockTap →
    (secured) →
    exec (.spdmRequest ep addr viol req) s = .next (State.settle
      (done { s with kryto := { s.kryto with jtagUnlocked := true } }))) ∧
  (∀ (ep : Nat) (addr : Nat) (viol : Nat) (req : SpdmReq) (s : State),
    (s.hears ep) →
    ¬(1 ≤ viol && viol ≤ 5) →
    let secured := (s.endpoint ep).spdm;
    req = .unlockTap →
    ¬(secured) →
    exec (.spdmRequest ep addr viol req) s = .next (State.settle (s.mctpViolation ep addr 3))) ∧
  (∀ (ep : Nat) (addr : Nat) (viol : Nat) (req : SpdmReq) (s : State),
    (s.hears ep) →
    ¬(1 ≤ viol && viol ≤ 5) →
    let secured := (s.endpoint ep).spdm;
    ∀ key,
    req = .installOwner key →
    (!secured) →
    exec (.spdmRequest ep addr viol req) s = .next (State.settle (s.mctpViolation ep addr 3))) ∧
  (∀ (ep : Nat) (addr : Nat) (viol : Nat) (req : SpdmReq) (s : State),
    (s.hears ep) →
    ¬(1 ≤ viol && viol ≤ 5) →
    let secured := (s.endpoint ep).spdm;
    ∀ key,
    req = .installOwner key →
    (secured) →
    (key.length != 48) →
    exec (.spdmRequest ep addr viol req) s = .next (State.settle (s.mctpViolation ep addr 4))) ∧
  (∀ (ep : Nat) (addr : Nat) (viol : Nat) (req : SpdmReq) (s : State),
    (s.hears ep) →
    ¬(1 ≤ viol && viol ≤ 5) →
    let secured := (s.endpoint ep).spdm;
    let refuse := fun (s : State) => let (bs, s) := s.drawBytes 1; s.mctp ep (spdmError ((bs[0]?).getD 0#8));
    ∀ key,
    req = .installOwner key →
    (secured) →
    ¬(key.length != 48) →
    (s.kryto.ownerKey.isSome) →
    exec (.spdmRequest ep addr viol req) s = .next (State.settle (refuse s))) ∧
  (∀ (ep : Nat) (addr : Nat) (viol : Nat) (req : SpdmReq) (s : State),
    (s.hears ep) →
    ¬(1 ≤ viol && viol ≤ 5) →
    let secured := (s.endpoint ep).spdm;
    let done := fun (s : State) => let (bs, s) := s.drawBytes 8; s.mctp ep (0#8 :: bs);
    ∀ key,
    req = .installOwner key →
    (secured) →
    ¬(key.length != 48) →
    ¬(s.kryto.ownerKey.isSome) →
    exec (.spdmRequest ep addr viol req) s = .next (State.settle
      (done { s with kryto := { s.kryto with ownerKey := some key } }))) ∧
  (∀ (ep : Nat) (addr : Nat) (viol : Nat) (req : SpdmReq) (s : State),
    (s.hears ep) →
    ¬(1 ≤ viol && viol ≤ 5) →
    let secured := (s.endpoint ep).spdm;
    ∀ key transcript tag,
    req = .replaceOwner key transcript tag →
    (!secured) →
    exec (.spdmRequest ep addr viol req) s = .next (State.settle (s.mctpViolation ep addr 3))) ∧
  (∀ (ep : Nat) (addr : Nat) (viol : Nat) (req : SpdmReq) (s : State),
    (s.hears ep) →
    ¬(1 ≤ viol && viol ≤ 5) →
    let secured := (s.endpoint ep).spdm;
    ∀ key transcript tag,
    req = .replaceOwner key transcript tag →
    (secured) →
    (key.length != 48) →
    exec (.spdmRequest ep addr viol req) s = .next (State.settle (s.mctpViolation ep addr 4))) ∧
  (∀ (ep : Nat) (addr : Nat) (viol : Nat) (req : SpdmReq) (s : State),
    (s.hears ep) →
    ¬(1 ≤ viol && viol ≤ 5) →
    let secured := (s.endpoint ep).spdm;
    let refuse := fun (s : State) => let (bs, s) := s.drawBytes 1; s.mctp ep (spdmError ((bs[0]?).getD 0#8));
    ∀ key transcript tag,
    req = .replaceOwner key transcript tag →
    (secured) →
    ¬(key.length != 48) →
    s.kryto.ownerKey = none →
    exec (.spdmRequest ep addr viol req) s = .next (State.settle (refuse s))) ∧
  (∀ (ep : Nat) (addr : Nat) (viol : Nat) (req : SpdmReq) (s : State),
    (s.hears ep) →
    ¬(1 ≤ viol && viol ≤ 5) →
    let secured := (s.endpoint ep).spdm;
    let done := fun (s : State) => let (bs, s) := s.drawBytes 8; s.mctp ep (0#8 :: bs);
    ∀ key transcript tag,
    req = .replaceOwner key transcript tag →
    (secured) →
    ¬(key.length != 48) →
    ∀ k,
    s.kryto.ownerKey = some k →
    (hmac384 k transcript = tag) →
    exec (.spdmRequest ep addr viol req) s = .next (State.settle
      (done { s with kryto := { s.kryto with ownerKey := some key } }))) ∧
  (∀ (ep : Nat) (addr : Nat) (viol : Nat) (req : SpdmReq) (s : State),
    (s.hears ep) →
    ¬(1 ≤ viol && viol ≤ 5) →
    let secured := (s.endpoint ep).spdm;
    let refuse := fun (s : State) => let (bs, s) := s.drawBytes 1; s.mctp ep (spdmError ((bs[0]?).getD 0#8));
    ∀ key transcript tag,
    req = .replaceOwner key transcript tag →
    (secured) →
    ¬(key.length != 48) →
    ∀ k,
    s.kryto.ownerKey = some k →
    ¬(hmac384 k transcript = tag) →
    exec (.spdmRequest ep addr viol req) s = .next (State.settle (refuse s))) ∧
  -- EVENT_ACKNOWLEDGE (R520)
  (∀ (ep : Nat) (addr : Nat) (entry : Nat) (s : State),
    (s.hears ep) →
    (s.log.entries.any fun e => e.entry.toNat = entry && !e.acked) →
    exec (.eventAcknowledge ep addr entry) s = .next (State.settle
      (({ s with log := { s.log with entries := s.log.entries.map fun e =>
           if e.entry.toNat = entry then { e with acked := true } else e } } : State).refreshAlert))) ∧
  (∀ (ep : Nat) (addr : Nat) (entry : Nat) (s : State),
    (s.hears ep) →
    ¬(s.log.entries.any fun e => e.entry.toNat = entry && !e.acked) →
    exec (.eventAcknowledge ep addr entry) s = .next (State.settle (s.mctpViolation ep addr 6))) ∧
  -- EVENT_LOG_READ (R537)
  (∀ (ep : Nat) (entry : Nat) (count : Nat) (s : State),
    (s.hears ep) →
    (!s.part.pstate.running) →
    exec (.eventLogRead ep entry count) s = .next (State.settle (s.mctpNotReady ep))) ∧
  (∀ (ep : Nat) (entry : Nat) (count : Nat) (s : State),
    (s.hears ep) →
    (s.part.pstate.running) →
    let es := (s.log.entries.filter fun e => entry ≤ e.entry.toNat).take count;
    exec (.eventLogRead ep entry count) s = .next (State.settle
      (s.mctp ep (0#8 :: leBytes 4 s.log.lost.toNat ++ es.flatMap fun e => e.encode)))) ∧
  -- SMBUS_ALERT_RESPONSE (R520)
  (∀ (s : State),
    ¬(s.pins.alertN || !s.pins.pwrOk) →
    exec (.smbusAlertResponse) s = .next (State.settle
      ({ s with out := { s.out with smbus := s.out.smbus ++ [BitVec.ofNat 8 (2 * s.pins.smbAddr.toNat)] } }))) ∧
  -- MCTP_QUARANTINE_EXPIRY (R535)
  (∀ (ep : Nat) (s : State),
    ∀ t,
    (s.endpoint ep).quarUntil = some t →
    exec (.mctpQuarantineExpiry ep) s = .next (State.settle ((s.reach t).modEnd ep fun x => { x with quarUntil := none })))
end

