-- ==== Sys2Proof/Laws/Table.lean ====
section
/-! SUPPORT. The laws of sparse tables and of rising lists: reads after writes, and the canonical form that every
write keeps. -/

namespace Sys2Proof

variable {α : Type}

/-- The keys of a table strictly rise. -/
theorem tsorted_iff (t : Tbl α) : tsorted t = true ↔ t.Pairwise (fun a b => a.1 < b.1) := by
  induction t with
  | nil => simp [tsorted]
  | cons a t ih =>
    cases t with
    | nil => simp [tsorted]
    | cons b t =>
      simp only [tsorted, Bool.and_eq_true, decide_eq_true_eq, ih, List.pairwise_cons]
      constructor
      · rintro ⟨h, hb, ht⟩
        exact ⟨fun c hc => by
          rcases List.mem_cons.1 hc with rfl | hc
          · exact h
          · exact Nat.lt_trans h (hb c hc), hb, ht⟩
      · rintro ⟨h, hb, ht⟩
        exact ⟨h b (by simp), hb, ht⟩

/-- The numbers of a list strictly rise. -/
theorem rising_iff (l : List Nat) : rising l = true ↔ l.Pairwise (· < ·) := by
  induction l with
  | nil => simp [rising]
  | cons a t ih =>
    cases t with
    | nil => simp [rising]
    | cons b t =>
      simp only [rising, Bool.and_eq_true, decide_eq_true_eq, ih, List.pairwise_cons]
      constructor
      · rintro ⟨h, hb, ht⟩
        exact ⟨fun c hc => by
          rcases List.mem_cons.1 hc with rfl | hc
          · exact h
          · exact Nat.lt_trans h (hb c hc), hb, ht⟩
      · rintro ⟨h, hb, ht⟩
        exact ⟨h b (by simp), hb, ht⟩

/-- What a put lists: the new entry and entries that were listed. -/
theorem mem_tput {t : Tbl α} {k : Nat} {v : α} {e : Nat × α} (h : e ∈ tput t k v) : e = (k, v) ∨ e ∈ t := by
  induction t with
  | nil => simpa [tput] using h
  | cons a t ih =>
    simp only [tput] at h
    split at h
    · simpa using h
    · split at h
      · rcases List.mem_cons.1 h with h | h
        · exact .inl h
        · exact .inr (List.mem_cons_of_mem _ h)
      · rcases List.mem_cons.1 h with h | h
        · exact .inr (by simp [h])
        · rcases ih h with h | h
          · exact .inl h
          · exact .inr (List.mem_cons_of_mem _ h)

/-- A put keeps the keys rising. -/
theorem tput_sorted {t : Tbl α} {k : Nat} {v : α} (h : tsorted t = true) : tsorted (tput t k v) = true := by
  rw [tsorted_iff] at h ⊢
  induction t with
  | nil => simp [tput]
  | cons a t ih =>
    have ⟨ha, ht⟩ := List.pairwise_cons.1 h
    simp only [tput]
    split
    · rename_i hk
      refine List.pairwise_cons.2 ⟨fun c hc => ?_, h⟩
      rcases List.mem_cons.1 hc with rfl | hc
      · exact hk
      · exact Nat.lt_trans hk (ha c hc)
    · split
      · rename_i hk
        exact List.pairwise_cons.2 ⟨fun c hc => hk ▸ ha c hc, ht⟩
      · rename_i h1 h2
        refine List.pairwise_cons.2 ⟨fun c hc => ?_, ih ht⟩
        rcases mem_tput hc with rfl | hc
        · show a.1 < k
          omega
        · exact ha c hc

/-- A part of a table keeps the keys rising. -/
theorem filter_sorted {t : Tbl α} {p : Nat × α → Bool} (h : tsorted t = true) : tsorted (t.filter p) = true :=
  (tsorted_iff _).2 (((tsorted_iff _).1 h).filter p)

/-- A write with a default keeps the keys rising. -/
theorem tputD_sorted [DecidableEq α] {d : α} {t : Tbl α} {k : Nat} {v : α} (h : tsorted t = true) :
    tsorted (tputD d t k v) = true := by
  unfold tputD
  split
  · exact filter_sorted h
  · exact tput_sorted h

/-- What a write with a default lists: a new entry that differs from the default, and entries that were listed. -/
theorem mem_tputD [DecidableEq α] {d : α} {t : Tbl α} {k : Nat} {v : α} {e : Nat × α} (h : e ∈ tputD d t k v) :
    (e = (k, v) ∧ v ≠ d) ∨ e ∈ t := by
  unfold tputD at h
  split at h
  · exact .inr ((List.mem_filter.1 h).1)
  · rename_i hv
    rcases mem_tput h with h | h
    · exact .inl ⟨h, hv⟩
    · exact .inr h

/-- Reading the key just put. -/
theorem tget_tput_same (t : Tbl α) (k : Nat) (v : α) : tget (tput t k v) k = some v := by
  induction t with
  | nil => simp [tput, tget]
  | cons a t ih =>
    simp only [tput]
    split
    · simp [tget]
    · split
      · simp [tget]
      · rename_i h1 h2
        have : a.1 ≠ k := fun h => h2 h.symm
        simp [tget, this, ih]

/-- Reading another key than the one just put. -/
theorem tget_tput_other (t : Tbl α) {k k' : Nat} (v : α) (h : k' ≠ k) : tget (tput t k v) k' = tget t k' := by
  induction t with
  | nil => simp [tput, tget, Ne.symm h]
  | cons a t ih =>
    simp only [tput]
    split
    · simp [tget, Ne.symm h]
    · split
      · rename_i h1 h2
        subst h2
        simp [tget, Ne.symm h]
      · simp only [tget, ih]

/-- Reading a key just taken off. -/
theorem tget_tdel_same (t : Tbl α) (k : Nat) : tget (tdel t k) k = none := by
  induction t with
  | nil => rfl
  | cons a t ih =>
    unfold tdel at ih ⊢
    by_cases h : a.1 = k
    · simpa [List.filter_cons, h] using ih
    · simpa [List.filter_cons, h, tget] using ih

/-- Reading another key than the one taken off. -/
theorem tget_tdel_other (t : Tbl α) {k k' : Nat} (h : k' ≠ k) : tget (tdel t k) k' = tget t k' := by
  induction t with
  | nil => rfl
  | cons a t ih =>
    unfold tdel at ih ⊢
    by_cases hk : a.1 = k
    · have : a.1 ≠ k' := fun e => h (e ▸ hk)
      simpa [List.filter_cons, hk, tget, Ne.symm h] using ih
    · simp only [List.filter_cons, bne_iff_ne, ne_eq, hk, not_false_eq_true, if_true, tget, ih]

/-- Reading the key just written. -/
theorem tgetD_tputD_same [DecidableEq α] (d : α) (t : Tbl α) (k : Nat) (v : α) :
    tgetD d (tputD d t k v) k = v := by
  unfold tgetD tputD
  split
  · rename_i h; simp [tget_tdel_same, h]
  · simp [tget_tput_same]

/-- Reading another key than the one just written. -/
theorem tgetD_tputD_other [DecidableEq α] (d : α) (t : Tbl α) {k k' : Nat} (v : α) (h : k' ≠ k) :
    tgetD d (tputD d t k v) k' = tgetD d t k' := by
  unfold tgetD tputD
  split
  · rw [tget_tdel_other t h]
  · rw [tget_tput_other t v h]

/-- A listed value is an entry. -/
theorem mem_of_tget {t : Tbl α} {k : Nat} {v : α} (h : tget t k = some v) : (k, v) ∈ t := by
  induction t with
  | nil => simp [tget] at h
  | cons a t ih =>
    simp only [tget] at h
    split at h
    · rename_i hk
      injection h with h
      subst hk; subst h
      simp
    · exact List.mem_cons_of_mem _ (ih h)

/-- What a number put into a list makes of it. -/
theorem mem_insNat {x y : Nat} {l : List Nat} : y ∈ insNat x l ↔ y = x ∨ y ∈ l := by
  induction l with
  | nil => simp [insNat]
  | cons a l ih =>
    simp only [insNat]
    split
    · simp
    · split
      · rename_i h; subst h; simp
      · simp [ih, or_left_comm]

/-- Putting a number in keeps the list rising. -/
theorem insNat_rising {x : Nat} {l : List Nat} (h : rising l = true) : rising (insNat x l) = true := by
  rw [rising_iff] at h ⊢
  induction l with
  | nil => simp [insNat]
  | cons a l ih =>
    have ⟨ha, hl⟩ := List.pairwise_cons.1 h
    simp only [insNat]
    split
    · rename_i hx
      refine List.pairwise_cons.2 ⟨fun c hc => ?_, h⟩
      rcases List.mem_cons.1 hc with rfl | hc
      · exact hx
      · exact Nat.lt_trans hx (ha c hc)
    · split
      · exact h
      · refine List.pairwise_cons.2 ⟨fun c hc => ?_, ih hl⟩
        rcases mem_insNat.1 hc with rfl | hc
        · omega
        · exact ha c hc

/-- A part of a rising list rises. -/
theorem filter_rising {l : List Nat} {p : Nat → Bool} (h : rising l = true) : rising (l.filter p) = true :=
  (rising_iff _).2 (((rising_iff _).1 h).filter p)

namespace Machine

/-- The canonical form, in the terms of a list. -/
theorem wf_iff (m : List Host.Cell) : Memory.wf m = true ↔ tsorted m = true ∧ ∀ c ∈ m, c.2 ≠ 0#8 := by
  simp [Memory.wf]

/-- Writing one byte keeps the canonical form. -/
theorem wf_put {m : List Host.Cell} (k : Nat) (b : Byte) (h : Memory.wf m = true) :
    Memory.wf (tputD 0#8 m k b) = true := by
  rw [wf_iff] at h ⊢
  refine ⟨tputD_sorted h.1, fun c hc => ?_⟩
  rcases mem_tputD hc with ⟨rfl, hb⟩ | hc
  · exact hb
  · exact h.2 c hc

/-- A part of a memory keeps the canonical form. -/
theorem wf_filter {m : List Host.Cell} (p : Host.Cell → Bool) (h : Memory.wf m = true) :
    Memory.wf (m.filter p) = true := by
  rw [wf_iff] at h ⊢
  exact ⟨filter_sorted h.1, fun c hc => h.2 c ((List.mem_filter.1 hc).1)⟩

end Machine

end Sys2Proof
end

