-- ==== Sys2Proof/Laws/Keep.lean ====
section
/-! SUPPORT. What a change of state keeps: the queue of waiting commands stays, free values are never used again, and
the invariant of Safety.lean holds after where it held before. The lemmas of Laws/Keep*.lean say so of every operation
and every meaning of the model. -/

namespace Sys2Proof.Machine

open Sys2Proof

/-- What a change keeps, in terms of the fields that matter. -/
structure KeepF (s0 : State) (pending : List Instr) (free : Nat) (mem scratch : List Host.Cell) (poison : List Nat)
    (rings : Tbl Ring) (log : EventLog) : Prop where
  /-- the queue stays -/
  pend : pending = s0.pending
  /-- the counter of free values never runs back -/
  free : s0.free ≤ free
  /-- memory -/
  mem : Memory.wf s0.mem = true → Memory.wf mem = true
  /-- scratchpads -/
  scratch : Memory.wf s0.scratch = true → Memory.wf scratch = true
  /-- poison markers -/
  poison : rising s0.poison = true → rising poison = true
  /-- rings -/
  rings : (∀ e ∈ s0.rings, e.2.bounded) → ∀ e ∈ rings, e.2.bounded
  /-- event log -/
  log : s0.log.entries.length ≤ 65536 → log.entries.length ≤ 65536

/-- What the change from one state to another keeps. -/
def Keep (s0 t : State) : Prop := KeepF s0 t.pending t.free t.mem t.scratch t.poison t.rings t.log

/-- Nothing changes. -/
theorem Keep.refl (s : State) : Keep s s := ⟨rfl, Nat.le_refl _, id, id, id, id, id⟩

/-- One change after another. -/
theorem Keep.trans {a b c : State} (h : Keep a b) (g : Keep b c) : Keep a c :=
  ⟨g.pend.trans h.pend, Nat.le_trans h.free g.free, g.mem ∘ h.mem, g.scratch ∘ h.scratch, g.poison ∘ h.poison,
   g.rings ∘ h.rings, g.log ∘ h.log⟩

/-- A change keeps the invariant. -/
theorem Keep.inv {a b : State} (h : Keep a b) (i : a.Inv) : b.Inv :=
  ⟨h.mem i.1, h.scratch i.2.1, h.poison i.2.2.1, h.rings i.2.2.2.1, h.log i.2.2.2.2⟩

/-- An update of fields that do not matter here. -/
theorem keep_mk {s0 b : State}
    {now : BitVec 64} {pins : Pins} {part : PartCtl} {fns : Tbl Fn} {ser : Nat} {journal : List JRec} {accepts :
    Nat} {waits : List Wait} {kryto : Kryto} {paddocks : Tbl Paddock} {teams : Tbl Team} {phys : Tbl PhysTeam}
    {cores : Tbl Core} {ctxs : Tbl Ctx} {kernels : Tbl Kernel} {tasks : List (BitVec 64 × Task)} {basin :
    BasinCtl} {streams : Tbl Stream} {barriers : Tbl Barrier} {allocs : Tbl Alloc} {hbm : Hbm} {nvw : Tbl
    NvwStack} {nvwProgs : List NvwProg} {cxl : Cxl} {gen : Gen} {learn : Learn} {rein : Rein} {trace : Trace}
    {moors : Tbl Moor} {quays : Tbl Quay} {power : Power} {farrier : Farrier} {tap : Tap} {out : Out} :
    Keep s0 (State.mk
      b.pending now b.free pins part fns b.rings ser journal accepts waits b.log kryto paddocks teams phys cores
      ctxs b.scratch kernels tasks b.mem b.poison basin streams barriers allocs hbm nvw nvwProgs cxl gen learn
      rein trace moors quays power farrier tap out) = Keep s0 b := rfl

/-- An update of fields that do not matter here, with free values used. -/
theorem keep_adv {s0 b : State} {n : Nat} (h : Keep s0 b)
    {now : BitVec 64} {pins : Pins} {part : PartCtl} {fns : Tbl Fn} {ser : Nat} {journal : List JRec} {accepts :
    Nat} {waits : List Wait} {kryto : Kryto} {paddocks : Tbl Paddock} {teams : Tbl Team} {phys : Tbl PhysTeam}
    {cores : Tbl Core} {ctxs : Tbl Ctx} {kernels : Tbl Kernel} {tasks : List (BitVec 64 × Task)} {basin :
    BasinCtl} {streams : Tbl Stream} {barriers : Tbl Barrier} {allocs : Tbl Alloc} {hbm : Hbm} {nvw : Tbl
    NvwStack} {nvwProgs : List NvwProg} {cxl : Cxl} {gen : Gen} {learn : Learn} {rein : Rein} {trace : Trace}
    {moors : Tbl Moor} {quays : Tbl Quay} {power : Power} {farrier : Farrier} {tap : Tap} {out : Out} :
    Keep s0 (State.mk
      b.pending now (b.free + n) pins part fns b.rings ser journal accepts waits b.log kryto paddocks teams phys cores
      ctxs b.scratch kernels tasks b.mem b.poison basin streams barriers allocs hbm nvw nvwProgs cxl gen learn
      rein trace moors quays power farrier tap out) :=
  ⟨h.pend, Nat.le_trans h.free (Nat.le_add_right _ _), h.mem, h.scratch, h.poison, h.rings, h.log⟩

/-- A choice of changes. -/
theorem keep_ite {s0 a b : State} {c : Prop} [Decidable c] (ha : c → Keep s0 a) (hb : ¬c → Keep s0 b) :
    Keep s0 (if c then a else b) := by
  split
  · exact ha ‹_›
  · exact hb ‹_›

/-- A fold of changes. -/
theorem keep_foldl {α : Type} {s0 s : State} {f : State → α → State} {l : List α}
    (hf : ∀ t x, Keep s0 t → Keep s0 (f t x)) (h : Keep s0 s) : Keep s0 (l.foldl f s) := by
  induction l generalizing s with
  | nil => exact h
  | cons x l ih => exact ih (hf s x h)

/-- A fold that carries a value beside the state. -/
theorem keep_foldl1 {α β : Type} {s0 : State} {f : State × β → α → State × β} {l : List α} {p : State × β}
    (hf : ∀ t x, Keep s0 t.1 → Keep s0 (f t x).1) (h : Keep s0 p.1) : Keep s0 (l.foldl f p).1 := by
  induction l generalizing p with
  | nil => exact h
  | cons x l ih => exact ih (hf p x h)

/-- A fold that carries a value beside the state. -/
theorem keep_foldl2 {α β : Type} {s0 : State} {f : β × State → α → β × State} {l : List α} {p : β × State}
    (hf : ∀ t x, Keep s0 t.2 → Keep s0 (f t x).2) (h : Keep s0 p.2) : Keep s0 (l.foldl f p).2 := by
  induction l generalizing p with
  | nil => exact h
  | cons x l ih => exact ih (hf p x h)

/-- What a fold gives that carries a value beside the state. -/
theorem keep_foldl1' {α β : Type} {s0 t : State} {b : β} {f : State × β → α → State × β} {l : List α} {p : State × β}
    (e : l.foldl f p = (t, b)) (hf : ∀ t x, Keep s0 t.1 → Keep s0 (f t x).1) (h : Keep s0 p.1) : Keep s0 t := by
  have := keep_foldl1 (l := l) hf h
  rwa [e] at this

/-- What a fold gives that carries a value beside the state. -/
theorem keep_foldl2' {α β : Type} {s0 t : State} {b : β} {f : β × State → α → β × State} {l : List α} {p : β × State}
    (e : l.foldl f p = (b, t)) (hf : ∀ t x, Keep s0 t.2 → Keep s0 (f t x).2) (h : Keep s0 p.2) : Keep s0 t := by
  have := keep_foldl2 (l := l) hf h
  rwa [e] at this

/-- What a command's body keeps where it succeeds. -/
def KeepE (s0 : State) (r : Except Err State) : Prop := ∀ t, r = .ok t → Keep s0 t

/-- What a computation keeps whose answer holds a state. -/
def KeepP {α : Type} (s0 : State) (g : α → State) (r : Except Err α) : Prop := ∀ a, r = .ok a → Keep s0 (g a)

/-- Success with a state. -/
theorem keepE_ok {s0 t : State} (h : Keep s0 t) : KeepE s0 (.ok t) := fun _ e => by injection e with e; exact e ▸ h

/-- Success with an answer. -/
theorem keepP_ok {α : Type} {s0 : State} {g : α → State} {a : α} (h : Keep s0 (g a)) : KeepP s0 g (.ok a) :=
  fun _ e => by injection e with e; exact e ▸ h

/-- A failure keeps everything. -/
theorem keepE_error {s0 : State} {e : Err} : KeepE s0 (.error e) := fun _ h => nomatch h

/-- A failure keeps everything. -/
theorem keepP_error {α : Type} {s0 : State} {g : α → State} {e : Err} : KeepP s0 g (.error e) := fun _ h => nomatch h

/-- A failing status keeps everything. -/
theorem keepE_fail {s0 : State} {st : BitVec 16} {d r : Nat} : KeepE s0 (fail st d r) := fun _ h => nomatch h

/-- A failing status keeps everything. -/
theorem keepP_fail {α : Type} {s0 : State} {g : α → State} {st : BitVec 16} {d r : Nat} :
    KeepP s0 g (fail st d r) := fun _ h => nomatch h

/-- What a bind keeps. -/
theorem keepE_bind {α : Type} {s0 : State} {x : Except Err α} {f : α → Except Err State}
    (h : ∀ a, x = .ok a → KeepE s0 (f a)) : KeepE s0 (x >>= f) := by
  intro t e
  cases x with
  | error _ => cases e
  | ok a => exact h a rfl t e

/-- What a bind keeps. -/
theorem keepP_bind {α β : Type} {s0 : State} {g : β → State} {x : Except Err α} {f : α → Except Err β}
    (h : ∀ a, x = .ok a → KeepP s0 g (f a)) : KeepP s0 g (x >>= f) := by
  intro t e
  cases x with
  | error _ => cases e
  | ok a => exact h a rfl t e

/-- A choice of computations. -/
theorem keepE_ite {s0 : State} {a b : Except Err State} {c : Prop} [Decidable c] (ha : c → KeepE s0 a)
    (hb : ¬c → KeepE s0 b) : KeepE s0 (if c then a else b) := by
  split
  · exact ha ‹_›
  · exact hb ‹_›

/-- A choice of computations. -/
theorem keepP_ite {α : Type} {s0 : State} {g : α → State} {a b : Except Err α} {c : Prop} [Decidable c]
    (ha : c → KeepP s0 g a) (hb : ¬c → KeepP s0 g b) : KeepP s0 g (if c then a else b) := by
  split
  · exact ha ‹_›
  · exact hb ‹_›

/-- Success with a state. -/
theorem keepE_pure {s0 t : State} (h : Keep s0 t) : KeepE s0 (pure t) := keepE_ok h

/-- Success with an answer. -/
theorem keepP_pure {α : Type} {s0 : State} {g : α → State} {a : α} (h : Keep s0 (g a)) : KeepP s0 g (pure a) :=
  keepP_ok h

/-- What an answer keeps. -/
theorem keepE_elim {s0 t : State} {r : Except Err State} (e : r = .ok t) (h : KeepE s0 r) : Keep s0 t := h t e

/-- What an answer keeps that stands second. -/
theorem keepP2_elim {α : Type} {s0 t : State} {a : α} {r : Except Err (α × State)} (e : r = .ok (a, t))
    (h : KeepP s0 (fun p => p.2) r) : Keep s0 t := h _ e

/-- What an answer keeps that stands second. -/
theorem keepP2_elim' {α : Type} {s0 : State} {a : α × State} {r : Except Err (α × State)} (e : r = .ok a)
    (h : KeepP s0 (fun p => p.2) r) : Keep s0 a.2 := h _ e

/-- What an answer keeps that stands third. -/
theorem keepP3_elim {α β : Type} {s0 t : State} {a : α} {b : β} {r : Except Err (α × β × State)}
    (e : r = .ok (a, b, t)) (h : KeepP s0 (fun p => p.2.2) r) : Keep s0 t := h _ e

/-- What an answer keeps that stands third. -/
theorem keepP3_elim' {α β : Type} {s0 : State} {a : α × β × State} {r : Except Err (α × β × State)}
    (e : r = .ok a) (h : KeepP s0 (fun p => p.2.2) r) : Keep s0 a.2.2 := h _ e

/-- What a change keeps that may not be possible. -/
def KeepO {α : Type} (s0 : State) (g : α → State) (r : Option α) : Prop := ∀ a, r = some a → Keep s0 (g a)

/-- A change that is possible. -/
theorem keepO_some {α : Type} {s0 : State} {g : α → State} {a : α} (h : Keep s0 (g a)) : KeepO s0 g (some a) :=
  fun _ e => by injection e with e; exact e ▸ h

/-- A change that is not possible. -/
theorem keepO_none {α : Type} {s0 : State} {g : α → State} : KeepO s0 g none := fun _ h => nomatch h

/-- A fold of computations. -/
theorem keepE_foldlM {α : Type} {s0 s : State} {f : State → α → Except Err State} {l : List α}
    (hf : ∀ t x, Keep s0 t → KeepE s0 (f t x)) (h : Keep s0 s) : KeepE s0 (l.foldlM f s) := by
  induction l generalizing s with
  | nil => exact keepE_ok h
  | cons x l ih =>
    rw [List.foldlM_cons]
    exact keepE_bind fun a e => ih (hf s x h a e)

end Sys2Proof.Machine
end

