-- ==== Sys2Proof/Laws/KeepFlags.lean ====
section
/-! SUPPORT. What the definitions of Machine/Flags.lean keep (Laws/Keep.lean). -/

namespace Sys2Proof.Machine

open Sys2Proof

/-- What `State.reach` keeps. -/
theorem State.reach_keep {zz s : State} {t} (kp : Keep zz s) :
    Keep zz (State.reach s t) := by
  unfold State.reach
  repeat' first
    | with_reducible assumption
    | simp only [keep_mk]
    | with_reducible refine keep_ite (fun _ => ?_) (fun _ => ?_)

/-- What `State.refreshDegraded` keeps. -/
theorem State.refreshDegraded_keep {zz s : State} (kp : Keep zz s) :
    Keep zz (State.refreshDegraded s) := by
  unfold State.refreshDegraded
  repeat' first
    | with_reducible assumption
    | simp only [keep_mk]
    | with_reducible refine keep_ite (fun _ => ?_) (fun _ => ?_)

end Sys2Proof.Machine
end

