-- ==== Sys2Proof/Laws/KeepOps.lean ====
section
/-! SUPPORT. What the definitions of Machine/Ops.lean keep (Laws/Keep.lean). -/

namespace Sys2Proof.Machine

open Sys2Proof

/-- What `State.draw` keeps. -/
theorem State.draw_keep {s0 s : State} (h : Keep s0 s) : Keep s0 (State.draw s).2 :=
  ⟨h.pend, Nat.le_trans h.free (Nat.le_succ _), h.mem, h.scratch, h.poison, h.rings, h.log⟩

/-- What the answer of `State.draw` keeps. -/
theorem State.draw_keep' {s0 t s : State} {x} (e : State.draw s = (x, t)) (h : Keep s0 s) : Keep s0 t := by
  have := State.draw_keep h
  rwa [e] at this

/-- What `State.drawBytes` keeps. -/
theorem State.drawBytes_keep {s0 s : State} {n} (h : Keep s0 s) : Keep s0 (State.drawBytes s n).2 :=
  ⟨h.pend, Nat.le_trans h.free (Nat.le_add_right _ _), h.mem, h.scratch, h.poison, h.rings, h.log⟩

/-- What the answer of `State.drawBytes` keeps. -/
theorem State.drawBytes_keep' {s0 t s : State} {n} {x} (e : State.drawBytes s n = (x, t)) (h : Keep s0 s) :
    Keep s0 t := by
  have := State.drawBytes_keep (n := n) h
  rwa [e] at this

/-- What `State.pick` keeps. -/
theorem State.pick_keep {s0 s : State} {used lo n} (h : Keep s0 s) : Keep s0 (State.pick s used lo n).2 := by
  unfold State.pick
  dsimp only
  split <;> exact State.draw_keep h

/-- What the answer of `State.pick` keeps. -/
theorem State.pick_keep' {s0 t s : State} {used lo n} {x} (e : State.pick s used lo n = (x, t)) (h : Keep s0 s) :
    Keep s0 t := by
  have := State.pick_keep (used := used) (lo := lo) (n := n) h
  rwa [e] at this

/-- What `State.setFn` keeps. -/
theorem State.setFn_keep {zz s : State} {f v} (kp : Keep zz s) :
    Keep zz (State.setFn s f v) := by
  unfold State.setFn
  repeat' first
    | with_reducible assumption
    | simp only [keep_mk]

/-- What `State.modFn` keeps. -/
theorem State.modFn_keep {zz s : State} {f g} (kp : Keep zz s) :
    Keep zz (State.modFn s f g) := by
  unfold State.modFn
  repeat' first
    | with_reducible assumption
    | with_reducible refine State.setFn_keep ?_

/-- A ring's bounds, read through its accessor. -/
theorem ring_bounded {s : State} (h : ∀ e ∈ s.rings, e.2.bounded) (r : Nat) : (s.ring r).bounded := by
  unfold State.ring tgetD
  cases e : tget s.rings r with
  | none => exact ⟨Nat.zero_le _, Nat.zero_le _⟩
  | some v => exact h _ (mem_of_tget e)

/-- What `State.setRing` keeps. -/
theorem State.setRing_keep {s0 s : State} {r : Nat} {v : Ring} (hv : (∀ e ∈ s.rings, e.2.bounded) → v.bounded)
    (h : Keep s0 s) : Keep s0 (State.setRing s r v) :=
  ⟨h.pend, h.free, h.mem, h.scratch, h.poison, fun i e he => by
    rcases mem_tputD he with ⟨rfl, -⟩ | he
    · exact hv (h.rings i)
    · exact h.rings i e he, h.log⟩

/-- What `State.modRing` keeps. -/
theorem State.modRing_keep {s0 s : State} {r : Nat} {g : Ring → Ring} (hg : ∀ x : Ring, x.bounded → (g x).bounded)
    (h : Keep s0 s) : Keep s0 (State.modRing s r g) :=
  State.setRing_keep (fun i => hg _ (ring_bounded i r)) h

/-- What `State.setTeam` keeps. -/
theorem State.setTeam_keep {zz s : State} {l v} (kp : Keep zz s) :
    Keep zz (State.setTeam s l v) := by
  unfold State.setTeam
  repeat' first
    | with_reducible assumption
    | simp only [keep_mk]

/-- What `State.modTeam` keeps. -/
theorem State.modTeam_keep {zz s : State} {l g} (kp : Keep zz s) :
    Keep zz (State.modTeam s l g) := by
  unfold State.modTeam
  repeat' first
    | with_reducible assumption
    | with_reducible refine State.setTeam_keep ?_

/-- What `State.modPaddock` keeps. -/
theorem State.modPaddock_keep {zz s : State} {p g} (kp : Keep zz s) :
    Keep zz (State.modPaddock s p g) := by
  unfold State.modPaddock
  repeat' first
    | with_reducible assumption
    | simp only [keep_mk]

/-- What `State.storeSettled` keeps. -/
theorem State.storeSettled_keep {zz s : State} {r} (kp : Keep zz s) :
    Keep zz (State.storeSettled s r) := by
  unfold State.storeSettled
  repeat' first
    | with_reducible assumption
    | simp only [keep_mk]
    | with_reducible refine State.modRing_keep (fun _ hb => ?_) ?_
    | exact hb
    | with_reducible refine State.modFn_keep ?_
    | with_reducible refine keep_ite (fun _ => ?_) (fun _ => ?_)

/-- What `State.writeCq` keeps, where the ring has room. -/
theorem State.writeCq_keep {s0 s : State} {r i} (hw : (s.ring r).written < 256) (h : Keep s0 s) :
    Keep s0 (State.writeCq s r i) := by
  unfold State.writeCq
  dsimp only
  simp only [keep_mk]
  refine State.modFn_keep (State.setRing_keep (fun i => ?_) h)
  exact ⟨hw, (ring_bounded i r).2⟩

/-- What `State.writeLoop` keeps. -/
theorem State.writeLoop_keep {s0 s : State} {r is} (h : Keep s0 s) : Keep s0 (State.writeLoop r is s) := by
  induction is generalizing s with
  | nil => exact State.modRing_keep (fun _ hb => hb) h
  | cons i is ih =>
    unfold State.writeLoop
    split
    · exact ih h
    · split
      · exact State.modRing_keep (fun _ hb => hb) h
      · split
        · exact State.modRing_keep (fun _ hb => hb) h
        · exact ih (State.writeCq_keep (by omega) h)

/-- What `State.flush` keeps. -/
theorem State.flush_keep {zz s : State} {r} (kp : Keep zz s) :
    Keep zz (State.flush s r) := by
  unfold State.flush
  repeat' first
    | with_reducible assumption
    | simp only [keep_mk]
    | with_reducible refine State.storeSettled_keep ?_
    | with_reducible refine State.writeLoop_keep ?_

/-- What `State.finishItem` keeps. -/
theorem State.finishItem_keep {zz s : State} {r ser st res det hw} (kp : Keep zz s) :
    Keep zz (State.finishItem s r ser st res det hw) := by
  unfold State.finishItem
  repeat' first
    | with_reducible assumption
    | with_reducible refine State.modRing_keep (fun _ hb => ?_) ?_
    | exact hb
    | with_reducible refine State.flush_keep ?_

/-- What `State.complete` keeps. -/
theorem State.complete_keep {zz s : State} {w st res det} (kp : Keep zz s) :
    Keep zz (State.complete s w st res det) := by
  unfold State.complete
  repeat' first
    | with_reducible assumption
    | simp only [keep_mk]
    | with_reducible refine State.finishItem_keep ?_
    | with_reducible refine State.modRing_keep (fun _ hb => ?_) ?_
    | exact hb
    | split

/-- What `State.completeAll` keeps. -/
theorem State.completeAll_keep {zz s : State} {ws st} (kp : Keep zz s) :
    Keep zz (State.completeAll s ws st) := by
  unfold State.completeAll
  repeat' first
    | with_reducible assumption
    | with_reducible refine State.complete_keep ?_
    | with_reducible refine keep_foldl (fun _ _ _ => ?_) ?_

/-- What `State.progress` keeps. -/
theorem State.progress_keep {zz s : State} {w p} (kp : Keep zz s) :
    Keep zz (State.progress s w p) := by
  unfold State.progress
  repeat' first
    | with_reducible assumption
    | simp only [keep_mk]

/-- What `State.wait` keeps. -/
theorem State.wait_keep {zz s : State} {w k} (kp : Keep zz s) :
    Keep zz (State.wait s w k) := by
  unfold State.wait
  repeat' first
    | with_reducible assumption
    | simp only [keep_mk]

/-- What `State.setByte` keeps. -/
theorem State.setByte_keep {s0 s : State} {a b} (h : Keep s0 s) : Keep s0 (State.setByte s a b) :=
  ⟨h.pend, h.free, fun i => by
    unfold State.setByte
    dsimp only
    split
    · exact h.mem i
    · exact wf_put _ _ (h.mem i), h.scratch, h.poison, h.rings, h.log⟩

/-- What `State.poisonSector` keeps. -/
theorem State.poisonSector_keep {s0 s : State} {a} (h : Keep s0 s) : Keep s0 (State.poisonSector s a) :=
  ⟨h.pend, h.free, h.mem, h.scratch, fun i => insNat_rising (h.poison i), h.rings, h.log⟩

/-- A set to which elements are added one by one stays rising. -/
theorem insNats_rising (k : Nat) (is : List Nat) {l : List Nat} (h : rising l = true) :
    rising (is.foldl (fun l i => insNat (k + i) l) l) = true := by
  induction is generalizing l with
  | nil => exact h
  | cons i is ih => exact ih (insNat_rising h)

/-- What `State.poisonLine` keeps. -/
theorem State.poisonLine_keep {s0 s : State} {a} (h : Keep s0 s) : Keep s0 (State.poisonLine s a) :=
  ⟨h.pend, h.free, h.mem, h.scratch, fun i => insNats_rising _ _ (h.poison i), h.rings, h.log⟩

/-- What `State.clearLine` keeps. -/
theorem State.clearLine_keep {s0 s : State} {a} (h : Keep s0 s) : Keep s0 (State.clearLine s a) :=
  ⟨h.pend, h.free, h.mem, h.scratch, fun i => filter_rising (h.poison i), h.rings, h.log⟩

/-- What `State.clearSector` keeps. -/
theorem State.clearSector_keep {s0 s : State} {a} (h : Keep s0 s) : Keep s0 (State.clearSector s a) :=
  ⟨h.pend, h.free, h.mem, h.scratch, fun i => filter_rising (h.poison i), h.rings, h.log⟩

/-- What `State.putBytes` keeps. -/
theorem State.putBytes_keep {s0 s : State} {a bs} (h : Keep s0 s) : Keep s0 (State.putBytes s a bs) := by
  induction bs generalizing s a with
  | nil => exact h
  | cons b bs ih => exact ih (State.setByte_keep h)

/-- What `State.markDirty` keeps. -/
theorem State.markDirty_keep {zz s : State} {a n} (kp : Keep zz s) :
    Keep zz (State.markDirty s a n) := by
  unfold State.markDirty
  repeat' first
    | with_reducible assumption
    | simp only [keep_mk]
    | with_reducible refine keep_ite (fun _ => ?_) (fun _ => ?_)

/-- What `State.store` keeps. -/
theorem State.store_keep {zz s : State} {a bs} (kp : Keep zz s) :
    Keep zz (State.store s a bs) := by
  unfold State.store
  repeat' first
    | with_reducible assumption
    | simp only [keep_mk]
    | with_reducible refine State.putBytes_keep ?_
    | with_reducible refine State.markDirty_keep ?_
    | with_reducible refine State.clearLine_keep ?_
    | with_reducible refine State.clearSector_keep ?_
    | with_reducible refine keep_ite (fun _ => ?_) (fun _ => ?_)
    | with_reducible refine keep_foldl (fun _ _ _ => ?_) ?_
    | dsimp only
    | split

/-- What `State.storePoisoned` keeps. -/
theorem State.storePoisoned_keep {zz s : State} {a bs} (kp : Keep zz s) :
    Keep zz (State.storePoisoned s a bs) := by
  unfold State.storePoisoned
  repeat' first
    | with_reducible assumption
    | with_reducible refine State.markDirty_keep ?_
    | with_reducible refine State.poisonLine_keep ?_
    | with_reducible refine State.putBytes_keep ?_
    | with_reducible refine keep_foldl (fun _ _ _ => ?_) ?_

/-- What `State.storeP` keeps. -/
theorem State.storeP_keep {zz s : State} {p a bs} (kp : Keep zz s) :
    Keep zz (State.storeP s p a bs) := by
  unfold State.storeP
  repeat' first
    | with_reducible assumption
    | with_reducible refine State.storePoisoned_keep ?_
    | with_reducible refine State.store_keep ?_
    | with_reducible refine keep_ite (fun _ => ?_) (fun _ => ?_)

/-- What `State.storeLines` keeps. -/
theorem State.storeLines_keep {zz s : State} {a bs poison} (kp : Keep zz s) :
    Keep zz (State.storeLines s a bs poison) := by
  unfold State.storeLines
  repeat' first
    | with_reducible assumption
    | simp only [keep_mk]
    | with_reducible refine State.storeP_keep ?_
    | with_reducible refine keep_foldl (fun _ _ _ => ?_) ?_
    | dsimp only
    | split

/-- What `State.copy` keeps. -/
theorem State.copy_keep {zz s : State} {src dst n} (kp : Keep zz s) :
    Keep zz (State.copy s src dst n) := by
  unfold State.copy
  repeat' first
    | with_reducible assumption
    | simp only [keep_mk]
    | with_reducible refine State.storeP_keep ?_
    | with_reducible refine keep_foldl (fun _ _ _ => ?_) ?_

/-- What `State.carry` keeps. -/
theorem State.carry_keep {zz s : State} {src dst n} (kp : Keep zz s) :
    Keep zz (State.carry s src dst n) := by
  unfold State.carry
  repeat' first
    | with_reducible assumption
    | simp only [keep_mk]
    | with_reducible refine State.copy_keep ?_
    | with_reducible refine keep_foldl (fun _ _ _ => ?_) ?_
    | dsimp only
    | split

/-- What `State.landIn` keeps. -/
theorem State.landIn_keep {zz s : State} {a len bs poison} (kp : Keep zz s) :
    Keep zz (State.landIn s a len bs poison).1 := by
  unfold State.landIn
  repeat' first
    | with_reducible assumption
    | simp only [keep_mk]
    | with_reducible refine State.storeLines_keep ?_
    | dsimp only
    | split

/-- What the answer of `State.landIn` keeps. -/
theorem State.landIn_keep' {zz tk s : State} {a len bs poison} {xk} (ek : State.landIn s a len bs poison = (tk, xk))
    (kp : Keep zz s) : Keep zz tk := by
  have := State.landIn_keep (kp) (a := a) (len := len) (bs := bs) (poison := poison)
  rwa [ek] at this

/-- What `State.zeroKeys` keeps. -/
theorem State.zeroKeys_keep {s0 s : State} {lo n} (h : Keep s0 s) : Keep s0 (State.zeroKeys s lo n) :=
  ⟨h.pend, h.free, fun i => wf_filter _ (h.mem i), h.scratch, fun i => filter_rising (h.poison i), h.rings, h.log⟩

/-- What `State.hostWrite` keeps. -/
theorem State.hostWrite_keep {zz s : State} {fn a bs p} (kp : Keep zz s) :
    Keep zz (State.hostWrite s fn a bs p) := by
  unfold State.hostWrite
  repeat' first
    | with_reducible assumption
    | simp only [keep_mk]

/-- What `State.writeLoc` keeps. -/
theorem State.writeLoc_keep {zz s : State} {fn l bs p} (kp : Keep zz s) :
    Keep zz (State.writeLoc s fn l bs p) := by
  unfold State.writeLoc
  repeat' first
    | with_reducible assumption
    | with_reducible refine State.storeP_keep ?_
    | with_reducible refine State.hostWrite_keep ?_
    | split

/-- What `State.writeBuf` keeps. -/
theorem State.writeBuf_keep {zz tk s : State} {c a bs} (ek : State.writeBuf s c a bs = .ok tk)
    (kp : Keep zz s) : Keep zz tk := by
  revert ek
  suffices KeepE zz (State.writeBuf s c a bs) from this tk
  unfold State.writeBuf
  repeat' first
    | with_reducible assumption
    | with_reducible refine keepE_ok ?_
    | with_reducible refine State.writeLoc_keep ?_
    | with_reducible refine keepE_bind (fun _ _ => ?_)

/-- What `State.wakeWaits` keeps. -/
theorem State.wakeWaits_keep {zz s : State} {e} (kp : Keep zz s) :
    Keep zz (State.wakeWaits s e) := by
  unfold State.wakeWaits
  repeat' first
    | with_reducible assumption
    | simp only [keep_mk]
    | with_reducible refine State.store_keep ?_
    | with_reducible refine State.hostWrite_keep ?_
    | with_reducible refine State.complete_keep ?_
    | with_reducible refine keep_ite (fun _ => ?_) (fun _ => ?_)
    | with_reducible refine keep_foldl (fun _ _ _ => ?_) ?_
    | split

/-- What `State.logWith` keeps. -/
theorem State.logWith_keep {s0 s : State} {ty alert pad st src w det} (h : Keep s0 s) :
    Keep s0 (State.logWith s ty alert pad st src w det) := by
  unfold State.logWith
  extract_lets sec cnt lg e new
  split
  · exact ⟨h.pend, h.free, h.mem, h.scratch, h.poison, h.rings, h.log⟩
  · refine State.wakeWaits_keep ⟨h.pend, h.free, h.mem, h.scratch, h.poison, h.rings, fun i => ?_⟩
    have := h.log i
    have hn : new.length = s.log.entries.length + 1 := by simp [new]
    show (if 65536 < new.length then new.drop 1 else new).length ≤ 65536
    split
    · rw [List.length_drop]
      omega
    · omega

/-- What `State.logEv` keeps. -/
theorem State.logEv_keep {zz s : State} {ty pad st src w det} (kp : Keep zz s) :
    Keep zz (State.logEv s ty pad st src w det) := by
  unfold State.logEv
  repeat' first
    | with_reducible assumption
    | with_reducible refine State.logWith_keep ?_

/-- What `State.reason` keeps. -/
theorem State.reason_keep {zz s : State} {c r} (kp : Keep zz s) :
    Keep zz (State.reason s c r) := by
  unfold State.reason
  repeat' first
    | with_reducible assumption
    | with_reducible refine State.logEv_keep ?_

/-- What `State.checkDegraded` keeps. -/
theorem State.checkDegraded_keep {zz s : State} (kp : Keep zz s) :
    Keep zz (State.checkDegraded s) := by
  unfold State.checkDegraded
  repeat' first
    | with_reducible assumption
    | simp only [keep_mk]
    | with_reducible refine State.refreshDegraded_keep ?_
    | with_reducible refine State.logWith_keep ?_
    | with_reducible refine keep_ite (fun _ => ?_) (fun _ => ?_)

/-- What `State.countViolation` keeps. -/
theorem State.countViolation_keep {zz s : State} {r n} (kp : Keep zz s) :
    Keep zz (State.countViolation s r n) := by
  unfold State.countViolation
  repeat' first
    | with_reducible assumption
    | simp only [keep_mk]
    | with_reducible refine State.logEv_keep ?_
    | with_reducible refine State.modRing_keep (fun _ hb => ?_) ?_
    | exact hb
    | with_reducible refine State.modFn_keep ?_
    | with_reducible refine keep_ite (fun _ => ?_) (fun _ => ?_)

/-- What `State.answerViolation` keeps. -/
theorem State.answerViolation_keep {s0 s : State} {r n} (h : Keep s0 s) : Keep s0 (State.answerViolation s r n) := by
  unfold State.answerViolation
  dsimp only
  split
  · exact h
  · rename_i hc
    refine State.flush_keep ?_
    simp only [keep_mk]
    refine State.setRing_keep (fun i => ?_) h
    have := ring_bounded i r
    exact ⟨this.1, by show _ + 1 ≤ 256; omega⟩

/-- What `State.markDispatched` keeps. -/
theorem State.markDispatched_keep {zz s : State} {w} (kp : Keep zz s) :
    Keep zz (State.markDispatched s w) := by
  unfold State.markDispatched
  repeat' first
    | with_reducible assumption
    | simp only [keep_mk]

/-- What `State.ended` keeps. -/
theorem State.ended_keep {s0 s : State} {w} {r : Except Err State} (hr : KeepE s0 r) (h : Keep s0 s) :
    Keep s0 (State.ended s w r) := by
  unfold State.ended
  split
  · exact hr _ rfl
  · exact State.complete_keep h

/-- What `State.dispatch` keeps. -/
theorem State.dispatch_keep {s0 s : State} {op w hm} {body : Cmd → State → Except Err State}
    (hb : ∀ c t, Keep s0 t → KeepE s0 (body c t)) (h : Keep s0 s) : Keep s0 (State.dispatch s op w hm body) := by
  unfold State.dispatch
  split
  · exact h
  · dsimp only
    split
    · exact State.complete_keep (State.markDispatched_keep h)
    · exact State.ended_keep (hb _ _ (State.markDispatched_keep h)) (State.markDispatched_keep h)

/-- What `State.ok` keeps. -/
theorem State.ok_keep {zz s : State} {c res det} (kp : Keep zz s) :
    Keep zz (State.ok s c res det) := by
  unfold State.ok
  repeat' first
    | with_reducible assumption
    | with_reducible refine State.complete_keep ?_

end Sys2Proof.Machine
end

