-- ==== Sys2Proof/Laws/KeepMemOps.lean ====
section
/-! SUPPORT. What the definitions of Machine/MemOps.lean keep (Laws/Keep.lean). -/

namespace Sys2Proof.Machine

open Sys2Proof

/-- What `State.cycleBlocks` keeps. -/
theorem State.cycleBlocks_keep {zz s : State} {ps} (kp : Keep zz s) :
    Keep zz (State.cycleBlocks s ps).1 := by
  unfold State.cycleBlocks
  repeat' first
    | with_reducible assumption
    | simp only [keep_mk]
    | with_reducible refine State.logWith_keep ?_
    | with_reducible refine keep_foldl1 (fun _ _ _ => ?_) ?_
    | split

/-- What the answer of `State.cycleBlocks` keeps. -/
theorem State.cycleBlocks_keep' {zz tk s : State} {ps} {xk} (ek : State.cycleBlocks s ps = (tk, xk))
    (kp : Keep zz s) : Keep zz tk := by
  have := State.cycleBlocks_keep (kp) (ps := ps)
  rwa [ek] at this

/-- What `State.basinPlace` keeps. -/
theorem State.basinPlace_keep {zz s : State} {near q len} (kp : Keep zz s) :
    Keep zz (State.basinPlace s near q len).2 := by
  unfold State.basinPlace
  repeat' first
    | with_reducible assumption
    | simp only [keep_mk]
    | with_reducible refine State.draw_keep ?_
    | split

/-- What the answer of `State.basinPlace` keeps. -/
theorem State.basinPlace_keep' {zz tk s : State} {near q len} {xk} (ek : State.basinPlace s near q len = (xk, tk))
    (kp : Keep zz s) : Keep zz tk := by
  have := State.basinPlace_keep (kp) (near := near) (q := q) (len := len)
  rwa [ek] at this

/-- What `State.tierPlace` keeps. -/
theorem State.tierPlace_keep {zz s : State} {tier owner page len} (kp : Keep zz s) :
    Keep zz (State.tierPlace s tier owner page len).2 := by
  unfold State.tierPlace
  repeat' first
    | with_reducible assumption
    | simp only [keep_mk]
    | with_reducible refine State.draw_keep ?_

/-- What the answer of `State.tierPlace` keeps. -/
theorem State.tierPlace_keep' {zz tk s : State} {tier owner page len} {xk} (ek : State.tierPlace s tier owner page len = (xk, tk))
    (kp : Keep zz s) : Keep zz tk := by
  have := State.tierPlace_keep (kp) (tier := tier) (owner := owner) (page := page) (len := len)
  rwa [ek] at this

/-- What `State.allocTier` keeps. -/
theorem State.allocTier_keep {s0 t s : State} {r page len pages l} {x}
    (e : State.allocTier s r page len pages l = .ok (x, t)) (h : Keep s0 s) : Keep s0 t := by
  suffices KeepP s0 (fun a => a.2) (State.allocTier s r page len pages l) from this _ e
  unfold State.allocTier
  have hb := State.basinPlace_keep (near := r.near) (q := r.die) (len := len) h
  have hh := State.tierPlace_keep (tier := .hbm) (owner := r.owner) (page := page) (len := len) h
  have hn := State.tierPlace_keep (tier := .nvw) (owner := r.owner) (page := page) (len := len) h
  have hp := State.tierPlace_keep (tier := .park) (owner := r.owner) (page := page) (len := len) h
  generalize State.basinPlace s r.near r.die len = pb at hb ⊢
  generalize State.tierPlace s .hbm r.owner page len = ph at hh ⊢
  generalize State.tierPlace s .nvw r.owner page len = pn at hn ⊢
  generalize State.tierPlace s .park r.owner page len = pp at hp ⊢
  generalize s.nvwPlan r.near r.die pages = qn
  generalize (if s.hbmHeld r.near r.die then none else s.hbm.plan r.near r.die pages) = qh
  generalize s.parkPlan pages = qp
  cases r.tier
  · rcases qh with _ | ps
    · exact keepP_fail
    · rcases ph with ⟨_ | a, s'⟩
      · exact keepP_fail
      · exact keepP_ok (cast keep_mk.symm hh)
  · rcases pb with ⟨_ | a, s'⟩
    · exact keepP_fail
    · exact keepP_ok (cast keep_mk.symm hb)
  · rcases qn with _ | ps
    · exact keepP_fail
    · rcases pn with ⟨_ | a, s'⟩
      · exact keepP_fail
      · exact keepP_ok (cast keep_mk.symm hn)
  · dsimp only
    split
    · exact keepP_fail
    · rcases qp with _ | ⟨ps, ds⟩
      · exact keepP_fail
      · rcases pp with ⟨_ | a, s'⟩
        · exact keepP_fail
        · exact keepP_ok (cast keep_mk.symm hp)

/-- What `State.allocate` keeps. -/
theorem State.allocate_keep {zz tk s : State} {r} {xk} (ek : State.allocate s r = .ok (xk, tk))
    (kp : Keep zz s) : Keep zz tk := by
  suffices KeepP zz (fun a => a.2) (State.allocate s r) from this _ ek
  unfold State.allocate
  repeat' first
    | with_reducible assumption
    | simp only [keep_mk]
    | exact keepP_error
    | refine fun _ e => State.allocTier_keep e ?_
    | with_reducible refine keepP_ite (fun _ => ?_) (fun _ => ?_)

/-- What `State.wipe` keeps. -/
theorem State.wipe_keep {s0 s : State} {a l} (h : Keep s0 s) : Keep s0 (State.wipe s a l) :=
  ⟨h.pend, h.free, fun i => wf_filter _ (h.mem i), h.scratch, fun i => filter_rising (h.poison i), h.rings, h.log⟩

/-- What `State.release` keeps. -/
theorem State.release_keep {zz s : State} {a} (kp : Keep zz s) :
    Keep zz (State.release s a) := by
  unfold State.release
  repeat' first
    | with_reducible assumption
    | simp only [keep_mk]
    | with_reducible refine State.wipe_keep ?_
    | with_reducible refine State.cycleBlocks_keep ?_
    | with_reducible refine keep_ite (fun _ => ?_) (fun _ => ?_)
    | split

/-- What `State.releaseAll` keeps. -/
theorem State.releaseAll_keep {zz s : State} {as} (kp : Keep zz s) :
    Keep zz (State.releaseAll s as) := by
  unfold State.releaseAll
  repeat' first
    | with_reducible assumption
    | with_reducible refine State.release_keep ?_
    | with_reducible refine keep_foldl (fun _ _ _ => ?_) ?_

end Sys2Proof.Machine
end

