-- ==== Sys2Proof/Laws/KeepBasinOps.lean ====
section
/-! SUPPORT. What the definitions of Machine/BasinOps.lean keep (Laws/Keep.lean). -/

namespace Sys2Proof.Machine

open Sys2Proof

/-- What `State.setCtx` keeps. -/
theorem State.setCtx_keep {zz s : State} {k v} (kp : Keep zz s) :
    Keep zz (State.setCtx s k v) := by
  unfold State.setCtx
  repeat' first
    | with_reducible assumption
    | simp only [keep_mk]

/-- What `State.modCtx` keeps. -/
theorem State.modCtx_keep {zz s : State} {k f} (kp : Keep zz s) :
    Keep zz (State.modCtx s k f) := by
  unfold State.modCtx
  repeat' first
    | with_reducible assumption
    | with_reducible refine State.setCtx_keep ?_

/-- What `State.modTask` keeps. -/
theorem State.modTask_keep {zz s : State} {w f} (kp : Keep zz s) :
    Keep zz (State.modTask s w f) := by
  unfold State.modTask
  repeat' first
    | with_reducible assumption
    | simp only [keep_mk]

/-- What `State.setTeamReg` keeps. -/
theorem State.setTeamReg_keep {zz s : State} {w rank reg v} (kp : Keep zz s) :
    Keep zz (State.setTeamReg s w rank reg v) := by
  unfold State.setTeamReg
  repeat' first
    | with_reducible assumption
    | with_reducible refine State.modCtx_keep ?_
    | with_reducible refine keep_foldl (fun _ _ _ => ?_) ?_
    | split

/-- What `State.answer` keeps. -/
theorem State.answer_keep {zz s : State} {w rank reg v} (kp : Keep zz s) :
    Keep zz (State.answer s w rank reg v) := by
  unfold State.answer
  repeat' first
    | with_reducible assumption
    | with_reducible refine State.setTeamReg_keep ?_
    | with_reducible refine keep_ite (fun _ => ?_) (fun _ => ?_)

/-- What `State.refuse` keeps. -/
theorem State.refuse_keep {zz s : State} {w rank reg} (kp : Keep zz s) :
    Keep zz (State.refuse s w rank reg) := by
  unfold State.refuse
  repeat' first
    | with_reducible assumption
    | simp only [keep_mk]
    | with_reducible refine State.answer_keep ?_
    | with_reducible refine State.logEv_keep ?_
    | dsimp only
    | split

/-- What `State.setStream` keeps. -/
theorem State.setStream_keep {zz s : State} {h v} (kp : Keep zz s) :
    Keep zz (State.setStream s h v) := by
  unfold State.setStream
  repeat' first
    | with_reducible assumption
    | simp only [keep_mk]

/-- What `State.modStream` keeps. -/
theorem State.modStream_keep {zz s : State} {h f} (kp : Keep zz s) :
    Keep zz (State.modStream s h f) := by
  unfold State.modStream
  repeat' first
    | with_reducible assumption
    | simp only [keep_mk]

/-- What `State.barrierTry` keeps. -/
theorem State.barrierTry_keep {s0 s : State} {h n} (kp : Keep s0 s) : Keep s0 (State.barrierTry h n s) := by
  induction n generalizing s with
  | zero => exact kp
  | succ n ih =>
    unfold State.barrierTry
    split
    · exact kp
    · dsimp only
      split
      · exact kp
      · refine ih (keep_foldl (fun _ _ k => State.complete_keep k) (keep_foldl (fun _ _ k => State.setTeamReg_keep k) ?_))
        simp only [keep_mk]
        split
        · exact keep_foldl (fun _ _ k => State.modStream_keep k) kp
        · exact kp

/-- What `State.arrive` keeps. -/
theorem State.arrive_keep {zz s : State} {h} (kp : Keep zz s) :
    Keep zz (State.arrive s h) := by
  unfold State.arrive
  repeat' first
    | with_reducible assumption
    | simp only [keep_mk]
    | with_reducible refine State.barrierTry_keep ?_
    | split

/-- What `State.drainChanged` keeps. -/
theorem State.drainChanged_keep {zz s : State} {h} (kp : Keep zz s) :
    Keep zz (State.drainChanged s h) := by
  unfold State.drainChanged
  repeat' first
    | with_reducible assumption
    | with_reducible refine State.barrierTry_keep ?_
    | with_reducible refine keep_foldl (fun _ _ _ => ?_) ?_

/-- What `State.endChanged` keeps. -/
theorem State.endChanged_keep {zz s : State} {h} (kp : Keep zz s) :
    Keep zz (State.endChanged s h) := by
  unfold State.endChanged
  repeat' first
    | with_reducible assumption
    | simp only [keep_mk]
    | with_reducible refine State.completeAll_keep ?_
    | with_reducible refine State.modStream_keep ?_
    | with_reducible refine State.arrive_keep ?_
    | with_reducible refine State.drainChanged_keep ?_
    | with_reducible refine keep_ite (fun _ => ?_) (fun _ => ?_)
    | dsimp only
    | split

/-- What `State.deliver` keeps. -/
theorem State.deliver_keep {zz s : State} {h c n} (kp : Keep zz s) :
    Keep zz (State.deliver s h c n).1 := by
  unfold State.deliver
  repeat' first
    | with_reducible assumption
    | simp only [keep_mk]
    | with_reducible refine State.setStream_keep ?_
    | with_reducible refine State.logEv_keep ?_
    | with_reducible refine State.endChanged_keep ?_
    | with_reducible refine keep_ite (fun _ => ?_) (fun _ => ?_)
    | split

/-- What the answer of `State.deliver` keeps. -/
theorem State.deliver_keep' {zz tk s : State} {h c n} {xk} (ek : State.deliver s h c n = (tk, xk))
    (kp : Keep zz s) : Keep zz tk := by
  have := State.deliver_keep (kp) (h := h) (c := c) (n := n)
  rwa [ek] at this

/-- What `State.abortStream` keeps. -/
theorem State.abortStream_keep {zz s : State} {h} (kp : Keep zz s) :
    Keep zz (State.abortStream s h) := by
  unfold State.abortStream
  repeat' first
    | with_reducible assumption
    | simp only [keep_mk]
    | with_reducible refine State.refuse_keep ?_
    | with_reducible refine State.setStream_keep ?_
    | with_reducible refine State.endChanged_keep ?_
    | with_reducible refine keep_ite (fun _ => ?_) (fun _ => ?_)
    | with_reducible refine keep_foldl (fun _ _ _ => ?_) ?_
    | dsimp only
    | split

/-- What `State.closeStream` keeps. -/
theorem State.closeStream_keep {zz s : State} {h} (kp : Keep zz s) :
    Keep zz (State.closeStream s h) := by
  unfold State.closeStream
  repeat' first
    | with_reducible assumption
    | with_reducible refine State.modStream_keep ?_
    | with_reducible refine State.endChanged_keep ?_

/-- What `State.freeStream` keeps. -/
theorem State.freeStream_keep {zz s : State} {h} (kp : Keep zz s) :
    Keep zz (State.freeStream s h) := by
  unfold State.freeStream
  repeat' first
    | with_reducible assumption
    | simp only [keep_mk]
    | with_reducible refine State.answer_keep ?_
    | with_reducible refine State.barrierTry_keep ?_
    | with_reducible refine keep_ite (fun _ => ?_) (fun _ => ?_)
    | with_reducible refine keep_foldl (fun _ _ _ => ?_) ?_
    | dsimp only
    | split

/-- What `State.resetEnd` keeps. -/
theorem State.resetEnd_keep {zz s : State} {isEnd} (kp : Keep zz s) :
    Keep zz (State.resetEnd s isEnd) := by
  unfold State.resetEnd
  repeat' first
    | with_reducible assumption
    | simp only [keep_mk]
    | with_reducible refine State.modStream_keep ?_
    | with_reducible refine State.abortStream_keep ?_
    | with_reducible refine State.endChanged_keep ?_
    | with_reducible refine keep_ite (fun _ => ?_) (fun _ => ?_)
    | with_reducible refine keep_foldl (fun _ _ _ => ?_) ?_

/-- What `State.modBind` keeps. -/
theorem State.modBind_keep {zz s : State} {w f} (kp : Keep zz s) :
    Keep zz (State.modBind s w f) := by
  unfold State.modBind
  repeat' first
    | with_reducible assumption
    | simp only [keep_mk]

/-- What `State.unbind` keeps. -/
theorem State.unbind_keep {zz s : State} {b} (kp : Keep zz s) :
    Keep zz (State.unbind s b) := by
  unfold State.unbind
  repeat' first
    | with_reducible assumption
    | simp only [keep_mk]
    | with_reducible refine State.modStream_keep ?_

/-- What `State.endBind` keeps. -/
theorem State.endBind_keep {zz s : State} {b} (kp : Keep zz s) :
    Keep zz (State.endBind s b) := by
  unfold State.endBind
  repeat' first
    | with_reducible assumption
    | simp only [keep_mk]
    | with_reducible refine State.closeStream_keep ?_
    | with_reducible refine State.arrive_keep ?_
    | with_reducible refine State.unbind_keep ?_
    | with_reducible refine State.complete_keep ?_
    | with_reducible refine keep_ite (fun _ => ?_) (fun _ => ?_)

/-- What `State.resetBind` keeps. -/
theorem State.resetBind_keep {zz s : State} {w st} (kp : Keep zz s) :
    Keep zz (State.resetBind s w st) := by
  unfold State.resetBind
  repeat' first
    | with_reducible assumption
    | simp only [keep_mk]
    | with_reducible refine State.complete_keep ?_
    | with_reducible refine State.resetEnd_keep ?_
    | split

/-- What `State.endProg` keeps. -/
theorem State.endProg_keep {zz s : State} {p st} (kp : Keep zz s) :
    Keep zz (State.endProg s p st) := by
  unfold State.endProg
  repeat' first
    | with_reducible assumption
    | simp only [keep_mk]
    | with_reducible refine State.modStream_keep ?_
    | with_reducible refine State.complete_keep ?_
    | with_reducible refine keep_ite (fun _ => ?_) (fun _ => ?_)

/-- What `State.resetProg` keeps. -/
theorem State.resetProg_keep {zz s : State} {p st} (kp : Keep zz s) :
    Keep zz (State.resetProg s p st) := by
  unfold State.resetProg
  repeat' first
    | with_reducible assumption
    | simp only [keep_mk]
    | with_reducible refine State.resetEnd_keep ?_
    | with_reducible refine State.endProg_keep ?_
    | dsimp only
    | split

/-- What `State.commitSlot` keeps. -/
theorem State.commitSlot_keep {zz s : State} {h t lines} (kp : Keep zz s) :
    Keep zz (State.commitSlot s h t lines) := by
  unfold State.commitSlot
  repeat' first
    | with_reducible assumption
    | simp only [keep_mk]
    | with_reducible refine State.storeP_keep ?_
    | with_reducible refine State.setStream_keep ?_
    | with_reducible refine keep_foldl (fun _ _ _ => ?_) ?_
    | split

/-- What `State.destroyBarrier` keeps. -/
theorem State.destroyBarrier_keep {zz s : State} {h b} (kp : Keep zz s) :
    Keep zz (State.destroyBarrier s h b) := by
  unfold State.destroyBarrier
  repeat' first
    | with_reducible assumption
    | simp only [keep_mk]
    | with_reducible refine State.setTeamReg_keep ?_
    | with_reducible refine State.completeAll_keep ?_
    | with_reducible refine keep_foldl (fun _ _ _ => ?_) ?_

end Sys2Proof.Machine
end

