-- ==== Sys2Proof/Laws/KeepTaskOps.lean ====
section
/-! SUPPORT. What the definitions of Machine/TaskOps.lean keep (Laws/Keep.lean). -/

namespace Sys2Proof.Machine

open Sys2Proof

/-- What `State.clearCtx` keeps. -/
theorem State.clearCtx_keep {zz s : State} {l c} (kp : Keep zz s) :
    Keep zz (State.clearCtx s l c) := by
  unfold State.clearCtx
  repeat' first
    | with_reducible assumption
    | simp only [keep_mk]

/-- What `State.occupy` keeps. -/
theorem State.occupy_keep {zz s : State} {w ts c off win} (kp : Keep zz s) :
    Keep zz (State.occupy s w ts c off win) := by
  unfold State.occupy
  repeat' first
    | with_reducible assumption
    | with_reducible refine State.modTeam_keep ?_
    | with_reducible refine keep_foldl (fun _ _ _ => ?_) ?_

/-- What `State.gather` keeps. -/
theorem State.gather_keep {zz s : State} {w t} (kp : Keep zz s) :
    Keep zz (State.gather s w t) := by
  unfold State.gather
  repeat' first
    | with_reducible assumption
    | simp only [keep_mk]
    | with_reducible refine State.modTeam_keep ?_
    | with_reducible refine State.modTask_keep ?_
    | with_reducible refine keep_foldl (fun _ _ _ => ?_) ?_

/-- What `State.emptyArray` keeps. -/
theorem State.emptyArray_keep {zz s : State} {l} (kp : Keep zz s) :
    Keep zz (State.emptyArray s l) := by
  unfold State.emptyArray
  repeat' first
    | with_reducible assumption
    | simp only [keep_mk]
    | with_reducible refine State.modTeam_keep ?_
    | with_reducible refine keep_foldl (fun _ _ _ => ?_) ?_

/-- What `State.shelve` keeps. -/
theorem State.shelve_keep {zz s : State} {l c} (kp : Keep zz s) :
    Keep zz (State.shelve s l c) := by
  unfold State.shelve
  repeat' first
    | with_reducible assumption
    | simp only [keep_mk]
    | with_reducible refine State.modTeam_keep ?_
    | with_reducible refine State.emptyArray_keep ?_
    | with_reducible refine keep_ite (fun _ => ?_) (fun _ => ?_)

/-- What `State.unshelve` keeps. -/
theorem State.unshelve_keep {zz s : State} {l c} (kp : Keep zz s) :
    Keep zz (State.unshelve s l c) := by
  unfold State.unshelve
  repeat' first
    | with_reducible assumption
    | simp only [keep_mk]
    | with_reducible refine State.modTeam_keep ?_
    | with_reducible refine keep_foldl (fun _ _ _ => ?_) ?_
    | dsimp only
    | split

/-- What `State.vacate` keeps. -/
theorem State.vacate_keep {zz s : State} {w t} (kp : Keep zz s) :
    Keep zz (State.vacate s w t) := by
  unfold State.vacate
  repeat' first
    | with_reducible assumption
    | simp only [keep_mk]
    | with_reducible refine State.emptyArray_keep ?_
    | with_reducible refine State.modTeam_keep ?_
    | with_reducible refine State.clearCtx_keep ?_
    | with_reducible refine keep_ite (fun _ => ?_) (fun _ => ?_)
    | with_reducible refine keep_foldl (fun _ _ _ => ?_) ?_
    | dsimp only
    | split

/-- What `State.writeSave` keeps. -/
theorem State.writeSave_keep {zz s : State} {t k x rank l core} (kp : Keep zz s) :
    Keep zz (State.writeSave s t k x rank l core) := by
  unfold State.writeSave
  repeat' first
    | with_reducible assumption
    | simp only [keep_mk]
    | with_reducible refine State.ctl_keep ?_
    | with_reducible refine State.drawBytes_keep ?_
    | with_reducible refine State.drawBytes_keep' (by assumption) ?_
    | with_reducible refine State.store_keep ?_
    | with_reducible refine keep_ite (fun _ => ?_) (fun _ => ?_)
    | with_reducible refine keep_foldl (fun _ _ _ => ?_) ?_

/-- What `State.saveTask` keeps. -/
theorem State.saveTask_keep {zz s : State} {t k} (kp : Keep zz s) :
    Keep zz (State.saveTask s t k).2 := by
  unfold State.saveTask
  repeat' first
    | with_reducible assumption
    | simp only [keep_mk]
    | with_reducible refine State.writeSave_keep ?_
    | with_reducible refine keep_foldl (fun _ _ _ => ?_) ?_
    | with_reducible refine keep_foldl1 (fun _ _ _ => ?_) ?_
    | with_reducible refine keep_foldl2 (fun _ _ _ => ?_) ?_

/-- What the answer of `State.saveTask` keeps. -/
theorem State.saveTask_keep' {zz tk s : State} {t k} {xk} (ek : State.saveTask s t k = (xk, tk))
    (kp : Keep zz s) : Keep zz tk := by
  have := State.saveTask_keep (kp) (t := t) (k := k)
  rwa [ek] at this

/-- What `State.scramble` keeps. -/
theorem State.scramble_keep {s0 s : State} {key e} (kp : Keep s0 s) : Keep s0 (State.scramble s key e) := by
  unfold State.scramble
  extract_lets n word s1
  have k1 : Keep s s1 := State.modCtx_keep (Keep.refl s)
  have hf : s1.free = s.free := rfl
  have k2 : Keep s { s1 with free := n + 1064 } :=
    ⟨k1.pend, by show s.free ≤ s.free + 1064; omega, k1.mem, k1.scratch, k1.poison, k1.rings, k1.log⟩
  exact kp.trans k2

/-- The bytes that a scratchpad block of free values lists. -/
theorem block_wf {lo n : Nat} {f : Nat → Byte} :
    tsorted ((List.range n).filterMap fun i => if f i = 0#8 then none else some (lo + i, f i)) = true ∧
    ∀ c ∈ ((List.range n).filterMap fun i => if f i = 0#8 then none else some (lo + i, f i)),
      c.2 ≠ 0#8 ∧ lo ≤ c.1 ∧ c.1 < lo + n := by
  constructor
  · rw [tsorted_iff, List.pairwise_filterMap]
    refine List.pairwise_lt_range.imp fun {a b} hab x hx y hy => ?_
    split at hx <;> split at hy <;> simp_all
    rw [← hx, ← hy]
    simpa using hab
  · intro c hc
    obtain ⟨i, hi, h⟩ := List.mem_filterMap.1 hc
    have hn := List.mem_range.1 hi
    by_cases hz : f i = 0#8
    · simp [hz] at h
    · simp only [hz, if_false, Option.some.injEq] at h
      subst h
      exact ⟨hz, Nat.le_add_right _ _, by show lo + i < lo + n; omega⟩

/-- A block in the place of the cells it covers keeps the canonical form. -/
theorem wf_block {m b : List Host.Cell} {lo n : Nat} (h : Memory.wf m = true) (hs : tsorted b = true)
    (hb : ∀ c ∈ b, c.2 ≠ 0#8 ∧ lo ≤ c.1 ∧ c.1 < lo + n) :
    Memory.wf ((m.filter fun c => c.1 < lo) ++ b ++ m.filter fun c => lo + n ≤ c.1) = true := by
  rw [wf_iff] at h ⊢
  refine ⟨?_, fun c hc => ?_⟩
  · rw [tsorted_iff] at hs ⊢
    have hm := (tsorted_iff _).1 h.1
    rw [List.pairwise_append, List.pairwise_append]
    refine ⟨⟨hm.filter _, hs, fun x hx y hy => ?_⟩, hm.filter _, fun x hx y hy => ?_⟩
    · have := (List.mem_filter.1 hx).2
      have := (hb y hy).2.1
      simp only [decide_eq_true_eq] at *
      omega
    · have h2 := (List.mem_filter.1 hy).2
      simp only [decide_eq_true_eq] at h2
      rcases List.mem_append.1 hx with hx | hx
      · have h1 := (List.mem_filter.1 hx).2
        simp only [decide_eq_true_eq] at h1
        omega
      · have := (hb x hx).2.2
        omega
  · rcases List.mem_append.1 hc with hc | hc
    · rcases List.mem_append.1 hc with hc | hc
      · exact h.2 c (List.mem_filter.1 hc).1
      · exact (hb c hc).1
    · exact h.2 c (List.mem_filter.1 hc).1

/-- What `State.scrambleScratch` keeps. -/
theorem State.scrambleScratch_keep {s0 s : State} {lo n} (kp : Keep s0 s) : Keep s0 (State.scrambleScratch s lo n) := by
  unfold State.scrambleScratch
  exact ⟨kp.pend, Nat.le_trans kp.free (Nat.le_add_right _ _), kp.mem,
    fun i => wf_block (kp.scratch i) block_wf.1 block_wf.2, kp.poison, kp.rings, kp.log⟩

/-- What `State.scrambleTask` keeps. -/
theorem State.scrambleTask_keep {zz s : State} {t k} (kp : Keep zz s) :
    Keep zz (State.scrambleTask s t k) := by
  unfold State.scrambleTask
  repeat' first
    | with_reducible assumption
    | simp only [keep_mk]
    | with_reducible refine State.scramble_keep ?_
    | with_reducible refine State.scrambleScratch_keep ?_
    | with_reducible refine keep_foldl (fun _ _ _ => ?_) ?_
    | split

/-- Writing bytes one after another keeps the canonical form. -/
theorem wf_foldl {α : Type} {m : List Host.Cell} {l : List α} {k : α → Nat} {b : α → Byte}
    (h : Memory.wf m = true) : Memory.wf (l.foldl (fun m e => tputD 0#8 m (k e) (b e)) m) = true := by
  induction l generalizing m with
  | nil => exact h
  | cons x l ih => exact ih (wf_put _ _ h)

/-- A change of the scratchpads that keeps their form. -/
theorem keep_scratch {s0 s : State} {m : List Host.Cell} (kp : Keep s0 s)
    (h : Memory.wf s.scratch = true → Memory.wf m = true) : Keep s0 { s with scratch := m } :=
  ⟨kp.pend, kp.free, kp.mem, fun i => h (kp.scratch i), kp.poison, kp.rings, kp.log⟩

/-- What `State.restoreCore` keeps. -/
theorem State.restoreCore_keep {s0 s : State} {t k off cs} (kp : Keep s0 s) :
    Keep s0 (State.restoreCore s t k off cs) := by
  unfold State.restoreCore
  split
  · exact kp
  · rename_i l _
    extract_lets a live s0' s1 accs p s2
    have k0 : Keep s0 s0' := State.setCtx_keep kp
    have k1 : Keep s0 s1 :=
      ⟨k0.pend, k0.free, k0.mem, fun i => wf_foldl (k0.scratch i), k0.poison, k0.rings, k0.log⟩
    split
    · exact k1
    · have k2 : Keep s0 s2 := State.modTeam_keep k1
      exact ⟨k2.pend, k2.free, k2.mem, k2.scratch, k2.poison, k2.rings, k2.log⟩

/-- What `State.reissue` keeps. -/
theorem State.reissue_keep {zz s : State} {w t} (kp : Keep zz s) :
    Keep zz (State.reissue s w t) := by
  unfold State.reissue
  repeat' first
    | with_reducible assumption
    | simp only [keep_mk]
    | with_reducible refine State.modStream_keep ?_
    | with_reducible refine State.refuse_keep ?_
    | with_reducible refine State.setTeamReg_keep ?_
    | with_reducible refine State.modTask_keep ?_
    | with_reducible refine keep_ite (fun _ => ?_) (fun _ => ?_)
    | with_reducible refine keep_foldl (fun _ _ _ => ?_) ?_
    | dsimp only
    | split

/-- What `State.withdraw` keeps. -/
theorem State.withdraw_keep {zz s : State} {w rank} (kp : Keep zz s) :
    Keep zz (State.withdraw s w rank) := by
  unfold State.withdraw
  repeat' first
    | with_reducible assumption
    | simp only [keep_mk]
    | with_reducible refine State.modTask_keep ?_

/-- What `State.requestPreempt` keeps. -/
theorem State.requestPreempt_keep {zz s : State} {w force save waiter} (kp : Keep zz s) :
    Keep zz (State.requestPreempt s w force save waiter) := by
  unfold State.requestPreempt
  repeat' first
    | with_reducible assumption
    | with_reducible refine State.modTask_keep ?_

/-- What `State.urgentCheck` keeps. -/
theorem State.urgentCheck_keep {zz s : State} {p} (kp : Keep zz s) :
    Keep zz (State.urgentCheck s p) := by
  unfold State.urgentCheck
  repeat' first
    | with_reducible assumption
    | simp only [keep_mk]
    | with_reducible refine State.modTask_keep ?_
    | with_reducible refine State.requestPreempt_keep ?_
    | with_reducible refine keep_ite (fun _ => ?_) (fun _ => ?_)
    | with_reducible refine keep_foldl (fun _ _ _ => ?_) ?_
    | split

/-- What `State.releaseTask` keeps. -/
theorem State.releaseTask_keep {zz s : State} {w t stopped} (kp : Keep zz s) :
    Keep zz (State.releaseTask s w t stopped) := by
  unfold State.releaseTask
  repeat' first
    | with_reducible assumption
    | simp only [keep_mk]
    | with_reducible refine State.releaseAll_keep ?_
    | with_reducible refine State.release_keep ?_
    | with_reducible refine State.resetEnd_keep ?_
    | with_reducible refine State.vacate_keep ?_
    | with_reducible refine keep_ite (fun _ => ?_) (fun _ => ?_)

/-- What `State.finishTask` keeps. -/
theorem State.finishTask_keep {zz s : State} {w fin st det} (kp : Keep zz s) :
    Keep zz (State.finishTask s w fin st det) := by
  unfold State.finishTask
  repeat' first
    | with_reducible assumption
    | simp only [keep_mk]
    | with_reducible refine State.gather_keep ?_
    | with_reducible refine State.modTask_keep ?_
    | with_reducible refine State.completeAll_keep ?_
    | with_reducible refine State.urgentCheck_keep ?_
    | with_reducible refine State.complete_keep ?_
    | with_reducible refine State.releaseTask_keep ?_
    | with_reducible refine keep_ite (fun _ => ?_) (fun _ => ?_)
    | split

/-- What `State.suspend` keeps. -/
theorem State.suspend_keep {zz s : State} {w t p} (kp : Keep zz s) :
    Keep zz (State.suspend s w t p) := by
  unfold State.suspend
  repeat' first
    | with_reducible assumption
    | simp only [keep_mk]
    | with_reducible refine State.finishTask_keep ?_
    | with_reducible refine State.shelve_keep ?_
    | with_reducible refine State.modTeam_keep ?_
    | with_reducible refine State.gather_keep ?_
    | with_reducible refine State.modTask_keep ?_
    | with_reducible refine State.completeAll_keep ?_
    | with_reducible refine State.urgentCheck_keep ?_
    | with_reducible refine keep_ite (fun _ => ?_) (fun _ => ?_)
    | with_reducible refine keep_foldl (fun _ _ _ => ?_) ?_

/-- What `State.modPhys` keeps. -/
theorem State.modPhys_keep {zz s : State} {p f} (kp : Keep zz s) :
    Keep zz (State.modPhys s p f) := by
  unfold State.modPhys
  repeat' first
    | with_reducible assumption
    | simp only [keep_mk]

/-- What `State.dropRestore` keeps. -/
theorem State.dropRestore_keep {zz s : State} {w t} (kp : Keep zz s) :
    Keep zz (State.dropRestore s w t) := by
  unfold State.dropRestore
  repeat' first
    | with_reducible assumption
    | simp only [keep_mk]
    | with_reducible refine State.vacate_keep ?_
    | with_reducible refine State.modTask_keep ?_

/-- What `State.readOut` keeps. -/
theorem State.readOut_keep {zz s : State} {l dirty} (kp : Keep zz s) :
    Keep zz (State.readOut s l dirty) := by
  unfold State.readOut
  repeat' first
    | with_reducible assumption
    | simp only [keep_mk]
    | with_reducible refine State.dropRestore_keep ?_
    | with_reducible refine State.finishTask_keep ?_
    | with_reducible refine State.saveTask_keep ?_
    | with_reducible refine State.saveTask_keep' (by assumption) ?_
    | with_reducible refine State.vacate_keep ?_
    | with_reducible refine State.completeAll_keep ?_
    | with_reducible refine State.modTask_keep ?_
    | with_reducible refine keep_ite (fun _ => ?_) (fun _ => ?_)
    | with_reducible refine keep_foldl (fun _ _ _ => ?_) ?_
    | with_reducible refine keep_foldl1 (fun _ _ _ => ?_) ?_
    | with_reducible refine keep_foldl2 (fun _ _ _ => ?_) ?_
    | with_reducible refine keep_foldl1' (by assumption) (fun _ _ _ => ?_) ?_
    | with_reducible refine keep_foldl2' (by assumption) (fun _ _ _ => ?_) ?_
    | dsimp only
    | split

/-- What `State.retirePhys` keeps. -/
theorem State.retirePhys_keep {zz s : State} {p} (kp : Keep zz s) :
    Keep zz (State.retirePhys s p) := by
  unfold State.retirePhys
  repeat' first
    | with_reducible assumption
    | simp only [keep_mk]
    | with_reducible refine State.modPhys_keep ?_
    | with_reducible refine State.logEv_keep ?_

/-- What `State.failTeam` keeps. -/
theorem State.failTeam_keep {zz s : State} {l dirty} (kp : Keep zz s) :
    Keep zz (State.failTeam s l dirty) := by
  unfold State.failTeam
  repeat' first
    | with_reducible assumption
    | simp only [keep_mk]
    | with_reducible refine State.readOut_keep ?_
    | with_reducible refine State.modPhys_keep ?_
    | with_reducible refine State.retirePhys_keep ?_
    | with_reducible refine State.emptyArray_keep ?_
    | with_reducible refine State.modTeam_keep ?_
    | with_reducible refine keep_ite (fun _ => ?_) (fun _ => ?_)

/-- What `State.recordExc` keeps. -/
theorem State.recordExc_keep {zz s : State} {t e} (kp : Keep zz s) :
    Keep zz (State.recordExc s t e) := by
  unfold State.recordExc
  repeat' first
    | with_reducible assumption
    | simp only [keep_mk]
    | with_reducible refine State.modTask_keep ?_
    | with_reducible refine State.store_keep ?_
    | with_reducible refine State.hostWrite_keep ?_
    | with_reducible refine State.logWith_keep ?_
    | with_reducible refine State.logEv_keep ?_
    | with_reducible refine State.modPaddock_keep ?_
    | with_reducible refine keep_ite (fun _ => ?_) (fun _ => ?_)
    | split

/-- What `State.raise` keeps. -/
theorem State.raise_keep {zz s : State} {w rank core cause addr more dirty} (kp : Keep zz s) :
    Keep zz (State.raise s w rank core cause addr more dirty) := by
  unfold State.raise
  repeat' first
    | with_reducible assumption
    | simp only [keep_mk]
    | with_reducible refine State.failTeam_keep ?_
    | with_reducible refine State.recordExc_keep ?_
    | with_reducible refine State.finishTask_keep ?_
    | with_reducible refine keep_ite (fun _ => ?_) (fun _ => ?_)
    | with_reducible refine keep_foldl (fun _ _ _ => ?_) ?_
    | split

/-- What `State.retireTeam` keeps. -/
theorem State.retireTeam_keep {zz s : State} {w l} (kp : Keep zz s) :
    Keep zz (State.retireTeam s w l) := by
  unfold State.retireTeam
  repeat' first
    | with_reducible assumption
    | simp only [keep_mk]
    | with_reducible refine State.modTeam_keep ?_
    | with_reducible refine State.failTeam_keep ?_
    | with_reducible refine State.raise_keep ?_
    | split

/-- What `State.autoTeams` keeps. -/
theorem State.autoTeams_keep {zz s : State} (kp : Keep zz s) :
    Keep zz (State.autoTeams s) := by
  unfold State.autoTeams
  repeat' first
    | with_reducible assumption
    | simp only [keep_mk]
    | with_reducible refine keep_ite (fun _ => ?_) (fun _ => ?_)

end Sys2Proof.Machine
end

