-- ==== Sys2Proof/Laws/KeepMailbox.lean ====
section
/-! SUPPORT. What the definitions of Machine/Mailbox.lean keep (Laws/Keep.lean). -/

namespace Sys2Proof.Machine

open Sys2Proof

/-- What `State.readOutWord` keeps. -/
theorem State.readOutWord_keep {zz s : State} {v} (kp : Keep zz s) :
    Keep zz (State.readOutWord s v) := by
  unfold State.readOutWord
  repeat' first
    | with_reducible assumption
    | simp only [keep_mk]

/-- What `State.read64` keeps. -/
theorem State.read64_keep {zz s : State} {f hi v} (kp : Keep zz s) :
    Keep zz (State.read64 s f hi v) := by
  unfold State.read64
  repeat' first
    | with_reducible assumption
    | with_reducible refine State.modFn_keep ?_
    | with_reducible refine State.readOutWord_keep ?_
    | with_reducible refine keep_ite (fun _ => ?_) (fun _ => ?_)

/-- What `State.hwHint` keeps. -/
theorem State.hwHint_keep {zz s : State} (kp : Keep zz s) :
    Keep zz (State.hwHint s).2 := by
  unfold State.hwHint
  repeat' first
    | with_reducible assumption
    | simp only [keep_mk]
    | with_reducible refine State.draw_keep ?_
    | split

/-- What the answer of `State.hwHint` keeps. -/
theorem State.hwHint_keep' {zz tk s : State} {xk} (ek : State.hwHint s = (xk, tk))
    (kp : Keep zz s) : Keep zz tk := by
  have := State.hwHint_keep (kp)
  rwa [ek] at this

/-- What `State.retryWord` keeps. -/
theorem State.retryWord_keep {zz s : State} (kp : Keep zz s) :
    Keep zz (State.retryWord s).2 := by
  unfold State.retryWord
  repeat' first
    | with_reducible assumption
    | with_reducible refine State.hwHint_keep ?_
    | split

/-- What the answer of `State.retryWord` keeps. -/
theorem State.retryWord_keep' {zz tk s : State} {xk} (ek : State.retryWord s = (xk, tk))
    (kp : Keep zz s) : Keep zz tk := by
  have := State.retryWord_keep (kp)
  rwa [ek] at this

/-- What `State.bar0Read` keeps. -/
theorem State.bar0Read_keep {zz s : State} {f off} (kp : Keep zz s) :
    Keep zz (State.bar0Read s f off) := by
  unfold State.bar0Read
  repeat' first
    | with_reducible assumption
    | simp only [keep_mk]
    | with_reducible refine State.read64_keep ?_
    | with_reducible refine State.retryWord_keep ?_
    | with_reducible refine State.modFn_keep ?_
    | with_reducible refine State.readOutWord_keep ?_
    | with_reducible refine keep_ite (fun _ => ?_) (fun _ => ?_)

/-- What `State.settleRing` keeps. -/
theorem State.settleRing_keep {zz s : State} {r} (kp : Keep zz s) :
    Keep zz (State.settleRing s r) := by
  unfold State.settleRing
  repeat' first
    | with_reducible assumption
    | with_reducible refine State.modRing_keep (fun _ hb => ?_) ?_
    | (unfold Ring.bounded at *; dsimp only; omega)
    | with_reducible refine State.storeSettled_keep ?_

/-- What `State.violate` keeps. -/
theorem State.violate_keep {zz s : State} {r n answer} (kp : Keep zz s) :
    Keep zz (State.violate s r n answer) := by
  unfold State.violate
  repeat' first
    | with_reducible assumption
    | simp only [keep_mk]
    | with_reducible refine State.answerViolation_keep ?_
    | with_reducible refine State.countViolation_keep ?_
    | with_reducible refine keep_ite (fun _ => ?_) (fun _ => ?_)

/-- What `State.enableRing` keeps. -/
theorem State.enableRing_keep {zz s : State} {r on} (kp : Keep zz s) :
    Keep zz (State.enableRing s r on) := by
  unfold State.enableRing
  repeat' first
    | with_reducible assumption
    | simp only [keep_mk]
    | with_reducible refine State.modRing_keep (fun _ hb => ?_) ?_
    | exact hb
    | with_reducible refine State.settleRing_keep ?_
    | with_reducible refine State.violate_keep ?_
    | with_reducible refine keep_ite (fun _ => ?_) (fun _ => ?_)

/-- What `State.ringSqTail` keeps. -/
theorem State.ringSqTail_keep {zz s : State} {r v} (kp : Keep zz s) :
    Keep zz (State.ringSqTail s r v) := by
  unfold State.ringSqTail
  repeat' first
    | with_reducible assumption
    | with_reducible refine State.modRing_keep (fun _ hb => ?_) ?_
    | exact hb
    | with_reducible refine State.violate_keep ?_
    | with_reducible refine keep_ite (fun _ => ?_) (fun _ => ?_)

/-- What `State.ringCqHead` keeps. -/
theorem State.ringCqHead_keep {s0 s : State} {r v} (kp : Keep s0 s) : Keep s0 (State.ringCqHead s r v) := by
  unfold State.ringCqHead
  dsimp only
  repeat' first
    | exact State.violate_keep kp
    | refine State.flush_keep (State.setRing_keep (fun i => ?_) kp)
      have hr := ring_bounded i r
      exact ⟨Nat.le_trans (Nat.sub_le _ _) hr.1, Nat.le_trans (Nat.sub_le _ _) hr.2⟩
    | split

/-- What `State.bar0Write` keeps. -/
theorem State.bar0Write_keep {zz s : State} {f off v} (kp : Keep zz s) :
    Keep zz (State.bar0Write s f off v) := by
  unfold State.bar0Write
  repeat' first
    | with_reducible assumption
    | simp only [keep_mk]
    | with_reducible refine State.enableRing_keep ?_
    | with_reducible refine State.ringSqTail_keep ?_
    | with_reducible refine State.modRing_keep (fun _ hb => ?_) ?_
    | exact hb
    | with_reducible refine State.ringCqHead_keep ?_
    | with_reducible refine State.modFn_keep ?_
    | with_reducible refine keep_ite (fun _ => ?_) (fun _ => ?_)

/-- What `State.bar0` keeps. -/
theorem State.bar0_keep {zz s : State} {f off write} (kp : Keep zz s) :
    Keep zz (State.bar0 s f off write) := by
  unfold State.bar0
  repeat' first
    | with_reducible assumption
    | with_reducible refine State.bar0Read_keep ?_
    | with_reducible refine State.bar0Write_keep ?_
    | with_reducible refine State.readOutWord_keep ?_
    | with_reducible refine keep_ite (fun _ => ?_) (fun _ => ?_)
    | split

/-- What `State.readHost` keeps. -/
theorem State.readHost_keep {zz s : State} {q} (kp : Keep zz s) :
    Keep zz (State.readHost s q) := by
  unfold State.readHost
  repeat' first
    | with_reducible assumption
    | simp only [keep_mk]

/-- What `State.fetch` keeps. -/
theorem State.fetch_keep {s0 s : State} {r} (hc : (s.ring r).credits < 256) (kp : Keep s0 s) :
    Keep s0 (State.fetch s r) := by
  unfold State.fetch
  dsimp only
  refine State.readHost_keep ?_
  rw [keep_mk]
  exact State.setRing_keep (fun i => ⟨(ring_bounded i r).1, hc⟩) kp

/-- What `State.modItem` keeps. -/
theorem State.modItem_keep {zz s : State} {r ser f} (kp : Keep zz s) :
    Keep zz (State.modItem s r ser f) := by
  unfold State.modItem
  repeat' first
    | with_reducible assumption
    | with_reducible refine State.modRing_keep (fun _ hb => ?_) ?_
    | exact hb

/-- What `State.accept` keeps. -/
theorem State.accept_keep {zz s : State} {r ser h payload resv} (kp : Keep zz s) :
    Keep zz (State.accept s r ser h payload resv) := by
  unfold State.accept
  repeat' first
    | with_reducible assumption
    | simp only [keep_mk]
    | with_reducible refine State.modRing_keep (fun _ hb => ?_) ?_
    | exact hb
    | with_reducible refine State.draw_keep ?_
    | with_reducible refine State.modItem_keep ?_
    | with_reducible refine State.modFn_keep ?_
    | with_reducible refine keep_ite (fun _ => ?_) (fun _ => ?_)

/-- What `State.arriveSlot` keeps. -/
theorem State.arriveSlot_keep {zz s : State} {r slot payload} (kp : Keep zz s) :
    Keep zz (State.arriveSlot s r slot payload) := by
  unfold State.arriveSlot
  repeat' first
    | with_reducible assumption
    | simp only [keep_mk]
    | with_reducible refine State.countViolation_keep ?_
    | with_reducible refine State.finishItem_keep ?_
    | with_reducible refine State.modItem_keep ?_
    | with_reducible refine State.hwHint_keep ?_
    | with_reducible refine State.hwHint_keep' (by assumption) ?_
    | with_reducible refine State.readHost_keep ?_
    | with_reducible refine State.accept_keep ?_
    | with_reducible refine keep_ite (fun _ => ?_) (fun _ => ?_)
    | dsimp only
    | split

/-- What `State.resetRing` keeps. -/
theorem State.resetRing_keep {zz s : State} {r} (kp : Keep zz s) :
    Keep zz (State.resetRing s r) := by
  unfold State.resetRing
  repeat' first
    | with_reducible assumption
    | simp only [keep_mk]
    | with_reducible refine State.modRing_keep (fun _ hb => ?_) ?_
    | exact ⟨Nat.zero_le _, hb.2⟩
    | (unfold Ring.bounded at *; dsimp only; omega)
    | with_reducible refine State.settleRing_keep ?_

/-- What `State.resetFn` keeps. -/
theorem State.resetFn_keep {zz s : State} {f} (kp : Keep zz s) :
    Keep zz (State.resetFn s f) := by
  unfold State.resetFn
  repeat' first
    | with_reducible assumption
    | simp only [keep_mk]
    | with_reducible refine State.resetRing_keep ?_
    | with_reducible refine State.modFn_keep ?_
    | with_reducible refine State.complete_keep ?_
    | with_reducible refine State.resetBind_keep ?_
    | with_reducible refine State.resetProg_keep ?_
    | with_reducible refine State.completeAll_keep ?_
    | with_reducible refine State.logEv_keep ?_
    | with_reducible refine keep_ite (fun _ => ?_) (fun _ => ?_)
    | with_reducible refine keep_foldl (fun _ _ _ => ?_) ?_

/-- What `State.resetPf` keeps. -/
theorem State.resetPf_keep {zz s : State} (kp : Keep zz s) :
    Keep zz (State.resetPf s) := by
  unfold State.resetPf
  repeat' first
    | with_reducible assumption
    | with_reducible refine State.resetFn_keep ?_
    | with_reducible refine keep_foldl (fun _ _ _ => ?_) ?_

end Sys2Proof.Machine
end

