-- ==== Sys2Proof/Laws/KeepTierOps.lean ====
section
/-! SUPPORT. What the definitions of Machine/TierOps.lean keep (Laws/Keep.lean). -/

namespace Sys2Proof.Machine

open Sys2Proof

/-- What `State.modChan` keeps. -/
theorem State.modChan_keep {zz s : State} {c f} (kp : Keep zz s) :
    Keep zz (State.modChan s c f) := by
  unfold State.modChan
  repeat' first
    | with_reducible assumption
    | simp only [keep_mk]

/-- What `State.modNvw` keeps. -/
theorem State.modNvw_keep {zz s : State} {k f} (kp : Keep zz s) :
    Keep zz (State.modNvw s k f) := by
  unfold State.modNvw
  repeat' first
    | with_reducible assumption
    | simp only [keep_mk]

/-- What `State.countHbm` keeps. -/
theorem State.countHbm_keep {zz s : State} {stack n write} (kp : Keep zz s) :
    Keep zz (State.countHbm s stack n write) := by
  unfold State.countHbm
  repeat' first
    | with_reducible assumption
    | simp only [keep_mk]
    | with_reducible refine keep_ite (fun _ => ?_) (fun _ => ?_)

/-- What `State.sectorRead` keeps. -/
theorem State.sectorRead_keep {zz s : State} {c frame row symbols a} (kp : Keep zz s) :
    Keep zz (State.sectorRead s c frame row symbols a) := by
  unfold State.sectorRead
  repeat' first
    | with_reducible assumption
    | simp only [keep_mk]
    | with_reducible refine State.modChan_keep ?_
    | with_reducible refine State.poisonSector_keep ?_
    | with_reducible refine State.logEv_keep ?_
    | dsimp only
    | split

/-- What `State.lineRead` keeps. -/
theorem State.lineRead_keep {zz s : State} {c f row a errs} (kp : Keep zz s) :
    Keep zz (State.lineRead s c f row a errs).1 := by
  unfold State.lineRead
  repeat' first
    | with_reducible assumption
    | simp only [keep_mk]
    | with_reducible refine State.modChan_keep ?_
    | with_reducible refine State.sectorRead_keep ?_
    | with_reducible refine keep_ite (fun _ => ?_) (fun _ => ?_)
    | with_reducible refine keep_foldl (fun _ _ _ => ?_) ?_
    | with_reducible refine keep_foldl1 (fun _ _ _ => ?_) ?_
    | with_reducible refine keep_foldl2 (fun _ _ _ => ?_) ?_
    | with_reducible refine keep_foldl1' (by assumption) (fun _ _ _ => ?_) ?_
    | with_reducible refine keep_foldl2' (by assumption) (fun _ _ _ => ?_) ?_
    | dsimp only
    | split

/-- What the answer of `State.lineRead` keeps. -/
theorem State.lineRead_keep' {zz tk s : State} {c f row a errs} {xk} (ek : State.lineRead s c f row a errs = (tk, xk))
    (kp : Keep zz s) : Keep zz tk := by
  have := State.lineRead_keep (kp) (c := c) (f := f) (row := row) (a := a) (errs := errs)
  rwa [ek] at this

/-- What `State.tierRead` keeps. -/
theorem State.tierRead_keep {zz s : State} {a errs} (kp : Keep zz s) :
    Keep zz (State.tierRead s a errs).1 := by
  unfold State.tierRead
  repeat' first
    | with_reducible assumption
    | simp only [keep_mk]
    | with_reducible refine State.countHbm_keep ?_
    | with_reducible refine State.lineRead_keep ?_
    | with_reducible refine State.lineRead_keep' (by assumption) ?_
    | with_reducible refine State.modNvw_keep ?_
    | with_reducible refine State.logEv_keep ?_
    | with_reducible refine keep_ite (fun _ => ?_) (fun _ => ?_)
    | dsimp only
    | split

/-- What the answer of `State.tierRead` keeps. -/
theorem State.tierRead_keep' {zz tk s : State} {a errs} {xk} (ek : State.tierRead s a errs = (tk, xk))
    (kp : Keep zz s) : Keep zz tk := by
  have := State.tierRead_keep (kp) (a := a) (errs := errs)
  rwa [ek] at this

/-- What `State.tierWrite` keeps. -/
theorem State.tierWrite_keep {zz s : State} {a bs p} (kp : Keep zz s) :
    Keep zz (State.tierWrite s a bs p) := by
  unfold State.tierWrite
  repeat' first
    | with_reducible assumption
    | simp only [keep_mk]
    | with_reducible refine State.storeP_keep ?_
    | with_reducible refine State.countHbm_keep ?_
    | with_reducible refine keep_ite (fun _ => ?_) (fun _ => ?_)
    | split

/-- What `State.takeTag` keeps. -/
theorem State.takeTag_keep {zz tk s : State} {a p mk} (ek : State.takeTag s a p mk = some tk)
    (kp : Keep zz s) : Keep zz tk := by
  suffices KeepO zz (fun a => a) (State.takeTag s a p mk) from this _ ek
  unfold State.takeTag
  repeat' first
    | with_reducible assumption
    | simp only [keep_mk]
    | with_reducible refine keepO_some ?_
    | exact keepO_none
    | with_reducible refine State.pick_keep ?_
    | with_reducible refine State.pick_keep' (by assumption) ?_
    | with_reducible refine keep_ite (fun _ => ?_) (fun _ => ?_)
    | dsimp only
    | split

/-- What `State.freeTag` keeps. -/
theorem State.freeTag_keep {zz s : State} {n} (kp : Keep zz s) :
    Keep zz (State.freeTag s n) := by
  unfold State.freeTag
  repeat' first
    | with_reducible assumption
    | simp only [keep_mk]

/-- What `State.lineLanded` keeps. -/
theorem State.lineLanded_keep {zz s : State} {w tile line p bs} (kp : Keep zz s) :
    Keep zz (State.lineLanded s w tile line p bs) := by
  unfold State.lineLanded
  repeat' first
    | with_reducible assumption
    | with_reducible refine State.modBind_keep ?_

/-- What `State.modDev` keeps. -/
theorem State.modDev_keep {zz s : State} {d f} (kp : Keep zz s) :
    Keep zz (State.modDev s d f) := by
  unfold State.modDev
  repeat' first
    | with_reducible assumption
    | simp only [keep_mk]

/-- What `State.bringDevs` keeps. -/
theorem State.bringDevs_keep {zz s : State} {ds asSets} (kp : Keep zz s) :
    Keep zz (State.bringDevs s ds asSets) := by
  unfold State.bringDevs
  repeat' first
    | with_reducible assumption
    | simp only [keep_mk]

/-- What `State.loseDev` keeps. -/
theorem State.loseDev_keep {zz s : State} {d} (kp : Keep zz s) :
    Keep zz (State.loseDev s d) := by
  unfold State.loseDev
  repeat' first
    | with_reducible assumption
    | simp only [keep_mk]
    | with_reducible refine State.logEv_keep ?_
    | with_reducible refine State.resetBind_keep ?_
    | with_reducible refine keep_ite (fun _ => ?_) (fun _ => ?_)
    | with_reducible refine keep_foldl (fun _ _ _ => ?_) ?_
    | split

end Sys2Proof.Machine
end

