-- ==== Sys2Proof/Laws/KeepLearnOps.lean ====
section
/-! SUPPORT. What the definitions of Machine/LearnOps.lean keep (Laws/Keep.lean). -/

namespace Sys2Proof.Machine

open Sys2Proof

/-- What `State.writeRout` keeps. -/
theorem State.writeRout_keep {zz s : State} {x} (kp : Keep zz s) :
    Keep zz (State.writeRout s x) := by
  unfold State.writeRout
  repeat' first
    | with_reducible assumption
    | simp only [keep_mk]
    | with_reducible refine State.hostWrite_keep ?_
    | with_reducible refine State.poisonLine_keep ?_
    | with_reducible refine State.store_keep ?_
    | with_reducible refine keep_foldl (fun _ _ _ => ?_) ?_
    | dsimp only
    | split

/-- What `State.modSet` keeps. -/
theorem State.modSet_keep {zz s : State} {h f} (kp : Keep zz s) :
    Keep zz (State.modSet s h f) := by
  unfold State.modSet
  repeat' first
    | with_reducible assumption
    | simp only [keep_mk]

/-- What `State.modExch` keeps. -/
theorem State.modExch_keep {zz s : State} {w f} (kp : Keep zz s) :
    Keep zz (State.modExch s w f) := by
  unfold State.modExch
  repeat' first
    | with_reducible assumption
    | simp only [keep_mk]

/-- What `State.writeG8` keeps. -/
theorem State.writeG8_keep {zz s : State} {x gi g e q bad} (kp : Keep zz s) :
    Keep zz (State.writeG8 s x gi g e q bad) := by
  unfold State.writeG8
  repeat' first
    | with_reducible assumption
    | simp only [keep_mk]
    | with_reducible refine State.storeP_keep ?_
    | with_reducible refine State.modExch_keep ?_
    | with_reducible refine State.modSet_keep ?_
    | with_reducible refine keep_ite (fun _ => ?_) (fun _ => ?_)
    | with_reducible refine keep_foldl (fun _ _ _ => ?_) ?_

/-- What `State.storeCopy` keeps. -/
theorem State.storeCopy_keep {zz s : State} {l g e ps} (kp : Keep zz s) :
    Keep zz (State.storeCopy s l g e ps) := by
  unfold State.storeCopy
  repeat' first
    | with_reducible assumption
    | simp only [keep_mk]
    | with_reducible refine State.store_keep ?_
    | split

/-- What `State.updateSpan` keeps. -/
theorem State.updateSpan_keep {zz s : State} {l gi g k} (kp : Keep zz s) :
    Keep zz (State.updateSpan s l gi g k) := by
  unfold State.updateSpan
  repeat' first
    | with_reducible assumption
    | simp only [keep_mk]
    | with_reducible refine State.store_keep ?_
    | with_reducible refine State.storeCopy_keep ?_
    | with_reducible refine keep_ite (fun _ => ?_) (fun _ => ?_)
    | with_reducible refine keep_foldl (fun _ _ _ => ?_) ?_
    | split

/-- What `State.stageMoored` keeps. -/
theorem State.stageMoored_keep {zz s : State} {g k} (kp : Keep zz s) :
    Keep zz (State.stageMoored s g k) := by
  unfold State.stageMoored
  repeat' first
    | with_reducible assumption
    | simp only [keep_mk]
    | with_reducible refine State.landIn_keep ?_
    | with_reducible refine State.landIn_keep' (by assumption) ?_
    | with_reducible refine keep_ite (fun _ => ?_) (fun _ => ?_)
    | with_reducible refine keep_foldl (fun _ _ _ => ?_) ?_

/-- What `State.storeKeep` keeps. -/
theorem State.storeKeep_keep {zz s : State} {a bs} (kp : Keep zz s) :
    Keep zz (State.storeKeep s a bs) := by
  unfold State.storeKeep
  repeat' first
    | with_reducible assumption
    | simp only [keep_mk]
    | with_reducible refine State.storeP_keep ?_
    | with_reducible refine keep_foldl (fun _ _ _ => ?_) ?_

/-- What `State.factorUpdate` keeps. -/
theorem State.factorUpdate_keep {zz s : State} {h l gi g} (kp : Keep zz s) :
    Keep zz (State.factorUpdate s h l gi g) := by
  unfold State.factorUpdate
  repeat' first
    | with_reducible assumption
    | simp only [keep_mk]
    | with_reducible refine State.modSet_keep ?_
    | with_reducible refine State.storeKeep_keep ?_
    | with_reducible refine keep_ite (fun _ => ?_) (fun _ => ?_)

end Sys2Proof.Machine
end

