-- ==== Sys2Proof/Laws/KeepGenOps.lean ====
section
/-! SUPPORT. What the definitions of Machine/GenOps.lean keep (Laws/Keep.lean). -/

namespace Sys2Proof.Machine

open Sys2Proof

/-- What `State.modModel` keeps. -/
theorem State.modModel_keep {zz s : State} {m f} (kp : Keep zz s) :
    Keep zz (State.modModel s m f) := by
  unfold State.modModel
  repeat' first
    | with_reducible assumption
    | simp only [keep_mk]

/-- What `State.writeManifest` keeps. -/
theorem State.writeManifest_keep {zz s : State} {e} (kp : Keep zz s) :
    Keep zz (State.writeManifest s e) := by
  unfold State.writeManifest
  repeat' first
    | with_reducible assumption
    | simp only [keep_mk]
    | with_reducible refine State.store_keep ?_

/-- What `State.modEntry` keeps. -/
theorem State.modEntry_keep {zz s : State} {e f} (kp : Keep zz s) :
    Keep zz (State.modEntry s e f) := by
  unfold State.modEntry
  repeat' first
    | with_reducible assumption
    | simp only [keep_mk]
    | with_reducible refine State.writeManifest_keep ?_

/-- What `State.modLoop` keeps. -/
theorem State.modLoop_keep {zz s : State} {m f} (kp : Keep zz s) :
    Keep zz (State.modLoop s m f) := by
  unfold State.modLoop
  repeat' first
    | with_reducible assumption
    | simp only [keep_mk]

/-- What `State.setSeq` keeps. -/
theorem State.setSeq_keep {zz s : State} {e st} (kp : Keep zz s) :
    Keep zz (State.setSeq s e st) := by
  unfold State.setSeq
  repeat' first
    | with_reducible assumption
    | with_reducible refine State.modEntry_keep ?_

/-- What `State.padStore` keeps. -/
theorem State.padStore_keep {zz s : State} {pad a bs} (kp : Keep zz s) :
    Keep zz (State.padStore s pad a bs) := by
  unfold State.padStore
  repeat' first
    | with_reducible assumption
    | with_reducible refine State.store_keep ?_
    | with_reducible refine keep_ite (fun _ => ?_) (fun _ => ?_)
    | split

/-- What `State.mapWord` keeps. -/
theorem State.mapWord_keep {zz s : State} {e i word} (kp : Keep zz s) :
    Keep zz (State.mapWord s e i word) := by
  unfold State.mapWord
  repeat' first
    | with_reducible assumption
    | with_reducible refine State.padStore_keep ?_

/-- What `State.clearMap` keeps. -/
theorem State.clearMap_keep {zz s : State} {e} (kp : Keep zz s) :
    Keep zz (State.clearMap s e) := by
  unfold State.clearMap
  repeat' first
    | with_reducible assumption
    | simp only [keep_mk]
    | with_reducible refine State.padStore_keep ?_

/-- What `State.countEvict` keeps. -/
theorem State.countEvict_keep {zz s : State} {m} (kp : Keep zz s) :
    Keep zz (State.countEvict s m) := by
  unfold State.countEvict
  repeat' first
    | with_reducible assumption
    | with_reducible refine State.modLoop_keep ?_

/-- What `State.startEvict` keeps. -/
theorem State.startEvict_keep {zz s : State} {i} (kp : Keep zz s) :
    Keep zz (State.startEvict s i) := by
  unfold State.startEvict
  repeat' first
    | with_reducible assumption
    | simp only [keep_mk]
    | with_reducible refine State.countEvict_keep ?_
    | with_reducible refine State.modEntry_keep ?_
    | with_reducible refine keep_ite (fun _ => ?_) (fun _ => ?_)
    | split

/-- What `State.startFetch` keeps. -/
theorem State.startFetch_keep {zz s : State} {i} (kp : Keep zz s) :
    Keep zz (State.startFetch s i) := by
  unfold State.startFetch
  repeat' first
    | with_reducible assumption
    | simp only [keep_mk]
    | with_reducible refine State.modEntry_keep ?_
    | with_reducible refine keep_ite (fun _ => ?_) (fun _ => ?_)
    | split

/-- What `State.evictFor` keeps. -/
theorem State.evictFor_keep {zz s : State} {m short} (kp : Keep zz s) :
    Keep zz (State.evictFor s m short) := by
  unfold State.evictFor
  repeat' first
    | with_reducible assumption
    | simp only [keep_mk]
    | with_reducible refine State.startEvict_keep ?_
    | with_reducible refine keep_foldl1 (fun _ _ _ => ?_) ?_
    | split

/-- What `State.serveFetches` keeps. -/
theorem State.serveFetches_keep {zz s : State} {m} (kp : Keep zz s) :
    Keep zz (State.serveFetches s m) := by
  unfold State.serveFetches
  repeat' first
    | with_reducible assumption
    | simp only [keep_mk]
    | with_reducible refine State.startFetch_keep ?_
    | with_reducible refine State.startEvict_keep ?_
    | with_reducible refine State.evictFor_keep ?_
    | with_reducible refine keep_ite (fun _ => ?_) (fun _ => ?_)
    | with_reducible refine keep_foldl (fun _ _ _ => ?_) ?_

/-- What `State.modRRing` keeps. -/
theorem State.modRRing_keep {zz s : State} {r f} (kp : Keep zz s) :
    Keep zz (State.modRRing s r f) := by
  unfold State.modRRing
  repeat' first
    | with_reducible assumption
    | simp only [keep_mk]

/-- What `State.ringStore` keeps. -/
theorem State.ringStore_keep {zz s : State} {g off bs} (kp : Keep zz s) :
    Keep zz (State.ringStore s g off bs) := by
  unfold State.ringStore
  repeat' first
    | with_reducible assumption
    | with_reducible refine State.padStore_keep ?_
    | with_reducible refine State.hostWrite_keep ?_
    | with_reducible refine keep_ite (fun _ => ?_) (fun _ => ?_)

/-- What `State.watchRoom` keeps. -/
theorem State.watchRoom_keep {zz s : State} {r} (kp : Keep zz s) :
    Keep zz (State.watchRoom s r) := by
  unfold State.watchRoom
  repeat' first
    | with_reducible assumption
    | simp only [keep_mk]
    | with_reducible refine State.modRRing_keep ?_
    | with_reducible refine State.logEv_keep ?_
    | with_reducible refine keep_ite (fun _ => ?_) (fun _ => ?_)
    | split

/-- What `State.flushGo` keeps. -/
theorem State.flushGo_keep {s0 s : State} {r n} (kp : Keep s0 s) : Keep s0 (State.flushGo r n s) := by
  induction n generalizing s with
  | zero => exact kp
  | succ n ih =>
    unfold State.flushGo
    dsimp only
    repeat' first
      | exact kp
      | exact ih (State.modEntry_keep (State.modRRing_keep (State.ringStore_keep kp)))
      | exact ih (State.modRRing_keep (State.ringStore_keep kp))
      | split

/-- What `State.flushRing` keeps. -/
theorem State.flushRing_keep {zz s : State} {r} (kp : Keep zz s) :
    Keep zz (State.flushRing s r) := by
  unfold State.flushRing
  repeat' first
    | with_reducible assumption
    | simp only [keep_mk]
    | with_reducible refine State.flushGo_keep ?_
    | with_reducible refine State.ringStore_keep ?_
    | with_reducible refine State.watchRoom_keep ?_
    | with_reducible refine keep_ite (fun _ => ?_) (fun _ => ?_)
    | split

/-- What `State.flushRings` keeps. -/
theorem State.flushRings_keep {zz s : State} (kp : Keep zz s) :
    Keep zz (State.flushRings s) := by
  unfold State.flushRings
  repeat' first
    | with_reducible assumption
    | with_reducible refine State.flushRing_keep ?_
    | with_reducible refine keep_foldl (fun _ _ _ => ?_) ?_

/-- What `State.writeRecord` keeps. -/
theorem State.writeRecord_keep {zz s : State} {i e bs} (kp : Keep zz s) :
    Keep zz (State.writeRecord s i e bs) := by
  unfold State.writeRecord
  repeat' first
    | with_reducible assumption
    | simp only [keep_mk]
    | with_reducible refine State.modRRing_keep ?_
    | with_reducible refine State.flushRing_keep ?_
    | with_reducible refine State.watchRoom_keep ?_

/-- What `State.undrain` keeps. -/
theorem State.undrain_keep {zz s : State} {i e} (kp : Keep zz s) :
    Keep zz (State.undrain s i e) := by
  unfold State.undrain
  repeat' first
    | with_reducible assumption
    | with_reducible refine State.modModel_keep ?_

/-- What `State.terminate` keeps. -/
theorem State.terminate_keep {zz s : State} {i st status record} (kp : Keep zz s) :
    Keep zz (State.terminate s i st status record) := by
  unfold State.terminate
  repeat' first
    | with_reducible assumption
    | simp only [keep_mk]
    | with_reducible refine State.writeRecord_keep ?_
    | with_reducible refine State.modEntry_keep ?_
    | with_reducible refine State.undrain_keep ?_
    | with_reducible refine keep_ite (fun _ => ?_) (fun _ => ?_)
    | split

/-- What `State.freeEntry` keeps. -/
theorem State.freeEntry_keep {zz s : State} {i} (kp : Keep zz s) :
    Keep zz (State.freeEntry s i) := by
  unfold State.freeEntry
  repeat' first
    | with_reducible assumption
    | simp only [keep_mk]
    | with_reducible refine State.writeManifest_keep ?_

/-- What `State.autoRelease` keeps. -/
theorem State.autoRelease_keep {zz s : State} {m} (kp : Keep zz s) :
    Keep zz (State.autoRelease s m) := by
  unfold State.autoRelease
  repeat' first
    | with_reducible assumption
    | with_reducible refine State.freeEntry_keep ?_
    | with_reducible refine keep_foldl (fun _ _ _ => ?_) ?_

/-- What `State.expireAll` keeps. -/
theorem State.expireAll_keep {zz s : State} {m} (kp : Keep zz s) :
    Keep zz (State.expireAll s m) := by
  unfold State.expireAll
  repeat' first
    | with_reducible assumption
    | with_reducible refine State.terminate_keep ?_
    | with_reducible refine keep_ite (fun _ => ?_) (fun _ => ?_)
    | with_reducible refine keep_foldl (fun _ _ _ => ?_) ?_

/-- What `State.applyCancel` keeps. -/
theorem State.applyCancel_keep {zz s : State} {c i e} (kp : Keep zz s) :
    Keep zz (State.applyCancel s c i e) := by
  unfold State.applyCancel
  repeat' first
    | with_reducible assumption
    | simp only [keep_mk]
    | with_reducible refine State.terminate_keep ?_
    | with_reducible refine State.complete_keep ?_
    | with_reducible refine keep_ite (fun _ => ?_) (fun _ => ?_)

/-- What `State.applyPark` keeps. -/
theorem State.applyPark_keep {zz s : State} {c i e} (kp : Keep zz s) :
    Keep zz (State.applyPark s c i e) := by
  unfold State.applyPark
  repeat' first
    | with_reducible assumption
    | simp only [keep_mk]
    | with_reducible refine State.setSeq_keep ?_
    | with_reducible refine State.modEntry_keep ?_
    | with_reducible refine State.undrain_keep ?_
    | with_reducible refine State.complete_keep ?_
    | split

/-- What `State.putTokens` keeps. -/
theorem State.putTokens_keep {zz s : State} {e pos ts} (kp : Keep zz s) :
    Keep zz (State.putTokens s e pos ts) := by
  unfold State.putTokens
  repeat' first
    | with_reducible assumption
    | with_reducible refine State.padStore_keep ?_

/-- What `State.wake` keeps. -/
theorem State.wake_keep {zz s : State} {i e} (kp : Keep zz s) :
    Keep zz (State.wake s i e) := by
  unfold State.wake
  repeat' first
    | with_reducible assumption
    | simp only [keep_mk]
    | with_reducible refine State.setSeq_keep ?_
    | with_reducible refine State.modEntry_keep ?_
    | with_reducible refine State.undrain_keep ?_
    | split

/-- What `State.applyResume` keeps. -/
theorem State.applyResume_keep {zz s : State} {c i e} (kp : Keep zz s) :
    Keep zz (State.applyResume s c i e) := by
  unfold State.applyResume
  repeat' first
    | with_reducible assumption
    | simp only [keep_mk]
    | with_reducible refine State.wake_keep ?_
    | with_reducible refine State.modEntry_keep ?_
    | with_reducible refine State.complete_keep ?_
    | with_reducible refine State.putTokens_keep ?_
    | with_reducible refine keep_ite (fun _ => ?_) (fun _ => ?_)
    | split

/-- What `State.applyRelease` keeps. -/
theorem State.applyRelease_keep {zz s : State} {c i e} (kp : Keep zz s) :
    Keep zz (State.applyRelease s c i e) := by
  unfold State.applyRelease
  repeat' first
    | with_reducible assumption
    | simp only [keep_mk]
    | with_reducible refine State.complete_keep ?_
    | with_reducible refine State.freeEntry_keep ?_
    | with_reducible refine State.release_keep ?_
    | with_reducible refine keep_ite (fun _ => ?_) (fun _ => ?_)
    | split

/-- What `State.applySeq` keeps. -/
theorem State.applySeq_keep {zz s : State} {c} (kp : Keep zz s) :
    Keep zz (State.applySeq s c) := by
  unfold State.applySeq
  repeat' first
    | with_reducible assumption
    | simp only [keep_mk]
    | with_reducible refine State.terminate_keep ?_
    | with_reducible refine State.applyResume_keep ?_
    | with_reducible refine State.modEntry_keep ?_
    | with_reducible refine State.applyPark_keep ?_
    | with_reducible refine State.applyRelease_keep ?_
    | with_reducible refine State.complete_keep ?_
    | with_reducible refine State.applyCancel_keep ?_
    | with_reducible refine keep_ite (fun _ => ?_) (fun _ => ?_)
    | split

/-- What `State.fetched` keeps. -/
theorem State.fetched_keep {zz s : State} {m} (kp : Keep zz s) :
    Keep zz (State.fetched s m) := by
  unfold State.fetched
  repeat' first
    | with_reducible assumption
    | simp only [keep_mk]
    | with_reducible refine State.setSeq_keep ?_
    | with_reducible refine keep_foldl (fun _ _ _ => ?_) ?_

/-- What `State.parkLosses` keeps. -/
theorem State.parkLosses_keep {zz s : State} (kp : Keep zz s) :
    Keep zz (State.parkLosses s) := by
  unfold State.parkLosses
  repeat' first
    | with_reducible assumption
    | with_reducible refine State.modEntry_keep ?_
    | with_reducible refine State.terminate_keep ?_
    | with_reducible refine keep_ite (fun _ => ?_) (fun _ => ?_)
    | with_reducible refine keep_foldl (fun _ _ _ => ?_) ?_
    | split

/-- What `State.offline` keeps. -/
theorem State.offline_keep {zz s : State} {d} (kp : Keep zz s) :
    Keep zz (State.offline s d) := by
  unfold State.offline
  repeat' first
    | with_reducible assumption
    | with_reducible refine State.loseDev_keep ?_
    | with_reducible refine State.parkLosses_keep ?_

end Sys2Proof.Machine
end

