-- ==== Sys2Proof/Laws/KeepLoopOps.lean ====
section
/-! SUPPORT. What the definitions of Machine/LoopOps.lean keep (Laws/Keep.lean). -/

namespace Sys2Proof.Machine

open Sys2Proof

/-- What `State.modSlot` keeps. -/
theorem State.modSlot_keep {zz s : State} {h k f} (kp : Keep zz s) :
    Keep zz (State.modSlot s h k f) := by
  unfold State.modSlot
  repeat' first
    | with_reducible assumption
    | simp only [keep_mk]

/-- What `State.writeSlot` keeps. -/
theorem State.writeSlot_keep {zz s : State} {h k} (kp : Keep zz s) :
    Keep zz (State.writeSlot s h k) := by
  unfold State.writeSlot
  repeat' first
    | with_reducible assumption
    | with_reducible refine State.store_keep ?_
    | with_reducible refine keep_ite (fun _ => ?_) (fun _ => ?_)
    | split

/-- What `State.activate` keeps. -/
theorem State.activate_keep {zz s : State} {m h k} (kp : Keep zz s) :
    Keep zz (State.activate s m h k) := by
  unfold State.activate
  repeat' first
    | with_reducible assumption
    | simp only [keep_mk]
    | with_reducible refine State.modModel_keep ?_
    | with_reducible refine State.writeSlot_keep ?_
    | with_reducible refine State.modSlot_keep ?_
    | split

/-- What `State.endRemount` keeps. -/
theorem State.endRemount_keep {zz s : State} {m} (kp : Keep zz s) :
    Keep zz (State.endRemount s m) := by
  unfold State.endRemount
  repeat' first
    | with_reducible assumption
    | simp only [keep_mk]
    | with_reducible refine State.modModel_keep ?_
    | with_reducible refine State.writeSlot_keep ?_
    | with_reducible refine State.modSlot_keep ?_
    | with_reducible refine State.complete_keep ?_
    | split

/-- What `State.applyRemount` keeps. -/
theorem State.applyRemount_keep {zz s : State} {m next c} (kp : Keep zz s) :
    Keep zz (State.applyRemount s m next c) := by
  unfold State.applyRemount
  repeat' first
    | with_reducible assumption
    | simp only [keep_mk]
    | with_reducible refine State.modModel_keep ?_
    | with_reducible refine State.activate_keep ?_
    | with_reducible refine State.complete_keep ?_
    | split

/-- What `State.followVersion` keeps. -/
theorem State.followVersion_keep {zz s : State} {m v} (kp : Keep zz s) :
    Keep zz (State.followVersion s m v) := by
  unfold State.followVersion
  repeat' first
    | with_reducible assumption
    | simp only [keep_mk]
    | with_reducible refine State.modSlot_keep ?_
    | with_reducible refine State.writeSlot_keep ?_
    | with_reducible refine State.activate_keep ?_
    | with_reducible refine keep_ite (fun _ => ?_) (fun _ => ?_)
    | dsimp only
    | split

/-- What `State.tellMembers` keeps. -/
theorem State.tellMembers_keep {zz s : State} {m l n} (kp : Keep zz s) :
    Keep zz (State.tellMembers s m l n) := by
  unfold State.tellMembers
  repeat' first
    | with_reducible assumption
    | simp only [keep_mk]
    | with_reducible refine keep_ite (fun _ => ?_) (fun _ => ?_)

/-- What `State.stopLoopTask` keeps. -/
theorem State.stopLoopTask_keep {zz s : State} {w} (kp : Keep zz s) :
    Keep zz (State.stopLoopTask s w) := by
  unfold State.stopLoopTask
  repeat' first
    | with_reducible assumption
    | simp only [keep_mk]
    | with_reducible refine State.modTask_keep ?_
    | with_reducible refine State.requestPreempt_keep ?_

/-- What `State.freeLoopTask` keeps. -/
theorem State.freeLoopTask_keep {zz s : State} {w mask} (kp : Keep zz s) :
    Keep zz (State.freeLoopTask s w mask) := by
  unfold State.freeLoopTask
  repeat' first
    | with_reducible assumption
    | simp only [keep_mk]
    | with_reducible refine State.modTask_keep ?_

/-- What `State.applyDrain` keeps. -/
theorem State.applyDrain_keep {zz s : State} {m l c} (kp : Keep zz s) :
    Keep zz (State.applyDrain s m l c) := by
  unfold State.applyDrain
  repeat' first
    | with_reducible assumption
    | simp only [keep_mk]
    | with_reducible refine State.modEntry_keep ?_
    | with_reducible refine State.clearMap_keep ?_
    | with_reducible refine State.modModel_keep ?_
    | with_reducible refine State.progress_keep ?_
    | with_reducible refine State.modLoop_keep ?_
    | with_reducible refine State.tellMembers_keep ?_
    | with_reducible refine State.stopLoopTask_keep ?_
    | with_reducible refine keep_ite (fun _ => ?_) (fun _ => ?_)
    | with_reducible refine keep_foldl (fun _ _ _ => ?_) ?_

/-- What `State.writeSummary` keeps. -/
theorem State.writeSummary_keep {zz s : State} {m berth layer} (kp : Keep zz s) :
    Keep zz (State.writeSummary s m berth layer) := by
  unfold State.writeSummary
  repeat' first
    | with_reducible assumption
    | simp only [keep_mk]
    | with_reducible refine State.padStore_keep ?_

/-- What `State.appendKv` keeps. -/
theorem State.appendKv_keep {zz s : State} {m berth layer pos ks vs} (kp : Keep zz s) :
    Keep zz (State.appendKv s m berth layer pos ks vs) := by
  unfold State.appendKv
  repeat' first
    | with_reducible assumption
    | simp only [keep_mk]
    | with_reducible refine State.padStore_keep ?_
    | with_reducible refine State.writeSummary_keep ?_
    | with_reducible refine keep_ite (fun _ => ?_) (fun _ => ?_)

/-- What `State.appendItem` keeps. -/
theorem State.appendItem_keep {zz s : State} {m berth first count f} (kp : Keep zz s) :
    Keep zz (State.appendItem s m berth first count f) := by
  unfold State.appendItem
  repeat' first
    | with_reducible assumption
    | simp only [keep_mk]
    | with_reducible refine State.appendKv_keep ?_
    | with_reducible refine keep_foldl (fun _ _ _ => ?_) ?_
    | dsimp only
    | split

/-- What `State.storeItem` keeps. -/
theorem State.storeItem_keep {zz s : State} {mi m l seeks i it f} (kp : Keep zz s) :
    Keep zz (State.storeItem s mi m l seeks i it f) := by
  unfold State.storeItem
  repeat' first
    | with_reducible assumption
    | simp only [keep_mk]
    | with_reducible refine State.appendItem_keep ?_
    | with_reducible refine State.modLoop_keep ?_
    | with_reducible refine State.padStore_keep ?_
    | with_reducible refine State.store_keep ?_
    | with_reducible refine keep_ite (fun _ => ?_) (fun _ => ?_)
    | with_reducible refine keep_foldl (fun _ _ _ => ?_) ?_
    | dsimp only
    | split

/-- What `State.storeForward` keeps. -/
theorem State.storeForward_keep {zz s : State} {mi m l fwd} (kp : Keep zz s) :
    Keep zz (State.storeForward s mi m l fwd) := by
  unfold State.storeForward
  repeat' first
    | with_reducible assumption
    | simp only [keep_mk]
    | with_reducible refine State.modLoop_keep ?_
    | with_reducible refine State.storeItem_keep ?_
    | with_reducible refine keep_ite (fun _ => ?_) (fun _ => ?_)
    | with_reducible refine keep_foldl (fun _ _ _ => ?_) ?_

/-- What `State.storeMember` keeps. -/
theorem State.storeMember_keep {zz s : State} {m list fwd} (kp : Keep zz s) :
    Keep zz (State.storeMember s m list fwd) := by
  unfold State.storeMember
  repeat' first
    | with_reducible assumption
    | simp only [keep_mk]
    | with_reducible refine State.appendItem_keep ?_
    | with_reducible refine keep_ite (fun _ => ?_) (fun _ => ?_)
    | with_reducible refine keep_foldl (fun _ _ _ => ?_) ?_

/-- What `State.applyToken` keeps. -/
theorem State.applyToken_keep {zz s : State} {l i e out} (kp : Keep zz s) :
    Keep zz (State.applyToken s l i e out) := by
  unfold State.applyToken
  repeat' first
    | with_reducible assumption
    | simp only [keep_mk]
    | with_reducible refine State.setSeq_keep ?_
    | with_reducible refine State.modEntry_keep ?_
    | with_reducible refine State.writeRecord_keep ?_
    | with_reducible refine State.terminate_keep ?_
    | with_reducible refine State.putTokens_keep ?_
    | with_reducible refine keep_ite (fun _ => ?_) (fun _ => ?_)

/-- What `State.applyItem` keeps. -/
theorem State.applyItem_keep {zz s : State} {l n it} (kp : Keep zz s) :
    Keep zz (State.applyItem s l n it) := by
  unfold State.applyItem
  repeat' first
    | with_reducible assumption
    | simp only [keep_mk]
    | with_reducible refine State.setSeq_keep ?_
    | with_reducible refine State.modEntry_keep ?_
    | with_reducible refine State.applyToken_keep ?_
    | with_reducible refine State.terminate_keep ?_
    | with_reducible refine keep_ite (fun _ => ?_) (fun _ => ?_)
    | split

/-- What `State.applyResults` keeps. -/
theorem State.applyResults_keep {zz s : State} {m md l} (kp : Keep zz s) :
    Keep zz (State.applyResults s m md l) := by
  unfold State.applyResults
  repeat' first
    | with_reducible assumption
    | simp only [keep_mk]
    | with_reducible refine State.modLoop_keep ?_
    | with_reducible refine State.applyItem_keep ?_
    | with_reducible refine keep_foldl (fun _ _ _ => ?_) ?_

/-- What `Build.skip` keeps. -/
theorem Build.skip_keep {s0 : State} {b : Build} {m i} (kp : Keep s0 b.st) : Keep s0 (Build.skip b m i).st :=
  State.modLoop_keep (State.modEntry_keep kp)

/-- What `Build.consider` keeps. -/
theorem Build.consider_keep {s0 : State} {m l} {b : Build} {i e} (kp : Keep s0 b.st) :
    Keep s0 (Build.consider m l b i e).st := by
  unfold Build.consider
  split
  · exact Build.skip_keep kp
  · extract_lets
    split
    · with_reducible exact Build.skip_keep kp
    · split
      · show Keep s0 (Build.skip b m i).st
        exact Build.skip_keep kp
      · dsimp only
        with_reducible refine keep_foldl (fun _ _ k => ?_) ?_
        · with_reducible exact State.mapWord_keep k
        · with_reducible exact State.modEntry_keep kp

/-- What the candidates of a build keep. -/
theorem build_fold {s0 : State} {m l} {cs : List (Nat × Entry)} {b : Build} (kp : Keep s0 b.st) :
    Keep s0 (cs.foldl (fun b e => Build.consider m l b e.1 e.2) b).st := by
  induction cs generalizing b with
  | nil => exact kp
  | cons c cs ih => exact ih (Build.consider_keep kp)

/-- What `State.build` keeps. -/
theorem State.build_keep {s0 s : State} {m n} (kp : Keep s0 s) : Keep s0 (State.build s m n) := by
  unfold State.build
  dsimp only
  split
  · with_reducible refine State.arrive_keep ?_
    with_reducible refine State.tellMembers_keep ?_
    with_reducible refine keep_foldl (fun _ _ k => State.watchRoom_keep k) ?_
    with_reducible refine State.modLoop_keep ?_
    with_reducible refine State.store_keep ?_
    with_reducible refine keep_ite (fun _ => ?_) (fun _ => ?_)
    · with_reducible refine keep_foldl (fun _ _ k => ?_) ?_
      · with_reducible exact State.modEntry_keep k
      · with_reducible exact build_fold (State.serveFetches_keep kp)
    · with_reducible refine State.evictFor_keep ?_
      with_reducible refine keep_foldl (fun _ _ k => ?_) ?_
      · with_reducible exact State.modEntry_keep k
      · with_reducible exact build_fold (State.serveFetches_keep kp)
  · exact State.serveFetches_keep kp

/-- What `State.applyCmd` keeps. -/
theorem State.applyCmd_keep {zz s : State} {m next c} (kp : Keep zz s) :
    Keep zz (State.applyCmd s m next c) := by
  unfold State.applyCmd
  repeat' first
    | with_reducible assumption
    | with_reducible refine State.applyRemount_keep ?_
    | with_reducible refine State.applySeq_keep ?_
    | with_reducible refine State.modModel_keep ?_
    | with_reducible refine State.applyDrain_keep ?_
    | with_reducible refine State.complete_keep ?_
    | split

/-- What `State.applyCmds` keeps. -/
theorem State.applyCmds_keep {zz s : State} {m next} (kp : Keep zz s) :
    Keep zz (State.applyCmds s m next) := by
  unfold State.applyCmds
  repeat' first
    | with_reducible assumption
    | simp only [keep_mk]
    | with_reducible refine State.applyCmd_keep ?_
    | with_reducible refine keep_foldl (fun _ _ _ => ?_) ?_

/-- What `State.genIdle` keeps. -/
theorem State.genIdle_keep {zz s : State} {m} (kp : Keep zz s) :
    Keep zz (State.genIdle s m) := by
  unfold State.genIdle
  repeat' first
    | with_reducible assumption
    | simp only [keep_mk]
    | with_reducible refine State.autoRelease_keep ?_
    | with_reducible refine State.serveFetches_keep ?_
    | with_reducible refine State.fetched_keep ?_
    | with_reducible refine State.applyCmds_keep ?_
    | with_reducible refine keep_ite (fun _ => ?_) (fun _ => ?_)

/-- What `State.queueCmd` keeps. -/
theorem State.queueCmd_keep {zz s : State} {c} (kp : Keep zz s) :
    Keep zz (State.queueCmd s c) := by
  unfold State.queueCmd
  repeat' first
    | with_reducible assumption
    | simp only [keep_mk]
    | with_reducible refine State.genIdle_keep ?_

/-- What `State.returnGrants` keeps. -/
theorem State.returnGrants_keep {zz s : State} {l} (kp : Keep zz s) :
    Keep zz (State.returnGrants s l) := by
  unfold State.returnGrants
  repeat' first
    | with_reducible assumption
    | with_reducible refine State.modEntry_keep ?_
    | with_reducible refine keep_foldl (fun _ _ _ => ?_) ?_

/-- What `State.dropBarrier` keeps. -/
theorem State.dropBarrier_keep {zz s : State} {h} (kp : Keep zz s) :
    Keep zz (State.dropBarrier s h) := by
  unfold State.dropBarrier
  repeat' first
    | with_reducible assumption
    | with_reducible refine State.destroyBarrier_keep ?_
    | split

/-- What `State.endLoop` keeps. -/
theorem State.endLoop_keep {zz s : State} {m st fin} (kp : Keep zz s) :
    Keep zz (State.endLoop s m st fin) := by
  unfold State.endLoop
  repeat' first
    | with_reducible assumption
    | simp only [keep_mk]
    | with_reducible refine State.tellMembers_keep ?_
    | with_reducible refine State.returnGrants_keep ?_
    | with_reducible refine State.complete_keep ?_
    | with_reducible refine State.finishTask_keep ?_
    | with_reducible refine State.dropBarrier_keep ?_
    | with_reducible refine State.release_keep ?_
    | with_reducible refine State.modModel_keep ?_
    | with_reducible refine State.completeAll_keep ?_
    | with_reducible refine State.genIdle_keep ?_
    | with_reducible refine State.endRemount_keep ?_
    | with_reducible refine keep_ite (fun _ => ?_) (fun _ => ?_)
    | dsimp only
    | split

/-- What `State.sampleArrive` keeps. -/
theorem State.sampleArrive_keep {zz s : State} {l} (kp : Keep zz s) :
    Keep zz (State.sampleArrive s l) := by
  unfold State.sampleArrive
  repeat' first
    | with_reducible assumption
    | simp only [keep_mk]
    | with_reducible refine State.arrive_keep ?_
    | with_reducible refine keep_ite (fun _ => ?_) (fun _ => ?_)
    | dsimp only
    | split

/-- What `State.memberStep` keeps. -/
theorem State.memberStep_keep {zz s : State} {m md l fwd} (kp : Keep zz s) :
    Keep zz (State.memberStep s m md l fwd) := by
  unfold State.memberStep
  repeat' first
    | with_reducible assumption
    | simp only [keep_mk]
    | with_reducible refine State.storeMember_keep ?_
    | with_reducible refine State.sampleArrive_keep ?_
    | with_reducible refine State.modLoop_keep ?_
    | with_reducible refine State.endLoop_keep ?_
    | with_reducible refine keep_ite (fun _ => ?_) (fun _ => ?_)

/-- What `State.boundary` keeps. -/
theorem State.boundary_keep {zz s : State} {m fwd} (kp : Keep zz s) :
    Keep zz (State.boundary s m fwd) := by
  unfold State.boundary
  repeat' first
    | with_reducible assumption
    | simp only [keep_mk]
    | with_reducible refine State.memberStep_keep ?_
    | with_reducible refine State.storeForward_keep ?_
    | with_reducible refine State.sampleArrive_keep ?_
    | with_reducible refine State.applyResults_keep ?_
    | with_reducible refine State.applyCmds_keep ?_
    | with_reducible refine State.autoRelease_keep ?_
    | with_reducible refine State.fetched_keep ?_
    | with_reducible refine State.expireAll_keep ?_
    | with_reducible refine State.endLoop_keep ?_
    | with_reducible refine State.build_keep ?_
    | with_reducible refine keep_ite (fun _ => ?_) (fun _ => ?_)
    | dsimp only
    | split

/-- What `State.drainDone` keeps. -/
theorem State.drainDone_keep {zz s : State} {m} (kp : Keep zz s) :
    Keep zz (State.drainDone s m) := by
  unfold State.drainDone
  repeat' first
    | with_reducible assumption
    | simp only [keep_mk]
    | with_reducible refine State.complete_keep ?_
    | with_reducible refine State.progress_keep ?_
    | with_reducible refine State.modModel_keep ?_
    | with_reducible refine State.genIdle_keep ?_
    | with_reducible refine State.endLoop_keep ?_
    | with_reducible refine keep_ite (fun _ => ?_) (fun _ => ?_)
    | dsimp only
    | split

/-- What `State.sweepLoops` keeps. -/
theorem State.sweepLoops_keep {zz s : State} (kp : Keep zz s) :
    Keep zz (State.sweepLoops s) := by
  unfold State.sweepLoops
  repeat' first
    | with_reducible assumption
    | with_reducible refine State.endLoop_keep ?_
    | with_reducible refine State.drainDone_keep ?_
    | with_reducible refine keep_ite (fun _ => ?_) (fun _ => ?_)
    | with_reducible refine keep_foldl (fun _ _ _ => ?_) ?_
    | split

/-- What `State.dropModel` keeps. -/
theorem State.dropModel_keep {zz s : State} {m} (kp : Keep zz s) :
    Keep zz (State.dropModel s m) := by
  unfold State.dropModel
  repeat' first
    | with_reducible assumption
    | simp only [keep_mk]

/-- What `State.tryGen` keeps. -/
theorem State.tryGen_keep {zz s : State} {x} (kp : Keep zz s) :
    Keep zz (State.tryGen s x) := by
  unfold State.tryGen
  repeat' first
    | with_reducible assumption
    | simp only [keep_mk]
    | with_reducible refine State.dropModel_keep ?_
    | with_reducible refine State.queueCmd_keep ?_
    | with_reducible refine State.modModel_keep ?_
    | with_reducible refine State.complete_keep ?_
    | with_reducible refine keep_ite (fun _ => ?_) (fun _ => ?_)
    | split

end Sys2Proof.Machine
end

