-- ==== Sys2Proof/Laws/KeepTraceOps.lean ====
section
/-! SUPPORT. What the definitions of Machine/TraceOps.lean keep (Laws/Keep.lean). -/

namespace Sys2Proof.Machine

open Sys2Proof

/-- What `State.modPort` keeps. -/
theorem State.modPort_keep {zz s : State} {p f} (kp : Keep zz s) :
    Keep zz (State.modPort s p f) := by
  unfold State.modPort
  repeat' first
    | with_reducible assumption
    | simp only [keep_mk]

/-- What `State.ctl` keeps. -/
theorem State.ctl_keep {zz s : State} {p r} (kp : Keep zz s) :
    Keep zz (State.ctl s p r) := by
  unfold State.ctl
  repeat' first
    | with_reducible assumption
    | simp only [keep_mk]
    | with_reducible refine State.modPort_keep ?_

/-- What `State.enqueue` keeps. -/
theorem State.enqueue_keep {zz s : State} {m wid pad} (kp : Keep zz s) :
    Keep zz (State.enqueue s m wid pad) := by
  unfold State.enqueue
  repeat' first
    | with_reducible assumption
    | simp only [keep_mk]

/-- What `State.numberMsg` keeps. -/
theorem State.numberMsg_keep {zz s : State} {x} (kp : Keep zz s) :
    Keep zz (State.numberMsg s x).1 := by
  unfold State.numberMsg
  repeat' first
    | with_reducible assumption
    | simp only [keep_mk]
    | split

/-- What the answer of `State.numberMsg` keeps. -/
theorem State.numberMsg_keep' {zz tk s : State} {x} {xk} (ek : State.numberMsg s x = (tk, xk))
    (kp : Keep zz s) : Keep zz tk := by
  have := State.numberMsg_keep (kp) (x := x)
  rwa [ek] at this

/-- What `State.sendOn` keeps. -/
theorem State.sendOn_keep {zz s : State} {p fwd x} (kp : Keep zz s) :
    Keep zz (State.sendOn s p fwd x) := by
  unfold State.sendOn
  repeat' first
    | with_reducible assumption
    | simp only [keep_mk]
    | with_reducible refine State.numberMsg_keep ?_
    | with_reducible refine State.modPort_keep ?_

/-- What `State.countServed` keeps. -/
theorem State.countServed_keep {zz s : State} {r} (kp : Keep zz s) :
    Keep zz (State.countServed s r) := by
  unfold State.countServed
  repeat' first
    | with_reducible assumption
    | simp only [keep_mk]
    | with_reducible refine State.modPort_keep ?_

/-- What `State.sendReady` keeps. -/
theorem State.sendReady_keep {s0 s : State} {n} (kp : Keep s0 s) : Keep s0 (State.sendReady n s) := by
  induction n generalizing s with
  | zero => exact kp
  | succ n ih =>
    unfold State.sendReady
    split
    · exact kp
    · refine ih (State.sendOn_keep ?_)
      rw [keep_mk]
      exact State.countServed_keep kp

/-- What `State.pushPorts` keeps. -/
theorem State.pushPorts_keep {zz s : State} (kp : Keep zz s) :
    Keep zz (State.pushPorts s) := by
  unfold State.pushPorts
  repeat' first
    | with_reducible assumption
    | simp only [keep_mk]
    | with_reducible refine State.modPort_keep ?_
    | with_reducible refine keep_ite (fun _ => ?_) (fun _ => ?_)
    | with_reducible refine keep_foldl (fun _ _ _ => ?_) ?_

/-- What `State.pumpTrace` keeps. -/
theorem State.pumpTrace_keep {zz s : State} (kp : Keep zz s) :
    Keep zz (State.pumpTrace s) := by
  unfold State.pumpTrace
  repeat' first
    | with_reducible assumption
    | simp only [keep_mk]
    | with_reducible refine State.pushPorts_keep ?_
    | with_reducible refine State.sendReady_keep ?_

/-- What `State.noteRoutes` keeps. -/
theorem State.noteRoutes_keep {zz s : State} (kp : Keep zz s) :
    Keep zz (State.noteRoutes s) := by
  unfold State.noteRoutes
  repeat' first
    | with_reducible assumption
    | simp only [keep_mk]

/-- What `State.logPort` keeps. -/
theorem State.logPort_keep {zz s : State} {p} (kp : Keep zz s) :
    Keep zz (State.logPort s p) := by
  unfold State.logPort
  repeat' first
    | with_reducible assumption
    | with_reducible refine State.logEv_keep ?_

/-- What `State.quarantinePort` keeps. -/
theorem State.quarantinePort_keep {zz s : State} {p} (kp : Keep zz s) :
    Keep zz (State.quarantinePort s p) := by
  unfold State.quarantinePort
  repeat' first
    | with_reducible assumption
    | with_reducible refine State.logEv_keep ?_
    | with_reducible refine State.noteRoutes_keep ?_
    | with_reducible refine State.modPort_keep ?_
    | with_reducible refine keep_ite (fun _ => ?_) (fun _ => ?_)

/-- What `State.portViolation` keeps. -/
theorem State.portViolation_keep {zz s : State} {p n} (kp : Keep zz s) :
    Keep zz (State.portViolation s p n) := by
  unfold State.portViolation
  repeat' first
    | with_reducible assumption
    | simp only [keep_mk]
    | with_reducible refine State.logEv_keep ?_
    | with_reducible refine State.quarantinePort_keep ?_
    | with_reducible refine State.modPort_keep ?_
    | with_reducible refine keep_ite (fun _ => ?_) (fun _ => ?_)

/-- What `State.receive` keeps. -/
theorem State.receive_keep {s0 s : State} {p m} {act : State → State} (ha : ∀ t, Keep s0 t → Keep s0 (act t))
    (kp : Keep s0 s) : Keep s0 (State.receive s p m act) := by
  unfold State.receive
  extract_lets q n beyond s1
  split
  · exact kp
  · split
    · split
      · exact kp
      · exact State.ctl_keep (State.modPort_keep kp)
    · have k1 : Keep s0 s1 := State.modPort_keep kp
      repeat' first
        | with_reducible exact State.portViolation_keep k1
        | with_reducible exact State.ctl_keep k1
        | with_reducible exact ha _ k1
        | with_reducible refine keep_ite (fun _ => ?_) (fun _ => ?_)

/-- What `State.passOn` keeps. -/
theorem State.passOn_keep {s0 s : State} {m} {act : State → State} (ha : ∀ t, Keep s0 t → Keep s0 (act t))
    (kp : Keep s0 s) : Keep s0 (State.passOn s m act) := by
  unfold State.passOn
  repeat' first
    | exact ha _ kp
    | exact kp
    | with_reducible refine State.enqueue_keep ?_
    | with_reducible refine State.landIn_keep ?_
    | split

end Sys2Proof.Machine
end

