-- ==== Sys2Proof/Laws/KeepReinOps.lean ====
section
/-! SUPPORT. What the definitions of Machine/ReinOps.lean keep (Laws/Keep.lean). -/

namespace Sys2Proof.Machine

open Sys2Proof

/-- What clearing of poison markers keeps. -/
theorem keep_unpoison {s0 s : State} {p : Nat → Bool} (h : Keep s0 s) :
    Keep s0 { s with poison := s.poison.filter p } :=
  ⟨h.pend, h.free, h.mem, h.scratch, fun i => filter_rising (h.poison i), h.rings, h.log⟩

/-- What `State.clearPieces` keeps. -/
theorem State.clearPieces_keep {s0 s : State} {l base first last} (kp : Keep s0 s) :
    Keep s0 (State.clearPieces s l base first last) := by
  unfold State.clearPieces
  refine keep_foldl (fun t x k => ?_) kp
  dsimp only
  split
  · exact State.zeroKeys_keep k
  · exact keep_unpoison k

/-- What `State.writeSegs` keeps. -/
theorem State.writeSegs_keep {zz s : State} {f base gs data poison} (kp : Keep zz s) :
    Keep zz (State.writeSegs s f base gs data poison) := by
  unfold State.writeSegs
  repeat' first
    | with_reducible assumption
    | simp only [keep_mk]
    | with_reducible refine State.storeP_keep ?_
    | with_reducible refine keep_foldl (fun _ _ _ => ?_) ?_
    | with_reducible refine keep_foldl1 (fun _ _ _ => ?_) ?_

end Sys2Proof.Machine
end

