-- ==== Sys2Proof/Laws/KeepCollOps.lean ====
section
/-! SUPPORT. What the definitions of Machine/CollOps.lean keep (Laws/Keep.lean). -/

namespace Sys2Proof.Machine

open Sys2Proof

/-- What `State.modColl` keeps. -/
theorem State.modColl_keep {zz s : State} {w f} (kp : Keep zz s) :
    Keep zz (State.modColl s w f) := by
  unfold State.modColl
  repeat' first
    | with_reducible assumption
    | simp only [keep_mk]

/-- What `State.modGroup` keeps. -/
theorem State.modGroup_keep {zz s : State} {g f} (kp : Keep zz s) :
    Keep zz (State.modGroup s g f) := by
  unfold State.modGroup
  repeat' first
    | with_reducible assumption
    | simp only [keep_mk]

/-- What `State.landBytes` keeps. -/
theorem State.landBytes_keep {zz s : State} {w off bs poison} (kp : Keep zz s) :
    Keep zz (State.landBytes s w off bs poison) := by
  unfold State.landBytes
  repeat' first
    | with_reducible assumption
    | simp only [keep_mk]
    | with_reducible refine State.modColl_keep ?_
    | with_reducible refine State.storeLines_keep ?_
    | with_reducible refine keep_ite (fun _ => ?_) (fun _ => ?_)
    | with_reducible refine keep_foldl (fun _ _ _ => ?_) ?_
    | dsimp only
    | split

/-- What `State.landEntries` keeps. -/
theorem State.landEntries_keep {zz s : State} {w f off n bs poison} (kp : Keep zz s) :
    Keep zz (State.landEntries s w f off n bs poison) := by
  unfold State.landEntries
  repeat' first
    | with_reducible assumption
    | simp only [keep_mk]
    | with_reducible refine State.landBytes_keep ?_
    | with_reducible refine State.store_keep ?_
    | with_reducible refine keep_ite (fun _ => ?_) (fun _ => ?_)
    | with_reducible refine keep_foldl (fun _ _ _ => ?_) ?_
    | split

/-- What `State.mergeWindow` keeps. -/
theorem State.mergeWindow_keep {zz s : State} {w g win} (kp : Keep zz s) :
    Keep zz (State.mergeWindow s w g win) := by
  unfold State.mergeWindow
  repeat' first
    | with_reducible assumption
    | simp only [keep_mk]
    | with_reducible refine State.store_keep ?_
    | with_reducible refine State.landBytes_keep ?_
    | with_reducible refine State.writeG8_keep ?_
    | with_reducible refine State.modColl_keep ?_
    | with_reducible refine keep_ite (fun _ => ?_) (fun _ => ?_)
    | with_reducible refine keep_foldl (fun _ _ _ => ?_) ?_
    | split

/-- What `State.takeChunk` keeps. -/
theorem State.takeChunk_keep {zz s : State} {w g k x data poison} (kp : Keep zz s) :
    Keep zz (State.takeChunk s w g k x data poison) := by
  unfold State.takeChunk
  repeat' first
    | with_reducible assumption
    | simp only [keep_mk]
    | with_reducible refine State.modColl_keep ?_
    | with_reducible refine State.mergeWindow_keep ?_
    | with_reducible refine State.landEntries_keep ?_
    | with_reducible refine State.landBytes_keep ?_
    | with_reducible refine State.storeLines_keep ?_
    | with_reducible refine State.writeSegs_keep ?_
    | with_reducible refine keep_ite (fun _ => ?_) (fun _ => ?_)
    | with_reducible refine keep_foldl (fun _ _ _ => ?_) ?_
    | dsimp only
    | split

/-- What `State.commitDest` keeps. -/
theorem State.commitDest_keep {zz s : State} {n w total} (kp : Keep zz s) :
    Keep zz (State.commitDest n w total s) := by
  induction n generalizing s with
  | zero => exact kp
  | succ _ ih =>
    unfold State.commitDest
    repeat' first
      | with_reducible assumption
      | with_reducible refine ih ?_
      | simp only [keep_mk]
      | with_reducible refine State.modColl_keep ?_
      | with_reducible refine State.commitSlot_keep ?_
      | with_reducible refine keep_ite (fun _ => ?_) (fun _ => ?_)
      | split

/-- What `State.releaseSource` keeps. -/
theorem State.releaseSource_keep {zz s : State} {w g} (kp : Keep zz s) :
    Keep zz (State.releaseSource s w g) := by
  unfold State.releaseSource
  repeat' first
    | with_reducible assumption
    | simp only [keep_mk]
    | with_reducible refine State.modStream_keep ?_
    | with_reducible refine keep_ite (fun _ => ?_) (fun _ => ?_)
    | split

/-- What `State.sendAborts` keeps. -/
theorem State.sendAborts_keep {zz s : State} {g grp seq st} (kp : Keep zz s) :
    Keep zz (State.sendAborts s g grp seq st) := by
  unfold State.sendAborts
  repeat' first
    | with_reducible assumption
    | simp only [keep_mk]
    | with_reducible refine State.enqueue_keep ?_
    | with_reducible refine keep_foldl (fun _ _ _ => ?_) ?_

/-- What `State.failPermute` keeps. -/
theorem State.failPermute_keep {zz s : State} {p} (kp : Keep zz s) :
    Keep zz (State.failPermute s p) := by
  unfold State.failPermute
  repeat' first
    | with_reducible assumption
    | simp only [keep_mk]
    | with_reducible refine State.writeSlot_keep ?_
    | with_reducible refine State.modModel_keep ?_
    | with_reducible refine State.modSlot_keep ?_
    | with_reducible refine State.complete_keep ?_
    | with_reducible refine keep_ite (fun _ => ?_) (fun _ => ?_)
    | with_reducible refine keep_foldl (fun _ _ _ => ?_) ?_
    | split

/-- What `State.endColl` keeps. -/
theorem State.endColl_keep {zz s : State} {w st res det} (kp : Keep zz s) :
    Keep zz (State.endColl s w st res det) := by
  unfold State.endColl
  repeat' first
    | with_reducible assumption
    | simp only [keep_mk]
    | with_reducible refine State.closeStream_keep ?_
    | with_reducible refine State.resetEnd_keep ?_
    | with_reducible refine State.modStream_keep ?_
    | with_reducible refine State.modGroup_keep ?_
    | with_reducible refine State.complete_keep ?_
    | with_reducible refine keep_ite (fun _ => ?_) (fun _ => ?_)
    | split

/-- What `State.failColl` keeps. -/
theorem State.failColl_keep {zz s : State} {c st det} (kp : Keep zz s) :
    Keep zz (State.failColl s c st det) := by
  unfold State.failColl
  repeat' first
    | with_reducible assumption
    | with_reducible refine State.endColl_keep ?_
    | with_reducible refine State.failPermute_keep ?_
    | split

/-- What `State.abortColl` keeps. -/
theorem State.abortColl_keep {zz s : State} {c st det} (kp : Keep zz s) :
    Keep zz (State.abortColl s c st det) := by
  unfold State.abortColl
  repeat' first
    | with_reducible assumption
    | with_reducible refine State.sendAborts_keep ?_
    | with_reducible refine State.failColl_keep ?_
    | split

/-- What `State.endDispatch` keeps. -/
theorem State.endDispatch_keep {zz s : State} {c g} (kp : Keep zz s) :
    Keep zz (State.endDispatch s c g) := by
  unfold State.endDispatch
  repeat' first
    | with_reducible assumption
    | simp only [keep_mk]
    | with_reducible refine State.store_keep ?_
    | with_reducible refine State.endColl_keep ?_
    | with_reducible refine State.modGroup_keep ?_
    | with_reducible refine keep_ite (fun _ => ?_) (fun _ => ?_)

/-- What `State.tryEndColl` keeps. -/
theorem State.tryEndColl_keep {zz s : State} {w} (kp : Keep zz s) :
    Keep zz (State.tryEndColl s w) := by
  unfold State.tryEndColl
  repeat' first
    | with_reducible assumption
    | simp only [keep_mk]
    | with_reducible refine State.store_keep ?_
    | with_reducible refine State.landBytes_keep ?_
    | with_reducible refine State.endColl_keep ?_
    | with_reducible refine State.endDispatch_keep ?_
    | with_reducible refine State.modColl_keep ?_
    | with_reducible refine State.commitDest_keep ?_
    | with_reducible refine keep_ite (fun _ => ?_) (fun _ => ?_)
    | with_reducible refine keep_foldl (fun _ _ _ => ?_) ?_
    | split

/-- What `State.localMoves` keeps. -/
theorem State.localMoves_keep {zz s : State} {w g} (kp : Keep zz s) :
    Keep zz (State.localMoves s w g) := by
  unfold State.localMoves
  repeat' first
    | with_reducible assumption
    | simp only [keep_mk]
    | with_reducible refine State.takeChunk_keep ?_
    | with_reducible refine keep_ite (fun _ => ?_) (fun _ => ?_)
    | with_reducible refine keep_foldl (fun _ _ _ => ?_) ?_
    | split

/-- What `State.sendChunks` keeps. -/
theorem State.sendChunks_keep {zz s : State} {w g} (kp : Keep zz s) :
    Keep zz (State.sendChunks s w g) := by
  unfold State.sendChunks
  repeat' first
    | with_reducible assumption
    | simp only [keep_mk]
    | with_reducible refine State.landIn_keep ?_
    | with_reducible refine State.landIn_keep' (by assumption) ?_
    | with_reducible refine State.enqueue_keep ?_
    | with_reducible refine State.modColl_keep ?_
    | with_reducible refine keep_ite (fun _ => ?_) (fun _ => ?_)
    | with_reducible refine keep_foldl (fun _ _ _ => ?_) ?_
    | with_reducible refine keep_foldl1 (fun _ _ _ => ?_) ?_
    | with_reducible refine keep_foldl2 (fun _ _ _ => ?_) ?_
    | with_reducible refine keep_foldl1' (by assumption) (fun _ _ _ => ?_) ?_
    | with_reducible refine keep_foldl2' (by assumption) (fun _ _ _ => ?_) ?_
    | dsimp only
    | split

/-- What `State.replyKeys` keeps. -/
theorem State.replyKeys_keep {zz s : State} {w g} (kp : Keep zz s) :
    Keep zz (State.replyKeys s w g) := by
  unfold State.replyKeys
  repeat' first
    | with_reducible assumption
    | simp only [keep_mk]
    | with_reducible refine State.store_keep ?_
    | with_reducible refine State.enqueue_keep ?_
    | with_reducible refine State.modColl_keep ?_
    | with_reducible refine keep_ite (fun _ => ?_) (fun _ => ?_)
    | with_reducible refine keep_foldl (fun _ _ _ => ?_) ?_
    | split

/-- What `State.beginPermute` keeps. -/
theorem State.beginPermute_keep {zz s : State} {p} (kp : Keep zz s) :
    Keep zz (State.beginPermute s p) := by
  unfold State.beginPermute
  repeat' first
    | with_reducible assumption
    | simp only [keep_mk]
    | with_reducible refine State.clearPieces_keep ?_
    | with_reducible refine State.modSlot_keep ?_
    | with_reducible refine State.writeSlot_keep ?_
    | with_reducible refine keep_ite (fun _ => ?_) (fun _ => ?_)
    | dsimp only
    | split

/-- What `State.wakePermute` keeps. -/
theorem State.wakePermute_keep {zz s : State} {w} (kp : Keep zz s) :
    Keep zz (State.wakePermute s w) := by
  unfold State.wakePermute
  repeat' first
    | with_reducible assumption
    | with_reducible refine State.abortColl_keep ?_
    | with_reducible refine State.modColl_keep ?_
    | with_reducible refine State.beginPermute_keep ?_
    | with_reducible refine keep_ite (fun _ => ?_) (fun _ => ?_)
    | split

/-- What `State.beginExch` keeps. -/
theorem State.beginExch_keep {zz s : State} {w} (kp : Keep zz s) :
    Keep zz (State.beginExch s w) := by
  unfold State.beginExch
  repeat' first
    | with_reducible assumption
    | simp only [keep_mk]
    | with_reducible refine State.modExch_keep ?_
    | with_reducible refine State.writeRout_keep ?_
    | with_reducible refine keep_ite (fun _ => ?_) (fun _ => ?_)
    | dsimp only
    | split

/-- What `State.pumpColl` keeps. -/
theorem State.pumpColl_keep {zz s : State} {w} (kp : Keep zz s) :
    Keep zz (State.pumpColl s w) := by
  unfold State.pumpColl
  repeat' first
    | with_reducible assumption
    | simp only [keep_mk]
    | with_reducible refine State.wakePermute_keep ?_
    | with_reducible refine State.beginExch_keep ?_
    | with_reducible refine State.replyKeys_keep ?_
    | with_reducible refine State.localMoves_keep ?_
    | with_reducible refine State.sendChunks_keep ?_
    | with_reducible refine State.releaseSource_keep ?_
    | with_reducible refine State.commitDest_keep ?_
    | with_reducible refine State.tryEndColl_keep ?_
    | with_reducible refine keep_ite (fun _ => ?_) (fun _ => ?_)
    | dsimp only
    | split

/-- What `State.pumpAll` keeps. -/
theorem State.pumpAll_keep {zz s : State} (kp : Keep zz s) :
    Keep zz (State.pumpAll s) := by
  unfold State.pumpAll
  repeat' first
    | with_reducible assumption
    | with_reducible refine State.noteRoutes_keep ?_
    | with_reducible refine State.pumpTrace_keep ?_
    | with_reducible refine State.pumpColl_keep ?_
    | with_reducible refine keep_ite (fun _ => ?_) (fun _ => ?_)
    | with_reducible refine keep_foldl (fun _ _ _ => ?_) ?_

/-- What `State.sendGrant` keeps. -/
theorem State.sendGrant_keep {zz s : State} {c g k x} (kp : Keep zz s) :
    Keep zz (State.sendGrant s c g k x) := by
  unfold State.sendGrant
  repeat' first
    | with_reducible assumption
    | simp only [keep_mk]
    | with_reducible refine State.enqueue_keep ?_
    | with_reducible refine State.modGroup_keep ?_
    | with_reducible refine State.modColl_keep ?_
    | split

/-- What `State.sendJoin` keeps. -/
theorem State.sendJoin_keep {zz s : State} {c g k} (kp : Keep zz s) :
    Keep zz (State.sendJoin s c g k) := by
  unfold State.sendJoin
  repeat' first
    | with_reducible assumption
    | simp only [keep_mk]
    | with_reducible refine State.enqueue_keep ?_
    | with_reducible refine State.modGroup_keep ?_
    | with_reducible refine keep_ite (fun _ => ?_) (fun _ => ?_)
    | dsimp only
    | split

/-- What `State.greet` keeps. -/
theorem State.greet_keep {zz s : State} {w} (kp : Keep zz s) :
    Keep zz (State.greet s w) := by
  unfold State.greet
  repeat' first
    | with_reducible assumption
    | simp only [keep_mk]
    | with_reducible refine State.sendJoin_keep ?_
    | with_reducible refine keep_foldl (fun _ _ _ => ?_) ?_
    | dsimp only
    | split

/-- What `State.issueGrant` keeps. -/
theorem State.issueGrant_keep {zz s : State} {c g} (kp : Keep zz s) :
    Keep zz (State.issueGrant s c g) := by
  unfold State.issueGrant
  repeat' first
    | with_reducible assumption
    | simp only [keep_mk]
    | with_reducible refine State.sendGrant_keep ?_
    | with_reducible refine keep_ite (fun _ => ?_) (fun _ => ?_)
    | split

/-- What `State.takeGrant` keeps. -/
theorem State.takeGrant_keep {zz s : State} {p m} (kp : Keep zz s) :
    Keep zz (State.takeGrant s p m) := by
  unfold State.takeGrant
  repeat' first
    | with_reducible assumption
    | simp only [keep_mk]
    | with_reducible refine State.ctl_keep ?_
    | with_reducible refine State.portViolation_keep ?_
    | with_reducible refine State.abortColl_keep ?_
    | with_reducible refine State.modColl_keep ?_
    | with_reducible refine keep_ite (fun _ => ?_) (fun _ => ?_)
    | split

/-- What `State.takeKeys` keeps. -/
theorem State.takeKeys_keep {zz s : State} {p m} (kp : Keep zz s) :
    Keep zz (State.takeKeys s p m) := by
  unfold State.takeKeys
  repeat' first
    | with_reducible assumption
    | simp only [keep_mk]
    | with_reducible refine State.portViolation_keep ?_
    | with_reducible refine State.abortColl_keep ?_
    | with_reducible refine State.modColl_keep ?_
    | with_reducible refine keep_ite (fun _ => ?_) (fun _ => ?_)
    | split

/-- What `State.takeEarly` keeps. -/
theorem State.takeEarly_keep {zz s : State} {c} (kp : Keep zz s) :
    Keep zz (State.takeEarly s c) := by
  unfold State.takeEarly
  repeat' first
    | with_reducible assumption
    | simp only [keep_mk]
    | with_reducible refine State.takeGrant_keep ?_
    | with_reducible refine State.takeKeys_keep ?_
    | with_reducible refine keep_ite (fun _ => ?_) (fun _ => ?_)
    | with_reducible refine keep_foldl (fun _ _ _ => ?_) ?_

/-- What `State.startColl` keeps. -/
theorem State.startColl_keep {zz tk s : State} {c g explicit timeout} (ek : State.startColl s c g explicit timeout = .ok tk)
    (kp : Keep zz s) : Keep zz tk := by
  revert ek
  suffices KeepE zz (State.startColl s c g explicit timeout) from this tk
  unfold State.startColl
  repeat' first
    | with_reducible assumption
    | simp only [keep_mk]
    | with_reducible refine keepE_ok ?_
    | with_reducible refine State.takeEarly_keep ?_
    | with_reducible refine State.modGroup_keep ?_
    | with_reducible refine State.complete_keep ?_
    | with_reducible refine keepE_bind (fun _ _ => ?_)
    | split

/-- What `State.loseMember` keeps. -/
theorem State.loseMember_keep {zz s : State} {part} (kp : Keep zz s) :
    Keep zz (State.loseMember s part) := by
  unfold State.loseMember
  repeat' first
    | with_reducible assumption
    | simp only [keep_mk]
    | with_reducible refine State.failColl_keep ?_
    | with_reducible refine State.logEv_keep ?_
    | with_reducible refine keep_ite (fun _ => ?_) (fun _ => ?_)
    | with_reducible refine keep_foldl (fun _ _ _ => ?_) ?_
    | split

/-- What `State.dropGroup` keeps. -/
theorem State.dropGroup_keep {zz s : State} {k g} (kp : Keep zz s) :
    Keep zz (State.dropGroup s k g) := by
  unfold State.dropGroup
  repeat' first
    | with_reducible assumption
    | simp only [keep_mk]
    | with_reducible refine State.release_keep ?_
    | with_reducible refine keep_ite (fun _ => ?_) (fun _ => ?_)

/-- What `State.dropLayout` keeps. -/
theorem State.dropLayout_keep {zz s : State} {h l} (kp : Keep zz s) :
    Keep zz (State.dropLayout s h l) := by
  unfold State.dropLayout
  repeat' first
    | with_reducible assumption
    | simp only [keep_mk]
    | with_reducible refine State.release_keep ?_
    | with_reducible refine keep_ite (fun _ => ?_) (fun _ => ?_)

/-- What `State.tryColl` keeps. -/
theorem State.tryColl_keep {zz s : State} {x} (kp : Keep zz s) :
    Keep zz (State.tryColl s x) := by
  unfold State.tryColl
  repeat' first
    | with_reducible assumption
    | simp only [keep_mk]
    | with_reducible refine State.complete_keep ?_
    | with_reducible refine State.dropGroup_keep ?_
    | with_reducible refine State.dropLayout_keep ?_
    | with_reducible refine State.modSet_keep ?_
    | with_reducible refine State.tryGen_keep ?_
    | with_reducible refine keep_ite (fun _ => ?_) (fun _ => ?_)
    | dsimp only
    | split

end Sys2Proof.Machine
end

