-- ==== Sys2Proof/Laws/KeepMoorOps.lean ====
section
/-! SUPPORT. What the definitions of Machine/MoorOps.lean keep (Laws/Keep.lean). -/

namespace Sys2Proof.Machine

open Sys2Proof

/-- What `State.modMoor` keeps. -/
theorem State.modMoor_keep {zz s : State} {k f} (kp : Keep zz s) :
    Keep zz (State.modMoor s k f) := by
  unfold State.modMoor
  repeat' first
    | with_reducible assumption
    | simp only [keep_mk]

/-- What `State.putCellAt` keeps. -/
theorem State.putCellAt_keep {zz s : State} {a bs bad} (kp : Keep zz s) :
    Keep zz (State.putCellAt s a bs bad) := by
  unfold State.putCellAt
  repeat' first
    | with_reducible assumption
    | simp only [keep_mk]
    | with_reducible refine State.clearLine_keep ?_
    | with_reducible refine State.poisonLine_keep ?_
    | with_reducible refine State.putBytes_keep ?_
    | with_reducible refine keep_foldl (fun _ _ _ => ?_) ?_

/-- What `State.putCell` keeps. -/
theorem State.putCell_keep {zz s : State} {m c bs bad} (kp : Keep zz s) :
    Keep zz (State.putCell s m c bs bad) := by
  unfold State.putCell
  repeat' first
    | with_reducible assumption
    | with_reducible refine State.putCellAt_keep ?_
    | split

/-- What `State.putParity` keeps. -/
theorem State.putParity_keep {zz s : State} {m r x bs bad} (kp : Keep zz s) :
    Keep zz (State.putParity s m r x bs bad) := by
  unfold State.putParity
  repeat' first
    | with_reducible assumption
    | with_reducible refine State.putCellAt_keep ?_
    | with_reducible refine keep_ite (fun _ => ?_) (fun _ => ?_)

/-- What `State.sendCell` keeps. -/
theorem State.sendCell_keep {zz s : State} {k x to_ sh} (kp : Keep zz s) :
    Keep zz (State.sendCell s k x to_ sh) := by
  unfold State.sendCell
  repeat' first
    | with_reducible assumption
    | simp only [keep_mk]
    | with_reducible refine State.landIn_keep ?_
    | with_reducible refine State.landIn_keep' (by assumption) ?_
    | dsimp only
    | split

/-- What `State.enterMoor` keeps. -/
theorem State.enterMoor_keep {zz s : State} {k st} (kp : Keep zz s) :
    Keep zz (State.enterMoor s k st) := by
  unfold State.enterMoor
  repeat' first
    | with_reducible assumption
    | with_reducible refine State.modMoor_keep ?_
    | with_reducible refine State.logWith_keep ?_
    | split

/-- What `State.endMoorCmds` keeps. -/
theorem State.endMoorCmds_keep {zz s : State} {k st} (kp : Keep zz s) :
    Keep zz (State.endMoorCmds s k st) := by
  unfold State.endMoorCmds
  repeat' first
    | with_reducible assumption
    | simp only [keep_mk]
    | with_reducible refine State.completeAll_keep ?_
    | with_reducible refine State.modMoor_keep ?_
    | split

/-- What `State.loseMoor` keeps. -/
theorem State.loseMoor_keep {zz s : State} {k} (kp : Keep zz s) :
    Keep zz (State.loseMoor s k) := by
  unfold State.loseMoor
  repeat' first
    | with_reducible assumption
    | with_reducible refine State.enterMoor_keep ?_
    | with_reducible refine State.endMoorCmds_keep ?_

/-- What `State.startRefresh` keeps. -/
theorem State.startRefresh_keep {zz s : State} {k full w} (kp : Keep zz s) :
    Keep zz (State.startRefresh s k full w) := by
  unfold State.startRefresh
  repeat' first
    | with_reducible assumption
    | simp only [keep_mk]
    | with_reducible refine State.sendCell_keep ?_
    | with_reducible refine State.modMoor_keep ?_
    | with_reducible refine keep_foldl (fun _ _ _ => ?_) ?_
    | split

/-- What `State.commitEpoch` keeps. -/
theorem State.commitEpoch_keep {zz s : State} {k} (kp : Keep zz s) :
    Keep zz (State.commitEpoch s k) := by
  unfold State.commitEpoch
  repeat' first
    | with_reducible assumption
    | simp only [keep_mk]
    | with_reducible refine State.modMoor_keep ?_
    | with_reducible refine State.complete_keep ?_
    | split

/-- What `State.sweepEpoch` keeps. -/
theorem State.sweepEpoch_keep {zz s : State} {pad} (kp : Keep zz s) :
    Keep zz (State.sweepEpoch s pad) := by
  unfold State.sweepEpoch
  repeat' first
    | with_reducible assumption
    | with_reducible refine State.startRefresh_keep ?_
    | with_reducible refine keep_ite (fun _ => ?_) (fun _ => ?_)
    | with_reducible refine keep_foldl (fun _ _ _ => ?_) ?_

/-- What `State.moorLoses` keeps. -/
theorem State.moorLoses_keep {zz s : State} {k part cells} (kp : Keep zz s) :
    Keep zz (State.moorLoses s k part cells) := by
  unfold State.moorLoses
  repeat' first
    | with_reducible assumption
    | simp only [keep_mk]
    | with_reducible refine State.loseMoor_keep ?_
    | with_reducible refine State.completeAll_keep ?_
    | with_reducible refine State.logEv_keep ?_
    | with_reducible refine State.enterMoor_keep ?_
    | with_reducible refine State.modMoor_keep ?_
    | with_reducible refine State.complete_keep ?_
    | with_reducible refine keep_ite (fun _ => ?_) (fun _ => ?_)
    | with_reducible refine keep_foldl (fun _ _ _ => ?_) ?_
    | split

/-- What `State.startRebuild` keeps. -/
theorem State.startRebuild_keep {zz s : State} {k lost spare timeout} (kp : Keep zz s) :
    Keep zz (State.startRebuild s k lost spare timeout) := by
  unfold State.startRebuild
  repeat' first
    | with_reducible assumption
    | simp only [keep_mk]
    | with_reducible refine State.enterMoor_keep ?_
    | with_reducible refine State.sendCell_keep ?_
    | with_reducible refine State.modMoor_keep ?_
    | with_reducible refine keep_ite (fun _ => ?_) (fun _ => ?_)
    | with_reducible refine keep_foldl (fun _ _ _ => ?_) ?_
    | split

/-- What `State.rebuildCells` keeps. -/
theorem State.rebuildCells_keep {zz s : State} {m r got} (kp : Keep zz s) :
    Keep zz (State.rebuildCells s m r got) := by
  unfold State.rebuildCells
  repeat' first
    | with_reducible assumption
    | simp only [keep_mk]
    | with_reducible refine State.putParity_keep ?_
    | with_reducible refine State.putCell_keep ?_
    | with_reducible refine keep_ite (fun _ => ?_) (fun _ => ?_)
    | with_reducible refine keep_foldl (fun _ _ _ => ?_) ?_
    | split

/-- What `State.moorTimeout` keeps. -/
theorem State.moorTimeout_keep {zz s : State} {k} (kp : Keep zz s) :
    Keep zz (State.moorTimeout s k) := by
  unfold State.moorTimeout
  repeat' first
    | with_reducible assumption
    | simp only [keep_mk]
    | with_reducible refine State.endMoorCmds_keep ?_
    | with_reducible refine State.reach_keep ?_
    | with_reducible refine State.enterMoor_keep ?_
    | with_reducible refine State.modMoor_keep ?_
    | with_reducible refine keep_ite (fun _ => ?_) (fun _ => ?_)
    | split

/-- What `State.repairLine` keeps. -/
theorem State.repairLine_keep {zz tk s : State} {k line shares} (ek : State.repairLine s k line shares = some tk) (kp : Keep zz s) :
    Keep zz tk := by
  suffices KeepO zz (fun a => a) (State.repairLine s k line shares) from this _ ek
  unfold State.repairLine
  repeat' first
    | with_reducible assumption
    | simp only [keep_mk]
    | with_reducible refine keepO_some ?_
    | exact keepO_none
    | with_reducible refine State.clearLine_keep ?_
    | with_reducible refine State.putBytes_keep ?_
    | split

/-- What `State.repairLines` keeps. -/
theorem State.repairLines_keep {zz s : State} {k lines shares} (kp : Keep zz s) :
    Keep zz (State.repairLines s k lines shares).1 := by
  unfold State.repairLines
  repeat' first
    | with_reducible assumption
    | simp only [keep_mk]
    | with_reducible refine State.repairLine_keep (by assumption) ?_
    | with_reducible refine State.logEv_keep ?_
    | with_reducible refine keep_foldl1 (fun _ _ _ => ?_) ?_
    | split

/-- What the answer of `State.repairLines` keeps. -/
theorem State.repairLines_keep' {zz tk s : State} {k lines shares} {xk} (ek : State.repairLines s k lines shares = (tk, xk))
    (kp : Keep zz s) : Keep zz tk := by
  have := State.repairLines_keep (kp) (k := k) (lines := lines) (shares := shares)
  rwa [ek] at this

/-- What `State.dropMoor` keeps. -/
theorem State.dropMoor_keep {zz s : State} {k m} (kp : Keep zz s) :
    Keep zz (State.dropMoor s k m) := by
  unfold State.dropMoor
  repeat' first
    | with_reducible assumption
    | simp only [keep_mk]
    | with_reducible refine State.release_keep ?_
    | with_reducible refine keep_ite (fun _ => ?_) (fun _ => ?_)

/-- What `State.tryMoor` keeps. -/
theorem State.tryMoor_keep {zz s : State} {x} (kp : Keep zz s) :
    Keep zz (State.tryMoor s x) := by
  unfold State.tryMoor
  repeat' first
    | with_reducible assumption
    | with_reducible refine State.dropMoor_keep ?_
    | with_reducible refine State.complete_keep ?_
    | with_reducible refine State.tryColl_keep ?_
    | with_reducible refine keep_ite (fun _ => ?_) (fun _ => ?_)
    | split

end Sys2Proof.Machine
end

