-- ==== Sys2Proof/Laws/KeepQuayOps.lean ====
section
/-! SUPPORT. What the definitions of Machine/QuayOps.lean keep (Laws/Keep.lean). -/

namespace Sys2Proof.Machine

open Sys2Proof

/-- What `State.modQuay` keeps. -/
theorem State.modQuay_keep {zz s : State} {h f} (kp : Keep zz s) :
    Keep zz (State.modQuay s h f) := by
  unfold State.modQuay
  repeat' first
    | with_reducible assumption
    | simp only [keep_mk]

/-- What `State.quayStore` keeps. -/
theorem State.quayStore_keep {zz s : State} {q off bs} (kp : Keep zz s) :
    Keep zz (State.quayStore s q off bs) := by
  unfold State.quayStore
  repeat' first
    | with_reducible assumption
    | with_reducible refine State.padStore_keep ?_
    | with_reducible refine State.hostWrite_keep ?_
    | with_reducible refine keep_ite (fun _ => ?_) (fun _ => ?_)

/-- What `State.quayRecord` keeps. -/
theorem State.quayRecord_keep {zz s : State} {h bs} (kp : Keep zz s) :
    Keep zz (State.quayRecord s h bs) := by
  unfold State.quayRecord
  repeat' first
    | with_reducible assumption
    | simp only [keep_mk]
    | with_reducible refine State.modQuay_keep ?_
    | with_reducible refine State.quayStore_keep ?_
    | with_reducible refine State.completeAll_keep ?_
    | split

/-- What `State.finishQuay` keeps. -/
theorem State.finishQuay_keep {zz s : State} {h st} (kp : Keep zz s) :
    Keep zz (State.finishQuay s h st) := by
  unfold State.finishQuay
  repeat' first
    | with_reducible assumption
    | simp only [keep_mk]
    | with_reducible refine State.closeStream_keep ?_
    | with_reducible refine State.release_keep ?_
    | with_reducible refine State.modQuay_keep ?_
    | with_reducible refine State.quayRecord_keep ?_
    | with_reducible refine State.modStream_keep ?_
    | with_reducible refine State.completeAll_keep ?_
    | with_reducible refine State.logEv_keep ?_
    | with_reducible refine State.complete_keep ?_
    | with_reducible refine keep_ite (fun _ => ?_) (fun _ => ?_)
    | split

/-- What `State.endQuay` keeps. -/
theorem State.endQuay_keep {zz s : State} {h st} (kp : Keep zz s) :
    Keep zz (State.endQuay s h st) := by
  unfold State.endQuay
  repeat' first
    | with_reducible assumption
    | simp only [keep_mk]
    | with_reducible refine State.modQuay_keep ?_

/-- What `State.stopQuay` keeps. -/
theorem State.stopQuay_keep {zz s : State} {h st} (kp : Keep zz s) :
    Keep zz (State.stopQuay s h st) := by
  unfold State.stopQuay
  repeat' first
    | with_reducible assumption
    | with_reducible refine State.finishQuay_keep ?_
    | with_reducible refine State.modQuay_keep ?_

/-- What `State.quayStep` keeps. -/
theorem State.quayStep_keep {zz tk s : State} {h} (ek : State.quayStep s h = some tk) (kp : Keep zz s) :
    Keep zz tk := by
  suffices KeepO zz (fun a => a) (State.quayStep s h) from this _ ek
  unfold State.quayStep
  repeat' first
    | with_reducible assumption
    | simp only [keep_mk]
    | with_reducible refine keepO_some ?_
    | exact keepO_none
    | with_reducible refine State.endQuay_keep ?_
    | with_reducible refine State.deliver_keep' (by assumption) ?_
    | with_reducible refine State.stopQuay_keep ?_
    | with_reducible refine State.modQuay_keep ?_
    | with_reducible refine State.quayRecord_keep ?_
    | with_reducible refine State.finishQuay_keep ?_
    | with_reducible refine State.commitSlot_keep ?_
    | split

/-- What `State.quayGo` keeps. -/
theorem State.quayGo_keep {zz s : State} {h n} (kp : Keep zz s) :
    Keep zz (State.quayGo h n s) := by
  induction n generalizing s with
  | zero => exact kp
  | succ _ ih =>
    unfold State.quayGo
    repeat' first
      | with_reducible assumption
      | with_reducible refine ih ?_
      | with_reducible refine State.quayStep_keep (by assumption) ?_
      | split

/-- What `State.flushQuays` keeps. -/
theorem State.flushQuays_keep {zz s : State} (kp : Keep zz s) :
    Keep zz (State.flushQuays s) := by
  unfold State.flushQuays
  repeat' first
    | with_reducible assumption
    | with_reducible refine State.quayGo_keep ?_
    | with_reducible refine keep_foldl (fun _ _ _ => ?_) ?_

end Sys2Proof.Machine
end

