-- ==== Sys2Proof/Laws/KeepSettle.lean ====
section
/-! SUPPORT. What the definitions of Machine/Settle.lean keep (Laws/Keep.lean). -/

namespace Sys2Proof.Machine

open Sys2Proof

/-- What `State.dropKernel` keeps. -/
theorem State.dropKernel_keep {zz s : State} {h k} (kp : Keep zz s) :
    Keep zz (State.dropKernel s h k) := by
  unfold State.dropKernel
  repeat' first
    | with_reducible assumption
    | simp only [keep_mk]
    | with_reducible refine State.releaseAll_keep ?_

/-- What `State.closeSession` keeps. -/
theorem State.closeSession_keep {zz s : State} {f id} (kp : Keep zz s) :
    Keep zz (State.closeSession s f id) := by
  unfold State.closeSession
  repeat' first
    | with_reducible assumption
    | simp only [keep_mk]
    | with_reducible refine State.modFn_keep ?_

/-- What `State.tryWait` keeps. -/
theorem State.tryWait_keep {zz s : State} {x} (kp : Keep zz s) :
    Keep zz (State.tryWait s x) := by
  unfold State.tryWait
  repeat' first
    | with_reducible assumption
    | simp only [keep_mk]
    | with_reducible refine State.closeSession_keep ?_
    | with_reducible refine State.complete_keep ?_
    | with_reducible refine State.progress_keep ?_
    | with_reducible refine State.dropKernel_keep ?_
    | with_reducible refine State.ended_keep ?_
    | with_reducible refine State.memFree_keep (by assumption) ?_
    | with_reducible refine State.release_keep ?_
    | with_reducible refine State.retireTeam_keep ?_
    | with_reducible refine State.tryMoor_keep ?_
    | with_reducible refine keep_ite (fun _ => ?_) (fun _ => ?_)
    | dsimp only
    | split

/-- What `State.convert` keeps. -/
theorem State.convert_keep {zz s : State} {w} (kp : Keep zz s) :
    Keep zz (State.convert s w) := by
  unfold State.convert
  repeat' first
    | with_reducible assumption
    | simp only [keep_mk]
    | with_reducible refine State.dropRestore_keep ?_
    | with_reducible refine State.modTask_keep ?_
    | with_reducible refine keep_ite (fun _ => ?_) (fun _ => ?_)
    | dsimp only
    | split

/-- What `State.leaveTeams` keeps. -/
theorem State.leaveTeams_keep {zz s : State} (kp : Keep zz s) :
    Keep zz (State.leaveTeams s) := by
  unfold State.leaveTeams
  repeat' first
    | with_reducible assumption
    | simp only [keep_mk]
    | with_reducible refine State.convert_keep ?_
    | with_reducible refine State.modPaddock_keep ?_
    | with_reducible refine keep_ite (fun _ => ?_) (fun _ => ?_)
    | with_reducible refine keep_foldl (fun _ _ _ => ?_) ?_

/-- What `State.settleOnce` keeps. -/
theorem State.settleOnce_keep {zz s : State} (kp : Keep zz s) :
    Keep zz (State.settleOnce s) := by
  unfold State.settleOnce
  repeat' first
    | with_reducible assumption
    | with_reducible refine State.tryWait_keep ?_
    | with_reducible refine keep_foldl (fun _ _ _ => ?_) ?_

/-- What `State.settleGo` keeps. -/
theorem State.settleGo_keep {zz s : State} {n} (kp : Keep zz s) :
    Keep zz (State.settleGo n s) := by
  induction n generalizing s with
  | zero => exact kp
  | succ _ ih =>
    unfold State.settleGo
    repeat' first
      | with_reducible assumption
      | with_reducible refine ih ?_
      | with_reducible refine State.settleOnce_keep ?_

/-- What `State.settle` keeps. -/
theorem State.settle_keep {zz s : State} (kp : Keep zz s) :
    Keep zz (State.settle s) := by
  unfold State.settle
  repeat' first
    | with_reducible assumption
    | with_reducible refine State.flushQuays_keep ?_
    | with_reducible refine State.flushRings_keep ?_
    | with_reducible refine State.sweepLoops_keep ?_
    | with_reducible refine State.settleGo_keep ?_
    | with_reducible refine State.leaveTeams_keep ?_
    | with_reducible refine State.pumpAll_keep ?_
    | with_reducible refine State.autoTeams_keep ?_

/-- What a slot command keeps. -/
theorem run_keep {tk s : State} {op w hm} {body : Cmd → State → Except Err State}
    (ek : run op w hm s body = .next tk) (hb : ∀ c t, Keep s t → KeepE s (body c t)) : Keep s tk := by
  injection ek with ek
  subst ek
  exact State.settle_keep (State.dispatch_keep hb (Keep.refl s))

/-- What an event keeps. -/
theorem event_keep {zz s tk : State} (ek : event s = .next tk) (kp : Keep zz s) : Keep zz tk := by
  injection ek with ek
  subst ek
  exact State.settle_keep kp

end Sys2Proof.Machine
end

