-- ==== Sys2Proof/Laws/KeepInstrOps.lean ====
section
/-! SUPPORT. What the definitions of Machine/InstrOps.lean keep (Laws/Keep.lean). -/

namespace Sys2Proof.Machine

open Sys2Proof

/-- What `State.onSite` keeps. -/
theorem State.onSite_keep {s0 s : State} {k} {f : State → BitVec 64 → Task → Nat → Nat → State}
    (hf : ∀ u w t r key, Keep s0 u → Keep s0 (f u w t r key)) (kp : Keep s0 s) : Keep s0 (State.onSite s k f) := by
  unfold State.onSite
  split
  · exact kp
  · split
    · exact kp
    · exact hf _ _ _ _ _ (State.modCtx_keep kp)

/-- What `State.trapAt` keeps. -/
theorem State.trapAt_keep {zz s : State} {w rank k cause addr} (kp : Keep zz s) :
    Keep zz (State.trapAt s w rank k cause addr) := by
  unfold State.trapAt
  repeat' first
    | with_reducible assumption
    | with_reducible refine State.raise_keep ?_

/-- What `State.onVec` keeps. -/
theorem State.onVec_keep {zz s : State} {k ok f} (kp : Keep zz s) :
    Keep zz (State.onVec s k ok f) := by
  unfold State.onVec
  repeat' first
    | with_reducible assumption
    | with_reducible refine State.modCtx_keep ?_
    | with_reducible refine State.onSite_keep (fun _ _ _ _ _ _ => ?_) ?_
    | with_reducible refine State.trapAt_keep ?_
    | with_reducible refine keep_ite (fun _ => ?_) (fun _ => ?_)

/-- What `State.scratchWrite` keeps. -/
theorem State.scratchWrite_keep {s0 s : State} {l core base off bs} (kp : Keep s0 s) :
    Keep s0 (State.scratchWrite s l core base off bs) :=
  keep_scratch kp wf_foldl

/-- What `State.basinEcc` keeps. -/
theorem State.basinEcc_keep {zz s : State} {ecc} (kp : Keep zz s) :
    Keep zz (State.basinEcc s ecc) := by
  unfold State.basinEcc
  repeat' first
    | with_reducible assumption
    | simp only [keep_mk]
    | with_reducible refine State.poisonLine_keep ?_
    | with_reducible refine State.logEv_keep ?_
    | with_reducible refine keep_ite (fun _ => ?_) (fun _ => ?_)
    | with_reducible refine keep_foldl (fun _ _ _ => ?_) ?_

/-- What `State.setPosition` keeps. -/
theorem State.setPosition_keep {zz s : State} {w rank h n} (kp : Keep zz s) :
    Keep zz (State.setPosition s w rank h n) := by
  unfold State.setPosition
  repeat' first
    | with_reducible assumption
    | simp only [keep_mk]
    | with_reducible refine State.modCtx_keep ?_
    | with_reducible refine keep_foldl (fun _ _ _ => ?_) ?_
    | dsimp only
    | split

/-- What `State.giveBurst` keeps. -/
theorem State.giveBurst_keep {zz s : State} {h b r} (kp : Keep zz s) :
    Keep zz (State.giveBurst s h b r) := by
  unfold State.giveBurst
  repeat' first
    | with_reducible assumption
    | simp only [keep_mk]
    | with_reducible refine State.setPosition_keep ?_
    | with_reducible refine State.answer_keep ?_
    | with_reducible refine State.modBind_keep ?_
    | dsimp only
    | split

/-- What `State.requestBurst` keeps. -/
theorem State.requestBurst_keep {zz s : State} {h b} (kp : Keep zz s) :
    Keep zz (State.requestBurst s h b) := by
  unfold State.requestBurst
  repeat' first
    | with_reducible assumption
    | simp only [keep_mk]
    | with_reducible refine State.deliver_keep ?_
    | with_reducible refine State.deliver_keep' (by assumption) ?_
    | with_reducible refine State.giveBurst_keep ?_
    | with_reducible refine State.modStream_keep ?_
    | dsimp only
    | split

/-- What `State.commitBytes` keeps. -/
theorem State.commitBytes_keep {zz s : State} {h bs} (kp : Keep zz s) :
    Keep zz (State.commitBytes s h bs) := by
  unfold State.commitBytes
  repeat' first
    | with_reducible assumption
    | with_reducible refine State.store_keep ?_
    | with_reducible refine State.setStream_keep ?_
    | split

end Sys2Proof.Machine
end

