-- ==== Sys2Proof/Laws/KeepVector.lean ====
section
/-! SUPPORT. What the definitions of Machine/Vector.lean keep (Laws/Keep.lean). -/

namespace Sys2Proof.Machine

open Sys2Proof

/-- What `execQmx` keeps. -/
theorem execQmx_keep {tk s : State} {k f ln hi r vs vd sd} (ek : execQmx k f ln hi r vs vd sd s = .next tk) : Keep s tk := by
  have kp := Keep.refl s
  refine event_keep ek ?_
  repeat' first
    | with_reducible assumption
    | simp only [keep_mk]
    | with_reducible refine State.onVec_keep ?_
    | split

/-- What `execVectorArithmetic` keeps. -/
theorem execVectorArithmetic_keep {tk s : State} {k op ln r vd va vb vc} (ek : execVectorArithmetic k op ln r vd va vb vc s = .next tk) : Keep s tk := by
  have kp := Keep.refl s
  refine event_keep ek ?_
  repeat' first
    | with_reducible assumption
    | simp only [keep_mk]
    | with_reducible refine State.trapAt_keep ?_
    | with_reducible refine State.onVec_keep ?_
    | with_reducible refine State.onSite_keep (fun _ _ _ _ _ _ => ?_) ?_
    | with_reducible refine State.setCtx_keep ?_
    | with_reducible refine keep_ite (fun _ => ?_) (fun _ => ?_)
    | split

/-- What `execVectorReduction` keeps. -/
theorem execVectorReduction_keep {tk s : State} {k op ln r src n sd saved} (ek : execVectorReduction k op ln r src n sd saved s = .next tk) : Keep s tk := by
  have kp := Keep.refl s
  refine event_keep ek ?_
  repeat' first
    | with_reducible assumption
    | simp only [keep_mk]
    | with_reducible refine State.modCtx_keep ?_
    | with_reducible refine State.trapAt_keep ?_
    | with_reducible refine State.onSite_keep (fun _ _ _ _ _ _ => ?_) ?_
    | with_reducible refine State.modPaddock_keep ?_
    | with_reducible refine keep_ite (fun _ => ?_) (fun _ => ?_)
    | split

/-- What `State.modCore` keeps. -/
theorem State.modCore_keep {zz s : State} {l c f} (kp : Keep zz s) :
    Keep zz (State.modCore s l c f) := by
  unfold State.modCore
  repeat' first
    | with_reducible assumption
    | simp only [keep_mk]

/-- What `State.countRounding` keeps. -/
theorem State.countRounding_keep {zz s : State} {l drops kind} (kp : Keep zz s) :
    Keep zz (State.countRounding s l drops kind) := by
  unfold State.countRounding
  repeat' first
    | with_reducible assumption
    | with_reducible refine State.modTeam_keep ?_

/-- What `State.taskStore` keeps. -/
theorem State.taskStore_keep {zz s : State} {w p a bs} (kp : Keep zz s) :
    Keep zz (State.taskStore s w p a bs) := by
  unfold State.taskStore
  repeat' first
    | with_reducible assumption
    | simp only [keep_mk]
    | with_reducible refine State.storeP_keep ?_
    | with_reducible refine State.modTask_keep ?_
    | with_reducible refine keep_ite (fun _ => ?_) (fun _ => ?_)

/-- What `State.exReduce` keeps. -/
theorem State.exReduce_keep {zz s : State} {k regs ok terms ex} (kp : Keep zz s) :
    Keep zz (State.exReduce s k regs ok terms ex) := by
  unfold State.exReduce
  repeat' first
    | with_reducible assumption
    | simp only [keep_mk]
    | with_reducible refine State.onSite_keep (fun _ _ _ _ _ _ => ?_) ?_
    | exact hb
    | with_reducible refine State.ok_keep ?_
    | with_reducible refine State.trapAt_keep ?_
    | with_reducible refine State.modCtx_keep ?_
    | with_reducible refine State.taskStore_keep ?_
    | with_reducible refine State.countRounding_keep ?_
    | with_reducible refine keep_ite (fun _ => ?_) (fun _ => ?_)
    | dsimp only
    | split

/-- What `execExsum` keeps. -/
theorem execExsum_keep {tk s : State} {k ln va n ex} (ek : execExsum k ln va n ex s = .next tk) : Keep s tk := by
  have kp := Keep.refl s
  refine event_keep ek ?_
  repeat' first
    | with_reducible assumption
    | with_reducible refine State.exReduce_keep ?_

/-- What `execExsumsq` keeps. -/
theorem execExsumsq_keep {tk s : State} {k ln va n ex} (ek : execExsumsq k ln va n ex s = .next tk) : Keep s tk := by
  have kp := Keep.refl s
  refine event_keep ek ?_
  repeat' first
    | with_reducible assumption
    | with_reducible refine State.exReduce_keep ?_

/-- What `execExdot` keeps. -/
theorem execExdot_keep {tk s : State} {k ln va vb n ex} (ek : execExdot k ln va vb n ex s = .next tk) : Keep s tk := by
  have kp := Keep.refl s
  refine event_keep ek ?_
  repeat' first
    | with_reducible assumption
    | with_reducible refine State.exReduce_keep ?_

/-- What `execExp` keeps. -/
theorem execExp_keep {tk s : State} {k ln vd va} (ek : execExp k ln vd va s = .next tk) : Keep s tk := by
  have kp := Keep.refl s
  refine event_keep ek ?_
  repeat' first
    | with_reducible assumption
    | with_reducible refine State.onVec_keep ?_

/-- What `execExpm1` keeps. -/
theorem execExpm1_keep {tk s : State} {k ln vd va} (ek : execExpm1 k ln vd va s = .next tk) : Keep s tk := by
  have kp := Keep.refl s
  refine event_keep ek ?_
  repeat' first
    | with_reducible assumption
    | with_reducible refine State.onVec_keep ?_

/-- What `execLog` keeps. -/
theorem execLog_keep {tk s : State} {k ln vd va} (ek : execLog k ln vd va s = .next tk) : Keep s tk := by
  have kp := Keep.refl s
  refine event_keep ek ?_
  repeat' first
    | with_reducible assumption
    | with_reducible refine State.onVec_keep ?_

/-- What `execTanh` keeps. -/
theorem execTanh_keep {tk s : State} {k ln vd va} (ek : execTanh k ln vd va s = .next tk) : Keep s tk := by
  have kp := Keep.refl s
  refine event_keep ek ?_
  repeat' first
    | with_reducible assumption
    | with_reducible refine State.onVec_keep ?_

/-- What `execSigmoid` keeps. -/
theorem execSigmoid_keep {tk s : State} {k ln vd va} (ek : execSigmoid k ln vd va s = .next tk) : Keep s tk := by
  have kp := Keep.refl s
  refine event_keep ek ?_
  repeat' first
    | with_reducible assumption
    | with_reducible refine State.onVec_keep ?_

/-- What `execSilu` keeps. -/
theorem execSilu_keep {tk s : State} {k ln vd va} (ek : execSilu k ln vd va s = .next tk) : Keep s tk := by
  have kp := Keep.refl s
  refine event_keep ek ?_
  repeat' first
    | with_reducible assumption
    | with_reducible refine State.onVec_keep ?_

/-- What `execLfrand` keeps. -/
theorem execLfrand_keep {tk s : State} {k vd} (ek : execLfrand k vd s = .next tk) : Keep s tk := by
  have kp := Keep.refl s
  refine event_keep ek ?_
  repeat' first
    | with_reducible assumption
    | simp only [keep_mk]
    | with_reducible refine State.modCtx_keep ?_
    | with_reducible refine State.trapAt_keep ?_
    | with_reducible refine State.onSite_keep (fun _ _ _ _ _ _ => ?_) ?_
    | with_reducible refine keep_ite (fun _ => ?_) (fun _ => ?_)

/-- What `execLfseed` keeps. -/
theorem execLfseed_keep {tk s : State} {k ss} (ek : execLfseed k ss s = .next tk) : Keep s tk := by
  have kp := Keep.refl s
  refine event_keep ek ?_
  repeat' first
    | with_reducible assumption
    | with_reducible refine State.onSite_keep (fun _ _ _ _ _ _ => ?_) ?_
    | with_reducible refine State.modCtx_keep ?_
    | with_reducible refine State.trapAt_keep ?_
    | with_reducible refine keep_ite (fun _ => ?_) (fun _ => ?_)

/-- What `execCbrand` keeps. -/
theorem execCbrand_keep {tk s : State} {k vd sk vc} (ek : execCbrand k vd sk vc s = .next tk) : Keep s tk := by
  have kp := Keep.refl s
  refine event_keep ek ?_
  repeat' first
    | with_reducible assumption
    | with_reducible refine State.onVec_keep ?_

/-- What `execCbunif` keeps. -/
theorem execCbunif_keep {tk s : State} {k vd sk vc} (ek : execCbunif k vd sk vc s = .next tk) : Keep s tk := by
  have kp := Keep.refl s
  refine event_keep ek ?_
  repeat' first
    | with_reducible assumption
    | with_reducible refine State.onVec_keep ?_

/-- What `execCbnorm` keeps. -/
theorem execCbnorm_keep {tk s : State} {k vd sk vc} (ek : execCbnorm k vd sk vc s = .next tk) : Keep s tk := by
  have kp := Keep.refl s
  refine event_keep ek ?_
  repeat' first
    | with_reducible assumption
    | with_reducible refine State.onVec_keep ?_

/-- What `execTbnorm` keeps. -/
theorem execTbnorm_keep {tk s : State} {k vd vw off} (ek : execTbnorm k vd vw off s = .next tk) : Keep s tk := by
  have kp := Keep.refl s
  refine event_keep ek ?_
  repeat' first
    | with_reducible assumption
    | simp only [keep_mk]
    | with_reducible refine State.modCtx_keep ?_
    | with_reducible refine State.trapAt_keep ?_
    | with_reducible refine State.onSite_keep (fun _ _ _ _ _ _ => ?_) ?_
    | with_reducible refine keep_ite (fun _ => ?_) (fun _ => ?_)

/-- What `execPpot` keeps. -/
theorem execPpot_keep {tk s : State} {k l dl lpNew lpOld a elo ehi} (ek : execPpot k l dl lpNew lpOld a elo ehi s = .next tk) : Keep s tk := by
  have kp := Keep.refl s
  refine event_keep ek ?_
  repeat' first
    | with_reducible assumption
    | simp only [keep_mk]
    | with_reducible refine State.onVec_keep ?_

/-- What `execTisw` keeps. -/
theorem execTisw_keep {tk s : State} {k vd lpA lpB cap} (ek : execTisw k vd lpA lpB cap s = .next tk) : Keep s tk := by
  have kp := Keep.refl s
  refine event_keep ek ?_
  repeat' first
    | with_reducible assumption
    | with_reducible refine State.onVec_keep ?_

/-- What `execKlt` keeps. -/
theorem execKlt_keep {tk s : State} {k vk vdk lpNew lpRef kind} (ek : execKlt k vk vdk lpNew lpRef kind s = .next tk) : Keep s tk := by
  have kp := Keep.refl s
  refine event_keep ek ?_
  repeat' first
    | with_reducible assumption
    | simp only [keep_mk]
    | with_reducible refine State.onVec_keep ?_

/-- What `execLpcmp` keeps. -/
theorem execLpcmp_keep {tk s : State} {k lp rec ver learnVer seqs poss n} (ek : execLpcmp k lp rec ver learnVer seqs poss n s = .next tk) : Keep s tk := by
  have kp := Keep.refl s
  refine event_keep ek ?_
  repeat' first
    | with_reducible assumption
    | simp only [keep_mk]
    | with_reducible refine State.trapAt_keep ?_
    | with_reducible refine State.logEv_keep ?_
    | with_reducible refine State.onSite_keep (fun _ _ _ _ _ _ => ?_) ?_
    | with_reducible refine State.modPaddock_keep ?_
    | with_reducible refine keep_ite (fun _ => ?_) (fun _ => ?_)
    | with_reducible refine keep_foldl (fun _ _ _ => ?_) ?_

end Sys2Proof.Machine
end

