-- ==== Sys2Proof/Laws/KeepArray.lean ====
section
/-! SUPPORT. What the definitions of Machine/Array.lean keep (Laws/Keep.lean). -/

namespace Sys2Proof.Machine

open Sys2Proof

/-- What `State.addStep` keeps. -/
theorem State.addStep_keep {zz s : State} {l p} (kp : Keep zz s) :
    Keep zz (State.addStep s l p) := by
  unfold State.addStep
  repeat' first
    | with_reducible assumption
    | simp only [keep_mk]
    | with_reducible refine State.modTeam_keep ?_
    | with_reducible refine State.modCore_keep ?_
    | with_reducible refine keep_ite (fun _ => ?_) (fun _ => ?_)
    | with_reducible refine keep_foldl (fun _ _ _ => ?_) ?_

/-- What `State.mergePartials` keeps. -/
theorem State.mergePartials_keep {zz s : State} {l ps} (kp : Keep zz s) :
    Keep zz (State.mergePartials s l ps) := by
  unfold State.mergePartials
  repeat' first
    | with_reducible assumption
    | simp only [keep_mk]
    | with_reducible refine State.modCore_keep ?_
    | with_reducible refine State.modTeam_keep ?_
    | with_reducible refine keep_ite (fun _ => ?_) (fun _ => ?_)
    | with_reducible refine keep_foldl (fun _ _ _ => ?_) ?_

/-- What `State.storeBlock` keeps. -/
theorem State.storeBlock_keep {zz s : State} {w l f} (kp : Keep zz s) :
    Keep zz (State.storeBlock s w l f) := by
  unfold State.storeBlock
  repeat' first
    | with_reducible assumption
    | simp only [keep_mk]
    | with_reducible refine State.taskStore_keep ?_
    | with_reducible refine keep_foldl (fun _ _ _ => ?_) ?_
    | split

/-- What `State.finishProduct` keeps. -/
theorem State.finishProduct_keep {zz s : State} {w l f} (kp : Keep zz s) :
    Keep zz (State.finishProduct s w l f) := by
  unfold State.finishProduct
  repeat' first
    | with_reducible assumption
    | simp only [keep_mk]
    | with_reducible refine State.modTeam_keep ?_
    | with_reducible refine State.countRounding_keep ?_
    | with_reducible refine State.modCore_keep ?_
    | with_reducible refine State.storeBlock_keep ?_
    | with_reducible refine keep_ite (fun _ => ?_) (fun _ => ?_)
    | with_reducible refine keep_foldl (fun _ _ _ => ?_) ?_

/-- What `execArrayStep` keeps. -/
theorem execArrayStep_keep {tk s : State} {k p} (ek : execArrayStep k p s = .next tk) : Keep s tk := by
  have kp := Keep.refl s
  refine event_keep ek ?_
  repeat' first
    | with_reducible assumption
    | simp only [keep_mk]
    | with_reducible refine State.onSite_keep (fun _ _ _ _ _ _ => ?_) ?_
    | exact hb
    | with_reducible refine State.trapAt_keep ?_
    | with_reducible refine State.addStep_keep ?_
    | with_reducible refine State.mergePartials_keep ?_
    | with_reducible refine State.finishProduct_keep ?_
    | with_reducible refine keep_ite (fun _ => ?_) (fun _ => ?_)
    | dsimp only
    | split

/-- What `execBasinLoad` keeps. -/
theorem execBasinLoad_keep {tk s : State} {k dst ra off n ecc} (ek : execBasinLoad k dst ra off n ecc s = .next tk) : Keep s tk := by
  have kp := Keep.refl s
  refine event_keep ek ?_
  repeat' first
    | with_reducible assumption
    | simp only [keep_mk]
    | with_reducible refine State.modCtx_keep ?_
    | with_reducible refine State.trapAt_keep ?_
    | with_reducible refine State.onSite_keep (fun _ _ _ _ _ _ => ?_) ?_
    | with_reducible refine State.scratchWrite_keep ?_
    | with_reducible refine State.basinEcc_keep ?_
    | split

/-- What `execBasinStore` keeps. -/
theorem execBasinStore_keep {tk s : State} {k src ra off n} (ek : execBasinStore k src ra off n s = .next tk) : Keep s tk := by
  have kp := Keep.refl s
  refine event_keep ek ?_
  repeat' first
    | with_reducible assumption
    | simp only [keep_mk]
    | with_reducible refine State.taskStore_keep ?_
    | with_reducible refine State.onSite_keep (fun _ _ _ _ _ _ => ?_) ?_
    | with_reducible refine State.trapAt_keep ?_
    | split

/-- What `execTrap` keeps. -/
theorem execTrap_keep {tk s : State} {k v} (ek : execTrap k v s = .next tk) : Keep s tk := by
  have kp := Keep.refl s
  refine event_keep ek ?_
  repeat' first
    | with_reducible assumption
    | with_reducible refine State.onSite_keep (fun _ _ _ _ _ _ => ?_) ?_
    | with_reducible refine State.trapAt_keep ?_

end Sys2Proof.Machine
end

