-- ==== Sys2Proof/Laws/KeepTasks.lean ====
section
/-! SUPPORT. What the definitions of Machine/Tasks.lean keep (Laws/Keep.lean). -/

namespace Sys2Proof.Machine

open Sys2Proof

/-- What `State.teamStopped` keeps. -/
theorem State.teamStopped_keep {zz s : State} {w r wait point} (kp : Keep zz s) :
    Keep zz (State.teamStopped s w r wait point) := by
  unfold State.teamStopped
  repeat' first
    | with_reducible assumption
    | simp only [keep_mk]
    | with_reducible refine State.suspend_keep ?_
    | with_reducible refine State.modTask_keep ?_
    | with_reducible refine keep_ite (fun _ => ?_) (fun _ => ?_)
    | split

/-- What `execTeamAtPreemptionPoint` keeps. -/
theorem execTeamAtPreemptionPoint_keep {tk s : State} {team point} (ek : execTeamAtPreemptionPoint team point s = .next tk) : Keep s tk := by
  have kp := Keep.refl s
  refine event_keep ek ?_
  repeat' first
    | with_reducible assumption
    | simp only [keep_mk]
    | with_reducible refine State.modCtx_keep ?_
    | with_reducible refine State.withdraw_keep ?_
    | with_reducible refine State.teamStopped_keep ?_
    | with_reducible refine State.raise_keep ?_
    | with_reducible refine keep_ite (fun _ => ?_) (fun _ => ?_)
    | with_reducible refine keep_foldl (fun _ _ _ => ?_) ?_
    | split

/-- What `execForcedStop` keeps. -/
theorem execForcedStop_keep {tk s : State} {team} (ek : execForcedStop team s = .next tk) : Keep s tk := by
  have kp := Keep.refl s
  refine event_keep ek ?_
  repeat' first
    | with_reducible assumption
    | with_reducible refine State.withdraw_keep ?_
    | with_reducible refine State.teamStopped_keep ?_
    | with_reducible refine State.reach_keep ?_
    | with_reducible refine keep_ite (fun _ => ?_) (fun _ => ?_)
    | split

/-- What `execSaveComplete` keeps. -/
theorem execSaveComplete_keep {tk s : State} {w} (ek : execSaveComplete w s = .next tk) : Keep s tk := by
  have kp := Keep.refl s
  refine event_keep ek ?_
  repeat' first
    | with_reducible assumption
    | simp only [keep_mk]
    | with_reducible refine State.saveTask_keep ?_
    | with_reducible refine State.saveTask_keep' (by assumption) ?_
    | with_reducible refine State.vacate_keep ?_
    | with_reducible refine State.modTask_keep ?_
    | with_reducible refine State.completeAll_keep ?_
    | with_reducible refine State.finishTask_keep ?_
    | with_reducible refine State.urgentCheck_keep ?_
    | with_reducible refine keep_ite (fun _ => ?_) (fun _ => ?_)
    | dsimp only
    | split

/-- What `State.runAgain` keeps. -/
theorem State.runAgain_keep {zz s : State} {w t} (kp : Keep zz s) :
    Keep zz (State.runAgain s w t) := by
  unfold State.runAgain
  repeat' first
    | with_reducible assumption
    | simp only [keep_mk]
    | with_reducible refine State.scrambleTask_keep ?_
    | with_reducible refine State.modTask_keep ?_
    | with_reducible refine State.reissue_keep ?_
    | with_reducible refine State.complete_keep ?_
    | split

/-- What `execRestoreComplete` keeps. -/
theorem execRestoreComplete_keep {tk s : State} {w} (ek : execRestoreComplete w s = .next tk) : Keep s tk := by
  have kp := Keep.refl s
  refine event_keep ek ?_
  repeat' first
    | with_reducible assumption
    | simp only [keep_mk]
    | with_reducible refine State.restoreCore_keep ?_
    | with_reducible refine State.runAgain_keep ?_
    | with_reducible refine keep_ite (fun _ => ?_) (fun _ => ?_)
    | with_reducible refine keep_foldl (fun _ _ _ => ?_) ?_
    | split

/-- What `State.convertOne` keeps. -/
theorem State.convertOne_keep {zz s : State} {ws} (kp : Keep zz s) :
    Keep zz (State.convertOne s ws) := by
  unfold State.convertOne
  repeat' first
    | with_reducible assumption
    | simp only [keep_mk]
    | with_reducible refine State.convert_keep ?_
    | with_reducible refine keep_ite (fun _ => ?_) (fun _ => ?_)
    | split

/-- What `State.placeOn` keeps. -/
theorem State.placeOn_keep {zz s : State} {w t k ts} {go : State → Nat → Nat → State}
    (hg : ∀ u a b, Keep zz u → Keep zz (go u a b)) (kp : Keep zz s) : Keep zz (State.placeOn s w t k ts go) := by
  unfold State.placeOn
  dsimp only
  split
  · exact State.convertOne_keep kp
  · split
    · exact State.convertOne_keep kp
    · exact hg _ _ _ (State.occupy_keep kp)

/-- What `State.startTask` keeps. -/
theorem State.startTask_keep {zz s : State} {w t k ts c} (kp : Keep zz s) :
    Keep zz (State.startTask s w t k ts c) := by
  unfold State.startTask
  repeat' first
    | with_reducible assumption
    | simp only [keep_mk]
    | with_reducible refine State.modTask_keep ?_
    | with_reducible refine State.setCtx_keep ?_
    | with_reducible refine keep_foldl (fun _ _ _ => ?_) ?_

/-- What `execTaskPlacement` keeps. -/
theorem execTaskPlacement_keep {tk s : State} {w} (ek : execTaskPlacement w s = .next tk) : Keep s tk := by
  have kp := Keep.refl s
  refine event_keep ek ?_
  repeat' first
    | with_reducible assumption
    | simp only [keep_mk]
    | with_reducible refine State.urgentCheck_keep ?_
    | with_reducible refine State.unshelve_keep ?_
    | with_reducible refine State.runAgain_keep ?_
    | with_reducible refine State.convertOne_keep ?_
    | with_reducible refine State.placeOn_keep (fun _ _ _ _ => ?_) ?_
    | exact hb
    | with_reducible refine State.modTask_keep ?_
    | with_reducible refine State.startTask_keep ?_
    | with_reducible refine keep_ite (fun _ => ?_) (fun _ => ?_)
    | with_reducible refine keep_foldl (fun _ _ _ => ?_) ?_
    | dsimp only
    | split

/-- What `execPlacementWaitLimit` keeps. -/
theorem execPlacementWaitLimit_keep {tk s : State} {pad} (ek : execPlacementWaitLimit pad s = .next tk) : Keep s tk := by
  have kp := Keep.refl s
  refine event_keep ek ?_
  repeat' first
    | with_reducible assumption
    | simp only [keep_mk]
    | with_reducible refine State.reach_keep ?_
    | split

/-- What `execTaskEnd` keeps. -/
theorem execTaskEnd_keep {tk s : State} {w rank} (ek : execTaskEnd w rank s = .next tk) : Keep s tk := by
  have kp := Keep.refl s
  refine event_keep ek ?_
  repeat' first
    | with_reducible assumption
    | simp only [keep_mk]
    | with_reducible refine State.suspend_keep ?_
    | with_reducible refine State.modTask_keep ?_
    | with_reducible refine State.finishTask_keep ?_
    | with_reducible refine keep_ite (fun _ => ?_) (fun _ => ?_)
    | split

/-- What `State.teamTrap` keeps. -/
theorem State.teamTrap_keep {zz s : State} {k cause addr more dirty} (kp : Keep zz s) :
    Keep zz (State.teamTrap s k cause addr more dirty) := by
  unfold State.teamTrap
  repeat' first
    | with_reducible assumption
    | simp only [keep_mk]
    | with_reducible refine State.failTeam_keep ?_
    | with_reducible refine State.modCtx_keep ?_
    | with_reducible refine State.raise_keep ?_
    | with_reducible refine keep_ite (fun _ => ?_) (fun _ => ?_)
    | split

/-- What `execTeamException` keeps. -/
theorem execTeamException_keep {tk s : State} {k cause addr more dirty} (ek : execTeamException k cause addr more dirty s = .next tk) : Keep s tk := by
  have kp := Keep.refl s
  refine event_keep ek ?_
  repeat' first
    | with_reducible assumption
    | with_reducible refine State.teamTrap_keep ?_

/-- What `execTimeLimit` keeps. -/
theorem execTimeLimit_keep {tk s : State} {w rank core} (ek : execTimeLimit w rank core s = .next tk) : Keep s tk := by
  have kp := Keep.refl s
  refine event_keep ek ?_
  repeat' first
    | with_reducible assumption
    | with_reducible refine State.reach_keep ?_
    | with_reducible refine State.raise_keep ?_
    | with_reducible refine keep_ite (fun _ => ?_) (fun _ => ?_)
    | split

/-- What `execArrayAck` keeps. -/
theorem execArrayAck_keep {tk s : State} {k dirty} (ek : execArrayAck k dirty s = .next tk) : Keep s tk := by
  have kp := Keep.refl s
  refine event_keep ek ?_
  repeat' first
    | with_reducible assumption
    | with_reducible refine State.teamTrap_keep ?_
    | with_reducible refine keep_ite (fun _ => ?_) (fun _ => ?_)

/-- What `State.placeCode` keeps. -/
theorem State.placeCode_keep {zz tk s : State} {pad code qs xk} (ek : State.placeCode s pad code qs = .ok (xk, tk))
    (kp : Keep zz s) : Keep zz tk := by
  induction qs generalizing s xk tk with
  | nil =>
    injection ek with ek
    injection ek with _ ek
    exact ek ▸ kp
  | cons q qs ih =>
    unfold State.placeCode at ek
    split at ek
    · cases ek
    · rename_i a s1 h1
      split at ek
      · cases ek
      · rename_i as s2 h2
        injection ek with ek
        injection ek with _ ek
        exact ek ▸ ih h2 (State.store_keep (State.allocate_keep h1 kp))

/-- What `State.kernelLoad` keeps. -/
theorem State.kernelLoad_keep {zz tk s : State} {c qs} (ek : State.kernelLoad s c qs = .ok tk)
    (kp : Keep zz s) : Keep zz tk := by
  revert ek
  suffices KeepE zz (State.kernelLoad s c qs) from this tk
  unfold State.kernelLoad
  repeat' first
    | with_reducible assumption
    | simp only [keep_mk]
    | with_reducible refine keepE_ok ?_
    | exact keepE_error
    | with_reducible refine State.placeCode_keep (by assumption) ?_
    | with_reducible refine State.ok_keep ?_
    | with_reducible refine State.pick_keep ?_
    | with_reducible refine keepE_bind (fun _ _ => ?_)
    | split

/-- What `kernelLoadBody` keeps. -/
theorem kernelLoadBody_keep {zz tk s : State} {c} (ek : kernelLoadBody c s = .ok tk)
    (kp : Keep zz s) : Keep zz tk := by
  revert ek
  suffices KeepE zz (kernelLoadBody c s) from this tk
  unfold kernelLoadBody
  repeat' first
    | with_reducible assumption
    | refine fun _ e => State.kernelLoad_keep e ?_

/-- What `kernelLoadExpertBody` keeps. -/
theorem kernelLoadExpertBody_keep {zz tk s : State} {c} (ek : kernelLoadExpertBody c s = .ok tk)
    (kp : Keep zz s) : Keep zz tk := by
  revert ek
  suffices KeepE zz (kernelLoadExpertBody c s) from this tk
  unfold kernelLoadExpertBody
  repeat' first
    | with_reducible assumption
    | refine fun _ e => State.kernelLoad_keep e ?_
    | with_reducible refine keepE_bind (fun _ _ => ?_)

/-- What `kernelUnloadBody` keeps. -/
theorem kernelUnloadBody_keep {zz tk s : State} {c} (ek : kernelUnloadBody c s = .ok tk)
    (kp : Keep zz s) : Keep zz tk := by
  revert ek
  suffices KeepE zz (kernelUnloadBody c s) from this tk
  unfold kernelUnloadBody
  repeat' first
    | with_reducible assumption
    | with_reducible refine keepE_ok ?_
    | with_reducible refine State.dropKernel_keep ?_
    | with_reducible refine State.ok_keep ?_
    | with_reducible refine keepE_bind (fun _ _ => ?_)

/-- What `kernelUnloadExpertBody` keeps. -/
theorem kernelUnloadExpertBody_keep {zz tk s : State} {c} (ek : kernelUnloadExpertBody c s = .ok tk)
    (kp : Keep zz s) : Keep zz tk := by
  revert ek
  suffices KeepE zz (kernelUnloadExpertBody c s) from this tk
  unfold kernelUnloadExpertBody
  repeat' first
    | with_reducible assumption
    | simp only [keep_mk]
    | with_reducible refine keepE_ok ?_
    | with_reducible refine State.ok_keep ?_
    | with_reducible refine State.dropKernel_keep ?_
    | with_reducible refine State.wait_keep ?_
    | with_reducible refine keepE_ite (fun _ => ?_) (fun _ => ?_)
    | with_reducible refine keepE_bind (fun _ _ => ?_)

/-- What `State.saveArea` keeps. -/
theorem State.saveArea_keep {zz tk s : State} {pad len basinOnly} {xk yk} (ek : State.saveArea s pad len basinOnly = .ok (xk, yk, tk))
    (kp : Keep zz s) : Keep zz tk := by
  suffices KeepP zz (fun a => a.2.2) (State.saveArea s pad len basinOnly) from this _ ek
  unfold State.saveArea
  repeat' first
    | with_reducible assumption
    | simp only [keep_mk]
    | with_reducible refine keepP_ok ?_
    | exact keepP_error
    | with_reducible refine State.allocate_keep (by assumption) ?_
    | with_reducible refine keepP_ite (fun _ => ?_) (fun _ => ?_)
    | split

/-- What `State.taskLaunch` keeps. -/
theorem State.taskLaunch_keep {zz tk s : State} {c q} (ek : State.taskLaunch s c q = .ok tk)
    (kp : Keep zz s) : Keep zz tk := by
  revert ek
  suffices KeepE zz (State.taskLaunch s c q) from this tk
  unfold State.taskLaunch
  repeat' first
    | with_reducible assumption
    | simp only [keep_mk]
    | with_reducible refine keepE_ok ?_
    | with_reducible refine keepP_ok ?_
    | exact keepP_error
    | with_reducible refine State.saveArea_keep (by assumption) ?_
    | with_reducible refine State.store_keep ?_
    | with_reducible refine State.allocate_keep (by assumption) ?_
    | with_reducible refine State.urgentCheck_keep ?_
    | with_reducible refine keepE_bind (fun _ _ => ?_)
    | with_reducible refine keepP_ite (fun _ => ?_) (fun _ => ?_)
    | with_reducible refine keepP2_elim (by assumption) ?_
    | split

/-- What `taskLaunchBody` keeps. -/
theorem taskLaunchBody_keep {zz tk s : State} {c} (ek : taskLaunchBody c s = .ok tk)
    (kp : Keep zz s) : Keep zz tk := by
  revert ek
  suffices KeepE zz (taskLaunchBody c s) from this tk
  unfold taskLaunchBody
  repeat' first
    | with_reducible assumption
    | refine fun _ e => State.taskLaunch_keep e ?_

/-- What `taskLaunchExpertBody` keeps. -/
theorem taskLaunchExpertBody_keep {zz tk s : State} {c} (ek : taskLaunchExpertBody c s = .ok tk)
    (kp : Keep zz s) : Keep zz tk := by
  revert ek
  suffices KeepE zz (taskLaunchExpertBody c s) from this tk
  unfold taskLaunchExpertBody
  repeat' first
    | with_reducible assumption
    | refine fun _ e => State.taskLaunch_keep e ?_

/-- What `State.taskAbort` keeps. -/
theorem State.taskAbort_keep {zz tk s : State} {c} (ek : State.taskAbort s c = .ok tk)
    (kp : Keep zz s) : Keep zz tk := by
  revert ek
  suffices KeepE zz (State.taskAbort s c) from this tk
  unfold State.taskAbort
  repeat' first
    | with_reducible assumption
    | simp only [keep_mk]
    | with_reducible refine keepE_ok ?_
    | exact keepE_error
    | with_reducible refine State.ok_keep ?_
    | with_reducible refine State.finishTask_keep ?_
    | with_reducible refine State.complete_keep ?_
    | with_reducible refine keepE_ite (fun _ => ?_) (fun _ => ?_)
    | split

/-- What `taskAbortBody` keeps. -/
theorem taskAbortBody_keep {zz tk s : State} {c} (ek : taskAbortBody c s = .ok tk)
    (kp : Keep zz s) : Keep zz tk := by
  revert ek
  suffices KeepE zz (taskAbortBody c s) from this tk
  unfold taskAbortBody
  repeat' first
    | with_reducible assumption
    | refine fun _ e => State.taskAbort_keep e ?_

/-- What `taskAbortExpertBody` keeps. -/
theorem taskAbortExpertBody_keep {zz tk s : State} {c} (ek : taskAbortExpertBody c s = .ok tk)
    (kp : Keep zz s) : Keep zz tk := by
  revert ek
  suffices KeepE zz (taskAbortExpertBody c s) from this tk
  unfold taskAbortExpertBody
  repeat' first
    | with_reducible assumption
    | refine fun _ e => State.taskAbort_keep e ?_
    | with_reducible refine State.logEv_keep ?_

/-- What `State.taskPreempt` keeps. -/
theorem State.taskPreempt_keep {zz tk s : State} {c force save} (ek : State.taskPreempt s c force save = .ok tk)
    (kp : Keep zz s) : Keep zz tk := by
  revert ek
  suffices KeepE zz (State.taskPreempt s c force save) from this tk
  unfold State.taskPreempt
  repeat' first
    | with_reducible assumption
    | simp only [keep_mk]
    | with_reducible refine keepE_ok ?_
    | with_reducible refine State.modTask_keep ?_
    | with_reducible refine State.requestPreempt_keep ?_
    | with_reducible refine keepE_bind (fun _ _ => ?_)

/-- What `taskPreemptBody` keeps. -/
theorem taskPreemptBody_keep {zz tk s : State} {c} (ek : taskPreemptBody c s = .ok tk)
    (kp : Keep zz s) : Keep zz tk := by
  revert ek
  suffices KeepE zz (taskPreemptBody c s) from this tk
  unfold taskPreemptBody
  repeat' first
    | with_reducible assumption
    | refine fun _ e => State.taskPreempt_keep e ?_

/-- What `taskPreemptExpertBody` keeps. -/
theorem taskPreemptExpertBody_keep {zz tk s : State} {c} (ek : taskPreemptExpertBody c s = .ok tk)
    (kp : Keep zz s) : Keep zz tk := by
  revert ek
  suffices KeepE zz (taskPreemptExpertBody c s) from this tk
  unfold taskPreemptExpertBody
  repeat' first
    | with_reducible assumption
    | refine fun _ e => State.taskPreempt_keep e ?_

/-- What `State.taskResume` keeps. -/
theorem State.taskResume_keep {zz tk s : State} {c mask} (ek : State.taskResume s c mask = .ok tk)
    (kp : Keep zz s) : Keep zz tk := by
  revert ek
  suffices KeepE zz (State.taskResume s c mask) from this tk
  unfold State.taskResume
  repeat' first
    | with_reducible assumption
    | simp only [keep_mk]
    | with_reducible refine keepE_ok ?_
    | with_reducible refine State.modTask_keep ?_
    | with_reducible refine keepE_bind (fun _ _ => ?_)

/-- What `taskResumeBody` keeps. -/
theorem taskResumeBody_keep {zz tk s : State} {c} (ek : taskResumeBody c s = .ok tk)
    (kp : Keep zz s) : Keep zz tk := by
  revert ek
  suffices KeepE zz (taskResumeBody c s) from this tk
  unfold taskResumeBody
  repeat' first
    | with_reducible assumption
    | refine fun _ e => State.taskResume_keep e ?_

/-- What `taskResumeExpertBody` keeps. -/
theorem taskResumeExpertBody_keep {zz tk s : State} {c} (ek : taskResumeExpertBody c s = .ok tk)
    (kp : Keep zz s) : Keep zz tk := by
  revert ek
  suffices KeepE zz (taskResumeExpertBody c s) from this tk
  unfold taskResumeExpertBody
  repeat' first
    | with_reducible assumption
    | refine fun _ e => State.taskResume_keep e ?_

/-- What `taskQueryBody` keeps. -/
theorem taskQueryBody_keep {zz tk s : State} {c} (ek : taskQueryBody c s = .ok tk)
    (kp : Keep zz s) : Keep zz tk := by
  revert ek
  suffices KeepE zz (taskQueryBody c s) from this tk
  unfold taskQueryBody
  repeat' first
    | with_reducible assumption
    | simp only [keep_mk]
    | with_reducible refine keepE_ok ?_
    | with_reducible refine State.writeBuf_keep (by assumption) ?_
    | with_reducible refine State.ok_keep ?_
    | with_reducible refine keepE_bind (fun _ _ => ?_)

/-- What `taskQueryExpertBody` keeps. -/
theorem taskQueryExpertBody_keep {zz tk s : State} {c} (ek : taskQueryExpertBody c s = .ok tk)
    (kp : Keep zz s) : Keep zz tk := by
  revert ek
  suffices KeepE zz (taskQueryExpertBody c s) from this tk
  unfold taskQueryExpertBody
  repeat' first
    | with_reducible assumption
    | simp only [keep_mk]
    | with_reducible refine keepE_ok ?_
    | with_reducible refine State.writeBuf_keep (by assumption) ?_
    | with_reducible refine State.ok_keep ?_
    | with_reducible refine keepE_bind (fun _ _ => ?_)

/-- What `teamQueryBody` keeps. -/
theorem teamQueryBody_keep {zz tk s : State} {c} (ek : teamQueryBody c s = .ok tk)
    (kp : Keep zz s) : Keep zz tk := by
  revert ek
  suffices KeepE zz (teamQueryBody c s) from this tk
  unfold teamQueryBody
  repeat' first
    | with_reducible assumption
    | with_reducible refine keepE_ok ?_
    | with_reducible refine State.writeBuf_keep (by assumption) ?_
    | with_reducible refine State.ok_keep ?_
    | with_reducible refine keepE_bind (fun _ _ => ?_)

/-- What `teamQueryExpertBody` keeps. -/
theorem teamQueryExpertBody_keep {zz tk s : State} {c} (ek : teamQueryExpertBody c s = .ok tk)
    (kp : Keep zz s) : Keep zz tk := by
  revert ek
  suffices KeepE zz (teamQueryExpertBody c s) from this tk
  unfold teamQueryExpertBody
  repeat' first
    | with_reducible assumption
    | simp only [keep_mk]
    | with_reducible refine keepE_ok ?_
    | with_reducible refine State.writeBuf_keep (by assumption) ?_
    | with_reducible refine State.ok_keep ?_
    | with_reducible refine keepE_bind (fun _ _ => ?_)

/-- What `State.rngFill` keeps. -/
theorem State.rngFill_keep {zz tk s : State} {c subject tab} (ek : State.rngFill s c subject tab = .ok tk)
    (kp : Keep zz s) : Keep zz tk := by
  revert ek
  suffices KeepE zz (State.rngFill s c subject tab) from this tk
  unfold State.rngFill
  repeat' first
    | with_reducible assumption
    | simp only [keep_mk]
    | with_reducible refine keepE_ok ?_
    | with_reducible refine State.writeBuf_keep (by assumption) ?_
    | with_reducible refine State.ok_keep ?_
    | with_reducible refine keepE_bind (fun _ _ => ?_)

/-- What `rngFillBody` keeps. -/
theorem rngFillBody_keep {zz tk s : State} {c} (ek : rngFillBody c s = .ok tk)
    (kp : Keep zz s) : Keep zz tk := by
  revert ek
  suffices KeepE zz (rngFillBody c s) from this tk
  unfold rngFillBody
  repeat' first
    | with_reducible assumption
    | refine fun _ e => State.rngFill_keep e ?_

/-- What `rngFillExpertBody` keeps. -/
theorem rngFillExpertBody_keep {zz tk s : State} {c} (ek : rngFillExpertBody c s = .ok tk)
    (kp : Keep zz s) : Keep zz tk := by
  revert ek
  suffices KeepE zz (rngFillExpertBody c s) from this tk
  unfold rngFillExpertBody
  repeat' first
    | with_reducible assumption
    | simp only [keep_mk]
    | refine fun _ e => State.rngFill_keep e ?_
    | with_reducible refine keepE_bind (fun _ _ => ?_)

/-- What `State.rngCheck` keeps. -/
theorem State.rngCheck_keep {zz s : State} {c ts bad} (kp : Keep zz s) :
    Keep zz (State.rngCheck s c ts bad) := by
  unfold State.rngCheck
  repeat' first
    | with_reducible assumption
    | simp only [keep_mk]
    | with_reducible refine State.ok_keep ?_
    | with_reducible refine State.failTeam_keep ?_
    | with_reducible refine State.logEv_keep ?_
    | with_reducible refine State.complete_keep ?_
    | with_reducible refine keep_ite (fun _ => ?_) (fun _ => ?_)
    | split

/-- What `execRngCheck` keeps. -/
theorem execRngCheck_keep {tk s : State} {w bad} (ek : execRngCheck w bad s = .next tk) : Keep s tk := by
  have kp := Keep.refl s
  refine run_keep ek (fun _ _ _ => ?_)
  repeat' first
    | with_reducible assumption
    | with_reducible refine keepE_ok ?_
    | with_reducible refine State.rngCheck_keep ?_

/-- What `execRngCheckExpert` keeps. -/
theorem execRngCheckExpert_keep {tk s : State} {w bad} (ek : execRngCheckExpert w bad s = .next tk) : Keep s tk := by
  have kp := Keep.refl s
  refine run_keep ek (fun _ _ _ => ?_)
  repeat' first
    | with_reducible assumption
    | simp only [keep_mk]
    | with_reducible refine keepE_ok ?_
    | with_reducible refine State.rngCheck_keep ?_
    | with_reducible refine keepE_bind (fun _ _ => ?_)

/-- What `State.laneRead` keeps. -/
theorem State.laneRead_keep {zz tk s : State} {c} (ek : State.laneRead s c = .ok tk)
    (kp : Keep zz s) : Keep zz tk := by
  revert ek
  suffices KeepE zz (State.laneRead s c) from this tk
  unfold State.laneRead
  repeat' first
    | with_reducible assumption
    | with_reducible refine keepE_ok ?_
    | with_reducible refine State.writeBuf_keep (by assumption) ?_
    | with_reducible refine State.ok_keep ?_
    | with_reducible refine keepE_bind (fun _ _ => ?_)

/-- What `rngLaneStateBody` keeps. -/
theorem rngLaneStateBody_keep {zz tk s : State} {c} (ek : rngLaneStateBody c s = .ok tk)
    (kp : Keep zz s) : Keep zz tk := by
  revert ek
  suffices KeepE zz (rngLaneStateBody c s) from this tk
  unfold rngLaneStateBody
  repeat' first
    | with_reducible assumption
    | refine fun _ e => State.laneRead_keep e ?_

/-- What `rngLaneStateExpertBody` keeps. -/
theorem rngLaneStateExpertBody_keep {zz tk s : State} {c} (ek : rngLaneStateExpertBody c s = .ok tk)
    (kp : Keep zz s) : Keep zz tk := by
  revert ek
  suffices KeepE zz (rngLaneStateExpertBody c s) from this tk
  unfold rngLaneStateExpertBody
  refine keepE_ite (fun _ => ?_) (fun _ => fun _ e => State.laneRead_keep e kp)
  exact keepE_bind fun _ _ => keepE_bind fun _ _ => keepE_ok (State.ok_keep (State.modCtx_keep kp))

end Sys2Proof.Machine
end

