-- ==== Sys2Proof/Laws/KeepGeneration.lean ====
section
/-! SUPPORT. What the definitions of Machine/Generation.lean keep (Laws/Keep.lean). -/

namespace Sys2Proof.Machine

open Sys2Proof

/-- What `State.modelRegister` keeps. -/
theorem State.modelRegister_keep {zz tk s : State} {c owner wanted} (ek : State.modelRegister s c owner wanted = .ok tk)
    (kp : Keep zz s) : Keep zz tk := by
  revert ek
  suffices KeepE zz (State.modelRegister s c owner wanted) from this tk
  unfold State.modelRegister
  repeat' first
    | with_reducible assumption
    | simp only [keep_mk]
    | with_reducible refine keepE_ok ?_
    | with_reducible refine State.ok_keep ?_
    | with_reducible refine keepE_bind (fun _ _ => ?_)

/-- What `genModelRegisterBody` keeps. -/
theorem genModelRegisterBody_keep {zz tk s : State} {c} (ek : genModelRegisterBody c s = .ok tk)
    (kp : Keep zz s) : Keep zz tk := by
  revert ek
  suffices KeepE zz (genModelRegisterBody c s) from this tk
  unfold genModelRegisterBody
  repeat' first
    | with_reducible assumption
    | refine fun _ e => State.modelRegister_keep e ?_

/-- What `genModelRegisterExpertBody` keeps. -/
theorem genModelRegisterExpertBody_keep {zz tk s : State} {c} (ek : genModelRegisterExpertBody c s = .ok tk)
    (kp : Keep zz s) : Keep zz tk := by
  revert ek
  suffices KeepE zz (genModelRegisterExpertBody c s) from this tk
  unfold genModelRegisterExpertBody
  repeat' first
    | with_reducible assumption
    | refine fun _ e => State.modelRegister_keep e ?_
    | with_reducible refine keepE_bind (fun _ _ => ?_)

/-- What `genModelReleaseBody` keeps. -/
theorem genModelReleaseBody_keep {zz tk s : State} {c} (ek : genModelReleaseBody c s = .ok tk)
    (kp : Keep zz s) : Keep zz tk := by
  revert ek
  suffices KeepE zz (genModelReleaseBody c s) from this tk
  unfold genModelReleaseBody
  repeat' first
    | with_reducible assumption
    | with_reducible refine keepE_ok ?_
    | with_reducible refine State.dropModel_keep ?_
    | with_reducible refine State.ok_keep ?_
    | with_reducible refine keepE_bind (fun _ _ => ?_)

/-- What `genModelReleaseExpertBody` keeps. -/
theorem genModelReleaseExpertBody_keep {zz tk s : State} {c} (ek : genModelReleaseExpertBody c s = .ok tk)
    (kp : Keep zz s) : Keep zz tk := by
  revert ek
  suffices KeepE zz (genModelReleaseExpertBody c s) from this tk
  unfold genModelReleaseExpertBody
  repeat' first
    | with_reducible assumption
    | with_reducible refine keepE_ok ?_
    | with_reducible refine State.wait_keep ?_
    | with_reducible refine keepE_bind (fun _ _ => ?_)

/-- What `State.adapterLoad` keeps. -/
theorem State.adapterLoad_keep {zz tk s : State} {c fmt} (ek : State.adapterLoad s c fmt = .ok tk)
    (kp : Keep zz s) : Keep zz tk := by
  revert ek
  suffices KeepE zz (State.adapterLoad s c fmt) from this tk
  unfold State.adapterLoad
  repeat' first
    | with_reducible assumption
    | simp only [keep_mk]
    | with_reducible refine keepE_ok ?_
    | with_reducible refine State.ok_keep ?_
    | with_reducible refine keepE_bind (fun _ _ => ?_)

/-- What `genAdapterLoadBody` keeps. -/
theorem genAdapterLoadBody_keep {zz tk s : State} {c} (ek : genAdapterLoadBody c s = .ok tk)
    (kp : Keep zz s) : Keep zz tk := by
  revert ek
  suffices KeepE zz (genAdapterLoadBody c s) from this tk
  unfold genAdapterLoadBody
  repeat' first
    | with_reducible assumption
    | refine fun _ e => State.adapterLoad_keep e ?_

/-- What `genAdapterLoadExpertBody` keeps. -/
theorem genAdapterLoadExpertBody_keep {zz tk s : State} {c} (ek : genAdapterLoadExpertBody c s = .ok tk)
    (kp : Keep zz s) : Keep zz tk := by
  revert ek
  suffices KeepE zz (genAdapterLoadExpertBody c s) from this tk
  unfold genAdapterLoadExpertBody
  repeat' first
    | with_reducible assumption
    | refine fun _ e => State.adapterLoad_keep e ?_

/-- What `State.adapterUnload` keeps. -/
theorem State.adapterUnload_keep {zz tk s : State} {c wait} (ek : State.adapterUnload s c wait = .ok tk)
    (kp : Keep zz s) : Keep zz tk := by
  revert ek
  suffices KeepE zz (State.adapterUnload s c wait) from this tk
  unfold State.adapterUnload
  repeat' first
    | with_reducible assumption
    | with_reducible refine keepE_ok ?_
    | exact keepE_error
    | with_reducible refine State.wait_keep ?_
    | with_reducible refine keepE_ite (fun _ => ?_) (fun _ => ?_)
    | split

/-- What `genAdapterUnloadBody` keeps. -/
theorem genAdapterUnloadBody_keep {zz tk s : State} {c} (ek : genAdapterUnloadBody c s = .ok tk)
    (kp : Keep zz s) : Keep zz tk := by
  revert ek
  suffices KeepE zz (genAdapterUnloadBody c s) from this tk
  unfold genAdapterUnloadBody
  repeat' first
    | with_reducible assumption
    | refine fun _ e => State.adapterUnload_keep e ?_

/-- What `genAdapterUnloadExpertBody` keeps. -/
theorem genAdapterUnloadExpertBody_keep {zz tk s : State} {c} (ek : genAdapterUnloadExpertBody c s = .ok tk)
    (kp : Keep zz s) : Keep zz tk := by
  revert ek
  suffices KeepE zz (genAdapterUnloadExpertBody c s) from this tk
  unfold genAdapterUnloadExpertBody
  repeat' first
    | with_reducible assumption
    | refine fun _ e => State.adapterUnload_keep e ?_

/-- What `State.ringCreate` keeps. -/
theorem State.ringCreate_keep {zz tk s : State} {c low} (ek : State.ringCreate s c low = .ok tk)
    (kp : Keep zz s) : Keep zz tk := by
  revert ek
  suffices KeepE zz (State.ringCreate s c low) from this tk
  unfold State.ringCreate
  repeat' first
    | with_reducible assumption
    | simp only [keep_mk]
    | with_reducible refine keepE_ok ?_
    | with_reducible refine State.ringStore_keep ?_
    | with_reducible refine State.ok_keep ?_
    | with_reducible refine State.pick_keep ?_
    | with_reducible refine keepE_bind (fun _ _ => ?_)

/-- What `genRingCreateBody` keeps. -/
theorem genRingCreateBody_keep {zz tk s : State} {c} (ek : genRingCreateBody c s = .ok tk)
    (kp : Keep zz s) : Keep zz tk := by
  revert ek
  suffices KeepE zz (genRingCreateBody c s) from this tk
  unfold genRingCreateBody
  repeat' first
    | with_reducible assumption
    | refine fun _ e => State.ringCreate_keep e ?_

/-- What `genRingCreateExpertBody` keeps. -/
theorem genRingCreateExpertBody_keep {zz tk s : State} {c} (ek : genRingCreateExpertBody c s = .ok tk)
    (kp : Keep zz s) : Keep zz tk := by
  revert ek
  suffices KeepE zz (genRingCreateExpertBody c s) from this tk
  unfold genRingCreateExpertBody
  repeat' first
    | with_reducible assumption
    | refine fun _ e => State.ringCreate_keep e ?_

/-- What `State.ringAdvance` keeps. -/
theorem State.ringAdvance_keep {zz tk s : State} {c} (ek : State.ringAdvance s c = .ok tk)
    (kp : Keep zz s) : Keep zz tk := by
  revert ek
  suffices KeepE zz (State.ringAdvance s c) from this tk
  unfold State.ringAdvance
  repeat' first
    | with_reducible assumption
    | simp only [keep_mk]
    | with_reducible refine keepE_ok ?_
    | with_reducible refine State.modRRing_keep ?_
    | with_reducible refine State.ringStore_keep ?_
    | with_reducible refine State.genIdle_keep ?_
    | with_reducible refine State.watchRoom_keep ?_
    | with_reducible refine State.flushRing_keep ?_
    | with_reducible refine keepE_bind (fun _ _ => ?_)
    | with_reducible refine keep_foldl (fun _ _ _ => ?_) ?_

/-- What `genRingAdvanceBody` keeps. -/
theorem genRingAdvanceBody_keep {zz tk s : State} {c} (ek : genRingAdvanceBody c s = .ok tk)
    (kp : Keep zz s) : Keep zz tk := by
  revert ek
  suffices KeepE zz (genRingAdvanceBody c s) from this tk
  unfold genRingAdvanceBody
  repeat' first
    | with_reducible assumption
    | with_reducible refine keepE_ok ?_
    | with_reducible refine State.ringAdvance_keep (by assumption) ?_
    | with_reducible refine State.ok_keep ?_
    | with_reducible refine keepE_bind (fun _ _ => ?_)

/-- What `genRingAdvanceExpertBody` keeps. -/
theorem genRingAdvanceExpertBody_keep {zz tk s : State} {c} (ek : genRingAdvanceExpertBody c s = .ok tk)
    (kp : Keep zz s) : Keep zz tk := by
  revert ek
  suffices KeepE zz (genRingAdvanceExpertBody c s) from this tk
  unfold genRingAdvanceExpertBody
  repeat' first
    | with_reducible assumption
    | with_reducible refine keepE_ok ?_
    | with_reducible refine State.ringAdvance_keep (by assumption) ?_
    | with_reducible refine State.wait_keep ?_
    | with_reducible refine keepE_bind (fun _ _ => ?_)

/-- What `State.loopBarrier` keeps. -/
theorem State.loopBarrier_keep {zz tk s : State} {pad} {xk} (ek : State.loopBarrier s pad = .ok (xk, tk))
    (kp : Keep zz s) : Keep zz tk := by
  suffices KeepP zz (fun a => a.2) (State.loopBarrier s pad) from this _ ek
  unfold State.loopBarrier
  repeat' first
    | with_reducible assumption
    | simp only [keep_mk]
    | with_reducible refine keepP_ok ?_
    | with_reducible refine State.pick_keep ?_
    | with_reducible refine keepP_bind (fun _ _ => ?_)

/-- What `State.listBuffers` keeps. -/
theorem State.listBuffers_keep {zz tk s : State} {pad at0 seqLimit} {xk yk} (ek : State.listBuffers s pad at0 seqLimit = .ok (xk, yk, tk))
    (kp : Keep zz s) : Keep zz tk := by
  suffices KeepP zz (fun a => a.2.2) (State.listBuffers s pad at0 seqLimit) from this _ ek
  unfold State.listBuffers
  repeat' first
    | with_reducible assumption
    | simp only [keep_mk]
    | with_reducible refine keepP_ok ?_
    | exact keepP_error
    | with_reducible refine State.allocate_keep (by assumption) ?_
    | with_reducible refine keepP_ite (fun _ => ?_) (fun _ => ?_)
    | split

/-- What `State.makeLoop` keeps. -/
theorem State.makeLoop_keep {zz tk s : State} {w pad m kh k n leader q} (ek : State.makeLoop s w pad m kh k n leader q = .ok tk)
    (kp : Keep zz s) : Keep zz tk := by
  revert ek
  suffices KeepE zz (State.makeLoop s w pad m kh k n leader q) from this tk
  unfold State.makeLoop
  repeat' first
    | with_reducible assumption
    | simp only [keep_mk]
    | with_reducible refine keepE_ok ?_
    | exact keepE_error
    | exact keepE_fail
    | with_reducible refine State.listBuffers_keep (by assumption) ?_
    | with_reducible refine State.saveArea_keep (by assumption) ?_
    | with_reducible refine State.loopBarrier_keep (by assumption) ?_
    | with_reducible refine State.ok_keep ?_
    | with_reducible refine State.modModel_keep ?_
    | with_reducible refine keepE_bind (fun _ _ => ?_)

/-- What `State.loopStart` keeps. -/
theorem State.loopStart_keep {zz tk s : State} {c q} (ek : State.loopStart s c q = .ok tk)
    (kp : Keep zz s) : Keep zz tk := by
  revert ek
  suffices KeepE zz (State.loopStart s c q) from this tk
  unfold State.loopStart
  repeat' first
    | with_reducible assumption
    | simp only [keep_mk]
    | with_reducible refine keepE_ok ?_
    | exact keepE_error
    | exact keepE_fail
    | with_reducible refine State.makeLoop_keep (by assumption) ?_
    | refine fun _ e => State.makeLoop_keep e ?_
    | with_reducible refine State.writeSlot_keep ?_
    | with_reducible refine State.tellMembers_keep ?_
    | with_reducible refine State.ok_keep ?_
    | with_reducible refine State.build_keep ?_
    | with_reducible refine keepE_bind (fun _ _ => ?_)
    | with_reducible refine keepE_ite (fun _ => ?_) (fun _ => ?_)
    | dsimp only
    | split

/-- What `genLoopStartBody` keeps. -/
theorem genLoopStartBody_keep {zz tk s : State} {c} (ek : genLoopStartBody c s = .ok tk)
    (kp : Keep zz s) : Keep zz tk := by
  revert ek
  suffices KeepE zz (genLoopStartBody c s) from this tk
  unfold genLoopStartBody
  repeat' first
    | with_reducible assumption
    | refine fun _ e => State.loopStart_keep e ?_

/-- What `genLoopStartExpertBody` keeps. -/
theorem genLoopStartExpertBody_keep {zz tk s : State} {c} (ek : genLoopStartExpertBody c s = .ok tk)
    (kp : Keep zz s) : Keep zz tk := by
  revert ek
  suffices KeepE zz (genLoopStartExpertBody c s) from this tk
  unfold genLoopStartExpertBody
  repeat' first
    | with_reducible assumption
    | refine fun _ e => State.loopStart_keep e ?_

/-- What `State.loopStop` keeps. -/
theorem State.loopStop_keep {zz tk s : State} {c force} (ek : State.loopStop s c force = .ok tk)
    (kp : Keep zz s) : Keep zz tk := by
  revert ek
  suffices KeepE zz (State.loopStop s c force) from this tk
  unfold State.loopStop
  repeat' first
    | with_reducible assumption
    | simp only [keep_mk]
    | with_reducible refine keepE_ok ?_
    | with_reducible refine State.endLoop_keep ?_
    | with_reducible refine State.modLoop_keep ?_
    | with_reducible refine keepE_ite (fun _ => ?_) (fun _ => ?_)
    | with_reducible refine keepE_bind (fun _ _ => ?_)

/-- What `genLoopStopBody` keeps. -/
theorem genLoopStopBody_keep {zz tk s : State} {c} (ek : genLoopStopBody c s = .ok tk)
    (kp : Keep zz s) : Keep zz tk := by
  revert ek
  suffices KeepE zz (genLoopStopBody c s) from this tk
  unfold genLoopStopBody
  repeat' first
    | with_reducible assumption
    | refine fun _ e => State.loopStop_keep e ?_

/-- What `genLoopStopExpertBody` keeps. -/
theorem genLoopStopExpertBody_keep {zz tk s : State} {c} (ek : genLoopStopExpertBody c s = .ok tk)
    (kp : Keep zz s) : Keep zz tk := by
  revert ek
  suffices KeepE zz (genLoopStopExpertBody c s) from this tk
  unfold genLoopStopExpertBody
  repeat' first
    | with_reducible assumption
    | refine fun _ e => State.loopStop_keep e ?_

/-- What `genLoopQueryBody` keeps. -/
theorem genLoopQueryBody_keep {zz tk s : State} {c} (ek : genLoopQueryBody c s = .ok tk)
    (kp : Keep zz s) : Keep zz tk := by
  revert ek
  suffices KeepE zz (genLoopQueryBody c s) from this tk
  unfold genLoopQueryBody
  repeat' first
    | with_reducible assumption
    | with_reducible refine keepE_ok ?_
    | with_reducible refine State.writeBuf_keep (by assumption) ?_
    | with_reducible refine State.ok_keep ?_
    | with_reducible refine keepE_bind (fun _ _ => ?_)

/-- What `genLoopQueryExpertBody` keeps. -/
theorem genLoopQueryExpertBody_keep {zz tk s : State} {c} (ek : genLoopQueryExpertBody c s = .ok tk)
    (kp : Keep zz s) : Keep zz tk := by
  revert ek
  suffices KeepE zz (genLoopQueryExpertBody c s) from this tk
  unfold genLoopQueryExpertBody
  repeat' first
    | with_reducible assumption
    | simp only [keep_mk]
    | with_reducible refine keepE_ok ?_
    | with_reducible refine State.writeBuf_keep (by assumption) ?_
    | with_reducible refine State.ok_keep ?_
    | with_reducible refine keepE_bind (fun _ _ => ?_)

/-- What `State.seqBuffer` keeps. -/
theorem State.seqBuffer_keep {zz tk s : State} {c len buf} {xk} (ek : State.seqBuffer s c len buf = .ok (xk, tk))
    (kp : Keep zz s) : Keep zz tk := by
  suffices KeepP zz (fun a => a.2) (State.seqBuffer s c len buf) from this _ ek
  unfold State.seqBuffer
  repeat' first
    | with_reducible assumption
    | with_reducible refine keepP_ok ?_
    | exact keepP_error
    | refine fun _ e => State.allocate_keep e ?_
    | with_reducible refine keepP_ite (fun _ => ?_) (fun _ => ?_)

/-- What `State.admitSeq` keeps. -/
theorem State.admitSeq_keep {zz tk s : State} {c q} (ek : State.admitSeq s c q = .ok tk)
    (kp : Keep zz s) : Keep zz tk := by
  revert ek
  suffices KeepE zz (State.admitSeq s c q) from this tk
  unfold State.admitSeq
  repeat' first
    | with_reducible assumption
    | simp only [keep_mk]
    | with_reducible refine keepE_ok ?_
    | exact keepE_error
    | exact keepE_fail
    | with_reducible refine State.seqBuffer_keep (by assumption) ?_
    | with_reducible refine State.autoRelease_keep ?_
    | with_reducible refine State.writeManifest_keep ?_
    | with_reducible refine State.ok_keep ?_
    | with_reducible refine State.padStore_keep ?_
    | with_reducible refine keepE_bind (fun _ _ => ?_)

/-- What `genAdmitBody` keeps. -/
theorem genAdmitBody_keep {zz tk s : State} {c} (ek : genAdmitBody c s = .ok tk)
    (kp : Keep zz s) : Keep zz tk := by
  revert ek
  suffices KeepE zz (genAdmitBody c s) from this tk
  unfold genAdmitBody
  repeat' first
    | with_reducible assumption
    | refine fun _ e => State.admitSeq_keep e ?_
    | with_reducible refine keepE_bind (fun _ _ => ?_)

/-- What `genAdmitExpertBody` keeps. -/
theorem genAdmitExpertBody_keep {zz tk s : State} {c} (ek : genAdmitExpertBody c s = .ok tk)
    (kp : Keep zz s) : Keep zz tk := by
  revert ek
  suffices KeepE zz (genAdmitExpertBody c s) from this tk
  unfold genAdmitExpertBody
  repeat' first
    | with_reducible assumption
    | refine fun _ e => State.admitSeq_keep e ?_

/-- What `State.seqCmd` keeps. -/
theorem State.seqCmd_keep {zz tk s : State} {c kind arg flag toks} (ek : State.seqCmd s c kind arg flag toks = .ok tk)
    (kp : Keep zz s) : Keep zz tk := by
  revert ek
  suffices KeepE zz (State.seqCmd s c kind arg flag toks) from this tk
  unfold State.seqCmd
  repeat' first
    | with_reducible assumption
    | with_reducible refine keepE_ok ?_
    | with_reducible refine State.queueCmd_keep ?_
    | with_reducible refine keepE_bind (fun _ _ => ?_)

/-- What `genCancelBody` keeps. -/
theorem genCancelBody_keep {zz tk s : State} {c} (ek : genCancelBody c s = .ok tk)
    (kp : Keep zz s) : Keep zz tk := by
  revert ek
  suffices KeepE zz (genCancelBody c s) from this tk
  unfold genCancelBody
  repeat' first
    | with_reducible assumption
    | refine fun _ e => State.seqCmd_keep e ?_

/-- What `genCancelExpertBody` keeps. -/
theorem genCancelExpertBody_keep {zz tk s : State} {c} (ek : genCancelExpertBody c s = .ok tk)
    (kp : Keep zz s) : Keep zz tk := by
  revert ek
  suffices KeepE zz (genCancelExpertBody c s) from this tk
  unfold genCancelExpertBody
  repeat' first
    | with_reducible assumption
    | refine fun _ e => State.seqCmd_keep e ?_
    | with_reducible refine State.reason_keep ?_
    | with_reducible refine keepE_bind (fun _ _ => ?_)

/-- What `genParkBody` keeps. -/
theorem genParkBody_keep {zz tk s : State} {c} (ek : genParkBody c s = .ok tk)
    (kp : Keep zz s) : Keep zz tk := by
  revert ek
  suffices KeepE zz (genParkBody c s) from this tk
  unfold genParkBody
  repeat' first
    | with_reducible assumption
    | refine fun _ e => State.seqCmd_keep e ?_

/-- What `genParkExpertBody` keeps. -/
theorem genParkExpertBody_keep {zz tk s : State} {c} (ek : genParkExpertBody c s = .ok tk)
    (kp : Keep zz s) : Keep zz tk := by
  revert ek
  suffices KeepE zz (genParkExpertBody c s) from this tk
  unfold genParkExpertBody
  repeat' first
    | with_reducible assumption
    | refine fun _ e => State.seqCmd_keep e ?_

/-- What `State.seqResume` keeps. -/
theorem State.seqResume_keep {zz tk s : State} {c maxNew} (ek : State.seqResume s c maxNew = .ok tk)
    (kp : Keep zz s) : Keep zz tk := by
  revert ek
  suffices KeepE zz (State.seqResume s c maxNew) from this tk
  unfold State.seqResume
  repeat' first
    | with_reducible assumption
    | simp only [keep_mk]
    | refine fun _ e => State.seqCmd_keep e ?_
    | with_reducible refine keepE_bind (fun _ _ => ?_)

/-- What `genResumeBody` keeps. -/
theorem genResumeBody_keep {zz tk s : State} {c} (ek : genResumeBody c s = .ok tk)
    (kp : Keep zz s) : Keep zz tk := by
  revert ek
  suffices KeepE zz (genResumeBody c s) from this tk
  unfold genResumeBody
  repeat' first
    | with_reducible assumption
    | refine fun _ e => State.seqResume_keep e ?_

/-- What `genResumeExpertBody` keeps. -/
theorem genResumeExpertBody_keep {zz tk s : State} {c} (ek : genResumeExpertBody c s = .ok tk)
    (kp : Keep zz s) : Keep zz tk := by
  revert ek
  suffices KeepE zz (genResumeExpertBody c s) from this tk
  unfold genResumeExpertBody
  repeat' first
    | with_reducible assumption
    | refine fun _ e => State.seqResume_keep e ?_

/-- What `genReleaseBody` keeps. -/
theorem genReleaseBody_keep {zz tk s : State} {c} (ek : genReleaseBody c s = .ok tk)
    (kp : Keep zz s) : Keep zz tk := by
  revert ek
  suffices KeepE zz (genReleaseBody c s) from this tk
  unfold genReleaseBody
  repeat' first
    | with_reducible assumption
    | refine fun _ e => State.seqCmd_keep e ?_

/-- What `genReleaseExpertBody` keeps. -/
theorem genReleaseExpertBody_keep {zz tk s : State} {c} (ek : genReleaseExpertBody c s = .ok tk)
    (kp : Keep zz s) : Keep zz tk := by
  revert ek
  suffices KeepE zz (genReleaseExpertBody c s) from this tk
  unfold genReleaseExpertBody
  repeat' first
    | with_reducible assumption
    | refine fun _ e => State.seqCmd_keep e ?_

/-- What `genQueryBody` keeps. -/
theorem genQueryBody_keep {zz tk s : State} {c} (ek : genQueryBody c s = .ok tk)
    (kp : Keep zz s) : Keep zz tk := by
  revert ek
  suffices KeepE zz (genQueryBody c s) from this tk
  unfold genQueryBody
  repeat' first
    | with_reducible assumption
    | with_reducible refine keepE_ok ?_
    | with_reducible refine State.writeBuf_keep (by assumption) ?_
    | with_reducible refine State.ok_keep ?_
    | with_reducible refine keepE_bind (fun _ _ => ?_)

/-- What `genQueryExpertBody` keeps. -/
theorem genQueryExpertBody_keep {zz tk s : State} {c} (ek : genQueryExpertBody c s = .ok tk)
    (kp : Keep zz s) : Keep zz tk := by
  revert ek
  suffices KeepE zz (genQueryExpertBody c s) from this tk
  unfold genQueryExpertBody
  repeat' first
    | with_reducible assumption
    | simp only [keep_mk]
    | with_reducible refine keepE_ok ?_
    | with_reducible refine State.writeBuf_keep (by assumption) ?_
    | with_reducible refine State.ok_keep ?_
    | with_reducible refine keepE_bind (fun _ _ => ?_)

/-- What `execStepBoundary` keeps. -/
theorem execStepBoundary_keep {tk s : State} {model fwd} (ek : execStepBoundary model fwd s = .next tk) : Keep s tk := by
  have kp := Keep.refl s
  refine event_keep ek ?_
  repeat' first
    | with_reducible assumption
    | with_reducible refine State.boundary_keep ?_

/-- What `execAutoPark` keeps. -/
theorem execAutoPark_keep {tk s : State} {model} (ek : execAutoPark model s = .next tk) : Keep s tk := by
  have kp := Keep.refl s
  refine event_keep ek ?_
  repeat' first
    | with_reducible assumption
    | simp only [keep_mk]
    | with_reducible refine State.setSeq_keep ?_
    | with_reducible refine State.modEntry_keep ?_
    | with_reducible refine State.startEvict_keep ?_
    | with_reducible refine State.modLoop_keep ?_
    | with_reducible refine keep_ite (fun _ => ?_) (fun _ => ?_)
    | split

/-- What `execAutoResume` keeps. -/
theorem execAutoResume_keep {tk s : State} {entry} (ek : execAutoResume entry s = .next tk) : Keep s tk := by
  have kp := Keep.refl s
  refine event_keep ek ?_
  repeat' first
    | with_reducible assumption
    | simp only [keep_mk]
    | with_reducible refine State.startFetch_keep ?_
    | with_reducible refine State.wake_keep ?_
    | with_reducible refine keep_ite (fun _ => ?_) (fun _ => ?_)
    | split

/-- What `execSequenceExpiry` keeps. -/
theorem execSequenceExpiry_keep {tk s : State} {entry} (ek : execSequenceExpiry entry s = .next tk) : Keep s tk := by
  have kp := Keep.refl s
  refine event_keep ek ?_
  repeat' first
    | with_reducible assumption
    | simp only [keep_mk]
    | with_reducible refine State.terminate_keep ?_
    | with_reducible refine State.reach_keep ?_
    | with_reducible refine keep_ite (fun _ => ?_) (fun _ => ?_)
    | split

/-- What `execEvictionComplete` keeps. -/
theorem execEvictionComplete_keep {tk s : State} {entry ok} (ek : execEvictionComplete entry ok s = .next tk) : Keep s tk := by
  have kp := Keep.refl s
  refine event_keep ek ?_
  repeat' first
    | with_reducible assumption
    | simp only [keep_mk]
    | with_reducible refine State.ok_keep ?_
    | with_reducible refine State.modEntry_keep ?_
    | with_reducible refine State.carry_keep ?_
    | with_reducible refine State.mapWord_keep ?_
    | with_reducible refine State.setSeq_keep ?_
    | with_reducible refine keep_ite (fun _ => ?_) (fun _ => ?_)
    | with_reducible refine keep_foldl (fun _ _ _ => ?_) ?_
    | dsimp only
    | split

/-- What `execBerthFetchComplete` keeps. -/
theorem execBerthFetchComplete_keep {tk s : State} {entry} (ek : execBerthFetchComplete entry s = .next tk) : Keep s tk := by
  have kp := Keep.refl s
  refine event_keep ek ?_
  repeat' first
    | with_reducible assumption
    | simp only [keep_mk]
    | with_reducible refine State.carry_keep ?_
    | with_reducible refine State.mapWord_keep ?_
    | with_reducible refine State.modEntry_keep ?_
    | with_reducible refine State.genIdle_keep ?_
    | with_reducible refine keep_ite (fun _ => ?_) (fun _ => ?_)
    | with_reducible refine keep_foldl (fun _ _ _ => ?_) ?_
    | dsimp only
    | split

/-- What `State.joinLoop` keeps. -/
theorem State.joinLoop_keep {zz s : State} {m md leader kh n mask berths seqLimit budget chunk} (kp : Keep zz s) :
    Keep zz (State.joinLoop s m md leader kh n mask berths seqLimit budget chunk) := by
  unfold State.joinLoop
  repeat' first
    | with_reducible assumption
    | simp only [keep_mk]
    | with_reducible refine State.makeLoop_keep (by assumption) ?_
    | with_reducible refine State.ok_keep ?_
    | with_reducible refine keep_ite (fun _ => ?_) (fun _ => ?_)
    | dsimp only
    | split

/-- What `State.takeList` keeps. -/
theorem State.takeList_keep {zz s : State} {m md l list} (kp : Keep zz s) :
    Keep zz (State.takeList s m md l list) := by
  unfold State.takeList
  repeat' first
    | with_reducible assumption
    | simp only [keep_mk]
    | with_reducible refine State.store_keep ?_
    | with_reducible refine State.padStore_keep ?_
    | with_reducible refine State.followVersion_keep ?_
    | with_reducible refine State.modLoop_keep ?_
    | with_reducible refine State.arrive_keep ?_
    | with_reducible refine keep_ite (fun _ => ?_) (fun _ => ?_)
    | with_reducible refine keep_foldl (fun _ _ _ => ?_) ?_
    | dsimp only
    | split

/-- What `State.takeNews` keeps. -/
theorem State.takeNews_keep {zz s : State} {m md l x0} (kp : Keep zz s) :
    Keep zz (State.takeNews s m md l x0) := by
  unfold State.takeNews
  repeat' first
    | with_reducible assumption
    | simp only [keep_mk]
    | with_reducible refine keep_adv ?_
    | with_reducible refine State.takeList_keep ?_
    | with_reducible refine State.modLoop_keep ?_
    | with_reducible refine State.modModel_keep ?_
    | with_reducible refine State.stopLoopTask_keep ?_
    | with_reducible refine State.freeLoopTask_keep ?_
    | with_reducible refine State.endLoop_keep ?_
    | with_reducible refine keep_ite (fun _ => ?_) (fun _ => ?_)
    | dsimp only
    | split

/-- What `execListForwardArrival` keeps. -/
theorem execListForwardArrival_keep {tk s : State} {model news} (ek : execListForwardArrival model news s = .next tk) : Keep s tk := by
  have kp := Keep.refl s
  refine event_keep ek ?_
  repeat' first
    | with_reducible assumption
    | simp only [keep_mk]
    | with_reducible refine State.joinLoop_keep ?_
    | with_reducible refine State.takeNews_keep ?_
    | dsimp only
    | split

end Sys2Proof.Machine
end

