-- ==== Sys2Proof/Laws/KeepLearn.lean ====
section
/-! SUPPORT. What the definitions of Machine/Learn.lean keep (Laws/Keep.lean). -/

namespace Sys2Proof.Machine

open Sys2Proof

/-- What `State.setRegister` keeps. -/
theorem State.setRegister_keep {zz tk s : State} {c step0} (ek : State.setRegister s c step0 = .ok tk)
    (kp : Keep zz s) : Keep zz tk := by
  revert ek
  suffices KeepE zz (State.setRegister s c step0) from this tk
  unfold State.setRegister
  repeat' first
    | with_reducible assumption
    | simp only [keep_mk]
    | with_reducible refine keepE_ok ?_
    | with_reducible refine State.ok_keep ?_
    | with_reducible refine State.pick_keep ?_
    | with_reducible refine keepE_bind (fun _ _ => ?_)

/-- What `learnSetRegisterBody` keeps. -/
theorem learnSetRegisterBody_keep {zz tk s : State} {c} (ek : learnSetRegisterBody c s = .ok tk)
    (kp : Keep zz s) : Keep zz tk := by
  revert ek
  suffices KeepE zz (learnSetRegisterBody c s) from this tk
  unfold learnSetRegisterBody
  repeat' first
    | with_reducible assumption
    | refine fun _ e => State.setRegister_keep e ?_

/-- What `learnSetRegisterExpertBody` keeps. -/
theorem learnSetRegisterExpertBody_keep {zz tk s : State} {c} (ek : learnSetRegisterExpertBody c s = .ok tk)
    (kp : Keep zz s) : Keep zz tk := by
  revert ek
  suffices KeepE zz (learnSetRegisterExpertBody c s) from this tk
  unfold learnSetRegisterExpertBody
  repeat' first
    | with_reducible assumption
    | refine fun _ e => State.setRegister_keep e ?_

/-- What `learnSetReleaseBody` keeps. -/
theorem learnSetReleaseBody_keep {zz tk s : State} {c} (ek : learnSetReleaseBody c s = .ok tk)
    (kp : Keep zz s) : Keep zz tk := by
  revert ek
  suffices KeepE zz (learnSetReleaseBody c s) from this tk
  unfold learnSetReleaseBody
  repeat' first
    | with_reducible assumption
    | simp only [keep_mk]
    | with_reducible refine keepE_ok ?_
    | with_reducible refine State.ok_keep ?_
    | with_reducible refine keepE_bind (fun _ _ => ?_)

/-- What `learnSetReleaseExpertBody` keeps. -/
theorem learnSetReleaseExpertBody_keep {zz tk s : State} {c} (ek : learnSetReleaseExpertBody c s = .ok tk)
    (kp : Keep zz s) : Keep zz tk := by
  revert ek
  suffices KeepE zz (learnSetReleaseExpertBody c s) from this tk
  unfold learnSetReleaseExpertBody
  repeat' first
    | with_reducible assumption
    | with_reducible refine keepE_ok ?_
    | refine fun _ e => learnSetReleaseBody_keep e ?_
    | with_reducible refine State.wait_keep ?_
    | with_reducible refine keepE_ite (fun _ => ?_) (fun _ => ?_)
    | with_reducible refine keepE_bind (fun _ _ => ?_)

/-- What `State.learnExchange` keeps. -/
theorem State.learnExchange_keep {zz tk s : State} {c timeout} (ek : State.learnExchange s c timeout = .ok tk)
    (kp : Keep zz s) : Keep zz tk := by
  revert ek
  suffices KeepE zz (State.learnExchange s c timeout) from this tk
  unfold State.learnExchange
  repeat' first
    | with_reducible assumption
    | simp only [keep_mk]
    | with_reducible refine keepE_ok ?_
    | exact keepE_error
    | exact keepE_fail
    | with_reducible refine State.startColl_keep (by assumption) ?_
    | refine fun _ e => State.startColl_keep e ?_
    | with_reducible refine State.ok_keep ?_
    | with_reducible refine State.greet_keep ?_
    | with_reducible refine keepE_bind (fun _ _ => ?_)
    | with_reducible refine keepE_ite (fun _ => ?_) (fun _ => ?_)

/-- What `learnExchangeBody` keeps. -/
theorem learnExchangeBody_keep {zz tk s : State} {c} (ek : learnExchangeBody c s = .ok tk)
    (kp : Keep zz s) : Keep zz tk := by
  revert ek
  suffices KeepE zz (learnExchangeBody c s) from this tk
  unfold learnExchangeBody
  repeat' first
    | with_reducible assumption
    | refine fun _ e => State.learnExchange_keep e ?_

/-- What `learnExchangeExpertBody` keeps. -/
theorem learnExchangeExpertBody_keep {zz tk s : State} {c} (ek : learnExchangeExpertBody c s = .ok tk)
    (kp : Keep zz s) : Keep zz tk := by
  revert ek
  suffices KeepE zz (learnExchangeExpertBody c s) from this tk
  unfold learnExchangeExpertBody
  repeat' first
    | with_reducible assumption
    | refine fun _ e => State.learnExchange_keep e ?_

/-- What `execExchangeComplete` keeps. -/
theorem execExchangeComplete_keep {tk s : State} {w} (ek : execExchangeComplete w s = .next tk) : Keep s tk := by
  have kp := Keep.refl s
  refine event_keep ek ?_
  repeat' first
    | with_reducible assumption
    | simp only [keep_mk]
    | with_reducible refine State.endColl_keep ?_
    | with_reducible refine State.modSet_keep ?_
    | with_reducible refine keep_ite (fun _ => ?_) (fun _ => ?_)
    | split

/-- What `learnNormBody` keeps. -/
theorem learnNormBody_keep {zz tk s : State} {c} (ek : learnNormBody c s = .ok tk)
    (kp : Keep zz s) : Keep zz tk := by
  revert ek
  suffices KeepE zz (learnNormBody c s) from this tk
  unfold learnNormBody
  repeat' first
    | with_reducible assumption
    | simp only [keep_mk]
    | with_reducible refine keepE_ok ?_
    | with_reducible refine State.startColl_keep (by assumption) ?_
    | with_reducible refine keepE_ite (fun _ => ?_) (fun _ => ?_)
    | with_reducible refine keepE_bind (fun _ _ => ?_)

/-- What `learnNormExpertBody` keeps. -/
theorem learnNormExpertBody_keep {zz tk s : State} {c} (ek : learnNormExpertBody c s = .ok tk)
    (kp : Keep zz s) : Keep zz tk := by
  revert ek
  suffices KeepE zz (learnNormExpertBody c s) from this tk
  unfold learnNormExpertBody
  repeat' first
    | with_reducible assumption
    | simp only [keep_mk]
    | with_reducible refine keepE_ok ?_
    | exact keepE_error
    | exact keepE_fail
    | with_reducible refine State.ok_keep ?_
    | with_reducible refine State.wait_keep ?_
    | with_reducible refine learnNormBody_keep (by assumption) ?_
    | refine fun _ e => learnNormBody_keep e ?_
    | with_reducible refine keepE_bind (fun _ _ => ?_)
    | with_reducible refine keepE_ite (fun _ => ?_) (fun _ => ?_)

/-- What `execNormComplete` keeps. -/
theorem execNormComplete_keep {tk s : State} {w} (ek : execNormComplete w s = .next tk) : Keep s tk := by
  have kp := Keep.refl s
  refine event_keep ek ?_
  repeat' first
    | with_reducible assumption
    | simp only [keep_mk]
    | with_reducible refine State.endColl_keep ?_
    | with_reducible refine State.modSet_keep ?_
    | with_reducible refine keep_ite (fun _ => ?_) (fun _ => ?_)
    | split

/-- What `State.updateFactors` keeps. -/
theorem State.updateFactors_keep {zz s : State} {h} (kp : Keep zz s) :
    Keep zz (State.updateFactors s h) := by
  unfold State.updateFactors
  repeat' first
    | with_reducible assumption
    | simp only [keep_mk]
    | with_reducible refine State.factorUpdate_keep ?_
    | with_reducible refine State.modSet_keep ?_
    | with_reducible refine keep_ite (fun _ => ?_) (fun _ => ?_)
    | with_reducible refine keep_foldl (fun _ _ _ => ?_) ?_
    | split

/-- What `State.emitSweep` keeps. -/
theorem State.emitSweep_keep {zz s : State} {h} (kp : Keep zz s) :
    Keep zz (State.emitSweep s h) := by
  unfold State.emitSweep
  repeat' first
    | with_reducible assumption
    | simp only [keep_mk]
    | with_reducible refine State.modSet_keep ?_
    | with_reducible refine State.sweepEpoch_keep ?_
    | with_reducible refine keep_ite (fun _ => ?_) (fun _ => ?_)
    | dsimp only
    | split

/-- What `State.beginSweep` keeps. -/
theorem State.beginSweep_keep {zz tk s : State} {c l seed} (ek : State.beginSweep s c l seed = .ok tk)
    (kp : Keep zz s) : Keep zz tk := by
  revert ek
  suffices KeepE zz (State.beginSweep s c l seed) from this tk
  unfold State.beginSweep
  repeat' first
    | with_reducible assumption
    | simp only [keep_mk]
    | with_reducible refine keepE_ok ?_
    | with_reducible refine State.updateFactors_keep ?_
    | with_reducible refine State.modPaddock_keep ?_
    | with_reducible refine State.complete_keep ?_
    | with_reducible refine State.modSet_keep ?_
    | with_reducible refine keepE_ite (fun _ => ?_) (fun _ => ?_)
    | with_reducible refine keepE_bind (fun _ _ => ?_)

/-- What `learnSweepBody` keeps. -/
theorem learnSweepBody_keep {zz tk s : State} {c} (ek : learnSweepBody c s = .ok tk)
    (kp : Keep zz s) : Keep zz tk := by
  revert ek
  suffices KeepE zz (learnSweepBody c s) from this tk
  unfold learnSweepBody
  repeat' first
    | with_reducible assumption
    | refine fun _ e => State.beginSweep_keep e ?_
    | with_reducible refine keepE_bind (fun _ _ => ?_)

/-- What `learnSweepExpertBody` keeps. -/
theorem learnSweepExpertBody_keep {zz tk s : State} {c} (ek : learnSweepExpertBody c s = .ok tk)
    (kp : Keep zz s) : Keep zz tk := by
  revert ek
  suffices KeepE zz (learnSweepExpertBody c s) from this tk
  unfold learnSweepExpertBody
  repeat' first
    | with_reducible assumption
    | simp only [keep_mk]
    | with_reducible refine keepE_ok ?_
    | exact keepE_error
    | exact keepE_fail
    | with_reducible refine State.modSet_keep ?_
    | with_reducible refine State.ok_keep ?_
    | with_reducible refine State.updateFactors_keep ?_
    | with_reducible refine State.emitSweep_keep ?_
    | with_reducible refine State.beginSweep_keep (by assumption) ?_
    | refine fun _ e => State.beginSweep_keep e ?_
    | with_reducible refine keepE_bind (fun _ _ => ?_)
    | with_reducible refine keepE_ite (fun _ => ?_) (fun _ => ?_)

/-- What `execUpdateSpanDone` keeps. -/
theorem execUpdateSpanDone_keep {tk s : State} {w group span} (ek : execUpdateSpanDone w group span s = .next tk) : Keep s tk := by
  have kp := Keep.refl s
  refine event_keep ek ?_
  repeat' first
    | with_reducible assumption
    | simp only [keep_mk]
    | with_reducible refine State.modSet_keep ?_
    | with_reducible refine State.emitSweep_keep ?_
    | with_reducible refine State.updateSpan_keep ?_
    | with_reducible refine State.stageMoored_keep ?_
    | with_reducible refine keep_ite (fun _ => ?_) (fun _ => ?_)
    | dsimp only
    | split

/-- What `execSweepComplete` keeps. -/
theorem execSweepComplete_keep {tk s : State} {w} (ek : execSweepComplete w s = .next tk) : Keep s tk := by
  have kp := Keep.refl s
  refine event_keep ek ?_
  repeat' first
    | with_reducible assumption
    | simp only [keep_mk]
    | with_reducible refine State.modSet_keep ?_
    | with_reducible refine State.modPaddock_keep ?_
    | with_reducible refine State.sweepEpoch_keep ?_
    | with_reducible refine State.complete_keep ?_
    | with_reducible refine keep_ite (fun _ => ?_) (fun _ => ?_)
    | split

/-- What `State.mixSpan` keeps. -/
theorem State.mixSpan_keep {zz s : State} {h gi k} (kp : Keep zz s) :
    Keep zz (State.mixSpan s h gi k) := by
  unfold State.mixSpan
  repeat' first
    | with_reducible assumption
    | simp only [keep_mk]
    | with_reducible refine State.updateSpan_keep ?_
    | with_reducible refine State.store_keep ?_
    | with_reducible refine State.draw_keep ?_
    | with_reducible refine State.modSet_keep ?_
    | with_reducible refine keep_ite (fun _ => ?_) (fun _ => ?_)
    | with_reducible refine keep_foldl (fun _ _ _ => ?_) ?_
    | split

/-- What `State.interruptSweep` keeps. -/
theorem State.interruptSweep_keep {zz s : State} {h} (kp : Keep zz s) :
    Keep zz (State.interruptSweep s h) := by
  unfold State.interruptSweep
  repeat' first
    | with_reducible assumption
    | simp only [keep_mk]
    | with_reducible refine State.progress_keep ?_
    | with_reducible refine State.modSet_keep ?_
    | with_reducible refine State.mixSpan_keep ?_
    | with_reducible refine keep_ite (fun _ => ?_) (fun _ => ?_)
    | with_reducible refine keep_foldl (fun _ _ _ => ?_) ?_
    | split

/-- What `State.failSweep` keeps. -/
theorem State.failSweep_keep {zz s : State} {h} (kp : Keep zz s) :
    Keep zz (State.failSweep s h) := by
  unfold State.failSweep
  repeat' first
    | with_reducible assumption
    | simp only [keep_mk]
    | with_reducible refine State.interruptSweep_keep ?_
    | with_reducible refine State.complete_keep ?_
    | split

/-- What `State.unitFault` keeps. -/
theorem State.unitFault_keep {zz s : State} {u} (kp : Keep zz s) :
    Keep zz (State.unitFault s u) := by
  unfold State.unitFault
  repeat' first
    | with_reducible assumption
    | simp only [keep_mk]
    | with_reducible refine State.checkDegraded_keep ?_
    | with_reducible refine State.logEv_keep ?_
    | with_reducible refine State.failSweep_keep ?_
    | with_reducible refine keep_foldl (fun _ _ _ => ?_) ?_

/-- What `execUnitFault` keeps. -/
theorem execUnitFault_keep {tk s : State} {u} (ek : execUnitFault u s = .next tk) : Keep s tk := by
  have kp := Keep.refl s
  refine event_keep ek ?_
  repeat' first
    | with_reducible assumption
    | with_reducible refine State.unitFault_keep ?_
    | with_reducible refine keep_ite (fun _ => ?_) (fun _ => ?_)

/-- What `execUnitSpanTimeout` keeps. -/
theorem execUnitSpanTimeout_keep {tk s : State} {w group span} (ek : execUnitSpanTimeout w group span s = .next tk) : Keep s tk := by
  have kp := Keep.refl s
  refine event_keep ek ?_
  repeat' first
    | with_reducible assumption
    | with_reducible refine State.unitFault_keep ?_
    | with_reducible refine keep_ite (fun _ => ?_) (fun _ => ?_)
    | split

/-- What `execStashRestore` keeps. -/
theorem execStashRestore_keep {tk s : State} {set} (ek : execStashRestore set s = .next tk) : Keep s tk := by
  have kp := Keep.refl s
  refine event_keep ek ?_
  repeat' first
    | with_reducible assumption
    | simp only [keep_mk]
    | with_reducible refine State.store_keep ?_
    | with_reducible refine State.modSet_keep ?_
    | with_reducible refine keep_ite (fun _ => ?_) (fun _ => ?_)
    | with_reducible refine keep_foldl (fun _ _ _ => ?_) ?_
    | split

/-- What `State.microTest` keeps. -/
theorem State.microTest_keep {zz s : State} {m seed bs} (kp : Keep zz s) :
    Keep zz (State.microTest s m seed bs).2 := by
  unfold State.microTest
  repeat' first
    | with_reducible assumption
    | simp only [keep_mk]
    | with_reducible refine State.drawBytes_keep ?_

/-- What the answer of `State.microTest` keeps. -/
theorem State.microTest_keep' {zz tk s : State} {m seed bs} {xk} (ek : State.microTest s m seed bs = (xk, tk))
    (kp : Keep zz s) : Keep zz tk := by
  have := State.microTest_keep (kp) (m := m) (seed := seed) (bs := bs)
  rwa [ek] at this

/-- What `State.microLoad` keeps. -/
theorem State.microLoad_keep {zz tk s : State} {c buf seed} (ek : State.microLoad s c buf seed = .ok tk)
    (kp : Keep zz s) : Keep zz tk := by
  revert ek
  suffices KeepE zz (State.microLoad s c buf seed) from this tk
  unfold State.microLoad
  refine keepE_bind fun _ _ => keepE_bind fun ⟨img, _⟩ _ => keepE_bind fun _ _ => keepE_bind fun _ _ => ?_
  extract_lets m
  refine keepE_bind fun s1 h1 => ?_
  have k1 : Keep zz s1 := by
    revert h1
    suffices KeepE zz (if buf = 0 then .ok s else do
        let (bs, _) ← s.readBuf c buf 768
        let r := s.microTest m seed bs
        r.2.writeBuf c buf r.1) from this s1
    refine keepE_ite (fun _ => keepE_ok kp) (fun _ => keepE_bind fun ⟨bs, _⟩ _ => ?_)
    exact fun _ e => State.writeBuf_keep e (State.microTest_keep kp)
  dsimp only
  refine keepE_ok (State.ok_keep ?_)
  rw [keep_mk]
  exact State.pick_keep k1

/-- What `learnMicroLoadBody` keeps. -/
theorem learnMicroLoadBody_keep {zz tk s : State} {c} (ek : learnMicroLoadBody c s = .ok tk)
    (kp : Keep zz s) : Keep zz tk := by
  revert ek
  suffices KeepE zz (learnMicroLoadBody c s) from this tk
  unfold learnMicroLoadBody
  repeat' first
    | with_reducible assumption
    | refine fun _ e => State.microLoad_keep e ?_

/-- What `learnMicroLoadExpertBody` keeps. -/
theorem learnMicroLoadExpertBody_keep {zz tk s : State} {c} (ek : learnMicroLoadExpertBody c s = .ok tk)
    (kp : Keep zz s) : Keep zz tk := by
  revert ek
  suffices KeepE zz (learnMicroLoadExpertBody c s) from this tk
  unfold learnMicroLoadExpertBody
  repeat' first
    | with_reducible assumption
    | refine fun _ e => State.microLoad_keep e ?_

/-- What `learnMicroUnloadBody` keeps. -/
theorem learnMicroUnloadBody_keep {zz tk s : State} {c} (ek : learnMicroUnloadBody c s = .ok tk)
    (kp : Keep zz s) : Keep zz tk := by
  revert ek
  suffices KeepE zz (learnMicroUnloadBody c s) from this tk
  unfold learnMicroUnloadBody
  repeat' first
    | with_reducible assumption
    | simp only [keep_mk]
    | with_reducible refine keepE_ok ?_
    | with_reducible refine State.ok_keep ?_
    | with_reducible refine keepE_bind (fun _ _ => ?_)

/-- What `learnMicroUnloadExpertBody` keeps. -/
theorem learnMicroUnloadExpertBody_keep {zz tk s : State} {c} (ek : learnMicroUnloadExpertBody c s = .ok tk)
    (kp : Keep zz s) : Keep zz tk := by
  revert ek
  suffices KeepE zz (learnMicroUnloadExpertBody c s) from this tk
  unfold learnMicroUnloadExpertBody
  repeat' first
    | with_reducible assumption
    | with_reducible refine keepE_ok ?_
    | refine fun _ e => learnMicroUnloadBody_keep e ?_
    | with_reducible refine State.wait_keep ?_
    | with_reducible refine keepE_ite (fun _ => ?_) (fun _ => ?_)
    | with_reducible refine keepE_bind (fun _ _ => ?_)

/-- What `State.routeCheck` keeps. -/
theorem State.routeCheck_keep {zz tk s : State} {c all} (ek : State.routeCheck s c all = .ok tk)
    (kp : Keep zz s) : Keep zz tk := by
  revert ek
  suffices KeepE zz (State.routeCheck s c all) from this tk
  unfold State.routeCheck
  repeat' first
    | with_reducible assumption
    | simp only [keep_mk]
    | with_reducible refine keepE_ok ?_
    | exact keepE_error
    | with_reducible refine State.ok_keep ?_
    | with_reducible refine keepE_ite (fun _ => ?_) (fun _ => ?_)
    | with_reducible refine keepE_bind (fun _ _ => ?_)
    | split

/-- What `learnRouteCheckBody` keeps. -/
theorem learnRouteCheckBody_keep {zz tk s : State} {c} (ek : learnRouteCheckBody c s = .ok tk)
    (kp : Keep zz s) : Keep zz tk := by
  revert ek
  suffices KeepE zz (learnRouteCheckBody c s) from this tk
  unfold learnRouteCheckBody
  repeat' first
    | with_reducible assumption
    | refine fun _ e => State.routeCheck_keep e ?_

/-- What `learnRouteCheckExpertBody` keeps. -/
theorem learnRouteCheckExpertBody_keep {zz tk s : State} {c} (ek : learnRouteCheckExpertBody c s = .ok tk)
    (kp : Keep zz s) : Keep zz tk := by
  revert ek
  suffices KeepE zz (learnRouteCheckExpertBody c s) from this tk
  unfold learnRouteCheckExpertBody
  repeat' first
    | with_reducible assumption
    | refine fun _ e => State.routeCheck_keep e ?_

/-- What `learnQueryBody` keeps. -/
theorem learnQueryBody_keep {zz tk s : State} {c} (ek : learnQueryBody c s = .ok tk)
    (kp : Keep zz s) : Keep zz tk := by
  revert ek
  suffices KeepE zz (learnQueryBody c s) from this tk
  unfold learnQueryBody
  repeat' first
    | with_reducible assumption
    | with_reducible refine keepE_ok ?_
    | with_reducible refine State.writeBuf_keep (by assumption) ?_
    | with_reducible refine State.ok_keep ?_
    | with_reducible refine keepE_bind (fun _ _ => ?_)

/-- What `learnQueryExpertBody` keeps. -/
theorem learnQueryExpertBody_keep {zz tk s : State} {c} (ek : learnQueryExpertBody c s = .ok tk)
    (kp : Keep zz s) : Keep zz tk := by
  revert ek
  suffices KeepE zz (learnQueryExpertBody c s) from this tk
  unfold learnQueryExpertBody
  repeat' first
    | with_reducible assumption
    | with_reducible refine keepE_ok ?_
    | with_reducible refine State.writeBuf_keep (by assumption) ?_
    | with_reducible refine State.ok_keep ?_
    | with_reducible refine keepE_bind (fun _ _ => ?_)

end Sys2Proof.Machine
end

