-- ==== Sys2Proof/Laws/KeepStreams.lean ====
section
/-! SUPPORT. What the definitions of Machine/Streams.lean keep (Laws/Keep.lean). -/

namespace Sys2Proof.Machine

open Sys2Proof

/-- What `State.commitBound` keeps. -/
theorem State.commitBound_keep {zz s : State} {h t st b} (kp : Keep zz s) :
    Keep zz (State.commitBound s h t st b) := by
  unfold State.commitBound
  repeat' first
    | with_reducible assumption
    | simp only [keep_mk]
    | with_reducible refine State.modBind_keep ?_
    | with_reducible refine State.commitSlot_keep ?_
    | with_reducible refine keep_ite (fun _ => ?_) (fun _ => ?_)

/-- What `execTileCommit` keeps. -/
theorem execTileCommit_keep {tk s : State} {h t} (ek : execTileCommit h t s = .next tk) : Keep s tk := by
  have kp := Keep.refl s
  refine event_keep ek ?_
  repeat' first
    | with_reducible assumption
    | simp only [keep_mk]
    | with_reducible refine State.modStream_keep ?_
    | with_reducible refine State.refuse_keep ?_
    | with_reducible refine State.commitBytes_keep ?_
    | with_reducible refine State.answer_keep ?_
    | with_reducible refine State.commitBound_keep ?_
    | with_reducible refine keep_ite (fun _ => ?_) (fun _ => ?_)
    | dsimp only
    | split

/-- What `State.nextBurst` keeps. -/
theorem State.nextBurst_keep {zz s : State} {b} (kp : Keep zz s) :
    Keep zz (State.nextBurst s b) := by
  unfold State.nextBurst
  repeat' first
    | with_reducible assumption
    | simp only [keep_mk]
    | with_reducible refine State.modStream_keep ?_
    | with_reducible refine State.modBind_keep ?_
    | with_reducible refine keep_ite (fun _ => ?_) (fun _ => ?_)

/-- What `State.hostBurst` keeps. -/
theorem State.hostBurst_keep {zz s : State} {b first} (kp : Keep zz s) :
    Keep zz (State.hostBurst s b first) := by
  unfold State.hostBurst
  repeat' first
    | with_reducible assumption
    | simp only [keep_mk]
    | with_reducible refine State.nextBurst_keep ?_
    | with_reducible refine State.modBind_keep ?_
    | with_reducible refine State.hostWrite_keep ?_
    | with_reducible refine keep_foldl (fun _ _ _ => ?_) ?_
    | split

/-- What `execBurstDelivery` keeps. -/
theorem execBurstDelivery_keep {tk s : State} {h c} (ek : execBurstDelivery h c s = .next tk) : Keep s tk := by
  have kp := Keep.refl s
  refine event_keep ek ?_
  repeat' first
    | with_reducible assumption
    | simp only [keep_mk]
    | with_reducible refine State.giveBurst_keep ?_
    | with_reducible refine State.nextBurst_keep ?_
    | with_reducible refine State.deliver_keep' (by assumption) ?_
    | with_reducible refine State.modStream_keep ?_
    | with_reducible refine State.hostBurst_keep ?_
    | with_reducible refine State.modBind_keep ?_
    | with_reducible refine keep_ite (fun _ => ?_) (fun _ => ?_)
    | split

/-- What `execPoisonTileCommit` keeps. -/
theorem execPoisonTileCommit_keep {tk s : State} {h} (ek : execPoisonTileCommit h s = .next tk) : Keep s tk := by
  have kp := Keep.refl s
  refine event_keep ek ?_
  repeat' first
    | with_reducible assumption
    | simp only [keep_mk]
    | with_reducible refine State.commitSlot_keep ?_
    | with_reducible refine keep_ite (fun _ => ?_) (fun _ => ?_)
    | split

/-- What `execBindTransferEnd` keeps. -/
theorem execBindTransferEnd_keep {tk s : State} {w} (ek : execBindTransferEnd w s = .next tk) : Keep s tk := by
  have kp := Keep.refl s
  refine event_keep ek ?_
  repeat' first
    | with_reducible assumption
    | simp only [keep_mk]
    | with_reducible refine State.endBind_keep ?_
    | with_reducible refine keep_ite (fun _ => ?_) (fun _ => ?_)
    | split

/-- What `execBasinScrub` keeps. -/
theorem execBasinScrub_keep {tk s : State} {q outcome} (ek : execBasinScrub q outcome s = .next tk) : Keep s tk := by
  have kp := Keep.refl s
  refine event_keep ek ?_
  repeat' first
    | with_reducible assumption
    | simp only [keep_mk]
    | with_reducible refine State.basinEcc_keep ?_
    | with_reducible refine keep_ite (fun _ => ?_) (fun _ => ?_)
    | split

/-- What `execTransactionTagGrant` keeps. -/
theorem execTransactionTagGrant_keep {tk s : State} {w tile line} (ek : execTransactionTagGrant w tile line s = .next tk) : Keep s tk := by
  have kp := Keep.refl s
  refine event_keep ek ?_
  repeat' first
    | with_reducible assumption
    | simp only [keep_mk]
    | with_reducible refine State.tierWrite_keep ?_
    | with_reducible refine State.modBind_keep ?_
    | with_reducible refine State.takeTag_keep (by assumption) ?_
    | with_reducible refine keep_ite (fun _ => ?_) (fun _ => ?_)
    | split

/-- What `State.readDone` keeps. -/
theorem State.readDone_keep {zz s : State} {q outcome} (kp : Keep zz s) :
    Keep zz (State.readDone s q outcome) := by
  unfold State.readDone
  repeat' first
    | with_reducible assumption
    | simp only [keep_mk]
    | with_reducible refine State.lineLanded_keep ?_
    | with_reducible refine State.freeTag_keep ?_
    | with_reducible refine State.tierRead_keep ?_
    | with_reducible refine keep_ite (fun _ => ?_) (fun _ => ?_)
    | split

/-- What `State.writeDone` keeps. -/
theorem State.writeDone_keep {zz s : State} {q} (kp : Keep zz s) :
    Keep zz (State.writeDone s q) := by
  unfold State.writeDone
  repeat' first
    | with_reducible assumption
    | simp only [keep_mk]
    | with_reducible refine State.nextBurst_keep ?_
    | with_reducible refine State.lineLanded_keep ?_
    | with_reducible refine State.freeTag_keep ?_
    | with_reducible refine keep_ite (fun _ => ?_) (fun _ => ?_)
    | split

/-- What `execTierReadResponse` keeps. -/
theorem execTierReadResponse_keep {tk s : State} {tag outcome} (ek : execTierReadResponse tag outcome s = .next tk) : Keep s tk := by
  have kp := Keep.refl s
  refine event_keep ek ?_
  repeat' first
    | with_reducible assumption
    | with_reducible refine State.readDone_keep ?_
    | with_reducible refine keep_ite (fun _ => ?_) (fun _ => ?_)
    | split

/-- What `execTierWriteAck` keeps. -/
theorem execTierWriteAck_keep {tk s : State} {tag} (ek : execTierWriteAck tag s = .next tk) : Keep s tk := by
  have kp := Keep.refl s
  refine event_keep ek ?_
  repeat' first
    | with_reducible assumption
    | with_reducible refine State.writeDone_keep ?_
    | with_reducible refine keep_ite (fun _ => ?_) (fun _ => ?_)
    | split

/-- What `State.tagTimeout` keeps. -/
theorem State.tagTimeout_keep {zz s : State} {q} (kp : Keep zz s) :
    Keep zz (State.tagTimeout s q) := by
  unfold State.tagTimeout
  repeat' first
    | with_reducible assumption
    | simp only [keep_mk]
    | with_reducible refine State.freeTag_keep ?_
    | with_reducible refine State.readDone_keep ?_
    | with_reducible refine State.resetBind_keep ?_
    | with_reducible refine keep_ite (fun _ => ?_) (fun _ => ?_)

/-- What `execTierRequestTimeout` keeps. -/
theorem execTierRequestTimeout_keep {tk s : State} {tag} (ek : execTierRequestTimeout tag s = .next tk) : Keep s tk := by
  have kp := Keep.refl s
  refine event_keep ek ?_
  repeat' first
    | with_reducible assumption
    | simp only [keep_mk]
    | with_reducible refine State.tagTimeout_keep ?_
    | with_reducible refine State.lineLanded_keep ?_
    | with_reducible refine State.freeTag_keep ?_
    | with_reducible refine State.reach_keep ?_
    | with_reducible refine keep_ite (fun _ => ?_) (fun _ => ?_)
    | split

/-- What `State.streamOpen` keeps. -/
theorem State.streamOpen_keep {zz tk s : State} {c bar log} (ek : State.streamOpen s c bar log = .ok tk)
    (kp : Keep zz s) : Keep zz tk := by
  revert ek
  suffices KeepE zz (State.streamOpen s c bar log) from this tk
  unfold State.streamOpen
  repeat' first
    | with_reducible assumption
    | simp only [keep_mk]
    | with_reducible refine keepE_ok ?_
    | with_reducible refine State.ok_keep ?_
    | with_reducible refine State.pick_keep ?_
    | with_reducible refine keepE_bind (fun _ _ => ?_)

/-- What `streamOpenBody` keeps. -/
theorem streamOpenBody_keep {zz tk s : State} {c} (ek : streamOpenBody c s = .ok tk)
    (kp : Keep zz s) : Keep zz tk := by
  revert ek
  suffices KeepE zz (streamOpenBody c s) from this tk
  unfold streamOpenBody
  repeat' first
    | with_reducible assumption
    | refine fun _ e => State.streamOpen_keep e ?_

/-- What `streamOpenExpertBody` keeps. -/
theorem streamOpenExpertBody_keep {zz tk s : State} {c} (ek : streamOpenExpertBody c s = .ok tk)
    (kp : Keep zz s) : Keep zz tk := by
  revert ek
  suffices KeepE zz (streamOpenExpertBody c s) from this tk
  unfold streamOpenExpertBody
  repeat' first
    | with_reducible assumption
    | refine fun _ e => State.streamOpen_keep e ?_

/-- What `State.streamBind` keeps. -/
theorem State.streamBind_keep {zz tk s : State} {c burst0 stride done keep} (ek : State.streamBind s c burst0 stride done keep = .ok tk)
    (kp : Keep zz s) : Keep zz tk := by
  revert ek
  suffices KeepE zz (State.streamBind s c burst0 stride done keep) from this tk
  unfold State.streamBind
  repeat' first
    | with_reducible assumption
    | simp only [keep_mk]
    | with_reducible refine keepE_ok ?_
    | with_reducible refine State.nextBurst_keep ?_
    | with_reducible refine State.modStream_keep ?_
    | with_reducible refine keepE_bind (fun _ _ => ?_)
    | with_reducible refine keep_ite (fun _ => ?_) (fun _ => ?_)

/-- What `streamBindBody` keeps. -/
theorem streamBindBody_keep {zz tk s : State} {c} (ek : streamBindBody c s = .ok tk)
    (kp : Keep zz s) : Keep zz tk := by
  revert ek
  suffices KeepE zz (streamBindBody c s) from this tk
  unfold streamBindBody
  repeat' first
    | with_reducible assumption
    | refine fun _ e => State.streamBind_keep e ?_

/-- What `streamBindExpertBody` keeps. -/
theorem streamBindExpertBody_keep {zz tk s : State} {c} (ek : streamBindExpertBody c s = .ok tk)
    (kp : Keep zz s) : Keep zz tk := by
  revert ek
  suffices KeepE zz (streamBindExpertBody c s) from this tk
  unfold streamBindExpertBody
  repeat' first
    | with_reducible assumption
    | refine fun _ e => State.streamBind_keep e ?_

/-- What `State.streamClose` keeps. -/
theorem State.streamClose_keep {zz tk s : State} {c wait} (ek : State.streamClose s c wait = .ok tk)
    (kp : Keep zz s) : Keep zz tk := by
  revert ek
  suffices KeepE zz (State.streamClose s c wait) from this tk
  unfold State.streamClose
  repeat' first
    | with_reducible assumption
    | simp only [keep_mk]
    | with_reducible refine keepE_ok ?_
    | with_reducible refine State.ok_keep ?_
    | with_reducible refine State.closeStream_keep ?_
    | with_reducible refine State.wait_keep ?_
    | with_reducible refine keepE_bind (fun _ _ => ?_)
    | with_reducible refine keep_ite (fun _ => ?_) (fun _ => ?_)

/-- What `streamCloseBody` keeps. -/
theorem streamCloseBody_keep {zz tk s : State} {c} (ek : streamCloseBody c s = .ok tk)
    (kp : Keep zz s) : Keep zz tk := by
  revert ek
  suffices KeepE zz (streamCloseBody c s) from this tk
  unfold streamCloseBody
  repeat' first
    | with_reducible assumption
    | refine fun _ e => State.streamClose_keep e ?_

/-- What `streamCloseExpertBody` keeps. -/
theorem streamCloseExpertBody_keep {zz tk s : State} {c} (ek : streamCloseExpertBody c s = .ok tk)
    (kp : Keep zz s) : Keep zz tk := by
  revert ek
  suffices KeepE zz (streamCloseExpertBody c s) from this tk
  unfold streamCloseExpertBody
  repeat' first
    | with_reducible assumption
    | refine fun _ e => State.streamClose_keep e ?_

/-- What `State.streamAbort` keeps. -/
theorem State.streamAbort_keep {zz tk s : State} {c} (ek : State.streamAbort s c = .ok tk)
    (kp : Keep zz s) : Keep zz tk := by
  revert ek
  suffices KeepE zz (State.streamAbort s c) from this tk
  unfold State.streamAbort
  repeat' first
    | with_reducible assumption
    | with_reducible refine keepE_ok ?_
    | with_reducible refine State.ok_keep ?_
    | with_reducible refine State.abortStream_keep ?_
    | with_reducible refine keepE_bind (fun _ _ => ?_)

/-- What `streamAbortBody` keeps. -/
theorem streamAbortBody_keep {zz tk s : State} {c} (ek : streamAbortBody c s = .ok tk)
    (kp : Keep zz s) : Keep zz tk := by
  revert ek
  suffices KeepE zz (streamAbortBody c s) from this tk
  unfold streamAbortBody
  repeat' first
    | with_reducible assumption
    | refine fun _ e => State.streamAbort_keep e ?_

/-- What `streamAbortExpertBody` keeps. -/
theorem streamAbortExpertBody_keep {zz tk s : State} {c} (ek : streamAbortExpertBody c s = .ok tk)
    (kp : Keep zz s) : Keep zz tk := by
  revert ek
  suffices KeepE zz (streamAbortExpertBody c s) from this tk
  unfold streamAbortExpertBody
  repeat' first
    | with_reducible assumption
    | with_reducible refine State.reason_keep ?_
    | refine fun _ e => State.streamAbort_keep e ?_

/-- What `streamQueryBody` keeps. -/
theorem streamQueryBody_keep {zz tk s : State} {c} (ek : streamQueryBody c s = .ok tk)
    (kp : Keep zz s) : Keep zz tk := by
  revert ek
  suffices KeepE zz (streamQueryBody c s) from this tk
  unfold streamQueryBody
  repeat' first
    | with_reducible assumption
    | with_reducible refine keepE_ok ?_
    | with_reducible refine State.writeBuf_keep (by assumption) ?_
    | with_reducible refine State.ok_keep ?_
    | with_reducible refine keepE_bind (fun _ _ => ?_)

/-- What `streamQueryExpertBody` keeps. -/
theorem streamQueryExpertBody_keep {zz tk s : State} {c} (ek : streamQueryExpertBody c s = .ok tk)
    (kp : Keep zz s) : Keep zz tk := by
  revert ek
  suffices KeepE zz (streamQueryExpertBody c s) from this tk
  unfold streamQueryExpertBody
  repeat' first
    | with_reducible assumption
    | simp only [keep_mk]
    | with_reducible refine keepE_ok ?_
    | with_reducible refine State.writeBuf_keep (by assumption) ?_
    | with_reducible refine State.ok_keep ?_
    | with_reducible refine keepE_bind (fun _ _ => ?_)

/-- What `streamFreeBody` keeps. -/
theorem streamFreeBody_keep {zz tk s : State} {c} (ek : streamFreeBody c s = .ok tk)
    (kp : Keep zz s) : Keep zz tk := by
  revert ek
  suffices KeepE zz (streamFreeBody c s) from this tk
  unfold streamFreeBody
  repeat' first
    | with_reducible assumption
    | with_reducible refine keepE_ok ?_
    | with_reducible refine State.freeStream_keep ?_
    | with_reducible refine State.ok_keep ?_
    | with_reducible refine keepE_bind (fun _ _ => ?_)

/-- What `streamFreeExpertBody` keeps. -/
theorem streamFreeExpertBody_keep {zz tk s : State} {c} (ek : streamFreeExpertBody c s = .ok tk)
    (kp : Keep zz s) : Keep zz tk := by
  revert ek
  suffices KeepE zz (streamFreeExpertBody c s) from this tk
  unfold streamFreeExpertBody
  repeat' first
    | with_reducible assumption
    | with_reducible refine keepE_ok ?_
    | with_reducible refine State.freeStream_keep ?_
    | with_reducible refine State.ok_keep ?_
    | with_reducible refine keepE_bind (fun _ _ => ?_)

/-- What `streamRearmBody` keeps. -/
theorem streamRearmBody_keep {zz tk s : State} {c} (ek : streamRearmBody c s = .ok tk)
    (kp : Keep zz s) : Keep zz tk := by
  revert ek
  suffices KeepE zz (streamRearmBody c s) from this tk
  unfold streamRearmBody
  repeat' first
    | with_reducible assumption
    | with_reducible refine keepE_ok ?_
    | with_reducible refine State.ok_keep ?_
    | with_reducible refine State.setStream_keep ?_
    | with_reducible refine keepE_bind (fun _ _ => ?_)

/-- What `streamRearmExpertBody` keeps. -/
theorem streamRearmExpertBody_keep {zz tk s : State} {c} (ek : streamRearmExpertBody c s = .ok tk)
    (kp : Keep zz s) : Keep zz tk := by
  revert ek
  suffices KeepE zz (streamRearmExpertBody c s) from this tk
  unfold streamRearmExpertBody
  repeat' first
    | with_reducible assumption
    | simp only [keep_mk]
    | with_reducible refine keepE_ok ?_
    | with_reducible refine State.ok_keep ?_
    | with_reducible refine State.setStream_keep ?_
    | with_reducible refine keepE_bind (fun _ _ => ?_)

/-- What `State.barrierCreate` keeps. -/
theorem State.barrierCreate_keep {zz tk s : State} {c drains auto} (ek : State.barrierCreate s c drains auto = .ok tk)
    (kp : Keep zz s) : Keep zz tk := by
  revert ek
  suffices KeepE zz (State.barrierCreate s c drains auto) from this tk
  unfold State.barrierCreate
  repeat' first
    | with_reducible assumption
    | simp only [keep_mk]
    | with_reducible refine keepE_ok ?_
    | with_reducible refine State.ok_keep ?_
    | with_reducible refine State.pick_keep ?_
    | with_reducible refine keepE_bind (fun _ _ => ?_)

/-- What `barrierCreateBody` keeps. -/
theorem barrierCreateBody_keep {zz tk s : State} {c} (ek : barrierCreateBody c s = .ok tk)
    (kp : Keep zz s) : Keep zz tk := by
  revert ek
  suffices KeepE zz (barrierCreateBody c s) from this tk
  unfold barrierCreateBody
  repeat' first
    | with_reducible assumption
    | refine fun _ e => State.barrierCreate_keep e ?_

/-- What `barrierCreateExpertBody` keeps. -/
theorem barrierCreateExpertBody_keep {zz tk s : State} {c} (ek : barrierCreateExpertBody c s = .ok tk)
    (kp : Keep zz s) : Keep zz tk := by
  revert ek
  suffices KeepE zz (barrierCreateExpertBody c s) from this tk
  unfold barrierCreateExpertBody
  repeat' first
    | with_reducible assumption
    | refine fun _ e => State.barrierCreate_keep e ?_

/-- What `barrierArriveBody` keeps. -/
theorem barrierArriveBody_keep {zz tk s : State} {c} (ek : barrierArriveBody c s = .ok tk)
    (kp : Keep zz s) : Keep zz tk := by
  revert ek
  suffices KeepE zz (barrierArriveBody c s) from this tk
  unfold barrierArriveBody
  repeat' first
    | with_reducible assumption
    | with_reducible refine keepE_ok ?_
    | with_reducible refine State.arrive_keep ?_
    | with_reducible refine State.ok_keep ?_
    | with_reducible refine keepE_bind (fun _ _ => ?_)

/-- What `barrierArriveExpertBody` keeps. -/
theorem barrierArriveExpertBody_keep {zz tk s : State} {c} (ek : barrierArriveExpertBody c s = .ok tk)
    (kp : Keep zz s) : Keep zz tk := by
  revert ek
  suffices KeepE zz (barrierArriveExpertBody c s) from this tk
  unfold barrierArriveExpertBody
  repeat' first
    | with_reducible assumption
    | simp only [keep_mk]
    | with_reducible refine keepE_ok ?_
    | with_reducible refine State.ok_keep ?_
    | with_reducible refine State.arrive_keep ?_
    | with_reducible refine keepE_ite (fun _ => ?_) (fun _ => ?_)
    | with_reducible refine keepE_bind (fun _ _ => ?_)

/-- What `barrierDestroyBody` keeps. -/
theorem barrierDestroyBody_keep {zz tk s : State} {c} (ek : barrierDestroyBody c s = .ok tk)
    (kp : Keep zz s) : Keep zz tk := by
  revert ek
  suffices KeepE zz (barrierDestroyBody c s) from this tk
  unfold barrierDestroyBody
  repeat' first
    | with_reducible assumption
    | with_reducible refine keepE_ok ?_
    | with_reducible refine State.destroyBarrier_keep ?_
    | with_reducible refine State.ok_keep ?_
    | with_reducible refine keepE_bind (fun _ _ => ?_)

/-- What `barrierDestroyExpertBody` keeps. -/
theorem barrierDestroyExpertBody_keep {zz tk s : State} {c} (ek : barrierDestroyExpertBody c s = .ok tk)
    (kp : Keep zz s) : Keep zz tk := by
  revert ek
  suffices KeepE zz (barrierDestroyExpertBody c s) from this tk
  unfold barrierDestroyExpertBody
  repeat' first
    | with_reducible assumption
    | with_reducible refine keepE_ok ?_
    | with_reducible refine State.destroyBarrier_keep ?_
    | with_reducible refine State.ok_keep ?_
    | with_reducible refine keepE_bind (fun _ _ => ?_)

/-- What `basinQueryBody` keeps. -/
theorem basinQueryBody_keep {zz tk s : State} {c} (ek : basinQueryBody c s = .ok tk)
    (kp : Keep zz s) : Keep zz tk := by
  revert ek
  suffices KeepE zz (basinQueryBody c s) from this tk
  unfold basinQueryBody
  repeat' first
    | with_reducible assumption
    | with_reducible refine keepE_ok ?_
    | with_reducible refine State.writeBuf_keep (by assumption) ?_
    | with_reducible refine State.ok_keep ?_
    | with_reducible refine keepE_bind (fun _ _ => ?_)

/-- What `basinQueryExpertBody` keeps. -/
theorem basinQueryExpertBody_keep {zz tk s : State} {c} (ek : basinQueryExpertBody c s = .ok tk)
    (kp : Keep zz s) : Keep zz tk := by
  revert ek
  suffices KeepE zz (basinQueryExpertBody c s) from this tk
  unfold basinQueryExpertBody
  repeat' first
    | with_reducible assumption
    | simp only [keep_mk]
    | with_reducible refine keepE_ok ?_
    | with_reducible refine State.writeBuf_keep (by assumption) ?_
    | with_reducible refine State.ok_keep ?_
    | with_reducible refine keepE_bind (fun _ _ => ?_)

end Sys2Proof.Machine
end

