-- ==== Sys2Proof/Laws/KeepMemory.lean ====
section
/-! SUPPORT. What the definitions of Machine/Memory.lean keep (Laws/Keep.lean). -/

namespace Sys2Proof.Machine

open Sys2Proof

/-- What `State.memAlloc` keeps. -/
theorem State.memAlloc_keep {zz tk s : State} {c owner} (ek : State.memAlloc s c owner = .ok tk)
    (kp : Keep zz s) : Keep zz tk := by
  revert ek
  suffices KeepE zz (State.memAlloc s c owner) from this tk
  unfold State.memAlloc
  repeat' first
    | with_reducible assumption
    | simp only [keep_mk]
    | with_reducible refine keepE_ok ?_
    | with_reducible refine State.allocate_keep (by assumption) ?_
    | with_reducible refine State.ok_keep ?_
    | with_reducible refine keepE_ite (fun _ => ?_) (fun _ => ?_)
    | with_reducible refine keepE_bind (fun _ _ => ?_)

/-- What `memAllocBody` keeps. -/
theorem memAllocBody_keep {zz tk s : State} {c} (ek : memAllocBody c s = .ok tk)
    (kp : Keep zz s) : Keep zz tk := by
  revert ek
  suffices KeepE zz (memAllocBody c s) from this tk
  unfold memAllocBody
  repeat' first
    | with_reducible assumption
    | refine fun _ e => State.memAlloc_keep e ?_

/-- What `memAllocExpertBody` keeps. -/
theorem memAllocExpertBody_keep {zz tk s : State} {c} (ek : memAllocExpertBody c s = .ok tk)
    (kp : Keep zz s) : Keep zz tk := by
  revert ek
  suffices KeepE zz (memAllocExpertBody c s) from this tk
  unfold memAllocExpertBody
  repeat' first
    | with_reducible assumption
    | simp only [keep_mk]
    | refine fun _ e => State.memAlloc_keep e ?_
    | with_reducible refine keepE_ite (fun _ => ?_) (fun _ => ?_)
    | with_reducible refine keepE_bind (fun _ _ => ?_)

/-- What `State.memFree` keeps. -/
theorem State.memFree_keep {zz tk s : State} {c wait} (ek : State.memFree s c wait = .ok tk)
    (kp : Keep zz s) : Keep zz tk := by
  revert ek
  suffices KeepE zz (State.memFree s c wait) from this tk
  unfold State.memFree
  repeat' first
    | with_reducible assumption
    | simp only [keep_mk]
    | with_reducible refine keepE_ok ?_
    | exact keepE_error
    | with_reducible refine State.ok_keep ?_
    | with_reducible refine State.release_keep ?_
    | with_reducible refine State.wait_keep ?_
    | with_reducible refine keepE_ite (fun _ => ?_) (fun _ => ?_)
    | with_reducible refine keepE_bind (fun _ _ => ?_)

/-- What `memFreeBody` keeps. -/
theorem memFreeBody_keep {zz tk s : State} {c} (ek : memFreeBody c s = .ok tk)
    (kp : Keep zz s) : Keep zz tk := by
  revert ek
  suffices KeepE zz (memFreeBody c s) from this tk
  unfold memFreeBody
  repeat' first
    | with_reducible assumption
    | refine fun _ e => State.memFree_keep e ?_

/-- What `memFreeExpertBody` keeps. -/
theorem memFreeExpertBody_keep {zz tk s : State} {c} (ek : memFreeExpertBody c s = .ok tk)
    (kp : Keep zz s) : Keep zz tk := by
  revert ek
  suffices KeepE zz (memFreeExpertBody c s) from this tk
  unfold memFreeExpertBody
  repeat' first
    | with_reducible assumption
    | refine fun _ e => State.memFree_keep e ?_

/-- What `State.memFill` keeps. -/
theorem State.memFill_keep {zz tk s : State} {c pat} (ek : State.memFill s c pat = .ok tk)
    (kp : Keep zz s) : Keep zz tk := by
  revert ek
  suffices KeepE zz (State.memFill s c pat) from this tk
  unfold State.memFill
  repeat' first
    | with_reducible assumption
    | simp only [keep_mk]
    | with_reducible refine keepE_ok ?_
    | exact keepE_error
    | with_reducible refine keepE_bind (fun _ _ => ?_)
    | split

/-- What `memFillBody` keeps. -/
theorem memFillBody_keep {zz tk s : State} {c} (ek : memFillBody c s = .ok tk)
    (kp : Keep zz s) : Keep zz tk := by
  revert ek
  suffices KeepE zz (memFillBody c s) from this tk
  unfold memFillBody
  repeat' first
    | with_reducible assumption
    | refine fun _ e => State.memFill_keep e ?_

/-- What `memFillExpertBody` keeps. -/
theorem memFillExpertBody_keep {zz tk s : State} {c} (ek : memFillExpertBody c s = .ok tk)
    (kp : Keep zz s) : Keep zz tk := by
  revert ek
  suffices KeepE zz (memFillExpertBody c s) from this tk
  unfold memFillExpertBody
  repeat' first
    | with_reducible assumption
    | refine fun _ e => State.memFill_keep e ?_

/-- What `execZeroingComplete` keeps. -/
theorem execZeroingComplete_keep {tk s : State} {w} (ek : execZeroingComplete w s = .next tk) : Keep s tk := by
  have kp := Keep.refl s
  refine event_keep ek ?_
  repeat' first
    | with_reducible assumption
    | simp only [keep_mk]
    | with_reducible refine State.store_keep ?_
    | with_reducible refine State.complete_keep ?_
    | with_reducible refine keep_ite (fun _ => ?_) (fun _ => ?_)
    | with_reducible refine keep_foldl (fun _ _ _ => ?_) ?_
    | split

/-- What `memQueryBody` keeps. -/
theorem memQueryBody_keep {zz tk s : State} {c} (ek : memQueryBody c s = .ok tk)
    (kp : Keep zz s) : Keep zz tk := by
  revert ek
  suffices KeepE zz (memQueryBody c s) from this tk
  unfold memQueryBody
  repeat' first
    | with_reducible assumption
    | with_reducible refine keepE_ok ?_
    | with_reducible refine State.writeBuf_keep (by assumption) ?_
    | with_reducible refine State.ok_keep ?_
    | with_reducible refine keepE_bind (fun _ _ => ?_)

/-- What `memQueryExpertBody` keeps. -/
theorem memQueryExpertBody_keep {zz tk s : State} {c} (ek : memQueryExpertBody c s = .ok tk)
    (kp : Keep zz s) : Keep zz tk := by
  revert ek
  suffices KeepE zz (memQueryExpertBody c s) from this tk
  unfold memQueryExpertBody
  repeat' first
    | with_reducible assumption
    | simp only [keep_mk]
    | with_reducible refine keepE_ok ?_
    | with_reducible refine State.writeBuf_keep (by assumption) ?_
    | with_reducible refine State.ok_keep ?_
    | with_reducible refine keepE_bind (fun _ _ => ?_)

/-- What `State.startMapout` keeps. -/
theorem State.startMapout_keep {zz s : State} {c by0 noMigrate} (kp : Keep zz s) :
    Keep zz (State.startMapout s c by0 noMigrate) := by
  unfold State.startMapout
  repeat' first
    | with_reducible assumption
    | simp only [keep_mk]
    | with_reducible refine State.modChan_keep ?_
    | with_reducible refine State.checkDegraded_keep ?_
    | with_reducible refine State.logEv_keep ?_
    | with_reducible refine State.complete_keep ?_
    | split

/-- What `State.memMapout` keeps. -/
theorem State.memMapout_keep {zz tk s : State} {c noMigrate} (ek : State.memMapout s c noMigrate = .ok tk)
    (kp : Keep zz s) : Keep zz tk := by
  revert ek
  suffices KeepE zz (State.memMapout s c noMigrate) from this tk
  unfold State.memMapout
  repeat' first
    | with_reducible assumption
    | simp only [keep_mk]
    | with_reducible refine keepE_ok ?_
    | with_reducible refine keepE_pure ?_
    | with_reducible refine State.startMapout_keep ?_
    | with_reducible refine keepE_ite (fun _ => ?_) (fun _ => ?_)
    | with_reducible refine keepE_bind (fun _ _ => ?_)

/-- What `memMapoutBody` keeps. -/
theorem memMapoutBody_keep {zz tk s : State} {c} (ek : memMapoutBody c s = .ok tk)
    (kp : Keep zz s) : Keep zz tk := by
  revert ek
  suffices KeepE zz (memMapoutBody c s) from this tk
  unfold memMapoutBody
  repeat' first
    | with_reducible assumption
    | refine fun _ e => State.memMapout_keep e ?_

/-- What `memMapoutExpertBody` keeps. -/
theorem memMapoutExpertBody_keep {zz tk s : State} {c} (ek : memMapoutExpertBody c s = .ok tk)
    (kp : Keep zz s) : Keep zz tk := by
  revert ek
  suffices KeepE zz (memMapoutExpertBody c s) from this tk
  unfold memMapoutExpertBody
  repeat' first
    | with_reducible assumption
    | refine fun _ e => State.memMapout_keep e ?_

/-- What `State.finishMapout` keeps. -/
theorem State.finishMapout_keep {zz s : State} {c} (kp : Keep zz s) :
    Keep zz (State.finishMapout s c) := by
  unfold State.finishMapout
  repeat' first
    | with_reducible assumption
    | simp only [keep_mk]
    | with_reducible refine State.modChan_keep ?_
    | with_reducible refine State.logEv_keep ?_
    | with_reducible refine State.complete_keep ?_

/-- What `execMapoutFrameSwitch` keeps. -/
theorem execMapoutFrameSwitch_keep {tk s : State} {c bad lines} (ek : execMapoutFrameSwitch c bad lines s = .next tk) : Keep s tk := by
  have kp := Keep.refl s
  refine event_keep ek ?_
  repeat' first
    | with_reducible assumption
    | simp only [keep_mk]
    | with_reducible refine State.modChan_keep ?_
    | with_reducible refine State.poisonLine_keep ?_
    | with_reducible refine State.finishMapout_keep ?_
    | with_reducible refine keep_ite (fun _ => ?_) (fun _ => ?_)
    | with_reducible refine keep_foldl (fun _ _ _ => ?_) ?_

/-- What `execMapoutPoisonComplete` keeps. -/
theorem execMapoutPoisonComplete_keep {tk s : State} {c} (ek : execMapoutPoisonComplete c s = .next tk) : Keep s tk := by
  have kp := Keep.refl s
  refine event_keep ek ?_
  repeat' first
    | with_reducible assumption
    | simp only [keep_mk]
    | with_reducible refine State.modChan_keep ?_
    | with_reducible refine State.poisonLine_keep ?_
    | with_reducible refine State.finishMapout_keep ?_
    | with_reducible refine keep_ite (fun _ => ?_) (fun _ => ?_)
    | with_reducible refine keep_foldl (fun _ _ _ => ?_) ?_

/-- What `execChannelMapoutDecision` keeps. -/
theorem execChannelMapoutDecision_keep {tk s : State} {c} (ek : execChannelMapoutDecision c s = .next tk) : Keep s tk := by
  have kp := Keep.refl s
  refine event_keep ek ?_
  repeat' first
    | with_reducible assumption
    | simp only [keep_mk]
    | with_reducible refine State.startMapout_keep ?_
    | with_reducible refine keep_ite (fun _ => ?_) (fun _ => ?_)

/-- What `execMapoutRetry` keeps. -/
theorem execMapoutRetry_keep {tk s : State} {c} (ek : execMapoutRetry c s = .next tk) : Keep s tk := by
  have kp := Keep.refl s
  refine event_keep ek ?_
  repeat' first
    | with_reducible assumption
    | simp only [keep_mk]
    | with_reducible refine State.startMapout_keep ?_
    | with_reducible refine keep_ite (fun _ => ?_) (fun _ => ?_)

/-- What `execHbmRefresh` keeps. -/
theorem execHbmRefresh_keep {tk s : State} {c} (ek : execHbmRefresh c s = .next tk) : Keep s tk := by
  have kp := Keep.refl s
  refine event_keep ek ?_
  repeat' first
    | with_reducible assumption
    | with_reducible refine State.modChan_keep ?_
    | with_reducible refine keep_ite (fun _ => ?_) (fun _ => ?_)

/-- What `State.calibrated` keeps. -/
theorem State.calibrated_keep {zz s : State} {c ok forced} (kp : Keep zz s) :
    Keep zz (State.calibrated s c ok forced) := by
  unfold State.calibrated
  repeat' first
    | with_reducible assumption
    | simp only [keep_mk]
    | with_reducible refine State.modChan_keep ?_

/-- What `execCalibrationDue` keeps. -/
theorem execCalibrationDue_keep {tk s : State} {c idle ok} (ek : execCalibrationDue c idle ok s = .next tk) : Keep s tk := by
  have kp := Keep.refl s
  refine event_keep ek ?_
  repeat' first
    | with_reducible assumption
    | simp only [keep_mk]
    | with_reducible refine State.modChan_keep ?_
    | with_reducible refine State.reach_keep ?_
    | with_reducible refine State.calibrated_keep ?_
    | with_reducible refine keep_ite (fun _ => ?_) (fun _ => ?_)
    | split

/-- What `execForcedCalibration` keeps. -/
theorem execForcedCalibration_keep {tk s : State} {c ok} (ek : execForcedCalibration c ok s = .next tk) : Keep s tk := by
  have kp := Keep.refl s
  refine event_keep ek ?_
  repeat' first
    | with_reducible assumption
    | with_reducible refine State.calibrated_keep ?_
    | with_reducible refine State.reach_keep ?_
    | split

/-- What `execPatrolScrub` keeps. -/
theorem execPatrolScrub_keep {tk s : State} {c outcome line} (ek : execPatrolScrub c outcome line s = .next tk) : Keep s tk := by
  have kp := Keep.refl s
  refine event_keep ek ?_
  repeat' first
    | with_reducible assumption
    | simp only [keep_mk]
    | with_reducible refine State.modChan_keep ?_
    | with_reducible refine State.sectorRead_keep ?_
    | with_reducible refine keep_ite (fun _ => ?_) (fun _ => ?_)

/-- What `execScrubAge` keeps. -/
theorem execScrubAge_keep {tk s : State} {c} (ek : execScrubAge c s = .next tk) : Keep s tk := by
  have kp := Keep.refl s
  refine event_keep ek ?_
  repeat' first
    | with_reducible assumption
    | simp only [keep_mk]
    | with_reducible refine State.modChan_keep ?_
    | with_reducible refine State.reach_keep ?_
    | with_reducible refine State.logEv_keep ?_
    | with_reducible refine keep_ite (fun _ => ?_) (fun _ => ?_)

/-- What `execCorrectedWriteback` keeps. -/
theorem execCorrectedWriteback_keep {tk s : State} {c} (ek : execCorrectedWriteback c s = .next tk) : Keep s tk := by
  have kp := Keep.refl s
  refine event_keep ek ?_
  repeat' first
    | with_reducible assumption
    | with_reducible refine State.modChan_keep ?_

/-- What `State.retireBlock` keeps. -/
theorem State.retireBlock_keep {zz s : State} {k b} (kp : Keep zz s) :
    Keep zz (State.retireBlock s k b) := by
  unfold State.retireBlock
  repeat' first
    | with_reducible assumption
    | simp only [keep_mk]
    | with_reducible refine State.logWith_keep ?_
    | with_reducible refine State.modNvw_keep ?_
    | with_reducible refine keep_ite (fun _ => ?_) (fun _ => ?_)

/-- What `State.swapBlock` keeps. -/
theorem State.swapBlock_keep {zz s : State} {k b} (kp : Keep zz s) :
    Keep zz (State.swapBlock s k b) := by
  unfold State.swapBlock
  repeat' first
    | with_reducible assumption
    | simp only [keep_mk]
    | split

/-- What `State.replaceBlocks` keeps. -/
theorem State.replaceBlocks_keep {zz s : State} {ps} (kp : Keep zz s) :
    Keep zz (State.replaceBlocks s ps) := by
  unfold State.replaceBlocks
  repeat' first
    | with_reducible assumption
    | with_reducible refine State.swapBlock_keep ?_
    | with_reducible refine State.retireBlock_keep ?_
    | with_reducible refine keep_foldl (fun _ _ _ => ?_) ?_

/-- What `State.eraseBlocks` keeps. -/
theorem State.eraseBlocks_keep {zz s : State} {l fails} (kp : Keep zz s) :
    Keep zz (State.eraseBlocks s l fails) := by
  unfold State.eraseBlocks
  repeat' first
    | with_reducible assumption
    | simp only [keep_mk]
    | with_reducible refine State.swapBlock_keep ?_
    | with_reducible refine State.cycleBlocks_keep ?_
    | with_reducible refine State.replaceBlocks_keep ?_
    | with_reducible refine keep_foldl (fun _ _ _ => ?_) ?_

/-- What `State.modAlloc` keeps. -/
theorem State.modAlloc_keep {zz s : State} {a f} (kp : Keep zz s) :
    Keep zz (State.modAlloc s a f) := by
  unfold State.modAlloc
  repeat' first
    | with_reducible assumption
    | simp only [keep_mk]

/-- What `State.eraseTorn` keeps. -/
theorem State.eraseTorn_keep {zz s : State} {a l} (kp : Keep zz s) :
    Keep zz (State.eraseTorn s a l) := by
  unfold State.eraseTorn
  repeat' first
    | with_reducible assumption
    | simp only [keep_mk]
    | with_reducible refine State.zeroKeys_keep ?_
    | with_reducible refine State.cycleBlocks_keep ?_
    | with_reducible refine State.cycleBlocks_keep' (by assumption) ?_
    | with_reducible refine State.swapBlock_keep ?_
    | with_reducible refine State.modAlloc_keep ?_
    | with_reducible refine keep_ite (fun _ => ?_) (fun _ => ?_)
    | with_reducible refine keep_foldl (fun _ _ _ => ?_) ?_

/-- What `State.nvwProgram` keeps. -/
theorem State.nvwProgram_keep {zz tk s : State} {c stream verify} (ek : State.nvwProgram s c stream verify = .ok tk)
    (kp : Keep zz s) : Keep zz tk := by
  revert ek
  suffices KeepE zz (State.nvwProgram s c stream verify) from this tk
  unfold State.nvwProgram
  repeat' first
    | with_reducible assumption
    | simp only [keep_mk]
    | with_reducible refine keepE_ok ?_
    | exact keepE_error
    | exact keepE_fail
    | with_reducible refine State.eraseTorn_keep ?_
    | with_reducible refine State.modAlloc_keep ?_
    | with_reducible refine State.ok_keep ?_
    | with_reducible refine State.setStream_keep ?_
    | with_reducible refine keepE_bind (fun _ _ => ?_)
    | with_reducible refine keepE_ite (fun _ => ?_) (fun _ => ?_)

/-- What `nvwProgramBody` keeps. -/
theorem nvwProgramBody_keep {zz tk s : State} {c} (ek : nvwProgramBody c s = .ok tk)
    (kp : Keep zz s) : Keep zz tk := by
  revert ek
  suffices KeepE zz (nvwProgramBody c s) from this tk
  unfold nvwProgramBody
  repeat' first
    | with_reducible assumption
    | refine fun _ e => State.nvwProgram_keep e ?_

/-- What `nvwProgramExpertBody` keeps. -/
theorem nvwProgramExpertBody_keep {zz tk s : State} {c} (ek : nvwProgramExpertBody c s = .ok tk)
    (kp : Keep zz s) : Keep zz tk := by
  revert ek
  suffices KeepE zz (nvwProgramExpertBody c s) from this tk
  unfold nvwProgramExpertBody
  repeat' first
    | with_reducible assumption
    | refine fun _ e => State.nvwProgram_keep e ?_

/-- What `State.progTile` keeps. -/
theorem State.progTile_keep {zz s : State} {p n} (kp : Keep zz s) :
    Keep zz (State.progTile s p n).1 := by
  unfold State.progTile
  repeat' first
    | with_reducible assumption
    | simp only [keep_mk]
    | with_reducible refine State.deliver_keep' (by assumption) ?_
    | with_reducible refine State.modStream_keep ?_
    | split

/-- What the answer of `State.progTile` keeps. -/
theorem State.progTile_keep' {zz tk s : State} {p n} {xk} (ek : State.progTile s p n = (tk, xk))
    (kp : Keep zz s) : Keep zz tk := by
  have := State.progTile_keep (kp) (p := p) (n := n)
  rwa [ek] at this

/-- What `execNvwTileProgrammed` keeps. -/
theorem execNvwTileProgrammed_keep {tk s : State} {w ok} (ek : execNvwTileProgrammed w ok s = .next tk) : Keep s tk := by
  have kp := Keep.refl s
  refine event_keep ek ?_
  repeat' first
    | with_reducible assumption
    | simp only [keep_mk]
    | with_reducible refine State.progTile_keep ?_
    | with_reducible refine State.progTile_keep' (by assumption) ?_
    | with_reducible refine State.endProg_keep ?_
    | with_reducible refine State.ok_keep ?_
    | with_reducible refine State.replaceBlocks_keep ?_
    | with_reducible refine State.landIn_keep ?_
    | with_reducible refine State.landIn_keep' (by assumption) ?_
    | with_reducible refine State.store_keep ?_
    | with_reducible refine State.modAlloc_keep ?_
    | with_reducible refine keep_ite (fun _ => ?_) (fun _ => ?_)
    | dsimp only
    | split

/-- What `State.nvwSeal` keeps. -/
theorem State.nvwSeal_keep {zz tk s : State} {c expect} (ek : State.nvwSeal s c expect = .ok tk)
    (kp : Keep zz s) : Keep zz tk := by
  revert ek
  suffices KeepE zz (State.nvwSeal s c expect) from this tk
  unfold State.nvwSeal
  repeat' first
    | with_reducible assumption
    | simp only [keep_mk]
    | with_reducible refine keepE_ok ?_
    | with_reducible refine State.wait_keep ?_
    | with_reducible refine keepE_bind (fun _ _ => ?_)

/-- What `nvwSealBody` keeps. -/
theorem nvwSealBody_keep {zz tk s : State} {c} (ek : nvwSealBody c s = .ok tk)
    (kp : Keep zz s) : Keep zz tk := by
  revert ek
  suffices KeepE zz (nvwSealBody c s) from this tk
  unfold nvwSealBody
  repeat' first
    | with_reducible assumption
    | refine fun _ e => State.nvwSeal_keep e ?_

/-- What `nvwSealExpertBody` keeps. -/
theorem nvwSealExpertBody_keep {zz tk s : State} {c} (ek : nvwSealExpertBody c s = .ok tk)
    (kp : Keep zz s) : Keep zz tk := by
  revert ek
  suffices KeepE zz (nvwSealExpertBody c s) from this tk
  unfold nvwSealExpertBody
  repeat' first
    | with_reducible assumption
    | simp only [keep_mk]
    | refine fun _ e => State.nvwSeal_keep e ?_
    | with_reducible refine keepE_bind (fun _ _ => ?_)

/-- What `State.lateWrite` keeps. -/
theorem State.lateWrite_keep {zz s : State} {fn a bs} (kp : Keep zz s) :
    Keep zz (State.lateWrite s fn a bs) := by
  unfold State.lateWrite
  repeat' first
    | with_reducible assumption
    | with_reducible refine State.hostWrite_keep ?_
    | with_reducible refine State.store_keep ?_
    | with_reducible refine keep_ite (fun _ => ?_) (fun _ => ?_)
    | split

/-- What `execNvwSealDigestComplete` keeps. -/
theorem execNvwSealDigestComplete_keep {tk s : State} {w} (ek : execNvwSealDigestComplete w s = .next tk) : Keep s tk := by
  have kp := Keep.refl s
  refine event_keep ek ?_
  repeat' first
    | with_reducible assumption
    | simp only [keep_mk]
    | with_reducible refine State.modAlloc_keep ?_
    | with_reducible refine State.lateWrite_keep ?_
    | with_reducible refine State.complete_keep ?_
    | with_reducible refine keep_ite (fun _ => ?_) (fun _ => ?_)
    | split

/-- What `State.nvwErase` keeps. -/
theorem State.nvwErase_keep {zz tk s : State} {c release} (ek : State.nvwErase s c release = .ok tk)
    (kp : Keep zz s) : Keep zz tk := by
  revert ek
  suffices KeepE zz (State.nvwErase s c release) from this tk
  unfold State.nvwErase
  repeat' first
    | with_reducible assumption
    | simp only [keep_mk]
    | with_reducible refine keepE_ok ?_
    | with_reducible refine State.wait_keep ?_
    | with_reducible refine keepE_bind (fun _ _ => ?_)

/-- What `nvwEraseBody` keeps. -/
theorem nvwEraseBody_keep {zz tk s : State} {c} (ek : nvwEraseBody c s = .ok tk)
    (kp : Keep zz s) : Keep zz tk := by
  revert ek
  suffices KeepE zz (nvwEraseBody c s) from this tk
  unfold nvwEraseBody
  repeat' first
    | with_reducible assumption
    | refine fun _ e => State.nvwErase_keep e ?_

/-- What `nvwEraseExpertBody` keeps. -/
theorem nvwEraseExpertBody_keep {zz tk s : State} {c} (ek : nvwEraseExpertBody c s = .ok tk)
    (kp : Keep zz s) : Keep zz tk := by
  revert ek
  suffices KeepE zz (nvwEraseExpertBody c s) from this tk
  unfold nvwEraseExpertBody
  repeat' first
    | with_reducible assumption
    | refine fun _ e => State.nvwErase_keep e ?_

/-- What `execNvwEraseComplete` keeps. -/
theorem execNvwEraseComplete_keep {tk s : State} {w fails} (ek : execNvwEraseComplete w fails s = .next tk) : Keep s tk := by
  have kp := Keep.refl s
  refine event_keep ek ?_
  repeat' first
    | with_reducible assumption
    | simp only [keep_mk]
    | with_reducible refine State.release_keep ?_
    | with_reducible refine State.eraseBlocks_keep ?_
    | with_reducible refine State.modAlloc_keep ?_
    | with_reducible refine State.wipe_keep ?_
    | with_reducible refine State.complete_keep ?_
    | with_reducible refine keep_ite (fun _ => ?_) (fun _ => ?_)
    | split

/-- What `State.nvwGrant` keeps. -/
theorem State.nvwGrant_keep {zz tk s : State} {c revoke} (ek : State.nvwGrant s c revoke = .ok tk)
    (kp : Keep zz s) : Keep zz tk := by
  revert ek
  suffices KeepE zz (State.nvwGrant s c revoke) from this tk
  unfold State.nvwGrant
  repeat' first
    | with_reducible assumption
    | simp only [keep_mk]
    | with_reducible refine keepE_ok ?_
    | with_reducible refine State.modAlloc_keep ?_
    | with_reducible refine State.ok_keep ?_
    | with_reducible refine keepE_bind (fun _ _ => ?_)

/-- What `nvwGrantBody` keeps. -/
theorem nvwGrantBody_keep {zz tk s : State} {c} (ek : nvwGrantBody c s = .ok tk)
    (kp : Keep zz s) : Keep zz tk := by
  revert ek
  suffices KeepE zz (nvwGrantBody c s) from this tk
  unfold nvwGrantBody
  repeat' first
    | with_reducible assumption
    | refine fun _ e => State.nvwGrant_keep e ?_

/-- What `nvwGrantExpertBody` keeps. -/
theorem nvwGrantExpertBody_keep {zz tk s : State} {c} (ek : nvwGrantExpertBody c s = .ok tk)
    (kp : Keep zz s) : Keep zz tk := by
  revert ek
  suffices KeepE zz (nvwGrantExpertBody c s) from this tk
  unfold nvwGrantExpertBody
  repeat' first
    | with_reducible assumption
    | refine fun _ e => State.nvwGrant_keep e ?_

/-- What `nvwQueryBody` keeps. -/
theorem nvwQueryBody_keep {zz tk s : State} {c} (ek : nvwQueryBody c s = .ok tk)
    (kp : Keep zz s) : Keep zz tk := by
  revert ek
  suffices KeepE zz (nvwQueryBody c s) from this tk
  unfold nvwQueryBody
  repeat' first
    | with_reducible assumption
    | with_reducible refine keepE_ok ?_
    | exact keepE_error
    | with_reducible refine State.writeBuf_keep (by assumption) ?_
    | with_reducible refine State.ok_keep ?_
    | with_reducible refine keepE_bind (fun _ _ => ?_)
    | split

/-- What `nvwQueryExpertBody` keeps. -/
theorem nvwQueryExpertBody_keep {zz tk s : State} {c} (ek : nvwQueryExpertBody c s = .ok tk)
    (kp : Keep zz s) : Keep zz tk := by
  revert ek
  suffices KeepE zz (nvwQueryExpertBody c s) from this tk
  unfold nvwQueryExpertBody
  repeat' first
    | with_reducible assumption
    | simp only [keep_mk]
    | with_reducible refine keepE_ok ?_
    | with_reducible refine State.writeBuf_keep (by assumption) ?_
    | with_reducible refine State.ok_keep ?_
    | with_reducible refine keepE_bind (fun _ _ => ?_)

/-- What `execNvwPatrol` keeps. -/
theorem execNvwPatrol_keep {tk s : State} {stack block relocate} (ek : execNvwPatrol stack block relocate s = .next tk) : Keep s tk := by
  have kp := Keep.refl s
  refine event_keep ek ?_
  repeat' first
    | with_reducible assumption
    | with_reducible refine State.modNvw_keep ?_
    | with_reducible refine keep_ite (fun _ => ?_) (fun _ => ?_)

/-- What `execNvwRelocationSwitch` keeps. -/
theorem execNvwRelocationSwitch_keep {tk s : State} {stack block} (ek : execNvwRelocationSwitch stack block s = .next tk) : Keep s tk := by
  have kp := Keep.refl s
  refine event_keep ek ?_
  repeat' first
    | with_reducible assumption
    | simp only [keep_mk]
    | with_reducible refine State.swapBlock_keep ?_
    | with_reducible refine State.cycleBlocks_keep ?_
    | with_reducible refine State.modNvw_keep ?_
    | with_reducible refine keep_ite (fun _ => ?_) (fun _ => ?_)

/-- What `State.hostTile` keeps. -/
theorem State.hostTile_keep {zz s : State} {w tile data} (kp : Keep zz s) :
    Keep zz (State.hostTile s w tile data) := by
  unfold State.hostTile
  repeat' first
    | with_reducible assumption
    | simp only [keep_mk]
    | with_reducible refine State.modBind_keep ?_
    | with_reducible refine keep_ite (fun _ => ?_) (fun _ => ?_)
    | split

/-- What `execPcieReadCompletion` keeps. -/
theorem execPcieReadCompletion_keep {tk s : State} {w tile data} (ek : execPcieReadCompletion w tile data s = .next tk) : Keep s tk := by
  have kp := Keep.refl s
  refine event_keep ek ?_
  repeat' first
    | with_reducible assumption
    | with_reducible refine State.hostTile_keep ?_

/-- What `execPcieCompletionTimeout` keeps. -/
theorem execPcieCompletionTimeout_keep {tk s : State} {w tile} (ek : execPcieCompletionTimeout w tile s = .next tk) : Keep s tk := by
  have kp := Keep.refl s
  refine event_keep ek ?_
  repeat' first
    | with_reducible assumption
    | with_reducible refine State.hostTile_keep ?_

/-- What `parkQueryBody` keeps. -/
theorem parkQueryBody_keep {zz tk s : State} {c} (ek : parkQueryBody c s = .ok tk)
    (kp : Keep zz s) : Keep zz tk := by
  revert ek
  suffices KeepE zz (parkQueryBody c s) from this tk
  unfold parkQueryBody
  repeat' first
    | with_reducible assumption
    | with_reducible refine keepE_ok ?_
    | with_reducible refine State.writeBuf_keep (by assumption) ?_
    | with_reducible refine State.ok_keep ?_
    | with_reducible refine keepE_bind (fun _ _ => ?_)

/-- What `execParkQueryExpert` keeps. -/
theorem execParkQueryExpert_keep {tk s : State} {w evs} (ek : execParkQueryExpert w evs s = .next tk) : Keep s tk := by
  have kp := Keep.refl s
  refine run_keep ek (fun _ _ _ => ?_)
  repeat' first
    | with_reducible assumption
    | with_reducible refine keepE_ok ?_
    | with_reducible refine State.writeBuf_keep (by assumption) ?_
    | with_reducible refine State.ok_keep ?_
    | with_reducible refine keepE_bind (fun _ _ => ?_)

/-- What `State.rescan` keeps. -/
theorem State.rescan_keep {zz s : State} {found} (kp : Keep zz s) :
    Keep zz (State.rescan s found) := by
  unfold State.rescan
  repeat' first
    | with_reducible assumption
    | simp only [keep_mk]
    | with_reducible refine State.bringDevs_keep ?_

end Sys2Proof.Machine
end

