-- ==== Sys2Proof/Laws/KeepPark.lean ====
section
/-! SUPPORT. What the definitions of Machine/Park.lean keep (Laws/Keep.lean). -/

namespace Sys2Proof.Machine

open Sys2Proof

/-- What `State.cxlViolation` keeps. -/
theorem State.cxlViolation_keep {zz s : State} {d n} (kp : Keep zz s) :
    Keep zz (State.cxlViolation s d n) := by
  unfold State.cxlViolation
  repeat' first
    | with_reducible assumption
    | simp only [keep_mk]
    | with_reducible refine State.modDev_keep ?_
    | with_reducible refine State.offline_keep ?_
    | with_reducible refine State.logEv_keep ?_
    | with_reducible refine keep_ite (fun _ => ?_) (fun _ => ?_)
    | split

/-- What `State.cxlResponse` keeps. -/
theorem State.cxlResponse_keep {zz s : State} {dev tag viol write} {answer : TagReq → State}
    (ha : ∀ q, Keep zz s → Keep zz (answer q)) (kp : Keep zz s) :
    Keep zz (State.cxlResponse s dev tag viol write answer) := by
  unfold State.cxlResponse
  repeat' first
    | exact State.cxlViolation_keep kp
    | exact ha _ kp
    | split

/-- What `execCxlDrs` keeps. -/
theorem execCxlDrs_keep {tk s : State} {dev tag poison viol} (ek : execCxlDrs dev tag poison viol s = .next tk) : Keep s tk := by
  have kp := Keep.refl s
  refine event_keep ek ?_
  repeat' first
    | with_reducible assumption
    | with_reducible refine State.cxlResponse_keep (fun _ _ => ?_) ?_
    | with_reducible refine State.readDone_keep ?_

/-- What `execCxlNdr` keeps. -/
theorem execCxlNdr_keep {tk s : State} {dev tag viol} (ek : execCxlNdr dev tag viol s = .next tk) : Keep s tk := by
  have kp := Keep.refl s
  refine event_keep ek ?_
  repeat' first
    | with_reducible assumption
    | with_reducible refine State.writeDone_keep ?_
    | with_reducible refine State.cxlResponse_keep (fun _ _ => ?_) ?_

/-- What `execCxlRequestTimeout` keeps. -/
theorem execCxlRequestTimeout_keep {tk s : State} {tag} (ek : execCxlRequestTimeout tag s = .next tk) : Keep s tk := by
  have kp := Keep.refl s
  refine event_keep ek ?_
  repeat' first
    | with_reducible assumption
    | simp only [keep_mk]
    | with_reducible refine State.modDev_keep ?_
    | with_reducible refine State.offline_keep ?_
    | with_reducible refine State.reach_keep ?_
    | with_reducible refine State.tagTimeout_keep ?_
    | with_reducible refine keep_ite (fun _ => ?_) (fun _ => ?_)
    | split

/-- What `execCxlLinkDown` keeps. -/
theorem execCxlLinkDown_keep {tk s : State} {dev} (ek : execCxlLinkDown dev s = .next tk) : Keep s tk := by
  have kp := Keep.refl s
  refine event_keep ek ?_
  repeat' first
    | with_reducible assumption
    | with_reducible refine State.offline_keep ?_

/-- What `State.parkControl` keeps. -/
theorem State.parkControl_keep {zz tk s : State} {c bifur found} (ek : State.parkControl s c bifur found = .ok tk)
    (kp : Keep zz s) : Keep zz tk := by
  revert ek
  suffices KeepE zz (State.parkControl s c bifur found) from this tk
  unfold State.parkControl
  repeat' first
    | with_reducible assumption
    | simp only [keep_mk]
    | with_reducible refine keepE_ok ?_
    | exact keepE_error
    | with_reducible refine State.ok_keep ?_
    | with_reducible refine State.offline_keep ?_
    | with_reducible refine State.rescan_keep ?_
    | with_reducible refine keepE_ite (fun _ => ?_) (fun _ => ?_)
    | with_reducible refine keepE_bind (fun _ _ => ?_)
    | with_reducible refine keepE_elim (by assumption) ?_
    | split

/-- What `execParkControl` keeps. -/
theorem execParkControl_keep {tk s : State} {w found} (ek : execParkControl w found s = .next tk) : Keep s tk := by
  have kp := Keep.refl s
  refine run_keep ek (fun _ _ _ => ?_)
  repeat' first
    | with_reducible assumption
    | refine fun _ e => State.parkControl_keep e ?_

/-- What `execParkControlExpert` keeps. -/
theorem execParkControlExpert_keep {tk s : State} {w found} (ek : execParkControlExpert w found s = .next tk) : Keep s tk := by
  have kp := Keep.refl s
  refine run_keep ek (fun _ _ _ => ?_)
  repeat' first
    | with_reducible assumption
    | refine fun _ e => State.parkControl_keep e ?_

/-- What `memTelemetryBody` keeps. -/
theorem memTelemetryBody_keep {zz tk s : State} {c} (ek : memTelemetryBody c s = .ok tk)
    (kp : Keep zz s) : Keep zz tk := by
  revert ek
  suffices KeepE zz (memTelemetryBody c s) from this tk
  unfold memTelemetryBody
  repeat' first
    | with_reducible assumption
    | with_reducible refine keepE_ok ?_
    | with_reducible refine State.writeBuf_keep (by assumption) ?_
    | with_reducible refine State.ok_keep ?_
    | with_reducible refine keepE_bind (fun _ _ => ?_)

/-- What `memTelemetryExpertBody` keeps. -/
theorem memTelemetryExpertBody_keep {zz tk s : State} {c} (ek : memTelemetryExpertBody c s = .ok tk)
    (kp : Keep zz s) : Keep zz tk := by
  revert ek
  suffices KeepE zz (memTelemetryExpertBody c s) from this tk
  unfold memTelemetryExpertBody
  repeat' first
    | with_reducible assumption
    | simp only [keep_mk]
    | with_reducible refine keepE_ok ?_
    | with_reducible refine State.writeBuf_keep (by assumption) ?_
    | with_reducible refine State.ok_keep ?_
    | with_reducible refine keepE_bind (fun _ _ => ?_)

end Sys2Proof.Machine
end

