-- ==== Sys2Proof/Laws/KeepFarrierOps.lean ====
section
/-! SUPPORT. What the definitions of Machine/FarrierOps.lean keep (Laws/Keep.lean). -/

namespace Sys2Proof.Machine

open Sys2Proof

/-- What `State.measureTests` keeps. -/
theorem State.measureTests_keep {zz s : State} (kp : Keep zz s) :
    Keep zz (State.measureTests s) := by
  unfold State.measureTests
  repeat' first
    | with_reducible assumption
    | simp only [keep_mk]
    | with_reducible refine keep_ite (fun _ => ?_) (fun _ => ?_)

/-- What `State.modRun` keeps. -/
theorem State.modRun_keep {zz s : State} {w i f} (kp : Keep zz s) :
    Keep zz (State.modRun s w i f) := by
  unfold State.modRun
  repeat' first
    | with_reducible assumption
    | simp only [keep_mk]

/-- What `State.putRec` keeps. -/
theorem State.putRec_keep {zz s : State} {d i r} (kp : Keep zz s) :
    Keep zz (State.putRec s d i r) := by
  unfold State.putRec
  repeat' first
    | with_reducible assumption
    | simp only [keep_mk]

/-- What `State.endRun` keeps. -/
theorem State.endRun_keep {zz s : State} {r st} (kp : Keep zz s) :
    Keep zz (State.endRun s r st) := by
  unfold State.endRun
  repeat' first
    | with_reducible assumption
    | simp only [keep_mk]
    | with_reducible refine State.measureTests_keep ?_
    | with_reducible refine State.lateWrite_keep ?_
    | with_reducible refine State.complete_keep ?_
    | with_reducible refine keep_ite (fun _ => ?_) (fun _ => ?_)

/-- What `State.stopRun` keeps. -/
theorem State.stopRun_keep {zz s : State} {r st} (kp : Keep zz s) :
    Keep zz (State.stopRun s r st) := by
  unfold State.stopRun
  repeat' first
    | with_reducible assumption
    | with_reducible refine State.endRun_keep ?_
    | with_reducible refine State.putRec_keep ?_
    | with_reducible refine keep_foldl (fun _ _ _ => ?_) ?_

/-- What `State.stopSpareTest` keeps. -/
theorem State.stopSpareTest_keep {zz s : State} {p} (kp : Keep zz s) :
    Keep zz (State.stopSpareTest s p) := by
  unfold State.stopSpareTest
  repeat' first
    | with_reducible assumption
    | simp only [keep_mk]
    | with_reducible refine State.modRun_keep ?_
    | with_reducible refine State.endRun_keep ?_
    | with_reducible refine State.completeAll_keep ?_
    | with_reducible refine State.putRec_keep ?_
    | with_reducible refine keep_ite (fun _ => ?_) (fun _ => ?_)
    | with_reducible refine keep_foldl (fun _ _ _ => ?_) ?_

end Sys2Proof.Machine
end

