-- ==== Sys2Proof/Laws/KeepResil.lean ====
section
/-! SUPPORT. What the definitions of Machine/Resil.lean keep (Laws/Keep.lean). -/

namespace Sys2Proof.Machine

open Sys2Proof

/-- What `execRouteLoss` keeps. -/
theorem execRouteLoss_keep {tk s : State} {part cells} (ek : execRouteLoss part cells s = .next tk) : Keep s tk := by
  have kp := Keep.refl s
  refine event_keep ek ?_
  repeat' first
    | with_reducible assumption
    | simp only [keep_mk]
    | with_reducible refine State.loseMember_keep ?_
    | with_reducible refine State.reach_keep ?_
    | with_reducible refine State.moorLoses_keep ?_
    | with_reducible refine keep_foldl (fun _ _ _ => ?_) ?_
    | split

/-- What `State.parityArea` keeps. -/
theorem State.parityArea_keep {zz tk s : State} {c len named} {xk} (ek : State.parityArea s c len named = .ok (xk, tk))
    (kp : Keep zz s) : Keep zz tk := by
  suffices KeepP zz (fun a => a.2) (State.parityArea s c len named) from this _ ek
  unfold State.parityArea
  repeat' first
    | with_reducible assumption
    | with_reducible refine keepP_ok ?_
    | refine fun _ e => State.allocate_keep e ?_
    | with_reducible refine keepP_ite (fun _ => ?_) (fun _ => ?_)
    | with_reducible refine keepP_bind (fun _ _ => ?_)

/-- What `State.moorCreate` keeps. -/
theorem State.moorCreate_keep {zz tk s : State} {c q others} (ek : State.moorCreate s c q others = .ok tk)
    (kp : Keep zz s) : Keep zz tk := by
  revert ek
  suffices KeepE zz (State.moorCreate s c q others) from this tk
  unfold State.moorCreate
  repeat' first
    | with_reducible assumption
    | simp only [keep_mk]
    | with_reducible refine keepE_ok ?_
    | exact keepE_error
    | with_reducible refine State.noteRoutes_keep ?_
    | with_reducible refine State.ok_keep ?_
    | with_reducible refine State.parityArea_keep (by assumption) ?_
    | with_reducible refine keepE_ite (fun _ => ?_) (fun _ => ?_)
    | with_reducible refine keepE_bind (fun _ _ => ?_)
    | split

/-- What `execResilMoorCreate` keeps. -/
theorem execResilMoorCreate_keep {tk s : State} {w hm others} (ek : execResilMoorCreate w hm others s = .next tk) : Keep s tk := by
  have kp := Keep.refl s
  refine run_keep ek (fun _ _ _ => ?_)
  repeat' first
    | with_reducible assumption
    | refine fun _ e => State.moorCreate_keep e ?_

/-- What `execResilMoorCreateExpert` keeps. -/
theorem execResilMoorCreateExpert_keep {tk s : State} {w hm others} (ek : execResilMoorCreateExpert w hm others s = .next tk) : Keep s tk := by
  have kp := Keep.refl s
  refine run_keep ek (fun _ _ _ => ?_)
  repeat' first
    | with_reducible assumption
    | refine fun _ e => State.moorCreate_keep e ?_

/-- What `State.moorDestroy` keeps. -/
theorem State.moorDestroy_keep {zz tk s : State} {c wait} (ek : State.moorDestroy s c wait = .ok tk)
    (kp : Keep zz s) : Keep zz tk := by
  revert ek
  suffices KeepE zz (State.moorDestroy s c wait) from this tk
  unfold State.moorDestroy
  repeat' first
    | with_reducible assumption
    | simp only [keep_mk]
    | with_reducible refine keepE_ok ?_
    | with_reducible refine State.ok_keep ?_
    | with_reducible refine State.dropMoor_keep ?_
    | with_reducible refine State.endMoorCmds_keep ?_
    | with_reducible refine State.wait_keep ?_
    | with_reducible refine keepE_ite (fun _ => ?_) (fun _ => ?_)
    | with_reducible refine keepE_bind (fun _ _ => ?_)

/-- What `resilMoorDestroyBody` keeps. -/
theorem resilMoorDestroyBody_keep {zz tk s : State} {c} (ek : resilMoorDestroyBody c s = .ok tk)
    (kp : Keep zz s) : Keep zz tk := by
  revert ek
  suffices KeepE zz (resilMoorDestroyBody c s) from this tk
  unfold resilMoorDestroyBody
  repeat' first
    | with_reducible assumption
    | refine fun _ e => State.moorDestroy_keep e ?_

/-- What `resilMoorDestroyExpertBody` keeps. -/
theorem resilMoorDestroyExpertBody_keep {zz tk s : State} {c} (ek : resilMoorDestroyExpertBody c s = .ok tk)
    (kp : Keep zz s) : Keep zz tk := by
  revert ek
  suffices KeepE zz (resilMoorDestroyExpertBody c s) from this tk
  unfold resilMoorDestroyExpertBody
  repeat' first
    | with_reducible assumption
    | refine fun _ e => State.moorDestroy_keep e ?_

/-- What `State.moorRefresh` keeps. -/
theorem State.moorRefresh_keep {zz tk s : State} {c full} (ek : State.moorRefresh s c full = .ok tk)
    (kp : Keep zz s) : Keep zz tk := by
  revert ek
  suffices KeepE zz (State.moorRefresh s c full) from this tk
  unfold State.moorRefresh
  repeat' first
    | with_reducible assumption
    | simp only [keep_mk]
    | with_reducible refine keepE_ok ?_
    | with_reducible refine State.startRefresh_keep ?_
    | with_reducible refine keepE_ite (fun _ => ?_) (fun _ => ?_)
    | with_reducible refine keepE_bind (fun _ _ => ?_)

/-- What `resilMoorRefreshBody` keeps. -/
theorem resilMoorRefreshBody_keep {zz tk s : State} {c} (ek : resilMoorRefreshBody c s = .ok tk)
    (kp : Keep zz s) : Keep zz tk := by
  revert ek
  suffices KeepE zz (resilMoorRefreshBody c s) from this tk
  unfold resilMoorRefreshBody
  repeat' first
    | with_reducible assumption
    | refine fun _ e => State.moorRefresh_keep e ?_

/-- What `resilMoorRefreshExpertBody` keeps. -/
theorem resilMoorRefreshExpertBody_keep {zz tk s : State} {c} (ek : resilMoorRefreshExpertBody c s = .ok tk)
    (kp : Keep zz s) : Keep zz tk := by
  revert ek
  suffices KeepE zz (resilMoorRefreshExpertBody c s) from this tk
  unfold resilMoorRefreshExpertBody
  repeat' first
    | with_reducible assumption
    | refine fun _ e => State.moorRefresh_keep e ?_

/-- What `execStripeParityCompute` keeps. -/
theorem execStripeParityCompute_keep {tk s : State} {moor stripe cells} (ek : execStripeParityCompute moor stripe cells s = .next tk) : Keep s tk := by
  have kp := Keep.refl s
  refine event_keep ek ?_
  repeat' first
    | with_reducible assumption
    | simp only [keep_mk]
    | with_reducible refine State.putParity_keep ?_
    | with_reducible refine State.sendCell_keep ?_
    | with_reducible refine keep_ite (fun _ => ?_) (fun _ => ?_)
    | with_reducible refine keep_foldl (fun _ _ _ => ?_) ?_
    | split

/-- What `execStripeCommit` keeps. -/
theorem execStripeCommit_keep {tk s : State} {moor stripe parity last} (ek : execStripeCommit moor stripe parity last s = .next tk) : Keep s tk := by
  have kp := Keep.refl s
  refine event_keep ek ?_
  repeat' first
    | with_reducible assumption
    | simp only [keep_mk]
    | with_reducible refine State.putParity_keep ?_
    | with_reducible refine State.commitEpoch_keep ?_
    | with_reducible refine State.modMoor_keep ?_
    | with_reducible refine keep_ite (fun _ => ?_) (fun _ => ?_)
    | split

/-- What `State.moorReplace` keeps. -/
theorem State.moorReplace_keep {zz tk s : State} {c timeout joined} (ek : State.moorReplace s c timeout joined = .ok tk)
    (kp : Keep zz s) : Keep zz tk := by
  revert ek
  suffices KeepE zz (State.moorReplace s c timeout joined) from this tk
  unfold State.moorReplace
  repeat' first
    | with_reducible assumption
    | simp only [keep_mk]
    | with_reducible refine keepE_ok ?_
    | with_reducible refine State.startRebuild_keep ?_
    | with_reducible refine State.modMoor_keep ?_
    | with_reducible refine keepE_bind (fun _ _ => ?_)

/-- What `execResilMoorReplace` keeps. -/
theorem execResilMoorReplace_keep {tk s : State} {w joined} (ek : execResilMoorReplace w joined s = .next tk) : Keep s tk := by
  have kp := Keep.refl s
  refine run_keep ek (fun _ _ _ => ?_)
  repeat' first
    | with_reducible assumption
    | refine fun _ e => State.moorReplace_keep e ?_

/-- What `execResilMoorReplaceExpert` keeps. -/
theorem execResilMoorReplaceExpert_keep {tk s : State} {w joined} (ek : execResilMoorReplaceExpert w joined s = .next tk) : Keep s tk := by
  have kp := Keep.refl s
  refine run_keep ek (fun _ _ _ => ?_)
  repeat' first
    | with_reducible assumption
    | refine fun _ e => State.moorReplace_keep e ?_

/-- What `execAutoReplaceStart` keeps. -/
theorem execAutoReplaceStart_keep {tk s : State} {moor} (ek : execAutoReplaceStart moor s = .next tk) : Keep s tk := by
  have kp := Keep.refl s
  refine event_keep ek ?_
  repeat' first
    | with_reducible assumption
    | with_reducible refine State.startRebuild_keep ?_
    | with_reducible refine keep_ite (fun _ => ?_) (fun _ => ?_)
    | split

/-- What `execRebuildComplete` keeps. -/
theorem execRebuildComplete_keep {tk s : State} {moor lost spare epoch shares} (ek : execRebuildComplete moor lost spare epoch shares s = .next tk) : Keep s tk := by
  have kp := Keep.refl s
  refine event_keep ek ?_
  repeat' first
    | with_reducible assumption
    | simp only [keep_mk]
    | with_reducible refine State.rebuildCells_keep ?_
    | with_reducible refine State.enterMoor_keep ?_
    | with_reducible refine State.modMoor_keep ?_
    | with_reducible refine State.complete_keep ?_
    | with_reducible refine keep_ite (fun _ => ?_) (fun _ => ?_)
    | with_reducible refine keep_foldl (fun _ _ _ => ?_) ?_
    | split

/-- What `State.moorShrink` keeps. -/
theorem State.moorShrink_keep {zz tk s : State} {c timeout most shares} (ek : State.moorShrink s c timeout most shares = .ok tk)
    (kp : Keep zz s) : Keep zz tk := by
  revert ek
  suffices KeepE zz (State.moorShrink s c timeout most shares) from this tk
  unfold State.moorShrink
  repeat' first
    | with_reducible assumption
    | simp only [keep_mk]
    | with_reducible refine keepE_ok ?_
    | with_reducible refine State.release_keep ?_
    | with_reducible refine State.putCellAt_keep ?_
    | with_reducible refine State.enterMoor_keep ?_
    | with_reducible refine State.sendCell_keep ?_
    | with_reducible refine State.modMoor_keep ?_
    | with_reducible refine State.parityArea_keep (by assumption) ?_
    | with_reducible refine State.startRefresh_keep ?_
    | with_reducible refine keepE_bind (fun _ _ => ?_)
    | with_reducible refine keep_ite (fun _ => ?_) (fun _ => ?_)
    | with_reducible refine keep_foldl (fun _ _ _ => ?_) ?_
    | split

/-- What `execResilMoorShrink` keeps. -/
theorem execResilMoorShrink_keep {tk s : State} {w cells shares} (ek : execResilMoorShrink w cells shares s = .next tk) : Keep s tk := by
  have kp := Keep.refl s
  refine run_keep ek (fun _ _ _ => ?_)
  repeat' first
    | with_reducible assumption
    | refine fun _ e => State.moorShrink_keep e ?_

/-- What `execResilMoorShrinkExpert` keeps. -/
theorem execResilMoorShrinkExpert_keep {tk s : State} {w cells shares} (ek : execResilMoorShrinkExpert w cells shares s = .next tk) : Keep s tk := by
  have kp := Keep.refl s
  refine run_keep ek (fun _ _ _ => ?_)
  repeat' first
    | with_reducible assumption
    | refine fun _ e => State.moorShrink_keep e ?_

/-- What `execShrinkComplete` keeps. -/
theorem execShrinkComplete_keep {tk s : State} {moor} (ek : execShrinkComplete moor s = .next tk) : Keep s tk := by
  have kp := Keep.refl s
  refine event_keep ek ?_
  repeat' first
    | with_reducible assumption
    | simp only [keep_mk]
    | with_reducible refine State.commitEpoch_keep ?_
    | with_reducible refine State.completeAll_keep ?_
    | with_reducible refine State.enterMoor_keep ?_
    | with_reducible refine State.modMoor_keep ?_
    | with_reducible refine keep_ite (fun _ => ?_) (fun _ => ?_)
    | split

/-- What `State.moorRepair` keeps. -/
theorem State.moorRepair_keep {zz tk s : State} {c only shares} (ek : State.moorRepair s c only shares = .ok tk)
    (kp : Keep zz s) : Keep zz tk := by
  revert ek
  suffices KeepE zz (State.moorRepair s c only shares) from this tk
  unfold State.moorRepair
  repeat' first
    | with_reducible assumption
    | simp only [keep_mk]
    | with_reducible refine keepE_ok ?_
    | with_reducible refine State.ok_keep ?_
    | with_reducible refine State.repairLines_keep ?_
    | with_reducible refine keepE_bind (fun _ _ => ?_)

/-- What `execResilMoorRepair` keeps. -/
theorem execResilMoorRepair_keep {tk s : State} {w shares} (ek : execResilMoorRepair w shares s = .next tk) : Keep s tk := by
  have kp := Keep.refl s
  refine run_keep ek (fun _ _ _ => ?_)
  repeat' first
    | with_reducible assumption
    | refine fun _ e => State.moorRepair_keep e ?_

/-- What `execResilMoorRepairExpert` keeps. -/
theorem execResilMoorRepairExpert_keep {tk s : State} {w shares} (ek : execResilMoorRepairExpert w shares s = .next tk) : Keep s tk := by
  have kp := Keep.refl s
  refine run_keep ek (fun _ _ _ => ?_)
  repeat' first
    | with_reducible assumption
    | simp only [keep_mk]
    | refine fun _ e => State.moorRepair_keep e ?_
    | with_reducible refine keepE_bind (fun _ _ => ?_)

/-- What `execPoisonLineRepair` keeps. -/
theorem execPoisonLineRepair_keep {tk s : State} {line shares} (ek : execPoisonLineRepair line shares s = .next tk) : Keep s tk := by
  have kp := Keep.refl s
  refine event_keep ek ?_
  repeat' first
    | with_reducible assumption
    | with_reducible refine State.repairLines_keep ?_
    | with_reducible refine keep_ite (fun _ => ?_) (fun _ => ?_)
    | split

/-- What `resilMoorQueryBody` keeps. -/
theorem resilMoorQueryBody_keep {zz tk s : State} {c} (ek : resilMoorQueryBody c s = .ok tk)
    (kp : Keep zz s) : Keep zz tk := by
  revert ek
  suffices KeepE zz (resilMoorQueryBody c s) from this tk
  unfold resilMoorQueryBody
  repeat' first
    | with_reducible assumption
    | simp only [keep_mk]
    | with_reducible refine keepE_ok ?_
    | with_reducible refine State.writeBuf_keep (by assumption) ?_
    | with_reducible refine State.ok_keep ?_
    | with_reducible refine keepE_bind (fun _ _ => ?_)

/-- What `resilMoorQueryExpertBody` keeps. -/
theorem resilMoorQueryExpertBody_keep {zz tk s : State} {c} (ek : resilMoorQueryExpertBody c s = .ok tk)
    (kp : Keep zz s) : Keep zz tk := by
  revert ek
  suffices KeepE zz (resilMoorQueryExpertBody c s) from this tk
  unfold resilMoorQueryExpertBody
  repeat' first
    | with_reducible assumption
    | simp only [keep_mk]
    | with_reducible refine keepE_ok ?_
    | exact keepE_error
    | with_reducible refine State.writeBuf_keep (by assumption) ?_
    | with_reducible refine State.ok_keep ?_
    | with_reducible refine keepE_bind (fun _ _ => ?_)
    | split

/-- What `State.resilWait` keeps. -/
theorem State.resilWait_keep {zz tk s : State} {c mask} (ek : State.resilWait s c mask = .ok tk)
    (kp : Keep zz s) : Keep zz tk := by
  revert ek
  suffices KeepE zz (State.resilWait s c mask) from this tk
  unfold State.resilWait
  repeat' first
    | with_reducible assumption
    | simp only [keep_mk]
    | with_reducible refine keepE_ok ?_
    | with_reducible refine State.wait_keep ?_
    | with_reducible refine keepE_bind (fun _ _ => ?_)

/-- What `resilWaitBody` keeps. -/
theorem resilWaitBody_keep {zz tk s : State} {c} (ek : resilWaitBody c s = .ok tk)
    (kp : Keep zz s) : Keep zz tk := by
  revert ek
  suffices KeepE zz (resilWaitBody c s) from this tk
  unfold resilWaitBody
  repeat' first
    | with_reducible assumption
    | refine fun _ e => State.resilWait_keep e ?_

/-- What `resilWaitExpertBody` keeps. -/
theorem resilWaitExpertBody_keep {zz tk s : State} {c} (ek : resilWaitExpertBody c s = .ok tk)
    (kp : Keep zz s) : Keep zz tk := by
  revert ek
  suffices KeepE zz (resilWaitExpertBody c s) from this tk
  unfold resilWaitExpertBody
  repeat' first
    | with_reducible assumption
    | refine fun _ e => State.resilWait_keep e ?_

/-- What `resilJournalQueryBody` keeps. -/
theorem resilJournalQueryBody_keep {zz tk s : State} {c} (ek : resilJournalQueryBody c s = .ok tk)
    (kp : Keep zz s) : Keep zz tk := by
  revert ek
  suffices KeepE zz (resilJournalQueryBody c s) from this tk
  unfold resilJournalQueryBody
  repeat' first
    | with_reducible assumption
    | simp only [keep_mk]
    | with_reducible refine keepE_ok ?_
    | with_reducible refine State.writeBuf_keep (by assumption) ?_
    | with_reducible refine State.ok_keep ?_
    | with_reducible refine keepE_bind (fun _ _ => ?_)

/-- What `resilJournalQueryExpertBody` keeps. -/
theorem resilJournalQueryExpertBody_keep {zz tk s : State} {c} (ek : resilJournalQueryExpertBody c s = .ok tk)
    (kp : Keep zz s) : Keep zz tk := by
  revert ek
  suffices KeepE zz (resilJournalQueryExpertBody c s) from this tk
  unfold resilJournalQueryExpertBody
  repeat' first
    | with_reducible assumption
    | simp only [keep_mk]
    | with_reducible refine keepE_ok ?_
    | with_reducible refine State.writeBuf_keep (by assumption) ?_
    | with_reducible refine State.ok_keep ?_
    | with_reducible refine keepE_bind (fun _ _ => ?_)

/-- What `State.teamRetire` keeps. -/
theorem State.teamRetire_keep {zz tk s : State} {c wait} (ek : State.teamRetire s c wait = .ok tk)
    (kp : Keep zz s) : Keep zz tk := by
  revert ek
  suffices KeepE zz (State.teamRetire s c wait) from this tk
  unfold State.teamRetire
  repeat' first
    | with_reducible assumption
    | simp only [keep_mk]
    | with_reducible refine keepE_ok ?_
    | exact keepE_error
    | with_reducible refine State.modPhys_keep ?_
    | with_reducible refine State.ok_keep ?_
    | with_reducible refine State.retireTeam_keep ?_
    | with_reducible refine State.wait_keep ?_
    | with_reducible refine keepE_ite (fun _ => ?_) (fun _ => ?_)
    | with_reducible refine keepE_bind (fun _ _ => ?_)
    | split

/-- What `resilTeamRetireBody` keeps. -/
theorem resilTeamRetireBody_keep {zz tk s : State} {c} (ek : resilTeamRetireBody c s = .ok tk)
    (kp : Keep zz s) : Keep zz tk := by
  revert ek
  suffices KeepE zz (resilTeamRetireBody c s) from this tk
  unfold resilTeamRetireBody
  repeat' first
    | with_reducible assumption
    | refine fun _ e => State.teamRetire_keep e ?_

/-- What `resilTeamRetireExpertBody` keeps. -/
theorem resilTeamRetireExpertBody_keep {zz tk s : State} {c} (ek : resilTeamRetireExpertBody c s = .ok tk)
    (kp : Keep zz s) : Keep zz tk := by
  revert ek
  suffices KeepE zz (resilTeamRetireExpertBody c s) from this tk
  unfold resilTeamRetireExpertBody
  repeat' first
    | with_reducible assumption
    | refine fun _ e => State.teamRetire_keep e ?_

/-- What `State.teamOut` keeps. -/
theorem State.teamOut_keep {zz s : State} {l} (kp : Keep zz s) :
    Keep zz (State.teamOut s l) := by
  unfold State.teamOut
  repeat' first
    | with_reducible assumption
    | simp only [keep_mk]
    | with_reducible refine State.modTeam_keep ?_
    | with_reducible refine State.checkDegraded_keep ?_
    | with_reducible refine State.logEv_keep ?_
    | with_reducible refine State.finishTask_keep ?_
    | with_reducible refine State.modPaddock_keep ?_
    | with_reducible refine State.complete_keep ?_
    | with_reducible refine keep_foldl (fun _ _ _ => ?_) ?_
    | split

/-- What `execTeamSubstitution` keeps. -/
theorem execTeamSubstitution_keep {tk s : State} (ek : execTeamSubstitution s = .next tk) : Keep s tk := by
  have kp := Keep.refl s
  refine event_keep ek ?_
  repeat' first
    | with_reducible assumption
    | with_reducible refine State.modPhys_keep ?_
    | with_reducible refine State.stopSpareTest_keep ?_
    | with_reducible refine State.teamOut_keep ?_
    | split

/-- What `State.teamSwitch` keeps. -/
theorem State.teamSwitch_keep {zz s : State} {team new old pass} (kp : Keep zz s) :
    Keep zz (State.teamSwitch s team new old pass) := by
  unfold State.teamSwitch
  repeat' first
    | with_reducible assumption
    | simp only [keep_mk]
    | with_reducible refine State.modTeam_keep ?_
    | with_reducible refine State.modPhys_keep ?_
    | with_reducible refine State.checkDegraded_keep ?_
    | with_reducible refine State.logEv_keep ?_
    | with_reducible refine State.complete_keep ?_
    | with_reducible refine keep_ite (fun _ => ?_) (fun _ => ?_)
    | split

/-- What `execSpareMappingSwitch` keeps. -/
theorem execSpareMappingSwitch_keep {tk s : State} {team pass} (ek : execSpareMappingSwitch team pass s = .next tk) : Keep s tk := by
  have kp := Keep.refl s
  refine event_keep ek ?_
  repeat' first
    | with_reducible assumption
    | simp only [keep_mk]
    | with_reducible refine State.teamSwitch_keep ?_
    | with_reducible refine State.reach_keep ?_
    | split

end Sys2Proof.Machine
end

