-- ==== Sys2Proof/Laws/KeepReset.lean ====
section
/-! SUPPORT. What the definitions of Machine/Reset.lean keep (Laws/Keep.lean). -/

namespace Sys2Proof.Machine

open Sys2Proof

/-- What `State.recordProgress` keeps. -/
theorem State.recordProgress_keep {zz s : State} (kp : Keep zz s) :
    Keep zz (State.recordProgress s) := by
  unfold State.recordProgress
  repeat' first
    | with_reducible assumption
    | simp only [keep_mk]
    | with_reducible refine State.interruptSweep_keep ?_
    | with_reducible refine State.progress_keep ?_
    | with_reducible refine keep_foldl (fun _ _ _ => ?_) ?_

/-- What `State.tearProgram` keeps. -/
theorem State.tearProgram_keep {zz s : State} {p} (kp : Keep zz s) :
    Keep zz (State.tearProgram s p) := by
  unfold State.tearProgram
  repeat' first
    | with_reducible assumption
    | simp only [keep_mk]
    | with_reducible refine State.modAlloc_keep ?_
    | with_reducible refine State.progress_keep ?_
    | with_reducible refine State.draw_keep ?_
    | split

/-- What `State.tearPrograms` keeps. -/
theorem State.tearPrograms_keep {zz s : State} (kp : Keep zz s) :
    Keep zz (State.tearPrograms s) := by
  unfold State.tearPrograms
  repeat' first
    | with_reducible assumption
    | simp only [keep_mk]
    | with_reducible refine State.tearProgram_keep ?_
    | with_reducible refine keep_foldl (fun _ _ _ => ?_) ?_

/-- What `State.quietly` keeps. -/
theorem State.quietly_keep {zz s : State} {f : State → State} (hf : ∀ u, Keep zz u → Keep zz (f u))
    (kp : Keep zz s) : Keep zz (State.quietly s f) := by
  unfold State.quietly
  dsimp only
  rw [keep_mk]
  refine hf _ ?_
  rw [keep_mk]
  exact kp

/-- What `State.warmRings` keeps. -/
theorem State.warmRings_keep {zz s : State} (kp : Keep zz s) :
    Keep zz (State.warmRings s) := by
  unfold State.warmRings
  repeat' first
    | with_reducible assumption
    | simp only [keep_mk]
    | with_reducible refine State.modRing_keep (fun _ hb => ?_) ?_
    | exact hb
    | with_reducible refine State.resetRing_keep ?_
    | with_reducible refine State.modFn_keep ?_
    | with_reducible refine keep_ite (fun _ => ?_) (fun _ => ?_)
    | with_reducible refine keep_foldl (fun _ _ _ => ?_) ?_

/-- What `State.warmWork` keeps. -/
theorem State.warmWork_keep {zz s : State} (kp : Keep zz s) :
    Keep zz (State.warmWork s) := by
  unfold State.warmWork
  repeat' first
    | with_reducible assumption
    | simp only [keep_mk]
    | with_reducible refine State.endLoop_keep ?_
    | with_reducible refine State.finishTask_keep ?_
    | with_reducible refine State.writeManifest_keep ?_
    | with_reducible refine keep_ite (fun _ => ?_) (fun _ => ?_)
    | with_reducible refine keep_foldl (fun _ _ _ => ?_) ?_

/-- What `State.warmTraffic` keeps. -/
theorem State.warmTraffic_keep {zz s : State} (kp : Keep zz s) :
    Keep zz (State.warmTraffic s) := by
  unfold State.warmTraffic
  repeat' first
    | with_reducible assumption
    | simp only [keep_mk]
    | with_reducible refine State.stopQuay_keep ?_
    | with_reducible refine State.failColl_keep ?_
    | with_reducible refine keep_foldl (fun _ _ _ => ?_) ?_

/-- What `State.warmUnits` keeps. -/
theorem State.warmUnits_keep {zz s : State} (kp : Keep zz s) :
    Keep zz (State.warmUnits s) := by
  unfold State.warmUnits
  repeat' first
    | with_reducible assumption
    | simp only [keep_mk]
    | with_reducible refine State.releaseAll_keep ?_

/-- What `State.beginWarm` keeps. -/
theorem State.beginWarm_keep {zz s : State} (kp : Keep zz s) :
    Keep zz (State.beginWarm s) := by
  unfold State.beginWarm
  repeat' first
    | with_reducible assumption
    | simp only [keep_mk]
    | with_reducible refine State.recordProgress_keep ?_
    | with_reducible refine State.tearPrograms_keep ?_
    | with_reducible refine State.quietly_keep (fun _ _ => ?_) ?_
    | with_reducible refine State.warmWork_keep ?_
    | with_reducible refine State.warmRings_keep ?_
    | with_reducible refine State.warmUnits_keep ?_
    | with_reducible refine State.warmTraffic_keep ?_
    | with_reducible refine State.logEv_keep ?_
    | with_reducible refine keep_ite (fun _ => ?_) (fun _ => ?_)

/-- What `State.dropGen` keeps. -/
theorem State.dropGen_keep {zz s : State} (kp : Keep zz s) :
    Keep zz (State.dropGen s) := by
  unfold State.dropGen
  repeat' first
    | with_reducible assumption
    | simp only [keep_mk]
    | with_reducible refine State.terminate_keep ?_
    | with_reducible refine State.dropModel_keep ?_
    | with_reducible refine State.modEntry_keep ?_
    | with_reducible refine State.setSeq_keep ?_
    | with_reducible refine State.clearMap_keep ?_
    | with_reducible refine State.modModel_keep ?_
    | with_reducible refine keep_ite (fun _ => ?_) (fun _ => ?_)
    | with_reducible refine keep_foldl (fun _ _ _ => ?_) ?_

/-- What `State.dropRegs` keeps. -/
theorem State.dropRegs_keep {zz s : State} (kp : Keep zz s) :
    Keep zz (State.dropRegs s) := by
  unfold State.dropRegs
  repeat' first
    | with_reducible assumption
    | simp only [keep_mk]

/-- What `State.dropVolatile` keeps. -/
theorem State.dropVolatile_keep {zz s : State} (kp : Keep zz s) :
    Keep zz (State.dropVolatile s) := by
  unfold State.dropVolatile
  repeat' first
    | with_reducible assumption
    | simp only [keep_mk]
    | with_reducible refine State.releaseAll_keep ?_
    | with_reducible refine State.dropRegs_keep ?_
    | with_reducible refine State.quietly_keep (fun _ _ => ?_) ?_
    | with_reducible refine State.dropGen_keep ?_

/-- What `execUncommittedTileDiscard` keeps. -/
theorem execUncommittedTileDiscard_keep {tk s : State} (ek : execUncommittedTileDiscard s = .next tk) : Keep s tk := by
  have kp := Keep.refl s
  refine event_keep ek ?_
  repeat' first
    | with_reducible assumption
    | with_reducible refine State.dropVolatile_keep ?_
    | with_reducible refine State.reach_keep ?_
    | with_reducible refine keep_ite (fun _ => ?_) (fun _ => ?_)

/-- What `State.recoverTorn` keeps. -/
theorem State.recoverTorn_keep {zz s : State} (kp : Keep zz s) :
    Keep zz (State.recoverTorn s) := by
  unfold State.recoverTorn
  repeat' first
    | with_reducible assumption
    | simp only [keep_mk]

/-- What `State.makeSystemKey` keeps. -/
theorem State.makeSystemKey_keep {zz s : State} (kp : Keep zz s) :
    Keep zz (State.makeSystemKey s) := by
  unfold State.makeSystemKey
  repeat' first
    | with_reducible assumption
    | simp only [keep_mk]
    | with_reducible refine keep_adv ?_

/-- What `execControlReady` keeps. -/
theorem execControlReady_keep {tk s : State} (ek : execControlReady s = .next tk) : Keep s tk := by
  have kp := Keep.refl s
  refine event_keep ek ?_
  repeat' first
    | with_reducible assumption
    | simp only [keep_mk]
    | with_reducible refine State.reach_keep ?_
    | with_reducible refine State.dropVolatile_keep ?_
    | with_reducible refine State.makeSystemKey_keep ?_
    | with_reducible refine State.draw_keep ?_
    | with_reducible refine State.draw_keep' (by assumption) ?_
    | with_reducible refine State.recoverTorn_keep ?_
    | with_reducible refine State.logWith_keep ?_
    | with_reducible refine keep_ite (fun _ => ?_) (fun _ => ?_)

/-- What `State.resendMoors` keeps. -/
theorem State.resendMoors_keep {zz s : State} (kp : Keep zz s) :
    Keep zz (State.resendMoors s) := by
  unfold State.resendMoors
  repeat' first
    | with_reducible assumption
    | simp only [keep_mk]
    | with_reducible refine State.sendCell_keep ?_
    | with_reducible refine keep_ite (fun _ => ?_) (fun _ => ?_)
    | with_reducible refine keep_foldl (fun _ _ _ => ?_) ?_
    | dsimp only
    | split

/-- What `execPartReady` keeps. -/
theorem execPartReady_keep {tk s : State} (ek : execPartReady s = .next tk) : Keep s tk := by
  have kp := Keep.refl s
  refine event_keep ek ?_
  repeat' first
    | with_reducible assumption
    | simp only [keep_mk]
    | with_reducible refine State.reach_keep ?_
    | with_reducible refine State.resendMoors_keep ?_
    | with_reducible refine State.refreshDegraded_keep ?_
    | with_reducible refine State.logWith_keep ?_
    | with_reducible refine keep_ite (fun _ => ?_) (fun _ => ?_)

/-- What `State.dropGroups` keeps. -/
theorem State.dropGroups_keep {zz s : State} (kp : Keep zz s) :
    Keep zz (State.dropGroups s) := by
  unfold State.dropGroups
  repeat' first
    | with_reducible assumption
    | simp only [keep_mk]

/-- What `State.settleRec` keeps. -/
theorem State.settleRec_keep {zz s : State} {j} (kp : Keep zz s) :
    Keep zz (State.settleRec s j) := by
  unfold State.settleRec
  repeat' first
    | with_reducible assumption
    | simp only [keep_mk]
    | with_reducible refine State.complete_keep ?_
    | with_reducible refine keep_ite (fun _ => ?_) (fun _ => ?_)
    | split

/-- What `State.sendDue` keeps. -/
theorem State.sendDue_keep {zz s : State} (kp : Keep zz s) :
    Keep zz (State.sendDue s) := by
  unfold State.sendDue
  repeat' first
    | with_reducible assumption
    | with_reducible refine State.sendAborts_keep ?_
    | with_reducible refine keep_foldl (fun _ _ _ => ?_) ?_
    | split

/-- What `execJournalSettlement` keeps. -/
theorem execJournalSettlement_keep {tk s : State} (ek : execJournalSettlement s = .next tk) : Keep s tk := by
  have kp := Keep.refl s
  refine event_keep ek ?_
  repeat' first
    | with_reducible assumption
    | simp only [keep_mk]
    | with_reducible refine State.settleRec_keep ?_
    | with_reducible refine State.dropGroups_keep ?_
    | with_reducible refine State.sendDue_keep ?_
    | with_reducible refine keep_ite (fun _ => ?_) (fun _ => ?_)
    | with_reducible refine keep_foldl (fun _ _ _ => ?_) ?_

/-- What `State.resilWarm` keeps. -/
theorem State.resilWarm_keep {zz s : State} {c} (kp : Keep zz s) :
    Keep zz (State.resilWarm s c) := by
  unfold State.resilWarm
  repeat' first
    | with_reducible assumption
    | simp only [keep_mk]
    | with_reducible refine State.beginWarm_keep ?_

/-- What `resilWarmResetBody` keeps. -/
theorem resilWarmResetBody_keep {zz tk s : State} {c} (ek : resilWarmResetBody c s = .ok tk)
    (kp : Keep zz s) : Keep zz tk := by
  revert ek
  suffices KeepE zz (resilWarmResetBody c s) from this tk
  unfold resilWarmResetBody
  repeat' first
    | with_reducible assumption
    | with_reducible refine keepE_ok ?_
    | with_reducible refine State.resilWarm_keep ?_

/-- What `resilWarmResetExpertBody` keeps. -/
theorem resilWarmResetExpertBody_keep {zz tk s : State} {c} (ek : resilWarmResetExpertBody c s = .ok tk)
    (kp : Keep zz s) : Keep zz tk := by
  revert ek
  suffices KeepE zz (resilWarmResetExpertBody c s) from this tk
  unfold resilWarmResetExpertBody
  repeat' first
    | with_reducible assumption
    | with_reducible refine keepE_ok ?_
    | with_reducible refine State.reason_keep ?_
    | with_reducible refine State.resilWarm_keep ?_

/-- What `execWarmReset` keeps. -/
theorem execWarmReset_keep {tk s : State} (ek : execWarmReset s = .next tk) : Keep s tk := by
  have kp := Keep.refl s
  refine event_keep ek ?_
  repeat' first
    | with_reducible assumption
    | with_reducible refine State.beginWarm_keep ?_

/-- What `State.failPart` keeps. -/
theorem State.failPart_keep {zz s : State} (kp : Keep zz s) :
    Keep zz (State.failPart s) := by
  unfold State.failPart
  repeat' first
    | with_reducible assumption
    | simp only [keep_mk]
    | with_reducible refine State.logWith_keep ?_
    | with_reducible refine keep_ite (fun _ => ?_) (fun _ => ?_)

/-- What `State.coreFault` keeps. -/
theorem State.coreFault_keep {zz s : State} (kp : Keep zz s) :
    Keep zz (State.coreFault s) := by
  unfold State.coreFault
  repeat' first
    | with_reducible assumption
    | simp only [keep_mk]
    | with_reducible refine State.beginWarm_keep ?_
    | with_reducible refine State.failPart_keep ?_
    | with_reducible refine keep_ite (fun _ => ?_) (fun _ => ?_)

/-- What `execControlCoreFault` keeps. -/
theorem execControlCoreFault_keep {tk s : State} (ek : execControlCoreFault s = .next tk) : Keep s tk := by
  have kp := Keep.refl s
  refine event_keep ek ?_
  repeat' first
    | with_reducible assumption
    | with_reducible refine State.coreFault_keep ?_

/-- What `execHeartbeatMissing` keeps. -/
theorem execHeartbeatMissing_keep {tk s : State} {kryto} (ek : execHeartbeatMissing kryto s = .next tk) : Keep s tk := by
  have kp := Keep.refl s
  refine event_keep ek ?_
  repeat' first
    | with_reducible assumption
    | simp only [keep_mk]
    | with_reducible refine State.coreFault_keep ?_
    | with_reducible refine State.failPart_keep ?_
    | with_reducible refine keep_ite (fun _ => ?_) (fun _ => ?_)

/-- What `State.loseAll` keeps. -/
theorem State.loseAll_keep {zz s : State} (kp : Keep zz s) : Keep zz (State.loseAll s) := by
  unfold State.loseAll
  extract_lets s1 kept
  have k1 : Keep zz s1 := State.tearPrograms_keep kp
  exact ⟨k1.pend, k1.free, fun i => wf_filter _ (k1.mem i), fun _ => rfl, fun i => filter_rising (k1.poison i),
    (fun _ e he => nomatch he), fun _ => Nat.zero_le _⟩

end Sys2Proof.Machine
end

