-- ==== Sys2Proof/Laws/KeepPower.lean ====
section
/-! SUPPORT. What the definitions of Machine/Power.lean keep (Laws/Keep.lean). -/

namespace Sys2Proof.Machine

open Sys2Proof

/-- What `State.modRail` keeps. -/
theorem State.modRail_keep {zz s : State} {r f} (kp : Keep zz s) :
    Keep zz (State.modRail s r f) := by
  unfold State.modRail
  repeat' first
    | with_reducible assumption
    | simp only [keep_mk]

/-- What `State.modPwr` keeps. -/
theorem State.modPwr_keep {zz s : State} {p f} (kp : Keep zz s) :
    Keep zz (State.modPwr s p f) := by
  unfold State.modPwr
  repeat' first
    | with_reducible assumption
    | simp only [keep_mk]

/-- What `State.countPwr` keeps. -/
theorem State.countPwr_keep {zz s : State} {i} (kp : Keep zz s) :
    Keep zz (State.countPwr s i) := by
  unfold State.countPwr
  repeat' first
    | with_reducible assumption
    | simp only [keep_mk]

/-- What `State.supersede` keeps. -/
theorem State.supersede_keep {zz s : State} {cmd res} (kp : Keep zz s) :
    Keep zz (State.supersede s cmd res) := by
  unfold State.supersede
  repeat' first
    | with_reducible assumption
    | with_reducible refine State.countPwr_keep ?_
    | with_reducible refine State.complete_keep ?_
    | split

/-- What `State.avsSend` keeps. -/
theorem State.avsSend_keep {zz s : State} {r code v} (kp : Keep zz s) :
    Keep zz (State.avsSend s r code v) := by
  unfold State.avsSend
  repeat' first
    | with_reducible assumption
    | simp only [keep_mk]
    | with_reducible refine State.modRail_keep ?_

/-- What `State.setRail` keeps. -/
theorem State.setRail_keep {zz s : State} {r v rate cmd fixed} (kp : Keep zz s) :
    Keep zz (State.setRail s r v rate cmd fixed) := by
  unfold State.setRail
  repeat' first
    | with_reducible assumption
    | simp only [keep_mk]
    | with_reducible refine State.avsSend_keep ?_
    | with_reducible refine State.supersede_keep ?_
    | with_reducible refine State.modRail_keep ?_
    | with_reducible refine keep_ite (fun _ => ?_) (fun _ => ?_)

/-- What `State.followRails` keeps. -/
theorem State.followRails_keep {zz s : State} (kp : Keep zz s) :
    Keep zz (State.followRails s) := by
  unfold State.followRails
  repeat' first
    | with_reducible assumption
    | simp only [keep_mk]
    | with_reducible refine State.setRail_keep ?_
    | with_reducible refine keep_ite (fun _ => ?_) (fun _ => ?_)
    | with_reducible refine keep_foldl (fun _ _ _ => ?_) ?_

/-- What `State.setTeamVolt` keeps. -/
theorem State.setTeamVolt_keep {zz s : State} {p v cmd fixed} (kp : Keep zz s) :
    Keep zz (State.setTeamVolt s p v cmd fixed) := by
  unfold State.setTeamVolt
  repeat' first
    | with_reducible assumption
    | simp only [keep_mk]
    | with_reducible refine State.supersede_keep ?_
    | with_reducible refine State.setRail_keep ?_
    | with_reducible refine State.modPwr_keep ?_
    | with_reducible refine keep_ite (fun _ => ?_) (fun _ => ?_)

/-- What `State.retune` keeps. -/
theorem State.retune_keep {zz s : State} {p} (kp : Keep zz s) :
    Keep zz (State.retune s p) := by
  unfold State.retune
  repeat' first
    | with_reducible assumption
    | simp only [keep_mk]
    | with_reducible refine State.setTeamVolt_keep ?_
    | with_reducible refine keep_ite (fun _ => ?_) (fun _ => ?_)

/-- What `State.retuneAll` keeps. -/
theorem State.retuneAll_keep {zz s : State} (kp : Keep zz s) :
    Keep zz (State.retuneAll s) := by
  unfold State.retuneAll
  repeat' first
    | with_reducible assumption
    | with_reducible refine State.followRails_keep ?_
    | with_reducible refine State.retune_keep ?_
    | with_reducible refine keep_foldl (fun _ _ _ => ?_) ?_

/-- What `State.teamVolt` keeps. -/
theorem State.teamVolt_keep {zz tk s : State} {c auto} (ek : State.teamVolt s c auto = .ok tk)
    (kp : Keep zz s) : Keep zz tk := by
  revert ek
  suffices KeepE zz (State.teamVolt s c auto) from this tk
  unfold State.teamVolt
  repeat' first
    | with_reducible assumption
    | simp only [keep_mk]
    | with_reducible refine keepE_ok ?_
    | with_reducible refine State.ok_keep ?_
    | with_reducible refine State.supersede_keep ?_
    | with_reducible refine State.retune_keep ?_
    | with_reducible refine State.modPwr_keep ?_
    | with_reducible refine State.setTeamVolt_keep ?_
    | with_reducible refine State.followRails_keep ?_
    | with_reducible refine keepE_ite (fun _ => ?_) (fun _ => ?_)
    | with_reducible refine keepE_bind (fun _ _ => ?_)

/-- What `pwrTeamVoltBody` keeps. -/
theorem pwrTeamVoltBody_keep {zz tk s : State} {c} (ek : pwrTeamVoltBody c s = .ok tk)
    (kp : Keep zz s) : Keep zz tk := by
  revert ek
  suffices KeepE zz (pwrTeamVoltBody c s) from this tk
  unfold pwrTeamVoltBody
  repeat' first
    | with_reducible assumption
    | refine fun _ e => State.teamVolt_keep e ?_

/-- What `pwrTeamVoltExpertBody` keeps. -/
theorem pwrTeamVoltExpertBody_keep {zz tk s : State} {c} (ek : pwrTeamVoltExpertBody c s = .ok tk)
    (kp : Keep zz s) : Keep zz tk := by
  revert ek
  suffices KeepE zz (pwrTeamVoltExpertBody c s) from this tk
  unfold pwrTeamVoltExpertBody
  repeat' first
    | with_reducible assumption
    | refine fun _ e => State.teamVolt_keep e ?_

/-- What `State.pwrRail` keeps. -/
theorem State.pwrRail_keep {zz tk s : State} {c rate} (ek : State.pwrRail s c rate = .ok tk)
    (kp : Keep zz s) : Keep zz tk := by
  revert ek
  suffices KeepE zz (State.pwrRail s c rate) from this tk
  unfold State.pwrRail
  repeat' first
    | with_reducible assumption
    | simp only [keep_mk]
    | with_reducible refine keepE_ok ?_
    | with_reducible refine State.setRail_keep ?_
    | with_reducible refine keepE_bind (fun _ _ => ?_)

/-- What `pwrRailSetBody` keeps. -/
theorem pwrRailSetBody_keep {zz tk s : State} {c} (ek : pwrRailSetBody c s = .ok tk)
    (kp : Keep zz s) : Keep zz tk := by
  revert ek
  suffices KeepE zz (pwrRailSetBody c s) from this tk
  unfold pwrRailSetBody
  repeat' first
    | with_reducible assumption
    | refine fun _ e => State.pwrRail_keep e ?_

/-- What `pwrRailSetExpertBody` keeps. -/
theorem pwrRailSetExpertBody_keep {zz tk s : State} {c} (ek : pwrRailSetExpertBody c s = .ok tk)
    (kp : Keep zz s) : Keep zz tk := by
  revert ek
  suffices KeepE zz (pwrRailSetExpertBody c s) from this tk
  unfold pwrRailSetExpertBody
  repeat' first
    | with_reducible assumption
    | refine fun _ e => State.pwrRail_keep e ?_

/-- What `State.atTarget` keeps. -/
theorem State.atTarget_keep {zz s : State} {rail k g} (kp : Keep zz s) :
    Keep zz (State.atTarget s rail k g) := by
  unfold State.atTarget
  repeat' first
    | with_reducible assumption
    | simp only [keep_mk]
    | with_reducible refine State.modPwr_keep ?_
    | with_reducible refine State.complete_keep ?_
    | with_reducible refine State.modRail_keep ?_
    | with_reducible refine keep_ite (fun _ => ?_) (fun _ => ?_)
    | split

/-- What `execRegulatorTargetReached` keeps. -/
theorem execRegulatorTargetReached_keep {tk s : State} {rail k} (ek : execRegulatorTargetReached rail k s = .next tk) : Keep s tk := by
  have kp := Keep.refl s
  refine event_keep ek ?_
  repeat' first
    | with_reducible assumption
    | simp only [keep_mk]
    | with_reducible refine State.atTarget_keep ?_
    | with_reducible refine State.followRails_keep ?_
    | with_reducible refine State.reach_keep ?_
    | with_reducible refine keep_ite (fun _ => ?_) (fun _ => ?_)

/-- What `State.rateLimit` keeps. -/
theorem State.rateLimit_keep {zz tk s : State} {c p} (ek : State.rateLimit s c p = .ok tk)
    (kp : Keep zz s) : Keep zz tk := by
  revert ek
  suffices KeepE zz (State.rateLimit s c p) from this tk
  unfold State.rateLimit
  repeat' first
    | with_reducible assumption
    | simp only [keep_mk]
    | with_reducible refine keepE_ok ?_
    | with_reducible refine State.ok_keep ?_
    | with_reducible refine State.modPaddock_keep ?_
    | with_reducible refine keepE_bind (fun _ _ => ?_)

/-- What `pwrRateLimitBody` keeps. -/
theorem pwrRateLimitBody_keep {zz tk s : State} {c} (ek : pwrRateLimitBody c s = .ok tk)
    (kp : Keep zz s) : Keep zz tk := by
  revert ek
  suffices KeepE zz (pwrRateLimitBody c s) from this tk
  unfold pwrRateLimitBody
  repeat' first
    | with_reducible assumption
    | refine fun _ e => State.rateLimit_keep e ?_
    | with_reducible refine keepE_bind (fun _ _ => ?_)

/-- What `pwrRateLimitExpertBody` keeps. -/
theorem pwrRateLimitExpertBody_keep {zz tk s : State} {c} (ek : pwrRateLimitExpertBody c s = .ok tk)
    (kp : Keep zz s) : Keep zz tk := by
  revert ek
  suffices KeepE zz (pwrRateLimitExpertBody c s) from this tk
  unfold pwrRateLimitExpertBody
  repeat' first
    | with_reducible assumption
    | refine fun _ e => State.rateLimit_keep e ?_
    | with_reducible refine keepE_bind (fun _ _ => ?_)

/-- What `State.recordCap` keeps. -/
theorem State.recordCap_keep {zz s : State} {w cmd noExc} (kp : Keep zz s) :
    Keep zz (State.recordCap s w cmd noExc) := by
  unfold State.recordCap
  repeat' first
    | with_reducible assumption
    | simp only [keep_mk]
    | with_reducible refine State.supersede_keep ?_

/-- What `State.capSet` keeps. -/
theorem State.capSet_keep {zz tk s : State} {c noExc} (ek : State.capSet s c noExc = .ok tk)
    (kp : Keep zz s) : Keep zz tk := by
  revert ek
  suffices KeepE zz (State.capSet s c noExc) from this tk
  unfold State.capSet
  repeat' first
    | with_reducible assumption
    | with_reducible refine keepE_ok ?_
    | with_reducible refine State.recordCap_keep ?_
    | with_reducible refine keepE_bind (fun _ _ => ?_)

/-- What `pwrCapSetBody` keeps. -/
theorem pwrCapSetBody_keep {zz tk s : State} {c} (ek : pwrCapSetBody c s = .ok tk)
    (kp : Keep zz s) : Keep zz tk := by
  revert ek
  suffices KeepE zz (pwrCapSetBody c s) from this tk
  unfold pwrCapSetBody
  repeat' first
    | with_reducible assumption
    | refine fun _ e => State.capSet_keep e ?_

/-- What `pwrCapSetExpertBody` keeps. -/
theorem pwrCapSetExpertBody_keep {zz tk s : State} {c} (ek : pwrCapSetExpertBody c s = .ok tk)
    (kp : Keep zz s) : Keep zz tk := by
  revert ek
  suffices KeepE zz (pwrCapSetExpertBody c s) from this tk
  unfold pwrCapSetExpertBody
  repeat' first
    | with_reducible assumption
    | refine fun _ e => State.capSet_keep e ?_

/-- What `State.engageClamp` keeps. -/
theorem State.engageClamp_keep {zz s : State} (kp : Keep zz s) :
    Keep zz (State.engageClamp s) := by
  unfold State.engageClamp
  repeat' first
    | with_reducible assumption
    | simp only [keep_mk]
    | with_reducible refine State.logEv_keep ?_
    | with_reducible refine State.countPwr_keep ?_
    | with_reducible refine keep_ite (fun _ => ?_) (fun _ => ?_)

/-- What `State.applyCap` keeps. -/
theorem State.applyCap_keep {zz s : State} (kp : Keep zz s) :
    Keep zz (State.applyCap s) := by
  unfold State.applyCap
  repeat' first
    | with_reducible assumption
    | simp only [keep_mk]
    | with_reducible refine State.logEv_keep ?_
    | split

/-- What `State.excursion` keeps. -/
theorem State.excursion_keep {zz s : State} {p} (kp : Keep zz s) :
    Keep zz (State.excursion s p) := by
  unfold State.excursion
  repeat' first
    | with_reducible assumption
    | simp only [keep_mk]
    | with_reducible refine State.countPwr_keep ?_
    | with_reducible refine State.engageClamp_keep ?_
    | with_reducible refine keep_ite (fun _ => ?_) (fun _ => ?_)

/-- What `execCapLoopPeriod` keeps. -/
theorem execCapLoopPeriod_keep {tk s : State} (ek : execCapLoopPeriod s = .next tk) : Keep s tk := by
  have kp := Keep.refl s
  refine event_keep ek ?_
  repeat' first
    | with_reducible assumption
    | simp only [keep_mk]
    | with_reducible refine State.retuneAll_keep ?_
    | with_reducible refine State.reach_keep ?_
    | with_reducible refine State.applyCap_keep ?_
    | with_reducible refine State.excursion_keep ?_
    | with_reducible refine State.complete_keep ?_
    | with_reducible refine keep_ite (fun _ => ?_) (fun _ => ?_)
    | split

/-- What `execExcursionDurationLimit` keeps. -/
theorem execExcursionDurationLimit_keep {tk s : State} (ek : execExcursionDurationLimit s = .next tk) : Keep s tk := by
  have kp := Keep.refl s
  refine event_keep ek ?_
  repeat' first
    | with_reducible assumption
    | with_reducible refine State.engageClamp_keep ?_
    | with_reducible refine State.reach_keep ?_
    | with_reducible refine keep_ite (fun _ => ?_) (fun _ => ?_)
    | split

/-- What `execTeamCurrentSample` keeps. -/
theorem execTeamCurrentSample_keep {tk s : State} {currents} (ek : execTeamCurrentSample currents s = .next tk) : Keep s tk := by
  have kp := Keep.refl s
  refine event_keep ek ?_
  repeat' first
    | with_reducible assumption
    | simp only [keep_mk]
    | with_reducible refine State.modPwr_keep ?_
    | with_reducible refine keep_foldl (fun _ _ _ => ?_) ?_

/-- What `execRailCurrentRead` keeps. -/
theorem execRailCurrentRead_keep {tk s : State} {rail current} (ek : execRailCurrentRead rail current s = .next tk) : Keep s tk := by
  have kp := Keep.refl s
  refine event_keep ek ?_
  repeat' first
    | with_reducible assumption
    | with_reducible refine State.modRail_keep ?_
    | with_reducible refine keep_ite (fun _ => ?_) (fun _ => ?_)

/-- What `State.avsFail` keeps. -/
theorem State.avsFail_keep {zz s : State} {r} (kp : Keep zz s) :
    Keep zz (State.avsFail s r) := by
  unfold State.avsFail
  repeat' first
    | with_reducible assumption
    | simp only [keep_mk]
    | with_reducible refine State.completeAll_keep ?_
    | with_reducible refine State.modPwr_keep ?_
    | with_reducible refine State.modRail_keep ?_
    | with_reducible refine keep_foldl (fun _ _ _ => ?_) ?_

/-- What `State.avsViolation` keeps. -/
theorem State.avsViolation_keep {zz s : State} {r n} (kp : Keep zz s) :
    Keep zz (State.avsViolation s r n) := by
  unfold State.avsViolation
  repeat' first
    | with_reducible assumption
    | simp only [keep_mk]
    | with_reducible refine State.avsFail_keep ?_
    | with_reducible refine State.avsSend_keep ?_
    | with_reducible refine State.checkDegraded_keep ?_
    | with_reducible refine State.logEv_keep ?_
    | with_reducible refine State.countPwr_keep ?_
    | with_reducible refine State.modRail_keep ?_
    | with_reducible refine keep_ite (fun _ => ?_) (fun _ => ?_)
    | split

/-- What `execAvsbusResponse` keeps. -/
theorem execAvsbusResponse_keep {tk s : State} {rail viol volt} (ek : execAvsbusResponse rail viol volt s = .next tk) : Keep s tk := by
  have kp := Keep.refl s
  refine event_keep ek ?_
  repeat' first
    | with_reducible assumption
    | simp only [keep_mk]
    | with_reducible refine State.avsViolation_keep ?_
    | with_reducible refine State.modRail_keep ?_
    | with_reducible refine keep_ite (fun _ => ?_) (fun _ => ?_)
    | split

/-- What `execAvsbusNoResponse` keeps. -/
theorem execAvsbusNoResponse_keep {tk s : State} {rail} (ek : execAvsbusNoResponse rail s = .next tk) : Keep s tk := by
  have kp := Keep.refl s
  refine event_keep ek ?_
  repeat' first
    | with_reducible assumption
    | with_reducible refine State.avsViolation_keep ?_

/-- What `execDroopSlow` keeps. -/
theorem execDroopSlow_keep {tk s : State} {team} (ek : execDroopSlow team s = .next tk) : Keep s tk := by
  have kp := Keep.refl s
  refine event_keep ek ?_
  repeat' first
    | with_reducible assumption
    | with_reducible refine State.countPwr_keep ?_
    | with_reducible refine keep_ite (fun _ => ?_) (fun _ => ?_)

/-- What `execHoldEnter` keeps. -/
theorem execHoldEnter_keep {tk s : State} {team} (ek : execHoldEnter team s = .next tk) : Keep s tk := by
  have kp := Keep.refl s
  refine event_keep ek ?_
  repeat' first
    | with_reducible assumption
    | with_reducible refine State.modPwr_keep ?_
    | with_reducible refine State.countPwr_keep ?_
    | with_reducible refine keep_ite (fun _ => ?_) (fun _ => ?_)

/-- What `execHoldRelease` keeps. -/
theorem execHoldRelease_keep {tk s : State} {team} (ek : execHoldRelease team s = .next tk) : Keep s tk := by
  have kp := Keep.refl s
  refine event_keep ek ?_
  repeat' first
    | with_reducible assumption
    | simp only [keep_mk]
    | with_reducible refine State.modPwr_keep ?_
    | with_reducible refine State.modRail_keep ?_
    | with_reducible refine keep_ite (fun _ => ?_) (fun _ => ?_)
    | split

/-- What `execSupplyHold` keeps. -/
theorem execSupplyHold_keep {tk s : State} {team} (ek : execSupplyHold team s = .next tk) : Keep s tk := by
  have kp := Keep.refl s
  refine event_keep ek ?_
  repeat' first
    | with_reducible assumption
    | simp only [keep_mk]
    | with_reducible refine State.modPhys_keep ?_
    | with_reducible refine State.failTeam_keep ?_
    | with_reducible refine State.reach_keep ?_
    | with_reducible refine State.raise_keep ?_
    | with_reducible refine keep_ite (fun _ => ?_) (fun _ => ?_)
    | split

/-- What `execRailFault` keeps. -/
theorem execRailFault_keep {tk s : State} {rail reported} (ek : execRailFault rail reported s = .next tk) : Keep s tk := by
  have kp := Keep.refl s
  refine event_keep ek ?_
  repeat' first
    | with_reducible assumption
    | simp only [keep_mk]
    | with_reducible refine State.avsSend_keep ?_
    | with_reducible refine State.reach_keep ?_
    | with_reducible refine State.logEv_keep ?_
    | with_reducible refine State.beginWarm_keep ?_
    | with_reducible refine State.countPwr_keep ?_
    | with_reducible refine State.modRail_keep ?_
    | with_reducible refine keep_ite (fun _ => ?_) (fun _ => ?_)

/-- What `execRailFaultTimeout` keeps. -/
theorem execRailFaultTimeout_keep {tk s : State} {rail} (ek : execRailFaultTimeout rail s = .next tk) : Keep s tk := by
  have kp := Keep.refl s
  refine event_keep ek ?_
  repeat' first
    | with_reducible assumption
    | simp only [keep_mk]
    | with_reducible refine State.checkDegraded_keep ?_
    | with_reducible refine State.reach_keep ?_
    | with_reducible refine State.finishTask_keep ?_
    | with_reducible refine State.modRail_keep ?_
    | with_reducible refine keep_ite (fun _ => ?_) (fun _ => ?_)
    | with_reducible refine keep_foldl (fun _ _ _ => ?_) ?_
    | split

/-- What `execRailRestored` keeps. -/
theorem execRailRestored_keep {tk s : State} {rail} (ek : execRailRestored rail s = .next tk) : Keep s tk := by
  have kp := Keep.refl s
  refine event_keep ek ?_
  repeat' first
    | with_reducible assumption
    | with_reducible refine State.checkDegraded_keep ?_
    | with_reducible refine State.modRail_keep ?_
    | with_reducible refine keep_ite (fun _ => ?_) (fun _ => ?_)

/-- What `State.watchTemps` keeps. -/
theorem State.watchTemps_keep {zz s : State} (kp : Keep zz s) :
    Keep zz (State.watchTemps s) := by
  unfold State.watchTemps
  repeat' first
    | with_reducible assumption
    | simp only [keep_mk]

/-- What `execThermalSensorSample` keeps. -/
theorem execThermalSensorSample_keep {tk s : State} {kind k temp} (ek : execThermalSensorSample kind k temp s = .next tk) : Keep s tk := by
  have kp := Keep.refl s
  refine event_keep ek ?_
  repeat' first
    | with_reducible assumption
    | simp only [keep_mk]
    | with_reducible refine State.watchTemps_keep ?_
    | with_reducible refine State.modNvw_keep ?_
    | with_reducible refine State.logEv_keep ?_
    | with_reducible refine State.modPwr_keep ?_
    | with_reducible refine State.modRail_keep ?_
    | with_reducible refine keep_ite (fun _ => ?_) (fun _ => ?_)

/-- What `execThrottlePeriod` keeps. -/
theorem execThrottlePeriod_keep {tk s : State} {team} (ek : execThrottlePeriod team s = .next tk) : Keep s tk := by
  have kp := Keep.refl s
  refine event_keep ek ?_
  repeat' first
    | with_reducible assumption
    | simp only [keep_mk]
    | with_reducible refine State.reach_keep ?_
    | with_reducible refine State.logEv_keep ?_
    | with_reducible refine State.modPwr_keep ?_
    | with_reducible refine State.countPwr_keep ?_
    | with_reducible refine keep_ite (fun _ => ?_) (fun _ => ?_)

/-- What `execThermalClamp` keeps. -/
theorem execThermalClamp_keep {tk s : State} (ek : execThermalClamp s = .next tk) : Keep s tk := by
  have kp := Keep.refl s
  refine event_keep ek ?_
  repeat' first
    | with_reducible assumption
    | simp only [keep_mk]
    | with_reducible refine State.reach_keep ?_
    | with_reducible refine State.countPwr_keep ?_
    | with_reducible refine keep_ite (fun _ => ?_) (fun _ => ?_)
    | split

/-- What `execThermalTrip` keeps. -/
theorem execThermalTrip_keep {tk s : State} (ek : execThermalTrip s = .next tk) : Keep s tk := by
  have kp := Keep.refl s
  refine event_keep ek ?_
  repeat' first
    | with_reducible assumption
    | simp only [keep_mk]
    | with_reducible refine State.reach_keep ?_
    | with_reducible refine State.loseAll_keep ?_
    | with_reducible refine keep_ite (fun _ => ?_) (fun _ => ?_)
    | split

/-- What `State.storeCeil` keeps. -/
theorem State.storeCeil_keep {zz s : State} {p new} (kp : Keep zz s) :
    Keep zz (State.storeCeil s p new) := by
  unfold State.storeCeil
  repeat' first
    | with_reducible assumption
    | simp only [keep_mk]
    | with_reducible refine State.failTeam_keep ?_
    | with_reducible refine State.raise_keep ?_
    | with_reducible refine State.logEv_keep ?_
    | with_reducible refine State.retirePhys_keep ?_
    | with_reducible refine keep_ite (fun _ => ?_) (fun _ => ?_)
    | split

/-- What `State.lowerCeil` keeps. -/
theorem State.lowerCeil_keep {zz s : State} {p slow base} (kp : Keep zz s) :
    Keep zz (State.lowerCeil s p slow base) := by
  unfold State.lowerCeil
  repeat' first
    | with_reducible assumption
    | simp only [keep_mk]
    | with_reducible refine State.storeCeil_keep ?_

/-- What `execReplicaRead` keeps. -/
theorem execReplicaRead_keep {tk s : State} {team slow} (ek : execReplicaRead team slow s = .next tk) : Keep s tk := by
  have kp := Keep.refl s
  refine event_keep ek ?_
  repeat' first
    | with_reducible assumption
    | with_reducible refine State.modPwr_keep ?_
    | with_reducible refine keep_ite (fun _ => ?_) (fun _ => ?_)

/-- What `State.ageTeam` keeps. -/
theorem State.ageTeam_keep {zz s : State} {team} (kp : Keep zz s) :
    Keep zz (State.ageTeam s team) := by
  unfold State.ageTeam
  repeat' first
    | with_reducible assumption
    | simp only [keep_mk]
    | with_reducible refine State.lowerCeil_keep ?_
    | with_reducible refine State.modPwr_keep ?_
    | with_reducible refine keep_ite (fun _ => ?_) (fun _ => ?_)

/-- What `execAgeingCheck` keeps. -/
theorem execAgeingCheck_keep {tk s : State} {team} (ek : execAgeingCheck team s = .next tk) : Keep s tk := by
  have kp := Keep.refl s
  refine event_keep ek ?_
  repeat' first
    | with_reducible assumption
    | extract_lets
    | with_reducible refine State.ageTeam_keep ?_
    | with_reducible refine State.reach_keep ?_
    | with_reducible refine keep_ite (fun _ => ?_) (fun _ => ?_)

/-- What `State.telemetry` keeps. -/
theorem State.telemetry_keep {zz tk s : State} {c teams} (ek : State.telemetry s c teams = .ok tk)
    (kp : Keep zz s) : Keep zz tk := by
  revert ek
  suffices KeepE zz (State.telemetry s c teams) from this tk
  unfold State.telemetry
  repeat' first
    | with_reducible assumption
    | extract_lets
    | with_reducible refine keep_adv ?_
    | with_reducible refine keepE_ok ?_
    | with_reducible refine State.ok_keep ?_
    | with_reducible refine State.writeBuf_keep (by assumption) ?_
    | with_reducible refine keepE_bind (fun _ _ => ?_)

/-- What `pwrTelemetryBody` keeps. -/
theorem pwrTelemetryBody_keep {zz tk s : State} {c} (ek : pwrTelemetryBody c s = .ok tk)
    (kp : Keep zz s) : Keep zz tk := by
  revert ek
  suffices KeepE zz (pwrTelemetryBody c s) from this tk
  unfold pwrTelemetryBody
  repeat' first
    | with_reducible assumption
    | refine fun _ e => State.telemetry_keep e ?_

/-- What `pwrTelemetryExpertBody` keeps. -/
theorem pwrTelemetryExpertBody_keep {zz tk s : State} {c} (ek : pwrTelemetryExpertBody c s = .ok tk)
    (kp : Keep zz s) : Keep zz tk := by
  revert ek
  suffices KeepE zz (pwrTelemetryExpertBody c s) from this tk
  unfold pwrTelemetryExpertBody
  repeat' first
    | with_reducible assumption
    | refine fun _ e => State.telemetry_keep e ?_

/-- What `pwrCeilingQueryBody` keeps. -/
theorem pwrCeilingQueryBody_keep {zz tk s : State} {c} (ek : pwrCeilingQueryBody c s = .ok tk)
    (kp : Keep zz s) : Keep zz tk := by
  revert ek
  suffices KeepE zz (pwrCeilingQueryBody c s) from this tk
  unfold pwrCeilingQueryBody
  repeat' first
    | with_reducible assumption
    | simp only [keep_mk]
    | with_reducible refine keepE_ok ?_
    | with_reducible refine State.writeBuf_keep (by assumption) ?_
    | with_reducible refine State.ok_keep ?_
    | with_reducible refine keepE_bind (fun _ _ => ?_)

/-- What `pwrCeilingQueryExpertBody` keeps. -/
theorem pwrCeilingQueryExpertBody_keep {zz tk s : State} {c} (ek : pwrCeilingQueryExpertBody c s = .ok tk)
    (kp : Keep zz s) : Keep zz tk := by
  revert ek
  suffices KeepE zz (pwrCeilingQueryExpertBody c s) from this tk
  unfold pwrCeilingQueryExpertBody
  repeat' first
    | with_reducible assumption
    | with_reducible refine keepE_ok ?_
    | with_reducible refine State.writeBuf_keep (by assumption) ?_
    | with_reducible refine State.ok_keep ?_
    | with_reducible refine keepE_bind (fun _ _ => ?_)

/-- What `pwrThermalQueryBody` keeps. -/
theorem pwrThermalQueryBody_keep {zz tk s : State} {c} (ek : pwrThermalQueryBody c s = .ok tk)
    (kp : Keep zz s) : Keep zz tk := by
  revert ek
  suffices KeepE zz (pwrThermalQueryBody c s) from this tk
  unfold pwrThermalQueryBody
  repeat' first
    | with_reducible assumption
    | with_reducible refine keepE_ok ?_
    | with_reducible refine State.writeBuf_keep (by assumption) ?_
    | with_reducible refine State.ok_keep ?_
    | with_reducible refine keepE_bind (fun _ _ => ?_)

/-- What `pwrThermalQueryExpertBody` keeps. -/
theorem pwrThermalQueryExpertBody_keep {zz tk s : State} {c} (ek : pwrThermalQueryExpertBody c s = .ok tk)
    (kp : Keep zz s) : Keep zz tk := by
  revert ek
  suffices KeepE zz (pwrThermalQueryExpertBody c s) from this tk
  unfold pwrThermalQueryExpertBody
  repeat' first
    | with_reducible assumption
    | simp only [keep_mk]
    | with_reducible refine keepE_ok ?_
    | with_reducible refine State.ok_keep ?_
    | with_reducible refine State.writeBuf_keep (by assumption) ?_
    | with_reducible refine keepE_bind (fun _ _ => ?_)

end Sys2Proof.Machine
end

