-- ==== Sys2Proof/Laws/KeepQuay.lean ====
section
/-! SUPPORT. What the definitions of Machine/Quay.lean keep (Laws/Keep.lean). -/

namespace Sys2Proof.Machine

open Sys2Proof

/-- What `State.quayDpb` keeps. -/
theorem State.quayDpb_keep {zz tk s : State} {c q len} {xk} (ek : State.quayDpb s c q len = .ok (xk, tk))
    (kp : Keep zz s) : Keep zz tk := by
  suffices KeepP zz (fun a => a.2) (State.quayDpb s c q len) from this _ ek
  unfold State.quayDpb
  repeat' first
    | with_reducible assumption
    | with_reducible refine keepP_ok ?_
    | exact keepP_error
    | with_reducible refine State.allocate_keep (by assumption) ?_
    | with_reducible refine keepP_ite (fun _ => ?_) (fun _ => ?_)
    | with_reducible refine keepP_bind (fun _ _ => ?_)
    | split

/-- What `State.quayOpen` keeps. -/
theorem State.quayOpen_keep {zz tk s : State} {c} (ek : State.quayOpen s c = .ok tk)
    (kp : Keep zz s) : Keep zz tk := by
  revert ek
  suffices KeepE zz (State.quayOpen s c) from this tk
  unfold State.quayOpen
  repeat' first
    | with_reducible assumption
    | simp only [keep_mk]
    | with_reducible refine keepE_ok ?_
    | with_reducible refine State.modStream_keep ?_
    | with_reducible refine State.ok_keep ?_
    | with_reducible refine State.quayDpb_keep (by assumption) ?_
    | with_reducible refine State.pick_keep ?_
    | with_reducible refine keepE_bind (fun _ _ => ?_)
    | with_reducible refine keep_ite (fun _ => ?_) (fun _ => ?_)

/-- What `quaySessionOpenBody` keeps. -/
theorem quaySessionOpenBody_keep {zz tk s : State} {c} (ek : quaySessionOpenBody c s = .ok tk)
    (kp : Keep zz s) : Keep zz tk := by
  revert ek
  suffices KeepE zz (quaySessionOpenBody c s) from this tk
  unfold quaySessionOpenBody
  repeat' first
    | with_reducible assumption
    | refine fun _ e => State.quayOpen_keep e ?_

/-- What `quaySessionOpenExpertBody` keeps. -/
theorem quaySessionOpenExpertBody_keep {zz tk s : State} {c} (ek : quaySessionOpenExpertBody c s = .ok tk)
    (kp : Keep zz s) : Keep zz tk := by
  revert ek
  suffices KeepE zz (quaySessionOpenExpertBody c s) from this tk
  unfold quaySessionOpenExpertBody
  repeat' first
    | with_reducible assumption
    | refine fun _ e => State.quayOpen_keep e ?_

/-- What `State.quayClose` keeps. -/
theorem State.quayClose_keep {zz tk s : State} {c abort} (ek : State.quayClose s c abort = .ok tk)
    (kp : Keep zz s) : Keep zz tk := by
  revert ek
  suffices KeepE zz (State.quayClose s c abort) from this tk
  unfold State.quayClose
  repeat' first
    | with_reducible assumption
    | simp only [keep_mk]
    | with_reducible refine keepE_ok ?_
    | with_reducible refine State.endQuay_keep ?_
    | with_reducible refine State.modQuay_keep ?_
    | with_reducible refine State.ok_keep ?_
    | with_reducible refine State.completeAll_keep ?_
    | with_reducible refine keepE_ite (fun _ => ?_) (fun _ => ?_)
    | with_reducible refine keepE_bind (fun _ _ => ?_)
    | with_reducible refine keep_ite (fun _ => ?_) (fun _ => ?_)

/-- What `quaySessionCloseBody` keeps. -/
theorem quaySessionCloseBody_keep {zz tk s : State} {c} (ek : quaySessionCloseBody c s = .ok tk)
    (kp : Keep zz s) : Keep zz tk := by
  revert ek
  suffices KeepE zz (quaySessionCloseBody c s) from this tk
  unfold quaySessionCloseBody
  repeat' first
    | with_reducible assumption
    | refine fun _ e => State.quayClose_keep e ?_

/-- What `quaySessionCloseExpertBody` keeps. -/
theorem quaySessionCloseExpertBody_keep {zz tk s : State} {c} (ek : quaySessionCloseExpertBody c s = .ok tk)
    (kp : Keep zz s) : Keep zz tk := by
  revert ek
  suffices KeepE zz (quaySessionCloseExpertBody c s) from this tk
  unfold quaySessionCloseExpertBody
  repeat' first
    | with_reducible assumption
    | refine fun _ e => State.quayClose_keep e ?_

/-- What `State.quayCommit` keeps. -/
theorem State.quayCommit_keep {zz tk s : State} {c notBefore} (ek : State.quayCommit s c notBefore = .ok tk)
    (kp : Keep zz s) : Keep zz tk := by
  revert ek
  suffices KeepE zz (State.quayCommit s c notBefore) from this tk
  unfold State.quayCommit
  repeat' first
    | with_reducible assumption
    | simp only [keep_mk]
    | with_reducible refine keepE_ok ?_
    | with_reducible refine State.modQuay_keep ?_
    | with_reducible refine State.complete_keep ?_
    | with_reducible refine keepE_ite (fun _ => ?_) (fun _ => ?_)
    | with_reducible refine keepE_bind (fun _ _ => ?_)
    | split

/-- What `quayFrameCommitBody` keeps. -/
theorem quayFrameCommitBody_keep {zz tk s : State} {c} (ek : quayFrameCommitBody c s = .ok tk)
    (kp : Keep zz s) : Keep zz tk := by
  revert ek
  suffices KeepE zz (quayFrameCommitBody c s) from this tk
  unfold quayFrameCommitBody
  repeat' first
    | with_reducible assumption
    | refine fun _ e => State.quayCommit_keep e ?_

/-- What `quayFrameCommitExpertBody` keeps. -/
theorem quayFrameCommitExpertBody_keep {zz tk s : State} {c} (ek : quayFrameCommitExpertBody c s = .ok tk)
    (kp : Keep zz s) : Keep zz tk := by
  revert ek
  suffices KeepE zz (quayFrameCommitExpertBody c s) from this tk
  unfold quayFrameCommitExpertBody
  repeat' first
    | with_reducible assumption
    | refine fun _ e => State.quayCommit_keep e ?_

/-- What `State.quayAdvance` keeps. -/
theorem State.quayAdvance_keep {zz tk s : State} {c goal} (ek : State.quayAdvance s c goal = .ok tk)
    (kp : Keep zz s) : Keep zz tk := by
  revert ek
  suffices KeepE zz (State.quayAdvance s c goal) from this tk
  unfold State.quayAdvance
  repeat' first
    | with_reducible assumption
    | simp only [keep_mk]
    | with_reducible refine keepE_ok ?_
    | with_reducible refine State.modQuay_keep ?_
    | with_reducible refine State.ok_keep ?_
    | with_reducible refine State.quayStore_keep ?_
    | with_reducible refine keepE_ite (fun _ => ?_) (fun _ => ?_)
    | with_reducible refine keepE_bind (fun _ _ => ?_)

/-- What `quayRingAdvanceBody` keeps. -/
theorem quayRingAdvanceBody_keep {zz tk s : State} {c} (ek : quayRingAdvanceBody c s = .ok tk)
    (kp : Keep zz s) : Keep zz tk := by
  revert ek
  suffices KeepE zz (quayRingAdvanceBody c s) from this tk
  unfold quayRingAdvanceBody
  repeat' first
    | with_reducible assumption
    | refine fun _ e => State.quayAdvance_keep e ?_

/-- What `quayRingAdvanceExpertBody` keeps. -/
theorem quayRingAdvanceExpertBody_keep {zz tk s : State} {c} (ek : quayRingAdvanceExpertBody c s = .ok tk)
    (kp : Keep zz s) : Keep zz tk := by
  revert ek
  suffices KeepE zz (quayRingAdvanceExpertBody c s) from this tk
  unfold quayRingAdvanceExpertBody
  repeat' first
    | with_reducible assumption
    | refine fun _ e => State.quayAdvance_keep e ?_

/-- What `quayQueryBody` keeps. -/
theorem quayQueryBody_keep {zz tk s : State} {c} (ek : quayQueryBody c s = .ok tk)
    (kp : Keep zz s) : Keep zz tk := by
  revert ek
  suffices KeepE zz (quayQueryBody c s) from this tk
  unfold quayQueryBody
  repeat' first
    | with_reducible assumption
    | with_reducible refine keepE_ok ?_
    | with_reducible refine State.writeBuf_keep (by assumption) ?_
    | with_reducible refine State.ok_keep ?_
    | with_reducible refine keepE_bind (fun _ _ => ?_)

/-- What `quayQueryExpertBody` keeps. -/
theorem quayQueryExpertBody_keep {zz tk s : State} {c} (ek : quayQueryExpertBody c s = .ok tk)
    (kp : Keep zz s) : Keep zz tk := by
  revert ek
  suffices KeepE zz (quayQueryExpertBody c s) from this tk
  unfold quayQueryExpertBody
  repeat' first
    | with_reducible assumption
    | simp only [keep_mk]
    | with_reducible refine keepE_ok ?_
    | with_reducible refine State.writeBuf_keep (by assumption) ?_
    | with_reducible refine State.ok_keep ?_
    | with_reducible refine keepE_bind (fun _ _ => ?_)

/-- What `State.takePipe` keeps. -/
theorem State.takePipe_keep {zz s : State} {h q} (kp : Keep zz s) :
    Keep zz (State.takePipe s h q) := by
  unfold State.takePipe
  repeat' first
    | with_reducible assumption
    | simp only [keep_mk]
    | with_reducible refine State.modQuay_keep ?_

/-- What `execFrameStart` keeps. -/
theorem execFrameStart_keep {tk s : State} {session} (ek : execFrameStart session s = .next tk) : Keep s tk := by
  have kp := Keep.refl s
  refine event_keep ek ?_
  repeat' first
    | with_reducible assumption
    | simp only [keep_mk]
    | with_reducible refine State.takePipe_keep ?_
    | with_reducible refine State.complete_keep ?_
    | with_reducible refine State.modQuay_keep ?_
    | with_reducible refine keep_ite (fun _ => ?_) (fun _ => ?_)
    | dsimp only
    | split

/-- What `State.quayRead` keeps. -/
theorem State.quayRead_keep {zz tk s : State} {q n xk} (ek : State.quayRead s q n = some (tk, xk))
    (kp : Keep zz s) : Keep zz tk := by
  induction n generalizing tk xk with
  | zero =>
    injection ek with ek
    injection ek with ek
    exact ek ▸ kp
  | succ n ih =>
    unfold State.quayRead at ek
    split at ek
    · cases ek
    · rename_i s1 bad h1
      split at ek
      · cases ek
      · rename_i s2 r h2
        split at ek
        · cases ek
        · injection ek with ek
          injection ek with ek
          exact ek ▸ State.deliver_keep' h2 (ih h1)

/-- What `State.decoded` keeps. -/
theorem State.decoded_keep {zz s0 : State} {h q r} (kp : Keep zz s0) :
    Keep zz (State.decoded s0 h q r) := by
  unfold State.decoded
  repeat' first
    | with_reducible assumption
    | simp only [keep_mk]
    | with_reducible refine State.endQuay_keep ?_
    | with_reducible refine State.quayRead_keep (by assumption) ?_
    | with_reducible refine State.modQuay_keep ?_
    | with_reducible refine keep_ite (fun _ => ?_) (fun _ => ?_)
    | split

/-- What `State.encoded` keeps. -/
theorem State.encoded_keep {zz s : State} {h q r} (kp : Keep zz s) :
    Keep zz (State.encoded s h q r) := by
  unfold State.encoded
  repeat' first
    | with_reducible assumption
    | simp only [keep_mk]
    | with_reducible refine State.endQuay_keep ?_
    | with_reducible refine State.modQuay_keep ?_
    | with_reducible refine keep_ite (fun _ => ?_) (fun _ => ?_)
    | split

/-- What `execPictureCoded` keeps. -/
theorem execPictureCoded_keep {tk s : State} {session r} (ek : execPictureCoded session r s = .next tk) : Keep s tk := by
  have kp := Keep.refl s
  refine event_keep ek ?_
  repeat' first
    | with_reducible assumption
    | with_reducible refine State.encoded_keep ?_
    | with_reducible refine State.decoded_keep ?_
    | with_reducible refine keep_ite (fun _ => ?_) (fun _ => ?_)
    | split

end Sys2Proof.Machine
end

