-- ==== Sys2Proof/Laws/KeepRein.lean ====
section
/-! SUPPORT. What the definitions of Machine/Rein.lean keep (Laws/Keep.lean). -/

namespace Sys2Proof.Machine

open Sys2Proof

/-- What `State.slotTable` keeps. -/
theorem State.slotTable_keep {zz tk s : State} {c bound a} {xk yk} (ek : State.slotTable s c bound a = .ok (xk, yk, tk))
    (kp : Keep zz s) : Keep zz tk := by
  suffices KeepP zz (fun a => a.2.2) (State.slotTable s c bound a) from this _ ek
  unfold State.slotTable
  repeat' first
    | with_reducible assumption
    | simp only [keep_mk]
    | with_reducible refine keepP_ok ?_
    | with_reducible refine State.allocate_keep (by assumption) ?_
    | with_reducible refine keepP_ite (fun _ => ?_) (fun _ => ?_)
    | with_reducible refine keepP_bind (fun _ _ => ?_)

/-- What `State.layoutRegister` keeps. -/
theorem State.layoutRegister_keep {zz tk s : State} {c table} (ek : State.layoutRegister s c table = .ok tk)
    (kp : Keep zz s) : Keep zz tk := by
  revert ek
  suffices KeepE zz (State.layoutRegister s c table) from this tk
  unfold State.layoutRegister
  repeat' first
    | with_reducible assumption
    | simp only [keep_mk]
    | with_reducible refine keepE_ok ?_
    | with_reducible refine State.slotTable_keep (by assumption) ?_
    | with_reducible refine State.writeSlot_keep ?_
    | with_reducible refine State.ok_keep ?_
    | with_reducible refine State.pick_keep ?_
    | with_reducible refine keepE_bind (fun _ _ => ?_)

/-- What `reinLayoutRegisterBody` keeps. -/
theorem reinLayoutRegisterBody_keep {zz tk s : State} {c} (ek : reinLayoutRegisterBody c s = .ok tk)
    (kp : Keep zz s) : Keep zz tk := by
  revert ek
  suffices KeepE zz (reinLayoutRegisterBody c s) from this tk
  unfold reinLayoutRegisterBody
  repeat' first
    | with_reducible assumption
    | refine fun _ e => State.layoutRegister_keep e ?_

/-- What `reinLayoutRegisterExpertBody` keeps. -/
theorem reinLayoutRegisterExpertBody_keep {zz tk s : State} {c} (ek : reinLayoutRegisterExpertBody c s = .ok tk)
    (kp : Keep zz s) : Keep zz tk := by
  revert ek
  suffices KeepE zz (reinLayoutRegisterExpertBody c s) from this tk
  unfold reinLayoutRegisterExpertBody
  repeat' first
    | with_reducible assumption
    | refine fun _ e => State.layoutRegister_keep e ?_

/-- What `reinLayoutReleaseBody` keeps. -/
theorem reinLayoutReleaseBody_keep {zz tk s : State} {c} (ek : reinLayoutReleaseBody c s = .ok tk)
    (kp : Keep zz s) : Keep zz tk := by
  revert ek
  suffices KeepE zz (reinLayoutReleaseBody c s) from this tk
  unfold reinLayoutReleaseBody
  repeat' first
    | with_reducible assumption
    | with_reducible refine keepE_ok ?_
    | with_reducible refine State.dropLayout_keep ?_
    | with_reducible refine State.ok_keep ?_
    | with_reducible refine keepE_bind (fun _ _ => ?_)

/-- What `reinLayoutReleaseExpertBody` keeps. -/
theorem reinLayoutReleaseExpertBody_keep {zz tk s : State} {c} (ek : reinLayoutReleaseExpertBody c s = .ok tk)
    (kp : Keep zz s) : Keep zz tk := by
  revert ek
  suffices KeepE zz (reinLayoutReleaseExpertBody c s) from this tk
  unfold reinLayoutReleaseExpertBody
  repeat' first
    | with_reducible assumption
    | with_reducible refine keepE_ok ?_
    | with_reducible refine State.dropLayout_keep ?_
    | with_reducible refine State.ok_keep ?_
    | with_reducible refine State.wait_keep ?_
    | with_reducible refine keepE_ite (fun _ => ?_) (fun _ => ?_)
    | with_reducible refine keepE_bind (fun _ _ => ?_)

/-- What `State.reinDrain` keeps. -/
theorem State.reinDrain_keep {zz tk s : State} {c keep} (ek : State.reinDrain s c keep = .ok tk)
    (kp : Keep zz s) : Keep zz tk := by
  revert ek
  suffices KeepE zz (State.reinDrain s c keep) from this tk
  unfold State.reinDrain
  repeat' first
    | with_reducible assumption
    | simp only [keep_mk]
    | with_reducible refine keepE_ok ?_
    | with_reducible refine State.queueCmd_keep ?_
    | with_reducible refine State.modModel_keep ?_
    | with_reducible refine keepE_bind (fun _ _ => ?_)

/-- What `reinDrainBody` keeps. -/
theorem reinDrainBody_keep {zz tk s : State} {c} (ek : reinDrainBody c s = .ok tk)
    (kp : Keep zz s) : Keep zz tk := by
  revert ek
  suffices KeepE zz (reinDrainBody c s) from this tk
  unfold reinDrainBody
  repeat' first
    | with_reducible assumption
    | refine fun _ e => State.reinDrain_keep e ?_

/-- What `reinDrainExpertBody` keeps. -/
theorem reinDrainExpertBody_keep {zz tk s : State} {c} (ek : reinDrainExpertBody c s = .ok tk)
    (kp : Keep zz s) : Keep zz tk := by
  revert ek
  suffices KeepE zz (reinDrainExpertBody c s) from this tk
  unfold reinDrainExpertBody
  repeat' first
    | with_reducible assumption
    | refine fun _ e => State.reinDrain_keep e ?_

/-- What `State.reinPermute` keeps. -/
theorem State.reinPermute_keep {zz tk s : State} {c q held} (ek : State.reinPermute s c q held = .ok tk)
    (kp : Keep zz s) : Keep zz tk := by
  revert ek
  suffices KeepE zz (State.reinPermute s c q held) from this tk
  unfold State.reinPermute
  repeat' first
    | with_reducible assumption
    | simp only [keep_mk]
    | with_reducible refine keepE_ok ?_
    | exact keepE_error
    | exact keepE_fail
    | with_reducible refine State.ok_keep ?_
    | with_reducible refine State.startColl_keep (by assumption) ?_
    | refine fun _ e => State.startColl_keep e ?_
    | with_reducible refine State.abortColl_keep ?_
    | with_reducible refine State.greet_keep ?_
    | with_reducible refine keepE_bind (fun _ _ => ?_)
    | with_reducible refine keepE_ite (fun _ => ?_) (fun _ => ?_)
    | with_reducible refine keep_ite (fun _ => ?_) (fun _ => ?_)
    | dsimp only
    | split

/-- What `execReinPermute` keeps. -/
theorem execReinPermute_keep {tk s : State} {w held} (ek : execReinPermute w held s = .next tk) : Keep s tk := by
  have kp := Keep.refl s
  refine run_keep ek (fun _ _ _ => ?_)
  repeat' first
    | with_reducible assumption
    | refine fun _ e => State.reinPermute_keep e ?_

/-- What `execReinPermuteExpert` keeps. -/
theorem execReinPermuteExpert_keep {tk s : State} {w held} (ek : execReinPermuteExpert w held s = .next tk) : Keep s tk := by
  have kp := Keep.refl s
  refine run_keep ek (fun _ _ _ => ?_)
  repeat' first
    | with_reducible assumption
    | refine fun _ e => State.reinPermute_keep e ?_

/-- What `execPermuteComplete` keeps. -/
theorem execPermuteComplete_keep {tk s : State} {w} (ek : execPermuteComplete w s = .next tk) : Keep s tk := by
  have kp := Keep.refl s
  refine event_keep ek ?_
  repeat' first
    | with_reducible assumption
    | simp only [keep_mk]
    | with_reducible refine State.writeSlot_keep ?_
    | with_reducible refine State.endColl_keep ?_
    | with_reducible refine State.modSlot_keep ?_
    | with_reducible refine keep_ite (fun _ => ?_) (fun _ => ?_)
    | split

/-- What `State.reinResume` keeps. -/
theorem State.reinResume_keep {zz tk s : State} {c mask ready} (ek : State.reinResume s c mask ready = .ok tk)
    (kp : Keep zz s) : Keep zz tk := by
  revert ek
  suffices KeepE zz (State.reinResume s c mask ready) from this tk
  unfold State.reinResume
  repeat' first
    | with_reducible assumption
    | simp only [keep_mk]
    | with_reducible refine keepE_ok ?_
    | exact keepE_error
    | exact keepE_fail
    | with_reducible refine State.modSlot_keep ?_
    | with_reducible refine State.writeSlot_keep ?_
    | with_reducible refine State.activate_keep ?_
    | with_reducible refine State.setSeq_keep ?_
    | with_reducible refine State.modModel_keep ?_
    | with_reducible refine State.freeLoopTask_keep ?_
    | with_reducible refine State.tellMembers_keep ?_
    | with_reducible refine State.build_keep ?_
    | with_reducible refine State.ok_keep ?_
    | with_reducible refine keepE_bind (fun _ _ => ?_)
    | with_reducible refine keepE_ite (fun _ => ?_) (fun _ => ?_)
    | with_reducible refine keep_foldl (fun _ _ _ => ?_) ?_
    | dsimp only
    | split

/-- What `execReinResume` keeps. -/
theorem execReinResume_keep {tk s : State} {w ready} (ek : execReinResume w ready s = .next tk) : Keep s tk := by
  have kp := Keep.refl s
  refine run_keep ek (fun _ _ _ => ?_)
  repeat' first
    | with_reducible assumption
    | refine fun _ e => State.reinResume_keep e ?_

/-- What `execReinResumeExpert` keeps. -/
theorem execReinResumeExpert_keep {tk s : State} {w ready} (ek : execReinResumeExpert w ready s = .next tk) : Keep s tk := by
  have kp := Keep.refl s
  refine run_keep ek (fun _ _ _ => ?_)
  repeat' first
    | with_reducible assumption
    | refine fun _ e => State.reinResume_keep e ?_

/-- What `State.reinRemount` keeps. -/
theorem State.reinRemount_keep {zz tk s : State} {c wait timeout ready} (ek : State.reinRemount s c wait timeout ready = .ok tk)
    (kp : Keep zz s) : Keep zz tk := by
  revert ek
  suffices KeepE zz (State.reinRemount s c wait timeout ready) from this tk
  unfold State.reinRemount
  repeat' first
    | with_reducible assumption
    | simp only [keep_mk]
    | with_reducible refine keepE_ok ?_
    | exact keepE_error
    | with_reducible refine State.wait_keep ?_
    | with_reducible refine State.queueCmd_keep ?_
    | with_reducible refine State.modModel_keep ?_
    | with_reducible refine keepE_ite (fun _ => ?_) (fun _ => ?_)
    | with_reducible refine keepE_bind (fun _ _ => ?_)

/-- What `execReinRemount` keeps. -/
theorem execReinRemount_keep {tk s : State} {w ready} (ek : execReinRemount w ready s = .next tk) : Keep s tk := by
  have kp := Keep.refl s
  refine run_keep ek (fun _ _ _ => ?_)
  repeat' first
    | with_reducible assumption
    | refine fun _ e => State.reinRemount_keep e ?_

/-- What `execReinRemountExpert` keeps. -/
theorem execReinRemountExpert_keep {tk s : State} {w ready} (ek : execReinRemountExpert w ready s = .next tk) : Keep s tk := by
  have kp := Keep.refl s
  refine run_keep ek (fun _ _ _ => ?_)
  repeat' first
    | with_reducible assumption
    | refine fun _ e => State.reinRemount_keep e ?_

/-- What `execRemountOldSlotRelease` keeps. -/
theorem execRemountOldSlotRelease_keep {tk s : State} {model} (ek : execRemountOldSlotRelease model s = .next tk) : Keep s tk := by
  have kp := Keep.refl s
  refine event_keep ek ?_
  repeat' first
    | with_reducible assumption
    | with_reducible refine State.endRemount_keep ?_

/-- What `execRemountWaitTimeout` keeps. -/
theorem execRemountWaitTimeout_keep {tk s : State} {w} (ek : execRemountWaitTimeout w s = .next tk) : Keep s tk := by
  have kp := Keep.refl s
  refine event_keep ek ?_
  repeat' first
    | with_reducible assumption
    | with_reducible refine State.reach_keep ?_
    | split

/-- What `reinQueryBody` keeps. -/
theorem reinQueryBody_keep {zz tk s : State} {c} (ek : reinQueryBody c s = .ok tk)
    (kp : Keep zz s) : Keep zz tk := by
  revert ek
  suffices KeepE zz (reinQueryBody c s) from this tk
  unfold reinQueryBody
  repeat' first
    | with_reducible assumption
    | with_reducible refine keepE_ok ?_
    | with_reducible refine State.writeBuf_keep (by assumption) ?_
    | with_reducible refine State.ok_keep ?_
    | with_reducible refine keepE_bind (fun _ _ => ?_)

/-- What `reinQueryExpertBody` keeps. -/
theorem reinQueryExpertBody_keep {zz tk s : State} {c} (ek : reinQueryExpertBody c s = .ok tk)
    (kp : Keep zz s) : Keep zz tk := by
  revert ek
  suffices KeepE zz (reinQueryExpertBody c s) from this tk
  unfold reinQueryExpertBody
  repeat' first
    | with_reducible assumption
    | simp only [keep_mk]
    | with_reducible refine keepE_ok ?_
    | with_reducible refine State.ok_keep ?_
    | with_reducible refine State.writeBuf_keep (by assumption) ?_
    | with_reducible refine keepE_bind (fun _ _ => ?_)

end Sys2Proof.Machine
end

