-- ==== Sys2Proof/Laws/KeepSelfTest.lean ====
section
/-! SUPPORT. What the definitions of Machine/SelfTest.lean keep (Laws/Keep.lean). -/

namespace Sys2Proof.Machine

open Sys2Proof

/-- What `State.testRun` keeps. -/
theorem State.testRun_keep {zz tk s : State} {c d first count repair seed buf basic} (ek : State.testRun s c d first count repair seed buf basic = .ok tk)
    (kp : Keep zz s) : Keep zz tk := by
  revert ek
  suffices KeepE zz (State.testRun s c d first count repair seed buf basic) from this tk
  unfold State.testRun
  repeat' first
    | with_reducible assumption
    | simp only [keep_mk]
    | with_reducible refine keepE_ok ?_
    | exact keepE_error
    | with_reducible refine keepE_ite (fun _ => ?_) (fun _ => ?_)
    | with_reducible refine keepE_bind (fun _ _ => ?_)

/-- What `selfTestRunBody` keeps. -/
theorem selfTestRunBody_keep {zz tk s : State} {c} (ek : selfTestRunBody c s = .ok tk)
    (kp : Keep zz s) : Keep zz tk := by
  revert ek
  suffices KeepE zz (selfTestRunBody c s) from this tk
  unfold selfTestRunBody
  repeat' first
    | with_reducible assumption
    | refine fun _ e => State.testRun_keep e ?_

/-- What `selfTestRunExpertBody` keeps. -/
theorem selfTestRunExpertBody_keep {zz tk s : State} {c} (ek : selfTestRunExpertBody c s = .ok tk)
    (kp : Keep zz s) : Keep zz tk := by
  revert ek
  suffices KeepE zz (selfTestRunExpertBody c s) from this tk
  unfold selfTestRunExpertBody
  repeat' first
    | with_reducible assumption
    | refine fun _ e => State.testRun_keep e ?_

/-- What `State.testStop` keeps. -/
theorem State.testStop_keep {zz tk s : State} {c} (ek : State.testStop s c = .ok tk)
    (kp : Keep zz s) : Keep zz tk := by
  revert ek
  suffices KeepE zz (State.testStop s c) from this tk
  unfold State.testStop
  repeat' first
    | with_reducible assumption
    | simp only [keep_mk]
    | with_reducible refine keepE_ok ?_
    | exact keepE_error
    | with_reducible refine State.ok_keep ?_
    | with_reducible refine State.stopRun_keep ?_
    | with_reducible refine keepE_bind (fun _ _ => ?_)
    | split

/-- What `selfTestStopBody` keeps. -/
theorem selfTestStopBody_keep {zz tk s : State} {c} (ek : selfTestStopBody c s = .ok tk)
    (kp : Keep zz s) : Keep zz tk := by
  revert ek
  suffices KeepE zz (selfTestStopBody c s) from this tk
  unfold selfTestStopBody
  repeat' first
    | with_reducible assumption
    | refine fun _ e => State.testStop_keep e ?_

/-- What `selfTestStopExpertBody` keeps. -/
theorem selfTestStopExpertBody_keep {zz tk s : State} {c} (ek : selfTestStopExpertBody c s = .ok tk)
    (kp : Keep zz s) : Keep zz tk := by
  revert ek
  suffices KeepE zz (selfTestStopExpertBody c s) from this tk
  unfold selfTestStopExpertBody
  repeat' first
    | with_reducible assumption
    | refine fun _ e => State.testStop_keep e ?_
    | with_reducible refine State.reason_keep ?_

/-- What `selfTestQueryBody` keeps. -/
theorem selfTestQueryBody_keep {zz tk s : State} {c} (ek : selfTestQueryBody c s = .ok tk)
    (kp : Keep zz s) : Keep zz tk := by
  revert ek
  suffices KeepE zz (selfTestQueryBody c s) from this tk
  unfold selfTestQueryBody
  repeat' first
    | with_reducible assumption
    | with_reducible refine keepE_ok ?_
    | with_reducible refine State.writeBuf_keep (by assumption) ?_
    | with_reducible refine State.ok_keep ?_
    | with_reducible refine keepE_bind (fun _ _ => ?_)

/-- What `selfTestQueryExpertBody` keeps. -/
theorem selfTestQueryExpertBody_keep {zz tk s : State} {c} (ek : selfTestQueryExpertBody c s = .ok tk)
    (kp : Keep zz s) : Keep zz tk := by
  revert ek
  suffices KeepE zz (selfTestQueryExpertBody c s) from this tk
  unfold selfTestQueryExpertBody
  repeat' first
    | with_reducible assumption
    | simp only [keep_mk]
    | with_reducible refine keepE_ok ?_
    | with_reducible refine State.writeBuf_keep (by assumption) ?_
    | with_reducible refine State.ok_keep ?_
    | with_reducible refine keepE_bind (fun _ _ => ?_)

/-- What `State.returnTeam` keeps. -/
theorem State.returnTeam_keep {zz s : State} {p} (kp : Keep zz s) :
    Keep zz (State.returnTeam s p) := by
  unfold State.returnTeam
  repeat' first
    | with_reducible assumption
    | simp only [keep_mk]
    | with_reducible refine State.modTeam_keep ?_
    | with_reducible refine State.modPhys_keep ?_
    | split

/-- What `State.teamFate` keeps. -/
theorem State.teamFate_keep {zz s : State} {p field pass} (kp : Keep zz s) :
    Keep zz (State.teamFate s p field pass) := by
  unfold State.teamFate
  repeat' first
    | with_reducible assumption
    | with_reducible refine State.modPhys_keep ?_
    | with_reducible refine State.failTeam_keep ?_
    | with_reducible refine State.returnTeam_keep ?_
    | with_reducible refine State.retirePhys_keep ?_
    | with_reducible refine keep_ite (fun _ => ?_) (fun _ => ?_)
    | split

/-- What `State.restoreChannel` keeps. -/
theorem State.restoreChannel_keep {zz s : State} {ch} (kp : Keep zz s) :
    Keep zz (State.restoreChannel s ch) := by
  unfold State.restoreChannel
  repeat' first
    | with_reducible assumption
    | simp only [keep_mk]
    | with_reducible refine State.modChan_keep ?_
    | with_reducible refine State.checkDegraded_keep ?_

/-- What `State.wipeScratch` keeps. -/
theorem State.wipeScratch_keep {s0 s : State} {p} (h : Keep s0 s) : Keep s0 (State.wipeScratch s p) :=
  ⟨h.pend, h.free, h.mem, fun i => wf_filter _ (h.scratch i), h.poison, h.rings, h.log⟩

/-- What `execTestIndexComplete` keeps. -/
theorem execTestIndexComplete_keep {tk s : State} {w index sig errors repairs ceiling dur} (ek : execTestIndexComplete w index sig errors repairs ceiling dur s = .next tk) : Keep s tk := by
  have kp := Keep.refl s
  refine event_keep ek ?_
  repeat' first
    | with_reducible assumption
    | simp only [keep_mk]
    | with_reducible refine State.wipeScratch_keep ?_
    | with_reducible refine State.putRec_keep ?_
    | with_reducible refine State.modRun_keep ?_
    | with_reducible refine State.logEv_keep ?_
    | with_reducible refine State.lowerCeil_keep ?_
    | with_reducible refine State.teamFate_keep ?_
    | with_reducible refine State.endRun_keep ?_
    | with_reducible refine State.restoreChannel_keep ?_
    | with_reducible refine keep_ite (fun _ => ?_) (fun _ => ?_)
    | dsimp only
    | split

/-- What `State.beginField` keeps. -/
theorem State.beginField_keep {zz s : State} {phys} (kp : Keep zz s) :
    Keep zz (State.beginField s phys) := by
  unfold State.beginField
  repeat' first
    | with_reducible assumption
    | simp only [keep_mk]
    | with_reducible refine State.modPhys_keep ?_

/-- What `execFieldTestStart` keeps. -/
theorem execFieldTestStart_keep {tk s : State} {phys} (ek : execFieldTestStart phys s = .next tk) : Keep s tk := by
  have kp := Keep.refl s
  refine event_keep ek ?_
  repeat' first
    | with_reducible assumption
    | extract_lets
    | with_reducible refine State.beginField_keep ?_
    | with_reducible refine State.reach_keep ?_
    | with_reducible refine keep_ite (fun _ => ?_) (fun _ => ?_)
    | split

/-- What `State.channelRestore` keeps. -/
theorem State.channelRestore_keep {zz tk s : State} {c soft} (ek : State.channelRestore s c soft = .ok tk)
    (kp : Keep zz s) : Keep zz tk := by
  revert ek
  suffices KeepE zz (State.channelRestore s c soft) from this tk
  unfold State.channelRestore
  repeat' first
    | with_reducible assumption
    | simp only [keep_mk]
    | with_reducible refine keepE_ok ?_
    | exact keepE_error
    | with_reducible refine keepE_ite (fun _ => ?_) (fun _ => ?_)
    | with_reducible refine keepE_bind (fun _ _ => ?_)

/-- What `selfChannelRestoreBody` keeps. -/
theorem selfChannelRestoreBody_keep {zz tk s : State} {c} (ek : selfChannelRestoreBody c s = .ok tk)
    (kp : Keep zz s) : Keep zz tk := by
  revert ek
  suffices KeepE zz (selfChannelRestoreBody c s) from this tk
  unfold selfChannelRestoreBody
  repeat' first
    | with_reducible assumption
    | refine fun _ e => State.channelRestore_keep e ?_

/-- What `selfChannelRestoreExpertBody` keeps. -/
theorem selfChannelRestoreExpertBody_keep {zz tk s : State} {c} (ek : selfChannelRestoreExpertBody c s = .ok tk)
    (kp : Keep zz s) : Keep zz tk := by
  revert ek
  suffices KeepE zz (selfChannelRestoreExpertBody c s) from this tk
  unfold selfChannelRestoreExpertBody
  repeat' first
    | with_reducible assumption
    | refine fun _ e => State.channelRestore_keep e ?_

/-- What `State.startMargin` keeps. -/
theorem State.startMargin_keep {zz tk s : State} {c kind index buf lanes volt n} (ek : State.startMargin s c kind index buf lanes volt n = .ok tk)
    (kp : Keep zz s) : Keep zz tk := by
  revert ek
  suffices KeepE zz (State.startMargin s c kind index buf lanes volt n) from this tk
  unfold State.startMargin
  repeat' first
    | with_reducible assumption
    | simp only [keep_mk]
    | with_reducible refine keepE_ok ?_
    | with_reducible refine keepE_bind (fun _ _ => ?_)

/-- What `State.marginHbm` keeps. -/
theorem State.marginHbm_keep {zz tk s : State} {c dirs} (ek : State.marginHbm s c dirs = .ok tk)
    (kp : Keep zz s) : Keep zz tk := by
  revert ek
  suffices KeepE zz (State.marginHbm s c dirs) from this tk
  unfold State.marginHbm
  repeat' first
    | with_reducible assumption
    | exact keepE_error
    | refine fun _ e => State.startMargin_keep e ?_
    | with_reducible refine keepE_ite (fun _ => ?_) (fun _ => ?_)
    | with_reducible refine keepE_bind (fun _ _ => ?_)

/-- What `selfMarginHbmBody` keeps. -/
theorem selfMarginHbmBody_keep {zz tk s : State} {c} (ek : selfMarginHbmBody c s = .ok tk)
    (kp : Keep zz s) : Keep zz tk := by
  revert ek
  suffices KeepE zz (selfMarginHbmBody c s) from this tk
  unfold selfMarginHbmBody
  repeat' first
    | with_reducible assumption
    | refine fun _ e => State.marginHbm_keep e ?_

/-- What `selfMarginHbmExpertBody` keeps. -/
theorem selfMarginHbmExpertBody_keep {zz tk s : State} {c} (ek : selfMarginHbmExpertBody c s = .ok tk)
    (kp : Keep zz s) : Keep zz tk := by
  revert ek
  suffices KeepE zz (selfMarginHbmExpertBody c s) from this tk
  unfold selfMarginHbmExpertBody
  repeat' first
    | with_reducible assumption
    | refine fun _ e => State.marginHbm_keep e ?_

/-- What `State.marginLane` keeps. -/
theorem State.marginLane_keep {zz tk s : State} {c mask ratio} (ek : State.marginLane s c mask ratio = .ok tk)
    (kp : Keep zz s) : Keep zz tk := by
  revert ek
  suffices KeepE zz (State.marginLane s c mask ratio) from this tk
  unfold State.marginLane
  repeat' first
    | with_reducible assumption
    | simp only [keep_mk]
    | refine fun _ e => State.startMargin_keep e ?_
    | with_reducible refine keepE_bind (fun _ _ => ?_)

/-- What `selfMarginLaneBody` keeps. -/
theorem selfMarginLaneBody_keep {zz tk s : State} {c} (ek : selfMarginLaneBody c s = .ok tk)
    (kp : Keep zz s) : Keep zz tk := by
  revert ek
  suffices KeepE zz (selfMarginLaneBody c s) from this tk
  unfold selfMarginLaneBody
  repeat' first
    | with_reducible assumption
    | refine fun _ e => State.marginLane_keep e ?_

/-- What `selfMarginLaneExpertBody` keeps. -/
theorem selfMarginLaneExpertBody_keep {zz tk s : State} {c} (ek : selfMarginLaneExpertBody c s = .ok tk)
    (kp : Keep zz s) : Keep zz tk := by
  revert ek
  suffices KeepE zz (selfMarginLaneExpertBody c s) from this tk
  unfold selfMarginLaneExpertBody
  repeat' first
    | with_reducible assumption
    | refine fun _ e => State.marginLane_keep e ?_

/-- What `State.marginTeam` keeps. -/
theorem State.marginTeam_keep {zz tk s : State} {c volt} (ek : State.marginTeam s c volt = .ok tk)
    (kp : Keep zz s) : Keep zz tk := by
  revert ek
  suffices KeepE zz (State.marginTeam s c volt) from this tk
  unfold State.marginTeam
  repeat' first
    | with_reducible assumption
    | refine fun _ e => State.startMargin_keep e ?_
    | with_reducible refine keepE_bind (fun _ _ => ?_)

/-- What `selfMarginTeamBody` keeps. -/
theorem selfMarginTeamBody_keep {zz tk s : State} {c} (ek : selfMarginTeamBody c s = .ok tk)
    (kp : Keep zz s) : Keep zz tk := by
  revert ek
  suffices KeepE zz (selfMarginTeamBody c s) from this tk
  unfold selfMarginTeamBody
  repeat' first
    | with_reducible assumption
    | refine fun _ e => State.marginTeam_keep e ?_

/-- What `selfMarginTeamExpertBody` keeps. -/
theorem selfMarginTeamExpertBody_keep {zz tk s : State} {c} (ek : selfMarginTeamExpertBody c s = .ok tk)
    (kp : Keep zz s) : Keep zz tk := by
  revert ek
  suffices KeepE zz (selfMarginTeamExpertBody c s) from this tk
  unfold selfMarginTeamExpertBody
  repeat' first
    | with_reducible assumption
    | refine fun _ e => State.marginTeam_keep e ?_
    | with_reducible refine keepE_bind (fun _ _ => ?_)

/-- What `State.guardCeil` keeps. -/
theorem State.guardCeil_keep {zz s : State} {p old new} (kp : Keep zz s) :
    Keep zz (State.guardCeil s p old new) := by
  unfold State.guardCeil
  repeat' first
    | with_reducible assumption
    | simp only [keep_mk]
    | with_reducible refine State.storeCeil_keep ?_

/-- What `execMarginingComplete` keeps. -/
theorem execMarginingComplete_keep {tk s : State} {w vals} (ek : execMarginingComplete w vals s = .next tk) : Keep s tk := by
  have kp := Keep.refl s
  refine event_keep ek ?_
  repeat' first
    | with_reducible assumption
    | simp only [keep_mk]
    | with_reducible refine State.modChan_keep ?_
    | with_reducible refine State.guardCeil_keep ?_
    | with_reducible refine State.lateWrite_keep ?_
    | with_reducible refine State.complete_keep ?_
    | with_reducible refine keep_ite (fun _ => ?_) (fun _ => ?_)
    | split

/-- What `execLaneMarginingAtReceiver` keeps. -/
theorem execLaneMarginingAtReceiver_keep {tk s : State} {lane on} (ek : execLaneMarginingAtReceiver lane on s = .next tk) : Keep s tk := by
  have kp := Keep.refl s
  refine event_keep ek ?_
  repeat' first
    | with_reducible assumption
    | simp only [keep_mk]
    | with_reducible refine State.completeAll_keep ?_
    | with_reducible refine keep_ite (fun _ => ?_) (fun _ => ?_)

/-- What `State.partIdSet` keeps. -/
theorem State.partIdSet_keep {zz tk s : State} {c change} (ek : State.partIdSet s c change = .ok tk)
    (kp : Keep zz s) : Keep zz tk := by
  revert ek
  suffices KeepE zz (State.partIdSet s c change) from this tk
  unfold State.partIdSet
  repeat' first
    | with_reducible assumption
    | simp only [keep_mk]
    | with_reducible refine keepE_ok ?_
    | with_reducible refine State.ok_keep ?_
    | with_reducible refine keepE_bind (fun _ _ => ?_)

/-- What `selfPartIdSetBody` keeps. -/
theorem selfPartIdSetBody_keep {zz tk s : State} {c} (ek : selfPartIdSetBody c s = .ok tk)
    (kp : Keep zz s) : Keep zz tk := by
  revert ek
  suffices KeepE zz (selfPartIdSetBody c s) from this tk
  unfold selfPartIdSetBody
  repeat' first
    | with_reducible assumption
    | refine fun _ e => State.partIdSet_keep e ?_

/-- What `selfPartIdSetExpertBody` keeps. -/
theorem selfPartIdSetExpertBody_keep {zz tk s : State} {c} (ek : selfPartIdSetExpertBody c s = .ok tk)
    (kp : Keep zz s) : Keep zz tk := by
  revert ek
  suffices KeepE zz (selfPartIdSetExpertBody c s) from this tk
  unfold selfPartIdSetExpertBody
  repeat' first
    | with_reducible assumption
    | refine fun _ e => State.partIdSet_keep e ?_

end Sys2Proof.Machine
end

