-- ==== Sys2Proof/Laws/KeepSession.lean ====
section
/-! SUPPORT. What the definitions of Machine/Session.lean keep (Laws/Keep.lean). -/

namespace Sys2Proof.Machine

open Sys2Proof

/-- What `State.identityRecord` keeps. -/
theorem State.identityRecord_keep {zz s : State} (kp : Keep zz s) :
    Keep zz (State.identityRecord s).2 := by
  unfold State.identityRecord
  repeat' first
    | with_reducible assumption
    | simp only [keep_mk]
    | with_reducible refine State.draw_keep ?_

/-- What the answer of `State.identityRecord` keeps. -/
theorem State.identityRecord_keep' {zz tk s : State} {xk} (ek : State.identityRecord s = (xk, tk))
    (kp : Keep zz s) : Keep zz tk := by
  have := State.identityRecord_keep (kp)
  rwa [ek] at this

/-- What `partIdentifyBody` keeps. -/
theorem partIdentifyBody_keep {zz tk s : State} {c} (ek : partIdentifyBody c s = .ok tk)
    (kp : Keep zz s) : Keep zz tk := by
  revert ek
  suffices KeepE zz (partIdentifyBody c s) from this tk
  unfold partIdentifyBody
  repeat' first
    | with_reducible assumption
    | with_reducible refine keepE_ok ?_
    | with_reducible refine State.ok_keep ?_

/-- What `partIdentifyExpertBody` keeps. -/
theorem partIdentifyExpertBody_keep {zz tk s : State} {c} (ek : partIdentifyExpertBody c s = .ok tk)
    (kp : Keep zz s) : Keep zz tk := by
  revert ek
  suffices KeepE zz (partIdentifyExpertBody c s) from this tk
  unfold partIdentifyExpertBody
  repeat' first
    | with_reducible assumption
    | simp only [keep_mk]
    | with_reducible refine keepE_ok ?_
    | with_reducible refine State.writeBuf_keep (by assumption) ?_
    | with_reducible refine State.ok_keep ?_
    | with_reducible refine State.identityRecord_keep ?_
    | with_reducible refine keepE_bind (fun _ _ => ?_)

/-- What `State.challenge` keeps. -/
theorem State.challenge_keep {zz tk s : State} {c expert} (ek : State.challenge s c expert = .ok tk)
    (kp : Keep zz s) : Keep zz tk := by
  revert ek
  suffices KeepE zz (State.challenge s c expert) from this tk
  unfold State.challenge
  repeat' first
    | with_reducible assumption
    | simp only [keep_mk]
    | with_reducible refine keepE_ok ?_
    | with_reducible refine State.ok_keep ?_
    | with_reducible refine State.writeBuf_keep (by assumption) ?_
    | with_reducible refine State.drawBytes_keep ?_
    | with_reducible refine State.modFn_keep ?_
    | with_reducible refine State.pick_keep ?_
    | with_reducible refine keepE_bind (fun _ _ => ?_)

/-- What `sessionChallengeBody` keeps. -/
theorem sessionChallengeBody_keep {zz tk s : State} {c} (ek : sessionChallengeBody c s = .ok tk)
    (kp : Keep zz s) : Keep zz tk := by
  revert ek
  suffices KeepE zz (sessionChallengeBody c s) from this tk
  unfold sessionChallengeBody
  repeat' first
    | with_reducible assumption
    | refine fun _ e => State.challenge_keep e ?_

/-- What `sessionChallengeExpertBody` keeps. -/
theorem sessionChallengeExpertBody_keep {zz tk s : State} {c} (ek : sessionChallengeExpertBody c s = .ok tk)
    (kp : Keep zz s) : Keep zz tk := by
  revert ek
  suffices KeepE zz (sessionChallengeExpertBody c s) from this tk
  unfold sessionChallengeExpertBody
  repeat' first
    | with_reducible assumption
    | refine fun _ e => State.challenge_keep e ?_

/-- What `State.authFailed` keeps. -/
theorem State.authFailed_keep {zz s : State} {f} (kp : Keep zz s) :
    Keep zz (State.authFailed s f) := by
  unfold State.authFailed
  repeat' first
    | with_reducible assumption
    | simp only [keep_mk]
    | with_reducible refine State.modFn_keep ?_
    | with_reducible refine State.logEv_keep ?_
    | with_reducible refine keep_ite (fun _ => ?_) (fun _ => ?_)

/-- What `State.attachRegions` keeps. -/
theorem State.attachRegions_keep {zz s : State} {p} (kp : Keep zz s) :
    Keep zz (State.attachRegions s p) := by
  unfold State.attachRegions
  repeat' first
    | with_reducible assumption
    | simp only [keep_mk]
    | with_reducible refine State.modPaddock_keep ?_
    | with_reducible refine keep_ite (fun _ => ?_) (fun _ => ?_)
    | split

/-- What `State.countOpen` keeps. -/
theorem State.countOpen_keep {zz s : State} {f} (kp : Keep zz s) :
    Keep zz (State.countOpen s f) := by
  unfold State.countOpen
  repeat' first
    | with_reducible assumption
    | with_reducible refine State.modFn_keep ?_

/-- What `State.openSession` keeps. -/
theorem State.openSession_keep {zz s : State} {c n initSeq mask} (kp : Keep zz s) :
    Keep zz (State.openSession s c n initSeq mask) := by
  unfold State.openSession
  repeat' first
    | with_reducible assumption
    | simp only [keep_mk]
    | with_reducible refine State.attachRegions_keep ?_
    | with_reducible refine State.modRing_keep (fun _ hb => ?_) ?_
    | exact hb
    | with_reducible refine State.ok_keep ?_
    | with_reducible refine State.modPaddock_keep ?_
    | with_reducible refine State.modFn_keep ?_
    | with_reducible refine keep_ite (fun _ => ?_) (fun _ => ?_)
    | with_reducible refine keep_foldl (fun _ _ _ => ?_) ?_

/-- What `State.sessionOpen` keeps. -/
theorem State.sessionOpen_keep {zz s0 : State} {c mask} (kp : Keep zz s0) :
    Keep zz (State.sessionOpen s0 c mask) := by
  unfold State.sessionOpen
  repeat' first
    | with_reducible assumption
    | simp only [keep_mk]
    | with_reducible refine State.countOpen_keep ?_
    | with_reducible refine State.authFailed_keep ?_
    | with_reducible refine State.modFn_keep ?_
    | with_reducible refine State.complete_keep ?_
    | with_reducible refine State.openSession_keep ?_
    | with_reducible refine keep_ite (fun _ => ?_) (fun _ => ?_)
    | split

/-- What `sessionOpenBody` keeps. -/
theorem sessionOpenBody_keep {zz tk s : State} {c} (ek : sessionOpenBody c s = .ok tk)
    (kp : Keep zz s) : Keep zz tk := by
  revert ek
  suffices KeepE zz (sessionOpenBody c s) from this tk
  unfold sessionOpenBody
  repeat' first
    | with_reducible assumption
    | with_reducible refine keepE_ok ?_
    | with_reducible refine State.sessionOpen_keep ?_

/-- What `sessionOpenExpertBody` keeps. -/
theorem sessionOpenExpertBody_keep {zz tk s : State} {c} (ek : sessionOpenExpertBody c s = .ok tk)
    (kp : Keep zz s) : Keep zz tk := by
  revert ek
  suffices KeepE zz (sessionOpenExpertBody c s) from this tk
  unfold sessionOpenExpertBody
  repeat' first
    | with_reducible assumption
    | with_reducible refine keepE_ok ?_
    | with_reducible refine State.sessionOpen_keep ?_

/-- What `State.awaitClose` keeps. -/
theorem State.awaitClose_keep {zz s : State} {c} (kp : Keep zz s) :
    Keep zz (State.awaitClose s c) := by
  unfold State.awaitClose
  repeat' first
    | with_reducible assumption
    | simp only [keep_mk]
    | with_reducible refine State.wait_keep ?_

/-- What `sessionCloseBody` keeps. -/
theorem sessionCloseBody_keep {zz tk s : State} {c} (ek : sessionCloseBody c s = .ok tk)
    (kp : Keep zz s) : Keep zz tk := by
  revert ek
  suffices KeepE zz (sessionCloseBody c s) from this tk
  unfold sessionCloseBody
  repeat' first
    | with_reducible assumption
    | simp only [keep_mk]
    | with_reducible refine keepE_ok ?_
    | exact keepE_error
    | exact keepE_fail
    | with_reducible refine State.ok_keep ?_
    | with_reducible refine State.awaitClose_keep ?_

/-- What `sessionCloseExpertBody` keeps. -/
theorem sessionCloseExpertBody_keep {zz tk s : State} {c} (ek : sessionCloseExpertBody c s = .ok tk)
    (kp : Keep zz s) : Keep zz tk := by
  revert ek
  suffices KeepE zz (sessionCloseExpertBody c s) from this tk
  unfold sessionCloseExpertBody
  repeat' first
    | with_reducible assumption
    | simp only [keep_mk]
    | with_reducible refine keepE_ok ?_
    | exact keepE_error
    | exact keepE_fail
    | with_reducible refine State.completeAll_keep ?_
    | with_reducible refine State.ok_keep ?_
    | with_reducible refine State.progress_keep ?_
    | with_reducible refine State.awaitClose_keep ?_

/-- What `State.cmdCancel` keeps. -/
theorem State.cmdCancel_keep {zz tk s : State} {c expert} (ek : State.cmdCancel s c expert = .ok tk)
    (kp : Keep zz s) : Keep zz tk := by
  revert ek
  suffices KeepE zz (State.cmdCancel s c expert) from this tk
  unfold State.cmdCancel
  repeat' first
    | with_reducible assumption
    | simp only [keep_mk]
    | with_reducible refine keepE_ok ?_
    | exact keepE_error
    | with_reducible refine State.ok_keep ?_
    | with_reducible refine State.complete_keep ?_
    | with_reducible refine keepE_ite (fun _ => ?_) (fun _ => ?_)
    | split

/-- What `cmdCancelBody` keeps. -/
theorem cmdCancelBody_keep {zz tk s : State} {c} (ek : cmdCancelBody c s = .ok tk)
    (kp : Keep zz s) : Keep zz tk := by
  revert ek
  suffices KeepE zz (cmdCancelBody c s) from this tk
  unfold cmdCancelBody
  repeat' first
    | with_reducible assumption
    | refine fun _ e => State.cmdCancel_keep e ?_

/-- What `cmdCancelExpertBody` keeps. -/
theorem cmdCancelExpertBody_keep {zz tk s : State} {c} (ek : cmdCancelExpertBody c s = .ok tk)
    (kp : Keep zz s) : Keep zz tk := by
  revert ek
  suffices KeepE zz (cmdCancelExpertBody c s) from this tk
  unfold cmdCancelExpertBody
  repeat' first
    | with_reducible assumption
    | refine fun _ e => State.cmdCancel_keep e ?_

/-- What `State.takeOutcomes` keeps. -/
theorem State.takeOutcomes_keep {zz s : State} {f os} (kp : Keep zz s) :
    Keep zz (State.takeOutcomes s f os) := by
  unfold State.takeOutcomes
  repeat' first
    | with_reducible assumption
    | simp only [keep_mk]
    | with_reducible refine State.modRing_keep (fun _ hb => ?_) ?_
    | (unfold Ring.bounded at *; dsimp only; omega)
    | with_reducible refine State.modFn_keep ?_
    | with_reducible refine keep_foldl (fun _ _ _ => ?_) ?_

/-- What `State.workQuery` keeps. -/
theorem State.workQuery_keep {zz tk s : State} {c os det} (ek : State.workQuery s c os det = .ok tk)
    (kp : Keep zz s) : Keep zz tk := by
  revert ek
  suffices KeepE zz (State.workQuery s c os det) from this tk
  unfold State.workQuery
  repeat' first
    | with_reducible assumption
    | with_reducible refine keepE_ok ?_
    | with_reducible refine State.writeBuf_keep (by assumption) ?_
    | with_reducible refine State.ok_keep ?_
    | with_reducible refine State.takeOutcomes_keep ?_
    | with_reducible refine keepE_bind (fun _ _ => ?_)

/-- What `workQueryBody` keeps. -/
theorem workQueryBody_keep {zz tk s : State} {c} (ek : workQueryBody c s = .ok tk)
    (kp : Keep zz s) : Keep zz tk := by
  revert ek
  suffices KeepE zz (workQueryBody c s) from this tk
  unfold workQueryBody
  repeat' first
    | with_reducible assumption
    | refine fun _ e => State.workQuery_keep e ?_

/-- What `workQueryExpertBody` keeps. -/
theorem workQueryExpertBody_keep {zz tk s : State} {c} (ek : workQueryExpertBody c s = .ok tk)
    (kp : Keep zz s) : Keep zz tk := by
  revert ek
  suffices KeepE zz (workQueryExpertBody c s) from this tk
  unfold workQueryExpertBody
  repeat' first
    | with_reducible assumption
    | simp only [keep_mk]
    | refine fun _ e => State.workQuery_keep e ?_
    | with_reducible refine keepE_bind (fun _ _ => ?_)

/-- What `nopBody` keeps. -/
theorem nopBody_keep {zz tk s : State} {c} (ek : nopBody c s = .ok tk)
    (kp : Keep zz s) : Keep zz tk := by
  revert ek
  suffices KeepE zz (nopBody c s) from this tk
  unfold nopBody
  repeat' first
    | with_reducible assumption
    | with_reducible refine keepE_ok ?_
    | with_reducible refine State.ok_keep ?_

/-- What `nopExpertBody` keeps. -/
theorem nopExpertBody_keep {zz tk s : State} {c} (ek : nopExpertBody c s = .ok tk)
    (kp : Keep zz s) : Keep zz tk := by
  revert ek
  suffices KeepE zz (nopExpertBody c s) from this tk
  unfold nopExpertBody
  repeat' first
    | with_reducible assumption
    | with_reducible refine keepE_ok ?_
    | with_reducible refine State.wait_keep ?_
    | with_reducible refine keepE_bind (fun _ _ => ?_)

/-- What `State.paddockCreate` keeps. -/
theorem State.paddockCreate_keep {zz tk s : State} {c q} (ek : State.paddockCreate s c q = .ok tk)
    (kp : Keep zz s) : Keep zz tk := by
  revert ek
  suffices KeepE zz (State.paddockCreate s c q) from this tk
  unfold State.paddockCreate
  repeat' first
    | with_reducible assumption
    | simp only [keep_mk]
    | with_reducible refine keep_adv ?_
    | with_reducible refine keepE_ok ?_
    | with_reducible refine State.ok_keep ?_
    | with_reducible refine keepE_bind (fun _ _ => ?_)

/-- What `State.clearTeam` keeps. -/
theorem State.clearTeam_keep {zz s : State} {l} (kp : Keep zz s) :
    Keep zz (State.clearTeam s l) := by
  unfold State.clearTeam
  repeat' first
    | with_reducible assumption
    | with_reducible refine State.modTask_keep ?_
    | with_reducible refine State.requestPreempt_keep ?_
    | split

/-- What `State.paddockModify` keeps. -/
theorem State.paddockModify_keep {zz tk s : State} {c q} (ek : State.paddockModify s c q = .ok tk)
    (kp : Keep zz s) : Keep zz tk := by
  revert ek
  suffices KeepE zz (State.paddockModify s c q) from this tk
  unfold State.paddockModify
  repeat' first
    | with_reducible assumption
    | simp only [keep_mk]
    | with_reducible refine keepE_ok ?_
    | with_reducible refine State.wait_keep ?_
    | with_reducible refine State.clearTeam_keep ?_
    | with_reducible refine State.finishTask_keep ?_
    | with_reducible refine keepE_bind (fun _ _ => ?_)
    | with_reducible refine keep_foldl (fun _ _ _ => ?_) ?_

/-- What `paddockCreateBody` keeps. -/
theorem paddockCreateBody_keep {zz tk s : State} {c} (ek : paddockCreateBody c s = .ok tk)
    (kp : Keep zz s) : Keep zz tk := by
  revert ek
  suffices KeepE zz (paddockCreateBody c s) from this tk
  unfold paddockCreateBody
  repeat' first
    | with_reducible assumption
    | refine fun _ e => State.paddockCreate_keep e ?_

/-- What `paddockCreateExpertBody` keeps. -/
theorem paddockCreateExpertBody_keep {zz tk s : State} {c} (ek : paddockCreateExpertBody c s = .ok tk)
    (kp : Keep zz s) : Keep zz tk := by
  revert ek
  suffices KeepE zz (paddockCreateExpertBody c s) from this tk
  unfold paddockCreateExpertBody
  repeat' first
    | with_reducible assumption
    | refine fun _ e => State.paddockCreate_keep e ?_

/-- What `paddockModifyBody` keeps. -/
theorem paddockModifyBody_keep {zz tk s : State} {c} (ek : paddockModifyBody c s = .ok tk)
    (kp : Keep zz s) : Keep zz tk := by
  revert ek
  suffices KeepE zz (paddockModifyBody c s) from this tk
  unfold paddockModifyBody
  repeat' first
    | with_reducible assumption
    | refine fun _ e => State.paddockModify_keep e ?_

/-- What `paddockModifyExpertBody` keeps. -/
theorem paddockModifyExpertBody_keep {zz tk s : State} {c} (ek : paddockModifyExpertBody c s = .ok tk)
    (kp : Keep zz s) : Keep zz tk := by
  revert ek
  suffices KeepE zz (paddockModifyExpertBody c s) from this tk
  unfold paddockModifyExpertBody
  repeat' first
    | with_reducible assumption
    | refine fun _ e => State.paddockModify_keep e ?_

/-- What `paddockQueryBody` keeps. -/
theorem paddockQueryBody_keep {zz tk s : State} {c} (ek : paddockQueryBody c s = .ok tk)
    (kp : Keep zz s) : Keep zz tk := by
  revert ek
  suffices KeepE zz (paddockQueryBody c s) from this tk
  unfold paddockQueryBody
  repeat' first
    | with_reducible assumption
    | simp only [keep_mk]
    | with_reducible refine keepE_ok ?_
    | with_reducible refine State.writeBuf_keep (by assumption) ?_
    | with_reducible refine State.ok_keep ?_
    | with_reducible refine keepE_bind (fun _ _ => ?_)

/-- What `paddockQueryExpertBody` keeps. -/
theorem paddockQueryExpertBody_keep {zz tk s : State} {c} (ek : paddockQueryExpertBody c s = .ok tk)
    (kp : Keep zz s) : Keep zz tk := by
  revert ek
  suffices KeepE zz (paddockQueryExpertBody c s) from this tk
  unfold paddockQueryExpertBody
  repeat' first
    | with_reducible assumption
    | simp only [keep_mk]
    | with_reducible refine keepE_ok ?_
    | with_reducible refine State.writeBuf_keep (by assumption) ?_
    | with_reducible refine State.ok_keep ?_
    | with_reducible refine keepE_bind (fun _ _ => ?_)

/-- What `paddockKeySetBody` keeps. -/
theorem paddockKeySetBody_keep {zz tk s : State} {c} (ek : paddockKeySetBody c s = .ok tk)
    (kp : Keep zz s) : Keep zz tk := by
  revert ek
  suffices KeepE zz (paddockKeySetBody c s) from this tk
  unfold paddockKeySetBody
  repeat' first
    | with_reducible assumption
    | simp only [keep_mk]
    | with_reducible refine keepE_ok ?_
    | with_reducible refine State.ok_keep ?_
    | with_reducible refine keepE_bind (fun _ _ => ?_)

/-- What `paddockKeySetExpertBody` keeps. -/
theorem paddockKeySetExpertBody_keep {zz tk s : State} {c} (ek : paddockKeySetExpertBody c s = .ok tk)
    (kp : Keep zz s) : Keep zz tk := by
  revert ek
  suffices KeepE zz (paddockKeySetExpertBody c s) from this tk
  unfold paddockKeySetExpertBody
  repeat' first
    | with_reducible assumption
    | simp only [keep_mk]
    | with_reducible refine keepE_ok ?_
    | with_reducible refine State.ok_keep ?_
    | with_reducible refine keepE_bind (fun _ _ => ?_)

end Sys2Proof.Machine
end

