-- ==== Sys2Proof/Laws/KeepTraceLink.lean ====
section
/-! SUPPORT. What the definitions of Machine/TraceLink.lean keep (Laws/Keep.lean). -/

namespace Sys2Proof.Machine

open Sys2Proof

/-- What `State.failPort` keeps. -/
theorem State.failPort_keep {zz s : State} {p} (kp : Keep zz s) :
    Keep zz (State.failPort s p) := by
  unfold State.failPort
  repeat' first
    | with_reducible assumption
    | simp only [keep_mk]
    | with_reducible refine State.completeAll_keep ?_
    | with_reducible refine State.complete_keep ?_
    | with_reducible refine State.modPort_keep ?_
    | split

/-- What `State.enterPort` keeps. -/
theorem State.enterPort_keep {zz s : State} {p st} (kp : Keep zz s) :
    Keep zz (State.enterPort s p st) := by
  unfold State.enterPort
  repeat' first
    | with_reducible assumption
    | with_reducible refine State.modPort_keep ?_
    | with_reducible refine State.logPort_keep ?_

/-- What `State.portDown` keeps. -/
theorem State.portDown_keep {zz s : State} {p} (kp : Keep zz s) :
    Keep zz (State.portDown s p) := by
  unfold State.portDown
  repeat' first
    | with_reducible assumption
    | with_reducible refine State.enterPort_keep ?_
    | with_reducible refine State.failPort_keep ?_
    | with_reducible refine State.modPort_keep ?_

/-- What `State.startRetrain` keeps. -/
theorem State.startRetrain_keep {zz s : State} {p width} (kp : Keep zz s) :
    Keep zz (State.startRetrain s p width) := by
  unfold State.startRetrain
  repeat' first
    | with_reducible assumption
    | simp only [keep_mk]
    | with_reducible refine State.ctl_keep ?_
    | with_reducible refine State.enterPort_keep ?_
    | with_reducible refine State.modPort_keep ?_

/-- What `State.askRetrain` keeps. -/
theorem State.askRetrain_keep {zz s : State} {p width} (kp : Keep zz s) :
    Keep zz (State.askRetrain s p width) := by
  unfold State.askRetrain
  repeat' first
    | with_reducible assumption
    | simp only [keep_mk]
    | with_reducible refine State.ctl_keep ?_
    | with_reducible refine State.startRetrain_keep ?_
    | with_reducible refine keep_ite (fun _ => ?_) (fun _ => ?_)

/-- What `State.askSwap` keeps. -/
theorem State.askSwap_keep {zz s : State} {p w} (kp : Keep zz s) :
    Keep zz (State.askSwap s p w) := by
  unfold State.askSwap
  repeat' first
    | with_reducible assumption
    | with_reducible refine State.ctl_keep ?_
    | with_reducible refine State.modPort_keep ?_

/-- What `State.chooseParent` keeps. -/
theorem State.chooseParent_keep {zz s : State} (kp : Keep zz s) :
    Keep zz (State.chooseParent s) := by
  unfold State.chooseParent
  repeat' first
    | with_reducible assumption
    | simp only [keep_mk]
    | with_reducible refine State.askSwap_keep ?_
    | with_reducible refine State.logEv_keep ?_
    | with_reducible refine keep_ite (fun _ => ?_) (fun _ => ?_)
    | split

/-- What `State.tick` keeps. -/
theorem State.tick_keep {zz s : State} (kp : Keep zz s) :
    Keep zz (State.tick s) := by
  unfold State.tick
  repeat' first
    | with_reducible assumption
    | simp only [keep_mk]
    | with_reducible refine keep_ite (fun _ => ?_) (fun _ => ?_)

/-- What `execCreditRecord` keeps. -/
theorem execCreditRecord_keep {tk s : State} {p c1 c2 c3} (ek : execCreditRecord p c1 c2 c3 s = .next tk) : Keep s tk := by
  have kp := Keep.refl s
  refine event_keep ek ?_
  repeat' first
    | with_reducible assumption
    | with_reducible refine State.modPort_keep ?_
    | with_reducible refine keep_ite (fun _ => ?_) (fun _ => ?_)

/-- What `execCreditRecordTimer` keeps. -/
theorem execCreditRecordTimer_keep {tk s : State} {p} (ek : execCreditRecordTimer p s = .next tk) : Keep s tk := by
  have kp := Keep.refl s
  refine event_keep ek ?_
  repeat' first
    | with_reducible assumption
    | simp only [keep_mk]
    | with_reducible refine State.ctl_keep ?_
    | with_reducible refine State.reach_keep ?_
    | with_reducible refine State.modPort_keep ?_
    | with_reducible refine keep_ite (fun _ => ?_) (fun _ => ?_)

/-- What `execAckseq` keeps. -/
theorem execAckseq_keep {tk s : State} {p seq} (ek : execAckseq p seq s = .next tk) : Keep s tk := by
  have kp := Keep.refl s
  refine event_keep ek ?_
  repeat' first
    | with_reducible assumption
    | simp only [keep_mk]
    | with_reducible refine State.portViolation_keep ?_
    | with_reducible refine State.modPort_keep ?_
    | with_reducible refine keep_ite (fun _ => ?_) (fun _ => ?_)

/-- What `execAckTimer` keeps. -/
theorem execAckTimer_keep {tk s : State} {p} (ek : execAckTimer p s = .next tk) : Keep s tk := by
  have kp := Keep.refl s
  refine event_keep ek ?_
  repeat' first
    | with_reducible assumption
    | simp only [keep_mk]
    | with_reducible refine State.ctl_keep ?_
    | with_reducible refine State.reach_keep ?_
    | with_reducible refine State.modPort_keep ?_
    | with_reducible refine keep_ite (fun _ => ?_) (fun _ => ?_)

/-- What `execRetry` keeps. -/
theorem execRetry_keep {tk s : State} {p seq} (ek : execRetry p seq s = .next tk) : Keep s tk := by
  have kp := Keep.refl s
  refine event_keep ek ?_
  repeat' first
    | with_reducible assumption
    | simp only [keep_mk]
    | with_reducible refine State.askRetrain_keep ?_
    | with_reducible refine State.modPort_keep ?_
    | with_reducible refine keep_ite (fun _ => ?_) (fun _ => ?_)

/-- What `execRefuse` keeps. -/
theorem execRefuse_keep {tk s : State} {p mtag reason} (ek : execRefuse p mtag reason s = .next tk) : Keep s tk := by
  have kp := Keep.refl s
  refine event_keep ek ?_
  repeat' first
    | with_reducible assumption
    | simp only [keep_mk]
    | with_reducible refine State.failColl_keep ?_
    | with_reducible refine State.modPort_keep ?_
    | with_reducible refine State.modColl_keep ?_
    | with_reducible refine State.complete_keep ?_
    | with_reducible refine keep_ite (fun _ => ?_) (fun _ => ?_)
    | split

/-- What `execRefuseResend` keeps. -/
theorem execRefuseResend_keep {tk s : State} {mtag} (ek : execRefuseResend mtag s = .next tk) : Keep s tk := by
  have kp := Keep.refl s
  refine event_keep ek ?_
  repeat' first
    | with_reducible assumption
    | with_reducible refine State.reach_keep ?_
    | split

/-- What `execTrainingStart` keeps. -/
theorem execTrainingStart_keep {tk s : State} {p} (ek : execTrainingStart p s = .next tk) : Keep s tk := by
  have kp := Keep.refl s
  refine event_keep ek ?_
  repeat' first
    | with_reducible assumption
    | simp only [keep_mk]
    | with_reducible refine State.reach_keep ?_
    | with_reducible refine State.enterPort_keep ?_
    | with_reducible refine State.modPort_keep ?_
    | with_reducible refine keep_ite (fun _ => ?_) (fun _ => ?_)

/-- What `execIdentityExchange` keeps. -/
theorem execIdentityExchange_keep {tk s : State} {p id peerPort isSwitch} (ek : execIdentityExchange p id peerPort isSwitch s = .next tk) : Keep s tk := by
  have kp := Keep.refl s
  refine event_keep ek ?_
  repeat' first
    | with_reducible assumption
    | simp only [keep_mk]
    | with_reducible refine State.ctl_keep ?_
    | with_reducible refine State.enterPort_keep ?_
    | with_reducible refine State.modPort_keep ?_
    | with_reducible refine keep_ite (fun _ => ?_) (fun _ => ?_)

/-- What `execTrainingTimeout` keeps. -/
theorem execTrainingTimeout_keep {tk s : State} {p} (ek : execTrainingTimeout p s = .next tk) : Keep s tk := by
  have kp := Keep.refl s
  refine event_keep ek ?_
  repeat' first
    | with_reducible assumption
    | with_reducible refine State.portDown_keep ?_
    | with_reducible refine State.reach_keep ?_
    | with_reducible refine keep_ite (fun _ => ?_) (fun _ => ?_)

/-- What `execLinkAdmission` keeps. -/
theorem execLinkAdmission_keep {tk s : State} {p} (ek : execLinkAdmission p s = .next tk) : Keep s tk := by
  have kp := Keep.refl s
  refine event_keep ek ?_
  repeat' first
    | with_reducible assumption
    | simp only [keep_mk]
    | with_reducible refine State.enterPort_keep ?_
    | with_reducible refine State.chooseParent_keep ?_
    | with_reducible refine State.logEv_keep ?_
    | with_reducible refine keep_ite (fun _ => ?_) (fun _ => ?_)

/-- What `execLossOfLock` keeps. -/
theorem execLossOfLock_keep {tk s : State} {p} (ek : execLossOfLock p s = .next tk) : Keep s tk := by
  have kp := Keep.refl s
  refine event_keep ek ?_
  repeat' first
    | with_reducible assumption
    | with_reducible refine State.portDown_keep ?_
    | with_reducible refine State.reach_keep ?_
    | split

/-- What `execLaneErrorThreshold` keeps. -/
theorem execLaneErrorThreshold_keep {tk s : State} {p lane} (ek : execLaneErrorThreshold p lane s = .next tk) : Keep s tk := by
  have kp := Keep.refl s
  refine event_keep ek ?_
  repeat' first
    | with_reducible assumption
    | simp only [keep_mk]
    | with_reducible refine State.askRetrain_keep ?_
    | with_reducible refine State.modPort_keep ?_
    | with_reducible refine keep_ite (fun _ => ?_) (fun _ => ?_)

/-- What `execRetrainRequest` keeps. -/
theorem execRetrainRequest_keep {tk s : State} {p command} (ek : execRetrainRequest p command s = .next tk) : Keep s tk := by
  have kp := Keep.refl s
  refine event_keep ek ?_
  repeat' first
    | with_reducible assumption
    | simp only [keep_mk]
    | with_reducible refine State.portViolation_keep ?_
    | with_reducible refine State.askRetrain_keep ?_
    | with_reducible refine State.enterPort_keep ?_
    | with_reducible refine State.modPort_keep ?_
    | with_reducible refine keep_ite (fun _ => ?_) (fun _ => ?_)
    | split

/-- What `execRetrainComplete` keeps. -/
theorem execRetrainComplete_keep {tk s : State} {p ok} (ek : execRetrainComplete p ok s = .next tk) : Keep s tk := by
  have kp := Keep.refl s
  refine event_keep ek ?_
  repeat' first
    | with_reducible assumption
    | simp only [keep_mk]
    | with_reducible refine State.portDown_keep ?_
    | with_reducible refine State.completeAll_keep ?_
    | with_reducible refine State.enterPort_keep ?_
    | with_reducible refine State.modPort_keep ?_
    | with_reducible refine keep_ite (fun _ => ?_) (fun _ => ?_)

/-- What `execFullWidthAttempt` keeps. -/
theorem execFullWidthAttempt_keep {tk s : State} {p} (ek : execFullWidthAttempt p s = .next tk) : Keep s tk := by
  have kp := Keep.refl s
  refine event_keep ek ?_
  repeat' first
    | with_reducible assumption
    | simp only [keep_mk]
    | with_reducible refine State.reach_keep ?_
    | with_reducible refine State.modPort_keep ?_
    | with_reducible refine State.startRetrain_keep ?_
    | with_reducible refine keep_ite (fun _ => ?_) (fun _ => ?_)

/-- What `State.grantSwap` keeps. -/
theorem State.grantSwap_keep {zz s : State} {p} (kp : Keep zz s) :
    Keep zz (State.grantSwap s p) := by
  unfold State.grantSwap
  repeat' first
    | with_reducible assumption
    | with_reducible refine State.ctl_keep ?_
    | with_reducible refine State.chooseParent_keep ?_
    | with_reducible refine State.modPort_keep ?_

/-- What `execStewardSwapRequest` keeps. -/
theorem execStewardSwapRequest_keep {tk s : State} {p} (ek : execStewardSwapRequest p s = .next tk) : Keep s tk := by
  have kp := Keep.refl s
  refine event_keep ek ?_
  repeat' first
    | with_reducible assumption
    | simp only [keep_mk]
    | with_reducible refine State.grantSwap_keep ?_
    | with_reducible refine State.complete_keep ?_
    | with_reducible refine State.modPort_keep ?_
    | with_reducible refine keep_ite (fun _ => ?_) (fun _ => ?_)
    | split

/-- What `execStewardSwapGrant` keeps. -/
theorem execStewardSwapGrant_keep {tk s : State} {p} (ek : execStewardSwapGrant p s = .next tk) : Keep s tk := by
  have kp := Keep.refl s
  refine event_keep ek ?_
  repeat' first
    | with_reducible assumption
    | simp only [keep_mk]
    | with_reducible refine State.chooseParent_keep ?_
    | with_reducible refine State.complete_keep ?_
    | with_reducible refine State.modPort_keep ?_
    | split

/-- What `execSync` keeps. -/
theorem execSync_keep {tk s : State} {p t1 corr} (ek : execSync p t1 corr s = .next tk) : Keep s tk := by
  have kp := Keep.refl s
  refine event_keep ek ?_
  repeat' first
    | with_reducible assumption
    | simp only [keep_mk]
    | with_reducible refine State.ctl_keep ?_
    | with_reducible refine State.portViolation_keep ?_
    | with_reducible refine keep_ite (fun _ => ?_) (fun _ => ?_)
    | split

/-- What `execDelayReq` keeps. -/
theorem execDelayReq_keep {tk s : State} {p _t3} (ek : execDelayReq p _t3 s = .next tk) : Keep s tk := by
  have kp := Keep.refl s
  refine event_keep ek ?_
  repeat' first
    | with_reducible assumption
    | with_reducible refine State.ctl_keep ?_
    | with_reducible refine keep_ite (fun _ => ?_) (fun _ => ?_)

/-- What `execDelayResp` keeps. -/
theorem execDelayResp_keep {tk s : State} {p t4} (ek : execDelayResp p t4 s = .next tk) : Keep s tk := by
  have kp := Keep.refl s
  refine event_keep ek ?_
  repeat' first
    | with_reducible assumption
    | simp only [keep_mk]
    | with_reducible refine State.portViolation_keep ?_
    | with_reducible refine keep_ite (fun _ => ?_) (fun _ => ?_)
    | split

/-- What `execSyncTimer` keeps. -/
theorem execSyncTimer_keep {tk s : State} {p} (ek : execSyncTimer p s = .next tk) : Keep s tk := by
  refine event_keep ek ?_
  refine keep_ite (fun _ => Keep.refl s) (fun _ => State.ctl_keep ?_)
  rw [keep_mk]
  exact State.reach_keep (Keep.refl s)

/-- What `execTimeParentLoss` keeps. -/
theorem execTimeParentLoss_keep {tk s : State} (ek : execTimeParentLoss s = .next tk) : Keep s tk := by
  have kp := Keep.refl s
  refine event_keep ek ?_
  repeat' first
    | with_reducible assumption
    | simp only [keep_mk]
    | with_reducible refine State.chooseParent_keep ?_
    | with_reducible refine State.logEv_keep ?_
    | with_reducible refine keep_ite (fun _ => ?_) (fun _ => ?_)
    | split

/-- What `State.resendFrom` keeps. -/
theorem State.resendFrom_keep {zz s : State} {p} (kp : Keep zz s) :
    Keep zz (State.resendFrom s p) := by
  unfold State.resendFrom
  repeat' first
    | with_reducible assumption
    | simp only [keep_mk]

/-- What `execDetourSelect` keeps. -/
theorem execDetourSelect_keep {tk s : State} {p known} (ek : execDetourSelect p known s = .next tk) : Keep s tk := by
  have kp := Keep.refl s
  refine event_keep ek ?_
  repeat' first
    | with_reducible assumption
    | simp only [keep_mk]
    | with_reducible refine State.resendFrom_keep ?_
    | split

/-- What `tracePortQueryBody` keeps. -/
theorem tracePortQueryBody_keep {zz tk s : State} {c} (ek : tracePortQueryBody c s = .ok tk)
    (kp : Keep zz s) : Keep zz tk := by
  revert ek
  suffices KeepE zz (tracePortQueryBody c s) from this tk
  unfold tracePortQueryBody
  repeat' first
    | with_reducible assumption
    | with_reducible refine keepE_ok ?_
    | with_reducible refine State.writeBuf_keep (by assumption) ?_
    | with_reducible refine State.ok_keep ?_
    | with_reducible refine keepE_bind (fun _ _ => ?_)

/-- What `State.countFec` keeps. -/
theorem State.countFec_keep {zz s : State} {p} (kp : Keep zz s) :
    Keep zz (State.countFec s p) := by
  unfold State.countFec
  repeat' first
    | with_reducible assumption
    | simp only [keep_mk]
    | with_reducible refine State.draw_keep ?_
    | with_reducible refine State.modPort_keep ?_
    | with_reducible refine keep_foldl (fun _ _ _ => ?_) ?_

/-- What `tracePortQueryExpertBody` keeps. -/
theorem tracePortQueryExpertBody_keep {zz tk s : State} {c} (ek : tracePortQueryExpertBody c s = .ok tk)
    (kp : Keep zz s) : Keep zz tk := by
  revert ek
  suffices KeepE zz (tracePortQueryExpertBody c s) from this tk
  unfold tracePortQueryExpertBody
  repeat' first
    | with_reducible assumption
    | simp only [keep_mk]
    | with_reducible refine keepE_ok ?_
    | with_reducible refine State.writeBuf_keep (by assumption) ?_
    | with_reducible refine State.ok_keep ?_
    | with_reducible refine State.countFec_keep ?_
    | with_reducible refine keepE_bind (fun _ _ => ?_)
    | with_reducible refine keep_foldl (fun _ _ _ => ?_) ?_

/-- What `State.retrainCmd` keeps. -/
theorem State.retrainCmd_keep {zz tk s : State} {c p width} (ek : State.retrainCmd s c p width = .ok tk)
    (kp : Keep zz s) : Keep zz tk := by
  revert ek
  suffices KeepE zz (State.retrainCmd s c p width) from this tk
  unfold State.retrainCmd
  repeat' first
    | with_reducible assumption
    | with_reducible refine keepE_ok ?_
    | with_reducible refine State.askRetrain_keep ?_
    | with_reducible refine State.modPort_keep ?_
    | with_reducible refine keepE_bind (fun _ _ => ?_)

/-- What `tracePortControlBody` keeps. -/
theorem tracePortControlBody_keep {zz tk s : State} {c} (ek : tracePortControlBody c s = .ok tk)
    (kp : Keep zz s) : Keep zz tk := by
  revert ek
  suffices KeepE zz (tracePortControlBody c s) from this tk
  unfold tracePortControlBody
  repeat' first
    | with_reducible assumption
    | simp only [keep_mk]
    | with_reducible refine keepE_ok ?_
    | exact keepE_error
    | with_reducible refine State.askSwap_keep ?_
    | refine fun _ e => State.retrainCmd_keep e ?_
    | with_reducible refine keepE_bind (fun _ _ => ?_)
    | split

/-- What `tracePortControlExpertBody` keeps. -/
theorem tracePortControlExpertBody_keep {zz tk s : State} {c} (ek : tracePortControlExpertBody c s = .ok tk)
    (kp : Keep zz s) : Keep zz tk := by
  revert ek
  suffices KeepE zz (tracePortControlExpertBody c s) from this tk
  unfold tracePortControlExpertBody
  repeat' first
    | with_reducible assumption
    | simp only [keep_mk]
    | with_reducible refine keepE_ok ?_
    | exact keepE_error
    | with_reducible refine State.ok_keep ?_
    | refine fun _ e => State.retrainCmd_keep e ?_
    | with_reducible refine State.failPort_keep ?_
    | with_reducible refine State.enterPort_keep ?_
    | with_reducible refine State.chooseParent_keep ?_
    | with_reducible refine State.modPort_keep ?_
    | with_reducible refine keepE_bind (fun _ _ => ?_)
    | split

/-- What `traceTimeQueryBody` keeps. -/
theorem traceTimeQueryBody_keep {zz tk s : State} {c} (ek : traceTimeQueryBody c s = .ok tk)
    (kp : Keep zz s) : Keep zz tk := by
  revert ek
  suffices KeepE zz (traceTimeQueryBody c s) from this tk
  unfold traceTimeQueryBody
  repeat' first
    | with_reducible assumption
    | simp only [keep_mk]
    | with_reducible refine keepE_ok ?_
    | with_reducible refine State.ok_keep ?_
    | with_reducible refine State.writeBuf_keep (by assumption) ?_
    | with_reducible refine keepE_bind (fun _ _ => ?_)

/-- What `traceTimeConfigBody` keeps. -/
theorem traceTimeConfigBody_keep {zz tk s : State} {c} (ek : traceTimeConfigBody c s = .ok tk)
    (kp : Keep zz s) : Keep zz tk := by
  revert ek
  suffices KeepE zz (traceTimeConfigBody c s) from this tk
  unfold traceTimeConfigBody
  repeat' first
    | with_reducible assumption
    | simp only [keep_mk]
    | with_reducible refine keepE_ok ?_
    | with_reducible refine State.ok_keep ?_
    | with_reducible refine State.chooseParent_keep ?_

end Sys2Proof.Machine
end

