-- ==== Sys2Proof/Laws/KeepTraces.lean ====
section
/-! SUPPORT. What the definitions of Machine/Traces.lean keep (Laws/Keep.lean). -/

namespace Sys2Proof.Machine

open Sys2Proof

/-- What `State.groupCreate` keeps. -/
theorem State.groupCreate_keep {zz tk s : State} {c mib ops merge timeout kib addr} (ek : State.groupCreate s c mib ops merge timeout kib addr = .ok tk)
    (kp : Keep zz s) : Keep zz tk := by
  revert ek
  suffices KeepE zz (State.groupCreate s c mib ops merge timeout kib addr) from this tk
  unfold State.groupCreate
  repeat' first
    | with_reducible assumption
    | simp only [keep_mk]
    | with_reducible refine keepE_ok ?_
    | with_reducible refine keepP_ok ?_
    | with_reducible refine State.allocate_keep (by assumption) ?_
    | with_reducible refine State.ok_keep ?_
    | with_reducible refine keepE_bind (fun _ _ => ?_)
    | with_reducible refine keepP_ite (fun _ => ?_) (fun _ => ?_)
    | with_reducible refine keepP_bind (fun _ _ => ?_)
    | with_reducible refine keepP3_elim (by assumption) ?_

/-- What `traceGroupCreateBody` keeps. -/
theorem traceGroupCreateBody_keep {zz tk s : State} {c} (ek : traceGroupCreateBody c s = .ok tk)
    (kp : Keep zz s) : Keep zz tk := by
  revert ek
  suffices KeepE zz (traceGroupCreateBody c s) from this tk
  unfold traceGroupCreateBody
  repeat' first
    | with_reducible assumption
    | refine fun _ e => State.groupCreate_keep e ?_

/-- What `traceGroupCreateExpertBody` keeps. -/
theorem traceGroupCreateExpertBody_keep {zz tk s : State} {c} (ek : traceGroupCreateExpertBody c s = .ok tk)
    (kp : Keep zz s) : Keep zz tk := by
  revert ek
  suffices KeepE zz (traceGroupCreateExpertBody c s) from this tk
  unfold traceGroupCreateExpertBody
  repeat' first
    | with_reducible assumption
    | refine fun _ e => State.groupCreate_keep e ?_

/-- What `State.endGroupOps` keeps. -/
theorem State.endGroupOps_keep {zz s : State} {k st} (kp : Keep zz s) :
    Keep zz (State.endGroupOps s k st) := by
  unfold State.endGroupOps
  repeat' first
    | with_reducible assumption
    | with_reducible refine State.sendAborts_keep ?_
    | with_reducible refine State.failColl_keep ?_
    | with_reducible refine keep_foldl (fun _ _ _ => ?_) ?_
    | split

/-- What `traceGroupDestroyBody` keeps. -/
theorem traceGroupDestroyBody_keep {zz tk s : State} {c} (ek : traceGroupDestroyBody c s = .ok tk)
    (kp : Keep zz s) : Keep zz tk := by
  revert ek
  suffices KeepE zz (traceGroupDestroyBody c s) from this tk
  unfold traceGroupDestroyBody
  repeat' first
    | with_reducible assumption
    | simp only [keep_mk]
    | with_reducible refine keepE_ok ?_
    | with_reducible refine State.endGroupOps_keep ?_
    | with_reducible refine State.ok_keep ?_
    | with_reducible refine State.dropGroup_keep ?_
    | with_reducible refine keepE_bind (fun _ _ => ?_)

/-- What `traceGroupDestroyExpertBody` keeps. -/
theorem traceGroupDestroyExpertBody_keep {zz tk s : State} {c} (ek : traceGroupDestroyExpertBody c s = .ok tk)
    (kp : Keep zz s) : Keep zz tk := by
  revert ek
  suffices KeepE zz (traceGroupDestroyExpertBody c s) from this tk
  unfold traceGroupDestroyExpertBody
  repeat' first
    | with_reducible assumption
    | with_reducible refine keepE_ok ?_
    | refine fun _ e => traceGroupDestroyBody_keep e ?_
    | with_reducible refine State.wait_keep ?_
    | with_reducible refine keepE_ite (fun _ => ?_) (fun _ => ?_)
    | with_reducible refine keepE_bind (fun _ _ => ?_)

/-- What `traceGroupQueryBody` keeps. -/
theorem traceGroupQueryBody_keep {zz tk s : State} {c} (ek : traceGroupQueryBody c s = .ok tk)
    (kp : Keep zz s) : Keep zz tk := by
  revert ek
  suffices KeepE zz (traceGroupQueryBody c s) from this tk
  unfold traceGroupQueryBody
  repeat' first
    | with_reducible assumption
    | with_reducible refine keepE_ok ?_
    | with_reducible refine State.writeBuf_keep (by assumption) ?_
    | with_reducible refine State.ok_keep ?_
    | with_reducible refine keepE_bind (fun _ _ => ?_)

/-- What `traceGroupQueryExpertBody` keeps. -/
theorem traceGroupQueryExpertBody_keep {zz tk s : State} {c} (ek : traceGroupQueryExpertBody c s = .ok tk)
    (kp : Keep zz s) : Keep zz tk := by
  revert ek
  suffices KeepE zz (traceGroupQueryExpertBody c s) from this tk
  unfold traceGroupQueryExpertBody
  repeat' first
    | with_reducible assumption
    | simp only [keep_mk]
    | with_reducible refine keepE_ok ?_
    | with_reducible refine State.writeBuf_keep (by assumption) ?_
    | with_reducible refine State.ok_keep ?_
    | with_reducible refine keepE_bind (fun _ _ => ?_)

/-- What `State.sendKeys` keeps. -/
theorem State.sendKeys_keep {zz s : State} {c g} (kp : Keep zz s) :
    Keep zz (State.sendKeys s c g) := by
  unfold State.sendKeys
  repeat' first
    | with_reducible assumption
    | simp only [keep_mk]
    | with_reducible refine State.enqueue_keep ?_
    | with_reducible refine keep_foldl (fun _ _ _ => ?_) ?_
    | split

/-- What `State.traceColl` keeps. -/
theorem State.traceColl_keep {zz tk s : State} {c} (ek : State.traceColl s c = .ok tk)
    (kp : Keep zz s) : Keep zz tk := by
  revert ek
  suffices KeepE zz (State.traceColl s c) from this tk
  unfold State.traceColl
  repeat' first
    | with_reducible assumption
    | simp only [keep_mk]
    | with_reducible refine keepE_ok ?_
    | with_reducible refine State.startColl_keep (by assumption) ?_
    | with_reducible refine State.sendKeys_keep ?_
    | with_reducible refine State.modStream_keep ?_
    | with_reducible refine State.modColl_keep ?_
    | with_reducible refine keepE_ite (fun _ => ?_) (fun _ => ?_)
    | with_reducible refine keepE_bind (fun _ _ => ?_)
    | with_reducible refine keep_ite (fun _ => ?_) (fun _ => ?_)
    | split

/-- What `traceCollBody` keeps. -/
theorem traceCollBody_keep {zz tk s : State} {c} (ek : traceCollBody c s = .ok tk)
    (kp : Keep zz s) : Keep zz tk := by
  revert ek
  suffices KeepE zz (traceCollBody c s) from this tk
  unfold traceCollBody
  repeat' first
    | with_reducible assumption
    | refine fun _ e => State.traceColl_keep e ?_

/-- What `traceCollExpertBody` keeps. -/
theorem traceCollExpertBody_keep {zz tk s : State} {c} (ek : traceCollExpertBody c s = .ok tk)
    (kp : Keep zz s) : Keep zz tk := by
  revert ek
  suffices KeepE zz (traceCollExpertBody c s) from this tk
  unfold traceCollExpertBody
  repeat' first
    | with_reducible assumption
    | refine fun _ e => State.traceColl_keep e ?_

/-- What `State.collCancel` keeps. -/
theorem State.collCancel_keep {zz tk s : State} {c} (ek : State.collCancel s c = .ok tk)
    (kp : Keep zz s) : Keep zz tk := by
  revert ek
  suffices KeepE zz (State.collCancel s c) from this tk
  unfold State.collCancel
  repeat' first
    | with_reducible assumption
    | with_reducible refine keepE_ok ?_
    | exact keepE_error
    | with_reducible refine State.ok_keep ?_
    | with_reducible refine State.abortColl_keep ?_
    | with_reducible refine keepE_bind (fun _ _ => ?_)
    | split

/-- What `traceCollCancelBody` keeps. -/
theorem traceCollCancelBody_keep {zz tk s : State} {c} (ek : traceCollCancelBody c s = .ok tk)
    (kp : Keep zz s) : Keep zz tk := by
  revert ek
  suffices KeepE zz (traceCollCancelBody c s) from this tk
  unfold traceCollCancelBody
  repeat' first
    | with_reducible assumption
    | refine fun _ e => State.collCancel_keep e ?_

/-- What `traceCollCancelExpertBody` keeps. -/
theorem traceCollCancelExpertBody_keep {zz tk s : State} {c} (ek : traceCollCancelExpertBody c s = .ok tk)
    (kp : Keep zz s) : Keep zz tk := by
  revert ek
  suffices KeepE zz (traceCollCancelExpertBody c s) from this tk
  unfold traceCollCancelExpertBody
  repeat' first
    | with_reducible assumption
    | refine fun _ e => State.collCancel_keep e ?_
    | with_reducible refine State.reason_keep ?_

/-- What `State.modWindow` keeps. -/
theorem State.modWindow_keep {zz s : State} {k f} (kp : Keep zz s) :
    Keep zz (State.modWindow s k f) := by
  unfold State.modWindow
  repeat' first
    | with_reducible assumption
    | simp only [keep_mk]

/-- What `traceWindowRegisterBody` keeps. -/
theorem traceWindowRegisterBody_keep {zz tk s : State} {c} (ek : traceWindowRegisterBody c s = .ok tk)
    (kp : Keep zz s) : Keep zz tk := by
  revert ek
  suffices KeepE zz (traceWindowRegisterBody c s) from this tk
  unfold traceWindowRegisterBody
  repeat' first
    | with_reducible assumption
    | simp only [keep_mk]
    | with_reducible refine keepE_ok ?_
    | with_reducible refine State.ok_keep ?_
    | with_reducible refine keepE_ite (fun _ => ?_) (fun _ => ?_)
    | with_reducible refine keepE_bind (fun _ _ => ?_)

/-- What `traceWindowRegisterExpertBody` keeps. -/
theorem traceWindowRegisterExpertBody_keep {zz tk s : State} {c} (ek : traceWindowRegisterExpertBody c s = .ok tk)
    (kp : Keep zz s) : Keep zz tk := by
  revert ek
  suffices KeepE zz (traceWindowRegisterExpertBody c s) from this tk
  unfold traceWindowRegisterExpertBody
  repeat' first
    | with_reducible assumption
    | simp only [keep_mk]
    | with_reducible refine keepE_ok ?_
    | with_reducible refine State.ok_keep ?_
    | with_reducible refine State.completeAll_keep ?_
    | with_reducible refine keepE_ite (fun _ => ?_) (fun _ => ?_)
    | with_reducible refine keepE_bind (fun _ _ => ?_)

/-- What `State.traceSend` keeps. -/
theorem State.traceSend_keep {zz tk s : State} {c timeout} (ek : State.traceSend s c timeout = .ok tk)
    (kp : Keep zz s) : Keep zz tk := by
  revert ek
  suffices KeepE zz (State.traceSend s c timeout) from this tk
  unfold State.traceSend
  repeat' first
    | with_reducible assumption
    | simp only [keep_mk]
    | with_reducible refine keepE_ok ?_
    | with_reducible refine State.enqueue_keep ?_
    | with_reducible refine keepE_bind (fun _ _ => ?_)

/-- What `traceSendBody` keeps. -/
theorem traceSendBody_keep {zz tk s : State} {c} (ek : traceSendBody c s = .ok tk)
    (kp : Keep zz s) : Keep zz tk := by
  revert ek
  suffices KeepE zz (traceSendBody c s) from this tk
  unfold traceSendBody
  repeat' first
    | with_reducible assumption
    | refine fun _ e => State.traceSend_keep e ?_

/-- What `traceSendExpertBody` keeps. -/
theorem traceSendExpertBody_keep {zz tk s : State} {c} (ek : traceSendExpertBody c s = .ok tk)
    (kp : Keep zz s) : Keep zz tk := by
  revert ek
  suffices KeepE zz (traceSendExpertBody c s) from this tk
  unfold traceSendExpertBody
  repeat' first
    | with_reducible assumption
    | refine fun _ e => State.traceSend_keep e ?_

/-- What `State.handOver` keeps. -/
theorem State.handOver_keep {zz s : State} {n k} (kp : Keep zz s) :
    Keep zz (State.handOver n k s) := by
  induction n generalizing s with
  | zero => exact kp
  | succ _ ih =>
    unfold State.handOver
    repeat' first
      | with_reducible assumption
      | with_reducible refine ih ?_
      | simp only [keep_mk]
      | with_reducible refine State.modWindow_keep ?_
      | with_reducible refine State.complete_keep ?_
      | split

/-- What `traceRecvBody` keeps. -/
theorem traceRecvBody_keep {zz tk s : State} {c} (ek : traceRecvBody c s = .ok tk)
    (kp : Keep zz s) : Keep zz tk := by
  revert ek
  suffices KeepE zz (traceRecvBody c s) from this tk
  unfold traceRecvBody
  repeat' first
    | with_reducible assumption
    | simp only [keep_mk]
    | with_reducible refine keepE_ok ?_
    | with_reducible refine State.handOver_keep ?_
    | with_reducible refine State.modWindow_keep ?_
    | with_reducible refine keepE_bind (fun _ _ => ?_)

/-- What `traceRecvExpertBody` keeps. -/
theorem traceRecvExpertBody_keep {zz tk s : State} {c} (ek : traceRecvExpertBody c s = .ok tk)
    (kp : Keep zz s) : Keep zz tk := by
  revert ek
  suffices KeepE zz (traceRecvExpertBody c s) from this tk
  unfold traceRecvExpertBody
  repeat' first
    | with_reducible assumption
    | with_reducible refine keepE_ok ?_
    | with_reducible refine State.ok_keep ?_
    | with_reducible refine State.modWindow_keep ?_
    | with_reducible refine keepE_bind (fun _ _ => ?_)

/-- What `State.msgCancel` keeps. -/
theorem State.msgCancel_keep {zz tk s : State} {c} (ek : State.msgCancel s c = .ok tk)
    (kp : Keep zz s) : Keep zz tk := by
  revert ek
  suffices KeepE zz (State.msgCancel s c) from this tk
  unfold State.msgCancel
  repeat' first
    | with_reducible assumption
    | simp only [keep_mk]
    | with_reducible refine keepE_ok ?_
    | exact keepE_error
    | with_reducible refine State.ok_keep ?_
    | with_reducible refine State.complete_keep ?_
    | with_reducible refine keepE_ite (fun _ => ?_) (fun _ => ?_)
    | split

/-- What `traceMsgCancelBody` keeps. -/
theorem traceMsgCancelBody_keep {zz tk s : State} {c} (ek : traceMsgCancelBody c s = .ok tk)
    (kp : Keep zz s) : Keep zz tk := by
  revert ek
  suffices KeepE zz (traceMsgCancelBody c s) from this tk
  unfold traceMsgCancelBody
  repeat' first
    | with_reducible assumption
    | refine fun _ e => State.msgCancel_keep e ?_

/-- What `traceMsgCancelExpertBody` keeps. -/
theorem traceMsgCancelExpertBody_keep {zz tk s : State} {c} (ek : traceMsgCancelExpertBody c s = .ok tk)
    (kp : Keep zz s) : Keep zz tk := by
  revert ek
  suffices KeepE zz (traceMsgCancelExpertBody c s) from this tk
  unfold traceMsgCancelExpertBody
  repeat' first
    | with_reducible assumption
    | refine fun _ e => State.msgCancel_keep e ?_

/-- What `State.ackChunk` keeps. -/
theorem State.ackChunk_keep {zz s : State} {g m} (kp : Keep zz s) :
    Keep zz (State.ackChunk s g m) := by
  unfold State.ackChunk
  repeat' first
    | with_reducible assumption
    | simp only [keep_mk]
    | with_reducible refine State.enqueue_keep ?_

/-- What `State.onChunk` keeps. -/
theorem State.onChunk_keep {zz s : State} {p m} (kp : Keep zz s) :
    Keep zz (State.onChunk s p m) := by
  unfold State.onChunk
  repeat' first
    | with_reducible assumption
    | simp only [keep_mk]
    | with_reducible refine State.portViolation_keep ?_
    | with_reducible refine State.ctl_keep ?_
    | with_reducible refine State.refuse_keep ?_
    | with_reducible refine State.ackChunk_keep ?_
    | with_reducible refine State.abortColl_keep ?_
    | with_reducible refine State.landIn_keep ?_
    | with_reducible refine State.landIn_keep' (by assumption) ?_
    | with_reducible refine State.takeChunk_keep ?_
    | with_reducible refine keep_ite (fun _ => ?_) (fun _ => ?_)
    | dsimp only
    | split

/-- What `State.onDone` keeps. -/
theorem State.onDone_keep {zz s : State} {m} (kp : Keep zz s) :
    Keep zz (State.onDone s m) := by
  unfold State.onDone
  repeat' first
    | with_reducible assumption
    | simp only [keep_mk]
    | with_reducible refine State.complete_keep ?_
    | with_reducible refine State.modColl_keep ?_
    | with_reducible refine keep_ite (fun _ => ?_) (fun _ => ?_)
    | split

/-- What `State.onAbort` keeps. -/
theorem State.onAbort_keep {zz s : State} {m} (kp : Keep zz s) :
    Keep zz (State.onAbort s m) := by
  unfold State.onAbort
  repeat' first
    | with_reducible assumption
    | simp only [keep_mk]
    | with_reducible refine State.modGroup_keep ?_
    | with_reducible refine State.failColl_keep ?_
    | with_reducible refine keep_ite (fun _ => ?_) (fun _ => ?_)
    | split

/-- What `State.refuseWindow` keeps. -/
theorem State.refuseWindow_keep {zz s : State} {p m} (kp : Keep zz s) :
    Keep zz (State.refuseWindow s p m) := by
  unfold State.refuseWindow
  repeat' first
    | with_reducible assumption
    | simp only [keep_mk]
    | with_reducible refine State.ctl_keep ?_

/-- What `State.onWindow` keeps. -/
theorem State.onWindow_keep {zz s : State} {p m} (kp : Keep zz s) :
    Keep zz (State.onWindow s p m) := by
  unfold State.onWindow
  repeat' first
    | with_reducible assumption
    | simp only [keep_mk]
    | with_reducible refine State.enqueue_keep ?_
    | with_reducible refine State.refuseWindow_keep ?_
    | with_reducible refine State.portViolation_keep ?_
    | with_reducible refine State.ctl_keep ?_
    | with_reducible refine State.refuse_keep ?_
    | with_reducible refine State.storeLines_keep ?_
    | with_reducible refine State.modWindow_keep ?_
    | with_reducible refine State.handOver_keep ?_
    | with_reducible refine keep_ite (fun _ => ?_) (fun _ => ?_)
    | dsimp only
    | split

/-- What `State.onAccept` keeps. -/
theorem State.onAccept_keep {zz s : State} {p m} (kp : Keep zz s) :
    Keep zz (State.onAccept s p m) := by
  unfold State.onAccept
  repeat' first
    | with_reducible assumption
    | simp only [keep_mk]
    | with_reducible refine State.portViolation_keep ?_
    | with_reducible refine State.modColl_keep ?_
    | with_reducible refine keep_ite (fun _ => ?_) (fun _ => ?_)
    | split

/-- What `State.onMsg` keeps. -/
theorem State.onMsg_keep {zz s : State} {p m} (kp : Keep zz s) :
    Keep zz (State.onMsg s p m) := by
  unfold State.onMsg
  repeat' first
    | with_reducible assumption
    | with_reducible refine State.onWindow_keep ?_
    | with_reducible refine State.onDone_keep ?_
    | with_reducible refine State.onAbort_keep ?_
    | with_reducible refine State.takeKeys_keep ?_
    | with_reducible refine State.takeGrant_keep ?_
    | with_reducible refine State.onAccept_keep ?_
    | with_reducible refine State.onChunk_keep ?_
    | split

/-- What `arrives` keeps. -/
theorem arrives_keep {tk s : State} {p m kind} (ek : arrives p m kind s = .next tk) : Keep s tk := by
  have kp := Keep.refl s
  refine event_keep ek ?_
  repeat' first
    | with_reducible assumption
    | with_reducible refine State.onMsg_keep ?_
    | with_reducible refine State.receive_keep (fun _ _ => ?_) ?_

/-- What `execChunk` keeps. -/
theorem execChunk_keep {tk s : State} {p m} (ek : execChunk p m s = .next tk) : Keep s tk := by
  have kp := Keep.refl s
  refine event_keep ek ?_
  repeat' first
    | with_reducible assumption
    | with_reducible refine State.onMsg_keep ?_
    | with_reducible refine State.receive_keep (fun _ _ => ?_) ?_

/-- What `execGrant` keeps. -/
theorem execGrant_keep {tk s : State} {p m} (ek : execGrant p m s = .next tk) : Keep s tk := by
  have kp := Keep.refl s
  refine event_keep ek ?_
  repeat' first
    | with_reducible assumption
    | with_reducible refine State.onMsg_keep ?_
    | with_reducible refine State.receive_keep (fun _ _ => ?_) ?_

/-- What `execDone` keeps. -/
theorem execDone_keep {tk s : State} {p m} (ek : execDone p m s = .next tk) : Keep s tk := by
  have kp := Keep.refl s
  refine event_keep ek ?_
  repeat' first
    | with_reducible assumption
    | with_reducible refine State.onMsg_keep ?_
    | with_reducible refine State.receive_keep (fun _ _ => ?_) ?_

/-- What `execAbort` keeps. -/
theorem execAbort_keep {tk s : State} {p m} (ek : execAbort p m s = .next tk) : Keep s tk := by
  have kp := Keep.refl s
  refine event_keep ek ?_
  repeat' first
    | with_reducible assumption
    | with_reducible refine State.onMsg_keep ?_
    | with_reducible refine State.receive_keep (fun _ _ => ?_) ?_

/-- What `execWindowMessage` keeps. -/
theorem execWindowMessage_keep {tk s : State} {p m} (ek : execWindowMessage p m s = .next tk) : Keep s tk := by
  have kp := Keep.refl s
  refine event_keep ek ?_
  repeat' first
    | with_reducible assumption
    | with_reducible refine State.onMsg_keep ?_
    | with_reducible refine State.receive_keep (fun _ _ => ?_) ?_

/-- What `execDispatchKeys` keeps. -/
theorem execDispatchKeys_keep {tk s : State} {p m} (ek : execDispatchKeys p m s = .next tk) : Keep s tk := by
  have kp := Keep.refl s
  refine event_keep ek ?_
  repeat' first
    | with_reducible assumption
    | with_reducible refine State.onMsg_keep ?_
    | with_reducible refine State.receive_keep (fun _ _ => ?_) ?_

/-- What `execDispatchAccept` keeps. -/
theorem execDispatchAccept_keep {tk s : State} {p m} (ek : execDispatchAccept p m s = .next tk) : Keep s tk := by
  have kp := Keep.refl s
  refine event_keep ek ?_
  repeat' first
    | with_reducible assumption
    | with_reducible refine State.onMsg_keep ?_
    | with_reducible refine State.receive_keep (fun _ _ => ?_) ?_

/-- What `execForwarded` keeps. -/
theorem execForwarded_keep {tk s : State} {p m} (ek : execForwarded p m s = .next tk) : Keep s tk := by
  have kp := Keep.refl s
  refine event_keep ek ?_
  repeat' first
    | with_reducible assumption
    | with_reducible refine State.onMsg_keep ?_
    | with_reducible refine State.receive_keep (fun _ _ => ?_) ?_
    | with_reducible refine State.passOn_keep (fun _ _ => ?_) ?_

/-- What `execGrantIssue` keeps. -/
theorem execGrantIssue_keep {tk s : State} {group seq} (ek : execGrantIssue group seq s = .next tk) : Keep s tk := by
  have kp := Keep.refl s
  refine event_keep ek ?_
  repeat' first
    | with_reducible assumption
    | with_reducible refine State.issueGrant_keep ?_
    | split

/-- What `execGrantReissue` keeps. -/
theorem execGrantReissue_keep {tk s : State} {group seq rank} (ek : execGrantReissue group seq rank s = .next tk) : Keep s tk := by
  have kp := Keep.refl s
  refine event_keep ek ?_
  repeat' first
    | with_reducible assumption
    | simp only [keep_mk]
    | with_reducible refine State.reissue_keep ?_
    | with_reducible refine State.reach_keep ?_
    | with_reducible refine State.modColl_keep ?_
    | with_reducible refine State.sendJoin_keep ?_
    | with_reducible refine State.sendGrant_keep ?_
    | with_reducible refine keep_ite (fun _ => ?_) (fun _ => ?_)
    | dsimp only
    | split

/-- What `execCollectiveTimeout` keeps. -/
theorem execCollectiveTimeout_keep {tk s : State} {group seq} (ek : execCollectiveTimeout group seq s = .next tk) : Keep s tk := by
  have kp := Keep.refl s
  refine event_keep ek ?_
  repeat' first
    | with_reducible assumption
    | with_reducible refine State.abortColl_keep ?_
    | with_reducible refine State.moorTimeout_keep ?_
    | with_reducible refine State.reach_keep ?_
    | split

/-- What `execSendTimeout` keeps. -/
theorem execSendTimeout_keep {tk s : State} {w} (ek : execSendTimeout w s = .next tk) : Keep s tk := by
  have kp := Keep.refl s
  refine event_keep ek ?_
  repeat' first
    | with_reducible assumption
    | simp only [keep_mk]
    | with_reducible refine State.reach_keep ?_
    | with_reducible refine State.complete_keep ?_
    | with_reducible refine keep_ite (fun _ => ?_) (fun _ => ?_)
    | split

end Sys2Proof.Machine
end

