-- ==== Sys2Proof/Laws/KeepTeardown.lean ====
section
/-! SUPPORT. What the definitions of Machine/Teardown.lean keep (Laws/Keep.lean). -/

namespace Sys2Proof.Machine

open Sys2Proof

/-- What `State.closeAway` keeps. -/
theorem State.closeAway_keep {zz s : State} {f} (kp : Keep zz s) :
    Keep zz (State.closeAway s f) := by
  unfold State.closeAway
  repeat' first
    | with_reducible assumption
    | simp only [keep_mk]
    | with_reducible refine State.modFn_keep ?_
    | with_reducible refine State.completeAll_keep ?_

/-- What `State.cancelGen` keeps. -/
theorem State.cancelGen_keep {zz s : State} {p} (kp : Keep zz s) :
    Keep zz (State.cancelGen s p) := by
  unfold State.cancelGen
  repeat' first
    | with_reducible assumption
    | simp only [keep_mk]
    | with_reducible refine State.terminate_keep ?_
    | with_reducible refine State.freeEntry_keep ?_
    | with_reducible refine State.completeAll_keep ?_
    | with_reducible refine State.dropModel_keep ?_
    | with_reducible refine State.endLoop_keep ?_
    | with_reducible refine keep_foldl (fun _ _ _ => ?_) ?_

/-- What `State.cancelStreams` keeps. -/
theorem State.cancelStreams_keep {zz s : State} {p} (kp : Keep zz s) :
    Keep zz (State.cancelStreams s p) := by
  unfold State.cancelStreams
  repeat' first
    | with_reducible assumption
    | simp only [keep_mk]
    | with_reducible refine State.endProg_keep ?_
    | with_reducible refine State.destroyBarrier_keep ?_
    | with_reducible refine State.resetBind_keep ?_
    | with_reducible refine State.freeStream_keep ?_
    | with_reducible refine State.abortStream_keep ?_
    | with_reducible refine keep_foldl (fun _ _ _ => ?_) ?_

/-- What `State.cancelLearn` keeps. -/
theorem State.cancelLearn_keep {zz s : State} {p} (kp : Keep zz s) :
    Keep zz (State.cancelLearn s p) := by
  unfold State.cancelLearn
  repeat' first
    | with_reducible assumption
    | simp only [keep_mk]
    | with_reducible refine State.interruptSweep_keep ?_
    | with_reducible refine State.complete_keep ?_
    | with_reducible refine keep_foldl (fun _ _ _ => ?_) ?_

/-- What `State.cancelTraces` keeps. -/
theorem State.cancelTraces_keep {zz s : State} {p} (kp : Keep zz s) :
    Keep zz (State.cancelTraces s p) := by
  unfold State.cancelTraces
  repeat' first
    | with_reducible assumption
    | simp only [keep_mk]
    | with_reducible refine State.dropMoor_keep ?_
    | with_reducible refine State.endGroupOps_keep ?_
    | with_reducible refine State.dropLayout_keep ?_
    | with_reducible refine State.endMoorCmds_keep ?_
    | with_reducible refine State.dropGroup_keep ?_
    | with_reducible refine State.completeAll_keep ?_
    | with_reducible refine keep_foldl (fun _ _ _ => ?_) ?_

/-- What `State.cancelWork` keeps. -/
theorem State.cancelWork_keep {zz s : State} {p} (kp : Keep zz s) :
    Keep zz (State.cancelWork s p) := by
  unfold State.cancelWork
  repeat' first
    | with_reducible assumption
    | simp only [keep_mk]
    | with_reducible refine State.cancelTraces_keep ?_
    | with_reducible refine State.completeAll_keep ?_
    | with_reducible refine State.stopQuay_keep ?_
    | with_reducible refine State.cancelGen_keep ?_
    | with_reducible refine State.finishTask_keep ?_
    | with_reducible refine State.cancelLearn_keep ?_
    | with_reducible refine State.cancelStreams_keep ?_
    | with_reducible refine keep_foldl (fun _ _ _ => ?_) ?_

/-- What `State.releasePaddock` keeps. -/
theorem State.releasePaddock_keep {zz s : State} {p} (kp : Keep zz s) :
    Keep zz (State.releasePaddock s p) := by
  unfold State.releasePaddock
  repeat' first
    | with_reducible assumption
    | simp only [keep_mk]
    | with_reducible refine State.releaseAll_keep ?_
    | with_reducible refine State.takeOutcomes_keep ?_
    | with_reducible refine State.completeAll_keep ?_

/-- What `State.paddockDestroy` keeps. -/
theorem State.paddockDestroy_keep {zz tk s : State} {c zeroing} (ek : State.paddockDestroy s c zeroing = .ok tk)
    (kp : Keep zz s) : Keep zz tk := by
  revert ek
  suffices KeepE zz (State.paddockDestroy s c zeroing) from this tk
  unfold State.paddockDestroy
  repeat' first
    | with_reducible assumption
    | simp only [keep_mk]
    | with_reducible refine keepE_ok ?_
    | exact keepE_error
    | with_reducible refine State.closeAway_keep ?_
    | with_reducible refine State.ok_keep ?_
    | with_reducible refine State.cancelWork_keep ?_
    | with_reducible refine State.releasePaddock_keep ?_
    | with_reducible refine State.wait_keep ?_
    | with_reducible refine keepE_ite (fun _ => ?_) (fun _ => ?_)

/-- What `paddockDestroyBody` keeps. -/
theorem paddockDestroyBody_keep {zz tk s : State} {c} (ek : paddockDestroyBody c s = .ok tk)
    (kp : Keep zz s) : Keep zz tk := by
  revert ek
  suffices KeepE zz (paddockDestroyBody c s) from this tk
  unfold paddockDestroyBody
  repeat' first
    | with_reducible assumption
    | refine fun _ e => State.paddockDestroy_keep e ?_

/-- What `paddockDestroyExpertBody` keeps. -/
theorem paddockDestroyExpertBody_keep {zz tk s : State} {c} (ek : paddockDestroyExpertBody c s = .ok tk)
    (kp : Keep zz s) : Keep zz tk := by
  revert ek
  suffices KeepE zz (paddockDestroyExpertBody c s) from this tk
  unfold paddockDestroyExpertBody
  repeat' first
    | with_reducible assumption
    | refine fun _ e => State.paddockDestroy_keep e ?_

/-- What `State.resetCxl` keeps. -/
theorem State.resetCxl_keep {zz s : State} {d} (kp : Keep zz s) :
    Keep zz (State.resetCxl s d) := by
  unfold State.resetCxl
  repeat' first
    | with_reducible assumption
    | simp only [keep_mk]
    | with_reducible refine State.resetBind_keep ?_
    | with_reducible refine keep_foldl (fun _ _ _ => ?_) ?_

/-- What `State.resetSend` keeps. -/
theorem State.resetSend_keep {zz s : State} {w} (kp : Keep zz s) :
    Keep zz (State.resetSend s w) := by
  unfold State.resetSend
  repeat' first
    | with_reducible assumption
    | simp only [keep_mk]
    | with_reducible refine State.complete_keep ?_
    | with_reducible refine keep_ite (fun _ => ?_) (fun _ => ?_)

/-- What `State.resetEngine` keeps. -/
theorem State.resetEngine_keep {zz s : State} {u} (kp : Keep zz s) :
    Keep zz (State.resetEngine s u) := by
  unfold State.resetEngine
  repeat' first
    | with_reducible assumption
    | simp only [keep_mk]
    | with_reducible refine State.resetProg_keep ?_
    | with_reducible refine State.resetBind_keep ?_
    | with_reducible refine State.abortColl_keep ?_
    | with_reducible refine State.resetSend_keep ?_
    | with_reducible refine State.resetCxl_keep ?_
    | with_reducible refine State.ended_keep ?_
    | with_reducible refine State.resetEnd_keep ?_
    | with_reducible refine State.stopQuay_keep ?_
    | with_reducible refine keep_ite (fun _ => ?_) (fun _ => ?_)
    | with_reducible refine keep_foldl (fun _ _ _ => ?_) ?_
    | dsimp only
    | split

/-- What `execEngineFaultReset` keeps. -/
theorem execEngineFaultReset_keep {tk s : State} {u} (ek : execEngineFaultReset u s = .next tk) : Keep s tk := by
  have kp := Keep.refl s
  refine event_keep ek ?_
  repeat' first
    | with_reducible assumption
    | with_reducible refine State.resetEngine_keep ?_

end Sys2Proof.Machine
end

