-- ==== Sys2Proof/Laws/KeepCommands.lean ====
section
/-! SUPPORT. What the definitions of Machine/Commands.lean keep (Laws/Keep.lean). -/

namespace Sys2Proof.Machine

open Sys2Proof

/-- What `execPartIdentify` keeps. -/
theorem execPartIdentify_keep {tk s : State} {w} (ek : execPartIdentify w s = .next tk) :
    Keep s tk := run_keep ek fun _ _ k _ e => partIdentifyBody_keep e k

/-- What `execPartIdentifyExpert` keeps. -/
theorem execPartIdentifyExpert_keep {tk s : State} {w} (ek : execPartIdentifyExpert w s = .next tk) :
    Keep s tk := run_keep ek fun _ _ k _ e => partIdentifyExpertBody_keep e k

/-- What `execSessionChallenge` keeps. -/
theorem execSessionChallenge_keep {tk s : State} {w} (ek : execSessionChallenge w s = .next tk) :
    Keep s tk := run_keep ek fun _ _ k _ e => sessionChallengeBody_keep e k

/-- What `execSessionChallengeExpert` keeps. -/
theorem execSessionChallengeExpert_keep {tk s : State} {w} (ek : execSessionChallengeExpert w s = .next tk) :
    Keep s tk := run_keep ek fun _ _ k _ e => sessionChallengeExpertBody_keep e k

/-- What `execSessionOpen` keeps. -/
theorem execSessionOpen_keep {tk s : State} {w} (ek : execSessionOpen w s = .next tk) :
    Keep s tk := run_keep ek fun _ _ k _ e => sessionOpenBody_keep e k

/-- What `execSessionOpenExpert` keeps. -/
theorem execSessionOpenExpert_keep {tk s : State} {w} (ek : execSessionOpenExpert w s = .next tk) :
    Keep s tk := run_keep ek fun _ _ k _ e => sessionOpenExpertBody_keep e k

/-- What `execSessionClose` keeps. -/
theorem execSessionClose_keep {tk s : State} {w} (ek : execSessionClose w s = .next tk) :
    Keep s tk := run_keep ek fun _ _ k _ e => sessionCloseBody_keep e k

/-- What `execSessionCloseExpert` keeps. -/
theorem execSessionCloseExpert_keep {tk s : State} {w} (ek : execSessionCloseExpert w s = .next tk) :
    Keep s tk := run_keep ek fun _ _ k _ e => sessionCloseExpertBody_keep e k

/-- What `execCmdCancel` keeps. -/
theorem execCmdCancel_keep {tk s : State} {w} (ek : execCmdCancel w s = .next tk) :
    Keep s tk := run_keep ek fun _ _ k _ e => cmdCancelBody_keep e k

/-- What `execCmdCancelExpert` keeps. -/
theorem execCmdCancelExpert_keep {tk s : State} {w} (ek : execCmdCancelExpert w s = .next tk) :
    Keep s tk := run_keep ek fun _ _ k _ e => cmdCancelExpertBody_keep e k

/-- What `execWorkQuery` keeps. -/
theorem execWorkQuery_keep {tk s : State} {w} (ek : execWorkQuery w s = .next tk) :
    Keep s tk := run_keep ek fun _ _ k _ e => workQueryBody_keep e k

/-- What `execWorkQueryExpert` keeps. -/
theorem execWorkQueryExpert_keep {tk s : State} {w} (ek : execWorkQueryExpert w s = .next tk) :
    Keep s tk := run_keep ek fun _ _ k _ e => workQueryExpertBody_keep e k

/-- What `execNop` keeps. -/
theorem execNop_keep {tk s : State} {w} (ek : execNop w s = .next tk) :
    Keep s tk := run_keep ek fun _ _ k _ e => nopBody_keep e k

/-- What `execNopExpert` keeps. -/
theorem execNopExpert_keep {tk s : State} {w} (ek : execNopExpert w s = .next tk) :
    Keep s tk := run_keep ek fun _ _ k _ e => nopExpertBody_keep e k

/-- What `execPaddockCreate` keeps. -/
theorem execPaddockCreate_keep {tk s : State} {w} (ek : execPaddockCreate w s = .next tk) :
    Keep s tk := run_keep ek fun _ _ k _ e => paddockCreateBody_keep e k

/-- What `execPaddockCreateExpert` keeps. -/
theorem execPaddockCreateExpert_keep {tk s : State} {w} (ek : execPaddockCreateExpert w s = .next tk) :
    Keep s tk := run_keep ek fun _ _ k _ e => paddockCreateExpertBody_keep e k

/-- What `execPaddockModify` keeps. -/
theorem execPaddockModify_keep {tk s : State} {w} (ek : execPaddockModify w s = .next tk) :
    Keep s tk := run_keep ek fun _ _ k _ e => paddockModifyBody_keep e k

/-- What `execPaddockModifyExpert` keeps. -/
theorem execPaddockModifyExpert_keep {tk s : State} {w} (ek : execPaddockModifyExpert w s = .next tk) :
    Keep s tk := run_keep ek fun _ _ k _ e => paddockModifyExpertBody_keep e k

/-- What `execPaddockDestroy` keeps. -/
theorem execPaddockDestroy_keep {tk s : State} {w} (ek : execPaddockDestroy w s = .next tk) :
    Keep s tk := run_keep ek fun _ _ k _ e => paddockDestroyBody_keep e k

/-- What `execPaddockDestroyExpert` keeps. -/
theorem execPaddockDestroyExpert_keep {tk s : State} {w} (ek : execPaddockDestroyExpert w s = .next tk) :
    Keep s tk := run_keep ek fun _ _ k _ e => paddockDestroyExpertBody_keep e k

/-- What `execPaddockQuery` keeps. -/
theorem execPaddockQuery_keep {tk s : State} {w} (ek : execPaddockQuery w s = .next tk) :
    Keep s tk := run_keep ek fun _ _ k _ e => paddockQueryBody_keep e k

/-- What `execPaddockQueryExpert` keeps. -/
theorem execPaddockQueryExpert_keep {tk s : State} {w} (ek : execPaddockQueryExpert w s = .next tk) :
    Keep s tk := run_keep ek fun _ _ k _ e => paddockQueryExpertBody_keep e k

/-- What `execPaddockKeySet` keeps. -/
theorem execPaddockKeySet_keep {tk s : State} {w} (ek : execPaddockKeySet w s = .next tk) :
    Keep s tk := run_keep ek fun _ _ k _ e => paddockKeySetBody_keep e k

/-- What `execPaddockKeySetExpert` keeps. -/
theorem execPaddockKeySetExpert_keep {tk s : State} {w} (ek : execPaddockKeySetExpert w s = .next tk) :
    Keep s tk := run_keep ek fun _ _ k _ e => paddockKeySetExpertBody_keep e k

/-- What `execKernelLoad` keeps. -/
theorem execKernelLoad_keep {tk s : State} {w hm} (ek : execKernelLoad w hm s = .next tk) :
    Keep s tk := run_keep ek fun _ _ k _ e => kernelLoadBody_keep e k

/-- What `execKernelLoadExpert` keeps. -/
theorem execKernelLoadExpert_keep {tk s : State} {w hm} (ek : execKernelLoadExpert w hm s = .next tk) :
    Keep s tk := run_keep ek fun _ _ k _ e => kernelLoadExpertBody_keep e k

/-- What `execKernelUnload` keeps. -/
theorem execKernelUnload_keep {tk s : State} {w} (ek : execKernelUnload w s = .next tk) :
    Keep s tk := run_keep ek fun _ _ k _ e => kernelUnloadBody_keep e k

/-- What `execKernelUnloadExpert` keeps. -/
theorem execKernelUnloadExpert_keep {tk s : State} {w} (ek : execKernelUnloadExpert w s = .next tk) :
    Keep s tk := run_keep ek fun _ _ k _ e => kernelUnloadExpertBody_keep e k

/-- What `execTaskLaunch` keeps. -/
theorem execTaskLaunch_keep {tk s : State} {w hm} (ek : execTaskLaunch w hm s = .next tk) :
    Keep s tk := run_keep ek fun _ _ k _ e => taskLaunchBody_keep e k

/-- What `execTaskLaunchExpert` keeps. -/
theorem execTaskLaunchExpert_keep {tk s : State} {w hm} (ek : execTaskLaunchExpert w hm s = .next tk) :
    Keep s tk := run_keep ek fun _ _ k _ e => taskLaunchExpertBody_keep e k

/-- What `execTaskAbort` keeps. -/
theorem execTaskAbort_keep {tk s : State} {w} (ek : execTaskAbort w s = .next tk) :
    Keep s tk := run_keep ek fun _ _ k _ e => taskAbortBody_keep e k

/-- What `execTaskAbortExpert` keeps. -/
theorem execTaskAbortExpert_keep {tk s : State} {w} (ek : execTaskAbortExpert w s = .next tk) :
    Keep s tk := run_keep ek fun _ _ k _ e => taskAbortExpertBody_keep e k

/-- What `execTaskPreempt` keeps. -/
theorem execTaskPreempt_keep {tk s : State} {w} (ek : execTaskPreempt w s = .next tk) :
    Keep s tk := run_keep ek fun _ _ k _ e => taskPreemptBody_keep e k

/-- What `execTaskPreemptExpert` keeps. -/
theorem execTaskPreemptExpert_keep {tk s : State} {w} (ek : execTaskPreemptExpert w s = .next tk) :
    Keep s tk := run_keep ek fun _ _ k _ e => taskPreemptExpertBody_keep e k

/-- What `execTaskResume` keeps. -/
theorem execTaskResume_keep {tk s : State} {w} (ek : execTaskResume w s = .next tk) :
    Keep s tk := run_keep ek fun _ _ k _ e => taskResumeBody_keep e k

/-- What `execTaskResumeExpert` keeps. -/
theorem execTaskResumeExpert_keep {tk s : State} {w} (ek : execTaskResumeExpert w s = .next tk) :
    Keep s tk := run_keep ek fun _ _ k _ e => taskResumeExpertBody_keep e k

/-- What `execTaskQuery` keeps. -/
theorem execTaskQuery_keep {tk s : State} {w} (ek : execTaskQuery w s = .next tk) :
    Keep s tk := run_keep ek fun _ _ k _ e => taskQueryBody_keep e k

/-- What `execTaskQueryExpert` keeps. -/
theorem execTaskQueryExpert_keep {tk s : State} {w} (ek : execTaskQueryExpert w s = .next tk) :
    Keep s tk := run_keep ek fun _ _ k _ e => taskQueryExpertBody_keep e k

/-- What `execTeamQuery` keeps. -/
theorem execTeamQuery_keep {tk s : State} {w} (ek : execTeamQuery w s = .next tk) :
    Keep s tk := run_keep ek fun _ _ k _ e => teamQueryBody_keep e k

/-- What `execTeamQueryExpert` keeps. -/
theorem execTeamQueryExpert_keep {tk s : State} {w} (ek : execTeamQueryExpert w s = .next tk) :
    Keep s tk := run_keep ek fun _ _ k _ e => teamQueryExpertBody_keep e k

/-- What `execRngFill` keeps. -/
theorem execRngFill_keep {tk s : State} {w} (ek : execRngFill w s = .next tk) :
    Keep s tk := run_keep ek fun _ _ k _ e => rngFillBody_keep e k

/-- What `execRngFillExpert` keeps. -/
theorem execRngFillExpert_keep {tk s : State} {w hm} (ek : execRngFillExpert w hm s = .next tk) :
    Keep s tk := run_keep ek fun _ _ k _ e => rngFillExpertBody_keep e k

/-- What `execRngLaneState` keeps. -/
theorem execRngLaneState_keep {tk s : State} {w} (ek : execRngLaneState w s = .next tk) :
    Keep s tk := run_keep ek fun _ _ k _ e => rngLaneStateBody_keep e k

/-- What `execRngLaneStateExpert` keeps. -/
theorem execRngLaneStateExpert_keep {tk s : State} {w hm} (ek : execRngLaneStateExpert w hm s = .next tk) :
    Keep s tk := run_keep ek fun _ _ k _ e => rngLaneStateExpertBody_keep e k

/-- What `execStreamOpen` keeps. -/
theorem execStreamOpen_keep {tk s : State} {w} (ek : execStreamOpen w s = .next tk) :
    Keep s tk := run_keep ek fun _ _ k _ e => streamOpenBody_keep e k

/-- What `execStreamOpenExpert` keeps. -/
theorem execStreamOpenExpert_keep {tk s : State} {w} (ek : execStreamOpenExpert w s = .next tk) :
    Keep s tk := run_keep ek fun _ _ k _ e => streamOpenExpertBody_keep e k

/-- What `execStreamBind` keeps. -/
theorem execStreamBind_keep {tk s : State} {w} (ek : execStreamBind w s = .next tk) :
    Keep s tk := run_keep ek fun _ _ k _ e => streamBindBody_keep e k

/-- What `execStreamBindExpert` keeps. -/
theorem execStreamBindExpert_keep {tk s : State} {w} (ek : execStreamBindExpert w s = .next tk) :
    Keep s tk := run_keep ek fun _ _ k _ e => streamBindExpertBody_keep e k

/-- What `execStreamClose` keeps. -/
theorem execStreamClose_keep {tk s : State} {w} (ek : execStreamClose w s = .next tk) :
    Keep s tk := run_keep ek fun _ _ k _ e => streamCloseBody_keep e k

/-- What `execStreamCloseExpert` keeps. -/
theorem execStreamCloseExpert_keep {tk s : State} {w} (ek : execStreamCloseExpert w s = .next tk) :
    Keep s tk := run_keep ek fun _ _ k _ e => streamCloseExpertBody_keep e k

/-- What `execStreamAbort` keeps. -/
theorem execStreamAbort_keep {tk s : State} {w} (ek : execStreamAbort w s = .next tk) :
    Keep s tk := run_keep ek fun _ _ k _ e => streamAbortBody_keep e k

/-- What `execStreamAbortExpert` keeps. -/
theorem execStreamAbortExpert_keep {tk s : State} {w} (ek : execStreamAbortExpert w s = .next tk) :
    Keep s tk := run_keep ek fun _ _ k _ e => streamAbortExpertBody_keep e k

/-- What `execStreamQuery` keeps. -/
theorem execStreamQuery_keep {tk s : State} {w} (ek : execStreamQuery w s = .next tk) :
    Keep s tk := run_keep ek fun _ _ k _ e => streamQueryBody_keep e k

/-- What `execStreamQueryExpert` keeps. -/
theorem execStreamQueryExpert_keep {tk s : State} {w} (ek : execStreamQueryExpert w s = .next tk) :
    Keep s tk := run_keep ek fun _ _ k _ e => streamQueryExpertBody_keep e k

/-- What `execStreamFree` keeps. -/
theorem execStreamFree_keep {tk s : State} {w} (ek : execStreamFree w s = .next tk) :
    Keep s tk := run_keep ek fun _ _ k _ e => streamFreeBody_keep e k

/-- What `execStreamFreeExpert` keeps. -/
theorem execStreamFreeExpert_keep {tk s : State} {w} (ek : execStreamFreeExpert w s = .next tk) :
    Keep s tk := run_keep ek fun _ _ k _ e => streamFreeExpertBody_keep e k

/-- What `execStreamRearm` keeps. -/
theorem execStreamRearm_keep {tk s : State} {w} (ek : execStreamRearm w s = .next tk) :
    Keep s tk := run_keep ek fun _ _ k _ e => streamRearmBody_keep e k

/-- What `execStreamRearmExpert` keeps. -/
theorem execStreamRearmExpert_keep {tk s : State} {w} (ek : execStreamRearmExpert w s = .next tk) :
    Keep s tk := run_keep ek fun _ _ k _ e => streamRearmExpertBody_keep e k

/-- What `execBarrierCreate` keeps. -/
theorem execBarrierCreate_keep {tk s : State} {w} (ek : execBarrierCreate w s = .next tk) :
    Keep s tk := run_keep ek fun _ _ k _ e => barrierCreateBody_keep e k

/-- What `execBarrierCreateExpert` keeps. -/
theorem execBarrierCreateExpert_keep {tk s : State} {w} (ek : execBarrierCreateExpert w s = .next tk) :
    Keep s tk := run_keep ek fun _ _ k _ e => barrierCreateExpertBody_keep e k

/-- What `execBarrierArrive` keeps. -/
theorem execBarrierArrive_keep {tk s : State} {w} (ek : execBarrierArrive w s = .next tk) :
    Keep s tk := run_keep ek fun _ _ k _ e => barrierArriveBody_keep e k

/-- What `execBarrierArriveExpert` keeps. -/
theorem execBarrierArriveExpert_keep {tk s : State} {w} (ek : execBarrierArriveExpert w s = .next tk) :
    Keep s tk := run_keep ek fun _ _ k _ e => barrierArriveExpertBody_keep e k

/-- What `execBarrierDestroy` keeps. -/
theorem execBarrierDestroy_keep {tk s : State} {w} (ek : execBarrierDestroy w s = .next tk) :
    Keep s tk := run_keep ek fun _ _ k _ e => barrierDestroyBody_keep e k

/-- What `execBarrierDestroyExpert` keeps. -/
theorem execBarrierDestroyExpert_keep {tk s : State} {w} (ek : execBarrierDestroyExpert w s = .next tk) :
    Keep s tk := run_keep ek fun _ _ k _ e => barrierDestroyExpertBody_keep e k

/-- What `execBasinQuery` keeps. -/
theorem execBasinQuery_keep {tk s : State} {w} (ek : execBasinQuery w s = .next tk) :
    Keep s tk := run_keep ek fun _ _ k _ e => basinQueryBody_keep e k

/-- What `execBasinQueryExpert` keeps. -/
theorem execBasinQueryExpert_keep {tk s : State} {w} (ek : execBasinQueryExpert w s = .next tk) :
    Keep s tk := run_keep ek fun _ _ k _ e => basinQueryExpertBody_keep e k

/-- What `execMemAlloc` keeps. -/
theorem execMemAlloc_keep {tk s : State} {w} (ek : execMemAlloc w s = .next tk) :
    Keep s tk := run_keep ek fun _ _ k _ e => memAllocBody_keep e k

/-- What `execMemAllocExpert` keeps. -/
theorem execMemAllocExpert_keep {tk s : State} {w} (ek : execMemAllocExpert w s = .next tk) :
    Keep s tk := run_keep ek fun _ _ k _ e => memAllocExpertBody_keep e k

/-- What `execMemFree` keeps. -/
theorem execMemFree_keep {tk s : State} {w} (ek : execMemFree w s = .next tk) :
    Keep s tk := run_keep ek fun _ _ k _ e => memFreeBody_keep e k

/-- What `execMemFreeExpert` keeps. -/
theorem execMemFreeExpert_keep {tk s : State} {w} (ek : execMemFreeExpert w s = .next tk) :
    Keep s tk := run_keep ek fun _ _ k _ e => memFreeExpertBody_keep e k

/-- What `execMemQuery` keeps. -/
theorem execMemQuery_keep {tk s : State} {w} (ek : execMemQuery w s = .next tk) :
    Keep s tk := run_keep ek fun _ _ k _ e => memQueryBody_keep e k

/-- What `execMemQueryExpert` keeps. -/
theorem execMemQueryExpert_keep {tk s : State} {w} (ek : execMemQueryExpert w s = .next tk) :
    Keep s tk := run_keep ek fun _ _ k _ e => memQueryExpertBody_keep e k

/-- What `execMemFill` keeps. -/
theorem execMemFill_keep {tk s : State} {w} (ek : execMemFill w s = .next tk) :
    Keep s tk := run_keep ek fun _ _ k _ e => memFillBody_keep e k

/-- What `execMemFillExpert` keeps. -/
theorem execMemFillExpert_keep {tk s : State} {w} (ek : execMemFillExpert w s = .next tk) :
    Keep s tk := run_keep ek fun _ _ k _ e => memFillExpertBody_keep e k

/-- What `execMemMapout` keeps. -/
theorem execMemMapout_keep {tk s : State} {w} (ek : execMemMapout w s = .next tk) :
    Keep s tk := run_keep ek fun _ _ k _ e => memMapoutBody_keep e k

/-- What `execMemMapoutExpert` keeps. -/
theorem execMemMapoutExpert_keep {tk s : State} {w} (ek : execMemMapoutExpert w s = .next tk) :
    Keep s tk := run_keep ek fun _ _ k _ e => memMapoutExpertBody_keep e k

/-- What `execNvwProgram` keeps. -/
theorem execNvwProgram_keep {tk s : State} {w} (ek : execNvwProgram w s = .next tk) :
    Keep s tk := run_keep ek fun _ _ k _ e => nvwProgramBody_keep e k

/-- What `execNvwProgramExpert` keeps. -/
theorem execNvwProgramExpert_keep {tk s : State} {w} (ek : execNvwProgramExpert w s = .next tk) :
    Keep s tk := run_keep ek fun _ _ k _ e => nvwProgramExpertBody_keep e k

/-- What `execNvwSeal` keeps. -/
theorem execNvwSeal_keep {tk s : State} {w} (ek : execNvwSeal w s = .next tk) :
    Keep s tk := run_keep ek fun _ _ k _ e => nvwSealBody_keep e k

/-- What `execNvwSealExpert` keeps. -/
theorem execNvwSealExpert_keep {tk s : State} {w hm} (ek : execNvwSealExpert w hm s = .next tk) :
    Keep s tk := run_keep ek fun _ _ k _ e => nvwSealExpertBody_keep e k

/-- What `execNvwErase` keeps. -/
theorem execNvwErase_keep {tk s : State} {w} (ek : execNvwErase w s = .next tk) :
    Keep s tk := run_keep ek fun _ _ k _ e => nvwEraseBody_keep e k

/-- What `execNvwEraseExpert` keeps. -/
theorem execNvwEraseExpert_keep {tk s : State} {w} (ek : execNvwEraseExpert w s = .next tk) :
    Keep s tk := run_keep ek fun _ _ k _ e => nvwEraseExpertBody_keep e k

/-- What `execNvwGrant` keeps. -/
theorem execNvwGrant_keep {tk s : State} {w} (ek : execNvwGrant w s = .next tk) :
    Keep s tk := run_keep ek fun _ _ k _ e => nvwGrantBody_keep e k

/-- What `execNvwGrantExpert` keeps. -/
theorem execNvwGrantExpert_keep {tk s : State} {w} (ek : execNvwGrantExpert w s = .next tk) :
    Keep s tk := run_keep ek fun _ _ k _ e => nvwGrantExpertBody_keep e k

/-- What `execNvwQuery` keeps. -/
theorem execNvwQuery_keep {tk s : State} {w} (ek : execNvwQuery w s = .next tk) :
    Keep s tk := run_keep ek fun _ _ k _ e => nvwQueryBody_keep e k

/-- What `execNvwQueryExpert` keeps. -/
theorem execNvwQueryExpert_keep {tk s : State} {w} (ek : execNvwQueryExpert w s = .next tk) :
    Keep s tk := run_keep ek fun _ _ k _ e => nvwQueryExpertBody_keep e k

/-- What `execParkQuery` keeps. -/
theorem execParkQuery_keep {tk s : State} {w} (ek : execParkQuery w s = .next tk) :
    Keep s tk := run_keep ek fun _ _ k _ e => parkQueryBody_keep e k

/-- What `execMemTelemetry` keeps. -/
theorem execMemTelemetry_keep {tk s : State} {w} (ek : execMemTelemetry w s = .next tk) :
    Keep s tk := run_keep ek fun _ _ k _ e => memTelemetryBody_keep e k

/-- What `execMemTelemetryExpert` keeps. -/
theorem execMemTelemetryExpert_keep {tk s : State} {w} (ek : execMemTelemetryExpert w s = .next tk) :
    Keep s tk := run_keep ek fun _ _ k _ e => memTelemetryExpertBody_keep e k

/-- What `execGenModelRegister` keeps. -/
theorem execGenModelRegister_keep {tk s : State} {w hm} (ek : execGenModelRegister w hm s = .next tk) :
    Keep s tk := run_keep ek fun _ _ k _ e => genModelRegisterBody_keep e k

/-- What `execGenModelRegisterExpert` keeps. -/
theorem execGenModelRegisterExpert_keep {tk s : State} {w hm} (ek : execGenModelRegisterExpert w hm s = .next tk) :
    Keep s tk := run_keep ek fun _ _ k _ e => genModelRegisterExpertBody_keep e k

/-- What `execGenModelRelease` keeps. -/
theorem execGenModelRelease_keep {tk s : State} {w} (ek : execGenModelRelease w s = .next tk) :
    Keep s tk := run_keep ek fun _ _ k _ e => genModelReleaseBody_keep e k

/-- What `execGenModelReleaseExpert` keeps. -/
theorem execGenModelReleaseExpert_keep {tk s : State} {w} (ek : execGenModelReleaseExpert w s = .next tk) :
    Keep s tk := run_keep ek fun _ _ k _ e => genModelReleaseExpertBody_keep e k

/-- What `execGenAdapterLoad` keeps. -/
theorem execGenAdapterLoad_keep {tk s : State} {w} (ek : execGenAdapterLoad w s = .next tk) :
    Keep s tk := run_keep ek fun _ _ k _ e => genAdapterLoadBody_keep e k

/-- What `execGenAdapterLoadExpert` keeps. -/
theorem execGenAdapterLoadExpert_keep {tk s : State} {w} (ek : execGenAdapterLoadExpert w s = .next tk) :
    Keep s tk := run_keep ek fun _ _ k _ e => genAdapterLoadExpertBody_keep e k

/-- What `execGenAdapterUnload` keeps. -/
theorem execGenAdapterUnload_keep {tk s : State} {w} (ek : execGenAdapterUnload w s = .next tk) :
    Keep s tk := run_keep ek fun _ _ k _ e => genAdapterUnloadBody_keep e k

/-- What `execGenAdapterUnloadExpert` keeps. -/
theorem execGenAdapterUnloadExpert_keep {tk s : State} {w} (ek : execGenAdapterUnloadExpert w s = .next tk) :
    Keep s tk := run_keep ek fun _ _ k _ e => genAdapterUnloadExpertBody_keep e k

/-- What `execGenRingCreate` keeps. -/
theorem execGenRingCreate_keep {tk s : State} {w} (ek : execGenRingCreate w s = .next tk) :
    Keep s tk := run_keep ek fun _ _ k _ e => genRingCreateBody_keep e k

/-- What `execGenRingCreateExpert` keeps. -/
theorem execGenRingCreateExpert_keep {tk s : State} {w} (ek : execGenRingCreateExpert w s = .next tk) :
    Keep s tk := run_keep ek fun _ _ k _ e => genRingCreateExpertBody_keep e k

/-- What `execGenRingAdvance` keeps. -/
theorem execGenRingAdvance_keep {tk s : State} {w} (ek : execGenRingAdvance w s = .next tk) :
    Keep s tk := run_keep ek fun _ _ k _ e => genRingAdvanceBody_keep e k

/-- What `execGenRingAdvanceExpert` keeps. -/
theorem execGenRingAdvanceExpert_keep {tk s : State} {w} (ek : execGenRingAdvanceExpert w s = .next tk) :
    Keep s tk := run_keep ek fun _ _ k _ e => genRingAdvanceExpertBody_keep e k

/-- What `execGenLoopStart` keeps. -/
theorem execGenLoopStart_keep {tk s : State} {w} (ek : execGenLoopStart w s = .next tk) :
    Keep s tk := run_keep ek fun _ _ k _ e => genLoopStartBody_keep e k

/-- What `execGenLoopStartExpert` keeps. -/
theorem execGenLoopStartExpert_keep {tk s : State} {w} (ek : execGenLoopStartExpert w s = .next tk) :
    Keep s tk := run_keep ek fun _ _ k _ e => genLoopStartExpertBody_keep e k

/-- What `execGenLoopStop` keeps. -/
theorem execGenLoopStop_keep {tk s : State} {w} (ek : execGenLoopStop w s = .next tk) :
    Keep s tk := run_keep ek fun _ _ k _ e => genLoopStopBody_keep e k

/-- What `execGenLoopStopExpert` keeps. -/
theorem execGenLoopStopExpert_keep {tk s : State} {w} (ek : execGenLoopStopExpert w s = .next tk) :
    Keep s tk := run_keep ek fun _ _ k _ e => genLoopStopExpertBody_keep e k

/-- What `execGenAdmit` keeps. -/
theorem execGenAdmit_keep {tk s : State} {w hm} (ek : execGenAdmit w hm s = .next tk) :
    Keep s tk := run_keep ek fun _ _ k _ e => genAdmitBody_keep e k

/-- What `execGenAdmitExpert` keeps. -/
theorem execGenAdmitExpert_keep {tk s : State} {w hm} (ek : execGenAdmitExpert w hm s = .next tk) :
    Keep s tk := run_keep ek fun _ _ k _ e => genAdmitExpertBody_keep e k

/-- What `execGenCancel` keeps. -/
theorem execGenCancel_keep {tk s : State} {w} (ek : execGenCancel w s = .next tk) :
    Keep s tk := run_keep ek fun _ _ k _ e => genCancelBody_keep e k

/-- What `execGenCancelExpert` keeps. -/
theorem execGenCancelExpert_keep {tk s : State} {w} (ek : execGenCancelExpert w s = .next tk) :
    Keep s tk := run_keep ek fun _ _ k _ e => genCancelExpertBody_keep e k

/-- What `execGenPark` keeps. -/
theorem execGenPark_keep {tk s : State} {w} (ek : execGenPark w s = .next tk) :
    Keep s tk := run_keep ek fun _ _ k _ e => genParkBody_keep e k

/-- What `execGenParkExpert` keeps. -/
theorem execGenParkExpert_keep {tk s : State} {w} (ek : execGenParkExpert w s = .next tk) :
    Keep s tk := run_keep ek fun _ _ k _ e => genParkExpertBody_keep e k

/-- What `execGenResume` keeps. -/
theorem execGenResume_keep {tk s : State} {w hm} (ek : execGenResume w hm s = .next tk) :
    Keep s tk := run_keep ek fun _ _ k _ e => genResumeBody_keep e k

/-- What `execGenResumeExpert` keeps. -/
theorem execGenResumeExpert_keep {tk s : State} {w hm} (ek : execGenResumeExpert w hm s = .next tk) :
    Keep s tk := run_keep ek fun _ _ k _ e => genResumeExpertBody_keep e k

/-- What `execGenQuery` keeps. -/
theorem execGenQuery_keep {tk s : State} {w} (ek : execGenQuery w s = .next tk) :
    Keep s tk := run_keep ek fun _ _ k _ e => genQueryBody_keep e k

/-- What `execGenQueryExpert` keeps. -/
theorem execGenQueryExpert_keep {tk s : State} {w} (ek : execGenQueryExpert w s = .next tk) :
    Keep s tk := run_keep ek fun _ _ k _ e => genQueryExpertBody_keep e k

/-- What `execGenRelease` keeps. -/
theorem execGenRelease_keep {tk s : State} {w} (ek : execGenRelease w s = .next tk) :
    Keep s tk := run_keep ek fun _ _ k _ e => genReleaseBody_keep e k

/-- What `execGenReleaseExpert` keeps. -/
theorem execGenReleaseExpert_keep {tk s : State} {w} (ek : execGenReleaseExpert w s = .next tk) :
    Keep s tk := run_keep ek fun _ _ k _ e => genReleaseExpertBody_keep e k

/-- What `execGenLoopQuery` keeps. -/
theorem execGenLoopQuery_keep {tk s : State} {w} (ek : execGenLoopQuery w s = .next tk) :
    Keep s tk := run_keep ek fun _ _ k _ e => genLoopQueryBody_keep e k

/-- What `execGenLoopQueryExpert` keeps. -/
theorem execGenLoopQueryExpert_keep {tk s : State} {w} (ek : execGenLoopQueryExpert w s = .next tk) :
    Keep s tk := run_keep ek fun _ _ k _ e => genLoopQueryExpertBody_keep e k

/-- What `execLearnSetRegister` keeps. -/
theorem execLearnSetRegister_keep {tk s : State} {w hm} (ek : execLearnSetRegister w hm s = .next tk) :
    Keep s tk := run_keep ek fun _ _ k _ e => learnSetRegisterBody_keep e k

/-- What `execLearnSetRegisterExpert` keeps. -/
theorem execLearnSetRegisterExpert_keep {tk s : State} {w hm} (ek : execLearnSetRegisterExpert w hm s = .next tk) :
    Keep s tk := run_keep ek fun _ _ k _ e => learnSetRegisterExpertBody_keep e k

/-- What `execLearnSetRelease` keeps. -/
theorem execLearnSetRelease_keep {tk s : State} {w} (ek : execLearnSetRelease w s = .next tk) :
    Keep s tk := run_keep ek fun _ _ k _ e => learnSetReleaseBody_keep e k

/-- What `execLearnSetReleaseExpert` keeps. -/
theorem execLearnSetReleaseExpert_keep {tk s : State} {w} (ek : execLearnSetReleaseExpert w s = .next tk) :
    Keep s tk := run_keep ek fun _ _ k _ e => learnSetReleaseExpertBody_keep e k

/-- What `execLearnExchange` keeps. -/
theorem execLearnExchange_keep {tk s : State} {w} (ek : execLearnExchange w s = .next tk) :
    Keep s tk := run_keep ek fun _ _ k _ e => learnExchangeBody_keep e k

/-- What `execLearnExchangeExpert` keeps. -/
theorem execLearnExchangeExpert_keep {tk s : State} {w} (ek : execLearnExchangeExpert w s = .next tk) :
    Keep s tk := run_keep ek fun _ _ k _ e => learnExchangeExpertBody_keep e k

/-- What `execLearnNorm` keeps. -/
theorem execLearnNorm_keep {tk s : State} {w} (ek : execLearnNorm w s = .next tk) :
    Keep s tk := run_keep ek fun _ _ k _ e => learnNormBody_keep e k

/-- What `execLearnNormExpert` keeps. -/
theorem execLearnNormExpert_keep {tk s : State} {w} (ek : execLearnNormExpert w s = .next tk) :
    Keep s tk := run_keep ek fun _ _ k _ e => learnNormExpertBody_keep e k

/-- What `execLearnSweep` keeps. -/
theorem execLearnSweep_keep {tk s : State} {w} (ek : execLearnSweep w s = .next tk) :
    Keep s tk := run_keep ek fun _ _ k _ e => learnSweepBody_keep e k

/-- What `execLearnSweepExpert` keeps. -/
theorem execLearnSweepExpert_keep {tk s : State} {w} (ek : execLearnSweepExpert w s = .next tk) :
    Keep s tk := run_keep ek fun _ _ k _ e => learnSweepExpertBody_keep e k

/-- What `execLearnMicroLoad` keeps. -/
theorem execLearnMicroLoad_keep {tk s : State} {w hm} (ek : execLearnMicroLoad w hm s = .next tk) :
    Keep s tk := run_keep ek fun _ _ k _ e => learnMicroLoadBody_keep e k

/-- What `execLearnMicroLoadExpert` keeps. -/
theorem execLearnMicroLoadExpert_keep {tk s : State} {w hm} (ek : execLearnMicroLoadExpert w hm s = .next tk) :
    Keep s tk := run_keep ek fun _ _ k _ e => learnMicroLoadExpertBody_keep e k

/-- What `execLearnMicroUnload` keeps. -/
theorem execLearnMicroUnload_keep {tk s : State} {w} (ek : execLearnMicroUnload w s = .next tk) :
    Keep s tk := run_keep ek fun _ _ k _ e => learnMicroUnloadBody_keep e k

/-- What `execLearnMicroUnloadExpert` keeps. -/
theorem execLearnMicroUnloadExpert_keep {tk s : State} {w} (ek : execLearnMicroUnloadExpert w s = .next tk) :
    Keep s tk := run_keep ek fun _ _ k _ e => learnMicroUnloadExpertBody_keep e k

/-- What `execLearnRouteCheck` keeps. -/
theorem execLearnRouteCheck_keep {tk s : State} {w hm} (ek : execLearnRouteCheck w hm s = .next tk) :
    Keep s tk := run_keep ek fun _ _ k _ e => learnRouteCheckBody_keep e k

/-- What `execLearnRouteCheckExpert` keeps. -/
theorem execLearnRouteCheckExpert_keep {tk s : State} {w hm} (ek : execLearnRouteCheckExpert w hm s = .next tk) :
    Keep s tk := run_keep ek fun _ _ k _ e => learnRouteCheckExpertBody_keep e k

/-- What `execLearnQuery` keeps. -/
theorem execLearnQuery_keep {tk s : State} {w} (ek : execLearnQuery w s = .next tk) :
    Keep s tk := run_keep ek fun _ _ k _ e => learnQueryBody_keep e k

/-- What `execLearnQueryExpert` keeps. -/
theorem execLearnQueryExpert_keep {tk s : State} {w} (ek : execLearnQueryExpert w s = .next tk) :
    Keep s tk := run_keep ek fun _ _ k _ e => learnQueryExpertBody_keep e k

/-- What `execReinLayoutRegister` keeps. -/
theorem execReinLayoutRegister_keep {tk s : State} {w hm} (ek : execReinLayoutRegister w hm s = .next tk) :
    Keep s tk := run_keep ek fun _ _ k _ e => reinLayoutRegisterBody_keep e k

/-- What `execReinLayoutRegisterExpert` keeps. -/
theorem execReinLayoutRegisterExpert_keep {tk s : State} {w hm} (ek : execReinLayoutRegisterExpert w hm s = .next tk) :
    Keep s tk := run_keep ek fun _ _ k _ e => reinLayoutRegisterExpertBody_keep e k

/-- What `execReinLayoutRelease` keeps. -/
theorem execReinLayoutRelease_keep {tk s : State} {w} (ek : execReinLayoutRelease w s = .next tk) :
    Keep s tk := run_keep ek fun _ _ k _ e => reinLayoutReleaseBody_keep e k

/-- What `execReinLayoutReleaseExpert` keeps. -/
theorem execReinLayoutReleaseExpert_keep {tk s : State} {w} (ek : execReinLayoutReleaseExpert w s = .next tk) :
    Keep s tk := run_keep ek fun _ _ k _ e => reinLayoutReleaseExpertBody_keep e k

/-- What `execReinDrain` keeps. -/
theorem execReinDrain_keep {tk s : State} {w} (ek : execReinDrain w s = .next tk) :
    Keep s tk := run_keep ek fun _ _ k _ e => reinDrainBody_keep e k

/-- What `execReinDrainExpert` keeps. -/
theorem execReinDrainExpert_keep {tk s : State} {w} (ek : execReinDrainExpert w s = .next tk) :
    Keep s tk := run_keep ek fun _ _ k _ e => reinDrainExpertBody_keep e k

/-- What `execReinQuery` keeps. -/
theorem execReinQuery_keep {tk s : State} {w} (ek : execReinQuery w s = .next tk) :
    Keep s tk := run_keep ek fun _ _ k _ e => reinQueryBody_keep e k

/-- What `execReinQueryExpert` keeps. -/
theorem execReinQueryExpert_keep {tk s : State} {w} (ek : execReinQueryExpert w s = .next tk) :
    Keep s tk := run_keep ek fun _ _ k _ e => reinQueryExpertBody_keep e k

/-- What `execTraceGroupCreate` keeps. -/
theorem execTraceGroupCreate_keep {tk s : State} {w hm} (ek : execTraceGroupCreate w hm s = .next tk) :
    Keep s tk := run_keep ek fun _ _ k _ e => traceGroupCreateBody_keep e k

/-- What `execTraceGroupCreateExpert` keeps. -/
theorem execTraceGroupCreateExpert_keep {tk s : State} {w hm} (ek : execTraceGroupCreateExpert w hm s = .next tk) :
    Keep s tk := run_keep ek fun _ _ k _ e => traceGroupCreateExpertBody_keep e k

/-- What `execTraceGroupDestroy` keeps. -/
theorem execTraceGroupDestroy_keep {tk s : State} {w} (ek : execTraceGroupDestroy w s = .next tk) :
    Keep s tk := run_keep ek fun _ _ k _ e => traceGroupDestroyBody_keep e k

/-- What `execTraceGroupDestroyExpert` keeps. -/
theorem execTraceGroupDestroyExpert_keep {tk s : State} {w} (ek : execTraceGroupDestroyExpert w s = .next tk) :
    Keep s tk := run_keep ek fun _ _ k _ e => traceGroupDestroyExpertBody_keep e k

/-- What `execTraceColl` keeps. -/
theorem execTraceColl_keep {tk s : State} {w} (ek : execTraceColl w s = .next tk) :
    Keep s tk := run_keep ek fun _ _ k _ e => traceCollBody_keep e k

/-- What `execTraceCollExpert` keeps. -/
theorem execTraceCollExpert_keep {tk s : State} {w hm} (ek : execTraceCollExpert w hm s = .next tk) :
    Keep s tk := run_keep ek fun _ _ k _ e => traceCollExpertBody_keep e k

/-- What `execTraceCollCancel` keeps. -/
theorem execTraceCollCancel_keep {tk s : State} {w} (ek : execTraceCollCancel w s = .next tk) :
    Keep s tk := run_keep ek fun _ _ k _ e => traceCollCancelBody_keep e k

/-- What `execTraceCollCancelExpert` keeps. -/
theorem execTraceCollCancelExpert_keep {tk s : State} {w} (ek : execTraceCollCancelExpert w s = .next tk) :
    Keep s tk := run_keep ek fun _ _ k _ e => traceCollCancelExpertBody_keep e k

/-- What `execTraceWindowRegister` keeps. -/
theorem execTraceWindowRegister_keep {tk s : State} {w} (ek : execTraceWindowRegister w s = .next tk) :
    Keep s tk := run_keep ek fun _ _ k _ e => traceWindowRegisterBody_keep e k

/-- What `execTraceWindowRegisterExpert` keeps. -/
theorem execTraceWindowRegisterExpert_keep {tk s : State} {w} (ek : execTraceWindowRegisterExpert w s = .next tk) :
    Keep s tk := run_keep ek fun _ _ k _ e => traceWindowRegisterExpertBody_keep e k

/-- What `execTraceSend` keeps. -/
theorem execTraceSend_keep {tk s : State} {w hm} (ek : execTraceSend w hm s = .next tk) :
    Keep s tk := run_keep ek fun _ _ k _ e => traceSendBody_keep e k

/-- What `execTraceSendExpert` keeps. -/
theorem execTraceSendExpert_keep {tk s : State} {w hm} (ek : execTraceSendExpert w hm s = .next tk) :
    Keep s tk := run_keep ek fun _ _ k _ e => traceSendExpertBody_keep e k

/-- What `execTraceRecv` keeps. -/
theorem execTraceRecv_keep {tk s : State} {w} (ek : execTraceRecv w s = .next tk) :
    Keep s tk := run_keep ek fun _ _ k _ e => traceRecvBody_keep e k

/-- What `execTraceRecvExpert` keeps. -/
theorem execTraceRecvExpert_keep {tk s : State} {w} (ek : execTraceRecvExpert w s = .next tk) :
    Keep s tk := run_keep ek fun _ _ k _ e => traceRecvExpertBody_keep e k

/-- What `execTraceMsgCancel` keeps. -/
theorem execTraceMsgCancel_keep {tk s : State} {w} (ek : execTraceMsgCancel w s = .next tk) :
    Keep s tk := run_keep ek fun _ _ k _ e => traceMsgCancelBody_keep e k

/-- What `execTraceMsgCancelExpert` keeps. -/
theorem execTraceMsgCancelExpert_keep {tk s : State} {w} (ek : execTraceMsgCancelExpert w s = .next tk) :
    Keep s tk := run_keep ek fun _ _ k _ e => traceMsgCancelExpertBody_keep e k

/-- What `execTracePortQuery` keeps. -/
theorem execTracePortQuery_keep {tk s : State} {w} (ek : execTracePortQuery w s = .next tk) :
    Keep s tk := run_keep ek fun _ _ k _ e => tracePortQueryBody_keep e k

/-- What `execTracePortQueryExpert` keeps. -/
theorem execTracePortQueryExpert_keep {tk s : State} {w} (ek : execTracePortQueryExpert w s = .next tk) :
    Keep s tk := run_keep ek fun _ _ k _ e => tracePortQueryExpertBody_keep e k

/-- What `execTracePortControl` keeps. -/
theorem execTracePortControl_keep {tk s : State} {w} (ek : execTracePortControl w s = .next tk) :
    Keep s tk := run_keep ek fun _ _ k _ e => tracePortControlBody_keep e k

/-- What `execTracePortControlExpert` keeps. -/
theorem execTracePortControlExpert_keep {tk s : State} {w} (ek : execTracePortControlExpert w s = .next tk) :
    Keep s tk := run_keep ek fun _ _ k _ e => tracePortControlExpertBody_keep e k

/-- What `execTraceTimeQuery` keeps. -/
theorem execTraceTimeQuery_keep {tk s : State} {w} (ek : execTraceTimeQuery w s = .next tk) :
    Keep s tk := run_keep ek fun _ _ k _ e => traceTimeQueryBody_keep e k

/-- What `execTraceTimeConfig` keeps. -/
theorem execTraceTimeConfig_keep {tk s : State} {w} (ek : execTraceTimeConfig w s = .next tk) :
    Keep s tk := run_keep ek fun _ _ k _ e => traceTimeConfigBody_keep e k

/-- What `execTraceGroupQuery` keeps. -/
theorem execTraceGroupQuery_keep {tk s : State} {w} (ek : execTraceGroupQuery w s = .next tk) :
    Keep s tk := run_keep ek fun _ _ k _ e => traceGroupQueryBody_keep e k

/-- What `execTraceGroupQueryExpert` keeps. -/
theorem execTraceGroupQueryExpert_keep {tk s : State} {w} (ek : execTraceGroupQueryExpert w s = .next tk) :
    Keep s tk := run_keep ek fun _ _ k _ e => traceGroupQueryExpertBody_keep e k

/-- What `execResilMoorRefresh` keeps. -/
theorem execResilMoorRefresh_keep {tk s : State} {w} (ek : execResilMoorRefresh w s = .next tk) :
    Keep s tk := run_keep ek fun _ _ k _ e => resilMoorRefreshBody_keep e k

/-- What `execResilMoorRefreshExpert` keeps. -/
theorem execResilMoorRefreshExpert_keep {tk s : State} {w} (ek : execResilMoorRefreshExpert w s = .next tk) :
    Keep s tk := run_keep ek fun _ _ k _ e => resilMoorRefreshExpertBody_keep e k

/-- What `execResilMoorQuery` keeps. -/
theorem execResilMoorQuery_keep {tk s : State} {w} (ek : execResilMoorQuery w s = .next tk) :
    Keep s tk := run_keep ek fun _ _ k _ e => resilMoorQueryBody_keep e k

/-- What `execResilMoorQueryExpert` keeps. -/
theorem execResilMoorQueryExpert_keep {tk s : State} {w} (ek : execResilMoorQueryExpert w s = .next tk) :
    Keep s tk := run_keep ek fun _ _ k _ e => resilMoorQueryExpertBody_keep e k

/-- What `execResilMoorDestroy` keeps. -/
theorem execResilMoorDestroy_keep {tk s : State} {w} (ek : execResilMoorDestroy w s = .next tk) :
    Keep s tk := run_keep ek fun _ _ k _ e => resilMoorDestroyBody_keep e k

/-- What `execResilMoorDestroyExpert` keeps. -/
theorem execResilMoorDestroyExpert_keep {tk s : State} {w} (ek : execResilMoorDestroyExpert w s = .next tk) :
    Keep s tk := run_keep ek fun _ _ k _ e => resilMoorDestroyExpertBody_keep e k

/-- What `execResilWait` keeps. -/
theorem execResilWait_keep {tk s : State} {w} (ek : execResilWait w s = .next tk) :
    Keep s tk := run_keep ek fun _ _ k _ e => resilWaitBody_keep e k

/-- What `execResilWaitExpert` keeps. -/
theorem execResilWaitExpert_keep {tk s : State} {w} (ek : execResilWaitExpert w s = .next tk) :
    Keep s tk := run_keep ek fun _ _ k _ e => resilWaitExpertBody_keep e k

/-- What `execResilJournalQuery` keeps. -/
theorem execResilJournalQuery_keep {tk s : State} {w} (ek : execResilJournalQuery w s = .next tk) :
    Keep s tk := run_keep ek fun _ _ k _ e => resilJournalQueryBody_keep e k

/-- What `execResilJournalQueryExpert` keeps. -/
theorem execResilJournalQueryExpert_keep {tk s : State} {w} (ek : execResilJournalQueryExpert w s = .next tk) :
    Keep s tk := run_keep ek fun _ _ k _ e => resilJournalQueryExpertBody_keep e k

/-- What `execResilTeamRetire` keeps. -/
theorem execResilTeamRetire_keep {tk s : State} {w} (ek : execResilTeamRetire w s = .next tk) :
    Keep s tk := run_keep ek fun _ _ k _ e => resilTeamRetireBody_keep e k

/-- What `execResilTeamRetireExpert` keeps. -/
theorem execResilTeamRetireExpert_keep {tk s : State} {w} (ek : execResilTeamRetireExpert w s = .next tk) :
    Keep s tk := run_keep ek fun _ _ k _ e => resilTeamRetireExpertBody_keep e k

/-- What `execResilWarmReset` keeps. -/
theorem execResilWarmReset_keep {tk s : State} {w} (ek : execResilWarmReset w s = .next tk) :
    Keep s tk := run_keep ek fun _ _ k _ e => resilWarmResetBody_keep e k

/-- What `execResilWarmResetExpert` keeps. -/
theorem execResilWarmResetExpert_keep {tk s : State} {w} (ek : execResilWarmResetExpert w s = .next tk) :
    Keep s tk := run_keep ek fun _ _ k _ e => resilWarmResetExpertBody_keep e k

/-- What `execQuaySessionOpen` keeps. -/
theorem execQuaySessionOpen_keep {tk s : State} {w} (ek : execQuaySessionOpen w s = .next tk) :
    Keep s tk := run_keep ek fun _ _ k _ e => quaySessionOpenBody_keep e k

/-- What `execQuaySessionOpenExpert` keeps. -/
theorem execQuaySessionOpenExpert_keep {tk s : State} {w} (ek : execQuaySessionOpenExpert w s = .next tk) :
    Keep s tk := run_keep ek fun _ _ k _ e => quaySessionOpenExpertBody_keep e k

/-- What `execQuaySessionClose` keeps. -/
theorem execQuaySessionClose_keep {tk s : State} {w} (ek : execQuaySessionClose w s = .next tk) :
    Keep s tk := run_keep ek fun _ _ k _ e => quaySessionCloseBody_keep e k

/-- What `execQuaySessionCloseExpert` keeps. -/
theorem execQuaySessionCloseExpert_keep {tk s : State} {w} (ek : execQuaySessionCloseExpert w s = .next tk) :
    Keep s tk := run_keep ek fun _ _ k _ e => quaySessionCloseExpertBody_keep e k

/-- What `execQuayFrameCommit` keeps. -/
theorem execQuayFrameCommit_keep {tk s : State} {w hm} (ek : execQuayFrameCommit w hm s = .next tk) :
    Keep s tk := run_keep ek fun _ _ k _ e => quayFrameCommitBody_keep e k

/-- What `execQuayFrameCommitExpert` keeps. -/
theorem execQuayFrameCommitExpert_keep {tk s : State} {w hm} (ek : execQuayFrameCommitExpert w hm s = .next tk) :
    Keep s tk := run_keep ek fun _ _ k _ e => quayFrameCommitExpertBody_keep e k

/-- What `execQuayRingAdvance` keeps. -/
theorem execQuayRingAdvance_keep {tk s : State} {w} (ek : execQuayRingAdvance w s = .next tk) :
    Keep s tk := run_keep ek fun _ _ k _ e => quayRingAdvanceBody_keep e k

/-- What `execQuayRingAdvanceExpert` keeps. -/
theorem execQuayRingAdvanceExpert_keep {tk s : State} {w} (ek : execQuayRingAdvanceExpert w s = .next tk) :
    Keep s tk := run_keep ek fun _ _ k _ e => quayRingAdvanceExpertBody_keep e k

/-- What `execQuayQuery` keeps. -/
theorem execQuayQuery_keep {tk s : State} {w} (ek : execQuayQuery w s = .next tk) :
    Keep s tk := run_keep ek fun _ _ k _ e => quayQueryBody_keep e k

/-- What `execQuayQueryExpert` keeps. -/
theorem execQuayQueryExpert_keep {tk s : State} {w} (ek : execQuayQueryExpert w s = .next tk) :
    Keep s tk := run_keep ek fun _ _ k _ e => quayQueryExpertBody_keep e k

/-- What `execPwrCapSet` keeps. -/
theorem execPwrCapSet_keep {tk s : State} {w} (ek : execPwrCapSet w s = .next tk) :
    Keep s tk := run_keep ek fun _ _ k _ e => pwrCapSetBody_keep e k

/-- What `execPwrCapSetExpert` keeps. -/
theorem execPwrCapSetExpert_keep {tk s : State} {w} (ek : execPwrCapSetExpert w s = .next tk) :
    Keep s tk := run_keep ek fun _ _ k _ e => pwrCapSetExpertBody_keep e k

/-- What `execPwrTeamVolt` keeps. -/
theorem execPwrTeamVolt_keep {tk s : State} {w} (ek : execPwrTeamVolt w s = .next tk) :
    Keep s tk := run_keep ek fun _ _ k _ e => pwrTeamVoltBody_keep e k

/-- What `execPwrTeamVoltExpert` keeps. -/
theorem execPwrTeamVoltExpert_keep {tk s : State} {w} (ek : execPwrTeamVoltExpert w s = .next tk) :
    Keep s tk := run_keep ek fun _ _ k _ e => pwrTeamVoltExpertBody_keep e k

/-- What `execPwrRailSet` keeps. -/
theorem execPwrRailSet_keep {tk s : State} {w} (ek : execPwrRailSet w s = .next tk) :
    Keep s tk := run_keep ek fun _ _ k _ e => pwrRailSetBody_keep e k

/-- What `execPwrRailSetExpert` keeps. -/
theorem execPwrRailSetExpert_keep {tk s : State} {w} (ek : execPwrRailSetExpert w s = .next tk) :
    Keep s tk := run_keep ek fun _ _ k _ e => pwrRailSetExpertBody_keep e k

/-- What `execPwrRateLimit` keeps. -/
theorem execPwrRateLimit_keep {tk s : State} {w} (ek : execPwrRateLimit w s = .next tk) :
    Keep s tk := run_keep ek fun _ _ k _ e => pwrRateLimitBody_keep e k

/-- What `execPwrRateLimitExpert` keeps. -/
theorem execPwrRateLimitExpert_keep {tk s : State} {w} (ek : execPwrRateLimitExpert w s = .next tk) :
    Keep s tk := run_keep ek fun _ _ k _ e => pwrRateLimitExpertBody_keep e k

/-- What `execPwrTelemetry` keeps. -/
theorem execPwrTelemetry_keep {tk s : State} {w} (ek : execPwrTelemetry w s = .next tk) :
    Keep s tk := run_keep ek fun _ _ k _ e => pwrTelemetryBody_keep e k

/-- What `execPwrTelemetryExpert` keeps. -/
theorem execPwrTelemetryExpert_keep {tk s : State} {w} (ek : execPwrTelemetryExpert w s = .next tk) :
    Keep s tk := run_keep ek fun _ _ k _ e => pwrTelemetryExpertBody_keep e k

/-- What `execPwrCeilingQuery` keeps. -/
theorem execPwrCeilingQuery_keep {tk s : State} {w} (ek : execPwrCeilingQuery w s = .next tk) :
    Keep s tk := run_keep ek fun _ _ k _ e => pwrCeilingQueryBody_keep e k

/-- What `execPwrCeilingQueryExpert` keeps. -/
theorem execPwrCeilingQueryExpert_keep {tk s : State} {w} (ek : execPwrCeilingQueryExpert w s = .next tk) :
    Keep s tk := run_keep ek fun _ _ k _ e => pwrCeilingQueryExpertBody_keep e k

/-- What `execPwrThermalQuery` keeps. -/
theorem execPwrThermalQuery_keep {tk s : State} {w} (ek : execPwrThermalQuery w s = .next tk) :
    Keep s tk := run_keep ek fun _ _ k _ e => pwrThermalQueryBody_keep e k

/-- What `execPwrThermalQueryExpert` keeps. -/
theorem execPwrThermalQueryExpert_keep {tk s : State} {w} (ek : execPwrThermalQueryExpert w s = .next tk) :
    Keep s tk := run_keep ek fun _ _ k _ e => pwrThermalQueryExpertBody_keep e k

/-- What `execSelfTestRun` keeps. -/
theorem execSelfTestRun_keep {tk s : State} {w} (ek : execSelfTestRun w s = .next tk) :
    Keep s tk := run_keep ek fun _ _ k _ e => selfTestRunBody_keep e k

/-- What `execSelfTestRunExpert` keeps. -/
theorem execSelfTestRunExpert_keep {tk s : State} {w} (ek : execSelfTestRunExpert w s = .next tk) :
    Keep s tk := run_keep ek fun _ _ k _ e => selfTestRunExpertBody_keep e k

/-- What `execSelfTestStop` keeps. -/
theorem execSelfTestStop_keep {tk s : State} {w} (ek : execSelfTestStop w s = .next tk) :
    Keep s tk := run_keep ek fun _ _ k _ e => selfTestStopBody_keep e k

/-- What `execSelfTestStopExpert` keeps. -/
theorem execSelfTestStopExpert_keep {tk s : State} {w} (ek : execSelfTestStopExpert w s = .next tk) :
    Keep s tk := run_keep ek fun _ _ k _ e => selfTestStopExpertBody_keep e k

/-- What `execSelfTestQuery` keeps. -/
theorem execSelfTestQuery_keep {tk s : State} {w} (ek : execSelfTestQuery w s = .next tk) :
    Keep s tk := run_keep ek fun _ _ k _ e => selfTestQueryBody_keep e k

/-- What `execSelfTestQueryExpert` keeps. -/
theorem execSelfTestQueryExpert_keep {tk s : State} {w} (ek : execSelfTestQueryExpert w s = .next tk) :
    Keep s tk := run_keep ek fun _ _ k _ e => selfTestQueryExpertBody_keep e k

/-- What `execSelfChannelRestore` keeps. -/
theorem execSelfChannelRestore_keep {tk s : State} {w} (ek : execSelfChannelRestore w s = .next tk) :
    Keep s tk := run_keep ek fun _ _ k _ e => selfChannelRestoreBody_keep e k

/-- What `execSelfChannelRestoreExpert` keeps. -/
theorem execSelfChannelRestoreExpert_keep {tk s : State} {w} (ek : execSelfChannelRestoreExpert w s = .next tk) :
    Keep s tk := run_keep ek fun _ _ k _ e => selfChannelRestoreExpertBody_keep e k

/-- What `execSelfMarginHbm` keeps. -/
theorem execSelfMarginHbm_keep {tk s : State} {w} (ek : execSelfMarginHbm w s = .next tk) :
    Keep s tk := run_keep ek fun _ _ k _ e => selfMarginHbmBody_keep e k

/-- What `execSelfMarginHbmExpert` keeps. -/
theorem execSelfMarginHbmExpert_keep {tk s : State} {w} (ek : execSelfMarginHbmExpert w s = .next tk) :
    Keep s tk := run_keep ek fun _ _ k _ e => selfMarginHbmExpertBody_keep e k

/-- What `execSelfMarginLane` keeps. -/
theorem execSelfMarginLane_keep {tk s : State} {w} (ek : execSelfMarginLane w s = .next tk) :
    Keep s tk := run_keep ek fun _ _ k _ e => selfMarginLaneBody_keep e k

/-- What `execSelfMarginLaneExpert` keeps. -/
theorem execSelfMarginLaneExpert_keep {tk s : State} {w} (ek : execSelfMarginLaneExpert w s = .next tk) :
    Keep s tk := run_keep ek fun _ _ k _ e => selfMarginLaneExpertBody_keep e k

/-- What `execSelfMarginTeam` keeps. -/
theorem execSelfMarginTeam_keep {tk s : State} {w} (ek : execSelfMarginTeam w s = .next tk) :
    Keep s tk := run_keep ek fun _ _ k _ e => selfMarginTeamBody_keep e k

/-- What `execSelfMarginTeamExpert` keeps. -/
theorem execSelfMarginTeamExpert_keep {tk s : State} {w} (ek : execSelfMarginTeamExpert w s = .next tk) :
    Keep s tk := run_keep ek fun _ _ k _ e => selfMarginTeamExpertBody_keep e k

/-- What `execSelfPartIdSet` keeps. -/
theorem execSelfPartIdSet_keep {tk s : State} {w} (ek : execSelfPartIdSet w s = .next tk) :
    Keep s tk := run_keep ek fun _ _ k _ e => selfPartIdSetBody_keep e k

/-- What `execSelfPartIdSetExpert` keeps. -/
theorem execSelfPartIdSetExpert_keep {tk s : State} {w} (ek : execSelfPartIdSetExpert w s = .next tk) :
    Keep s tk := run_keep ek fun _ _ k _ e => selfPartIdSetExpertBody_keep e k

end Sys2Proof.Machine
end

