-- ==== Sys2Proof/Laws/KeepControl.lean ====
section
/-! SUPPORT. What the definitions of Machine/Control.lean keep (Laws/Keep.lean). -/

namespace Sys2Proof.Machine

open Sys2Proof

/-- What `execRegisterWrite` keeps. -/
theorem execRegisterWrite_keep {tk s : State} {fn off v} (ek : execRegisterWrite fn off v s = .next tk) : Keep s tk := by
  have kp := Keep.refl s
  refine event_keep ek ?_
  repeat' first
    | with_reducible assumption
    | with_reducible refine State.bar0_keep ?_

/-- What `execIntStatusWrite` keeps. -/
theorem execIntStatusWrite_keep {tk s : State} {fn v} (ek : execIntStatusWrite fn v s = .next tk) : Keep s tk := by
  have kp := Keep.refl s
  refine event_keep ek ?_
  repeat' first
    | with_reducible assumption
    | with_reducible refine State.bar0_keep ?_

/-- What `execViolationsRead` keeps. -/
theorem execViolationsRead_keep {tk s : State} {fn} (ek : execViolationsRead fn s = .next tk) : Keep s tk := by
  have kp := Keep.refl s
  refine event_keep ek ?_
  repeat' first
    | with_reducible assumption
    | with_reducible refine State.bar0_keep ?_

/-- What `execRegister64LowWordRead` keeps. -/
theorem execRegister64LowWordRead_keep {tk s : State} {fn off} (ek : execRegister64LowWordRead fn off s = .next tk) : Keep s tk := by
  have kp := Keep.refl s
  refine event_keep ek ?_
  repeat' first
    | with_reducible assumption
    | with_reducible refine State.bar0_keep ?_

/-- What `execBar0AccessBeforeLive` keeps. -/
theorem execBar0AccessBeforeLive_keep {tk s : State} {fn off wr v} (ek : execBar0AccessBeforeLive fn off wr v s = .next tk) : Keep s tk := by
  have kp := Keep.refl s
  refine event_keep ek ?_
  repeat' first
    | with_reducible assumption
    | with_reducible refine State.bar0_keep ?_

/-- What `execEnableWrite` keeps. -/
theorem execEnableWrite_keep {tk s : State} {ring v} (ek : execEnableWrite ring v s = .next tk) : Keep s tk := by
  have kp := Keep.refl s
  refine event_keep ek ?_
  repeat' first
    | with_reducible assumption
    | with_reducible refine State.bar0_keep ?_
    | with_reducible refine keep_ite (fun _ => ?_) (fun _ => ?_)

/-- What `execSqTail` keeps. -/
theorem execSqTail_keep {tk s : State} {ring v} (ek : execSqTail ring v s = .next tk) : Keep s tk := by
  have kp := Keep.refl s
  refine event_keep ek ?_
  repeat' first
    | with_reducible assumption
    | with_reducible refine State.bar0_keep ?_
    | with_reducible refine keep_ite (fun _ => ?_) (fun _ => ?_)

/-- What `execCqHead` keeps. -/
theorem execCqHead_keep {tk s : State} {ring v} (ek : execCqHead ring v s = .next tk) : Keep s tk := by
  have kp := Keep.refl s
  refine event_keep ek ?_
  repeat' first
    | with_reducible assumption
    | with_reducible refine State.bar0_keep ?_
    | with_reducible refine keep_ite (fun _ => ?_) (fun _ => ?_)

/-- The ring whose turn it is has a fetchable slot. -/
theorem nextFetch_fetchable {s : State} {r : Nat} (h : s.nextFetch = some r) : s.fetchable r = true := by
  unfold State.nextFetch at h
  dsimp only at h
  split at h
  · cases h
  · exact List.find?_some h

/-- What `execSlotFetch` keeps. -/
theorem execSlotFetch_keep {tk s : State} (ek : execSlotFetch s = .next tk) : Keep s tk := by
  refine event_keep ek ?_
  refine keep_ite (fun _ => Keep.refl s) (fun _ => ?_)
  split
  · exact Keep.refl s
  · rename_i r hr
    have := nextFetch_fetchable hr
    simp only [State.fetchable, Bool.and_eq_true, decide_eq_true_eq] at this
    exact State.fetch_keep this.2 (Keep.refl s)

/-- What `execSlotArrival` keeps. -/
theorem execSlotArrival_keep {tk s : State} {ring slot payload} (ek : execSlotArrival ring slot payload s = .next tk) : Keep s tk := by
  have kp := Keep.refl s
  refine event_keep ek ?_
  repeat' first
    | with_reducible assumption
    | with_reducible refine State.arriveSlot_keep ?_
    | with_reducible refine keep_ite (fun _ => ?_) (fun _ => ?_)

/-- What `execFunctionLevelReset` keeps. -/
theorem execFunctionLevelReset_keep {tk s : State} {fn} (ek : execFunctionLevelReset fn s = .next tk) : Keep s tk := by
  have kp := Keep.refl s
  refine event_keep ek ?_
  repeat' first
    | with_reducible assumption
    | with_reducible refine State.resetFn_keep ?_
    | with_reducible refine keep_ite (fun _ => ?_) (fun _ => ?_)

/-- What `execPfFunctionLevelReset` keeps. -/
theorem execPfFunctionLevelReset_keep {tk s : State} (ek : execPfFunctionLevelReset s = .next tk) : Keep s tk := by
  have kp := Keep.refl s
  refine event_keep ek ?_
  repeat' first
    | with_reducible assumption
    | with_reducible refine State.resetPf_keep ?_

/-- What `execSessionLockoutEnd` keeps. -/
theorem execSessionLockoutEnd_keep {tk s : State} {fn} (ek : execSessionLockoutEnd fn s = .next tk) : Keep s tk := by
  have kp := Keep.refl s
  refine event_keep ek ?_
  repeat' first
    | with_reducible assumption
    | with_reducible refine State.modFn_keep ?_
    | with_reducible refine State.reach_keep ?_
    | split

end Sys2Proof.Machine
end

