-- ==== Sys2Proof/Laws/KeepPins.lean ====
section
/-! SUPPORT. What the definitions of Machine/Pins.lean keep (Laws/Keep.lean). -/

namespace Sys2Proof.Machine

open Sys2Proof

/-- What `State.modPins` keeps. -/
theorem State.modPins_keep {zz s : State} {f} (kp : Keep zz s) :
    Keep zz (State.modPins s f) := by
  unfold State.modPins
  repeat' first
    | with_reducible assumption
    | simp only [keep_mk]

/-- What `State.modPart` keeps. -/
theorem State.modPart_keep {zz s : State} {f} (kp : Keep zz s) :
    Keep zz (State.modPart s f) := by
  unfold State.modPart
  repeat' first
    | with_reducible assumption
    | simp only [keep_mk]

/-- What `State.holdReset` keeps. -/
theorem State.holdReset_keep {zz s : State} (kp : Keep zz s) :
    Keep zz (State.holdReset s) := by
  unfold State.holdReset
  repeat' first
    | with_reducible assumption
    | with_reducible refine State.modPart_keep ?_
    | with_reducible refine State.modPins_keep ?_
    | with_reducible refine State.loseAll_keep ?_

/-- What `execPwrOkAssert` keeps. -/
theorem execPwrOkAssert_keep {tk s : State} {addr1 addr0} (ek : execPwrOkAssert addr1 addr0 s = .next tk) : Keep s tk := by
  have kp := Keep.refl s
  refine event_keep ek ?_
  repeat' first
    | with_reducible assumption
    | with_reducible refine State.holdReset_keep ?_
    | with_reducible refine State.modPins_keep ?_
    | with_reducible refine keep_ite (fun _ => ?_) (fun _ => ?_)

/-- What `execPwrOkDeassert` keeps. -/
theorem execPwrOkDeassert_keep {tk s : State} (ek : execPwrOkDeassert s = .next tk) : Keep s tk := by
  have kp := Keep.refl s
  refine event_keep ek ?_
  repeat' first
    | with_reducible assumption
    | simp only [keep_mk]
    | with_reducible refine State.modPins_keep ?_
    | with_reducible refine State.holdReset_keep ?_

/-- What `execColdReset` keeps. -/
theorem execColdReset_keep {tk s : State} (ek : execColdReset s = .next tk) : Keep s tk := by
  have kp := Keep.refl s
  refine event_keep ek ?_
  repeat' first
    | with_reducible assumption
    | simp only [keep_mk]
    | with_reducible refine State.modPart_keep ?_
    | with_reducible refine State.holdReset_keep ?_
    | with_reducible refine State.modPins_keep ?_
    | with_reducible refine keep_ite (fun _ => ?_) (fun _ => ?_)

/-- What `State.mapTeams` keeps. -/
theorem State.mapTeams_keep {zz s : State} (kp : Keep zz s) :
    Keep zz (State.mapTeams s) := by
  unfold State.mapTeams
  repeat' first
    | with_reducible assumption
    | simp only [keep_mk]
    | with_reducible refine State.modTeam_keep ?_
    | with_reducible refine State.modPhys_keep ?_
    | with_reducible refine keep_ite (fun _ => ?_) (fun _ => ?_)
    | with_reducible refine keep_foldl (fun _ _ _ => ?_) ?_

/-- What `State.mapChannels` keeps. -/
theorem State.mapChannels_keep {zz s : State} (kp : Keep zz s) :
    Keep zz (State.mapChannels s) := by
  unfold State.mapChannels
  repeat' first
    | with_reducible assumption
    | simp only [keep_mk]
    | with_reducible refine State.modChan_keep ?_
    | with_reducible refine keep_foldl (fun _ _ _ => ?_) ?_
    | split

/-- What `State.bootEvents` keeps. -/
theorem State.bootEvents_keep {zz s : State} (kp : Keep zz s) :
    Keep zz (State.bootEvents s) := by
  unfold State.bootEvents
  repeat' first
    | with_reducible assumption
    | simp only [keep_mk]
    | with_reducible refine State.logEv_keep ?_
    | with_reducible refine keep_ite (fun _ => ?_) (fun _ => ?_)
    | with_reducible refine keep_foldl (fun _ _ _ => ?_) ?_

/-- What `execSysRstNDeassert` keeps. -/
theorem execSysRstNDeassert_keep {tk s : State} {pass} (ek : execSysRstNDeassert pass s = .next tk) : Keep s tk := by
  have kp := Keep.refl s
  refine event_keep ek ?_
  repeat' first
    | with_reducible assumption
    | simp only [keep_mk]
    | with_reducible refine State.modPart_keep ?_
    | with_reducible refine State.modPins_keep ?_
    | with_reducible refine State.reach_keep ?_
    | with_reducible refine State.mapTeams_keep ?_
    | with_reducible refine State.bootEvents_keep ?_
    | with_reducible refine State.mapChannels_keep ?_
    | with_reducible refine State.failPart_keep ?_
    | with_reducible refine keep_ite (fun _ => ?_) (fun _ => ?_)

/-- What `execBoardRailFault` keeps. -/
theorem execBoardRailFault_keep {tk s : State} {rail} (ek : execBoardRailFault rail s = .next tk) : Keep s tk := by
  have kp := Keep.refl s
  refine event_keep ek ?_
  repeat' first
    | with_reducible assumption
    | simp only [keep_mk]
    | with_reducible refine State.modPins_keep ?_
    | with_reducible refine State.holdReset_keep ?_
    | with_reducible refine keep_ite (fun _ => ?_) (fun _ => ?_)

/-- What `execWarmRstNAssert` keeps. -/
theorem execWarmRstNAssert_keep {tk s : State} (ek : execWarmRstNAssert s = .next tk) : Keep s tk := by
  have kp := Keep.refl s
  refine event_keep ek ?_
  repeat' first
    | with_reducible assumption
    | simp only [keep_mk]
    | with_reducible refine State.beginWarm_keep ?_
    | with_reducible refine State.modPins_keep ?_
    | with_reducible refine State.logEv_keep ?_
    | with_reducible refine keep_ite (fun _ => ?_) (fun _ => ?_)

/-- What `execWarmRstNDeassert` keeps. -/
theorem execWarmRstNDeassert_keep {tk s : State} (ek : execWarmRstNDeassert s = .next tk) : Keep s tk := by
  have kp := Keep.refl s
  refine event_keep ek ?_
  repeat' first
    | with_reducible assumption
    | with_reducible refine State.modPins_keep ?_

/-- What `State.linkDown` keeps. -/
theorem State.linkDown_keep {zz s : State} (kp : Keep zz s) :
    Keep zz (State.linkDown s) := by
  unfold State.linkDown
  repeat' first
    | with_reducible assumption
    | simp only [keep_mk]
    | with_reducible refine State.modPart_keep ?_
    | with_reducible refine State.resetPf_keep ?_
    | with_reducible refine keep_ite (fun _ => ?_) (fun _ => ?_)

/-- What `execPerstNAssert` keeps. -/
theorem execPerstNAssert_keep {tk s : State} (ek : execPerstNAssert s = .next tk) : Keep s tk := by
  have kp := Keep.refl s
  refine event_keep ek ?_
  repeat' first
    | with_reducible assumption
    | simp only [keep_mk]
    | with_reducible refine State.linkDown_keep ?_
    | with_reducible refine State.modPins_keep ?_
    | with_reducible refine keep_ite (fun _ => ?_) (fun _ => ?_)

/-- What `execPerstNDeassert` keeps. -/
theorem execPerstNDeassert_keep {tk s : State} (ek : execPerstNDeassert s = .next tk) : Keep s tk := by
  have kp := Keep.refl s
  refine event_keep ek ?_
  repeat' first
    | with_reducible assumption
    | with_reducible refine State.modPins_keep ?_

/-- What `execCxlPerstNRelease` keeps. -/
theorem execCxlPerstNRelease_keep {tk s : State} (ek : execCxlPerstNRelease s = .next tk) : Keep s tk := by
  have kp := Keep.refl s
  refine event_keep ek ?_
  repeat' first
    | with_reducible assumption
    | with_reducible refine State.modPins_keep ?_
    | with_reducible refine State.reach_keep ?_
    | with_reducible refine keep_ite (fun _ => ?_) (fun _ => ?_)

/-- What `execBar0WindowLive` keeps. -/
theorem execBar0WindowLive_keep {tk s : State} (ek : execBar0WindowLive s = .next tk) : Keep s tk := by
  have kp := Keep.refl s
  refine event_keep ek ?_
  repeat' first
    | with_reducible assumption
    | with_reducible refine State.modPart_keep ?_
    | with_reducible refine keep_ite (fun _ => ?_) (fun _ => ?_)

/-- What `execPcieLinkUp` keeps. -/
theorem execPcieLinkUp_keep {tk s : State} (ek : execPcieLinkUp s = .next tk) : Keep s tk := by
  have kp := Keep.refl s
  refine event_keep ek ?_
  repeat' first
    | with_reducible assumption
    | with_reducible refine State.modPart_keep ?_
    | with_reducible refine keep_ite (fun _ => ?_) (fun _ => ?_)

/-- What `State.portsDown` keeps. -/
theorem State.portsDown_keep {zz s : State} {lo} (kp : Keep zz s) :
    Keep zz (State.portsDown s lo) := by
  unfold State.portsDown
  repeat' first
    | with_reducible assumption
    | with_reducible refine State.portDown_keep ?_
    | with_reducible refine keep_ite (fun _ => ?_) (fun _ => ?_)
    | with_reducible refine keep_foldl (fun _ _ _ => ?_) ?_

/-- What `execReferenceClockLoss` keeps. -/
theorem execReferenceClockLoss_keep {tk s : State} {clk} (ek : execReferenceClockLoss clk s = .next tk) : Keep s tk := by
  have kp := Keep.refl s
  refine event_keep ek ?_
  repeat' first
    | with_reducible assumption
    | simp only [keep_mk]
    | with_reducible refine State.modPart_keep ?_
    | with_reducible refine State.linkDown_keep ?_
    | with_reducible refine State.logEv_keep ?_
    | with_reducible refine State.portsDown_keep ?_
    | with_reducible refine State.failPart_keep ?_
    | split

/-- What `execReferenceClockReturn` keeps. -/
theorem execReferenceClockReturn_keep {tk s : State} {clk} (ek : execReferenceClockReturn clk s = .next tk) : Keep s tk := by
  have kp := Keep.refl s
  refine event_keep ek ?_
  repeat' first
    | with_reducible assumption
    | with_reducible refine State.modPart_keep ?_

/-- What `State.modEnd` keeps. -/
theorem State.modEnd_keep {zz s : State} {ep f} (kp : Keep zz s) :
    Keep zz (State.modEnd s ep f) := by
  unfold State.modEnd
  repeat' first
    | with_reducible assumption
    | simp only [keep_mk]

/-- What `State.mctp` keeps. -/
theorem State.mctp_keep {zz s : State} {ep bs} (kp : Keep zz s) :
    Keep zz (State.mctp s ep bs) := by
  unfold State.mctp
  repeat' first
    | with_reducible assumption
    | simp only [keep_mk]

/-- What `State.mctpViolation` keeps. -/
theorem State.mctpViolation_keep {zz s : State} {ep addr n} (kp : Keep zz s) :
    Keep zz (State.mctpViolation s ep addr n) := by
  unfold State.mctpViolation
  repeat' first
    | with_reducible assumption
    | simp only [keep_mk]
    | with_reducible refine State.logEv_keep ?_
    | with_reducible refine State.modEnd_keep ?_
    | with_reducible refine State.mctp_keep ?_
    | with_reducible refine keep_ite (fun _ => ?_) (fun _ => ?_)

/-- What `State.mctpNotReady` keeps. -/
theorem State.mctpNotReady_keep {zz s : State} {ep} (kp : Keep zz s) :
    Keep zz (State.mctpNotReady s ep) := by
  unfold State.mctpNotReady
  repeat' first
    | with_reducible assumption
    | simp only [keep_mk]
    | with_reducible refine State.retryWord_keep ?_
    | with_reducible refine State.mctp_keep ?_

/-- What `execMctpMessage` keeps. -/
theorem execMctpMessage_keep {tk s : State} {ep addr viol pcie ask} (ek : execMctpMessage ep addr viol pcie ask s = .next tk) : Keep s tk := by
  have kp := Keep.refl s
  refine event_keep ek ?_
  repeat' first
    | with_reducible assumption
    | simp only [keep_mk]
    | with_reducible refine State.mctp_keep ?_
    | with_reducible refine State.recordCap_keep ?_
    | with_reducible refine State.drawBytes_keep ?_
    | with_reducible refine State.mctpViolation_keep ?_
    | with_reducible refine State.mctpNotReady_keep ?_
    | with_reducible refine keep_ite (fun _ => ?_) (fun _ => ?_)
    | split

/-- What `execSpdmRequest` keeps. -/
theorem execSpdmRequest_keep {tk s : State} {ep addr viol req} (ek : execSpdmRequest ep addr viol req s = .next tk) : Keep s tk := by
  have kp := Keep.refl s
  refine event_keep ek ?_
  repeat' first
    | with_reducible assumption
    | simp only [keep_mk]
    | with_reducible refine State.mctp_keep ?_
    | with_reducible refine State.modEnd_keep ?_
    | with_reducible refine State.drawBytes_keep ?_
    | with_reducible refine State.mctpViolation_keep ?_
    | with_reducible refine keep_ite (fun _ => ?_) (fun _ => ?_)
    | split

/-- What `State.refreshAlert` keeps. -/
theorem State.refreshAlert_keep {zz s : State} (kp : Keep zz s) :
    Keep zz (State.refreshAlert s) := by
  unfold State.refreshAlert
  repeat' first
    | with_reducible assumption
    | with_reducible refine State.modPins_keep ?_

/-- What `execEventAcknowledge` keeps. -/
theorem execEventAcknowledge_keep {tk s : State} {ep addr entry} (ek : execEventAcknowledge ep addr entry s = .next tk) :
    Keep s tk := by
  refine event_keep ek (keep_ite (fun _ => Keep.refl s) (fun _ => keep_ite (fun _ => ?_)
    (fun _ => State.mctpViolation_keep (Keep.refl s))))
  refine State.refreshAlert_keep ⟨rfl, Nat.le_refl _, id, id, id, id, fun i => ?_⟩
  simpa using i

/-- What `execEventLogRead` keeps. -/
theorem execEventLogRead_keep {tk s : State} {ep entry count} (ek : execEventLogRead ep entry count s = .next tk) : Keep s tk := by
  have kp := Keep.refl s
  refine event_keep ek ?_
  repeat' first
    | with_reducible assumption
    | simp only [keep_mk]
    | with_reducible refine State.mctpNotReady_keep ?_
    | with_reducible refine State.mctp_keep ?_
    | with_reducible refine keep_ite (fun _ => ?_) (fun _ => ?_)

/-- What `execSmbusAlertResponse` keeps. -/
theorem execSmbusAlertResponse_keep {tk s : State} (ek : execSmbusAlertResponse s = .next tk) : Keep s tk := by
  have kp := Keep.refl s
  refine event_keep ek ?_
  repeat' first
    | with_reducible assumption
    | simp only [keep_mk]
    | with_reducible refine keep_ite (fun _ => ?_) (fun _ => ?_)

/-- What `execMctpQuarantineExpiry` keeps. -/
theorem execMctpQuarantineExpiry_keep {tk s : State} {ep} (ek : execMctpQuarantineExpiry ep s = .next tk) : Keep s tk := by
  have kp := Keep.refl s
  refine event_keep ek ?_
  repeat' first
    | with_reducible assumption
    | with_reducible refine State.modEnd_keep ?_
    | with_reducible refine State.reach_keep ?_
    | split

/-- What `execNopDelayExpiry` keeps. -/
theorem execNopDelayExpiry_keep {tk s : State} {w} (ek : execNopDelayExpiry w s = .next tk) : Keep s tk := by
  have kp := Keep.refl s
  refine event_keep ek ?_
  repeat' first
    | with_reducible assumption
    | with_reducible refine State.reach_keep ?_
    | with_reducible refine State.complete_keep ?_
    | split

end Sys2Proof.Machine
end

