-- ==== Sys2Proof/Laws/KeepStreamInstr.lean ====
section
/-! SUPPORT. What the definitions of Machine/StreamInstr.lean keep (Laws/Keep.lean). -/

namespace Sys2Proof.Machine

open Sys2Proof

/-- What `State.withRegs` keeps. -/
theorem State.withRegs_keep {zz s : State} {k ins outs} {f : State → BitVec 64 → Task → Nat → Ctx → State}
    (hf : ∀ u w t r x, Keep zz u → Keep zz (f u w t r x)) (kp : Keep zz s) :
    Keep zz (State.withRegs s k ins outs f) := by
  unfold State.withRegs
  refine State.onSite_keep (fun _ _ _ _ _ _ => ?_) kp
  dsimp only
  split
  · exact State.trapAt_keep ‹_›
  · split
    · exact State.trapAt_keep ‹_›
    · exact hf _ _ _ _ _ ‹_›

/-- What `execSrd` keeps. -/
theorem execSrd_keep {tk s : State} {k rh rc rn rs rx} (ek : execSrd k rh rc rn rs rx s = .next tk) : Keep s tk := by
  have kp := Keep.refl s
  refine event_keep ek ?_
  repeat' first
    | with_reducible assumption
    | simp only [keep_mk]
    | with_reducible refine State.withRegs_keep (fun _ _ _ _ _ _ => ?_) ?_
    | exact hb
    | with_reducible refine State.refuse_keep ?_
    | with_reducible refine State.release_keep ?_
    | with_reducible refine State.setStream_keep ?_
    | with_reducible refine State.requestBurst_keep ?_
    | with_reducible refine keep_ite (fun _ => ?_) (fun _ => ?_)
    | dsimp only
    | split

/-- What `execSrel` keeps. -/
theorem execSrel_keep {tk s : State} {k rh rc rs} (ek : execSrel k rh rc rs s = .next tk) : Keep s tk := by
  have kp := Keep.refl s
  refine event_keep ek ?_
  repeat' first
    | with_reducible assumption
    | simp only [keep_mk]
    | with_reducible refine State.withRegs_keep (fun _ _ _ _ _ _ => ?_) ?_
    | exact hb
    | with_reducible refine State.refuse_keep ?_
    | with_reducible refine State.setStream_keep ?_
    | with_reducible refine State.release_keep ?_
    | with_reducible refine State.answer_keep ?_
    | with_reducible refine keep_ite (fun _ => ?_) (fun _ => ?_)
    | dsimp only
    | split

/-- What `execSwr` keeps. -/
theorem execSwr_keep {tk s : State} {k rh ro rs} (ek : execSwr k rh ro rs s = .next tk) : Keep s tk := by
  have kp := Keep.refl s
  refine event_keep ek ?_
  repeat' first
    | with_reducible assumption
    | simp only [keep_mk]
    | with_reducible refine State.withRegs_keep (fun _ _ _ _ _ _ => ?_) ?_
    | exact hb
    | with_reducible refine State.trapAt_keep ?_
    | with_reducible refine State.refuse_keep ?_
    | with_reducible refine State.setStream_keep ?_
    | with_reducible refine State.commitBytes_keep ?_
    | with_reducible refine State.answer_keep ?_
    | with_reducible refine State.modStream_keep ?_
    | with_reducible refine keep_ite (fun _ => ?_) (fun _ => ?_)
    | dsimp only
    | split

/-- What `execSclose` keeps. -/
theorem execSclose_keep {tk s : State} {k rh rs} (ek : execSclose k rh rs s = .next tk) : Keep s tk := by
  have kp := Keep.refl s
  refine event_keep ek ?_
  repeat' first
    | with_reducible assumption
    | simp only [keep_mk]
    | with_reducible refine State.withRegs_keep (fun _ _ _ _ _ _ => ?_) ?_
    | exact hb
    | with_reducible refine State.refuse_keep ?_
    | with_reducible refine State.closeStream_keep ?_
    | with_reducible refine State.answer_keep ?_
    | with_reducible refine keep_ite (fun _ => ?_) (fun _ => ?_)
    | dsimp only
    | split

/-- What `execSabort` keeps. -/
theorem execSabort_keep {tk s : State} {k rh rs} (ek : execSabort k rh rs s = .next tk) : Keep s tk := by
  have kp := Keep.refl s
  refine event_keep ek ?_
  repeat' first
    | with_reducible assumption
    | simp only [keep_mk]
    | with_reducible refine State.withRegs_keep (fun _ _ _ _ _ _ => ?_) ?_
    | exact hb
    | with_reducible refine State.refuse_keep ?_
    | with_reducible refine State.abortStream_keep ?_
    | with_reducible refine State.answer_keep ?_
    | with_reducible refine keep_ite (fun _ => ?_) (fun _ => ?_)
    | dsimp only
    | split

/-- What `State.barvArrive` keeps. -/
theorem State.barvArrive_keep {s0 s : State} {team ctx b w rk bar} (kp : Keep s0 s) :
    Keep s0 (State.barvArrive s team ctx b w rk bar) := by
  unfold State.barvArrive
  refine State.arrive_keep ?_
  show Keep s0 _
  rw [keep_mk]
  exact keep_foldl (fun _ _ q => State.modCtx_keep q) kp

/-- What `execBarv` keeps. -/
theorem execBarv_keep {tk s : State} {k rb rs} (ek : execBarv k rb rs s = .next tk) : Keep s tk := by
  refine event_keep ek (State.withRegs_keep (fun u w t rk x kp => ?_) (Keep.refl s))
  extract_lets b
  split
  · exact State.refuse_keep kp
  · have k1 := State.modCtx_keep (k := ctxKey k.team k.core t.ctx)
      (f := fun c => { c with barved := insNat b c.barved }) kp
    exact keep_ite (fun _ => State.answer_keep (State.barvArrive_keep k1)) (fun _ => k1)

/-- What `execBwait` keeps. -/
theorem execBwait_keep {tk s : State} {k rb rs} (ek : execBwait k rb rs s = .next tk) : Keep s tk := by
  have kp := Keep.refl s
  refine event_keep ek ?_
  repeat' first
    | with_reducible assumption
    | simp only [keep_mk]
    | with_reducible refine State.withRegs_keep (fun _ _ _ _ _ _ => ?_) ?_
    | exact hb
    | with_reducible refine State.refuse_keep ?_
    | with_reducible refine State.answer_keep ?_
    | with_reducible refine keep_ite (fun _ => ?_) (fun _ => ?_)
    | dsimp only
    | split

end Sys2Proof.Machine
end

