-- ==== Sys2Proof/Laws/KeepTap.lean ====
section
/-! SUPPORT. What the definitions of Machine/Tap.lean keep (Laws/Keep.lean). -/

namespace Sys2Proof.Machine

open Sys2Proof

/-- What `State.modTap` keeps. -/
theorem State.modTap_keep {zz s : State} {f} (kp : Keep zz s) :
    Keep zz (State.modTap s f) := by
  unfold State.modTap
  repeat' first
    | with_reducible assumption
    | simp only [keep_mk]

/-- What `execTapReset` keeps. -/
theorem execTapReset_keep {tk s : State} (ek : execTapReset s = .next tk) : Keep s tk := by
  have kp := Keep.refl s
  refine event_keep ek ?_
  repeat' first
    | with_reducible assumption
    | with_reducible refine State.modTap_keep ?_

/-- What `execIdcode` keeps. -/
theorem execIdcode_keep {tk s : State} (ek : execIdcode s = .next tk) : Keep s tk := by
  have kp := Keep.refl s
  refine event_keep ek ?_
  repeat' first
    | with_reducible assumption
    | with_reducible refine State.modTap_keep ?_

/-- What `execSamplePreload` keeps. -/
theorem execSamplePreload_keep {tk s : State} {pins preload} (ek : execSamplePreload pins preload s = .next tk) : Keep s tk := by
  have kp := Keep.refl s
  refine event_keep ek ?_
  repeat' first
    | with_reducible assumption
    | with_reducible refine State.modTap_keep ?_

/-- What `execExtest` keeps. -/
theorem execExtest_keep {tk s : State} {pins} (ek : execExtest pins s = .next tk) : Keep s tk := by
  have kp := Keep.refl s
  refine event_keep ek ?_
  repeat' first
    | with_reducible assumption
    | with_reducible refine State.modTap_keep ?_

/-- What `execExtestPulse` keeps. -/
theorem execExtestPulse_keep {tk s : State} {pins} (ek : execExtestPulse pins s = .next tk) : Keep s tk := by
  have kp := Keep.refl s
  refine event_keep ek ?_
  repeat' first
    | with_reducible assumption
    | with_reducible refine State.modTap_keep ?_

/-- What `execExtestTrain` keeps. -/
theorem execExtestTrain_keep {tk s : State} {pins} (ek : execExtestTrain pins s = .next tk) : Keep s tk := by
  have kp := Keep.refl s
  refine event_keep ek ?_
  repeat' first
    | with_reducible assumption
    | with_reducible refine State.modTap_keep ?_

/-- What `execClamp` keeps. -/
theorem execClamp_keep {tk s : State} (ek : execClamp s = .next tk) : Keep s tk := by
  have kp := Keep.refl s
  refine event_keep ek ?_
  repeat' first
    | with_reducible assumption
    | with_reducible refine State.modTap_keep ?_

/-- What `execHighz` keeps. -/
theorem execHighz_keep {tk s : State} (ek : execHighz s = .next tk) : Keep s tk := by
  have kp := Keep.refl s
  refine event_keep ek ?_
  repeat' first
    | with_reducible assumption
    | with_reducible refine State.modTap_keep ?_

/-- What `execBypass` keeps. -/
theorem execBypass_keep {tk s : State} (ek : execBypass s = .next tk) : Keep s tk := by
  have kp := Keep.refl s
  refine event_keep ek ?_
  repeat' first
    | with_reducible assumption
    | with_reducible refine State.modTap_keep ?_

end Sys2Proof.Machine
end

