-- ==== Sys2Proof/Laws/Run.lean ====
section
/-! SUPPORT. What the dispatch of a slot command answers, in each of its cases. A proof about a slot command cites these
and does not unfold the dispatch. -/

namespace Sys2Proof.Machine

open Sys2Proof

/-- A body goes on where its first action succeeds. -/
theorem bind_of {α β : Type} {e : Except Err α} {a : α} {f : α → Except Err β} {r : Except Err β} (h : e = .ok a)
    (k : f a = r) : (e >>= f) = r := by rw [h]; exact k

/-- A body goes on past a condition that holds. -/
theorem need_of {β : Type} {b : Bool} {e : BitVec 16} {f : Unit → Except Err β} {r : Except Err β} (h : b = true)
    (k : f () = r) : (need b e >>= f) = r := by rw [h]; exact k

/-- A body goes on with what it wants where that is there. -/
theorem want_of {α β : Type} {o : Option α} {a : α} {e : BitVec 16} {f : α → Except Err β} {r : Except Err β}
    (h : o = some a) (k : f a = r) : (want o e >>= f) = r := by rw [h]; exact k

/-- Whether a record is ready, in terms of the journal. -/
theorem ready_eq_some {s : State} {op : Nat} {w : BitVec 64} {hm : HostImage} {c : Cmd} :
    s.ready op w hm = some c ↔ ∃ j, s.startable op w = some j ∧ payloadOk j = true ∧ j.cmd hm = c := by
  unfold State.ready
  cases h : s.startable op w with
  | none => simp
  | some j => cases hp : payloadOk j <;> simp [hp]

/-- A ready command runs its body on the state in which it is DISPATCHED. -/
theorem run_ready {s : State} {op : Nat} {w : BitVec 64} {hm : HostImage} {c : Cmd}
    {body : Cmd → State → Except Err State} (h : s.ready op w hm = some c) :
    run op w hm s body = .next ((s.markDispatched w).ended w (body c (s.markDispatched w))).settle := by
  obtain ⟨j, hj, hp, rfl⟩ := ready_eq_some.1 h
  simp [run, State.dispatch, hj, hp]

/-- A body that succeeds gives the next state. -/
theorem run_ok {s t : State} {op : Nat} {w : BitVec 64} {hm : HostImage} {c : Cmd}
    {body : Cmd → State → Except Err State} (h : s.ready op w hm = some c)
    (hb : body c (s.markDispatched w) = .ok t) : run op w hm s body = .next t.settle := by
  rw [run_ready h, hb]; rfl

/-- A body that fails completes the record with its status, and changes nothing else (R57). -/
theorem run_error {s : State} {e : Err} {op : Nat} {w : BitVec 64} {hm : HostImage} {c : Cmd}
    {body : Cmd → State → Except Err State} (h : s.ready op w hm = some c)
    (hb : body c (s.markDispatched w) = .error e) :
    run op w hm s body = .next ((s.markDispatched w).complete w e.st e.res e.det).settle := by
  rw [run_ready h, hb]; rfl

/-- A record that may not start leaves the state as it is, but for what follows at once. -/
theorem run_none {s : State} {op : Nat} {w : BitVec 64} {hm : HostImage} {body : Cmd → State → Except Err State}
    (h : s.startable op w = none) : run op w hm s body = .next s.settle := by
  simp [run, State.dispatch, h]

/-- The command of a ready record carries its WORK_ID. -/
theorem ready_w {s : State} {op : Nat} {w : BitVec 64} {hm : HostImage} {c : Cmd} (h : s.ready op w hm = some c) :
    c.w = w := by
  obtain ⟨j, hj, -, rfl⟩ := ready_eq_some.1 h
  unfold State.startable at hj
  split at hj
  · cases hj
  · split at hj
    · cases hj
    · rename_i q hq
      have hw : q.wid = w := by
        have := List.find?_some hq
        simp at this
        exact this.1.1
      split at hj
      · cases hj
      · split at hj
        · cases hj
        · cases hj; exact hw

/-- A message that the link takes does what its kind says. -/
theorem receive_of_takes {s : State} {p : Nat} {m : Msg} {act : State → State} (h : s.linkTakes p m = true) :
    s.receive p m act = act (s.linkTaken p m) := by
  simp only [State.linkTakes, Bool.and_eq_true, decide_eq_true_eq, bne_iff_ne, ne_eq, Bool.not_eq_true',
    Bool.or_eq_true] at h
  obtain ⟨⟨⟨⟨⟨⟨⟨⟨⟨h1, h2⟩, h3⟩, h4⟩, h5⟩, h6⟩, h7⟩, h8⟩, h9⟩, h10⟩ := h
  have h4' : ¬ (creditOf (s.port p).credGranted m.vc - usedOf (s.port p).credUsedRx m.vc).toInt ≤ 0 := by omega
  have h9' : ¬ 6 < m.kind := by omega
  unfold State.receive
  simp only [h1, h2, h3, h4', h5, h6, h7, h8, h9', Bool.not_true, Bool.false_eq_true, bne_self_eq_false, decide_false,
    Bool.or_self, if_false, decide_true]
  rcases h10 with (h | h) | h <;> simp [h, h6, State.linkTaken, State.modPort]

/-- An instruction of a core of a team that issues: its program counter is recorded, then it has its effect. -/
theorem onSite_of {s : State} {k : Site} {f : State → BitVec 64 → Task → Nat → Nat → State} {w : BitVec 64} {t : Task}
    {r : Nat} (h : s.issuing k.team = some (w, t, r)) (hc : ¬16 ≤ k.core) :
    s.onSite k f = f (s.modCtx (ctxKey k.team k.core t.ctx) fun x => { x with pc := k.pc }) w t r
      (ctxKey k.team k.core t.ctx) := by
  unfold State.onSite; rw [h]; exact if_neg hc

/-- A vector instruction with a legal encoding changes the context as it says. -/
theorem onVec_of {s : State} {k : Site} {ok : Bool} {f : Ctx → Ctx} {w : BitVec 64} {t : Task} {r : Nat}
    (h : s.issuing k.team = some (w, t, r)) (hc : ¬16 ≤ k.core) (ho : ok = true) :
    s.onVec k ok f = (s.modCtx (ctxKey k.team k.core t.ctx) fun x => { x with pc := k.pc }).modCtx
      (ctxKey k.team k.core t.ctx) f := by
  unfold State.onVec; rw [onSite_of h hc]; exact if_pos ho

/-- An instruction with valid and unpoisoned scalar registers has its effect. -/
theorem withRegs_of {s : State} {k : Site} {ins outs : List Nat} {f : State → BitVec 64 → Task → Nat → Ctx → State}
    {w : BitVec 64} {t : Task} {r : Nat} (h : s.issuing k.team = some (w, t, r)) (hc : ¬16 ≤ k.core)
    (hv : vOk (ins ++ outs) = true)
    (ht : ¬((s.modCtx (ctxKey k.team k.core t.ctx) fun x => { x with pc := k.pc }).ctx
      (ctxKey k.team k.core t.ctx)).tainted (ins.map pS) = true) :
    s.withRegs k ins outs f = f (s.modCtx (ctxKey k.team k.core t.ctx) fun x => { x with pc := k.pc }) w t r
      ((s.modCtx (ctxKey k.team k.core t.ctx) fun x => { x with pc := k.pc }).ctx (ctxKey k.team k.core t.ctx)) := by
  unfold State.withRegs; rw [onSite_of h hc]; dsimp only
  rw [if_neg (by simp [hv]), if_neg ht]

end Sys2Proof.Machine
end

