-- ==== Sys2Proof/Laws/State.lean ====
section
/-! SUPPORT. The fields of the state after each of its plain updates: every field but the one written is as before, and
what the table written reads as. Later proofs cite these and unfold no record update. -/

namespace Sys2Proof.Machine

open Sys2Proof

variable (s : State)

/-! `State.setFn` -/

@[simp] theorem State.setFn_pending (f : Nat) (v : Fn) : (s.setFn f v).pending = s.pending := rfl
@[simp] theorem State.setFn_now (f : Nat) (v : Fn) : (s.setFn f v).now = s.now := rfl
@[simp] theorem State.setFn_free (f : Nat) (v : Fn) : (s.setFn f v).free = s.free := rfl
@[simp] theorem State.setFn_pins (f : Nat) (v : Fn) : (s.setFn f v).pins = s.pins := rfl
@[simp] theorem State.setFn_part (f : Nat) (v : Fn) : (s.setFn f v).part = s.part := rfl
@[simp] theorem State.setFn_rings (f : Nat) (v : Fn) : (s.setFn f v).rings = s.rings := rfl
@[simp] theorem State.setFn_ser (f : Nat) (v : Fn) : (s.setFn f v).ser = s.ser := rfl
@[simp] theorem State.setFn_journal (f : Nat) (v : Fn) : (s.setFn f v).journal = s.journal := rfl
@[simp] theorem State.setFn_accepts (f : Nat) (v : Fn) : (s.setFn f v).accepts = s.accepts := rfl
@[simp] theorem State.setFn_waits (f : Nat) (v : Fn) : (s.setFn f v).waits = s.waits := rfl
@[simp] theorem State.setFn_log (f : Nat) (v : Fn) : (s.setFn f v).log = s.log := rfl
@[simp] theorem State.setFn_kryto (f : Nat) (v : Fn) : (s.setFn f v).kryto = s.kryto := rfl
@[simp] theorem State.setFn_paddocks (f : Nat) (v : Fn) : (s.setFn f v).paddocks = s.paddocks := rfl
@[simp] theorem State.setFn_teams (f : Nat) (v : Fn) : (s.setFn f v).teams = s.teams := rfl
@[simp] theorem State.setFn_phys (f : Nat) (v : Fn) : (s.setFn f v).phys = s.phys := rfl
@[simp] theorem State.setFn_cores (f : Nat) (v : Fn) : (s.setFn f v).cores = s.cores := rfl
@[simp] theorem State.setFn_ctxs (f : Nat) (v : Fn) : (s.setFn f v).ctxs = s.ctxs := rfl
@[simp] theorem State.setFn_scratch (f : Nat) (v : Fn) : (s.setFn f v).scratch = s.scratch := rfl
@[simp] theorem State.setFn_kernels (f : Nat) (v : Fn) : (s.setFn f v).kernels = s.kernels := rfl
@[simp] theorem State.setFn_tasks (f : Nat) (v : Fn) : (s.setFn f v).tasks = s.tasks := rfl
@[simp] theorem State.setFn_mem (f : Nat) (v : Fn) : (s.setFn f v).mem = s.mem := rfl
@[simp] theorem State.setFn_poison (f : Nat) (v : Fn) : (s.setFn f v).poison = s.poison := rfl
@[simp] theorem State.setFn_basin (f : Nat) (v : Fn) : (s.setFn f v).basin = s.basin := rfl
@[simp] theorem State.setFn_streams (f : Nat) (v : Fn) : (s.setFn f v).streams = s.streams := rfl
@[simp] theorem State.setFn_barriers (f : Nat) (v : Fn) : (s.setFn f v).barriers = s.barriers := rfl
@[simp] theorem State.setFn_allocs (f : Nat) (v : Fn) : (s.setFn f v).allocs = s.allocs := rfl
@[simp] theorem State.setFn_hbm (f : Nat) (v : Fn) : (s.setFn f v).hbm = s.hbm := rfl
@[simp] theorem State.setFn_nvw (f : Nat) (v : Fn) : (s.setFn f v).nvw = s.nvw := rfl
@[simp] theorem State.setFn_nvwProgs (f : Nat) (v : Fn) : (s.setFn f v).nvwProgs = s.nvwProgs := rfl
@[simp] theorem State.setFn_cxl (f : Nat) (v : Fn) : (s.setFn f v).cxl = s.cxl := rfl
@[simp] theorem State.setFn_gen (f : Nat) (v : Fn) : (s.setFn f v).gen = s.gen := rfl
@[simp] theorem State.setFn_learn (f : Nat) (v : Fn) : (s.setFn f v).learn = s.learn := rfl
@[simp] theorem State.setFn_rein (f : Nat) (v : Fn) : (s.setFn f v).rein = s.rein := rfl
@[simp] theorem State.setFn_trace (f : Nat) (v : Fn) : (s.setFn f v).trace = s.trace := rfl
@[simp] theorem State.setFn_moors (f : Nat) (v : Fn) : (s.setFn f v).moors = s.moors := rfl
@[simp] theorem State.setFn_quays (f : Nat) (v : Fn) : (s.setFn f v).quays = s.quays := rfl
@[simp] theorem State.setFn_power (f : Nat) (v : Fn) : (s.setFn f v).power = s.power := rfl
@[simp] theorem State.setFn_farrier (f : Nat) (v : Fn) : (s.setFn f v).farrier = s.farrier := rfl
@[simp] theorem State.setFn_tap (f : Nat) (v : Fn) : (s.setFn f v).tap = s.tap := rfl
@[simp] theorem State.setFn_out (f : Nat) (v : Fn) : (s.setFn f v).out = s.out := rfl

/-! `State.modFn` -/

@[simp] theorem State.modFn_pending (f : Nat) (g : Fn → Fn) : (s.modFn f g).pending = s.pending := rfl
@[simp] theorem State.modFn_now (f : Nat) (g : Fn → Fn) : (s.modFn f g).now = s.now := rfl
@[simp] theorem State.modFn_free (f : Nat) (g : Fn → Fn) : (s.modFn f g).free = s.free := rfl
@[simp] theorem State.modFn_pins (f : Nat) (g : Fn → Fn) : (s.modFn f g).pins = s.pins := rfl
@[simp] theorem State.modFn_part (f : Nat) (g : Fn → Fn) : (s.modFn f g).part = s.part := rfl
@[simp] theorem State.modFn_rings (f : Nat) (g : Fn → Fn) : (s.modFn f g).rings = s.rings := rfl
@[simp] theorem State.modFn_ser (f : Nat) (g : Fn → Fn) : (s.modFn f g).ser = s.ser := rfl
@[simp] theorem State.modFn_journal (f : Nat) (g : Fn → Fn) : (s.modFn f g).journal = s.journal := rfl
@[simp] theorem State.modFn_accepts (f : Nat) (g : Fn → Fn) : (s.modFn f g).accepts = s.accepts := rfl
@[simp] theorem State.modFn_waits (f : Nat) (g : Fn → Fn) : (s.modFn f g).waits = s.waits := rfl
@[simp] theorem State.modFn_log (f : Nat) (g : Fn → Fn) : (s.modFn f g).log = s.log := rfl
@[simp] theorem State.modFn_kryto (f : Nat) (g : Fn → Fn) : (s.modFn f g).kryto = s.kryto := rfl
@[simp] theorem State.modFn_paddocks (f : Nat) (g : Fn → Fn) : (s.modFn f g).paddocks = s.paddocks := rfl
@[simp] theorem State.modFn_teams (f : Nat) (g : Fn → Fn) : (s.modFn f g).teams = s.teams := rfl
@[simp] theorem State.modFn_phys (f : Nat) (g : Fn → Fn) : (s.modFn f g).phys = s.phys := rfl
@[simp] theorem State.modFn_cores (f : Nat) (g : Fn → Fn) : (s.modFn f g).cores = s.cores := rfl
@[simp] theorem State.modFn_ctxs (f : Nat) (g : Fn → Fn) : (s.modFn f g).ctxs = s.ctxs := rfl
@[simp] theorem State.modFn_scratch (f : Nat) (g : Fn → Fn) : (s.modFn f g).scratch = s.scratch := rfl
@[simp] theorem State.modFn_kernels (f : Nat) (g : Fn → Fn) : (s.modFn f g).kernels = s.kernels := rfl
@[simp] theorem State.modFn_tasks (f : Nat) (g : Fn → Fn) : (s.modFn f g).tasks = s.tasks := rfl
@[simp] theorem State.modFn_mem (f : Nat) (g : Fn → Fn) : (s.modFn f g).mem = s.mem := rfl
@[simp] theorem State.modFn_poison (f : Nat) (g : Fn → Fn) : (s.modFn f g).poison = s.poison := rfl
@[simp] theorem State.modFn_basin (f : Nat) (g : Fn → Fn) : (s.modFn f g).basin = s.basin := rfl
@[simp] theorem State.modFn_streams (f : Nat) (g : Fn → Fn) : (s.modFn f g).streams = s.streams := rfl
@[simp] theorem State.modFn_barriers (f : Nat) (g : Fn → Fn) : (s.modFn f g).barriers = s.barriers := rfl
@[simp] theorem State.modFn_allocs (f : Nat) (g : Fn → Fn) : (s.modFn f g).allocs = s.allocs := rfl
@[simp] theorem State.modFn_hbm (f : Nat) (g : Fn → Fn) : (s.modFn f g).hbm = s.hbm := rfl
@[simp] theorem State.modFn_nvw (f : Nat) (g : Fn → Fn) : (s.modFn f g).nvw = s.nvw := rfl
@[simp] theorem State.modFn_nvwProgs (f : Nat) (g : Fn → Fn) : (s.modFn f g).nvwProgs = s.nvwProgs := rfl
@[simp] theorem State.modFn_cxl (f : Nat) (g : Fn → Fn) : (s.modFn f g).cxl = s.cxl := rfl
@[simp] theorem State.modFn_gen (f : Nat) (g : Fn → Fn) : (s.modFn f g).gen = s.gen := rfl
@[simp] theorem State.modFn_learn (f : Nat) (g : Fn → Fn) : (s.modFn f g).learn = s.learn := rfl
@[simp] theorem State.modFn_rein (f : Nat) (g : Fn → Fn) : (s.modFn f g).rein = s.rein := rfl
@[simp] theorem State.modFn_trace (f : Nat) (g : Fn → Fn) : (s.modFn f g).trace = s.trace := rfl
@[simp] theorem State.modFn_moors (f : Nat) (g : Fn → Fn) : (s.modFn f g).moors = s.moors := rfl
@[simp] theorem State.modFn_quays (f : Nat) (g : Fn → Fn) : (s.modFn f g).quays = s.quays := rfl
@[simp] theorem State.modFn_power (f : Nat) (g : Fn → Fn) : (s.modFn f g).power = s.power := rfl
@[simp] theorem State.modFn_farrier (f : Nat) (g : Fn → Fn) : (s.modFn f g).farrier = s.farrier := rfl
@[simp] theorem State.modFn_tap (f : Nat) (g : Fn → Fn) : (s.modFn f g).tap = s.tap := rfl
@[simp] theorem State.modFn_out (f : Nat) (g : Fn → Fn) : (s.modFn f g).out = s.out := rfl

/-! `State.setRing` -/

@[simp] theorem State.setRing_pending (r : Nat) (v : Ring) : (s.setRing r v).pending = s.pending := rfl
@[simp] theorem State.setRing_now (r : Nat) (v : Ring) : (s.setRing r v).now = s.now := rfl
@[simp] theorem State.setRing_free (r : Nat) (v : Ring) : (s.setRing r v).free = s.free := rfl
@[simp] theorem State.setRing_pins (r : Nat) (v : Ring) : (s.setRing r v).pins = s.pins := rfl
@[simp] theorem State.setRing_part (r : Nat) (v : Ring) : (s.setRing r v).part = s.part := rfl
@[simp] theorem State.setRing_fns (r : Nat) (v : Ring) : (s.setRing r v).fns = s.fns := rfl
@[simp] theorem State.setRing_ser (r : Nat) (v : Ring) : (s.setRing r v).ser = s.ser := rfl
@[simp] theorem State.setRing_journal (r : Nat) (v : Ring) : (s.setRing r v).journal = s.journal := rfl
@[simp] theorem State.setRing_accepts (r : Nat) (v : Ring) : (s.setRing r v).accepts = s.accepts := rfl
@[simp] theorem State.setRing_waits (r : Nat) (v : Ring) : (s.setRing r v).waits = s.waits := rfl
@[simp] theorem State.setRing_log (r : Nat) (v : Ring) : (s.setRing r v).log = s.log := rfl
@[simp] theorem State.setRing_kryto (r : Nat) (v : Ring) : (s.setRing r v).kryto = s.kryto := rfl
@[simp] theorem State.setRing_paddocks (r : Nat) (v : Ring) : (s.setRing r v).paddocks = s.paddocks := rfl
@[simp] theorem State.setRing_teams (r : Nat) (v : Ring) : (s.setRing r v).teams = s.teams := rfl
@[simp] theorem State.setRing_phys (r : Nat) (v : Ring) : (s.setRing r v).phys = s.phys := rfl
@[simp] theorem State.setRing_cores (r : Nat) (v : Ring) : (s.setRing r v).cores = s.cores := rfl
@[simp] theorem State.setRing_ctxs (r : Nat) (v : Ring) : (s.setRing r v).ctxs = s.ctxs := rfl
@[simp] theorem State.setRing_scratch (r : Nat) (v : Ring) : (s.setRing r v).scratch = s.scratch := rfl
@[simp] theorem State.setRing_kernels (r : Nat) (v : Ring) : (s.setRing r v).kernels = s.kernels := rfl
@[simp] theorem State.setRing_tasks (r : Nat) (v : Ring) : (s.setRing r v).tasks = s.tasks := rfl
@[simp] theorem State.setRing_mem (r : Nat) (v : Ring) : (s.setRing r v).mem = s.mem := rfl
@[simp] theorem State.setRing_poison (r : Nat) (v : Ring) : (s.setRing r v).poison = s.poison := rfl
@[simp] theorem State.setRing_basin (r : Nat) (v : Ring) : (s.setRing r v).basin = s.basin := rfl
@[simp] theorem State.setRing_streams (r : Nat) (v : Ring) : (s.setRing r v).streams = s.streams := rfl
@[simp] theorem State.setRing_barriers (r : Nat) (v : Ring) : (s.setRing r v).barriers = s.barriers := rfl
@[simp] theorem State.setRing_allocs (r : Nat) (v : Ring) : (s.setRing r v).allocs = s.allocs := rfl
@[simp] theorem State.setRing_hbm (r : Nat) (v : Ring) : (s.setRing r v).hbm = s.hbm := rfl
@[simp] theorem State.setRing_nvw (r : Nat) (v : Ring) : (s.setRing r v).nvw = s.nvw := rfl
@[simp] theorem State.setRing_nvwProgs (r : Nat) (v : Ring) : (s.setRing r v).nvwProgs = s.nvwProgs := rfl
@[simp] theorem State.setRing_cxl (r : Nat) (v : Ring) : (s.setRing r v).cxl = s.cxl := rfl
@[simp] theorem State.setRing_gen (r : Nat) (v : Ring) : (s.setRing r v).gen = s.gen := rfl
@[simp] theorem State.setRing_learn (r : Nat) (v : Ring) : (s.setRing r v).learn = s.learn := rfl
@[simp] theorem State.setRing_rein (r : Nat) (v : Ring) : (s.setRing r v).rein = s.rein := rfl
@[simp] theorem State.setRing_trace (r : Nat) (v : Ring) : (s.setRing r v).trace = s.trace := rfl
@[simp] theorem State.setRing_moors (r : Nat) (v : Ring) : (s.setRing r v).moors = s.moors := rfl
@[simp] theorem State.setRing_quays (r : Nat) (v : Ring) : (s.setRing r v).quays = s.quays := rfl
@[simp] theorem State.setRing_power (r : Nat) (v : Ring) : (s.setRing r v).power = s.power := rfl
@[simp] theorem State.setRing_farrier (r : Nat) (v : Ring) : (s.setRing r v).farrier = s.farrier := rfl
@[simp] theorem State.setRing_tap (r : Nat) (v : Ring) : (s.setRing r v).tap = s.tap := rfl
@[simp] theorem State.setRing_out (r : Nat) (v : Ring) : (s.setRing r v).out = s.out := rfl

/-! `State.modRing` -/

@[simp] theorem State.modRing_pending (r : Nat) (g : Ring → Ring) : (s.modRing r g).pending = s.pending := rfl
@[simp] theorem State.modRing_now (r : Nat) (g : Ring → Ring) : (s.modRing r g).now = s.now := rfl
@[simp] theorem State.modRing_free (r : Nat) (g : Ring → Ring) : (s.modRing r g).free = s.free := rfl
@[simp] theorem State.modRing_pins (r : Nat) (g : Ring → Ring) : (s.modRing r g).pins = s.pins := rfl
@[simp] theorem State.modRing_part (r : Nat) (g : Ring → Ring) : (s.modRing r g).part = s.part := rfl
@[simp] theorem State.modRing_fns (r : Nat) (g : Ring → Ring) : (s.modRing r g).fns = s.fns := rfl
@[simp] theorem State.modRing_ser (r : Nat) (g : Ring → Ring) : (s.modRing r g).ser = s.ser := rfl
@[simp] theorem State.modRing_journal (r : Nat) (g : Ring → Ring) : (s.modRing r g).journal = s.journal := rfl
@[simp] theorem State.modRing_accepts (r : Nat) (g : Ring → Ring) : (s.modRing r g).accepts = s.accepts := rfl
@[simp] theorem State.modRing_waits (r : Nat) (g : Ring → Ring) : (s.modRing r g).waits = s.waits := rfl
@[simp] theorem State.modRing_log (r : Nat) (g : Ring → Ring) : (s.modRing r g).log = s.log := rfl
@[simp] theorem State.modRing_kryto (r : Nat) (g : Ring → Ring) : (s.modRing r g).kryto = s.kryto := rfl
@[simp] theorem State.modRing_paddocks (r : Nat) (g : Ring → Ring) : (s.modRing r g).paddocks = s.paddocks := rfl
@[simp] theorem State.modRing_teams (r : Nat) (g : Ring → Ring) : (s.modRing r g).teams = s.teams := rfl
@[simp] theorem State.modRing_phys (r : Nat) (g : Ring → Ring) : (s.modRing r g).phys = s.phys := rfl
@[simp] theorem State.modRing_cores (r : Nat) (g : Ring → Ring) : (s.modRing r g).cores = s.cores := rfl
@[simp] theorem State.modRing_ctxs (r : Nat) (g : Ring → Ring) : (s.modRing r g).ctxs = s.ctxs := rfl
@[simp] theorem State.modRing_scratch (r : Nat) (g : Ring → Ring) : (s.modRing r g).scratch = s.scratch := rfl
@[simp] theorem State.modRing_kernels (r : Nat) (g : Ring → Ring) : (s.modRing r g).kernels = s.kernels := rfl
@[simp] theorem State.modRing_tasks (r : Nat) (g : Ring → Ring) : (s.modRing r g).tasks = s.tasks := rfl
@[simp] theorem State.modRing_mem (r : Nat) (g : Ring → Ring) : (s.modRing r g).mem = s.mem := rfl
@[simp] theorem State.modRing_poison (r : Nat) (g : Ring → Ring) : (s.modRing r g).poison = s.poison := rfl
@[simp] theorem State.modRing_basin (r : Nat) (g : Ring → Ring) : (s.modRing r g).basin = s.basin := rfl
@[simp] theorem State.modRing_streams (r : Nat) (g : Ring → Ring) : (s.modRing r g).streams = s.streams := rfl
@[simp] theorem State.modRing_barriers (r : Nat) (g : Ring → Ring) : (s.modRing r g).barriers = s.barriers := rfl
@[simp] theorem State.modRing_allocs (r : Nat) (g : Ring → Ring) : (s.modRing r g).allocs = s.allocs := rfl
@[simp] theorem State.modRing_hbm (r : Nat) (g : Ring → Ring) : (s.modRing r g).hbm = s.hbm := rfl
@[simp] theorem State.modRing_nvw (r : Nat) (g : Ring → Ring) : (s.modRing r g).nvw = s.nvw := rfl
@[simp] theorem State.modRing_nvwProgs (r : Nat) (g : Ring → Ring) : (s.modRing r g).nvwProgs = s.nvwProgs := rfl
@[simp] theorem State.modRing_cxl (r : Nat) (g : Ring → Ring) : (s.modRing r g).cxl = s.cxl := rfl
@[simp] theorem State.modRing_gen (r : Nat) (g : Ring → Ring) : (s.modRing r g).gen = s.gen := rfl
@[simp] theorem State.modRing_learn (r : Nat) (g : Ring → Ring) : (s.modRing r g).learn = s.learn := rfl
@[simp] theorem State.modRing_rein (r : Nat) (g : Ring → Ring) : (s.modRing r g).rein = s.rein := rfl
@[simp] theorem State.modRing_trace (r : Nat) (g : Ring → Ring) : (s.modRing r g).trace = s.trace := rfl
@[simp] theorem State.modRing_moors (r : Nat) (g : Ring → Ring) : (s.modRing r g).moors = s.moors := rfl
@[simp] theorem State.modRing_quays (r : Nat) (g : Ring → Ring) : (s.modRing r g).quays = s.quays := rfl
@[simp] theorem State.modRing_power (r : Nat) (g : Ring → Ring) : (s.modRing r g).power = s.power := rfl
@[simp] theorem State.modRing_farrier (r : Nat) (g : Ring → Ring) : (s.modRing r g).farrier = s.farrier := rfl
@[simp] theorem State.modRing_tap (r : Nat) (g : Ring → Ring) : (s.modRing r g).tap = s.tap := rfl
@[simp] theorem State.modRing_out (r : Nat) (g : Ring → Ring) : (s.modRing r g).out = s.out := rfl

/-! `State.setTeam` -/

@[simp] theorem State.setTeam_pending (l : Nat) (v : Team) : (s.setTeam l v).pending = s.pending := rfl
@[simp] theorem State.setTeam_now (l : Nat) (v : Team) : (s.setTeam l v).now = s.now := rfl
@[simp] theorem State.setTeam_free (l : Nat) (v : Team) : (s.setTeam l v).free = s.free := rfl
@[simp] theorem State.setTeam_pins (l : Nat) (v : Team) : (s.setTeam l v).pins = s.pins := rfl
@[simp] theorem State.setTeam_part (l : Nat) (v : Team) : (s.setTeam l v).part = s.part := rfl
@[simp] theorem State.setTeam_fns (l : Nat) (v : Team) : (s.setTeam l v).fns = s.fns := rfl
@[simp] theorem State.setTeam_rings (l : Nat) (v : Team) : (s.setTeam l v).rings = s.rings := rfl
@[simp] theorem State.setTeam_ser (l : Nat) (v : Team) : (s.setTeam l v).ser = s.ser := rfl
@[simp] theorem State.setTeam_journal (l : Nat) (v : Team) : (s.setTeam l v).journal = s.journal := rfl
@[simp] theorem State.setTeam_accepts (l : Nat) (v : Team) : (s.setTeam l v).accepts = s.accepts := rfl
@[simp] theorem State.setTeam_waits (l : Nat) (v : Team) : (s.setTeam l v).waits = s.waits := rfl
@[simp] theorem State.setTeam_log (l : Nat) (v : Team) : (s.setTeam l v).log = s.log := rfl
@[simp] theorem State.setTeam_kryto (l : Nat) (v : Team) : (s.setTeam l v).kryto = s.kryto := rfl
@[simp] theorem State.setTeam_paddocks (l : Nat) (v : Team) : (s.setTeam l v).paddocks = s.paddocks := rfl
@[simp] theorem State.setTeam_phys (l : Nat) (v : Team) : (s.setTeam l v).phys = s.phys := rfl
@[simp] theorem State.setTeam_cores (l : Nat) (v : Team) : (s.setTeam l v).cores = s.cores := rfl
@[simp] theorem State.setTeam_ctxs (l : Nat) (v : Team) : (s.setTeam l v).ctxs = s.ctxs := rfl
@[simp] theorem State.setTeam_scratch (l : Nat) (v : Team) : (s.setTeam l v).scratch = s.scratch := rfl
@[simp] theorem State.setTeam_kernels (l : Nat) (v : Team) : (s.setTeam l v).kernels = s.kernels := rfl
@[simp] theorem State.setTeam_tasks (l : Nat) (v : Team) : (s.setTeam l v).tasks = s.tasks := rfl
@[simp] theorem State.setTeam_mem (l : Nat) (v : Team) : (s.setTeam l v).mem = s.mem := rfl
@[simp] theorem State.setTeam_poison (l : Nat) (v : Team) : (s.setTeam l v).poison = s.poison := rfl
@[simp] theorem State.setTeam_basin (l : Nat) (v : Team) : (s.setTeam l v).basin = s.basin := rfl
@[simp] theorem State.setTeam_streams (l : Nat) (v : Team) : (s.setTeam l v).streams = s.streams := rfl
@[simp] theorem State.setTeam_barriers (l : Nat) (v : Team) : (s.setTeam l v).barriers = s.barriers := rfl
@[simp] theorem State.setTeam_allocs (l : Nat) (v : Team) : (s.setTeam l v).allocs = s.allocs := rfl
@[simp] theorem State.setTeam_hbm (l : Nat) (v : Team) : (s.setTeam l v).hbm = s.hbm := rfl
@[simp] theorem State.setTeam_nvw (l : Nat) (v : Team) : (s.setTeam l v).nvw = s.nvw := rfl
@[simp] theorem State.setTeam_nvwProgs (l : Nat) (v : Team) : (s.setTeam l v).nvwProgs = s.nvwProgs := rfl
@[simp] theorem State.setTeam_cxl (l : Nat) (v : Team) : (s.setTeam l v).cxl = s.cxl := rfl
@[simp] theorem State.setTeam_gen (l : Nat) (v : Team) : (s.setTeam l v).gen = s.gen := rfl
@[simp] theorem State.setTeam_learn (l : Nat) (v : Team) : (s.setTeam l v).learn = s.learn := rfl
@[simp] theorem State.setTeam_rein (l : Nat) (v : Team) : (s.setTeam l v).rein = s.rein := rfl
@[simp] theorem State.setTeam_trace (l : Nat) (v : Team) : (s.setTeam l v).trace = s.trace := rfl
@[simp] theorem State.setTeam_moors (l : Nat) (v : Team) : (s.setTeam l v).moors = s.moors := rfl
@[simp] theorem State.setTeam_quays (l : Nat) (v : Team) : (s.setTeam l v).quays = s.quays := rfl
@[simp] theorem State.setTeam_power (l : Nat) (v : Team) : (s.setTeam l v).power = s.power := rfl
@[simp] theorem State.setTeam_farrier (l : Nat) (v : Team) : (s.setTeam l v).farrier = s.farrier := rfl
@[simp] theorem State.setTeam_tap (l : Nat) (v : Team) : (s.setTeam l v).tap = s.tap := rfl
@[simp] theorem State.setTeam_out (l : Nat) (v : Team) : (s.setTeam l v).out = s.out := rfl

/-! `State.setCtx` -/

@[simp] theorem State.setCtx_pending (k : Nat) (v : Ctx) : (s.setCtx k v).pending = s.pending := rfl
@[simp] theorem State.setCtx_now (k : Nat) (v : Ctx) : (s.setCtx k v).now = s.now := rfl
@[simp] theorem State.setCtx_free (k : Nat) (v : Ctx) : (s.setCtx k v).free = s.free := rfl
@[simp] theorem State.setCtx_pins (k : Nat) (v : Ctx) : (s.setCtx k v).pins = s.pins := rfl
@[simp] theorem State.setCtx_part (k : Nat) (v : Ctx) : (s.setCtx k v).part = s.part := rfl
@[simp] theorem State.setCtx_fns (k : Nat) (v : Ctx) : (s.setCtx k v).fns = s.fns := rfl
@[simp] theorem State.setCtx_rings (k : Nat) (v : Ctx) : (s.setCtx k v).rings = s.rings := rfl
@[simp] theorem State.setCtx_ser (k : Nat) (v : Ctx) : (s.setCtx k v).ser = s.ser := rfl
@[simp] theorem State.setCtx_journal (k : Nat) (v : Ctx) : (s.setCtx k v).journal = s.journal := rfl
@[simp] theorem State.setCtx_accepts (k : Nat) (v : Ctx) : (s.setCtx k v).accepts = s.accepts := rfl
@[simp] theorem State.setCtx_waits (k : Nat) (v : Ctx) : (s.setCtx k v).waits = s.waits := rfl
@[simp] theorem State.setCtx_log (k : Nat) (v : Ctx) : (s.setCtx k v).log = s.log := rfl
@[simp] theorem State.setCtx_kryto (k : Nat) (v : Ctx) : (s.setCtx k v).kryto = s.kryto := rfl
@[simp] theorem State.setCtx_paddocks (k : Nat) (v : Ctx) : (s.setCtx k v).paddocks = s.paddocks := rfl
@[simp] theorem State.setCtx_teams (k : Nat) (v : Ctx) : (s.setCtx k v).teams = s.teams := rfl
@[simp] theorem State.setCtx_phys (k : Nat) (v : Ctx) : (s.setCtx k v).phys = s.phys := rfl
@[simp] theorem State.setCtx_cores (k : Nat) (v : Ctx) : (s.setCtx k v).cores = s.cores := rfl
@[simp] theorem State.setCtx_scratch (k : Nat) (v : Ctx) : (s.setCtx k v).scratch = s.scratch := rfl
@[simp] theorem State.setCtx_kernels (k : Nat) (v : Ctx) : (s.setCtx k v).kernels = s.kernels := rfl
@[simp] theorem State.setCtx_tasks (k : Nat) (v : Ctx) : (s.setCtx k v).tasks = s.tasks := rfl
@[simp] theorem State.setCtx_mem (k : Nat) (v : Ctx) : (s.setCtx k v).mem = s.mem := rfl
@[simp] theorem State.setCtx_poison (k : Nat) (v : Ctx) : (s.setCtx k v).poison = s.poison := rfl
@[simp] theorem State.setCtx_basin (k : Nat) (v : Ctx) : (s.setCtx k v).basin = s.basin := rfl
@[simp] theorem State.setCtx_streams (k : Nat) (v : Ctx) : (s.setCtx k v).streams = s.streams := rfl
@[simp] theorem State.setCtx_barriers (k : Nat) (v : Ctx) : (s.setCtx k v).barriers = s.barriers := rfl
@[simp] theorem State.setCtx_allocs (k : Nat) (v : Ctx) : (s.setCtx k v).allocs = s.allocs := rfl
@[simp] theorem State.setCtx_hbm (k : Nat) (v : Ctx) : (s.setCtx k v).hbm = s.hbm := rfl
@[simp] theorem State.setCtx_nvw (k : Nat) (v : Ctx) : (s.setCtx k v).nvw = s.nvw := rfl
@[simp] theorem State.setCtx_nvwProgs (k : Nat) (v : Ctx) : (s.setCtx k v).nvwProgs = s.nvwProgs := rfl
@[simp] theorem State.setCtx_cxl (k : Nat) (v : Ctx) : (s.setCtx k v).cxl = s.cxl := rfl
@[simp] theorem State.setCtx_gen (k : Nat) (v : Ctx) : (s.setCtx k v).gen = s.gen := rfl
@[simp] theorem State.setCtx_learn (k : Nat) (v : Ctx) : (s.setCtx k v).learn = s.learn := rfl
@[simp] theorem State.setCtx_rein (k : Nat) (v : Ctx) : (s.setCtx k v).rein = s.rein := rfl
@[simp] theorem State.setCtx_trace (k : Nat) (v : Ctx) : (s.setCtx k v).trace = s.trace := rfl
@[simp] theorem State.setCtx_moors (k : Nat) (v : Ctx) : (s.setCtx k v).moors = s.moors := rfl
@[simp] theorem State.setCtx_quays (k : Nat) (v : Ctx) : (s.setCtx k v).quays = s.quays := rfl
@[simp] theorem State.setCtx_power (k : Nat) (v : Ctx) : (s.setCtx k v).power = s.power := rfl
@[simp] theorem State.setCtx_farrier (k : Nat) (v : Ctx) : (s.setCtx k v).farrier = s.farrier := rfl
@[simp] theorem State.setCtx_tap (k : Nat) (v : Ctx) : (s.setCtx k v).tap = s.tap := rfl
@[simp] theorem State.setCtx_out (k : Nat) (v : Ctx) : (s.setCtx k v).out = s.out := rfl

/-! `State.modCtx` -/

@[simp] theorem State.modCtx_pending (k : Nat) (f : Ctx → Ctx) : (s.modCtx k f).pending = s.pending := rfl
@[simp] theorem State.modCtx_now (k : Nat) (f : Ctx → Ctx) : (s.modCtx k f).now = s.now := rfl
@[simp] theorem State.modCtx_free (k : Nat) (f : Ctx → Ctx) : (s.modCtx k f).free = s.free := rfl
@[simp] theorem State.modCtx_pins (k : Nat) (f : Ctx → Ctx) : (s.modCtx k f).pins = s.pins := rfl
@[simp] theorem State.modCtx_part (k : Nat) (f : Ctx → Ctx) : (s.modCtx k f).part = s.part := rfl
@[simp] theorem State.modCtx_fns (k : Nat) (f : Ctx → Ctx) : (s.modCtx k f).fns = s.fns := rfl
@[simp] theorem State.modCtx_rings (k : Nat) (f : Ctx → Ctx) : (s.modCtx k f).rings = s.rings := rfl
@[simp] theorem State.modCtx_ser (k : Nat) (f : Ctx → Ctx) : (s.modCtx k f).ser = s.ser := rfl
@[simp] theorem State.modCtx_journal (k : Nat) (f : Ctx → Ctx) : (s.modCtx k f).journal = s.journal := rfl
@[simp] theorem State.modCtx_accepts (k : Nat) (f : Ctx → Ctx) : (s.modCtx k f).accepts = s.accepts := rfl
@[simp] theorem State.modCtx_waits (k : Nat) (f : Ctx → Ctx) : (s.modCtx k f).waits = s.waits := rfl
@[simp] theorem State.modCtx_log (k : Nat) (f : Ctx → Ctx) : (s.modCtx k f).log = s.log := rfl
@[simp] theorem State.modCtx_kryto (k : Nat) (f : Ctx → Ctx) : (s.modCtx k f).kryto = s.kryto := rfl
@[simp] theorem State.modCtx_paddocks (k : Nat) (f : Ctx → Ctx) : (s.modCtx k f).paddocks = s.paddocks := rfl
@[simp] theorem State.modCtx_teams (k : Nat) (f : Ctx → Ctx) : (s.modCtx k f).teams = s.teams := rfl
@[simp] theorem State.modCtx_phys (k : Nat) (f : Ctx → Ctx) : (s.modCtx k f).phys = s.phys := rfl
@[simp] theorem State.modCtx_cores (k : Nat) (f : Ctx → Ctx) : (s.modCtx k f).cores = s.cores := rfl
@[simp] theorem State.modCtx_scratch (k : Nat) (f : Ctx → Ctx) : (s.modCtx k f).scratch = s.scratch := rfl
@[simp] theorem State.modCtx_kernels (k : Nat) (f : Ctx → Ctx) : (s.modCtx k f).kernels = s.kernels := rfl
@[simp] theorem State.modCtx_tasks (k : Nat) (f : Ctx → Ctx) : (s.modCtx k f).tasks = s.tasks := rfl
@[simp] theorem State.modCtx_mem (k : Nat) (f : Ctx → Ctx) : (s.modCtx k f).mem = s.mem := rfl
@[simp] theorem State.modCtx_poison (k : Nat) (f : Ctx → Ctx) : (s.modCtx k f).poison = s.poison := rfl
@[simp] theorem State.modCtx_basin (k : Nat) (f : Ctx → Ctx) : (s.modCtx k f).basin = s.basin := rfl
@[simp] theorem State.modCtx_streams (k : Nat) (f : Ctx → Ctx) : (s.modCtx k f).streams = s.streams := rfl
@[simp] theorem State.modCtx_barriers (k : Nat) (f : Ctx → Ctx) : (s.modCtx k f).barriers = s.barriers := rfl
@[simp] theorem State.modCtx_allocs (k : Nat) (f : Ctx → Ctx) : (s.modCtx k f).allocs = s.allocs := rfl
@[simp] theorem State.modCtx_hbm (k : Nat) (f : Ctx → Ctx) : (s.modCtx k f).hbm = s.hbm := rfl
@[simp] theorem State.modCtx_nvw (k : Nat) (f : Ctx → Ctx) : (s.modCtx k f).nvw = s.nvw := rfl
@[simp] theorem State.modCtx_nvwProgs (k : Nat) (f : Ctx → Ctx) : (s.modCtx k f).nvwProgs = s.nvwProgs := rfl
@[simp] theorem State.modCtx_cxl (k : Nat) (f : Ctx → Ctx) : (s.modCtx k f).cxl = s.cxl := rfl
@[simp] theorem State.modCtx_gen (k : Nat) (f : Ctx → Ctx) : (s.modCtx k f).gen = s.gen := rfl
@[simp] theorem State.modCtx_learn (k : Nat) (f : Ctx → Ctx) : (s.modCtx k f).learn = s.learn := rfl
@[simp] theorem State.modCtx_rein (k : Nat) (f : Ctx → Ctx) : (s.modCtx k f).rein = s.rein := rfl
@[simp] theorem State.modCtx_trace (k : Nat) (f : Ctx → Ctx) : (s.modCtx k f).trace = s.trace := rfl
@[simp] theorem State.modCtx_moors (k : Nat) (f : Ctx → Ctx) : (s.modCtx k f).moors = s.moors := rfl
@[simp] theorem State.modCtx_quays (k : Nat) (f : Ctx → Ctx) : (s.modCtx k f).quays = s.quays := rfl
@[simp] theorem State.modCtx_power (k : Nat) (f : Ctx → Ctx) : (s.modCtx k f).power = s.power := rfl
@[simp] theorem State.modCtx_farrier (k : Nat) (f : Ctx → Ctx) : (s.modCtx k f).farrier = s.farrier := rfl
@[simp] theorem State.modCtx_tap (k : Nat) (f : Ctx → Ctx) : (s.modCtx k f).tap = s.tap := rfl
@[simp] theorem State.modCtx_out (k : Nat) (f : Ctx → Ctx) : (s.modCtx k f).out = s.out := rfl

/-! `State.setByte` -/

@[simp] theorem State.setByte_pending (a : Nat) (b : Byte) : (s.setByte a b).pending = s.pending := rfl
@[simp] theorem State.setByte_now (a : Nat) (b : Byte) : (s.setByte a b).now = s.now := rfl
@[simp] theorem State.setByte_free (a : Nat) (b : Byte) : (s.setByte a b).free = s.free := rfl
@[simp] theorem State.setByte_pins (a : Nat) (b : Byte) : (s.setByte a b).pins = s.pins := rfl
@[simp] theorem State.setByte_part (a : Nat) (b : Byte) : (s.setByte a b).part = s.part := rfl
@[simp] theorem State.setByte_fns (a : Nat) (b : Byte) : (s.setByte a b).fns = s.fns := rfl
@[simp] theorem State.setByte_rings (a : Nat) (b : Byte) : (s.setByte a b).rings = s.rings := rfl
@[simp] theorem State.setByte_ser (a : Nat) (b : Byte) : (s.setByte a b).ser = s.ser := rfl
@[simp] theorem State.setByte_journal (a : Nat) (b : Byte) : (s.setByte a b).journal = s.journal := rfl
@[simp] theorem State.setByte_accepts (a : Nat) (b : Byte) : (s.setByte a b).accepts = s.accepts := rfl
@[simp] theorem State.setByte_waits (a : Nat) (b : Byte) : (s.setByte a b).waits = s.waits := rfl
@[simp] theorem State.setByte_log (a : Nat) (b : Byte) : (s.setByte a b).log = s.log := rfl
@[simp] theorem State.setByte_kryto (a : Nat) (b : Byte) : (s.setByte a b).kryto = s.kryto := rfl
@[simp] theorem State.setByte_paddocks (a : Nat) (b : Byte) : (s.setByte a b).paddocks = s.paddocks := rfl
@[simp] theorem State.setByte_teams (a : Nat) (b : Byte) : (s.setByte a b).teams = s.teams := rfl
@[simp] theorem State.setByte_phys (a : Nat) (b : Byte) : (s.setByte a b).phys = s.phys := rfl
@[simp] theorem State.setByte_cores (a : Nat) (b : Byte) : (s.setByte a b).cores = s.cores := rfl
@[simp] theorem State.setByte_ctxs (a : Nat) (b : Byte) : (s.setByte a b).ctxs = s.ctxs := rfl
@[simp] theorem State.setByte_scratch (a : Nat) (b : Byte) : (s.setByte a b).scratch = s.scratch := rfl
@[simp] theorem State.setByte_kernels (a : Nat) (b : Byte) : (s.setByte a b).kernels = s.kernels := rfl
@[simp] theorem State.setByte_tasks (a : Nat) (b : Byte) : (s.setByte a b).tasks = s.tasks := rfl
@[simp] theorem State.setByte_poison (a : Nat) (b : Byte) : (s.setByte a b).poison = s.poison := rfl
@[simp] theorem State.setByte_basin (a : Nat) (b : Byte) : (s.setByte a b).basin = s.basin := rfl
@[simp] theorem State.setByte_streams (a : Nat) (b : Byte) : (s.setByte a b).streams = s.streams := rfl
@[simp] theorem State.setByte_barriers (a : Nat) (b : Byte) : (s.setByte a b).barriers = s.barriers := rfl
@[simp] theorem State.setByte_allocs (a : Nat) (b : Byte) : (s.setByte a b).allocs = s.allocs := rfl
@[simp] theorem State.setByte_hbm (a : Nat) (b : Byte) : (s.setByte a b).hbm = s.hbm := rfl
@[simp] theorem State.setByte_nvw (a : Nat) (b : Byte) : (s.setByte a b).nvw = s.nvw := rfl
@[simp] theorem State.setByte_nvwProgs (a : Nat) (b : Byte) : (s.setByte a b).nvwProgs = s.nvwProgs := rfl
@[simp] theorem State.setByte_cxl (a : Nat) (b : Byte) : (s.setByte a b).cxl = s.cxl := rfl
@[simp] theorem State.setByte_gen (a : Nat) (b : Byte) : (s.setByte a b).gen = s.gen := rfl
@[simp] theorem State.setByte_learn (a : Nat) (b : Byte) : (s.setByte a b).learn = s.learn := rfl
@[simp] theorem State.setByte_rein (a : Nat) (b : Byte) : (s.setByte a b).rein = s.rein := rfl
@[simp] theorem State.setByte_trace (a : Nat) (b : Byte) : (s.setByte a b).trace = s.trace := rfl
@[simp] theorem State.setByte_moors (a : Nat) (b : Byte) : (s.setByte a b).moors = s.moors := rfl
@[simp] theorem State.setByte_quays (a : Nat) (b : Byte) : (s.setByte a b).quays = s.quays := rfl
@[simp] theorem State.setByte_power (a : Nat) (b : Byte) : (s.setByte a b).power = s.power := rfl
@[simp] theorem State.setByte_farrier (a : Nat) (b : Byte) : (s.setByte a b).farrier = s.farrier := rfl
@[simp] theorem State.setByte_tap (a : Nat) (b : Byte) : (s.setByte a b).tap = s.tap := rfl
@[simp] theorem State.setByte_out (a : Nat) (b : Byte) : (s.setByte a b).out = s.out := rfl

/-! `State.poisonLine` -/

@[simp] theorem State.poisonLine_pending (a : Nat) : (s.poisonLine a).pending = s.pending := rfl
@[simp] theorem State.poisonLine_now (a : Nat) : (s.poisonLine a).now = s.now := rfl
@[simp] theorem State.poisonLine_free (a : Nat) : (s.poisonLine a).free = s.free := rfl
@[simp] theorem State.poisonLine_pins (a : Nat) : (s.poisonLine a).pins = s.pins := rfl
@[simp] theorem State.poisonLine_part (a : Nat) : (s.poisonLine a).part = s.part := rfl
@[simp] theorem State.poisonLine_fns (a : Nat) : (s.poisonLine a).fns = s.fns := rfl
@[simp] theorem State.poisonLine_rings (a : Nat) : (s.poisonLine a).rings = s.rings := rfl
@[simp] theorem State.poisonLine_ser (a : Nat) : (s.poisonLine a).ser = s.ser := rfl
@[simp] theorem State.poisonLine_journal (a : Nat) : (s.poisonLine a).journal = s.journal := rfl
@[simp] theorem State.poisonLine_accepts (a : Nat) : (s.poisonLine a).accepts = s.accepts := rfl
@[simp] theorem State.poisonLine_waits (a : Nat) : (s.poisonLine a).waits = s.waits := rfl
@[simp] theorem State.poisonLine_log (a : Nat) : (s.poisonLine a).log = s.log := rfl
@[simp] theorem State.poisonLine_kryto (a : Nat) : (s.poisonLine a).kryto = s.kryto := rfl
@[simp] theorem State.poisonLine_paddocks (a : Nat) : (s.poisonLine a).paddocks = s.paddocks := rfl
@[simp] theorem State.poisonLine_teams (a : Nat) : (s.poisonLine a).teams = s.teams := rfl
@[simp] theorem State.poisonLine_phys (a : Nat) : (s.poisonLine a).phys = s.phys := rfl
@[simp] theorem State.poisonLine_cores (a : Nat) : (s.poisonLine a).cores = s.cores := rfl
@[simp] theorem State.poisonLine_ctxs (a : Nat) : (s.poisonLine a).ctxs = s.ctxs := rfl
@[simp] theorem State.poisonLine_scratch (a : Nat) : (s.poisonLine a).scratch = s.scratch := rfl
@[simp] theorem State.poisonLine_kernels (a : Nat) : (s.poisonLine a).kernels = s.kernels := rfl
@[simp] theorem State.poisonLine_tasks (a : Nat) : (s.poisonLine a).tasks = s.tasks := rfl
@[simp] theorem State.poisonLine_mem (a : Nat) : (s.poisonLine a).mem = s.mem := rfl
@[simp] theorem State.poisonLine_streams (a : Nat) : (s.poisonLine a).streams = s.streams := rfl
@[simp] theorem State.poisonLine_barriers (a : Nat) : (s.poisonLine a).barriers = s.barriers := rfl
@[simp] theorem State.poisonLine_allocs (a : Nat) : (s.poisonLine a).allocs = s.allocs := rfl
@[simp] theorem State.poisonLine_hbm (a : Nat) : (s.poisonLine a).hbm = s.hbm := rfl
@[simp] theorem State.poisonLine_nvw (a : Nat) : (s.poisonLine a).nvw = s.nvw := rfl
@[simp] theorem State.poisonLine_nvwProgs (a : Nat) : (s.poisonLine a).nvwProgs = s.nvwProgs := rfl
@[simp] theorem State.poisonLine_cxl (a : Nat) : (s.poisonLine a).cxl = s.cxl := rfl
@[simp] theorem State.poisonLine_gen (a : Nat) : (s.poisonLine a).gen = s.gen := rfl
@[simp] theorem State.poisonLine_learn (a : Nat) : (s.poisonLine a).learn = s.learn := rfl
@[simp] theorem State.poisonLine_rein (a : Nat) : (s.poisonLine a).rein = s.rein := rfl
@[simp] theorem State.poisonLine_trace (a : Nat) : (s.poisonLine a).trace = s.trace := rfl
@[simp] theorem State.poisonLine_moors (a : Nat) : (s.poisonLine a).moors = s.moors := rfl
@[simp] theorem State.poisonLine_quays (a : Nat) : (s.poisonLine a).quays = s.quays := rfl
@[simp] theorem State.poisonLine_power (a : Nat) : (s.poisonLine a).power = s.power := rfl
@[simp] theorem State.poisonLine_farrier (a : Nat) : (s.poisonLine a).farrier = s.farrier := rfl
@[simp] theorem State.poisonLine_tap (a : Nat) : (s.poisonLine a).tap = s.tap := rfl
@[simp] theorem State.poisonLine_out (a : Nat) : (s.poisonLine a).out = s.out := rfl

/-! `State.clearLine` -/

@[simp] theorem State.clearLine_pending (a : Nat) : (s.clearLine a).pending = s.pending := rfl
@[simp] theorem State.clearLine_now (a : Nat) : (s.clearLine a).now = s.now := rfl
@[simp] theorem State.clearLine_free (a : Nat) : (s.clearLine a).free = s.free := rfl
@[simp] theorem State.clearLine_pins (a : Nat) : (s.clearLine a).pins = s.pins := rfl
@[simp] theorem State.clearLine_part (a : Nat) : (s.clearLine a).part = s.part := rfl
@[simp] theorem State.clearLine_fns (a : Nat) : (s.clearLine a).fns = s.fns := rfl
@[simp] theorem State.clearLine_rings (a : Nat) : (s.clearLine a).rings = s.rings := rfl
@[simp] theorem State.clearLine_ser (a : Nat) : (s.clearLine a).ser = s.ser := rfl
@[simp] theorem State.clearLine_journal (a : Nat) : (s.clearLine a).journal = s.journal := rfl
@[simp] theorem State.clearLine_accepts (a : Nat) : (s.clearLine a).accepts = s.accepts := rfl
@[simp] theorem State.clearLine_waits (a : Nat) : (s.clearLine a).waits = s.waits := rfl
@[simp] theorem State.clearLine_log (a : Nat) : (s.clearLine a).log = s.log := rfl
@[simp] theorem State.clearLine_kryto (a : Nat) : (s.clearLine a).kryto = s.kryto := rfl
@[simp] theorem State.clearLine_paddocks (a : Nat) : (s.clearLine a).paddocks = s.paddocks := rfl
@[simp] theorem State.clearLine_teams (a : Nat) : (s.clearLine a).teams = s.teams := rfl
@[simp] theorem State.clearLine_phys (a : Nat) : (s.clearLine a).phys = s.phys := rfl
@[simp] theorem State.clearLine_cores (a : Nat) : (s.clearLine a).cores = s.cores := rfl
@[simp] theorem State.clearLine_ctxs (a : Nat) : (s.clearLine a).ctxs = s.ctxs := rfl
@[simp] theorem State.clearLine_scratch (a : Nat) : (s.clearLine a).scratch = s.scratch := rfl
@[simp] theorem State.clearLine_kernels (a : Nat) : (s.clearLine a).kernels = s.kernels := rfl
@[simp] theorem State.clearLine_tasks (a : Nat) : (s.clearLine a).tasks = s.tasks := rfl
@[simp] theorem State.clearLine_mem (a : Nat) : (s.clearLine a).mem = s.mem := rfl
@[simp] theorem State.clearLine_basin (a : Nat) : (s.clearLine a).basin = s.basin := rfl
@[simp] theorem State.clearLine_streams (a : Nat) : (s.clearLine a).streams = s.streams := rfl
@[simp] theorem State.clearLine_barriers (a : Nat) : (s.clearLine a).barriers = s.barriers := rfl
@[simp] theorem State.clearLine_allocs (a : Nat) : (s.clearLine a).allocs = s.allocs := rfl
@[simp] theorem State.clearLine_hbm (a : Nat) : (s.clearLine a).hbm = s.hbm := rfl
@[simp] theorem State.clearLine_nvw (a : Nat) : (s.clearLine a).nvw = s.nvw := rfl
@[simp] theorem State.clearLine_nvwProgs (a : Nat) : (s.clearLine a).nvwProgs = s.nvwProgs := rfl
@[simp] theorem State.clearLine_cxl (a : Nat) : (s.clearLine a).cxl = s.cxl := rfl
@[simp] theorem State.clearLine_gen (a : Nat) : (s.clearLine a).gen = s.gen := rfl
@[simp] theorem State.clearLine_learn (a : Nat) : (s.clearLine a).learn = s.learn := rfl
@[simp] theorem State.clearLine_rein (a : Nat) : (s.clearLine a).rein = s.rein := rfl
@[simp] theorem State.clearLine_trace (a : Nat) : (s.clearLine a).trace = s.trace := rfl
@[simp] theorem State.clearLine_moors (a : Nat) : (s.clearLine a).moors = s.moors := rfl
@[simp] theorem State.clearLine_quays (a : Nat) : (s.clearLine a).quays = s.quays := rfl
@[simp] theorem State.clearLine_power (a : Nat) : (s.clearLine a).power = s.power := rfl
@[simp] theorem State.clearLine_farrier (a : Nat) : (s.clearLine a).farrier = s.farrier := rfl
@[simp] theorem State.clearLine_tap (a : Nat) : (s.clearLine a).tap = s.tap := rfl
@[simp] theorem State.clearLine_out (a : Nat) : (s.clearLine a).out = s.out := rfl

/-! `State.modTap` -/

@[simp] theorem State.modTap_pending (f : Tap → Tap) : (s.modTap f).pending = s.pending := rfl
@[simp] theorem State.modTap_now (f : Tap → Tap) : (s.modTap f).now = s.now := rfl
@[simp] theorem State.modTap_free (f : Tap → Tap) : (s.modTap f).free = s.free := rfl
@[simp] theorem State.modTap_pins (f : Tap → Tap) : (s.modTap f).pins = s.pins := rfl
@[simp] theorem State.modTap_part (f : Tap → Tap) : (s.modTap f).part = s.part := rfl
@[simp] theorem State.modTap_fns (f : Tap → Tap) : (s.modTap f).fns = s.fns := rfl
@[simp] theorem State.modTap_rings (f : Tap → Tap) : (s.modTap f).rings = s.rings := rfl
@[simp] theorem State.modTap_ser (f : Tap → Tap) : (s.modTap f).ser = s.ser := rfl
@[simp] theorem State.modTap_journal (f : Tap → Tap) : (s.modTap f).journal = s.journal := rfl
@[simp] theorem State.modTap_accepts (f : Tap → Tap) : (s.modTap f).accepts = s.accepts := rfl
@[simp] theorem State.modTap_waits (f : Tap → Tap) : (s.modTap f).waits = s.waits := rfl
@[simp] theorem State.modTap_log (f : Tap → Tap) : (s.modTap f).log = s.log := rfl
@[simp] theorem State.modTap_kryto (f : Tap → Tap) : (s.modTap f).kryto = s.kryto := rfl
@[simp] theorem State.modTap_paddocks (f : Tap → Tap) : (s.modTap f).paddocks = s.paddocks := rfl
@[simp] theorem State.modTap_teams (f : Tap → Tap) : (s.modTap f).teams = s.teams := rfl
@[simp] theorem State.modTap_phys (f : Tap → Tap) : (s.modTap f).phys = s.phys := rfl
@[simp] theorem State.modTap_cores (f : Tap → Tap) : (s.modTap f).cores = s.cores := rfl
@[simp] theorem State.modTap_ctxs (f : Tap → Tap) : (s.modTap f).ctxs = s.ctxs := rfl
@[simp] theorem State.modTap_scratch (f : Tap → Tap) : (s.modTap f).scratch = s.scratch := rfl
@[simp] theorem State.modTap_kernels (f : Tap → Tap) : (s.modTap f).kernels = s.kernels := rfl
@[simp] theorem State.modTap_tasks (f : Tap → Tap) : (s.modTap f).tasks = s.tasks := rfl
@[simp] theorem State.modTap_mem (f : Tap → Tap) : (s.modTap f).mem = s.mem := rfl
@[simp] theorem State.modTap_poison (f : Tap → Tap) : (s.modTap f).poison = s.poison := rfl
@[simp] theorem State.modTap_basin (f : Tap → Tap) : (s.modTap f).basin = s.basin := rfl
@[simp] theorem State.modTap_streams (f : Tap → Tap) : (s.modTap f).streams = s.streams := rfl
@[simp] theorem State.modTap_barriers (f : Tap → Tap) : (s.modTap f).barriers = s.barriers := rfl
@[simp] theorem State.modTap_allocs (f : Tap → Tap) : (s.modTap f).allocs = s.allocs := rfl
@[simp] theorem State.modTap_hbm (f : Tap → Tap) : (s.modTap f).hbm = s.hbm := rfl
@[simp] theorem State.modTap_nvw (f : Tap → Tap) : (s.modTap f).nvw = s.nvw := rfl
@[simp] theorem State.modTap_nvwProgs (f : Tap → Tap) : (s.modTap f).nvwProgs = s.nvwProgs := rfl
@[simp] theorem State.modTap_cxl (f : Tap → Tap) : (s.modTap f).cxl = s.cxl := rfl
@[simp] theorem State.modTap_gen (f : Tap → Tap) : (s.modTap f).gen = s.gen := rfl
@[simp] theorem State.modTap_learn (f : Tap → Tap) : (s.modTap f).learn = s.learn := rfl
@[simp] theorem State.modTap_rein (f : Tap → Tap) : (s.modTap f).rein = s.rein := rfl
@[simp] theorem State.modTap_trace (f : Tap → Tap) : (s.modTap f).trace = s.trace := rfl
@[simp] theorem State.modTap_moors (f : Tap → Tap) : (s.modTap f).moors = s.moors := rfl
@[simp] theorem State.modTap_quays (f : Tap → Tap) : (s.modTap f).quays = s.quays := rfl
@[simp] theorem State.modTap_power (f : Tap → Tap) : (s.modTap f).power = s.power := rfl
@[simp] theorem State.modTap_farrier (f : Tap → Tap) : (s.modTap f).farrier = s.farrier := rfl
@[simp] theorem State.modTap_out (f : Tap → Tap) : (s.modTap f).out = s.out := rfl

/-! `State.progress` -/

@[simp] theorem State.progress_pending (w p : BitVec 64) : (s.progress w p).pending = s.pending := rfl
@[simp] theorem State.progress_now (w p : BitVec 64) : (s.progress w p).now = s.now := rfl
@[simp] theorem State.progress_free (w p : BitVec 64) : (s.progress w p).free = s.free := rfl
@[simp] theorem State.progress_pins (w p : BitVec 64) : (s.progress w p).pins = s.pins := rfl
@[simp] theorem State.progress_part (w p : BitVec 64) : (s.progress w p).part = s.part := rfl
@[simp] theorem State.progress_fns (w p : BitVec 64) : (s.progress w p).fns = s.fns := rfl
@[simp] theorem State.progress_rings (w p : BitVec 64) : (s.progress w p).rings = s.rings := rfl
@[simp] theorem State.progress_ser (w p : BitVec 64) : (s.progress w p).ser = s.ser := rfl
@[simp] theorem State.progress_accepts (w p : BitVec 64) : (s.progress w p).accepts = s.accepts := rfl
@[simp] theorem State.progress_waits (w p : BitVec 64) : (s.progress w p).waits = s.waits := rfl
@[simp] theorem State.progress_log (w p : BitVec 64) : (s.progress w p).log = s.log := rfl
@[simp] theorem State.progress_kryto (w p : BitVec 64) : (s.progress w p).kryto = s.kryto := rfl
@[simp] theorem State.progress_paddocks (w p : BitVec 64) : (s.progress w p).paddocks = s.paddocks := rfl
@[simp] theorem State.progress_teams (w p : BitVec 64) : (s.progress w p).teams = s.teams := rfl
@[simp] theorem State.progress_phys (w p : BitVec 64) : (s.progress w p).phys = s.phys := rfl
@[simp] theorem State.progress_cores (w p : BitVec 64) : (s.progress w p).cores = s.cores := rfl
@[simp] theorem State.progress_ctxs (w p : BitVec 64) : (s.progress w p).ctxs = s.ctxs := rfl
@[simp] theorem State.progress_scratch (w p : BitVec 64) : (s.progress w p).scratch = s.scratch := rfl
@[simp] theorem State.progress_kernels (w p : BitVec 64) : (s.progress w p).kernels = s.kernels := rfl
@[simp] theorem State.progress_tasks (w p : BitVec 64) : (s.progress w p).tasks = s.tasks := rfl
@[simp] theorem State.progress_mem (w p : BitVec 64) : (s.progress w p).mem = s.mem := rfl
@[simp] theorem State.progress_poison (w p : BitVec 64) : (s.progress w p).poison = s.poison := rfl
@[simp] theorem State.progress_basin (w p : BitVec 64) : (s.progress w p).basin = s.basin := rfl
@[simp] theorem State.progress_streams (w p : BitVec 64) : (s.progress w p).streams = s.streams := rfl
@[simp] theorem State.progress_barriers (w p : BitVec 64) : (s.progress w p).barriers = s.barriers := rfl
@[simp] theorem State.progress_allocs (w p : BitVec 64) : (s.progress w p).allocs = s.allocs := rfl
@[simp] theorem State.progress_hbm (w p : BitVec 64) : (s.progress w p).hbm = s.hbm := rfl
@[simp] theorem State.progress_nvw (w p : BitVec 64) : (s.progress w p).nvw = s.nvw := rfl
@[simp] theorem State.progress_nvwProgs (w p : BitVec 64) : (s.progress w p).nvwProgs = s.nvwProgs := rfl
@[simp] theorem State.progress_cxl (w p : BitVec 64) : (s.progress w p).cxl = s.cxl := rfl
@[simp] theorem State.progress_gen (w p : BitVec 64) : (s.progress w p).gen = s.gen := rfl
@[simp] theorem State.progress_learn (w p : BitVec 64) : (s.progress w p).learn = s.learn := rfl
@[simp] theorem State.progress_rein (w p : BitVec 64) : (s.progress w p).rein = s.rein := rfl
@[simp] theorem State.progress_trace (w p : BitVec 64) : (s.progress w p).trace = s.trace := rfl
@[simp] theorem State.progress_moors (w p : BitVec 64) : (s.progress w p).moors = s.moors := rfl
@[simp] theorem State.progress_quays (w p : BitVec 64) : (s.progress w p).quays = s.quays := rfl
@[simp] theorem State.progress_power (w p : BitVec 64) : (s.progress w p).power = s.power := rfl
@[simp] theorem State.progress_farrier (w p : BitVec 64) : (s.progress w p).farrier = s.farrier := rfl
@[simp] theorem State.progress_tap (w p : BitVec 64) : (s.progress w p).tap = s.tap := rfl
@[simp] theorem State.progress_out (w p : BitVec 64) : (s.progress w p).out = s.out := rfl

/-! `State.markDispatched` -/

@[simp] theorem State.markDispatched_pending (w : BitVec 64) : (s.markDispatched w).pending = s.pending := rfl
@[simp] theorem State.markDispatched_now (w : BitVec 64) : (s.markDispatched w).now = s.now := rfl
@[simp] theorem State.markDispatched_free (w : BitVec 64) : (s.markDispatched w).free = s.free := rfl
@[simp] theorem State.markDispatched_pins (w : BitVec 64) : (s.markDispatched w).pins = s.pins := rfl
@[simp] theorem State.markDispatched_part (w : BitVec 64) : (s.markDispatched w).part = s.part := rfl
@[simp] theorem State.markDispatched_fns (w : BitVec 64) : (s.markDispatched w).fns = s.fns := rfl
@[simp] theorem State.markDispatched_rings (w : BitVec 64) : (s.markDispatched w).rings = s.rings := rfl
@[simp] theorem State.markDispatched_ser (w : BitVec 64) : (s.markDispatched w).ser = s.ser := rfl
@[simp] theorem State.markDispatched_accepts (w : BitVec 64) : (s.markDispatched w).accepts = s.accepts := rfl
@[simp] theorem State.markDispatched_waits (w : BitVec 64) : (s.markDispatched w).waits = s.waits := rfl
@[simp] theorem State.markDispatched_log (w : BitVec 64) : (s.markDispatched w).log = s.log := rfl
@[simp] theorem State.markDispatched_kryto (w : BitVec 64) : (s.markDispatched w).kryto = s.kryto := rfl
@[simp] theorem State.markDispatched_paddocks (w : BitVec 64) : (s.markDispatched w).paddocks = s.paddocks := rfl
@[simp] theorem State.markDispatched_teams (w : BitVec 64) : (s.markDispatched w).teams = s.teams := rfl
@[simp] theorem State.markDispatched_phys (w : BitVec 64) : (s.markDispatched w).phys = s.phys := rfl
@[simp] theorem State.markDispatched_cores (w : BitVec 64) : (s.markDispatched w).cores = s.cores := rfl
@[simp] theorem State.markDispatched_ctxs (w : BitVec 64) : (s.markDispatched w).ctxs = s.ctxs := rfl
@[simp] theorem State.markDispatched_scratch (w : BitVec 64) : (s.markDispatched w).scratch = s.scratch := rfl
@[simp] theorem State.markDispatched_kernels (w : BitVec 64) : (s.markDispatched w).kernels = s.kernels := rfl
@[simp] theorem State.markDispatched_tasks (w : BitVec 64) : (s.markDispatched w).tasks = s.tasks := rfl
@[simp] theorem State.markDispatched_mem (w : BitVec 64) : (s.markDispatched w).mem = s.mem := rfl
@[simp] theorem State.markDispatched_poison (w : BitVec 64) : (s.markDispatched w).poison = s.poison := rfl
@[simp] theorem State.markDispatched_basin (w : BitVec 64) : (s.markDispatched w).basin = s.basin := rfl
@[simp] theorem State.markDispatched_streams (w : BitVec 64) : (s.markDispatched w).streams = s.streams := rfl
@[simp] theorem State.markDispatched_barriers (w : BitVec 64) : (s.markDispatched w).barriers = s.barriers := rfl
@[simp] theorem State.markDispatched_allocs (w : BitVec 64) : (s.markDispatched w).allocs = s.allocs := rfl
@[simp] theorem State.markDispatched_hbm (w : BitVec 64) : (s.markDispatched w).hbm = s.hbm := rfl
@[simp] theorem State.markDispatched_nvw (w : BitVec 64) : (s.markDispatched w).nvw = s.nvw := rfl
@[simp] theorem State.markDispatched_nvwProgs (w : BitVec 64) : (s.markDispatched w).nvwProgs = s.nvwProgs := rfl
@[simp] theorem State.markDispatched_cxl (w : BitVec 64) : (s.markDispatched w).cxl = s.cxl := rfl
@[simp] theorem State.markDispatched_gen (w : BitVec 64) : (s.markDispatched w).gen = s.gen := rfl
@[simp] theorem State.markDispatched_learn (w : BitVec 64) : (s.markDispatched w).learn = s.learn := rfl
@[simp] theorem State.markDispatched_rein (w : BitVec 64) : (s.markDispatched w).rein = s.rein := rfl
@[simp] theorem State.markDispatched_trace (w : BitVec 64) : (s.markDispatched w).trace = s.trace := rfl
@[simp] theorem State.markDispatched_moors (w : BitVec 64) : (s.markDispatched w).moors = s.moors := rfl
@[simp] theorem State.markDispatched_quays (w : BitVec 64) : (s.markDispatched w).quays = s.quays := rfl
@[simp] theorem State.markDispatched_power (w : BitVec 64) : (s.markDispatched w).power = s.power := rfl
@[simp] theorem State.markDispatched_farrier (w : BitVec 64) : (s.markDispatched w).farrier = s.farrier := rfl
@[simp] theorem State.markDispatched_tap (w : BitVec 64) : (s.markDispatched w).tap = s.tap := rfl
@[simp] theorem State.markDispatched_out (w : BitVec 64) : (s.markDispatched w).out = s.out := rfl

/-! `State.wait` -/

@[simp] theorem State.wait_pending (w : BitVec 64) (k : WaitKind) : (s.wait w k).pending = s.pending := rfl
@[simp] theorem State.wait_now (w : BitVec 64) (k : WaitKind) : (s.wait w k).now = s.now := rfl
@[simp] theorem State.wait_free (w : BitVec 64) (k : WaitKind) : (s.wait w k).free = s.free := rfl
@[simp] theorem State.wait_pins (w : BitVec 64) (k : WaitKind) : (s.wait w k).pins = s.pins := rfl
@[simp] theorem State.wait_part (w : BitVec 64) (k : WaitKind) : (s.wait w k).part = s.part := rfl
@[simp] theorem State.wait_fns (w : BitVec 64) (k : WaitKind) : (s.wait w k).fns = s.fns := rfl
@[simp] theorem State.wait_rings (w : BitVec 64) (k : WaitKind) : (s.wait w k).rings = s.rings := rfl
@[simp] theorem State.wait_ser (w : BitVec 64) (k : WaitKind) : (s.wait w k).ser = s.ser := rfl
@[simp] theorem State.wait_journal (w : BitVec 64) (k : WaitKind) : (s.wait w k).journal = s.journal := rfl
@[simp] theorem State.wait_accepts (w : BitVec 64) (k : WaitKind) : (s.wait w k).accepts = s.accepts := rfl
@[simp] theorem State.wait_log (w : BitVec 64) (k : WaitKind) : (s.wait w k).log = s.log := rfl
@[simp] theorem State.wait_kryto (w : BitVec 64) (k : WaitKind) : (s.wait w k).kryto = s.kryto := rfl
@[simp] theorem State.wait_paddocks (w : BitVec 64) (k : WaitKind) : (s.wait w k).paddocks = s.paddocks := rfl
@[simp] theorem State.wait_teams (w : BitVec 64) (k : WaitKind) : (s.wait w k).teams = s.teams := rfl
@[simp] theorem State.wait_phys (w : BitVec 64) (k : WaitKind) : (s.wait w k).phys = s.phys := rfl
@[simp] theorem State.wait_cores (w : BitVec 64) (k : WaitKind) : (s.wait w k).cores = s.cores := rfl
@[simp] theorem State.wait_ctxs (w : BitVec 64) (k : WaitKind) : (s.wait w k).ctxs = s.ctxs := rfl
@[simp] theorem State.wait_scratch (w : BitVec 64) (k : WaitKind) : (s.wait w k).scratch = s.scratch := rfl
@[simp] theorem State.wait_kernels (w : BitVec 64) (k : WaitKind) : (s.wait w k).kernels = s.kernels := rfl
@[simp] theorem State.wait_tasks (w : BitVec 64) (k : WaitKind) : (s.wait w k).tasks = s.tasks := rfl
@[simp] theorem State.wait_mem (w : BitVec 64) (k : WaitKind) : (s.wait w k).mem = s.mem := rfl
@[simp] theorem State.wait_poison (w : BitVec 64) (k : WaitKind) : (s.wait w k).poison = s.poison := rfl
@[simp] theorem State.wait_basin (w : BitVec 64) (k : WaitKind) : (s.wait w k).basin = s.basin := rfl
@[simp] theorem State.wait_streams (w : BitVec 64) (k : WaitKind) : (s.wait w k).streams = s.streams := rfl
@[simp] theorem State.wait_barriers (w : BitVec 64) (k : WaitKind) : (s.wait w k).barriers = s.barriers := rfl
@[simp] theorem State.wait_allocs (w : BitVec 64) (k : WaitKind) : (s.wait w k).allocs = s.allocs := rfl
@[simp] theorem State.wait_hbm (w : BitVec 64) (k : WaitKind) : (s.wait w k).hbm = s.hbm := rfl
@[simp] theorem State.wait_nvw (w : BitVec 64) (k : WaitKind) : (s.wait w k).nvw = s.nvw := rfl
@[simp] theorem State.wait_nvwProgs (w : BitVec 64) (k : WaitKind) : (s.wait w k).nvwProgs = s.nvwProgs := rfl
@[simp] theorem State.wait_cxl (w : BitVec 64) (k : WaitKind) : (s.wait w k).cxl = s.cxl := rfl
@[simp] theorem State.wait_gen (w : BitVec 64) (k : WaitKind) : (s.wait w k).gen = s.gen := rfl
@[simp] theorem State.wait_learn (w : BitVec 64) (k : WaitKind) : (s.wait w k).learn = s.learn := rfl
@[simp] theorem State.wait_rein (w : BitVec 64) (k : WaitKind) : (s.wait w k).rein = s.rein := rfl
@[simp] theorem State.wait_trace (w : BitVec 64) (k : WaitKind) : (s.wait w k).trace = s.trace := rfl
@[simp] theorem State.wait_moors (w : BitVec 64) (k : WaitKind) : (s.wait w k).moors = s.moors := rfl
@[simp] theorem State.wait_quays (w : BitVec 64) (k : WaitKind) : (s.wait w k).quays = s.quays := rfl
@[simp] theorem State.wait_power (w : BitVec 64) (k : WaitKind) : (s.wait w k).power = s.power := rfl
@[simp] theorem State.wait_farrier (w : BitVec 64) (k : WaitKind) : (s.wait w k).farrier = s.farrier := rfl
@[simp] theorem State.wait_tap (w : BitVec 64) (k : WaitKind) : (s.wait w k).tap = s.tap := rfl
@[simp] theorem State.wait_out (w : BitVec 64) (k : WaitKind) : (s.wait w k).out = s.out := rfl

/-! `State.readOutWord` -/

@[simp] theorem State.readOutWord_pending (v : BitVec 32) : (s.readOutWord v).pending = s.pending := rfl
@[simp] theorem State.readOutWord_now (v : BitVec 32) : (s.readOutWord v).now = s.now := rfl
@[simp] theorem State.readOutWord_free (v : BitVec 32) : (s.readOutWord v).free = s.free := rfl
@[simp] theorem State.readOutWord_pins (v : BitVec 32) : (s.readOutWord v).pins = s.pins := rfl
@[simp] theorem State.readOutWord_part (v : BitVec 32) : (s.readOutWord v).part = s.part := rfl
@[simp] theorem State.readOutWord_fns (v : BitVec 32) : (s.readOutWord v).fns = s.fns := rfl
@[simp] theorem State.readOutWord_rings (v : BitVec 32) : (s.readOutWord v).rings = s.rings := rfl
@[simp] theorem State.readOutWord_ser (v : BitVec 32) : (s.readOutWord v).ser = s.ser := rfl
@[simp] theorem State.readOutWord_journal (v : BitVec 32) : (s.readOutWord v).journal = s.journal := rfl
@[simp] theorem State.readOutWord_accepts (v : BitVec 32) : (s.readOutWord v).accepts = s.accepts := rfl
@[simp] theorem State.readOutWord_waits (v : BitVec 32) : (s.readOutWord v).waits = s.waits := rfl
@[simp] theorem State.readOutWord_log (v : BitVec 32) : (s.readOutWord v).log = s.log := rfl
@[simp] theorem State.readOutWord_kryto (v : BitVec 32) : (s.readOutWord v).kryto = s.kryto := rfl
@[simp] theorem State.readOutWord_paddocks (v : BitVec 32) : (s.readOutWord v).paddocks = s.paddocks := rfl
@[simp] theorem State.readOutWord_teams (v : BitVec 32) : (s.readOutWord v).teams = s.teams := rfl
@[simp] theorem State.readOutWord_phys (v : BitVec 32) : (s.readOutWord v).phys = s.phys := rfl
@[simp] theorem State.readOutWord_cores (v : BitVec 32) : (s.readOutWord v).cores = s.cores := rfl
@[simp] theorem State.readOutWord_ctxs (v : BitVec 32) : (s.readOutWord v).ctxs = s.ctxs := rfl
@[simp] theorem State.readOutWord_scratch (v : BitVec 32) : (s.readOutWord v).scratch = s.scratch := rfl
@[simp] theorem State.readOutWord_kernels (v : BitVec 32) : (s.readOutWord v).kernels = s.kernels := rfl
@[simp] theorem State.readOutWord_tasks (v : BitVec 32) : (s.readOutWord v).tasks = s.tasks := rfl
@[simp] theorem State.readOutWord_mem (v : BitVec 32) : (s.readOutWord v).mem = s.mem := rfl
@[simp] theorem State.readOutWord_poison (v : BitVec 32) : (s.readOutWord v).poison = s.poison := rfl
@[simp] theorem State.readOutWord_basin (v : BitVec 32) : (s.readOutWord v).basin = s.basin := rfl
@[simp] theorem State.readOutWord_streams (v : BitVec 32) : (s.readOutWord v).streams = s.streams := rfl
@[simp] theorem State.readOutWord_barriers (v : BitVec 32) : (s.readOutWord v).barriers = s.barriers := rfl
@[simp] theorem State.readOutWord_allocs (v : BitVec 32) : (s.readOutWord v).allocs = s.allocs := rfl
@[simp] theorem State.readOutWord_hbm (v : BitVec 32) : (s.readOutWord v).hbm = s.hbm := rfl
@[simp] theorem State.readOutWord_nvw (v : BitVec 32) : (s.readOutWord v).nvw = s.nvw := rfl
@[simp] theorem State.readOutWord_nvwProgs (v : BitVec 32) : (s.readOutWord v).nvwProgs = s.nvwProgs := rfl
@[simp] theorem State.readOutWord_cxl (v : BitVec 32) : (s.readOutWord v).cxl = s.cxl := rfl
@[simp] theorem State.readOutWord_gen (v : BitVec 32) : (s.readOutWord v).gen = s.gen := rfl
@[simp] theorem State.readOutWord_learn (v : BitVec 32) : (s.readOutWord v).learn = s.learn := rfl
@[simp] theorem State.readOutWord_rein (v : BitVec 32) : (s.readOutWord v).rein = s.rein := rfl
@[simp] theorem State.readOutWord_trace (v : BitVec 32) : (s.readOutWord v).trace = s.trace := rfl
@[simp] theorem State.readOutWord_moors (v : BitVec 32) : (s.readOutWord v).moors = s.moors := rfl
@[simp] theorem State.readOutWord_quays (v : BitVec 32) : (s.readOutWord v).quays = s.quays := rfl
@[simp] theorem State.readOutWord_power (v : BitVec 32) : (s.readOutWord v).power = s.power := rfl
@[simp] theorem State.readOutWord_farrier (v : BitVec 32) : (s.readOutWord v).farrier = s.farrier := rfl
@[simp] theorem State.readOutWord_tap (v : BitVec 32) : (s.readOutWord v).tap = s.tap := rfl

/-! `State.modTask` -/

@[simp] theorem State.modTask_pending (w : BitVec 64) (f : Task → Task) : (s.modTask w f).pending = s.pending := rfl
@[simp] theorem State.modTask_now (w : BitVec 64) (f : Task → Task) : (s.modTask w f).now = s.now := rfl
@[simp] theorem State.modTask_free (w : BitVec 64) (f : Task → Task) : (s.modTask w f).free = s.free := rfl
@[simp] theorem State.modTask_pins (w : BitVec 64) (f : Task → Task) : (s.modTask w f).pins = s.pins := rfl
@[simp] theorem State.modTask_part (w : BitVec 64) (f : Task → Task) : (s.modTask w f).part = s.part := rfl
@[simp] theorem State.modTask_fns (w : BitVec 64) (f : Task → Task) : (s.modTask w f).fns = s.fns := rfl
@[simp] theorem State.modTask_rings (w : BitVec 64) (f : Task → Task) : (s.modTask w f).rings = s.rings := rfl
@[simp] theorem State.modTask_ser (w : BitVec 64) (f : Task → Task) : (s.modTask w f).ser = s.ser := rfl
@[simp] theorem State.modTask_journal (w : BitVec 64) (f : Task → Task) : (s.modTask w f).journal = s.journal := rfl
@[simp] theorem State.modTask_accepts (w : BitVec 64) (f : Task → Task) : (s.modTask w f).accepts = s.accepts := rfl
@[simp] theorem State.modTask_waits (w : BitVec 64) (f : Task → Task) : (s.modTask w f).waits = s.waits := rfl
@[simp] theorem State.modTask_log (w : BitVec 64) (f : Task → Task) : (s.modTask w f).log = s.log := rfl
@[simp] theorem State.modTask_kryto (w : BitVec 64) (f : Task → Task) : (s.modTask w f).kryto = s.kryto := rfl
@[simp] theorem State.modTask_paddocks (w : BitVec 64) (f : Task → Task) : (s.modTask w f).paddocks = s.paddocks := rfl
@[simp] theorem State.modTask_teams (w : BitVec 64) (f : Task → Task) : (s.modTask w f).teams = s.teams := rfl
@[simp] theorem State.modTask_phys (w : BitVec 64) (f : Task → Task) : (s.modTask w f).phys = s.phys := rfl
@[simp] theorem State.modTask_cores (w : BitVec 64) (f : Task → Task) : (s.modTask w f).cores = s.cores := rfl
@[simp] theorem State.modTask_ctxs (w : BitVec 64) (f : Task → Task) : (s.modTask w f).ctxs = s.ctxs := rfl
@[simp] theorem State.modTask_scratch (w : BitVec 64) (f : Task → Task) : (s.modTask w f).scratch = s.scratch := rfl
@[simp] theorem State.modTask_kernels (w : BitVec 64) (f : Task → Task) : (s.modTask w f).kernels = s.kernels := rfl
@[simp] theorem State.modTask_mem (w : BitVec 64) (f : Task → Task) : (s.modTask w f).mem = s.mem := rfl
@[simp] theorem State.modTask_poison (w : BitVec 64) (f : Task → Task) : (s.modTask w f).poison = s.poison := rfl
@[simp] theorem State.modTask_basin (w : BitVec 64) (f : Task → Task) : (s.modTask w f).basin = s.basin := rfl
@[simp] theorem State.modTask_streams (w : BitVec 64) (f : Task → Task) : (s.modTask w f).streams = s.streams := rfl
@[simp] theorem State.modTask_barriers (w : BitVec 64) (f : Task → Task) : (s.modTask w f).barriers = s.barriers := rfl
@[simp] theorem State.modTask_allocs (w : BitVec 64) (f : Task → Task) : (s.modTask w f).allocs = s.allocs := rfl
@[simp] theorem State.modTask_hbm (w : BitVec 64) (f : Task → Task) : (s.modTask w f).hbm = s.hbm := rfl
@[simp] theorem State.modTask_nvw (w : BitVec 64) (f : Task → Task) : (s.modTask w f).nvw = s.nvw := rfl
@[simp] theorem State.modTask_nvwProgs (w : BitVec 64) (f : Task → Task) : (s.modTask w f).nvwProgs = s.nvwProgs := rfl
@[simp] theorem State.modTask_cxl (w : BitVec 64) (f : Task → Task) : (s.modTask w f).cxl = s.cxl := rfl
@[simp] theorem State.modTask_gen (w : BitVec 64) (f : Task → Task) : (s.modTask w f).gen = s.gen := rfl
@[simp] theorem State.modTask_learn (w : BitVec 64) (f : Task → Task) : (s.modTask w f).learn = s.learn := rfl
@[simp] theorem State.modTask_rein (w : BitVec 64) (f : Task → Task) : (s.modTask w f).rein = s.rein := rfl
@[simp] theorem State.modTask_trace (w : BitVec 64) (f : Task → Task) : (s.modTask w f).trace = s.trace := rfl
@[simp] theorem State.modTask_moors (w : BitVec 64) (f : Task → Task) : (s.modTask w f).moors = s.moors := rfl
@[simp] theorem State.modTask_quays (w : BitVec 64) (f : Task → Task) : (s.modTask w f).quays = s.quays := rfl
@[simp] theorem State.modTask_power (w : BitVec 64) (f : Task → Task) : (s.modTask w f).power = s.power := rfl
@[simp] theorem State.modTask_farrier (w : BitVec 64) (f : Task → Task) : (s.modTask w f).farrier = s.farrier := rfl
@[simp] theorem State.modTask_tap (w : BitVec 64) (f : Task → Task) : (s.modTask w f).tap = s.tap := rfl
@[simp] theorem State.modTask_out (w : BitVec 64) (f : Task → Task) : (s.modTask w f).out = s.out := rfl

/-! One field of the state replaced -/

@[simp] theorem State.put_pending (v : List Instr) : ({ s with pending := v } : State).pending = v := rfl
@[simp] theorem State.put_now (v : BitVec 64) : ({ s with now := v } : State).now = v := rfl
@[simp] theorem State.put_free (v : Nat) : ({ s with free := v } : State).free = v := rfl
@[simp] theorem State.put_pins (v : Pins) : ({ s with pins := v } : State).pins = v := rfl
@[simp] theorem State.put_part (v : PartCtl) : ({ s with part := v } : State).part = v := rfl
@[simp] theorem State.put_fns (v : Tbl Fn) : ({ s with fns := v } : State).fns = v := rfl
@[simp] theorem State.put_rings (v : Tbl Ring) : ({ s with rings := v } : State).rings = v := rfl
@[simp] theorem State.put_ser (v : Nat) : ({ s with ser := v } : State).ser = v := rfl
@[simp] theorem State.put_journal (v : List JRec) : ({ s with journal := v } : State).journal = v := rfl
@[simp] theorem State.put_accepts (v : Nat) : ({ s with accepts := v } : State).accepts = v := rfl
@[simp] theorem State.put_waits (v : List Wait) : ({ s with waits := v } : State).waits = v := rfl
@[simp] theorem State.put_log (v : EventLog) : ({ s with log := v } : State).log = v := rfl
@[simp] theorem State.put_kryto (v : Kryto) : ({ s with kryto := v } : State).kryto = v := rfl
@[simp] theorem State.put_paddocks (v : Tbl Paddock) : ({ s with paddocks := v } : State).paddocks = v := rfl
@[simp] theorem State.put_teams (v : Tbl Team) : ({ s with teams := v } : State).teams = v := rfl
@[simp] theorem State.put_phys (v : Tbl PhysTeam) : ({ s with phys := v } : State).phys = v := rfl
@[simp] theorem State.put_cores (v : Tbl Core) : ({ s with cores := v } : State).cores = v := rfl
@[simp] theorem State.put_ctxs (v : Tbl Ctx) : ({ s with ctxs := v } : State).ctxs = v := rfl
@[simp] theorem State.put_scratch (v : List Host.Cell) : ({ s with scratch := v } : State).scratch = v := rfl
@[simp] theorem State.put_kernels (v : Tbl Kernel) : ({ s with kernels := v } : State).kernels = v := rfl
@[simp] theorem State.put_tasks (v : List (BitVec 64 × Task)) : ({ s with tasks := v } : State).tasks = v := rfl
@[simp] theorem State.put_mem (v : List Host.Cell) : ({ s with mem := v } : State).mem = v := rfl
@[simp] theorem State.put_poison (v : List Nat) : ({ s with poison := v } : State).poison = v := rfl
@[simp] theorem State.put_basin (v : BasinCtl) : ({ s with basin := v } : State).basin = v := rfl
@[simp] theorem State.put_streams (v : Tbl Stream) : ({ s with streams := v } : State).streams = v := rfl
@[simp] theorem State.put_barriers (v : Tbl Barrier) : ({ s with barriers := v } : State).barriers = v := rfl
@[simp] theorem State.put_allocs (v : Tbl Alloc) : ({ s with allocs := v } : State).allocs = v := rfl
@[simp] theorem State.put_hbm (v : Hbm) : ({ s with hbm := v } : State).hbm = v := rfl
@[simp] theorem State.put_nvw (v : Tbl NvwStack) : ({ s with nvw := v } : State).nvw = v := rfl
@[simp] theorem State.put_nvwProgs (v : List NvwProg) : ({ s with nvwProgs := v } : State).nvwProgs = v := rfl
@[simp] theorem State.put_cxl (v : Cxl) : ({ s with cxl := v } : State).cxl = v := rfl
@[simp] theorem State.put_gen (v : Gen) : ({ s with gen := v } : State).gen = v := rfl
@[simp] theorem State.put_learn (v : Learn) : ({ s with learn := v } : State).learn = v := rfl
@[simp] theorem State.put_rein (v : Rein) : ({ s with rein := v } : State).rein = v := rfl
@[simp] theorem State.put_trace (v : Trace) : ({ s with trace := v } : State).trace = v := rfl
@[simp] theorem State.put_moors (v : Tbl Moor) : ({ s with moors := v } : State).moors = v := rfl
@[simp] theorem State.put_quays (v : Tbl Quay) : ({ s with quays := v } : State).quays = v := rfl
@[simp] theorem State.put_power (v : Power) : ({ s with power := v } : State).power = v := rfl
@[simp] theorem State.put_farrier (v : Farrier) : ({ s with farrier := v } : State).farrier = v := rfl
@[simp] theorem State.put_tap (v : Tap) : ({ s with tap := v } : State).tap = v := rfl
@[simp] theorem State.put_out (v : Out) : ({ s with out := v } : State).out = v := rfl

end Sys2Proof.Machine
end

