-- ==== Sys2Proof/WellFormed.lean ====
section
/-! DEFINITION. Well-formed commands: the operands of an event lie in the ranges of the spec. A slot command's row
carries its WORK_ID; what its payload holds is checked where the command is accepted and dispatched. -/

namespace Sys2Proof

/-- A team, a core of it (R16, R18). -/
def siteOk (k : Site) : Bool := k.team < 320 && k.core < 16

/-- A fetched slot has 128 bytes (R46). -/
def slotOk : Option (List Byte) → Bool
  | some b => b.length = 128
  | none => true

/-- A tile of a host read has 16,384 bytes (R181). -/
def tileOk : Option (List Byte) → Bool
  | some b => b.length = 16384
  | none => true

/-- Whether a command is well-formed. -/
def Instr.wf : Instr → Bool
  | .registerWrite fn _ _ => fn < 9
  | .intStatusWrite fn _ => fn < 9
  | .violationsRead fn => fn < 9
  | .register64LowWordRead fn _ => fn < 9
  | .bar0AccessBeforeLive fn _ _ _ => fn < 9
  | .enableWrite ring _ => ring < 288
  | .sqTail ring _ => ring < 288
  | .cqHead ring _ => ring < 288
  | .slotFetch => true
  | .slotArrival ring slot _ => ring < 288 && slotOk slot
  | .functionLevelReset fn => fn < 9
  | .pfFunctionLevelReset => true
  | .sessionLockoutEnd fn => fn < 9
  | .controlReady => true
  | .partReady => true
  | .partIdentify _ => true
  | .partIdentifyExpert _ => true
  | .sessionChallenge _ => true
  | .sessionChallengeExpert _ => true
  | .sessionOpen _ => true
  | .sessionOpenExpert _ => true
  | .sessionClose _ => true
  | .sessionCloseExpert _ => true
  | .cmdCancel _ => true
  | .cmdCancelExpert _ => true
  | .workQuery _ => true
  | .workQueryExpert _ => true
  | .nop _ => true
  | .nopExpert _ => true
  | .paddockCreate _ => true
  | .paddockCreateExpert _ => true
  | .paddockModify _ => true
  | .paddockModifyExpert _ => true
  | .paddockDestroy _ => true
  | .paddockDestroyExpert _ => true
  | .paddockQuery _ => true
  | .paddockQueryExpert _ => true
  | .paddockKeySet _ => true
  | .paddockKeySetExpert _ => true
  | .arrayStep k _ => siteOk k
  | .qmx k _ _ _ _ _ _ _ => siteOk k
  | .vectorArithmetic k _ _ _ _ _ _ _ => siteOk k
  | .vectorReduction k _ _ _ _ _ _ _ => siteOk k
  | .exsum k _ _ _ _ => siteOk k
  | .exsumsq k _ _ _ _ => siteOk k
  | .exdot k _ _ _ _ _ => siteOk k
  | .exp k _ _ _ => siteOk k
  | .expm1 k _ _ _ => siteOk k
  | .log k _ _ _ => siteOk k
  | .tanh k _ _ _ => siteOk k
  | .sigmoid k _ _ _ => siteOk k
  | .silu k _ _ _ => siteOk k
  | .lfrand k _ => siteOk k
  | .lfseed k _ => siteOk k
  | .cbrand k _ _ _ => siteOk k
  | .cbunif k _ _ _ => siteOk k
  | .cbnorm k _ _ _ => siteOk k
  | .tbnorm k _ _ _ => siteOk k
  | .ppot k _ _ _ _ _ _ _ => siteOk k
  | .tisw k _ _ _ _ => siteOk k
  | .klt k _ _ _ _ _ => siteOk k
  | .lpcmp k _ _ _ _ _ _ _ => siteOk k
  | .basinLoad k _ _ _ _ _ => siteOk k
  | .basinStore k _ _ _ _ => siteOk k
  | .trap k _ => siteOk k
  | .srd k _ _ _ _ _ => siteOk k
  | .srel k _ _ _ => siteOk k
  | .swr k _ _ _ => siteOk k
  | .sclose k _ _ => siteOk k
  | .sabort k _ _ => siteOk k
  | .barv k _ _ => siteOk k
  | .bwait k _ _ => siteOk k
  | .teamAtPreemptionPoint team _ => team < 320
  | .forcedStop team => team < 320
  | .saveComplete _ => true
  | .restoreComplete _ => true
  | .taskPlacement _ => true
  | .placementWaitLimit pad => pad < 8
  | .taskEnd _ rank => rank < 320
  | .teamException k _ _ _ _ => siteOk k
  | .timeLimit _ rank core => rank < 320 && core < 16
  | .arrayAck k _ => siteOk k
  | .kernelLoad _ _ => true
  | .kernelLoadExpert _ _ => true
  | .kernelUnload _ => true
  | .kernelUnloadExpert _ => true
  | .taskLaunch _ _ => true
  | .taskLaunchExpert _ _ => true
  | .taskAbort _ => true
  | .taskAbortExpert _ => true
  | .taskPreempt _ => true
  | .taskPreemptExpert _ => true
  | .taskResume _ => true
  | .taskResumeExpert _ => true
  | .taskQuery _ => true
  | .taskQueryExpert _ => true
  | .teamQuery _ => true
  | .teamQueryExpert _ => true
  | .rngFill _ => true
  | .rngFillExpert _ _ => true
  | .rngCheck _ _ => true
  | .rngCheckExpert _ _ => true
  | .rngLaneState _ => true
  | .rngLaneStateExpert _ _ => true
  | .tileCommit _ _ => true
  | .burstDelivery _ _ => true
  | .poisonTileCommit _ => true
  | .bindTransferEnd _ => true
  | .basinScrub q _ => q < 4
  | .transactionTagGrant _ _ _ => true
  | .tierReadResponse tag _ => tag < 262144
  | .tierWriteAck tag => tag < 262144
  | .tierRequestTimeout tag => tag < 262144
  | .engineFaultReset _ => true
  | .uncommittedTileDiscard => true
  | .streamOpen _ => true
  | .streamOpenExpert _ => true
  | .streamBind _ => true
  | .streamBindExpert _ => true
  | .streamClose _ => true
  | .streamCloseExpert _ => true
  | .streamAbort _ => true
  | .streamAbortExpert _ => true
  | .streamQuery _ => true
  | .streamQueryExpert _ => true
  | .streamFree _ => true
  | .streamFreeExpert _ => true
  | .streamRearm _ => true
  | .streamRearmExpert _ => true
  | .barrierCreate _ => true
  | .barrierCreateExpert _ => true
  | .barrierArrive _ => true
  | .barrierArriveExpert _ => true
  | .barrierDestroy _ => true
  | .barrierDestroyExpert _ => true
  | .basinQuery _ => true
  | .basinQueryExpert _ => true
  | .memAlloc _ => true
  | .memAllocExpert _ => true
  | .memFree _ => true
  | .memFreeExpert _ => true
  | .memQuery _ => true
  | .memQueryExpert _ => true
  | .memFill _ => true
  | .memFillExpert _ => true
  | .memMapout _ => true
  | .memMapoutExpert _ => true
  | .nvwProgram _ => true
  | .nvwProgramExpert _ => true
  | .nvwSeal _ => true
  | .nvwSealExpert _ _ => true
  | .nvwErase _ => true
  | .nvwEraseExpert _ => true
  | .nvwGrant _ => true
  | .nvwGrantExpert _ => true
  | .nvwQuery _ => true
  | .nvwQueryExpert _ => true
  | .parkQuery _ => true
  | .parkQueryExpert _ _ => true
  | .parkControl _ _ => true
  | .parkControlExpert _ _ => true
  | .memTelemetry _ => true
  | .memTelemetryExpert _ => true
  | .hbmRefresh c => c < 384
  | .calibrationDue c _ _ => c < 384
  | .forcedCalibration c _ => c < 384
  | .patrolScrub c _ _ => c < 384
  | .scrubAge c => c < 384
  | .correctedWriteback c => c < 384
  | .channelMapoutDecision c => c < 384
  | .mapoutFrameSwitch c _ _ => c < 384
  | .mapoutRetry c => c < 384
  | .nvwTileProgrammed _ _ => true
  | .nvwPatrol stack _ _ => stack < 4
  | .nvwRelocationSwitch stack _ => stack < 4
  | .cxlDrs dev tag _ _ => dev < 4 && tag < 262144
  | .cxlNdr dev tag _ => dev < 4 && tag < 262144
  | .cxlRequestTimeout tag => tag < 262144
  | .cxlLinkDown dev => dev < 4
  | .genModelRegister _ _ => true
  | .genModelRegisterExpert _ _ => true
  | .genModelRelease _ => true
  | .genModelReleaseExpert _ => true
  | .genAdapterLoad _ => true
  | .genAdapterLoadExpert _ => true
  | .genAdapterUnload _ => true
  | .genAdapterUnloadExpert _ => true
  | .genRingCreate _ => true
  | .genRingCreateExpert _ => true
  | .genRingAdvance _ => true
  | .genRingAdvanceExpert _ => true
  | .genLoopStart _ => true
  | .genLoopStartExpert _ => true
  | .genLoopStop _ => true
  | .genLoopStopExpert _ => true
  | .genAdmit _ _ => true
  | .genAdmitExpert _ _ => true
  | .genCancel _ => true
  | .genCancelExpert _ => true
  | .genPark _ => true
  | .genParkExpert _ => true
  | .genResume _ _ => true
  | .genResumeExpert _ _ => true
  | .genQuery _ => true
  | .genQueryExpert _ => true
  | .genRelease _ => true
  | .genReleaseExpert _ => true
  | .genLoopQuery _ => true
  | .genLoopQueryExpert _ => true
  | .stepBoundary model _ => model < 16
  | .autoPark model => model < 16
  | .autoResume entry => entry < 131072
  | .sequenceExpiry entry => entry < 131072
  | .evictionComplete entry _ => entry < 131072
  | .berthFetchComplete entry => entry < 131072
  | .listForwardArrival model _ => model < 16
  | .learnSetRegister _ _ => true
  | .learnSetRegisterExpert _ _ => true
  | .learnSetRelease _ => true
  | .learnSetReleaseExpert _ => true
  | .learnExchange _ => true
  | .learnExchangeExpert _ => true
  | .exchangeComplete _ => true
  | .learnNorm _ => true
  | .learnNormExpert _ => true
  | .normComplete _ => true
  | .learnSweep _ => true
  | .learnSweepExpert _ => true
  | .updateSpanDone _ _ _ => true
  | .sweepComplete _ => true
  | .unitFault u => u < 12
  | .unitSpanTimeout _ _ _ => true
  | .stashRestore _ => true
  | .learnMicroLoad _ _ => true
  | .learnMicroLoadExpert _ _ => true
  | .learnMicroUnload _ => true
  | .learnMicroUnloadExpert _ => true
  | .learnRouteCheck _ _ => true
  | .learnRouteCheckExpert _ _ => true
  | .learnQuery _ => true
  | .learnQueryExpert _ => true
  | .reinLayoutRegister _ _ => true
  | .reinLayoutRegisterExpert _ _ => true
  | .reinLayoutRelease _ => true
  | .reinLayoutReleaseExpert _ => true
  | .reinDrain _ => true
  | .reinDrainExpert _ => true
  | .reinPermute _ _ => true
  | .reinPermuteExpert _ _ => true
  | .permuteComplete _ => true
  | .reinRemount _ _ => true
  | .reinRemountExpert _ _ => true
  | .remountOldSlotRelease model => model < 16
  | .reinResume _ _ => true
  | .reinResumeExpert _ _ => true
  | .reinQuery _ => true
  | .reinQueryExpert _ => true
  | .traceGroupCreate _ _ => true
  | .traceGroupCreateExpert _ _ => true
  | .traceGroupDestroy _ => true
  | .traceGroupDestroyExpert _ => true
  | .traceColl _ => true
  | .traceCollExpert _ _ => true
  | .traceCollCancel _ => true
  | .traceCollCancelExpert _ => true
  | .traceWindowRegister _ => true
  | .traceWindowRegisterExpert _ => true
  | .traceSend _ _ => true
  | .traceSendExpert _ _ => true
  | .traceRecv _ => true
  | .traceRecvExpert _ => true
  | .traceMsgCancel _ => true
  | .traceMsgCancelExpert _ => true
  | .tracePortQuery _ => true
  | .tracePortQueryExpert _ => true
  | .tracePortControl _ => true
  | .tracePortControlExpert _ => true
  | .traceTimeQuery _ => true
  | .traceTimeConfig _ => true
  | .traceGroupQuery _ => true
  | .traceGroupQueryExpert _ => true
  | .chunk p _ => p < 16
  | .grant p _ => p < 16
  | .done p _ => p < 16
  | .abort p _ => p < 16
  | .windowMessage p _ => p < 16
  | .dispatchKeys p _ => p < 16
  | .dispatchAccept p _ => p < 16
  | .forwarded p _ => p < 16
  | .grantIssue _ _ => true
  | .grantReissue _ _ rank => rank < 16384
  | .creditRecord p _ _ _ => p < 16
  | .creditRecordTimer p => p < 16
  | .ackseq p _ => p < 16
  | .ackTimer p => p < 16
  | .retry p _ => p < 16
  | .refuse p _ _ => p < 16
  | .refuseResend _ => true
  | .sync p _ _ => p < 16
  | .delayReq p _ => p < 16
  | .delayResp p _ => p < 16
  | .syncTimer p => p < 16
  | .timeParentLoss => true
  | .stewardSwapRequest p => p < 16
  | .stewardSwapGrant p => p < 16
  | .retrainRequest p _ => p < 16
  | .identityExchange p _ _ _ => p < 16
  | .trainingStart p => p < 16
  | .trainingTimeout p => p < 16
  | .linkAdmission p => p < 16
  | .lossOfLock p => p < 16
  | .laneErrorThreshold p _ => p < 16
  | .retrainComplete p _ => p < 16
  | .fullWidthAttempt p => p < 16
  | .routeLoss _ _ => true
  | .detourSelect p _ => p < 16
  | .collectiveTimeout _ _ => true
  | .sendTimeout _ => true
  | .resilMoorCreate _ _ _ => true
  | .resilMoorCreateExpert _ _ _ => true
  | .resilMoorRefresh _ => true
  | .resilMoorRefreshExpert _ => true
  | .resilMoorReplace _ _ => true
  | .resilMoorReplaceExpert _ _ => true
  | .resilMoorShrink _ _ _ => true
  | .resilMoorShrinkExpert _ _ _ => true
  | .resilMoorRepair _ _ => true
  | .resilMoorRepairExpert _ _ => true
  | .resilMoorQuery _ => true
  | .resilMoorQueryExpert _ => true
  | .resilMoorDestroy _ => true
  | .resilMoorDestroyExpert _ => true
  | .resilWait _ => true
  | .resilWaitExpert _ => true
  | .resilJournalQuery _ => true
  | .resilJournalQueryExpert _ => true
  | .resilTeamRetire _ => true
  | .resilTeamRetireExpert _ => true
  | .resilWarmReset _ => true
  | .resilWarmResetExpert _ => true
  | .stripeParityCompute _ _ _ => true
  | .stripeCommit _ _ _ _ => true
  | .autoReplaceStart _ => true
  | .rebuildComplete _ _ _ _ _ => true
  | .shrinkComplete _ => true
  | .poisonLineRepair _ _ => true
  | .teamSubstitution => true
  | .controlCoreFault => true
  | .heartbeatMissing _ => true
  | .warmReset => true
  | .journalSettlement => true
  | .quaySessionOpen _ => true
  | .quaySessionOpenExpert _ => true
  | .quaySessionClose _ => true
  | .quaySessionCloseExpert _ => true
  | .quayFrameCommit _ _ => true
  | .quayFrameCommitExpert _ _ => true
  | .quayRingAdvance _ => true
  | .quayRingAdvanceExpert _ => true
  | .quayQuery _ => true
  | .quayQueryExpert _ => true
  | .frameStart _ => true
  | .pictureCoded _ _ => true
  | .pwrCapSet _ => true
  | .pwrCapSetExpert _ => true
  | .pwrTeamVolt _ => true
  | .pwrTeamVoltExpert _ => true
  | .pwrRailSet _ => true
  | .pwrRailSetExpert _ => true
  | .pwrRateLimit _ => true
  | .pwrRateLimitExpert _ => true
  | .pwrTelemetry _ => true
  | .pwrTelemetryExpert _ => true
  | .pwrCeilingQuery _ => true
  | .pwrCeilingQueryExpert _ => true
  | .pwrThermalQuery _ => true
  | .pwrThermalQueryExpert _ => true
  | .capLoopPeriod => true
  | .excursionDurationLimit => true
  | .regulatorTargetReached _ _ => true
  | .teamCurrentSample _ => true
  | .railCurrentRead _ _ => true
  | .avsbusResponse _ _ _ => true
  | .avsbusNoResponse _ => true
  | .droopSlow team => team < 336
  | .holdEnter team => team < 336
  | .holdRelease team => team < 336
  | .supplyHold team => team < 336
  | .railFault _ _ => true
  | .railFaultTimeout _ => true
  | .railRestored _ => true
  | .thermalSensorSample _ _ _ => true
  | .throttlePeriod team => team < 336
  | .thermalClamp => true
  | .thermalTrip => true
  | .replicaRead team _ => team < 336
  | .ageingCheck team => team < 336
  | .selfTestRun _ => true
  | .selfTestRunExpert _ => true
  | .selfTestStop _ => true
  | .selfTestStopExpert _ => true
  | .selfTestQuery _ => true
  | .selfTestQueryExpert _ => true
  | .selfChannelRestore _ => true
  | .selfChannelRestoreExpert _ => true
  | .selfMarginHbm _ => true
  | .selfMarginHbmExpert _ => true
  | .selfMarginLane _ => true
  | .selfMarginLaneExpert _ => true
  | .selfMarginTeam _ => true
  | .selfMarginTeamExpert _ => true
  | .selfPartIdSet _ => true
  | .selfPartIdSetExpert _ => true
  | .testIndexComplete _ _ _ _ _ _ _ => true
  | .fieldTestStart phys => phys < 336
  | .laneMarginingAtReceiver lane _ => lane < 16
  | .tapReset => true
  | .idcode => true
  | .samplePreload _ _ => true
  | .extest _ => true
  | .extestPulse _ => true
  | .extestTrain _ => true
  | .clamp => true
  | .highz => true
  | .bypass => true
  | .pwrOkAssert _ _ => true
  | .pwrOkDeassert => true
  | .coldReset => true
  | .sysRstNDeassert _ => true
  | .warmRstNAssert => true
  | .perstNAssert => true
  | .perstNDeassert => true
  | .cxlPerstNRelease => true
  | .referenceClockLoss _ => true
  | .referenceClockReturn _ => true
  | .boardRailFault _ => true
  | .mctpMessage _ _ _ _ _ => true
  | .spdmRequest _ _ _ _ => true
  | .eventAcknowledge _ _ entry => entry < 2 ^ 32
  | .eventLogRead _ entry _ => entry < 2 ^ 32
  | .smbusAlertResponse => true
  | .mctpQuarantineExpiry _ => true
  | .nopDelayExpiry _ => true
  | .remountWaitTimeout _ => true
  | .bar0WindowLive => true
  | .pcieLinkUp => true
  | .warmRstNDeassert => true
  | .zeroingComplete _ => true
  | .nvwEraseComplete _ _ => true
  | .nvwSealDigestComplete _ => true
  | .mapoutPoisonComplete c => c < 384
  | .spareMappingSwitch team _ => team < 320
  | .marginingComplete _ _ => true
  | .pcieReadCompletion _ _ data => tileOk data
  | .pcieCompletionTimeout _ _ => true

end Sys2Proof
end

