-- ==== Sys2Proof/Tests/Slice0.lean ====
section
/-! SUPPORT. Tests of the model: ill-formed commands that the check refuses, single steps with results worked out from
the spec by hand, and for the families of the statements small states and operands that meet the hypotheses. -/

namespace Sys2Proof.Tests

open Sys2Proof Sys2Proof.Machine

set_option Elab.async false

/-! ### Small states -/

/-- A message of a kind with nothing in it. -/
def tMsg (k : Nat) : Msg :=
  { dest := 0#16, src := 0#16, mtag := 0#16, kind := k, fwd := false, resend := false, round := 0, group := 0#32, seq := 0,
    off := 0, len := 0, chunk := 0, rank := 0, status := 0#16, shape := 0#64, members := none, window := false, data := [],
    poison := [], fseq := 0, crc := true, reserved := false }
/-- The part in READY with its window live. -/
def tReady : State :=
  { State.reset with part := { PartCtl.reset with pstate := .ready, bar0Live := true, partId := 5#16 } }
/-- The part in READY with one accepted record of an opcode, WORK_ID 1, on a ring. -/
def tCmd (op ring : Nat) (p : List Byte) (s : State := tReady) : State :=
  let j : JRec :=
    { wid := 1#64, seq := 0#32, opcode := BitVec.ofNat 16 op, ring := ring, ser := 0, state := .accepted, session := 0#32,
      fence := false, resv := false, payload := p, progress := 0#64, result := 0#64, detail := 0#32, status := 0#16,
      replayed := false, acceptTime := 0#64, slotRef := 0#64 }
  let i : RItem :=
    { ser := 0, arrived := true, wid := 1#64, seq := 0#32, opcode := BitVec.ofNat 16 op, sqHead := 1#8, accepted := true,
      settledOut := false, fin := false, status := 0#16, result := 0#64, detail := 0#32, hw := false, replayed := false }
  let g : Ring :=
    { Ring.reset with enable := true, sqBase := 4096#64, cqBase := 4096#64, sqTail := 1#8, sqHead := 1#8, credits := 1,
                      fifo := [i] }
  { s with journal := [j], ser := 1, rings := [(ring, g)] }
/-- Zero bytes. -/
def tZ (n : Nat) : List Byte := List.replicate n 0#8

/-- Whether a command, dispatched from its accepted record, completes with ST_OK. -/
def tDone (c : Instr) (op ring : Nat) (p : List Byte) (s : State := tReady) : Bool :=
  match exec c (tCmd op ring p s) with
  | .next t => t.out.cq.any fun e => e.wid = 1#64 && e.status = stOk
  | _ => false

/-- Whether a command answers a next state of which something holds. -/
def tGives (c : Instr) (s : State) (p : State → Bool) : Bool :=
  match exec c s with
  | .next t => p t
  | _ => false

/-! ### Ill-formed commands are refused -/

theorem test_wf_calibration_channel : Instr.wf (.calibrationDue 384 true true) = false := by decide
theorem test_wf_cxl_device : Instr.wf (.cxlLinkDown 4) = false := by decide
theorem test_wf_cxl_tag : Instr.wf (.cxlDrs 0 262144 false 0) = false := by decide
theorem test_wf_entry : Instr.wf (.autoResume 131072) = false := by decide
theorem test_wf_event_number : Instr.wf (.eventAcknowledge 0 0 (2 ^ 32)) = false := by decide
theorem test_wf_function : Instr.wf (.bar0AccessBeforeLive 9 0 false 0#32) = false := by decide
theorem test_wf_lane : Instr.wf (.laneMarginingAtReceiver 16 true) = false := by decide
theorem test_wf_model : Instr.wf (.autoPark 16) = false := by decide
theorem test_wf_port : Instr.wf (.abort 16 (tMsg 3)) = false := by decide
theorem test_wf_paddock : Instr.wf (.placementWaitLimit 8) = false := by decide
theorem test_wf_physical_team : Instr.wf (.fieldTestStart 336) = false := by decide
theorem test_wf_quarter : Instr.wf (.basinScrub 4 0) = false := by decide
theorem test_wf_group_rank : Instr.wf (.grantReissue 0 0 16384) = false := by decide
theorem test_wf_task_rank : Instr.wf (.taskEnd 1#64 320) = false := by decide
theorem test_wf_task_core : Instr.wf (.timeLimit 1#64 0 16) = false := by decide
theorem test_wf_ring : Instr.wf (.cqHead 288 0#32) = false := by decide
theorem test_wf_slot_length : Instr.wf (.slotArrival 0 (some [0#8]) none) = false := by decide
theorem test_wf_site_team : Instr.wf (.arrayAck ⟨320, 0, 0#32⟩ []) = false := by decide
theorem test_wf_site_core : Instr.wf (.exp ⟨0, 16, 0#32⟩ .f32 0 1) = false := by decide
theorem test_wf_stack : Instr.wf (.nvwPatrol 4 0 false) = false := by decide
theorem test_wf_tag : Instr.wf (.cxlRequestTimeout 262144) = false := by decide
theorem test_wf_logical_team : Instr.wf (.forcedStop 320) = false := by decide
theorem test_wf_aged_team : Instr.wf (.ageingCheck 336) = false := by decide
theorem test_wf_tile_length : Instr.wf (.pcieReadCompletion 1#64 0 (some [0#8])) = false := by decide
theorem test_wf_update_unit : Instr.wf (.unitFault 12) = false := by decide
theorem test_wf_accepts : Instr.wf (.slotArrival 287 (some (tZ 128)) none) = true := by decide +kernel

/-! ### Single steps -/

theorem test_step_runs_front :
    (match step { tReady with pending := [.highz, .bypass] } with
      | .next t => t.tap.hiz && decide (t.pending = [.bypass])
      | _ => false) = true := by decide
theorem test_idle_is_one_ns : (match step tReady with | .next t => t.now | _ => 0#64) = 1#64 := by decide
theorem test_reset_inv : State.reset.Inv := by
  refine ⟨by decide, by decide, by decide, ?_, by decide⟩
  intro e he; cases he

/-! ### More small states -/

/-- Payload bytes: 32-bit words. -/
def tW (ws : List Nat) : List Byte := ws.flatMap (leBytes 4)
/-- A paddock 0 with four teams and room in every quota. -/
def tPad : State :=
  { tReady with
    paddocks := [(0, { Paddock.reset with
      teams := [0, 1, 2, 3], hbmQuota := 2 ^ 40, basinQuota := 2 ^ 30, nvwQuota := 2 ^ 40, parkQuota := 2 ^ 40,
      manifestQuota := 16, traceShare := 50, quayShare := 50, models := 4, adapters := 4 })] }
/-- An allocation of paddock 0. -/
def tAlloc (tier : Tier) (len : Nat) : Alloc :=
  { owner := 0, tier := tier, near := false, die := 0, len := len, persist := false, moored := false, sys := false, dev := [],
    lost := [], pages := [], nvw := .erased, programmed := 0, torn := none, digest := [], grants := [], keyTag := [] }
/-- The paddock with a megabyte of the Basin at 0x10000 and one of HBM4. -/
def tMem : State :=
  { tPad with allocs := [(0x10000, tAlloc .basin 0x100000), (0xFA00000000000000, tAlloc .hbm 0x200000)] }
/-- An open stream of two tiles of ring and one consumer at 0x10000. -/
def tStream : Stream :=
  { paddock := 0, buf := 0x10000, depth := 2, nCons := 1, expected := 4, state := .opened, committed := 0, early := [],
    poisonLimit := 0, poisonTiles := 0, producer := none, consEnd := [], cons := [], waiting := [], endBarrier := 0, endDone := false,
    logEnd := false }
/-- A barrier that expects one arrival. -/
def tBarrier : Barrier :=
  { paddock := 0, expect := 1, phase := 0, count := 0, next := 0, drains := [], autoRearm := false, arrs := [], waitTasks := [],
    waitCmds := [] }
/-- A task of one team, RUNNING on team 0, with a stream 1 and a barrier 1. -/
def tRun : State :=
  let q : LaunchReq := { kernel := 1, teams := 1, args := 0, mask := [], ctx := 0xFF, cls := 0, grace := 2000, limit := 0,
                         saveTier := 0, excBuf := 0 }
  let t : Task := { newTask 0 q 0x10000 0x10000 .basin 0 0 with state := .running, teams := [0] }
  { tMem with
    tasks := [(9#64, t)], streams := [(1, tStream)], barriers := [(1, tBarrier)]
    teams := [(0, { Team.reset with
      active := some 0, ctxs := [(0, { wid := 9#64, offset := 0, window := 32, live := 0, product := false, accs := [], accPoison := [] })] })] }
/-- The site of core 0 of team 0. -/
def tSite : Site := ⟨0, 0, 4#32⟩
/-- A model of one layer, and its loop. -/
def tModel : Model :=
  { paddock := 0, weights := 0#64, weightsLen := 0, pool := 0#64, berthCount := 4, vocab := 16, layers := 1, moe := 0, kvHeads := 1,
    headDim := 64, kfmt := 0, vfmt := 0, topk := 0, invariant := false, experts := 0, version := 1#32, capacity := 4,
    parkArea := 0#64, parkSlots := 0, far := 1#16, near := 1#8, sink := 1#8, vscale := [], turn := none, drain := [],
    drainBy := none, remount := none, remountStep := 0, remountOld := none, remounts := 0, drainNs := 0, resumeNs := 0,
    drainFrom := 0 }
/-- The paddock with a model 0, a loop on it that waits for no list, and an empty parameter set 1. -/
def tGen : State :=
  let q : LoopReq := { mask := [], members := [], seqLimit := 4, budget := 64, chunk := 64, lists := 0 }
  let l : LSet :=
    { paddock := 0, groups := [], normGroup := 1#32, step := 7, state := .accumulating, buckets := [], rowAcc := [], colAcc := [],
      norm := 0#32, gmul := 0#32, nonfinite := false, seed := 0#64, lrMul := 0#32, inv := [], sweepBy := 0#64, spansDone := [],
      updated := 0, skipped := 0, skipList := [], restored := true, emitted := false, stash := [], bucketsDone := 0, naBlocks := 0 }
  { tRun with
    gen := { tRun.gen with
      models := [(0, { tModel with turn := some .generating })]
      loops := [(0, newLoop 9#64 0 1 true q 0x20000 false 1 1)] }
    learn := { tRun.learn with sets := [(1, l), (2, { l with state := .normed })] } }
/-- A layout with empty slots, a group 1 of parts 5 and 6, and a mooring group 1 without cells. -/
def tNet : State :=
  let o : Slot := { region := 0#64, state := .empty, version := 0#32 }
  let g : TGroup :=
    { paddock := some 0, members := [5#16, 6#16], rank := 0, staging := 0x20000, stagingLen := 0x10000, stagingOwn := false,
      ops := 4, merge := 1, timeout := 1000, chunk := 16384, issued := 0, completed := 0, aborted := [], greeted := [],
      dispatched := [] }
  { tMem with
    rein := { tMem.rein with layouts := [(1,
      { paddock := 0, kind := 0, format := 0, replicas := 1, parts := [5#16], tensors := [], pieces := [], digest := [], slot0 := o,
        slot1 := o, model := none, table := 0x30000, tableOwn := false, sent := 0, recvd := 0, durNs := 0 })] }
    trace := { tMem.trace with groups := [(1, g)] } }
/-- A port in TRAINING. -/
def tPort : State :=
  { tReady with trace := { tReady.trace with ports := [(0, { Port.reset with state := .training })] } }

/-! ### The hypotheses of the statements have instances

One command or event of a statement, completing with its effect on a small state. -/

theorem test_wit_registers : tGives (.registerWrite 0 0x1C 7#32) tReady (fun t => (t.fn 0).intMask = 7#32) = true := by
  decide +kernel
theorem test_wit_vector_frame :
    tGives (.exp tSite .f32 1 2) tRun (fun t => (t.ctx (ctxKey 0 0 0)).vregs != []) = true := by decide +kernel
theorem test_wit_store_frame :
    tGives (.basinStore tSite (.s 1) 2 0x10000 4) tRun (fun t => t.tasks.all fun e => e.2.state = .running) = true := by
  decide +kernel
theorem test_wit_store_outside_basin_fails_task :
    tGives (.basinStore tSite (.s 1) 2 0x10 4) tRun (fun t => t.tasks.all fun e => e.2.state = .failed) = true := by
  decide +kernel
theorem test_wit_function_reset :
    tGives (.functionLevelReset 1) tReady (fun t => t.log.entries.length = 1) = true := by decide +kernel
theorem test_wit_nop : tDone (.nop 1#64) 7 0 (tZ 96) = true := by decide +kernel
theorem test_wit_paddocks : tDone (.paddockQuery 1#64) 0x0013 0 (tW [0, 1]) tPad = true := by decide +kernel
theorem test_wit_vector_arithmetic :
    tGives (.vectorArithmetic tSite .add .f32 ⟨0, false, 0#64, 0#32, 0⟩ 1 2 3 0) tRun
      (fun t => (t.ctx (ctxKey 0 0 0)).pc = 4#32) = true := by decide +kernel
theorem test_wit_exact_sum :
    tGives (.exsum tSite .f32 [1] 32 ⟨true, [], [], none, some (⟨0, false, 0#64, 0#32, 0⟩, 3)⟩) tRun
      (fun t => (t.ctx (ctxKey 0 0 0)).pc = 4#32) = true := by decide +kernel
theorem test_wit_random_lanes :
    tGives (.lfrand tSite 1) tRun (fun t => (t.ctx (ctxKey 0 0 0)).vregs != []) = true := by decide +kernel
theorem test_wit_stream_release :
    tGives (.srel tSite 1 2 3) tRun (fun t => (t.ctx (ctxKey 0 0 0)).sregs != []) = true := by decide +kernel
theorem test_wit_task_end :
    tGives (.taskEnd 9#64 0) tRun (fun t => t.tasks.all fun e => e.2.state = .done) = true := by decide +kernel
theorem test_wit_team_query : tDone (.teamQuery 1#64) 0x0208 0 (tW [0, 1]) tRun = true := by decide +kernel
theorem test_wit_random_fill :
    tDone (.rngFill 1#64) 0x0B01 0 (tW [0, 1, 0, 0, 0, 0, 0, 0, 4, 0]) tPad = true := by decide +kernel
theorem test_wit_stream_close : tDone (.streamClose 1#64) 0x0C03 0 (tW [1]) tRun = true := by decide +kernel
theorem test_wit_memory_free : tDone (.memFree 1#64) 0x0102 0 (tW [0x10000, 0]) tMem = true := by decide +kernel
theorem test_wit_flash_query :
    tDone (.nvwQuery 1#64) 0x010A 0 (tW [0, 0xFC000000, 0, 1])
      { tMem with allocs := [(0xFC00000000000000, tAlloc .nvw 0x200000)] } = true := by decide +kernel
theorem test_wit_park_query : tDone (.parkQuery 1#64) 0x010B 256 (tW [0, 1]) tPad = true := by decide +kernel
theorem test_wit_refresh : tGives (.hbmRefresh 0) tPad (fun t => decide (t.hbm ≠ tPad.hbm)) = true := by decide +kernel
theorem test_wit_model_release :
    tDone (.genModelRelease 1#64) 0x0302 0 (tW [0]) { tGen with gen := { tGen.gen with loops := [] } } = true := by
  decide +kernel
theorem test_wit_loop_stop : tDone (.genLoopStop 1#64) 0x0308 0 (tW [0]) tGen = true := by decide +kernel
theorem test_wit_set_release : tDone (.learnSetRelease 1#64) 0x0402 0 (tW [1]) tGen = true := by decide +kernel
theorem test_wit_sweep :
    tGives (.learnSweep 1#64) (tCmd 0x0405 0 (tW [2, 0]) tGen)
      (fun t => t.learn.sets.any fun e => e.2.state = .sweeping) = true := by decide +kernel
theorem test_wit_unit_fault : tGives (.unitFault 3) tGen (fun t => decide ((t.unit 3).faults ≠ [])) = true := by
  decide +kernel
theorem test_wit_layout_release : tDone (.reinLayoutRelease 1#64) 0x0502 0 (tW [1]) tNet = true := by decide +kernel
theorem test_wit_group_query : tDone (.traceGroupQuery 1#64) 0x060C 0 (tW [1, 0, 1]) tNet = true := by decide +kernel
theorem test_wit_port_query : tDone (.tracePortQuery 1#64) 0x0609 256 (tW [0, 1]) tPad = true := by decide +kernel
theorem test_wit_credit :
    tGives (.creditRecord 0 5 6 7)
      { tPort with trace := { tPort.trace with ports := [(0, { Port.reset with state := .linked })] } }
      (fun t => (t.port 0).credPeer = [(1, 5#32), (2, 6#32), (3, 7#32)]) = true := by decide +kernel
theorem test_wit_identity :
    tGives (.identityExchange 0 9#16 0 false) tPort (fun t => (t.port 0).state = .linked) = true := by decide +kernel
theorem test_wit_event_wait :
    tGives (.resilWait 1#64) (tCmd 0x0708 0 (tW [0, 1]) tPad) (fun t => t.waits.length = 1) = true := by decide +kernel
theorem test_wit_power_cap :
    tGives (.pwrCapSet 1#64) (tCmd 0x0901 256 (tW [1000]) tPad) (fun t => decide (t.power ≠ tPad.power)) = true := by
  decide +kernel
theorem test_wit_hold :
    tGives (.holdEnter 3) tReady (fun t => (t.teamPwr 3).hold.isSome && !(tReady.teamPwr 3).hold.isSome) = true := by
  decide +kernel
theorem test_wit_rail_fault : tGives (.railFault 0 true) tRun (fun t => t.log.entries != []) = true := by decide +kernel
theorem test_wit_part_identifier : tDone (.selfPartIdSet 1#64) 0x0A08 256 (tW [77]) tPad = true := by decide +kernel
theorem test_wit_test_port : tGives .highz tReady (fun t => t.tap.hiz) = true := by decide +kernel
theorem test_wit_alert :
    tGives .smbusAlertResponse { tReady with pins := { tReady.pins with alertN := false } }
      (fun t => t.out.smbus != []) = true := by decide +kernel
theorem test_wit_quiet : tMem.quiet = true := by decide +kernel
theorem test_wit_startable : ((tCmd 7 0 (tZ 96)).startable 7 1#64).isSome = true := by decide +kernel
/-- A slot fetched on ring 0 whose bytes 2 and 3 hold reserved bits. -/
def tFetched : State :=
  let i : RItem :=
    { ser := 0, arrived := false, wid := 0#64, seq := 0#32, opcode := 0#16, sqHead := 1#8, accepted := false,
      settledOut := false, fin := false, status := 0#16, result := 0#64, detail := 0#32, hw := false, replayed := false }
  { tReady with rings := [(0, { Ring.reset with enable := true, sqBase := 4096#64, cqBase := 4096#64, fifo := [i] })] }
theorem test_wit_rejected_slot :
    tGives (.slotArrival 0 (some ([7#8, 0#8, 4#8] ++ tZ 125)) none) tFetched
      (fun t => t.journal = [] && t.out.cq.any fun e => e.status = stBadReserved) = true := by decide +kernel
theorem test_wit_vector_illegal :
    tGives (.vectorArithmetic tSite .add .f32 ⟨7, false, 0#64, 0#32, 0⟩ 1 2 3 0) tRun
      (fun t => t.tasks.all fun e => e.2.state = .failed) = true := by decide +kernel
theorem test_wit_sequences : tDone (.genQueryExpert 1#64) 0x038D 0 (tW [0, 1, 0, 0xFF, 4, 0]) tGen = true := by
  decide +kernel
theorem test_wit_quays : tDone (.quayQueryExpert 1#64) 0x0885 0 (tW [0, 1, 4, 0]) tPad = true := by decide +kernel
theorem test_wit_early_grant :
    tGives (.grant 0 { tMsg 1 with src := 6#16, group := 1#32, seq := 1 })
      { tNet with trace := { tNet.trace with ports := [(0, { Port.reset with state := .admitted, peer := some 6#16 })] } }
      (fun t => t.trace.early.length = 1) = true := by decide +kernel
theorem test_wit_stopped_test : tDone (.selfTestQueryExpert 1#64) 0x0A83 256 (tW [0, 1, 0, 0]) tPad = true := by
  decide +kernel

end Sys2Proof.Tests
end

section
/-! The state after a cold reset: a table that lists nothing reads as its default at every key, so every function and
every ring reads as its reset record. -/

namespace Sys2Proof

/-- No key of an empty table is listed. -/
@[simp] theorem tget_nil {α : Type} (k : Nat) : tget ([] : Tbl α) k = none := rfl

/-- An empty table reads as the default at every key. -/
@[simp] theorem tgetD_nil {α : Type} (d : α) (k : Nat) : tgetD d [] k = d := by simp [tgetD]

namespace Machine

/-- Every function holds the reset values of Table 2-1. -/
@[simp] theorem State.reset_fn (f : Nat) : State.reset.fn f = Fn.reset := tgetD_nil Fn.reset f

/-- Every ring holds the reset values of Table 2-3. -/
@[simp] theorem State.reset_ring (r : Nat) : State.reset.ring r = Ring.reset := tgetD_nil Ring.reset r

/-- Settles O4: the part, the logs and the tables are fields of `State.reset`; a function and a ring are read through
tables that list nothing, and so are the reset records. That the time base of `State.reset` reads 0 is the model's
choice (log entry 1; by log entry 128 it runs on through a cold reset). -/
theorem resetLeavesRegistersClear : Obligations.ResetLeavesRegistersClear := by
  refine ⟨rfl, rfl, rfl, rfl, rfl, rfl, rfl, rfl, rfl, rfl, rfl, rfl, fun f => ?fn, fun r => ?ring⟩
  case fn =>
    rw [State.reset_fn]
    exact ⟨rfl, rfl, rfl, rfl⟩
  case ring =>
    rw [State.reset_ring]
    exact ⟨rfl, rfl, rfl, rfl, rfl, rfl, rfl, rfl, rfl, rfl, rfl⟩

end Machine

end Sys2Proof
end

section
/-! A step on an empty queue: the time base moves on by `State.tick`, whose four branches are stated once each, under
names of what they say of the offset left to slew (R384). -/

namespace Sys2Proof.Machine

/-- With no offset left to slew, a nanosecond moves the time base on by 1 ns. -/
theorem State.tick_of_settled (s : State) (h : s.trace.time.slew = 0) : s.tick = { s with now := s.now + 1#64 } := by
  simp [State.tick, h]

/-- Within the 1,000 ns that one ns of slew is spread over, the time base moves on by 1 ns, which is counted. -/
theorem State.tick_of_between_slews (s : State) (h : s.trace.time.slew ≠ 0) (hf : s.trace.time.slewFrac < 999) :
    s.tick = { s with
      now := s.now + 1#64
      trace := { s.trace with time := { s.trace.time with slewFrac := s.trace.time.slewFrac + 1 } } } := by
  simp [State.tick, h, hf]

/-- At the thousandth nanosecond a time base that lags its master adds 1 ns. -/
theorem State.tick_of_slew_forward (s : State) (h : 0 < s.trace.time.slew) (hf : 999 ≤ s.trace.time.slewFrac) :
    s.tick = { s with
      now := s.now + 2#64
      trace := { s.trace with time := { s.trace.time with slewFrac := 0, slew := s.trace.time.slew - 1 } } } := by
  simp [State.tick, h, h.ne', hf.not_gt]

/-- At the thousandth nanosecond a time base that leads its master leaves 1 ns out. -/
theorem State.tick_of_slew_back (s : State) (h : s.trace.time.slew < 0) (hf : 999 ≤ s.trace.time.slewFrac) :
    s.tick = { s with
      trace := { s.trace with time := { s.trace.time with slewFrac := 0, slew := s.trace.time.slew + 1 } } } := by
  simp [State.tick, h.ne, h.not_gt, hf.not_gt]

/-- Every state is in the case of one of the four equations of `State.tick`. -/
theorem State.slew_cases (s : State) :
    s.trace.time.slew = 0 ∨ (s.trace.time.slew ≠ 0 ∧ s.trace.time.slewFrac < 999) ∨
      (0 < s.trace.time.slew ∧ 999 ≤ s.trace.time.slewFrac) ∨
      (s.trace.time.slew < 0 ∧ 999 ≤ s.trace.time.slewFrac) := by
  omega

/-- A nanosecond changes nothing but the time base and its slewing. -/
theorem State.tick_frame (s : State) :
    s.tick = { s with now := s.tick.now, trace := { s.trace with time := s.tick.trace.time } } := by
  obtain h | ⟨h, hf⟩ | ⟨h, hf⟩ | ⟨h, hf⟩ := s.slew_cases
  · rw [s.tick_of_settled h]
  · rw [s.tick_of_between_slews h hf]
  · rw [s.tick_of_slew_forward h hf]
  · rw [s.tick_of_slew_back h hf]

/-- A nanosecond moves the time base on by 0 to 2 ns. -/
theorem State.tick_now (s : State) :
    s.tick.now = s.now ∨ s.tick.now = s.now + 1#64 ∨ s.tick.now = s.now + 2#64 := by
  obtain h | ⟨h, hf⟩ | ⟨h, hf⟩ | ⟨h, hf⟩ := s.slew_cases
  · exact .inr (.inl (by rw [s.tick_of_settled h]))
  · exact .inr (.inl (by rw [s.tick_of_between_slews h hf]))
  · exact .inr (.inr (by rw [s.tick_of_slew_forward h hf]))
  · exact .inl (by rw [s.tick_of_slew_back h hf])

/-- A step on an empty queue is one nanosecond of the time base. -/
theorem step_of_pending_nil (s : State) (h : s.pending = []) : step s = .next s.tick := by
  simp [step, h]

/-- Settles O2: the next state is that of `State.tick`, whose frame, whose move without an offset and whose bounds are
the three clauses. That an empty queue lets time pass is the model's choice (log entry 3). -/
theorem emptyQueueTicks : Obligations.EmptyQueueTicks := fun s hq =>
  ⟨s.tick, step_of_pending_nil s hq, s.tick_frame,
    fun h => by rw [s.tick_of_settled h]; exact ⟨rfl, rfl⟩, s.tick_now⟩

end Sys2Proof.Machine
end

section
/-! The step and its invariant. What every meaning keeps (Laws/Keep*.lean) is gathered into one law of `exec`: a command
leaves the queue behind it, never runs the counter of free values back, and keeps each part of `State.Inv`. -/

namespace Sys2Proof.Machine

/-- A step of a state with a command at the front of its queue runs that command on the rest of the queue. -/
theorem step_of_pending_cons {s : State} {c : Instr} {q : List Instr} (h : s.pending = c :: q) :
    step s = exec c { s with pending := q } := by
  simp [step, h]

/-- Settles O1: it is the branch of `step` for a queue that is not empty. -/
theorem stepRunsFrontCommand : Obligations.StepRunsFrontCommand := fun _ _ _ => step_of_pending_cons

/-- Settles O3: memory, scratchpads, poison markers and event log of `State.reset` are empty, and no ring is listed. -/
theorem resetMeetsInvariant : Obligations.ResetMeetsInvariant :=
  ⟨rfl, rfl, rfl, fun _ he => absurd he List.not_mem_nil, Nat.zero_le _⟩

/-- Every meaning answers through `event` or `run`, which answer a next state. -/
theorem exec_answers (c : Instr) (s : State) : ∃ t, exec c s = .next t := by
  cases c <;> exact ⟨_, rfl⟩

/-- Settles O7: an empty queue ticks, and the command at the front of any other queue answers. -/
theorem everyCommandAnswers : Obligations.EveryCommandAnswers := by
  refine ⟨exec_answers, fun s => ?_⟩
  cases hq : s.pending with
  | nil => exact ⟨_, step_of_pending_nil s hq⟩
  | cons c q => exact step_of_pending_cons hq ▸ exec_answers c _

/-- What every command keeps: for each constructor, the law of its meaning. -/
theorem exec_keep {c : Instr} {s t : State} (h : exec c s = .next t) : Keep s t := by
  cases c with
  | registerWrite => exact execRegisterWrite_keep h
  | intStatusWrite => exact execIntStatusWrite_keep h
  | violationsRead => exact execViolationsRead_keep h
  | register64LowWordRead => exact execRegister64LowWordRead_keep h
  | bar0AccessBeforeLive => exact execBar0AccessBeforeLive_keep h
  | enableWrite => exact execEnableWrite_keep h
  | sqTail => exact execSqTail_keep h
  | cqHead => exact execCqHead_keep h
  | slotFetch => exact execSlotFetch_keep h
  | slotArrival => exact execSlotArrival_keep h
  | functionLevelReset => exact execFunctionLevelReset_keep h
  | pfFunctionLevelReset => exact execPfFunctionLevelReset_keep h
  | sessionLockoutEnd => exact execSessionLockoutEnd_keep h
  | controlReady => exact execControlReady_keep h
  | partReady => exact execPartReady_keep h
  | partIdentify => exact execPartIdentify_keep h
  | partIdentifyExpert => exact execPartIdentifyExpert_keep h
  | sessionChallenge => exact execSessionChallenge_keep h
  | sessionChallengeExpert => exact execSessionChallengeExpert_keep h
  | sessionOpen => exact execSessionOpen_keep h
  | sessionOpenExpert => exact execSessionOpenExpert_keep h
  | sessionClose => exact execSessionClose_keep h
  | sessionCloseExpert => exact execSessionCloseExpert_keep h
  | cmdCancel => exact execCmdCancel_keep h
  | cmdCancelExpert => exact execCmdCancelExpert_keep h
  | workQuery => exact execWorkQuery_keep h
  | workQueryExpert => exact execWorkQueryExpert_keep h
  | nop => exact execNop_keep h
  | nopExpert => exact execNopExpert_keep h
  | paddockCreate => exact execPaddockCreate_keep h
  | paddockCreateExpert => exact execPaddockCreateExpert_keep h
  | paddockModify => exact execPaddockModify_keep h
  | paddockModifyExpert => exact execPaddockModifyExpert_keep h
  | paddockDestroy => exact execPaddockDestroy_keep h
  | paddockDestroyExpert => exact execPaddockDestroyExpert_keep h
  | paddockQuery => exact execPaddockQuery_keep h
  | paddockQueryExpert => exact execPaddockQueryExpert_keep h
  | paddockKeySet => exact execPaddockKeySet_keep h
  | paddockKeySetExpert => exact execPaddockKeySetExpert_keep h
  | arrayStep => exact execArrayStep_keep h
  | qmx => exact execQmx_keep h
  | vectorArithmetic => exact execVectorArithmetic_keep h
  | vectorReduction => exact execVectorReduction_keep h
  | exsum => exact execExsum_keep h
  | exsumsq => exact execExsumsq_keep h
  | exdot => exact execExdot_keep h
  | exp => exact execExp_keep h
  | expm1 => exact execExpm1_keep h
  | log => exact execLog_keep h
  | tanh => exact execTanh_keep h
  | sigmoid => exact execSigmoid_keep h
  | silu => exact execSilu_keep h
  | lfrand => exact execLfrand_keep h
  | lfseed => exact execLfseed_keep h
  | cbrand => exact execCbrand_keep h
  | cbunif => exact execCbunif_keep h
  | cbnorm => exact execCbnorm_keep h
  | tbnorm => exact execTbnorm_keep h
  | ppot => exact execPpot_keep h
  | tisw => exact execTisw_keep h
  | klt => exact execKlt_keep h
  | lpcmp => exact execLpcmp_keep h
  | basinLoad => exact execBasinLoad_keep h
  | basinStore => exact execBasinStore_keep h
  | trap => exact execTrap_keep h
  | srd => exact execSrd_keep h
  | srel => exact execSrel_keep h
  | swr => exact execSwr_keep h
  | sclose => exact execSclose_keep h
  | sabort => exact execSabort_keep h
  | barv => exact execBarv_keep h
  | bwait => exact execBwait_keep h
  | teamAtPreemptionPoint => exact execTeamAtPreemptionPoint_keep h
  | forcedStop => exact execForcedStop_keep h
  | saveComplete => exact execSaveComplete_keep h
  | restoreComplete => exact execRestoreComplete_keep h
  | taskPlacement => exact execTaskPlacement_keep h
  | placementWaitLimit => exact execPlacementWaitLimit_keep h
  | taskEnd => exact execTaskEnd_keep h
  | teamException => exact execTeamException_keep h
  | timeLimit => exact execTimeLimit_keep h
  | arrayAck => exact execArrayAck_keep h
  | kernelLoad => exact execKernelLoad_keep h
  | kernelLoadExpert => exact execKernelLoadExpert_keep h
  | kernelUnload => exact execKernelUnload_keep h
  | kernelUnloadExpert => exact execKernelUnloadExpert_keep h
  | taskLaunch => exact execTaskLaunch_keep h
  | taskLaunchExpert => exact execTaskLaunchExpert_keep h
  | taskAbort => exact execTaskAbort_keep h
  | taskAbortExpert => exact execTaskAbortExpert_keep h
  | taskPreempt => exact execTaskPreempt_keep h
  | taskPreemptExpert => exact execTaskPreemptExpert_keep h
  | taskResume => exact execTaskResume_keep h
  | taskResumeExpert => exact execTaskResumeExpert_keep h
  | taskQuery => exact execTaskQuery_keep h
  | taskQueryExpert => exact execTaskQueryExpert_keep h
  | teamQuery => exact execTeamQuery_keep h
  | teamQueryExpert => exact execTeamQueryExpert_keep h
  | rngFill => exact execRngFill_keep h
  | rngFillExpert => exact execRngFillExpert_keep h
  | rngCheck => exact execRngCheck_keep h
  | rngCheckExpert => exact execRngCheckExpert_keep h
  | rngLaneState => exact execRngLaneState_keep h
  | rngLaneStateExpert => exact execRngLaneStateExpert_keep h
  | tileCommit => exact execTileCommit_keep h
  | burstDelivery => exact execBurstDelivery_keep h
  | poisonTileCommit => exact execPoisonTileCommit_keep h
  | bindTransferEnd => exact execBindTransferEnd_keep h
  | basinScrub => exact execBasinScrub_keep h
  | transactionTagGrant => exact execTransactionTagGrant_keep h
  | tierReadResponse => exact execTierReadResponse_keep h
  | tierWriteAck => exact execTierWriteAck_keep h
  | tierRequestTimeout => exact execTierRequestTimeout_keep h
  | engineFaultReset => exact execEngineFaultReset_keep h
  | uncommittedTileDiscard => exact execUncommittedTileDiscard_keep h
  | streamOpen => exact execStreamOpen_keep h
  | streamOpenExpert => exact execStreamOpenExpert_keep h
  | streamBind => exact execStreamBind_keep h
  | streamBindExpert => exact execStreamBindExpert_keep h
  | streamClose => exact execStreamClose_keep h
  | streamCloseExpert => exact execStreamCloseExpert_keep h
  | streamAbort => exact execStreamAbort_keep h
  | streamAbortExpert => exact execStreamAbortExpert_keep h
  | streamQuery => exact execStreamQuery_keep h
  | streamQueryExpert => exact execStreamQueryExpert_keep h
  | streamFree => exact execStreamFree_keep h
  | streamFreeExpert => exact execStreamFreeExpert_keep h
  | streamRearm => exact execStreamRearm_keep h
  | streamRearmExpert => exact execStreamRearmExpert_keep h
  | barrierCreate => exact execBarrierCreate_keep h
  | barrierCreateExpert => exact execBarrierCreateExpert_keep h
  | barrierArrive => exact execBarrierArrive_keep h
  | barrierArriveExpert => exact execBarrierArriveExpert_keep h
  | barrierDestroy => exact execBarrierDestroy_keep h
  | barrierDestroyExpert => exact execBarrierDestroyExpert_keep h
  | basinQuery => exact execBasinQuery_keep h
  | basinQueryExpert => exact execBasinQueryExpert_keep h
  | memAlloc => exact execMemAlloc_keep h
  | memAllocExpert => exact execMemAllocExpert_keep h
  | memFree => exact execMemFree_keep h
  | memFreeExpert => exact execMemFreeExpert_keep h
  | memQuery => exact execMemQuery_keep h
  | memQueryExpert => exact execMemQueryExpert_keep h
  | memFill => exact execMemFill_keep h
  | memFillExpert => exact execMemFillExpert_keep h
  | memMapout => exact execMemMapout_keep h
  | memMapoutExpert => exact execMemMapoutExpert_keep h
  | nvwProgram => exact execNvwProgram_keep h
  | nvwProgramExpert => exact execNvwProgramExpert_keep h
  | nvwSeal => exact execNvwSeal_keep h
  | nvwSealExpert => exact execNvwSealExpert_keep h
  | nvwErase => exact execNvwErase_keep h
  | nvwEraseExpert => exact execNvwEraseExpert_keep h
  | nvwGrant => exact execNvwGrant_keep h
  | nvwGrantExpert => exact execNvwGrantExpert_keep h
  | nvwQuery => exact execNvwQuery_keep h
  | nvwQueryExpert => exact execNvwQueryExpert_keep h
  | parkQuery => exact execParkQuery_keep h
  | parkQueryExpert => exact execParkQueryExpert_keep h
  | parkControl => exact execParkControl_keep h
  | parkControlExpert => exact execParkControlExpert_keep h
  | memTelemetry => exact execMemTelemetry_keep h
  | memTelemetryExpert => exact execMemTelemetryExpert_keep h
  | hbmRefresh => exact execHbmRefresh_keep h
  | calibrationDue => exact execCalibrationDue_keep h
  | forcedCalibration => exact execForcedCalibration_keep h
  | patrolScrub => exact execPatrolScrub_keep h
  | scrubAge => exact execScrubAge_keep h
  | correctedWriteback => exact execCorrectedWriteback_keep h
  | channelMapoutDecision => exact execChannelMapoutDecision_keep h
  | mapoutFrameSwitch => exact execMapoutFrameSwitch_keep h
  | mapoutRetry => exact execMapoutRetry_keep h
  | nvwTileProgrammed => exact execNvwTileProgrammed_keep h
  | nvwPatrol => exact execNvwPatrol_keep h
  | nvwRelocationSwitch => exact execNvwRelocationSwitch_keep h
  | cxlDrs => exact execCxlDrs_keep h
  | cxlNdr => exact execCxlNdr_keep h
  | cxlRequestTimeout => exact execCxlRequestTimeout_keep h
  | cxlLinkDown => exact execCxlLinkDown_keep h
  | genModelRegister => exact execGenModelRegister_keep h
  | genModelRegisterExpert => exact execGenModelRegisterExpert_keep h
  | genModelRelease => exact execGenModelRelease_keep h
  | genModelReleaseExpert => exact execGenModelReleaseExpert_keep h
  | genAdapterLoad => exact execGenAdapterLoad_keep h
  | genAdapterLoadExpert => exact execGenAdapterLoadExpert_keep h
  | genAdapterUnload => exact execGenAdapterUnload_keep h
  | genAdapterUnloadExpert => exact execGenAdapterUnloadExpert_keep h
  | genRingCreate => exact execGenRingCreate_keep h
  | genRingCreateExpert => exact execGenRingCreateExpert_keep h
  | genRingAdvance => exact execGenRingAdvance_keep h
  | genRingAdvanceExpert => exact execGenRingAdvanceExpert_keep h
  | genLoopStart => exact execGenLoopStart_keep h
  | genLoopStartExpert => exact execGenLoopStartExpert_keep h
  | genLoopStop => exact execGenLoopStop_keep h
  | genLoopStopExpert => exact execGenLoopStopExpert_keep h
  | genAdmit => exact execGenAdmit_keep h
  | genAdmitExpert => exact execGenAdmitExpert_keep h
  | genCancel => exact execGenCancel_keep h
  | genCancelExpert => exact execGenCancelExpert_keep h
  | genPark => exact execGenPark_keep h
  | genParkExpert => exact execGenParkExpert_keep h
  | genResume => exact execGenResume_keep h
  | genResumeExpert => exact execGenResumeExpert_keep h
  | genQuery => exact execGenQuery_keep h
  | genQueryExpert => exact execGenQueryExpert_keep h
  | genRelease => exact execGenRelease_keep h
  | genReleaseExpert => exact execGenReleaseExpert_keep h
  | genLoopQuery => exact execGenLoopQuery_keep h
  | genLoopQueryExpert => exact execGenLoopQueryExpert_keep h
  | stepBoundary => exact execStepBoundary_keep h
  | autoPark => exact execAutoPark_keep h
  | autoResume => exact execAutoResume_keep h
  | sequenceExpiry => exact execSequenceExpiry_keep h
  | evictionComplete => exact execEvictionComplete_keep h
  | berthFetchComplete => exact execBerthFetchComplete_keep h
  | listForwardArrival => exact execListForwardArrival_keep h
  | learnSetRegister => exact execLearnSetRegister_keep h
  | learnSetRegisterExpert => exact execLearnSetRegisterExpert_keep h
  | learnSetRelease => exact execLearnSetRelease_keep h
  | learnSetReleaseExpert => exact execLearnSetReleaseExpert_keep h
  | learnExchange => exact execLearnExchange_keep h
  | learnExchangeExpert => exact execLearnExchangeExpert_keep h
  | exchangeComplete => exact execExchangeComplete_keep h
  | learnNorm => exact execLearnNorm_keep h
  | learnNormExpert => exact execLearnNormExpert_keep h
  | normComplete => exact execNormComplete_keep h
  | learnSweep => exact execLearnSweep_keep h
  | learnSweepExpert => exact execLearnSweepExpert_keep h
  | updateSpanDone => exact execUpdateSpanDone_keep h
  | sweepComplete => exact execSweepComplete_keep h
  | unitFault => exact execUnitFault_keep h
  | unitSpanTimeout => exact execUnitSpanTimeout_keep h
  | stashRestore => exact execStashRestore_keep h
  | learnMicroLoad => exact execLearnMicroLoad_keep h
  | learnMicroLoadExpert => exact execLearnMicroLoadExpert_keep h
  | learnMicroUnload => exact execLearnMicroUnload_keep h
  | learnMicroUnloadExpert => exact execLearnMicroUnloadExpert_keep h
  | learnRouteCheck => exact execLearnRouteCheck_keep h
  | learnRouteCheckExpert => exact execLearnRouteCheckExpert_keep h
  | learnQuery => exact execLearnQuery_keep h
  | learnQueryExpert => exact execLearnQueryExpert_keep h
  | reinLayoutRegister => exact execReinLayoutRegister_keep h
  | reinLayoutRegisterExpert => exact execReinLayoutRegisterExpert_keep h
  | reinLayoutRelease => exact execReinLayoutRelease_keep h
  | reinLayoutReleaseExpert => exact execReinLayoutReleaseExpert_keep h
  | reinDrain => exact execReinDrain_keep h
  | reinDrainExpert => exact execReinDrainExpert_keep h
  | reinPermute => exact execReinPermute_keep h
  | reinPermuteExpert => exact execReinPermuteExpert_keep h
  | permuteComplete => exact execPermuteComplete_keep h
  | reinRemount => exact execReinRemount_keep h
  | reinRemountExpert => exact execReinRemountExpert_keep h
  | remountOldSlotRelease => exact execRemountOldSlotRelease_keep h
  | reinResume => exact execReinResume_keep h
  | reinResumeExpert => exact execReinResumeExpert_keep h
  | reinQuery => exact execReinQuery_keep h
  | reinQueryExpert => exact execReinQueryExpert_keep h
  | traceGroupCreate => exact execTraceGroupCreate_keep h
  | traceGroupCreateExpert => exact execTraceGroupCreateExpert_keep h
  | traceGroupDestroy => exact execTraceGroupDestroy_keep h
  | traceGroupDestroyExpert => exact execTraceGroupDestroyExpert_keep h
  | traceColl => exact execTraceColl_keep h
  | traceCollExpert => exact execTraceCollExpert_keep h
  | traceCollCancel => exact execTraceCollCancel_keep h
  | traceCollCancelExpert => exact execTraceCollCancelExpert_keep h
  | traceWindowRegister => exact execTraceWindowRegister_keep h
  | traceWindowRegisterExpert => exact execTraceWindowRegisterExpert_keep h
  | traceSend => exact execTraceSend_keep h
  | traceSendExpert => exact execTraceSendExpert_keep h
  | traceRecv => exact execTraceRecv_keep h
  | traceRecvExpert => exact execTraceRecvExpert_keep h
  | traceMsgCancel => exact execTraceMsgCancel_keep h
  | traceMsgCancelExpert => exact execTraceMsgCancelExpert_keep h
  | tracePortQuery => exact execTracePortQuery_keep h
  | tracePortQueryExpert => exact execTracePortQueryExpert_keep h
  | tracePortControl => exact execTracePortControl_keep h
  | tracePortControlExpert => exact execTracePortControlExpert_keep h
  | traceTimeQuery => exact execTraceTimeQuery_keep h
  | traceTimeConfig => exact execTraceTimeConfig_keep h
  | traceGroupQuery => exact execTraceGroupQuery_keep h
  | traceGroupQueryExpert => exact execTraceGroupQueryExpert_keep h
  | chunk => exact execChunk_keep h
  | grant => exact execGrant_keep h
  | done => exact execDone_keep h
  | abort => exact execAbort_keep h
  | windowMessage => exact execWindowMessage_keep h
  | dispatchKeys => exact execDispatchKeys_keep h
  | dispatchAccept => exact execDispatchAccept_keep h
  | forwarded => exact execForwarded_keep h
  | grantIssue => exact execGrantIssue_keep h
  | grantReissue => exact execGrantReissue_keep h
  | creditRecord => exact execCreditRecord_keep h
  | creditRecordTimer => exact execCreditRecordTimer_keep h
  | ackseq => exact execAckseq_keep h
  | ackTimer => exact execAckTimer_keep h
  | retry => exact execRetry_keep h
  | refuse => exact execRefuse_keep h
  | refuseResend => exact execRefuseResend_keep h
  | sync => exact execSync_keep h
  | delayReq p t3 => exact execDelayReq_keep (_t3 := t3) h
  | delayResp => exact execDelayResp_keep h
  | syncTimer => exact execSyncTimer_keep h
  | timeParentLoss => exact execTimeParentLoss_keep h
  | stewardSwapRequest => exact execStewardSwapRequest_keep h
  | stewardSwapGrant => exact execStewardSwapGrant_keep h
  | retrainRequest => exact execRetrainRequest_keep h
  | identityExchange => exact execIdentityExchange_keep h
  | trainingStart => exact execTrainingStart_keep h
  | trainingTimeout => exact execTrainingTimeout_keep h
  | linkAdmission => exact execLinkAdmission_keep h
  | lossOfLock => exact execLossOfLock_keep h
  | laneErrorThreshold => exact execLaneErrorThreshold_keep h
  | retrainComplete => exact execRetrainComplete_keep h
  | fullWidthAttempt => exact execFullWidthAttempt_keep h
  | routeLoss => exact execRouteLoss_keep h
  | detourSelect => exact execDetourSelect_keep h
  | collectiveTimeout => exact execCollectiveTimeout_keep h
  | sendTimeout => exact execSendTimeout_keep h
  | resilMoorCreate => exact execResilMoorCreate_keep h
  | resilMoorCreateExpert => exact execResilMoorCreateExpert_keep h
  | resilMoorRefresh => exact execResilMoorRefresh_keep h
  | resilMoorRefreshExpert => exact execResilMoorRefreshExpert_keep h
  | resilMoorReplace => exact execResilMoorReplace_keep h
  | resilMoorReplaceExpert => exact execResilMoorReplaceExpert_keep h
  | resilMoorShrink => exact execResilMoorShrink_keep h
  | resilMoorShrinkExpert => exact execResilMoorShrinkExpert_keep h
  | resilMoorRepair => exact execResilMoorRepair_keep h
  | resilMoorRepairExpert => exact execResilMoorRepairExpert_keep h
  | resilMoorQuery => exact execResilMoorQuery_keep h
  | resilMoorQueryExpert => exact execResilMoorQueryExpert_keep h
  | resilMoorDestroy => exact execResilMoorDestroy_keep h
  | resilMoorDestroyExpert => exact execResilMoorDestroyExpert_keep h
  | resilWait => exact execResilWait_keep h
  | resilWaitExpert => exact execResilWaitExpert_keep h
  | resilJournalQuery => exact execResilJournalQuery_keep h
  | resilJournalQueryExpert => exact execResilJournalQueryExpert_keep h
  | resilTeamRetire => exact execResilTeamRetire_keep h
  | resilTeamRetireExpert => exact execResilTeamRetireExpert_keep h
  | resilWarmReset => exact execResilWarmReset_keep h
  | resilWarmResetExpert => exact execResilWarmResetExpert_keep h
  | stripeParityCompute => exact execStripeParityCompute_keep h
  | stripeCommit => exact execStripeCommit_keep h
  | autoReplaceStart => exact execAutoReplaceStart_keep h
  | rebuildComplete => exact execRebuildComplete_keep h
  | shrinkComplete => exact execShrinkComplete_keep h
  | poisonLineRepair => exact execPoisonLineRepair_keep h
  | teamSubstitution => exact execTeamSubstitution_keep h
  | controlCoreFault => exact execControlCoreFault_keep h
  | heartbeatMissing => exact execHeartbeatMissing_keep h
  | warmReset => exact execWarmReset_keep h
  | journalSettlement => exact execJournalSettlement_keep h
  | quaySessionOpen => exact execQuaySessionOpen_keep h
  | quaySessionOpenExpert => exact execQuaySessionOpenExpert_keep h
  | quaySessionClose => exact execQuaySessionClose_keep h
  | quaySessionCloseExpert => exact execQuaySessionCloseExpert_keep h
  | quayFrameCommit => exact execQuayFrameCommit_keep h
  | quayFrameCommitExpert => exact execQuayFrameCommitExpert_keep h
  | quayRingAdvance => exact execQuayRingAdvance_keep h
  | quayRingAdvanceExpert => exact execQuayRingAdvanceExpert_keep h
  | quayQuery => exact execQuayQuery_keep h
  | quayQueryExpert => exact execQuayQueryExpert_keep h
  | frameStart => exact execFrameStart_keep h
  | pictureCoded => exact execPictureCoded_keep h
  | pwrCapSet => exact execPwrCapSet_keep h
  | pwrCapSetExpert => exact execPwrCapSetExpert_keep h
  | pwrTeamVolt => exact execPwrTeamVolt_keep h
  | pwrTeamVoltExpert => exact execPwrTeamVoltExpert_keep h
  | pwrRailSet => exact execPwrRailSet_keep h
  | pwrRailSetExpert => exact execPwrRailSetExpert_keep h
  | pwrRateLimit => exact execPwrRateLimit_keep h
  | pwrRateLimitExpert => exact execPwrRateLimitExpert_keep h
  | pwrTelemetry => exact execPwrTelemetry_keep h
  | pwrTelemetryExpert => exact execPwrTelemetryExpert_keep h
  | pwrCeilingQuery => exact execPwrCeilingQuery_keep h
  | pwrCeilingQueryExpert => exact execPwrCeilingQueryExpert_keep h
  | pwrThermalQuery => exact execPwrThermalQuery_keep h
  | pwrThermalQueryExpert => exact execPwrThermalQueryExpert_keep h
  | capLoopPeriod => exact execCapLoopPeriod_keep h
  | excursionDurationLimit => exact execExcursionDurationLimit_keep h
  | regulatorTargetReached => exact execRegulatorTargetReached_keep h
  | teamCurrentSample => exact execTeamCurrentSample_keep h
  | railCurrentRead => exact execRailCurrentRead_keep h
  | avsbusResponse => exact execAvsbusResponse_keep h
  | avsbusNoResponse => exact execAvsbusNoResponse_keep h
  | droopSlow => exact execDroopSlow_keep h
  | holdEnter => exact execHoldEnter_keep h
  | holdRelease => exact execHoldRelease_keep h
  | supplyHold => exact execSupplyHold_keep h
  | railFault => exact execRailFault_keep h
  | railFaultTimeout => exact execRailFaultTimeout_keep h
  | railRestored => exact execRailRestored_keep h
  | thermalSensorSample => exact execThermalSensorSample_keep h
  | throttlePeriod => exact execThrottlePeriod_keep h
  | thermalClamp => exact execThermalClamp_keep h
  | thermalTrip => exact execThermalTrip_keep h
  | replicaRead => exact execReplicaRead_keep h
  | ageingCheck => exact execAgeingCheck_keep h
  | selfTestRun => exact execSelfTestRun_keep h
  | selfTestRunExpert => exact execSelfTestRunExpert_keep h
  | selfTestStop => exact execSelfTestStop_keep h
  | selfTestStopExpert => exact execSelfTestStopExpert_keep h
  | selfTestQuery => exact execSelfTestQuery_keep h
  | selfTestQueryExpert => exact execSelfTestQueryExpert_keep h
  | selfChannelRestore => exact execSelfChannelRestore_keep h
  | selfChannelRestoreExpert => exact execSelfChannelRestoreExpert_keep h
  | selfMarginHbm => exact execSelfMarginHbm_keep h
  | selfMarginHbmExpert => exact execSelfMarginHbmExpert_keep h
  | selfMarginLane => exact execSelfMarginLane_keep h
  | selfMarginLaneExpert => exact execSelfMarginLaneExpert_keep h
  | selfMarginTeam => exact execSelfMarginTeam_keep h
  | selfMarginTeamExpert => exact execSelfMarginTeamExpert_keep h
  | selfPartIdSet => exact execSelfPartIdSet_keep h
  | selfPartIdSetExpert => exact execSelfPartIdSetExpert_keep h
  | testIndexComplete => exact execTestIndexComplete_keep h
  | fieldTestStart => exact execFieldTestStart_keep h
  | laneMarginingAtReceiver => exact execLaneMarginingAtReceiver_keep h
  | tapReset => exact execTapReset_keep h
  | idcode => exact execIdcode_keep h
  | samplePreload => exact execSamplePreload_keep h
  | extest => exact execExtest_keep h
  | extestPulse => exact execExtestPulse_keep h
  | extestTrain => exact execExtestTrain_keep h
  | clamp => exact execClamp_keep h
  | highz => exact execHighz_keep h
  | bypass => exact execBypass_keep h
  | pwrOkAssert => exact execPwrOkAssert_keep h
  | pwrOkDeassert => exact execPwrOkDeassert_keep h
  | coldReset => exact execColdReset_keep h
  | sysRstNDeassert => exact execSysRstNDeassert_keep h
  | warmRstNAssert => exact execWarmRstNAssert_keep h
  | perstNAssert => exact execPerstNAssert_keep h
  | perstNDeassert => exact execPerstNDeassert_keep h
  | cxlPerstNRelease => exact execCxlPerstNRelease_keep h
  | referenceClockLoss => exact execReferenceClockLoss_keep h
  | referenceClockReturn => exact execReferenceClockReturn_keep h
  | boardRailFault => exact execBoardRailFault_keep h
  | mctpMessage => exact execMctpMessage_keep h
  | spdmRequest => exact execSpdmRequest_keep h
  | eventAcknowledge => exact execEventAcknowledge_keep h
  | eventLogRead => exact execEventLogRead_keep h
  | smbusAlertResponse => exact execSmbusAlertResponse_keep h
  | mctpQuarantineExpiry => exact execMctpQuarantineExpiry_keep h
  | nopDelayExpiry => exact execNopDelayExpiry_keep h
  | remountWaitTimeout => exact execRemountWaitTimeout_keep h
  | bar0WindowLive => exact execBar0WindowLive_keep h
  | pcieLinkUp => exact execPcieLinkUp_keep h
  | warmRstNDeassert => exact execWarmRstNDeassert_keep h
  | zeroingComplete => exact execZeroingComplete_keep h
  | nvwEraseComplete => exact execNvwEraseComplete_keep h
  | nvwSealDigestComplete => exact execNvwSealDigestComplete_keep h
  | mapoutPoisonComplete => exact execMapoutPoisonComplete_keep h
  | spareMappingSwitch => exact execSpareMappingSwitch_keep h
  | marginingComplete => exact execMarginingComplete_keep h
  | pcieReadCompletion => exact execPcieReadCompletion_keep h
  | pcieCompletionTimeout => exact execPcieCompletionTimeout_keep h

/-- Settles O6: both are parts of what every command keeps. The queue and the counter of free values are the model's own
(log entry 2). -/
theorem commandsLeaveQueueAndCounter : Obligations.CommandsLeaveQueueAndCounter :=
  fun _ _ _ h => ⟨(exec_keep h).pend, (exec_keep h).free⟩

/-- Settles O5: an idle step changes no part of the invariant; another step takes a command off the queue, which is no
part of it, and keeps what every command keeps. -/
theorem everyStepKeepsInvariant : Obligations.EveryStepKeepsInvariant := by
  intro s t hs ht
  cases hq : s.pending with
  | nil =>
    rw [step_of_pending_nil s hq] at ht
    cases ht
    exact (State.tick_keep (Keep.refl s)).inv hs
  | cons c q =>
    rw [step_of_pending_cons hq] at ht
    exact (exec_keep ht).inv hs

end Sys2Proof.Machine
end

section
/-! A state in which nothing waits is left alone by what follows at once (R57, R159, R438): each stage of `State.settle`
runs over a table that `State.quiet` finds empty, or looks for entries that it finds nowhere. -/

namespace Sys2Proof.Machine

/-- A fold whose every step leaves the start as it is gives the start. -/
theorem foldl_eq_of_fixed {α β : Type} {f : β → α → β} {b : β} {l : List α} (h : ∀ x ∈ l, f b x = b) :
    l.foldl f b = b := by
  induction l with
  | nil => rfl
  | cons x l ih =>
    rw [List.foldl_cons, h x List.mem_cons_self]
    exact ih fun y hy => h y (List.mem_cons_of_mem x hy)

/-- Where no paddock has a team that is to leave, none leaves. -/
theorem State.leaveTeams_of_none_leaving {s : State} (h : ∀ e ∈ s.paddocks, e.2.leaving = []) : s.leaveTeams = s :=
  foldl_eq_of_fixed fun e he => if_pos (by rw [h e he]; rfl)

/-- Where no team keeps a fixed voltage, none returns to AUTO. -/
theorem State.autoTeams_of_none_fixed {s : State}
    (h : ∀ e ∈ s.power.teams, ∀ g, e.2.reg = some g → g.fixed = false) : s.autoTeams = s := by
  refine if_pos ?_
  rw [Bool.not_eq_true', List.any_eq_false]
  intro e he
  cases hg : e.2.reg with
  | none => simp [hg]
  | some g => simp [hg, h e he g hg]

/-- Without a generation loop none ends. -/
theorem State.sweepLoops_of_nil {s : State} (h : s.gen.loops = []) : s.sweepLoops = s := by
  rw [State.sweepLoops, h]; rfl

/-- Without a rollout ring none is written. -/
theorem State.flushRings_of_nil {s : State} (h : s.gen.rings = []) : s.flushRings = s := by
  rw [State.flushRings, h]; rfl

/-- Without a Frame Quay session none writes. -/
theorem State.flushQuays_of_nil {s : State} (h : s.quays = []) : s.flushQuays = s := by
  rw [State.flushQuays, h]; rfl

/-- The condition under which no operation and no message moves on. -/
def State.traceStill (s : State) : Bool :=
  s.part.mastersStopped || s.trace.colls.isEmpty && s.trace.queue.isEmpty && s.trace.sent.isEmpty &&
    s.trace.groups.isEmpty && s.trace.sends.isEmpty && s.moors.isEmpty

/-- Where nothing is under way on the Trace ports, nothing moves on. -/
theorem State.pumpAll_of_still {s : State} (h : s.traceStill = true) : s.pumpAll = s := if_pos h

/-- What a quiet state is, in terms of its tables. -/
theorem State.quiet_iff (s : State) :
    s.quiet = true ↔ s.waits = [] ∧ (∀ e ∈ s.paddocks, e.2.leaving = []) ∧
      (∀ e ∈ s.power.teams, ∀ g, e.2.reg = some g → g.fixed = false) ∧ s.gen.loops = [] ∧ s.gen.rings = [] ∧
      s.traceStill = true ∧ s.quays = [] := by
  have hreg : ∀ x : TeamPwr, (match x.reg with | some g => !g.fixed | none => true) = true ↔
      ∀ g, x.reg = some g → g.fixed = false := by
    intro x
    cases x.reg <;> simp
  unfold State.quiet
  simp only [Bool.and_eq_true, List.isEmpty_iff, List.all_eq_true, and_assoc]
  exact Iff.and Iff.rfl (Iff.and Iff.rfl (Iff.and (forall₂_congr fun e _ => hreg e.2) Iff.rfl))

/-- Settles O8: every stage of `State.settle` leaves a quiet state as it is, and no command waits to be looked at. -/
theorem quietStateSettlesToItself : Obligations.QuietStateSettlesToItself := by
  intro s hs
  obtain ⟨hwaits, hleaving, hfixed, hloops, hrings, hstill, hquays⟩ := s.quiet_iff.1 hs
  rw [State.settle, State.leaveTeams_of_none_leaving hleaving, State.autoTeams_of_none_fixed hfixed,
    State.sweepLoops_of_nil hloops, State.flushRings_of_nil hrings, State.pumpAll_of_still hstill,
    State.flushQuays_of_nil hquays, hwaits]
  rfl

end Sys2Proof.Machine
end

section
/-! The register window (R47, R52, R53, R72): what an access of it does, said once for each group of offsets, and the
effects of the register window and doorbell commands. -/

namespace Sys2Proof.Machine

/-- An event with an effect answers that effect and what follows at once. -/
theorem event_eq {u v : State} (h : u = v) : event u = .next v.settle := by rw [h]; rfl

/-! ### Ring numbers (R45) -/

/-- A ring of a function belongs to it. -/
theorem ringFn_ringOf {f k : Nat} (hf : f ≤ 8) (hk : k < 32) : ringFn (ringOf f k) = f := by
  unfold ringFn ringOf
  split_ifs <;> omega

/-- A global ring number is that of its number within its function. -/
theorem ringOf_ringFn {r : Nat} (h : r < 288) : ringOf (ringFn r) (ringK r) = r := by
  rcases Nat.lt_or_ge r 256 with hv | hp
  · rw [ringFn, if_pos hv, ringOf, if_neg (by omega), ringK]
    omega
  · rw [ringFn, if_neg (by omega), ringOf, if_pos rfl, ringK]
    omega

/-- A global ring number names one of nine functions. -/
theorem ringFn_le {r : Nat} (h : r < 288) : ringFn r ≤ 8 := by
  unfold ringFn
  split_ifs <;> omega

/-- A ring's number within its function. -/
theorem ringK_lt (r : Nat) : ringK r < 32 := Nat.mod_lt r (by decide)

/-! ### Accesses of the window -/

/-- A write of a live window reaches its register. -/
theorem State.bar0_write_live {s : State} {f off : Nat} (v : BitVec 32) (hf : f ≤ 8) (ho : off % 4 = 0)
    (hl : s.part.bar0Live = true) : s.bar0 f off (some v) = s.bar0Write f off v := by
  simp [State.bar0, hf.not_gt, ho, hl]

/-- A read of a live window reaches its register. -/
theorem State.bar0_read_live {s : State} {f off : Nat} (hf : f ≤ 8) (ho : off % 4 = 0)
    (hl : s.part.bar0Live = true) : s.bar0 f off none = s.bar0Read f off := by
  simp [State.bar0, hf.not_gt, ho, hl]

/-- A write that changes nothing, or that of the register at its offset. -/
theorem State.bar0_write_cases (s : State) (f off : Nat) (v : BitVec 32) :
    s.bar0 f off (some v) = s ∨ (f ≤ 8 ∧ s.bar0 f off (some v) = s.bar0Write f off v) := by
  unfold State.bar0
  split_ifs with h
  · exact .inl rfl
  · simp only [Bool.or_eq_true, decide_eq_true_eq, not_or, not_lt] at h
    exact .inr ⟨h.1.1, rfl⟩

/-- A read of a window that is not live, or that of the register at its offset. -/
theorem State.bar0_read_cases (s : State) (f off : Nat) :
    s.bar0 f off none = s.readOutWord 0xFFFFFFFF#32 ∨ s.bar0 f off none = s.bar0Read f off := by
  unfold State.bar0
  split_ifs
  · exact .inl rfl
  · exact .inr rfl

/-! ### The registers of a ring (Table 2-3) -/

/-- A write of the register of a ring at an offset in its 64 bytes. -/
def State.ringWrite (s : State) (r o : Nat) (v : BitVec 32) : State :=
  let page : BitVec 32 := v &&& 0xFFFFF000#32
  if o = 0x00 then s.modRing r fun g => { g with sqBase := putWord g.sqBase false page }
  else if o = 0x04 then s.modRing r fun g => { g with sqBase := putWord g.sqBase true v }
  else if o = 0x08 then s.modRing r fun g => { g with cqBase := putWord g.cqBase false page }
  else if o = 0x0C then s.modRing r fun g => { g with cqBase := putWord g.cqBase true v }
  else if o = 0x10 then (s.enableRing r (v.getLsbD 0)).modRing r fun g => { g with msix := v.extractLsb' 1 11 }
  else if o = 0x14 then s.ringSqTail r v
  else if o = 0x18 then s.ringCqHead r v
  else s

/-- A write of an offset past the function's registers is that of a register of one of its rings. -/
theorem State.bar0Write_rings {s : State} {f off : Nat} (v : BitVec 32) (h : 0x1000 ≤ off) (h' : off < 0x1800) :
    s.bar0Write f off v = s.ringWrite (ringOf f ((off - 0x1000) / 64)) ((off - 0x1000) % 64) v := by
  rw [State.bar0Write, if_neg (by omega), if_neg (by omega), if_pos (by simp [h, h'])]
  rfl

/-- A write of a register of a ring, by the ring's number in its function. -/
theorem State.bar0Write_ring {s : State} {f k o : Nat} (v : BitVec 32) (hk : k < 32) (ho : o < 64) :
    s.bar0Write f (0x1000 + 64 * k + o) v = s.ringWrite (ringOf f k) o v := by
  rw [State.bar0Write_rings v (by omega) (by omega), show (0x1000 + 64 * k + o - 0x1000) / 64 = k by omega,
    show (0x1000 + 64 * k + o - 0x1000) % 64 = o by omega]

/-- A write of a live window at an offset of a ring. -/
theorem State.bar0_write_ring {s : State} {f k o : Nat} (v : BitVec 32) (hf : f ≤ 8) (hk : k < 32) (ho : o < 64)
    (h4 : o % 4 = 0) (hl : s.part.bar0Live = true) :
    s.bar0 f (0x1000 + 64 * k + o) (some v) = s.ringWrite (ringOf f k) o v := by
  rw [State.bar0_write_live v hf (by omega) hl, State.bar0Write_ring v hk ho]

/-- A write of a live window at an offset of a ring given by its global number. -/
theorem State.bar0_write_ringOff {s : State} {r o : Nat} (v : BitVec 32) (hr : r < 288) (ho : o < 64)
    (h4 : o % 4 = 0) (hl : s.part.bar0Live = true) :
    s.bar0 (ringFn r) (ringOff r o) (some v) = s.ringWrite r o v := by
  rw [ringOff, State.bar0_write_ring v (ringFn_le hr) (ringK_lt r) ho h4 hl, ringOf_ringFn hr]

/-- The other offsets below the rings' registers than the two that are written ignore a write. -/
theorem State.bar0Write_of_readonly {s : State} {f off : Nat} (v : BitVec 32) (h : off < 0x1000) (h1 : off ≠ 0x18)
    (h2 : off ≠ 0x1C) : s.bar0Write f off v = s := by
  rw [State.bar0Write, if_neg h1, if_neg h2, if_neg (by simp; omega)]

/-- A read of the register of a ring of function `f` at an offset in its 64 bytes. -/
def State.ringRead (s : State) (f : Nat) (g : Ring) (o : Nat) : State :=
  if o = 0x00 then s.read64 f false g.sqBase
  else if o = 0x04 then s.read64 f true g.sqBase
  else if o = 0x08 then s.read64 f false g.cqBase
  else if o = 0x0C then s.read64 f true g.cqBase
  else if o = 0x10 then s.readOutWord (BitVec.ofNat 32 ((if g.enable then 1 else 0) + 2 * g.msix.toNat))
  else if o = 0x1C then s.readOutWord (g.sqHead.zeroExtend 32)
  else if o = 0x20 then s.readOutWord (BitVec.ofNat 32 ((if g.quarantined then 1 else 0) +
    (if g.cqFull then 2 else 0) + 65536 * g.violations.toNat))
  else s.readOutWord 0#32

/-- A read of an offset past the function's registers is that of a register of one of its rings. -/
theorem State.bar0Read_rings {s : State} {f off : Nat} (h : 0x1000 ≤ off) (h' : off < 0x1800) :
    s.bar0Read f off = s.ringRead f (s.ring (ringOf f ((off - 0x1000) / 64))) ((off - 0x1000) % 64) := by
  rw [State.bar0Read, if_neg (by omega), if_neg (by omega), if_neg (by omega), if_neg (by omega), if_neg (by omega),
    if_neg (by omega), if_neg (by omega), if_neg (by omega), if_pos (by simp [h, h'])]
  rfl

/-- A read of a live window at an offset of a ring. -/
theorem State.bar0_read_ring {s : State} {f k o : Nat} (hf : f ≤ 8) (hk : k < 32) (ho : o < 64) (h4 : o % 4 = 0)
    (hl : s.part.bar0Live = true) :
    s.bar0 f (0x1000 + 64 * k + o) none = s.ringRead f (s.ring (ringOf f k)) o := by
  rw [State.bar0_read_live hf (by omega) hl, State.bar0Read_rings (by omega) (by omega),
    show (0x1000 + 64 * k + o - 0x1000) / 64 = k by omega, show (0x1000 + 64 * k + o - 0x1000) % 64 = o by omega]

end Sys2Proof.Machine
end

section
/-! The effects of the register window and doorbell commands (R47, R52, R53, R72). -/

namespace Sys2Proof.Machine

/-- REGISTER_WRITE at an offset of a ring writes that register of the ring. -/
theorem exec_registerWrite_ring {s : State} {fn k o : Nat} (v : BitVec 32) (hf : fn ≤ 8) (hk : k < 32) (ho : o < 64)
    (h4 : o % 4 = 0) (hl : s.part.bar0Live = true) :
    exec (.registerWrite fn (0x1000 + 64 * k + o) v) s = .next (s.ringWrite (ringOf fn k) o v).settle :=
  event_eq (State.bar0_write_ring v hf hk ho h4 hl)

/-- REGISTER_64_LOW_WORD_READ at an offset of a ring reads that register of the ring. -/
theorem exec_registerRead_ring {s : State} {fn k o : Nat} (hf : fn ≤ 8) (hk : k < 32) (ho : o < 64) (h4 : o % 4 = 0)
    (hl : s.part.bar0Live = true) :
    exec (.register64LowWordRead fn (0x1000 + 64 * k + o)) s =
      .next (s.ringRead fn (s.ring (ringOf fn k)) o).settle :=
  event_eq (State.bar0_read_ring hf hk ho h4 hl)

/-- An access before the window is live answers a read with all ones and drops a write. -/
theorem State.bar0_of_not_live {s : State} (f off : Nat) (hl : s.part.bar0Live = false) :
    s.bar0 f off none = s.readOutWord 0xFFFFFFFF#32 ∧ ∀ v, s.bar0 f off (some v) = s := by
  simp [State.bar0, hl]

/-- ENABLE_WRITE writes ENABLE and then MSIX_VECTOR. -/
theorem exec_enableWrite_live {s : State} {ring : Nat} (v : BitVec 32) (hr : ring < 288)
    (hl : s.part.bar0Live = true) :
    exec (.enableWrite ring v) s =
      .next (((s.enableRing ring (v.getLsbD 0)).modRing ring fun g => { g with msix := v.extractLsb' 1 11 }).settle) :=
  event_eq ((if_pos hr).trans (State.bar0_write_ringOff v hr (by decide) rfl hl))

/-- SQ_TAIL rings the doorbell. -/
theorem exec_sqTail_live {s : State} {ring : Nat} (v : BitVec 32) (hr : ring < 288) (hl : s.part.bar0Live = true) :
    exec (.sqTail ring v) s = .next (s.ringSqTail ring v).settle :=
  event_eq ((if_pos hr).trans (State.bar0_write_ringOff v hr (by decide) rfl hl))

/-- CQ_HEAD rings the doorbell. -/
theorem exec_cqHead_live {s : State} {ring : Nat} (v : BitVec 32) (hr : ring < 288) (hl : s.part.bar0Live = true) :
    exec (.cqHead ring v) s = .next (s.ringCqHead ring v).settle :=
  event_eq ((if_pos hr).trans (State.bar0_write_ringOff v hr (by decide) rfl hl))

/-! ### The branches of the ring's writes -/

/-- Disabling settles the ring. -/
theorem State.enableRing_off (s : State) (r : Nat) :
    s.enableRing r false = (s.settleRing r).modRing r fun g => { g with enable := false } := rfl

/-- Enabling a ring without one of its bases is violation 4. -/
theorem State.enableRing_without_base {s : State} {r : Nat}
    (h : ((s.settleRing r).ring r).sqBase = 0#64 ∨ ((s.settleRing r).ring r).cqBase = 0#64) :
    s.enableRing r true = ((s.settleRing r).modRing r fun g => { g with enable := false }).violate r 4 false :=
  if_pos (by simpa using h)

/-- Enabling a ring with both bases resets its indices, its phase and its violations. -/
theorem State.enableRing_with_bases {s : State} {r : Nat}
    (h : ¬(((s.settleRing r).ring r).sqBase = 0#64 ∨ ((s.settleRing r).ring r).cqBase = 0#64)) :
    s.enableRing r true = (s.settleRing r).modRing r fun g =>
      { g with enable := true, sqHead := 0#8, sqTail := 0#8, cqHead := 0#8, cqTail := 0#8, phase := true,
               quarantined := false, violations := 0#16 } :=
  if_neg (by simpa using h)

/-- A doorbell in range has no high bits. -/
theorem doorbell_in_range {v : BitVec 32} : v.toNat / 256 ≠ 0 ↔ ¬v.toNat < 256 := by omega

/-- SQ_TAIL of a disabled ring is violation 3. -/
theorem State.ringSqTail_of_disabled {s : State} {r : Nat} (v : BitVec 32) (h : (s.ring r).enable = false) :
    s.ringSqTail r v = s.violate r 3 false := if_pos (by simp [h])

/-- SQ_TAIL out of range is violation 1. -/
theorem State.ringSqTail_of_range {s : State} {r : Nat} {v : BitVec 32} (h : (s.ring r).enable = true)
    (hv : 256 ≤ v.toNat) : s.ringSqTail r v = s.violate r 1 true :=
  (if_neg (by simp [h])).trans (if_pos (doorbell_in_range.2 hv.not_gt))

/-- SQ_TAIL in range is taken. -/
theorem State.ringSqTail_of_lt {s : State} {r : Nat} {v : BitVec 32} (h : (s.ring r).enable = true)
    (hv : v.toNat < 256) : s.ringSqTail r v = s.modRing r fun g => { g with sqTail := v.truncate 8 } :=
  (if_neg (by simp [h])).trans (if_neg (by omega))

/-- CQ_HEAD of a disabled ring is violation 3. -/
theorem State.ringCqHead_of_disabled {s : State} {r : Nat} (v : BitVec 32) (h : (s.ring r).enable = false) :
    s.ringCqHead r v = s.violate r 3 false := if_pos (by simp [h])

/-- CQ_HEAD out of range is violation 1. -/
theorem State.ringCqHead_of_range {s : State} {r : Nat} {v : BitVec 32} (h : (s.ring r).enable = true)
    (hv : 256 ≤ v.toNat) : s.ringCqHead r v = s.violate r 1 true :=
  (if_neg (by simp [h])).trans (if_pos (doorbell_in_range.2 hv.not_gt))

/-- CQ_HEAD past the entries written is violation 2. -/
theorem State.ringCqHead_of_past {s : State} {r : Nat} {v : BitVec 32} (h : (s.ring r).enable = true)
    (hv : v.toNat < 256) (hn : (s.ring r).written < ((v.truncate 8 : BitVec 8) - (s.ring r).cqHead).toNat) :
    s.ringCqHead r v = s.violate r 2 true :=
  (if_neg (by simp [h])).trans ((if_neg (by omega)).trans (if_pos hn))

/-- CQ_HEAD within the entries written consumes them and returns their credits. -/
theorem State.ringCqHead_of_le {s : State} {r : Nat} {v : BitVec 32} (h : (s.ring r).enable = true)
    (hv : v.toNat < 256) (hn : ((v.truncate 8 : BitVec 8) - (s.ring r).cqHead).toNat ≤ (s.ring r).written) :
    s.ringCqHead r v =
      (s.setRing r { s.ring r with
        cqHead := v.truncate 8
        written := (s.ring r).written - ((v.truncate 8 : BitVec 8) - (s.ring r).cqHead).toNat
        credits := (s.ring r).credits - ((v.truncate 8 : BitVec 8) - (s.ring r).cqHead).toNat }).flush r :=
  (if_neg (by simp [h])).trans ((if_neg (by omega)).trans (if_neg hn.not_gt))

/-- Settles O22: each access reaches the register at its offset, and each branch of a register's write is one of the
equations above. That violation 4 resets no other field of the ring is the model's choice (log entry 29). -/
theorem registerWindowCommands : Obligations.RegisterWindowCommands := by
  refine ⟨?intMask, ?bases, ?readOnly, ?intStatus, ?violations, ?timeBase, ?baseReads, ?beforeLive, ?disable, ?enable,
    ?enableViolation, ?sqTail, ?sqTailRange, ?sqTailDisabled, ?cqHead, ?cqHeadPast, ?cqHeadRange, ?cqHeadDisabled⟩
  case intMask =>
    exact fun fn v s hf hl => event_eq (State.bar0_write_live v hf rfl hl)
  case bases =>
    intro fn k v s hf hk hl
    exact ⟨exec_registerWrite_ring (o := 0) v hf hk (by decide) rfl hl,
      exec_registerWrite_ring (o := 4) v hf hk (by decide) rfl hl,
      exec_registerWrite_ring (o := 8) v hf hk (by decide) rfl hl,
      exec_registerWrite_ring (o := 12) v hf hk (by decide) rfl hl⟩
  case readOnly =>
    intro fn off v s ho h1 h2
    refine event_eq ?_
    obtain h | ⟨-, h⟩ := s.bar0_write_cases fn off v
    · exact h
    · exact h.trans (State.bar0Write_of_readonly v ho h1 h2)
  case intStatus =>
    exact fun fn v s hf hl => event_eq (State.bar0_write_live v hf rfl hl)
  case violations =>
    exact fun fn s hf hl => event_eq (State.bar0_read_live hf rfl hl)
  case timeBase =>
    exact fun fn s hf hl =>
      ⟨event_eq (State.bar0_read_live hf rfl hl), event_eq (State.bar0_read_live hf rfl hl)⟩
  case baseReads =>
    intro fn k s hf hk hl
    exact ⟨exec_registerRead_ring (o := 0) hf hk (by decide) rfl hl,
      exec_registerRead_ring (o := 8) hf hk (by decide) rfl hl⟩
  case beforeLive =>
    intro fn off v s hl
    obtain ⟨hread, hwrite⟩ := State.bar0_of_not_live fn off hl
    exact ⟨event_eq hread, event_eq (hwrite v)⟩
  case disable =>
    intro ring v s hr hl hv
    rw [exec_enableWrite_live v hr hl, hv, State.enableRing_off]
  case enable =>
    intro ring v s hr hl s1 hv hb
    rw [exec_enableWrite_live v hr hl, hv, State.enableRing_with_bases hb]
  case enableViolation =>
    intro ring v s hr hl s1 hv hb
    rw [exec_enableWrite_live v hr hl, hv, State.enableRing_without_base hb]
  case sqTail =>
    intro ring v s hr hl he hv
    rw [exec_sqTail_live v hr hl, State.ringSqTail_of_lt he hv]
  case sqTailRange =>
    intro ring v s hr hl he hv
    rw [exec_sqTail_live v hr hl, State.ringSqTail_of_range he hv]
  case sqTailDisabled =>
    intro ring v s hr hl he
    rw [exec_sqTail_live v hr hl, State.ringSqTail_of_disabled v he]
  case cqHead =>
    intro ring v s hr hl he hv g n hn
    rw [exec_cqHead_live v hr hl, State.ringCqHead_of_le he hv hn]
  case cqHeadPast =>
    intro ring v s hr hl he hv g hn
    rw [exec_cqHead_live v hr hl, State.ringCqHead_of_past he hv hn]
  case cqHeadRange =>
    intro ring v s hr hl he hv
    rw [exec_cqHead_live v hr hl, State.ringCqHead_of_range he hv]
  case cqHeadDisabled =>
    intro ring v s hr hl he
    rw [exec_cqHead_live v hr hl, State.ringCqHead_of_disabled v he]

end Sys2Proof.Machine
end

section
/-! Frames, where nothing waits: what a write and a read of the register window, a doorbell and an instruction of the
test access port leave unchanged (R47, R53, R501). -/

namespace Sys2Proof.Machine

/-- An event with a quiet effect answers that effect alone. -/
theorem eq_of_event_of_quiet {u t : State} (h : event u = .next t) (hu : u.quiet = true) : t = u := by
  rw [event, quietStateSettlesToItself u hu] at h
  cases h
  rfl

/-! ### Functions and rings after an update -/

/-- A ring after one ring was written. -/
theorem State.setRing_ring (s : State) (r q : Nat) (v : Ring) :
    (s.setRing r v).ring q = if q = r then v else s.ring q := by
  split
  · next h => exact h ▸ tgetD_tputD_same Ring.reset s.rings q v
  · next h => exact tgetD_tputD_other Ring.reset s.rings v h

/-- The ring just changed. -/
theorem State.modRing_ring_same (s : State) (r : Nat) (g : Ring → Ring) : (s.modRing r g).ring r = g (s.ring r) :=
  tgetD_tputD_same Ring.reset s.rings r _

/-- Another ring than the one just changed. -/
theorem State.modRing_ring_other (s : State) {r q : Nat} (g : Ring → Ring) (h : q ≠ r) :
    (s.modRing r g).ring q = s.ring q :=
  tgetD_tputD_other Ring.reset s.rings _ h

/-- Another function than the one just changed. -/
theorem State.modFn_fn_other (s : State) {f k : Nat} (g : Fn → Fn) (h : k ≠ f) : (s.modFn f g).fn k = s.fn k :=
  tgetD_tputD_other Fn.reset s.fns _ h

/-! ### Writes -/

/-- A change of one function and of its own rings alone. -/
def WriteFrame (f : Nat) (s t : State) : Prop :=
  t = { s with fns := t.fns, rings := t.rings } ∧ (∀ k, k ≠ f → t.fn k = s.fn k) ∧
    ∀ r, r < 288 → ringFn r ≠ f → t.ring r = s.ring r

/-- Nothing changes. -/
theorem WriteFrame.refl (f : Nat) (s : State) : WriteFrame f s s := ⟨rfl, fun _ _ => rfl, fun _ _ _ => rfl⟩

/-- The function changes. -/
theorem WriteFrame.modFn (f : Nat) (s : State) (g : Fn → Fn) : WriteFrame f s (s.modFn f g) :=
  ⟨rfl, fun _ h => s.modFn_fn_other g h, fun _ _ _ => rfl⟩

/-- A ring of the function changes. -/
theorem WriteFrame.modRing {f r : Nat} (s : State) (g : Ring → Ring) (h : ringFn r = f) :
    WriteFrame f s (s.modRing r g) :=
  ⟨rfl, fun _ _ => rfl, fun _ _ hq => s.modRing_ring_other g fun e => hq (e ▸ h)⟩

/-- Whether nothing waits does not depend on functions and rings. -/
theorem WriteFrame.quiet {f : Nat} {s t : State} (h : WriteFrame f s t) : t.quiet = s.quiet :=
  (congrArg State.quiet h.1).trans rfl

/-- The registers of a ring below ENABLE are plain fields of the ring. -/
theorem State.ringWrite_base_cases (s : State) (r : Nat) {o : Nat} (v : BitVec 32) (h : o < 0x10) :
    s.ringWrite r o v = s ∨ ∃ g, s.ringWrite r o v = s.modRing r g := by
  unfold State.ringWrite
  split_ifs
  · exact .inr ⟨_, rfl⟩
  · exact .inr ⟨_, rfl⟩
  · exact .inr ⟨_, rfl⟩
  · exact .inr ⟨_, rfl⟩
  · omega
  · omega
  · omega
  · exact .inl rfl

/-- A write of a register without behaviour of its own changes its function and its rings alone. -/
theorem State.bar0Write_frame (s : State) {f off : Nat} (v : BitVec 32) (hf : f ≤ 8)
    (ho : off < 0x1000 ∨ (off - 0x1000) % 64 < 0x10) : WriteFrame f s (s.bar0Write f off v) := by
  by_cases hring : 0x1000 ≤ off ∧ off < 0x1800
  · rw [State.bar0Write_rings v hring.1 hring.2]
    obtain h | ⟨g, h⟩ := s.ringWrite_base_cases (ringOf f ((off - 0x1000) / 64)) v
      (show (off - 0x1000) % 64 < 0x10 by omega)
    · rw [h]
      exact WriteFrame.refl f s
    · rw [h]
      exact WriteFrame.modRing s g (ringFn_ringOf hf (by omega))
  · unfold State.bar0Write
    split
    · exact WriteFrame.modFn f s _
    split
    · exact WriteFrame.modFn f s _
    rw [if_neg (by simpa using hring)]
    exact WriteFrame.refl f s

/-! ### Reads -/

/-- A change of one function, and an answer. -/
def ReadFrame (f : Nat) (s t : State) : Prop :=
  t = { s with fns := t.fns, out := t.out } ∧ ∀ k, k ≠ f → t.fn k = s.fn k

/-- A word is answered. -/
theorem ReadFrame.readOutWord (f : Nat) (s : State) (v : BitVec 32) : ReadFrame f s (s.readOutWord v) :=
  ⟨rfl, fun _ _ => rfl⟩

/-- The function changes and a word is answered. -/
theorem ReadFrame.modFn (f : Nat) (s : State) (g : Fn → Fn) (v : BitVec 32) :
    ReadFrame f s ((s.modFn f g).readOutWord v) :=
  ⟨rfl, fun _ h => s.modFn_fn_other g h⟩

/-- Whether nothing waits does not depend on functions and answers. -/
theorem ReadFrame.quiet {f : Nat} {s t : State} (h : ReadFrame f s t) : t.quiet = s.quiet :=
  (congrArg State.quiet h.1).trans rfl

/-- A read of half a 64-bit register changes the function's latch and answers. -/
theorem ReadFrame.read64 (f : Nat) (s : State) (hi : Bool) (v : BitVec 64) : ReadFrame f s (s.read64 f hi v) := by
  cases hi
  · exact ReadFrame.modFn f s _ _
  · exact ReadFrame.readOutWord f s _

/-- A choice of reads. -/
theorem ReadFrame.ite {f : Nat} {s a b : State} {c : Prop} [Decidable c] (ha : ReadFrame f s a)
    (hb : ReadFrame f s b) : ReadFrame f s (if c then a else b) := by
  split
  · exact ha
  · exact hb

/-- A read of a register of a ring changes the function's latch and answers. -/
theorem State.ringRead_frame (s : State) (f : Nat) (g : Ring) (o : Nat) : ReadFrame f s (s.ringRead f g o) := by
  unfold State.ringRead
  refine ReadFrame.ite (ReadFrame.read64 f s _ _) (ReadFrame.ite (ReadFrame.read64 f s _ _) ?_)
  refine ReadFrame.ite (ReadFrame.read64 f s _ _) (ReadFrame.ite (ReadFrame.read64 f s _ _) ?_)
  refine ReadFrame.ite (ReadFrame.readOutWord f s _) (ReadFrame.ite (ReadFrame.readOutWord f s _) ?_)
  exact ReadFrame.ite (ReadFrame.readOutWord f s _) (ReadFrame.readOutWord f s _)

/-- A read of any register but RETRY_AFTER changes its function and answers. -/
theorem State.bar0Read_frame (s : State) (f : Nat) {off : Nat} (ho : off ≠ 8) : ReadFrame f s (s.bar0Read f off) := by
  by_cases hring : 0x1000 ≤ off ∧ off < 0x1800
  · rw [State.bar0Read_rings hring.1 hring.2]
    exact s.ringRead_frame f _ _
  · unfold State.bar0Read
    rw [if_neg ho, if_neg (c := (0x1000 ≤ off && off < 0x1800) = true) (by simpa using hring)]
    refine ReadFrame.ite (ReadFrame.readOutWord f s _) (ReadFrame.ite (ReadFrame.readOutWord f s _) ?_)
    refine ReadFrame.ite (ReadFrame.read64 f s _ _) (ReadFrame.ite (ReadFrame.read64 f s _ _) ?_)
    refine ReadFrame.ite (ReadFrame.readOutWord f s _) (ReadFrame.ite (ReadFrame.readOutWord f s _) ?_)
    exact ReadFrame.ite (ReadFrame.modFn f s _ _) (ReadFrame.readOutWord f s _)

/-- An access that reads changes its function and answers, whether the window is live or not. -/
theorem State.bar0_read_frame (s : State) (f : Nat) {off : Nat} (ho : off ≠ 8) : ReadFrame f s (s.bar0 f off none) := by
  obtain h | h := s.bar0_read_cases f off
  · rw [h]
    exact ReadFrame.readOutWord f s _
  · rw [h]
    exact s.bar0Read_frame f ho

/-! ### The test access port -/

/-- Every instruction of the test access port changes the port. -/
theorem exec_tap_cases {c : Instr} {pins : List Bool} {pre : Option (List Bool)} (s : State)
    (hc : c ∈ [.tapReset, .idcode, .samplePreload pins pre, .extest pins, .extestPulse pins, .extestTrain pins, .clamp,
      .highz, .bypass]) : ∃ f, exec c s = event (s.modTap f) := by
  simp only [List.mem_cons, List.not_mem_nil, or_false] at hc
  rcases hc with rfl | rfl | rfl | rfl | rfl | rfl | rfl | rfl | rfl <;> exact ⟨_, rfl⟩

/-- Settles O9: the effect of each access has its frame, in which nothing waits either, so nothing follows it. -/
theorem registerAndTestPortFrames : Obligations.RegisterAndTestPortFrames := by
  refine ⟨?write, ?violations, ?read, ?sqTail, ?tap⟩
  case write =>
    intro fn off v s t hq ho ht
    have hframe : WriteFrame fn s (s.bar0 fn off (some v)) := by
      obtain h | ⟨hf, h⟩ := s.bar0_write_cases fn off v
      · rw [h]
        exact WriteFrame.refl fn s
      · rw [h]
        exact s.bar0Write_frame v hf ho
    exact eq_of_event_of_quiet ht (hframe.quiet.trans hq) ▸ hframe
  case violations =>
    intro fn s t hq ht
    have hframe := s.bar0_read_frame fn (off := 0x20) (by decide)
    exact eq_of_event_of_quiet ht (hframe.quiet.trans hq) ▸ hframe
  case read =>
    intro fn off s t hq ho ht
    have hframe := s.bar0_read_frame fn ho
    exact eq_of_event_of_quiet ht (hframe.quiet.trans hq) ▸ hframe
  case sqTail =>
    intro r v s t hq hr he hv ht
    have hcases : s.bar0 (ringFn r) (ringOff r 0x14) (some v) = s ∨
        s.bar0 (ringFn r) (ringOff r 0x14) (some v) = s.modRing r fun g => { g with sqTail := v.truncate 8 } := by
      refine (s.bar0_write_cases (ringFn r) (ringOff r 0x14) v).imp id fun ⟨_, h⟩ => h.trans ?_
      rw [ringOff, State.bar0Write_ring v (ringK_lt r) (by decide), ringOf_ringFn hr]
      exact State.ringSqTail_of_lt he hv
    have hrun : exec (.sqTail r v) s = event (s.bar0 (ringFn r) (ringOff r 0x14) (some v)) :=
      congrArg event (if_pos hr)
    obtain h | h := hcases
    · rw [hrun, h] at ht
      rw [eq_of_event_of_quiet ht hq]
      exact ⟨rfl, fun _ _ => rfl, rfl⟩
    · rw [hrun, h] at ht
      rw [eq_of_event_of_quiet ht hq]
      exact ⟨rfl, fun q hne => s.modRing_ring_other _ hne, by rw [s.modRing_ring_same]⟩
  case tap =>
    intro c pins pre s t hq hc ht
    obtain ⟨f, hf⟩ := exec_tap_cases s hc
    rw [hf] at ht
    rw [eq_of_event_of_quiet ht hq]
    rfl

end Sys2Proof.Machine
end

section
/-! The order of dispatch (R58): what a record that may start says of the earlier records of its ring, and why the
records of other rings do not matter to it. -/

namespace Sys2Proof.Machine

/-- A record that may start is the accepted one of its WORK_ID, and no earlier record of its ring stands before it. -/
theorem State.startable_eq_some {s : State} {op : Nat} {w : BitVec 64} {j : JRec} (h : s.startable op w = some j) :
    (s.journal.find? fun j => j.wid = w && j.state = .accepted && j.opcode.toNat = op) = some j ∧
      (s.journal.any fun q => q.ring = j.ring && q.ser < j.ser &&
        (q.state = .accepted || (j.fence && q.state != .done))) = false := by
  unfold State.startable at h
  split at h
  · cases h
  · split at h
    · cases h
    · rename_i k hk
      split at h
      · cases h
      · split at h
        · cases h
        · rename_i hany
          cases h
          exact ⟨hk, Bool.eq_false_iff.2 hany⟩

/-- The state with the records of the rings other than `r` at other states. -/
def State.withOthers (s : State) (r : Nat) (st : JRec → JState) : State :=
  { s with journal := s.journal.map fun (q : JRec) => if q.ring = r then q else { q with state := st q } }

/-- A test of a record that holds of records of ring `r` alone, at any state of the others, picks the same record. -/
theorem find?_others {l : List JRec} {r : Nat} {st : JRec → JState} {p : JRec → Bool}
    (h : ∀ q ∈ l, q.ring ≠ r → p q = false ∧ p { q with state := st q } = false) :
    (l.map fun (q : JRec) => if q.ring = r then q else { q with state := st q }).find? p = l.find? p := by
  induction l with
  | nil => rfl
  | cons q l ih =>
    have hl := ih fun x hx => h x (List.mem_cons_of_mem q hx)
    rw [List.map_cons, List.find?_cons, List.find?_cons, hl]
    by_cases hq : q.ring = r
    · rw [if_pos hq]
    · obtain ⟨hp, hp'⟩ := h q List.mem_cons_self hq
      rw [if_neg hq, hp, hp']

/-- A test of a record that holds of records of ring `r` alone, at any state of the others, holds of one of them or of
none. -/
theorem any_others {l : List JRec} {r : Nat} {st : JRec → JState} {p : JRec → Bool}
    (h : ∀ q ∈ l, q.ring ≠ r → p q = false ∧ p { q with state := st q } = false) :
    (l.map fun (q : JRec) => if q.ring = r then q else { q with state := st q }).any p = l.any p := by
  rw [← List.isSome_find?, ← List.isSome_find?, find?_others h]

/-- Whether a record may start does not depend on how far the records of other rings have come. -/
theorem State.withOthers_startable {s : State} {op r : Nat} {w : BitVec 64} {st : JRec → JState}
    (h : ∀ q ∈ s.journal, q.wid = w → q.ring = r) : (s.withOthers r st).startable op w = s.startable op w := by
  have hfind : ((s.withOthers r st).journal.find? fun j => j.wid = w && j.state = .accepted && j.opcode.toNat = op) =
      s.journal.find? fun j => j.wid = w && j.state = .accepted && j.opcode.toNat = op := by
    refine find?_others fun q hq hr => ?_
    have hw : q.wid ≠ w := fun e => hr (h q hq e)
    simp [hw]
  have hany : ∀ j : JRec, j.ring = r →
      ((s.withOthers r st).journal.any fun q => q.ring = j.ring && q.ser < j.ser &&
        (q.state = .accepted || (j.fence && q.state != .done))) =
      s.journal.any fun q => q.ring = j.ring && q.ser < j.ser &&
        (q.state = .accepted || (j.fence && q.state != .done)) := by
    intro j hj
    refine any_others fun q _ hr => ?_
    simp [hj, hr]
  unfold State.startable
  rw [hfind]
  cases hf : s.journal.find? fun j => j.wid = w && j.state = .accepted && j.opcode.toNat = op with
  | none => rfl
  | some j =>
    have hw := List.find?_some hf
    simp only [Bool.and_eq_true, decide_eq_true_eq, and_assoc] at hw
    simp only [hany j (h j (List.mem_of_find?_eq_some hf) hw.1)]
    rfl

/-- Settles O12: a record that may start has passed the check of the earlier records of its ring, that check reads no
record of another ring, and a record that may not start is left alone. That dispatching one changes nothing is the
model's choice (log entry 4), and so is that the sender of the commands chooses among the rings (log entry 19). -/
theorem dispatchOrder : Obligations.DispatchOrder := by
  refine ⟨?order, fun s op w hm body h => run_none h, ?others⟩
  case order =>
    intro s op w j hj q hq hring hser
    have hnone := List.any_eq_false.1 (State.startable_eq_some hj).2 q hq
    simp only [hring, hser, decide_true, Bool.true_and, Bool.or_eq_true, decide_eq_true_eq, Bool.and_eq_true,
      bne_iff_ne, not_or, not_and, not_not] at hnone
    exact hnone
  case others =>
    exact fun s op r w st h => State.withOthers_startable h

end Sys2Proof.Machine
end

section
/-! The arrival of a fetched slot (R54, R73): its effect in each case, what a completion leaves unchanged, and why a
rejected slot leaves no trace. -/

namespace Sys2Proof.Machine

/-! ### The cases of an arrival -/

/-- The state in which the fetched item of a ring carries the header of its slot. -/
def State.headed (s : State) (r : Nat) (i : RItem) (b : List Byte) : State :=
  s.modItem r i.ser fun x =>
    { x with arrived := true, wid := (slotHeader b).wid, seq := (slotHeader b).seq,
             opcode := BitVec.ofNat 16 (slotHeader b).op }

/-- The state in which the indirect payload of a slot is being read. -/
def State.readPayload (s : State) (r : Nat) (b : List Byte) : State :=
  s.readHost { fn := ringFn r, addr := BitVec.ofNat 64 (slotHeader b).addr, len := (slotHeader b).len }

section
variable {s : State} {r : Nat} {i : RItem} {b : List Byte} {payload : Option (List Byte)}
  (hi : ((s.ring r).fifo.find? fun i => !i.arrived) = some i)
include hi

/-- A fetch that failed is violation 5. -/
theorem State.arriveSlot_failed : s.arriveSlot r none payload =
    (s.countViolation r 5).finishItem r i.ser stHostProtocol 0#64 5#32 true := by
  rw [State.arriveSlot, hi]

/-- While Iluvo does not run, the hardware answers with its hint. -/
theorem State.arriveSlot_not_running (hrun : (!s.part.pstate.running) = true) : s.arriveSlot r (some b) payload =
    (s.headed r i b).hwHint.2.finishItem r i.ser stNotReady 0#64 (BitVec.ofNat 32 (s.headed r i b).hwHint.1) true := by
  rw [State.arriveSlot, hi]
  exact if_pos hrun

/-- A header that fails a check finishes the slot with that check's status. -/
theorem State.arriveSlot_rejected {e : BitVec 16 × Nat} (hrun : s.part.pstate.running = true)
    (he : (s.headed r i b).headerCheck r (slotHeader b) = some e) : s.arriveSlot r (some b) payload =
      (s.headed r i b).finishItem r i.ser e.1 0#64 (fixDetail e.1 (BitVec.ofNat 32 e.2)) false := by
  have hstop : ¬(!s.part.pstate.running) = true := by simp [hrun]
  rw [State.arriveSlot, hi]
  refine (if_neg hstop).trans ?_
  show (match (s.headed r i b).headerCheck r (slotHeader b) with | some e => _ | none => _) = _
  rw [he]
  rfl

/-- A header that passes every check: its payload is read, or stands in the slot. -/
theorem State.arriveSlot_passed (hrun : s.part.pstate.running = true)
    (he : (s.headed r i b).headerCheck r (slotHeader b) = none) : s.arriveSlot r (some b) payload =
      if (slotHeader b).indirect then
        match payload with
        | none => ((((s.headed r i b).readPayload r b).modItem r i.ser fun x =>
            { x with wid := 0#64, seq := 0#32, opcode := 0#16 }).countViolation r 5).finishItem r i.ser stHostProtocol
              0#64 5#32 true
        | some p => ((s.headed r i b).readPayload r b).accept r i.ser (slotHeader b) (slice p 0 (slotHeader b).len)
            ((slice b 32 96).any fun x => x != 0#8)
      else (s.headed r i b).accept r i.ser (slotHeader b) (slice b 32 (slotHeader b).len)
        ((slice b (32 + (slotHeader b).len) (96 - (slotHeader b).len)).any fun x => x != 0#8) := by
  have hstop : ¬(!s.part.pstate.running) = true := by simp [hrun]
  rw [State.arriveSlot, hi]
  refine (if_neg hstop).trans ?_
  show (match (s.headed r i b).headerCheck r (slotHeader b) with | some e => _ | none => _) = _
  rw [he]
  rfl

end

/-! ### What a completion leaves unchanged -/

/-- A change of rings, functions, journal and answers in which every ring keeps its expected sequence number and its
last work identifier, and no record is added to the journal. -/
structure CompletionFrame (s t : State) : Prop where
  /-- the other fields stay -/
  rest : t = { s with rings := t.rings, fns := t.fns, journal := t.journal, out := t.out }
  /-- expected sequence numbers stay -/
  seq : ∀ r, (t.ring r).expectSeq = (s.ring r).expectSeq
  /-- last work identifiers stay -/
  wid : ∀ r, (t.ring r).lastWid = (s.ring r).lastWid
  /-- no record is added -/
  journal : ∀ j ∈ t.journal, j ∈ s.journal

/-- Nothing changes. -/
theorem CompletionFrame.refl (s : State) : CompletionFrame s s := ⟨rfl, fun _ => rfl, fun _ => rfl, fun _ => id⟩

section
variable {s t : State} (h : CompletionFrame s t)
include h

/-- One change after another. -/
theorem CompletionFrame.trans {u : State} (g : CompletionFrame t u) : CompletionFrame s u :=
  ⟨by rw [g.rest, h.rest], fun r => (g.seq r).trans (h.seq r), fun r => (g.wid r).trans (h.wid r),
    fun j hj => h.journal j (g.journal j hj)⟩

/-- Then a function changes. -/
theorem CompletionFrame.modFn (f : Nat) (g : Fn → Fn) : CompletionFrame s (t.modFn f g) :=
  h.trans ⟨rfl, fun _ => rfl, fun _ => rfl, fun _ => id⟩

/-- Then a ring changes that keeps both numbers. -/
theorem CompletionFrame.setRing {r : Nat} {v : Ring} (hs : v.expectSeq = (t.ring r).expectSeq)
    (hw : v.lastWid = (t.ring r).lastWid) : CompletionFrame s (t.setRing r v) := by
  refine h.trans ⟨rfl, fun q => ?_, fun q => ?_, fun _ => id⟩
  · rw [State.setRing_ring]
    split
    · next e => rw [hs, e]
    · rfl
  · rw [State.setRing_ring]
    split
    · next e => rw [hw, e]
    · rfl

/-- Then a ring changes in a way that keeps both numbers of any ring. -/
theorem CompletionFrame.modRing (r : Nat) {g : Ring → Ring}
    (hg : ∀ x, (g x).expectSeq = x.expectSeq ∧ (g x).lastWid = x.lastWid) : CompletionFrame s (t.modRing r g) :=
  h.setRing (hg _).1 (hg _).2

/-- Then records leave the journal, and something is answered. -/
theorem CompletionFrame.answer (p : JRec → Bool) (o : Out) :
    CompletionFrame s { t with journal := t.journal.filter p, out := o } :=
  h.trans ⟨rfl, fun _ => rfl, fun _ => rfl, fun _ hj => (List.mem_filter.1 hj).1⟩

/-- Then the entry of a completion is written. -/
theorem CompletionFrame.writeCq (r : Nat) (i : RItem) : CompletionFrame s (t.writeCq r i) := by
  refine CompletionFrame.answer (CompletionFrame.modFn (CompletionFrame.setRing h ?_ ?_) _ _) _ _
  · rfl
  · rfl

/-- Then finished slots of a settled ring are stored. -/
theorem CompletionFrame.storeSettled (r : Nat) : CompletionFrame s (t.storeSettled r) := by
  unfold State.storeSettled
  extract_lets done
  split
  · exact h
  · exact (h.modRing r (by exact fun _ => ⟨rfl, rfl⟩)).modFn _ _

end

/-- Then finished completions of a ring are written. -/
theorem CompletionFrame.writeLoop {s t : State} (h : CompletionFrame s t) (r : Nat) (l : List RItem) :
    CompletionFrame s (State.writeLoop r l t) := by
  induction l generalizing t with
  | nil => exact h.modRing r fun _ => ⟨rfl, rfl⟩
  | cons i l ih =>
    unfold State.writeLoop
    split
    · exact ih h
    split
    · exact h.modRing r fun _ => ⟨rfl, rfl⟩
    split
    · exact h.modRing r fun _ => ⟨rfl, rfl⟩
    · exact ih (h.writeCq r i)

/-- Then a fetched slot gets its outcome. -/
theorem CompletionFrame.finishItem {s t : State} (h : CompletionFrame s t) (r ser : Nat) (st : BitVec 16)
    (res : BitVec 64) (det : BitVec 32) (hw : Bool) : CompletionFrame s (t.finishItem r ser st res det hw) :=
  ((h.modRing r (by exact fun _ => ⟨rfl, rfl⟩)).storeSettled r).writeLoop r _

/-- Whether nothing waits does not depend on rings, functions, journal and answers. -/
theorem CompletionFrame.quiet {s t : State} (h : CompletionFrame s t) : t.quiet = s.quiet :=
  (congrArg State.quiet h.rest).trans rfl

/-- Settles O13: the slot is finished with the status of its check, which changes rings, functions, journal and answers
alone, and nothing follows. -/
theorem rejectedSlotLeavesNoTrace : Obligations.RejectedSlotLeavesNoTrace := by
  intro r b payload s t i e hq hi hrun h s1 he ht
  have hframe : CompletionFrame s (if r < 288 then s.arriveSlot r (some b) payload else s) := by
    split
    · rw [State.arriveSlot_rejected hi hrun he]
      exact ((CompletionFrame.refl s).modRing r (by exact fun _ => ⟨rfl, rfl⟩)).finishItem r _ _ _ _ _
    · exact CompletionFrame.refl s
  rw [eq_of_event_of_quiet ht (hframe.quiet.trans hq)]
  exact ⟨(congrArg State.accepts hframe.rest).trans rfl, hframe.seq r, hframe.wid r, hframe.journal,
    (congrArg State.tasks hframe.rest).trans rfl, (congrArg State.mem hframe.rest).trans rfl⟩

end Sys2Proof.Machine
end

section
/-! Sessions, cancellation and outcomes (R61 to R69, R75, R77): the branches of a SESSION_OPEN and of a CMD_CANCEL,
which both levels share, and the effects of the session commands. -/

namespace Sys2Proof.Machine

/-! ### The branches of a SESSION_OPEN (R61, R62) -/

/-- The live nonce that a SESSION_OPEN names. -/
def State.openNonce (s : State) (c : Cmd) : Option Nonce :=
  ((s.countOpen c.fn).fn c.fn).nonces.find? fun n =>
    n.handle = BitVec.ofNat 32 (c.u32 0) && (s.countOpen c.fn).t ≤ n.issued + 10 * secNs

/-- The state in which the nonce that a SESSION_OPEN names is used up. -/
def State.useNonce (s : State) (c : Cmd) : State :=
  (s.countOpen c.fn).modFn c.fn fun x =>
    { x with nonces := x.nonces.filter fun q => q.handle != BitVec.ofNat 32 (c.u32 0) }

section
variable {s : State} {c : Cmd} {mask : BitVec 32}

/-- A mask without ring 0 is a bad parameter. -/
theorem State.sessionOpen_without_ring0 (hm : (!mask.getLsbD 0) = true) :
    s.sessionOpen c mask = (s.countOpen c.fn).complete c.w stBadParam := if_pos hm

variable (hm : mask.getLsbD 0 = true)
include hm

/-- The opening of a locked function fails. -/
theorem State.sessionOpen_locked (hl : ((s.countOpen c.fn).fn c.fn).lockedUntil.isSome = true) :
    s.sessionOpen c mask = (s.countOpen c.fn).complete c.w stAuthLocked :=
  (if_neg (by simp [hm])).trans (if_pos hl)

variable (hl : ¬((s.countOpen c.fn).fn c.fn).lockedUntil.isSome = true)
include hl

/-- A function that has a session opens none beside it. -/
theorem State.sessionOpen_exists (hs : ((s.countOpen c.fn).fn c.fn).session.isSome = true) :
    s.sessionOpen c mask = (s.countOpen c.fn).complete c.w stSessionExists :=
  (if_neg (by simp [hm])).trans ((if_neg hl).trans (if_pos hs))

variable (hs : ¬((s.countOpen c.fn).fn c.fn).session.isSome = true)
include hs

/-- A function that has used up its session numbers opens none. -/
theorem State.sessionOpen_exhausted (ho : ((s.countOpen c.fn).fn c.fn).openings = 0xFFFFFFF#28) :
    s.sessionOpen c mask = (s.countOpen c.fn).complete c.w stQuota :=
  (if_neg (by simp [hm])).trans ((if_neg hl).trans ((if_neg hs).trans (if_pos ho)))

variable (ho : ¬((s.countOpen c.fn).fn c.fn).openings = 0xFFFFFFF#28)
include ho

/-- A nonce that is not live counts as a failed opening. -/
theorem State.sessionOpen_without_nonce (hn : s.openNonce c = none) :
    s.sessionOpen c mask = ((s.countOpen c.fn).authFailed c.fn).complete c.w stNonceExpired := by
  refine (if_neg (by simp [hm])).trans ((if_neg hl).trans ((if_neg hs).trans ((if_neg ho).trans ?_)))
  show (match s.openNonce c with | none => _ | some n => _) = _
  rw [hn]

/-- With a live nonce, the opening depends on the function's key and the tag. -/
theorem State.sessionOpen_with_nonce {n : Nonce} (hn : s.openNonce c = some n) : s.sessionOpen c mask =
    match (s.useNonce c).sessionKey c.fn with
    | none => ((s.useNonce c).authFailed c.fn).complete c.w stAuthFailed
    | some key =>
      if hmac384 key (n.value ++ [BitVec.ofNat 8 c.fn] ++ slice c.p 4 4) = slice c.p 8 48 then
        (s.useNonce c).openSession c n (BitVec.ofNat 32 (c.u32 4)) mask
      else ((s.useNonce c).authFailed c.fn).complete c.w stAuthFailed := by
  refine (if_neg (by simp [hm])).trans ((if_neg hl).trans ((if_neg hs).trans ((if_neg ho).trans ?_)))
  show (match s.openNonce c with | none => _ | some n => _) = _
  rw [hn]
  rfl

variable {n : Nonce} (hn : s.openNonce c = some n)
include hn

/-- A function without a key fails to open. -/
theorem State.sessionOpen_without_key (hk : (s.useNonce c).sessionKey c.fn = none) :
    s.sessionOpen c mask = ((s.useNonce c).authFailed c.fn).complete c.w stAuthFailed := by
  rw [State.sessionOpen_with_nonce hm hl hs ho hn, hk]

variable {key : List Byte} (hk : (s.useNonce c).sessionKey c.fn = some key)
include hk

/-- The right tag opens the session. -/
theorem State.sessionOpen_opened
    (ht : hmac384 key (n.value ++ [BitVec.ofNat 8 c.fn] ++ slice c.p 4 4) = slice c.p 8 48) :
    s.sessionOpen c mask = (s.useNonce c).openSession c n (BitVec.ofNat 32 (c.u32 4)) mask := by
  rw [State.sessionOpen_with_nonce hm hl hs ho hn, hk]
  exact if_pos ht

/-- A wrong tag counts as a failed opening. -/
theorem State.sessionOpen_wrong_tag
    (ht : ¬hmac384 key (n.value ++ [BitVec.ofNat 8 c.fn] ++ slice c.p 4 4) = slice c.p 8 48) :
    s.sessionOpen c mask = ((s.useNonce c).authFailed c.fn).complete c.w stAuthFailed := by
  rw [State.sessionOpen_with_nonce hm hl hs ho hn, hk]
  exact if_neg ht

end

/-! ### The other commands -/

/-- A ready command whose body succeeds answers the state that an equation gives for it. -/
theorem run_of_ok {s t u : State} {op : Nat} {w : BitVec 64} {hm : HostImage} {c : Cmd}
    {body : Cmd → State → Except Err State} (h : s.ready op w hm = some c) (hb : body c (s.markDispatched w) = .ok t)
    (ht : t = u) : run op w hm s body = .next u.settle := ht ▸ run_ok h hb

/-- A target that the session took and that still waits for its dispatch is cancelled (Table 2-9). -/
theorem State.cmdCancel_accepted {s : State} {c : Cmd} {expert : Bool} {e : BitVec 64 × BitVec 16 × BitVec 32}
    (he : ((s.fn c.fn).session.bind fun q => q.took.find? fun e => e.1 = BitVec.ofNat 64 (c.u64 0)) = some e)
    (hop : ¬(e.2.1 = 0x0005#16 || e.2.1 = 0x0085#16) = true)
    (hj : (s.journal.any fun j => j.wid = BitVec.ofNat 64 (c.u64 0) && j.state = .accepted) = true) :
    s.cmdCancel c expert = .ok ((s.complete (BitVec.ofNat 64 (c.u64 0)) stCancelled).ok c
      (if expert then e.2.2.toNat + (BitVec.ofNat 64 (c.u64 0)).toNat / 2 ^ 55 * 2 ^ 32 else 0)) := by
  simp only [State.cmdCancel, he]
  exact (if_neg hop).trans (if_pos hj)

/-- The delay of a NOP that has run out completes it. -/
theorem exec_nopDelayExpiry_of_wait {s : State} {w : BitVec 64} {x : Wait} {due : Nat}
    (hx : (s.waits.find? fun x => x.wid = w) = some x) (hk : x.kind = .nop due) :
    exec (.nopDelayExpiry w) s = .next (((s.reach due).complete w stOk).settle) := by
  refine event_eq ?_
  rw [hx]
  show (match x.kind with | .nop due => _ | _ => _) = _
  rw [hk]

/-- Settles O24: each command is ready and its body succeeds; of a SESSION_OPEN each branch is one of the equations above,
for both levels. The order of its checks is the model's choice (log entry 33), and so is the order of outcomes
(log entry 55). -/
theorem sessionCommands : Obligations.SessionCommands := by
  refine ⟨?identify, ?identifyExpert, ?challenge, ?challengeExpert, ?openLocked, ?openExists, ?openExhausted,
    ?openWithoutNonce, ?openWithoutKey, ?openOpened, ?openWrongTag, ?expertWithoutRing0, ?expertLocked, ?expertExists,
    ?expertExhausted, ?expertWithoutNonce, ?expertWithoutKey, ?expertOpened, ?expertWrongTag, ?close, ?closeExpert,
    ?cancel, ?cancelExpert, ?query, ?queryExpert, ?nop, ?nopExpert, ?nopDelay⟩
  case identify =>
    intro z wid c h s
    exact run_ok h rfl
  case identifyExpert =>
    intro z wid c h s p1 record s1 s2 hw
    exact run_ok h (bind_of hw rfl)
  case challenge =>
    intro z wid c h s expert hl live p1 hh s1 p2 val s2 hd s3 hw s4
    exact run_ok h (need_of hl (bind_of hw rfl))
  case challengeExpert =>
    intro z wid c h s expert hl live p1 hh s1 p2 val s2 hd s3 hw s4
    exact run_ok h (need_of hl (bind_of hw rfl))
  case openLocked =>
    intro z wid c h s s0 mask f s1 hm hl
    exact run_of_ok h rfl (State.sessionOpen_locked hm hl)
  case openExists =>
    intro z wid c h s s0 mask f s1 hm hl hs
    exact run_of_ok h rfl (State.sessionOpen_exists hm hl hs)
  case openExhausted =>
    intro z wid c h s s0 mask f s1 hm hl hs ho
    exact run_of_ok h rfl (State.sessionOpen_exhausted hm hl hs ho)
  case openWithoutNonce =>
    intro z wid c h s s0 mask f s1 hm hl hs ho handle hn
    exact run_of_ok h rfl (State.sessionOpen_without_nonce hm hl hs ho hn)
  case openWithoutKey =>
    intro z wid c h s s0 mask f s1 hm hl hs ho handle n hn s2 hk
    exact run_of_ok h rfl (State.sessionOpen_without_key hm hl hs ho hn hk)
  case openOpened =>
    intro z wid c h s s0 mask f s1 hm hl hs ho handle n' hn n s2 key hk ht
    exact run_of_ok h rfl (State.sessionOpen_opened hm hl hs ho hn hk ht)
  case openWrongTag =>
    intro z wid c h s s0 mask f s1 hm hl hs ho handle n' hn n s2 key hk ht
    exact run_of_ok h rfl (State.sessionOpen_wrong_tag hm hl hs ho hn hk ht)
  case expertWithoutRing0 =>
    intro z wid c h s s0 mask f s1 hm
    exact run_of_ok h rfl (State.sessionOpen_without_ring0 hm)
  case expertLocked =>
    intro z wid c h s s0 mask f s1 hm hl
    exact run_of_ok h rfl (State.sessionOpen_locked hm hl)
  case expertExists =>
    intro z wid c h s s0 mask f s1 hm hl hs
    exact run_of_ok h rfl (State.sessionOpen_exists hm hl hs)
  case expertExhausted =>
    intro z wid c h s s0 mask f s1 hm hl hs ho
    exact run_of_ok h rfl (State.sessionOpen_exhausted hm hl hs ho)
  case expertWithoutNonce =>
    intro z wid c h s s0 mask f s1 hm hl hs ho handle hn
    exact run_of_ok h rfl (State.sessionOpen_without_nonce hm hl hs ho hn)
  case expertWithoutKey =>
    intro z wid c h s s0 mask f s1 hm hl hs ho handle n hn s2 hk
    exact run_of_ok h rfl (State.sessionOpen_without_key hm hl hs ho hn hk)
  case expertOpened =>
    intro z wid c h s s0 mask f s1 hm hl hs ho handle n' hn n s2 key hk ht
    exact run_of_ok h rfl (State.sessionOpen_opened hm hl hs ho hn hk ht)
  case expertWrongTag =>
    intro z wid c h s s0 mask f s1 hm hl hs ho handle n' hn n s2 key hk ht
    exact run_of_ok h rfl (State.sessionOpen_wrong_tag hm hl hs ho hn hk ht)
  case close =>
    intro z wid c h s
    exact run_ok h rfl
  case closeExpert =>
    intro z wid c h s gone s1
    exact run_ok h rfl
  case cancel =>
    intro z wid c h s expert target e' he e res hop hj
    exact run_ok h (State.cmdCancel_accepted he hop hj)
  case cancelExpert =>
    intro z wid c h s expert target e' he e res hop hj
    exact run_ok h (State.cmdCancel_accepted he hop hj)
  case query =>
    intro z wid c h s os det s1 hw
    exact run_ok h (bind_of hw rfl)
  case queryExpert =>
    intro z wid c h s r hr os det s1 hw
    exact run_ok h (need_of hr (bind_of hw rfl))
  case nop =>
    intro z wid c h s
    exact run_ok h rfl
  case nopExpert =>
    intro z wid c h s hd
    exact run_ok h (need_of (decide_eq_true hd) rfl)
  case nopDelay =>
    intro w s x' hx x due hk
    exact exec_nopDelayExpiry_of_wait hx hk

end Sys2Proof.Machine
end

section
/-! Paddocks (R66 to R68, R77 to R79): the branches of a PADDOCK_DESTROY and the effects of the paddock commands. -/

namespace Sys2Proof.Machine

/-- The teams that a PADDOCK_CREATE is given (R67). -/
def State.placedTeams (s : State) (q : PadReq) (n : Nat) : Option (List Nat) :=
  match q.perDie with
  | some ds => placePerDie s.dieOf s.teamsOpen ds
  | none => placeTeams s.dieOf s.teamsOpen n

/-- The paddock that a PADDOCK_CREATE makes: a parameter without a value has its share by the number of teams (R66). -/
def State.newPaddock (s : State) (q : PadReq) (n hbm : Nat) (teams : List Nat) : Paddock :=
  let frac := fun (pool grain : Nat) => n * pool / 320 / grain * grain
  { Paddock.reset with
    teams := teams, hbmQuota := hbm, basinQuota := q.basin.getD (frac 1792 1), nvwQuota := q.nvw.getD 0,
    parkQuota := q.park.getD (frac s.cxl.presentGiB 1), manifestQuota := q.manifest.getD (frac 131072 128),
    traceShare := q.trace.getD (frac 100 1), quayShare := q.quay.getD 0, models := q.models.getD 2,
    adapters := q.adapters.getD 256, errorBudget := q.budget.getD 64,
    xtsKey := (List.range 8).foldl (fun a i => (a <<< 64) ||| (Config.freeWord (s.free + i)).zeroExtend 512) 0#512 }

/-- The state with a paddock added whose XTS key has used eight free values. -/
def State.addPaddock (s : State) (p : Nat) (k : Paddock) : State :=
  { s with free := s.free + 8, paddocks := tput s.paddocks p k }

/-- A PADDOCK_CREATE whose parameters are in range, of a paddock that does not exist, with teams and pools that suffice,
adds the paddock. -/
theorem State.paddockCreate_ok {s : State} {c : Cmd} {q : PadReq} {n hbm : Nat} {teams : List Nat}
    (hn : q.teams = some n) (hq : q.hbm = some hbm) (hr : s.padRanges q n = true)
    (hp : (!thas s.paddocks q.pad) = true) (ht : s.placedTeams q n = some teams)
    (hk : s.poolsOk q.pad (s.newPaddock q n hbm teams) = true) :
    s.paddockCreate c q =
      .ok ((s.addPaddock q.pad (s.newPaddock q n hbm teams)).ok c ((teams[0]?).getD 0) n) := by
  unfold State.paddockCreate
  refine want_of hn (want_of hq (need_of hr (need_of hp ?_)))
  extract_lets
  refine want_of ht ?_
  extract_lets
  exact need_of hk rfl

/-- A paddock with the parameters that a PADDOCK_MODIFY gives; one without a value stays (R68). -/
def Paddock.modified (old : Paddock) (q : PadReq) : Paddock :=
  { old with
    hbmQuota := q.hbm.getD old.hbmQuota, basinQuota := q.basin.getD old.basinQuota,
    nvwQuota := q.nvw.getD old.nvwQuota, parkQuota := q.park.getD old.parkQuota,
    manifestQuota := q.manifest.getD old.manifestQuota, traceShare := q.trace.getD old.traceShare,
    quayShare := q.quay.getD old.quayShare, models := q.models.getD old.models,
    adapters := q.adapters.getD old.adapters, errorBudget := q.budget.getD old.errorBudget }

/-- The state in which a paddock has new parameters and teams: the tasks on the teams that leave are asked to stop, and
suspended tasks that are too wide for the new allotment fail (R68). -/
def State.modifyPaddock (s : State) (q : PadReq) (old : Paddock) (teams gone : List Nat) : State :=
  let k := { old.modified q with teams := teams, leaving := gone.foldl (fun a l => insNat l a) old.leaving }
  let s1 := gone.foldl (fun s l => s.clearTeam l) { s with paddocks := tput s.paddocks q.pad k }
  let tooWide := s1.tasks.filter fun e =>
    e.2.paddock = q.pad && teams.length < e.2.teamsN && (e.2.state = .suspResident || e.2.state = .suspSaved)
  tooWide.foldl (fun s e => s.finishTask e.1 .failed stTeamsExceed 0#32) s1

/-- A PADDOCK_MODIFY of a paddock that exists, whose parameters are in range and hold its use, with teams that suffice,
modifies it and waits for the teams that leave. -/
theorem State.paddockModify_ok {s : State} {c : Cmd} {q : PadReq} {old : Paddock} {teams gone : List Nat}
    (ho : tget s.paddocks q.pad = some old)
    (hr : (s.padRanges q (q.teams.getD old.teams.length) ||
      (q.teams.isNone && q.perDie.isNone && s.padRanges { q with teams := none } 1)) = true)
    (hq : (s.quotasHold q.pad old (old.modified q) && s.poolsOk q.pad (old.modified q)) = true)
    (ht : newTeams s.dieOf s.teamsOpen old.teams (q.teams.getD old.teams.length) q.perDie = some (teams, gone)) :
    s.paddockModify c q = .ok ((s.modifyPaddock q old teams gone).wait c.w (.shrink q.pad)) := by
  unfold State.paddockModify
  refine want_of ho ?_
  extract_lets
  refine need_of hr ?_
  extract_lets
  exact need_of hq (want_of ht rfl)

/-- Whether the record of a command was replayed by a warm reset. -/
def State.replayedRec (s : State) (w : BitVec 64) : Bool := match s.jrec w with | some j => j.replayed | none => false

/-- A replayed PADDOCK_DESTROY of a paddock that has gone is done. -/
theorem State.paddockDestroy_again {s : State} {c : Cmd} (zeroing : Bool) (hp : (!thas s.paddocks (c.u32 0)) = true)
    (ha : s.replayedRec c.w = true) : s.paddockDestroy c zeroing = .ok (s.ok c) :=
  (if_pos hp).trans (if_pos ha)

/-- The state in which a paddock is destroyed. -/
def State.destroyed (s : State) (p : Nat) : State := ((s.closeAway (p + 1)).cancelWork p).releasePaddock p

section
variable {s : State} {c : Cmd} {zeroing : Bool} (hp : thas s.paddocks (c.u32 0) = true)
include hp

/-- A PADDOCK_DESTROY of a paddock that stands destroys it and completes. -/
theorem State.paddockDestroy_at_once (hz : ¬zeroing = true) :
    s.paddockDestroy c zeroing = .ok ((s.destroyed (c.u32 0)).ok c) :=
  (if_neg (by simp [hp])).trans (if_neg hz)

/-- A PADDOCK_DESTROY that zeroes destroys the paddock and waits. -/
theorem State.paddockDestroy_zeroing (hz : zeroing = true) :
    s.paddockDestroy c zeroing = .ok ((s.destroyed (c.u32 0)).wait c.w (.destroyZero (c.u32 0))) :=
  (if_neg (by simp [hp])).trans (if_pos hz)

end

/-- Settles O25: each command is ready, its checks pass one after another, and its body succeeds. What a destruction
ends is the model's choice (log entry 143), and so are the free value of the XTS key (log entry 2) and the teams that an
expert modification removes (log entry 32). -/
theorem paddockCommands : Obligations.PaddockCommands := by
  refine ⟨?create, ?createExpert, ?modify, ?modifyExpert, ?destroyAgain, ?destroy, ?expertAgain, ?expertZeroing,
    ?expertDestroy, ?query, ?queryExpert, ?keySet, ?keySetExpert⟩
  case create =>
    intro z wid c h s q n hn hbm hq hr hp free teams ht frac k hk s1
    exact run_ok h (State.paddockCreate_ok hn hq hr hp ht hk)
  case createExpert =>
    intro z wid c h s q n hn hbm hq hr hp free teams ht frac k hk s1
    exact run_ok h (State.paddockCreate_ok hn hq hr hp ht hk)
  case modify =>
    intro z wid c h s q old ho n hr k0 hq teams gone ht k s1 tooWide s2
    exact run_ok h (State.paddockModify_ok ho hr hq ht)
  case modifyExpert =>
    intro z wid c h s q old ho n hr k0 hq teams gone ht k s1 tooWide s2
    exact run_ok h (State.paddockModify_ok ho hr hq ht)
  case destroyAgain =>
    intro z wid c h s p again hp ha
    exact run_ok h (State.paddockDestroy_again false hp ha)
  case destroy =>
    intro z wid c h s p hp s1
    exact run_ok h (State.paddockDestroy_at_once hp Bool.false_ne_true)
  case expertAgain =>
    intro z wid c h s p again hp ha
    exact run_ok h (State.paddockDestroy_again (c.flag 4) hp ha)
  case expertZeroing =>
    intro z wid c h s zeroing p hp s1 hz
    exact run_ok h (State.paddockDestroy_zeroing hp hz)
  case expertDestroy =>
    intro z wid c h s zeroing p hp s1 hz
    exact run_ok h (State.paddockDestroy_at_once hp hz)
  case query =>
    intro z wid c h s recs s1 hw
    exact run_ok h (bind_of hw rfl)
  case queryExpert =>
    intro z wid c h s p hc hp s1 hw
    exact run_ok h (need_of hc (need_of hp (bind_of hw rfl)))
  case keySet =>
    intro z wid c h s p hp key hk s1
    exact run_ok h (need_of hp (want_of hk rfl))
  case keySetExpert =>
    intro z wid c h s p gen hp key hk hg s1
    exact run_ok h (need_of hp (want_of hk (need_of (decide_eq_true hg) rfl)))

end Sys2Proof.Machine
end

section
/-! Trace link training (R72, R375 to R380, R386, R398): the effects of the events of a port's training, admission, loss
and retraining, of a route's choice and of its loss. -/

namespace Sys2Proof.Machine

/-- A port in LINKED that loses lock goes DOWN. -/
theorem exec_lossOfLock_linked {s : State} {p : Nat} (h : (s.port p).state = .linked) :
    exec (.lossOfLock p) s = .next (s.portDown p).settle := by
  refine event_eq ?_
  rw [h]

/-- A port in ADMITTED that loses lock goes DOWN after 1 ms. -/
theorem exec_lossOfLock_admitted {s : State} {p : Nat} (h : (s.port p).state = .admitted) :
    exec (.lossOfLock p) s = .next ((s.reach (s.t + msNs)).portDown p).settle := by
  refine event_eq ?_
  rw [h]

/-- The direct links of the board group that the part has learned. -/
def State.learnPeers (s : State) (known : List (BitVec 16 × BitVec 16)) : State :=
  { s with trace := { s.trace with boardPeers := known } }

/-- A port that still carries traffic keeps its messages; any other sends them again on the new route. -/
theorem exec_detourSelect_eq (s : State) (p : Nat) (known : List (BitVec 16 × BitVec 16)) :
    exec (.detourSelect p known) s = .next (State.settle
      (match ((s.learnPeers known).port p).state with
        | .admitted => s.learnPeers known
        | .retraining => s.learnPeers known
        | _ => (s.learnPeers known).resendFrom p)) := rfl

/-- The loss of a route that has been lacking for 100 ms: the groups lose the part, and so do the moorings. -/
theorem exec_routeLoss_of_lost {s : State} {part : BitVec 16} {t : Nat} (cells : List (Nat × Nat × Nat))
    (h : tget s.trace.lostRoute part.toNat = some t) :
    exec (.routeLoss part cells) s = .next (State.settle
      (((s.reach (t + 100 * msNs)).loseMember part).moors.foldl
        (fun s e => s.moorLoses e.1 part ((cells.filter fun c => c.1 = e.1).map fun c => c.2))
        ((s.reach (t + 100 * msNs)).loseMember part))) := by
  refine event_eq ?_
  rw [h]

/-- Settles O50: each event whose conditions hold takes the branch of its meaning that they name. That DEGRADED admits
ports, the widths of training and of a failed retrain (log entry 97) and the counts of a faulty lane (log entry 103) are
the model's choices. -/
theorem linkTrainingEvents : Obligations.LinkTrainingEvents := by
  refine ⟨?request, ?commandToSteward, ?command, ?identity, ?start, ?timeout, ?admission, ?refusal, ?lockLinked,
    ?lockAdmitted, ?laneErrors, ?retrained, ?thirdFailure, ?narrower, ?fullWidth, ?detourAdmitted, ?detourRetraining,
    ?detour, ?routeLoss⟩
  case request =>
    intro p command s q hc hs
    subst hc
    exact event_eq (if_pos hs)
  case commandToSteward =>
    intro p command s q w hc hs
    subst hc
    exact event_eq (if_pos hs)
  case command =>
    intro p command s q w hc hs ha
    subst hc
    exact event_eq ((if_neg hs).trans (if_pos ha))
  case identity =>
    intro p id peerPort isSwitch z s ht s1
    exact event_eq (if_neg ht)
  case start =>
    intro p z s q h s1
    exact event_eq (if_neg h)
  case timeout =>
    intro p s ht
    exact event_eq (if_pos ht)
  case admission =>
    intro p s q hl ha
    exact event_eq ((if_neg hl).trans (if_pos ha))
  case refusal =>
    intro p s q hl ha
    exact event_eq ((if_neg hl).trans (if_neg ha))
  case lockLinked => exact fun p s h => exec_lossOfLock_linked h
  case lockAdmitted => exact fun p s h => exec_lossOfLock_admitted h
  case laneErrors =>
    intro p lane z s h s1
    exact event_eq (if_neg h)
  case retrained =>
    intro p ok z s q hr ho s1
    exact event_eq ((if_neg hr).trans (if_pos ho))
  case thirdFailure =>
    intro p ok s q hr ho ht
    exact event_eq ((if_neg hr).trans ((if_neg ho).trans (if_pos ht)))
  case narrower =>
    intro p ok s q hr ho ht
    exact event_eq ((if_neg hr).trans ((if_neg ho).trans (if_neg ht)))
  case fullWidth =>
    intro p s q h
    exact event_eq (if_neg h)
  case detourAdmitted =>
    intro p known z s s1 h
    have h' : ((z.learnPeers known).port p).state = .admitted := h
    rw [exec_detourSelect_eq, h']
    rfl
  case detourRetraining =>
    intro p known z s s1 h
    have h' : ((z.learnPeers known).port p).state = .retraining := h
    rw [exec_detourSelect_eq, h']
    rfl
  case detour =>
    intro p known z s s1 ha hr
    have ha' : ((z.learnPeers known).port p).state ≠ .admitted := ha
    have hr' : ((z.learnPeers known).port p).state ≠ .retraining := hr
    rw [exec_detourSelect_eq]
    split
    · next h => exact absurd h ha'
    · next h => exact absurd h hr'
    · rfl
  case routeLoss =>
    intro part cells z s t h s1
    exact exec_routeLoss_of_lost cells h

end Sys2Proof.Machine
end

section
/-! Power, reset, clock and board pins and the test access port (R72, R501, R511 to R518, R525): the effects of their
events. -/

namespace Sys2Proof.Machine

/-- A condition that holds is not denied. -/
theorem not_denied {b : Bool} (h : b = true) : ¬(!b) = true := by simp [h]

/-- Settles O59: each event whose conditions hold takes the branch of its meaning that they name; an instruction of the
test access port always has its effect. That IDCODE is selected after a test reset (log entry 7) and when the window is
live (log entry 53) are the model's choices; that the instructions which drive pins leave a cold reset needed is R502. -/
theorem pinAndTestPortCommands : Obligations.PinAndTestPortCommands := by
  refine ⟨?pwrOk, ?pwrLoss, ?coldReset, ?boot, ?bootFails, ?warm, ?warmIgnored, ?warmUnpowered, ?warmRelease, ?perst,
    ?perstInReset, ?perstRelease, ?cxlPerst, ?lossPcie, ?lossAux, ?lossTrace0, ?lossTrace1, ?lossXtal, ?clockReturn,
    ?railFault, ?window, ?linkUp, ?tapReset, ?idcode, ?sample, ?extest, ?pulse, ?train, ?clamp, ?highz, ?bypass⟩
  case pwrOk =>
    intro addr1 addr0 s h
    exact event_eq (if_neg h)
  case pwrLoss => exact fun s => rfl
  case coldReset =>
    intro z s h t s1
    exact event_eq (if_neg h)
  case boot =>
    intro pass z s h s1 s2 s3 hp
    exact event_eq ((if_neg h).trans (if_pos hp))
  case bootFails =>
    intro pass z s h s1 s2 s3 hp
    exact event_eq ((if_neg h).trans (if_neg hp))
  case warm =>
    intro z s hw s1 hr
    exact event_eq ((if_neg (not_denied hw)).trans (if_pos hr))
  case warmIgnored =>
    intro z s hw s1 hr hp
    exact event_eq ((if_neg (not_denied hw)).trans ((if_neg hr).trans (if_pos hp)))
  case warmUnpowered =>
    intro z s hw s1 hr hp
    exact event_eq ((if_neg (not_denied hw)).trans ((if_neg hr).trans (if_neg hp)))
  case warmRelease => exact fun s => rfl
  case perst =>
    intro z s hh s1 hp
    exact event_eq ((if_neg (not_denied hh)).trans (if_pos hp))
  case perstInReset =>
    intro z s hh s1 hp
    exact event_eq ((if_neg (not_denied hh)).trans (if_neg hp))
  case perstRelease => exact fun s => rfl
  case cxlPerst =>
    intro s h
    exact event_eq (if_neg h)
  case lossPcie =>
    intro clk z s s1 hc
    subst hc
    rfl
  case lossAux =>
    intro clk z s s1 hc
    subst hc
    rfl
  case lossTrace0 =>
    intro clk z s s1 hc
    subst hc
    rfl
  case lossTrace1 =>
    intro clk z s s1 hc
    subst hc
    rfl
  case lossXtal =>
    intro clk z s s1 hc
    subst hc
    rfl
  case clockReturn => exact fun clk s => rfl
  case railFault =>
    intro rail z s h s1
    exact event_eq (if_neg h)
  case window =>
    intro s h
    exact event_eq (if_pos h)
  case linkUp =>
    intro s h
    exact event_eq (if_pos h)
  case tapReset => exact fun s => rfl
  case idcode => exact fun s => rfl
  case sample => exact fun pins preload s => rfl
  case extest => exact fun pins s => rfl
  case pulse => exact fun pins s => rfl
  case train => exact fun pins s => rfl
  case clamp => exact fun s => rfl
  case highz => exact fun s => rfl
  case bypass => exact fun s => rfl

end Sys2Proof.Machine
end

section
/-! The sideband (R60, R520, R521, R535, R537): what Kryto answers over MCTP and SPDM, the acknowledgement and reading of
the event log, and the SMBus alert. -/

namespace Sys2Proof.Machine

section
variable {s : State} {ep addr viol : Nat} {key transcript tag : List Byte} (hh : s.hears ep = true)
  (hv : ¬(1 ≤ viol && viol ≤ 5) = true) (hs : (s.endpoint ep).spdm = true) (hl : ¬(key.length != 48) = true)
include hh hv hs hl

/-- Over a secured session, a replacement of the owner key without one to replace is refused with a free code. -/
theorem exec_spdmRequest_replace_without_key (hk : s.kryto.ownerKey = none) :
    exec (.spdmRequest ep addr viol (.replaceOwner key transcript tag)) s = .next (State.settle
      ((s.drawBytes 1).2.mctp ep (spdmError (((s.drawBytes 1).1[0]?).getD 0#8)))) := by
  refine event_eq ((if_neg (not_denied hh)).trans ((if_neg hv).trans
    ((if_neg (not_denied hs)).trans ((if_neg hl).trans ?_))))
  rw [hk]

/-- Over a secured session, a replacement of the owner key depends on the tag under the present key. -/
theorem exec_spdmRequest_replace_with_key {k : List Byte} (hk : s.kryto.ownerKey = some k) :
    exec (.spdmRequest ep addr viol (.replaceOwner key transcript tag)) s = .next (State.settle
      (if hmac384 k transcript = tag then
        (let u : State := { s with kryto := { s.kryto with ownerKey := some key } }
         (u.drawBytes 8).2.mctp ep (0#8 :: (u.drawBytes 8).1))
      else (s.drawBytes 1).2.mctp ep (spdmError (((s.drawBytes 1).1[0]?).getD 0#8)))) := by
  refine event_eq ((if_neg (not_denied hh)).trans ((if_neg hv).trans
    ((if_neg (not_denied hs)).trans ((if_neg hl).trans ?_))))
  rw [hk]

end

/-- The quarantine of an endpoint ends when its time has come. -/
theorem exec_mctpQuarantineExpiry_of_quarantined {s : State} {ep t : Nat}
    (h : (s.endpoint ep).quarUntil = some t) :
    exec (.mctpQuarantineExpiry ep) s =
      .next (State.settle ((s.reach t).modEnd ep fun x => { x with quarUntil := none })) := by
  refine event_eq ?_
  rw [h]

/-- Settles O60: each event that Kryto hears and whose conditions hold takes the branch of its meaning that they name. The
contents of the answers (log entries 11 and 138), that the part answers an alert response only while it asserts ALERT_N
(log entry 139) and violation 6 for an event acknowledged already (log entry 140) are the model's choices. -/
theorem sidebandCommands : Obligations.SidebandCommands := by
  refine ⟨?mctpViolation, ?mctpKryto, ?mctpIluvo, ?mctpNotReady, ?boardPower, ?capNotReady, ?cap, ?capRange,
    ?spdmViolation, ?setup, ?other, ?measurements, ?unlock, ?unlockUnsecured, ?installUnsecured, ?installLength,
    ?installAgain, ?install, ?replaceUnsecured, ?replaceLength, ?replaceWithoutKey, ?replace, ?replaceWrongTag,
    ?acknowledge, ?acknowledgeUnheld, ?logNotReady, ?logRead, ?alert, ?quarantineExpiry⟩
  case mctpViolation =>
    intro ep addr viol pcie ask s hh hv
    exact event_eq ((if_neg hh).trans (if_pos hv))
  case mctpKryto =>
    intro ep addr viol pcie ask s hh hv reply ha
    subst ha
    exact event_eq ((if_neg hh).trans (if_neg hv))
  case mctpIluvo =>
    intro ep addr viol pcie ask s hh hv reply ha hr
    subst ha
    exact event_eq ((if_neg hh).trans ((if_neg hv).trans (if_pos hr)))
  case mctpNotReady =>
    intro ep addr viol pcie ask s hh hv ha hr
    subst ha
    exact event_eq ((if_neg hh).trans ((if_neg hv).trans (if_neg hr)))
  case boardPower =>
    intro ep addr viol pcie ask s hh hv mw ha
    subst ha
    exact event_eq ((if_neg hh).trans (if_neg hv))
  case capNotReady =>
    intro ep addr viol pcie ask s hh hv w ha hf
    subst ha
    exact event_eq ((if_neg hh).trans ((if_neg hv).trans (if_pos hf)))
  case cap =>
    intro ep addr viol pcie ask s hh hv w ha hf hw
    subst ha
    exact event_eq ((if_neg hh).trans ((if_neg hv).trans ((if_neg (not_denied hf)).trans (if_pos hw))))
  case capRange =>
    intro ep addr viol pcie ask s hh hv w ha hf hw
    subst ha
    exact event_eq ((if_neg hh).trans ((if_neg hv).trans ((if_neg (not_denied hf)).trans (if_neg hw))))
  case spdmViolation =>
    intro ep addr viol req s hh hv
    exact event_eq ((if_neg (not_denied hh)).trans (if_pos hv))
  case setup =>
    intro ep addr viol req s hh hv done hr
    subst hr
    exact event_eq ((if_neg (not_denied hh)).trans (if_neg hv))
  case other =>
    intro ep addr viol req s hh hv done hr
    subst hr
    exact event_eq ((if_neg (not_denied hh)).trans (if_neg hv))
  case measurements =>
    intro ep addr viol req s hh hv hr
    subst hr
    exact event_eq ((if_neg (not_denied hh)).trans (if_neg hv))
  case unlock =>
    intro ep addr viol req s hh hv secured done hr hs
    subst hr
    exact event_eq ((if_neg (not_denied hh)).trans ((if_neg hv).trans (if_pos hs)))
  case unlockUnsecured =>
    intro ep addr viol req s hh hv secured hr hs
    subst hr
    exact event_eq ((if_neg (not_denied hh)).trans ((if_neg hv).trans (if_neg hs)))
  case installUnsecured =>
    intro ep addr viol req s hh hv secured key hr hs
    subst hr
    exact event_eq ((if_neg (not_denied hh)).trans ((if_neg hv).trans (if_pos hs)))
  case installLength =>
    intro ep addr viol req s hh hv secured key hr hs hl
    subst hr
    exact event_eq ((if_neg (not_denied hh)).trans ((if_neg hv).trans ((if_neg (not_denied hs)).trans (if_pos hl))))
  case installAgain =>
    intro ep addr viol req s hh hv secured refuse key hr hs hl hk
    subst hr
    exact event_eq ((if_neg (not_denied hh)).trans ((if_neg hv).trans ((if_neg (not_denied hs)).trans
      ((if_neg hl).trans (if_pos hk)))))
  case install =>
    intro ep addr viol req s hh hv secured done key hr hs hl hk
    subst hr
    exact event_eq ((if_neg (not_denied hh)).trans ((if_neg hv).trans ((if_neg (not_denied hs)).trans
      ((if_neg hl).trans (if_neg hk)))))
  case replaceUnsecured =>
    intro ep addr viol req s hh hv secured key transcript tag hr hs
    subst hr
    exact event_eq ((if_neg (not_denied hh)).trans ((if_neg hv).trans (if_pos hs)))
  case replaceLength =>
    intro ep addr viol req s hh hv secured key transcript tag hr hs hl
    subst hr
    exact event_eq ((if_neg (not_denied hh)).trans ((if_neg hv).trans ((if_neg (not_denied hs)).trans (if_pos hl))))
  case replaceWithoutKey =>
    intro ep addr viol req s hh hv secured refuse key transcript tag hr hs hl hk
    subst hr
    exact exec_spdmRequest_replace_without_key hh hv hs hl hk
  case replace =>
    intro ep addr viol req s hh hv secured done key transcript tag hr hs hl k hk ht
    subst hr
    rw [exec_spdmRequest_replace_with_key hh hv hs hl hk, if_pos ht]
  case replaceWrongTag =>
    intro ep addr viol req s hh hv secured refuse key transcript tag hr hs hl k hk ht
    subst hr
    rw [exec_spdmRequest_replace_with_key hh hv hs hl hk, if_neg ht]
  case acknowledge =>
    intro ep addr entry s hh he
    exact event_eq ((if_neg (not_denied hh)).trans (if_pos he))
  case acknowledgeUnheld =>
    intro ep addr entry s hh he
    exact event_eq ((if_neg (not_denied hh)).trans (if_neg he))
  case logNotReady =>
    intro ep entry count s hh hr
    exact event_eq ((if_neg (not_denied hh)).trans (if_pos hr))
  case logRead =>
    intro ep entry count s hh hr es
    exact event_eq ((if_neg (not_denied hh)).trans (if_neg (not_denied hr)))
  case alert =>
    intro s h
    exact event_eq (if_neg h)
  case quarantineExpiry =>
    intro ep s t h
    exact exec_mctpQuarantineExpiry_of_quarantined h

end Sys2Proof.Machine
end

section
/-! Slot fetch and arrival, function resets, readiness and warm resets (R53, R54, R62, R69 to R74, R204, R412, R419,
R421): the effects of their commands and events. -/

namespace Sys2Proof.Machine

/-- SLOT_FETCH fetches the slot whose turn it is while the part's masters run, or while the hardware answers. -/
theorem exec_slotFetch_of_next {s : State} {r : Nat}
    (hm : ¬(s.part.mastersStopped && s.part.pstate ≠ .warmReset && s.part.pstate ≠ .failed) = true)
    (hr : s.nextFetch = some r) : exec .slotFetch s = .next (s.fetch r).settle := by
  refine event_eq ((if_neg hm).trans ?_)
  rw [hr]

/-- SLOT_ARRIVAL on a ring. -/
theorem exec_slotArrival_of_ring {s t : State} {ring : Nat} {slot payload : Option (List Byte)} (hr : ring < 288)
    (h : s.arriveSlot ring slot payload = t) : exec (.slotArrival ring slot payload) s = .next t.settle :=
  event_eq ((if_pos hr).trans h)

/-- FUNCTION_LEVEL_RESET of a virtual function resets it. -/
theorem exec_functionLevelReset_of_vf {s : State} {fn : Nat} (h : (1 ≤ fn && fn ≤ 8) = true) :
    exec (.functionLevelReset fn) s = .next (s.resetFn fn).settle := event_eq (if_pos h)

/-- The lockout of a function ends when its time has come. -/
theorem exec_sessionLockoutEnd_of_locked {s : State} {fn t : Nat} (h : (s.fn fn).lockedUntil = some t) :
    exec (.sessionLockoutEnd fn) s = .next (((s.reach t).modFn fn fun x => { x with lockedUntil := none }).settle) := by
  refine event_eq ?_
  rw [h]

/-- Settles O23: each command and event whose conditions hold takes the branch of its meaning that they name. That the
hardware goes on fetching while Iluvo does not run (log entry 54), what a function-level reset fails (log entry 34), what
a warm reset does when (log entry 126), the times of readiness (log entry 128) and the faults of control cores (log entry
129) are the model's choices. -/
theorem fetchResetAndPartStateCommands : Obligations.FetchResetAndPartStateCommands := by
  refine ⟨?fetch, ?arrivalFailed, ?arrivalNotRunning, ?arrivalRejected, ?payloadFailed, ?payloadRead, ?payloadInSlot,
    ?functionReset, ?pfReset, ?lockoutEnd, ?controlReady, ?partReady, ?resilWarm, ?resilWarmExpert, ?secondCoreFault,
    ?coreFault, ?heartbeatKryto, ?heartbeatCore, ?warmReset, ?settlement, ?tileDiscard⟩
  case fetch => exact fun s hm r hr => exec_slotFetch_of_next hm hr
  case arrivalFailed =>
    intro ring slot payload s hr r i' hi i hs
    subst hs
    exact exec_slotArrival_of_ring hr (State.arriveSlot_failed hi)
  case arrivalNotRunning =>
    intro ring slot payload z s hr r i' hi i b hs h s1 hrun p1 d s2
    subst hs
    exact exec_slotArrival_of_ring hr (State.arriveSlot_not_running hi hrun)
  case arrivalRejected =>
    intro ring slot payload z s hr r i' hi i b hs h s1 hrun e he
    subst hs
    exact exec_slotArrival_of_ring hr (State.arriveSlot_rejected hi hrun he)
  case payloadFailed =>
    intro ring slot payload z s hr r i' hi i b hs h s1 hrun he hind s2 hp s3
    subst hs hp
    exact exec_slotArrival_of_ring hr ((State.arriveSlot_passed hi hrun he).trans (if_pos hind))
  case payloadRead =>
    intro ring slot payload z s hr r i' hi i b hs h s1 hrun he hind s2 p hp
    subst hs hp
    exact exec_slotArrival_of_ring hr ((State.arriveSlot_passed hi hrun he).trans (if_pos hind))
  case payloadInSlot =>
    intro ring slot payload z s hr r i' hi i b hs h s1 hrun he hind
    subst hs
    exact exec_slotArrival_of_ring hr ((State.arriveSlot_passed hi hrun he).trans (if_neg hind))
  case functionReset =>
    dsimp only
    intro fn z hf
    rw [exec_functionLevelReset_of_vf hf]
    dsimp only [State.resetFn]
  case pfReset => exact fun s => rfl
  case lockoutEnd => exact fun fn s t h => exec_sessionLockoutEnd_of_locked h
  case controlReady =>
    intro z s h
    exact event_eq (if_pos h)
  case partReady =>
    intro z s h
    exact event_eq (if_pos h)
  case resilWarm =>
    intro z wid c h s
    exact run_ok h rfl
  case resilWarmExpert =>
    intro z wid c h s s1
    exact run_ok h rfl
  case secondCoreFault =>
    intro s h
    exact event_eq (if_pos h)
  case coreFault =>
    intro s h
    exact event_eq (if_neg h)
  case heartbeatKryto =>
    intro kryto s h
    exact event_eq (if_pos h)
  case heartbeatCore =>
    intro kryto s h
    exact event_eq (if_neg h)
  case warmReset =>
    intro z s h
    exact event_eq (if_neg (not_denied h))
  case settlement =>
    intro z s h
    exact event_eq (if_pos h)
  case tileDiscard =>
    intro s h
    exact event_eq (if_pos h)

end Sys2Proof.Machine
end

section
/-! Exact sums (R90 to R92, R99): merging is commutative and associative with the cleared accumulator as its unit, and
adding a term is merging the sum of that term alone. So a sum depends on its terms alone. -/

namespace Sys2Proof.Machine

/-! ### Saturating counts (R11) -/

/-- A saturating sum is the sum, capped at the greatest value. -/
theorem toNat_satAdd {w : Nat} (x : BitVec w) (n : Nat) : (satAdd w x n).toNat = min (x.toNat + n) (2 ^ w - 1) := by
  unfold satAdd
  split
  · next h =>
    rw [BitVec.toNat_add, BitVec.toNat_ofNat, Nat.add_mod_mod, Nat.mod_eq_of_lt h]
    omega
  · next h =>
    rw [BitVec.toNat_allOnes]
    omega

/-- Adding 0 leaves a count as it is. -/
@[simp] theorem satAdd_zero {w : Nat} (x : BitVec w) : satAdd w x 0 = x := by
  have := x.isLt
  refine BitVec.eq_of_toNat_eq ?_
  rw [toNat_satAdd]
  omega

/-- Two counts may change places. -/
theorem satAdd_comm {w : Nat} (x y : BitVec w) : satAdd w x y.toNat = satAdd w y x.toNat :=
  BitVec.eq_of_toNat_eq (by rw [toNat_satAdd, toNat_satAdd, Nat.add_comm])

/-- Three counts may be added in either grouping: where one grouping saturates, so does the other. -/
theorem satAdd_assoc {w : Nat} (x y z : BitVec w) :
    satAdd w (satAdd w x y.toNat) z.toNat = satAdd w x (satAdd w y z.toNat).toNat := by
  refine BitVec.eq_of_toNat_eq ?_
  simp only [toNat_satAdd]
  omega

/-! ### Merging (R99) -/

/-- Merging is commutative. -/
theorem Acc.merge_comm (a b : Acc) : a.merge b = b.merge a :=
  Acc.mk.injEq .. ▸ ⟨BitVec.add_comm .., Bool.or_comm .., Bool.or_comm .., Bool.or_comm .., satAdd_comm ..⟩

/-- Merging is associative. -/
theorem Acc.merge_assoc (a b c : Acc) : (a.merge b).merge c = a.merge (b.merge c) :=
  Acc.mk.injEq .. ▸ ⟨BitVec.add_assoc .., Bool.or_assoc .., Bool.or_assoc .., Bool.or_assoc .., satAdd_assoc ..⟩

/-- Merging the cleared accumulator changes nothing. -/
@[simp] theorem Acc.merge_reset (a : Acc) : a.merge Acc.reset = a := by
  simp [Acc.merge, Acc.reset]

/-! ### Terms (R90 to R92) -/

/-- A zero term changes nothing. -/
theorem Acc.addTerm_zero (a : Acc) (s : Bool) (e : Int) : a.addTerm (.fin s 0 e) = a := rfl

/-- A term whose greatest bit is at 2^129 or above is infinite. -/
theorem Acc.addTerm_above {a : Acc} {s : Bool} {m : Nat} {e : Int} (hm : m ≠ 0) (h : 129 ≤ (m.log2 : Int) + e) :
    a.addTerm (.fin s m e) = if s then { a with negInf := true } else { a with posInf := true } :=
  (if_neg hm).trans (if_pos h)

/-- Any other term adds its whole units, and counts where something is left over. -/
theorem Acc.addTerm_within {a : Acc} {s : Bool} {m : Nat} {e : Int} (hm : m ≠ 0) (h : ¬129 ≤ (m.log2 : Int) + e) :
    a.addTerm (.fin s m e) =
      { a with reg := a.reg + BitVec.ofInt 384 (if s then -((toUnits m e (-190)).1 : Int) else (toUnits m e (-190)).1)
               drops := if (toUnits m e (-190)).2.1 = 0 then a.drops else satAdd 32 a.drops 1 } :=
  (if_neg hm).trans (if_neg h)

/-- Adding a term is merging the sum of that term alone. -/
theorem Acc.addTerm_eq_merge (a : Acc) (v : FVal) : a.addTerm v = a.merge (Acc.reset.addTerm v) := by
  cases v with
  | nan => simp [Acc.addTerm, Acc.merge, Acc.reset]
  | inf s => cases s <;> simp [Acc.addTerm, Acc.merge, Acc.reset]
  | fin s m e =>
    by_cases hm : m = 0
    · rw [hm, Acc.addTerm_zero, Acc.addTerm_zero, Acc.merge_reset]
    by_cases hi : 129 ≤ (m.log2 : Int) + e
    · rw [Acc.addTerm_above hm hi, Acc.addTerm_above hm hi]
      cases s <;> simp [Acc.merge, Acc.reset]
    · have hone : satAdd 32 0#32 1 = 1#32 := by decide
      rw [Acc.addTerm_within hm hi, Acc.addTerm_within hm hi]
      by_cases hd : (toUnits m e (-190)).2.1 = 0 <;> simp [Acc.merge, Acc.reset, hd, hone]

/-- A sum of terms added to an accumulator is the merge of their sum. -/
theorem Acc.foldl_addTerm (l : List FVal) (a : Acc) :
    l.foldl Acc.addTerm a = a.merge (l.foldl Acc.addTerm Acc.reset) := by
  induction l generalizing a with
  | nil => exact a.merge_reset.symm
  | cons v l ih =>
    calc l.foldl Acc.addTerm (a.addTerm v)
      _ = (a.merge (Acc.reset.addTerm v)).merge (l.foldl Acc.addTerm Acc.reset) := by rw [ih, a.addTerm_eq_merge]
      _ = a.merge ((Acc.reset.addTerm v).merge (l.foldl Acc.addTerm Acc.reset)) := Acc.merge_assoc ..
      _ = a.merge (l.foldl Acc.addTerm (Acc.reset.addTerm v)) := by rw [← ih]

/-- Two terms may be added in either order. -/
theorem Acc.addTerm_right_comm (a : Acc) (u v : FVal) : (a.addTerm u).addTerm v = (a.addTerm v).addTerm u := by
  rw [(a.addTerm u).addTerm_eq_merge, (a.addTerm v).addTerm_eq_merge, a.addTerm_eq_merge u, a.addTerm_eq_merge v,
    Acc.merge_assoc, Acc.merge_assoc, Acc.merge_comm (Acc.reset.addTerm u)]

/-- Settles O18: a sum is the merge of the sums of its single terms, and merging is commutative and associative. -/
theorem exactSumsAreOrderFree : Obligations.ExactSumsAreOrderFree := by
  refine ⟨?order, ?partition, fun a b c => ⟨a.merge_comm b, a.merge_assoc b c⟩⟩
  case order =>
    exact fun l₁ l₂ h a => h.foldl_eq' (fun u _ v _ x => x.addTerm_right_comm u v) a
  case partition =>
    intro l₁ l₂ a
    rw [List.foldl_append, Acc.foldl_addTerm l₂]

end Sys2Proof.Machine
end

section
/-! How a finite term meets the window of the exact accumulator (R91, R92): its greatest bit against 2^129, its units of
2^-190 against the floor of its magnitude. -/

namespace Sys2Proof.Machine

/-- A magnitude reaches a power of two exactly where its greatest bit does. -/
theorem zpow_le_magnitude_iff {m : Nat} (hm : m ≠ 0) (e n : Int) :
    (2 : ℚ) ^ n ≤ (m : ℚ) * (2 : ℚ) ^ e ↔ n ≤ (m.log2 : Int) + e := by
  have hlog := Int.zpow_le_iff_le_log one_lt_two (x := n - e) (r := (m : ℚ)) (by positivity)
  rw [Int.log_natCast, ← Nat.log2_eq_log_two, Nat.cast_ofNat, zpow_sub₀ two_ne_zero,
    div_le_iff₀ (by positivity)] at hlog
  rw [hlog]
  omega

/-- Above the unit a magnitude is a whole number of units; below it, a quotient by a power of two. -/
theorem magnitude_in_units (m : Nat) (e q : Int) :
    (m : ℚ) * (2 : ℚ) ^ e * (2 : ℚ) ^ (-q) =
      if q ≤ e then ((m * 2 ^ (e - q).toNat : Nat) : ℚ) else (m : ℚ) / ((2 ^ (q - e).toNat : Nat) : ℚ) := by
  rw [mul_assoc, ← zpow_add₀ two_ne_zero]
  split
  · next h =>
    rw [Nat.cast_mul, Nat.cast_pow, Nat.cast_ofNat, ← zpow_natCast, Int.toNat_of_nonneg (by omega)]
    rfl
  · next h =>
    rw [Nat.cast_pow, Nat.cast_ofNat, ← zpow_natCast, Int.toNat_of_nonneg (by omega), div_eq_mul_inv, ← zpow_neg,
      show e + -q = -(q - e) by omega]

/-- The whole units of a magnitude are its floor. -/
theorem toUnits_whole (m : Nat) (e q : Int) :
    ((toUnits m e q).1 : Int) = ⌊(m : ℚ) * (2 : ℚ) ^ e * (2 : ℚ) ^ (-q)⌋ := by
  rw [magnitude_in_units, toUnits]
  split
  · exact (Int.floor_natCast _).symm
  · exact (Rat.floor_natCast_div_natCast _ _).symm

/-- Nothing is left over exactly where the magnitude is a whole number of units. -/
theorem toUnits_rest_eq_zero_iff (m : Nat) (e q : Int) :
    (toUnits m e q).2.1 = 0 ↔
      (⌊(m : ℚ) * (2 : ℚ) ^ e * (2 : ℚ) ^ (-q)⌋ : ℚ) = (m : ℚ) * (2 : ℚ) ^ e * (2 : ℚ) ^ (-q) := by
  rw [← toUnits_whole, magnitude_in_units, toUnits]
  split
  · simp
  · dsimp only
    generalize hd : 2 ^ (q - e).toNat = d
    have hpos : (0 : ℚ) < (d : ℚ) := by
      rw [← hd]
      positivity
    rw [eq_div_iff hpos.ne', Int.cast_natCast, ← Nat.cast_mul, Nat.cast_inj]
    exact ⟨fun h => Nat.div_mul_cancel (Nat.dvd_of_mod_eq_zero h),
      fun h => Nat.mod_eq_zero_of_dvd (Dvd.intro_left _ h)⟩

/-- Settles O17: the three branches of a finite term. -/
theorem termsMeetTheWindow : Obligations.TermsMeetTheWindow := by
  intro a neg m e v k
  have hzero : v = 0 ↔ m = 0 := by
    have h2 : (2 : ℚ) ^ e ≠ 0 := zpow_ne_zero e two_ne_zero
    simp [v, h2]
  refine ⟨fun hv => ?zero, fun hv => ?above, fun hpos hv => ?within⟩
  case zero =>
    rw [hzero.1 hv, Acc.addTerm_zero]
  case above =>
    have hm : m ≠ 0 := fun h => (zpow_pos two_pos (129 : Int)).not_ge (hzero.2 h ▸ hv)
    exact Acc.addTerm_above hm ((zpow_le_magnitude_iff hm e 129).1 hv)
  case within =>
    have hm : m ≠ 0 := fun h => hpos.ne' (hzero.2 h)
    have hk : ((toUnits m e (-190)).1 : Int) = k := toUnits_whole m e (-190)
    have hrest := toUnits_rest_eq_zero_iff m e (-190)
    rw [Acc.addTerm_within hm fun h => hv.not_ge ((zpow_le_magnitude_iff hm e 129).2 h), hk]
    simp only [hrest]
    rfl

end Sys2Proof.Machine
end

section
/-! Maximum and minimum (R115): of two arguments that are no NaN each is the one with the greater or the lesser order
key. -/

namespace Sys2Proof.Machine

/-- With a NaN argument both answer the canonical NaN. -/
theorem fmax_fmin_of_nan {a b : F32} (h : isNan a = true ∨ isNan b = true) :
    fmax a b = 0x7FC00000#32 ∧ fmin a b = 0x7FC00000#32 :=
  ⟨if_pos (by simpa using h), if_pos (by simpa using h)⟩

/-- The maximum of two numbers. -/
theorem fmax_of_not_nan {a b : F32} (ha : isNan a = false) (hb : isNan b = false) :
    fmax a b = if fkey a < fkey b then b else a := if_neg (by simp [ha, hb])

/-- The minimum of two numbers. -/
theorem fmin_of_not_nan {a b : F32} (ha : isNan a = false) (hb : isNan b = false) :
    fmin a b = if fkey b < fkey a then b else a := if_neg (by simp [ha, hb])

/-- Settles O21: the order keys of the zeros differ, and of two numbers the keys decide. -/
theorem maximumAndMinimum : Obligations.MaximumAndMinimum := by
  refine ⟨fun a b => fmax_fmin_of_nan, by decide, by decide, by decide, by decide, fun a b ha hb => ?_⟩
  rw [fmax_of_not_nan ha hb, fmin_of_not_nan ha hb]
  refine ⟨(ite_eq_or_eq ..).symm, (ite_eq_or_eq ..).symm, ?_⟩
  split <;> split <;> omega

end Sys2Proof.Machine
end

section
/-! Contexts and registers after a write (R147, R192), and an instruction of a core whose team issues. -/

namespace Sys2Proof.Machine

/-! ### Contexts -/

/-- A context just written. -/
@[simp] theorem State.setCtx_ctx_same (s : State) (k : Nat) (v : Ctx) : (s.setCtx k v).ctx k = v :=
  tgetD_tputD_same ..

/-- Another context than the one written. -/
theorem State.setCtx_ctx_other (s : State) {k q : Nat} (v : Ctx) (h : q ≠ k) : (s.setCtx k v).ctx q = s.ctx q :=
  tgetD_tputD_other _ _ _ h

/-- A context just changed. -/
@[simp] theorem State.modCtx_ctx_same (s : State) (k : Nat) (f : Ctx → Ctx) : (s.modCtx k f).ctx k = f (s.ctx k) :=
  s.setCtx_ctx_same k _

/-- Another context than the one changed. -/
theorem State.modCtx_ctx_other (s : State) {k q : Nat} (f : Ctx → Ctx) (h : q ≠ k) :
    (s.modCtx k f).ctx q = s.ctx q := s.setCtx_ctx_other _ h

/-! ### Vector registers and poison bits -/

/-- A write of a vector register changes vector registers and poison bits alone. -/
theorem Ctx.setV_frame (x : Ctx) (i : Nat) (vs : List (BitVec 32)) (p : Bool) :
    x.setV i vs p = { x with vregs := (x.setV i vs p).vregs, poison := (x.setV i vs p).poison } := rfl

/-- Lanes written into a register leave a key that is none of theirs. -/
theorem tgetD_foldl_lanes (i q : Nat) (l : List (BitVec 32 × Nat)) (t : Tbl (BitVec 32))
    (h : ∀ e ∈ l, q ≠ 32 * i + e.2) :
    tgetD 0#32 (l.foldl (fun r (e : BitVec 32 × Nat) => tputD 0#32 r (32 * i + e.2) e.1) t) q = tgetD 0#32 t q := by
  induction l generalizing t with
  | nil => rfl
  | cons e l ih =>
    rw [List.foldl_cons, ih _ fun e' he' => h e' (List.mem_cons_of_mem e he')]
    exact tgetD_tputD_other _ _ _ (h e List.mem_cons_self)

/-- A write of a vector register leaves the lanes of the others. -/
theorem Ctx.setV_lane_other (x : Ctx) {i v j : Nat} (vs : List (BitVec 32)) (p : Bool) (hv : v ≠ i) (hj : j < 32) :
    tgetD 0#32 (x.setV i vs p).vregs (32 * v + j) = tgetD 0#32 x.vregs (32 * v + j) := by
  refine tgetD_foldl_lanes i _ _ _ fun e he => ?_
  have := List.mem_range.1 (List.of_mem_zip he).2
  omega

/-- The poison bit just set or cleared. -/
theorem Ctx.taint_contains_same (x : Ctx) (r : Nat) (p : Bool) : (x.taint r p).poison.contains r = p := by
  cases p <;> simp [Ctx.taint, mem_insNat]

/-- Another poison bit than the one set or cleared. -/
theorem Ctx.taint_contains_other (x : Ctx) {r q : Nat} (p : Bool) (h : q ≠ r) :
    (x.taint r p).poison.contains q = x.poison.contains q := by
  rw [Bool.eq_iff_iff]
  cases p <;> simp [Ctx.taint, mem_insNat, h]

/-! ### An instruction of a core -/

/-- The state in which a core has fetched an instruction of a context of its team. -/
def State.issued (s : State) (k : Site) (t : Task) : State :=
  s.modCtx (ctxKey k.team k.core t.ctx) fun x => { x with pc := k.pc }

section
variable {s u : State} {k : Site} {w : BitVec 64} {t : Task} {r : Nat} (h : s.issuing k.team = some (w, t, r))
  (hc : ¬16 ≤ k.core)
include h hc

/-- An instruction of a core of a team that issues answers its effect and what follows at once. -/
theorem event_onSite {f : State → BitVec 64 → Task → Nat → Nat → State}
    (hf : f (s.issued k t) w t r (ctxKey k.team k.core t.ctx) = u) : event (s.onSite k f) = .next u.settle :=
  event_eq ((onSite_of h hc).trans hf)

/-- A vector instruction with a defined encoding changes its context. -/
theorem event_onVec {ok : Bool} {f : Ctx → Ctx} (ho : ok = true) :
    event (s.onVec k ok f) = .next (((s.issued k t).modCtx (ctxKey k.team k.core t.ctx) f).settle) :=
  event_eq (onVec_of h hc ho)

/-- A vector instruction without a defined encoding raises ILLEGAL_INSTRUCTION (R101, R165). -/
theorem onVec_of_illegal {ok : Bool} {f : Ctx → Ctx} (ho : ok = false) :
    s.onVec k ok f = (s.issued k t).raise w r k.core 0x01 0 :=
  (onSite_of h hc).trans (if_neg (by simp [ho]))

end

end Sys2Proof.Machine
end

section
/-! The function instructions of the vector unit (R117 to R122): each is one procedure over the lanes of its source. -/

namespace Sys2Proof.Machine

/-- Each function instruction applies a procedure to the lanes of its source. -/
theorem exec_function_cases {c : Instr} {k : Site} {ln : Lanes} {vd va : Nat} (s : State)
    (hc : c ∈ [.exp k ln vd va, .expm1 k ln vd va, .log k ln vd va, .tanh k ln vd va, .sigmoid k ln vd va,
      .silu k ln vd va]) : ∃ f, exec c s = event (s.onVec k (vOk [vd, va]) (mapLanes ln f vd va)) := by
  simp only [List.mem_cons, List.not_mem_nil, or_false] at hc
  rcases hc with rfl | rfl | rfl | rfl | rfl | rfl <;> exact ⟨_, rfl⟩

/-- Settles O10: the instruction changes the destination register of its context, whose poison bit is the source's. -/
theorem vectorFunctionFrame : Obligations.VectorFunctionFrame := by
  intro k ln vd va s w t rk c hq h hcore hvd hva hc key
  obtain ⟨f, hf⟩ := exec_function_cases s hc
  have hok : vOk [vd, va] = true := by simp [vOk, hvd, hva]
  have hctx : ((s.issued k t).modCtx key (mapLanes ln f vd va)).ctx key =
      mapLanes ln f vd va { s.ctx key with pc := k.pc } := by
    rw [State.modCtx_ctx_same, State.issued, State.modCtx_ctx_same]
  refine ⟨(s.issued k t).modCtx key (mapLanes ln f vd va), ?next, rfl, fun q hne => ?others, ?_⟩
  case next =>
    rw [hf, event_onVec h hcore.not_ge hok]
    exact congrArg _ (quietStateSettlesToItself _ hq)
  case others =>
    rw [State.modCtx_ctx_other _ _ hne, State.issued, State.modCtx_ctx_other _ _ hne]
  rw [hctx]
  refine ⟨Ctx.setV_frame .., fun v j _ hne hj => Ctx.setV_lane_other _ _ _ hne hj,
    fun r hne => Ctx.taint_contains_other _ _ hne, (Ctx.taint_contains_same ..).trans ?_⟩
  simp [Ctx.tainted]

end Sys2Proof.Machine
end

section
/-! Exceptions of a core's access and of a vector encoding (R101, R165, R192). -/

namespace Sys2Proof.Machine

/-! ### What stops an access -/

section
variable {s : State} {k : Site} {t : Task} {key : Nat} {pl : Place} {ra off n : Nat}

/-- The Basin address that an access names: its address register and its offset. -/
def State.accessAddr (s : State) (key ra off : Nat) : Nat := (((s.ctx key).s ra).toNat + off) % 2 ^ 64

/-- An access that the encoding does not define is illegal. -/
theorem State.access_illegal (hi : (!placeOk pl n || decide (32 ≤ ra)) = true) :
    s.access k t key pl ra off n = .error (0x01, 0) := if_pos hi

variable (hi : (!placeOk pl n || decide (32 ≤ ra)) = false)
include hi

/-- A poisoned address register stops an access. -/
theorem State.access_poisoned (hp : (s.ctx key).tainted [pS ra] = true) :
    s.access k t key pl ra off n = .error (0x07, s.accessAddr key ra off) :=
  (if_neg (by simp [hi])).trans (if_pos hp)

variable (hp : (s.ctx key).tainted [pS ra] = false)
include hp

/-- A misaligned address stops an access. -/
theorem State.access_misaligned (ha : s.accessAddr key ra off % placeAlign pl n ≠ 0) :
    s.access k t key pl ra off n = .error (0x06, s.accessAddr key ra off) :=
  (if_neg (by simp [hi])).trans ((if_neg (by simp [hp])).trans (if_pos ha))

/-- An address outside the task's Basin bytes stops an access. -/
theorem State.access_outside (ha : ¬s.accessAddr key ra off % placeAlign pl n ≠ 0)
    (hb : s.basinOk t (s.accessAddr key ra off) n = false) :
    s.access k t key pl ra off n = .error (0x03, s.accessAddr key ra off) :=
  (if_neg (by simp [hi])).trans ((if_neg (by simp [hp])).trans ((if_neg ha).trans (if_pos (by simpa [State.accessAddr] using hb))))

end

/-- A store whose access is stopped raises the exception that stopped it. -/
theorem exec_basinStore_of_error {s : State} {k : Site} {src : Place} {ra off n : Nat} {w : BitVec 64} {t : Task}
    {rk cause addr : Nat} (h : s.issuing k.team = some (w, t, rk)) (hc : ¬16 ≤ k.core)
    (he : (s.issued k t).access k t (ctxKey k.team k.core t.ctx) src ra off n = .error (cause, addr)) :
    exec (.basinStore k src ra off n) s = .next ((s.issued k t).raise w rk k.core cause addr).settle := by
  refine event_onSite h hc ?_
  rw [he]
  rfl

/-- Settles O15: the checks of an access come one after another, and so do those of a vector encoding. The order of the
checks of an access is the model's choice, and so is the exception of a reserved rounding mode (log entry 23). -/
theorem coreAccessExceptions : Obligations.CoreAccessExceptions := by
  refine ⟨?store, ?vector⟩
  case store =>
    intro k src ra off n s w t rk h hcore key s1 x a raised answer illegal poisoned odd
    have hc := hcore.not_ge
    simp only [Bool.and_eq_true, Bool.not_eq_true', and_imp]
    refine ⟨fun hi => ?_, fun hi hp => ?_, fun hi hp ha => ?_, fun hi hp ha hb => ?_⟩
    · exact exec_basinStore_of_error h hc (State.access_illegal hi)
    · exact exec_basinStore_of_error h hc (State.access_poisoned hi hp)
    · exact exec_basinStore_of_error h hc (State.access_misaligned hi hp (of_decide_eq_true ha))
    · exact exec_basinStore_of_error h hc (State.access_outside hi hp (of_decide_eq_false ha) hb)
  case vector =>
    intro k op ln r vd va vb vc s w t rk h hcore s1
    have hc := hcore.not_ge
    refine ⟨fun hm => event_eq ?_, fun hv => event_eq (onVec_of_illegal h hc (by simpa [vOk] using hv))⟩
    rw [hm]
    exact onVec_of_illegal h hc rfl

end Sys2Proof.Machine
end

section
/-! The arithmetic, load and store instructions of a core (R86, R106, R113, R114, R165, R192): their effects where every
check passes. -/

namespace Sys2Proof.Machine

variable {z : State} {k : Site} {w : BitVec 64} {t : Task} {rk : Nat}

/-- The effect of a step of a product after its terms and its partials: the final rounding, where its checks pass. -/
def State.endStep (s1 : State) (w : BitVec 64) (t : Task) (rk : Nat) (k : Site) : Option Finish → State
  | none => s1
  | some f =>
    match f.overflow with
    | none => if f.fmt = .ep16 && (s1.team k.team).accs.any fun e => e.2.isWide then s1.trapAt w rk k 0x04 0
              else s1.finishProduct w k.team f
    | some o => if f.fmt = .ep16 && !s1.overflowOk t o then s1.trapAt w rk k 0x03 o.buffer
                else s1.finishProduct w k.team f

/-- A product without an overflow area is finished where it needs none. -/
theorem State.endStep_without_overflow {s1 : State} {f : Finish} (ho : f.overflow = none)
    (hw : ¬(f.fmt = .ep16 && (s1.team k.team).accs.any fun e => e.2.isWide) = true) :
    s1.endStep w t rk k (some f) = s1.finishProduct w k.team f := by
  rw [State.endStep, ho]
  exact if_neg hw

/-- A product with an overflow area is finished where it may write there. -/
theorem State.endStep_with_overflow {s1 : State} {f : Finish} {o : OverArea} (ho : f.overflow = some o)
    (hw : ¬(f.fmt = .ep16 && !s1.overflowOk t o) = true) :
    s1.endStep w t rk k (some f) = s1.finishProduct w k.team f := by
  rw [State.endStep, ho]
  exact if_neg hw

/-- Whether a task's kernel uses the array. -/
def State.onArray (s : State) (t : Task) : Bool :=
  match tget s.kernels t.kernel with
  | some q => q.array
  | none => false

/-- ARRAY_STEP of a valid descriptor whose ranges and partials are in order adds its terms and partials, and ends the
product where the descriptor says so. -/
theorem exec_arrayStep_of_checks {u : State} {p : Product} (h : z.issuing k.team = some (w, t, rk))
    (hc : ¬16 ≤ k.core) (harray : (z.issued k t).onArray t = true) (hp : productOk p = true)
    (hbounds : ((productRanges p).find? fun r => !(z.issued k t).basinOk t r.1 r.2.1) = none)
    (halign : ((productRanges p).find? fun r => r.1 % r.2.2 ≠ 0) = none)
    (hmerge : (p.merge.findSome? fun q => (z.issued k t).mergeFault t q) = none)
    (hu : (((z.issued k t).addStep k.team p).mergePartials k.team p.merge).endStep w t rk k p.fin = u) :
    exec (.arrayStep k p) z = .next u.settle := by
  refine event_onSite h hc ((if_neg (not_denied harray)).trans ((if_neg (not_denied hp)).trans (Eq.trans ?_ hu)))
  rw [hbounds, halign, hmerge]
  rfl

/-- The lanes that a lane operation gives, none where it is not defined (R113). -/
def laneResult (op : VecOp) (ln : Lanes) (r : Rnd) (mode : RMode) (va vb vc : Nat) (x : Ctx) :
    Option (List (BitVec 32)) :=
  match op with
  | .cvt src dst ss ds => if ln = .f32 then convert r mode src dst ss ds (x.v va) else none
  | _ => if ln = .fp16 then none
         else (lanesOf op (arithMode mode) r.sat (x.elems ln va) (x.elems ln vb) (x.elems ln vc)).map fun l =>
           packLanes ln (arithMode mode) l r.sat

/-- The context that a core runs, once it has fetched an instruction. -/
def State.runs (s : State) (k : Site) (t : Task) : Ctx := (s.issued k t).ctx (ctxKey k.team k.core t.ctx)

/-- VECTOR_ARITHMETIC that gives lanes writes them to its destination. -/
theorem exec_vectorArithmetic_of_result {op : VecOp} {ln : Lanes} {r : Rnd} {vd va vb vc : Nat} {mode : RMode}
    {vs : List (BitVec 32)} (hm : RMode.of r.mode = some mode) (h : z.issuing k.team = some (w, t, rk))
    (hc : ¬16 ≤ k.core)
    (hr : laneResult op ln r mode va vb vc (z.runs k t) = some vs) (hv : vOk (vd :: vecSources op va vb vc) = true) :
    exec (.vectorArithmetic k op ln r vd va vb vc) z = .next (State.settle
      ((z.issued k t).setCtx (ctxKey k.team k.core t.ctx)
        ((z.runs k t).setV vd vs ((z.runs k t).tainted ((vecSources op va vb vc).map pV))))) := by
  refine event_eq ?_
  rw [hm]
  refine (onSite_of h hc).trans ?_
  show (match laneResult op ln r mode va vb vc (z.runs k t) with | some vs => _ | none => _) = _
  rw [hr]
  exact if_pos hv

/-- The state in which a load has found the errors of its lines (R180). -/
def State.loaded (s : State) (a n : Nat) (ecc : List (Nat × Bool)) : State :=
  s.basinEcc (ecc.filter fun e => (lineAddrs a n).contains (e.1 / 256 * 256))

/-- What a load does with the bytes at its address. -/
def State.loadInto (s : State) (k : Site) (t : Task) (key a n : Nat) : Place → State
  | .s i => s.modCtx key fun x => x.setS i (BitVec.ofNat 64 (leNat (s.bytes a n))) (s.poisoned a n)
  | .m i => s.modCtx key fun x => x.setM i (BitVec.ofNat 64 (leNat (s.bytes a n))) (s.poisoned a n)
  | .v i => s.modCtx key fun x =>
      x.setV i ((List.range 32).map fun j => BitVec.ofNat 32 (fld (s.bytes a n) (4 * j) 4)) (s.poisoned a n)
  | .scratch o => s.scratchWrite k.team k.core (s.window k.team t).1 o (s.bytes a n)

/-- What a store from a place writes at its address. -/
def State.storeFrom (s : State) (k : Site) (w : BitVec 64) (t : Task) (key a n : Nat) : Place → State
  | .s i => s.taskStore w ((s.ctx key).tainted [pS i]) a (leBytes n ((s.ctx key).s i).toNat)
  | .m i => s.taskStore w ((s.ctx key).tainted [pM i]) a (leBytes n ((s.ctx key).m i).toNat)
  | .v i => s.taskStore w ((s.ctx key).tainted [pV i]) a (((s.ctx key).v i).flatMap fun v => leBytes 4 v.toNat)
  | .scratch o => s.taskStore w false a (s.scratchRead k.team k.core (s.window k.team t).1 o n)

/-- A load whose access is allowed puts the bytes at its address into its place. -/
theorem exec_basinLoad_of_ok {dst : Place} {ra off n a : Nat} {ecc : List (Nat × Bool)}
    (h : z.issuing k.team = some (w, t, rk)) (hc : ¬16 ≤ k.core)
    (ha : (z.issued k t).access k t (ctxKey k.team k.core t.ctx) dst ra off n = .ok a) :
    exec (.basinLoad k dst ra off n ecc) z = .next (State.settle
      (((z.issued k t).loaded a n ecc).loadInto k t (ctxKey k.team k.core t.ctx) a n dst)) := by
  refine event_onSite h hc ?_
  rw [ha]
  cases dst <;> rfl

/-- A store whose access is allowed writes the bytes of its place to its address. -/
theorem exec_basinStore_of_ok {src : Place} {ra off n a : Nat}
    (h : z.issuing k.team = some (w, t, rk)) (hc : ¬16 ≤ k.core)
    (ha : (z.issued k t).access k t (ctxKey k.team k.core t.ctx) src ra off n = .ok a) :
    exec (.basinStore k src ra off n) z = .next (State.settle
      ((z.issued k t).storeFrom k w t (ctxKey k.team k.core t.ctx) a n src)) := by
  refine event_onSite h hc ?_
  rw [ha]
  cases src <;> rfl

end Sys2Proof.Machine
end

section
/-! The array, vector, load and store instructions and TRAP complete. -/

namespace Sys2Proof.Machine

/-- Settles O26: the checks of each instruction pass, and its effect follows. The window that a scratchpad access lies
in (log entry 20), the comparison with a saved statistic (log entry 22), the rounding seed as an operand (log entry
147), the half of a BF16 register that QMX takes (log entry 153) and which conversions narrow (log entry 155) are the
model's choices. -/
theorem coreArithmeticAndBasinInstructions : Obligations.CoreArithmeticAndBasinInstructions := by
  refine ⟨?step, ?finish, ?finishOverflow, ?qmx, ?arithmetic, ?reduction, ?loadS, ?loadM, ?loadV, ?loadScratch,
    ?storeS, ?storeM, ?storeV, ?storeScratch, ?trap⟩
  case step =>
    intro k p z s w t rk h hc key s' array ha hp hb hal hm s1 hf
    exact exec_arrayStep_of_checks h hc ha hp hb hal hm (by rw [hf]; rfl)
  case finish =>
    intro k p z s w t rk h hc key s' array ha hp hb hal hm s1 f hf wide ho hw
    exact exec_arrayStep_of_checks h hc ha hp hb hal hm (hf ▸ State.endStep_without_overflow ho hw)
  case finishOverflow =>
    intro k p z s w t rk h hc key s' array ha hp hb hal hm s1 f hf o ho hw
    exact exec_arrayStep_of_checks h hc ha hp hb hal hm (hf ▸ State.endStep_with_overflow ho hw)
  case qmx =>
    intro k f ln hi r vs vd sd z s g hg mode hm w t rk h hc key s' hok
    refine event_eq ?_
    rw [hg, hm]
    exact onVec_of h hc hok
  case arithmetic =>
    intro k op ln r vd va vb vc z s mode hm srcs w t rk h hc key s' x m res vs hr hv
    exact exec_vectorArithmetic_of_result hm h hc hr hv
  case reduction =>
    intro k op ln r src n sd saved z s w t rk h hc key s' ok mode hm hok g m step l res out s1
    refine event_onSite h hc ?_
    rw [hm]
    exact if_neg (not_denied hok)
  case loadS =>
    rintro k _ ra off n ecc z s w t rk h hc key s' a ha s1 bs p i rfl
    exact exec_basinLoad_of_ok h hc ha
  case loadM =>
    rintro k _ ra off n ecc z s w t rk h hc key s' a ha s1 bs p i rfl
    exact exec_basinLoad_of_ok h hc ha
  case loadV =>
    rintro k _ ra off n ecc z s w t rk h hc key s' a ha s1 bs p i rfl
    exact exec_basinLoad_of_ok h hc ha
  case loadScratch =>
    rintro k _ ra off n ecc z s w t rk h hc key s' a ha s1 bs o rfl
    exact exec_basinLoad_of_ok h hc ha
  case storeS =>
    rintro k _ ra off n z s w t rk h hc key s' a ha x i rfl
    exact exec_basinStore_of_ok h hc ha
  case storeM =>
    rintro k _ ra off n z s w t rk h hc key s' a ha x i rfl
    exact exec_basinStore_of_ok h hc ha
  case storeV =>
    rintro k _ ra off n z s w t rk h hc key s' a ha x i rfl
    exact exec_basinStore_of_ok h hc ha
  case storeScratch =>
    rintro k _ ra off n z s w t rk h hc key s' a ha o rfl
    exact exec_basinStore_of_ok h hc ha
  case trap =>
    intro k v s w t rk h hc
    exact event_onSite h hc rfl

end Sys2Proof.Machine
end

section
/-! The exact sum instructions (R99, R116): what an exact reduction leaves where its checks pass. -/

namespace Sys2Proof.Machine

/-- Whether the encoding of an exact reduction is defined: its registers, the cores it merges and its final
rounding. -/
def exLegal (t : Task) (regs : List Nat) (ok : Bool) (ex : ExCtl) : Bool :=
  ok && vOk regs && ex.merge.all (fun e => t.teams.contains e.1 && e.2 < 16) &&
    (match ex.fin with | some f => f.2 < 32 && (RMode.of f.1.mode).isSome | none => true)

/-- The state with an exact register written out as a partial, where one is named. -/
def State.exWriteOut (s : State) (w : BitVec 64) (p : Bool) (a : Acc) : Option ExPart → State
  | none => s
  | some q =>
    let s := s.taskStore w p q.entry a.ep16
    match q.record with
    | some b => if a.isWide then s.taskStore w p b a.ep64 else s
    | none => s

/-- The exact register of a core after an exact reduction. -/
def State.exSum (s : State) (k : Site) (t : Task) (terms : Ctx → List FVal) (ex : ExCtl) : Acc :=
  let x := s.ctx (ctxKey k.team k.core t.ctx)
  s.exactOf t ex x (terms x)

/-- Its poison bit. -/
def State.exPoisoned (s : State) (k : Site) (t : Task) (regs : List Nat) (ex : ExCtl) : Bool :=
  s.exactTaint t ex (s.ctx (ctxKey k.team k.core t.ctx)) regs

/-- The state in which a core keeps an exact register `a` with poison bit `p`, written out where a partial is named. -/
def State.exKeep (s : State) (k : Site) (w : BitVec 64) (t : Task) (a : Acc) (p : Bool) (ex : ExCtl) : State :=
  (s.modCtx (ctxKey k.team k.core t.ctx) fun x => { x with exact := a, exPoison := p }).exWriteOut w p a ex.out

/-- The state in which an exact register is rounded once to a scalar register and cleared, where that is asked for
(R95, R112). -/
def State.exRound (s : State) (k : Site) (t : Task) (a : Acc) (p : Bool) : Option (Rnd × Nat) → State
  | none => s
  | some (r, sd) =>
    let mode := (RMode.of r.mode).getD .rne
    let v := a.resolve mode 0 (.zero false)
    let u := if r.mode = 4 then srInt r.seed r.stream r.index else 0
    (s.countRounding k.team a.drops.toNat v.kind).modCtx (ctxKey k.team k.core t.ctx) fun x =>
      ({ x with exact := Acc.reset, exPoison := false }).setS sd (BitVec.ofNat 64 (Fmt.fp32.round mode r.sat u v)) p

/-- An exact reduction whose checks pass keeps its register, and rounds it where that is asked for. -/
theorem event_exReduce {z : State} {k : Site} {w : BitVec 64} {t : Task} {rk : Nat} {regs : List Nat} {ok : Bool}
    {terms : Ctx → List FVal} {ex : ExCtl} {fin : Option (Rnd × Nat)} (h : z.issuing k.team = some (w, t, rk))
    (hc : ¬16 ≤ k.core) (hl : exLegal t regs ok ex = true)
    (hparts : (ex.parts.findSome? fun q =>
      (z.issued k t).partFault t q (ep16Wide ((z.issued k t).bytes q.entry 16))) = none)
    (hout : (ex.out.bind fun q =>
      (z.issued k t).partFault t q ((z.issued k t).exSum k t terms ex).isWide) = none)
    (hf : ex.fin = fin) :
    event (z.exReduce k regs ok terms ex) = .next (State.settle
      (((z.issued k t).exKeep k w t ((z.issued k t).exSum k t terms ex) ((z.issued k t).exPoisoned k t regs ex)
        ex).exRound k t ((z.issued k t).exSum k t terms ex) ((z.issued k t).exPoisoned k t regs ex) fin)) := by
  refine event_onSite h hc ((if_neg (not_denied hl)).trans ?_)
  simp only [State.exSum] at hout
  rw [hparts]
  dsimp only
  rw [hout, hf]
  cases fin <;> rfl

/-- Settles O27: each instruction is an exact reduction of its terms. The rounding seed as an operand (log entry 147)
and the exact register as part of the context (log entry 148) are the model's choices. -/
theorem exactSumInstructions : Obligations.ExactSumInstructions := by
  refine ⟨?sum, ?sumRounded, ?squares, ?squaresRounded, ?dot, ?dotRounded⟩
  case sum =>
    intro k ln va n ex z s regs ok terms w t rk h hc key s' good hl hparts x a0 a1 a p hout s1 s2 hf
    exact event_exReduce h hc hl hparts hout hf
  case sumRounded =>
    intro k ln va n ex z s regs ok terms w t rk h hc key s' good hl hparts x a0 a1 a p hout s1 s2 r sd hf
    exact event_exReduce h hc hl hparts hout hf
  case squares =>
    intro k ln va n ex z s regs ok terms w t rk h hc key s' good hl hparts x a0 a1 a p hout s1 s2 hf
    exact event_exReduce h hc hl hparts hout hf
  case squaresRounded =>
    intro k ln va n ex z s regs ok terms w t rk h hc key s' good hl hparts x a0 a1 a p hout s1 s2 r sd hf
    exact event_exReduce h hc hl hparts hout hf
  case dot =>
    intro k ln va vb n ex z s regs ok terms w t rk h hc key s' good hl hparts x a0 a1 a p hout s1 s2 hf
    exact event_exReduce h hc hl hparts hout hf
  case dotRounded =>
    intro k ln va vb n ex z s regs ok terms w t rk h hc key s' good hl hparts x a0 a1 a p hout s1 s2 r sd hf
    exact event_exReduce h hc hl hparts hout hf

end Sys2Proof.Machine
end

section
/-! The function, random and permutation instructions of the vector unit (R118 to R139, R296, R310) complete. -/

namespace Sys2Proof.Machine

/-- Settles O28: the encoding of each instruction is defined, and its effect follows. Their operands (log entry 18) and
the window that the table of TBNORM lies in (log entry 20) are the model's choices. -/
theorem vectorFunctionInstructions : Obligations.VectorFunctionInstructions := by
  refine ⟨?exp, ?expm1, ?log, ?tanh, ?sigmoid, ?silu, ?lfrand, ?lfseed, ?cbrand, ?cbunif, ?cbnorm, ?tbnorm, ?ppot,
    ?tisw, ?klt, ?lpcmp⟩
  case exp => exact fun _ _ _ _ _ _ _ _ h hc hv => event_onVec h hc hv
  case expm1 => exact fun _ _ _ _ _ _ _ _ h hc hv => event_onVec h hc hv
  case log => exact fun _ _ _ _ _ _ _ _ h hc hv => event_onVec h hc hv
  case tanh => exact fun _ _ _ _ _ _ _ _ h hc hv => event_onVec h hc hv
  case sigmoid => exact fun _ _ _ _ _ _ _ _ h hc hv => event_onVec h hc hv
  case silu => exact fun _ _ _ _ _ _ _ _ h hc hv => event_onVec h hc hv
  case lfrand => exact fun _ _ _ _ _ _ h hc hv => event_onSite h hc (if_neg (not_denied hv))
  case lfseed => exact fun _ _ _ _ _ _ h hc hs => event_onSite h hc (if_neg hs)
  case cbrand => exact fun _ _ _ _ _ _ _ _ h hc hv => event_onVec h hc hv
  case cbunif => exact fun _ _ _ _ _ _ _ _ h hc hv => event_onVec h hc hv
  case cbnorm => exact fun _ _ _ _ _ _ _ _ h hc hv => event_onVec h hc hv
  case tbnorm =>
    intro k vd vw off z s w t rk h hc key s' win hv ha hw tab
    exact event_onSite h hc ((if_neg (not_denied hv)).trans ((if_neg ha).trans (if_neg hw)))
  case ppot => exact fun _ _ _ _ _ _ _ _ _ _ _ _ h hc hv => event_onVec h hc hv
  case tisw => exact fun _ _ _ _ _ _ _ _ _ h hc hv => event_onVec h hc hv
  case klt => exact fun _ _ _ _ _ _ _ _ _ _ h hc hv => event_onVec h hc hv
  case lpcmp =>
    intro k lp record ver learnVer seqs poss n z s w t rk h hc key s' hv x at_
    exact event_onSite h hc (if_neg hv)

end Sys2Proof.Machine
end

section
/-! The counter-based generator CB4x32-10 (R129, R130): each step of a round can be undone, the round keys depend on the
key alone, and so a block determines its counter. -/

namespace Sys2Proof.Machine

/-! ### The steps of a round -/

/-- A word rotated left determines the word. -/
theorem rotateLeft_inj {w : Nat} {x y : BitVec w} (r : Nat) : x.rotateLeft r = y.rotateLeft r ↔ x = y := by
  refine ⟨fun h => BitVec.eq_of_getElem_eq fun j hj => ?_, congrArg (BitVec.rotateLeft · r)⟩
  have hr : r % w < w := Nat.mod_lt _ (by omega)
  have hbit (i : Nat) (hi : i < w) : (x.rotateLeft r)[i] = (y.rotateLeft r)[i] := by rw [h]
  simp only [BitVec.getElem_rotateLeft] at hbit
  by_cases hs : j + r % w < w
  · simpa using hbit (j + r % w) hs
  · have hwrap := hbit (j + r % w - w) (by omega)
    rw [dif_pos (by omega), dif_pos (by omega)] at hwrap
    simpa [show w - r % w + (j + r % w - w) = j by omega] using hwrap

/-- A word that equals its own right shift is 0. -/
theorem eq_zero_of_eq_ushiftRight {w : Nat} {x : BitVec w} {n : Nat} (hn : n ≠ 0) (h : x = x >>> n) : x = 0#w := by
  have hdiv : x.toNat = x.toNat / 2 ^ n := by
    rw [← Nat.shiftRight_eq_div_pow, ← BitVec.toNat_ushiftRight, ← h]
  by_contra hx
  have hpos : 0 < x.toNat := Nat.pos_of_ne_zero fun h0 => hx (BitVec.eq_of_toNat_eq h0)
  exact (Nat.div_lt_self hpos (Nat.one_lt_two_pow hn)).ne hdiv.symm

/-- A word with its right shift added without carry determines the word: the difference of two such words equals its own
shift. -/
theorem xor_ushiftRight_inj {w : Nat} {x y : BitVec w} {n : Nat} (hn : n ≠ 0) :
    x ^^^ x >>> n = y ^^^ y >>> n ↔ x = y := by
  refine ⟨fun h => BitVec.xor_eq_zero_iff.1 (eq_zero_of_eq_ushiftRight hn ?_), fun h => h ▸ rfl⟩
  rw [BitVec.ushiftRight_xor_distrib, ← BitVec.xor_eq_zero_iff]
  calc x ^^^ y ^^^ (x >>> n ^^^ y >>> n)
    _ = x ^^^ x >>> n ^^^ (y ^^^ y >>> n) := by ac_rfl
    _ = 0#w := BitVec.xor_eq_zero_iff.2 h

/-- A product with a word that has an inverse determines the other factor. -/
theorem mul_inj_of_inverse {w : Nat} {x y c d : BitVec w} (h : c * d = 1#w) : x * c = y * c ↔ x = y := by
  refine ⟨fun hxy => ?_, congrArg (· * c)⟩
  calc x
    _ = x * c * d := by rw [BitVec.mul_assoc, h, BitVec.mul_one]
    _ = y * c * d := by rw [hxy]
    _ = y := by rw [BitVec.mul_assoc, h, BitVec.mul_one]

/-! ### Rounds -/

/-- A round can be undone: the second key word, then the words 2, 1, 0 and 3 follow from what the round answers. -/
theorem cbRound_injective : Function.Injective cbRound := by
  rintro ⟨x0, x1, x2, x3, k0, k1⟩ ⟨y0, y1, y2, y3, l0, l1⟩ h
  simp only [cbRound, Prod.mk.injEq] at h
  obtain ⟨h1, h2, h3, h0, hk0, hk1⟩ := h
  obtain rfl : k0 = l0 := (BitVec.add_left_inj _).1 hk0
  obtain rfl : k1 = l1 := (rotateLeft_inj 11).1 ((BitVec.add_left_inj _).1 hk1)
  obtain rfl : x2 = y2 :=
    (mul_inj_of_inverse (d := 0x3F302E29#32) (by decide)).1 ((xor_ushiftRight_inj (by decide)).1 h2)
  obtain rfl : x1 = y1 := (BitVec.add_left_inj _).1 h1
  obtain rfl : x0 = y0 := (BitVec.add_left_inj _).1 ((BitVec.xor_left_inj _).1 h0)
  have h3' := (mul_inj_of_inverse (d := 0x4E98440B#32) (by decide)).1 ((xor_ushiftRight_inj (by decide)).1 h3)
  obtain rfl : x3 = y3 := (BitVec.xor_left_inj _).1 h3'
  rfl

/-- Rounds are the repetition of one round. -/
theorem cbRounds_eq_iterate (n : Nat) : cbRounds n = cbRound^[n] := by
  induction n with
  | zero => rfl
  | succ n ih =>
    calc cbRounds (n + 1)
      _ = cbRounds n ∘ cbRound := rfl
      _ = cbRound^[n + 1] := by rw [ih, Function.iterate_succ]

/-- Rounds can be undone. -/
theorem cbRounds_injective (n : Nat) : Function.Injective (cbRounds n) :=
  cbRounds_eq_iterate n ▸ cbRound_injective.iterate n

/-- The keys of a state of the rounds. -/
def CbState.keys (s : CbState) : BitVec 32 × BitVec 32 := s.2.2.2.2

/-- The keys of the next round. -/
def cbNextKeys (k : BitVec 32 × BitVec 32) : BitVec 32 × BitVec 32 :=
  (k.1 + 0x6A1FC0D3#32, k.2.rotateLeft 11 + 0x5B903E27#32)

/-- A round's keys give the next ones, whatever the words are. -/
theorem cbRound_keys : Function.Semiconj CbState.keys cbRound cbNextKeys := fun ⟨_, _, _, _, _, _⟩ => rfl

/-- The keys after rounds depend on the keys before them alone. -/
theorem cbRounds_keys (n : Nat) (s : CbState) : (cbRounds n s).keys = cbNextKeys^[n] s.keys :=
  cbRounds_eq_iterate n ▸ cbRound_keys.iterate_right n s

/-! ### Blocks -/

/-- The state that the rounds of a key and a counter start from. -/
def cbStart (key : BitVec 64) (ctr : BitVec 128) : CbState :=
  (ctr.extractLsb' 0 32, ctr.extractLsb' 32 32, ctr.extractLsb' 64 32, ctr.extractLsb' 96 32,
    key.extractLsb' 0 32, key.extractLsb' 32 32)

/-- The rounds start from the two halves of the key. -/
theorem cbStart_keys (key : BitVec 64) (ctr : BitVec 128) :
    (cbStart key ctr).keys = (key.extractLsb' 0 32, key.extractLsb' 32 32) := rfl

/-- The block that a state of the rounds gives. -/
def CbState.block (s : CbState) : List (BitVec 32) :=
  let (x0, x1, x2, x3, k0, k1) := s
  [x0 + k1, x1 ^^^ k0, x2 + k0, x3 ^^^ k1]

/-- A block comes from the state after ten rounds. -/
theorem cb4_eq_block (key : BitVec 64) (ctr : BitVec 128) : cb4 key ctr = (cbRounds 10 (cbStart key ctr)).block := by
  unfold cb4 cbStart
  generalize cbRounds 10 _ = s
  rfl

/-- Four words of 32 bits make a counter. -/
theorem cbStart_injective (key : BitVec 64) : Function.Injective (cbStart key) := by
  intro c d h
  simp only [cbStart, Prod.mk.injEq] at h
  obtain ⟨h0, h1, h2, h3, -⟩ := h
  have hpart (i : Nat) (x y : BitVec 128) (e : x.extractLsb' i 32 = y.extractLsb' i 32) :
      x.toNat >>> i % 2 ^ 32 = y.toNat >>> i % 2 ^ 32 := by
    simpa using congrArg BitVec.toNat e
  have w0 := hpart _ _ _ h0
  have w1 := hpart _ _ _ h1
  have w2 := hpart _ _ _ h2
  have w3 := hpart _ _ _ h3
  bv_omega

/-- Under the same keys a block determines its state. -/
theorem CbState.eq_of_block {s t : CbState} (hk : s.keys = t.keys) (h : s.block = t.block) : s = t := by
  obtain ⟨x0, x1, x2, x3, k0, k1⟩ := s
  obtain ⟨y0, y1, y2, y3, l0, l1⟩ := t
  obtain ⟨rfl, rfl⟩ : k0 = l0 ∧ k1 = l1 := Prod.mk.inj hk
  simpa [CbState.block] using h

/-- Settles O19: the key fixes the keys of every round, and so the block gives the last state, and that the first. -/
theorem counterBlocksDiffer : Obligations.CounterBlocksDiffer := by
  intro key c d h
  rw [cb4_eq_block, cb4_eq_block] at h
  have hkeys : (cbRounds 10 (cbStart key c)).keys = (cbRounds 10 (cbStart key d)).keys := by
    rw [cbRounds_keys, cbRounds_keys, cbStart_keys, cbStart_keys]
  exact cbStart_injective key (cbRounds_injective 10 (CbState.eq_of_block hkeys h))

end Sys2Proof.Machine
end

section
/-! Uniform values (R134): a magnitude of at most 24 significant bits in the normal range of FP32 is exact there, and
the odd multiples of 2^-24 below 1 are such magnitudes. -/

namespace Sys2Proof.Machine

/-! ### Exact values in FP32 -/

/-- A magnitude of whole units rounds to them in every mode. -/
theorem roundUnits_of_le (mode : RMode) (neg : Bool) (m : Nat) {e q : Int} (u : Nat) (h : q ≤ e) :
    roundUnits mode neg m e q u = m * 2 ^ (e - q).toNat := by
  have haway : roundAway mode neg (m * 2 ^ (e - q).toNat) 0 0 u = false := by
    cases mode <;> simp [roundAway]
  simp [roundUnits, toUnits, h, haway]

/-- A normal FP32 code without a sign gives the significand and the unit that it holds. -/
theorem fp32_decode_normal {x k : Nat} (hx : x < 254) (hk : 2 ^ 23 ≤ k) (hk' : k < 2 ^ 24) :
    Fmt.fp32.decode (x * 2 ^ 23 + k) = .fin false k (x - 149) := by
  have hmant : (x * 2 ^ 23 + k) % 2 ^ 23 = k - 2 ^ 23 := by omega
  have hexp : (x * 2 ^ 23 + k) / 2 ^ 23 % 2 ^ 8 = x + 1 := by omega
  have hsign : (x * 2 ^ 23 + k) / 2 ^ (8 + 23) % 2 = 0 := by omega
  simp only [Fmt.decode, Fmt.mb, Fmt.eb, Fmt.bias, Fmt.hasInf, bitAt, hmant, hexp, hsign]
  rw [if_neg (by simp; omega), if_neg (by simp), if_neg (by omega), Nat.sub_add_cancel hk]
  exact congrArg (FVal.fin false k) (by omega)

/-- A magnitude of at most 24 bits, at least 2^-126 and below 2^128, is exact in FP32: it has the significand that is
its 24 leading bits. -/
theorem fv_toF32_exact (mode : RMode) {m : Nat} {e : Int} (hm : m ≠ 0) (hbits : m < 2 ^ 24)
    (hlow : -126 ≤ (m.log2 : Int) + e) (hhigh : (m.log2 : Int) + e ≤ 127) :
    fv (toF32 mode (.fin false m e)) = .fin false (m * 2 ^ (23 - m.log2)) (m.log2 + e - 23) := by
  have hlog : m.log2 < 24 := (Nat.log2_lt hm).2 hbits
  obtain ⟨x, hx⟩ : ∃ x : Nat, (m.log2 : Int) + e = x - 126 := ⟨((m.log2 : Int) + e + 126).toNat, by omega⟩
  have hq : Fmt.fp32.quantum m e = x - 149 := by
    simp only [Fmt.quantum, Fmt.bias, Fmt.mb]
    omega
  set k := m * 2 ^ (23 - m.log2) with hkdef
  have hk : 2 ^ 23 ≤ k := by
    calc 2 ^ 23
      _ = 2 ^ m.log2 * 2 ^ (23 - m.log2) := by rw [← pow_add, show m.log2 + (23 - m.log2) = 23 by omega]
      _ ≤ k := Nat.mul_le_mul_right _ (Nat.log2_self_le hm)
  have hk' : k < 2 ^ 24 := by
    calc k
      _ < 2 ^ (m.log2 + 1) * 2 ^ (23 - m.log2) := Nat.mul_lt_mul_of_pos_right Nat.lt_log2_self (by positivity)
      _ = 2 ^ 24 := by rw [← pow_add, show m.log2 + 1 + (23 - m.log2) = 24 by omega]
  have hunits : roundUnits mode false m e (x - 149) 0 = k := by
    rw [roundUnits_of_le _ _ _ _ (by omega), show (e - ((x : Int) - 149)).toNat = 23 - m.log2 by omega]
  have hround : Fmt.fp32.round mode false 0 (.fin false m e) = x * 2 ^ 23 + k := by
    simp only [Fmt.round, hm, hq, hunits, Fmt.bias, Fmt.mb, Fmt.maxCode, Fmt.signBit, if_false]
    rw [if_neg (by omega)]
    simp
  rw [fv, toF32, hround, BitVec.toNat_ofNat, Nat.mod_eq_of_lt (by omega), fp32_decode_normal (by omega) hk hk', hx]
  exact congrArg (FVal.fin false k) (by omega)

/-- A significand carried up to its 24 leading bits names the same magnitude. -/
theorem magnitude_normalised {m : Nat} (e : Int) (h : m.log2 < 24) :
    ((m * 2 ^ (23 - m.log2) : Nat) : ℚ) * (2 : ℚ) ^ ((m.log2 : Int) + e - 23) = m * (2 : ℚ) ^ e := by
  rw [Nat.cast_mul, Nat.cast_pow, Nat.cast_ofNat, mul_assoc, ← zpow_natCast, ← zpow_add₀ two_ne_zero]
  congr 2
  omega

/-! ### Uniform values -/

/-- Settles O20: the numerator is odd and below 2^24, so the value is exact and no bound is passed. -/
theorem uniformValuesAreExact : Obligations.UniformValuesAreExact := by
  intro w
  have hn : (w >>> 9).toNat < 2 ^ 23 := by bv_omega
  unfold uniform
  generalize (w >>> 9).toNat = n at hn
  have hlog : (2 * n + 1).log2 < 24 := (Nat.log2_lt (by omega)).2 (by omega)
  have hvalue : ((2 * n + 1 : Nat) : ℚ) = 2 * n + 1 := by push_cast; rfl
  have hnonneg : (0 : ℚ) ≤ n := n.cast_nonneg
  have hbound : (n : ℚ) + 1 ≤ 2 ^ 23 := by exact_mod_cast hn
  refine ⟨_, _, fv_toF32_exact .rne (by omega) (by omega) (by omega) (by omega), ?_⟩
  rw [magnitude_normalised _ hlog, hvalue]
  refine ⟨rfl, ?least, ?greatest⟩
  case least => exact le_mul_of_one_le_left (by positivity) (by linarith)
  case greatest =>
    norm_num at hbound ⊢
    linarith

end Sys2Proof.Machine
end

section
/-! The random-number commands (R142 to R145): the equations of a fill, of each outcome of a check, and of a read of the
native states. -/

namespace Sys2Proof.Machine

/-! ### The bodies -/

/-- A fill whose parameters are in range writes its elements (R143). -/
theorem State.rngFill_ok {s s1 : State} {c : Cmd} {subject : Nat} {tab : Nat → F32}
    (hp : (c.u32 36 ≤ 3 && c.u64 24 + (c.u32 32 + 3) / 4 ≤ 2 ^ 64 && c.u32 20 ≤ 15 && subject < 2 ^ 28) = true)
    (hw : s.writeBuf c (c.u64 0)
      ((fillWords (BitVec.ofNat 64 (c.u64 8)) (c.u32 16) subject (c.u32 20) (c.u64 24) (c.u32 32) (c.u32 36)
        tab).flatMap fun w => leBytes 4 w.toNat) = .ok s1) :
    s.rngFill c subject tab = .ok (s1.ok c (c.u32 32)) := need_of hp (bind_of hw rfl)

/-- A read of the native states of a context that its checks let through writes them (R145). -/
theorem State.laneRead_ok {s s1 : State} {c : Cmd} (hc : s.laneCheck c = .ok ())
    (hw : s.writeBuf c (c.u64 4)
      ((List.range 32).flatMap fun j => leBytes 16 (s.laneState (c.u16 0) (c.u8 2) (c.u8 3) j).toNat) = .ok s1) :
    s.laneRead c = .ok (s1.ok c) := bind_of hc (bind_of hw rfl)

/-- The RESULT of a check: the idle teams, which are tested, and the busy ones, which are skipped. -/
def State.checkResult (s : State) (ts : List Nat) : Nat :=
  (ts.filter fun l => !(s.running l).isSome).length + (ts.filter fun l => (s.running l).isSome).length * 2 ^ 16

/-- The teams that come before the unit at fault: none before the Harbourmaster, which is tested first. -/
def teamsBefore (ts : List Nat) (b : Nat) : List Nat := if b = 0xFFFF then [] else ts.filter fun l => l < b

/-- Whether a check tests a team: it is one of those to test, holds no running task, and is in service. -/
def State.tests (s : State) (ts : List Nat) (b : Nat) : Bool :=
  ts.contains b && !(s.running b).isSome && (s.team b).inService && !(s.team b).replacing

section
variable (s : State) (c : Cmd) (ts : List Nat)

/-- A check that finds no fault counts every team. -/
theorem State.rngCheck_none : s.rngCheck c ts none = s.ok c (s.checkResult ts) := rfl

/-- A mismatch of the Harbourmaster ends the check before any team. -/
theorem State.rngCheck_harbourmaster {b : Nat} (hb : b = 0xFFFF) : s.rngCheck c ts (some b) =
    (s.logEv evRngFault (padByte c.fn) stRngFault 0xFFFF c.w).complete c.w stRngFault 0#64 0xFFFF#32 := if_pos hb

variable {b : Nat} (hb : ¬b = 0xFFFF)
include hb

/-- A mismatch of a tested team ends the check with the teams before it, and the team fails. -/
theorem State.rngCheck_mismatch (ht : s.tests ts b = true) : s.rngCheck c ts (some b) =
    ((s.logEv evRngFault (padByte c.fn) stRngFault b c.w).complete c.w stRngFault
      (BitVec.ofNat 64 (s.checkResult (teamsBefore ts b))) (BitVec.ofNat 32 b)).failTeam b [] :=
  (if_neg hb).trans (if_pos ht)

/-- A fault of a team that is not tested is not found. -/
theorem State.rngCheck_untested (ht : ¬s.tests ts b = true) :
    s.rngCheck c ts (some b) = s.ok c (s.checkResult ts) := (if_neg hb).trans (if_neg ht)

end

/-! ### The commands -/

/-- Settles O32: each command is ready, its checks pass one after another, and its body succeeds. That the table of an
expert fill is read first and its poison dropped (log entry 151), the order of the checks of RNG_LANE_STATE and the
dropped poison of its buffer (log entry 150) are the model's choices. -/
theorem randomNumberCommands : Obligations.RandomNumberCommands := by
  refine ⟨?fill, ?fillExpert, ?check, ?checkHarbourmaster, ?checkMismatch, ?checkUntested, ?expert,
    ?expertHarbourmaster, ?expertMismatch, ?expertUntested, ?laneRead, ?laneWrite, ?laneReadExpert⟩
  case fill =>
    intro z wid c h s subject tab p1 dom start count form hp s1 hw
    exact run_ok h (State.rngFill_ok hp hw)
  case fillExpert =>
    intro z wid hm c h s a bs x1 ht subject tab p2 dom start count form hp s1 hw
    exact run_ok h (bind_of ht (State.rngFill_ok hp hw))
  case check =>
    intro z wid bad c h s ts busy before res hb
    subst hb
    exact run_ok h rfl
  case checkHarbourmaster =>
    intro z wid bad c h s b hb hu
    subst hb
    exact run_of_ok h rfl (State.rngCheck_harbourmaster _ _ _ hu)
  case checkMismatch =>
    intro z wid bad c h s ts busy before res b hb hu ht
    subst hb
    exact run_of_ok h rfl (State.rngCheck_mismatch _ _ _ hu ht)
  case checkUntested =>
    intro z wid bad c h s ts busy b hb hu ht
    subst hb
    exact run_of_ok h rfl (State.rngCheck_untested _ _ _ hu ht)
  case expert =>
    intro z wid bad c h s m hm ts busy before res hb
    subst hb
    exact run_ok h (need_of hm rfl)
  case expertHarbourmaster =>
    intro z wid bad c h s m hm b hb hu
    subst hb
    exact run_of_ok h (need_of hm rfl) (State.rngCheck_harbourmaster _ _ _ hu)
  case expertMismatch =>
    intro z wid bad c h s m hm ts busy before res b hb hu ht
    subst hb
    exact run_of_ok h (need_of hm rfl) (State.rngCheck_mismatch _ _ _ hu ht)
  case expertUntested =>
    intro z wid bad c h s m hm ts busy b hb hu ht
    subst hb
    exact run_of_ok h (need_of hm rfl) (State.rngCheck_untested _ _ _ hu ht)
  case laneRead =>
    intro z wid c h s hc s1 hw
    exact run_ok h (State.laneRead_ok hc hw)
  case laneWrite =>
    intro z wid hm c h s hf hc bs x1 hr
    exact run_ok h ((if_pos hf).trans (bind_of hc (bind_of hr rfl)))
  case laneReadExpert =>
    intro z wid hm c h s hf hc s1 hw
    exact run_ok h ((if_neg hf).trans (State.laneRead_ok hc hw))

end Sys2Proof.Machine
end

section
/-! The task events (R154 to R166): the equations of a pre-emption point, of a forced stop, of a save, of a placement,
of the end of a rank and of an exception. -/

namespace Sys2Proof.Machine

/-- What a command answers may be given by an equation of the state before it settles. -/
theorem exec_of_eq {i : Instr} {s u v : State} (h : exec i s = .next u.settle) (e : u = v) :
    exec i s = .next v.settle := e ▸ h

/-! ### Pre-emption points and forced stops (R158) -/

/-- The state in which every core of a team stands at a marked pre-emption point, which it has passed last. -/
def State.atPoint (s : State) (team ctx i : Nat) (e : PpEntry) : State :=
  (List.range 16).foldl (fun s c => s.modCtx (ctxKey team c ctx) fun x =>
    { x with pc := e.pc, lastPp := BitVec.ofNat 16 i }) s

section
variable {s : State} {team r : Nat} {w : BitVec 64} {t : Task}

/-- A team that is asked to stop and stands at a wait stops there. -/
theorem exec_preemptionPoint_wait (ha : s.activeOn team = some (w, t, r))
    (hw : (t.preempt.isSome && !t.arrived.contains r && !t.ended.contains r && s.atStreamWait w r) = true) :
    exec (.teamAtPreemptionPoint team none) s =
      .next (State.settle ((s.withdraw w r).teamStopped w r true none)) := by
  refine event_eq ?_
  dsimp only
  rw [ha]
  exact if_pos hw

/-- A team at a marked point traps where it holds an open product, stops where it is asked to, and else goes on. -/
theorem exec_preemptionPoint_marked {i : Nat} {e : PpEntry} (hi : s.issuing team = some (w, t, r))
    (he : ((tget s.kernels t.kernel).bind fun k => k.pps[i]?) = some e) :
    exec (.teamAtPreemptionPoint team (some i)) s = .next (State.settle
      (if ((s.atPoint team t.ctx i e).team team).product then (s.atPoint team t.ctx i e).raise w r 0 0x09 0
        else if t.preempt.isSome then (s.atPoint team t.ctx i e).teamStopped w r false (some i)
        else s.atPoint team t.ctx i e)) := by
  refine event_eq ?_
  dsimp only
  rw [hi]
  dsimp only
  rw [he]
  rfl

/-- A team that did not stop in time is stopped. -/
theorem exec_forcedStop_of_preempt {p : Preempt} (ha : s.activeOn team = some (w, t, r)) (hp : t.preempt = some p)
    (hr : ¬(t.arrived.contains r || t.ended.contains r) = true) :
    exec (.forcedStop team) s = .next (State.settle
      (((s.reach (if p.force then s.t else p.since + t.grace * 1000)).withdraw w r).teamStopped w r true none)) := by
  refine event_eq ?_
  rw [ha]
  dsimp only
  rw [hp]
  exact if_neg hr

end

/-! ### Save, restore and placement (R154, R161, R162) -/

section
variable {s : State} {w : BitVec 64} {t : Task}

/-- The save of a task and the state that it leaves: a task whose kernel is gone has nothing to save. -/
def State.savedTask (s : State) (t : Task) : List CoreSave × State :=
  match tget s.kernels t.kernel with
  | some k => s.saveTask t k
  | none => ([], s)

/-- The state once a save stands in its area: the contexts are free, and who asked for the pre-emption is answered. -/
def State.suspendSaved (s : State) (w : BitVec 64) (t : Task) : State :=
  let s1 := ((s.savedTask t).2.vacate w t).modTask w fun x =>
    { x with state := .suspSaved, saving := false, saved := (s.savedTask t).1, preempt := none, arrived := [],
             atWait := [] }
  match t.preempt with
  | some p => s1.completeAll p.waiters stOk
  | none => s1

/-- The end of a save suspends the task, which fails where its paddock has become too small for it. -/
theorem exec_saveComplete_of_saving (ht : s.task w = some t)
    (hs : ¬(t.state != .suspResident || !t.saving) = true) :
    exec (.saveComplete w) s = .next (State.settle
      (if ((s.suspendSaved w t).allotment t.paddock).length < t.teamsN then
          (s.suspendSaved w t).finishTask w .failed stTeamsExceed 0#32
        else (s.suspendSaved w t).urgentCheck t.paddock)) := by
  refine event_eq ?_
  rw [ht]
  exact if_neg hs

/-- A task that may be placed, but whose teams are not free, has them freed where it is urgent. -/
theorem exec_taskPlacement_of_not_fits (ht : s.task w = some t)
    (ha : ¬(!t.awaits || !s.part.pstate.running || !s.mayPlace w t) = true) (hf : (!s.fits w t) = true) :
    exec (.taskPlacement w) s = .next (State.settle (if t.urgent then s.urgentCheck t.paddock else s)) := by
  refine event_eq ?_
  rw [ht]
  exact (if_neg ha).trans (if_pos hf)

/-- The window offset of a task's context. -/
def State.windowOffset (s : State) (t : Task) : Nat :=
  match t.teams[0]? with
  | some l => ((tget (s.team l).ctxs t.ctx).map (·.offset)).getD 0
  | none => 0

/-- The placement of a task whose teams are free: a resident suspension needs its window alone, a saved one is restored,
and a queued task starts. -/
def State.placeFitting (s : State) (w : BitVec 64) (t : Task) (k : Kernel) : State :=
  match t.state with
  | .suspResident =>
    let rivals := s.overlapped t.teams (s.windowOffset t) k.window t.ctx
    if rivals.isEmpty then (t.teams.foldl (fun s l => s.unshelve l t.ctx) s).runAgain w t else s.convertOne rivals
  | .suspSaved =>
    match s.teamsFor t with
    | none => s
    | some ts => s.placeOn w t k ts fun s c _ =>
        s.modTask w fun x => { x with restoring := true, teams := ts, ctx := c }
  | _ =>
    match s.teamsFor t with
    | none => s
    | some ts => s.placeOn w t k ts fun s c _ => s.startTask w t k ts c

variable {k : Kernel}

/-- A task that may be placed and whose teams are free is placed. -/
theorem exec_taskPlacement_of_fits (ht : s.task w = some t)
    (ha : ¬(!t.awaits || !s.part.pstate.running || !s.mayPlace w t) = true) (hf : s.fits w t = true)
    (hk : tget s.kernels t.kernel = some k) :
    exec (.taskPlacement w) s = .next (s.placeFitting w t k).settle := by
  refine event_eq ?_
  rw [ht]
  refine (if_neg ha).trans ((if_neg (not_denied hf)).trans ?_)
  rw [hk]
  rfl

/-- A resident suspension runs on once no other live window overlaps its own (R159). -/
theorem State.placeFitting_resident (hs : t.state = .suspResident) : s.placeFitting w t k =
    if (s.overlapped t.teams (s.windowOffset t) k.window t.ctx).isEmpty then
      (t.teams.foldl (fun s l => s.unshelve l t.ctx) s).runAgain w t
    else s.convertOne (s.overlapped t.teams (s.windowOffset t) k.window t.ctx) := by
  simp only [State.placeFitting, hs]

variable {ts : List Nat}

/-- The restore of a saved suspension begins on the teams that are free (R162). -/
theorem State.placeFitting_saved (hs : t.state = .suspSaved) (hts : s.teamsFor t = some ts) :
    s.placeFitting w t k = s.placeOn w t k ts fun s c _ =>
      s.modTask w fun x => { x with restoring := true, teams := ts, ctx := c } := by
  simp only [State.placeFitting, hs, hts]

/-- Any other task that waits starts on the teams that are free (R154). -/
theorem State.placeFitting_start (hr : t.state ≠ .suspResident) (hs : t.state ≠ .suspSaved)
    (hts : s.teamsFor t = some ts) :
    s.placeFitting w t k = s.placeOn w t k ts fun s c _ => s.startTask w t k ts c := by
  unfold State.placeFitting
  split
  · next h => exact absurd h hr
  · next h => exact absurd h hs
  · rw [hts]

/-! ### The end of a task (R157) -/

/-- The state in which a rank of a task has ended. -/
def State.rankEnded (s : State) (w : BitVec 64) (rank : Nat) : State :=
  s.modTask w fun x => { x with ended := insNat rank x.ended }

/-- What the end of a rank leads to: the last one ends the task, and one that a pre-emption still waited for suspends it
once all its teams have stopped. -/
def State.endRank (s : State) (w : BitVec 64) (t : Task) (rank : Nat) : State :=
  if (List.range t.teamsN).all fun r => r = rank || t.ended.contains r then
    (s.rankEnded w rank).finishTask w .done stOk 0#32
  else
    match t.preempt, (s.rankEnded w rank).task w with
    | some p, some t' => if t'.allStopped then (s.rankEnded w rank).suspend w t' p else s.rankEnded w rank
    | _, _ => s.rankEnded w rank

variable {rank : Nat}

/-- A rank whose team issues for the task ends. -/
theorem exec_taskEnd_of_issuing {l : Nat} {w' : BitVec 64} {x1 : Task} {x2 : Nat} (ht : s.task w = some t)
    (hl : t.teams[rank]? = some l) (hi : s.issuing l = some (w', x1, x2)) (hw : ¬(w' != w) = true) :
    exec (.taskEnd w rank) s = .next (s.endRank w t rank).settle := by
  refine event_eq ?_
  rw [ht]
  dsimp only
  rw [hl]
  dsimp only
  rw [hi]
  exact if_neg hw

/-- While other ranks run on, a pre-emption is done once the end of the rank leaves every team stopped. -/
theorem State.endRank_preempted {p : Preempt} {t' : Task}
    (hall : ¬((List.range t.teamsN).all fun r => r = rank || t.ended.contains r) = true)
    (hp : t.preempt = some p) (ht' : (s.rankEnded w rank).task w = some t') :
    s.endRank w t rank = if t'.allStopped then (s.rankEnded w rank).suspend w t' p else s.rankEnded w rank := by
  refine (if_neg hall).trans ?_
  rw [hp, ht']

end

/-! ### Exceptions (R165, R166) -/

section
variable {s : State} {k : Site} {cause : Nat} {addr : Nat} {more : List (Nat × Nat × Nat × Nat)}
  {dirty : List (BitVec 64)} (hc : ¬(320 ≤ k.team || 16 ≤ k.core || !causeOk cause) = true)
include hc

/-- A hardware fault of a team that no task is exposed to fails the team alone. -/
theorem State.teamTrap_unexposed (he : s.exposed k.team = none) (hh : hwCause cause = true) :
    s.teamTrap k cause addr more dirty = s.failTeam k.team dirty := by
  refine (if_neg hc).trans ?_
  rw [he]
  exact if_pos hh

/-- An exception of a team that a task is exposed to is raised in that task, with those of its other teams. -/
theorem State.teamTrap_exposed {w : BitVec 64} {t : Task} {r : Nat} (he : s.exposed k.team = some (w, t, r)) :
    s.teamTrap k cause addr more dirty =
      (s.modCtx (ctxKey k.team k.core t.ctx) fun x => { x with pc := k.pc }).raise w r k.core cause addr
        (more.filter fun m => m.1 < t.teams.length && m.2.1 < 16 && causeOk m.2.2.1) dirty := by
  refine (if_neg hc).trans ?_
  rw [he]

end

/-! ### The events -/

/-- Settles O30: each event finds its task or team and takes the branch of its meaning that its conditions name. That
waits are withdrawn at a pre-emption (log entry 36), the save record (log entry 37), the rank and core of a time limit
as operands (log entry 42) and the further teams of an exception as an operand (log entry 63) are the model's
choices. -/
theorem taskEvents : Obligations.TaskEvents := by
  refine ⟨?wait, ?pointProduct, ?pointStop, ?pointPass, ?forcedStop, ?saveFails, ?save, ?restore, ?urgent, ?resident,
    ?rivals, ?saved, ?start, ?waitLimit, ?lastRank, ?rankStops, ?rankEnds, ?teamFault, ?exception, ?timeLimit,
    ?ackFault, ?ackException⟩
  case wait =>
    rintro team _ s rfl w t r ha hw
    exact exec_preemptionPoint_wait ha hw
  case pointProduct =>
    rintro team _ z s i rfl w t r hi e he s1 hp
    exact exec_of_eq (exec_preemptionPoint_marked hi he) (if_pos hp)
  case pointStop =>
    rintro team _ z s i rfl w t r hi e he s1 hp hr
    exact exec_of_eq (exec_preemptionPoint_marked hi he) ((if_neg hp).trans (if_pos hr))
  case pointPass =>
    rintro team _ z s i rfl w t r hi e he s1 hp hr
    exact exec_of_eq (exec_preemptionPoint_marked hi he) ((if_neg hp).trans (if_neg hr))
  case forcedStop => exact fun _ _ _ _ _ ha _ hp hr => exec_forcedStop_of_preempt ha hp hr
  case saveFails =>
    intro w z s t ht hs p1 saved s1 s2 s3 hl
    exact exec_of_eq (exec_saveComplete_of_saving ht hs) (if_pos hl)
  case save =>
    intro w z s t ht hs p1 saved s1 s2 s3 hl
    exact exec_of_eq (exec_saveComplete_of_saving ht hs) (if_neg hl)
  case restore =>
    intro w s t ht hr off s1
    refine event_eq ?_
    rw [ht]
    exact if_neg hr
  case urgent =>
    intro w s t ht ha hf hu
    exact exec_of_eq (exec_taskPlacement_of_not_fits ht ha hf) (if_pos hu)
  case resident =>
    intro w s t ht ha hf k hk hs off rivals hr
    exact exec_of_eq (exec_taskPlacement_of_fits ht ha hf hk) ((State.placeFitting_resident hs).trans (if_pos hr))
  case rivals =>
    intro w s t ht ha hf k hk hs off rivals hr
    exact exec_of_eq (exec_taskPlacement_of_fits ht ha hf hk) ((State.placeFitting_resident hs).trans (if_neg hr))
  case saved =>
    intro w s t ht ha hf k hk hs ts hts
    exact exec_of_eq (exec_taskPlacement_of_fits ht ha hf hk) (State.placeFitting_saved hs hts)
  case start =>
    intro w s t ht ha hf k hk hr hs ts hts
    exact exec_of_eq (exec_taskPlacement_of_fits ht ha hf hk) (State.placeFitting_start hr hs hts)
  case waitLimit =>
    intro pad s ws e' he e
    refine event_eq ?_
    dsimp only
    rw [he]
  case lastRank =>
    intro w rank z s t ht l hl w' x1 x2 hi hw s1 hall
    exact exec_of_eq (exec_taskEnd_of_issuing ht hl hi hw) (if_pos hall)
  case rankStops =>
    intro w rank z s t ht l hl w' x1 x2 hi hw s1 hall p hp t' ht' hs
    exact exec_of_eq (exec_taskEnd_of_issuing ht hl hi hw) ((State.endRank_preempted hall hp ht').trans (if_pos hs))
  case rankEnds =>
    intro w rank z s t ht l hl w' x1 x2 hi hw s1 hall p hp t' ht' hs
    exact exec_of_eq (exec_taskEnd_of_issuing ht hl hi hw) ((State.endRank_preempted hall hp ht').trans (if_neg hs))
  case teamFault =>
    intro k cause addr more dirty s hc he hh
    exact event_eq (State.teamTrap_unexposed hc he hh)
  case exception =>
    intro k cause addr more dirty s hc w t r he ok
    exact event_eq (State.teamTrap_exposed hc he)
  case timeLimit =>
    intro w rank core s t ht hl
    refine event_eq ?_
    rw [ht]
    exact if_neg hl
  case ackFault =>
    intro k dirty s ha cause hc he hh
    exact event_eq ((if_pos ha).trans (State.teamTrap_unexposed hc he hh))
  case ackException =>
    intro k dirty s ha cause addr more hc w t r he ok
    exact event_eq ((if_pos ha).trans (State.teamTrap_exposed hc he))

end Sys2Proof.Machine
end

section
/-! The kernel and task commands (R150 to R154, R157, R158, R164, R169 to R171): the equation of the body that the two
levels of a command share, where its checks pass. -/

namespace Sys2Proof.Machine

/-! ### Kernels (R152) -/

/-- The state in which a kernel has the next free handle, and its load has completed with it. -/
def State.kernelLoaded (s : State) (c : Cmd) (k : Kernel) : State :=
  let p := s.pick (fun h => thas s.kernels h) 1 (2 ^ 32 - 1)
  { p.2 with kernels := tput p.2.kernels (p.1.getD 1) k }.ok c (p.1.getD 1)

/-- A load whose image passes its checks and whose code finds room in every quarter enters the kernel. -/
theorem State.kernelLoad_ok {s s1 : State} {c : Cmd} {qs code : List Nat} {img : List Byte} {x1 : Bool}
    (hm : (!c.mgmt) = true) (hr : s.readBuf c (c.u64 0) (min (c.u32 8) 1310721) = .ok (img, x1))
    (hi : imageCheck img (c.u32 8) = none)
    (hn : ((s.kernels.filter fun e => e.2.paddock = c.pad).length < 256 && s.kernels.length < 1024) = true)
    (hp : s.placeCode c.pad (slice img (fld img 12 4) (fld img 16 4)) qs = .ok (code, s1)) :
    s.kernelLoad c qs = .ok (s1.kernelLoaded c (Sys2Proof.Machine.kernelOf img c.pad qs code)) := by
  refine need_of hm (bind_of hr ?_)
  dsimp only
  rw [hi]
  exact need_of hn (bind_of hp rfl)

/-! ### Launch (R153, R154, R161, R171) -/

/-- The argument block that a launch reads. -/
def State.launchArgs (s : State) (c : Cmd) (q : LaunchReq) (k : Kernel) : Except Err (List Byte × Bool) :=
  if k.argsLength = 0 then .ok ([], false) else s.readBuf c q.args k.argsLength

/-- The look-up of the exception buffer that a launch names. -/
def State.launchExcBuf (s : State) (c : Cmd) (q : LaunchReq) : Except Err Loc :=
  if q.excBuf = 0 then .ok (.host 0) else s.resolve c q.excBuf 32 true

/-- The copy of the argument block in the Basin. -/
def State.launchBuffer (s : State) (c : Cmd) (args : List Byte) : Except Err (Nat × State) :=
  if args.isEmpty then .ok (0, s)
  else match s.allocate { owner := c.pad, tier := .basin, near := true, die := s.homeDie c.pad, len := args.length,
                          persist := false, moored := false, sys := true } with
    | .ok (a, s') => .ok (a, s'.store a args)
    | .error _ => fail stQuota

/-- Whether the kernel and the paddock of a launch allow its number of teams. -/
def LaunchReq.teamsOk (q : LaunchReq) (k : Kernel) (teams : List Nat) : Bool :=
  k.teamsMin ≤ q.teams && q.teams ≤ k.teamsMax && q.teams ≤ teams.length

/-- Whether the parameters of a launch are in range. -/
def LaunchReq.paramsOk (q : LaunchReq) : Bool :=
  100 ≤ q.grace && q.grace ≤ 100000 && q.cls ≤ 1 && q.saveTier ≤ 1 && (q.ctx ≤ 3 || q.ctx = 0xFF)

/-- Whether the mask of a launch names as many teams of the paddock as it asks for, or none. -/
def LaunchReq.maskOk (q : LaunchReq) (teams : List Nat) : Bool :=
  q.mask.isEmpty || (q.mask.length = q.teams && q.mask.all fun l => teams.contains l)

/-- A launch whose checks pass, and that finds room for its arguments and its save, queues the task. -/
theorem State.taskLaunch_ok {s s1 s2 : State} {c : Cmd} {q : LaunchReq} {k : Kernel} {args : List Byte} {x1 : Bool}
    {x2 : Loc} {buf area : Nat} {tier : Tier} (hm : (!c.mgmt) = true) (hk : s.kernelOf c q.kernel = .ok k)
    (hu : (!k.unloading) = true) (ht : q.teamsOk k (s.allotment c.pad) = true) (hp : q.paramsOk = true)
    (hmask : q.maskOk (s.allotment c.pad) = true) (ha : s.launchArgs c q k = .ok (args, x1))
    (he : s.launchExcBuf c q = .ok x2) (hb : s.launchBuffer c args = .ok (buf, s1))
    (hs : s1.saveArea c.pad (q.teams * 16 * (9216 + k.window * 4096)) (q.saveTier = 1) = .ok (area, tier, s2)) :
    s.taskLaunch c q = .ok
      ({ s2 with tasks := s2.tasks ++ [(c.w, newTask c.pad q buf area tier s.t s.nextOrder)] }.urgentCheck c.pad) :=
  need_of hm <| bind_of hk <| need_of hu <| need_of ht <| need_of hp <| need_of hmask <| bind_of ha <| bind_of he <|
    bind_of hb <| bind_of hs rfl

/-! ### Abort, pre-emption and resume (R157, R158, R164, R169) -/

/-- Whether a suspended task may resume on the teams of a mask: its own where it is resident, else as many of its
paddock. -/
def State.resumeMaskOk (s : State) (c : Cmd) (t : Task) : Option (List Nat) → Bool
  | none => true
  | some m =>
    if t.state = .suspResident && !t.saving then m = t.teams
    else m.length = t.teamsN && m.all fun l => (s.allotment c.pad).contains l

section
variable {s : State} {c : Cmd}

/-- An abort of a task of the caller's session that has not ended ends it. -/
theorem State.taskAbort_task {t : Task} (ht : s.task (BitVec.ofNat 64 (c.u64 0)) = some t)
    (ho : s.ofSession c (BitVec.ofNat 64 (c.u64 0)) = true) (hf : ¬t.state.final = true) :
    s.taskAbort c = .ok ((s.finishTask (BitVec.ofNat 64 (c.u64 0)) .aborted stTaskAborted 0#32).ok c) := by
  simp only [State.taskAbort, ht]
  exact (if_neg (not_denied ho)).trans (if_neg hf)

/-- An abort of a launch of the caller's session that still waits for its dispatch cancels it. -/
theorem State.taskAbort_launch {j : JRec} (ht : s.task (BitVec.ofNat 64 (c.u64 0)) = none)
    (hj : (s.journal.find? fun j => j.wid = BitVec.ofNat 64 (c.u64 0) &&
      (j.opcode = 0x0203#16 || j.opcode = 0x0283#16)) = some j)
    (ho : s.ofSession c (BitVec.ofNat 64 (c.u64 0)) = true) (ha : j.state = .accepted) :
    s.taskAbort c = .ok ((s.complete (BitVec.ofNat 64 (c.u64 0)) stCancelled).ok c) := by
  simp only [State.taskAbort, ht, hj]
  exact (if_neg (not_denied ho)).trans (if_pos ha)

variable {t : Task} (ht : s.taskOf c (BitVec.ofNat 64 (c.u64 0)) = .ok t)
include ht

/-- A running task of the caller's session is asked to stop, and is held until it is resumed. -/
theorem State.taskPreempt_running {force save : Bool} (hf : (!t.state.final) = true) (hr : t.state = .running) :
    s.taskPreempt c force save = .ok ((s.requestPreempt (BitVec.ofNat 64 (c.u64 0)) force save (some c.w)).modTask
      (BitVec.ofNat 64 (c.u64 0)) fun x => { x with held := true, victim := false }) :=
  bind_of ht (need_of hf (need_of (by simp [hr]) rfl))

/-- A suspended task that nobody resumes yet waits for its teams in the order of dispatch. -/
theorem State.taskResume_suspended {mask : Option (List Nat)}
    (hs : ((t.state = .suspResident || t.state = .suspSaved) && t.resumeBy.isNone) = true)
    (hm : s.resumeMaskOk c t mask = true) :
    s.taskResume c mask = .ok (s.modTask (BitVec.ofNat 64 (c.u64 0)) fun x =>
      { x with resumeBy := some c.w, resumeMask := mask, queuedAt := s.t, order := s.nextOrder }) :=
  bind_of ht (need_of hs (need_of hm rfl))

end

/-! ### The commands -/

/-- Settles O31: each command is ready, its checks pass one after another, and its body succeeds. That a mask of zeros
places a task freely (log entry 14), that LENGTH is the image's own length (log entry 38), that the management session
has no paddock (log entry 40), that a task of an earlier session is not named (log entry 41) and the layout of the
records (log entry 11) are the model's choices. -/
theorem taskCommands : Obligations.TaskCommands := by
  refine ⟨?load, ?loadExpert, ?unload, ?unloadWait, ?unloadExpert, ?launch, ?launchExpert, ?abort, ?abortLaunch,
    ?abortExpert, ?abortLaunchExpert, ?preempt, ?preemptExpert, ?resume, ?resumeExpert, ?query, ?queryExpert,
    ?teamQuery, ?teamQueryExpert⟩
  case load =>
    intro z wid hm c h s qs hg n img x1 hr hi hn code s1 hp p2 h' s2 hd
    exact run_ok h (State.kernelLoad_ok hg hr hi hn hp)
  case loadExpert =>
    intro z wid hm c h s hq qs hg n img x1 hr hi hn code s1 hp p2 h' s2 hd
    exact run_ok h (need_of (decide_eq_true hq) (State.kernelLoad_ok hg hr hi hn hp))
  case unload =>
    intro z wid c h s k hk hu
    exact run_ok h (bind_of hk (need_of hu rfl))
  case unloadWait =>
    intro z wid c h s k hk hw hu
    exact run_ok h (bind_of hk (need_of hw (if_pos hu)))
  case unloadExpert =>
    intro z wid c h s k hk hw hu
    exact run_ok h (bind_of hk (need_of hw (if_neg hu)))
  case launch =>
    intro z wid hm c h s q hg k hk hu teams ht hp hmask args x1 ha x2 he buf s1 hb area tier s2 hs t
    exact run_ok h (State.taskLaunch_ok hg hk hu ht hp hmask ha he hb hs)
  case launchExpert =>
    intro z wid hm c h s q hg k hk hu teams ht hp hmask args x1 ha x2 he buf s1 hb area tier s2 hs t
    exact run_ok h (State.taskLaunch_ok hg hk hu ht hp hmask ha he hb hs)
  case abort =>
    intro z wid c h s w t ht ho hf
    exact run_ok h (State.taskAbort_task ht ho hf)
  case abortLaunch =>
    intro z wid c h s w ht j' hj j ho ha
    exact run_ok h (State.taskAbort_launch ht hj ho ha)
  case abortExpert =>
    intro z wid c h s s1 w t ht ho hf
    exact run_ok h (State.taskAbort_task ht ho hf)
  case abortLaunchExpert =>
    intro z wid c h s s1 w ht j' hj j ho ha
    exact run_ok h (State.taskAbort_launch ht hj ho ha)
  case preempt =>
    intro z wid c h s force save w t ht hf hr
    exact run_ok h (State.taskPreempt_running ht hf hr)
  case preemptExpert =>
    intro z wid c h s force save w t ht hf hr
    exact run_ok h (State.taskPreempt_running ht hf hr)
  case resume =>
    intro z wid c h s mask w t ht hs ok hok
    exact run_ok h (State.taskResume_suspended ht hs hok)
  case resumeExpert =>
    intro z wid c h s mask w t ht hs ok hok
    exact run_ok h (State.taskResume_suspended ht hs hok)
  case query =>
    intro z wid c h s w t ht excs s1 hw
    exact run_ok h (bind_of ht (bind_of hw rfl))
  case queryExpert =>
    intro z wid c h s hg ts s1 hw
    exact run_ok h (need_of hg (bind_of hw rfl))
  case teamQuery =>
    intro z wid c h s hg s1 hw
    exact run_ok h (need_of hg (bind_of hw rfl))
  case teamQueryExpert =>
    intro z wid c h s hg m hm s1 hw
    exact run_ok h (need_of hg (need_of hm (bind_of hw rfl)))

end Sys2Proof.Machine
end

section
/-! The two views of the Basin (R173): a byte of the Basin lies in a quarter, in a tile of it and at an offset in that
tile, and both views are read off these three. -/

namespace Sys2Proof.Machine

/-- The direct address of a byte of the Basin: its quarter, its tile there and its offset in that tile. -/
theorem exists_quarter_tile_offset {a : Nat} (h : a < 0x80000000) :
    ∃ q t o, q < 4 ∧ t < 32768 ∧ o < 16384 ∧ a = q * 0x20000000 + t * 16384 + o :=
  ⟨a / 0x20000000, a % 0x20000000 / 16384, a % 16384, by omega, by omega, by omega, by omega⟩

/-- The interleaved address of a byte of the Basin: its tile counts through the four quarters. -/
theorem exists_interleaved_tile_offset {b : Nat} (h : 0x80000000 ≤ b) (h' : b < 0x100000000) :
    ∃ q t o, q < 4 ∧ t < 32768 ∧ o < 16384 ∧ b = 0x80000000 + (4 * t + q) * 16384 + o :=
  ⟨(b - 0x80000000) / 16384 % 4, (b - 0x80000000) / 16384 / 4, b % 16384, by omega, by omega, by omega, by omega⟩

/-- The interleaved address of the byte at an offset in a quarter's tile. -/
theorem basinInterleaved_of_tile {q t o : Nat} (ht : t < 32768) (ho : o < 16384) :
    basinInterleaved (q * 0x20000000 + t * 16384 + o) = 0x80000000 + (4 * t + q) * 16384 + o := by
  have hquarter : (q * 0x20000000 + t * 16384 + o) / 0x20000000 = q := by omega
  have htile : (q * 0x20000000 + t * 16384 + o) % 0x20000000 / 16384 = t := by omega
  have hoffset : (q * 0x20000000 + t * 16384 + o) % 16384 = o := by omega
  rw [basinInterleaved, hquarter, htile, hoffset]

/-- The direct address of the byte at an offset in an interleaved tile. -/
theorem basinDirect_of_tile {q t o : Nat} (hq : q < 4) (ho : o < 16384) :
    basinDirect (0x80000000 + (4 * t + q) * 16384 + o) = q * 0x20000000 + t * 16384 + o := by
  have hbyte : 0x80000000 + (4 * t + q) * 16384 + o - 0x80000000 = (4 * t + q) * 16384 + o := by omega
  have htile : ((4 * t + q) * 16384 + o) / 16384 = 4 * t + q := by omega
  have hoffset : ((4 * t + q) * 16384 + o) % 16384 = o := by omega
  have hquarter : (4 * t + q) % 4 = q := by omega
  have hrow : (4 * t + q) / 4 = t := by omega
  rw [basinDirect, if_neg (by omega)]
  simp only [hbyte, htile, hoffset, hquarter, hrow]

/-- The interleaved view of a byte leads back to its direct address, and lies in the upper half of the Basin's space. -/
theorem basinDirect_basinInterleaved {a : Nat} (h : a < 0x80000000) :
    basinDirect (basinInterleaved a) = a ∧ 0x80000000 ≤ basinInterleaved a ∧ basinInterleaved a < 0x100000000 := by
  obtain ⟨q, t, o, hq, ht, ho, rfl⟩ := exists_quarter_tile_offset h
  rw [basinInterleaved_of_tile ht ho]
  exact ⟨basinDirect_of_tile hq ho, by omega, by omega⟩

/-- The direct view of a byte leads back to its interleaved address, and lies in the lower half of the Basin's space. -/
theorem basinInterleaved_basinDirect {b : Nat} (h : 0x80000000 ≤ b) (h' : b < 0x100000000) :
    basinInterleaved (basinDirect b) = b ∧ basinDirect b < 0x80000000 := by
  obtain ⟨q, t, o, hq, ht, ho, rfl⟩ := exists_interleaved_tile_offset h h'
  rw [basinDirect_of_tile hq ho]
  exact ⟨basinInterleaved_of_tile ht ho, by omega⟩

/-- A direct address keys its own byte of memory. -/
theorem memKey_of_direct {a : Nat} (h : a < 0x80000000) : memKey a = a :=
  (if_pos (by omega)).trans (if_pos h)

/-- The interleaved address of a byte keys the same byte of memory as its direct address. -/
theorem memKey_basinInterleaved {a : Nat} (h : a < 0x80000000) : memKey (basinInterleaved a) = a := by
  obtain ⟨hback, -, hlt⟩ := basinDirect_basinInterleaved h
  exact (if_pos hlt).trans hback

/-- No byte of the Basin is lost with a device of the parking tier. -/
theorem State.parkLost_of_basin (s : State) {a : Nat} (h : a < 0x100000000) : s.parkLost a = false := by
  have htier : decide (a / 2 ^ 52 = 0xFA3) = false := decide_eq_false (by omega)
  rw [State.parkLost, htier, Bool.false_and]

/-- A byte of the Basin just written, under any address that keys it. -/
theorem State.setByte_byte_same (s : State) {a b : Nat} (v : Byte) (ha : a < 0x100000000)
    (hk : memKey b = memKey a) : (s.setByte a v).byte b = v := by
  simp only [State.byte, State.setByte, s.parkLost_of_basin ha, hk]
  exact tgetD_tputD_same ..

/-- Another byte than the one just written. -/
theorem State.setByte_byte_other (s : State) {a b : Nat} (v : Byte) (hk : memKey b ≠ memKey a) :
    (s.setByte a v).byte b = s.byte b := by
  unfold State.byte State.setByte
  split
  · rfl
  · exact tgetD_tputD_other _ _ _ hk

/-- Settles O16: both views of a byte are given by its quarter, tile and offset, and key the same byte of memory. -/
theorem basinViewsAgree : Obligations.BasinViewsAgree := by
  refine ⟨fun a => basinDirect_basinInterleaved, fun b => basinInterleaved_basinDirect, ?tile, ?bytes⟩
  case tile =>
    intro j o hj ho
    have h := basinDirect_of_tile (t := j / 4) (Nat.mod_lt j (by decide)) ho
    rw [Nat.div_add_mod] at h
    rw [Nat.mul_comm 16384 j, Nat.mul_comm 16384 (j / 4)]
    exact h
  case bytes =>
    intro s a v ha
    have hkey := memKey_of_direct ha
    have hview := memKey_basinInterleaved ha
    refine ⟨s.setByte_byte_same v (by omega) (hview.trans hkey.symm),
      s.setByte_byte_same v (basinDirect_basinInterleaved ha).2.2 (hkey.trans hview.symm), fun b hb hne => ?other⟩
    case other =>
      have hb' : memKey (basinInterleaved b) = memKey b := (memKey_basinInterleaved hb).trans (memKey_of_direct hb).symm
      rw [s.setByte_byte_other v (by rwa [memKey_basinInterleaved hb, hkey])]
      simp only [State.byte, hb']

end Sys2Proof.Machine
end

section
/-! The stream and barrier instructions of a team (R182 to R188, R194): what each does on the stream or barrier that its
handle names, and that it is refused where its task may use none of that name. -/

namespace Sys2Proof.Machine

/-- A look-up that finds nothing takes the first alternative. -/
theorem elim_of_none {α β : Type} {o : Option α} {b : β} {f : α → β} (h : o = none) : o.elim b f = b := by
  rw [h]; rfl

/-- A look-up that finds something takes the second. -/
theorem elim_of_some {α β : Type} {o : Option α} {a : α} {b : β} {f : α → β} (h : o = some a) :
    o.elim b f = f a := by
  rw [h]; rfl

/-! ### The effects on a stream or barrier -/

/-- SRD on a stream: the team becomes the consumer, its burst is released, and the next is asked for (R184). -/
def State.srdOn (s : State) (w : BitVec 64) (rk h c n rs rx : Nat) (st : Stream) : State :=
  if !st.consumerOk c (.task w rk) || n = 0 || min 64 st.depth < n then s.refuse w rk rs
  else
    (s.setStream h { (st.setCon c (st.con c).release) with consEnd := tput st.consEnd c (.task w rk) }).requestBurst h
      { consumer := c, n := n, who := .task w rk, rs := rs, rx := rx, off := 0 }

/-- SREL on a stream: its consumer releases the burst it holds (R186). -/
def State.srelOn (s : State) (w : BitVec 64) (rk h c rs : Nat) (st : Stream) : State :=
  if tget st.consEnd c = some (.task w rk) then
    (s.setStream h (st.setCon c (st.con c).release)).answer w rk rs
      (statusWord 0 false (st.state = .aborted) false false false)
  else s.refuse w rk rs

/-- Whether an end is, or may become, the producer of a stream (R188). -/
def Stream.producerOk (st : Stream) (e : End) : Bool :=
  match st.producer with
  | some p => p = e
  | none => true

/-- SWR on a stream: the team becomes the producer, and its tile commits at once or waits for credit (R183). -/
def State.swrOn (s : State) (w : BitVec 64) (t : Task) (rk : Nat) (k : Site) (h off rs : Nat) (st : Stream) : State :=
  if !st.producerOk (.task w rk) || st.refuses st.committed then s.refuse w rk rs
  else
    let s := s.setStream h { st with producer := some (.task w rk) }
    if st.credit st.committed then
      (s.commitBytes h (s.teamTile k.team t off)).answer w rk rs (statusWord 1 false false false false false)
    else s.modStream h fun q => { q with waiting := q.waiting ++
      [{ consumer := 0xFFFF, n := 1, who := .task w rk, rs := rs, rx := 0, off := off }] }

/-- SCLOSE on a stream: its producer closes it while it is OPEN (R182). -/
def State.scloseOn (s : State) (w : BitVec 64) (rk h rs : Nat) (st : Stream) : State :=
  if st.state = .opened && st.producer = some (.task w rk) then
    (s.closeStream h).answer w rk rs (statusWord 0 false false false false false)
  else s.refuse w rk rs

/-- SABORT on a stream: it is aborted while it is OPEN (R185). -/
def State.sabortOn (s : State) (w : BitVec 64) (rk h rs : Nat) (st : Stream) : State :=
  if st.state = .opened then (s.abortStream h).answer w rk rs (statusWord 0 false true false false false)
  else s.refuse w rk rs

/-- BARV on a barrier: the core is noted, and once all sixteen are, the team arrives (R188, R194). -/
def State.barvOn (s : State) (w : BitVec 64) (t : Task) (rk : Nat) (k : Site) (b rs : Nat) (bar : Barrier) : State :=
  let s := s.modCtx (ctxKey k.team k.core t.ctx) fun c => { c with barved := insNat b c.barved }
  if (List.range 16).all fun c => (s.ctx (ctxKey k.team c t.ctx)).barved.contains b then
    (s.barvArrive k.team t.ctx b w rk bar).answer w rk rs (statusWord 0 false false false false false)
  else s

/-- The phase that a team waits for at a barrier: that of its last arrival, or the present one (R188). -/
def Barrier.arrivalOf (bar : Barrier) (w : BitVec 64) (rk : Nat) : BarArr :=
  (bar.arrs.find? fun q => q.task = w && q.rank = rk).getD { task := w, rank := rk, phase := bar.phase }

/-- BWAIT on a barrier: the team is answered once that phase has passed (R188). -/
def State.bwaitOn (s : State) (w : BitVec 64) (rk b rs : Nat) (bar : Barrier) : State :=
  if (bar.arrivalOf w rk).phase < bar.phase then s.answer w rk rs (statusWord 0 false false false false false)
  else
    { s with barriers := tmod s.barriers b fun y => { y with waitTasks := y.waitTasks ++ [(bar.arrivalOf w rk, rs)] } }

/-! ### The instructions -/

/-- The value of a scalar register of the context that a core runs. -/
def State.opnd (s : State) (k : Site) (t : Task) (r : Nat) : Nat := ((s.runs k t).s r).toNat

section
variable {z : State} {k : Site} {w : BitVec 64} {t : Task} {rk : Nat} (h : z.issuing k.team = some (w, t, rk))
  (hc : ¬16 ≤ k.core)
include h hc

/-- An instruction with valid and unpoisoned scalar registers answers its effect and what follows at once. -/
theorem event_withRegs {u : State} {ins outs : List Nat} {f : State → BitVec 64 → Task → Nat → Ctx → State}
    (hv : vOk (ins ++ outs) = true) (ht : ¬(z.runs k t).tainted (ins.map pS) = true)
    (hf : f (z.issued k t) w t rk (z.runs k t) = u) : event (z.withRegs k ins outs f) = .next u.settle :=
  event_eq ((withRegs_of h hc hv ht).trans hf)

/-- SRD has its effect on the stream that its task may use. -/
theorem exec_srd {rh rc rn rs rx : Nat} (hv : vOk ([rh, rc, rn] ++ [rs, rx]) = true)
    (ht : ¬(z.runs k t).tainted ([rh, rc, rn].map pS) = true) :
    exec (.srd k rh rc rn rs rx) z = .next (State.settle
      (((z.issued k t).taskStream t (z.opnd k t rh)).elim ((z.issued k t).refuse w rk rs)
        ((z.issued k t).srdOn w rk (z.opnd k t rh) (z.opnd k t rc) (z.opnd k t rn) rs rx))) := by
  refine event_withRegs h hc hv ht ?_
  dsimp only [State.opnd]
  cases (z.issued k t).taskStream t ((z.runs k t).s rh).toNat <;> rfl

/-- SREL has its effect on the stream that its task may use. -/
theorem exec_srel {rh rc rs : Nat} (hv : vOk ([rh, rc] ++ [rs]) = true)
    (ht : ¬(z.runs k t).tainted ([rh, rc].map pS) = true) :
    exec (.srel k rh rc rs) z = .next (State.settle
      (((z.issued k t).taskStream t (z.opnd k t rh)).elim ((z.issued k t).refuse w rk rs)
        ((z.issued k t).srelOn w rk (z.opnd k t rh) (z.opnd k t rc) rs))) := by
  refine event_withRegs h hc hv ht ?_
  dsimp only [State.opnd]
  cases (z.issued k t).taskStream t ((z.runs k t).s rh).toNat <;> rfl

/-- SWR of a tile within the team's window has its effect on the stream that its task may use. -/
theorem exec_swr {rh ro rs : Nat} (hv : vOk ([rh, ro] ++ [rs]) = true)
    (ht : ¬(z.runs k t).tainted ([rh, ro].map pS) = true)
    (hw : ¬((z.issued k t).window k.team t).2 < z.opnd k t ro + 1024) :
    exec (.swr k rh ro rs) z = .next (State.settle
      (((z.issued k t).taskStream t (z.opnd k t rh)).elim ((z.issued k t).refuse w rk rs)
        ((z.issued k t).swrOn w t rk k (z.opnd k t rh) (z.opnd k t ro) rs))) := by
  refine event_withRegs h hc hv ht ((if_neg hw).trans ?_)
  dsimp only [State.opnd]
  cases (z.issued k t).taskStream t ((z.runs k t).s rh).toNat <;> rfl

/-- SCLOSE has its effect on the stream that its task may use. -/
theorem exec_sclose {rh rs : Nat} (hv : vOk ([rh] ++ [rs]) = true)
    (ht : ¬(z.runs k t).tainted ([rh].map pS) = true) :
    exec (.sclose k rh rs) z = .next (State.settle
      (((z.issued k t).taskStream t (z.opnd k t rh)).elim ((z.issued k t).refuse w rk rs)
        ((z.issued k t).scloseOn w rk (z.opnd k t rh) rs))) := by
  refine event_withRegs h hc hv ht ?_
  dsimp only [State.opnd]
  cases (z.issued k t).taskStream t ((z.runs k t).s rh).toNat <;> rfl

/-- SABORT has its effect on the stream that its task may use. -/
theorem exec_sabort {rh rs : Nat} (hv : vOk ([rh] ++ [rs]) = true)
    (ht : ¬(z.runs k t).tainted ([rh].map pS) = true) :
    exec (.sabort k rh rs) z = .next (State.settle
      (((z.issued k t).taskStream t (z.opnd k t rh)).elim ((z.issued k t).refuse w rk rs)
        ((z.issued k t).sabortOn w rk (z.opnd k t rh) rs))) := by
  refine event_withRegs h hc hv ht ?_
  dsimp only [State.opnd]
  cases (z.issued k t).taskStream t ((z.runs k t).s rh).toNat <;> rfl

/-- BARV has its effect on the barrier that its task may use. -/
theorem exec_barv {rb rs : Nat} (hv : vOk ([rb] ++ [rs]) = true)
    (ht : ¬(z.runs k t).tainted ([rb].map pS) = true) :
    exec (.barv k rb rs) z = .next (State.settle
      (((z.issued k t).taskBarrier t (z.opnd k t rb)).elim ((z.issued k t).refuse w rk rs)
        ((z.issued k t).barvOn w t rk k (z.opnd k t rb) rs))) := by
  refine event_withRegs h hc hv ht ?_
  dsimp only [State.opnd]
  cases (z.issued k t).taskBarrier t ((z.runs k t).s rb).toNat <;> rfl

/-- BWAIT has its effect on the barrier that its task may use. -/
theorem exec_bwait {rb rs : Nat} (hv : vOk ([rb] ++ [rs]) = true)
    (ht : ¬(z.runs k t).tainted ([rb].map pS) = true) :
    exec (.bwait k rb rs) z = .next (State.settle
      (((z.issued k t).taskBarrier t (z.opnd k t rb)).elim ((z.issued k t).refuse w rk rs)
        ((z.issued k t).bwaitOn w rk (z.opnd k t rb) rs))) := by
  refine event_withRegs h hc hv ht ?_
  dsimp only [State.opnd]
  cases (z.issued k t).taskBarrier t ((z.runs k t).s rb).toNat <;> rfl

end

/-- Settles O29: each instruction has its effect on the stream or barrier that its handle names, in the branch that the
conditions of its clause name. That the answer stands in every core's register (log entry 13) and that a refused one is
logged (log entry 27) are the model's choices. -/
theorem streamAndBarrierInstructions : Obligations.StreamAndBarrierInstructions := by
  refine ⟨?srdNone, ?srdRefused, ?srd, ?srelNone, ?srel, ?srelOther, ?swrNone, ?swrRefused, ?swr, ?swrWaits,
    ?scloseNone, ?sclose, ?scloseOther, ?sabortNone, ?sabort, ?sabortOther, ?barvNone, ?barv, ?barvFirst, ?bwaitNone,
    ?bwait, ?bwaitWaits⟩
  case srdNone =>
    intro k rh rc rn rs rx z s w t rk h hc key s' x hv ht hd hs
    exact exec_of_eq (exec_srd h hc hv ht) (elim_of_none hs)
  case srdRefused =>
    intro k rh rc rn rs rx z s w t rk h hc key s' x hv ht hd c n e st hs hr
    exact exec_of_eq (exec_srd h hc hv ht) ((elim_of_some hs).trans (if_pos hr))
  case srd =>
    intro k rh rc rn rs rx z s w t rk h hc key s' x hv ht hd c n e st hs hr st'
    exact exec_of_eq (exec_srd h hc hv ht) ((elim_of_some hs).trans (if_neg hr))
  case srelNone =>
    intro k rh rc rs z s w t rk h hc key s' x hv ht hd hs
    exact exec_of_eq (exec_srel h hc hv ht) (elim_of_none hs)
  case srel =>
    intro k rh rc rs z s w t rk h hc key s' x hv ht hd c st hs he
    exact exec_of_eq (exec_srel h hc hv ht) ((elim_of_some hs).trans (if_pos he))
  case srelOther =>
    intro k rh rc rs z s w t rk h hc key s' x hv ht hd c st hs he
    exact exec_of_eq (exec_srel h hc hv ht) ((elim_of_some hs).trans (if_neg he))
  case swrNone =>
    intro k rh ro rs z s w t rk h hc key s' x hv ht hd off hw hs
    exact exec_of_eq (exec_swr h hc hv ht hw) (elim_of_none hs)
  case swrRefused =>
    intro k rh ro rs z s w t rk h hc key s' x hv ht hd off e hw st hs mine hr
    exact exec_of_eq (exec_swr h hc hv ht hw) ((elim_of_some hs).trans (if_pos hr))
  case swr =>
    intro k rh ro rs z s w t rk h hc key s' x hv ht hd off e hw st hs mine hr s1 hcr
    exact exec_of_eq (exec_swr h hc hv ht hw) ((elim_of_some hs).trans ((if_neg hr).trans (if_pos hcr)))
  case swrWaits =>
    intro k rh ro rs z s w t rk h hc key s' x hv ht hd off e hw st hs mine hr s1 hcr
    exact exec_of_eq (exec_swr h hc hv ht hw) ((elim_of_some hs).trans ((if_neg hr).trans (if_neg hcr)))
  case scloseNone =>
    intro k rh rs z s w t rk h hc key s' x hv ht hd hs
    exact exec_of_eq (exec_sclose h hc hv ht) (elim_of_none hs)
  case sclose =>
    intro k rh rs z s w t rk h hc key s' x hv ht hd st hs ho
    exact exec_of_eq (exec_sclose h hc hv ht) ((elim_of_some hs).trans (if_pos ho))
  case scloseOther =>
    intro k rh rs z s w t rk h hc key s' x hv ht hd st hs ho
    exact exec_of_eq (exec_sclose h hc hv ht) ((elim_of_some hs).trans (if_neg ho))
  case sabortNone =>
    intro k rh rs z s w t rk h hc key s' x hv ht hd hs
    exact exec_of_eq (exec_sabort h hc hv ht) (elim_of_none hs)
  case sabort =>
    intro k rh rs z s w t rk h hc key s' x hv ht hd st hs ho
    exact exec_of_eq (exec_sabort h hc hv ht) ((elim_of_some hs).trans (if_pos ho))
  case sabortOther =>
    intro k rh rs z s w t rk h hc key s' x hv ht hd st hs ho
    exact exec_of_eq (exec_sabort h hc hv ht) ((elim_of_some hs).trans (if_neg ho))
  case barvNone =>
    intro k rb rs z s w t rk h hc key s' x hv ht b hs
    exact exec_of_eq (exec_barv h hc hv ht) (elim_of_none hs)
  case barv =>
    intro k rb rs z s w t rk h hc key s' x hv ht b bar hs s1 hall
    exact exec_of_eq (exec_barv h hc hv ht) ((elim_of_some hs).trans (if_pos hall))
  case barvFirst =>
    intro k rb rs z s w t rk h hc key s' x hv ht b bar hs s1 hall
    exact exec_of_eq (exec_barv h hc hv ht) ((elim_of_some hs).trans (if_neg hall))
  case bwaitNone =>
    intro k rb rs z s w t rk h hc key s' x hv ht b hs
    exact exec_of_eq (exec_bwait h hc hv ht) (elim_of_none hs)
  case bwait =>
    intro k rb rs z s w t rk h hc key s' x hv ht b bar hs a ha
    exact exec_of_eq (exec_bwait h hc hv ht) ((elim_of_some hs).trans (if_pos ha))
  case bwaitWaits =>
    intro k rb rs z s w t rk h hc key s' x hv ht b bar hs a ha
    exact exec_of_eq (exec_bwait h hc hv ht) ((elim_of_some hs).trans (if_neg ha))

end Sys2Proof.Machine
end

section
/-! Tile commits, deliveries, tag grants, tier responses and engine resets (R178 to R207): the equations of a commit
that waits for credit, of a delivered burst, of a granted tag and of a request that timed out. -/

namespace Sys2Proof.Machine

section
variable {s : State} {h t c : Nat} {st : Stream}

/-! ### Commits (R178, R183) -/

/-- The state in which no write waits on a stream. -/
def State.writesTaken (s : State) (h : Nat) : State :=
  s.modStream h fun q => { q with waiting := q.waiting.filter fun x => x.consumer != 0xFFFF }

/-- The write of a team that waits for the credit of the next tile is refused, or commits and is answered. -/
theorem exec_tileCommit_of_waiting {b : Burst} {w : BitVec 64} {rank l : Nat} {k : Task}
    (hs : tget s.streams h = some st) (hcr : st.credit t = true)
    (hb : (st.waiting.find? fun b => b.consumer = 0xFFFF) = some b) (hw : b.who = .task w rank) (hk : s.task w = some k)
    (hl : k.teams[rank]? = some l) (hn : ¬(t != st.committed || s.holds l) = true) :
    exec (.tileCommit h t) s = .next (State.settle
      (if st.refuses t then (s.writesTaken h).refuse w rank b.rs
        else ((s.writesTaken h).commitBytes h ((s.writesTaken h).teamTile l k b.off)).answer w rank b.rs
          (statusWord 1 false false false false false))) := by
  refine event_eq ?_
  rw [hs]
  refine (if_neg (not_denied hcr)).trans ?_
  rw [hb]
  dsimp only
  rw [hw]
  dsimp only
  rw [hk]
  dsimp only
  rw [hl]
  exact if_neg hn

/-- Where no write waits, the tile of the engine that produces the stream commits. -/
theorem exec_tileCommit_of_bound {w : BitVec 64} {b : Bind} (hs : tget s.streams h = some st)
    (hcr : st.credit t = true) (hb : (st.waiting.find? fun b => b.consumer = 0xFFFF) = none)
    (hp : st.producer = some (.engine w)) (hw : s.bindOf w = some b) :
    exec (.tileCommit h t) s = .next (State.settle (s.commitBound h t st b)) := by
  refine event_eq ?_
  rw [hs]
  refine (if_neg (not_denied hcr)).trans ?_
  rw [hb, hp]
  dsimp only
  rw [hw]

/-! ### Deliveries (R184, R193, R207) -/

/-- The state in which a consumer has the burst that it waited for. -/
def State.burstGiven (s : State) (h c : Nat) (b : Burst) (r : Nat × Nat × Bool × Bool × Bool) : State :=
  (s.modStream h fun q => { q with waiting := q.waiting.filter fun x => x.consumer != c }).giveBurst h b r

/-- The state in which a bind has counted the poisoned tiles of a burst. -/
def State.burstCounted (s : State) (st : Stream) (w : BitVec 64) (r : Nat × Nat × Bool × Bool × Bool) : State :=
  s.modBind w fun x => { x with poisoned := x.poisoned + s.poisonTiles st r.2.1 r.1 }

/-- What a consumer engine does with a burst: it writes it to the host, asks for the next where it took none, and else
holds it. -/
def State.engineTakes (s : State) (w : BitVec 64) (first : Nat) : State :=
  match s.bindOf w with
  | none => s
  | some x => if x.host then s.hostBurst x first else if x.took = 0 then s.nextBurst x else s

/-- What follows a burst for its consumer: an engine takes it, and a team goes on by itself. -/
def State.burstFollows (s : State) (st : Stream) (r : Nat × Nat × Bool × Bool × Bool) : End → State
  | .engine w => (s.burstCounted st w r).engineTakes w r.2.1
  | _ => s

/-- A waiting burst that the stream satisfies is given to its consumer. -/
theorem exec_burstDelivery_of_delivered {b : Burst} {s' : State} {r : Nat × Nat × Bool × Bool × Bool}
    (hs : tget s.streams h = some st)
    (hb : (st.waiting.find? fun b => b.consumer = c && b.consumer != 0xFFFF) = some b)
    (he : ¬s.endHolds b.who = true) (hd : s.deliver h c b.n = (s', some r)) :
    exec (.burstDelivery h c) s = .next (State.settle ((s'.burstGiven h c b r).burstFollows st r b.who)) := by
  refine event_eq ?_
  rw [hs]
  dsimp only
  rw [hb]
  refine (if_neg he).trans ?_
  rw [hd]
  dsimp only
  cases b.who <;> rfl

/-- After a burst for an engine, the engine takes it. -/
theorem State.burstFollows_of_engine {e : End} {r : Nat × Nat × Bool × Bool × Bool} {w : BitVec 64}
    (he : e = .engine w) : s.burstFollows st r e = (s.burstCounted st w r).engineTakes w r.2.1 := by
  rw [he]; rfl

/-- After a burst for a team nothing follows. -/
theorem State.burstFollows_of_not_engine {e : End} {r : Nat × Nat × Bool × Bool × Bool}
    (he : ∀ w, e ≠ .engine w) : s.burstFollows st r e = s := by
  cases e with
  | engine w => exact absurd rfl (he w)
  | _ => rfl

/-- An engine whose bind has ended takes nothing. -/
theorem State.engineTakes_without_bind {w : BitVec 64} {first : Nat} (hw : s.bindOf w = none) :
    s.engineTakes w first = s := by
  rw [State.engineTakes, hw]

/-- The engine of a bind takes a burst as the bind says. -/
theorem State.engineTakes_with_bind {w : BitVec 64} {first : Nat} {x : Bind} (hw : s.bindOf w = some x) :
    s.engineTakes w first = if x.host then s.hostBurst x first else if x.took = 0 then s.nextBurst x else s := by
  rw [State.engineTakes, hw]

end

/-! ### Tags, responses and timeouts (R198 to R200) -/

section
variable {s : State} {w : BitVec 64} {tile line : Nat} {b : Bind} {st : Stream}

/-- Whether a line of a bind's tile has been issued, has landed or lies in a tile that is done. -/
def Bind.seen (b : Bind) (tile line : Nat) : Bool :=
  b.issued.contains (tile, line) || b.landed.any (fun e => e.1 = tile && e.2.1 = line) || b.doneTiles.contains tile

/-- The state in which a line of a bind's tile is noted as issued. -/
def State.lineIssued (s : State) (w : BitVec 64) (tile line : Nat) : State :=
  s.modBind w fun x => { x with issued := x.issued ++ [(tile, line)] }

variable (hb : s.bindOf w = some b) (hs : tget s.streams b.handle = some st)
  (hn : ¬(b.host || 64 ≤ line || b.seen tile line || s.part.mastersStopped) = true)
include hb hs hn

/-- A producer's line that obtains a tag is read from its tier. -/
theorem exec_transactionTagGrant_read {s' : State} (hc : b.consumer = none)
    (ho : ¬(b.tiles ≤ tile || st.state != .opened || !st.credit (b.base + tile)) = true)
    (ht : s.takeTag (b.lineAddr tile line) b.paddock (s.lineTag b tile line false) = some s') :
    exec (.transactionTagGrant w tile line) s = .next (s'.lineIssued w tile line).settle := by
  refine event_eq ?_
  rw [hb]
  dsimp only
  rw [hs]
  refine (if_neg hn).trans ?_
  rw [hc]
  refine (if_neg ho).trans ?_
  rw [ht]
  rfl

/-- The address in the ring's buffer of a line of a tile that a consumer holds. -/
def Bind.heldLine (b : Bind) (st : Stream) (c tile line : Nat) : Nat :=
  st.slotAddr ((st.con c).read - (st.con c).held + (tile - b.moved)) + line * 256

/-- The state in which a line of a held tile is written to its tier, and the poison that went out is noted. -/
def State.lineWritten (s : State) (w : BitVec 64) (b : Bind) (st : Stream) (c tile line : Nat) : State :=
  let p := s.poisoned (b.heldLine st c tile line) 256
  ((s.tierWrite (b.lineAddr tile line) (s.bytes (b.heldLine st c tile line) 256) p).lineIssued w tile line).modBind w
    fun x => { x with poisonOut := x.poisonOut || p }

/-- A consumer's line that obtains a tag is written to its tier. -/
theorem exec_transactionTagGrant_write {s' : State} {c : Nat} (hc : b.consumer = some c)
    (ho : ¬(tile < b.moved || b.moved + b.took ≤ tile) = true)
    (ht : s.takeTag (b.lineAddr tile line) b.paddock (s.lineTag b tile line true) = some s') :
    exec (.transactionTagGrant w tile line) s = .next (s'.lineWritten w b st c tile line).settle := by
  refine event_eq ?_
  rw [hb]
  dsimp only
  rw [hs]
  refine (if_neg hn).trans ?_
  rw [hc]
  refine (if_neg ho).trans ?_
  rw [ht]
  rfl

end

section
variable {s : State} {tag : Nat} {q : TagReq}

/-- The state in which a request has been unanswered for 100 us. -/
def State.tagDue (s : State) (q : TagReq) : State := s.reach (q.issuedAt + 100000)

/-- What a read that timed out leaves, once its tag is free: its line lands poisoned with what it read. -/
def State.readTimeout (s : State) (q : TagReq) : State :=
  match s.bindOf q.wid with
  | none => s
  | some b => if q.dropped then s
    else s.lineLanded q.wid q.tile q.line true (s.bytes (b.lineAddr q.tile q.line) 256)

/-- A request of HBM4 or NVW that no response has reached times out: a write fails, a read lands poisoned. -/
theorem exec_tierRequestTimeout_of_tag (hq : s.tagOf tag = some q) (hp : ¬q.park = true) :
    exec (.tierRequestTimeout tag) s = .next (State.settle
      (if q.write then (s.tagDue q).tagTimeout q else ((s.tagDue q).freeTag q.tag).readTimeout q)) := by
  refine event_eq ?_
  rw [hq]
  exact if_neg hp

/-- A read whose bind has ended leaves nothing. -/
theorem State.readTimeout_without_bind (hw : s.bindOf q.wid = none) : s.readTimeout q = s := by
  rw [State.readTimeout, hw]

/-- A read that its bind has not dropped lands poisoned. -/
theorem State.readTimeout_with_bind {b : Bind} (hw : s.bindOf q.wid = some b) : s.readTimeout q =
    if q.dropped then s else s.lineLanded q.wid q.tile q.line true (s.bytes (b.lineAddr q.tile q.line) 256) := by
  rw [State.readTimeout, hw]

end

/-! ### The events -/

/-- Settles O33: each event whose conditions hold takes the branch of its meaning that they name. That the answer of a
team's write stands in every core's register (log entry 13), that a refused one is logged (log entry 27), that a tier
write lands at the grant of its tag (log entry 44), that the end of a bind is an event of its own (log entry 62) and
what an engine's reset ends (log entry 144) are the model's choices. -/
theorem streamTrafficEvents : Obligations.StreamTrafficEvents := by
  refine ⟨?writeRefused, ?write, ?bound, ?burstEnded, ?burstHost, ?burstNext, ?burstHeld, ?burstTeam, ?poisonTile,
    ?bindEnd, ?scrub, ?grantRead, ?grantWrite, ?readResponse, ?writeAck, ?timeoutWrite, ?timeoutEnded, ?timeoutDropped,
    ?timeoutRead, ?resetProg, ?resetBind, ?resetColl, ?resetSend, ?resetCxl, ?resetQuay⟩
  case writeRefused =>
    intro h t z s st hs hcr b' hb b w rank hw k hk l hl hn s1 hr
    exact exec_of_eq (exec_tileCommit_of_waiting hs hcr hb hw hk hl hn) (if_pos hr)
  case write =>
    intro h t z s st hs hcr b' hb b w rank hw k hk l hl hn s1 hr
    exact exec_of_eq (exec_tileCommit_of_waiting hs hcr hb hw hk hl hn) (if_neg hr)
  case bound =>
    intro h t s st hs hcr hb w hp b hw
    exact exec_tileCommit_of_bound hs hcr hb hp hw
  case burstEnded =>
    intro h c s st hs b' hb b he s' r hd s1 s2 w hw bad s3 hx
    exact exec_of_eq (exec_burstDelivery_of_delivered hs hb he hd)
      ((State.burstFollows_of_engine hw).trans (State.engineTakes_without_bind hx))
  case burstHost =>
    intro h c s st hs b' hb b he s' r hd s1 s2 w hw bad s3 x hx hh
    exact exec_of_eq (exec_burstDelivery_of_delivered hs hb he hd)
      ((State.burstFollows_of_engine hw).trans ((State.engineTakes_with_bind hx).trans (if_pos hh)))
  case burstNext =>
    intro h c s st hs b' hb b he s' r hd s1 s2 w hw bad s3 x hx hh ht
    exact exec_of_eq (exec_burstDelivery_of_delivered hs hb he hd)
      ((State.burstFollows_of_engine hw).trans
        ((State.engineTakes_with_bind hx).trans ((if_neg hh).trans (if_pos ht))))
  case burstHeld =>
    intro h c s st hs b' hb b he s' r hd s1 s2 w hw bad s3 x hx hh ht
    exact exec_of_eq (exec_burstDelivery_of_delivered hs hb he hd)
      ((State.burstFollows_of_engine hw).trans
        ((State.engineTakes_with_bind hx).trans ((if_neg hh).trans (if_neg ht))))
  case burstTeam =>
    intro h c s st hs b' hb b he s' r hd s1 s2 hw
    exact exec_of_eq (exec_burstDelivery_of_delivered hs hb he hd) (State.burstFollows_of_not_engine hw)
  case poisonTile =>
    intro h s st hs t hn
    refine event_eq ?_
    rw [hs]
    exact if_neg hn
  case bindEnd =>
    intro w z s b hb hm opened fin hf s1
    refine event_eq ?_
    rw [hb]
    exact (if_neg hm).trans (if_neg (not_denied hf))
  case scrub =>
    intro q outcome z s hq p a s1
    exact event_eq (if_neg hq)
  case grantRead =>
    intro w tile line s b hb st hs seen hn a issue hc ho s' ht
    exact exec_transactionTagGrant_read hb hs hn hc ho ht
  case grantWrite =>
    intro w tile line s b hb st hs seen hn a issue c hc ho s' ht src p
    exact exec_transactionTagGrant_write hb hs hn hc ho ht
  case readResponse =>
    intro tag errs s q hq hn
    refine event_eq ?_
    rw [hq]
    exact if_neg hn
  case writeAck =>
    intro tag s q hq hn
    refine event_eq ?_
    rw [hq]
    exact if_neg hn
  case timeoutWrite =>
    intro tag z s q hq hp s1 hw
    exact exec_of_eq (exec_tierRequestTimeout_of_tag hq hp) (if_pos hw)
  case timeoutEnded =>
    intro tag z s q hq hp s1 hw s2 hb
    exact exec_of_eq (exec_tierRequestTimeout_of_tag hq hp) ((if_neg hw).trans (State.readTimeout_without_bind hb))
  case timeoutDropped =>
    intro tag z s q hq hp s1 hw s2 b hb hd
    exact exec_of_eq (exec_tierRequestTimeout_of_tag hq hp)
      ((if_neg hw).trans ((State.readTimeout_with_bind hb).trans (if_pos hd)))
  case timeoutRead =>
    intro tag z s q hq hp s1 hw s2 b hb hd
    exact exec_of_eq (exec_tierRequestTimeout_of_tag hq hp)
      ((if_neg hw).trans ((State.readTimeout_with_bind hb).trans (if_neg hd)))
  case resetProg =>
    rintro _ s w rfl q hq
    refine event_eq ?_
    rw [State.resetEngine, hq]
  case resetBind =>
    rintro _ s w rfl hq
    refine event_eq ?_
    rw [State.resetEngine, hq]
  case resetColl =>
    rintro _ s w rfl c hc
    refine event_eq ?_
    rw [State.resetEngine, hc]
  case resetSend =>
    rintro _ s w rfl
    rfl
  case resetCxl =>
    rintro _ s d rfl
    rfl
  case resetQuay =>
    rintro _ s rfl
    rfl

end Sys2Proof.Machine
end

section
/-! The stream and barrier commands and BASIN_QUERY (R182 to R186, R194 to R197, R206 to R208): the equation of the body
that the two levels of a command share, where its checks pass. -/

namespace Sys2Proof.Machine

/-! ### Streams (R206, R207) -/

/-- Whether a barrier that a command names is one of its paddock, or none is named. -/
def State.barrierNamed (s : State) (c : Cmd) (bar : Nat) : Bool :=
  bar = 0 || (match tget s.barriers bar with | some b => b.paddock = c.pad | none => false)

/-- Whether the operands of STREAM_OPEN are in range. -/
def streamParamsOk (c : Cmd) : Bool :=
  c.u64 0 % tileBytes = 0 && 2 ≤ c.u32 8 && c.u32 8 ≤ 4096 && 1 ≤ c.u32 12 && c.u32 12 ≤ 64 && c.u64 16 ≤ 2 ^ 40

/-- The stream that STREAM_OPEN opens. -/
def openedStream (c : Cmd) (bar : Nat) (log : Bool) : Stream :=
  { paddock := c.pad, buf := c.u64 0, depth := c.u32 8, nCons := c.u32 12, expected := c.u64 16, state := .opened,
    committed := 0, early := [], poisonLimit := 0, poisonTiles := 0, producer := none, consEnd := [], cons := [],
    waiting := [], endBarrier := bar, endDone := false, logEnd := log }

/-- The state in which a new stream has the next free handle, and its command has completed with it. -/
def State.streamEntered (s : State) (c : Cmd) (st : Stream) : State :=
  let p := s.pick (fun k => s.basin.streamsMade.contains k) 1 (2 ^ 32 - 1)
  let hd := p.1.getD 1
  { p.2 with streams := tput p.2.streams hd st
             basin := { p.2.basin with streamsMade := insNat hd p.2.basin.streamsMade } }.ok c hd

/-- STREAM_OPEN of a buffer of the caller, within the limits, enters the stream. -/
theorem State.streamOpen_ok {s : State} {c : Cmd} {bar : Nat} {log : Bool} {x : Nat × Alloc}
    (hp : streamParamsOk c = true) (hr : s.ownRange c (c.u64 0) (c.u32 8 * tileBytes) [.basin] = .ok x)
    (hb : s.barrierNamed c bar = true)
    (hl : ((s.streams.filter fun e => e.2.paddock = c.pad).length < 2048 && s.streams.length < 16384) = true) :
    s.streamOpen c bar log = .ok (s.streamEntered c (openedStream c bar log)) :=
  need_of hp (bind_of hr (need_of hb (need_of hl rfl)))

/-! ### Binds (R207) -/

/-- The consumer that STREAM_BIND binds, none where it binds the producer. -/
def bindConsumer (c : Cmd) : Option Nat := if c.u32 4 = 0xFFFF then none else some (c.u32 4)

/-- The tiles of a burst: those that the command names, or a half of the ring and at most 16. -/
def Stream.burstOr (st : Stream) (burst0 : Nat) : Nat := if burst0 = 0 then min 16 (st.depth / 2) else burst0

/-- Whether a stream has an end. -/
def Stream.hasEnd (st : Stream) : Option Nat → Bool
  | some k => k < st.nCons
  | none => true

/-- Whether nobody holds an end of a stream. -/
def Stream.endFree (st : Stream) : Option Nat → Bool
  | some k => !thas st.consEnd k
  | none => st.producer.isNone

/-- The bytes that the tiles of a bind span. -/
def bindSpan (c : Cmd) (stride : Nat) : Nat :=
  if c.u64 16 = 0 then 0 else (c.u64 16 - 1) * (if stride = 0 then tileBytes else stride) + tileBytes

/-- Whether a location is the host's. -/
def Loc.onHost : Loc → Bool
  | .host _ => true
  | .part _ _ => false

/-- The bind that STREAM_BIND enters. -/
def newBind (c : Cmd) (st : Stream) (burst0 stride done : Nat) (keep : Bool) (loc : Loc) : Bind :=
  { wid := c.w, paddock := c.pad, fn := c.fn, handle := c.u32 0, consumer := bindConsumer c, addr := c.u64 8,
    host := loc.onHost, tiles := c.u64 16, burst := st.burstOr burst0, stride := stride, done := done, keepOpen := keep,
    base := st.committed, issued := [], landed := [], doneTiles := [], moved := 0, poisoned := 0, poisonOut := false,
    took := 0, gotEnd := false, failStatus := 0#16 }

/-- The state in which a bind stands and its engine holds its end of the stream; a consumer asks for its first burst. -/
def State.bindEntered (s : State) (c : Cmd) (b : Bind) : State :=
  let s1 : State := { s with basin := { s.basin with binds := s.basin.binds ++ [b] } }
  let s2 := s1.modStream (c.u32 0) fun x => match bindConsumer c with
    | some k => { x with consEnd := tput x.consEnd k (.engine c.w) }
    | none => { x with producer := some (.engine c.w) }
  if (bindConsumer c).isSome then s2.nextBurst b else s2

/-- STREAM_BIND of a free end of a stream of the caller to memory that it may use enters the bind. -/
theorem State.streamBind_ok {s : State} {c : Cmd} {burst0 stride done : Nat} {keep : Bool} {st : Stream} {loc : Loc}
    (hs : s.streamOf c (c.u32 0) = .ok st)
    (hn : (st.hasEnd (bindConsumer c) && st.burstOr burst0 ≤ min 64 st.depth) = true)
    (hx : (!((bindConsumer c).isNone && st.expected != 0 && st.expected - st.committed < c.u64 16)) = true)
    (hb : s.barrierNamed c done = true) (hf : st.endFree (bindConsumer c) = true)
    (ho : ((bindConsumer c).isSome || st.state = .opened) = true)
    (hr : s.resolve c (c.u64 8) (bindSpan c stride) (bindConsumer c).isSome = .ok loc)
    (ha : (loc.onHost || 0x100000000 ≤ c.u64 8) = true) :
    s.streamBind c burst0 stride done keep =
      .ok (s.bindEntered c (newBind c st burst0 stride done keep loc)) :=
  bind_of hs <| need_of hn <| need_of hx <| need_of hb <| need_of hf <| need_of ho <| bind_of hr <| need_of ha rfl

/-! ### Close and abort (R182, R185, R206) -/

section
variable {s : State} {c : Cmd} {st : Stream} (hs : s.streamOf c (c.u32 0) = .ok st)
include hs

/-- STREAM_CLOSE of an OPEN stream without a producer closes it, and completes at once or at its END. -/
theorem State.streamClose_ok {wait : Bool} (ho : (st.state = .opened && st.producer.isNone) = true) :
    s.streamClose c wait = .ok (if wait then (s.closeStream (c.u32 0)).wait c.w (.streamEnd (c.u32 0))
      else (s.closeStream (c.u32 0)).ok c) :=
  bind_of hs (need_of ho rfl)

/-- STREAM_ABORT of an OPEN stream aborts it. -/
theorem State.streamAbort_ok (ho : st.state = .opened) :
    s.streamAbort c = .ok ((s.abortStream (c.u32 0)).ok c) :=
  bind_of hs (need_of (decide_eq_true ho) rfl)

end

/-! ### Barriers (R194, R196) -/

/-- The barrier that BARRIER_CREATE makes. -/
def createdBarrier (c : Cmd) (drains : List Nat) (auto : Bool) : Barrier :=
  { paddock := c.pad, expect := c.u32 0, phase := 0, count := 0, next := 0, drains := dedupNat drains,
    autoRearm := auto, arrs := [], waitTasks := [], waitCmds := [] }

/-- The state in which a new barrier has the next free handle, and its command has completed with it. -/
def State.barrierEntered (s : State) (c : Cmd) (b : Barrier) : State :=
  let p := s.pick (fun k => s.basin.barriersMade.contains k) 1 (2 ^ 32 - 1)
  let hd := p.1.getD 1
  { p.2 with barriers := tput p.2.barriers hd b
             basin := { p.2.basin with barriersMade := insNat hd p.2.basin.barriersMade } }.ok c hd

/-- Whether the streams that a barrier drains are of the caller's paddock. -/
def State.drainsOwned (s : State) (c : Cmd) (drains : List Nat) : Bool :=
  drains.all fun d => match tget s.streams d with | some st => st.paddock = c.pad | none => false

/-- BARRIER_CREATE within the limits enters the barrier. -/
theorem State.barrierCreate_ok {s : State} {c : Cmd} {drains : List Nat} {auto : Bool} (hm : (!c.mgmt) = true)
    (he : (1 ≤ c.u32 0 && c.u32 0 ≤ 65535) = true) (hd : s.drainsOwned c drains = true)
    (hl : ((s.barriers.filter fun e => e.2.paddock = c.pad).length < 4096 && s.barriers.length < 32768) = true) :
    s.barrierCreate c drains auto = .ok (s.barrierEntered c (createdBarrier c drains auto)) :=
  need_of hm (need_of he (need_of hd (need_of hl rfl)))

/-! ### The commands -/

/-- Settles O34: each command is ready, its checks pass one after another, and its body succeeds. Which handle a new
stream or barrier gets (log entry 10), the layout of the records (log entry 11), what ends a command that waits on a
barrier destroyed with FORCE (log entry 17) or on a stream freed (log entry 43), and the length of the expert
BASIN_QUERY (log entry 60) are the model's choices. -/
theorem streamAndBarrierCommands : Obligations.StreamAndBarrierCommands := by
  refine ⟨?openStream, ?openExpert, ?bind, ?bindExpert, ?close, ?closeExpert, ?abort, ?abortExpert, ?query,
    ?queryExpert, ?free, ?freeExpert, ?rearm, ?rearmExpert, ?create, ?createExpert, ?arrive, ?arriveWait, ?arriveExpert,
    ?destroy, ?destroyExpert, ?basin, ?basinExpert⟩
  case openStream =>
    intro z wid c h s bar log p1 buf depth cons exp hp x hr hb hl p3 h' s1 hd st
    exact run_ok h (State.streamOpen_ok hp hr hb hl)
  case openExpert =>
    intro z wid c h s bar log p1 buf depth cons exp hp x hr hb hl p3 h' s1 hd st
    exact run_ok h (State.streamOpen_ok hp hr hb hl)
  case bind =>
    intro z wid c h s burst0 stride done keep hd e addr tiles st hs cons burst hn hx hb hf ho span loc hr host ha b s1
      s2
    exact run_ok h (State.streamBind_ok hs hn hx hb hf ho hr ha)
  case bindExpert =>
    intro z wid c h s burst0 stride done keep hd e addr tiles st hs cons burst hn hx hb hf ho span loc hr host ha b s1
      s2
    exact run_ok h (State.streamBind_ok hs hn hx hb hf ho hr ha)
  case close =>
    intro z wid c h s wait hd st hs ho s1
    exact run_ok h (State.streamClose_ok hs ho)
  case closeExpert =>
    intro z wid c h s wait hd st hs ho s1
    exact run_ok h (State.streamClose_ok hs ho)
  case abort =>
    intro z wid c h s st hs ho
    exact run_ok h (State.streamAbort_ok hs ho)
  case abortExpert =>
    intro z wid c h s s1 st hs ho
    exact run_ok h (State.streamAbort_ok hs ho)
  case query =>
    intro z wid c h s st hs s1 hw
    exact run_ok h (bind_of hs (bind_of hw rfl))
  case queryExpert =>
    intro z wid c h s mine s1 hw
    exact run_ok h (bind_of hw rfl)
  case free =>
    intro z wid c h s st hs he
    exact run_ok h (bind_of hs (need_of he rfl))
  case freeExpert =>
    intro z wid c h s st hs he
    exact run_ok h (bind_of hs (need_of he rfl))
  case rearm =>
    intro z wid c h s st hs he
    exact run_ok h (bind_of hs (need_of he rfl))
  case rearmExpert =>
    intro z wid c h s st hs he hx
    exact run_ok h (bind_of hs (need_of he (need_of (decide_eq_true hx) rfl)))
  case create =>
    intro z wid c h s drains auto hm he hd hl p1 h' s1 hd' b
    exact run_ok h (State.barrierCreate_ok hm he hd hl)
  case createExpert =>
    intro z wid c h s drains auto hm he hd hl p1 h' s1 hd' b
    exact run_ok h (State.barrierCreate_ok hm he hd hl)
  case arrive =>
    intro z wid c h s b hb
    exact run_ok h (bind_of hb rfl)
  case arriveWait =>
    intro z wid c h s b hb hw b'
    exact run_ok h (bind_of hb (if_pos hw))
  case arriveExpert =>
    intro z wid c h s b hb hw
    exact run_ok h (bind_of hb (if_neg hw))
  case destroy =>
    intro z wid c h s b hb hi
    exact run_ok h (bind_of hb (need_of hi rfl))
  case destroyExpert =>
    intro z wid c h s b hb hi
    exact run_ok h (bind_of hb (need_of hi rfl))
  case basin =>
    intro z wid c h s s1 hw
    exact run_ok h (bind_of hw rfl)
  case basinExpert =>
    intro z wid c h s hm banks s1 hw
    exact run_ok h (need_of hm (bind_of hw rfl))

end Sys2Proof.Machine
end

section
/-! NVW programming, erase and seal ends, zeroing and host transfers (R191, R215, R230, R232, R235, R238, R241): the
equations of a program's next tile, of a fill, of a sealed region and of an answered host read. -/

namespace Sys2Proof.Machine

/-! ### Programming (R232, R233, R238) -/

/-- The tile of its region that a program writes next. -/
def State.progNext (s : State) (p : NvwProg) : Nat := p.start + s.progDone p

/-- Where the comparison of a tile has failed, the block that holds it gives way to a spare. -/
def State.blockRetried (s : State) (l : Alloc) (i : Nat) (again : Bool) : State :=
  if again then (match (blockOf l i).1 with | some b => s.replaceBlocks [b] | none => s) else s

/-- The bytes of a tile as they reach the stack: through the staging in the Basin, unless a stream holds them there. -/
def State.tileStaged (s : State) (p : NvwProg) (bs : List Byte) : State × List Byte :=
  if p.stream != 0 then (s, bs)
  else ((s.landIn areaTransit tileBytes bs []).1, (s.landIn areaTransit tileBytes bs []).2.1)

/-- A program that has counted the tiles that it wrote again. -/
def State.progCounted (s : State) (w : BitVec 64) (p : NvwProg) (l : Alloc) (i : Nat) (again : Bool) : NvwProg :=
  let fresh := (s.nvwProgs.find? fun x => x.wid = w).getD p
  { fresh with reprog := fresh.reprog + (if again then (blockOf l i).2 + 1 else 0) }

/-- The state in which a tile of a region is written. -/
def State.tileWritten (s : State) (p : NvwProg) (l : Alloc) (i : Nat) (again : Bool) (bs : List Byte) : State :=
  let r := (s.blockRetried l i again).tileStaged p bs
  (r.1.store (p.region + i * tileBytes) r.2).modAlloc p.region fun x => { x with programmed := i + 1 }

/-- The state in which a tile is written and its program has counted it. -/
def State.tileProgrammed (s : State) (w : BitVec 64) (p : NvwProg) (l : Alloc) (i : Nat) (again : Bool)
    (bs : List Byte) : State :=
  let t := s.tileWritten p l i again bs
  { t with nvwProgs := t.nvwProgs.map fun x => if x.wid = w then s.progCounted w p l i again else x }

section
variable {s : State} {w : BitVec 64} {ok : Bool} {p : NvwProg} {l : Alloc}
  (hp : (s.nvwProgs.find? fun p => p.wid = w) = some p) (hl : tget s.allocs p.region = some l)
  (hn : ¬((s.nvwStack (nvwStackOf l (s.progNext p * tileBytes))).deferred || s.part.mastersStopped) = true)
include hp hl hn

/-- A program whose source has no next tile ends where the source has, and else waits. -/
theorem exec_nvwTileProgrammed_without_tile {s' : State} {fin : Bool}
    (hd : s.progTile p (s.progDone p) = (s', none, fin)) :
    exec (.nvwTileProgrammed w ok) s = .next (State.settle (if fin then s'.endProg p stOk else s')) := by
  refine event_eq ?_
  rw [hp]
  dsimp only
  rw [hl]
  refine (if_neg hn).trans ?_
  rw [hd]

/-- A poisoned tile ends its program, and any other is programmed; the last one ends the program too. -/
theorem exec_nvwTileProgrammed_of_tile {s' : State} {bs : List Byte} {bad fin : Bool}
    (hd : s.progTile p (s.progDone p) = (s', some (bs, bad), fin)) :
    exec (.nvwTileProgrammed w ok) s = .next (State.settle
      (if bad then s'.endProg p stNvwPoisonRefused
        else if s.progDone p + 1 = p.tiles then
          (s'.tileProgrammed w p l (s.progNext p) (p.verify && !ok) bs).endProg
            (s'.progCounted w p l (s.progNext p) (p.verify && !ok)) stOk
        else s'.tileProgrammed w p l (s.progNext p) (p.verify && !ok) bs)) := by
  refine event_eq ?_
  rw [hp]
  dsimp only
  rw [hl]
  refine (if_neg hn).trans ?_
  rw [hd]
  rfl

end

/-! ### Zeroing and fills (R215, R241, R245) -/

/-- The state in which a command's zeroing or fill is no longer under way. -/
def State.zeroingTaken (s : State) (w : BitVec 64) : State :=
  { s with hbm := { s.hbm with zeroing := s.hbm.zeroing.filter fun y => y.wid != w } }

/-- The lines of a fill that lie in lost pages of the parking tier. -/
def State.linesLost (s : State) (z : Zeroing) : List Nat :=
  (lineAddrs z.addr z.len).filter fun l => s.parkLost (max l z.addr)

/-- The lines of a fill that do not. -/
def State.linesKept (s : State) (z : Zeroing) : List Nat :=
  (lineAddrs z.addr z.len).filter fun l => !(s.linesLost z).contains l

/-- The bytes of a fill that lie in a line. -/
def Zeroing.lineSize (z : Zeroing) (l : Nat) : Nat := min (l + 256) (z.addr + z.len) - max l z.addr

/-- The state in which the lines that are not lost hold the pattern. -/
def State.linesFilled (s : State) (z : Zeroing) (pat : BitVec 64) : State :=
  (s.linesKept z).foldl (fun s l =>
    s.store (max l z.addr) (((patternBytes pat z.len).drop (max l z.addr - z.addr)).take (z.lineSize l))) s

section
variable {s : State} {w : BitVec 64} {z : Zeroing} (hz : (s.hbm.zeroing.find? fun z => z.wid = w) = some z)
include hz

/-- The end of an allocation's zeroing completes its command with the address. -/
theorem exec_zeroingComplete_of_alloc (hp : z.pattern = none) :
    exec (.zeroingComplete w) s =
      .next (State.settle ((s.zeroingTaken w).complete w stOk (BitVec.ofNat 64 z.addr))) := by
  refine event_eq ?_
  rw [hz]
  dsimp only
  rw [hp]
  rfl

/-- The end of a fill leaves the pattern in the lines that are not lost, and completes with the bytes written. -/
theorem exec_zeroingComplete_of_fill {pat : BitVec 64} (hp : z.pattern = some pat) :
    exec (.zeroingComplete w) s = .next (State.settle
      (if ((s.zeroingTaken w).linesLost z).isEmpty then
          ((s.zeroingTaken w).store z.addr (patternBytes pat z.len)).complete w stOk (BitVec.ofNat 64 z.len)
        else ((s.zeroingTaken w).linesFilled z pat).complete w stParkLost
          (BitVec.ofNat 64 (sumNat (((s.zeroingTaken w).linesKept z).map z.lineSize))))) := by
  refine event_eq ?_
  rw [hz]
  dsimp only
  rw [hp]
  rfl

end

/-! ### Erase and seal (R230, R235) -/

/-- The state in which the blocks of a region are erased, and nothing is recorded of it. -/
def State.regionErased (s : State) (a : Nat) (l : Alloc) (fails : List (Nat × Nat)) : State :=
  let s := ((s.wipe a l).eraseBlocks l fails).modAlloc a fun y =>
    { y with nvw := .erased, programmed := 0, torn := none, digest := [], keyTag := [] }
  { s with kryto := { s.kryto with measures := tdel s.kryto.measures a } }

/-- The digest of a region. -/
def State.regionDigest (s : State) (a : Nat) (l : Alloc) : List Byte := sha384 (s.bytes a l.len)

/-- The state in which the digest of a region stands in the buffer that its seal named. -/
def State.digestWritten (s : State) (w : BitVec 64) (a : Nat) (l : Alloc) (buf : BitVec 64) : State :=
  s.lateWrite (s.fnOf w) buf.toNat (s.regionDigest a l)

/-- The state in which a region is SEALED with a digest, which Kryto measures where the region is shared. -/
def State.regionSealed (s : State) (a : Nat) (l : Alloc) (d : List Byte) : State :=
  let s := s.modAlloc a fun y => { y with nvw := .sealed, digest := d }
  if l.owner = 15 then { s with kryto := { s.kryto with measures := tput s.kryto.measures a d } } else s

section
variable {s : State} {w : BitVec 64} {x : Wait} (hx : (s.waits.find? fun x => x.wid = w) = some x)
include hx

section
variable {a : Nat} {rel : Bool} {fails : List (Nat × Nat)} (hk : x.kind = .erase a rel)
include hk

/-- The erase of a region that is gone fails. -/
theorem exec_nvwEraseComplete_without_region (hl : tget s.allocs a = none) :
    exec (.nvwEraseComplete w fails) s = .next (State.settle (s.complete w stBadAlloc)) := by
  refine event_eq ?_
  rw [hx]
  dsimp only
  rw [hk]
  dsimp only
  rw [hl]

/-- The erase of a region leaves it ERASED, and frees it where that is asked for. -/
theorem exec_nvwEraseComplete_of_region {l : Alloc} (hl : tget s.allocs a = some l) :
    exec (.nvwEraseComplete w fails) s = .next (State.settle
      ((if rel then (s.regionErased a l fails).release a else s.regionErased a l fails).complete w stOk)) := by
  refine event_eq ?_
  rw [hx]
  dsimp only
  rw [hk]
  dsimp only
  rw [hl]
  rfl

end

section
variable {a : Nat} {buf : BitVec 64} {expect : List Byte} (hk : x.kind = .seal a buf expect)
include hk

/-- The seal of a region that is gone fails. -/
theorem exec_nvwSealDigestComplete_without_region (hl : tget s.allocs a = none) :
    exec (.nvwSealDigestComplete w) s = .next (State.settle (s.complete w stBadAlloc)) := by
  refine event_eq ?_
  rw [hx]
  dsimp only
  rw [hk]
  dsimp only
  rw [hl]

/-- The digest of a region is written, and seals it unless another was expected. -/
theorem exec_nvwSealDigestComplete_of_region {l : Alloc} (hl : tget s.allocs a = some l) :
    exec (.nvwSealDigestComplete w) s = .next (State.settle
      (if !expect.isEmpty && expect != s.regionDigest a l then
          (s.digestWritten w a l buf).complete w stImageDigest
        else ((s.digestWritten w a l buf).regionSealed a l (s.regionDigest a l)).complete w stOk)) := by
  refine event_eq ?_
  rw [hx]
  dsimp only
  rw [hk]
  dsimp only
  rw [hl]
  rfl

end

end

/-! ### Host reads (R191) -/

/-- The bytes of a tile that the host answers, zeros where it answers none. -/
def hostBytes (data : Option (List Byte)) : List Byte :=
  match data with
  | some d => slice d 0 tileBytes
  | none => List.replicate tileBytes 0#8

/-- The lines of a tile that the host answers, poisoned where it answers none. -/
def hostLines (tile : Nat) (data : Option (List Byte)) : List (Nat × Nat × Bool × List Byte) :=
  (List.range 64).map fun j => (tile, j, data.isNone, ((hostBytes data).drop (256 * j)).take 256)

/-- A host read for a bind that still takes the tile lands all lines of it. -/
theorem State.hostTile_of_bind {s : State} {w : BitVec 64} {tile : Nat} {data : Option (List Byte)} {b : Bind}
    {st : Stream} (hb : s.bindOf w = some b) (hs : tget s.streams b.handle = some st)
    (hn : ¬(!b.host || b.consumer.isSome || b.tiles ≤ tile || st.state != .opened || !st.credit (b.base + tile) ||
      b.doneTiles.contains tile || b.landed.any (fun e => e.1 = tile)) = true) :
    s.hostTile w tile data = s.modBind w fun x => { x with landed := x.landed ++ hostLines tile data } := by
  simp only [State.hostTile, hb, hs]
  exact if_neg hn

/-- Whether a program still takes a tile from the host. -/
def NvwProg.takesTile (p : NvwProg) (w : BitVec 64) (tile : Nat) : Bool :=
  p.wid = w && p.stream = 0 && p.src / 2 ^ 56 != 0xFA && tile < p.tiles && !p.staged.any (fun e => e.1 = tile)

/-- A program with a tile from the host staged, where it takes the tile. -/
def NvwProg.staging (w : BitVec 64) (tile : Nat) (data : Option (List Byte)) (p : NvwProg) : NvwProg :=
  if p.takesTile w tile then { p with staged := p.staged ++ [(tile, data.isNone, hostBytes data)] } else p

/-- A host read for a program stages the tile for it. -/
theorem State.hostTile_without_bind {s : State} {w : BitVec 64} {tile : Nat} {data : Option (List Byte)}
    (hb : s.bindOf w = none) :
    s.hostTile w tile data = { s with nvwProgs := s.nvwProgs.map (NvwProg.staging w tile data) } := by
  simp only [State.hostTile, hb]
  rfl

/-! ### The events -/

/-- Settles O38: each event whose conditions hold takes the branch of its meaning that they name. What the host answers
to a read as an operand (log entry 5), that a fill of lost pages completes (log entry 49, which has it count the lost
lines in DETAIL, where the model gives the bytes written in RESULT and leaves DETAIL 0) and what the destruction of a
paddock ends (log entry 143) are the model's choices. -/
theorem flashAndHostTransferEvents : Obligations.FlashAndHostTransferEvents := by
  refine ⟨?sourceEnded, ?sourceWaits, ?poisonedTile, ?lastTile, ?tile, ?patrol, ?relocation, ?alloc, ?fill, ?fillLost,
    ?destroy, ?eraseGone, ?erase, ?sealGone, ?sealMismatch, ?sealed, ?read, ?readProg, ?timeout, ?timeoutProg⟩
  case sourceEnded =>
    intro w ok s p' hp p l hl n i k hn s' fin hd hf
    exact exec_of_eq (exec_nvwTileProgrammed_without_tile hp hl hn hd) (if_pos hf)
  case sourceWaits =>
    intro w ok s p' hp p l hl n i k hn s' fin hd hf
    exact exec_of_eq (exec_nvwTileProgrammed_without_tile hp hl hn hd) (if_neg hf)
  case poisonedTile =>
    intro w ok s p' hp p l hl n i k hn s' bs bad x1 hd hb
    exact exec_of_eq (exec_nvwTileProgrammed_of_tile hp hl hn hd) (if_pos hb)
  case lastTile =>
    intro w ok s p' hp p l hl n i k hn s' bs bad x1 hd hb fresh again blk s1 r s2 bs' s3 q s4 he
    exact exec_of_eq (exec_nvwTileProgrammed_of_tile hp hl hn hd) ((if_neg hb).trans (if_pos he))
  case tile =>
    intro w ok s p' hp p l hl n i k hn s' bs bad x1 hd hb fresh again blk s1 r s2 bs' s3 q s4 he
    exact exec_of_eq (exec_nvwTileProgrammed_of_tile hp hl hn hd) ((if_neg hb).trans (if_neg he))
  case patrol => exact fun _ _ _ _ hn => event_eq (if_neg hn)
  case relocation =>
    intro stack block z s hn s1 s2
    exact event_eq (if_neg hn)
  case alloc =>
    intro w z0 s z' hz z s1 hp
    exact exec_zeroingComplete_of_alloc hz hp
  case fill =>
    intro w z0 s z' hz z s1 pat hp lost he
    exact exec_of_eq (exec_zeroingComplete_of_fill hz hp) (if_pos he)
  case fillLost =>
    intro w z0 s z' hz z s1 pat hp lost he keep size s2
    exact exec_of_eq (exec_zeroingComplete_of_fill hz hp) (if_neg he)
  case destroy =>
    intro w s hz hw
    refine event_eq ?_
    rw [hz]
    exact if_pos hw
  case eraseGone =>
    intro w fails s x' hx x a rel hk hl
    exact exec_nvwEraseComplete_without_region hx hk hl
  case erase =>
    intro w fails z s x' hx x a rel hk l hl s1 s2 s3
    exact exec_nvwEraseComplete_of_region hx hk hl
  case sealGone =>
    intro w s x' hx x a buf expect hk hl
    exact exec_nvwSealDigestComplete_without_region hx hk hl
  case sealMismatch =>
    intro w z s x' hx x a buf expect hk l hl d s1 hm
    exact exec_of_eq (exec_nvwSealDigestComplete_of_region hx hk hl) (if_pos hm)
  case sealed =>
    intro w z s x' hx x a buf expect hk l hl d s1 hm s2 s3
    exact exec_of_eq (exec_nvwSealDigestComplete_of_region hx hk hl) (if_neg hm)
  case read =>
    intro w tile data s bad bytes b hb st hs hn lines
    exact event_eq (State.hostTile_of_bind hb hs hn)
  case readProg =>
    intro w tile data s bad bytes hb progs
    exact event_eq (State.hostTile_without_bind hb)
  case timeout =>
    intro w tile s data bad bytes b hb st hs hn lines
    exact event_eq (State.hostTile_of_bind hb hs hn)
  case timeoutProg =>
    intro w tile s data bad bytes hb progs
    exact event_eq (State.hostTile_without_bind hb)

end Sys2Proof.Machine
end

section
/-! The allocation, fill and map-out commands (R210, R215, R227, R228, R245): the equation of the body that the two
levels of a command share, where its checks pass. -/

namespace Sys2Proof.Machine

/-! ### Allocation (R210, R215) -/

/-- The allocation that MEM_ALLOC asks for. -/
def State.allocAsked (s : State) (c : Cmd) (o : Nat) (tier : Tier) : AllocReq :=
  { owner := o, tier := tier, near := bitAt (c.u32 0) 3 && tier != .park
    die := if bitAt (c.u32 0) 6 then c.u32 0 / 16 % 4 else s.homeDie o
    len := c.u64 4, persist := bitAt (c.u32 0) 7, moored := bitAt (c.u32 0) 8, sys := false }

/-- Whether an owner may ask for an allocation of a length in a tier. -/
def allocAskedOk (c : Cmd) (o : Nat) (tier : Tier) : Bool :=
  !(bitAt (c.u32 0) 8 && tier != .hbm) && !(o = 15 && tier != .nvw) && c.u64 4 ≠ 0

/-- The length of an allocation, 0 where none stands. -/
def State.allocLen (s : State) (a : Nat) : Nat := ((tget s.allocs a).map (·.len)).getD 0

/-- The state in which the zeroing or fill of a range for a command is under way. -/
def State.zeroingBegun (s : State) (z : Zeroing) : State :=
  { s with hbm := { s.hbm with zeroing := s.hbm.zeroing ++ [z] } }

/-- MEM_ALLOC of what the tier has room for: HBM4 and parking memory is zeroed first, and any other is there at once. -/
theorem State.memAlloc_of_allocated {s s1 : State} {c : Cmd} {owner : Option Nat} {tier : Tier} {o a : Nat}
    (ht : tierOf (c.u32 0 % 8) = some tier) (ho : owner = some o) (hn : allocAskedOk c o tier = true)
    (ha : s.allocate (s.allocAsked c o tier) = .ok (a, s1)) :
    s.memAlloc c owner = if tier = .hbm || tier = .park then .ok (s1.zeroingBegun ⟨c.w, a, s1.allocLen a, none⟩)
      else .ok (s1.ok c a) :=
  want_of ht (want_of ho (need_of hn (bind_of ha rfl)))

/-! ### Freeing (R245) -/

section
variable {s : State} {c : Cmd} {l : Alloc} (hl : s.namedAlloc c (c.u64 0) = .ok l)
  (hd : (c.mgmt || l.nvw != .detached) = true)
include hl hd

/-- MEM_FREE of an allocation that nobody uses releases it. -/
theorem State.memFree_unused {wait : Bool} (hu : ¬s.allocInUse (c.u64 0) l = true) :
    s.memFree c wait = .ok ((s.release (c.u64 0)).ok c) :=
  bind_of hl (need_of hd (if_neg hu))

/-- MEM_FREE of an allocation in use waits where it may. -/
theorem State.memFree_waits {wait : Bool} (hu : s.allocInUse (c.u64 0) l = true)
    (hw : (wait && l.grants.isEmpty) = true) :
    s.memFree c wait = .ok (s.wait c.w (.memFree (c.u64 0))) :=
  bind_of hl (need_of hd ((if_pos hu).trans (if_pos hw)))

end

/-! ### Fills (R245) -/

/-- MEM_FILL of a range of an allocation of the caller begins the fill. -/
theorem State.memFill_ok {s : State} {c : Cmd} {pat : BitVec 64} {e : Nat × Alloc} (hm : (!c.mgmt) = true)
    (he : s.allocAt (c.u64 0) = some e) (hs : (!e.2.sys) = true) (ho : e.2.owner = c.pad)
    (hr : (e.2.tier != .nvw && rangeIn (c.u64 0) (c.u64 8) e) = true) :
    s.memFill c pat = .ok (s.zeroingBegun ⟨c.w, c.u64 0, c.u64 8, some pat⟩) := by
  refine need_of hm ?_
  dsimp only
  rw [he]
  exact need_of hs (need_of (decide_eq_true ho) (need_of hr rfl))

/-! ### Map-out (R227, R228) -/

section
variable {s : State} {c : Cmd} {noMigrate : Bool}

/-- MEM_MAPOUT of a channel whose map-out the command itself has in progress goes on with it. -/
theorem State.memMapout_resumed
    (hk : (c.u32 0 < 384 && (s.hbm.chan (c.u32 0)).migrating = some c.w) = true) :
    s.memMapout c noMigrate = .ok s := if_pos hk

/-- MEM_MAPOUT of a channel in service begins its map-out. -/
theorem State.memMapout_begins
    (hk : ¬(c.u32 0 < 384 && (s.hbm.chan (c.u32 0)).migrating = some c.w) = true)
    (hn : (c.u32 0 < 384 && !(s.hbm.chan (c.u32 0)).mapped && (s.hbm.chan (c.u32 0)).migrating.isNone) = true) :
    s.memMapout c noMigrate = .ok (s.startMapout (c.u32 0) c.w noMigrate) := (if_neg hk).trans (need_of hn rfl)

end

/-! ### The commands -/

/-- Settles O35: each command is ready, its checks pass one after another, and its body succeeds. Where an allocation
goes (log entries 10 and 12), the layout of the records (log entry 11), which frames stand for a channel's (log entry
12), that freed memory is wiped at its release (log entry 25) and that a DETACHED region is freed on the management
session alone (log entry 56) are the model's choices. -/
theorem memoryCommands : Obligations.MemoryCommands := by
  refine ⟨?allocZeroed, ?alloc, ?mgmtAllocZeroed, ?mgmtAlloc, ?expertAllocZeroed, ?expertAlloc, ?free,
    ?expertFreeWaits, ?expertFree, ?query, ?expertQuery, ?fill, ?expertFill, ?mapoutResumed, ?mapout,
    ?expertMapoutResumed, ?expertMapout⟩
  case allocZeroed =>
    intro z wid c h s hx owner f len tier ht hf o ho moored hn near die a s1 ha size hz
    exact run_ok h ((State.memAlloc_of_allocated ht ho hn ha).trans (if_pos hz))
  case alloc =>
    intro z wid c h s hx owner f len tier ht hf o ho moored hn near die a s1 ha hz
    exact run_ok h ((State.memAlloc_of_allocated ht ho hn ha).trans (if_neg hz))
  case mgmtAllocZeroed =>
    intro z wid c h s o' hm owner f len tier ht hf o ho moored hn near die a s1 ha size hz
    exact run_ok h ((if_pos hm).trans ((State.memAlloc_of_allocated ht ho hn ha).trans (if_pos hz)))
  case mgmtAlloc =>
    intro z wid c h s o' hm owner f len tier ht hf o ho moored hn near die a s1 ha hz
    exact run_ok h ((if_pos hm).trans ((State.memAlloc_of_allocated ht ho hn ha).trans (if_neg hz)))
  case expertAllocZeroed =>
    intro z wid c h s o' hm hp owner f len tier ht hf o ho moored hn near die a s1 ha size hz
    exact run_ok h ((if_neg hm).trans (need_of hp ((State.memAlloc_of_allocated ht ho hn ha).trans (if_pos hz))))
  case expertAlloc =>
    intro z wid c h s o' hm hp owner f len tier ht hf o ho moored hn near die a s1 ha hz
    exact run_ok h ((if_neg hm).trans (need_of hp ((State.memAlloc_of_allocated ht ho hn ha).trans (if_neg hz))))
  case free =>
    intro z wid c h s a l hl hd hu
    exact run_ok h (State.memFree_unused hl hd hu)
  case expertFreeWaits =>
    intro z wid c h s wait a l hl hd hu hw
    exact run_ok h (State.memFree_waits hl hd hu hw)
  case expertFree =>
    intro z wid c h s a l hl hd hu
    exact run_ok h (State.memFree_unused hl hd hu)
  case query =>
    intro z wid c h s s1 hw
    exact run_ok h (bind_of hw rfl)
  case expertQuery =>
    intro z wid c h s p hm hp s1 hw
    exact run_ok h (need_of hm (need_of hp (bind_of hw rfl)))
  case fill =>
    intro z wid c h s pat hm p1 a n e he hs ho hr
    exact run_ok h (State.memFill_ok hm he hs ho hr)
  case expertFill =>
    intro z wid c h s pat hm p1 a n e he hs ho hr
    exact run_ok h (State.memFill_ok hm he hs ho hr)
  case mapoutResumed =>
    intro z wid c h s k hk
    exact run_ok h (State.memMapout_resumed hk)
  case mapout =>
    intro z wid c h s noMigrate k hk hn
    exact run_ok h (State.memMapout_begins hk hn)
  case expertMapoutResumed =>
    intro z wid c h s k hk
    exact run_ok h (State.memMapout_resumed hk)
  case expertMapout =>
    intro z wid c h s noMigrate k hk hn
    exact run_ok h (State.memMapout_begins hk hn)

end Sys2Proof.Machine
end

section
/-! The NVW commands (R232, R235, R236, R245): the equation of the body that the two levels of a command share, where
its checks pass. -/

namespace Sys2Proof.Machine

/-! ### Programming (R232) -/

/-- The program that NVW_PROGRAM begins in a region, from memory or as a consumer of a stream. -/
def programAsked (c : Cmd) (a : Nat) (l : Alloc) (stream : Nat) (verify : Bool) (con : Nat) : NvwProg :=
  { wid := c.w, region := a, src := c.u64 8, stream := stream, consumer := con, tiles := c.u64 16 / tileBytes
    start := l.programmed, verify := verify, reprog := 0, staged := [] }

/-- The tag of the key that a region's bytes are encrypted under, none for a shared region. -/
def State.regionKey (s : State) (l : Alloc) : List Byte :=
  if l.owner = 15 then [] else (tget s.kryto.tenantKeys l.owner).getD []

/-- The state in which a region is PROGRAMMING, without its torn blocks, and a program of it is under way. -/
def State.programBegun (s : State) (a : Nat) (l : Alloc) (key : List Byte) (p : NvwProg) : State :=
  { (s.eraseTorn a l).modAlloc a fun x => { x with nvw := .programming, keyTag := key } with
    nvwProgs := s.nvwProgs ++ [p] }

/-- Whether a location is the host's or in HBM4. -/
def State.onHostOrHbm (s : State) : Loc → Bool
  | .host _ => true
  | .part _ id => match tget s.allocs id with
    | some x => x.tier = .hbm
    | none => false

section
variable {s : State} {c : Cmd} {stream : Nat} {verify : Bool} {a : Nat} {l : Alloc}
  (hr : s.regionAt c (c.u64 0) = .ok (a, l)) (hn : (c.u64 16 ≠ 0 && c.u64 16 % tileBytes = 0) = true)
  (hg : ((l.nvw = .erased || l.nvw = .programming) && !s.regionBusy a &&
    c.u64 0 - a = l.programmed * tileBytes) = true)
  (he : c.u64 0 - a + c.u64 16 ≤ l.len)
include hr hn hg he

/-- NVW_PROGRAM of a region's next tiles from host memory or HBM4 begins the program. -/
theorem State.nvwProgram_from_memory {loc : Loc} (hs : stream = 0)
    (hl : s.resolve c (c.u64 8) (c.u64 16) false = .ok loc) (hh : s.onHostOrHbm loc = true) :
    s.nvwProgram c stream verify =
      .ok (s.programBegun a l (s.regionKey l) (programAsked c a l stream verify 0)) :=
  bind_of hr <| need_of hn <| need_of hg <| need_of (decide_eq_true he) <| (if_pos hs).trans <| bind_of hl <|
    need_of hh rfl

/-- NVW_PROGRAM of a region's next tiles from a stream takes the first free consumer of it and begins the program. -/
theorem State.nvwProgram_from_stream {st : Stream} {con : Nat} (hs : ¬stream = 0) (ht : s.streamOf c stream = .ok st)
    (hc : ((List.range st.nCons).find? fun k => !thas st.consEnd k) = some con) :
    s.nvwProgram c stream verify =
      .ok ((s.setStream stream { st with consEnd := tput st.consEnd con (.engine c.w) }).programBegun a l
        (s.regionKey l) (programAsked c a l stream verify con)) :=
  bind_of hr <| need_of hn <| need_of hg <| need_of (decide_eq_true he) <| (if_neg hs).trans <| bind_of ht <|
    want_of hc rfl

end

/-! ### Seal, erase and grant (R230, R235, R236) -/

section
variable {s : State} {c : Cmd} {a : Nat} {l : Alloc} (hr : s.regionAt c (c.u64 0) = .ok (a, l)) (ha : a = c.u64 0)
include hr ha

/-- NVW_SEAL of a region that is programmed throughout waits for its digest. -/
theorem State.nvwSeal_ok {expect : List Byte} {x1 : Loc}
    (hg : (l.nvw = .programming && l.programmed * tileBytes = l.len && !s.regionBusy a) = true)
    (hb : s.resolve c (c.u64 8) 48 true = .ok x1) :
    s.nvwSeal c expect = .ok (s.wait c.w (.seal a (BitVec.ofNat 64 (c.u64 8)) expect)) :=
  bind_of hr (need_of (decide_eq_true ha) (need_of hg (bind_of hb rfl)))

/-- NVW_GRANT of a SEALED region to a paddock that stands gives or withdraws the grant. -/
theorem State.nvwGrant_ok {revoke : Bool} (hp : (c.u32 8 < 8 && thas s.paddocks (c.u32 8)) = true)
    (hn : l.nvw = .sealed) :
    s.nvwGrant c revoke = .ok ((s.modAlloc a fun x => { x with
      grants := if revoke then x.grants.filter fun q => q != c.u32 8 else insNat (c.u32 8) x.grants }).ok c) :=
  bind_of hr (need_of (decide_eq_true ha) (need_of hp (need_of (decide_eq_true hn) rfl)))

end

/-- NVW_ERASE of a region that nobody uses waits for the erase of its blocks. -/
theorem State.nvwErase_ok {s : State} {c : Cmd} {l : Alloc} {release : Bool}
    (hl : s.namedAlloc c (c.u64 0) = .ok l) (ht : l.tier = .nvw) (hd : (c.mgmt || l.nvw != .detached) = true)
    (hu : (l.grants.isEmpty && !s.allocInUse (c.u64 0) l) = true) (hb : (!s.regionBusy (c.u64 0)) = true) :
    s.nvwErase c release = .ok (s.wait c.w (.erase (c.u64 0) release)) :=
  bind_of hl (need_of (decide_eq_true ht) (need_of hd (need_of hu (need_of hb rfl))))

/-! ### Queries (R245) -/

/-- NVW_QUERY of a region that the caller manages or is granted writes its record. -/
theorem nvwQueryBody_ok {s s1 : State} {c : Cmd} {l : Alloc} (hl : tget s.allocs (c.u64 0) = some l)
    (ht : (l.tier = .nvw && !l.sys) = true) (hg : (manages c l || l.grants.contains c.pad) = true)
    (hw : s.writeBuf c (c.u64 8) (s.regionRecord l) = .ok s1) : nvwQueryBody c s = .ok (s1.ok c) := by
  simp only [nvwQueryBody, hl]
  exact need_of ht (need_of hg (bind_of hw rfl))

/-! ### The commands -/

/-- Settles O36: each command is ready, its checks pass one after another, and its body succeeds. What becomes of the
torn blocks of a region before it is programmed on (log entry 158), that a grant goes to a paddock number and stays with
it (log entry 31), that a region being programmed is neither erased nor programmed again (log entry 48) and the layout
of the records (log entry 11) are the model's choices. -/
theorem flashCommands : Obligations.FlashCommands := by
  refine ⟨?program, ?programExpert, ?programStream, ?sealRegion, ?sealExpert, ?erase, ?eraseExpert, ?grant,
    ?grantExpert, ?query, ?queryExpert⟩
  case program =>
    intro z wid c h s stream verify p1 dst src len a l hr hn hg he key prog go hs loc hl hh
    exact run_ok h (State.nvwProgram_from_memory hr hn hg he hs hl hh)
  case programExpert =>
    intro z wid c h s stream verify p1 dst src len a l hr hn hg he key prog go hs loc hl hh
    exact run_ok h (State.nvwProgram_from_memory hr hn hg he hs hl hh)
  case programStream =>
    intro z wid c h s stream verify p1 dst src len a l hr hn hg he key prog go hs st ht con hc
    exact run_ok h (State.nvwProgram_from_stream hr hn hg he hs ht hc)
  case sealRegion =>
    intro z wid c h s expect a l hr ha hg x1 hb
    exact run_ok h (State.nvwSeal_ok hr ha hg hb)
  case sealExpert =>
    intro z wid hm c h s e x1 hx expect a l hr ha hg x2 hb
    exact run_ok h (bind_of hx (State.nvwSeal_ok hr ha hg hb))
  case erase =>
    intro z wid c h s release a l hl ht hd hu hb
    exact run_ok h (State.nvwErase_ok hl ht hd hu hb)
  case eraseExpert =>
    intro z wid c h s release a l hl ht hd hu hb
    exact run_ok h (State.nvwErase_ok hl ht hd hu hb)
  case grant =>
    intro z wid c h s revoke a l hr ha p hp hn
    exact run_ok h (State.nvwGrant_ok hr ha hp hn)
  case grantExpert =>
    intro z wid c h s revoke a l hr ha p hp hn
    exact run_ok h (State.nvwGrant_ok hr ha hp hn)
  case query =>
    intro z wid c h s l hl ht hg s1 hw
    exact run_ok h (nvwQueryBody_ok hl ht hg hw)
  case queryExpert =>
    intro z wid c h s n s1 hw
    exact run_ok h (bind_of hw rfl)

end Sys2Proof.Machine
end

section
/-! The park and telemetry commands, the CXL responses, and the refresh, scrub and map-out events (R220, R225 to R228,
R239 to R241, R245): the equations of PARK_CONTROL, of an answered request and of a timeout of one. -/

namespace Sys2Proof.Machine

/-! ### PARK_CONTROL (R239, R241) -/

/-- The port with the bifurcation that PARK_CONTROL asks for, which changes only with no device in service. -/
def State.bifurcate (s : State) : Option Nat → Except Err State
  | none => .ok s
  | some k =>
    if 2 < k then fail stBadParam
    else if k = s.cxl.bifur then .ok s
    else if s.cxl.devs.any fun e => e.2.inService then fail stBadParam
    else .ok { s with cxl := { s.cxl with bifur := k, devs := [] } }

section
variable {s s1 : State} {c : Cmd} {bifur : Option Nat} {found : List CxlFound} (ha : c.u32 4 ≤ 1)
  (hb : s.bifurcate bifur = .ok s1)
include ha hb

/-- PARK_CONTROL with action 0 scans the port. -/
theorem State.parkControl_rescan (hs : c.u32 4 = 0) :
    s.parkControl c bifur found = .ok ((s1.rescan found).ok c) :=
  need_of (decide_eq_true ha) (bind_of hb (if_pos hs))

/-- PARK_CONTROL with another action takes a device that the port knows offline. -/
theorem State.parkControl_offline {d : CxlDev} (hs : ¬c.u32 4 = 0) (hd : tget s1.cxl.devs (c.u32 0) = some d) :
    s.parkControl c bifur found = .ok ((s1.offline (c.u32 0)).ok c) := by
  refine need_of (decide_eq_true ha) (bind_of hb ((if_neg hs).trans ?_))
  rw [hd]

end

/-! ### Responses and timeouts (R239, R240) -/

/-- A response without a violation to a request of its device and direction is the answer of that request. -/
theorem State.cxlResponse_of_request {s : State} {dev tag : Nat} {write : Bool} {answer : TagReq → State} {q : TagReq}
    (ht : s.tagOf tag = some q) (hp : q.park = true) (hd : q.dev = dev) (hw : q.write = write) :
    s.cxlResponse dev tag 0 write answer = answer q := by
  simp [State.cxlResponse, ht, hp, hd, hw]

/-- The state 1 ms after the issue of a request, which has ended unanswered. -/
def State.requestTimedOut (s : State) (q : TagReq) : State := (s.reach (q.issuedAt + msNs)).tagTimeout q

/-- The timeouts of a device within the last second, with the one of now. -/
def State.recentTimeouts (s : State) (d : Nat) : List Nat :=
  s.t :: (((tget s.cxl.devs d).map (·.toTimes)).getD []).filter fun u => s.t < u + secNs

/-- The state in which a device has counted a timeout. -/
def State.timeoutCounted (s : State) (d : Nat) : State :=
  s.modDev d fun x => { x with toTimes := s.recentTimeouts d, timeouts := x.timeouts + 1 }

/-- A request to a device that times out is counted, and the eighth of the device within a second takes it offline. -/
theorem exec_cxlRequestTimeout_of_park {s : State} {tag : Nat} {q : TagReq} (ht : s.tagOf tag = some q)
    (hp : q.park = true) :
    exec (.cxlRequestTimeout tag) s = .next (State.settle
      (if 8 ≤ ((s.requestTimedOut q).recentTimeouts q.dev).length then
          ((s.requestTimedOut q).timeoutCounted q.dev).offline q.dev
        else (s.requestTimedOut q).timeoutCounted q.dev)) := by
  refine event_eq ?_
  rw [ht]
  exact if_neg (by simp [hp])

/-! ### The commands and events -/

/-- Settles O37: each command is ready, its checks pass one after another, and its body succeeds; each event whose
conditions hold takes the branch of its meaning that they name. That a response covers a whole line (log entry 80), the
layout of the records (log entry 11), what an interleave set keeps of a lost device (log entry 16), the status of a
bifurcation with devices in service (log entry 47) and the substitute frames (log entry 12) are the model's choices. -/
theorem parkAndDramCommands : Obligations.ParkAndDramCommands := by
  refine ⟨?parkQuery, ?parkQueryExpert, ?rescan, ?offline, ?rescanExpert, ?offlineExpert, ?telemetry,
    ?telemetryExpert, ?readData, ?writeDone, ?eighthTimeout, ?timeout, ?linkDown, ?refresh, ?calibrationIdle,
    ?calibrationPostponed, ?forcedCalibration, ?patrol, ?scrubAge, ?writeback, ?mapoutDecision, ?lastFrameSwitch,
    ?frameSwitch, ?mapoutRetry, ?poisonComplete⟩
  case parkQuery =>
    intro z wid c h s s1 hw
    exact run_ok h (bind_of hw rfl)
  case parkQueryExpert =>
    intro z wid evs c h s s1 hw s2 he
    exact run_ok h (bind_of hw (bind_of he rfl))
  case rescan =>
    intro z wid found c h s bifur act ha s1 hb hs
    exact run_ok h (State.parkControl_rescan ha hb hs)
  case offline =>
    intro z wid found c h s bifur act ha s1 hb hs x1 hd
    exact run_ok h (State.parkControl_offline ha hb hs hd)
  case rescanExpert =>
    intro z wid found c h s bifur act ha s1 hb hs
    exact run_ok h (State.parkControl_rescan ha hb hs)
  case offlineExpert =>
    intro z wid found c h s bifur act ha s1 hb hs x1 hd
    exact run_ok h (State.parkControl_offline ha hb hs hd)
  case telemetry =>
    intro z wid c h s s1 hw
    exact run_ok h (bind_of hw rfl)
  case telemetryExpert =>
    intro z wid c h s ks s1 hw
    exact run_ok h (bind_of hw rfl)
  case readData =>
    intro dev tag poison s q ht hp hd hw
    exact event_eq (State.cxlResponse_of_request ht hp hd hw)
  case writeDone =>
    intro dev tag s q ht hp hd hw
    exact event_eq (State.cxlResponse_of_request ht hp hd hw)
  case eighthTimeout =>
    intro tag z s0 q ht hp s1 s2 recent s3 hn
    exact exec_of_eq (exec_cxlRequestTimeout_of_park ht hp) (if_pos hn)
  case timeout =>
    intro tag z s0 q ht hp s1 s2 recent s3 hn
    exact exec_of_eq (exec_cxlRequestTimeout_of_park ht hp) (if_neg hn)
  case linkDown => exact fun _ _ => rfl
  case refresh => exact fun _ _ hc => event_eq (if_pos hc)
  case calibrationIdle =>
    intro c idle ok z s0 hc x moved s hi
    exact event_eq ((if_neg hc).trans (if_pos hi))
  case calibrationPostponed =>
    intro c idle ok z s0 hc x moved s hi
    exact event_eq ((if_neg hc).trans (if_neg hi))
  case forcedCalibration =>
    intro c ok s d hd
    refine event_eq ?_
    rw [hd]
  case patrol =>
    intro c outcome line z s0 hn p frame row off a poison s
    exact event_eq (if_neg hn)
  case scrubAge =>
    intro c z s0 x hn s
    exact event_eq (if_neg hn)
  case writeback => exact fun _ _ => rfl
  case mapoutDecision =>
    intro c s x corr unc hn ht
    exact event_eq ((if_neg hn).trans (if_pos ht))
  case lastFrameSwitch =>
    intro c bad lines z s0 x hn here s1 s2 hl
    exact event_eq ((if_neg hn).trans (if_pos hl))
  case frameSwitch =>
    intro c bad lines z s0 x hn here s1 s2 hl
    exact event_eq ((if_neg hn).trans (if_neg hl))
  case mapoutRetry => exact fun _ _ hn => event_eq (if_pos hn)
  case poisonComplete =>
    intro c z s0 x hn s
    exact event_eq (if_neg hn)

end Sys2Proof.Machine
end

section
/-! The model, adapter and rollout ring commands (R247, R249, R251, R273, R276): the equation of the body that the two
levels of a command share, where its checks pass. -/

namespace Sys2Proof.Machine

/-! ### Models (R247) -/

/-- Whether a paddock and the part have room for one more model. -/
def State.modelRoom (s : State) (owner : Nat) : Bool :=
  s.gen.models.length < 16 &&
    (s.gen.models.filter fun e => e.2.paddock = owner).length < ((tget s.paddocks owner).map (·.models)).getD 0

/-- Whether a model's fields lie in their ranges and its weights, pool and parking area in memory that its paddock may
use. -/
def State.modelFits (s : State) (d : List Byte) (m : Model) : Bool :=
  descRanges d m && s.weightsIn m && s.padRange m.paddock m.pool.toNat (m.berthCount * m.berthBytes) .hbm &&
    (m.parkArea = 0#64 || s.padRange m.paddock m.parkArea.toNat (m.parkSlots * m.berthBytes) .park)

/-- The digest of the flash region that holds a model's weights, none for weights elsewhere. -/
def State.weightsDigest (s : State) (m : Model) : Option (List Byte) :=
  match s.allocAt m.weights.toNat with
  | some e => if e.2.tier = .nvw then some e.2.digest else none
  | none => none

/-- Whether the digest of a descriptor is absent, unchecked or that of the weights. -/
def State.digestFits (s : State) (d : List Byte) (m : Model) : Bool :=
  (slice d 336 48).all (fun b => b = 0#8) || (s.weightsDigest m).isNone || s.weightsDigest m = some (slice d 336 48)

/-- The number that a model is registered under: the lowest free one, or a free one that is asked for. -/
def State.modelNumber (s : State) (wanted : Nat) : Except Err Nat :=
  if wanted = 0xFFFFFFFF then s.freeModel else if wanted < 16 && !thas s.gen.models wanted then .ok wanted
  else fail stBadParam

/-- The state in which a model is registered under a number. -/
def State.addModel (s : State) (n : Nat) (m : Model) : State :=
  { s with gen := { s.gen with models := tput s.gen.models n m } }

/-- GEN_MODEL_REGISTER of a descriptor that fits registers its model. -/
theorem State.modelRegister_ok {s : State} {c : Cmd} {owner wanted n : Nat} {d : List Byte} {x1 : Bool}
    (hp : thas s.paddocks owner = true) (hq : s.modelRoom owner = true)
    (hr : s.readBuf c (c.u64 0) 512 = .ok (d, x1)) (hf : s.modelFits d (modelOf d owner) = true)
    (hd : s.digestFits d (modelOf d owner) = true) (hn : s.modelNumber wanted = .ok n) :
    s.modelRegister c owner wanted = .ok ((s.addModel n (modelOf d owner)).ok c n) :=
  need_of hp <| need_of hq <| bind_of hr <| need_of hf <| need_of hd <| bind_of hn rfl

/-! ### Adapters (R251) -/

/-- Whether a paddock and the part have room for one more adapter. -/
def State.adapterRoom (s : State) (owner : Nat) : Bool :=
  s.gen.adapters.length < 4096 &&
    (s.gen.adapters.filter fun e => e.2.paddock = owner).length < ((tget s.paddocks owner).map (·.adapters)).getD 0

/-- The adapter that GEN_ADAPTER_LOAD enters. -/
def newAdapter (c : Cmd) (m : Model) (fmt : Nat) : Adapter :=
  { paddock := m.paddock, model := c.u32 0, rank := c.u32 4, fmt := fmt, addr := BitVec.ofNat 64 (c.u64 8) }

/-- The state in which an adapter is entered under a handle. -/
def State.addAdapter (s : State) (h : Nat) (a : Adapter) : State :=
  { s with gen := { s.gen with adapters := tput s.gen.adapters h a } }

/-- GEN_ADAPTER_LOAD of an adapter in its model's memory enters it under the lowest free handle. -/
theorem State.adapterLoad_ok {s : State} {c : Cmd} {fmt h : Nat} {m : Model} (hm : s.ownModel c (c.u32 0) = .ok m)
    (hr : (1 ≤ c.u32 4 && c.u32 4 ≤ 256 && fmt ≤ 1 && (fmt = 0 || c.u32 4 % 32 = 0)) = true)
    (hp : s.padRange m.paddock (c.u64 8) 1 .hbm = true) (hq : s.adapterRoom m.paddock = true)
    (hh : leastFree (fun k => thas s.gen.adapters k) 0 4096 = some h) :
    s.adapterLoad c fmt = .ok ((s.addAdapter h (newAdapter c m fmt)).ok c h) :=
  bind_of hm <| need_of hr <| need_of hp <| need_of hq <| want_of hh rfl

/-- GEN_ADAPTER_UNLOAD of an adapter of the caller that is not in use, or whose use may be waited for, waits until it is
free. -/
theorem State.adapterUnload_ok {s : State} {c : Cmd} {wait : Bool} {a : Adapter}
    (ha : tget s.gen.adapters (c.u32 0) = some a) (hp : ¬(a.paddock != c.pad) = true)
    (hu : ¬(s.adapterUsed (c.u32 0) && !wait) = true) :
    s.adapterUnload c wait = .ok (s.wait c.w (.adapterFree (c.u32 0))) := by
  simp only [State.adapterUnload, ha]
  exact (if_neg hp).trans (if_neg hu)

/-! ### Rollout rings (R273) -/

/-- Whether a new ring's buffer lies in host memory or in HBM4 memory of the caller. -/
def State.ringPlaced (s : State) (c : Cmd) : Loc → Bool
  | .host _ => true
  | .part a _ => s.padRange c.pad a (256 + 32 * c.u32 8) .hbm

/-- The ring that GEN_RING_CREATE makes. -/
def newRing (c : Cmd) (low : Nat) (l : Loc) : RRing :=
  { paddock := c.pad, fn := c.fn, addr := BitVec.ofNat 64 (c.u64 0), host := l.onHost, records := c.u32 8
    write := 0, read := 0, lowWater := low, below := c.u32 8 < low, held := [] }

/-- The free value and the handle that a new ring takes. -/
def State.ringPick (s : State) : Option Nat × State := s.pick (fun k => thas s.gen.rings k) 1 65535

/-- The state in which a ring stands under the handle that it takes, its WRITE_INDEX and READ_INDEX stored. -/
def State.addRing (s : State) (g : RRing) : State :=
  let t := s.ringPick.2
  ({ t with gen := { t.gen with rings := tput t.gen.rings (s.ringPick.1.getD 1) g } } : State).ringStore g 0
    (List.replicate 16 0#8)

/-- GEN_RING_CREATE of a ring whose size and place are permitted makes it. -/
theorem State.ringCreate_ok {s : State} {c : Cmd} {low : Nat} {l : Loc} (hm : (!c.mgmt) = true)
    (hn : (1024 ≤ c.u32 8 && c.u32 8 ≤ 67108864 && 2 ^ (c.u32 8).log2 = c.u32 8) = true)
    (hl : s.resolve c (c.u64 0) (256 + 32 * c.u32 8) true = .ok l) (hp : s.ringPlaced c l = true)
    (hq : (s.gen.rings.length < 512 && (s.gen.rings.filter fun e => e.2.paddock = c.pad).length < 64) = true) :
    s.ringCreate c low = .ok ((s.addRing (newRing c low l)).ok c (s.ringPick.1.getD 1)) := by
  refine need_of hm <| need_of hn <| bind_of hl <| need_of hp <| need_of hq ?_
  cases l with
  | host | part => rfl

/-! ### The commands -/

/-- Settles O39: each command is ready, its checks pass one after another, and its body succeeds. The limit of the rings
(log entry 77), what a released model takes with it (log entry 78) and that the digest of weights in HBM4 is not checked
(log entry 79) are the model's choices. -/
theorem modelAndRingCommands : Obligations.ModelAndRingCommands := by
  refine ⟨?register, ?registerExpert, ?release, ?releaseExpert, ?load, ?loadExpert, ?unload, ?unloadExpert, ?create,
    ?createExpert, ?advance, ?advanceExpert⟩
  case register =>
    intro z wid hm c h s owner wanted hp quota hq d x1 hr m hf digest sealed hd n hn
    exact run_ok h (State.modelRegister_ok hp hq hr hf hd hn)
  case registerExpert =>
    intro z wid hm c h s ho owner wanted hp quota hq d x1 hr m hf digest sealed hd n hn
    exact run_ok h (need_of ho (State.modelRegister_ok hp hq hr hf hd hn))
  case release =>
    intro z wid c h s x1 hm hu
    exact run_ok h (bind_of hm (need_of hu rfl))
  case releaseExpert =>
    intro z wid c h s x1 hm hu
    exact run_ok h (bind_of hm (need_of hu rfl))
  case load =>
    intro z wid c h s fmt m hm rank hr hp quota hq a ha x
    exact run_ok h (State.adapterLoad_ok hm hr hp hq ha)
  case loadExpert =>
    intro z wid c h s fmt m hm rank hr hp quota hq a ha x
    exact run_ok h (State.adapterLoad_ok hm hr hp hq ha)
  case unload =>
    intro z wid c h s wait a ha hp hu
    exact run_ok h (State.adapterUnload_ok ha hp hu)
  case unloadExpert =>
    intro z wid c h s wait a ha hp hu
    exact run_ok h (State.adapterUnload_ok ha hp hu)
  case create =>
    intro z wid c h s low hm n hn l hl hp hq p1 a s1 hd g s2
    cases l with
    | host | part => exact run_ok h (State.ringCreate_ok hm hn hl hp hq)
  case createExpert =>
    intro z wid c h s low hm n hn l hl hp hq p1 a s1 hd g s2
    cases l with
    | host | part => exact run_ok h (State.ringCreate_ok hm hn hl hp hq)
  case advance =>
    intro z wid c h s s' ha
    exact run_ok h (bind_of ha rfl)
  case advanceExpert =>
    intro z wid c h s s' ha
    exact run_ok h (bind_of ha rfl)

end Sys2Proof.Machine
end

section
/-! The generation loop (R257 to R259, R264, R283 to R286, R289, R290): the equations of a loop that is made, of a step
boundary on the leader and on a member, of the events of an entry, and of the messages between the parts of a loop. -/

namespace Sys2Proof.Machine

/-! ### A loop that is made (R257, R258, R264) -/

/-- The launch of a loop's task. -/
def loopLaunch (kh n : Nat) (q : LoopReq) : LaunchReq :=
  { kernel := kh, teams := n, args := 0, mask := q.mask, ctx := 0xFF, cls := 0, grace := 2000, limit := 0, saveTier := 0
    excBuf := 0 }

/-- The task of a model's loop, with its save area. -/
def State.loopTask (s : State) (pad m kh n : Nat) (q : LoopReq) (area : Nat) (tier : Tier) : Task :=
  { newTask pad (loopLaunch kh n q) 0 area tier s.t s.nextOrder with loopModel := some m }

/-- The state in which a model is GENERATING, with a loop and its task. -/
def State.addLoop (s : State) (w : BitVec 64) (m : Nat) (t : Task) (l : Loop) : State :=
  ({ s with tasks := (s.tasks.filter fun e => e.1 != w) ++ [(w, t)]
            gen := { s.gen with loops := tput s.gen.loops m l } } : State).modModel m
    fun x => { x with turn := some .generating }

/-- A loop whose list buffers, save area and barriers are there is made. -/
theorem State.makeLoop_ok {s s1 s2 s3 s4 : State} {w : BitVec 64} {pad m kh n buf area r d : Nat} {k : Kernel}
    {leader own : Bool} {q : LoopReq} {tier : Tier} (hb : s.listBuffers pad q.lists q.seqLimit = .ok (buf, own, s1))
    (ha : s1.saveArea pad (n * 16 * (9216 + k.window * 4096)) false = .ok (area, tier, s2))
    (hr : s2.loopBarrier pad = .ok (r, s3)) (hd : s3.loopBarrier pad = .ok (d, s4)) :
    s.makeLoop w pad m kh k n leader q =
      .ok (s4.addLoop w m (s.loopTask pad m kh n q area tier) (newLoop w pad kh leader q buf own r d)) :=
  bind_of hb <| bind_of ha <| bind_of hr <| bind_of hd rfl

/-- Whether the limits that GEN_LOOP_START asks for lie in their ranges. -/
def LoopReq.inRange (q : LoopReq) : Bool :=
  1 ≤ q.seqLimit && q.seqLimit ≤ 32768 && 1 ≤ q.budget && q.budget ≤ 524288 && 1 ≤ q.chunk && q.chunk ≤ 65536

/-- Whether the members that GEN_LOOP_START names are other parts, each named once. -/
def State.membersOk (s : State) (q : LoopReq) : Bool :=
  q.members.eraseDups.length = q.members.length && !q.members.contains s.part.partId

/-- Whether a kernel may run on a number of a paddock's teams. -/
def State.teamsOk (s : State) (pad : Nat) (k : Kernel) (n : Nat) : Bool :=
  k.teamsMin ≤ n && n ≤ k.teamsMax && n ≤ (s.allotment pad).length

/-- Whether the team mask of a GEN_LOOP_START is empty, or names so many teams of a paddock. -/
def State.maskOk (s : State) (pad : Nat) (mask : List Nat) (n : Nat) : Bool :=
  mask.isEmpty || (mask.length = n && mask.all fun l => (s.allotment pad).contains l)

/-- The state in which the ACTIVE slot of a model's layout is written. -/
def State.activeWritten (s : State) (m : Nat) : State :=
  match s.layoutOf m with
  | some (h, l) => (match l.active with | some k => s.writeSlot h k | none => s)
  | none => s

/-- The state in which the members of a model's loop are told of its start. -/
def State.startTold (s : State) (m : Nat) (n : LoopNews) : State :=
  match tget s.gen.loops m with
  | some l => s.tellMembers m l n
  | none => s

/-- GEN_LOOP_START of a permitted loop that can be made makes it, tells its members and builds list 0. -/
theorem State.loopStart_ok {s s1 : State} {c : Cmd} {q : LoopReq} {md : Model} {k : Kernel} (hc : (!c.mgmt) = true)
    (hm : s.ownModel c (c.u32 0) = .ok md)
    (hl : (!thas s.gen.loops (c.u32 0) && s.gen.loops.length < 16) = true) (hq : q.inRange = true)
    (hp : s.membersOk q = true) (hk : s.kernelOf c (c.u32 4) = .ok k) (hu : (!k.unloading) = true)
    (ht : s.teamsOk c.pad k (c.u32 8) = true) (hs : s.maskOk c.pad q.mask (c.u32 8) = true)
    (h1 : s.makeLoop c.w c.pad (c.u32 0) (c.u32 4) k (c.u32 8) true q = .ok s1) :
    s.loopStart c q = .ok (((s1.activeWritten (c.u32 0)).startTold (c.u32 0)
      (.start s.part.partId (c.u32 4) (c.u32 8) q.mask md.berthCount q.seqLimit q.budget q.chunk)).build (c.u32 0) 0) :=
  need_of hc <| bind_of hm <| need_of hl <| need_of hq <| need_of hp <| bind_of hk <| need_of hu <| need_of ht <|
    need_of hs <| bind_of h1 rfl

/-! ### GEN_LOOP_STOP (R289) -/

/-- The state in which a stop of a model's loop waits for its end. -/
def State.stopAsked (s : State) (c : Cmd) : State :=
  s.modLoop (c.u32 0) fun x => { x with stopping := x.stopping ++ [c.w] }

/-- GEN_LOOP_STOP ends the loop at once where the model is DRAINED or the stop is forced, or between two steps, and
else waits. -/
theorem State.loopStop_eq {s : State} {c : Cmd} {force : Bool} {md : Model} {l : Loop}
    (hm : s.ownModel c (c.u32 0) = .ok md) (hl : tget s.gen.loops (c.u32 0) = some l) :
    s.loopStop c force =
      if md.turn = some .drained || (force && md.turn = some .generating) then
        .ok ((s.stopAsked c).endLoop (c.u32 0) stOk .aborted)
      else if md.turn = some .generating && !l.listed then .ok ((s.stopAsked c).endLoop (c.u32 0) stOk)
      else .ok (s.stopAsked c) := bind_of hm (want_of hl rfl)

/-! ### STEP_BOUNDARY (R259, R264) -/

/-- The turn state of a model. -/
def State.turnOf (s : State) (m : Nat) : Option TurnState := (tget s.gen.models m).bind (·.turn)

/-- The state in which a leader's step has ended: its results, the commands that waited and the expiries are applied. -/
def State.leaderStep (s : State) (m : Nat) (md : Model) (l : Loop) (fwd : List Forward) : State :=
  let s := if fwd.isEmpty then s else s.storeForward m md l fwd
  let s := (s.sampleArrive l).applyResults m md l
  let s := (s.applyCmds m (l.step + 1)).autoRelease m
  (s.fetched m).expireAll m

/-- The state in which a member's step has ended: its kernel's stores and its arrival are made. -/
def State.memberStored (s : State) (m : Nat) (md : Model) (l : Loop) (fwd : List Forward) : State :=
  let list := s.bytes (l.listBuf + l.step % 2 * listBytes l.seqLimit) (256 + 64 * l.seqLimit)
  let s := if fwd.isEmpty then s else s.storeMember md list fwd
  (s.sampleArrive l).modLoop m fun x => { x with listed := false, stepsRun := x.stepsRun + 1 }

section
variable {s : State} {m : Nat} {fwd : List Forward} {l : Loop} {md : Model} (hl : tget s.gen.loops m = some l)
  (hm : tget s.gen.models m = some md) (he : s.stepEnds l = true)
include hl hm he

/-- After a step of the leader a model that drains stays so, a stop or unreadable weights end the loop, and else the
next list is built. -/
theorem exec_stepBoundary_of_leader {t : State} (hd : l.leader = true) (ht : s.leaderStep m md l fwd = t) :
    exec (.stepBoundary m fwd) s = .next (State.settle
      (if t.turnOf m = some .draining then t
       else if !l.stopping.isEmpty then t.endLoop m stOk
       else if !t.weightsOk md then t.endLoop m stNotPermitted
       else t.build m (l.step + 1))) := by
  refine event_eq ?_
  unfold State.boundary
  rw [hl, hm]
  refine (if_neg (by simp [he])).trans ((if_neg (by simp [hd])).trans ?_)
  extract_lets s1 s2 s3 s4 turn
  have h4 : s4 = t := ht
  subst h4
  rfl

/-- After a step of a member a stop ends its part of the loop. -/
theorem exec_stepBoundary_of_member (hd : ¬l.leader = true) :
    exec (.stepBoundary m fwd) s = .next (State.settle
      (let t := s.memberStored m md l fwd
       if l.stopping.isEmpty then t else t.endLoop m stOk)) := by
  refine event_eq ?_
  unfold State.boundary
  rw [hl, hm]
  exact (if_neg (by simp [he])).trans (if_pos (by simp [hd]))

end

/-! ### The events of an entry (R283 to R286) -/

/-- The entry that is parked for a candidate: of those that may be, that of lowest priority and greatest
ADMIT_SERIAL. -/
def State.parkVictim (s : State) (m : Nat) (l : Loop) (cand : Nat) : Option (Nat × Entry) :=
  (sortOn (fun e : Nat × Entry => e.2.priority * 2 ^ 64 + (2 ^ 64 - e.2.admitSerial.toNat)) (s.parkable m l cand))[0]?

/-- The state in which an entry is HELD to be parked, and its eviction begins. -/
def State.autoParkBegun (s : State) (v : Nat) : State :=
  ((s.modEntry v fun x => { x with parkNow := true, autoParked := true, deadline := 0#64 }).setSeq v .held).startEvict v

/-- AUTO_PARK of an entry that fits the free slots parks it and counts the candidate's skips anew. -/
theorem exec_autoPark_of_victim {s : State} {m cand v : Nat} {l : Loop} {x1 e : Entry}
    (hl : tget s.gen.loops m = some l)
    (hc : ((s.candidates m).find? fun e => 8 ≤ e.2.berthSkips) = some (cand, x1))
    (hv : s.parkVictim m l cand = some (v, e)) (hn : ¬(s.slotsFree m = 0 || s.slotsFree m < e.map.length) = true) :
    exec (.autoPark m) s = .next (State.settle
      (((s.autoParkBegun v).modEntry cand fun x => { x with berthSkips := 0 }).modLoop m
        fun x => { x with autoParks := x.autoParks + 1 })) := by
  refine event_eq ?_
  rw [hl, hc]
  show (match s.parkVictim m l cand with | none => _ | some (v, e) => _) = _
  rw [hv]
  exact if_neg hn

/-- Whether no auto-parked entry of the same model was admitted before an entry. -/
def State.firstAutoParked (s : State) (e : Entry) : Bool :=
  !(s.entriesOf e.model).any fun x => x.2.autoParked && (x.2.state = .held || x.2.state = .parked) &&
    x.2.admitSerial.toNat < e.admitSerial.toNat

/-- AUTO_RESUME of the first auto-parked entry of its model, which the free berths exceed, fetches it. -/
theorem exec_autoResume_of_first {s : State} {i : Nat} {e : Entry} (he : tget s.gen.manifest i = some e)
    (hn : ¬(!e.autoParked || (e.state != .held && e.state != .parked) || !s.firstAutoParked e ||
      s.berthsFree e.model ≤ e.berths) = true) :
    exec (.autoResume i) s = .next (State.settle ((s.wake i e).startFetch i)) := by
  refine event_eq ?_
  rw [he]
  exact if_neg hn

/-- SEQUENCE_EXPIRY without a loop ends the entry if it has expired after its deadline. -/
theorem exec_sequenceExpiry_without_loop {s : State} {i : Nat} {e : Entry} (he : tget s.gen.manifest i = some e)
    (hl : ¬s.looping e.model = true) :
    exec (.sequenceExpiry i) s = .next (State.settle
      (let t := s.reach (e.deadline.toNat + 1)
       if t.expires i e t.t then t.terminate i .expired stSeqExpired else s)) := by
  refine event_eq ?_
  rw [he]
  exact if_neg hl

/-- The state in which an evicted entry is PARKED, its berths in their slots. -/
def State.evicted (s : State) (i : Nat) (e : Entry) (m : Model) : State :=
  let s := (e.map.zip e.slots).foldl (fun s x => s.carry (m.berthAddr x.1.2) (m.slotAddr x.2.2) m.berthBytes) s
  let s := e.slots.foldl (fun s x => s.mapWord e x.1 (2 ^ 31 + x.2)) s
  (s.modEntry i fun x => { x with map := [], evicting := false }).setSeq i .parked

/-- The state in which the berths of an entry are back, and its slots are free. -/
def State.berthsBack (s : State) (i : Nat) (e : Entry) (m : Model) : State :=
  let s := (e.slots.zip e.map).foldl (fun s x => s.carry (m.slotAddr x.1.2) (m.berthAddr x.2.2) m.berthBytes) s
  let s := e.map.foldl (fun s x => s.mapWord e x.1 x.2) s
  s.modEntry i fun x => { x with slots := [] }

section
variable {s : State} {i : Nat} {e : Entry} {m : Model} (he : tget s.gen.manifest i = some e)
  (hm : tget s.gen.models e.model = some m)
include he hm

/-- EVICTION_COMPLETE of an eviction that failed stops it, and of another parks the entry. -/
theorem exec_evictionComplete_of_evicting {ok : Bool} (hv : e.evicting = true) :
    exec (.evictionComplete i ok) s = .next (State.settle
      (if !ok || e.slots.any fun x => s.slotLost m x.2 then s.modEntry i Entry.stopEvict else s.evicted i e m)) := by
  refine event_eq ?_
  rw [he]
  dsimp only
  rw [hm]
  exact if_neg (by simp [hv])

/-- BERTH_FETCH_COMPLETE of a RESUMING entry brings its berths back, and a model without a loop goes on at once. -/
theorem exec_berthFetchComplete_of_resuming
    (hn : ¬(e.state != .resuming || e.slots.isEmpty || e.map.length != e.slots.length) = true) :
    exec (.berthFetchComplete i) s = .next (State.settle ((s.berthsBack i e m).genIdle e.model)) := by
  refine event_eq ?_
  rw [he]
  dsimp only
  rw [hm]
  exact if_neg hn

end

/-! ### LIST_FORWARD_ARRIVAL (R264) -/

/-- Whether a message of a loop is its start. -/
def isLoopStart : LoopNews → Bool
  | .start .. => true
  | _ => false

section
variable {s : State} {m : Nat} {md : Model} (hm : tget s.gen.models m = some md)
include hm

/-- A message to a running loop that is not a start does what its kind says. -/
theorem exec_listForwardArrival_of_loop {l : Loop} {n : LoopNews} (hl : tget s.gen.loops m = some l)
    (hn : isLoopStart n = false) :
    exec (.listForwardArrival m n) s = .next (State.settle (s.takeNews m md l n)) := by
  refine event_eq ?_
  rw [hm, hl]
  cases n with
  | start => cases hn
  | list | drain | resume | stop | saved => rfl

/-- The start of a loop makes the member's part of it, where the kernel, the teams and the berths are there. -/
theorem exec_listForwardArrival_of_start {s' : State} {k : Kernel} {leader : BitVec 16} {kh n : Nat} {mask : List Nat}
    {berths sl b ch : Nat} (hk : tget s.kernels kh = some k)
    (hn : ¬(thas s.gen.loops m || berths != md.berthCount || k.paddock != md.paddock || n < k.teamsMin ||
      k.teamsMax < n || (s.allotment md.paddock).length < n ||
      !mask.all fun l => (s.allotment md.paddock).contains l) = true)
    (h1 : s.makeLoop (memberWid m) md.paddock m kh k n false
      { mask := mask, members := [leader], seqLimit := sl, budget := b, chunk := ch, lists := 0 } = .ok s') :
    exec (.listForwardArrival m (.start leader kh n mask berths sl b ch)) s = .next s'.settle := by
  refine event_eq ?_
  rw [hm]
  dsimp only [State.joinLoop]
  rw [hk]
  refine (if_neg hn).trans ?_
  rw [h1]

end

/-! ### The commands and events -/

/-- Settles O40: each command is ready, its checks pass one after another, and its body succeeds; each event whose
conditions hold takes the branch of its meaning that they name. The layout of a loop's record (log entry 11), that an
admission takes effect before list 0 is built (log entry 66), the results of a forward pass as an operand (log entry
74), that unreadable weights end a loop (log entry 75), the messages between a loop's parts (log entry 161) and that a
stop waits for a drain (log entry 162) are the model's choices. -/
theorem generationLoopCommands : Obligations.GenerationLoopCommands := by
  refine ⟨?start, ?startExpert, ?stopNow, ?stopIdle, ?stopWaits, ?expertStopNow, ?expertStopIdle, ?expertStopWaits,
    ?query, ?queryExpert, ?draining, ?stopped, ?unreadable, ?nextList, ?member, ?memberStopped, ?autoPark, ?autoResume,
    ?expired, ?notExpired, ?evictionFailed, ?evicted, ?fetched, ?newsList, ?newsStart, ?newsDrain, ?newsResume,
    ?newsStop, ?newsSaved⟩
  case start =>
    intro z wid c h s q hc m md hm hl hq hp k hk hu teams n ht hs buf own s1 hb area tier s2 ha r s3 hr d s4 hd
    exact run_ok h (State.loopStart_ok hc hm hl hq hp hk hu ht hs (State.makeLoop_ok hb ha hr hd))
  case startExpert =>
    intro z wid c h s q hc m md hm hl hq hp k hk hu teams n ht hs buf own s1 hb area tier s2 ha r s3 hr d s4 hd
    exact run_ok h (State.loopStart_ok hc hm hl hq hp hk hu ht hs (State.makeLoop_ok hb ha hr hd))
  case stopNow =>
    intro z wid c h s force m md hm l hl s1 hd
    exact run_ok h ((State.loopStop_eq hm hl).trans (if_pos hd))
  case stopIdle =>
    intro z wid c h s force m md hm l hl s1 hd hg
    exact run_ok h ((State.loopStop_eq hm hl).trans ((if_neg hd).trans (if_pos hg)))
  case stopWaits =>
    intro z wid c h s force m md hm l hl s1 hd hg
    exact run_ok h ((State.loopStop_eq hm hl).trans ((if_neg hd).trans (if_neg hg)))
  case expertStopNow =>
    intro z wid c h s force m md hm l hl s1 hd
    exact run_ok h ((State.loopStop_eq hm hl).trans (if_pos hd))
  case expertStopIdle =>
    intro z wid c h s force m md hm l hl s1 hd hg
    exact run_ok h ((State.loopStop_eq hm hl).trans ((if_neg hd).trans (if_pos hg)))
  case expertStopWaits =>
    intro z wid c h s force m md hm l hl s1 hd hg
    exact run_ok h ((State.loopStop_eq hm hl).trans ((if_neg hd).trans (if_neg hg)))
  case query =>
    intro z wid c h s x1 hm l hl s1 hw
    exact run_ok h (bind_of hm (want_of hl (bind_of hw rfl)))
  case queryExpert =>
    intro z wid c h s ls s1 hw
    exact run_ok h (bind_of hw rfl)
  case draining =>
    intro m fwd z s m' l hl md hm he hd s1 s2 s3 s4 s5 turn ht
    exact exec_of_eq (exec_stepBoundary_of_leader hl hm he hd (t := s5) rfl) (if_pos ht)
  case stopped =>
    intro m fwd z s m' l hl md hm he hd s1 s2 s3 s4 s5 turn ht hs
    exact exec_of_eq (exec_stepBoundary_of_leader hl hm he hd (t := s5) rfl) ((if_neg ht).trans (if_pos (by simp [hs])))
  case unreadable =>
    intro m fwd z s m' l hl md hm he hd s1 s2 s3 s4 s5 turn ht hs hw
    exact exec_of_eq (exec_stepBoundary_of_leader hl hm he hd (t := s5) rfl)
      ((if_neg ht).trans ((if_neg (by simp [hs])).trans (if_pos hw)))
  case nextList =>
    intro m fwd z s m' l hl md hm he hd s1 s2 s3 s4 s5 turn ht hs hw
    exact exec_of_eq (exec_stepBoundary_of_leader hl hm he hd (t := s5) rfl)
      ((if_neg ht).trans ((if_neg (by simp [hs])).trans (if_neg (by simp [hw]))))
  case member =>
    intro m fwd z s m' l hl md hm he hd list s1 s2 s3 hs
    exact exec_of_eq (exec_stepBoundary_of_member hl hm he hd) (if_pos hs)
  case memberStopped =>
    intro m fwd z s m' l hl md hm he hd list s1 s2 s3 hs
    exact exec_of_eq (exec_stepBoundary_of_member hl hm he hd) (if_neg hs)
  case autoPark =>
    intro m z s l hl cand x1 hc key v e hv hn
    exact exec_autoPark_of_victim hl hc hv hn
  case autoResume =>
    intro i s e he first hn
    exact exec_autoResume_of_first he hn
  case expired =>
    intro i s e he hl s' hx
    exact exec_of_eq (exec_sequenceExpiry_without_loop he hl) (if_pos hx)
  case notExpired =>
    intro i s e he hl s' hx
    exact exec_of_eq (exec_sequenceExpiry_without_loop he hl) (if_neg hx)
  case evictionFailed =>
    intro i ok s e he m hm hv hf
    exact exec_of_eq (exec_evictionComplete_of_evicting he hm hv) (if_pos hf)
  case evicted =>
    intro i ok z s e he m hm hv hf
    exact exec_of_eq (exec_evictionComplete_of_evicting he hm hv) (if_neg hf)
  case fetched =>
    intro i z s e he m hm hn
    exact exec_berthFetchComplete_of_resuming he hm hn
  case newsList =>
    intro m list z s md hm l hl hd
    exact exec_of_eq (exec_listForwardArrival_of_loop hm hl rfl) (if_neg hd)
  case newsStart =>
    intro m leader kh n mask berths sl b ch s md hm k hk teams hn s' h1
    exact exec_listForwardArrival_of_start hm hk hn h1
  case newsDrain =>
    intro m z s md hm l hl hd
    exact exec_of_eq (exec_listForwardArrival_of_loop hm hl rfl) (if_neg hd)
  case newsResume =>
    intro m mask z s md hm l hl hd
    exact exec_of_eq (exec_listForwardArrival_of_loop hm hl rfl) (if_neg hd)
  case newsStop =>
    intro m forced s md hm l hl hd
    exact exec_of_eq (exec_listForwardArrival_of_loop hm hl rfl) (if_neg hd)
  case newsSaved =>
    intro m part s md hm l hl hd
    exact exec_of_eq (exec_listForwardArrival_of_loop hm hl rfl) (if_pos hd)

end Sys2Proof.Machine
end

section
/-! The sequence commands (R253, R275, R281, R282, R284, R290): the equations of an admission, of a command that waits
for its boundary and of a resume, where their checks pass. -/

namespace Sys2Proof.Machine

/-! ### Admission (R290) -/

/-- The entries of the caller's paddock. -/
def State.ownEntries (s : State) (c : Cmd) : List (Nat × Entry) := s.gen.manifest.filter fun e => e.2.paddock = c.pad

/-- The entry that an admission writes, with its sequence buffer, serial and time. -/
def admitEntry (c : Cmd) (m : Model) (q : Admit) (buf : Nat) (serial now : BitVec 64) : Entry :=
  { seqId := BitVec.ofNat 32 (c.u32 0), state := if 2 ≤ c.u32 12 then .prefill else .decode, paddock := c.pad
    model := c.u32 4, adapter := BitVec.ofNat 16 q.adapter, seed := BitVec.ofNat 64 (c.u64 16), admitWid := c.w
    admitSerial := serial, known := c.u32 12, filled := 0, generated := 0, maxNew := c.u32 32, ctxLimit := q.ctx
    invTemp := BitVec.ofNat 32 (c.u32 36), topP := q.topP, topK := BitVec.ofNat 32 q.topK, stop := q.stop
    seqBuf := BitVec.ofNat 64 buf, far := BitVec.ofNat 16 q.far, near := BitVec.ofNat 8 q.near
    sink := BitVec.ofNat 8 q.sink, ring := BitVec.ofNat 16 (c.u32 8), priority := q.prio
    autoRelease := bitAt q.flags 0, parkNow := false, autoParked := false, evicting := false
    stopParks := bitAt q.flags 4, version := m.version, admitTime := now, deadline := 0#64, stateTime := now
    endStatus := 0#16, skips := 0#16, berthSkips := 0, steps := 0#32, lastWid := c.w, user := q.user
    parkTtl := BitVec.ofNat 32 q.ttl, map := [], slots := [], termIdx := none }

/-- The state in which an admitted entry stands in the Manifest, and its buffer's context limit is known. -/
def State.addEntry (s : State) (i : Nat) (e : Entry) (buf ctx : Nat) : State :=
  ({ s with gen := { s.gen with
      manifest := tput s.gen.manifest i e, admitSerial := e.admitSerial
      bufCtx := tput s.gen.bufCtx buf ctx } } : State).writeManifest i

/-- An admission whose checks pass, with a free entry and a buffer, writes the entry and its tokens. -/
theorem State.admitSeq_ok {s s1 : State} {c : Cmd} {q : Admit} {m : Model} {g : RRing} {i buf : Nat}
    {toks : List Byte} {x1 : Bool} (hc : (!c.mgmt) = true) (hm : s.ownModel c (c.u32 4) = .ok m)
    (hg : tget s.gen.rings (c.u32 8) = some g) (hp : g.paddock = c.pad) (ha : s.admitOk c m q = true)
    (hs : (!(s.ownEntries c).any fun e => e.2.seqId = BitVec.ofNat 32 (c.u32 0)) = true)
    (hq : (s.ownEntries c).length < ((tget s.paddocks c.pad).map (·.manifestQuota)).getD 0)
    (hi : leastFree (fun k => thas s.gen.manifest k) 0 131072 = some i)
    (ht : s.readBuf c (c.u64 24) (4 * c.u32 12) = .ok (toks, x1))
    (hb : s.seqBuffer c (m.bufLen q.ctx) q.buf = .ok (buf, s1)) :
    s.admitSeq c q =
      .ok (((s1.addEntry i (admitEntry c m q buf (s1.gen.admitSerial + 1#64) s.now) buf q.ctx).padStore c.pad
        (buf + tokOff q.ctx) toks).ok c i) :=
  need_of hc <| bind_of hm <| want_of hg <| need_of (decide_eq_true hp) <| need_of ha <| need_of hs <|
    need_of (decide_eq_true hq) <| want_of hi <| bind_of ht <| bind_of hb rfl

/-! ### Commands that wait for a boundary (R259, R281, R282, R284) -/

/-- The command of a kind on an entry, as it waits for its boundary. -/
def State.seqCmdOf (s : State) (c : Cmd) (kind arg : Nat) (flag : Bool) (toks : List (BitVec 32)) (e : Nat × Entry) :
    SeqCmd :=
  { wid := c.w, kind := kind, model := e.2.model, entry := e.1, serial := e.2.admitSerial, arg := BitVec.ofNat 64 arg
    flag := flag, atNs := s.t, tokens := toks }

/-- A command on an entry of the caller waits for its boundary. -/
theorem State.seqCmd_ok {s : State} {c : Cmd} {kind arg : Nat} {flag : Bool} {toks : List (BitVec 32)}
    {e : Nat × Entry} (he : s.seqOf c (c.u32 0) = .ok e) :
    s.seqCmd c kind arg flag toks = .ok (s.queueCmd (s.seqCmdOf c kind arg flag toks e)) := bind_of he rfl

/-- The tokens that a GEN_RESUME reads, none without a count. -/
def State.resumeTokens (s : State) (c : Cmd) : Except Err (List Byte × Bool) :=
  if c.u32 4 = 0 then .ok ([], false) else s.readBuf c (c.u64 8) (4 * c.u32 4)

/-- GEN_RESUME of an entry of the caller, with tokens that can be read, waits for its boundary. -/
theorem State.seqResume_ok {s : State} {c : Cmd} {maxNew : Nat} {e : Nat × Entry} {bs : List Byte} {x2 : Bool}
    (hn : c.u32 4 ≤ 65536) (hb : s.resumeTokens c = .ok (bs, x2)) (he : s.seqOf c (c.u32 0) = .ok e) :
    s.seqResume c maxNew = .ok (s.queueCmd (s.seqCmdOf c 3 maxNew false
      ((List.range (c.u32 4)).map fun i => BitVec.ofNat 32 (fld bs (4 * i) 4)) e)) :=
  bind_of he <| need_of (decide_eq_true hn) <| bind_of hb <| State.seqCmd_ok he

/-! ### The commands -/

/-- Settles O41: each command is ready, its checks pass one after another, and its body succeeds. That an admission
takes effect at dispatch (log entry 66), the time that a command carries to be weighed against a deadline (log entry 70)
and the context limit that is kept for a sequence buffer (log entry 111) are the model's choices. -/
theorem sequenceCommands : Obligations.SequenceCommands := by
  refine ⟨?admission, ?admissionExpert, ?cancel, ?cancelExpert, ?park, ?parkExpert, ?resume, ?resumeExpert, ?query,
    ?queryExpert, ?release, ?releaseExpert⟩
  case admission =>
    intro z wid hm c h s m0 h0 q hc m hm g hg hp ha seq mine hs quota hq i hi plen toks x1 ht buf s1 hb serial e s2
    exact run_ok h (bind_of h0 (State.admitSeq_ok hc hm hg hp ha hs hq hi ht hb))
  case admissionExpert =>
    intro z wid hm c h s q hc m hm g hg hp ha seq mine hs quota hq i hi plen toks x1 ht buf s1 hb serial e s2
    exact run_ok h (State.admitSeq_ok hc hm hg hp ha hs hq hi ht hb)
  case cancel =>
    intro z wid c h s kind arg flag toks e he
    exact run_ok h (State.seqCmd_ok he)
  case cancelExpert =>
    intro z wid c h s x1 hx s1 kind arg flag toks e he
    exact run_ok h (bind_of hx (State.seqCmd_ok he))
  case park =>
    intro z wid c h s kind arg flag toks e he
    exact run_ok h (State.seqCmd_ok he)
  case parkExpert =>
    intro z wid c h s kind arg flag toks e he
    exact run_ok h (State.seqCmd_ok he)
  case resume =>
    intro z wid hm c h s maxNew x1 hx n hn bs x2 hb kind arg flag toks e he
    exact run_ok h (State.seqResume_ok hn hb he)
  case resumeExpert =>
    intro z wid hm c h s maxNew x1 hx n hn bs x2 hb kind arg flag toks e he
    exact run_ok h (State.seqResume_ok hn hb he)
  case query =>
    intro z wid c h s e he s1 hw
    exact run_ok h (bind_of he (bind_of hw rfl))
  case queryExpert =>
    intro z wid c h s x1 hm es s1 hw
    exact run_ok h (bind_of hm (bind_of hw rfl))
  case release =>
    intro z wid c h s kind arg flag toks e he
    exact run_ok h (State.seqCmd_ok he)
  case releaseExpert =>
    intro z wid c h s kind arg flag toks e he
    exact run_ok h (State.seqCmd_ok he)

end Sys2Proof.Machine
end

section
/-! The parameter set and exchange commands (R305, R307, R313, R332): the equations of a registration, of an exchange
and of its completion, where their checks pass. -/

namespace Sys2Proof.Machine

/-! ### LEARN_SET_REGISTER (R313) -/

/-- The descriptors of the groups that a table of `n` holds. -/
def groupDescs (n : Nat) (bs : List Byte) : List (List Byte) := (List.range n).map fun i => slice bs (128 * i) 128

/-- The groups of a table of `n` descriptors. -/
def tableGroups (n : Nat) (bs : List Byte) : List PGroup := (groupDescs n bs).map groupOfDesc

/-- Whether every descriptor of a table keeps the rules of Tables 9-2 and 9-3. -/
def State.tableOk (s : State) (pad n : Nat) (bs : List Byte) : Bool :=
  ((groupDescs n bs).zip (tableGroups n bs)).all fun x => s.descOk pad x.1 x.2

/-- Whether every array of some groups lies in HBM4 memory of the caller. -/
def State.arraysOwned (s : State) (c : Cmd) (gs : List PGroup) : Bool :=
  gs.all fun g => g.arrays.all fun r => match s.ownRange c r.1 r.2 [.hbm] with
    | .ok _ => true
    | .error _ => false

/-- The rows and columns of the FACTORED groups of a set. -/
def factorSize (gs : List PGroup) : Nat := sumNat (gs.map fun g => if g.rule = 4 then g.rows + g.cols else 0)

/-- Whether a paddock and the part have room for one more set. -/
def State.setRoom (s : State) (pad : Nat) (gs : List PGroup) : Bool :=
  (s.learn.sets.filter fun e => e.2.paddock = pad).length < 4 && s.learn.sets.length < 32 &&
    sumNat (s.learn.sets.map fun e => factorSize e.2.groups) + factorSize gs ≤ 4194304

/-- The set that LEARN_SET_REGISTER makes. -/
def newSet (c : Cmd) (gs : List PGroup) (step0 : Nat) : LSet :=
  { paddock := c.pad, groups := gs, normGroup := BitVec.ofNat 32 (c.u32 12), step := step0, state := .accumulating
    buckets := [], rowAcc := [], colAcc := [], norm := 0#32, gmul := 0#32, nonfinite := false, seed := 0#64
    lrMul := 0#32, inv := [], sweepBy := 0#64, spansDone := [], updated := 0, skipped := 0, skipList := []
    restored := true, stash := [], emitted := false, bucketsDone := 0, naBlocks := 0 }

/-- The free value and the handle that a new set takes. -/
def State.setPick (s : State) : Option Nat × State := s.pick (fun k => thas s.learn.sets k) 1 (2 ^ 32 - 1)

/-- The state in which a set stands under the handle that it takes. -/
def State.addSet (s : State) (l : LSet) : State :=
  let t := s.setPick.2
  { t with learn := { t.learn with sets := tput t.learn.sets (s.setPick.1.getD 1) l } }

/-- LEARN_SET_REGISTER of a table that can be read and whose groups are permitted makes the set. -/
theorem State.setRegister_ok {s : State} {c : Cmd} {step0 : Nat} {g : TGroup} {bs : List Byte} {x2 : Bool}
    (hm : (!c.mgmt) = true) (hn : (1 ≤ c.u32 8 && c.u32 8 ≤ 65536) = true) (hg : s.learnGroup c (c.u32 12) = .ok g)
    (hb : s.readBuf c (c.u64 0) (128 * c.u32 8) = .ok (bs, x2)) (hd : s.tableOk c.pad (c.u32 8) bs = true)
    (ho : s.arraysOwned c (tableGroups (c.u32 8) bs) = true) (ha : groupsApart (tableGroups (c.u32 8) bs) = true)
    (hq : s.setRoom c.pad (tableGroups (c.u32 8) bs) = true) :
    s.setRegister c step0 =
      .ok ((s.addSet (newSet c (tableGroups (c.u32 8) bs) step0)).ok c (s.setPick.1.getD 1)) :=
  need_of hm <| need_of hn <| bind_of hg <| bind_of hb <| need_of hd <| need_of ho <| need_of ha <| need_of hq rfl

/-! ### LEARN_SET_RELEASE (R332) -/

/-- LEARN_SET_RELEASE of a set of the caller that is not in use takes it away. -/
theorem learnSetReleaseBody_ok {s : State} {c : Cmd} {l : LSet} (hl : s.ownSet c (c.u32 0) = .ok l)
    (hu : (!s.setUsed (c.u32 0) l) = true) :
    learnSetReleaseBody c s =
      .ok (({ s with learn := { s.learn with sets := tdel s.learn.sets (c.u32 0) } } : State).ok c) :=
  bind_of hl (need_of hu rfl)

/-! ### LEARN_EXCHANGE (R304, R305) -/

/-- Whether the elements of an exchange between `n` members are whole blocks of each, and a member's share lies in the
destination group. -/
def exchangeFits (c : Cmd) (n : Nat) (pg : PGroup) : Bool :=
  c.u32 8 ≤ 65535 && 32 * n ≤ c.u64 16 && c.u64 16 ≤ 2 ^ 36 && c.u64 16 % (32 * n) = 0 && c.u64 48 % 32 = 0 &&
    c.u64 48 + c.u64 16 / n ≤ pg.elements

/-- The collective of an exchange: its shape names the set, the bucket and the number of elements. -/
def State.exchangeColl (s : State) (c : Cmd) (g : TGroup) : Coll :=
  { newColl c.w c.pad (BitVec.ofNat 32 (c.u32 4)) 9 s.t g.rank with
    shape := chainDigest [BitVec.ofNat 32 (c.u32 0), BitVec.ofNat 32 (c.u32 8), BitVec.ofNat 32 (c.u64 16),
      BitVec.ofNat 32 (c.u64 16 / 2 ^ 32)]
    count := c.u64 16 }

/-- The blocks of an exchange that read a poisoned line of GACC or RIN. -/
def State.exchangeBad (s : State) (c : Cmd) (gl rl : Loc) : List Nat :=
  (List.range (c.u64 16 / 32)).filter fun b =>
    s.locPoisoned gl (128 * b) 128 (s.readLoc c gl (4 * c.u64 16)).2 ||
      s.locPoisoned rl (64 * b) 64 (s.readLoc c rl (2 * c.u64 16)).2

/-- The staged blocks and the residuals of an exchange's bucket pass. -/
def State.exchangePass (s : State) (c : Cmd) (gl rl : Loc) : List Byte × List Byte :=
  bucketPass (c.u64 16) (s.readLoc c gl (4 * c.u64 16)).1 (s.readLoc c rl (2 * c.u64 16)).1

/-- The exchange that LEARN_EXCHANGE enters after its bucket pass. -/
def State.newExchange (s : State) (c : Cmd) (gl rl ol : Loc) : Exch :=
  let stage := (s.exchangePass c gl rl).1
  let bad := s.exchangeBad c gl rl
  { wid := c.w, norm := false, set := c.u32 0, bucket := c.u32 8, destGroup := c.u32 12, e := c.u64 16
    destElem := c.u64 48, stage := stage
    routTo := (match ol with | .host a => (some c.fn, a) | .part a _ => (none, a))
    residuals := (s.exchangePass c gl rl).2, begun := false, rows := [], cols := [], record := []
    na := ((List.range (c.u64 16 / 32)).filter fun b => fld stage (33 * b + 32) 1 = 0xFF).length
    sq := Acc.reset, bad := bad, poisoned := bad.length, gscale := 0#32, maxNorm := 0#32, after := [] }

/-- The state in which an exchange or a norm has been entered. -/
def State.addExch (s : State) (x : Exch) : State := { s with learn := { s.learn with exchs := s.learn.exchs ++ [x] } }

/-- An exchange whose checks pass and whose collective starts ends with it, or is entered and greets the other
members. -/
theorem State.learnExchange_eq {s s1 : State} {c : Cmd} {timeout : Nat} {l : LSet} {g : TGroup} {pg : PGroup}
    {gl rl ol : Loc} (hl : s.ownSet c (c.u32 0) = .ok l) (hg : s.learnGroup c (c.u32 4) = .ok g)
    (hp : l.groups[c.u32 12]? = some pg) (hf : exchangeFits c g.members.length pg = true)
    (ha : l.state = .accumulating) (hgl : s.resolve c (c.u64 24) (4 * c.u64 16) false = .ok gl)
    (hrl : s.resolve c (c.u64 32) (2 * c.u64 16) false = .ok rl)
    (hol : s.resolve c (c.u64 40) (2 * c.u64 16) true = .ok ol)
    (h1 : s.startColl (s.exchangeColl c g) g none timeout = .ok s1) :
    s.learnExchange c timeout =
      if (s1.collOf c.w).isNone then .ok s1 else .ok ((s1.addExch (s.newExchange c gl rl ol)).greet c.w) := by
  refine bind_of hl <| bind_of hg <| want_of hp <| need_of hf <| need_of (decide_eq_true ha) <| bind_of hgl <|
    bind_of hrl <| bind_of hol <| bind_of h1 ?_
  cases ol with
  | host | part => rfl

/-! ### EXCHANGE_COMPLETE (R306, R307) -/

/-- The state in which the sums of an exchange's bucket have their place in its set. -/
def State.bucketDone (s : State) (e : Exch) : State :=
  s.modSet e.set fun l => { l with
    buckets := tput l.buckets e.bucket { sq := e.sq, rows := e.rows, cols := e.cols }
    bucketsDone := l.bucketsDone + 1, naBlocks := l.naBlocks + e.na }

/-- EXCHANGE_COMPLETE of an exchange whose transport has ended fills its bucket, and its status says whether a block was
poisoned. -/
theorem exec_exchangeComplete_of_moved {w : BitVec 64} {s : State} {e : Exch} {x1 : Coll} {x2 : TGroup}
    (he : s.exchMoved w false = some (e, x1, x2)) :
    exec (.exchangeComplete w) s = .next (State.settle
      (if e.poisoned = 0 then (s.bucketDone e).endColl w stOk e.e e.na
       else (s.bucketDone e).endColl w stDataPoisoned e.e e.poisoned)) := by
  refine event_eq ?_
  rw [he]
  rfl

/-! ### The commands and the event -/

/-- Settles O42: each command is ready, its checks pass one after another, and its body succeeds; the event takes the
branch of its meaning that its conditions name. That the set handle enters the shape of an exchange (log entry 104), the
status of an exchange with poisoned blocks (log entry 105) and the layout of the query records (log entry 11) are the
model's choices. -/
theorem parameterSetCommands : Obligations.ParameterSetCommands := by
  refine ⟨?register, ?registerExpert, ?release, ?releaseWaits, ?releaseExpert, ?exchangeEnded, ?exchange,
    ?exchangeExpertEnded, ?exchangeExpert, ?complete, ?completePoisoned, ?query, ?queryExpert⟩
  case register =>
    intro z wid hm c h s step0 hc n hn x1 hg bs x2 hb ds gs hd ho ha mine size hq
    exact run_ok h (State.setRegister_ok hc hn hg hb hd ho ha hq)
  case registerExpert =>
    intro z wid hm c h s step0 hc n hn x1 hg bs x2 hb ds gs hd ho ha mine size hq
    exact run_ok h (State.setRegister_ok hc hn hg hb hd ho ha hq)
  case release =>
    intro z wid c h s k l hl hu
    exact run_ok h (learnSetReleaseBody_ok hl hu)
  case releaseWaits =>
    intro z wid c h s x1 hx hw
    exact run_ok h (bind_of hx (if_pos hw))
  case releaseExpert =>
    intro z wid c h s x1 hx hw k l hl hu
    exact run_ok h (bind_of hx ((if_neg hw).trans (learnSetReleaseBody_ok hl hu)))
  case exchangeEnded =>
    intro z hw c h s timeout k l hl g hg n e pg hp hf ha gl hgl rl hrl ol hol shape op s1 h1 hn
    exact run_ok h ((State.learnExchange_eq hl hg hp hf ha hgl hrl hol h1).trans (if_pos hn))
  case exchange =>
    intro z hw c h s timeout k l hl g hg n e pg hp hf ha gl hgl rl hrl ol hol shape op s1 h1 hn
    exact run_ok h ((State.learnExchange_eq hl hg hp hf ha hgl hrl hol h1).trans (if_neg hn))
  case exchangeExpertEnded =>
    intro z hw c h s timeout k l hl g hg n e pg hp hf ha gl hgl rl hrl ol hol shape op s1 h1 hn
    exact run_ok h ((State.learnExchange_eq hl hg hp hf ha hgl hrl hol h1).trans (if_pos hn))
  case exchangeExpert =>
    intro z hw c h s timeout k l hl g hg n e pg hp hf ha gl hgl rl hrl ol hol shape op s1 h1 hn
    exact run_ok h ((State.learnExchange_eq hl hg hp hf ha hgl hrl hol h1).trans (if_neg hn))
  case complete =>
    intro w z s e x1 x2 he s1 hp
    exact exec_of_eq (exec_exchangeComplete_of_moved he) (if_pos hp)
  case completePoisoned =>
    intro w z s e x1 x2 he s1 hp
    exact exec_of_eq (exec_exchangeComplete_of_moved he) (if_neg hp)
  case query =>
    intro z wid c h s l hl s1 hw
    exact run_ok h (bind_of hl (bind_of hw rfl))
  case queryExpert =>
    intro z wid c h s p hp s1 hw
    exact run_ok h (want_of hp (bind_of hw rfl))

end Sys2Proof.Machine
end

section
/-! The norm, sweep, microprogram and route check commands and the sweep events (R295, R308, R309, R321, R322, R326,
R332, R412, R423): the equations of a norm, of the two ways a sweep begins, of a span that is done, of a load and of a
route check, where their checks pass. -/

namespace Sys2Proof.Machine

/-! ### LEARN_NORM (R308, R309) -/

/-- The collective of a norm, with the one shape of all norms. -/
def State.normColl (s : State) (c : Cmd) (l : LSet) (g : TGroup) : Coll :=
  { newColl c.w c.pad l.normGroup 10 s.t g.rank with shape := chainDigest [10#32] }

/-- The exchanges of a set that a norm comes after. -/
def State.exchangesOf (s : State) (h : Nat) : List (BitVec 64) :=
  (s.learn.exchs.filter fun y => y.set = h && !y.norm).map (·.wid)

/-- The entry that LEARN_NORM makes. -/
def State.newNorm (s : State) (c : Cmd) : Exch :=
  { wid := c.w, norm := true, set := c.u32 0, bucket := 0, destGroup := 0, e := 0, destElem := 0, stage := []
    routTo := (none, 0), residuals := [], begun := false, rows := [], cols := [], record := [], na := 0
    sq := Acc.reset, bad := [], poisoned := 0, gscale := BitVec.ofNat 32 (c.u32 4)
    maxNorm := BitVec.ofNat 32 (c.u32 8), after := s.exchangesOf (c.u32 0) }

section
variable {s s1 : State} {c : Cmd} {l : LSet} {g : TGroup} (hl : s.ownSet c (c.u32 0) = .ok l)
  (ha : l.state = .accumulating) (hg : s.learnGroup c l.normGroup.toNat = .ok g)
  (h1 : s.startColl (s.normColl c l g) g none 0 = .ok s1)
include hl ha hg h1

/-- LEARN_NORM of an accumulating set whose collective starts ends with it, or is entered. -/
theorem learnNormBody_eq :
    learnNormBody c s = if (s1.collOf c.w).isNone then .ok s1 else .ok (s1.addExch (s.newNorm c)) :=
  bind_of hl <| need_of (decide_eq_true ha) <| bind_of hg <| bind_of h1 rfl

/-- LEARN_NORM, expert, without RESET does what LEARN_NORM does. -/
theorem learnNormExpertBody_eq (hr : ¬c.flag 12 = true) :
    learnNormExpertBody c s = if (s1.collOf c.w).isNone then .ok s1 else .ok (s1.addExch (s.newNorm c)) :=
  bind_of hl ((if_neg hr).trans (learnNormBody_eq hl ha hg h1))

end

/-- LEARN_NORM, expert, with RESET waits for the set's exchanges to abandon its step. -/
theorem learnNormExpertBody_reset {s : State} {c : Cmd} {l : LSet} (hl : s.ownSet c (c.u32 0) = .ok l)
    (hr : c.flag 12 = true) (ha : (l.state = .accumulating || l.state = .normed) = true) :
    learnNormExpertBody c s = .ok (s.wait c.w (.normReset (c.u32 0) (s.exchangesOf (c.u32 0)))) :=
  bind_of hl ((if_pos hr).trans (need_of ha rfl))

/-! ### NORM_COMPLETE (R308) -/

/-- The records of a norm: the own one and those of the other members. -/
def normRecords (e : Exch) (c : Coll) : List (List Byte) := e.record :: c.contrib.map (·.data)

/-- Whether the members of a norm agree on GSCALE and MAX_NORM, which stand at the end of their records. -/
def normAgrees (e : Exch) (c : Coll) : Bool := (normRecords e c).all fun r => slice r 64 8 = slice e.record 64 8

/-- The sum of the squares that the members of a norm bring. -/
def normSum (e : Exch) (c : Coll) : Acc :=
  ((normRecords e c).map fun r => Acc.ofEp64 (slice r 0 64)).foldl Acc.merge Acc.reset

/-- The norm, the multiplier of the gradients, and whether the norm is not finite. -/
def normFound (e : Exch) (c : Coll) : BitVec 32 × BitVec 32 × Bool := normOf (normSum e c) e.gscale e.maxNorm

/-- The state in which a set has its norm. -/
def State.normed (s : State) (e : Exch) (c : Coll) : State :=
  s.modSet e.set fun l => { l.closeBuckets with
    state := .normed, norm := (normFound e c).1, gmul := (normFound e c).2.1, nonfinite := (normFound e c).2.2 }

/-- NORM_COMPLETE of a norm whose transport has ended fails where the members differ, and else fixes the norm. -/
theorem exec_normComplete_of_moved {w : BitVec 64} {s : State} {e : Exch} {c : Coll} {x1 : TGroup}
    (he : s.exchMoved w true = some (e, c, x1)) :
    exec (.normComplete w) s = .next (State.settle
      (if !normAgrees e c then s.endColl w stBadParam 0 0
       else (s.normed e c).endColl w stOk ((normFound e c).1.toNat + (normFound e c).2.1.toNat * 2 ^ 32)
         (normSum e c).drops.toNat)) := by
  refine event_eq ?_
  rw [he]
  rfl

/-! ### LEARN_SWEEP (R326) -/

/-- The state in which a set has given its step up, its norm not finite. -/
def State.sweepAbandoned (s : State) (c : Cmd) : State :=
  (s.modSet (c.u32 0) LSet.abandon).modPaddock c.pad fun p => { p with sweepsNonfinite := p.sweepsNonfinite + 1#64 }

/-- The state in which a set is SWEEPING, no span done. -/
def State.sweepBegun (s : State) (c : Cmd) (seed : Option Nat) : State :=
  s.modSet (c.u32 0) fun x => { x with
    state := .sweeping, seed := BitVec.ofNat 64 (seed.getD (x.step + 1)), lrMul := BitVec.ofNat 32 (c.u32 4), inv := []
    sweepBy := c.w, spansDone := [], updated := 0, skipped := 0, skipList := [], restored := true, emitted := false
    stash := [] }

section
variable {s : State} {c : Cmd} {l : LSet} {seed : Option Nat} (ha : l.state = .normed)
include ha

/-- A sweep of a set whose norm is not finite gives the step up. -/
theorem State.beginSweep_nonfinite (hf : l.nonfinite = true) :
    s.beginSweep c l seed = .ok ((s.sweepAbandoned c).complete c.w stNonfiniteGrad) :=
  need_of (decide_eq_true ha) (if_pos hf)

/-- A sweep of a set with a finite norm, whose programs use arrays that are there, begins with its factors. -/
theorem State.beginSweep_finite (hf : ¬l.nonfinite = true) (hb : (!l.groups.any s.microBad) = true) :
    s.beginSweep c l seed = .ok ((s.sweepBegun c seed).updateFactors (c.u32 0)) :=
  need_of (decide_eq_true ha) ((if_neg hf).trans (need_of hb rfl))

end

/-- LEARN_SWEEP, expert, with RESUME goes on with an interrupted sweep that is restored. -/
theorem learnSweepExpertBody_resume {s : State} {c : Cmd} {l : LSet} (hl : s.ownSet c (c.u32 0) = .ok l)
    (hr : c.flag 16 = true) (hi : (l.state = .interrupted && l.restored) = true) :
    learnSweepExpertBody c s =
      .ok (((s.modSet (c.u32 0) fun x => { x with state := .sweeping, sweepBy := c.w }).updateFactors
        (c.u32 0)).emitSweep (c.u32 0)) :=
  bind_of hl ((if_pos hr).trans (need_of hi rfl))

/-! ### The spans of a sweep (R321, R327, R412, R423) -/

/-- The state in which a span that reads a poisoned line is done, and skipped. -/
def State.spanSkipped (s : State) (h group span : Nat) : State :=
  s.modSet h fun x => { x with
    spansDone := x.spansDone ++ [(group, span)], skipped := x.skipped + 1
    skipList := x.skipList ++ [(group, span)] }

/-- The stash after a span is done, without the spans that its unit's progress word has passed. -/
def State.stashAfter (s : State) (l : LSet) (group : Nat) (g : PGroup) (span : Nat) :
    List (Nat × Option Nat × List (Nat × List Byte)) :=
  let past := (s.unitSpans l (s.unitOf g span)).takeWhile fun x => (l.spansDone ++ [(group, span)]).contains x
  (l.stash ++ [(group, some span, s.stashOf g span)]).filter fun e =>
    match e.2.1 with
    | some k => !past.contains (e.1, k)
    | none => true

/-- The state in which a span is updated, its old bytes stashed and its moored bytes staged. -/
def State.spanUpdated (s : State) (h : Nat) (l : LSet) (group : Nat) (g : PGroup) (span : Nat) : State :=
  ((s.updateSpan l group g span).stageMoored g span).modSet h fun x => { x with
    spansDone := l.spansDone ++ [(group, span)], stash := s.stashAfter l group g span
    updated := x.updated + g.spanLen span }

section
variable {w : BitVec 64} {group span : Nat} {s : State} {h : Nat} {l : LSet} {g : PGroup}
  (hs : s.sweepOf w = some (h, l)) (hg : l.groups[group]? = some g)
  (hf : (s.inFlight l (s.unitOf g span)).contains (group, span) = true)
include hs hg hf

/-- UPDATE_SPAN_DONE of a span in flight skips it where it reads a poisoned line, and else updates it. -/
theorem exec_updateSpanDone_of_inFlight :
    exec (.updateSpanDone w group span) s = .next (State.settle
      (if s.spanPoisoned g span then (s.spanSkipped h group span).emitSweep h
       else (s.spanUpdated h l group g span).emitSweep h)) := by
  refine event_eq ?_
  rw [hs]
  dsimp only
  rw [hg]
  exact if_neg (by rw [hf]; simp)

/-- UNIT_SPAN_TIMEOUT of a span in flight is a fault of its unit. -/
theorem exec_unitSpanTimeout_of_inFlight :
    exec (.unitSpanTimeout w group span) s = .next (State.settle (s.unitFault (s.unitOf g span))) := by
  refine event_eq ?_
  rw [hs]
  dsimp only
  rw [hg]
  exact if_pos hf

end

/-- The state in which a sweep has ended: the set accumulates for its next step, and the paddock has counted it. -/
def State.sweepEnded (s : State) (h : Nat) (l : LSet) : State :=
  (s.modSet h fun x => { x with
    state := .accumulating, step := x.step + 1, rowAcc := [], colAcc := [], stash := [], bucketsDone := 0
    naBlocks := 0 }).modPaddock l.paddock fun p => { p with sweeps := p.sweeps + 1#64 }

/-- SWEEP_COMPLETE of a sweep whose moored cells have gone out ends it, and its status says whether a span was
skipped. -/
theorem exec_sweepComplete_of_emitted {w : BitVec 64} {s : State} {h : Nat} {l : LSet}
    (hs : s.sweepOf w = some (h, l)) (he : l.emitted = true) :
    exec (.sweepComplete w) s = .next (State.settle
      ((s.sweepEnded h l).complete w (if l.skipped = 0 then stOk else stDataPoisoned) (BitVec.ofNat 64 l.updated)
        (BitVec.ofNat 32 (min l.skipped (2 ^ 32 - 1))))) := by
  refine event_eq ?_
  rw [hs]
  exact if_neg (by simp [he])

/-- Whether no span of a group is done, so that its factors get their old bytes back. -/
def LSet.noSpanDone (l : LSet) (gi : Nat) : Bool := !l.spansDone.any fun x => x.1 = gi

/-- The state in which the mixed spans and the factors of groups with no span done have their old bytes back. -/
def State.bytesRestored (s : State) (l : LSet) : State :=
  l.stash.foldl (fun s e =>
    if e.2.1.isSome || l.noSpanDone e.1 then e.2.2.foldl (fun s r => s.store r.1 r.2) s else s) s

/-- STASH_RESTORE of an interrupted set that is not restored restores it. -/
theorem exec_stashRestore_of_interrupted {set : Nat} {s : State} {l : LSet} (hl : tget s.learn.sets set = some l)
    (hn : ¬(l.state != .interrupted || l.restored) = true) :
    exec (.stashRestore set) s = .next (State.settle
      ((s.bytesRestored l).modSet set fun x => { x with
        restored := true, inv := x.inv.filter fun e => !l.noSpanDone e.1
        stash := x.stash.filter fun e => e.2.1.isNone && !l.noSpanDone e.1 })) := by
  refine event_eq ?_
  rw [hl]
  exact if_neg hn

/-! ### LEARN_MICRO_LOAD and LEARN_MICRO_UNLOAD (R322, R332) -/

/-- The program that an image holds. -/
def imageMicro (c : Cmd) (img : List Byte) : Micro :=
  { paddock := c.pad, code := (List.range (fld img 4 2)).map fun i => BitVec.ofNat 32 (fld img (64 + 4 * i) 4)
    consts := (List.range 16).map fun i => BitVec.ofNat 32 (fld img (320 + 4 * i) 4) }

/-- Whether a paddock and the part have room for one more program. -/
def State.microRoom (s : State) (pad : Nat) : Bool :=
  (s.learn.micros.filter fun e => e.2.paddock = pad).length < 32 && s.learn.micros.length < 256

/-- The state after a program has run on a test buffer, if one is given. -/
def State.microTested (s : State) (c : Cmd) (m : Micro) (buf : Nat) (seed : BitVec 64) : Except Err State :=
  if buf = 0 then .ok s else do
    let (bs, _) ← s.readBuf c buf 768
    let r := s.microTest m seed bs
    r.2.writeBuf c buf r.1

/-- The free value and the handle that a new program takes. -/
def State.microPick (s : State) : Option Nat × State := s.pick (fun k => thas s.learn.micros k) 0 256

/-- The state in which a program stands under the handle that it takes. -/
def State.addMicro (s : State) (m : Micro) : State :=
  let t := s.microPick.2
  { t with learn := { t.learn with micros := tput t.learn.micros (s.microPick.1.getD 0) m } }

/-- LEARN_MICRO_LOAD of a correct image, with a test that can be run, enters its program. -/
theorem State.microLoad_ok {s s1 : State} {c : Cmd} {buf : Nat} {seed : BitVec 64} {img : List Byte} {x1 : Bool}
    (hm : (!c.mgmt) = true) (hr : s.readBuf c (c.u64 0) 384 = .ok (img, x1)) (ho : microOk img = true)
    (hq : s.microRoom c.pad = true) (h1 : s.microTested c (imageMicro c img) buf seed = .ok s1) :
    s.microLoad c buf seed = .ok ((s1.addMicro (imageMicro c img)).ok c (s1.microPick.1.getD 0)) :=
  need_of hm <| bind_of hr <| need_of ho <| need_of hq <| bind_of h1 rfl

/-- LEARN_MICRO_UNLOAD of a program of the caller that no set names takes it away. -/
theorem learnMicroUnloadBody_ok {s : State} {c : Cmd} {m : Micro} (hm : s.ownMicro c (c.u32 0) = .ok m)
    (hu : (!s.microUsed (c.u32 0)) = true) :
    learnMicroUnloadBody c s =
      .ok (({ s with learn := { s.learn with micros := tdel s.learn.micros (c.u32 0) } } : State).ok c) :=
  bind_of hm (need_of hu rfl)

/-! ### LEARN_ROUTE_CHECK (R295) -/

/-- The model that LEARN_ROUTE_CHECK names, which is the caller's. -/
def State.routeModel (s : State) (c : Cmd) : Except Err Model :=
  match tget s.gen.models (c.u32 0) with
  | some m => if m.paddock = c.pad then .ok m else fail stBadModel
  | none => fail stBadModel

/-- The records that do not match their sequence buffer, each with its position in it. -/
def State.routeFaults (s : State) (c : Cmd) (m : Model) (ctx : Nat) (bs : List Byte) : List (Nat × Nat) :=
  ((List.range (c.u32 4)).map fun i => (i, s.routeFault m ctx (c.u64 8) (slice bs (32 * i) 32))).filterMap
    fun x => x.2.map fun q => (x.1, q)

/-- LEARN_ROUTE_CHECK of records that all match answers their number. -/
theorem State.routeCheck_ok {s : State} {c : Cmd} {all : Bool} {m : Model} {x1 : Nat × Alloc} {ctx : Nat}
    {bs : List Byte} {x2 : Bool} (hm : s.routeModel c = .ok m) (ho : s.ownRange c (c.u64 8) 1 [.hbm] = .ok x1)
    (hx : tget s.gen.bufCtx (c.u64 8) = some ctx) (hb : s.readBuf c (c.u64 16) (32 * c.u32 4) = .ok (bs, x2))
    (hf : s.routeFaults c m ctx bs = []) : s.routeCheck c all = .ok (s.ok c (c.u32 4) 0xFFFFFFFF) := by
  refine bind_of hm <| bind_of ho <| want_of hx <| bind_of hb ?_
  show (match s.routeFaults c m ctx bs with | [] => _ | _ :: _ => _) = _
  rw [hf]

/-! ### The commands and events -/

/-- Settles O43: each command is ready, its checks pass one after another, and its body succeeds; each event whose
conditions hold takes the branch of its meaning that they name. The constant shape of a norm (log entry 104), the
handles of programs and the free values of their test (log entry 107), what a resumed sweep counts and when its factors
are updated (log entry 108), when faults retire a unit (log entry 110) and the context limit of a route check (log entry
111) are the model's choices. -/
theorem normSweepAndMicroprogramCommands : Obligations.NormSweepAndMicroprogramCommands := by
  refine ⟨?normEnded, ?norm, ?normReset, ?normExpertEnded, ?normExpert, ?normDiffers, ?normComplete, ?sweepNonfinite,
    ?sweep, ?sweepResume, ?sweepExpertNonfinite, ?sweepExpert, ?spanSkipped, ?spanUpdated, ?sweepComplete, ?unitFault,
    ?spanTimeout, ?stashRestore, ?load, ?loadExpert, ?unload, ?unloadWaits, ?unloadExpert, ?routeCheck,
    ?routeCheckExpert⟩
  case normEnded =>
    intro z wid c h s k l hl ha g hg op s1 h1 hn
    exact run_ok h ((learnNormBody_eq hl ha hg h1).trans (if_pos hn))
  case norm =>
    intro z wid c h s k l hl ha g hg op s1 h1 hn
    exact run_ok h ((learnNormBody_eq hl ha hg h1).trans (if_neg hn))
  case normReset =>
    intro z wid c h s l hl hr ha
    exact run_ok h (learnNormExpertBody_reset hl hr ha)
  case normExpertEnded =>
    intro z wid c h s x1 hx hr k l hl ha g hg op s1 h1 hn
    exact run_ok h ((learnNormExpertBody_eq hl ha hg h1 hr).trans (if_pos hn))
  case normExpert =>
    intro z wid c h s x1 hx hr k l hl ha g hg op s1 h1 hn
    exact run_ok h ((learnNormExpertBody_eq hl ha hg h1 hr).trans (if_neg hn))
  case normDiffers =>
    intro w s e c x1 he recs hd
    exact exec_of_eq (exec_normComplete_of_moved he) (if_pos hd)
  case normComplete =>
    intro w z s e c x1 he recs hd acc r s1
    exact exec_of_eq (exec_normComplete_of_moved he) (if_neg hd)
  case sweepNonfinite =>
    intro z wid c h s l hl k ha hf s1
    exact run_ok h (bind_of hl (State.beginSweep_nonfinite ha hf))
  case sweep =>
    intro z wid c h s l hl seed k ha hf hb s1
    exact run_ok h (bind_of hl (State.beginSweep_finite ha hf hb))
  case sweepResume =>
    intro z wid c h s k l hl hr hi s1
    exact run_ok h (learnSweepExpertBody_resume hl hr hi)
  case sweepExpertNonfinite =>
    intro z wid c h s k l hl hr k' ha hf s1
    exact run_ok h (bind_of hl ((if_neg hr).trans (State.beginSweep_nonfinite ha hf)))
  case sweepExpert =>
    intro z wid c h s k l hl hr seed k' ha hf hb s1
    exact run_ok h (bind_of hl ((if_neg hr).trans (State.beginSweep_finite ha hf hb)))
  case spanSkipped =>
    intro w group span s h l hs g hg u hf hp
    exact exec_of_eq (exec_updateSpanDone_of_inFlight hs hg hf) (if_pos hp)
  case spanUpdated =>
    intro w group span s h l hs g hg u hf hp done past stash
    exact exec_of_eq (exec_updateSpanDone_of_inFlight hs hg hf) (if_neg hp)
  case sweepComplete =>
    intro w z s h l hs he s1 s2
    exact exec_sweepComplete_of_emitted hs he
  case unitFault =>
    intro u z s hu recent x s1 s2
    exact event_eq (if_pos hu)
  case spanTimeout =>
    intro w group span s l x1 hs g hg hf
    exact exec_unitSpanTimeout_of_inFlight hs hg hf
  case stashRestore =>
    intro set z s l hl hn back s1
    exact exec_stashRestore_of_interrupted hl hn
  case load =>
    intro z wid hm c h s buf seed hc img x1 hr ho hq m s1 h1 p2 k s2 hd
    exact run_ok h (State.microLoad_ok hc hr ho hq h1)
  case loadExpert =>
    intro z wid hm c h s buf seed hc img x1 hr ho hq m s1 h1 p2 k s2 hd
    exact run_ok h (State.microLoad_ok hc hr ho hq h1)
  case unload =>
    intro z wid c h s k x1 hx hu
    exact run_ok h (learnMicroUnloadBody_ok hx hu)
  case unloadWaits =>
    intro z wid c h s x1 hx hw
    exact run_ok h (bind_of hx (if_pos hw))
  case unloadExpert =>
    intro z wid c h s x1 hx hw k x2 hm hu
    exact run_ok h (bind_of hx ((if_neg hw).trans (learnMicroUnloadBody_ok hm hu)))
  case routeCheck =>
    intro z wid hm c h s m' hm' m buf x1 ho ctx hx n bs x2 hb bad hf
    exact run_ok h (State.routeCheck_ok hm' ho hx hb hf)
  case routeCheckExpert =>
    intro z wid hm c h s m' hm' m buf x1 ho ctx hx n bs x2 hb bad hf
    exact run_ok h (State.routeCheck_ok hm' ho hx hb hf)

end Sys2Proof.Machine
end

section
/-! The layouts, drains, resumes and remounts of Rein (R336, R345, R346, R360, R362, R363, R366, R367): the equations of
a registration, a drain, a resume, a remount and its end, where their checks pass. -/

namespace Sys2Proof.Machine

/-! ### REIN_LAYOUT_REGISTER (R336 to R339) -/

/-- The layout that a descriptor gives to the caller's paddock. -/
def descOf (c : Cmd) (d : List Byte) : Layout := layoutDesc d c.pad

/-- The check of a descriptor's pieces and regions (R336, R337). -/
def State.layoutPlaced (s : State) (c : Cmd) (l : Layout) : Bool :=
  l.parts.contains s.part.partId && l.pieces.all l.inside && l.disjoint && s.regionHolds c.pad (c.u64 8) l &&
    s.regionHolds c.pad (c.u64 16) l && l.covers

/-- Whether a paddock and the part have room for one more layout. -/
def State.layoutRoom (s : State) (pad : Nat) : Bool :=
  (s.rein.layouts.filter fun e => e.2.paddock = pad).length < 64 && s.rein.layouts.length < 256

/-- Whether a registration binds a model. -/
def bindsModel (c : Cmd) : Bool := c.u32 24 != 0xFFFFFFFF

/-- The version of the model that a registration binds, where it may (R339); 0 without a model. -/
def State.boundVersion (s : State) (c : Cmd) (l : Layout) : Except Err (BitVec 32) :=
  if bindsModel c then do
    let md ← s.ownModel c (c.u32 24)
    need (l.kind = 0 && (s.layoutOf (c.u32 24)).isNone) stBadParam
    need (md.weights.toNat = c.u64 8) stBadLayout
    .ok md.version
  else .ok 0#32

/-- A layout as it is registered: its slots, its model and its slot table. -/
def Layout.withSlots (l : Layout) (c : Cmd) (ver : BitVec 32) (tab : Nat) (own : Bool) : Layout :=
  { l with
    slot0 :=
      { region := BitVec.ofNat 64 (c.u64 8), state := if bindsModel c then .active else .empty, version := ver }
    slot1 := { region := BitVec.ofNat 64 (c.u64 16), state := .empty, version := 0#32 }
    model := if bindsModel c then some (c.u32 24) else none, table := tab, tableOwn := own }

/-- The free value and the handle that a new layout takes. -/
def State.layoutPick (s : State) : Option Nat × State := s.pick (fun k => thas s.rein.layouts k) 1 (2 ^ 32 - 1)

/-- The handle of a new layout. -/
def State.layoutHandle (s : State) : Nat := s.layoutPick.1.getD 1

/-- The state in which a layout stands under the handle that it takes, and its slots are in its slot table. -/
def State.addLayout (s : State) (l : Layout) : State :=
  let t := s.layoutPick.2
  let u : State := { t with rein := { t.rein with layouts := tput t.rein.layouts s.layoutHandle l } }
  (u.writeSlot s.layoutHandle 0).writeSlot s.layoutHandle 1

/-- REIN_LAYOUT_REGISTER of a descriptor that passes the checks of R336, with a slot table, enters the layout. -/
theorem State.layoutRegister_ok {s s1 : State} {c : Cmd} {table tab : Nat} {own x1 x2 : Bool} {hd d : List Byte}
    {ver : BitVec 32} (hm : (!c.mgmt) = true) (h0 : s.slotRegion c (c.u64 8) false = .ok ())
    (h1 : s.slotRegion c (c.u64 16) true = .ok ()) (hr : s.readBuf c (c.u64 0) 256 = .ok (hd, x1))
    (hd' : s.readBuf c (c.u64 0) (max 256 (fld hd 24 8)) = .ok (d, x2)) (hl : layoutRanges d (descOf c d) = true)
    (hg : (descOf c d).digest = sha384 (d.drop 256)) (hp : s.layoutPlaced c (descOf c d) = true)
    (hq : s.layoutRoom c.pad = true) (hv : s.boundVersion c (descOf c d) = .ok ver)
    (ht : s.slotTable c (bindsModel c) table = .ok (tab, own, s1)) :
    s.layoutRegister c table =
      .ok ((s1.addLayout ((descOf c d).withSlots c ver tab own)).ok c s1.layoutHandle tab) :=
  need_of hm <| bind_of h0 <| bind_of h1 <| bind_of hr <| bind_of hd' <| need_of hl <| need_of (decide_eq_true hg) <|
    need_of hp <| need_of hq <| bind_of hv <| bind_of ht rfl

/-! ### REIN_LAYOUT_RELEASE (R366) -/

/-- REIN_LAYOUT_RELEASE of a layout without an ACTIVE slot that no permute names takes it away. -/
theorem reinLayoutReleaseBody_ok {s : State} {c : Cmd} {l : Layout} (hl : s.ownLayout c (c.u32 0) = .ok l)
    (hu : (l.active.isNone && !s.layoutNamed (c.u32 0)) = true) :
    reinLayoutReleaseBody c s = .ok ((s.dropLayout (c.u32 0) l).ok c) :=
  bind_of hl (need_of hu rfl)

/-! ### REIN_DRAIN (R344 to R346) -/

/-- The state in which a model is DRAINING for a command. -/
def State.drainBegun (s : State) (c : Cmd) (keep : Bool) : State :=
  s.modModel (c.u32 0) fun x => { x with turn := some .draining, drainBy := some (c.w, keep), drainFrom := s.t }

/-- A drain as it waits for its boundary. -/
def State.drainCmd (s : State) (c : Cmd) (keep : Bool) : SeqCmd :=
  { wid := c.w, kind := 5, model := c.u32 0, entry := 0, serial := 0#64, arg := 0#64, flag := keep, atNs := s.t
    tokens := [] }

/-- REIN_DRAIN of a GENERATING model on the leader of its loop waits for its boundary. -/
theorem State.reinDrain_ok {s : State} {c : Cmd} {keep : Bool} {md : Model} {l : Loop}
    (hm : s.ownModel c (c.u32 0) = .ok md) (hl : tget s.gen.loops (c.u32 0) = some l)
    (ht : (md.turn = some .generating && l.leader) = true) :
    s.reinDrain c keep = .ok ((s.drainBegun c keep).queueCmd ((s.drainBegun c keep).drainCmd c keep)) :=
  bind_of hm <| want_of hl <| need_of ht rfl

/-! ### REIN_RESUME (R360) -/

/-- The state in which a slot of a model's layout is ACTIVE in place of the other. -/
def State.slotsSwitched (s : State) (m h k : Nat) : State :=
  ((s.modSlot h (1 - k) Slot.idle).writeSlot h (1 - k)).activate m h k

/-- The entries of a model's drain list that are still HELD. -/
def State.drainedHeld (s : State) (md : Model) : List Nat :=
  md.drain.filter fun i => match tget s.gen.manifest i with | some e => e.state = .held | none => false

/-- The state in which entries have the states that their counts give. -/
def State.seqsBack (s : State) (is : List Nat) : State :=
  is.foldl (fun s i => match tget s.gen.manifest i with | some e => s.setSeq i e.byCounts | none => s) s

/-- The state in which a drained model is GENERATING again: its slot is ACTIVE, its sequences are back, its loop task
may run, and its members are told. -/
def State.generatesAgain (s : State) (m h k : Nat) (md : Model) (l : Loop) (mask : List Nat) : State :=
  let s := s.slotsSwitched m h k
  let s := (s.seqsBack (s.drainedHeld md)).modModel m fun x => { x with turn := some .generating, drain := [] }
  (s.freeLoopTask l.wid mask).tellMembers m l (.resume mask)

/-- The state in which a resume has built its next list and has completed with the number of sequences that are
back. -/
def State.resumeAnswered (s : State) (c : Cmd) (h k : Nat) (md : Model) (l : Loop) (mask : List Nat) : State :=
  ((s.generatesAgain (c.u32 0) h k md l mask).build (c.u32 0) (l.step + 1)).ok c
    ((s.slotsSwitched (c.u32 0) h k).drainedHeld md).length

/-- REIN_RESUME of a DRAINED model, with a slot that holds the version on every part, makes it GENERATING. -/
theorem State.reinResume_ok {s : State} {c : Cmd} {mask : List Nat} {ready : Bool} {md : Model} {l : Loop} {h k : Nat}
    (hm : s.ownModel c (c.u32 0) = .ok md) (ht : md.turn = some .drained)
    (hl : tget s.gen.loops (c.u32 0) = some l)
    (hp : (!s.standby (c.u32 0) (BitVec.ofNat 32 (c.u32 4)) true) = true)
    (hs : s.slotWith (c.u32 0) (BitVec.ofNat 32 (c.u32 4)) = some (h, k)) (hr : ready = true)
    (ha : (mask.all fun t => (s.allotment c.pad).contains t) = true) :
    s.reinResume c mask ready =
      .ok ((s.resumeAnswered c h k md l mask).modModel (c.u32 0) fun x =>
        { x with resumeNs := (s.resumeAnswered c h k md l mask).t - s.t }) :=
  bind_of hm <| need_of (decide_eq_true ht) <| want_of hl <| need_of hp <| want_of hs <| need_of hr <| need_of ha rfl

/-! ### REIN_REMOUNT (R362, R363) -/

/-- Whether a version is another than that of the ACTIVE slot of a model's layout. -/
def State.otherVersion (s : State) (m : Nat) (v : BitVec 32) : Bool :=
  match s.layoutOf m with
  | some (_, l) => (match l.active with | some k => (l.slot k).version != v | none => true)
  | none => true

/-- The state in which a model has a remount to a version, not yet committed. -/
def State.remountAsked (s : State) (c : Cmd) : State :=
  s.modModel (c.u32 0) fun x => { x with remount := some (c.w, BitVec.ofNat 32 (c.u32 4), false) }

/-- A remount as it waits for its boundary. -/
def State.remountCmd (s : State) (c : Cmd) : SeqCmd :=
  { wid := c.w, kind := 6, model := c.u32 0, entry := 0, serial := 0#64
    arg := (BitVec.ofNat 32 (c.u32 4)).zeroExtend 64, flag := false, atNs := s.t, tokens := [] }

/-- REIN_REMOUNT of a GENERATING model without a remount waits for its boundary where every part's slot is HELD, and
else for the slot if it may wait. -/
theorem State.reinRemount_eq {s : State} {c : Cmd} {wait ready : Bool} {timeout : Nat} {md : Model}
    (hm : s.ownModel c (c.u32 0) = .ok md) (ht : md.turn = some .generating) (hn : md.remount.isNone = true)
    (hv : s.otherVersion (c.u32 0) (BitVec.ofNat 32 (c.u32 4)) = true)
    (hp : (!s.standby (c.u32 0) (BitVec.ofNat 32 (c.u32 4)) true) = true) :
    s.reinRemount c wait timeout ready =
      if s.standby (c.u32 0) (BitVec.ofNat 32 (c.u32 4)) false && ready then
        .ok ((s.remountAsked c).queueCmd (s.remountCmd c))
      else if wait then
        .ok ((s.remountAsked c).wait c.w
          (.remountSlot (c.u32 0) (BitVec.ofNat 32 (c.u32 4)) (s.t + timeout * msNs)))
      else fail stReinState :=
  bind_of hm <| need_of (decide_eq_true ht) <| need_of hn <| need_of hv <| need_of hp rfl

/-- The state in which the slot that was ACTIVE before a remount is HELD. -/
def State.oldSlotHeld (s : State) (h : Nat) (md : Model) : State :=
  match md.remountOld with
  | some k => (s.modSlot h k fun x => { x with state := .held }).writeSlot h k
  | none => s

/-- REMOUNT_OLD_SLOT_RELEASE of a committed remount releases the old slot and completes the command. -/
theorem exec_remountOldSlotRelease_of_committed {s : State} {m h : Nat} {md : Model} {l : Layout} {w : BitVec 64}
    {v : BitVec 32} (hm : tget s.gen.models m = some md) (hl : s.layoutOf m = some (h, l))
    (hr : md.remount = some (w, v, true)) :
    exec (.remountOldSlotRelease m) s = .next (State.settle
      (((s.oldSlotHeld h md).modModel m fun x =>
        { x with remount := none, remountOld := none, remounts := x.remounts + 1 }).complete w stOk
        (BitVec.ofNat 64 md.remountStep))) := by
  refine event_eq ?_
  unfold State.endRemount
  rw [hm, hl]
  dsimp only
  rw [hr]
  rfl

/-- REMOUNT_WAIT_TIMEOUT of a remount that waits for its slot moves the time to its deadline. -/
theorem exec_remountWaitTimeout_of_wait {s : State} {w : BitVec 64} {x : Wait} {m due : Nat} {v : BitVec 32}
    (hx : (s.waits.find? fun x => x.wid = w) = some x) (hk : x.kind = .remountSlot m v due) :
    exec (.remountWaitTimeout w) s = .next (State.settle (s.reach due)) := by
  refine event_eq ?_
  rw [hx]
  dsimp only
  rw [hk]

/-! ### The commands and events -/

/-- Settles O44: each command is ready, its checks pass one after another, and its body succeeds; each event whose
conditions hold takes the branch of its meaning that they name. The layout of the query records (log entry 11), the
conditions of a bound model (log entry 94), that a release may wait with an ACTIVE slot (log entry 96) and the messages
to a loop's members (log entry 161) are the model's choices. -/
theorem layoutCommands : Obligations.LayoutCommands := by
  refine ⟨?register, ?registerExpert, ?release, ?releaseWaits, ?releaseExpert, ?drain, ?drainExpert, ?remount,
    ?remountExpert, ?remountWaits, ?oldSlot, ?resume, ?resumeExpert, ?query, ?queryExpert, ?waitTimeout⟩
  case register =>
    intro z wid hm c h s table hc h0 h1 hd x1 hr d x2 hd' l hl hg hp hq m bound ver hv tab own s1 ht
    exact run_ok h (State.layoutRegister_ok hc h0 h1 hr hd' hl hg hp hq hv ht)
  case registerExpert =>
    intro z wid hm c h s table hc h0 h1 hd x1 hr d x2 hd' l hl hg hp hq m bound ver hv tab own s1 ht
    exact run_ok h (State.layoutRegister_ok hc h0 h1 hr hd' hl hg hp hq hv ht)
  case release =>
    intro z wid c h s l hl hu
    exact run_ok h (reinLayoutReleaseBody_ok hl hu)
  case releaseWaits =>
    intro z wid c h s l hl hw
    exact run_ok h (bind_of hl (if_pos hw))
  case releaseExpert =>
    intro z wid c h s l hl hw hu
    exact run_ok h (bind_of hl ((if_neg hw).trans (need_of hu rfl)))
  case drain =>
    intro z wid c h s keep m md hm l hl ht
    exact run_ok h (State.reinDrain_ok hm hl ht)
  case drainExpert =>
    intro z wid c h s keep m md hm l hl ht
    exact run_ok h (State.reinDrain_ok hm hl ht)
  case remount =>
    intro z wid ready c h s m v md hm ht hn hv hp s1 hr
    exact run_ok h ((State.reinRemount_eq hm ht hn hv hp).trans (if_pos hr))
  case remountExpert =>
    intro z wid ready c h s m v md hm ht hn hv hp s1 hr
    exact run_ok h ((State.reinRemount_eq hm ht hn hv hp).trans (if_pos hr))
  case remountWaits =>
    intro z wid ready c h s wait timeout m v md hm ht hn hv hp s1 hr hw
    exact run_ok h ((State.reinRemount_eq hm ht hn hv hp).trans ((if_neg hr).trans (if_pos hw)))
  case oldSlot =>
    intro m z s m' md hm h l hl w v hr
    exact exec_remountOldSlotRelease_of_committed hm hl hr
  case resume =>
    intro z wid ready c h s mask m v md hm ht l hl hp i k hs hr allot ha
    exact run_ok h (State.reinResume_ok hm ht hl hp hs hr ha)
  case resumeExpert =>
    intro z wid ready c h s mask m v md hm ht l hl hp i k hs hr allot ha
    exact run_ok h (State.reinResume_ok hm ht hl hp hs hr ha)
  case query =>
    intro z wid c h s l hl s1 hw
    exact run_ok h (bind_of hl (bind_of hw rfl))
  case queryExpert =>
    intro z wid c h s md hm l act sl s1 hw
    exact run_ok h (bind_of hm (bind_of hw rfl))
  case waitTimeout =>
    intro w s x hx y due m v hk
    exact exec_remountWaitTimeout_of_wait hx hk

end Sys2Proof.Machine
end

section
/-! The permute (R349 to R355): the equations of REIN_PERMUTE after its checks and of the end of a permute. -/

namespace Sys2Proof.Machine

/-! ### REIN_PERMUTE (R349, R350, R353) -/

/-- Whether the parameter set that a permute names, if it names one, is the caller's. -/
def State.permSetOwned (s : State) (c : Cmd) : Bool :=
  c.u32 24 = 0 || (match tget s.learn.sets (c.u32 24) with | some l => l.paddock = c.pad | none => false)

/-- What a permute asks for. -/
def permInfo (c : Cmd) (q : PermReq) : PermInfo :=
  { src := c.u32 4, srcSlot := c.u32 8, dst := c.u32 12, dstSlot := c.u32 16, version := BitVec.ofNat 32 (c.u32 20)
    set := c.u32 24, first := q.first, last := q.last, destOver := q.destOver, staging := q.staging, waiting := true
    poison := 0 }

/-- Whether every destination part already holds the version that a permute would bring (R350). -/
def alreadyHeld (c : Cmd) (q : PermReq) (held : Bool) (ld : Layout) : Bool :=
  q.destOver = 0 && held && (ld.slot (c.u32 16)).state = .held &&
    (ld.slot (c.u32 16)).version = BitVec.ofNat 32 (c.u32 20)

/-- The collective of a permute. -/
def State.permColl (s : State) (c : Cmd) (q : PermReq) (ls ld : Layout) (g : TGroup) : Coll :=
  { newColl c.w c.pad (BitVec.ofNat 32 (c.u32 0)) 8 s.t g.rank with
    shape := permShape ls ld (permInfo c q), perm := some (permInfo c q) }

/-- The start of a permute's collective, which ends at once, is aborted, or greets the other members. -/
def State.openPermute (s : State) (c : Cmd) (q : PermReq) (ls ld : Layout) (g : TGroup) : Except Err State := do
  let s1 ← s.startColl (s.permColl c q ls ld g) g none q.timeout
  match s1.collOf c.w with
  | none => .ok s1
  | some x =>
    match s.permFault g ls ld (permInfo c q) with
    | some st => .ok (s1.abortColl { x with perm := none } st)
    | none => .ok (s1.greet c.w)

section
variable {s s1 : State} {c : Cmd} {q : PermReq} {held : Bool} {ls ld : Layout} {g : TGroup} (hm : (!c.mgmt) = true)
  (hs : s.ownLayout c (c.u32 4) = .ok ls) (hd : s.ownLayout c (c.u32 12) = .ok ld)
  (ho : s.permSetOwned c = true) (hg : s.groupOf c.pad (c.u32 0) = .ok g)
  (hr : (c.u32 8 ≤ 1 && c.u32 16 ≤ 1 && q.first ≤ q.last) = true) (ha : s.permAreas c q ld = .ok ())
include hm hs hd ho hg hr ha

/-- A permute whose checks pass completes where its version is HELD already, and else starts its collective. -/
theorem State.reinPermute_checked :
    s.reinPermute c q held = if alreadyHeld c q held ld then .ok (s.ok c) else s.openPermute c q ls ld g :=
  need_of hm <| bind_of hs <| bind_of hd <| need_of ho <| bind_of hg <| need_of hr <| bind_of ha rfl

/-- A permute to a version that is HELD already completes at once. -/
theorem State.reinPermute_held (hh : alreadyHeld c q held ld = true) : s.reinPermute c q held = .ok (s.ok c) :=
  (State.reinPermute_checked hm hs hd ho hg hr ha).trans (if_pos hh)

variable (hh : ¬alreadyHeld c q held ld = true) (h1 : s.startColl (s.permColl c q ls ld g) g none q.timeout = .ok s1)
include hh h1

/-- A permute whose collective has ended with its start leaves nothing to do. -/
theorem State.reinPermute_ended (hx : s1.collOf c.w = none) : s.reinPermute c q held = .ok s1 := by
  refine (State.reinPermute_checked hm hs hd ho hg hr ha).trans ((if_neg hh).trans (bind_of h1 ?_))
  rw [hx]

variable {x : Coll} (hx : s1.collOf c.w = some x)
include hx

/-- A permute that cannot be made is aborted on every member. -/
theorem State.reinPermute_faulty {st : BitVec 16} (hf : s.permFault g ls ld (permInfo c q) = some st) :
    s.reinPermute c q held = .ok (s1.abortColl { x with perm := none } st) := by
  refine (State.reinPermute_checked hm hs hd ho hg hr ha).trans ((if_neg hh).trans (bind_of h1 ?_))
  rw [hx, hf]

/-- A permute that can be made greets the other members. -/
theorem State.reinPermute_greets (hf : s.permFault g ls ld (permInfo c q) = none) :
    s.reinPermute c q held = .ok (s1.greet c.w) := by
  refine (State.reinPermute_checked hm hs hd ho hg hr ha).trans ((if_neg hh).trans (bind_of h1 ?_))
  rw [hx, hf]

end

/-! ### PERMUTE_COMPLETE (R354, R355) -/

/-- The bytes that this member of a permute has sent. -/
def State.permSent (s : State) (c : Coll) (g : TGroup) : Nat :=
  sumNat ((ranksAfter g.members.length g.rank).flatMap fun d => (s.outX c g d).map fun x => x.n)

/-- The state in which the destination slot of a permute is HELD, or POISONED where a block was poisoned. -/
def State.permSlotDone (s : State) (p : PermInfo) : State :=
  if p.destOver != 0 then s else
    (s.modSlot p.dst p.dstSlot fun x => { x with state := if p.poison = 0 then .held else .poisoned }).writeSlot p.dst
      p.dstSlot

/-- A layout with what its last permute sent and received, and how long it took. -/
def Layout.noted (sent recvd durNs : Nat) (l : Layout) : Layout :=
  { l with sent := sent, recvd := recvd, durNs := durNs }

/-- The state in which both layouts of a permute have what it sent and received. -/
def State.permNoted (s : State) (p : PermInfo) (note : Layout → Layout) : State :=
  { s with rein := { s.rein with layouts := tmod (tmod s.rein.layouts p.dst note) p.src note } }

/-- PERMUTE_COMPLETE of a permute that has moved everything releases its slot, and its status says whether a block was
poisoned. -/
theorem exec_permuteComplete_of_moved {w : BitVec 64} {s : State} {c : Coll} {p : PermInfo} {g : TGroup}
    (hc : s.collOf w = some c) (hp : c.perm = some p) (hg : tget s.trace.groups c.group.toNat = some g)
    (hn : ¬(p.waiting || !s.collMoved c g) = true) :
    exec (.permuteComplete w) s = .next (State.settle
      (let t := s.permSlotDone p
       (t.permNoted p (Layout.noted (s.permSent c g) c.bytesIn (t.t - c.started))).endColl w
         (if p.poison = 0 then stOk else stDataPoisoned) c.bytesIn p.poison)) := by
  refine event_eq ?_
  rw [hc]
  dsimp only
  rw [hp, hg]
  exact if_neg hn

/-! ### The commands and the event -/

/-- Settles O45: each command is ready, its checks pass one after another, and its body succeeds in the branch that the
conditions name; the event takes that of a permute that has moved. That a permute between unlike layouts is aborted to
all members (log entry 91) and that its members greet each other (log entry 164) are the model's choices. -/
theorem permuteCommands : Obligations.PermuteCommands := by
  refine ⟨?held, ?ended, ?faulty, ?greets, ?expertHeld, ?expertEnded, ?expertFaulty, ?expertGreets, ?complete⟩
  case held =>
    intro z wid held c h s q hc ls hs ld hd ho g hg hr ha p b hh
    exact run_ok h (State.reinPermute_held hc hs hd ho hg hr ha hh)
  case ended =>
    intro z wid held c h s q hc ls hs ld hd ho g hg hr ha p b hh op s1 h1 hx
    exact run_ok h (State.reinPermute_ended hc hs hd ho hg hr ha hh h1 hx)
  case faulty =>
    intro z wid held c h s q hc ls hs ld hd ho g hg hr ha p b hh op s1 h1 x hx st hf
    exact run_ok h (State.reinPermute_faulty hc hs hd ho hg hr ha hh h1 hx hf)
  case greets =>
    intro z wid held c h s q hc ls hs ld hd ho g hg hr ha p b hh op s1 h1 x hx hf
    exact run_ok h (State.reinPermute_greets hc hs hd ho hg hr ha hh h1 hx hf)
  case expertHeld =>
    intro z wid held c h s q hc ls hs ld hd ho g hg hr ha p b hh
    exact run_ok h (State.reinPermute_held hc hs hd ho hg hr ha hh)
  case expertEnded =>
    intro z wid held c h s q hc ls hs ld hd ho g hg hr ha p b hh op s1 h1 hx
    exact run_ok h (State.reinPermute_ended hc hs hd ho hg hr ha hh h1 hx)
  case expertFaulty =>
    intro z wid held c h s q hc ls hs ld hd ho g hg hr ha p b hh op s1 h1 x hx st hf
    exact run_ok h (State.reinPermute_faulty hc hs hd ho hg hr ha hh h1 hx hf)
  case expertGreets =>
    intro z wid held c h s q hc ls hs ld hd ho g hg hr ha p b hh op s1 h1 x hx hf
    exact run_ok h (State.reinPermute_greets hc hs hd ho hg hr ha hh h1 hx hf)
  case complete =>
    intro w z s c hc p hp g hg hn bad sent s1 note s2
    exact exec_permuteComplete_of_moved hc hp hg hn

end Sys2Proof.Machine
end

section
/-! The group and collective commands (R388, R390, R397, R405, R409, R410): the equations of a group that is made, of a
collective that starts, and of the cancel of one, where their checks pass. -/

namespace Sys2Proof.Machine

/-! ### TRACE_GROUP_CREATE (R388) -/

/-- The members that a group's list names. -/
def membersIn (bs : List Byte) (n : Nat) : List (BitVec 16) :=
  (List.range n).map fun i => BitVec.ofNat 16 (fld bs (2 * i) 2)

/-- The ranges of a group's operands (Table 11-6). -/
def groupRanges (mib ops merge timeout kib : Nat) : Bool :=
  16 ≤ kib && kib ≤ 4096 && kib % 16 = 0 && 4 * (kib * 1024) ≤ mib * 2 ^ 20 && mib * 2 ^ 20 ≤ 2 ^ 30 && 1 ≤ ops &&
    ops ≤ 64 && 1 ≤ merge && merge ≤ 16 && 1 ≤ timeout && timeout ≤ 600000

/-- Whether the part and a paddock have room for one more group with its operations and merges. -/
def State.groupRoom (s : State) (pad ops merge : Nat) : Bool :=
  s.trace.groups.length < 4096 && (s.trace.groups.filter fun e => e.2.paddock = some pad).length < 512 &&
    sumNat (s.trace.groups.map (·.2.ops)) + ops ≤ 16384 && sumNat (s.trace.groups.map (·.2.merge)) + merge ≤ 256

/-- The staging area of a new group: the caller's, or one allocated for it (R388). -/
def State.groupStaging (s : State) (c : Cmd) (addr len : Nat) : Except Err (Nat × Bool × State) :=
  if addr != 0 then do
    let e ← s.ownRange c addr len [.basin]
    need (!e.2.near && s.trace.groups.all fun x => addr + len ≤ x.2.staging || x.2.staging + x.2.stagingLen ≤ addr) stBadParam
    .ok (addr, false, s)
  else do
    let r ← s.allocate
      { owner := c.pad, tier := .basin, near := false, die := 0, len := len, persist := true, moored := false
        sys := false }
    .ok (r.1, true, r.2)

/-- A group as it is made. -/
def State.madeGroup (s : State) (c : Cmd) (ms : List (BitVec 16)) (at_ len : Nat) (own : Bool)
    (ops merge timeout chunk : Nat) : TGroup :=
  { paddock := some c.pad, members := ms, rank := ms.findIdx (· == s.part.partId), staging := at_, stagingLen := len
    stagingOwn := own, ops := ops, merge := merge, timeout := timeout, chunk := chunk, issued := 0, completed := 0
    aborted := [], greeted := [], dispatched := [] }

/-- The state in which a group stands under its number. -/
def State.addGroup (s : State) (k : Nat) (g : TGroup) : State :=
  { s with trace := { s.trace with groups := tput s.trace.groups k g } }

/-- TRACE_GROUP_CREATE of a group that passes its checks, with its staging, enters it and answers this part's rank and
the digest of the members. -/
theorem State.groupCreate_ok {s s1 : State} {c : Cmd} {mib ops merge timeout kib addr at_ : Nat} {own x1 : Bool}
    {bs : List Byte} (hm : (!c.mgmt) = true)
    (hk : (c.u32 0 != 0 && !thas s.trace.groups (c.u32 0) && 2 ≤ c.u32 4 && c.u32 4 ≤ 16384) = true)
    (hr : s.readBuf c (c.u64 8) (2 * c.u32 4) = .ok (bs, x1))
    (hs : ((membersIn bs (c.u32 4)).eraseDups.length = c.u32 4 && (membersIn bs (c.u32 4)).contains s.part.partId) = true)
    (hg : groupRanges mib ops merge timeout kib = true) (hq : s.groupRoom c.pad ops merge = true)
    (ha : s.groupStaging c addr (mib * 2 ^ 20) = .ok (at_, own, s1)) :
    s.groupCreate c mib ops merge timeout kib addr =
      .ok ((s1.addGroup (c.u32 0)
        (s.madeGroup c (membersIn bs (c.u32 4)) at_ (mib * 2 ^ 20) own ops merge timeout (kib * 1024))).ok c
          ((membersIn bs (c.u32 4)).findIdx (· == s.part.partId))
          ((membersDigest (BitVec.ofNat 32 (c.u32 0)) (membersIn bs (c.u32 4))).toNat % 2 ^ 32)) :=
  need_of hm <| need_of hk <| bind_of hr <| need_of hs <| need_of hg <| need_of hq <| bind_of ha rfl

/-! ### TRACE_COLL (R390) -/

/-- The operation that a command's descriptor asks for. -/
def State.collAsked (s : State) (c : Cmd) (g : TGroup) : Coll := collOfDesc c.p c.w c.pad s.t g.rank

/-- The round of DISPATCH that an operation combines, if it is a COMBINE. -/
def Coll.combines (x : Coll) (g : TGroup) : Option Dispatched :=
  if x.kind = 7 then g.dispatchOf x.aux x.round else none

/-- Whether a COMBINE names a DISPATCH of its item size (R399). -/
def Coll.combineOk (x : Coll) (g : TGroup) : Bool :=
  x.kind != 7 || (match x.combines g with | some d => d.itemBytes = x.itemBytes | none => false)

/-- An operation as a member takes part in it: only the root of a broadcast reads a source stream. -/
def Coll.forRank (x : Coll) (rank : Nat) : Coll :=
  if x.kind = 1 && x.root != rank then { x with srcStream := false } else x

/-- The sequence number that a command's descriptor gives, if it gives one. -/
def Cmd.collSeq (c : Cmd) : Option Nat := if bitAt (fld c.p 35 1) 2 then some (fld c.p 64 8) else none

/-- The state in which an operation is the end of the streams that it names. -/
def State.collStreams (s : State) (c : Cmd) (y : Coll) : State :=
  let s2 := if y.srcStream then s.modStream y.src fun st => { st with consEnd := tput st.consEnd y.consumer (.coll c.w) } else s
  if y.dstStream then s2.modStream y.dst fun st => { st with producer := some (.coll c.w) } else s2

/-- The state in which a DISPATCH has its own keys and has sent the others'. -/
def State.keysDealt (s : State) (c : Cmd) (g : TGroup) (y : Coll) : State :=
  (s.modColl c.w fun z =>
    { z with keys := z.keys ++ [(g.rank, (y.keysTo g.members.length g.rank).flatMap id)] }).sendKeys y g

section
variable {s s1 : State} {c : Cmd} {g : TGroup} {x1 : Coll} (hg : s.groupOf c.pad (c.u32 0) = .ok g)
  (hr : ((s.collAsked c g).inRange g.members.length && (s.collAsked c g).listed c.p) = true)
  (hq : (s.collAsked c g).combineOk g = true)
  (hk : s.readKeys c (s.collAsked c g) (fld c.p 96 8) g.members.length = .ok x1)
  (ho : s.collOperands c g (x1.forRank g.rank) = .ok ())
  (h1 : s.startColl (x1.forRank g.rank) g c.collSeq (fld c.p 72 4) = .ok s1)
include hg hr hq hk ho h1

/-- A collective that has ended with its start leaves nothing to do. -/
theorem State.traceColl_ended (hx : s1.collOf c.w = none) : s.traceColl c = .ok s1 := by
  refine bind_of hg <| need_of hr <| need_of hq <| bind_of hk <| bind_of ho <| bind_of h1 ?_
  rw [hx]

variable {y : Coll} (hy : s1.collOf c.w = some y)
include hy

/-- A collective that starts is the end of its streams, and a DISPATCH deals its keys. -/
theorem State.traceColl_started : s.traceColl c =
    if y.kind = 6 then .ok ((s1.collStreams c y).keysDealt c g y) else .ok (s1.collStreams c y) := by
  refine bind_of hg <| need_of hr <| need_of hq <| bind_of hk <| bind_of ho <| bind_of h1 ?_
  rw [hy]
  rfl

/-- A DISPATCH deals its keys. -/
theorem State.traceColl_dispatch (hd : y.kind = 6) : s.traceColl c = .ok ((s1.collStreams c y).keysDealt c g y) :=
  (State.traceColl_started hg hr hq hk ho h1 hy).trans (if_pos hd)

/-- A collective of another kind goes on when messages arrive. -/
theorem State.traceColl_other (hd : ¬y.kind = 6) : s.traceColl c = .ok (s1.collStreams c y) :=
  (State.traceColl_started hg hr hq hk ho h1 hy).trans (if_neg hd)

end

/-! ### TRACE_COLL_CANCEL and COLLECTIVE_TIMEOUT (R397, R405) -/

/-- A cancel of an operation that stands aborts it on every member. -/
theorem State.collCancel_ok {s : State} {c : Cmd} {g : TGroup} {x : Coll} (hg : s.groupOf c.pad (c.u32 0) = .ok g)
    (hx : s.coll (BitVec.ofNat 32 (c.u32 0)) (c.u64 4) = some x) :
    s.collCancel c = .ok ((s.abortColl x stCancelled).ok c) := by
  refine bind_of hg ?_
  rw [hx]

/-- COLLECTIVE_TIMEOUT of an operation that stands aborts it at its deadline. -/
theorem exec_collectiveTimeout_of_coll {s : State} {group seq : Nat} {c : Coll}
    (hc : s.coll (BitVec.ofNat 32 group) seq = some c) :
    exec (.collectiveTimeout group seq) s =
      .next (State.settle ((s.reach c.deadline).abortColl c stCollectiveTimeout)) := by
  refine event_eq ?_
  rw [hc]

/-- COLLECTIVE_TIMEOUT of no operation is that of a mooring group. -/
theorem exec_collectiveTimeout_without_coll {s : State} {group seq : Nat}
    (hc : s.coll (BitVec.ofNat 32 group) seq = none) :
    exec (.collectiveTimeout group seq) s = .next (State.settle (s.moorTimeout group)) := by
  refine event_eq ?_
  rw [hc]

/-! ### The commands and the event -/

/-- Settles O46: each command is ready, its checks pass one after another, and its body succeeds in the branch that the
conditions name; the event takes that of an operation or of a mooring group. The layout of the group records (log
entry 11), the limits and parameters of collectives (log entries 87 and 102) and that a staging range in use is refused
(log entry 174) are the model's choices. -/
theorem groupAndCollectiveCommands : Obligations.GroupAndCollectiveCommands := by
  refine ⟨?create, ?createExpert, ?destroy, ?destroyWaits, ?destroyExpert, ?ended, ?dispatch, ?other, ?expertEnded,
    ?expertDispatch, ?expertOther, ?cancel, ?cancelExpert, ?query, ?queryExpert, ?timeout, ?timeoutMoor⟩
  case create =>
    intro z wid hm c h s mib ops merge timeout kib addr hc id n hk bs x1 hr ms hs chunk len hg gs hq at_ own s1 ha
    exact run_ok h (State.groupCreate_ok hc hk hr hs hg hq ha)
  case createExpert =>
    intro z wid hm c h s mib ops merge timeout kib addr hc id n hk bs x1 hr ms hs chunk len hg gs hq at_ own s1 ha
    exact run_ok h (State.groupCreate_ok hc hk hr hs hg hq ha)
  case destroy =>
    intro z wid c h s k g hg
    exact run_ok h (bind_of hg rfl)
  case destroyWaits =>
    intro z wid c h s x1 hg hw
    exact run_ok h (bind_of hg (if_pos hw))
  case destroyExpert =>
    intro z wid c h s x1 hx hw k g hg
    exact run_ok h (bind_of hx ((if_neg hw).trans (bind_of hg rfl)))
  case ended =>
    intro z wid c h s g hg n x0 hr q hq x1 hk x ho s1 h1 hx
    exact run_ok h (State.traceColl_ended hg hr hq hk ho h1 hx)
  case dispatch =>
    intro z wid c h s g hg n x0 hr q hq x1 hk x ho s1 h1 y hy s2 s3 hd
    exact run_ok h (State.traceColl_dispatch hg hr hq hk ho h1 hy hd)
  case other =>
    intro z wid c h s g hg n x0 hr q hq x1 hk x ho s1 h1 y hy s2 s3 hd
    exact run_ok h (State.traceColl_other hg hr hq hk ho h1 hy hd)
  case expertEnded =>
    intro z wid hm c h s g hg n x0 hr q hq x1 hk x ho s1 h1 hx
    exact run_ok h (State.traceColl_ended hg hr hq hk ho h1 hx)
  case expertDispatch =>
    intro z wid hm c h s g hg n x0 hr q hq x1 hk x ho s1 h1 y hy s2 s3 hd
    exact run_ok h (State.traceColl_dispatch hg hr hq hk ho h1 hy hd)
  case expertOther =>
    intro z wid hm c h s g hg n x0 hr q hq x1 hk x ho s1 h1 y hy s2 s3 hd
    exact run_ok h (State.traceColl_other hg hr hq hk ho h1 hy hd)
  case cancel =>
    intro z wid c h s g hg x hx
    exact run_ok h (State.collCancel_ok hg hx)
  case cancelExpert =>
    intro z wid c h s t g hg x hx
    exact run_ok h (State.collCancel_ok hg hx)
  case query =>
    intro z wid c h s g hg s1 hw
    exact run_ok h (bind_of hg (bind_of hw rfl))
  case queryExpert =>
    intro z wid c h s gs s1 hw
    exact run_ok h (bind_of hw rfl)
  case timeout => exact fun group seq s c hc => exec_collectiveTimeout_of_coll hc
  case timeoutMoor => exact fun group seq s hc => exec_collectiveTimeout_without_coll hc

end Sys2Proof.Machine
end

section
/-! The port, time, window, send, receive and cancel commands (R375, R379, R383, R402 to R404, R410): the equations of a
registration, a send, a receive, a cancel and the actions of a port command, where their checks pass. -/

namespace Sys2Proof.Machine

/-! ### Windows (R402, R403) -/

/-- A window as it is registered. -/
def newWindow (c : Cmd) : Window :=
  { paddock := c.pad, slots := c.u32 4, slotBytes := c.u32 8, group := BitVec.ofNat 32 (c.u32 12), addr := c.u64 16
    full := [], busy := [], recvs := [] }

/-- The state in which a window stands under its number. -/
def State.addWindow (s : State) (k : Nat) (v : Window) : State :=
  { s with trace := { s.trace with windows := tput s.trace.windows k v } }

/-- The state in which a window is gone. -/
def State.dropWindow (s : State) (k : Nat) : State :=
  { s with trace := { s.trace with windows := tdel s.trace.windows k } }

/-- TRACE_WINDOW_REGISTER of a new window, of no group or of one of the caller's, in a range of the caller's. -/
theorem traceWindowRegisterBody_ok {s : State} {c : Cmd} (hm : (!c.mgmt) = true)
    (hk : (1 ≤ c.u32 0 && c.u32 0 ≤ 65535 && 1 ≤ c.u32 4 && 1 ≤ c.u32 8) = true)
    (hn : (!thas s.trace.windows (c.u32 0)) = true)
    (hg : (c.u32 12 != 0) = true → ∃ g, s.groupOf c.pad (c.u32 12) = .ok g)
    (hr : s.collRange c (c.u64 16) (c.u32 4 * c.u32 8) = .ok ()) :
    traceWindowRegisterBody c s = .ok ((s.addWindow (c.u32 0) (newWindow c)).ok c) := by
  refine need_of hm <| need_of hk <| need_of hn ?_
  by_cases h : (c.u32 12 != 0) = true
  · obtain ⟨g, hg⟩ := hg h
    exact (if_pos h).trans (bind_of hg (bind_of hr rfl))
  · exact (if_neg h).trans (bind_of hr rfl)

/-! ### Messages (R402 to R404) -/

/-- The numbers of the poisoned lines of a send's data. -/
def State.sendPoison (s : State) (loc : Loc) (bs : List Byte) (bad : Bool) : List Nat :=
  match loc with
  | .host _ => if bad then List.range ((bs.length + 255) / 256) else []
  | .part a _ =>
    (List.range ((bs.length + 255) / 256)).filter fun l => s.poisoned (a + 256 * l) (min 256 (bs.length - 256 * l))

/-- A send as it waits for its end. -/
def State.newSend (s : State) (c : Cmd) (timeout : Nat) : Send :=
  { wid := c.w, paddock := c.pad, dest := BitVec.ofNat 16 (c.u16 0), window := c.u32 4, number := none
    deadline := s.t + timeout * msNs }

/-- The state in which a send stands. -/
def State.addSend (s : State) (x : Send) : State :=
  { s with trace := { s.trace with sends := s.trace.sends ++ [x] } }

/-- The window message of a send. -/
def State.sendMsg (s : State) (c : Cmd) (bs : List Byte) (poison : List Nat) : Msg :=
  { s.newMsg (BitVec.ofNat 16 (c.u16 0)) 4 (BitVec.ofNat 32 (c.u32 4)) 0 with
    len := bs.length, data := bs, poison := poison }

/-- TRACE_SEND in its ranges reads its data at dispatch and queues its message. -/
theorem State.traceSend_ok {s : State} {c : Cmd} {timeout : Nat} {loc : Loc} (hm : (!c.mgmt) = true)
    (hk : (1 ≤ c.u32 4 && c.u32 4 ≤ 65535 && c.u32 8 ≤ 4194304) = true)
    (hr : s.resolve c (c.u64 16) (c.u32 8) false = .ok loc) :
    s.traceSend c timeout =
      .ok (let r := s.readLoc c loc (c.u32 8)
        let t := s.addSend (s.newSend c timeout)
        t.enqueue (t.sendMsg c r.1 (s.sendPoison loc r.1 r.2)) c.w c.pad) :=
  need_of hm <| need_of hk <| bind_of hr rfl

/-- The state in which a send of a command is gone, with its message if that is still queued. -/
def State.dropSend (s : State) (w : BitVec 64) : State :=
  { s with trace := { s.trace with
    sends := s.trace.sends.filter fun y => y.wid != w, queue := s.trace.queue.filter fun y => y.wid != w } }

/-- A cancel of a send whose message has no number yet ends both. -/
theorem State.msgCancel_ok {s : State} {c : Cmd} {x : Send}
    (hx : (s.trace.sends.find? fun x => x.wid = BitVec.ofNat 64 (c.u64 0) && x.paddock = c.pad) = some x)
    (hn : ¬x.number.isSome = true) :
    s.msgCancel c =
      .ok (((s.dropSend (BitVec.ofNat 64 (c.u64 0))).complete (BitVec.ofNat 64 (c.u64 0)) stCancelled).ok c) := by
  unfold State.msgCancel
  dsimp only
  rw [hx]
  exact if_neg hn

/-- SEND_TIMEOUT of a send whose message is still queued ends it at its deadline. -/
theorem exec_sendTimeout_of_queued {s : State} {w : BitVec 64} {x : Send}
    (hx : (s.trace.sends.find? fun x => x.wid = w) = some x) (hq : ¬(!s.trace.queue.any fun y => y.wid = w) = true) :
    exec (.sendTimeout w) s =
      .next (State.settle (((s.reach x.deadline).dropSend w).complete w stPeerUnreachable)) := by
  refine event_eq ?_
  rw [hx]
  exact if_neg hq

/-! ### Ports (R375, R379 to R381) -/

/-- A retrain that a command asks for in ADMITTED or RETRAINING. -/
theorem State.retrainCmd_ok {s : State} {c : Cmd} {p width : Nat}
    (hs : ((s.port p).state = .admitted || (s.port p).state = .retraining) = true) :
    s.retrainCmd c p width =
      .ok ((s.modPort p fun q => { q with retrainBy := q.retrainBy ++ [c.w] }).askRetrain p width) :=
  need_of hs rfl

section
variable {s : State} {c : Cmd} {p : Nat} (hp : c.portNo = .ok p)
include hp

/-- TRACE_PORT_CONTROL with action 0 asks for a retrain at the widest good width. -/
theorem tracePortControlBody_retrain (ha : c.u32 4 = 0) :
    tracePortControlBody c s = s.retrainCmd c p (goodWidth (s.port p).lanesBad) := by
  refine bind_of hp ?_
  dsimp only
  rw [ha]
  rfl

/-- TRACE_PORT_CONTROL with action 1 asks for a swap of stewards on an ADMITTED direct link. -/
theorem tracePortControlBody_swap (ha : c.u32 4 = 1)
    (hs : ((s.port p).state = .admitted && !(s.port p).peerSwitch && (s.port p).swapBy.isNone) = true) :
    tracePortControlBody c s = .ok (s.askSwap p c.w) := by
  refine bind_of hp ?_
  dsimp only
  rw [ha]
  exact need_of hs rfl

/-- Action 2 disables a port that is DOWN or ADMITTED. -/
theorem tracePortControlExpertBody_disable (ha : c.u32 4 = 2)
    (hs : ((s.port p).state = .down || (s.port p).state = .admitted) = true) :
    tracePortControlExpertBody c s = .ok (((s.failPort p).enterPort p .disabled).ok c) := by
  refine bind_of hp ?_
  dsimp only
  rw [ha]
  exact need_of hs rfl

/-- Action 3 enables a DISABLED port. -/
theorem tracePortControlExpertBody_enable (ha : c.u32 4 = 3) (hs : (s.port p).state = .disabled) :
    tracePortControlExpertBody c s =
      .ok (((s.modPort p fun q => { q with downAt := s.t }).enterPort p .down).ok c) := by
  refine bind_of hp ?_
  dsimp only
  rw [ha]
  exact need_of (decide_eq_true hs) rfl

/-- Action 4 admits a QUARANTINED port. -/
theorem tracePortControlExpertBody_endQuarantine (ha : c.u32 4 = 4) (hs : (s.port p).state = .quarantined) :
    tracePortControlExpertBody c s =
      .ok ((((s.modPort p fun q => { q with violTimes := [] }).enterPort p .admitted).chooseParent).ok c) := by
  refine bind_of hp ?_
  dsimp only
  rw [ha]
  exact need_of (decide_eq_true hs) rfl

/-- Action 5 asks for a retrain at two lanes, from the steward. -/
theorem tracePortControlExpertBody_twoLanes (ha : c.u32 4 = 5)
    (hs : ((s.port p).state = .admitted && (s.port p).steward) = true) :
    tracePortControlExpertBody c s = s.retrainCmd c p 2 := by
  refine bind_of hp ?_
  dsimp only
  rw [ha]
  exact need_of hs rfl

/-- Action 6 asks for a retrain at one lane, from the steward. -/
theorem tracePortControlExpertBody_oneLane (ha : c.u32 4 = 6)
    (hs : ((s.port p).state = .admitted && (s.port p).steward) = true) :
    tracePortControlExpertBody c s = s.retrainCmd c p 1 := by
  refine bind_of hp ?_
  dsimp only
  rw [ha]
  exact need_of hs rfl

end

/-! ### The commands and the event -/

/-- Settles O47: each command is ready, its checks pass one after another, and its body succeeds in the branch that the
conditions name; the event takes that of a send that is still queued. The layouts of the query records (log entry 11),
the window slots (log entry 88), that a send reads its data at dispatch (log entry 89), the cancel of a numbered message
(log entry 90), the port commands in other states (log entry 100) and the counts of corrected symbols (log entry 103)
are the model's choices. -/
theorem portWindowAndMessageCommands : Obligations.PortWindowAndMessageCommands := by
  refine ⟨?register, ?release, ?keep, ?send, ?sendExpert, ?recv, ?recvExpert, ?cancel, ?cancelExpert, ?sendTimeout,
    ?ports, ?portsExpert, ?retrain, ?swap, ?disable, ?enable, ?endQuarantine, ?twoLanes, ?oneLane, ?timeQuery, ?timeConfig⟩
  case register =>
    intro z wid c h s hc k hk hn hg hr v
    exact run_ok h (traceWindowRegisterBody_ok hc hk hn hg hr)
  case release =>
    intro z wid c h s v hv hf
    exact run_ok h (bind_of hv (if_pos hf))
  case keep =>
    intro z wid c h s v hv hf
    exact run_ok h (bind_of hv (if_neg hf))
  case send =>
    intro z wid hm c h s timeout hc hk loc hr p1 bs bad lines dest x s1
    exact run_ok h (State.traceSend_ok hc hk hr)
  case sendExpert =>
    intro z wid hm c h s timeout hc hk loc hr p1 bs bad lines dest x s1
    exact run_ok h (State.traceSend_ok hc hk hr)
  case recv =>
    intro z wid c h s x1 hv s1
    exact run_ok h (bind_of hv rfl)
  case recvExpert =>
    intro z wid c h s v hv hb
    exact run_ok h (bind_of hv (need_of hb rfl))
  case cancel =>
    intro z wid c h s w x hx y hn s1
    exact run_ok h (State.msgCancel_ok hx hn)
  case cancelExpert =>
    intro z wid c h s w x hx y hn s1
    exact run_ok h (State.msgCancel_ok hx hn)
  case sendTimeout =>
    intro w z s x hx y hq s1 s2
    exact exec_sendTimeout_of_queued hx hq
  case ports =>
    intro z wid c h s s1 hw
    exact run_ok h (bind_of hw rfl)
  case portsExpert =>
    intro z wid c h s ps s' s1 hw
    exact run_ok h (bind_of hw rfl)
  case retrain =>
    intro z wid c h s p hp q ha width hs
    exact run_ok h ((tracePortControlBody_retrain hp ha).trans (State.retrainCmd_ok hs))
  case swap =>
    intro z wid c h s p hp q ha hs
    exact run_ok h (tracePortControlBody_swap hp ha hs)
  case disable =>
    intro z wid c h s p hp q ha hs
    exact run_ok h (tracePortControlExpertBody_disable hp ha hs)
  case enable =>
    intro z wid c h s p hp q ha hs
    exact run_ok h (tracePortControlExpertBody_enable hp ha hs)
  case endQuarantine =>
    intro z wid c h s p hp q ha hs
    exact run_ok h (tracePortControlExpertBody_endQuarantine hp ha hs)
  case twoLanes =>
    intro z wid c h s p hp q ha hs width hr
    exact run_ok h ((tracePortControlExpertBody_twoLanes hp ha hs).trans (State.retrainCmd_ok hr))
  case oneLane =>
    intro z wid c h s p hp q ha hs width hr
    exact run_ok h ((tracePortControlExpertBody_oneLane hp ha hs).trans (State.retrainCmd_ok hr))
  case timeQuery =>
    intro z wid c h s tm b s1 hw
    exact run_ok h (bind_of hw rfl)
  case timeConfig =>
    intro z wid c h s id tm
    exact run_ok h rfl

end Sys2Proof.Machine
end

section
/-! Joining grants (R304, R349, R394, log entry 164): a grant of the chunk number that joins records the sender's rank
among those that have joined, and so does not enter the grants that the operation has come by. -/

namespace Sys2Proof.Machine

/-! ### A part with a DISPATCH under way, as a joining grant arrives -/

/-- A group of two parts, in which this part has rank 0. -/
def pairGroup : TGroup :=
  { paddock := some 0, members := [0#16, 1#16], rank := 0, staging := 0, stagingLen := 0, stagingOwn := false, ops := 1
    merge := 1, timeout := 1, chunk := 0, issued := 0, completed := 0, aborted := [], greeted := [], dispatched := [] }

/-- A DISPATCH of the group that stands as number 1, with nothing done yet. -/
def openDispatch : Coll := newColl 1#64 0 1#32 6 0 0

/-- Port 0, ADMITTED, with the group's other part at its far end. -/
def peerPort : Port := { Port.reset with state := .admitted, peer := some 1#16 }

/-- A part as it is after reset, with that port, group and operation, and its masters stopped. -/
def dispatching : State :=
  { State.reset with
    part := { State.reset.part with mastersStopped := true }
    trace := { State.reset.trace with
      ports := [(0, peerPort)], groups := [(1, pairGroup)], colls := [openDispatch] } }

/-- The joining grant of the other part for that operation. -/
def joiningGrant : Msg :=
  { dest := 0#16, src := 1#16, mtag := 0#16, kind := 1, fwd := false, resend := false, round := 0, group := 1#32, seq := 0
    off := 0, len := 0, chunk := joinChunk, rank := 1, status := 0#16, shape := openDispatch.shape, members := none
    window := false, data := [], poison := [], fseq := 0, crc := true, reserved := false }

/-- The ranks that have joined each operation in an answered state. -/
def joinedRanks : Host.Outcome State Fault Refusal → Option (List (List Nat))
  | .next s => some (s.trace.colls.map (·.joined))
  | _ => none

/-- The joining grant enters the sender's rank among those that have joined. -/
theorem joinedRanks_joiningGrant : joinedRanks (exec (.grant 0 joiningGrant) dispatching) = some [[1]] := by
  decide +kernel

/-- Refutes O48: its clause for GRANT has any grant of an open operation, whose chunk a DISPATCH does not check, enter
the operation's grants, while the joining grant of a member (chunk 2^32 - 1, log entry 164) is recorded among the ranks
that have joined. -/
theorem not_arrivingMessages : ¬ Obligations.ArrivingMessages := by
  rintro ⟨-, -, -, -, hgrant, -⟩
  have h := hgrant 0 joiningGrant dispatching (by decide +kernel) pairGroup (by decide +kernel) openDispatch
    (by decide +kernel) (by decide +kernel) (by decide +kernel) (by decide +kernel) (by decide +kernel)
  have hj := congrArg joinedRanks h
  rw [joinedRanks_joiningGrant] at hj
  exact absurd hj (by decide +kernel)

end Sys2Proof.Machine
end

section
/-! Credit, acknowledge, retry, refuse, time and steward records (R373, R374, R376, R381, R382, R384, R385): the
equations of a refusal by its reason, of an exchange of time, and of a swap of stewards. -/

namespace Sys2Proof.Machine

/-! ### REFUSE and REFUSE_RESEND (R376) -/

/-- The state in which the credits of a message are back. -/
def State.creditsBack (s : State) (p : Nat) (m : Msg) : State :=
  s.modPort p fun q => { q with
    credPeer := tputD (baseCredit m.vc) q.credPeer m.vc (creditOf q.credPeer m.vc + BitVec.ofNat 32 m.flits) }

/-- The state in which a message of a port is no longer kept. -/
def State.dropSent (s : State) (p : Nat) (mtag : BitVec 16) : State :=
  { s with trace := { s.trace with sent := s.trace.sent.filter fun y => !(y.port = p && y.msg.mtag = mtag) } }

/-- The state in which a message waits 1 ms to be sent again. -/
def State.queueAgain (s : State) (x : TSent) : State :=
  { s with trace := { s.trace with
    queue := s.trace.queue ++ [{ msg := x.msg, wid := x.wid, pad := x.pad, notBefore := s.t + msNs }] } }

/-- The state in which the send of a command has ended with a status. -/
def State.endSend (s : State) (w : BitVec 64) (st : BitVec 16) : State :=
  ({ s with trace := { s.trace with sends := s.trace.sends.filter fun e => e.wid != w } } : State).complete w st

/-- The state in which a rank's grant of a chunk is due again in 1 ms. -/
def State.grantAgain (s : State) (w : BitVec 64) (rank chunk due : Nat) : State :=
  s.modColl w fun c => { c with reissue := c.reissue ++ [(rank, chunk, due)] }

/-- The rank of a part in a group. -/
def TGroup.rankOf (g : TGroup) (d : BitVec 16) : Option Nat :=
  (List.range g.members.length).find? fun r => g.members[r]? = some d

/-- What a message that a member without its group refuses leaves: its grant is due again in 1 ms. -/
def State.refusedByGroup (s : State) (p : Nat) (mtag : BitVec 16) (m : Msg) : State :=
  match s.coll m.group m.seq, tget s.trace.groups m.group.toNat with
  | some c, some g =>
    match g.rankOf m.dest with
    | some r => (s.dropSent p mtag).grantAgain c.wid r m.chunk (s.t + msNs)
    | none => s.dropSent p mtag
  | _, _ => s.dropSent p mtag

/-- What a message that is refused for good leaves of its operation. -/
def State.refusedColl (s : State) (p : Nat) (mtag : BitVec 16) (m : Msg) : State :=
  match s.coll m.group m.seq with
  | some c => (s.dropSent p mtag).failColl c stTraceProtocol 0
  | none => s.dropSent p mtag

/-- What a refused message leaves, by the reason. -/
def State.refused (s : State) (p : Nat) (mtag : BitVec 16) (reason : Nat) (x : TSent) : State :=
  if reason = rfNotReady || reason = rfQuarantined then (s.dropSent p mtag).queueAgain x
  else if reason = rfWindow then
    if x.msg.kind = 4 then (s.dropSent p mtag).endSend x.wid stBadWindow else s.dropSent p mtag
  else if reason = rfGroup then s.refusedByGroup p mtag x.msg
  else if x.msg.kind = 4 then (s.dropSent p mtag).endSend x.wid stTraceProtocol
  else s.refusedColl p mtag x.msg

/-- REFUSE of a message that is kept gives its credits back, and the reason says what becomes of it. -/
theorem exec_refuse_of_sent {s : State} {p reason : Nat} {mtag : BitVec 16} {x : TSent}
    (hx : (s.trace.sent.find? fun x => x.port = p && x.msg.mtag = mtag) = some x) :
    exec (.refuse p mtag reason) s = .next (State.settle ((s.creditsBack p x.msg).refused p mtag reason x)) := by
  refine event_eq ?_
  rw [hx]
  rfl

section
variable {s : State} {p reason : Nat} {mtag : BitVec 16} {x : TSent}

/-- A message that the other end cannot take yet is sent again. -/
theorem State.refused_notReady (hr : (reason = rfNotReady || reason = rfQuarantined) = true) :
    s.refused p mtag reason x = (s.dropSent p mtag).queueAgain x := if_pos hr

variable (hr : ¬(reason = rfNotReady || reason = rfQuarantined) = true)
include hr

/-- A window message that its window refuses ends its send. -/
theorem State.refused_window_message (hw : reason = rfWindow) (hk : x.msg.kind = 4) :
    s.refused p mtag reason x = (s.dropSent p mtag).endSend x.wid stBadWindow :=
  (if_neg hr).trans ((if_pos hw).trans (if_pos hk))

/-- Another message that is refused so is dropped. -/
theorem State.refused_window_other (hw : reason = rfWindow) (hk : ¬x.msg.kind = 4) :
    s.refused p mtag reason x = s.dropSent p mtag :=
  (if_neg hr).trans ((if_pos hw).trans (if_neg hk))

variable (hw : ¬reason = rfWindow)
include hw

/-- A message that a part without its group refuses. -/
theorem State.refused_group (hg : reason = rfGroup) :
    s.refused p mtag reason x = s.refusedByGroup p mtag x.msg :=
  (if_neg hr).trans ((if_neg hw).trans (if_pos hg))

variable (hg : ¬reason = rfGroup)
include hg

/-- A window message refused for another reason ends its send. -/
theorem State.refused_protocol_message (hk : x.msg.kind = 4) :
    s.refused p mtag reason x = (s.dropSent p mtag).endSend x.wid stTraceProtocol :=
  (if_neg hr).trans ((if_neg hw).trans ((if_neg hg).trans (if_pos hk)))

/-- A message of a collective refused for another reason ends its operation. -/
theorem State.refused_protocol_coll (hk : ¬x.msg.kind = 4) :
    s.refused p mtag reason x = s.refusedColl p mtag x.msg :=
  (if_neg hr).trans ((if_neg hw).trans ((if_neg hg).trans (if_neg hk)))

end

section
variable {s : State} {p : Nat} {mtag : BitVec 16} {m : Msg} {c : Coll} (hc : s.coll m.group m.seq = some c)
include hc

/-- A refusal for good fails the operation that stands. -/
theorem State.refusedColl_some :
    s.refusedColl p mtag m = (s.dropSent p mtag).failColl c stTraceProtocol 0 := by
  unfold State.refusedColl
  rw [hc]

variable {g : TGroup} (hg : tget s.trace.groups m.group.toNat = some g)
include hg

/-- A grant of an open operation to a member is due again. -/
theorem State.refusedByGroup_member {r : Nat} (hr : g.rankOf m.dest = some r) :
    s.refusedByGroup p mtag m = (s.dropSent p mtag).grantAgain c.wid r m.chunk (s.t + msNs) := by
  unfold State.refusedByGroup
  rw [hc, hg]
  dsimp only
  rw [hr]

/-- A message to a part that is no member is dropped. -/
theorem State.refusedByGroup_stranger (hr : g.rankOf m.dest = none) :
    s.refusedByGroup p mtag m = s.dropSent p mtag := by
  unfold State.refusedByGroup
  rw [hc, hg]
  dsimp only
  rw [hr]

end

/-- A refusal for good of a message without an operation drops it. -/
theorem State.refusedColl_none {s : State} {p : Nat} {mtag : BitVec 16} {m : Msg}
    (hc : s.coll m.group m.seq = none) : s.refusedColl p mtag m = s.dropSent p mtag := by
  unfold State.refusedColl
  rw [hc]

/-- REFUSE_RESEND of a message that waits for its time moves the time to it. -/
theorem exec_refuseResend_of_queued {s : State} {mtag : BitVec 16} {x : TMsg}
    (hx : (s.trace.queue.find? fun x => x.msg.mtag = mtag && x.notBefore != 0) = some x) :
    exec (.refuseResend mtag) s = .next (State.settle (s.reach x.notBefore)) := by
  refine event_eq ?_
  rw [hx]

/-! ### Time (R384, R385) -/

/-- The state with a record of time exchanges. -/
def State.withTime (s : State) (tm : TimeSync) : State := { s with trace := { s.trace with time := tm } }

/-- SYNC without a parent is a violation. -/
theorem exec_sync_without_parent {s : State} {p : Nat} {t1 : BitVec 64} {corr : Int}
    (hp : s.trace.time.parent = none) : exec (.sync p t1 corr) s = .next (State.settle (s.portViolation p 8)) := by
  refine event_eq ?_
  dsimp only
  rw [hp]

/-- SYNC from the parent, not before the last, is stamped and answered; another is a violation. -/
theorem exec_sync_of_parent {s : State} {p q : Nat} {t1 : BitVec 64} {corr : Int} {d : BitVec 16}
    (hp : s.trace.time.parent = some (d, q)) :
    exec (.sync p t1 corr) s = .next (State.settle
      (if (q = p && s.trace.time.lastT1.toNat ≤ t1.toNat) = true then
        (s.withTime { s.trace.time with
          t1 := t1, t2 := s.now, t3 := s.now, corr := corr, lastT1 := t1 }).ctl p (.delayReq s.now)
      else s.portViolation p 8)) := by
  refine event_eq ?_
  dsimp only
  rw [hp]
  rfl

/-- The delays of an exchange of time up to the parent and down from it. -/
def TimeSync.upDown (tm : TimeSync) (t4 : BitVec 64) : Int × Int :=
  ((tm.t2.toNat : Int) - tm.t1.toNat, (t4.toNat : Int) - tm.t3.toNat)

/-- The last 16 offsets with that of an exchange. -/
def TimeSync.newOffsets (tm : TimeSync) (t4 : BitVec 64) : List Int :=
  (tm.offsets ++ [((tm.upDown t4).1 - (tm.upDown t4).2) / 2 - tm.corr / 2]).drop (tm.offsets.length - 15)

/-- The record of time after an exchange. -/
def TimeSync.exchanged (tm : TimeSync) (t4 : BitVec 64) : TimeSync :=
  { tm with
    lastT4 := t4, offsets := tm.newOffsets t4, delay := ((tm.upDown t4).1 + (tm.upDown t4).2) / 2, holdover := none }

/-- What an exchange of time does to the time base: a part that has stepped slews, and one that has not steps with its
sixteenth offset. -/
def State.timeExchanged (s : State) (t4 : BitVec 64) : State :=
  if (s.trace.time.exchanged t4).stepped then
    s.withTime { s.trace.time.exchanged t4 with slew := -meanInt (s.trace.time.newOffsets t4) }
  else if (s.trace.time.newOffsets t4).length < 16 then s.withTime (s.trace.time.exchanged t4)
  else
    { s with
      now := BitVec.ofInt 64 ((s.now.toNat : Int) - meanInt (s.trace.time.newOffsets t4))
      trace := { s.trace with time := { s.trace.time.exchanged t4 with stepped := true, offsets := [] } } }

/-- DELAY_RESP without a parent is a violation. -/
theorem exec_delayResp_without_parent {s : State} {p : Nat} {t4 : BitVec 64} (hp : s.trace.time.parent = none) :
    exec (.delayResp p t4) s = .next (State.settle (s.portViolation p 8)) := by
  refine event_eq ?_
  dsimp only
  rw [hp]

/-- DELAY_RESP from the parent, not before the last, ends an exchange of time; another is a violation. -/
theorem exec_delayResp_of_parent {s : State} {p q : Nat} {t4 : BitVec 64} {d : BitVec 16}
    (hp : s.trace.time.parent = some (d, q)) :
    exec (.delayResp p t4) s = .next (State.settle
      (if (!(q = p && s.trace.time.lastT4.toNat ≤ t4.toNat)) = true then s.portViolation p 8
      else s.timeExchanged t4)) := by
  refine event_eq ?_
  dsimp only
  split
  · next h =>
    cases hp.symm.trans h
    rfl
  · next h => cases hp.symm.trans h

/-- The state in which a port's last SYNC is of now. -/
def State.syncStamped (s : State) (p : Nat) : State :=
  s.withTime { s.trace.time with lastSync := tputD 0 s.trace.time.lastSync p s.t }

/-- SYNC_TIMER of an ADMITTED port whose other end takes its time from this part sends SYNC 1/256 s after the last. -/
theorem exec_syncTimer_of_master {s : State} {p : Nat}
    (ha : ¬((s.port p).state != .admitted || !((s.port p).steward || (s.port p).peerSwitch)) = true) :
    exec (.syncTimer p) s = .next (State.settle
      (let t := s.reach (tgetD 0 s.trace.time.lastSync p + 3906250)
       (t.syncStamped p).ctl p (.sync t.now))) := by
  refine event_eq ?_
  rw [if_neg ha]
  rfl

/-- TIME_PARENT_LOSS of a parent whose port carries no traffic: the part holds over and chooses again. -/
theorem exec_timeParentLoss_of_lost {s : State} {p : Nat} {d : BitVec 16} (hp : s.trace.time.parent = some (d, p))
    (ha : ¬(s.port p).state = .admitted) :
    exec .timeParentLoss s = .next (State.settle
      (((s.withTime { s.trace.time with parent := none, holdover := some s.t }).logEv evTimeParent 0xFF#8 0#16
        p).chooseParent)) := by
  refine event_eq ?_
  rw [hp]
  exact if_neg ha

/-! ### Stewards (R381, R382) -/

section
variable {s : State} {p : Nat} (ha : ¬((s.port p).state != .admitted || (s.port p).peerSwitch) = true)
include ha

/-- A swap request meets no request of this end and is granted. -/
theorem exec_stewardSwapRequest_granted (hw : (s.port p).swapBy = none) :
    exec (.stewardSwapRequest p) s = .next (State.settle (s.grantSwap p)) := by
  refine event_eq ((if_neg ha).trans ?_)
  rw [hw]

/-- A swap request of the part with the higher identifier ends this end's own, and is granted. -/
theorem exec_stewardSwapRequest_yielded {w : BitVec 64} (hw : (s.port p).swapBy = some w)
    (hi : s.part.partId.toNat < ((s.port p).peer.getD 0#16).toNat) :
    exec (.stewardSwapRequest p) s = .next (State.settle
      (((s.modPort p fun q => { q with swapBy := none }).complete w stRoleConflict).grantSwap p)) := by
  refine event_eq ((if_neg ha).trans ?_)
  rw [hw]
  exact if_pos hi

end

/-- A swap that is granted exchanges the roles and completes its command. -/
theorem exec_stewardSwapGrant_of_swap {s : State} {p : Nat} {w : BitVec 64} (hw : (s.port p).swapBy = some w) :
    exec (.stewardSwapGrant p) s = .next (State.settle
      (((s.modPort p fun q => { q with swapBy := none, steward := !q.steward }).complete w stOk).chooseParent)) := by
  refine event_eq ?_
  dsimp only
  rw [hw]

/-! ### The events -/

/-- Settles O49: each event whose conditions hold takes the branch of its meaning that they name. The time filter (log
entry 98), who asks for a swap (log entry 99) and how the credits of a refused message return (log entry 101) are the
model's choices. -/
theorem linkControlRecords : Obligations.LinkControlRecords := by
  refine ⟨?credit, ?creditTimer, ?ackBeyond, ?ack, ?ackTimer, ?retry, ?retryEighth, ?again, ?window, ?windowOther,
    ?group, ?groupStranger, ?protocol, ?protocolColl, ?protocolOther, ?resend, ?sync, ?syncStray, ?syncOrphan, ?delayReq,
    ?delayStray, ?slews, ?gathers, ?steps, ?delayOrphan, ?syncTimer, ?parentLoss, ?swapGranted, ?swapYielded, ?swapGrant⟩
  case credit =>
    intro p c1 c2 c3 s hu
    exact event_eq (if_neg (not_denied hu))
  case creditTimer =>
    intro p z s q hu s1 g
    exact event_eq (if_neg (not_denied hu))
  case ackBeyond =>
    intro p seq s q n hu hb
    exact event_eq ((if_neg (not_denied hu)).trans (if_pos hb))
  case ack =>
    intro p seq s q n hu hb left
    exact event_eq ((if_neg (not_denied hu)).trans (if_neg hb))
  case ackTimer =>
    intro p z s q hu s1
    exact event_eq (if_neg hu)
  case retry =>
    intro p seq z s q n hu cnt s1 hc
    exact event_eq ((if_neg (not_denied hu)).trans (if_pos hc))
  case retryEighth =>
    intro p seq z s q n hu cnt s1 hc
    exact event_eq ((if_neg (not_denied hu)).trans (if_neg hc))
  case again =>
    intro p mtag reason z s x hx y m s1 drop hr s2
    exact exec_of_eq (exec_refuse_of_sent hx) (State.refused_notReady hr)
  case window =>
    intro p mtag reason z s x hx y m s1 drop endSend hr hw hk
    exact exec_of_eq (exec_refuse_of_sent hx) (State.refused_window_message hr hw hk)
  case windowOther =>
    intro p mtag reason z s x hx y m s1 drop hr hw hk
    exact exec_of_eq (exec_refuse_of_sent hx) (State.refused_window_other hr hw hk)
  case group =>
    intro p mtag reason z s x hx y m s1 drop hr hw hg c hc g hgr r hk k
    exact exec_of_eq (exec_refuse_of_sent hx)
      ((State.refused_group hr hw hg).trans (State.refusedByGroup_member hc hgr hk))
  case groupStranger =>
    intro p mtag reason z s x hx y m s1 drop hr hw hg c hc g hgr hk
    exact exec_of_eq (exec_refuse_of_sent hx)
      ((State.refused_group hr hw hg).trans (State.refusedByGroup_stranger hc hgr hk))
  case protocol =>
    intro p mtag reason z s x hx y m s1 drop endSend hr hw hg hk
    exact exec_of_eq (exec_refuse_of_sent hx) (State.refused_protocol_message hr hw hg hk)
  case protocolColl =>
    intro p mtag reason z s x hx y m s1 drop hr hw hg hk c hc
    exact exec_of_eq (exec_refuse_of_sent hx)
      ((State.refused_protocol_coll hr hw hg hk).trans (State.refusedColl_some hc))
  case protocolOther =>
    intro p mtag reason z s x hx y m s1 drop hr hw hg hk hc
    exact exec_of_eq (exec_refuse_of_sent hx)
      ((State.refused_protocol_coll hr hw hg hk).trans (State.refusedColl_none hc))
  case resend =>
    intro mtag s x hx y
    exact exec_refuseResend_of_queued hx
  case sync =>
    intro p t1 corr s tm q d hp hq
    exact exec_of_eq (exec_sync_of_parent hp) (if_pos hq)
  case syncStray =>
    intro p t1 corr s tm q d hp hq
    exact exec_of_eq (exec_sync_of_parent hp) (if_neg hq)
  case syncOrphan =>
    intro p t1 corr s tm hp
    exact exec_sync_without_parent hp
  case delayReq =>
    intro p t3 s ha
    exact event_eq (if_pos ha)
  case delayStray =>
    intro p t4 s tm q d hp hq
    exact exec_of_eq (exec_delayResp_of_parent hp) (if_pos hq)
  case slews =>
    intro p t4 s tm q d hp hq up down offs tm' mean hs
    exact exec_of_eq (exec_delayResp_of_parent hp) ((if_neg hq).trans (if_pos hs))
  case gathers =>
    intro p t4 s tm q d hp hq up down offs tm' hs hl
    exact exec_of_eq (exec_delayResp_of_parent hp) ((if_neg hq).trans ((if_neg hs).trans (if_pos hl)))
  case steps =>
    intro p t4 s tm q d hp hq up down offs tm' mean hs hl
    exact exec_of_eq (exec_delayResp_of_parent hp) ((if_neg hq).trans ((if_neg hs).trans (if_neg hl)))
  case delayOrphan =>
    intro p t4 s tm hp
    exact exec_delayResp_without_parent hp
  case syncTimer =>
    intro p z s q ha s1
    exact exec_syncTimer_of_master ha
  case parentLoss =>
    intro s p d hp ha tm
    exact exec_timeParentLoss_of_lost hp ha
  case swapGranted =>
    intro p s q ha hw
    exact exec_stewardSwapRequest_granted ha hw
  case swapYielded =>
    intro p s q ha w hw hi
    exact exec_stewardSwapRequest_yielded ha hw hi
  case swapGrant =>
    intro p s q w hw
    exact exec_stewardSwapGrant_of_swap hw

end Sys2Proof.Machine
end

section
/-! The mooring commands (R426, R430, R433, R435, R436, R438): the equation of the body that the two levels of a command
share, where its checks pass. -/

namespace Sys2Proof.Machine

/-! ### RESIL_MOOR_CREATE (R426, R427) -/

/-- Whether a creation's number is free, and its cell counts and members are in range (Table 12-10). -/
def State.moorFits (s : State) (c : Cmd) : Bool :=
  c.u32 0 ≠ 0 && !thas s.moors (c.u32 0) && 2 ≤ c.u8 6 && c.u8 6 ≤ 14 && 1 ≤ c.u8 7 && c.u8 7 ≤ 4 &&
    c.u16 4 = c.u8 6 + c.u8 7 && c.u16 4 ≤ 18

/-- The bytes of the spare list that a creation names, none without a list. -/
def State.spareBytes (s : State) (c : Cmd) (q : MoorReq) : Except Err (List Byte × Bool) :=
  if q.spares = 0 then .ok ([], false) else s.readBuf c q.spares 8

/-- The spares that a list names; 0xFFFF is no part. -/
def sparesIn (bs : List Byte) : List (BitVec 16) := (partsOf bs (bs.length / 2)).filter fun p => p != 0xFFFF#16

/-- Whether this part is a member, or a spare, as the command's role says. -/
def State.hasRole (s : State) (c : Cmd) (members spares : List (BitVec 16)) : Bool :=
  if c.u32 16 = 0 then members.contains s.part.partId && !spares.contains s.part.partId
  else spares.contains s.part.partId || members.contains s.part.partId

/-- The cells of the caller's moored space. -/
def State.cellsMoored (s : State) (c : Cmd) : Nat := s.spaceLen (s.mooredOf c.pad) / cellBytes

/-- The cells of each member of a new group. -/
def State.moorCells (s : State) (c : Cmd) (most : Nat) : Nat := roundUp (max (s.cellsMoored c) most) (c.u8 6)

/-- The rank of this part in a new group, none for a spare. -/
def State.moorRank (s : State) (c : Cmd) (members : List (BitVec 16)) : Option Nat :=
  if c.u32 16 = 0 then some (members.findIdx (· == s.part.partId)) else none

/-- A group as it is created: every moored cell is dirty. -/
def State.newMoor (s : State) (c : Cmd) (q : MoorReq) (members spares : List (BitVec 16)) (most parity : Nat) : Moor :=
  { paddock := c.pad, k := c.u8 6, m := c.u8 7, members := members, spares := spares, rank := s.moorRank c members
    auto := q.auto, timeout := q.timeout, c := s.moorCells c most, parity := parity
    parityOwn := q.parity = 0 && parity ≠ 0, space := s.mooredOf c.pad, state := .active, epoch := 1, committedEpoch := 0
    dirty := if c.u32 16 = 0 then List.range (s.cellsMoored c) else [], flight := [], refreshes := [], lost := []
    lostAt := 0, lostCells := [], rebuildBy := [], rebuildFor := none, shrinkBy := [], bound := 0, deadline := 0
    refreshNs := 0, rebuildNs := 0, startedAt := 0 }

/-- The state in which a group stands under its number. -/
def State.addMoor (s : State) (k : Nat) (m : Moor) : State := { s with moors := tput s.moors k m }

/-- A bind that a `do` block carries into both branches of a choice whose value is known. -/
theorem bind_ite_of {ε α β : Type} {p : Prop} [Decidable p] {x y : Except ε α} {a : α} {f : α → Except ε β}
    {r : Except ε β} (h : (if p then x else y) = .ok a) (hf : f a = r) : (if p then x >>= f else y >>= f) = r := by
  split_ifs at h ⊢ <;> rw [h] <;> exact hf

/-- RESIL_MOOR_CREATE on which the members agree, with its parity area, enters the group and answers this part's rank
and the cells of a member. -/
theorem State.moorCreate_ok {s s1 : State} {c : Cmd} {q : MoorReq} {others : Option (Bool × Nat)}
    {l sl : List Byte × Bool} {same : Bool} {most a : Nat} (hr : c.u32 16 < 2) (hk : s.moorFits c = true)
    (hm : (!c.mgmt) = true) (hp : (s.moors.all fun e => e.2.paddock != c.pad) = true)
    (hl : s.readBuf c (c.u64 8) (2 * c.u16 4) = .ok l) (hs : s.spareBytes c q = .ok sl)
    (hd : ((partsOf l.1 (c.u16 4)).eraseDups.length = c.u16 4 &&
      ((sparesIn sl.1).eraseDups.length = (sparesIn sl.1).length)) = true)
    (hi : s.hasRole c (partsOf l.1 (c.u16 4)) (sparesIn sl.1) = true) (ho : others = some (same, most))
    (he : same = true)
    (ha : s.parityArea c (s.moorCells c most / c.u8 6 * c.u8 7 * cellBytes) q.parity = .ok (a, s1)) :
    s.moorCreate c q others =
      .ok ((s1.addMoor (c.u32 0) (s.newMoor c q (partsOf l.1 (c.u16 4)) (sparesIn sl.1) most a)).noteRoutes.ok c
        ((s.moorRank c (partsOf l.1 (c.u16 4))).getD 0xFFFF) (s.moorCells c most)) := by
  subst ho
  exact need_of (decide_eq_true hr) <| need_of hk <| need_of hm <| need_of hp <| bind_of hl <| bind_ite_of hs <|
    need_of hd <| need_of hi <| need_of he <| bind_of ha rfl

/-! ### Refresh, replacement and repair (R430, R433, R436) -/

section
variable {s : State} {c : Cmd} {k : Nat} {m : Moor} (hm : s.ownMoor c = .ok (k, m)) (hb : s.moorBusy m = .ok ())
include hm hb

/-- A refresh that the group already owes the command is not begun again. -/
theorem State.moorRefresh_again {full : Bool} (ha : (m.state = .active && m.rank.isSome) = true)
    (hr : (m.refreshes.any fun r => r.2 = some c.w) = true) : s.moorRefresh c full = .ok s :=
  bind_of hm <| bind_of hb <| need_of ha <| if_pos hr

/-- A refresh of an ACTIVE group begins on a member. -/
theorem State.moorRefresh_begins {full : Bool} (ha : (m.state = .active && m.rank.isSome) = true)
    (hr : ¬(m.refreshes.any fun r => r.2 = some c.w) = true) :
    s.moorRefresh c full = .ok (s.startRefresh k full (some c.w)) :=
  bind_of hm <| bind_of hb <| need_of ha <| if_neg hr

/-- RESIL_MOOR_REPLACE of a lost member of a DEGRADED group by a spare that has joined begins its rebuild. -/
theorem State.moorReplace_ok {timeout : Nat} {joined : Bool} (hd : m.state = .degraded)
    (hl : m.lost.contains (BitVec.ofNat 16 (c.u16 4)) = true)
    (hs : ((m.spares.contains (BitVec.ofNat 16 (c.u16 6)) || BitVec.ofNat 16 (c.u16 6) = BitVec.ofNat 16 (c.u16 4)) &&
      joined) = true) :
    s.moorReplace c timeout joined =
      .ok ((s.startRebuild k (BitVec.ofNat 16 (c.u16 4)) (BitVec.ofNat 16 (c.u16 6)) timeout).modMoor k fun x =>
        { x with rebuildBy := x.rebuildBy ++ [c.w] }) :=
  bind_of hm <| bind_of hb <| need_of (decide_eq_true hd) <| need_of hl <| need_of hs rfl

end

section
variable {s : State} {c : Cmd} {k : Nat} {m : Moor} (hm : s.ownMoor c = .ok (k, m)) (hv : s.moorMoving m = .ok ())
include hm hv

/-- RESIL_MOOR_REPAIR of a group that does not move answers the lines repaired and lost. -/
theorem State.moorRepair_ok {only : Nat → Bool} {shares : List (Nat × List Share)} :
    s.moorRepair c only shares =
      .ok (let r := s.repairLines k ((s.moorPoison m).filter only) shares
        r.1.ok c r.2.1 r.2.2) :=
  bind_of hm <| bind_of hv rfl

/-- RESIL_MOOR_DESTROY waits for the group's refreshes where it may. -/
theorem State.moorDestroy_waits {wait : Bool} (ha : (m.state = .active || m.state = .lost) = true)
    (hw : (wait && !m.refreshes.isEmpty) = true) : s.moorDestroy c wait = .ok (s.wait c.w (.moorFree k)) :=
  bind_of hm <| bind_of hv <| need_of ha <| if_pos hw

/-- RESIL_MOOR_DESTROY of an ACTIVE or LOST group otherwise ends its commands and the group. -/
theorem State.moorDestroy_ends {wait : Bool} (ha : (m.state = .active || m.state = .lost) = true)
    (hw : ¬(wait && !m.refreshes.isEmpty) = true) :
    s.moorDestroy c wait = .ok (((s.endMoorCmds k stCancelled).dropMoor k m).ok c) :=
  bind_of hm <| bind_of hv <| need_of ha <| if_neg hw

end

/-! ### RESIL_MOOR_SHRINK (R435) -/

/-- The rank of the member that a shrink leaves behind. -/
def Moor.lostRank (m : Moor) (lost : BitVec 16) : Nat := m.members.findIdx (· == lost)

/-- The rank of this part among the survivors of a shrink. -/
def State.survivorRank (s : State) (m : Moor) (lost : BitVec 16) : Nat :=
  (m.members.erase lost).findIdx (· == s.part.partId)

/-- The state in which this part has sent the shares by which the other survivors decode the lost rank's cells. -/
def State.orphansSent (s : State) (k : Nat) (m : Moor) (lost : BitVec 16) : State :=
  (List.range m.stripes).foldl (fun s x =>
    if m.holds (m.lostRank lost) (x % m.n) then s
    else
      let owner := (m.members.erase lost)[m.cellIn (m.lostRank lost) x % (m.n - 1)]?
      if (match m.rank with | some r => (m.senders (m.lostRank lost) x).contains r | none => false) &&
          owner != some s.part.partId then
        s.sendCell k x owner (s.ownShare m (m.rank.getD 0) x)
      else s) s

/-- The state in which this part's orphan area holds the cells of the lost rank that fall to it. -/
def State.orphansDecoded (s : State) (m : Moor) (lost : BitVec 16) (rank oa : Nat)
    (shares : List (Nat × List Share)) : State :=
  shares.foldl (fun s g =>
    let cell := m.cellIn (m.lostRank lost) g.1
    if m.holds (m.lostRank lost) (g.1 % m.n) || cell % (m.n - 1) != rank then s
    else match decodeStripe m.k m.m g.2 with
      | none => s
      | some ds => s.putCellAt (oa + cell / (m.n - 1) * cellBytes)
          ((ds[m.shareOf (m.lostRank lost) (g.1 % m.n)]?).getD []) (poisonOf (g.2.take m.k))) s

/-- The state in which the orphan areas have the lost rank's cells. -/
def State.orphansPlaced (s : State) (k : Nat) (m : Moor) (lost : BitVec 16) (oa : Nat)
    (shares : List (Nat × List Share)) : State :=
  (s.orphansSent k m lost).orphansDecoded m lost (s.survivorRank m lost) oa shares

/-- The moored space of a survivor with its orphan area. -/
def Moor.spaceWith (m : Moor) (oa : Nat) : List Nat := sortOn id (m.space ++ [oa])

/-- The cells of a member after a shrink. -/
def State.shrunkCells (s : State) (m : Moor) (oa most : Nat) : Nat :=
  roundUp (max (s.spaceLen (m.spaceWith oa) / cellBytes) most) (m.k - 1)

/-- The state in which a parity area of the group's own is free. -/
def State.parityFreed (s : State) (m : Moor) : State := if m.parityOwn then s.release m.parity else s

/-- The state in which a group has its survivors alone, with their cells and parity area, and refreshes in full. -/
def State.shrinkBegun (s : State) (c : Cmd) (k : Nat) (m : Moor) (lost : BitVec 16) (rank oa cc pa : Nat) : State :=
  ((s.modMoor k fun x => { x with
      k := m.k - 1, members := m.members.erase lost, rank := some rank, space := m.spaceWith oa, c := cc, parity := pa
      parityOwn := pa ≠ 0, lost := x.lost.erase lost, shrinkBy := x.shrinkBy ++ [c.w] }).enterMoor k
    .shrinking).startRefresh k true none

/-- The state in which a shrink has its deadline and the bound of R435, both from its start. -/
def State.shrinkBounded (s s0 : State) (k : Nat) (m : Moor) (oa timeout : Nat) : State :=
  let b := s.spaceLen (m.spaceWith oa) * (m.k + m.m - 2) / (m.k - 1)
  s.modMoor k fun x => { x with
    deadline := s0.t + timeout * msNs
    bound := s0.t + 150 * msNs + s0.moveNs m.paddock (m.k * m.rankCells * cellBytes / (m.n - 1) + b) }

/-- RESIL_MOOR_SHRINK of a DEGRADED group of three data cells or more, with an orphan area and its parity area, begins
the full refresh of the survivors' group. -/
theorem State.moorShrink_ok {s s2 : State} {c : Cmd} {timeout most k pa : Nat} {m : Moor} {o : Nat × Alloc}
    {shares : List (Nat × List Share)} (hm : s.ownMoor c = .ok (k, m)) (hb : s.moorBusy m = .ok ())
    (hd : (m.state = .degraded && 3 ≤ m.k && m.rank.isSome) = true)
    (hl : m.lost.contains (BitVec.ofNat 16 (c.u16 4)) = true)
    (ho : s.ownRange c (c.u64 8) ((m.c + m.n - 2) / (m.n - 1) * cellBytes) [.hbm] = .ok o)
    (hu : (o.2.moored && o.1 = c.u64 8 && !m.space.contains (c.u64 8)) = true)
    (hp : ((s.orphansPlaced k m (BitVec.ofNat 16 (c.u16 4)) (c.u64 8) shares).parityFreed m).parityArea c
      ((s.orphansPlaced k m (BitVec.ofNat 16 (c.u16 4)) (c.u64 8) shares).shrunkCells m (c.u64 8) most / (m.k - 1) * m.m *
        cellBytes) 0 = .ok (pa, s2)) :
    s.moorShrink c timeout most shares =
      .ok ((s2.shrinkBegun c k m (BitVec.ofNat 16 (c.u16 4)) (s.survivorRank m (BitVec.ofNat 16 (c.u16 4))) (c.u64 8)
        ((s.orphansPlaced k m (BitVec.ofNat 16 (c.u16 4)) (c.u64 8) shares).shrunkCells m (c.u64 8) most)
        pa).shrinkBounded s k m (c.u64 8) timeout) :=
  bind_of hm <| bind_of hb <| need_of hd <| need_of hl <| bind_of ho <| need_of hu <| bind_of hp rfl

/-! ### The commands -/

/-- Settles O51: each command is ready, its checks pass one after another, and its body succeeds in the branch that the
conditions name. That creation marks every moored cell dirty (log entry 112), the agreement of the members as an operand
(log entry 116), the spares of a group (log entry 117) and the decoded data that a shrink brings (log entry 118) are the
model's choices. -/
theorem moorCommands : Obligations.MoorCommands := by
  refine ⟨?create, ?createExpert, ?refreshAgain, ?refresh, ?refreshExpertAgain, ?refreshExpert, ?replace,
    ?replaceExpert, ?shrink, ?shrinkExpert, ?repair, ?repairExpert, ?query, ?queryExpert, ?destroy, ?destroyWaits,
    ?destroyExpert⟩
  case create =>
    intro z wid hm others c h s q p1 k n dk dm role hr hk hc hp l hl members sl hs spares me hd hi same most ho he space
      own cc a s1 ha rank m
    exact run_ok h (State.moorCreate_ok hr hk hc hp hl hs hd hi ho he ha)
  case createExpert =>
    intro z wid hm others c h s q p1 k n dk dm role hr hk hc hp l hl members sl hs spares me hd hi same most ho he space
      own cc a s1 ha rank m
    exact run_ok h (State.moorCreate_ok hr hk hc hp hl hs hd hi ho he ha)
  case refreshAgain =>
    intro z wid c h s k m hm hb ha hr
    exact run_ok h (State.moorRefresh_again hm hb ha hr)
  case refresh =>
    intro z wid c h s full k m hm hb ha hr
    exact run_ok h (State.moorRefresh_begins hm hb ha hr)
  case refreshExpertAgain =>
    intro z wid c h s k m hm hb ha hr
    exact run_ok h (State.moorRefresh_again hm hb ha hr)
  case refreshExpert =>
    intro z wid c h s full k m hm hb ha hr
    exact run_ok h (State.moorRefresh_begins hm hb ha hr)
  case replace =>
    intro z wid joined c h s timeout k m hm p1 lost spare hb hd hl hs
    exact run_ok h (State.moorReplace_ok hm hb hd hl hs)
  case replaceExpert =>
    intro z wid joined c h s timeout k m hm p1 lost spare hb hd hl hs
    exact run_ok h (State.moorReplace_ok hm hb hd hl hs)
  case shrink =>
    intro z wid cells shares c h s timeout most k m hm lost hb hd hl oa o ho hu lr members rank s1 s2 space cc s3 pa s4 hp
      s5 s6 b
    exact run_ok h (State.moorShrink_ok hm hb hd hl ho hu hp)
  case shrinkExpert =>
    intro z wid cells shares c h s timeout most k m hm lost hb hd hl oa o ho hu lr members rank s1 s2 space cc s3 pa s4 hp
      s5 s6 b
    exact run_ok h (State.moorShrink_ok hm hb hd hl ho hu hp)
  case repair =>
    intro z wid shares c h s only k m hm hv r
    exact run_ok h (State.moorRepair_ok hm hv)
  case repairExpert =>
    intro z wid shares c h s l hl ranges only k m hm hv r
    exact run_ok h (bind_of hl (State.moorRepair_ok hm hv))
  case query =>
    intro z wid c h s m x1 hm s1 hw s2
    exact run_ok h (bind_of hm (bind_of hw rfl))
  case queryExpert =>
    intro z wid c h s m hm hp es s1 hw s2
    refine run_ok h ?_
    unfold resilMoorQueryExpertBody
    rw [hm]
    exact need_of hp (bind_of hw rfl)
  case destroy =>
    intro z wid c h s wait k m hm hv ha hw
    exact run_ok h (State.moorDestroy_ends hm hv ha hw)
  case destroyWaits =>
    intro z wid c h s wait k m hm hv ha hw
    exact run_ok h (State.moorDestroy_waits hm hv ha hw)
  case destroyExpert =>
    intro z wid c h s wait k m hm hv ha hw
    exact run_ok h (State.moorDestroy_ends hm hv ha hw)

end Sys2Proof.Machine
end

section
/-! RESIL_WAIT, the journal queries, RESIL_TEAM_RETIRE and the events of stripes and spares (R414, R415, R430, R433,
R435, R436, R438): the equation of each body where its checks pass. -/

namespace Sys2Proof.Machine

/-! ### RESIL_WAIT and RESIL_TEAM_RETIRE (R414, R438) -/

/-- RESIL_WAIT with a place for its record waits for an event of its mask. -/
theorem State.resilWait_ok {s : State} {c : Cmd} {mask : BitVec 32} {x : Loc}
    (h : s.resolve c (c.u64 0) 64 true = .ok x) :
    s.resilWait c mask = .ok (s.wait c.w (.resilEvent c.pad mask (BitVec.ofNat 64 (c.u64 0)))) :=
  bind_of h rfl

section
variable {s : State} {c : Cmd} {wait : Bool} (hp : c.u32 0 < 336)
include hp

/-- A spare that is retired fails and is due its field test. -/
theorem State.teamRetire_spare (hs : s.physState (c.u32 0) = .spare) :
    s.teamRetire c wait =
      .ok ((s.modPhys (c.u32 0) fun x => { x with state := some .failed, fieldDue := some s.t }).ok c 0xFFFF) := by
  refine need_of (decide_eq_true hp) ?_
  rw [hs]

variable {l : Nat} (hs : s.physState (c.u32 0) = .mapped) (hl : s.logicalOf (c.u32 0) = some l)
  (hi : ((s.team l).inService && !(s.team l).replacing) = true)
include hs hl hi

/-- A mapped team whose task the fence awaits is retired at the task's end. -/
theorem State.teamRetire_waits (hw : (wait && (s.running l).isSome) = true) :
    s.teamRetire c wait = .ok (s.wait c.w (.teamTask (c.u32 0))) := by
  refine need_of (decide_eq_true hp) ?_
  rw [hs]
  exact want_of hl <| need_of hi <| if_pos hw

/-- A mapped team is otherwise retired at once. -/
theorem State.teamRetire_now (hw : ¬(wait && (s.running l).isSome) = true) :
    s.teamRetire c wait = .ok (s.retireTeam c.w l) := by
  refine need_of (decide_eq_true hp) ?_
  rw [hs]
  exact want_of hl <| need_of hi <| if_neg hw

end

/-! ### The commands and events -/

/-- Settles O52: a command is ready and its checks pass one after another; an event takes the branch that its
conditions name. RESULT 0xFFFF for a retired spare (log entry 58), the types that the basic RESIL_WAIT hears (log entry
114), what REBUILD_COMPLETE carries (log entry 118), the order of substitutions (log entry 119) and the journal query's
answer (log entry 120) are the model's choices. -/
theorem resilienceCommandsAndEvents : Obligations.ResilienceCommandsAndEvents := by
  refine ⟨?wait, ?waitExpert, ?journal, ?journalExpert, ?retireSpare, ?retireNow, ?retireExpertSpare,
    ?retireExpertWaits, ?retireExpertNow, ?parityCompute, ?commitLast, ?commit, ?autoReplace, ?rebuilt, ?shrunk,
    ?lineRepair, ?noSpare, ?substitution, ?mappingSwitch⟩
  case wait =>
    intro z wid c h s mask a x hx
    exact run_ok h (State.resilWait_ok hx)
  case waitExpert =>
    intro z wid c h s mask a x hx
    exact run_ok h (State.resilWait_ok hx)
  case journal =>
    intro z wid c h s n s1 hw s2
    exact run_ok h (bind_of hw rfl)
  case journalExpert =>
    intro z wid c h s r hr s1 hw s2
    exact run_ok h (need_of hr (bind_of hw rfl))
  case retireSpare =>
    intro z wid c h s p hp hs
    exact run_ok h (State.teamRetire_spare hp hs)
  case retireNow =>
    intro z wid c h s wait p hp hs l hl hi hw
    exact run_ok h (State.teamRetire_now hp hs hl hi hw)
  case retireExpertSpare =>
    intro z wid c h s p hp hs
    exact run_ok h (State.teamRetire_spare hp hs)
  case retireExpertWaits =>
    intro z wid c h s wait p hp hs l hl hi hw
    exact run_ok h (State.teamRetire_waits hp hs hl hi hw)
  case retireExpertNow =>
    intro z wid c h s wait p hp hs l hl hi hw
    exact run_ok h (State.teamRetire_now hp hs hl hi hw)
  case parityCompute =>
    intro moor stripe cells z s m hm data hn ds bad s1
    refine event_eq ?_
    rw [hm]
    exact if_neg hn
  case commitLast =>
    intro moor stripe parity last z s m hm r hr hn s1 done hd
    refine event_eq ?_
    rw [hm]
    dsimp -zeta only
    rw [hr]
    exact (if_neg hn).trans (if_pos hd)
  case commit =>
    intro moor stripe parity last z s m hm r hr hn s1 done hd
    refine event_eq ?_
    rw [hm]
    dsimp -zeta only
    rw [hr]
    exact (if_neg hn).trans (if_neg hd)
  case autoReplace =>
    intro moor s m hm lost x1 hl spare x2 hs x3 hr ha
    refine event_eq ?_
    rw [hm]
    dsimp only
    rw [hl, hs, hr]
    exact if_pos ha
  case rebuilt =>
    intro moor lost spare epoch shares z s m hm hn lr me gone left s1 s2 s3 s4
    refine event_eq ?_
    rw [hm]
    exact if_neg hn
  case shrunk =>
    intro moor z s m hm hn s1
    refine event_eq ?_
    rw [hm]
    exact if_neg hn
  case lineRepair =>
    intro line shares s e he e1 hn
    refine event_eq ?_
    rw [he]
    exact if_neg hn
  case noSpare =>
    intro s l x hl hq
    refine event_eq ?_
    rw [hl]
    dsimp only
    rw [hq]
  case substitution =>
    intro s l x hl q hq
    refine event_eq ?_
    rw [hl]
    dsimp only
    rw [hq]
  case mappingSwitch =>
    intro team pass s e he e1 old
    refine event_eq ?_
    rw [he]

end Sys2Proof.Machine
end

section
/-! The Frame Quay's commands and events (R442, R443, R455 to R459): the equation of the body that the two levels of a
command share, where its checks pass. -/

namespace Sys2Proof.Machine

/-! ### QUAY_SESSION_OPEN (R442) -/

/-- Whether the part and the paddock have room for another session of this kind. -/
def State.quayRoom (s : State) (c : Cmd) (q : Quay) (k : Paddock) : Bool :=
  s.quaysOf q.encode none < (if q.encode then 64 else 256) &&
    s.quaysOf q.encode (some c.pad) < quayLimit q.encode k.quayShare

/-- The bytes of a session's picture buffer. -/
def Quay.dpbLen (q : Quay) : Nat :=
  (levelDpb q.level (q.width * q.height) + 1) * planeBytes q.width q.height (if q.profile = 2 then 10 else 8)

/-- Whether a place lies in host memory. -/
def Loc.isHost : Loc → Bool
  | .host _ => true
  | .part _ _ => false

/-- The handle that a new session takes. -/
def State.quayHandle (s : State) : Nat := ((s.pick (fun x => thas s.quays x) 1 (2 ^ 32 - 1)).1).getD 1

/-- The state in which a session's handle is taken and the session has its end of its output stream and, where it
decodes, of its input stream. -/
def State.quayJoined (s : State) (q : Quay) : State :=
  let s1 := (s.pick (fun x => thas s.quays x) 1 (2 ^ 32 - 1)).2.modStream q.outS fun st =>
    { st with producer := some (.quay s.quayHandle) }
  if q.encode then s1 else s1.modStream q.inS fun st => { st with consEnd := tput st.consEnd q.inCons (.quay s.quayHandle) }

/-- The state in which a session stands under a handle. -/
def State.putQuay (s : State) (h : Nat) (q : Quay) : State := { s with quays := tput s.quays h q }

/-- QUAY_SESSION_OPEN of a session in range, with its streams, its record ring and its picture buffer, enters it. -/
theorem State.quayOpen_ok {s s2 : State} {c : Cmd} {k : Paddock} {out : Stream} {loc : Loc} {dpb : Nat}
    (hk : tget s.paddocks c.pad = some k) (hn : s.quayRoom c (quayOf c c.p) k = true)
    (hr : (quayOf c c.p).inRange (c.u8 0) = true) (ho : s.streamOf c (quayOf c c.p).outS = .ok out)
    (hp : (out.state = .opened && out.producer.isNone) = true) (hs : s.quaySource c (quayOf c c.p) = .ok ())
    (hl : s.resolve c (quayOf c c.p).recAddr.toNat (256 + 32 * (quayOf c c.p).records) true = .ok loc)
    (hd : s.quayDpb c (quayOf c c.p) (quayOf c c.p).dpbLen = .ok (dpb, s2)) :
    s.quayOpen c =
      .ok (((s2.quayJoined (quayOf c c.p)).putQuay s2.quayHandle { quayOf c c.p with
        recHost := loc.isHost, dpb := dpb, dpbOwn := (quayOf c c.p).dpb = 0 }).ok c s2.quayHandle) :=
  want_of hk <| need_of hn <| need_of hr <| bind_of ho <| need_of hp <| bind_of hs <| bind_of hl <| bind_of hd rfl

/-! ### QUAY_SESSION_CLOSE (R443) -/

/-- The state in which a session's waiting commits are cancelled and, where it is aborted, its pictures dropped. -/
def State.quayStopped (s : State) (h : Nat) (q : Quay) (abort : Bool) : State :=
  (s.completeAll ((q.pend.toList ++ q.queue).map (·.wid)) stCancelled).modQuay h fun x => { x with
    pend := none, queue := [], coding := if abort then none else x.coding
    latched := if abort then [] else x.latched
    outq := if abort then x.outq.take (if x.outTile = 0 then 0 else 1) else x.outq }

section
variable {s : State} {c : Cmd} {abort : Bool} {q : Quay} (hq : s.ownQuay c (c.u32 0) = .ok q)
  (hc : q.closing.isNone = true)
include hq hc

/-- A session that has ended is closed at once. -/
theorem State.quayClose_ended (he : q.ended.isSome = true) :
    s.quayClose c abort = .ok (({ s with quays := tdel s.quays (c.u32 0) } : State).ok c q.outNo) :=
  bind_of hq <| need_of hc <| if_pos he

/-- A decode session, or an aborted one, stops, and ends where none of its pictures is on a pipe. -/
theorem State.quayClose_stops (he : ¬q.ended.isSome = true) (ha : (abort || !q.encode) = true) :
    s.quayClose c abort =
      .ok (let t := (s.modQuay (c.u32 0) fun x => { x with closing := some c.w }).quayStopped (c.u32 0) q abort
        if abort || q.coding.isNone then t.endQuay (c.u32 0) stOk else t) :=
  bind_of hq <| need_of hc <| (if_neg he).trans (if_pos ha)

/-- An encode session codes what is committed, and ends where nothing is. -/
theorem State.quayClose_drains (he : ¬q.ended.isSome = true) (ha : ¬(abort || !q.encode) = true) :
    s.quayClose c abort =
      .ok (let t := s.modQuay (c.u32 0) fun x => { x with closing := some c.w }
        if q.coding.isNone && q.pend.isNone && q.queue.isEmpty then t.endQuay (c.u32 0) stOk else t) :=
  bind_of hq <| need_of hc <| (if_neg he).trans (if_neg ha)

end

/-! ### QUAY_FRAME_COMMIT (R446, R451, R455) -/

/-- The crop window of a descriptor. -/
def cropIn (d : List Byte) : Nat × Nat × Nat × Nat := (fld d 32 2, fld d 34 2, fld d 36 2, fld d 38 2)

/-- The frame descriptor of 64 bytes with its region entries. -/
def frameIn (d : List Byte) (rs : List (List Byte)) : FrameDesc :=
  { src := BitVec.ofNat 64 (fld d 0 8), pts := BitVec.ofNat 64 (fld d 8 8), forceIdr := bitAt (fld d 16 1) 0
    flush := bitAt (fld d 16 1) 1, qpOffset := signed8 (fld d 20 1), regions := rs, crop := cropIn d, down := fld d 40 1 }

/-- Whether the reserved bytes of a descriptor are zero. -/
def frameClean (d : List Byte) : Bool := zeros (slice d 22 2) && zeros (slice d 41 23) && fld d 16 4 < 4

/-- Whether the region count and QP offset of an encode descriptor are in range. -/
def encodeFits (d : List Byte) : Bool :=
  fld d 21 1 ≤ 16 && -12 ≤ signed8 (fld d 20 1) && signed8 (fld d 20 1) ≤ 12

/-- The bytes of the region entries that a descriptor names, none without an entry. -/
def State.regionBytes (s : State) (c : Cmd) (d : List Byte) : Except Err (List Byte × Bool) :=
  if fld d 21 1 = 0 then .ok ([], false) else s.readBuf c (fld d 24 8) (16 * fld d 21 1)

/-- The region entries in their bytes. -/
def regionsIn (d rb : List Byte) : List (List Byte) := (List.range (fld d 21 1)).map fun i => slice rb (16 * i) 16

/-- Whether the crop window and the downscale of a decode descriptor are in range. -/
def decodeFits (q : Quay) (d : List Byte) : Bool :=
  let (x0, y0, w, hh) := cropIn d
  fld d 0 8 = 0 && [1, 2, 4].contains (fld d 40 1) && x0 % 2 = 0 && y0 % 2 = 0 && w % 2 = 0 && hh % 2 = 0 &&
    (cropIn d = (0, 0, 0, 0) || (1 ≤ w && 1 ≤ hh && x0 + w ≤ q.width && y0 + hh ≤ q.height))

/-- The width and height of the window that a decode descriptor names. -/
def windowOf (q : Quay) (d : List Byte) : Nat × Nat :=
  if cropIn d = (0, 0, 0, 0) then (q.width, q.height) else ((cropIn d).2.2.1, (cropIn d).2.2.2)

/-- Whether the patches of a session divide the window that a decode descriptor names. -/
def patchesFit (q : Quay) (d : List Byte) : Bool :=
  let (pw, ph) := windowOf q d
  q.outMode = 0 || (pw % fld d 40 1 = 0 && ph % fld d 40 1 = 0 && pw / fld d 40 1 % q.patch = 0 &&
    ph / fld d 40 1 % q.patch = 0)

/-- The state in which the commit of a decode session that waits gives way. -/
def State.pendReplaced (s : State) (q : Quay) : State :=
  match q.pend with
  | some k => s.complete k.wid stDescReplaced
  | none => s

section
variable {s : State} {c : Cmd} {n : Nat} {q : Quay} {d : List Byte} {bad : Bool}
  (hq : s.ownQuay c (c.u32 0) = .ok q) (hc : (q.closing.isNone && q.ending.isNone && q.ended.isNone) = true)
  (hd : s.readBuf c (c.u64 8) 64 = .ok (d, bad)) (hb : (!bad) = true) (hz : frameClean d = true)
include hq hc hd hb hz

/-- The descriptor of an encode session waits for its latch, behind those before it. -/
theorem State.quayCommit_encode {rb : List Byte} {rbad : Bool} {x : Loc} (he : q.encode = true)
    (hr : encodeFits d = true) (hg : s.regionBytes c d = .ok (rb, rbad)) (hgb : (!rbad) = true)
    (hgz : ((regionsIn d rb).all fun r => zeros (slice r 10 6)) = true) (hgo : (regionsIn d rb).all regionOk = true)
    (hx : s.resolve c (fld d 0 8) (planeBytes q.width q.height (if q.profile = 2 then 10 else 8)) false = .ok x) :
    s.quayCommit c n =
      .ok (let k : Commit := { wid := c.w, desc := frameIn d (regionsIn d rb), notBefore := n }
        s.modQuay (c.u32 0) fun x =>
          if x.pend.isNone then { x with pend := some k } else { x with queue := x.queue ++ [k] }) :=
  bind_of hq <| need_of hc <| bind_of hd <| need_of hb <| need_of hz <| (if_pos he).trans <| need_of hr <|
    bind_of hg <| need_of hgb <| need_of hgz <| need_of hgo <| bind_of hx rfl

/-- The descriptor of a decode session takes the place of the one that waits. -/
theorem State.quayCommit_decode (he : ¬q.encode = true) (hr : decodeFits q d = true) (hp : patchesFit q d = true) :
    s.quayCommit c n =
      .ok ((s.pendReplaced q).modQuay (c.u32 0) fun x =>
        { x with pend := some { wid := c.w, desc := frameIn d [], notBefore := n } }) :=
  bind_of hq <| need_of hc <| bind_of hd <| need_of hb <| need_of hz <| (if_neg he).trans <| need_of hr <|
    need_of hp rfl

end

/-! ### QUAY_RING_ADVANCE (R456) -/

/-- The state in which a session's record ring is read up to a record. -/
def State.quayReadTo (s : State) (h : Nat) (q : Quay) (r : Nat) : State :=
  (s.quayStore q 8 (leBytes 8 r)).modQuay h fun x => { x with read := r }

section
variable {s : State} {c : Cmd} {goal : Nat} {q : Quay} (hq : s.ownQuay c (c.u32 0) = .ok q)
  (hc : (q.closing.isNone && q.ending.isNone && q.ended.isNone) = true)
  (hr : (q.read ≤ c.u64 4 && c.u64 4 ≤ q.write) = true)
include hq hc hr

/-- QUAY_RING_ADVANCE completes at once where the record that it waits for is written. -/
theorem State.quayAdvance_ok (hg : goal ≤ q.write) :
    s.quayAdvance c goal = .ok ((s.quayReadTo (c.u32 0) q (c.u64 4)).ok c) :=
  bind_of hq <| need_of hc <| need_of hr <| if_pos hg

/-- QUAY_RING_ADVANCE otherwise waits for the record. -/
theorem State.quayAdvance_waits (hg : ¬goal ≤ q.write) :
    s.quayAdvance c goal =
      .ok ((s.quayReadTo (c.u32 0) q (c.u64 4)).modQuay (c.u32 0) fun x =>
        { x with advWait := x.advWait ++ [(c.w, goal)] }) :=
  bind_of hq <| need_of hc <| need_of hr <| if_neg hg

end

/-! ### The commands and events -/

/-- A body that refuses where one of two conditions fails goes on where both hold. -/
theorem not_denied_or {a b : Bool} (ha : a = true) (hb : b = true) : ¬(!a || !b) = true := by simp [ha, hb]

/-- Settles O53: a command is ready and its checks pass one after another; an event takes the branch that its
conditions name. The decoded picture as an operand (log entry 122), the length of the picture buffer (log entry 123),
that a handle stays until its close (log entry 124), the check of cropping 0 (log entry 125), the turns of the pipes
(log entry 170) and the reserved bytes of a descriptor (log entry 171) are the model's choices. -/
theorem frameQuayCommands : Obligations.FrameQuayCommands := by
  refine ⟨?opens, ?opensExpert, ?closeEnded, ?closeStops, ?closeDrains, ?closeExpertEnded, ?closeExpertStops,
    ?closeExpertDrains, ?commitEncode, ?commitDecode, ?commitExpertEncode, ?commitExpertDecode, ?advance,
    ?advanceExpert, ?advanceExpertWaits, ?query, ?queryExpert, ?frameStart, ?encoded, ?decoded⟩
  case opens =>
    intro z wid c h s q k hk most hn hr out ho hp hs loc hl host len dpb s2 hd p1 hh s3 hd' s4 s5
    exact run_ok h (State.quayOpen_ok hk hn hr ho hp hs hl hd)
  case opensExpert =>
    intro z wid c h s q k hk most hn hr out ho hp hs loc hl host len dpb s2 hd p1 hh s3 hd' s4 s5
    exact run_ok h (State.quayOpen_ok hk hn hr ho hp hs hl hd)
  case closeEnded =>
    intro z wid c h s n q hq hc he
    exact run_ok h (State.quayClose_ended hq hc he)
  case closeStops =>
    intro z wid c h s abort n q hq hc he s1 ha s2 s3
    exact run_ok h (State.quayClose_stops hq hc he ha)
  case closeDrains =>
    intro z wid c h s abort n q hq hc he s1 ha
    exact run_ok h (State.quayClose_drains hq hc he ha)
  case closeExpertEnded =>
    intro z wid c h s n q hq hc he
    exact run_ok h (State.quayClose_ended hq hc he)
  case closeExpertStops =>
    intro z wid c h s abort n q hq hc he s1 ha s2 s3
    exact run_ok h (State.quayClose_stops hq hc he ha)
  case closeExpertDrains =>
    intro z wid c h s abort n q hq hc he s1 ha
    exact run_ok h (State.quayClose_drains hq hc he ha)
  case commitEncode =>
    intro z wid hm c h s nb n q hq hc d bad hd hb hz r crop desc he hr rb rbad hg hgb rs hgz hgo x hx k
    exact run_ok h (State.quayCommit_encode hq hc hd hb hz he hr hg hgb hgz hgo hx)
  case commitDecode =>
    intro z wid hm c h s nb n q hq hc d bad hd hb hz crop desc he p1 x0 y0 w hh down hr p2 pw ph hp s1
    exact run_ok h (State.quayCommit_decode hq hc hd hb hz he hr hp)
  case commitExpertEncode =>
    intro z wid hm c h s nb n q hq hc d bad hd hb hz r crop desc he hr rb rbad hg hgb rs hgz hgo x hx k
    exact run_ok h (State.quayCommit_encode hq hc hd hb hz he hr hg hgb hgz hgo hx)
  case commitExpertDecode =>
    intro z wid hm c h s nb n q hq hc d bad hd hb hz crop desc he p1 x0 y0 w hh down hr p2 pw ph hp s1
    exact run_ok h (State.quayCommit_decode hq hc hd hb hz he hr hp)
  case advance =>
    intro z wid c h s goal n q hq hc r hr s1 hg
    exact run_ok h (State.quayAdvance_ok hq hc hr hg)
  case advanceExpert =>
    intro z wid c h s goal n q hq hc r hr s1 hg
    exact run_ok h (State.quayAdvance_ok hq hc hr hg)
  case advanceExpertWaits =>
    intro z wid c h s goal n q hq hc r hr s1 hg
    exact run_ok h (State.quayAdvance_waits hq hc hr hg)
  case query =>
    intro z wid c h s q hq s1 hw s2
    exact run_ok h (bind_of hq (bind_of hw rfl))
  case queryExpert =>
    intro z wid c h s qs s1 hw s2
    exact run_ok h (bind_of hw rfl)
  case frameStart =>
    intro session z s q hq hr ht s1 n take desc s2
    refine event_eq ?_
    rw [hq]
    exact if_neg (not_denied_or hr ht)
  case encoded =>
    intro session r s q hq hn he
    refine event_eq ?_
    rw [hq]
    exact (if_neg hn).trans (if_pos he)
  case decoded =>
    intro session r s q hq hn he
    refine event_eq ?_
    rw [hq]
    exact (if_neg hn).trans (if_neg he)

end Sys2Proof.Machine
end

section
/-! The power commands (R465, R466, R468 to R470, R475, R480, R483, R486): the equation of the body that the two levels
of a command share, where its checks pass. -/

namespace Sys2Proof.Machine

/-- PWR_CAP_SET from the management session records a cap in range. -/
theorem State.capSet_ok {s : State} {c : Cmd} {noExc : Bool} (hm : c.mgmt = true)
    (hr : (700 ≤ c.u32 0 && c.u32 0 ≤ 1800) = true) :
    s.capSet c noExc = .ok (s.recordCap (c.u32 0) (some c.w) noExc) :=
  need_of hm <| need_of hr rfl

/-- The state in which a team's regulator is AUTO and no command of it waits. -/
def State.autoTeam (s : State) (p : Nat) : State :=
  (s.supersede (s.teamReg p).cmd ((s.teamReg p).at_ s.t / 1000)).modPwr p fun x =>
    { x with reg := some { s.teamReg p with cmd := none, fixed := false } }

section
variable {s : State} {c : Cmd} {auto : Bool} (hp : (!c.mgmt && (s.allotment c.pad).contains (c.u16 0)) = true)
  (hr : (auto || (600 ≤ c.u16 2 && c.u16 2 ≤ 850 && c.u16 2 % 5 = 0)) = true)
  (ht : (!(s.team (c.u16 0)).replacing) = true) (hq : (!(s.rail (s.physOf (c.u16 0) / 42)).quarantined) = true)
include hp hr ht hq

/-- PWR_TEAM_VOLT with AUTO returns a team to its own voltage. -/
theorem State.teamVolt_auto (ha : auto = true) :
    s.teamVolt c auto =
      .ok ((((s.autoTeam (s.physOf (c.u16 0))).retune (s.physOf (c.u16 0))).followRails).ok c) :=
  need_of hp <| need_of hr <| need_of ht <| need_of hq <| if_pos ha

/-- PWR_TEAM_VOLT otherwise commands the team's regulator. -/
theorem State.teamVolt_fixed (ha : ¬auto = true) :
    s.teamVolt c auto = .ok (s.setTeamVolt (s.physOf (c.u16 0)) (c.u16 2) (some c.w) true) :=
  need_of hp <| need_of hr <| need_of ht <| need_of hq <| if_neg ha

end

/-- PWR_RAIL_SET in range and with headroom to the rail's teams commands its regulator. -/
theorem State.pwrRail_ok {s : State} {c : Cmd} {rate : Nat}
    (hr : (railRange (c.u32 0) (c.u32 4) && 500 ≤ rate && rate ≤ 10000) = true)
    (hh : (8 ≤ c.u32 0 || (railTeams (c.u32 0)).all fun p => (s.teamReg p).target + 50 ≤ c.u32 4) = true)
    (hq : (!(s.rail (c.u32 0)).quarantined) = true) :
    s.pwrRail c rate = .ok (s.setRail (c.u32 0) (c.u32 4) rate (some c.w) true) :=
  need_of hr <| need_of hh <| need_of hq rfl

/-- PWR_RATE_LIMIT of a paddock that there is sets its limit. -/
theorem State.rateLimit_ok {s : State} {c : Cmd} {p : Nat} (hr : (900 ≤ c.u32 0 && c.u32 0 ≤ 2100) = true)
    (hp : thas s.paddocks p = true) :
    s.rateLimit c p = .ok ((s.modPaddock p fun k => { k with rateLimit := some (c.u32 0) }).ok c) :=
  need_of hr <| need_of hp rfl

/-- PWR_TELEMETRY with a place for its record takes 15 free values. -/
theorem State.telemetry_ok {s s1 : State} {c : Cmd} {teams : List Nat}
    (h : s.writeBuf c (c.u64 0) (s.powerRecord ++ teams.flatMap s.teamPowerBytes) = .ok s1) :
    s.telemetry c teams = .ok (({ s1 with free := s1.free + 15 } : State).ok c) :=
  bind_of h rfl

/-- Settles O54: each command is ready, its checks pass one after another, and its body succeeds in the branch that the
conditions name. The layouts of the records (log entry 11), the voltages at start (log entry 130) and the free values of
the split of a rail, 15 to a telemetry record (log entry 134), are the model's choices. -/
theorem powerCommands : Obligations.PowerCommands := by
  refine ⟨?capSet, ?capSetExpert, ?teamVolt, ?teamVoltExpertAuto, ?teamVoltExpert, ?railSet, ?railSetExpert, ?rateLimit,
    ?rateLimitExpert, ?telemetry, ?telemetryExpert, ?ceiling, ?ceilingExpert, ?thermal, ?thermalExpert⟩
  case capSet =>
    intro z wid c h s noExc hm hr
    exact run_ok h (State.capSet_ok hm hr)
  case capSetExpert =>
    intro z wid c h s noExc hm hr
    exact run_ok h (State.capSet_ok hm hr)
  case teamVolt =>
    intro z wid c h s auto p1 l v hp hr ht p hq
    exact run_ok h (State.teamVolt_fixed hp hr ht hq Bool.false_ne_true)
  case teamVoltExpertAuto =>
    intro z wid c h s auto p1 l v hp hr ht p hq ha g s1 s2
    exact run_ok h (State.teamVolt_auto hp hr ht hq ha)
  case teamVoltExpert =>
    intro z wid c h s auto p1 l v hp hr ht p hq ha
    exact run_ok h (State.teamVolt_fixed hp hr ht hq ha)
  case railSet =>
    intro z wid c h s rate p1 r v hr hh hq
    exact run_ok h (State.pwrRail_ok hr hh hq)
  case railSetExpert =>
    intro z wid c h s rate p1 r v hr hh hq
    exact run_ok h (State.pwrRail_ok hr hh hq)
  case rateLimit =>
    intro z wid c h s hm p v hr hp
    exact run_ok h (need_of hm (State.rateLimit_ok hr hp))
  case rateLimitExpert =>
    intro z wid c h s hm p v hr hp
    exact run_ok h (need_of hm (State.rateLimit_ok hr hp))
  case telemetry =>
    intro z wid c h s teams s1 hw
    exact run_ok h (State.telemetry_ok hw)
  case telemetryExpert =>
    intro z wid c h s teams s1 hw
    exact run_ok h (State.telemetry_ok hw)
  case ceiling =>
    intro z wid c h s p hp s1 hw s2
    exact run_ok h (need_of (decide_eq_true hp) (bind_of hw rfl))
  case ceilingExpert =>
    intro z wid c h s hm s1 hw s2
    exact run_ok h (need_of hm (bind_of hw rfl))
  case thermal =>
    intro z wid c h s s1 hw s2
    exact run_ok h (bind_of hw rfl)
  case thermalExpert =>
    intro z wid c h s hm hr s1 hw s2
    exact run_ok h (need_of hm (need_of hr (bind_of hw rfl)))

end Sys2Proof.Machine
end

section
/-! The events of the cap loop, regulators, rails and droop (R462, R470, R471, R473, R474, R476, R477, R484): each event
in the branch that its conditions name. -/

namespace Sys2Proof.Machine

/-! ### AVSBus violations (R484) -/

/-- The violations of a rail's regulator within the last second, with the present one. -/
def State.violsNow (s : State) (r : Nat) : List Nat := s.t :: (s.rail r).violTimes.filter fun u => s.t < u + secNs

/-- The state in which a violation is counted and logged, and its frame is sent again or its commands end. -/
def State.violated (s : State) (r n : Nat) : State :=
  let s1 := (s.countPwr 7).logEv evAvsViolation 0xFF#8 stAvsProtocol r 0#64
    (leBytes 2 (avsPlace r).1 ++ leBytes 2 (avsPlace r).2 ++ leBytes 4 n)
  let tries := (s1.rail r).retries
  let s2 := s1.modRail r fun x => { x with
    violTimes := s.violsNow r, retries := if n ≤ 3 && tries < 3 then tries + 1 else 0 }
  if n = 4 then s2.avsSend r 0 (s2.railReg r).target
  else if n = 5 then s2
  else if tries < 3 then
    match (s2.rail r).last with
    | some f => s2.avsSend r f.1 f.2
    | none => s2
  else s2.avsFail r

/-- The state in which a regulator is quarantined. -/
def State.regQuarantined (s : State) (r : Nat) : State :=
  (((s.avsFail r).modRail r fun x => { x with quarantined := true }).logEv evAvsQuarantine 0xFF#8 stAvsProtocol r).checkDegraded

section
variable {s : State} {r n : Nat} (h : ¬(!railAvs r || (s.rail r).quarantined) = true)
include h

/-- Below 32 violations within a second the regulator stays in use. -/
theorem State.avsViolation_few (hn : (s.violsNow r).length < 32) : s.avsViolation r n = s.violated r n :=
  (if_neg h).trans (if_pos hn)

/-- The violation that makes them 32 quarantines it. -/
theorem State.avsViolation_many (hn : ¬(s.violsNow r).length < 32) :
    s.avsViolation r n = (s.violated r n).regQuarantined r :=
  (if_neg h).trans (if_neg hn)

end

/-! ### Holds (R477) -/

/-- The state at the time at which a team's hold since `u` is too long. -/
def State.holdOverdue (s : State) (team u : Nat) : State :=
  s.reach (u + min 100000 (msNs - sumNat (((s.teamPwr team).holds.filter fun h => s.t < h.1 + 100 * msNs).map (·.2))))

/-- What a hold that is too long does to its team: the exception on the task that it runs, else the team fails. -/
def State.holdRaised (s : State) (team : Nat) : State :=
  match s.physState team, s.logicalOf team with
  | .mapped, some l =>
    match s.activeOn l with
    | some (w, _, rank) => s.raise w rank 0 0x13 0
    | none => s.failTeam l []
  | .spare, _ => s.modPhys team fun x => { x with state := some .failed, fieldDue := some s.t }
  | _, _ => s

/-- A mapped team that runs a task takes the exception. -/
theorem State.holdRaised_task {s : State} {team l rank : Nat} {w : BitVec 64} {x : Task}
    (hp : s.physState team = .mapped) (hl : s.logicalOf team = some l) (ha : s.activeOn l = some (w, x, rank)) :
    s.holdRaised team = s.raise w rank 0 0x13 0 := by simp only [State.holdRaised, hp, hl, ha]

/-- A mapped team that runs none fails. -/
theorem State.holdRaised_idle {s : State} {team l : Nat} (hp : s.physState team = .mapped)
    (hl : s.logicalOf team = some l) (ha : s.activeOn l = none) : s.holdRaised team = s.failTeam l [] := by
  simp only [State.holdRaised, hp, hl, ha]

/-- A spare fails and is due its field test. -/
theorem State.holdRaised_spare {s : State} {team : Nat} (hp : s.physState team = .spare) :
    s.holdRaised team = s.modPhys team fun x => { x with state := some .failed, fieldDue := some s.t } := by
  simp only [State.holdRaised, hp]

/-- SUPPLY_HOLD on a rail without a fault raises the hold when it is too long. -/
theorem exec_supplyHold {s : State} {team u : Nat} (hu : (s.teamPwr team).hold = some u)
    (hf : ¬((s.rail (team / 42)).fault.isSome || (s.rail (team / 42)).out) = true) :
    exec (.supplyHold team) s = .next ((s.holdOverdue team u).holdRaised team).settle := by
  refine event_eq ?_
  rw [hu]
  exact if_neg hf

/-! ### The events -/

/-- Settles O55: each event takes the branch that its conditions name. The average and the excursions of the cap loop
(log entry 131) and the frame that a retry sends again (log entry 135) are the model's choices. -/
theorem supplyEvents : Obligations.SupplyEvents := by
  refine ⟨?period, ?duration, ?reached, ?teamReached, ?sample, ?railRead, ?violation, ?offTarget, ?onTarget, ?noVolt,
    ?noResponse, ?noResponseMany, ?droop, ?holdEnter, ?holdOver, ?holdRelease, ?holdTask, ?holdIdle, ?holdSpare⟩
  case period =>
    intro z s hr s1 p began e s2 s3 s4 s5
    exact event_eq (if_neg (not_denied hr))
  case duration =>
    intro s u hu hc
    refine event_eq ?_
    rw [hu]
    exact if_neg hc
  case reached =>
    intro rail k s g hk s1 hr
    exact event_eq ((if_neg hk).trans (if_pos hr))
  case teamReached =>
    intro rail k s g hk s1 hr
    exact event_eq ((if_neg hk).trans (if_neg hr))
  case sample =>
    intro currents z s s1
    rfl
  case railRead =>
    intro rail current s hr
    exact event_eq (if_pos hr)
  case violation =>
    intro rail viol volt s hv
    exact event_eq (if_pos hv)
  case offTarget =>
    intro rail viol volt s hv g v hw hd
    subst hw
    exact event_eq ((if_neg hv).trans (if_pos hd))
  case onTarget =>
    intro rail viol volt s hv g v hw hd
    subst hw
    exact event_eq ((if_neg hv).trans (if_neg hd))
  case noVolt =>
    intro rail viol volt s hv hw
    subst hw
    exact event_eq (if_neg hv)
  case noResponse =>
    intro rail z s r n hr recent p1 i k s1 tries s2 s3 hn
    exact event_eq (State.avsViolation_few hr hn)
  case noResponseMany =>
    intro rail z s r n hr recent p1 i k s1 tries s2 s3 hn s4
    exact event_eq (State.avsViolation_many hr hn)
  case droop =>
    intro team s ht
    exact event_eq (if_pos ht)
  case holdEnter =>
    intro team s ht
    exact event_eq (if_pos ht)
  case holdOver =>
    intro team z s u hu s1 r hf
    refine event_eq ?_
    rw [hu]
    exact if_pos hf
  case holdRelease =>
    intro team z s u hu s1 r hf
    refine event_eq ?_
    rw [hu]
    exact if_neg hf
  case holdTask =>
    intro team z s u hu hf past s1 hp l hl w rank x ha
    exact exec_of_eq (exec_supplyHold hu hf) (State.holdRaised_task hp hl ha)
  case holdIdle =>
    intro team z s u hu hf past s1 hp l hl ha
    exact exec_of_eq (exec_supplyHold hu hf) (State.holdRaised_idle hp hl ha)
  case holdSpare =>
    intro team z s u hu hf past s1 hp
    exact exec_of_eq (exec_supplyHold hu hf) (State.holdRaised_spare hp)

end Sys2Proof.Machine
end

section
/-! The events of rail faults, temperature and ageing (R467, R478 to R481): each event in the branch that its conditions
name. -/

namespace Sys2Proof.Machine

/-! ### A rail that is lost (R478) -/

/-- The tasks with a team on a rail that have not ended. -/
def State.railTasks (s : State) (rail : Nat) : List (BitVec 64 × Task) :=
  s.tasks.filter fun e => !e.2.state.final && e.2.teams.any fun l => s.physOf l / 42 = rail

/-- The state in which a rail's tasks fail and its teams are out of service. -/
def State.railLost (s : State) (rail : Nat) : State :=
  (((s.railTasks rail).foldl (fun s e => s.finishTask e.1 .failed stRailFault 0#32) s).modRail rail fun x =>
    { x with fault := none, out := true }).checkDegraded

/-- A rail with teams in HOLD 10 ms after its fault was declared is lost. -/
theorem exec_railFaultTimeout {s : State} {rail u : Nat} (hu : (s.rail rail).fault = some u)
    (hh : ¬(s.holding rail).isEmpty = true) :
    exec (.railFaultTimeout rail) s = .next ((s.reach (u + 10 * msNs)).railLost rail).settle := by
  refine event_eq ?_
  rw [hu]
  exact if_neg hh

/-! ### The thermal clamp (R479) -/

/-- The state in which the thermal clamp is on and counted. -/
def State.thermClamped (s : State) : State :=
  ({ s with power := { s.power with thermClamp := true } } : State).countPwr 1

/-- 100 us of a junction at 108 degC or more turn the clamp on. -/
theorem exec_thermalClamp {s : State} {u : Nat} (hu : s.power.hotSince = some u) (hc : ¬s.power.thermClamp = true) :
    exec .thermalClamp s = .next (s.reach (u + 100000)).thermClamped.settle := by
  refine event_eq ?_
  rw [hu]
  exact if_neg hc

/-! ### The events -/

/-- Settles O56: each event takes the branch that its conditions name. The steps of throttling (log entry 131), the end
of a rail's tasks and of a trip (log entry 132) and the ageing of a ceiling record (log entry 133) are the model's
choices. -/
theorem railAndThermalEvents : Obligations.RailAndThermalEvents := by
  refine ⟨?faultWarm, ?faultQuarantined, ?fault, ?faultTimeout, ?restored, ?teamHot, ?team, ?basinDie, ?ioDie, ?hbm,
    ?nvw, ?rail, ?throttleDown, ?throttleUp, ?clamp, ?trip, ?replica, ?ageing⟩
  case faultWarm =>
    intro rail reported z s starts declared hf s1 s2 hr
    exact event_eq ((if_neg hf).trans (if_pos hr))
  case faultQuarantined =>
    intro rail reported z s starts declared hf s1 s2 hr s3 hq
    exact event_eq ((if_neg hf).trans ((if_neg hr).trans (if_pos hq)))
  case fault =>
    intro rail reported z s starts declared hf s1 s2 hr s3 hq
    exact event_eq ((if_neg hf).trans ((if_neg hr).trans (if_neg hq)))
  case faultTimeout =>
    intro rail z s u hu hh s1 hit s2
    exact exec_railFaultTimeout hu hh
  case restored =>
    intro rail s ho
    exact event_eq (if_pos ho)
  case teamHot =>
    intro kind k temp z s h0 s1 hh
    exact event_eq ((if_pos h0).trans (if_pos hh))
  case team =>
    intro kind k temp z s h0 s1 hh
    exact event_eq ((if_pos h0).trans (if_neg hh))
  case basinDie =>
    intro kind k temp s h0 h1
    exact event_eq ((if_neg h0).trans (if_pos h1))
  case ioDie =>
    intro kind k temp s h0 h1 h2
    exact event_eq ((if_neg h0).trans ((if_neg h1).trans (if_pos h2)))
  case hbm =>
    intro kind k temp s h0 h1 h2 h3
    exact event_eq ((if_neg h0).trans ((if_neg h1).trans ((if_neg h2).trans (if_pos h3))))
  case nvw =>
    intro kind k temp s h0 h1 h2 h3 h4
    exact event_eq ((if_neg h0).trans ((if_neg h1).trans ((if_neg h2).trans ((if_neg h3).trans (if_pos h4)))))
  case rail =>
    intro kind k temp s h0 h1 h2 h3 h4 h5
    exact event_eq ((if_neg h0).trans ((if_neg h1).trans ((if_neg h2).trans ((if_neg h3).trans
      ((if_neg h4).trans (if_pos h5))))))
  case throttleDown =>
    intro team z s ht x hh s1
    exact event_eq ((if_neg ht).trans (if_pos hh))
  case throttleUp =>
    intro team z s ht x hh hc s1
    exact event_eq ((if_neg ht).trans ((if_neg hh).trans (if_pos hc)))
  case clamp =>
    intro z s u hu hc s1
    exact exec_thermalClamp hu hc
  case trip =>
    intro z s hot ht s1 regs s2
    exact event_eq (if_neg ht)
  case replica =>
    intro team slow s ht
    exact event_eq (if_pos ht)
  case ageing =>
    intro team s ht
    exact event_eq (if_neg ht)

end Sys2Proof.Machine
end

section
/-! The self-test and margin commands (R489, R490, R498 to R500, R505): the equation of the body that the two levels of
a command share, where its checks pass. -/

namespace Sys2Proof.Machine

/-! ### Test runs (R489, R490, R500, R505) -/

/-- The state in which a test run stands behind those before it. -/
def State.addRun (s : State) (r : TestRun) : State := { s with farrier := { s.farrier with runs := s.farrier.runs ++ [r] } }

/-- The indices of a run. -/
def runIndices (first count : Nat) : List Nat := (List.range count).map fun i => first + i

/-- SELF_TEST_RUN of indices that may be tested, with a place for its records, begins the run. -/
theorem State.testRun_ok {s : State} {c : Cmd} {d first count seed buf : Nat} {repair basic : Bool} {x : Loc}
    (hm : c.mgmt = true) (hr : (d < 6 && 1 ≤ count && first + count ≤ domainSize d) = true)
    (hf : ¬(d = 2 && !s.part.pstate.full) = true)
    (ht : ((runIndices first count).all fun i => s.testable d i) = true)
    (hx : s.resolve c buf (32 * count) true = .ok x) :
    s.testRun c d first count repair seed buf basic =
      .ok (s.addRun (newRun c.w d first (runIndices first count) repair (BitVec.ofNat 64 seed) (BitVec.ofNat 64 buf)
        basic)) :=
  need_of hm <| need_of hr <| (if_neg hf).trans <| need_of ht <| bind_of hx rfl

/-- SELF_TEST_STOP of a run of the management session cancels it. -/
theorem State.testStop_ok {s : State} {c : Cmd} {r : TestRun} (hm : c.mgmt = true)
    (hr : (s.farrier.runs.find? fun (r : TestRun) =>
      r.wid = BitVec.ofNat 64 (c.u64 0) && r.restore.isNone && BitVec.ofNat 64 (c.u64 0) != 0#64) = some r) :
    s.testStop c = .ok ((s.stopRun r stCancelled).ok c) := by
  refine need_of hm ?_
  dsimp only
  rw [hr]

/-- SELF_CHANNEL_RESTORE of a mapped-out channel begins its test. -/
theorem State.channelRestore_ok {s : State} {c : Cmd} {soft : Bool} (hm : c.mgmt = true) (hr : c.u32 0 < 384)
    (hf : s.part.pstate.full = true) (ht : ((s.hbm.chan (c.u32 0)).mapped && s.testable 2 (c.u32 0)) = true) :
    s.channelRestore c soft =
      .ok (s.addRun { newRun c.w 2 (c.u32 0) [c.u32 0] true 0#64 0#64 true with
        restore := some (c.u32 0), soft := soft }) :=
  need_of hm <| need_of (decide_eq_true hr) <| (if_neg (not_denied hf)).trans <| need_of ht rfl

/-! ### Margining (R498, R499) -/

/-- The state in which a margining sweep stands behind those before it. -/
def State.addMargin (s : State) (m : Margin) : State :=
  { s with farrier := { s.farrier with margins := s.farrier.margins ++ [m] } }

/-- The sweep that a command begins. -/
def newMargin (c : Cmd) (kind index buf lanes volt : Nat) : Margin :=
  { wid := c.w, kind := kind, index := index, buf := BitVec.ofNat 64 buf, lanes := BitVec.ofNat 16 lanes, volt := volt }

/-- A sweep with a place for its record begins. -/
theorem State.startMargin_ok {s : State} {c : Cmd} {kind index buf lanes volt n : Nat} {x : Loc}
    (h : s.resolve c buf n true = .ok x) :
    s.startMargin c kind index buf lanes volt n = .ok (s.addMargin (newMargin c kind index buf lanes volt)) :=
  bind_of h rfl

/-- SELF_MARGIN_HBM of a channel that may be tested begins its sweep. -/
theorem State.marginHbm_ok {s : State} {c : Cmd} {dirs : Nat} {x : Loc} (hm : c.mgmt = true)
    (hr : (c.u32 0 < 384 && dirs != 0) = true) (hf : s.part.pstate.full = true) (ht : s.testable 2 (c.u32 0) = true)
    (hx : s.resolve c (c.u64 4) 64 true = .ok x) :
    s.marginHbm c dirs = .ok (s.addMargin (newMargin c 0 (c.u32 0) (c.u64 4) dirs 0)) :=
  need_of hm <| need_of hr <| (if_neg (not_denied hf)).trans <| need_of ht <| State.startMargin_ok hx

/-- The lanes that SELF_MARGIN_LANE sweeps, every lane of the port without a mask. -/
def State.sweptLanes (s : State) (c : Cmd) (mask : Option Nat) : Nat :=
  mask.getD (2 ^ s.lanesOf (c.u32 0 / 256) (c.u32 0 % 256) - 1)

/-- Whether the lanes and the error ratio that SELF_MARGIN_LANE names are in range. -/
def State.lanesFit (s : State) (c : Cmd) (mask : Option Nat) (ratio : Nat) : Bool :=
  s.lanesOf (c.u32 0 / 256) (c.u32 0 % 256) != 0 && s.sweptLanes c mask != 0 &&
    s.sweptLanes c mask < 2 ^ s.lanesOf (c.u32 0 / 256) (c.u32 0 % 256) && 4 ≤ ratio && ratio ≤ 12

/-- SELF_MARGIN_LANE of lanes that the host does not margin begins their sweep. -/
theorem State.marginLane_ok {s : State} {c : Cmd} {mask : Option Nat} {ratio : Nat} {x : Loc} (hm : c.mgmt = true)
    (hr : s.lanesFit c mask ratio = true)
    (hh : (c.u32 0 / 256 != 1 || !(s.farrier.hostMargin.any fun (e : Nat × Nat) =>
      (maskLanes (s.sweptLanes c mask)).contains e.2)) = true)
    (hx : s.resolve c (c.u64 4) (16 * (maskLanes (s.sweptLanes c mask)).length) true = .ok x) :
    s.marginLane c mask ratio = .ok (s.addMargin (newMargin c 1 (c.u32 0) (c.u64 4) (s.sweptLanes c mask) 0)) :=
  need_of hm <| need_of hr <| need_of hh <| State.startMargin_ok hx

/-- SELF_MARGIN_TEAM of a team that may be tested begins its sweep. -/
theorem State.marginTeam_ok {s : State} {c : Cmd} {volt : Nat} {x : Loc} (hm : c.mgmt = true)
    (hr : (c.u32 0 < 336 && (volt = 0 || (600 ≤ volt && volt ≤ 850 && volt % 5 = 0))) = true)
    (ht : s.testable 0 (c.u32 0) = true) (hx : s.resolve c (c.u64 4) 16 true = .ok x) :
    s.marginTeam c volt = .ok (s.addMargin (newMargin c 2 (c.u32 0) (c.u64 4) 0 volt)) :=
  need_of hm <| need_of hr <| need_of ht <| State.startMargin_ok hx

/-! ### The part identifier (R505) -/

/-- SELF_PART_ID_SET of an identifier that may be installed records it in Kryto. -/
theorem State.partIdSet_ok {s : State} {c : Cmd} {change : Bool} (hm : c.mgmt = true)
    (hv : (c.u16 0 != 0xFFFF && (change || s.kryto.partIdNv.isNone)) = true) :
    s.partIdSet c change =
      .ok (({ s with kryto := { s.kryto with partIdNv := some (BitVec.ofNat 16 (c.u16 0)) } } : State).ok c) :=
  need_of hm <| need_of hv rfl

/-! ### The commands -/

/-- Settles O57: each command is ready, its checks pass one after another, and its body succeeds in the branch that the
conditions name. The layout of the repair records (log entry 11) and the status of indices that may not be tested (log
entry 136) are the model's choices. -/
theorem selfTestCommands : Obligations.SelfTestCommands := by
  refine ⟨?run, ?runExpert, ?stop, ?stopExpert, ?query, ?queryExpert, ?restore, ?restoreExpert, ?hbm, ?hbmExpert, ?lane,
    ?laneExpert, ?team, ?teamExpert, ?partId, ?partIdExpert⟩
  case run =>
    intro z wid c h s d first count repair seed buf basic hm hr hf is ht x hx
    exact run_ok h (State.testRun_ok hm hr hf ht hx)
  case runExpert =>
    intro z wid c h s d first count repair seed buf basic hm hr hf is ht x hx
    exact run_ok h (State.testRun_ok hm hr hf ht hx)
  case stop =>
    intro z wid c h s hm w r hr r1
    exact run_ok h (State.testStop_ok hm hr)
  case stopExpert =>
    intro z wid c h s s1 hm w r hr r1
    exact run_ok h (State.testStop_ok hm hr)
  case query =>
    intro z wid c h s hm s1 hw
    exact run_ok h (need_of hm (bind_of hw rfl))
  case queryExpert =>
    intro z wid c h s hm d hd reps s1 hw
    exact run_ok h (need_of hm (need_of (decide_eq_true hd) (bind_of hw rfl)))
  case restore =>
    intro z wid c h s soft hm ch hr hf ht
    exact run_ok h (State.channelRestore_ok hm hr hf ht)
  case restoreExpert =>
    intro z wid c h s soft hm ch hr hf ht
    exact run_ok h (State.channelRestore_ok hm hr hf ht)
  case hbm =>
    intro z wid c h s dirs hm hr hf ht kind index buf lanes volt n x hx
    exact run_ok h (State.marginHbm_ok hm hr hf ht hx)
  case hbmExpert =>
    intro z wid c h s dirs hm hr hf ht kind index buf lanes volt n x hx
    exact run_ok h (State.marginHbm_ok hm hr hf ht hx)
  case lane =>
    intro z wid c h s mask ratio hm p1 iface port n m hr hh kind index buf lanes volt n1 x hx
    exact run_ok h (State.marginLane_ok (mask := none) hm hr hh hx)
  case laneExpert =>
    intro z wid c h s mask ratio hm p1 iface port n m hr hh kind index buf lanes volt n1 x hx
    exact run_ok h (State.marginLane_ok (mask := some (c.u16 12)) hm hr hh hx)
  case team =>
    intro z wid c h s volt hm hr ht kind index buf lanes n x hx
    exact run_ok h (State.marginTeam_ok hm hr ht hx)
  case teamExpert =>
    intro z wid c h s hv volt hm hr ht kind index buf lanes n x hx
    exact run_ok h (need_of hv (State.marginTeam_ok hm hr ht hx))
  case partId =>
    intro z wid c h s change hm v hv
    exact run_ok h (State.partIdSet_ok hm hv)
  case partIdExpert =>
    intro z wid c h s change hm v hv
    exact run_ok h (State.partIdSet_ok hm hv)

end Sys2Proof.Machine
end

section
/-! The events of test results, field tests and margining (R492, R495, R497, R498): each event in the branch that its
conditions name. -/

namespace Sys2Proof.Machine

/-! ### A test result (R489 to R495) -/

/-- The rows that a run counts as repaired. -/
def TestRun.repaired (r : TestRun) (repairs : Nat) : Nat := if r.repair && r.domain ≤ 2 then repairs else 0

/-- The result code of an index of a run. -/
def TestRun.code (r : TestRun) (sig : BitVec 64) (errors : Bool) (repairs : Nat) : Nat :=
  testResult r.domain r.seed sig errors (r.repaired repairs)

/-- The record of an index of a run. -/
def TestRun.record (r : TestRun) (sig : BitVec 64) (errors : Bool) (repairs ceiling dur : Nat) : TestRec :=
  { result := BitVec.ofNat 8 (r.code sig errors repairs), signature := sig
    expected := if r.seed = 0#64 then Config.signature r.domain else 0#64
    repairs := BitVec.ofNat 16 (r.repaired repairs), ceiling := if r.domain = 0 then BitVec.ofNat 16 ceiling else 0#16
    duration := BitVec.ofNat 32 dur }

/-- A run once an index is done with a result code. -/
def TestRun.without (r : TestRun) (index res : Nat) : TestRun :=
  { r with left := r.left.filter fun x => x != index, done := r.done ++ [index]
           failed := if res = 1 then r.failed + 1 else r.failed }

/-- The state in which an index's record, its run, its repairs and its failure are entered. -/
def State.resultEntered (s : State) (w : BitVec 64) (index : Nat) (r : TestRun) (sig : BitVec 64) (errors : Bool)
    (repairs ceiling dur : Nat) : State :=
  let s := if r.domain = 0 then s.wipeScratch index else s
  let s := (s.putRec r.domain index (r.record sig errors repairs ceiling dur)).modRun w index fun _ =>
    r.without index (r.code sig errors repairs)
  let s := if r.repaired repairs = 0 || r.soft then s
    else { s with kryto := { s.kryto with repairs := s.kryto.repairs ++ [(r.domain, index, r.repaired repairs)] } }
  if r.code sig errors repairs = 1 then
    s.logEv evSelftestFail 0xFF#8 stSelftestFail (testKey r.domain index) w (leBytes 4 repairs)
  else s

/-- The slowdown that a measured ceiling shows, in 0.01 %. -/
def State.slowdown (s : State) (index ceiling : Nat) : Nat :=
  (colAt (s.ceilRec index).ceil70 3 - ceiling) * 10000 / max 1 (colAt (s.ceilRec index).ceil70 3)

/-- The state in which a team's test has lowered its ceiling and decided its fate. -/
def State.teamJudged (s : State) (w : BitVec 64) (index d ceiling res : Nat) : State :=
  let t := if d = 0 && ceiling != 0 && 50 < s.slowdown index ceiling then
      s.lowerCeil index (s.slowdown index ceiling) (s.ceilRec index) else s
  if d = 0 && res != 4 then t.teamFate index (w = 0#64) (res != 1) else t

/-- The state in which a test result has its effects, apart from the end of its run. -/
def State.testTaken (s : State) (w : BitVec 64) (index : Nat) (r : TestRun) (sig : BitVec 64) (errors : Bool)
    (repairs ceiling dur : Nat) : State :=
  (s.resultEntered w index r sig errors repairs ceiling dur).teamJudged w index r.domain ceiling
    (r.code sig errors repairs)

/-- The end of a run after its last index: `r` is the run before it and `r'` after it. -/
def State.runEnded (s : State) (r r' : TestRun) (res : Nat) : State :=
  match r.restore with
  | none => s.endRun r' (if r'.failed = 0 || r.basic then stOk else stSelftestFail)
  | some ch => if res = 1 then s.endRun r' stSelftestFail else (s.restoreChannel ch).endRun r' stOk

/-- A run that restores no channel ends with its own status. -/
theorem State.runEnded_test {s : State} {r r' : TestRun} {res : Nat} (h : r.restore = none) :
    s.runEnded r r' res = s.endRun r' (if r'.failed = 0 || r.basic then stOk else stSelftestFail) := by
  simp only [State.runEnded, h]

/-- A channel that fails its test is not restored. -/
theorem State.runEnded_failed {s : State} {r r' : TestRun} {res ch : Nat} (h : r.restore = some ch) (hr : res = 1) :
    s.runEnded r r' res = s.endRun r' stSelftestFail := by simp only [State.runEnded, h, if_pos hr]

/-- A channel that passes its test is restored. -/
theorem State.runEnded_restored {s : State} {r r' : TestRun} {res ch : Nat} (h : r.restore = some ch)
    (hr : ¬res = 1) : s.runEnded r r' res = (s.restoreChannel ch).endRun r' stOk := by
  simp only [State.runEnded, h, if_neg hr]

section
variable {w : BitVec 64} {index : Nat} {sig : BitVec 64} {errors : Bool} {repairs ceiling dur : Nat} {s : State}
  {r : TestRun} (hr : (s.farrier.runs.find? fun (r : TestRun) => r.wid = w && r.left.contains index) = some r)
  (hd : ¬(r.domain = 0 && !s.teamsTested.contains index) = true)
include hr hd

/-- A result with indices of its run left has its effects alone. -/
theorem exec_testIndexComplete_left (hl : (!(r.without index (r.code sig errors repairs)).left.isEmpty) = true) :
    exec (.testIndexComplete w index sig errors repairs ceiling dur) s =
      .next (s.testTaken w index r sig errors repairs ceiling dur).settle := by
  refine event_eq ?_
  rw [hr]
  exact (if_neg hd).trans (if_pos hl)

/-- The last result of a run ends it. -/
theorem exec_testIndexComplete_last (hl : (r.without index (r.code sig errors repairs)).left.isEmpty = true) :
    exec (.testIndexComplete w index sig errors repairs ceiling dur) s =
      .next ((s.testTaken w index r sig errors repairs ceiling dur).runEnded r
        (r.without index (r.code sig errors repairs)) (r.code sig errors repairs)).settle := by
  refine event_eq ?_
  rw [hr]
  exact (if_neg hd).trans (if_neg (not_denied hl))

end

/-! ### Field tests (R495) -/

section
variable {phys : Nat} {s : State} (h : ¬(336 ≤ phys || !s.part.pstate.running || s.underTest 0 phys) = true)
include h

/-- A failed team that is due its field test begins it. -/
theorem exec_fieldTestStart_failed (hp : s.physState phys = .failed) (hd : (s.physTeam phys).fieldDue.isSome = true) :
    exec (.fieldTestStart phys) s = .next (s.beginField phys).settle := by
  refine event_eq ?_
  rw [if_neg h]
  dsimp only
  rw [hp]
  exact if_pos hd

/-- A spare begins its field test after 24 hours of powered time. -/
theorem exec_fieldTestStart_spare (hp : s.physState phys = .spare) :
    exec (.fieldTestStart phys) s =
      .next ((s.reach ((s.physTeam phys).lastTest + 86400 * secNs)).beginField phys).settle := by
  refine event_eq ?_
  rw [if_neg h]
  dsimp only
  rw [hp]

end

/-! ### The events -/

/-- Settles O58: each event takes the branch that its conditions name. The zeroed scratchpads of a tested team (log entry
8), the fate of a failing team (log entry 136) and the results as operands (log entry 137) are the model's choices. -/
theorem testResultEvents : Obligations.TestResultEvents := by
  refine ⟨?left, ?last, ?lastFailed, ?lastRestored, ?fieldFailed, ?fieldSpare, ?hostEnds, ?hostBegins, ?margined⟩
  case left =>
    intro w index sig errors repairs ceiling dur z s r0 hr r d hd reps res rec0 r1 s1 s2 s3 s4 old slow s5 s6 hl
    exact exec_testIndexComplete_left hr hd hl
  case last =>
    intro w index sig errors repairs ceiling dur z s r0 hr r d hd reps res rec0 r1 s1 s2 s3 s4 old slow s5 s6 hl hn
    exact exec_of_eq (exec_testIndexComplete_last hr hd hl) (State.runEnded_test hn)
  case lastFailed =>
    intro w index sig errors repairs ceiling dur z s r0 hr r d hd reps res rec0 r1 s1 s2 s3 s4 old slow s5 s6 hl ch hc hf
    exact exec_of_eq (exec_testIndexComplete_last hr hd hl) (State.runEnded_failed hc hf)
  case lastRestored =>
    intro w index sig errors repairs ceiling dur z s r0 hr r d hd reps res rec0 r1 s1 s2 s3 s4 old slow s5 s6 hl ch hc hf
    exact exec_of_eq (exec_testIndexComplete_last hr hd hl) (State.runEnded_restored hc hf)
  case fieldFailed =>
    intro phys s h x hp hd
    exact exec_fieldTestStart_failed h hp hd
  case fieldSpare =>
    intro phys s h x hp
    exact exec_fieldTestStart_spare h hp
  case hostEnds =>
    intro lane on z s hl rest s1 ho
    exact event_eq ((if_neg hl).trans (if_pos ho))
  case hostBegins =>
    intro lane on z s hl rest s1 ho hit
    exact event_eq ((if_neg hl).trans (if_neg (not_denied ho)))
  case margined =>
    intro w vals z s m0 hm m s1 s2 s3 s4
    refine event_eq ?_
    rw [hm]

end Sys2Proof.Machine
end

section
/-! The event log (R536, R538): the two branches of an entry, and that waking the commands that wait for events leaves
the log as it is. -/

namespace Sys2Proof.Machine

/-! ### What leaves the log as it is -/

/-- A completion leaves the log as it is. -/
theorem CompletionFrame.log {s t : State} (h : CompletionFrame s t) : t.log = s.log := (congrArg State.log h.rest :)

@[simp] theorem State.complete_log (s : State) (w : BitVec 64) (st : BitVec 16) (res : BitVec 64) (det : BitVec 32) :
    (s.complete w st res det).log = s.log := by
  unfold State.complete
  split
  · rfl
  · extract_lets d u v
    exact ((CompletionFrame.refl v).finishItem _ _ _ _ _ _).log

@[simp] theorem State.putBytes_log (s : State) (a : Nat) (bs : List Byte) : (s.putBytes a bs).log = s.log := by
  induction bs generalizing s a with
  | nil => rfl
  | cons b bs ih => exact ih _ _

@[simp] theorem State.markDirty_log (s : State) (a n : Nat) : (s.markDirty a n).log = s.log := by
  unfold State.markDirty
  split <;> rfl

/-- A fold of changes that leave the log as it is leaves it as it is. -/
theorem foldl_log {α : Type} {f : State → α → State} (h : ∀ t x, (f t x).log = t.log) (l : List α) (s : State) :
    (l.foldl f s).log = s.log :=
  List.foldlRecOn (motive := fun t => t.log = s.log) l f rfl fun t ht x _ => (h t x).trans ht

@[simp] theorem State.clearSector_log (s : State) (a : Nat) : (s.clearSector a).log = s.log := rfl

@[simp] theorem State.store_log (s : State) (a : Nat) (bs : List Byte) : (s.store a bs).log = s.log := by
  have hput : ((s.putBytes a bs).markDirty a bs.length).log = s.log := by simp
  unfold State.store
  extract_lets u
  split
  · exact (foldl_log (fun t l => t.clearLine_log l) _ u).trans hput
  · exact (foldl_log (fun t l => t.clearSector_log l) _ u).trans hput

@[simp] theorem State.wakeWaits_log (s : State) (e : Event) : (s.wakeWaits e).log = s.log := by
  refine foldl_log (fun t x => ?_) _ _
  split
  · split
    · extract_lets fn u
      refine (State.complete_log u _ _ _ _).trans ?_
      unfold u
      split
      · split
        · exact t.store_log _ _
        · rfl
      · rfl
    · rfl
  · rfl

/-! ### The two branches of an entry -/

/-- The events that the log counts in the present second. -/
def State.eventsNow (s : State) : Nat := if s.log.rateSec = s.t / secNs then s.log.rateCnt else 0

section
variable (s : State) (ty : BitVec 16) (alert : Bool) (pad : BitVec 8) (st src : BitVec 16) (w : BitVec 64)
  (det : List Byte)

/-- The entry of an event. -/
def State.newEvent : Event :=
  { entry := s.log.next, time := s.now, typ := ty, alerting := alert, acked := false, paddock := pad, status := st
    source := src, wid := w, detail := det }

/-- Past the rate an event is counted as lost. -/
theorem State.logWith_lost (h : 250000 ≤ s.eventsNow) : (s.logWith ty alert pad st src w det).log =
    { s.log with rateSec := s.t / secNs, rateCnt := s.eventsNow, lost := satAdd 32 s.log.lost 1 } :=
  congrArg State.log (if_pos h)

/-- Below the rate an event is entered. -/
theorem State.logWith_entered (h : ¬250000 ≤ s.eventsNow) : (s.logWith ty alert pad st src w det).log =
    { s.log with
      entries :=
        if 65536 < (s.log.entries ++ [s.newEvent ty alert pad st src w det]).length then
          (s.log.entries ++ [s.newEvent ty alert pad st src w det]).drop 1
        else s.log.entries ++ [s.newEvent ty alert pad st src w det]
      next := s.log.next + 1#64, rateSec := s.t / secNs, rateCnt := s.eventsNow + 1 } :=
  (congrArg State.log (if_neg h)).trans (State.wakeWaits_log _ _)

end

/-- Settles O14: past the rate the event is counted as lost, and below it the event that is entered is the one of its
operands, after which the commands that it wakes leave the log as it is. That a second is one of the time base (log
entry 178) is the model's choice. -/
theorem eventLogEntersEvents : Obligations.EventLogEntersEvents := by
  intro s ty alert pad st src w det t cnt
  refine ⟨fun h => ?lost, fun h => ⟨s.newEvent ty alert pad st src w det, rfl, rfl, rfl, rfl, rfl, ?entered⟩⟩
  case lost =>
    have ht : t.log = _ := s.logWith_lost ty alert pad st src w det h
    exact ⟨(congrArg EventLog.entries ht :), (congrArg EventLog.next ht :), (congrArg EventLog.lost ht :)⟩
  case entered =>
    have ht : t.log = _ := s.logWith_entered ty alert pad st src w det (Nat.not_le.2 h)
    refine ⟨(congrArg EventLog.next ht :), (congrArg EventLog.lost ht :), (congrArg EventLog.entries ht).trans ?_⟩
    by_cases hlen : s.log.entries.length < 65536
    · exact (if_neg (by simpa using hlen)).trans (if_pos hlen).symm
    · exact (if_pos (by simpa using hlen)).trans (if_neg hlen).symm

end Sys2Proof.Machine
end
